-- ==== Sys2Proof/Word.lean ====
section
/-! DEFINITION. The word types of the device (R5, R16, R32): registers are 64 bits wide, memory is bytes, and a
cache line is 64 bytes. -/
namespace Sys2Proof

/-- A 64-bit register, CSR or phase value. -/
abbrev Word := BitVec 64

/-- One byte of memory. -/
abbrev Byte := BitVec 8

/-- The 64 bytes of a cache line or of a full-line packet, byte 0 in bits 7:0. -/
abbrev Line := BitVec 512

end Sys2Proof
end

