-- ==== Sys2Proof/Syntax.lean ====
section
/-! DEFINITION. The commands of the block, one constructor for each row of the table of operations and events
(spec/opcode_table.json), and the data they carry. -/
namespace Sys2Proof

/-- The initiator of an access to a register or to memory: its world W (R368), its partition and its agent ID (R266). -/
structure Access where
  world : Bool
  part  : Nat
  src   : Nat
  deriving DecidableEq, Repr

/-- The traffic classes (R268). -/
inductive TClass where
  | gt | hp | be | mg
  deriving DecidableEq, Repr

/-- The granted state of a coherent response (R268). -/
inductive Grant where
  | none | e | m | f
  deriving DecidableEq, Repr

/-- The packet opcodes (R269). A value outside the table travels as unknown. -/
inductive Op where
  | rdS | rdX | upgL3 | rdOnce | wrPart | getS | getX | upgHA | getXZ | cboC | cboF | atmH | rdNC | wrNC | rdIO | wrIO
  | snpL | snpLX | invL | snpS | snpX | snpC | inv | rcl
  | evL | evC | rspI | rspS | rspFwdS | rspFwdI | rspWbP | gntX | cmp | wbAck | evAck | cmpAck | cmpIO
  | wbL | wbM | wbC | rspRclD | fwdData | dataE | dataF | dataIO
  | unknown (code : Nat)
  deriving DecidableEq, Repr

/-- A packet: the header of R268, the byte mask and the payload of R267. addr is the byte address of the line. -/
structure Packet where
  op      : Op
  cls     : TClass := .be
  w       : Bool := false
  epoch   : Bool := false
  part    : Nat := 0
  src     : Nat := 0
  dst     : Nat := 0
  tag     : Nat := 0
  addr    : Nat := 0
  poison  : BitVec 2 := 0
  data    : Bool := false
  st      : Grant := .none
  fetch   : Bool := false
  resp    : BitVec 2 := 0
  aux     : BitVec 32 := 0
  mask    : BitVec 64 := 0
  payload : Line := 0
  deriving DecidableEq, Repr

/-- A Paleg cell: the header of R480 and its data. -/
structure PlCell where
  ty     : Nat
  prio   : Bool := false
  w      : Bool := false
  src    : Nat := 0
  dest   : Nat := 0
  hops   : Nat := 0
  tag    : Nat := 0
  addr   : Nat := 0
  len    : Nat := 0
  status : Nat := 0
  poison : BitVec 2 := 0
  mask   : BitVec 64 := 0
  data   : Line := 0
  deriving DecidableEq, Repr

/-- A translated address: the result of the published translation and PMP rules (R96), the PBMT (0 PMA, 1 NC, 2 IO) and
the physical addresses that the page-table walks of both stages read; or the fault they raise. -/
inductive Xlate where
  | ok (pa : Nat) (pbmt : Nat) (walks : List Nat)
  | fault (cause : Nat) (tval : Word)
  deriving DecidableEq, Repr

/-- One memory access of an instruction: its virtual address, its bytes, its translation, and that of its second page when
it crosses a page. -/
structure MemAcc where
  va   : Word
  size : Nat
  x    : Xlate
  x2   : Option Xlate := none
  deriving DecidableEq, Repr

/-- Where a load puts its data: an integer register, a floating-point register, or elements of vector registers, each
named by its register and element number. -/
inductive LoadDst where
  | x (rd : Nat) (signed : Bool)
  | f (rd : Nat)
  | pair (rd : Nat)
  | v (elems : List (Nat × Nat))
  deriving DecidableEq, Repr

/-- An instruction that a hart executes: the hart, its pc, its encoding, its length, and the traffic class of its
requests, for which the spec gives no rule. The fields of an Xzdtime instruction are those of its encoding (R116, R117);
the values that its source registers hold are operands of its row. -/
structure Issue where
  hart : Nat
  pc   : Word
  enc  : BitVec 32 := 0
  len  : Nat := 4
  cls  : TClass := .be
  deriving DecidableEq, Repr

/-- A cache error that an access meets (R166): the array code of R564, the row, the half of the line, and whether it is
uncorrectable. tag: both tag copies are bad. -/
structure CacheErr where
  array : Nat
  row   : Nat := 0
  half  : Nat := 0
  ue    : Bool := false
  tag   : Bool := false
  deriving DecidableEq, Repr

/-- Fail masks of the four lane sets of a bridge (R313, R323): main down, main up, sideband down, sideband up. -/
structure LaneMask where
  md : Nat := 0
  mu : Nat := 0
  sd : Nat := 0
  su : Nat := 0
  deriving DecidableEq, Repr


/-- A faulty row that an array's start-up self-test (BIST) found: the array and instance by the codes of R564, and the way of
an L3 slice that holds the row (R168). -/
structure BistRow where
  array : Nat
  inst  : Nat
  row   : Nat
  way   : Nat
  deriving DecidableEq, Repr

/-- What a host configuration write does beyond storing its value; where these fields lie in configuration space the PCI
Express specification says. mps and mrrs stand for the Max_Read_Request_Size in bytes. -/
inductive CfgEffect where
  | plain | bme (x : Bool) | vfEnable (x : Bool) | msixEnable (x : Bool) | msixMask (x : Bool) | mrrs (n : Nat) | aspm (l0s l1 : Bool) | flr
  deriving DecidableEq, Repr

/-- What a TLP asks or answers: a memory read or write, a configuration read or write, or a completion. -/
inductive TlpKind where
  | mrd | mwr | crd | cwr | cpl
  deriving DecidableEq, Repr

/-- A TLP of a PCIe port, as far as the spec speaks of it: the link, the endpoint function (none on a root link) or the
requester, the BAR that an inbound request of an endpoint link addresses, the address, the length in bytes, the bytes with
their enables, the tag, the poison mark EP and the completion status: 0 SC, 1 UR, 2 CRS, 4 CA. -/
structure Tlp where
  kind : TlpKind
  link : Nat := 0
  fn   : Option Nat := none
  req  : Nat := 0
  bar  : Nat := 2
  addr : Nat := 0
  len  : Nat := 0
  data : Nat := 0
  be   : Nat := 0
  tag  : Nat := 0
  ep   : Bool := false
  st   : Nat := 0
  deriving DecidableEq, Repr

/-- A phase frame of Paleg (R493). -/
structure PhFrame where
  fseq   : Nat
  node   : Nat
  locked : Nat
  t1     : Word
  d      : Nat
  dvalid : Bool
  count  : List Word
  rate   : List Word
  tod    : List Nat
  todv   : List Bool
  deriving DecidableEq, Repr

/-- A command of the block: a register access, a packet, a message, an event on a pin or inside a unit. The
comment of each constructor gives its row of the table and the rule that governs it. -/
inductive Instr where
  /-- REGISTER_WRITE (R11). A write to an MMIO register field that has no behaviour of its own sets the field according to its access code. -/
  | registerWrite (a : Access) (addr size : Nat) (v : Word)
  /-- CSR_ACCESS (R103). A CSR instruction that has no behaviour of its own reads or writes the CSR, or raises illegal-instruction on a bad address, mode or read-only target. -/
  | csrAccess (i : Issue) (addr op : Nat) (v : Word) (wr : Bool) (rd : Nat)
  /-- PORT_ENABLE (R48). Writing PHE_PORT_CFG.ENABLE from 0 to 1 loads or holds the count and enters LOCKED or ACQUIRE by KIND, or sets CFGERR for an invalid CPC. -/
  | portEnable (a : Access) (n : Nat) (v : Word)
  /-- PORT_DISABLE (R48). Writing PHE_PORT_CFG.ENABLE from 1 to 0 takes the port to OFF with its count held and its rate at 0. -/
  | portDisable (a : Access) (n : Nat) (v : Word)
  /-- RESTART (R48). The RESTART command acts as ENABLE written 0 to 1 from any state except OFF. -/
  | restart (a : Access) (n : Nat)
  /-- FORCE_HOLDOVER (R48). The FORCE_HOLDOVER command moves an enabled port to HOLDOVER and sets LOSS. -/
  | forceHoldover (a : Access) (n : Nat)
  /-- RESYNC (R48). The RESYNC command corrects the latest error by step in HOLD_WAIT, enters LOCKED and sets STEPPED; it is ignored in other states. -/
  | resync (a : Access) (n : Nat)
  /-- PULSE_EDGE (R45). A filtered edge on a pulse or 1PPS port is qualified by the period check or by runs and drives the loop, the lock and the re-lock. -/
  | pulseEdge (n : Nat) (ts : Word) (rising : Bool) (stable : Nat)
  /-- STEP_HOLD_END (R49). A rate-0 hold under a positive step error ends when the reference has advanced by e and the count resumes at the loop rate. -/
  | stepHoldEnd (n : Nat)
  /-- LOSS_WINDOW_EXPIRY (R48). No qualified edge for LOSS_K × PHE_PORT_PERIOD moves LOCKED or HOLD_WAIT to HOLDOVER and sets LOSS. -/
  | lossWindowExpiry (n : Nat)
  /-- HOLDOVER_TO_FREE (R599). The holdover counter reaching HOLD_MAX moves the port to FREE at PHE_PORT_NOMINAL. -/
  | holdoverToFree (n : Nat)
  /-- HOLDOVER_CYCLE_CROSSING (R599). The extrapolated count crossing a cycle boundary increments the holdover counter. -/
  | holdoverCycleCrossing (n : Nat)
  /-- ENCODER_COUNT_EDGE (R52). A counted encoder edge sets the fraction to its boundary, carries the cycle part and updates the rate. -/
  | encoderCountEdge (n : Nat) (ts : Word) (onA rising other : Bool) (stable : Nat)
  /-- ILLEGAL_TRANSITION (R55). A and B changing between two samples sets QERR, counts QERR_CNT and places the encoder in HOLDOVER. -/
  | illegalTransition (n : Nat)
  /-- LINE_FAULT (R588). A phase input held between 0.54 V and 1.26 V for 100 ns is a line fault with the effect of an illegal transition. -/
  | lineFault (n : Nat)
  /-- Z_EDGE (R56). A qualified Z rising edge in LOCKED checks the position, sets ZERR and with Z_SNAP moves the count to the nearest boundary. -/
  | zEdge (n stable : Nat)
  /-- TOD_ARM (R57). A write to PHE_PORT_TOD with ARM set stores the seconds of the next pulse for application. -/
  | todArm (a : Access) (n : Nat) (v : Word)
  /-- PHASE_BROADCAST (R59). Every 8 PHS cycles the PHE sends the timebase and all port counts and rates to each enabled die. -/
  | phaseBroadcast
  /-- PHASE_BROADCAST_RECEIVE (R61). A die replica takes a good broadcast or discards one that fails its CRC, and sets VALID on a good one. -/
  | phaseBroadcastReceive (d : Nat) (good : Bool)
  /-- REPLICA_VALID_LOST (R61). Four consecutive discarded broadcasts clear the replica's VALID and set MISS. -/
  | replicaValidLost (d : Nat)
  /-- CALENDAR_MATCH (R72). An armed entry whose phase the count crosses in an allowed direction fires, is updated and is queued or sent to the pin path. -/
  | calendarMatch (e : Nat)
  /-- CALENDAR_ENABLE (R74). Setting PHE_CAL_CTRL.ENABLE to 1 examines every armed entry and gives one late firing for each entry left behind. -/
  | calendarEnable (a : Access) (v : Word)
  /-- CALENDAR_DISABLE (R74). Clearing PHE_CAL_CTRL.ENABLE stops all matching without remembering crossings. -/
  | calendarDisable (a : Access) (v : Word)
  /-- DUE_QUEUE_SERVICE (R78). Up to eight queued firings per PHS cycle are serviced by priority, match instant and index and sent to their targets. -/
  | dueQueueService
  /-- PENDING_FIRING_ENQUEUE (R79). A firing held while the due queue was full enters it when space frees, late by case 4. -/
  | pendingFiringEnqueue
  /-- CAL_EDIT_READ (R85). The READ edit command copies an entry into the port's staging words. -/
  | calEditRead (a : Access) (k : Nat)
  /-- CAL_EDIT_WRITE (R84). The WRITE edit command checks ownership and target and commits the staged words to an entry. -/
  | calEditWrite (a : Access) (k : Nat)
  /-- CAL_EDIT_DISARM (R85). The DISARM edit command clears VALID in an entry of the partition's own block. -/
  | calEditDisarm (a : Access) (k : Nat)
  /-- CAL_EDIT_DISARM_PURGE (R84). DISARM with PURGE disarms an entry and removes its queued firing not yet serviced. -/
  | calEditDisarmPurge (a : Access) (k : Nat)
  /-- BLOCK_CANCEL (R86). Writing PHE_CAL_BLOCK.ENABLE = 0 requests cancellation of the block and suppresses its firings from then on. -/
  | blockCancel (a : Access) (b : Nat) (v : Word)
  /-- CANCELLATION_START (R86). A waiting block cancellation begins its turn when the previous one ends. -/
  | cancellationStart
  /-- CANCELLATION_DONE (R86). A running cancellation ends after clearing all entries, purging the queue and discarding unplaced pin edges. -/
  | cancellationDone
  /-- BLOCK_ENABLE (R87). Writing PHE_CAL_BLOCK.ENABLE = 1 reopens a cancelled block, or is ignored with CFGERR while its cancellation runs. -/
  | blockEnable (a : Access) (b : Nat) (v : Word)
  /-- TIO_EDGE_PLACE (R90). An accepted edge drives, toggles or pulses the pin latch at its placed instant. -/
  | tioEdgePlace (i : Nat)
  /-- PULSE_TRAILING_EDGE (R90). A pulse returns the pin to its previous level after WIDTH. -/
  | pulseTrailingEdge (i : Nat)
  /-- FORCE_LOW (R91). TIO_PIN_FORCE 0b01 drives the latch low at the next TIO cycle. -/
  | forceLow (a : Access) (i : Nat)
  /-- FORCE_HIGH (R91). TIO_PIN_FORCE 0b10 drives the latch high at the next TIO cycle. -/
  | forceHigh (a : Access) (i : Nat)
  /-- FORCE_TOGGLE (R91). TIO_PIN_FORCE 0b11 toggles the latch at the next TIO cycle. -/
  | forceToggle (a : Access) (i : Nat)
  /-- PIN_MODE_OUTPUT (R602). A TIO_PIN_CFG write that enters an output mode loads the latch with the sampled level and starts the driver. -/
  | pinModeOutput (a : Access) (i : Nat) (v : Word) (level : Bool)
  /-- PIN_MODE_OFF_CAPTURE (R91). Setting MODE to off or capture, or changing PART or WORLD, discards unplaced edges and stops the driver. -/
  | pinModeOffCapture (a : Access) (i : Nat) (v : Word)
  /-- CAPTURE_EDGE (R92). A selected edge on a capture pin records timebase and phase into the FIFO, or counts CAP_LOST. -/
  | captureEdge (i : Nat) (ts : Word) (rising : Bool)
  /-- CAP_TB_READ (R93). A read of TIO_CAP_TB returns and removes the oldest record and loads TIO_CAP_PHASE. -/
  | capTbRead (a : Access) (i : Nat)
  /-- LOAD (R98). A scalar or vector load checks translation, PMP and world, and performs, forwards from the store buffer or faults. lmul is the LMUL of a vector unit-stride load, and 0 for any other. -/
  | load (i : Issue) (dst : LoadDst) (accs : List MemAcc) (lmul : Nat) (ce : Option CacheErr)
  /-- STORE (R201). A scalar or vector store retires into the store buffer, merging only into the youngest entry. -/
  | store (i : Issue) (accs : List MemAcc) (vals : List Nat) (vec : Bool)
  /-- AMO (R189). An AMO runs NEAR, HOME or MEMORY as the region's placement directs, after draining the store buffer. -/
  | amo (i : Issue) (op rd : Nat) (acc : MemAcc) (v : Word)
  /-- LR (R186). LR obtains the line in M at the L2 and holds it for at least 64 CORE cycles. -/
  | lr (i : Issue) (rd : Nat) (acc : MemAcc)
  /-- SC (R187). SC succeeds when the reservation from LR still holds. -/
  | sc (i : Issue) (rd : Nat) (acc : MemAcc) (v : Word)
  /-- CBO_CLEAN (R191). CBO.CLEAN sends CboC and the line stays valid. -/
  | cboClean (i : Issue) (acc : MemAcc)
  /-- CBO_FLUSH (R191). CBO.FLUSH sends CboF. -/
  | cboFlush (i : Issue) (acc : MemAcc)
  /-- CBO_INVAL (R191). CBO.INVAL is performed as CBO.FLUSH. -/
  | cboInval (i : Issue) (acc : MemAcc)
  /-- CBO_ZERO (R191). CBO.ZERO sends GetXZ when the die does not own the line and installs zeros. -/
  | cboZero (i : Issue) (acc : MemAcc)
  /-- FENCE (R209). A FENCE with W or O in its predecessor set drains the store buffer before its successors. -/
  | fence (i : Issue) (pred succ : Nat)
  /-- FENCE_I (R209). FENCE.I drains the store buffer and drops fetched instructions. -/
  | fenceI (i : Issue)
  /-- SFENCE_VMA (R209). SFENCE.VMA, HFENCE.VVMA or HFENCE.GVMA drains the store buffer before acting. -/
  | sfenceVma (i : Issue)
  /-- WFI (R110). WFI with no enabled interrupt pending drains the store buffer and moves the core to WAIT. -/
  | wfi (i : Issue)
  /-- WRS_NTO (R110). WRS.NTO with a valid reservation moves the core to WAIT until the reservation is lost. -/
  | wrsNto (i : Issue)
  /-- WRS_STO (R110). WRS.STO with a valid reservation waits until the reservation is lost or its time-out. -/
  | wrsSto (i : Issue)
  /-- CORE_GATE (R110). GATE_DELAY elapsing in WAIT starts entry to GATED: L1D invalidated, L2 cleaned, clocks stopped, rail to retention. -/
  | coreGate (hart : Nat)
  /-- CORE_WAKE (R110). An enabled interrupt, dispatch, reservation loss or WRS time-out returns a WAIT or GATED core to RUN. -/
  | coreWake (hart : Nat) (timeout : Bool)
  /-- MRET (R381). MRET returns from M-mode, and in the Secure world with NEXT_W = 0 switches to the Open world from the save registers. -/
  | mret (i : Issue)
  /-- XRET (R142). SRET or another xRET returns without changing the world and keeps the Xzdtime state. -/
  | xret (i : Issue) (lvl : Nat)
  /-- TRAP_ENTRY (R211). A taken interrupt or exception drains the store buffer and enters its handler. -/
  | trapEntry (hart : Nat)
  /-- MZDCFG_WRITE (R105). A write to mzdcfg completes older instructions, discards prefetches and takes effect for the next instruction. -/
  | mzdcfgWrite (i : Issue) (v : Word) (rd : Nat)
  /-- SZDTDBASE_WRITE (R136). Any write to szdtdbase sets the descriptor table base and invalidates the task descriptor cache. -/
  | szdtdbaseWrite (i : Issue) (v : Word) (rd : Nat)
  /-- PH_READ (R119). PH.READ returns the replica's count or timebase for SRC, or raises exception 25 without VALID. -/
  | phRead (i : Issue)
  /-- PH_WAIT (R120). PH.WAIT completes at once when the SRC value is not before rs1 and otherwise stalls the hart testing every cycle. -/
  | phWait (i : Issue) (target : Word)
  /-- PH_WAIT_COMPLETE (R121). A stalled PH.WAIT completes when the replica reaches its target and writes the value to rd. -/
  | phWaitComplete (hart : Nat)
  /-- TS_STORE (R123). TS.STORE translates, captures data and phase and allocates a timed store entry, stalling or raising exception 24 when full. -/
  | tsStore (i : Issue) (va : Word) (x : Xlate) (data : Nat) (phase : Word)
  /-- TS_STORE_UNSTALL (R125). A TS.STORE stalled on a full queue proceeds when an entry frees. -/
  | tsStoreUnstall (hart : Nat)
  /-- TS_CANCEL (R131). TS.CANCEL cancels the pending timed store entries of the current world that match its address, or all, and returns the count. -/
  | tsCancelI (i : Issue) (va : Word) (x : Xlate)
  /-- DL_SET (R132). DL.SET arms a deadline monitor with value, SRC and world and clears its MISS. -/
  | dlSet (i : Issue) (v : Word)
  /-- DL_CLR (R132). DL.CLR disarms a monitor and returns its MISS. -/
  | dlClr (i : Issue)
  /-- TK_YIELD (R110). TK.YIELD starts a held dispatch at once or parks the core in the dispatch wait, preloading a descriptor. -/
  | tkYield (i : Issue) (hint : Word) (x : Xlate)
  /-- TK_ARG (R138). TK.ARG returns a value recorded by the last dispatch. -/
  | tkArg (i : Issue)
  /-- LD_PAIR (R141). LD.PAIR loads 16 aligned bytes into an even register pair. -/
  | ldPair (i : Issue) (base : Word) (x : Xlate)
  /-- SD_PAIR (R141). SD.PAIR stores an even register pair as one 16-byte transaction. -/
  | sdPair (i : Issue) (base : Word) (x : Xlate) (lo hi : Word)
  /-- DEADLINE_MISS (R133). An armed monitor whose SRC value passes its deadline, or whose replica loses VALID, sets MISS and clears EN. -/
  | deadlineMiss (hart mon : Nat)
  /-- DISPATCH (R137). A dispatch message starts a task on a parked hart or is held in szdpend. -/
  | dispatch (hart desc : Nat) (arg : BitVec 32) (phase inst : Word) (entry source : Nat) (late w : Bool) (part : Nat) (x : Xlate)
  /-- TIMED_STORE (R127). A timed store message reaches the PHE and becomes pending or is late at once. -/
  | timedStore (hart id : Nat)
  /-- TIMED_STORE_MATCH (R127). A forward crossing of a pending entry's phase, or lateness at a jump or load, matches it for commit or discard. -/
  | timedStoreMatch (hart id : Nat)
  /-- TIMED_STORE_COMMIT_ISSUE (R128). A matched commit takes one of 4 commit slots per PHS cycle and leaves the PHE as an HP write. -/
  | timedStoreCommitIssue
  /-- TIMED_STORE_CANCEL (R131). A timed store cancel message cancels the pending entries of its world that match. -/
  | timedStoreCancel (hart : Nat) (w : Bool) (addr : Option Nat)
  /-- RANGE_CLEAN (R158). The CLEAN range command writes back each dirty line in range. -/
  | rangeClean (a : Access) (eng : Nat)
  /-- RANGE_INVAL (R158). The INVAL range command invalidates each line in range, discarding dirty data. -/
  | rangeInval (a : Access) (eng : Nat)
  /-- RANGE_CLEAN_INVAL (R158). The CLEAN_INVAL range command cleans then invalidates each line in range. -/
  | rangeCleanInval (a : Access) (eng : Nat)
  /-- RANGE_PRELOAD (R158). The PRELOAD range command fills every line in range into the L2 or L3. -/
  | rangePreload (a : Access) (eng : Nat)
  /-- RANGE_COMMAND_DONE (R159). A range command completes and sets DONE and LINES. -/
  | rangeCommandDone (eng : Nat)
  /-- LOCK_RANGE_WRITE (R155). A write to an L2 or L3 lock register takes effect or is refused with CFGERR. -/
  | lockRangeWrite (a : Access) (isL3 : Bool) (idx : Nat) (v : Word)
  /-- CACHE_DISABLE (R163). Clearing an enable bit stops lookups, and for the L2 starts writing back every dirty line. -/
  | cacheDisable (a : Access) (np : Nat) (v : Word)
  /-- L2_DRAIN_COMPLETE (R163). The last writeback of an L2 disable completes the write and clears the core's presence bits. -/
  | l2DrainComplete (np : Nat)
  /-- CACHE_ENABLE (R164). Setting an enable bit resumes lookups without invalidating the array. -/
  | cacheEnable (a : Access) (np : Nat) (v : Word)
  /-- RDS (R180). RdS from a core L2 reaches its L3 slice for a load or fetch miss. -/
  | rdS (p : Packet)
  /-- RDX (R180). RdX from a core L2 asks the slice for the line in M. -/
  | rdX (p : Packet)
  /-- UPG_L3 (R181). Upg from a core L2 asks the slice to upgrade S to M. -/
  | upgL3 (p : Packet)
  /-- RDONCE (R163). RdOnce reads a line once for a core whose L2 is disabled. -/
  | rdOnce (p : Packet)
  /-- WRPART (R163). WrPart writes a partial line into the L3 for a core whose L2 is disabled. -/
  | wrPart (p : Packet)
  /-- WBL (R180). WbL writes back an M line evicted from a core L2. -/
  | wbL (p : Packet)
  /-- EVL (R180). EvL reports eviction of an E or S line and clears the core's presence bit. -/
  | evL (p : Packet)
  /-- SNPL (R180). SnpL asks a core L2 to supply a line and go to S once tenure ends. -/
  | snpL (p : Packet)
  /-- SNPLX (R180). SnpLX asks a core L2 to supply a line and invalidate it once tenure ends. -/
  | snpLX (p : Packet)
  /-- INVL (R180). InvL invalidates an S line in a core L2 and is acknowledged at once. -/
  | invL (p : Packet)
  /-- GETS (R182). GetS asks the home agent for a shared copy. -/
  | getS (p : Packet) (more ue : Bool)
  /-- GETX (R182). GetX asks the home agent for ownership with data. -/
  | getX (p : Packet) (more ue : Bool)
  /-- UPG_HA (R182). Upg from a die asks the home agent to upgrade from SH to EX. -/
  | upgHA (p : Packet) (more ue : Bool)
  /-- GETXZ (R182). GetXZ asks for ownership without data for CBO.ZERO. -/
  | getXZ (p : Packet) (more ue : Bool)
  /-- CBOC (R182). CboC cleans a line at the home agent. -/
  | cboC (p : Packet) (more ue : Bool)
  /-- CBOF (R182). CboF flushes a line from every die to memory. -/
  | cboF (p : Packet) (more ue : Bool)
  /-- ATMH (R189). AtmH performs an atomic at the home agent's atomic unit or the memory controller. -/
  | atmH (p : Packet) (more ue : Bool)
  /-- RDNC (R171). RdNC reads DRAM uncached, resolved against every cached copy. -/
  | rdNC (p : Packet) (more ue : Bool)
  /-- WRNC (R171). WrNC writes 1 to 64 bytes uncached, resolved against every cached copy. -/
  | wrNC (p : Packet) (more ue : Bool)
  /-- WBM (R182). WbM writes back a line that a die evicts in M. -/
  | wbM (p : Packet)
  /-- WBC (R182). WbC answers SnpC with written-back data while the die keeps E. -/
  | wbC (p : Packet)
  /-- EVC (R182). EvC reports a die's eviction of an E, S or F line. -/
  | evC (p : Packet)
  /-- SNPS (R181). SnpS asks a die to forward a line and go S. -/
  | snpS (p : Packet)
  /-- SNPX (R181). SnpX asks a die to forward a line and go I. -/
  | snpX (p : Packet)
  /-- SNPC (R181). SnpC asks a die holding M to write back and keep E. -/
  | snpC (p : Packet)
  /-- INV (R181). Inv invalidates an S or F line in a die. -/
  | inv (p : Packet)
  /-- RCL (R181). Rcl invalidates a line in a die and returns dirty data to the home agent. -/
  | rcl (p : Packet)
  /-- RSPI (R182). RspI reports a snoop done with the die now I. -/
  | rspI (p : Packet)
  /-- RSPS (R182). RspS reports a snoop done with the die now S. -/
  | rspS (p : Packet)
  /-- RSPFWDS (R182). RspFwdS reports data forwarded to the requester, with data when the die was M. -/
  | rspFwdS (p : Packet)
  /-- RSPFWDI (R182). RspFwdI reports data forwarded and the die now I. -/
  | rspFwdI (p : Packet)
  /-- RSPRCLD (R181). RspRclD returns the data of a recalled M line. -/
  | rspRclD (p : Packet)
  /-- RSPWBP (R182). RspWbP reports a writeback pending, and the home agent waits for that die's WbM. -/
  | rspWbP (p : Packet)
  /-- FWDDATA (R181). FwdData delivers forwarded data and granted state to the requesting die. -/
  | fwdData (p : Packet)
  /-- DATAE (R181). DataE grants a line in E from memory or the atomic buffer, and the slice installs it. -/
  | dataE (p : Packet)
  /-- DATAF (R181). DataF grants a line in F. -/
  | dataF (p : Packet)
  /-- GNTX (R181). GntX grants ownership without data. -/
  | gntX (p : Packet)
  /-- CMP (R182). Cmp completes an RdNC, WrNC, CBO or atomic at its requester. -/
  | cmp (p : Packet)
  /-- WBACK (R181). WbAck releases a victim buffer entry after WbM. -/
  | wbAck (p : Packet)
  /-- EVACK (R181). EvAck releases a victim buffer entry after EvC. -/
  | evAck (p : Packet)
  /-- CMPACK (R182). CmpAck closes the home agent transaction and frees waiting requests. -/
  | cmpAck (p : Packet)
  /-- RDIO (R269). RdIO reads PBMT IO memory or MMIO at its target. -/
  | rdIO (p : Packet)
  /-- WRIO (R269). WrIO writes PBMT IO memory or MMIO at its target. -/
  | wrIO (p : Packet)
  /-- CMPIO (R269). CmpIO completes a WrIO at its initiator. -/
  | cmpIO (p : Packet)
  /-- DATAIO (R269). DataIO completes a RdIO with its data. -/
  | dataIO (p : Packet)
  /-- PACKET_UNKNOWN_OPCODE (R269). A packet with an opcode not in the table is discarded and counted in BADPKT. -/
  | packetUnknownOpcode (p : Packet)
  /-- TENURE_END (R186). A core's minimum tenure on a line ends and waiting snoops are answered. -/
  | tenureEnd (np line : Nat)
  /-- DIE_LOST (R196). A die lost without orderly reset is marked ABSENT, its snoops answered by the home agents and its owned lines poisoned. -/
  | dieLost (n : Nat)
  /-- STORE_BUFFER_ENTRY_LEAVE (R204). The oldest store buffer entry leaves when written into an M line, on Cmp, or on its I/O acknowledgement. -/
  | storeBufferEntryLeave (hart : Nat) (ce : Option CacheErr)
  /-- BANK_REFRESH (R224). At the start of bank window w a bank owing refresh is refreshed or postponed, and forced after 8 postponements. -/
  | bankRefresh (k c w : Nat) (owed recentGt : Bool)
  /-- ZQ_CALIBRATION (R225). Every 256 ms ZQ calibration start and latch run at a window start without GT requests. -/
  | zqCalibration (k c : Nat)
  /-- MR4_READ (R225). Every 16 ms the controller reads MR4 and sets the refresh rate and TEMP_RATE. -/
  | mr4Read (k c rate : Nat)
  /-- DQS_OSCILLATOR_READ (R225). Every 64 ms the interval oscillator is read and the write DQ delays adjusted on drift. -/
  | dqsOscillatorRead (k c : Nat) (drift : Bool)
  /-- HP_PROMOTION (R221). A request that has waited 2.56 µs at the controller is raised to HP. -/
  | hpPromotion (addr : Nat)
  /-- DRAM_READ_COMPLETE (R227). A DRAM read finishes its burst and decode and returns data to the home agent. -/
  | dramReadComplete (addr : Nat)
  /-- CREDIT_WRITE (R231). A write to MC_CREDIT or GT_LINES is taken at the next slot boundary or ignored with CFGERR when GT capacity is exceeded. -/
  | creditWrite (a : Access) (k : Nat) (p : Option Nat) (v : Word)
  /-- POWER_DOWN_ENTRY (R234). A sub-channel idle for PD_IDLE DRAM cycles enters power-down. -/
  | powerDownEntry (k c : Nat)
  /-- SELF_REFRESH_ENTRY (R235). At RETAIN entry a controller finishes atomics, drains writes, precharges and enters self-refresh. -/
  | selfRefreshEntry (k : Nat)
  /-- SELF_REFRESH_EXIT (R235). A controller leaves self-refresh through tXSR, ZQ calibration and latch. -/
  | selfRefreshExit (k : Nat)
  /-- DRAM_TRAINING (R236). Each controller trains its sub-channels, retrying up to 3 attempts and marking failures. -/
  | dramTraining (k c fail wrEye rdEye : Nat)
  /-- REGION_WRITE (R240). A write to MC_REGION_BASE or MC_REGION_CODE is checked and reaches every home agent and controller atomically. -/
  | regionWrite (a : Access) (i : Nat) (code : Bool) (v : Word)
  /-- WORLD_WALK_DONE (R373). All 16 directory walks end and WALK_BUSY returns to 0. -/
  | worldWalkDone
  /-- MC_INIT (R251). MC_INIT GO writes zeros and check fields over a valid region, or sets ERR. -/
  | mcInit (a : Access) (v : Word)
  /-- MC_INIT_DONE (R251). INIT completes, clears BUSY and sets DONE. -/
  | mcInitDone
  /-- SCRUB_STEP (R253). Every INTERVAL slot cycles a sub-channel's scrubber reads the next eligible line. -/
  | scrubStep (k c : Nat)
  /-- LEAK (R256). Every LEAK_PERIOD seconds each controller's CE bucket loses one token. -/
  | leak
  /-- RAW_READ (R260). RAW_READ loads a codeword and its stored check field without decoding. -/
  | rawRead (a : Access)
  /-- RAW_WRITE (R260). RAW_WRITE writes data and check field to a codeword without encoding. -/
  | rawWrite (a : Access)
  /-- ENCODE (R260). ENCODE computes the check field of the test data. -/
  | encode (a : Access)
  /-- ENCODE_POISON (R260). ENCODE_POISON computes the poison pattern of the test data. -/
  | encodePoison (a : Access)
  /-- PAGE_RETIRE (R262). Setting MC_RETIRE VALID blocks a page and adds it to RAS_PAGE_HIST. -/
  | pageRetire (a : Access) (i : Nat) (v : Word)
  /-- SLOT_CYCLE_BOUNDARY (R274). The slot counter returns to slot 0, where windows open or close and credits refill. -/
  | slotCycleBoundary
  /-- EPOCH_SWITCH (R284). Writing FAB_EPOCH.SWITCH starts the epoch check of windows, routes and half-width rules. -/
  | epochSwitch (a : Access) (v : Word)
  /-- EPOCH_CHECK_DONE (R284). The epoch check passes, setting PENDING, or fails, setting ERR and FAB_CHECK_INFO. -/
  | epochCheckDone
  /-- EPOCH_TOGGLE (R284). At the next slot-cycle boundary CUR toggles on the IOD and then on each die, and PENDING clears. -/
  | epochToggle
  /-- ROUTE_TABLE_WRITE (R283). A write to FAB_RT_DATA sets a route in the non-current epoch, or is ignored with CFGERR. -/
  | routeTableWrite (a : Access) (v : Word)
  /-- COPY (R283). FAB_RT_CMD COPY copies every current table into the other epoch's tables. -/
  | copy (a : Access) (v : Word)
  /-- COPY_DONE (R283). A route table COPY completes and BUSY clears. -/
  | copyDone
  /-- FABRIC_TIMEOUT (R287). An initiator's request timer expires and it synthesises a RESP = 0b11 response. -/
  | fabricTimeout (src tag : Nat)
  /-- TAG_WITHDRAW (R288). A quarantined tag with no response within 4 × its limit is withdrawn and TAG_LOST incremented. -/
  | tagWithdraw (src tag : Nat)
  /-- BAT_ARM (R295). Writing BAT_CTRL.RUN = 1 arms a bat to wait for its start trigger. -/
  | batArm (a : Access) (i : Nat) (v : Word)
  /-- BAT_STOP (R295). Writing RUN = 0 stops the bat at once. -/
  | batStop (a : Access) (i : Nat) (v : Word)
  /-- BAT_MATCH (R292). A visible flit passing the bat's filter is counted and recorded, or lost when the stage is full. -/
  | batMatch (i : Nat) (p : Packet) (enters : Bool) (waited xfers : Nat)
  /-- BAT_TRIGGER (R296). A calendar trigger arrives at a bat and starts or stops it. -/
  | batTrigger (i entry : Nat)
  /-- BAT_COUNTER_COPY (R294). Every 64 FAB cycles the counters of die bats are copied to the IOD. -/
  | batCounterCopy
  /-- BAT_TRACE_WRITE (R299). The bat block writes each pair of records to DRAM as a WrNC, stopping on full or error. -/
  | batTraceWrite (d : Nat)
  /-- BAT_BUF_READ (R300). A read of BAT_BUF_DATA returns the next trace word and advances RDPTR. -/
  | batBufRead (a : Access) (d : Nat)
  /-- BRIDGE_FRAME_RECEIVE (R307). A bridge receiver accepts a frame by CRC and SEQ or discards it and sends a NAK. -/
  | bridgeFrameReceive (n : Nat) (up crcOk : Bool) (ftype seq : Nat) (ack : Option Nat)
  /-- BRIDGE_NAK (R308). A NAK makes the transmitter replay every buffered flit after ACKSEQ. -/
  | bridgeNak (n : Nat) (up : Bool) (ackseq : Nat)
  /-- SIDEBAND_MESSAGE (R312). A sideband message is accepted or answered with a NAK on CRC failure. -/
  | sidebandMessage (n : Nat) (crcOk : Bool) (ty : Nat)
  /-- SIDEBAND_NAK (R312). A sideband NAK makes the sender repeat the named message. -/
  | sidebandNak (n seq : Nat)
  /-- POWER_COMMAND (R311). A power command message carries a PWC command to a core of the die. -/
  | powerCommand (n pos cmd : Nat)
  /-- POWER_REQUEST (R311). A power request message carries a core's request to PWC. -/
  | powerRequest (n pos req : Nat)
  /-- BRIDGE_TRAIN_START (R316). Die release or RETRAIN_FULL starts forwarded clocks and moves the bridge from DOWN to CLK. -/
  | bridgeTrainStart (n : Nat)
  /-- RETRAIN_FULL (R316). The RETRAIN_FULL command starts a full retrain of the bridge. -/
  | retrainFull (a : Access) (n : Nat) (v : Word)
  /-- RETRAIN_FAST (R316). The RETRAIN_FAST command starts a fast retrain, or a full one without FASTRT. -/
  | retrainFast (a : Access) (n : Nat) (v : Word)
  /-- CLOCK_LOCK (R316). Every clock group locks or fails, and the bridge enters LANETEST. -/
  | clockLock (n down up : Nat) (sbDown sbUp : Bool)
  /-- LANE_TEST_DONE (R316). The PRBS lane test ends and each end adds its failed lanes to its proposal. -/
  | laneTestDone (n : Nat) (bad : LaneMask)
  /-- PROPOSAL_EXCHANGE (R316). The ends exchange proposals and agree, narrow and retest, or fall back to half width. -/
  | proposalExchange (n : Nat)
  /-- ALIGN_DONE (R316). Deskew, latency calibration and slot alignment complete. -/
  | alignDone (n lat skew : Nat) (weak : LaneMask)
  /-- CAPABILITY_EXCHANGE (R321). The ends exchange capability vectors and the bridge becomes ACTIVE or, if not permitted, DOWN. -/
  | capabilityExchange (n : Nat)
  /-- FAST_RETRAIN_DONE (R316). A fast retrain ends in ACTIVE with replay, or in PROPOSE on a new failed lane. -/
  | fastRetrainDone (n : Nat) (bad : LaneMask)
  /-- PROG_WRITE (R325). A write to DE_PROG sets a program word or is refused while a channel whose window holds it runs. -/
  | progWrite (a : Access) (j w : Nat) (v : Word)
  /-- DMA_START (R327). A start from the calendar or DE_CH_CMD runs an idle channel from ENTRY or its descriptor, or sets START_OVR. -/
  | dmaStart (c : Nat) (a : Option Access)
  /-- HALT (R343). HALT waits for the last write, optionally raises the interrupt, and leaves the channel idle. -/
  | halt (c ecc : Nat)
  /-- MOVE (R332). MOVE copies bytes from G[SRC] to G[DST] in ascending order after its checks. -/
  | move (c ecc : Nat)
  /-- MOVE2D (R331). MOVE2D copies ROWS rows with signed strides in ascending row order. -/
  | move2D (c ecc : Nat)
  /-- MOVE_COMPLETE (R332). The last write of a MOVE or MOVE2D leaves the engine, SINC and DINC apply and the next instruction starts. -/
  | moveComplete (c : Nat)
  /-- LOOP (R335). LOOP checks its ENDLOOP and pushes a loop level or skips the body. -/
  | loop (c ecc ecc2 : Nat)
  /-- ENDLOOP (R335). ENDLOOP repeats or pops the top loop level. -/
  | endLoop (c ecc : Nat)
  /-- WAIT (R338). WAIT completes when its event or semaphore condition holds, otherwise the channel enters WAITING. -/
  | wait (c ecc : Nat)
  /-- WAIT_TIMEOUT (R338). A WAIT's time-out expires and the channel faults 0x0D. -/
  | waitTimeout (c : Nat)
  /-- SIGNAL_SEM (R341). SIGNAL SEM adds N to a semaphore of the engine. -/
  | signalSem (c ecc : Nat)
  /-- SIGNAL_EVT (R341). SIGNAL EVT sets an event bit of any channel. -/
  | signalEvt (c ecc : Nat)
  /-- SIGNAL_IRQ (R341). SIGNAL IRQ raises the channel's interrupt with CODE. -/
  | signalIrq (c ecc : Nat)
  /-- SIGNAL_WRITE (R341). SIGNAL WRITE writes an 8-byte value in class HP. -/
  | signalWrite (c ecc : Nat) (x : Xlate)
  /-- FENCE_ACK (R342). FENCE.ACK waits for every write of the channel to be acknowledged, with optional zero-length read flush. -/
  | fenceAck (c ecc : Nat) (xs : List Xlate)
  /-- SETR (R337). SETR loads a general register from an immediate. -/
  | setr (c ecc : Nat)
  /-- ADDR (R337). ADDR adds registers and an immediate with optional wrap. -/
  | addr (c ecc : Nat)
  /-- JUMP (R336). JUMP pops levels and branches by OFF. -/
  | jump (c ecc : Nat)
  /-- BRZ (R336). BRZ optionally decrements a register and branches when it is zero. -/
  | brz (c ecc : Nat)
  /-- DMA_UNBLOCK (R339). A calendar unblock sets a channel's event bit, or sets OVR when already pending. -/
  | dmaUnblock (c evt : Nat)
  /-- PAUSE (R356). The PAUSE command stops new reads and moves the channel to PAUSING or PAUSED. -/
  | pause (a : Access) (c : Nat)
  /-- RESUME (R358). The RESUME command returns a paused or faulted channel to RUNNING at PC. -/
  | resume (a : Access) (c : Nat)
  /-- ABORT (R359). The ABORT command stops all issue and moves the channel to ABORTING. -/
  | abort (a : Access) (c : Nat)
  /-- STOP (R363). The STOP command stops a ZD64 channel at a descriptor boundary, or pauses a native one. -/
  | stop (a : Access) (c : Nat)
  /-- DESCRIPTOR_FETCH (R361). A ZD64 channel reads its next 32-byte descriptor. -/
  | descriptorFetch (c : Nat) (x : Xlate)
  /-- DESCRIPTOR_COMPLETE (R362). A descriptor's move ends, STATUS is written, the interrupt raised and NEXT followed. -/
  | descriptorComplete (c : Nat)
  /-- SECURE_INTERRUPT_ENTRY (R379). A pending Secure interrupt on an Open hart drains, takes the hold, saves state and enters the Secure world at WC_SENTRY. -/
  | secureInterruptEntry (hart : Nat) (fetchFault : Bool)
  /-- SECURE_CALL (R382). Writing WC_CALL.REQ raises the hart's Secure call interrupt. -/
  | secureCall (a : Access) (hart : Nat) (v : Word)
  /-- HELM_DOORBELL (R407). A DOORBELL write submits a mailbox request unless the mailbox is BUSY. -/
  | helmDoorbell (a : Access) (m : Nat) (v : Word)
  /-- PROVISION (R397). PROVISION enters the CMD key and IMAGE digest on a blank package. -/
  | provision (storeFails : Bool)
  /-- DBG_SET (R408). DBG_SET sets and clears debug enables and HELM_DBG. -/
  | helmDbgSet (storeFails : Bool)
  /-- CORE_RETIRE (R408). CORE_RETIRE stores a core retirement that takes effect at the die's next reset. -/
  | coreRetire (storeFails : Bool)
  /-- LANE_COMMIT (R408). LANE_COMMIT adds or removes lanes from a bridge's committed map. -/
  | laneCommit (storeFails : Bool)
  /-- ROW_COMMIT (R408). ROW_COMMIT stores a spare-row assignment applied at every start. -/
  | rowCommit (storeFails : Bool)
  /-- START_CFG (R408). START_CFG stores the number of failed starts before Chimney mode. -/
  | startCfg (storeFails : Bool)
  /-- CHIMNEY_EXIT (R550). CHIMNEY_EXIT clears COUNT and the CHIMNEY flag and performs a hard package reset. -/
  | chimneyExit (storeFails : Bool)
  /-- PKG_RESET (R408). PKG_RESET performs a hard package reset after its response. -/
  | pkgResetCmd (storeFails : Bool)
  /-- IMAGE_KEY_SET (R408). IMAGE_KEY_SET replaces the image key digest in slot 2. -/
  | imageKeySet (storeFails : Bool)
  /-- KEY_ROTATE (R408). KEY_ROTATE replaces the CMD key with a verified encrypted key. -/
  | keyRotate (storeFails : Bool)
  /-- MODE_SET (R412). MODE_SET enters or leaves the approved mode. -/
  | modeSet (storeFails : Bool)
  /-- ZEROIZE (R408). ZEROIZE erases keys, clears PROV and leaves the approved mode. -/
  | zeroize (storeFails : Bool)
  /-- GET_STATUS (R409). GET_STATUS returns Helm status, counter, START_CFG and slot 2. -/
  | helmGetStatus
  /-- GET_DEVICE_ID (R409). GET_DEVICE_ID returns the device ID and FAB_PKG_ID. -/
  | helmGetDeviceId
  /-- GET_ATTEST (R409). GET_ATTEST returns a signed attestation over a nonce and package state. -/
  | helmGetAttest
  /-- GET_REPAIRS (R567). GET_REPAIRS returns up to 32 repair records from an index. -/
  | helmGetRepairs (index : Nat)
  /-- RANDOM (R410). RANDOM returns DRBG output. -/
  | helmRandom (count : Nat)
  /-- SHA384 (R410). SHA384 returns the digest of a DRAM range. -/
  | helmSha384 (src len : Nat)
  /-- HMAC (R410). HMAC returns a tag under a working key slot. -/
  | helmHmac (slot src len : Nat)
  /-- AES_GCM_ENC (R410). AES_GCM_ENC encrypts a DRAM range with its tag. -/
  | helmGcmEnc (slot src dst len iv aad aadLen : Nat)
  /-- AES_GCM_DEC (R410). AES_GCM_DEC decrypts and verifies a DRAM range. -/
  | helmGcmDec (slot src dst len iv aad aadLen : Nat)
  /-- ECDSA_VERIFY (R410). ECDSA_VERIFY checks a signature over a digest. -/
  | helmEcdsaVerify (pub digest sig : Nat)
  /-- KEY_GEN (R410). KEY_GEN places a DRBG key in a slot. -/
  | helmKeyGen (slot : Nat) (hmac : Bool)
  /-- KEY_WRAP (R410). KEY_WRAP writes a wrapped key blob. -/
  | helmKeyWrap (slot dst : Nat)
  /-- KEY_LOAD (R410). KEY_LOAD unwraps a blob into a slot. -/
  | helmKeyLoad (slot blob : Nat) (hmac : Bool)
  /-- KEY_LOAD_PLAIN (R410). KEY_LOAD_PLAIN places a plaintext key in a slot and leaves the approved mode. -/
  | helmKeyLoadPlain (slot key : Nat) (hmac : Bool)
  /-- KEY_ERASE (R410). KEY_ERASE empties a slot. -/
  | helmKeyErase (slot : Nat)
  /-- LOCKOUT_HOLD_END (R405). The 100 ms hold before a tag check under lockout expires and the check proceeds. -/
  | lockoutHoldEnd (storeFails : Bool)
  /-- HELM_SELF_TEST (R414). Helm's power-up self-tests complete and set SELFTEST or the error state. -/
  | helmSelfTest (pass : Bool)
  /-- HELM_TEST_FAILURE (R414). A conditional test failure puts Helm in the error state and erases its key slots. -/
  | helmTestFailure
  /-- HCMD (R503). HCMD cells carry a forwarded Helm command to its target's mailbox 3. -/
  | hcmd (n : Nat)
  /-- HRSP (R503). HRSP cells return a forwarded command's response to the origin mailbox. -/
  | hrsp (n : Nat)
  /-- FORWARD_TIMEOUT (R503). No complete response to a forwarded command within 1 s answers FORWARD. -/
  | forwardTimeout (m : Nat)
  /-- HART_REASSIGN (R420). A write to PQ_HART.PART restarts the hart and assigns it to the new partition, or is ignored with CFGERR. -/
  | hartReassign (a : Access) (h : Nat) (v : Word)
  /-- PARTITION_RESET (R432). PQ_RESET GO starts the reset of a partition's harts, channels, calendar, devices and shares, or is refused. -/
  | partitionReset (a : Access) (p : Nat)
  /-- PARTITION_RESET_DONE (R432). After steps 2 to 6 end the shares are returned and DONE, record and interrupt are produced. -/
  | partitionResetDone (p : Nat)
  /-- VF_BIND (R436). A PQ_VF write binds a virtual function to a partition or is ignored with CFGERR. -/
  | vfBind (a : Access) (p : Nat) (v : Word)
  /-- IOMMU_COMMAND (R424). The IOMMU command queue processes a command of the RISC-V IOMMU specification. -/
  | iommuCommand
  /-- IMSIC_MESSAGE (R439). A setipnum write to an IMSIC file sets a pending bit after the world and partition checks. -/
  | imsicMessage (hart file eiid : Nat) (w : Bool) (part src : Nat)
  /-- WIRED_SOURCE_CHANGE (R442). A wired source level change makes the APLIC send an MSI to its target file. -/
  | wiredSourceChange (n : Nat)
  /-- APLIC_RESEND (R447). When a die reports ON the APLIC resends its repended messages. -/
  | aplicResend (d : Nat)
  /-- OUTBOUND_WINDOW_WRITE (R454). A PE_OWIN write changes a disabled window or is ignored with CFGERR. -/
  | outboundWindowWrite (a : Access) (i word : Nat) (v : Word)
  /-- READ_COMBINE_TIMEOUT (R456). 4 FAB cycles without a further RdIO sends the Memory Read being formed. -/
  | readCombineTimeout (n : Nat)
  /-- PCIE_COMPLETION (R457). A completion received on a link returns data or errors to the RdIOs of its request. -/
  | pcieCompletion (n : Nat) (t : Tlp)
  /-- COMPLETION_TIMEOUT (R457). No completion before the Completion Timeout answers the RdIOs as UR and sets CTO. -/
  | completionTimeout (n link tag : Nat)
  /-- PCIE_ACK (R459). The link partner's Ack DLLP covering a WrIO's TLP returns its CmpIO. -/
  | pcieAck (n link : Nat)
  /-- PCIE_INBOUND_REQUEST (R460). An inbound memory TLP is split into WrNC and RdNC in strict order and completed to the requester. -/
  | pcieInboundRequest (n : Nat) (t : Tlp) (x : Xlate)
  /-- HOST_DOORBELL (R464). A host write to DOORBELL ORs into PE_FN_DOORBELL and notifies the named file. -/
  | hostDoorbell (n f : Nat) (v : Word)
  /-- MSIX_RAISE (R464). A write to PE_FN_MSIX raises MSI-X vector k of the function. -/
  | msixRaise (a : Access) (n f : Nat) (v : Word)
  /-- WINDOW_COMMIT (R466). PE_IWIN_COMMIT GO makes all inbound windows of a function take their shadow values, or sets COMMIT_ERR. -/
  | windowCommit (a : Access) (n f : Nat) (v : Word)
  /-- OLD_MAPPING_DRAINED (R466). The last transaction under the old mapping ends, OLD_BUSY falls and WIN_DONE is set. -/
  | oldMappingDrained (n f : Nat)
  /-- PUBLISH (R467). PUBLISH makes a result mailbox visible to the host or is refused with FULL or LENERR. -/
  | publish (a : Access) (n f m : Nat) (v : Word)
  /-- MAILBOX_ACK (R469). A host header write with ACK and matching SEQ empties the mailbox; any other counts ACK_ERR. -/
  | mailboxAck (n f m : Nat) (v : Word)
  /-- BME_CLEAR (R471). The host clearing Bus Master Enable stops the function's requests and aborts its bound channels. -/
  | bmeClear (n f : Nat)
  /-- FLR (R472). An FLR quiesces the function and resets its mailboxes, doorbell, MSI-X and configuration space. -/
  | flr (n f : Nat)
  /-- FLR_DONE (R473). An FLR completes and BUSY_FLR returns to 0. -/
  | flrDone (n f : Nat)
  /-- LINK_RESET (R474). A hot reset, link down or PERST# on an endpoint link resets every function of the link. -/
  | linkReset (n link : Nat)
  /-- L0S_ENTRY (R475). Transmit idle for L0S_IDLE puts the link in L0s. -/
  | l0sEntry (n link : Nat)
  /-- L1_ENTRY (R475). Transmit idle for L1_IDLE puts the link in L1. -/
  | l1Entry (n link : Nat)
  /-- PCIE_LINK_EVENT (R476). A PCIe link going up or down sets LINK_EV. -/
  | pcieLinkEvent (n link : Nat) (up : Bool)
  /-- PALEG_FLIT_RECEIVE (R481). A Paleg receiver checks a flit's CRC and SEQ, acknowledges, discards or requests replay. -/
  | palegFlitReceive (n : Nat) (crcOk : Bool) (ftype seq : Nat) (ack : Option Nat) (ackFrame turn : Nat) (t : Word) (cells : List PlCell)
  /-- PALEG_NAK (R481). A Paleg NAK replays the buffered flits, and 8 NAKs retrain the port. -/
  | palegNak (n ackseq : Nat)
  /-- PALEG_TRAINING_DONE (R483). Training ends, IDs and roles are exchanged, and the port becomes ACTIVE or sets ROLE_ERR or DUPID. -/
  | palegTrainingDone (n : Nat) (ok : Bool) (id role : Nat)
  /-- RETRAIN (R477). The RETRAIN command trains a Paleg link again. -/
  | retrain (a : Access) (n : Nat) (v : Word)
  /-- WR (R489). An inbound WR cell is checked against the inbound windows and written. -/
  | wr (n : Nat) (x : Xlate)
  /-- RD (R489). An inbound RD cell is checked and read, and an RDRSP returned. -/
  | rd (n : Nat) (x : Xlate)
  /-- RDRSP (R488). An RDRSP returns data or status to its RdIO. -/
  | rdRsp (n : Nat)
  /-- MSG (R491). A message delivered locally is handled by PL_MSG_MAP. -/
  | msg (n : Nat)
  /-- PALEG_READ_TIMEOUT (R488). No RDRSP within PL_CTRL.CTO answers the RdIO with RESP = 0b10. -/
  | palegReadTimeout (n tag : Nat)
  /-- MSG_TX (R490). A write to PL_MSG_TX sends a message or queues it on a port not ACTIVE. -/
  | msgTx (a : Access) (v : Word)
  /-- MSG_RX_READ (R491). A read of PL_MSG_RX returns and removes the oldest record. -/
  | msgRxRead (a : Access) (w : Bool)
  /-- PHASE_FRAME_SEND (R493). Every FRAME_US each DOWN port sends a phase frame. -/
  | phaseFrameSend
  /-- PHASE_FRAME (R494). A received phase frame is used as a qualified edge of a Paleg-kind port when it passes its conditions. -/
  | phaseFrame (n : Nat) (t2 : Word) (first : Bool) (f : PhFrame)
  /-- BRANCH_LOST (R496). A missing ACK_FRAME 1.5 µs after a frame's T1 declares the branch LOST. -/
  | branchLost (n : Nat)
  /-- REJOIN (R497). The REJOIN command returns a LOST port to ACTIVE after 8 frames acknowledged in time. -/
  | rejoin (a : Access) (n : Nat) (v : Word)
  /-- PL_WINDOW_COMMIT (R501). PL_IWIN_COMMIT GO makes all 16 inbound windows take their shadow values, or sets COMMIT_ERR. -/
  | plWindowCommit (a : Access) (v : Word)
  /-- PL_OLD_MAPPING_DRAINED (R501). The last cell under the old mapping ends and OLD_BUSY falls, setting WIN_DONE. -/
  | plOldMappingDrained
  /-- INPUT_SAMPLE (R506). Every 10 µs PWC samples input voltage and current, updates means and applies limiting. -/
  | inputSample (volts current mittenW pick : Nat) (draw : List Nat)
  /-- POWER_FAIL_WARNING (R507). Input below WARN for 2 µs sets PF_WARN, raises source 38 and starts the power-fail sequence. -/
  | powerFailWarning (volts : Nat)
  /-- WARNING_WITHDRAWN (R507). Input above WARN + 1 V for 100 µs during step 2 ends the sequence. -/
  | warningWithdrawn (volts : Nat)
  /-- GRACE_END (R508). The end of GRACE leaves phase-locked operation, stops requests, pauses DMA, drains and cleans every die. -/
  | graceEnd
  /-- POWER_FAIL_COMPLETE (R508). The last writeback is acknowledged, DRAM enters self-refresh and the package enters RETAIN or OFF. -/
  | powerFailComplete
  /-- UNDERVOLTAGE (R507). Input below 36 V for 1 µs stops the power dies and the package goes OFF. -/
  | undervoltage
  /-- OVERVOLTAGE (R507). Input above 78 V for 1 µs stops the power dies and the package goes OFF. -/
  | overvoltage
  /-- AON_POWER_LOSS (R507). Input below 18 V removes AON power. -/
  | aonPowerLoss
  /-- RETAIN_EXIT (R511). Input above WARN + 1 V for 100 ms leaves RETAIN by a warm package reset. -/
  | retainExit (volts : Nat)
  /-- POWER_DIE_FAULT (R513). A power die fault clears PW_OK, lowers the limit, or with both faulted takes the package OFF. -/
  | powerDieFault (i : Nat)
  /-- REQ_ON (R524). Request KIND 0x0 brings a core or die ON. -/
  | reqOn (a : Access) (k unit : Nat) (irq : Bool)
  /-- REQ_GATED (R524). Request KIND 0x1 gates a core or die unless refused by a hold. -/
  | reqGated (a : Access) (k unit : Nat) (irq : Bool)
  /-- REQ_OFF (R524). Request KIND 0x2 takes a die OFF. -/
  | reqOff (a : Access) (k unit : Nat) (irq : Bool)
  /-- REQ_CLOCK_STOP (R524). Request KIND 0x3 stops a unit's clock. -/
  | reqClockStop (a : Access) (k unit : Nat) (irq : Bool)
  /-- REQ_RESET (R524). Request KIND 0x4 performs an orderly die reset. -/
  | reqReset (a : Access) (k unit : Nat) (irq : Bool)
  /-- REQ_PACKAGE_RETAIN (R524). Request KIND 0x5 takes the package to RETAIN. -/
  | reqPackageRetain (a : Access) (k unit : Nat) (irq : Bool)
  /-- REQ_PACKAGE_OFF (R524). Request KIND 0x6 takes the package OFF. -/
  | reqPackageOff (a : Access) (k unit : Nat) (irq : Bool)
  /-- REQ_CLOCK_START (R524). Request KIND 0x7 restarts a unit's clock. -/
  | reqClockStart (a : Access) (k unit : Nat) (irq : Bool)
  /-- REQ_FREQUENCY (R518). Request KIND 0x8 sets a die's CORE frequency or answers NOT_ALLOWED. -/
  | reqFrequency (a : Access) (k unit freq : Nat) (irq : Bool)
  /-- DIE_TRANSITION_DONE (R515). A die's ON, GATED or OFF transition completes and PWR_DIE.STATE reports the new state. -/
  | dieTransitionDone (n : Nat) (bist : List BistRow)
  /-- FREQUENCY_CHANGE_DONE (R518). A CORE clock change completes within 20 µs with voltage sequenced. -/
  | frequencyChangeDone (n : Nat)
  /-- PLOCK_ENTER (R519). Writing PLOCK_REQ = 1 switches every ON die to 2.0 GHz from the PHS PLL and sets PLOCK. -/
  | plockEnter (a : Access) (v : Word)
  /-- PLOCK_LEAVE (R519). Writing PLOCK_REQ = 0 clears PLOCK and returns each die to its requested frequency. -/
  | plockLeave (a : Access) (v : Word)
  /-- PLOCK_OVER_TIMEOUT (R520). A power excess lasting 10 ms in phase-locked operation leaves it and limits. -/
  | plockOverTimeout
  /-- PLOCK_REENTRY (R520). Once the cause has ended for 100 ms, PWC enters phase-locked operation again. -/
  | plockReentry
  /-- THROTTLE (R522). A die at the throttle temperature is lowered as under limiting. -/
  | throttle (n temp : Nat)
  /-- THERMAL_TRIP (R522). A die at the trip temperature goes OFF at once and is treated as lost. -/
  | thermalTrip (n temp : Nat)
  /-- AON_START (R528). Input rising above 18 V starts AON with defaults, followed by a power-on reset. -/
  | aonStart
  /-- POWER_ON_RESET (R537). A power-on reset raises the rails and runs the start sequence from step 1. -/
  | powerOnReset
  /-- RST_N (R589). RST_N held low for 1 µs triggers a hard package reset. -/
  | rstN
  /-- HARD_RESET (R528). Writing ST_CTRL.HARD_RESET performs a hard package reset. -/
  | hardResetCmd (a : Access) (v : Word)
  /-- WARM_RESET (R532). Writing ST_CTRL.WARM_RESET performs a warm package reset. -/
  | warmResetCmd (a : Access) (v : Word)
  /-- IMAGE_LOAD (R537). With DRAM trained the sequencer reads and checks the header and writes the body to LOAD_ADDR. -/
  | imageLoad (readError : Bool)
  /-- IMAGE_CHECK (R536). With the body written and self-tests passed, Helm verifies the image. -/
  | imageCheck
  /-- HART_RELEASE (R537). With the image valid and replicas valid, every active hart of every ON die is released at ST_VECTOR. -/
  | hartRelease
  /-- START_OK (R540). Writing ST_CTRL.START_OK in PHASE 0x6 clears COUNT and sets PHASE 0x7. -/
  | startOk (a : Access) (v : Word)
  /-- BOOT_WATCHDOG (R541). No START_OK within BOOT_WDT ms of release fails the start with WDT. -/
  | bootWatchdog
  /-- START_RETRY (R542). After RETRY_DELAY, 10 ms or 100 ms a retry hard package reset is requested. -/
  | startRetry (fallback : Bool)
  /-- HEARTBEAT (R544). A running Lantern writes its heartbeat into AON. -/
  | heartbeat (b : Bool)
  /-- LANTERN_FAILED (R544). HB_MISS missed heartbeats, a rail fault or a failed self-test declare a Lantern failed, with takeover where possible. -/
  | lanternFailed (b : Bool)
  /-- LANTERN_RESTART (R545). 1 s after a Lantern fails it is restarted, up to 3 times. -/
  | lanternRestart (b : Bool)
  /-- GET_START (R548). GET_START returns start status, reason, die and Lantern status. -/
  | getStart (pecOk : Bool)
  /-- GET_EVLOG (R548). GET_EVLOG returns one event log record. -/
  | getEvlog (pecOk : Bool) (index : Nat)
  /-- GET_RESULT (R548). GET_RESULT returns the RESULT of the previous command. -/
  | getResult (pecOk : Bool)
  /-- MB_WRITE (R548). MB_WRITE writes request bytes into Helm mailbox 2. -/
  | mbWrite (pecOk : Bool) (off n data : Nat)
  /-- MB_RING (R548). MB_RING rings the doorbell of mailbox 2. -/
  | mbRing (pecOk : Bool) (len : Nat)
  /-- MB_STATUS (R548). MB_STATUS returns HELM_MB_STATUS of mailbox 2. -/
  | mbStatus (pecOk : Bool)
  /-- MB_READ (R548). MB_READ returns response bytes of mailbox 2. -/
  | mbRead (pecOk : Bool) (off : Nat)
  /-- WAKE (R548). WAKE leaves OFF by a power-on reset. -/
  | wake (pecOk : Bool)
  /-- WARM (R548). WARM performs a warm package reset outside Chimney mode. -/
  | warm (pecOk : Bool)
  /-- FLASH_READ (R548). FLASH_READ returns bytes of the boot flash. -/
  | flashRead (pecOk : Bool) (addr n : Nat)
  /-- FLASH_ERASE (R548). FLASH_ERASE erases a 64 KiB sector in Chimney mode. -/
  | flashErase (pecOk : Bool) (addr : Nat)
  /-- FLASH_WRITE (R548). FLASH_WRITE writes within one page in Chimney mode. -/
  | flashWrite (pecOk : Bool) (addr n data : Nat)
  /-- FLASH_OP_DONE (R548). A flash erase or write completes and sets its RESULT. -/
  | flashOpDone (ok : Bool)
  /-- ERROR_RECORD (R558). An error record is accepted at the intake, merged or logged in the RAS ring, copied to AON and proposals made. -/
  | errorRecord (expired : Bool)
  /-- TAIL_WRITE (R557). A write to RAS_LOG_PTR.TAIL frees read records unless it passes HEAD. -/
  | tailWrite (a : Access) (v : Word)
  /-- TAP_RESET (R570). TRST_N low or five TMS-high cycles reset the TAP to Test-Logic-Reset with IDCODE. -/
  | tapReset
  /-- EXTEST (R571). EXTEST drives and captures the boundary register in Chimney mode with SI effective. -/
  | extest (pins shift : BitVec 262)
  /-- IDCODE (R571). IDCODE selects the IOD identification register. -/
  | idcode
  /-- SAMPLE_PRELOAD (R571). SAMPLE/PRELOAD samples and preloads the boundary register. -/
  | samplePreload (pins shift : BitVec 262)
  /-- CLAMP (R571). CLAMP holds the boundary outputs and selects bypass. -/
  | clamp
  /-- HIGHZ (R571). HIGHZ places the boundary outputs in high impedance. -/
  | highz
  /-- DTMCS (R571). DTMCS selects the RISC-V DTM control register. -/
  | dtmcs (shift : Nat)
  /-- DMI (R571). DMI accesses a debug module register. -/
  | dmi (addr data op : Nat)
  /-- CHAIN_SEL (R574). CHAIN_SEL selects the dies whose TAPs join the chain at the next Run-Test/Idle. -/
  | chainSel (dies : Nat)
  /-- IJTAG (R577). IJTAG reaches the IEEE 1687 network, opening each SIB whose gate holds. -/
  | ijtag (sibs : Nat)
  /-- HELM_MB (R573). HELM_MB writes request words of mailbox 4 or submits the request. -/
  | helmMb (submit : Bool) (v : Word)
  /-- DBG_STATUS (R571). The DBG_STATUS instruction selects the debug status register. -/
  | dbgStatus
  /-- BYPASS (R571). BYPASS selects the 1-bit bypass register. -/
  | bypass
  /-- WEXTEST (R575). WEXTEST drives and captures the die's bridge lanes and sideband. -/
  | wextest (n : Nat)
  /-- DIE_IDCODE (R575). A die TAP's IDCODE selects its identification register. -/
  | dieIdcode (n : Nat)
  /-- WINTEST (R575). WINTEST drives the die's side of its bridge end. -/
  | wintest (n : Nat)
  /-- SCAN (R575). SCAN reaches the die's internal scan chains. -/
  | scan (n : Nat)
  /-- MBIST (R575). MBIST runs the die's array BIST and returns its result. -/
  | mbist (n : Nat)
  /-- DIE_BYPASS (R575). A die TAP's BYPASS selects its 1-bit bypass register. -/
  | dieBypass (n : Nat)
  /-- DBG_TEST_HOLD (R576). Writing DBG_TEST_HOLD performs an orderly die reset that holds or releases the die for test. -/
  | dbgTestHold (a : Access) (v : Word)
  /-- HALT_REQUEST (R578). A debug halt request halts a hart when its world's invasive enable is effective, or is held. -/
  | haltRequest (hart : Nat)
  /-- ABSTRACT_COMMAND (R578). An abstract Access Register command reads or writes a halted hart's register. -/
  | abstractCommand (cmd : Nat) (writes : List (Nat × Word)) (fails : Bool)
  /-- SYSTEM_BUS_ACCESS (R578). A system bus access from the debug module reads or writes memory. -/
  | systemBusAccess (write : Bool) (addr size : Nat) (v : Word)
  /-- RESUME_REQUEST (R578). A debug resume request resumes a halted hart. -/
  | resumeRequest (hart : Nat)
  /-- SLEW_END (R46). The phase removed by a slew correction reaches e, and the count returns to the loop rate R. -/
  | slewEnd (n : Nat)
  /-- WRITE_DRAIN (R222). A memory controller issues a queued write burst to DRAM, frees the write-queue entry and returns a write credit to the home agent. -/
  | writeDrain (addr : Nat)
  /-- ACCESS_SLOT_GRANT (R351). In a FAB cycle an engine grants its access slot to the ready channel with the highest effective priority, issuing one read or write, with ageing to priority 7. -/
  | accessSlotGrant (j : Nat) (write : Bool) (x : Xlate)
  /-- GATED_ENTRY_DONE (R516). The L2 clean of a core's GATED entry ends, its clocks stop and its rail goes to retention. -/
  | gatedEntryDone (hart : Nat)
  /-- PALEG_PORT_ENABLE (R477). Writing PL_PORT_CFG.EN starts training of the Paleg port, or takes it down when cleared. -/
  | palegPortEnable (a : Access) (n : Nat) (v : Word)
  /-- PALEG_LINK_DOWN (R497). A Paleg link goes down, taking the port to DOWN, clearing DVALID and setting LINK_EV. -/
  | palegLinkDown (n : Nat)
  /-- CONFIGURATION_REQUEST (R472). A host configuration request to an endpoint function sets or reads its configuration space, for example Bus Master Enable or VF Enable. -/
  | configurationRequest (n f : Nat) (wr : Bool) (dw : Nat) (v : BitVec 32) (e : CfgEffect)
  /-- RAILS_UP (R537). After a power-on reset the 6 V and IOD rails come up, and the start sequence begins its step 2. -/
  | railsUp
  /-- LANTERN_SELF_TEST (R544). The Lanterns' start self-tests end, and the pair becomes A active and B standby, or one active, or NONE. -/
  | lanternSelfTest (aPass bPass : Bool)
  /-- DYNAMIC_ADDRESS_ASSIGNMENT (R547). The rack controller assigns the Lantern's I3C dynamic address by SETDASA or ENTDAA. -/
  | dynamicAddressAssignment (addr : Nat)
  /-- CORE_TRACE_WRITE (R580). A die's core trace sink writes records to its DRAM range as 64-byte WrNC, stopping on FULL or ERR. -/
  | coreTraceWrite (n : Nat)
  /-- CTR_BUF_READ (R581). A read of CTR_BUF_DATA returns the next core trace word and advances RDPTR. -/
  | ctrBufRead (a : Access) (n : Nat)
  /-- WC_DBG_WRITE (R391). A software write to WC_DBG changes the debug enables, and clearing SI resumes a hart halted in the Secure world. -/
  | wcDbgWrite (a : Access) (v : Word)
  /-- PEND_WRITE (R347). A software write of 1 to DE_CH_EVT.PEND sets event bits and can satisfy a waiting WAIT. -/
  | pendWrite (a : Access) (c : Nat) (v : Word)
  /-- SEM_COUNT_WRITE (R347). A software write to DE_SEM.COUNT sets a semaphore count and can satisfy waiting semaphore WAITs. -/
  | semCountWrite (a : Access) (i : Nat) (v : Word)
  deriving DecidableEq, Repr

end Sys2Proof
end

