-- ==== Sys2Proof/Config.lean ====
section
/-! DEFINITION. What an implementation fixes and the free values: constants without a body, of which nothing can be
proved. Where the spec leaves a value open, the model applies one of them to State.fresh, a counter that the step
advances, or to the operands the value depends on. -/
namespace Sys2Proof.Config

/-- The fused revision of the IOD (R30). -/
opaque iodRev : BitVec 4

/-- The fused capability vector of an IOD of a revision that R322 does not list (R321, R323). -/
opaque iodCap : BitVec 8

/-- The fused revision of compute die n (R97, R104, R321). -/
opaque dieRev : Nat → BitVec 4

/-- The fused device identity (R399). -/
opaque deviceId : BitVec 64

/-- A bit that the spec leaves open: a rounding, a tie, a value between two levels. -/
opaque freeBit : Nat → Bool

/-- A 64-bit value that the spec leaves open. -/
opaque freeWord : Nat → BitVec 64

/-- A cache line whose contents the spec leaves open. -/
opaque freeLine : Nat → BitVec 512
/-- The router of the IOD mesh to which an IOD agent is attached, and with 512 + n the router of bridge n. The spec does
not place them. -/
opaque iodRouter : Nat → BitVec 4


/-- The fused device root key (slot 0), which is only ever a KDF input (R395). -/
opaque rootKey : Nat

/-- HMAC-SHA-384 of n bytes under a key, its first byte lowest (R394, FIPS 198-1). -/
opaque hmac384 : (key n data : Nat) → Nat

/-- SHA-384 of n bytes, its first byte lowest (R394, FIPS 180-4). -/
opaque sha384 : (n data : Nat) → Nat

/-- The counter-mode KDF under a key: 0 for the label "rotate", 1 for "wrap", 2 for the attestation key (R394, R408). -/
opaque kdf : (key label : Nat) → Nat

/-- AES-256-GCM encryption of n bytes under a key, an IV and additional data (R394, SP 800-38D). -/
opaque gcmEnc : (key iv aadLen aad n data : Nat) → Nat

/-- AES-256-GCM decryption. -/
opaque gcmDec : (key iv aadLen aad n data : Nat) → Nat

/-- The 16-byte GCM tag of n bytes of ciphertext. -/
opaque gcmTag : (key iv aadLen aad n data : Nat) → Nat

/-- The ECDSA P-384 signature of a SHA-384 digest under a private key; its nonce is drawn afresh (R394, FIPS 186-5). -/
opaque ecdsaSign : (key digest fresh : Nat) → Nat

/-- ECDSA P-384 verification of a signature over a digest under a public key. -/
opaque ecdsaVerify : (pub digest sig : Nat) → Bool

/-- n bytes from the DRBG, drawn afresh (R394). -/
opaque drbg : (fresh n : Nat) → Nat

/-- The spare rows of an array instance that the fuse map has used, by die, array and instance (R168). -/
opaque fuseRows : (die array inst : Nat) → Nat

/-- The spare rows of the directory (0x20) and DMA program store (0x21) arrays, which the spec does not give (R564). -/
opaque iodSpares : (array : Nat) → Nat

/-- Afivinor's manufacturer code of the fuse map (R571). -/
opaque manufacturer : BitVec 11

end Sys2Proof.Config
end

