-- ==== Sys2Proof/Machine/Regs.lean ====
section
/-! DEFINITION. The memory-mapped registers of the device: their names, their fields with the access codes and
reset values of the spec's register tables, and the address of every instance (R5, R11 to R18, R33 and the register
section of each chapter). Fields that come from fuses or from
Helm's store take their values from Config. -/
namespace Sys2Proof.Machine

/-- The name of a memory-mapped register. A register with several instances is one name and an instance index. -/
inductive Reg where
  | FAB_PKG_ID
  | FAB_POS_MAP
  | FAB_HART_POS
  | PHE_REF_CTRL
  | PHE_TB
  | PHE_REPLICA_STATUS
  | PHE_PORT_CFG
  | PHE_PORT_AUX
  | PHE_PORT_INIT
  | PHE_PORT_PHASE
  | PHE_PORT_INC
  | PHE_PORT_NOMINAL
  | PHE_PORT_EDGE_TB
  | PHE_PORT_PERIOD
  | PHE_PORT_STATUS
  | PHE_PORT_TOD
  | PHE_PORT_TOD_BASE
  | PHE_PORT_CMD
  | PHE_CAL_CTRL
  | PHE_CAL_STATUS
  | PHE_CAL_ERR
  | PHE_CAL_ERR_TB
  | PHE_CAL_BLOCK
  | PHE_CAL_IDX
  | PHE_CAL_W0
  | PHE_CAL_W1
  | PHE_CAL_W2
  | PHE_CAL_W3
  | PHE_CAL_CMD
  | PHE_CAL_EDIT_STATUS
  | TIO_PIN_CFG
  | TIO_PIN_STATUS
  | TIO_PIN_FORCE
  | TIO_CAP_TB
  | TIO_CAP_PHASE
  | PHE_TSQ_STATUS
  | PHE_TSQ_ERRADDR
  | CD_CORE_CACHE_CTRL
  | CD_CORE_RANGE_BASE
  | CD_CORE_RANGE_LIMIT
  | CD_CORE_RANGE_CMD
  | CD_CORE_RANGE_STATUS
  | CD_CORE_ORD_STATUS
  | CD_CORE_ORD_ERRADDR
  | CD_CORE_L2_LOCK
  | CD_L3_LOCK
  | CD_L3_RANGE_BASE
  | CD_L3_RANGE_LIMIT
  | CD_L3_RANGE_CMD
  | CD_L3_RANGE_STATUS
  | CD_L3_WAYDIS
  | CD_CACHE_ERRCNT
  | CD_COH_CTRL
  | CD_COH_STATUS
  | HA_CTRL
  | HA_STATUS
  | HA_DIR_OCC
  | HA_DIE_STATE
  | HA_ERR
  | HA_ERR_ADDR
  | MC_CTRL
  | MC_STATUS
  | MC_TRAIN
  | MC_CREDIT
  | MC_CREDIT_STATUS
  | MC_REGION_BASE
  | MC_REGION_CODE
  | MC_ECC_CTRL
  | MC_ECC_STATUS
  | MC_CE_CNT
  | MC_LOG_ADDR
  | MC_LOG_INFO
  | MC_SCRUB_CTRL
  | MC_SCRUB_STATUS
  | MC_INIT
  | MC_RETIRE
  | MC_ECC_TEST_CTRL
  | MC_ECC_TEST_ADDR
  | MC_ECC_TEST_DATA
  | MC_ECC_TEST_CHECK
  | MC_ECC_TEST_CMD
  | MC_ECC_TEST_STATUS
  | FAB_CTRL
  | FAB_EPOCH
  | FAB_TIMEOUT
  | FAB_STATUS
  | FAB_TO_ADDR
  | FAB_CHECK_INFO
  | FAB_SLOT
  | FAB_RSV_CFG
  | FAB_RSV_STATUS
  | FAB_RT_SEL
  | FAB_RT_DATA
  | FAB_RT_CMD
  | FAB_RT_STATUS
  | BAT_CTRL
  | BAT_ADDR_VAL
  | BAT_ADDR_MASK
  | BAT_ID_FILTER
  | BAT_OPC_MASK
  | BAT_TRIG
  | BAT_CNT_SEL
  | BAT_STATUS
  | BAT_CNT
  | BAT_TRACE_CTRL
  | BAT_TRACE_BASE
  | BAT_TRACE_LIMIT
  | BAT_TRACE_PTR
  | BAT_BUF_DATA
  | BAT_SECDROP
  | BR_CTRL
  | BR_STATUS
  | BR_CAP
  | BR_LAT
  | BR_ERRCNT
  | BR_LMAP
  | BR_LFUSE
  | DE_CH_PC
  | DE_CH_ENTRY
  | DE_CH_WIN
  | DE_CH_EVT
  | DE_CH_MOVED
  | DE_CH_FAULT
  | DE_CH_FADDR
  | DE_CH_CFG
  | DE_CH_CMD
  | DE_CH_STATUS
  | DE_CH_DESC
  | DE_CH_LOOP
  | DE_CH_G
  | DE_SEM
  | DE_PROG
  | DE_ENG_CTRL
  | DE_ENG_STATUS
  | WC_CTRL
  | WC_DBG
  | WC_STATUS
  | WC_DENY_ADDR
  | WC_DENY_INFO
  | WC_MITTEN_STATUS
  | WC_MITTEN
  | WC_MITTEN_EFF
  | WC_CALL
  | WC_SENTRY
  | WC_SAVE_PC
  | WC_SAVE_STATUS
  | WC_SAVE_MODE
  | HELM_STATUS
  | HELM_COUNTER
  | HELM_DEVICE_ID
  | HELM_MB_CTRL
  | HELM_MB_STATUS
  | HELM_MB_REQ
  | HELM_MB_RSP
  | PQ_CTRL
  | PQ_RESET
  | PQ_RESET_STATUS
  | PQ_L3MASK
  | PQ_VF
  | PQ_VF_CH
  | PQ_HART
  | PQ_REGION_SHARE
  | PQ_L3_SHARED
  | PQ_DEVPART
  | PQ_DEVPART_MASK
  | PQ_STATUS
  | PQ_DENY_ADDR
  | PQ_DENY_INFO
  | INT_STATUS
  | PE_PORT_CFG
  | PE_PORT_STATUS
  | PE_EP_CFG
  | PE_EP_CFG_PF_CH
  | PE_LINK_CTRL
  | PE_OWIN_CFG
  | PE_OWIN_BASE
  | PE_OWIN_BUS
  | PE_FN_STATUS
  | PE_FN_NOTIFY
  | PE_FN_DOORBELL
  | PE_FN_MSIX
  | PE_IWIN_CTRL
  | PE_IWIN_OFFSET
  | PE_IWIN_TARGET
  | PE_IWIN_COMMIT
  | PE_MBX_CTRL
  | PE_MBX_DATA
  | PL_PORT_CFG
  | PL_PORT_STATUS
  | PL_PORT_DELAY
  | PL_PORT_ERRCNT
  | PL_PORT_CMD
  | PL_NODE
  | PL_CTRL
  | PL_GSTATUS
  | PL_MSG_TX
  | PL_MSG_RX
  | PL_MSG_RX_TB
  | PL_MSG_MAP
  | PL_OWIN_CFG
  | PL_OWIN_BASE
  | PL_OWIN_REMOTE
  | PL_IWIN_CTRL
  | PL_IWIN_OFFSET
  | PL_IWIN_TARGET
  | PL_IWIN_SRC
  | PL_IWIN_COMMIT
  | PL_RT
  | PWR_CTRL
  | PWR_PF_CFG
  | PWR_STATUS
  | PWR_INPUT
  | PWR_MITTEN_W
  | PWR_DIE
  | PWR_REQ
  | PWR_REQ_STATUS
  | ST_STATUS
  | ST_CTRL
  | ST_REASON
  | ST_VECTOR
  | ST_DIE
  | ST_EVLOG_HEAD
  | ST_EVLOG
  | LAN_STATUS
  | LAN_CFG
  | LMB_CTRL
  | LMB_STATUS
  | LMB_BUF
  | RAS_CTRL
  | RAS_STATUS
  | RAS_LOG_PTR
  | RAS_THRESH
  | RAS_REPAIR
  | RAS_LOG
  | RAS_AON_LOG
  | RAS_AON_HEAD
  | RAS_PROP
  | RAS_PROP_TARGET
  | RAS_PAGE_HIST
  | DBG_STATUS
  | DBG_TEST_HOLD
  | CTR_CTRL
  | CTR_BASE
  | CTR_LIMIT
  | CTR_PTR
  | CTR_BUF_DATA
  deriving DecidableEq, Repr

/-- The access codes of R11. -/
inductive Acc where
  | rw | ro | wo | w1c | w1s | rwl | rwh
  deriving DecidableEq, Repr

/-- One row of a register table (R11): the bit range, the access code and the value after power-on reset. Reserved
bits have no row: they read as 0 and ignore what is written (R15). -/
structure Row where
  hi  : Nat
  lo  : Nat
  acc : Acc
  rst : Nat
  deriving DecidableEq, Repr

/-- A named field of a register (R5). -/
structure Fld where
  reg : Reg
  hi  : Nat
  lo  : Nat
  deriving DecidableEq, Repr

/-- Where the instances of a register lie (R18): the address of instance 0, and for each index of the register, outermost
first, its stride and how many instances it has. -/
structure Loc where
  base : Nat
  dims : List (Nat × Nat)
  deriving DecidableEq, Repr

/-- The rows of a register's table. -/
def Reg.rows : Reg → List Row
  | .FAB_PKG_ID => [⟨47, 40, .ro, 0⟩, ⟨39, 32, .ro, 0⟩, ⟨23, 20, .ro, 0⟩, ⟨19, 16, .ro, 0⟩, ⟨15, 0, .ro, 0x216⟩]
  | .FAB_POS_MAP => [⟨15, 8, .ro, 0⟩, ⟨3, 2, .ro, 0⟩, ⟨1, 1, .ro, 0⟩]
  | .FAB_HART_POS => [⟨63, 63, .ro, 0⟩, ⟨8, 4, .ro, 0⟩, ⟨3, 0, .ro, 0⟩]
  | .PHE_REF_CTRL => [⟨15, 4, .rwl, 0xfff⟩, ⟨0, 0, .w1s, 0⟩]
  | .PHE_TB => [⟨63, 0, .ro, 0⟩]
  | .PHE_REPLICA_STATUS => [⟨27, 16, .w1c, 0⟩, ⟨11, 0, .ro, 0⟩]
  | .PHE_PORT_CFG => [⟨63, 63, .rwl, 0⟩, ⟨55, 32, .rw, 1⟩, ⟨31, 28, .rw, 4⟩, ⟨27, 24, .rw, 8⟩, ⟨23, 20, .rw, 3⟩, ⟨19, 18, .rw, 0⟩, ⟨17, 16, .rw, 1⟩, ⟨15, 12, .rw, 4⟩, ⟨11, 10, .rw, 2⟩, ⟨9, 8, .rw, 0⟩, ⟨7, 7, .rw, 0⟩, ⟨6, 6, .rw, 0⟩, ⟨5, 5, .rw, 0⟩, ⟨3, 1, .rw, 0⟩, ⟨0, 0, .rw, 0⟩]
  | .PHE_PORT_AUX => [⟨63, 32, .rw, 0⟩, ⟨6, 4, .rw, 0⟩, ⟨2, 0, .rw, 0⟩]
  | .PHE_PORT_INIT => [⟨63, 0, .rw, 0⟩]
  | .PHE_PORT_PHASE => [⟨63, 0, .ro, 0⟩]
  | .PHE_PORT_INC => [⟨63, 0, .ro, 0⟩]
  | .PHE_PORT_NOMINAL => [⟨63, 0, .rw, 0⟩]
  | .PHE_PORT_EDGE_TB => [⟨63, 0, .ro, 0⟩]
  | .PHE_PORT_PERIOD => [⟨39, 0, .ro, 0⟩]
  | .PHE_PORT_STATUS => [⟨63, 32, .ro, 0⟩, ⟨31, 24, .ro, 0⟩, ⟨15, 15, .w1c, 0⟩, ⟨14, 14, .w1c, 0⟩, ⟨13, 13, .w1c, 0⟩, ⟨12, 12, .w1c, 0⟩, ⟨11, 11, .w1c, 0⟩, ⟨10, 10, .w1c, 0⟩, ⟨9, 9, .w1c, 0⟩, ⟨8, 8, .w1c, 0⟩, ⟨4, 4, .ro, 0⟩, ⟨2, 0, .ro, 0⟩]
  | .PHE_PORT_TOD => [⟨63, 63, .rwh, 0⟩, ⟨47, 0, .rw, 0⟩]
  | .PHE_PORT_TOD_BASE => [⟨63, 63, .ro, 0⟩, ⟨47, 0, .ro, 0⟩]
  | .PHE_PORT_CMD => [⟨2, 2, .wo, 0⟩, ⟨1, 1, .wo, 0⟩, ⟨0, 0, .wo, 0⟩]
  | .PHE_CAL_CTRL => [⟨15, 8, .rw, 0x40⟩, ⟨1, 1, .rw, 1⟩, ⟨0, 0, .rw, 0⟩]
  | .PHE_CAL_STATUS => [⟨44, 32, .rwh, 0⟩, ⟨28, 16, .ro, 0⟩, ⟨3, 3, .ro, 0⟩, ⟨2, 2, .w1c, 0⟩, ⟨1, 1, .w1c, 0⟩, ⟨0, 0, .w1c, 0⟩]
  | .PHE_CAL_ERR => [⟨63, 48, .ro, 0⟩, ⟨19, 16, .ro, 0⟩, ⟨15, 0, .ro, 0⟩]
  | .PHE_CAL_ERR_TB => [⟨63, 0, .ro, 0⟩]
  | .PHE_CAL_BLOCK => [⟨63, 63, .rw, 0⟩, ⟨13, 8, .rw, 0⟩, ⟨0, 0, .rw, 1⟩]
  | .PHE_CAL_IDX => [⟨15, 0, .rw, 0⟩]
  | .PHE_CAL_W0 => [⟨63, 0, .rwh, 0⟩]
  | .PHE_CAL_W1 => [⟨63, 0, .rwh, 0⟩]
  | .PHE_CAL_W2 => [⟨63, 0, .rwh, 0⟩]
  | .PHE_CAL_W3 => [⟨63, 0, .rwh, 0⟩]
  | .PHE_CAL_CMD => [⟨2, 0, .wo, 0⟩]
  | .PHE_CAL_EDIT_STATUS => [⟨3, 0, .ro, 0⟩, ⟨4, 4, .ro, 0⟩]
  | .TIO_PIN_CFG => [⟨63, 63, .rw, 0⟩, ⟨61, 56, .rw, 0⟩, ⟨18, 16, .rw, 0⟩, ⟨13, 12, .rw, 0⟩, ⟨9, 8, .rw, 2⟩, ⟨4, 4, .rw, 0⟩, ⟨1, 0, .rw, 0⟩]
  | .TIO_PIN_STATUS => [⟨63, 56, .ro, 0⟩, ⟨52, 48, .ro, 0⟩, ⟨3, 3, .w1c, 0⟩, ⟨2, 2, .w1c, 0⟩, ⟨0, 0, .ro, 0⟩]
  | .TIO_PIN_FORCE => [⟨1, 0, .wo, 0⟩]
  | .TIO_CAP_TB => [⟨63, 0, .ro, 0⟩]
  | .TIO_CAP_PHASE => [⟨63, 0, .ro, 0⟩]
  | .PHE_TSQ_STATUS => [⟨31, 24, .ro, 0⟩, ⟨23, 16, .ro, 0⟩, ⟨11, 11, .w1c, 0⟩, ⟨10, 10, .w1c, 0⟩, ⟨9, 9, .w1c, 0⟩, ⟨4, 0, .ro, 0⟩]
  | .PHE_TSQ_ERRADDR => [⟨47, 0, .ro, 0⟩]
  | .CD_CORE_CACHE_CTRL => [⟨4, 4, .ro, 0⟩, ⟨3, 3, .rw, 1⟩, ⟨2, 2, .rw, 1⟩, ⟨1, 1, .rw, 1⟩, ⟨0, 0, .rw, 1⟩]
  | .CD_CORE_RANGE_BASE => [⟨47, 6, .rw, 0⟩]
  | .CD_CORE_RANGE_LIMIT => [⟨47, 6, .rw, 0⟩]
  | .CD_CORE_RANGE_CMD => [⟨2, 0, .wo, 0⟩]
  | .CD_CORE_RANGE_STATUS => [⟨63, 32, .ro, 0⟩, ⟨8, 8, .w1c, 0⟩, ⟨7, 7, .w1c, 0⟩, ⟨6, 4, .rwh, 0⟩, ⟨1, 1, .ro, 0⟩, ⟨0, 0, .ro, 0⟩]
  | .CD_CORE_ORD_STATUS => [⟨63, 48, .ro, 0⟩, ⟨39, 32, .rwh, 0⟩, ⟨8, 8, .w1c, 0⟩, ⟨5, 0, .ro, 0⟩]
  | .CD_CORE_ORD_ERRADDR => [⟨63, 63, .ro, 0⟩, ⟨47, 0, .ro, 0⟩]
  | .CD_CORE_L2_LOCK => [⟨63, 63, .rw, 0⟩, ⟨57, 52, .rw, 0⟩, ⟨47, 16, .rw, 0⟩, ⟨15, 0, .rw, 0⟩]
  | .CD_L3_LOCK => [⟨63, 63, .rw, 0⟩, ⟨57, 52, .rw, 0⟩, ⟨47, 16, .rw, 0⟩, ⟨15, 0, .rw, 0⟩]
  | .CD_L3_RANGE_BASE => [⟨47, 6, .rw, 0⟩]
  | .CD_L3_RANGE_LIMIT => [⟨47, 6, .rw, 0⟩]
  | .CD_L3_RANGE_CMD => [⟨2, 0, .wo, 0⟩]
  | .CD_L3_RANGE_STATUS => [⟨63, 32, .ro, 0⟩, ⟨8, 8, .w1c, 0⟩, ⟨7, 7, .w1c, 0⟩, ⟨6, 4, .rwh, 0⟩, ⟨1, 1, .ro, 0⟩, ⟨0, 0, .ro, 0⟩]
  | .CD_L3_WAYDIS => [⟨20, 16, .ro, 0⟩, ⟨11, 0, .ro, 0⟩]
  | .CD_CACHE_ERRCNT => [⟨63, 48, .rwh, 0⟩, ⟨47, 32, .rwh, 0⟩, ⟨31, 16, .rwh, 0⟩, ⟨15, 0, .rwh, 0⟩]
  | .CD_COH_CTRL => [⟨25, 16, .rw, 0x80⟩]
  | .CD_COH_STATUS => [⟨63, 48, .rwh, 0⟩, ⟨47, 32, .rwh, 0⟩, ⟨3, 0, .rwh, 0⟩]
  | .HA_CTRL => [⟨25, 16, .rwl, 0x80⟩, ⟨2, 2, .rwl, 1⟩, ⟨0, 0, .w1s, 0⟩]
  | .HA_STATUS => [⟨63, 48, .rwh, 0⟩, ⟨37, 28, .ro, 0⟩, ⟨19, 16, .ro, 0⟩, ⟨15, 0, .rwh, 0⟩]
  | .HA_DIR_OCC => [⟨51, 32, .ro, 0⟩, ⟨19, 0, .ro, 0⟩]
  | .HA_DIE_STATE => [⟨11, 0, .ro, 0⟩]
  | .HA_ERR => [⟨63, 48, .ro, 0⟩, ⟨7, 4, .ro, 0⟩, ⟨0, 0, .w1c, 0⟩]
  | .HA_ERR_ADDR => [⟨47, 6, .ro, 0⟩]
  | .MC_CTRL => [⟨31, 24, .rw, 0x40⟩, ⟨17, 16, .rwl, 2⟩, ⟨2, 2, .rw, 1⟩, ⟨1, 1, .rwl, 1⟩, ⟨0, 0, .w1s, 0⟩]
  | .MC_STATUS => [⟨63, 48, .rwh, 0⟩, ⟨47, 32, .rwh, 0⟩, ⟨19, 18, .ro, 0⟩, ⟨16, 16, .w1c, 0⟩, ⟨15, 12, .ro, 0⟩, ⟨11, 8, .ro, 0⟩, ⟨7, 4, .ro, 0⟩, ⟨3, 0, .ro, 0⟩]
  | .MC_TRAIN => [⟨55, 48, .ro, 0⟩, ⟨47, 40, .ro, 0⟩, ⟨35, 32, .ro, 0⟩, ⟨27, 24, .ro, 0⟩, ⟨17, 16, .ro, 0⟩, ⟨15, 0, .rwh, 0⟩]
  | .MC_CREDIT => [⟨63, 63, .rw, 0⟩, ⟨55, 48, .rw, 0⟩, ⟨43, 32, .rw, 0⟩, ⟨8, 0, .rw, 0⟩]
  | .MC_CREDIT_STATUS => [⟨63, 48, .rwh, 0⟩, ⟨47, 32, .rwh, 0⟩, ⟨11, 0, .ro, 0⟩]
  | .MC_REGION_BASE => [⟨63, 63, .rw, 0⟩, ⟨55, 38, .rw, 0⟩, ⟨37, 21, .rw, 0⟩]
  | .MC_REGION_CODE => [⟨15, 15, .rw, 1⟩, ⟨13, 8, .rw, 0⟩, ⟨4, 4, .rw, 0⟩, ⟨3, 2, .rw, 0⟩, ⟨1, 0, .rw, 0⟩]
  | .MC_ECC_CTRL => [⟨63, 48, .rw, 0xe10⟩, ⟨47, 40, .rw, 0x10⟩, ⟨17, 16, .rw, 2⟩, ⟨0, 0, .rw, 1⟩]
  | .MC_ECC_STATUS => [⟨52, 48, .ro, 0⟩, ⟨31, 16, .w1c, 0⟩, ⟨4, 4, .w1c, 0⟩, ⟨3, 3, .w1c, 0⟩, ⟨2, 2, .w1c, 0⟩, ⟨1, 1, .w1c, 0⟩]
  | .MC_CE_CNT => [⟨63, 32, .rwh, 0⟩, ⟨31, 16, .rwh, 0⟩, ⟨7, 0, .ro, 0⟩]
  | .MC_LOG_ADDR => [⟨63, 63, .w1c, 0⟩, ⟨62, 62, .ro, 0⟩, ⟨47, 5, .ro, 0⟩]
  | .MC_LOG_INFO => [⟨63, 48, .ro, 0⟩, ⟨43, 40, .ro, 0⟩, ⟨39, 38, .ro, 0⟩, ⟨37, 34, .ro, 0⟩, ⟨33, 17, .ro, 0⟩, ⟨13, 12, .ro, 0⟩, ⟨11, 10, .ro, 0⟩, ⟨9, 9, .ro, 0⟩, ⟨8, 0, .ro, 0⟩]
  | .MC_SCRUB_CTRL => [⟨47, 32, .rw, 0x800⟩, ⟨0, 0, .rw, 0⟩]
  | .MC_SCRUB_STATUS => [⟨63, 32, .ro, 0⟩, ⟨27, 0, .ro, 0⟩]
  | .MC_INIT => [⟨63, 63, .ro, 0⟩, ⟨62, 62, .ro, 0⟩, ⟨61, 61, .w1c, 0⟩, ⟨8, 8, .wo, 0⟩, ⟨5, 0, .rw, 0⟩]
  | .MC_RETIRE => [⟨63, 63, .rw, 0⟩, ⟨37, 12, .rw, 0⟩]
  | .MC_ECC_TEST_CTRL => [⟨1, 1, .rw, 1⟩, ⟨0, 0, .rw, 0⟩]
  | .MC_ECC_TEST_ADDR => [⟨37, 5, .rw, 0⟩]
  | .MC_ECC_TEST_DATA => [⟨63, 0, .rwh, 0⟩]
  | .MC_ECC_TEST_CHECK => [⟨31, 0, .rwh, 0⟩]
  | .MC_ECC_TEST_CMD => [⟨2, 0, .wo, 0⟩]
  | .MC_ECC_TEST_STATUS => [⟨3, 1, .ro, 0⟩, ⟨0, 0, .ro, 0⟩]
  | .FAB_CTRL => [⟨7, 4, .rwl, 8⟩, ⟨0, 0, .w1s, 0⟩]
  | .FAB_EPOCH => [⟨63, 44, .ro, 0⟩, ⟨43, 24, .ro, 0⟩, ⟨7, 5, .rwh, 0⟩, ⟨3, 3, .ro, 0⟩, ⟨1, 1, .wo, 0⟩, ⟨0, 0, .ro, 0⟩]
  | .FAB_TIMEOUT => [⟨31, 16, .rw, 0xfa00⟩, ⟨15, 0, .rw, 0x3e8⟩]
  | .FAB_STATUS => [⟨63, 48, .rwh, 0⟩, ⟨47, 32, .rwh, 0⟩, ⟨31, 16, .rwh, 0⟩, ⟨15, 8, .rwh, 0⟩, ⟨7, 2, .rwh, 0⟩, ⟨0, 0, .w1c, 0⟩]
  | .FAB_TO_ADDR => [⟨63, 63, .ro, 0⟩, ⟨47, 6, .ro, 0⟩]
  | .FAB_CHECK_INFO => [⟨29, 21, .ro, 0⟩, ⟨20, 16, .ro, 0⟩, ⟨15, 12, .ro, 0⟩, ⟨11, 6, .ro, 0⟩, ⟨5, 0, .ro, 0⟩]
  | .FAB_SLOT => [⟨63, 10, .ro, 0⟩, ⟨9, 0, .ro, 0⟩]
  | .FAB_RSV_CFG => [⟨63, 63, .rw, 0⟩, ⟨62, 62, .rwh, 0⟩, ⟨53, 48, .rw, 0⟩, ⟨43, 40, .rw, 0⟩, ⟨9, 8, .rw, 0⟩, ⟨5, 0, .rw, 0⟩]
  | .FAB_RSV_STATUS => [⟨63, 48, .rwh, 0⟩, ⟨47, 32, .rwh, 0⟩, ⟨5, 0, .rwh, 0⟩]
  | .FAB_RT_SEL => [⟨63, 63, .rw, 0⟩, ⟨24, 16, .rw, 0⟩, ⟨12, 8, .rw, 0⟩, ⟨3, 0, .rw, 0⟩]
  | .FAB_RT_DATA => [⟨2, 0, .rw, 0⟩]
  | .FAB_RT_CMD => [⟨0, 0, .wo, 0⟩]
  | .FAB_RT_STATUS => [⟨0, 0, .ro, 0⟩]
  | .BAT_CTRL => [⟨63, 63, .rwh, 0⟩, ⟨57, 56, .rw, 1⟩, ⟨55, 52, .rw, 0xf⟩, ⟨49, 48, .rw, 3⟩, ⟨8, 0, .rw, 0⟩]
  | .BAT_ADDR_VAL => [⟨47, 6, .rw, 0⟩]
  | .BAT_ADDR_MASK => [⟨47, 6, .rw, 0⟩]
  | .BAT_ID_FILTER => [⟨56, 48, .rw, 0⟩, ⟨40, 32, .rw, 0⟩, ⟨24, 16, .rw, 0⟩, ⟨8, 0, .rw, 0⟩]
  | .BAT_OPC_MASK => [⟨63, 0, .rw, 0xffffffffffffffff⟩]
  | .BAT_TRIG => [⟨63, 48, .rw, 0⟩, ⟨45, 43, .rw, 0⟩, ⟨42, 40, .rw, 0⟩, ⟨31, 16, .rw, 0⟩, ⟨15, 0, .rw, 0⟩]
  | .BAT_CNT_SEL => [⟨63, 16, .rw, 0⟩, ⟨15, 0, .rw, 0⟩]
  | .BAT_STATUS => [⟨63, 32, .rwh, 0⟩, ⟨3, 3, .w1c, 0⟩, ⟨2, 2, .w1c, 0⟩, ⟨1, 1, .w1c, 0⟩, ⟨0, 0, .ro, 0⟩]
  | .BAT_CNT => [⟨47, 0, .rwh, 0⟩]
  | .BAT_TRACE_CTRL => [⟨63, 63, .w1c, 0⟩, ⟨62, 62, .w1c, 0⟩, ⟨1, 1, .rw, 0⟩, ⟨0, 0, .rw, 0⟩]
  | .BAT_TRACE_BASE => [⟨47, 6, .rw, 0⟩]
  | .BAT_TRACE_LIMIT => [⟨47, 6, .rw, 0⟩]
  | .BAT_TRACE_PTR => [⟨47, 32, .rwh, 0⟩, ⟨15, 0, .rwh, 0⟩]
  | .BAT_BUF_DATA => [⟨63, 0, .ro, 0⟩]
  | .BAT_SECDROP => [⟨31, 0, .rwh, 0⟩]
  | .BR_CTRL => [⟨15, 12, .rw, 8⟩, ⟨8, 8, .rw, 0⟩, ⟨2, 2, .wo, 0⟩, ⟨1, 1, .wo, 0⟩]
  | .BR_STATUS => [⟨19, 16, .ro, 0⟩, ⟨11, 11, .w1c, 0⟩, ⟨10, 10, .w1c, 0⟩, ⟨9, 9, .ro, 0⟩, ⟨8, 8, .w1c, 0⟩, ⟨7, 6, .ro, 0⟩, ⟨5, 4, .ro, 0⟩, ⟨3, 0, .ro, 0⟩]
  | .BR_CAP => [⟨31, 28, .ro, 0⟩, ⟨27, 24, .ro, 0⟩, ⟨23, 16, .ro, 0⟩, ⟨15, 8, .ro, 0⟩, ⟨7, 0, .ro, 0⟩]
  | .BR_LAT => [⟨23, 16, .ro, 0⟩, ⟨15, 0, .ro, 0⟩]
  | .BR_ERRCNT => [⟨63, 48, .rwh, 0⟩, ⟨47, 32, .rwh, 0⟩, ⟨31, 16, .rwh, 0⟩, ⟨15, 8, .rwh, 0⟩, ⟨7, 0, .rwh, 0⟩]
  | .BR_LMAP => [⟨63, 0, .ro, 0⟩]
  | .BR_LFUSE => [⟨63, 0, .ro, 0⟩]
  | .DE_CH_PC => [⟨18, 16, .ro, 0⟩, ⟨12, 0, .rwh, 0⟩]
  | .DE_CH_ENTRY => [⟨12, 0, .rw, 0⟩]
  | .DE_CH_WIN => [⟨28, 16, .rw, 0⟩, ⟨12, 0, .rw, 0⟩]
  | .DE_CH_EVT => [⟨31, 24, .ro, 0⟩, ⟨16, 16, .w1c, 0⟩, ⟨15, 8, .w1c, 0⟩, ⟨7, 0, .w1s, 0⟩]
  | .DE_CH_MOVED => [⟨31, 0, .ro, 0⟩]
  | .DE_CH_FAULT => [⟨28, 16, .ro, 0⟩, ⟨7, 0, .ro, 0⟩]
  | .DE_CH_FADDR => [⟨63, 0, .ro, 0⟩]
  | .DE_CH_CFG => [⟨63, 63, .rw, 0⟩, ⟨61, 56, .rw, 0⟩, ⟨10, 8, .rw, 0⟩, ⟨4, 4, .rw, 0⟩, ⟨0, 0, .rw, 0⟩]
  | .DE_CH_CMD => [⟨2, 0, .wo, 0⟩]
  | .DE_CH_STATUS => [⟨63, 32, .ro, 0⟩, ⟨20, 16, .ro, 0⟩, ⟨11, 11, .w1c, 0⟩, ⟨10, 10, .ro, 0⟩, ⟨9, 9, .w1c, 0⟩, ⟨8, 8, .w1c, 0⟩, ⟨3, 0, .ro, 0⟩]
  | .DE_CH_DESC => [⟨63, 5, .rwh, 0⟩]
  | .DE_CH_LOOP => [⟨63, 63, .rwh, 0⟩, ⟨62, 62, .rwh, 0⟩, ⟨60, 48, .rwh, 0⟩, ⟨31, 0, .rwh, 0⟩]
  | .DE_CH_G => [⟨63, 0, .rwh, 0⟩]
  | .DE_SEM => [⟨63, 63, .rw, 0⟩, ⟨61, 56, .rw, 0⟩, ⟨16, 16, .w1c, 0⟩, ⟨15, 0, .rwh, 0⟩]
  | .DE_PROG => [⟨63, 0, .rw, 0⟩]
  | .DE_ENG_CTRL => [⟨15, 0, .rw, 0x400⟩]
  | .DE_ENG_STATUS => [⟨63, 48, .rwh, 0⟩, ⟨40, 32, .ro, 0⟩, ⟨1, 1, .w1c, 0⟩]
  | .WC_CTRL => [⟨3, 3, .rwl, 0⟩, ⟨2, 2, .rwl, 0⟩, ⟨1, 1, .rwl, 0⟩, ⟨0, 0, .w1s, 0⟩]
  | .WC_DBG => [⟨7, 4, .ro, 0⟩, ⟨3, 3, .rwh, 0⟩, ⟨2, 2, .rwh, 0⟩, ⟨1, 1, .rwh, 0⟩, ⟨0, 0, .rwh, 0⟩]
  | .WC_STATUS => [⟨63, 48, .rwh, 0⟩, ⟨47, 32, .rwh, 0⟩, ⟨1, 1, .ro, 0⟩, ⟨0, 0, .w1c, 0⟩]
  | .WC_DENY_ADDR => [⟨47, 0, .ro, 0⟩]
  | .WC_DENY_INFO => [⟨31, 28, .ro, 0⟩, ⟨27, 25, .ro, 0⟩, ⟨24, 24, .ro, 0⟩, ⟨21, 16, .ro, 0⟩, ⟨8, 0, .ro, 0⟩]
  | .WC_MITTEN_STATUS => [⟨27, 24, .ro, 0⟩, ⟨21, 16, .ro, 0⟩, ⟨8, 0, .ro, 0⟩]
  | .WC_MITTEN => [⟨63, 0, .rw, 0⟩]
  | .WC_MITTEN_EFF => [⟨63, 0, .ro, 0⟩]
  | .WC_CALL => [⟨0, 0, .rwh, 0⟩]
  | .WC_SENTRY => [⟨63, 2, .rw, 0⟩, ⟨0, 0, .rw, 0⟩]
  | .WC_SAVE_PC => [⟨63, 0, .rwh, 0⟩]
  | .WC_SAVE_STATUS => [⟨63, 0, .rwh, 0⟩]
  | .WC_SAVE_MODE => [⟨63, 63, .rwh, 0⟩, ⟨2, 2, .rwh, 0⟩, ⟨1, 0, .rwh, 3⟩]
  | .HELM_STATUS => [⟨23, 16, .ro, 0⟩, ⟨10, 8, .ro, 0⟩, ⟨4, 4, .ro, 0⟩, ⟨3, 3, .ro, 0⟩, ⟨2, 2, .ro, 0⟩, ⟨1, 1, .ro, 0⟩, ⟨0, 0, .ro, 0⟩]
  | .HELM_COUNTER => [⟨63, 0, .ro, 0⟩]
  | .HELM_DEVICE_ID => [⟨63, 0, .ro, 0⟩]
  | .HELM_MB_CTRL => [⟨31, 16, .rw, 0⟩, ⟨1, 1, .rw, 0⟩, ⟨0, 0, .wo, 0⟩]
  | .HELM_MB_STATUS => [⟨31, 16, .ro, 0⟩, ⟨15, 8, .ro, 0⟩, ⟨2, 2, .ro, 0⟩, ⟨1, 1, .w1c, 0⟩, ⟨0, 0, .ro, 0⟩]
  | .HELM_MB_REQ => [⟨63, 0, .rw, 0⟩]
  | .HELM_MB_RSP => [⟨63, 0, .ro, 0⟩]
  | .PQ_CTRL => [⟨1, 1, .rw, 0⟩, ⟨0, 0, .rw, 1⟩]
  | .PQ_RESET => [⟨0, 0, .wo, 0⟩]
  | .PQ_RESET_STATUS => [⟨63, 32, .ro, 0⟩, ⟨31, 24, .ro, 0⟩, ⟨23, 16, .ro, 0⟩, ⟨15, 8, .ro, 0⟩, ⟨7, 4, .w1c, 0⟩, ⟨1, 1, .w1c, 0⟩, ⟨0, 0, .ro, 0⟩]
  | .PQ_L3MASK => [⟨11, 0, .rw, 0⟩]
  | .PQ_VF => [⟨63, 63, .rw, 0⟩, ⟨62, 62, .rw, 0⟩, ⟨16, 16, .rw, 0⟩, ⟨15, 0, .rw, 0⟩]
  | .PQ_VF_CH => [⟨63, 0, .rw, 0⟩]
  | .PQ_HART => [⟨63, 63, .ro, 0⟩, ⟨8, 8, .ro, 0⟩, ⟨5, 0, .rw, 0⟩]
  | .PQ_REGION_SHARE => [⟨63, 0, .rw, 0⟩]
  | .PQ_L3_SHARED => [⟨11, 0, .rw, 0xfff⟩]
  | .PQ_DEVPART => [⟨63, 63, .rw, 0⟩, ⟨62, 62, .rw, 0⟩, ⟨61, 61, .rwh, 0⟩, ⟨53, 48, .rw, 0⟩, ⟨23, 0, .rw, 0⟩]
  | .PQ_DEVPART_MASK => [⟨23, 0, .rw, 0⟩]
  | .PQ_STATUS => [⟨63, 48, .rwh, 0⟩, ⟨47, 32, .rwh, 0⟩, ⟨1, 1, .w1c, 0⟩, ⟨0, 0, .w1c, 0⟩]
  | .PQ_DENY_ADDR => [⟨47, 0, .ro, 0⟩]
  | .PQ_DENY_INFO => [⟨31, 28, .ro, 0⟩, ⟨27, 25, .ro, 0⟩, ⟨24, 24, .ro, 0⟩, ⟨21, 16, .ro, 0⟩, ⟨8, 0, .ro, 0⟩]
  | .INT_STATUS => [⟨63, 48, .rwh, 0⟩, ⟨47, 32, .rwh, 0⟩, ⟨31, 24, .ro, 0⟩, ⟨23, 20, .ro, 0⟩, ⟨0, 0, .w1c, 0⟩]
  | .PE_PORT_CFG => [⟨7, 5, .rwl, 0⟩, ⟨1, 1, .rwl, 0⟩, ⟨0, 0, .w1s, 0⟩]
  | .PE_PORT_STATUS => [⟨63, 48, .rwh, 0⟩, ⟨11, 8, .ro, 0⟩, ⟨6, 6, .w1c, 0⟩, ⟨5, 5, .w1c, 0⟩, ⟨4, 4, .w1c, 0⟩, ⟨3, 3, .w1c, 0⟩, ⟨2, 2, .w1c, 0⟩, ⟨1, 1, .w1c, 0⟩, ⟨0, 0, .w1c, 0⟩]
  | .PE_EP_CFG => [⟨63, 63, .rw, 0⟩, ⟨15, 8, .rwl, 0x14⟩, ⟨7, 0, .rwl, 0x18⟩]
  | .PE_EP_CFG_PF_CH => [⟨63, 0, .rw, 0⟩]
  | .PE_LINK_CTRL => [⟨31, 16, .rw, 0x20⟩, ⟨15, 0, .rw, 0x3e8⟩]
  | .PE_OWIN_CFG => [⟨63, 63, .rw, 0⟩, ⟨62, 62, .rw, 0⟩, ⟨53, 48, .rw, 0⟩, ⟨41, 40, .rw, 0⟩, ⟨37, 32, .rw, 0⟩, ⟨29, 24, .rw, 0⟩, ⟨17, 16, .rw, 0⟩, ⟨8, 8, .rw, 0⟩]
  | .PE_OWIN_BASE => [⟨47, 16, .rw, 0⟩]
  | .PE_OWIN_BUS => [⟨63, 0, .rw, 0⟩]
  | .PE_FN_STATUS => [⟨47, 32, .rwh, 0⟩, ⟨2, 2, .ro, 0⟩, ⟨1, 1, .ro, 0⟩, ⟨0, 0, .ro, 0⟩]
  | .PE_FN_NOTIFY => [⟨63, 63, .rw, 0⟩, ⟨26, 16, .rw, 0⟩, ⟨13, 8, .rw, 0⟩, ⟨7, 0, .rw, 0⟩]
  | .PE_FN_DOORBELL => [⟨63, 0, .w1c, 0⟩]
  | .PE_FN_MSIX => [⟨3, 0, .wo, 0⟩]
  | .PE_IWIN_CTRL => [⟨63, 63, .rw, 0⟩, ⟨62, 62, .rw, 0⟩, ⟨37, 32, .rw, 0⟩]
  | .PE_IWIN_OFFSET => [⟨35, 12, .rw, 0⟩]
  | .PE_IWIN_TARGET => [⟨47, 12, .rw, 0⟩]
  | .PE_IWIN_COMMIT => [⟨2, 2, .ro, 0⟩, ⟨1, 1, .w1c, 0⟩, ⟨0, 0, .wo, 0⟩]
  | .PE_MBX_CTRL => [⟨63, 63, .ro, 0⟩, ⟨47, 32, .ro, 0⟩, ⟨19, 19, .w1c, 0⟩, ⟨18, 18, .w1c, 0⟩, ⟨17, 17, .w1c, 0⟩, ⟨16, 16, .wo, 0⟩, ⟨5, 0, .rw, 0⟩]
  | .PE_MBX_DATA => [⟨63, 0, .rw, 0⟩]
  | .PL_PORT_CFG => [⟨63, 40, .rw, 0⟩, ⟨31, 16, .rw, 0⟩, ⟨4, 4, .rw, 0⟩, ⟨2, 1, .rw, 0⟩, ⟨0, 0, .rw, 0⟩]
  | .PL_PORT_STATUS => [⟨27, 16, .ro, 0⟩, ⟨12, 12, .w1c, 0⟩, ⟨11, 11, .w1c, 0⟩, ⟨10, 10, .w1c, 0⟩, ⟨9, 9, .w1c, 0⟩, ⟨8, 8, .w1c, 0⟩, ⟨1, 0, .ro, 0⟩]
  | .PL_PORT_DELAY => [⟨63, 63, .ro, 0⟩, ⟨31, 0, .ro, 0⟩]
  | .PL_PORT_ERRCNT => [⟨63, 48, .rwh, 0⟩, ⟨47, 32, .rwh, 0⟩, ⟨31, 16, .rwh, 0⟩, ⟨15, 0, .rwh, 0⟩]
  | .PL_PORT_CMD => [⟨1, 1, .wo, 0⟩, ⟨0, 0, .wo, 0⟩]
  | .PL_NODE => [⟨63, 63, .w1s, 0⟩, ⟨27, 16, .rw, 0xfff⟩, ⟨11, 0, .rwl, 0⟩]
  | .PL_CTRL => [⟨47, 32, .rw, 0x2710⟩, ⟨16, 16, .rw, 0⟩, ⟨15, 0, .rw, 0xa⟩]
  | .PL_GSTATUS => [⟨63, 48, .rwh, 0⟩, ⟨47, 32, .rwh, 0⟩, ⟨4, 4, .w1c, 0⟩, ⟨3, 3, .w1c, 0⟩, ⟨2, 2, .w1c, 0⟩, ⟨1, 1, .w1c, 0⟩]
  | .PL_MSG_TX => [⟨63, 32, .wo, 0⟩, ⟨27, 16, .wo, 0⟩, ⟨7, 4, .wo, 0⟩, ⟨2, 0, .wo, 0⟩]
  | .PL_MSG_RX => [⟨63, 32, .ro, 0⟩, ⟨27, 16, .ro, 0⟩, ⟨8, 8, .ro, 0⟩, ⟨7, 4, .ro, 0⟩]
  | .PL_MSG_RX_TB => [⟨63, 0, .ro, 0⟩]
  | .PL_MSG_MAP => [⟨63, 63, .rw, 0⟩, ⟨58, 48, .rw, 0⟩, ⟨47, 47, .rw, 0⟩, ⟨45, 40, .rw, 0⟩, ⟨39, 32, .rw, 0⟩, ⟨23, 16, .rw, 0⟩, ⟨14, 12, .rw, 0⟩, ⟨1, 0, .rw, 0⟩]
  | .PL_OWIN_CFG => [⟨63, 63, .rw, 0⟩, ⟨62, 62, .rw, 0⟩, ⟨53, 48, .rw, 0⟩, ⟨37, 32, .rw, 0⟩, ⟨11, 0, .rw, 0⟩]
  | .PL_OWIN_BASE => [⟨47, 16, .rw, 0⟩]
  | .PL_OWIN_REMOTE => [⟨47, 0, .rw, 0⟩]
  | .PL_IWIN_CTRL => [⟨63, 63, .rw, 0⟩, ⟨62, 62, .rw, 0⟩, ⟨61, 61, .rw, 0⟩, ⟨53, 48, .rw, 0⟩, ⟨37, 32, .rw, 0⟩]
  | .PL_IWIN_OFFSET => [⟨47, 12, .rw, 0⟩]
  | .PL_IWIN_TARGET => [⟨47, 12, .rw, 0⟩]
  | .PL_IWIN_SRC => [⟨27, 16, .rw, 0⟩, ⟨11, 0, .rw, 0⟩]
  | .PL_IWIN_COMMIT => [⟨2, 2, .ro, 0⟩, ⟨0, 0, .wo, 0⟩]
  | .PL_RT => [⟨3, 0, .rw, 0xf⟩]
  | .PWR_CTRL => [⟨24, 16, .rwl, 0x190⟩, ⟨8, 8, .rw, 0⟩, ⟨5, 4, .rwl, 0⟩, ⟨0, 0, .w1s, 0⟩]
  | .PWR_PF_CFG => [⟨47, 32, .rw, 0x64⟩, ⟨15, 0, .rw, 0xfa0⟩]
  | .PWR_STATUS => [⟨13, 12, .ro, 3⟩, ⟨11, 11, .w1c, 0⟩, ⟨10, 10, .w1c, 0⟩, ⟨9, 9, .ro, 0⟩, ⟨8, 8, .w1c, 0⟩, ⟨6, 6, .w1c, 0⟩, ⟨5, 5, .ro, 0⟩, ⟨4, 4, .ro, 0⟩, ⟨1, 0, .ro, 1⟩]
  | .PWR_INPUT => [⟨47, 32, .ro, 0⟩, ⟨31, 16, .ro, 0⟩, ⟨15, 0, .ro, 0⟩]
  | .PWR_MITTEN_W => [⟨15, 0, .ro, 0⟩]
  | .PWR_DIE => [⟨63, 56, .ro, 0⟩, ⟨47, 40, .ro, 0x16⟩, ⟨39, 32, .ro, 0⟩, ⟨2, 2, .ro, 0⟩, ⟨1, 0, .ro, 0⟩]
  | .PWR_REQ => [⟨40, 32, .wo, 0⟩, ⟨23, 16, .wo, 0⟩, ⟨4, 4, .wo, 0⟩, ⟨3, 0, .wo, 0⟩]
  | .PWR_REQ_STATUS => [⟨40, 32, .ro, 0⟩, ⟨11, 8, .ro, 0⟩, ⟨1, 1, .w1c, 0⟩, ⟨0, 0, .ro, 0⟩]
  | .ST_STATUS => [⟨63, 48, .ro, 0⟩, ⟨47, 40, .ro, 0⟩, ⟨35, 32, .ro, 0⟩, ⟨11, 9, .ro, 3⟩, ⟨7, 7, .ro, 0⟩, ⟨6, 6, .ro, 0⟩, ⟨2, 0, .ro, 0⟩]
  | .ST_CTRL => [⟨63, 48, .rw, 0x2710⟩, ⟨2, 2, .wo, 0⟩, ⟨1, 1, .wo, 0⟩, ⟨0, 0, .wo, 0⟩]
  | .ST_REASON => [⟨63, 48, .ro, 0⟩, ⟨23, 21, .ro, 0⟩, ⟨20, 20, .ro, 0⟩, ⟨19, 16, .ro, 0⟩, ⟨8, 8, .ro, 0⟩, ⟨3, 0, .ro, 0⟩]
  | .ST_VECTOR => [⟨63, 0, .ro, 0⟩]
  | .ST_DIE => [⟨27, 16, .ro, 0⟩, ⟨11, 0, .ro, 0⟩]
  | .ST_EVLOG_HEAD => [⟨5, 0, .ro, 0⟩]
  | .ST_EVLOG => [⟨63, 0, .ro, 0⟩]
  | .LAN_STATUS => [⟨63, 48, .ro, 0⟩, ⟨47, 32, .rwh, 0⟩, ⟨15, 14, .ro, 0⟩, ⟨13, 12, .ro, 0⟩, ⟨9, 8, .ro, 0⟩, ⟨3, 2, .ro, 0⟩, ⟨1, 0, .ro, 0⟩]
  | .LAN_CFG => [⟨54, 48, .rw, 0x2a⟩, ⟨47, 32, .rw, 0xa⟩, ⟨15, 8, .rw, 3⟩, ⟨7, 0, .rw, 0xa⟩]
  | .LMB_CTRL => [⟨31, 16, .rw, 0⟩, ⟨15, 8, .rw, 0⟩, ⟨0, 0, .wo, 0⟩]
  | .LMB_STATUS => [⟨31, 16, .ro, 0⟩, ⟨15, 8, .ro, 0⟩, ⟨1, 1, .w1c, 0⟩, ⟨0, 0, .ro, 0⟩]
  | .LMB_BUF => [⟨63, 0, .rw, 0⟩]
  | .RAS_CTRL => [⟨8, 8, .rw, 0⟩, ⟨4, 0, .rw, 0x1c⟩]
  | .RAS_STATUS => [⟨63, 48, .rwh, 0⟩, ⟨47, 32, .rwh, 0⟩, ⟨2, 2, .w1c, 0⟩, ⟨1, 1, .w1c, 0⟩]
  | .RAS_LOG_PTR => [⟨41, 32, .ro, 0⟩, ⟨9, 0, .rwh, 0⟩]
  | .RAS_THRESH => [⟨63, 48, .rw, 0x10⟩, ⟨47, 32, .rw, 0x40⟩, ⟨7, 0, .rw, 2⟩]
  | .RAS_REPAIR => [⟨9, 0, .ro, 0⟩, ⟨27, 16, .ro, 0⟩]
  | .RAS_LOG => [⟨63, 0, .ro, 0⟩]
  | .RAS_AON_LOG => [⟨63, 0, .ro, 0⟩]
  | .RAS_AON_HEAD => [⟨4, 0, .ro, 0⟩]
  | .RAS_PROP => [⟨63, 63, .w1c, 0⟩, ⟨62, 62, .ro, 0⟩, ⟨61, 60, .ro, 0⟩, ⟨59, 44, .ro, 0⟩, ⟨15, 0, .ro, 0⟩]
  | .RAS_PROP_TARGET => [⟨63, 0, .ro, 0⟩]
  | .RAS_PAGE_HIST => [⟨63, 63, .rw, 0⟩, ⟨37, 12, .rw, 0⟩]
  | .DBG_STATUS => [⟨27, 16, .ro, 0⟩, ⟨2, 2, .w1c, 0⟩, ⟨1, 1, .w1c, 0⟩, ⟨0, 0, .ro, 0⟩]
  | .DBG_TEST_HOLD => [⟨11, 0, .rw, 0⟩]
  | .CTR_CTRL => [⟨63, 63, .w1c, 0⟩, ⟨62, 62, .w1c, 0⟩, ⟨33, 33, .rw, 0⟩, ⟨32, 32, .rw, 0⟩, ⟨19, 0, .rw, 0⟩]
  | .CTR_BASE => [⟨47, 6, .rw, 0⟩]
  | .CTR_LIMIT => [⟨47, 6, .rw, 0⟩]
  | .CTR_PTR => [⟨47, 32, .rwh, 0⟩, ⟨15, 0, .rwh, 0⟩]
  | .CTR_BUF_DATA => [⟨63, 0, .ro, 0⟩]

/-- Where a register lies. -/
def Reg.loc : Reg → Loc
  | .FAB_PKG_ID => ⟨0xff0001000000, []⟩
  | .FAB_POS_MAP => ⟨0xff0001000100, [(8, 240)]⟩
  | .FAB_HART_POS => ⟨0xff0001001000, [(8, 256)]⟩
  | .PHE_REF_CTRL => ⟨0xff0000000000, []⟩
  | .PHE_TB => ⟨0xff0000000008, []⟩
  | .PHE_REPLICA_STATUS => ⟨0xff0000000010, []⟩
  | .PHE_PORT_CFG => ⟨0xff0000001000, [(0x100, 8)]⟩
  | .PHE_PORT_AUX => ⟨0xff0000001008, [(0x100, 8)]⟩
  | .PHE_PORT_INIT => ⟨0xff0000001010, [(0x100, 8)]⟩
  | .PHE_PORT_PHASE => ⟨0xff0000001018, [(0x100, 8)]⟩
  | .PHE_PORT_INC => ⟨0xff0000001020, [(0x100, 8)]⟩
  | .PHE_PORT_NOMINAL => ⟨0xff0000001028, [(0x100, 8)]⟩
  | .PHE_PORT_EDGE_TB => ⟨0xff0000001030, [(0x100, 8)]⟩
  | .PHE_PORT_PERIOD => ⟨0xff0000001038, [(0x100, 8)]⟩
  | .PHE_PORT_STATUS => ⟨0xff0000001040, [(0x100, 8)]⟩
  | .PHE_PORT_TOD => ⟨0xff0000001048, [(0x100, 8)]⟩
  | .PHE_PORT_TOD_BASE => ⟨0xff0000001050, [(0x100, 8)]⟩
  | .PHE_PORT_CMD => ⟨0xff0000001058, [(0x100, 8)]⟩
  | .PHE_CAL_CTRL => ⟨0xff0000002000, []⟩
  | .PHE_CAL_STATUS => ⟨0xff0000002008, []⟩
  | .PHE_CAL_ERR => ⟨0xff0000002010, []⟩
  | .PHE_CAL_ERR_TB => ⟨0xff0000002018, []⟩
  | .PHE_CAL_BLOCK => ⟨0xff0000003000, [(8, 256)]⟩
  | .PHE_CAL_IDX => ⟨0xff0000004000, [(0x40, 128)]⟩
  | .PHE_CAL_W0 => ⟨0xff0000004008, [(0x40, 128)]⟩
  | .PHE_CAL_W1 => ⟨0xff0000004010, [(0x40, 128)]⟩
  | .PHE_CAL_W2 => ⟨0xff0000004018, [(0x40, 128)]⟩
  | .PHE_CAL_W3 => ⟨0xff0000004020, [(0x40, 128)]⟩
  | .PHE_CAL_CMD => ⟨0xff0000004028, [(0x40, 128)]⟩
  | .PHE_CAL_EDIT_STATUS => ⟨0xff0000004030, [(0x40, 128)]⟩
  | .TIO_PIN_CFG => ⟨0xff0000100000, [(0x40, 64)]⟩
  | .TIO_PIN_STATUS => ⟨0xff0000100008, [(0x40, 64)]⟩
  | .TIO_PIN_FORCE => ⟨0xff0000100010, [(0x40, 64)]⟩
  | .TIO_CAP_TB => ⟨0xff0000100018, [(0x40, 64)]⟩
  | .TIO_CAP_PHASE => ⟨0xff0000100020, [(0x40, 64)]⟩
  | .PHE_TSQ_STATUS => ⟨0xff0000008000, [(0x10, 512)]⟩
  | .PHE_TSQ_ERRADDR => ⟨0xff0000008008, [(0x10, 512)]⟩
  | .CD_CORE_CACHE_CTRL => ⟨0xff2000000000, [(0x100000000, 12), (0x10000, 20)]⟩
  | .CD_CORE_RANGE_BASE => ⟨0xff2000000010, [(0x100000000, 12), (0x10000, 20)]⟩
  | .CD_CORE_RANGE_LIMIT => ⟨0xff2000000018, [(0x100000000, 12), (0x10000, 20)]⟩
  | .CD_CORE_RANGE_CMD => ⟨0xff2000000020, [(0x100000000, 12), (0x10000, 20)]⟩
  | .CD_CORE_RANGE_STATUS => ⟨0xff2000000028, [(0x100000000, 12), (0x10000, 20)]⟩
  | .CD_CORE_ORD_STATUS => ⟨0xff2000000080, [(0x100000000, 12), (0x10000, 20)]⟩
  | .CD_CORE_ORD_ERRADDR => ⟨0xff2000000088, [(0x100000000, 12), (0x10000, 20)]⟩
  | .CD_CORE_L2_LOCK => ⟨0xff2000000040, [(0x100000000, 12), (0x10000, 20), (8, 2)]⟩
  | .CD_L3_LOCK => ⟨0xff2001000000, [(0x100000000, 12), (8, 4)]⟩
  | .CD_L3_RANGE_BASE => ⟨0xff2001000100, [(0x100000000, 12)]⟩
  | .CD_L3_RANGE_LIMIT => ⟨0xff2001000108, [(0x100000000, 12)]⟩
  | .CD_L3_RANGE_CMD => ⟨0xff2001000110, [(0x100000000, 12)]⟩
  | .CD_L3_RANGE_STATUS => ⟨0xff2001000118, [(0x100000000, 12)]⟩
  | .CD_L3_WAYDIS => ⟨0xff2001000200, [(0x100000000, 12), (8, 20)]⟩
  | .CD_CACHE_ERRCNT => ⟨0xff2001000400, [(0x100000000, 12)]⟩
  | .CD_COH_CTRL => ⟨0xff2001000800, [(0x100000000, 12)]⟩
  | .CD_COH_STATUS => ⟨0xff2001000808, [(0x100000000, 12)]⟩
  | .HA_CTRL => ⟨0xff0002000000, [(0x100000, 16)]⟩
  | .HA_STATUS => ⟨0xff0002000008, [(0x100000, 16)]⟩
  | .HA_DIR_OCC => ⟨0xff0002000010, [(0x100000, 16)]⟩
  | .HA_DIE_STATE => ⟨0xff0002000018, [(0x100000, 16)]⟩
  | .HA_ERR => ⟨0xff0002000020, [(0x100000, 16)]⟩
  | .HA_ERR_ADDR => ⟨0xff0002000028, [(0x100000, 16)]⟩
  | .MC_CTRL => ⟨0xff0003000000, [(0x10000, 16)]⟩
  | .MC_STATUS => ⟨0xff0003000008, [(0x10000, 16)]⟩
  | .MC_TRAIN => ⟨0xff0003000100, [(0x10000, 16), (8, 4)]⟩
  | .MC_CREDIT => ⟨0xff0003001000, [(0x10000, 16), (8, 64)]⟩
  | .MC_CREDIT_STATUS => ⟨0xff0003001400, [(0x10000, 16), (8, 64)]⟩
  | .MC_REGION_BASE => ⟨0xff0003100000, [(0x10, 64)]⟩
  | .MC_REGION_CODE => ⟨0xff0003100008, [(0x10, 64)]⟩
  | .MC_ECC_CTRL => ⟨0xff0003101000, []⟩
  | .MC_ECC_STATUS => ⟨0xff0003101008, []⟩
  | .MC_CE_CNT => ⟨0xff0003101100, [(8, 16)]⟩
  | .MC_LOG_ADDR => ⟨0xff0003102000, [(0x10, 16)]⟩
  | .MC_LOG_INFO => ⟨0xff0003102008, [(0x10, 16)]⟩
  | .MC_SCRUB_CTRL => ⟨0xff0003103000, []⟩
  | .MC_SCRUB_STATUS => ⟨0xff0003103100, [(8, 16)]⟩
  | .MC_INIT => ⟨0xff0003103800, []⟩
  | .MC_RETIRE => ⟨0xff0003104000, [(8, 256)]⟩
  | .MC_ECC_TEST_CTRL => ⟨0xff0003105000, []⟩
  | .MC_ECC_TEST_ADDR => ⟨0xff0003105008, []⟩
  | .MC_ECC_TEST_DATA => ⟨0xff0003105010, [(8, 4)]⟩
  | .MC_ECC_TEST_CHECK => ⟨0xff0003105030, []⟩
  | .MC_ECC_TEST_CMD => ⟨0xff0003105038, []⟩
  | .MC_ECC_TEST_STATUS => ⟨0xff0003105040, []⟩
  | .FAB_CTRL => ⟨0xff0001002000, []⟩
  | .FAB_EPOCH => ⟨0xff0001002008, []⟩
  | .FAB_TIMEOUT => ⟨0xff0001002010, []⟩
  | .FAB_STATUS => ⟨0xff0001002018, []⟩
  | .FAB_TO_ADDR => ⟨0xff0001002020, []⟩
  | .FAB_CHECK_INFO => ⟨0xff0001002028, []⟩
  | .FAB_SLOT => ⟨0xff0001002030, []⟩
  | .FAB_RSV_CFG => ⟨0xff0001003000, [(0x10, 64)]⟩
  | .FAB_RSV_STATUS => ⟨0xff0001003008, [(0x10, 64)]⟩
  | .FAB_RT_SEL => ⟨0xff0001004000, []⟩
  | .FAB_RT_DATA => ⟨0xff0001004008, []⟩
  | .FAB_RT_CMD => ⟨0xff0001004010, []⟩
  | .FAB_RT_STATUS => ⟨0xff0001004018, []⟩
  | .BAT_CTRL => ⟨0xff0001100000, [(0x100, 112)]⟩
  | .BAT_ADDR_VAL => ⟨0xff0001100008, [(0x100, 112)]⟩
  | .BAT_ADDR_MASK => ⟨0xff0001100010, [(0x100, 112)]⟩
  | .BAT_ID_FILTER => ⟨0xff0001100018, [(0x100, 112)]⟩
  | .BAT_OPC_MASK => ⟨0xff0001100020, [(0x100, 112)]⟩
  | .BAT_TRIG => ⟨0xff0001100028, [(0x100, 112)]⟩
  | .BAT_CNT_SEL => ⟨0xff0001100030, [(0x100, 112)]⟩
  | .BAT_STATUS => ⟨0xff0001100060, [(0x100, 112)]⟩
  | .BAT_CNT => ⟨0xff0001100038, [(0x100, 112), (8, 4)]⟩
  | .BAT_TRACE_CTRL => ⟨0xff0001108000, [(0x40, 13)]⟩
  | .BAT_TRACE_BASE => ⟨0xff0001108008, [(0x40, 13)]⟩
  | .BAT_TRACE_LIMIT => ⟨0xff0001108010, [(0x40, 13)]⟩
  | .BAT_TRACE_PTR => ⟨0xff0001108018, [(0x40, 13)]⟩
  | .BAT_BUF_DATA => ⟨0xff0001108020, [(0x40, 13)]⟩
  | .BAT_SECDROP => ⟨0xff0001108028, [(0x40, 13)]⟩
  | .BR_CTRL => ⟨0xff0005000000, [(0x10000, 12)]⟩
  | .BR_STATUS => ⟨0xff0005000008, [(0x10000, 12)]⟩
  | .BR_CAP => ⟨0xff0005000010, [(0x10000, 12)]⟩
  | .BR_LAT => ⟨0xff0005000018, [(0x10000, 12)]⟩
  | .BR_ERRCNT => ⟨0xff0005000300, [(0x10000, 12)]⟩
  | .BR_LMAP => ⟨0xff0005000100, [(0x10000, 12), (0x20, 4), (8, 3)]⟩
  | .BR_LFUSE => ⟨0xff0005000200, [(0x10000, 12), (0x20, 4), (8, 3)]⟩
  | .DE_CH_PC => ⟨0xff0004040000, [(0x100000, 4), (0x100, 64)]⟩
  | .DE_CH_ENTRY => ⟨0xff0004040008, [(0x100000, 4), (0x100, 64)]⟩
  | .DE_CH_WIN => ⟨0xff0004040010, [(0x100000, 4), (0x100, 64)]⟩
  | .DE_CH_EVT => ⟨0xff0004040018, [(0x100000, 4), (0x100, 64)]⟩
  | .DE_CH_MOVED => ⟨0xff0004040020, [(0x100000, 4), (0x100, 64)]⟩
  | .DE_CH_FAULT => ⟨0xff0004040028, [(0x100000, 4), (0x100, 64)]⟩
  | .DE_CH_FADDR => ⟨0xff0004040030, [(0x100000, 4), (0x100, 64)]⟩
  | .DE_CH_CFG => ⟨0xff0004040060, [(0x100000, 4), (0x100, 64)]⟩
  | .DE_CH_CMD => ⟨0xff0004040068, [(0x100000, 4), (0x100, 64)]⟩
  | .DE_CH_STATUS => ⟨0xff0004040070, [(0x100000, 4), (0x100, 64)]⟩
  | .DE_CH_DESC => ⟨0xff0004040078, [(0x100000, 4), (0x100, 64)]⟩
  | .DE_CH_LOOP => ⟨0xff0004040040, [(0x100000, 4), (0x100, 64), (8, 4)]⟩
  | .DE_CH_G => ⟨0xff0004040080, [(0x100000, 4), (0x100, 64), (8, 8)]⟩
  | .DE_SEM => ⟨0xff0004060000, [(0x100000, 4), (8, 64)]⟩
  | .DE_PROG => ⟨0xff0004080000, [(0x100000, 4), (8, 8192)]⟩
  | .DE_ENG_CTRL => ⟨0xff0004000000, [(0x100000, 4)]⟩
  | .DE_ENG_STATUS => ⟨0xff0004000008, [(0x100000, 4)]⟩
  | .WC_CTRL => ⟨0xff0008000000, []⟩
  | .WC_DBG => ⟨0xff0008000008, []⟩
  | .WC_STATUS => ⟨0xff0008000010, []⟩
  | .WC_DENY_ADDR => ⟨0xff0008000018, []⟩
  | .WC_DENY_INFO => ⟨0xff0008000020, []⟩
  | .WC_MITTEN_STATUS => ⟨0xff0008000028, []⟩
  | .WC_MITTEN => ⟨0xff0008000100, [(8, 5)]⟩
  | .WC_MITTEN_EFF => ⟨0xff0008000200, [(8, 5)]⟩
  | .WC_CALL => ⟨0xff0008004000, [(8, 256)]⟩
  | .WC_SENTRY => ⟨0xff0008001000, [(0x20, 256)]⟩
  | .WC_SAVE_PC => ⟨0xff0008001008, [(0x20, 256)]⟩
  | .WC_SAVE_STATUS => ⟨0xff0008001010, [(0x20, 256)]⟩
  | .WC_SAVE_MODE => ⟨0xff0008001018, [(0x20, 256)]⟩
  | .HELM_STATUS => ⟨0xff0008100000, []⟩
  | .HELM_COUNTER => ⟨0xff0008100008, []⟩
  | .HELM_DEVICE_ID => ⟨0xff0008100010, []⟩
  | .HELM_MB_CTRL => ⟨0xff0008110000, [(0x10000, 5)]⟩
  | .HELM_MB_STATUS => ⟨0xff0008110008, [(0x10000, 5)]⟩
  | .HELM_MB_REQ => ⟨0xff0008111000, [(0x10000, 5), (8, 134)]⟩
  | .HELM_MB_RSP => ⟨0xff0008111800, [(0x10000, 5), (8, 134)]⟩
  | .PQ_CTRL => ⟨0xff0009000000, [(0x40000, 64)]⟩
  | .PQ_RESET => ⟨0xff0009000008, [(0x40000, 64)]⟩
  | .PQ_RESET_STATUS => ⟨0xff0009000010, [(0x40000, 64)]⟩
  | .PQ_L3MASK => ⟨0xff0009000100, [(0x40000, 64), (8, 12)]⟩
  | .PQ_VF => ⟨0xff0009000200, [(0x40000, 64)]⟩
  | .PQ_VF_CH => ⟨0xff0009000210, [(0x40000, 64), (8, 4)]⟩
  | .PQ_HART => ⟨0xff0009010000, [(8, 256)]⟩
  | .PQ_REGION_SHARE => ⟨0xff0009010800, [(8, 64)]⟩
  | .PQ_L3_SHARED => ⟨0xff0009010c00, [(8, 12)]⟩
  | .PQ_DEVPART => ⟨0xff0009011000, [(0x10, 32)]⟩
  | .PQ_DEVPART_MASK => ⟨0xff0009011008, [(0x10, 32)]⟩
  | .PQ_STATUS => ⟨0xff0009012000, []⟩
  | .PQ_DENY_ADDR => ⟨0xff0009012008, []⟩
  | .PQ_DENY_INFO => ⟨0xff0009012010, []⟩
  | .INT_STATUS => ⟨0xff000a300000, []⟩
  | .PE_PORT_CFG => ⟨0xff0006000000, [(0x100000, 8)]⟩
  | .PE_PORT_STATUS => ⟨0xff0006000008, [(0x100000, 8)]⟩
  | .PE_EP_CFG => ⟨0xff0006000040, [(0x100000, 8)]⟩
  | .PE_EP_CFG_PF_CH => ⟨0xff0006000048, [(0x100000, 8), (8, 4)]⟩
  | .PE_LINK_CTRL => ⟨0xff0006000080, [(0x100000, 8), (8, 4)]⟩
  | .PE_OWIN_CFG => ⟨0xff0006001000, [(0x100000, 8), (0x20, 16)]⟩
  | .PE_OWIN_BASE => ⟨0xff0006001008, [(0x100000, 8), (0x20, 16)]⟩
  | .PE_OWIN_BUS => ⟨0xff0006001010, [(0x100000, 8), (0x20, 16)]⟩
  | .PE_FN_STATUS => ⟨0xff0006080000, [(0x100000, 8), (0x1000, 33)]⟩
  | .PE_FN_NOTIFY => ⟨0xff0006080008, [(0x100000, 8), (0x1000, 33)]⟩
  | .PE_FN_DOORBELL => ⟨0xff0006080010, [(0x100000, 8), (0x1000, 33)]⟩
  | .PE_FN_MSIX => ⟨0xff0006080018, [(0x100000, 8), (0x1000, 33)]⟩
  | .PE_IWIN_CTRL => ⟨0xff0006080100, [(0x100000, 8), (0x1000, 33), (0x20, 8)]⟩
  | .PE_IWIN_OFFSET => ⟨0xff0006080108, [(0x100000, 8), (0x1000, 33), (0x20, 8)]⟩
  | .PE_IWIN_TARGET => ⟨0xff0006080110, [(0x100000, 8), (0x1000, 33), (0x20, 8)]⟩
  | .PE_IWIN_COMMIT => ⟨0xff0006080200, [(0x100000, 8), (0x1000, 33)]⟩
  | .PE_MBX_CTRL => ⟨0xff0006080400, [(0x100000, 8), (0x1000, 33), (0x40, 16)]⟩
  | .PE_MBX_DATA => ⟨0xff0006080408, [(0x100000, 8), (0x1000, 33), (0x40, 16), (8, 7)]⟩
  | .PL_PORT_CFG => ⟨0xff0007000000, [(0x20000, 8)]⟩
  | .PL_PORT_STATUS => ⟨0xff0007000008, [(0x20000, 8)]⟩
  | .PL_PORT_DELAY => ⟨0xff0007000010, [(0x20000, 8)]⟩
  | .PL_PORT_ERRCNT => ⟨0xff0007000018, [(0x20000, 8)]⟩
  | .PL_PORT_CMD => ⟨0xff0007000020, [(0x20000, 8)]⟩
  | .PL_NODE => ⟨0xff0007010000, []⟩
  | .PL_CTRL => ⟨0xff0007010008, []⟩
  | .PL_GSTATUS => ⟨0xff0007010010, []⟩
  | .PL_MSG_TX => ⟨0xff0007010018, []⟩
  | .PL_MSG_RX => ⟨0xff0007010020, [(0x10, 2)]⟩
  | .PL_MSG_RX_TB => ⟨0xff0007010028, [(0x10, 2)]⟩
  | .PL_MSG_MAP => ⟨0xff0007010100, [(8, 16)]⟩
  | .PL_OWIN_CFG => ⟨0xff0007010200, [(0x20, 16)]⟩
  | .PL_OWIN_BASE => ⟨0xff0007010208, [(0x20, 16)]⟩
  | .PL_OWIN_REMOTE => ⟨0xff0007010210, [(0x20, 16)]⟩
  | .PL_IWIN_CTRL => ⟨0xff0007010400, [(0x20, 16)]⟩
  | .PL_IWIN_OFFSET => ⟨0xff0007010408, [(0x20, 16)]⟩
  | .PL_IWIN_TARGET => ⟨0xff0007010410, [(0x20, 16)]⟩
  | .PL_IWIN_SRC => ⟨0xff0007010418, [(0x20, 16)]⟩
  | .PL_IWIN_COMMIT => ⟨0xff0007010600, []⟩
  | .PL_RT => ⟨0xff0007018000, [(8, 4096)]⟩
  | .PWR_CTRL => ⟨0xff000b000000, []⟩
  | .PWR_PF_CFG => ⟨0xff000b000008, []⟩
  | .PWR_STATUS => ⟨0xff000b000010, []⟩
  | .PWR_INPUT => ⟨0xff000b000018, []⟩
  | .PWR_MITTEN_W => ⟨0xff000b000020, []⟩
  | .PWR_DIE => ⟨0xff000b000100, [(8, 12)]⟩
  | .PWR_REQ => ⟨0xff000b001000, [(0x10, 128)]⟩
  | .PWR_REQ_STATUS => ⟨0xff000b001008, [(0x10, 128)]⟩
  | .ST_STATUS => ⟨0xff000c080000, []⟩
  | .ST_CTRL => ⟨0xff000c080008, []⟩
  | .ST_REASON => ⟨0xff000c080010, []⟩
  | .ST_VECTOR => ⟨0xff000c080018, []⟩
  | .ST_DIE => ⟨0xff000c080020, []⟩
  | .ST_EVLOG_HEAD => ⟨0xff000c080300, []⟩
  | .ST_EVLOG => ⟨0xff000c080400, [(0x10, 64), (8, 2)]⟩
  | .LAN_STATUS => ⟨0xff000c080040, []⟩
  | .LAN_CFG => ⟨0xff000c080048, []⟩
  | .LMB_CTRL => ⟨0xff000c081000, []⟩
  | .LMB_STATUS => ⟨0xff000c081008, []⟩
  | .LMB_BUF => ⟨0xff000c081100, [(8, 32)]⟩
  | .RAS_CTRL => ⟨0xff000c000000, []⟩
  | .RAS_STATUS => ⟨0xff000c000008, []⟩
  | .RAS_LOG_PTR => ⟨0xff000c000010, []⟩
  | .RAS_THRESH => ⟨0xff000c000018, []⟩
  | .RAS_REPAIR => ⟨0xff000c000020, []⟩
  | .RAS_LOG => ⟨0xff000c010000, [(0x20, 1024), (8, 4)]⟩
  | .RAS_AON_LOG => ⟨0xff000c020000, [(0x20, 32), (8, 4)]⟩
  | .RAS_AON_HEAD => ⟨0xff000c020400, []⟩
  | .RAS_PROP => ⟨0xff000c030000, [(0x10, 32)]⟩
  | .RAS_PROP_TARGET => ⟨0xff000c030008, [(0x10, 32)]⟩
  | .RAS_PAGE_HIST => ⟨0xff000c040000, [(8, 256)]⟩
  | .DBG_STATUS => ⟨0xff000d100000, []⟩
  | .DBG_TEST_HOLD => ⟨0xff000d100008, []⟩
  | .CTR_CTRL => ⟨0xff000d101000, [(0x40, 12)]⟩
  | .CTR_BASE => ⟨0xff000d101008, [(0x40, 12)]⟩
  | .CTR_LIMIT => ⟨0xff000d101010, [(0x40, 12)]⟩
  | .CTR_PTR => ⟨0xff000d101018, [(0x40, 12)]⟩
  | .CTR_BUF_DATA => ⟨0xff000d101020, [(0x40, 12)]⟩

/-- Every register name. -/
def Reg.all : List Reg := (List.range 246).map Reg.ofNat

/-- The value that a register's table gives after power-on reset (R14), fuse fields as 0. -/
def Reg.tableReset (r : Reg) : Word :=
  BitVec.ofNat 64 (r.rows.foldl (fun a x => a + x.rst * 2 ^ x.lo) 0)

/-! ## The SKUs (R1, R3, R26, R28, R30) -/

/-- The three parts that the manual covers. -/
inductive Sku where
  | zd216_256 | zd216_128 | zd192_128
  deriving DecidableEq, Repr

/-- The active cores of each compute die. -/
def Sku.perDie : Sku → Nat
  | .zd192_128 => 16
  | _ => 18

/-- The active cores of the package: its harts are 0 to one below. -/
def Sku.cores (k : Sku) : Nat := 12 * k.perDie

/-- The bytes of DRAM. -/
def Sku.dramBytes : Sku → Nat
  | .zd216_256 => 2 ^ 38
  | _ => 2 ^ 37

/-- The code in FAB_PKG_ID.SKU. -/
def Sku.code : Sku → Nat
  | .zd216_256 => 1
  | .zd216_128 => 2
  | .zd192_128 => 3

/-- The capability vector of an IOD revision (R322); of a revision that is not in the table, the fused one. -/
def iodVector (rev : BitVec 4) : BitVec 8 := if rev = 1 then 0x0F else if rev = 2 then 0x1F else Config.iodCap

/-- FAB_PKG_ID. -/
def Sku.pkgId (k : Sku) : Word :=
  BitVec.ofNat 64 (k.dramBytes / 2 ^ 33 * 2 ^ 40 + k.cores * 2 ^ 32 + Config.iodRev.toNat * 2 ^ 20 + k.code * 2 ^ 16 + 0x216)

/-- FAB_POS_MAP(i) at shipment: the active cores, then two spares, then what the fuses disable. DESIGN CHOICE: which
positions of a die are the spare and the disabled ones the spec leaves to the fuse map. -/
def Sku.posMap (k : Sku) (i : Nat) : Word :=
  let p := i % 20
  if p < k.perDie then BitVec.ofNat 64 ((k.perDie * (i / 20) + p) * 2 ^ 8 + 2)
  else if p < k.perDie + 2 then BitVec.ofNat 64 (1 * 2 ^ 2 + 2)
  else BitVec.ofNat 64 (3 * 2 ^ 2 + 2)

/-- FAB_HART_POS(h) at shipment. -/
def Sku.hartPos (k : Sku) (h : Nat) : Word :=
  if h < k.cores then BitVec.ofNat 64 (2 ^ 63 + (h % k.perDie) * 2 ^ 4 + h / k.perDie) else 0

/-- PQ_HART(h) at reset. -/
def Sku.pqHart (k : Sku) (h : Nat) : Word := if h < k.cores then BitVec.ofNat 64 (2 ^ 63) else 0

/-- What instance i of a register reads as while nothing has changed it: the Reset column (R14), the identification and
position fuses of R30 for a ZD216-256 as shipped (R28; skuFuses sets those of the other parts), and the fuse and store
values of Config. -/
def Reg.reset (r : Reg) (i : Nat) : Word :=
  match r with
  | .FAB_PKG_ID => Sku.pkgId .zd216_256
  | .FAB_POS_MAP => Sku.posMap .zd216_256 i
  | .FAB_HART_POS => Sku.hartPos .zd216_256 i
  | .CD_L3_WAYDIS => BitVec.ofNat 64 ((16 - Config.fuseRows (i / 20) 8 (i % 20)) * 2 ^ 16)
  | .BR_CAP => BitVec.ofNat 64 (Config.iodRev.toNat * 2 ^ 28 + (iodVector Config.iodRev).toNat * 2 ^ 8)
  | .HELM_DEVICE_ID => Config.deviceId
  | .PQ_HART => Sku.pqHart .zd216_256 i
  | _ => r.tableReset

/-- The key of instance i of a register in the register file. -/
def Reg.key (r : Reg) (i : Nat) : Nat := r.ctorIdx + 1024 * i

/-- What an unlisted key of the register file reads as. -/
def regDefault (k : Nat) : Word := Reg.reset (Reg.ofNat (k % 1024)) (k / 1024)

/-! The named fields. -/
namespace F

abbrev FAB_PKG_ID_DRAM_8GIB : Fld := ⟨.FAB_PKG_ID, 47, 40⟩
abbrev FAB_PKG_ID_ACTIVE_CORES : Fld := ⟨.FAB_PKG_ID, 39, 32⟩
abbrev FAB_PKG_ID_IOD_REV : Fld := ⟨.FAB_PKG_ID, 23, 20⟩
abbrev FAB_PKG_ID_SKU : Fld := ⟨.FAB_PKG_ID, 19, 16⟩
abbrev FAB_PKG_ID_PART : Fld := ⟨.FAB_PKG_ID, 15, 0⟩
abbrev FAB_POS_MAP_HART_ID : Fld := ⟨.FAB_POS_MAP, 15, 8⟩
abbrev FAB_POS_MAP_STATE : Fld := ⟨.FAB_POS_MAP, 3, 2⟩
abbrev FAB_POS_MAP_SLICE_ACTIVE : Fld := ⟨.FAB_POS_MAP, 1, 1⟩
abbrev FAB_HART_POS_VALID : Fld := ⟨.FAB_HART_POS, 63, 63⟩
abbrev FAB_HART_POS_POS : Fld := ⟨.FAB_HART_POS, 8, 4⟩
abbrev FAB_HART_POS_DIE : Fld := ⟨.FAB_HART_POS, 3, 0⟩
abbrev PHE_REF_CTRL_DIE_BCAST : Fld := ⟨.PHE_REF_CTRL, 15, 4⟩
abbrev PHE_REF_CTRL_LOCK : Fld := ⟨.PHE_REF_CTRL, 0, 0⟩
abbrev PHE_TB_TB : Fld := ⟨.PHE_TB, 63, 0⟩
abbrev PHE_REPLICA_STATUS_MISS : Fld := ⟨.PHE_REPLICA_STATUS, 27, 16⟩
abbrev PHE_REPLICA_STATUS_VALID : Fld := ⟨.PHE_REPLICA_STATUS, 11, 0⟩
abbrev PHE_PORT_CFG_WORLD : Fld := ⟨.PHE_PORT_CFG, 63, 63⟩
abbrev PHE_PORT_CFG_CPC : Fld := ⟨.PHE_PORT_CFG, 55, 32⟩
abbrev PHE_PORT_CFG_BW : Fld := ⟨.PHE_PORT_CFG, 31, 28⟩
abbrev PHE_PORT_CFG_LOCK_EDGES : Fld := ⟨.PHE_PORT_CFG, 27, 24⟩
abbrev PHE_PORT_CFG_LOSS_K : Fld := ⟨.PHE_PORT_CFG, 23, 20⟩
abbrev PHE_PORT_CFG_RELOCK : Fld := ⟨.PHE_PORT_CFG, 19, 18⟩
abbrev PHE_PORT_CFG_TOL : Fld := ⟨.PHE_PORT_CFG, 17, 16⟩
abbrev PHE_PORT_CFG_FILTER : Fld := ⟨.PHE_PORT_CFG, 15, 12⟩
abbrev PHE_PORT_CFG_DECODE : Fld := ⟨.PHE_PORT_CFG, 11, 10⟩
abbrev PHE_PORT_CFG_EDGE : Fld := ⟨.PHE_PORT_CFG, 9, 8⟩
abbrev PHE_PORT_CFG_Z_EN : Fld := ⟨.PHE_PORT_CFG, 7, 7⟩
abbrev PHE_PORT_CFG_Z_SNAP : Fld := ⟨.PHE_PORT_CFG, 6, 6⟩
abbrev PHE_PORT_CFG_INVERT_DIR : Fld := ⟨.PHE_PORT_CFG, 5, 5⟩
abbrev PHE_PORT_CFG_KIND : Fld := ⟨.PHE_PORT_CFG, 3, 1⟩
abbrev PHE_PORT_CFG_ENABLE : Fld := ⟨.PHE_PORT_CFG, 0, 0⟩
abbrev PHE_PORT_AUX_HOLD_MAX : Fld := ⟨.PHE_PORT_AUX, 63, 32⟩
abbrev PHE_PORT_AUX_REMOTE_PH : Fld := ⟨.PHE_PORT_AUX, 6, 4⟩
abbrev PHE_PORT_AUX_PLPORT : Fld := ⟨.PHE_PORT_AUX, 2, 0⟩
abbrev PHE_PORT_INIT_VAL : Fld := ⟨.PHE_PORT_INIT, 63, 0⟩
abbrev PHE_PORT_PHASE_VAL : Fld := ⟨.PHE_PORT_PHASE, 63, 0⟩
abbrev PHE_PORT_INC_VAL : Fld := ⟨.PHE_PORT_INC, 63, 0⟩
abbrev PHE_PORT_NOMINAL_VAL : Fld := ⟨.PHE_PORT_NOMINAL, 63, 0⟩
abbrev PHE_PORT_EDGE_TB_VAL : Fld := ⟨.PHE_PORT_EDGE_TB, 63, 0⟩
abbrev PHE_PORT_PERIOD_VAL : Fld := ⟨.PHE_PORT_PERIOD, 39, 0⟩
abbrev PHE_PORT_STATUS_EDGES : Fld := ⟨.PHE_PORT_STATUS, 63, 32⟩
abbrev PHE_PORT_STATUS_QERR_CNT : Fld := ⟨.PHE_PORT_STATUS, 31, 24⟩
abbrev PHE_PORT_STATUS_CFGERR : Fld := ⟨.PHE_PORT_STATUS, 15, 15⟩
abbrev PHE_PORT_STATUS_POS_SUSPECT : Fld := ⟨.PHE_PORT_STATUS, 14, 14⟩
abbrev PHE_PORT_STATUS_REV : Fld := ⟨.PHE_PORT_STATUS, 13, 13⟩
abbrev PHE_PORT_STATUS_ZERR : Fld := ⟨.PHE_PORT_STATUS, 12, 12⟩
abbrev PHE_PORT_STATUS_QERR : Fld := ⟨.PHE_PORT_STATUS, 11, 11⟩
abbrev PHE_PORT_STATUS_LOSS : Fld := ⟨.PHE_PORT_STATUS, 10, 10⟩
abbrev PHE_PORT_STATUS_LOCKED_EV : Fld := ⟨.PHE_PORT_STATUS, 9, 9⟩
abbrev PHE_PORT_STATUS_STEPPED : Fld := ⟨.PHE_PORT_STATUS, 8, 8⟩
abbrev PHE_PORT_STATUS_DIR : Fld := ⟨.PHE_PORT_STATUS, 4, 4⟩
abbrev PHE_PORT_STATUS_STATE : Fld := ⟨.PHE_PORT_STATUS, 2, 0⟩
abbrev PHE_PORT_TOD_ARM : Fld := ⟨.PHE_PORT_TOD, 63, 63⟩
abbrev PHE_PORT_TOD_TOD_NEXT : Fld := ⟨.PHE_PORT_TOD, 47, 0⟩
abbrev PHE_PORT_TOD_BASE_VALID : Fld := ⟨.PHE_PORT_TOD_BASE, 63, 63⟩
abbrev PHE_PORT_TOD_BASE_TOD_BASE : Fld := ⟨.PHE_PORT_TOD_BASE, 47, 0⟩
abbrev PHE_PORT_CMD_RESTART : Fld := ⟨.PHE_PORT_CMD, 2, 2⟩
abbrev PHE_PORT_CMD_FORCE_HOLDOVER : Fld := ⟨.PHE_PORT_CMD, 1, 1⟩
abbrev PHE_PORT_CMD_RESYNC : Fld := ⟨.PHE_PORT_CMD, 0, 0⟩
abbrev PHE_CAL_CTRL_LATE_LIMIT : Fld := ⟨.PHE_CAL_CTRL, 15, 8⟩
abbrev PHE_CAL_CTRL_EDGE_COMP : Fld := ⟨.PHE_CAL_CTRL, 1, 1⟩
abbrev PHE_CAL_CTRL_ENABLE : Fld := ⟨.PHE_CAL_CTRL, 0, 0⟩
abbrev PHE_CAL_STATUS_DUE_MAX : Fld := ⟨.PHE_CAL_STATUS, 44, 32⟩
abbrev PHE_CAL_STATUS_DUE : Fld := ⟨.PHE_CAL_STATUS, 28, 16⟩
abbrev PHE_CAL_STATUS_CANCEL_BUSY : Fld := ⟨.PHE_CAL_STATUS, 3, 3⟩
abbrev PHE_CAL_STATUS_CFGERR : Fld := ⟨.PHE_CAL_STATUS, 2, 2⟩
abbrev PHE_CAL_STATUS_ERR : Fld := ⟨.PHE_CAL_STATUS, 1, 1⟩
abbrev PHE_CAL_STATUS_OVERFLOW : Fld := ⟨.PHE_CAL_STATUS, 0, 0⟩
abbrev PHE_CAL_ERR_COUNT : Fld := ⟨.PHE_CAL_ERR, 63, 48⟩
abbrev PHE_CAL_ERR_CODE : Fld := ⟨.PHE_CAL_ERR, 19, 16⟩
abbrev PHE_CAL_ERR_ENTRY : Fld := ⟨.PHE_CAL_ERR, 15, 0⟩
abbrev PHE_CAL_ERR_TB_TB : Fld := ⟨.PHE_CAL_ERR_TB, 63, 0⟩
abbrev PHE_CAL_BLOCK_WORLD : Fld := ⟨.PHE_CAL_BLOCK, 63, 63⟩
abbrev PHE_CAL_BLOCK_PART : Fld := ⟨.PHE_CAL_BLOCK, 13, 8⟩
abbrev PHE_CAL_BLOCK_ENABLE : Fld := ⟨.PHE_CAL_BLOCK, 0, 0⟩
abbrev PHE_CAL_IDX_VAL : Fld := ⟨.PHE_CAL_IDX, 15, 0⟩
abbrev PHE_CAL_W0_VAL : Fld := ⟨.PHE_CAL_W0, 63, 0⟩
abbrev PHE_CAL_W1_VAL : Fld := ⟨.PHE_CAL_W1, 63, 0⟩
abbrev PHE_CAL_W2_VAL : Fld := ⟨.PHE_CAL_W2, 63, 0⟩
abbrev PHE_CAL_W3_VAL : Fld := ⟨.PHE_CAL_W3, 63, 0⟩
abbrev PHE_CAL_CMD_CMD : Fld := ⟨.PHE_CAL_CMD, 2, 0⟩
abbrev PHE_CAL_EDIT_STATUS_STATUS : Fld := ⟨.PHE_CAL_EDIT_STATUS, 3, 0⟩
abbrev PHE_CAL_EDIT_STATUS_PURGED : Fld := ⟨.PHE_CAL_EDIT_STATUS, 4, 4⟩
abbrev TIO_PIN_CFG_WORLD : Fld := ⟨.TIO_PIN_CFG, 63, 63⟩
abbrev TIO_PIN_CFG_PART : Fld := ⟨.TIO_PIN_CFG, 61, 56⟩
abbrev TIO_PIN_CFG_CAP_PORT : Fld := ⟨.TIO_PIN_CFG, 18, 16⟩
abbrev TIO_PIN_CFG_CAP_EDGE : Fld := ⟨.TIO_PIN_CFG, 13, 12⟩
abbrev TIO_PIN_CFG_SAFE : Fld := ⟨.TIO_PIN_CFG, 9, 8⟩
abbrev TIO_PIN_CFG_CAP_IRQ : Fld := ⟨.TIO_PIN_CFG, 4, 4⟩
abbrev TIO_PIN_CFG_MODE : Fld := ⟨.TIO_PIN_CFG, 1, 0⟩
abbrev TIO_PIN_STATUS_CAP_LOST : Fld := ⟨.TIO_PIN_STATUS, 63, 56⟩
abbrev TIO_PIN_STATUS_CAP_COUNT : Fld := ⟨.TIO_PIN_STATUS, 52, 48⟩
abbrev TIO_PIN_STATUS_PINCONF : Fld := ⟨.TIO_PIN_STATUS, 3, 3⟩
abbrev TIO_PIN_STATUS_OVF : Fld := ⟨.TIO_PIN_STATUS, 2, 2⟩
abbrev TIO_PIN_STATUS_LEVEL : Fld := ⟨.TIO_PIN_STATUS, 0, 0⟩
abbrev TIO_PIN_FORCE_VAL : Fld := ⟨.TIO_PIN_FORCE, 1, 0⟩
abbrev TIO_CAP_TB_VAL : Fld := ⟨.TIO_CAP_TB, 63, 0⟩
abbrev TIO_CAP_PHASE_VAL : Fld := ⟨.TIO_CAP_PHASE, 63, 0⟩
abbrev PHE_TSQ_STATUS_DISC_CNT : Fld := ⟨.PHE_TSQ_STATUS, 31, 24⟩
abbrev PHE_TSQ_STATUS_LATE_CNT : Fld := ⟨.PHE_TSQ_STATUS, 23, 16⟩
abbrev PHE_TSQ_STATUS_CANCELLED : Fld := ⟨.PHE_TSQ_STATUS, 11, 11⟩
abbrev PHE_TSQ_STATUS_ERR : Fld := ⟨.PHE_TSQ_STATUS, 10, 10⟩
abbrev PHE_TSQ_STATUS_LATE : Fld := ⟨.PHE_TSQ_STATUS, 9, 9⟩
abbrev PHE_TSQ_STATUS_PENDING : Fld := ⟨.PHE_TSQ_STATUS, 4, 0⟩
abbrev PHE_TSQ_ERRADDR_ADDR : Fld := ⟨.PHE_TSQ_ERRADDR, 47, 0⟩
abbrev CD_CORE_CACHE_CTRL_L2_DRAINING : Fld := ⟨.CD_CORE_CACHE_CTRL, 4, 4⟩
abbrev CD_CORE_CACHE_CTRL_STREAM_OLD : Fld := ⟨.CD_CORE_CACHE_CTRL, 3, 3⟩
abbrev CD_CORE_CACHE_CTRL_L2_EN : Fld := ⟨.CD_CORE_CACHE_CTRL, 2, 2⟩
abbrev CD_CORE_CACHE_CTRL_L1D_EN : Fld := ⟨.CD_CORE_CACHE_CTRL, 1, 1⟩
abbrev CD_CORE_CACHE_CTRL_L1I_EN : Fld := ⟨.CD_CORE_CACHE_CTRL, 0, 0⟩
abbrev CD_CORE_RANGE_BASE_VAL : Fld := ⟨.CD_CORE_RANGE_BASE, 47, 6⟩
abbrev CD_CORE_RANGE_LIMIT_VAL : Fld := ⟨.CD_CORE_RANGE_LIMIT, 47, 6⟩
abbrev CD_CORE_RANGE_CMD_VAL : Fld := ⟨.CD_CORE_RANGE_CMD, 2, 0⟩
abbrev CD_CORE_RANGE_STATUS_LINES : Fld := ⟨.CD_CORE_RANGE_STATUS, 63, 32⟩
abbrev CD_CORE_RANGE_STATUS_LOCK_BREAK : Fld := ⟨.CD_CORE_RANGE_STATUS, 8, 8⟩
abbrev CD_CORE_RANGE_STATUS_CFGERR : Fld := ⟨.CD_CORE_RANGE_STATUS, 7, 7⟩
abbrev CD_CORE_RANGE_STATUS_ERR : Fld := ⟨.CD_CORE_RANGE_STATUS, 6, 4⟩
abbrev CD_CORE_RANGE_STATUS_DONE : Fld := ⟨.CD_CORE_RANGE_STATUS, 1, 1⟩
abbrev CD_CORE_RANGE_STATUS_BUSY : Fld := ⟨.CD_CORE_RANGE_STATUS, 0, 0⟩
abbrev CD_CORE_ORD_STATUS_ERR_CNT : Fld := ⟨.CD_CORE_ORD_STATUS, 63, 48⟩
abbrev CD_CORE_ORD_STATUS_SB_MAX : Fld := ⟨.CD_CORE_ORD_STATUS, 39, 32⟩
abbrev CD_CORE_ORD_STATUS_ERR : Fld := ⟨.CD_CORE_ORD_STATUS, 8, 8⟩
abbrev CD_CORE_ORD_STATUS_SB_COUNT : Fld := ⟨.CD_CORE_ORD_STATUS, 5, 0⟩
abbrev CD_CORE_ORD_ERRADDR_W : Fld := ⟨.CD_CORE_ORD_ERRADDR, 63, 63⟩
abbrev CD_CORE_ORD_ERRADDR_ADDR : Fld := ⟨.CD_CORE_ORD_ERRADDR, 47, 0⟩
abbrev CD_CORE_L2_LOCK_EN : Fld := ⟨.CD_CORE_L2_LOCK, 63, 63⟩
abbrev CD_CORE_L2_LOCK_SIZE : Fld := ⟨.CD_CORE_L2_LOCK, 57, 52⟩
abbrev CD_CORE_L2_LOCK_BASE : Fld := ⟨.CD_CORE_L2_LOCK, 47, 16⟩
abbrev CD_CORE_L2_LOCK_WAYS : Fld := ⟨.CD_CORE_L2_LOCK, 15, 0⟩
abbrev CD_L3_LOCK_EN : Fld := ⟨.CD_L3_LOCK, 63, 63⟩
abbrev CD_L3_LOCK_SIZE : Fld := ⟨.CD_L3_LOCK, 57, 52⟩
abbrev CD_L3_LOCK_BASE : Fld := ⟨.CD_L3_LOCK, 47, 16⟩
abbrev CD_L3_LOCK_WAYS : Fld := ⟨.CD_L3_LOCK, 15, 0⟩
abbrev CD_L3_RANGE_BASE_VAL : Fld := ⟨.CD_L3_RANGE_BASE, 47, 6⟩
abbrev CD_L3_RANGE_LIMIT_VAL : Fld := ⟨.CD_L3_RANGE_LIMIT, 47, 6⟩
abbrev CD_L3_RANGE_CMD_VAL : Fld := ⟨.CD_L3_RANGE_CMD, 2, 0⟩
abbrev CD_L3_RANGE_STATUS_LINES : Fld := ⟨.CD_L3_RANGE_STATUS, 63, 32⟩
abbrev CD_L3_RANGE_STATUS_LOCK_BREAK : Fld := ⟨.CD_L3_RANGE_STATUS, 8, 8⟩
abbrev CD_L3_RANGE_STATUS_CFGERR : Fld := ⟨.CD_L3_RANGE_STATUS, 7, 7⟩
abbrev CD_L3_RANGE_STATUS_ERR : Fld := ⟨.CD_L3_RANGE_STATUS, 6, 4⟩
abbrev CD_L3_RANGE_STATUS_DONE : Fld := ⟨.CD_L3_RANGE_STATUS, 1, 1⟩
abbrev CD_L3_RANGE_STATUS_BUSY : Fld := ⟨.CD_L3_RANGE_STATUS, 0, 0⟩
abbrev CD_L3_WAYDIS_SPARES_LEFT : Fld := ⟨.CD_L3_WAYDIS, 20, 16⟩
abbrev CD_L3_WAYDIS_WAYDIS : Fld := ⟨.CD_L3_WAYDIS, 11, 0⟩
abbrev CD_CACHE_ERRCNT_TAGFIX : Fld := ⟨.CD_CACHE_ERRCNT, 63, 48⟩
abbrev CD_CACHE_ERRCNT_L3_CE : Fld := ⟨.CD_CACHE_ERRCNT, 47, 32⟩
abbrev CD_CACHE_ERRCNT_L2_CE : Fld := ⟨.CD_CACHE_ERRCNT, 31, 16⟩
abbrev CD_CACHE_ERRCNT_L1_PAR : Fld := ⟨.CD_CACHE_ERRCNT, 15, 0⟩
abbrev CD_COH_CTRL_TENURE : Fld := ⟨.CD_COH_CTRL, 25, 16⟩
abbrev CD_COH_STATUS_TENURE_DLY : Fld := ⟨.CD_COH_STATUS, 63, 48⟩
abbrev CD_COH_STATUS_VB_READS : Fld := ⟨.CD_COH_STATUS, 47, 32⟩
abbrev CD_COH_STATUS_VB_MAX : Fld := ⟨.CD_COH_STATUS, 3, 0⟩
abbrev HA_CTRL_GT_RESERVE : Fld := ⟨.HA_CTRL, 25, 16⟩
abbrev HA_CTRL_ATOMIC_BUF_EN : Fld := ⟨.HA_CTRL, 2, 2⟩
abbrev HA_CTRL_LOCK : Fld := ⟨.HA_CTRL, 0, 0⟩
abbrev HA_STATUS_DIRWAIT_CNT : Fld := ⟨.HA_STATUS, 63, 48⟩
abbrev HA_STATUS_QUEUE : Fld := ⟨.HA_STATUS, 37, 28⟩
abbrev HA_STATUS_PRIO_PTR : Fld := ⟨.HA_STATUS, 19, 16⟩
abbrev HA_STATUS_WBP_CNT : Fld := ⟨.HA_STATUS, 15, 0⟩
abbrev HA_DIR_OCC_EX_COUNT : Fld := ⟨.HA_DIR_OCC, 51, 32⟩
abbrev HA_DIR_OCC_SH_COUNT : Fld := ⟨.HA_DIR_OCC, 19, 0⟩
abbrev HA_DIE_STATE_ABSENT : Fld := ⟨.HA_DIE_STATE, 11, 0⟩
abbrev HA_ERR_COUNT : Fld := ⟨.HA_ERR, 63, 48⟩
abbrev HA_ERR_CODE : Fld := ⟨.HA_ERR, 7, 4⟩
abbrev HA_ERR_ERR : Fld := ⟨.HA_ERR, 0, 0⟩
abbrev HA_ERR_ADDR_LINE : Fld := ⟨.HA_ERR_ADDR, 47, 6⟩
abbrev MC_CTRL_PD_IDLE : Fld := ⟨.MC_CTRL, 31, 24⟩
abbrev MC_CTRL_GT_LINES : Fld := ⟨.MC_CTRL, 17, 16⟩
abbrev MC_CTRL_PD_EN : Fld := ⟨.MC_CTRL, 2, 2⟩
abbrev MC_CTRL_ATOMIC_EN : Fld := ⟨.MC_CTRL, 1, 1⟩
abbrev MC_CTRL_LOCK : Fld := ⟨.MC_CTRL, 0, 0⟩
abbrev MC_STATUS_GT_LATE : Fld := ⟨.MC_STATUS, 63, 48⟩
abbrev MC_STATUS_FORCED_REF : Fld := ⟨.MC_STATUS, 47, 32⟩
abbrev MC_STATUS_TEMP_RATE : Fld := ⟨.MC_STATUS, 19, 18⟩
abbrev MC_STATUS_CFGERR : Fld := ⟨.MC_STATUS, 16, 16⟩
abbrev MC_STATUS_SELFREF : Fld := ⟨.MC_STATUS, 15, 12⟩
abbrev MC_STATUS_PWRDN : Fld := ⟨.MC_STATUS, 11, 8⟩
abbrev MC_STATUS_FAILED : Fld := ⟨.MC_STATUS, 7, 4⟩
abbrev MC_STATUS_TRAINED : Fld := ⟨.MC_STATUS, 3, 0⟩
abbrev MC_TRAIN_WR_EYE : Fld := ⟨.MC_TRAIN, 55, 48⟩
abbrev MC_TRAIN_RD_EYE : Fld := ⟨.MC_TRAIN, 47, 40⟩
abbrev MC_TRAIN_ATTEMPTS : Fld := ⟨.MC_TRAIN, 35, 32⟩
abbrev MC_TRAIN_FAIL_STEP : Fld := ⟨.MC_TRAIN, 27, 24⟩
abbrev MC_TRAIN_STATE : Fld := ⟨.MC_TRAIN, 17, 16⟩
abbrev MC_TRAIN_TRACK_CNT : Fld := ⟨.MC_TRAIN, 15, 0⟩
abbrev MC_CREDIT_EN : Fld := ⟨.MC_CREDIT, 63, 63⟩
abbrev MC_CREDIT_GT_RATE : Fld := ⟨.MC_CREDIT, 55, 48⟩
abbrev MC_CREDIT_DEPTH : Fld := ⟨.MC_CREDIT, 43, 32⟩
abbrev MC_CREDIT_RATE : Fld := ⟨.MC_CREDIT, 8, 0⟩
abbrev MC_CREDIT_STATUS_GT_DEMOTE : Fld := ⟨.MC_CREDIT_STATUS, 63, 48⟩
abbrev MC_CREDIT_STATUS_DEFER_CNT : Fld := ⟨.MC_CREDIT_STATUS, 47, 32⟩
abbrev MC_CREDIT_STATUS_LEVEL : Fld := ⟨.MC_CREDIT_STATUS, 11, 0⟩
abbrev MC_REGION_BASE_VALID : Fld := ⟨.MC_REGION_BASE, 63, 63⟩
abbrev MC_REGION_BASE_SIZE : Fld := ⟨.MC_REGION_BASE, 55, 38⟩
abbrev MC_REGION_BASE_BASE : Fld := ⟨.MC_REGION_BASE, 37, 21⟩
abbrev MC_REGION_CODE_WORLD : Fld := ⟨.MC_REGION_CODE, 15, 15⟩
abbrev MC_REGION_CODE_PART : Fld := ⟨.MC_REGION_CODE, 13, 8⟩
abbrev MC_REGION_CODE_SCRUB : Fld := ⟨.MC_REGION_CODE, 4, 4⟩
abbrev MC_REGION_CODE_ATOMIC : Fld := ⟨.MC_REGION_CODE, 3, 2⟩
abbrev MC_REGION_CODE_CODE : Fld := ⟨.MC_REGION_CODE, 1, 0⟩
abbrev MC_ECC_CTRL_LEAK_PERIOD : Fld := ⟨.MC_ECC_CTRL, 63, 48⟩
abbrev MC_ECC_CTRL_THRESH : Fld := ⟨.MC_ECC_CTRL, 47, 40⟩
abbrev MC_ECC_CTRL_CE_MODE : Fld := ⟨.MC_ECC_CTRL, 17, 16⟩
abbrev MC_ECC_CTRL_CE_WB : Fld := ⟨.MC_ECC_CTRL, 0, 0⟩
abbrev MC_ECC_STATUS_LOG_COUNT : Fld := ⟨.MC_ECC_STATUS, 52, 48⟩
abbrev MC_ECC_STATUS_CE_STORM : Fld := ⟨.MC_ECC_STATUS, 31, 16⟩
abbrev MC_ECC_STATUS_UE : Fld := ⟨.MC_ECC_STATUS, 4, 4⟩
abbrev MC_ECC_STATUS_POISON_LOST : Fld := ⟨.MC_ECC_STATUS, 3, 3⟩
abbrev MC_ECC_STATUS_LOG_OVF : Fld := ⟨.MC_ECC_STATUS, 2, 2⟩
abbrev MC_ECC_STATUS_CFGERR : Fld := ⟨.MC_ECC_STATUS, 1, 1⟩
abbrev MC_CE_CNT_CE : Fld := ⟨.MC_CE_CNT, 63, 32⟩
abbrev MC_CE_CNT_UE : Fld := ⟨.MC_CE_CNT, 31, 16⟩
abbrev MC_CE_CNT_LEVEL : Fld := ⟨.MC_CE_CNT, 7, 0⟩
abbrev MC_LOG_ADDR_VALID : Fld := ⟨.MC_LOG_ADDR, 63, 63⟩
abbrev MC_LOG_ADDR_W : Fld := ⟨.MC_LOG_ADDR, 62, 62⟩
abbrev MC_LOG_ADDR_ADDR : Fld := ⟨.MC_LOG_ADDR, 47, 5⟩
abbrev MC_LOG_INFO_REPEAT : Fld := ⟨.MC_LOG_INFO, 63, 48⟩
abbrev MC_LOG_INFO_CTRL : Fld := ⟨.MC_LOG_INFO, 43, 40⟩
abbrev MC_LOG_INFO_SUBCH : Fld := ⟨.MC_LOG_INFO, 39, 38⟩
abbrev MC_LOG_INFO_BANK : Fld := ⟨.MC_LOG_INFO, 37, 34⟩
abbrev MC_LOG_INFO_ROW : Fld := ⟨.MC_LOG_INFO, 33, 17⟩
abbrev MC_LOG_INFO_TYPE : Fld := ⟨.MC_LOG_INFO, 13, 12⟩
abbrev MC_LOG_INFO_SOURCE : Fld := ⟨.MC_LOG_INFO, 11, 10⟩
abbrev MC_LOG_INFO_TEST : Fld := ⟨.MC_LOG_INFO, 9, 9⟩
abbrev MC_LOG_INFO_POS : Fld := ⟨.MC_LOG_INFO, 8, 0⟩
abbrev MC_SCRUB_CTRL_INTERVAL : Fld := ⟨.MC_SCRUB_CTRL, 47, 32⟩
abbrev MC_SCRUB_CTRL_EN : Fld := ⟨.MC_SCRUB_CTRL, 0, 0⟩
abbrev MC_SCRUB_STATUS_PASSES : Fld := ⟨.MC_SCRUB_STATUS, 63, 32⟩
abbrev MC_SCRUB_STATUS_NEXT : Fld := ⟨.MC_SCRUB_STATUS, 27, 0⟩
abbrev MC_INIT_BUSY : Fld := ⟨.MC_INIT, 63, 63⟩
abbrev MC_INIT_DONE : Fld := ⟨.MC_INIT, 62, 62⟩
abbrev MC_INIT_ERR : Fld := ⟨.MC_INIT, 61, 61⟩
abbrev MC_INIT_GO : Fld := ⟨.MC_INIT, 8, 8⟩
abbrev MC_INIT_REGION : Fld := ⟨.MC_INIT, 5, 0⟩
abbrev MC_RETIRE_VALID : Fld := ⟨.MC_RETIRE, 63, 63⟩
abbrev MC_RETIRE_PAGE : Fld := ⟨.MC_RETIRE, 37, 12⟩
abbrev MC_ECC_TEST_CTRL_NOCOUNT : Fld := ⟨.MC_ECC_TEST_CTRL, 1, 1⟩
abbrev MC_ECC_TEST_CTRL_EN : Fld := ⟨.MC_ECC_TEST_CTRL, 0, 0⟩
abbrev MC_ECC_TEST_ADDR_VAL : Fld := ⟨.MC_ECC_TEST_ADDR, 37, 5⟩
abbrev MC_ECC_TEST_DATA_VAL : Fld := ⟨.MC_ECC_TEST_DATA, 63, 0⟩
abbrev MC_ECC_TEST_CHECK_VAL : Fld := ⟨.MC_ECC_TEST_CHECK, 31, 0⟩
abbrev MC_ECC_TEST_CMD_VAL : Fld := ⟨.MC_ECC_TEST_CMD, 2, 0⟩
abbrev MC_ECC_TEST_STATUS_RESULT : Fld := ⟨.MC_ECC_TEST_STATUS, 3, 1⟩
abbrev MC_ECC_TEST_STATUS_BUSY : Fld := ⟨.MC_ECC_TEST_STATUS, 0, 0⟩
abbrev FAB_CTRL_BE_MIN : Fld := ⟨.FAB_CTRL, 7, 4⟩
abbrev FAB_CTRL_LOCK : Fld := ⟨.FAB_CTRL, 0, 0⟩
abbrev FAB_EPOCH_DRAIN1 : Fld := ⟨.FAB_EPOCH, 63, 44⟩
abbrev FAB_EPOCH_DRAIN0 : Fld := ⟨.FAB_EPOCH, 43, 24⟩
abbrev FAB_EPOCH_ERR : Fld := ⟨.FAB_EPOCH, 7, 5⟩
abbrev FAB_EPOCH_PENDING : Fld := ⟨.FAB_EPOCH, 3, 3⟩
abbrev FAB_EPOCH_SWITCH : Fld := ⟨.FAB_EPOCH, 1, 1⟩
abbrev FAB_EPOCH_CUR : Fld := ⟨.FAB_EPOCH, 0, 0⟩
abbrev FAB_TIMEOUT_OFFPKG : Fld := ⟨.FAB_TIMEOUT, 31, 16⟩
abbrev FAB_TIMEOUT_ONPKG : Fld := ⟨.FAB_TIMEOUT, 15, 0⟩
abbrev FAB_STATUS_TIMEOUT_CNT : Fld := ⟨.FAB_STATUS, 63, 48⟩
abbrev FAB_STATUS_LATE_CNT : Fld := ⟨.FAB_STATUS, 47, 32⟩
abbrev FAB_STATUS_GT_DEMOTE : Fld := ⟨.FAB_STATUS, 31, 16⟩
abbrev FAB_STATUS_TAG_LOST : Fld := ⟨.FAB_STATUS, 15, 8⟩
abbrev FAB_STATUS_BADPKT : Fld := ⟨.FAB_STATUS, 7, 2⟩
abbrev FAB_STATUS_CFGERR : Fld := ⟨.FAB_STATUS, 0, 0⟩
abbrev FAB_TO_ADDR_W : Fld := ⟨.FAB_TO_ADDR, 63, 63⟩
abbrev FAB_TO_ADDR_LINE : Fld := ⟨.FAB_TO_ADDR, 47, 6⟩
abbrev FAB_CHECK_INFO_AGENT : Fld := ⟨.FAB_CHECK_INFO, 29, 21⟩
abbrev FAB_CHECK_INFO_ROUTER : Fld := ⟨.FAB_CHECK_INFO, 20, 16⟩
abbrev FAB_CHECK_INFO_DOMAIN : Fld := ⟨.FAB_CHECK_INFO, 15, 12⟩
abbrev FAB_CHECK_INFO_WIN_B : Fld := ⟨.FAB_CHECK_INFO, 11, 6⟩
abbrev FAB_CHECK_INFO_WIN_A : Fld := ⟨.FAB_CHECK_INFO, 5, 0⟩
abbrev FAB_SLOT_CYCLES : Fld := ⟨.FAB_SLOT, 63, 10⟩
abbrev FAB_SLOT_SLOT : Fld := ⟨.FAB_SLOT, 9, 0⟩
abbrev FAB_RSV_CFG_EN : Fld := ⟨.FAB_RSV_CFG, 63, 63⟩
abbrev FAB_RSV_CFG_OPEN : Fld := ⟨.FAB_RSV_CFG, 62, 62⟩
abbrev FAB_RSV_CFG_PART : Fld := ⟨.FAB_RSV_CFG, 53, 48⟩
abbrev FAB_RSV_CFG_SRC : Fld := ⟨.FAB_RSV_CFG, 43, 40⟩
abbrev FAB_RSV_CFG_STRIDE : Fld := ⟨.FAB_RSV_CFG, 9, 8⟩
abbrev FAB_RSV_CFG_BASE : Fld := ⟨.FAB_RSV_CFG, 5, 0⟩
abbrev FAB_RSV_STATUS_USED : Fld := ⟨.FAB_RSV_STATUS, 63, 48⟩
abbrev FAB_RSV_STATUS_WAITED : Fld := ⟨.FAB_RSV_STATUS, 47, 32⟩
abbrev FAB_RSV_STATUS_QMAX : Fld := ⟨.FAB_RSV_STATUS, 5, 0⟩
abbrev FAB_RT_SEL_EPOCH : Fld := ⟨.FAB_RT_SEL, 63, 63⟩
abbrev FAB_RT_SEL_DEST : Fld := ⟨.FAB_RT_SEL, 24, 16⟩
abbrev FAB_RT_SEL_ROUTER : Fld := ⟨.FAB_RT_SEL, 12, 8⟩
abbrev FAB_RT_SEL_DOMAIN : Fld := ⟨.FAB_RT_SEL, 3, 0⟩
abbrev FAB_RT_DATA_PORT : Fld := ⟨.FAB_RT_DATA, 2, 0⟩
abbrev FAB_RT_CMD_COPY : Fld := ⟨.FAB_RT_CMD, 0, 0⟩
abbrev FAB_RT_STATUS_BUSY : Fld := ⟨.FAB_RT_STATUS, 0, 0⟩
abbrev BAT_CTRL_RUN : Fld := ⟨.BAT_CTRL, 63, 63⟩
abbrev BAT_CTRL_WORLDS : Fld := ⟨.BAT_CTRL, 57, 56⟩
abbrev BAT_CTRL_CLASS_MASK : Fld := ⟨.BAT_CTRL, 55, 52⟩
abbrev BAT_CTRL_DIR : Fld := ⟨.BAT_CTRL, 49, 48⟩
abbrev BAT_CTRL_POINT : Fld := ⟨.BAT_CTRL, 8, 0⟩
abbrev BAT_ADDR_VAL_VAL : Fld := ⟨.BAT_ADDR_VAL, 47, 6⟩
abbrev BAT_ADDR_MASK_VAL : Fld := ⟨.BAT_ADDR_MASK, 47, 6⟩
abbrev BAT_ID_FILTER_DST_MASK : Fld := ⟨.BAT_ID_FILTER, 56, 48⟩
abbrev BAT_ID_FILTER_DST : Fld := ⟨.BAT_ID_FILTER, 40, 32⟩
abbrev BAT_ID_FILTER_SRC_MASK : Fld := ⟨.BAT_ID_FILTER, 24, 16⟩
abbrev BAT_ID_FILTER_SRC : Fld := ⟨.BAT_ID_FILTER, 8, 0⟩
abbrev BAT_OPC_MASK_VAL : Fld := ⟨.BAT_OPC_MASK, 63, 0⟩
abbrev BAT_TRIG_POST : Fld := ⟨.BAT_TRIG, 63, 48⟩
abbrev BAT_TRIG_STOP_SRC : Fld := ⟨.BAT_TRIG, 45, 43⟩
abbrev BAT_TRIG_START_SRC : Fld := ⟨.BAT_TRIG, 42, 40⟩
abbrev BAT_TRIG_STOP_ENTRY : Fld := ⟨.BAT_TRIG, 31, 16⟩
abbrev BAT_TRIG_START_ENTRY : Fld := ⟨.BAT_TRIG, 15, 0⟩
abbrev BAT_CNT_SEL_THRESH : Fld := ⟨.BAT_CNT_SEL, 63, 16⟩
abbrev BAT_CNT_SEL_EV : Fld := ⟨.BAT_CNT_SEL, 15, 0⟩
abbrev BAT_STATUS_LOST : Fld := ⟨.BAT_STATUS, 63, 32⟩
abbrev BAT_STATUS_BADPOINT : Fld := ⟨.BAT_STATUS, 3, 3⟩
abbrev BAT_STATUS_DIE_DOWN : Fld := ⟨.BAT_STATUS, 2, 2⟩
abbrev BAT_STATUS_TRIGGERED : Fld := ⟨.BAT_STATUS, 1, 1⟩
abbrev BAT_STATUS_RUNNING : Fld := ⟨.BAT_STATUS, 0, 0⟩
abbrev BAT_CNT_VAL : Fld := ⟨.BAT_CNT, 47, 0⟩
abbrev BAT_TRACE_CTRL_FULL : Fld := ⟨.BAT_TRACE_CTRL, 63, 63⟩
abbrev BAT_TRACE_CTRL_ERR : Fld := ⟨.BAT_TRACE_CTRL, 62, 62⟩
abbrev BAT_TRACE_CTRL_WRAP : Fld := ⟨.BAT_TRACE_CTRL, 1, 1⟩
abbrev BAT_TRACE_CTRL_DEST : Fld := ⟨.BAT_TRACE_CTRL, 0, 0⟩
abbrev BAT_TRACE_BASE_VAL : Fld := ⟨.BAT_TRACE_BASE, 47, 6⟩
abbrev BAT_TRACE_LIMIT_VAL : Fld := ⟨.BAT_TRACE_LIMIT, 47, 6⟩
abbrev BAT_TRACE_PTR_WRPTR : Fld := ⟨.BAT_TRACE_PTR, 47, 32⟩
abbrev BAT_TRACE_PTR_RDPTR : Fld := ⟨.BAT_TRACE_PTR, 15, 0⟩
abbrev BAT_BUF_DATA_VAL : Fld := ⟨.BAT_BUF_DATA, 63, 0⟩
abbrev BAT_SECDROP_VAL : Fld := ⟨.BAT_SECDROP, 31, 0⟩
abbrev BR_CTRL_REPLAY_MAX : Fld := ⟨.BR_CTRL, 15, 12⟩
abbrev BR_CTRL_FORCE_HALF : Fld := ⟨.BR_CTRL, 8, 8⟩
abbrev BR_CTRL_RETRAIN_FULL : Fld := ⟨.BR_CTRL, 2, 2⟩
abbrev BR_CTRL_RETRAIN_FAST : Fld := ⟨.BR_CTRL, 1, 1⟩
abbrev BR_STATUS_DOWN_REASON : Fld := ⟨.BR_STATUS, 19, 16⟩
abbrev BR_STATUS_UNSTABLE : Fld := ⟨.BR_STATUS, 11, 11⟩
abbrev BR_STATUS_NOT_PERMITTED : Fld := ⟨.BR_STATUS, 10, 10⟩
abbrev BR_STATUS_HALF_CONFLICT : Fld := ⟨.BR_STATUS, 9, 9⟩
abbrev BR_STATUS_DISAGREE : Fld := ⟨.BR_STATUS, 8, 8⟩
abbrev BR_STATUS_ROUNDS : Fld := ⟨.BR_STATUS, 7, 6⟩
abbrev BR_STATUS_WIDTH : Fld := ⟨.BR_STATUS, 5, 4⟩
abbrev BR_STATUS_STATE : Fld := ⟨.BR_STATUS, 3, 0⟩
abbrev BR_CAP_IOD_REV : Fld := ⟨.BR_CAP, 31, 28⟩
abbrev BR_CAP_DREV : Fld := ⟨.BR_CAP, 27, 24⟩
abbrev BR_CAP_ENABLED : Fld := ⟨.BR_CAP, 23, 16⟩
abbrev BR_CAP_IOD_CAP : Fld := ⟨.BR_CAP, 15, 8⟩
abbrev BR_CAP_DIE_CAP : Fld := ⟨.BR_CAP, 7, 0⟩
abbrev BR_LAT_SKEW : Fld := ⟨.BR_LAT, 23, 16⟩
abbrev BR_LAT_DOWN_LAT : Fld := ⟨.BR_LAT, 15, 0⟩
abbrev BR_ERRCNT_CRC_ERR : Fld := ⟨.BR_ERRCNT, 63, 48⟩
abbrev BR_ERRCNT_REPLAY : Fld := ⟨.BR_ERRCNT, 47, 32⟩
abbrev BR_ERRCNT_SB_ERR : Fld := ⟨.BR_ERRCNT, 31, 16⟩
abbrev BR_ERRCNT_FAST_CNT : Fld := ⟨.BR_ERRCNT, 15, 8⟩
abbrev BR_ERRCNT_FULL_CNT : Fld := ⟨.BR_ERRCNT, 7, 0⟩
abbrev BR_LMAP_FAIL : Fld := ⟨.BR_LMAP, 63, 0⟩
abbrev BR_LFUSE_FAIL : Fld := ⟨.BR_LFUSE, 63, 0⟩
abbrev DE_CH_PC_DEPTH : Fld := ⟨.DE_CH_PC, 18, 16⟩
abbrev DE_CH_PC_PC : Fld := ⟨.DE_CH_PC, 12, 0⟩
abbrev DE_CH_ENTRY_VAL : Fld := ⟨.DE_CH_ENTRY, 12, 0⟩
abbrev DE_CH_WIN_LIMIT : Fld := ⟨.DE_CH_WIN, 28, 16⟩
abbrev DE_CH_WIN_BASE : Fld := ⟨.DE_CH_WIN, 12, 0⟩
abbrev DE_CH_EVT_CODE : Fld := ⟨.DE_CH_EVT, 31, 24⟩
abbrev DE_CH_EVT_START_OVR : Fld := ⟨.DE_CH_EVT, 16, 16⟩
abbrev DE_CH_EVT_OVR : Fld := ⟨.DE_CH_EVT, 15, 8⟩
abbrev DE_CH_EVT_PEND : Fld := ⟨.DE_CH_EVT, 7, 0⟩
abbrev DE_CH_MOVED_VAL : Fld := ⟨.DE_CH_MOVED, 31, 0⟩
abbrev DE_CH_FAULT_FPC : Fld := ⟨.DE_CH_FAULT, 28, 16⟩
abbrev DE_CH_FAULT_CODE : Fld := ⟨.DE_CH_FAULT, 7, 0⟩
abbrev DE_CH_FADDR_ADDR : Fld := ⟨.DE_CH_FADDR, 63, 0⟩
abbrev DE_CH_CFG_WORLD : Fld := ⟨.DE_CH_CFG, 63, 63⟩
abbrev DE_CH_CFG_PART : Fld := ⟨.DE_CH_CFG, 61, 56⟩
abbrev DE_CH_CFG_PRIO : Fld := ⟨.DE_CH_CFG, 10, 8⟩
abbrev DE_CH_CFG_MODE : Fld := ⟨.DE_CH_CFG, 4, 4⟩
abbrev DE_CH_CFG_EN : Fld := ⟨.DE_CH_CFG, 0, 0⟩
abbrev DE_CH_CMD_CMD : Fld := ⟨.DE_CH_CMD, 2, 0⟩
abbrev DE_CH_STATUS_RUNS : Fld := ⟨.DE_CH_STATUS, 63, 32⟩
abbrev DE_CH_STATUS_RD_OUT : Fld := ⟨.DE_CH_STATUS, 20, 16⟩
abbrev DE_CH_STATUS_CFGERR : Fld := ⟨.DE_CH_STATUS, 11, 11⟩
abbrev DE_CH_STATUS_PARTIAL : Fld := ⟨.DE_CH_STATUS, 10, 10⟩
abbrev DE_CH_STATUS_ABORTED : Fld := ⟨.DE_CH_STATUS, 9, 9⟩
abbrev DE_CH_STATUS_DONE : Fld := ⟨.DE_CH_STATUS, 8, 8⟩
abbrev DE_CH_STATUS_STATE : Fld := ⟨.DE_CH_STATUS, 3, 0⟩
abbrev DE_CH_DESC_DESC : Fld := ⟨.DE_CH_DESC, 63, 5⟩
abbrev DE_CH_LOOP_VALID : Fld := ⟨.DE_CH_LOOP, 63, 63⟩
abbrev DE_CH_LOOP_INF : Fld := ⟨.DE_CH_LOOP, 62, 62⟩
abbrev DE_CH_LOOP_START : Fld := ⟨.DE_CH_LOOP, 60, 48⟩
abbrev DE_CH_LOOP_COUNT : Fld := ⟨.DE_CH_LOOP, 31, 0⟩
abbrev DE_CH_G_VAL : Fld := ⟨.DE_CH_G, 63, 0⟩
abbrev DE_SEM_WORLD : Fld := ⟨.DE_SEM, 63, 63⟩
abbrev DE_SEM_PART : Fld := ⟨.DE_SEM, 61, 56⟩
abbrev DE_SEM_OVF : Fld := ⟨.DE_SEM, 16, 16⟩
abbrev DE_SEM_COUNT : Fld := ⟨.DE_SEM, 15, 0⟩
abbrev DE_PROG_WORD : Fld := ⟨.DE_PROG, 63, 0⟩
abbrev DE_ENG_CTRL_AGE : Fld := ⟨.DE_ENG_CTRL, 15, 0⟩
abbrev DE_ENG_STATUS_PS_CE : Fld := ⟨.DE_ENG_STATUS, 63, 48⟩
abbrev DE_ENG_STATUS_RD_OUT : Fld := ⟨.DE_ENG_STATUS, 40, 32⟩
abbrev DE_ENG_STATUS_PS_UE : Fld := ⟨.DE_ENG_STATUS, 1, 1⟩
abbrev WC_CTRL_OPEN_DBG : Fld := ⟨.WC_CTRL, 3, 3⟩
abbrev WC_CTRL_SWALK_OPEN : Fld := ⟨.WC_CTRL, 2, 2⟩
abbrev WC_CTRL_SFETCH_OPEN : Fld := ⟨.WC_CTRL, 1, 1⟩
abbrev WC_CTRL_LOCK : Fld := ⟨.WC_CTRL, 0, 0⟩
abbrev WC_DBG_EFF : Fld := ⟨.WC_DBG, 7, 4⟩
abbrev WC_DBG_SI : Fld := ⟨.WC_DBG, 3, 3⟩
abbrev WC_DBG_SNI : Fld := ⟨.WC_DBG, 2, 2⟩
abbrev WC_DBG_OI : Fld := ⟨.WC_DBG, 1, 1⟩
abbrev WC_DBG_ONI : Fld := ⟨.WC_DBG, 0, 0⟩
abbrev WC_STATUS_DENY_CNT : Fld := ⟨.WC_STATUS, 63, 48⟩
abbrev WC_STATUS_REFUSE_CNT : Fld := ⟨.WC_STATUS, 47, 32⟩
abbrev WC_STATUS_WALK_BUSY : Fld := ⟨.WC_STATUS, 1, 1⟩
abbrev WC_STATUS_DENY : Fld := ⟨.WC_STATUS, 0, 0⟩
abbrev WC_DENY_ADDR_ADDR : Fld := ⟨.WC_DENY_ADDR, 47, 0⟩
abbrev WC_DENY_INFO_WHERE : Fld := ⟨.WC_DENY_INFO, 31, 28⟩
abbrev WC_DENY_INFO_KIND : Fld := ⟨.WC_DENY_INFO, 27, 25⟩
abbrev WC_DENY_INFO_W : Fld := ⟨.WC_DENY_INFO, 24, 24⟩
abbrev WC_DENY_INFO_PART : Fld := ⟨.WC_DENY_INFO, 21, 16⟩
abbrev WC_DENY_INFO_SRC : Fld := ⟨.WC_DENY_INFO, 8, 0⟩
abbrev WC_MITTEN_STATUS_LAST_KIND : Fld := ⟨.WC_MITTEN_STATUS, 27, 24⟩
abbrev WC_MITTEN_STATUS_LAST_PART : Fld := ⟨.WC_MITTEN_STATUS, 21, 16⟩
abbrev WC_MITTEN_STATUS_LAST_UNIT : Fld := ⟨.WC_MITTEN_STATUS, 8, 0⟩
abbrev WC_MITTEN_VAL : Fld := ⟨.WC_MITTEN, 63, 0⟩
abbrev WC_MITTEN_EFF_VAL : Fld := ⟨.WC_MITTEN_EFF, 63, 0⟩
abbrev WC_CALL_REQ : Fld := ⟨.WC_CALL, 0, 0⟩
abbrev WC_SENTRY_ADDR : Fld := ⟨.WC_SENTRY, 63, 2⟩
abbrev WC_SENTRY_VALID : Fld := ⟨.WC_SENTRY, 0, 0⟩
abbrev WC_SAVE_PC_VAL : Fld := ⟨.WC_SAVE_PC, 63, 0⟩
abbrev WC_SAVE_STATUS_VAL : Fld := ⟨.WC_SAVE_STATUS, 63, 0⟩
abbrev WC_SAVE_MODE_FAULT : Fld := ⟨.WC_SAVE_MODE, 63, 63⟩
abbrev WC_SAVE_MODE_V : Fld := ⟨.WC_SAVE_MODE, 2, 2⟩
abbrev WC_SAVE_MODE_PRIV : Fld := ⟨.WC_SAVE_MODE, 1, 0⟩
abbrev HELM_STATUS_AUTH_FAIL : Fld := ⟨.HELM_STATUS, 23, 16⟩
abbrev HELM_STATUS_LAST_MB : Fld := ⟨.HELM_STATUS, 10, 8⟩
abbrev HELM_STATUS_HELM_DBG : Fld := ⟨.HELM_STATUS, 4, 4⟩
abbrev HELM_STATUS_PROV : Fld := ⟨.HELM_STATUS, 3, 3⟩
abbrev HELM_STATUS_ERRSTATE : Fld := ⟨.HELM_STATUS, 2, 2⟩
abbrev HELM_STATUS_SELFTEST : Fld := ⟨.HELM_STATUS, 1, 1⟩
abbrev HELM_STATUS_APPROVED : Fld := ⟨.HELM_STATUS, 0, 0⟩
abbrev HELM_COUNTER_VAL : Fld := ⟨.HELM_COUNTER, 63, 0⟩
abbrev HELM_DEVICE_ID_DEVICE_ID : Fld := ⟨.HELM_DEVICE_ID, 63, 0⟩
abbrev HELM_MB_CTRL_LEN : Fld := ⟨.HELM_MB_CTRL, 31, 16⟩
abbrev HELM_MB_CTRL_IRQ_EN : Fld := ⟨.HELM_MB_CTRL, 1, 1⟩
abbrev HELM_MB_CTRL_DOORBELL : Fld := ⟨.HELM_MB_CTRL, 0, 0⟩
abbrev HELM_MB_STATUS_RSP_LEN : Fld := ⟨.HELM_MB_STATUS, 31, 16⟩
abbrev HELM_MB_STATUS_STATUS : Fld := ⟨.HELM_MB_STATUS, 15, 8⟩
abbrev HELM_MB_STATUS_PENDING : Fld := ⟨.HELM_MB_STATUS, 2, 2⟩
abbrev HELM_MB_STATUS_DONE : Fld := ⟨.HELM_MB_STATUS, 1, 1⟩
abbrev HELM_MB_STATUS_BUSY : Fld := ⟨.HELM_MB_STATUS, 0, 0⟩
abbrev HELM_MB_REQ_VAL : Fld := ⟨.HELM_MB_REQ, 63, 0⟩
abbrev HELM_MB_RSP_VAL : Fld := ⟨.HELM_MB_RSP, 63, 0⟩
abbrev PQ_CTRL_SELF_EN : Fld := ⟨.PQ_CTRL, 1, 1⟩
abbrev PQ_CTRL_DONE_IRQ : Fld := ⟨.PQ_CTRL, 0, 0⟩
abbrev PQ_RESET_GO : Fld := ⟨.PQ_RESET, 0, 0⟩
abbrev PQ_RESET_STATUS_ELAPSED : Fld := ⟨.PQ_RESET_STATUS, 63, 32⟩
abbrev PQ_RESET_STATUS_CH_ABORTED : Fld := ⟨.PQ_RESET_STATUS, 31, 24⟩
abbrev PQ_RESET_STATUS_BLK_CANCELLED : Fld := ⟨.PQ_RESET_STATUS, 23, 16⟩
abbrev PQ_RESET_STATUS_HARTS : Fld := ⟨.PQ_RESET_STATUS, 15, 8⟩
abbrev PQ_RESET_STATUS_REFUSED : Fld := ⟨.PQ_RESET_STATUS, 7, 4⟩
abbrev PQ_RESET_STATUS_DONE : Fld := ⟨.PQ_RESET_STATUS, 1, 1⟩
abbrev PQ_RESET_STATUS_BUSY : Fld := ⟨.PQ_RESET_STATUS, 0, 0⟩
abbrev PQ_L3MASK_VAL : Fld := ⟨.PQ_L3MASK, 11, 0⟩
abbrev PQ_VF_EN : Fld := ⟨.PQ_VF, 63, 63⟩
abbrev PQ_VF_WORLD : Fld := ⟨.PQ_VF, 62, 62⟩
abbrev PQ_VF_PORT : Fld := ⟨.PQ_VF, 16, 16⟩
abbrev PQ_VF_VF : Fld := ⟨.PQ_VF, 15, 0⟩
abbrev PQ_VF_CH_VAL : Fld := ⟨.PQ_VF_CH, 63, 0⟩
abbrev PQ_HART_ASSIGNED : Fld := ⟨.PQ_HART, 63, 63⟩
abbrev PQ_HART_RESTARTING : Fld := ⟨.PQ_HART, 8, 8⟩
abbrev PQ_HART_PART : Fld := ⟨.PQ_HART, 5, 0⟩
abbrev PQ_REGION_SHARE_VAL : Fld := ⟨.PQ_REGION_SHARE, 63, 0⟩
abbrev PQ_L3_SHARED_VAL : Fld := ⟨.PQ_L3_SHARED, 11, 0⟩
abbrev PQ_DEVPART_EN : Fld := ⟨.PQ_DEVPART, 63, 63⟩
abbrev PQ_DEVPART_WORLD : Fld := ⟨.PQ_DEVPART, 62, 62⟩
abbrev PQ_DEVPART_BLOCKED : Fld := ⟨.PQ_DEVPART, 61, 61⟩
abbrev PQ_DEVPART_PART : Fld := ⟨.PQ_DEVPART, 53, 48⟩
abbrev PQ_DEVPART_DEVID : Fld := ⟨.PQ_DEVPART, 23, 0⟩
abbrev PQ_DEVPART_MASK_MASK : Fld := ⟨.PQ_DEVPART_MASK, 23, 0⟩
abbrev PQ_STATUS_DENY_CNT : Fld := ⟨.PQ_STATUS, 63, 48⟩
abbrev PQ_STATUS_MASK_EMPTY : Fld := ⟨.PQ_STATUS, 47, 32⟩
abbrev PQ_STATUS_CFGERR : Fld := ⟨.PQ_STATUS, 1, 1⟩
abbrev PQ_STATUS_DENY : Fld := ⟨.PQ_STATUS, 0, 0⟩
abbrev PQ_DENY_ADDR_ADDR : Fld := ⟨.PQ_DENY_ADDR, 47, 0⟩
abbrev PQ_DENY_INFO_WHERE : Fld := ⟨.PQ_DENY_INFO, 31, 28⟩
abbrev PQ_DENY_INFO_KIND : Fld := ⟨.PQ_DENY_INFO, 27, 25⟩
abbrev PQ_DENY_INFO_W : Fld := ⟨.PQ_DENY_INFO, 24, 24⟩
abbrev PQ_DENY_INFO_PART : Fld := ⟨.PQ_DENY_INFO, 21, 16⟩
abbrev PQ_DENY_INFO_SRC : Fld := ⟨.PQ_DENY_INFO, 8, 0⟩
abbrev INT_STATUS_LOST : Fld := ⟨.INT_STATUS, 63, 48⟩
abbrev INT_STATUS_RESENT : Fld := ⟨.INT_STATUS, 47, 32⟩
abbrev INT_STATUS_LAST_HART : Fld := ⟨.INT_STATUS, 31, 24⟩
abbrev INT_STATUS_LAST_FILE : Fld := ⟨.INT_STATUS, 23, 20⟩
abbrev INT_STATUS_ERR : Fld := ⟨.INT_STATUS, 0, 0⟩
abbrev PE_PORT_CFG_BIF : Fld := ⟨.PE_PORT_CFG, 7, 5⟩
abbrev PE_PORT_CFG_MODE : Fld := ⟨.PE_PORT_CFG, 1, 1⟩
abbrev PE_PORT_CFG_LOCK : Fld := ⟨.PE_PORT_CFG, 0, 0⟩
abbrev PE_PORT_STATUS_LATE_CPL : Fld := ⟨.PE_PORT_STATUS, 63, 48⟩
abbrev PE_PORT_STATUS_LINK_UP : Fld := ⟨.PE_PORT_STATUS, 11, 8⟩
abbrev PE_PORT_STATUS_WIN_DONE : Fld := ⟨.PE_PORT_STATUS, 6, 6⟩
abbrev PE_PORT_STATUS_FLR_EV : Fld := ⟨.PE_PORT_STATUS, 5, 5⟩
abbrev PE_PORT_STATUS_BME_EV : Fld := ⟨.PE_PORT_STATUS, 4, 4⟩
abbrev PE_PORT_STATUS_LINK_EV : Fld := ⟨.PE_PORT_STATUS, 3, 3⟩
abbrev PE_PORT_STATUS_AER : Fld := ⟨.PE_PORT_STATUS, 2, 2⟩
abbrev PE_PORT_STATUS_CTO : Fld := ⟨.PE_PORT_STATUS, 1, 1⟩
abbrev PE_PORT_STATUS_CFGERR : Fld := ⟨.PE_PORT_STATUS, 0, 0⟩
abbrev PE_EP_CFG_PF_WORLD : Fld := ⟨.PE_EP_CFG, 63, 63⟩
abbrev PE_EP_CFG_VF_BAR2 : Fld := ⟨.PE_EP_CFG, 15, 8⟩
abbrev PE_EP_CFG_PF_BAR2 : Fld := ⟨.PE_EP_CFG, 7, 0⟩
abbrev PE_EP_CFG_PF_CH_VAL : Fld := ⟨.PE_EP_CFG_PF_CH, 63, 0⟩
abbrev PE_LINK_CTRL_L1_IDLE : Fld := ⟨.PE_LINK_CTRL, 31, 16⟩
abbrev PE_LINK_CTRL_L0S_IDLE : Fld := ⟨.PE_LINK_CTRL, 15, 0⟩
abbrev PE_OWIN_CFG_EN : Fld := ⟨.PE_OWIN_CFG, 63, 63⟩
abbrev PE_OWIN_CFG_WORLD : Fld := ⟨.PE_OWIN_CFG, 62, 62⟩
abbrev PE_OWIN_CFG_PART : Fld := ⟨.PE_OWIN_CFG, 53, 48⟩
abbrev PE_OWIN_CFG_TYPE : Fld := ⟨.PE_OWIN_CFG, 41, 40⟩
abbrev PE_OWIN_CFG_FUNC : Fld := ⟨.PE_OWIN_CFG, 37, 32⟩
abbrev PE_OWIN_CFG_SIZE : Fld := ⟨.PE_OWIN_CFG, 29, 24⟩
abbrev PE_OWIN_CFG_LINK : Fld := ⟨.PE_OWIN_CFG, 17, 16⟩
abbrev PE_OWIN_CFG_PREFETCH : Fld := ⟨.PE_OWIN_CFG, 8, 8⟩
abbrev PE_OWIN_BASE_VAL : Fld := ⟨.PE_OWIN_BASE, 47, 16⟩
abbrev PE_OWIN_BUS_VAL : Fld := ⟨.PE_OWIN_BUS, 63, 0⟩
abbrev PE_FN_STATUS_ACK_ERR : Fld := ⟨.PE_FN_STATUS, 47, 32⟩
abbrev PE_FN_STATUS_BUSY_FLR : Fld := ⟨.PE_FN_STATUS, 2, 2⟩
abbrev PE_FN_STATUS_BME : Fld := ⟨.PE_FN_STATUS, 1, 1⟩
abbrev PE_FN_STATUS_FLR_DONE : Fld := ⟨.PE_FN_STATUS, 0, 0⟩
abbrev PE_FN_NOTIFY_ACK_IRQ : Fld := ⟨.PE_FN_NOTIFY, 63, 63⟩
abbrev PE_FN_NOTIFY_EIID : Fld := ⟨.PE_FN_NOTIFY, 26, 16⟩
abbrev PE_FN_NOTIFY_FILE : Fld := ⟨.PE_FN_NOTIFY, 13, 8⟩
abbrev PE_FN_NOTIFY_HART : Fld := ⟨.PE_FN_NOTIFY, 7, 0⟩
abbrev PE_FN_DOORBELL_VAL : Fld := ⟨.PE_FN_DOORBELL, 63, 0⟩
abbrev PE_FN_MSIX_VAL : Fld := ⟨.PE_FN_MSIX, 3, 0⟩
abbrev PE_IWIN_CTRL_EN : Fld := ⟨.PE_IWIN_CTRL, 63, 63⟩
abbrev PE_IWIN_CTRL_RO : Fld := ⟨.PE_IWIN_CTRL, 62, 62⟩
abbrev PE_IWIN_CTRL_SIZE : Fld := ⟨.PE_IWIN_CTRL, 37, 32⟩
abbrev PE_IWIN_OFFSET_VAL : Fld := ⟨.PE_IWIN_OFFSET, 35, 12⟩
abbrev PE_IWIN_TARGET_VAL : Fld := ⟨.PE_IWIN_TARGET, 47, 12⟩
abbrev PE_IWIN_COMMIT_OLD_BUSY : Fld := ⟨.PE_IWIN_COMMIT, 2, 2⟩
abbrev PE_IWIN_COMMIT_COMMIT_ERR : Fld := ⟨.PE_IWIN_COMMIT, 1, 1⟩
abbrev PE_IWIN_COMMIT_GO : Fld := ⟨.PE_IWIN_COMMIT, 0, 0⟩
abbrev PE_MBX_CTRL_READY : Fld := ⟨.PE_MBX_CTRL, 63, 63⟩
abbrev PE_MBX_CTRL_SEQ : Fld := ⟨.PE_MBX_CTRL, 47, 32⟩
abbrev PE_MBX_CTRL_LENERR : Fld := ⟨.PE_MBX_CTRL, 19, 19⟩
abbrev PE_MBX_CTRL_ACKED : Fld := ⟨.PE_MBX_CTRL, 18, 18⟩
abbrev PE_MBX_CTRL_FULL : Fld := ⟨.PE_MBX_CTRL, 17, 17⟩
abbrev PE_MBX_CTRL_PUBLISH : Fld := ⟨.PE_MBX_CTRL, 16, 16⟩
abbrev PE_MBX_CTRL_LEN : Fld := ⟨.PE_MBX_CTRL, 5, 0⟩
abbrev PE_MBX_DATA_VAL : Fld := ⟨.PE_MBX_DATA, 63, 0⟩
abbrev PL_PORT_CFG_DFIX : Fld := ⟨.PL_PORT_CFG, 63, 40⟩
abbrev PL_PORT_CFG_ASYM : Fld := ⟨.PL_PORT_CFG, 31, 16⟩
abbrev PL_PORT_CFG_MODE : Fld := ⟨.PL_PORT_CFG, 4, 4⟩
abbrev PL_PORT_CFG_ROLE : Fld := ⟨.PL_PORT_CFG, 2, 1⟩
abbrev PL_PORT_CFG_EN : Fld := ⟨.PL_PORT_CFG, 0, 0⟩
abbrev PL_PORT_STATUS_NEIGH_ID : Fld := ⟨.PL_PORT_STATUS, 27, 16⟩
abbrev PL_PORT_STATUS_CFGERR : Fld := ⟨.PL_PORT_STATUS, 12, 12⟩
abbrev PL_PORT_STATUS_DUPID : Fld := ⟨.PL_PORT_STATUS, 11, 11⟩
abbrev PL_PORT_STATUS_ROLE_ERR : Fld := ⟨.PL_PORT_STATUS, 10, 10⟩
abbrev PL_PORT_STATUS_LOST_EV : Fld := ⟨.PL_PORT_STATUS, 9, 9⟩
abbrev PL_PORT_STATUS_LINK_EV : Fld := ⟨.PL_PORT_STATUS, 8, 8⟩
abbrev PL_PORT_STATUS_STATE : Fld := ⟨.PL_PORT_STATUS, 1, 0⟩
abbrev PL_PORT_DELAY_DVALID : Fld := ⟨.PL_PORT_DELAY, 63, 63⟩
abbrev PL_PORT_DELAY_D : Fld := ⟨.PL_PORT_DELAY, 31, 0⟩
abbrev PL_PORT_ERRCNT_CRC_ERR : Fld := ⟨.PL_PORT_ERRCNT, 63, 48⟩
abbrev PL_PORT_ERRCNT_REPLAY : Fld := ⟨.PL_PORT_ERRCNT, 47, 32⟩
abbrev PL_PORT_ERRCNT_DISCARD : Fld := ⟨.PL_PORT_ERRCNT, 31, 16⟩
abbrev PL_PORT_ERRCNT_ACK_MISS : Fld := ⟨.PL_PORT_ERRCNT, 15, 0⟩
abbrev PL_PORT_CMD_RETRAIN : Fld := ⟨.PL_PORT_CMD, 1, 1⟩
abbrev PL_PORT_CMD_REJOIN : Fld := ⟨.PL_PORT_CMD, 0, 0⟩
abbrev PL_NODE_LOCK : Fld := ⟨.PL_NODE, 63, 63⟩
abbrev PL_NODE_MAXHOP : Fld := ⟨.PL_NODE, 27, 16⟩
abbrev PL_NODE_ID : Fld := ⟨.PL_NODE, 11, 0⟩
abbrev PL_CTRL_CTO : Fld := ⟨.PL_CTRL, 47, 32⟩
abbrev PL_CTRL_PHASE_EN : Fld := ⟨.PL_CTRL, 16, 16⟩
abbrev PL_CTRL_FRAME_US : Fld := ⟨.PL_CTRL, 15, 0⟩
abbrev PL_GSTATUS_HOPDROP : Fld := ⟨.PL_GSTATUS, 63, 48⟩
abbrev PL_GSTATUS_MSG_LOST : Fld := ⟨.PL_GSTATUS, 47, 32⟩
abbrev PL_GSTATUS_COMMIT_ERR : Fld := ⟨.PL_GSTATUS, 4, 4⟩
abbrev PL_GSTATUS_WIN_DONE : Fld := ⟨.PL_GSTATUS, 3, 3⟩
abbrev PL_GSTATUS_MSG_OVF : Fld := ⟨.PL_GSTATUS, 2, 2⟩
abbrev PL_GSTATUS_CFGERR : Fld := ⟨.PL_GSTATUS, 1, 1⟩
abbrev PL_MSG_TX_PAYLOAD : Fld := ⟨.PL_MSG_TX, 63, 32⟩
abbrev PL_MSG_TX_DEST : Fld := ⟨.PL_MSG_TX, 27, 16⟩
abbrev PL_MSG_TX_MSGTYPE : Fld := ⟨.PL_MSG_TX, 7, 4⟩
abbrev PL_MSG_TX_PLPORT : Fld := ⟨.PL_MSG_TX, 2, 0⟩
abbrev PL_MSG_RX_PAYLOAD : Fld := ⟨.PL_MSG_RX, 63, 32⟩
abbrev PL_MSG_RX_SRC : Fld := ⟨.PL_MSG_RX, 27, 16⟩
abbrev PL_MSG_RX_W : Fld := ⟨.PL_MSG_RX, 8, 8⟩
abbrev PL_MSG_RX_MSGTYPE : Fld := ⟨.PL_MSG_RX, 7, 4⟩
abbrev PL_MSG_RX_TB_VAL : Fld := ⟨.PL_MSG_RX_TB, 63, 0⟩
abbrev PL_MSG_MAP_WORLD : Fld := ⟨.PL_MSG_MAP, 63, 63⟩
abbrev PL_MSG_MAP_EIID : Fld := ⟨.PL_MSG_MAP, 58, 48⟩
abbrev PL_MSG_MAP_MACHINE : Fld := ⟨.PL_MSG_MAP, 47, 47⟩
abbrev PL_MSG_MAP_FILE : Fld := ⟨.PL_MSG_MAP, 45, 40⟩
abbrev PL_MSG_MAP_HART : Fld := ⟨.PL_MSG_MAP, 39, 32⟩
abbrev PL_MSG_MAP_CHANNEL : Fld := ⟨.PL_MSG_MAP, 23, 16⟩
abbrev PL_MSG_MAP_EVT : Fld := ⟨.PL_MSG_MAP, 14, 12⟩
abbrev PL_MSG_MAP_ACTION : Fld := ⟨.PL_MSG_MAP, 1, 0⟩
abbrev PL_OWIN_CFG_EN : Fld := ⟨.PL_OWIN_CFG, 63, 63⟩
abbrev PL_OWIN_CFG_WORLD : Fld := ⟨.PL_OWIN_CFG, 62, 62⟩
abbrev PL_OWIN_CFG_PART : Fld := ⟨.PL_OWIN_CFG, 53, 48⟩
abbrev PL_OWIN_CFG_SIZE : Fld := ⟨.PL_OWIN_CFG, 37, 32⟩
abbrev PL_OWIN_CFG_DEST : Fld := ⟨.PL_OWIN_CFG, 11, 0⟩
abbrev PL_OWIN_BASE_VAL : Fld := ⟨.PL_OWIN_BASE, 47, 16⟩
abbrev PL_OWIN_REMOTE_VAL : Fld := ⟨.PL_OWIN_REMOTE, 47, 0⟩
abbrev PL_IWIN_CTRL_EN : Fld := ⟨.PL_IWIN_CTRL, 63, 63⟩
abbrev PL_IWIN_CTRL_RO : Fld := ⟨.PL_IWIN_CTRL, 62, 62⟩
abbrev PL_IWIN_CTRL_WORLD : Fld := ⟨.PL_IWIN_CTRL, 61, 61⟩
abbrev PL_IWIN_CTRL_PART : Fld := ⟨.PL_IWIN_CTRL, 53, 48⟩
abbrev PL_IWIN_CTRL_SIZE : Fld := ⟨.PL_IWIN_CTRL, 37, 32⟩
abbrev PL_IWIN_OFFSET_VAL : Fld := ⟨.PL_IWIN_OFFSET, 47, 12⟩
abbrev PL_IWIN_TARGET_VAL : Fld := ⟨.PL_IWIN_TARGET, 47, 12⟩
abbrev PL_IWIN_SRC_SRC_MASK : Fld := ⟨.PL_IWIN_SRC, 27, 16⟩
abbrev PL_IWIN_SRC_SRC_ID : Fld := ⟨.PL_IWIN_SRC, 11, 0⟩
abbrev PL_IWIN_COMMIT_OLD_BUSY : Fld := ⟨.PL_IWIN_COMMIT, 2, 2⟩
abbrev PL_IWIN_COMMIT_GO : Fld := ⟨.PL_IWIN_COMMIT, 0, 0⟩
abbrev PL_RT_VAL : Fld := ⟨.PL_RT, 3, 0⟩
abbrev PWR_CTRL_LIMIT : Fld := ⟨.PWR_CTRL, 24, 16⟩
abbrev PWR_CTRL_PLOCK_REQ : Fld := ⟨.PWR_CTRL, 8, 8⟩
abbrev PWR_CTRL_PF_ACTION : Fld := ⟨.PWR_CTRL, 5, 4⟩
abbrev PWR_CTRL_LOCK : Fld := ⟨.PWR_CTRL, 0, 0⟩
abbrev PWR_PF_CFG_GRACE : Fld := ⟨.PWR_PF_CFG, 47, 32⟩
abbrev PWR_PF_CFG_WARN : Fld := ⟨.PWR_PF_CFG, 15, 0⟩
abbrev PWR_STATUS_PW_OK : Fld := ⟨.PWR_STATUS, 13, 12⟩
abbrev PWR_STATUS_PW_FAULT : Fld := ⟨.PWR_STATUS, 11, 11⟩
abbrev PWR_STATUS_OVERTEMP : Fld := ⟨.PWR_STATUS, 10, 10⟩
abbrev PWR_STATUS_PF_ACTIVE : Fld := ⟨.PWR_STATUS, 9, 9⟩
abbrev PWR_STATUS_PF_WARN : Fld := ⟨.PWR_STATUS, 8, 8⟩
abbrev PWR_STATUS_PLOCK_OVER : Fld := ⟨.PWR_STATUS, 6, 6⟩
abbrev PWR_STATUS_LIMITING : Fld := ⟨.PWR_STATUS, 5, 5⟩
abbrev PWR_STATUS_PLOCK : Fld := ⟨.PWR_STATUS, 4, 4⟩
abbrev PWR_STATUS_PKG_STATE : Fld := ⟨.PWR_STATUS, 1, 0⟩
abbrev PWR_INPUT_POWER : Fld := ⟨.PWR_INPUT, 47, 32⟩
abbrev PWR_INPUT_CURRENT : Fld := ⟨.PWR_INPUT, 31, 16⟩
abbrev PWR_INPUT_VOLTAGE : Fld := ⟨.PWR_INPUT, 15, 0⟩
abbrev PWR_MITTEN_W_POWER : Fld := ⟨.PWR_MITTEN_W, 15, 0⟩
abbrev PWR_DIE_TEMP : Fld := ⟨.PWR_DIE, 63, 56⟩
abbrev PWR_DIE_FREQ_REQ : Fld := ⟨.PWR_DIE, 47, 40⟩
abbrev PWR_DIE_FREQ_EFF : Fld := ⟨.PWR_DIE, 39, 32⟩
abbrev PWR_DIE_LIMITED : Fld := ⟨.PWR_DIE, 2, 2⟩
abbrev PWR_DIE_STATE : Fld := ⟨.PWR_DIE, 1, 0⟩
abbrev PWR_REQ_UNIT : Fld := ⟨.PWR_REQ, 40, 32⟩
abbrev PWR_REQ_FREQ : Fld := ⟨.PWR_REQ, 23, 16⟩
abbrev PWR_REQ_IRQ : Fld := ⟨.PWR_REQ, 4, 4⟩
abbrev PWR_REQ_KIND : Fld := ⟨.PWR_REQ, 3, 0⟩
abbrev PWR_REQ_STATUS_UNIT : Fld := ⟨.PWR_REQ_STATUS, 40, 32⟩
abbrev PWR_REQ_STATUS_STATUS : Fld := ⟨.PWR_REQ_STATUS, 11, 8⟩
abbrev PWR_REQ_STATUS_DONE : Fld := ⟨.PWR_REQ_STATUS, 1, 1⟩
abbrev PWR_REQ_STATUS_BUSY : Fld := ⟨.PWR_REQ_STATUS, 0, 0⟩
abbrev ST_STATUS_STARTS : Fld := ⟨.ST_STATUS, 63, 48⟩
abbrev ST_STATUS_BOOT_HART : Fld := ⟨.ST_STATUS, 47, 40⟩
abbrev ST_STATUS_PHASE : Fld := ⟨.ST_STATUS, 35, 32⟩
abbrev ST_STATUS_LIMIT : Fld := ⟨.ST_STATUS, 11, 9⟩
abbrev ST_STATUS_CHIMNEY : Fld := ⟨.ST_STATUS, 7, 7⟩
abbrev ST_STATUS_SLOT : Fld := ⟨.ST_STATUS, 6, 6⟩
abbrev ST_STATUS_COUNT : Fld := ⟨.ST_STATUS, 2, 0⟩
abbrev ST_CTRL_BOOT_WDT : Fld := ⟨.ST_CTRL, 63, 48⟩
abbrev ST_CTRL_HARD_RESET : Fld := ⟨.ST_CTRL, 2, 2⟩
abbrev ST_CTRL_WARM_RESET : Fld := ⟨.ST_CTRL, 1, 1⟩
abbrev ST_CTRL_START_OK : Fld := ⟨.ST_CTRL, 0, 0⟩
abbrev ST_REASON_FAILS : Fld := ⟨.ST_REASON, 63, 48⟩
abbrev ST_REASON_ATTEMPT : Fld := ⟨.ST_REASON, 23, 21⟩
abbrev ST_REASON_SLOT : Fld := ⟨.ST_REASON, 20, 20⟩
abbrev ST_REASON_PHASE : Fld := ⟨.ST_REASON, 19, 16⟩
abbrev ST_REASON_NO_LANTERN : Fld := ⟨.ST_REASON, 8, 8⟩
abbrev ST_REASON_CODE : Fld := ⟨.ST_REASON, 3, 0⟩
abbrev ST_VECTOR_VAL : Fld := ⟨.ST_VECTOR, 63, 0⟩
abbrev ST_DIE_NOT_PERMITTED : Fld := ⟨.ST_DIE, 27, 16⟩
abbrev ST_DIE_FAIL : Fld := ⟨.ST_DIE, 11, 0⟩
abbrev ST_EVLOG_HEAD_HEAD : Fld := ⟨.ST_EVLOG_HEAD, 5, 0⟩
abbrev ST_EVLOG_WORD : Fld := ⟨.ST_EVLOG, 63, 0⟩
abbrev LAN_STATUS_TAKEOVERS : Fld := ⟨.LAN_STATUS, 63, 48⟩
abbrev LAN_STATUS_PEC_ERR : Fld := ⟨.LAN_STATUS, 47, 32⟩
abbrev LAN_STATUS_B_RESTARTS : Fld := ⟨.LAN_STATUS, 15, 14⟩
abbrev LAN_STATUS_A_RESTARTS : Fld := ⟨.LAN_STATUS, 13, 12⟩
abbrev LAN_STATUS_ACTIVE : Fld := ⟨.LAN_STATUS, 9, 8⟩
abbrev LAN_STATUS_B_STATE : Fld := ⟨.LAN_STATUS, 3, 2⟩
abbrev LAN_STATUS_A_STATE : Fld := ⟨.LAN_STATUS, 1, 0⟩
abbrev LAN_CFG_ADDR : Fld := ⟨.LAN_CFG, 54, 48⟩
abbrev LAN_CFG_RETRY_DELAY : Fld := ⟨.LAN_CFG, 47, 32⟩
abbrev LAN_CFG_HB_MISS : Fld := ⟨.LAN_CFG, 15, 8⟩
abbrev LAN_CFG_HB_PERIOD : Fld := ⟨.LAN_CFG, 7, 0⟩
abbrev LMB_CTRL_LEN : Fld := ⟨.LMB_CTRL, 31, 16⟩
abbrev LMB_CTRL_CMD : Fld := ⟨.LMB_CTRL, 15, 8⟩
abbrev LMB_CTRL_GO : Fld := ⟨.LMB_CTRL, 0, 0⟩
abbrev LMB_STATUS_RSP_LEN : Fld := ⟨.LMB_STATUS, 31, 16⟩
abbrev LMB_STATUS_RESULT : Fld := ⟨.LMB_STATUS, 15, 8⟩
abbrev LMB_STATUS_DONE : Fld := ⟨.LMB_STATUS, 1, 1⟩
abbrev LMB_STATUS_BUSY : Fld := ⟨.LMB_STATUS, 0, 0⟩
abbrev LMB_BUF_WORD : Fld := ⟨.LMB_BUF, 63, 0⟩
abbrev RAS_CTRL_LMB_IRQ : Fld := ⟨.RAS_CTRL, 8, 8⟩
abbrev RAS_CTRL_IRQ_SEV : Fld := ⟨.RAS_CTRL, 4, 0⟩
abbrev RAS_STATUS_DROP : Fld := ⟨.RAS_STATUS, 63, 48⟩
abbrev RAS_STATUS_OVERWRITTEN : Fld := ⟨.RAS_STATUS, 47, 32⟩
abbrev RAS_STATUS_HIST_OVF : Fld := ⟨.RAS_STATUS, 2, 2⟩
abbrev RAS_STATUS_PROP_OVF : Fld := ⟨.RAS_STATUS, 1, 1⟩
abbrev RAS_LOG_PTR_HEAD : Fld := ⟨.RAS_LOG_PTR, 41, 32⟩
abbrev RAS_LOG_PTR_TAIL : Fld := ⟨.RAS_LOG_PTR, 9, 0⟩
abbrev RAS_THRESH_PAGE_CE : Fld := ⟨.RAS_THRESH, 63, 48⟩
abbrev RAS_THRESH_ROW_CE : Fld := ⟨.RAS_THRESH, 47, 32⟩
abbrev RAS_THRESH_CORE_UC : Fld := ⟨.RAS_THRESH, 7, 0⟩
abbrev RAS_REPAIR_COUNT : Fld := ⟨.RAS_REPAIR, 9, 0⟩
abbrev RAS_REPAIR_PENDING : Fld := ⟨.RAS_REPAIR, 27, 16⟩
abbrev RAS_LOG_VAL : Fld := ⟨.RAS_LOG, 63, 0⟩
abbrev RAS_AON_LOG_VAL : Fld := ⟨.RAS_AON_LOG, 63, 0⟩
abbrev RAS_AON_HEAD_VAL : Fld := ⟨.RAS_AON_HEAD, 4, 0⟩
abbrev RAS_PROP_VALID : Fld := ⟨.RAS_PROP, 63, 63⟩
abbrev RAS_PROP_NOSPARE : Fld := ⟨.RAS_PROP, 62, 62⟩
abbrev RAS_PROP_KIND : Fld := ⟨.RAS_PROP, 61, 60⟩
abbrev RAS_PROP_HITS : Fld := ⟨.RAS_PROP, 59, 44⟩
abbrev RAS_PROP_SEQ : Fld := ⟨.RAS_PROP, 15, 0⟩
abbrev RAS_PROP_TARGET_VAL : Fld := ⟨.RAS_PROP_TARGET, 63, 0⟩
abbrev RAS_PAGE_HIST_VALID : Fld := ⟨.RAS_PAGE_HIST, 63, 63⟩
abbrev RAS_PAGE_HIST_PAGE : Fld := ⟨.RAS_PAGE_HIST, 37, 12⟩
abbrev DBG_STATUS_CHAIN : Fld := ⟨.DBG_STATUS, 27, 16⟩
abbrev DBG_STATUS_REFUSED : Fld := ⟨.DBG_STATUS, 2, 2⟩
abbrev DBG_STATUS_CHAIN_LOST : Fld := ⟨.DBG_STATUS, 1, 1⟩
abbrev DBG_STATUS_TESTMODE : Fld := ⟨.DBG_STATUS, 0, 0⟩
abbrev DBG_TEST_HOLD_VAL : Fld := ⟨.DBG_TEST_HOLD, 11, 0⟩
abbrev CTR_CTRL_FULL : Fld := ⟨.CTR_CTRL, 63, 63⟩
abbrev CTR_CTRL_ERR : Fld := ⟨.CTR_CTRL, 62, 62⟩
abbrev CTR_CTRL_WRAP : Fld := ⟨.CTR_CTRL, 33, 33⟩
abbrev CTR_CTRL_DEST : Fld := ⟨.CTR_CTRL, 32, 32⟩
abbrev CTR_CTRL_POS : Fld := ⟨.CTR_CTRL, 19, 0⟩
abbrev CTR_BASE_VAL : Fld := ⟨.CTR_BASE, 47, 6⟩
abbrev CTR_LIMIT_VAL : Fld := ⟨.CTR_LIMIT, 47, 6⟩
abbrev CTR_PTR_WRPTR : Fld := ⟨.CTR_PTR, 47, 32⟩
abbrev CTR_PTR_RDPTR : Fld := ⟨.CTR_PTR, 15, 0⟩
abbrev CTR_BUF_DATA_VAL : Fld := ⟨.CTR_BUF_DATA, 63, 0⟩

end F
end Sys2Proof.Machine
end

