-- ==== Sys2Proof/Machine/SMap.lean ====
section
/-! DEFINITION. Sparse tables in one canonical form: a list of (key, value) pairs with strictly rising keys that lists no
entry equal to what an unlisted key reads as. Memory, the register file, the CSRs, the calendar and the directory are
tables of this kind, so equal contents are equal lists. -/
namespace Sys2Proof.Machine

/-- A sparse table from natural numbers. What an unlisted key reads as is an argument of every operation. -/
abbrev SMap (β : Type) := List (Nat × β)

/-- The value at key k, where an unlisted key reads as d k. -/
def smapGet {β : Type} (d : Nat → β) : SMap β → Nat → β
  | [], k => d k
  | (j, v) :: r, k => if j = k then v else smapGet d r k

/-- The table without key k. -/
def smapErase {β : Type} : SMap β → Nat → SMap β
  | [], _ => []
  | (j, v) :: r, k => if j = k then smapErase r k else (j, v) :: smapErase r k

/-- The table with (k, v) put in front of the first larger key. -/
def smapInsert {β : Type} : SMap β → Nat → β → SMap β
  | [], k, v => [(k, v)]
  | (j, w) :: r, k, v => if k < j then (k, v) :: (j, w) :: r else (j, w) :: smapInsert r k v

/-- The table in which key k holds v: a value equal to what an unlisted key reads as is not listed. -/
def smapSet {β : Type} [DecidableEq β] (d : Nat → β) (m : SMap β) (k : Nat) (v : β) : SMap β :=
  if v = d k then smapErase m k else smapInsert (smapErase m k) k v

/-- The canonical form: keys strictly rising from lo on, and no entry that an unlisted key would read as. -/
def smapWf {β : Type} [DecidableEq β] (d : Nat → β) : Nat → SMap β → Bool
  | _, [] => true
  | lo, (j, v) :: r => decide (lo ≤ j) && decide (v ≠ d j) && smapWf d (j + 1) r

end Sys2Proof.Machine
end

