-- ==== Sys2Proof/Machine/State.lean ====
section
/-! DEFINITION. The state of the block: the registers, the hidden state of every unit, the messages that have been sent
and not yet delivered, and the queue of waiting commands. -/
namespace Sys2Proof.Machine

/-- The answer that the block gives to the last access: the response code of R268 and the data of a read. -/
structure Resp where
  code : BitVec 2
  data : Word
  deriving DecidableEq, Repr

/-- The hidden state of a phase port (R44 to R56, R599, R601). prev is the count from which the movement now being
examined started (C0 of R72); sub is the part of the count below one fraction unit, in units of 2^-64 cycle. -/
structure PortAux where
  prev       : Word := 0
  sub        : BitVec 32 := 0
  loopRate   : Word := 0
  live       : Word := 0          -- the PHE_PORT_CFG values in force (R63)
  holdMax    : Nat := 0           -- the HOLD_MAX in force (R63)
  runEdges   : Nat := 0           -- edges of the run of R601, 0 = no run
  runFirst   : Word := 0          -- timestamp of the run's first edge
  runLast    : Word := 0          -- timestamp of the run's last edge
  runIval    : Nat := 0           -- the run's first interval
  runPhase   : Word := 0          -- carried phase of the run's first frame
  lastBound  : Word := 0          -- boundary of the last qualified edge
  err        : Int := 0           -- the latest phase error e, in fraction units
  slew       : Int := 0           -- error that a slew still has to remove, in units of 2^-64 cycle
  holding    : Bool := false      -- the hold at rate 0 of R49
  holdRem    : Nat := 0           -- what the reference still has to advance, in units of 2^-64 cycle
  crossings  : Nat := 0           -- cycle boundaries crossed in HOLDOVER and not yet counted
  holdover   : BitVec 32 := 0     -- the holdover counter
  encPos     : Nat := 0           -- count position within the cycle
  encCyc     : BitVec 32 := 0     -- cycle of that position
  encRun     : Nat := 0           -- valid counts since loss
  encFirst   : Word := 0          -- timestamp of the first of them
  encResume  : Nat := 0           -- further counts before interpolation resumes
  encSeen    : Bool := false      -- a count edge has come since the start, so the next one has an interval
  slewing    : Bool := false      -- the rate offset of R46 is in force
  todAt      : Option Word := none -- PHS cycle of the last write of PHE_PORT_TOD (R57)
  ahead      : Word := 0          -- what the extrapolation of R82 has reached
  deriving DecidableEq, Repr

/-- A replica of the phase counts on a compute die (R59 to R61). -/
structure Replica where
  bad   : Nat := 0                -- consecutive discarded broadcasts
  tb    : Word := 0
  cnt   : List Word := []
  rate  : List Word := []
  dir   : List Bool := []
  lim   : List (Option Word) := []  -- where an encoder port's interpolation stops (R53)
  deriving DecidableEq, Repr

/-- A calendar entry: the four words of R69. owed marks a PHASE already passed, to be matched in the next cycle (cases
1 and 3 of R77). -/
structure CalEntry where
  w0   : Word := 0
  w1   : Word := 0
  w2   : Word := 0
  w3   : Word := 0
  owed : Bool := false
  fired : Option Word := none     -- the PHS cycle of the last firing (R76)
  deriving DecidableEq, Repr

/-- A firing with the contents its entry had at the match (R78, R84). -/
structure Firing where
  entry : Nat
  w2    : Word
  w3    : Word
  phase : Word
  inst  : Word
  late  : Bool
  cyc   : Word := 0               -- the PHS cycle of the match (R84)
  deriving DecidableEq, Repr

/-- A pin edge accepted and not yet placed (R90). op: 0 low, 1 high, 2 toggle, 3 leading edge of a pulse, 4 trailing
edge, which returns the latch to level. -/
structure PinEdge where
  time  : Word
  op    : Nat
  width : Nat
  level : Bool
  entry : Nat
  deriving DecidableEq, Repr

/-- The hidden state of a timed pin (R90 to R93, R602). -/
structure Pin where
  latch   : Bool := false
  driving : Bool := false
  hiz     : Bool := false         -- at high impedance until TIO_PIN_CFG is written (R531, R572)
  edges   : List PinEdge := []
  latest  : Option Word := none   -- latest edge accepted on the pin
  fifo    : List (Word × Word) := []
  lastCap : Option Word := none   -- previous captured edge
  deriving DecidableEq, Repr
/-- What a parked core waits for (R110). -/
inductive WaitKind where
  | wfi | disp | wrs (sto : Bool) | req
  deriving DecidableEq, Repr

/-- The state of a core (R110). held: not yet released, or its die is down. stopped: the end of R383. -/
inductive CoreSt where
  | held | run | wait (k : WaitKind) | gating (k : WaitKind) | gated (k : WaitKind) | stopped
  deriving DecidableEq, Repr

/-- A trap that the hart takes at its next TRAP_ENTRY. -/
structure Trap where
  cause : Nat
  tval  : Word
  epc   : Word
  deriving DecidableEq, Repr

/-- A timed store as TS.STORE captured it (R123). -/
structure TsInfo where
  pa    : Nat
  size  : Nat
  data  : Nat
  phase : Word
  src   : Nat
  ld    : Bool
  w     : Bool
  part  : Nat
  deriving DecidableEq, Repr

/-- What a store buffer entry does (R201). -/
inductive SbKind where
  | store | cboC | cboF | cboI | cboZ | ts (id : Nat)
  deriving DecidableEq, Repr

/-- A store buffer entry: up to 16 bytes in a 16-byte block (R201). sent: its transaction is under way. -/
structure SbEntry where
  kind  : SbKind
  pa    : Nat
  data  : Nat := 0
  mask  : Nat := 0
  w     : Bool
  pbmt  : Nat
  part  : Nat
  cls   : TClass
  sent  : Bool := false
  ea    : Nat := 0               -- the address of the store itself (R208)
  deriving DecidableEq, Repr

/-- Why a hart stalls in RUN: a PH.WAIT, a TS.STORE on a full queue, a TS.CANCEL whose message is under way, a descriptor
being loaded, or a vector store whose remaining entries wait for room in the buffer. -/
inductive Stall where
  | none
  | phWait (rd src : Nat) (target : Word) (len : Nat) (enc : BitVec 32)
  | tsFull (i : TsInfo) (len : Nat) (pbmt : Nat) (cls : TClass)
  | tsCancel (rd len : Nat)
  | desc
  | storeRest (es : List SbEntry) (len : Nat) (trap : Option (Nat × Trap))
  deriving DecidableEq, Repr

/-- One access of a pending load. val is its data once it has performed; p0 and p1 hold, with their poison, the parts of a
cacheable one that have been read, one for each line that it touches (R214). -/
structure LAcc where
  va   : Word
  pa   : Nat
  size : Nat
  pbmt : Nat
  pa2  : Option Nat := none      -- the address of the bytes on the second page of an access that crosses a page
  val  : Option Nat := none
  err  : Bool := false
  pois : Bool := false
  sent : Bool := false
  p0   : Option (Nat × Bool) := none
  p1   : Option (Nat × Bool) := none
  deriving DecidableEq, Repr

/-- A load that has not retired (R206). part, v and w are those it executed with. after is a fault that it raises when its
accesses have performed; desc marks the load of a task descriptor. -/
structure PLoad where
  id     : Nat
  pc     : Word
  dst    : LoadDst
  accs   : List LAcc
  part   : Nat
  v      : Bool
  w      : Bool
  cls    : TClass
  stream : Bool
  amo    : Option (Nat × Nat × Nat) := none  -- NEAR AMO or LR waiting for M: operation, operand, kind
  after  : Option (Nat × Word) := none
  desc   : Option Nat := none
  deriving DecidableEq, Repr

/-- A dispatch in the pending slot or under way (R137). -/
structure Disp where
  desc   : Nat
  arg    : BitVec 32
  phase  : Word
  inst   : Word
  entry  : Nat
  source : Nat
  late   : Bool
  deriving DecidableEq, Repr

/-- An IMSIC interrupt file (R438). -/
structure Imsic where
  deliv  : Nat := 0
  thresh : Nat := 0
  eip    : Nat := 0
  eie    : Nat := 0
  deriving DecidableEq, Repr

/-- A hart with its core. -/
structure Hart where
  x       : SMap Word := []
  f       : SMap Word := []
  v       : SMap (BitVec 256) := []
  pc      : Word := 0
  priv    : Nat := 3
  virt    : Bool := false
  w       : Bool := true
  nextW   : Bool := true
  csr     : SMap Word := []
  st      : CoreSt := .held
  halted  : Bool := false
  haltReq : Bool := false
  step    : Option Word := none    -- resumed at this pc with dcsr.step set
  trap    : Option Trap := none
  stall   : Stall := .none
  monW    : Nat := 15              -- world of each monitor, one bit each (R132)
  pend    : Option Disp := none    -- the held dispatch of szdpend
  start   : Option Disp := none    -- a dispatch whose descriptor is being loaded
  tdc     : List (Nat × Line) := []  -- the descriptor cache, latest used first (R136)
  task0   : Word := 0
  task1   : Word := 0
  task2   : Word := 0
  task3   : Word := 0
  resv    : Option Nat := none     -- the reservation: its line
  sb      : List SbEntry := []
  loads   : List PLoad := []
  nextId  : Nat := 0
  lastIo  : Option Nat := none     -- target block or port of the last I/O access (R205)
  waitAt  : Word := 0              -- when the core entered WAIT (R110)
  misses  : List Nat := []         -- the lines of the latest misses, newest first, at most 4 (R152)
  imsic   : SMap Imsic := []
  deriving DecidableEq, Repr

/-- The trace stage of a core: at most 4 records, the records lost since the last one, and an open gap (R580). -/
structure CoreTrace where
  stage : List (Word × Word) := []
  lost  : Nat := 0
  gap   : Bool := false
  deriving DecidableEq, Repr

/-- A timed store on its way to or in the PHE. stage: 0 in the store buffer, 1 pending, 2 matched, 3 issued (R123 to
R131). -/
structure TsEntry where
  id    : Nat
  info  : TsInfo
  stage : Nat
  inst  : Word := 0
  deriving DecidableEq, Repr

/-- Who awaits the completion of a request, and what it does with it (R270, R287). -/
inductive TxOwner where
  | load (hart id acc : Nat) | amo (hart id : Nat) | store (hart : Nat)
  | timed (hart id : Nat) | dma (ch off len : Nat) | dmaDead (ch : Nat) | dmaWrite (ch fpc faddr : Nat) | dmaFlush (ch faddr : Nat) | zdDesc (ch : Nat)
  | zdStatus (ch faddr : Nat)
  | bat (domain : Nat) | trace (die : Nat) | pcie (port req : Nat) | paleg (port req : Nat) | sba | range (eng : Nat)
  deriving DecidableEq, Repr

/-- An open request of an initiator, injected when the timebase was t0. phase 0 open, 1 its tag in quarantine, 2 its tag
withdrawn (R286, R288). -/
structure Tx where
  src   : Nat
  tag   : Nat
  tgt   : Nat
  addr  : Nat
  op    : Op
  own   : TxOwner
  w     : Bool
  part  : Nat
  phase : Nat := 0
  t0    : Word := 0
  deriving DecidableEq, Repr

/-- A line in a write queue: the codewords that will be written, by half, with their poison (R222, R248). -/
structure WrEntry where
  addr   : Nat
  data   : Line
  poison : BitVec 2
  halves : BitVec 2 := 3
  deriving DecidableEq, Repr

/-- A request that a controller holds for the home agent: 0 read, 1 write, 2 atomic (R221, R229). issued: its bank works on
it. -/
structure McReq where
  addr     : Nat
  kind     : Nat
  cls      : TClass
  part     : Nat
  deferred : Bool
  late     : Bool
  issued   : Bool := false
  deriving DecidableEq, Repr

/-- A directory entry (R175). -/
structure DirEntry where
  valid : Bool := false
  ex    : Bool := false
  w     : Bool := false
  nru   : Bool := false
  busy  : Bool := false
  tag   : Nat := 0
  pv    : Nat := 0
  fdie  : Nat := 0
  deriving DecidableEq, Repr

/-- A request in a home agent's queue. ue: its lookup finds the line's entry uncorrectable (R177). awaits: the line whose
recall it awaits for a way (R176). -/
structure HaReq where
  p      : Packet
  waited : Bool := false
  ue     : Bool := false
  awaits : Option Nat := none
  deriving DecidableEq, Repr

/-- An open transaction of a home agent (R182): the request it serves, or none for a recall. st is the line's state when
it began: 0 U, 1 SH, 2 EX. mem: 0 no memory access, 1 awaited, 2 done. -/
structure HaTx where
  line   : Nat
  req    : Option Packet
  st     : Nat
  w      : Bool
  snoops : List Nat := []
  wbp    : List Nat := []
  mem    : Nat := 0
  data   : Option (Line × BitVec 2) := none
  gone   : Bool := false          -- an owner or F die answered that it no longer holds the line
  fwd    : Bool := false          -- a die forwarded the data to the requester
  ack    : Bool := false          -- only the requester's CmpAck is missing
  deriving DecidableEq, Repr

/-- A line of the L3. st: 0 I, 1 S, 2 F, 3 E, 4 M (R174). own is the core granted E or M, 20 for none. -/
structure L3Line where
  line   : Nat := 0
  st     : Nat := 0
  pres   : Nat := 0
  own    : Nat := 20
  w      : Bool := false
  age    : Nat := 0
  poison : BitVec 2 := 0
  data   : Line := 0
  deriving DecidableEq, Repr

/-- A line of an L2. st: 0 I, 1 S, 2 E, 3 M (R174). ten: its minimum tenure runs (R186). -/
structure L2Line where
  line   : Nat := 0
  st     : Nat := 0
  w      : Bool := false
  px     : Bool := false
  age    : Nat := 0
  ten    : Bool := false
  poison : BitVec 2 := 0
  data   : Line := 0
  deriving DecidableEq, Repr

/-- A sub-block of an L1D sector, or an L1I line. -/
structure L1Block where
  valid  : Bool := false
  poison : BitVec 2 := 0
  data   : Line := 0
  deriving DecidableEq, Repr

/-- An L1D sector of four sub-blocks (R146), or an L1I line in block 0. -/
structure L1Set where
  used : Bool := false
  tag  : Nat := 0
  w    : Bool := false
  px   : Bool := false
  age  : Nat := 0
  b0   : L1Block := {}
  b1   : L1Block := {}
  b2   : L1Block := {}
  b3   : L1Block := {}
  deriving DecidableEq, Repr

/-- An entry of a slice's victim buffer (R188). wbm: a WbM is in flight, otherwise an EvC. -/
structure VbEntry where
  die    : Nat
  line   : Nat
  wbm    : Bool
  w      : Bool
  poison : BitVec 2
  data   : Line
  deriving DecidableEq, Repr

/-- A request of a slice to a home agent that is not yet answered, injected when the timebase was t0 (R181, R286). dead:
R287 has answered the cores with an error and the slice keeps the transaction. -/
structure L3Pend where
  die  : Nat
  line : Nat
  tag  : Nat
  op   : Op
  req  : Packet
  dead : Bool
  t0   : Word := 0
  deriving DecidableEq, Repr

/-- A packet that waits in a slice, with the cores to which it has sent SnpL, SnpLX or InvL (R179, R181, R188). -/
structure SliceReq where
  die  : Nat
  line : Nat
  p    : Packet
  sent : Nat
  deriving DecidableEq, Repr

/-- A request of a core's L2, or of its store buffer, to its slice that is not yet answered, injected when the timebase was
t0 (R206, R286). pf: 0 a demand, 1 a prefetch, 2 a prefetch that has been discarded (R105, R152), 3 a fill of a PRELOAD
(R158). phase as in Tx (R288). -/
structure L2Pend where
  np     : Nat
  line   : Nat
  op     : Op
  stream : Bool
  pf     : Nat := 0
  tag    : Nat := 0
  w      : Bool := false
  part   : Nat := 0
  phase  : Nat := 0
  t0     : Word := 0
  deriving DecidableEq, Repr

/-- The range engine of a core (np) or of a die (240 + n). cmd 1 CLEAN, 2 INVAL, 3 CLEAN_INVAL, 4 PRELOAD (R158). next is the
place in the order of its visits from which it goes on: a line, or 2^48 times a set and a line where it walks the sets
(R159). -/
structure RangeRun where
  eng   : Nat
  cmd   : Nat
  w     : Bool
  part  : Nat
  first : Nat
  last  : Nat
  next  : Nat := 0
  count : Nat := 0
  deriving DecidableEq, Repr

/-- A region's recall of entries of its old world (R373). -/
structure WorldWalk where
  region : Nat
  world  : Bool
  deriving DecidableEq, Repr

/-- A die's transition (R515, R533). kind 0: to OFF, 1: to GATED, 2: from OFF to ON, 3: from GATED to ON, 4: the OFF part
of an orderly reset. port: the request port that asked for it. onPort: the port of an ON request that waits for its end, 128 for a hold (R388,
R526). -/
structure DieTrans where
  kind  : Nat
  port  : Option Nat := none
  onPort : Option Nat := none
  deriving DecidableEq, Repr


/-- A trace record of a bat (R297). -/
structure BatRec where
  w0 : Word := 0
  w1 : Word := 0
  w2 : Word := 0
  w3 : Word := 0
  deriving DecidableEq, Repr

/-- One direction of a bridge's main link (R306 to R310): at the receiver the next SEQ expected, whether it discards frames
until a replay, and the NAKs sent for that SEQ; at the transmitter the last SEQ sent and the last acknowledged. -/
structure Link where
  exp   : Nat := 0
  skip  : Bool := false
  naks  : Nat := 0
  sent  : Nat := 4095
  acked : Nat := 4095
  deriving DecidableEq, Repr

/-- The hidden state of a bridge: its links, the masks that the IOD end and the die end propose, whether each proposes
half width, the failures that training has found (R315), and whether a training has been made. -/
structure Bridge where
  up      : Link := {}
  down    : Link := {}
  iod     : LaneMask := {}
  die     : LaneMask := {}
  iodHalf : Bool := false
  dieHalf : Bool := false
  found   : LaneMask := {}
  trained : Bool := false
  fallTb  : Option Word := none
  sbFails : List Word := []
  deriving DecidableEq, Repr

/-- A read that a MOVE has issued: its bytes, by their offset in the byte order of R332, and their value once read. -/
structure DmaRd where
  off : Nat
  len : Nat
  val : Option Nat := none
  deriving DecidableEq, Repr

/-- A MOVE, MOVE2D or descriptor in progress (R330 to R332, R361). next is the offset of the next read, done the bytes whose
writes have left. -/
structure DmaMove where
  src    : Nat
  dst    : Nat
  ss     : Int := 0
  ds     : Int := 0
  rows   : Nat := 1
  rowLen : Nat
  cls    : TClass
  sfix   : Bool := false
  dfix   : Bool := false
  esz    : Nat := 1
  sreg   : Option (Nat × Int) := none
  dreg   : Option (Nat × Int) := none
  next   : Nat := 0
  done   : Nat := 0
  rds    : List DmaRd := []
  deriving DecidableEq, Repr

/-- A ZD64 descriptor in progress (R361): where it lies, and what its completion needs. fetched is false while it is being
read. -/
structure DmaDesc where
  pa      : Nat
  fetched : Bool := false
  irq     : Bool := false
  tag     : Nat := 0
  next    : Nat := 0
  deriving DecidableEq, Repr

/-- The hidden state of a DMA channel. cont is the byte from which a resumed MOVE goes on (R358); fence: a FENCE.ACK waits;
ports: the last address written on each PCIe or Paleg port since the last FENCE.ACK, physical and of the channel (R342);
since orders the waits of R340, and waitTb is the timebase at which the WAIT began (R338); waitI and waitA count the cycles
without a grant of the two slots (R351); startFault: the channel is FAULTED by its start (R327). -/
structure DmaCh where
  move  : Option DmaMove := none
  cont  : Nat := 0
  desc  : Option DmaDesc := none
  fence : Bool := false
  ports : List (Nat × Nat × Nat) := []
  since : Nat := 0
  waitTb : Word := 0
  startFault : Bool := false
  waitI : Nat := 0
  waitA : Nat := 0
  deriving DecidableEq, Repr


/-- A key of slots 4 to 31: an AES-256 key or an HMAC key, and whether it came from KEY_LOAD_PLAIN (R395, R412). -/
structure HelmKey where
  hmac  : Bool
  plain : Bool
  key   : Nat
  deriving DecidableEq, Repr

/-- A command that Helm has forwarded: its mailbox, its target, and the response cells that have arrived, by segment
(R503). -/
structure HelmFwd where
  mb   : Nat
  node : Nat
  got  : List (Nat × Nat × Line)
  t0   : Word := 0
  deriving DecidableEq, Repr

/-- A forwarded command under assembly at its target, or served in mailbox 3: its source and origin mailbox, the port it
came by, and its cells by segment (R503). -/
structure HelmRx where
  src  : Nat
  mb   : Nat
  port : Nat
  got  : List (Nat × Nat × Line)
  deriving DecidableEq, Repr

/-- The hidden state of Helm. cmdKey, image, mode and startCfg lie in the monotonic store; up: released from reset; cur:
the mailbox whose command is being performed; holding, held: the hold of R405 runs, or has passed; locked: mailboxes whose
command arrived during a hold; lens: the request length of each mailbox at its doorbell. -/
structure Helm where
  cmdKey   : Nat := 0
  image    : Nat := 0
  mode     : Bool := false
  startCfg : Option Nat := none
  up       : Bool := false
  slots    : SMap (Option HelmKey) := []
  cur      : Option Nat := none
  holding  : Bool := false
  held     : Bool := false
  locked   : List Nat := []
  lens     : SMap Nat := []
  fwd      : List HelmFwd := []
  rx       : List HelmRx := []
  serving  : Option HelmRx := none
  holdAt   : Word := 0             -- when the hold of R405 began
  deriving DecidableEq, Repr

/-- A partition reset under way: when it began, and the channels, blocks and harts that it counted (R432). -/
structure PartRun where
  tb    : Word
  chans : Nat
  blks  : Nat
  harts : Nat
  deriving DecidableEq, Repr

/-- A translation fault that the IOMMU has not yet put into its fault queue: cause, device ID, address, and whether the access
was a write (R424). -/
structure IommuFault where
  cause : Nat
  did   : Nat
  iova  : Nat
  write : Bool
  deriving DecidableEq, Repr

/-- A non-posted request of a PCIe port: where it went, the RdIOs it carries with their offsets, what has come back, the
byte ranges that came poisoned, and whether its RdIOs have been answered already (R456, R457, R471). -/
structure PeRd where
  port : Nat
  link : Nat
  tag  : Nat
  fn   : Option Nat
  addr : Nat
  len  : Nat
  cfg  : Bool := false
  rds  : List (Packet × Nat) := []
  got  : Nat := 0
  data : Nat := 0
  bad  : List (Nat × Nat) := []
  dead : Bool := false
  deriving DecidableEq, Repr

/-- A TLP that a port holds: its request, what it carries, the agent that asked for it, whether it awaits an Ack, and the
request of the fabric that the Ack answers (R455, R457, R459). -/
structure PeHeld where
  r    : PeRd
  kind : TlpKind
  src  : Nat
  data : Nat := 0
  be   : Nat := 0
  ack  : Bool := false
  p    : Option Packet := none
  deriving DecidableEq, Repr

/-- A TLP that awaits the Ack of the link partner, with the request of the fabric that it answers (R459). -/
structure PeWr where
  port : Nat
  t    : Tlp
  p    : Option Packet
  deriving DecidableEq, Repr

/-- A Memory Read being formed from the reads of one DMA channel (R456). -/
structure PeComb where
  ch   : Nat
  win  : Nat
  addr : Nat
  len  : Nat := 0
  rds  : List (Packet × Nat) := []
  deriving DecidableEq, Repr

/-- A vector of an MSI-X table: address, data and mask, and its pending bit. -/
structure MsixVec where
  addr : Nat := 0
  data : Nat := 0
  mask : Bool := true
  pend : Bool := false
  deriving DecidableEq, Repr

/-- What a host sets in the configuration space of a function: VF Enable, MSI-X Enable and Function Mask, and the words that
have no meaning here. -/
structure PeCfg where
  vfEn  : Bool := false
  msix  : Bool := false
  fmask : Bool := false
  mrrs  : Nat := 512
  words : SMap (BitVec 32) := []
  deriving DecidableEq, Repr

/-- An inbound request of a PCIe port (0 to 7) or a Paleg port (8 to 15), in the port's strict order (R460, R489). reqs are
the line requests that are left, each its physical address, its offset in the TLP or cell and its length; status is 0 while
all is well, and otherwise the response: 1 refused, 2 unmapped, 3 timeout; old: it was accepted under the mapping before the
last commit. -/
structure InJob where
  t      : Tlp
  cell   : Option PlCell := none
  w      : Bool := false
  part   : Nat := 0
  reqs   : List (Nat × Nat × Nat) := []
  sent   : Bool := false
  data   : Nat := 0
  pois   : BitVec 2 := 0
  bad    : List (Nat × Nat) := []
  status : Nat := 0
  old    : Bool := false
  deriving DecidableEq, Repr

/-- An outbound request of the Paleg ports (R486 to R488). -/
structure PlTx where
  port : Nat
  tag  : Nat
  rd   : Bool
  p    : Packet
  t0   : Word := 0
  deriving DecidableEq, Repr

/-- The hidden state of a Paleg port: the SEQ expected and whether a replay is awaited at the receiver, the SEQ last
acknowledged at the transmitter (the flits not acknowledged are the port's messages in State.out, in order), the phase
frames sent and not yet acknowledged with their SEQ and T1 (R495, R496), the last delays measured, the next FSEQ, the SEQ of
the last phase frame received, and the frames acknowledged in time since REJOIN. -/
structure PlLink where
  exp    : Nat := 0
  skip   : Bool := false
  naks   : Nat := 0
  acked  : Nat := 4095
  frames : List (Nat × Word) := []
  delays : List Int := []
  fseq   : Nat := 0
  lastRx : Nat := 0
  rejoin : Option Nat := none
  deriving DecidableEq, Repr

/-- An orderly end of the package's operation that is under way, from step 3 of R508 on: its goal, and the request port that
asked for it. goal 0: RETAIN, 1: OFF, 2: a warm package reset. -/
structure PkgEnd where
  goal : Nat
  pf   : Bool := false
  port : Option Nat := none
  deriving DecidableEq, Repr

/-- The present start: the header of the image that was loaded, whether the image is valid, whether the start has failed and
awaits its retry, and the cores kept in reset by BIST (R169, R535 to R542). -/
structure Boot where
  header : Option Nat := none
  valid  : Bool := false
  failed : Bool := false
  kept   : List Nat := []
  relAt   : Word := 0              -- when step 6 released the harts (R541)
  failAt  : Word := 0              -- when the start failed, and when the Lantern that holds its retry took it (R542, R546)
  retryAt : Word := 0
  deriving DecidableEq, Repr

/-- A flash operation that runs: an erase, or a write of n bytes; lmb: it came from the Lantern mailbox (R548). -/
structure FlashOp where
  erase : Bool
  addr  : Nat
  n     : Nat
  data  : Nat
  lmb   : Bool
  deriving DecidableEq, Repr

/-- The rack link and the Lanterns: the RESULT of the last command, the response bytes to it, the in-band interrupts sent,
the I3C dynamic address, and the heartbeats in a row of each restarted Lantern, A and B (R543 to R548). -/
structure Rack where
  result : Nat := 0
  rspLen : Nat := 0
  rsp    : Nat := 0
  ibi    : List Nat := []
  dyn    : Option Nat := none
  beatsA : Nat := 0
  beatsB : Nat := 0
  deriving DecidableEq, Repr
/-- An error record on its way to the RAS log (R554); COUNT and SEQ are given on acceptance. -/
structure ErrRec where
  tb     : Word
  ty     : Nat
  sev    : Nat
  w      : Bool := false
  addr   : Option Nat := none
  part   : Nat := 0
  src    : Nat := 0
  detail : Nat := 0
  deriving DecidableEq, Repr

/-- A committed repair (R563). body holds bytes 8 to 31, byte 8 lowest. -/
structure Repair where
  kind    : Nat
  counter : Nat
  body    : Nat
  deriving DecidableEq, Repr


/-- The IOD TAP and the die TAPs (R570 to R577). ir: the instruction of the IOD TAP. dieIr: that of CDn's TAP. bound: the
update stage of the boundary register. tdo: what the last data-register scan shifted out. sib: the open SIBs. dmi: the
result of the last DMI access. hmWr and hmRd: the next request and response words of HELM_MB. -/
structure Tap where
  ir    : Nat := 0x01
  dieIr : SMap Nat := []
  bound : BitVec 262 := 0
  tdo   : Nat := 0
  sib   : Nat := 0
  dmi   : Nat := 0
  hmWr  : Nat := 0
  hmRd  : Nat := 0
  deriving DecidableEq, Repr

/-- The debug module (R578). resetHalt, haveReset and resumeAck: one bit for each hart. held: an abstract command that the
enables hold (R391). -/
structure DbgMod where
  active    : Bool := false
  hartsel   : Nat := 0
  resetHalt : Nat := 0
  haveReset : Nat := 0
  resumeAck : Nat := 0
  data      : Nat := 0
  cmderr    : Nat := 0
  held      : Option Nat := none
  progbuf   : SMap Nat := []
  sbAccess  : Nat := 2
  sbOnAddr  : Bool := false
  sbOnData  : Bool := false
  sbInc     : Bool := false
  sbErr     : Nat := 0
  sbBusyErr : Bool := false
  sbBusy    : Bool := false
  sbAddr    : Nat := 0
  sbData    : Nat := 0
  deriving DecidableEq, Repr


/-- A packet or a sideband message that has been sent and not yet delivered. -/
inductive Msg where
  /-- A packet of the fabric (R267). -/
  | pkt (p : Packet)
  /-- A Paleg cell that port n sends (R480). -/
  | cell (n : Nat) (c : PlCell)
  /-- A phase broadcast on its way to CDn (R59). -/
  | bcast (n : Nat)
  /-- A dispatch on its way to a hart (R83, R137, R138). -/
  | dispatch (hart desc : Nat) (arg : BitVec 32) (phase inst : Word) (entry source : Nat) (late w : Bool) (part : Nat)
  /-- A calendar start on its way to a DMA channel (R327). -/
  | dmaStart (ch : Nat) (w : Bool) (part : Nat)
  /-- A calendar or Paleg unblock on its way to a DMA channel (R339). -/
  | dmaUnblock (ch evt : Nat) (w : Bool) (part : Nat)
  /-- A calendar trigger on its way to a bat (R296). -/
  | batTrig (bat entry : Nat)
  /-- An interrupt message to a file of a hart: 0 supervisor, 1 to 7 guest, 8 Open machine, 9 Secure (R439). -/
  | imsic (hart file eiid : Nat) (w : Bool) (part src : Nat)
  /-- A timed store on the sideband to the PHE (R126). -/
  | timed (hart id : Nat)
  /-- A timed store cancel on the sideband (R131). addr is none for all. -/
  | tsCancel (hart : Nat) (w : Bool) (addr : Option Nat)
  /-- A TLP that port n sends on one of its links (R453). -/
  | tlp (n : Nat) (t : Tlp)
  /-- A phase frame that Paleg port n sends (R493). -/
  | frame (n : Nat) (f : PhFrame)
  deriving DecidableEq, Repr

/-- The state of the block. -/
structure State where
  /-- The commands that wait, first in, first out. -/
  pending : List Instr
  /-- The part, as its fuses say (R1, R30). No command changes it. -/
  sku : Sku
  /-- The model's own counter, to which free values are applied. The spec does not give it. -/
  fresh : Nat
  /-- The memory-mapped registers, by Reg.key. An unlisted register reads as its reset value. -/
  regs : SMap Word
  /-- The packets and messages that have been sent and not yet delivered. -/
  out : List Msg
  /-- DRAM, byte by byte. An unlisted byte reads as 0. -/
  mem : List Host.Cell
  /-- The answer to the last access (R268, R270). -/
  resp : Resp
  /-- The hidden state of the phase ports, by port. -/
  ports : SMap PortAux
  /-- The phase replicas, by compute die. -/
  replicas : SMap Replica
  /-- The calendar entries, by index. -/
  cal : SMap CalEntry
  /-- The due queue (R78). -/
  due : List Firing
  /-- Firings held in their entries while the due queue is full (R79). -/
  calHeld : List Firing
  /-- Blocks waiting for their cancellation, in order (R86). -/
  cancelQ : List Nat
  /-- The block whose cancellation runs. -/
  cancelRun : Option Nat
  /-- Blocks that a partition reset reopens when their cancellation ends (R88). -/
  cancelReopen : List Nat
  /-- The hidden state of the timed pins. -/
  pins : SMap Pin
  /-- The OPEN value that a reservation window takes at the next slot-cycle boundary (R282). -/
  winPend : SMap (Option (Bool × Option Word))
  /-- The messages that wait for a Paleg port (R490). -/
  plQ : SMap (List PlCell)
  /-- The units whose clock is stopped, in order of their numbers (R385, R524). -/
  clkOff : List Nat
  /-- The harts with their cores, by hart ID. -/
  harts : SMap Hart
  /-- The trace stages of the cores (R580). -/
  coreTrace : SMap CoreTrace
  /-- The timed store queues, by hart (R123). -/
  tsq : SMap (List TsEntry)
  /-- The open requests of every initiator, and the tags in quarantine (R287, R288). -/
  txs : List Tx
  /-- The controllers' write queues, oldest first (R222). -/
  wrq : List WrEntry
  /-- The requests that the controllers hold (R221, R229). -/
  mcq : List McReq
  /-- GT tokens left in this slot cycle, by controller and partition (R230). -/
  mcGt : SMap Nat
  /-- GT requests admitted in the present bank window, by sub-channel (R226). -/
  mcWin : SMap Nat
  /-- Refreshes postponed in a row, by bank (R224). -/
  mcBank : SMap Nat
  /-- The values of MC_CREDIT in force until the next slot-cycle boundary, where a later write has been made (R231). -/
  mcPend : SMap (Option Word)
  /-- The device time at which the last GT flit of a window passes its slot point, by twice the window, plus 1 for a DOWN
  point (R279, R280). -/
  winBusy : SMap Word
  /-- The dies whose routers have not yet changed to the current epoch, their bridge not being ACTIVE (R284, R318). -/
  epochLag : List Nat
  /-- The open row of each bank (R221, R222). -/
  mcOpen : SMap (Option Nat)
  /-- The sub-channels that are at a window start at which no maintenance command has been issued (R225). -/
  mcStart : List Nat
  /-- The scrubber's next line within its sub-channel (R253). -/
  scrubAt : SMap Nat
  /-- The region that MC_INIT writes (R251). -/
  initRun : Option Nat
  /-- The directories, by home agent, set and way (R175). -/
  dir : SMap DirEntry
  /-- The home agents' queues, in order of arrival (R183, R184). -/
  haQ : List HaReq
  /-- Requests that arrived in the present FAB cycle (R184). -/
  haTie : List HaReq
  /-- The home agents' open transactions (R182). -/
  haTx : List HaTx
  /-- The atomic buffers of the home agents (R189), oldest first. -/
  atomBuf : List WrEntry
  /-- The world walks that run (R373). -/
  walks : List WorldWalk
  /-- The L3 lines, by die, slice, set and way. -/
  l3 : SMap L3Line
  /-- The victim buffers (R188). -/
  vb : List VbEntry
  /-- The slices' open requests. -/
  l3Pend : List L3Pend
  /-- The packets that wait in the slices. -/
  sliceQ : List SliceReq
  /-- The L2 lines, by core, set and way. -/
  l2 : SMap L2Line
  /-- The L1D sectors, by core, set and way. -/
  l1d : SMap L1Set
  /-- The L1I lines, by core, set and way. -/
  l1i : SMap L1Set
  /-- The cores' open requests. -/
  l2Pend : List L2Pend
  /-- Snoops that wait for the end of a tenure (R186), by core. -/
  l2Held : List SliceReq
  /-- The range commands that run (R158). -/
  ranges : List RangeRun
  /-- L2 ways disabled by an uncorrectable tag, a mask by core (R166). -/
  l2BadWay : SMap Nat
  /-- The refresh rate that MR4 of each sub-channel last reported, encoded as TEMP_RATE (R224, R225). -/
  mcRate : SMap Nat
  /-- The lines written back into the region under INIT since it began (R251). -/
  initWb : List Nat
  /-- The RAW_READ (1) or RAW_WRITE (2) that waits for the cached copies of its line (R260). -/
  testRun : Option Nat
  /-- The writes to the MC_ECC_TEST registers that wait for it, by Reg.key (R260). -/
  testHeld : List (Nat × Word)
  /-- The oldest entry of the full RAS_PAGE_HIST (R568). -/
  histNext : Nat
  /-- The reservation windows of the current epoch, in the layout of FAB_RSV_CFG; that register holds those staged for the other epoch, and OPEN (R276, R283). -/
  winCur : SMap Word
  /-- The route tables, by epoch, domain, router and agent (R283). -/
  routes : SMap Nat
  /-- An epoch check runs (R284). -/
  epochCheck : Bool
  /-- The live counters of the compute dies' bats, by counter index; BAT_CNT holds the copy (R294). -/
  batLive : SMap Word
  /-- Records that a bat whose stop trigger has occurred still writes (R295). -/
  batPost : SMap Nat
  /-- Records lost by a bat since the last one it wrote (R298). -/
  batGap : SMap Nat
  /-- The stages of the bats (R298). -/
  batStage : SMap (List BatRec)
  /-- The trace buffers, by domain and record (R298). -/
  batBuf : SMap BatRec
  /-- The records that wait for their DRAM writes, by domain (R299). -/
  batFifo : SMap (List BatRec)
  /-- The hidden state of the bridges. -/
  bridges : SMap Bridge
  /-- The transition of each compute die that is under way (R515). -/
  dieTrans : SMap (Option DieTrans)
  /-- The hidden state of the DMA channels. -/
  dma : SMap DmaCh
  /-- The waits that DMA channels have begun (R340). -/
  dmaTurn : Nat
  /-- The round-robin pointers of the engines, by engine, slot and priority (R351). -/
  dmaPtr : SMap Nat
  /-- Wired sources without a status bit that have been raised and not yet taken by the APLIC (R442). -/
  pulses : List Nat
  /-- Helm's key slots, stored values and commands under way (R393 to R415, R503). -/
  helm : Helm
  /-- The partition resets under way (R432). -/
  partRun : SMap (Option PartRun)
  /-- The partition to which a restarting hart is being reassigned (R420). -/
  hartNew : SMap (Option Nat)
  /-- The windows whose EN the next slot-cycle boundary clears (R432). -/
  winOff : List Nat
  /-- The IOMMU's registers of 32 bits, by offset (R424). -/
  iommu : SMap Nat
  /-- Translation faults not yet in the IOMMU's fault queue (R424). -/
  iommuFlt : List IommuFault
  /-- The APLIC's registers of 32 bits, by domain and offset (R441). -/
  aplic : SMap Nat
  /-- The level that the APLIC last saw on each wired source (R442). -/
  wired : SMap Bool
  /-- The request ports whose last request asked for an interrupt at DONE (R524). -/
  pwrIrq : List Nat
  /-- PE_PORT_CFG in force, by port; PE_EP_CFG in force, by 8 + port (R450, R463). -/
  peLive : SMap Word
  /-- The non-posted requests of the PCIe ports (R457). -/
  peRd : List PeRd
  /-- Requests that a PCIe port holds behind an earlier one, or for want of a tag of their link (R455, R457). -/
  peWait : List PeHeld
  /-- The Memory Read that each PCIe port is forming (R456). -/
  peComb : SMap (Option PeComb)
  /-- Posted TLPs not yet acknowledged, in order: port, link and the WrIO they carry (R459). -/
  peWr : List PeWr
  /-- The configuration space of the endpoint functions, by 33 × port + function (R472). -/
  peCfg : SMap PeCfg
  /-- The MSI-X tables, by (33 × port + function) × 16 + vector (R463). -/
  msix : SMap MsixVec
  /-- The link power state, by 4 × port + link: 0 L0, 1 L0s, 2 L1; and at 64 + that, the states that Link Control enables, L0s in bit 0 and L1 in bit 1 (R475). -/
  aspm : SMap Nat
  /-- When each PCIe link last sent a TLP or came up (R475). -/
  peIdle : SMap Word
  /-- When the Paleg ports last sent phase frames (R493). -/
  frameAt : Option Word
  /-- The inbound requests of the PCIe ports, 0 to 7, and the Paleg ports, 8 to 15, in order of arrival (R460, R489). -/
  inq : SMap (List InJob)
  /-- The inbound windows in force, by the key of the register that shadows each (R466, R501). -/
  iwinCur : SMap Word
  /-- The hidden state of the Paleg ports. -/
  plLinks : SMap PlLink
  /-- The cells delivered to this node, by arrival port, in order of arrival (R484). -/
  plIn : SMap (List PlCell)
  /-- The Paleg requests whose answer or acknowledgement is awaited (R487, R488). -/
  plTx : List PlTx
  /-- Read requests that wait for a Paleg port with 256 reads outstanding (R487). -/
  plWait : List Packet
  /-- The message FIFOs, each record with its arrival time (R491). -/
  plRx : SMap (List (Word × Word))
  /-- The orderly end of the package's operation that is under way (R508, R514, R532). -/
  pkgEnd : Option PkgEnd
  /-- The package is OFF (R514). -/
  pkgOff : Bool
  /-- AON has no power (R507). -/
  aonOff : Bool
  /-- A CORE clock change under way, by die: the frequency, and the request port that asked for it (R518). -/
  freqGoal : SMap (Option (Nat × Option Nat))
  /-- The last input samples of PWC, newest first: 10 mV and 1 mA (R506). -/
  samples : List (Nat × Nat)
  /-- Samples in a row below 95 % of the effective limit (R521). -/
  calm : Nat
  /-- Samples in a row above the effective limit (R520). -/
  excess : Nat
  /-- Samples in a row since phase-locked operation last had a cause to end (R520). -/
  fine : Nat
  /-- When the present power-fail sequence began (R508). -/
  pfAt : Word
  /-- The timebase units from the AON start to the last reset of the timebase (R552). -/
  aonTb : Nat
  /-- The units whose last request was refused with MITTEN (R525). -/
  mittenRef : List Nat
  /-- The request port that asked for the GATED entry of a core, by hart (R523). -/
  gatePort : SMap (Option Nat)
  /-- The present start (R535 to R542). -/
  boot : Boot
  /-- The boot flash. An unlisted byte reads as 0xFF (R534). -/
  flash : SMap Byte
  /-- The flash operation that runs (R548). -/
  flashOp : Option FlashOp
  /-- The rack link and the Lanterns (R543 to R548). -/
  rack : Rack
  /-- Error records not yet accepted (R558). -/
  intake : List ErrRec
  /-- Unread records in the RAS ring (R557). -/
  rasUnread : Nat
  /-- The RAS ring holds a newest record (R556). -/
  rasAny : Bool
  /-- The next sequence number (R554). -/
  rasSeq : Nat
  /-- UC cache records of each core position since its proposal was last cleared (R562). -/
  rasCoreUc : SMap Nat
  /-- The repair records of Helm's store, in order of commit (R563). -/
  repairs : List Repair
  /-- The JTAG port (R570 to R577). -/
  tap : Tap
  /-- The debug module (R578). -/
  dbg : DbgMod
  /-- The core trace buffers, 2,048 × n + record (R580). -/
  ctrBuf : SMap (Word × Word)
  /-- The core trace records of CDn on their way to DRAM (R580). -/
  ctrFifo : SMap (List (Word × Word))
  deriving DecidableEq, Repr

/-- Reasons for which the machine stops with a fault. No meaning of this model raises one: the spec gives every command
an effect or a response. -/
inductive Fault where
  /-- Raised by nothing. Safe. -/
  | none
  deriving DecidableEq, Repr

/-- Reasons for which a command is refused. -/
inductive Refusal where
  /-- Raised by an arm of exec whose command has no meaning yet. Safe: the machine stops. -/
  | notModelled (mnemonic : String)
  deriving DecidableEq, Repr


/-- The block right after power-on reset, a ZD216-256 (State.resetOf gives the other parts): every register at the Reset value of its table (R14), the fuse and store
values of Config, and every queue and buffer empty. -/
def State.reset : State where
  pending := []
  sku := .zd216_256
  fresh := 0
  regs := []
  out := []
  mem := []
  resp := ⟨0, 0⟩
  ports := []
  replicas := []
  cal := []
  due := []
  calHeld := []
  cancelQ := []
  cancelRun := none
  cancelReopen := []
  pins := []
  winPend := []
  plQ := []
  clkOff := []
  harts := []
  coreTrace := []
  tsq := []
  txs := []
  wrq := []
  mcq := []
  mcGt := []
  mcWin := []
  mcBank := []
  mcPend := []
  winBusy := []
  epochLag := []
  mcOpen := []
  mcStart := []
  scrubAt := []
  initRun := none
  dir := []
  haQ := []
  haTie := []
  haTx := []
  atomBuf := []
  walks := []
  l3 := []
  vb := []
  l3Pend := []
  sliceQ := []
  l2 := []
  l1d := []
  l1i := []
  l2Pend := []
  l2Held := []
  ranges := []
  l2BadWay := []
  mcRate := []
  initWb := []
  testRun := none
  testHeld := []
  histNext := 0
  winCur := []
  routes := []
  epochCheck := false
  batLive := []
  batPost := []
  batGap := []
  batStage := []
  batBuf := []
  batFifo := []
  bridges := []
  dieTrans := []
  dma := []
  dmaTurn := 0
  dmaPtr := []
  pulses := []
  helm := {}
  partRun := []
  hartNew := []
  winOff := []
  iommu := []
  iommuFlt := []
  aplic := []
  wired := []
  pwrIrq := []
  peLive := []
  peRd := []
  peWait := []
  peComb := []
  peWr := []
  peCfg := []
  msix := []
  aspm := []
  peIdle := []
  frameAt := none
  inq := []
  iwinCur := []
  plLinks := []
  plIn := []
  plTx := []
  plWait := []
  plRx := []
  pkgEnd := none
  pkgOff := false
  aonOff := false
  freqGoal := []
  samples := []
  calm := 0
  excess := 0
  fine := 0
  pfAt := 0
  aonTb := 0
  mittenRef := []
  gatePort := []
  boot := {}
  flash := []
  flashOp := none
  rack := {}
  intake := []
  rasUnread := 0
  rasAny := false
  rasSeq := 0
  rasCoreUc := []
  repairs := []
  tap := {}
  dbg := {}
  ctrBuf := []
  ctrFifo := []

end Sys2Proof.Machine
end

