-- ==== Sys2Proof/Machine/Ops.lean ====
section
/-! DEFINITION. The named operations over the state: registers and their fields, memory, messages, free values, refusals
(R375, R377, R421) and error records. -/
namespace Sys2Proof.Machine

/-- Every meaning of this model answers a next state. -/
abbrev Out := Host.Outcome State Fault Refusal

/-! ## Fields -/

/-- The value of a field (R5). -/
def fget (f : Fld) (v : Word) : Nat := (v.toNat / 2 ^ f.lo) % 2 ^ (f.hi + 1 - f.lo)

/-- The bits of a field, in place. -/
def fldMask (f : Fld) : Word := BitVec.ofNat 64 ((2 ^ (f.hi + 1 - f.lo) - 1) * 2 ^ f.lo)

/-- The register with a field changed to x, reduced to the field's width. -/
def fset (f : Fld) (v : Word) (x : Nat) : Word :=
  (v &&& ~~~ fldMask f) ||| (BitVec.ofNat 64 (x * 2 ^ f.lo) &&& fldMask f)

/-- Bits hi to lo of a word. -/
def bits (w : Word) (hi lo : Nat) : Nat := (w.toNat / 2 ^ lo) % 2 ^ (hi + 1 - lo)

/-- One bit of a word. -/
def bit (w : Word) (i : Nat) : Bool := w.getLsbD i

/-! ## Registers -/

/-- The value of instance i of a register. -/
def State.r (s : State) (g : Reg) (i : Nat) : Word := smapGet regDefault s.regs (g.key i)

/-- Instance i of a register set to v. -/
def State.setR (s : State) (g : Reg) (i : Nat) (v : Word) : State :=
  { s with regs := smapSet regDefault s.regs (g.key i) v }

/-- A field of instance i. -/
def State.f (s : State) (f : Fld) (i : Nat) : Nat := fget f (s.r f.reg i)

/-- A field of instance i, as a flag. -/
def State.b (s : State) (f : Fld) (i : Nat) : Bool := s.f f i != 0

/-- A field of instance i set to x, reduced to its width. -/
def State.setF (s : State) (f : Fld) (i : Nat) (x : Nat) : State :=
  s.setR f.reg i (fset f (s.r f.reg i) x)

/-- A one-bit field set to a flag. -/
def State.setB (s : State) (f : Fld) (i : Nat) (x : Bool) : State := s.setF f i (if x then 1 else 0)

/-- The largest value of a field. -/
def fldMax (f : Fld) : Nat := 2 ^ (f.hi + 1 - f.lo) - 1

/-- A saturating counter field raised by n. -/
def State.satAdd (s : State) (f : Fld) (i n : Nat) : State :=
  s.setF f i (min (s.f f i + n) (fldMax f))

/-- A saturating counter field raised by 1. -/
def State.satInc (s : State) (f : Fld) (i : Nat) : State := s.satAdd f i 1

/-- A wrapping counter field raised by 1. -/
def State.wrapInc (s : State) (f : Fld) (i : Nat) : State := s.setF f i (s.f f i + 1)

/-- Bit n of a field. -/
def State.fbit (s : State) (f : Fld) (i n : Nat) : Bool := (s.f f i).testBit n

/-- Bit n of a field set to x. -/
def State.setFbit (s : State) (f : Fld) (i n : Nat) (x : Bool) : State :=
  let v := s.f f i
  s.setF f i (if x then (if v.testBit n then v else v + 2 ^ n) else (if v.testBit n then v - 2 ^ n else v))

/-- The device timebase (R36). -/
def State.tb (s : State) : Word := s.r .PHE_TB 0

/-! ## Responses, free values and messages -/

/-- The answer to the access in progress: RESP = 0b00 and the data of a read. -/
def State.answer (s : State) (v : Word) : State := { s with resp := ⟨0b00#2, v⟩ }

/-- An answer with an error or a refusal carries no data (R270, R375). -/
def State.answerErr (s : State) (c : BitVec 2) : State := { s with resp := ⟨c, 0⟩ }

/-- A bit that the spec leaves open, fresh at each use. -/
def State.freeBit (s : State) : Bool := Config.freeBit s.fresh

/-- A word that the spec leaves open, fresh at each use. -/
def State.freeWord (s : State) : Word := Config.freeWord s.fresh

/-- The counter of free values moved on. -/
def State.bump (s : State) : State := { s with fresh := s.fresh + 1 }

/-- One second and one microsecond in units of the timebase (R36). -/
def tbSecond : Nat := 32000000000
/-- One microsecond. -/
def tbMicro : Nat := 32000

/-- A message sent: it joins the messages not yet delivered. -/
def State.send (s : State) (m : Msg) : State := { s with out := s.out ++ [m] }

/-- The drain count of an epoch (R285). -/
def drainFld (e : Bool) : Fld := if e then F.FAB_EPOCH_DRAIN1 else F.FAB_EPOCH_DRAIN0

/-- A message delivered: its oldest copy leaves the messages not yet delivered, and a packet leaves its epoch's drain
count (R285). A message that the block did not send itself comes from outside. -/
def State.take (s : State) (m : Msg) : State :=
  if s.out.contains m then
    let s : State := { s with out := s.out.erase m }
    match m with
    | .pkt p => s.setF (drainFld p.epoch) 0 (s.f (drainFld p.epoch) 0 - 1)
    | _ => s
  else s

/-- The packets of an epoch among messages. -/
def pktsOf (e : Bool) (ms : List Msg) : Nat := ms.countP fun m => match m with
  | .pkt p => p.epoch == e
  | _ => false

/-- Messages that are lost before they are delivered: their packets leave the drain counts too (R285). -/
def State.dropOut (s : State) (gone : Msg → Bool) : State :=
  let lost := s.out.filter gone
  let less (e : Bool) (s : State) : State := s.setF (drainFld e) 0 (s.f (drainFld e) 0 - pktsOf e lost)
  less true (less false { s with out := s.out.filter fun m => !gone m })

/-! Packets in flight (R269, R273) -/

/-- The code of an opcode. -/
def opCode : Op → Nat
  | .rdS => 0x00 | .rdX => 0x01 | .upgL3 => 0x02 | .rdOnce => 0x03 | .wrPart => 0x04 | .getS => 0x08 | .getX => 0x09
  | .upgHA => 0x0A | .getXZ => 0x0B | .cboC => 0x0C | .cboF => 0x0D | .atmH => 0x0E | .rdNC => 0x0F | .wrNC => 0x10
  | .rdIO => 0x11 | .wrIO => 0x12 | .snpL => 0x18 | .snpLX => 0x19 | .invL => 0x1A | .snpS => 0x1B | .snpX => 0x1C
  | .snpC => 0x1D | .inv => 0x1E | .rcl => 0x1F | .evL => 0x20 | .evC => 0x21 | .rspI => 0x22 | .rspS => 0x23
  | .rspFwdS => 0x24 | .rspFwdI => 0x25 | .rspWbP => 0x26 | .gntX => 0x27 | .cmp => 0x28 | .wbAck => 0x29
  | .evAck => 0x2A | .cmpAck => 0x2B | .cmpIO => 0x2C | .wbL => 0x30 | .wbM => 0x31 | .wbC => 0x32 | .rspRclD => 0x33
  | .fwdData => 0x34 | .dataE => 0x35 | .dataF => 0x36 | .dataIO => 0x37
  | .unknown c => c % 64

/-- The channel of a packet: 0 REQ, 1 SNP, 2 RSP, 3 DAT; a Cmp, RspFwdS or RspFwdI with data travels as DAT (R269). -/
def chanOf (p : Packet) : Nat :=
  let c := opCode p.op
  if c < 0x18 then 0 else if c < 0x20 then 1 else if c < 0x30 then (if p.data then 3 else 2) else 3

/-- The header of a packet as a number (R268). -/
def headerOf (p : Packet) : Nat :=
  let b (x : Bool) : Nat := if x then 1 else 0
  p.cls.ctorIdx * 2 ^ 126 + b p.w * 2 ^ 125 + b p.epoch * 2 ^ 124 + chanOf p * 2 ^ 122 + opCode p.op * 2 ^ 116
    + p.part % 64 * 2 ^ 110 + p.src % 512 * 2 ^ 101 + p.dst % 512 * 2 ^ 92 + p.tag % 1024 * 2 ^ 82
    + p.addr / 64 % 2 ^ 42 * 2 ^ 40 + p.poison.toNat * 2 ^ 38 + b p.data * 2 ^ 37 + p.st.ctorIdx * 2 ^ 35
    + b p.fetch * 2 ^ 34 + p.resp.toNat * 2 ^ 32 + p.aux.toNat

/-- Bits 703:0 of a packet's flit: header, byte mask and payload (R267). -/
def flitOf (p : Packet) : Nat :=
  let m : BitVec 64 := match p.op with
    | .wrNC | .wrPart | .wrIO | .atmH => p.mask
    | _ => if p.data then BitVec.allOnes 64 else 0
  headerOf p + m.toNat * 2 ^ 128 + p.payload.toNat * 2 ^ 192

/-- Two packets of one source, destination, virtual channel, class and epoch (R271). -/
def samePath (p q : Packet) : Bool :=
  p.src == q.src && p.dst == q.dst && chanOf p == chanOf q && p.cls == q.cls && p.epoch == q.epoch

/-- A packet in flight has an earlier one of its path before it, which arrives first (R273). -/
def State.behind (s : State) (p : Packet) : Bool :=
  s.out.contains (.pkt p) && (s.out.takeWhile fun m => m != .pkt p).any fun m => match m with
    | .pkt q => samePath p q
    | _ => false

/-- An I/O request. -/
def opIo : Op → Bool
  | .rdIO | .wrIO => true
  | _ => false

/-- The epoch that is current at the routers of an agent: that of its die, which has not yet changed while the change waits
for its bridge (R284, R318). -/
def epochAt (a : Nat) (s : State) : Bool :=
  let lag : Bool := decide (a < 252) && s.epochLag.contains (if a < 240 then a / 20 else a - 240)
  s.b F.FAB_EPOCH_CUR 0 != lag

/-- The epoch with which a packet is stamped: the current one, or for an I/O request the old one while its initiator still
has an I/O request of that epoch in flight (R285). -/
def injectEpoch (p : Packet) (s : State) : Bool :=
  let e := epochAt p.src s
  if opIo p.op && s.out.any fun m => match m with
      | .pkt q => q.src == p.src && opIo q.op && q.epoch != e
      | _ => false
  then !e else e

/-- A packet injected, stamped with its epoch (R285). -/
def State.sendP (s : State) (p : Packet) : State :=
  let e := injectEpoch p s
  (s.satAdd (drainFld e) 0 1).send (.pkt { p with epoch := e })

/-- f applied for every number below n, from 0 up. -/
def iter (n : Nat) (f : Nat → State → State) (s : State) : State := (List.range n).foldl (fun t i => f i t) s

/-- The quotient of two integers, rounded down or, where the free bit is set and the division is not exact, up: the
spec states the quotient and no rounding. -/
def divFree (up : Bool) (a : Int) (b : Nat) : Int :=
  if a % (b : Int) = 0 then a / (b : Int) else if up then a / (b : Int) + 1 else a / (b : Int)

/-! ## Memory -/

/-- What a byte of DRAM that nothing has written reads as. -/
def memDefault (_ : Nat) : Byte := 0

/-- One byte of DRAM. -/
def State.byte (s : State) (a : Nat) : Byte := smapGet memDefault s.mem a

/-- One byte of DRAM written. -/
def State.setByte (s : State) (a : Nat) (v : Byte) : State := { s with mem := smapSet memDefault s.mem a v }

/-- n bytes from address a as a number, the byte at a lowest. -/
def State.bytes (s : State) : Nat → Nat → Nat
  | _, 0 => 0
  | a, n + 1 => (s.byte a).toNat + 256 * s.bytes (a + 1) n

/-- n bytes written from address a, the low byte of v first. -/
def State.setBytes (s : State) (a : Nat) : Nat → Nat → State
  | 0, _ => s
  | n + 1, v => (s.setByte a (BitVec.ofNat 8 v)).setBytes (a + 1) n (v / 256)

/-- The canonical form of memory. -/
def memWf (m : List Host.Cell) : Bool := smapWf memDefault 0 m

/-- The address of the line that holds a (R219). -/
def lineOf (a : Nat) : Nat := a / 64 * 64

/-- The bytes of a line merged under a byte mask. -/
def mergeLine (old new : Line) (mask : BitVec 64) : Line :=
  (List.range 64).foldl (fun (l : Line) i =>
    if mask.getLsbD i then
      (l &&& ~~~ ((0xFF#512) <<< (8 * i))) ||| (new &&& ((0xFF#512) <<< (8 * i)))
    else l) old

/-! ## Refusals -/

/-- Where a refusal was made, as WC_DENY_INFO.WHERE encodes it (R392). -/
inductive DenyWhere where
  | ha | cache | mmio | window | imsic
  deriving DecidableEq, Repr

/-- The kind of a refused access, as WC_DENY_INFO.KIND encodes it (R392). -/
inductive DenyKind where
  | read | write | fetch | walk | atomic
  deriving DecidableEq, Repr

/-- The layout of WC_DENY_INFO and PQ_DENY_INFO. -/
def denyInfo (w : DenyWhere) (k : DenyKind) (a : Access) : Word :=
  BitVec.ofNat 64 (w.ctorIdx * 2 ^ 28 + k.ctorIdx * 2 ^ 25 + (if a.world then 1 else 0) * 2 ^ 24
    + (a.part % 64) * 2 ^ 16 + a.src % 512)

/-- A refusal by the world check recorded (R377). -/
def denyWorld (w : DenyWhere) (k : DenyKind) (a : Access) (addr : Nat) (s : State) : State :=
  let s1 := s.satInc F.WC_STATUS_DENY_CNT 0
  if s.b F.WC_STATUS_DENY 0 then s1
  else ((s1.setF F.WC_DENY_ADDR_ADDR 0 addr).setR .WC_DENY_INFO 0 (denyInfo w k a)).setB F.WC_STATUS_DENY 0 true

/-- A refusal by the partition check recorded (R421). -/
def denyPart (w : DenyWhere) (k : DenyKind) (a : Access) (addr : Nat) (s : State) : State :=
  let s1 := s.satInc F.PQ_STATUS_DENY_CNT 0
  if s.b F.PQ_STATUS_DENY 0 then s1
  else ((s1.setF F.PQ_DENY_ADDR_ADDR 0 addr).setR .PQ_DENY_INFO 0 (denyInfo w k a)).setB F.PQ_STATUS_DENY 0 true

/-! ## Reservation windows -/

/-- A field of window w in the tables of the current epoch (R276, R283). -/
def winF (f : Fld) (w : Nat) (s : State) : Nat := fget f (smapGet (fun _ => 0) s.winCur w)

/-- Window w is defined in the current tables and open. -/
def winOpen (w : Nat) (s : State) : Bool := winF F.FAB_RSV_CFG_EN w s == 1 && s.b F.FAB_RSV_CFG_OPEN w

/-! ## Dies, harts and bridges -/

/-- CDn is ON: PWR_DIE(n).STATE = 0b10 (R527). -/
def dieOn (n : Nat) (s : State) : Bool := s.f F.PWR_DIE_STATE n == 2

/-- A unit's clock is stopped (R524), or the unit is held in reset in Chimney mode (R549). -/
def unitOff (u : Nat) (s : State) : Bool :=
  s.clkOff.contains u || (s.f F.ST_STATUS_PHASE 0 == 8 && decide (268 ≤ u))

/-- The bridge of CDn is ACTIVE (R316, R323). -/
def bridgeActive (n : Nat) (s : State) : Bool := s.f F.BR_STATUS_STATE n == 6

/-- Bridge n runs at half width (R281, R316). -/
def halfWidth (n : Nat) (s : State) : Bool := s.f F.BR_STATUS_WIDTH n == 1

/-- In the current tables a slot of window w comes just after one of another window of the same source n (R281). -/
def winLater (w n : Nat) (s : State) : Bool :=
  (List.range 64).any fun j =>
    let stride (x : Nat) : Nat := 64 / 2 ^ winF F.FAB_RSV_CFG_STRIDE x s
    let m := min (stride w) (stride j)
    j != w && winF F.FAB_RSV_CFG_EN w s == 1 && winF F.FAB_RSV_CFG_EN j s == 1 &&
      winF F.FAB_RSV_CFG_SRC w s == n && winF F.FAB_RSV_CFG_SRC j s == n &&
      winF F.FAB_RSV_CFG_BASE w s % m == (winF F.FAB_RSV_CFG_BASE j s + 1) % m

/-- HALF_CONFLICT follows the width and the current tables (R320). -/
def halfConflict (n : Nat) (s : State) : State :=
  s.setB F.BR_STATUS_HALF_CONFLICT n (halfWidth n s && (List.range 64).any fun w => winLater w n s)

/-- The partition to which hart h is assigned (R417). -/
def hartPart (h : Nat) (s : State) : Nat := s.f F.PQ_HART_PART h

/-- The die of hart h (R30). -/
def hartDie (h : Nat) (s : State) : Nat := s.f F.FAB_HART_POS_DIE h

/-- The position of hart h on its die (R30). -/
def hartPos (h : Nat) (s : State) : Nat := s.f F.FAB_HART_POS_POS h

/-- Hart h exists on this part (R30). -/
def hartExists (h : Nat) (s : State) : Bool := s.b F.FAB_HART_POS_VALID h

/-- The effective Secure non-invasive enable (R390). -/
def effSNI (s : State) : Bool := s.b F.WC_DBG_SNI 0 || s.b F.WC_DBG_SI 0

/-- The effective Open non-invasive enable (R390). -/
def effONI (s : State) : Bool := s.b F.WC_DBG_ONI 0 || s.b F.WC_DBG_OI 0

/-- The enable that governs observing a world w (R391). -/
def effNI (w : Bool) (s : State) : Bool := if w then effSNI s else effONI s

/-- The invasive enable of a world (R390). -/
def effI (w : Bool) (s : State) : Bool := if w then s.b F.WC_DBG_SI 0 else s.b F.WC_DBG_OI 0

end Sys2Proof.Machine
end

