-- ==== Sys2Proof/Machine/Access.lean ====
section
/-! DEFINITION. Who may read and write each register: the world and partition rules of R35, R369 to R371, R421 and the
register section of each chapter, and the response to a refused access (R375, R377, R421). -/
namespace Sys2Proof.Machine

/-- What a block's check says of an access: accepted, refused by the world check or by the partition check, or answered
with a target error. The world is checked first (R421). -/
inductive Verdict where
  | ok | world | part | err
  deriving DecidableEq, Repr

/-- Secure world accesses of P0 only. -/
def secP0 (a : Access) : Verdict := if !a.world then .world else if a.part ≠ 0 then .part else .ok

/-- Accesses of P0, in either world. -/
def onlyP0 (a : Access) : Verdict := if a.part ≠ 0 then .part else .ok

/-- Secure world accesses of any partition. -/
def onlySec (a : Access) : Verdict := if !a.world then .world else .ok

/-- P0 and partition q. -/
def p0Or (q : Nat) (a : Access) : Verdict := if a.part = 0 ∨ a.part = q then .ok else .part

/-- Accesses of world w only, from P0 and partition q. -/
def inWorld (w : Bool) (q : Nat) (a : Access) : Verdict := if a.world ≠ w then .world else p0Or q a

/-- The world check of R369, then P0 and partition q. -/
def underWorld (w : Bool) (q : Nat) (a : Access) : Verdict := if !a.world && w then .world else p0Or q a

/-- A resource register of world w: Secure accesses read it whatever its world, and a write needs the resource's own
world, but for the register that holds WORLD (R369). -/
def resource (a : Access) (write : Bool) (w : Bool) (q : Nat) (holdsWorld : Bool) : Verdict :=
  if write then (if a.world && !w && holdsWorld then p0Or q a else inWorld w q a)
  else if a.world then .ok else if w then .world else p0Or q a

/-- The partition that owns function f of port n, and its world (R436, R476). -/
def fnOwner (n f : Nat) (s : State) : Option (Nat × Bool) :=
  if f = 0 then some (0, s.b F.PE_EP_CFG_PF_WORLD n)
  else ((List.range 64).find? fun p =>
      s.b F.PQ_VF_EN p && s.f F.PQ_VF_PORT p == n && s.f F.PQ_VF_VF p == f).map
    fun p => (p, s.b F.PQ_VF_WORLD p)

/-- The register of a PCIe function: P0 and the owning partition, in the function's world (R476). -/
def fnVerdict (a : Access) (n f : Nat) (s : State) : Verdict :=
  match fnOwner n f s with
  | some (p, w) => inWorld w p a
  | none => onlyP0 a

/-- The hart at position p of CDn, if an active core stands there (R30). -/
def hartAt (n p : Nat) (s : State) : Option Nat :=
  if s.f F.FAB_POS_MAP_STATE (20 * n + p) = 0 then some (s.f F.FAB_POS_MAP_HART_ID (20 * n + p)) else none

/-- The core registers of the CDn space: any partition reads; P0 and the owner of the hart write (R170, R217). -/
def coreVerdict (a : Access) (write : Bool) (np : Nat) (s : State) : Verdict :=
  if !write then .ok
  else match hartAt (np / 20) (np % 20) s with
    | some h => p0Or (hartPart h s) a
    | none => onlyP0 a

/-- A window or map register whose world is w: P0 writes, and only Secure accesses write a Secure one (R476, R505). -/
def winVerdict (a : Access) (write w : Bool) : Verdict :=
  if !write then .ok else if w && !a.world then .world else onlyP0 a

/-- The rule of each register for a read or a write of instance i. -/
def regVerdict (a : Access) (write : Bool) (g : Reg) (i : Nat) (s : State) : Verdict :=
  match g with
  | .FAB_PKG_ID | .FAB_POS_MAP | .FAB_HART_POS | .PHE_TB => .ok
  | .PHE_REF_CTRL | .PHE_REPLICA_STATUS | .PHE_CAL_CTRL | .PHE_CAL_STATUS | .PHE_CAL_ERR | .PHE_CAL_ERR_TB =>
    if write then secP0 a else .ok
  | .PHE_PORT_CFG => if write then resource a true (s.b F.PHE_PORT_CFG_WORLD i) 0 true
    else if !a.world && s.b F.PHE_PORT_CFG_WORLD i then .world else .ok
  | .PHE_PORT_AUX | .PHE_PORT_INIT | .PHE_PORT_PHASE | .PHE_PORT_INC | .PHE_PORT_NOMINAL | .PHE_PORT_EDGE_TB
  | .PHE_PORT_PERIOD | .PHE_PORT_STATUS | .PHE_PORT_TOD | .PHE_PORT_TOD_BASE | .PHE_PORT_CMD =>
    if write then resource a true (s.b F.PHE_PORT_CFG_WORLD i) 0 false
    else if !a.world && s.b F.PHE_PORT_CFG_WORLD i then .world else .ok
  | .PHE_CAL_BLOCK =>
    if !write then .ok
    else if a.world && !s.b F.PHE_CAL_BLOCK_WORLD i then onlyP0 a
    else inWorld (s.b F.PHE_CAL_BLOCK_WORLD i) (s.f F.PHE_CAL_BLOCK_PART i) a
  | .PHE_CAL_IDX | .PHE_CAL_W0 | .PHE_CAL_W1 | .PHE_CAL_W2 | .PHE_CAL_W3 | .PHE_CAL_CMD | .PHE_CAL_EDIT_STATUS =>
    if a.world ≠ (i % 2 == 1) then .world else if a.part ≠ i / 2 then .part else .ok
  | .TIO_PIN_CFG => resource a write (s.b F.TIO_PIN_CFG_WORLD i) (s.f F.TIO_PIN_CFG_PART i) true
  | .TIO_CAP_TB | .TIO_CAP_PHASE => inWorld (s.b F.TIO_PIN_CFG_WORLD i) (s.f F.TIO_PIN_CFG_PART i) a
  | .TIO_PIN_STATUS | .TIO_PIN_FORCE =>
    resource a write (s.b F.TIO_PIN_CFG_WORLD i) (s.f F.TIO_PIN_CFG_PART i) false
  | .PHE_TSQ_STATUS | .PHE_TSQ_ERRADDR => inWorld (i % 2 == 1) (hartPart (i / 2) s) a
  | .CD_CORE_CACHE_CTRL | .CD_CORE_RANGE_BASE | .CD_CORE_RANGE_LIMIT | .CD_CORE_RANGE_CMD | .CD_CORE_RANGE_STATUS
  | .CD_CORE_ORD_STATUS | .CD_CORE_ORD_ERRADDR => coreVerdict a write i s
  | .CD_CORE_L2_LOCK => coreVerdict a write (i / 2) s
  | .CD_L3_LOCK | .CD_L3_RANGE_BASE | .CD_L3_RANGE_LIMIT | .CD_L3_RANGE_CMD | .CD_L3_RANGE_STATUS | .CD_L3_WAYDIS
  | .CD_CACHE_ERRCNT | .CD_COH_CTRL | .CD_COH_STATUS => if write then onlyP0 a else .ok
  | .HA_CTRL | .HA_STATUS | .HA_DIR_OCC | .HA_DIE_STATE | .HA_ERR | .HA_ERR_ADDR | .MC_CTRL | .MC_STATUS | .MC_TRAIN
  | .MC_REGION_BASE | .MC_REGION_CODE | .MC_ECC_CTRL | .MC_ECC_STATUS | .MC_CE_CNT | .MC_LOG_ADDR | .MC_LOG_INFO
  | .MC_SCRUB_CTRL | .MC_SCRUB_STATUS | .MC_INIT | .MC_RETIRE | .MC_ECC_TEST_CTRL | .MC_ECC_TEST_ADDR
  | .MC_ECC_TEST_DATA | .MC_ECC_TEST_CHECK | .MC_ECC_TEST_CMD | .MC_ECC_TEST_STATUS
  | .BR_CTRL | .BR_STATUS | .BR_CAP | .BR_LAT | .BR_ERRCNT | .BR_LMAP | .BR_LFUSE => secP0 a
  | .MC_CREDIT | .MC_CREDIT_STATUS => onlyP0 a
  | .FAB_CTRL | .FAB_EPOCH | .FAB_TIMEOUT | .FAB_STATUS | .FAB_TO_ADDR | .FAB_CHECK_INFO | .FAB_SLOT | .FAB_RSV_CFG
  | .FAB_RSV_STATUS | .FAB_RT_SEL | .FAB_RT_DATA | .FAB_RT_CMD | .FAB_RT_STATUS => if write then onlyP0 a else .ok
  | .BAT_CTRL | .BAT_ADDR_VAL | .BAT_ADDR_MASK | .BAT_ID_FILTER | .BAT_OPC_MASK | .BAT_TRIG | .BAT_CNT_SEL
  | .BAT_STATUS | .BAT_CNT | .BAT_TRACE_CTRL | .BAT_TRACE_BASE | .BAT_TRACE_LIMIT | .BAT_TRACE_PTR | .BAT_BUF_DATA
  | .BAT_SECDROP => onlyP0 a
  | .DE_CH_WIN =>
    if write then (if a.part ≠ 0 then .part else resource a true (s.b F.DE_CH_CFG_WORLD i) 0 false)
    else resource a false (s.b F.DE_CH_CFG_WORLD i) (s.f F.DE_CH_CFG_PART i) false
  | .DE_CH_CFG =>
    if write then resource a true (s.b F.DE_CH_CFG_WORLD i) 0 true
    else resource a false (s.b F.DE_CH_CFG_WORLD i) (s.f F.DE_CH_CFG_PART i) true
  | .DE_CH_PC | .DE_CH_ENTRY | .DE_CH_EVT | .DE_CH_MOVED | .DE_CH_FAULT | .DE_CH_FADDR | .DE_CH_CMD | .DE_CH_STATUS
  | .DE_CH_DESC => resource a write (s.b F.DE_CH_CFG_WORLD i) (s.f F.DE_CH_CFG_PART i) false
  | .DE_CH_LOOP => resource a write (s.b F.DE_CH_CFG_WORLD (i / 4)) (s.f F.DE_CH_CFG_PART (i / 4)) false
  | .DE_CH_G => resource a write (s.b F.DE_CH_CFG_WORLD (i / 8)) (s.f F.DE_CH_CFG_PART (i / 8)) false
  | .DE_SEM => underWorld (s.b F.DE_SEM_WORLD i) (s.f F.DE_SEM_PART i) a
  | .DE_PROG =>
    let j := i / 8192
    let w := i % 8192
    let inWin (c : Nat) : Bool :=
      decide (s.f F.DE_CH_WIN_BASE c ≤ w) && decide (w ≤ s.f F.DE_CH_WIN_LIMIT c)
    let chans := (List.range 64).map (64 * j + ·)
    if a.part = 0 ∨ chans.any fun c => inWin c && s.f F.DE_CH_CFG_PART c == a.part && s.b F.DE_CH_CFG_WORLD c == a.world
    then
      if write && chans.any fun c => inWin c &&
          !(s.f F.DE_CH_STATUS_STATE c == 0 || s.f F.DE_CH_STATUS_STATE c == 4 || s.f F.DE_CH_STATUS_STATE c == 7)
      then .err else .ok
    else if chans.any fun c => inWin c && s.f F.DE_CH_CFG_PART c == a.part then .world else .part
  | .DE_ENG_CTRL | .DE_ENG_STATUS => if write then onlyP0 a else .ok
  | .WC_MITTEN | .WC_MITTEN_EFF | .WC_MITTEN_STATUS => if write then onlySec a else .ok
  | .WC_DBG => .ok
  | .WC_CALL => if a.world then .ok else p0Or (hartPart i s) a
  | .WC_CTRL | .WC_STATUS | .WC_DENY_ADDR | .WC_DENY_INFO | .WC_SENTRY | .WC_SAVE_PC | .WC_SAVE_STATUS
  | .WC_SAVE_MODE => onlySec a
  | .HELM_STATUS | .HELM_COUNTER | .HELM_DEVICE_ID => .ok
  | .HELM_MB_CTRL | .HELM_MB_STATUS =>
    if i = 0 then onlySec a else if i = 1 then onlyP0 a else if write then .world else secP0 a
  | .HELM_MB_REQ | .HELM_MB_RSP =>
    if i / 134 = 0 then onlySec a else if i / 134 = 1 then onlyP0 a else if write then .world else secP0 a
  | .PQ_CTRL | .PQ_VF => if write then onlyP0 a else p0Or i a
  | .PQ_RESET => .ok
  | .PQ_RESET_STATUS => p0Or i a
  | .PQ_L3MASK => if write then onlyP0 a else p0Or (i / 12) a
  | .PQ_VF_CH => if write then onlyP0 a else p0Or (i / 4) a
  | .PQ_HART => .ok
  | .PQ_REGION_SHARE | .PQ_L3_SHARED | .PQ_STATUS | .PQ_DENY_ADDR | .PQ_DENY_INFO => if write then onlyP0 a else .ok
  | .PQ_DEVPART | .PQ_DEVPART_MASK => winVerdict a write (s.b F.PQ_DEVPART_WORLD i)
  | .INT_STATUS => onlyP0 a
  | .PE_PORT_CFG | .PE_PORT_STATUS | .PE_EP_CFG | .PE_EP_CFG_PF_CH | .PE_LINK_CTRL => if write then onlyP0 a else .ok
  | .PE_OWIN_CFG | .PE_OWIN_BASE | .PE_OWIN_BUS => winVerdict a write (s.b F.PE_OWIN_CFG_WORLD i)
  | .PE_FN_STATUS | .PE_FN_NOTIFY | .PE_FN_DOORBELL | .PE_FN_MSIX | .PE_IWIN_COMMIT => fnVerdict a (i / 33) (i % 33) s
  | .PE_IWIN_CTRL | .PE_IWIN_OFFSET | .PE_IWIN_TARGET => fnVerdict a (i / 8 / 33) (i / 8 % 33) s
  | .PE_MBX_CTRL => fnVerdict a (i / 16 / 33) (i / 16 % 33) s
  | .PE_MBX_DATA => fnVerdict a (i / 112 / 33) (i / 112 % 33) s
  | .PL_PORT_CFG | .PL_PORT_STATUS | .PL_PORT_DELAY | .PL_PORT_ERRCNT | .PL_PORT_CMD | .PL_NODE | .PL_CTRL
  | .PL_GSTATUS | .PL_MSG_TX | .PL_IWIN_COMMIT | .PL_RT => if write then onlyP0 a else .ok
  | .PL_MSG_RX | .PL_MSG_RX_TB => if a.world ≠ (i == 1) then .world else onlyP0 a
  | .PL_MSG_MAP => winVerdict a write (s.b F.PL_MSG_MAP_WORLD i)
  | .PL_OWIN_CFG | .PL_OWIN_BASE | .PL_OWIN_REMOTE => winVerdict a write (s.b F.PL_OWIN_CFG_WORLD i)
  | .PL_IWIN_CTRL | .PL_IWIN_OFFSET | .PL_IWIN_TARGET | .PL_IWIN_SRC => winVerdict a write (s.b F.PL_IWIN_CTRL_WORLD i)
  | .PWR_CTRL | .PWR_PF_CFG => if write then secP0 a else .ok
  | .PWR_STATUS | .PWR_INPUT | .PWR_MITTEN_W | .PWR_DIE => if write then onlyP0 a else .ok
  | .PWR_REQ | .PWR_REQ_STATUS =>
    if !write && a.part = 0 then .ok
    else if a.world ≠ (i % 2 == 1) then .world else if a.part ≠ i / 2 then .part else .ok
  | .ST_STATUS => if write then secP0 a else .ok
  | .ST_CTRL | .ST_REASON | .ST_VECTOR | .ST_DIE | .ST_EVLOG_HEAD | .ST_EVLOG | .LAN_STATUS | .LAN_CFG | .LMB_CTRL
  | .LMB_STATUS | .LMB_BUF => secP0 a
  | .RAS_CTRL | .RAS_STATUS | .RAS_LOG_PTR | .RAS_THRESH | .RAS_REPAIR | .RAS_LOG | .RAS_AON_LOG | .RAS_AON_HEAD
  | .RAS_PROP | .RAS_PROP_TARGET => onlyP0 a
  | .RAS_PAGE_HIST => if write then secP0 a else onlyP0 a
  | .DBG_STATUS | .DBG_TEST_HOLD | .CTR_CTRL | .CTR_BASE | .CTR_LIMIT | .CTR_PTR | .CTR_BUF_DATA =>
    if write then secP0 a else onlyP0 a

/-- The address of instance i of a register: the instance index is taken apart over the register's dimensions,
innermost last (R18). -/
def locAddr : Nat → List (Nat × Nat) → Nat → Nat
  | base, [], _ => base
  | base, (st, _) :: r, i =>
    let inner := r.foldl (fun p d => p * d.2) 1
    locAddr (base + i / inner * st) r (i % inner)

/-- The address of a register. -/
def Reg.addr (g : Reg) (i : Nat) : Nat := locAddr g.loc.base g.loc.dims i

/-- A reset of partition p is in progress. -/
def partBusy (p : Nat) (s : State) : Bool := s.b F.PQ_RESET_STATUS_BUSY p

/-- An assignment or binding write ignored (R437). -/
def pqErr (s : State) : State := s.setB F.PQ_STATUS_CFGERR 0 true

/-- A write of v would assign a resource, by its owner field, to a partition in reset (R432). -/
def assigns (f : Fld) (i : Nat) (v : Word) (s : State) : Bool := fget f v != s.f f i && partBusy (fget f v) s

/-- The unit whose clock a register needs (R385, R524). -/
def regUnit (g : Reg) (i : Nat) : Option Nat :=
  match g with
  | .PHE_REF_CTRL | .PHE_TB | .PHE_REPLICA_STATUS | .PHE_PORT_CFG | .PHE_PORT_AUX | .PHE_PORT_INIT | .PHE_PORT_PHASE
  | .PHE_PORT_INC | .PHE_PORT_NOMINAL | .PHE_PORT_EDGE_TB | .PHE_PORT_PERIOD | .PHE_PORT_STATUS | .PHE_PORT_TOD
  | .PHE_PORT_TOD_BASE | .PHE_PORT_CMD | .PHE_CAL_CTRL | .PHE_CAL_STATUS | .PHE_CAL_ERR | .PHE_CAL_ERR_TB | .PHE_CAL_BLOCK
  | .PHE_CAL_IDX | .PHE_CAL_W0 | .PHE_CAL_W1 | .PHE_CAL_W2 | .PHE_CAL_W3 | .PHE_CAL_CMD | .PHE_CAL_EDIT_STATUS
  | .TIO_PIN_CFG | .TIO_PIN_STATUS | .TIO_PIN_FORCE | .TIO_CAP_TB | .TIO_CAP_PHASE | .PHE_TSQ_STATUS | .PHE_TSQ_ERRADDR =>
    some 288
  | .MC_CTRL | .MC_STATUS => some (289 + i)
  | .MC_TRAIN => some (289 + i / 4)
  | .MC_CREDIT | .MC_CREDIT_STATUS => some (289 + i / 64)
  | .DE_CH_PC | .DE_CH_ENTRY | .DE_CH_WIN | .DE_CH_EVT | .DE_CH_MOVED | .DE_CH_FAULT | .DE_CH_FADDR | .DE_CH_CFG
  | .DE_CH_CMD | .DE_CH_STATUS | .DE_CH_DESC | .DE_SEM => some (268 + i / 64)
  | .DE_CH_LOOP => some (268 + i / 256)
  | .DE_CH_G => some (268 + i / 512)
  | .DE_PROG => some (268 + i / 8192)
  | .DE_ENG_CTRL | .DE_ENG_STATUS => some (268 + i)
  | .PE_PORT_CFG | .PE_PORT_STATUS | .PE_EP_CFG => some (272 + i)
  | .PE_EP_CFG_PF_CH | .PE_LINK_CTRL => some (272 + i / 4)
  | .PE_OWIN_CFG | .PE_OWIN_BASE | .PE_OWIN_BUS => some (272 + i / 16)
  | .PE_FN_STATUS | .PE_FN_NOTIFY | .PE_FN_DOORBELL | .PE_FN_MSIX | .PE_IWIN_COMMIT => some (272 + i / 33)
  | .PE_IWIN_CTRL | .PE_IWIN_OFFSET | .PE_IWIN_TARGET => some (272 + i / 264)
  | .PE_MBX_CTRL => some (272 + i / 528)
  | .PE_MBX_DATA => some (272 + i / 3696)
  | .PL_PORT_CFG | .PL_PORT_STATUS | .PL_PORT_DELAY | .PL_PORT_ERRCNT | .PL_PORT_CMD => some (280 + i)
  | _ => none

/-- The clock that a register needs is stopped. -/
def regStopped (g : Reg) (i : Nat) (s : State) : Bool := (regUnit g i).any fun u => unitOff u s

/-- An access to instance i of a register: performed by act when the checks pass, and otherwise answered and recorded
as refused, with nothing changed (R35, R375, R377, R421). A unit whose clock is stopped answers with an error (R524). -/
def guarded (a : Access) (write : Bool) (g : Reg) (i : Nat) (act : State → State) (s : State) : State :=
  let k := if write then DenyKind.write else DenyKind.read
  if regStopped g i s then s.answerErr 0b10#2
  else match regVerdict a write g i s with
  | .ok => act (s.answer 0)
  | .world => (denyWorld .mmio k a (g.addr i) s).answerErr 0b01#2
  | .part => (denyPart .mmio k a (g.addr i) s).answerErr 0b01#2
  | .err => s.answerErr 0b10#2

end Sys2Proof.Machine
end

