-- ==== Sys2Proof/Machine/Flags.lean ====
section
/-! DEFINITION. What a write does to the fields of a register by their access codes (R11, R12, R15): plain, read-only,
write-only, write-1-to-clear, write-1-to-set and lockable fields. -/
namespace Sys2Proof.Machine

/-- The bits of a row, in place. -/
def Row.mask (r : Row) : Word := BitVec.ofNat 64 ((2 ^ (r.hi + 1 - r.lo) - 1) * 2 ^ r.lo)

/-- A row after a write of v over old. -/
def Row.write (locked : Bool) (r : Row) (old v : Word) : Word :=
  match r.acc with
  | .rw | .rwh => (old &&& ~~~ r.mask) ||| (v &&& r.mask)
  | .ro | .wo => old
  | .w1c => old &&& ~~~ (v &&& r.mask)
  | .w1s => old ||| (v &&& r.mask)
  | .rwl => if locked then old else (old &&& ~~~ r.mask) ||| (v &&& r.mask)

/-- A register after a write of v over old. -/
def Reg.write (g : Reg) (locked : Bool) (old v : Word) : Word := g.rows.foldl (fun w r => r.write locked w v) old

/-- The lock bit of the block of a register (R12). -/
def lockedReg (g : Reg) (i : Nat) (s : State) : Bool :=
  match g with
  | .PHE_REF_CTRL | .PHE_PORT_CFG => s.b F.PHE_REF_CTRL_LOCK 0
  | .HA_CTRL => s.b F.HA_CTRL_LOCK i
  | .MC_CTRL => s.b F.MC_CTRL_LOCK i
  | .FAB_CTRL => s.b F.FAB_CTRL_LOCK 0
  | .WC_CTRL => s.b F.WC_CTRL_LOCK 0
  | .PE_PORT_CFG | .PE_EP_CFG => s.b F.PE_PORT_CFG_LOCK i
  | .PL_NODE => s.b F.PL_NODE_LOCK 0
  | .PWR_CTRL => s.b F.PWR_CTRL_LOCK 0
  | _ => false

/-- A register written by the access codes of its fields alone. -/
def State.wr (s : State) (g : Reg) (i : Nat) (v : Word) : State :=
  s.setR g i (g.write (lockedReg g i s) (s.r g i) v)

/-- A field of a written value is 1. -/
def vset (f : Fld) (v : Word) : Bool := fget f v != 0

end Sys2Proof.Machine
end

