-- ==== Sys2Proof/Machine/Operands.lean ====
section
/-! DEFINITION. The operand forms that several families share: loaded values and their extension, byte lanes of a line,
and the operations of an atomic in the order of R232. -/
namespace Sys2Proof

/-! ## The fields of an Xzdtime instruction (R116, R117) -/

/-- n bits of an instruction's encoding from bit o. -/
def Issue.field (i : Issue) (o n : Nat) : Nat := i.enc.toNat / 2 ^ o % 2 ^ n

/-- rd, bits 11:7. -/
def Issue.rd (i : Issue) : Nat := i.field 7 5
/-- funct3, bits 14:12. -/
def Issue.funct3 (i : Issue) : Nat := i.field 12 3
/-- rs1, bits 19:15. -/
def Issue.rs1 (i : Issue) : Nat := i.field 15 5
/-- rs2, bits 24:20. -/
def Issue.rs2 (i : Issue) : Nat := i.field 20 5
/-- SRC of the instructions of custom-0: imm[3:0]. -/
def Issue.src (i : Issue) : Nat := i.field 20 4
/-- MON: imm[5:4]. -/
def Issue.mon (i : Issue) : Nat := i.field 24 2
/-- SEL: imm[1:0]. -/
def Issue.sel (i : Issue) : Nat := i.field 20 2
/-- The bytes of a TS.STORE, from SIZE in bits 26:25. -/
def Issue.tsSize (i : Issue) : Nat := 2 ^ i.field 25 2
/-- LD of a TS.STORE, bit 10. -/
def Issue.tsLd (i : Issue) : Bool := i.field 10 1 == 1
/-- SRC of a TS.STORE, bits 9:7. -/
def Issue.tsSrc (i : Issue) : Nat := i.field 7 3
/-- A signed 12-bit offset. -/
def offset12 (v : Nat) : Word := if v < 2048 then BitVec.ofNat 64 v else BitVec.ofNat 64 (2 ^ 64 - 4096 + v)
/-- The offset of an I-type instruction, bits 31:20. -/
def Issue.immI (i : Issue) : Word := offset12 (i.field 20 12)
/-- The offset of an S-type instruction, bits 31:25 and 11:7. -/
def Issue.immS (i : Issue) : Word := offset12 (i.field 25 7 * 32 + i.field 7 5)

end Sys2Proof

namespace Sys2Proof.Machine

/-- The byte of a line at offset i. -/
def lineByte (l : Line) (i : Nat) : Nat := (l >>> (8 * i)).toNat % 256

/-- n bytes of a line from offset o, the lowest first. -/
def lineBytes (l : Line) (o n : Nat) : Nat := (l >>> (8 * o)).toNat % 2 ^ (8 * n)

/-- The bytes o to o + n - 1 of a line replaced by the low n bytes of v. -/
def linePut (l : Line) (o n v : Nat) : Line :=
  let m : Line := BitVec.ofNat 512 ((2 ^ (8 * n) - 1) * 2 ^ (8 * o))
  (l &&& ~~~ m) ||| (BitVec.ofNat 512 (v % 2 ^ (8 * n) * 2 ^ (8 * o)))

/-- The byte mask of n bytes from offset o. -/
def byteMask (o n : Nat) : BitVec 64 := BitVec.ofNat 64 ((2 ^ n - 1) * 2 ^ o)

/-- A 32-byte half of a line as a number. -/
def lineHalf (l : Line) (h : Nat) : Nat := lineBytes l (32 * h) 32

/-- A line made of two halves. -/
def lineOfHalves (h0 h1 : Nat) : Line := BitVec.ofNat 512 (h0 % 2 ^ 256 + h1 % 2 ^ 256 * 2 ^ 256)

/-- A value of n bytes extended to 64 bits. -/
def extend (signed : Bool) (n v : Nat) : Word :=
  let m := v % 2 ^ (8 * n)
  if signed ∧ m.testBit (8 * n - 1) then BitVec.ofNat 64 (m + 2 ^ 64 - 2 ^ (8 * n)) else BitVec.ofNat 64 m

/-- A value of n bytes as a signed integer. -/
def signedOf (n v : Nat) : Int :=
  let m := v % 2 ^ (8 * n)
  if m.testBit (8 * n - 1) then (m : Int) - 2 ^ (8 * n) else m

/-- The new value of an atomic: op in the order of R232, n bytes wide. A code that R232 does not list stores the old
value back. -/
def amoResult (op n old v : Nat) : Nat :=
  let o := old % 2 ^ (8 * n)
  let x := v % 2 ^ (8 * n)
  match op with
  | 0 => x
  | 1 => (o + x) % 2 ^ (8 * n)
  | 2 => o &&& x
  | 3 => o ||| x
  | 4 => o ^^^ x
  | 5 => if signedOf n x < signedOf n o then x else o
  | 6 => if signedOf n o < signedOf n x then x else o
  | 7 => min o x
  | 8 => max o x
  | _ => o

/-- A half of a line that the bytes of a mask touch. -/
def maskTouches (m : BitVec 64) (h : Nat) : Bool := bits m (32 * h + 31) (32 * h) != 0

/-- A half of a line that the bytes of a mask cover whole. -/
def maskCovers (m : BitVec 64) (h : Nat) : Bool := bits m (32 * h + 31) (32 * h) == 0xFFFFFFFF

/-- The poison of one half after a write (R195): a write that covers the half gives it its own poison; a narrower one
leaves the old poison and adds its own. -/
def poisonHalf (old new : BitVec 2) (m : BitVec 64) (h : Nat) : Bool :=
  if maskCovers m h then new.getLsbD h
  else old.getLsbD h || (maskTouches m h && new.getLsbD h)

/-- The poison of a line after a write (R195). -/
def poisonMerge (old new : BitVec 2) (m : BitVec 64) : BitVec 2 :=
  BitVec.ofNat 2 ((if poisonHalf old new m 0 then 1 else 0) + (if poisonHalf old new m 1 then 2 else 0))

/-- Some poisoned half among the bytes o to o + n - 1. -/
def poisonIn (p : BitVec 2) (o n : Nat) : Bool :=
  (p.getLsbD 0 && decide (o < 32 ∧ 0 < n)) || (p.getLsbD 1 && decide (32 < o + n))

end Sys2Proof.Machine
end

