-- ==== Sys2Proof/Machine/Ecc.lean ====
section
/-! DEFINITION. The memory codes STRONG and LIGHT: check fields, poison patterns and decoding (R242 to R247). -/
namespace Sys2Proof.Machine

/-! ## STRONG: Reed-Solomon over GF(2^8) (R245) -/

/-- Multiplication by α, modulo x^8 + x^4 + x^3 + x^2 + 1. -/
def gfTimesA (a : Nat) : Nat := if a < 128 then 2 * a else (2 * a) ^^^ 0x11D

/-- The product in GF(2^8), by the bits of b from the lowest of n on. -/
def gfMulN : Nat → Nat → Nat → Nat
  | 0, _, _ => 0
  | n + 1, a, b => (if b % 2 = 1 then a else 0) ^^^ gfMulN n (gfTimesA a) (b / 2)

/-- The product in GF(2^8). -/
def gfMul (a b : Nat) : Nat := gfMulN 8 a b

/-- α to the power n. -/
def gfPow : Nat → Nat
  | 0 => 1
  | n + 1 => gfTimesA (gfPow n)

/-- g(x) = (x + α^0)(x + α^1)(x + α^2)(x + α^3) without its leading x^4: coefficients of x^3, x^2, x, 1. -/
def rsGen : Nat × Nat × Nat × Nat :=
  let mulRoot (p : List Nat) (r : Nat) : List Nat :=
    List.zipWith (· ^^^ ·) (p ++ [0]) (0 :: p.map (gfMul r))
  match (List.range 4).foldl (fun p i => mulRoot p (gfPow i)) [1] with
  | [_, a, b, c, d] => (a, b, c, d)
  | _ => (0, 0, 0, 0)

/-- One data symbol into the division by g(x): r0 is the coefficient of x^3. -/
def rsStep (r : Nat × Nat × Nat × Nat) (x : Nat) : Nat × Nat × Nat × Nat :=
  let fb := x ^^^ r.1
  (r.2.1 ^^^ gfMul fb rsGen.1, r.2.2.1 ^^^ gfMul fb rsGen.2.1, r.2.2.2 ^^^ gfMul fb rsGen.2.2.1,
    gfMul fb rsGen.2.2.2)

/-- The check field of 32 data bytes: check byte k in bits 8k + 7 to 8k. -/
def rsCheck (d : Nat) : Nat :=
  let r := (List.range 32).foldl (fun r j => rsStep r (d / 2 ^ (8 * j) % 256)) (0, 0, 0, 0)
  r.1 + 256 * r.2.1 + 65536 * r.2.2.1 + 16777216 * r.2.2.2

/-- The syndrome S_i of a check difference: the value at α^i of the polynomial whose coefficients are its bytes. -/
def rsSyn (diff i : Nat) : Nat :=
  (List.range 4).foldl (fun a k => a ^^^ gfMul (diff / 2 ^ (8 * k) % 256) (gfPow (i * (3 - k)))) 0

/-- The symbol in error, 0 to 35, when the syndrome is that of one symbol, and its error value. -/
def rsLocate (diff : Nat) : Option (Nat × Nat) :=
  let s0 := rsSyn diff 0
  if s0 = 0 then none
  else
    ((List.range 36).find? fun j =>
      (List.range 3).all fun i => rsSyn diff (i + 1) == gfMul s0 (gfPow ((i + 1) * (35 - j)))).map
    fun j => (j, s0)

/-! ## LIGHT: odd-weight-column SEC-DED (R246) -/

/-- The number of ones among the low 10 bits. -/
def weight10 (n : Nat) : Nat := (List.range 10).countP fun i => n.testBit i

/-- The columns of the 256 data bits: weight 3 ascending, then weight 5 ascending. -/
def lightCols : List Nat :=
  (((List.range 1024).filter fun n => weight10 n == 3) ++ (List.range 1024).filter fun n => weight10 n == 5).take 256

/-- The 10 check bits of a codeword's data, over the columns cs of its data bits from bit 0 on. -/
def lightSum : List Nat → Nat → Nat
  | [], _ => 0
  | c :: cs, d => (if d % 2 = 1 then c else 0) ^^^ lightSum cs (d / 2)

/-- The 10 check bits of 32 data bytes. -/
def lightCheck (d : Nat) : Nat := lightSum lightCols d

/-- The bit in error: data bit 0 to 255 or check bit 256 to 265. -/
def lightLocate (syn : Nat) : Option Nat :=
  match (List.range 10).find? fun m => syn == 2 ^ m with
  | some m => some (256 + m)
  | none => lightCols.idxOf? syn

/-- Two or three of the flag copies in bits 12:10 are 1. -/
def lightFlag (c : Nat) : Bool :=
  decide (2 ≤ (List.range 3).countP fun i => c.testBit (10 + i))

/-! ## Codewords -/

/-- The code in force: 0 none, 1 LIGHT, 2 STRONG; CODE 0b11 acts as STRONG. -/
def codeInForce (c : Nat) : Nat := if c = 3 then 2 else c

/-- The bytes of a check field (R242). -/
def checkLen (code : Nat) : Nat := if code = 2 then 4 else if code = 1 then 2 else 0

/-- The check field of a codeword, or its poison pattern (R245 to R247). -/
def encodeField (code d : Nat) (poison : Bool) : Nat :=
  if code = 2 then (if poison then rsCheck d ^^^ 0xFFFFFFFF else rsCheck d)
  else if code = 1 then lightCheck d + (if poison then 0x1C00 else 0)
  else 0

/-- What the decoder found in a codeword. -/
inductive Finding where
  | good | poisoned | ce (pos : Nat) | ue
  deriving DecidableEq, Repr

/-- A decoded codeword: its data and the finding (R247). -/
def decodeHalf (code d c : Nat) : Nat × Finding :=
  if code = 2 then
    let diff := rsCheck d ^^^ (c % 2 ^ 32)
    if diff = 0xFFFFFFFF then (d, .poisoned)
    else if diff = 0 then (d, .good)
    else match rsLocate diff with
      | some (j, e) => (if j < 32 then d ^^^ (e * 2 ^ (8 * j)) else d, .ce j)
      | none => (d, .ue)
  else if code = 1 then
    let syn := lightCheck d ^^^ (c % 1024)
    let fixed : Nat × Finding :=
      if syn = 0 then (d, .good)
      else match lightLocate syn with
        | some b => (if b < 256 then d ^^^ 2 ^ b else d, .ce b)
        | none => (d, .ue)
    if lightFlag c then (fixed.1, .poisoned) else fixed
  else (d, .good)

/-- The half is handed on as poisoned. -/
def Finding.bad : Finding → Bool
  | .poisoned => true
  | .ue => true
  | _ => false

end Sys2Proof.Machine
end

