-- ==== Sys2Proof/Machine/Ras.lean ====
section
/-! DEFINITION. Error records, the RAS log, the AON copy and the repair proposals (R554 to R562). -/
namespace Sys2Proof.Machine

/-- A block hands an error record to the intake (R558). -/
def report (ty sev : Nat) (w : Bool) (addr : Option Nat) (part src detail : Nat) (s : State) : State :=
  { s with intake := s.intake ++
    [{ tb := s.tb, ty := ty, sev := sev, w := w, addr := addr, part := part, src := src, detail := detail }] }

/-- The IOMMU finds a translation fault of an access by device did (R424, R425). -/
def iommuFault (x : Xlate) (did iova : Nat) (write : Bool) (s : State) : State :=
  match x with
  | .fault cause _ => { s with iommuFlt := s.iommuFlt ++ [{ cause := cause, did := did, iova := iova, write := write }] }
  | .ok _ _ _ => s

/-- Word 1 of a record (R554). -/
def ErrRec.word1 (r : ErrRec) (count seq : Nat) : Word :=
  BitVec.ofNat 64 (r.ty % 256 * 2 ^ 56 + r.sev % 8 * 2 ^ 53 + (if r.w then 2 ^ 52 else 0)
    + (if r.addr.isSome then 2 ^ 51 else 0) + r.part % 64 * 2 ^ 45 + r.src % 512 * 2 ^ 36
    + count % 65536 * 2 ^ 16 + seq % 65536)

/-- Word 2 of a record (R554). -/
def ErrRec.word2 (r : ErrRec) : Word := BitVec.ofNat 64 (r.addr.getD 0 % 2 ^ 48)

/-- Word k of entry e of the RAS log. -/
def rasWord (e k : Nat) (s : State) : Word := s.r .RAS_LOG (e * 4 + k)

/-- A record written as entry e of the RAS log. -/
def rasPut (e : Nat) (r : ErrRec) (seq : Nat) (s : State) : State :=
  (((s.setR .RAS_LOG (e * 4) r.tb).setR .RAS_LOG (e * 4 + 1) (r.word1 0 seq)).setR .RAS_LOG (e * 4 + 2) r.word2).setR
    .RAS_LOG (e * 4 + 3) (BitVec.ofNat 64 r.detail)

/-- A record copied into the AON error log (R559). -/
def rasAon (r : ErrRec) (seq : Nat) (s : State) : State :=
  let h := s.f F.RAS_AON_HEAD_VAL 0
  let s := (s.setR .RAS_AON_LOG (h * 4) r.tb).setR .RAS_AON_LOG (h * 4 + 1) (r.word1 0 seq)
  let s := (s.setR .RAS_AON_LOG (h * 4 + 2) r.word2).setR .RAS_AON_LOG (h * 4 + 3) (BitVec.ofNat 64 r.detail)
  s.setF F.RAS_AON_HEAD_VAL 0 (h + 1)

/-- The lowest-numbered spare position of CDn (R562). -/
def lowSpare (n : Nat) (s : State) : Option Nat :=
  (List.range 20).find? fun p => s.f F.FAB_POS_MAP_STATE (20 * n + p) == 1

/-- A proposal of a repair (R562): 0 core, 1 lane, 2 row, 3 page. -/
def propose (kind target seq : Nat) (nospare : Bool) (s : State) : State :=
  let same := (List.range 32).find? fun i =>
    s.b F.RAS_PROP_VALID i && s.f F.RAS_PROP_KIND i == kind && s.f F.RAS_PROP_TARGET_VAL i == target
  match same with
  | some i => s.satInc F.RAS_PROP_HITS i
  | none =>
    match (List.range 32).find? fun i => !s.b F.RAS_PROP_VALID i with
    | none => s.setB F.RAS_STATUS_PROP_OVF 0 true
    | some i =>
      let s := s.setR .RAS_PROP i 0
      let s := ((s.setB F.RAS_PROP_VALID i true).setB F.RAS_PROP_NOSPARE i nospare).setF F.RAS_PROP_KIND i kind
      (s.setF F.RAS_PROP_SEQ i seq).setF F.RAS_PROP_TARGET_VAL i target

/-- The target of a core proposal: die, position and the spare that CORE_RETIRE would use (R562). -/
def proposeCore (n p seq : Nat) (s : State) : State :=
  propose 0 (n * 2 ^ 40 + p * 2 ^ 32 + (lowSpare n s).getD 0 * 2 ^ 24) seq (lowSpare n s).isNone s

/-- A field that acts as 1 when it holds 0. -/
def orOne (n : Nat) : Nat := if n = 0 then 1 else n

/-- The state of the committed lane map of bridge n, group g, lane b: the last lane record that names it (R563). -/
def laneCommitted (n g b : Nat) (s : State) : Bool :=
  s.repairs.foldl (fun acc r =>
    if (r.kind = 2 ∨ r.kind = 3) ∧ r.body % 256 = n ∧ r.body / 256 % 256 = g ∧ (r.body / 2 ^ 32).testBit b then
      r.kind == 2
    else acc) false

/-- A committed row record names this row (R563, R564). -/
def rowCommitted (die array inst row : Nat) (s : State) : Bool :=
  s.repairs.any fun r => r.kind == 4 && r.body % 256 == die && r.body / 2 ^ 8 % 256 == array &&
    r.body / 2 ^ 16 % 65536 == inst && r.body / 2 ^ 32 % 2 ^ 32 == row

/-- The array is one of a core's: L1I, L1D or L2 (R564). -/
def coreArray (a : Nat) : Bool := decide (a ≤ 6)

/-- The proposals that an accepted record makes (R562). count is its COUNT after merging. -/
def recordProposals (r : ErrRec) (count seq : Nat) (s : State) : State :=
  let die := r.detail / 2 ^ 40 % 256
  let array := r.detail / 2 ^ 32 % 256
  let inst := r.detail / 2 ^ 16 % 65536
  let row := r.detail % 65536
  if r.ty = 1 then
    if count = orOne (s.f F.RAS_THRESH_ROW_CE 0) then propose 2 r.detail seq false s else s
  else if r.ty = 2 ∧ r.sev = 3 ∧ coreArray array then
    let np := 20 * die + inst
    let c := smapGet (fun _ => 0) s.rasCoreUc np + 1
    let s := { s with rasCoreUc := smapSet (fun _ => 0) s.rasCoreUc np c }
    if c = orOne (s.f F.RAS_THRESH_CORE_UC 0) then proposeCore die inst seq s else s
  else if r.ty = 3 then
    if r.sev = 3 ∧ coreArray array then proposeCore die inst seq s
    else if rowCommitted die array inst row s then s else propose 2 r.detail seq false s
  else if r.ty = 0x0A then
    let n := r.detail / 2 ^ 8 % 16
    let g := r.detail / 2 ^ 4 % 4
    let lane := r.detail / 2 ^ 16 % 256
    if laneCommitted n g lane s then s else propose 1 r.detail seq false s
  else s

/-- The newest record of the log has the same TYPE, SRC, ADDR and DETAIL (R556). -/
def rasMerges (r : ErrRec) (s : State) : Bool :=
  let e := (s.f F.RAS_LOG_PTR_HEAD 0 + 1023) % 1024
  s.rasAny && bits (rasWord e 1 s) 63 56 == r.ty && bits (rasWord e 1 s) 44 36 == r.src &&
    rasWord e 2 s == r.word2 && bit (rasWord e 1 s) 51 == r.addr.isSome && rasWord e 3 s == BitVec.ofNat 64 r.detail

/-- A record accepted: merged into the newest one, or logged and, with severity UC or FATAL, copied to AON; a full ring
drops CE and INFO and overwrites its oldest record for the others (R556, R557, R559). -/
def rasAccept (r : ErrRec) (s : State) : State :=
  let h := s.f F.RAS_LOG_PTR_HEAD 0
  if rasMerges r s then
    let e := (h + 1023) % 1024
    let w1 := rasWord e 1 s
    let c := min (bits w1 31 16 + 1) 0xFFFF
    recordProposals r c (bits w1 15 0) (s.setR .RAS_LOG (e * 4 + 1) (fset ⟨.RAS_LOG, 31, 16⟩ w1 c))
  else if s.rasUnread = 1024 ∧ r.sev ≤ 1 then s.satInc F.RAS_STATUS_DROP 0
  else
    let seq := s.rasSeq
    let full := s.rasUnread = 1024
    let s := rasPut h r seq s
    let s := { (s.setF F.RAS_LOG_PTR_HEAD 0 (h + 1)) with rasAny := true, rasSeq := (seq + 1) % 65536 }
    let s := if full then
        (s.setF F.RAS_LOG_PTR_TAIL 0 (s.f F.RAS_LOG_PTR_TAIL 0 + 1)).satInc F.RAS_STATUS_OVERWRITTEN 0
      else { s with rasUnread := s.rasUnread + 1 }
    let s := if 3 ≤ r.sev then rasAon r seq s else s
    recordProposals r 0 seq s

/-- The record that the intake takes next: the earliest, and among records of one instant the lowest SRC (R558). -/
def intakeNext : List ErrRec → Option ErrRec
  | [] => none
  | r :: rs =>
    match intakeNext rs with
    | none => some r
    | some x => if x.tb.toNat < r.tb.toNat ∨ (x.tb = r.tb ∧ x.src < r.src) then some x else some r

/-- ERROR_RECORD. The intake accepts one record, or discards a CE or INFO record that found it busy for 64 FAB cycles. -/
def execErrorRecord (expired : Bool) (s : State) : Out :=
  match intakeNext s.intake with
  | none => .next s
  | some r =>
    let s := { s with intake := s.intake.erase r }
    if expired && decide (r.sev ≤ 1) then .next (s.satInc F.RAS_STATUS_DROP 0) else .next (rasAccept r s)

/-- TAIL_WRITE. TAIL moves forward over read records; a write that passes HEAD is ignored (R557). -/
def tailMove (v : Nat) (s : State) : State :=
  let d := (v + 1024 - s.f F.RAS_LOG_PTR_TAIL 0) % 1024
  if s.rasUnread < d then s
  else { (s.setF F.RAS_LOG_PTR_TAIL 0 v) with rasUnread := s.rasUnread - d }

/-- TAIL_WRITE. -/
def execTailWrite (a : Access) (v : Word) (s : State) : Out :=
  .next (guarded a true .RAS_LOG_PTR 0 (tailMove (bits v 9 0)) s)

end Sys2Proof.Machine
end

