-- ==== Sys2Proof/Machine/Memory.lean ====
section
/-! DEFINITION. The memory controllers: the address map (R219), the region table (R239), DRAM under its codes (R242 to
R248), the write queue (R222), the error log and buckets (R255, R256), credits (R229, R230), and the scrubber. -/
namespace Sys2Proof.Machine

/-! ## Address map (R219, R220) -/

/-- Bits hi to lo of an address. -/
def abits (a hi lo : Nat) : Nat := a / 2 ^ lo % 2 ^ (hi + 1 - lo)

/-- Controller and home agent of an address. -/
def mcOf (a : Nat) : Nat := abits a 11 8 ^^^ abits a 19 16 ^^^ abits a 27 24

/-- Sub-channel. -/
def mcSub (a : Nat) : Nat := abits a 16 15 ^^^ abits a 22 21

/-- Bank index b = 8 × rank + bank (R218). -/
def mcBankOf (a : Nat) : Nat := 8 * abits a 20 20 + (abits a 19 17 ^^^ abits a 25 23)

/-- Row; PA[37] is 0 on the -128 SKUs, whose row has 16 bits. -/
def mcRow (a : Nat) : Nat := abits a 37 21

/-- L', the index of a line within its controller (R220). -/
def lPrime (a : Nat) : Nat := abits a 37 12 * 4 + abits a 7 6

/-- DRAM holds this address: on the -128 SKUs the lower half of its range only (R3, R32). -/
def inDram (a : Nat) (s : State) : Bool := decide (a < s.sku.dramBytes)

/-! ## Regions (R239) -/

/-- Region i covers address a. -/
def regionHas (i a : Nat) (s : State) : Bool :=
  let u := a / 2 ^ 21
  s.b F.MC_REGION_BASE_VALID i && decide (s.f F.MC_REGION_BASE_BASE i ≤ u) &&
    decide (u < s.f F.MC_REGION_BASE_BASE i + s.f F.MC_REGION_BASE_SIZE i)

/-- The valid region that holds an address. -/
def regionOf (a : Nat) (s : State) : Option Nat := (List.range 64).find? fun i => regionHas i a s

/-- The world of a DRAM address: Secure outside every region. -/
def dramWorld (a : Nat) (s : State) : Bool :=
  match regionOf a s with
  | some i => s.b F.MC_REGION_CODE_WORLD i
  | none => true

/-- The owner of a DRAM address: P0 outside every region. -/
def dramPart (a : Nat) (s : State) : Nat :=
  match regionOf a s with
  | some i => s.f F.MC_REGION_CODE_PART i
  | none => 0

/-- The code in force at an address. -/
def codeOf (a : Nat) (s : State) : Nat :=
  match regionOf a s with
  | some i => codeInForce (s.f F.MC_REGION_CODE_CODE i)
  | none => 0

/-- The atomic placement: 0 NEAR, 1 HOME, 2 MEMORY. -/
def atomicPlace (a : Nat) (s : State) : Nat :=
  match regionOf a s with
  | some i => if s.f F.MC_REGION_CODE_ATOMIC i = 3 then 0 else s.f F.MC_REGION_CODE_ATOMIC i
  | none => 0

/-- The partition check of R421 on a DRAM address. -/
def dramPartOk (q a : Nat) (s : State) : Bool :=
  q == 0 || q == dramPart a s ||
    match regionOf a s with
    | some i => (s.r .PQ_REGION_SHARE i).getLsbD q
    | none => false

/-- A check address (R244). -/
def isCheckAddr (a : Nat) (s : State) : Bool :=
  (codeOf a s == 2 && abits a 14 12 == 7) || (codeOf a s == 1 && abits a 14 12 == 7 && abits a 7 7 == 1)

/-- The page of an address is retired (R262). -/
def isRetired (a : Nat) (s : State) : Bool :=
  (List.range 256).any fun i => s.b F.MC_RETIRE_VALID i && s.f F.MC_RETIRE_PAGE i == abits a 37 12

/-- The address lies in a region under INIT (R251). -/
def underInit (a : Nat) (s : State) : Bool :=
  match s.initRun with
  | some i => regionHas i a s
  | none => false

/-! ## DRAM and the check fields (R242, R243, R247) -/

/-- The address of the check field of half h of the line at a (R243). -/
def checkAt (code a h : Nat) : Nat :=
  let i := 4 * abits a 14 12 + abits a 7 6
  let base := a / 2 ^ 15 * 2 ^ 15 + 7 * 2 ^ 12 + abits a 11 8 * 2 ^ 8
  if code = 2 then base + i / 8 * 64 + (8 * (i % 8) + 4 * h)
  else base + (2 + i / 16) * 64 + (4 * (i % 16) + 2 * h)

/-- The line at a as DRAM holds it. -/
def dramLine (a : Nat) (s : State) : Line := BitVec.ofNat 512 (s.bytes (lineOf a) 64)

/-- The stored check field of half h of the line at a. -/
def dramCheck (code a h : Nat) (s : State) : Nat := s.bytes (checkAt code a h) (checkLen code)

/-- A half of a line written to DRAM with its check field; a poisoned one takes the poison pattern (R247, R257). -/
def dramHalf (a h : Nat) (d : Line) (p : BitVec 2) (s : State) : State :=
  let code := codeOf a s
  let s := s.setBytes (lineOf a + 32 * h) 32 (lineHalf d h)
  if code = 0 then s
  else s.setBytes (checkAt code (lineOf a) h) (checkLen code) (encodeField code (lineHalf d h) (p.getLsbD h))

/-- The halves of a write-queue entry written to DRAM. -/
def dramPut (e : WrEntry) (s : State) : State :=
  let s := if e.halves.getLsbD 0 then dramHalf e.addr 0 e.data e.poison s else s
  if e.halves.getLsbD 1 then dramHalf e.addr 1 e.data e.poison s else s

/-! ## The error log (R255, R256) -/

/-- The MC_LOG_INFO of a new record: type 0 CE, 1 UE, 2 poison lost; source 0 demand, 1 read-modify-write, 2 scrub, 3
write to NONE. -/
def logInfo (a ty src : Nat) (test : Bool) (pos : Nat) : Nat :=
  mcOf a * 2 ^ 40 + mcSub a * 2 ^ 38 + mcBankOf a * 2 ^ 34 + mcRow a * 2 ^ 17 + ty * 2 ^ 12 + src * 2 ^ 10
    + (if test then 512 else 0) + pos % 512

/-- LOG_COUNT counts the valid entries. -/
def logCount (s : State) : State :=
  s.setF F.MC_ECC_STATUS_LOG_COUNT 0 ((List.range 16).countP fun e => s.b F.MC_LOG_ADDR_VALID e)

/-- Record in the error log: merged into a valid entry of the same codeword and type, else the lowest free entry, else
discarded with LOG_OVF. A CE entry whose REPEAT reaches PAGE_CE proposes the page (R255, R562). -/
def eccLog (a ty src : Nat) (test : Bool) (pos : Nat) (s : State) : State :=
  let cw := a / 32
  let same := (List.range 16).find? fun e =>
    s.b F.MC_LOG_ADDR_VALID e && s.f F.MC_LOG_ADDR_ADDR e == cw && s.f F.MC_LOG_INFO_TYPE e == ty
  match same with
  | some e =>
    let s := s.satInc F.MC_LOG_INFO_REPEAT e
    if ty = 0 ∧ s.f F.MC_LOG_INFO_REPEAT e = orOne (s.f F.RAS_THRESH_PAGE_CE 0) then
      (propose 3 (abits a 37 12 * 4096) (s.freeWord.toNat % 65536) false s).bump
    else s
  | none =>
    match (List.range 16).find? fun e => !s.b F.MC_LOG_ADDR_VALID e with
    | none => s.setB F.MC_ECC_STATUS_LOG_OVF 0 true
    | some e =>
      let s := s.setR .MC_LOG_ADDR e 0
      let s := ((s.setB F.MC_LOG_ADDR_VALID e true).setB F.MC_LOG_ADDR_W e (dramWorld a s)).setF F.MC_LOG_ADDR_ADDR e cw
      logCount (s.setR .MC_LOG_INFO e (BitVec.ofNat 64 (logInfo a ty src test pos)))

/-- A CE counted and reported at controller k (R256). -/
def ceCount (k : Nat) (test : Bool) (s : State) : State :=
  let s := s.satInc F.MC_CE_CNT_CE k
  if test && s.b F.MC_ECC_TEST_CTRL_NOCOUNT 0 then s
  else
    let lv := s.f F.MC_CE_CNT_LEVEL k
    let s := s.satInc F.MC_CE_CNT_LEVEL k
    let mode := s.f F.MC_ECC_CTRL_CE_MODE 0
    let th := orOne (s.f F.MC_ECC_CTRL_THRESH 0)
    if mode = 1 ∨ (2 ≤ mode ∧ lv + 1 = th) then s.setFbit F.MC_ECC_STATUS_CE_STORM 0 k true else s

/-- The record of a finding in the codeword at a (R255 to R257, R261). -/
def eccFound (a src : Nat) (f : Finding) (s : State) : State :=
  let test := s.b F.MC_ECC_TEST_CTRL_EN 0
  match f with
  | .good => s
  | .poisoned => s
  | .ce pos => ceCount (mcOf a) test (eccLog a 0 src test pos s)
  | .ue =>
    let s := (eccLog a 1 src test 0x1FF s).satInc F.MC_CE_CNT_UE (mcOf a)
    let s := s.setB F.MC_ECC_STATUS_UE 0 true
    report 4 2 (dramWorld a s) (some a) (dramPart a s) (0x100 + mcOf a) (logInfo a 1 src test 0x1FF) s

/-! ## The write queue (R222, R248, R257) -/

/-- The write-queue entry of a line. -/
def wrFind (a : Nat) (s : State) : Option WrEntry := s.wrq.find? fun e => e.addr == lineOf a

/-- The write queue of an address's sub-channel is full, and has no entry of the line. -/
def wrFull (a : Nat) (s : State) : Bool :=
  (wrFind a s).isNone && decide (64 ≤ s.wrq.countP fun e => mcOf e.addr == mcOf a && mcSub e.addr == mcSub a)

/-- A write-queue entry bursts to DRAM, which its sub-channel leaves power-down for (R222, R234). -/
def mcBurst (e : WrEntry) (s : State) : State :=
  dramPut e ({ s with wrq := s.wrq.erase e }.setFbit F.MC_STATUS_PWRDN (mcOf e.addr) (mcSub e.addr) false)

/-- A newer write of a line over an older entry of it. -/
def wrMerged (e old : WrEntry) : WrEntry :=
  let pick (h : Nat) : Nat := lineHalf (if e.halves.getLsbD h then e.data else old.data) h
  { e with data := lineOfHalves (pick 0) (pick 1), poison := (e.poison &&& e.halves) ||| (old.poison &&& ~~~e.halves),
           halves := e.halves ||| old.halves }

/-- Poison of half h written to a NONE address is lost and logged (R257). -/
def poisonLost (a h : Nat) (p : BitVec 2) (s : State) : State :=
  if p.getLsbD h then
    eccLog (a + 32 * h) 2 3 (s.b F.MC_ECC_TEST_CTRL_EN 0) 0x1FF (s.setB F.MC_ECC_STATUS_POISON_LOST 0 true)
  else s

/-- Halves of a line into the write queue, over an entry of the same line. In a full queue the oldest entry bursts first. -/
def mcPut (a : Nat) (d : Line) (p halves : BitVec 2) (s : State) : State :=
  let a := lineOf a
  let none' := codeOf a s == 0
  let s := if none' then poisonLost a 1 (p &&& halves) (poisonLost a 0 (p &&& halves) s) else s
  let e : WrEntry := { addr := a, data := d, poison := if none' then 0 else p &&& halves, halves := halves }
  let s := if underInit a s && !s.initWb.contains a then { s with initWb := s.initWb ++ [a] } else s
  let s := s.setFbit F.MC_STATUS_PWRDN (mcOf a) (mcSub a) false
  match wrFind a s with
  | some old => { s with wrq := s.wrq.map fun x => if x = old then wrMerged e old else x }
  | none =>
    let s := match wrFull a s, s.wrq.find? fun x => mcOf x.addr == mcOf a && mcSub x.addr == mcSub a with
      | true, some x => mcBurst x s
      | _, _ => s
    { s with wrq := s.wrq ++ [e] }

/-- A whole line into the write queue. -/
def mcWrite (a : Nat) (d : Line) (p : BitVec 2) (s : State) : State := mcPut a d p 3 s

/-- Half h of the line at a read for use: from the write queue, or from DRAM through the decoder, with its finding logged
and the corrected or poisoned codeword written back (R222, R247, R252). -/
def halfRead (a h src : Nat) (s : State) : (Nat × Bool) × State :=
  let a := lineOf a
  match (wrFind a s).filter fun e => e.halves.getLsbD h with
  | some e => ((lineHalf e.data h, e.poison.getLsbD h), s)
  | none =>
    let code := codeOf a s
    let (d, f) := decodeHalf code (lineHalf (dramLine a s) h) (dramCheck code a h s)
    let s := eccFound (a + 32 * h) src f s
    let wb : Bool := match f with
      | .ue => true
      | .ce _ => s.b F.MC_ECC_CTRL_CE_WB 0
      | _ => false
    let po : BitVec 2 := if f.bad then 3 else 0
    ((d, f.bad), if wb then mcPut a (lineOfHalves d d) po (1#2 <<< h) s else s)

/-- A line read for use. -/
def mcRead (a src : Nat) (s : State) : (Line × BitVec 2) × State :=
  let ((d0, p0), s) := halfRead a 0 src s
  let ((d1, p1), s) := halfRead a 1 src s
  ((lineOfHalves d0 d1, BitVec.ofNat 2 ((if p0 then 1 else 0) + (if p1 then 2 else 0))), s)

/-- The line at a as the write queue and DRAM hold it, undecoded. -/
def rawLine (a : Nat) (s : State) : Line :=
  match wrFind a s with
  | some e => (wrMerged e { addr := a, data := dramLine a s, poison := 0 }).data
  | none => dramLine a s

/-- A write of some bytes of a line: a coded half that it covers whole needs no read, and one that it does not touch is not
written; a narrower write to a coded region reads, decodes and merges the line first; in a NONE region the other bytes keep
what memory holds (R248). -/
def mcMerge (a : Nat) (d : Line) (m : BitVec 64) (p : BitVec 2) (s : State) : State :=
  let a := lineOf a
  let plain (h : Nat) : Bool := maskCovers m h || !maskTouches m h
  let halves : BitVec 2 := BitVec.ofNat 2 ((if maskTouches m 0 then 1 else 0) + (if maskTouches m 1 then 2 else 0))
  if codeOf a s = 0 then mcPut a (mergeLine (rawLine a s) d m) (poisonMerge 0 p m) 3 s
  else if plain 0 && plain 1 then (if halves = 0 then s else mcPut a d p halves s)
  else
    let ((old, op), s) := mcRead a 1 s
    mcPut a (mergeLine old d m) (poisonMerge op p m) 3 s

/-- A GT read waits on the sub-channel of an address and may be issued: no write burst starts (R222). -/
def gtReading (a : Nat) (s : State) : Bool :=
  s.mcq.any fun r => r.cls == .gt && r.kind != 1 && !r.late && mcOf r.addr == mcOf a && mcSub r.addr == mcSub a

/-- The queued write of a line bursts to DRAM, in a gap between GT reads (R222). -/
def mcDrain (a : Nat) (s : State) : State :=
  match wrFind a s with
  | none => s
  | some e => if s.fbit F.MC_STATUS_SELFREF (mcOf a) (mcSub a) || gtReading a s then s else mcBurst e s

/-- Every queued write of the lines that p selects bursts to DRAM, oldest first. -/
def mcDrainAll (p : Nat → Bool) (s : State) : State := (s.wrq.filter fun e => p e.addr).foldl (fun t e => mcBurst e t) s

/-! ## Credits and windows (R226, R229, R230) -/

/-- The index of controller k's credit of partition p. -/
def creditIx (k p : Nat) : Nat := k * 64 + p

/-- GT_LINES in force: 3 acts as 2 (R238). -/
def gtLines (k : Nat) (s : State) : Nat := min (s.f F.MC_CTRL_GT_LINES k) 2

/-- GT tokens left to partition p at controller k in this slot cycle (R230). -/
def gtLeft (k p : Nat) (s : State) : Nat := smapGet (fun _ => 0) s.mcGt (creditIx k p)

/-- MC_CREDIT of a controller and partition as it is in force: a write takes effect at the next slot-cycle boundary (R231). -/
def creditNow (i : Nat) (s : State) : Word :=
  match smapGet (fun _ => none) s.mcPend i with
  | some v => v
  | none => s.r .MC_CREDIT i

/-- A write of MC_CREDIT, which reads back at once and is in force from the next slot-cycle boundary on (R11, R231). -/
def creditPut (i : Nat) (v : Word) (s : State) : State :=
  { s.setR .MC_CREDIT i v with mcPend := smapSet (fun _ => none) s.mcPend i (some (creditNow i s)) }

/-- The HP and BE bucket of R229: an empty one defers the request. -/
def spendCredit (k p cost : Nat) (s : State) : Bool × State :=
  let i := creditIx k p
  if fget F.MC_CREDIT_EN (creditNow i s) = 0 then (false, s)
  else if s.f F.MC_CREDIT_STATUS_LEVEL i = 0 then (true, s.satInc F.MC_CREDIT_STATUS_DEFER_CNT i)
  else (false, s.setF F.MC_CREDIT_STATUS_LEVEL i (s.f F.MC_CREDIT_STATUS_LEVEL i - cost))

/-! ## The banks (R221, R222): each works on one request at a time. -/

/-- Rank of a class, GT first. -/
def classRank : TClass → Nat
  | .gt => 0
  | .hp => 1
  | .be => 2
  | .mg => 3

/-- The bank of an address among all. -/
def bankKey (a : Nat) : Nat := (mcOf a * 4 + mcSub a) * 16 + mcBankOf a

/-- A read or atomic waits for nothing but its bank. -/
def McReq.ready (r : McReq) : Bool := r.kind != 1 && !r.deferred && !r.late

/-- The request that an idle bank works on next: by class, then one that hits the open row, then the oldest (R221). -/
def bankNext (b : Nat) (s : State) : Option McReq :=
  let cand := s.mcq.filter fun r => r.ready && bankKey r.addr == b
  let hit (r : McReq) : Bool := smapGet (fun _ => none) s.mcOpen b == some (mcRow r.addr)
  (List.range 8).findSome? fun g => cand.find? fun r => 2 * classRank r.cls + (if hit r then 0 else 1) == g

/-- An idle bank takes its next request, and opens its row. -/
def bankGo (b : Nat) (s : State) : State :=
  if s.mcq.any fun r => r.issued && bankKey r.addr == b then s
  else match bankNext b s with
    | none => s
    | some r => { s with mcq := s.mcq.map fun x => if x = r then { r with issued := true } else x
                         mcOpen := smapSet (fun _ => none) s.mcOpen b (some (mcRow r.addr)) }

/-- Every idle bank takes its next request. -/
def banksGo (s : State) : State := s.mcq.foldl (fun t r => bankGo (bankKey r.addr) t) s

/-- A controller has room for a request: a read queue of 64 entries per sub-channel, and 8 atomics (R221, R232); a write waits
for its write-queue entry (R222). -/
def mcRoom (a kind : Nat) (s : State) : Bool :=
  kind == 1 ||
    (decide ((s.mcq.countP fun r => r.kind != 1 && mcOf r.addr == mcOf a && mcSub r.addr == mcSub a) < 64) &&
      (kind != 2 || decide ((s.mcq.countP fun r => r.kind == 2 && mcOf r.addr == mcOf a) < 8)))

/-- A controller takes a request from the home agent: kind 0 read, 1 write, 2 atomic (R221, R226, R229, R230). -/
def mcAdmit (a kind : Nat) (cls : TClass) (p : Nat) (s : State) : State :=
  let k := mcOf a
  let s := s.setFbit F.MC_STATUS_PWRDN k (mcSub a) false
  let cost := if kind = 2 then 2 else 1
  let put (cls : TClass) (d l : Bool) (s : State) : State :=
    bankGo (bankKey a) { s with mcq := s.mcq ++ [{ addr := lineOf a, kind := kind, cls := cls, part := p, deferred := d, late := l }] }
  match cls with
  | .mg => put .mg false false s
  | .hp | .be =>
    let (d, s) := spendCredit k p cost s
    put cls d false s
  | .gt =>
    if gtLeft k p s = 0 then
      let s := s.satInc F.MC_CREDIT_STATUS_GT_DEMOTE (creditIx k p)
      let (d, s) := spendCredit k p cost s
      put .hp d false s
    else
      let s := { s with mcGt := smapSet (fun _ => 0) s.mcGt (creditIx k p) (gtLeft k p s - 1) }
      let c := k * 4 + mcSub a
      let n := smapGet (fun _ => 0) s.mcWin c
      if n < gtLines k s then put .gt false false { s with mcWin := smapSet (fun _ => 0) s.mcWin c (n + 1) }
      else put .gt false true (s.satInc F.MC_STATUS_GT_LATE k)

/-- The held request of a line, if it may proceed: its bank works on it, or the write queue has room for it. -/
def mcReady (a : Nat) (s : State) : Option McReq :=
  s.mcq.find? fun r => r.addr == lineOf a && if r.kind = 1 then !r.deferred && !r.late && !wrFull a s else r.issued

/-- A held request leaves the controller, and its bank goes on. -/
def mcDone (r : McReq) (s : State) : State := bankGo (bankKey r.addr) { s with mcq := s.mcq.erase r }

/-- At a slot-cycle boundary the deferred requests of a controller and partition go on in order while tokens last
(R229). -/
def mcRelease (s : State) : State :=
  banksGo (s.mcq.foldl (fun t r =>
    if !r.deferred then t
    else
      let i := creditIx (mcOf r.addr) r.part
      let cost := if r.kind = 2 then 2 else 1
      let free := fget F.MC_CREDIT_EN (creditNow i t) == 0
      if free || decide (0 < t.f F.MC_CREDIT_STATUS_LEVEL i) then
        let t := if free then t else
          t.setF F.MC_CREDIT_STATUS_LEVEL i (t.f F.MC_CREDIT_STATUS_LEVEL i - cost)
        { t with mcq := t.mcq.map fun x => if x = r then { x with deferred := false } else x }
      else t) s)

/-- Bucket i takes a refill, after a MC_CREDIT write that waited for the boundary has come into force (R229 to R231). -/
def creditBoundary (i : Nat) (s : State) : State :=
  let pend := smapGet (fun _ => none) s.mcPend i
  let s := { s with mcPend := smapSet (fun _ => none) s.mcPend i none }
  let lv := if pend.isSome then min (s.f F.MC_CREDIT_STATUS_LEVEL i) (s.f F.MC_CREDIT_DEPTH i)
    else s.f F.MC_CREDIT_STATUS_LEVEL i
  let s := s.setF F.MC_CREDIT_STATUS_LEVEL i (min (s.f F.MC_CREDIT_DEPTH i) (lv + s.f F.MC_CREDIT_RATE i))
  { s with mcGt := smapSet (fun _ => 0) s.mcGt i (s.f F.MC_CREDIT_GT_RATE i) }

/-- The start of a bank window of a sub-channel: GT requests that waited under R226 are admitted anew, in order. -/
def windowOpen (k c : Nat) (s : State) : State :=
  let key := k * 4 + c
  let s := { s with mcWin := smapSet (fun _ => 0) s.mcWin key 0 }
  banksGo (s.mcq.foldl (fun t r =>
    let n := smapGet (fun _ => 0) t.mcWin key
    if r.late && mcOf r.addr == k && mcSub r.addr == c && decide (n < gtLines k t) then
      { t with mcq := t.mcq.map fun x => if x = r then { x with late := false } else x,
               mcWin := smapSet (fun _ => 0) t.mcWin key (n + 1) }
    else t) s)

end Sys2Proof.Machine
end

