-- ==== Sys2Proof/Machine/Home.lean ====
section
/-! DEFINITION. The home agents: the directory, the order of requests, their transactions, the atomic unit, and the
recalls (R172 to R196, R373). -/
namespace Sys2Proof.Machine

/-! ## Packets to and from a die -/

/-- The die of an agent, 12 for the IOD agents (R184, R266). -/
def dieOfAgent (src : Nat) : Nat := if src < 240 then src / 20 else 12

/-- The agent that serves line L on CDn: the slice L mod 20 (R146, R266). -/
def sliceAgent (n line : Nat) : Nat := 20 * n + line % 20

/-- Some open window carries traffic from source n, and for requests of partition p (R278); at half width the later of two
adjoining windows carries none (R320). -/
def windowFor (n : Nat) (p : Option Nat) (s : State) : Option Nat :=
  (List.range 64).find? fun w =>
    winOpen w s && winF F.FAB_RSV_CFG_SRC w s == n && !(halfWidth n s && winLater w n s) &&
      match p with
      | some q => winF F.FAB_RSV_CFG_PART w s == q
      | none => true

/-- The time between two slots of a window, in units of the timebase: STRIDE slots of 0.625 ns (R276). -/
def winStep (w : Nat) (s : State) : Nat :=
  20 * (match winF F.FAB_RSV_CFG_STRIDE w s with
    | 0 => 64
    | 1 => 32
    | _ => 16)

/-- The GT flits of a window that are ahead at a slot point: each takes one of its slots (R280). -/
def winAhead (w : Nat) (down : Bool) (s : State) : Nat :=
  let t := smapGet (fun _ => 0) s.winBusy (2 * w + if down then 1 else 0)
  let d := (t - s.tb).toInt
  if 0 < d then (d.toNat + winStep w s - 1) / winStep w s else 0

/-- A GT flit at a slot point: it uses its window, behind the flits of the window that are ahead, each of which WAITED counts,
or travels as HP and counts GT_DEMOTE (R278 to R280). -/
def gtLaunch (w : Option Nat) (down : Bool) (s : State) : State :=
  match w with
  | some w =>
    let n := winAhead w down s
    let s := { s with winBusy := smapSet (fun _ => 0) s.winBusy (2 * w + if down then 1 else 0)
                        (s.tb + BitVec.ofNat 64 ((n + 1) * winStep w s)) }
    (s.satAdd F.FAB_RSV_STATUS_WAITED w n).satInc F.FAB_RSV_STATUS_USED w
  | none => s.satInc F.FAB_STATUS_GT_DEMOTE 0

/-- A packet leaves CDn through its UP point. isReq: it is a request of its partition (R278). -/
def sendUp (n : Nat) (isReq : Bool) (p : Packet) (s : State) : State :=
  let s := if p.cls = .gt then gtLaunch (windowFor n (if isReq then some p.part else none) s) false s else s
  s.sendP p

/-- A packet of an IOD agent or home agent toward CDn passes the DOWN point (R279). -/
def sendDown (n : Nat) (p : Packet) (s : State) : State :=
  let s := if p.cls = .gt then
      let s := gtLaunch (windowFor n none s) true s
      let occ := s.out.countP fun m => match m with
        | .pkt q => q.cls == .gt && dieOfAgent q.dst == n && q.src ≥ 240
        | _ => false
      iter 64 (fun w t =>
        if winOpen w t && winF F.FAB_RSV_CFG_SRC w t == n then
          t.setF F.FAB_RSV_STATUS_QMAX w (max (t.f F.FAB_RSV_STATUS_QMAX w) (min 32 (occ + 1)))
        else t) s
    else s
  s.sendP p

/-- A packet sent to an agent: toward a die through its DOWN point, else on the IOD. -/
def sendTo (p : Packet) (s : State) : State :=
  if dieOfAgent p.dst < 12 then sendDown (dieOfAgent p.dst) p s else s.sendP p

/-! ## The directory (R175) -/

/-- The set of a line. -/
def dirSet (a : Nat) : Nat := (lPrime a % 32768) ^^^ (lPrime a / 32768 % 32768)

/-- The tag of a line. -/
def dirTag (a : Nat) : Nat := lPrime a / 32768

/-- The key of way w of the line's set. -/
def dirKey (a w : Nat) : Nat := (mcOf a * 32768 + dirSet a) * 16 + w

/-- A directory entry. -/
def State.dirE (s : State) (k : Nat) : DirEntry := smapGet (fun _ => {}) s.dir k

/-- A directory entry changed, with HA_DIR_OCC counting the entries of each state. -/
def State.setDir (s : State) (k : Nat) (e : DirEntry) : State :=
  let h := k / 16 / 32768
  let o := s.dirE k
  let dec (f : Fld) (s : State) : State := s.setF f h (s.f f h - 1)
  let inc (f : Fld) (s : State) : State := s.setF f h (s.f f h + 1)
  let s := if o.valid then (if o.ex then dec F.HA_DIR_OCC_EX_COUNT s else dec F.HA_DIR_OCC_SH_COUNT s) else s
  let s := if e.valid then (if e.ex then inc F.HA_DIR_OCC_EX_COUNT s else inc F.HA_DIR_OCC_SH_COUNT s) else s
  { s with dir := smapSet (fun _ => {}) s.dir k e }

/-- The entry of a line. -/
def dirFind (a : Nat) (s : State) : Option Nat :=
  ((List.range 16).map (dirKey a)).find? fun k => (s.dirE k).valid && (s.dirE k).tag == dirTag a

/-- The state of a line: 0 U, 1 SH, 2 EX (R174). -/
def dirState (a : Nat) (s : State) : Nat :=
  match dirFind a s with
  | none => 0
  | some k => if (s.dirE k).ex then 2 else 1

/-- The line that an entry names, from its controller, set and tag: the address whose L' has this tag and set, found
among the 16 that share the bits L' holds (R219, R220). -/
def dirLine (key : Nat) (e : DirEntry) : Nat :=
  let k := key / 16 / 32768
  let set := key / 16 % 32768
  let l := e.tag * 32768 + ((set ^^^ e.tag % 32768) % 32768)
  let a := l / 4 * 2 ^ 12 + l % 4 * 2 ^ 6
  a + (k ^^^ abits a 19 16 ^^^ abits a 27 24) * 2 ^ 8

/-- The dies of a presence vector. -/
def pvDies (pv : Nat) : List Nat := (List.range 12).filter fun n => pv.testBit n

/-- A bit of a vector set. -/
def orBit (v n : Nat) : Nat := v ||| 2 ^ n

/-- A bit of a vector cleared. -/
def clrBit (v n : Nat) : Nat := if v.testBit n then v - 2 ^ n else v

/-- CDn is treated as absent by home agent k (R196). -/
def dieAbsent (k n : Nat) (s : State) : Bool := s.fbit F.HA_DIE_STATE_ABSENT k n

/-! ## Errors and responses -/

/-- An error of home agent k recorded (R198), and its error record (R555). -/
def haError (k code a : Nat) (w : Bool) (part : Nat) (s : State) : State :=
  let s := ((s.setB F.HA_ERR_ERR k true).satInc F.HA_ERR_COUNT k).setF F.HA_ERR_CODE k code
  let s := s.setF F.HA_ERR_ADDR_LINE k (a / 64)
  let sev := if code ≤ 2 then 1 else if code = 4 then 3 else 2
  report 8 sev w (some a) part (0x100 + k) (code * 16 + k) s

/-- The opcode with which a request is answered (R178, R270). -/
def answerOp : Op → Op
  | .getS => .dataE
  | .getX => .dataE
  | .upgHA => .gntX
  | .getXZ => .gntX
  | .rdIO => .dataIO
  | .wrIO => .cmpIO
  | _ => .cmp

/-- An answer of a home agent to the sender of p. -/
def haAnswer (p : Packet) (op : Op) (w : Bool) (st : Grant) (data : Option (Line × BitVec 2)) (resp : BitVec 2)
    (s : State) : State :=
  sendTo { op := op, cls := p.cls, w := w, part := p.part, src := 0x100 + mcOf p.addr, dst := p.src, tag := p.tag,
           addr := p.addr, st := st, data := data.isSome, poison := (data.map (·.2)).getD 0, resp := resp,
           payload := (data.map (·.1)).getD 0 } s

/-- A refusal or an error (R270, R375). -/
def haRefuse (p : Packet) (resp : BitVec 2) (s : State) : State :=
  haAnswer p (answerOp p.op) p.w .none none resp s

/-- The kind of access that a request makes, for a refusal's record. -/
def denyKindOf (p : Packet) : DenyKind :=
  match p.op with
  | .getS => if p.fetch then .fetch else .read
  | .rdNC | .rdS | .rdOnce | .rdIO => .read
  | .atmH => .atomic
  | _ => .write

/-- The access of a packet. -/
def pktAccess (p : Packet) : Access := ⟨p.w, p.part, p.src⟩

/-- Sub-channel of the address in self-refresh (R235). -/
def inSelfRefresh (a : Nat) (s : State) : Bool := s.fbit F.MC_STATUS_SELFREF (mcOf a) (mcSub a)

/-! ## Transactions (R182) -/

/-- The open transaction of a line. -/
def haTxOf (a : Nat) (s : State) : Option HaTx := s.haTx.find? fun t => t.line == lineOf a

/-- An open transaction changed. -/
def setHaTx (t : HaTx) (s : State) : State :=
  { s with haTx := s.haTx.map fun x => if x.line = t.line then t else x }

/-- A snoop of a line to die d: a home agent answers it itself, with RspI, for a die it treats as absent (R196). -/
def haSnoop (op : Op) (d : Nat) (t : HaTx) (s : State) : HaTx × State :=
  let a := t.line
  if dieAbsent (mcOf a) d s then ({ t with gone := true }, s)
  else
    let (cls, part, tag) := match t.req with
      | some p => (p.cls, p.part, p.tag)
      | none => (TClass.be, 0, 0)
    let s := sendDown d { op := op, cls := cls, w := t.w, part := part, src := 0x100 + mcOf a,
                          dst := sliceAgent d (a / 64), tag := tag, addr := a } s
    ({ t with snoops := t.snoops ++ [d] }, s)

/-- The same snoop to several dies. -/
def haSnoops (op : Op) (ds : List Nat) (t : HaTx) (s : State) : HaTx × State :=
  ds.foldl (fun (ts : HaTx × State) d => haSnoop op d ts.1 ts.2) (t, s)

/-- A line in the atomic buffer is written to memory and removed before a coherent request is served (R190). -/
def atomFlush (a : Nat) (s : State) : State :=
  match s.atomBuf.find? fun e => e.addr == lineOf a with
  | none => s
  | some e => mcWrite a e.data e.poison { s with atomBuf := s.atomBuf.erase e }

/-- The placement at which a request's atomic runs: a MEMORY atomic runs as HOME with MC_CTRL.ATOMIC_EN = 0, and one
that arrives for a NEAR region (PBMT NC, R189) at HOME. -/
def atomMemory (a : Nat) (s : State) : Bool :=
  atomicPlace a s == 2 && s.b F.MC_CTRL_ATOMIC_EN (mcOf a)

/-- The atomic on a line of data: its old value and the new line. AUX holds the operation, its width and, as the spec
gives the operand no other place, its byte offset is the lowest byte of the mask (R268). -/
def atomApply (p : Packet) (d : Line) : Nat × Line :=
  let n := if p.aux.getLsbD 4 then 8 else 4
  let o := ((List.range 64).find? fun i => p.mask.getLsbD i).getD 0
  let old := lineBytes d o n
  (old, linePut d o n (amoResult (p.aux.toNat % 16) n old (lineBytes p.payload o n)))

/-- A poisoned half holds the operand of an atomic. -/
def atomPoisoned (p : Packet) (po : BitVec 2) : Bool :=
  (po.getLsbD 0 && maskTouches p.mask 0) || (po.getLsbD 1 && maskTouches p.mask 1)

/-- An atomic performed on a line read from memory (R189, R195, R232): its result goes to the write queue, or with HOME
placement into the 64-line atomic buffer, whose oldest line makes room. -/
def atomDone (p : Packet) (d : Line) (po : BitVec 2) (s : State) : State :=
  let a := lineOf p.addr
  let k := mcOf a
  if atomPoisoned p po then
    haRefuse p 0b10#2 (haError k 5 a (dramWorld a s) (dramPart a s) s)
  else
    let (old, new) := atomApply p d
    let s :=
      if atomMemory a s then
        mcPut a new po (BitVec.ofNat 2 ((if maskTouches p.mask 0 then 1 else 0) + (if maskTouches p.mask 1 then 2 else 0))) s
      else if !s.b F.HA_CTRL_ATOMIC_BUF_EN k then mcWrite a new po s
      else
        let mine := s.atomBuf.filter fun e => mcOf e.addr == k
        let s := if mine.length < 64 then s else
          match mine with
          | e :: _ => mcWrite e.addr e.data e.poison { s with atomBuf := s.atomBuf.erase e }
          | [] => s
        { s with atomBuf := s.atomBuf ++ [{ addr := a, data := new, poison := po }] }
    haAnswer p .cmp (dramWorld a s) .none (some (BitVec.ofNat 512 old, 0)) 0 s

/-- A transaction ends with its line in the state of entry e; an entry that names no die is freed. -/
def haEnd (t : HaTx) (e : DirEntry) (s : State) : State :=
  let s : State := { s with haTx := s.haTx.filter fun x => x.line != t.line }
  match dirFind t.line s with
  | some k => s.setDir k (if e.pv = 0 then {} else { e with busy := false, valid := true })
  | none => s

/-- A transaction that is open only for the requester's CmpAck; a die that has been lost sends none (R196). -/
def haAwaitAck (t : HaTx) (e : DirEntry) (s : State) : State :=
  let r := match t.req with
    | some p => dieOfAgent p.src
    | none => 12
  if r < 12 ∧ dieAbsent (mcOf t.line) r s then haEnd t { e with pv := clrBit e.pv r } s
  else
    let s := match dirFind t.line s with
      | some k => s.setDir k { e with busy := true, nru := true }
      | none => s
    setHaTx { t with ack := true, snoops := [], wbp := [], mem := 2 } s

/-- The line's entry, or an invalid one in state U. -/
def dirEntryOf (a : Nat) (s : State) : DirEntry :=
  match dirFind a s with
  | some k => s.dirE k
  | none => {}

/-- The entry of a line that die r owns. -/
def entryEx (e : DirEntry) (r : Nat) : DirEntry := { e with valid := true, ex := true, pv := 2 ^ r, fdie := r }

/-- A pair of NC memory, 16 bytes of a core, is performed as two 8-byte accesses, lower word first (R141, R214). -/
def ncPair (p : Packet) : Bool :=
  decide (p.src < 240) && ((p.op == .wrNC && (List.range 4).any fun i => p.mask == byteMask (16 * i) 16) ||
    (p.op == .rdNC && !p.data && p.aux.toNat / 64 % 32 == 15))

/-- The bytes that a write's access covers: the lower word of a pair, or all its bytes. -/
def ncMask (p : Packet) : BitVec 64 := if ncPair p then p.mask &&& 0x00FF00FF00FF00FF#64 else p.mask

/-- What is left of a pair once its lower word has been accessed: a read keeps what it has read. -/
def ncUpper (p : Packet) (d : Line) (po : BitVec 2) : Packet :=
  if p.op = .wrNC then { p with mask := p.mask &&& 0xFF00FF00FF00FF00#64 } else { p with data := true, payload := d, poison := po }

/-- The data of an NC read: with that of the lower word of a pair, read before. -/
def ncData (p : Packet) (d : Line) (po : BitVec 2) : Line × BitVec 2 :=
  if p.data then (mergeLine d p.payload (byteMask (p.aux.toNat % 64) 8), po ||| p.poison) else (d, po)

/-- The upper word of a pair queues behind what has come meanwhile. -/
def ncAgain (p : Packet) (d : Line) (po : BitVec 2) (s : State) : State := { s with haQ := s.haQ ++ [{ p := ncUpper p d po }] }

/-- The end of a transaction whose snoops and memory access are complete: the Actions column of R182. -/
def haFinish (t : HaTx) (s : State) : State :=
  let a := t.line
  let e := dirEntryOf a s
  match t.req with
  | none =>
    let s := match t.data with
      | some (d, po) => mcWrite a d po s
      | none => s
    haEnd t { e with pv := 0 } s
  | some p =>
    let r := dieOfAgent p.src
    match p.op with
    | .getS =>
      if t.fwd then
        -- from EX the owner keeps S; from SH r joins
        haAwaitAck t { e with valid := true, ex := false, pv := orBit e.pv r, fdie := r } s
      else
        let shared := (if t.st = 1 then e.pv else 0)
        let d := t.data.getD (0, 0)
        if (p.fetch && t.mem == 2) || (t.st == 1 && shared != 0) then
          haAwaitAck t { e with valid := true, ex := false, pv := orBit shared r, fdie := r }
            (haAnswer p .dataF e.w .f (some d) 0 s)
        else haAwaitAck t (entryEx e r) (haAnswer p .dataE e.w .e (some d) 0 s)
    | .getX | .upgHA =>
      if t.fwd then haAwaitAck t (entryEx e r) s
      else if p.op = .upgHA ∧ t.st = 1 ∧ e.pv.testBit r ∧ t.data.isNone then
        haAwaitAck t (entryEx e r) (haAnswer p .gntX e.w .e none 0 s)
      else haAwaitAck t (entryEx e r) (haAnswer p .dataE e.w .e (some (t.data.getD (0, 0))) 0 s)
    | .getXZ =>
      if t.fwd then haAwaitAck t (entryEx e r) s
      else if t.data.isSome then haAwaitAck t (entryEx e r) (haAnswer p .dataE e.w .e t.data 0 s)
      else haAwaitAck t (entryEx e r) (haAnswer p .gntX e.w .e none 0 s)
    | .rdNC | .rdIO =>
      let (d, po) := t.data.getD (0, 0)
      let s := if ncPair p then ncAgain p d po s
        else haAnswer p (answerOp p.op) (dramWorld a s) .none (some (ncData p d po)) 0 s
      haEnd t (if t.st = 2 ∧ t.gone then { e with pv := 0 } else e) s
    | .cboC =>
      let s := haAnswer p .cmp (dramWorld a s) .none none 0 s
      haEnd t (if t.st = 2 ∧ t.gone then { e with pv := 0 } else e) s
    | .atmH =>
      let (d, po) := t.data.getD (0, 0)
      haEnd t { e with pv := 0 } (atomDone p d po s)
    | _ =>
      haEnd t { e with pv := 0 }
        (if ncPair p then ncAgain p 0 0 s else haAnswer p (answerOp p.op) (dramWorld a s) .none none 0 s)

/-- A transaction still needs a memory access once its snoops are answered: the kind of the access (R182). -/
def haNeeds (t : HaTx) (s : State) : Option Nat :=
  match t.req with
  | none => none
  | some p =>
    let e := dirEntryOf t.line s
    let read : Option Nat := if t.fwd || t.data.isSome then none else some 0
    match p.op with
    | .getS => read
    | .getX => read
    | .upgHA => if t.st = 1 ∧ e.pv.testBit (dieOfAgent p.src) then none else read
    | .rdNC | .rdIO => some 0
    | .wrNC | .wrIO => some 1
    | .atmH => some 2
    | _ => none

/-- Data that a recall or a clean returned is written to memory before the request itself acts on memory (R182). -/
def haFlushData (t : HaTx) (s : State) : HaTx × State :=
  match t.req, t.data with
  | some p, some (d, po) =>
    match p.op with
    | .rdNC | .wrNC | .rdIO | .wrIO | .cboC | .cboF | .atmH => ({ t with data := none }, mcWrite t.line d po s)
    | _ => (t, s)
  | _, _ => (t, s)

/-- A request that needs the memory of a sub-channel in self-refresh ends with an error response (R235). Copies that it has
taken from the dies are gone. -/
def haSelfRef (t : HaTx) (p : Packet) (s : State) : State :=
  let e := dirEntryOf t.line s
  let keep : Bool := match p.op with
    | .getS | .rdNC | .rdIO | .cboC => t.st == 1 || (t.st == 2 && !t.gone)
    | .upgHA | .getXZ => false
    | _ => false
  haEnd t (if keep then e else { e with pv := 0 }) (haRefuse p 0b10#2 s)

/-- A transaction goes on: it waits, for its controller too, issues its memory access, or finishes. An atomic on a line in the atomic buffer is
performed there, and one that its poison refuses leaves the buffer as it is (R189, R195). -/
def haAdvance (a : Nat) (s : State) : State :=
  match haTxOf a s with
  | none => s
  | some t =>
    if t.ack || !t.snoops.isEmpty || !t.wbp.isEmpty || t.mem = 1 then s
    else
      let (t, s) := if t.mem = 0 then haFlushData t s else (t, s)
      let s := setHaTx t s
      match (if t.mem = 0 then haNeeds t s else none), t.req with
      | some kind, some p =>
        -- to its controller, a HOME atomic is a read
        let ask := if kind = 2 && !atomMemory t.line s then 0 else kind
        if inSelfRefresh t.line s then haSelfRef t p s
        else if !mcRoom t.line ask s then s
        else
        let buf := s.atomBuf.find? fun e => e.addr == t.line
        match kind, buf with
        | 2, some e =>
          if atomMemory t.line s then
            mcAdmit t.line 2 p.cls p.part (setHaTx { t with mem := 1 } (atomFlush t.line s))
          else
            let s : State := if atomPoisoned p e.poison then s else { s with atomBuf := s.atomBuf.erase e }
            haFinish { t with mem := 2, data := some (e.data, e.poison) } s
        | 1, _ =>
          let s := mcAdmit t.line 1 p.cls p.part (setHaTx { t with mem := 1 } s)
          match mcReady t.line s with
          | some q =>
            let s := mcMerge t.line p.payload (ncMask p) p.poison (mcDone q s)
            haFinish { t with mem := 2 } s
          | none => s
        | _, _ => mcAdmit t.line ask p.cls p.part (setHaTx { t with mem := 1 } s)
      | _, _ => haFinish t s

/-! ## Starting a request -/

/-- A way for a line in U (R176): an invalid way, or the victim to recall, or none while every way is BUSY. NRU bits of a
class that are all set are cleared. -/
inductive WayChoice where
  | free (key : Nat) | recall (key : Nat) | none
  deriving DecidableEq, Repr

/-- The classes of R176, rule 2. -/
def dirClass (e : DirEntry) : Nat := if e.ex then 2 else if (pvDies e.pv).length ≤ 1 then 0 else 1

/-- The choice of R176, and the state with the NRU bits it clears. -/
def dirChoose (a : Nat) (s : State) : WayChoice × State :=
  let ways := (List.range 16).map (dirKey a)
  match ways.find? fun k => !(s.dirE k).valid with
  | some k => (.free k, s)
  | none =>
    let idle := ways.filter fun k => !(s.dirE k).busy
    let cls := (List.range 3).find? fun c => idle.any fun k => dirClass (s.dirE k) == c
    match cls with
    | none => (.none, s)
    | some c =>
      let cand := idle.filter fun k => dirClass (s.dirE k) == c
      match cand.find? fun k => !(s.dirE k).nru with
      | some k => (.recall k, s)
      | none =>
        let s := ways.foldl (fun t k => t.setDir k { t.dirE k with nru := false }) s
        match cand with
        | k :: _ => (.recall k, s)
        | [] => (.none, s)

/-- A recall of an entry: Inv to every sharer or Rcl to the owner; all: Rcl to all twelve dies (R176, R177). -/
def haRecall (key : Nat) (all : Bool) (s : State) : State :=
  let e := s.dirE key
  let a := dirLine key e
  let s := s.setDir key { e with busy := true }
  let t : HaTx := { line := a, req := none, st := if e.ex then 2 else 1, w := e.w }
  let s := { s with haTx := s.haTx ++ [t] }
  let (t, s) := if all then haSnoops .rcl (List.range 12) t s
    else if e.ex then haSnoops .rcl (pvDies e.pv) t s
    else haSnoops .inv (pvDies e.pv) t s
  haAdvance a (setHaTx t s)

/-- How a request begins: its transaction is open, or it waits, for a recall that it has started or not. -/
inductive Began where
  | yes | no | recall (line : Nat)
  deriving DecidableEq, Repr

/-- A request begins on a line that has no open transaction (R182). One in U that has started a recall takes the first way
that is free, and chooses no other victim while that recall is open (R176). -/
def haBegin (q : HaReq) (s : State) : State × Began :=
  let p := q.p
  let a := lineOf p.addr
  let r := dieOfAgent p.src
  let st := dirState a s
  let e := dirEntryOf a s
  let stale := s.walks.any fun wk => regionHas wk.region a s && e.valid && e.w != wk.world
  if stale then (match dirFind a s with
    | some k => haRecall k false s
    | none => s, .no)
  else
  let openTx (s : State) : HaTx × State :=
    let t : HaTx := { line := a, req := some p, st := st, w := if st = 0 then dramWorld a s else e.w }
    (t, { s with haTx := s.haTx ++ [t] })
  let go (t : HaTx) (s : State) : State := haAdvance a (setHaTx t s)
  -- the memory read in parallel with the snoops
  let read (t : HaTx) (s : State) : State :=
    if inSelfRefresh a s || !mcRoom a 0 s then go t s else go { t with mem := 1 } (mcAdmit a 0 p.cls p.part s)
  let busy (s : State) : State := match dirFind a s with
    | some k => s.setDir k { s.dirE k with busy := true, nru := true }
    | none => s
  if st = 0 then
    match p.op with
    | .getS | .getX | .upgHA | .getXZ =>
      let full := ((List.range 16).map (dirKey a)).all fun k => (s.dirE k).valid
      if full && q.awaits.any (fun l => (haTxOf l s).isSome) then (s, .no)
      else
        match dirChoose a s with
        | (.none, s) => (s, .no)
        | (.recall k, s) => (haRecall k false s, .recall (dirLine k (s.dirE k)))
        | (.free k, s) =>
          let s := atomFlush a s
          let s := s.setDir k { valid := true, busy := true, nru := true, w := dramWorld a s, tag := dirTag a, fdie := 15 }
          let (t, s) := openTx s
          (go t s, .yes)
    | .atmH =>
      let (t, s) := openTx s
      (go t s, .yes)
    | _ =>
      let (t, s) := openTx (atomFlush a s)
      (go t s, .yes)
  else
    let (t, s) := openTx (busy s)
    let dies := pvDies e.pv
    if st = 1 then
      match p.op with
      | .getS =>
        let (t, s) := if e.fdie ≠ 15 then haSnoop .snpS e.fdie t s else (t, s)
        (go t s, .yes)
      | .getX =>
        let (t, s) := haSnoops .inv dies t s
        (read t s, .yes)
      | .upgHA =>
        if e.pv.testBit r then
          let (t, s) := haSnoops .inv (dies.erase r) t s
          (go t s, .yes)
        else
          let (t, s) := haSnoops .inv dies t s
          (read t s, .yes)
      | .getXZ =>
        let (t, s) := haSnoops .inv (dies.erase r) t s
        (go t s, .yes)
      | .rdNC | .rdIO | .cboC => (go t s, .yes)
      | _ =>
        let (t, s) := haSnoops .inv dies t s
        (go t s, .yes)
    else
      match p.op with
      | .getS =>
        let (t, s) := haSnoops .snpS dies t s
        (go t s, .yes)
      | .getX | .upgHA | .getXZ =>
        let (t, s) := haSnoops .snpX dies t s
        (go t s, .yes)
      | .rdNC | .rdIO | .cboC =>
        let (t, s) := haSnoops .snpC dies t s
        (go t s, .yes)
      | _ =>
        let (t, s) := haSnoops .rcl dies t s
        (go t s, .yes)

/-! ## The queue (R183 to R185) -/

/-- HA_STATUS(k).QUEUE follows the queue. -/
def haCount (s : State) : State :=
  iter 16 (fun k t =>
    t.setF F.HA_STATUS_QUEUE k (min 512 (t.haQ.countP fun q => mcOf q.p.addr == k))) s

/-- No earlier queued request names the same line. -/
def firstOfLine (q : HaReq) : List HaReq → Bool
  | [] => true
  | x :: r => x == q || (lineOf x.p.addr != lineOf q.p.addr && firstOfLine q r)

/-- A queued request changed. -/
def setHaReq (q q' : HaReq) (s : State) : State := { s with haQ := s.haQ.map fun x => if x = q then q' else x }

/-- One queued request tried: it begins, or it waits for its line, a way or a transaction slot (R183, R185). A lookup that
finds the line's entry uncorrectable recalls the line from every die first (R177). -/
def haTry (q : HaReq) (s : State) : State :=
  let a := lineOf q.p.addr
  if !s.haQ.contains q || !firstOfLine q s.haQ || (haTxOf a s).isSome ||
      decide (256 ≤ s.haTx.countP fun t => mcOf t.line == mcOf a) then s
  else match (if q.ue then dirFind a s else none) with
  | some k => haRecall k true (haError (mcOf a) 3 a (s.dirE k).w q.p.part (setHaReq q { q with ue := false } s))
  | none =>
    match haBegin q s with
    | (s', .yes) => { s' with haQ := s'.haQ.erase q }
    | (s', b) =>
      let allBusy := dirState a s == 0 && ((List.range 16).map (dirKey a)).all fun k => (s.dirE k).busy
      let s' := if allBusy && !q.waited then s'.satInc F.HA_STATUS_DIRWAIT_CNT (mcOf a) else s'
      setHaReq q { q with waited := q.waited || allBusy, awaits := match b with
        | .recall l => some l
        | _ => q.awaits } s'

/-- One pass over the queue, GT first, then HP, BE and MG. -/
def haPass (s : State) : State :=
  (List.range 4).foldl (fun t c =>
    (t.haQ.filter fun q => classRank q.p.cls == c).foldl (fun t q => haTry q t) t) s

/-! ## Checker test mode (R260, R261) -/

/-- The 32 data bytes of MC_ECC_TEST_DATA. -/
def testData (s : State) : Nat :=
  (List.range 4).foldl (fun n j => n + (s.r .MC_ECC_TEST_DATA j).toNat * 2 ^ (64 * j)) 0

/-- The codeword address under test. -/
def testAddr (s : State) : Nat := s.f F.MC_ECC_TEST_ADDR_VAL 0 * 32

/-- The raw access itself: cmd 1 reads the codeword and its stored check field, 2 writes them. -/
def rawAccess (cmd : Nat) (s : State) : State :=
  let a := testAddr s
  let code := codeOf a s
  let s := mcDrainAll (· == lineOf a) (atomFlush a s)
  let c := checkAt code (lineOf a) (abits a 5 5)
  if cmd = 1 then
    let d := s.bytes a 32
    let s := iter 4 (fun j t => t.setR .MC_ECC_TEST_DATA j (BitVec.ofNat 64 (d / 2 ^ (64 * j)))) s
    s.setR .MC_ECC_TEST_CHECK 0 (BitVec.ofNat 64 (s.bytes c (checkLen code)))
  else (s.setBytes a 32 (testData s)).setBytes c (checkLen code) (s.r .MC_ECC_TEST_CHECK 0).toNat

/-- A raw access whose line is no longer cached is made; until then its copies are recalled (R260). -/
def testStep (cmd : Nat) (s : State) : State :=
  let a := testAddr s
  let wait (s : State) : State := { s with testRun := some cmd }.setB F.MC_ECC_TEST_STATUS_BUSY 0 true
  if (haTxOf a s).isSome then wait s
  else
    match dirFind a s with
    | some k => wait (haRecall k false s)
    | none => rawAccess cmd ({ s with testRun := none }.setB F.MC_ECC_TEST_STATUS_BUSY 0 false)

/-- A command of MC_ECC_TEST_CMD. -/
def testCmd (cmd : Nat) (s : State) : State :=
  if cmd = 0 ∨ 4 < cmd then s
  else
    let a := testAddr s
    let res (n : Nat) (s : State) : State := s.setF F.MC_ECC_TEST_STATUS_RESULT 0 n
    if !s.b F.MC_ECC_TEST_CTRL_EN 0 then res 1 s
    else if codeOf a s = 0 then res 2 s
    else if isCheckAddr a s then res 3 s
    else
      let s := res 0 s
      if cmd ≤ 2 then testStep cmd s
      else s.setR .MC_ECC_TEST_CHECK 0 (BitVec.ofNat 64 (encodeField (codeOf a s) (testData s) (cmd == 4)))

/-- A write to one of the MC_ECC_TEST registers, by its key: held while a command runs (R260). -/
def testWrite (key : Nat) (v : Word) (s : State) : State :=
  if s.testRun.isSome then { s with testHeld := s.testHeld ++ [(key, v)] }
  else
    match Reg.ofNat (key % 1024) with
    | .MC_ECC_TEST_CMD => testCmd (v.toNat % 8) s
    | .MC_ECC_TEST_CTRL => s.wr .MC_ECC_TEST_CTRL (key / 1024) v
    | .MC_ECC_TEST_ADDR => s.wr .MC_ECC_TEST_ADDR (key / 1024) v
    | .MC_ECC_TEST_DATA => s.wr .MC_ECC_TEST_DATA (key / 1024) v
    | .MC_ECC_TEST_CHECK => s.wr .MC_ECC_TEST_CHECK (key / 1024) v
    | _ => s

/-- A raw access that waited goes on, and the writes held behind it are performed in order. -/
def testGo (s : State) : State :=
  match s.testRun with
  | none => s
  | some cmd =>
    let s := testStep cmd s
    if s.testRun.isSome then s
    else
      let held := s.testHeld
      held.foldl (fun t (kv : Nat × Word) => testWrite kv.1 kv.2 t) { s with testHeld := [] }

/-- The transactions that wait for room at their controllers go on. -/
def haRetry (s : State) : State := s.haTx.foldl (fun t x => if x.mem = 0 then haAdvance x.line t else t) s

/-- The waiting requests that can proceed do so (R185), and a raw access that waits for its line (R260). -/
def haPump (s : State) : State := testGo (haCount (iter (s.haQ.length + 1) (fun _ t => haPass t) (haRetry s)))

/-- The requests of one FAB cycle in the order of R184: upward from PRIO_PTR by source. -/
def tieInsert (ptr : Nat) (p : HaReq) : List HaReq → List HaReq
  | [] => [p]
  | q :: r =>
    let key (x : HaReq) : Nat := (dieOfAgent x.p.src + 13 - ptr) % 13
    if key p < key q then p :: q :: r else q :: tieInsert ptr p r

/-- The requests of one FAB cycle join the queue; PRIO_PTR moves when two of them name one line (R184). -/
def haTieClose (s : State) : State :=
  match s.haTie with
  | [] => s
  | q :: _ =>
    let k := mcOf q.p.addr
    let ptr := s.f F.HA_STATUS_PRIO_PTR k
    let ordered := s.haTie.foldl (fun acc x => tieInsert ptr x acc) []
    let tied := ordered.find? fun x => decide (2 ≤ ordered.countP fun y => lineOf y.p.addr == lineOf x.p.addr)
    let s := match tied with
      | some x => s.setF F.HA_STATUS_PRIO_PTR k ((dieOfAgent x.p.src + 1) % 13)
      | none => s
    { s with haTie := [], haQ := s.haQ ++ ordered }

/-- Home agent k has a queue credit for a class: GT_RESERVE of its 512 entries are kept for GT (R183). -/
def haCredit (k : Nat) (cls : TClass) (s : State) : Bool :=
  let mine := (s.haQ ++ s.haTie).filter fun q => mcOf q.p.addr == k
  decide (mine.length < 512) && (cls == .gt ||
    decide ((mine.countP fun q => q.p.cls != .gt) + min 512 (s.f F.HA_CTRL_GT_RESERVE k) < 512))

/-- Why a home agent refuses a request, with its record: RESP 0b10 for an address that is not DRAM to requests, and 0b01 for
the world or partition check (R32, R235, R244, R251, R262, R370, R421). -/
def haDenied (p : Packet) (s : State) : Option (BitVec 2 × State) :=
  let a := lineOf p.addr
  if !inDram a s then some (0b10#2, s)
  else if !p.w && dramWorld a s then some (0b01#2, denyWorld .ha (denyKindOf p) (pktAccess p) p.addr s)
  else if !dramPartOk p.part a s then some (0b01#2, denyPart .ha (denyKindOf p) (pktAccess p) p.addr s)
  else if isCheckAddr a s || (isRetired a s && p.op != .cboC && p.op != .cboF) || underInit a s || inSelfRefresh a s then
    some (0b10#2, s)
  else none

/-- A request reaches its home agent: without a queue credit it waits in the fabric; else it is refused, or queued and served
(R183). more: another request arrives in the same FAB cycle. ue: the lookup finds the line's entry uncorrectable (R177). -/
def haRequest (p : Packet) (more ue : Bool) (s : State) : State :=
  let k := mcOf p.addr
  if s.behind p || !haCredit k p.cls s then s
  else
    let s := s.take (.pkt p)
    let s := match haDenied p s with
      | some (resp, s) => haRefuse p resp s
      | none =>
        let s := if s.haTie.all fun q => mcOf q.p.addr == k then s else haTieClose s
        { s with haTie := s.haTie ++ [{ p := p, ue := ue }] }
    if more then s else haPump (haTieClose s)

/-! ## Responses of the dies (R182) -/

/-- A snoop response from die d for a line: act on its transaction, or error code 0x2. -/
def haResponse (p : Packet) (act : HaTx → State → HaTx × State) (s : State) : State :=
  if s.behind p then s
  else
  let s := s.take (.pkt p)
  let a := lineOf p.addr
  let d := dieOfAgent p.src
  match haTxOf a s with
  | some t =>
    if t.snoops.contains d then
      let (t, s) := act { t with snoops := t.snoops.erase d } s
      haPump (haAdvance a (setHaTx t s))
    else haError (mcOf a) 2 a p.w p.part s
  | none => haError (mcOf a) 2 a p.w p.part s

/-- The data of a packet, if it carries any. -/
def pktLine (p : Packet) : Option (Line × BitVec 2) := if p.data then some (p.payload, p.poison) else none

/-- Die d leaves a line's entry. -/
def dirDrop (a d : Nat) (s : State) : State :=
  match dirFind a s with
  | none => s
  | some k =>
    let e := s.dirE k
    s.setDir k { e with pv := clrBit e.pv d, fdie := if e.fdie = d then 15 else e.fdie }

/-- A WbM: the owner's data is written to memory and acknowledged, and completes the transaction that waits for it; that of
a new owner may come before its CmpAck, which then leaves the line in U. From any other die it is discarded with error code
0x1 (R182). -/
def haWbM (p : Packet) (s : State) : State :=
  if s.behind p then s
  else
  let s := s.take (.pkt p)
  let a := lineOf p.addr
  let d := dieOfAgent p.src
  let e := dirEntryOf a s
  let ackWb (s : State) : State := sendTo
    { op := .wbAck, cls := p.cls, w := p.w, part := p.part, src := 0x100 + mcOf a, dst := p.src, tag := p.tag, addr := a } s
  if !(e.valid && e.ex && e.pv.testBit d) then
    ackWb (haError (mcOf a) 1 a p.w p.part s)
  else
    let s := ackWb (mcWrite a p.payload p.poison s)
    match haTxOf a s with
    | some t =>
      if t.ack then dirDrop a d s
      else haPump (haAdvance a (setHaTx { t with data := some (p.payload, p.poison), wbp := t.wbp.erase d, gone := true } s))
    | none =>
      match dirFind a s with
      | some k => haPump (s.setDir k {})
      | none => s

/-- An EvC: the die leaves the entry, and EvAck answers it (R182). -/
def haEvC (p : Packet) (s : State) : State :=
  if s.behind p then s
  else
  let s := s.take (.pkt p)
  let a := lineOf p.addr
  let d := dieOfAgent p.src
  let s := sendTo
    { op := .evAck, cls := p.cls, w := p.w, part := p.part, src := 0x100 + mcOf a, dst := p.src, tag := p.tag, addr := a } s
  match dirFind a s with
  | none => s
  | some k =>
    let e := s.dirE k
    if !e.pv.testBit d then s
    else
      match haTxOf a s with
      | some t =>
        let s := dirDrop a d s
        haPump (haAdvance a (setHaTx { t with gone := t.gone || e.ex } s))
      | none =>
        let s := dirDrop a d s
        if (s.dirE k).pv = 0 then haPump (s.setDir k {}) else s

/-- RspWbP: the home agent waits for that die's WbM, unless it has arrived (R182). -/
def haWbP (p : Packet) (s : State) : State :=
  haResponse p (fun t s =>
    let d := dieOfAgent p.src
    let s := s.satInc F.HA_STATUS_WBP_CNT (mcOf t.line)
    ({ t with wbp := if t.data.isSome then t.wbp else t.wbp ++ [d], gone := true }, s)) s

/-- CmpAck: the requester has installed the line; the transaction closes (R182, R185). -/
def haCmpAck (p : Packet) (s : State) : State :=
  if s.behind p then s
  else
  let s := s.take (.pkt p)
  let a := lineOf p.addr
  match haTxOf a s with
  | some t => if t.ack then haPump (haEnd t (dirEntryOf a s) s) else haError (mcOf a) 2 a p.w p.part s
  | none => haError (mcOf a) 2 a p.w p.part s

/-- A die lost: removed from every entry of every home agent; a line it owned becomes U with both halves in memory
poisoned, and error code 0x4 is recorded (R196). Its outstanding snoops are answered with RspI. -/
def haDieLost (n : Nat) (s : State) : State :=
  let s := iter 16 (fun k t => t.setFbit F.HA_DIE_STATE_ABSENT k n true) s
  let s := s.dir.foldl (fun t (key, e) =>
    if !e.valid || !e.pv.testBit n then t
    else
      let a := dirLine key e
      if e.ex then
        let ((d, _), t) := mcRead a 0 t
        let t := haError (mcOf a) 4 a e.w (dramPart a t) (mcWrite a d 0b11#2 t)
        if e.busy then t.setDir key { e with pv := 0 } else t.setDir key {}
      else
        let e' := { e with pv := clrBit e.pv n, fdie := if e.fdie = n then 15 else e.fdie }
        if e'.pv = 0 && !e.busy then t.setDir key {} else t.setDir key e') s
  let s := (s.haTx.filter fun t => t.snoops.contains n || t.wbp.contains n ||
      (t.ack && match t.req with
        | some p => dieOfAgent p.src == n
        | none => false)).foldl (fun s t =>
    match t.ack, t.req with
    | true, some _ => haEnd t { dirEntryOf t.line s with pv := clrBit (dirEntryOf t.line s).pv n } s
    | _, _ => haAdvance t.line
        (setHaTx { t with snoops := t.snoops.erase n, wbp := t.wbp.erase n, gone := true } s)) s
  haPump { s with haQ := s.haQ.filter fun q => dieOfAgent q.p.src != n }

/-- The walks of R373 go on: every idle entry of the old world is recalled. WALK_BUSY falls when none is left. -/
def worldWalk (s : State) : State :=
  let stale (s : State) : List (Nat × DirEntry) := s.dir.filter fun (k, e) => e.valid &&
    s.walks.any fun wk => regionHas wk.region (dirLine k e) s && e.w != wk.world
  let s := (stale s).foldl (fun t (k, e) => if e.busy then t else haRecall k false t) s
  let s := haPump s
  if (stale s).isEmpty then { (s.setB F.WC_STATUS_WALK_BUSY 0 false) with walks := [] } else s

/-- What a controller reads for a request that it holds: the line, or for an atomic that it performs itself the codeword that
holds the operand (R232). -/
def operandRead (q : McReq) (s : State) : (Line × BitVec 2) × State :=
  let s := mcDone q s
  match (haTxOf q.addr s).bind (·.req) with
  | some p =>
    if q.kind = 2 ∧ atomMemory q.addr s then
      let h := if maskTouches p.mask 0 then 0 else 1
      let ((d, po), s) := halfRead q.addr h 0 s
      ((lineOfHalves d d, if po then 3 else 0), s)
    else mcRead q.addr 0 s
  | none => mcRead q.addr 0 s

/-- A controller completes the read or the atomic that it holds for a line, and returns the data (R227, R232). -/
def mcReadDone (a : Nat) (s : State) : State :=
  match mcReady a s with
  | none => s
  | some q =>
    if q.kind = 1 then s
    else
      let ((d, po), s) := operandRead q s
      match haTxOf a s with
      | some t => haPump (haAdvance a (setHaTx { t with mem := 2, data := some (d, po) } s))
      | none => s

/-- Writes that a credit refill, a window or a burst releases are performed, and their transactions finish (R226, R229). -/
def mcWritesGo (s : State) : State :=
  haPump (s.mcq.foldl (fun t q =>
    if q.kind = 1 ∧ mcReady q.addr t = some q then
      match haTxOf q.addr t with
      | some x =>
        match x.req with
        | some p =>
          let t := mcMerge q.addr p.payload (ncMask p) p.poison (mcDone q t)
          haFinish { x with mem := 2 } t
        | none => t
      | none => t
    else t) s)

end Sys2Proof.Machine
end

