-- ==== Sys2Proof/Machine/Calendar.lean ====
section
/-! DEFINITION. The event calendar and the timed pins (R39, R47, R66 to R95, R602): matching, late firings, the due
queue, edit ports, cancellation, and the pin path. -/
namespace Sys2Proof.Machine

/-! ## Phase values (R39) -/

/-- A is after B. -/
def phAfter (a b : Word) : Bool := decide (0 < (a - b).toInt)

/-- A is before B. -/
def phBefore (a b : Word) : Bool := decide ((a - b).toInt < 0)

/-- Bits hi to lo of a word set to x. -/
def setBits (w : Word) (hi lo x : Nat) : Word := fset ⟨.PHE_TB, hi, lo⟩ w x

/-- The hidden state of a phase port. -/
def State.port (s : State) (n : Nat) : PortAux := smapGet (fun _ => {}) s.ports n

/-- The hidden state of a phase port changed. -/
def State.setPort (s : State) (n : Nat) (p : PortAux) : State :=
  { s with ports := smapSet (fun _ => {}) s.ports n p }

/-- A calendar entry. -/
def State.calE (s : State) (e : Nat) : CalEntry := smapGet (fun _ => {}) s.cal e

/-- A calendar entry changed. -/
def State.setCalE (s : State) (e : Nat) (c : CalEntry) : State :=
  { s with cal := smapSet (fun _ => {}) s.cal e c }

/-- The hidden state of a pin. -/
def State.pin (s : State) (i : Nat) : Pin := smapGet (fun _ => {}) s.pins i

/-- The hidden state of a pin changed. -/
def State.setPin (s : State) (i : Nat) (p : Pin) : State := { s with pins := smapSet (fun _ => {}) s.pins i p }

/-- The count that an entry's SOURCE names: a port's phase count or the device timebase (R69). -/
def sourceCount (src : Nat) (s : State) : Word := if src < 8 then s.r .PHE_PORT_PHASE src else s.tb

/-- The count from which the source's present movement started; port 8 stands for the timebase. -/
def sourcePrev (src : Nat) (s : State) : Word := (s.port src).prev

/-- A port in OFF or ACQUIRE fires nothing (R73); the timebase always runs. -/
def sourceLive (src : Nat) (s : State) : Bool := decide (8 ≤ src) || decide (2 ≤ s.f F.PHE_PORT_STATUS_STATE src)

/-- The source is a quadrature encoder port. -/
def sourceEncoder (src : Nat) (s : State) : Bool := decide (src < 8) && s.f F.PHE_PORT_CFG_KIND src == 1

/-- KIND of a port: 1 encoder, 2 periodic pulse, 3 1PPS, 4 Paleg, 5 synthetic. -/
def portKind (n : Nat) (s : State) : Nat := s.f F.PHE_PORT_CFG_KIND n

/-- STATE of a port: 0 OFF, 1 ACQUIRE, 2 LOCKED, 3 HOLDOVER, 4 FREE, 5 HOLD_WAIT. -/
def portState (n : Nat) (s : State) : Nat := s.f F.PHE_PORT_STATUS_STATE n

/-- Pulses or counts per cycle; a 1PPS port has one (R44). -/
def portCPC (n : Nat) (s : State) : Nat := if portKind n s = 3 then 1 else max 1 (s.f F.PHE_PORT_CFG_CPC n)

/-- The fraction of boundary k within a cycle, floor(k * 2^32 / CPC) (R44, R52). -/
def boundaryFrac (cpc k : Nat) : Nat := k * 2 ^ 32 / cpc

/-- The position within a cycle of a fraction: the highest boundary at or below it (R52). -/
def positionOf (cpc frac : Nat) : Nat :=
  let k := frac * cpc / 2 ^ 32
  if boundaryFrac cpc (k + 1) ≤ frac then k + 1 else k

/-- Boundary k of the cycle whose count is cyc:0. -/
def boundaryAt (cpc : Nat) (cyc : Int) (k : Nat) : Word :=
  BitVec.ofInt 64 ((cyc + (k / cpc : Nat)) * 2 ^ 32 + boundaryFrac cpc (k % cpc))

/-- Where the interpolation of an encoder port in LOCKED stops: short of the next boundary in the direction of travel
(R53). Other ports and states have no such limit. -/
def encLimit (n : Nat) (s : State) : Option Word :=
  let p := s.port n
  if portKind n s = 1 ∧ portState n s = 2 then
    if s.b F.PHE_PORT_STATUS_DIR n then some (boundaryAt (portCPC n s) p.encCyc.toNat p.encPos + 1)
    else some (boundaryAt (portCPC n s) p.encCyc.toNat (p.encPos + 1) - 1)
  else none

/-- A count held short of a limit in the direction of travel (R53). -/
def stopAt (lim : Option Word) (rev : Bool) (c : Word) : Word :=
  match lim with
  | none => c
  | some l => if (if rev then phBefore c l else phAfter c l) then l else c

/-- The interpolated count of port n at timestamp ts (R47, R53). -/
def portInterp (n : Nat) (ts : Word) (s : State) : Word :=
  let move := divFree s.freeBit (((s.r .PHE_PORT_INC n).toNat : Int) * (ts - s.tb).toInt) (16 * 2 ^ 32)
  let c := s.r .PHE_PORT_PHASE n
  let rev := s.b F.PHE_PORT_STATUS_DIR n
  stopAt (encLimit n s) rev (if rev then c - BitVec.ofInt 64 move else c + BitVec.ofInt 64 move)

/-! ## Entry fields (R69) -/

/-- VALID of W2. -/
def calValid (w2 : Word) : Bool := bit w2 63
/-- PRIO of W2. -/
def calPrio (w2 : Word) : Nat := bits w2 55 53
/-- SOURCE of W2. -/
def calSource (w2 : Word) : Nat := bits w2 52 49
/-- DIR of W2. -/
def calDir (w2 : Word) : Nat := bits w2 48 47
/-- SKIP_LATE of W2. -/
def calSkip (w2 : Word) : Bool := bit w2 46
/-- ACTION of W2. -/
def calAction (w2 : Word) : Nat := bits w2 43 40
/-- REPEAT of W2. -/
def calRepeat (w2 : Word) : Nat := bits w2 31 16

/-- World of the entry's block (R66). -/
def blkWorld (e : Nat) (s : State) : Bool := s.b F.PHE_CAL_BLOCK_WORLD (e / 256)
/-- Partition of the entry's block (R66). -/
def blkPart (e : Nat) (s : State) : Nat := s.f F.PHE_CAL_BLOCK_PART (e / 256)
/-- The block is open: neither cancelled nor waiting for its cancellation (R86). -/
def blkOpen (e : Nat) (s : State) : Bool := s.b F.PHE_CAL_BLOCK_ENABLE (e / 256)

/-- Crossing of PHASE by a count that moves from c0 to c1, in a direction that DIR allows (R72). -/
def crosses (dir : Nat) (c0 c1 ph : Word) : Bool :=
  let fwd := phAfter ph c0 && !phBefore c1 ph
  let rev := phBefore ph c0 && !phAfter c1 ph
  if dir = 0 then fwd else if dir = 1 then rev else fwd || rev

/-- The count has passed PHASE in the entry's direction, as R74 judges an entry left behind. A PHASE exactly 2^31 cycles
ahead in that direction counts as passed (R598). -/
def leftBehind (dir : Nat) (enc : Bool) (c ph : Word) : Bool :=
  if dir = 0 then phBefore ph c else if dir = 1 then phBefore c ph else phBefore ph c && !enc

/-! ## Errors and the due queue -/

/-- A calendar error logged in PHE_CAL_ERR (R94). -/
def calErr (e code : Nat) (s : State) : State :=
  let s := s.satInc F.PHE_CAL_ERR_COUNT 0
  let s := s.setF F.PHE_CAL_ERR_CODE 0 code
  let s := s.setF F.PHE_CAL_ERR_ENTRY 0 e
  let s := s.setR .PHE_CAL_ERR_TB 0 s.tb
  s.setB F.PHE_CAL_STATUS_ERR 0 true

/-- The due queue changed, with DUE and DUE_MAX. -/
def setDue (q : List Firing) (s : State) : State :=
  let s := { s with due := q }
  let s := s.setF F.PHE_CAL_STATUS_DUE 0 q.length
  if s.f F.PHE_CAL_STATUS_DUE_MAX 0 < q.length then s.setF F.PHE_CAL_STATUS_DUE_MAX 0 q.length else s

/-- The order of R78: higher PRIO, then earlier match instant, then lower index. -/
def firingFirst (f g : Firing) : Bool :=
  if calPrio f.w2 ≠ calPrio g.w2 then decide (calPrio g.w2 < calPrio f.w2)
  else if f.inst ≠ g.inst then phBefore f.inst g.inst
  else decide (f.entry < g.entry)

/-- A firing put into its place of a list kept in the order of R78. -/
def firingInsert (f : Firing) : List Firing → List Firing
  | [] => [f]
  | g :: r => if firingFirst f g then f :: g :: r else g :: firingInsert f r

/-- A late firing that SKIP_LATE discards (R77). -/
def discardLate (e : Nat) (s : State) : State :=
  let c := s.calE e
  let m := bits c.w2 39 32
  calErr e 5 (s.setCalE e { c with w2 := setBits c.w2 39 32 (min (m + 1) 255) })

/-- LATE set in the entry (R77). -/
def markLate (e : Nat) (s : State) : State :=
  let c := s.calE e
  s.setCalE e { c with w2 := setBits c.w2 44 44 1 }

/-- The oldest n held firings enter the due queue (R79). -/
def heldMove (n : Nat) (s : State) : State :=
  if s.calHeld.isEmpty then s
  else setDue (s.due ++ s.calHeld.take n) { s with calHeld := s.calHeld.drop n }

/-- Held firings enter the due queue as far as it has room (R79). -/
def dueFill (s : State) : State := heldMove (4096 - s.due.length) s

/-- A firing enters the due queue, behind those held before it. A full queue is logged, and the firing is late by case 4 of
R77: discarded by SKIP_LATE, or held in its entry until the queue has room (R77 to R79). Of the two error codes of a
discarded firing 0x5 is the later (DEDUCED). -/
def dueEnqueue (f : Firing) (s : State) : State :=
  let s := dueFill s
  if s.due.length < 4096 then setDue (s.due ++ [f]) s
  else
    let s := markLate f.entry (calErr f.entry 6 (s.setB F.PHE_CAL_STATUS_OVERFLOW 0 true))
    if calSkip f.w2 then discardLate f.entry s else { s with calHeld := s.calHeld ++ [{ f with late := true }] }

/-! ## Targets (R70, R71) -/

/-- The action's target belongs to partition part and world w. -/
def calTargetOk (w2 w3 : Word) (w : Bool) (part : Nat) (s : State) : Bool :=
  match calAction w2 with
  | 1 =>
    let i := bits w3 5 0
    let m := s.f F.TIO_PIN_CFG_MODE i
    (m == 1 || m == 3) && s.f F.TIO_PIN_CFG_PART i == part && s.b F.TIO_PIN_CFG_WORLD i == w
  | 2 => let h := bits w3 7 0; hartExists h s && hartPart h s == part
  | 3 =>
    let c := bits w3 7 0
    s.b F.DE_CH_CFG_EN c && s.f F.DE_CH_CFG_PART c == part && s.b F.DE_CH_CFG_WORLD c == w
  | 4 => let n := bits w3 5 0; winF F.FAB_RSV_CFG_EN n s == 1 && winF F.FAB_RSV_CFG_PART n s == part
  | 5 => part == 0
  | 6 =>
    let h := bits w3 7 0
    let g := bits w3 13 8
    hartExists h s &&
      (if bit w3 15 then part == 0 else decide (g ≤ 7) && !w && (if g = 0 then part == 0 else hartPart h s == part))
  | _ => true

/-- A dispatch reaches only a hart whose current world is the entry's (R144). -/
def dispatchWorldOk (w2 w3 : Word) (w : Bool) (s : State) : Bool :=
  calAction w2 != 2 || (smapGet (fun _ => ({} : Hart)) s.harts (bits w3 7 0)).w == w

/-- A field value that an edit WRITE rejects (R69, R70). -/
def calInvalid (w1 w2 w3 : Word) : Bool :=
  decide (8 < calSource w2) || calDir w2 == 3 || (calDir w2 == 2 && w1 != 0) || decide (6 < calAction w2)
    || (calAction w2 == 3 && decide (2 ≤ bits w3 9 8)) || (calAction w2 == 6 && bits w3 26 16 == 0)

/-- A Paleg message sent on port n: it leaves an ACTIVE port, and waits in the port's queue of 64 otherwise (R83,
R490). A tree broadcast leaves only on a DOWN port. -/
def plSend (n : Nat) (c : PlCell) (s : State) : State :=
  let tree := bits (BitVec.ofNat 64 c.addr) 35 32 = 15
  let zd64 := s.b F.PL_PORT_CFG_MODE n
  if tree ∧ (s.f F.PL_PORT_CFG_ROLE n ≠ 2 ∨ zd64) then s.satInc F.PL_GSTATUS_MSG_LOST 0
  else if s.f F.PL_PORT_STATUS_STATE n = 3 ∨ (zd64 ∧ !tree ∧ 255 < c.dest) then s.satInc F.PL_PORT_ERRCNT_DISCARD n
  else if s.f F.PL_PORT_STATUS_STATE n = 2 then s.send (.cell n c)
  else
    let q := smapGet (fun _ => []) s.plQ n
    if q.length < 64 then { s with plQ := smapSet (fun _ => []) s.plQ n (q ++ [c]) }
    else s.satInc F.PL_GSTATUS_MSG_LOST 0

/-- The file that MACHINE and FILE of R70 name: 8 the Open machine file, 9 the Secure file. -/
def calFile (machine : Bool) (file : Nat) (w : Bool) : Nat := if machine then (if w then 9 else 8) else file

/-- The agent ID of the PHE (R266). -/
def pheAgent : Nat := 0x128

/-- A serviced firing goes to its target, or is suppressed when the target's die or clock is down (R70, R83, R318,
R524). -/
def calDeliver (f : Firing) (s : State) : State :=
  let w := blkWorld f.entry s
  let part := blkPart f.entry s
  let o := f.w3
  match calAction f.w2 with
  | 2 =>
    let n := hartDie (bits o 7 0) s
    let waiting := s.out.countP fun m => match m with
      | .dispatch h .. => hartDie h s == n
      | _ => false
    if dieOn n s && (bridgeActive n s || decide (waiting < 16)) then
      s.send (.dispatch (bits o 7 0) (bits o 15 8) (BitVec.ofNat 32 (bits o 63 32)) f.phase f.inst f.entry
        (calSource f.w2) f.late w part)
    else calErr f.entry 2 s
  | 3 =>
    if unitOff (268 + bits o 7 6) s then calErr f.entry 2 s
    else if bits o 9 8 = 0 then s.send (.dmaStart (bits o 7 0) w part)
    else s.send (.dmaUnblock (bits o 7 0) (bits o 14 12) w part)
  | 4 => { s with winPend := smapSet (fun _ => none) s.winPend (bits o 5 0) (some (!bit o 8, some f.inst)) }
  | 5 =>
    if unitOff (280 + bits o 2 0) s then calErr f.entry 2 s
    else plSend (bits o 2 0)
      { ty := 4, prio := true, w := w, src := s.f F.PL_NODE_ID 0, dest := bits o 27 16,
        addr := bits o 7 4 * 2 ^ 32 + bits o 63 32 } s
  | 6 =>
    if dieOn (hartDie (bits o 7 0) s) s then
      s.send (.imsic (bits o 7 0) (calFile (bit o 15) (bits o 13 8) w) (bits o 26 16) w part pheAgent)
    else calErr f.entry 2 s
  | _ => s

/-- One eligible firing taken from the due queue: late by case 5 of R77, suppressed under R71 or R86, or delivered. -/
def dueServiceWhere (elig : Firing → Bool) (s : State) : State :=
  match (s.due.filter elig).foldr firingInsert [] with
  | [] => s
  | f :: _ =>
    let s := setDue (s.due.erase f) s
    let lim := max 1 (s.f F.PHE_CAL_CTRL_LATE_LIMIT 0)
    let late5 := decide ((16 * lim : Int) ≤ (s.tb - f.inst).toInt)
    if !blkOpen f.entry s then s
    else
      let s := if late5 then markLate f.entry s else s
      if late5 && calSkip f.w2 then discardLate f.entry s
      else if calTargetOk f.w2 f.w3 (blkWorld f.entry s) (blkPart f.entry s) s &&
          dispatchWorldOk f.w2 f.w3 (blkWorld f.entry s) s then
        calDeliver { f with late := f.late || late5 } s
      else calErr f.entry 1 s

/-- One firing taken from the due queue. -/
def dueServiceOne (s : State) : State := dueServiceWhere (fun _ => true) s

/-! ## The pin path (R90) -/

/-- A pin accepts a calendar edge, or drops it with PINCONF and error code 0x4. -/
def pinAccept (i : Nat) (ed : PinEdge) (s : State) : State :=
  let p := s.pin i
  let late := match p.latest with
    | none => false
    | some t => decide ((ed.time - t).toInt < 64)
  if late then calErr ed.entry 4 (s.setB F.TIO_PIN_STATUS_PINCONF i true)
  else
    let last := if ed.op = 3 then ed.time + BitVec.ofNat 64 ed.width else ed.time
    s.setPin i { p with edges := p.edges ++ [ed], latest := some last }

/-- The pin edge of a firing: 2.5 ns after the match instant (R81, R82). -/
def pinEdgeOf (f : Firing) : PinEdge :=
  { time := f.inst + 80, op := bits f.w3 9 8, width := max 64 (bits f.w3 31 16), level := false, entry := f.entry }

/-! ## Firing (R71 to R77) -/

/-- The bats whose trigger an entry's match is (R295, R296). -/
def batTriggers (e : Nat) (s : State) : State :=
  if blkWorld e s && !effSNI s then s
  else iter 112 (fun i t =>
    if (t.f F.BAT_TRIG_START_SRC i = 1 ∧ t.f F.BAT_TRIG_START_ENTRY i = e) ∨
       (t.f F.BAT_TRIG_STOP_SRC i = 1 ∧ t.f F.BAT_TRIG_STOP_ENTRY i = e)
    then t.send (.batTrig i e) else t) s

/-- The update of R76 and the flags of R69 at a match in the PHS cycle that starts at t0: late sets LATE. -/
def calUpdate (t0 : Word) (e : Nat) (late : Bool) (c1 : Word) (s : State) : State :=
  let c := s.calE e
  let per := c.w1
  let rep := calRepeat c.w2
  let w0 := if per = 0 then c.w0 else if calDir c.w2 = 1 then c.w0 - per else c.w0 + per
  let last := per == 0 || rep == 1
  let w2 := setBits c.w2 45 45 1
  let w2 := if late then setBits w2 44 44 1 else w2
  let w2 := if last then setBits w2 63 63 0 else w2
  let w2 := if per ≠ 0 ∧ rep ≠ 0 then setBits w2 31 16 (rep - 1) else w2
  let again := !last && (if calDir c.w2 = 1 then !phAfter c1 w0 else !phAfter w0 c1)
  s.setCalE e { c with w0 := w0, w2 := w2, owed := again, fired := some t0 }

/-- What becomes of a firing: discarded by SKIP_LATE, suppressed, handed to the pin path, or queued (R71, R77, R78). -/
def calPerform (f : Firing) (s : State) : State :=
  if !blkOpen f.entry s then s
  else if f.late && calSkip f.w2 then discardLate f.entry s
  else match calAction f.w2 with
    | 0 => s
    | 1 =>
      if calTargetOk f.w2 f.w3 (blkWorld f.entry s) (blkPart f.entry s) s then
        pinAccept (bits f.w3 5 0) (pinEdgeOf f) s
      else calErr f.entry 1 s
    | _ => dueEnqueue f s

/-- An entry fires at instant inst in the PHS cycle that starts at t0; c1 is the count it is matched against. An entry that
has fired in this cycle is matched in the next, late (R76). -/
def calFire (t0 : Word) (e : Nat) (late : Bool) (inst c1 : Word) (s : State) : State :=
  let c := s.calE e
  if c.fired = some t0 then s.setCalE e { c with owed := true }
  else
    let f : Firing := { entry := e, w2 := c.w2, w3 := c.w3, phase := c.w0, inst := inst, late := late, cyc := t0 }
    calPerform f (batTriggers e (calUpdate t0 e late c1 s))

/-- The match instant of PHASE on a count that moved from c0 to c1 in the PHS cycle that starts at t0, to the nearest 1/16
of the cycle (R75). -/
def matchInstant (t0 c0 c1 ph : Word) : Word :=
  let d := (c1 - c0).toInt.natAbs
  let x := (ph - c0).toInt.natAbs
  if d = 0 then t0 else t0 + BitVec.ofNat 64 ((32 * x + d) / (2 * d))

/-- EDGE_COMP applies to a pin entry (R82). -/
def pinComp (w2 : Word) (s : State) : Bool := calAction w2 == 1 && s.b F.PHE_CAL_CTRL_EDGE_COMP 0

/-- The count of a source 5 PHS cycles ahead at the current rate, in units of 2^-64 cycle, and for the timebase of 2^-32 of
its unit (R82). -/
def aheadFull (src : Nat) (s : State) : Int :=
  if src < 8 then
    let c : Int := ((s.r .PHE_PORT_PHASE src).toNat : Int) * 2 ^ 32 + (s.port src).sub.toNat
    let d : Int := 5 * (s.r .PHE_PORT_INC src).toNat
    if s.b F.PHE_PORT_STATUS_DIR src then c - d else c + d
  else ((s.tb + 80).toNat : Int) * 2 ^ 32

/-- The extrapolated count, short of an encoder's next boundary (R53, R82). -/
def aheadCount (src : Nat) (s : State) : Word :=
  let a := BitVec.ofInt 64 (aheadFull src s / 2 ^ 32)
  if src < 8 then stopAt (encLimit src s) (s.b F.PHE_PORT_STATUS_DIR src) a else a

/-- The match instant of a foreseen entry: 5 PHS cycles before the count, which at the end of the cycle stands at t1,
reaches PHASE at the current rate, to the nearest 1/16 of a cycle (R82). -/
def aheadInstant (src : Nat) (t1 ph : Word) (s : State) : Word :=
  let rate : Int := if src < 8 then (s.r .PHE_PORT_INC src).toNat else 16 * 2 ^ 32
  let past : Int := (aheadFull src s - (ph.toNat : Int) * 2 ^ 32 + 2 ^ 95) % 2 ^ 96 - 2 ^ 95
  if rate = 0 then t1 else t1 - BitVec.ofNat 64 ((32 * past.natAbs + rate.toNat) / (2 * rate.toNat))

/-- How an armed entry matches on the present movement of its source, in the PHS cycle that starts at t0, if it does:
whether late, and the match instant (R72, R75, R77, R82). -/
def calDueMatch (t0 : Word) (e : Nat) (s : State) : Option (Bool × Word) :=
  let c := s.calE e
  let src := calSource c.w2
  let c0 := sourcePrev src s
  let c1 := sourceCount src s
  if !calValid c.w2 || !s.b F.PHE_CAL_CTRL_ENABLE 0 || !sourceLive src s then none
  else if c.owed then some (true, t0)
  else if pinComp c.w2 s && crosses (calDir c.w2) (s.port src).ahead (aheadCount src s) c.w0 then
    some (false, aheadInstant src (t0 + 16) c.w0 s)
  else if crosses (calDir c.w2) c0 c1 c.w0 then some (false, matchInstant t0 c0 c1 c.w0)
  else none

/-- The match of one entry, if its phase is crossed or owed. -/
def calMatchOne (t0 : Word) (e : Nat) (s : State) : State :=
  match calDueMatch t0 e s with
  | none => s
  | some (late, inst) => calFire t0 e late inst (sourceCount (calSource (s.calE e).w2) s) s

/-- The entries that a test matches, as firings in the order of R78, which is also the order in which a pin takes the edges
of one PHS cycle (R90). -/
def firingOrder (t0 : Word) (m : Nat → CalEntry → Option (Bool × Word)) (s : State) : List Firing :=
  (s.cal.filterMap fun (e, c) => (m e c).map fun (late, inst) =>
    ({ entry := e, w2 := c.w2, w3 := c.w3, phase := c.w0, inst := inst, late := late, cyc := t0 } : Firing)).foldr
      firingInsert []

/-- The entries that match on the present movement of the sources of a list. -/
def matchOrder (t0 : Word) (srcs : List Nat) (s : State) : List Firing :=
  firingOrder t0 (fun e c => if srcs.contains (calSource c.w2) then calDueMatch t0 e s else none) s

/-- Armed entries of one source that a test selects fire, late or at their instant. -/
def fireWhere (t0 : Word) (src : Nat) (late : Bool) (inst c1 : Word) (sel : CalEntry → Bool) (s : State) : State :=
  (firingOrder t0 (fun _ c => if calValid c.w2 ∧ calSource c.w2 = src ∧ sel c then some (late, inst) else none) s).foldl
    (fun t f => calFire t0 f.entry late inst c1 t) s

/-! ## Timed stores in the PHE (R127, R128, R131) -/

/-- The timed store queue of a hart. -/
def State.tsQ (s : State) (h : Nat) : List TsEntry := smapGet (fun _ => []) s.tsq h

/-- The PHE_TSQ instance of hart h in world w (R145). -/
def tsIx (h : Nat) (w : Bool) : Nat := 2 * h + (if w then 1 else 0)

/-- The timed store queue of a hart changed, with PENDING of both worlds (R145). -/
def State.setTsQ (s : State) (h : Nat) (q : List TsEntry) : State :=
  let s : State := { s with tsq := smapSet (fun _ => []) s.tsq h q }
  let n (w : Bool) : Nat := q.countP fun e => decide (1 ≤ e.stage) && e.info.w == w
  (s.setF F.PHE_TSQ_STATUS_PENDING (tsIx h false) (n false)).setF F.PHE_TSQ_STATUS_PENDING (tsIx h true) (n true)

/-- A pending entry matched: in time it waits for its commit slot; late it is counted, and committed or discarded by LD
(R127). -/
def tsMatch (h : Nat) (e : TsEntry) (late : Bool) (inst : Word) (s : State) : State :=
  let j := tsIx h e.info.w
  let s := if late then (s.setB F.PHE_TSQ_STATUS_LATE j true).satInc F.PHE_TSQ_STATUS_LATE_CNT j else s
  if late && e.info.ld then
    (s.satInc F.PHE_TSQ_STATUS_DISC_CNT j).setTsQ h ((s.tsQ h).filter fun x => x.id != e.id)
  else s.setTsQ h ((s.tsQ h).map fun x => if x.id = e.id then { x with stage := 2, inst := inst } else x)

/-- The timed stores that wait on port n, with their harts. -/
def tsWaiting (n : Nat) (s : State) : List (Nat × TsEntry) :=
  s.tsq.flatMap fun (h, q) => (q.filter fun e => e.stage == 1 && e.info.src == n).map fun e => (h, e)

/-- Every pending timed store on port n that the test selects is matched. -/
def tsSweep (n : Nat) (late : Bool) (inst : TsEntry → Word) (sel : TsEntry → Bool) (s : State) : State :=
  ((tsWaiting n s).filter fun x => sel x.2).foldl (fun t x => tsMatch x.1 x.2 late (inst x.2) t) s

/-- The present movement of a source is closed: the timed stores it crosses match, and what follows moves the count from
where it now is. -/
def closeMove (t0 : Word) (src : Nat) (s : State) : State :=
  let c0 := sourcePrev src s
  let c1 := sourceCount src s
  let s := if src < 8 ∧ sourceLive src s then
      tsSweep src false (fun e => matchInstant t0 c0 c1 e.info.phase) (fun e => crosses 0 c0 c1 e.info.phase) s
    else s
  s.setPort src { s.port src with prev := c1, ahead := aheadCount src s }

/-- Every entry of the listed sources that their present movements cross fires, in the order of R78, and the movements are
closed. -/
def settleAll (t0 : Word) (srcs : List Nat) (s : State) : State :=
  srcs.foldl (fun t n => closeMove t0 n t) ((matchOrder t0 srcs s).foldl (fun t f => calMatchOne t0 f.entry t) s)

/-- The movement of one source settled in the PHS cycle that is now running. -/
def settle (src : Nat) (s : State) : State := settleAll s.tb [src] s

/-- A port's count set to c1 by a jump or an edge, with what the extrapolation of R82 has reached. -/
def moveCount (src : Nat) (c1 : Word) (s : State) : State :=
  let a := (s.port src).ahead
  let seen := if s.b F.PHE_PORT_STATUS_DIR src then phBefore a c1 else phAfter a c1
  (s.setR .PHE_PORT_PHASE src c1).setPort src { s.port src with prev := c1, ahead := if seen then a else c1 }

/-- A jump of a port's count from c0 to c1: every entry it passes fires late, at the start of the cycle (R73, R75). -/
def jumpFire (src : Nat) (c0 c1 : Word) (s : State) : State :=
  let s := if src < 8 then tsSweep src true (fun _ => s.tb) (fun e => crosses 0 c0 c1 e.info.phase) s else s
  if !s.b F.PHE_CAL_CTRL_ENABLE 0 then s
  else fireWhere s.tb src true s.tb c1 (fun c => crosses (calDir c.w2) c0 c1 c.w0) s

/-- A count edge of an encoder moves the count from c0 to c1: an ordinary crossing, placed at the edge (R73, R75). -/
def edgeFire (src : Nat) (c0 c1 ts : Word) (s : State) : State :=
  let s := if src < 8 ∧ sourceLive src s then
      tsSweep src false (fun _ => ts) (fun e => crosses 0 c0 c1 e.info.phase) s else s
  if !s.b F.PHE_CAL_CTRL_ENABLE 0 || !sourceLive src s then s
  else fireWhere s.tb src false ts c1 (fun c => crosses (calDir c.w2) c0 c1 c.w0) s

/-- PHASE moved by whole periods to the last step not ahead of the count (R74). -/
def lastStep (dir : Nat) (c ph per : Word) : Word :=
  if per = 0 then ph
  else if dir = 1 then ph - BitVec.ofNat 64 ((ph - c).toNat / per.toNat) * per
  else ph + BitVec.ofNat 64 ((c - ph).toNat / per.toNat) * per

/-- The examination of R74 on the listed sources, against their present counts: each armed entry left behind gives one late
firing by case 6, in the order of R78, and the others stay armed until the count crosses them. -/
def examine (srcs : List Nat) (s : State) : State :=
  if !s.b F.PHE_CAL_CTRL_ENABLE 0 then s
  else
    let on (x : CalEntry) : Bool := calValid x.w2 && srcs.contains (calSource x.w2) && sourceLive (calSource x.w2) s
    (firingOrder s.tb (fun _ x => if on x then some (true, s.tb) else none) s).foldl (fun t f =>
      let x := { t.calE f.entry with owed := false }
      let src := calSource x.w2
      let c := sourceCount src s
      if leftBehind (calDir x.w2) (sourceEncoder src s) c x.w0 then
        calFire t.tb f.entry true t.tb c (t.setCalE f.entry { x with w0 := lastStep (calDir x.w2) c x.w0 x.w1 })
      else t.setCalE f.entry x) s

/-- A port's count loaded (R73, R74): it crosses nothing, and the entries left behind fire late. -/
def countLoad (n : Nat) (c : Word) (s : State) : State :=
  let s := settle n s
  let s := s.setR .PHE_PORT_PHASE n c
  let s := s.setPort n { s.port n with prev := c, sub := 0, ahead := c }
  let s := tsSweep n true (fun _ => s.tb) (fun e => phBefore e.info.phase c) s
  examine [n] s

/-! ## Calendar control -/

/-- A write of PHE_CAL_CTRL by a source that may write it (R74, R94). -/
def calCtrlWrite (v : Word) (s : State) : State :=
  let was := s.b F.PHE_CAL_CTRL_ENABLE 0
  let s := ((s.setF F.PHE_CAL_CTRL_LATE_LIMIT 0 (bits v 15 8)).setF F.PHE_CAL_CTRL_EDGE_COMP 0 (bits v 1 1))
  if bit v 0 then
    if was then s else examine (List.range 9) (settleAll s.tb (List.range 9) s |>.setB F.PHE_CAL_CTRL_ENABLE 0 true)
  else
    let s := if was then settleAll s.tb (List.range 9) s else s
    s.setB F.PHE_CAL_CTRL_ENABLE 0 false

/-- A cancellation of block b waits or runs. -/
def cancelling (b : Nat) (s : State) : Bool := s.cancelQ.contains b || s.cancelRun == some b

/-- CANCEL_BUSY follows the cancellations (R86). -/
def setCancelBusy (s : State) : State :=
  s.setB F.PHE_CAL_STATUS_CANCEL_BUSY 0 (!s.cancelQ.isEmpty || s.cancelRun.isSome)

/-- A cancellation of block b requested: ENABLE reads 0 from here on (R86). -/
def requestCancel (b : Nat) (s : State) : State :=
  if s.b F.PHE_CAL_BLOCK_ENABLE b then
    setCancelBusy (({ s with cancelQ := s.cancelQ ++ [b] } : State).setB F.PHE_CAL_BLOCK_ENABLE b false)
  else s

/-- Some entry of block b is armed. -/
def blockArmed (b : Nat) (s : State) : Bool := s.cal.any fun (e, c) => e / 256 == b && calValid c.w2

/-- A write of PHE_CAL_BLOCK(b) that passed the access check (R67, R87). -/
def calBlockWrite (a : Access) (b : Nat) (v : Word) (s : State) : State :=
  let bw := s.b F.PHE_CAL_BLOCK_WORLD b
  let p0 := a.part == 0
  let newW := if a.world && p0 then bit v 63 else bw
  let worldOnly := a.world && p0 && !bw
  let newP := if p0 && !worldOnly then bits v 13 8 else s.f F.PHE_CAL_BLOCK_PART b
  let moves := newW != bw || newP != s.f F.PHE_CAL_BLOCK_PART b
  if p0 && !worldOnly && assigns F.PHE_CAL_BLOCK_PART b v s then pqErr s
  else if moves && blockArmed b s then s.setB F.PHE_CAL_STATUS_CFGERR 0 true
  else if !worldOnly && bit v 0 && cancelling b s then s.setB F.PHE_CAL_STATUS_CFGERR 0 true
  else
    let s := (s.setB F.PHE_CAL_BLOCK_WORLD b newW).setF F.PHE_CAL_BLOCK_PART b newP
    if worldOnly then s
    else if bit v 0 then s.setB F.PHE_CAL_BLOCK_ENABLE b true
    else requestCancel b s

/-- The next block's cancellation takes its turn (R86). -/
def cancelStart (s : State) : State :=
  match s.cancelRun, s.cancelQ with
  | none, b :: r => setCancelBusy { s with cancelRun := some b, cancelQ := r }
  | _, _ => s

/-- The running cancellation ends: every entry of the block cleared, its queued firings purged, its unplaced pin edges
discarded; a block that a partition reset cancelled opens again (R86, R88). -/
def cancelDone (s : State) : State :=
  match s.cancelRun with
  | none => s
  | some b =>
    let es := s.cal.filterMap fun (e, c) => if e / 256 = b ∧ calValid c.w2 then some e else none
    let s := es.foldl (fun t e =>
      let c := t.calE e
      t.setCalE e { c with w2 := setBits c.w2 63 63 0, owed := false }) s
    let s := setDue (s.due.filter fun f => f.entry / 256 != b) s
    let s := { s with calHeld := s.calHeld.filter fun f => f.entry / 256 != b }
    let s := iter 64 (fun i t =>
      let p := t.pin i
      t.setPin i { p with edges := p.edges.filter fun ed => ed.entry / 256 != b }) s
    let s := if s.cancelReopen.contains b then s.setB F.PHE_CAL_BLOCK_ENABLE b true else s
    setCancelBusy { s with cancelRun := none, cancelReopen := s.cancelReopen.erase b }

/-! ## Edit ports (R68, R84, R85) -/

/-- The status of an edit command. PURGED tells of the last DISARM with PURGE, and no other command changes it (R94). -/
def editStatus (k st : Nat) (s : State) : State := s.setF F.PHE_CAL_EDIT_STATUS_STATUS k st

/-- An edit command of port k on the entry that PHE_CAL_IDX names: DENIED outside the port's own blocks, BUSY while a
cancellation covers the block, DENIED on a closed block, and otherwise act. A foreign block under cancellation answers
DENIED (DESIGN CHOICE). -/
def editGuard (k : Nat) (act : Nat → State → State) (s : State) : State :=
  let e := s.f F.PHE_CAL_IDX_VAL k
  if blkPart e s ≠ k / 2 ∨ blkWorld e s ≠ (k % 2 == 1) then editStatus k 2 s
  else if cancelling (e / 256) s then editStatus k 1 s
  else if !blkOpen e s then editStatus k 2 s
  else act e s

/-- READ: the entry into the staging words, with the world and partition of its block. -/
def editRead (k : Nat) : State → State := editGuard k fun e s =>
  let c := s.calE e
  let w2 := setBits (setBits c.w2 62 62 (if blkWorld e s then 1 else 0)) 61 56 (blkPart e s)
  let s := ((s.setR .PHE_CAL_W0 k c.w0).setR .PHE_CAL_W1 k c.w1).setR .PHE_CAL_W2 k w2
  editStatus k 0 (s.setR .PHE_CAL_W3 k c.w3)

/-- The W2 that a WRITE commits: the software fields of the staged word, the hardware fields clear (R69). -/
def editW2 (v : Word) : Word :=
  setBits (setBits (setBits (setBits v 62 56 0) 45 44 0) 39 32 0) 15 0 0

/-- WRITE: the staged words into the entry, when their fields and their target pass (R69 to R71, R84). A WRITE that
earns both answers gets INVALID (DESIGN CHOICE). The reserved bits of OPERAND are kept as written and READ returns them
(DESIGN CHOICE). -/
def editWrite (k : Nat) : State → State := editGuard k fun e s =>
  let w0 := s.r .PHE_CAL_W0 k
  let w1 := s.r .PHE_CAL_W1 k
  let w2 := editW2 (s.r .PHE_CAL_W2 k)
  let w3 := s.r .PHE_CAL_W3 k
  let src := calSource w2
  if calInvalid w1 w2 w3 then editStatus k 3 s
  else if !calTargetOk w2 w3 (k % 2 == 1) (k / 2) s || !dispatchWorldOk w2 w3 (k % 2 == 1) s then editStatus k 4 s
  else
    let passed := calValid w2 && s.b F.PHE_CAL_CTRL_ENABLE 0 && sourceLive src s &&
      leftBehind (calDir w2) (sourceEncoder src s) (sourceCount src s) w0
    editStatus k 0 (s.setCalE e { w0 := w0, w1 := w1, w2 := w2, w3 := w3, owed := passed, fired := (s.calE e).fired })

/-- VALID cleared in an entry. -/
def calDisarm (e : Nat) (s : State) : State :=
  let c := s.calE e
  s.setCalE e { c with w2 := setBits c.w2 63 63 0, owed := false }

/-- DISARM. -/
def editDisarm (k : Nat) : State → State := editGuard k fun e s => editStatus k 0 (calDisarm e s)

/-- DISARM with PURGE: also removes the queued firing not yet serviced, and says whether there was one. A PURGE that is not
performed removes none. -/
def editPurge (k : Nat) (s : State) : State :=
  editGuard k (fun e s =>
    let had := (s.due ++ s.calHeld).any fun f => f.entry == e
    let s := setDue (s.due.filter fun f => f.entry != e) s
    let s := { s with calHeld := s.calHeld.filter fun f => f.entry != e }
    editStatus k 0 ((calDisarm e s).setB F.PHE_CAL_EDIT_STATUS_PURGED k had))
    (s.setB F.PHE_CAL_EDIT_STATUS_PURGED k false)

/-- The first held firing enters the due queue when it has room (R79). -/
def heldEnqueue (s : State) : State := if s.due.length < 4096 then heldMove 1 s else s

/-! ## Pins (R90 to R93, R602) -/

/-- The pin is in an output mode. -/
def pinOutput (i : Nat) (s : State) : Bool := s.f F.TIO_PIN_CFG_MODE i == 1 || s.f F.TIO_PIN_CFG_MODE i == 3

/-- CAP_EDGE selects an edge of this direction. -/
def capSelects (i : Nat) (rising : Bool) (s : State) : Bool :=
  let sel := s.f F.TIO_PIN_CFG_CAP_EDGE i
  (sel == 0 && rising) || (sel == 1 && !rising) || sel == 2

/-- A qualified edge at timestamp ts: recorded, or lost within 2 ns of the previous captured one or with a full FIFO
(R92). -/
def pinRecord (i : Nat) (ts : Word) (rising : Bool) (s : State) : State :=
  let p := s.pin i
  if !capSelects i rising s then s
  else
    let near := match p.lastCap with
      | none => false
      | some t => decide ((ts - t).toInt < 64)
    if near then s.satInc F.TIO_PIN_STATUS_CAP_LOST i
    else if 16 ≤ p.fifo.length then
      (s.satInc F.TIO_PIN_STATUS_CAP_LOST i).setB F.TIO_PIN_STATUS_OVF i true
    else
      let rec' := (ts, portInterp (s.f F.TIO_PIN_CFG_CAP_PORT i) ts s)
      let s := s.setPin i { p with fifo := p.fifo ++ [rec'], lastCap := some ts }
      (s.setF F.TIO_PIN_STATUS_CAP_COUNT i (p.fifo.length + 1)).bump

/-- The latch drives the contact at level x from timestamp ts on, LEVEL samples it, and mode 0b11 captures the edge that
this makes (R92, R602). -/
def pinDrive (i : Nat) (x : Bool) (ts : Word) (s : State) : State :=
  let p := s.pin i
  if p.hiz then s.setPin i { p with latch := x, driving := false }
  else
    let was := s.b F.TIO_PIN_STATUS_LEVEL i
    let s := (s.setPin i { p with latch := x, driving := true }).setB F.TIO_PIN_STATUS_LEVEL i x
    if s.f F.TIO_PIN_CFG_MODE i = 3 ∧ was ≠ x then pinRecord i ts x s else s

/-- The earliest accepted edge that is not a trailing edge is placed. -/
def pinPlace (i : Nat) (s : State) : State :=
  let p := s.pin i
  match p.edges with
  | [] => s
  | ed :: r =>
    if ed.op = 4 || !pinOutput i s then s
    else
      let lvl := if ed.op = 0 then false else if ed.op = 1 then true else !p.latch
      let tail : List PinEdge :=
        if ed.op = 3 then
          [{ time := ed.time + BitVec.ofNat 64 ed.width, op := 4, width := 0, level := p.latch, entry := ed.entry }]
        else []
      pinDrive i lvl ed.time (s.setPin i { p with edges := tail ++ r })

/-- The trailing edge of a pulse returns the pin to its level before the pulse. -/
def pinTrail (i : Nat) (s : State) : State :=
  let p := s.pin i
  match p.edges with
  | [] => s
  | ed :: r => if ed.op = 4 ∧ pinOutput i s then pinDrive i ed.level ed.time (s.setPin i { p with edges := r }) else s

/-- A TIO_PIN_FORCE write: 1 low, 2 high, 3 toggle; in output modes only. The edge it makes bears the present timebase
(DESIGN CHOICE: R91 names the first TIO cycle after the write). -/
def pinForce (i op : Nat) (s : State) : State :=
  if !pinOutput i s then s
  else if op = 1 then pinDrive i false s.tb s
  else if op = 2 then pinDrive i true s.tb s
  else if op = 3 then pinDrive i (!(s.pin i).latch) s.tb s
  else s

/-- Every edge of the pin not yet placed discarded (R91). A discarded edge stays the latest accepted one for the 2 ns rule
of R90 (DESIGN CHOICE: R90 compares with the latest edge accepted, and R91 does not speak of it). -/
def pinDiscard (i : Nat) (s : State) : State := s.setPin i { s.pin i with edges := [] }

/-- A write of TIO_PIN_CFG(i) that passed the access check, with the level sampled at the contact in that TIO cycle
(R91, R95, R369, R602). -/
def pinCfgWrite (a : Access) (i : Nat) (v : Word) (level : Bool) (s : State) : State :=
  let w := s.b F.TIO_PIN_CFG_WORLD i
  let s := s.setPin i { s.pin i with hiz := false }
  let worldOnly := a.world && !w
  let old := s.r .TIO_PIN_CFG i
  if a.part = 0 && !worldOnly && assigns F.TIO_PIN_CFG_PART i v s then pqErr s else
  let new := if worldOnly then setBits old 63 63 (bits v 63 63)
    else
      let x := setBits old 63 63 (if a.world then bits v 63 63 else bits old 63 63)
      let x := setBits x 61 56 (if a.part = 0 then bits v 61 56 else bits old 61 56)
      let x := setBits (setBits x 18 16 (bits v 18 16)) 13 12 (bits v 13 12)
      setBits (setBits (setBits x 9 8 (bits v 9 8)) 4 4 (bits v 4 4)) 1 0 (bits v 1 0)
  let wasOut := pinOutput i s
  let moved := bits new 63 63 ≠ bits old 63 63 ∨ bits new 61 56 ≠ bits old 61 56
  let s := s.setR .TIO_PIN_CFG i new
  let nowOut := pinOutput i s
  let s := if moved ∨ !nowOut then pinDiscard i s else s
  if !nowOut then s.setPin i { s.pin i with driving := false }
  else if !wasOut then pinDrive i level s.tb s
  else pinDrive i (s.pin i).latch s.tb s

/-- The level at the contact changes: LEVEL follows in every mode, and a capture pin records the edge that CAP_EDGE selects
(R92). Mode 0b11 captures the pin's own edges, which pinDrive makes. -/
def pinCapture (i : Nat) (ts : Word) (rising : Bool) (s : State) : State :=
  let s := s.setB F.TIO_PIN_STATUS_LEVEL i rising
  if s.f F.TIO_PIN_CFG_MODE i = 2 then pinRecord i ts rising s else s

/-- A read of TIO_CAP_TB(i) that passed the access check (R93). -/
def pinCapRead (i : Nat) (s : State) : State :=
  let p := s.pin i
  match p.fifo with
  | [] => s.answer 0xFFFFFFFFFFFFFFFF#64
  | (t, ph) :: r =>
    let s := (s.setPin i { p with fifo := r }).setR .TIO_CAP_PHASE i ph
    (s.setF F.TIO_PIN_STATUS_CAP_COUNT i r.length).answer t

/-- SAFE applied to an output pin by a partition reset (R88, R602). -/
def pinSafe (i : Nat) (s : State) : State :=
  if !pinOutput i s then s.setPin i { s.pin i with driving := false }
  else
    let safe := s.f F.TIO_PIN_CFG_SAFE i
    if safe = 0 then pinDrive i false s.tb s
    else if safe = 1 then pinDrive i true s.tb s
    else s.setPin i { s.pin i with driving := false }

end Sys2Proof.Machine
end

