-- ==== Sys2Proof/Machine/PhaseRef.lean ====
section
/-! DEFINITION. The phase ports, the device timebase and the phase replicas (R36 to R65, R598 to R601). -/
namespace Sys2Proof.Machine

/-! ## Small parts -/

/-- A pulse, 1PPS or Paleg port. -/
def portPulseKind (n : Nat) (s : State) : Bool := portKind n s == 2 || portKind n s == 3 || portKind n s == 4

/-- A field of the PHE_PORT_CFG values in force (R63). -/
def liveF (f : Fld) (p : PortAux) : Nat := fget f p.live

/-- LOCK_EDGES in force; 0 and 1 act as 2 (R65). -/
def liveLockEdges (p : PortAux) : Nat := max 2 (liveF F.PHE_PORT_CFG_LOCK_EDGES p)

/-- LOSS_K in force; 0 and 1 act as 2. -/
def liveLossK (p : PortAux) : Nat := max 2 (liveF F.PHE_PORT_CFG_LOSS_K p)

/-- BW in force; 13 to 15 act as 12. -/
def liveBW (p : PortAux) : Nat := min 12 (liveF F.PHE_PORT_CFG_BW p)

/-- The configuration and HOLD_MAX come into force (R63). -/
def latchLive (n : Nat) (s : State) : State :=
  s.setPort n { s.port n with live := s.r .PHE_PORT_CFG n, holdMax := s.f F.PHE_PORT_AUX_HOLD_MAX n }

/-- TOL as a fraction num/den (R65). -/
def tolFrac (t : Nat) : Nat × Nat := if t = 0 then (1, 200) else if t = 1 then (1, 50) else if t = 2 then (2, 25) else (1, 4)

/-- An interval lies within ± TOL of a reference interval. -/
def withinTol (t ival ref : Nat) : Bool :=
  decide (((ival : Int) - ref).natAbs * (tolFrac t).2 ≤ ref * (tolFrac t).1)

/-- The pulse or count boundary nearest to a count; the free bit decides between two equally near. -/
def nearestBoundary (cpc : Nat) (tie : Bool) (c : Word) : Word :=
  let cyc : Int := (bits c 63 32 : Int)
  let k := bits c 31 0 * cpc / 2 ^ 32
  let cands := [k, k + 1, k + 2].map (boundaryAt cpc cyc)
  let dist (b : Word) : Nat := (b - c).toInt.natAbs
  cands.foldl (fun b x => if dist x < dist b ∨ (dist x = dist b ∧ tie) then x else b)
    (if k = 0 then boundaryAt cpc (cyc - 1) (cpc - 1) else boundaryAt cpc cyc (k - 1))

/-- The rate given by a phase step over an interval of the timebase, in units of 2^-64 cycle per PHS cycle. -/
def rateOf (up : Bool) (phase : Int) (ival : Nat) : Int :=
  if ival = 0 then 0 else divFree up (phase * 2 ^ 32 * 16) ival

/-- The state of a port changed. -/
def setPortState (n st : Nat) (s : State) : State := s.setF F.PHE_PORT_STATUS_STATE n st

/-- LOCKED entered: LOCKED_EV set. -/
def enterLocked (n : Nat) (s : State) : State := (setPortState n 2 s).setB F.PHE_PORT_STATUS_LOCKED_EV n true

/-- The rate at which the count advances. -/
def setRate (n : Nat) (v : Word) (s : State) : State := s.setR .PHE_PORT_INC n v

/-- The loop rate set, and the count advancing at it. -/
def setLoop (n : Nat) (v : Word) (s : State) : State := setRate n v (s.setPort n { s.port n with loopRate := v })

/-- HOLDOVER entered with LOSS set: the count goes on at the frozen loop rate, a slew or a hold in progress is dropped,
and the holdover counter is 0 (R48, R51, R599). -/
def enterHoldover (n : Nat) (s : State) : State :=
  let p := s.port n
  let s := s.setPort n { p with slew := 0, slewing := false, holding := false, holdRem := 0, runEdges := 0, encRun := 0,
                                holdover := 0, crossings := 0 }
  setRate n p.loopRate ((setPortState n 3 s).setB F.PHE_PORT_STATUS_LOSS n true)

/-- QERR set and QERR_CNT raised (R45, R55). -/
def portQerr (n : Nat) (s : State) : State :=
  (s.satInc F.PHE_PORT_STATUS_QERR_CNT n).setB F.PHE_PORT_STATUS_QERR n true

/-! ## Enable, disable and commands (R48, R63, R74) -/

/-- The transition from OFF at ENABLE 0 to 1, by KIND. The direction of travel starts forward (DESIGN CHOICE for an encoder,
of which R48 does not say it; R41 for the other kinds). -/
def portStart (n : Nat) (s : State) : State :=
  let s := latchLive n (settle n s)
  let s := s.setPort n { s.port n with runEdges := 0, err := 0, slew := 0, slewing := false, holding := false, holdRem := 0,
                                       holdover := 0, crossings := 0, encRun := 0, encResume := 0, encSeen := false }
  let s := (s.setF F.PHE_PORT_STATUS_EDGES n 0).setB F.PHE_PORT_STATUS_DIR n false
  let init := s.r .PHE_PORT_INIT n
  if portKind n s = 1 then
    let s := enterLocked n (setLoop n 0 s)
    let s := s.setPort n { s.port n with encPos := positionOf (portCPC n s) (bits init 31 0),
                                         encCyc := BitVec.ofNat 32 (bits init 63 32) }
    countLoad n init s
  else if portKind n s = 5 then countLoad n init (enterLocked n (setLoop n (s.r .PHE_PORT_NOMINAL n) s))
  else setPortState n 1 (setLoop n 0 s)

/-- ENABLE 1 to 0: OFF, the count held, the rate 0. -/
def portStop (n : Nat) (s : State) : State :=
  let s := settle n s
  let s := s.setPort n { s.port n with slew := 0, slewing := false, holding := false, holdRem := 0, runEdges := 0,
                                       encRun := 0 }
  setPortState n 0 (setLoop n 0 s)

/-- The fields of PHE_PORT_CFG that require OFF. -/
def offFields : List Fld :=
  [F.PHE_PORT_CFG_KIND, F.PHE_PORT_CFG_CPC, F.PHE_PORT_CFG_DECODE, F.PHE_PORT_CFG_EDGE]

/-- A field of one word copied into another. -/
def copyF (src : Word) (dst : Word) (f : Fld) : Word := fset f dst (fget f src)

/-- An enable that R63 refuses. -/
def enableInvalid (v : Word) : Bool :=
  let kind := fget F.PHE_PORT_CFG_KIND v
  let cpc := fget F.PHE_PORT_CFG_CPC v
  ((kind == 1 || kind == 2) && cpc == 0) || (kind == 2 && decide (65536 ≤ cpc))

/-- A write of PHE_PORT_CFG(n) that passed the access check (R62, R63, R369). -/
def portCfgWrite (a : Access) (n : Nat) (v : Word) (s : State) : State :=
  let old := s.r .PHE_PORT_CFG n
  let locked := s.b F.PHE_REF_CTRL_LOCK 0
  let keepW := if a.world && !locked then v else old
  if a.world && !bit old 63 then s.setR .PHE_PORT_CFG n (copyF keepW old F.PHE_PORT_CFG_WORLD)
  else
    let v := fset ⟨.PHE_PORT_CFG, 4, 4⟩ (fset ⟨.PHE_PORT_CFG, 62, 56⟩ (copyF keepW v F.PHE_PORT_CFG_WORLD) 0) 0
    if bit old 0 then
      if bit v 0 then
        let kept := offFields.foldl (fun w f => copyF old w f) v
        let s := s.setR .PHE_PORT_CFG n kept
        if kept = v then s else s.setB F.PHE_PORT_STATUS_CFGERR n true
      else (portStop n s).setR .PHE_PORT_CFG n v
    else if bit v 0 then
      if enableInvalid v then
        (s.setR .PHE_PORT_CFG n (setBits v 0 0 0)).setB F.PHE_PORT_STATUS_CFGERR n true
      else portStart n (s.setR .PHE_PORT_CFG n v)
    else s.setR .PHE_PORT_CFG n v

/-- A write of PHE_PORT_AUX(n) that passed the access check (R63). -/
def portAuxWrite (n : Nat) (v : Word) (s : State) : State :=
  let old := s.r .PHE_PORT_AUX n
  let s := s.setF F.PHE_PORT_AUX_HOLD_MAX n (fget F.PHE_PORT_AUX_HOLD_MAX v)
  let ph := fget F.PHE_PORT_AUX_REMOTE_PH v
  let pl := fget F.PHE_PORT_AUX_PLPORT v
  if s.b F.PHE_PORT_CFG_ENABLE n then
    if ph ≠ fget F.PHE_PORT_AUX_REMOTE_PH old ∨ pl ≠ fget F.PHE_PORT_AUX_PLPORT old then
      s.setB F.PHE_PORT_STATUS_CFGERR n true
    else s
  else (s.setF F.PHE_PORT_AUX_REMOTE_PH n ph).setF F.PHE_PORT_AUX_PLPORT n pl

/-- A write of PHE_PORT_NOMINAL(n): a synthetic port in LOCKED and a port in FREE take the new rate (R63). -/
def portNominalWrite (n : Nat) (v : Word) (s : State) : State :=
  let s := s.setR .PHE_PORT_NOMINAL n v
  if (portKind n s = 5 ∧ portState n s = 2) ∨ portState n s = 4 then setLoop n v s else s

/-- A write of PHE_PORT_TOD(n): the seconds of the next pulse, armed by ARM (R57). -/
def portTodWrite (n : Nat) (v : Word) (s : State) : State :=
  let s := s.setPort n { s.port n with todAt := some s.tb }
  (s.setF F.PHE_PORT_TOD_TOD_NEXT n (bits v 47 0)).setB F.PHE_PORT_TOD_ARM n (bit v 63)

/-- The rate under a hold with rem units of 2^-64 cycle to wait: 0, and in the PHS cycle in which the reference reaches e
what it advances beyond (R49). -/
def holdRate (n rem : Nat) (s : State) : Word :=
  let r := (s.port n).loopRate
  if rem < r.toNat then r - BitVec.ofNat 64 rem else 0

/-- A step correction of e fraction units (R49): a negative error jumps the count forward, a positive one holds the rate
at 0 until the reference has advanced by e. In the PHS cycle in which the reference reaches e the count takes the rest of
its advance. -/
def stepCorrect (n : Nat) (e : Int) (s : State) : State :=
  let s := s.setB F.PHE_PORT_STATUS_STEPPED n true
  let s := setRate n (s.port n).loopRate
    (s.setPort n { s.port n with slew := 0, slewing := false, holding := false, holdRem := 0 })
  if e < 0 then
    let s := settle n s
    let c0 := s.r .PHE_PORT_PHASE n
    let c1 := c0 + BitVec.ofNat 64 e.natAbs
    jumpFire n c0 c1 (moveCount n c1 s)
  else if e = 0 then s
  else setRate n (holdRate n (e.natAbs * 2 ^ 32) s)
    (s.setPort n { s.port n with holding := true, holdRem := e.natAbs * 2 ^ 32 })

/-- R/64, whose rounding the spec leaves open. -/
def slewOff (n : Nat) (s : State) : Int := divFree s.freeBit (s.port n).loopRate.toNat 64

/-- The rate under a slew with rem units of 2^-64 cycle to remove: R less or plus R/64, and in the PHS cycle in which less
than R/64 remains only the rest is removed (R46). -/
def slewRate (n : Nat) (rem : Int) (s : State) : Word :=
  let r : Int := (s.port n).loopRate.toNat
  let off := slewOff n s
  BitVec.ofInt 64 (r - (if 0 < rem then min rem off else max rem (-off)))

/-- A slew of e fraction units at 1/64 of the loop rate (R46). -/
def slewCorrect (n : Nat) (e : Int) (s : State) : State :=
  let s := s.setPort n { s.port n with slew := e * 2 ^ 32, slewing := e != 0, holding := false, holdRem := 0 }
  if e = 0 then setRate n (s.port n).loopRate s else setRate n (slewRate n (e * 2 ^ 32) s) s

/-- RESTART: as ENABLE written 0 to 1, from any state except OFF. -/
def portRestart (n : Nat) (s : State) : State := if portState n s = 0 then s else portStart n s

/-- FORCE_HOLDOVER: from any state except OFF. -/
def portForceHoldover (n : Nat) (s : State) : State := if portState n s = 0 then s else enterHoldover n s

/-- RESYNC: in HOLD_WAIT the latest e is corrected by step; elsewhere it is ignored. -/
def portResync (n : Nat) (s : State) : State :=
  if portState n s = 5 then stepCorrect n (s.port n).err (enterLocked n s) else s

/-- A write of PHE_PORT_CMD(n): only the command with the highest bit number (R600). -/
def portCmdWrite (n : Nat) (v : Word) (s : State) : State :=
  if bit v 2 then portRestart n s else if bit v 1 then portForceHoldover n s
  else if bit v 0 then portResync n s else s

/-! ## Pulse, 1PPS and Paleg edges (R44, R45, R57, R601) -/

/-- Time-of-day at a qualified pulse with ARM set: TOD_BASE := TOD_NEXT minus the cycle part of the pulse. A pulse in the
PHS cycle of the write leaves it for the following pulse (R57). -/
def todApply (n : Nat) (ts bound : Word) (s : State) : State :=
  let early := (s.port n).todAt.any fun t => t.toNat / 16 == ts.toNat / 16
  if portKind n s = 3 ∧ s.b F.PHE_PORT_TOD_ARM n ∧ !early then
    let base := ((s.f F.PHE_PORT_TOD_TOD_NEXT n : Int) - (BitVec.ofNat 32 (bits bound 63 32)).toInt) % 2 ^ 48
    ((s.setF F.PHE_PORT_TOD_BASE_TOD_BASE n base.toNat).setB F.PHE_PORT_TOD_BASE_VALID n true).setB F.PHE_PORT_TOD_ARM n false
  else s

/-- A qualified edge counted: EDGES and PHE_PORT_EDGE_TB. -/
def countEdge (n : Nat) (ts : Word) (s : State) : State :=
  (s.wrapInc F.PHE_PORT_STATUS_EDGES n).setR .PHE_PORT_EDGE_TB n ts

/-- The loop rate after an edge: R + (r_m - R) * 2^-BW (R44). -/
def loopUpdate (n : Nat) (rm : Int) (s : State) : State :=
  let p := s.port n
  let r : Int := p.loopRate.toNat
  s.setPort n { p with loopRate := BitVec.ofInt 64 (r + divFree s.freeBit (rm - r) (2 ^ liveBW p)) }

/-- An edge in LOCKED or HOLD_WAIT: the period check, then the loop and the phase error (R44 to R46, R48). -/
def edgeLocked (n : Nat) (ts : Word) (carried : Option Word) (s : State) : State :=
  let p := s.port n
  let ival := (ts - s.r .PHE_PORT_EDGE_TB n).toNat
  if !withinTol (liveF F.PHE_PORT_CFG_TOL p) ival (s.f F.PHE_PORT_PERIOD_VAL n) then portQerr n s
  else
    let s := latchLive n s
    let c := portInterp n ts s
    let bound := carried.getD (nearestBoundary (portCPC n s) s.freeBit c)
    let e := (c - bound).toInt
    let rm := rateOf s.freeBit (bound - p.lastBound).toInt ival
    let s := loopUpdate n rm s
    let s := s.setPort n { s.port n with lastBound := bound, err := e }
    let s := (countEdge n ts s).setF F.PHE_PORT_PERIOD_VAL n s.freeWord.toNat
    let s := if portState n s = 2 then slewCorrect n e s
      else setRate n (s.port n).loopRate s
    (todApply n ts bound s).bump

/-- A completed run takes the port to LOCKED or HOLD_WAIT (R48 to R50, R74). A Paleg port sets no POS_SUSPECT, since R50
measures in the pulse spacing, which its frames do not have (DESIGN CHOICE). -/
def runComplete (n : Nat) (ts : Word) (carried : Option Word) (s : State) : State :=
  let p := s.port n
  let total := (ts - p.runFirst).toNat
  let mean : Int := match carried with
    | some ph => rateOf s.freeBit (ph - p.runPhase).toInt total
    | none => rateOf s.freeBit ((p.runEdges - 1 : Nat) * 2 ^ 32) (portCPC n s * total)
  let m := BitVec.ofInt 64 mean
  if portState n s = 1 then
    let ld := carried.getD (s.r .PHE_PORT_INIT n)
    let bound := carried.getD (nearestBoundary (portCPC n s) s.freeBit ld)
    let s := s.setPort n { p with runEdges := 0, lastBound := bound, err := 0 }
    todApply n ts bound (countLoad n ld (enterLocked n (setLoop n m s)))
  else
    let c := portInterp n ts s
    let bound := carried.getD (nearestBoundary (portCPC n s) s.freeBit c)
    let e := (c - bound).toInt
    let far := carried.isNone && decide (2 ^ 32 < 4 * e.natAbs * portCPC n s)
    let s := s.setPort n { p with runEdges := 0, lastBound := bound, err := e, holding := false, holdRem := 0, slew := 0,
                                  slewing := false }
    let s := if far then s.setB F.PHE_PORT_STATUS_POS_SUSPECT n true else s
    let s := setLoop n m s
    let how := liveF F.PHE_PORT_CFG_RELOCK p
    todApply n ts bound
      (if how = 1 then stepCorrect n e (enterLocked n s)
       else if how = 2 then setPortState n 5 s
       else slewCorrect n e (enterLocked n s))

/-- An edge in ACQUIRE, HOLDOVER or FREE: the runs of R601. Every edge is qualified, so a newly written TOL takes effect at
this edge and judges it (DESIGN CHOICE). On a 1PPS port a pulse that completes no run is a cycle boundary as well: the one
nearest to the interpolated count, which ACQUIRE holds (R57). -/
def edgeRun (n : Nat) (ts : Word) (carried : Option Word) (s : State) : State :=
  let s := countEdge n ts (latchLive n s)
  let p := s.port n
  let ival := (ts - p.runLast).toNat
  let agrees := p.runEdges = 1 ∨ (1 < p.runEdges ∧ withinTol (liveF F.PHE_PORT_CFG_TOL p) ival p.runIval)
  let bound := nearestBoundary (portCPC n s) s.freeBit (portInterp n ts s)
  if agrees then
    let k := p.runEdges + 1
    let s := s.setPort n { p with runEdges := k, runIval := if p.runEdges = 1 then ival else p.runIval,
                                  runLast := ts }
    let s := s.setF F.PHE_PORT_PERIOD_VAL n
      (divFree s.freeBit (ts - p.runFirst).toNat (k - 1)).toNat
    let s := if liveLockEdges p ≤ k then runComplete n ts carried s else todApply n ts bound s
    s.bump
  else
    (todApply n ts bound (s.setPort n { p with runEdges := 1, runFirst := ts, runLast := ts, runIval := 0,
                                               runPhase := carried.getD 0 })).bump

/-- An edge that passed the filter, or an accepted phase frame with the phase it carries. -/
def portEdge (n : Nat) (ts : Word) (carried : Option Word) (s : State) : State :=
  let st := portState n s
  if !portPulseKind n s || st = 0 then s
  else if st = 2 ∨ st = 5 then edgeLocked n ts carried s
  else edgeRun n ts carried s

/-- The edge is one that EDGE selects (R65). -/
def edgeSelected (n : Nat) (rising : Bool) (s : State) : Bool :=
  let e := s.f F.PHE_PORT_CFG_EDGE n
  e == 2 || (if e = 1 then !rising else rising)

/-! ## Encoders (R52 to R56) -/

/-- A and B edge counted by DECODE. -/
def encCounted (n : Nat) (onA other : Bool) (s : State) : Bool :=
  let d := s.f F.PHE_PORT_CFG_DECODE n
  if d = 0 then onA && !other else if d = 1 then onA else true

/-- The edge counts forward: A leads B, exchanged by INVERT_DIR. -/
def encForward (n : Nat) (onA rising other : Bool) (s : State) : Bool :=
  (if onA then rising != other else rising == other) != s.b F.PHE_PORT_CFG_INVERT_DIR n

/-- The boundary that a count edge passes, and the position after it. -/
def encMove (cpc pos : Nat) (cyc : BitVec 32) (fwd : Bool) : Word × Nat × BitVec 32 :=
  if fwd then
    if cpc ≤ pos + 1 then (boundaryAt cpc (cyc.toNat + 1) 0, 0, cyc + 1)
    else (boundaryAt cpc cyc.toNat (pos + 1), pos + 1, cyc)
  else if pos = 0 then (boundaryAt cpc cyc.toNat 0, cpc - 1, cyc - 1)
  else (boundaryAt cpc cyc.toNat pos, pos - 1, cyc)

/-- A count edge in LOCKED. The first one after the start has no interval, and leaves the rate at 0 (DESIGN CHOICE). -/
def encEdgeLocked (n : Nat) (ts : Word) (fwd : Bool) (s : State) : State :=
  let s := latchLive n (settle n s)
  let p := s.port n
  let (bound, pos, cyc) := encMove (portCPC n s) p.encPos p.encCyc fwd
  let c0 := s.r .PHE_PORT_PHASE n
  let reversed := s.b F.PHE_PORT_STATUS_DIR n == fwd
  let ival := (ts - s.r .PHE_PORT_EDGE_TB n).toNat
  let rm := rateOf s.freeBit ((bound - p.lastBound).toInt.natAbs) ival
  let s := moveCount n bound (countEdge n ts s)
  let s := s.setPort n { s.port n with encPos := pos, encCyc := cyc, lastBound := bound, sub := 0, encSeen := true }
  let s :=
    if reversed then
      let s := (s.setB F.PHE_PORT_STATUS_DIR n !fwd).setB F.PHE_PORT_STATUS_REV n true
      setLoop n 0 (s.setPort n { s.port n with encResume := 2, ahead := bound })
    else if !p.encSeen then s
    else if 1 < p.encResume then s.setPort n { s.port n with encResume := p.encResume - 1 }
    else
      let s := loopUpdate n rm (s.setPort n { s.port n with encResume := 0 })
      setRate n (s.port n).loopRate s
  (edgeFire n c0 bound ts s).bump

/-- A valid count in HOLDOVER or FREE: after LOCK_EDGES of them the port locks again, at the nearest count boundary and
the mean count rate (R48). -/
def encEdgeRelock (n : Nat) (ts : Word) (fwd : Bool) (s : State) : State :=
  let s := countEdge n ts (latchLive n s)
  let p := s.port n
  let k := p.encRun + 1
  let first := if p.encRun = 0 then ts else p.encFirst
  let s := s.setPort n { p with encRun := k, encFirst := first }
  if k < liveLockEdges p then s
  else
    let s := settle n s
    let cpc := portCPC n s
    let c0 := s.r .PHE_PORT_PHASE n
    let bound := nearestBoundary cpc s.freeBit c0
    let rm := rateOf s.freeBit ((k - 1 : Nat) * 2 ^ 32) (cpc * (ts - first).toNat)
    let pos := positionOf cpc (bits bound 31 0)
    let s := moveCount n bound s
    let cyc : BitVec 32 := BitVec.ofNat 32 (bits bound 63 32)
    let s := s.setPort n { s.port n with
      encRun := 0, encPos := if fwd then pos else if pos = 0 then cpc - 1 else pos - 1,
      encCyc := if !fwd ∧ pos = 0 then cyc - 1 else cyc, lastBound := bound, sub := 0, encResume := 0, encSeen := true, ahead := bound }
    let s := (s.setB F.PHE_PORT_STATUS_DIR n !fwd).setB F.PHE_PORT_STATUS_POS_SUSPECT n true
    (edgeFire n c0 bound ts (enterLocked n (setLoop n (BitVec.ofInt 64 rm) s))).bump

/-- An illegal transition, or a line fault on A or B: the port goes to HOLDOVER, from FREE too, and stays in it (R55). -/
def encIllegal (n : Nat) (s : State) : State :=
  if portKind n s ≠ 1 ∨ portState n s = 0 then s
  else
    let s := portQerr n s
    let s := s.setPort n { s.port n with encRun := 0 }
    if portState n s = 3 then s else enterHoldover n s

/-- A qualified Z edge in LOCKED (R56). -/
def encZ (n : Nat) (s : State) : State :=
  if portKind n s ≠ 1 ∨ portState n s ≠ 2 ∨ !s.b F.PHE_PORT_CFG_Z_EN n ∨ (s.port n).encPos = 0 then s
  else
    let s := s.setB F.PHE_PORT_STATUS_ZERR n true
    if !s.b F.PHE_PORT_CFG_Z_SNAP n then s
    else
      let s := settle n s
      let c0 := s.r .PHE_PORT_PHASE n
      let c1 := nearestBoundary 1 s.freeBit c0
      let cyc : BitVec 32 := BitVec.ofNat 32 (bits c1 63 32)
      let rev := s.b F.PHE_PORT_STATUS_DIR n
      let s := (moveCount n c1 s).setB F.PHE_PORT_STATUS_STEPPED n true
      let s := s.setPort n { s.port n with
        encPos := if rev then portCPC n s - 1 else 0, encCyc := if rev then cyc - 1 else cyc,
        lastBound := c1, sub := 0 }
      (jumpFire n c0 c1 s).bump

/-! ## Time -/

/-- The hold of R49 ends once the reference has advanced by e. -/
def holdEnd (n : Nat) (s : State) : State :=
  let p := s.port n
  if p.holding ∧ p.holdRem = 0 then setRate n p.loopRate (s.setPort n { p with holding := false }) else s

/-- The phase removed by a slew has reached e: the count returns to the loop rate (R46). -/
def slewFinish (n : Nat) (s : State) : State :=
  let p := s.port n
  if portState n s = 2 ∧ p.slewing ∧ p.slew = 0 then setRate n p.loopRate (s.setPort n { p with slewing := false }) else s

/-- The loss window expires (R48). -/
def lossExpiry (n : Nat) (s : State) : State :=
  let p := s.port n
  let idle := (s.tb - s.r .PHE_PORT_EDGE_TB n).toNat
  if portPulseKind n s ∧ (portState n s = 2 ∨ portState n s = 5) ∧ liveLossK p * s.f F.PHE_PORT_PERIOD_VAL n ≤ idle then
    enterHoldover n s
  else s

/-- The holdover counter reaches HOLD_MAX: FREE at the nominal rate (R48, R599). -/
def holdoverFree (n : Nat) (s : State) : State :=
  let p := s.port n
  if portState n s = 3 ∧ p.holdMax ≠ 0 ∧ p.holdMax ≤ p.holdover.toNat then
    setPortState n 4 (setLoop n (s.r .PHE_PORT_NOMINAL n) s)
  else s

/-- One crossing of a cycle boundary by the extrapolated count is counted (R599). -/
def holdoverCount (n : Nat) (s : State) : State :=
  let p := s.port n
  if portState n s = 3 ∧ 0 < p.crossings then
    s.setPort n { p with crossings := p.crossings - 1, holdover := p.holdover + 1 }
  else s

/-- A slew or a hold after a PHS cycle at the present rate: what is left of it, and the rate of the next cycle, in which only
the rest is removed or held (R46, R49). -/
def correctAdvance (n : Nat) (s : State) : State :=
  let p := s.port n
  let rate := (s.r .PHE_PORT_INC n).toNat
  let slew := if p.slewing then p.slew + ((rate : Int) - p.loopRate.toNat) else p.slew
  let hold := p.holdRem - (p.loopRate.toNat - rate)
  let s := s.setPort n { p with slew := slew, holdRem := hold }
  if p.slewing ∧ slew ≠ 0 then setRate n (slewRate n slew s) s
  else if p.holding ∧ hold ≠ 0 then setRate n (holdRate n hold s) s
  else s

/-- The count of one port over one PHS cycle, with the clamp of R53. A cycle boundary counts as crossed in reverse when the
count reaches it, as in R72 (R599, DEDUCED). -/
def portAdvance (n : Nat) (s : State) : State :=
  let st := portState n s
  if st < 2 then s
  else
    let p := s.port n
    let c := s.r .PHE_PORT_PHASE n
    let rate : Int := (s.r .PHE_PORT_INC n).toNat
    let rev := s.b F.PHE_PORT_STATUS_DIR n
    let full : Int := (c.toNat : Int) * 2 ^ 32 + p.sub.toNat
    let moved := if rev then full - rate else full + rate
    let c1 := BitVec.ofInt 64 (moved / 2 ^ 32)
    let c2 := stopAt (encLimit n s) rev c1
    let cyc (x : Word) : Nat := bits (if rev then x - 1 else x) 63 32
    let s := s.setR .PHE_PORT_PHASE n c2
    let s := s.setPort n { p with prev := c, sub := if c2 = c1 then BitVec.ofInt 32 (moved % 2 ^ 32) else 0,
                                  crossings := if st = 3 ∧ cyc c2 ≠ cyc c then p.crossings + 1 else p.crossings }
    correctAdvance n s

/-- The phase reference stands: unit 288 has its clock stopped, or the package is in RETAIN or OFF (R36). -/
def phsStopped (s : State) : Bool := s.f F.PWR_STATUS_PKG_STATE 0 == 2 || unitOff 288 s || s.pkgOff

/-- One port's events that are due at the start of a PHS cycle. -/
def portEvents (n : Nat) (s : State) : State :=
  holdoverFree n (holdoverCount n (lossExpiry n (slewFinish n (holdEnd n s))))

/-- One PHS cycle (R36, R44, R84): what is due, then the counts and the timebase, then the crossings of every source in one
order, then the service of the firings matched in earlier cycles, which makes room for held ones. While the PHS domain is
stopped the timebase alone advances, by one AON cycle, while AON has power. -/
def phsCycle (s : State) : State :=
  if s.aonOff then s
  else if phsStopped s then s.setR .PHE_TB 0 (s.tb + 1280)
  else
    let t0 := s.tb
    let s := iter 8 portEvents s
    let s := iter 8 portAdvance s
    let s := s.setR .PHE_TB 0 (t0 + 16)
    let s := settleAll t0 (List.range 9) s
    dueFill (iter 8 (fun _ t => dueServiceWhere (fun f => f.cyc != t0) t) s)

/-! ## Replicas (R59 to R61) -/

/-- The replica of CDn. -/
def State.replica (s : State) (n : Nat) : Replica := smapGet (fun _ => {}) s.replicas n

/-- The replica of CDn changed. -/
def State.setReplica (s : State) (n : Nat) (x : Replica) : State :=
  { s with replicas := smapSet (fun _ => {}) s.replicas n x }

/-- A discarded broadcast, and one not sent, count alike (R61). -/
def replicaBad (n : Nat) (s : State) : State :=
  s.setReplica n { s.replica n with bad := (s.replica n).bad + 1 }

/-- A good broadcast: the values of the PHS cycle in which it arrives, and VALID (R59, R61). -/
def replicaGood (n : Nat) (s : State) : State :=
  let ps := List.range 8
  let s := s.setReplica n { bad := 0, tb := s.tb, cnt := ps.map fun p => s.r .PHE_PORT_PHASE p,
                            rate := ps.map fun p => s.r .PHE_PORT_INC p,
                            dir := ps.map fun p => s.b F.PHE_PORT_STATUS_DIR p,
                            lim := ps.map fun p => encLimit p s }
  s.setFbit F.PHE_REPLICA_STATUS_VALID 0 n true

/-- CDn's replica is valid. -/
def replicaValid (n : Nat) (s : State) : Bool := s.fbit F.PHE_REPLICA_STATUS_VALID 0 n

/-- VALID cleared and MISS set after four discarded broadcasts (R61). -/
def replicaLost (n : Nat) (s : State) : State :=
  if 4 ≤ (s.replica n).bad ∧ replicaValid n s then
    (s.setFbit F.PHE_REPLICA_STATUS_VALID 0 n false).setFbit F.PHE_REPLICA_STATUS_MISS 0 n true
  else s

/-! ## The commands -/

def execPortEnable (a : Access) (n : Nat) (v : Word) (s : State) : Out :=
  .next (guarded a true .PHE_PORT_CFG n (portCfgWrite a n (setBits v 0 0 1)) s)

def execPortDisable (a : Access) (n : Nat) (v : Word) (s : State) : Out :=
  .next (guarded a true .PHE_PORT_CFG n (portCfgWrite a n (setBits v 0 0 0)) s)

def execRestart (a : Access) (n : Nat) (s : State) : Out :=
  .next (guarded a true .PHE_PORT_CMD n (portRestart n) s)

def execForceHoldover (a : Access) (n : Nat) (s : State) : Out :=
  .next (guarded a true .PHE_PORT_CMD n (portForceHoldover n) s)

def execResync (a : Access) (n : Nat) (s : State) : Out :=
  .next (guarded a true .PHE_PORT_CMD n (portResync n) s)

/-- The filter of R42: the input level has been stable for FILTER x 1 ns. stable is in units of 31.25 ps. -/
def filterPassed (n stable : Nat) (s : State) : Bool := decide (32 * liveF F.PHE_PORT_CFG_FILTER (s.port n) ≤ stable)

/-- An edge on A of a pulse or 1PPS port, if it passes the filter and EDGE selects it. -/
def execPulseEdge (n : Nat) (ts : Word) (rising : Bool) (stable : Nat) (s : State) : Out :=
  .next (if (portKind n s = 2 ∨ portKind n s = 3) ∧ edgeSelected n rising s ∧ filterPassed n stable s then
    portEdge n ts none s else s)

def execStepHoldEnd (n : Nat) (s : State) : Out := .next (holdEnd n s)

def execLossWindowExpiry (n : Nat) (s : State) : Out := .next (lossExpiry n s)

def execHoldoverToFree (n : Nat) (s : State) : Out := .next (holdoverFree n s)

def execHoldoverCycleCrossing (n : Nat) (s : State) : Out := .next (holdoverCount n s)

/-- An edge of A or B of an encoder port, with the level of the other input. -/
def execEncoderCountEdge (n : Nat) (ts : Word) (onA rising other : Bool) (stable : Nat) (s : State) : Out :=
  let fwd := encForward n onA rising other s
  let st := portState n s
  .next (if portKind n s ≠ 1 ∨ !encCounted n onA other s ∨ !filterPassed n stable s then s
    else if st = 2 then encEdgeLocked n ts fwd s
    else if st = 3 ∨ st = 4 then encEdgeRelock n ts fwd s
    else s)

def execIllegalTransition (n : Nat) (s : State) : Out := .next (encIllegal n s)

/-- A line fault has the effect of an illegal transition (R55, R588). -/
def execLineFault (n : Nat) (s : State) : Out := .next (encIllegal n s)

def execZEdge (n stable : Nat) (s : State) : Out := .next (if filterPassed n stable s then encZ n s else s)

def execTodArm (a : Access) (n : Nat) (v : Word) (s : State) : Out :=
  .next (guarded a true .PHE_PORT_TOD n (portTodWrite n (setBits v 63 63 1)) s)

/-- The broadcast of every 8 PHS cycles: sent to each enabled die whose bridge is ACTIVE; one not sent counts as
discarded (R59, R61). -/
def execPhaseBroadcast (s : State) : Out :=
  .next (iter 12 (fun n t =>
    if t.fbit F.PHE_REF_CTRL_DIE_BCAST 0 n && bridgeActive n t then t.send (.bcast n) else replicaBad n t) s)

/-- A broadcast in flight arrives at CDn; good says that its CRC holds. A discarded one counts in SB_ERR (R312, R323). -/
def execPhaseBroadcastReceive (d : Nat) (good : Bool) (s : State) : Out :=
  .next (if s.out.contains (.bcast d) then
    let s := s.take (.bcast d)
    if good then replicaGood d s else (replicaBad d s).satInc F.BR_ERRCNT_SB_ERR d
  else s)

def execSlewEnd (n : Nat) (s : State) : Out := .next (slewFinish n s)

def execCalendarMatch (e : Nat) (s : State) : Out := .next (calMatchOne s.tb e s)

def execCalendarEnable (a : Access) (v : Word) (s : State) : Out :=
  .next (guarded a true .PHE_CAL_CTRL 0 (calCtrlWrite (setBits v 0 0 1)) s)

def execCalendarDisable (a : Access) (v : Word) (s : State) : Out :=
  .next (guarded a true .PHE_CAL_CTRL 0 (calCtrlWrite (setBits v 0 0 0)) s)

/-- Up to eight firings of one PHS cycle (R78). As a command it stands for a service slot of a cycle after the one that
matched them. -/
def execDueQueueService (s : State) : Out := .next (iter 8 (fun _ t => dueServiceOne t) s)

def execPendingFiringEnqueue (s : State) : Out := .next (heldEnqueue s)

def execCalEditRead (a : Access) (k : Nat) (s : State) : Out :=
  .next (guarded a true .PHE_CAL_CMD k (editRead k) s)

def execCalEditWrite (a : Access) (k : Nat) (s : State) : Out :=
  .next (guarded a true .PHE_CAL_CMD k (editWrite k) s)

def execCalEditDisarm (a : Access) (k : Nat) (s : State) : Out :=
  .next (guarded a true .PHE_CAL_CMD k (editDisarm k) s)

def execCalEditDisarmPurge (a : Access) (k : Nat) (s : State) : Out :=
  .next (guarded a true .PHE_CAL_CMD k (editPurge k) s)

def execBlockCancel (a : Access) (b : Nat) (v : Word) (s : State) : Out :=
  .next (guarded a true .PHE_CAL_BLOCK b (calBlockWrite a b (setBits v 0 0 0)) s)

def execBlockEnable (a : Access) (b : Nat) (v : Word) (s : State) : Out :=
  .next (guarded a true .PHE_CAL_BLOCK b (calBlockWrite a b (setBits v 0 0 1)) s)

def execCancellationStart (s : State) : Out := .next (cancelStart s)

def execCancellationDone (s : State) : Out := .next (cancelDone s)

def execTioEdgePlace (i : Nat) (s : State) : Out := .next (pinPlace i s)

def execPulseTrailingEdge (i : Nat) (s : State) : Out := .next (pinTrail i s)

def execForceLow (a : Access) (i : Nat) (s : State) : Out :=
  .next (guarded a true .TIO_PIN_FORCE i (pinForce i 1) s)

def execForceHigh (a : Access) (i : Nat) (s : State) : Out :=
  .next (guarded a true .TIO_PIN_FORCE i (pinForce i 2) s)

def execForceToggle (a : Access) (i : Nat) (s : State) : Out :=
  .next (guarded a true .TIO_PIN_FORCE i (pinForce i 3) s)

/-- A write of TIO_PIN_CFG whose MODE is an output mode: 0b01, or 0b11 when the written bit 1 is set. level is the level
sampled at the contact. -/
def execPinModeOutput (a : Access) (i : Nat) (v : Word) (level : Bool) (s : State) : Out :=
  .next (guarded a true .TIO_PIN_CFG i (pinCfgWrite a i (setBits v 0 0 1) level) s)

/-- A write of TIO_PIN_CFG whose MODE is off or capture, or which changes PART or WORLD; the level that an input is sampled
at is free. -/
def execPinModeOffCapture (a : Access) (i : Nat) (v : Word) (s : State) : Out :=
  .next (guarded a true .TIO_PIN_CFG i (fun t => (pinCfgWrite a i v t.freeBit t).bump) s)

def execCaptureEdge (i : Nat) (ts : Word) (rising : Bool) (s : State) : Out := .next (pinCapture i ts rising s)

def execCapTbRead (a : Access) (i : Nat) (s : State) : Out :=
  .next (guarded a false .TIO_CAP_TB i (pinCapRead i) s)

end Sys2Proof.Machine
end

