-- ==== Sys2Proof/Machine/Hart.lean ====
section
/-! DEFINITION. Harts: registers, CSRs and their views, core states, interrupts and traps (R96 to R112, R438 to R446).
What the published RISC-V specifications define and this spec only names follows those specifications (PRESUMED). -/
namespace Sys2Proof.Machine

/-! ## Access to a hart -/

/-- A hart. -/
def State.hart (s : State) (h : Nat) : Hart := smapGet (fun _ => {}) s.harts h

/-- A hart changed. -/
def State.setHart (s : State) (h : Nat) (t : Hart) : State := { s with harts := smapSet (fun _ => {}) s.harts h t }

/-- A hart changed by a function. -/
def State.onHart (s : State) (h : Nat) (f : Hart → Hart) : State := s.setHart h (f (s.hart h))

/-- The core on which hart h runs, as 20 × die + position. -/
def coreOf (h : Nat) (s : State) : Nat := 20 * hartDie h s + hartPos h s

/-- The hart on core np. -/
def hartOn (np : Nat) (s : State) : Option Nat := hartAt (np / 20) (np % 20) s

/-- Register x of a hart; x0 reads 0. -/
def Hart.getX (t : Hart) (i : Nat) : Word := if i = 0 then 0 else smapGet (fun _ => 0) t.x i

/-- Register x of a hart written; x0 discards the value. -/
def Hart.setX (t : Hart) (i : Nat) (v : Word) : Hart :=
  if i % 32 = 0 then t else { t with x := smapSet (fun _ => 0) t.x (i % 32) v }

/-- A floating-point register written. -/
def Hart.setFp (t : Hart) (i : Nat) (v : Word) : Hart := { t with f := smapSet (fun _ => 0) t.f (i % 32) v }

/-- A vector register. -/
def Hart.getV (t : Hart) (i : Nat) : BitVec 256 := smapGet (fun _ => 0) t.v i

/-- Element e of n bytes of vector register i written. -/
def Hart.setElem (t : Hart) (i e n val : Nat) : Hart :=
  let o := 8 * (e * n)
  let m : BitVec 256 := BitVec.ofNat 256 ((2 ^ (8 * n) - 1) * 2 ^ o)
  let v := (t.getV i &&& ~~~ m) ||| BitVec.ofNat 256 (val % 2 ^ (8 * n) * 2 ^ o)
  { t with v := smapSet (fun _ => 0) t.v i v }

/-! ## CSR storage -/

/-- CSR addresses that the model names. -/
def CSR.mstatus : Nat := 0x300
/-- mie. -/
def CSR.mie : Nat := 0x304
/-- mip, the software-writable bits. -/
def CSR.mip : Nat := 0x344
/-- mideleg. -/
def CSR.mideleg : Nat := 0x303
/-- hstatus. -/
def CSR.hstatus : Nat := 0x600
/-- vsstatus. -/
def CSR.vsstatus : Nat := 0x200
/-- szddlctl. -/
def CSR.szddlctl : Nat := 0x5C4
/-- mzdcfg. -/
def CSR.mzdcfg : Nat := 0x7C1
/-- mzdtsq. -/
def CSR.mzdtsq : Nat := 0x7C4
/-- mzdwait. -/
def CSR.mzdwait : Nat := 0x7C6
/-- szdtdbase. -/
def CSR.szdtdbase : Nat := 0x5C5

/-- The reset value of a CSR: GATE_DELAY = 100 in mzdwait (R104); dcsr in M-mode, and the triggers disabled (PRESUMED); 0
elsewhere, where the spec gives none. -/
def csrReset (a : Nat) : Word :=
  if a = CSR.mzdwait then 0x640000#64
  else if a = 0x7B0 then 0x40000003#64
  else if 0x1000 ≤ a ∧ a < 0x1008 then 0xF000000000000000#64
  else 0

/-- A stored CSR. -/
def Hart.c (t : Hart) (a : Nat) : Word := smapGet csrReset t.csr a

/-- A stored CSR written. -/
def Hart.setC (t : Hart) (a : Nat) (v : Word) : Hart := { t with csr := smapSet csrReset t.csr a v }

/-- Bits hi to lo of a stored CSR written. -/
def Hart.setCBits (t : Hart) (a hi lo x : Nat) : Hart := t.setC a (fset ⟨.PHE_TB, hi, lo⟩ (t.c a) x)

/-- A bit of a stored CSR. -/
def Hart.cb (t : Hart) (a i : Nat) : Bool := (t.c a).getLsbD i

/-- SD, and UXL and SXL of 64 bits, as a status register shows them. -/
def statusView (v : Word) : Word :=
  let sd : Bool := bits v 14 13 == 3 || bits v 10 9 == 3
  (v &&& ~~~ 0x8000000F00000000#64) ||| 0xA00000000#64 ||| (if sd then 0x8000000000000000#64 else 0)

/-- mstatus as it reads. -/
def Hart.mstatus (t : Hart) : Word := statusView (t.c CSR.mstatus)

/-- The value that a write of v leaves in mstatus: the fields of the options of R96, and MPP only M, S or U. The layout is
that of the published privileged rules. -/
def mstatusPut (old v : Word) : Word :=
  let m : Word := 0xC0007E7FAA#64
  let v := if bits v 12 11 = 2 then setBits v 12 11 (bits old 12 11) else v
  (old &&& ~~~ m) ||| (v &&& m)

/-! ## Debug stops (R578). The layouts of dcsr and of the triggers are PRESUMED, from the RISC-V debug specification. tdata1
and tdata2 of trigger k are stored as 0x1000 + k and 0x1008 + k. -/

/-- The mode bits of a trigger cover the hart's mode. -/
def Hart.trigMode (t : Hart) (d : Word) (m s u vs vu : Nat) : Bool :=
  bit d (if t.virt then (if t.priv = 0 then vu else vs) else if t.priv = 3 then m else if t.priv = 0 then u else s)

/-- The action of trigger k if it fires before the instruction at the pc: an mcontrol6 that matches it, or an icount that is
pending. 0 is a breakpoint exception, 1 a halt. -/
def Hart.trig (t : Hart) (k : Nat) : Option Nat :=
  let d := t.c (0x1000 + k)
  match bits d 63 60 with
  | 6 => if bit d 2 && t.trigMode d 6 4 3 24 23 && t.pc == t.c (0x1008 + k) then some (bits d 15 12) else none
  | 3 => if bit d 8 && t.trigMode d 9 7 6 26 25 then some (bits d 5 0) else none
  | _ => none

/-- The lowest trigger that fires, with its action. -/
def Hart.trigHit (t : Hart) : Option (Nat × Nat) := (List.range 8).findSome? fun k => (t.trig k).map fun a => (k, a)

/-- The instruction after a resume with dcsr.step has run. -/
def Hart.stepDone (t : Hart) : Bool := t.step.any (· != t.pc)

/-- The hart stops before its next instruction: for a halt that the enable of its world admits, or for a breakpoint. -/
def Hart.dbgStop (t : Hart) (inv : Bool) : Bool :=
  match t.trigHit with
  | some (_, 0) => true
  | some _ => inv
  | none => inv && (t.haltReq || t.stepDone)

/-- icount trigger k counts an instruction. -/
def Hart.icount (t : Hart) (k : Nat) : Hart :=
  let d := t.c (0x1000 + k)
  let n := bits d 23 10
  if bits d 63 60 = 3 ∧ t.trigMode d 9 7 6 26 25 ∧ n ≠ 0 then
    let d := setBits d 23 10 (n - 1)
    t.setC (0x1000 + k) (if n = 1 then setBits d 8 8 1 else d)
  else t

/-! ## Counters (R100). What the spec leaves to the published RISC-V specifications follows them (PRESUMED): the mode
filters, the overflow bit and interrupt 13 of Sscofpmf, and that a counter wraps. -/

/-- Hardware counter k counts in the hart's mode: it is not inhibited, and none of its event's mode filters names the mode. -/
def Hart.counts (t : Hart) (k : Nat) : Bool :=
  !t.cb 0x320 k && (decide (k < 3) || !t.cb (0x320 + k)
    (if t.priv = 3 then 62 else if t.virt then (if t.priv = 0 then 58 else 59) else if t.priv = 0 then 60 else 61))

/-- Counter k counts one. A hardware counter that wraps sets its overflow bit, and raises interrupt 13 when that was 0. -/
def Hart.tick (t : Hart) (k : Nat) : Hart :=
  let v := t.c (0xB00 + k)
  let t := t.setC (0xB00 + k) (v + 1)
  if v = BitVec.allOnes 64 ∧ 3 ≤ k ∧ !t.cb (0x320 + k) 63 then
    (t.setCBits (0x320 + k) 63 63 1).setCBits CSR.mip 13 13 1
  else t

/-- An event of R100's table: the hardware counters that select it count one. -/
def Hart.event (t : Hart) (code : Nat) : Hart :=
  [3, 4, 5, 6, 7, 8, 9, 10].foldl (fun t k =>
    if t.c (0x320 + k) &&& 0xFFFFFFFFFFFFFF#64 = BitVec.ofNat 64 code ∧ t.counts k then t.tick k else t) t

/-- An instruction retires: minstret counts it (R100). -/
def Hart.retired (t : Hart) : Hart := if t.counts 2 then t.tick 2 else t

/-- The hart goes past an instruction of len bytes: the icount triggers count it, a halt that its trigger could not cause is
held, and the pc moves on. -/
def Hart.moved (t : Hart) (len : Nat) : Hart :=
  let held := t.trigHit.isSome
  let t := (List.range 8).foldl Hart.icount t
  { t with pc := t.pc + BitVec.ofNat 64 len, haltReq := t.haltReq || held }

/-- An instruction of len bytes done. -/
def Hart.past (t : Hart) (len : Nat) : Hart := (t.retired).moved len

/-! ## Readiness -/

/-- The hart can execute an instruction at pc: its core is in RUN on a die that is ON, not halted, not stalled, and with
no trap outstanding. -/
def hartRuns (h : Nat) (s : State) : Bool :=
  let t := s.hart h
  hartExists h s && dieOn (hartDie h s) s && t.st == .run && !t.halted && !t.dbgStop (effI t.w s) && t.trap.isNone &&
    t.stall == .none && t.start.isNone && !s.b F.PQ_HART_RESTARTING h

/-- The instruction of i can execute. -/
def canIssue (i : Issue) (s : State) : Bool := hartRuns i.hart s && (s.hart i.hart).pc == i.pc

/-- The instruction can execute and every older load has retired. -/
def canSettle (i : Issue) (s : State) : Bool := canIssue i s && (s.hart i.hart).loads.isEmpty

/-- The instruction can execute, every older load has retired and the store buffer is empty (R209). -/
def canDrained (i : Issue) (s : State) : Bool := canSettle i s && (s.hart i.hart).sb.isEmpty

/-- The hart moves past an instruction. -/
def pass (i : Issue) (s : State) : State := s.onHart i.hart fun t => t.past i.len

/-- The hart raises an exception at an instruction: its trap entry follows (R211). -/
def raise (i : Issue) (cause : Nat) (tval : Word) (s : State) : State :=
  s.onHart i.hart fun t => { t with trap := some { cause := cause, tval := tval, epc := i.pc } }

/-- The partition that a hart's transactions carry (R418). -/
def txPart (h : Nat) (s : State) : Nat := if (s.hart h).virt then hartPart h s else 0

/-! ## IMSIC files (R438) -/

/-- File f of a hart. -/
def Hart.file (t : Hart) (f : Nat) : Imsic := smapGet (fun _ => {}) t.imsic f

/-- File f of a hart changed. -/
def Hart.setFile (t : Hart) (f : Nat) (v : Imsic) : Hart := { t with imsic := smapSet (fun _ => {}) t.imsic f v }

/-- The number with bit i set. -/
def natSetBit (v i : Nat) (b : Bool) : Nat :=
  if b then (if v.testBit i then v else v + 2 ^ i) else (if v.testBit i then v - 2 ^ i else v)

/-- The identity of the highest-priority pending and enabled interrupt of a file, 0 for none: the lowest, below its
threshold when that is not 0. -/
def Imsic.top (f : Imsic) : Nat :=
  let live := f.eip &&& f.eie
  match (List.range 2047).find? fun k => live.testBit (k + 1) with
  | some k => if f.thresh ≠ 0 ∧ f.thresh ≤ k + 1 then 0 else k + 1
  | none => 0

/-- A file raises its interrupt. -/
def Imsic.asserts (f : Imsic) : Bool := f.deliv == 1 && f.top != 0

/-- The machine-level file that the current world reaches: the Secure file, 9, or the Open machine file, 8 (R440). -/
def Hart.mFile (t : Hart) : Nat := if t.w then 9 else 8

/-! ## Interrupts (R106, R384, R444, R445) -/

/-- MISS of monitor m. -/
def Hart.miss (t : Hart) (m : Nat) : Bool := t.cb CSR.szddlctl (8 * m + 5)

/-- Some monitor has MISS = 1: bit 16 of mip (R106). -/
def Hart.anyMiss (t : Hart) : Bool := (List.range 4).any t.miss

/-- A monitor of world w has MISS = 1 (R134). -/
def Hart.missIn (t : Hart) (w : Bool) : Bool := (List.range 4).any fun m => t.miss m && (t.monW.testBit m == w)

/-- The time CSR (R99). -/
def hartTime (s : State) : Word := s.tb >>> 5

/-- The guest file that hstatus.VGEIN selects; a value above 7 acts as 0 (R438). -/
def Hart.vgein (t : Hart) : Nat := let v := bits (t.c CSR.hstatus) 17 12; if v > 7 then 0 else v

/-- hgeip: bit g while guest file g asserts (R438). -/
def Hart.hgeip (t : Hart) : Nat :=
  (List.range 7).foldl (fun a g => if (t.file (g + 1)).asserts then a + 2 ^ (g + 1) else a) 0

/-- mip as it reads: the writable bits, the timer and external bits that hardware drives, and bit 16 (R106, R440). -/
def hartMip (h : Nat) (s : State) : Nat :=
  let t := s.hart h
  let sw := (t.c CSR.mip).toNat
  let b (i : Nat) (x : Bool) (v : Nat) : Nat := natSetBit v i x
  let stce := t.cb 0x30A 63
  let v := b 16 t.anyMiss sw
  let v := if stce then b 5 (decide ((t.c 0x14D).toNat ≤ (hartTime s).toNat)) v else v
  let v := if stce && t.cb 0x60A 63 then
      b 6 (v.testBit 6 || decide ((t.c 0x24D).toNat ≤ (hartTime s + t.c 0x605).toNat)) v else v
  let v := b 9 (v.testBit 9 || (t.file 0).asserts) v
  let v := b 10 (v.testBit 10 || (t.vgein ≠ 0 && (t.file t.vgein).asserts)) v
  let v := b 11 (t.file t.mFile).asserts v
  b 12 (t.hgeip &&& (t.c 0x607).toNat != 0) v

/-- The interrupts that the hart's world may take: in the Secure world those of the Open files and of Open monitors stay
pending, and in the Open world those of Secure monitors wait for Secure entry (R384, R440, R445). -/
def hartLive (h : Nat) (s : State) : Nat :=
  let t := s.hart h
  let p := hartMip h s &&& (t.c CSR.mie).toNat
  let p := natSetBit p 16 (p.testBit 16 && t.missIn t.w)
  if t.w then natSetBit (natSetBit (natSetBit p 9 false) 10 false) 12 false else p

/-- The default order of the local and external interrupts (AIA), highest first. -/
def irqOrder : List Nat := [11, 3, 7, 9, 1, 5, 12, 10, 2, 6, 13, 16]

/-- mideleg as it reads: the bits of the VS interrupts and of interrupt 12 are 1 (R96). -/
def Hart.mideleg (t : Hart) : Word := t.c CSR.mideleg ||| 0x1444#64

/-- The privilege to which an interrupt goes: 3 machine, 1 HS, 0 VS. -/
def irqTarget (t : Hart) (c : Nat) : Nat :=
  if !t.mideleg.getLsbD c then 3 else if !(t.c 0x603).getLsbD c then 1 else 0

/-- A level's interrupts can be taken now: its mode is below, or equal with its enable set. -/
def levelOpen (t : Hart) (lvl : Nat) : Bool :=
  if lvl = 3 then decide (t.priv < 3) || t.cb CSR.mstatus 3
  else if lvl = 1 then t.virt || decide (t.priv < 1) || (t.priv == 1 && t.cb CSR.mstatus 1)
  else t.virt && (decide (t.priv < 1) || (t.priv == 1 && t.cb CSR.vsstatus 1))

/-- The iprio byte of interrupt 16 at a level (R444): mireg or sireg 0x34. -/
def Hart.iprio16 (t : Hart) (lvl : Nat) : Nat := (t.c (if lvl = 3 then 0x10034 else 0x11034)).toNat % 256

/-- The identity of the external interrupt that competes with interrupt 16 at a level (R444). -/
def extIdentity (t : Hart) (lvl : Nat) : Nat :=
  if lvl = 3 then (t.file t.mFile).top else if lvl = 1 then (t.file 0).top
  else if t.vgein = 0 then 0 else (t.file t.vgein).top

/-- The external interrupt of a level. -/
def extCause (lvl : Nat) : Nat := if lvl = 3 then 11 else if lvl = 1 then 9 else 10

/-- The interrupt that the hart takes next at a level: the first in the default order, with interrupt 16 placed by its
iprio (R444). -/
def irqAt (h lvl : Nat) (s : State) : Option Nat :=
  let t := s.hart h
  let live := (irqOrder.filter fun c => (hartLive h s).testBit c && irqTarget t c == lvl)
  let ip := t.iprio16 lvl
  let ext := extCause lvl
  if live.contains 16 && live.contains ext && ip ≠ 0 && decide (ip < extIdentity t lvl) then
    match live.head? with
    | some c => if c = ext then some 16 else some c
    | none => none
  else live.head?

/-- The interrupt that the hart takes now, and its level (R384, R444). -/
def irqTaken (h : Nat) (s : State) : Option (Nat × Nat) :=
  let t := s.hart h
  ([3, 1, 0].filterMap fun lvl => if levelOpen t lvl then (irqAt h lvl s).map fun c => (c, lvl) else none).head?

/-- A Secure interrupt is pending and enabled for a hart in the Open world (R445). -/
def secureIrq (h : Nat) (s : State) : Bool :=
  let t := s.hart h
  !t.w && ((t.file 9).asserts || (t.missIn true && (t.c CSR.mie).getLsbD 16))

/-- An enabled interrupt is pending, as WFI specifies: whatever the global masks (R110, R384). -/
def irqWakes (h : Nat) (s : State) : Bool :=
  (hartLive h s != 0) || (secureIrq h s && s.b F.WC_SENTRY_VALID h)

/-! ## Taking a trap, and returning (R102, R211) -/

/-- Status after entry to M-mode. -/
def enterM (t : Hart) (isInt : Bool) (cause : Nat) (tval epc : Word) : Hart :=
  let ms := t.c CSR.mstatus
  let ms := fset ⟨.PHE_TB, 7, 7⟩ ms (bits ms 3 3)
  let ms := fset ⟨.PHE_TB, 3, 3⟩ ms 0
  let ms := fset ⟨.PHE_TB, 12, 11⟩ ms t.priv
  let ms := fset ⟨.PHE_TB, 39, 39⟩ ms (if t.virt then 1 else 0)
  let t := (((t.setC CSR.mstatus ms).setC 0x341 epc).setC 0x342
    (BitVec.ofNat 64 (cause + if isInt then 2 ^ 63 else 0))).setC 0x343 tval
  let base := t.c 0x305
  let vec := base &&& ~~~ 3#64
  { t with priv := 3, virt := false,
           pc := if isInt ∧ base.getLsbD 0 then vec + BitVec.ofNat 64 (4 * cause) else vec }

/-- Status after entry to HS-mode. -/
def enterHS (t : Hart) (isInt : Bool) (cause : Nat) (tval epc : Word) : Hart :=
  let ms := t.c CSR.mstatus
  let ms := fset ⟨.PHE_TB, 5, 5⟩ ms (bits ms 1 1)
  let ms := fset ⟨.PHE_TB, 1, 1⟩ ms 0
  let ms := fset ⟨.PHE_TB, 8, 8⟩ ms (if t.priv = 0 then 0 else 1)
  let hs := fset ⟨.PHE_TB, 7, 7⟩ (t.c CSR.hstatus) (if t.virt then 1 else 0)
  let hs := if t.virt then fset ⟨.PHE_TB, 8, 8⟩ hs (if t.priv = 0 then 0 else 1) else hs
  let t := ((((t.setC CSR.mstatus ms).setC CSR.hstatus hs).setC 0x141 epc).setC 0x142
    (BitVec.ofNat 64 (cause + if isInt then 2 ^ 63 else 0))).setC 0x143 tval
  let base := t.c 0x105
  let vec := base &&& ~~~ 3#64
  { t with priv := 1, virt := false,
           pc := if isInt ∧ base.getLsbD 0 then vec + BitVec.ofNat 64 (4 * cause) else vec }

/-- Status after entry to VS-mode. The VS interrupts 2, 6 and 10 appear there as 1, 5 and 9. -/
def enterVS (t : Hart) (isInt : Bool) (cause : Nat) (tval epc : Word) : Hart :=
  let cause := if isInt ∧ (cause = 2 ∨ cause = 6 ∨ cause = 10) then cause - 1 else cause
  let vs := t.c CSR.vsstatus
  let vs := fset ⟨.PHE_TB, 5, 5⟩ vs (bits vs 1 1)
  let vs := fset ⟨.PHE_TB, 1, 1⟩ vs 0
  let vs := fset ⟨.PHE_TB, 8, 8⟩ vs (if t.priv = 0 then 0 else 1)
  let t := (((t.setC CSR.vsstatus vs).setC 0x241 epc).setC 0x242
    (BitVec.ofNat 64 (cause + if isInt then 2 ^ 63 else 0))).setC 0x243 tval
  let base := t.c 0x205
  let vec := base &&& ~~~ 3#64
  { t with priv := 1, virt := true,
           pc := if isInt ∧ base.getLsbD 0 then vec + BitVec.ofNat 64 (4 * cause) else vec }

/-- The level to which an exception goes by medeleg and hedeleg: 3, 1 or 0 (R106). -/
def excTarget (t : Hart) (c : Nat) : Nat :=
  if t.priv = 3 ∨ !(t.c 0x302).getLsbD c then 3
  else if t.virt ∧ (t.c 0x602).getLsbD c then 0 else 1

/-- A trap taken at a level. -/
def enterAt (lvl : Nat) (isInt : Bool) (cause : Nat) (tval epc : Word) (t : Hart) : Hart :=
  if lvl = 3 then enterM t isInt cause tval epc
  else if lvl = 1 then enterHS t isInt cause tval epc
  else enterVS t isInt cause tval epc

/-- Return from M-mode without a world switch. -/
def returnM (t : Hart) : Hart :=
  let ms := t.c CSR.mstatus
  let pp := bits ms 12 11
  let v := bit ms 39 && pp != 3
  let ms := fset ⟨.PHE_TB, 3, 3⟩ ms (bits ms 7 7)
  let ms := fset ⟨.PHE_TB, 7, 7⟩ ms 1
  let ms := fset ⟨.PHE_TB, 12, 11⟩ ms 0
  let ms := fset ⟨.PHE_TB, 39, 39⟩ ms 0
  let ms := if pp = 3 then ms else fset ⟨.PHE_TB, 17, 17⟩ ms 0
  { (t.setC CSR.mstatus ms) with priv := pp, virt := v, pc := t.c 0x341 }

/-- SRET with V = 0: return from HS-mode. -/
def returnHS (t : Hart) : Hart :=
  let ms := t.c CSR.mstatus
  let pp := bits ms 8 8
  let v := t.cb CSR.hstatus 7
  let ms := fset ⟨.PHE_TB, 1, 1⟩ ms (bits ms 5 5)
  let ms := fset ⟨.PHE_TB, 5, 5⟩ ms 1
  let ms := fset ⟨.PHE_TB, 8, 8⟩ ms 0
  let ms := fset ⟨.PHE_TB, 17, 17⟩ ms 0
  let t := (t.setC CSR.mstatus ms).setCBits CSR.hstatus 7 7 0
  { t with priv := pp, virt := v, pc := t.c 0x141 }

/-- SRET with V = 1: return from VS-mode. -/
def returnVS (t : Hart) : Hart :=
  let vs := t.c CSR.vsstatus
  let pp := bits vs 8 8
  let vs := fset ⟨.PHE_TB, 1, 1⟩ vs (bits vs 5 5)
  let vs := fset ⟨.PHE_TB, 5, 5⟩ vs 1
  let vs := fset ⟨.PHE_TB, 8, 8⟩ vs 0
  { (t.setC CSR.vsstatus vs) with priv := pp, pc := t.c 0x241 }

/-! ## World switch, restart, task state (R136, R142, R604) -/

/-- The Xzdtime state at a world switch: the held dispatch is dropped with error code 0x3, and the descriptor cache is
invalidated (R136, R142). -/
def worldSwitch (h : Nat) (s : State) : State :=
  let s := match (s.hart h).pend with
    | some d => calErr d.entry 3 s
    | none => s
  s.onHart h fun t => { t with pend := none, tdc := [] }

/-- A hart as a die reset leaves it, not released. -/
def hartClear (h : Nat) (s : State) : State := s.setHart h { ({} : Hart) with nextId := (s.hart h).nextId }

/-- The timed stores of a hart cancelled: those not yet matched leave, with their messages, and CANCELLED is set for each
world that had one (R142, R143). -/
def tsCancelAll (h : Nat) (s : State) : State :=
  let gone := (s.tsQ h).filter fun e => decide (e.stage ≤ 1)
  let mark (w : Bool) (s : State) : State :=
    if gone.any fun e => e.info.w == w then s.setB F.PHE_TSQ_STATUS_CANCELLED (tsIx h w) true else s
  let s := { s with out := s.out.filter fun m => match m with
    | .timed k _ => k != h
    | .tsCancel k _ _ => k != h
    | _ => true }
  mark true (mark false (s.setTsQ h ((s.tsQ h).filter fun e => decide (2 ≤ e.stage))))

/-! ## Core trace (R580) -/

/-- The trace stage of a core. -/
def State.coreTr (s : State) (np : Nat) : CoreTrace := smapGet (fun _ => {}) s.coreTrace np

/-- The trace stage of a core changed. -/
def State.setCoreTr (s : State) (np : Nat) (c : CoreTrace) : State :=
  { s with coreTrace := smapSet (fun _ => {}) s.coreTrace np c }

/-- Word 0 of a trace record. -/
def traceWord0 (kind h : Nat) (s : State) : Word :=
  BitVec.ofNat 64 (kind * 2 ^ 60 + h % 256 * 2 ^ 52 + s.tb.toNat % 2 ^ 48)

/-- A record into a core's stage: a full stage counts it as lost, and the next record is then a LOST record. -/
def tracePush (np h kind : Nat) (w1 : Word) (s : State) : State :=
  let c := s.coreTr np
  if 4 ≤ c.stage.length then s.setCoreTr np { c with lost := min (c.lost + 1) 0xFFFF }
  else if c.lost = 0 then s.setCoreTr np { c with stage := c.stage ++ [(traceWord0 kind h s, w1)] }
  else
    let c := { c with stage := c.stage ++ [(traceWord0 7 h s, BitVec.ofNat 64 c.lost)], lost := 0 }
    if 4 ≤ c.stage.length then s.setCoreTr np { c with lost := 1 }
    else s.setCoreTr np { c with stage := c.stage ++ [(traceWord0 kind h s, w1)] }

/-- The core of hart h is traced. -/
def traced (h : Nat) (s : State) : Bool := s.fbit F.CTR_CTRL_POS (hartDie h s) (hartPos h s)

/-- GAP_START and GAP_END as the non-invasive enable of the hart's world falls and rises. -/
def traceGap (h : Nat) (s : State) : State :=
  if !traced h s then s
  else
    let np := coreOf h s
    let on := effNI (s.hart h).w s
    if on == (s.coreTr np).gap then
      let s := tracePush np h (if on then 6 else 5) 0 s
      s.setCoreTr np { s.coreTr np with gap := !on }
    else s

/-- Entry to debug mode: dpc and dcsr take the pc, the mode and the cause (PRESUMED, the RISC-V debug specification). -/
def haltNow (h cause : Nat) (s : State) : State :=
  s.onHart h fun t =>
    let d := setBits (setBits (t.c 0x7B0) 8 6 cause) 1 0 t.priv
    let d := setBits (setBits d 5 5 (if t.virt then 1 else 0)) 31 28 4
    { ((t.setC 0x7B0 d).setC 0x7B1 t.pc) with halted := true, haltReq := false, step := none, st := .run, stall := .none,
                                                 priv := 3, virt := false }

/-- A hart as a die reset leaves it (R142, R604), released at an address. It halts there when resethaltreq is set and the
invasive enable of the Secure world is effective (R579). The numbers of its loads go on, so that no answer to an older load
meets a new one (R206). -/
def hartRestart (h : Nat) (pc : Word) (s : State) : State :=
  let s := s.setHart h { ({} : Hart) with pc := pc, st := .run, nextId := (s.hart h).nextId }
  let s := { s with dbg := { s.dbg with haveReset := natSetBit s.dbg.haveReset h true } }
  if s.dbg.resetHalt.testBit h && effI true s then haltNow h 5 s else s

/-- Trigger k has fired: its hit bit, and an icount is no longer pending. -/
def Hart.trigMark (t : Hart) (k : Nat) : Hart :=
  let d := t.c (0x1000 + k)
  t.setC (0x1000 + k) (if bits d 63 60 = 3 then setBits (setBits d 24 24 1) 8 8 0 else setBits d 22 22 1)

/-- What stops a hart for debug, between two instructions: a trigger, a halt request, or the end of a step. -/
def haltFire (h : Nat) (s : State) : State :=
  let t := s.hart h
  match t.trigHit with
  | some (k, 0) => s.onHart h fun t => { (t.trigMark k) with trap := some { cause := 3, tval := t.pc, epc := t.pc } }
  | some (k, _) => haltNow h 2 (s.onHart h fun t => t.trigMark k)
  | none => haltNow h (if t.haltReq then 3 else 4) s

/-- A halt that the enable of the hart's world admits, or a breakpoint, is taken between two instructions; a halt request
otherwise stays held (R391, R578, R579). -/
def haltTry (h : Nat) (s : State) : State :=
  let t := s.hart h
  let st : Bool := match t.st with
    | .run | .wait _ => true
    | _ => false
  let free : Bool := match t.stall with
    | .desc | .storeRest .. | .tsCancel .. => false
    | _ => true
  if t.dbgStop (effI t.w s) && !t.halted && hartExists h s && dieOn (hartDie h s) s && st && free && t.loads.isEmpty &&
      t.trap.isNone && t.start.isNone then haltFire h s
  else s

/-- A halted hart leaves debug mode: pc and mode from dpc and dcsr (PRESUMED). A miss or an interrupt that came meanwhile
is taken next (R579). -/
def haltLeave (h : Nat) (s : State) : State :=
  s.onHart h fun t =>
    if t.halted then
      { t with halted := false, pc := t.c 0x7B1, step := if t.cb 0x7B0 2 then some (t.c 0x7B1) else none,
               priv := bits (t.c 0x7B0) 1 0, virt := t.cb 0x7B0 5 && bits (t.c 0x7B0) 1 0 != 3 }
    else t

/-- A traced core emits a record while the non-invasive enable of its world is 1. -/
def traceEmit (h kind : Nat) (w1 : Word) (s : State) : State :=
  let s := traceGap h s
  if traced h s && effNI (s.hart h).w s then tracePush (coreOf h s) h kind w1 s else s

/-! ## The phase replica at a hart (R60, R61, R115) -/

/-- The replica's value of SRC on CDn: the PHE's value while the rate, the direction and the extrapolation from the last
good broadcast agree with it, and otherwise that extrapolation, which stops where R53 stops an encoder port's (R60, R61). 8 and above is the timebase. -/
def replicaValue (n src : Nat) (s : State) : Word :=
  if 8 ≤ src then s.tb
  else
    let x := s.replica n
    let rate := (x.rate[src]?).getD 0
    let dir := (x.dir[src]?).getD false
    let base := (x.cnt[src]?).getD 0
    let move := BitVec.ofNat 64 (rate.toNat * (s.tb - x.tb).toNat / (16 * 2 ^ 32))
    let ext := stopAt ((x.lim[src]?).getD none) dir (if dir then base - move else base + move)
    let now := s.r .PHE_PORT_PHASE src
    if rate = s.r .PHE_PORT_INC src ∧ dir = s.b F.PHE_PORT_STATUS_DIR src ∧ (now - ext).toInt.natAbs ≤ 1 then now else ext

/-! ## Deadline monitors (R132, R133) -/

/-- The SRC of a monitor; 9 to 15 act as 8 (R104). -/
def Hart.monSrc (t : Hart) (m : Nat) : Nat := min 8 (bits (t.c CSR.szddlctl) (8 * m + 4) (8 * m + 1))

/-- EN of a monitor. -/
def Hart.monEn (t : Hart) (m : Nat) : Bool := t.cb CSR.szddlctl (8 * m)

/-- A monitor armed: its value and SRC, EN set, MISS cleared, and the current world recorded (R132). -/
def Hart.arm (t : Hart) (m src : Nat) (v : Word) : Hart :=
  let t := t.setC (0x5C0 + m) v
  let t := t.setC CSR.szddlctl (setBits (t.c CSR.szddlctl) (8 * m + 5) (8 * m) (src * 2 + 1))
  { t with monW := natSetBit t.monW m t.w }

/-- One test of an armed monitor: its SRC value is after its deadline, a deadline 2^31 cycles or more ahead counting as
passed (R598), or the replica is not valid; MISS is set and EN cleared (R133). -/
def deadlineTest (h m : Nat) (s : State) : State :=
  let t := s.hart h
  let n := hartDie h s
  if m < 4 && t.monEn m && (!replicaValid n s || phBefore (t.c (0x5C0 + m)) (replicaValue n (t.monSrc m) s)) then
    s.onHart h fun t => t.setC CSR.szddlctl (setBits (setBits (t.c CSR.szddlctl) (8 * m) (8 * m) 0) (8 * m + 5) (8 * m + 5) 1)
  else s

/-! ## Tasks (R135 to R138) -/

/-- A descriptor put into the cache as the latest used; the cache holds 8 (R136). -/
def tdcPut (d : Nat) (l : Line) (c : List (Nat × Line)) : List (Nat × Line) :=
  ((d, l) :: c.filter fun e => e.1 != d).take 8

/-- A descriptor in the cache. -/
def tdcFind (d : Nat) (c : List (Nat × Line)) : Option Line := (c.find? fun e => e.1 == d).map (·.2)

/-- Word k of a descriptor. -/
def descWord (l : Line) (k : Nat) : Word := BitVec.ofNat 64 (lineBytes l (8 * k) 8)

/-- A dispatch starts its task from its descriptor (R137, steps 2 to 5). -/
def taskStart (h : Nat) (d : Disp) (l : Line) (s : State) : State :=
  let flags := descWord l 3
  let s := s.onHart h fun t =>
    let t := if bit flags 3 then t.setX 2 (descWord l 1) else t
    let t := if bit flags 4 then t.setX 4 (descWord l 2) else t
    let t := { t with
      task0 := BitVec.ofNat 64 d.arg.toNat
      task1 := d.phase
      task2 := BitVec.ofNat 64 (d.entry % 65536 + d.desc % 256 * 2 ^ 16 + d.source % 16 * 2 ^ 24 + (if d.late then 2 ^ 31 else 0))
      task3 := d.inst }
    let m := bits flags 2 1
    let t := if bit flags 0 && !t.miss m then t.arm m (min 8 d.source) (d.phase + descWord l 4) else t
    { t.retired with pc := descWord l 0 &&& ~~~ 1#64, start := none, stall := .none, st := .run }
  traceEmit h 4 (BitVec.ofNat 64 (d.entry % 65536)) s

end Sys2Proof.Machine
end

