-- ==== Sys2Proof/Machine/CoreCache.lean ====
section
/-! DEFINITION. The arrays of a core: L1D sectors, L1I lines and L2 lines, their replacement by NRU with ageing, way
locks, world and partition hits, and errors (R146 to R152, R154, R156, R163, R166, R372, R423). -/
namespace Sys2Proof.Machine

/-! ## Replacement (R151) -/

/-- The victim among candidate ways with their ages: the lowest way of the greatest age, and how often every age below 3
is raised before it reaches 3. -/
def nruVictim (age : Nat → Nat) (cand : List Nat) : Option (Nat × Nat) :=
  let m := cand.foldl (fun m w => max m (age w)) 0
  (cand.find? fun w => age w == m).map fun w => (w, 3 - m)

/-- An age raised n times, to at most 3. -/
def aged (n a : Nat) : Nat := min 3 (a + n)

/-! ## Arrays -/

/-- L2 line at a key. -/
def State.l2L (s : State) (k : Nat) : L2Line := smapGet (fun _ => {}) s.l2 k
/-- L2 line changed. -/
def State.setL2 (s : State) (k : Nat) (l : L2Line) : State := { s with l2 := smapSet (fun _ => {}) s.l2 k l }
/-- The key of way w of a line's L2 set. -/
def l2Key (np line w : Nat) : Nat := np * 16384 + line % 1024 * 16 + w
/-- The L2 keys of a line's set. -/
def l2Keys (np line : Nat) : List Nat := (List.range 16).map (l2Key np line)
/-- The L2 way that holds a line, whatever its enable. -/
def l2Has (np line : Nat) (s : State) : Option Nat :=
  (l2Keys np line).find? fun k => (s.l2L k).st != 0 && (s.l2L k).line == line

/-- L1D sector at a key. -/
def State.l1dS (s : State) (k : Nat) : L1Set := smapGet (fun _ => {}) s.l1d k
/-- L1D sector changed. -/
def State.setL1d (s : State) (k : Nat) (l : L1Set) : State := { s with l1d := smapSet (fun _ => {}) s.l1d k l }
/-- The L1D keys of a line's set. -/
def l1dKeys (np line : Nat) : List Nat := (List.range 16).map fun w => np * 256 + line / 4 % 16 * 16 + w
/-- The L1D sector that holds a line's tag. -/
def l1dHas (np line : Nat) (s : State) : Option Nat :=
  (l1dKeys np line).find? fun k => (s.l1dS k).used && (s.l1dS k).tag == line / 4

/-- L1I line at a key. -/
def State.l1iS (s : State) (k : Nat) : L1Set := smapGet (fun _ => {}) s.l1i k
/-- L1I line changed. -/
def State.setL1i (s : State) (k : Nat) (l : L1Set) : State := { s with l1i := smapSet (fun _ => {}) s.l1i k l }
/-- The L1I keys of a line's set. -/
def l1iKeys (np line : Nat) : List Nat := (List.range 16).map fun w => np * 1024 + line % 64 * 16 + w
/-- The L1I way that holds a line. -/
def l1iHas (np line : Nat) (s : State) : Option Nat :=
  (l1iKeys np line).find? fun k => (s.l1iS k).used && (s.l1iS k).tag == line

/-- Sub-block i of a sector. -/
def L1Set.blk (t : L1Set) (i : Nat) : L1Block :=
  match i with
  | 0 => t.b0
  | 1 => t.b1
  | 2 => t.b2
  | _ => t.b3

/-- Sub-block i of a sector changed. -/
def L1Set.setBlk (t : L1Set) (i : Nat) (b : L1Block) : L1Set :=
  match i with
  | 0 => { t with b0 := b }
  | 1 => { t with b1 := b }
  | 2 => { t with b2 := b }
  | _ => { t with b3 := b }

/-- Enables of core np (R163). -/
def l2On (np : Nat) (s : State) : Bool := s.b F.CD_CORE_CACHE_CTRL_L2_EN np
/-- The L1D looks up and fills: it is disabled with the L2. -/
def l1dOn (np : Nat) (s : State) : Bool := s.b F.CD_CORE_CACHE_CTRL_L1D_EN np && l2On np s
/-- The L1I looks up and fills. -/
def l1iOn (np : Nat) (s : State) : Bool := s.b F.CD_CORE_CACHE_CTRL_L1I_EN np && l2On np s

/-! ## Locks (R154, R155) -/

/-- A lock register's range holds a line. -/
def lockHolds (v : Word) (line : Nat) : Bool :=
  bit v 63 && decide (bits v 47 16 * 65536 ≤ line * 64) &&
    decide (line * 64 < bits v 47 16 * 65536 + 2 ^ bits v 57 52)

/-- The ways of a set that a line may fill, from the lock registers and the ways already excluded: those of its own
range, or every way that no enabled range locks (R154). -/
def lockWays (locks : List Word) (line nways bad : Nat) : List Nat :=
  let usable := (List.range nways).filter fun w => !bad.testBit w
  match locks.find? fun v => lockHolds v line with
  | some v => usable.filter fun w => v.getLsbD w
  | none => usable.filter fun w => !locks.any fun v => bit v 63 && v.getLsbD w

/-- The L2 lock registers of a core. -/
def l2Locks (np : Nat) (s : State) : List Word := [s.r .CD_CORE_L2_LOCK (2 * np), s.r .CD_CORE_L2_LOCK (2 * np + 1)]

/-! ## Leaving the core -/

/-- The parts of an access inside one line and one page: their physical addresses and sizes. -/
def LAcc.parts (a : LAcc) : List (Nat × Nat) :=
  match a.pa2 with
  | some q => let n := 4096 - a.pa % 4096; [(a.pa, n), (q, a.size - n)]
  | none =>
    let n := min a.size (64 - a.pa % 64)
    if n = a.size then [(a.pa, n)] else [(a.pa, n), (a.pa + n, a.size - n)]

/-- An access of PMA memory touches a line. -/
def LAcc.onLine (a : LAcc) (line : Nat) (s : State) : Bool := a.parts.any fun p => inDram p.1 s && p.1 / 64 == line

/-- The performed but unretired loads of core np on a line are replayed (R199). -/
def replayLine (np line : Nat) (s : State) : State :=
  match hartOn np s with
  | none => s
  | some h => s.onHart h fun t =>
      { t with
        loads := t.loads.map fun l =>
          if l.amo.isSome then l
          else { l with accs := l.accs.map fun a =>
            if a.pbmt = 0 ∧ a.onLine line s then
              { a with val := none, sent := false, err := false, pois := false, p0 := none, p1 := none }
            else a } }

/-- The reservation of the hart on core np is lost when its line leaves M or the core. -/
def loseResv (np line : Nat) (s : State) : State :=
  match hartOn np s with
  | none => s
  | some h => s.onHart h fun t => if t.resv = some line then { t with resv := none } else t

/-- A line leaves the L1D and the L1I of a core. -/
def l1Drop (np line : Nat) (s : State) : State :=
  let s := match l1dHas np line s with
    | none => s
    | some k =>
      let t := (s.l1dS k).setBlk (line % 4) {}
      s.setL1d k (if t.b0.valid || t.b1.valid || t.b2.valid || t.b3.valid then t else {})
  match l1iHas np line s with
  | none => s
  | some k => s.setL1i k {}

/-- The L1 of a parity error, by its array code (R564): the L1I's line, or the L1D's sector, is invalidated (R166). -/
def l1Parity (np line array : Nat) (s : State) : State :=
  if array < 2 then
    match l1iHas np line s with
    | none => s
    | some k => s.setL1i k {}
  else
    match l1dHas np line s with
    | none => s
    | some k => s.setL1d k {}

/-- A line leaves those L1 arrays of a core that are enabled: a disabled array receives no invalidation (R163). -/
def l1Inval (np line : Nat) (s : State) : State :=
  let s := match l1dHas np line s with
    | some k =>
      if l1dOn np s then
        let t := (s.l1dS k).setBlk (line % 4) {}
        s.setL1d k (if t.b0.valid || t.b1.valid || t.b2.valid || t.b3.valid then t else {})
      else s
    | none => s
  match l1iHas np line s with
  | some k => if l1iOn np s then s.setL1i k {} else s
  | none => s

/-- A line leaves every enabled array of a core (R163). -/
def coreInval (np line : Nat) (s : State) : State :=
  let s := if l2On np s then
      match l2Has np line s with
      | some k => s.setL2 k {}
      | none => s
    else s
  loseResv np line (replayLine np line (l1Inval np line s))

/-- The agent ID of core np, which is also its slice's (R266). -/
def coreAgent (np : Nat) : Nat := np

/-- A packet of a core toward the slice of a line on its die. -/
def toSlice (np line : Nat) (p : Packet) (s : State) : State :=
  s.sendP { p with src := coreAgent np, dst := sliceAgent (np / 20) line, addr := line * 64 }

/-- An L2 line leaves: WbL for an M line, EvL for an E or S line (R180). The L1 copies leave with it. -/
def l2Evict (np k : Nat) (s : State) : State :=
  let l := s.l2L k
  if l.st = 0 then s
  else
    let s := if l.st = 3 then
        toSlice np l.line { op := .wbL, w := l.w, data := true, payload := l.data, poison := l.poison } s
      else toSlice np l.line { op := .evL, w := l.w } s
    loseResv np l.line (replayLine np l.line (l1Inval np l.line (s.setL2 k {})))

/-! ## Fills (R149, R151, R152, R154) -/

/-- The age of a fill: 3 for a streaming fill with STREAM_OLD (R151). -/
def fillAge (np : Nat) (stream : Bool) (s : State) : Nat :=
  if stream && s.b F.CD_CORE_CACHE_CTRL_STREAM_OLD np then 3 else 0

/-- A line installed in the L2, in a free way of its lock range or in place of the victim of R151. A disabled L2 takes only
the fills of a PRELOAD, which the caller marks with force (R159, R163). -/
def l2Fill (np line st : Nat) (w px stream force : Bool) (d : Line) (po : BitVec 2) (s : State) : State :=
  if !l2On np s && !force then s
  else
    let bad := smapGet (fun _ => 0) s.l2BadWay np
    let put (k : Nat) (s : State) : State :=
      s.setL2 k { line := line, st := st, w := w, px := px, age := fillAge np stream s,
                  ten := decide (2 ≤ st) && decide (0 < s.f F.CD_COH_CTRL_TENURE (np / 20)), poison := po, data := d }
    match l2Has np line s with
    | some k => put k s
    | none =>
      let cand := lockWays (l2Locks np s) line 16 bad
      match cand.find? fun w => (s.l2L (l2Key np line w)).st == 0 with
      | some w => put (l2Key np line w) s
      | none =>
        match nruVictim (fun w => (s.l2L (l2Key np line w)).age) cand with
        | none => s
        | some (v, n) =>
          let s := (l2Keys np line).foldl (fun t k =>
            let l := t.l2L k
            if l.st = 0 then t else t.setL2 k { l with age := aged n l.age }) s
          put (l2Key np line v) (l2Evict np (l2Key np line v) s)

/-- A sub-block filled into the L1D (R149): the existing sector, a free way, or the victim of R151. -/
def l1dFill (np line : Nat) (w px stream : Bool) (d : Line) (po : BitVec 2) (s : State) : State :=
  if !l1dOn np s then s
  else
    let b : L1Block := { valid := true, poison := po, data := d }
    match l1dHas np line s with
    | some k => s.setL1d k { (s.l1dS k).setBlk (line % 4) b with age := 0, w := w, px := px }
    | none =>
      let ks := l1dKeys np line
      let new (s : State) : L1Set :=
        ({ used := true, tag := line / 4, w := w, px := px, age := fillAge np stream s } : L1Set).setBlk (line % 4) b
      match ks.find? fun k => !(s.l1dS k).used with
      | some k => s.setL1d k (new s)
      | none =>
        match nruVictim (fun k => (s.l1dS k).age) ks with
        | none => s
        | some (k, n) =>
          let s := ks.foldl (fun t k => t.setL1d k { t.l1dS k with age := aged n (t.l1dS k).age }) s
          s.setL1d k (new s)

/-- A line filled into the L1I. -/
def l1iFill (np line : Nat) (w px : Bool) (d : Line) (po : BitVec 2) (s : State) : State :=
  if !l1iOn np s then s
  else
    let ks := l1iKeys np line
    let new : L1Set := { used := true, tag := line, w := w, px := px, b0 := { valid := true, poison := po, data := d } }
    match (l1iHas np line s).orElse fun _ => ks.find? fun k => !(s.l1iS k).used with
    | some k => s.setL1i k new
    | none =>
      match nruVictim (fun k => (s.l1iS k).age) ks with
      | none => s
      | some (k, n) =>
        let s := ks.foldl (fun t k => t.setL1i k { t.l1iS k with age := aged n (t.l1iS k).age }) s
        s.setL1i k new

/-! ## Lookup -/

/-- What a lookup in the core finds: a miss, a refusal by the world (R372) or by PX (R423), or data. -/
inductive CoreHit where
  | miss | world | part | data (d : Line) (po : BitVec 2)
  deriving DecidableEq, Repr

/-- The hit rules of R372 and R423 on a line of world lw with bit px, for an access of world w with V = v. -/
def hitRule (w v lw px : Bool) (d : Line) (po : BitVec 2) : CoreHit :=
  if !w && lw then .world else if v && !px then .part else .data d po

/-- An event counted by the hart on core np (R100). -/
def coreEvent (np code : Nat) (s : State) : State :=
  match hartOn np s with
  | some h => s.onHart h fun t => t.event code
  | none => s

/-- A load's lookup in the L1D, then the L2; a hit sets the age to 0, and an L2 hit fills the L1D and counts as an L1D
miss. -/
def coreLookup (np line : Nat) (w v stream : Bool) (s : State) : CoreHit × State :=
  let l1 := if l1dOn np s then (l1dHas np line s).filter fun k => ((s.l1dS k).blk (line % 4)).valid else none
  match l1 with
  | some k =>
    let t := s.l1dS k
    let b := t.blk (line % 4)
    (hitRule w v t.w t.px b.data b.poison, s.setL1d k { t with age := 0 })
  | none =>
    match (if l2On np s then l2Has np line s else none) with
    | some k =>
      let l := s.l2L k
      let s := s.setL2 k { l with age := 0 }
      match hitRule w v l.w l.px l.data l.poison with
      | .data d po => (.data d po, l1dFill np line l.w l.px stream d po (coreEvent np 2 s))
      | r => (r, s)
    | none => (.miss, s)

/-- The reservation or ownership a store needs: the L2 holds the line in M, or in E, which becomes M silently (R180). -/
def l2Owned (np line : Nat) (s : State) : Option Nat :=
  if l2On np s then (l2Has np line s).filter fun k => decide (2 ≤ (s.l2L k).st) else none

/-- The line of die n in the L3, by its key. -/
def l3Find (n line : Nat) (s : State) : Option Nat :=
  let base := ((n * 20 + line % 20) * 2048 + line / 20 % 2048) * 12
  ((List.range 12).map (base + ·)).find? fun k =>
    (smapGet (fun _ => ({} : L3Line)) s.l3 k).st != 0 && (smapGet (fun _ => ({} : L3Line)) s.l3 k).line == line

/-- An L3 line. -/
def State.l3L (s : State) (k : Nat) : L3Line := smapGet (fun _ => {}) s.l3 k

/-- An L3 line changed. -/
def State.setL3 (s : State) (k : Nat) (l : L3Line) : State := { s with l3 := smapSet (fun _ => {}) s.l3 k l }

/-- Bytes of a line that the L2 owns written, and the L1D sub-block with them when it is valid (R150, R200). A write of
a whole half clears its poison (R195). The die's line in E goes to M at the same time (R180). -/
def l2Write (np line k : Nat) (d : Line) (m : BitVec 64) (po : BitVec 2) (s : State) : State :=
  let l := s.l2L k
  let data := mergeLine l.data d m
  let p := poisonMerge l.poison po m
  let s := s.setL2 k { l with st := 3, data := data, poison := p, age := 0 }
  let s := match l3Find (np / 20) line s with
    | some j => if (s.l3L j).st = 3 then s.setL3 j { s.l3L j with st := 4 } else s
    | none => s
  if l1dOn np s then
    match l1dHas np line s with
    | some j =>
      let t := s.l1dS j
      if (t.blk (line % 4)).valid then
        s.setL1d j (t.setBlk (line % 4) { valid := true, poison := p, data := data })
      else s
    | none => s
  else s

/-! ## Copies on their way out of a core -/

/-- The victim buffer entry of a line (R188). -/
def vbFind (n line : Nat) (s : State) : Option VbEntry := s.vb.find? fun v => v.die == n && v.line == line

/-- A WbL or EvL of a line by core np. -/
def isLeaving (np line : Nat) : Msg → Bool
  | .pkt q => (q.op == .wbL || q.op == .evL) && q.addr == line * 64 && q.src == coreAgent np
  | _ => false

/-- A WbL or EvL of a line is on its way from core np to the slice: it is what takes the core out of the presence vector. -/
def leaving (np line : Nat) (s : State) : Bool := s.out.any (isLeaving np line)

/-- The dirty data that core np still has for a line: in its L2, or in a WbL on its way to the slice. -/
def coreDirty (np line : Nat) (s : State) : Option (Line × BitVec 2) :=
  match (if l2On np s then l2Has np line s else none).filter fun k => (s.l2L k).st == 3 with
  | some k => some ((s.l2L k).data, (s.l2L k).poison)
  | none => s.out.findSome? fun m => match m with
    | .pkt q => if isLeaving np line m && q.op == .wbL then some (q.payload, q.poison) else none
    | _ => none

/-- Core np loses a line at once, with what it has on its way to the slice. -/
def coreStrip (np line : Nat) (s : State) : State :=
  coreInval np line (s.dropOut (isLeaving np line))

/-! ## Errors in the arrays (R166, R167) -/

/-- The row record of an array error (R555). -/
def arrayDetail (die array inst row : Nat) : Nat := die * 2 ^ 40 + array * 2 ^ 32 + inst * 2 ^ 16 + row

/-- Both tag copies of an L2 line are bad: the way is disabled until die reset, the copies in the core go, and the slice
learns by EvL that the core does not hold the line. The state before: M or not. -/
def l2TagLost (np k : Nat) (s : State) : State :=
  let l := s.l2L k
  let s := { s with l2BadWay := smapSet (fun _ => 0) s.l2BadWay np
                      (smapGet (fun _ => 0) s.l2BadWay np ||| 2 ^ (k % 16)) }
  toSlice np l.line { op := .evL, w := l.w } (loseResv np l.line (replayLine np l.line (l1Drop np l.line (s.setL2 k {}))))

/-- Both tag copies of an L3 line are bad: the way is disabled until die reset, and the line goes with the copies that the
lost presence vector spoke of. -/
def l3TagLost (die k : Nat) (s : State) : State :=
  let line := (s.l3L k).line
  let s := iter 20 (fun c t => coreStrip (20 * die + c) line t) s
  (s.setL3 k {}).setFbit F.CD_L3_WAYDIS_WAYDIS (die * 20 + line % 20) (k % 12) true

/-- An error that an access of core np to a line meets: L1 parity is recovered by invalidation; L2 and L3 data and tags
are corrected and counted; uncorrectable data is poisoned, and two bad tag copies disable the way (R166, R167). -/
def cacheError (np line : Nat) (e : CacheErr) (s : State) : State :=
  let die := np / 20
  let isL3 := e.array = 8 ∨ e.array = 9 ∨ e.array = 10
  let inst := if isL3 then line % 20 else np % 20
  let src := if isL3 then sliceAgent die line else coreAgent np
  let rec' (ty sev : Nat) (s : State) : State :=
    report ty sev false (some (line * 64)) 0 src (arrayDetail die e.array inst e.row) s
  if e.array ≤ 3 then
    (l1Parity np line e.array s).satInc F.CD_CACHE_ERRCNT_L1_PAR die
  else if !e.ue then
    if e.array = 4 then rec' 1 1 (s.satInc F.CD_CACHE_ERRCNT_L2_CE die)
    else if e.array = 8 then rec' 1 1 (s.satInc F.CD_CACHE_ERRCNT_L3_CE die)
    else rec' 1 1 (s.satInc F.CD_CACHE_ERRCNT_TAGFIX die)
  else if isL3 then
    match l3Find die line s with
    | none => s
    | some k =>
      let l := s.l3L k
      if e.array = 8 then rec' 2 2 (s.setL3 k { l with poison := l.poison ||| (1#2 <<< (e.half % 2)) })
      else rec' 2 (if l.st = 4 then 3 else 2) (l3TagLost die k s)
  else
    match l2Has np line s with
    | none => s
    | some k =>
      let l := s.l2L k
      if e.array = 4 then rec' 2 2 (l1Drop np line (s.setL2 k { l with poison := l.poison ||| (1#2 <<< (e.half % 2)) }))
      else rec' 2 (if l.st = 3 then 3 else 2) (l2TagLost np k s)

end Sys2Proof.Machine
end

