-- ==== Sys2Proof/Machine/LoadStore.lean ====
section
/-! DEFINITION. Loads, the store buffer and the requests they make (R98, R101, R199 to R208, R258, R418), and the tags
of open requests (R286 to R288). -/
namespace Sys2Proof.Machine

/-! ## Tags (R287, R288) -/

/-- A tag of an initiator is open, in quarantine or withdrawn: a core and the slice beside it have one agent ID (R266). -/
def tagTaken (src n : Nat) (s : State) : Bool :=
  (s.txs.any fun t => t.src == src && t.tag == n) || (s.l2Pend.any fun q => coreAgent q.np == src && q.tag == n) ||
    s.l3Pend.any fun q => sliceAgent q.die q.line == src && q.tag == n

/-- The lowest tag of an initiator that is free. -/
def newTag (src : Nat) (s : State) : Nat := ((List.range 1024).find? fun n => !tagTaken src n s).getD 0

/-- A request opened by an initiator and sent. send tells how it leaves: a core's request passes its die's UP point. -/
def openTx (own : TxOwner) (p : Packet) (s : State) : State :=
  let tag := newTag p.src s
  let p := { p with tag := tag }
  let s := { s with txs := s.txs ++
    [{ src := p.src, tag := tag, tgt := p.dst, addr := p.addr, op := p.op, own := own, w := p.w, part := p.part,
       t0 := s.tb }] }
  if p.src < 240 then sendUp (p.src / 20) true p s else s.sendP p

/-- The open request that a response matches: its tag, its sender and its address (R288). -/
def txMatch (p : Packet) (s : State) : Option Tx :=
  s.txs.find? fun t => t.src == p.dst && t.tag == p.tag && t.tgt == p.src && t.addr == p.addr

/-- A response matched: an open request ends and is returned; one in quarantine, withdrawn or unknown is discarded and
counted in LATE_CNT, and a quarantined tag is freed (R288). -/
def closeTx (p : Packet) (s : State) : Option Tx × State :=
  match txMatch p s with
  | some t =>
    if t.phase = 0 then (some t, { s with txs := s.txs.erase t })
    else if t.phase = 1 then (none, ({ s with txs := s.txs.erase t } : State).satInc F.FAB_STATUS_LATE_CNT 0)
    else (none, s.satInc F.FAB_STATUS_LATE_CNT 0)
  | none => (none, s.satInc F.FAB_STATUS_LATE_CNT 0)

/-! ## Address ranges (R32, R33, R603) -/

/-- An I/O region of R603. -/
def inIo (a : Nat) : Bool :=
  (decide (0x008000000000 ≤ a) && decide (a < 0x00FF00000000)) || decide (0xFF0000000000 ≤ a)

/-- The MMIO blocks of R33 in the order of its rows: offset from 0xFF00_0000_0000 and size. -/
def mmioRows : List (Nat × Nat) :=
  [(0x00000000, 0x100000), (0x00100000, 0x100000), (0x01000000, 0x100000), (0x01100000, 0x100000),
   (0x02000000, 0x1000000), (0x03000000, 0x100000), (0x03100000, 0x100000), (0x04000000, 0x400000),
   (0x05000000, 0x100000), (0x06000000, 0x800000), (0x07000000, 0x100000), (0x08000000, 0x100000),
   (0x08100000, 0x100000), (0x09000000, 0x1000000), (0x0A000000, 0x400000), (0x0B000000, 0x100000),
   (0x0C000000, 0x100000), (0x0D000000, 0x1000000)]

/-- The IOD block that holds an MMIO address. -/
def mmioBlock (a : Nat) : Option Nat :=
  let o := a - 0xFF0000000000
  if a < 0xFF0000000000 then none
  else mmioRows.findIdx? fun r => decide (r.1 ≤ o) && decide (o < r.1 + r.2)

/-- Outbound root window i = 16 n + o maps an address (R453). -/
def owinHas (i a : Nat) (s : State) : Bool :=
  let b := s.f F.PE_OWIN_BASE_VAL i * 65536
  s.b F.PE_OWIN_CFG_EN i && decide (b ≤ a) && decide (a < b + 2 ^ s.f F.PE_OWIN_CFG_SIZE i)

/-- Outbound Paleg window i maps an address (R486). -/
def plOwinHas (i a : Nat) (s : State) : Bool :=
  let b := s.f F.PL_OWIN_BASE_VAL i * 65536
  s.b F.PL_OWIN_CFG_EN i && decide (b ≤ a) && decide (a < b + 2 ^ s.f F.PL_OWIN_CFG_SIZE i)

/-- Where an I/O access goes: a PCIe window, a Paleg window, a block of the IOD, the register agent of a die, or
nowhere (R32, R33, R453, R486). An access to DRAM with PBMT IO goes to its home agent. -/
inductive IoTarget where
  | mem (k : Nat) | pcie (win : Nat) | paleg (win : Nat) | block (row : Nat) | die (n : Nat) | none
  deriving DecidableEq, Repr

/-- The hart whose IMSIC page holds an address (R439). -/
def imsicHart (a : Nat) : Nat :=
  if a < 0xFF1080000000 then (a - 0xFF1000000000) / 0x2000 else (a - 0xFF1080000000) / 0x8000

/-- The target of an I/O access. -/
def ioTarget (a : Nat) (s : State) : IoTarget :=
  if a < 0x00F000000000 then
    if a < 0x008000000000 then (if inDram a s then .mem (mcOf a) else .none)
    else match (List.range 128).find? fun i => owinHas i a s with
      | some i => .pcie i
      | none => .none
  else if a < 0x00FF00000000 then
    match (List.range 16).find? fun i => plOwinHas i a s with
    | some i => .paleg i
    | none => .none
  else match mmioBlock a with
    | some i => .block i
    | none =>
      if 0xFF1000000000 ≤ a ∧ a < 0xFF2000000000 then .die (hartDie (imsicHart a) s)
      else if 0xFF2000000000 ≤ a ∧ a < 0xFF2C00000000 then .die ((a - 0xFF2000000000) / 0x100000000)
      else .none

/-- The agent that serves an I/O target; an address that nothing maps ends at a sink (R266, R283). -/
def ioAgent : IoTarget → Nat
  | .mem k => 0x100 + k
  | .pcie w => 0x118 + w / 16
  | .paleg _ => 0x120
  | .block i => 0x140 + i
  | .die n => 0xF0 + n
  | .none => 0x1FF

/-- The target of an I/O access as R205 tells targets apart: one block, or one PCIe or Paleg port. -/
def ioKey (tg : IoTarget) (s : State) : Nat :=
  match tg with
  | .paleg w => 0x200 + s.f F.PL_RT_VAL (s.f F.PL_OWIN_CFG_DEST w)
  | tg => ioAgent tg

/-! ## The store buffer (R201 to R203) -/

/-- SB_COUNT and SB_MAX of the hart's core (R217). -/
def sbCount (h : Nat) (s : State) : State :=
  let np := coreOf h s
  let n := (s.hart h).sb.length
  let s := s.setF F.CD_CORE_ORD_STATUS_SB_COUNT np n
  if s.f F.CD_CORE_ORD_STATUS_SB_MAX np < n then s.setF F.CD_CORE_ORD_STATUS_SB_MAX np n else s

/-- The 16-byte block of an address. -/
def blockOf (a : Nat) : Nat := a / 16 * 16

/-- A piece of a store inside one line: its address, its bytes and their value. -/
structure Piece where
  pa   : Nat
  size : Nat
  val  : Nat
  deriving DecidableEq, Repr

/-- The piece lies inside one 16-byte block. -/
def Piece.inBlock (p : Piece) : Bool := blockOf p.pa == blockOf (p.pa + p.size - 1)

/-- An entry for a piece: on its 16-byte block when it lies inside one, else from its own first byte (R201). -/
def pieceEntry (p : Piece) (w : Bool) (pbmt part : Nat) (cls : TClass) : SbEntry :=
  let base := if p.inBlock then blockOf p.pa else p.pa
  let o := p.pa - base
  { kind := .store, pa := base, data := p.val % 2 ^ (8 * p.size) * 2 ^ (8 * o), mask := (2 ^ p.size - 1) * 2 ^ o,
    w := w, pbmt := pbmt, part := part, cls := cls, ea := p.pa }

/-- A store of PMA memory merges into the youngest entry when it falls inside that entry's 16-byte block (R202). -/
def sbMerges (e y : SbEntry) (s : State) : Bool :=
  e.kind == .store && y.kind == .store && e.pbmt == 0 && y.pbmt == 0 && inDram e.pa s && e.pa == y.pa &&
    e.pa % 16 == 0 && e.w == y.w && e.part == y.part && !y.sent

/-- Two entries of one block merged, the younger bytes on top. -/
def sbMerged (e y : SbEntry) : SbEntry :=
  let bytes := (List.range 16).foldl (fun a i =>
    a + (if e.mask.testBit i then e.data / 2 ^ (8 * i) % 256 else y.data / 2 ^ (8 * i) % 256) * 2 ^ (8 * i)) 0
  { y with data := bytes, mask := y.mask ||| e.mask }

/-- An entry retires into the store buffer. -/
def sbPush (e : SbEntry) (sb : List SbEntry) (s : State) : List SbEntry :=
  match sb.getLast? with
  | some y => if sbMerges e y s then sb.dropLast ++ [sbMerged e y] else sb ++ [e]
  | none => [e]

/-- An entry overlaps n bytes from a; a CBO overlaps its whole line (R203). -/
def sbOverlaps (a n : Nat) (e : SbEntry) : Bool :=
  match e.kind with
  | .store => (List.range n).any fun i => decide (e.pa ≤ a + i) && decide (a + i < e.pa + 16) && e.mask.testBit (a + i - e.pa)
  | .ts _ => false
  | _ => e.pa / 64 == a / 64 || e.pa / 64 == (a + n - 1) / 64

/-- What the store buffer says of a load: no overlap, data from one entry, or wait (R203). -/
inductive Forward where
  | no | data (v : Nat) | wait
  deriving DecidableEq, Repr

/-- Forwarding to a load of n bytes from a. -/
def sbForward (a n : Nat) (sb : List SbEntry) : Forward :=
  match (sb.filter (sbOverlaps a n)).getLast? with
  | none => .no
  | some e =>
    let all := e.kind == .store && (List.range n).all fun i =>
      decide (e.pa ≤ a + i) && decide (a + i < e.pa + 16) && e.mask.testBit (a + i - e.pa)
    if all then .data (e.data / 2 ^ (8 * (a - e.pa)) % 2 ^ (8 * n)) else .wait

/-! ## Requests of a core -/

/-- The fabric reads of core np that are outstanding: its line requests and its NC loads (R206). -/
def readsOpen (np : Nat) (s : State) : Nat :=
  (s.l2Pend.countP fun q => q.np == np && q.phase == 0 && q.op != .wrPart) +
    s.txs.countP fun t => t.src == coreAgent np && t.op == .rdNC && t.phase == 0

/-- A core sends its slice a request for a line, under a tag of its own. -/
def l2Send (np line : Nat) (p : Packet) (stream : Bool) (pf : Nat) (s : State) : State :=
  let tag := newTag (coreAgent np) s
  toSlice np line { p with tag := tag }
    { s with l2Pend := s.l2Pend ++
      [{ np := np, line := line, op := p.op, stream := stream, pf := pf, tag := tag, w := p.w, part := p.part, t0 := s.tb }] }

/-- A core asks its slice for a line. pf marks a prefetch. -/
def l2Ask (np line : Nat) (op : Op) (cls : TClass) (w : Bool) (part : Nat) (stream : Bool) (pf : Nat) (s : State) : State :=
  l2Send np line { op := op, cls := cls, w := w, part := part } stream pf s

/-- The request of core np for a line that is open. -/
def l2PendOf (np line : Nat) (s : State) : Option L2Pend :=
  s.l2Pend.find? fun q => q.np == np && q.line == line && q.phase == 0

/-- The line that the hardware prefetcher asks for: the next one in the direction of 4 consecutive misses to ascending or
descending lines, in the same 4 KiB page (R152). DESIGN CHOICE: the spec does not say which lines it asks for. -/
def prefetchLine : List Nat → Option Nat
  | [a, b, c, d] =>
    if a = b + 1 ∧ b = c + 1 ∧ c = d + 1 ∧ (a + 1) / 64 = a / 64 then some (a + 1)
    else if b = a + 1 ∧ c = b + 1 ∧ d = c + 1 ∧ a % 64 ≠ 0 then some (a - 1)
    else none
  | _ => none

/-- A demand load missed on a line: the prefetcher sees it, and asks for the line that follows unless PF_OFF is 1 (R152). -/
def prefetch (np line : Nat) (cls : TClass) (w : Bool) (part : Nat) (s : State) : State :=
  match hartOn np s with
  | none => s
  | some h =>
    let s := s.onHart h fun t => { t with misses := (line :: t.misses).take 4 }
    match prefetchLine (s.hart h).misses with
    | none => s
    | some next =>
      if (s.hart h).cb CSR.mzdcfg 1 || decide (32 ≤ readsOpen np s) || (l2Has np next s).isSome ||
          (l2PendOf np next s).isSome then s
      else l2Ask np next .rdS cls w part true 1 s

/-- A core's demand for a line, once, while fewer than 32 reads are outstanding (R180, R206). It counts as a miss (R100); one
that a prefetch has already asked for takes that over. -/
def l2Request (np line : Nat) (op : Op) (cls : TClass) (w : Bool) (part : Nat) (stream : Bool) (s : State) : State :=
  if (l2PendOf np line s).isSome then
    { s with l2Pend := s.l2Pend.map fun q =>
        if q.np = np ∧ q.line = line ∧ q.phase = 0 ∧ q.pf = 1 then { q with pf := 0 } else q }
  else if 32 ≤ readsOpen np s then s
  else
    let s := if op = .rdS then coreEvent np 2 s else s
    let s := if op = .rdS ∨ op = .rdX then coreEvent np 3 s else s
    let s := if cls = .gt then coreEvent np 9 s else s
    let s := l2Ask np line op cls w part stream 0 s
    if op = .rdS then prefetch np line cls w part s else s

/-- The core asks for M: Upg from S, RdX from I (R180). -/
def askM (np line : Nat) (cls : TClass) (w : Bool) (part : Nat) (s : State) : State :=
  match (if l2On np s then l2Has np line s else none) with
  | some k => if (s.l2L k).st = 1 then l2Request np line .upgL3 cls w part false s else s
  | none => l2Request np line .rdX cls w part false s

/-! ## Loads (R203, R205, R206, R258) -/

/-- The accesses of load i of a hart changed. -/
def setAcc (h id j : Nat) (f : LAcc → LAcc) (s : State) : State :=
  s.onHart h fun t => { t with loads := t.loads.map fun l =>
    if l.id = id then { l with accs := l.accs.mapIdx fun k a => if k = j then f a else a } else l }

/-- A refusal at a cache recorded (R372, R422, R423). -/
def cacheDeny (world : Bool) (k : DenyKind) (w : Bool) (part np a : Nat) (s : State) : State :=
  let acc : Access := ⟨w, part, coreAgent np⟩
  if world then denyWorld .cache k acc a s else denyPart .cache k acc a s

/-- A part of a cacheable access read from its line. -/
def LAcc.part (a : LAcc) (k v : Nat) (po : Bool) : LAcc :=
  if k = 0 then { a with p0 := some (v, po) } else { a with p1 := some (v, po) }

/-- A cacheable access performs once each of its parts has been read. -/
def LAcc.close (a : LAcc) : LAcc :=
  if a.val.isSome then a
  else match a.parts, a.p0, a.p1 with
    | [_], some x, _ => { a with val := some x.1, err := x.2, pois := x.2 }
    | [(_, n), _], some x, some y => { a with val := some (x.1 + y.1 * 2 ^ (8 * n)), err := x.2 || y.2, pois := x.2 || y.2 }
    | _, _, _ => a

/-- Part k of a cacheable access tried: read from the core's arrays, or its line asked for. With the L2 disabled, only the
oldest load reads its line, once, from the slice (R163, R199). -/
def accPart (h : Nat) (l : PLoad) (j k : Nat) (x : Nat × Nat) (oldest : Bool) (s : State) : State :=
  let np := coreOf h s
  let bad (world : Bool) (s : State) : State := setAcc h l.id j (fun a => { a with val := some 0, err := true })
    (cacheDeny world .read l.w l.part np x.1 s)
  match coreLookup np (x.1 / 64) l.w l.v l.stream s with
  | (.data d p, s) =>
    setAcc h l.id j (fun a => (a.part k (lineBytes d (x.1 % 64) x.2) (poisonIn p (x.1 % 64) x.2)).close) s
  | (.miss, s) =>
    if l2On np s then l2Request np (x.1 / 64) .rdS l.cls l.w l.part l.stream s
    else if oldest then l2Request np (x.1 / 64) .rdOnce l.cls l.w l.part l.stream s
    else s
  | (.world, s) => bad true s
  | (.part, s) => bad false s

/-- The I/O accesses of a load before access j have been issued, and access j may follow them: fewer than 8 are outstanding,
and none where the target changes (R205). -/
def ioMayGo (h id j key : Nat) (s : State) : Bool :=
  let accs := ((((s.hart h).loads.find? fun l => l.id == id).map (·.accs)).getD [])
  let open' := accs.countP fun a => a.sent && a.val.isNone
  ((accs.take j).all fun a => a.sent || a.val.isSome) && decide (open' < 8) &&
    (open' == 0 || (s.hart h).lastIo == some key)

/-- The first byte of an access that lies outside DRAM. -/
def LAcc.outside (a : LAcc) (s : State) : Option Nat := (a.parts.find? fun p => !inDram p.1 s).map (·.1)

/-- One access of a load tried: forwarded, served by the core's arrays, or requested from the slice, the home agent or
an I/O target. An I/O load goes only as the oldest load with an empty store buffer (R205). olds are the lines of older
atomics not yet performed: an access of one of them, or of NC memory, waits. -/
def accTry (h : Nat) (l : PLoad) (j : Nat) (acc : LAcc) (oldest : Bool) (olds : List Nat) (s : State) : State :=
  let np := coreOf h s
  let t := s.hart h
  if acc.val.isSome || acc.sent then s
  else if (acc.outside s).isSome || acc.pbmt = 2 then
    let pa := (acc.outside s).getD acc.pa
    let tg := ioTarget pa s
    if !oldest || !t.sb.isEmpty || !ioMayGo h l.id j (ioKey tg s) s then s
    else
      let s := setAcc h l.id j (fun a => { a with sent := true }) s
      let s := s.onHart h fun t => { t with lastIo := some (ioKey tg s) }
      openTx (.load h l.id j)
        { op := .rdIO, cls := l.cls, w := l.w, part := l.part, src := coreAgent np, dst := ioAgent tg,
          addr := lineOf pa, aux := BitVec.ofNat 32 (pa % 64 + (acc.size - 1) % 32 * 64) } s
  else if olds.any (fun x => acc.parts.any fun p => p.1 / 64 == x) || (!olds.isEmpty && acc.pbmt == 1) then s
  else match (if acc.pa2.isSome then
        (if acc.parts.any fun p => t.sb.any (sbOverlaps p.1 p.2) then .wait else .no)
      else sbForward acc.pa acc.size t.sb) with
    | .data v => setAcc h l.id j (fun a => { a with val := some v }) s
    | .wait => s
    | .no =>
      if acc.pbmt = 1 then
        if 32 ≤ readsOpen np s then s
        else
          let s := setAcc h l.id j (fun a => { a with sent := true }) s
          openTx (.load h l.id j)
            { op := .rdNC, cls := l.cls, w := l.w, part := l.part, src := coreAgent np, dst := 0x100 + mcOf acc.pa,
              addr := lineOf acc.pa, aux := BitVec.ofNat 32 (acc.pa % 64 + (acc.size - 1) % 32 * 64) }
            (if l.cls = .gt then coreEvent np 9 s else s)
      else
        let s := match acc.p0, acc.parts with
          | none, x :: _ => accPart h l j 0 x oldest s
          | _, _ => s
        match acc.p1, acc.parts with
          | none, [_, y] => accPart h l j 1 y oldest s
          | _, _ => s

/-- The value of a load's accesses put into its destination. -/
def loadWrite (l : PLoad) (t : Hart) : Hart :=
  let v (j : Nat) : Nat := ((l.accs[j]?).bind (·.val)).getD 0
  let n (j : Nat) : Nat := ((l.accs[j]?).map (·.size)).getD 8
  match l.dst with
  | .x rd signed => t.setX rd (extend signed (n 0) (v 0))
  | .f rd => t.setFp rd (BitVec.ofNat 64 (v 0 % 2 ^ (8 * n 0) + (2 ^ 64 - 2 ^ (8 * n 0))))
  | .pair rd =>
    (t.setX rd (BitVec.ofNat 64 (v 0))).setX (rd + 1) (BitVec.ofNat 64 (v 0 / 2 ^ 64))
  | .v elems => ((elems.take l.accs.length).mapIdx fun j e => (j, e)).foldl (fun t (j, (r, e)) => t.setElem r e (n j) (v j)) t

/-- The elements of a vector load before access j: a pair of them may share one access (R214). -/
def vIndex (accs : List LAcc) (j : Nat) : Nat := ((accs.take j).map fun a => if a.size = 16 then 2 else 1).sum

/-- The first access of a load that ended in an error. -/
def loadBad (l : PLoad) : Option (Nat × LAcc) :=
  (l.accs.mapIdx fun j a => (j, a)).find? fun (_, a) => a.err

/-- A descriptor load ends, with its line or a fault: the dispatch that waits for it starts or is consumed. A preload fills
the cache, if it has a line, and parks the core; where a dispatch has come meanwhile it starts at once, the core running
its TK.YIELD again when it has not that descriptor yet (R110, R136, R137, R139). -/
def descDone (h d : Nat) (r : Except (Nat × Word) Line) (s : State) : State :=
  match (s.hart h).start, r with
  | some x, .ok l => taskStart h x l (s.onHart h fun t => { t with tdc := tdcPut d l t.tdc })
  | some _, .error (c, v) => s.onHart h fun t =>
      { t with start := none, stall := .none, st := .run, trap := some { cause := c, tval := v, epc := t.pc } }
  | none, r =>
    let s := match r with
      | .ok l => s.onHart h fun t => { t with tdc := tdcPut d l t.tdc, stall := .none }
      | .error _ => s.onHart h fun t => { t with stall := .none }
    match (s.hart h).pend with
    | none => s.onHart h fun t => { t with st := .wait .disp, waitAt := s.tb }
    | some x => match tdcFind x.desc (s.hart h).tdc with
      | some l => taskStart h x l (s.onHart h fun t => { t with pend := none, tdc := tdcPut x.desc l t.tdc })
      | none => s

/-- The oldest load retires when every access has performed: it writes its destination, or raises a load access fault,
or for an atomic a store/AMO access fault, and squashes the younger loads (R207, R258). -/
def loadRetire (h : Nat) (s : State) : State :=
  let t := s.hart h
  match t.loads with
  | [] => s
  | l :: rest =>
    if !(l.accs.all fun a => a.val.isSome) then s
    else
      let isV : Bool := match l.dst with
        | .v _ => true
        | _ => false
      let trap (j cause : Nat) (tval : Word) (s : State) : State := s.onHart h fun t =>
        let t := { t with loads := [], trap := some { cause := cause, tval := tval, epc := l.pc } }
        if isV then t.setC 8 (BitVec.ofNat 64 (vIndex l.accs j)) else t
      match loadBad l with
      | some (j, a) =>
        let s := if a.pois then report 5 3 l.w (some a.pa) l.part (coreAgent (coreOf h s)) h s else s
        match l.desc with
        | some d => descDone h d (.error (5, a.va)) (s.onHart h fun t => { t with loads := rest })
        | none =>
          let isAmo : Bool := match l.amo with
            | some (_, _, k) => k != 1
            | none => false
          trap j (if isAmo then 7 else 5) a.va
            (s.setHart h (if isV then loadWrite { l with accs := l.accs.take j } t else t))
      | none =>
        match l.after, l.desc with
        | some (c, v), some d => descDone h d (.error (c, v)) (s.onHart h fun t => { t with loads := rest })
        | none, some d =>
          descDone h d (.ok (BitVec.ofNat 512 (l.accs.foldr (fun a v => a.val.getD 0 + v * 2 ^ (8 * a.size)) 0)))
            (s.onHart h fun t => { t with loads := rest })
        | some (c, v), none => trap l.accs.length c v (s.setHart h (loadWrite l t))
        | none, none =>
          let t := (loadWrite l { t with loads := rest }).retired
          s.setHart h (if isV then t.event 0x0B else t)

/-- The AtmH of an AMO that runs at HOME or MEMORY. AUX holds the operation and, in bit 4, a 64-bit width. -/
def amoPacket (np : Nat) (l : PLoad) (x : LAcc) (op v : Nat) : Packet :=
  { op := .atmH, cls := l.cls, w := l.w, part := l.part, src := coreAgent np,
    dst := 0x100 + mcOf x.pa, addr := lineOf x.pa, data := true, aux := BitVec.ofNat 32 (op + if x.size = 8 then 16 else 0),
    mask := byteMask (x.pa % 64) x.size, payload := linePut 0 (x.pa % 64) x.size v }

/-- The NEAR atomic or LR that waits for its line: with the L2 in M it is performed (R186, R189). amo holds the
operation, the operand and the kind: 0 AMO, 1 LR, 2 one that runs elsewhere, which waits while its line is in the die's
victim buffer (R188). -/
def amoTry (h : Nat) (l : PLoad) (s : State) : State :=
  match l.amo, l.accs with
  | some (op, v, kind), [acc] =>
    let np := coreOf h s
    let line := acc.pa / 64
    if acc.val.isSome || acc.sent then s
    else if kind = 2 then
      if (vbFind (np / 20) line s).isSome then s
      else openTx (.amo h l.id) (amoPacket np l acc op v) (setAcc h l.id 0 (fun a => { a with sent := true }) s)
    else match l2Owned np line s with
      | none =>
        let deny : Option Bool := match (if l2On np s then l2Has np line s else none) with
          | some k => if !l.w && (s.l2L k).w then some true else if l.v && !(s.l2L k).px then some false else none
          | none => none
        match deny with
        | some world => setAcc h l.id 0 (fun a => { a with val := some 0, err := true })
            (cacheDeny world .atomic l.w l.part np acc.pa s)
        | none => askM np line l.cls l.w l.part s
      | some k =>
        let ln := s.l2L k
        match hitRule l.w l.v ln.w ln.px ln.data ln.poison with
        | .data d po =>
          let old := lineBytes d (acc.pa % 64) acc.size
          if poisonIn po (acc.pa % 64) acc.size then
            setAcc h l.id 0 (fun a => { a with val := some 0, err := true, pois := true }) s
          else if kind = 1 then
            let s := s.setL2 k { ln with st := 3, ten := true, age := 0 }
            let s := l2Write np line k 0 0 0 s
            let s := s.onHart h fun t => { t with resv := some line }
            setAcc h l.id 0 (fun a => { a with val := some old }) s
          else
            let new := amoResult op acc.size old v
            let s := l2Write np line k (linePut 0 (acc.pa % 64) acc.size new) (byteMask (acc.pa % 64) acc.size) 0 s
            setAcc h l.id 0 (fun a => { a with val := some old }) s
        | .world => setAcc h l.id 0 (fun a => { a with val := some 0, err := true })
            (cacheDeny true .atomic l.w l.part np acc.pa s)
        | _ => setAcc h l.id 0 (fun a => { a with val := some 0, err := true })
            (cacheDeny false .atomic l.w l.part np acc.pa s)
  | _, _ => s

/-- The lines of an atomic that has not performed. -/
def PLoad.held (l : PLoad) : List Nat :=
  if l.amo.isSome then (l.accs.filter fun a => a.val.isNone).map fun a => a.pa / 64 else []

/-- Every pending load tried once, oldest first. -/
def loadsTry (h : Nat) (s : State) : State :=
  ((s.hart h).loads.foldl (fun (r : State × List Nat) l =>
    (match l.amo with
      | some _ => amoTry h l r.1
      | none =>
        let oldest := (r.1.hart h).loads.head?.map (·.id) == some l.id
        (l.accs.mapIdx fun j a => (j, a)).foldl (fun t (j, a) => accTry h l j a oldest r.2 t) r.1, r.2 ++ l.held)) (s, [])).1

/-- The pending loads of a hart go on: tried and retired in order, as long as the oldest can retire. -/
def loadsPump (h : Nat) (s : State) : State :=
  let n := (s.hart h).loads.length
  iter (n + 1) (fun _ t => loadRetire h (loadsTry h t)) s

/-- Data of a line reaches the oldest load of core np without a fill: no invalidation could reach the line for a younger one,
which asks again (R163, R188, R199). -/
def deliverLine (np line : Nat) (d : Line) (po : BitVec 2) (s : State) : State :=
  match hartOn np s with
  | none => s
  | some h =>
    let s := s.onHart h fun t => { t with loads := match t.loads with
      | [] => []
      | l :: r =>
        if l.amo.isSome then l :: r
        else { l with accs := l.accs.map fun a =>
          if a.val.isNone ∧ !a.sent ∧ a.pbmt = 0 ∧ !(a.parts.any fun p => t.sb.any (sbOverlaps p.1 p.2)) then
            (((a.parts.mapIdx fun k p => (k, p)).filter fun (_, p) => inDram p.1 s && p.1 / 64 == line).foldl
              (fun (a : LAcc) (k, p) => a.part k (lineBytes d (p.1 % 64) p.2) (poisonIn po (p.1 % 64) p.2)) a).close
          else a } :: r }
    loadsPump h s

/-- An error response for a line reaches the waiting loads and atomics of core np (R207). -/
def failLine (np line : Nat) (s : State) : State :=
  match hartOn np s with
  | none => s
  | some h =>
    let s := s.onHart h fun t => { t with loads := t.loads.map fun l =>
      { l with accs := l.accs.map fun a =>
        if a.val.isNone ∧ !a.sent ∧ a.onLine line s then
          { a with val := some 0, err := true }
        else a } }
    loadsPump h s

/-! ## Store buffer entries leave (R200, R204, R205, R208) -/

/-- The rest of a vector store moves into the buffer as room comes, and the instruction ends with its last entry. -/
def sbRefill (h : Nat) (s : State) : State :=
  s.onHart h fun t => match t.stall with
    | .storeRest es len trap =>
      let n := 48 - t.sb.length
      let rest := es.drop n
      let t := { t with sb := t.sb ++ es.take n }
      if rest.isEmpty then
        match trap with
        | some (j, x) => { (t.setC 8 (BitVec.ofNat 64 j)) with stall := .none, trap := some x }
        | none => { (t.past len).event 0x0B with stall := .none }
      else { t with stall := .storeRest rest len trap }
    | _ => t

/-- Entry k leaves the buffer; what waited for room or for the entry goes on. -/
def sbDrop (h k : Nat) (s : State) : State :=
  loadsPump h (sbCount h (sbRefill h (s.onHart h fun t => { t with sb := t.sb.eraseIdx k })))

/-- The oldest entry leaves the buffer. -/
def sbPop (h : Nat) (s : State) : State := sbDrop h 0 s

/-- Entry k ends with an error response (R208). -/
def sbError (h k : Nat) (s : State) : State :=
  match (s.hart h).sb[k]? with
  | none => s
  | some e =>
    let np := coreOf h s
    let s := (s.setB F.CD_CORE_ORD_STATUS_ERR np true).satInc F.CD_CORE_ORD_STATUS_ERR_CNT np
    let s := (s.setB F.CD_CORE_ORD_ERRADDR_W np e.w).setF F.CD_CORE_ORD_ERRADDR_ADDR np e.ea
    sbDrop h k (report 6 3 e.w (some e.ea) e.part (coreAgent np) h s)

/-- The line bytes and mask of an entry. -/
def sbLine (e : SbEntry) : Line × BitVec 64 :=
  let o := e.pa % 64
  (BitVec.ofNat 512 (e.data * 2 ^ (8 * o)), BitVec.ofNat 64 (e.mask * 2 ^ o))

/-- Ownership is asked for up to 8 of the oldest entries whose lines are not in M (R204). -/
def sbPrefetch (h : Nat) (s : State) : State :=
  let np := coreOf h s
  if !l2On np s then s
  else (((s.hart h).sb.filter fun e =>
      e.pbmt == 0 && inDram e.pa s && (e.kind == .store || e.kind == .cboZ) && (l2Owned np (e.pa / 64) s).isNone).take 8).foldl
    (fun t e => askM np (e.pa / 64) e.cls e.w e.part t) s

/-- The oldest entry marked as under way. -/
def sbSent (h : Nat) (s : State) : State :=
  s.onHart h fun t => match t.sb with
    | e :: r => { t with sb := { e with sent := true } :: r }
    | [] => t

/-- STORE_BUFFER_ENTRY_LEAVE: the oldest entry is written into a line held in M and leaves, or its transaction is sent;
it then leaves on Cmp or on its I/O acknowledgement. A TS.STORE leaves for the PHE (R126, R204), and a CBO of an unmapped
address ends with an error response (R603); a CBO of a line in the die's victim buffer waits (R188). -/
def sbLeave (h : Nat) (s : State) : State :=
  let s := sbPrefetch h s
  let t := s.hart h
  let np := coreOf h s
  match t.sb with
  | [] => s
  | e :: _ =>
    let line := e.pa / 64
    let io := !inDram e.pa s || e.pbmt = 2
    let (d, m) := sbLine e
    let pkt (op : Op) (dst : Nat) : Packet :=
      { op := op, cls := e.cls, w := e.w, part := e.part, src := coreAgent np, dst := dst, addr := line * 64 }
    let cbo : Bool := e.kind == .cboC || e.kind == .cboF || e.kind == .cboI
    if e.sent then s
    else if cbo && !inDram e.pa s then sbError h 0 s
    else if cbo && (vbFind (np / 20) line s).isSome then s
    else match e.kind with
    | .ts id =>
      sbPop h (s.send (.timed h id))
    | .cboC => sbSent h (openTx (.store h) (pkt .cboC (0x100 + mcOf e.pa)) s)
    | .cboF | .cboI => sbSent h (openTx (.store h) (pkt .cboF (0x100 + mcOf e.pa)) s)
    | k =>
      let fm : BitVec 64 := if k = SbKind.cboZ then (BitVec.allOnes 64) else m
      if io then
        let tg := ioTarget e.pa s
        let s := s.onHart h fun t => { t with lastIo := some (ioKey tg s) }
        sbSent h (openTx (.store h)
          { pkt .wrIO (ioAgent tg) with data := true, mask := m, payload := d } s)
      else if e.pbmt = 1 then
        sbSent h (openTx (.store h)
          { pkt .wrNC (0x100 + mcOf e.pa) with data := true, mask := fm, payload := d } s)
      else if !l2On np s then
        sbSent h (l2Send np line
          { op := .wrPart, cls := e.cls, w := e.w, part := e.part, data := true, mask := fm, payload := d } false 0 s)
      else match l2Owned np line s with
        | none => s
        | some key =>
          let ln := s.l2L key
          if !e.w && ln.w then sbError h 0 (cacheDeny true .write e.w e.part np e.pa s)
          else if e.part ≠ 0 && !ln.px then sbError h 0 (cacheDeny false .write e.w e.part np e.pa s)
          else
            sbPop h (l2Write np line key d fm 0 s)

end Sys2Proof.Machine
end

