-- ==== Sys2Proof/Machine/Bats.lean ====
section
/-! DEFINITION. The fabric probes: matching, counters, triggers, stages, trace buffers and trace writes (R290 to
R302). -/
namespace Sys2Proof.Machine

/-! ## Placement (R290, R291) -/

/-- The trace domain of a bat: its die, or 12. -/
def batDomain (i : Nat) : Nat := if i < 96 then i / 8 else 12

/-- A bat fixed at a bridge end. -/
def batFixed (i : Nat) : Bool := decide (i < 96) && decide (i % 8 < 2)

/-- POINT names an active position of the die, or an IOD agent. -/
def batPointOk (i : Nat) (s : State) : Bool :=
  let pt := s.f F.BAT_CTRL_POINT i
  if batFixed i then true
  else if i < 96 then decide (pt < 20) && s.f F.FAB_POS_MAP_STATE (20 * (i / 8) + pt) == 0
  else (decide (0x100 ≤ pt) && decide (pt ≤ 0x113)) || (decide (0x118 ≤ pt) && decide (pt ≤ 0x12E)) ||
    (decide (0x140 ≤ pt) && decide (pt ≤ 0x151))

/-! ## Counters (R294) -/

/-- Counter c of a bat, live. -/
def batCnt (i c : Nat) (s : State) : Nat :=
  if i < 96 then (smapGet (fun _ => 0) s.batLive (4 * i + c)).toNat else s.f F.BAT_CNT_VAL (4 * i + c)

/-- Counter c of a bat set. -/
def setBatCnt (i c n : Nat) (s : State) : State :=
  let n := min n (2 ^ 48 - 1)
  if i < 96 then { s with batLive := smapSet (fun _ => 0) s.batLive (4 * i + c) (BitVec.ofNat 64 n) }
  else s.setF F.BAT_CNT_VAL (4 * i + c) n

/-- The event that counter c counts. -/
def batEv (i c : Nat) (s : State) : Nat := s.f F.BAT_CNT_SEL_EV i / 16 ^ c % 16

/-! ## Start and stop (R295) -/

/-- START_SRC or STOP_SRC: 1 calendar, 2 counter, 3 first match, 0 software and every other value. -/
def batSrc (n : Nat) : Nat := if n < 4 then n else 0

/-- The bat waits for its start trigger. -/
def batArmed (i : Nat) (s : State) : Bool := s.b F.BAT_CTRL_RUN i && !s.b F.BAT_STATUS_RUNNING i

/-- The start trigger occurs. -/
def batStart (i : Nat) (s : State) : State :=
  (s.setB F.BAT_STATUS_RUNNING i true).setB F.BAT_STATUS_TRIGGERED i true

/-- The bat stops. -/
def batHalt (i : Nat) (s : State) : State :=
  { (s.setB F.BAT_STATUS_RUNNING i false).setB F.BAT_CTRL_RUN i false with
    batPost := smapSet (fun _ => 0) s.batPost i 0 }

/-- The stop trigger occurs: at once, or after POST further records. -/
def batStopTrig (i : Nat) (s : State) : State :=
  if !s.b F.BAT_STATUS_RUNNING i || smapGet (fun _ => 0) s.batPost i != 0 then s
  else if s.f F.BAT_TRIG_POST i = 0 then batHalt i s
  else { s with batPost := smapSet (fun _ => 0) s.batPost i (s.f F.BAT_TRIG_POST i) }

/-- Triggers of a source: the start takes effect first. -/
def batTrig (i src : Nat) (startOk stopOk : Bool) (s : State) : State :=
  let s := if startOk && batArmed i s && batSrc (s.f F.BAT_TRIG_START_SRC i) == src then batStart i s else s
  if stopOk && batSrc (s.f F.BAT_TRIG_STOP_SRC i) == src then batStopTrig i s else s

/-- The die of a bat is ON. -/
def batDieOn (i : Nat) (s : State) : Bool := decide (96 ≤ i) || dieOn (i / 8) s

/-- A bat is armed; a bat whose start source is software starts at once. -/
def batArms (i : Nat) (s : State) : State :=
  if batDieOn i s then batTrig i 0 true false s else s

/-- A bat whose POINT names no agent or active position sets BADPOINT (R291). -/
def batPointCheck (i : Nat) (s : State) : State := if batPointOk i s then s else s.setB F.BAT_STATUS_BADPOINT i true

/-- A write of BAT_CTRL(i). -/
def batCtrlWrite (i : Nat) (v : Word) (s : State) : State :=
  let s := batPointCheck i (s.wr .BAT_CTRL i v)
  if vset F.BAT_CTRL_RUN v then batArms i s else batHalt i s

/-- BAT_ARM: a write of BAT_CTRL(i) with RUN = 1. -/
def execBatArm (a : Access) (i : Nat) (v : Word) (s : State) : Out :=
  .next (guarded a true .BAT_CTRL i (batCtrlWrite i (fset F.BAT_CTRL_RUN v 1)) s)

/-- BAT_STOP: a write of BAT_CTRL(i) with RUN = 0. -/
def execBatStop (a : Access) (i : Nat) (v : Word) (s : State) : Out :=
  .next (guarded a true .BAT_CTRL i (batCtrlWrite i (fset F.BAT_CTRL_RUN v 0)) s)

/-- Counter c of a bat rises by n; counter 0 at THRESH is a trigger. -/
def batCount (i c n : Nat) (s : State) : State :=
  let old := batCnt i c s
  let s' := setBatCnt i c (old + n) s
  let th := s.f F.BAT_CNT_SEL_THRESH i
  if c = 0 ∧ old < th ∧ th ≤ batCnt i 0 s' then batTrig i 2 true true s' else s'

/-- A software write of a counter, live and copied. -/
def batCntWrite (ix : Nat) (v : Word) (s : State) : State :=
  let s := s.wr .BAT_CNT ix v
  if ix < 384 then { s with batLive := smapSet (fun _ => 0) s.batLive ix (s.r .BAT_CNT ix) } else s

/-- BAT_TRIGGER: a calendar trigger reaches a bat (R296). -/
def execBatTrigger (i entry : Nat) (s : State) : Out :=
  if s.out.contains (.batTrig i entry) then
    let s := s.take (.batTrig i entry)
    if !batDieOn i s then .next s
    else .next (batTrig i 1 (s.f F.BAT_TRIG_START_ENTRY i == entry) (s.f F.BAT_TRIG_STOP_ENTRY i == entry) s)
  else .next s

/-! ## Matching (R292, R293) -/

/-- The flit is visible to the bat. -/
def batVisible (i : Nat) (w : Bool) (s : State) : Bool :=
  (s.f F.BAT_CTRL_WORLDS i).testBit (if w then 1 else 0) && effNI w s

/-- The flit passes the bat's filter. -/
def batFilter (i : Nat) (p : Packet) (enters : Bool) (s : State) : Bool :=
  let masked (x v m : Nat) : Bool := (x ^^^ v) &&& m == 0
  batPointOk i s && (batFixed i || (s.f F.BAT_CTRL_DIR i).testBit (if enters then 0 else 1)) &&
    (s.f F.BAT_CTRL_CLASS_MASK i).testBit p.cls.ctorIdx && (s.r .BAT_OPC_MASK i).getLsbD (opCode p.op) &&
    masked (p.addr / 64) (s.f F.BAT_ADDR_VAL_VAL i) (s.f F.BAT_ADDR_MASK_VAL i) &&
    masked p.src (s.f F.BAT_ID_FILTER_SRC i) (s.f F.BAT_ID_FILTER_SRC_MASK i) &&
    masked p.dst (s.f F.BAT_ID_FILTER_DST i) (s.f F.BAT_ID_FILTER_DST_MASK i) &&
    batVisible i p.w s && p.src != 0x143 && p.dst != 0x143

/-! ## Records (R297 to R299) -/

/-- The records that a domain's buffer holds. -/
def batBufSize (d : Nat) : Nat := if d < 12 then 1024 else 2048

/-- The record of a flit. -/
def batRecord (i lost : Nat) (p : Packet) (enters : Bool) (s : State) : BatRec :=
  let h := headerOf p
  { w0 := s.tb, w1 := BitVec.ofNat 64 h, w2 := BitVec.ofNat 64 (h / 2 ^ 64),
    w3 := BitVec.ofNat 64 (i + (if enters then 128 else 0) + min lost 255 * 256
      + (if p.data then p.payload.toNat % 2 ^ 32 else 0) * 2 ^ 32) }

/-- A matched flit recorded in the bat's stage, or lost when the stage is full; a stop trigger's POST counts the records. -/
def batStageIt (i : Nat) (p : Packet) (enters : Bool) (s : State) : State :=
  let st := smapGet (fun _ => []) s.batStage i
  let gap := smapGet (fun _ => 0) s.batGap i
  if 8 ≤ st.length then
    { s.satInc F.BAT_STATUS_LOST i with batGap := smapSet (fun _ => 0) s.batGap i (gap + 1) }
  else
    let s := { s with
      batStage := smapSet (fun _ => []) s.batStage i (st ++ [batRecord i gap p enters s])
      batGap := smapSet (fun _ => 0) s.batGap i 0 }
    match smapGet (fun _ => 0) s.batPost i with
    | 0 => s
    | 1 => batHalt i s
    | n + 2 => { s with batPost := smapSet (fun _ => 0) s.batPost i (n + 1) }

/-- BAT_MATCH: a flit passes the point of bat i. waited: the transfers in which it waited for a credit; xfers: the
transfers at the point since the last such command. Whether the flit that is the start trigger is itself counted and
recorded is open. -/
def execBatMatch (i : Nat) (p : Packet) (enters : Bool) (waited xfers : Nat) (s : State) : Out :=
  let hit := batFilter i p enters s && batDieOn i s
  let was := s.b F.BAT_STATUS_RUNNING i
  let s := if hit then batTrig i 3 true false s else s
  let (counts, s) :=
    if was then (true, s) else if s.b F.BAT_STATUS_RUNNING i then (s.freeBit, s.bump) else (false, s)
  if !counts then .next s
  else
    let one (ev : Nat) : Nat :=
      if ev = 5 then xfers else if !hit then 0
      else if ev = 1 then 1 else if ev = 2 then (if p.data then 1 else 0)
      else if ev = 3 then (if p.resp = 0 then 0 else 1) else if ev = 4 then waited else 0
    let s := iter 4 (fun c t => batCount i c (one (batEv i c t)) t) s
    if !hit then .next s
    else .next (batTrig i 3 false true (batStageIt i p enters s))

/-- A record of domain d leaves its stage for the buffer: written at WRPTR, or into the FIFO toward DRAM, or dropped when a
Secure flit's record would go to an Open region (R299). -/
def batTake (d : Nat) (r : BatRec) (s : State) : State :=
  if s.b F.BAT_TRACE_CTRL_DEST d then
    if bit r.w2 61 && !dramWorld (s.f F.BAT_TRACE_BASE_VAL d * 64) s then s.satInc F.BAT_SECDROP_VAL d
    else { s with batFifo := smapSet (fun _ => []) s.batFifo d (smapGet (fun _ => []) s.batFifo d ++ [r]) }
  else
    let n := s.f F.BAT_TRACE_PTR_WRPTR d % batBufSize d
    let s := { s with batBuf := smapSet (fun _ => {}) s.batBuf (d * 2048 + n) r }
    if n + 1 < batBufSize d then s.setF F.BAT_TRACE_PTR_WRPTR d (n + 1)
    else
      let s := s.setF F.BAT_TRACE_PTR_WRPTR d 0
      if s.b F.BAT_TRACE_CTRL_WRAP d then s else s.setB F.BAT_TRACE_CTRL_FULL d true

/-- The buffer of domain d can take a record. -/
def batRoom (d : Nat) (s : State) : Bool :=
  !s.b F.BAT_TRACE_CTRL_FULL d && !s.b F.BAT_TRACE_CTRL_ERR d &&
    (!s.b F.BAT_TRACE_CTRL_DEST d || decide ((smapGet (fun _ => []) s.batFifo d).length < batBufSize d))

/-- Domain d's buffer takes one record, the lowest-numbered bat first (R298). -/
def batDrain (d : Nat) (s : State) : State :=
  if !batRoom d s then s
  else
    match s.batStage.find? fun (i, st) => batDomain i == d && !st.isEmpty with
    | some (i, r :: rest) => batTake d r { s with batStage := smapSet (fun _ => []) s.batStage i rest }
    | _ => s

/-- One cycle of the trace buffers. -/
def batCycle (s : State) : State := iter 13 batDrain s

/-- The four words of a record as bytes. -/
def batBytes (r : BatRec) : Nat :=
  r.w0.toNat + r.w1.toNat * 2 ^ 64 + r.w2.toNat * 2 ^ 128 + r.w3.toNat * 2 ^ 192

/-- BAT_TRACE_WRITE: a pair of records of domain d as a WrNC in class MG (R299). -/
def execBatTraceWrite (d : Nat) (s : State) : Out :=
  let s := batDrain d s
  match smapGet (fun _ => []) s.batFifo d with
  | a :: b :: rest =>
    if !s.b F.BAT_TRACE_CTRL_DEST d || s.b F.BAT_TRACE_CTRL_FULL d || s.b F.BAT_TRACE_CTRL_ERR d then .next s
    else
      let n := s.f F.BAT_TRACE_PTR_WRPTR d
      let base := s.f F.BAT_TRACE_BASE_VAL d
      let addr := (base + n) * 64
      let s := { s with batFifo := smapSet (fun _ => []) s.batFifo d rest }
      let s := openTx (.bat d) { op := .wrNC, cls := .mg, w := true, src := 0x143, dst := 0x100 + mcOf addr, addr := addr,
                                 data := true, mask := BitVec.ofNat 64 (2 ^ 64 - 1),
                                 payload := BitVec.ofNat 512 (batBytes a + batBytes b * 2 ^ 256) } s
      if base + n < s.f F.BAT_TRACE_LIMIT_VAL d then .next (s.setF F.BAT_TRACE_PTR_WRPTR d (n + 1))
      else
        let s := s.setF F.BAT_TRACE_PTR_WRPTR d 0
        .next (if s.b F.BAT_TRACE_CTRL_WRAP d then s else s.setB F.BAT_TRACE_CTRL_FULL d true)
  | _ => .next s

/-- The answer to a trace write of domain d: an error stops the domain (R299). -/
def batWritten (d : Nat) (err : Bool) (s : State) : State := if err then s.setB F.BAT_TRACE_CTRL_ERR d true else s

/-- The word of the buffer at RDPTR, hidden from an Open access while its flit's world may not be observed, and RDPTR
advanced (R300). -/
def batBufPop (a : Access) (d : Nat) (s : State) : State :=
  let n := s.f F.BAT_TRACE_PTR_RDPTR d
  let r := smapGet (fun _ => {}) s.batBuf (d * 2048 + n / 32 % batBufSize d)
  let v := match n / 8 % 4 with
    | 0 => r.w0
    | 1 => r.w1
    | 2 => r.w2
    | _ => r.w3
  let hidden := !a.world && bit r.w2 61 && !effSNI s
  (s.setF F.BAT_TRACE_PTR_RDPTR d ((n + 8) % (32 * batBufSize d))).answer (if hidden then 0 else v)

/-- BAT_BUF_READ. -/
def execBatBufRead (a : Access) (d : Nat) (s : State) : Out :=
  .next (guarded a false .BAT_BUF_DATA d (batBufPop a d) s)

/-- BAT_COUNTER_COPY: the counters of the bats of every die that is ON (R294). -/
def execBatCounterCopy (s : State) : Out :=
  .next (iter 384 (fun c t => if dieOn (c / 32) t then t.setR .BAT_CNT c (smapGet (fun _ => 0) t.batLive c) else t) s)

/-! ## Die resets (R301) -/

/-- CDn is reset or lost: its bats stop, their stages and the buffer are emptied. RUN stays. -/
def batDieReset (n : Nat) (s : State) : State :=
  let s := iter 8 (fun j t =>
    (t.setB F.BAT_STATUS_RUNNING (8 * n + j) false).setB F.BAT_STATUS_DIE_DOWN (8 * n + j) true) s
  let s := s.setF F.BAT_TRACE_PTR_WRPTR n 0
  { s with
    batLive := s.batLive.filter fun (k, _) => k / 32 != n
    batPost := s.batPost.filter fun (k, _) => k / 8 != n
    batGap := s.batGap.filter fun (k, _) => k / 8 != n
    batStage := s.batStage.filter fun (k, _) => k / 8 != n
    batBuf := s.batBuf.filter fun (k, _) => k / 2048 != n
    batFifo := s.batFifo.filter fun (k, _) => k != n }

/-- CDn reports ON, perhaps with another map of its positions (R29): its bats with RUN = 1 arm again. -/
def batDieUp (n : Nat) (s : State) : State :=
  iter 8 (fun j t =>
    let t := batPointCheck (8 * n + j) t
    if t.b F.BAT_CTRL_RUN (8 * n + j) then batArms (8 * n + j) t else t) s

end Sys2Proof.Machine
end

