-- ==== Sys2Proof/Machine/Fabric.lean ====
section
/-! DEFINITION. The fabric: the slot cycle, the reservation windows, the route tables and the epochs (R264 to R289). -/
namespace Sys2Proof.Machine

/-! ## Route tables (R264, R265, R283) -/

/-- Routers of a mesh: 12 is the IOD, the others are dies. -/
def meshRouters (d : Nat) : Nat := if d < 12 then 20 else 16

/-- Routers of a row of a mesh. -/
def meshWidth (d : Nat) : Nat := if d < 12 then 5 else 4

/-- An agent ID is used (R266). -/
def agentUsed (a : Nat) : Bool :=
  decide (a ≤ 0xFB) || (decide (0x100 ≤ a) && decide (a ≤ 0x113)) || (decide (0x118 ≤ a) && decide (a ≤ 0x12E)) ||
    (decide (0x140 ≤ a) && decide (a ≤ 0x151))

/-- The die that holds an agent, or 12 for the IOD. -/
def agentDomain (a : Nat) : Nat := if a < 240 then a / 20 else if a < 252 then a - 240 else 12

/-- In mesh d, the router at which a packet for agent a leaves the mesh, and the output that it takes there: 0 local, 5
bridge. -/
def routeTarget (d a : Nat) : Nat × Nat :=
  if d < 12 then
    if agentDomain a = d then (if a < 240 then a % 20 else 0, 0) else (0, 5)
  else if agentDomain a = 12 then ((Config.iodRouter a).toNat, 0)
  else ((Config.iodRouter (512 + agentDomain a)).toNat, 5)

/-- The reset route: first in x and then in y; a sink for an unused ID. -/
def resetRoute (d r a : Nat) : Nat :=
  if !agentUsed a then 6
  else
    let (t, p) := routeTarget d a
    let w := meshWidth d
    if r % w < t % w then 1 else if t % w < r % w then 2
    else if r / w < t / w then 3 else if t / w < r / w then 4 else p

/-- The key of a route: epoch, domain, router, agent. -/
def routeKey (e d r a : Nat) : Nat := ((e * 13 + d) * 32 + r) * 512 + a

/-- The reset route of a key. -/
def routeDefault (k : Nat) : Nat := resetRoute (k / 512 / 32 % 13) (k / 512 % 32) (k % 512)

/-- A route: 0 local, 1 +x, 2 −x, 3 +y, 4 −y, 5 bridge, 6 sink; 7 acts as sink. -/
def routeOf (e d r a : Nat) (s : State) : Nat := smapGet routeDefault s.routes (routeKey e d r a)

/-- The epoch that is not current. -/
def otherEpoch (s : State) : Nat := if s.b F.FAB_EPOCH_CUR 0 then 0 else 1

/-- The tables of the epoch that is not current can be written: none of its packets is in flight (R285). -/
def stagedWritable (s : State) : Bool := s.f (drainFld (otherEpoch s == 1)) 0 == 0

/-- A write of FAB_RT_DATA: into the table that is not current. With FAB_RT_SEL naming the current epoch it is ignored and
sets CFGERR (R283). -/
def routeWrite (v : Word) (s : State) : State :=
  let d := s.f F.FAB_RT_SEL_DOMAIN 0
  let r := s.f F.FAB_RT_SEL_ROUTER 0
  if s.b F.FAB_RT_STATUS_BUSY 0 then s
  else if s.f F.FAB_RT_SEL_EPOCH 0 ≠ otherEpoch s then s.setB F.FAB_STATUS_CFGERR 0 true
  else if 12 < d ∨ meshRouters d ≤ r ∨ !stagedWritable s then s
  else { s with routes := smapSet routeDefault s.routes (routeKey (otherEpoch s) d r (s.f F.FAB_RT_SEL_DEST 0))
                  (v.toNat % 8) }

/-- ROUTE_TABLE_WRITE. -/
def execRouteTableWrite (a : Access) (v : Word) (s : State) : Out :=
  .next (guarded a true .FAB_RT_DATA 0 (routeWrite v) s)

/-- A write of FAB_RT_CMD. -/
def rtCmdWrite (v : Word) (s : State) : State :=
  if vset F.FAB_RT_CMD_COPY v then s.setB F.FAB_RT_STATUS_BUSY 0 true else s

/-- COPY. -/
def execCopy (a : Access) (v : Word) (s : State) : Out := .next (guarded a true .FAB_RT_CMD 0 (rtCmdWrite v) s)

/-- A window's staged fields replaced by those of c; OPEN is live and stays. -/
def stageWin (w : Nat) (c : Word) (s : State) : State :=
  let o := s.b F.FAB_RSV_CFG_OPEN w
  (s.setR .FAB_RSV_CFG w c).setB F.FAB_RSV_CFG_OPEN w o

/-- The current routes of one epoch as the other's: its own entries leave and the copies join. -/
def copyRoutes (cur : Nat) (m : SMap Nat) : SMap Nat :=
  let half := 13 * 32 * 512
  let mine := m.filter fun (k, _) => k / half == cur
  mine.foldl (fun t (k, v) => smapSet routeDefault t (k % half + (1 - cur) * half) v) mine

/-- COPY_DONE: every current table, of routes and of windows, is copied (R283, R289). -/
def execCopyDone (s : State) : Out :=
  if !s.b F.FAB_RT_STATUS_BUSY 0 then .next s
  else
    let s := if stagedWritable s then
        iter 64 (fun w t => stageWin w (smapGet (fun _ => 0) t.winCur w) t)
          { s with routes := copyRoutes (1 - otherEpoch s) s.routes }
      else s
    .next (s.setB F.FAB_RT_STATUS_BUSY 0 false)

/-- A write of FAB_RSV_CFG(w): OPEN changes at the next slot-cycle boundary, and the other fields are staged (R282,
R283). -/
def rsvWrite (w : Nat) (v : Word) (s : State) : State :=
  if assigns F.FAB_RSV_CFG_PART w v s then pqErr s else
  let s := if stagedWritable s then stageWin w (Reg.write .FAB_RSV_CFG false (s.r .FAB_RSV_CFG w) v) s else s
  { s with winPend := smapSet (fun _ => none) s.winPend w (some (vset F.FAB_RSV_CFG_OPEN v, none)) }

/-! ## Epochs (R284, R285) -/

/-- A write of FAB_EPOCH. -/
def epochWrite (v : Word) (s : State) : State :=
  let s := s.wr .FAB_EPOCH 0 v
  if vset F.FAB_EPOCH_SWITCH v && !s.b F.FAB_RT_STATUS_BUSY 0 then { s with epochCheck := true } else s

/-- EPOCH_SWITCH. -/
def execEpochSwitch (a : Access) (v : Word) (s : State) : Out :=
  .next (guarded a true .FAB_EPOCH 0 (epochWrite v) s)

/-- The stride of a staged window: 0b11 is not a stride. -/
def winStride (w : Nat) (s : State) : Nat := 64 / 2 ^ s.f F.FAB_RSV_CFG_STRIDE w

/-- A staged window is defined and is valid by itself (R276). -/
def winBad (w : Nat) (s : State) : Bool :=
  s.b F.FAB_RSV_CFG_EN w && (s.f F.FAB_RSV_CFG_STRIDE w == 3 || decide (winStride w s ≤ s.f F.FAB_RSV_CFG_BASE w))

/-- Slot sets of two staged windows meet when one is shifted by k slots: with 0 they overlap (R277), with 1 a slot of j
comes just before one of i (R281). -/
def winMeet (i j k : Nat) (s : State) : Bool :=
  let m := min (winStride i s) (winStride j s)
  s.b F.FAB_RSV_CFG_EN i && s.b F.FAB_RSV_CFG_EN j &&
    s.f F.FAB_RSV_CFG_BASE i % m == (s.f F.FAB_RSV_CFG_BASE j + k) % m

/-- The pairs of windows. -/
def winPairs : List (Nat × Nat) := (List.range 64).flatMap fun i => (List.range 64).map fun j => (i, j)

/-- A slot check that fails names its two windows. -/
def failWins (err i j : Nat) (s : State) : State :=
  ((s.setF F.FAB_EPOCH_ERR 0 err).setF F.FAB_CHECK_INFO_WIN_A 0 i).setF F.FAB_CHECK_INFO_WIN_B 0 j

/-- Where an output of router r of mesh d leads, if it stays in the mesh. -/
def nextRouter (d r port : Nat) : Option Nat :=
  let w := meshWidth d
  match port with
  | 1 => if r % w + 1 < w then some (r + 1) else none
  | 2 => if 0 < r % w then some (r - 1) else none
  | 3 => if r / w + 1 < 4 then some (r + w) else none
  | 4 => if 0 < r / w then some (r - w) else none
  | _ => none

/-- A route of the staged tables breaks the third rule of R284: more than 16 hops, a sink for an agent that exists, or a
turn into −x after a move in another direction. A move off the mesh is taken as a sink. prev is the move before, 0 none. -/
def routeBad (e d a : Nat) (s : State) : Nat → Nat → Nat → Bool
  | 0, _, _ => true
  | fuel + 1, r, prev =>
    match routeOf e d r a s with
    | 0 => false
    | 5 => false
    | p =>
      if p = 2 ∧ prev ≠ 0 ∧ prev ≠ 2 then true
      else
        match nextRouter d r p with
        | some r' => routeBad e d a s fuel r' p
        | none => true

/-- The first route that fails: domain, router, agent. -/
def badRoute (s : State) : Option (Nat × Nat × Nat) :=
  (List.range 13).findSome? fun d => (List.range (meshRouters d)).findSome? fun r =>
    ((List.range 512).find? fun a => agentUsed a && routeBad (otherEpoch s) d a s 17 r 0).map fun a => (d, r, a)

/-- EPOCH_CHECK_DONE: the cases of R284 in their order. -/
def execEpochCheckDone (s : State) : Out :=
  if !s.epochCheck then .next s
  else
    let s := { s with epochCheck := false }
    if !stagedWritable s || s.b F.FAB_EPOCH_PENDING 0 then .next (s.setF F.FAB_EPOCH_ERR 0 1)
    else
      match (List.range 64).find? fun w => winBad w s with
      | some w => .next (failWins 2 w w s)
      | none =>
        match winPairs.find? fun (i, j) => decide (i < j) && winMeet i j 0 s with
        | some (i, j) => .next (failWins 2 i j s)
        | none =>
          match badRoute s with
          | some (d, r, a) =>
            .next ((((s.setF F.FAB_EPOCH_ERR 0 3).setF F.FAB_CHECK_INFO_DOMAIN 0 d).setF F.FAB_CHECK_INFO_ROUTER 0 r).setF
              F.FAB_CHECK_INFO_AGENT 0 a)
          | none =>
            match winPairs.find? fun (i, j) => i != j && s.f F.FAB_RSV_CFG_SRC i == s.f F.FAB_RSV_CFG_SRC j &&
                decide (s.f F.FAB_RSV_CFG_SRC i < 12) && halfWidth (s.f F.FAB_RSV_CFG_SRC i) s && winMeet i j 1 s with
            | some (i, j) => .next (failWins 4 i j s)
            | none => .next (s.setB F.FAB_EPOCH_PENDING 0 true)

/-- EPOCH_TOGGLE: CUR toggles and the two sets of tables change places, on every die that its bridge reaches (R284). -/
def execEpochToggle (s : State) : Out :=
  if !s.b F.FAB_EPOCH_PENDING 0 then .next s
  else
    let s := (s.setB F.FAB_EPOCH_CUR 0 (!s.b F.FAB_EPOCH_CUR 0)).setB F.FAB_EPOCH_PENDING 0 false
    -- a die whose bridge is not ACTIVE keeps the epoch that it has (R318)
    let s : State := { s with epochLag := (List.range 12).filter fun n => !bridgeActive n s && !s.epochLag.contains n }
    .next (iter 12 halfConflict <| iter 64 (fun w t =>
      let staged := fset F.FAB_RSV_CFG_OPEN (t.r .FAB_RSV_CFG w) 0
      let cur := smapGet (fun _ => 0) t.winCur w
      stageWin w cur { t with winCur := smapSet (fun _ => 0) t.winCur w staged }) s)

/-! ## The slot cycle (R229, R274, R282) -/

/-- EN of window w cleared in the tables of both epochs. -/
def windowOff (w : Nat) (s : State) : State :=
  { s.setB F.FAB_RSV_CFG_EN w false with
    winCur := smapSet (fun _ => 0) s.winCur w (fset F.FAB_RSV_CFG_EN (smapGet (fun _ => 0) s.winCur w) 0) }

/-- A boundary takes a waiting change of OPEN: any write, and a firing whose match instant lies at least 2.25 ns back
(R81, R282). -/
def winReady (o : Option (Bool × Option Word)) (s : State) : Bool :=
  match o with
  | some (_, some inst) => decide (72 ≤ (s.tb - inst).toInt)
  | _ => true

/-- Every window takes the OPEN value that waits for this boundary, and those that a partition reset returns lose EN. -/
def windowsChange (s : State) : State :=
  let s : State := { s.winOff.foldl (fun t w => windowOff w t) s with winOff := [] }
  let wait := s.winPend.filter fun x => !winReady x.2 s
  { s.winPend.foldl (fun (t : State) (w, o) => match o with
      | some (b, _) => if winReady o t then t.setB F.FAB_RSV_CFG_OPEN w b else t
      | none => t) s with winPend := wait }

/-- Every bucket refills, and what the refill releases goes on. -/
def creditsRefill (s : State) : State :=
  haPump (mcWritesGo (mcRelease (iter 1024 creditBoundary s)))

/-- SLOT_CYCLE_BOUNDARY. -/
def execSlotCycleBoundary (s : State) : Out :=
  let s := (s.setF F.FAB_SLOT_SLOT 0 0).wrapInc F.FAB_SLOT_CYCLES 0
  .next (creditsRefill (windowsChange s))

end Sys2Proof.Machine
end

