-- ==== Sys2Proof/Machine/Slice.lean ====
section
/-! DEFINITION. The L3 slices of a die: the requests of its cores, the grants and snoops of the home agents, victim
buffers, tenure and the loss of a die (R147, R154, R163, R173, R179 to R181, R186, R188, R193, R195, R196, R422, R429). -/
namespace Sys2Proof.Machine

/-! ## Lines and ways -/

/-- The key of way w of a line's L3 set on CDn (R146). -/
def l3Key (n line w : Nat) : Nat := ((n * 20 + line % 20) * 2048 + line / 20 % 2048) * 12 + w

/-- The die of an L3 key. -/
def l3Die (k : Nat) : Nat := k / 12 / 2048 / 20

/-- The ways that a fill for partition q may use (R154, R429), with the counters that an empty choice raises. -/
def l3Ways (n line q : Nat) (s : State) : List Nat × State :=
  let bad := s.f F.CD_L3_WAYDIS_WAYDIS (n * 20 + line % 20)
  let locks := (List.range 4).map fun k => s.r .CD_L3_LOCK (n * 4 + k)
  let usable := (List.range 12).filter fun w => !bad.testBit w
  match locks.find? fun v => lockHolds v line with
  | some v => (usable.filter fun w => v.getLsbD w, s)
  | none =>
    let unlocked := usable.filter fun w => !locks.any fun v => bit v 63 && v.getLsbD w
    let mask := s.f F.PQ_L3MASK_VAL (q * 12 + n) ||| s.f F.PQ_L3_SHARED_VAL n
    let mine := unlocked.filter fun w => mask.testBit w
    if !mine.isEmpty then (mine, s)
    else
      let s := s.satInc F.PQ_STATUS_MASK_EMPTY 0
      if !unlocked.isEmpty then (unlocked, s)
      else if usable.isEmpty then ([], s)
      else (usable, s.setB F.CD_L3_RANGE_STATUS_LOCK_BREAK n true)

/-- Entries in the victim buffer of a line's slice. -/
def vbCount (n line : Nat) (s : State) : Nat := s.vb.countP fun v => v.die == n && v.line % 20 == line % 20

/-- A line put into the victim buffer of its slice, with VB_MAX (R188, R198). -/
def vbPut (v : VbEntry) (s : State) : State :=
  let s := { s with vb := s.vb ++ [v] }
  let occ := min 8 (vbCount v.die v.line s)
  if s.f F.CD_COH_STATUS_VB_MAX v.die < occ then s.setF F.CD_COH_STATUS_VB_MAX v.die occ else s

/-- The slice has a request open at the home agent for a line. -/
def l3Waits (n line : Nat) (s : State) : Bool := s.l3Pend.any fun q => q.die == n && q.line == line

/-- A request or response of a slice to a line's home agent. -/
def toHome (n line : Nat) (isReq : Bool) (p : Packet) (s : State) : State :=
  sendUp n isReq { p with src := sliceAgent n line, dst := 0x100 + mcOf (line * 64), addr := line * 64 } s

/-- A line removed from every core of the die marked present; a dirty copy goes into the L3 line (R147). -/
def l3RemoveCores (k : Nat) (s : State) : State :=
  let n := l3Die k
  (List.range 20).foldl (fun t c =>
    let l := t.l3L k
    if !l.pres.testBit c then t
    else
      let np := 20 * n + c
      let d := coreDirty np l.line t
      let t := coreStrip np l.line t
      let l := match d with
        | some (x, po) => { l with data := x, poison := po, st := 4 }
        | none => l
      t.setL3 k { l with pres := clrBit l.pres c, own := if l.own = c then 20 else l.own }) s

/-- A line leaves the slice into the victim buffer with WbM or EvC (R147, R181, R188). -/
def l3Evict (k : Nat) (s : State) : State :=
  let n := l3Die k
  let s := l3RemoveCores k s
  let l := s.l3L k
  if l.st = 0 then s
  else
    let wb := l.st == 4
    let s := vbPut { die := n, line := l.line, wbm := wb, w := l.w, poison := l.poison, data := l.data } (s.setL3 k {})
    if wb then toHome n l.line false { op := .wbM, w := l.w, data := true, payload := l.data, poison := l.poison } s
    else toHome n l.line false { op := .evC, w := l.w } s

/-- The result of an attempt to install a line: done, wait for the victim buffer, or no usable way. -/
inductive Install where
  | done (s : State) | full | noWay (s : State)

/-- A granted line installed in the L3: in its own way, a free way, or the victim's (R151, R181, R429). A line for which
the slice has a request open, an Upg, is no victim: the die would lose the line that it is being granted. -/
def l3Install (n line st : Nat) (w : Bool) (d : Line) (po : BitVec 2) (q : Nat) (stream : Bool) (s : State) : Install :=
  let age := if stream then 3 else 0
  match l3Find n line s with
  | some k => .done (s.setL3 k { s.l3L k with st := st, w := w, data := d, poison := po, age := 0 })
  | none =>
    let (ways, s) := l3Ways n line q s
    let new : L3Line := { line := line, st := st, w := w, data := d, poison := po, age := age }
    if ways.isEmpty then .noWay s
    else match ways.find? fun x => (s.l3L (l3Key n line x)).st == 0 with
      | some x => .done (s.setL3 (l3Key n line x) new)
      | none =>
        if 8 ≤ vbCount n line s then .full
        else match nruVictim (fun x => (s.l3L (l3Key n line x)).age)
            (ways.filter fun x => !l3Waits n (s.l3L (l3Key n line x)).line s) with
          | none => .full
          | some (v, c) =>
            let s := (List.range 12).foldl (fun t x =>
              let l := t.l3L (l3Key n line x)
              if l.st = 0 then t else t.setL3 (l3Key n line x) { l with age := aged c l.age }) s
            .done ((l3Evict (l3Key n line v) s).setL3 (l3Key n line v) new)

/-! ## Answers to the cores -/

/-- The request of core np for a line ends. -/
def l2PendDone (np line : Nat) (s : State) : State :=
  { s with l2Pend := s.l2Pend.filter fun q => !(q.np == np && q.line == line && q.phase == 0) }

/-- The answer to a request that core np has ended with a timeout is discarded: the tag is freed from its quarantine
(R207, R288). -/
def lateAnswer (np : Nat) (p : Packet) (s : State) : Option State :=
  match s.l2Pend.find? fun q => q.np == np && q.tag == p.tag && q.line == p.addr / 64 with
  | some q =>
    if q.phase = 0 then none
    else some ((if q.phase = 1 then { s with l2Pend := s.l2Pend.erase q } else s).satInc F.FAB_STATUS_LATE_CNT 0)
  | none => none

/-- A line granted to a core in S, E or M: filled into the L2, the L1 that asked, and given to what waits (R148, R149,
R180, R423). A prefetch that has been discarded is not filled, and the core gives the line back (R105), as it does one that
comes too late (R207; DESIGN CHOICE: the spec does not say what the slice then believes); a PRELOAD fills
the L2 alone (R158). With TENURE 0, the oldest store of the line is performed with the fill, before any snoop (R186). -/
def grantCore (np line st : Nat) (w : Bool) (d : Line) (po : BitVec 2) (p : Packet) (s : State) : State :=
  match lateAnswer np p s with
  | some s => toSlice np line { op := .evL, w := w } s
  | none =>
  let q := l2PendOf np line s
  let pf := q.elim 0 (·.pf)
  let stream := q.elim false (·.stream)
  let s := l2PendDone np line s
  if pf = 2 then toSlice np line { op := .evL, w := w } s
  else
    let h := hartOn np s
    let px := dramPartOk (h.elim 0 fun h => hartPart h s) (line * 64) s
    let s := l2Fill np line st w px stream (pf == 3) d po s
    let s := if p.op = .rdS ∧ pf ≠ 3 then
        (if p.fetch then l1iFill np line w px d po s else l1dFill np line w px stream d po s)
      else s
    match h with
    | none => s
    | some h =>
      let first := p.op != .rdS && s.f F.CD_COH_CTRL_TENURE (np / 20) == 0 &&
        ((s.hart h).sb.head?.elim false fun e => e.pa / 64 == line && e.pbmt == 0)
      loadsPump h (if first then sbLeave h s else s)

/-- What waits for a request of core np ends with an error: that of a load fails the loads of the line, and that of a store
the oldest store buffer entry of the line (R207, R208, R376). -/
def coreError (np line : Nat) (op : Op) (s : State) : State :=
  match (if np < 240 then hartOn np s else none) with
  | none => s
  | some h =>
    let t := s.hart h
    let amo := (t.loads.head?.map fun l => l.amo.isSome && (l.accs.any fun a => a.pa / 64 == line)).getD false
    if op = .rdS ∨ op = .rdOnce ∨ amo then failLine np line s
    else match t.sb.findIdx? fun e => e.pa / 64 == line && inDram e.pa s with
      | some k => sbError h k s
      | none => s

/-- The slice answers a core request with an error. -/
def failCore (np line : Nat) (p : Packet) (s : State) : State :=
  match lateAnswer np p s with
  | some s => s
  | none => coreError np line p.op (l2PendDone np line s)

/-- A line read for a core and not filled (R163, R188). -/
def serveCore (np line : Nat) (d : Line) (po : BitVec 2) (p : Packet) (s : State) : State :=
  match lateAnswer np p s with
  | some s => s
  | none => deliverLine np line d po (l2PendDone np line s)

/-- The store buffer entry whose line a core zeroes with CBO.ZERO, for which the die asks GetXZ (R191). -/
def zeroes (np line : Nat) (s : State) : Bool :=
  match hartOn np s with
  | none => false
  | some h => ((s.hart h).sb.find? fun e => e.pa / 64 == line).elim false fun e => e.kind == .cboZ

/-- Snoops to the cores of a set that have not yet been sent for a waiting packet. -/
def snoopCores (op : Op) (n line : Nat) (cores : List Nat) (r : SliceReq) (s : State) : SliceReq × State :=
  cores.foldl (fun (rs : SliceReq × State) c =>
    let (r, s) := rs
    if r.sent.testBit c then (r, s)
    else ({ r with sent := orBit r.sent c },
      s.sendP { op := op, cls := r.p.cls, w := r.p.w, part := r.p.part, src := sliceAgent n line, dst := 20 * n + c,
                addr := line * 64 })) (r, s)

/-- SnpLX to the owner and InvL to the sharers among a set of cores. -/
def removeSnoops (n line own : Nat) (cores : List Nat) (r : SliceReq) (s : State) : SliceReq × State :=
  let (r, s) := snoopCores .snpLX n line (cores.filter (· == own)) r s
  snoopCores .invL n line (cores.filter (· != own)) r s

/-- The cores of a presence vector. -/
def presCores (pres : Nat) : List Nat := (List.range 20).filter fun c => pres.testBit c

/-- A waiting packet changed in the slice's queue. -/
def setSliceReq (r r' : SliceReq) (s : State) : State :=
  { s with sliceQ := s.sliceQ.map fun x => if x = r then r' else x }

/-- A slice asks the home agent, for the core request p (R181, R206). -/
def askHome (n line : Nat) (op : Op) (p : Packet) (s : State) : State :=
  let src := sliceAgent n line
  let tag := newTag src s
  let s := { s with l3Pend := s.l3Pend ++
    [{ die := n, line := line, tag := tag, op := op, req := p, dead := false, t0 := s.tb }] }
  toHome n line true { op := op, cls := p.cls, w := p.w, part := p.part, tag := tag, fetch := p.fetch } s

/-- A core request refused at the slice by the world or partition check (R372, R422). -/
def sliceDeny (w lw : Bool) (part line : Nat) (s : State) : Option Bool :=
  if !w && lw then some true else if dramPartOk part (line * 64) s then none else some false

/-- Record and answer of a refusal at the slice. -/
def sliceRefuse (world : Bool) (p : Packet) (line : Nat) (s : State) : State :=
  let s := if world then denyWorld .cache (denyKindOf p) (pktAccess p) (line * 64) s
    else denyPart .cache (denyKindOf p) (pktAccess p) (line * 64) s
  failCore p.src line p s

/-! ## A core's request at its slice (R180, R181, R188) -/

/-- One attempt at a core request. It answers the state and whether the request is finished. A line in the victim buffer
serves a load or fetch once, and everything else waits, a PRELOAD too, whose fill it could not be (R188). -/
def coreReqTry (r : SliceReq) (s : State) : State × Bool :=
  let n := r.die
  let line := r.line
  let p := r.p
  let np := p.src
  let c := np % 20
  match vbFind n line s with
  | some v =>
    if (p.op = .rdS ∨ p.op = .rdOnce) ∧ (l2PendOf np line s).elim 0 (·.pf) ≠ 3 then
      match sliceDeny p.w v.w p.part line s with
      | some world => (sliceRefuse world p line s, true)
      | none =>
        let s := s.satInc F.CD_COH_STATUS_VB_READS n
        (serveCore np line v.data v.poison p s, true)
    else (s, false)
  | none =>
    if s.l3Pend.any fun q => q.die == n && q.line == line && !q.dead then (s, false)
    else match l3Find n line s with
    | none =>
      let op : Op := if p.op = .rdS ∨ p.op = .rdOnce then .getS else if zeroes np line s then .getXZ else .getX
      (askHome n line op p (coreEvent np 4 s), false)
    | some k =>
      let l := s.l3L k
      match sliceDeny p.w l.w p.part line s with
      | some world => (sliceRefuse world p line s, true)
      | none =>
        let others := presCores (clrBit l.pres c)
        if p.op = .rdS ∨ p.op = .rdOnce then
          if l.pres.testBit c ∧ p.op = .rdS then (s, false)
          else if l.own ≠ 20 ∧ l.own ≠ c then
            let (r', s) := snoopCores .snpL n line [l.own] r s
            (setSliceReq r r' s, false)
          else
            let s := s.setL3 k { l with age := 0 }
            if p.op = .rdOnce then (serveCore np line l.data l.poison p s, true)
            else
              let e := decide (3 ≤ l.st) && others.isEmpty
              let s := s.setL3 k { l with age := 0, pres := orBit l.pres c, own := if e then c else l.own }
              (grantCore np line (if e then 2 else 1) l.w l.data l.poison p s, true)
        else if p.op = .rdX ∧ l.pres.testBit c then (s, false)
        else if l.st < 3 then (askHome n line (if zeroes np line s then .getXZ else .upgHA) p s, false)
        else if !others.isEmpty then
          let (r', s) := removeSnoops n line l.own others r s
          (setSliceReq r r' s, false)
        else if p.op = .wrPart then
          let l := { l with data := mergeLine l.data p.payload p.mask, poison := poisonMerge l.poison p.poison p.mask,
                            st := 4, age := 0 }
          let s := s.setL3 k l
          (match lateAnswer np p s, hartOn np s with
            | some s, _ => s
            | none, some h => sbPop h (l2PendDone np line s)
            | none, none => l2PendDone np line s, true)
        else
          let s := s.setL3 k { l with st := 4, pres := 2 ^ c, own := c, age := 0 }
          (grantCore np line 3 l.w l.data l.poison p s, true)

/-! ## Snoops of the home agents (R181) -/

/-- A slice's response to a snoop. -/
def snoopRsp (n line : Nat) (p : Packet) (op : Op) (d : Option (Line × BitVec 2)) (w : Bool) (s : State) : State :=
  toHome n line false
    { op := op, cls := p.cls, w := w, part := p.part, tag := p.tag, data := d.isSome,
      payload := (d.map (·.1)).getD 0, poison := (d.map (·.2)).getD 0 } s

/-- FwdData to the slice whose request the home agent serves. The header has no field for that requester: it is the one
of the line's open transaction. -/
def forward (n line : Nat) (p : Packet) (g : Grant) (l : L3Line) (s : State) : State :=
  match (haTxOf (line * 64) s).bind (·.req) with
  | none => s
  | some q => sendUp n false
      { op := .fwdData, cls := p.cls, w := l.w, part := p.part, src := sliceAgent n line, dst := q.src, tag := q.tag,
        addr := line * 64, st := g, data := true, payload := l.data, poison := l.poison } s

/-- One attempt at a snoop of a home agent. -/
def snoopTry (r : SliceReq) (s : State) : State × Bool :=
  let n := r.die
  let line := r.line
  let p := r.p
  match vbFind n line s with
  | some v =>
    (snoopRsp n line p (if v.wbm ∧ p.op ≠ .inv then .rspWbP else .rspI) none v.w s, true)
  | none =>
    match l3Find n line s with
    | none => (snoopRsp n line p .rspI none p.w s, true)
    | some k =>
      let l := s.l3L k
      let cores := presCores l.pres
      let wait (rs : SliceReq × State) : State × Bool := (setSliceReq r rs.1 rs.2, false)
      match p.op with
      | .snpS =>
        if l.own ≠ 20 then wait (snoopCores .snpL n line [l.own] r s)
        else
          let s := forward n line p .f l (s.setL3 k { l with st := 1 })
          (snoopRsp n line p .rspFwdS (if l.st = 4 then some (l.data, l.poison) else none) l.w s, true)
      | .snpX =>
        if !cores.isEmpty then wait (removeSnoops n line l.own cores r s)
        else
          let s := forward n line p (if l.st = 4 then .m else .e) l (s.setL3 k {})
          (snoopRsp n line p .rspFwdI (if l.st = 4 then some (l.data, l.poison) else none) l.w s, true)
      | .snpC =>
        if l.st = 4 then
          let np := 20 * n + l.own
          let (x, po) := (if l.own = 20 then none else coreDirty np line s).getD (l.data, l.poison)
          let s := match (if l.own = 20 then none else l2Has np line s) with
            | some j => if (s.l2L j).st = 3 then s.setL2 j { s.l2L j with st := 2 } else s
            | none => s
          let s := s.setL3 k { l with st := 3, data := x, poison := po }
          -- a WbL in flight has given its data; as an EvL it still takes the core out of the presence vector
          let s := { s with out := s.out.map fun m => match m with
            | .pkt q => if isLeaving np line m && l.own != 20 then .pkt { q with op := .evL, data := false, payload := 0, poison := 0 } else m
            | m => m }
          (snoopRsp n line p .wbC (some (x, po)) l.w s, true)
        else (snoopRsp n line p .rspS none l.w s, true)
      | .inv =>
        if !cores.isEmpty then wait (removeSnoops n line l.own cores r s)
        else (snoopRsp n line p .rspI none l.w (s.setL3 k {}), true)
      | _ =>
        if !cores.isEmpty then wait (removeSnoops n line l.own cores r s)
        else if l.st = 4 then
          (snoopRsp n line p .rspRclD (some (l.data, l.poison)) l.w (s.setL3 k {}), true)
        else (snoopRsp n line p .rspI none l.w (s.setL3 k {}), true)

/-! ## Grants (R181) -/

/-- The L3 state that a grant gives. -/
def grantState (p : Packet) : Nat :=
  match p.op with
  | .dataF => 2
  | .fwdData => if p.st = .m then 4 else if p.st = .e then 3 else 2
  | _ => 3

/-- A granted line that the slice cannot keep leaves at once, through the victim buffer (R181, R429). -/
def grantLeave (n line : Nat) (g : Nat) (w : Bool) (d : Line) (po : BitVec 2) (s : State) : State :=
  let s := vbPut { die := n, line := line, wbm := g == 4, w := w, poison := po, data := d } s
  if g = 4 then toHome n line false { op := .wbM, w := w, data := true, payload := d, poison := po } s
  else toHome n line false { op := .evC, w := w } s

/-- One attempt at a grant: the line is installed, CmpAck closes the home agent's transaction, and the slice's request
ends; it waits while the victim buffer is full. An error ends the request without a line. Ownership without data of a line
that the slice has lost meanwhile (R166) is given back, and the core's request begins anew. -/
def grantTry (r : SliceReq) (s : State) : State × Bool :=
  let n := r.die
  let line := r.line
  let p := r.p
  match s.l3Pend.find? fun q => q.die == n && q.line == line && q.tag == p.tag with
  | none => (s.satInc F.FAB_STATUS_LATE_CNT 0, true)
  | some q =>
    let ended (s : State) : State := { s with l3Pend := s.l3Pend.erase q }
    let dropReq (s : State) : State := { s with sliceQ := s.sliceQ.filter fun x => !(x.die == n && x.line == line && x.p == q.req) }
    if p.resp ≠ 0 then
      (if q.dead then ended s else failCore q.req.src line q.req (dropReq (ended s)), true)
    else
      let ack (s : State) : State := toHome n line false
        { op := .cmpAck, cls := p.cls, w := p.w, part := p.part, tag := p.tag } s
      let keep := l3Find n line s
      if p.op = .gntX ∧ q.op ≠ .getXZ ∧ keep.isNone then
        if 8 ≤ vbCount n line s then (s, false) else (grantLeave n line 3 p.w 0 0 (ack (ended s)), true)
      else
        let (d, po) := match p.op, keep with
          | .gntX, some k => ((s.l3L k).data, (s.l3L k).poison)
          | _, _ => (p.payload, p.poison)
        let stream := (l2PendOf q.req.src line s).elim false fun x => x.stream && s.b F.CD_CORE_CACHE_CTRL_STREAM_OLD x.np
        match l3Install n line (grantState p) p.w d po q.req.part stream s with
        | .full => (s, false)
        | .done s => (ack (ended s), true)
        | .noWay s' =>
          -- no usable way: the line is not kept, and the core takes an error (R429)
          if 8 ≤ vbCount n line s then (s, false)
          else
            let s := grantLeave n line (grantState p) p.w d po (ack (ended s'))
            let s := report 2 3 p.w (some (line * 64)) p.part (sliceAgent n line) (arrayDetail n 8 (line % 20) 0) s
            (if q.dead then s else failCore q.req.src line q.req (dropReq s), true)

/-! ## The slice's queue (R179) -/

/-- Rank in the slice: snoops, then grants, then core requests (R179). -/
def sliceRank (p : Packet) : Nat :=
  match p.op with
  | .snpS | .snpX | .snpC | .inv | .rcl => 0
  | .dataE | .dataF | .fwdData | .gntX => 1
  | _ => 2

/-- The first waiting packet of a line in the order of rank, then arrival. -/
def sliceFirst (n line : Nat) (s : State) : List SliceReq :=
  let mine := s.sliceQ.filter fun r => r.die == n && r.line == line
  (List.range 3).flatMap fun c => mine.filter fun r => sliceRank r.p == c

/-- One attempt at a waiting packet. -/
def sliceTry (r : SliceReq) (s : State) : State :=
  if !s.sliceQ.contains r then s
  else
    let (s', fin) := match sliceRank r.p with
      | 0 => snoopTry r s
      | 1 => grantTry r s
      | _ => coreReqTry r s
    if fin then { s' with sliceQ := s'.sliceQ.filter fun x => !(x.die == r.die && x.line == r.line && x.p == r.p) } else s'

/-- The waiting packets of a line tried in order, up to the first core request that still waits: a grant does not wait
behind a snoop, nor a snoop behind a request. While the line is in the victim buffer, a load or fetch does not wait behind a
store either (R188). -/
def slicePass (n line : Nat) (s : State) : State :=
  let rs := sliceFirst n line s
  let s := (rs.filter fun r => sliceRank r.p ≤ 1).foldl (fun t r => sliceTry r t) s
  let snooping := s.sliceQ.any fun r => r.die == n && r.line == line && sliceRank r.p == 0
  if snooping then s
  else if (vbFind n line s).isSome then
    ((sliceFirst n line s).filter fun r => sliceRank r.p == 2).foldl (fun t r => sliceTry r t) s
  else match (sliceFirst n line s).head? with
    | some r => if sliceRank r.p = 2 then sliceTry r s else s
    | none => s

/-- The waiting packets of a line go on. -/
def slicePump (n line : Nat) (s : State) : State :=
  iter ((s.sliceQ.countP fun r => r.die == n && r.line == line) + 1) (fun _ t => slicePass n line t) s

/-- A packet reaches a slice. -/
def sliceArrive (n : Nat) (p : Packet) (s : State) : State :=
  if s.behind p then s
  else
  let s := s.take (.pkt p)
  let line := p.addr / 64
  slicePump n line { s with sliceQ := s.sliceQ ++ [{ die := n, line := line, p := p, sent := 0 }] }

/-- The hart of a core replays and goes on after an invalidation. -/
def corePump (np : Nat) (s : State) : State :=
  match hartOn np s with
  | some h => loadsPump h s
  | none => s

/-- A victim buffer entry released by WbAck or EvAck; what waited for it or for room goes on, atomics that run elsewhere
too (R181, R188). -/
def vbRelease (p : Packet) (s : State) : State :=
  if s.behind p then s
  else
  let s := s.take (.pkt p)
  let n := dieOfAgent p.dst
  let line := p.addr / 64
  let wb := p.op == .wbAck
  let s := { s with vb := s.vb.eraseP fun v => v.die == n && v.line == line && v.wbm == wb }
  let lines := (s.sliceQ.filter fun r => r.die == n && r.line % 20 == line % 20).map (·.line)
  let s := lines.foldl (fun t l => slicePump n l t) (slicePump n line s)
  if n < 12 then iter 20 (fun c t => corePump (20 * n + c) t) s else s

/-! ## Core responses (R180, R186) -/

/-- A core leaves a line of its slice, with its dirty data when it has some; what waits for it goes on. -/
def coreLeaves (np line : Nat) (d : Option (Line × BitVec 2)) (s : State) : State :=
  let n := np / 20
  match l3Find n line s with
  | none => slicePump n line s
  | some k =>
    let l := s.l3L k
    let l := match d with
      | some (x, po) => { l with data := x, poison := po, st := 4 }
      | none => l
    slicePump n line (s.setL3 k { l with pres := clrBit l.pres (np % 20), own := if l.own = np % 20 then 20 else l.own })

/-- SnpL or SnpLX answered: data to the L3, dirty when M, and the L2 goes to S or I (R180). The answer of a core that has
sent WbL or EvL of the line is that message. -/
def answerSnoop (np line : Nat) (excl : Bool) (s : State) : State :=
  let n := np / 20
  match (if l2On np s then l2Has np line s else none) with
  | none => if leaving np line s then s else coreLeaves np line none s
  | some k =>
    let l := s.l2L k
    let d := if l.st = 3 then some (l.data, l.poison) else none
    if excl then corePump np (coreLeaves np line d (coreInval np line s))
    else
      let s := loseResv np line (s.setL2 k { l with st := 1, ten := false })
      match l3Find n line s with
      | none => slicePump n line s
      | some j =>
        let x := s.l3L j
        let x := match d with
          | some (y, po) => { x with data := y, poison := po, st := 4 }
          | none => x
        slicePump n line (s.setL3 j { x with own := if x.own = np % 20 then 20 else x.own })

/-- SnpL or SnpLX at a core: it waits for the end of the line's tenure (R186). -/
def coreSnoop (p : Packet) (excl : Bool) (s : State) : State :=
  if s.behind p then s
  else
  let s := s.take (.pkt p)
  let np := p.dst
  let line := p.addr / 64
  match (if l2On np s then l2Has np line s else none) with
  | some k =>
    if (s.l2L k).ten then
      { (s.satInc F.CD_COH_STATUS_TENURE_DLY (np / 20)) with
        l2Held := s.l2Held ++ [{ die := np, line := line, p := p, sent := 0 }] }
    else answerSnoop np line excl s
  | none => answerSnoop np line excl s

/-- InvL at a core: acknowledged at once (R180). It reaches only lines in S (R186): one that meets a line granted in E or M
since is stale and takes nothing. -/
def coreInvL (p : Packet) (s : State) : State :=
  if s.behind p then s
  else
  let s := s.take (.pkt p)
  let np := p.dst
  let line := p.addr / 64
  if (l2Owned np line s).isSome then slicePump (np / 20) line s
  else
    let s := coreInval np line s
    corePump np (if leaving np line s then s else coreLeaves np line none s)

/-- The end of a tenure: the waiting snoops of the line are answered (R186). -/
def tenureEnds (np line : Nat) (s : State) : State :=
  match l2Has np line s with
  | none => s
  | some k =>
    let s := s.setL2 k { s.l2L k with ten := false }
    let held := s.l2Held.filter fun r => r.die == np && r.line == line
    let s := { s with l2Held := s.l2Held.filter fun r => !(r.die == np && r.line == line) }
    held.foldl (fun t r => answerSnoop np line (r.p.op == .snpLX) t) s

/-! ## Range engines (R161): a core's is numbered by the core, CDn's is 240 + n -/

/-- The die of an engine. -/
def engDie (e : Nat) : Nat := if e < 240 then e / 20 else e - 240

/-- A field of the status register of an engine. -/
def rsF (core die : Fld) (e : Nat) (s : State) : Nat := if e < 240 then s.f core e else s.f die (e - 240)

/-- The same field set. -/
def rsSet (core die : Fld) (e v : Nat) (s : State) : State := if e < 240 then s.setF core e v else s.setF die (e - 240) v

/-- BUSY, DONE, ERR and LINES of an engine. -/
def rsBusy (e : Nat) (s : State) : Nat := rsF F.CD_CORE_RANGE_STATUS_BUSY F.CD_L3_RANGE_STATUS_BUSY e s
/-- BUSY set. -/
def rsSetBusy : Nat → Nat → State → State := rsSet F.CD_CORE_RANGE_STATUS_BUSY F.CD_L3_RANGE_STATUS_BUSY
/-- DONE set. -/
def rsSetDone : Nat → Nat → State → State := rsSet F.CD_CORE_RANGE_STATUS_DONE F.CD_L3_RANGE_STATUS_DONE
/-- ERR set. -/
def rsSetErr : Nat → Nat → State → State := rsSet F.CD_CORE_RANGE_STATUS_ERR F.CD_L3_RANGE_STATUS_ERR
/-- LINES set. -/
def rsSetLines : Nat → Nat → State → State := rsSet F.CD_CORE_RANGE_STATUS_LINES F.CD_L3_RANGE_STATUS_LINES

/-- A running command aborted: DONE = 0, ERR = ABORTED, and the lines processed in LINES (R161). -/
def rangeAbort (e : Nat) (s : State) : State :=
  match s.ranges.find? fun r => r.eng == e with
  | none => s
  | some r =>
    let s := { s with ranges := s.ranges.filter fun x => x.eng != e }
    rsSetLines e r.count (rsSetErr e 2 (rsSetDone e 0 (rsSetBusy e 0 s)))

/-- The engines of CDn and of its cores. -/
def dieEngines (n : Nat) : List Nat := (240 + n) :: (List.range 20).map (20 * n + ·)

/-! ## A die goes (R142, R196, R212) -/

/-- Everything that a die's power domain holds is lost: caches, pending requests, store buffers and harts (R34, R212). -/
def dieWipe (n : Nat) (s : State) : State :=
  let s := (dieEngines n).foldl (fun t e => rangeAbort e t) s
  let core (k : Nat) (per : Nat) : Bool := k / per / 20 == n
  let s := { s with
    l3 := s.l3.filter fun (k, _) => l3Die k != n
    l2 := s.l2.filter fun (k, _) => !core k 16384
    l1d := s.l1d.filter fun (k, _) => !core k 256
    l1i := s.l1i.filter fun (k, _) => !core k 1024
    vb := s.vb.filter fun v => v.die != n
    l3Pend := s.l3Pend.filter fun q => q.die != n
    sliceQ := s.sliceQ.filter fun r => r.die != n
    l2Pend := s.l2Pend.filter fun q => q.np / 20 != n
    l2Held := s.l2Held.filter fun r => r.die / 20 != n
    l2BadWay := s.l2BadWay.filter fun (k, _) => k / 20 != n
    txs := s.txs.filter fun t => !(t.src < 240 && t.src / 20 == n)
    replicas := smapErase s.replicas n }
  let s := s.dropOut fun m => match m with
    | .pkt p => dieOfAgent p.src == n || dieOfAgent p.dst == n || p.dst == 0xF0 + n
    | .bcast d => d == n
    | _ => false
  let s := s.setFbit F.PHE_REPLICA_STATUS_VALID 0 n false
  let s := { s with
    coreTrace := s.coreTrace.filter fun (k, _) => k / 20 != n
    ctrBuf := s.ctrBuf.filter fun (k, _) => k / 2048 != n
    ctrFifo := s.ctrFifo.filter fun (k, _) => k != n
    tap := { s.tap with dieIr := smapErase s.tap.dieIr n } }
  let s := s.setF F.CTR_PTR_WRPTR n 0
  let s := iter 20 (fun c t => t.setF F.CD_CORE_ORD_STATUS_SB_COUNT (20 * n + c) 0) s
  let s := batDieReset n s
  (List.range 256).foldl (fun t h =>
    if hartExists h t && hartDie h t == n then hartClear h (tsCancelAll h t) else t) s

/-- A die lost without an orderly reset (R196, R212): the home agents take over its answers, and a FATAL record is made
(R555). -/
def dieLoss (n : Nat) (hot : Bool) (s : State) : State :=
  let s := haDieLost n (dieWipe n s)
  report 9 4 false none 0 0x12D (n + if hot then 16 else 0) s

end Sys2Proof.Machine
end

