-- ==== Sys2Proof/Machine/Bridges.lean ====
section
/-! DEFINITION. The die bridges: frames and replay, the message sideband, training, the width agreement and the
capability exchange (R303 to R323). -/
namespace Sys2Proof.Machine

/-- The hidden state of a bridge. -/
def State.br (s : State) (n : Nat) : Bridge := smapGet (fun _ => {}) s.bridges n

/-- The same changed. -/
def State.setBr (s : State) (n : Nat) (b : Bridge) : State := { s with bridges := smapSet (fun _ => {}) s.bridges n b }

/-- A capability is enabled on bridge n: 1 HALF, 2 FASTRT, 3 RB64, 4 LMARG (R321). -/
def brCap (n k : Nat) (s : State) : Bool := (s.f F.BR_CAP_ENABLED n).testBit k

/-! ## Lane masks (R303, R313, R315) -/

/-- The physical lanes of lane set g. -/
def laneCount (g : Nat) : Nat := if g ≤ 1 then 136 else if g = 2 then 46 else 22

/-- The mask of a lane set. -/
def laneGet (m : LaneMask) (g : Nat) : Nat :=
  match g with
  | 0 => m.md
  | 1 => m.mu
  | 2 => m.sd
  | _ => m.su

/-- The union of two masks, lane set by lane set. -/
def laneOr (a b : LaneMask) : LaneMask := ⟨a.md ||| b.md, a.mu ||| b.mu, a.sd ||| b.sd, a.su ||| b.su⟩

/-- The lanes of a that b does not hold. -/
def laneMinus (a b : LaneMask) : LaneMask :=
  let d (x y : Nat) : Nat := x ^^^ (x &&& y)
  ⟨d a.md b.md, d a.mu b.mu, d a.sd b.sd, d a.su b.su⟩

/-- The good lanes of a set. -/
def laneGood (m : LaneMask) (g : Nat) : Nat :=
  (List.range (laneCount g)).countP fun b => !(laneGet m g).testBit b

/-- The (l + 1)-th physical lane of set g in ascending order whose fail bit is 0: it carries logical lane l (R313). -/
def lanePhys (m : LaneMask) (g l : Nat) : Option Nat :=
  ((List.range (laneCount g)).filter fun b => !(laneGet m g).testBit b)[l]?

/-- A place on a link: a lane and a unit interval. -/
structure LaneSlot where
  /-- The lane. -/
  lane : Nat
  /-- The unit interval, counted from the first of the beat pair, frame or message. -/
  ui : Nat
  deriving DecidableEq, Repr

/-- Bit q of a transmission over w lanes (R304). -/
def laneSlot (w q : Nat) : LaneSlot := ⟨q % w, q / w⟩

/-- The logical lane and UI of bit q of a flit of the main link (R304): at full width the flit of the even slot takes
beat-pair bits 0 to 959 and that of the odd slot bits 960 to 1,919; at half width one flit takes the whole beat pair, on
logical lanes 0 to 63. -/
def flitSlot (half odd : Bool) (q : Nat) : LaneSlot :=
  if half then laneSlot 64 q else laneSlot 128 (if odd then 960 + q else q)

/-- Frame bit q of the phase sideband (R304). -/
def phaseFrameSlot (q : Nat) : LaneSlot := laneSlot 24 q

/-- Message bit q of the message sideband (R304). -/
def messageSlot (q : Nat) : LaneSlot := laneSlot 20 q

/-- The physical lane of set g, and the UI, on which a bit placed on a logical lane travels under a map (R304, R313). -/
def physSlot (m : LaneMask) (g : Nat) (x : LaneSlot) : Option LaneSlot :=
  (lanePhys m g x.lane).map fun p => ⟨p, x.ui⟩

/-- The index of word w of lane set g of a bridge's maps. -/
def lmapIx (n g w : Nat) : Nat := n * 12 + g * 3 + w

/-- A lane set as its register holds it. -/
def regMask (r : Reg) (n g : Nat) (s : State) : Nat :=
  (s.r r (lmapIx n g 0)).toNat + (s.r r (lmapIx n g 1)).toNat * 2 ^ 64 + (s.r r (lmapIx n g 2)).toNat * 2 ^ 128

/-- The four lane sets of a register. -/
def regMasks (r : Reg) (n : Nat) (s : State) : LaneMask :=
  ⟨regMask r n 0 s, regMask r n 1 s, regMask r n 2 s, regMask r n 3 s⟩

/-- The committed failures (R315, R563). -/
def committedMask (n g : Nat) (s : State) : Nat :=
  (List.range (laneCount g)).foldl (fun m b => if laneCommitted n g b s then m + 2 ^ b else m) 0

/-- The committed failures of the four lane sets. -/
def committedMasks (n : Nat) (s : State) : LaneMask :=
  ⟨committedMask n 0 s, committedMask n 1 s, committedMask n 2 s, committedMask n 3 s⟩

/-- The map in force written to BR_LMAP. -/
def setLmap (n : Nat) (m : LaneMask) (s : State) : State :=
  iter 12 (fun j t => t.setR .BR_LMAP (n * 12 + j) (BitVec.ofNat 64 (laneGet m (j / 3) / 2 ^ (64 * (j % 3))))) s

/-- Failed lanes that training finds: kept until the next power-on or hard reset, each new one reported (R315, R555). -/
def lanesFound (n : Nat) (m : LaneMask) (s : State) : State :=
  let b := s.br n
  let known := laneOr (regMasks .BR_LFUSE n s) (laneOr (committedMasks n s) b.found)
  let new := laneMinus m known
  let s := s.setBr n { b with found := laneOr b.found new }
  (List.range 4).foldl (fun t g => (List.range (laneCount g)).foldl (fun t k =>
    if (laneGet new g).testBit k then report 0x0A 1 false none 0 0x148 (k * 2 ^ 16 + n * 2 ^ 8 + g * 16) t else t) t) s

/-! ## The bits of flits, frames and messages (R306, R311) -/

/-- A cyclic redundancy check of w bits over bits n - 1 to 0 of x, taken from bit 0 upward. DEDUCED: the register shifts
toward its high end, as the polynomials are written. -/
def crcOf (w poly init n x : Nat) : Nat :=
  (List.range n).foldl (fun r i =>
    let r' := 2 * r % 2 ^ w
    if r.testBit (w - 1) != x.testBit i then r' ^^^ poly else r') init

/-- CRC-32C, stored inverted (R306). -/
def crc32 (n x : Nat) : Nat := 2 ^ 32 - 1 - crcOf 32 0x1EDC6F41 (2 ^ 32 - 1) n x

/-- The CRC-16 of a message (R311). -/
def crc16 (n x : Nat) : Nat := crcOf 16 0x8BB7 0 n x

/-- Values packed from bit 0 upward, each with its width. -/
def packed : List (Nat × Nat) → Nat
  | [] => 0
  | (w, v) :: r => v % 2 ^ w + packed r * 2 ^ w

/-- The link control of a flit but its CRC (R306). -/
structure LinkCtl where
  /-- FTYPE: 0 flit, 1 idle, 2 first flit of a replay. -/
  ftype : Nat
  /-- EPOCH_CUR, 0 on the way up. -/
  epoch : Bool
  /-- MARK and SLOT: the slot of the launch on the way down, none on the way up. -/
  slot : Option Nat
  /-- The buffers freed of the eight virtual channels. -/
  credit : List Nat
  /-- ACKTYPE: 1 ACK, 2 NAK. -/
  ackType : Nat
  /-- ACKSEQ. -/
  ackSeq : Nat
  /-- SEQ. -/
  seq : Nat
  deriving DecidableEq, Repr

/-- The 960 bits of a flit on a bridge (R267, R306). -/
def bridgeFlit (p : Packet) (c : LinkCtl) : Nat :=
  let body := packed ([(704, flitOf p), (150, 0), (4, c.ftype), (1, if c.epoch then 1 else 0),
    (1, if c.slot.isSome then 1 else 0), (10, c.slot.getD 0)] ++
    (List.range 8).map (fun v => (4, (c.credit[v]?).getD 0)) ++ [(2, c.ackType), (12, c.ackSeq), (12, c.seq)])
  body + crc32 928 body * 2 ^ 928

/-- The phase frame of 1,152 bits with sequence number seq (R311). -/
def phaseFrameBits (seq : Nat) (s : State) : Nat :=
  let locked := (List.range 8).foldl (fun m n => if s.f F.PHE_PORT_STATUS_STATE n = 2 then m + 2 ^ n else m) 0
  let body := packed ([(8, seq), (8, locked), (64, s.tb.toNat)] ++
    ((List.range 8).flatMap fun n => [(64, (s.r .PHE_PORT_PHASE n).toNat), (64, (s.r .PHE_PORT_INC n).toNat)]) ++ [(16, 0)])
  body + crc32 1120 body * 2 ^ 1120

/-- A sideband message of 240 bits: its type, its fields from bit 4, its sequence number in bits 215:208 and its CRC (R311). -/
def sideMessage (ty seq : Nat) (fields : List (Nat × Nat)) : Nat :=
  let body := packed ((4, ty) :: fields) + seq % 256 * 2 ^ 208
  body + crc16 224 body * 2 ^ 224

/-- The type and the fields of a message that waits on a sideband (R311). -/
def sideFields (m : Msg) (s : State) : Option (Nat × List (Nat × Nat)) :=
  let b (x : Bool) : Nat := if x then 1 else 0
  match m with
  | .dispatch h desc arg phase inst entry source late _ _ =>
    some (1, [(5, hartPos h s), (32, arg.toNat), (64, phase.toNat), (64, inst.toNat), (16, entry), (8, desc), (4, source), (1, b late)])
  | .batTrig i entry => some (2, [(8, 2 ^ (i % 8)), (16, entry)])
  | .timed h id =>
    ((s.tsQ h).find? fun e => e.id == id).map fun e =>
      let x := e.info
      let size := if x.size = 1 then 0 else if x.size = 2 then 1 else if x.size = 4 then 2 else 3
      (8, [(5, hartPos h s), (1, b x.w), (6, x.part), (2, size), (1, b x.ld), (3, x.src), (48, x.pa), (64, x.data), (64, x.phase.toNat)])
  | .tsCancel h w addr => some (9, [(5, hartPos h s), (1, b w), (1, b addr.isNone), (48, addr.getD 0)])
  | _ => none

/-! ## DOWN (R316, R318) -/

/-- The bridge goes DOWN. -/
def bridgeDown (n reason : Nat) (s : State) : State :=
  let s := ((s.setF F.BR_STATUS_STATE n 0).setF F.BR_STATUS_WIDTH n 0).setF F.BR_STATUS_DOWN_REASON n reason
  let b := s.br n
  halfConflict n (s.setBr n { b with up := {}, down := {}, sbFails := [] })

/-- The request of port k completes with a status; IRQ makes source 37 pulse (R525, R527). -/
def reqDone (k status : Nat) (s : State) : State :=
  ((s.setF F.PWR_REQ_STATUS_STATUS k status).setB F.PWR_REQ_STATUS_DONE k true).setB F.PWR_REQ_STATUS_BUSY k false

/-- The request that asked for a transition completes with a status. -/
def transReq (t : Option DieTrans) (status : Nat) (s : State) : State :=
  match t with
  | some t => match t.port with
    | some k => reqDone k status s
    | none => s
  | none => s

/-- A die's transition comes to nothing: its request, and an ON request that waits for its end, are ABORTED (R525). -/
def transLost (t : Option DieTrans) (s : State) : State :=
  let s := transReq t 4 s
  match t.bind (·.onPort) with
  | some k => if k < 128 then reqDone k 4 s else s
  | none => s

/-- The bridge goes DOWN and its die is lost (R196); PWC shows it OFF (R533). -/
def bridgeLost (n reason : Nat) (s : State) : State :=
  let s := bridgeDown n reason s
  let s := transLost (smapGet (fun _ => none) s.dieTrans n) (dieLoss n false s)
  { (s.setF F.PWR_DIE_STATE n 0).setF F.PWR_DIE_FREQ_EFF n 0 with
    dieTrans := smapSet (fun _ => none) s.dieTrans n none }

/-- A mask leaves too few lanes: main lanes for HALF, or sideband lanes (R313, R316). -/
def lanesShort (m : LaneMask) : Option Nat :=
  if laneGood m 0 < 64 ∨ laneGood m 1 < 64 then some 2
  else if laneGood m 2 < 44 ∨ laneGood m 3 < 20 then some 3 else none

/-- In a training state, too few lanes in the proposal of either end take the bridge DOWN; otherwise it goes to state st. -/
def bridgeGo (n st : Nat) (s : State) : State :=
  match (lanesShort (s.br n).iod).orElse fun _ => lanesShort (s.br n).die with
  | some reason => bridgeLost n reason s
  | none => s.setF F.BR_STATUS_STATE n st

/-! ## Training (R316 to R319) -/

/-- Repair record i has been applied (R565). -/
def repairApplied (i : Nat) (s : State) : State := report 0x10 0 false none 0 0x12E i s

/-- f applied to every repair record, with its index. -/
def eachRepair (f : Nat → Repair → State → State) (s : State) : State :=
  ((List.range s.repairs.length).zip s.repairs).foldl (fun t (i, r) => f i r t) s

/-- A full training starts: CLK, with the map of the IOD end from its three sources and the die end's from its fuses, or
as it stands when the die end has kept it. -/
def trainFull (n : Nat) (s : State) : State :=
  let b := s.br n
  let fuse := regMasks .BR_LFUSE n s
  let s := if b.trained then s.satInc F.BR_ERRCNT_FULL_CNT n else s
  let keep := s.f F.BR_STATUS_STATE n != 0
  let s := eachRepair (fun i r t => if (r.kind = 2 ∨ r.kind = 3) ∧ r.body % 256 = n then repairApplied i t else t) s
  let s := s.setBr n { b with
    iod := laneOr fuse (laneOr (committedMasks n s) b.found), die := if keep then b.die else fuse
    iodHalf := s.b F.BR_CTRL_FORCE_HALF n, dieHalf := false, trained := true }
  ((s.setF F.BR_STATUS_STATE n 1).setF F.BR_STATUS_ROUNDS n 0).setF F.BR_STATUS_DOWN_REASON n 0

/-- A fast retrain starts, or a full one without FASTRT. -/
def trainFast (n : Nat) (s : State) : State :=
  if brCap n 2 s then (s.satInc F.BR_ERRCNT_FAST_CNT n).setF F.BR_STATUS_STATE n 7 else trainFull n s

/-- BRIDGE_TRAIN_START: CDn, on its way from OFF to ON, is released from reset. -/
def execBridgeTrainStart (n : Nat) (s : State) : Out :=
  let coming : Bool := match smapGet (fun _ => none) s.dieTrans n with
    | some t => t.kind == 2
    | none => false
  .next (if s.f F.BR_STATUS_STATE n = 0 ∧ coming then trainFull n s else s)

/-- A write of BR_CTRL(n). A RETRAIN bit acts in ACTIVE and DOWN only (R317); the full one goes before the fast. -/
def brCtrlWrite (n : Nat) (v : Word) (s : State) : State :=
  let s := s.wr .BR_CTRL n v
  let st := s.f F.BR_STATUS_STATE n
  if st ≠ 0 ∧ st ≠ 6 then s
  else if vset F.BR_CTRL_RETRAIN_FULL v then trainFull n s
  else if vset F.BR_CTRL_RETRAIN_FAST v then (if st = 6 then trainFast n s else trainFull n s)
  else s

/-- RETRAIN_FULL. -/
def execRetrainFull (a : Access) (n : Nat) (v : Word) (s : State) : Out :=
  .next (guarded a true .BR_CTRL n (brCtrlWrite n (fset F.BR_CTRL_RETRAIN_FULL v 1)) s)

/-- RETRAIN_FAST. -/
def execRetrainFast (a : Access) (n : Nat) (v : Word) (s : State) : Out :=
  .next (guarded a true .BR_CTRL n
    (brCtrlWrite n (fset F.BR_CTRL_RETRAIN_FAST (fset F.BR_CTRL_RETRAIN_FULL v 0) 1)) s)

/-- The lanes of the clock groups of a mask. -/
def groupLanes (m : Nat) : Nat :=
  (List.range 4).foldl (fun x k => if m.testBit k then x ||| ((2 ^ 34 - 1) * 2 ^ (34 * k)) else x) 0

/-- CLOCK_LOCK: down and up name the main clock groups that failed on both lanes, and the flags the sideband groups
(R314). -/
def execClockLock (n down up : Nat) (sbDown sbUp : Bool) (s : State) : Out :=
  if s.f F.BR_STATUS_STATE n ≠ 1 then .next s
  else if sbDown || sbUp then .next (bridgeLost n 3 s)
  else
    let m : LaneMask := { md := groupLanes down, mu := groupLanes up }
    let b := s.br n
    .next (bridgeGo n 2 (lanesFound n m (s.setBr n { b with iod := laneOr b.iod m, die := laneOr b.die m })))

/-- The lanes in error as each end receives them: down at the die end, up at the IOD end. -/
def addErrors (bad : LaneMask) (b : Bridge) : Bridge :=
  { b with iod := laneOr b.iod { mu := bad.mu, su := bad.su }, die := laneOr b.die { md := bad.md, sd := bad.sd } }

/-- LANE_TEST_DONE: the lanes found in error. -/
def execLaneTestDone (n : Nat) (bad : LaneMask) (s : State) : Out :=
  if s.f F.BR_STATUS_STATE n ≠ 2 then .next s
  else
    let s := lanesFound n bad (s.setBr n (addErrors bad (s.br n)))
    .next (bridgeGo n 3 (s.setF F.BR_STATUS_ROUNDS n (s.f F.BR_STATUS_ROUNDS n + 1)))

/-- A set of masks does not leave 128 good main lanes in both directions. -/
def needsHalf (m : LaneMask) : Bool := decide (laneGood m 0 < 128) || decide (laneGood m 1 < 128)

/-- The agreed map and width, and ALIGN. -/
def agree (n : Nat) (m : LaneMask) (half : Bool) (s : State) : State :=
  let b := s.br n
  let s := setLmap n m (s.setBr n { b with iod := m, die := m, iodHalf := half, dieHalf := half })
  halfConflict n ((s.setF F.BR_STATUS_WIDTH n (if half then 1 else 2)).setF F.BR_STATUS_STATE n 4)

/-- PROPOSAL_EXCHANGE. -/
def execProposalExchange (n : Nat) (s : State) : Out :=
  if s.f F.BR_STATUS_STATE n ≠ 3 then .next s
  else
    let b := s.br n
    let ih := b.iodHalf || needsHalf b.iod || s.b F.BR_CTRL_FORCE_HALF n
    let dh := b.dieHalf || needsHalf b.die
    if b.iod = b.die ∧ ih = dh then .next (agree n b.iod ih s)
    else if s.f F.BR_STATUS_ROUNDS n < 3 then
      let u := laneOr b.iod b.die
      let s := s.setBr n { b with iod := u, die := u, iodHalf := ih || dh, dieHalf := ih || dh }
      .next (bridgeGo n 2 s)
    else
      let s := s.setBr n { b with fallTb := some s.tb }
      .next (agree n b.iod true (s.setB F.BR_STATUS_DISAGREE n true))

/-- ALIGN_DONE: DOWN_LAT and SKEW as measured; with LMARG enabled the weak lanes are marked failed (R321). -/
def execAlignDone (n lat skew : Nat) (weak : LaneMask) (s : State) : Out :=
  if s.f F.BR_STATUS_STATE n ≠ 4 then .next s
  else
    let s := (s.setF F.BR_LAT_DOWN_LAT n lat).setF F.BR_LAT_SKEW n skew
    if !brCap n 4 s then .next (s.setF F.BR_STATUS_STATE n 5)
    else
      let m := laneOr (s.br n).iod weak
      let half := halfWidth n s || needsHalf m
      .next (bridgeGo n 5 (agree n m half (lanesFound n weak s)))

/-- The capability vector of a die revision (R322). A revision that is not in the table sends a vector that the spec does
not give. -/
def capOfRev (rev : Nat) (s : State) : Nat :=
  match rev with
  | 1 => 0x03
  | 2 => 0x0F
  | 3 => 0x1F
  | _ => s.freeWord.toNat % 256

/-- The bits that an IOD revision requires (R322). -/
def capRequired (iod : Nat) : Option Nat := if iod = 1 then some 0x03 else if iod = 2 then some 0x07 else none

/-- The routers of CDn take the IOD's current epoch, as the first frames after ACTIVE carry it (R306, R316, R318). -/
def epochTaken (n : Nat) (s : State) : State := { s with epochLag := s.epochLag.filter (· != n) }

/-- CAPABILITY_EXCHANGE: ACTIVE with the intersection enabled, every home agent no longer treating CDn as absent (R533); or
DOWN, the pairing not being permitted. -/
def execCapabilityExchange (n : Nat) (s : State) : Out :=
  if s.f F.BR_STATUS_STATE n ≠ 5 then .next s
  else
    let rev := (Config.dieRev n).toNat
    let cap := capOfRev rev s
    let s := ((s.setF F.BR_CAP_DREV n rev).setF F.BR_CAP_DIE_CAP n cap).bump
    let both := s.f F.BR_CAP_IOD_CAP n &&& cap
    let known : Bool := decide (1 ≤ rev) && decide (rev ≤ 3)
    let ok : Bool := match capRequired (s.f F.BR_CAP_IOD_REV n) with
      | some req => known && both &&& req == req
      | none => false
    if ok then
      let s := epochTaken n ((s.setF F.BR_CAP_ENABLED n both).setF F.BR_STATUS_STATE n 6)
      .next (iter 16 (fun k t => t.setFbit F.HA_DIE_STATE_ABSENT k n false) s)
    else .next (bridgeDown n 4 (s.setB F.BR_STATUS_NOT_PERMITTED n true))

/-- Flits wait for an acknowledgement in a direction. -/
def Link.unacked (l : Link) : Bool := l.sent != l.acked

/-- FAST_RETRAIN_DONE: back to ACTIVE with a replay in each direction that has unacknowledged flits, or to PROPOSE on a new
failed lane. -/
def execFastRetrainDone (n : Nat) (bad : LaneMask) (s : State) : Out :=
  if s.f F.BR_STATUS_STATE n ≠ 7 then .next s
  else
    let b := s.br n
    let new := laneMinus bad (laneOr b.iod b.die)
    if new = {} then
      let k := (if b.up.unacked then 1 else 0) + (if b.down.unacked then 1 else 0)
      let s := s.setBr n { b with up := { b.up with skip := false, naks := 0 },
                                  down := { b.down with skip := false, naks := 0 } }
      .next (epochTaken n ((s.satAdd F.BR_ERRCNT_REPLAY n k).setF F.BR_STATUS_STATE n 6))
    else
      let s := lanesFound n new (s.setBr n (addErrors new b))
      .next (bridgeGo n 3 (s.setF F.BR_STATUS_ROUNDS n 1))

/-! ## Frames and replay (R307 to R310) -/

/-- A receiver gives up on a SEQ (R310): a retrain, or DOWN within 1 s of a fallback. -/
def linkGivesUp (n : Nat) (s : State) : State :=
  match (s.br n).fallTb with
  | some t =>
    if (s.tb - t).toNat < tbSecond then bridgeLost n 5 (s.setB F.BR_STATUS_UNSTABLE n true) else trainFast n s
  | none => trainFast n s

/-- One direction of a bridge. -/
def Bridge.link (b : Bridge) (up : Bool) : Link := if up then b.up else b.down

/-- The same changed. -/
def Bridge.setLink (b : Bridge) (up : Bool) (l : Link) : Bridge := if up then { b with up := l } else { b with down := l }

/-- A frame discarded; nak: with a NAK, which after REPLAY_MAX of them for one SEQ ends in a retrain. -/
def frameDrop (n : Nat) (up nak : Bool) (s : State) : State :=
  let b := s.br n
  let l := b.link up
  let k := l.naks + (if nak then 1 else 0)
  let s := (s.satInc F.BR_ERRCNT_CRC_ERR n).setBr n (b.setLink up { l with skip := true, naks := k })
  if nak && decide (orOne (s.f F.BR_CTRL_REPLAY_MAX n) ≤ k) then linkGivesUp n s else s

/-- BRIDGE_FRAME_RECEIVE: a frame of one direction reaches its receiver. ack: the SEQ up to which it acknowledges the other
direction. A receiver that waits for a replay discards every other frame, and answers a bad one with a further NAK. -/
def execBridgeFrameReceive (n : Nat) (up crcOk : Bool) (ftype seq : Nat) (ack : Option Nat) (s : State) : Out :=
  if s.f F.BR_STATUS_STATE n ≠ 6 then .next s
  else
    let b := s.br n
    let l := b.link up
    let l := if ftype = 0 ∧ (seq + 4096 - l.sent) % 4096 < 2048 then { l with sent := seq % 4096 } else l
    let s := s.setBr n (b.setLink up l)
    let good := crcOk && decide (ftype ≤ 2)
    let flit : Bool := ftype == 0 || ftype == 2
    if !good then .next (frameDrop n up true s)
    else if l.skip && ftype != 2 then .next (frameDrop n up false s)
    else if flit && seq != l.exp then .next (frameDrop n up true s)
    else
      let l := if flit then { l with exp := (seq + 1) % 4096, skip := false, naks := 0 } else l
      let b := (s.br n).setLink up l
      let b := match ack with
        | some k => b.setLink (!up) { b.link (!up) with acked := k % 4096 }
        | none => b
      .next (s.setBr n b)

/-- BRIDGE_NAK: the transmitter of a direction sends again every flit after ACKSEQ (R308). -/
def execBridgeNak (n : Nat) (up : Bool) (ackseq : Nat) (s : State) : Out :=
  if s.f F.BR_STATUS_STATE n ≠ 6 then .next s
  else
    let b := s.br n
    let s := s.setBr n (b.setLink up { b.link up with acked := ackseq % 4096 })
    .next (s.satInc F.BR_ERRCNT_REPLAY n)

/-! ## Message sideband (R311, R312) -/

/-- A message type that R311 lists. -/
def sidebandType (ty : Nat) : Bool :=
  ty == 1 || ty == 2 || ty == 3 || ty == 8 || ty == 9 || ty == 0xA || ty == 0xF

/-- SIDEBAND_MESSAGE: a message arrives. One that fails its CRC is answered with a NAK, and 16 such failures within 1 µs
start a fast retrain; one of an unknown type is discarded. An accepted message is delivered by the command of its own. -/
def execSidebandMessage (n : Nat) (crcOk : Bool) (ty : Nat) (s : State) : Out :=
  if s.f F.BR_STATUS_STATE n ≠ 6 then .next s
  else if !crcOk then
    let s := s.satInc F.BR_ERRCNT_SB_ERR n
    let b := s.br n
    let recent := (b.sbFails.filter fun t => decide ((s.tb - t).toNat ≤ tbMicro)) ++ [s.tb]
    if 16 ≤ recent.length then .next (trainFast n (s.setBr n { b with sbFails := [] }))
    else .next (s.setBr n { b with sbFails := recent })
  else if !sidebandType ty then .next (s.satInc F.BR_ERRCNT_SB_ERR n)
  else .next s

/-- SIDEBAND_NAK: the sender sends the named message once more; until it arrives the message stays undelivered. -/
def execSidebandNak (_n _seq : Nat) (s : State) : Out := .next s

end Sys2Proof.Machine
end

