-- ==== Sys2Proof/Machine/Caches.lean ====
section
/-! DEFINITION. Range operations, way locks and the cache enables (R34, R154 to R165, R170). -/
namespace Sys2Proof.Machine

/-- An access to a register of the CDn space: an error response while the die is not ON, and otherwise the checks of the
register (R34, R35). DESIGN CHOICE: a die in transition, draining towards GATED or OFF or on its way up, answers with the error
too, although R34 names only GATED, OFF and in reset. -/
def guardedCd (n : Nat) (a : Access) (write : Bool) (g : Reg) (i : Nat) (act : State → State) (s : State) : State :=
  if dieOn n s then guarded a write g i act s else s.answerErr 0b10#2

/-! ## Ranges (R158 to R162) -/

/-- The line of a key lies in a command's range and in a world that it may process (R162). -/
def inRun (r : RangeRun) (line : Nat) (w : Bool) : Bool :=
  decide (r.first ≤ line) && decide (line ≤ r.last) && (r.w || !w)

/-! ## A core's arrays -/

/-- The L2 line at key k written into the die's L3 and left valid and clean. -/
def l2Clean (np k : Nat) (s : State) : State :=
  let l := s.l2L k
  if l.st ≠ 3 then s
  else
    let s := match l3Find (np / 20) l.line s with
      | some j => s.setL3 j { s.l3L j with data := l.data, poison := l.poison, st := 4 }
      | none => toSlice np l.line { op := .wbL, w := l.w, data := true, payload := l.data, poison := l.poison } s
    s.setL2 k { l with st := 2 }

/-- The L2 line at key k dropped with the core's L1 copies, whatever the enables; the slice learns by EvL that the core
no longer holds it. -/
def l2Discard (np k : Nat) (s : State) : State :=
  let l := s.l2L k
  if l.st = 0 then s
  else
    let s := loseResv np l.line (replayLine np l.line (l1Drop np l.line (s.setL2 k {})))
    toSlice np l.line { op := .evL, w := l.w } s

/-- Core np's L2 lines that p selects leave it, the dirty ones with WbL (R180). -/
def l2EvictAll (np : Nat) (p : L2Line → Bool) (s : State) : State :=
  (s.l2.filterMap fun (k, l) => if k / 16384 = np ∧ l.st ≠ 0 ∧ p l then some k else none).foldl (fun t k => l2Evict np k t) s

/-- The keys of core np's valid L2 lines that p selects. -/
def l2Select (np : Nat) (p : L2Line → Bool) (s : State) : List Nat :=
  s.l2.filterMap fun (k, l) => if k / 16384 = np ∧ l.st ≠ 0 ∧ p l then some k else none

/-- The lines of a core's L1 arrays in a range are dropped. -/
def l1DropRange (np : Nat) (r : RangeRun) (s : State) : State :=
  let d := s.l1d.flatMap fun (k, t) => if k / 256 = np then
    (List.range 4).filterMap fun b => if inRun r (t.tag * 4 + b) t.w then some (t.tag * 4 + b) else none else []
  let i := s.l1i.filterMap fun (k, t) => if k / 1024 = np ∧ inRun r t.tag t.w then some t.tag else none
  (d ++ i).foldl (fun t line => l1Drop np line t) s

/-- A core's CLEAN, INVAL or CLEAN_INVAL over its arrays, with the number of lines processed. -/
def coreRange (np : Nat) (r : RangeRun) (s : State) : Nat × State :=
  let dirty := l2Select np (fun l => l.st == 3 && inRun r l.line l.w) s
  let s := if r.cmd = 2 then s else dirty.foldl (fun t k => l2Clean np k t) s
  if r.cmd = 1 then (dirty.length, s)
  else
    let ks := l2Select np (fun l => inRun r l.line l.w) s
    (ks.length, l1DropRange np r (ks.foldl (fun t k => l2Discard np k t) s))

/-! ## The die's arrays -/

/-- The keys of CDn's valid L3 lines that p selects. -/
def l3Select (n : Nat) (p : L3Line → Bool) (s : State) : List Nat :=
  s.l3.filterMap fun (k, l) => if l3Die k = n ∧ l.st ≠ 0 ∧ p l then some k else none

/-- A line dropped from a die: every copy goes, dirty data too, and the home agent learns it by EvC. -/
def l3Discard (k : Nat) (s : State) : State :=
  let n := l3Die k
  let l := s.l3L k
  let s := (presCores l.pres).foldl (fun t c => coreStrip (20 * n + c) l.line t) s
  let s := vbPut { die := n, line := l.line, wbm := false, w := l.w, poison := l.poison, data := l.data } (s.setL3 k {})
  toHome n l.line false { op := .evC, w := l.w } s

/-- A line may leave its slice: the victim buffer has room, and no grant of the line is on its way (R188). -/
def mayLeave (n line : Nat) (s : State) : Bool := decide (vbCount n line s < 8) && !l3Waits n line s

/-- The line is dirty on CDn: in its L3, or in an L2 of the die. -/
def dieDirty (n : Nat) (l : L3Line) (s : State) : Bool :=
  l.st == 4 || (l.own != 20 && (match l2Has (20 * n + l.own) l.line s with
    | some j => (s.l2L j).st == 3
    | none => false))

/-- A marker for the requests of the die's engine inside a slice; no core has this number. -/
def engineAgent : Nat := 499

/-- What an engine still awaits: the completions of its CboC, its core's fills, or its die's fills. -/
def engOpen (e : Nat) (r : RangeRun) (s : State) : Nat :=
  if r.cmd ≠ 4 then s.txs.countP fun t => t.own == .range e
  else if e < 240 then s.l2Pend.countP fun q => q.np == e && q.pf == 3 && q.phase == 0
  else s.l3Pend.countP fun q => q.die == e - 240 && q.req.src == engineAgent

/-- The smallest number of a list. -/
def least : List Nat → Option Nat
  | [] => none
  | x :: r => match least r with
    | none => some x
    | some y => some (min x y)

/-! The order of an engine's visits (R159): by address, or set by set where the range holds more lines than the tags of the
array; a set of the die is one of all its slices. -/

/-- Sets of an engine's array. -/
def engSets (e : Nat) : Nat := if e < 240 then 1024 else 2048

/-- The set of a line. -/
def engSet (e line : Nat) : Nat := if e < 240 then line % 1024 else line / 20 % 2048

/-- The engine walks the sets. -/
def walksSets (r : RangeRun) : Bool := decide ((if r.eng < 240 then 16384 else 491520) < r.last + 1 - r.first)

/-- The place of a line in the order of visits. -/
def walkKey (r : RangeRun) (line : Nat) : Nat := if walksSets r then engSet r.eng line * 2 ^ 48 + line else line

/-- The place after the last visit. -/
def walkEnd (r : RangeRun) : Nat := if walksSets r then engSets r.eng * 2 ^ 48 else r.last + 1

/-- The first line from l on that lies in set x. -/
def inSet (e x l : Nat) : Nat :=
  if e < 240 then l + (x + 1024 - l % 1024) % 1024
  else if l / 20 % 2048 = x then l
  else (l / 20 + (x + 2048 - l / 20 % 2048) % 2048) * 20

/-- The next line that an engine visits from its place on. -/
def walkLine (r : RangeRun) : Option Nat :=
  if walkEnd r ≤ r.next then none
  else if !walksSets r then some r.next
  else
    let x := r.next / 2 ^ 48
    let l := inSet r.eng x (max r.first (r.next % 2 ^ 48))
    if l ≤ r.last then some l
    else if x + 1 < engSets r.eng then some (inSet r.eng (x + 1) r.first)
    else none

/-- The engine has visited a line; got: it has processed it. -/
def visited (r : RangeRun) (line : Nat) (got : Bool) : RangeRun :=
  { r with next := walkKey r line + 1, count := r.count + if got then 1 else 0 }

/-- The lines on CDn that a die's command is still to process. -/
def dieTodo (n : Nat) (r : RangeRun) (s : State) : List Nat :=
  (l3Select n (fun l => inRun r l.line l.w && decide (r.next ≤ walkKey r l.line) && (r.cmd != 1 || dieDirty n l s)) s).map
    fun k => (s.l3L k).line

/-- One more line of a die's CLEAN, INVAL or CLEAN_INVAL: a dirty one is cleaned at its home agent by CboC, the others leave
the die once the victim buffer has room. -/
def dieNext (n : Nat) (r : RangeRun) (s : State) : RangeRun × State :=
  match least ((dieTodo n r s).map (walkKey r)) with
  | none => ({ r with next := walkEnd r }, s)
  | some key =>
    let line := key % 2 ^ 48
    if r.cmd = 1 then
      (visited r line true,
        openTx (.range r.eng)
          { op := .cboC, w := r.w, part := r.part, src := sliceAgent n line, dst := 0x100 + mcOf (line * 64), addr := line * 64 } s)
    else match l3Find n line s with
      | some k =>
        if mayLeave n line s then (visited r line true, if r.cmd = 3 then l3Evict k s else l3Discard k s) else (r, s)
      | none => (r, s)

/-- One more line of a PRELOAD: asked for as a load fill into the core's L2, or for the L3 alone. It waits for a line that is
already under way, and for one in the victim buffer. -/
def preloadNext (r : RangeRun) (s : State) : RangeRun × State :=
  match walkLine r with
  | none => ({ r with next := walkEnd r }, s)
  | some line =>
    if r.eng < 240 then
      if (l2Has r.eng line s).isSome then (visited r line true, s)
      else if (l2PendOf r.eng line s).isSome || decide (32 ≤ readsOpen r.eng s) then (r, s)
      else (visited r line true, l2Ask r.eng line .rdS .be r.w r.part false 3 s)
    else
      let n := r.eng - 240
      if (l3Find n line s).isSome then (visited r line true, s)
      else if (vbFind n line s).isSome || l3Waits n line s then (r, s)
      else (visited r line true, askHome n line .getS { op := .rdS, w := r.w, part := r.part, src := engineAgent, addr := line * 64 } s)

/-- A command goes on while it has lines left: a CLEAN or PRELOAD with at most 16 outstanding. -/
def rangeGo (e : Nat) (s : State) : State :=
  let fuel := match s.ranges.find? fun r => r.eng == e with
    | some r => if r.cmd = 2 ∨ r.cmd = 3 then (dieTodo (e - 240) r s).length + 1 else 16
    | none => 0
  iter fuel (fun _ t =>
    match t.ranges.find? fun r => r.eng == e with
    | none => t
    | some r =>
      if walkEnd r ≤ r.next ∨ 16 ≤ engOpen e r t then t
      else
        let (r', u) := if r.cmd = 4 then preloadNext r t else dieNext (e - 240) r t
        { u with ranges := u.ranges.map fun x => if x.eng = e then r' else x }) s

/-- A range command written: ignored with ERR = BUSY while one runs, not started with LIMIT below BASE, and otherwise
begun (R158 to R162). A core's CLEAN, INVAL and CLEAN_INVAL visit every line at once. -/
def rangeStart (a : Access) (e cmd : Nat) (s : State) : State :=
  let n := e - 240
  let base := if e < 240 then s.f F.CD_CORE_RANGE_BASE_VAL e else s.f F.CD_L3_RANGE_BASE_VAL n
  let limit := if e < 240 then s.f F.CD_CORE_RANGE_LIMIT_VAL e else s.f F.CD_L3_RANGE_LIMIT_VAL n
  if cmd = 0 ∨ 4 < cmd then s
  else if rsBusy e s = 1 then rsSetErr e 1 s
  else if limit < base then rsSetErr e 3 s
  else
    let s := rsSetLines e 0 (rsSetErr e 0 (rsSetDone e 0 (rsSetBusy e 1 s)))
    let r : RangeRun := { eng := e, cmd := cmd, w := a.world, part := a.part, first := base, last := limit, next := base }
    if cmd = 4 ∨ 240 ≤ e then rangeGo e { s with ranges := s.ranges ++ [r] }
    else
      let (c, s) := coreRange e r s
      { s with ranges := s.ranges ++ [{ r with count := c, next := walkEnd r }] }

/-- RANGE_COMMAND_DONE: a command with lines left goes on; one whose last line is complete sets DONE and LINES. -/
def rangeFinish (e : Nat) (s : State) : State :=
  let s := rangeGo e s
  match s.ranges.find? fun r => r.eng == e with
  | none => s
  | some r =>
    if r.next < walkEnd r ∨ 0 < engOpen e r s then s
    else
      let s := { s with ranges := s.ranges.filter fun x => x.eng != e }
      rsSetLines e r.count (rsSetDone e 1 (rsSetBusy e 0 s))

/-- The write of a command register. -/
def rangeCmd (a : Access) (e cmd : Nat) (s : State) : State :=
  if e < 240 then guardedCd (e / 20) a true .CD_CORE_RANGE_CMD e (rangeStart a e cmd) s
  else guardedCd (e - 240) a true .CD_L3_RANGE_CMD (e - 240) (rangeStart a e cmd) s

/-- RANGE_CLEAN. -/
def execRangeClean (a : Access) (eng : Nat) (s : State) : Out := .next (rangeCmd a eng 1 s)
/-- RANGE_INVAL. -/
def execRangeInval (a : Access) (eng : Nat) (s : State) : Out := .next (rangeCmd a eng 2 s)
/-- RANGE_CLEAN_INVAL. -/
def execRangeCleanInval (a : Access) (eng : Nat) (s : State) : Out := .next (rangeCmd a eng 3 s)
/-- RANGE_PRELOAD. -/
def execRangePreload (a : Access) (eng : Nat) (s : State) : Out := .next (rangeCmd a eng 4 s)
/-- RANGE_COMMAND_DONE. -/
def execRangeCommandDone (eng : Nat) (s : State) : Out := .next (rangeFinish eng s)

/-! ## Locks (R155) -/

/-- Two enabled ranges overlap in address or share a way. -/
def locksClash (x y : Word) : Bool :=
  let bx := bits x 47 16 * 65536
  let b := bits y 47 16 * 65536
  (decide (bx < b + 2 ^ bits y 57 52) && decide (b < bx + 2 ^ bits x 57 52)) || (bits x 15 0 &&& bits y 15 0) != 0

/-- The number of ways in a mask. -/
def wayCount (m : Nat) : Nat := (List.range 16).countP fun w => m.testBit w

/-- A lock value refused: its SIZE or BASE, whatever EN; and with EN, beside the other enabled ranges. extra holds the ways
that count as locked besides. -/
def lockBad (v : Word) (others : List Word) (limit extra : Nat) : Bool :=
  let size := bits v 57 52
  decide (size < 16) || decide (36 < size) || decide (bits v 47 16 * 65536 % 2 ^ size ≠ 0) ||
    (bit v 63 && ((others.any fun y => bit y 63 && locksClash v y) ||
      decide (limit < wayCount ((others.foldl (fun m y => if bit y 63 then m ||| bits y 15 0 else m) (bits v 15 0)) ||| extra))))

/-- A lock register written, or refused with CFGERR. -/
def lockWrite (isL3 : Bool) (idx : Nat) (v : Word) (s : State) : State :=
  if isL3 then
    let n := idx / 4
    let others := ((List.range 4).filter (· != idx % 4)).map fun k => s.r .CD_L3_LOCK (n * 4 + k)
    let dis := (List.range 20).foldl (fun m x => m ||| s.f F.CD_L3_WAYDIS_WAYDIS (n * 20 + x)) 0
    let v := v &&& 0x83F0FFFFFFFF0FFF#64
    if lockBad v others 10 dis then s.setB F.CD_L3_RANGE_STATUS_CFGERR n true else s.setR .CD_L3_LOCK idx v
  else
    let np := idx / 2
    let v := v &&& 0x83F0FFFFFFFFFFFF#64
    if lockBad v [s.r .CD_CORE_L2_LOCK (np * 2 + (1 - idx % 2))] 12 0 then s.setB F.CD_CORE_RANGE_STATUS_CFGERR np true
    else s.setR .CD_CORE_L2_LOCK idx v

/-- LOCK_RANGE_WRITE. -/
def execLockRangeWrite (a : Access) (isL3 : Bool) (idx : Nat) (v : Word) (s : State) : Out :=
  .next (if isL3 then guardedCd (idx / 4) a true .CD_L3_LOCK idx (lockWrite true idx v) s
    else guardedCd (idx / 40) a true .CD_CORE_L2_LOCK idx (lockWrite false idx v) s)

/-! ## Enables (R163, R164) -/

/-- A write of CD_CORE_CACHE_CTRL: L1 enables follow L2_EN; an L2 that is turned off writes its dirty lines into the L3. -/
def cacheCtrlWrite (np : Nat) (v : Word) (s : State) : State :=
  let was := l2On np s
  let on := bit v 2
  let s := s.setB F.CD_CORE_CACHE_CTRL_STREAM_OLD np (bit v 3)
  let s := if was && !on then
      let s := (l2Select np (fun l => l.st == 3) s).foldl (fun t k => l2Clean np k t) s
      let s := match hartOn np s with
        | some h => s.onHart h fun t => { t with resv := none }
        | none => s
      s.setB F.CD_CORE_CACHE_CTRL_L2_DRAINING np true
    else s
  ((s.setB F.CD_CORE_CACHE_CTRL_L2_EN np on).setB F.CD_CORE_CACHE_CTRL_L1D_EN np (on && bit v 1)).setB
    F.CD_CORE_CACHE_CTRL_L1I_EN np (on && bit v 0)

/-- The end of the drain: the L3 clears the core's presence bits. -/
def l2Drained (np : Nat) (s : State) : State :=
  if !s.b F.CD_CORE_CACHE_CTRL_L2_DRAINING np then s
  else
    let n := np / 20
    let c := np % 20
    let ks := l3Select n (fun l => l.pres.testBit c) s
    let s := ks.foldl (fun t k =>
      let l := t.l3L k
      t.setL3 k { l with pres := clrBit l.pres c, own := if l.own = c then 20 else l.own }) s
    let s := s.setB F.CD_CORE_CACHE_CTRL_L2_DRAINING np false
    (ks.map fun k => (s.l3L k).line).foldl (fun t line => slicePump n line t) s

/-- CACHE_DISABLE: a write that leaves some enable 0. -/
def execCacheDisable (a : Access) (np : Nat) (v : Word) (s : State) : Out :=
  .next (guardedCd (np / 20) a true .CD_CORE_CACHE_CTRL np (cacheCtrlWrite np v) s)

/-- L2_DRAIN_COMPLETE. -/
def execL2DrainComplete (np : Nat) (s : State) : Out := .next (l2Drained np s)

/-- CACHE_ENABLE: a write that sets an enable; the arrays keep what they hold. -/
def execCacheEnable (a : Access) (np : Nat) (v : Word) (s : State) : Out :=
  .next (guardedCd (np / 20) a true .CD_CORE_CACHE_CTRL np (cacheCtrlWrite np v) s)

end Sys2Proof.Machine
end

