-- ==== Sys2Proof/Machine/Coherence.lean ====
section
/-! DEFINITION. The packets of the coherence protocol as they reach the cores, the slices and the home agents (R178 to
R196, R269). A delivered packet leaves the packets in flight. -/
namespace Sys2Proof.Machine

/-! ## From a core to its slice, and back (R180) -/

/-- A request of a core reaches the slice of its line. -/
def coreRequest (p : Packet) (s : State) : State := if p.src < 240 then sliceArrive (p.src / 20) p s else s

/-- RDS. -/
def execRdS (p : Packet) (s : State) : Out := .next (coreRequest { p with op := .rdS } s)
/-- RDX. -/
def execRdX (p : Packet) (s : State) : Out := .next (coreRequest { p with op := .rdX } s)
/-- UPG_L3. -/
def execUpgL3 (p : Packet) (s : State) : Out := .next (coreRequest { p with op := .upgL3 } s)
/-- RDONCE. -/
def execRdOnce (p : Packet) (s : State) : Out := .next (coreRequest { p with op := .rdOnce } s)
/-- WRPART. -/
def execWrPart (p : Packet) (s : State) : Out := .next (coreRequest { p with op := .wrPart } s)

/-- WbL or EvL reaches the slice: the core has left the line. -/
def coreGone (p : Packet) (d : Option (Line × BitVec 2)) (s : State) : State :=
  if s.behind p then s else coreLeaves p.src (p.addr / 64) d (s.take (.pkt p))

/-- WBL: the dirty line of a core's L2 goes into the L3. -/
def execWbL (p : Packet) (s : State) : Out :=
  .next (coreGone { p with op := .wbL } (some (p.payload, p.poison)) s)

/-- EVL: a core drops a clean line. -/
def execEvL (p : Packet) (s : State) : Out :=
  .next (coreGone { p with op := .evL } none s)

/-- SNPL. -/
def execSnpL (p : Packet) (s : State) : Out := .next (coreSnoop { p with op := .snpL } false s)
/-- SNPLX. -/
def execSnpLX (p : Packet) (s : State) : Out := .next (coreSnoop { p with op := .snpLX } true s)
/-- INVL. -/
def execInvL (p : Packet) (s : State) : Out := .next (coreInvL { p with op := .invL } s)

/-- TENURE_END. -/
def execTenureEnd (np line : Nat) (s : State) : Out := .next (tenureEnds np line s)

/-! ## Requests at the home agent (R182 to R185) -/

/-- GETS. more: another request arrives in the same FAB cycle; ue: the line's directory entry is uncorrectable. -/
def execGetS (p : Packet) (more ue : Bool) (s : State) : Out := .next (haRequest { p with op := .getS } more ue s)
/-- GETX. -/
def execGetX (p : Packet) (more ue : Bool) (s : State) : Out := .next (haRequest { p with op := .getX } more ue s)
/-- UPG_HA. -/
def execUpgHA (p : Packet) (more ue : Bool) (s : State) : Out := .next (haRequest { p with op := .upgHA } more ue s)
/-- GETXZ. -/
def execGetXZ (p : Packet) (more ue : Bool) (s : State) : Out := .next (haRequest { p with op := .getXZ } more ue s)
/-- CBOC. -/
def execCboC (p : Packet) (more ue : Bool) (s : State) : Out := .next (haRequest { p with op := .cboC } more ue s)
/-- CBOF. -/
def execCboF (p : Packet) (more ue : Bool) (s : State) : Out := .next (haRequest { p with op := .cboF } more ue s)
/-- ATMH. -/
def execAtmH (p : Packet) (more ue : Bool) (s : State) : Out := .next (haRequest { p with op := .atmH } more ue s)
/-- RDNC. -/
def execRdNC (p : Packet) (more ue : Bool) (s : State) : Out := .next (haRequest { p with op := .rdNC } more ue s)
/-- WRNC. -/
def execWrNC (p : Packet) (more ue : Bool) (s : State) : Out := .next (haRequest { p with op := .wrNC } more ue s)
/-- WBM. -/
def execWbM (p : Packet) (s : State) : Out := .next (haWbM { p with op := .wbM } s)
/-- EVC. -/
def execEvC (p : Packet) (s : State) : Out := .next (haEvC { p with op := .evC } s)

/-! ## Snoops at a die, and their answers (R181, R182) -/

/-- A snoop of a home agent reaches a slice. -/
def dieSnoop (p : Packet) (s : State) : State := if p.dst < 240 then sliceArrive (p.dst / 20) p s else s

/-- SNPS. -/
def execSnpS (p : Packet) (s : State) : Out := .next (dieSnoop { p with op := .snpS } s)
/-- SNPX. -/
def execSnpX (p : Packet) (s : State) : Out := .next (dieSnoop { p with op := .snpX } s)
/-- SNPC. -/
def execSnpC (p : Packet) (s : State) : Out := .next (dieSnoop { p with op := .snpC } s)
/-- INV. -/
def execInv (p : Packet) (s : State) : Out := .next (dieSnoop { p with op := .inv } s)
/-- RCL. -/
def execRcl (p : Packet) (s : State) : Out := .next (dieSnoop { p with op := .rcl } s)

/-- RSPI: the die no longer holds the line. -/
def execRspI (p : Packet) (s : State) : Out :=
  .next (haResponse { p with op := .rspI } (fun t s => ({ t with gone := true }, s)) s)

/-- RSPS: the die holds the line in S. -/
def execRspS (p : Packet) (s : State) : Out := .next (haResponse { p with op := .rspS } (fun t s => (t, s)) s)

/-- RSPFWDS: the data went to the requester; a die that was in M sends it to memory as well. -/
def execRspFwdS (p : Packet) (s : State) : Out :=
  .next (haResponse { p with op := .rspFwdS } (fun t s =>
    ({ t with fwd := true }, match pktLine p with
      | some (d, po) => mcWrite t.line d po s
      | none => s)) s)

/-- RSPFWDI: the data went to the requester, and the die dropped the line. -/
def execRspFwdI (p : Packet) (s : State) : Out :=
  .next (haResponse { p with op := .rspFwdI } (fun t s => ({ t with fwd := true }, s)) s)

/-- RSPRCLD: the data of a recalled line. -/
def execRspRclD (p : Packet) (s : State) : Out :=
  .next (haResponse { p with op := .rspRclD } (fun t s => ({ t with data := pktLine p, gone := true }, s)) s)

/-- WBC: the data of a line that the die keeps in E. -/
def execWbC (p : Packet) (s : State) : Out :=
  .next (haResponse { p with op := .wbC } (fun t s => ({ t with data := pktLine p }, s)) s)

/-- RSPWBP. -/
def execRspWbP (p : Packet) (s : State) : Out := .next (haWbP { p with op := .rspWbP } s)

/-! ## Grants and acknowledgements (R181) -/

/-- FWDDATA. -/
def execFwdData (p : Packet) (s : State) : Out := .next (dieSnoop { p with op := .fwdData } s)
/-- DATAE. -/
def execDataE (p : Packet) (s : State) : Out := .next (dieSnoop { p with op := .dataE } s)
/-- DATAF. -/
def execDataF (p : Packet) (s : State) : Out := .next (dieSnoop { p with op := .dataF } s)
/-- GNTX. -/
def execGntX (p : Packet) (s : State) : Out := .next (dieSnoop { p with op := .gntX } s)

/-- WBACK. -/
def execWbAck (p : Packet) (s : State) : Out := .next (vbRelease { p with op := .wbAck } s)
/-- EVACK. -/
def execEvAck (p : Packet) (s : State) : Out := .next (vbRelease { p with op := .evAck } s)
/-- CMPACK. -/
def execCmpAck (p : Packet) (s : State) : Out := .next (haCmpAck { p with op := .cmpAck } s)

/-! ## Other -/

/-- PACKET_UNKNOWN_OPCODE: discarded and counted, and nothing is returned (R269). -/
def execPacketUnknownOpcode (p : Packet) (s : State) : Out :=
  .next ((s.take (.pkt p)).satInc F.FAB_STATUS_BADPKT 0)

/-- DIE_LOST (R196, R212). -/
def execDieLost (n : Nat) (s : State) : Out := .next (dieLoss n false s)

end Sys2Proof.Machine
end

