-- ==== Sys2Proof/Machine/Instructions.lean ====
section
/-! DEFINITION. Instructions that access memory, fences, waits, returns and traps (R98 to R112, R123 to R141, R189 to R191,
R199 to R211, R374 to R384). An instruction whose hart cannot execute it at this point changes nothing: its core is not in
RUN, its pc is elsewhere, or what it must wait for (older loads, the store buffer) is not complete. -/
namespace Sys2Proof.Machine

/-! ## Address checks -/

/-- A page-table walk of a hart refused at one of its reads: by the world check, with the rule of R374 for Secure walks,
or by the partition check. -/
def walkRefused (w : Bool) (part : Nat) (walks : List Nat) (s : State) : Option (Bool × Nat) :=
  (walks.filterMap fun a =>
    let tw := dramWorld a s
    if inDram a s ∧ ((!w && tw) || (w && !tw && !s.b F.WC_CTRL_SWALK_OPEN 0)) then some (true, a)
    else if inDram a s ∧ !dramPartOk part a s then some (false, a)
    else none).head?

/-- What an access does, as its checks tell apart: a load, a store or atomic, or a CBO that needs neither the one right nor
the other alone. -/
inductive AccKind where
  | load | store | block
  deriving DecidableEq, Repr

/-- The address-misaligned exception of a kind. -/
def AccKind.mis (k : AccKind) : Nat := if k = .load then 4 else 6

/-- The access fault of a kind. -/
def AccKind.deny (k : AccKind) : Nat := if k = .load then 5 else 7

/-- The privilege and V of a hart's loads and stores: those of its mode, or with MPRV those that mstatus holds (the published
privileged rules). -/
def Hart.accMode (t : Hart) : Nat × Bool :=
  let ms := t.c CSR.mstatus
  if t.priv = 3 ∧ bit ms 17 then (bits ms 12 11, bit ms 39 && bits ms 12 11 != 3) else (t.priv, t.virt)

/-- Loads and stores are not translated: M-mode, or every stage of the mode Bare (R603). -/
def Hart.bare (t : Hart) : Bool :=
  let (p, v) := t.accMode
  p == 3 || (if v then bits (t.c 0x280) 63 60 == 0 && bits (t.c 0x680) 63 60 == 0 else bits (t.c 0x180) 63 60 == 0)

/-- The configuration byte of PMP entry i. -/
def Hart.pmpCfg (t : Hart) (i : Nat) : Nat := bits (t.c (0x3A0 + i / 8 * 2)) (8 * (i % 8) + 7) (8 * (i % 8))

/-- PMP entry i matches an address: at a granularity of 4 KiB (R96), by the published rules for TOR and NAPOT. -/
def Hart.pmpHas (t : Hart) (i a : Nat) : Bool :=
  let reg (k : Nat) : Nat := (t.c (0x3B0 + k)).toNat
  match t.pmpCfg i / 8 % 4 with
  | 1 => decide ((if i = 0 then 0 else reg (i - 1) / 1024) ≤ a / 4096) && decide (a / 4096 < reg i / 1024)
  | 3 =>
    let x := reg i ||| 0x1FF
    let low := x ^^^ (x + 1)
    (x ||| low) == (a / 4 ||| low)
  | _ => false

/-- The PMP check of one address for a mode: the lowest entry that matches decides, an entry that is not locked does not
bind M-mode, and without a match only M-mode passes (R96, R101, by the published rules). -/
def pmpOk (t : Hart) (priv : Nat) (k : AccKind) (a : Nat) : Bool :=
  match (List.range 16).find? fun i => t.pmpHas i a with
  | none => priv == 3
  | some i =>
    let c := t.pmpCfg i
    let r := c.testBit 0
    let w := c.testBit 1
    (priv == 3 && !c.testBit 7) || (match k with
      | .load => r
      | .store => w
      | .block => r || w)

/-- A translation's outcome for a hart: its address and PBMT, or a cause with the state in which a refused walk is
recorded. Without translation the address is the virtual one, with the attributes of its range, and one that has more than
48 bits takes the access fault (R603). The PMP check covers the address and every read of the walks (R101). -/
def xlated (h : Nat) (k : AccKind) (va : Word) (x : Xlate) (s : State) : Except (Nat × State) (Nat × Nat) :=
  let t := s.hart h
  let priv := t.accMode.1
  if t.bare then
    if decide (va.toNat < 2 ^ 48) && pmpOk t priv k va.toNat then .ok (va.toNat, 0) else .error (k.deny, s)
  else match x with
  | .fault c _ => .error (c, s)
  | .ok pa pbmt walks =>
    match walkRefused t.w (txPart h s) walks s with
    | some (world, a) => .error (k.deny, cacheDeny world .walk t.w (txPart h s) (coreOf h s) a s)
    | none =>
      if (walks.all fun a => pmpOk t 1 .load a) && pmpOk t priv k pa then .ok (pa, pbmt) else .error (k.deny, s)

/-- An access of an instruction checked (R98, R603): its parts in physical memory, or the cause of its fault. A misaligned
one faults in memory with PBMT NC or IO and in an I/O region. -/
def accCheck (h : Nat) (k : AccKind) (a : MemAcc) (s : State) : Except (Nat × State) LAcc :=
  match xlated h k a.va a.x s with
  | .error e => .error e
  | .ok (pa, pbmt) =>
    let odd := decide (a.va.toNat % a.size ≠ 0)
    let strict (p b : Nat) : Bool := inIo p || b != 0
    if odd && strict pa pbmt then .error (k.mis, s)
    else if a.va.toNat % 4096 + a.size ≤ 4096 then .ok { va := a.va, pa := pa, size := a.size, pbmt := pbmt }
    else
      let next := a.va + BitVec.ofNat 64 (4096 - a.va.toNat % 4096)
      match xlated h k next (a.x2.getD (.fault k.deny 0)) s with
      | .error e => .error e
      | .ok (pb, pbmt2) =>
        if strict pb pbmt2 then .error (k.mis, s)
        else .ok { va := a.va, pa := pa, size := a.size, pbmt := pbmt, pa2 := some (pb / 4096 * 4096) }

/-- The address of the part of an access that faults with cause c: that on the next page where the first part passes. -/
def faultAt (h : Nat) (k : AccKind) (a : MemAcc) (c : Nat) (s : State) : Word :=
  match xlated h k a.va a.x s with
  | .ok _ => if c = k.mis then a.va else a.va + BitVec.ofNat 64 (4096 - a.va.toNat % 4096)
  | .error _ => a.va

/-- Accesses checked in order: those before the first that faults, and that fault with its address. -/
def accsCheck (h : Nat) (k : AccKind) : List MemAcc → State → List LAcc × Option (Nat × Word) × State
  | [], s => ([], none, s)
  | a :: r, s =>
    match accCheck h k a s with
    | .error (c, t) => ([], some (c, faultAt h k a c s), t)
    | .ok x =>
      let (xs, f, s) := accsCheck h k r s
      (x :: xs, f, s)

/-! ## Loads (R98, R203 to R206, R258) -/

/-- A load joins the pending loads of its hart and goes as far as it can. -/
def loadStart (i : Issue) (dst : LoadDst) (accs : List LAcc) (after : Option (Nat × Word)) (stream : Bool) (s : State) :
    State :=
  let h := i.hart
  let t := s.hart h
  let l : PLoad := { id := t.nextId, pc := i.pc, dst := dst, accs := accs, part := txPart h s, v := t.virt, w := t.w,
                     cls := i.cls, stream := stream, after := after }
  loadsPump h (s.setHart h { t.moved i.len with loads := t.loads ++ [l], nextId := t.nextId + 1 })

/-- Elements 2i and 2i + 1 of 8 bytes in a 16-byte aligned block of PMA memory (R214). -/
def vPair (a b : LAcc) (x y : Nat × Nat) (s : State) : Bool :=
  a.size == 8 && b.size == 8 && a.pbmt == 0 && b.pbmt == 0 && inDram a.pa s && a.va.toNat % 16 == 0 && b.va == a.va + 8 &&
    x.1 == y.1 && x.2 % 2 == 0 && y.2 == x.2 + 1

/-- The accesses of a vector load with each such pair as one access of 16 bytes (R214). -/
def vPairs (s : State) : List LAcc → List (Nat × Nat) → List LAcc × List (Nat × Nat)
  | a :: b :: r, x :: y :: es =>
    if vPair a b x y s then
      let (l, m) := vPairs s r es
      ({ a with size := 16 } :: l, (x.1, x.2 / 2) :: m)
    else
      let (l, m) := vPairs s (b :: r) (y :: es)
      (a :: l, x :: m)
  | l, m => (l, m)

/-- LOAD. A vector unit-stride load with LMUL 4 or 8 is a streaming one (R152). -/
def execLoad (i : Issue) (dst : LoadDst) (accs : List MemAcc) (lmul : Nat) (ce : Option CacheErr) (s : State) : Out :=
  if !canIssue i s then .next s
  else
    let (xs, f, s) := accsCheck i.hart .load accs s
    let s := match ce, xs with
      | some e, x :: _ => if inDram x.pa s && x.pbmt == 0 then cacheError (coreOf i.hart s) (x.pa / 64) e s else s
      | _, _ => s
    let (dst, xs) := match dst with
      | .v es => let (l, m) := vPairs s xs es; (LoadDst.v m, l)
      | d => (d, xs)
    .next (loadStart i dst xs f (decide (4 ≤ lmul)) s)

/-! ## Xzdtime availability (R113 to R115) -/

/-- The exception of R113, R114 or R115 that an Xzdtime instruction raises first, if any. zeros are the bits of its
encoding that must be 0; bad is any further condition of R114. -/
def xtFault (i : Issue) (zeros : BitVec 32) (bad replica : Bool) (s : State) : Option Nat :=
  let t := s.hart i.hart
  let cfg := t.c CSR.mzdcfg
  if t.priv < 3 ∧ !bit cfg 2 then some 2
  else if t.priv < 3 ∧ t.virt ∧ !bit cfg 3 then some 22
  else if i.enc &&& zeros ≠ 0 ∨ bad then some 2
  else if replica ∧ !replicaValid (hartDie i.hart s) s then some 25
  else none

/-- An exception whose xtval is the instruction's encoding (R107). -/
def raiseEnc (i : Issue) (cause : Nat) (s : State) : State := raise i cause (BitVec.ofNat 64 i.enc.toNat) s

/-- An Xzdtime instruction: nothing while it must wait, its exception, or act. -/
def xtRun (i : Issue) (ready : Bool) (zeros : BitVec 32) (bad replica : Bool) (act : State → State) (s : State) : State :=
  if !ready then s
  else match xtFault i zeros bad replica s with
    | some c => raiseEnc i c s
    | none => act s

/-- LD.PAIR: 16 aligned bytes into an even register pair, in one access (R141). -/
def ldPairDo (i : Issue) (acc : MemAcc) (s : State) : State :=
  let fail (c : Nat) (s : State) : State := loadStart i (.pair i.rd) [] (some (c, acc.va)) false s
  if acc.va.toNat % 16 ≠ 0 then fail 4 s
  else match accCheck i.hart .load acc s with
    | .error (c, s) => fail c s
    | .ok x => if x.pbmt = 2 ∨ inIo x.pa then fail 5 s else loadStart i (.pair i.rd) [x] none false s

/-- LD.PAIR. base is the value of rs1, to which the offset is added. -/
def execLdPair (i : Issue) (base : Word) (x : Xlate) (s : State) : Out :=
  .next (xtRun i (canIssue i s) 0 (i.rd % 2 == 1) false (ldPairDo i { va := base + i.immI, size := 16, x := x }) s)

/-! ## Stores (R201, R202) -/

/-- n bytes of a value from byte o. -/
def valBytes (v o n : Nat) : Nat := v / 2 ^ (8 * o) % 2 ^ (8 * n)

/-- The pieces of an access: one for each line, and each page, that it touches. -/
def storePieces (x : LAcc) (v : Nat) : List Piece :=
  match x.parts with
  | [(a, n)] => [{ pa := a, size := n, val := valBytes v 0 n }]
  | [(a, n), (b, m)] => [{ pa := a, size := n, val := valBytes v 0 n }, { pa := b, size := m, val := valBytes v n m }]
  | _ => []

/-- A block entry added to a vector store's entries: into the one of its block, the later bytes on top. -/
def vecMerge (es : List SbEntry) (e : SbEntry) : List SbEntry :=
  if es.any fun y => y.pa == e.pa then es.map fun y => if y.pa = e.pa then sbMerged e y else y else es ++ [e]

/-- A vector store's entries with one more piece. A misaligned element across two blocks of a line has an entry of its own,
since it is one access (R214); later elements make new entries, so that the order of overlapping elements is kept. -/
def vecAdd (r : List SbEntry × List SbEntry) (p : Piece) (e : SbEntry) : List SbEntry × List SbEntry :=
  if p.inBlock then (r.1, vecMerge r.2 e) else (r.1 ++ r.2 ++ [e], [])

/-- The entries of a store's accesses: for a scalar store one for each line it touches, for a vector store one for each
16-byte block that it writes (R201). -/
def storeEntries (i : Issue) (xs : List LAcc) (vals : List Nat) (vec : Bool) (s : State) : List SbEntry :=
  let w := (s.hart i.hart).w
  let part := txPart i.hart s
  let ps := (xs.zip vals).flatMap fun (x, v) => (storePieces x v).map fun p => (p, x.pbmt)
  if vec then
    let (done, last) := ps.foldl (fun r (p, b) => vecAdd r p (pieceEntry p w b part i.cls)) ([], [])
    done ++ last
  else ps.map fun (p, b) => pieceEntry p w b part i.cls

/-- Entries retire into the store buffer: scalar ones may merge into the youngest; a vector store that finds no room for
all of them goes on as entries leave. trap is the fault of a later element. -/
def storeRetire (i : Issue) (es : List SbEntry) (vec : Bool) (trap : Option (Nat × Trap)) (s : State) : State :=
  let h := i.hart
  let t := s.hart h
  if vec then
    sbCount h (sbRefill h (s.setHart h { t with stall := .storeRest es i.len trap }))
  else
    let s := s.setHart h { t with sb := es.foldl (fun sb e => sbPush e sb s) t.sb }
    sbCount h (pass i s)

/-- STORE. A full buffer stalls retirement. -/
def execStore (i : Issue) (accs : List MemAcc) (vals : List Nat) (vec : Bool) (s : State) : Out :=
  if !canSettle i s then .next s
  else
    let (xs, f, s') := accsCheck i.hart .store accs s
    let es := storeEntries i xs vals vec s'
    if vec then
      .next (storeRetire i es true (f.map fun (c, v) => (xs.length, { cause := c, tval := v, epc := i.pc })) s')
    else match f with
      | some (c, v) => .next (raise i c v s')
      | none =>
        if (s.hart i.hart).sb.length + es.length ≤ 48 then .next (storeRetire i es false none s') else .next s

/-- SD.PAIR: one entry of 16 bytes, in the buffer as one transaction (R141, R201). -/
def sdPairDo (i : Issue) (acc : MemAcc) (lo hi : Word) (s : State) : State :=
  if acc.va.toNat % 16 ≠ 0 then raise i 6 acc.va s
  else match accCheck i.hart .store acc s with
    | .error (c, s) => raise i c acc.va s
    | .ok x =>
      if x.pbmt = 2 ∨ inIo x.pa then raise i 7 acc.va s
      else
        let p : Piece := { pa := x.pa, size := 16, val := lo.toNat + hi.toNat * 2 ^ 64 }
        let e := pieceEntry p (s.hart i.hart).w x.pbmt (txPart i.hart s) i.cls
        sbCount i.hart (pass i (s.onHart i.hart fun t => { t with sb := t.sb ++ [e] }))

/-- The buffer has room for one entry. -/
def sbRoom (h : Nat) (s : State) : Bool := decide ((s.hart h).sb.length < 48)

/-- SD.PAIR, and the words of custom-1 whose funct3 is not listed (R114). base is the value of rs1, lo and hi those of the
pair. -/
def execSdPair (i : Issue) (base : Word) (x : Xlate) (lo hi : Word) (s : State) : Out :=
  .next (xtRun i (canSettle i s && sbRoom i.hart s) 0 (i.funct3 != 0 || i.rs2 % 2 == 1) false
    (sdPairDo i { va := base + i.immS, size := 16, x := x } lo hi) s)

/-! ## Cache block operations (R191, R201) -/

/-- A CBO retires into the store buffer; one to PBMT IO or an I/O region takes the store access fault. -/
def cboDo (i : Issue) (k : SbKind) (acc : MemAcc) (s : State) : State :=
  if !canSettle i s || !sbRoom i.hart s then s
  else match accCheck i.hart (if k = .cboZ then .store else .block) { acc with size := 1 } s with
    | .error (c, s) => raise i c acc.va s
    | .ok x =>
      if x.pbmt = 2 ∨ inIo x.pa then raise i 7 acc.va s
      else
        let e : SbEntry := { kind := k, pa := lineOf x.pa, w := (s.hart i.hart).w, pbmt := x.pbmt,
                             part := txPart i.hart s, cls := i.cls, ea := x.pa }
        sbCount i.hart (pass i (s.onHart i.hart fun t => { t with sb := t.sb ++ [e] }))

/-- CBO.CLEAN. -/
def execCboClean (i : Issue) (acc : MemAcc) (s : State) : Out := .next (cboDo i .cboC acc s)
/-- CBO.FLUSH. -/
def execCboFlush (i : Issue) (acc : MemAcc) (s : State) : Out := .next (cboDo i .cboF acc s)
/-- CBO.INVAL, performed as CBO.FLUSH. -/
def execCboInval (i : Issue) (acc : MemAcc) (s : State) : Out := .next (cboDo i .cboI acc s)
/-- CBO.ZERO. -/
def execCboZero (i : Issue) (acc : MemAcc) (s : State) : Out := .next (cboDo i .cboZ acc s)

/-! ## Atomics (R186, R187, R189) -/

/-- An atomic or LR joins the pending loads; its address checks and its place come first. -/
def amoStart (i : Issue) (dst : LoadDst) (x : LAcc) (op v kind : Nat) (s : State) : State :=
  let h := i.hart
  let t := s.hart h
  let l : PLoad := { id := t.nextId, pc := i.pc, dst := dst, accs := [x], part := txPart h s, v := t.virt, w := t.w,
                     cls := i.cls, stream := false, amo := some (op, v, kind) }
  s.setHart h { t.moved i.len with loads := [l], nextId := t.nextId + 1 }

/-- AMO. op numbers the operations in the order of R232; acc.size is 4 or 8. -/
def execAmo (i : Issue) (op rd : Nat) (acc : MemAcc) (v : Word) (s : State) : Out :=
  if !canDrained i s then .next s
  else if acc.va.toNat % acc.size ≠ 0 then .next (raise i 6 acc.va s)
  else match accCheck i.hart .store acc s with
    | .error (c, s) => .next (raise i c acc.va s)
    | .ok x =>
      if x.pbmt = 2 ∨ !inDram x.pa s then .next (raise i 7 acc.va s)
      else
        let kind := if x.pbmt = 0 ∧ atomicPlace x.pa s = 0 then 0 else 2
        .next (loadsPump i.hart (amoStart i (.x rd true) x op v.toNat kind s))

/-- LR. -/
def execLr (i : Issue) (rd : Nat) (acc : MemAcc) (s : State) : Out :=
  if !canDrained i s then .next s
  else if acc.va.toNat % acc.size ≠ 0 then .next (raise i 4 acc.va s)
  else match accCheck i.hart .load acc s with
    | .error (c, s) => .next (raise i c acc.va s)
    | .ok x =>
      if x.pbmt = 2 ∨ !inDram x.pa s then .next (raise i 5 acc.va s)
      else .next (loadsPump i.hart (amoStart i (.x rd true) x 0 0 1 s))

/-- SC: with the reservation of LR on its line still held, the store is performed and rd reads 0; otherwise rd reads 1.
Either way the reservation ends. -/
def scDo (i : Issue) (rd : Nat) (x : LAcc) (va v : Word) (s : State) : State :=
  let h := i.hart
  let np := coreOf h s
  let line := x.pa / 64
  let t := s.hart h
  let gone (s : State) : State := s.onHart h fun t => { t with resv := none }
  let own := if t.resv = some line then l2Owned np line s else none
  match own with
  | none => pass i ((gone s).onHart h fun t => t.setX rd 1)
  | some k =>
    let ln := s.l2L k
    match hitRule t.w t.virt ln.w ln.px ln.data ln.poison with
    | .data _ _ =>
      let s := l2Write np line k (linePut 0 (x.pa % 64) x.size v.toNat) (byteMask (x.pa % 64) x.size) 0 s
      pass i ((gone s).onHart h fun t => t.setX rd 0)
    | .world => raise i 7 va (gone (cacheDeny true .atomic t.w (txPart h s) np x.pa s))
    | _ => raise i 7 va (gone (cacheDeny false .atomic t.w (txPart h s) np x.pa s))

/-- SC. -/
def execSc (i : Issue) (rd : Nat) (acc : MemAcc) (v : Word) (s : State) : Out :=
  if !canDrained i s then .next s
  else if acc.va.toNat % acc.size ≠ 0 then .next (raise i 6 acc.va s)
  else match accCheck i.hart .store acc s with
    | .error (c, s) => .next (raise i c acc.va s)
    | .ok x =>
      if x.pbmt = 2 ∨ !inDram x.pa s then .next (raise i 7 acc.va s) else .next (scDo i rd x acc.va v s)

/-! ## Fences (R209) -/

/-- FENCE. A predecessor set with W or O waits for the drain; R and I wait for older loads only. The sets are the fields
of the encoding: I 8, O 4, R 2, W 1. -/
def execFence (i : Issue) (pred _succ : Nat) (s : State) : Out :=
  let ready := if pred.testBit 0 || pred.testBit 2 then canDrained i s else canSettle i s
  .next (if ready then pass i s else s)

/-- FENCE.I. -/
def execFenceI (i : Issue) (s : State) : Out := .next (if canDrained i s then pass i s else s)

/-- The exception of SFENCE.VMA, HFENCE.VVMA or HFENCE.GVMA in the current mode (the published privileged rules). funct7
of the encoding tells the three apart. -/
def sfenceFault (i : Issue) (s : State) : Option Nat :=
  let t := s.hart i.hart
  let f7 := i.enc.toNat / 2 ^ 25
  let h := f7 = 0b0010001 ∨ f7 = 0b0110001
  if t.virt then
    if h then some 22 else if t.priv = 0 then some 22 else if t.cb CSR.hstatus 20 then some 22 else none
  else if t.priv = 0 then some 2
  else if t.priv = 1 ∧ t.cb CSR.mstatus 20 ∧ f7 ≠ 0b0010001 then some 2
  else none

/-- SFENCE.VMA, HFENCE.VVMA and HFENCE.GVMA. Translations are operands of the accesses, so no cached translation remains
to be dropped. -/
def execSfenceVma (i : Issue) (s : State) : Out :=
  if !canDrained i s then .next s
  else match sfenceFault i s with
    | some c => .next (raiseEnc i c s)
    | none => .next (pass i s)

/-! ## Waits (R110, R111) -/

/-- The exception of a WFI that would wait, by the published privileged rules. -/
def wfiFault (h : Nat) (s : State) : Option Nat :=
  let t := s.hart h
  if t.priv < 3 ∧ t.cb CSR.mstatus 21 then some 2
  else if t.virt ∧ (t.priv = 0 ∨ t.cb CSR.hstatus 21) then some 22
  else if t.priv = 0 then some 2
  else none

/-- The core enters WAIT. -/
def park (h : Nat) (k : WaitKind) (s : State) : State := s.onHart h fun t => { t with st := .wait k, waitAt := s.tb }

/-- WFI: with an enabled interrupt pending the core stays in RUN. -/
def execWfi (i : Issue) (s : State) : Out :=
  if !canDrained i s then .next s
  else if irqWakes i.hart s then .next (pass i s)
  else match wfiFault i.hart s with
    | some c => .next (raiseEnc i c s)
    | none => .next (park i.hart .wfi (pass i s))

/-- WRS.NTO and WRS.STO: with a valid reservation the core waits. -/
def wrsDo (i : Issue) (sto : Bool) (s : State) : State :=
  if !canDrained i s then s
  else if (s.hart i.hart).resv.isNone || irqWakes i.hart s then pass i s
  else park i.hart (.wrs sto) (pass i s)

/-- WRS.NTO. -/
def execWrsNto (i : Issue) (s : State) : Out := .next (wrsDo i false s)
/-- WRS.STO. -/
def execWrsSto (i : Issue) (s : State) : Out := .next (wrsDo i true s)

/-! ## Returns and traps (R102, R142, R211, R381, R384) -/

/-- MRET in the Secure world with NEXT_W = 0: the Open world's pc, mode and mstatus from the save registers (R381). -/
def mretSwitch (h : Nat) (s : State) : State :=
  let m := s.r .WC_SAVE_MODE h
  let s := (worldSwitch h s).onHart h fun t =>
    { (t.retired.setC CSR.mstatus (mstatusPut 0 (s.r .WC_SAVE_STATUS h))) with
      w := false, priv := if bits m 1 0 = 2 then 3 else bits m 1 0, virt := bit m 2 && decide (bits m 1 0 < 2)
      pc := s.r .WC_SAVE_PC h }
  haltTry h (traceGap h s)

/-- MRET. -/
def execMret (i : Issue) (s : State) : Out :=
  let t := s.hart i.hart
  if !canSettle i s then .next s
  else if t.priv ≠ 3 then .next (raiseEnc i 2 s)
  else if t.w && !t.nextW then
    if !t.sb.isEmpty then .next s
    else
      let s := traceEmit i.hart 3 (s.r .WC_SAVE_PC i.hart) s
      .next (mretSwitch i.hart s)
  else
    let s := s.onHart i.hart fun t => returnM t.retired
    .next (traceEmit i.hart 3 (s.hart i.hart).pc s)

/-- The exception of SRET in the current mode, by the published privileged rules. -/
def sretFault (h : Nat) (s : State) : Option Nat :=
  let t := s.hart h
  if t.virt then (if t.priv = 0 ∨ t.cb CSR.hstatus 22 then some 22 else none)
  else if t.priv = 0 ∨ (t.priv = 1 ∧ t.cb CSR.mstatus 22) then some 2 else none

/-- SRET, and an MRET (lvl = 3) that keeps the world: the Xzdtime state is kept and the store buffer does not drain. -/
def execXret (i : Issue) (lvl : Nat) (s : State) : Out :=
  let t := s.hart i.hart
  if !canSettle i s then .next s
  else if lvl = 3 then
    if t.w && !t.nextW then .next s
    else if t.priv ≠ 3 then .next (raiseEnc i 2 s)
    else
      let s := s.onHart i.hart fun t => returnM t.retired
      .next (traceEmit i.hart 3 (s.hart i.hart).pc s)
  else match sretFault i.hart s with
    | some c => .next (raiseEnc i c s)
    | none =>
      let s := s.onHart i.hart fun t => (if t.virt then returnVS else returnHS) t.retired
      .next (traceEmit i.hart 3 (s.hart i.hart).pc s)

/-- The core can take a trap: in RUN or WAIT on a die that is ON, not halted, with no older load, an empty store buffer
and no descriptor load under way (R209, R211). -/
def canTrap (h : Nat) (s : State) : Bool :=
  let t := s.hart h
  let st : Bool := match t.st with
    | .run | .wait _ => true
    | _ => false
  let free : Bool := match t.stall with
    | .desc | .storeRest .. | .tsCancel .. => false
    | _ => true
  hartExists h s && dieOn (hartDie h s) s && st && free && !t.halted && t.loads.isEmpty && t.sb.isEmpty && t.start.isNone

/-- A trap entered at a level; a stalled instruction is left and runs again on return. -/
def trapTake (h lvl : Nat) (isInt : Bool) (cause : Nat) (tval epc : Word) (s : State) : State :=
  let s := traceEmit h 2 (BitVec.ofNat 64 ((cause % 2 ^ 15 + if isInt then 2 ^ 15 else 0) * 2 ^ 48 + epc.toNat % 2 ^ 48)) s
  s.onHart h fun t =>
    let t := if isInt ∧ cause = 16 then t.event 0x0A else t
    { (enterAt lvl isInt cause tval epc t) with trap := none, stall := .none, st := .run, resv := t.resv }

/-- TRAP_ENTRY: the outstanding exception first, else the interrupt that the hart takes. A Secure interrupt that can be
entered goes before an Open one (R380). -/
def execTrapEntry (hart : Nat) (s : State) : Out :=
  let t := s.hart hart
  if !canTrap hart s then .next s
  else match t.trap with
    | some x => .next (trapTake hart (excTarget t x.cause) false x.cause x.tval x.epc s)
    | none =>
      if secureIrq hart s && s.b F.WC_SENTRY_VALID hart then .next s
      else match irqTaken hart s with
        | some (c, lvl) => .next (trapTake hart lvl true c 0 t.pc s)
        | none => .next s

/-- STORE_BUFFER_ENTRY_LEAVE. A cache error that the write meets is handled first (R166). -/
def execStoreBufferEntryLeave (hart : Nat) (ce : Option CacheErr) (s : State) : Out :=
  if s.f F.PWR_DIE_STATE (hartDie hart s) ≤ 1 then .next s
  else
    let s := match ce, (s.hart hart).sb with
      | some e, x :: _ => if inDram x.pa s && x.pbmt == 0 then cacheError (coreOf hart s) (x.pa / 64) e s else s
      | _, _ => s
    .next (sbLeave hart s)

end Sys2Proof.Machine
end

