-- ==== Sys2Proof/Machine/Csr.lean ====
section
/-! DEFINITION. CSR access (R96, R97, R99, R100, R103 to R106, R132, R136, R438, R440, R444). What the published RISC-V
specifications define of the standard CSRs follows them (PRESUMED). -/
namespace Sys2Proof.Machine

/-! ## Which CSR, and who may reach it -/

/-- The vendor CSRs (R103). -/
def vendorCsr (a : Nat) : Bool :=
  [0x7C0, 0x7C1, 0x7C2, 0x7C3, 0x7C4, 0x7C6, 0x5C0, 0x5C1, 0x5C2, 0x5C3, 0x5C4, 0x5C5, 0x5C6].contains a

/-- An address of the vendor ranges. -/
def vendorRange (a : Nat) : Bool := (decide (0x7C0 ≤ a) && decide (a ≤ 0x7DF)) || (decide (0x5C0 ≤ a) && decide (a ≤ 0x5CF))

/-- The standard CSRs of RVA23U64 and RVA23S64 with the options of R96, as address ranges. -/
def stdRanges : List (Nat × Nat) :=
  [(0x001, 0x003), (0x008, 0x00A), (0x00F, 0x00F), (0x100, 0x100), (0x104, 0x106), (0x10A, 0x10A), (0x10C, 0x10F),
   (0x140, 0x144), (0x14D, 0x14D), (0x150, 0x151), (0x15C, 0x15C), (0x180, 0x180)]

/-- The hypervisor and VS CSRs. -/
def hypRanges : List (Nat × Nat) :=
  [(0x200, 0x200), (0x204, 0x205), (0x240, 0x244), (0x24D, 0x24D), (0x250, 0x251), (0x25C, 0x25C), (0x280, 0x280),
   (0x600, 0x600), (0x602, 0x60A), (0x60C, 0x60F), (0x643, 0x647), (0x64A, 0x64A), (0x680, 0x680), (0xE12, 0xE12),
   (0xEB0, 0xEB0)]

/-- The machine CSRs and the counters. -/
def machRanges : List (Nat × Nat) :=
  [(0x300, 0x306), (0x308, 0x30A), (0x30C, 0x30F), (0x320, 0x320), (0x323, 0x33F), (0x340, 0x344), (0x34A, 0x34B),
   (0x350, 0x351), (0x35C, 0x35C), (0x7A0, 0x7A2), (0x7A4, 0x7A4), (0x3A0, 0x3A0), (0x3A2, 0x3A2), (0x3B0, 0x3BF), (0xB00, 0xB00), (0xB02, 0xB1F),
   (0xC00, 0xC1F), (0xC20, 0xC22), (0xDA0, 0xDA0), (0xDB0, 0xDB0), (0xF11, 0xF15), (0xFB0, 0xFB0)]

/-- The address names a CSR of the hart. -/
def csrExists (a : Nat) : Bool :=
  vendorCsr a || (!vendorRange a && (stdRanges ++ hypRanges ++ machRanges).any fun r => decide (r.1 ≤ a) && decide (a ≤ r.2))

/-- The lowest mode of an address, its bits 9:8: 0 U, 1 S, 2 HS, 3 M. -/
def csrMode (a : Nat) : Nat := a / 256 % 4

/-- A read-only address, its bits 11:10. mzdpos, mzdpart and szdpend are read-only as well (R103). -/
def csrReadOnly (a : Nat) : Bool := a / 1024 % 4 == 3 || a == 0x7C2 || a == 0x7C3 || a == 0x5C6

/-- The supervisor CSR that an access with V = 1 reaches: the VS copy. The vendor CSRs have none (R104). -/
def csrAlias (t : Hart) (a : Nat) : Nat :=
  if t.virt ∧ [0x100, 0x104, 0x105, 0x140, 0x141, 0x142, 0x143, 0x144, 0x14D, 0x150, 0x151, 0x15C, 0x180].contains a
  then a + 0x100 else a

/-- The counter enables for an unprivileged counter. -/
def counterFault (t : Hart) (a : Nat) : Option Nat :=
  let k := a - 0xC00
  if 0xC00 ≤ a ∧ a ≤ 0xC1F then
    if t.priv < 3 ∧ !t.cb 0x306 k then some 2
    else if t.virt ∧ !t.cb 0x606 k then some 22
    else if t.priv = 0 ∧ !t.cb 0x106 k then some (if t.virt then 22 else 2)
    else none
  else none

/-- The bit of mstateen0 and of hstateen0 that opens a CSR to lower modes (Ssstateen, of the profiles of R96). -/
def stateenBit (a : Nat) : Option Nat :=
  match a with
  | 0x10A | 0x60A => some 62
  | 0x150 | 0x151 | 0x250 | 0x251 => some 60
  | 0xDB0 | 0xEB0 => some 59
  | 0x15C | 0x25C => some 58
  | 0x10C | 0x60C => some 63
  | _ => none

/-- The exception of an access that a state enable closes. -/
def stateenFault (t : Hart) (a : Nat) : Option Nat :=
  match stateenBit a with
  | none => none
  | some b =>
    if t.priv < 3 ∧ !t.cb 0x30C b then some 2
    else if t.virt ∧ !t.cb 0x60C b then some 22
    else none

/-- The exception of a CSR access in the hart's mode, if any: 2 illegal instruction, 22 virtual instruction. -/
def csrFault (t : Hart) (a : Nat) (wr : Bool) : Option Nat :=
  if !csrExists a then some 2
  else if wr ∧ csrReadOnly a then some 2
  else if vendorCsr a then
    if csrMode a = 3 then (if t.priv < 3 then some 2 else if a = 0x7C0 ∧ wr ∧ !t.w then some 2 else none)
    else if t.priv = 0 then some 2
    else if t.virt ∧ !bit (t.c CSR.mzdcfg) 3 then some 22
    else none
  else
    let m := csrMode a
    if m = 0 then counterFault t a
    else if m = 3 then (if t.priv < 3 then some 2 else none)
    else if t.virt then
      if m = 2 ∨ t.priv = 0 then some 22
      else if a = 0x180 ∧ t.cb CSR.hstatus 20 then some 22 else stateenFault t a
    else if t.priv = 0 then some 2
    else if (a = 0x180 ∨ a = 0x680) ∧ t.priv = 1 ∧ t.cb CSR.mstatus 20 then some 2
    else stateenFault t a

/-! ## Views -/

/-- The bits of mstatus that sstatus shows. -/
def sstatusMask : Word := 0x80000003000DE762#64

/-- The interrupt bits that the software may write in mie, and in mip: bit 16 of mip is read-only (R106). -/
def mieMask : Word := 0x13EEE#64
/-- mip; STIP only while menvcfg.STCE leaves it to software. -/
def mipMask (t : Hart) : Word := if t.cb 0x30A 63 then 0x2206#64 else 0x2226#64

/-- The bits of mie and mip that sie and sip show: those delegated. -/
def sieMask (t : Hart) : Word := t.mideleg &&& 0x12222#64

/-- The bits of interrupts 13 and 16 that vsie and vsip show at their own places: those delegated to VS-mode (R106). -/
def vsLocal (t : Hart) : Word := t.mideleg &&& t.c 0x603 &&& 0x12000#64

/-- The bits that a write may change in a CSR that is stored whole. The layouts, and which fields the options of R96 leave
out, follow the published rules. -/
def csrMask (a : Nat) : Word :=
  match a with
  | 0x009 => 0x1#64
  | 0x00A => 0x3#64
  | 0x008 => 0xFF#64
  | 0x105 | 0x205 | 0x305 => 0xFFFFFFFFFFFFFFFD#64
  | 0x141 | 0x241 | 0x341 => 0xFFFFFFFFFFFFFFFE#64
  | 0x200 => 0xC6722#64
  | 0x10A => 0x3000000F1#64
  | 0x30A => 0xC0000000000000F1#64
  | 0x60A => 0xC0000003000000F1#64
  | 0x302 => 0x3F0B7FF#64
  | 0x303 => 0x12222#64
  | 0x602 => 0x300B1FF#64
  | 0x603 => 0x12444#64
  | 0x600 => 0x3000000073F3C0#64
  | 0x607 => 0xFE#64
  | 0x106 | 0x306 | 0x606 => 0xFFFFFFFF#64
  | 0x180 | 0x280 => 0xFFFFF00FFFFFFFFF#64
  | 0x680 => 0xF3FFF00FFFFFFFFC#64
  | 0x320 => 0x7FD#64
  | 0x30C => 0xDC00000000000000#64
  | 0x60C => 0xDC00000000000000#64
  | 0x30D | 0x30E | 0x30F | 0x60D | 0x60E | 0x60F => 0x8000000000000000#64
  | 0x10C | 0x10D | 0x10E | 0x10F => 0
  | _ => if 0x323 ≤ a ∧ a ≤ 0x32A then 0xFCFFFFFFFFFFFFFF#64 else BitVec.allOnes 64

/-- A value with the fields that a reserved code would take kept as they are: CBIE and PMM of an environment register. -/
def csrLegal (a : Nat) (old v : Word) : Word :=
  if a = 0x10A ∨ a = 0x30A ∨ a = 0x60A then
    let v := if bits v 5 4 = 2 then setBits v 5 4 (bits old 5 4) else v
    if bits v 33 32 = 1 then setBits v 33 32 (bits old 33 32) else v
  else v

/-- PMP entry k is locked: by its own L, or as the lower bound of a locked TOR entry. -/
def Hart.pmpLocked (t : Hart) (k : Nat) (addr : Bool) : Bool :=
  (t.pmpCfg k).testBit 7 || (addr && decide (k < 15) && (t.pmpCfg (k + 1)).testBit 7 && t.pmpCfg (k + 1) / 8 % 4 == 1)

/-- A configuration byte written: W without R becomes neither, and NA4, which a granularity of 4 KiB does not have, becomes
OFF (R96). -/
def pmpByte (v : Nat) : Nat :=
  let a := if v / 8 % 4 = 2 then 0 else v / 8 % 4
  (if v.testBit 0 then v % 8 else v / 4 % 2 * 4) + a * 8 + v / 128 % 2 * 128

/-- pmpcfg0 or pmpcfg2 written; a locked entry keeps its byte. -/
def pmpCfgWrite (t : Hart) (a : Nat) (v : Word) : Hart :=
  t.setC a ((List.range 8).foldl (fun w j =>
    if t.pmpLocked ((a - 0x3A0) * 4 + j) false then w else setBits w (8 * j + 7) (8 * j) (pmpByte (bits v (8 * j + 7) (8 * j))))
    (t.c a))

/-- pmpaddr as it reads: with a granularity of 4 KiB the low bits are 1 for NAPOT and 0 otherwise. -/
def pmpAddrRead (t : Hart) (k : Nat) : Word :=
  let v := t.c (0x3B0 + k)
  if t.pmpCfg k / 8 % 4 = 3 then v ||| 0x1FF#64 else v &&& ~~~ 0x3FF#64

/-- The count of counter k is one that the spec's commands do not determine: CORE cycles, and the events of fetches, of
prediction and of cycles (R100). -/
def counterFree (t : Hart) (k : Nat) : Bool :=
  !t.cb 0x320 k && (k == 0 || (decide (3 ≤ k) && [1, 5, 6, 7, 8].contains (bits (t.c (0x320 + k)) 55 0)))

/-- A counter read: 11 and above read 0; one whose count the commands do not determine shows a free value, and any other
what it has counted (R100). -/
def counterRead (t : Hart) (k : Nat) (s : State) : Word :=
  if 11 ≤ k then 0 else if counterFree t k then s.freeWord else t.c (0xB00 + k)

/-- The interrupt that mtopi, stopi or vstopi reports at a level: its number in bits 27:16, and a priority of 1, or the
priority number of interrupt 16. -/
def topiRead (h lvl : Nat) (s : State) : Word :=
  match irqAt h lvl s with
  | none => 0
  | some c =>
    let ip := (s.hart h).iprio16 lvl
    BitVec.ofNat 64 (c * 2 ^ 16 + if c = 16 ∧ ip ≠ 0 then ip else 1)

/-- The file behind an indirect register at a level, none for a guest file that VGEIN does not select. -/
def selFile (t : Hart) (lvl : Nat) : Option Nat :=
  if lvl = 3 then some t.mFile else if lvl = 1 then some 0 else if t.vgein = 0 then none else some t.vgein

/-- The level of an indirect, top-interrupt or select CSR. -/
def csrLvl (a : Nat) : Nat := if csrMode a = 3 then 3 else if a < 0x200 then 1 else 0

/-- The select register of an indirect CSR. -/
def selOf (t : Hart) (a : Nat) : Nat := (t.c (a - 1)).toNat

/-- An indirect register exists: the iprio array, or a register of a file that is present; RV64 has the even ones. -/
def indirectOk (t : Hart) (lvl sel : Nat) : Bool :=
  (decide (0x30 ≤ sel) && decide (sel ≤ 0x3F) && sel % 2 == 0) ||
    ((selFile t lvl).isSome && (sel == 0x70 || sel == 0x72 || (decide (0x80 ≤ sel) && decide (sel ≤ 0xFF) && sel % 2 == 0)))

/-- Read of an indirect register. Only the iprio byte of interrupt 16 is not 0 in the iprio array (R444). -/
def indirectRead (t : Hart) (lvl sel : Nat) : Word :=
  if sel ≤ 0x3F then (if sel = 0x34 then BitVec.ofNat 64 (t.iprio16 lvl) else 0)
  else match selFile t lvl with
    | none => 0
    | some f =>
      let x := t.file f
      if sel = 0x70 then BitVec.ofNat 64 x.deliv
      else if sel = 0x72 then BitVec.ofNat 64 x.thresh
      else
        let k := (sel % 64) / 2
        BitVec.ofNat 64 ((if sel < 0xC0 then x.eip else x.eie) / 2 ^ (64 * k))

/-- Bits of the pending or enable array replaced; identity 0 does not exist. -/
def arrayPut (old k v : Nat) : Nat :=
  let m := 2 ^ (64 * k)
  let x := old % m + v % 2 ^ 64 * m + old / (m * 2 ^ 64) * (m * 2 ^ 64)
  natSetBit x 0 false

/-- Write of an indirect register. -/
def indirectWrite (t : Hart) (lvl sel : Nat) (v : Word) : Hart :=
  if sel ≤ 0x3F then
    if sel = 0x34 then t.setC (if lvl = 3 then 0x10034 else 0x11034) (BitVec.ofNat 64 (v.toNat % 256)) else t
  else match selFile t lvl with
    | none => t
    | some f =>
      let x := t.file f
      let k := (sel % 64) / 2
      t.setFile f
        (if sel = 0x70 then { x with deliv := v.toNat % 2 }
         else if sel = 0x72 then { x with thresh := v.toNat % 2048 }
         else if sel < 0xC0 then { x with eip := arrayPut x.eip k v.toNat }
         else { x with eie := arrayPut x.eie k v.toNat })

/-- The value that a CSR reads as. -/
def csrRead (h a : Nat) (s : State) : Word :=
  let t := s.hart h
  let n := hartDie h s
  let p := hartPos h s
  let a := csrAlias t a
  match a with
  | 0x7C0 => BitVec.ofNat 64 ((if t.nextW then 2 else 0) + if t.w then 1 else 0)
  | 0x7C1 => (t.c 0x7C1 &&& 0xF#64) ||| (if s.b F.PWR_STATUS_PLOCK 0 then 0x100#64 else 0)
  | 0x7C2 => BitVec.ofNat 64 ((Config.dieRev n).toNat * 2 ^ 24 + p / 5 * 2 ^ 16 + p % 5 * 2 ^ 12 + p * 2 ^ 4 + n)
  | 0x7C3 => BitVec.ofNat 64 (s.f F.PQ_HART_ASSIGNED h * 2 ^ 63 + hartPart h s)
  | 0x7C4 => (t.c 0x7C4 &&& 0x100#64) ||| BitVec.ofNat 64 (s.tsQ h).length
  | 0x5C6 =>
    match t.pend with
    | some d => BitVec.ofNat 64 (2 ^ 63 + d.desc % 256 * 2 ^ 40 + d.arg.toNat)
    | none => 0
  | 0xF11 | 0xF15 => 0
  | 0xF12 => 0x8000000000000216#64
  | 0xF13 => BitVec.ofNat 64 (Config.dieRev n).toNat
  | 0xF14 => BitVec.ofNat 64 h
  | 0x300 => t.mstatus
  | 0x200 => statusView (t.c 0x200) &&& sstatusMask
  | 0x600 => t.c 0x600 ||| 0x200000000#64
  | 0x301 => 0x80000000003411AF#64
  | 0x303 => t.mideleg
  | 0x00F => (t.c 0x00A <<< 1) ||| t.c 0x009
  | 0x100 => t.mstatus &&& sstatusMask
  | 0x104 => t.c CSR.mie &&& sieMask t
  | 0x144 => BitVec.ofNat 64 (hartMip h s) &&& sieMask t
  | 0x344 => BitVec.ofNat 64 (hartMip h s)
  | 0x204 => (((t.c CSR.mie &&& t.c 0x603) >>> 1) &&& 0x222#64) ||| (t.c CSR.mie &&& vsLocal t)
  | 0x244 =>
    let p := BitVec.ofNat 64 (hartMip h s)
    (((p &&& t.c 0x603) >>> 1) &&& 0x222#64) ||| (p &&& vsLocal t)
  | 0x604 => t.c CSR.mie &&& 0x1444#64
  | 0x644 => BitVec.ofNat 64 (hartMip h s) &&& 0x1444#64
  | 0x645 => BitVec.ofNat 64 (hartMip h s) &&& 0x444#64
  | 0xE12 => BitVec.ofNat 64 t.hgeip
  | 0xC01 => if t.virt then hartTime s + t.c 0x605 else hartTime s
  | 0xFB0 => topiRead h 3 s
  | 0xDB0 => topiRead h (if t.virt then 0 else 1) s
  | 0xEB0 => topiRead h 0 s
  | 0x35C | 0x15C | 0x25C =>
    match selFile t (csrLvl a) with
    | some f => let k := (t.file f).top; BitVec.ofNat 64 (k * 2 ^ 16 + k)
    | none => 0
  | 0x351 | 0x151 | 0x251 => indirectRead t (csrLvl a) (selOf t a)
  | 0x002 => BitVec.ofNat 64 (bits (t.c 0x003) 7 5)
  | 0x001 => BitVec.ofNat 64 (bits (t.c 0x003) 4 0)
  | 0xC22 => 32
  | 0x7A1 => t.c (0x1000 + (t.c 0x7A0).toNat % 8)
  | 0x7A2 => t.c (0x1008 + (t.c 0x7A0).toNat % 8)
  | 0x7A4 => 0x1008048#64
  | 0xDA0 => BitVec.ofNat 64 ((List.range 8).foldl (fun v k => natSetBit v (k + 3) (bit (t.c (0x323 + k)) 63)) 0)
  | _ =>
    if 0xB00 ≤ a ∧ a ≤ 0xB1F then counterRead t (a - 0xB00) s
    else if 0xC00 ≤ a ∧ a ≤ 0xC1F then counterRead t (a - 0xC00) s
    else if 0x32B ≤ a ∧ a ≤ 0x33F then 0
    else if 0x3B0 ≤ a ∧ a ≤ 0x3BF then pmpAddrRead t (a - 0x3B0)
    else t.c a

/-- Bits of a stored CSR replaced under a mask. -/
def Hart.setCMask (t : Hart) (a : Nat) (m v : Word) : Hart := t.setC a ((t.c a &&& ~~~ m) ||| (v &&& m))

/-- The counters whose count a write makes known take the value they had, which the spec does not give. -/
def counterHold (old new : Hart) (s : State) : Hart :=
  [0, 3, 4, 5, 6, 7, 8, 9, 10].foldl (fun t k =>
    if counterFree old k && !counterFree new k then t.setC (0xB00 + k) (Config.freeWord (s.fresh + 1 + k)) else t) new

/-- The prefetches in flight of hart h's core are discarded (R105). -/
def prefetchDrop (h : Nat) (s : State) : State :=
  let np := coreOf h s
  { s with l2Pend := s.l2Pend.map fun q => if q.np = np ∧ q.pf = 1 then { q with pf := 2 } else q }

/-- szddlctl written: a monitor whose EN the write leaves 1 records the current world (R132). -/
def monitorsWrite (t : Hart) (v : Word) : Hart :=
  let t := t.setC CSR.szddlctl (v &&& 0x3F3F3F3F#64)
  { t with monW := (List.range 4).foldl (fun m k => if t.monEn k then natSetBit m k t.w else m) t.monW }

/-- tdata1 written (R578; the layout is PRESUMED): types mcontrol6, with an exact match of the pc, and icount; any other type
disables the trigger. Only debug mode sets dmode, without which the action is a breakpoint, or changes a trigger that has
it. -/
def trigWrite (t : Hart) (k : Nat) (v : Word) : Hart :=
  let old := t.c (0x1000 + k)
  let dm : Bool := t.halted && bit v 59
  let v := setBits v 59 59 (if dm then 1 else 0)
  if bit old 59 && !t.halted then t
  else if bits v 63 60 = 6 then
    let act := if dm && bits v 15 12 = 1 then 1 else 0
    t.setC (0x1000 + k) (setBits (v &&& 0xF800000001C0005C#64) 15 12 act)
  else if bits v 63 60 = 3 then
    let act := if dm && bits v 5 0 = 1 then 1 else 0
    t.setC (0x1000 + k) (setBits (v &&& 0xF800000007FFFFC0#64) 5 0 act)
  else t.setC (0x1000 + k) 0xF000000000000000#64

/-- A CSR written. -/
def csrWrite (h a : Nat) (v : Word) (s : State) : State :=
  let t := s.hart h
  let a := csrAlias t a
  let put (t : Hart) : State := s.setHart h t
  match a with
  | 0x7C0 => put { t with nextW := bit v 1 }
  | 0x7C1 => prefetchDrop h (put { (t.setC 0x7C1 (v &&& 0xF#64)) with misses := [] })
  | 0x7C4 => put (t.setC 0x7C4 (v &&& 0x100#64))
  | 0x7C6 => put (t.setC 0x7C6 (v &&& 0xFFFF0003#64))
  | 0x5C4 => put (monitorsWrite t v)
  | 0x5C5 => put { (t.setC 0x5C5 (v &&& ~~~ 0x3FFF#64)) with tdc := [] }
  | 0x300 => put (t.setC 0x300 (mstatusPut (t.c 0x300) v))
  | 0x301 => s
  | 0x100 => put (t.setCMask CSR.mstatus 0xC6722#64 v)
  | 0x304 => put (t.setCMask CSR.mie mieMask v)
  | 0x104 => put (t.setCMask CSR.mie (sieMask t) v)
  | 0x344 => put (t.setCMask CSR.mip (mipMask t) v)
  | 0x144 => put (t.setCMask CSR.mip (sieMask t &&& 0x2002#64) v)
  | 0x204 => put ((t.setCMask CSR.mie (t.c 0x603 &&& 0x444#64) (v <<< 1)).setCMask CSR.mie (vsLocal t) v)
  | 0x244 => put ((t.setCMask CSR.mip (t.c 0x603 &&& 0x4#64) (v <<< 1)).setCMask CSR.mip (vsLocal t &&& 0x2000#64) v)
  | 0x604 => put (t.setCMask CSR.mie 0x1444#64 v)
  | 0x644 => put (t.setCMask CSR.mip 0x4#64 v)
  | 0x645 => put (t.setCMask CSR.mip 0x444#64 v)
  | 0x35C | 0x15C | 0x25C =>
    match selFile t (csrLvl a) with
    | some f => let x := t.file f; put (t.setFile f { x with eip := if x.top = 0 then x.eip else natSetBit x.eip x.top false })
    | none => s
  | 0x351 | 0x151 | 0x251 => put (indirectWrite t (csrLvl a) (selOf t a) v)
  | 0x002 => put (t.setCBits 0x003 7 5 (v.toNat % 8))
  | 0x001 => put (t.setCBits 0x003 4 0 (v.toNat % 32))
  | 0x003 => put (t.setC 0x003 (v &&& 0xFF#64))
  | 0x00F => put ((t.setC 0x00A ((v >>> 1) &&& 0x3#64)).setC 0x009 (v &&& 0x1#64))
  | 0x3A0 | 0x3A2 => put (pmpCfgWrite t a v)
  | 0x7A0 => put (t.setC 0x7A0 (BitVec.ofNat 64 (v.toNat % 8)))
  | 0x7A1 => put (trigWrite t ((t.c 0x7A0).toNat % 8) v)
  | 0x7A2 => put (if bit (t.c (0x1000 + (t.c 0x7A0).toNat % 8)) 59 && !t.halted then t else t.setC (0x1008 + (t.c 0x7A0).toNat % 8) v)
  | 0x7A4 => s
  | 0x7B0 => put (t.setCMask 0x7B0 0x3BC37#64 v)
  | 0x180 | 0x280 | 0x680 =>
    let m := bits v 63 60
    if m = 0 ∨ m = 8 ∨ m = 9 then put (t.setCMask a (csrMask a) v) else s
  | _ =>
    if a = 0x320 ∨ (0x323 ≤ a ∧ a ≤ 0x32A) then (put (counterHold t (t.setCMask a (csrMask a) v) s)).bump
    else if (0x32B ≤ a ∧ a ≤ 0x33F) ∨ (0xB0B ≤ a ∧ a ≤ 0xB1F) then s
    else if 0x3B0 ≤ a ∧ a ≤ 0x3BF then
      if t.pmpLocked (a - 0x3B0) true then s else put (t.setC a (v &&& 0x3FFFFFFFFFFF#64))
    else put (t.setCMask a (csrMask a) (csrLegal a (t.c a) v))

/-- The value written by op: 0 replace, 1 set bits, 2 clear bits. -/
def csrCombine (op : Nat) (old v : Word) : Word :=
  if op = 1 then old ||| v else if op = 2 then old &&& ~~~ v else v

/-- The value that a set or clear instruction starts from: what the CSR reads as, but for SEIP of mip, where the external
interrupt does not count (the published privileged rules). -/
def csrBase (h addr : Nat) (s : State) : Word :=
  let v := csrRead h addr s
  if addr = CSR.mip then setBits v 9 9 (if (s.hart h).cb CSR.mip 9 then 1 else 0) else v

/-- A CSR instruction: its exception, or the old value into rd and the write. A free value read is used up. -/
def csrDo (i : Issue) (addr op : Nat) (v : Word) (wr : Bool) (rd : Nat) (s : State) : State :=
  let h := i.hart
  let t := s.hart h
  match csrFault t addr wr with
  | some c => raiseEnc i c s
  | none =>
    let a := csrAlias t addr
    if (a = 0x351 ∨ a = 0x151 ∨ a = 0x251) ∧ !indirectOk t (csrLvl a) (selOf t a) then
      raiseEnc i (if t.virt then 22 else 2) s
    else
      let old := csrRead h addr s
      let new := csrCombine op (csrBase h addr s) v
      let s := s.bump
      let s := if wr then csrWrite h addr new s else s
      pass i (s.onHart h fun t => t.setX rd old)

/-- CSR_ACCESS. A write to mzdcfg first completes every older instruction (R105, R209). -/
def execCsrAccess (i : Issue) (addr op : Nat) (v : Word) (wr : Bool) (rd : Nat) (s : State) : Out :=
  let ready := if addr = CSR.mzdcfg ∧ wr then canDrained i s else canSettle i s
  .next (if ready then csrDo i addr op v wr rd s else s)

/-- MZDCFG_WRITE: it takes effect for the next instruction, once the older ones are complete (R105). -/
def execMzdcfgWrite (i : Issue) (v : Word) (rd : Nat) (s : State) : Out :=
  .next (if canDrained i s then csrDo i CSR.mzdcfg 0 v true rd s else s)

/-- SZDTDBASE_WRITE: the base is set and the descriptor cache invalidated, even by the same value (R136). -/
def execSzdtdbaseWrite (i : Issue) (v : Word) (rd : Nat) (s : State) : Out :=
  .next (if canSettle i s then csrDo i CSR.szdtdbase 0 v true rd s else s)

end Sys2Proof.Machine
end

