-- ==== Sys2Proof/Machine/Controllers.lean ====
section
/-! DEFINITION. The memory controllers' own events and the writes of their registers (R221 to R263). -/
namespace Sys2Proof.Machine

/-! ## Refresh and maintenance (R223 to R225) -/

/-- A GT request is queued on a sub-channel. -/
def gtQueued (k c : Nat) (s : State) : Bool :=
  s.mcq.any fun r => r.cls == .gt && mcOf r.addr == k && mcSub r.addr == c

/-- A GT request is queued for a bank. -/
def gtForBank (k c w : Nat) (s : State) : Bool :=
  s.mcq.any fun r => r.cls == .gt && mcOf r.addr == k && mcSub r.addr == c && mcBankOf r.addr == w

/-- BANK_REFRESH. The start of window w of a sub-channel: waiting GT requests are admitted (R226); when bank w owes a
refresh, it is done, or postponed for a GT request of the bank or a recent GT activate, at most 8 times in a row
(R224). -/
def execBankRefresh (k c w : Nat) (owed recentGt : Bool) (s : State) : Out :=
  let key := (k * 4 + c) * 16 + w
  let n := smapGet (fun _ => 0) s.mcBank key
  let post := gtForBank k c w s || recentGt
  let s :=
    if !owed || s.fbit F.MC_STATUS_SELFREF k c then s
    else if post && decide (n < 8) then { s with mcBank := smapSet (fun _ => 0) s.mcBank key (n + 1) }
    else
      let s := if n = 8 then s.satInc F.MC_STATUS_FORCED_REF k else s
      { s with mcBank := smapSet (fun _ => 0) s.mcBank key 0, mcOpen := smapSet (fun _ => none) s.mcOpen key none }
  let s := { s with mcStart := (s.mcStart.filter (· != k * 4 + c)) ++ [k * 4 + c] }
  .next (mcWritesGo (windowOpen k c s))

/-- A maintenance command of a sub-channel: issued only at a window start with no GT request queued, and at most once in the
window (R225). -/
def maintain (k c : Nat) (act : State → State) (s : State) : State :=
  if gtQueued k c s || !s.mcStart.contains (k * 4 + c) then s
  else act { s with mcStart := s.mcStart.filter (· != k * 4 + c) }

/-- The sub-channel of an address is past its window start. -/
def windowRuns (a : Nat) (s : State) : State := { s with mcStart := s.mcStart.filter (· != mcOf a * 4 + mcSub a) }

/-- ZQ_CALIBRATION holds the sub-channel for a time and changes nothing that the device shows (R225). -/
def execZqCalibration (k c : Nat) (s : State) : Out := .next (maintain k c (fun t => t) s)

/-- The highest of the rates that the sub-channels of a controller reported. -/
def tempRate (k : Nat) (s : State) : Nat :=
  (List.range 4).foldl (fun m c => max m (smapGet (fun _ => 0) s.mcRate (k * 4 + c))) 0

/-- MR4_READ (R225, R237). -/
def execMr4Read (k c rate : Nat) (s : State) : Out :=
  .next (maintain k c (fun s =>
    let s := { s with mcRate := smapSet (fun _ => 0) s.mcRate (k * 4 + c) (rate % 4) }
    s.setF F.MC_STATUS_TEMP_RATE k (tempRate k s)) s)

/-- DQS_OSCILLATOR_READ: a drift of more than 1/32 UI adjusts the write delays (R225). -/
def execDqsOscillatorRead (k c : Nat) (drift : Bool) (s : State) : Out :=
  .next (maintain k c (fun s => if drift then s.satInc F.MC_TRAIN_TRACK_CNT (4 * k + c) else s) s)

/-- HP_PROMOTION: the oldest request of the line at addr that the controller holds in class BE or MG becomes HP
(R221). -/
def execHpPromotion (addr : Nat) (s : State) : Out :=
  match s.mcq.find? fun r => r.addr == lineOf addr && (r.cls == .be || r.cls == .mg) with
  | none => .next s
  | some r => .next { s with mcq := s.mcq.map fun x => if x = r then { x with cls := .hp } else x }

/-- DRAM_READ_COMPLETE, of a read that its bank works on (R221, R227, R232). -/
def execDramReadComplete (addr : Nat) (s : State) : Out :=
  .next (if inSelfRefresh addr s || (mcReady addr s).isNone then s else mcReadDone addr (windowRuns addr s))

/-- WRITE_DRAIN: a queued write bursts to DRAM, and a write that waited for its place enters the queue (R222). -/
def execWriteDrain (addr : Nat) (s : State) : Out := .next (mcWritesGo (mcDrain addr (windowRuns addr s)))

/-! ## Credits (R229 to R231) -/

/-- GT_RATE of partition p at controller k, as the last write left it. -/
def gtRate (k p : Nat) (s : State) : Nat := s.f F.MC_CREDIT_GT_RATE (creditIx k p)

/-- The sum of GT_RATE over the partitions at controller k, with partition q's replaced. -/
def gtSum (k : Nat) (q : Option (Nat × Nat)) (s : State) : Nat :=
  (List.range 64).foldl (fun t p => t + match q with
    | some (x, v) => if x = p then v else gtRate k p s
    | none => gtRate k p s) 0

/-- A write of MC_CREDIT(k, p): taken at the next slot-cycle boundary, or ignored with CFGERR (R231). -/
def creditSet (k p : Nat) (v : Word) (s : State) : State :=
  if partBusy p s then pqErr s
  else if 64 * gtLines k s < gtSum k (some (p, fget F.MC_CREDIT_GT_RATE v)) s then s.setB F.MC_STATUS_CFGERR k true
  else
    creditPut (creditIx k p) (Reg.write .MC_CREDIT false (s.r .MC_CREDIT (creditIx k p)) v) s

/-- A write of MC_CTRL(k): ignored with CFGERR when its GT_LINES could not carry the GT_RATEs (R231). -/
def mcCtrlWrite (k : Nat) (v : Word) (s : State) : State :=
  let s' := s.wr .MC_CTRL k v
  if 64 * gtLines k s' < gtSum k none s then s.setB F.MC_STATUS_CFGERR k true else s'

/-- CREDIT_WRITE: p names the partition of an MC_CREDIT write; none: the write is of MC_CTRL. -/
def execCreditWrite (a : Access) (k : Nat) (p : Option Nat) (v : Word) (s : State) : Out :=
  match p with
  | some p => .next (guarded a true .MC_CREDIT (creditIx k p) (creditSet k p v) s)
  | none => .next (guarded a true .MC_CTRL k (mcCtrlWrite k v) s)

/-! ## Power-down, self-refresh and training (R234 to R237) -/

/-- POWER_DOWN_ENTRY of an idle sub-channel. -/
def execPowerDownEntry (k c : Nat) (s : State) : Out :=
  let here (a : Nat) : Bool := mcOf a == k && mcSub a == c
  let idle := !(s.mcq.any fun r => here r.addr) && !(s.wrq.any fun e => here e.addr)
  let gt := (List.range 64).any fun p => fget F.MC_CREDIT_GT_RATE (creditNow (creditIx k p) s) != 0
  .next (if s.b F.MC_CTRL_PD_EN k && idle && !gt && !s.fbit F.MC_STATUS_SELFREF k c then
    s.setFbit F.MC_STATUS_PWRDN k c true else s)

/-- A request that controller k holds receives an error response in self-refresh (R235). -/
def mcRefuse (r : McReq) (s : State) : State :=
  match haTxOf r.addr s with
  | some t => match t.req with
    | some p => haSelfRef t p (mcDone r s)
    | none => mcDone r s
  | none => mcDone r s

/-- Controller k stops accepting requests, finishes its atomics, drains its write queue, precharges its banks and enters
self-refresh on its four sub-channels; what it has not begun receives an error response (R235). -/
def selfRefreshEnter (k : Nat) (s : State) : State :=
  let mine (r : McReq) : Bool := mcOf r.addr == k
  let s := (s.mcq.filter fun r => mine r && r.kind == 2).foldl (fun t r =>
    mcReadDone r.addr { t with mcq := t.mcq.map fun x => if x.addr = r.addr then { x with deferred := false, late := false, issued := true } else x }) s
  let s := mcDrainAll (fun a => mcOf a == k) s
  let s := (s.setF F.MC_STATUS_PWRDN k 0).setF F.MC_STATUS_SELFREF k 0xF
  let s := { s with mcOpen := s.mcOpen.filter fun (b, _) => b / 64 != k }
  (s.mcq.filter mine).foldl (fun t r => mcRefuse r t) s

/-- One attempt of DRAM training on a sub-channel ends; fail is 0 for a pass, otherwise the step that failed; the eyes are
those measured. The third failed attempt marks it failed (R236). -/
def dramTrain (k c fail wrEye rdEye : Nat) (s : State) : State :=
  let i := 4 * k + c
  if 2 ≤ s.f F.MC_TRAIN_STATE i then s
  else
    let s := s.setF F.MC_TRAIN_ATTEMPTS i (s.f F.MC_TRAIN_ATTEMPTS i + 1)
    if fail = 0 then
      let s := ((s.setF F.MC_TRAIN_FAIL_STEP i 0).setF F.MC_TRAIN_WR_EYE i wrEye).setF F.MC_TRAIN_RD_EYE i rdEye
      ((s.setF F.MC_TRAIN_STATE i 2).setFbit F.MC_STATUS_TRAINED k c true)
    else
      let s := s.setF F.MC_TRAIN_FAIL_STEP i (min fail 6)
      if s.f F.MC_TRAIN_ATTEMPTS i < 3 then (s.setF F.MC_TRAIN_STATE i 1)
      else ((s.setF F.MC_TRAIN_STATE i 3).setFbit F.MC_STATUS_FAILED k c true)

/-! ## The region table (R239 to R241, R373) -/

/-- The DRAM capacity in units of 2 MiB (R3). -/
def dramUnits (s : State) : Nat := s.sku.dramBytes / 2 ^ 21

/-- Two ranges of units overlap. -/
def unitsOverlap (b1 n1 b2 n2 : Nat) : Bool := decide (b1 < b2 + n2) && decide (b2 < b1 + n1)

/-- A write of MC_REGION_BASE(i) is ignored (R240). -/
def regionBaseBad (i : Nat) (v : Word) (s : State) : Bool :=
  let base := fget F.MC_REGION_BASE_BASE v
  let size := fget F.MC_REGION_BASE_SIZE v
  vset F.MC_REGION_BASE_VALID v &&
    (size == 0 || decide (dramUnits s < base + size) ||
      ((List.range 64).any fun j => j != i && s.b F.MC_REGION_BASE_VALID j &&
        unitsOverlap base size (s.f F.MC_REGION_BASE_BASE j) (s.f F.MC_REGION_BASE_SIZE j)) ||
      (s.b F.MC_REGION_BASE_VALID i && (s.f F.MC_REGION_BASE_BASE i != base || s.f F.MC_REGION_BASE_SIZE i != size)))

/-- A write of MC_REGION_BASE(i). -/
def regionBaseWrite (i : Nat) (v : Word) (s : State) : State :=
  if regionBaseBad i v s then s.setB F.MC_ECC_STATUS_CFGERR 0 true else s.wr .MC_REGION_BASE i v

/-- A write of MC_REGION_CODE(i). One that changes WORLD of a valid region starts the walks of R373. -/
def regionCodeWrite (i : Nat) (v : Word) (s : State) : State :=
  let valid := s.b F.MC_REGION_BASE_VALID i
  if assigns F.MC_REGION_CODE_PART i v s then pqErr s
  else if valid && codeInForce (fget F.MC_REGION_CODE_CODE v) != codeInForce (s.f F.MC_REGION_CODE_CODE i) then
    s.setB F.MC_ECC_STATUS_CFGERR 0 true
  else
    let w := s.b F.MC_REGION_CODE_WORLD i
    let s := s.wr .MC_REGION_CODE i v
    if valid && w != s.b F.MC_REGION_CODE_WORLD i then
      { (s.setB F.WC_STATUS_WALK_BUSY 0 true) with
        walks := (s.walks.filter fun x => x.region != i) ++ [{ region := i, world := s.b F.MC_REGION_CODE_WORLD i }] }
    else s

/-- REGION_WRITE, of MC_REGION_CODE(i) with code set and otherwise of MC_REGION_BASE(i). -/
def execRegionWrite (a : Access) (i : Nat) (code : Bool) (v : Word) (s : State) : Out :=
  if code then .next (guarded a true .MC_REGION_CODE i (regionCodeWrite i v) s)
  else .next (guarded a true .MC_REGION_BASE i (regionBaseWrite i v) s)

/-- WORLD_WALK_DONE: the walks reach their ends; WALK_BUSY stays while a recall of theirs is still open (R373). -/
def execWorldWalkDone (s : State) : Out := .next (worldWalk s)

/-! ## MC_INIT (R251) -/

/-- A write of MC_INIT. GO on a valid region writes zeros and their check fields, which are zero for every code, over the
whole range; older queued writes of the range are overwritten with it. -/
def mcInitWrite (v : Word) (s : State) : State :=
  let i := fget F.MC_INIT_REGION v
  if s.b F.MC_INIT_BUSY 0 then s.setB F.MC_INIT_ERR 0 true
  else if !vset F.MC_INIT_GO v then s.wr .MC_INIT 0 v
  else if !s.b F.MC_REGION_BASE_VALID i then s.setB F.MC_INIT_ERR 0 true
  else
    let s := ((s.wr .MC_INIT 0 v).setB F.MC_INIT_BUSY 0 true).setB F.MC_INIT_DONE 0 false
    { s with
      mem := s.mem.filter fun (a, _) => !regionHas i a s
      wrq := s.wrq.filter fun e => !regionHas i e.addr s
      initRun := some i, initWb := [] }

/-- MC_INIT. -/
def execMcInit (a : Access) (v : Word) (s : State) : Out := .next (guarded a true .MC_INIT 0 (mcInitWrite v) s)

/-- MC_INIT_DONE. A line written back during INIT holds zeros or the written data, whole; which is open. -/
def execMcInitDone (s : State) : Out :=
  if s.initRun.isNone then .next s
  else
    let s := s.initWb.foldl (fun (t : State) a =>
      (if t.freeBit then mcWrite a 0 0 t else t).bump) { s with initRun := none }
    .next (({ s with initWb := [] } : State).setB F.MC_INIT_BUSY 0 false |>.setB F.MC_INIT_DONE 0 true)

/-! ## Scrubbing and the leak (R253, R254, R256) -/

/-- The address of the line with index L' of controller k (R219, R220). -/
def lineOfL (k l : Nat) : Nat :=
  let a := l / 4 * 2 ^ 12 + l % 4 * 2 ^ 6
  a + (k ^^^ abits a 19 16 ^^^ abits a 27 24) * 2 ^ 8

/-- L' of the n-th line of sub-channel c, in ascending order: bits 6:5 of L' are those of the address that select the
sub-channel (R219). -/
def scrubLine (c n : Nat) : Nat :=
  let hi := n / 32
  hi * 128 + (c ^^^ (hi / 16 % 4)) * 32 + n % 32

/-- The lines of a sub-channel: a 64th of DRAM's (R218, R253). -/
def scrubLines (s : State) : Nat := s.sku.dramBytes / 2 ^ 12

/-- Steps that the scrubber of a sub-channel has made. -/
def scrubSteps (k c : Nat) (s : State) : Nat := smapGet (fun _ => 0) s.scrubAt (k * 4 + c)

/-- MC_SCRUB_STATUS(k): the passes that all four sub-channels have completed, and L' of the step that comes next in the
one that is furthest behind. -/
def scrubStatus (k : Nat) (s : State) : State :=
  let c := (List.range 4).foldl (fun b c => if scrubSteps k c s < scrubSteps k b s then c else b) 0
  let n := scrubSteps k c s
  (s.setF F.MC_SCRUB_STATUS_PASSES k (n / scrubLines s)).setF F.MC_SCRUB_STATUS_NEXT k (scrubLine c (n % scrubLines s))

/-- The region of an address is scrubbed: valid, SCRUB set and coded (R253). -/
def scrubbed (a : Nat) (s : State) : Bool :=
  match regionOf a s with
  | some i => s.b F.MC_REGION_CODE_SCRUB i && codeOf a s != 0
  | none => false

/-- SCRUB_STEP of a sub-channel. -/
def execScrubStep (k c : Nat) (s : State) : Out :=
  if !s.b F.MC_SCRUB_CTRL_EN 0 || s.fbit F.MC_STATUS_SELFREF k c then .next s
  else
    let n := scrubSteps k c s
    let a := lineOfL k (scrubLine c (n % scrubLines s))
    let s := if scrubbed a s && !isCheckAddr a s && !isRetired a s then
        (mcRead a 2 (s.setFbit F.MC_STATUS_PWRDN k c false)).2 else s
    .next (scrubStatus k { s with scrubAt := smapSet (fun _ => 0) s.scrubAt (k * 4 + c) (n + 1) })

/-- LEAK: every bucket above 0 loses 1. -/
def execLeak (s : State) : Out :=
  .next (iter 16 (fun k t => t.setF F.MC_CE_CNT_LEVEL k (t.f F.MC_CE_CNT_LEVEL k - 1)) s)

/-! ## Checker test mode (R260) -/

/-- A write of n to MC_ECC_TEST_CMD. -/
def testCmdWrite (a : Access) (n : Nat) (s : State) : State :=
  guarded a true .MC_ECC_TEST_CMD 0 (testWrite (Reg.key .MC_ECC_TEST_CMD 0) (BitVec.ofNat 64 n)) s

/-- RAW_READ. -/
def execRawRead (a : Access) (s : State) : Out := .next (testCmdWrite a 1 s)
/-- RAW_WRITE. -/
def execRawWrite (a : Access) (s : State) : Out := .next (testCmdWrite a 2 s)
/-- ENCODE. -/
def execEncode (a : Access) (s : State) : Out := .next (testCmdWrite a 3 s)
/-- ENCODE_POISON. -/
def execEncodePoison (a : Access) (s : State) : Out := .next (testCmdWrite a 4 s)

/-! ## Retired pages (R262, R568) -/

/-- A page added to RAS_PAGE_HIST unless the list holds it; a full list loses its oldest entry. -/
def pageHist (page : Nat) (s : State) : State :=
  let has := (List.range 256).any fun i => s.b F.RAS_PAGE_HIST_VALID i && s.f F.RAS_PAGE_HIST_PAGE i == page
  if has then s
  else
    let put (i : Nat) (s : State) : State := (s.setB F.RAS_PAGE_HIST_VALID i true).setF F.RAS_PAGE_HIST_PAGE i page
    match (List.range 256).find? fun i => !s.b F.RAS_PAGE_HIST_VALID i with
    | some i => put i s
    | none =>
      let i := s.histNext % 256
      put i ({ s with histNext := (i + 1) % 256 }.setB F.RAS_STATUS_HIST_OVF 0 true)

/-- A write of MC_RETIRE(i). -/
def retireWrite (i : Nat) (v : Word) (s : State) : State :=
  let s := s.wr .MC_RETIRE i v
  if vset F.MC_RETIRE_VALID v then pageHist (fget F.MC_RETIRE_PAGE v) s else s

/-- PAGE_RETIRE. -/
def execPageRetire (a : Access) (i : Nat) (v : Word) (s : State) : Out :=
  .next (guarded a true .MC_RETIRE i (retireWrite i v) s)

end Sys2Proof.Machine
end

