-- ==== Sys2Proof/Machine/Dma.lean ====
section
/-! DEFINITION. The DMA engines: channel programs, ZD64 descriptors, the slots of an engine, channel states and their
registers (R324 to R367, R605). -/
namespace Sys2Proof.Machine

/-! ## Channels -/

/-- The hidden state of channel c. -/
def State.ch (s : State) (c : Nat) : DmaCh := smapGet (fun _ => {}) s.dma c

/-- The same changed. -/
def State.onCh (s : State) (c : Nat) (f : DmaCh → DmaCh) : State :=
  { s with dma := smapSet (fun _ => {}) s.dma c (f (s.ch c)) }

/-- STATE of a channel: 0 IDLE, 1 RUNNING, 2 WAITING, 3 PAUSING, 4 PAUSED, 5 STOPPING, 6 ABORTING, 7 FAULTED (R366). -/
def chState (c : Nat) (s : State) : Nat := s.f F.DE_CH_STATUS_STATE c

/-- STATE changed. -/
def setChState (c st : Nat) (s : State) : State := s.setF F.DE_CH_STATUS_STATE c st

/-- The channel may be configured and its program written: idle, paused or faulted (R325). -/
def chQuiet (c : Nat) (s : State) : Bool := chState c s == 0 || chState c s == 4 || chState c s == 7

/-- The engine of a channel has its clock. -/
def chOn (c : Nat) (s : State) : Bool := !unitOff (268 + c / 64) s

/-- The world and the partition of a channel (R349). -/
def chWorld (c : Nat) (s : State) : Bool := s.b F.DE_CH_CFG_WORLD c
/-- The partition. -/
def chPart (c : Nat) (s : State) : Nat := s.f F.DE_CH_CFG_PART c

/-- General register i. -/
def chG (c i : Nat) (s : State) : Word := s.r .DE_CH_G (8 * c + i)
/-- General register i written. -/
def setChG (c i : Nat) (v : Word) (s : State) : State := s.setR .DE_CH_G (8 * c + i) v

/-- PC. -/
def chPc (c : Nat) (s : State) : Nat := s.f F.DE_CH_PC_PC c
/-- PC set, in its 13 bits. -/
def setChPc (c pc : Nat) (s : State) : State := s.setF F.DE_CH_PC_PC c pc

/-- Word w lies in the channel's window (R324). -/
def chInWin (c w : Nat) (s : State) : Bool :=
  decide (s.f F.DE_CH_WIN_BASE c ≤ w) && decide (w ≤ s.f F.DE_CH_WIN_LIMIT c)

/-- The channel raises its interrupt (R341, R355, R442). -/
def chIrq (c : Nat) (s : State) : State :=
  if s.pulses.contains (225 + c) then s else { s with pulses := s.pulses ++ [225 + c] }

/-- The open requests of channel c that are reads. -/
def chReads (c : Nat) (s : State) : Nat :=
  s.txs.countP fun t => t.phase == 0 && (match t.own with
    | .dma k _ _ => k == c
    | .dmaDead k => k == c
    | .dmaFlush k _ => k == c
    | .zdDesc k => k == c
    | _ => false)

/-- RD_OUT of the channel and of its engine follow the open reads (R352). -/
def chCount (c : Nat) (s : State) : State :=
  let s := s.setF F.DE_CH_STATUS_RD_OUT c (chReads c s)
  let j := c / 64
  s.setF F.DE_ENG_STATUS_RD_OUT j ((List.range 64).foldl (fun n k => n + s.f F.DE_CH_STATUS_RD_OUT (64 * j + k)) 0)

/-- The channel's reads will be discarded when they are answered (R346, R359). -/
def chDrop (c : Nat) (s : State) : State :=
  { s with txs := s.txs.map fun t => match t.own with
      | .dma k _ _ => if k = c then { t with own := .dmaDead c } else t
      | .zdDesc k => if k = c then { t with own := .dmaDead c } else t
      | .dmaFlush k _ => if k = c then { t with own := .dmaDead c } else t
      | _ => t }

/-- A channel completes (R354). -/
def chDone (c : Nat) (s : State) : State :=
  ((setChState c 0 s).setB F.DE_CH_STATUS_DONE c true).wrapInc F.DE_CH_STATUS_RUNS c

/-! ## Requests of an engine (R328) -/

/-- A packet leaves engine j: class GT takes a window whose source is the engine (R275, R278). -/
def sendEng (j : Nat) (p : Packet) (s : State) : State :=
  let s := if p.cls = .gt then gtLaunch (windowFor (12 + j) (some p.part) s) false s else s
  s.sendP p

/-- A request of channel c opened and sent. -/
def chOpen (c : Nat) (own : TxOwner) (p : Packet) (s : State) : State :=
  let src := 0x110 + c / 64
  let tag := newTag src s
  let p := { p with src := src, tag := tag, w := chWorld c s, part := chPart c s }
  let s := { s with txs := s.txs ++
    [{ src := src, tag := tag, tgt := p.dst, addr := p.addr, op := p.op, own := own, w := p.w, part := p.part,
       t0 := s.tb }] }
  chCount c (sendEng (c / 64) p s)

/-- A PCIe root window or a Paleg remote window (R32). -/
def inWindows (a : Nat) : Bool := decide (0x008000000000 ≤ a) && decide (a < 0x00FF00000000)

/-- On-package MMIO (R32). -/
def inMmio (a : Nat) : Bool := decide (0xFF0000000000 ≤ a) && decide (a < 2 ^ 48)

/-- The ranges of R328: 0 DRAM, 1 PCIe and Paleg windows, 2 on-package MMIO, 3 none. -/
def rangeOf (a : Nat) (s : State) : Nat := if inDram a s then 0 else if inWindows a then 1 else if inMmio a then 2 else 3

/-- Where a request for a physical address goes. -/
def chDst (a : Nat) (s : State) : Nat := if inDram a s then 0x100 + mcOf a else ioAgent (ioTarget a s)

/-- A read of n bytes at physical address a (R268, R269). -/
def chRead (c : Nat) (own : TxOwner) (cls : TClass) (a n : Nat) (s : State) : State :=
  chOpen c own { op := if inDram a s then .rdNC else .rdIO, cls := cls, dst := chDst a s, addr := lineOf a,
                 aux := BitVec.ofNat 32 (a % 64 + (n - 1) % 32 * 64) } s

/-- A write of n bytes at physical address a, of the channel's address va. -/
def chWrite (c : Nat) (own : TxOwner) (cls : TClass) (a n v va : Nat) (s : State) : State :=
  let s := chOpen c own { op := if inDram a s then .wrNC else .wrIO, cls := cls, dst := chDst a s, addr := lineOf a,
                          data := true, mask := byteMask (a % 64) n, payload := linePut 0 (a % 64) n v } s
  if inWindows a then
    s.onCh c fun h => { h with ports := (chDst a s, a, va) :: h.ports.filter fun (k, _) => k != chDst a s }
  else s

/-- The engine writes the STATUS byte of a descriptor (R362). -/
def zdStatusWrite (c : Nat) (d : DmaDesc) (v : Nat) (s : State) : State :=
  let va := s.f F.DE_CH_DESC_DESC c * 32 + 23
  chWrite c (.zdStatus c va) .be (d.pa + 23) 1 v va s

/-! ## Faults (R345, R346, R362) -/

/-- A fault of channel c: the record, FAULTED and the interrupt. fpc and faddr are those of the failed access; a fault
found before any access has no address, and what FADDR then holds is open. A fault of a ZD64 descriptor that has been
fetched writes its STATUS first; silent: it does not (R362). -/
def chFault (c code fpc : Nat) (faddr : Option Nat) (s : State) (silent : Bool := false) : State :=
  let mode1 := s.b F.DE_CH_CFG_MODE c
  let fa : Word := match faddr with
    | some a => BitVec.ofNat 64 a
    | none => s.freeWord
  let s := (((s.bump.setR .DE_CH_FAULT c 0).setF F.DE_CH_FAULT_CODE c code).setF F.DE_CH_FAULT_FPC c
    (if mode1 then 0 else fpc)).setR .DE_CH_FADDR c fa
  let h := s.ch c
  let s := match mode1 && !silent, h.desc with
    | true, some d => if d.fetched then zdStatusWrite c d code s else s
    | _, _ => s
  let s := chDrop c s
  let s := s.onCh c fun h => { h with
    cont := match h.move with
      | some m => m.done
      | none => h.cont,
    move := none, desc := none, fence := false }
  chIrq c (setChState c 7 (chCount c s))

/-- A fault found before any access, at the instruction at PC. -/
def chIll (c code : Nat) (s : State) : State := chFault c code (chPc c s) none s

/-! ## The slots of an engine (R351 to R353) -/

/-- The channel is inside an instruction or descriptor. -/
def chBusy (c : Nat) (s : State) : Bool :=
  let h := s.ch c
  h.move.isSome || h.fence || h.desc.isSome

/-- The channel is ready for the instruction slot. -/
def chReadyI (c : Nat) (s : State) : Bool :=
  chOn c s && (chState c s == 1 || chState c s == 5) && !chBusy c s

/-- The effective priority of a channel that has waited n cycles. -/
def chPrio (c n : Nat) (s : State) : Nat :=
  let age := s.f F.DE_ENG_CTRL_AGE (c / 64)
  if age ≠ 0 ∧ age ≤ n then 7 else s.f F.DE_CH_CFG_PRIO c

/-- The channel to which engine j gives a slot (0 instruction, 1 access) among those that ready selects. -/
def chWinner (j slot : Nat) (ready : Nat → State → Bool) (s : State) : Option Nat :=
  let wait (c : Nat) : Nat := if slot = 0 then (s.ch c).waitI else (s.ch c).waitA
  let cand := ((List.range 64).map (64 * j + ·)).filter fun c => ready c s
  let best := cand.foldl (fun m c => max m (chPrio c (wait c) s)) 0
  let ptr := smapGet (fun _ => 0) s.dmaPtr ((2 * j + slot) * 8 + best)
  let order := (List.range 64).map fun k => 64 * j + (ptr + k) % 64
  order.find? fun c => ready c s && chPrio c (wait c) s == best

/-- The slot is granted to c: its pointer moves, its age restarts, and the other candidates age. -/
def chGrant (c slot : Nat) (ready : Nat → State → Bool) (s : State) : State :=
  let j := c / 64
  let wait (k : Nat) : Nat := if slot = 0 then (s.ch k).waitI else (s.ch k).waitA
  let set (k n : Nat) (t : State) : State :=
    t.onCh k fun h => if slot = 0 then { h with waitI := n } else { h with waitA := n }
  let p := chPrio c (wait c) s
  let t := { s with dmaPtr := smapSet (fun _ => 0) s.dmaPtr ((2 * j + slot) * 8 + p) ((c % 64 + 1) % 64) }
  (List.range 64).foldl (fun t i =>
    let k := 64 * j + i
    if k = c ∨ !ready k s then set k 0 t else set k (min (wait k + 1) 65535) t) t

/-! ## Instruction words (R329, R367) -/

/-- Bits hi to lo of a word, as a number. -/
def wb (w : Word) (hi lo : Nat) : Nat := bits w hi lo

/-- OP of a word. -/
def opOf (w : Word) : Nat := wb w 63 60

/-- The word at index w of engine j as it is fetched: ecc 1, corrected and counted; ecc 2, uncorrectable, all ones. -/
def progFetch (j w ecc : Nat) (s : State) : Word × State :=
  if ecc = 2 then
    let s := s.setB F.DE_ENG_STATUS_PS_UE j true
    (BitVec.ofNat 64 (2 ^ 64 - 1), report 0x0B 3 false none 0 (0x110 + j) (w * 2 ^ 16 + j) s)
  else (s.r .DE_PROG (j * 8192 + w), if ecc = 1 then s.satInc F.DE_ENG_STATUS_PS_CE j else s)

/-- Every bit from hi to lo is 0. -/
def zeroBits (w : Word) (hi lo : Nat) : Bool := wb w hi lo == 0

/-- One instruction of channel c whose OP is in ops, executed by run when the channel holds the instruction slot of its
engine. A PC outside the window, and a word with an undefined OP, fault whichever instruction was expected. -/
def chInstr (c ecc : Nat) (mine : Word → Bool) (run : Word → State → State) (s : State) : Out :=
  if s.b F.DE_CH_CFG_MODE c || chWinner (c / 64) 0 chReadyI s != some c then .next s
  else
    let go (s : State) : State := chGrant c 0 chReadyI s
    let pc := chPc c s
    if !chInWin c pc s then .next (chFault c 2 pc none (go s))
    else
      let (w, t) := progFetch (c / 64) pc ecc s
      if 0xB < opOf w then .next (chIll c 1 (go t))
      else if mine w then .next (run w (go t))
      else .next s

/-- The next instruction. -/
def chNext (c : Nat) (s : State) : State := setChPc c (chPc c s + 1) s

/-! ## MOVE and MOVE2D (R330 to R332) -/

/-- The bytes that a MOVE copies. -/
def moveTotal (m : DmaMove) : Nat := m.rows * m.rowLen

/-- The channel address of byte off of a side. -/
def sideAddr (base : Nat) (stride : Int) (fix : Bool) (rowLen off : Nat) : Nat :=
  if fix then base
  else (((base : Int) + stride * (off / rowLen : Nat) + (off % rowLen : Nat)) % (2 ^ 64 : Int)).toNat

/-- The source address of byte off. -/
def srcAddr (m : DmaMove) (off : Nat) : Nat := sideAddr m.src m.ss m.sfix m.rowLen off
/-- The destination address of byte off. -/
def dstAddr (m : DmaMove) (off : Nat) : Nat := sideAddr m.dst m.ds m.dfix m.rowLen off

/-- The size of the access that begins at byte off: the rest of the row, inside one unit of g bytes. -/
def unitLen (m : DmaMove) (a off g : Nat) : Nat := min (m.rowLen - off % m.rowLen) (g - a % g)

/-- The size of the read at byte off, at physical address pa: ESIZE for a fixed side; a line of DRAM, 16 bytes of a window,
8 bytes of MMIO (R328). -/
def readLen (m : DmaMove) (off pa : Nat) : Nat :=
  if m.sfix then m.esz
  else unitLen m pa off (if inWindows pa then 16 else if inMmio pa then 8 else 64)

/-- The size of the write at byte off. -/
def writeLen (m : DmaMove) (off pa : Nat) : Nat :=
  if m.dfix then m.esz else unitLen m pa off (if inMmio pa then 8 else 64)

/-- The lowest address of a side over all its rows, and the first address after it. -/
def sideRange (base : Nat) (stride : Int) (rows rowLen : Nat) : Int × Int :=
  let last : Int := base + stride * (rows - 1 : Nat)
  (min (base : Int) last, max (base : Int) last + rowLen)

/-- A side that is fixed, or begins in the MMIO range: the alignment of its addresses and lengths (R332). -/
def sideFault (base : Nat) (stride : Int) (fix : Bool) (esz rows rowLen : Nat) : Option Nat :=
  let g := if fix then esz else if inMmio base then 8 else 1
  if base % g ≠ 0 ∨ (1 < rows ∧ stride % (g : Int) ≠ 0) then some 5
  else if rowLen % g ≠ 0 then some 6 else none

/-- The check that fails before any access. -/
def moveFault (m : DmaMove) : Option Nat :=
  let a := sideFault m.src m.ss m.sfix m.esz m.rows m.rowLen
  let b := sideFault m.dst m.ds m.dfix m.esz m.rows m.rowLen
  if a = some 5 ∨ b = some 5 then some 5
  else if a = some 6 ∨ b = some 6 then some 6
  else
    let (sl, sh) := sideRange m.src m.ss m.rows m.rowLen
    let (dl, dh) := sideRange m.dst m.ds m.rows m.rowLen
    if !m.sfix && !m.dfix && decide (sl < dh) && decide (dl < sh) then some 7 else none

/-- A MOVE starts: checked, or with nothing to move complete at once with MOVED := 0. A resumed one goes on from its byte
(R358). -/
def moveStart (c : Nat) (m : DmaMove) (ended : State → State) (s : State) : State :=
  if moveTotal m = 0 then ended (s.setF F.DE_CH_MOVED_VAL c 0)
  else
    match moveFault m with
    | some code => chIll c code s
    | none =>
      let at' := (s.ch c).cont
      (s.onCh c fun h => { h with move := some { m with next := at', done := at' }, cont := 0 }).setF
        F.DE_CH_MOVED_VAL c at'

/-- SINC and DINC are applied. -/
def moveInc (c : Nat) (m : DmaMove) (s : State) : State :=
  let add (r : Option (Nat × Int)) (s : State) : State :=
    match r with
    | some (i, n) => setChG c i (chG c i s + BitVec.ofInt 64 n) s
    | none => s
  add m.dreg (add m.sreg s)

/-- The class of a MOVE: GT, HP, BE. -/
def moveClass : Nat → Option TClass
  | 0 => some .gt
  | 1 => some .hp
  | 2 => some .be
  | _ => none

/-- A register's low or high half as a signed 32-bit stride. -/
def stride32 (n : Nat) : Int := signedOf 4 n

/-- MOVE. -/
def dmaMove (c : Nat) (w : Word) (s : State) : State :=
  match moveClass (wb w 47 46), zeroBits w 41 24 with
  | some cls, true =>
    let src := wb w 59 57
    let dst := wb w 56 54
    let len := if bit w 50 then (chG c (wb w 53 51) s).toNat % 2 ^ 32 else wb w 23 0
    let m : DmaMove := { src := (chG c src s).toNat, dst := (chG c dst s).toNat, rowLen := len, cls := cls, sfix := bit w 45,
                         dfix := bit w 44, esz := 2 ^ wb w 43 42, sreg := if bit w 49 then some (src, (len : Int)) else none,
                         dreg := if bit w 48 then some (dst, (len : Int)) else none }
    moveStart c m (chNext c) s
  | _, _ => chIll c 1 s

/-- MOVE2D. -/
def dmaMove2D (c : Nat) (w : Word) (s : State) : State :=
  match moveClass (wb w 47 46), zeroBits w 50 50 && zeroBits w 45 40 with
  | some cls, true =>
    let src := wb w 59 57
    let dst := wb w 56 54
    let pair := (chG c (wb w 53 51) s).toNat
    let rows := wb w 39 24
    let ss := stride32 pair
    let ds := stride32 (pair / 2 ^ 32)
    let zero := rows = 0 ∨ wb w 23 0 = 0
    let m : DmaMove := { src := (chG c src s).toNat, dst := (chG c dst s).toNat, ss := ss, ds := ds, rows := rows,
                         rowLen := wb w 23 0, cls := cls, sreg := if bit w 49 ∧ !zero then some (src, rows * ss) else none,
                         dreg := if bit w 48 ∧ !zero then some (dst, rows * ds) else none }
    moveStart c m (chNext c) s
  | _, _ => chIll c 1 s

/-- The MOVE in progress has written its last byte. -/
def moveEnded (c : Nat) (s : State) : Bool :=
  match (s.ch c).move with
  | some m => m.done == moveTotal m
  | none => false

/-- A native MOVE completes: SINC and DINC, and the next instruction (R332). -/
def moveEnd (c : Nat) (s : State) : State :=
  match (s.ch c).move with
  | some m => chNext c (moveInc c m (s.onCh c fun h => { h with move := none }))
  | none => s

/-- A channel in PAUSING with no read open and every byte read written reaches PAUSED (R355, R356). -/
def chPaused (c : Nat) (s : State) : State :=
  if chState c s ≠ 3 ∨ chReads c s ≠ 0 then s
  else
    let s := if moveEnded c s && !s.b F.DE_CH_CFG_MODE c then moveEnd c s else s
    match (s.ch c).move with
    | some m =>
      if m.rds.isEmpty then
        setChState c 4 ((s.onCh c fun h => { h with
          cont := m.done, move := if s.b F.DE_CH_CFG_MODE c then h.move else none }).setB F.DE_CH_STATUS_PARTIAL c true)
      else s
    | none =>
      setChState c 4 (s.onCh c fun h => { h with
        fence := false
        desc := match h.desc with
          | some d => if d.fetched then some d else none
          | none => none })

/-- A channel in ABORTING with no read open becomes IDLE (R359). -/
def chAborted (c : Nat) (s : State) : State :=
  if chState c s = 6 ∧ chReads c s = 0 then (setChState c 0 s).setB F.DE_CH_STATUS_ABORTED c true else s

/-- MOVE_COMPLETE: the last write of a MOVE or MOVE2D has left the engine. -/
def execMoveComplete (c : Nat) (s : State) : Out :=
  .next (if moveEnded c s && !s.b F.DE_CH_CFG_MODE c && chState c s == 1 then moveEnd c s else s)

/-- MOVE. -/
def execMove (c ecc : Nat) (s : State) : Out := chInstr c ecc (fun w => opOf w == 1) (dmaMove c) s
/-- MOVE2D. -/
def execMove2D (c ecc : Nat) (s : State) : Out := chInstr c ecc (fun w => opOf w == 2) (dmaMove2D c) s

/-! ## The access slot (R328, R333, R351, R352, R605) -/

/-- The bytes read in order from the front of the buffer. -/
def rdAvail : List DmaRd → Nat
  | [] => 0
  | r :: rs => if r.val.isSome then r.len + rdAvail rs else 0

/-- The first n bytes of the buffer as a number. -/
def rdTake : Nat → List DmaRd → Nat
  | 0, _ => 0
  | _, [] => 0
  | n, r :: rs =>
    let v := r.val.getD 0
    if n ≤ r.len then v % 2 ^ (8 * n) else v + 2 ^ (8 * r.len) * rdTake (n - r.len) rs

/-- The buffer without its first n bytes. -/
def rdSkip : Nat → List DmaRd → List DmaRd
  | 0, rs => rs
  | _, [] => []
  | n, r :: rs =>
    if r.len ≤ n then rdSkip (n - r.len) rs
    else { off := r.off + n, len := r.len - n, val := r.val.map (· / 2 ^ (8 * n)) } :: rs

/-- The next write of a MOVE can be issued: the bytes of its whole access have been read; while PAUSING, with no read open,
the bytes read are enough (R356). The size is judged by the channel address, whose low bits are those of the physical
one. -/
def writeReady (c : Nat) (m : DmaMove) (s : State) : Bool :=
  let n := rdAvail m.rds
  decide (0 < n) && (decide (writeLen m m.done (dstAddr m m.done) ≤ n) || (chState c s == 3 && chReads c s == 0))

/-- The next read of a MOVE can be issued. -/
def readReady (c : Nat) (m : DmaMove) (s : State) : Bool :=
  (chState c s == 1 || chState c s == 5) && decide (m.next < moveTotal m) && decide (chReads c s < 16) &&
    decide (s.f F.DE_ENG_STATUS_RD_OUT (c / 64) < 256)

/-- The channel is ready for the access slot. -/
def chReadyA (c : Nat) (s : State) : Bool :=
  chOn c s && (chState c s == 1 || chState c s == 3 || chState c s == 5) &&
    match (s.ch c).move with
    | some m => writeReady c m s || readReady c m s
    | none => false

/-- The code of a fault on an access to physical address pa of n bytes, found when it would be issued: no range, or MMIO
not in aligned 8-byte accesses (R605). -/
def accFault (pa n : Nat) (fix : Bool) (s : State) : Option Nat :=
  if rangeOf pa s = 3 then some 0x0A
  else if inMmio pa && !fix && pa % 8 != 0 then some 5
  else if inMmio pa && !fix && n != 8 then some 6 else none

/-- The next read is issued, at the physical address that the translation gives. -/
def issueRead (c : Nat) (m : DmaMove) (x : Xlate) (s : State) : State :=
  let va := srcAddr m m.next
  match x with
  | .fault _ _ => chFault c 8 (chPc c s) (some va) (iommuFault x (0x80000 + c) va false s)
  | .ok pa _ _ =>
    let n := readLen m m.next pa
    match accFault pa n m.sfix s with
    | some code => chFault c code (chPc c s) (some va) s
    | none =>
      let s := s.onCh c fun h => { h with
        move := some { m with next := m.next + n, rds := m.rds ++ [{ off := m.next, len := n }] } }
      chRead c (.dma c m.next n) m.cls pa n s

/-- The next write is issued, and leaves the engine. -/
def issueWrite (c : Nat) (m : DmaMove) (x : Xlate) (s : State) : State :=
  let va := dstAddr m m.done
  match x with
  | .fault _ _ => chFault c 8 (chPc c s) (some va) (iommuFault x (0x80000 + c) va true s)
  | .ok pa _ _ =>
    let n := min (writeLen m m.done pa) (rdAvail m.rds)
    match accFault pa n (m.dfix || chState c s == 3) s with
    | some code => chFault c code (chPc c s) (some va) s
    | none =>
      let fpc := if s.b F.DE_CH_CFG_MODE c then 0 else chPc c s
      let v := rdTake n m.rds
      let s := s.onCh c fun h => { h with move := some { m with done := m.done + n, rds := rdSkip n m.rds } }
      chPaused c (chWrite c (.dmaWrite c fpc va) m.cls pa n v va (s.setF F.DE_CH_MOVED_VAL c (m.done + n)))

/-- ACCESS_SLOT_GRANT: engine j grants its access slot; the granted channel issues a write or a read, which one the operand
chooses where both are ready. x is the translation of the access's address in the channel's IOMMU context (R328). -/
def execAccessSlotGrant (j : Nat) (write : Bool) (x : Xlate) (s : State) : Out :=
  match chWinner j 1 chReadyA s with
  | none => .next s
  | some c =>
    match (s.ch c).move with
    | none => .next s
    | some m =>
      let t := chGrant c 1 chReadyA s
      if writeReady c m s && (write || !readReady c m s) then .next (issueWrite c m x t) else .next (issueRead c m x t)

/-! ## Control flow (R334 to R337) -/

/-- The levels of the loop stack: the valid levels from 0 up. -/
def chDepth (c : Nat) (s : State) : Nat :=
  ((List.range 4).takeWhile fun l => s.b F.DE_CH_LOOP_VALID (4 * c + l)).length

/-- DEPTH follows the stack. -/
def chDepthSync (c : Nat) (s : State) : State := s.setF F.DE_CH_PC_DEPTH c (chDepth c s)

/-- n levels popped. -/
def loopPop (c n : Nat) (s : State) : State :=
  let d := chDepth c s
  chDepthSync c (iter 4 (fun l t => if d - n ≤ l then t.setR .DE_CH_LOOP (4 * c + l) 0 else t) s)

/-- LOOP. ecc2 is what the fetch of the ENDLOOP word meets. -/
def dmaLoop (c ecc2 : Nat) (w : Word) (s : State) : State :=
  let pc := chPc c s
  let elen := wb w 47 32
  let inf := bit w 59
  let count := if bit w 58 then (chG c (wb w 57 55) s).toNat % 2 ^ 32 else wb w 31 0
  if !zeroBits w 54 48 || elen == 0 then chIll c 1 s
  else if !chInWin c (pc + elen) s then chIll c 2 s
  else
    let (e, s) := progFetch (c / 64) (pc + elen) ecc2 s
    if opOf e ≠ 4 then chIll c 4 s
    else if !inf && count == 0 then setChPc c (pc + elen + 1) s
    else
      let d := chDepth c s
      if d = 4 then chIll c 3 s
      else
        let i := 4 * c + d
        let s := (((s.setB F.DE_CH_LOOP_VALID i true).setB F.DE_CH_LOOP_INF i inf).setF F.DE_CH_LOOP_START i (pc + 1)).setF
          F.DE_CH_LOOP_COUNT i count
        chNext c (chDepthSync c s)

/-- ENDLOOP. -/
def dmaEndLoop (c : Nat) (w : Word) (s : State) : State :=
  let d := chDepth c s
  if !zeroBits w 59 0 then chIll c 1 s
  else if d = 0 then chIll c 3 s
  else
    let i := 4 * c + (d - 1)
    let start := s.f F.DE_CH_LOOP_START i
    if s.b F.DE_CH_LOOP_INF i then setChPc c start s
    else
      let n := s.f F.DE_CH_LOOP_COUNT i - 1
      if n = 0 then chNext c (loopPop c 1 s) else setChPc c start (s.setF F.DE_CH_LOOP_COUNT i n)

/-- A branch by a signed offset that first pops levels (R336). -/
def dmaBranch (c pop off : Nat) (s : State) : State :=
  let target : Int := (chPc c s : Int) + signedOf 2 off
  if chDepth c s < pop then chIll c 3 s
  else if target < 0 ∨ !chInWin c target.toNat s then chIll c 2 s
  else setChPc c target.toNat (loopPop c pop s)

/-- JUMP. -/
def dmaJump (c : Nat) (w : Word) (s : State) : State :=
  if !zeroBits w 56 16 || decide (4 < wb w 59 57) then chIll c 1 s else dmaBranch c (wb w 59 57) (wb w 15 0) s

/-- BRZ. -/
def dmaBrz (c : Nat) (w : Word) (s : State) : State :=
  if !zeroBits w 52 16 || decide (4 < wb w 59 57) then chIll c 1 s
  else
    let i := wb w 56 54
    let s := if bit w 53 then setChG c i (chG c i s - 1) s else s
    if chG c i s = 0 then dmaBranch c (wb w 59 57) (wb w 15 0) s else chNext c s

/-- SETR. -/
def dmaSetr (c : Nat) (w : Word) (s : State) : State :=
  let d := wb w 59 57
  if !zeroBits w 55 48 then chIll c 1 s
  else
    let v : Word := if bit w 56 then BitVec.ofNat 64 ((chG c d s).toNat % 2 ^ 48 + wb w 15 0 * 2 ^ 48)
      else extend true 6 (wb w 47 0)
    chNext c (setChG c d v s)

/-- ADDR. -/
def dmaAddr (c : Nat) (w : Word) (s : State) : State :=
  let k := wb w 49 44
  if !zeroBits w 43 32 || decide (47 < k) then chIll c 1 s
  else
    let g := chG c (wb w 56 54) s
    let sum := g + extend true 4 (wb w 31 0) + (if bit w 50 then chG c (wb w 53 51) s else 0)
    let m : Word := BitVec.ofNat 64 (2 ^ k - 1)
    chNext c (setChG c (wb w 59 57) (if k = 0 then sum else (g &&& ~~~ m) ||| (sum &&& m)) s)

/-- LOOP. -/
def execLoop (c ecc ecc2 : Nat) (s : State) : Out := chInstr c ecc (fun w => opOf w == 3) (dmaLoop c ecc2) s
/-- ENDLOOP. -/
def execEndLoop (c ecc : Nat) (s : State) : Out := chInstr c ecc (fun w => opOf w == 4) (dmaEndLoop c) s
/-- JUMP. -/
def execJump (c ecc : Nat) (s : State) : Out := chInstr c ecc (fun w => opOf w == 0xA) (dmaJump c) s
/-- BRZ. -/
def execBrz (c ecc : Nat) (s : State) : Out := chInstr c ecc (fun w => opOf w == 0xB) (dmaBrz c) s
/-- SETR. -/
def execSetr (c ecc : Nat) (s : State) : Out := chInstr c ecc (fun w => opOf w == 8) (dmaSetr c) s
/-- ADDR. -/
def execAddr (c ecc : Nat) (s : State) : Out := chInstr c ecc (fun w => opOf w == 9) (dmaAddr c) s

/-- HALT: every earlier write has left, since a MOVE ends with its last write (R343). -/
def dmaHalt (c : Nat) (w : Word) (s : State) : State :=
  if !zeroBits w 59 16 || !zeroBits w 14 8 then chIll c 1 s
  else
    let s := if bit w 15 then chIrq c (s.setF F.DE_CH_EVT_CODE c (wb w 7 0)) else s
    chDone c s

/-- HALT. -/
def execHalt (c ecc : Nat) (s : State) : Out := chInstr c ecc (fun w => opOf w == 0) (dmaHalt c) s

/-! ## Waits, events and semaphores (R338 to R341) -/

/-- The semaphore of engine j. -/
def semIx (j n : Nat) : Nat := 64 * j + n

/-- The semaphore belongs to the channel's partition and world. -/
def semOk (c i : Nat) (s : State) : Bool :=
  s.f F.DE_SEM_PART i == chPart c s && s.b F.DE_SEM_WORLD i == chWorld c s

/-- The condition of a WAIT holds, and the state that consumes it. -/
def waitTake (c : Nat) (w : Word) (s : State) : Option State :=
  let pend := s.f F.DE_CH_EVT_PEND c
  let mask := wb w 7 0
  let hit := pend &&& mask
  match wb w 59 58 with
  | 0 => if hit ≠ 0 then some (s.setF F.DE_CH_EVT_PEND c (pend ^^^ hit)) else none
  | 1 => if hit = mask then some (s.setF F.DE_CH_EVT_PEND c (pend ^^^ hit)) else none
  | _ =>
    let i := semIx (c / 64) (wb w 13 8)
    let n := wb w 23 16
    if n ≤ s.f F.DE_SEM_COUNT i then some (s.setF F.DE_SEM_COUNT i (s.f F.DE_SEM_COUNT i - n)) else none

/-- A WAIT word that its encoding rejects. -/
def waitIll (w : Word) : Bool :=
  let k := wb w 59 58
  !zeroBits w 57 40 || !zeroBits w 15 14 || k == 3 || (k == 2 && wb w 23 16 == 0) || (decide (k < 2) && wb w 7 0 == 0)

/-- WAIT: it completes at once or begins to wait. -/
def dmaWait (c : Nat) (w : Word) (s : State) : State :=
  if waitIll w then chIll c 1 s
  else if wb w 59 58 = 2 ∧ !semOk c (semIx (c / 64) (wb w 13 8)) s then chIll c 0xE s
  else
    match waitTake c w s with
    | some s => chNext c s
    | none =>
      let n := s.dmaTurn
      setChState c 2 ({ s with dmaTurn := n + 1 }.onCh c fun h => { h with since := n, waitTb := s.tb })

/-- The WAIT at which a channel stands. -/
def waitWord (c : Nat) (s : State) : Word := s.r .DE_PROG (c / 64 * 8192 + chPc c s)

/-- A waiting channel whose condition has come to hold runs on (R338). -/
def waitTry (c : Nat) (s : State) : State :=
  if chState c s ≠ 2 then s
  else
    match waitTake c (waitWord c s) s with
    | some s => chNext c (setChState c 1 s)
    | none => s

/-- Event bit e of channel c is set by an unblock or a SIGNAL (R339). -/
def evtSet (c e : Nat) (s : State) : State :=
  let s := if s.fbit F.DE_CH_EVT_PEND c e then s.setFbit F.DE_CH_EVT_OVR c e true else s.setFbit F.DE_CH_EVT_PEND c e true
  waitTry c s

/-- A channel into a list in the order in which the waits began. -/
def bySince (s : State) (c : Nat) : List Nat → List Nat
  | [] => [c]
  | x :: r => if (s.ch c).since < (s.ch x).since then c :: x :: r else x :: bySince s c r

/-- The waits on semaphores of engine j are tested in the order in which they began (R340). -/
def semWake (j : Nat) (s : State) : State :=
  let ws := ((List.range 64).map (64 * j + ·)).filter fun c => chState c s == 2 && wb (waitWord c s) 59 58 == 2
  (ws.foldl (fun l c => bySince s c l) []).foldl (fun t c => waitTry c t) s

/-- N added to a semaphore (R340). -/
def semAdd (i n : Nat) (s : State) : State :=
  let v := s.f F.DE_SEM_COUNT i + n
  let s := if 65535 < v then s.setB F.DE_SEM_OVF i true else s
  semWake (i / 64) (s.setF F.DE_SEM_COUNT i (min v 65535))

/-- SIGNAL SEM. -/
def dmaSignalSem (c : Nat) (w : Word) (s : State) : State :=
  let n := wb w 23 16
  let i := semIx (c / 64) (wb w 13 8)
  if n = 0 ∨ !(zeroBits w 31 24 && zeroBits w 15 14 && zeroBits w 7 0) ∨ !zeroBits w 53 48 ∨ !zeroBits w 39 32 then
    chIll c 1 s
  else if !semOk c i s then chIll c 0xE s
  else chNext c (semAdd i n s)

/-- SIGNAL EVT. -/
def dmaSignalEvt (c : Nat) (w : Word) (s : State) : State :=
  let t := wb w 47 40
  if !zeroBits w 31 3 || !zeroBits w 53 48 || !zeroBits w 39 32 then chIll c 1 s
  else if chPart t s ≠ chPart c s ∨ chWorld t s ≠ chWorld c s then chIll c 0xE s
  else evtSet t (wb w 2 0) (chNext c s)

/-- SIGNAL IRQ. -/
def dmaSignalIrq (c : Nat) (w : Word) (s : State) : State :=
  if !zeroBits w 31 8 || !zeroBits w 53 48 || !zeroBits w 39 32 then chIll c 1 s
  else chNext c (chIrq c (s.setF F.DE_CH_EVT_CODE c (wb w 7 0)))

/-- SIGNAL WRITE, in class HP. -/
def dmaSignalWrite (c : Nat) (x : Xlate) (w : Word) (s : State) : State :=
  let va := (chG c (wb w 56 54) s).toNat
  let pc := chPc c s
  if !zeroBits w 53 48 || !zeroBits w 39 32 then chIll c 1 s
  else if va % 8 ≠ 0 then chIll c 5 s
  else match x with
    | .fault _ _ => chFault c 8 pc (some va) (iommuFault x (0x80000 + c) va true s)
    | .ok pa _ _ =>
      if rangeOf pa s = 3 then chFault c 0x0A pc (some va) s
      else chNext c (chWrite c (.dmaWrite c pc va) .hp pa 8 (wb w 31 0) va s)

/-- A SIGNAL word of kind k; a kind that is not listed is executed, and faults, with SIGNAL WRITE's. -/
def isSignal (k : Nat) (w : Word) : Bool := opOf w == 6 && wb w 59 57 == k

/-- WAIT. -/
def execWait (c ecc : Nat) (s : State) : Out := chInstr c ecc (fun w => opOf w == 5) (dmaWait c) s
/-- SIGNAL_SEM. -/
def execSignalSem (c ecc : Nat) (s : State) : Out := chInstr c ecc (isSignal 0) (dmaSignalSem c) s
/-- SIGNAL_EVT. -/
def execSignalEvt (c ecc : Nat) (s : State) : Out := chInstr c ecc (isSignal 1) (dmaSignalEvt c) s
/-- SIGNAL_IRQ. -/
def execSignalIrq (c ecc : Nat) (s : State) : Out := chInstr c ecc (isSignal 2) (dmaSignalIrq c) s
/-- SIGNAL_WRITE. A SIGNAL of an unlisted kind faults here. -/
def execSignalWrite (c ecc : Nat) (x : Xlate) (s : State) : Out :=
  chInstr c ecc (fun w => opOf w == 6 && decide (3 ≤ wb w 59 57))
    (fun w s => if wb w 59 57 = 3 then dmaSignalWrite c x w s else chIll c 1 s) s

/-- WAIT_TIMEOUT: TMO microseconds of the timebase have passed since the WAIT began (R338). -/
def execWaitTimeout (c : Nat) (s : State) : Out :=
  let tmo := wb (waitWord c s) 39 24
  .next (if chState c s = 2 ∧ tmo ≠ 0 ∧ tmo * tbMicro ≤ (s.tb - (s.ch c).waitTb).toNat then chIll c 0xD s else s)

/-- DMA_UNBLOCK: an unblock reaches its channel. -/
def execDmaUnblock (c evt : Nat) (s : State) : Out :=
  match s.out.find? fun m => match m with
      | .dmaUnblock k e _ _ => k == c && e == evt
      | _ => false with
  | some m => .next (evtSet c (evt % 8) (s.take m))
  | none => .next s

/-- A write of DE_CH_EVT(c): PEND bits set, which can end a WAIT, and flags cleared (R347). -/
def evtWrite (c : Nat) (v : Word) (s : State) : State := waitTry c (s.wr .DE_CH_EVT c v)

/-- PEND_WRITE. -/
def execPendWrite (a : Access) (c : Nat) (v : Word) (s : State) : Out :=
  .next (guarded a true .DE_CH_EVT c (evtWrite c v) s)

/-- A write of DE_SEM(i): WORLD by Secure accesses of P0 only, PART by P0 only (R348). -/
def semWrite (a : Access) (i : Nat) (v : Word) (s : State) : State :=
  if a.part = 0 && assigns F.DE_SEM_PART i v s then pqErr s else
  let old := s.r .DE_SEM i
  let s := s.wr .DE_SEM i v
  let s := if a.part = 0 ∧ a.world then s else s.setF F.DE_SEM_WORLD i (fget F.DE_SEM_WORLD old)
  let s := if a.part = 0 then s else s.setF F.DE_SEM_PART i (fget F.DE_SEM_PART old)
  semWake (i / 64) s

/-- SEM_COUNT_WRITE. -/
def execSemCountWrite (a : Access) (i : Nat) (v : Word) (s : State) : Out :=
  .next (guarded a true .DE_SEM i (semWrite a i v) s)

/-! ## FENCE.ACK (R342) -/

/-- Writes and flush reads of a channel that are not yet acknowledged. -/
def chUnacked (c : Nat) (s : State) : Bool :=
  s.txs.any fun t => t.phase == 0 && match t.own with
    | .dmaWrite k _ _ => k == c
    | .dmaFlush k _ => k == c
    | _ => false

/-- A FENCE.ACK with nothing left to wait for completes. -/
def fenceTry (c : Nat) (s : State) : State :=
  if (s.ch c).fence && !chUnacked c s && (chState c s == 1 || chState c s == 5) then
    chNext c (s.onCh c fun h => { h with fence := false, ports := [] })
  else s

/-- FENCE.ACK. A flush read is a zero-length read of the last address written on the port. xs: their translations, in the
order of the ports; the first that faults stops the channel (R345). -/
def dmaFence (c : Nat) (xs : List Xlate) (w : Word) (s : State) : State :=
  if !zeroBits w 58 0 then chIll c 1 s
  else if !bit w 59 then fenceTry c (s.onCh c fun h => { h with fence := true })
  else
    let ps := (s.ch c).ports
    match (ps.zip xs).find? fun y => match y.2 with
        | .fault .. => true
        | .ok .. => false with
    | some ((_, _, va), x) => chFault c 8 (chPc c s) (some va) (iommuFault x (0x80000 + c) va false s)
    | none =>
      let s := ps.foldl (fun t (dst, pa, va) =>
        chOpen c (.dmaFlush c va) { op := .rdIO, cls := .hp, dst := dst, addr := lineOf pa, mask := 0,
                                    aux := BitVec.ofNat 32 (pa % 64 + 31 * 64) } t) s
      fenceTry c (s.onCh c fun h => { h with fence := true })

/-- FENCE_ACK. -/
def execFenceAck (c ecc : Nat) (xs : List Xlate) (s : State) : Out := chInstr c ecc (fun w => opOf w == 7) (dmaFence c xs) s

/-! ## ZD64 descriptors (R361 to R363) -/

/-- DESCRIPTOR_FETCH: a channel in MODE 1 that holds the instruction slot reads the descriptor at DE_CH_DESC. -/
def execDescriptorFetch (c : Nat) (x : Xlate) (s : State) : Out :=
  if !s.b F.DE_CH_CFG_MODE c || chWinner (c / 64) 0 chReadyI s != some c then .next s
  else
    let s := chGrant c 0 chReadyI s
    let va := s.f F.DE_CH_DESC_DESC c * 32
    match x with
    | .fault _ _ => .next (chFault c 8 0 (some va) (iommuFault x (0x80000 + c) va false s))
    | .ok pa _ _ =>
      if rangeOf pa s = 3 then .next (chFault c 0x0A 0 (some va) s)
      else
        let s := s.onCh c fun h => { h with desc := some { pa := pa } }
        .next (chRead c (.zdDesc c) .be pa 32 s)

/-- A descriptor has been read: its move starts, or its encoding faults. -/
def descRead (c : Nat) (d : DmaDesc) (n : Nat) (s : State) : State :=
  let ctrl := n / 2 ^ 160 % 256
  let next := n / 2 ^ 192 % 2 ^ 64
  let cls := match ctrl / 32 % 4 with
    | 0 => some TClass.be
    | 1 => some TClass.hp
    | 2 => some TClass.gt
    | _ => none
  let s := s.onCh c fun h => { h with desc := some { d with
    fetched := true, irq := ctrl.testBit 0, tag := n / 2 ^ 168 % 256, next := next } }
  match cls, decide (ctrl < 128) && decide (next % 32 = 0) with
  | some cls, true =>
    let m : DmaMove := { src := n % 2 ^ 64, dst := n / 2 ^ 64 % 2 ^ 64, rowLen := n / 2 ^ 128 % 2 ^ 32, cls := cls,
                         sfix := ctrl.testBit 1, dfix := ctrl.testBit 2, esz := 2 ^ (ctrl / 8 % 4) }
    moveStart c m (fun s => s.onCh c fun h => { h with move := some m }) s
  | _, _ => chFault c 1 0 (some (s.f F.DE_CH_DESC_DESC c * 32)) s

/-- The descriptor's move has ended: STATUS is written, the interrupt raised, and NEXT followed or the list ends. -/
def descEnd (c : Nat) (s : State) : State :=
  match (s.ch c).desc with
  | none => s
  | some d =>
    let s := s.onCh c fun h => { h with move := none, desc := none }
    let s := zdStatusWrite c d 0x80 s
    let s := if d.irq then chIrq c (s.setF F.DE_CH_EVT_CODE c d.tag) else s
    if d.next = 0 then chDone c s
    else
      let s := (s.setF F.DE_CH_DESC_DESC c (d.next / 32)).setB F.DE_CH_STATUS_PARTIAL c false
      if chState c s = 5 then setChState c 4 s else s

/-- DESCRIPTOR_COMPLETE. -/
def execDescriptorComplete (c : Nat) (s : State) : Out :=
  .next (if s.b F.DE_CH_CFG_MODE c && moveEnded c s && (chState c s == 1 || chState c s == 5) then descEnd c s else s)

/-! ## Responses -/

/-- The fault code of a response code, if it is an error (R345). -/
def respFault (r : BitVec 2) : Option Nat :=
  if r = 1 then some 9 else if r = 2 then some 0xA else if r = 3 then some 0xB else none

/-- A fault on a response reaches a channel in RUNNING, WAITING, PAUSING or STOPPING only (R355). -/
def respFaults (c code fpc va : Nat) (s : State) (silent : Bool := false) : State :=
  let st := chState c s
  if st = 1 ∨ st = 2 ∨ st = 3 ∨ st = 5 then chFault c code fpc (some va) s silent else s

/-- The answer to a read of a MOVE: off and len are its bytes. -/
def dmaRead (c off len : Nat) (resp : BitVec 2) (d : Line) (po : BitVec 2) (s : State) : State :=
  let s := chCount c s
  match (s.ch c).move with
  | none => s
  | some m =>
    let va := srcAddr m off
    let o := va % 64
    match respFault resp with
    | some code => respFaults c code (chPc c s) va s
    | none =>
      if poisonIn po o len then respFaults c 0xC (chPc c s) va s
      else
        chPaused c (s.onCh c fun h => { h with move := some { m with
          rds := m.rds.map fun r => if r.off = off then { r with val := some (lineBytes d o len) } else r } })

/-- The answer to a read that is discarded: an abort or a pause may wait for it. -/
def dmaDeadRead (c : Nat) (s : State) : State := chAborted c (chPaused c (chCount c s))

/-- The acknowledgement of a write. -/
def dmaWritten (c fpc va : Nat) (resp : BitVec 2) (s : State) : State :=
  match respFault resp with
  | some code => respFaults c code fpc va s
  | none => fenceTry c s

/-- The acknowledgement of a STATUS write: a fault on it writes nothing (R362). -/
def zdStatusDone (c va : Nat) (resp : BitVec 2) (s : State) : State :=
  match respFault resp with
  | some code => respFaults c code 0 va s true
  | none => s

/-- The answer to a flush read. -/
def dmaFlushed (c va : Nat) (resp : BitVec 2) (s : State) : State :=
  let s := chCount c s
  match respFault resp with
  | some code => respFaults c code (chPc c s) va s
  | none => chPaused c (fenceTry c s)

/-- The answer to a descriptor read. -/
def dmaDescRead (c : Nat) (resp : BitVec 2) (d : Line) (po : BitVec 2) (s : State) : State :=
  let s := chCount c s
  match (s.ch c).desc with
  | none => s
  | some e =>
    let va := s.f F.DE_CH_DESC_DESC c * 32
    match respFault resp with
    | some code => respFaults c code 0 va s
    | none =>
      if poisonIn po (e.pa % 64) 32 then respFaults c 0xC 0 va s
      else if chState c s = 3 then chPaused c s
      else descRead c e (lineBytes d (e.pa % 64) 32) s

/-! ## Commands (R327, R355 to R360) -/

/-- PC := ENTRY, after the check of the window; a channel whose ENTRY fails it is FAULTED there (R327). -/
def chEnter (c : Nat) (s : State) : State :=
  let e := s.f F.DE_CH_ENTRY_VAL c
  let s := setChPc c e s
  if chInWin c e s then setChState c 1 (s.onCh c fun h => { h with startFault := false })
  else (chFault c 2 e (some 0) s).onCh c fun h => { h with startFault := true }

/-- A start of an idle, enabled channel (R327). -/
def chStart (c : Nat) (s : State) : State :=
  if chState c s ≠ 0 then s.setB F.DE_CH_EVT_START_OVR c true
  else if !s.b F.DE_CH_CFG_EN c then s.setB F.DE_CH_STATUS_CFGERR c true
  else
    let s := (s.setR .DE_CH_FAULT c 0).setR .DE_CH_FADDR c 0
    let s := (s.setB F.DE_CH_STATUS_PARTIAL c false).onCh c fun h => { ports := h.ports }
    if s.b F.DE_CH_CFG_MODE c then setChState c 1 s else chEnter c (loopPop c 4 s)

/-- PAUSE, and STOP in MODE 0. -/
def chPause (c : Nat) (s : State) : State :=
  match chState c s with
  | 1 => chPaused c (setChState c 3 s)
  | 2 => setChState c 4 s
  | _ => s

/-- STOP. -/
def chStop (c : Nat) (s : State) : State :=
  if s.b F.DE_CH_CFG_MODE c ∧ chState c s = 1 then setChState c 5 s else chPause c s

/-- RESUME. A channel that its start has FAULTED starts again, from an ENTRY that may have been corrected (R327). -/
def chResume (c : Nat) (s : State) : State :=
  let go (s : State) : State := setChState c 1 (s.setB F.DE_CH_STATUS_PARTIAL c false)
  match chState c s with
  | 3 => setChState c 1 s
  | 4 => go s
  | 7 =>
    let s := s.setF F.DE_CH_FAULT_CODE c 0
    if (s.ch c).startFault && !s.b F.DE_CH_CFG_MODE c then chEnter c s else go s
  | _ => s

/-- ABORT, by command or partition reset. -/
def chAbort (c : Nat) (s : State) : State :=
  if chState c s = 0 ∨ chState c s = 6 then s
  else
    let s := chDrop c s
    let s := s.onCh c fun h => { h with move := none, desc := none, fence := false, cont := 0, startFault := false }
    chAborted c (setChState c 6 ((chCount c s).setB F.DE_CH_STATUS_PARTIAL c false))

/-- A write of DE_CH_CMD(c). -/
def chCmd (c n : Nat) (s : State) : State :=
  match n with
  | 1 => chStart c s
  | 2 => chPause c s
  | 3 => chResume c s
  | 4 => chAbort c s
  | 5 => chStop c s
  | _ => s

/-- DMA_START: a calendar start reaches its channel, or software writes START. -/
def execDmaStart (c : Nat) (a : Option Access) (s : State) : Out :=
  match a with
  | some a => .next (guarded a true .DE_CH_CMD c (chCmd c 1) s)
  | none =>
    match s.out.find? fun m => match m with
        | .dmaStart k _ _ => k == c
        | _ => false with
    | some m => .next (chStart c (s.take m))
    | none => .next s

/-- PAUSE. -/
def execPause (a : Access) (c : Nat) (s : State) : Out := .next (guarded a true .DE_CH_CMD c (chCmd c 2) s)
/-- RESUME. -/
def execResume (a : Access) (c : Nat) (s : State) : Out := .next (guarded a true .DE_CH_CMD c (chCmd c 3) s)
/-- ABORT. -/
def execAbort (a : Access) (c : Nat) (s : State) : Out := .next (guarded a true .DE_CH_CMD c (chCmd c 4) s)
/-- STOP. -/
def execStop (a : Access) (c : Nat) (s : State) : Out := .next (guarded a true .DE_CH_CMD c (chCmd c 5) s)

/-! ## Register writes -/

/-- PROG_WRITE: word w of engine j (R325). -/
def execProgWrite (a : Access) (j w : Nat) (v : Word) (s : State) : Out :=
  .next (guarded a true .DE_PROG (j * 8192 + w) (fun s => s.setR .DE_PROG (j * 8192 + w) v) s)

/-- A write of a program register, refused with an error response while the channel runs or waits (R326). -/
def chProgReg (c : Nat) (g : Reg) (i : Nat) (v : Word) (s : State) : State :=
  if !chQuiet c s then s.answerErr 0b10#2
  else
    let s := chDepthSync c (s.wr g i v)
    if g = .DE_CH_PC then (s.setB F.DE_CH_STATUS_PARTIAL c false).onCh c fun h => { h with cont := 0, startFault := false } else s

/-- A write of DE_CH_CFG(c) (R350). -/
def chCfgWrite (a : Access) (c : Nat) (v : Word) (s : State) : State :=
  if assigns F.DE_CH_CFG_PART c v s then pqErr s
  else if chState c s ≠ 0 then s.setB F.DE_CH_STATUS_CFGERR c true
  else
    let old := s.r .DE_CH_CFG c
    let w := fget F.DE_CH_CFG_WORLD (if a.world then v else old)
    if a.world && !s.b F.DE_CH_CFG_WORLD c then s.setF F.DE_CH_CFG_WORLD c w
    else (s.wr .DE_CH_CFG c v).setF F.DE_CH_CFG_WORLD c w

/-- A write of DE_CH_DESC(c). -/
def chDescWrite (c : Nat) (v : Word) (s : State) : State := if chQuiet c s then s.wr .DE_CH_DESC c v else s

end Sys2Proof.Machine
end

