-- ==== Sys2Proof/Machine/Worlds.lean ====
section
/-! DEFINITION. World control: Mitten holds, Secure interrupt entry, Secure calls and the debug enables (R379, R380,
R382, R383, R385, R386, R390 to R392). -/
namespace Sys2Proof.Machine

/-! ## Mitten holds (R385, R386) -/

/-- Unit u exists as a target of a hold (R385). -/
def unitExists (u : Nat) (s : State) : Bool :=
  if u < 256 then hartExists u s else decide (u ≤ 304)

/-- The bit of WC_MITTEN of unit u. -/
def mittenBit (u : Nat) (s : State) : Bool := s.fbit F.WC_MITTEN_VAL (u / 64) (u % 64)

/-- The core of hart u is held: by its bit, or because the hart's W is 1. A die that is OFF holds no W. -/
def coreHeld (u : Nat) (s : State) : Bool :=
  hartExists u s && (mittenBit u s || (s.f F.PWR_DIE_STATE (hartDie u s) != 0 && (s.hart u).w))

/-- Some phase port, calendar block or pin of the Secure world is in use. -/
def phaseSecure (s : State) : Bool :=
  ((List.range 8).any fun n => s.b F.PHE_PORT_CFG_WORLD n && s.b F.PHE_PORT_CFG_ENABLE n) ||
  ((List.range 256).any fun b => s.b F.PHE_CAL_BLOCK_WORLD b && blockArmed b s) ||
  ((List.range 64).any fun i => s.b F.TIO_PIN_CFG_WORLD i && s.f F.TIO_PIN_CFG_MODE i != 0)

/-- The effective hold of unit u (R386). -/
def mittenEff (u : Nat) (s : State) : Bool :=
  if u < 256 then coreHeld u s
  else unitExists u s && (mittenBit u s ||
    (if u < 268 then (List.range 256).any fun h => hartDie h s == u - 256 && coreHeld h s
     else if u < 272 then
      (List.range 64).any fun c => s.b F.DE_CH_CFG_WORLD (64 * (u - 268) + c) && s.f F.DE_CH_STATUS_STATE (64 * (u - 268) + c) != 0
     else if u = 288 then phaseSecure s else false))

/-- WC_MITTEN_EFF(i) as it reads. -/
def mittenEffWord (i : Nat) (s : State) : Word :=
  BitVec.ofNat 64 ((List.range 64).foldl (fun v b => if mittenEff (64 * i + b) s then v + 2 ^ b else v) 0)

/-- A write to WC_MITTEN(i): the bits of units that do not exist stay 0 (R385). -/
def mittenWrite (i : Nat) (v : Word) (s : State) : State :=
  s.setR .WC_MITTEN i (BitVec.ofNat 64
    ((List.range 64).foldl (fun x b => if unitExists (64 * i + b) s && bit v b then x + 2 ^ b else x) 0))

/-- A request of the Open world on a held unit refused and recorded: kind 1 GATED, 2 OFF, 3 clock stop, 4 reset, 5
package (R387). -/
def mittenRefuse (u kind part : Nat) (s : State) : State :=
  let s := s.satInc F.WC_STATUS_REFUSE_CNT 0
  s.setR .WC_MITTEN_STATUS 0 (BitVec.ofNat 64 (kind * 2 ^ 24 + part % 64 * 2 ^ 16 + u % 512))

/-! ## Secure interrupt entry (R379, R380, R383) -/

/-- The steps of an entry, once the hart has drained and its hold is confirmed. A fault on the first fetch stops the hart
in the Secure world with a FATAL record. -/
def secureEnter (h : Nat) (fetchFault : Bool) (s : State) : State :=
  let t := s.hart h
  let s := s.setR .WC_SAVE_PC h t.pc
  let s := s.setR .WC_SAVE_STATUS h t.mstatus
  let s := (s.setB F.WC_SAVE_MODE_V h t.virt).setF F.WC_SAVE_MODE_PRIV h t.priv
  let s := worldSwitch h s
  let pc := s.r .WC_SENTRY h &&& ~~~ 3#64
  let s := s.onHart h fun t =>
    { (t.setCBits CSR.mstatus 3 3 0).setCBits CSR.mstatus 17 17 0 with
      w := true, nextW := true, priv := 3, virt := false, pc := pc, stall := .none, st := .run }
  let s := traceGap h s
  if fetchFault then
    report 0x0D 4 true none (hartPart h s) (coreOf h s) h
      ((s.setB F.WC_SAVE_MODE_FAULT h true).onHart h fun t => { t with st := .stopped })
  else haltTry h s

/-- SECURE_INTERRUPT_ENTRY. An exception outstanding is taken first in the Open world (R380). fetchFault: the fetch at the
entry address faults. -/
def execSecureInterruptEntry (hart : Nat) (fetchFault : Bool) (s : State) : Out :=
  if canTrap hart s && (s.hart hart).trap.isNone && secureIrq hart s && s.b F.WC_SENTRY_VALID hart then
    .next (secureEnter hart fetchFault s)
  else .next s

/-! ## Secure calls (R382) -/

/-- A write to WC_CALL(h): the Open world can only set REQ, and a write of the Secure world clears it. -/
def callWrite (a : Access) (h : Nat) (v : Word) (s : State) : State :=
  if hartExists h s && (a.world || bit v 0) then s.setB F.WC_CALL_REQ h (!a.world) else s

/-- SECURE_CALL. -/
def execSecureCall (a : Access) (hart : Nat) (v : Word) (s : State) : Out :=
  .next (guarded a true .WC_CALL hart (callWrite a hart v) s)

/-! ## Debug enables (R390, R391) -/

/-- EFF of WC_DBG from its enables. -/
def dbgEff (s : State) : State :=
  s.setF F.WC_DBG_EFF 0 ((if effONI s then 1 else 0) + (if s.b F.WC_DBG_OI 0 then 2 else 0) + (if effSNI s then 4 else 0)
    + (if s.b F.WC_DBG_SI 0 then 8 else 0))

/-- The four enables set to the low bits of x: the traces open and close their gaps, a hart halted in the Secure world
resumes when SI is cleared, and held halt requests that the enables now admit are taken. -/
def dbgSet (x : Nat) (s : State) : State :=
  let had := s.b F.WC_DBG_SI 0
  let s := (s.setFbit F.WC_DBG_ONI 0 0 (x.testBit 0)).setFbit F.WC_DBG_OI 0 0 (x.testBit 1)
  let s := (s.setFbit F.WC_DBG_SNI 0 0 (x.testBit 2)).setFbit F.WC_DBG_SI 0 0 (x.testBit 3)
  let s := iter 256 traceGap (dbgEff s)
  let s := if had && !x.testBit 3 then iter 256 (fun h s => if (s.hart h).w then haltLeave h s else s) s else s
  iter 256 haltTry s

/-- A write to WC_DBG: the Secure world writes all four enables, the Open world ONI and OI while OPEN_DBG is 1, and with
LOCK nobody SI and SNI. -/
def dbgWrite (a : Access) (v : Word) (s : State) : State :=
  let old := bits (s.r .WC_DBG 0) 3 0
  let x := bits v 3 0
  let open' : Bool := a.world || s.b F.WC_CTRL_OPEN_DBG 0
  let sec : Bool := a.world && !s.b F.WC_CTRL_LOCK 0
  dbgSet ((if open' then x % 4 else old % 4) + (if sec then x / 4 * 4 else old / 4 * 4)) s

/-- WC_DBG_WRITE. -/
def execWcDbgWrite (a : Access) (v : Word) (s : State) : Out := .next (guarded a true .WC_DBG 0 (dbgWrite a v) s)

end Sys2Proof.Machine
end

