-- ==== Sys2Proof/Machine/Irq.lean ====
section
/-! DEFINITION. Interrupt delivery: messages to the IMSIC files, the wired sources and the APLIC (R438 to R442, R446, R447,
R449). The registers of the APLIC follow the published AIA specification (PRESUMED). -/
namespace Sys2Proof.Machine

/-! ## IMSIC files (R438, R439, R447) -/

/-- An identity made pending in a file; 0 and values above 2,047 do not exist. -/
def imsicSet (h file eiid : Nat) (s : State) : State :=
  if eiid = 0 ∨ 2047 < eiid ∨ !hartExists h s then s
  else s.onHart h fun t => let x := t.file file; t.setFile file { x with eip := natSetBit x.eip eiid true }

/-- The owner of a file (R427). -/
def fileOwner (h file : Nat) (s : State) : Nat := if 1 ≤ file ∧ file ≤ 7 then hartPart h s else 0

/-- The world check and the partition check of a message against its file: none when it passes, else whether the world
check refused it. -/
def fileDeny (a : Access) (h file : Nat) (s : State) : Option Bool :=
  if file = 9 ∧ !a.world then some true
  else if a.part = 0 ∨ a.part = fileOwner h file s then none else some false

/-- The address of a file's page (R439). -/
def filePage (h file : Nat) : Nat :=
  if file = 8 then 0xFF1000000000 + h * 0x2000
  else if file = 9 then 0xFF1000001000 + h * 0x2000
  else 0xFF1080000000 + h * 0x8000 + file * 0x1000

/-- A message to a file of a die that is ON: refused and recorded, or made pending. -/
def imsicWrite (a : Access) (h file eiid : Nat) (s : State) : State :=
  match fileDeny a h file s with
  | some true => (denyWorld .imsic .write a (filePage h file) s).answerErr 0b01#2
  | some false => (denyPart .imsic .write a (filePage h file) s).answerErr 0b01#2
  | none => imsicSet h file eiid (s.answer 0)

/-- A message to a die that is down is discarded, counted and recorded (R447). A die in transition counts as down (DESIGN
CHOICE). -/
def imsicLost (h file : Nat) (s : State) : State :=
  let s := (s.satInc F.INT_STATUS_LOST 0).setB F.INT_STATUS_ERR 0 true
  (s.setF F.INT_STATUS_LAST_HART 0 h).setF F.INT_STATUS_LAST_FILE 0 file

/-! ## Wired sources (R442) -/

/-- The ring holds an unread record whose severity is selected, or LMB_STATUS.DONE is selected (R561). -/
def rasAsserts (s : State) : Bool :=
  ((List.range 1024).any fun k => decide (k < s.rasUnread) &&
    s.fbit F.RAS_CTRL_IRQ_SEV 0 (bits (rasWord ((s.f F.RAS_LOG_PTR_TAIL 0 + k) % 1024) 1 s) 55 53)) ||
  (s.b F.LMB_STATUS_DONE 0 && s.b F.RAS_CTRL_LMB_IRQ 0)

/-- The level of a wired source. -/
def srcLevel (n : Nat) (s : State) : Bool :=
  if n = 0 then false
  else if n ≤ 8 then bits (s.r .PHE_PORT_STATUS (n - 1)) 15 8 != 0
  else if n ≤ 16 then bits (s.r .PE_PORT_STATUS (n - 9)) 6 0 != 0
  else if n ≤ 24 then bits (s.r .PL_PORT_STATUS (n - 17)) 12 8 != 0 || (n == 17 && bits (s.r .PL_GSTATUS 0) 4 1 != 0)
  else if n = 25 then bits (s.r .PHE_CAL_STATUS 0) 2 0 != 0
  else if n = 26 then (List.range 512).any fun j => s.b F.PHE_TSQ_STATUS_ERR j
  else if n ≤ 28 then s.b F.HELM_MB_STATUS_DONE (n - 27) && s.b F.HELM_MB_CTRL_IRQ_EN (n - 27)
  else if n = 29 then s.b F.WC_STATUS_DENY 0
  else if n = 30 then s.b F.PQ_STATUS_DENY 0
  else if n = 31 then s.f F.MC_ECC_STATUS_CE_STORM 0 != 0
  else if n = 32 then s.b F.MC_ECC_STATUS_UE 0
  else if n = 33 then s.b F.MC_ECC_STATUS_POISON_LOST 0 || s.b F.MC_ECC_STATUS_LOG_OVF 0
  else if n = 35 then (List.range 16).any fun k => s.b F.HA_ERR_ERR k
  else if n = 36 then rasAsserts s
  else if n = 37 then
    s.b F.PWR_STATUS_PW_FAULT 0 || s.b F.PWR_STATUS_OVERTEMP 0 || s.b F.PWR_STATUS_PLOCK_OVER 0 ||
      s.pwrIrq.any fun k => s.b F.PWR_REQ_STATUS_DONE k
  else if n = 38 then s.b F.PWR_STATUS_PF_WARN 0
  else if 49 ≤ n ∧ n < 65 then s.f F.MC_STATUS_TEMP_RATE (n - 49) == 3
  else if 65 ≤ n ∧ n < 77 then
    let b := n - 65
    s.b F.BR_STATUS_UNSTABLE b || s.b F.BR_STATUS_NOT_PERMITTED b || s.b F.BR_STATUS_DISAGREE b ||
      s.b F.BR_STATUS_HALF_CONFLICT b || (s.f F.BR_STATUS_STATE b == 0 && decide (2 ≤ s.f F.BR_STATUS_DOWN_REASON b))
  else if 77 ≤ n ∧ n < 81 then s.b F.DE_ENG_STATUS_PS_UE (n - 77)
  else if 97 ≤ n ∧ n < 161 then !(s.pin (n - 97)).fifo.isEmpty && s.b F.TIO_PIN_CFG_CAP_IRQ (n - 97)
  else if 161 ≤ n ∧ n < 225 then s.b F.PQ_RESET_STATUS_DONE (n - 161) && s.b F.PQ_CTRL_DONE_IRQ (n - 161)
  else if 481 ≤ n ∧ n < 737 then
    hartExists (n - 481) s && s.b F.CD_CORE_ORD_STATUS_ERR (coreOf (n - 481) s)
  else if 737 ≤ n ∧ n < 993 then s.b F.WC_CALL_REQ (n - 737)
  else false

/-- A number that names a wired source. -/
def srcUsed (n : Nat) : Bool :=
  decide (1 ≤ n) && decide (n ≤ 992) && !(decide (39 ≤ n) && decide (n ≤ 48)) && !(decide (81 ≤ n) && decide (n ≤ 96))

/-- Sources whose D is fixed at 0 (R441). -/
def srcFixed (n : Nat) : Bool := n == 29 || (decide (737 ≤ n) && decide (n ≤ 992))

/-! ## The APLIC (R441) -/

/-- A register of a domain: 0 Secure machine, 1 Open machine, 2 Open supervisor. -/
def aplicGet (dom off : Nat) (s : State) : Nat := smapGet (fun _ => 0) s.aplic (dom * 2 ^ 20 + off)

/-- A register of a domain set. -/
def aplicSet (dom off v : Nat) (s : State) : State :=
  { s with aplic := smapSet (fun _ => 0) s.aplic (dom * 2 ^ 20 + off) (v % 2 ^ 32) }

/-- Bit n of an array of a domain: setip at 0x1C00, setie at 0x1E00. -/
def aplicBit (dom base n : Nat) (s : State) : Bool := (aplicGet dom (base + n / 32 * 4) s).testBit (n % 32)

/-- Bit n of an array set. -/
def aplicPut (dom base n : Nat) (x : Bool) (s : State) : State :=
  aplicSet dom (base + n / 32 * 4) (natSetBit (aplicGet dom (base + n / 32 * 4) s) (n % 32) x) s

/-- The domain that keeps a source. -/
def srcDomain (n : Nat) (s : State) : Nat :=
  if srcFixed n || !(aplicGet 0 (4 * n) s).testBit 10 then 0
  else if !(aplicGet 1 (4 * n) s).testBit 10 then 1 else 2

/-- The mode of a source in the domain that keeps it: 1 Detached, 4 Edge1, 6 Level1; the others act as Inactive. -/
def srcMode (n : Nat) (s : State) : Nat :=
  let m := aplicGet (srcDomain n s) (4 * n) s % 8
  if srcUsed n && (m == 1 || m == 4 || m == 6) then m else 0

/-- The source number that an APLIC message carries in place of an agent ID. -/
def aplicAgent (n : Nat) : Nat := 1024 + n

/-- A pending and enabled source of an enabled domain sends its message and leaves pending. -/
def aplicForward (n : Nat) (s : State) : State :=
  let d := srcDomain n s
  if srcMode n s != 0 && (aplicGet d 0 s).testBit 8 && aplicBit d 0x1C00 n s && aplicBit d 0x1E00 n s then
    let t := aplicGet d (0x3000 + 4 * n) s
    let g := t / 2 ^ 12 % 64
    let file := if d = 0 then 9 else if d = 1 then 8 else if g ≤ 7 then g else 0
    (aplicPut d 0x1C00 n false s).send (.imsic (t / 2 ^ 18) file (t % 2048) (d == 0) 0 (aplicAgent n))
  else s

/-- A change of a wired source as the APLIC samples it. -/
def wiredChange (n : Nat) (s : State) : State :=
  let lv := srcLevel n s
  let seen := smapGet (fun _ => false) s.wired n
  let pulse := s.pulses.contains n
  let s := { s with wired := smapSet (fun _ => false) s.wired n lv, pulses := s.pulses.erase n }
  let d := srcDomain n s
  let rise := (lv && !seen) || pulse
  let m := srcMode n s
  if (m = 4 ∨ m = 6) ∧ rise then
    let s := aplicForward n (aplicPut d 0x1C00 n true s)
    if m = 6 ∧ !lv then aplicPut d 0x1C00 n false s else s
  else if m = 6 ∧ !lv then aplicPut d 0x1C00 n false s
  else s

/-- WIRED_SOURCE_CHANGE. -/
def execWiredSourceChange (n : Nat) (s : State) : Out := .next (if srcUsed n then wiredChange n s else s)

/-- IMSIC_MESSAGE. An APLIC message to a die that is down makes its source pending again; any other is lost (R447). -/
def execImsicMessage (hart file eiid : Nat) (w : Bool) (part src : Nat) (s : State) : Out :=
  let m : Msg := .imsic hart file eiid w part src
  if !s.out.contains m then .next s
  else
    let s := s.take m
    if !hartExists hart s then .next s
    else if dieOn (hartDie hart s) s then .next (imsicWrite { world := w, part := part, src := src } hart file eiid s)
    else if 1024 ≤ src then .next (aplicPut (srcDomain (src - 1024) s) 0x1C00 (src - 1024) true s)
    else .next (imsicLost hart file s)

/-- APLIC_RESEND: the pending messages to the harts of a die that has come ON are sent again. -/
def execAplicResend (d : Nat) (s : State) : Out :=
  if !dieOn d s then .next s
  else
    .next (iter 993 (fun n s =>
      let k := srcDomain n s
      let h := aplicGet k (0x3000 + 4 * n) s / 2 ^ 18
      let t := aplicForward n s
      if hartExists h s && hartDie h s == d && aplicBit k 0x1C00 n s && !aplicBit k 0x1C00 n t then
        t.satInc F.INT_STATUS_RESENT 0
      else s) s)

/-! ### Register accesses -/

/-- A source named by a write: its pending bit set, for a Level1 source only while its level is high. -/
def aplicPend (d n : Nat) (s : State) : State :=
  if srcDomain n s == d && srcMode n s != 0 && (srcMode n s != 6 || srcLevel n s) then
    aplicForward n (aplicPut d 0x1C00 n true s)
  else s

/-- A source's pending bit cleared by a write. -/
def aplicUnpend (d n : Nat) (s : State) : State := if srcDomain n s == d then aplicPut d 0x1C00 n false s else s

/-- A source's enable bit written. -/
def aplicEnable (d n : Nat) (x : Bool) (s : State) : State :=
  if srcDomain n s == d && srcMode n s != 0 then
    let s := aplicPut d 0x1E00 n x s
    if x then aplicForward n s else s
  else s

/-- f applied to every source whose bit is set in a word of an array. -/
def aplicEach (k v : Nat) (f : Nat → State → State) (s : State) : State :=
  iter 32 (fun b s => if v.testBit b && k * 32 + b != 0 then f (k * 32 + b) s else s) s

/-- sourcecfg written: a source delegated, or its mode; a source that becomes inactive in its domain loses its pending and
enable bits. -/
def sourcecfgWrite (d n v : Nat) (s : State) : State :=
  if !srcUsed n || srcDomain n s < d then s
  else
    let deleg := v.testBit 10 && d != 2 && !(d == 0 && srcFixed n)
    let s := aplicSet d (4 * n) (if deleg then 1024 else v % 8) s
    if srcDomain n s == d && srcMode n s != 0 then s else aplicPut d 0x1E00 n false (aplicPut d 0x1C00 n false s)

/-- A 32-bit write to a register of a domain. -/
def aplicWrite (d off v : Nat) (s : State) : State :=
  let v := v % 2 ^ 32
  if off = 0 then iter 993 aplicForward (aplicSet d 0 (v / 256 % 2 * 256) s)
  else if off < 0x1000 then sourcecfgWrite d (off / 4) v s
  else if 0x1BC0 ≤ off ∧ off ≤ 0x1BCC then (if d = 0 then aplicSet d off v s else s)
  else if 0x1C00 ≤ off ∧ off < 0x1C80 then aplicEach ((off - 0x1C00) / 4) v (aplicPend d) s
  else if off = 0x1CDC ∨ off = 0x2000 then aplicPend d v s
  else if off = 0x2004 then
    aplicPend d (v / 2 ^ 24 + v / 2 ^ 16 % 256 * 256 + v / 256 % 256 * 2 ^ 16 + v % 256 * 2 ^ 24) s
  else if 0x1D00 ≤ off ∧ off < 0x1D80 then aplicEach ((off - 0x1D00) / 4) v (aplicUnpend d) s
  else if off = 0x1DDC then aplicUnpend d v s
  else if 0x1E00 ≤ off ∧ off < 0x1E80 then aplicEach ((off - 0x1E00) / 4) v (fun n => aplicEnable d n true) s
  else if off = 0x1EDC then aplicEnable d v true s
  else if 0x1F00 ≤ off ∧ off < 0x1F80 then aplicEach ((off - 0x1F00) / 4) v (fun n => aplicEnable d n false) s
  else if off = 0x1FDC then aplicEnable d v false s
  else if off = 0x3000 then
    s.send (.imsic (v / 2 ^ 18) (if d = 0 then 9 else if d = 1 then 8 else 0) (v % 2048) (d == 0) 0 (0x140 + 14))
  else if 0x3004 ≤ off ∧ off < 0x4000 then
    if srcDomain ((off - 0x3000) / 4) s == d then aplicSet d off v s else s
  else s

/-- A 32-bit read of a register of a domain. -/
def aplicRead (d off : Nat) (s : State) : Nat :=
  if off = 0 then 0x80000004 + aplicGet d 0 s
  else if off < 0x1000 then
    (if srcDomain (off / 4) s < d then 0 else aplicGet d off s)
  else if 0x1BC0 ≤ off ∧ off ≤ 0x1BCC then aplicGet d off s
  else if (0x1C00 ≤ off ∧ off < 0x1C80) ∨ (0x1E00 ≤ off ∧ off < 0x1E80) then aplicGet d off s
  else if 0x1D00 ≤ off ∧ off < 0x1D80 then
    (List.range 32).foldl (fun v b =>
      let n := (off - 0x1D00) / 4 * 32 + b
      if srcDomain n s == d && srcMode n s != 0 && srcLevel n s then v + 2 ^ b else v) 0
  else if 0x3004 ≤ off ∧ off < 0x4000 then
    (if srcDomain ((off - 0x3000) / 4) s == d then aplicGet d off s else 0)
  else 0

end Sys2Proof.Machine
end

