-- ==== Sys2Proof/Machine/Streams.lean ====
section
/-! DEFINITION. Inbound requests of the PCIe and Paleg ports: the split into line requests and their strict order (R460,
R461, R489), the answers of a port to requests of the fabric, and the coherent view of memory that Helm, the start sequencer
and the IOMMU have. -/
namespace Sys2Proof.Machine

/-! ## Answers to fabric requests -/

/-- A port or block answers an I/O request: DataIO to a read, CmpIO to a write (R269, R270). -/
def ioReply (p : Packet) (resp : BitVec 2) (po : BitVec 2) (d : Line) (s : State) : State :=
  let rd := p.op == .rdIO
  let ok := resp == 0b00#2
  s.sendP { op := if rd then .dataIO else .cmpIO, cls := p.cls, w := p.w, part := p.part, src := p.dst, dst := p.src,
            tag := p.tag, addr := p.addr, resp := resp, data := rd && ok, poison := if rd && ok then po else 0,
            mask := if rd && ok then ~~~ 0 else 0, payload := if rd && ok then d else 0 }

/-- The first byte of an I/O request within its line, and its bytes: of a read from AUX, of a write from its mask. -/
def ioSpan (p : Packet) : Nat × Nat :=
  if p.op = .rdIO then (p.aux.toNat % 64, (p.aux.toNat / 64 % 32 + 1) % 32)
  else
    let lo := ((List.range 64).find? fun i => p.mask.getLsbD i).getD 0
    let hi := ((List.range 64).find? fun i => p.mask.getLsbD (63 - i)).getD 63
    (lo, 64 - hi - lo)

/-- A write to an outbound window register while its EN is 1: EN alone can change, and a write that would change another
field leaves it, with the error that err records (R454). en is the window's EN field. -/
def owinHeld (g : Reg) (en : Fld) (i : Nat) (v : Word) (err : State → State) (s : State) : State :=
  let old := s.r g i
  let nv := g.write false old v
  if g = en.reg then
    let s := s.setB en i (vset en v)
    if fset en nv 1 = fset en old 1 then s else err s
  else if nv = old then s else err s

/-! ## The coherent view of memory -/

/-- An access of an agent to n bytes from a waits: a transaction or a victim of one of its lines is under way (R182, R188). -/
def agentWaits (a n : Nat) (s : State) : Bool :=
  let has (line : Nat) : Bool := decide (a / 64 ≤ line) && decide (line * 64 < a + n)
  s.haTx.any (fun t => has (t.line / 64)) || s.vb.any fun v => has v.line

/-- A line as the newest copy holds it: dirty in a core, in a WbL or in an L3, in the atomic buffer, or in memory with its
decoding and its findings. No transaction of the line is open. -/
def seeLine (line : Nat) (s : State) : (Line × BitVec 2) × State :=
  let l2 := s.l2.find? fun (_, l) => l.line == line && l.st == 3
  let wbl := s.out.findSome? fun m => match m with
    | .pkt q => if q.op == .wbL && q.addr == line * 64 then some (q.payload, q.poison) else none
    | _ => none
  let l3 := s.l3.find? fun (_, l) => l.line == line && l.st == 4
  match l2, wbl, l3 with
  | some (_, l), _, _ => ((l.data, l.poison), s)
  | none, some x, _ => (x, s)
  | none, none, some (_, l) => ((l.data, l.poison), s)
  | none, none, none =>
    match s.atomBuf.find? fun e => e.addr == line * 64 with
    | some e => ((e.data, e.poison), s)
    | none => mcRead (line * 64) 0 s

/-- Every cached copy of a line removed, with what the cores have on its way to their slices (R171). -/
def dropLine (line : Nat) (s : State) : State :=
  let gone (l st : Nat) : Bool := l == line && st != 0
  let cores := (s.l2.filter fun (_, l) => gone l.line l.st).map fun (k, _) => k / 16384
  let s := cores.foldl (fun t np => coreInval np line t) s
  let s := { s with
    l3 := s.l3.filter fun (_, l) => l.line != line
    atomBuf := s.atomBuf.filter fun e => e.addr != line * 64 }
  let s := s.dropOut fun m => match m with
    | .pkt q => (q.op == .wbL || q.op == .evL) && q.addr == line * 64
    | _ => false
  match dirFind (line * 64) s with
  | some k => s.setDir k {}
  | none => s

/-- n bytes read from address a for an agent whose W is 1 and whose partition is 0: none when a byte is poisoned, lies
outside DRAM, in a retired page, or at a check address. -/
def agentRead : Nat → Nat → Nat → State → Option Nat × State
  | 0, _, _, s => (some 0, s)
  | fuel + 1, a, n, s =>
    if n = 0 then (some 0, s)
    else if !inDram a s || isRetired a s || isCheckAddr a s then (none, s)
    else
      let k := min n (64 - a % 64)
      let ((d, po), s) := seeLine (a / 64) s
      if poisonIn po (a % 64) k then (none, s)
      else
        match agentRead fuel (a + k) (n - k) s with
        | (some v, s) => (some (lineBytes d (a % 64) k + v * 256 ^ k), s)
        | (none, s) => (none, s)

/-- n bytes written at address a for such an agent: every cached copy of a line is collected first. False when a byte
cannot be written. -/
def agentWrite : Nat → Nat → Nat → Nat → State → Bool × State
  | 0, _, _, _, s => (true, s)
  | fuel + 1, a, n, v, s =>
    if n = 0 then (true, s)
    else if !inDram a s || isRetired a s || isCheckAddr a s then (false, s)
    else
      let k := min n (64 - a % 64)
      let ((d, po), s) := seeLine (a / 64) s
      let s := dropLine (a / 64) s
      let m : BitVec 64 := byteMask (a % 64) k
      let s := mcWrite a (mergeLine d (linePut 0 (a % 64) k (v % 256 ^ k)) m) (poisonMerge po 0 m) s
      agentWrite fuel (a + k) (n - k) (v / 256 ^ k) s

/-- The lines that n bytes touch at most. -/
def agentFuel (n : Nat) : Nat := n / 64 + 2

/-! ## Inbound queues (R460, R489) -/

/-- The inbound queue of a port. -/
def State.inQ (s : State) (k : Nat) : List InJob := smapGet (fun _ => []) s.inq k

/-- The inbound queue of a port set. -/
def State.setInQ (s : State) (k : Nat) (q : List InJob) : State := { s with inq := smapSet (fun _ => []) s.inq k q }

/-- The agent ID of an inbound port: PEn, or PLn for 8 + n. -/
def inAgent (k : Nat) : Nat := if k < 8 then 0x118 + k else 0x118 + k

/-- n bytes from address a split into requests of at most one line: address, offset and length (R460). -/
def splitLines : Nat → Nat → Nat → Nat → List (Nat × Nat × Nat)
  | 0, _, _, _ => []
  | fuel + 1, a, off, n =>
    if n = 0 then []
    else
      let k := min n (64 - a % 64)
      (a, off, k) :: splitLines fuel (a + k) (off + k) (n - k)

/-- An inbound write of a job's bytes off to off + n - 1: the bytes that its enables select. -/
def inMask (j : InJob) (a off n : Nat) : BitVec 64 :=
  BitVec.ofNat 64 (j.t.be / 2 ^ off % 2 ^ n * 2 ^ (a % 64))

/-- The poison bits that a job's written bytes carry: EP of a TLP, or the halves of a cell. -/
def inPoison (j : InJob) (m : BitVec 64) : BitVec 2 :=
  match j.cell with
  | some c => c.poison
  | none => if j.t.ep then poisonMerge 0 3 m else 0

/-- The head of a port's queue issues its next line request. -/
def inIssue (k : Nat) (s : State) : State :=
  match s.inQ k with
  | [] => s
  | j :: rest =>
    match j.reqs with
    | [] => s
    | (a, off, n) :: _ =>
      if j.sent then s
      else
        let rd := j.t.kind == .mrd
        let dst := if inDram a s then 0x100 + mcOf a else ioAgent (ioTarget a s)
        let m := inMask j a off n
        let p : Packet :=
          if rd then { op := if inDram a s then .rdNC else .rdIO, cls := .be, w := j.w, part := j.part, src := inAgent k,
                       dst := dst, addr := lineOf a, aux := BitVec.ofNat 32 (a % 64 + (n - 1) % 32 * 64) }
          else { op := if inDram a s then .wrNC else .wrIO, cls := .be, w := j.w, part := j.part, src := inAgent k,
                 dst := dst, addr := lineOf a, data := true, mask := m, poison := inPoison j m,
                 payload := linePut 0 (a % 64) n (j.t.data / 256 ^ off) }
        let own : TxOwner := if k < 8 then .pcie k 0 else .paleg (k - 8) 0
        openTx own p (s.setInQ k ({ j with sent := true } :: rest))

/-- The poisoned ranges of a job's bytes among n bytes of line byte lo, which begin at offset o. -/
def badRanges (po : BitVec 2) (lo o n : Nat) : List (Nat × Nat) :=
  [0, 1].filterMap fun h =>
    let b := max lo (32 * h)
    let e := min (lo + n) (32 * h + 32)
    if po.getLsbD h && decide (b < e) then some (o + (b - lo), e - b) else none

/-- The response of the fabric to the request that a job has issued: its data and poison kept, or its status. -/
def inTake (j : InJob) (resp po : BitVec 2) (d : Line) : InJob :=
  match j.reqs with
  | [] => j
  | (a, off, n) :: r =>
    let st := if resp = 0b00#2 then j.status else resp.toNat
    let j := { j with reqs := if resp = 0b00#2 then r else [], sent := false, status := st }
    if j.t.kind = .mrd ∧ resp = 0b00#2 then
      { j with data := j.data + lineBytes d (a % 64) n * 256 ^ off
               bad := j.bad ++ badRanges po (a % 64) off n
               pois := if poisonIn po (a % 64) n then j.pois ||| BitVec.ofNat 2 (if off / 32 % 2 = 0 then 1 else 2) else j.pois }
    else j

/-- A job that joins a port's queue; one that refuses at once has no requests. From step 3 of R508 on every inbound request
is answered with RESP = 0b10. -/
def inJoin (k : Nat) (j : InJob) (s : State) : State :=
  let j := if s.pkgEnd.isSome && !j.reqs.isEmpty then { j with reqs := [], status := 2 } else j
  s.setInQ k (s.inQ k ++ [j])

/-- Inbound traffic reaches DRAM and on-package MMIO; the windows of the ports are not reachable (R451, R500). -/
def inReach (a : Nat) (s : State) : Bool := inDram a s || decide (0xFF0000000000 ≤ a)

end Sys2Proof.Machine
end

