-- ==== Sys2Proof/Machine/Paleg.lean ====
section
/-! DEFINITION. Paleg: links, routes, outbound and inbound windows, messages and the phase frames (R477 to R505). -/
namespace Sys2Proof.Machine

/-! ## Ports and routes (R483, R484) -/

/-- The hidden state of a port. -/
def State.pl (s : State) (n : Nat) : PlLink := smapGet (fun _ => {}) s.plLinks n

/-- The hidden state of a port set. -/
def State.setPl (s : State) (n : Nat) (l : PlLink) : State := { s with plLinks := smapSet (fun _ => {}) s.plLinks n l }

/-- STATE of a port: 0 DOWN, 1 TRAIN, 2 ACTIVE, 3 LOST. -/
def plState (n : Nat) (s : State) : Nat := s.f F.PL_PORT_STATUS_STATE n
/-- ROLE of a port: 0 off, 1 UP, 2 DOWN, 3 PEER. -/
def plRole (n : Nat) (s : State) : Nat := s.f F.PL_PORT_CFG_ROLE n
/-- The port speaks to a ZD64 (R504). -/
def plZd64 (n : Nat) (s : State) : Bool := s.b F.PL_PORT_CFG_MODE n
/-- This package's node ID. -/
def plSelf (s : State) : Nat := s.f F.PL_NODE_ID 0
/-- The route to a node: a port, 8 local, 15 discard. -/
def plRoute (dest : Nat) (s : State) : Nat := s.f F.PL_RT_VAL dest
/-- A cell discarded at a port. -/
def plDiscard (n : Nat) (s : State) : State := s.satInc F.PL_PORT_ERRCNT_DISCARD n

/-- A cell or frame that port n has sent or holds for sending. -/
def isFlit (n : Nat) : Msg → Bool
  | .cell k _ => k == n
  | .frame k _ => k == n
  | _ => false

/-- The flits of a port that the neighbour has not acknowledged, in order. -/
def plFlits (n : Nat) (s : State) : List Msg := s.out.filter (isFlit n)

/-- A cell delivered to this node. -/
def plLocal (n : Nat) (c : PlCell) (s : State) : State :=
  { s with plIn := smapSet (fun _ => []) s.plIn n (smapGet (fun _ => []) s.plIn n ++ [c]) }

/-- The channel of a type of cell: 0 POSTED, 1 NONPOSTED, 2 RESPONSE (R482). -/
def plChan (ty : Nat) : Nat := if ty = 2 then 1 else if ty = 3 ∨ ty = 6 then 2 else 0

/-- A cell of type ty keeps its place behind an earlier cell e of its SRC: in one channel, and an RD behind a WR (R482). -/
def plKeeps (ty : Nat) (e : PlCell) : Bool := plChan e.ty == plChan ty || (ty == 2 && e.ty == 1)

/-- The oldest cell of a type that no cell before it holds back; seen are the cells before the list. -/
def plFirst (ty : Nat) : List PlCell → List PlCell → Option PlCell
  | _, [] => none
  | seen, c :: r =>
    if c.ty == ty && !seen.any (fun e => e.src == c.src && plKeeps ty e) then some c else plFirst ty (seen ++ [c]) r

/-- The oldest delivered cell of a type that is due is taken at a port. -/
def plPop (n ty : Nat) (s : State) : Option (PlCell × State) :=
  let q := smapGet (fun _ => []) s.plIn n
  match plFirst ty [] q with
  | some c => some (c, { s with plIn := smapSet (fun _ => []) s.plIn n (q.erase c) })
  | none => none

/-- An answer cell on its way back: to the port of its route, or delivered here. -/
def plReturn (n : Nat) (c : PlCell) (s : State) : State :=
  let r := plRoute c.dest s
  if c.dest = plSelf s ∨ r = 8 then plLocal n c s
  else if r < 8 then s.send (.cell r c) else s

/-- The answer to an RD. -/
def rdRspCell (c : PlCell) (status : Nat) (po : BitVec 2) (d : Nat) (s : State) : PlCell :=
  { ty := 3, w := c.w, src := plSelf s, dest := c.src, tag := c.tag, len := c.len, status := status, poison := po,
    data := BitVec.ofNat 512 d }

/-- The response with STATUS FORWARD to the first segment of a forwarded Helm command: its opcode, and STATUS 0x0B. -/
def hrspForward (c : PlCell) (s : State) : PlCell :=
  { ty := 6, w := c.w, src := plSelf s, dest := c.src, tag := c.tag, addr := c.addr, len := 16,
    data := BitVec.ofNat 512 (c.data.toNat % 65536 + 0x0B * 2 ^ 32 + c.data.toNat / 2 ^ 64 % 2 ^ 64 * 2 ^ 64) }

/-- A cell leaves on a port: a LOST branch and a ZD64 answer or discard what they do not carry (R497, R504). -/
def plEmit (n port : Nat) (c : PlCell) (s : State) : State :=
  let far := plZd64 port s && decide (255 < c.dest)
  let helm := plZd64 port s && (c.ty == 5 || c.ty == 6)
  if c.ty = 5 ∧ (plState port s = 3 ∨ helm) then
    if c.addr % 256 = 0 then plReturn n (hrspForward c s) s else s
  else if helm then s
  else if plState port s = 3 ∧ c.ty = 2 then plReturn n (rdRspCell c 2 0 0 s) s
  else if plState port s = 3 ∧ (c.ty = 1 ∨ c.ty = 4) then plDiscard port s
  else if far then
    let s := plDiscard port s
    if c.ty = 2 then plReturn n (rdRspCell c 2 0 0 s) s else s
  else s.send (.cell port c)

/-- A cell that goes on: by its route, with one more hop, up to MAXHOP. It leaves as a cell of a Paleg port: no packet of the
IOD fabric carries it (R485). -/
def plForward (n : Nat) (c : PlCell) (s : State) : State :=
  let r := plRoute c.dest s
  if c.dest = plSelf s ∨ r = 8 then plLocal n c s
  else if 8 < r then s
  else
    let c := { c with hops := c.hops + 1 }
    if max 1 (s.f F.PL_NODE_MAXHOP 0) ≤ c.hops then s.satInc F.PL_GSTATUS_HOPDROP 0 else plEmit n r c s

/-- The type of a message cell (R480). -/
def msgType (c : PlCell) : Nat := c.addr / 2 ^ 32 % 16

/-- A tree broadcast received: delivered here and copied to every DOWN port (R490). -/
def plBroadcast (n : Nat) (c : PlCell) (s : State) : State :=
  if plRole n s ≠ 1 then s.satInc F.PL_GSTATUS_MSG_LOST 0
  else
    let d := { c with hops := c.hops + 1 }
    iter 8 (fun k s =>
      if plRole k s = 2 ∧ s.b F.PL_PORT_CFG_EN k then
        if max 1 (s.f F.PL_NODE_MAXHOP 0) ≤ d.hops then s.satInc F.PL_GSTATUS_HOPDROP 0
        else if plZd64 k s then s.satInc F.PL_GSTATUS_MSG_LOST 0
        else plSend k d s
      else s) (plLocal n c s)

/-- A cell that arrives at port n. -/
def plArrive (n : Nat) (c : PlCell) (s : State) : State :=
  if c.ty = 0 then s
  else if 6 < c.ty then plDiscard n s
  else if c.ty = 5 ∧ plRole n s ≠ 1 then plDiscard n s
  else if c.ty = 4 ∧ msgType c = 15 then plBroadcast n c s
  else if c.dest = plSelf s then plLocal n c s
  else plForward n c s

/-! ## The link (R477, R481, R495, R496) -/

/-- The messages that wait for a port leave it when it becomes ACTIVE (R490). -/
def plQueueOut (n : Nat) (s : State) : State :=
  let q := smapGet (fun _ => []) s.plQ n
  q.foldl (fun t c => plSend n c t) { s with plQ := smapSet (fun _ => []) s.plQ n [] }

/-- Training begins: the port's flits and the delay it measured are those of a new link. -/
def plTrain (n : Nat) (s : State) : State :=
  let s := (s.setF F.PL_PORT_STATUS_STATE n 1).setB F.PL_PORT_DELAY_DVALID n false
  s.setPl n { s.pl n with exp := 0, skip := false, naks := 0, acked := 4095, frames := [], delays := [], rejoin := none }

/-- A link goes down: DOWN, DVALID cleared, LINK_EV (R497). The cells that it has not carried are lost with it. -/
def plDown (n : Nat) (s : State) : State :=
  if plState n s = 0 then s
  else
    let s := (s.setF F.PL_PORT_STATUS_STATE n 0).setB F.PL_PORT_DELAY_DVALID n false
    let s := { s.setB F.PL_PORT_STATUS_LINK_EV n true with out := s.out.filter fun m => !isFlit n m }
    s.setPl n { fseq := (s.pl n).fseq }

/-- The write that a cell carried has reached the neighbour: its CmpIO returns (R487). -/
def plWrDone (n tag : Nat) (s : State) : State :=
  match s.plTx.find? fun x => x.port == n && x.tag == tag && !x.rd with
  | some x => ioReply x.p 0b00#2 0 0 { s with plTx := s.plTx.erase x }
  | none => s

/-- The flits of a port up to SEQ k are acknowledged. -/
def plAcked (n k : Nat) (s : State) : State :=
  let l := s.pl n
  let d := (k + 4096 - l.acked) % 4096
  let fs := plFlits n s
  if d = 0 ∨ fs.length < d then s
  else
    let done := fs.take d
    let s := { s.setPl n { l with acked := k % 4096, naks := 0 } with out := done.foldl (fun o m => o.erase m) s.out }
    done.foldl (fun t m => match m with
      | .cell _ c => if c.ty = 1 ∧ c.src = plSelf t then plWrDone n c.tag t else t
      | _ => t) s

/-- 1.5 µs in units of the timebase (R496). -/
def ackLimit : Nat := 48000

/-- The delay of a link from one acknowledged frame: half the round trip less the turnaround, plus ASYM (R495). -/
def plDelay (n turn : Nat) (t1 t4 : Word) (s : State) : State :=
  if plZd64 n s then s
  else
    let rtt : Int := (t4 - t1).toInt - turn
    let asym := signedOf 2 (s.f F.PL_PORT_CFG_ASYM n)
    let d := divFree s.freeBit rtt 2 + asym
    let l := s.pl n
    let ds := (l.delays ++ [d]).drop ((l.delays.length + 1) - 16)
    let s := (s.setPl n { l with delays := ds }).bump
    if ds.length < 16 then s
    else
      let mean := divFree s.freeBit (ds.foldl (· + ·) 0) 16
      ((s.setR .PL_PORT_DELAY n (BitVec.ofInt 64 mean &&& 0xFFFFFFFF#64)).setB F.PL_PORT_DELAY_DVALID n true).bump

/-- ACK_FRAME and TURN of a received flit: the frame it names is acknowledged, in time or too late, and a LOST port counts
towards its REJOIN (R495 to R497). -/
def plAckFrame (n ackFrame turn : Nat) (t : Word) (s : State) : State :=
  let l := s.pl n
  match l.frames.find? fun f => f.1 == ackFrame with
  | none => s
  | some f =>
    if ackLimit < (t - f.2).toNat then s
    else
      let s := s.setPl n { l with frames := l.frames.erase f }
      let s := plDelay n turn f.2 t s
      match (s.pl n).rejoin with
      | none => s
      | some k =>
        if k + 1 = 8 then plQueueOut n ((s.setPl n { s.pl n with rejoin := none }).setF F.PL_PORT_STATUS_STATE n 2)
        else s.setPl n { s.pl n with rejoin := some (k + 1) }

/-- A flit discarded at a receiver; the eighth NAK for one SEQ ends in a retrain (R481). -/
def plDrop (n : Nat) (nak : Bool) (s : State) : State :=
  let l := s.pl n
  let k := l.naks + (if nak then 1 else 0)
  let s := (s.satInc F.PL_PORT_ERRCNT_CRC_ERR n).setPl n { l with skip := true, naks := k }
  if nak && decide (8 ≤ k) then plTrain n s else s

/-- PALEG_NAK: the buffered flits after ACKSEQ are sent again; after 8 NAKs for one SEQ without a later ACK the port
retrains. -/
def execPalegNak (n ackseq : Nat) (s : State) : Out :=
  if plState n s < 2 then .next s
  else
    let s := (plAcked n ackseq s).satInc F.PL_PORT_ERRCNT_REPLAY n
    let l := s.pl n
    if 8 ≤ l.naks + 1 then .next (plTrain n s) else .next (s.setPl n { l with naks := l.naks + 1 })

/-- PALEG_TRAINING_DONE: IDs and roles are exchanged; the port becomes ACTIVE when they fit (R483). -/
def execPalegTrainingDone (n : Nat) (ok : Bool) (id role : Nat) (s : State) : Out :=
  if !s.b F.PL_PORT_CFG_EN n ∨ 2 ≤ plState n s ∨ !ok ∨ unitOff (280 + n) s then .next s
  else
    let s := plTrain n (s.setF F.PL_PORT_STATUS_NEIGH_ID n id)
    let r := plRole n s
    let faces : Bool := (r == 1 && role == 2) || (r == 2 && role == 1) || (r == 3 && role == 3)
    let s := if faces then s else s.setB F.PL_PORT_STATUS_ROLE_ERR n true
    let s := if id = plSelf s then s.setB F.PL_PORT_STATUS_DUPID n true else s
    if faces ∧ id ≠ plSelf s then
      .next (plQueueOut n ((s.setF F.PL_PORT_STATUS_STATE n 2).setB F.PL_PORT_STATUS_LINK_EV n true))
    else .next s

/-- PALEG_LINK_DOWN. -/
def execPalegLinkDown (n : Nat) (s : State) : Out := .next (plDown n s)

/-- A write to PL_PORT_CFG: ROLE and MODE only while EN is 0; one that would make a second UP port is ignored (R483, R505).
Setting EN starts training, clearing it takes the port down. -/
def plPortCfgWrite (n : Nat) (v : Word) (s : State) : State :=
  let old := s.r .PL_PORT_CFG n
  let en := vset F.PL_PORT_CFG_EN old
  let kept : Bool := fget F.PL_PORT_CFG_ROLE v == fget F.PL_PORT_CFG_ROLE old && fget F.PL_PORT_CFG_MODE v == fget F.PL_PORT_CFG_MODE old
  let v' := if en then fset F.PL_PORT_CFG_ROLE (fset F.PL_PORT_CFG_MODE v (fget F.PL_PORT_CFG_MODE old)) (fget F.PL_PORT_CFG_ROLE old)
    else v
  if fget F.PL_PORT_CFG_ROLE v' = 1 ∧ ((List.range 8).any fun k => k != n && plRole k s == 1) then
    s.setB F.PL_GSTATUS_CFGERR 0 true
  else
    let s := s.wr .PL_PORT_CFG n v'
    let s := if en && !kept then s.setB F.PL_PORT_STATUS_CFGERR n true else s
    if !en && vset F.PL_PORT_CFG_EN v then plTrain n s
    else if en && !vset F.PL_PORT_CFG_EN v then plDown n s else s

/-- PALEG_PORT_ENABLE. -/
def execPalegPortEnable (a : Access) (n : Nat) (v : Word) (s : State) : Out :=
  .next (guarded a true .PL_PORT_CFG n (plPortCfgWrite n v) s)

/-- A write to PL_PORT_CMD: RETRAIN trains an enabled port again, REJOIN starts the count of a LOST one (R477, R497). -/
def plCmdWrite (n : Nat) (v : Word) (s : State) : State :=
  let s := if vset F.PL_PORT_CMD_REJOIN v ∧ plState n s = 3 then s.setPl n { s.pl n with rejoin := some 0 } else s
  if vset F.PL_PORT_CMD_RETRAIN v ∧ s.b F.PL_PORT_CFG_EN n then plTrain n s else s

/-- RETRAIN. -/
def execRetrain (a : Access) (n : Nat) (v : Word) (s : State) : Out :=
  .next (guarded a true .PL_PORT_CMD n (plCmdWrite n v) s)

/-- REJOIN. -/
def execRejoin (a : Access) (n : Nat) (v : Word) (s : State) : Out :=
  .next (guarded a true .PL_PORT_CMD n (plCmdWrite n v) s)

/-! ## Outbound requests (R486 to R488) -/

/-- Read requests outstanding at a port. -/
def plReads (n : Nat) (s : State) : Nat := s.plTx.countP fun x => x.port == n && x.rd

/-- A port takes no further request: its 256 reads, or its tags, are in use (R480, R487). -/
def plFull (n : Nat) (rd : Bool) (s : State) : Bool :=
  (rd && decide (256 ≤ plReads n s)) || decide (1024 ≤ s.plTx.countP fun x => x.port == n)

/-- A tag that the port does not use. -/
def plTag (n : Nat) (s : State) : Nat :=
  ((List.range 1024).find? fun t => !s.plTx.any fun x => x.port == n && x.tag == t).getD 0

/-- A request that a Paleg window maps, checked and turned into a cell. win is the window. -/
def plOut (win : Nat) (p : Packet) (s : State) : State :=
  let rd := p.op == .rdIO
  let (lo, n) := ioSpan p
  let a := p.addr + lo
  let acc : Access := { world := p.w, part := p.part, src := p.src }
  let k : DenyKind := if rd then .read else .write
  if s.b F.PL_OWIN_CFG_WORLD win && !p.w then ioReply p 0b01#2 0 0 (denyWorld .window k acc a s)
  else if p.part ≠ 0 ∧ p.part ≠ s.f F.PL_OWIN_CFG_PART win then ioReply p 0b01#2 0 0 (denyPart .window k acc a s)
  else
    let dest := s.f F.PL_OWIN_CFG_DEST win
    let r := plRoute dest s
    let port := if r < 8 then r else 0
    let far := r < 8 ∧ plZd64 r s ∧ 255 < dest
    let lost := r < 8 ∧ plState r s = 3
    let own := dest = plSelf s ∨ r = 8
    if !own ∧ r < 8 ∧ unitOff (280 + r) s then ioReply p 0b10#2 0 0 s
    else if !own ∧ (far ∨ lost) then ioReply p 0b10#2 0 0 (if rd then s else plDiscard port s)
    else if plFull port rd s then { s with plWait := s.plWait ++ [p] }
    else
      let tag := plTag port s
      let c : PlCell :=
        { ty := if rd then 2 else 1, prio := p.src == pheAgent, w := p.w, src := plSelf s, dest := dest, tag := tag,
          addr := s.f F.PL_OWIN_REMOTE_VAL win + (a - s.f F.PL_OWIN_BASE_VAL win * 65536), len := n,
          poison := p.poison, mask := p.mask >>> lo, data := p.payload >>> (8 * lo) }
      if own then
        let s := plLocal 0 c s
        if rd then { s with plTx := s.plTx ++ [{ port := port, tag := tag, rd := true, p := p, t0 := s.tb }] }
        else ioReply p 0b00#2 0 0 s
      else
        let s := { s with plTx := s.plTx ++ [{ port := port, tag := tag, rd := rd, p := p, t0 := s.tb }] }
        if r < 8 then s.send (.cell r c) else s

/-- A request ended: one that waits for its port goes on. -/
def plWaitGo (s : State) : State :=
  match s.plWait.find? fun p => match ioTarget (p.addr + (ioSpan p).1) s with
      | .paleg i =>
        let r := plRoute (s.f F.PL_OWIN_CFG_DEST i) s
        !plFull (if r < 8 then r else 0) (p.op == .rdIO) s
      | _ => true with
  | none => s
  | some p =>
    let s := { s with plWait := s.plWait.erase p }
    match ioTarget (p.addr + (ioSpan p).1) s with
    | .paleg i => plOut i p s
    | _ => ioReply p 0b10#2 0 0 s

/-- The requests that wait go on as far as they may. -/
def plWaitAll (s : State) : State := iter s.plWait.length (fun _ t => plWaitGo t) s

/-- PALEG_FLIT_RECEIVE: a flit of port n with its header; t is the timebase at its first symbol. ftype 0 cells, 1 idle, 2
first of a replay, 3 phase frame. -/
def execPalegFlitReceive (n : Nat) (crcOk : Bool) (ftype seq : Nat) (ack : Option Nat) (ackFrame turn : Nat) (t : Word)
    (cells : List PlCell) (s : State) : Out :=
  if plState n s < 2 then .next s
  else
    let l := s.pl n
    let counted : Bool := ftype == 0 || ftype == 2 || ftype == 3
    if !crcOk || decide (3 < ftype) then .next (plDrop n true s)
    else if l.skip && ftype != 2 then .next (plDrop n false s)
    else if counted && seq != l.exp then .next (plDrop n true s)
    else
      let l := if counted then { l with exp := (seq + 1) % 4096, skip := false, naks := 0 } else l
      let s := s.setPl n (if ftype = 3 then { l with lastRx := seq } else l)
      let s := match ack with
        | some k => plAcked n k s
        | none => s
      let s := plWaitAll (plAckFrame n ackFrame turn t s)
      .next (if ftype = 0 ∨ ftype = 2 then (cells.take 3).foldl (fun u c => plArrive n c u) s else s)

/-- RDRSP: the response to a read returns to its RdIO; one that matches no read is discarded (R488). -/
def execRdRsp (n : Nat) (s : State) : Out :=
  match plPop n 3 s with
  | none => .next s
  | some (c, s) =>
    match s.plTx.find? fun x => x.rd && x.tag == c.tag && (x.port == n || plSelf s == c.src) with
    | none => .next (plDiscard n s)
    | some x =>
      let s := { s with plTx := s.plTx.erase x }
      let resp : BitVec 2 := if c.status = 0 then 0b00#2 else if c.status = 1 then 0b01#2 else 0b10#2
      .next (plWaitGo (ioReply x.p resp c.poison (c.data <<< (8 * (ioSpan x.p).1)) s))

/-- PALEG_READ_TIMEOUT: no response within PL_CTRL.CTO µs; 0 acts as 1. -/
def execPalegReadTimeout (n tag : Nat) (s : State) : Out :=
  match s.plTx.find? fun x => x.rd && x.tag == tag && x.port == n with
  | none => .next s
  | some x =>
    if (s.tb - x.t0).toNat < tbMicro * max 1 (s.f F.PL_CTRL_CTO 0) then .next s
    else .next (plWaitGo (ioReply x.p 0b10#2 0 0 { s with plTx := s.plTx.erase x }))

/-- A write to an outbound window: while EN is 1 only EN changes, and EN is set only on a window of the remote range, of a
SIZE in range, that no enabled window overlaps (R454, R486). A refused write sets PL_GSTATUS.CFGERR. -/
def plOwinWrite (g : Reg) (i : Nat) (v : Word) (s : State) : State :=
  let err (s : State) : State := s.setB F.PL_GSTATUS_CFGERR 0 true
  if s.b F.PL_OWIN_CFG_EN i then owinHeld g F.PL_OWIN_CFG_EN i v err s
  else if g = .PL_OWIN_CFG ∧ vset F.PL_OWIN_CFG_EN v then
    let b := s.f F.PL_OWIN_BASE_VAL i * 65536
    let n := 2 ^ fget F.PL_OWIN_CFG_SIZE v
    let size := fget F.PL_OWIN_CFG_SIZE v
    let overlap := (List.range 16).any fun j => s.b F.PL_OWIN_CFG_EN j &&
      decide (s.f F.PL_OWIN_BASE_VAL j * 65536 < b + n) && decide (b < s.f F.PL_OWIN_BASE_VAL j * 65536 + 2 ^ s.f F.PL_OWIN_CFG_SIZE j)
    if overlap ∨ size < 16 ∨ 35 < size ∨ b < 0xF000000000 ∨ 0xFF00000000 < b + n then err s
    else s.wr g i v
  else s.wr g i v

/-! ## Inbound requests (R489, R500 to R502) -/

/-- A field of inbound window i in force. -/
def plIwin (f : Fld) (i : Nat) (s : State) : Nat := fget f (smapGet (fun _ => 0) s.iwinCur (f.reg.key i))

/-- The window in force that holds n bytes from a Paleg address. -/
def plIwinOf (a n : Nat) (s : State) : Option Nat :=
  (List.range 16).find? fun i =>
    let b := plIwin F.PL_IWIN_OFFSET_VAL i s * 4096
    plIwin F.PL_IWIN_CTRL_EN i s == 1 && decide (b ≤ a) && decide (a + n ≤ b + 2 ^ plIwin F.PL_IWIN_CTRL_SIZE i s)

/-- The end of a cell's requests: an RDRSP, or for a refused WR a discard. -/
def plJobEnd (n : Nat) (j : InJob) (s : State) : State :=
  match j.cell with
  | none => s
  | some c =>
    if c.ty = 2 then plReturn n (rdRspCell c j.status j.pois j.data s) s
    else if j.status ≠ 0 then plDiscard n s else s

/-- The finished jobs at the head of a port's queue end, and the next one issues. -/
def plPump : Nat → Nat → State → State
  | 0, _, s => s
  | fuel + 1, n, s =>
    match s.inQ (8 + n) with
    | [] => s
    | j :: rest =>
      if j.reqs.isEmpty && !j.sent then plPump fuel n (plJobEnd n j (s.setInQ (8 + n) rest))
      else inIssue (8 + n) s

/-- A refused cell recorded: by the world check, or otherwise as a refusal of the window (R377, R421, R489). -/
def plDeny (n : Nat) (world : Bool) (c : PlCell) (s : State) : State :=
  let a : Access := { world := c.w, part := 0, src := 0x120 + n }
  let k : DenyKind := if c.ty = 2 then .read else .write
  if world then denyWorld .window k a c.addr s else if c.ty = 1 then denyPart .window k a c.addr s else s

/-- A WR or RD cell accepted at its arrival port: checked against the windows in force, translated, and queued. A translation
fault is answered with DENIED or UNMAPPED, which the spec leaves open. -/
def plAccept (n : Nat) (c : PlCell) (x : Xlate) (s : State) : State :=
  let rd := c.ty == 2
  let t : Tlp := { kind := if rd then .mrd else .mwr, addr := c.addr, len := c.len, data := c.data.toNat, be := c.mask.toNat,
                   tag := c.tag }
  let j : InJob := { t := t, cell := some c }
  let fail (st : Nat) (s : State) : State := plPump 2 n (inJoin (8 + n) { j with status := st } s)
  if rd && c.len == 0 then fail 0 s
  else match plIwinOf c.addr (max 1 c.len) s with
    | none => fail 2 s
    | some i =>
      let win := plIwin F.PL_IWIN_CTRL_WORLD i s == 1
      let src := plIwin F.PL_IWIN_SRC_SRC_ID i s
      let passes := (c.src ^^^ src) &&& plIwin F.PL_IWIN_SRC_SRC_MASK i s
      if win && !c.w then fail 1 (plDeny n true c s)
      else if (plIwin F.PL_IWIN_CTRL_RO i s == 1 && !rd) || passes != 0 then fail 1 (plDeny n false c s)
      else match x with
        | .fault _ _ => fail (if s.freeBit then 1 else 2) (iommuFault x (0x90000 + n) c.addr (!rd) s.bump)
        | .ok pa _ _ =>
          if !inReach pa s then fail 2 s
          else
            plPump 2 n (inJoin (8 + n)
              { j with w := win, part := plIwin F.PL_IWIN_CTRL_PART i s, reqs := splitLines 3 pa 0 c.len } s)

/-- WR. x translates the address that the window gives. -/
def execWr (n : Nat) (x : Xlate) (s : State) : Out :=
  match plPop n 1 s with
  | none => .next s
  | some (c, s) => .next (plAccept n c x s)

/-- RD. -/
def execRd (n : Nat) (x : Xlate) (s : State) : Out :=
  match plPop n 2 s with
  | none => .next s
  | some (c, s) => .next (plAccept n c x s)

/-- Two shadow windows of the package overlap. -/
def plShadowOverlap (s : State) : Bool :=
  let lo (i : Nat) : Nat := s.f F.PL_IWIN_OFFSET_VAL i * 4096
  let hi (i : Nat) : Nat := lo i + 2 ^ s.f F.PL_IWIN_CTRL_SIZE i
  (List.range 16).any fun i => (List.range 16).any fun k =>
    decide (i < k) && s.b F.PL_IWIN_CTRL_EN i && s.b F.PL_IWIN_CTRL_EN k && decide (lo i < hi k) && decide (lo k < hi i)

/-- The shadow value of a register instance put in force. -/
def iwinTake (g : Reg) (i : Nat) (s : State) : State :=
  { s with iwinCur := smapSet (fun _ => 0) s.iwinCur (g.key i) (s.r g i) }

/-- The jobs of the ports that p selects belong to the mapping before a commit. -/
def jobsOld (p : Nat → InJob → Bool) (s : State) : State :=
  iter 16 (fun k s => s.setInQ k ((s.inQ k).map fun j => if p k j then { j with old := true } else j)) s

/-- A write to PL_IWIN_COMMIT: all windows take their shadow values, or the commit is ignored with COMMIT_ERR. -/
def plCommitWrite (v : Word) (s : State) : State :=
  if !vset F.PL_IWIN_COMMIT_GO v then s
  else if s.b F.PL_IWIN_COMMIT_OLD_BUSY 0 || plShadowOverlap s then s.setB F.PL_GSTATUS_COMMIT_ERR 0 true
  else
    let s := iter 16 (fun i s =>
      iwinTake .PL_IWIN_CTRL i (iwinTake .PL_IWIN_OFFSET i (iwinTake .PL_IWIN_TARGET i (iwinTake .PL_IWIN_SRC i s)))) s
    (jobsOld (fun k _ => decide (8 ≤ k)) s).setB F.PL_IWIN_COMMIT_OLD_BUSY 0 true

/-- PL_WINDOW_COMMIT. -/
def execPlWindowCommit (a : Access) (v : Word) (s : State) : Out :=
  .next (guarded a true .PL_IWIN_COMMIT 0 (plCommitWrite v) s)

/-- PL_OLD_MAPPING_DRAINED. -/
def execPlOldMappingDrained (s : State) : Out :=
  if s.b F.PL_IWIN_COMMIT_OLD_BUSY 0 && !(List.range 8).any fun n => (s.inQ (8 + n)).any (·.old) then
    .next ((s.setB F.PL_IWIN_COMMIT_OLD_BUSY 0 false).setB F.PL_GSTATUS_WIN_DONE 0 true)
  else .next s

/-! ## Messages (R490, R491) -/

/-- A write to PL_MSG_TX sends a message. -/
def msgTxWrite (a : Access) (v : Word) (s : State) : State :=
  plSend (fget F.PL_MSG_TX_PLPORT v)
    { ty := 4, w := a.world, src := plSelf s, dest := fget F.PL_MSG_TX_DEST v,
      addr := fget F.PL_MSG_TX_MSGTYPE v * 2 ^ 32 + fget F.PL_MSG_TX_PAYLOAD v } s

/-- MSG_TX. -/
def execMsgTx (a : Access) (v : Word) (s : State) : Out := .next (guarded a true .PL_MSG_TX 0 (msgTxWrite a v) s)

/-- The FIFO of a world; its register shows the oldest record, or all ones. -/
def setPlRx (w : Nat) (q : List (Word × Word)) (s : State) : State :=
  let s := { s with plRx := smapSet (fun _ => []) s.plRx w q }
  s.setR .PL_MSG_RX w (match q with
    | [] => ~~~ 0
    | r :: _ => r.1)

/-- A message appended to the FIFO of a world. -/
def plRxPush (w : Nat) (c : PlCell) (s : State) : State :=
  let q := smapGet (fun _ => []) s.plRx w
  if 32 ≤ q.length then s.setB F.PL_GSTATUS_MSG_OVF 0 true
  else
    setPlRx w (q ++ [(BitVec.ofNat 64 (c.addr % 2 ^ 32 * 2 ^ 32 + c.src % 4096 * 2 ^ 16 + (if c.w then 256 else 0) + msgType c * 16),
      s.tb)]) s

/-- The interrupt of a message map: the file that HART, FILE and MACHINE name, under the checks of R443 for P0. -/
def plMsgIrq (n t : Nat) (s : State) : State :=
  let w := s.b F.PL_MSG_MAP_WORLD t
  let machine := s.b F.PL_MSG_MAP_MACHINE t
  let file := s.f F.PL_MSG_MAP_FILE t
  let h := s.f F.PL_MSG_MAP_HART t
  let k := calFile machine file w
  if (w && !machine) || decide (7 < file) || fileOwner h k s != 0 then s
  else s.send (.imsic h k (s.f F.PL_MSG_MAP_EIID t) w 0 (0x120 + n))

/-- MSG: a delivered message is handled by the map of its type. -/
def execMsg (n : Nat) (s : State) : Out :=
  match plPop n 4 s with
  | none => .next s
  | some (c, s) =>
    let t := msgType c
    let w := s.b F.PL_MSG_MAP_WORLD t
    let lost := s.satInc F.PL_GSTATUS_MSG_LOST 0
    let wi := if w then 1 else 0
    if w && !c.w then .next lost
    else match s.f F.PL_MSG_MAP_ACTION t with
      | 0 => .next lost
      | 1 => .next (plRxPush wi c s)
      | 2 => .next (plMsgIrq n t (plRxPush wi c s))
      | _ => .next (s.send (.dmaUnblock (s.f F.PL_MSG_MAP_CHANNEL t) (s.f F.PL_MSG_MAP_EVT t) w 0))

/-- A read of PL_MSG_RX: the oldest record is returned and removed, and its arrival time kept. -/
def msgRxPop (w : Nat) (s : State) : State :=
  let v := s.r .PL_MSG_RX w
  match smapGet (fun _ => []) s.plRx w with
  | [] => s.answer (~~~ 0)
  | r :: q => ((setPlRx w q s).setR .PL_MSG_RX_TB w r.2).answer v

/-- MSG_RX_READ. -/
def execMsgRxRead (a : Access) (w : Bool) (s : State) : Out :=
  let i := if w then 1 else 0
  .next (guarded a false .PL_MSG_RX i (msgRxPop i) s)

/-! ## Phase frames (R493, R494, R496, R497) -/

/-- The frame that a DOWN port sends. -/
def plFrame (n : Nat) (s : State) : PhFrame :=
  let k := if plZd64 n s then 4 else 8
  let ports := List.range 8
  let own (p : Nat) : Bool := decide (p < k)
  { fseq := (s.pl n).fseq, node := plSelf s
    locked := ports.foldl (fun v p => if own p && s.f F.PHE_PORT_STATUS_STATE p == 2 then v + 2 ^ p else v) 0
    t1 := s.tb
    d := if plZd64 n s then s.f F.PL_PORT_CFG_DFIX n else if s.b F.PL_PORT_DELAY_DVALID n then s.f F.PL_PORT_DELAY_D n else 0
    dvalid := plZd64 n s || s.b F.PL_PORT_DELAY_DVALID n
    count := ports.map fun p => if own p then s.r .PHE_PORT_PHASE p else 0
    rate := ports.map fun p => if own p then s.r .PHE_PORT_INC p else 0
    tod := ports.map fun p => if own p then s.f F.PHE_PORT_TOD_BASE_TOD_BASE p else 0
    todv := ports.map fun p => own p && s.b F.PHE_PORT_TOD_BASE_VALID p }

/-- A port sends its frame; its SEQ is that of the flit. -/
def plFrameOut (n : Nat) (s : State) : State :=
  let l := s.pl n
  let seq := (l.acked + (plFlits n s).length + 1) % 4096
  let f := plFrame n s
  (s.setPl n { l with frames := l.frames ++ [(seq, f.t1)], fseq := (l.fseq + 1) % 65536 }).send (.frame n f)

/-- The frame period in units of the timebase: FRAME_US µs; values outside 2 to 1,000 act as 10 (R505). -/
def framePeriod (s : State) : Nat :=
  let n := s.f F.PL_CTRL_FRAME_US 0
  tbMicro * (if 2 ≤ n ∧ n ≤ 1000 then n else 10)

/-- PHASE_FRAME_SEND: each DOWN port that is ACTIVE or LOST sends a frame while PHASE_EN is 1, a frame period after the
frames before. -/
def execPhaseFrameSend (s : State) : Out :=
  if !s.b F.PL_CTRL_PHASE_EN 0 || !(s.frameAt.all fun t => decide (framePeriod s ≤ (s.tb - t).toNat)) then .next s
  else .next (iter 8 (fun n s => if plRole n s = 2 ∧ 2 ≤ plState n s then plFrameOut n s else s) { s with frameAt := some s.tb })

/-- PHASE_FRAME: a frame received on port n, first or in a replay, as the edge of the phase ports that select it. DESIGN
CHOICE: TOD_BASE and VALID are copied (R58, R494) from every frame that meets the conditions of R494, even where the port takes
it as no edge, being OFF or discarding it by its period check. -/
def execPhaseFrame (n : Nat) (t2 : Word) (first : Bool) (f : PhFrame) (s : State) : Out :=
  if plRole n s ≠ 1 ∨ plState n s < 2 ∨ !first ∨ !f.dvalid then .next s
  else
    let d := if plZd64 n s then s.f F.PL_PORT_CFG_DFIX n else f.d
    .next (iter 8 (fun p s =>
      let r := s.f F.PHE_PORT_AUX_REMOTE_PH p
      if portKind p s = 4 ∧ s.f F.PHE_PORT_AUX_PLPORT p = n ∧ f.locked.testBit r then
        let s := portEdge p (t2 - BitVec.ofNat 64 d) (some ((f.count[r]?).getD 0)) s
        if (f.todv[r]?).getD false then
          (s.setF F.PHE_PORT_TOD_BASE_TOD_BASE p ((f.tod[r]?).getD 0)).setB F.PHE_PORT_TOD_BASE_VALID p true
        else s
      else s) s)

/-! ## Bit layouts (R478 to R480, R493) -/

/-- The 80 bytes of a cell. A WR of less than 64 bytes carries its byte mask before its data. -/
def cellBits (c : PlCell) : Nat :=
  let b (x : Bool) : Nat := if x then 1 else 0
  let data := if c.ty = 1 ∧ c.len < 64 then (c.mask.toNat + c.data.toNat * 2 ^ 64) % 2 ^ 512 else c.data.toNat
  packed [(4, c.ty), (1, b c.prio), (1, b c.w), (12, c.src), (12, c.dest), (12, c.hops), (10, c.tag), (48, c.addr), (7, c.len),
    (2, c.status), (2, c.poison.toNat), (17, 0), (512, data)]

/-- The bytes 12 to 251 of a flit with FTYPE phase. -/
def frameBits (f : PhFrame) : Nat :=
  packed ([(16, f.fseq), (12, f.node), (8, f.locked), (64, f.t1.toNat), (32, if f.dvalid then f.d else 0), (1, if f.dvalid then 1 else 0)]
    ++ (List.range 8).flatMap fun n =>
      [(64, ((f.count[n]?).getD 0).toNat), (64, ((f.rate[n]?).getD 0).toNat), (48, (f.tod[n]?).getD 0),
       (1, if (f.todv[n]?).getD false then 1 else 0)])

/-- The link header of a flit. -/
structure PlHeader where
  seq : Nat
  ackSeq : Nat
  ackType : Nat
  ftype : Nat
  /-- Cell buffers freed: POSTED, NONPOSTED, RESPONSE. -/
  credit : Nat × Nat × Nat
  ackFrame : Nat
  turn : Nat
  deriving DecidableEq, Repr

/-- The 2,048 bits of a flit: the link header, the 240 bytes of its cells or phase frame, and the CRC-32C. -/
def palegFlit (h : PlHeader) (body : Nat) : Nat :=
  let x := packed [(12, h.seq), (12, h.ackSeq), (2, h.ackType), (4, h.ftype), (6, h.credit.1), (6, h.credit.2.1), (6, h.credit.2.2),
    (16, h.ackFrame), (24, h.turn), (8, 0), (1920, body)]
  x + crc32 2016 x * 2 ^ 2016

/-- A flit of up to three cells. -/
def cellFlit (h : PlHeader) (cs : List PlCell) : Nat := palegFlit h (packed ((cs.take 3).map fun c => (640, cellBits c)))

/-- BRANCH_LOST: a frame of a DOWN port has no acknowledgement 1.5 µs after its T1. -/
def execBranchLost (n : Nat) (s : State) : Out :=
  let l := s.pl n
  match l.frames.find? fun f => decide (ackLimit < (s.tb - f.2).toNat) with
  | none => .next s
  | some f =>
    if plRole n s ≠ 2 ∨ plState n s < 2 then .next s
    else
      let s := (s.setPl n { l with frames := l.frames.erase f, rejoin := l.rejoin.map fun _ => 0 }).satInc
        F.PL_PORT_ERRCNT_ACK_MISS n
      .next (if plState n s = 2 then (s.setF F.PL_PORT_STATUS_STATE n 3).setB F.PL_PORT_STATUS_LOST_EV n true else s)

end Sys2Proof.Machine
end

