-- ==== Sys2Proof/Machine/Resets.lean ====
section
/-! DEFINITION. What each package reset keeps and clears, the event log, start failures, Chimney mode and step 2 of the start
sequence (R528 to R531, R537, R540 to R542, R549, R552). -/
namespace Sys2Proof.Machine

/-! ## The event log (R552) -/

/-- Milliseconds since AON start. DEDUCED: counted by the timebase, which AON keeps (R36, R507). -/
def aonMs (s : State) : Nat := (s.aonTb + s.tb.toNat) / (1000 * tbMicro)

/-- A record of the AON event log. -/
def evlog (code : Nat) (detail : Word) (s : State) : State :=
  let e := s.f F.ST_EVLOG_HEAD_HEAD 0
  let s := (s.setR .ST_EVLOG (2 * e) (BitVec.ofNat 64 (code * 2 ^ 56 + aonMs s % 2 ^ 48))).setR .ST_EVLOG (2 * e + 1) detail
  s.setF F.ST_EVLOG_HEAD_HEAD 0 (e + 1)

/-- An I3C in-band interrupt to the rack controller (R547). -/
def inBand (code : Nat) (s : State) : State := { s with rack := { s.rack with ibi := s.rack.ibi ++ [code] } }

/-! ## Start failures (R541) -/

/-- The PHASE of the start (R552). -/
def startPhase (s : State) : Nat := s.f F.ST_STATUS_PHASE 0

/-- The package is in Chimney mode. -/
def inChimney (s : State) : Bool := startPhase s == 8

/-- A start is in progress, from its step 2 until START_OK. -/
def starting (s : State) : Bool :=
  let p := startPhase s
  !s.boot.failed && (p == 2 || p == 4 || p == 5 || p == 6)

/-- A failure recorded in ST_REASON and in the event log. -/
def startRecord (code : Nat) (s : State) : State :=
  let s := s.satInc F.ST_REASON_FAILS 0
  let s := ((s.setF F.ST_REASON_ATTEMPT 0 (s.f F.ST_STATUS_COUNT 0)).setF F.ST_REASON_SLOT 0 (s.f F.ST_STATUS_SLOT 0)).setF
    F.ST_REASON_PHASE 0 (startPhase s)
  let s := (s.setB F.ST_REASON_NO_LANTERN 0 false).setF F.ST_REASON_CODE 0 code
  inBand 4 (evlog 5 (s.r .ST_REASON 0) s)

/-- A start fails and awaits its retry. -/
def startFail (code : Nat) (s : State) : State :=
  let s := startRecord code s
  { s with boot := { s.boot with failed := true, failAt := s.tb, retryAt := s.tb } }

/-- A package reset that arrives before START_OK ends the start as EXTERNAL. -/
def startEnds (s : State) : State := if starting s then startRecord 9 s else s

/-! ## What a reset keeps (R530) -/

/-- The kinds of package reset, as R528 orders them. -/
inductive PkgReset where
  | powerOn | hard | warm
  deriving DecidableEq, Repr

/-- A register keeps its value, at least in part, through a package reset: AON, the stores, and what the hard and the warm
reset keep. -/
def regKept (k : PkgReset) : Reg → Bool
  | .ST_STATUS | .ST_CTRL | .ST_REASON | .ST_EVLOG | .ST_EVLOG_HEAD | .LAN_CFG | .LAN_STATUS | .RAS_AON_LOG | .RAS_AON_HEAD
  | .RAS_PAGE_HIST | .RAS_REPAIR | .HELM_COUNTER | .HELM_STATUS => true
  | .LMB_CTRL | .LMB_STATUS | .LMB_BUF => k != .powerOn
  | .HELM_MB_CTRL | .HELM_MB_STATUS | .HELM_MB_REQ | .HELM_MB_RSP | .PHE_TB | .MC_RETIRE | .MC_STATUS | .MC_TRAIN => k == .warm
  | _ => false

/-- The fields of the registers that a reset keeps in part set to their reset values. -/
def regPart (k : PkgReset) (s : State) : State :=
  let s := (((s.setF F.ST_STATUS_BOOT_HART 0 0).setF F.ST_STATUS_PHASE 0 0).setF F.ST_STATUS_LIMIT 0 3).setF F.ST_STATUS_SLOT 0 0
  let s := if k = .warm then s else s.setR .HELM_STATUS 0 (if s.b F.HELM_STATUS_PROV 0 then 8 else 0)
  let s := s.setB F.DBG_STATUS_TESTMODE 0 (s.tap.ir == 0x00 || s.tap.ir == 0x03 || s.tap.ir == 0x04)
  if k = .powerOn then s.setR .LAN_STATUS 0 (BitVec.ofNat 64 (s.f F.LAN_STATUS_TAKEOVERS 0 * 2 ^ 48)) else s

/-- Helm after its reset: the monotonic store stays, mailboxes and working keys go (R395, R415). -/
def helmReset (h : Helm) : Helm := { cmdKey := h.cmdKey, image := h.image, mode := h.mode, startCfg := h.startCfg }

/-- The identification and position fuses of a part loaded from the fuse map, where they are not the ZD216-256's (R28, R30). -/
def skuFuses (k : Sku) (s : State) : State :=
  let s := { s with sku := k }
  if k = .zd216_256 then s
  else
    let s := s.setR .FAB_PKG_ID 0 k.pkgId
    if k = .zd216_128 then s
    else
      let s := iter 240 (fun i t => t.setR .FAB_POS_MAP i (k.posMap i)) s
      let s := iter 216 (fun h t => t.setR .FAB_HART_POS h (k.hartPos h)) s
      iter 216 (fun h t => t.setR .PQ_HART h (k.pqHart h)) s

/-- A part right after power-on reset. -/
def State.resetOf (k : Sku) : State := skuFuses k State.reset

/-- The package as a reset leaves it: DRAM stays through a warm reset only, and what is undefined after the others reads as
after power-on. -/
def pkgReset (k : PkgReset) (s : State) : State :=
  regPart k <| skuFuses s.sku { State.reset with
    pending := s.pending
    fresh := s.fresh
    resp := s.resp
    regs := s.regs.filter fun (j, _) => regKept k (Reg.ofNat (j % 1024))
    mem := if k = .warm then s.mem else []
    bridges := if k = .warm then
        s.bridges.filterMap fun (n, b) =>
          if ({ found := b.found } : Bridge) = {} then none else some (n, { found := b.found })
      else []
    mcRate := if k = .warm then s.mcRate else []
    histNext := s.histNext
    repairs := s.repairs
    helm := if k = .warm then s.helm else helmReset s.helm
    flash := s.flash
    flashOp := s.flashOp
    aonOff := s.aonOff
    aonTb := if k = .warm then s.aonTb else s.aonTb + s.tb.toNat
    rack := if k = .powerOn then { ibi := s.rack.ibi } else s.rack
    tap := { s.tap with dieIr := [] } }

/-! ## Step 2 (R537, R540, R549) -/

/-- Chimney mode entered. -/
def chimneyEnter (s : State) : State :=
  let s := (s.setB F.ST_STATUS_CHIMNEY 0 true).setF F.ST_STATUS_PHASE 0 8
  inBand 2 (evlog 6 (s.r .ST_REASON 0) s)

/-- A die starts from OFF (R515, R533). -/
def dieStart (n : Nat) (port : Option Nat) (s : State) : State :=
  { s.setF F.PWR_DIE_STATE n 3 with
    dieTrans := smapSet (fun _ => none) s.dieTrans n (some { kind := 2, port := port }) }

/-- Step 2: LIMIT is read; Chimney mode, or a start counted and begun with every die on its way from OFF to ON and the
sub-channels that are not trained in training (R236). Helm is released where it was reset. -/
def startStep2 (s : State) : State :=
  let s := s.setF F.ST_STATUS_LIMIT 0 (s.helm.startCfg.getD 3)
  let s := { s with helm := { s.helm with up := true } }
  if s.b F.ST_STATUS_CHIMNEY 0 || decide (s.f F.ST_STATUS_LIMIT 0 ≤ s.f F.ST_STATUS_COUNT 0) then chimneyEnter s
  else if !s.b F.HELM_STATUS_PROV 0 then chimneyEnter (startRecord 8 s)
  else
    let c := s.f F.ST_STATUS_COUNT 0 + 1
    let s := ((s.setF F.ST_STATUS_COUNT 0 c).setF F.ST_STATUS_SLOT 0 ((c - 1) % 2)).wrapInc F.ST_STATUS_STARTS 0
    let s := iter 64 (fun i t => if t.f F.MC_TRAIN_STATE i = 0 then t.setF F.MC_TRAIN_STATE i 1 else t) s
    iter 12 (fun n t => dieStart n none t) (s.setF F.ST_STATUS_PHASE 0 2)

/-- A hard package reset (R528, R537). -/
def hardReset (s : State) : State := startStep2 (pkgReset .hard (evlog 3 0 (startEnds s)))

/-- A power-on reset: the start begins at step 1, with the rails. -/
def powerOnReset (s : State) : State := pkgReset .powerOn (evlog 2 0 (startEnds s))

/-- The package OFF: what the input loss or the power-down left is gone at the power-on reset that follows, but AON keeps its
timebase until then (R36, R507, R514). -/
def goOff (s : State) : State := { (pkgReset .powerOn s).setR .PHE_TB 0 s.tb with pkgOff := true, aonTb := s.aonTb }

end Sys2Proof.Machine
end

