-- ==== Sys2Proof/Machine/Helm.lean ====
section
/-! DEFINITION. Helm: its mailboxes, the checks of a command, the critical commands with their store record, the status and
service commands, the approved mode, and commands forwarded through Paleg (R393 to R416, R503, R563 to R567). -/
namespace Sys2Proof.Machine

/-! ## Mailbox contents (R398, R416) -/

/-- Byte i of a number, its lowest byte first. -/
def nbyte (v i : Nat) : Nat := v / 256 ^ i % 256

/-- n bytes of a number from byte i. -/
def nslice (v i n : Nat) : Nat := v / 256 ^ i % 256 ^ n

/-- The first bytes of a mailbox's request buffer, up to word n. -/
def reqWords (m : Nat) (s : State) : Nat → Nat
  | 0 => 0
  | n + 1 => reqWords m s n + (s.r .HELM_MB_REQ (m * 134 + n)).toNat * 2 ^ (64 * n)

/-- The request of a mailbox. -/
def reqAll (m : Nat) (s : State) : Nat := reqWords m s 134

/-- The response buffer of a mailbox. -/
def rspAll (m : Nat) (s : State) : Nat :=
  (List.range 134).foldl (fun v i => v + (s.r .HELM_MB_RSP (m * 134 + i)).toNat * 2 ^ (64 * i)) 0

/-- n bytes of v written into a mailbox buffer at byte off. -/
def bufWrite (g : Reg) (m off n v : Nat) (s : State) : State :=
  iter 134 (fun i t =>
    if 8 * i + 8 ≤ off ∨ off + n ≤ 8 * i then t
    else
      let old := (t.r g (m * 134 + i)).toNat
      t.setR g (m * 134 + i) (BitVec.ofNat 64 ((List.range 8).foldl (fun w b =>
        w + (if off ≤ 8 * i + b ∧ 8 * i + b < off + n then nbyte v (8 * i + b - off) else nbyte old b) * 256 ^ b) 0))) s

/-- The fields of a command's header. -/
structure HelmCmd where
  opcode  : Nat
  length  : Nat
  keyslot : Nat
  res     : Nat
  target  : Nat
  counter : Nat
  raw     : Nat
  deriving DecidableEq, Repr

/-- The command in a mailbox. -/
def helmCmd (m : Nat) (s : State) : HelmCmd :=
  let v := reqAll m s
  { opcode := nslice v 0 2, length := nslice v 2 2, keyslot := nbyte v 4, res := nbyte v 5, target := nslice v 6 2,
    counter := nslice v 8 8, raw := v }

/-- Payload byte i. -/
def HelmCmd.pay (c : HelmCmd) (i : Nat) : Nat := nbyte c.raw (16 + i)

/-- n payload bytes from byte i. -/
def HelmCmd.payN (c : HelmCmd) (i n : Nat) : Nat := nslice c.raw (16 + i) n

/-- LOCAL, or the node of this package. -/
def HelmCmd.isLocal (c : HelmCmd) (s : State) : Bool := c.target.testBit 15 || c.target % 4096 == plSelf s

/-- The length that the header gives the command. -/
def HelmCmd.total (c : HelmCmd) : Nat := 16 + c.length + (if c.keyslot = 1 then 24 else 0)

/-- Status commands, services and critical commands by their opcodes (R408 to R410). -/
def opStatus (o : Nat) : Bool := decide (1 ≤ o) && decide (o ≤ 4)
/-- A service command. -/
def opService (o : Nat) : Bool := decide (0x101 ≤ o) && decide (o ≤ 0x10B)
/-- A critical command. -/
def opCritical (o : Nat) : Bool := decide (0x201 ≤ o) && decide (o ≤ 0x20B)
/-- A known opcode. -/
def opKnown (o : Nat) : Bool := opStatus o || opService o || opCritical o || o == 0x301

/-- The least payload length of a command. -/
def opMinLen (o : Nat) : Nat :=
  match o with
  | 0x003 => 48
  | 0x201 => 2
  | 0x202 => 3
  | 0x203 => 32
  | 0x204 => 8
  | 0x205 => 1
  | 0x208 => 48
  | 0x209 => 76
  | 0x20A => 1
  | _ => 0

/-- Check 1 of R401: lengths, reserved fields, KEYSLOT and the unauthenticated COUNTER. -/
def formatOk (m : Nat) (c : HelmCmd) (s : State) : Bool :=
  let len := smapGet (fun _ => 0) s.helm.lens m
  decide (16 ≤ len) && decide (c.length ≤ 1024) && len == c.total && c.res == 0 && c.target / 2 ^ 12 % 8 == 0 &&
    (c.keyslot == 1 || (c.keyslot == 0 && c.counter == 0)) &&
    (!opKnown c.opcode || c.keyslot == (if opCritical c.opcode then 1 else 0)) &&
    (c.opcode != 0x301 || (c.length == 96 && c.target.testBit 15)) && decide (opMinLen c.opcode ≤ c.length)

/-- Check 3: the command is allowed on its mailbox (R406). -/
def pathOk (m o : Nat) : Bool :=
  match m with
  | 0 => true
  | 1 => opStatus o || opCritical o
  | 2 => opStatus o || opCritical o || o == 0x301
  | 3 => opStatus o || opCritical o
  | _ => opStatus o

/-! ## Responses (R400, R503) -/

/-- The first 24 bytes of the HMAC of R399 over n bytes. -/
def helmTag (key n v : Nat) : Nat := Config.hmac384 key (8 + n) (Config.deviceId.toNat + v * 2 ^ 64) % 256 ^ 24

/-- v of n bytes cut into cells of 64 bytes, with their segment numbers. -/
def cellCuts : Nat → Nat → Nat → Nat → List (Nat × Nat × Line)
  | 0, _, _, _ => []
  | fuel + 1, seg, n, v =>
    if n = 0 then [] else (seg, min n 64, BitVec.ofNat 512 (v % 256 ^ min n 64)) :: cellCuts fuel (seg + 1) (n - 64) (v / 256 ^ 64)

/-- The cells of a command or response. -/
def helmCells (ty dest mb n v : Nat) (s : State) : List PlCell :=
  (cellCuts 32 0 n v).map fun (seg, l, d) =>
    { ty := ty, w := true, src := plSelf s, dest := dest, tag := mb, addr := seg + mb * 256, len := l, data := d }

/-- A response placed in a mailbox: DONE. Mailbox 2 reports it by an in-band interrupt; mailbox 3 sends it back as HRSP
cells, after which its DONE is clear. -/
def mbDone (m n v : Nat) (s : State) : State :=
  let s := bufWrite .HELM_MB_RSP m 0 n v s
  let s := ((s.setF F.HELM_MB_STATUS_RSP_LEN m n).setF F.HELM_MB_STATUS_STATUS m (nbyte v 4)).setB F.HELM_MB_STATUS_BUSY m false
  let s := (s.setB F.HELM_MB_STATUS_PENDING m false).setB F.HELM_MB_STATUS_DONE m true
  if m = 2 then inBand 1 s
  else if m = 3 then
    match s.helm.serving with
    | some r =>
      let s := (helmCells 6 r.src r.mb n v s).foldl (fun t c => plReturn r.port c t) s
      { s.setB F.HELM_MB_STATUS_DONE m false with helm := { s.helm with serving := none } }
    | none => s
  else s

/-- The response to the command of a mailbox: n payload bytes p; key: the key of its TAG. The TARGET bytes are free. -/
def respond (m status n p : Nat) (key : Option Nat) (s : State) : State :=
  let c := helmCmd m s
  let head := c.opcode + n * 2 ^ 16 + status * 2 ^ 32 + (if s.b F.HELM_STATUS_APPROVED 0 then 2 ^ 40 else 0)
    + s.freeWord.toNat % 2 ^ 16 * 2 ^ 48 + c.counter * 2 ^ 64
  let v := head + p % 256 ^ n * 256 ^ 16
  match key with
  | none => mbDone m (16 + n) v s.bump
  | some k => mbDone m (40 + n) (v + helmTag k (16 + n) v * 256 ^ (16 + n)) s.bump

/-! ## Service of the mailboxes (R407, R503) -/

/-- Helm serves commands: its self-tests have ended. -/
def helmReady (s : State) : Bool := s.helm.up && (s.b F.HELM_STATUS_SELFTEST 0 || s.b F.HELM_STATUS_ERRSTATE 0)

/-- The next mailbox with a pending doorbell, after the one last served. -/
def nextMb (s : State) : Option Nat :=
  let l := s.f F.HELM_STATUS_LAST_MB 0
  ((List.range 5).map fun i => (l + 1 + i) % 5).find? fun m => s.b F.HELM_MB_STATUS_PENDING m

/-- A command for another node leaves as HCMD cells, or answers FORWARD. -/
def helmForward (m : Nat) (c : HelmCmd) (s : State) : State :=
  let node := c.target % 4096
  let p := plRoute node s
  if p < 8 ∧ plRole p s = 2 ∧ plState p s = 2 then
    let s := { s with helm := { s.helm with fwd := s.helm.fwd ++ [{ mb := m, node := node, got := [], t0 := s.tb }] } }
    (helmCells 5 node m (smapGet (fun _ => 0) s.helm.lens m) (reqAll m s) s).foldl (fun t x => plEmit p p x t) s
  else respond m 0x0B 0 0 none s

/-- Helm takes the next command. It forwards one for another node, answers one of an unknown opcode, and otherwise begins to
perform it. -/
def helmPump : Nat → State → State
  | 0, s => s
  | fuel + 1, s =>
    if s.helm.cur.isSome || !helmReady s then s
    else
      match nextMb s with
      | none => s
      | some m =>
        let s := (s.setB F.HELM_MB_STATUS_PENDING m false).setF F.HELM_STATUS_LAST_MB 0 m
        let c := helmCmd m s
        if !c.isLocal s && c.opcode != 0x301 then helmPump fuel (helmForward m c s)
        else if !opKnown c.opcode then helmPump fuel (respond m (if formatOk m c s then 2 else 1) 0 0 none s)
        else { s with helm := { s.helm with cur := some m, held := false } }

/-- The doorbells of all mailboxes served, in a bounded number of steps. -/
def helmServe (s : State) : State := helmPump 6 s

/-- The command under way ends with a response, and the next one is taken. -/
def finish (m status n p : Nat) (key : Option Nat) (s : State) : State :=
  let s := respond m status n p key s
  helmServe { s with helm := { s.helm with cur := none, held := false, holding := false, locked := s.helm.locked.erase m } }

/-- A doorbell: submitted unless the mailbox is BUSY or its response has not been read. A command that arrives during a
hold is marked (R405, R407). -/
def mbDoorbell (m len : Nat) (s : State) : State :=
  if s.b F.HELM_MB_STATUS_BUSY m || s.b F.HELM_MB_STATUS_DONE m then s
  else
    let s := (s.setB F.HELM_MB_STATUS_BUSY m true).setB F.HELM_MB_STATUS_PENDING m true
    let h := s.helm
    helmServe { s with helm := { h with
      lens := smapSet (fun _ => 0) h.lens m len
      locked := if h.holding then h.locked ++ [m] else h.locked.erase m } }

/-- A write of HELM_MB_CTRL(m) (R416). -/
def mbCtrlWrite (m : Nat) (v : Word) (s : State) : State :=
  let s := s.wr .HELM_MB_CTRL m v
  if vset F.HELM_MB_CTRL_DOORBELL v then mbDoorbell m (fget F.HELM_MB_CTRL_LEN v) s else s

/-- HELM_DOORBELL. -/
def execHelmDoorbell (a : Access) (m : Nat) (v : Word) (s : State) : Out :=
  .next (if m < 5 then guarded a true .HELM_MB_CTRL m (mbCtrlWrite m (v ||| 1#64)) s else s)

/-! ## Checks 1 to 4 (R401) -/

/-- The command under way has opcode o: it is checked in the order of R401 and, when checks 1 to 4 pass, body goes on. -/
def helmRun (o : Nat) (body : Nat → HelmCmd → State → State) (s : State) : State :=
  match s.helm.cur with
  | none => s
  | some m =>
    let c := helmCmd m s
    if c.opcode ≠ o ∨ s.helm.holding then s
    else if !formatOk m c s then finish m 1 0 0 none s
    else if !pathOk m o then finish m 3 0 0 none s
    else if s.b F.HELM_STATUS_ERRSTATE 0 && o != 1 then finish m 9 0 0 none s
    else body m c s

/-! ## The monotonic store (R403, R404, R563) -/

/-- Helm's store failure reported (R404, R555). -/
def storeFailure (o : Nat) (s : State) : State := report 0x0C 3 true none 0 0x12A o s

/-- A repair record added, and counted (R563). -/
def repairAdd (kind counter body : Nat) (s : State) : State :=
  let s := { s with repairs := s.repairs ++ [(⟨kind, counter, body⟩ : Repair)] }
  s.setF F.RAS_REPAIR_COUNT 0 s.repairs.length

/-- The stored mode and APPROVED cleared (R412). -/
def leaveApproved (s : State) : State :=
  { s.setB F.HELM_STATUS_APPROVED 0 false with helm := { s.helm with mode := false } }

/-! ## Preconditions and effects of the critical commands (R408, R412, R564) -/

/-- Spare rows that an array of R564 has (R168). -/
def arraySpares (a : Nat) : Option Nat :=
  match a with
  | 0x00 | 0x02 => some 2
  | 0x01 | 0x03 => some 1
  | 0x04 => some 8
  | 0x05 | 0x06 => some 2
  | 0x08 => some 16
  | 0x09 | 0x0A => some 4
  | 0x20 | 0x21 => some (Config.iodSpares a)
  | _ => none

/-- Die, array and instance name an array of R564. -/
def arrayOk (die a inst : Nat) : Bool :=
  (die < 12 && (a ≤ 6 || a == 8 || a == 9 || a == 0xA) && inst < 20) ||
    (die == 12 && ((a == 0x20 && inst < 16) || (a == 0x21 && inst < 4)))

/-- The spare rows of an array that the fuse map and the committed rows have taken. -/
def rowsUsed (die a inst : Nat) (s : State) : Nat :=
  Config.fuseRows die a inst + (s.repairs.countP fun r => r.kind == 4 && r.body % 256 == die &&
    r.body / 2 ^ 8 % 256 == a && r.body / 2 ^ 16 % 65536 == inst)

/-- A spare row remains in an array. -/
def rowSpare (die a inst : Nat) (s : State) : Bool :=
  match arraySpares a with
  | none => false
  | some n => decide (rowsUsed die a inst s < n)

/-- The lane mask of LANE_COMMIT, as bytes 12 on of its repair record. -/
def laneBody (c : HelmCmd) : Nat := c.pay 0 + c.pay 1 * 2 ^ 8 + c.payN 8 24 % 2 ^ 136 * 2 ^ 32

/-- The lanes that group g needs at half width, or for the sideband (R313). -/
def laneNeed (g : Nat) : Nat := if g ≤ 1 then 64 else if g = 2 then 44 else 20

/-- Lanes of a group that a mask leaves good. -/
def lanesLeft (g mask : Nat) : Nat := (List.range (laneCount g)).countP fun b => !mask.testBit b

/-- The preconditions of a critical command (step 6 of R401). -/
def critOk (c : HelmCmd) (s : State) : Bool :=
  let room : Bool := decide (s.repairs.length < 512)
  match c.opcode with
  | 0x201 => c.pay 0 &&& c.pay 1 == 0
  | 0x202 =>
    let n := c.pay 0
    n < 12 && c.pay 1 < 20 && c.pay 2 < 20 && s.f F.FAB_POS_MAP_STATE (20 * n + c.pay 1) == 0 &&
      s.f F.FAB_POS_MAP_STATE (20 * n + c.pay 2) == 1 && !s.fbit F.RAS_REPAIR_PENDING 0 n && room
  | 0x203 =>
    let n := c.pay 0
    let g := c.pay 1
    let m := c.payN 8 24
    n < 12 && g < 4 && room &&
      (if c.pay 2 % 2 = 1 then m &&& regMask .BR_LFUSE n g s == 0
       else decide (laneNeed g ≤ lanesLeft g (m ||| committedMask n g s ||| regMask .BR_LFUSE n g s)))
  | 0x204 => arrayOk (c.pay 0) (c.pay 1) (c.payN 2 2) && rowSpare (c.pay 0) (c.pay 1) (c.payN 2 2) s && room
  | 0x205 => 1 ≤ c.pay 0 && c.pay 0 ≤ 7
  | 0x206 => inChimney s
  | 0x209 =>
    Config.gcmTag (Config.kdf s.helm.cmdKey 0) (c.payN 0 12) 0 0 48 (c.payN 12 48) == c.payN 60 16
  | 0x20A =>
    c.pay 0 == 0 || (c.pay 0 == 1 && s.b F.HELM_STATUS_SELFTEST 0 && s.b F.HELM_STATUS_PROV 0 &&
      !s.b F.HELM_STATUS_HELM_DBG 0 && !s.helm.slots.any fun (_, k) => match k with
        | some k => k.plain
        | none => false)
  | _ => true

/-- The effect of a critical command, its counter stored. The resets of CHIMNEY_EXIT and PKG_RESET follow the response. -/
def critDo (c : HelmCmd) (s : State) : State :=
  match c.opcode with
  | 0x201 =>
    let s := dbgSet ((bits (s.r .WC_DBG 0) 3 0 ||| (c.pay 0 % 16)) &&& (15 - c.pay 1 % 16)) s
    if (c.pay 0).testBit 4 then leaveApproved (s.setB F.HELM_STATUS_HELM_DBG 0 true)
    else if (c.pay 1).testBit 4 then s.setB F.HELM_STATUS_HELM_DBG 0 false else s
  | 0x202 =>
    (repairAdd 1 (c.counter % 2 ^ 32) (c.pay 0 + c.pay 1 * 2 ^ 8 + c.pay 2 * 2 ^ 16) s).setFbit F.RAS_REPAIR_PENDING 0
      (c.pay 0) true
  | 0x203 => repairAdd (if c.pay 2 % 2 = 1 then 3 else 2) (c.counter % 2 ^ 32) (laneBody c) s
  | 0x204 => repairAdd 4 (c.counter % 2 ^ 32) (c.payN 0 8) s
  | 0x205 => { s with helm := { s.helm with startCfg := some (c.pay 0) } }
  | 0x206 => evlog 7 0 ((s.setF F.ST_STATUS_COUNT 0 0).setB F.ST_STATUS_CHIMNEY 0 false)
  | 0x208 => { s with helm := { s.helm with image := c.payN 0 48 } }
  | 0x209 =>
    { s with helm := { s.helm with cmdKey := Config.gcmDec (Config.kdf s.helm.cmdKey 0) (c.payN 0 12) 0 0 48 (c.payN 12 48) } }
  | 0x20A =>
    if c.pay 0 = 1 then { s.setB F.HELM_STATUS_APPROVED 0 true with helm := { s.helm with mode := true } } else leaveApproved s
  | 0x20B =>
    let s := leaveApproved (s.setB F.HELM_STATUS_PROV 0 false)
    { s with helm := { s.helm with cmdKey := 0, image := 0, slots := [] } }
  | _ => s

/-- The hard reset that follows the response of CHIMNEY_EXIT and PKG_RESET; the cells of a response to another node have
left. -/
def critReset (o : Nat) (s : State) : State :=
  if o = 0x206 ∨ o = 0x207 then
    let left := s.out.filter fun m => match m with
      | .cell _ c => c.ty == 6
      | _ => false
    let s := hardReset s
    { s with out := left ++ s.out }
  else s

/-- Steps 5 to 7 for a command whose tag check may be made now: AUTH, COUNTER, then one store record with the counter and,
when the preconditions hold, the effect. -/
def critCheck (m : Nat) (c : HelmCmd) (fails : Bool) (s : State) : State :=
  let key := s.helm.cmdKey
  if helmTag key (16 + c.length) (c.raw % 256 ^ (16 + c.length)) ≠ c.payN c.length 24 then
    finish m 4 0 0 none (s.satInc F.HELM_STATUS_AUTH_FAIL 0)
  else
    let s := s.setF F.HELM_STATUS_AUTH_FAIL 0 0
    if c.counter ≤ (s.r .HELM_COUNTER 0).toNat ∨ c.counter = 2 ^ 64 - 1 then finish m 5 0 0 (some key) s
    else if fails then finish m 8 0 0 (some key) (storeFailure c.opcode s)
    else
      let ok := critOk c s
      let s := s.setR .HELM_COUNTER 0 (BitVec.ofNat 64 c.counter)
      if ok then critReset c.opcode (finish m 0 0 0 (some key) (critDo c s)) else finish m 6 0 0 (some key) s

/-- A critical command: KEY, LOCKOUT, the hold of R405, then the tag check. -/
def critRun (o : Nat) (fails : Bool) (s : State) : State :=
  helmRun o (fun m c s =>
    if !s.b F.HELM_STATUS_PROV 0 then finish m 7 0 0 none s
    else if s.helm.locked.contains m then finish m 0x0C 0 0 none s
    else if 16 ≤ s.f F.HELM_STATUS_AUTH_FAIL 0 ∧ !s.helm.held then { s with helm := { s.helm with holding := true, holdAt := s.tb } }
    else critCheck m c fails s) s

/-- DBG_SET. -/
def execHelmDbgSet (storeFails : Bool) (s : State) : Out := .next (critRun 0x201 storeFails s)
/-- CORE_RETIRE. -/
def execCoreRetire (storeFails : Bool) (s : State) : Out := .next (critRun 0x202 storeFails s)
/-- LANE_COMMIT. -/
def execLaneCommit (storeFails : Bool) (s : State) : Out := .next (critRun 0x203 storeFails s)
/-- ROW_COMMIT. -/
def execRowCommit (storeFails : Bool) (s : State) : Out := .next (critRun 0x204 storeFails s)
/-- START_CFG. -/
def execStartCfg (storeFails : Bool) (s : State) : Out := .next (critRun 0x205 storeFails s)
/-- CHIMNEY_EXIT. -/
def execChimneyExit (storeFails : Bool) (s : State) : Out := .next (critRun 0x206 storeFails s)
/-- PKG_RESET. -/
def execPkgResetCmd (storeFails : Bool) (s : State) : Out := .next (critRun 0x207 storeFails s)
/-- IMAGE_KEY_SET. -/
def execImageKeySet (storeFails : Bool) (s : State) : Out := .next (critRun 0x208 storeFails s)
/-- KEY_ROTATE. -/
def execKeyRotate (storeFails : Bool) (s : State) : Out := .next (critRun 0x209 storeFails s)
/-- MODE_SET. -/
def execModeSet (storeFails : Bool) (s : State) : Out := .next (critRun 0x20A storeFails s)
/-- ZEROIZE. -/
def execZeroize (storeFails : Bool) (s : State) : Out := .next (critRun 0x20B storeFails s)

/-- LOCKOUT_HOLD_END: 100 ms of the hold have passed, and the held command's tag check proceeds (R405). -/
def execLockoutHoldEnd (storeFails : Bool) (s : State) : Out :=
  match s.helm.cur with
  | some m =>
    if s.helm.holding && decide (100000 * tbMicro ≤ (s.tb - s.helm.holdAt).toNat) then
      let s := { s with helm := { s.helm with holding := false, held := true } }
      .next (critCheck m (helmCmd m s) storeFails s)
    else .next s
  | none => .next s

/-- PROVISION (R397). -/
def execProvision (storeFails : Bool) (s : State) : Out :=
  .next (helmRun 0x301 (fun m c s =>
    if s.b F.HELM_STATUS_PROV 0 || s.b F.HELM_STATUS_APPROVED 0 then finish m 6 0 0 none s
    else if storeFails then finish m 8 0 0 none (storeFailure 0x301 s)
    else
      let s := { s with helm := { s.helm with cmdKey := c.payN 0 48, image := c.payN 48 48 } }
      finish m 0 0 0 none (s.setB F.HELM_STATUS_PROV 0 true)) s)

/-! ## Status commands (R409, R567) -/

/-- Numbers of given byte lengths put one after another. -/
def catBytes : List (Nat × Nat) → Nat
  | [] => 0
  | (n, v) :: r => v % 256 ^ n + 256 ^ n * catBytes r

/-- GET_STATUS. -/
def execHelmGetStatus (s : State) : Out :=
  .next (helmRun 1 (fun m _ s => finish m 0 65 (catBytes
    [(8, (s.r .HELM_STATUS 0).toNat), (8, (s.r .HELM_COUNTER 0).toNat), (1, s.helm.startCfg.getD 0), (48, s.helm.image)]) none s) s)

/-- GET_DEVICE_ID. -/
def execHelmGetDeviceId (s : State) : Out :=
  .next (helmRun 2 (fun m _ s => finish m 0 16 (catBytes
    [(8, (s.r .HELM_DEVICE_ID 0).toNat), (8, (s.r .FAB_PKG_ID 0).toNat)]) none s) s)

/-- The 32 bytes of repair record i (R563). -/
def repairBytes (i : Nat) (r : Repair) : Nat :=
  catBytes [(2, i), (1, r.kind), (1, 0), (4, r.counter), (24, r.body)]

/-- Repair records as bytes, from index i. -/
def repairsBytes : Nat → List Repair → Nat
  | _, [] => 0
  | i, r :: rs => repairBytes i r + 256 ^ 32 * repairsBytes (i + 1) rs

/-- The private key of slot 3, derived from ROOT. -/
def attestKey : Nat := Config.kdf Config.rootKey 2

/-- GET_ATTEST: the signature covers everything before it. -/
def execHelmGetAttest (s : State) : Out :=
  .next (helmRun 3 (fun m c s =>
    let body := catBytes [(48, c.payN 0 48), (8, Config.deviceId.toNat), (8, (s.r .FAB_PKG_ID 0).toNat),
      (1, s.f F.HELM_STATUS_APPROVED 0), (8, (s.r .HELM_COUNTER 0).toNat), (48, s.helm.image),
      (48, Config.sha384 (32 * s.repairs.length) (repairsBytes 0 s.repairs))]
    let sig := Config.ecdsaSign attestKey (Config.sha384 169 body) s.fresh
    finish m 0 265 (catBytes [(169, body), (96, sig)]) none s.bump) s)

/-- GET_REPAIRS: up to 32 records from an index. -/
def execHelmGetRepairs (index : Nat) (s : State) : Out :=
  .next (helmRun 4 (fun m _ s =>
    let rs := (s.repairs.drop index).take 32
    finish m 0 (32 * rs.length) (repairsBytes index rs) none s) s)

/-! ## Service commands (R410) -/

/-- The key of a working slot. -/
def workKey (slot : Nat) (s : State) : Option HelmKey :=
  if 4 ≤ slot ∧ slot < 32 then smapGet (fun _ => none) s.helm.slots slot else none

/-- A working slot set. -/
def setSlot (slot : Nat) (k : Option HelmKey) (s : State) : State :=
  { s with helm := { s.helm with slots := smapSet (fun _ => none) s.helm.slots slot k } }

/-- A service command performed once no transaction of the lines that it reads or writes is under way (R171). -/
def helmRunMem (ranges : List (Nat × Nat)) (op : Nat) (act : Nat → HelmCmd → State → State) (s : State) : State :=
  if ranges.any fun (a, n) => agentWaits a n s then s else helmRun op act s

/-- n bytes of DRAM as Helm reads them. -/
def helmRead (a n : Nat) (s : State) : Option Nat × State := agentRead (agentFuel n) a n s

/-- n bytes of DRAM written by Helm; a refusal answers DATA. -/
def helmPut (m a n v : Nat) (rsp : Nat × Nat) (s : State) : State :=
  match agentWrite (agentFuel n) a n v s with
  | (true, s) => finish m 0 rsp.1 rsp.2 none s
  | (false, s) => finish m 0x0A 0 0 none s

/-- RANDOM. -/
def execHelmRandom (count : Nat) (s : State) : Out :=
  .next (helmRun 0x101 (fun m _ s =>
    if count = 0 ∨ 1024 < count then finish m 6 0 0 none s
    else finish m 0 count (Config.drbg s.fresh count) none s.bump) s)

/-- SHA384. -/
def execHelmSha384 (src len : Nat) (s : State) : Out :=
  .next (helmRunMem [(src, len)] 0x102 (fun m _ s =>
    if 2 ^ 24 < len then finish m 6 0 0 none s
    else match helmRead src len s with
      | (some v, s) => finish m 0 48 (Config.sha384 len v) none s
      | (none, s) => finish m 0x0A 0 0 none s) s)

/-- HMAC. -/
def execHelmHmac (slot src len : Nat) (s : State) : Out :=
  .next (helmRunMem [(src, len)] 0x103 (fun m _ s =>
    match workKey slot s with
    | some ⟨true, _, key⟩ =>
      match helmRead src len s with
      | (some v, s) => finish m 0 48 (Config.hmac384 key len v) none s
      | (none, s) => finish m 0x0A 0 0 none s
    | _ => finish m 7 0 0 none s) s)

/-- AES_GCM_ENC: the ciphertext with its 16-byte tag after it; iv 0 takes an IV from the DRBG, which the response gives. -/
def execHelmGcmEnc (slot src dst len iv aad aadLen : Nat) (s : State) : Out :=
  .next (helmRunMem [(src, len), (aad, aadLen), (dst, len + 16)] 0x104 (fun m _ s =>
    match workKey slot s with
    | some ⟨false, _, key⟩ =>
      let used := if iv = 0 then Config.drbg s.fresh 12 else iv
      match helmRead aad aadLen s.bump with
      | (some ad, s) =>
        match helmRead src len s with
        | (some v, s) =>
          let e := Config.gcmEnc key used aadLen ad len v % 256 ^ len
          helmPut m dst (len + 16) (catBytes [(len, e), (16, Config.gcmTag key used aadLen ad len e)])
            (if iv = 0 then (12, used) else (0, 0)) s
        | (none, s) => finish m 0x0A 0 0 none s
      | (none, s) => finish m 0x0A 0 0 none s
    | _ => finish m 7 0 0 none s) s)

/-- AES_GCM_DEC: the tag follows the ciphertext; a failed check writes nothing. -/
def execHelmGcmDec (slot src dst len iv aad aadLen : Nat) (s : State) : Out :=
  .next (helmRunMem [(src, len + 16), (aad, aadLen), (dst, len)] 0x105 (fun m _ s =>
    match workKey slot s with
    | some ⟨false, _, key⟩ =>
      match helmRead aad aadLen s with
      | (some ad, s) =>
        match helmRead src (len + 16) s with
        | (some v, s) =>
          let e := v % 256 ^ len
          if Config.gcmTag key iv aadLen ad len e % 256 ^ 16 = v / 256 ^ len then
            helmPut m dst len (Config.gcmDec key iv aadLen ad len e) (0, 0) s
          else finish m 0x0A 0 0 none s
        | (none, s) => finish m 0x0A 0 0 none s
      | (none, s) => finish m 0x0A 0 0 none s
    | _ => finish m 7 0 0 none s) s)

/-- ECDSA_VERIFY. -/
def execHelmEcdsaVerify (pub digest sig : Nat) (s : State) : Out :=
  .next (helmRun 0x106 (fun m _ s => finish m 0 1 (if Config.ecdsaVerify pub digest sig then 1 else 0) none s) s)

/-- A key placed in a slot; slots 0 to 3, and slots that do not exist, answer KEY. -/
def placeKey (m slot : Nat) (k : HelmKey) (s : State) : State :=
  if 4 ≤ slot ∧ slot < 32 then finish m 0 0 0 none (setSlot slot (some k) s) else finish m 7 0 0 none s

/-- KEY_GEN. -/
def execHelmKeyGen (slot : Nat) (hmac : Bool) (s : State) : Out :=
  .next (helmRun 0x107 (fun m _ s =>
    placeKey m slot { hmac := hmac, plain := false, key := Config.drbg s.fresh (if hmac then 48 else 32) } s.bump) s)

/-- KEY_WRAP: IV, encrypted key and tag under the KDF of ROOT with label "wrap". -/
def execHelmKeyWrap (slot dst : Nat) (s : State) : Out :=
  .next (helmRunMem [(dst, 76)] 0x108 (fun m _ s =>
    match workKey slot s with
    | some k =>
      let iv := Config.drbg s.fresh 12
      let wk := Config.kdf Config.rootKey 1
      let e := Config.gcmEnc wk iv 0 0 48 k.key
      helmPut m dst 76 (catBytes [(12, iv), (48, e), (16, Config.gcmTag wk iv 0 0 48 (e % 256 ^ 48))]) (0, 0) s.bump
    | none => finish m 7 0 0 none s) s)

/-- KEY_LOAD: a blob whose tag does not verify answers DATA. -/
def execHelmKeyLoad (slot blob : Nat) (hmac : Bool) (s : State) : Out :=
  .next (helmRun 0x109 (fun m _ s =>
    let wk := Config.kdf Config.rootKey 1
    let iv := nslice blob 0 12
    let e := nslice blob 12 48
    if !(decide (4 ≤ slot) && decide (slot < 32)) then finish m 7 0 0 none s
    else if Config.gcmTag wk iv 0 0 48 e % 256 ^ 16 ≠ nslice blob 60 16 then finish m 0x0A 0 0 none s
    else placeKey m slot { hmac := hmac, plain := false, key := Config.gcmDec wk iv 0 0 48 e } s) s)

/-- KEY_LOAD_PLAIN leaves the approved mode. -/
def execHelmKeyLoadPlain (slot key : Nat) (hmac : Bool) (s : State) : Out :=
  .next (helmRun 0x10A (fun m _ s =>
    if 4 ≤ slot ∧ slot < 32 then
      placeKey m slot { hmac := hmac, plain := true, key := key % 256 ^ (if hmac then 48 else 32) } (leaveApproved s)
    else finish m 7 0 0 none s) s)

/-- KEY_ERASE. -/
def execHelmKeyErase (slot : Nat) (s : State) : Out :=
  .next (helmRun 0x10B (fun m _ s =>
    if (workKey slot s).isSome then finish m 0 0 0 none (setSlot slot none s) else finish m 7 0 0 none s) s)

/-! ## Self-tests (R412, R414) -/

/-- Helm in the error state: no key in SRAM, not approved, a FATAL record. -/
def helmError (s : State) : State :=
  let s := ((s.setB F.HELM_STATUS_ERRSTATE 0 true).setB F.HELM_STATUS_APPROVED 0 false).setB F.HELM_STATUS_SELFTEST 0 false
  helmServe (report 0x0C 4 true none 0 0x12A 0 { s with helm := { s.helm with slots := [] } })

/-- HELM_SELF_TEST: the power-up tests end, after Helm's release; a failure in the start is a failed start (R541). -/
def execHelmSelfTest (pass : Bool) (s : State) : Out :=
  if !s.helm.up || helmReady s then .next s
  else if pass then
    .next (helmServe ((s.setB F.HELM_STATUS_SELFTEST 0 true).setB F.HELM_STATUS_APPROVED 0 s.helm.mode))
  else .next (let s := helmError s; if starting s then startFail 3 s else s)

/-- HELM_TEST_FAILURE: a conditional test fails. -/
def execHelmTestFailure (s : State) : Out :=
  if !helmReady s || s.b F.HELM_STATUS_ERRSTATE 0 then .next s else .next (helmError s)

/-! ## Commands of other packages (R503) -/

/-- Bytes received in cells whose segments run on from 0. -/
def cellsBytes (got : List (Nat × Nat × Line)) : Nat → Nat → Nat × Nat
  | 0, _ => (0, 0)
  | fuel + 1, seg =>
    match got.find? fun g => g.1 == seg with
    | none => (0, 0)
    | some (_, l, d) =>
      let (n, v) := cellsBytes got fuel (seg + 1)
      if l = 64 then (64 + n, d.toNat + 256 ^ 64 * v) else (l, d.toNat % 256 ^ l)

/-- The cells of a command or response are all there: a short last cell, or the length of its header. -/
def cellsDone (got : List (Nat × Nat × Line)) (rsp auth : Bool) : Bool :=
  let (n, v) := cellsBytes got 32 0
  let tagged := if rsp then auth && [0, 5, 6, 8].contains (nbyte v 4) else nbyte v 4 == 1
  decide (16 ≤ n) && decide (16 + nslice v 2 2 + (if tagged then 24 else 0) ≤ n)

/-- HCMD: the next HCMD cell delivered here from port n joins its command; a complete one is submitted in mailbox 3. -/
def execHcmd (n : Nat) (s : State) : Out :=
  match plPop n 5 s with
  | none => .next s
  | some (c, s) =>
    let mb := c.addr / 256 % 16
    if c.addr % 256 = 0 ∧ (s.b F.HELM_MB_STATUS_BUSY 3 || s.b F.HELM_MB_STATUS_DONE 3) then .next (plReturn n (hrspForward c s) s)
    else
      let old := (s.helm.rx.find? fun r => r.src == c.src && r.mb == mb).getD { src := c.src, mb := mb, port := n, got := [] }
      let got := (if c.addr % 256 = 0 then [] else old.got) ++ [(c.addr % 256, c.len, c.data)]
      let r : HelmRx := { src := c.src, mb := mb, port := n, got := got }
      let rest := s.helm.rx.filter fun r => !(r.src == c.src && r.mb == mb)
      if !cellsDone got false false then .next { s with helm := { s.helm with rx := rest ++ [r] } }
      else
        let s := { s with helm := { s.helm with rx := rest } }
        let (len, v) := cellsBytes got 32 0
        if s.b F.HELM_MB_STATUS_BUSY 3 || s.b F.HELM_MB_STATUS_DONE 3 then
          .next (plReturn n (hrspForward { c with addr := mb * 256, data := BitVec.ofNat 512 v } s) s)
        else
          let s := bufWrite .HELM_MB_REQ 3 0 len v { s with helm := { s.helm with serving := some r } }
          .next (mbDoorbell 3 len s)

/-- HRSP: the next HRSP cell delivered here from port n joins its response; a complete one goes to the origin mailbox. -/
def execHrsp (n : Nat) (s : State) : Out :=
  match plPop n 6 s with
  | none => .next s
  | some (c, s) =>
    let mb := c.addr / 256 % 16
    match s.helm.fwd.find? fun f => f.mb == mb && f.node == c.src with
    | none => .next s
    | some f =>
      let got := f.got ++ [(c.addr % 256, c.len, c.data)]
      let rest := s.helm.fwd.erase f
      if cellsDone got true ((helmCmd mb s).keyslot == 1) then
        let (len, v) := cellsBytes got 32 0
        .next (mbDone mb len v { s with helm := { s.helm with fwd := rest } })
      else .next { s with helm := { s.helm with fwd := rest ++ [{ f with got := got }] } }

/-- FORWARD_TIMEOUT: the command forwarded from mailbox m has had no complete response for 1 s, and answers FORWARD. -/
def execForwardTimeout (m : Nat) (s : State) : Out :=
  match s.helm.fwd.find? fun f => f.mb == m with
  | none => .next s
  | some f => if (s.tb - f.t0).toNat < tbSecond then .next s else .next (respond m 0x0B 0 0 none { s with helm := { s.helm with fwd := s.helm.fwd.erase f } })

end Sys2Proof.Machine
end

