-- ==== Sys2Proof/Machine/Timed.lean ====
section
/-! DEFINITION. Xzdtime: phase reads and waits, timed stores, deadline monitors, tasks and dispatches (R113 to R145). -/
namespace Sys2Proof.Machine

/-- Register rd of a hart written. -/
def putX (h rd : Nat) (v : Word) (s : State) : State := s.onHart h fun t => t.setX rd v

/-- A stalled instruction completes: the stall ends and the pc moves on. -/
def unstall (h len : Nat) (s : State) : State :=
  s.onHart h fun t => { t.past len with stall := .none }

/-- A stalled hart can go on: its core is in RUN on a die that is ON, it is not halted and has no trap outstanding. -/
def stallRuns (h : Nat) (s : State) : Bool :=
  let t := s.hart h
  dieOn (hartDie h s) s && t.st == .run && !t.halted && t.trap.isNone

/-! ## Phase reads and waits (R119 to R122) -/

/-- PH.READ. -/
def execPhRead (i : Issue) (s : State) : Out :=
  .next (xtRun i (canSettle i s) 0xFF0F8000#32 (decide (8 < i.src)) true
    (fun s => pass i (putX i.hart i.rd (replicaValue (hartDie i.hart s) i.src s) s)) s)

/-- PH.WAIT: it completes at once when the target is not after the value, a target 2^31 cycles or more ahead counting as
reached (R598), and otherwise stalls in RUN. -/
def execPhWait (i : Issue) (target : Word) (s : State) : Out :=
  .next (xtRun i (canSettle i s) 0xFF000000#32 (decide (8 < i.src)) true
    (fun s =>
      let v := replicaValue (hartDie i.hart s) i.src s
      if phAfter target v then s.onHart i.hart fun t => { t with stall := .phWait i.rd i.src target i.len i.enc }
      else pass i (putX i.hart i.rd v s)) s)

/-- A stalled PH.WAIT whose replica is no longer valid raises exception 25 (R122). -/
def phWaitLost (h : Nat) (s : State) : State :=
  match (s.hart h).stall with
  | .phWait _ _ _ _ enc => s.onHart h fun t =>
      { t with stall := .none, trap := some { cause := 25, tval := BitVec.ofNat 64 enc.toNat, epc := t.pc } }
  | _ => s

/-- PH_WAIT_COMPLETE: the test of a stalled PH.WAIT. -/
def execPhWaitComplete (hart : Nat) (s : State) : Out :=
  let n := hartDie hart s
  match (s.hart hart).stall with
  | .phWait rd src target len _ =>
    if !stallRuns hart s then .next s
    else if !replicaValid n s then .next (phWaitLost hart s)
    else if phAfter target (replicaValue n src s) then .next s
    else .next (unstall hart len (putX hart rd (replicaValue n src s) s))
  | _ => .next s

/-- REPLICA_VALID_LOST: armed monitors of the die's harts miss, and their PH.WAITs raise exception 25 (R61, R122, R133). -/
def execReplicaValidLost (d : Nat) (s : State) : Out :=
  if 4 ≤ (s.replica d).bad ∧ replicaValid d s then
    .next (iter 256 (fun h t =>
      if hartExists h t && hartDie h t == d then phWaitLost h (iter 4 (fun m u => deadlineTest h m u) t) else t)
      (replicaLost d s))
  else .next s

/-! ## Timed stores (R123 to R131) -/

/-- The next entry number of a hart's timed store queue. -/
def tsNewId (h : Nat) (s : State) : Nat := (s.tsQ h).foldl (fun m e => max m (e.id + 1)) 0

/-- A timed store allocated: its queue entry, and its entry in the store buffer. -/
def tsAlloc (h : Nat) (x : TsInfo) (pbmt : Nat) (cls : TClass) (s : State) : State :=
  let id := tsNewId h s
  let s := s.setTsQ h (s.tsQ h ++ [{ id := id, info := x, stage := 0 }])
  sbCount h (s.onHart h fun t =>
    { t with sb := t.sb ++ [{ kind := .ts id, pa := x.pa, w := x.w, pbmt := pbmt, part := x.part, cls := cls, ea := x.pa }] })

/-- The fault of a timed store's target, or none (R124). -/
def tsTarget (pa size : Nat) (va : Word) : Option Nat :=
  if va.toNat % size ≠ 0 then some 6
  else if !inIo pa then some 7
  else if 0xFF0000000000 ≤ pa ∧ pa < 0xFF0000100000 then some 7
  else if 0xFF0000000000 ≤ pa ∧ size < 8 then some 7
  else none

/-- TS.STORE at execution. -/
def tsStoreDo (i : Issue) (va : Word) (y : Xlate) (data : Nat) (phase : Word) (s : State) : State :=
  let h := i.hart
  match xlated h .store va y s with
  | .error (c, s) => raise i c va s
  | .ok (pa, pbmt) =>
    match tsTarget pa i.tsSize va with
    | some c => raise i c va s
    | none =>
      let t := s.hart h
      let x : TsInfo := { pa := pa, size := i.tsSize, data := data % 2 ^ (8 * i.tsSize), phase := phase, src := i.tsSrc,
                          ld := i.tsLd, w := t.w, part := hartPart h s }
      if (s.tsQ h).length < 16 then pass i (tsAlloc h x pbmt i.cls s)
      else if bit (t.c CSR.mzdtsq) 8 then raiseEnc i 24 s
      else s.onHart h fun t => { t with stall := .tsFull x i.len pbmt i.cls }

/-- TS.STORE. va, data and phase are the values of rs1, rs2 and rs3. -/
def execTsStore (i : Issue) (va : Word) (x : Xlate) (data : Nat) (phase : Word) (s : State) : Out :=
  .next (xtRun i (canSettle i s && sbRoom i.hart s) 0x00000800#32 false false (tsStoreDo i va x data phase) s)

/-- TS_STORE_UNSTALL. -/
def execTsStoreUnstall (hart : Nat) (s : State) : Out :=
  match (s.hart hart).stall with
  | .tsFull x len pbmt cls =>
    if stallRuns hart s && decide ((s.tsQ hart).length < 16) && sbRoom hart s then
      .next (unstall hart len (tsAlloc hart x pbmt cls s))
    else .next s
  | _ => .next s

/-- A message of a hart to the PHE that has an earlier one of the hart before it: they are sent in their order (R312). -/
def tsBehind (hart : Nat) (m : Msg) (s : State) : Bool :=
  (s.out.takeWhile fun x => x != m).any fun x => match x with
    | .timed h _ => h == hart
    | .tsCancel h _ _ => h == hart
    | _ => false

/-- TIMED_STORE: a timed store reaches the PHE and becomes pending, or is late when the count has already passed its
phase; while the port is OFF or in ACQUIRE it waits (R127). -/
def execTimedStore (hart id : Nat) (s : State) : Out :=
  if !s.out.contains (.timed hart id) || !bridgeActive (hartDie hart s) s || tsBehind hart (.timed hart id) s then .next s
  else
    let s := s.take (.timed hart id)
    match (s.tsQ hart).find? fun e => e.id == id && e.stage == 0 with
    | none => .next s
    | some e =>
      let s := s.setTsQ hart ((s.tsQ hart).map fun x => if x.id = id then { x with stage := 1 } else x)
      if sourceLive e.info.src s && !phAfter e.info.phase (sourceCount e.info.src s) then
        .next (tsMatch hart { e with stage := 1 } true s.tb s)
      else .next s

/-- TIMED_STORE_MATCH: the movement of the port crosses a pending entry's phase forward. -/
def execTimedStoreMatch (hart id : Nat) (s : State) : Out :=
  match (s.tsQ hart).find? fun e => e.id == id && e.stage == 1 with
  | none => .next s
  | some e =>
    let c0 := sourcePrev e.info.src s
    let c1 := sourceCount e.info.src s
    if sourceLive e.info.src s && crosses 0 c0 c1 e.info.phase then
      .next (tsMatch hart e false (matchInstant s.tb c0 c1 e.info.phase) s)
    else .next s

/-- The order of R128: earlier match instant, lower hart, older entry. -/
def tsFirst (a b : Nat × TsEntry) : Bool :=
  if a.2.inst ≠ b.2.inst then phBefore a.2.inst b.2.inst
  else if a.1 ≠ b.1 then decide (a.1 < b.1) else decide (a.2.id ≤ b.2.id)

/-- The matched entry that takes the next commit slot. -/
def tsNext (s : State) : Option (Nat × TsEntry) :=
  (s.tsq.flatMap fun (h, q) => (q.filter fun e => e.stage == 2).map fun e => (h, e)).foldl
    (fun b x => match b with
      | none => some x
      | some y => if tsFirst y x then some y else some x) none

/-- TIMED_STORE_COMMIT_ISSUE: the commit leaves the PHE as an HP write with the entry's W and partition. -/
def execTimedStoreCommitIssue (s : State) : Out :=
  match tsNext s with
  | none => .next s
  | some (h, e) =>
    let x := e.info
    let s := s.setTsQ h ((s.tsQ h).map fun y => if y.id = e.id then { y with stage := 3 } else y)
    .next (openTx (.timed h e.id)
      { op := .wrIO, cls := .hp, w := x.w, part := x.part, src := pheAgent, dst := ioAgent (ioTarget x.pa s),
        addr := lineOf x.pa, data := true, mask := byteMask (x.pa % 64) x.size,
        payload := linePut 0 (x.pa % 64) x.size x.data } s)

/-- The end of a commit: the entry is freed; an error response is recorded (R130). -/
def tsDone (h id : Nat) (err : Bool) (s : State) : State :=
  match (s.tsQ h).find? fun e => e.id == id with
  | none => s
  | some e =>
    let j := tsIx h e.info.w
    let s := s.setTsQ h ((s.tsQ h).filter fun x => x.id != id)
    if err then (s.setB F.PHE_TSQ_STATUS_ERR j true).setF F.PHE_TSQ_ERRADDR_ADDR j e.info.pa else s

/-- TS.CANCEL: it waits until every older TS.STORE has reached the PHE, translates rs1 as a store unless that is x0, and sends
its cancel. va is the value of rs1. -/
def execTsCancelI (i : Issue) (va : Word) (x : Xlate) (s : State) : Out :=
  let h := i.hart
  let send (addr : Option Nat) (s : State) : State :=
    (s.send (.tsCancel h (s.hart h).w addr)).onHart h fun t => { t with stall := .tsCancel i.rd i.len }
  .next (xtRun i (canSettle i s && (s.tsQ h).all fun e => e.stage != 0) 0xFFF00000#32 false false
    (fun s => if i.rs1 = 0 then send none s
      else match xlated h .store va x s with
        | .error (c, s) => raise i c va s
        | .ok (pa, _) => send (some pa) s) s)

/-- TIMED_STORE_CANCEL: the pending entries of the world that match leave, and the hart that waits gets their number. -/
def execTimedStoreCancel (hart : Nat) (w : Bool) (addr : Option Nat) (s : State) : Out :=
  if !s.out.contains (.tsCancel hart w addr) || !bridgeActive (hartDie hart s) s || tsBehind hart (.tsCancel hart w addr) s then .next s
  else
    let s := s.take (.tsCancel hart w addr)
    let hit (e : TsEntry) : Bool := e.stage == 1 && e.info.w == w && (addr.isNone || addr == some e.info.pa)
    let n := (s.tsQ hart).countP hit
    let s := s.setTsQ hart ((s.tsQ hart).filter fun e => !hit e)
    match (s.hart hart).stall with
    | .tsCancel rd len => .next (unstall hart len (putX hart rd (BitVec.ofNat 64 n) s))
    | _ => .next s

/-! ## Deadline monitors (R132 to R134) -/

/-- DL.SET. v is the value of rs1. -/
def execDlSet (i : Issue) (v : Word) (s : State) : Out :=
  .next (xtRun i (canSettle i s) 0xFC000F80#32 (decide (8 < i.src)) true
    (fun s => pass i (s.onHart i.hart fun t => t.arm i.mon i.src v)) s)

/-- DL.CLR: a test that succeeds in the same cycle comes first (R133). -/
def execDlClr (i : Issue) (s : State) : Out :=
  .next (xtRun i (canSettle i s) 0xFCFF8000#32 false false
    (fun s =>
      let mon := i.mon
      let s := deadlineTest i.hart mon s
      let miss := (s.hart i.hart).miss mon
      pass i (s.onHart i.hart fun t =>
        (t.setC CSR.szddlctl (setBits (t.c CSR.szddlctl) (8 * mon) (8 * mon) 0)).setX i.rd (if miss then 1 else 0))) s)

/-- DEADLINE_MISS. -/
def execDeadlineMiss (hart mon : Nat) (s : State) : Out := .next (deadlineTest hart mon s)

/-! ## Tasks (R135 to R140) -/

/-- The virtual address of a descriptor. -/
def descAddr (h d : Nat) (s : State) : Word :=
  ((s.hart h).c CSR.szdtdbase &&& ~~~ 0x3FFF#64) + BitVec.ofNat 64 (64 * (d % 256))

/-- The load of a descriptor begins, in 16-byte accesses where its memory is not cacheable; the core stays in RUN and stalls
until it ends. A fault of any of them reports the descriptor's address (R139). -/
def descLoad (h d : Nat) (x : Xlate) (s : State) : State :=
  let t := s.hart h
  let va := descAddr h d s
  let (accs, after, s) : List LAcc × Option (Nat × Word) × State :=
    match xlated h .load va x s with
    | .error (c, s) => ([], some (c, va), s)
    | .ok (pa, pbmt) =>
      if inDram pa s ∧ pbmt = 0 then ([{ va := va, pa := pa, size := 64, pbmt := pbmt }], none, s)
      else ((List.range 4).map fun k =>
        { va := va, pa := pa + 16 * k, size := 16, pbmt := pbmt }, none, s)
  let l : PLoad := { id := t.nextId, pc := t.pc, dst := .v [], accs := accs, part := txPart h s, v := t.virt, w := t.w,
                     cls := .be, stream := false, after := after, desc := some d }
  loadsPump h (s.onHart h fun t =>
    { t with loads := t.loads ++ [l], nextId := t.nextId + 1, stall := .desc, st := .run })

/-- A dispatch starts: from the descriptor cache, or after the load of its descriptor. -/
def beginTask (h : Nat) (d : Disp) (x : Xlate) (s : State) : State :=
  match tdcFind d.desc (s.hart h).tdc with
  | some l => taskStart h d l (s.onHart h fun t => { t with tdc := tdcPut d.desc l t.tdc })
  | none => descLoad h d.desc x (s.onHart h fun t => { t with start := some d })

/-- TK.YIELD: a held dispatch starts at once; otherwise the core parks in the dispatch wait, after a preload where rs1 is
not x0. An interrupt that would be taken leaves the core in RUN (R111). hint is the value of rs1, and x translates the
descriptor's address. -/
def execTkYield (i : Issue) (hint : Word) (x : Xlate) (s : State) : Out :=
  .next (xtRun i (canDrained i s) 0xFFF00F80#32 false false
    (fun s =>
      let h := i.hart
      match (s.hart h).pend with
      | some d => beginTask h d x (s.onHart h fun t => { t with pend := none })
      | none =>
        if (irqTaken h s).isSome || (secureIrq h s && s.b F.WC_SENTRY_VALID h) then s
        else if i.rs1 = 0 then park h .disp s
        else
          let k := hint.toNat % 256
          match tdcFind k (s.hart h).tdc with
          | some l => park h .disp (s.onHart h fun t => { t with tdc := tdcPut k l t.tdc })
          | none => descLoad h k x s) s)

/-- TK.ARG. -/
def execTkArg (i : Issue) (s : State) : Out :=
  .next (xtRun i (canSettle i s) 0xFFCF8000#32 false false
    (fun s =>
      let t := s.hart i.hart
      let v := if i.sel = 0 then t.task0 else if i.sel = 1 then t.task1 else if i.sel = 2 then t.task2 else t.task3
      pass i (putX i.hart i.rd v s)) s)

end Sys2Proof.Machine
end

