-- ==== Sys2Proof/Machine/Power.lean ====
section
/-! DEFINITION. Power states, clocks and requests: the input and the power-fail sequence, compute die transitions, GATED
cores, frequencies and phase-locked operation (R110 to R112, R506 to R526, R533, R539). -/
namespace Sys2Proof.Machine

/-! ## Compute dies: draining, OFF, GATED, ON (R196, R212, R515, R533) -/

/-- The harts of CDn. -/
def dieHarts (n : Nat) (s : State) : List Nat := (List.range 256).filter fun h => hartExists h s && hartDie h s == n

/-- A hart has completed its older instructions and drained its store buffer. -/
def hartDrained (h : Nat) (s : State) : Bool :=
  let t := s.hart h
  t.sb.isEmpty && t.loads.isEmpty && !s.l2Pend.any fun q => q.np == coreOf h s && q.phase == 0

/-- CLEAN_INVAL over all of DRAM by the die's engine, once its harts have drained; true when the last acknowledgement has
come (R196). -/
def dieFlush (n : Nat) (s : State) : Bool × State :=
  if !(dieHarts n s).all fun h => hartDrained h s then (false, s)
  else
    let s := (l3Select n (fun _ => true) s).foldl (fun t k => if mayLeave n (t.l3L k).line t then l3Evict k t else t) s
    ((l3Select n (fun _ => true) s).isEmpty && !(s.vb.any fun v => v.die == n) && !(s.l3Pend.any fun q => q.die == n) &&
      !(s.sliceQ.any fun r => r.die == n), s)

/-- The die whose CDn space holds an instance of a register (R170). -/
def cdDie (g : Reg) (i : Nat) : Option Nat :=
  match g with
  | .CD_CORE_CACHE_CTRL | .CD_CORE_RANGE_BASE | .CD_CORE_RANGE_LIMIT | .CD_CORE_RANGE_CMD | .CD_CORE_RANGE_STATUS
  | .CD_CORE_ORD_STATUS | .CD_CORE_ORD_ERRADDR => some (i / 20)
  | .CD_CORE_L2_LOCK => some (i / 40)
  | .CD_L3_LOCK => some (i / 4)
  | .CD_L3_WAYDIS => some (i / 20)
  | .CD_L3_RANGE_BASE | .CD_L3_RANGE_LIMIT | .CD_L3_RANGE_CMD | .CD_L3_RANGE_STATUS | .CD_CACHE_ERRCNT | .CD_COH_CTRL
  | .CD_COH_STATUS => some i
  | _ => none

/-- The package is ACTIVE while a die is ON, and QUIET otherwise (R514). -/
def pkgStateSet (s : State) : State :=
  s.setF F.PWR_STATUS_PKG_STATE 0 (if (List.range 12).any fun n => dieOn n s then 0 else 1)

/-- LIMITED of each die and LIMITING (R521). Phase-locked operation is no limiting. -/
def limitSet (s : State) : State :=
  let s := iter 12 (fun n t => t.setB F.PWR_DIE_LIMITED n (dieOn n t && decide (t.f F.PWR_DIE_FREQ_EFF n < t.f F.PWR_DIE_FREQ_REQ n))) s
  s.setB F.PWR_STATUS_LIMITING 0 (!s.b F.PWR_STATUS_PLOCK 0 && (List.range 12).any fun n => s.b F.PWR_DIE_LIMITED n)

/-- A die that leaves ON leaves the TAP chain too (R574). -/
def chainLeave (n : Nat) (s : State) : State :=
  if s.fbit F.DBG_STATUS_CHAIN 0 n then (s.setFbit F.DBG_STATUS_CHAIN 0 n false).setB F.DBG_STATUS_CHAIN_LOST 0 true else s

/-- The frequency change of a die under way ends with a status, its clock being gone. -/
def freqDrop (n status : Nat) (s : State) : State :=
  match smapGet (fun _ => none) s.freqGoal n with
  | some (_, some k) => reqDone k status { s with freqGoal := smapErase s.freqGoal n }
  | _ => { s with freqGoal := smapErase s.freqGoal n }

/-- PWR_DIE(n) of a die that is not ON. -/
def dieState (n st : Nat) (s : State) : State :=
  limitSet (pkgStateSet (chainLeave n (freqDrop n 0 ((s.setF F.PWR_DIE_STATE n st).setF F.PWR_DIE_FREQ_EFF n 0))))

/-- CDn OFF: it keeps nothing, and its bridge is DOWN (R515, R318). Its registers come back at their reset values, with ERR =
ABORTED for a range command that ran (R161). -/
def dieGone (n : Nat) (s : State) : State :=
  let busy := (dieEngines n).filter fun e => s.ranges.any fun r => r.eng == e
  let s := haDieLost n (dieWipe n s)
  let s := { s with regs := s.regs.filter fun (k, _) => cdDie (Reg.ofNat (k % 1024)) (k / 1024) != some n }
  let s := busy.foldl (fun t e => rsSetErr e 2 t) s
  let s := { s with boot := { s.boot with kept := s.boot.kept.filter fun np => np / 20 != n }, dieTrans := smapErase s.dieTrans n }
  dieState n 0 (bridgeDown n 1 s)

/-- The caches of CDn lose their (clean) contents at GATED, and the descriptor caches of its cores with them. -/
def dieGate (n : Nat) (s : State) : State :=
  let s := (List.range 20).foldl (fun t p => rangeAbort (20 * n + p) t) (rangeAbort (240 + n) s)
  let s := { s with
    l1d := s.l1d.filter fun (k, _) => k / 256 / 20 != n
    l1i := s.l1i.filter fun (k, _) => k / 1024 / 20 != n
    l2 := s.l2.filter fun (k, _) => k / 16384 / 20 != n
    dieTrans := smapErase s.dieTrans n }
  let s := (dieHarts n s).foldl (fun t h => t.onHart h fun x => { x with tdc := [], resv := none }) s
  dieState n 1 s

/-- The core retirements committed for CDn take effect (R29, R31, R565). -/
def applyRetire (n : Nat) (s : State) : State :=
  let s := eachRepair (fun i r t =>
    let p := 20 * n + r.body / 2 ^ 8 % 256
    let q := 20 * n + r.body / 2 ^ 16 % 256
    if r.kind = 1 ∧ r.body % 256 = n ∧ t.f F.FAB_POS_MAP_STATE p = 0 ∧ t.f F.FAB_POS_MAP_STATE q = 1 then
      let h := t.f F.FAB_POS_MAP_HART_ID p
      let t := (t.setF F.FAB_POS_MAP_HART_ID q h).setF F.FAB_POS_MAP_STATE q 0
      let t := (t.setF F.FAB_POS_MAP_HART_ID p 0).setF F.FAB_POS_MAP_STATE p 2
      repairApplied i (t.setF F.FAB_HART_POS_POS h (q % 20))
    else t) s
  s.setFbit F.RAS_REPAIR_PENDING 0 n false

/-- One of the data spares of slice x goes (R170). -/
def spareTaken (n x : Nat) (s : State) : State :=
  let i := 20 * n + x % 20
  s.setF F.CD_L3_WAYDIS_SPARES_LEFT i (s.f F.CD_L3_WAYDIS_SPARES_LEFT i - 1)

/-- A row that BIST found on CDn, the i-th of its list: given a spare of its array while one remains beside the fuse map's
repairs, the committed rows and the rows before it; else its core is kept in reset, or its L3 way disabled (R168, R169). -/
def bistRow (n : Nat) (bist : List BistRow) (i : Nat) (r : BistRow) (s : State) : State :=
  let detail := n * 2 ^ 40 + r.array % 256 * 2 ^ 32 + r.inst % 65536 * 2 ^ 16 + r.row % 65536
  let before := (bist.take i).countP fun x => x.array == r.array && x.inst == r.inst
  if (arraySpares r.array).elim false fun k => decide (rowsUsed n r.array r.inst s + before < k) then
    report 3 0 false none 0 0x12E detail (if r.array = 8 then spareTaken n r.inst s else s)
  else
    let s := report 3 3 false none 0 0x12E detail s
    if r.array ≤ 6 then { s with boot := { s.boot with kept := s.boot.kept ++ [20 * n + r.inst % 20] } }
    else s.setFbit F.CD_L3_WAYDIS_WAYDIS (20 * n + r.inst % 20) r.way true

/-- The repairs of CDn at its start, those of the last BIST being gone: the committed rows, then BIST (R168, R565). -/
def dieRepairs (n : Nat) (bist : List BistRow) (s : State) : State :=
  let s := { s with boot := { s.boot with kept := s.boot.kept.filter fun np => np / 20 != n } }
  let s := iter 20 (fun x t => t.setR .CD_L3_WAYDIS (20 * n + x) (Reg.reset .CD_L3_WAYDIS (20 * n + x))) s
  let s := eachRepair (fun i r t =>
    if r.kind = 4 ∧ r.body % 256 = n then
      let t := repairApplied i t
      if r.body / 2 ^ 8 % 256 = 8 then spareTaken n (r.body / 2 ^ 16 % 65536) t else t
    else t) s
  (bist.mapIdx fun i r => (i, r)).foldl (fun t (i, r) => bistRow n bist i r t) s

/-- The harts of CDn released at the reset vector, in the Secure world and M-mode; the cores that BIST kept in reset are
not (R169, R533). -/
def dieRelease (n : Nat) (s : State) : State :=
  (dieHarts n s).foldl (fun t h =>
    if t.boot.kept.contains (coreOf h t) then t else hartRestart h (t.r .ST_VECTOR 0) t) s

/-- A hart has been released since the last package reset. -/
def released (s : State) : Bool := startPhase s == 6 || startPhase s == 7

/-- CDn's replica is VALID, or its broadcasts are off (R61). -/
def replicaReady (n : Nat) (s : State) : Bool := !s.fbit F.PHE_REF_CTRL_DIE_BCAST 0 n || replicaValid n s

/-- The frequency at which CDn comes up (R518, R519). -/
def upFreq (n : Nat) (s : State) : Nat :=
  if s.b F.PWR_STATUS_PLOCK 0 then 20
  else if (List.range 12).any fun m => m != n && dieOn m s then min 22 (s.f F.PWR_DIE_FREQ_REQ n) else s.f F.PWR_DIE_FREQ_REQ n

/-- CDn reports ON. -/
def dieUp (n : Nat) (s : State) : State :=
  let s := (s.setF F.PWR_DIE_STATE n 2).setF F.PWR_DIE_FREQ_EFF n (upFreq n s)
  batDieUp n (limitSet (pkgStateSet { s with dieTrans := smapErase s.dieTrans n }))

/-- CDn reports ON under DBG_TEST_HOLD: no hart is released, its bridge is DOWN and the home agents treat it as absent
(R576). -/
def dieHeldUp (n : Nat) (s : State) : State :=
  dieUp n (iter 16 (fun k t => t.setFbit F.HA_DIE_STATE_ABSENT k n true) (bridgeDown n 1 s))

/-- Other dies run at most at 2.2 GHz before a die is woken (R518). -/
def wakeLower (n : Nat) (s : State) : State :=
  limitSet (iter 12 (fun m t => if m ≠ n ∧ 22 < t.f F.PWR_DIE_FREQ_EFF m then t.setF F.PWR_DIE_FREQ_EFF m 22 else t) s)

/-- CDn begins to come ON, from OFF or GATED. -/
def dieWake (n : Nat) (port : Option Nat) (s : State) : State :=
  let s := wakeLower n s
  if s.f F.PWR_DIE_STATE n = 1 then
    { trainFast n (s.setF F.PWR_DIE_STATE n 3) with
      dieTrans := smapSet (fun _ => none) s.dieTrans n (some { kind := 3, port := port }) }
  else dieStart n port s

/-- A transition of CDn begins: 0 to OFF, 1 to GATED, 4 an orderly reset. -/
def dieLeave (n kind : Nat) (port : Option Nat) (s : State) : State :=
  let s := limitSet (pkgStateSet ((s.setF F.PWR_DIE_STATE n 3).setF F.PWR_DIE_FREQ_EFF n 0))
  { s with dieTrans := smapSet (fun _ => none) s.dieTrans n (some { kind := kind, port := port }) }

/-- What follows an entry to GATED or OFF: the ON request that came during it, or the hold, named by port 128 (R388,
R526). -/
def dieAfter (n : Nat) (t : DieTrans) (s : State) : State :=
  match t.onPort with
  | some k => dieWake n (if k < 128 then some k else none) s
  | none => s

/-- DIE_TRANSITION_DONE. bist: the faulty rows that the array self-test found, on the way from OFF to ON. -/
def execDieTransitionDone (n : Nat) (bist : List BistRow) (s : State) : Out :=
  match smapGet (fun _ => none) s.dieTrans n with
  | none => .next s
  | some t =>
    if s.pkgEnd.isSome then .next s
    else if t.kind = 0 ∨ t.kind = 1 ∨ t.kind = 4 then
      match dieFlush n s with
      | (false, s) => .next s
      | (true, s) =>
        if t.kind = 1 then .next (dieAfter n t (transReq (some t) 0 (dieGate n s)))
        else if t.kind = 0 then .next (dieAfter n t (transReq (some t) 0 (dieGone n s)))
        else .next (dieWake n t.port (dieGone n s))
    else if t.kind = 2 ∧ s.f F.BR_STATUS_STATE n = 0 ∧ s.b F.BR_STATUS_NOT_PERMITTED n then
      .next (transReq (some t) 4 (dieGone n s))
    else if t.kind = 2 ∧ s.fbit F.DBG_TEST_HOLD_VAL 0 n then
      let s := dieRepairs n bist s
      .next (transReq (some t) 0 (dieHeldUp n (if released s then applyRetire n s else s)))
    else if !bridgeActive n s || (released s && !replicaReady n s) then .next s
    else if t.kind = 3 then .next (transReq (some t) 0 (dieUp n s))
    else
      let s := dieRepairs n bist s
      let s := if released s then
          dieRelease n (applyRetire n s)
        else s
      .next (transReq (some t) 0 (dieUp n s))

/-! ## GATED cores (R110 to R112, R516, R523) -/

/-- Unit u's last request was refused with MITTEN, or it has received an accepted one since (R525). -/
def mittenNote (u : Nat) (refused : Bool) (s : State) : State :=
  { s with mittenRef := (s.mittenRef.filter (· != u)) ++ (if refused then [u] else []) }

/-- A core begins its entry to GATED: its L1D is invalidated and its dirty L2 lines leave with WbL (R110, R180). -/
def coreGating (h : Nat) (k : WaitKind) (s : State) : State :=
  let np := coreOf h s
  let s := s.onHart h fun t => { t with st := .gating k }
  let s := { s with l1d := s.l1d.filter fun (k, _) => k / 256 != np }
  l2EvictAll np (fun l => l.st == 3) s

/-- The entry of a core ends or is aborted: the request that asked for it completes. -/
def gateEnd (h status : Nat) (s : State) : State :=
  match smapGet (fun _ => none) s.gatePort h with
  | some k => reqDone k status { s with gatePort := smapErase s.gatePort h }
  | none => s

/-- A core leaves GATED or its entry, awake in its wait. -/
def coreOn (h : Nat) (s : State) : State :=
  match (s.hart h).st with
  | .gating k | .gated k =>
    gateEnd h 4 (s.onHart h fun t => { t with waitAt := s.tb, st := match k with
      | .req => .run
      | k => .wait k })
  | _ => s

/-- The wait that a core is in, when it may gate by itself: GATE_DELAY µs after it entered it (R104, R110). -/
def coreMayGate (h : Nat) (s : State) : Option WaitKind :=
  let t := s.hart h
  let c := t.c CSR.mzdwait
  match t.st with
  | .wait k =>
    if bit c 0 && (k != .disp || bit c 1) && decide (bits c 31 16 * tbMicro ≤ (s.tb - t.waitAt).toNat) then some k else none
  | _ => none

/-- The core of hart h asks PWC, on the port of its partition and world, to be gated. -/
def coreAsks (h : Nat) (s : State) : State :=
  let t := s.hart h
  let port := 2 * hartPart h s + (if t.w then 1 else 0)
  match coreMayGate h s with
  | none => s
  | some k =>
    if !hartExists h s || !dieOn (hartDie h s) s || !hartDrained h s || s.b F.PWR_REQ_STATUS_BUSY port || s.pkgEnd.isSome then s
    else
      let s := s.setF F.PWR_REQ_STATUS_UNIT port h
      if !t.w && mittenEff h s then mittenNote h true (reqDone port 5 (mittenRefuse h 1 (hartPart h s) s))
      else
        let s := mittenNote h false (s.setB F.PWR_REQ_STATUS_BUSY port true)
        coreGating h k { s with gatePort := smapSet (fun _ => none) s.gatePort h (some port) }

/-- CORE_GATE: GATE_DELAY has passed in WAIT. -/
def execCoreGate (hart : Nat) (s : State) : Out := .next (coreAsks hart s)

/-- A core whose L2 clean has ended is in GATED: its caches and its descriptor cache hold nothing (R110, R136). -/
def gatedIn (h : Nat) (k : WaitKind) (s : State) : State :=
  let np := coreOf h s
  let s := rangeAbort np (l2EvictAll np (fun _ => true) s)
  let s := { s with l1d := s.l1d.filter fun (k, _) => k / 256 != np, l1i := s.l1i.filter fun (k, _) => k / 1024 != np }
  gateEnd h 0 (s.onHart h fun t => { t with st := .gated k, tdc := [] })

/-- GATED_ENTRY_DONE: the L2 clean has ended, its last WbL having arrived. -/
def execGatedEntryDone (hart : Nat) (s : State) : Out :=
  match (s.hart hart).st with
  | .gating k =>
    if !hartDrained hart s || s.out.any (fun m => match m with
        | .pkt q => q.op == .wbL && q.src == coreAgent (coreOf hart s)
        | _ => false) then .next s
    else .next (gatedIn hart k s)
  | _ => .next s

/-- A wake event at a core in GATED or on its way there. An entry that still cleans is aborted; one whose clean is complete,
which may be so once nothing of the core is under way, finishes first (R111). -/
def gateLeave (h : Nat) (s : State) : State :=
  match (s.hart h).st with
  | .gating k => (coreOn h (if hartDrained h s && s.freeBit then gatedIn h k s else s)).bump
  | .gated _ => coreOn h s
  | _ => s

/-- A write of WC_MITTEN(i) by the Secure world: a core or die that newly has a hold and is on its way to GATED or OFF comes
back up, a core at once where its entry can be aborted, and else as soon as the entry ends (R388). -/
def mittenSet (i : Nat) (v : Word) (s0 : State) : State :=
  let s := mittenWrite i v s0
  let s := iter 256 (fun h t => if mittenBit h t && !mittenBit h s0 then gateLeave h t else t) s
  iter 12 (fun n t => match smapGet (fun _ => none) t.dieTrans n with
    | some x =>
      if x.kind ≤ 1 && x.onPort.isNone && mittenEff (256 + n) t && !mittenEff (256 + n) s0 then
        { t with dieTrans := smapSet (fun _ => none) t.dieTrans n (some { x with onPort := some 128 }) }
      else t
    | none => t) s

/-- CORE_WAKE: the event that a wait ends with; a core in GATED or on its way there leaves it first (R110, R111). timeout:
the time-out of WRS.STO has passed. -/
def execCoreWake (hart : Nat) (timeout : Bool) (s : State) : Out :=
  let t := s.hart hart
  if !hartExists hart s || !dieOn (hartDie hart s) s || t.halted then .next s
  else
    let irq := irqWakes hart s
    let ends (k : WaitKind) : Bool := match k with
      | .wfi | .req => irq
      | .disp => (irqTaken hart s).isSome || (secureIrq hart s && s.b F.WC_SENTRY_VALID hart)
      | .wrs sto => irq || t.resv.isNone || (sto && timeout)
    let run (k : WaitKind) (s : State) : State :=
      if k = .disp then s else s.onHart hart fun t => { t with st := .run }
    match t.st with
    | .wait k => .next (if ends k then run k s else s)
    | .gating k | .gated k => .next (if ends k then run k (gateLeave hart s) else s)
    | _ => .next s

/-- The core is in the dispatch wait, gated or not. -/
def parkedDisp (h : Nat) (s : State) : Bool :=
  let t := s.hart h
  !t.halted && match t.st with
    | .wait .disp | .gating .disp | .gated .disp => true
    | _ => false

/-- DISPATCH: a parked hart, which leaves GATED for it, starts the task; otherwise the dispatch is held in szdpend, and dropped with error code 0x3
when that slot is occupied (R83, R111). -/
def execDispatch (hart desc : Nat) (arg : BitVec 32) (phase inst : Word) (entry source : Nat) (late w : Bool)
    (part : Nat) (x : Xlate) (s : State) : Out :=
  let m : Msg := .dispatch hart desc arg phase inst entry source late w part
  if !s.out.contains m || (dieOn (hartDie hart s) s && !bridgeActive (hartDie hart s) s) then .next s
  else
    let s := s.take m
    let d : Disp := { desc := desc, arg := arg, phase := phase, inst := inst, entry := entry, source := source, late := late }
    if !dieOn (hartDie hart s) s then .next (calErr entry 2 s)
    else if parkedDisp hart s then .next (beginTask hart d x (gateLeave hart s))
    else if (s.hart hart).pend.isSome then .next (calErr entry 3 s)
    else .next (s.onHart hart fun t => { t with pend := some d })

/-! ## Requests (R523 to R526) -/

/-- The unit is one that a KIND lists (R524). -/
def unitListed (kind u : Nat) (s : State) : Bool :=
  match kind with
  | 0 | 1 => (u < 256 && hartExists u s) || (256 ≤ u && u < 268)
  | 2 | 4 | 8 => 256 ≤ u && u < 268
  | 3 | 7 => 268 ≤ u && u ≤ 304
  | 5 | 6 => true
  | _ => false

/-- CDn is on its way to GATED or OFF with no ON request waiting (R526). -/
def dieGoing (n : Nat) (s : State) : Bool :=
  match smapGet (fun _ => none) s.dieTrans n with
  | some t => decide (t.kind ≤ 1) && (t.onPort.all fun k => decide (128 ≤ k))
  | none => false

/-- The core of hart h is on its way to GATED. -/
def coreGoing (h : Nat) (s : State) : Bool :=
  match (s.hart h).st with
  | .gating _ => true
  | _ => false

/-- A unit in transition. -/
def unitMoving (u : Nat) (s : State) : Bool :=
  if u < 256 then
    coreGoing u s || s.f F.PWR_DIE_STATE (hartDie u s) == 3
  else if u < 268 then
    (smapGet (fun _ => none) s.dieTrans (u - 256)).isSome || (smapGet (fun _ => none) s.freqGoal (u - 256)).isSome
  else false

/-- Phase-locked operation left: PLOCK first, then each die back to its requested frequency. -/
def plockOff (s : State) : State :=
  if !s.b F.PWR_STATUS_PLOCK 0 then s
  else
    let s := s.setB F.PWR_STATUS_PLOCK 0 false
    limitSet (iter 12 (fun n t => if dieOn n t then t.setF F.PWR_DIE_FREQ_EFF n (upFreq n t) else t) s)

/-- The orderly end of the package's operation begins with step 3 of R508: phase-locked operation is left, the DMA channels
pause, and every ON die begins to drain (R212, R508). -/
def endBegin (e : PkgEnd) (s : State) : State :=
  let s := plockOff { s with fine := 0 }
  let s := iter 256 chPause s
  let s := iter 12 (fun n t => if dieOn n t then dieLeave n 0 none t else t) s
  { s with pkgEnd := some e }

/-- A unit's clock stops. That of a controller first places its stack in self-refresh (R524). -/
def clockStop (u : Nat) (s : State) : State :=
  let s := if 289 ≤ u then selfRefreshEnter (u - 289) s else s
  { s with clkOff := if s.clkOff.contains u then s.clkOff else (s.clkOff.filter (· < u)) ++ [u] ++ s.clkOff.filter (u < ·) }

/-- A die request that R524 accepts. -/
def dieAccept (kind n freq k : Nat) (s : State) : State :=
  let st := s.f F.PWR_DIE_STATE n
  match kind with
  | 0 => if st = 2 then reqDone k 0 s else dieWake n (some k) s
  | 1 => if st = 2 then dieLeave n 1 (some k) s else reqDone k 0 s
  | 2 =>
    if st = 2 then dieLeave n 0 (some k) s
    else if st = 1 then reqDone k 0 (dieGone n s) else reqDone k 0 s
  | 4 => if st = 2 then dieLeave n 4 (some k) s else if st = 1 then dieWake n (some k) (dieGone n s) else dieWake n (some k) s
  | _ =>
    let s := limitSet (s.setF F.PWR_DIE_FREQ_REQ n freq)
    if st = 2 then { s with freqGoal := smapSet (fun _ => none) s.freqGoal n (some (freq, some k)) } else reqDone k 0 s

/-- A hart is stalled in a PH.WAIT. -/
def inPhWait (h : Nat) (s : State) : Bool :=
  match (s.hart h).stall with
  | .phWait .. => true
  | _ => false

/-- A core request: GATED from RUN keeps the core there until an interrupt or an ON request. A core in PH.WAIT never enters
GATED (R122): the request is answered as one that meets a unit in transition. DESIGN CHOICE: R525 names no status for it. -/
def coreAccept (kind h k : Nat) (s : State) : State :=
  let gate (w : WaitKind) : State := coreGating h w { s with gatePort := smapSet (fun _ => none) s.gatePort h (some k) }
  match kind, (s.hart h).st with
  | 1, .wait w => gate w
  | 1, .run => if inPhWait h s then reqDone k 1 s else gate .req
  | 0, .gated _ => reqDone k 0 (coreOn h s)
  | _, _ => reqDone k 0 s

/-- The lowest held unit. -/
def heldUnit (s : State) : Option Nat := (List.range 305).find? fun u => mittenEff u s

/-- PWC performs the request of port k. An orderly die reset that the sequence of R508 ignores answers BUSY. DESIGN CHOICE:
R529 names no status for it. -/
def pwcTake (k kind u freq : Nat) (s : State) : State :=
  let p := k / 2
  let w : Bool := k % 2 == 1
  let core : Bool := decide (kind ≤ 1) && decide (u < 256)
  let hold : Option Nat := if kind = 5 ∨ kind = 6 then heldUnit s else if 1 ≤ kind ∧ kind ≤ 4 ∧ mittenEff u s then some u else none
  let die := u - 256
  if s.pkgEnd.isSome then reqDone k 4 s
  else if !unitListed kind u s || (kind == 8 && (decide (freq < 8) || decide (24 < freq))) then reqDone k 3 s
  else if p ≠ 0 && !(core && hartPart u s == p) then reqDone k 2 s
  else if kind == 0 && decide (256 ≤ u) && dieGoing die s then
    match smapGet (fun _ => none) s.dieTrans die with
    | some t => { s with dieTrans := smapSet (fun _ => none) s.dieTrans die (some { t with onPort := some k }) }
    | none => s
  else if kind == 0 && decide (u < 256) && coreGoing u s then reqDone k 0 (gateLeave u s)
  else if (unitMoving u s && kind != 5 && kind != 6) || (kind == 4 && (!released s || s.b F.PWR_STATUS_PF_ACTIVE 0)) ||
      (kind == 0 && decide (256 ≤ u) && inChimney s) then reqDone k 1 s
  else if kind = 8 ∧ (s.b F.PWR_CTRL_PLOCK_REQ 0 || (decide (22 < freq) && (List.range 12).any fun m =>
      m != die && decide (2 ≤ s.f F.PWR_DIE_STATE m))) then reqDone k 6 s
  else
    match w, hold with
    | false, some x => mittenNote x true (reqDone k 5 (mittenRefuse x (if kind = 5 ∨ kind = 6 then 5 else kind) p s))
    | _, _ =>
      let s := if kind = 5 ∨ kind = 6 then s else mittenNote u false s
      match kind with
      | 3 => reqDone k 0 (clockStop u s)
      | 7 => reqDone k 0 { s with clkOff := s.clkOff.filter (· != u) }
      | 5 => endBegin { goal := 0, port := some k } s
      | 6 => endBegin { goal := 1, port := some k } s
      | _ => if core then coreAccept kind u k s else dieAccept kind die freq k s

/-- A write of PWR_REQ(k): ignored while the port is BUSY, and otherwise the request is submitted and taken. -/
def pwrReqWrite (k : Nat) (v : Word) (s : State) : State :=
  if s.b F.PWR_REQ_STATUS_BUSY k then s
  else
    let u := fget F.PWR_REQ_UNIT v
    let s := ((s.setF F.PWR_REQ_STATUS_UNIT k u).setB F.PWR_REQ_STATUS_BUSY k true).setB F.PWR_REQ_STATUS_DONE k false
    let s := { s with pwrIrq := (s.pwrIrq.filter (· != k)) ++ (if vset F.PWR_REQ_IRQ v then [k] else []) }
    pwcTake k (fget F.PWR_REQ_KIND v) u (fget F.PWR_REQ_FREQ v) s

/-- The write of a request on port k. -/
def pwrReq (a : Access) (k kind unit freq : Nat) (irq : Bool) (s : State) : State :=
  if k < 128 then
    guarded a true .PWR_REQ k (pwrReqWrite k
      (BitVec.ofNat 64 (kind + (if irq then 16 else 0) + freq % 256 * 2 ^ 16 + unit % 512 * 2 ^ 32))) s
  else s

/-- REQ_ON. -/
def execReqOn (a : Access) (k unit : Nat) (irq : Bool) (s : State) : Out := .next (pwrReq a k 0 unit 0 irq s)
/-- REQ_GATED. -/
def execReqGated (a : Access) (k unit : Nat) (irq : Bool) (s : State) : Out := .next (pwrReq a k 1 unit 0 irq s)
/-- REQ_OFF. -/
def execReqOff (a : Access) (k unit : Nat) (irq : Bool) (s : State) : Out := .next (pwrReq a k 2 unit 0 irq s)
/-- REQ_CLOCK_STOP. -/
def execReqClockStop (a : Access) (k unit : Nat) (irq : Bool) (s : State) : Out := .next (pwrReq a k 3 unit 0 irq s)
/-- REQ_RESET. -/
def execReqReset (a : Access) (k unit : Nat) (irq : Bool) (s : State) : Out := .next (pwrReq a k 4 unit 0 irq s)
/-- REQ_PACKAGE_RETAIN. -/
def execReqPackageRetain (a : Access) (k unit : Nat) (irq : Bool) (s : State) : Out := .next (pwrReq a k 5 unit 0 irq s)
/-- REQ_PACKAGE_OFF. -/
def execReqPackageOff (a : Access) (k unit : Nat) (irq : Bool) (s : State) : Out := .next (pwrReq a k 6 unit 0 irq s)
/-- REQ_CLOCK_START. -/
def execReqClockStart (a : Access) (k unit : Nat) (irq : Bool) (s : State) : Out := .next (pwrReq a k 7 unit 0 irq s)
/-- REQ_FREQUENCY. -/
def execReqFrequency (a : Access) (k unit freq : Nat) (irq : Bool) (s : State) : Out := .next (pwrReq a k 8 unit freq irq s)

/-- POWER_COMMAND: a command of PWC reaches a core of CDn: KIND 0 ON, 1 GATED (R311, R523). -/
def execPowerCommand (n pos cmd : Nat) (s : State) : Out :=
  match hartAt n pos s with
  | none => .next s
  | some h =>
    if !dieOn n s then .next s
    else if cmd = 0 then .next (gateLeave h s)
    else if cmd = 1 ∧ ((s.hart h).w || !mittenEff h s) ∧ hartDrained h s then
      match (s.hart h).st with
      | .wait w => .next (coreGating h w s)
      | _ => .next s
    else .next s

/-- POWER_REQUEST: a core's request reaches PWC: KIND 1, its entry to GATED (R311, R523). -/
def execPowerRequest (n pos req : Nat) (s : State) : Out :=
  match hartAt n pos s with
  | none => .next s
  | some h => .next (if req = 1 then coreAsks h s else s)

/-! ## Clocks (R518 to R520) -/

/-- A frequency of CDn, with 2.2 GHz as the most unless every other die is GATED or OFF (R518). -/
def freqCap (n : Nat) (s : State) (f : Nat) : Nat :=
  if (List.range 12).any fun m => m != n && decide (2 ≤ s.f F.PWR_DIE_STATE m) then min 22 f else f

/-- FREQUENCY_CHANGE_DONE. While limiting is in force a clock is not raised by it. -/
def execFrequencyChangeDone (n : Nat) (s : State) : Out :=
  match smapGet (fun _ => none) s.freqGoal n with
  | none => .next s
  | some (f, port) =>
    let s := { s with freqGoal := smapErase s.freqGoal n }
    let eff := s.f F.PWR_DIE_FREQ_EFF n
    let f := freqCap n s f
    let s := if !dieOn n s || s.b F.PWR_STATUS_PLOCK 0 || (s.b F.PWR_STATUS_LIMITING 0 && decide (eff < f) && decide (s.calm < 100)) then s
      else s.setF F.PWR_DIE_FREQ_EFF n f
    let s := limitSet s
    match port with
    | some k => .next (reqDone k 0 s)
    | none => .next s

/-- Phase-locked operation entered: every ON die at 2.0 GHz from the PHS PLL. -/
def plockOn (s : State) : State :=
  let s := iter 12 (fun n t => if dieOn n t then t.setF F.PWR_DIE_FREQ_EFF n 20 else t) s
  limitSet (s.setB F.PWR_STATUS_PLOCK 0 true)

/-- A write of PWR_CTRL (R12, R519, R527). -/
def pwrCtrlWrite (v : Word) (s : State) : State :=
  let had := s.b F.PWR_CTRL_PLOCK_REQ 0
  let s := s.wr .PWR_CTRL 0 v
  let has := s.b F.PWR_CTRL_PLOCK_REQ 0
  if has && !had then (if s.pkgEnd.isSome then s else plockOn s) else if had && !has then plockOff s else s

/-- PLOCK_ENTER: PLOCK_REQ = 1 written. -/
def execPlockEnter (a : Access) (v : Word) (s : State) : Out :=
  .next (guarded a true .PWR_CTRL 0 (pwrCtrlWrite (v ||| 0x100#64)) s)

/-- PLOCK_LEAVE: PLOCK_REQ = 0 written. -/
def execPlockLeave (a : Access) (v : Word) (s : State) : Out :=
  .next (guarded a true .PWR_CTRL 0 (pwrCtrlWrite (v &&& ~~~ 0x100#64)) s)

/-- PLOCK_OVER_TIMEOUT: the excess of phase-locked operation has lasted 10 ms, the last 1,000 samples. -/
def execPlockOverTimeout (s : State) : Out :=
  .next (if s.b F.PWR_STATUS_PLOCK 0 && decide (1000 ≤ s.excess) then plockOff s else s)

/-- PLOCK_REENTRY: the cause has ended for 100 ms, the last 10,000 samples. -/
def execPlockReentry (s : State) : Out :=
  .next (if s.b F.PWR_CTRL_PLOCK_REQ 0 && !s.b F.PWR_STATUS_PLOCK 0 && s.pkgEnd.isNone && decide (10000 ≤ s.fine) then plockOn s
    else s)

/-! ## Budget and temperature (R506, R513, R521, R522) -/

/-- The effective limit in 0.1 W. -/
def effLimit (s : State) : Nat :=
  let l := 10 * max 100 (min 400 (s.f F.PWR_CTRL_LIMIT 0))
  if s.f F.PWR_STATUS_PW_OK 0 = 3 then l else min l 2000

/-- The element of a list with the largest draw; the first of several. -/
def mostDraw (draw : List Nat) : List Nat → Option Nat
  | [] => none
  | n :: r =>
    match mostDraw draw r with
    | none => some n
    | some m => if (draw[n]?).getD 0 < (draw[m]?).getD 0 then some m else some n

/-- CDn is held: it or a core of it (R386). -/
def dieHeld (n : Nat) (s : State) : Bool := mittenEff (256 + n) s

/-- One step down of the die that draws most, unheld dies first (R521). -/
def limitDown (draw : List Nat) (s : State) : State :=
  let fast := (List.range 12).filter fun n => dieOn n s && decide (8 < s.f F.PWR_DIE_FREQ_EFF n)
  let free := fast.filter fun n => !dieHeld n s
  match mostDraw draw (if free.isEmpty then fast else free) with
  | some n => s.setF F.PWR_DIE_FREQ_EFF n (s.f F.PWR_DIE_FREQ_EFF n - 1)
  | none => s

/-- One step up of a die, held dies first; pick is PWC's choice among them. -/
def limitUp (pick : Nat) (s : State) : State :=
  let slow := (List.range 12).filter fun n =>
    dieOn n s && decide (s.f F.PWR_DIE_FREQ_EFF n < freqCap n s (s.f F.PWR_DIE_FREQ_REQ n)) && (smapGet (fun _ => none) s.freqGoal n).isNone
  let held := slow.filter fun n => dieHeld n s
  let l := if held.isEmpty then slow else held
  match (if l.contains pick then some pick else l.head?) with
  | some n => s.setF F.PWR_DIE_FREQ_EFF n (s.f F.PWR_DIE_FREQ_EFF n + 1)
  | none => s

/-- The mean of the last samples. -/
def sampleMean (f : Nat × Nat → Nat) (l : List (Nat × Nat)) (unit : Nat) : Nat :=
  (l.foldl (fun v x => v + f x) 0) / (l.length * unit)

/-- INPUT_SAMPLE: voltage in 10 mV and current in 1 mA; mittenW: the power in 0.1 W of the units of R525; draw: the power of
each die. -/
def execInputSample (volts current mittenW pick : Nat) (draw : List Nat) (s : State) : Out :=
  let l := ((volts, current) :: s.samples).take 10
  let s := { s with samples := l }
  let p := sampleMean (fun x => x.1 * x.2) l 10000
  let s := ((s.setF F.PWR_INPUT_VOLTAGE 0 (sampleMean (·.1) l 1)).setF F.PWR_INPUT_CURRENT 0 (sampleMean (·.2) l 1)).setF
    F.PWR_INPUT_POWER 0 p
  let s := s.setF F.PWR_MITTEN_W_POWER 0 (if s.mittenRef.isEmpty then 0 else mittenW)
  let lim := effLimit s
  let s := { s with calm := if p * 100 < lim * 95 then s.calm + 1 else 0, excess := if lim < p then s.excess + 1 else 0,
                    fine := if lim < p then 0 else s.fine + 1 }
  if lim < p then
    if s.b F.PWR_STATUS_PLOCK 0 then .next (s.setB F.PWR_STATUS_PLOCK_OVER 0 true) else .next (limitSet (limitDown draw s))
  else if 100 ≤ s.calm ∧ s.b F.PWR_STATUS_LIMITING 0 then .next (limitSet (limitUp pick s))
  else .next s

/-- THROTTLE: the junction of CDn is measured. At the throttle temperature of 100 °C the die is lowered, whatever its holds,
and phase-locked operation ends at once (R522). -/
def execThrottle (n temp : Nat) (s : State) : Out :=
  let s := s.setF F.PWR_DIE_TEMP n temp
  if !dieOn n s || decide (temp < 100) then .next s
  else
    let s := plockOff { s with fine := 0 }
    .next (limitSet (s.setF F.PWR_DIE_FREQ_EFF n (max 8 (s.f F.PWR_DIE_FREQ_EFF n - 1))))

/-- THERMAL_TRIP: the junction of CDn, or for n = 12 of the IOD, is measured. At the trip temperature of 115 °C the die goes
OFF at once and is lost, and a trip of the IOD takes the package OFF (R522, R595). -/
def execThermalTrip (n temp : Nat) (s : State) : Out :=
  if temp < 115 then .next s
  else if n = 12 then .next (if s.pkgOff then s else goOff s)
  else if s.f F.PWR_DIE_STATE n = 0 then .next s
  else
    let t := smapGet (fun _ => none) s.dieTrans n
    let s := plockOff { freqDrop n 4 (s.setF F.PWR_DIE_TEMP n temp) with fine := 0 }
    let s := transLost t (report 9 4 false none 0 0x12D (n + 16) s)
    .next ((dieGone n s).setB F.PWR_STATUS_OVERTEMP 0 true)

/-- POWER_DIE_FAULT: PWi faults; with both faulted the package goes OFF; during steps 1 to 5 of a start it fails with RAIL. -/
def execPowerDieFault (i : Nat) (s : State) : Out :=
  if s.pkgOff || !s.fbit F.PWR_STATUS_PW_OK 0 (i % 2) then .next s
  else
    let s := (s.setFbit F.PWR_STATUS_PW_OK 0 (i % 2) false).setB F.PWR_STATUS_PW_FAULT 0 true
    let s := report 0x0E 3 false none 0 0x12D (2 ^ (i % 2)) s
    let early : Bool := startPhase s == 0 || (starting s && startPhase s != 6)
    let s := if early && !s.boot.failed then startFail 7 s else s
    .next (if s.f F.PWR_STATUS_PW_OK 0 = 0 then goOff s else s)

/-! ## The power-fail sequence, RETAIN and OFF (R507, R508, R511, R514, R532) -/

/-- Every die has drained and cleaned: the last writeback is acknowledged. -/
def endFlush (s : State) : Bool × State :=
  (List.range 12).foldl (fun (ok, t) n =>
    match smapGet (fun _ => none) t.dieTrans n with
    | some x => if x.kind = 2 ∨ x.kind = 3 then (ok, t) else
        let (d, t) := dieFlush n t
        (ok && d, t)
    | none => (ok, t)) (true, s)

/-- The package is powered and running. -/
def pkgRuns (s : State) : Bool := !s.pkgOff && s.f F.PWR_STATUS_PKG_STATE 0 != 2

/-- The warning threshold in 10 mV: values outside 37 V to 48 V act as the nearer limit (R527). -/
def pfWarn (s : State) : Nat := max 3700 (min 4800 (s.f F.PWR_PF_CFG_WARN 0))

/-- POWER_FAIL_WARNING: the input has been at volts, in 10 mV, for 2 µs. -/
def execPowerFailWarning (volts : Nat) (s : State) : Out :=
  if !pkgRuns s || decide (pfWarn s ≤ volts) then .next s
  else
    let s := s.setB F.PWR_STATUS_PF_WARN 0 true
    .next (if s.pkgEnd.isSome || s.b F.PWR_STATUS_PF_ACTIVE 0 then s else { s.setB F.PWR_STATUS_PF_ACTIVE 0 true with pfAt := s.tb })

/-- WARNING_WITHDRAWN, in step 2: the input has been at volts, in 10 mV, for 100 µs. -/
def execWarningWithdrawn (volts : Nat) (s : State) : Out :=
  .next (if s.b F.PWR_STATUS_PF_ACTIVE 0 && s.pkgEnd.isNone && decide (pfWarn s + 100 < volts) then
    s.setB F.PWR_STATUS_PF_ACTIVE 0 false else s)

/-- GRACE_END: the end of step 2, GRACE µs after the warning. -/
def execGraceEnd (s : State) : Out :=
  if !s.b F.PWR_STATUS_PF_ACTIVE 0 || s.pkgEnd.isSome ||
    decide ((s.tb - s.pfAt).toNat < min 10000 (s.f F.PWR_PF_CFG_GRACE 0) * tbMicro) then .next s
  else
    let act := s.f F.PWR_CTRL_PF_ACTION 0
    if act = 2 then .next (s.setB F.PWR_STATUS_PF_ACTIVE 0 false)
    else .next (endBegin { goal := if act = 1 then 1 else 0, pf := true } s)

/-- A warm package reset from its step 3 on: the dies OFF, the IOD reset, the start from its step 2. -/
def warmReset (s : State) : State := startStep2 (pkgReset .warm (evlog 4 0 s))

/-- A pin at high impedance until software writes its TIO_PIN_CFG (R531, R572, R590). -/
def pinFloat (i : Nat) (s : State) : State := s.setPin i { s.pin i with driving := false, hiz := true }

/-- Every timed store discarded, matched ones too (R212). -/
def tsDiscard (s : State) : State :=
  { s with tsq := [], out := s.out.filter fun m => match m with
    | .timed .. | .tsCancel .. => false
    | _ => true }

/-- POWER_FAIL_COMPLETE: the last writeback is acknowledged; DRAM enters self-refresh, every die goes OFF, and the package
enters RETAIN or OFF, or goes on with its warm reset. -/
def execPowerFailComplete (s : State) : Out :=
  match s.pkgEnd with
  | none => .next s
  | some e =>
    match endFlush s with
    | (false, s) => .next s
    | (true, s) =>
      let s := iter 16 selfRefreshEnter s
      let s := iter 12 (fun n t => if t.f F.PWR_DIE_STATE n = 0 then t else transLost (smapGet (fun _ => none) t.dieTrans n) (dieGone n t)) s
      let s := { (s.setB F.PWR_STATUS_PF_ACTIVE 0 false) with pkgEnd := none }
      let s := if e.pf then evlog 0xD 0 s else s
      let s := match e.port with
        | some k => reqDone k 0 s
        | none => s
      .next (if e.goal = 2 then warmReset s
        else if e.goal = 1 then goOff s
        else iter 64 pinFloat (tsDiscard (s.setF F.PWR_STATUS_PKG_STATE 0 2)))

/-- UNDERVOLTAGE: sudden input loss. -/
def execUndervoltage (s : State) : Out := .next (if s.pkgOff then s else goOff (evlog 0xB 0 s))

/-- OVERVOLTAGE: as undervoltage. -/
def execOvervoltage (s : State) : Out := .next (if s.pkgOff then s else goOff (evlog 0xC 0 s))

/-- AON_POWER_LOSS. What AON held is lost at the AON start that follows. -/
def execAonPowerLoss (s : State) : Out := .next { goOff s with aonOff := true }

/-- RETAIN_EXIT: the input has been at volts, in 10 mV, for 100 ms. -/
def execRetainExit (volts : Nat) (s : State) : Out :=
  .next (if s.f F.PWR_STATUS_PKG_STATE 0 = 2 ∧ pfWarn s + 100 < volts then warmReset (startEnds s) else s)

/-- SELF_REFRESH_ENTRY, while the package enters RETAIN (R235, R508). -/
def execSelfRefreshEntry (k : Nat) (s : State) : Out :=
  if s.pkgEnd.isNone then .next s
  else match endFlush s with
    | (false, s) => .next s
    | (true, s) => .next (selfRefreshEnter k s)

/-- SELF_REFRESH_EXIT (R235). -/
def execSelfRefreshExit (k : Nat) (s : State) : Out :=
  .next (if s.pkgEnd.isSome || s.f F.PWR_STATUS_PKG_STATE 0 == 2 || unitOff (289 + k) s then s else s.setF F.MC_STATUS_SELFREF k 0)

end Sys2Proof.Machine
end

