-- ==== Sys2Proof/Machine/Debug.lean ====
section
/-! DEFINITION. Debug, trace and package test (R570 to R581). One JTAG command is an instruction-register scan followed by a
data-register scan, from Run-Test/Idle to Run-Test/Idle (DESIGN CHOICE). The register layouts of the debug module are those of
the RISC-V debug specification that R578 names (PRESUMED). -/
namespace Sys2Proof.Machine

/-! ## The JTAG port (R570 to R573) -/

/-- What the scan shifts out. -/
def tdoSet (v : Nat) (s : State) : State := { s with tap := { s.tap with tdo := v } }

/-- The instruction register takes a value. When it leaves EXTEST or CLAMP, every timed pin goes to high impedance (R572). -/
def irSet (code : Nat) (s : State) : State :=
  let old := s.tap.ir
  let s := if (old = 0x00 ∨ old = 0x03) ∧ code ≠ old then iter 64 pinFloat s else s
  let s := { s with tap := { s.tap with ir := code } }
  s.setB F.DBG_STATUS_TESTMODE 0 (code == 0x00 || code == 0x03 || code == 0x04)

/-- An instruction at Update-IR: it needs the input, the IOD rails where rails says so, and its gate; otherwise BYPASS is
loaded, and a gate that does not hold sets REFUSED (R570, R571). k is the data-register scan. -/
def irLoad (code : Nat) (rails gate : Bool) (k : State → State) (s : State) : State :=
  if s.aonOff then s
  else if rails && !pkgRuns s then tdoSet 0 (irSet 0xFF s)
  else if gate then k (irSet code s)
  else tdoSet 0 ((irSet 0xFF s).setB F.DBG_STATUS_REFUSED 0 true)

/-- TAP_RESET: Test-Logic-Reset with IDCODE; nothing else changes (R570). -/
def execTapReset (s : State) : Out := .next (if s.aonOff then s else irSet 0x01 s)

/-- The gate of the boundary instructions: Chimney mode and effective SI. -/
def boundGate (s : State) : Bool := inChimney s && effI true s

/-- EXTEST: the contacts are captured, and the boundary register drives its outputs. -/
def execExtest (pins shift : BitVec 262) (s : State) : Out :=
  .next (irLoad 0x00 true (boundGate s) (fun t => { t with tap := { t.tap with tdo := pins.toNat, bound := shift } }) s)

/-- SAMPLE/PRELOAD. -/
def execSamplePreload (pins shift : BitVec 262) (s : State) : Out :=
  .next (irLoad 0x02 true (boundGate s) (fun t => { t with tap := { t.tap with tdo := pins.toNat, bound := shift } }) s)

/-- CLAMP. -/
def execClamp (s : State) : Out := .next (irLoad 0x03 true (boundGate s) (tdoSet 0) s)

/-- HIGHZ. -/
def execHighz (s : State) : Out := .next (irLoad 0x04 true (boundGate s) (tdoSet 0) s)

/-- An identification register: revision, part, manufacturer and 1. -/
def idWord (rev : BitVec 4) (part : Nat) : Nat := rev.toNat * 2 ^ 28 + part * 2 ^ 12 + Config.manufacturer.toNat * 2 + 1

/-- IDCODE of the IOD. -/
def execIdcode (s : State) : Out := .next (irLoad 0x01 false true (tdoSet (idWord Config.iodRev 0x0216)) s)

/-- BYPASS. -/
def execBypass (s : State) : Out := .next (irLoad 0xFF false true (tdoSet 0) s)

/-- DBG_STATUS through the TAP: a read. -/
def execDbgStatus (s : State) : Out := .next (irLoad 0x23 true true (fun t => tdoSet (t.r .DBG_STATUS 0).toNat t) s)

/-- DTMCS: version 1, seven address bits. dtmhardreset and dmireset clear the last result. -/
def execDtmcs (shift : Nat) (s : State) : Out :=
  .next (irLoad 0x10 true true (fun t =>
    let t := tdoSet 0x71 t
    if shift.testBit 16 || shift.testBit 17 then { t with tap := { t.tap with dmi := 0 } } else t) s)

/-- The scan of HELM_MB: the next response word with DONE in bit 64, the last one clearing DONE; then a request word, or the
submission (R573). -/
def helmScan (submit : Bool) (v : Word) (s : State) : State :=
  let done := s.b F.HELM_MB_STATUS_DONE 4
  let r := s.tap.hmRd
  let s := tdoSet (if done then (s.r .HELM_MB_RSP (4 * 134 + min r 133)).toNat + 2 ^ 64 else 0) s
  let last := decide (s.f F.HELM_MB_STATUS_RSP_LEN 4 ≤ 8 * (r + 1))
  let s := { s with tap := { s.tap with hmRd := if done && !last then r + 1 else 0 } }
  let s := if done && last then s.setB F.HELM_MB_STATUS_DONE 4 false else s
  let w := s.tap.hmWr
  if submit then mbDoorbell 4 (8 * w) { s with tap := { s.tap with hmWr := 0 } }
  else
    let s := if w < 134 ∧ !s.b F.HELM_MB_STATUS_BUSY 4 then s.setR .HELM_MB_REQ (4 * 134 + w) v else s
    { s with tap := { s.tap with hmWr := min 134 (w + 1) } }

/-- HELM_MB. -/
def execHelmMb (submit : Bool) (v : Word) (s : State) : Out := .next (irLoad 0x22 false true (helmScan submit v) s)

/-! ## Dies in the chain (R574, R575) -/

/-- CHAIN_SEL: the dies in the chain are shifted out; from Run-Test/Idle on, the selected dies that are ON are in it. -/
def execChainSel (dies : Nat) (s : State) : Out :=
  .next (irLoad 0x20 true (effNI false s || effNI true s) (fun t =>
    let t := tdoSet (t.f F.DBG_STATUS_CHAIN 0) t
    iter 12 (fun n u => u.setFbit F.DBG_STATUS_CHAIN 0 n (dies.testBit n && dieOn n u)) t) s)

/-- An instruction of CDn's TAP, while the die is in the chain: a value whose gate does not hold loads BYPASS. -/
def dieIrLoad (n code : Nat) (gate : Bool) (k : State → State) (s : State) : State :=
  if s.aonOff || !pkgRuns s || !decide (n < 12) || !s.fbit F.DBG_STATUS_CHAIN 0 n then s
  else
    let put (c : Nat) (s : State) : State := { s with tap := { s.tap with dieIr := smapSet (fun _ => 0x01) s.tap.dieIr n c } }
    if gate then k (put code s) else tdoSet 0 ((put 0x3F s).setB F.DBG_STATUS_REFUSED 0 true)

/-- The gate of the test instructions: CDn held under DBG_TEST_HOLD, and effective SI. -/
def testGate (n : Nat) (s : State) : Bool :=
  s.fbit F.DBG_TEST_HOLD_VAL 0 n && dieOn n s && (smapGet (fun _ => none) s.dieTrans n).isNone && effI true s

/-- A test register whose contents the spec does not give. -/
def tdoFree (s : State) : State := (tdoSet s.freeWord.toNat s).bump

/-- WEXTEST. -/
def execWextest (n : Nat) (s : State) : Out := .next (dieIrLoad n 0x00 (testGate n s) tdoFree s)

/-- IDCODE of a die TAP. -/
def execDieIdcode (n : Nat) (s : State) : Out := .next (dieIrLoad n 0x01 true (tdoSet (idWord (Config.dieRev n) 0x0C16)) s)

/-- WINTEST. -/
def execWintest (n : Nat) (s : State) : Out := .next (dieIrLoad n 0x02 (testGate n s) tdoFree s)

/-- SCAN. -/
def execScan (n : Nat) (s : State) : Out := .next (dieIrLoad n 0x03 (testGate n s) tdoFree s)

/-- MBIST: the die's arrays hold nothing while it is held, and the result register is shifted out. -/
def execMbist (n : Nat) (s : State) : Out := .next (dieIrLoad n 0x04 (testGate n s) tdoFree s)

/-- BYPASS of a die TAP. -/
def execDieBypass (n : Nat) (s : State) : Out := .next (dieIrLoad n 0x3F true (tdoSet 0) s)

/-- DBG_TEST_HOLD(n) changed: an orderly die reset, which stops before step 5 or runs through it. A write of 1 during a
transition of CDn holds nothing (R576). -/
def testHold (v : Word) (n : Nat) (s : State) : State :=
  let new := v.getLsbD n
  let moving := (smapGet (fun _ => none) s.dieTrans n).isSome || s.pkgEnd.isSome
  if new == s.fbit F.DBG_TEST_HOLD_VAL 0 n || (new && moving) then s
  else
    let s := s.setFbit F.DBG_TEST_HOLD_VAL 0 n new
    let st := s.f F.PWR_DIE_STATE n
    if moving then s
    else if st = 2 then dieLeave n 4 none s
    else if released s then dieWake n none (if st = 1 then dieGone n s else s)
    else s

/-- A write of DBG_TEST_HOLD. -/
def testHoldWrite (v : Word) (s : State) : State := iter 12 (testHold v) s

/-- DBG_TEST_HOLD. -/
def execDbgTestHold (a : Access) (v : Word) (s : State) : Out := .next (guarded a true .DBG_TEST_HOLD 0 (testHoldWrite v) s)

/-! ## Instruments (R577) -/

/-- The gate under which a SIB opens. -/
def sibGate (k : Nat) (s : State) : Bool :=
  match k with
  | 0 | 1 | 4 => true
  | 2 | 3 => effNI true s
  | 5 => s.b F.HELM_STATUS_HELM_DBG 0
  | _ => false

/-- The SIBs of a pattern whose gates hold. -/
def sibMask (v : Nat) (s : State) : Nat :=
  (List.range 6).foldl (fun m k => if v.testBit k && sibGate k s then m + 2 ^ k else m) 0

/-- IJTAG: the open SIBs whose gates hold are shifted out, with their instruments' values, and at Update-DR the SIBs of the
pattern open where their gates hold. -/
def execIjtag (sibs : Nat) (s : State) : Out :=
  .next (irLoad 0x21 true true (fun t =>
    let open_ := sibMask t.tap.sib t
    let t := if open_ = 0 then tdoSet 0 t else (tdoSet (open_ + t.freeWord.toNat * 64) t).bump
    { t with tap := { t.tap with sib := sibMask sibs t } }) s)

/-! ## The debug module (R578, R579) -/

/-- dmstatus.authenticated. -/
def dmAuth (s : State) : Bool := effI false s || effI true s

/-- A request of the debug module changes it. -/
def State.onDbg (s : State) (f : DbgMod → DbgMod) : State := { s with dbg := f s.dbg }

/-- A halt request: taken at once between two instructions where the enable of the hart's world admits it, and otherwise
held. -/
def haltAsk (h : Nat) (s : State) : State :=
  if hartExists h s && !(s.hart h).halted then haltTry h (s.onHart h fun t => { t with haltReq := true }) else s

/-- A resume request of a halted hart. -/
def resumeAsk (h : Nat) (s : State) : State :=
  if hartExists h s && (s.hart h).halted then
    (haltLeave h s).onDbg fun d => { d with resumeAck := natSetBit d.resumeAck h true }
  else s

/-- HALT_REQUEST. -/
def execHaltRequest (hart : Nat) (s : State) : Out := .next (haltAsk hart s)

/-- RESUME_REQUEST. -/
def execResumeRequest (hart : Nat) (s : State) : Out := .next (resumeAsk hart s)

/-- An abstract register number that the module serves: a CSR, a GPR or an FPR. -/
def absReg (r : Nat) : Bool := csrExists r || r == 0x7B0 || r == 0x7B1 || (decide (0x1000 ≤ r) && decide (r < 0x1040))

/-- Its value. -/
def absGet (h r : Nat) (s : State) : Word :=
  if r < 0x1000 then csrRead h r s
  else if r < 0x1020 then (s.hart h).getX (r - 0x1000)
  else smapGet (fun _ => 0) (s.hart h).f (r - 0x1020)

/-- Its new value. A read-only CSR cannot be written. -/
def absPut (h r : Nat) (v : Word) (s : State) : State :=
  if r < 0x1000 then csrWrite h r v s
  else if r < 0x1020 then s.onHart h fun t => t.setX (r - 0x1000) v
  else s.onHart h fun t => t.setFp (r - 0x1020) v

/-- The command ends with an error code. -/
def absErr (e : Nat) (s : State) : State := s.onDbg fun d => { d with cmderr := e, held := none }

/-- An Access Register command on a halted hart. -/
def absAccess (h cmd : Nat) (writes : List (Nat × Word)) (fails : Bool) (s : State) : State :=
  let r := cmd % 65536
  let wide := cmd / 2 ^ 20 % 8 == 3
  let wr := cmd.testBit 16
  let bad : Bool := cmd.testBit 17 && (!absReg r || (wr && decide (r < 0x1000) && csrReadOnly r))
  if bad then absErr 3 s
  else
    let s := s.onDbg fun d => { d with held := none }
    let s := if !cmd.testBit 17 then s
      else if wr then
        absPut h r (BitVec.ofNat 64 (if wide then s.dbg.data else (absGet h r s).toNat / 2 ^ 32 * 2 ^ 32 + s.dbg.data % 2 ^ 32)) s
      else
        let v := (absGet h r s).toNat
        (s.onDbg fun d => { d with data := if wide then v else d.data / 2 ^ 32 * 2 ^ 32 + v % 2 ^ 32 }).bump
    if cmd.testBit 18 then
      let s := s.onHart h fun t => writes.foldl (fun u w => u.setX w.1 w.2) t
      if fails then absErr 3 s else s
    else s

/-- An abstract command for the selected hart: refused while one is held, when an error stands, when it is none that the
module implements, and when the hart is not halted; held while the enable of the hart's world is 0 (R391). -/
def absCommand (cmd : Nat) (writes : List (Nat × Word)) (fails : Bool) (s : State) : State :=
  let h := s.dbg.hartsel
  if s.dbg.held.isSome then (if s.dbg.cmderr = 0 then s.onDbg fun d => { d with cmderr := 1 } else s)
  else if s.dbg.cmderr ≠ 0 then s
  else if cmd / 2 ^ 24 ≠ 0 || cmd.testBit 19 || (cmd.testBit 17 && !(cmd / 2 ^ 20 % 8 == 2 || cmd / 2 ^ 20 % 8 == 3)) then absErr 2 s
  else if !hartExists h s || !(s.hart h).halted then absErr 4 s
  else if !effI (s.hart h).w s then s.onDbg fun d => { d with held := some cmd }
  else absAccess h cmd writes fails s

/-- A held command goes on when its enable admits it, and ends with an error when its hart is no longer halted. -/
def absRetry (s : State) : State :=
  match s.dbg.held with
  | none => s
  | some cmd =>
    let h := s.dbg.hartsel
    if !(s.hart h).halted then absErr 4 s
    else if effI (s.hart h).w s then absAccess h cmd [] false s
    else s

/-- ABSTRACT_COMMAND. writes: the general registers that the program buffer writes; fails: it ended by an exception. -/
def execAbstractCommand (cmd : Nat) (writes : List (Nat × Word)) (fails : Bool) (s : State) : Out :=
  .next (absCommand cmd writes fails s)

/-! ## System bus access -/

/-- An access begins: 8 to 64 bits, aligned, in the world that effective SI gives, with PART 0. -/
def sbaStart (wr : Bool) (s : State) : State :=
  let d := s.dbg
  let a := d.sbAddr
  let n := 2 ^ d.sbAccess
  if d.sbBusy then s.onDbg fun d => { d with sbBusyErr := true }
  else if d.sbErr ≠ 0 || d.sbBusyErr || !dmAuth s then s
  else if 3 < d.sbAccess then s.onDbg fun d => { d with sbErr := 4 }
  else if a % n ≠ 0 then s.onDbg fun d => { d with sbErr := 3 }
  else
    let dst := if inDram a s then 0x100 + mcOf a else ioAgent (ioTarget a s)
    let p : Packet :=
      if wr then { op := if inDram a s then .wrNC else .wrIO, cls := .mg, w := effI true s, src := 0x151, dst := dst,
                   addr := lineOf a, data := true, mask := byteMask (a % 64) n, payload := linePut 0 (a % 64) n d.sbData }
      else { op := if inDram a s then .rdNC else .rdIO, cls := .mg, w := effI true s, src := 0x151, dst := dst,
             addr := lineOf a, aux := BitVec.ofNat 32 (a % 64 + (n - 1) % 32 * 64) }
    openTx .sba p (s.onDbg fun d => { d with sbBusy := true })

/-- Its response: the data of a read, an error where RESP says so or the data is poisoned, and the address moved on. -/
def sbaDone (resp po : BitVec 2) (line : Option Line) (s : State) : State :=
  let n := 2 ^ s.dbg.sbAccess
  let o := s.dbg.sbAddr % 64
  let s := s.onDbg fun d => { d with sbBusy := false }
  if resp ≠ 0b00#2 then s.onDbg fun d => { d with sbErr := if resp = 0b10#2 then 2 else if resp = 0b11#2 then 1 else 7 }
  else
    match line with
    | some l =>
      if poisonIn po o n then s.onDbg fun d => { d with sbErr := 7 }
      else s.onDbg fun d => { d with sbData := lineBytes l o n, sbAddr := if d.sbInc then (d.sbAddr + n) % 2 ^ 48 else d.sbAddr }
    | none => s.onDbg fun d => { d with sbAddr := if d.sbInc then (d.sbAddr + n) % 2 ^ 48 else d.sbAddr }

/-- SYSTEM_BUS_ACCESS. -/
def execSystemBusAccess (write : Bool) (addr size : Nat) (v : Word) (s : State) : Out :=
  .next (if s.dbg.sbBusy then s.onDbg fun d => { d with sbBusyErr := true }
    else sbaStart write (s.onDbg fun d =>
      { d with sbAddr := addr % 2 ^ 48, sbAccess := size, sbData := if write then v.toNat else d.sbData }))

/-! ## The registers of the debug module -/

/-- A hart that cannot answer: its die is not ON, or its core is not in RUN or WAIT. -/
def hartUnavail (h : Nat) (s : State) : Bool :=
  !dieOn (hartDie h s) s || (match (s.hart h).st with
    | .run | .wait _ => false
    | _ => !(s.hart h).halted)

/-- dmstatus. -/
def dmStatus (s : State) : Nat :=
  let h := s.dbg.hartsel
  let ex := hartExists h s
  let un := ex && hartUnavail h s
  let ha := ex && !un && (s.hart h).halted
  let ru := ex && !un && !ha
  let b (x : Bool) (k : Nat) : Nat := if x then 3 * 2 ^ k else 0
  3 + 2 ^ 5 + (if dmAuth s then 2 ^ 7 else 0) + b ha 8 + b ru 10 + b un 12 + b (!ex) 14 +
    b (ex && s.dbg.resumeAck.testBit h) 16 + b (ex && s.dbg.haveReset.testBit h) 18 + 2 ^ 22

/-- The halted harts of a group of 2^k, as haltsum registers show them. -/
def haltSum (k base : Nat) (s : State) : Nat :=
  (List.range 32).foldl (fun m i =>
    if (List.range (2 ^ k)).any fun j => (s.hart (base + i * 2 ^ k + j)).halted then m + 2 ^ i else m) 0

/-- A debug module register read. sbdata0 may start the next access. -/
def dmRead (a : Nat) (s : State) : Nat × State :=
  let d := s.dbg
  let b (x : Bool) (k : Nat) : Nat := if x then 2 ^ k else 0
  if a = 0x10 then ((if dmAuth s then d.hartsel * 2 ^ 16 else 0) + b d.active 0, s)
  else if a = 0x11 then (dmStatus s, s)
  else if !dmAuth s || !d.active then (0, s)
  else
    match a with
    | 0x04 => (d.data % 2 ^ 32, s)
    | 0x05 => (d.data / 2 ^ 32, s)
    | 0x13 => (haltSum 5 0 s, s)
    | 0x16 => (8 * 2 ^ 24 + b d.held.isSome 12 + d.cmderr * 2 ^ 8 + 2, s)
    | 0x38 => (2 ^ 29 + b d.sbBusyErr 22 + b d.sbBusy 21 + b d.sbOnAddr 20 + d.sbAccess * 2 ^ 17 + b d.sbInc 16 +
                b d.sbOnData 15 + d.sbErr * 2 ^ 12 + 48 * 2 ^ 5 + 15, s)
    | 0x39 => (d.sbAddr % 2 ^ 32, s)
    | 0x3A => (d.sbAddr / 2 ^ 32, s)
    | 0x3C =>
      (d.sbData % 2 ^ 32, if d.sbBusy then s.onDbg fun d => { d with sbBusyErr := true }
        else if d.sbOnData then sbaStart false s else s)
    | 0x3D => (d.sbData / 2 ^ 32, s)
    | 0x40 => (haltSum 0 (d.hartsel / 32 * 32) s, s)
    | _ => if 0x20 ≤ a ∧ a < 0x28 then (smapGet (fun _ => 0) d.progbuf (a - 0x20), s) else (0, s)

/-- dmcontrol written: dmactive 0 resets the module; otherwise the requests for the selected hart. -/
def dmControl (v : Nat) (s : State) : State :=
  if !v.testBit 0 then { s with dbg := { haveReset := s.dbg.haveReset } }
  else if !dmAuth s then s.onDbg fun d => { d with active := true }
  else
    let h := v / 2 ^ 16 % 1024
    let s := s.onDbg fun d =>
      let d := { d with active := true, hartsel := if d.held.isSome then d.hartsel else h }
      let d := if v.testBit 28 then { d with haveReset := natSetBit d.haveReset h false } else d
      let d := if v.testBit 30 && !v.testBit 31 then { d with resumeAck := natSetBit d.resumeAck h false } else d
      if v.testBit 2 then { d with resetHalt := natSetBit d.resetHalt h false }
      else if v.testBit 3 && decide (h < 256) then { d with resetHalt := natSetBit d.resetHalt h true } else d
    if v.testBit 31 then haltAsk h s
    else
      let s := if hartExists h s && !(s.hart h).halted then s.onHart h fun t => { t with haltReq := false } else s
      if v.testBit 30 then resumeAsk h s else s

/-- A debug module register written. -/
def dmWrite (a v : Nat) (s : State) : State :=
  let d := s.dbg
  if a = 0x10 then dmControl v s
  else if !dmAuth s || !d.active then s
  else
    match a with
    | 0x04 => s.onDbg fun d => { d with data := d.data / 2 ^ 32 * 2 ^ 32 + v }
    | 0x05 => s.onDbg fun d => { d with data := d.data % 2 ^ 32 + v * 2 ^ 32 }
    | 0x16 => s.onDbg fun d => { d with cmderr := (List.range 3).foldl (fun e k =>
        if v.testBit (8 + k) then natSetBit e k false else e) d.cmderr }
    | 0x17 => absCommand v [] false s
    | 0x38 =>
      s.onDbg fun d => { d with
        sbBusyErr := d.sbBusyErr && !v.testBit 22
        sbOnAddr := v.testBit 20
        sbAccess := v / 2 ^ 17 % 8
        sbInc := v.testBit 16
        sbOnData := v.testBit 15
        sbErr := (List.range 3).foldl (fun e k => if v.testBit (12 + k) then natSetBit e k false else e) d.sbErr }
    | 0x39 =>
      if d.sbBusy then s.onDbg fun d => { d with sbBusyErr := true }
      else
        let s := s.onDbg fun d => { d with sbAddr := d.sbAddr / 2 ^ 32 * 2 ^ 32 + v }
        if d.sbOnAddr then sbaStart false s else s
    | 0x3A =>
      if d.sbBusy then s.onDbg fun d => { d with sbBusyErr := true }
      else s.onDbg fun d => { d with sbAddr := d.sbAddr % 2 ^ 32 + v % 65536 * 2 ^ 32 }
    | 0x3C =>
      if d.sbBusy then s.onDbg fun d => { d with sbBusyErr := true }
      else sbaStart true (s.onDbg fun d => { d with sbData := d.sbData / 2 ^ 32 * 2 ^ 32 + v })
    | 0x3D =>
      if d.sbBusy then s.onDbg fun d => { d with sbBusyErr := true }
      else s.onDbg fun d => { d with sbData := d.sbData % 2 ^ 32 + v * 2 ^ 32 }
    | _ =>
      if 0x20 ≤ a ∧ a < 0x28 then s.onDbg fun d => { d with progbuf := smapSet (fun _ => 0) d.progbuf (a - 0x20) v } else s

/-- DMI: the result of the previous access is shifted out; op 1 reads and op 2 writes the register. -/
def execDmi (addr data op : Nat) (s : State) : Out :=
  .next (irLoad 0x11 true true (fun t =>
    let t := tdoSet t.tap.dmi t
    let a := addr % 128
    if op = 1 then
      let (v, t) := dmRead a t
      { t with tap := { t.tap with dmi := a * 2 ^ 34 + v * 4 } }
    else if op = 2 then
      let t := dmWrite a (data % 2 ^ 32) t
      { t with tap := { t.tap with dmi := a * 2 ^ 34 + data % 2 ^ 32 * 4 } }
    else t) s)

/-! ## The core trace sink (R580) -/

/-- The sink of CDn can take a record. -/
def ctrRoom (n : Nat) (s : State) : Bool :=
  !s.b F.CTR_CTRL_FULL n && !s.b F.CTR_CTRL_ERR n &&
    (!s.b F.CTR_CTRL_DEST n || decide ((smapGet (fun _ => []) s.ctrFifo n).length < 2048))

/-- A record for the sink's buffer, at WRPTR, or for its FIFO toward DRAM. -/
def ctrTake (n : Nat) (r : Word × Word) (s : State) : State :=
  if s.b F.CTR_CTRL_DEST n then
    { s with ctrFifo := smapSet (fun _ => []) s.ctrFifo n (smapGet (fun _ => []) s.ctrFifo n ++ [r]) }
  else
    let k := s.f F.CTR_PTR_WRPTR n % 2048
    let s := { s with ctrBuf := smapSet (fun _ => (0, 0)) s.ctrBuf (n * 2048 + k) r }
    if k + 1 < 2048 then s.setF F.CTR_PTR_WRPTR n (k + 1)
    else
      let s := s.setF F.CTR_PTR_WRPTR n 0
      if s.b F.CTR_CTRL_WRAP n then s else s.setB F.CTR_CTRL_FULL n true

/-- The sink takes one record, from the lowest position. -/
def ctrDrain (n : Nat) (s : State) : State :=
  if !ctrRoom n s then s
  else
    match s.coreTrace.find? fun (np, c) => np / 20 == n && !c.stage.isEmpty with
    | some (np, c) =>
      match c.stage with
      | r :: rest => ctrTake n r (s.setCoreTr np { c with stage := rest })
      | [] => s
    | none => s

/-- The sinks of the dies each take a record. -/
def ctrCycle (s : State) : State := iter 12 ctrDrain s

/-- Four records as the bytes of a line. -/
def ctrLine (l : List (Word × Word)) : Line :=
  BitVec.ofNat 512 (l.foldr (fun r v => r.1.toNat + r.2.toNat * 2 ^ 64 + v * 2 ^ 128) 0)

/-- CORE_TRACE_WRITE: four records of CDn as a WrNC in class MG. At LIMIT the pointer returns to BASE, or the sink is full. -/
def execCoreTraceWrite (n : Nat) (s : State) : Out :=
  let s := ctrDrain n s
  let q := smapGet (fun _ => []) s.ctrFifo n
  if q.length < 4 || !s.b F.CTR_CTRL_DEST n || s.b F.CTR_CTRL_FULL n || s.b F.CTR_CTRL_ERR n then .next s
  else
    let k := s.f F.CTR_PTR_WRPTR n
    let base := s.f F.CTR_BASE_VAL n
    let addr := (base + k) * 64
    let s := { s with ctrFifo := smapSet (fun _ => []) s.ctrFifo n (q.drop 4) }
    let s := openTx (.trace n) { op := .wrNC, cls := .mg, w := true, src := 0xF0 + n, dst := 0x100 + mcOf addr, addr := addr,
                                 data := true, mask := BitVec.ofNat 64 (2 ^ 64 - 1), payload := ctrLine (q.take 4) } s
    if base + k < s.f F.CTR_LIMIT_VAL n then .next (s.setF F.CTR_PTR_WRPTR n (k + 1))
    else
      let s := s.setF F.CTR_PTR_WRPTR n 0
      .next (if s.b F.CTR_CTRL_WRAP n then s else s.setB F.CTR_CTRL_FULL n true)

/-- The answer to a trace write of CDn: an error stops the sink. -/
def ctrWritten (n : Nat) (err : Bool) (s : State) : State := if err then s.setB F.CTR_CTRL_ERR n true else s

/-- The word of the buffer at RDPTR, which moves on by 8 bytes (R300). -/
def ctrBufPop (n : Nat) (s : State) : State :=
  let p := s.f F.CTR_PTR_RDPTR n
  let r := smapGet (fun _ => (0, 0)) s.ctrBuf (n * 2048 + p / 16 % 2048)
  (s.setF F.CTR_PTR_RDPTR n ((p + 8) % 32768)).answer (if p / 8 % 2 = 0 then r.1 else r.2)

/-- CTR_BUF_READ. -/
def execCtrBufRead (a : Access) (n : Nat) (s : State) : Out := .next (guarded a false .CTR_BUF_DATA n (ctrBufPop n) s)

end Sys2Proof.Machine
end

