-- ==== Sys2Proof/Machine/Iommu.lean ====
section
/-! DEFINITION. The IOMMU's register file, command queue and fault queue (R424, R425). Their layout is that of the published
RISC-V IOMMU specification (PRESUMED), with the options of R424. The result of a translation is an operand of the commands
that need one. -/
namespace Sys2Proof.Machine

/-- A register of 32 bits. -/
def iommuGet (off : Nat) (s : State) : Nat := smapGet (fun _ => 0) s.iommu off

/-- A register of 32 bits set. -/
def iommuSet (off v : Nat) (s : State) : State := { s with iommu := smapSet (fun _ => 0) s.iommu off (v % 2 ^ 32) }

/-- A register of 64 bits. -/
def iommuGet64 (off : Nat) (s : State) : Nat := iommuGet off s + 2 ^ 32 * iommuGet (off + 4) s

/-- The number of entries of the queue whose base register is at off: at most 4,096. -/
def queueSize (off : Nat) (s : State) : Nat := 2 ^ (min 12 (iommuGet off s % 32 + 1))

/-- The address of the queue whose base register is at off. -/
def queueBase (off : Nat) (s : State) : Nat := iommuGet64 off s / 2 ^ 10 % 2 ^ 44 * 4096

/-- The read-only word of the capabilities: version 1.0, Sv39, Sv48, their guest forms, MSI flat mode, 48-bit addresses. -/
def iommuCaps : Nat := 0x10 + 2 ^ 9 + 2 ^ 10 + 2 ^ 17 + 2 ^ 18 + 2 ^ 22 + 48 * 2 ^ 32

/-- A read of 32 bits at an offset of the register file. -/
def iommuRead (off : Nat) (s : State) : Nat :=
  if off = 0 then iommuCaps % 2 ^ 32 else if off = 4 then iommuCaps / 2 ^ 32 else iommuGet off s

/-! ## Interrupts -/

/-- The hart and file whose page begins at an address (R439). -/
def fileOfPage (a : Nat) : Option (Nat × Nat) :=
  if 0xFF1080000000 ≤ a ∧ a < 0xFF1080000000 + 256 * 0x8000 then
    let o := a - 0xFF1080000000
    if o % 0x1000 = 0 then some (o / 0x8000, o % 0x8000 / 0x1000) else none
  else if 0xFF1000000000 ≤ a ∧ a < 0xFF1000000000 + 256 * 0x2000 then
    let o := a - 0xFF1000000000
    if o % 0x1000 = 0 then some (o / 0x2000, if o % 0x2000 = 0 then 8 else 9) else none
  else none

/-- Interrupt cause i (0 command queue, 1 fault queue) becomes pending in ipsr, and its message is sent. -/
def iommuIrq (i : Nat) (s : State) : State :=
  if (iommuGet 0x54 s).testBit i then s
  else
    let s := iommuSet 0x54 (iommuGet 0x54 s + 2 ^ i) s
    let v := iommuGet 0x2F8 s / 16 ^ i % 16
    let e := 0x300 + v * 16
    if (iommuGet (e + 12) s).testBit 0 then s
    else match fileOfPage (iommuGet64 e s) with
      | some (h, f) => s.send (.imsic h f (iommuGet (e + 8) s % 2048) (f == 9) 0 0x14D)
      | none => s

/-- The bits of cqcsr or fqcsr that writes cannot set: status and on. -/
def csrBits (off x : Nat) (s : State) : State := iommuSet off (iommuGet off s ||| x) s

/-! ## The fault queue -/

/-- One fault put into the fault queue: a record of 32 bytes; a full queue sets fqof, an error fqmf. -/
def iommuLogOne (f : IommuFault) (s : State) : State :=
  let c := iommuGet 0x4C s
  if !c.testBit 16 || c.testBit 8 || c.testBit 9 then s
  else
    let t := iommuGet 0x34 s
    let n := queueSize 0x28 s
    let fie (s : State) : State := if c.testBit 1 then iommuIrq 1 s else s
    if (t + 1) % n = iommuGet 0x30 s % n then fie (csrBits 0x4C 0x200 s)
    else
      let w := f.cause % 4096 + (if f.write then 3 else 2) * 2 ^ 34 + f.did % 2 ^ 24 * 2 ^ 40
      let (ok, s) := agentWrite 3 (queueBase 0x28 s + t * 32) 32 (w + f.iova % 2 ^ 64 * 2 ^ 128) s
      if ok then fie (iommuSet 0x34 ((t + 1) % n) s) else fie (csrBits 0x4C 0x100 s)

/-- The faults that wait put into the fault queue, the oldest first, as long as its lines are free of transactions. -/
def iommuLog (s : State) : State :=
  s.iommuFlt.foldl (fun t f =>
    if t.iommuFlt.head? != some f || agentWaits (queueBase 0x28 t + iommuGet 0x34 t * 32) 32 t then t
    else iommuLogOne f { t with iommuFlt := t.iommuFlt.tail }) s

/-! ## The command queue -/

/-- A command that cannot be performed stops the queue. -/
def cmdStop (x : Nat) (s : State) : State :=
  let s := csrBits 0x48 x s
  if (iommuGet 0x48 s).testBit 1 then iommuIrq 0 s else s

/-- IOMMU_COMMAND: the command at the head of the queue. The invalidations find no cached translation, each translation
being an operand. -/
def iommuStep (s : State) : State :=
  let c := iommuGet 0x48 s
  let h := iommuGet 0x20 s
  if !c.testBit 16 || c.testBit 8 || c.testBit 9 || c.testBit 10 || h == iommuGet 0x24 s ||
      agentWaits (queueBase 0x18 s + h * 16) 16 s then s
  else
    let next (s : State) : State := iommuSet 0x20 ((h + 1) % queueSize 0x18 s) s
    match agentRead 3 (queueBase 0x18 s + h * 16) 16 s with
    | (none, s) => cmdStop 0x100 s
    | (some v, s) =>
      let op := v % 128
      let fn := v / 128 % 8
      if (op = 1 ∧ fn ≤ 1) ∨ (op = 3 ∧ fn = 0) then next s
      else if op = 2 ∧ fn = 0 then
        if v.testBit 10 then
          if agentWaits (v / 2 ^ 64 % 2 ^ 62 * 4) 4 s then s
          else match agentWrite 2 (v / 2 ^ 64 % 2 ^ 62 * 4) 4 (v / 2 ^ 32 % 2 ^ 32) s with
          | (true, s) => next s
          | (false, s) => cmdStop 0x100 s
        else next s
      else cmdStop 0x400 s

/-- IOMMU_COMMAND. -/
def execIommuCommand (s : State) : Out := .next (iommuStep (iommuLog s))

/-! ## Register writes -/

/-- A queue's control word: enable and interrupt enable as written, the error bits cleared by 1; `on` follows the enable, and
enabling sets the index register at idx to 0. -/
def queueCsr (off idx errs v : Nat) (s : State) : State :=
  let old := iommuGet off s
  let kept := (old &&& errs) &&& (errs ^^^ (v &&& errs))
  let s := if v.testBit 0 && !old.testBit 16 then iommuSet idx 0 s else s
  iommuSet off ((v % 4) ||| kept ||| (if v.testBit 0 then 0x10000 else 0)) s

/-- A write of 32 bits at an offset of the register file. -/
def iommuWrite (off v : Nat) (s : State) : State :=
  if off = 0x10 then iommuSet off (if v % 16 ≤ 4 then v &&& 0xFFFFFC0F else (v &&& 0xFFFFFC00) ||| iommuGet off s % 16) s
  else if off = 0x14 ∨ off = 0x1C ∨ off = 0x2C then iommuSet off (v % 2 ^ 22) s
  else if off = 0x18 ∨ off = 0x28 then iommuSet off ((v &&& 0xFFFFFC00) ||| min 11 (v % 32)) s
  else if off = 0x24 then iommuSet off (v % queueSize 0x18 s) s
  else if off = 0x30 then iommuSet off (v % queueSize 0x28 s) s
  else if off = 0x48 then queueCsr off 0x20 0x700 v s
  else if off = 0x4C then queueCsr off 0x34 0x300 v s
  else if off = 0x54 then iommuSet off (iommuGet off s &&& (3 ^^^ (v % 4))) s
  else if off = 0x2F8 then iommuSet off (v % 256) s
  else if 0x300 ≤ off ∧ off < 0x400 then
    iommuSet off (if off % 16 = 0 then v / 4 * 4 else if off % 16 = 4 then v % 2 ^ 24 else if off % 16 = 12 then v % 2 else v) s
  else s

end Sys2Proof.Machine
end

