-- ==== Sys2Proof/Machine/Pcie.lean ====
section
/-! DEFINITION. PCI Express: outbound windows and what a port masters, inbound requests, the endpoint functions with their
mailboxes, doorbells, windows and resets (R450 to R476). -/
namespace Sys2Proof.Machine

/-! ## Ports and links (R450, R475) -/

/-- A field of PE_PORT_CFG in force. -/
def peMode (n : Nat) (s : State) : Bool := fget F.PE_PORT_CFG_MODE (smapGet (fun _ => 0) s.peLive n) == 1

/-- The links that BIF in force creates. -/
def peLinks (n : Nat) (s : State) : Nat :=
  match fget F.PE_PORT_CFG_BIF (smapGet (fun _ => 0) s.peLive n) with
  | 0 => 1
  | 1 => 2
  | 2 | 3 => 3
  | 4 => 4
  | _ => 1

/-- Link l of port n is an endpoint link. -/
def peEndpoint (n l : Nat) (s : State) : Bool := peMode n s && l == 0

/-- The link is up. -/
def peUp (n l : Nat) (s : State) : Bool := s.fbit F.PE_PORT_STATUS_LINK_UP n l

/-- A function's index. -/
def fnIx (n f : Nat) : Nat := 33 * n + f

/-- The configuration space of a function. -/
def State.peC (s : State) (k : Nat) : PeCfg := smapGet (fun _ => {}) s.peCfg k

/-- The configuration space of a function set. -/
def State.setPeC (s : State) (k : Nat) (c : PeCfg) : State := { s with peCfg := smapSet (fun _ => {}) s.peCfg k c }

/-- Bus Master Enable of a function (R471). -/
def peBme (n f : Nat) (s : State) : Bool := s.b F.PE_FN_STATUS_BME (fnIx n f)

/-- A TLP sent on a link: the link returns to L0 (R475). -/
def peSend (n : Nat) (t : Tlp) (s : State) : State :=
  { s with out := s.out ++ [.tlp n t], aspm := smapSet (fun _ => 0) s.aspm (4 * n + t.link) 0,
           peIdle := smapSet (fun _ => 0) s.peIdle (4 * n + t.link) s.tb }

/-- A write to PE_PORT_CFG: MODE endpoint only on PE0 and PE1 with BIF 0 or 1. It takes effect at the port's next reset. -/
def pePortCfgWrite (n : Nat) (v : Word) (s : State) : State :=
  if vset F.PE_PORT_CFG_MODE v && (decide (2 ≤ n) || decide (2 ≤ fget F.PE_PORT_CFG_BIF v)) then
    s.setB F.PE_PORT_STATUS_CFGERR n true
  else s.wr .PE_PORT_CFG n v

/-! ## Outbound windows (R453, R454) -/

/-- A write to an outbound window register: word 0 CFG, 1 BASE, 2 BUS. -/
def peOwinWrite (i word : Nat) (v : Word) (s : State) : State :=
  let n := i / 16
  let err (s : State) : State := s.setB F.PE_PORT_STATUS_CFGERR n true
  let g : Reg := if word = 0 then .PE_OWIN_CFG else if word = 1 then .PE_OWIN_BASE else .PE_OWIN_BUS
  if s.b F.PE_OWIN_CFG_EN i then owinHeld g F.PE_OWIN_CFG_EN i v err s
  else if word = 0 ∧ vset F.PE_OWIN_CFG_EN v then
    let b := s.f F.PE_OWIN_BASE_VAL i * 65536
    let size := fget F.PE_OWIN_CFG_SIZE v
    let e := b + 2 ^ size
    let overlap := (List.range 128).any fun j => j != i && s.b F.PE_OWIN_CFG_EN j &&
      decide (s.f F.PE_OWIN_BASE_VAL j * 65536 < e) && decide (b < s.f F.PE_OWIN_BASE_VAL j * 65536 + 2 ^ s.f F.PE_OWIN_CFG_SIZE j)
    let l := fget F.PE_OWIN_CFG_LINK v
    let ty := fget F.PE_OWIN_CFG_TYPE v
    if overlap ∨ 0xF000000000 < e ∨ b < 0x8000000000 ∨ size < 16 ∨ 39 < size ∨ peLinks n s ≤ l ∨
        (ty == 2) != peEndpoint n l s then err s
    else s.wr g i v
  else s.wr g i v

/-- A window's WORLD changes by Secure accesses alone (R476, R505). -/
def worldKept (a : Access) (f : Fld) (i : Nat) (act : State → State) (s : State) : State :=
  let w := s.b f i
  let s := act s
  if a.world then s else s.setB f i w

/-- OUTBOUND_WINDOW_WRITE. -/
def execOutboundWindowWrite (a : Access) (i word : Nat) (v : Word) (s : State) : Out :=
  let g : Reg := if word = 0 then .PE_OWIN_CFG else if word = 1 then .PE_OWIN_BASE else .PE_OWIN_BUS
  .next (guarded a true g i
    (fun t => if word = 0 then worldKept a F.PE_OWIN_CFG_WORLD i (peOwinWrite i 0 v) t else peOwinWrite i word v t) s)

/-! ## Requests that a port masters (R455 to R459) -/

/-- A tag of a link that no request holds. -/
def peTag (n l : Nat) (s : State) : Option Nat :=
  (List.range 256).find? fun t => !s.peRd.any fun r => r.port == n && r.link == l && r.tag == t

/-- The TLP of a held request. -/
def PeHeld.tlp (e : PeHeld) (tag : Nat) : Tlp :=
  { kind := e.kind, link := e.r.link, fn := e.r.fn, addr := e.r.addr, len := e.r.len, data := e.data, be := e.be, tag := tag }

/-- A request waits behind a held one of its link: an earlier one of the same initiator, or for an MSI-X message, which no
request of the fabric asks for, an earlier write for the function (R455, R464). -/
def PeHeld.behind (e h : PeHeld) : Bool :=
  h.r.port == e.r.port && h.r.link == e.r.link &&
    (h.src == e.src || (e.ack && e.p.isNone && h.kind == .mwr && h.r.fn == e.r.fn))

/-- A TLP goes out, a non-posted one with a tag that is free. -/
def peGo (e : PeHeld) (s : State) : Option State :=
  let n := e.r.port
  let sent (tag : Nat) (s : State) : State :=
    let s := peSend n (e.tlp tag) s
    if e.ack then { s with peWr := s.peWr ++ [{ port := n, t := e.tlp tag, p := e.p }] } else s
  if e.kind = .mwr then some (sent 0 s)
  else (peTag n e.r.link s).map fun t => sent t { s with peRd := s.peRd ++ [{ e.r with tag := t }] }

/-- A TLP sent, or held behind an earlier one or for want of a tag (R455, R457). -/
def peAsk (e : PeHeld) (s : State) : State :=
  let hold : State := { s with peWait := s.peWait ++ [e] }
  if s.peWait.any e.behind then hold else (peGo e s).getD hold

/-- What a link holds goes out as far as it may. -/
def peWaitGo (n l : Nat) (s : State) : State :=
  s.peWait.foldl (fun t e =>
    if e.r.port = n ∧ e.r.link = l then peAsk e t else { t with peWait := t.peWait ++ [e] }) { s with peWait := [] }

/-- The function that a window names as requester, on an endpoint link. -/
def owinFn (i : Nat) (s : State) : Option Nat :=
  if s.f F.PE_OWIN_CFG_TYPE i = 2 then some (s.f F.PE_OWIN_CFG_FUNC i) else none

/-- The Memory Read that a port forms is sent. -/
def peCombSend (n : Nat) (s : State) : State :=
  match smapGet (fun _ => none) s.peComb n with
  | none => s
  | some c =>
    let s := { s with peComb := smapSet (fun _ => none) s.peComb n none }
    let r : PeRd := { port := n, link := s.f F.PE_OWIN_CFG_LINK c.win, tag := 0, fn := owinFn c.win s, addr := c.addr,
                      len := c.len, rds := c.rds }
    peAsk { r := r, kind := .mrd, src := (c.rds.head?.map fun x => x.1.src).getD 0 } s

/-- The Memory Read that a port forms for an initiator is sent before another request of it (R455, R456). -/
def peCombEnd (n src : Nat) (s : State) : State :=
  match smapGet (fun _ => none) s.peComb n with
  | some c => if c.rds.any (fun x => x.1.src == src) then peCombSend n s else s
  | none => s

/-- The bytes to which a read of a link is combined: min(MRRS, 512). A root port's MRRS is taken as 512. -/
def peLimit (n win : Nat) (s : State) : Nat :=
  match owinFn win s with
  | some f => min 512 (s.peC (fnIx n f)).mrrs
  | none => 512

/-- A read of a DMA channel joins the Memory Read being formed, or begins one (R456). -/
def peCombine (n win ch addr len : Nat) (p : Packet) (s : State) : State :=
  let joins : Bool := match smapGet (fun _ => none) s.peComb n with
    | some c => c.ch == ch && c.win == win && c.addr + c.len == addr && decide (c.len + len ≤ peLimit n win s) &&
        (addr + len - 1) / 4096 == c.addr / 4096
    | none => false
  let s := if joins then s else peCombSend n s
  let c := (smapGet (fun _ => none) s.peComb n).getD { ch := ch, win := win, addr := addr }
  let c := { c with len := c.len + len, rds := c.rds ++ [(p, c.len)] }
  let s := { s with peComb := smapSet (fun _ => none) s.peComb n (some c) }
  if peLimit n win s ≤ c.len ∨ (c.addr + c.len) % 4096 = 0 then peCombSend n s else s

/-- The DMA channel of an open request whose source side is not fixed. -/
def chanOfRead (p : Packet) (s : State) : Option Nat :=
  match s.txs.find? fun t => t.src == p.src && t.tag == p.tag && t.phase == 0 with
  | some t =>
    match t.own with
    | .dma ch _ _ => match (s.ch ch).move with
      | some m => if m.sfix then none else some ch
      | none => none
    | _ => none
  | none => none

/-- The bus address of a byte that a window maps: BUS plus the offset, or for configuration requests the offset. -/
def owinBus (win a : Nat) (s : State) : Nat :=
  let o := a - s.f F.PE_OWIN_BASE_VAL win * 65536
  if s.f F.PE_OWIN_CFG_TYPE win = 1 then o else ((s.r .PE_OWIN_BUS win).toNat + o) % 2 ^ 64

/-- A request that an outbound window maps. -/
def peOut (win : Nat) (p : Packet) (s : State) : State :=
  let n := win / 16
  let rd := p.op == .rdIO
  let (lo, len) := ioSpan p
  let a := p.addr + lo
  let acc : Access := { world := p.w, part := p.part, src := p.src }
  let k : DenyKind := if rd then .read else .write
  let l := s.f F.PE_OWIN_CFG_LINK win
  let fn := owinFn win s
  if s.b F.PE_OWIN_CFG_WORLD win && !p.w then ioReply p 0b01#2 0 0 (denyWorld .window k acc a s)
  else if p.part ≠ 0 ∧ p.part ≠ s.f F.PE_OWIN_CFG_PART win then ioReply p 0b01#2 0 0 (denyPart .window k acc a s)
  else if unitOff (272 + n) s ∨ !peUp n l s then ioReply p 0b10#2 0 0 s
  else
    let blocked : Bool := match fn with
      | some f => !peBme n f s || s.b F.PE_FN_STATUS_BUSY_FLR (fnIx n f)
      | none => false
    if blocked then ioReply p 0b10#2 0 0 s
    else
      let bus := owinBus win a s
      let cfg := s.f F.PE_OWIN_CFG_TYPE win == 1
      let r : PeRd := { port := n, link := l, tag := 0, fn := fn, addr := bus, len := len, cfg := cfg }
      if rd then
        match (if s.b F.PE_OWIN_CFG_PREFETCH win && !cfg && len != 0 then chanOfRead p s else none) with
        | some ch => peCombine n win ch bus len p s
        | none => peAsk { r := { r with rds := [(p, 0)] }, kind := if cfg then .crd else .mrd, src := p.src } (peCombEnd n p.src s)
      else
        peAsk { r := r, kind := if cfg then .cwr else .mwr, src := p.src, data := (p.payload >>> (8 * lo)).toNat % 2 ^ (8 * len),
                be := (p.mask >>> lo).toNat, ack := true, p := some p } (peCombEnd n p.src s)

/-- READ_COMBINE_TIMEOUT. -/
def execReadCombineTimeout (n : Nat) (s : State) : Out := .next (peCombSend n s)

/-- The poison bits of n bytes at byte lo of a line which begin at offset o of a request: of each 32-byte half that holds
bytes of a poisoned range. -/
def halfPoison (bad : List (Nat × Nat)) (o lo n : Nat) : BitVec 2 :=
  let hit (h : Nat) : Bool :=
    let b := max lo (32 * h)
    let e := min (lo + n) (32 * h + 32)
    decide (b < e) && bad.any fun r => decide (r.1 < o + (e - lo)) && decide (o + (b - lo) < r.1 + r.2)
  (if hit 0 then 1 else 0) + (if hit 1 then 2 else 0)

/-- The read packets of a request that are answered once bytes up to got have come: the answers, and those left. -/
def peDeliver (r : PeRd) (s : State) : State :=
  let ready (x : Packet × Nat) : Bool := decide (x.2 + (ioSpan x.1).2 ≤ r.got)
  r.rds.foldl (fun s x =>
    if ready x then
      let (lo, n) := ioSpan x.1
      ioReply x.1 0b00#2 (halfPoison r.bad x.2 lo n) (linePut 0 lo n (r.data / 256 ^ x.2 % 256 ^ n)) s
    else s) s

/-- Every read packet of a request that has no answer yet is answered with an error. -/
def peFailAll (r : PeRd) (s : State) : State := r.rds.foldl (fun s x => ioReply x.1 0b10#2 0 0 s) s

/-- A request leaves its port, and its TLP the messages sent. -/
def peRelease (r : PeRd) (s : State) : State :=
  let mine (m : Msg) : Bool := match m with
    | .tlp n t => n == r.port && t.link == r.link && t.tag == r.tag && (t.kind == .mrd || t.kind == .crd || t.kind == .cwr)
    | _ => false
  let s := { s with peRd := s.peRd.erase r, out := s.out.eraseP mine }
  peWaitGo r.port r.link s

/-- PCIE_COMPLETION: a completion t received on port n (R457). -/
def execPcieCompletion (n : Nat) (t : Tlp) (s : State) : Out :=
  match s.peRd.find? fun r => r.port == n && r.link == t.link && r.tag == t.tag with
  | none => .next (s.satInc F.PE_PORT_STATUS_LATE_CPL n)
  | some r =>
    let last : Bool := t.st != 0 || decide (r.len ≤ r.got + t.len)
    if r.dead then
      let s := s.satInc F.PE_PORT_STATUS_LATE_CPL n
      .next (if last then peRelease r s else
        { s with peRd := s.peRd.map fun x => if x = r then { r with got := r.got + t.len } else x })
    else if t.st ≠ 0 then .next (peRelease r (peFailAll r s))
    else
      let q := { r with
        data := r.data + t.data % 256 ^ t.len * 256 ^ r.got, got := r.got + t.len
        bad := if t.ep then r.bad ++ [(r.got, t.len)] else r.bad }
      let s := peDeliver q s
      let q' := { q with rds := q.rds.filter fun x => !decide (x.2 + (ioSpan x.1).2 ≤ q.got) }
      let s := { s with peRd := s.peRd.map fun x => if x = r then q' else x }
      .next (if last then peRelease q' s else s)

/-- COMPLETION_TIMEOUT: as UR, with CTO; a request answered before only gives back its tag. -/
def execCompletionTimeout (n link tag : Nat) (s : State) : Out :=
  match s.peRd.find? fun r => r.port == n && r.link == link && r.tag == tag with
  | none => .next s
  | some r =>
    if r.dead then .next (peRelease r s)
    else .next ((peRelease r (peFailAll r s)).setB F.PE_PORT_STATUS_CTO n true)

/-- PCIE_ACK: the oldest write TLP of a link is acknowledged, and its CmpIO returns (R459). -/
def execPcieAck (n link : Nat) (s : State) : Out :=
  match s.peWr.find? fun x => x.port == n && x.t.link == link with
  | none => .next s
  | some x =>
    let s := { s with peWr := s.peWr.erase x, out := s.out.erase (.tlp n x.t) }
    match x.p with
    | some p => .next (ioReply p 0b00#2 0 0 s)
    | none => .next s

/-! ## Functions: notifications, doorbells, MSI-X (R463, R464) -/

/-- The world and partition of a function's host requests; none for a VF that no partition binds (R462). -/
def fnHost (n f : Nat) (s : State) : Option (Nat × Bool) := fnOwner n f s

/-- The interrupt that PE_FN_NOTIFY names. -/
def fnNotify (n f : Nat) (s : State) : State :=
  match fnHost n f s with
  | none => s
  | some (p, w) =>
    let k := fnIx n f
    if 7 < s.f F.PE_FN_NOTIFY_FILE k then s
    else s.send (.imsic (s.f F.PE_FN_NOTIFY_HART k) (s.f F.PE_FN_NOTIFY_FILE k) (s.f F.PE_FN_NOTIFY_EIID k) w p (0x118 + n))

/-- A host write to DOORBELL. -/
def doorbell (n f : Nat) (v : Word) (s : State) : State :=
  let k := fnIx n f
  let old := s.r .PE_FN_DOORBELL k
  let s := s.setR .PE_FN_DOORBELL k (old ||| v)
  if old = 0 ∧ v ≠ 0 then fnNotify n f s else s

/-- The function takes host requests: an endpoint link, a function that exists and is bound, and no FLR under way. -/
def fnOpen (n f : Nat) (s : State) : Bool :=
  peEndpoint n 0 s && decide (f ≤ 32) && (fnHost n f s).isSome && !s.b F.PE_FN_STATUS_BUSY_FLR (fnIx n f)

/-- HOST_DOORBELL. -/
def execHostDoorbell (n f : Nat) (v : Word) (s : State) : Out := .next (if fnOpen n f s then doorbell n f v s else s)

/-- A vector of a function. -/
def State.vec (s : State) (k : Nat) : MsixVec := smapGet (fun _ => {}) s.msix k

/-- A vector set. -/
def State.setVec (s : State) (k : Nat) (v : MsixVec) : State := { s with msix := smapSet (fun _ => {}) s.msix k v }

/-- A vector sent as a posted write, or left pending while it is masked. -/
def msixSend (n f k : Nat) (s : State) : State :=
  let i := fnIx n f * 16 + k
  let c := s.peC (fnIx n f)
  let v := s.vec i
  if !c.msix then s
  else if v.mask || c.fmask then s.setVec i { v with pend := true }
  else
    let s := s.setVec i { v with pend := false }
    peAsk { r := { port := n, link := 0, tag := 0, fn := some f, addr := v.addr, len := 4 }, kind := .mwr, src := 0x10000 + f,
            data := v.data, be := 0xF, ack := true } s

/-- The pending vectors that are no longer masked are sent. -/
def msixUnmask (n f : Nat) (s : State) : State :=
  iter 16 (fun k s => if (s.vec (fnIx n f * 16 + k)).pend then msixSend n f k s else s) s

/-- A write to PE_FN_MSIX: it is answered with an error while the function may send no request (R471). -/
def msixWrite (n f : Nat) (v : Word) (s : State) : State :=
  if !peBme n f s || s.b F.PE_FN_STATUS_BUSY_FLR (fnIx n f) then s.answerErr 0b10#2
  else msixSend n f (fget F.PE_FN_MSIX_VAL v) s

/-- MSIX_RAISE. -/
def execMsixRaise (a : Access) (n f : Nat) (v : Word) (s : State) : Out :=
  .next (guarded a true .PE_FN_MSIX (fnIx n f) (msixWrite n f v) s)

/-! ## Result mailboxes (R467 to R470) -/

/-- The index of mailbox m of a function. -/
def mbxIx (n f m : Nat) : Nat := fnIx n f * 16 + m

/-- A write to PE_MBX_CTRL: a publish accepted or refused. LEN is kept while a result is held. -/
def mbxCtrlWrite (n f m : Nat) (v : Word) (s : State) : State :=
  let i := mbxIx n f m
  let clear (fl : Fld) (s : State) : State := if vset fl v then s.setB fl i false else s
  let s := clear F.PE_MBX_CTRL_LENERR (clear F.PE_MBX_CTRL_ACKED (clear F.PE_MBX_CTRL_FULL s))
  let len := fget F.PE_MBX_CTRL_LEN v
  let held := s.b F.PE_MBX_CTRL_READY i
  if !vset F.PE_MBX_CTRL_PUBLISH v then (if held then s else s.setF F.PE_MBX_CTRL_LEN i len)
  else if held || s.b F.PE_FN_STATUS_BUSY_FLR (fnIx n f) || decide (56 < len) then
    let s := if 56 < len then s.setB F.PE_MBX_CTRL_LENERR i true else s
    if held || s.b F.PE_FN_STATUS_BUSY_FLR (fnIx n f) then s.setB F.PE_MBX_CTRL_FULL i true else s
  else ((s.wrapInc F.PE_MBX_CTRL_SEQ i).setF F.PE_MBX_CTRL_LEN i len).setB F.PE_MBX_CTRL_READY i true

/-- PUBLISH. -/
def execPublish (a : Access) (n f m : Nat) (v : Word) (s : State) : Out :=
  .next (guarded a true .PE_MBX_CTRL (mbxIx n f m) (mbxCtrlWrite n f m v) s)

/-- A write to PE_MBX_DATA, ignored while a result is held. -/
def mbxDataWrite (ix : Nat) (v : Word) (s : State) : State :=
  if s.b F.PE_MBX_CTRL_READY (ix / 7) then s else s.setR .PE_MBX_DATA ix v

/-- The header that the host reads (R468). -/
def mbxHeader (i : Nat) (s : State) : Nat :=
  let q := s.f F.PE_MBX_CTRL_SEQ i
  if s.b F.PE_MBX_CTRL_READY i then 2 ^ 63 + q * 2 ^ 32 + s.f F.PE_MBX_CTRL_LEN i else 2 ^ 61 + (q + 1) % 65536 * 2 ^ 32

/-- The 64 bytes of a mailbox as the host reads them. -/
def mbxBytes (i : Nat) (s : State) : Nat :=
  mbxHeader i s +
    if s.b F.PE_MBX_CTRL_READY i then
      (List.range 7).foldl (fun v k => v + (s.r .PE_MBX_DATA (i * 7 + k)).toNat * 2 ^ (64 * (k + 1))) 0
    else 0

/-- A host write of a mailbox header: an acknowledgement of the result held empties the mailbox, anything else counts. -/
def mbxAck (n f m : Nat) (v : Word) (s : State) : State :=
  let i := mbxIx n f m
  if bit v 62 && s.b F.PE_MBX_CTRL_READY i && bits v 47 32 == s.f F.PE_MBX_CTRL_SEQ i then
    let s := (s.setB F.PE_MBX_CTRL_READY i false).setB F.PE_MBX_CTRL_ACKED i true
    if s.b F.PE_FN_NOTIFY_ACK_IRQ (fnIx n f) then fnNotify n f s else s
  else s.satInc F.PE_FN_STATUS_ACK_ERR (fnIx n f)

/-- MAILBOX_ACK. -/
def execMailboxAck (n f m : Nat) (v : Word) (s : State) : Out := .next (if fnOpen n f s then mbxAck n f m v s else s)

/-! ## Inbound windows (R465, R466) -/

/-- The index of window i of a function. -/
def iwinIx (n f i : Nat) : Nat := fnIx n f * 8 + i

/-- A field of a function's window in force. -/
def peIwin (fl : Fld) (ix : Nat) (s : State) : Nat := fget fl (smapGet (fun _ => 0) s.iwinCur (fl.reg.key ix))

/-- The window in force that holds n bytes from a BAR2 offset. -/
def peIwinOf (n f o len : Nat) (s : State) : Option Nat :=
  (List.range 8).find? fun i =>
    let ix := iwinIx n f i
    let b := peIwin F.PE_IWIN_OFFSET_VAL ix s * 4096
    peIwin F.PE_IWIN_CTRL_EN ix s == 1 && decide (b ≤ o) && decide (o + len ≤ b + 2 ^ peIwin F.PE_IWIN_CTRL_SIZE ix s)

/-- Two enabled shadow windows of a function overlap. -/
def peShadowOverlap (n f : Nat) (s : State) : Bool :=
  let lo (i : Nat) : Nat := s.f F.PE_IWIN_OFFSET_VAL (iwinIx n f i) * 4096
  let hi (i : Nat) : Nat := lo i + 2 ^ s.f F.PE_IWIN_CTRL_SIZE (iwinIx n f i)
  let en (i : Nat) : Bool := s.b F.PE_IWIN_CTRL_EN (iwinIx n f i)
  (List.range 8).any fun i => (List.range 8).any fun k =>
    decide (i < k) && en i && en k && decide (lo i < hi k) && decide (lo k < hi i)

/-- The shadow value of a window register put in force. -/
def peIwinTake (g : Reg) (ix : Nat) (s : State) : State :=
  { s with iwinCur := smapSet (fun _ => 0) s.iwinCur (g.key ix) (s.r g ix) }

/-- A job of function f of port n. -/
def jobOf (f : Nat) (j : InJob) : Bool := j.t.fn == some f

/-- A write to PE_IWIN_COMMIT. -/
def peCommitWrite (n f : Nat) (v : Word) (s : State) : State :=
  let k := fnIx n f
  let s := if vset F.PE_IWIN_COMMIT_COMMIT_ERR v then s.setB F.PE_IWIN_COMMIT_COMMIT_ERR k false else s
  if !vset F.PE_IWIN_COMMIT_GO v then s
  else if s.b F.PE_IWIN_COMMIT_OLD_BUSY k || peShadowOverlap n f s then s.setB F.PE_IWIN_COMMIT_COMMIT_ERR k true
  else
    let s := iter 8 (fun i s =>
      peIwinTake .PE_IWIN_CTRL (iwinIx n f i) (peIwinTake .PE_IWIN_OFFSET (iwinIx n f i) (peIwinTake .PE_IWIN_TARGET (iwinIx n f i) s))) s
    let s := s.setInQ n ((s.inQ n).map fun j => if jobOf f j then { j with old := true } else j)
    s.setB F.PE_IWIN_COMMIT_OLD_BUSY k true

/-- WINDOW_COMMIT. -/
def execWindowCommit (a : Access) (n f : Nat) (v : Word) (s : State) : Out :=
  .next (guarded a true .PE_IWIN_COMMIT (fnIx n f) (peCommitWrite n f v) s)

/-- OLD_MAPPING_DRAINED. -/
def execOldMappingDrained (n f : Nat) (s : State) : Out :=
  if s.b F.PE_IWIN_COMMIT_OLD_BUSY (fnIx n f) && !(s.inQ n).any fun j => jobOf f j && j.old then
    .next ((s.setB F.PE_IWIN_COMMIT_OLD_BUSY (fnIx n f) false).setB F.PE_PORT_STATUS_WIN_DONE n true)
  else .next s

/-! ## Inbound requests (R460, R461) -/

/-- The completions of a read: each of at most 128 bytes, cut at multiples of 64 (R452). -/
def peCpls : Nat → InJob → Nat → List Tlp
  | 0, _, _ => []
  | fuel + 1, j, o =>
    let k := min (j.t.len - o) (128 - (j.t.addr + o) % 64)
    let t : Tlp := { kind := .cpl, link := j.t.link, fn := j.t.fn, req := j.t.req, tag := j.t.tag, addr := j.t.addr + o, len := k,
                     data := j.data / 256 ^ o % 256 ^ k, ep := j.bad.any fun b => decide (b.1 < o + k) && decide (o < b.1 + b.2) }
    t :: (if j.t.len ≤ o + k then [] else peCpls fuel j (o + k))

/-- The end of an inbound request: its completions, or for a refused posted write AER. -/
def peJobEnd (n : Nat) (j : InJob) (s : State) : State :=
  if j.t.kind = .mrd then
    if j.status = 0 then (peCpls 40 j 0).foldl (fun s t => peSend n t s) s
    else peSend n { kind := .cpl, link := j.t.link, fn := j.t.fn, req := j.t.req, tag := j.t.tag, addr := j.t.addr,
                    st := if j.status = 2 then 1 else 4 } s
  else if j.status ≠ 0 then s.setB F.PE_PORT_STATUS_AER n true else s

/-- The finished requests at the head of a port's queue end, and the next one issues. -/
def pePump : Nat → Nat → State → State
  | 0, _, s => s
  | fuel + 1, n, s =>
    match s.inQ n with
    | [] => s
    | j :: rest =>
      if j.reqs.isEmpty && !j.sent then pePump fuel n (peJobEnd n j (s.setInQ n rest))
      else inIssue n s

/-- The PQ_DEVPART entry of a device ID (R425). -/
def devEntry (id : Nat) (s : State) : Option Nat :=
  (List.range 32).find? fun e =>
    s.b F.PQ_DEVPART_EN e && (id ^^^ s.f F.PQ_DEVPART_DEVID e) &&& s.f F.PQ_DEVPART_MASK_MASK e == 0

/-- A request accepted with its fabric requests, or with the status that it ends with. -/
def peAccept (n : Nat) (j : InJob) (s : State) : State := pePump 2 n (inJoin n j s)

/-- A request of a device under a root link: translated under its device ID, with the partition and world of its entry; a
blocked one is refused (R424 to R426). A translation fault is answered with UR or CA, which the spec leaves open. -/
def peRootReq (n : Nat) (t : Tlp) (x : Xlate) (s : State) : State :=
  let e := devEntry (n * 65536 + t.req) s
  let w := match e with | some e => s.b F.PQ_DEVPART_WORLD e | none => false
  let part := match e with | some e => s.f F.PQ_DEVPART_PART e | none => 0
  let blocked : Bool := match e with | some e => s.b F.PQ_DEVPART_BLOCKED e | none => false
  let j : InJob := { t := t, w := w, part := part }
  let k : DenyKind := if t.kind = .mrd then .read else .write
  if blocked then peAccept n { j with status := 1 } (denyPart .window k { world := w, part := part, src := 0x118 + n } t.addr s)
  else match x with
    | .fault _ _ =>
      peAccept n { j with status := if s.freeBit then 1 else 2 } (iommuFault x (n * 65536 + t.req) t.addr (t.kind != .mrd) s.bump)
    | .ok pa _ _ =>
      if inReach pa s then peAccept n { j with reqs := splitLines (t.len / 64 + 2) pa 0 t.len } s
      else peAccept n { j with status := 2 } s

/-- A write of 4 or 8 bytes to the MSI-X table: word 0 and 1 the address, 2 the data, 3 the mask. -/
def msixTableWrite (n f o v : Nat) (s : State) : State :=
  let i := fnIx n f * 16 + o / 16 % 16
  let c := s.vec i
  let c := match o / 4 % 4 with
    | 0 => { c with addr := c.addr / 2 ^ 32 * 2 ^ 32 + v % 2 ^ 32 }
    | 1 => { c with addr := c.addr % 2 ^ 32 + v % 2 ^ 32 * 2 ^ 32 }
    | 2 => { c with data := v % 2 ^ 32 }
    | _ => { c with mask := v % 2 == 1 }
  msixUnmask n f (s.setVec i c)

/-- Word w of the MSI-X table. -/
def msixTableWord (n f w : Nat) (s : State) : Nat :=
  let c := s.vec (fnIx n f * 16 + w / 4 % 16)
  match w % 4 with
  | 0 => c.addr % 2 ^ 32
  | 1 => c.addr / 2 ^ 32 % 2 ^ 32
  | 2 => c.data
  | _ => if c.mask then 1 else 0

/-- The pending bit array of a function. -/
def msixPba (n f : Nat) (s : State) : Nat :=
  (List.range 16).foldl (fun v k => if (s.vec (fnIx n f * 16 + k)).pend then v + 2 ^ k else v) 0

/-- The host page (R463): a read of len bytes at offset o. A read of one mailbox shows one state. -/
def bar0Read (n f o len : Nat) (s : State) : Nat :=
  if o < 0x400 then mbxBytes (mbxIx n f (o / 64)) s / 256 ^ (o % 64) % 256 ^ len
  else if 0x1000 ≤ o ∧ o < 0x1100 then
    (List.range 16).foldl (fun v k => v + msixTableWord n f ((o - 0x1000) / 4 + k) s * 2 ^ (32 * k)) 0 / 256 ^ (o % 4) % 256 ^ len
  else if 0x2000 ≤ o ∧ o < 0x2008 then msixPba n f s / 256 ^ (o - 0x2000) % 256 ^ len
  else 0

/-- The host page: a write of len bytes at offset o. -/
def bar0Write (n f o len v : Nat) (s : State) : State :=
  if o < 0x400 then
    (if o % 64 = 0 ∧ len = 8 then mbxAck n f (o / 64) (BitVec.ofNat 64 v) s
     else if o % 64 < 8 then s.satInc F.PE_FN_STATUS_ACK_ERR (fnIx n f) else s)
  else if 0x1000 ≤ o ∧ o < 0x1100 then
    (if o % 4 = 0 ∧ len = 4 then msixTableWrite n f (o - 0x1000) v s
     else if o % 8 = 0 ∧ len = 8 then msixTableWrite n f (o - 0x1000 + 4) (v / 2 ^ 32) (msixTableWrite n f (o - 0x1000) v s)
     else s)
  else if o = 0x3000 ∧ len = 8 then doorbell n f (BitVec.ofNat 64 v) s
  else s

/-- The size of BAR2 of a function in force (R463). -/
def bar2Size (n f : Nat) (s : State) : Nat :=
  let c := smapGet (fun _ => Reg.reset .PE_EP_CFG 0) s.peLive (8 + n)
  2 ^ (if f = 0 then fget F.PE_EP_CFG_PF_BAR2 c else fget F.PE_EP_CFG_VF_BAR2 c)

/-- A host request to a function: to its page, or through its windows in the world and partition of the function. -/
def peFnReq (n f : Nat) (t : Tlp) (s : State) : State :=
  let rd := t.kind == .mrd
  let j : InJob := { t := t }
  match fnHost n f s with
  | none => peAccept n { j with status := 2 } s
  | some (part, w) =>
    if s.b F.PE_FN_STATUS_BUSY_FLR (fnIx n f) then (if rd then peAccept n { j with status := 2 } s else s)
    else if t.bar = 0 then
      let page := if f = 0 then 0x10000 else 0x4000
      if page ≤ t.addr then peAccept n { j with status := 2 } s
      else if rd then peAccept n { j with data := bar0Read n f t.addr t.len s } s
      else bar0Write n f t.addr t.len t.data s
    else if bar2Size n f s < t.addr + t.len then peAccept n { j with status := 2 } s
    else match peIwinOf n f t.addr (max 1 t.len) s with
      | none => peAccept n { j with status := 2 } s
      | some i =>
        let ix := iwinIx n f i
        if peIwin F.PE_IWIN_CTRL_RO ix s = 1 ∧ !rd then peAccept n { j with status := 1 } s
        else
          let pa := peIwin F.PE_IWIN_TARGET_VAL ix s * 4096 + (t.addr - peIwin F.PE_IWIN_OFFSET_VAL ix s * 4096)
          if inReach pa s then peAccept n { j with w := w, part := part, reqs := splitLines (t.len / 64 + 2) pa 0 t.len } s
          else peAccept n { j with status := 2 } s

/-- PCIE_INBOUND_REQUEST: a memory request t received on port n. x translates the address of a device's request. -/
def execPcieInboundRequest (n : Nat) (t : Tlp) (x : Xlate) (s : State) : Out :=
  if !(t.kind == .mrd || t.kind == .mwr) || !peUp n t.link s || unitOff (272 + n) s then .next s
  else if peEndpoint n t.link s then
    let f := t.fn.getD 0
    if 32 < f then .next s else .next (peFnReq n f { t with fn := some f } s)
  else .next (peRootReq n { t with fn := none } x s)

/-! ## Bus Master Enable, FLR and link resets (R471 to R474) -/

/-- The channels bound to a function (R436, R471). -/
def boundChans (n f : Nat) (s : State) : List Nat :=
  (List.range 256).filter fun c =>
    if f = 0 then (s.r .PE_EP_CFG_PF_CH (4 * n + c / 64)).getLsbD (c % 64)
    else match fnHost n f s with
      | some (p, _) => (s.r .PQ_VF_CH (4 * p + c / 64)).getLsbD (c % 64) && chPart c s == p
      | none => false

/-- A held request ends with an error (R471). -/
def peFailHeld (e : PeHeld) (s : State) : State :=
  match e.p with
  | some p => ioReply p 0b10#2 0 0 s
  | none => peFailAll e.r s

/-- Steps 2 and 3 of R471: the bound channels are paused and aborted, the function's non-posted requests answered with an
error, their tags held, and what the port still holds for it is discarded and answered so too. -/
def fnQuiesce (n f : Nat) (s : State) : State :=
  let s := (boundChans n f s).foldl (fun s c => chAbort c (chPause c s)) s
  let mine (r : PeRd) : Bool := r.port == n && r.fn == some f
  let live := s.peRd.filter fun r => mine r && !r.dead
  let s := live.foldl (fun s r => peFailAll r s) s
  let s := { s with peRd := s.peRd.map fun r => if mine r && !r.dead then { r with dead := true, rds := [] } else r }
  let held := s.peWait.filter fun e => mine e.r
  let s := held.foldl (fun s e => peFailHeld e s) { s with peWait := s.peWait.filter fun e => !mine e.r }
  let s := peWaitGo n 0 s
  match smapGet (fun _ => none) s.peComb n with
  | some c =>
    if owinFn c.win s = some f then
      c.rds.foldl (fun s x => ioReply x.1 0b10#2 0 0 s) { s with peComb := smapSet (fun _ => none) s.peComb n none }
    else s
  | none => s

/-- The host clears Bus Master Enable. -/
def bmeOff (n f : Nat) (s : State) : State :=
  if peBme n f s then
    fnQuiesce n f ((s.setB F.PE_FN_STATUS_BME (fnIx n f) false).setB F.PE_PORT_STATUS_BME_EV n true)
  else s

/-- BME_CLEAR. -/
def execBmeClear (n f : Nat) (s : State) : Out := .next (bmeOff n f s)

/-- A function's mailboxes emptied with SEQ 0, and its doorbell cleared (R472). -/
def fnClear (n f : Nat) (s : State) : State :=
  let s := iter 16 (fun m s =>
    let i := mbxIx n f m
    ((s.setB F.PE_MBX_CTRL_READY i false).setF F.PE_MBX_CTRL_SEQ i 0).setF F.PE_MBX_CTRL_LEN i 0) s
  s.setR .PE_FN_DOORBELL (fnIx n f) 0

/-- One function reset: R471, then mailboxes, doorbell, MSI-X and configuration space. -/
def fnReset (n f : Nat) (s : State) : State :=
  let s := fnQuiesce n f (s.setB F.PE_FN_STATUS_BME (fnIx n f) false)
  let s := iter 16 (fun k s => s.setVec (fnIx n f * 16 + k) {}) (fnClear n f s)
  (s.setPeC (fnIx n f) {}).setB F.PE_FN_STATUS_BUSY_FLR (fnIx n f) true

/-- An FLR of a function; that of PF0 clears VF Enable and so resets every VF. -/
def fnFlr (n f : Nat) (s : State) : State :=
  let s := if f = 0 then iter 33 (fun k s => fnReset n k s) s else fnReset n f s
  s.setB F.PE_PORT_STATUS_FLR_EV n true

/-- FLR. -/
def execFlr (n f : Nat) (s : State) : Out := .next (if peMode n s && decide (f ≤ 32) then fnFlr n f s else s)

/-- FLR_DONE. -/
def execFlrDone (n f : Nat) (s : State) : Out :=
  if s.b F.PE_FN_STATUS_BUSY_FLR (fnIx n f) then
    .next ((s.setB F.PE_FN_STATUS_BUSY_FLR (fnIx n f) false).setB F.PE_FN_STATUS_FLR_DONE (fnIx n f)
      (!s.b F.PE_FN_STATUS_FLR_DONE (fnIx n f)))
  else .next s

/-- A reset of a port's link 0: an endpoint's functions are reset, and the port takes its configuration. -/
def peReset (n : Nat) (s : State) : State :=
  let s := if peMode n s then fnFlr n 0 s else s
  let s := s.setFbit F.PE_PORT_STATUS_LINK_UP n 0 false
  { s with peLive := smapSet (fun _ => 0) (smapSet (fun _ => 0) s.peLive n (s.r .PE_PORT_CFG n)) (8 + n) (s.r .PE_EP_CFG n) }

/-- LINK_RESET: a hot reset, a link down or PERST#. The link then retrains. -/
def execLinkReset (n link : Nat) (s : State) : Out :=
  .next (if link = 0 then peReset n s else s.setFbit F.PE_PORT_STATUS_LINK_UP n link false)

/-- PCIE_LINK_EVENT. -/
def execPcieLinkEvent (n link : Nat) (up : Bool) (s : State) : Out :=
  if peLinks n s ≤ link ∨ peUp n link s == up ∨ (up && unitOff (272 + n) s) then .next s
  else
    let s := if !up && peEndpoint n link s then peReset n s else s
    let s := { s with peIdle := smapSet (fun _ => 0) s.peIdle (4 * n + link) s.tb }
    .next ((s.setFbit F.PE_PORT_STATUS_LINK_UP n link up).setB F.PE_PORT_STATUS_LINK_EV n true)

/-- CONFIGURATION_REQUEST: a host read or write of dword dw of a function's configuration space. A read answers the word. -/
def execConfigurationRequest (n f : Nat) (wr : Bool) (dw : Nat) (v : BitVec 32) (e : CfgEffect) (s : State) : Out :=
  let k := fnIx n f
  let c := s.peC k
  if !peMode n s ∨ 32 < f ∨ !peUp n 0 s then .next s
  else if !wr then .next (peSend n { kind := .cpl, link := 0, fn := some f, len := 4, data := (smapGet (fun _ => 0) c.words dw).toNat } s)
  else
    let s := s.setPeC k { c with words := smapSet (fun _ => 0) c.words dw v }
    let c := s.peC k
    let s := match e with
      | .plain => s
      | .bme true => if peBme n f s then s else (s.setB F.PE_FN_STATUS_BME k true).setB F.PE_PORT_STATUS_BME_EV n true
      | .bme false => bmeOff n f s
      | .vfEnable x => if f = 0 then s.setPeC k { c with vfEn := x } else s
      | .msixEnable x => msixUnmask n f (s.setPeC k { c with msix := x })
      | .msixMask x => msixUnmask n f (s.setPeC k { c with fmask := x })
      | .mrrs b => s.setPeC k { c with mrrs := b }
      | .aspm l0s l1 => { s with aspm := smapSet (fun _ => 0) s.aspm (64 + 4 * n) ((if l0s then 1 else 0) + if l1 then 2 else 0) }
      | .flr => fnFlr n f s
    .next (peSend n { kind := .cpl, link := 0, fn := some f } s)

/-! ## Link power states (R475) -/

/-- Link Control enables a state of a link; a root link's is taken as enabled. -/
def aspmOn (n l b : Nat) (s : State) : Bool := !peEndpoint n l s || (smapGet (fun _ => 0) s.aspm (64 + 4 * n + l)).testBit b

/-- The transmitter of a link has been idle for a time, in units of the timebase. -/
def peQuiet (n l t : Nat) (s : State) : Bool := decide (t ≤ (s.tb - smapGet (fun _ => 0) s.peIdle (4 * n + l)).toNat)

/-- L0S_ENTRY: L0S_IDLE ns of idle have passed. -/
def execL0sEntry (n link : Nat) (s : State) : Out :=
  if peUp n link s && smapGet (fun _ => 0) s.aspm (4 * n + link) == 0 && aspmOn n link 0 s &&
      peQuiet n link (32 * max 1 (s.f F.PE_LINK_CTRL_L0S_IDLE (4 * n + link))) s then
    .next { s with aspm := smapSet (fun _ => 0) s.aspm (4 * n + link) 1 }
  else .next s

/-- L1_ENTRY: L1_IDLE µs of idle have passed. -/
def execL1Entry (n link : Nat) (s : State) : Out :=
  if peUp n link s && smapGet (fun _ => 0) s.aspm (4 * n + link) != 2 && aspmOn n link 1 s &&
      peQuiet n link (tbMicro * max 1 (s.f F.PE_LINK_CTRL_L1_IDLE (4 * n + link))) s then
    .next { s with aspm := smapSet (fun _ => 0) s.aspm (4 * n + link) 2 }
  else .next s

end Sys2Proof.Machine
end

