-- ==== Sys2Proof/Machine/Start.lean ====
section
/-! DEFINITION. Resets, the start sequence, the boot image, the Lanterns, the rack link and Chimney mode (R528 to R553). -/
namespace Sys2Proof.Machine

/-! ## Resets (R528, R529, R532, R540) -/

/-- A warm package reset begins: step 3 of R508 is performed first. It is ignored while the sequence of R508 runs. -/
def warmStart (s : State) : State :=
  if s.pkgEnd.isSome || s.b F.PWR_STATUS_PF_ACTIVE 0 || !pkgRuns s then s
  else endBegin { goal := 2 } ((startEnds s).setF F.ST_STATUS_PHASE 0 9)

/-- A write of ST_CTRL: START_OK counts in PHASE 0x6 only; of the resets the hard one stands higher. -/
def stCtrlWrite (v : Word) (s : State) : State :=
  let s := s.wr .ST_CTRL 0 v
  let s := if vset F.ST_CTRL_START_OK v && startPhase s == 6 && !s.boot.failed then
      (s.setF F.ST_STATUS_COUNT 0 0).setF F.ST_STATUS_PHASE 0 7
    else s
  if vset F.ST_CTRL_HARD_RESET v then hardReset s else if vset F.ST_CTRL_WARM_RESET v then warmStart s else s

/-- START_OK. -/
def execStartOk (a : Access) (v : Word) (s : State) : Out := .next (guarded a true .ST_CTRL 0 (stCtrlWrite (v ||| 1#64)) s)
/-- HARD_RESET. -/
def execHardResetCmd (a : Access) (v : Word) (s : State) : Out := .next (guarded a true .ST_CTRL 0 (stCtrlWrite (v ||| 4#64)) s)
/-- WARM_RESET. -/
def execWarmResetCmd (a : Access) (v : Word) (s : State) : Out := .next (guarded a true .ST_CTRL 0 (stCtrlWrite (v ||| 2#64)) s)

/-- RST_N low for 1 µs. -/
def execRstN (s : State) : Out := .next (if s.pkgOff then s else hardReset s)

/-- POWER_ON_RESET. -/
def execPowerOnReset (s : State) : Out := .next (if s.aonOff then s else powerOnReset s)

/-- A register that AON holds. -/
def regAon : Reg → Bool
  | .ST_STATUS | .ST_CTRL | .ST_REASON | .ST_EVLOG | .ST_EVLOG_HEAD | .LAN_CFG | .LAN_STATUS | .RAS_AON_LOG | .RAS_AON_HEAD
  | .RAS_PAGE_HIST => true
  | _ => false

/-- AON_START: AON with its defaults, and a power-on reset. -/
def execAonStart (s : State) : Out :=
  if !s.aonOff then .next s
  else
    let s := { s with regs := s.regs.filter (fun (k, _) => !regAon (Reg.ofNat (k % 1024))), histNext := 0, aonOff := false, rack := {},
                       aonTb := 0 }
    .next (powerOnReset (evlog 1 0 (s.setR .PHE_TB 0 0)))

/-- RAILS_UP: the end of step 1. -/
def execRailsUp (s : State) : Out :=
  .next (if s.pkgOff || s.aonOff || startPhase s != 0 || s.boot.failed then s else startStep2 s)

/-! ## Training, the image, the release (R535 to R539) -/

/-- DRAM_TRAINING, in step 3: a failed sub-channel fails the start (R237). -/
def execDramTraining (k c fail wrEye rdEye : Nat) (s : State) : Out :=
  if startPhase s ≠ 2 then .next s
  else
    let s := dramTrain k c fail wrEye rdEye s
    .next (if s.f F.MC_TRAIN_STATE (4 * k + c) = 3 ∧ !s.boot.failed then startFail 4 s else s)

/-- One byte of the flash. -/
def flashByte (s : State) (a : Nat) : Byte := smapGet (fun _ => 0xFF) s.flash a

/-- n bytes of the flash from an address, the first lowest. -/
def flashBytes (s : State) : Nat → Nat → Nat
  | _, 0 => 0
  | a, n + 1 => (flashByte s a).toNat + 256 * flashBytes s (a + 1) n

/-- LENGTH, LOAD_ADDR and ENTRY of an image header. -/
def imgLength (h : Nat) : Nat := nslice h 8 8
/-- LOAD_ADDR. -/
def imgLoad (h : Nat) : Nat := nslice h 16 8
/-- ENTRY. -/
def imgEntry (h : Nat) : Nat := nslice h 24 8

/-- The header obeys R535 on a part with dram bytes of DRAM. -/
def headerOk (dram h : Nat) : Bool :=
  let l := imgLength h
  let a := imgLoad h
  nslice h 0 4 == 0x4942445A && nslice h 4 4 == 1 && 1 ≤ l && l ≤ 33553920 && a % 4096 == 0 && a + l ≤ dram &&
    a ≤ imgEntry h && imgEntry h < a + l && nslice h 32 8 == 0 && nslice h 137 7 == 0 && nslice h 240 272 == 0

/-- Every sub-channel is trained and out of self-refresh. -/
def dramReady (s : State) : Bool :=
  (List.range 16).all fun k => s.f F.MC_STATUS_TRAINED k == 0xF && s.f F.MC_STATUS_SELFREF k == 0

/-- IMAGE_LOAD. -/
def execImageLoad (readError : Bool) (s : State) : Out :=
  if startPhase s ≠ 2 ∨ s.boot.failed ∨ !dramReady s then .next s
  else
    let base := s.f F.ST_STATUS_SLOT 0 * 0x2000000
    let h := flashBytes s base 512
    if readError || !headerOk s.sku.dramBytes h then .next (startFail 1 s)
    else
      let n := imgLength h
      if agentWaits (imgLoad h) n s then .next s
      else
      let (_, s) := agentWrite (agentFuel n) (imgLoad h) n (flashBytes s (base + 512) n) s
      .next { s.setF F.ST_STATUS_PHASE 0 4 with boot := { s.boot with header := some h } }

/-- The header with SIG set to 0. -/
def headerNoSig (h : Nat) : Nat := nslice h 0 144 + nslice h 240 272 * 256 ^ 240

/-- The image is valid: its public key and its signature (R536). -/
def imageValid (h : Nat) (s : State) : Bool × State :=
  let n := imgLength h
  match agentRead (agentFuel n) (imgLoad h) n s with
  | (none, s) => (false, s)
  | (some body, s) =>
    (Config.sha384 97 (nslice h 40 97) == s.helm.image &&
      Config.ecdsaVerify (nslice h 40 97) (Config.sha384 (512 + n) (headerNoSig h + body * 256 ^ 512)) (nslice h 144 96), s)

/-- IMAGE_CHECK. -/
def execImageCheck (s : State) : Out :=
  match s.boot.header with
  | none => .next s
  | some h =>
    if startPhase s ≠ 4 ∨ s.boot.failed then .next s
    else if s.b F.HELM_STATUS_ERRSTATE 0 then .next (startFail 3 s)
    else if !s.b F.HELM_STATUS_SELFTEST 0 || agentWaits (imgLoad h) (imgLength h) s then .next s
    else match imageValid h s with
      | (false, s) => .next (startFail 2 s)
      | (true, s) => .next { s.setF F.ST_STATUS_PHASE 0 5 with boot := { s.boot with valid := true } }

/-- A die that is not ON at step 6 has failed its start, and stays OFF (R539). -/
def dieFails (n : Nat) (s : State) : State :=
  let s := if s.b F.BR_STATUS_NOT_PERMITTED n then s.setFbit F.ST_DIE_NOT_PERMITTED 0 n true else s.setFbit F.ST_DIE_FAIL 0 n true
  if s.f F.PWR_DIE_STATE n = 0 then s else dieGone n s

/-- HART_RELEASE: step 6. -/
def execHartRelease (s : State) : Out :=
  if startPhase s ≠ 5 ∨ s.boot.failed ∨ !s.boot.valid then .next s
  else
    let on := (List.range 12).filter fun n => dieOn n s
    let bad := (List.range 12).filter fun n => !dieOn n s
    if !on.all fun n => replicaReady n s then .next s
    else
      let s := bad.foldl (fun t n => dieFails n t) s
      let s := if bad.isEmpty then s else evlog 0xE (BitVec.ofNat 64 (bad.foldl (fun m n => m + 2 ^ n) 0)) s
      if on.isEmpty then .next (startFail 5 s)
      else
        let s := s.setR .ST_VECTOR 0 (BitVec.ofNat 64 (imgEntry (s.boot.header.getD 0)))
        let s := on.foldl (fun t n => let t := applyRetire n t; if t.fbit F.DBG_TEST_HOLD_VAL 0 n then t else dieRelease n t) s
        let boot := ((List.range 256).find? fun h => (s.hart h).st == .run).getD 0
        .next { (s.setF F.ST_STATUS_BOOT_HART 0 boot).setF F.ST_STATUS_PHASE 0 6 with boot := { s.boot with relAt := s.tb } }

/-! ## Watchdog and retries (R541, R542) -/

/-- n milliseconds have passed since t0. -/
def msPassed (n : Nat) (t0 : Word) (s : State) : Bool := decide (n * (1000 * tbMicro) ≤ (s.tb - t0).toNat)

/-- BOOT_WATCHDOG: BOOT_WDT ms have passed since step 6 without START_OK. -/
def execBootWatchdog (s : State) : Out :=
  let n := s.f F.ST_CTRL_BOOT_WDT 0
  .next (if startPhase s = 6 ∧ !s.boot.failed ∧ n ≠ 0 ∧ msPassed n s.boot.relAt s then startFail 6 s else s)

/-- The wait before a retry has passed: 100 ms from the failure for the sequencer's fallback; RETRY_DELAY from when the
active Lantern took it, or 10 ms with no Lantern active (R542, R546). -/
def retryDue (fallback : Bool) (s : State) : Bool :=
  if fallback then msPassed 100 s.boot.failAt s
  else if s.f F.LAN_STATUS_ACTIVE 0 = 0 then msPassed 10 s.boot.retryAt s
  else msPassed (s.f F.LAN_CFG_RETRY_DELAY 0) s.boot.retryAt s

/-- START_RETRY. fallback: no retry has come within 100 ms of the failure, and the sequencer performs it. -/
def execStartRetry (fallback : Bool) (s : State) : Out :=
  if !s.boot.failed || s.pkgOff || !retryDue fallback s then .next s
  else .next (hardReset (if fallback || s.f F.LAN_STATUS_ACTIVE 0 == 0 then s.setB F.ST_REASON_NO_LANTERN 0 true else s))

/-! ## Lanterns (R543 to R546). A Lantern is named by false for A and true for B. -/

/-- The state field of a Lantern: 0 in reset, 1 standby, 2 active, 3 failed. -/
def lanFld (b : Bool) : Fld := if b then F.LAN_STATUS_B_STATE else F.LAN_STATUS_A_STATE

/-- The restart count of a Lantern. -/
def lanRestarts (b : Bool) : Fld := if b then F.LAN_STATUS_B_RESTARTS else F.LAN_STATUS_A_RESTARTS

/-- A Lantern's number in ACTIVE and in the event log. -/
def lanId (b : Bool) : Nat := if b then 2 else 1

/-- A Lantern becomes active. -/
def lanActive (b : Bool) (s : State) : State := (s.setF (lanFld b) 0 2).setF F.LAN_STATUS_ACTIVE 0 (lanId b)

/-- A Lantern has failed. -/
def lanFail (b : Bool) (s : State) : State := evlog 9 (BitVec.ofNat 64 (lanId b)) (s.setF (lanFld b) 0 3)

/-- LANTERN_SELF_TEST: the start self-tests end. -/
def execLanternSelfTest (aPass bPass : Bool) (s : State) : Out :=
  if s.pkgOff || s.f (lanFld false) 0 != 0 || s.f (lanFld true) 0 != 0 || s.f (lanRestarts false) 0 != 0 ||
      s.f (lanRestarts true) 0 != 0 then .next s
  else
    let s := if aPass then lanActive false s else lanFail false s
    .next (if !bPass then lanFail true s else if aPass then s.setF (lanFld true) 0 1 else lanActive true s)

/-- HEARTBEAT: a running Lantern's heartbeat; a restarted one that has beaten for 1 s joins. -/
def execHeartbeat (b : Bool) (s : State) : Out :=
  let st := s.f (lanFld b) 0
  if s.pkgOff || st = 3 || (st = 0 && s.f (lanRestarts b) 0 = 0) then .next s
  else
    let n := (if b then s.rack.beatsB else s.rack.beatsA) + 1
    let s := { s with rack := if b then { s.rack with beatsB := n } else { s.rack with beatsA := n } }
    let period := max 1 (s.f F.LAN_CFG_HB_PERIOD 0)
    if st = 0 ∧ 10000 ≤ n * period then
      .next (if s.f F.LAN_STATUS_ACTIVE 0 = 0 then lanActive b s else s.setF (lanFld b) 0 1)
    else .next s

/-- LANTERN_FAILED: AON declares a Lantern failed; a standby partner takes over. -/
def execLanternFailed (b : Bool) (s : State) : Out :=
  let st := s.f (lanFld b) 0
  if s.pkgOff || st = 3 || (st = 0 && s.f (lanRestarts b) 0 = 0) then .next s
  else
    let s := lanFail b s
    if st ≠ 2 then .next s
    else if s.f (lanFld !b) 0 = 1 then
      let s := (lanActive (!b) s).satInc F.LAN_STATUS_TAKEOVERS 0
      let s := { s with boot := { s.boot with retryAt := s.tb } }
      .next (inBand 3 (evlog 8 (BitVec.ofNat 64 (lanId !b)) s))
    else .next (s.setF F.LAN_STATUS_ACTIVE 0 0)

/-- LANTERN_RESTART, at most 3 times after each power-on reset. -/
def execLanternRestart (b : Bool) (s : State) : Out :=
  if s.pkgOff || s.f (lanFld b) 0 != 3 || decide (3 ≤ s.f (lanRestarts b) 0) then .next s
  else
    let s := (s.setF (lanRestarts b) 0 (s.f (lanRestarts b) 0 + 1)).setF (lanFld b) 0 0
    let s := { s with rack := if b then { s.rack with beatsB := 0 } else { s.rack with beatsA := 0 } }
    .next (evlog 0xA (BitVec.ofNat 64 (lanId b)) s)

/-! ## The rack link and the Lantern mailbox (R547, R548, R553) -/

/-- The answer to a command: RESULT, and response bytes. -/
structure LanAns where
  result : Nat := 0
  len    : Nat := 0
  data   : Nat := 0
  deriving DecidableEq, Repr

/-- The size of the flash that the two image slots give. -/
def flashSize : Nat := 0x4000000

/-- A command of R548 with n request bytes d, the first lowest; lmb: from the Lantern mailbox. -/
def lanExec (code : Nat) (lmb : Bool) (n d : Nat) (s : State) : LanAns × State :=
  let flash : Bool := lmb || inChimney s
  if s.flashOp.isSome then ({ result := 1, len := if code = 3 then 1 else 0, data := if code = 3 then 1 else 0 }, s)
  else match code with
  | 0x01 => ({ len := 32, data := catBytes [(8, (s.r .ST_STATUS 0).toNat), (8, (s.r .ST_REASON 0).toNat),
      (8, (s.r .ST_DIE 0).toNat), (8, (s.r .LAN_STATUS 0).toNat)] }, s)
  | 0x02 =>
    let e := d % 256
    if 64 ≤ e then ({ result := 4 }, s)
    else ({ len := 16, data := catBytes [(8, (s.r .ST_EVLOG (2 * e)).toNat), (8, (s.r .ST_EVLOG (2 * e + 1)).toNat)] }, s)
  | 0x03 => ({ result := s.rack.result, len := 1, data := s.rack.result }, s)
  | 0x10 =>
    let off := d % 65536
    if n < 2 ∨ 255 < n ∨ 1072 < off + (n - 2) then ({ result := 4 }, s)
    else if s.b F.HELM_MB_STATUS_BUSY 2 then ({ result := 1 }, s)
    else ({}, bufWrite .HELM_MB_REQ 2 off (n - 2) (d / 65536) s)
  | 0x11 =>
    if s.b F.HELM_MB_STATUS_BUSY 2 || s.b F.HELM_MB_STATUS_DONE 2 then ({ result := 1 }, s)
    else ({}, mbDoorbell 2 (d % 65536) (s.setF F.HELM_MB_CTRL_LEN 2 (d % 65536)))
  | 0x12 => ({ len := 8, data := (s.r .HELM_MB_STATUS 2).toNat }, s)
  | 0x13 =>
    let off := d % 65536
    let all := s.f F.HELM_MB_STATUS_RSP_LEN 2
    let k := min 253 (all - off)
    ({ len := k, data := nslice (rspAll 2 s) off k },
      if off + k = all then s.setB F.HELM_MB_STATUS_DONE 2 false else s)
  | 0x20 => if s.pkgOff && !s.aonOff then ({}, powerOnReset s) else ({ result := 3 }, s)
  | 0x21 => if inChimney s then ({ result := 3 }, s) else ({}, warmStart s)
  | 0x30 =>
    let a := d % 2 ^ 32
    let k := d / 2 ^ 32 % 256
    if 253 < k ∨ flashSize < a + k then ({ result := 4 }, s) else ({ len := k, data := flashBytes s a k }, s)
  | 0x31 =>
    let a := d % 2 ^ 32
    if !flash then ({ result := 3 }, s)
    else if a % 65536 ≠ 0 ∨ flashSize ≤ a then ({ result := 4 }, s)
    else ({}, { s with flashOp := some { erase := true, addr := a, n := 65536, data := 0, lmb := lmb } })
  | 0x32 =>
    let a := d % 2 ^ 32
    let k := n - 4
    if !flash then ({ result := 3 }, s)
    else if n < 4 ∨ 249 < k ∨ flashSize < a + k ∨ 256 < a % 256 + k then ({ result := 4 }, s)
    else ({}, { s with flashOp := some { erase := false, addr := a, n := k, data := d / 2 ^ 32 % 256 ^ k, lmb := lmb } })
  | _ => ({ result := 2 }, s)

/-- A command on the rack link: ignored and counted with a wrong PEC; a package that is OFF hears WAKE only. -/
def rackRun (pecOk : Bool) (code n d : Nat) (s : State) : State :=
  if s.aonOff || (s.pkgOff && code != 0x20) then s
  else if !pecOk then s.satInc F.LAN_STATUS_PEC_ERR 0
  else
    let (x, s) := lanExec code false n d s
    { s with rack := { s.rack with result := x.result, rspLen := x.len, rsp := x.data } }

/-- GET_START. -/
def execGetStart (pecOk : Bool) (s : State) : Out := .next (rackRun pecOk 0x01 0 0 s)
/-- GET_EVLOG. -/
def execGetEvlog (pecOk : Bool) (index : Nat) (s : State) : Out := .next (rackRun pecOk 0x02 1 (index % 256) s)
/-- GET_RESULT. -/
def execGetResult (pecOk : Bool) (s : State) : Out := .next (rackRun pecOk 0x03 0 0 s)
/-- MB_WRITE: n bytes at an offset of the request buffer of mailbox 2. -/
def execMbWrite (pecOk : Bool) (off n data : Nat) (s : State) : Out :=
  .next (rackRun pecOk 0x10 (n + 2) (off % 65536 + data % 256 ^ n * 65536) s)
/-- MB_RING. -/
def execMbRing (pecOk : Bool) (len : Nat) (s : State) : Out := .next (rackRun pecOk 0x11 2 (len % 65536) s)
/-- MB_STATUS. -/
def execMbStatus (pecOk : Bool) (s : State) : Out := .next (rackRun pecOk 0x12 0 0 s)
/-- MB_READ. -/
def execMbRead (pecOk : Bool) (off : Nat) (s : State) : Out := .next (rackRun pecOk 0x13 2 (off % 65536) s)
/-- WAKE. -/
def execWake (pecOk : Bool) (s : State) : Out := .next (rackRun pecOk 0x20 0 0 s)
/-- WARM. -/
def execWarm (pecOk : Bool) (s : State) : Out := .next (rackRun pecOk 0x21 0 0 s)
/-- FLASH_READ. -/
def execFlashRead (pecOk : Bool) (addr n : Nat) (s : State) : Out :=
  .next (rackRun pecOk 0x30 5 (addr % 2 ^ 32 + n % 256 * 2 ^ 32) s)
/-- FLASH_ERASE. -/
def execFlashErase (pecOk : Bool) (addr : Nat) (s : State) : Out := .next (rackRun pecOk 0x31 4 (addr % 2 ^ 32) s)
/-- FLASH_WRITE. -/
def execFlashWrite (pecOk : Bool) (addr n data : Nat) (s : State) : Out :=
  .next (rackRun pecOk 0x32 (n + 4) (addr % 2 ^ 32 + data % 256 ^ n * 2 ^ 32) s)

/-- n bytes of v written into the flash at an address. -/
def flashPut : Nat → Nat → Nat → State → State
  | 0, _, _, s => s
  | n + 1, a, v, s => flashPut n (a + 1) (v / 256) { s with flash := smapSet (fun _ => 0xFF) s.flash a (BitVec.ofNat 8 v) }

/-- The bytes of the Lantern mailbox's buffer. -/
def lmbBytes (s : State) : Nat :=
  (List.range 32).foldl (fun v i => v + (s.r .LMB_BUF i).toNat * 2 ^ (64 * i)) 0

/-- A command of the Lantern mailbox ends with a RESULT and n response bytes. -/
def lmbEnd (x : LanAns) (s : State) : State :=
  let s := iter 32 (fun i t =>
    if x.len ≤ 8 * i then t
    else
      let old := (t.r .LMB_BUF i).toNat
      let k := min 8 (x.len - 8 * i)
      t.setR .LMB_BUF i (BitVec.ofNat 64 (nslice x.data (8 * i) k + old / 256 ^ k * 256 ^ k))) s
  ((s.setF F.LMB_STATUS_RSP_LEN 0 x.len).setF F.LMB_STATUS_RESULT 0 x.result |>.setB F.LMB_STATUS_DONE 0 true).setB
    F.LMB_STATUS_BUSY 0 false

/-- A write of LMB_CTRL. -/
def lmbCtrlWrite (v : Word) (s : State) : State :=
  let s := s.wr .LMB_CTRL 0 v
  if vset F.LMB_CTRL_GO v && !s.b F.LMB_STATUS_BUSY 0 then
    let n := fget F.LMB_CTRL_LEN v
    let had := s.flashOp.isSome
    let (x, s) := lanExec (fget F.LMB_CTRL_CMD v) true n (lmbBytes s % 256 ^ n) s
    if s.flashOp.isSome && !had then (s.setB F.LMB_STATUS_BUSY 0 true).setB F.LMB_STATUS_DONE 0 false
    else lmbEnd x s
  else s

/-- FLASH_OP_DONE: the erase or write that runs ends, with RESULT OK or FLASH. After a failed one the contents are open: the
operation has been performed or not. -/
def execFlashOpDone (ok : Bool) (s : State) : Out :=
  match s.flashOp with
  | none => .next s
  | some o =>
    let s := { s with flashOp := none }
    let done := ok || s.freeBit
    let s := s.bump
    let s := if !done then s
      else if o.erase then { s with flash := s.flash.filter fun (a, _) => a / 65536 != o.addr / 65536 }
      else flashPut o.n o.addr o.data s
    let r := if ok then 0 else 5
    .next (if o.lmb then lmbEnd { result := r } s else { s with rack := { s.rack with result := r } })

/-- DYNAMIC_ADDRESS_ASSIGNMENT. -/
def execDynamicAddressAssignment (addr : Nat) (s : State) : Out :=
  .next (if s.pkgOff then s else { s with rack := { s.rack with dyn := some (addr % 128) } })

end Sys2Proof.Machine
end

