-- ==== Sys2Proof/Machine/Partitions.lean ====
section
/-! DEFINITION. Partitions: reassigning a hart, resetting a partition, and binding a virtual function (R420, R431 to R437,
R604). -/
namespace Sys2Proof.Machine

/-- The guest files of a hart cleared. -/
def guestClear (h : Nat) (s : State) : State :=
  s.onHart h fun t => { t with imsic := t.imsic.filter fun (f, _) => !(decide (1 ≤ f) && decide (f ≤ 7)) }

/-! ## Restarting a hart (R420, R432 step 3, R604) -/

/-- A hart that restarts does so once it has drained: its core's caches cleaned and invalidated, its timed stores cancelled,
its registers as after a die reset; its files stay with their owners. It starts unless its die is OFF or BIST keeps its core
in reset (R169). A reassigned one takes its new partition. -/
def hartRenew (h : Nat) (s : State) : State :=
  if !s.b F.PQ_HART_RESTARTING h || !hartDrained h s then s
  else
    let np := coreOf h s
    let s := gateEnd h 4 s
    let s := l2EvictAll np (fun _ => true) s
    let s := { s with l1d := s.l1d.filter fun (k, _) => k / 256 != np, l1i := s.l1i.filter fun (k, _) => k / 1024 != np }
    let files := (s.hart h).imsic
    let s := tsCancelAll h s
    let s := if s.f F.PWR_DIE_STATE (hartDie h s) = 0 || s.boot.kept.contains np then hartClear h s
      else hartRestart h (s.r .ST_VECTOR 0) s
    let s := s.onHart h fun t => { t with imsic := files }
    let s := s.setB F.PQ_HART_RESTARTING h false
    match smapGet (fun _ => none) s.hartNew h with
    | some p => guestClear h ((s.setF F.PQ_HART_PART h p) |> fun t => { t with hartNew := smapErase t.hartNew h })
    | none => s

/-- A write of PQ_HART(h) (R420). The hart of a die that is not ON loses its state too, and starts when the die comes up
(R142). -/
def pqHartWrite (a : Access) (h : Nat) (v : Word) (s : State) : State :=
  let p := fget F.PQ_HART_PART v
  if a.part ≠ 0 || (!a.world && mittenEff h s) || !hartExists h s || partBusy p s || s.b F.PQ_HART_RESTARTING h then pqErr s
  else
    let s := s.setB F.PQ_HART_RESTARTING h true
    hartRenew h { s with hartNew := smapSet (fun _ => none) s.hartNew h (some p) }

/-- HART_REASSIGN. -/
def execHartReassign (a : Access) (h : Nat) (v : Word) (s : State) : Out :=
  .next (if h < 256 then guarded a true .PQ_HART h (pqHartWrite a h v) s else s)

/-! ## Partition reset (R431 to R435) -/

/-- The harts of partition p. -/
def partHarts (p : Nat) (s : State) : List Nat := (List.range 256).filter fun h => hartExists h s && hartPart h s == p

/-- The channels of partition p. -/
def partChans (p : Nat) (s : State) : List Nat := (List.range 256).filter fun c => chPart c s == p

/-- The calendar blocks of partition p. -/
def partBlocks (p : Nat) (s : State) : List Nat := (List.range 256).filter fun b => s.f F.PHE_CAL_BLOCK_PART b == p

/-- Partition p owns a resource of the Secure world that refuses an Open reset. -/
def partSecure (p : Nat) (s : State) : Bool :=
  (partHarts p s).any (fun h => mittenEff h s) ||
  (partChans p s).any (fun c => s.b F.DE_CH_CFG_WORLD c) ||
  (partBlocks p s).any (fun b => s.b F.PHE_CAL_BLOCK_WORLD b) ||
  ((List.range 64).any fun i => s.f F.TIO_PIN_CFG_PART i == p && s.b F.TIO_PIN_CFG_WORLD i) ||
  ((List.range 64).any fun i => s.f F.MC_REGION_CODE_PART i == p && s.b F.MC_REGION_CODE_WORLD i) ||
  ((List.range 32).any fun e => s.f F.PQ_DEVPART_PART e == p && s.b F.PQ_DEVPART_WORLD e)

/-- Why a reset of partition p is refused; 0 when it is not. -/
def partRefusal (a : Access) (p : Nat) (s : State) : Nat :=
  if p = 0 then 1
  else if partBusy p s then 2
  else if a.part ≠ 0 ∧ !(a.part = p ∧ s.b F.PQ_CTRL_SELF_EN p) then 3
  else if !a.world && partSecure p s then 5
  else 0

/-- Step 5 of a reset for a block: its cancellation, after which it opens again (R88). -/
def blockReset (b : Nat) (s : State) : State :=
  let s := if cancelling b s then s
    else setCancelBusy (({ s with cancelQ := s.cancelQ ++ [b] } : State).setB F.PHE_CAL_BLOCK_ENABLE b false)
  { s with cancelReopen := if s.cancelReopen.contains b then s.cancelReopen else s.cancelReopen ++ [b] }

/-- The bound virtual function of p quiesced as at FLR, its configuration space kept (R432). -/
def vfQuiet (p : Nat) (s : State) : State :=
  if s.b F.PQ_VF_EN p then
    let n := s.f F.PQ_VF_PORT p
    let f := s.f F.PQ_VF_VF p
    fnClear n f (fnQuiesce n f s)
  else s

/-- Steps 1 to 6 begun. -/
def partBegin (p : Nat) (s : State) : State :=
  let s := (s.setB F.PQ_RESET_STATUS_BUSY p true).setB F.PQ_RESET_STATUS_DONE p false
  let s := iter 32 (fun e t => if t.f F.PQ_DEVPART_PART e = p then t.setB F.PQ_DEVPART_BLOCKED e true else t) s
  let s := vfQuiet p s
  let live := (partChans p s).filter fun c => chState c s != 0
  let s := live.foldl (fun t c => chAbort c t) s
  let blocks := partBlocks p s
  let s := blocks.foldl (fun t b => blockReset b t) s
  let s := iter 64 (fun i t => if t.f F.TIO_PIN_CFG_PART i = p then pinSafe i t else t) s
  let s := (partHarts p s).foldl (fun t h => rangeAbort (coreOf h s) t) s
  let s := (s.ranges.filter fun r => decide (240 ≤ r.eng) && r.part == p).foldl (fun t r => rangeAbort r.eng t) s
  let hs := (partHarts p s).filter fun h => dieOn (hartDie h s) s
  let s := hs.foldl (fun t h => hartRenew h (t.setB F.PQ_HART_RESTARTING h true)) s
  let run : PartRun := { tb := s.tb, chans := live.length, blks := blocks.length, harts := hs.length }
  { s with partRun := smapSet (fun _ => none) s.partRun p (some run) }

/-- A write of PQ_RESET(p) with GO. -/
def partReset (a : Access) (p : Nat) (s : State) : State :=
  match partRefusal a p s with
  | 0 => partBegin p s
  | r => s.setF F.PQ_RESET_STATUS_REFUSED p r

/-- PARTITION_RESET. -/
def execPartitionReset (a : Access) (p : Nat) (s : State) : Out :=
  .next (if p < 64 then guarded a true .PQ_RESET p (partReset a p) s else s)

/-- Steps 2 to 6 of the reset of p have ended. -/
def partEnded (p : Nat) (s : State) : Bool :=
  ((partHarts p s).all fun h => !s.b F.PQ_HART_RESTARTING h) && ((partChans p s).all fun c => chState c s == 0) &&
    (partBlocks p s).all fun b => !cancelling b s

/-- Step 7: the windows lose EN and OPEN at the next slot-cycle boundary, and so the credits their values; the fill masks and
guest files are cleared. -/
def partReturn (p : Nat) (s : State) : State :=
  let ws := (List.range 64).filter fun w => s.f F.FAB_RSV_CFG_PART w == p || winF F.FAB_RSV_CFG_PART w s == p
  let s := ws.foldl (fun (t : State) w => { t with
    winOff := t.winOff ++ [w], winPend := smapSet (fun _ => none) t.winPend w (some (false, none)) }) s
  let s := iter 16 (fun k t => creditPut (creditIx k p) (fset F.MC_CREDIT_EN 0 1) t) s
  let s := iter 12 (fun d t => t.setF F.PQ_L3MASK_VAL (p * 12 + d) 0) s
  (partHarts p s).foldl (fun t h => guestClear h t) s

/-- PARTITION_RESET_DONE: harts that have drained since restart first; then, with steps 2 to 6 ended, steps 7 and 8. -/
def execPartitionResetDone (p : Nat) (s : State) : Out :=
  match smapGet (fun _ => none) s.partRun p with
  | none => .next s
  | some x =>
    let s := (partHarts p s).foldl (fun t h => if dieOn (hartDie h t) t || (smapGet (fun _ => none) t.hartNew h).isSome then hartRenew h t else t.setB F.PQ_HART_RESTARTING h false) s
    if !partEnded p s then .next s
    else
      let s := partReturn p { s with partRun := smapErase s.partRun p }
      let s := (s.setB F.PQ_RESET_STATUS_BUSY p false).setB F.PQ_RESET_STATUS_DONE p true
      let s := s.setF F.PQ_RESET_STATUS_ELAPSED p ((s.tb - x.tb).toNat / 320)
      let s := (s.setF F.PQ_RESET_STATUS_CH_ABORTED p (min 255 x.chans)).setF F.PQ_RESET_STATUS_BLK_CANCELLED p (min 255 x.blks)
      .next (report 0x0F 0 false none p 0x14D p (s.setF F.PQ_RESET_STATUS_HARTS p (min 255 x.harts)))

/-! ## Binding a virtual function (R436, R462) -/

/-- A write of PQ_VF(p). -/
def pqVfWrite (a : Access) (p : Nat) (v : Word) (s : State) : State :=
  let n := fget F.PQ_VF_PORT v
  let f := fget F.PQ_VF_VF v
  let taken := (List.range 64).any fun q => q != p && s.b F.PQ_VF_EN q && s.f F.PQ_VF_PORT q == n && s.f F.PQ_VF_VF q == f
  let bad : Bool := vset F.PQ_VF_EN v &&
    (!peMode n s || f == 0 || decide (32 < f) || taken || s.b F.PQ_VF_EN p || (s.peC (fnIx n 0)).vfEn || peBme n f s || partBusy p s)
  if bad then pqErr s
  else
    let w := s.b F.PQ_VF_WORLD p
    let s := s.wr .PQ_VF p v
    if a.world then s else s.setB F.PQ_VF_WORLD p w

/-- VF_BIND. -/
def execVfBind (a : Access) (p : Nat) (v : Word) (s : State) : Out :=
  .next (if p < 64 then guarded a true .PQ_VF p (pqVfWrite a p v) s else s)

end Sys2Proof.Machine
end

