-- ==== Sys2Proof/Machine/Complete.lean ====
section
/-! DEFINITION. Completions at their initiators, timeouts and withdrawn tags (R269, R270, R286 to R288). -/
namespace Sys2Proof.Machine

/-- The answer to access j of load id: its bytes begin at byte o of the payload. -/
def loadAnswered (h id j o : Nat) (resp po : BitVec 2) (d : Line) (s : State) : State :=
  loadsPump h (setAcc h id j (fun a =>
    let bad := resp == 0b00#2 && poisonIn po o a.size
    { a with val := some (if resp = 0b00#2 then lineBytes d o a.size else 0)
             err := resp != 0b00#2 || bad, pois := bad }) s)

/-- The byte of the line at which access j of load id begins. -/
def accOffset (h id j : Nat) (s : State) : Nat :=
  match (s.hart h).loads.find? fun l => l.id == id with
  | some l => ((l.accs[j]?).map fun a => a.pa % 64).getD 0
  | none => 0

/-- The answer to the line request that the head of an inbound queue has issued. -/
def inAnswered (k : Nat) (resp po : BitVec 2) (d : Line) (s : State) : State :=
  match s.inQ k with
  | [] => s
  | j :: rest =>
    let s := s.setInQ k (inTake j resp po d :: rest)
    let n := (s.inQ k).length + 1
    if k < 8 then pePump n k s else plPump n (k - 8) s

/-- The initiator of a request ends it: with its data, with its acknowledgement, or with the RESP of an error. -/
def completed (t : Tx) (resp po : BitVec 2) (d : Line) (s : State) : State :=
  let err := resp != 0b00#2
  match t.own with
  -- the answer to an AMO that ran at HOME or MEMORY holds the old value in its first bytes
  | .load h id j => loadAnswered h id j (accOffset h id j s) resp po d s
  | .amo h id => loadAnswered h id 0 0 resp po d s
  | .store h => if err then sbError h 0 s else sbPop h s
  | .timed h id => tsDone h id err s
  | .dma c off len => dmaRead c off len resp d po s
  | .dmaDead c => dmaDeadRead c s
  | .dmaWrite c fpc va => dmaWritten c fpc va resp s
  | .dmaFlush c va => dmaFlushed c va resp s
  | .zdStatus c va => zdStatusDone c va resp s
  | .zdDesc c => dmaDescRead c resp d po s
  | .bat n => batWritten n err s
  | .trace n => ctrWritten n err s
  | .pcie k _ => inAnswered k resp po d s
  | .paleg k _ => inAnswered (8 + k) resp po d s
  | .sba => sbaDone resp po (if t.op = .rdNC ∨ t.op = .rdIO then some d else none) s
  | .range e => rangeGo e s

/-- A completion-type response reaches its initiator: matched by its tag, its sender and its address, it ends its request;
otherwise it is discarded (R270, R288). -/
def completion (p : Packet) (s : State) : State :=
  if s.behind p then s
  else match closeTx p (s.take (.pkt p)) with
  | (some t, s) => completed t p.resp p.poison p.payload s
  | (none, s) => s

/-- CMP. -/
def execCmp (p : Packet) (s : State) : Out := .next (completion { p with op := .cmp } s)

/-- CMPIO. -/
def execCmpIO (p : Packet) (s : State) : Out := .next (completion { p with op := .cmpIO } s)

/-- DATAIO. -/
def execDataIO (p : Packet) (s : State) : Out := .next (completion { p with op := .dataIO } s)

/-- A timeout counted and recorded, with source 34 (R287). -/
def timeoutNote (w : Bool) (addr part src tag : Nat) (s : State) : State :=
  let s := s.satInc F.FAB_STATUS_TIMEOUT_CNT 0
  let s := (s.setB F.FAB_TO_ADDR_W 0 w).setF F.FAB_TO_ADDR_LINE 0 (addr / 64)
  let s := { s with pulses := if s.pulses.contains 34 then s.pulses else s.pulses ++ [34] }
  report 7 3 w (some addr) part src tag s

/-- The timer of a slice's coherent request expires: the core takes the error, and the slice keeps its transaction open. -/
def sliceTimeout (q : L3Pend) (s : State) : State :=
  let s := { s with
    l3Pend := s.l3Pend.map fun x => if x = q then { q with dead := true } else x
    sliceQ := s.sliceQ.filter fun x => !(x.die == q.die && x.line == q.line && x.p == q.req) }
  failCore q.req.src q.line q.req (timeoutNote q.req.w (q.line * 64) q.req.part (sliceAgent q.die q.line) q.tag s)

/-- The timer of a core's request to its slice expires: what waits for it takes the error. -/
def l2Timeout (q : L2Pend) (s : State) : State :=
  let s := { s with l2Pend := s.l2Pend.map fun x => if x = q then { q with phase := 1 } else x }
  coreError q.np q.line q.op (timeoutNote q.w (q.line * 64) q.part (coreAgent q.np) q.tag s)

/-- A request for address a, injected when the timebase was t0, has been open for n times its limit, in microseconds of
the timebase (R286, R288). -/
def timedOut (n a : Nat) (t0 : Word) (s : State) : Bool :=
  let f := if inWindows a then F.FAB_TIMEOUT_OFFPKG else F.FAB_TIMEOUT_ONPKG
  decide (n * orOne (s.f f 0) * tbMicro ≤ (s.tb - t0).toNat)

/-- FABRIC_TIMEOUT: the request src and tag, whose limit has passed, is ended with RESP = 0b11, its tag in quarantine. -/
def execFabricTimeout (src tag : Nat) (s : State) : Out :=
  match s.txs.find? fun t => t.src == src && t.tag == tag && t.phase == 0 && timedOut 1 t.addr t.t0 s with
  | some t =>
    let s := { s with txs := s.txs.map fun x => if x = t then { t with phase := 1 } else x }
    .next (completed t 0b11#2 0 0 (timeoutNote t.w t.addr t.part src tag s))
  | none =>
    match s.l3Pend.find? fun q => sliceAgent q.die q.line == src && q.tag == tag && !q.dead && timedOut 1 (q.line * 64) q.t0 s with
    | some q => .next (sliceTimeout q s)
    | none =>
      match s.l2Pend.find? fun q => coreAgent q.np == src && q.tag == tag && q.phase == 0 && timedOut 1 (q.line * 64) q.t0 s with
      | some q => .next (l2Timeout q s)
      | none => .next s

/-- TAG_WITHDRAW: a quarantined tag that had no response within 4 times its limit is withdrawn until the initiator's next
reset. -/
def execTagWithdraw (src tag : Nat) (s : State) : Out :=
  let lost (s : State) : State := s.satInc F.FAB_STATUS_TAG_LOST 0
  match s.txs.find? fun t => t.src == src && t.tag == tag && t.phase == 1 && timedOut 4 t.addr t.t0 s with
  | some t => .next (lost { s with txs := s.txs.map fun x => if x = t then { t with phase := 2 } else x })
  | none =>
    match s.l2Pend.find? fun q => coreAgent q.np == src && q.tag == tag && q.phase == 1 && timedOut 4 (q.line * 64) q.t0 s with
    | some q => .next (lost { s with l2Pend := s.l2Pend.map fun x => if x = q then { q with phase := 2 } else x })
    | none => .next s

end Sys2Proof.Machine
end

