-- ==== Sys2Proof/Machine/Mmio.lean ====
section
/-! DEFINITION. Reads and writes of memory-mapped registers, and the RdIO and WrIO requests that carry them (R11 to R18, R33 to
R35, R269, R270). -/
namespace Sys2Proof.Machine

/-! ## Which register an address names (R18) -/

/-- The instance index at an offset from the first instance. -/
def locFind : List (Nat × Nat) → Nat → Option Nat
  | [], o => if o = 0 then some 0 else none
  | (st, n) :: r, o =>
    if o / st < n then (locFind r (o % st)).map fun i => o / st * r.foldl (fun p d => p * d.2) 1 + i else none

/-- Register number k and its instance, when it holds the address. -/
def regAt (k addr : Nat) : Option (Reg × Nat) :=
  let g := Reg.ofNat k
  if g.loc.base ≤ addr then (locFind g.loc.dims (addr - g.loc.base)).map fun i => (g, i) else none

/-- The register and instance at an address. -/
def regFind (addr : Nat) : Option (Reg × Nat) := (List.range 246).findSome? fun k => regAt k addr

/-- The die in whose power domain a register lies (R34). -/
def regDie (addr : Nat) : Option Nat :=
  if 0xFF2000000000 ≤ addr then some ((addr - 0xFF2000000000) / 0x100000000) else none

/-! ## Reads -/

/-- The number of entries of home agent k whose state is EX, or SH. -/
def dirCount (k : Nat) (ex : Bool) (s : State) : Nat :=
  s.dir.countP fun (key, e) => e.valid && e.ex == ex && mcOf (dirLine key e) == k

/-- A word of an error record: the Open world sees neither ADDR nor DETAIL of a Secure record (R560). -/
def rasRead (a : Access) (g : Reg) (i : Nat) (s : State) : Word :=
  if !a.world && decide (2 ≤ i % 4) && bit (s.r g (i / 4 * 4 + 1)) 52 then 0 else s.r g i

/-- A read of register instance i that passed its checks. -/
def regRead (a : Access) (g : Reg) (i : Nat) (s : State) : State :=
  match g with
  | .PHE_TB => s.answer s.tb
  | .TIO_CAP_TB => pinCapRead i s
  | .BAT_BUF_DATA => batBufPop a i s
  | .CTR_BUF_DATA => ctrBufPop i s
  | .PL_MSG_RX => msgRxPop i s
  | .WC_MITTEN_EFF => s.answer (mittenEffWord i s)
  | .FAB_SLOT => (s.answer (fset F.FAB_SLOT_SLOT (s.r .FAB_SLOT 0) (s.freeWord.toNat % 1024))).bump
  | .FAB_RT_DATA =>
    s.answer (BitVec.ofNat 64 (routeOf (s.f F.FAB_RT_SEL_EPOCH 0) (s.f F.FAB_RT_SEL_DOMAIN 0) (s.f F.FAB_RT_SEL_ROUTER 0)
      (s.f F.FAB_RT_SEL_DEST 0) s))
  | .HA_DIR_OCC => s.answer (BitVec.ofNat 64 (dirCount i true s * 2 ^ 32 + dirCount i false s))
  | .CD_CORE_ORD_ERRADDR => s.answer (if !a.world && bit (s.r g i) 63 then 0 else s.r g i)
  | .RAS_LOG | .RAS_AON_LOG => s.answer (rasRead a g i s)
  | .HELM_MB_REQ | .HELM_MB_RSP => s.answer (if 2 ≤ i / 134 then 0 else s.r g i)
  | _ => s.answer (s.r g i)

/-! ## Writes -/

/-- A write whose W1C bit f clears, beside itself, a count. -/
def wrClears (g : Reg) (i : Nat) (v : Word) (f : Fld) (also : State → State) (s : State) : State :=
  let s := s.wr g i v
  if vset f v then also s else s

/-- A write of RAS_PROP(i): a core proposal that is cleared forgets its core's records (R562). -/
def rasPropWrite (i : Nat) (v : Word) (s : State) : State :=
  let np := s.f F.RAS_PROP_TARGET_VAL i / 2 ^ 40 % 256 * 20 + s.f F.RAS_PROP_TARGET_VAL i / 2 ^ 32 % 256
  let core := s.b F.RAS_PROP_VALID i && s.f F.RAS_PROP_KIND i == 0
  let s := s.wr .RAS_PROP i v
  if vset F.RAS_PROP_VALID v && core then { s with rasCoreUc := smapSet (fun _ => 0) s.rasCoreUc np 0 } else s

/-- A write of PQ_DEVPART(e). BLOCKED is cleared by 0 and set by the hardware alone (R426, R437). -/
def devPartWrite (a : Access) (e : Nat) (v : Word) (s : State) : State :=
  if assigns F.PQ_DEVPART_PART e v s then pqErr s
  else
    let blocked := s.b F.PQ_DEVPART_BLOCKED e && vset F.PQ_DEVPART_BLOCKED v
    let w := s.b F.PQ_DEVPART_WORLD e
    let s := (s.wr .PQ_DEVPART e v).setB F.PQ_DEVPART_BLOCKED e blocked
    if a.world then s else s.setB F.PQ_DEVPART_WORLD e w

/-- RAS_CTRL: only the Secure world writes IRQ_SEV (R569). -/
def rasCtrlWrite (a : Access) (v : Word) (s : State) : State :=
  let sev := s.f F.RAS_CTRL_IRQ_SEV 0
  let s := s.wr .RAS_CTRL 0 v
  if a.world then s else s.setF F.RAS_CTRL_IRQ_SEV 0 sev

/-- A write of register instance i that passed its checks: what the register does beside taking the value (R11). -/
def regWrite (a : Access) (g : Reg) (i : Nat) (v : Word) (s : State) : State :=
  match g with
  | .PHE_PORT_CFG => portCfgWrite a i v s
  | .PHE_PORT_AUX => portAuxWrite i v s
  | .PHE_PORT_NOMINAL => portNominalWrite i v s
  | .PHE_PORT_TOD => portTodWrite i v s
  | .PHE_PORT_CMD => portCmdWrite i v s
  | .PHE_PORT_STATUS => wrClears g i v F.PHE_PORT_STATUS_QERR (fun t => t.setF F.PHE_PORT_STATUS_QERR_CNT i 0) s
  | .PHE_CAL_CTRL => calCtrlWrite v s
  | .PHE_CAL_STATUS => wrClears g i v F.PHE_CAL_STATUS_ERR (fun t => t.setF F.PHE_CAL_ERR_COUNT 0 0) s
  | .PHE_CAL_BLOCK => calBlockWrite a i v s
  | .PHE_CAL_CMD =>
    match v.toNat % 8 with
    | 1 => editRead i s
    | 2 => editWrite i s
    | 3 => editDisarm i s
    | 7 => editPurge i s
    | _ => s
  | .TIO_PIN_CFG => (pinCfgWrite a i v s.freeBit s).bump
  | .TIO_PIN_STATUS => wrClears g i v F.TIO_PIN_STATUS_OVF (fun t => t.setF F.TIO_PIN_STATUS_CAP_LOST i 0) s
  | .TIO_PIN_FORCE => pinForce i (v.toNat % 4) s
  | .PHE_TSQ_STATUS =>
    wrClears g i v F.PHE_TSQ_STATUS_LATE
      (fun t => (t.setF F.PHE_TSQ_STATUS_LATE_CNT i 0).setF F.PHE_TSQ_STATUS_DISC_CNT i 0) s
  | .CD_CORE_CACHE_CTRL => cacheCtrlWrite i v s
  | .CD_CORE_RANGE_CMD => rangeStart a i (v.toNat % 8) s
  | .CD_L3_RANGE_CMD => rangeStart a (240 + i) (v.toNat % 8) s
  | .CD_CORE_ORD_STATUS => wrClears g i v F.CD_CORE_ORD_STATUS_ERR (fun t => t.setF F.CD_CORE_ORD_STATUS_ERR_CNT i 0) s
  | .CD_CORE_L2_LOCK => lockWrite false i v s
  | .CD_L3_LOCK => lockWrite true i v s
  | .HA_ERR => wrClears g i v F.HA_ERR_ERR (fun t => t.setF F.HA_ERR_COUNT i 0) s
  | .MC_CTRL => mcCtrlWrite i v s
  | .MC_CREDIT => creditSet (i / 64) (i % 64) v s
  | .MC_REGION_BASE => regionBaseWrite i v s
  | .MC_REGION_CODE => regionCodeWrite i v s
  | .MC_LOG_ADDR => logCount (s.wr g i v)
  | .MC_INIT => mcInitWrite v s
  | .MC_RETIRE => retireWrite i v s
  | .MC_ECC_TEST_CTRL | .MC_ECC_TEST_ADDR | .MC_ECC_TEST_DATA | .MC_ECC_TEST_CHECK | .MC_ECC_TEST_CMD =>
    testWrite (Reg.key g i) v s
  | .FAB_EPOCH => epochWrite v s
  | .FAB_RSV_CFG => rsvWrite i v s
  | .FAB_RT_DATA => routeWrite v s
  | .FAB_RT_CMD => rtCmdWrite v s
  | .BAT_CTRL => batCtrlWrite i v s
  | .BAT_CNT => batCntWrite i v s
  | .BR_CTRL => brCtrlWrite i v s
  | .DE_CH_CFG => chCfgWrite a i v s
  | .DE_CH_CMD => chCmd i (v.toNat % 8) s
  | .DE_CH_EVT => evtWrite i v s
  | .DE_CH_DESC => chDescWrite i v s
  | .DE_CH_PC | .DE_CH_ENTRY | .DE_CH_WIN => chProgReg i g i v s
  | .DE_CH_LOOP => chProgReg (i / 4) g i v s
  | .DE_CH_G => chProgReg (i / 8) g i v s
  | .DE_SEM => semWrite a i v s
  | .WC_DBG => dbgWrite a v s
  | .WC_MITTEN => mittenSet i v s
  | .WC_CALL => callWrite a i v s
  | .HELM_MB_CTRL => mbCtrlWrite i v s
  | .HELM_MB_REQ => if s.b F.HELM_MB_STATUS_BUSY (i / 134) then s else s.wr g i v
  | .PQ_RESET => if vset F.PQ_RESET_GO v then partReset a i s else s
  | .PQ_L3MASK => if partBusy (i / 12) s then pqErr s else s.wr g i v
  | .PQ_VF => pqVfWrite a i v s
  | .PQ_HART => pqHartWrite a i v s
  | .PQ_DEVPART => devPartWrite a i v s
  | .PE_PORT_CFG => pePortCfgWrite i v s
  | .PE_OWIN_CFG => worldKept a F.PE_OWIN_CFG_WORLD i (peOwinWrite i 0 v) s
  | .PE_OWIN_BASE => peOwinWrite i 1 v s
  | .PE_OWIN_BUS => peOwinWrite i 2 v s
  | .PE_EP_CFG => worldKept a F.PE_EP_CFG_PF_WORLD i (fun t => t.wr g i v) s
  | .PE_FN_MSIX => msixWrite (i / 33) (i % 33) v s
  | .PE_IWIN_COMMIT => peCommitWrite (i / 33) (i % 33) v s
  | .PE_MBX_CTRL => mbxCtrlWrite (i / 528) (i / 16 % 33) (i % 16) v s
  | .PE_MBX_DATA => mbxDataWrite i v s
  | .PL_PORT_CFG => plPortCfgWrite i v s
  | .PL_PORT_CMD => plCmdWrite i v s
  | .PL_MSG_TX => msgTxWrite a v s
  | .PL_MSG_MAP => worldKept a F.PL_MSG_MAP_WORLD i (fun t => t.wr g i v) s
  | .PL_OWIN_CFG => worldKept a F.PL_OWIN_CFG_WORLD i (plOwinWrite g i v) s
  | .PL_OWIN_BASE | .PL_OWIN_REMOTE => plOwinWrite g i v s
  | .PL_IWIN_CTRL => worldKept a F.PL_IWIN_CTRL_WORLD i (fun t => t.wr g i v) s
  | .PL_IWIN_COMMIT => plCommitWrite v s
  | .PWR_CTRL => pwrCtrlWrite v s
  | .PWR_REQ => pwrReqWrite i v s
  | .ST_CTRL => stCtrlWrite v s
  | .LMB_CTRL => lmbCtrlWrite v s
  | .LMB_BUF => if s.b F.LMB_STATUS_BUSY 0 then s else s.wr g i v
  | .RAS_CTRL => rasCtrlWrite a v s
  | .RAS_LOG_PTR => tailMove (bits v 9 0) s
  | .RAS_PROP => rasPropWrite i v s
  | .DBG_TEST_HOLD => testHoldWrite v s
  | _ => s.wr g i v

/-! ## Accesses -/

/-- A read or write of a 64-bit register: aligned and of 8 bytes (R16), and admitted by the block's checks (R35). The
registers of a die answer only while it is ON (R34). DESIGN CHOICE: the size is judged before the checks, so that a narrow or
misaligned access which they would refuse too is answered with 0b10 and counts as no denial. -/
def regAccess (a : Access) (write : Bool) (g : Reg) (i addr size : Nat) (v : Word) (s : State) : State :=
  if size ≠ 8 ∨ addr % 8 ≠ 0 then s.answerErr 0b10#2
  else
    let act : State → State := if write then regWrite a g i v else regRead a g i
    match regDie addr with
    | some n => guardedCd n a write g i act s
    | none => guarded a write g i act s

/-- A register of 32 bits in the APLIC, admitted by the rule of its domain (R440). Domain 0 is the root. -/
def aplicAccess (a : Access) (write : Bool) (addr size : Nat) (v : Word) (s : State) : State :=
  let o := addr - 0xFF000A000000
  let d := o / 0x100000
  if size ≠ 4 ∨ addr % 4 ≠ 0 then s.answerErr 0b10#2
  else if d = 0 ∧ !a.world then
    (denyWorld .mmio (if write then DenyKind.write else DenyKind.read) a addr s).answerErr 0b01#2
  else if a.part ≠ 0 then
    (denyPart .mmio (if write then DenyKind.write else DenyKind.read) a addr s).answerErr 0b01#2
  else if write then aplicWrite d (o % 0x100000) v.toNat (s.answer 0)
  else s.answer (BitVec.ofNat 64 (aplicRead d (o % 0x100000) s))

/-- The IOMMU's register file, by 4 or 8 bytes: P0 writes, and any partition reads (R424, R437). -/
def iommuAccess (a : Access) (write : Bool) (addr size : Nat) (v : Word) (s : State) : State :=
  let o := addr - 0xFF0009020000
  if (size ≠ 4 ∧ size ≠ 8) ∨ addr % size ≠ 0 then s.answerErr 0b10#2
  else if write ∧ a.part ≠ 0 then (denyPart .mmio DenyKind.write a addr s).answerErr 0b01#2
  else if write then
    let s := iommuWrite o (v.toNat % 2 ^ 32) (s.answer 0)
    if size = 8 then iommuWrite (o + 4) (v.toNat / 2 ^ 32) s else s
  else s.answer (BitVec.ofNat 64 (iommuRead o s + if size = 8 then iommuRead (o + 4) s * 2 ^ 32 else 0))

/-- A register of the debug module: Secure accesses of P0, by 8 bytes (R581). -/
def dmAccess (a : Access) (write : Bool) (addr size : Nat) (v : Word) (s : State) : State :=
  let k : DenyKind := if write then .write else .read
  if size ≠ 8 ∨ addr % 8 ≠ 0 then s.answerErr 0b10#2
  else if !a.world then (denyWorld .mmio k a addr s).answerErr 0b01#2
  else if a.part ≠ 0 then (denyPart .mmio k a addr s).answerErr 0b01#2
  else
    let r := (addr - 0xFF000D000000) / 8
    if write then dmWrite r (v.toNat % 2 ^ 32) (s.answer 0)
    else
      let (x, s) := dmRead r s
      s.answer (BitVec.ofNat 64 x)

/-- An IMSIC page: a 32-bit write makes an identity pending, and everything reads 0 (R438, R439). A message to a die that is
not ON is lost (R447). -/
def imsicAccess (a : Access) (write : Bool) (addr size : Nat) (v : Word) (s : State) : State :=
  match fileOfPage (addr / 0x1000 * 0x1000) with
  | none => s.answer 0
  | some (h, f) =>
    if !hartExists h s then s.answer 0
    else if !dieOn (hartDie h s) s then (if write then imsicLost h f s else s).answerErr 0b10#2
    else if size ≠ 4 ∨ addr % 4 ≠ 0 then s.answerErr 0b10#2
    else
      let o := addr % 0x1000
      let x := v.toNat % 2 ^ 32
      if write && o == 0 then imsicWrite a h f x s
      else if write && o == 4 then imsicWrite a h f (x / 2 ^ 24 + x / 2 ^ 16 % 256 * 256 + x / 256 % 256 * 2 ^ 16 + x % 256 * 2 ^ 24) s
      else s.answer 0

/-- An access to on-package MMIO (R17, R33): its answer in resp. -/
def mmio (a : Access) (write : Bool) (addr size : Nat) (v : Word) (s : State) : State :=
  if 0xFF000A000000 ≤ addr ∧ addr < 0xFF000A300000 then aplicAccess a write addr size v s
  else if 0xFF0009020000 ≤ addr ∧ addr < 0xFF0009021000 then iommuAccess a write addr size v s
  else if 0xFF000D000000 ≤ addr ∧ addr < 0xFF000D000400 then dmAccess a write addr size v s
  else if 0xFF1000000000 ≤ addr ∧ addr < 0xFF2000000000 then imsicAccess a write addr size v s
  else
    match regFind (addr / 8 * 8) with
    | some (g, i) => regAccess a write g i addr size v s
    | none =>
      match regDie addr, mmioBlock addr with
      | some n, _ => if n < 12 ∧ dieOn n s then s.answer 0 else s.answerErr 0b10#2
      | none, some _ => s.answer 0
      | none, none => s.answerErr 0b10#2

/-- REGISTER_WRITE. -/
def execRegisterWrite (a : Access) (addr size : Nat) (v : Word) (s : State) : Out := .next (mmio a true addr size v s)

/-! ## RdIO and WrIO (R269, R270) -/

/-- The request reaches on-package MMIO. A die that the sender does not stand on is reached through its bridge. -/
def ioMmio (p : Packet) (s : State) : State :=
  let (lo, n) := ioSpan p
  let addr := p.addr + lo
  let a : Access := { world := p.w, part := p.part, src := p.src }
  let rd := p.op == .rdIO
  let cut : Bool := match ioTarget addr s with
    | .die d => decide (12 ≤ d) || (dieOn d s && !bridgeActive d s && dieOfAgent p.src != d)
    | _ => false
  if cut then ioReply p 0b10#2 0 0 s
  else
    let old := s.resp
    let s := mmio a (!rd) addr n (BitVec.ofNat 64 ((p.payload >>> (8 * lo)).toNat)) s
    ioReply p s.resp.code 0 (BitVec.ofNat 512 s.resp.data.toNat <<< (8 * lo)) { s with resp := old }

/-- An I/O request at its target. -/
def ioArrive (p : Packet) (s : State) : State :=
  let t := s.take (.pkt p)
  if s.behind p then s
  else match ioTarget (p.addr + (ioSpan p).1) s with
  | .mem _ => haRequest p false false s
  | .pcie w => peOut w p t
  | .paleg w => plOut w p t
  | .none => ioReply p 0b10#2 0 0 t
  | .block _ | .die _ => ioMmio p t

/-- RDIO. -/
def execRdIO (p : Packet) (s : State) : Out := .next (ioArrive { p with op := .rdIO } s)

/-- WRIO. -/
def execWrIO (p : Packet) (s : State) : Out := .next (ioArrive { p with op := .wrIO } s)

end Sys2Proof.Machine
end

