-- ==== Sys2Proof/Machine/Dispatch.lean ====
section
/-! DEFINITION. One arm for each command: its meaning, called by name. -/
namespace Sys2Proof.Machine

def exec (i : Instr) (s : State) : Host.Outcome State Fault Refusal :=
  match i with
  | .registerWrite a addr size v => Sys2Proof.Machine.execRegisterWrite a addr size v s
  | .csrAccess ins addr op v wr rd => Sys2Proof.Machine.execCsrAccess ins addr op v wr rd s
  | .portEnable a n v => Sys2Proof.Machine.execPortEnable a n v s
  | .portDisable a n v => Sys2Proof.Machine.execPortDisable a n v s
  | .restart a n => Sys2Proof.Machine.execRestart a n s
  | .forceHoldover a n => Sys2Proof.Machine.execForceHoldover a n s
  | .resync a n => Sys2Proof.Machine.execResync a n s
  | .pulseEdge n ts rising stable => Sys2Proof.Machine.execPulseEdge n ts rising stable s
  | .stepHoldEnd n => Sys2Proof.Machine.execStepHoldEnd n s
  | .lossWindowExpiry n => Sys2Proof.Machine.execLossWindowExpiry n s
  | .holdoverToFree n => Sys2Proof.Machine.execHoldoverToFree n s
  | .holdoverCycleCrossing n => Sys2Proof.Machine.execHoldoverCycleCrossing n s
  | .encoderCountEdge n ts onA rising other stable => Sys2Proof.Machine.execEncoderCountEdge n ts onA rising other stable s
  | .illegalTransition n => Sys2Proof.Machine.execIllegalTransition n s
  | .lineFault n => Sys2Proof.Machine.execLineFault n s
  | .zEdge n stable => Sys2Proof.Machine.execZEdge n stable s
  | .todArm a n v => Sys2Proof.Machine.execTodArm a n v s
  | .phaseBroadcast => Sys2Proof.Machine.execPhaseBroadcast s
  | .phaseBroadcastReceive d good => Sys2Proof.Machine.execPhaseBroadcastReceive d good s
  | .replicaValidLost d => Sys2Proof.Machine.execReplicaValidLost d s
  | .calendarMatch e => Sys2Proof.Machine.execCalendarMatch e s
  | .calendarEnable a v => Sys2Proof.Machine.execCalendarEnable a v s
  | .calendarDisable a v => Sys2Proof.Machine.execCalendarDisable a v s
  | .dueQueueService => Sys2Proof.Machine.execDueQueueService s
  | .pendingFiringEnqueue => Sys2Proof.Machine.execPendingFiringEnqueue s
  | .calEditRead a k => Sys2Proof.Machine.execCalEditRead a k s
  | .calEditWrite a k => Sys2Proof.Machine.execCalEditWrite a k s
  | .calEditDisarm a k => Sys2Proof.Machine.execCalEditDisarm a k s
  | .calEditDisarmPurge a k => Sys2Proof.Machine.execCalEditDisarmPurge a k s
  | .blockCancel a b v => Sys2Proof.Machine.execBlockCancel a b v s
  | .cancellationStart => Sys2Proof.Machine.execCancellationStart s
  | .cancellationDone => Sys2Proof.Machine.execCancellationDone s
  | .blockEnable a b v => Sys2Proof.Machine.execBlockEnable a b v s
  | .tioEdgePlace ix => Sys2Proof.Machine.execTioEdgePlace ix s
  | .pulseTrailingEdge ix => Sys2Proof.Machine.execPulseTrailingEdge ix s
  | .forceLow a ix => Sys2Proof.Machine.execForceLow a ix s
  | .forceHigh a ix => Sys2Proof.Machine.execForceHigh a ix s
  | .forceToggle a ix => Sys2Proof.Machine.execForceToggle a ix s
  | .pinModeOutput a ix v level => Sys2Proof.Machine.execPinModeOutput a ix v level s
  | .pinModeOffCapture a ix v => Sys2Proof.Machine.execPinModeOffCapture a ix v s
  | .captureEdge ix ts rising => Sys2Proof.Machine.execCaptureEdge ix ts rising s
  | .capTbRead a ix => Sys2Proof.Machine.execCapTbRead a ix s
  | .load ins dst accs lmul ce => Sys2Proof.Machine.execLoad ins dst accs lmul ce s
  | .store ins accs vals vec => Sys2Proof.Machine.execStore ins accs vals vec s
  | .amo ins op rd acc v => Sys2Proof.Machine.execAmo ins op rd acc v s
  | .lr ins rd acc => Sys2Proof.Machine.execLr ins rd acc s
  | .sc ins rd acc v => Sys2Proof.Machine.execSc ins rd acc v s
  | .cboClean ins acc => Sys2Proof.Machine.execCboClean ins acc s
  | .cboFlush ins acc => Sys2Proof.Machine.execCboFlush ins acc s
  | .cboInval ins acc => Sys2Proof.Machine.execCboInval ins acc s
  | .cboZero ins acc => Sys2Proof.Machine.execCboZero ins acc s
  | .fence ins pred succ => Sys2Proof.Machine.execFence ins pred succ s
  | .fenceI ins => Sys2Proof.Machine.execFenceI ins s
  | .sfenceVma ins => Sys2Proof.Machine.execSfenceVma ins s
  | .wfi ins => Sys2Proof.Machine.execWfi ins s
  | .wrsNto ins => Sys2Proof.Machine.execWrsNto ins s
  | .wrsSto ins => Sys2Proof.Machine.execWrsSto ins s
  | .coreGate hart => Sys2Proof.Machine.execCoreGate hart s
  | .coreWake hart timeout => Sys2Proof.Machine.execCoreWake hart timeout s
  | .mret ins => Sys2Proof.Machine.execMret ins s
  | .xret ins lvl => Sys2Proof.Machine.execXret ins lvl s
  | .trapEntry hart => Sys2Proof.Machine.execTrapEntry hart s
  | .mzdcfgWrite ins v rd => Sys2Proof.Machine.execMzdcfgWrite ins v rd s
  | .szdtdbaseWrite ins v rd => Sys2Proof.Machine.execSzdtdbaseWrite ins v rd s
  | .phRead ins => Sys2Proof.Machine.execPhRead ins s
  | .phWait ins target => Sys2Proof.Machine.execPhWait ins target s
  | .phWaitComplete hart => Sys2Proof.Machine.execPhWaitComplete hart s
  | .tsStore ins va x data phase => Sys2Proof.Machine.execTsStore ins va x data phase s
  | .tsStoreUnstall hart => Sys2Proof.Machine.execTsStoreUnstall hart s
  | .tsCancelI ins va x => Sys2Proof.Machine.execTsCancelI ins va x s
  | .dlSet ins v => Sys2Proof.Machine.execDlSet ins v s
  | .dlClr ins => Sys2Proof.Machine.execDlClr ins s
  | .tkYield ins hint x => Sys2Proof.Machine.execTkYield ins hint x s
  | .tkArg ins => Sys2Proof.Machine.execTkArg ins s
  | .ldPair ins base x => Sys2Proof.Machine.execLdPair ins base x s
  | .sdPair ins base x lo hi => Sys2Proof.Machine.execSdPair ins base x lo hi s
  | .deadlineMiss hart mon => Sys2Proof.Machine.execDeadlineMiss hart mon s
  | .dispatch hart desc arg phase inst entry source late w part x => Sys2Proof.Machine.execDispatch hart desc arg phase inst entry source late w part x s
  | .timedStore hart id => Sys2Proof.Machine.execTimedStore hart id s
  | .timedStoreMatch hart id => Sys2Proof.Machine.execTimedStoreMatch hart id s
  | .timedStoreCommitIssue => Sys2Proof.Machine.execTimedStoreCommitIssue s
  | .timedStoreCancel hart w addr => Sys2Proof.Machine.execTimedStoreCancel hart w addr s
  | .rangeClean a eng => Sys2Proof.Machine.execRangeClean a eng s
  | .rangeInval a eng => Sys2Proof.Machine.execRangeInval a eng s
  | .rangeCleanInval a eng => Sys2Proof.Machine.execRangeCleanInval a eng s
  | .rangePreload a eng => Sys2Proof.Machine.execRangePreload a eng s
  | .rangeCommandDone eng => Sys2Proof.Machine.execRangeCommandDone eng s
  | .lockRangeWrite a isL3 idx v => Sys2Proof.Machine.execLockRangeWrite a isL3 idx v s
  | .cacheDisable a np v => Sys2Proof.Machine.execCacheDisable a np v s
  | .l2DrainComplete np => Sys2Proof.Machine.execL2DrainComplete np s
  | .cacheEnable a np v => Sys2Proof.Machine.execCacheEnable a np v s
  | .rdS p => Sys2Proof.Machine.execRdS p s
  | .rdX p => Sys2Proof.Machine.execRdX p s
  | .upgL3 p => Sys2Proof.Machine.execUpgL3 p s
  | .rdOnce p => Sys2Proof.Machine.execRdOnce p s
  | .wrPart p => Sys2Proof.Machine.execWrPart p s
  | .wbL p => Sys2Proof.Machine.execWbL p s
  | .evL p => Sys2Proof.Machine.execEvL p s
  | .snpL p => Sys2Proof.Machine.execSnpL p s
  | .snpLX p => Sys2Proof.Machine.execSnpLX p s
  | .invL p => Sys2Proof.Machine.execInvL p s
  | .getS p more ue => Sys2Proof.Machine.execGetS p more ue s
  | .getX p more ue => Sys2Proof.Machine.execGetX p more ue s
  | .upgHA p more ue => Sys2Proof.Machine.execUpgHA p more ue s
  | .getXZ p more ue => Sys2Proof.Machine.execGetXZ p more ue s
  | .cboC p more ue => Sys2Proof.Machine.execCboC p more ue s
  | .cboF p more ue => Sys2Proof.Machine.execCboF p more ue s
  | .atmH p more ue => Sys2Proof.Machine.execAtmH p more ue s
  | .rdNC p more ue => Sys2Proof.Machine.execRdNC p more ue s
  | .wrNC p more ue => Sys2Proof.Machine.execWrNC p more ue s
  | .wbM p => Sys2Proof.Machine.execWbM p s
  | .wbC p => Sys2Proof.Machine.execWbC p s
  | .evC p => Sys2Proof.Machine.execEvC p s
  | .snpS p => Sys2Proof.Machine.execSnpS p s
  | .snpX p => Sys2Proof.Machine.execSnpX p s
  | .snpC p => Sys2Proof.Machine.execSnpC p s
  | .inv p => Sys2Proof.Machine.execInv p s
  | .rcl p => Sys2Proof.Machine.execRcl p s
  | .rspI p => Sys2Proof.Machine.execRspI p s
  | .rspS p => Sys2Proof.Machine.execRspS p s
  | .rspFwdS p => Sys2Proof.Machine.execRspFwdS p s
  | .rspFwdI p => Sys2Proof.Machine.execRspFwdI p s
  | .rspRclD p => Sys2Proof.Machine.execRspRclD p s
  | .rspWbP p => Sys2Proof.Machine.execRspWbP p s
  | .fwdData p => Sys2Proof.Machine.execFwdData p s
  | .dataE p => Sys2Proof.Machine.execDataE p s
  | .dataF p => Sys2Proof.Machine.execDataF p s
  | .gntX p => Sys2Proof.Machine.execGntX p s
  | .cmp p => Sys2Proof.Machine.execCmp p s
  | .wbAck p => Sys2Proof.Machine.execWbAck p s
  | .evAck p => Sys2Proof.Machine.execEvAck p s
  | .cmpAck p => Sys2Proof.Machine.execCmpAck p s
  | .rdIO p => Sys2Proof.Machine.execRdIO p s
  | .wrIO p => Sys2Proof.Machine.execWrIO p s
  | .cmpIO p => Sys2Proof.Machine.execCmpIO p s
  | .dataIO p => Sys2Proof.Machine.execDataIO p s
  | .packetUnknownOpcode p => Sys2Proof.Machine.execPacketUnknownOpcode p s
  | .tenureEnd np line => Sys2Proof.Machine.execTenureEnd np line s
  | .dieLost n => Sys2Proof.Machine.execDieLost n s
  | .storeBufferEntryLeave hart ce => Sys2Proof.Machine.execStoreBufferEntryLeave hart ce s
  | .bankRefresh k c w owed recentGt => Sys2Proof.Machine.execBankRefresh k c w owed recentGt s
  | .zqCalibration k c => Sys2Proof.Machine.execZqCalibration k c s
  | .mr4Read k c rate => Sys2Proof.Machine.execMr4Read k c rate s
  | .dqsOscillatorRead k c drift => Sys2Proof.Machine.execDqsOscillatorRead k c drift s
  | .hpPromotion addr => Sys2Proof.Machine.execHpPromotion addr s
  | .dramReadComplete addr => Sys2Proof.Machine.execDramReadComplete addr s
  | .creditWrite a k p v => Sys2Proof.Machine.execCreditWrite a k p v s
  | .powerDownEntry k c => Sys2Proof.Machine.execPowerDownEntry k c s
  | .selfRefreshEntry k => Sys2Proof.Machine.execSelfRefreshEntry k s
  | .selfRefreshExit k => Sys2Proof.Machine.execSelfRefreshExit k s
  | .dramTraining k c fail wrEye rdEye => Sys2Proof.Machine.execDramTraining k c fail wrEye rdEye s
  | .regionWrite a ix code v => Sys2Proof.Machine.execRegionWrite a ix code v s
  | .worldWalkDone => Sys2Proof.Machine.execWorldWalkDone s
  | .mcInit a v => Sys2Proof.Machine.execMcInit a v s
  | .mcInitDone => Sys2Proof.Machine.execMcInitDone s
  | .scrubStep k c => Sys2Proof.Machine.execScrubStep k c s
  | .leak => Sys2Proof.Machine.execLeak s
  | .rawRead a => Sys2Proof.Machine.execRawRead a s
  | .rawWrite a => Sys2Proof.Machine.execRawWrite a s
  | .encode a => Sys2Proof.Machine.execEncode a s
  | .encodePoison a => Sys2Proof.Machine.execEncodePoison a s
  | .pageRetire a ix v => Sys2Proof.Machine.execPageRetire a ix v s
  | .slotCycleBoundary => Sys2Proof.Machine.execSlotCycleBoundary s
  | .epochSwitch a v => Sys2Proof.Machine.execEpochSwitch a v s
  | .epochCheckDone => Sys2Proof.Machine.execEpochCheckDone s
  | .epochToggle => Sys2Proof.Machine.execEpochToggle s
  | .routeTableWrite a v => Sys2Proof.Machine.execRouteTableWrite a v s
  | .copy a v => Sys2Proof.Machine.execCopy a v s
  | .copyDone => Sys2Proof.Machine.execCopyDone s
  | .fabricTimeout src tag => Sys2Proof.Machine.execFabricTimeout src tag s
  | .tagWithdraw src tag => Sys2Proof.Machine.execTagWithdraw src tag s
  | .batArm a ix v => Sys2Proof.Machine.execBatArm a ix v s
  | .batStop a ix v => Sys2Proof.Machine.execBatStop a ix v s
  | .batMatch ix p enters waited xfers => Sys2Proof.Machine.execBatMatch ix p enters waited xfers s
  | .batTrigger ix entry => Sys2Proof.Machine.execBatTrigger ix entry s
  | .batCounterCopy => Sys2Proof.Machine.execBatCounterCopy s
  | .batTraceWrite d => Sys2Proof.Machine.execBatTraceWrite d s
  | .batBufRead a d => Sys2Proof.Machine.execBatBufRead a d s
  | .bridgeFrameReceive n up crcOk ftype seq ack => Sys2Proof.Machine.execBridgeFrameReceive n up crcOk ftype seq ack s
  | .bridgeNak n up ackseq => Sys2Proof.Machine.execBridgeNak n up ackseq s
  | .sidebandMessage n crcOk ty => Sys2Proof.Machine.execSidebandMessage n crcOk ty s
  | .sidebandNak n seq => Sys2Proof.Machine.execSidebandNak n seq s
  | .powerCommand n pos cmd => Sys2Proof.Machine.execPowerCommand n pos cmd s
  | .powerRequest n pos req => Sys2Proof.Machine.execPowerRequest n pos req s
  | .bridgeTrainStart n => Sys2Proof.Machine.execBridgeTrainStart n s
  | .retrainFull a n v => Sys2Proof.Machine.execRetrainFull a n v s
  | .retrainFast a n v => Sys2Proof.Machine.execRetrainFast a n v s
  | .clockLock n down up sbDown sbUp => Sys2Proof.Machine.execClockLock n down up sbDown sbUp s
  | .laneTestDone n bad => Sys2Proof.Machine.execLaneTestDone n bad s
  | .proposalExchange n => Sys2Proof.Machine.execProposalExchange n s
  | .alignDone n lat skew weak => Sys2Proof.Machine.execAlignDone n lat skew weak s
  | .capabilityExchange n => Sys2Proof.Machine.execCapabilityExchange n s
  | .fastRetrainDone n bad => Sys2Proof.Machine.execFastRetrainDone n bad s
  | .progWrite a j w v => Sys2Proof.Machine.execProgWrite a j w v s
  | .dmaStart c a => Sys2Proof.Machine.execDmaStart c a s
  | .halt c ecc => Sys2Proof.Machine.execHalt c ecc s
  | .move c ecc => Sys2Proof.Machine.execMove c ecc s
  | .move2D c ecc => Sys2Proof.Machine.execMove2D c ecc s
  | .moveComplete c => Sys2Proof.Machine.execMoveComplete c s
  | .loop c ecc ecc2 => Sys2Proof.Machine.execLoop c ecc ecc2 s
  | .endLoop c ecc => Sys2Proof.Machine.execEndLoop c ecc s
  | .wait c ecc => Sys2Proof.Machine.execWait c ecc s
  | .waitTimeout c => Sys2Proof.Machine.execWaitTimeout c s
  | .signalSem c ecc => Sys2Proof.Machine.execSignalSem c ecc s
  | .signalEvt c ecc => Sys2Proof.Machine.execSignalEvt c ecc s
  | .signalIrq c ecc => Sys2Proof.Machine.execSignalIrq c ecc s
  | .signalWrite c ecc x => Sys2Proof.Machine.execSignalWrite c ecc x s
  | .fenceAck c ecc xs => Sys2Proof.Machine.execFenceAck c ecc xs s
  | .setr c ecc => Sys2Proof.Machine.execSetr c ecc s
  | .addr c ecc => Sys2Proof.Machine.execAddr c ecc s
  | .jump c ecc => Sys2Proof.Machine.execJump c ecc s
  | .brz c ecc => Sys2Proof.Machine.execBrz c ecc s
  | .dmaUnblock c evt => Sys2Proof.Machine.execDmaUnblock c evt s
  | .pause a c => Sys2Proof.Machine.execPause a c s
  | .resume a c => Sys2Proof.Machine.execResume a c s
  | .abort a c => Sys2Proof.Machine.execAbort a c s
  | .stop a c => Sys2Proof.Machine.execStop a c s
  | .descriptorFetch c x => Sys2Proof.Machine.execDescriptorFetch c x s
  | .descriptorComplete c => Sys2Proof.Machine.execDescriptorComplete c s
  | .secureInterruptEntry hart fetchFault => Sys2Proof.Machine.execSecureInterruptEntry hart fetchFault s
  | .secureCall a hart v => Sys2Proof.Machine.execSecureCall a hart v s
  | .helmDoorbell a m v => Sys2Proof.Machine.execHelmDoorbell a m v s
  | .provision storeFails => Sys2Proof.Machine.execProvision storeFails s
  | .helmDbgSet storeFails => Sys2Proof.Machine.execHelmDbgSet storeFails s
  | .coreRetire storeFails => Sys2Proof.Machine.execCoreRetire storeFails s
  | .laneCommit storeFails => Sys2Proof.Machine.execLaneCommit storeFails s
  | .rowCommit storeFails => Sys2Proof.Machine.execRowCommit storeFails s
  | .startCfg storeFails => Sys2Proof.Machine.execStartCfg storeFails s
  | .chimneyExit storeFails => Sys2Proof.Machine.execChimneyExit storeFails s
  | .pkgResetCmd storeFails => Sys2Proof.Machine.execPkgResetCmd storeFails s
  | .imageKeySet storeFails => Sys2Proof.Machine.execImageKeySet storeFails s
  | .keyRotate storeFails => Sys2Proof.Machine.execKeyRotate storeFails s
  | .modeSet storeFails => Sys2Proof.Machine.execModeSet storeFails s
  | .zeroize storeFails => Sys2Proof.Machine.execZeroize storeFails s
  | .helmGetStatus => Sys2Proof.Machine.execHelmGetStatus s
  | .helmGetDeviceId => Sys2Proof.Machine.execHelmGetDeviceId s
  | .helmGetAttest => Sys2Proof.Machine.execHelmGetAttest s
  | .helmGetRepairs index => Sys2Proof.Machine.execHelmGetRepairs index s
  | .helmRandom count => Sys2Proof.Machine.execHelmRandom count s
  | .helmSha384 src len => Sys2Proof.Machine.execHelmSha384 src len s
  | .helmHmac slot src len => Sys2Proof.Machine.execHelmHmac slot src len s
  | .helmGcmEnc slot src dst len iv aad aadLen => Sys2Proof.Machine.execHelmGcmEnc slot src dst len iv aad aadLen s
  | .helmGcmDec slot src dst len iv aad aadLen => Sys2Proof.Machine.execHelmGcmDec slot src dst len iv aad aadLen s
  | .helmEcdsaVerify pub digest sig => Sys2Proof.Machine.execHelmEcdsaVerify pub digest sig s
  | .helmKeyGen slot hmac => Sys2Proof.Machine.execHelmKeyGen slot hmac s
  | .helmKeyWrap slot dst => Sys2Proof.Machine.execHelmKeyWrap slot dst s
  | .helmKeyLoad slot blob hmac => Sys2Proof.Machine.execHelmKeyLoad slot blob hmac s
  | .helmKeyLoadPlain slot key hmac => Sys2Proof.Machine.execHelmKeyLoadPlain slot key hmac s
  | .helmKeyErase slot => Sys2Proof.Machine.execHelmKeyErase slot s
  | .lockoutHoldEnd storeFails => Sys2Proof.Machine.execLockoutHoldEnd storeFails s
  | .helmSelfTest pass => Sys2Proof.Machine.execHelmSelfTest pass s
  | .helmTestFailure => Sys2Proof.Machine.execHelmTestFailure s
  | .hcmd n => Sys2Proof.Machine.execHcmd n s
  | .hrsp n => Sys2Proof.Machine.execHrsp n s
  | .forwardTimeout m => Sys2Proof.Machine.execForwardTimeout m s
  | .hartReassign a h v => Sys2Proof.Machine.execHartReassign a h v s
  | .partitionReset a p => Sys2Proof.Machine.execPartitionReset a p s
  | .partitionResetDone p => Sys2Proof.Machine.execPartitionResetDone p s
  | .vfBind a p v => Sys2Proof.Machine.execVfBind a p v s
  | .iommuCommand => Sys2Proof.Machine.execIommuCommand s
  | .imsicMessage hart file eiid w part src => Sys2Proof.Machine.execImsicMessage hart file eiid w part src s
  | .wiredSourceChange n => Sys2Proof.Machine.execWiredSourceChange n s
  | .aplicResend d => Sys2Proof.Machine.execAplicResend d s
  | .outboundWindowWrite a ix word v => Sys2Proof.Machine.execOutboundWindowWrite a ix word v s
  | .readCombineTimeout n => Sys2Proof.Machine.execReadCombineTimeout n s
  | .pcieCompletion n t => Sys2Proof.Machine.execPcieCompletion n t s
  | .completionTimeout n link tag => Sys2Proof.Machine.execCompletionTimeout n link tag s
  | .pcieAck n link => Sys2Proof.Machine.execPcieAck n link s
  | .pcieInboundRequest n t x => Sys2Proof.Machine.execPcieInboundRequest n t x s
  | .hostDoorbell n f v => Sys2Proof.Machine.execHostDoorbell n f v s
  | .msixRaise a n f v => Sys2Proof.Machine.execMsixRaise a n f v s
  | .windowCommit a n f v => Sys2Proof.Machine.execWindowCommit a n f v s
  | .oldMappingDrained n f => Sys2Proof.Machine.execOldMappingDrained n f s
  | .publish a n f m v => Sys2Proof.Machine.execPublish a n f m v s
  | .mailboxAck n f m v => Sys2Proof.Machine.execMailboxAck n f m v s
  | .bmeClear n f => Sys2Proof.Machine.execBmeClear n f s
  | .flr n f => Sys2Proof.Machine.execFlr n f s
  | .flrDone n f => Sys2Proof.Machine.execFlrDone n f s
  | .linkReset n link => Sys2Proof.Machine.execLinkReset n link s
  | .l0sEntry n link => Sys2Proof.Machine.execL0sEntry n link s
  | .l1Entry n link => Sys2Proof.Machine.execL1Entry n link s
  | .pcieLinkEvent n link up => Sys2Proof.Machine.execPcieLinkEvent n link up s
  | .palegFlitReceive n crcOk ftype seq ack ackFrame turn t cells => Sys2Proof.Machine.execPalegFlitReceive n crcOk ftype seq ack ackFrame turn t cells s
  | .palegNak n ackseq => Sys2Proof.Machine.execPalegNak n ackseq s
  | .palegTrainingDone n ok id role => Sys2Proof.Machine.execPalegTrainingDone n ok id role s
  | .retrain a n v => Sys2Proof.Machine.execRetrain a n v s
  | .wr n x => Sys2Proof.Machine.execWr n x s
  | .rd n x => Sys2Proof.Machine.execRd n x s
  | .rdRsp n => Sys2Proof.Machine.execRdRsp n s
  | .msg n => Sys2Proof.Machine.execMsg n s
  | .palegReadTimeout n tag => Sys2Proof.Machine.execPalegReadTimeout n tag s
  | .msgTx a v => Sys2Proof.Machine.execMsgTx a v s
  | .msgRxRead a w => Sys2Proof.Machine.execMsgRxRead a w s
  | .phaseFrameSend => Sys2Proof.Machine.execPhaseFrameSend s
  | .phaseFrame n t2 first f => Sys2Proof.Machine.execPhaseFrame n t2 first f s
  | .branchLost n => Sys2Proof.Machine.execBranchLost n s
  | .rejoin a n v => Sys2Proof.Machine.execRejoin a n v s
  | .plWindowCommit a v => Sys2Proof.Machine.execPlWindowCommit a v s
  | .plOldMappingDrained => Sys2Proof.Machine.execPlOldMappingDrained s
  | .inputSample volts current mittenW pick draw => Sys2Proof.Machine.execInputSample volts current mittenW pick draw s
  | .powerFailWarning volts => Sys2Proof.Machine.execPowerFailWarning volts s
  | .warningWithdrawn volts => Sys2Proof.Machine.execWarningWithdrawn volts s
  | .graceEnd => Sys2Proof.Machine.execGraceEnd s
  | .powerFailComplete => Sys2Proof.Machine.execPowerFailComplete s
  | .undervoltage => Sys2Proof.Machine.execUndervoltage s
  | .overvoltage => Sys2Proof.Machine.execOvervoltage s
  | .aonPowerLoss => Sys2Proof.Machine.execAonPowerLoss s
  | .retainExit volts => Sys2Proof.Machine.execRetainExit volts s
  | .powerDieFault ix => Sys2Proof.Machine.execPowerDieFault ix s
  | .reqOn a k unit irq => Sys2Proof.Machine.execReqOn a k unit irq s
  | .reqGated a k unit irq => Sys2Proof.Machine.execReqGated a k unit irq s
  | .reqOff a k unit irq => Sys2Proof.Machine.execReqOff a k unit irq s
  | .reqClockStop a k unit irq => Sys2Proof.Machine.execReqClockStop a k unit irq s
  | .reqReset a k unit irq => Sys2Proof.Machine.execReqReset a k unit irq s
  | .reqPackageRetain a k unit irq => Sys2Proof.Machine.execReqPackageRetain a k unit irq s
  | .reqPackageOff a k unit irq => Sys2Proof.Machine.execReqPackageOff a k unit irq s
  | .reqClockStart a k unit irq => Sys2Proof.Machine.execReqClockStart a k unit irq s
  | .reqFrequency a k unit freq irq => Sys2Proof.Machine.execReqFrequency a k unit freq irq s
  | .dieTransitionDone n bist => Sys2Proof.Machine.execDieTransitionDone n bist s
  | .frequencyChangeDone n => Sys2Proof.Machine.execFrequencyChangeDone n s
  | .plockEnter a v => Sys2Proof.Machine.execPlockEnter a v s
  | .plockLeave a v => Sys2Proof.Machine.execPlockLeave a v s
  | .plockOverTimeout => Sys2Proof.Machine.execPlockOverTimeout s
  | .plockReentry => Sys2Proof.Machine.execPlockReentry s
  | .throttle n temp => Sys2Proof.Machine.execThrottle n temp s
  | .thermalTrip n temp => Sys2Proof.Machine.execThermalTrip n temp s
  | .aonStart => Sys2Proof.Machine.execAonStart s
  | .powerOnReset => Sys2Proof.Machine.execPowerOnReset s
  | .rstN => Sys2Proof.Machine.execRstN s
  | .hardResetCmd a v => Sys2Proof.Machine.execHardResetCmd a v s
  | .warmResetCmd a v => Sys2Proof.Machine.execWarmResetCmd a v s
  | .imageLoad readError => Sys2Proof.Machine.execImageLoad readError s
  | .imageCheck => Sys2Proof.Machine.execImageCheck s
  | .hartRelease => Sys2Proof.Machine.execHartRelease s
  | .startOk a v => Sys2Proof.Machine.execStartOk a v s
  | .bootWatchdog => Sys2Proof.Machine.execBootWatchdog s
  | .startRetry fallback => Sys2Proof.Machine.execStartRetry fallback s
  | .heartbeat b => Sys2Proof.Machine.execHeartbeat b s
  | .lanternFailed b => Sys2Proof.Machine.execLanternFailed b s
  | .lanternRestart b => Sys2Proof.Machine.execLanternRestart b s
  | .getStart pecOk => Sys2Proof.Machine.execGetStart pecOk s
  | .getEvlog pecOk index => Sys2Proof.Machine.execGetEvlog pecOk index s
  | .getResult pecOk => Sys2Proof.Machine.execGetResult pecOk s
  | .mbWrite pecOk off n data => Sys2Proof.Machine.execMbWrite pecOk off n data s
  | .mbRing pecOk len => Sys2Proof.Machine.execMbRing pecOk len s
  | .mbStatus pecOk => Sys2Proof.Machine.execMbStatus pecOk s
  | .mbRead pecOk off => Sys2Proof.Machine.execMbRead pecOk off s
  | .wake pecOk => Sys2Proof.Machine.execWake pecOk s
  | .warm pecOk => Sys2Proof.Machine.execWarm pecOk s
  | .flashRead pecOk addr n => Sys2Proof.Machine.execFlashRead pecOk addr n s
  | .flashErase pecOk addr => Sys2Proof.Machine.execFlashErase pecOk addr s
  | .flashWrite pecOk addr n data => Sys2Proof.Machine.execFlashWrite pecOk addr n data s
  | .flashOpDone ok => Sys2Proof.Machine.execFlashOpDone ok s
  | .errorRecord expired => Sys2Proof.Machine.execErrorRecord expired s
  | .tailWrite a v => Sys2Proof.Machine.execTailWrite a v s
  | .tapReset => Sys2Proof.Machine.execTapReset s
  | .extest pins shift => Sys2Proof.Machine.execExtest pins shift s
  | .idcode => Sys2Proof.Machine.execIdcode s
  | .samplePreload pins shift => Sys2Proof.Machine.execSamplePreload pins shift s
  | .clamp => Sys2Proof.Machine.execClamp s
  | .highz => Sys2Proof.Machine.execHighz s
  | .dtmcs shift => Sys2Proof.Machine.execDtmcs shift s
  | .dmi addr data op => Sys2Proof.Machine.execDmi addr data op s
  | .chainSel dies => Sys2Proof.Machine.execChainSel dies s
  | .ijtag sibs => Sys2Proof.Machine.execIjtag sibs s
  | .helmMb submit v => Sys2Proof.Machine.execHelmMb submit v s
  | .dbgStatus => Sys2Proof.Machine.execDbgStatus s
  | .bypass => Sys2Proof.Machine.execBypass s
  | .wextest n => Sys2Proof.Machine.execWextest n s
  | .dieIdcode n => Sys2Proof.Machine.execDieIdcode n s
  | .wintest n => Sys2Proof.Machine.execWintest n s
  | .scan n => Sys2Proof.Machine.execScan n s
  | .mbist n => Sys2Proof.Machine.execMbist n s
  | .dieBypass n => Sys2Proof.Machine.execDieBypass n s
  | .dbgTestHold a v => Sys2Proof.Machine.execDbgTestHold a v s
  | .haltRequest hart => Sys2Proof.Machine.execHaltRequest hart s
  | .abstractCommand cmd writes fails => Sys2Proof.Machine.execAbstractCommand cmd writes fails s
  | .systemBusAccess write addr size v => Sys2Proof.Machine.execSystemBusAccess write addr size v s
  | .resumeRequest hart => Sys2Proof.Machine.execResumeRequest hart s
  | .slewEnd n => Sys2Proof.Machine.execSlewEnd n s
  | .writeDrain addr => Sys2Proof.Machine.execWriteDrain addr s
  | .accessSlotGrant j write x => Sys2Proof.Machine.execAccessSlotGrant j write x s
  | .gatedEntryDone hart => Sys2Proof.Machine.execGatedEntryDone hart s
  | .palegPortEnable a n v => Sys2Proof.Machine.execPalegPortEnable a n v s
  | .palegLinkDown n => Sys2Proof.Machine.execPalegLinkDown n s
  | .configurationRequest n f wr dw v e => Sys2Proof.Machine.execConfigurationRequest n f wr dw v e s
  | .railsUp => Sys2Proof.Machine.execRailsUp s
  | .lanternSelfTest aPass bPass => Sys2Proof.Machine.execLanternSelfTest aPass bPass s
  | .dynamicAddressAssignment addr => Sys2Proof.Machine.execDynamicAddressAssignment addr s
  | .coreTraceWrite n => Sys2Proof.Machine.execCoreTraceWrite n s
  | .ctrBufRead a n => Sys2Proof.Machine.execCtrBufRead a n s
  | .wcDbgWrite a v => Sys2Proof.Machine.execWcDbgWrite a v s
  | .pendWrite a c v => Sys2Proof.Machine.execPendWrite a c v s
  | .semCountWrite a ix v => Sys2Proof.Machine.execSemCountWrite a ix v s

end Sys2Proof.Machine
end

