-- ==== Sys2Proof/Machine/Tick.lean ====
section
/-! DEFINITION. What one cycle of the PHS clock does when no command waits: the IOMMU's fault log, held debug commands,
harts that restart, halts, the phase counts with the calendar (R36, R44, R84), and the trace buffers. -/
namespace Sys2Proof.Machine

/-- One cycle without a command. -/
def blockTick (s : State) : State :=
  batCycle (ctrCycle (phsCycle (iter 256 haltTry (iter 256 hartRenew (absRetry (iommuLog s))))))

end Sys2Proof.Machine
end

