-- ==== Sys2Proof/Machine/Step.lean ====
section
/-! DEFINITION. One step of the block: the oldest waiting command, or one cycle when none waits. -/
namespace Sys2Proof.Machine

/-- The oldest command of the queue is performed on the state with the rest of the queue. With no command waiting one PHS
cycle passes, which is a DESIGN CHOICE. -/
def step (s : State) : Host.Outcome State Fault Refusal :=
  match s.pending with
  | [] => .next (blockTick s)
  | c :: rest => exec c { s with pending := rest }

/-- The state with the command that a word spells put in front of the queue. -/
def State.withFetchWord (s : State) (nbits w : Nat) : State :=
  match Sys2Proof.decodeTableWord nbits w with
  | some c => { s with pending := c :: s.pending }
  | none => s

end Sys2Proof.Machine
end

