-- ==== Sys2Proof/Safety.lean ====
section
/-! DEFINITION. What a good state and a good run are, and the terms in which the statements speak: the tables of the state
in canonical form, a command that completes, an access that is allowed, and the parts of the state that a command
leaves alone. -/
namespace Sys2Proof

open Machine

/-- Memory and the register file are in canonical form: keys strictly rising, and nothing listed that an unlisted key
would read as. Equal contents are then equal data. -/
def Canonical (s : State) : Prop := memWf s.mem = true ∧ smapWf regDefault 0 s.regs = true

/-- n steps from s end in a state, not in a fault or a refusal. -/
def RunsFor (n : Nat) (s : State) : Prop := ∃ t, core.run n s = .next t

/-- Command c, performed in state s, answers a next state, and P holds of it. -/
def Gives (c : Instr) (s : State) (P : State → Prop) : Prop := ∃ t, exec c s = .next t ∧ P t

/-- An access to instance i of a register passes every check (R35, R369, R421), and the register's clock runs (R524). -/
abbrev Allowed (a : Access) (write : Bool) (g : Reg) (i : Nat) (s : State) : Prop :=
  regVerdict a write g i s = .ok ∧ regStopped g i s = false

/-- The parts of the state. -/
inductive Part where
  /-- The commands that wait, and the fuses' choice of the part. -/
  | queue
  /-- The counter of free values. -/
  | free
  /-- The memory-mapped registers. -/
  | regs
  /-- The messages sent and not yet delivered. -/
  | msgs
  /-- DRAM. -/
  | mem
  /-- The answer to the last access. -/
  | resp
  /-- The hidden state of the phase ports and replicas. -/
  | phase
  /-- The calendar, its queues and cancellations. -/
  | calendar
  /-- The timed pins. -/
  | pins
  /-- The timed store queues. -/
  | timed
  /-- The harts, with their registers, CSRs, store buffers and interrupt files. -/
  | harts
  /-- The core trace stages, buffers and FIFOs. -/
  | coreTrace
  /-- The open requests of the initiators. -/
  | opens
  /-- The memory controllers. -/
  | mctl
  /-- The home agents. -/
  | home
  /-- The L3 slices. -/
  | l3
  /-- The cores' caches and range engines. -/
  | cores
  /-- The windows and route tables in force. -/
  | fabric
  /-- The bats. -/
  | bats
  /-- The bridges and die transitions. -/
  | bridges
  /-- The DMA channels. -/
  | dma
  /-- The APLIC and its sources. -/
  | irq
  /-- Helm. -/
  | helm
  /-- Partition resets and reassignments under way. -/
  | partitions
  /-- The IOMMU. -/
  | iommu
  /-- The PCIe ports. -/
  | pcie
  /-- The inbound requests of PCIe and Paleg. -/
  | inbound
  /-- The Paleg ports. -/
  | paleg
  /-- PWC and the power state of the package. -/
  | power
  /-- The start sequencer, the flash, the Lanterns and the rack link. -/
  | start
  /-- The error log and the repairs. -/
  | ras
  /-- The JTAG port and the debug module. -/
  | debug
  deriving DecidableEq, Repr

/-- A part of the state is the same in two states. -/
def Part.same : Part → State → State → Prop
  | .queue, s, t => t.pending = s.pending ∧ t.sku = s.sku
  | .free, s, t => t.fresh = s.fresh
  | .regs, s, t => t.regs = s.regs
  | .msgs, s, t => t.out = s.out
  | .mem, s, t => t.mem = s.mem
  | .resp, s, t => t.resp = s.resp
  | .phase, s, t => t.ports = s.ports ∧ t.replicas = s.replicas ∧ t.frameAt = s.frameAt
  | .calendar, s, t => t.cal = s.cal ∧ t.due = s.due ∧ t.calHeld = s.calHeld ∧ t.cancelQ = s.cancelQ ∧ t.cancelRun = s.cancelRun ∧ t.cancelReopen = s.cancelReopen
  | .pins, s, t => t.pins = s.pins
  | .timed, s, t => t.tsq = s.tsq
  | .harts, s, t => t.harts = s.harts
  | .coreTrace, s, t => t.coreTrace = s.coreTrace ∧ t.ctrBuf = s.ctrBuf ∧ t.ctrFifo = s.ctrFifo
  | .opens, s, t => t.txs = s.txs
  | .mctl, s, t => t.wrq = s.wrq ∧ t.mcq = s.mcq ∧ t.mcGt = s.mcGt ∧ t.mcWin = s.mcWin ∧ t.mcBank = s.mcBank ∧ t.mcPend = s.mcPend ∧ t.scrubAt = s.scrubAt ∧ t.initRun = s.initRun ∧ t.mcRate = s.mcRate ∧ t.initWb = s.initWb ∧ t.testRun = s.testRun ∧ t.testHeld = s.testHeld ∧ t.histNext = s.histNext ∧ t.mcOpen = s.mcOpen ∧ t.mcStart = s.mcStart
  | .home, s, t => t.dir = s.dir ∧ t.haQ = s.haQ ∧ t.haTie = s.haTie ∧ t.haTx = s.haTx ∧ t.atomBuf = s.atomBuf ∧ t.walks = s.walks
  | .l3, s, t => t.l3 = s.l3 ∧ t.vb = s.vb ∧ t.l3Pend = s.l3Pend ∧ t.sliceQ = s.sliceQ
  | .cores, s, t => t.l2 = s.l2 ∧ t.l1d = s.l1d ∧ t.l1i = s.l1i ∧ t.l2Pend = s.l2Pend ∧ t.l2Held = s.l2Held ∧ t.ranges = s.ranges ∧ t.l2BadWay = s.l2BadWay
  | .fabric, s, t => t.winPend = s.winPend ∧ t.winCur = s.winCur ∧ t.routes = s.routes ∧ t.epochCheck = s.epochCheck ∧ t.winOff = s.winOff ∧ t.winBusy = s.winBusy ∧ t.epochLag = s.epochLag
  | .bats, s, t => t.batLive = s.batLive ∧ t.batPost = s.batPost ∧ t.batGap = s.batGap ∧ t.batStage = s.batStage ∧ t.batBuf = s.batBuf ∧ t.batFifo = s.batFifo
  | .bridges, s, t => t.bridges = s.bridges ∧ t.dieTrans = s.dieTrans
  | .dma, s, t => t.dma = s.dma ∧ t.dmaTurn = s.dmaTurn ∧ t.dmaPtr = s.dmaPtr
  | .irq, s, t => t.pulses = s.pulses ∧ t.aplic = s.aplic ∧ t.wired = s.wired
  | .helm, s, t => t.helm = s.helm
  | .partitions, s, t => t.partRun = s.partRun ∧ t.hartNew = s.hartNew
  | .iommu, s, t => t.iommu = s.iommu ∧ t.iommuFlt = s.iommuFlt
  | .pcie, s, t => t.peLive = s.peLive ∧ t.peRd = s.peRd ∧ t.peWait = s.peWait ∧ t.peComb = s.peComb ∧ t.peWr = s.peWr ∧ t.peCfg = s.peCfg ∧ t.msix = s.msix ∧ t.aspm = s.aspm ∧ t.peIdle = s.peIdle
  | .inbound, s, t => t.inq = s.inq ∧ t.iwinCur = s.iwinCur
  | .paleg, s, t => t.plQ = s.plQ ∧ t.plLinks = s.plLinks ∧ t.plIn = s.plIn ∧ t.plTx = s.plTx ∧ t.plWait = s.plWait ∧ t.plRx = s.plRx
  | .power, s, t => t.clkOff = s.clkOff ∧ t.pkgEnd = s.pkgEnd ∧ t.pkgOff = s.pkgOff ∧ t.aonOff = s.aonOff ∧ t.freqGoal = s.freqGoal ∧ t.samples = s.samples ∧ t.calm = s.calm ∧ t.mittenRef = s.mittenRef ∧ t.gatePort = s.gatePort ∧ t.pwrIrq = s.pwrIrq ∧ t.excess = s.excess ∧ t.fine = s.fine ∧ t.pfAt = s.pfAt ∧ t.aonTb = s.aonTb
  | .start, s, t => t.boot = s.boot ∧ t.flash = s.flash ∧ t.flashOp = s.flashOp ∧ t.rack = s.rack
  | .ras, s, t => t.intake = s.intake ∧ t.rasUnread = s.rasUnread ∧ t.rasAny = s.rasAny ∧ t.rasSeq = s.rasSeq ∧ t.rasCoreUc = s.rasCoreUc ∧ t.repairs = s.repairs
  | .debug, s, t => t.tap = s.tap ∧ t.dbg = s.dbg

/-- Nothing outside the listed parts differs. -/
def ChangesOnly (l : List Part) (s t : State) : Prop := ∀ p, p ∉ l → p.same s t

/-- No register outside the list differs, in any instance. -/
def RegsOnly (l : List Reg) (s t : State) : Prop := ∀ g, g ∉ l → ∀ i, t.r g i = s.r g i

/-- The registers that record a refused access (R377, R421). -/
def denyRegs : List Reg := [.WC_STATUS, .WC_DENY_ADDR, .WC_DENY_INFO, .PQ_STATUS, .PQ_DENY_ADDR, .PQ_DENY_INFO]

/-- Every part but those of a list. -/
def partsBut (l : List Part) : List Part :=
  [.queue, .free, .regs, .msgs, .mem, .resp, .phase, .calendar, .pins, .timed, .harts, .coreTrace, .opens, .mctl, .home, .l3,
   .cores, .fabric, .bats, .bridges, .dma, .irq, .helm, .partitions, .iommu, .pcie, .inbound, .paleg, .power, .start, .ras,
   .debug].filter fun p => !l.contains p

/-- Every register. -/
def everyReg : List Reg := (List.range 246).map Reg.ofNat

/-- Command c changes no part of the state outside l, and no register outside r. -/
def Frame (c : Instr) (l : List Part) (r : List Reg) : Prop :=
  ∀ s t, exec c s = .next t → ChangesOnly l s t ∧ RegsOnly r s t

/-! ## Terms of the statements -/

/-- The registers that record an error of the calendar (R80). -/
def calErrRegs : List Reg := [.PHE_CAL_STATUS, .PHE_CAL_ERR, .PHE_CAL_ERR_TB]

/-- The registers that the motion of a phase port changes, with those of the events that it fires. -/
def portRegs : List Reg :=
  [.PHE_PORT_PHASE, .PHE_PORT_STATUS, .PHE_CAL_STATUS, .PHE_CAL_ERR, .PHE_CAL_ERR_TB,
  .TIO_PIN_STATUS, .PHE_TSQ_STATUS]

/-- The registers that sending a request on the fabric changes. -/
def sendRegs : List Reg := [.FAB_EPOCH, .FAB_STATUS, .FAB_RSV_STATUS]

/-- The registers that the completion of a core's requests changes. -/
def replyRegs : List Reg :=
  [.CD_CORE_ORD_STATUS, .CD_CORE_ORD_ERRADDR, .CD_L3_RANGE_STATUS, .CD_COH_STATUS,
  .FAB_EPOCH, .FAB_STATUS, .FAB_RSV_STATUS]

/-- The registers that a finding of the DRAM codes changes (R253 to R256). -/
def eccRegs : List Reg :=
  [.MC_ECC_STATUS, .MC_CE_CNT, .MC_LOG_ADDR, .MC_LOG_INFO, .RAS_STATUS, .RAS_PROP,
  .RAS_PROP_TARGET]

/-- The registers that the work of a home agent and its memory controller changes. -/
def homeRegs : List Reg :=
  [.HA_DIR_OCC, .HA_ERR, .HA_ERR_ADDR, .MC_STATUS, .MC_CREDIT_STATUS, .MC_ECC_STATUS,
  .MC_CE_CNT, .MC_LOG_ADDR, .MC_LOG_INFO, .MC_ECC_TEST_CTRL, .MC_ECC_TEST_ADDR, .MC_ECC_TEST_DATA, .MC_ECC_TEST_CHECK,
  .MC_ECC_TEST_STATUS, .FAB_EPOCH, .FAB_STATUS, .FAB_RSV_STATUS, .RAS_STATUS, .RAS_PROP, .RAS_PROP_TARGET]

/-- The registers that a running DMA channel changes. -/
def dmaRegs : List Reg :=
  [.FAB_EPOCH, .FAB_STATUS, .FAB_RSV_STATUS, .DE_CH_PC, .DE_CH_FAULT, .DE_CH_FADDR,
  .DE_CH_STATUS, .DE_ENG_STATUS]

/-- The registers that an answer of Helm changes. -/
def mailRegs : List Reg := [.HELM_STATUS, .HELM_MB_STATUS, .HELM_MB_RSP, .PL_PORT_ERRCNT]

/-- The registers of the start reason and the event log (R540). -/
def evlogRegs : List Reg := [.ST_REASON, .ST_EVLOG_HEAD, .ST_EVLOG]

/-- The registers that the loss or reset of a compute die changes. -/
def dieDownRegs : List Reg :=
  [.PHE_REPLICA_STATUS, .PHE_TSQ_STATUS, .CD_CORE_CACHE_CTRL, .CD_CORE_RANGE_BASE,
  .CD_CORE_RANGE_LIMIT, .CD_CORE_RANGE_CMD, .CD_CORE_RANGE_STATUS, .CD_CORE_ORD_STATUS, .CD_CORE_ORD_ERRADDR,
  .CD_CORE_L2_LOCK, .CD_L3_LOCK, .CD_L3_RANGE_BASE, .CD_L3_RANGE_LIMIT, .CD_L3_RANGE_CMD, .CD_L3_RANGE_STATUS,
  .CD_L3_WAYDIS, .CD_CACHE_ERRCNT, .CD_COH_CTRL, .CD_COH_STATUS, .HA_STATUS, .HA_DIE_STATE, .BAT_STATUS,
  .BAT_TRACE_PTR, .BR_STATUS, .PWR_STATUS, .PWR_DIE, .PWR_REQ_STATUS, .DBG_STATUS, .CTR_PTR]

/-- The registers that follow a die's change of state. -/
def dieEventRegs : List Reg :=
  [.PHE_REPLICA_STATUS, .PHE_TSQ_STATUS, .HA_STATUS, .HA_DIE_STATE, .BAT_STATUS,
  .BAT_TRACE_PTR, .BR_STATUS, .PWR_DIE, .PWR_REQ_STATUS, .CTR_PTR]

/-- The registers that an event delivered to a waiting channel changes. -/
def syncRegs : List Reg := [.BR_ERRCNT, .DE_CH_PC, .DE_CH_STATUS, .DE_CH_G, .WC_MITTEN_STATUS]

/-- The registers whose reads or writes do more than give or take a value. -/
def effectRegs : List Reg :=
  [.PHE_PORT_CFG, .PHE_PORT_AUX, .PHE_PORT_NOMINAL, .PHE_PORT_TOD, .PHE_PORT_CMD, .PHE_PORT_STATUS, .PHE_CAL_CTRL,
   .PHE_CAL_STATUS, .PHE_CAL_BLOCK, .PHE_CAL_CMD, .TIO_PIN_CFG, .TIO_PIN_STATUS, .TIO_PIN_FORCE, .PHE_TSQ_STATUS,
   .CD_CORE_CACHE_CTRL, .CD_CORE_RANGE_CMD, .CD_L3_RANGE_CMD, .CD_CORE_ORD_STATUS, .CD_CORE_L2_LOCK, .CD_L3_LOCK,
   .HA_ERR, .MC_CTRL, .MC_CREDIT, .MC_REGION_BASE, .MC_REGION_CODE, .MC_LOG_ADDR, .MC_INIT, .MC_RETIRE,
   .MC_ECC_TEST_CTRL, .MC_ECC_TEST_ADDR, .MC_ECC_TEST_DATA, .MC_ECC_TEST_CHECK, .MC_ECC_TEST_CMD, .FAB_EPOCH,
   .FAB_RSV_CFG, .FAB_RT_DATA, .FAB_RT_CMD, .BAT_CTRL, .BAT_CNT, .BR_CTRL, .DE_CH_CFG, .DE_CH_CMD, .DE_CH_EVT,
   .DE_CH_DESC, .DE_CH_PC, .DE_CH_ENTRY, .DE_CH_WIN, .DE_CH_LOOP, .DE_CH_G, .DE_SEM, .WC_DBG, .WC_MITTEN, .WC_CALL,
   .HELM_MB_CTRL, .HELM_MB_REQ, .PQ_RESET, .PQ_L3MASK, .PQ_VF, .PQ_HART, .PQ_DEVPART, .PE_PORT_CFG, .PE_OWIN_CFG,
   .PE_OWIN_BASE, .PE_OWIN_BUS, .PE_EP_CFG, .PE_FN_MSIX, .PE_IWIN_COMMIT, .PE_MBX_CTRL, .PE_MBX_DATA, .PL_PORT_CFG,
   .PL_PORT_CMD, .PL_MSG_TX, .PL_MSG_MAP, .PL_OWIN_CFG, .PL_OWIN_BASE, .PL_OWIN_REMOTE, .PL_IWIN_CTRL,
   .PL_IWIN_COMMIT, .PWR_CTRL, .PWR_REQ, .ST_CTRL, .LMB_CTRL, .LMB_BUF, .RAS_CTRL, .RAS_LOG_PTR, .RAS_PROP,
   .DBG_TEST_HOLD, .PHE_TB, .TIO_CAP_TB, .BAT_BUF_DATA, .CTR_BUF_DATA, .PL_MSG_RX, .WC_MITTEN_EFF, .FAB_SLOT,
   .HA_DIR_OCC, .CD_CORE_ORD_ERRADDR, .RAS_LOG, .RAS_AON_LOG, .HELM_MB_RSP]

/-- The file of registers without those of a list. -/
def regsBut (l : List Reg) (s : State) : SMap Word := s.regs.filter fun x => !l.contains (Reg.ofNat (x.1 % 1024))

/-- The address is none of the APLIC, the IOMMU, the debug module and the IMSIC pages, whose registers have rules of their
own. -/
abbrev PlainAddr (addr : Nat) : Prop :=
  ¬(0xFF0009020000 ≤ addr ∧ addr < 0xFF0009021000) ∧ ¬(0xFF000A000000 ≤ addr ∧ addr < 0xFF000A300000) ∧
  ¬(0xFF000D000000 ≤ addr ∧ addr < 0xFF000D000400) ∧ ¬(0xFF1000000000 ≤ addr ∧ addr < 0xFF2000000000)

/-- A packet in the messages sent has the property. -/
def sentSome (f : Packet → Bool) (t : State) : Bool := t.out.any fun m => match m with
  | .pkt q => f q
  | _ => false

/-- A packet with this operation, destination and address is among the messages sent. -/
def sent (op : Op) (dst addr : Nat) (t : State) : Bool :=
  sentSome (fun q => q.op == op && q.dst == dst && q.addr == addr) t

/-! ### Harts -/

/-- The pc of the hart has moved past the instruction. -/
abbrev Moved (i : Issue) (t : State) : Prop := (t.hart i.hart).pc = i.pc + BitVec.ofNat 64 i.len

/-- The instruction raised exception c with the trap value v: the hart holds the trap, to be entered next. -/
abbrev Raised (i : Issue) (c : Nat) (v : Word) (t : State) : Prop :=
  (t.hart i.hart).trap = some { cause := c, tval := v, epc := i.pc }

/-- mzdcfg lets the hart run the instructions of the extension: below M-mode XTEN is 1, and in a virtual mode XVTEN too. -/
abbrev XtOk (i : Issue) (s : State) : Prop :=
  (s.hart i.hart).priv < 3 → bit ((s.hart i.hart).c CSR.mzdcfg) 2 = true ∧
    ((s.hart i.hart).virt = true → bit ((s.hart i.hart).c CSR.mzdcfg) 3 = true)

/-- The CSRs that the counters of R100 change on their own: the counts of the modelled counters, the overflow bits of their
selections, and mip with its overflow interrupt. -/
def countCsrs : List Nat :=
  [0xB02, 0xB03, 0xB04, 0xB05, 0xB06, 0xB07, 0xB08, 0xB09, 0xB0A, 0x323, 0x324, 0x325, 0x326, 0x327, 0x328, 0x329, 0x32A, CSR.mip]

/-- Of those CSRs a counter changes its count, the overflow bit and the pending bit alone. -/
abbrev CountKept (x y : Hart) : Prop :=
  (∀ k, k < 32 → setBits (y.c (0x320 + k)) 63 63 0 = setBits (x.c (0x320 + k)) 63 63 0) ∧
  setBits (y.c CSR.mip) 13 13 0 = setBits (x.c CSR.mip) 13 13 0

/-- What an instruction leaves of its own hart: every integer register outside rs, the privilege, the virtual mode, the
world and every CSR outside cs, the counters of R100 apart. The words in which the debug triggers count instructions (R578)
stand above the CSRs. -/
abbrev Kept (rs cs : List Nat) (x y : Hart) : Prop :=
  (∀ r, r < 32 → r ∉ rs → y.getX r = x.getX r) ∧ y.priv = x.priv ∧ y.virt = x.virt ∧ y.w = x.w ∧
  (∀ a, a < 4096 → a ∉ cs → a ∉ countCsrs → y.c a = x.c a) ∧ CountKept x y

/-- The floating-point and vector registers are the same. -/
abbrev VecKept (x y : Hart) : Prop := y.f = x.f ∧ y.v = x.v

/-- What an instruction leaves of the other harts: their registers, pc, mode, world, CSRs and trap. -/
abbrev OthersKept (h : Nat) (s t : State) : Prop :=
  ∀ k, k < 256 → k ≠ h → Kept [] [] (s.hart k) (t.hart k) ∧ VecKept (s.hart k) (t.hart k) ∧
    (t.hart k).pc = (s.hart k).pc ∧ (t.hart k).trap = (s.hart k).trap

/-! ### Caches and home agents -/

/-- No load of the hart of core np is open. -/
abbrev CoreQuiet (np : Nat) (s : State) : Prop := ((hartOn np s).all fun h => (s.hart h).loads.isEmpty) = true

/-- No request of die n on the line waits at its L3 slice. -/
abbrev LineQuiet (n line : Nat) (s : State) : Prop := (s.sliceQ.any fun r => r.die == n && r.line == line) = false

/-- No request waits at a home agent, no raw access waits for its line, and no transaction waits for room at its
controller. -/
abbrev HaQuiet (s : State) : Prop :=
  s.haQ = [] ∧ s.haTie = [] ∧ s.testRun = none ∧
  (s.haTx.all fun x => x.mem != 0 || x.ack || !x.snoops.isEmpty || !x.wbp.isEmpty) = true

/-- The home agent has a credit for the request, its line is in DRAM, the checks of world and partition pass, and the line is
neither a check address, nor under INIT, nor in self-refresh. -/
abbrev HaChecks (p : Packet) (s : State) : Prop :=
  haCredit (mcOf p.addr) p.cls s = true ∧
  inDram (lineOf p.addr) s = true ∧ (p.w = true ∨ dramWorld (lineOf p.addr) s = false) ∧
  dramPartOk p.part (lineOf p.addr) s = true ∧ isCheckAddr (lineOf p.addr) s = false ∧
  underInit (lineOf p.addr) s = false ∧ inSelfRefresh (lineOf p.addr) s = false

/-- The home agent takes the request: the checks pass, and the page of the line is not retired. -/
abbrev HaTakes (p : Packet) (s : State) : Prop := HaChecks p s ∧ isRetired (lineOf p.addr) s = false

/-- No sub-channel's write queue is full (R222). -/
def WriteRoom (s : State) : Prop := ∀ k u, s.wrq.countP (fun e => mcOf e.addr == k && mcSub e.addr == u) < 64

/-- Storing the line of address a into DRAM writes byte b: one of the line, or of its two check fields (R243). -/
def lineStore (a b : Nat) (s : State) : Bool :=
  let l := lineOf a
  let code := codeOf l s
  let within (x n : Nat) : Bool := decide (x ≤ b) && decide (b < x + n)
  within l 64 || (code != 0 && (within (checkAt code l 0) (checkLen code) || within (checkAt code l 1) (checkLen code)))

/-! ### Bats and bridges -/

/-- The trace record at RDPTR of buffer d. -/
def batRecordAt (d : Nat) (s : State) : BatRec :=
  smapGet (fun _ => {}) s.batBuf (d * 2048 + s.f F.BAT_TRACE_PTR_RDPTR d / 32 % batBufSize d)

/-- The word at RDPTR of buffer d. -/
def batWordAt (d : Nat) (s : State) : Word :=
  let r := batRecordAt d s
  [r.w0, r.w1, r.w2, r.w3].getD (s.f F.BAT_TRACE_PTR_RDPTR d / 8 % 4) 0

/-- The die revision and the capabilities of compute die n pair with those of the IOD. -/
def pairs (n : Nat) (s : State) : Bool :=
  let rev := (Config.dieRev n).toNat
  match capRequired (s.f F.BR_CAP_IOD_REV n) with
  | some c => decide (1 ≤ rev) && decide (rev ≤ 3) && s.f F.BR_CAP_IOD_CAP n &&& capOfRev rev s &&& c == c
  | none => false

/-! ### DMA channels -/

/-- Channel c takes the next step of its engine, and the word at its pc has operation op. -/
abbrev DmaAt (c op : Nat) (s : State) : Prop :=
  s.b F.DE_CH_CFG_MODE c = false ∧ chWinner (c / 64) 0 chReadyI s = some c ∧ chInWin c (chPc c s) s = true ∧
  chPc c s < 8191 ∧ opOf (waitWord c s) = op

/-- Channel c stands in FAULTED with the code, and its interrupt is raised. -/
abbrev DmaFaults (c code : Nat) (t : State) : Prop :=
  chState c t = 7 ∧ t.f F.DE_CH_FAULT_CODE c = code ∧ t.pulses.contains (225 + c) = true

/-! ### Helm -/

/-- Helm serves mailbox m, which holds a well-formed command of opcode o that this mailbox may give. -/
abbrev HelmAt (m o : Nat) (s : State) : Prop :=
  s.helm.cur = some m ∧ m < 5 ∧ m ≠ 3 ∧ (helmCmd m s).opcode = o ∧ s.helm.holding = false ∧
  formatOk m (helmCmd m s) s = true ∧ pathOk m o = true ∧ s.b F.HELM_STATUS_ERRSTATE 0 = false ∧ nextMb s = none

/-- Mailbox m holds an answer with the status and the length. -/
abbrev Answered (m status len : Nat) (t : State) : Prop :=
  t.b F.HELM_MB_STATUS_BUSY m = false ∧ t.b F.HELM_MB_STATUS_DONE m = true ∧ t.f F.HELM_MB_STATUS_STATUS m = status ∧
  t.f F.HELM_MB_STATUS_RSP_LEN m = len

/-- Mailbox m holds a good answer with n bytes p, and Helm serves no other. -/
abbrev Answers (m n p : Nat) (t : State) : Prop :=
  Answered m 0 (16 + n) t ∧ nslice (rspAll m t) 16 n = p ∧ t.helm.cur = none

/-- The tag of the command in mailbox m is the one that the command key gives. -/
def tagGood (m : Nat) (s : State) : Bool :=
  let c := helmCmd m s
  helmTag s.helm.cmdKey (16 + c.length) (c.raw % 256 ^ (16 + c.length)) == c.payN c.length 24

/-- Helm serves a safety-critical command of opcode o, is provisioned and not locked out, and the counter is fresh. -/
abbrev CritAt (m o : Nat) (s : State) : Prop :=
  HelmAt m o s ∧ s.b F.HELM_STATUS_PROV 0 = true ∧ s.helm.locked.contains m = false ∧ s.f F.HELM_STATUS_AUTH_FAIL 0 < 16 ∧
  (s.r .HELM_COUNTER 0).toNat < (helmCmd m s).counter ∧ (helmCmd m s).counter ≠ 2 ^ 64 - 1

/-- A command with a wrong tag is answered with status 4 and counted, and does nothing. -/
abbrev BadTag (m : Nat) (s t : State) : Prop :=
  tagGood m s = false → Answered m 4 16 t ∧ t.f F.HELM_STATUS_AUTH_FAIL 0 = min (s.f F.HELM_STATUS_AUTH_FAIL 0 + 1) 255 ∧
    t.r .HELM_COUNTER 0 = s.r .HELM_COUNTER 0 ∧ t.repairs = s.repairs

/-- The counter of the command is stored, and the count of failures cleared. -/
abbrev Committed (m : Nat) (s t : State) : Prop :=
  t.r .HELM_COUNTER 0 = BitVec.ofNat 64 (helmCmd m s).counter ∧ t.f F.HELM_STATUS_AUTH_FAIL 0 = 0

/-! ### Commands that are accesses to a register -/

/-- The access that a command is: its sender, whether it writes, the register and its instance, and the compute die in
whose power domain the register lies. -/
def accessOf : Instr → Option (Access × Bool × Reg × Nat × Option Nat)
  | .portEnable a n _ | .portDisable a n _ => some (a, true, .PHE_PORT_CFG, n, none)
  | .restart a n | .forceHoldover a n | .resync a n => some (a, true, .PHE_PORT_CMD, n, none)
  | .todArm a n _ => some (a, true, .PHE_PORT_TOD, n, none)
  | .calendarEnable a _ | .calendarDisable a _ => some (a, true, .PHE_CAL_CTRL, 0, none)
  | .calEditRead a k | .calEditWrite a k | .calEditDisarm a k | .calEditDisarmPurge a k =>
    some (a, true, .PHE_CAL_CMD, k, none)
  | .blockCancel a b _ | .blockEnable a b _ => some (a, true, .PHE_CAL_BLOCK, b, none)
  | .forceLow a i | .forceHigh a i | .forceToggle a i => some (a, true, .TIO_PIN_FORCE, i, none)
  | .pinModeOutput a i _ _ | .pinModeOffCapture a i _ => some (a, true, .TIO_PIN_CFG, i, none)
  | .capTbRead a i => some (a, false, .TIO_CAP_TB, i, none)
  | .lockRangeWrite a l3 k _ =>
    some (a, true, if l3 then .CD_L3_LOCK else .CD_CORE_L2_LOCK, k, some (if l3 then k / 4 else k / 40))
  | .cacheDisable a np _ | .cacheEnable a np _ => some (a, true, .CD_CORE_CACHE_CTRL, np, some (np / 20))
  | .rangeClean a e | .rangeInval a e | .rangeCleanInval a e | .rangePreload a e =>
    if e < 240 then some (a, true, .CD_CORE_RANGE_CMD, e, some (e / 20))
    else some (a, true, .CD_L3_RANGE_CMD, e - 240, some (e - 240))
  | .creditWrite a k p _ => some (a, true, if p.isSome then .MC_CREDIT else .MC_CTRL, p.elim k (creditIx k), none)
  | .regionWrite a i code _ => some (a, true, if code then .MC_REGION_CODE else .MC_REGION_BASE, i, none)
  | .mcInit a _ => some (a, true, .MC_INIT, 0, none)
  | .pageRetire a i _ => some (a, true, .MC_RETIRE, i, none)
  | .rawRead a | .rawWrite a | .encode a | .encodePoison a => some (a, true, .MC_ECC_TEST_CMD, 0, none)
  | .epochSwitch a _ => some (a, true, .FAB_EPOCH, 0, none)
  | .routeTableWrite a _ => some (a, true, .FAB_RT_DATA, 0, none)
  | .copy a _ => some (a, true, .FAB_RT_CMD, 0, none)
  | .batArm a i _ | .batStop a i _ => some (a, true, .BAT_CTRL, i, none)
  | .batBufRead a d => some (a, false, .BAT_BUF_DATA, d, none)
  | .retrainFull a n _ | .retrainFast a n _ => some (a, true, .BR_CTRL, n, none)
  | .progWrite a j w _ => some (a, true, .DE_PROG, j * 8192 + w, none)
  | .dmaStart c a => a.map fun a => (a, true, .DE_CH_CMD, c, none)
  | .pause a k | .resume a k | .abort a k | .stop a k => some (a, true, .DE_CH_CMD, k, none)
  | .secureCall a h _ => some (a, true, .WC_CALL, h, none)
  | .publish a n f m _ => some (a, true, .PE_MBX_CTRL, mbxIx n f m, none)
  | .msixRaise a n f _ => some (a, true, .PE_FN_MSIX, fnIx n f, none)
  | .windowCommit a n f _ => some (a, true, .PE_IWIN_COMMIT, fnIx n f, none)
  | .retrain a n _ | .rejoin a n _ => some (a, true, .PL_PORT_CMD, n, none)
  | .palegPortEnable a n _ => some (a, true, .PL_PORT_CFG, n, none)
  | .msgTx a _ => some (a, true, .PL_MSG_TX, 0, none)
  | .msgRxRead a w => some (a, false, .PL_MSG_RX, if w then 1 else 0, none)
  | .plWindowCommit a _ => some (a, true, .PL_IWIN_COMMIT, 0, none)
  | .plockEnter a _ | .plockLeave a _ => some (a, true, .PWR_CTRL, 0, none)
  | .hardResetCmd a _ | .warmResetCmd a _ | .startOk a _ => some (a, true, .ST_CTRL, 0, none)
  | .tailWrite a _ => some (a, true, .RAS_LOG_PTR, 0, none)
  | .dbgTestHold a _ => some (a, true, .DBG_TEST_HOLD, 0, none)
  | .ctrBufRead a n => some (a, false, .CTR_BUF_DATA, n, none)
  | .wcDbgWrite a _ => some (a, true, .WC_DBG, 0, none)
  | .pendWrite a c _ => some (a, true, .DE_CH_EVT, c, none)
  | .semCountWrite a i _ => some (a, true, .DE_SEM, i, none)
  | .helmDoorbell a k _ => if k < 5 then some (a, true, .HELM_MB_CTRL, k, none) else none
  | .hartReassign a k _ => if k < 256 then some (a, true, .PQ_HART, k, none) else none
  | .vfBind a k _ => if k < 64 then some (a, true, .PQ_VF, k, none) else none
  | .partitionReset a p => if p < 64 then some (a, true, .PQ_RESET, p, none) else none
  | .outboundWindowWrite a i w _ =>
    some (a, true, if w = 0 then .PE_OWIN_CFG else if w = 1 then .PE_OWIN_BASE else .PE_OWIN_BUS, i, none)
  | _ => none

/-- The commands that store nothing in DRAM unless a raw access waits for their line or a full write queue makes room: those
of the caches, home agents, controllers and harts that handle lines, and those by which an agent of the IOD writes memory. -/
def leavesDram : Instr → Bool
  | .getS .. | .getX .. | .upgHA .. | .getXZ .. | .cboC .. | .cboF .. | .atmH .. | .rdNC .. | .wrNC .. | .wbM .. | .wbC ..
  | .evC .. | .rspI .. | .rspS .. | .rspFwdS .. | .rspFwdI .. | .rspRclD .. | .rspWbP .. | .cmpAck .. | .dieLost ..
  | .bankRefresh .. | .mcInitDone | .scrubStep .. | .helmSha384 .. | .helmHmac .. | .helmGcmEnc .. | .helmGcmDec .. |
  .helmKeyWrap .. | .iommuCommand | .imageLoad .. | .imageCheck .. | .dramReadComplete .. | .worldWalkDone .. | .slotCycleBoundary .. | .bridgeFrameReceive .. | .clockLock ..
  | .laneTestDone .. | .proposalExchange .. | .alignDone .. | .fastRetrainDone .. | .dieTransitionDone ..
  | .hartRelease .. | .dbgTestHold .. => true
  | .thermalTrip n _ => n != 12
  | _ => false

end Sys2Proof
end

