-- ==== Sys2Proof/Certificates/Slice0/Obligations.lean ====
section
/-! DEFINITION. The statements about the block, for the provers. -/

open Sys2Proof Sys2Proof.Machine

/-- An allowed PHE_PORT_CFG write that enables a port that is off starts it in the state its KIND names, with the rate
the rules give; an invalid one sets CFGERR and leaves it off; a write to an enabled port keeps KIND, CPC, DECODE and
EDGE; a Secure write to an Open port changes WORLD alone. Disabling ends in OFF at rate 0; RESTART, FORCE_HOLDOVER and
RESYNC act as R48 and R63 say. (R48, R49, R62, R63, R74, R369, R600.) -/
def Obligations.PhasePortControl : Prop :=
  (∀ (a : Access) (n : Nat) (v : Word) (s : State),
    Allowed a true .PHE_PORT_CFG n s → a.world = s.b F.PHE_PORT_CFG_WORLD n → s.b F.PHE_PORT_CFG_ENABLE n = false →
    (fget F.PHE_PORT_CFG_KIND v = 1 ∨ fget F.PHE_PORT_CFG_KIND v = 2 → fget F.PHE_PORT_CFG_CPC v ≠ 0) →
    (fget F.PHE_PORT_CFG_KIND v = 2 → fget F.PHE_PORT_CFG_CPC v < 65536) →
    Gives (.portEnable a n v) s fun t =>
      t.b F.PHE_PORT_CFG_ENABLE n = true ∧
      t.f F.PHE_PORT_STATUS_STATE n = (if fget F.PHE_PORT_CFG_KIND v = 1 ∨ fget F.PHE_PORT_CFG_KIND v = 5 then 2 else
        1) ∧
      t.r .PHE_PORT_INC n = (if fget F.PHE_PORT_CFG_KIND v = 5 then s.r .PHE_PORT_NOMINAL n else 0)) ∧
  (∀ (a : Access) (n : Nat) (v : Word) (s : State),
    Allowed a true .PHE_PORT_CFG n s → a.world = s.b F.PHE_PORT_CFG_WORLD n → s.b F.PHE_PORT_CFG_ENABLE n = false →
    (fget F.PHE_PORT_CFG_KIND v = 1 ∨ fget F.PHE_PORT_CFG_KIND v = 2) → fget F.PHE_PORT_CFG_CPC v = 0 →
    Gives (.portEnable a n v) s fun t =>
      t.b F.PHE_PORT_CFG_ENABLE n = false ∧ t.b F.PHE_PORT_STATUS_CFGERR n = true ∧
      t.f F.PHE_PORT_STATUS_STATE n = s.f F.PHE_PORT_STATUS_STATE n) ∧
  (∀ (a : Access) (n : Nat) (v : Word) (s : State),
    Allowed a true .PHE_PORT_CFG n s → a.world = s.b F.PHE_PORT_CFG_WORLD n → s.b F.PHE_PORT_CFG_ENABLE n = true →
    Gives (.portEnable a n v) s fun t =>
      t.f F.PHE_PORT_CFG_KIND n = s.f F.PHE_PORT_CFG_KIND n ∧ t.f F.PHE_PORT_CFG_CPC n = s.f F.PHE_PORT_CFG_CPC n ∧
      t.f F.PHE_PORT_CFG_DECODE n = s.f F.PHE_PORT_CFG_DECODE n ∧
      t.f F.PHE_PORT_CFG_EDGE n = s.f F.PHE_PORT_CFG_EDGE n ∧ t.f F.PHE_PORT_CFG_BW n = fget F.PHE_PORT_CFG_BW v ∧
      t.f F.PHE_PORT_STATUS_STATE n = s.f F.PHE_PORT_STATUS_STATE n) ∧
  (∀ (a : Access) (n : Nat) (v : Word) (s : State),
    Allowed a true .PHE_PORT_CFG n s → a.world = true → s.b F.PHE_PORT_CFG_WORLD n = false →
    Gives (.portEnable a n v) s fun t =>
      t.b F.PHE_PORT_CFG_WORLD n = (bit v 63 && !s.b F.PHE_REF_CTRL_LOCK 0) ∧
      t.b F.PHE_PORT_CFG_ENABLE n = s.b F.PHE_PORT_CFG_ENABLE n ∧
      t.f F.PHE_PORT_STATUS_STATE n = s.f F.PHE_PORT_STATUS_STATE n) ∧
  (∀ (a : Access) (n : Nat) (v : Word) (s : State),
    Allowed a true .PHE_PORT_CFG n s → a.world = s.b F.PHE_PORT_CFG_WORLD n → s.b F.PHE_PORT_CFG_ENABLE n = true →
    Gives (.portDisable a n v) s fun t =>
      t.b F.PHE_PORT_CFG_ENABLE n = false ∧ t.f F.PHE_PORT_STATUS_STATE n = 0 ∧ t.r .PHE_PORT_INC n = 0) ∧
  (∀ (a : Access) (n : Nat) (s : State),
    Allowed a true .PHE_PORT_CMD n s → s.f F.PHE_PORT_STATUS_STATE n ≠ 0 →
    Gives (.restart a n) s fun t =>
      t.f F.PHE_PORT_STATUS_STATE n = (if s.f F.PHE_PORT_CFG_KIND n = 1 ∨ s.f F.PHE_PORT_CFG_KIND n = 5 then 2 else 1)
        ∧
      t.f F.PHE_PORT_STATUS_EDGES n = 0) ∧
  (∀ (a : Access) (n : Nat) (s : State),
    Allowed a true .PHE_PORT_CMD n s → s.f F.PHE_PORT_STATUS_STATE n = 0 →
    Gives (.restart a n) s fun t => t = s.answer 0) ∧
  (∀ (a : Access) (n : Nat) (s : State),
    Allowed a true .PHE_PORT_CMD n s → s.f F.PHE_PORT_STATUS_STATE n ≠ 0 →
    Gives (.forceHoldover a n) s fun t =>
      t.f F.PHE_PORT_STATUS_STATE n = 3 ∧ t.b F.PHE_PORT_STATUS_LOSS n = true ∧
      t.r .PHE_PORT_INC n = (s.port n).loopRate) ∧
  (∀ (a : Access) (n : Nat) (s : State),
    Allowed a true .PHE_PORT_CMD n s → s.f F.PHE_PORT_STATUS_STATE n = 5 →
    Gives (.resync a n) s fun t =>
      t.f F.PHE_PORT_STATUS_STATE n = 2 ∧ t.b F.PHE_PORT_STATUS_LOCKED_EV n = true ∧
      t.b F.PHE_PORT_STATUS_STEPPED n = true) ∧
  (∀ (a : Access) (n : Nat) (s : State),
    Allowed a true .PHE_PORT_CMD n s → s.f F.PHE_PORT_STATUS_STATE n ≠ 5 →
    Gives (.resync a n) s fun t => t = s.answer 0)

/-- An edge that passes the filter and that EDGE selects begins a run when no run is under way; in LOCKED one within the
tolerance becomes the last edge, and one outside it counts as a quality error and does not; other edges do nothing; the
hold of a step ends at the loop rate; an expired loss window enters HOLDOVER with LOSS; HOLD_MAX ends HOLDOVER in FREE
at the nominal rate; each crossing raises the holdover counter; a finished slew returns to the loop rate. A count edge
in LOCKED is timestamped and sets DIR by the direction it counts; an illegal transition or line fault is a quality error
that leaves the port in HOLDOVER, in LOCKED with a loss; a Z edge off the cycle boundary sets ZERR, and with Z_SNAP
steps the count; ARM keeps the seconds of the next pulse; a broadcast leaves for each enabled die whose bridge is ACTIVE
and counts as discarded elsewhere; a good broadcast makes the replica valid with the present timebase, and after four
bad ones VALID falls and MISS rises. (R44, R45, R46, R48, R49, R599, R601, R52, R55, R56, R57, R59.) -/
def Obligations.PhaseTracking : Prop :=
  (∀ (n : Nat) (ts : Word) (rising : Bool) (stable : Nat) (s : State),
    (s.f F.PHE_PORT_CFG_KIND n = 2 ∨ s.f F.PHE_PORT_CFG_KIND n = 3) → edgeSelected n rising s = true →
    filterPassed n stable s = true →
    (s.f F.PHE_PORT_STATUS_STATE n = 1 ∨ s.f F.PHE_PORT_STATUS_STATE n = 3 ∨ s.f F.PHE_PORT_STATUS_STATE n = 4) →
    (s.port n).runEdges = 0 →
    Gives (.pulseEdge n ts rising stable) s fun t =>
      t.r .PHE_PORT_EDGE_TB n = ts ∧ (t.port n).runEdges = 1 ∧ (t.port n).runFirst = ts ∧
      t.f F.PHE_PORT_STATUS_STATE n = s.f F.PHE_PORT_STATUS_STATE n) ∧
  (∀ (n : Nat) (ts : Word) (rising : Bool) (stable : Nat) (s : State),
    (s.f F.PHE_PORT_CFG_KIND n = 2 ∨ s.f F.PHE_PORT_CFG_KIND n = 3) → edgeSelected n rising s = true →
    filterPassed n stable s = true → (s.f F.PHE_PORT_STATUS_STATE n = 2 ∨ s.f F.PHE_PORT_STATUS_STATE n = 5) →
    withinTol (fget F.PHE_PORT_CFG_TOL (s.port n).live) (ts - s.r .PHE_PORT_EDGE_TB n).toNat (s.f
      F.PHE_PORT_PERIOD_VAL n) = false →
    Gives (.pulseEdge n ts rising stable) s fun t =>
      t.b F.PHE_PORT_STATUS_QERR n = true ∧ t.r .PHE_PORT_EDGE_TB n = s.r .PHE_PORT_EDGE_TB n ∧
      t.f F.PHE_PORT_STATUS_STATE n = s.f F.PHE_PORT_STATUS_STATE n) ∧
  (∀ (n : Nat) (ts : Word) (rising : Bool) (stable : Nat) (s : State),
    (s.f F.PHE_PORT_CFG_KIND n = 2 ∨ s.f F.PHE_PORT_CFG_KIND n = 3) → edgeSelected n rising s = true →
    filterPassed n stable s = true → (s.f F.PHE_PORT_STATUS_STATE n = 2 ∨ s.f F.PHE_PORT_STATUS_STATE n = 5) →
    withinTol (fget F.PHE_PORT_CFG_TOL (s.port n).live) (ts - s.r .PHE_PORT_EDGE_TB n).toNat (s.f
      F.PHE_PORT_PERIOD_VAL n) = true →
    Gives (.pulseEdge n ts rising stable) s fun t =>
      t.r .PHE_PORT_EDGE_TB n = ts ∧ t.f F.PHE_PORT_STATUS_STATE n = s.f F.PHE_PORT_STATUS_STATE n ∧
      t.b F.PHE_PORT_STATUS_QERR n = s.b F.PHE_PORT_STATUS_QERR n) ∧
  (∀ (n : Nat) (ts : Word) (rising : Bool) (stable : Nat) (s : State),
    (edgeSelected n rising s = false ∨ filterPassed n stable s = false) →
    Gives (.pulseEdge n ts rising stable) s fun t => t = s) ∧
  (∀ (n : Nat) (s : State),
    (s.port n).holding = true → (s.port n).holdRem = 0 →
    Gives (.stepHoldEnd n) s fun t => t.r .PHE_PORT_INC n = (s.port n).loopRate ∧ (t.port n).holding = false) ∧
  (∀ (n : Nat) (s : State),
    portPulseKind n s = true → (s.f F.PHE_PORT_STATUS_STATE n = 2 ∨ s.f F.PHE_PORT_STATUS_STATE n = 5) →
    liveLossK (s.port n) * s.f F.PHE_PORT_PERIOD_VAL n ≤ (s.tb - s.r .PHE_PORT_EDGE_TB n).toNat →
    Gives (.lossWindowExpiry n) s fun t =>
      t.f F.PHE_PORT_STATUS_STATE n = 3 ∧ t.b F.PHE_PORT_STATUS_LOSS n = true ∧
      t.r .PHE_PORT_INC n = (s.port n).loopRate ∧ (t.port n).holdover = 0) ∧
  (∀ (n : Nat) (s : State),
    s.f F.PHE_PORT_STATUS_STATE n = 3 → (s.port n).holdMax ≠ 0 → (s.port n).holdMax ≤ (s.port n).holdover.toNat →
    Gives (.holdoverToFree n) s fun t =>
      t.f F.PHE_PORT_STATUS_STATE n = 4 ∧ t.r .PHE_PORT_INC n = s.r .PHE_PORT_NOMINAL n) ∧
  (∀ (n : Nat) (s : State),
    s.f F.PHE_PORT_STATUS_STATE n = 3 → 0 < (s.port n).crossings →
    Gives (.holdoverCycleCrossing n) s fun t => (t.port n).holdover = (s.port n).holdover + 1) ∧
  (∀ (n : Nat) (s : State),
    s.f F.PHE_PORT_STATUS_STATE n = 2 → (s.port n).slewing = true → (s.port n).slew = 0 →
    Gives (.slewEnd n) s fun t => t.r .PHE_PORT_INC n = (s.port n).loopRate ∧ (t.port n).slewing = false) ∧
  (∀ (n : Nat) (ts : Word) (onA rising other : Bool) (stable : Nat) (s : State),
    s.f F.PHE_PORT_CFG_KIND n = 1 → s.f F.PHE_PORT_STATUS_STATE n = 2 → filterPassed n stable s = true →
    encCounted n onA other s = true →
    Gives (.encoderCountEdge n ts onA rising other stable) s fun t =>
      t.r .PHE_PORT_EDGE_TB n = ts ∧ t.b F.PHE_PORT_STATUS_DIR n = !encForward n onA rising other s ∧
      t.f F.PHE_PORT_STATUS_STATE n = 2) ∧
  (∀ (n : Nat) (s : State),
    s.f F.PHE_PORT_CFG_KIND n = 1 → s.f F.PHE_PORT_STATUS_STATE n ≠ 0 →
    Gives (.illegalTransition n) s fun t =>
      t.b F.PHE_PORT_STATUS_QERR n = true ∧ t.f F.PHE_PORT_STATUS_STATE n = 3 ∧
      (s.f F.PHE_PORT_STATUS_STATE n = 2 → t.b F.PHE_PORT_STATUS_LOSS n = true)) ∧
  (∀ (n : Nat) (s : State),
    s.f F.PHE_PORT_CFG_KIND n = 1 → s.f F.PHE_PORT_STATUS_STATE n ≠ 0 →
    Gives (.lineFault n) s fun t =>
      t.b F.PHE_PORT_STATUS_QERR n = true ∧ t.f F.PHE_PORT_STATUS_STATE n = 3 ∧
      (s.f F.PHE_PORT_STATUS_STATE n = 2 → t.b F.PHE_PORT_STATUS_LOSS n = true)) ∧
  (∀ (n : Nat) (stable : Nat) (s : State),
    filterPassed n stable s = true → s.f F.PHE_PORT_CFG_KIND n = 1 → s.f F.PHE_PORT_STATUS_STATE n = 2 →
    s.b F.PHE_PORT_CFG_Z_EN n = true → (s.port n).encPos ≠ 0 →
    Gives (.zEdge n stable) s fun t =>
      t.b F.PHE_PORT_STATUS_ZERR n = true ∧
      (s.b F.PHE_PORT_CFG_Z_SNAP n = true → t.b F.PHE_PORT_STATUS_STEPPED n = true)) ∧
  (∀ (a : Access) (n : Nat) (v : Word) (s : State),
    Allowed a true .PHE_PORT_TOD n s →
    Gives (.todArm a n v) s fun t => t.b F.PHE_PORT_TOD_ARM n = true ∧ t.f F.PHE_PORT_TOD_TOD_NEXT n = bits v 47 0) ∧
  (∀ (s : State),
    Gives (.phaseBroadcast) s fun t =>
      (List.range 12).all (fun n => if s.fbit F.PHE_REF_CTRL_DIE_BCAST 0 n && bridgeActive n s then t.out.contains
        (.bcast n) else (t.replica n).bad == (s.replica n).bad + 1) = true) ∧
  (∀ (d : Nat) (good : Bool) (s : State),
    d < 12 → s.out.contains (.bcast d) = true →
    Gives (.phaseBroadcastReceive d good) s fun t =>
      if good then t.fbit F.PHE_REPLICA_STATUS_VALID 0 d = true ∧ (t.replica d).tb = s.tb ∧
      (t.replica d).bad = 0 else (t.replica d).bad = (s.replica d).bad + 1) ∧
  (∀ (d : Nat) (s : State),
    d < 12 → 4 ≤ (s.replica d).bad → s.fbit F.PHE_REPLICA_STATUS_VALID 0 d = true →
    Gives (.replicaValidLost d) s fun t =>
      t.fbit F.PHE_REPLICA_STATUS_VALID 0 d = false ∧ t.fbit F.PHE_REPLICA_STATUS_MISS 0 d = true)

/-- A match sets FIRED and disarms an entry whose last repeat it is; enabling and disabling write the control fields;
each service takes up to eight firings; the oldest held firing enters a due queue with room; writing ENABLE 0 to a block
requests its cancellation and 1 opens it unless a cancellation of it waits or runs; a cancellation takes its turn, and
its end leaves no firing of the block. An edit command acts on the entry that PHE_CAL_IDX names when its block is open
and belongs to the port: READ copies it to the staging words, WRITE commits valid staged words, DISARM clears VALID, and
PURGE also removes its queued firings and says whether there were any. A cancellation makes the port answer BUSY, a
foreign or closed block DENIED, and bad field values or targets INVALID or a target error. (R67, R69, R74, R76, R77,
R78, R79, R84, R86, R87, R68, R70.) -/
def Obligations.CalendarWork : Prop :=
  (∀ (e : Nat) (late : Bool) (inst : Word) (s : State),
    calDueMatch s.tb e s = some (late, inst) → (s.calE e).fired ≠ some s.tb →
    Gives (.calendarMatch e) s fun t =>
      bit (t.calE e).w2 45 = true ∧ ((s.calE e).w1 = 0 → bit (t.calE e).w2 63 = false)) ∧
  (∀ (a : Access) (v : Word) (s : State),
    Allowed a true .PHE_CAL_CTRL 0 s →
    Gives (.calendarEnable a v) s fun t =>
      t.b F.PHE_CAL_CTRL_ENABLE 0 = true ∧ t.f F.PHE_CAL_CTRL_LATE_LIMIT 0 = bits v 15 8 ∧
      t.b F.PHE_CAL_CTRL_EDGE_COMP 0 = bit v 1) ∧
  (∀ (a : Access) (v : Word) (s : State),
    Allowed a true .PHE_CAL_CTRL 0 s →
    Gives (.calendarDisable a v) s fun t =>
      t.b F.PHE_CAL_CTRL_ENABLE 0 = false ∧ t.f F.PHE_CAL_CTRL_LATE_LIMIT 0 = bits v 15 8 ∧
      t.b F.PHE_CAL_CTRL_EDGE_COMP 0 = bit v 1) ∧
  (∀ (s : State),
    Gives (.dueQueueService) s fun t => t.due.length = s.due.length - 8) ∧
  (∀ (f : Firing) (r : List Firing) (s : State),
    s.calHeld = f :: r → s.due.length < 4096 →
    Gives (.pendingFiringEnqueue) s fun t => t.calHeld = r ∧ t.due = s.due ++ [f]) ∧
  (∀ (a : Access) (b : Nat) (v : Word) (s : State),
    Allowed a true .PHE_CAL_BLOCK b s → a.world = s.b F.PHE_CAL_BLOCK_WORLD b →
    bit v 63 = s.b F.PHE_CAL_BLOCK_WORLD b → fget F.PHE_CAL_BLOCK_PART v = s.f F.PHE_CAL_BLOCK_PART b →
    s.b F.PHE_CAL_BLOCK_ENABLE b = true →
    Gives (.blockCancel a b v) s fun t =>
      t.b F.PHE_CAL_BLOCK_ENABLE b = false ∧ t.cancelQ = s.cancelQ ++ [b] ∧ t.b F.PHE_CAL_STATUS_CANCEL_BUSY 0 = true) ∧
  (∀ (a : Access) (b : Nat) (v : Word) (s : State),
    Allowed a true .PHE_CAL_BLOCK b s → a.world = s.b F.PHE_CAL_BLOCK_WORLD b →
    bit v 63 = s.b F.PHE_CAL_BLOCK_WORLD b → fget F.PHE_CAL_BLOCK_PART v = s.f F.PHE_CAL_BLOCK_PART b →
    cancelling b s = false →
    Gives (.blockEnable a b v) s fun t => t.b F.PHE_CAL_BLOCK_ENABLE b = true) ∧
  (∀ (a : Access) (b : Nat) (v : Word) (s : State),
    Allowed a true .PHE_CAL_BLOCK b s → a.world = s.b F.PHE_CAL_BLOCK_WORLD b →
    bit v 63 = s.b F.PHE_CAL_BLOCK_WORLD b → fget F.PHE_CAL_BLOCK_PART v = s.f F.PHE_CAL_BLOCK_PART b →
    cancelling b s = true →
    Gives (.blockEnable a b v) s fun t =>
      t.b F.PHE_CAL_BLOCK_ENABLE b = s.b F.PHE_CAL_BLOCK_ENABLE b ∧ t.b F.PHE_CAL_STATUS_CFGERR 0 = true) ∧
  (∀ (b : Nat) (r : List Nat) (s : State),
    s.cancelRun = none → s.cancelQ = b :: r →
    Gives (.cancellationStart) s fun t =>
      t.cancelRun = some b ∧ t.cancelQ = r ∧ t.b F.PHE_CAL_STATUS_CANCEL_BUSY 0 = true) ∧
  (∀ (b : Nat) (s : State),
    s.cancelRun = some b →
    Gives (.cancellationDone) s fun t =>
      t.cancelRun = none ∧ (∀ f ∈ t.due ++ t.calHeld, f.entry / 256 ≠ b) ∧
      t.b F.PHE_CAL_STATUS_CANCEL_BUSY 0 = !s.cancelQ.isEmpty) ∧
  (∀ (a : Access) (k e : Nat) (s : State),
    Allowed a true .PHE_CAL_CMD k s → s.f F.PHE_CAL_IDX_VAL k = e → blkPart e s = k / 2 →
    blkWorld e s = (k % 2 == 1) → cancelling (e / 256) s = false → blkOpen e s = true →
    Gives (.calEditRead a k) s fun t =>
      t.r .PHE_CAL_W0 k = (s.calE e).w0 ∧ t.r .PHE_CAL_W1 k = (s.calE e).w1 ∧ t.r .PHE_CAL_W3 k = (s.calE e).w3 ∧
      t.f F.PHE_CAL_EDIT_STATUS_STATUS k = 0) ∧
  (∀ (a : Access) (k e : Nat) (s : State),
    Allowed a true .PHE_CAL_CMD k s → s.f F.PHE_CAL_IDX_VAL k = e → blkPart e s = k / 2 →
    blkWorld e s = (k % 2 == 1) → cancelling (e / 256) s = false → blkOpen e s = true →
    calInvalid (s.r .PHE_CAL_W1 k) (editW2 (s.r .PHE_CAL_W2 k)) (s.r .PHE_CAL_W3 k) = false →
    calTargetOk (editW2 (s.r .PHE_CAL_W2 k)) (s.r .PHE_CAL_W3 k) (k % 2 == 1) (k / 2) s = true →
    dispatchWorldOk (editW2 (s.r .PHE_CAL_W2 k)) (s.r .PHE_CAL_W3 k) (k % 2 == 1) s = true →
    Gives (.calEditWrite a k) s fun t =>
      (t.calE e).w0 = s.r .PHE_CAL_W0 k ∧ (t.calE e).w1 = s.r .PHE_CAL_W1 k ∧
      (t.calE e).w2 = editW2 (s.r .PHE_CAL_W2 k) ∧ (t.calE e).w3 = s.r .PHE_CAL_W3 k ∧
      t.f F.PHE_CAL_EDIT_STATUS_STATUS k = 0) ∧
  (∀ (a : Access) (k e : Nat) (s : State),
    Allowed a true .PHE_CAL_CMD k s → s.f F.PHE_CAL_IDX_VAL k = e → blkPart e s = k / 2 →
    blkWorld e s = (k % 2 == 1) → cancelling (e / 256) s = false → blkOpen e s = true →
    calInvalid (s.r .PHE_CAL_W1 k) (editW2 (s.r .PHE_CAL_W2 k)) (s.r .PHE_CAL_W3 k) = true →
    Gives (.calEditWrite a k) s fun t => t.cal = s.cal ∧ t.f F.PHE_CAL_EDIT_STATUS_STATUS k = 3) ∧
  (∀ (a : Access) (k e : Nat) (s : State),
    Allowed a true .PHE_CAL_CMD k s → s.f F.PHE_CAL_IDX_VAL k = e → blkPart e s = k / 2 →
    blkWorld e s = (k % 2 == 1) → cancelling (e / 256) s = false → blkOpen e s = true →
    calInvalid (s.r .PHE_CAL_W1 k) (editW2 (s.r .PHE_CAL_W2 k)) (s.r .PHE_CAL_W3 k) = false →
    (calTargetOk (editW2 (s.r .PHE_CAL_W2 k)) (s.r .PHE_CAL_W3 k) (k % 2 == 1) (k / 2) s = false ∨ dispatchWorldOk
      (editW2 (s.r .PHE_CAL_W2 k)) (s.r .PHE_CAL_W3 k) (k % 2 == 1) s = false) →
    Gives (.calEditWrite a k) s fun t => t.cal = s.cal ∧ t.f F.PHE_CAL_EDIT_STATUS_STATUS k = 4) ∧
  (∀ (a : Access) (k e : Nat) (s : State),
    Allowed a true .PHE_CAL_CMD k s → s.f F.PHE_CAL_IDX_VAL k = e →
    (blkPart e s ≠ k / 2 ∨ blkWorld e s ≠ (k % 2 == 1)) →
    Gives (.calEditWrite a k) s fun t => t.cal = s.cal ∧ t.f F.PHE_CAL_EDIT_STATUS_STATUS k = 2) ∧
  (∀ (a : Access) (k e : Nat) (s : State),
    Allowed a true .PHE_CAL_CMD k s → s.f F.PHE_CAL_IDX_VAL k = e → blkPart e s = k / 2 →
    blkWorld e s = (k % 2 == 1) → cancelling (e / 256) s = false → blkOpen e s = true →
    Gives (.calEditDisarm a k) s fun t => bit (t.calE e).w2 63 = false ∧ t.f F.PHE_CAL_EDIT_STATUS_STATUS k = 0) ∧
  (∀ (a : Access) (k e : Nat) (s : State),
    Allowed a true .PHE_CAL_CMD k s → s.f F.PHE_CAL_IDX_VAL k = e → blkPart e s = k / 2 →
    blkWorld e s = (k % 2 == 1) → cancelling (e / 256) s = true →
    Gives (.calEditDisarm a k) s fun t => t.cal = s.cal ∧ t.f F.PHE_CAL_EDIT_STATUS_STATUS k = 1) ∧
  (∀ (a : Access) (k e : Nat) (s : State),
    Allowed a true .PHE_CAL_CMD k s → s.f F.PHE_CAL_IDX_VAL k = e → blkPart e s = k / 2 →
    blkWorld e s = (k % 2 == 1) → cancelling (e / 256) s = false → blkOpen e s = true →
    Gives (.calEditDisarmPurge a k) s fun t =>
      bit (t.calE e).w2 63 = false ∧ (∀ f ∈ t.due ++ t.calHeld, f.entry ≠ e) ∧
      t.b F.PHE_CAL_EDIT_STATUS_PURGED k = (s.due ++ s.calHeld).any (fun f => f.entry == e) ∧
      t.f F.PHE_CAL_EDIT_STATUS_STATUS k = 0)

/-- The earliest accepted edge is placed on the latch as its operation says, a trailing edge returns to the level before
the pulse, a forced write drives the pin in an output mode, a change of mode to output drives it at the sampled level
and one to off or capture releases it and discards its edges, and captured edges fill a FIFO of 16 that TIO_CAP_TB
empties in order. (R90, R91, R92, R93, R602.) -/
def Obligations.TimedPins : Prop :=
  (∀ (i : Nat) (ed : PinEdge) (r : List PinEdge) (s : State),
    (s.pin i).edges = ed :: r → ed.op ≠ 4 → pinOutput i s = true →
    Gives (.tioEdgePlace i) s fun t =>
      (t.pin i).latch = (if ed.op = 0 then false else if ed.op = 1 then true else !(s.pin i).latch) ∧
      (ed.op ≠ 3 → (t.pin i).edges = r)) ∧
  (∀ (i : Nat) (ed : PinEdge) (r : List PinEdge) (s : State),
    (s.pin i).edges = ed :: r → ed.op = 4 → pinOutput i s = true →
    Gives (.pulseTrailingEdge i) s fun t => (t.pin i).latch = ed.level ∧ (t.pin i).edges = r) ∧
  (∀ (a : Access) (i : Nat) (s : State),
    Allowed a true .TIO_PIN_FORCE i s → pinOutput i s = true →
    Gives (.forceLow a i) s fun t =>
      (t.pin i).latch = (false) ∧
      ((s.pin i).hiz = false → (t.pin i).driving = true ∧ t.b F.TIO_PIN_STATUS_LEVEL i = (false))) ∧
  (∀ (a : Access) (i : Nat) (s : State),
    Allowed a true .TIO_PIN_FORCE i s → pinOutput i s = true →
    Gives (.forceHigh a i) s fun t =>
      (t.pin i).latch = (true) ∧
      ((s.pin i).hiz = false → (t.pin i).driving = true ∧ t.b F.TIO_PIN_STATUS_LEVEL i = (true))) ∧
  (∀ (a : Access) (i : Nat) (s : State),
    Allowed a true .TIO_PIN_FORCE i s → pinOutput i s = true →
    Gives (.forceToggle a i) s fun t =>
      (t.pin i).latch = (!(s.pin i).latch) ∧
      ((s.pin i).hiz = false → (t.pin i).driving = true ∧ t.b F.TIO_PIN_STATUS_LEVEL i = (!(s.pin i).latch))) ∧
  (∀ (a : Access) (i : Nat) (s : State),
    Allowed a true .TIO_PIN_FORCE i s → pinOutput i s = false →
    Gives (.forceHigh a i) s fun t => t = s.answer 0) ∧
  (∀ (a : Access) (i : Nat) (v : Word) (level : Bool) (s : State),
    Allowed a true .TIO_PIN_CFG i s → a.world = s.b F.TIO_PIN_CFG_WORLD i →
    fget F.TIO_PIN_CFG_PART v = s.f F.TIO_PIN_CFG_PART i → pinOutput i s = false →
    Gives (.pinModeOutput a i v level) s fun t =>
      pinOutput i t = true ∧ (t.pin i).latch = level ∧ (t.pin i).driving = true ∧
      t.b F.TIO_PIN_STATUS_LEVEL i = level) ∧
  (∀ (a : Access) (i : Nat) (v : Word) (s : State),
    Allowed a true .TIO_PIN_CFG i s → a.world = s.b F.TIO_PIN_CFG_WORLD i →
    fget F.TIO_PIN_CFG_PART v = s.f F.TIO_PIN_CFG_PART i → (bits v 1 0 = 0 ∨ bits v 1 0 = 2) →
    Gives (.pinModeOffCapture a i v) s fun t =>
      t.f F.TIO_PIN_CFG_MODE i = bits v 1 0 ∧ (t.pin i).driving = false ∧ (t.pin i).edges = []) ∧
  (∀ (i : Nat) (ts : Word) (rising : Bool) (s : State),
    s.f F.TIO_PIN_CFG_MODE i = 2 →
    (s.f F.TIO_PIN_CFG_CAP_EDGE i = 0 ∧ rising = true ∨ s.f F.TIO_PIN_CFG_CAP_EDGE i = 1 ∧ rising = false ∨ s.f
      F.TIO_PIN_CFG_CAP_EDGE i = 2) →
    ((s.pin i).lastCap.elim true fun u => decide (64 ≤ (ts - u).toInt)) = true → (s.pin i).fifo.length < 16 →
    Gives (.captureEdge i ts rising) s fun t =>
      (t.pin i).fifo.map Prod.fst = (s.pin i).fifo.map Prod.fst ++ [ts] ∧
      t.f F.TIO_PIN_STATUS_CAP_COUNT i = (s.pin i).fifo.length + 1 ∧ t.b F.TIO_PIN_STATUS_LEVEL i = rising) ∧
  (∀ (i : Nat) (ts : Word) (rising : Bool) (s : State),
    s.f F.TIO_PIN_CFG_MODE i = 2 →
    (s.f F.TIO_PIN_CFG_CAP_EDGE i = 0 ∧ rising = true ∨ s.f F.TIO_PIN_CFG_CAP_EDGE i = 1 ∧ rising = false ∨ s.f
      F.TIO_PIN_CFG_CAP_EDGE i = 2) →
    ((s.pin i).lastCap.elim true fun u => decide (64 ≤ (ts - u).toInt)) = true → 16 ≤ (s.pin i).fifo.length →
    Gives (.captureEdge i ts rising) s fun t =>
      (t.pin i).fifo = (s.pin i).fifo ∧ t.b F.TIO_PIN_STATUS_OVF i = true) ∧
  (∀ (a : Access) (i : Nat) (u ph : Word) (r : List (Word × Word)) (s : State),
    Allowed a false .TIO_CAP_TB i s → (s.pin i).fifo = (u, ph) :: r →
    Gives (.capTbRead a i) s fun t =>
      t.resp = ⟨0, u⟩ ∧ t.r .TIO_CAP_PHASE i = ph ∧ (t.pin i).fifo = r ∧
      t.f F.TIO_PIN_STATUS_CAP_COUNT i = r.length % 32) ∧
  (∀ (a : Access) (i : Nat) (s : State),
    Allowed a false .TIO_CAP_TB i s → (s.pin i).fifo = [] →
    Gives (.capTbRead a i) s fun t => t.resp = ⟨0, 0xFFFFFFFFFFFFFFFF#64⟩)

/-- A load whose bytes one older store holds takes them from the store buffer and writes its destination, extended, x0
discarding them; an NC load goes to the home agent as RdNC; a load or store whose check fails raises its fault with the
address; a store, a CBO and SD.PAIR retire into the store buffer and the pc moves on; LD.PAIR writes an even register
pair. (R98, R141, R191, R201, R202, R203, R205.) -/
def Obligations.LoadsAndStores : Prop :=
  (∀ (i : Issue) (rd lm : Nat) (sg : Bool) (a : MemAcc) (x : LAcc) (v : Nat) (s : State),
    canIssue i s = true → (s.hart i.hart).loads = [] → accCheck i.hart .load a s = .ok x → x.pa2 = none → x.pbmt = 0 →
    inDram x.pa s = true → sbForward x.pa x.size (s.hart i.hart).sb = .data v → rd < 32 →
    Gives (.load i (.x rd sg) [a] lm none) s fun t =>
      (t.hart i.hart).getX rd = (if rd = 0 then 0 else extend sg x.size v) ∧ Moved i t ∧ (t.hart i.hart).loads = []) ∧
  (∀ (i : Issue) (rd lm : Nat) (sg : Bool) (a : MemAcc) (x : LAcc) (s : State),
    canIssue i s = true → (s.hart i.hart).loads = [] → accCheck i.hart .load a s = .ok x → x.pa2 = none → x.pbmt = 1 →
    inDram x.pa s = true → sbForward x.pa x.size (s.hart i.hart).sb = .no → readsOpen (coreOf i.hart s) s < 32 →
    Gives (.load i (.x rd sg) [a] lm none) s fun t =>
      t.txs.getLast?.map (fun q => (q.op, q.addr, q.tgt)) = some (Op.rdNC, lineOf x.pa, 0x100 + mcOf x.pa) ∧
      Moved i t ∧ (t.hart i.hart).x = (s.hart i.hart).x) ∧
  (∀ (i : Issue) (rd c lm : Nat) (tv : Word) (sg : Bool) (a : MemAcc) (s : State),
    canIssue i s = true → (s.hart i.hart).loads = [] → (s.hart i.hart).bare = false → a.x = .fault c tv →
    Gives (.load i (.x rd sg) [a] lm none) s fun t => Raised i c a.va t ∧ (t.hart i.hart).x = (s.hart i.hart).x) ∧
  (∀ (i : Issue) (v : Nat) (a : MemAcc) (x : LAcc) (s : State),
    canSettle i s = true → accCheck i.hart .store a s = .ok x → x.parts = [(x.pa, x.size)] →
    (s.hart i.hart).sb.length < 48 →
    Gives (.store i [a] [v] false) s fun t =>
      (t.hart i.hart).sb = sbPush (pieceEntry ⟨x.pa, x.size, v % 2 ^ (8 * x.size)⟩ (s.hart i.hart).w x.pbmt (txPart
        i.hart s) i.cls) (s.hart i.hart).sb s ∧
      Moved i t) ∧
  (∀ (i : Issue) (v c : Nat) (tv : Word) (a : MemAcc) (s : State),
    canSettle i s = true → (s.hart i.hart).bare = false → a.x = .fault c tv →
    Gives (.store i [a] [v] false) s fun t => Raised i c a.va t ∧ (t.hart i.hart).sb = (s.hart i.hart).sb) ∧
  (∀ (i : Issue) (a : MemAcc) (x : LAcc) (s : State),
    canSettle i s = true → (s.hart i.hart).sb.length < 48 → accCheck i.hart .block { a with size := 1 } s = .ok x →
    x.pbmt ≠ 2 → inDram x.pa s = true →
    Gives (.cboClean i a) s fun t =>
      (t.hart i.hart).sb.map (fun e => (e.kind, e.pa)) = (s.hart i.hart).sb.map (fun e => (e.kind, e.pa)) ++ [(.cboC,
        lineOf x.pa)] ∧
      Moved i t) ∧
  (∀ (i : Issue) (a : MemAcc) (x : LAcc) (s : State),
    canSettle i s = true → (s.hart i.hart).sb.length < 48 → accCheck i.hart .block { a with size := 1 } s = .ok x →
    x.pbmt ≠ 2 → inDram x.pa s = true →
    Gives (.cboFlush i a) s fun t =>
      (t.hart i.hart).sb.map (fun e => (e.kind, e.pa)) = (s.hart i.hart).sb.map (fun e => (e.kind, e.pa)) ++ [(.cboF,
        lineOf x.pa)] ∧
      Moved i t) ∧
  (∀ (i : Issue) (a : MemAcc) (x : LAcc) (s : State),
    canSettle i s = true → (s.hart i.hart).sb.length < 48 → accCheck i.hart .block { a with size := 1 } s = .ok x →
    x.pbmt ≠ 2 → inDram x.pa s = true →
    Gives (.cboInval i a) s fun t =>
      (t.hart i.hart).sb.map (fun e => (e.kind, e.pa)) = (s.hart i.hart).sb.map (fun e => (e.kind, e.pa)) ++ [(.cboI,
        lineOf x.pa)] ∧
      Moved i t) ∧
  (∀ (i : Issue) (a : MemAcc) (x : LAcc) (s : State),
    canSettle i s = true → (s.hart i.hart).sb.length < 48 → accCheck i.hart .store { a with size := 1 } s = .ok x →
    x.pbmt ≠ 2 → inDram x.pa s = true →
    Gives (.cboZero i a) s fun t =>
      (t.hart i.hart).sb.map (fun e => (e.kind, e.pa)) = (s.hart i.hart).sb.map (fun e => (e.kind, e.pa)) ++ [(.cboZ,
        lineOf x.pa)] ∧
      Moved i t) ∧
  (∀ (i : Issue) (v : Nat) (base : Word) (y : Xlate) (x : LAcc) (s : State),
    canIssue i s = true → (s.hart i.hart).loads = [] → XtOk i s → i.rd % 2 = 0 →
    accCheck i.hart .load { va := base + i.immI, size := 16, x := y } s = .ok x → x.va.toNat % 16 = 0 → x.pa2 = none →
    x.pbmt = 0 → inDram x.pa s = true → sbForward x.pa x.size (s.hart i.hart).sb = .data v →
    Gives (.ldPair i base y) s fun t =>
      (t.hart i.hart).getX i.rd = (if i.rd = 0 then 0 else BitVec.ofNat 64 (v % 2 ^ 64)) ∧
      (t.hart i.hart).getX (i.rd + 1) = BitVec.ofNat 64 (v / 2 ^ 64) ∧ Moved i t) ∧
  (∀ (i : Issue) (base : Word) (y : Xlate) (s : State),
    canIssue i s = true → XtOk i s → i.rd % 2 = 1 →
    Gives (.ldPair i base y) s fun t => Raised i 2 (BitVec.ofNat 64 i.enc.toNat) t) ∧
  (∀ (i : Issue) (base lo hi : Word) (y : Xlate) (x : LAcc) (s : State),
    canSettle i s = true → (s.hart i.hart).sb.length < 48 → XtOk i s → i.funct3 = 0 → i.rs2 % 2 = 0 →
    accCheck i.hart .store { va := base + i.immS, size := 16, x := y } s = .ok x → x.va.toNat % 16 = 0 → x.pbmt ≠ 2 →
    inIo x.pa = false →
    Gives (.sdPair i base y lo hi) s fun t =>
      (t.hart i.hart).sb.getLast? = some (pieceEntry ⟨x.pa, 16, lo.toNat + hi.toNat * 2 ^ 64⟩ (s.hart i.hart).w x.pbmt
        (txPart i.hart s) i.cls) ∧
      (t.hart i.hart).sb.length = (s.hart i.hart).sb.length + 1 ∧ Moved i t) ∧
  (∀ (i : Issue) (base lo hi : Word) (y : Xlate) (s : State),
    canSettle i s = true → (s.hart i.hart).sb.length < 48 → XtOk i s → (i.funct3 ≠ 0 ∨ i.rs2 % 2 = 1) →
    Gives (.sdPair i base y lo hi) s fun t => Raised i 2 (BitVec.ofNat 64 i.enc.toNat) t) ∧
  (∀ (h k : Nat) (e : SbEntry) (r : List SbEntry) (s : State),
    2 ≤ s.f F.PWR_DIE_STATE (hartDie h s) → (s.hart h).sb = e :: r → (s.hart h).loads = [] →
    (s.hart h).stall = .none → e.kind = .store → e.sent = false → inDram e.pa s = true → e.pbmt = 0 →
    l2On (coreOf h s) s = true → l2Owned (coreOf h s) (e.pa / 64) s = some k → (e.w = true ∨ (s.l2L k).w = false) →
    (e.part = 0 ∨ (s.l2L k).px = true) →
    Gives (.storeBufferEntryLeave h none) s fun t =>
      (t.l2L k).st = 3 ∧ (t.l2L k).data = mergeLine (s.l2L k).data (sbLine e).1 (sbLine e).2 ∧ (t.hart h).sb = r) ∧
  (∀ (h : Nat) (e : SbEntry) (r : List SbEntry) (s : State),
    2 ≤ s.f F.PWR_DIE_STATE (hartDie h s) → (s.hart h).sb = e :: r → e.kind = .store → e.sent = false →
    inDram e.pa s = true → e.pbmt = 1 →
    Gives (.storeBufferEntryLeave h none) s fun t =>
      t.txs.getLast?.map (fun q => (q.op, q.addr, q.tgt)) = some (Op.wrNC, e.pa / 64 * 64, 0x100 + mcOf e.pa) ∧
      (t.hart h).sb = { e with sent := true } :: r)

/-- A NEAR AMO on an owned line writes the result into the L2 and the old value into rd, and an AMO placed elsewhere
leaves as AtmH; LR takes the line and the reservation; SC stores and answers 0 while the reservation stands on an owned
line, and otherwise answers 1, and ends it either way; a misaligned atomic raises its exception; fences pass once what
they wait for is done; WFI and WRS park the core unless an interrupt is pending. (R110, R111, R186, R187, R189, R209,
R232.) -/
def Obligations.AtomicsFencesAndWaits : Prop :=
  (∀ (i : Issue) (rd k : Nat) (a : MemAcc) (x : LAcc) (d : Line) (po : BitVec 2) (op : Nat) (v : Word) (s : State),
    canDrained i s = true → a.va.toNat % a.size = 0 → accCheck i.hart .store a s = .ok x → rd < 32 →
    atomicPlace x.pa s = 0 → x.pbmt = 0 → inDram x.pa s = true → l2Owned (coreOf i.hart s) (x.pa / 64) s = some k →
    hitRule (s.hart i.hart).w (s.hart i.hart).virt (s.l2L k).w (s.l2L k).px (s.l2L k).data (s.l2L k).poison = .data d
      po →
    poisonIn po (x.pa % 64) x.size = false →
    Gives (.amo i op rd a v) s fun t =>
      (t.l2L k).data = mergeLine (s.l2L k).data (linePut 0 (x.pa % 64) x.size (amoResult op x.size (lineBytes d (x.pa
        % 64) x.size) v.toNat)) (byteMask (x.pa % 64) x.size) ∧
      (t.l2L k).st = 3 ∧
      (t.hart i.hart).getX rd = (if rd = 0 then 0 else extend true x.size (lineBytes d (x.pa % 64) x.size)) ∧
      Moved i t) ∧
  (∀ (i : Issue) (op rd : Nat) (v : Word) (a : MemAcc) (x : LAcc) (s : State),
    canDrained i s = true → a.va.toNat % a.size = 0 → accCheck i.hart .store a s = .ok x → x.pbmt ≠ 2 →
    inDram x.pa s = true → (x.pbmt ≠ 0 ∨ atomicPlace x.pa s ≠ 0) →
    vbFind (coreOf i.hart s / 20) (x.pa / 64) s = none →
    Gives (.amo i op rd a v) s fun t =>
      t.txs.getLast?.map (fun q => (q.op, q.addr, q.tgt, q.own)) = some (Op.atmH, lineOf x.pa, 0x100 + mcOf x.pa,
        TxOwner.amo i.hart (s.hart i.hart).nextId) ∧
      Moved i t) ∧
  (∀ (i : Issue) (rd k : Nat) (a : MemAcc) (x : LAcc) (d : Line) (po : BitVec 2) (s : State),
    canDrained i s = true → a.va.toNat % a.size = 0 → accCheck i.hart .load a s = .ok x → rd < 32 → x.pbmt = 0 →
    inDram x.pa s = true → l2Owned (coreOf i.hart s) (x.pa / 64) s = some k →
    hitRule (s.hart i.hart).w (s.hart i.hart).virt (s.l2L k).w (s.l2L k).px (s.l2L k).data (s.l2L k).poison = .data d
      po →
    poisonIn po (x.pa % 64) x.size = false →
    Gives (.lr i rd a) s fun t =>
      (t.hart i.hart).resv = some (x.pa / 64) ∧ (t.l2L k).st = 3 ∧
      (t.hart i.hart).getX rd = (if rd = 0 then 0 else extend true x.size (lineBytes d (x.pa % 64) x.size)) ∧
      Moved i t) ∧
  (∀ (i : Issue) (rd k : Nat) (a : MemAcc) (x : LAcc) (d : Line) (po : BitVec 2) (v : Word) (s : State),
    canDrained i s = true → a.va.toNat % a.size = 0 → accCheck i.hart .store a s = .ok x → rd < 32 →
    (s.hart i.hart).resv = some (x.pa / 64) → x.pbmt = 0 → inDram x.pa s = true →
    l2Owned (coreOf i.hart s) (x.pa / 64) s = some k →
    hitRule (s.hart i.hart).w (s.hart i.hart).virt (s.l2L k).w (s.l2L k).px (s.l2L k).data (s.l2L k).poison = .data d
      po →
    Gives (.sc i rd a v) s fun t =>
      (t.l2L k).data = mergeLine (s.l2L k).data (linePut 0 (x.pa % 64) x.size v.toNat) (byteMask (x.pa % 64) x.size) ∧
      (t.hart i.hart).resv = none ∧ (t.hart i.hart).getX rd = 0 ∧ Moved i t) ∧
  (∀ (i : Issue) (rd : Nat) (a : MemAcc) (x : LAcc) (v : Word) (s : State),
    canDrained i s = true → a.va.toNat % a.size = 0 → accCheck i.hart .store a s = .ok x → rd < 32 → x.pbmt ≠ 2 →
    inDram x.pa s = true → (s.hart i.hart).resv ≠ some (x.pa / 64) →
    Gives (.sc i rd a v) s fun t =>
      t.l2 = s.l2 ∧ (t.hart i.hart).resv = none ∧ (t.hart i.hart).getX rd = (if rd = 0 then 0 else 1) ∧ Moved i t) ∧
  (∀ (i : Issue) (op rd : Nat) (a : MemAcc) (v : Word) (s : State),
    canDrained i s = true → a.va.toNat % a.size ≠ 0 →
    Gives (.amo i op rd a v) s fun t => Raised i 6 a.va t) ∧
  (∀ (i : Issue) (rd : Nat) (a : MemAcc) (s : State),
    canDrained i s = true → a.va.toNat % a.size ≠ 0 →
    Gives (.lr i rd a) s fun t => Raised i 4 a.va t) ∧
  (∀ (i : Issue) (rd : Nat) (a : MemAcc) (v : Word) (s : State),
    canDrained i s = true → a.va.toNat % a.size ≠ 0 →
    Gives (.sc i rd a v) s fun t => Raised i 6 a.va t) ∧
  (∀ (i : Issue) (p q : Nat) (s : State),
    canDrained i s = true →
    Gives (.fence i p q) s fun t => Moved i t ∧ (t.hart i.hart).x = (s.hart i.hart).x) ∧
  (∀ (i : Issue) (p q : Nat) (s : State),
    canSettle i s = true → p.testBit 0 = false → p.testBit 2 = false →
    Gives (.fence i p q) s fun t => Moved i t ∧ (t.hart i.hart).sb = (s.hart i.hart).sb) ∧
  (∀ (i : Issue) (p q : Nat) (s : State),
    (p.testBit 0 = true ∨ p.testBit 2 = true) → (s.hart i.hart).sb ≠ [] →
    Gives (.fence i p q) s fun t => t = s) ∧
  (∀ (i : Issue) (s : State),
    canDrained i s = true →
    Gives (.fenceI i) s fun t => Moved i t ∧ (t.hart i.hart).x = (s.hart i.hart).x) ∧
  (∀ (i : Issue) (s : State),
    canDrained i s = true → sfenceFault i s = none →
    Gives (.sfenceVma i) s fun t => Moved i t ∧ (t.hart i.hart).x = (s.hart i.hart).x) ∧
  (∀ (i : Issue) (s : State),
    canDrained i s = true → (s.hart i.hart).priv = 0 → (s.hart i.hart).virt = false →
    Gives (.sfenceVma i) s fun t => Raised i 2 (BitVec.ofNat 64 i.enc.toNat) t) ∧
  (∀ (i : Issue) (s : State),
    canDrained i s = true → irqWakes i.hart s = false → wfiFault i.hart s = none →
    Gives (.wfi i) s fun t => (t.hart i.hart).st = .wait .wfi ∧ Moved i t) ∧
  (∀ (i : Issue) (s : State),
    canDrained i s = true → irqWakes i.hart s = true →
    Gives (.wfi i) s fun t => (t.hart i.hart).st = .run ∧ Moved i t) ∧
  (∀ (i : Issue) (s : State),
    canDrained i s = true → (s.hart i.hart).resv ≠ none → irqWakes i.hart s = false →
    Gives (.wrsNto i) s fun t => (t.hart i.hart).st = .wait (.wrs false) ∧ Moved i t) ∧
  (∀ (i : Issue) (s : State),
    canDrained i s = true → (s.hart i.hart).resv = none →
    Gives (.wrsNto i) s fun t => (t.hart i.hart).st = .run ∧ Moved i t) ∧
  (∀ (i : Issue) (s : State),
    canDrained i s = true → (s.hart i.hart).resv ≠ none → irqWakes i.hart s = false →
    Gives (.wrsSto i) s fun t => (t.hart i.hart).st = .wait (.wrs true) ∧ Moved i t) ∧
  (∀ (i : Issue) (s : State),
    canDrained i s = true → (s.hart i.hart).resv = none →
    Gives (.wrsSto i) s fun t => (t.hart i.hart).st = .run ∧ Moved i t)

/-- Taking an exception in M-mode saves the pc, cause, tval and status and goes to mtvec; an interrupt taken there does
the same with its cause bit set; MRET and SRET restore pc and mode; MRET with NEXT_W = 0 returns to the Open world with
the saved pc, status and mode; a CSR instruction reads the old value into rd and writes; one that the mode forbids
raises its exception; mzdcfg and szdtdbase keep their fields, and the latter empties the descriptor cache. (R102, R103,
R104, R105, R106, R136, R211, R381.) -/
def Obligations.TrapsReturnsAndCsrs : Prop :=
  (∀ (h : Nat) (x : Trap) (s : State),
    canTrap h s = true → (s.hart h).trap = some x → excTarget (s.hart h) x.cause = 3 →
    Gives (.trapEntry h) s fun t =>
      (t.hart h).priv = 3 ∧ (t.hart h).virt = false ∧ (t.hart h).pc = (s.hart h).c 0x305 &&& ~~~ 3#64 ∧
      (t.hart h).c 0x341 = x.epc ∧ (t.hart h).c 0x342 = BitVec.ofNat 64 x.cause ∧ (t.hart h).c 0x343 = x.tval ∧
      bits ((t.hart h).c CSR.mstatus) 3 3 = 0 ∧
      bits ((t.hart h).c CSR.mstatus) 7 7 = bits ((s.hart h).c CSR.mstatus) 3 3 ∧
      bits ((t.hart h).c CSR.mstatus) 12 11 = (s.hart h).priv % 4 ∧ (t.hart h).trap = none) ∧
  (∀ (h c : Nat) (s : State),
    canTrap h s = true → (s.hart h).trap = none → secureIrq h s = false → irqTaken h s = some (c, 3) →
    Gives (.trapEntry h) s fun t =>
      (t.hart h).priv = 3 ∧ (t.hart h).c 0x341 = (s.hart h).pc ∧ (t.hart h).c 0x342 = BitVec.ofNat 64 (c + 2 ^ 63) ∧
      (t.hart h).st = .run ∧
      (t.hart h).pc = ((s.hart h).c 0x305 &&& ~~~ 3#64) + (if ((s.hart h).c 0x305).getLsbD 0 then BitVec.ofNat 64 (4 *
        c) else 0)) ∧
  (∀ (i : Issue) (s : State),
    canSettle i s = true → (s.hart i.hart).priv = 3 → ((s.hart i.hart).w = false ∨ (s.hart i.hart).nextW = true) →
    Gives (.mret i) s fun t =>
      (t.hart i.hart).pc = (s.hart i.hart).c 0x341 ∧
      (t.hart i.hart).priv = bits ((s.hart i.hart).c CSR.mstatus) 12 11 ∧ (t.hart i.hart).w = (s.hart i.hart).w ∧
      bits ((t.hart i.hart).c CSR.mstatus) 3 3 = bits ((s.hart i.hart).c CSR.mstatus) 7 7 ∧
      bits ((t.hart i.hart).c CSR.mstatus) 12 11 = 0) ∧
  (∀ (i : Issue) (s : State),
    canSettle i s = true → (s.hart i.hart).priv = 3 → (s.hart i.hart).w = true → (s.hart i.hart).nextW = false →
    (s.hart i.hart).sb = [] → effI false s = false →
    ((List.range 8).all fun k => bits ((s.hart i.hart).c (0x1000 + k)) 63 60 == 15) = true →
    Gives (.mret i) s fun t =>
      (t.hart i.hart).w = false ∧ (t.hart i.hart).pc = s.r .WC_SAVE_PC i.hart ∧
      (t.hart i.hart).c CSR.mstatus = mstatusPut 0 (s.r .WC_SAVE_STATUS i.hart) ∧ (t.hart i.hart).tdc = [] ∧
      (t.hart i.hart).pend = none ∧
      (bits (s.r .WC_SAVE_MODE i.hart) 1 0 ≠ 2 → (t.hart i.hart).priv = bits (s.r .WC_SAVE_MODE i.hart) 1 0)) ∧
  (∀ (i : Issue) (s : State),
    canSettle i s = true → (s.hart i.hart).priv ≠ 3 →
    Gives (.mret i) s fun t => Raised i 2 (BitVec.ofNat 64 i.enc.toNat) t) ∧
  (∀ (i : Issue) (s : State),
    canSettle i s = true → (s.hart i.hart).priv = 3 → ((s.hart i.hart).w = false ∨ (s.hart i.hart).nextW = true) →
    Gives (.xret i 3) s fun t =>
      (t.hart i.hart).pc = (s.hart i.hart).c 0x341 ∧
      (t.hart i.hart).priv = bits ((s.hart i.hart).c CSR.mstatus) 12 11 ∧ (t.hart i.hart).tdc = (s.hart i.hart).tdc ∧
      (t.hart i.hart).pend = (s.hart i.hart).pend) ∧
  (∀ (i : Issue) (s : State),
    canSettle i s = true → (s.hart i.hart).virt = false → sretFault i.hart s = none →
    Gives (.xret i 1) s fun t =>
      (t.hart i.hart).pc = (s.hart i.hart).c 0x141 ∧ (t.hart i.hart).priv = bits ((s.hart i.hart).c CSR.mstatus) 8 8 ∧
      (t.hart i.hart).virt = (s.hart i.hart).cb CSR.hstatus 7) ∧
  (∀ (i : Issue) (addr op : Nat) (v : Word) (wr : Bool) (rd : Nat) (s : State),
    canSettle i s = true → rd < 32 → addr ≠ CSR.mzdcfg → csrFault (s.hart i.hart) addr wr = none →
    (csrAlias (s.hart i.hart) addr ≠ 0x351 ∧ csrAlias (s.hart i.hart) addr ≠ 0x151 ∧ csrAlias (s.hart i.hart) addr ≠
      0x251) →
    Gives (.csrAccess i addr op v wr rd) s fun t =>
      (t.hart i.hart).getX rd = (if rd = 0 then 0 else csrRead i.hart addr s) ∧ Moved i t) ∧
  (∀ (i : Issue) (op : Nat) (v : Word) (rd : Nat) (s : State),
    canSettle i s = true → (s.hart i.hart).priv = 3 →
    Gives (.csrAccess i 0x340 op v true rd) s fun t =>
      (t.hart i.hart).c 0x340 = csrCombine op ((s.hart i.hart).c 0x340) v ∧ Moved i t) ∧
  (∀ (i : Issue) (addr op c : Nat) (v : Word) (wr : Bool) (rd : Nat) (s : State),
    canSettle i s = true → addr ≠ CSR.mzdcfg → csrFault (s.hart i.hart) addr wr = some c →
    Gives (.csrAccess i addr op v wr rd) s fun t =>
      Raised i c (BitVec.ofNat 64 i.enc.toNat) t ∧ (t.hart i.hart).csr = (s.hart i.hart).csr) ∧
  (∀ (i : Issue) (v : Word) (rd : Nat) (s : State),
    canDrained i s = true → (s.hart i.hart).priv = 3 →
    Gives (.mzdcfgWrite i v rd) s fun t => (t.hart i.hart).c CSR.mzdcfg = v &&& 0xF#64 ∧ Moved i t) ∧
  (∀ (i : Issue) (v : Word) (rd : Nat) (s : State),
    canDrained i s = true → (s.hart i.hart).priv < 3 →
    Gives (.mzdcfgWrite i v rd) s fun t =>
      Raised i 2 (BitVec.ofNat 64 i.enc.toNat) t ∧ (t.hart i.hart).csr = (s.hart i.hart).csr) ∧
  (∀ (i : Issue) (v : Word) (rd : Nat) (s : State),
    canSettle i s = true → (s.hart i.hart).priv ≠ 0 → (s.hart i.hart).virt = false →
    Gives (.szdtdbaseWrite i v rd) s fun t =>
      (t.hart i.hart).c CSR.szdtdbase = v &&& ~~~ 0x3FFF#64 ∧ (t.hart i.hart).tdc = [] ∧ Moved i t)

/-- PH.READ gives the value of the replica; PH.WAIT completes at once when the value is not before the target and
otherwise stalls until it is, or raises exception 25 when the replica is lost; DL.SET arms a monitor and DL.CLR disarms
it and reads MISS; a missed deadline sets MISS and clears EN; TS.STORE allocates an entry, or stalls, or raises 24 when
the queue is full; a timed store becomes pending in the PHE, matches when the count crosses its phase, commits as an HP
write, or is cancelled. (R119, R120, R122, R123, R124, R126, R127, R128, R131, R132, R133.) -/
def Obligations.PhaseInstructions : Prop :=
  (∀ (i : Issue) (s : State),
    canSettle i s = true → XtOk i s → i.enc &&& 0xFF0F8000#32 = 0 → i.src ≤ 8 →
    replicaValid (hartDie i.hart s) s = true →
    Gives (.phRead i) s fun t =>
      (t.hart i.hart).getX i.rd = (if i.rd = 0 then 0 else replicaValue (hartDie i.hart s) i.src s) ∧ Moved i t) ∧
  (∀ (i : Issue) (v : Word) (s : State),
    canSettle i s = true → XtOk i s → i.enc &&& 0xFF000000#32 = 0 → i.src ≤ 8 →
    replicaValid (hartDie i.hart s) s = true → phAfter v (replicaValue (hartDie i.hart s) i.src s) = false →
    Gives (.phWait i v) s fun t =>
      (t.hart i.hart).getX i.rd = (if i.rd = 0 then 0 else replicaValue (hartDie i.hart s) i.src s) ∧ Moved i t) ∧
  (∀ (i : Issue) (v : Word) (s : State),
    canSettle i s = true → XtOk i s → i.enc &&& 0xFF000000#32 = 0 → i.src ≤ 8 →
    replicaValid (hartDie i.hart s) s = true → phAfter v (replicaValue (hartDie i.hart s) i.src s) = true →
    Gives (.phWait i v) s fun t =>
      (t.hart i.hart).stall = .phWait i.rd i.src v i.len i.enc ∧ (t.hart i.hart).pc = (s.hart i.hart).pc ∧
      (t.hart i.hart).x = (s.hart i.hart).x) ∧
  (∀ (h rd src len : Nat) (v : Word) (enc : BitVec 32) (s : State),
    (s.hart h).stall = .phWait rd src v len enc → stallRuns h s = true → replicaValid (hartDie h s) s = true →
    phAfter v (replicaValue (hartDie h s) src s) = false → rd < 32 →
    Gives (.phWaitComplete h) s fun t =>
      (t.hart h).stall = .none ∧ (t.hart h).getX rd = (if rd = 0 then 0 else replicaValue (hartDie h s) src s) ∧
      (t.hart h).pc = (s.hart h).pc + BitVec.ofNat 64 len) ∧
  (∀ (h rd src len : Nat) (v : Word) (enc : BitVec 32) (s : State),
    (s.hart h).stall = .phWait rd src v len enc → stallRuns h s = true → replicaValid (hartDie h s) s = false →
    Gives (.phWaitComplete h) s fun t =>
      (t.hart h).stall = .none ∧
      (t.hart h).trap = some { cause := 25, tval := BitVec.ofNat 64 enc.toNat, epc := (s.hart h).pc }) ∧
  (∀ (i : Issue) (v : Word) (s : State),
    canSettle i s = true → XtOk i s → i.enc &&& 0xFC000F80#32 = 0 → i.src ≤ 8 →
    replicaValid (hartDie i.hart s) s = true →
    Gives (.dlSet i v) s fun t =>
      (t.hart i.hart).monEn i.mon = true ∧ (t.hart i.hart).miss i.mon = false ∧ (t.hart i.hart).monSrc i.mon = i.src ∧
      (t.hart i.hart).c (0x5C0 + i.mon) = v ∧ Moved i t) ∧
  (∀ (i : Issue) (s : State),
    canSettle i s = true → XtOk i s → i.enc &&& 0xFCFF8000#32 = 0 → (s.hart i.hart).monEn i.mon = false →
    Gives (.dlClr i) s fun t =>
      (t.hart i.hart).monEn i.mon = false ∧
      (t.hart i.hart).getX i.rd = (if i.rd = 0 then 0 else if (s.hart i.hart).miss i.mon then 1 else 0) ∧ Moved i t) ∧
  (∀ (i : Issue) (s : State),
    canSettle i s = true → XtOk i s → i.enc &&& 0xFCFF8000#32 = 0 → (s.hart i.hart).monEn i.mon = true →
    (replicaValid (hartDie i.hart s) s = false ∨ phBefore ((s.hart i.hart).c (0x5C0 + i.mon)) (replicaValue (hartDie
      i.hart s) ((s.hart i.hart).monSrc i.mon) s) = true) →
    Gives (.dlClr i) s fun t =>
      (t.hart i.hart).monEn i.mon = false ∧ (t.hart i.hart).miss i.mon = true ∧
      (t.hart i.hart).getX i.rd = (if i.rd = 0 then 0 else 1)) ∧
  (∀ (h m : Nat) (s : State),
    m < 4 → (s.hart h).monEn m = true →
    (replicaValid (hartDie h s) s = false ∨ phBefore ((s.hart h).c (0x5C0 + m)) (replicaValue (hartDie h s) ((s.hart
      h).monSrc m) s) = true) →
    Gives (.deadlineMiss h m) s fun t => (t.hart h).miss m = true ∧ (t.hart h).monEn m = false) ∧
  (∀ (h m : Nat) (s : State),
    (s.hart h).monEn m = false →
    Gives (.deadlineMiss h m) s fun t => t = s) ∧
  (∀ (i : Issue) (pa pbmt : Nat) (va : Word) (y : Xlate) (data : Nat) (ph : Word) (s : State),
    canSettle i s = true → (s.hart i.hart).sb.length < 48 → XtOk i s → i.enc &&& 0x00000800#32 = 0 →
    xlated i.hart .store va y s = .ok (pa, pbmt) → tsTarget pa i.tsSize va = none → (s.tsQ i.hart).length < 16 →
    Gives (.tsStore i va y data ph) s fun t =>
      t.tsQ i.hart = s.tsQ i.hart ++
        [⟨tsNewId i.hart s, ⟨pa, i.tsSize, data % 2 ^ (8 * i.tsSize), ph, i.tsSrc, i.tsLd, (s.hart i.hart).w, hartPart i.hart s⟩, 0, 0⟩]
        ∧
      (t.hart i.hart).sb.length = (s.hart i.hart).sb.length + 1 ∧ Moved i t) ∧
  (∀ (i : Issue) (pa pbmt : Nat) (va : Word) (y : Xlate) (data : Nat) (ph : Word) (s : State),
    canSettle i s = true → (s.hart i.hart).sb.length < 48 → XtOk i s → i.enc &&& 0x00000800#32 = 0 →
    xlated i.hart .store va y s = .ok (pa, pbmt) → tsTarget pa i.tsSize va = none → 16 ≤ (s.tsQ i.hart).length →
    bit ((s.hart i.hart).c CSR.mzdtsq) 8 = true →
    Gives (.tsStore i va y data ph) s fun t =>
      Raised i 24 (BitVec.ofNat 64 i.enc.toNat) t ∧ t.tsQ i.hart = s.tsQ i.hart) ∧
  (∀ (i : Issue) (pa pbmt : Nat) (va : Word) (y : Xlate) (data : Nat) (ph : Word) (s : State),
    canSettle i s = true → (s.hart i.hart).sb.length < 48 → XtOk i s → i.enc &&& 0x00000800#32 = 0 →
    xlated i.hart .store va y s = .ok (pa, pbmt) → tsTarget pa i.tsSize va = none → 16 ≤ (s.tsQ i.hart).length →
    bit ((s.hart i.hart).c CSR.mzdtsq) 8 = false →
    Gives (.tsStore i va y data ph) s fun t =>
      (t.hart i.hart).stall ≠ .none ∧ (t.hart i.hart).pc = (s.hart i.hart).pc ∧ t.tsQ i.hart = s.tsQ i.hart) ∧
  (∀ (i : Issue) (pa pbmt : Nat) (va : Word) (y : Xlate) (data : Nat) (ph : Word) (s : State),
    canSettle i s = true → (s.hart i.hart).sb.length < 48 → XtOk i s → i.enc &&& 0x00000800#32 = 0 →
    xlated i.hart .store va y s = .ok (pa, pbmt) → va.toNat % i.tsSize ≠ 0 →
    Gives (.tsStore i va y data ph) s fun t => Raised i 6 va t) ∧
  (∀ (h len pbmt : Nat) (x : TsInfo) (cls : TClass) (s : State),
    (s.hart h).stall = .tsFull x len pbmt cls → stallRuns h s = true → (s.tsQ h).length < 16 →
    (s.hart h).sb.length < 48 →
    Gives (.tsStoreUnstall h) s fun t =>
      (t.hart h).stall = .none ∧ (t.tsQ h).map (·.info) = (s.tsQ h).map (·.info) ++ [x] ∧
      (t.hart h).pc = (s.hart h).pc + BitVec.ofNat 64 len) ∧
  (∀ (h k : Nat) (e : TsEntry) (s : State),
    s.out.contains (.timed h k) = true → bridgeActive (hartDie h s) s = true → tsBehind h (.timed h k) s = false →
    (s.tsQ h).find? (fun x => x.id == k && x.stage == 0) = some e →
    (sourceLive e.info.src s = true → phAfter e.info.phase (sourceCount e.info.src s) = true) →
    Gives (.timedStore h k) s fun t =>
      t.tsQ h = (s.tsQ h).map (fun x => if x.id = k then { x with stage := 1 } else x) ∧
      t.out = s.out.erase (.timed h k)) ∧
  (∀ (h k : Nat) (e : TsEntry) (s : State),
    s.out.contains (.timed h k) = true → bridgeActive (hartDie h s) s = true → tsBehind h (.timed h k) s = false →
    (s.tsQ h).find? (fun x => x.id == k && x.stage == 0) = some e → sourceLive e.info.src s = true →
    phAfter e.info.phase (sourceCount e.info.src s) = false → e.info.ld = true →
    Gives (.timedStore h k) s fun t =>
      t.b F.PHE_TSQ_STATUS_LATE (tsIx h e.info.w) = true ∧ (∀ x ∈ t.tsQ h, x.id ≠ k)) ∧
  (∀ (h k : Nat) (e : TsEntry) (s : State),
    (s.tsQ h).find? (fun x => x.id == k && x.stage == 1) = some e → sourceLive e.info.src s = true →
    crosses 0 (sourcePrev e.info.src s) (sourceCount e.info.src s) e.info.phase = true →
    Gives (.timedStoreMatch h k) s fun t =>
      t.tsQ h = (s.tsQ h).map (fun x => if x.id = k then
        { x with stage := 2, inst := matchInstant s.tb (sourcePrev e.info.src s) (sourceCount e.info.src s) e.info.phase }
        else x)) ∧
  (∀ (h : Nat) (e : TsEntry) (s : State),
    tsNext s = some (h, e) →
    Gives (.timedStoreCommitIssue) s fun t =>
      t.txs.getLast?.map (fun q => (q.own, q.op, q.addr)) = some (TxOwner.timed h e.id, Op.wrIO, lineOf e.info.pa) ∧
      t.tsQ h = (s.tsQ h).map (fun y => if y.id = e.id then { y with stage := 3 } else y)) ∧
  (∀ (i : Issue) (va : Word) (y : Xlate) (s : State),
    canSettle i s = true → XtOk i s → (∀ e ∈ s.tsQ i.hart, e.stage ≠ 0) → i.enc &&& 0xFFF00000#32 = 0 → i.rs1 = 0 →
    Gives (.tsCancelI i va y) s fun t =>
      t.out = s.out ++ [.tsCancel i.hart (s.hart i.hart).w none] ∧ (t.hart i.hart).stall = .tsCancel i.rd i.len) ∧
  (∀ (i : Issue) (pa pbmt : Nat) (va : Word) (y : Xlate) (s : State),
    canSettle i s = true → XtOk i s → (∀ e ∈ s.tsQ i.hart, e.stage ≠ 0) → i.enc &&& 0xFFF00000#32 = 0 → i.rs1 ≠ 0 →
    xlated i.hart .store va y s = .ok (pa, pbmt) →
    Gives (.tsCancelI i va y) s fun t =>
      t.out = s.out ++ [.tsCancel i.hart (s.hart i.hart).w (some pa)] ∧ (t.hart i.hart).stall = .tsCancel i.rd i.len) ∧
  (∀ (h rd len : Nat) (w : Bool) (ad : Option Nat) (s : State),
    s.out.contains (.tsCancel h w ad) = true → bridgeActive (hartDie h s) s = true →
    tsBehind h (.tsCancel h w ad) s = false → (s.hart h).stall = .tsCancel rd len → rd < 32 →
    Gives (.timedStoreCancel h w ad) s fun t =>
      t.tsQ h = (s.tsQ h).filter (fun e => !(e.stage == 1 && e.info.w == w && (ad.isNone || ad == some e.info.pa))) ∧
      (t.hart h).getX rd = (if rd = 0 then 0 else BitVec.ofNat 64 ((s.tsQ h).length - (t.tsQ h).length)) ∧
      (t.hart h).stall = .none)

/-- TK.YIELD starts a held dispatch whose descriptor is cached at the pc, with the task state, of its descriptor, and
otherwise parks the core; TK.ARG reads the task state; a dispatch reaches a parked core as a task and a running one as
the held dispatch, and is dropped with error 3 when that slot is full; below M-mode the Xzdtime instructions need mzdcfg
bit 2, and with V = 1 bit 3; PH.READ, PH.WAIT and DL.SET raise exception 25 while the replica is not valid. (R83, R111,
R113, R114, R115, R135, R137, R138.) -/
def Obligations.TasksAndDispatch : Prop :=
  (∀ (i : Issue) (hint : Word) (x : Xlate) (d : Disp) (l : Line) (s : State),
    canDrained i s = true → XtOk i s → i.enc &&& 0xFFF00F80#32 = 0 → (s.hart i.hart).pend = some d →
    tdcFind d.desc (s.hart i.hart).tdc = some l →
    Gives (.tkYield i hint x) s fun t =>
      (t.hart i.hart).pc = descWord l 0 &&& ~~~ 1#64 ∧ (t.hart i.hart).st = .run ∧ (t.hart i.hart).pend = none ∧
      (t.hart i.hart).task0 = BitVec.ofNat 64 d.arg.toNat ∧ (t.hart i.hart).task1 = d.phase ∧
      (t.hart i.hart).task3 = d.inst) ∧
  (∀ (i : Issue) (hint : Word) (x : Xlate) (s : State),
    canDrained i s = true → XtOk i s → i.enc &&& 0xFFF00F80#32 = 0 → (s.hart i.hart).pend = none →
    irqTaken i.hart s = none → secureIrq i.hart s = false → i.rs1 = 0 →
    Gives (.tkYield i hint x) s fun t =>
      (t.hart i.hart).st = .wait .disp ∧ (t.hart i.hart).pc = (s.hart i.hart).pc) ∧
  (∀ (i : Issue) (s : State),
    canSettle i s = true → XtOk i s → i.enc &&& 0xFFCF8000#32 = 0 →
    Gives (.tkArg i) s fun t =>
      (t.hart i.hart).getX i.rd = (if i.rd = 0 then 0 else if i.sel = 0 then (s.hart i.hart).task0 else if i.sel = 1
        then (s.hart i.hart).task1 else if i.sel = 2 then (s.hart i.hart).task2 else (s.hart i.hart).task3) ∧
      Moved i t) ∧
  (∀ (h desc : Nat) (arg : BitVec 32) (ph inst : Word) (e src : Nat) (late w : Bool) (part : Nat) (x : Xlate) (s :
    State),
    s.out.contains (Msg.dispatch h desc arg ph inst e src late w part) = true → dieOn (hartDie h s) s = true →
    bridgeActive (hartDie h s) s = true → parkedDisp h s = false → (s.hart h).pend = none →
    Gives (.dispatch h desc arg ph inst e src late w part x) s fun t =>
      (t.hart h).pend = some ⟨desc, arg, ph, inst, e, src, late⟩ ∧
      t.out = s.out.erase (Msg.dispatch h desc arg ph inst e src late w part)) ∧
  (∀ (h desc : Nat) (arg : BitVec 32) (ph inst : Word) (e src : Nat) (late w : Bool) (part : Nat) (x : Xlate) (s :
    State),
    s.out.contains (Msg.dispatch h desc arg ph inst e src late w part) = true → dieOn (hartDie h s) s = true →
    bridgeActive (hartDie h s) s = true → parkedDisp h s = false → (s.hart h).pend ≠ none →
    Gives (.dispatch h desc arg ph inst e src late w part x) s fun t =>
      t.b F.PHE_CAL_STATUS_ERR 0 = true ∧ t.f F.PHE_CAL_ERR_CODE 0 = 3 ∧ (t.hart h).pend = (s.hart h).pend) ∧
  (∀ (h desc : Nat) (arg : BitVec 32) (ph inst : Word) (e src : Nat) (late w : Bool) (part : Nat) (x : Xlate) (l :
    Line) (s : State),
    s.out.contains (Msg.dispatch h desc arg ph inst e src late w part) = true → dieOn (hartDie h s) s = true →
    bridgeActive (hartDie h s) s = true → parkedDisp h s = true → tdcFind desc (s.hart h).tdc = some l →
    Gives (.dispatch h desc arg ph inst e src late w part x) s fun t =>
      (t.hart h).pc = descWord l 0 &&& ~~~ 1#64 ∧ (t.hart h).st = .run ∧ (t.hart h).task1 = ph ∧
      (t.hart h).task3 = inst) ∧
  (∀ (i : Issue) (s : State),
    canDrained i s = true → s.tsQ i.hart = [] → (s.hart i.hart).priv < 3 →
    bit ((s.hart i.hart).c CSR.mzdcfg) 2 = false →
    Gives (.phRead i) s fun t => Raised i 2 (BitVec.ofNat 64 i.enc.toNat) t) ∧
  (∀ (i : Issue) (v : Word) (s : State),
    canDrained i s = true → s.tsQ i.hart = [] → (s.hart i.hart).priv < 3 →
    bit ((s.hart i.hart).c CSR.mzdcfg) 2 = false →
    Gives (.phWait i v) s fun t => Raised i 2 (BitVec.ofNat 64 i.enc.toNat) t) ∧
  (∀ (i : Issue) (data : Nat) (v u : Word) (y : Xlate) (s : State),
    canDrained i s = true → s.tsQ i.hart = [] → (s.hart i.hart).priv < 3 →
    bit ((s.hart i.hart).c CSR.mzdcfg) 2 = false →
    Gives (.tsStore i v y data u) s fun t => Raised i 2 (BitVec.ofNat 64 i.enc.toNat) t) ∧
  (∀ (i : Issue) (v : Word) (y : Xlate) (s : State),
    canDrained i s = true → s.tsQ i.hart = [] → (s.hart i.hart).priv < 3 →
    bit ((s.hart i.hart).c CSR.mzdcfg) 2 = false →
    Gives (.tsCancelI i v y) s fun t => Raised i 2 (BitVec.ofNat 64 i.enc.toNat) t) ∧
  (∀ (i : Issue) (v : Word) (s : State),
    canDrained i s = true → s.tsQ i.hart = [] → (s.hart i.hart).priv < 3 →
    bit ((s.hart i.hart).c CSR.mzdcfg) 2 = false →
    Gives (.dlSet i v) s fun t => Raised i 2 (BitVec.ofNat 64 i.enc.toNat) t) ∧
  (∀ (i : Issue) (s : State),
    canDrained i s = true → s.tsQ i.hart = [] → (s.hart i.hart).priv < 3 →
    bit ((s.hart i.hart).c CSR.mzdcfg) 2 = false →
    Gives (.dlClr i) s fun t => Raised i 2 (BitVec.ofNat 64 i.enc.toNat) t) ∧
  (∀ (i : Issue) (v : Word) (y : Xlate) (s : State),
    canDrained i s = true → s.tsQ i.hart = [] → (s.hart i.hart).priv < 3 →
    bit ((s.hart i.hart).c CSR.mzdcfg) 2 = false →
    Gives (.tkYield i v y) s fun t => Raised i 2 (BitVec.ofNat 64 i.enc.toNat) t) ∧
  (∀ (i : Issue) (s : State),
    canDrained i s = true → s.tsQ i.hart = [] → (s.hart i.hart).priv < 3 →
    bit ((s.hart i.hart).c CSR.mzdcfg) 2 = false →
    Gives (.tkArg i) s fun t => Raised i 2 (BitVec.ofNat 64 i.enc.toNat) t) ∧
  (∀ (i : Issue) (v : Word) (y : Xlate) (s : State),
    canDrained i s = true → s.tsQ i.hart = [] → (s.hart i.hart).priv < 3 →
    bit ((s.hart i.hart).c CSR.mzdcfg) 2 = false →
    Gives (.ldPair i v y) s fun t => Raised i 2 (BitVec.ofNat 64 i.enc.toNat) t) ∧
  (∀ (i : Issue) (z v u : Word) (y : Xlate) (s : State),
    canDrained i s = true → s.tsQ i.hart = [] → (s.hart i.hart).priv < 3 →
    bit ((s.hart i.hart).c CSR.mzdcfg) 2 = false →
    Gives (.sdPair i z y v u) s fun t => Raised i 2 (BitVec.ofNat 64 i.enc.toNat) t) ∧
  (∀ (i : Issue) (s : State),
    canSettle i s = true → (s.hart i.hart).priv < 3 → (s.hart i.hart).virt = true →
    bit ((s.hart i.hart).c CSR.mzdcfg) 2 = true → bit ((s.hart i.hart).c CSR.mzdcfg) 3 = false →
    Gives (.phRead i) s fun t => Raised i 22 (BitVec.ofNat 64 i.enc.toNat) t) ∧
  (∀ (i : Issue) (s : State),
    canSettle i s = true → XtOk i s → i.enc &&& 0xFF0F8000#32 = 0 → i.src ≤ 8 →
    replicaValid (hartDie i.hart s) s = false →
    Gives (.phRead i) s fun t => Raised i 25 (BitVec.ofNat 64 i.enc.toNat) t) ∧
  (∀ (i : Issue) (v : Word) (s : State),
    canSettle i s = true → XtOk i s → i.enc &&& 0xFF000000#32 = 0 → i.src ≤ 8 →
    replicaValid (hartDie i.hart s) s = false →
    Gives (.phWait i v) s fun t => Raised i 25 (BitVec.ofNat 64 i.enc.toNat) t) ∧
  (∀ (i : Issue) (v : Word) (s : State),
    canSettle i s = true → XtOk i s → i.enc &&& 0xFC000F80#32 = 0 → i.src ≤ 8 →
    replicaValid (hartDie i.hart s) s = false →
    Gives (.dlSet i v) s fun t => Raised i 25 (BitVec.ofNat 64 i.enc.toNat) t)

/-- Each sample joins the last ten and INPUT shows their means; a warning makes the power-fail sequence active and may
be withdrawn before the grace ends; the end of the grace begins an orderly end by PF_ACTION; its completion enters
RETAIN; sudden input loss turns the package off, DRAM lost, with an event-log record; the exit from RETAIN keeps DRAM
and starts again; a power-die fault is recorded. (R506, R507, R508, R511, R513, R514, R532, R235.) -/
def Obligations.PowerInput : Prop :=
  (∀ (v c mw pick : Nat) (draw : List Nat) (s : State),
    Gives (.inputSample v c mw pick draw) s fun t =>
      t.samples = ((v, c) :: s.samples).take 10 ∧ t.f F.PWR_INPUT_VOLTAGE 0 = sampleMean (·.1) t.samples 1 % 65536 ∧
      t.f F.PWR_INPUT_CURRENT 0 = sampleMean (·.2) t.samples 1 % 65536 ∧
      t.f F.PWR_INPUT_POWER 0 = sampleMean (fun x => x.1 * x.2) t.samples 10000 % 65536) ∧
  (∀ (volts : Nat) (s : State),
    volts < pfWarn s → s.pkgOff = false → s.f F.PWR_STATUS_PKG_STATE 0 ≠ 2 → s.pkgEnd = none →
    Gives (.powerFailWarning volts) s fun t =>
      t.b F.PWR_STATUS_PF_WARN 0 = true ∧ t.b F.PWR_STATUS_PF_ACTIVE 0 = true) ∧
  (∀ (volts : Nat) (s : State),
    pfWarn s + 100 < volts → s.b F.PWR_STATUS_PF_ACTIVE 0 = true → s.pkgEnd = none →
    Gives (.warningWithdrawn volts) s fun t => t.b F.PWR_STATUS_PF_ACTIVE 0 = false) ∧
  (∀ (s : State),
    min 10000 (s.f F.PWR_PF_CFG_GRACE 0) * tbMicro ≤ (s.tb - s.pfAt).toNat → s.b F.PWR_STATUS_PF_ACTIVE 0 = true →
    s.pkgEnd = none → s.f F.PWR_CTRL_PF_ACTION 0 = 2 →
    Gives (.graceEnd) s fun t => t.b F.PWR_STATUS_PF_ACTIVE 0 = false ∧ t.pkgEnd = none) ∧
  (∀ (s : State),
    min 10000 (s.f F.PWR_PF_CFG_GRACE 0) * tbMicro ≤ (s.tb - s.pfAt).toNat → s.b F.PWR_STATUS_PF_ACTIVE 0 = true →
    s.pkgEnd = none → s.f F.PWR_CTRL_PF_ACTION 0 ≠ 2 →
    Gives (.graceEnd) s fun t =>
      t.pkgEnd = some { goal := if s.f F.PWR_CTRL_PF_ACTION 0 = 1 then 1 else 0, pf := true, port := none } ∧
      t.b F.PWR_STATUS_PLOCK 0 = false) ∧
  (∀ (e : PkgEnd) (s : State),
    s.pkgEnd = some e → (endFlush s).1 = true → e.goal = 0 →
    Gives (.powerFailComplete) s fun t =>
      t.pkgEnd = none ∧ t.f F.PWR_STATUS_PKG_STATE 0 = 2 ∧ t.b F.PWR_STATUS_PF_ACTIVE 0 = false) ∧
  (∀ (e : PkgEnd) (s : State),
    s.pkgEnd = some e → (endFlush s).1 = true → e.goal = 1 →
    Gives (.powerFailComplete) s fun t => t.pkgEnd = none ∧ t.pkgOff = true ∧ t.mem = []) ∧
  (∀ (s : State),
    s.pkgOff = false →
    Gives (.undervoltage) s fun t =>
      t.pkgOff = true ∧ t.mem = [] ∧ bits (t.r .ST_EVLOG (2 * s.f F.ST_EVLOG_HEAD_HEAD 0)) 63 56 = 0xB) ∧
  (∀ (s : State),
    s.pkgOff = false →
    Gives (.overvoltage) s fun t =>
      t.pkgOff = true ∧ t.mem = [] ∧ bits (t.r .ST_EVLOG (2 * s.f F.ST_EVLOG_HEAD_HEAD 0)) 63 56 = 0xC) ∧
  (∀ (s : State),
    Gives (.aonPowerLoss) s fun t => t.pkgOff = true ∧ t.aonOff = true ∧ t.mem = []) ∧
  (∀ (volts : Nat) (s : State),
    pfWarn s + 100 < volts → s.f F.PWR_STATUS_PKG_STATE 0 = 2 →
    Gives (.retainExit volts) s fun t =>
      t.mem = s.mem ∧ (t.f F.ST_STATUS_PHASE 0 = 2 ∨ t.f F.ST_STATUS_PHASE 0 = 8)) ∧
  (∀ (i : Nat) (s : State),
    i < 2 → s.pkgOff = false → s.f F.PWR_STATUS_PW_OK 0 = 3 →
    Gives (.powerDieFault i) s fun t =>
      t.fbit F.PWR_STATUS_PW_OK 0 i = false ∧ t.b F.PWR_STATUS_PW_FAULT 0 = true ∧ t.pkgOff = false) ∧
  (∀ (i : Nat) (s : State),
    i < 2 → s.pkgOff = false → s.f F.PWR_STATUS_PW_OK 0 = 2 ^ i →
    Gives (.powerDieFault i) s fun t => t.pkgOff = true) ∧
  (∀ (k : Nat) (s : State),
    s.pkgEnd ≠ none → (endFlush s).1 = true →
    Gives (.selfRefreshEntry k) s fun t => t.f F.MC_STATUS_SELFREF k = 15 ∧ t.f F.MC_STATUS_PWRDN k = 0) ∧
  (∀ (k : Nat) (s : State),
    s.pkgEnd = none → s.f F.PWR_STATUS_PKG_STATE 0 ≠ 2 → unitOff (289 + k) s = false →
    Gives (.selfRefreshExit k) s fun t => t.f F.MC_STATUS_SELFREF k = 0)

/-- A request of partition 0 that is listed, not in transition and not held is performed: an ON die begins to go to
GATED, OFF or its reset, a GATED or OFF die begins to come ON, a gated core wakes, a running one begins its entry, a
clock stops or runs, the package begins its orderly end, a frequency change begins; a held unit refuses the Open world
with MITTEN, and another partition is refused. (R387, R508, R523, R524, R525, R526.) -/
def Obligations.PowerRequests : Prop :=
  (∀ (a : Access) (k u : Nat) (irq : Bool) (s : State),
    Allowed a true .PWR_REQ k s → k < 2 → s.b F.PWR_REQ_STATUS_BUSY k = false → s.pkgEnd = none → 256 ≤ u ∧ u < 268 →
    smapGet (fun _ => none) s.dieTrans (u - 256) = none → smapGet (fun _ => none) s.freqGoal (u - 256) = none →
    inChimney s = false → s.f F.PWR_DIE_STATE (u - 256) = 0 →
    Gives (.reqOn a k u irq) s fun t =>
      smapGet (fun _ => none) t.dieTrans (u - 256) = some ⟨2, some k, none⟩ ∧ t.f F.PWR_DIE_STATE (u - 256) = 3 ∧
      t.b F.PWR_REQ_STATUS_BUSY k = true ∧ t.b F.PWR_REQ_STATUS_DONE k = false) ∧
  (∀ (a : Access) (k u : Nat) (irq : Bool) (s : State),
    Allowed a true .PWR_REQ k s → k < 2 → s.b F.PWR_REQ_STATUS_BUSY k = false → s.pkgEnd = none → 256 ≤ u ∧ u < 268 →
    smapGet (fun _ => none) s.dieTrans (u - 256) = none → smapGet (fun _ => none) s.freqGoal (u - 256) = none →
    inChimney s = false → s.f F.PWR_DIE_STATE (u - 256) = 1 →
    Gives (.reqOn a k u irq) s fun t =>
      smapGet (fun _ => none) t.dieTrans (u - 256) = some ⟨3, some k, none⟩ ∧ t.f F.PWR_DIE_STATE (u - 256) = 3 ∧
      t.b F.PWR_REQ_STATUS_BUSY k = true ∧ t.b F.PWR_REQ_STATUS_DONE k = false) ∧
  (∀ (a : Access) (k u : Nat) (irq : Bool) (w : WaitKind) (s : State),
    Allowed a true .PWR_REQ k s → k < 2 → s.b F.PWR_REQ_STATUS_BUSY k = false → s.pkgEnd = none → u < 256 →
    hartExists u s = true → s.f F.PWR_DIE_STATE (hartDie u s) ≠ 3 → (s.hart u).st = .gated w → w ≠ .req →
    Gives (.reqOn a k u irq) s fun t =>
      (t.hart u).st = .wait w ∧ t.b F.PWR_REQ_STATUS_DONE k = true ∧ t.f F.PWR_REQ_STATUS_STATUS k = 0 ∧
      t.b F.PWR_REQ_STATUS_BUSY k = false) ∧
  (∀ (a : Access) (k u : Nat) (irq : Bool) (s : State),
    Allowed a true .PWR_REQ k s → k < 2 → s.b F.PWR_REQ_STATUS_BUSY k = false → s.pkgEnd = none → u < 256 →
    (k = 1 ∨ mittenEff u s = false) → hartExists u s = true → s.f F.PWR_DIE_STATE (hartDie u s) ≠ 3 →
    (s.hart u).st = .run → inPhWait u s = false →
    Gives (.reqGated a k u irq) s fun t =>
      (t.hart u).st = .gating .req ∧ t.b F.PWR_REQ_STATUS_BUSY k = true ∧ t.b F.PWR_REQ_STATUS_DONE k = false) ∧
  (∀ (a : Access) (k u : Nat) (irq : Bool) (s : State),
    Allowed a true .PWR_REQ k s → k < 2 → s.b F.PWR_REQ_STATUS_BUSY k = false → s.pkgEnd = none → 256 ≤ u ∧ u < 268 →
    (k = 1 ∨ mittenEff u s = false) → smapGet (fun _ => none) s.dieTrans (u - 256) = none →
    smapGet (fun _ => none) s.freqGoal (u - 256) = none → s.f F.PWR_DIE_STATE (u - 256) = 2 →
    Gives (.reqGated a k u irq) s fun t =>
      smapGet (fun _ => none) t.dieTrans (u - 256) = some ⟨1, some k, none⟩ ∧ t.f F.PWR_DIE_STATE (u - 256) = 3 ∧
      t.b F.PWR_REQ_STATUS_BUSY k = true ∧ t.b F.PWR_REQ_STATUS_DONE k = false) ∧
  (∀ (a : Access) (k u : Nat) (irq : Bool) (s : State),
    Allowed a true .PWR_REQ k s → k < 2 → s.b F.PWR_REQ_STATUS_BUSY k = false → s.pkgEnd = none → 256 ≤ u ∧ u < 268 →
    (k = 1 ∨ mittenEff u s = false) → smapGet (fun _ => none) s.dieTrans (u - 256) = none →
    smapGet (fun _ => none) s.freqGoal (u - 256) = none → s.f F.PWR_DIE_STATE (u - 256) = 2 →
    Gives (.reqOff a k u irq) s fun t =>
      smapGet (fun _ => none) t.dieTrans (u - 256) = some ⟨0, some k, none⟩ ∧ t.f F.PWR_DIE_STATE (u - 256) = 3 ∧
      t.b F.PWR_REQ_STATUS_BUSY k = true ∧ t.b F.PWR_REQ_STATUS_DONE k = false) ∧
  (∀ (a : Access) (k u : Nat) (irq : Bool) (s : State),
    Allowed a true .PWR_REQ k s → k < 2 → s.b F.PWR_REQ_STATUS_BUSY k = false → s.pkgEnd = none → 256 ≤ u ∧ u < 268 →
    (k = 1 ∨ mittenEff u s = false) → smapGet (fun _ => none) s.dieTrans (u - 256) = none →
    smapGet (fun _ => none) s.freqGoal (u - 256) = none → s.f F.PWR_DIE_STATE (u - 256) = 2 → released s = true →
    s.b F.PWR_STATUS_PF_ACTIVE 0 = false →
    Gives (.reqReset a k u irq) s fun t =>
      smapGet (fun _ => none) t.dieTrans (u - 256) = some ⟨4, some k, none⟩ ∧ t.f F.PWR_DIE_STATE (u - 256) = 3 ∧
      t.b F.PWR_REQ_STATUS_BUSY k = true ∧ t.b F.PWR_REQ_STATUS_DONE k = false) ∧
  (∀ (a : Access) (k u : Nat) (irq : Bool) (s : State),
    Allowed a true .PWR_REQ k s → k < 2 → s.b F.PWR_REQ_STATUS_BUSY k = false → s.pkgEnd = none → 268 ≤ u ∧ u ≤ 304 →
    (k = 1 ∨ mittenEff u s = false) →
    Gives (.reqClockStop a k u irq) s fun t =>
      unitOff u t = true ∧ (289 ≤ u → t.f F.MC_STATUS_SELFREF (u - 289) = 15) ∧ t.b F.PWR_REQ_STATUS_DONE k = true ∧
      t.f F.PWR_REQ_STATUS_STATUS k = 0 ∧ t.b F.PWR_REQ_STATUS_BUSY k = false) ∧
  (∀ (a : Access) (k u : Nat) (irq : Bool) (s : State),
    Allowed a true .PWR_REQ k s → k < 2 → s.b F.PWR_REQ_STATUS_BUSY k = false → s.pkgEnd = none → 268 ≤ u ∧ u ≤ 304 →
    inChimney s = false →
    Gives (.reqClockStart a k u irq) s fun t =>
      unitOff u t = false ∧ t.b F.PWR_REQ_STATUS_DONE k = true ∧ t.f F.PWR_REQ_STATUS_STATUS k = 0 ∧
      t.b F.PWR_REQ_STATUS_BUSY k = false) ∧
  (∀ (a : Access) (k u : Nat) (irq : Bool) (s : State),
    Allowed a true .PWR_REQ k s → k < 2 → s.b F.PWR_REQ_STATUS_BUSY k = false → s.pkgEnd = none →
    (k = 1 ∨ heldUnit s = none) →
    Gives (.reqPackageRetain a k u irq) s fun t =>
      t.pkgEnd = some ⟨0, false, some k⟩ ∧ t.b F.PWR_STATUS_PLOCK 0 = false ∧ t.b F.PWR_REQ_STATUS_BUSY k = true ∧
      t.b F.PWR_REQ_STATUS_DONE k = false) ∧
  (∀ (a : Access) (k u : Nat) (irq : Bool) (s : State),
    Allowed a true .PWR_REQ k s → k < 2 → s.b F.PWR_REQ_STATUS_BUSY k = false → s.pkgEnd = none →
    (k = 1 ∨ heldUnit s = none) →
    Gives (.reqPackageOff a k u irq) s fun t =>
      t.pkgEnd = some ⟨1, false, some k⟩ ∧ t.b F.PWR_STATUS_PLOCK 0 = false ∧ t.b F.PWR_REQ_STATUS_BUSY k = true ∧
      t.b F.PWR_REQ_STATUS_DONE k = false) ∧
  (∀ (a : Access) (k u f : Nat) (irq : Bool) (s : State),
    Allowed a true .PWR_REQ k s → k < 2 → s.b F.PWR_REQ_STATUS_BUSY k = false → s.pkgEnd = none → 256 ≤ u ∧ u < 268 →
    smapGet (fun _ => none) s.dieTrans (u - 256) = none → smapGet (fun _ => none) s.freqGoal (u - 256) = none →
    8 ≤ f ∧ f ≤ 22 → s.b F.PWR_CTRL_PLOCK_REQ 0 = false → s.f F.PWR_DIE_STATE (u - 256) = 2 →
    Gives (.reqFrequency a k u f irq) s fun t =>
      t.f F.PWR_DIE_FREQ_REQ (u - 256) = f ∧ smapGet (fun _ => none) t.freqGoal (u - 256) = some (f, some k) ∧
      t.b F.PWR_REQ_STATUS_BUSY k = true ∧ t.b F.PWR_REQ_STATUS_DONE k = false) ∧
  (∀ (a : Access) (k u f : Nat) (irq : Bool) (s : State),
    Allowed a true .PWR_REQ k s → k < 2 → s.b F.PWR_REQ_STATUS_BUSY k = false → s.pkgEnd = none → 256 ≤ u ∧ u < 268 →
    f < 8 →
    Gives (.reqFrequency a k u f irq) s fun t =>
      t.b F.PWR_REQ_STATUS_DONE k = true ∧ t.f F.PWR_REQ_STATUS_STATUS k = 3 ∧
      t.r .PWR_DIE (u - 256) = s.r .PWR_DIE (u - 256)) ∧
  (∀ (a : Access) (k u : Nat) (irq : Bool) (s : State),
    Allowed a true .PWR_REQ k s → k = 0 → s.b F.PWR_REQ_STATUS_BUSY k = false → s.pkgEnd = none → 256 ≤ u ∧ u < 268 →
    smapGet (fun _ => none) s.dieTrans (u - 256) = none → smapGet (fun _ => none) s.freqGoal (u - 256) = none →
    mittenEff u s = true →
    Gives (.reqOff a k u irq) s fun t =>
      t.b F.PWR_REQ_STATUS_DONE k = true ∧ t.f F.PWR_REQ_STATUS_STATUS k = 5 ∧
      t.r .PWR_DIE (u - 256) = s.r .PWR_DIE (u - 256)) ∧
  (∀ (a : Access) (k u : Nat) (irq : Bool) (s : State),
    Allowed a true .PWR_REQ k s → 2 ≤ k → k < 128 → s.b F.PWR_REQ_STATUS_BUSY k = false → s.pkgEnd = none →
    256 ≤ u ∧ u < 268 →
    Gives (.reqOff a k u irq) s fun t =>
      t.b F.PWR_REQ_STATUS_DONE k = true ∧ t.f F.PWR_REQ_STATUS_STATUS k = 2 ∧
      t.r .PWR_DIE (u - 256) = s.r .PWR_DIE (u - 256)) ∧
  (∀ (a : Access) (k u : Nat) (irq : Bool) (s : State),
    Allowed a true .PWR_REQ k s → k < 128 → s.b F.PWR_REQ_STATUS_BUSY k = true →
    Gives (.reqOff a k u irq) s fun t => t = s.answer 0)

/-- A core that may gate, drained and not held against the Open world, begins its entry to GATED and ends it drained; an
event that a wait ends with brings it to RUN; PWC commands and requests do the same; a die transition ends with the die
ON, or OFF once it has flushed; a frequency change takes effect; phase-locked operation runs every ON die at 2.0 GHz; at
100 °C throttling lowers a die, and at 115 °C a thermal trip turns the die off, or for the IOD the package. (R110, R112,
R196, R515, R516, R518, R519, R520, R521, R522, R533.) -/
def Obligations.DiesCoresAndClocks : Prop :=
  (∀ (h : Nat) (w : WaitKind) (s : State),
    coreMayGate h s = some w → hartExists h s = true → dieOn (hartDie h s) s = true → hartDrained h s = true →
    s.b F.PWR_REQ_STATUS_BUSY (2 * hartPart h s + (if (s.hart h).w then 1 else 0)) = false → s.pkgEnd = none →
    ((s.hart h).w = true ∨ mittenEff h s = false) →
    Gives (.coreGate h) s fun t =>
      (t.hart h).st = .gating w ∧
      t.b F.PWR_REQ_STATUS_BUSY (2 * hartPart h s + (if (s.hart h).w then 1 else 0)) = true) ∧
  (∀ (n pos h : Nat) (w : WaitKind) (s : State),
    hartAt n pos s = some h → coreMayGate h s = some w → hartExists h s = true → dieOn (hartDie h s) s = true →
    hartDrained h s = true → s.b F.PWR_REQ_STATUS_BUSY (2 * hartPart h s + (if (s.hart h).w then 1 else 0)) = false →
    s.pkgEnd = none → ((s.hart h).w = true ∨ mittenEff h s = false) →
    Gives (.powerRequest n pos 1) s fun t =>
      (t.hart h).st = .gating w ∧
      t.b F.PWR_REQ_STATUS_BUSY (2 * hartPart h s + (if (s.hart h).w then 1 else 0)) = true) ∧
  (∀ (n pos h : Nat) (w : WaitKind) (s : State),
    hartAt n pos s = some h → dieOn n s = true → (s.hart h).st = .gated w → w ≠ .req →
    Gives (.powerCommand n pos 0) s fun t => (t.hart h).st = .wait w) ∧
  (∀ (n pos h : Nat) (w : WaitKind) (s : State),
    hartAt n pos s = some h → dieOn n s = true → (s.hart h).st = .wait w → hartDrained h s = true →
    ((s.hart h).w = true ∨ mittenEff h s = false) →
    Gives (.powerCommand n pos 1) s fun t => (t.hart h).st = .gating w) ∧
  (∀ (h : Nat) (w : WaitKind) (s : State),
    (s.hart h).st = .gating w → hartDrained h s = true →
    (s.out.any fun m => match m with | .pkt q => q.op == .wbL && q.src == coreAgent (coreOf h s) | _ => false) = false
      →
    Gives (.gatedEntryDone h) s fun t => (t.hart h).st = .gated w ∧ (t.hart h).tdc = []) ∧
  (∀ (h : Nat) (b : Bool) (s : State),
    hartExists h s = true → dieOn (hartDie h s) s = true → (s.hart h).halted = false → (s.hart h).st = .wait .wfi →
    irqWakes h s = true →
    Gives (.coreWake h b) s fun t => (t.hart h).st = .run) ∧
  (∀ (h : Nat) (b sto : Bool) (s : State),
    hartExists h s = true → dieOn (hartDie h s) s = true → (s.hart h).halted = false →
    (s.hart h).st = .wait (.wrs sto) → ((s.hart h).resv = none ∨ (sto = true ∧ b = true)) →
    Gives (.coreWake h b) s fun t => (t.hart h).st = .run) ∧
  (∀ (h : Nat) (b : Bool) (s : State),
    hartExists h s = true → dieOn (hartDie h s) s = true → (s.hart h).halted = false → (s.hart h).st = .gated .wfi →
    irqWakes h s = true →
    Gives (.coreWake h b) s fun t => (t.hart h).st = .run) ∧
  (∀ (n : Nat) (bist : List BistRow) (d : DieTrans) (s : State),
    smapGet (fun _ => none) s.dieTrans n = some d → d.kind = 3 → s.pkgEnd = none → bridgeActive n s = true →
    (released s = true → replicaReady n s = true) →
    Gives (.dieTransitionDone n bist) s fun t =>
      t.f F.PWR_DIE_STATE n = 2 ∧ smapGet (fun _ => none) t.dieTrans n = none) ∧
  (∀ (n : Nat) (bist : List BistRow) (d : DieTrans) (s : State),
    smapGet (fun _ => none) s.dieTrans n = some d → d.kind = 0 → d.onPort = none → s.pkgEnd = none →
    (dieFlush n s).1 = true → s.fbit F.WC_MITTEN_VAL 4 n = false →
    Gives (.dieTransitionDone n bist) s fun t =>
      t.f F.PWR_DIE_STATE n = 0 ∧ t.f F.PWR_DIE_FREQ_EFF n = 0 ∧ smapGet (fun _ => none) t.dieTrans n = none ∧
      t.f F.BR_STATUS_STATE n = 0) ∧
  (∀ (n f : Nat) (port : Option Nat) (s : State),
    smapGet (fun _ => none) s.freqGoal n = some (f, port) → dieOn n s = true → s.b F.PWR_STATUS_PLOCK 0 = false →
    s.b F.PWR_STATUS_LIMITING 0 = false → f < 256 →
    Gives (.frequencyChangeDone n) s fun t =>
      t.f F.PWR_DIE_FREQ_EFF n = freqCap n s f ∧ smapGet (fun _ => none) t.freqGoal n = none) ∧
  (∀ (a : Access) (v : Word) (s : State),
    Allowed a true .PWR_CTRL 0 s → s.b F.PWR_CTRL_LOCK 0 = false → s.b F.PWR_CTRL_PLOCK_REQ 0 = false →
    s.pkgEnd = none →
    Gives (.plockEnter a v) s fun t =>
      t.b F.PWR_CTRL_PLOCK_REQ 0 = true ∧ t.b F.PWR_STATUS_PLOCK 0 = true ∧
      ((List.range 12).all fun n => !dieOn n s || t.f F.PWR_DIE_FREQ_EFF n == 20) = true) ∧
  (∀ (a : Access) (v : Word) (s : State),
    Allowed a true .PWR_CTRL 0 s → s.b F.PWR_CTRL_LOCK 0 = false → s.b F.PWR_CTRL_PLOCK_REQ 0 = true →
    Gives (.plockLeave a v) s fun t => t.b F.PWR_CTRL_PLOCK_REQ 0 = false ∧ t.b F.PWR_STATUS_PLOCK 0 = false) ∧
  (∀ (s : State),
    s.b F.PWR_STATUS_PLOCK 0 = true → 1000 ≤ s.excess →
    Gives (.plockOverTimeout) s fun t => t.b F.PWR_STATUS_PLOCK 0 = false) ∧
  (∀ (s : State),
    s.b F.PWR_STATUS_PLOCK 0 = false → s.b F.PWR_CTRL_PLOCK_REQ 0 = true → s.pkgEnd = none → 10000 ≤ s.fine →
    Gives (.plockReentry) s fun t =>
      t.b F.PWR_STATUS_PLOCK 0 = true ∧
      ((List.range 12).all fun n => !dieOn n s || t.f F.PWR_DIE_FREQ_EFF n == 20) = true) ∧
  (∀ (n temp : Nat) (s : State),
    100 ≤ temp → dieOn n s = true → s.b F.PWR_STATUS_PLOCK 0 = false →
    Gives (.throttle n temp) s fun t =>
      t.f F.PWR_DIE_FREQ_EFF n = max 8 (s.f F.PWR_DIE_FREQ_EFF n - 1) ∧ t.f F.PWR_DIE_TEMP n = temp % 256) ∧
  (∀ (n temp : Nat) (s : State),
    100 ≤ temp → dieOn n s = true → s.b F.PWR_STATUS_PLOCK 0 = true →
    Gives (.throttle n temp) s fun t => t.b F.PWR_STATUS_PLOCK 0 = false ∧ t.f F.PWR_DIE_TEMP n = temp % 256) ∧
  (∀ (n temp : Nat) (s : State),
    temp < 100 →
    Gives (.throttle n temp) s fun t => t = s.setF F.PWR_DIE_TEMP n temp) ∧
  (∀ (n temp : Nat) (s : State),
    n ≠ 12 → 115 ≤ temp → s.f F.PWR_DIE_STATE n ≠ 0 →
    Gives (.thermalTrip n temp) s fun t =>
      t.f F.PWR_DIE_STATE n = 0 ∧ t.b F.PWR_STATUS_OVERTEMP 0 = true ∧ t.f F.BR_STATUS_STATE n = 0) ∧
  (∀ (temp : Nat) (s : State),
    115 ≤ temp →
    Gives (.thermalTrip 12 temp) s fun t => t.pkgOff = true) ∧
  (∀ (n temp : Nat) (s : State),
    temp < 115 →
    Gives (.thermalTrip n temp) s fun t => t = s)

/-- A range command begins when its engine is idle and LIMIT is not below BASE: BUSY, with DONE and ERR clear; a busy
engine answers ERR 1 and a reversed range ERR 3; a command whose lines are all complete sets DONE and LINES; a lock that
the rules refuse sets CFGERR and changes nothing; turning the L2 off drains it with the L1 arrays off; and the end of
the drain is shown. (R155, R158, R159, R160, R161, R163, R164.) -/
def Obligations.CacheOperations : Prop :=
  (∀ (a : Access) (e : Nat) (s : State),
    e < 240 → dieOn (e / 20) s = true → Allowed a true .CD_CORE_RANGE_CMD e s →
    s.f F.CD_CORE_RANGE_BASE_VAL e ≤ s.f F.CD_CORE_RANGE_LIMIT_VAL e → rsBusy e s = 0 →
    Gives (.rangeClean a e) s fun t =>
      t.b F.CD_CORE_RANGE_STATUS_BUSY e = true ∧ t.b F.CD_CORE_RANGE_STATUS_DONE e = false ∧
      t.f F.CD_CORE_RANGE_STATUS_ERR e = 0 ∧
      (t.ranges.any fun r => r.eng == e && r.cmd == 1 && r.w == a.world) = true) ∧
  (∀ (a : Access) (e : Nat) (s : State),
    e < 240 → dieOn (e / 20) s = true → Allowed a true .CD_CORE_RANGE_CMD e s → rsBusy e s = 1 →
    Gives (.rangeClean a e) s fun t => t.f F.CD_CORE_RANGE_STATUS_ERR e = 1 ∧ t.ranges = s.ranges ∧ t.out = s.out) ∧
  (∀ (a : Access) (e : Nat) (s : State),
    240 ≤ e → dieOn (e - 240) s = true → Allowed a true .CD_L3_RANGE_CMD (e - 240) s →
    s.f F.CD_L3_RANGE_BASE_VAL (e - 240) ≤ s.f F.CD_L3_RANGE_LIMIT_VAL (e - 240) → rsBusy e s = 0 →
    Gives (.rangeClean a e) s fun t =>
      t.b F.CD_L3_RANGE_STATUS_BUSY (e - 240) = true ∧ t.b F.CD_L3_RANGE_STATUS_DONE (e - 240) = false ∧
      t.f F.CD_L3_RANGE_STATUS_ERR (e - 240) = 0 ∧
      (t.ranges.any fun r => r.eng == e && r.cmd == 1 && r.w == a.world) = true) ∧
  (∀ (a : Access) (e : Nat) (s : State),
    240 ≤ e → dieOn (e - 240) s = true → Allowed a true .CD_L3_RANGE_CMD (e - 240) s → rsBusy e s = 1 →
    Gives (.rangeClean a e) s fun t =>
      t.f F.CD_L3_RANGE_STATUS_ERR (e - 240) = 1 ∧ t.ranges = s.ranges ∧ t.out = s.out) ∧
  (∀ (a : Access) (e : Nat) (s : State),
    e < 240 → dieOn (e / 20) s = true → Allowed a true .CD_CORE_RANGE_CMD e s →
    s.f F.CD_CORE_RANGE_BASE_VAL e ≤ s.f F.CD_CORE_RANGE_LIMIT_VAL e → rsBusy e s = 0 →
    Gives (.rangeInval a e) s fun t =>
      t.b F.CD_CORE_RANGE_STATUS_BUSY e = true ∧ t.b F.CD_CORE_RANGE_STATUS_DONE e = false ∧
      t.f F.CD_CORE_RANGE_STATUS_ERR e = 0 ∧
      (t.ranges.any fun r => r.eng == e && r.cmd == 2 && r.w == a.world) = true) ∧
  (∀ (a : Access) (e : Nat) (s : State),
    e < 240 → dieOn (e / 20) s = true → Allowed a true .CD_CORE_RANGE_CMD e s → rsBusy e s = 1 →
    Gives (.rangeInval a e) s fun t => t.f F.CD_CORE_RANGE_STATUS_ERR e = 1 ∧ t.ranges = s.ranges ∧ t.out = s.out) ∧
  (∀ (a : Access) (e : Nat) (s : State),
    240 ≤ e → dieOn (e - 240) s = true → Allowed a true .CD_L3_RANGE_CMD (e - 240) s →
    s.f F.CD_L3_RANGE_BASE_VAL (e - 240) ≤ s.f F.CD_L3_RANGE_LIMIT_VAL (e - 240) → rsBusy e s = 0 →
    Gives (.rangeInval a e) s fun t =>
      t.b F.CD_L3_RANGE_STATUS_BUSY (e - 240) = true ∧ t.b F.CD_L3_RANGE_STATUS_DONE (e - 240) = false ∧
      t.f F.CD_L3_RANGE_STATUS_ERR (e - 240) = 0 ∧
      (t.ranges.any fun r => r.eng == e && r.cmd == 2 && r.w == a.world) = true) ∧
  (∀ (a : Access) (e : Nat) (s : State),
    240 ≤ e → dieOn (e - 240) s = true → Allowed a true .CD_L3_RANGE_CMD (e - 240) s → rsBusy e s = 1 →
    Gives (.rangeInval a e) s fun t =>
      t.f F.CD_L3_RANGE_STATUS_ERR (e - 240) = 1 ∧ t.ranges = s.ranges ∧ t.out = s.out) ∧
  (∀ (a : Access) (e : Nat) (s : State),
    e < 240 → dieOn (e / 20) s = true → Allowed a true .CD_CORE_RANGE_CMD e s →
    s.f F.CD_CORE_RANGE_BASE_VAL e ≤ s.f F.CD_CORE_RANGE_LIMIT_VAL e → rsBusy e s = 0 →
    Gives (.rangeCleanInval a e) s fun t =>
      t.b F.CD_CORE_RANGE_STATUS_BUSY e = true ∧ t.b F.CD_CORE_RANGE_STATUS_DONE e = false ∧
      t.f F.CD_CORE_RANGE_STATUS_ERR e = 0 ∧
      (t.ranges.any fun r => r.eng == e && r.cmd == 3 && r.w == a.world) = true) ∧
  (∀ (a : Access) (e : Nat) (s : State),
    e < 240 → dieOn (e / 20) s = true → Allowed a true .CD_CORE_RANGE_CMD e s → rsBusy e s = 1 →
    Gives (.rangeCleanInval a e) s fun t =>
      t.f F.CD_CORE_RANGE_STATUS_ERR e = 1 ∧ t.ranges = s.ranges ∧ t.out = s.out) ∧
  (∀ (a : Access) (e : Nat) (s : State),
    240 ≤ e → dieOn (e - 240) s = true → Allowed a true .CD_L3_RANGE_CMD (e - 240) s →
    s.f F.CD_L3_RANGE_BASE_VAL (e - 240) ≤ s.f F.CD_L3_RANGE_LIMIT_VAL (e - 240) → rsBusy e s = 0 →
    Gives (.rangeCleanInval a e) s fun t =>
      t.b F.CD_L3_RANGE_STATUS_BUSY (e - 240) = true ∧ t.b F.CD_L3_RANGE_STATUS_DONE (e - 240) = false ∧
      t.f F.CD_L3_RANGE_STATUS_ERR (e - 240) = 0 ∧
      (t.ranges.any fun r => r.eng == e && r.cmd == 3 && r.w == a.world) = true) ∧
  (∀ (a : Access) (e : Nat) (s : State),
    240 ≤ e → dieOn (e - 240) s = true → Allowed a true .CD_L3_RANGE_CMD (e - 240) s → rsBusy e s = 1 →
    Gives (.rangeCleanInval a e) s fun t =>
      t.f F.CD_L3_RANGE_STATUS_ERR (e - 240) = 1 ∧ t.ranges = s.ranges ∧ t.out = s.out) ∧
  (∀ (a : Access) (e : Nat) (s : State),
    e < 240 → dieOn (e / 20) s = true → Allowed a true .CD_CORE_RANGE_CMD e s →
    s.f F.CD_CORE_RANGE_BASE_VAL e ≤ s.f F.CD_CORE_RANGE_LIMIT_VAL e → rsBusy e s = 0 →
    Gives (.rangePreload a e) s fun t =>
      t.b F.CD_CORE_RANGE_STATUS_BUSY e = true ∧ t.b F.CD_CORE_RANGE_STATUS_DONE e = false ∧
      t.f F.CD_CORE_RANGE_STATUS_ERR e = 0 ∧
      (t.ranges.any fun r => r.eng == e && r.cmd == 4 && r.w == a.world) = true) ∧
  (∀ (a : Access) (e : Nat) (s : State),
    e < 240 → dieOn (e / 20) s = true → Allowed a true .CD_CORE_RANGE_CMD e s → rsBusy e s = 1 →
    Gives (.rangePreload a e) s fun t =>
      t.f F.CD_CORE_RANGE_STATUS_ERR e = 1 ∧ t.ranges = s.ranges ∧ t.out = s.out) ∧
  (∀ (a : Access) (e : Nat) (s : State),
    240 ≤ e → dieOn (e - 240) s = true → Allowed a true .CD_L3_RANGE_CMD (e - 240) s →
    s.f F.CD_L3_RANGE_BASE_VAL (e - 240) ≤ s.f F.CD_L3_RANGE_LIMIT_VAL (e - 240) → rsBusy e s = 0 →
    Gives (.rangePreload a e) s fun t =>
      t.b F.CD_L3_RANGE_STATUS_BUSY (e - 240) = true ∧ t.b F.CD_L3_RANGE_STATUS_DONE (e - 240) = false ∧
      t.f F.CD_L3_RANGE_STATUS_ERR (e - 240) = 0 ∧
      (t.ranges.any fun r => r.eng == e && r.cmd == 4 && r.w == a.world) = true) ∧
  (∀ (a : Access) (e : Nat) (s : State),
    240 ≤ e → dieOn (e - 240) s = true → Allowed a true .CD_L3_RANGE_CMD (e - 240) s → rsBusy e s = 1 →
    Gives (.rangePreload a e) s fun t =>
      t.f F.CD_L3_RANGE_STATUS_ERR (e - 240) = 1 ∧ t.ranges = s.ranges ∧ t.out = s.out) ∧
  (∀ (a : Access) (e : Nat) (s : State),
    e < 240 → dieOn (e / 20) s = true → Allowed a true .CD_CORE_RANGE_CMD e s → rsBusy e s = 0 →
    s.f F.CD_CORE_RANGE_LIMIT_VAL e < s.f F.CD_CORE_RANGE_BASE_VAL e →
    Gives (.rangeClean a e) s fun t => t.f F.CD_CORE_RANGE_STATUS_ERR e = 3 ∧ t.ranges = s.ranges ∧ t.out = s.out) ∧
  (∀ (e : Nat) (r : RangeRun) (s : State),
    s.ranges.find? (fun r => r.eng == e) = some r → r.last < r.next → engOpen e r s = 0 → r.count < 2 ^ 32 →
    Gives (.rangeCommandDone e) s fun t =>
      rsBusy e t = 0 ∧ rsF F.CD_CORE_RANGE_STATUS_DONE F.CD_L3_RANGE_STATUS_DONE e t = 1 ∧
      rsF F.CD_CORE_RANGE_STATUS_LINES F.CD_L3_RANGE_STATUS_LINES e t = r.count ∧ (∀ x ∈ t.ranges, x.eng ≠ e)) ∧
  (∀ (a : Access) (i : Nat) (v : Word) (s : State),
    dieOn (i / 40) s = true → Allowed a true .CD_CORE_L2_LOCK i s →
    lockBad (v &&& 0x83F0FFFFFFFFFFFF#64) [s.r .CD_CORE_L2_LOCK (i / 2 * 2 + (1 - i % 2))] 12 0 = false →
    Gives (.lockRangeWrite a false i v) s fun t => t.r .CD_CORE_L2_LOCK i = v &&& 0x83F0FFFFFFFFFFFF#64) ∧
  (∀ (a : Access) (i : Nat) (v : Word) (s : State),
    dieOn (i / 40) s = true → Allowed a true .CD_CORE_L2_LOCK i s →
    lockBad (v &&& 0x83F0FFFFFFFFFFFF#64) [s.r .CD_CORE_L2_LOCK (i / 2 * 2 + (1 - i % 2))] 12 0 = true →
    Gives (.lockRangeWrite a false i v) s fun t =>
      t.r .CD_CORE_L2_LOCK i = s.r .CD_CORE_L2_LOCK i ∧ t.b F.CD_CORE_RANGE_STATUS_CFGERR (i / 2) = true) ∧
  (∀ (a : Access) (i : Nat) (v : Word) (s : State),
    dieOn (i / 4) s = true → Allowed a true .CD_L3_LOCK i s →
    lockBad (v &&& 0x83F0FFFFFFFF0FFF#64) (((List.range 4).filter (· != i % 4)).map fun k => s.r .CD_L3_LOCK (i / 4 *
      4 + k)) 10 ((List.range 20).foldl (fun m x => m ||| s.f F.CD_L3_WAYDIS_WAYDIS (i / 4 * 20 + x)) 0) = false →
    Gives (.lockRangeWrite a true i v) s fun t => t.r .CD_L3_LOCK i = v &&& 0x83F0FFFFFFFF0FFF#64) ∧
  (∀ (a : Access) (i : Nat) (v : Word) (s : State),
    dieOn (i / 4) s = true → Allowed a true .CD_L3_LOCK i s →
    lockBad (v &&& 0x83F0FFFFFFFF0FFF#64) (((List.range 4).filter (· != i % 4)).map fun k => s.r .CD_L3_LOCK (i / 4 *
      4 + k)) 10 ((List.range 20).foldl (fun m x => m ||| s.f F.CD_L3_WAYDIS_WAYDIS (i / 4 * 20 + x)) 0) = true →
    Gives (.lockRangeWrite a true i v) s fun t =>
      t.r .CD_L3_LOCK i = s.r .CD_L3_LOCK i ∧ t.b F.CD_L3_RANGE_STATUS_CFGERR (i / 4) = true) ∧
  (∀ (a : Access) (np : Nat) (v : Word) (s : State),
    dieOn (np / 20) s = true → Allowed a true .CD_CORE_CACHE_CTRL np s → l2On np s = true → bit v 2 = false →
    Gives (.cacheDisable a np v) s fun t =>
      t.b F.CD_CORE_CACHE_CTRL_L2_EN np = false ∧ t.b F.CD_CORE_CACHE_CTRL_L1D_EN np = false ∧
      t.b F.CD_CORE_CACHE_CTRL_L1I_EN np = false ∧ t.b F.CD_CORE_CACHE_CTRL_L2_DRAINING np = true) ∧
  (∀ (a : Access) (np : Nat) (v : Word) (s : State),
    dieOn (np / 20) s = true → Allowed a true .CD_CORE_CACHE_CTRL np s → bit v 2 = true →
    Gives (.cacheEnable a np v) s fun t =>
      t.b F.CD_CORE_CACHE_CTRL_L2_EN np = true ∧ t.b F.CD_CORE_CACHE_CTRL_L1D_EN np = bit v 1 ∧
      t.b F.CD_CORE_CACHE_CTRL_L1I_EN np = bit v 0 ∧ t.l2 = s.l2) ∧
  (∀ (np : Nat) (s : State),
    s.b F.CD_CORE_CACHE_CTRL_L2_DRAINING np = true →
    Gives (.l2DrainComplete np) s fun t => t.b F.CD_CORE_CACHE_CTRL_L2_DRAINING np = false ∧ t.l2 = s.l2)

/-- A request of a core that misses in its idle slice makes the slice ask the home agent, GetS for a read and GetX for
the rest; WrPart on a line that the die may write merges its bytes; WbL and EvL take the core off the line, with the
data dirty in the L3; SnpL and SnpLX answer with the dirty data and leave S or I; InvL leaves I; a tenure ends. (R147,
R178, R179, R180, R181, R186, R188.) -/
def Obligations.CoreRequests : Prop :=
  (∀ (p : Packet) (s : State),
    s.behind { p with op := .rdS } = false → p.src < 240 → LineQuiet (p.src / 20) (p.addr / 64) s →
    vbFind (p.src / 20) (p.addr / 64) s = none → l3Find (p.src / 20) (p.addr / 64) s = none →
    (s.l3Pend.any fun q => q.die == p.src / 20 && q.line == (p.addr / 64) && !q.dead) = false →
    Gives (.rdS p) s fun t =>
      (t.l3Pend.any fun q => q.die == p.src / 20 && q.line == (p.addr / 64) && q.op == .getS && q.req ==
        { p with op := .rdS }) = true ∧
      sent .getS (0x100 + mcOf ((p.addr / 64) * 64)) ((p.addr / 64) * 64) t = true) ∧
  (∀ (p : Packet) (s : State),
    s.behind { p with op := .rdOnce } = false → p.src < 240 → LineQuiet (p.src / 20) (p.addr / 64) s →
    vbFind (p.src / 20) (p.addr / 64) s = none → l3Find (p.src / 20) (p.addr / 64) s = none →
    (s.l3Pend.any fun q => q.die == p.src / 20 && q.line == (p.addr / 64) && !q.dead) = false →
    Gives (.rdOnce p) s fun t =>
      (t.l3Pend.any fun q => q.die == p.src / 20 && q.line == (p.addr / 64) && q.op == .getS && q.req ==
        { p with op := .rdOnce }) = true ∧
      sent .getS (0x100 + mcOf ((p.addr / 64) * 64)) ((p.addr / 64) * 64) t = true) ∧
  (∀ (p : Packet) (s : State),
    s.behind { p with op := .rdX } = false → p.src < 240 → LineQuiet (p.src / 20) (p.addr / 64) s →
    vbFind (p.src / 20) (p.addr / 64) s = none → l3Find (p.src / 20) (p.addr / 64) s = none →
    (s.l3Pend.any fun q => q.die == p.src / 20 && q.line == (p.addr / 64) && !q.dead) = false →
    Gives (.rdX p) s fun t =>
      (t.l3Pend.any fun q => q.die == p.src / 20 && q.line == (p.addr / 64) && q.op == (if zeroes p.src (p.addr / 64)
        s then .getXZ else .getX) && q.req == { p with op := .rdX }) = true ∧
      sent (if zeroes p.src (p.addr / 64) s then .getXZ else .getX) (0x100 + mcOf ((p.addr / 64) * 64)) ((p.addr / 64)
        * 64) t = true) ∧
  (∀ (p : Packet) (s : State),
    s.behind { p with op := .upgL3 } = false → p.src < 240 → LineQuiet (p.src / 20) (p.addr / 64) s →
    vbFind (p.src / 20) (p.addr / 64) s = none → l3Find (p.src / 20) (p.addr / 64) s = none →
    (s.l3Pend.any fun q => q.die == p.src / 20 && q.line == (p.addr / 64) && !q.dead) = false →
    Gives (.upgL3 p) s fun t =>
      (t.l3Pend.any fun q => q.die == p.src / 20 && q.line == (p.addr / 64) && q.op == (if zeroes p.src (p.addr / 64)
        s then .getXZ else .getX) && q.req == { p with op := .upgL3 }) = true ∧
      sent (if zeroes p.src (p.addr / 64) s then .getXZ else .getX) (0x100 + mcOf ((p.addr / 64) * 64)) ((p.addr / 64)
        * 64) t = true) ∧
  (∀ (p : Packet) (s : State),
    s.behind { p with op := .wrPart } = false → p.src < 240 → LineQuiet (p.src / 20) (p.addr / 64) s →
    vbFind (p.src / 20) (p.addr / 64) s = none → l3Find (p.src / 20) (p.addr / 64) s = none →
    (s.l3Pend.any fun q => q.die == p.src / 20 && q.line == (p.addr / 64) && !q.dead) = false →
    Gives (.wrPart p) s fun t =>
      (t.l3Pend.any fun q => q.die == p.src / 20 && q.line == (p.addr / 64) && q.op == (if zeroes p.src (p.addr / 64)
        s then .getXZ else .getX) && q.req == { p with op := .wrPart }) = true ∧
      sent (if zeroes p.src (p.addr / 64) s then .getXZ else .getX) (0x100 + mcOf ((p.addr / 64) * 64)) ((p.addr / 64)
        * 64) t = true) ∧
  (∀ (p : Packet) (k : Nat) (s : State),
    s.behind { p with op := .wrPart } = false → p.src < 240 → LineQuiet (p.src / 20) (p.addr / 64) s →
    vbFind (p.src / 20) (p.addr / 64) s = none → l3Find (p.src / 20) (p.addr / 64) s = some k →
    (s.l3Pend.any fun q => q.die == p.src / 20 && q.line == (p.addr / 64) && !q.dead) = false →
    sliceDeny p.w (s.l3L k).w p.part (p.addr / 64) s = none → 3 ≤ (s.l3L k).st →
    presCores (clrBit (s.l3L k).pres (p.src % 20)) = [] → CoreQuiet p.src s →
    Gives (.wrPart p) s fun t => (t.l3L k).data = mergeLine (s.l3L k).data p.payload p.mask ∧ (t.l3L k).st = 4) ∧
  (∀ (p : Packet) (k : Nat) (s : State),
    s.behind { p with op := .wbL } = false → l3Find (p.src / 20) (p.addr / 64) s = some k →
    LineQuiet (p.src / 20) (p.addr / 64) s →
    Gives (.wbL p) s fun t =>
      (t.l3L k).data = p.payload ∧ (t.l3L k).st = 4 ∧ (t.l3L k).pres = clrBit (s.l3L k).pres (p.src % 20) ∧
      (t.l3L k).poison = p.poison) ∧
  (∀ (p : Packet) (k : Nat) (s : State),
    s.behind { p with op := .evL } = false → l3Find (p.src / 20) (p.addr / 64) s = some k →
    LineQuiet (p.src / 20) (p.addr / 64) s →
    Gives (.evL p) s fun t =>
      (t.l3L k).data = (s.l3L k).data ∧ (t.l3L k).st = (s.l3L k).st ∧
      (t.l3L k).pres = clrBit (s.l3L k).pres (p.src % 20)) ∧
  (∀ (p : Packet) (k j : Nat) (s : State),
    s.behind { p with op := .snpL } = false → l2On p.dst s = true → l2Has p.dst (p.addr / 64) s = some k →
    (s.l2L k).ten = false → (s.l2L k).st = 3 → l3Find (p.dst / 20) (p.addr / 64) s = some j →
    LineQuiet (p.dst / 20) (p.addr / 64) s →
    Gives (.snpL p) s fun t =>
      (t.l2L k).st = 1 ∧ (t.l2L k).data = (s.l2L k).data ∧ (t.l3L j).data = (s.l2L k).data ∧ (t.l3L j).st = 4) ∧
  (∀ (p : Packet) (k j : Nat) (s : State),
    s.behind { p with op := .snpLX } = false → l2On p.dst s = true → l2Has p.dst (p.addr / 64) s = some k →
    (s.l2L k).ten = false → (s.l2L k).st = 3 → l3Find (p.dst / 20) (p.addr / 64) s = some j →
    LineQuiet (p.dst / 20) (p.addr / 64) s → CoreQuiet p.dst s →
    Gives (.snpLX p) s fun t =>
      (t.l2L k).st = 0 ∧ (t.l3L j).data = (s.l2L k).data ∧ (t.l3L j).st = 4 ∧
      (t.l3L j).pres = clrBit (s.l3L j).pres (p.dst % 20)) ∧
  (∀ (p : Packet) (k : Nat) (s : State),
    s.behind { p with op := .snpL } = false → l2On p.dst s = true → l2Has p.dst (p.addr / 64) s = some k →
    (s.l2L k).ten = true →
    Gives (.snpL p) s fun t =>
      t.l2Held = s.l2Held ++ [⟨p.dst, (p.addr / 64), { p with op := .snpL }, 0⟩] ∧ t.l2 = s.l2) ∧
  (∀ (p : Packet) (k j : Nat) (s : State),
    s.behind { p with op := .invL } = false → l2On p.dst s = true → l2Has p.dst (p.addr / 64) s = some k →
    (s.l2L k).st = 1 → leaving p.dst (p.addr / 64) s = false → l3Find (p.dst / 20) (p.addr / 64) s = some j →
    LineQuiet (p.dst / 20) (p.addr / 64) s → CoreQuiet p.dst s →
    Gives (.invL p) s fun t => (t.l2L k).st = 0 ∧ (t.l3L j).pres = clrBit (s.l3L j).pres (p.dst % 20)) ∧
  (∀ (np line k : Nat) (s : State),
    l2Has np line s = some k → (s.l2Held.any fun r => r.die == np && r.line == line) = false →
    Gives (.tenureEnd np line) s fun t =>
      (t.l2L k).ten = false ∧ (t.l2L k).data = (s.l2L k).data ∧ (t.l2L k).st = (s.l2L k).st)

/-- GetS, GetX, UpgHA, RdNC and AtmH that pass the checks begin their transaction with the memory access; GetXZ is
granted, and CboC and CboF are completed, at once; a WrNC of class MG writes its line and is completed; WbM from the
owner writes memory, frees the entry and is acknowledged; EvC of the last die frees the entry; a packet of an unknown
opcode is counted and dropped. (R174, R176, R178, R182, R183, R189, R227, R269.) -/
def Obligations.HomeRequests : Prop :=
  (∀ (p : Packet) (s : State),
    s.behind { p with op := .getS } = false → HaQuiet s → s.haTx = [] → s.walks = [] → HaTakes p s →
    dirFind (lineOf p.addr) s = none →
    ((List.range 16).any fun w => !(s.dirE (dirKey (lineOf p.addr) w)).valid) = true →
    mcRoom (lineOf p.addr) 0 s = true →
    Gives (.getS p false false) s fun t =>
      (haTxOf (lineOf p.addr) t).map (fun x => (x.mem, x.req)) = some (1, some { p with op := .getS }) ∧
      (t.mcq.any fun q => q.addr == (lineOf p.addr) && q.kind == 0) = true) ∧
  (∀ (p : Packet) (s : State),
    s.behind { p with op := .getX } = false → HaQuiet s → s.haTx = [] → s.walks = [] → HaTakes p s →
    dirFind (lineOf p.addr) s = none →
    ((List.range 16).any fun w => !(s.dirE (dirKey (lineOf p.addr) w)).valid) = true →
    mcRoom (lineOf p.addr) 0 s = true →
    Gives (.getX p false false) s fun t =>
      (haTxOf (lineOf p.addr) t).map (fun x => (x.mem, x.req)) = some (1, some { p with op := .getX }) ∧
      (t.mcq.any fun q => q.addr == (lineOf p.addr) && q.kind == 0) = true) ∧
  (∀ (p : Packet) (s : State),
    s.behind { p with op := .upgHA } = false → HaQuiet s → s.haTx = [] → s.walks = [] → HaTakes p s →
    dirFind (lineOf p.addr) s = none →
    ((List.range 16).any fun w => !(s.dirE (dirKey (lineOf p.addr) w)).valid) = true →
    mcRoom (lineOf p.addr) 0 s = true →
    Gives (.upgHA p false false) s fun t =>
      (haTxOf (lineOf p.addr) t).map (fun x => (x.mem, x.req)) = some (1, some { p with op := .upgHA }) ∧
      (t.mcq.any fun q => q.addr == (lineOf p.addr) && q.kind == 0) = true) ∧
  (∀ (p : Packet) (s : State),
    s.behind { p with op := .getXZ } = false → HaQuiet s → s.haTx = [] → s.walks = [] → HaTakes p s →
    dirFind (lineOf p.addr) s = none →
    ((List.range 16).any fun w => !(s.dirE (dirKey (lineOf p.addr) w)).valid) = true → p.src < 240 →
    dieAbsent (mcOf (lineOf p.addr)) (p.src / 20) s = false →
    Gives (.getXZ p false false) s fun t =>
      sent .gntX p.src p.addr t = true ∧ (haTxOf (lineOf p.addr) t).map (·.ack) = some true) ∧
  (∀ (p : Packet) (s : State),
    s.behind { p with op := .rdNC } = false → HaQuiet s → s.haTx = [] → s.walks = [] → HaTakes p s →
    dirFind (lineOf p.addr) s = none → mcRoom (lineOf p.addr) 0 s = true →
    Gives (.rdNC p false false) s fun t =>
      (haTxOf (lineOf p.addr) t).map (fun x => (x.mem, x.req)) = some (1, some { p with op := .rdNC }) ∧
      (t.mcq.any fun q => q.addr == (lineOf p.addr) && q.kind == 0) = true) ∧
  (∀ (p : Packet) (s : State),
    s.behind { p with op := .atmH } = false → HaQuiet s → s.haTx = [] → s.walks = [] → HaTakes p s →
    dirFind (lineOf p.addr) s = none → (s.atomBuf.find? fun e => e.addr == (lineOf p.addr)) = none →
    mcRoom (lineOf p.addr) (if atomMemory (lineOf p.addr) s then 2 else 0) s = true →
    Gives (.atmH p false false) s fun t =>
      (haTxOf (lineOf p.addr) t).map (fun x => (x.mem, x.req)) = some (1, some { p with op := .atmH }) ∧
      (t.mcq.any fun q => q.addr == (lineOf p.addr) && q.kind == (if atomMemory (lineOf p.addr) s then 2 else 0)) =
        true) ∧
  (∀ (p : Packet) (s : State),
    s.behind { p with op := .cboC } = false → HaQuiet s → s.haTx = [] → s.walks = [] → HaChecks p s →
    dirFind (lineOf p.addr) s = none →
    Gives (.cboC p false false) s fun t => sent .cmp p.src p.addr t = true ∧ t.haTx = []) ∧
  (∀ (p : Packet) (s : State),
    s.behind { p with op := .cboF } = false → HaQuiet s → s.haTx = [] → s.walks = [] → HaChecks p s →
    dirFind (lineOf p.addr) s = none →
    Gives (.cboF p false false) s fun t => sent .cmp p.src p.addr t = true ∧ t.haTx = []) ∧
  (∀ (p : Packet) (s : State),
    s.behind { p with op := .wrNC } = false → HaQuiet s → s.haTx = [] → s.walks = [] → HaTakes p s →
    dirFind (lineOf p.addr) s = none → (s.atomBuf.find? fun e => e.addr == (lineOf p.addr)) = none → s.mcq = [] →
    p.cls = .mg → wrFull (lineOf p.addr) s = false → ncPair { p with op := .wrNC } = false →
    maskCovers p.mask 0 = true → maskCovers p.mask 1 = true → codeOf (lineOf p.addr) s ≠ 0 →
    Gives (.wrNC p false false) s fun t =>
      wrFind (lineOf p.addr) t = some ⟨(lineOf p.addr), p.payload, p.poison, 3⟩ ∧ sent .cmp p.src p.addr t = true ∧
      t.haTx = []) ∧
  (∀ (p : Packet) (k : Nat) (s : State),
    s.behind { p with op := .wbM } = false → HaQuiet s → haTxOf (lineOf p.addr) s = none →
    dirFind (lineOf p.addr) s = some k → (s.dirE k).ex = true → (s.dirE k).pv.testBit (dieOfAgent p.src) = true →
    Gives (.wbM p) s fun t =>
      sent .wbAck p.src (lineOf p.addr) t = true ∧ (t.dirE k).valid = false ∧
      (wrFind (lineOf p.addr) t).map (·.data) = some p.payload) ∧
  (∀ (p : Packet) (s : State),
    s.behind { p with op := .wbM } = false → dirFind (lineOf p.addr) s = none →
    Gives (.wbM p) s fun t =>
      sent .wbAck p.src (lineOf p.addr) t = true ∧ t.f F.HA_ERR_CODE (mcOf (lineOf p.addr)) = 1 ∧ t.wrq = s.wrq ∧
      t.mem = s.mem) ∧
  (∀ (p : Packet) (k : Nat) (s : State),
    s.behind { p with op := .evC } = false → HaQuiet s → haTxOf (lineOf p.addr) s = none →
    dirFind (lineOf p.addr) s = some k → (s.dirE k).pv.testBit (dieOfAgent p.src) = true →
    clrBit (s.dirE k).pv (dieOfAgent p.src) = 0 →
    Gives (.evC p) s fun t => sent .evAck p.src (lineOf p.addr) t = true ∧ (t.dirE k).valid = false) ∧
  (∀ (p : Packet) (s : State),
    Gives (.packetUnknownOpcode p) s fun t =>
      t.out = s.out.erase (.pkt p) ∧
      t.f F.FAB_STATUS_BADPKT 0 = min (s.f F.FAB_STATUS_BADPKT 0 + 1) (fldMax F.FAB_STATUS_BADPKT)) ∧
  (∀ (p : Packet) (s : State),
    s.behind { p with op := .getS } = false → HaQuiet s → haCredit (mcOf p.addr) p.cls s = true → p.w = false →
    inDram (lineOf p.addr) s = true → dramWorld (lineOf p.addr) s = true →
    Gives (.getS p false false) s fun t =>
      sent .dataE p.src p.addr t = true ∧ t.b F.WC_STATUS_DENY 0 = true ∧ t.haTx = s.haTx ∧ t.haQ = s.haQ)

/-- A response from a die that a transaction has snooped, while others are awaited, is noted in the transaction: the die
that answered, that the line is gone or was forwarded, or its data, or that its write-back is awaited; any other
response is an error with code 2; CmpAck closes the transaction; WbAck and EvAck release the victim buffer. (R181, R182,
R185, R188, R196, R198.) -/
def Obligations.SnoopResponses : Prop :=
  (∀ (p : Packet) (x : HaTx) (s : State),
    s.behind { p with op := .rspI } = false → HaQuiet s → haTxOf (lineOf p.addr) s = some x →
    x.snoops.contains (dieOfAgent p.src) = true → x.snoops.erase (dieOfAgent p.src) ≠ [] →
    Gives (.rspI p) s fun t =>
      (haTxOf (lineOf p.addr) t).map (fun y => (y.snoops, y.gone)) = some (x.snoops.erase (dieOfAgent p.src), true)) ∧
  (∀ (p : Packet) (s : State),
    s.behind { p with op := .rspI } = false → haTxOf (lineOf p.addr) s = none →
    Gives (.rspI p) s fun t =>
      t.b F.HA_ERR_ERR (mcOf (lineOf p.addr)) = true ∧ t.f F.HA_ERR_CODE (mcOf (lineOf p.addr)) = 2 ∧
      t.haTx = s.haTx ∧ t.dir = s.dir) ∧
  (∀ (p : Packet) (x : HaTx) (s : State),
    s.behind { p with op := .rspS } = false → HaQuiet s → haTxOf (lineOf p.addr) s = some x →
    x.snoops.contains (dieOfAgent p.src) = true → x.snoops.erase (dieOfAgent p.src) ≠ [] →
    Gives (.rspS p) s fun t =>
      (haTxOf (lineOf p.addr) t).map (fun y => (y.snoops, y.gone)) = some (x.snoops.erase (dieOfAgent p.src), x.gone)) ∧
  (∀ (p : Packet) (s : State),
    s.behind { p with op := .rspS } = false → haTxOf (lineOf p.addr) s = none →
    Gives (.rspS p) s fun t =>
      t.b F.HA_ERR_ERR (mcOf (lineOf p.addr)) = true ∧ t.f F.HA_ERR_CODE (mcOf (lineOf p.addr)) = 2 ∧
      t.haTx = s.haTx ∧ t.dir = s.dir) ∧
  (∀ (p : Packet) (x : HaTx) (s : State),
    s.behind { p with op := .rspFwdS } = false → HaQuiet s → haTxOf (lineOf p.addr) s = some x →
    x.snoops.contains (dieOfAgent p.src) = true → x.snoops.erase (dieOfAgent p.src) ≠ [] →
    Gives (.rspFwdS p) s fun t =>
      (haTxOf (lineOf p.addr) t).map (fun y => (y.snoops, y.fwd)) = some (x.snoops.erase (dieOfAgent p.src), true)) ∧
  (∀ (p : Packet) (s : State),
    s.behind { p with op := .rspFwdS } = false → haTxOf (lineOf p.addr) s = none →
    Gives (.rspFwdS p) s fun t =>
      t.b F.HA_ERR_ERR (mcOf (lineOf p.addr)) = true ∧ t.f F.HA_ERR_CODE (mcOf (lineOf p.addr)) = 2 ∧
      t.haTx = s.haTx ∧ t.dir = s.dir) ∧
  (∀ (p : Packet) (x : HaTx) (s : State),
    s.behind { p with op := .rspFwdI } = false → HaQuiet s → haTxOf (lineOf p.addr) s = some x →
    x.snoops.contains (dieOfAgent p.src) = true → x.snoops.erase (dieOfAgent p.src) ≠ [] →
    Gives (.rspFwdI p) s fun t =>
      (haTxOf (lineOf p.addr) t).map (fun y => (y.snoops, y.fwd)) = some (x.snoops.erase (dieOfAgent p.src), true)) ∧
  (∀ (p : Packet) (s : State),
    s.behind { p with op := .rspFwdI } = false → haTxOf (lineOf p.addr) s = none →
    Gives (.rspFwdI p) s fun t =>
      t.b F.HA_ERR_ERR (mcOf (lineOf p.addr)) = true ∧ t.f F.HA_ERR_CODE (mcOf (lineOf p.addr)) = 2 ∧
      t.haTx = s.haTx ∧ t.dir = s.dir) ∧
  (∀ (p : Packet) (x : HaTx) (s : State),
    s.behind { p with op := .rspRclD } = false → HaQuiet s → haTxOf (lineOf p.addr) s = some x →
    x.snoops.contains (dieOfAgent p.src) = true → x.snoops.erase (dieOfAgent p.src) ≠ [] →
    Gives (.rspRclD p) s fun t =>
      (haTxOf (lineOf p.addr) t).map (fun y => (y.snoops, y.gone, y.data)) = some (x.snoops.erase (dieOfAgent p.src),
        true, pktLine p)) ∧
  (∀ (p : Packet) (s : State),
    s.behind { p with op := .rspRclD } = false → haTxOf (lineOf p.addr) s = none →
    Gives (.rspRclD p) s fun t =>
      t.b F.HA_ERR_ERR (mcOf (lineOf p.addr)) = true ∧ t.f F.HA_ERR_CODE (mcOf (lineOf p.addr)) = 2 ∧
      t.haTx = s.haTx ∧ t.dir = s.dir) ∧
  (∀ (p : Packet) (x : HaTx) (s : State),
    s.behind { p with op := .wbC } = false → HaQuiet s → haTxOf (lineOf p.addr) s = some x →
    x.snoops.contains (dieOfAgent p.src) = true → x.snoops.erase (dieOfAgent p.src) ≠ [] →
    Gives (.wbC p) s fun t =>
      (haTxOf (lineOf p.addr) t).map (fun y => (y.snoops, y.data)) = some (x.snoops.erase (dieOfAgent p.src), pktLine
        p)) ∧
  (∀ (p : Packet) (s : State),
    s.behind { p with op := .wbC } = false → haTxOf (lineOf p.addr) s = none →
    Gives (.wbC p) s fun t =>
      t.b F.HA_ERR_ERR (mcOf (lineOf p.addr)) = true ∧ t.f F.HA_ERR_CODE (mcOf (lineOf p.addr)) = 2 ∧
      t.haTx = s.haTx ∧ t.dir = s.dir) ∧
  (∀ (p : Packet) (x : HaTx) (s : State),
    s.behind { p with op := .rspWbP } = false → HaQuiet s → haTxOf (lineOf p.addr) s = some x →
    x.snoops.contains (dieOfAgent p.src) = true → x.snoops.erase (dieOfAgent p.src) ≠ [] →
    Gives (.rspWbP p) s fun t =>
      (haTxOf (lineOf p.addr) t).map (fun y => (y.snoops, y.gone, y.wbp)) = some (x.snoops.erase (dieOfAgent p.src),
        true, if x.data.isSome then x.wbp else x.wbp ++ [dieOfAgent p.src])) ∧
  (∀ (p : Packet) (s : State),
    s.behind { p with op := .rspWbP } = false → haTxOf (lineOf p.addr) s = none →
    Gives (.rspWbP p) s fun t =>
      t.b F.HA_ERR_ERR (mcOf (lineOf p.addr)) = true ∧ t.f F.HA_ERR_CODE (mcOf (lineOf p.addr)) = 2 ∧
      t.haTx = s.haTx ∧ t.dir = s.dir) ∧
  (∀ (p : Packet) (x : HaTx) (k : Nat) (s : State),
    s.behind { p with op := .cmpAck } = false → HaQuiet s → haTxOf (lineOf p.addr) s = some x → x.ack = true →
    dirFind (lineOf p.addr) s = some k → (s.dirE k).pv ≠ 0 →
    Gives (.cmpAck p) s fun t =>
      haTxOf (lineOf p.addr) t = none ∧ (t.dirE k).busy = false ∧ (t.dirE k).pv = (s.dirE k).pv) ∧
  (∀ (p : Packet) (s : State),
    s.behind { p with op := .wbAck } = false →
    (s.sliceQ.any fun r => r.die == dieOfAgent p.dst && r.line % 20 == (p.addr / 64) % 20) = false →
    Gives (.wbAck p) s fun t =>
      t.vb = s.vb.eraseP (fun v => v.die == dieOfAgent p.dst && v.line == (p.addr / 64) && v.wbm == true)) ∧
  (∀ (p : Packet) (s : State),
    s.behind { p with op := .evAck } = false →
    (s.sliceQ.any fun r => r.die == dieOfAgent p.dst && r.line % 20 == (p.addr / 64) % 20) = false →
    Gives (.evAck p) s fun t =>
      t.vb = s.vb.eraseP (fun v => v.die == dieOfAgent p.dst && v.line == (p.addr / 64) && v.wbm == false))

/-- A snoop finds no line and answers RspI; SnpS leaves S and forwards, SnpX and Inv drop a line that no core holds,
SnpC cleans a dirty one, and Rcl returns the data of a dirty one; a grant for a request of the slice is installed in the
state it gives, acknowledged with CmpAck, and ends the request; GntX keeps the data of the line; a lost die is absent at
every home agent and its L3 is empty. (R174, R179, R181, R188, R196, R212.) -/
def Obligations.DieSnoopsAndGrants : Prop :=
  (∀ (p : Packet) (s : State),
    s.behind { p with op := .snpS } = false → p.dst < 240 → LineQuiet (p.dst / 20) (p.addr / 64) s →
    vbFind (p.dst / 20) (p.addr / 64) s = none → l3Find (p.dst / 20) (p.addr / 64) s = none →
    Gives (.snpS p) s fun t =>
      sent .rspI (0x100 + mcOf ((p.addr / 64) * 64)) ((p.addr / 64) * 64) t = true ∧ t.l3 = s.l3) ∧
  (∀ (p : Packet) (s : State),
    s.behind { p with op := .snpX } = false → p.dst < 240 → LineQuiet (p.dst / 20) (p.addr / 64) s →
    vbFind (p.dst / 20) (p.addr / 64) s = none → l3Find (p.dst / 20) (p.addr / 64) s = none →
    Gives (.snpX p) s fun t =>
      sent .rspI (0x100 + mcOf ((p.addr / 64) * 64)) ((p.addr / 64) * 64) t = true ∧ t.l3 = s.l3) ∧
  (∀ (p : Packet) (s : State),
    s.behind { p with op := .snpC } = false → p.dst < 240 → LineQuiet (p.dst / 20) (p.addr / 64) s →
    vbFind (p.dst / 20) (p.addr / 64) s = none → l3Find (p.dst / 20) (p.addr / 64) s = none →
    Gives (.snpC p) s fun t =>
      sent .rspI (0x100 + mcOf ((p.addr / 64) * 64)) ((p.addr / 64) * 64) t = true ∧ t.l3 = s.l3) ∧
  (∀ (p : Packet) (s : State),
    s.behind { p with op := .inv } = false → p.dst < 240 → LineQuiet (p.dst / 20) (p.addr / 64) s →
    vbFind (p.dst / 20) (p.addr / 64) s = none → l3Find (p.dst / 20) (p.addr / 64) s = none →
    Gives (.inv p) s fun t =>
      sent .rspI (0x100 + mcOf ((p.addr / 64) * 64)) ((p.addr / 64) * 64) t = true ∧ t.l3 = s.l3) ∧
  (∀ (p : Packet) (s : State),
    s.behind { p with op := .rcl } = false → p.dst < 240 → LineQuiet (p.dst / 20) (p.addr / 64) s →
    vbFind (p.dst / 20) (p.addr / 64) s = none → l3Find (p.dst / 20) (p.addr / 64) s = none →
    Gives (.rcl p) s fun t =>
      sent .rspI (0x100 + mcOf ((p.addr / 64) * 64)) ((p.addr / 64) * 64) t = true ∧ t.l3 = s.l3) ∧
  (∀ (p : Packet) (k : Nat) (s : State),
    s.behind { p with op := .snpS } = false → p.dst < 240 → LineQuiet (p.dst / 20) (p.addr / 64) s →
    vbFind (p.dst / 20) (p.addr / 64) s = none → l3Find (p.dst / 20) (p.addr / 64) s = some k → (s.l3L k).own = 20 →
    Gives (.snpS p) s fun t =>
      (t.l3L k).st = 1 ∧ sent .rspFwdS (0x100 + mcOf ((p.addr / 64) * 64)) ((p.addr / 64) * 64) t = true) ∧
  (∀ (p : Packet) (k : Nat) (s : State),
    s.behind { p with op := .snpX } = false → p.dst < 240 → LineQuiet (p.dst / 20) (p.addr / 64) s →
    vbFind (p.dst / 20) (p.addr / 64) s = none → l3Find (p.dst / 20) (p.addr / 64) s = some k →
    presCores (s.l3L k).pres = [] →
    Gives (.snpX p) s fun t =>
      (t.l3L k).st = 0 ∧ sent .rspFwdI (0x100 + mcOf ((p.addr / 64) * 64)) ((p.addr / 64) * 64) t = true) ∧
  (∀ (p : Packet) (k : Nat) (s : State),
    s.behind { p with op := .snpC } = false → p.dst < 240 → LineQuiet (p.dst / 20) (p.addr / 64) s →
    vbFind (p.dst / 20) (p.addr / 64) s = none → l3Find (p.dst / 20) (p.addr / 64) s = some k → (s.l3L k).st = 4 →
    (s.l3L k).own = 20 →
    Gives (.snpC p) s fun t =>
      (t.l3L k).st = 3 ∧ (t.l3L k).data = (s.l3L k).data ∧
      sent .wbC (0x100 + mcOf ((p.addr / 64) * 64)) ((p.addr / 64) * 64) t = true) ∧
  (∀ (p : Packet) (k : Nat) (s : State),
    s.behind { p with op := .inv } = false → p.dst < 240 → LineQuiet (p.dst / 20) (p.addr / 64) s →
    vbFind (p.dst / 20) (p.addr / 64) s = none → l3Find (p.dst / 20) (p.addr / 64) s = some k →
    presCores (s.l3L k).pres = [] →
    Gives (.inv p) s fun t =>
      (t.l3L k).st = 0 ∧ sent .rspI (0x100 + mcOf ((p.addr / 64) * 64)) ((p.addr / 64) * 64) t = true) ∧
  (∀ (p : Packet) (k : Nat) (s : State),
    s.behind { p with op := .rcl } = false → p.dst < 240 → LineQuiet (p.dst / 20) (p.addr / 64) s →
    vbFind (p.dst / 20) (p.addr / 64) s = none → l3Find (p.dst / 20) (p.addr / 64) s = some k →
    presCores (s.l3L k).pres = [] → (s.l3L k).st = 4 →
    Gives (.rcl p) s fun t =>
      (t.l3L k).st = 0 ∧ sent .rspRclD (0x100 + mcOf ((p.addr / 64) * 64)) ((p.addr / 64) * 64) t = true) ∧
  (∀ (p : Packet) (q : L3Pend) (x : Nat) (s : State),
    s.behind { p with op := .dataE } = false → p.dst < 240 → LineQuiet (p.dst / 20) (p.addr / 64) s →
    s.l3Pend.find? (fun q => q.die == (p.dst / 20) && q.line == (p.addr / 64) && q.tag == p.tag) = some q →
    p.resp = 0 → l3Find (p.dst / 20) (p.addr / 64) s = none →
    (l3Ways (p.dst / 20) (p.addr / 64) q.req.part s).1.find? (fun x => (s.l3L (l3Key (p.dst / 20) (p.addr / 64) x)).st
      == 0) = some x →
    Gives (.dataE p) s fun t =>
      (t.l3L (l3Key (p.dst / 20) (p.addr / 64) x)).st = 3 ∧
      (t.l3L (l3Key (p.dst / 20) (p.addr / 64) x)).data = p.payload ∧
      (t.l3L (l3Key (p.dst / 20) (p.addr / 64) x)).line = (p.addr / 64) ∧ t.l3Pend = s.l3Pend.erase q ∧
      sent .cmpAck (0x100 + mcOf ((p.addr / 64) * 64)) ((p.addr / 64) * 64) t = true) ∧
  (∀ (p : Packet) (q : L3Pend) (x : Nat) (s : State),
    s.behind { p with op := .dataF } = false → p.dst < 240 → LineQuiet (p.dst / 20) (p.addr / 64) s →
    s.l3Pend.find? (fun q => q.die == (p.dst / 20) && q.line == (p.addr / 64) && q.tag == p.tag) = some q →
    p.resp = 0 → l3Find (p.dst / 20) (p.addr / 64) s = none →
    (l3Ways (p.dst / 20) (p.addr / 64) q.req.part s).1.find? (fun x => (s.l3L (l3Key (p.dst / 20) (p.addr / 64) x)).st
      == 0) = some x →
    Gives (.dataF p) s fun t =>
      (t.l3L (l3Key (p.dst / 20) (p.addr / 64) x)).st = 2 ∧
      (t.l3L (l3Key (p.dst / 20) (p.addr / 64) x)).data = p.payload ∧
      (t.l3L (l3Key (p.dst / 20) (p.addr / 64) x)).line = (p.addr / 64) ∧ t.l3Pend = s.l3Pend.erase q ∧
      sent .cmpAck (0x100 + mcOf ((p.addr / 64) * 64)) ((p.addr / 64) * 64) t = true) ∧
  (∀ (p : Packet) (q : L3Pend) (x : Nat) (s : State),
    s.behind { p with op := .fwdData } = false → p.dst < 240 → LineQuiet (p.dst / 20) (p.addr / 64) s →
    s.l3Pend.find? (fun q => q.die == (p.dst / 20) && q.line == (p.addr / 64) && q.tag == p.tag) = some q →
    p.resp = 0 → l3Find (p.dst / 20) (p.addr / 64) s = none →
    (l3Ways (p.dst / 20) (p.addr / 64) q.req.part s).1.find? (fun x => (s.l3L (l3Key (p.dst / 20) (p.addr / 64) x)).st
      == 0) = some x →
    Gives (.fwdData p) s fun t =>
      (t.l3L (l3Key (p.dst / 20) (p.addr / 64) x)).st = (if p.st = .m then 4 else if p.st = .e then 3 else 2) ∧
      (t.l3L (l3Key (p.dst / 20) (p.addr / 64) x)).data = p.payload ∧
      (t.l3L (l3Key (p.dst / 20) (p.addr / 64) x)).line = (p.addr / 64) ∧ t.l3Pend = s.l3Pend.erase q ∧
      sent .cmpAck (0x100 + mcOf ((p.addr / 64) * 64)) ((p.addr / 64) * 64) t = true) ∧
  (∀ (p : Packet) (q : L3Pend) (x : Nat) (s : State),
    s.behind { p with op := .dataE } = false → p.dst < 240 →
    (s.sliceQ.filter fun r => r.die == (p.dst / 20) && r.line == (p.addr / 64)) =
      [{ die := (p.dst / 20), line := (p.addr / 64), p := q.req, sent := 0 }] →
    q.req.op = .rdS → q.req.src / 20 = (p.dst / 20) → vbFind (p.dst / 20) (p.addr / 64) s = none →
    s.l3Pend.find? (fun q => q.die == (p.dst / 20) && q.line == (p.addr / 64) && q.tag == p.tag) = some q →
    (s.l3Pend.all fun y => y == q || !(y.die == (p.dst / 20) && y.line == (p.addr / 64))) = true → s.l3Pend.Nodup →
    p.resp = 0 → l3Find (p.dst / 20) (p.addr / 64) s = none →
    (l3Ways (p.dst / 20) (p.addr / 64) q.req.part s).1.find? (fun x => (s.l3L (l3Key (p.dst / 20) (p.addr / 64) x)).st
      == 0) = some x →
    sliceDeny q.req.w p.w q.req.part (p.addr / 64) s = none →
    Gives (.dataE p) s fun t =>
      (t.l3L (l3Key (p.dst / 20) (p.addr / 64) x)).st = 3 ∧
      (t.l3L (l3Key (p.dst / 20) (p.addr / 64) x)).data = p.payload ∧
      (t.l3L (l3Key (p.dst / 20) (p.addr / 64) x)).pres = 2 ^ (q.req.src % 20) ∧
      LineQuiet (p.dst / 20) (p.addr / 64) t ∧
      sent .cmpAck (0x100 + mcOf ((p.addr / 64) * 64)) ((p.addr / 64) * 64) t = true) ∧
  (∀ (p : Packet) (q : L3Pend) (x : Nat) (s : State),
    s.behind { p with op := .dataF } = false → p.dst < 240 →
    (s.sliceQ.filter fun r => r.die == (p.dst / 20) && r.line == (p.addr / 64)) =
      [{ die := (p.dst / 20), line := (p.addr / 64), p := q.req, sent := 0 }] →
    q.req.op = .rdS → q.req.src / 20 = (p.dst / 20) → vbFind (p.dst / 20) (p.addr / 64) s = none →
    s.l3Pend.find? (fun q => q.die == (p.dst / 20) && q.line == (p.addr / 64) && q.tag == p.tag) = some q →
    (s.l3Pend.all fun y => y == q || !(y.die == (p.dst / 20) && y.line == (p.addr / 64))) = true → s.l3Pend.Nodup →
    p.resp = 0 → l3Find (p.dst / 20) (p.addr / 64) s = none →
    (l3Ways (p.dst / 20) (p.addr / 64) q.req.part s).1.find? (fun x => (s.l3L (l3Key (p.dst / 20) (p.addr / 64) x)).st
      == 0) = some x →
    sliceDeny q.req.w p.w q.req.part (p.addr / 64) s = none →
    Gives (.dataF p) s fun t =>
      (t.l3L (l3Key (p.dst / 20) (p.addr / 64) x)).st = 2 ∧
      (t.l3L (l3Key (p.dst / 20) (p.addr / 64) x)).data = p.payload ∧
      (t.l3L (l3Key (p.dst / 20) (p.addr / 64) x)).pres = 2 ^ (q.req.src % 20) ∧
      LineQuiet (p.dst / 20) (p.addr / 64) t ∧
      sent .cmpAck (0x100 + mcOf ((p.addr / 64) * 64)) ((p.addr / 64) * 64) t = true) ∧
  (∀ (p : Packet) (q : L3Pend) (x : Nat) (s : State),
    s.behind { p with op := .fwdData } = false → p.dst < 240 →
    (s.sliceQ.filter fun r => r.die == (p.dst / 20) && r.line == (p.addr / 64)) =
      [{ die := (p.dst / 20), line := (p.addr / 64), p := q.req, sent := 0 }] →
    q.req.op = .rdS → q.req.src / 20 = (p.dst / 20) → vbFind (p.dst / 20) (p.addr / 64) s = none →
    s.l3Pend.find? (fun q => q.die == (p.dst / 20) && q.line == (p.addr / 64) && q.tag == p.tag) = some q →
    (s.l3Pend.all fun y => y == q || !(y.die == (p.dst / 20) && y.line == (p.addr / 64))) = true → s.l3Pend.Nodup →
    p.resp = 0 → l3Find (p.dst / 20) (p.addr / 64) s = none →
    (l3Ways (p.dst / 20) (p.addr / 64) q.req.part s).1.find? (fun x => (s.l3L (l3Key (p.dst / 20) (p.addr / 64) x)).st
      == 0) = some x →
    sliceDeny q.req.w p.w q.req.part (p.addr / 64) s = none →
    Gives (.fwdData p) s fun t =>
      (t.l3L (l3Key (p.dst / 20) (p.addr / 64) x)).st = (if p.st = .m then 4 else if p.st = .e then 3 else 2) ∧
      (t.l3L (l3Key (p.dst / 20) (p.addr / 64) x)).data = p.payload ∧
      (t.l3L (l3Key (p.dst / 20) (p.addr / 64) x)).pres = 2 ^ (q.req.src % 20) ∧
      LineQuiet (p.dst / 20) (p.addr / 64) t ∧
      sent .cmpAck (0x100 + mcOf ((p.addr / 64) * 64)) ((p.addr / 64) * 64) t = true) ∧
  (∀ (p : Packet) (q : L3Pend) (k : Nat) (s : State),
    s.behind { p with op := .gntX } = false → p.dst < 240 → LineQuiet (p.dst / 20) (p.addr / 64) s →
    s.l3Pend.find? (fun q => q.die == (p.dst / 20) && q.line == (p.addr / 64) && q.tag == p.tag) = some q →
    p.resp = 0 → l3Find (p.dst / 20) (p.addr / 64) s = some k →
    Gives (.gntX p) s fun t =>
      (t.l3L k).st = 3 ∧ (t.l3L k).data = (s.l3L k).data ∧ t.l3Pend = s.l3Pend.erase q ∧
      sent .cmpAck (0x100 + mcOf ((p.addr / 64) * 64)) ((p.addr / 64) * 64) t = true) ∧
  (∀ (n : Nat) (s : State),
    n < 12 →
    Gives (.dieLost n) s fun t =>
      ((List.range 16).all fun k => t.fbit F.HA_DIE_STATE_ABSENT k n) = true ∧
      (t.l3.all fun e => l3Die e.1 != n) = true ∧ t.fbit F.PHE_REPLICA_STATUS_VALID 0 n = false)

/-- Cmp that matches a store ends it and the oldest entry leaves the store buffer; DataIO gives a load its bytes,
extended; CmpIO frees a timed store; a completion that matches nothing is counted; a timeout puts the tag in quarantine,
is recorded, and answers the initiator with an error; a quarantined tag is withdrawn. (R130, R204, R207, R270, R287,
R288.) -/
def Obligations.Completions : Prop :=
  (∀ (p : Packet) (x : Tx) (h : Nat) (e : SbEntry) (r : List SbEntry) (s : State),
    s.behind { p with op := .cmp } = false → txMatch { p with op := .cmp } s = some x → x.phase = 0 →
    x.own = .store h → p.resp = 0 → (s.hart h).sb = e :: r → (s.hart h).loads = [] → (s.hart h).stall = .none →
    Gives (.cmp p) s fun t => (t.hart h).sb = r ∧ t.txs = s.txs.erase x) ∧
  (∀ (p : Packet) (x : Tx) (h rd : Nat) (sg : Bool) (l : PLoad) (a : LAcc) (s : State),
    s.behind { p with op := .dataIO } = false → txMatch { p with op := .dataIO } s = some x → x.phase = 0 →
    x.own = .load h l.id 0 → p.resp = 0 → (s.hart h).loads = [l] → l.accs = [a] → l.dst = .x rd sg → rd < 32 →
    l.amo = none → l.after = none → l.desc = none → poisonIn p.poison (a.pa % 64) a.size = false →
    Gives (.dataIO p) s fun t =>
      (t.hart h).getX rd = (if rd = 0 then 0 else extend sg a.size (lineBytes p.payload (a.pa % 64) a.size)) ∧
      (t.hart h).loads = []) ∧
  (∀ (p : Packet) (x : Tx) (h k : Nat) (e : TsEntry) (s : State),
    s.behind { p with op := .cmpIO } = false → txMatch { p with op := .cmpIO } s = some x → x.phase = 0 →
    x.own = .timed h k → p.resp = 0 → (s.tsQ h).find? (fun y => y.id == k) = some e →
    Gives (.cmpIO p) s fun t => t.tsQ h = (s.tsQ h).filter (fun y => y.id != k) ∧ t.txs = s.txs.erase x) ∧
  (∀ (p : Packet) (s : State),
    s.behind { p with op := .cmp } = false → txMatch { p with op := .cmp } s = none →
    Gives (.cmp p) s fun t =>
      t.txs = s.txs ∧ t.harts = s.harts ∧
      t.f F.FAB_STATUS_LATE_CNT 0 = min (s.f F.FAB_STATUS_LATE_CNT 0 + 1) (fldMax F.FAB_STATUS_LATE_CNT)) ∧
  (∀ (p : Packet) (s : State),
    s.behind { p with op := .cmpIO } = false → txMatch { p with op := .cmpIO } s = none →
    Gives (.cmpIO p) s fun t =>
      t.txs = s.txs ∧ t.harts = s.harts ∧
      t.f F.FAB_STATUS_LATE_CNT 0 = min (s.f F.FAB_STATUS_LATE_CNT 0 + 1) (fldMax F.FAB_STATUS_LATE_CNT)) ∧
  (∀ (p : Packet) (s : State),
    s.behind { p with op := .dataIO } = false → txMatch { p with op := .dataIO } s = none →
    Gives (.dataIO p) s fun t =>
      t.txs = s.txs ∧ t.harts = s.harts ∧
      t.f F.FAB_STATUS_LATE_CNT 0 = min (s.f F.FAB_STATUS_LATE_CNT 0 + 1) (fldMax F.FAB_STATUS_LATE_CNT)) ∧
  (∀ (src tag h k : Nat) (x : Tx) (e : TsEntry) (s : State),
    s.txs.find? (fun y => y.src == src && y.tag == tag && y.phase == 0 && timedOut 1 y.addr y.t0 s) = some x →
    x.own = .timed h k → (s.tsQ h).find? (fun y => y.id == k) = some e →
    Gives (.fabricTimeout src tag) s fun t =>
      t.b F.PHE_TSQ_STATUS_ERR (tsIx h e.info.w) = true ∧ t.tsQ h = (s.tsQ h).filter (fun y => y.id != k) ∧
      t.txs = s.txs.map (fun y => if y = x then { x with phase := 1 } else y) ∧ t.b F.FAB_TO_ADDR_W 0 = x.w ∧
      t.pulses.contains 34 = true) ∧
  (∀ (src tag : Nat) (x : Tx) (s : State),
    s.txs.find? (fun y => y.src == src && y.tag == tag && y.phase == 1 && timedOut 4 y.addr y.t0 s) = some x →
    Gives (.tagWithdraw src tag) s fun t =>
      t.txs = s.txs.map (fun y => if y = x then { x with phase := 2 } else y) ∧
      t.f F.FAB_STATUS_TAG_LOST 0 = min (s.f F.FAB_STATUS_TAG_LOST 0 + 1) (fldMax F.FAB_STATUS_TAG_LOST))

/-- A refresh that is due and not postponed is done, one with a GT request is postponed up to eight times; MR4 sets
TEMP_RATE to the highest rate; a drift is counted; the oldest BE or MG request of a line becomes HP; a completed read
leaves the controller; an idle sub-channel enters power-down; a queued write bursts to DRAM; a scrub step moves on; a
leak takes 1 from every bucket. (R221, R222, R224, R225, R227, R234, R253, R256.) -/
def Obligations.MemoryControllers : Prop :=
  (∀ (k c w : Nat) (r : Bool) (s : State),
    s.fbit F.MC_STATUS_SELFREF k c = false → (gtForBank k c w s || r) = false →
    Gives (.bankRefresh k c w true r) s fun t => smapGet (fun _ => 0) t.mcBank ((k * 4 + c) * 16 + w) = 0) ∧
  (∀ (k c w : Nat) (r : Bool) (s : State),
    s.fbit F.MC_STATUS_SELFREF k c = false → (gtForBank k c w s || r) = true →
    smapGet (fun _ => 0) s.mcBank ((k * 4 + c) * 16 + w) < 8 →
    Gives (.bankRefresh k c w true r) s fun t =>
      smapGet (fun _ => 0) t.mcBank ((k * 4 + c) * 16 + w) = smapGet (fun _ => 0) s.mcBank ((k * 4 + c) * 16 + w) + 1
        ∧
      t.mcStart.contains (k * 4 + c) = true ∧ t.f F.MC_STATUS_FORCED_REF k = s.f F.MC_STATUS_FORCED_REF k) ∧
  (∀ (k c w : Nat) (r : Bool) (s : State),
    s.fbit F.MC_STATUS_SELFREF k c = false → smapGet (fun _ => 0) s.mcBank ((k * 4 + c) * 16 + w) = 8 →
    Gives (.bankRefresh k c w true r) s fun t =>
      smapGet (fun _ => 0) t.mcBank ((k * 4 + c) * 16 + w) = 0 ∧
      t.f F.MC_STATUS_FORCED_REF k = min (s.f F.MC_STATUS_FORCED_REF k + 1) (fldMax F.MC_STATUS_FORCED_REF)) ∧
  (∀ (k c : Nat) (s : State),
    s.mcStart.contains (k * 4 + c) = true → gtQueued k c s = false →
    Gives (.zqCalibration k c) s fun t =>
      t.mcStart = s.mcStart.filter (· != k * 4 + c) ∧ t.regs = s.regs ∧ t.mem = s.mem ∧ t.mcq = s.mcq) ∧
  (∀ (k c : Nat) (s : State),
    (gtQueued k c s || !s.mcStart.contains (k * 4 + c)) = true →
    Gives (.zqCalibration k c) s fun t => t = s) ∧
  (∀ (k c rate : Nat) (s : State),
    rate < 4 → s.mcStart.contains (k * 4 + c) = true → gtQueued k c s = false →
    Gives (.mr4Read k c rate) s fun t =>
      t.mcStart = s.mcStart.filter (· != k * 4 + c) ∧ smapGet (fun _ => 0) t.mcRate (k * 4 + c) = rate ∧
      t.f F.MC_STATUS_TEMP_RATE k = tempRate k t % 4) ∧
  (∀ (k c rate : Nat) (s : State),
    (gtQueued k c s || !s.mcStart.contains (k * 4 + c)) = true →
    Gives (.mr4Read k c rate) s fun t => t = s) ∧
  (∀ (k c : Nat) (drift : Bool) (s : State),
    Gives (.dqsOscillatorRead k c drift) s fun t =>
      t.f F.MC_TRAIN_TRACK_CNT (4 * k + c) = if drift && !gtQueued k c s && s.mcStart.contains (k * 4 + c) then min
        (s.f F.MC_TRAIN_TRACK_CNT (4 * k + c) + 1) (fldMax F.MC_TRAIN_TRACK_CNT) else s.f F.MC_TRAIN_TRACK_CNT (4 * k
        + c)) ∧
  (∀ (addr : Nat) (r : McReq) (s : State),
    s.mcq.find? (fun x => x.addr == lineOf addr && (x.cls == .be || x.cls == .mg)) = some r →
    Gives (.hpPromotion addr) s fun t => t.mcq = s.mcq.map fun x => if x = r then { x with cls := .hp } else x) ∧
  (∀ (addr : Nat) (r : McReq) (s : State),
    inSelfRefresh addr s = false → mcReady addr s = some r → r.kind = 1 →
    Gives (.dramReadComplete addr) s fun t => t.mcq = s.mcq ∧ t.haTx = s.haTx) ∧
  (∀ (k c : Nat) (s : State),
    c < 4 → s.b F.MC_CTRL_PD_EN k = true → (s.mcq.any fun r => mcOf r.addr == k && mcSub r.addr == c) = false →
    (s.wrq.any fun e => mcOf e.addr == k && mcSub e.addr == c) = false →
    ((List.range 64).any fun p => fget F.MC_CREDIT_GT_RATE (creditNow (creditIx k p) s) != 0) = false →
    s.fbit F.MC_STATUS_SELFREF k c = false →
    Gives (.powerDownEntry k c) s fun t => t.fbit F.MC_STATUS_PWRDN k c = true) ∧
  (∀ (k c : Nat) (s : State),
    ((s.mcq.any fun r => mcOf r.addr == k && mcSub r.addr == c) || s.wrq.any fun e => mcOf e.addr == k && mcSub e.addr
      == c) = true →
    Gives (.powerDownEntry k c) s fun t => t = s) ∧
  (∀ (addr : Nat) (e : WrEntry) (s : State),
    HaQuiet s → (s.mcq.all fun r => r.kind != 1) = true → wrFind addr s = some e → e.halves = 3 →
    gtReading addr s = false → s.fbit F.MC_STATUS_SELFREF (mcOf addr) (mcSub addr) = false → codeOf addr s = 0 →
    Gives (.writeDrain addr) s fun t => t.wrq = s.wrq.erase e ∧ dramLine addr t = e.data) ∧
  (∀ (addr : Nat) (s : State),
    HaQuiet s → (s.mcq.all fun r => r.kind != 1) = true → ((wrFind addr s).isNone || gtReading addr s) = true →
    Gives (.writeDrain addr) s fun t => t.wrq = s.wrq ∧ t.mem = s.mem ∧ t.mcq = s.mcq ∧ t.haTx = s.haTx) ∧
  (∀ (k c : Nat) (s : State),
    s.b F.MC_SCRUB_CTRL_EN 0 = true → s.fbit F.MC_STATUS_SELFREF k c = false →
    scrubbed (lineOfL k (scrubLine c (scrubSteps k c s % scrubLines s))) s = false →
    Gives (.scrubStep k c) s fun t => scrubSteps k c t = scrubSteps k c s + 1 ∧ t.mem = s.mem ∧ t.wrq = s.wrq) ∧
  (∀ (k c : Nat) (s : State),
    s.b F.MC_SCRUB_CTRL_EN 0 = false →
    Gives (.scrubStep k c) s fun t => t = s) ∧
  (∀ (s : State),
    Gives (.leak) s fun t =>
      (List.range 16).all (fun k => t.f F.MC_CE_CNT_LEVEL k == s.f F.MC_CE_CNT_LEVEL k - 1) = true)

/-- A write of MC_CREDIT reads back at once and is in force from the slot-cycle boundary on; a legal MC_REGION_BASE
write takes effect and an illegal one sets CFGERR; a walk of no entries ends; GO on a valid region makes its memory zero
and is busy until INIT is done; in test mode a RAW_READ and ENCODE give the check field of the line and RAW_WRITE stores
data and check field; a retired page enters the history. (R231, R240, R251, R260, R262, R373, R568.) -/
def Obligations.ControllerRegisters : Prop :=
  (∀ (a : Access) (k p : Nat) (v : Word) (s : State),
    Allowed a true .MC_CREDIT (creditIx k p) s → partBusy p s = false →
    gtSum k (some (p, fget F.MC_CREDIT_GT_RATE v)) s ≤ 64 * gtLines k s →
    Gives (.creditWrite a k (some p) v) s fun t =>
      t.r .MC_CREDIT (creditIx k p) = Reg.write .MC_CREDIT false (s.r .MC_CREDIT (creditIx k p)) v ∧
      creditNow (creditIx k p) t = creditNow (creditIx k p) s) ∧
  (∀ (a : Access) (k p : Nat) (v : Word) (s : State),
    Allowed a true .MC_CREDIT (creditIx k p) s → partBusy p s = false →
    64 * gtLines k s < gtSum k (some (p, fget F.MC_CREDIT_GT_RATE v)) s →
    Gives (.creditWrite a k (some p) v) s fun t => t.b F.MC_STATUS_CFGERR k = true ∧ t.mcPend = s.mcPend) ∧
  (∀ (a : Access) (k : Nat) (v : Word) (s : State),
    Allowed a true .MC_CTRL k s → gtSum k none s = 0 →
    Gives (.creditWrite a k none v) s fun t =>
      t.r .MC_CTRL k = Reg.write .MC_CTRL (s.b F.MC_CTRL_LOCK k) (s.r .MC_CTRL k) v) ∧
  (∀ (a : Access) (i : Nat) (v : Word) (s : State),
    Allowed a true .MC_REGION_BASE i s → regionBaseBad i v s = false →
    Gives (.regionWrite a i false v) s fun t =>
      t.r .MC_REGION_BASE i = Reg.write .MC_REGION_BASE false (s.r .MC_REGION_BASE i) v) ∧
  (∀ (a : Access) (i : Nat) (v : Word) (s : State),
    Allowed a true .MC_REGION_BASE i s → regionBaseBad i v s = true →
    Gives (.regionWrite a i false v) s fun t =>
      t.b F.MC_ECC_STATUS_CFGERR 0 = true ∧ t.r .MC_REGION_BASE i = s.r .MC_REGION_BASE i) ∧
  (∀ (a : Access) (i : Nat) (v : Word) (s : State),
    Allowed a true .MC_REGION_CODE i s → assigns F.MC_REGION_CODE_PART i v s = false →
    s.b F.MC_REGION_BASE_VALID i = false →
    Gives (.regionWrite a i true v) s fun t =>
      t.r .MC_REGION_CODE i = Reg.write .MC_REGION_CODE false (s.r .MC_REGION_CODE i) v ∧ t.walks = s.walks) ∧
  (∀ (s : State),
    s.walks = [] → s.haTx = [] →
    Gives (.worldWalkDone) s fun t => t.b F.WC_STATUS_WALK_BUSY 0 = false ∧ t.walks = []) ∧
  (∀ (a : Access) (v : Word) (s : State),
    Allowed a true .MC_INIT 0 s → s.b F.MC_INIT_BUSY 0 = false → vset F.MC_INIT_GO v = true →
    s.b F.MC_REGION_BASE_VALID (fget F.MC_INIT_REGION v) = true →
    Gives (.mcInit a v) s fun t =>
      t.b F.MC_INIT_BUSY 0 = true ∧ t.b F.MC_INIT_DONE 0 = false ∧ t.initRun = some (fget F.MC_INIT_REGION v) ∧
      t.mem = s.mem.filter fun (x, _) => !regionHas (fget F.MC_INIT_REGION v) x s) ∧
  (∀ (a : Access) (v : Word) (s : State),
    Allowed a true .MC_INIT 0 s → s.b F.MC_INIT_BUSY 0 = false → vset F.MC_INIT_GO v = true →
    s.b F.MC_REGION_BASE_VALID (fget F.MC_INIT_REGION v) = false →
    Gives (.mcInit a v) s fun t => t.b F.MC_INIT_ERR 0 = true ∧ t.mem = s.mem ∧ t.initRun = s.initRun) ∧
  (∀ (i : Nat) (s : State),
    s.initRun = some i → s.initWb = [] →
    Gives (.mcInitDone) s fun t =>
      t.initRun = none ∧ t.b F.MC_INIT_BUSY 0 = false ∧ t.b F.MC_INIT_DONE 0 = true ∧ t.mem = s.mem) ∧
  (∀ (addr : Nat) (r : McReq) (x : HaTx) (p : Packet) (s : State),
    HaQuiet s → inSelfRefresh addr s = false → mcReady addr s = some r → r.kind = 0 → codeOf (lineOf addr) s = 0 →
    wrFind (lineOf addr) s = none → haTxOf addr s = some x → x.line = lineOf addr → x.mem = 1 → x.snoops = [] →
    x.wbp = [] → x.ack = false → x.fwd = false → x.st = 0 → x.req = some p → p.src < 240 →
    dieAbsent (mcOf (lineOf addr)) (dieOfAgent p.src) s = false → p.op = .getS → p.fetch = false →
    Gives (.dramReadComplete addr) s fun t =>
      sent .dataE p.src p.addr t = true ∧ (haTxOf addr t).map (·.ack) = some true ∧
      t.mcq.map (·.addr) = (s.mcq.erase r).map (·.addr)) ∧
  (∀ (addr : Nat) (r : McReq) (x : HaTx) (p : Packet) (s : State),
    HaQuiet s → inSelfRefresh addr s = false → mcReady addr s = some r → r.kind = 0 → codeOf (lineOf addr) s = 0 →
    wrFind (lineOf addr) s = none → haTxOf addr s = some x → x.line = lineOf addr → x.mem = 1 → x.snoops = [] →
    x.wbp = [] → x.ack = false → x.fwd = false → x.st = 0 → x.req = some p → p.src < 240 →
    dieAbsent (mcOf (lineOf addr)) (dieOfAgent p.src) s = false → p.op = .rdNC →
    Gives (.dramReadComplete addr) s fun t =>
      sent (answerOp .rdNC) p.src p.addr t = true ∧ haTxOf addr t = none ∧
      t.mcq.map (·.addr) = (s.mcq.erase r).map (·.addr)) ∧
  (∀ (a : Access) (s : State),
    Allowed a true .MC_ECC_TEST_CMD 0 s → s.testRun = none → s.b F.MC_ECC_TEST_CTRL_EN 0 = true →
    codeOf (testAddr s) s ≠ 0 → isCheckAddr (testAddr s) s = false → haTxOf (testAddr s) s = none →
    dirFind (testAddr s) s = none → wrFind (testAddr s) s = none → s.atomBuf = [] →
    Gives (.rawRead a) s fun t =>
      testData t = s.bytes (testAddr s) 32 ∧
      (t.r .MC_ECC_TEST_CHECK 0).toNat = s.bytes (checkAt (codeOf (testAddr s) s) (lineOf (testAddr s)) (abits
        (testAddr s) 5 5)) (checkLen (codeOf (testAddr s) s)) ∧
      t.f F.MC_ECC_TEST_STATUS_RESULT 0 = 0 ∧ t.b F.MC_ECC_TEST_STATUS_BUSY 0 = false) ∧
  (∀ (a : Access) (s : State),
    Allowed a true .MC_ECC_TEST_CMD 0 s → s.testRun = none → s.b F.MC_ECC_TEST_CTRL_EN 0 = true →
    codeOf (testAddr s) s ≠ 0 → isCheckAddr (testAddr s) s = false → haTxOf (testAddr s) s = none →
    dirFind (testAddr s) s = none → wrFind (testAddr s) s = none → s.atomBuf = [] →
    Gives (.rawWrite a) s fun t =>
      t.bytes (checkAt (codeOf (testAddr s) s) (lineOf (testAddr s)) (abits (testAddr s) 5 5)) (checkLen (codeOf
        (testAddr s) s)) = (s.r .MC_ECC_TEST_CHECK 0).toNat % 256 ^ (checkLen (codeOf (testAddr s) s)) ∧
      t.f F.MC_ECC_TEST_STATUS_RESULT 0 = 0 ∧ t.bytes (testAddr s) 32 = testData s) ∧
  (∀ (a : Access) (s : State),
    Allowed a true .MC_ECC_TEST_CMD 0 s → s.testRun = none → s.b F.MC_ECC_TEST_CTRL_EN 0 = true →
    codeOf (testAddr s) s ≠ 0 → isCheckAddr (testAddr s) s = false →
    Gives (.encode a) s fun t =>
      t.r .MC_ECC_TEST_CHECK 0 = BitVec.ofNat 64 (encodeField (codeOf (testAddr s) s) (testData s) false) ∧
      t.mem = s.mem) ∧
  (∀ (a : Access) (s : State),
    Allowed a true .MC_ECC_TEST_CMD 0 s → s.testRun = none → s.b F.MC_ECC_TEST_CTRL_EN 0 = true →
    codeOf (testAddr s) s ≠ 0 → isCheckAddr (testAddr s) s = false →
    Gives (.encodePoison a) s fun t =>
      t.r .MC_ECC_TEST_CHECK 0 = BitVec.ofNat 64 (encodeField (codeOf (testAddr s) s) (testData s) true) ∧
      t.mem = s.mem) ∧
  (∀ (a : Access) (s : State),
    Allowed a true .MC_ECC_TEST_CMD 0 s → s.testRun = none → s.b F.MC_ECC_TEST_CTRL_EN 0 = false →
    Gives (.rawRead a) s fun t => t.f F.MC_ECC_TEST_STATUS_RESULT 0 = 1 ∧ t.mem = s.mem ∧ t.dir = s.dir) ∧
  (∀ (a : Access) (i : Nat) (v : Word) (s : State),
    Allowed a true .MC_RETIRE i s → vset F.MC_RETIRE_VALID v = true → (s.b F.RAS_PAGE_HIST_VALID 0) = false →
    ((List.range 256).any fun j => s.b F.RAS_PAGE_HIST_VALID j) = false →
    Gives (.pageRetire a i v) s fun t =>
      t.r .MC_RETIRE i = Reg.write .MC_RETIRE false (s.r .MC_RETIRE i) v ∧ t.b F.RAS_PAGE_HIST_VALID 0 = true ∧
      t.f F.RAS_PAGE_HIST_PAGE 0 = fget F.MC_RETIRE_PAGE v)

/-- An accepted record that merges with the newest raises its COUNT; any other is written at HEAD with the next sequence
number, and a full ring drops CE and INFO and overwrites its oldest record for the rest; a CE or INFO record that found
the intake busy too long is dropped; TAIL moves over read records only. (R556, R557, R558, R559.) -/
def Obligations.ErrorRecordsAndLog : Prop :=
  (∀ (e : Bool) (r : ErrRec) (s : State),
    intakeNext s.intake = some r → rasMerges r s = false → (e && decide (r.sev ≤ 1)) = false → s.rasUnread < 1024 →
    Gives (.errorRecord e) s fun t =>
      t.r .RAS_LOG (s.f F.RAS_LOG_PTR_HEAD 0 * 4 + 0) = r.tb ∧
      t.r .RAS_LOG (s.f F.RAS_LOG_PTR_HEAD 0 * 4 + 1) = r.word1 0 s.rasSeq ∧
      t.r .RAS_LOG (s.f F.RAS_LOG_PTR_HEAD 0 * 4 + 2) = r.word2 ∧
      t.r .RAS_LOG (s.f F.RAS_LOG_PTR_HEAD 0 * 4 + 3) = BitVec.ofNat 64 r.detail ∧
      t.f F.RAS_LOG_PTR_HEAD 0 = (s.f F.RAS_LOG_PTR_HEAD 0 + 1) % 1024 ∧ t.rasSeq = (s.rasSeq + 1) % 65536 ∧
      t.rasUnread = s.rasUnread + 1 ∧ t.intake = s.intake.erase r) ∧
  (∀ (e : Bool) (r : ErrRec) (s : State),
    intakeNext s.intake = some r → rasMerges r s = false → (e && decide (r.sev ≤ 1)) = false → s.rasUnread = 1024 →
    2 ≤ r.sev →
    Gives (.errorRecord e) s fun t =>
      t.r .RAS_LOG (s.f F.RAS_LOG_PTR_HEAD 0 * 4 + 0) = r.tb ∧
      t.r .RAS_LOG (s.f F.RAS_LOG_PTR_HEAD 0 * 4 + 1) = r.word1 0 s.rasSeq ∧
      t.r .RAS_LOG (s.f F.RAS_LOG_PTR_HEAD 0 * 4 + 2) = r.word2 ∧
      t.r .RAS_LOG (s.f F.RAS_LOG_PTR_HEAD 0 * 4 + 3) = BitVec.ofNat 64 r.detail ∧
      t.f F.RAS_LOG_PTR_HEAD 0 = (s.f F.RAS_LOG_PTR_HEAD 0 + 1) % 1024 ∧ t.rasSeq = (s.rasSeq + 1) % 65536 ∧
      t.rasUnread = 1024 ∧ t.f F.RAS_LOG_PTR_TAIL 0 = (s.f F.RAS_LOG_PTR_TAIL 0 + 1) % 1024) ∧
  (∀ (e : Bool) (r : ErrRec) (s : State),
    intakeNext s.intake = some r → rasMerges r s = false → s.rasUnread = 1024 → r.sev ≤ 1 →
    Gives (.errorRecord e) s fun t =>
      t.regs = (s.satInc F.RAS_STATUS_DROP 0).regs ∧ t.rasUnread = 1024 ∧ t.intake = s.intake.erase r) ∧
  (∀ (r : ErrRec) (s : State),
    intakeNext s.intake = some r → r.sev ≤ 1 →
    Gives (.errorRecord true) s fun t =>
      t.regs = (s.satInc F.RAS_STATUS_DROP 0).regs ∧ t.intake = s.intake.erase r ∧ t.rasSeq = s.rasSeq) ∧
  (∀ (a : Access) (v : Word) (s : State),
    Allowed a true .RAS_LOG_PTR 0 s → (bits v 9 0 + 1024 - s.f F.RAS_LOG_PTR_TAIL 0) % 1024 ≤ s.rasUnread →
    Gives (.tailWrite a v) s fun t =>
      t.f F.RAS_LOG_PTR_TAIL 0 = bits v 9 0 ∧
      t.rasUnread = s.rasUnread - (bits v 9 0 + 1024 - s.f F.RAS_LOG_PTR_TAIL 0) % 1024) ∧
  (∀ (a : Access) (v : Word) (s : State),
    Allowed a true .RAS_LOG_PTR 0 s → s.rasUnread < (bits v 9 0 + 1024 - s.f F.RAS_LOG_PTR_TAIL 0) % 1024 →
    Gives (.tailWrite a v) s fun t =>
      t.f F.RAS_LOG_PTR_TAIL 0 = s.f F.RAS_LOG_PTR_TAIL 0 ∧ t.rasUnread = s.rasUnread)

/-- A legal FAB_RT_DATA write changes one staged route; COPY sets BUSY and its end copies the current tables when the
staged set is writable; SWITCH starts a check; a check finds the staged set in flight or a pending toggle (error 1), a
bad window (2), or, with no fault, sets PENDING; the toggle exchanges the sets; a slot-cycle boundary sets SLOT to 0,
counts a cycle and gives every window its OPEN. (R274, R276, R282, R283, R284, R285, R289.) -/
def Obligations.FabricTables : Prop :=
  (∀ (a : Access) (v : Word) (s : State),
    Allowed a true .FAB_RT_DATA 0 s → s.b F.FAB_RT_STATUS_BUSY 0 = false → s.f F.FAB_RT_SEL_EPOCH 0 = otherEpoch s →
    s.f F.FAB_RT_SEL_DOMAIN 0 ≤ 12 → s.f F.FAB_RT_SEL_ROUTER 0 < meshRouters (s.f F.FAB_RT_SEL_DOMAIN 0) →
    stagedWritable s = true →
    Gives (.routeTableWrite a v) s fun t =>
      routeOf (otherEpoch s) (s.f F.FAB_RT_SEL_DOMAIN 0) (s.f F.FAB_RT_SEL_ROUTER 0) (s.f F.FAB_RT_SEL_DEST 0) t =
        v.toNat % 8) ∧
  (∀ (a : Access) (v : Word) (s : State),
    Allowed a true .FAB_RT_DATA 0 s → s.b F.FAB_RT_STATUS_BUSY 0 = false → s.f F.FAB_RT_SEL_EPOCH 0 ≠ otherEpoch s →
    Gives (.routeTableWrite a v) s fun t => t.b F.FAB_STATUS_CFGERR 0 = true ∧ t.routes = s.routes) ∧
  (∀ (a : Access) (v : Word) (s : State),
    Allowed a true .FAB_RT_CMD 0 s → vset F.FAB_RT_CMD_COPY v = true →
    Gives (.copy a v) s fun t => t.b F.FAB_RT_STATUS_BUSY 0 = true) ∧
  (∀ (s : State),
    s.b F.FAB_RT_STATUS_BUSY 0 = true → stagedWritable s = true →
    Gives (.copyDone) s fun t =>
      t.b F.FAB_RT_STATUS_BUSY 0 = false ∧
      ((List.range 64).all fun w => t.f F.FAB_RSV_CFG_BASE w == winF F.FAB_RSV_CFG_BASE w s) = true ∧
      t.routes = copyRoutes (1 - otherEpoch s) s.routes) ∧
  (∀ (a : Access) (v : Word) (s : State),
    Allowed a true .FAB_EPOCH 0 s → vset F.FAB_EPOCH_SWITCH v = true → s.b F.FAB_RT_STATUS_BUSY 0 = false →
    Gives (.epochSwitch a v) s fun t => t.epochCheck = true) ∧
  (∀ (s : State),
    s.epochCheck = true → (!stagedWritable s || s.b F.FAB_EPOCH_PENDING 0) = true →
    Gives (.epochCheckDone) s fun t =>
      t.epochCheck = false ∧ t.f F.FAB_EPOCH_ERR 0 = 1 ∧ t.b F.FAB_EPOCH_PENDING 0 = s.b F.FAB_EPOCH_PENDING 0) ∧
  (∀ (w : Nat) (s : State),
    s.epochCheck = true → stagedWritable s = true → s.b F.FAB_EPOCH_PENDING 0 = false →
    (List.range 64).find? (fun w => winBad w s) = some w →
    Gives (.epochCheckDone) s fun t =>
      t.f F.FAB_EPOCH_ERR 0 = 2 ∧ t.f F.FAB_CHECK_INFO_WIN_A 0 = w ∧ t.f F.FAB_CHECK_INFO_WIN_B 0 = w ∧
      t.b F.FAB_EPOCH_PENDING 0 = false) ∧
  (∀ (s : State),
    s.epochCheck = true → stagedWritable s = true → s.b F.FAB_EPOCH_PENDING 0 = false →
    (List.range 64).find? (fun w => winBad w s) = none →
    winPairs.any (fun (i, j) => (decide (i < j) && winMeet i j 0 s) || winMeet i j 1 s) = false →
    Gives (.epochCheckDone) s fun t =>
      t.b F.FAB_EPOCH_PENDING 0 = (badRoute s).isNone ∧
      t.f F.FAB_EPOCH_ERR 0 = if (badRoute s).isNone then s.f F.FAB_EPOCH_ERR 0 else 3) ∧
  (∀ (s : State),
    s.b F.FAB_EPOCH_PENDING 0 = true →
    Gives (.epochToggle) s fun t =>
      t.b F.FAB_EPOCH_PENDING 0 = false ∧ t.b F.FAB_EPOCH_CUR 0 = !s.b F.FAB_EPOCH_CUR 0 ∧
      ((List.range 64).all fun w => winF F.FAB_RSV_CFG_BASE w t == s.f F.FAB_RSV_CFG_BASE w && t.f F.FAB_RSV_CFG_BASE
        w == winF F.FAB_RSV_CFG_BASE w s) = true) ∧
  (∀ (w : Nat) (o : Bool) (i : Option Word) (s : State),
    HaQuiet s → s.mcq = [] → s.winOff = [] → smapGet (fun _ => none) s.winPend w = some (o, i) →
    (s.winPend.all fun x => x.1 != w || x.2 == some (o, i)) = true → winReady (some (o, i)) s = true →
    Gives (.slotCycleBoundary) s fun t =>
      t.f F.FAB_SLOT_SLOT 0 = 0 ∧
      t.f F.FAB_SLOT_CYCLES 0 = (s.f F.FAB_SLOT_CYCLES 0 + 1) % (fldMax F.FAB_SLOT_CYCLES + 1) ∧
      t.b F.FAB_RSV_CFG_OPEN w = o ∧ smapGet (fun _ => none) t.winPend w = none) ∧
  (∀ (w : Nat) (o : Bool) (i : Word) (s : State),
    HaQuiet s → s.mcq = [] → s.winOff = [] → smapGet (fun _ => none) s.winPend w = some (o, some i) →
    (s.winPend.all fun x => x.1 != w || x.2 == some (o, some i)) = true → (s.tb - i).toInt < 72 →
    Gives (.slotCycleBoundary) s fun t =>
      t.b F.FAB_RSV_CFG_OPEN w = s.b F.FAB_RSV_CFG_OPEN w ∧ smapGet (fun _ => none) t.winPend w = some (o, some i))

/-- A write with RUN = 1 arms a bat, which starts at once for a software source; one with RUN = 0 stops it; a counted
flit raises a counter; a calendar trigger starts an armed bat; the counters of the dies that are ON are copied; a pair
of records leaves as one write of 64 bytes at the trace address; a buffer read answers the word at RDPTR and moves it.
(R292, R293, R294, R295, R296, R299, R300.) -/
def Obligations.Probes : Prop :=
  (∀ (a : Access) (i : Nat) (v : Word) (s : State),
    Allowed a true .BAT_CTRL i s → s.b F.BAT_CTRL_RUN i = false → s.b F.BAT_STATUS_RUNNING i = false →
    batDieOn i s = true → batSrc (s.f F.BAT_TRIG_START_SRC i) = 0 →
    Gives (.batArm a i v) s fun t =>
      t.b F.BAT_CTRL_RUN i = true ∧ t.b F.BAT_STATUS_RUNNING i = true ∧ t.b F.BAT_STATUS_TRIGGERED i = true) ∧
  (∀ (a : Access) (i : Nat) (v : Word) (s : State),
    Allowed a true .BAT_CTRL i s → s.b F.BAT_STATUS_RUNNING i = false → batSrc (s.f F.BAT_TRIG_START_SRC i) ≠ 0 →
    Gives (.batArm a i v) s fun t => t.b F.BAT_CTRL_RUN i = true ∧ t.b F.BAT_STATUS_RUNNING i = false) ∧
  (∀ (a : Access) (i : Nat) (v : Word) (s : State),
    Allowed a true .BAT_CTRL i s →
    Gives (.batStop a i v) s fun t => t.b F.BAT_CTRL_RUN i = false ∧ t.b F.BAT_STATUS_RUNNING i = false) ∧
  (∀ (i : Nat) (p : Packet) (e : Bool) (w x : Nat) (s : State),
    i < 96 → batFilter i p e s = true → batDieOn i s = true → s.b F.BAT_STATUS_RUNNING i = true → batEv i 0 s = 1 →
    batSrc (s.f F.BAT_TRIG_STOP_SRC i) = 0 → batCnt i 0 s < 1000 → (smapGet (fun _ => []) s.batStage i) = [] →
    smapGet (fun _ => 0) s.batPost i = 0 →
    Gives (.batMatch i p e w x) s fun t =>
      batCnt i 0 t = batCnt i 0 s + 1 ∧
      smapGet (fun _ => []) t.batStage i = [batRecord i (smapGet (fun _ => 0) s.batGap i) p e s]) ∧
  (∀ (i : Nat) (p : Packet) (e : Bool) (w x : Nat) (s : State),
    s.b F.BAT_STATUS_RUNNING i = false → batFilter i p e s = false →
    Gives (.batMatch i p e w x) s fun t => t = s) ∧
  (∀ (i n : Nat) (s : State),
    s.out.contains (.batTrig i n) = true → batDieOn i s = true → batArmed i s = true →
    batSrc (s.f F.BAT_TRIG_START_SRC i) = 1 → s.f F.BAT_TRIG_START_ENTRY i = n →
    batSrc (s.f F.BAT_TRIG_STOP_SRC i) ≠ 1 →
    Gives (.batTrigger i n) s fun t =>
      t.b F.BAT_STATUS_RUNNING i = true ∧ t.b F.BAT_STATUS_TRIGGERED i = true ∧ t.out = s.out.erase (.batTrig i n)) ∧
  (∀ (c : Nat) (s : State),
    c < 384 → dieOn (c / 32) s = true →
    Gives (.batCounterCopy) s fun t => t.r .BAT_CNT c = smapGet (fun _ => 0) s.batLive c) ∧
  (∀ (d : Nat) (x y : BatRec) (s : State),
    batRoom d s = true → s.b F.BAT_TRACE_CTRL_DEST d = true →
    (s.batStage.find? fun z => batDomain z.1 == d && !z.2.isEmpty) = none →
    smapGet (fun _ => []) s.batFifo d = [x, y] →
    s.f F.BAT_TRACE_BASE_VAL d + s.f F.BAT_TRACE_PTR_WRPTR d < s.f F.BAT_TRACE_LIMIT_VAL d →
    s.f F.BAT_TRACE_PTR_WRPTR d < 100 →
    Gives (.batTraceWrite d) s fun t =>
      t.f F.BAT_TRACE_PTR_WRPTR d = s.f F.BAT_TRACE_PTR_WRPTR d + 1 ∧ smapGet (fun _ => []) t.batFifo d = [] ∧
      sentSome (fun q => q.op == .wrNC && q.cls == .mg && q.addr == (s.f F.BAT_TRACE_BASE_VAL d + s.f
        F.BAT_TRACE_PTR_WRPTR d) * 64 && q.payload == BitVec.ofNat 512 (batBytes x + batBytes y * 2 ^ 256)) t = true) ∧
  (∀ (a : Access) (d : Nat) (s : State),
    Allowed a false .BAT_BUF_DATA d s → a.world = true → d ≤ 12 → s.f F.BAT_TRACE_PTR_RDPTR d / 8 % 4 = 1 →
    Gives (.batBufRead a d) s fun t =>
      t.resp = ⟨0, (smapGet (fun _ => {}) s.batBuf (d * 2048 + s.f F.BAT_TRACE_PTR_RDPTR d / 32 % batBufSize d)).w1⟩ ∧
      t.f F.BAT_TRACE_PTR_RDPTR d = (s.f F.BAT_TRACE_PTR_RDPTR d + 8) % (32 * batBufSize d))

/-- On an ACTIVE bridge the flit with the expected SEQ is accepted and its acknowledgement taken; a frame that fails its
CRC is discarded, counted and answered with a NAK, the last one allowed starting a retrain; a NAK makes the transmitter
replay and is counted; a sideband message that fails its CRC is counted; a sideband NAK only sends the message again.
(R307, R308, R309, R310, R311, R312.) -/
def Obligations.BridgeLinks : Prop :=
  (∀ (n ty q : Nat) (up : Bool) (k : Option Nat) (s : State),
    s.f F.BR_STATUS_STATE n = 6 → (ty = 0 ∨ ty = 2) → q = ((s.br n).link up).exp →
    (((s.br n).link up).skip = false ∨ ty = 2) →
    Gives (.bridgeFrameReceive n up true ty q k) s fun t =>
      ((t.br n).link up).exp = (q + 1) % 4096 ∧ ((t.br n).link up).skip = false ∧ ((t.br n).link up).naks = 0 ∧
      ((t.br n).link (!up)).acked = (match k with | some j => j % 4096 | none => ((s.br n).link (!up)).acked) ∧
      t.regs = s.regs) ∧
  (∀ (n ty q : Nat) (up : Bool) (k : Option Nat) (s : State),
    s.f F.BR_STATUS_STATE n = 6 → ((s.br n).link up).naks + 1 < orOne (s.f F.BR_CTRL_REPLAY_MAX n) →
    Gives (.bridgeFrameReceive n up false ty q k) s fun t =>
      ((t.br n).link up).exp = ((s.br n).link up).exp ∧ ((t.br n).link up).skip = true ∧
      ((t.br n).link up).naks = ((s.br n).link up).naks + 1 ∧
      t.f F.BR_ERRCNT_CRC_ERR n = min (s.f F.BR_ERRCNT_CRC_ERR n + 1) (fldMax F.BR_ERRCNT_CRC_ERR)) ∧
  (∀ (n ty q : Nat) (up : Bool) (k : Option Nat) (s : State),
    s.f F.BR_STATUS_STATE n = 6 → ((s.br n).link up).naks + 1 = orOne (s.f F.BR_CTRL_REPLAY_MAX n) →
    (s.br n).fallTb = none → brCap n 2 s = true →
    Gives (.bridgeFrameReceive n up false ty q k) s fun t =>
      t.f F.BR_STATUS_STATE n = 7 ∧
      t.f F.BR_ERRCNT_FAST_CNT n = min (s.f F.BR_ERRCNT_FAST_CNT n + 1) (fldMax F.BR_ERRCNT_FAST_CNT)) ∧
  (∀ (n ty q : Nat) (up ok : Bool) (k : Option Nat) (s : State),
    s.f F.BR_STATUS_STATE n ≠ 6 →
    Gives (.bridgeFrameReceive n up ok ty q k) s fun t => t = s) ∧
  (∀ (n q : Nat) (up : Bool) (s : State),
    s.f F.BR_STATUS_STATE n = 6 →
    Gives (.bridgeNak n up q) s fun t =>
      ((t.br n).link up).acked = q % 4096 ∧
      t.f F.BR_ERRCNT_REPLAY n = min (s.f F.BR_ERRCNT_REPLAY n + 1) (fldMax F.BR_ERRCNT_REPLAY)) ∧
  (∀ (n ty : Nat) (s : State),
    s.f F.BR_STATUS_STATE n = 6 → (s.br n).sbFails = [] →
    Gives (.sidebandMessage n false ty) s fun t =>
      t.f F.BR_ERRCNT_SB_ERR n = min (s.f F.BR_ERRCNT_SB_ERR n + 1) (fldMax F.BR_ERRCNT_SB_ERR) ∧
      (t.br n).sbFails = [s.tb]) ∧
  (∀ (n ty : Nat) (s : State),
    s.f F.BR_STATUS_STATE n = 6 → sidebandType ty = true →
    Gives (.sidebandMessage n true ty) s fun t => t = s) ∧
  (∀ (n ty : Nat) (s : State),
    s.f F.BR_STATUS_STATE n = 6 → sidebandType ty = false →
    Gives (.sidebandMessage n true ty) s fun t => t = s.satInc F.BR_ERRCNT_SB_ERR n) ∧
  (∀ (n q : Nat) (s : State),
    Gives (.sidebandNak n q) s fun t => t = s)

/-- The release of a die from reset, and RETRAIN_FULL in ACTIVE or DOWN, start a full training in CLK; RETRAIN_FAST in
ACTIVE with FASTRT goes to FAST; a lock of all clocks goes on to LANE, a failed sideband group to DOWN; a lane test with
enough lanes goes on to PROPOSE; equal proposals agree on map and width and go on to ALIGN; ALIGN_DONE records the
latency; a permitted pairing becomes ACTIVE and its die present. (R303, R313, R314, R315, R316, R317, R319, R321, R322.)
-/
def Obligations.BridgeTraining : Prop :=
  (∀ (n : Nat) (d : DieTrans) (s : State),
    s.f F.BR_STATUS_STATE n = 0 → smapGet (fun _ => none) s.dieTrans n = some d → d.kind = 2 →
    Gives (.bridgeTrainStart n) s fun t =>
      t.f F.BR_STATUS_STATE n = 1 ∧ t.f F.BR_STATUS_ROUNDS n = 0 ∧ t.f F.BR_STATUS_DOWN_REASON n = 0 ∧
      (t.br n).trained = true) ∧
  (∀ (n : Nat) (s : State),
    smapGet (fun _ => none) s.dieTrans n = none →
    Gives (.bridgeTrainStart n) s fun t => t = s) ∧
  (∀ (a : Access) (n : Nat) (v : Word) (s : State),
    Allowed a true .BR_CTRL n s → (s.f F.BR_STATUS_STATE n = 0 ∨ s.f F.BR_STATUS_STATE n = 6) →
    Gives (.retrainFull a n v) s fun t => t.f F.BR_STATUS_STATE n = 1 ∧ (t.br n).trained = true) ∧
  (∀ (a : Access) (n : Nat) (v : Word) (s : State),
    Allowed a true .BR_CTRL n s → s.f F.BR_STATUS_STATE n ≠ 0 → s.f F.BR_STATUS_STATE n ≠ 6 →
    Gives (.retrainFull a n v) s fun t =>
      t.f F.BR_STATUS_STATE n = s.f F.BR_STATUS_STATE n ∧ t.bridges = s.bridges) ∧
  (∀ (a : Access) (n : Nat) (v : Word) (s : State),
    Allowed a true .BR_CTRL n s → s.f F.BR_STATUS_STATE n = 6 → brCap n 2 s = true →
    Gives (.retrainFast a n v) s fun t =>
      t.f F.BR_STATUS_STATE n = 7 ∧
      t.f F.BR_ERRCNT_FAST_CNT n = min (s.f F.BR_ERRCNT_FAST_CNT n + 1) (fldMax F.BR_ERRCNT_FAST_CNT)) ∧
  (∀ (a : Access) (n : Nat) (v : Word) (s : State),
    Allowed a true .BR_CTRL n s →
    (s.f F.BR_STATUS_STATE n = 0 ∨ (s.f F.BR_STATUS_STATE n = 6 ∧ brCap n 2 s = false)) →
    Gives (.retrainFast a n v) s fun t => t.f F.BR_STATUS_STATE n = 1) ∧
  (∀ (n : Nat) (s : State),
    s.f F.BR_STATUS_STATE n = 1 → lanesShort (laneOr (s.br n).iod (s.br n).die) = none →
    Gives (.clockLock n 0 0 false false) s fun t => t.f F.BR_STATUS_STATE n = 2) ∧
  (∀ (n d u : Nat) (x y : Bool) (s : State),
    n < 12 → s.f F.BR_STATUS_STATE n = 1 → (x || y) = true → smapGet (fun _ => none) s.dieTrans n = none →
    Gives (.clockLock n d u x y) s fun t =>
      t.f F.BR_STATUS_STATE n = 0 ∧ t.f F.BR_STATUS_DOWN_REASON n = 3 ∧ t.f F.PWR_DIE_STATE n = 0) ∧
  (∀ (n : Nat) (m : LaneMask) (s : State),
    s.f F.BR_STATUS_STATE n = 2 → s.f F.BR_STATUS_ROUNDS n < 3 →
    lanesShort (laneOr (addErrors m (s.br n)).iod (addErrors m (s.br n)).die) = none →
    Gives (.laneTestDone n m) s fun t =>
      t.f F.BR_STATUS_STATE n = 3 ∧ t.f F.BR_STATUS_ROUNDS n = s.f F.BR_STATUS_ROUNDS n + 1 ∧
      (t.br n).iod = (addErrors m (s.br n)).iod ∧ (t.br n).die = (addErrors m (s.br n)).die) ∧
  (∀ (n : Nat) (s : State),
    s.f F.BR_STATUS_STATE n = 3 → (s.br n).iod = (s.br n).die →
    ((s.br n).iodHalf || needsHalf (s.br n).iod || s.b F.BR_CTRL_FORCE_HALF n) = ((s.br n).dieHalf || needsHalf (s.br
      n).die) →
    Gives (.proposalExchange n) s fun t =>
      t.f F.BR_STATUS_STATE n = 4 ∧
      t.f F.BR_STATUS_WIDTH n = (if ((s.br n).iodHalf || needsHalf (s.br n).iod || s.b F.BR_CTRL_FORCE_HALF n) then 1
        else 2) ∧
      (t.br n).iod = (s.br n).iod) ∧
  (∀ (n : Nat) (s : State),
    s.f F.BR_STATUS_STATE n = 3 → ((s.br n).iod ≠ (s.br n).die) → s.f F.BR_STATUS_ROUNDS n = 3 →
    Gives (.proposalExchange n) s fun t =>
      t.f F.BR_STATUS_STATE n = 4 ∧ t.b F.BR_STATUS_DISAGREE n = true ∧ t.f F.BR_STATUS_WIDTH n = 1 ∧
      (t.br n).fallTb = some s.tb) ∧
  (∀ (n l k : Nat) (w : LaneMask) (s : State),
    s.f F.BR_STATUS_STATE n = 4 → brCap n 4 s = false → l < 256 → k < 16 →
    Gives (.alignDone n l k w) s fun t =>
      t.f F.BR_STATUS_STATE n = 5 ∧ t.f F.BR_LAT_DOWN_LAT n = l ∧ t.f F.BR_LAT_SKEW n = k) ∧
  (∀ (n : Nat) (s : State),
    s.f F.BR_STATUS_STATE n = 5 →
    Gives (.capabilityExchange n) s fun t =>
      t.f F.BR_CAP_DREV n = (Config.dieRev n).toNat ∧ t.f F.BR_STATUS_STATE n = (if pairs n s = true then 6 else 0) ∧
      t.f F.BR_STATUS_DOWN_REASON n = (if pairs n s = true then s.f F.BR_STATUS_DOWN_REASON n else 4) ∧
      (pairs n s = true → t.f F.BR_CAP_ENABLED n = (s.f F.BR_CAP_IOD_CAP n &&& capOfRev (Config.dieRev n).toNat s) %
        256 ∧ ((List.range 16).all fun k => !t.fbit F.HA_DIE_STATE_ABSENT k n) = true) ∧
      t.b F.BR_STATUS_NOT_PERMITTED n = (if pairs n s = true then s.b F.BR_STATUS_NOT_PERMITTED n else true)) ∧
  (∀ (n : Nat) (m : LaneMask) (s : State),
    s.f F.BR_STATUS_STATE n = 7 → laneMinus m (laneOr (s.br n).iod (s.br n).die) = {} →
    Gives (.fastRetrainDone n m) s fun t =>
      t.f F.BR_STATUS_STATE n = 6 ∧ (t.br n).up.skip = false ∧ (t.br n).down.skip = false) ∧
  (∀ (n : Nat) (m : LaneMask) (s : State),
    s.f F.BR_STATUS_STATE n = 7 → laneMinus m (laneOr (s.br n).iod (s.br n).die) ≠ {} →
    lanesShort (laneOr (addErrors (laneMinus m (laneOr (s.br n).iod (s.br n).die)) (s.br n)).iod (addErrors (laneMinus
      m (laneOr (s.br n).iod (s.br n).die)) (s.br n)).die) = none →
    Gives (.fastRetrainDone n m) s fun t => t.f F.BR_STATUS_STATE n = 3 ∧ t.f F.BR_STATUS_ROUNDS n = 1)

/-- A power-on reset clears DRAM and begins at step 1; a hard reset, by command, by RST_N or by a retry of a failed
start, clears DRAM and goes through step 2, which counts the start and sends every die on its way to ON, or enters
Chimney mode; a warm reset begins the orderly end; the event log has a record of each reset. (R508, R528, R530, R537,
R540, R541, R549, R552.) -/
def Obligations.PackageResets : Prop :=
  (∀ (s : State),
    s.aonOff = false → starting s = false →
    Gives (.powerOnReset) s fun t =>
      t.mem = [] ∧ t.harts = [] ∧ t.pkgOff = false ∧ t.f F.ST_STATUS_PHASE 0 = 0 ∧ t.flash = s.flash ∧
      bits (t.r .ST_EVLOG (2 * s.f F.ST_EVLOG_HEAD_HEAD 0)) 63 56 = 2) ∧
  (∀ (s : State),
    s.pkgOff = false → starting s = false → s.b F.ST_STATUS_CHIMNEY 0 = false →
    s.f F.ST_STATUS_COUNT 0 < s.helm.startCfg.getD 3 % 8 → s.b F.HELM_STATUS_PROV 0 = true →
    Gives (.rstN) s fun t =>
      t.mem = [] ∧ t.harts = [] ∧ t.f F.ST_STATUS_PHASE 0 = 2 ∧
      t.f F.ST_STATUS_COUNT 0 = s.f F.ST_STATUS_COUNT 0 + 1 ∧
      ((List.range 12).all fun n => t.f F.PWR_DIE_STATE n == 3) = true ∧
      bits (t.r .ST_EVLOG (2 * s.f F.ST_EVLOG_HEAD_HEAD 0)) 63 56 = 3) ∧
  (∀ (s : State),
    s.pkgOff = true →
    Gives (.rstN) s fun t => t = s) ∧
  (∀ (a : Access) (v : Word) (s : State),
    Allowed a true .ST_CTRL 0 s → starting s = false → s.b F.ST_STATUS_CHIMNEY 0 = false →
    s.f F.ST_STATUS_COUNT 0 < s.helm.startCfg.getD 3 % 8 → s.b F.HELM_STATUS_PROV 0 = true →
    Gives (.hardResetCmd a v) s fun t =>
      t.mem = [] ∧ t.harts = [] ∧ t.f F.ST_STATUS_PHASE 0 = 2 ∧
      t.f F.ST_STATUS_COUNT 0 = s.f F.ST_STATUS_COUNT 0 + 1 ∧
      ((List.range 12).all fun n => t.f F.PWR_DIE_STATE n == 3) = true) ∧
  (∀ (fb : Bool) (s : State),
    s.boot.failed = true → s.pkgOff = false → retryDue fb s = true → s.b F.ST_STATUS_CHIMNEY 0 = false →
    s.f F.ST_STATUS_COUNT 0 < s.helm.startCfg.getD 3 % 8 → s.b F.HELM_STATUS_PROV 0 = true →
    Gives (.startRetry fb) s fun t =>
      t.mem = [] ∧ t.f F.ST_STATUS_PHASE 0 = 2 ∧ t.f F.ST_STATUS_COUNT 0 = s.f F.ST_STATUS_COUNT 0 + 1 ∧
      ((List.range 12).all fun n => t.f F.PWR_DIE_STATE n == 3) = true ∧ t.boot.failed = false ∧
      (fb = true → t.b F.ST_REASON_NO_LANTERN 0 = true)) ∧
  (∀ (fb : Bool) (s : State),
    (!s.boot.failed || !retryDue fb s) = true →
    Gives (.startRetry fb) s fun t => t = s) ∧
  (∀ (a : Access) (v : Word) (s : State),
    Allowed a true .ST_CTRL 0 s → bit v 2 = false → s.pkgEnd = none → s.b F.PWR_STATUS_PF_ACTIVE 0 = false →
    pkgRuns s = true → starting s = false →
    Gives (.warmResetCmd a v) s fun t =>
      t.pkgEnd = some { goal := 2 } ∧ t.f F.ST_STATUS_PHASE 0 = 9 ∧ t.mem = s.mem) ∧
  (∀ (s : State),
    s.aonOff = false → s.pkgOff = false → s.flashOp = none → s.pkgEnd = none → s.b F.PWR_STATUS_PF_ACTIVE 0 = false →
    pkgRuns s = true → starting s = false → startPhase s ≠ 8 →
    Gives (.warm true) s fun t =>
      t.pkgEnd = some { goal := 2 } ∧ t.f F.ST_STATUS_PHASE 0 = 9 ∧ t.mem = s.mem ∧ t.rack.result = 0) ∧
  (∀ (s : State),
    s.aonOff = false → s.pkgOff = true → s.flashOp = none →
    Gives (.wake true) s fun t => t.pkgOff = false ∧ t.f F.ST_STATUS_PHASE 0 = 0 ∧ t.rack.result = 0) ∧
  (∀ (s : State),
    s.aonOff = false → s.pkgOff = false → s.flashOp = none →
    Gives (.wake true) s fun t => t.rack.result = 3 ∧ t.regs = s.regs) ∧
  (∀ (s : State),
    s.aonOff = true →
    Gives (.aonStart) s fun t =>
      t.aonOff = false ∧ t.pkgOff = false ∧ t.f F.ST_STATUS_PHASE 0 = 0 ∧ t.mem = [] ∧
      bits (t.r .ST_EVLOG 0) 63 56 = 1) ∧
  (∀ (s : State),
    s.pkgOff = false → s.aonOff = false → startPhase s = 0 → s.boot.failed = false →
    s.b F.ST_STATUS_CHIMNEY 0 = false → s.f F.ST_STATUS_COUNT 0 < s.helm.startCfg.getD 3 % 8 →
    s.b F.HELM_STATUS_PROV 0 = true →
    Gives (.railsUp) s fun t =>
      t.f F.ST_STATUS_PHASE 0 = 2 ∧ t.f F.ST_STATUS_COUNT 0 = s.f F.ST_STATUS_COUNT 0 + 1 ∧
      ((List.range 12).all fun n => t.f F.PWR_DIE_STATE n == 3) = true ∧ t.helm.up = true) ∧
  (∀ (s : State),
    s.pkgOff = false → s.aonOff = false → startPhase s = 0 → s.boot.failed = false →
    s.b F.ST_STATUS_CHIMNEY 0 = true →
    Gives (.railsUp) s fun t => t.f F.ST_STATUS_PHASE 0 = 8 ∧ t.rack.ibi = s.rack.ibi ++ [2])

/-- An attempt of DRAM training passes with the eyes measured, or fails, the third time with the start; a readable image
with a correct header is loaded; a valid one goes on to the release and any other fails the start; the release sets
ST_VECTOR and lets the harts of the dies that are ON run at ENTRY; START_OK ends the start; the boot watchdog fails it
with code 6. (R236, R237, R535, R536, R538, R539, R540, R541.) -/
def Obligations.StartSequence : Prop :=
  (∀ (k c we re : Nat) (s : State),
    startPhase s = 2 → s.f F.MC_TRAIN_STATE (4 * k + c) < 2 → s.f F.MC_TRAIN_ATTEMPTS (4 * k + c) < 3 → c < 4 →
    we < 64 → re < 64 →
    Gives (.dramTraining k c 0 we re) s fun t =>
      t.f F.MC_TRAIN_STATE (4 * k + c) = 2 ∧
      t.f F.MC_TRAIN_ATTEMPTS (4 * k + c) = s.f F.MC_TRAIN_ATTEMPTS (4 * k + c) + 1 ∧
      t.f F.MC_TRAIN_WR_EYE (4 * k + c) = we ∧ t.f F.MC_TRAIN_RD_EYE (4 * k + c) = re ∧
      t.fbit F.MC_STATUS_TRAINED k c = true) ∧
  (∀ (k c e we re : Nat) (s : State),
    startPhase s = 2 → s.f F.MC_TRAIN_STATE (4 * k + c) < 2 → s.f F.MC_TRAIN_ATTEMPTS (4 * k + c) < 2 → 1 ≤ e →
    e ≤ 6 →
    Gives (.dramTraining k c e we re) s fun t =>
      t.f F.MC_TRAIN_STATE (4 * k + c) = 1 ∧ t.f F.MC_TRAIN_FAIL_STEP (4 * k + c) = e ∧ t.boot = s.boot) ∧
  (∀ (k c e we re : Nat) (s : State),
    startPhase s = 2 → s.f F.MC_TRAIN_STATE (4 * k + c) < 2 → s.f F.MC_TRAIN_ATTEMPTS (4 * k + c) = 2 → 1 ≤ e →
    c < 4 → s.boot.failed = false →
    Gives (.dramTraining k c e we re) s fun t =>
      t.f F.MC_TRAIN_STATE (4 * k + c) = 3 ∧ t.fbit F.MC_STATUS_FAILED k c = true ∧ t.boot.failed = true ∧
      t.f F.ST_REASON_CODE 0 = 4) ∧
  (∀ (s : State),
    startPhase s = 2 → s.boot.failed = false → dramReady s = true →
    headerOk s.sku.dramBytes (flashBytes s (s.f F.ST_STATUS_SLOT 0 * 0x2000000) 512) = true →
    agentWaits (imgLoad (flashBytes s (s.f F.ST_STATUS_SLOT 0 * 0x2000000) 512)) (imgLength (flashBytes s (s.f
      F.ST_STATUS_SLOT 0 * 0x2000000) 512)) s = false →
    Gives (.imageLoad false) s fun t =>
      t.f F.ST_STATUS_PHASE 0 = 4 ∧ t.boot.header = some (flashBytes s (s.f F.ST_STATUS_SLOT 0 * 0x2000000) 512)) ∧
  (∀ (re : Bool) (s : State),
    startPhase s = 2 → s.boot.failed = false → dramReady s = true →
    (re || !headerOk s.sku.dramBytes (flashBytes s (s.f F.ST_STATUS_SLOT 0 * 0x2000000) 512)) = true →
    Gives (.imageLoad re) s fun t =>
      t.boot.failed = true ∧ t.f F.ST_REASON_CODE 0 = 1 ∧ t.mem = s.mem ∧ t.wrq = s.wrq) ∧
  (∀ (h : Nat) (s : State),
    s.boot.header = some h → startPhase s = 4 → s.boot.failed = false → s.b F.HELM_STATUS_ERRSTATE 0 = false →
    s.b F.HELM_STATUS_SELFTEST 0 = true → agentWaits (imgLoad h) (imgLength h) s = false →
    Gives (.imageCheck) s fun t =>
      t.f F.ST_STATUS_PHASE 0 = (if (imageValid h s).1 then 5 else 4) ∧ t.boot.failed = !(imageValid h s).1 ∧
      ((imageValid h s).1 = true → t.boot.valid = true) ∧ ((imageValid h s).1 = false → t.f F.ST_REASON_CODE 0 = 2)) ∧
  (∀ (h : Nat) (s : State),
    s.boot.header = some h → startPhase s = 4 → s.boot.failed = false → s.b F.HELM_STATUS_ERRSTATE 0 = true →
    Gives (.imageCheck) s fun t => t.boot.failed = true ∧ t.f F.ST_REASON_CODE 0 = 3) ∧
  (∀ (h : Nat) (s : State),
    startPhase s = 5 → s.boot.failed = false → s.boot.valid = true →
    ((List.range 12).all fun n => !dieOn n s || replicaReady n s) = true → h < 256 → hartExists h s = true →
    hartDie h s < 12 → dieOn (hartDie h s) s = true → s.repairs = [] → s.boot.kept = [] → s.dbg.resetHalt = 0 →
    s.fbit F.DBG_TEST_HOLD_VAL 0 (hartDie h s) = false →
    ((List.range 12).all fun n => dieOn n s || s.f F.PWR_DIE_STATE n == 0) = true →
    Gives (.hartRelease) s fun t =>
      t.f F.ST_STATUS_PHASE 0 = 6 ∧ t.r .ST_VECTOR 0 = BitVec.ofNat 64 (imgEntry (s.boot.header.getD 0)) ∧
      (t.hart h).st = .run ∧ (t.hart h).pc = t.r .ST_VECTOR 0 ∧ (t.hart h).priv = 3 ∧ (t.hart h).w = true) ∧
  (∀ (a : Access) (v : Word) (s : State),
    Allowed a true .ST_CTRL 0 s → startPhase s = 6 → s.boot.failed = false → bit v 1 = false → bit v 2 = false →
    Gives (.startOk a v) s fun t => t.f F.ST_STATUS_PHASE 0 = 7 ∧ t.f F.ST_STATUS_COUNT 0 = 0) ∧
  (∀ (s : State),
    startPhase s = 6 → s.boot.failed = false → s.f F.ST_CTRL_BOOT_WDT 0 ≠ 0 →
    msPassed (s.f F.ST_CTRL_BOOT_WDT 0) s.boot.relAt s = true →
    Gives (.bootWatchdog) s fun t =>
      t.boot.failed = true ∧ t.f F.ST_REASON_CODE 0 = 6 ∧ t.f F.ST_REASON_PHASE 0 = 6 ∧
      t.f F.ST_REASON_ATTEMPT 0 = s.f F.ST_STATUS_COUNT 0) ∧
  (∀ (s : State),
    (startPhase s != 6 || s.boot.failed || s.f F.ST_CTRL_BOOT_WDT 0 == 0 || !msPassed (s.f F.ST_CTRL_BOOT_WDT 0)
      s.boot.relAt s) = true →
    Gives (.bootWatchdog) s fun t => t = s)

/-- The self-tests make a Lantern active and the other standby; heartbeats are counted and bring a restarted one back; a
failed active Lantern gives way to a standby partner; a failed one restarts at most three times; rack commands answer
the status, event-log, result, mailbox and flash bytes, with the error of R548 otherwise; a command with a wrong PEC is
counted and ignored; an erase or a write changes the flash at its end. (R543, R544, R545, R546, R547, R548, R553.) -/
def Obligations.LanternsAndRack : Prop :=
  (∀ (x y : Bool) (s : State),
    s.pkgOff = false → s.f F.LAN_STATUS_A_STATE 0 = 0 → s.f F.LAN_STATUS_B_STATE 0 = 0 →
    s.f F.LAN_STATUS_A_RESTARTS 0 = 0 → s.f F.LAN_STATUS_B_RESTARTS 0 = 0 → s.f F.LAN_STATUS_ACTIVE 0 = 0 →
    Gives (.lanternSelfTest x y) s fun t =>
      t.f F.LAN_STATUS_A_STATE 0 = (if x then 2 else 3) ∧
      t.f F.LAN_STATUS_B_STATE 0 = (if y then (if x then 1 else 2) else 3) ∧
      t.f F.LAN_STATUS_ACTIVE 0 = (if x then 1 else if y then 2 else 0)) ∧
  (∀ (s : State),
    s.pkgOff = false → (s.f F.LAN_STATUS_B_STATE 0 = 1 ∨ s.f F.LAN_STATUS_B_STATE 0 = 2) →
    Gives (.heartbeat true) s fun t => t.rack.beatsB = s.rack.beatsB + 1 ∧ t.regs = s.regs) ∧
  (∀ (s : State),
    s.pkgOff = false → s.f F.LAN_STATUS_A_STATE 0 = 0 → s.f F.LAN_STATUS_A_RESTARTS 0 ≠ 0 →
    10000 ≤ (s.rack.beatsA + 1) * max 1 (s.f F.LAN_CFG_HB_PERIOD 0) →
    Gives (.heartbeat false) s fun t =>
      t.f F.LAN_STATUS_A_STATE 0 = (if s.f F.LAN_STATUS_ACTIVE 0 = 0 then 2 else 1)) ∧
  (∀ (s : State),
    s.pkgOff = false → s.f F.LAN_STATUS_A_STATE 0 = 2 → s.f F.LAN_STATUS_B_STATE 0 = 1 →
    Gives (.lanternFailed false) s fun t =>
      t.f F.LAN_STATUS_A_STATE 0 = 3 ∧ t.f F.LAN_STATUS_B_STATE 0 = 2 ∧ t.f F.LAN_STATUS_ACTIVE 0 = 2 ∧
      t.f F.LAN_STATUS_TAKEOVERS 0 = min (s.f F.LAN_STATUS_TAKEOVERS 0 + 1) (fldMax F.LAN_STATUS_TAKEOVERS) ∧
      t.rack.ibi = s.rack.ibi ++ [3] ∧ bits (t.r .ST_EVLOG (2 * s.f F.ST_EVLOG_HEAD_HEAD 0)) 63 56 = 9) ∧
  (∀ (s : State),
    s.pkgOff = false → s.f F.LAN_STATUS_B_STATE 0 = 2 → s.f F.LAN_STATUS_A_STATE 0 ≠ 1 →
    Gives (.lanternFailed true) s fun t =>
      t.f F.LAN_STATUS_B_STATE 0 = 3 ∧ t.f F.LAN_STATUS_ACTIVE 0 = 0 ∧
      bits (t.r .ST_EVLOG (2 * s.f F.ST_EVLOG_HEAD_HEAD 0)) 63 56 = 9) ∧
  (∀ (s : State),
    s.pkgOff = false → s.f F.LAN_STATUS_B_STATE 0 = 3 → s.f F.LAN_STATUS_B_RESTARTS 0 < 3 →
    Gives (.lanternRestart true) s fun t =>
      t.f F.LAN_STATUS_B_STATE 0 = 0 ∧ t.f F.LAN_STATUS_B_RESTARTS 0 = s.f F.LAN_STATUS_B_RESTARTS 0 + 1 ∧
      t.rack.beatsB = 0 ∧ bits (t.r .ST_EVLOG (2 * s.f F.ST_EVLOG_HEAD_HEAD 0)) 63 56 = 0xA) ∧
  (∀ (s : State),
    s.f F.LAN_STATUS_A_RESTARTS 0 = 3 →
    Gives (.lanternRestart false) s fun t => t = s) ∧
  (∀ (s : State),
    s.aonOff = false → s.pkgOff = false → s.flashOp = none →
    Gives (.getStart true) s fun t =>
      t.rack.result = 0 ∧ t.rack.rspLen = 32 ∧
      t.rack.rsp = catBytes [(8, (s.r .ST_STATUS 0).toNat), (8, (s.r .ST_REASON 0).toNat), (8, (s.r .ST_DIE 0).toNat),
        (8, (s.r .LAN_STATUS 0).toNat)] ∧
      t.regs = s.regs) ∧
  (∀ (s : State),
    s.aonOff = false → s.pkgOff = false → s.flashOp = none →
    Gives (.getStart false) s fun t => t = s.satInc F.LAN_STATUS_PEC_ERR 0) ∧
  (∀ (i : Nat) (s : State),
    s.aonOff = false → s.pkgOff = false → s.flashOp = none → i < 64 →
    Gives (.getEvlog true i) s fun t =>
      t.rack.result = 0 ∧ t.rack.rspLen = 16 ∧
      t.rack.rsp = catBytes [(8, (s.r .ST_EVLOG (2 * i)).toNat), (8, (s.r .ST_EVLOG (2 * i + 1)).toNat)]) ∧
  (∀ (i : Nat) (s : State),
    s.aonOff = false → s.pkgOff = false → s.flashOp = none → 64 ≤ i → i < 256 →
    Gives (.getEvlog true i) s fun t => t.rack.result = 4) ∧
  (∀ (s : State),
    s.aonOff = false → s.pkgOff = false → s.flashOp = none →
    Gives (.getResult true) s fun t =>
      t.rack.result = s.rack.result ∧ t.rack.rspLen = 1 ∧ t.rack.rsp = s.rack.result) ∧
  (∀ (off d : Nat) (s : State),
    s.aonOff = false → s.pkgOff = false → s.flashOp = none → off % 8 = 0 → off + 8 ≤ 1072 →
    s.b F.HELM_MB_STATUS_BUSY 2 = false →
    Gives (.mbWrite true off 8 d) s fun t =>
      t.r .HELM_MB_REQ (268 + off / 8) = BitVec.ofNat 64 d ∧ t.rack.result = 0) ∧
  (∀ (off n d : Nat) (s : State),
    s.aonOff = false → s.pkgOff = false → s.flashOp = none → s.b F.HELM_MB_STATUS_BUSY 2 = true → n ≤ 253 →
    off + n ≤ 1072 →
    Gives (.mbWrite true off n d) s fun t => t.rack.result = 1 ∧ t.regs = s.regs) ∧
  (∀ (l : Nat) (s : State),
    s.aonOff = false → s.pkgOff = false → s.flashOp = none → s.b F.HELM_MB_STATUS_BUSY 2 = false →
    s.b F.HELM_MB_STATUS_DONE 2 = false → s.helm.cur ≠ none → l < 65536 →
    Gives (.mbRing true l) s fun t =>
      t.b F.HELM_MB_STATUS_BUSY 2 = true ∧ t.b F.HELM_MB_STATUS_PENDING 2 = true ∧
      smapGet (fun _ => 0) t.helm.lens 2 = l ∧ t.rack.result = 0) ∧
  (∀ (l : Nat) (s : State),
    s.aonOff = false → s.pkgOff = false → s.flashOp = none →
    (s.b F.HELM_MB_STATUS_BUSY 2 || s.b F.HELM_MB_STATUS_DONE 2) = true →
    Gives (.mbRing true l) s fun t => t.rack.result = 1 ∧ t.regs = s.regs ∧ t.helm = s.helm) ∧
  (∀ (s : State),
    s.aonOff = false → s.pkgOff = false → s.flashOp = none →
    Gives (.mbStatus true) s fun t =>
      t.rack.result = 0 ∧ t.rack.rspLen = 8 ∧ t.rack.rsp = (s.r .HELM_MB_STATUS 2).toNat) ∧
  (∀ (off : Nat) (s : State),
    s.aonOff = false → s.pkgOff = false → s.flashOp = none → off < 65536 → off ≤ (s.f F.HELM_MB_STATUS_RSP_LEN 2) →
    (s.f F.HELM_MB_STATUS_RSP_LEN 2) ≤ off + 253 →
    Gives (.mbRead true off) s fun t =>
      t.rack.result = 0 ∧ t.rack.rspLen = (s.f F.HELM_MB_STATUS_RSP_LEN 2) - off ∧
      t.rack.rsp = nslice (rspAll 2 s) off ((s.f F.HELM_MB_STATUS_RSP_LEN 2) - off) ∧
      t.b F.HELM_MB_STATUS_DONE 2 = false) ∧
  (∀ (x n : Nat) (s : State),
    s.aonOff = false → s.pkgOff = false → s.flashOp = none → n ≤ 253 → x + n ≤ flashSize →
    Gives (.flashRead true x n) s fun t => t.rack.result = 0 ∧ t.rack.rspLen = n ∧ t.rack.rsp = flashBytes s x n) ∧
  (∀ (x : Nat) (s : State),
    s.aonOff = false → s.pkgOff = false → s.flashOp = none → inChimney s = true → x % 65536 = 0 → x < flashSize →
    Gives (.flashErase true x) s fun t =>
      t.flashOp = some { erase := true, addr := x, n := 65536, data := 0, lmb := false } ∧ t.rack.result = 0 ∧
      t.flash = s.flash) ∧
  (∀ (x : Nat) (s : State),
    s.aonOff = false → s.pkgOff = false → s.flashOp = none → inChimney s = false →
    Gives (.flashErase true x) s fun t => t.rack.result = 3 ∧ t.flashOp = none ∧ t.flash = s.flash) ∧
  (∀ (x n d : Nat) (s : State),
    s.aonOff = false → s.pkgOff = false → s.flashOp = none → inChimney s = true → n ≤ 249 → x % 256 + n ≤ 256 →
    x + n ≤ flashSize → d < 256 ^ n →
    Gives (.flashWrite true x n d) s fun t =>
      t.flashOp = some { erase := false, addr := x, n := n, data := d, lmb := false } ∧ t.rack.result = 0) ∧
  (∀ (o : FlashOp) (s : State),
    s.flashOp = some o → o.lmb = false → o.erase = true →
    Gives (.flashOpDone true) s fun t =>
      t.flashOp = none ∧ t.rack.result = 0 ∧ flashByte t o.addr = 0xFF ∧
      t.flash = s.flash.filter fun x => x.1 / 65536 != o.addr / 65536) ∧
  (∀ (o : FlashOp) (s : State),
    s.flashOp = some o → o.lmb = false → o.erase = false → o.data < 256 ^ o.n →
    Gives (.flashOpDone true) s fun t => t.flashOp = none ∧ t.rack.result = 0 ∧ flashBytes t o.addr o.n = o.data) ∧
  (∀ (x : Nat) (s : State),
    s.pkgOff = false →
    Gives (.dynamicAddressAssignment x) s fun t => t.rack.dyn = some (x % 128))

/-- The instruction at PC of the channel that holds the instruction slot: HALT ends the run; a LOOP pushes a level or,
with count 0, passes its ENDLOOP; ENDLOOP goes back or pops; JUMP and a BRZ on zero move PC by the offset; SETR and ADDR
write their register; a word that the encoding rejects faults with code 1 and a fetch outside the window with code 2.
(R324, R329, R334, R335, R336, R337, R343, R344, R345, R367.) -/
def Obligations.DmaControl : Prop :=
  (∀ (c ecc : Nat) (s : State),
    DmaAt c 0 s → (ecc = 0 ∨ ecc = 1) → zeroBits (waitWord c s) 59 16 = true → zeroBits (waitWord c s) 14 8 = true →
    bit (waitWord c s) 15 = true →
    Gives (.halt c ecc) s fun t =>
      chState c t = 0 ∧ t.b F.DE_CH_STATUS_DONE c = true ∧ t.f F.DE_CH_EVT_CODE c = wb (waitWord c s) 7 0 ∧
      t.pulses.contains (225 + c) = true ∧
      t.f F.DE_CH_STATUS_RUNS c = (s.f F.DE_CH_STATUS_RUNS c + 1) % (fldMax F.DE_CH_STATUS_RUNS + 1)) ∧
  (∀ (c ecc : Nat) (s : State),
    DmaAt c 0 s → (ecc = 0 ∨ ecc = 1) → zeroBits (waitWord c s) 59 16 = true → zeroBits (waitWord c s) 15 8 = true →
    Gives (.halt c ecc) s fun t => chState c t = 0 ∧ t.b F.DE_CH_STATUS_DONE c = true ∧ t.pulses = s.pulses) ∧
  (∀ (c ecc : Nat) (s : State),
    DmaAt c 0 s → (ecc = 0 ∨ ecc = 1) → zeroBits (waitWord c s) 59 16 = false →
    Gives (.halt c ecc) s fun t => DmaFaults c 1 t ∧ t.f F.DE_CH_FAULT_FPC c = chPc c s) ∧
  (∀ (c ecc : Nat) (s : State),
    s.b F.DE_CH_CFG_MODE c = false → chWinner (c / 64) 0 chReadyI s = some c → chInWin c (chPc c s) s = false →
    Gives (.halt c ecc) s fun t => DmaFaults c 2 t ∧ t.f F.DE_CH_FAULT_FPC c = chPc c s) ∧
  (∀ (c ecc : Nat) (s : State),
    chWinner (c / 64) 0 chReadyI s ≠ some c →
    Gives (.halt c ecc) s fun t => t = s) ∧
  (∀ (c ecc ecc2 : Nat) (s : State),
    DmaAt c 3 s → (ecc = 0 ∨ ecc = 1) → zeroBits (waitWord c s) 54 48 = true → 1 ≤ wb (waitWord c s) 47 32 →
    chInWin c (chPc c s + wb (waitWord c s) 47 32) s = true → ecc2 = 0 →
    opOf (s.r .DE_PROG (c / 64 * 8192 + (chPc c s + wb (waitWord c s) 47 32))) = 4 → bit (waitWord c s) 59 = false →
    bit (waitWord c s) 58 = false → chPc c s + wb (waitWord c s) 47 32 < 8191 → wb (waitWord c s) 31 0 ≠ 0 →
    chDepth c s < 4 →
    Gives (.loop c ecc ecc2) s fun t =>
      t.b F.DE_CH_LOOP_VALID (4 * c + chDepth c s) = true ∧
      t.f F.DE_CH_LOOP_START (4 * c + chDepth c s) = chPc c s + 1 ∧
      t.f F.DE_CH_LOOP_COUNT (4 * c + chDepth c s) = wb (waitWord c s) 31 0 ∧ chPc c t = chPc c s + 1) ∧
  (∀ (c ecc ecc2 : Nat) (s : State),
    DmaAt c 3 s → (ecc = 0 ∨ ecc = 1) → zeroBits (waitWord c s) 54 48 = true → 1 ≤ wb (waitWord c s) 47 32 →
    chInWin c (chPc c s + wb (waitWord c s) 47 32) s = true → ecc2 = 0 →
    opOf (s.r .DE_PROG (c / 64 * 8192 + (chPc c s + wb (waitWord c s) 47 32))) = 4 → bit (waitWord c s) 59 = false →
    bit (waitWord c s) 58 = false → chPc c s + wb (waitWord c s) 47 32 < 8191 → wb (waitWord c s) 31 0 = 0 →
    Gives (.loop c ecc ecc2) s fun t =>
      chPc c t = chPc c s + wb (waitWord c s) 47 32 + 1 ∧ chDepth c t = chDepth c s) ∧
  (∀ (c ecc : Nat) (s : State),
    DmaAt c 4 s → (ecc = 0 ∨ ecc = 1) → zeroBits (waitWord c s) 59 0 = true → 1 ≤ chDepth c s →
    s.b F.DE_CH_LOOP_INF (4 * c + (chDepth c s - 1)) = false →
    2 ≤ s.f F.DE_CH_LOOP_COUNT (4 * c + (chDepth c s - 1)) →
    Gives (.endLoop c ecc) s fun t =>
      chPc c t = s.f F.DE_CH_LOOP_START (4 * c + (chDepth c s - 1)) ∧
      t.f F.DE_CH_LOOP_COUNT (4 * c + (chDepth c s - 1)) = s.f F.DE_CH_LOOP_COUNT (4 * c + (chDepth c s - 1)) - 1) ∧
  (∀ (c ecc : Nat) (s : State),
    DmaAt c 4 s → (ecc = 0 ∨ ecc = 1) → zeroBits (waitWord c s) 59 0 = true → 1 ≤ chDepth c s →
    s.b F.DE_CH_LOOP_INF (4 * c + (chDepth c s - 1)) = false →
    s.f F.DE_CH_LOOP_COUNT (4 * c + (chDepth c s - 1)) = 1 →
    Gives (.endLoop c ecc) s fun t =>
      chPc c t = chPc c s + 1 ∧ t.b F.DE_CH_LOOP_VALID (4 * c + (chDepth c s - 1)) = false) ∧
  (∀ (c ecc : Nat) (s : State),
    DmaAt c 4 s → (ecc = 0 ∨ ecc = 1) → zeroBits (waitWord c s) 59 0 = true → chDepth c s = 0 →
    Gives (.endLoop c ecc) s fun t => DmaFaults c 3 t) ∧
  (∀ (c ecc : Nat) (s : State),
    DmaAt c 10 s → (ecc = 0 ∨ ecc = 1) → zeroBits (waitWord c s) 56 16 = true → wb (waitWord c s) 59 57 ≤ 4 →
    wb (waitWord c s) 59 57 ≤ chDepth c s → 0 ≤ ((chPc c s : Int) + signedOf 2 (wb (waitWord c s) 15 0)) →
    chInWin c ((chPc c s : Int) + signedOf 2 (wb (waitWord c s) 15 0)).toNat s = true →
    Gives (.jump c ecc) s fun t =>
      chPc c t = ((chPc c s : Int) + signedOf 2 (wb (waitWord c s) 15 0)).toNat ∧
      chDepth c t = chDepth c s - wb (waitWord c s) 59 57) ∧
  (∀ (c ecc : Nat) (s : State),
    DmaAt c 11 s → (ecc = 0 ∨ ecc = 1) → zeroBits (waitWord c s) 53 16 = true → wb (waitWord c s) 59 57 ≤ 4 →
    chG c (wb (waitWord c s) 56 54) s = 0 → wb (waitWord c s) 59 57 ≤ chDepth c s →
    0 ≤ ((chPc c s : Int) + signedOf 2 (wb (waitWord c s) 15 0)) →
    chInWin c ((chPc c s : Int) + signedOf 2 (wb (waitWord c s) 15 0)).toNat s = true →
    Gives (.brz c ecc) s fun t => chPc c t = ((chPc c s : Int) + signedOf 2 (wb (waitWord c s) 15 0)).toNat) ∧
  (∀ (c ecc : Nat) (s : State),
    DmaAt c 11 s → (ecc = 0 ∨ ecc = 1) → zeroBits (waitWord c s) 53 16 = true → wb (waitWord c s) 59 57 ≤ 4 →
    chG c (wb (waitWord c s) 56 54) s ≠ 0 →
    Gives (.brz c ecc) s fun t => chPc c t = chPc c s + 1) ∧
  (∀ (c ecc : Nat) (s : State),
    DmaAt c 8 s → (ecc = 0 ∨ ecc = 1) → zeroBits (waitWord c s) 56 48 = true →
    Gives (.setr c ecc) s fun t =>
      chG c (wb (waitWord c s) 59 57) t = extend true 6 (wb (waitWord c s) 47 0) ∧ chPc c t = chPc c s + 1) ∧
  (∀ (c ecc : Nat) (s : State),
    DmaAt c 8 s → (ecc = 0 ∨ ecc = 1) → zeroBits (waitWord c s) 55 48 = true → bit (waitWord c s) 56 = true →
    Gives (.setr c ecc) s fun t =>
      chG c (wb (waitWord c s) 59 57) t = BitVec.ofNat 64 ((chG c (wb (waitWord c s) 59 57) s).toNat % 2 ^ 48 + wb
        (waitWord c s) 15 0 * 2 ^ 48) ∧
      chPc c t = chPc c s + 1) ∧
  (∀ (c ecc : Nat) (s : State),
    DmaAt c 9 s → (ecc = 0 ∨ ecc = 1) → zeroBits (waitWord c s) 50 32 = true →
    Gives (.addr c ecc) s fun t =>
      chG c (wb (waitWord c s) 59 57) t = chG c (wb (waitWord c s) 56 54) s + extend true 4 (wb (waitWord c s) 31 0) ∧
      chPc c t = chPc c s + 1)

/-- A WAIT whose condition holds consumes it and goes on, and any other makes the channel wait, until an unblock, a PEND
write or a semaphore brings it about or its timeout faults it; SIGNAL adds to a semaphore, sets an event of a channel of
the same owner, raises an interrupt or writes; FENCE.ACK ends when nothing is unacknowledged. (R338, R339, R340, R341,
R342, R345.) -/
def Obligations.DmaSync : Prop :=
  (∀ (c ecc : Nat) (s : State),
    DmaAt c 5 s → (ecc = 0 ∨ ecc = 1) → waitIll (waitWord c s) = false → wb (waitWord c s) 59 58 = 0 →
    (s.f F.DE_CH_EVT_PEND c &&& wb (waitWord c s) 7 0) ≠ 0 →
    Gives (.wait c ecc) s fun t =>
      t.f F.DE_CH_EVT_PEND c = s.f F.DE_CH_EVT_PEND c ^^^ (s.f F.DE_CH_EVT_PEND c &&& wb (waitWord c s) 7 0) ∧
      chState c t = chState c s ∧ chPc c t = chPc c s + 1) ∧
  (∀ (c ecc : Nat) (s : State),
    DmaAt c 5 s → (ecc = 0 ∨ ecc = 1) → waitIll (waitWord c s) = false → wb (waitWord c s) 59 58 = 0 →
    (s.f F.DE_CH_EVT_PEND c &&& wb (waitWord c s) 7 0) = 0 →
    Gives (.wait c ecc) s fun t => chState c t = 2 ∧ chPc c t = chPc c s ∧ (t.ch c).since = s.dmaTurn) ∧
  (∀ (c ecc : Nat) (s : State),
    DmaAt c 5 s → (ecc = 0 ∨ ecc = 1) → waitIll (waitWord c s) = false → wb (waitWord c s) 59 58 = 2 →
    semOk c (semIx (c / 64) (wb (waitWord c s) 13 8)) s = true →
    wb (waitWord c s) 23 16 ≤ s.f F.DE_SEM_COUNT (semIx (c / 64) (wb (waitWord c s) 13 8)) →
    Gives (.wait c ecc) s fun t =>
      t.f F.DE_SEM_COUNT (semIx (c / 64) (wb (waitWord c s) 13 8)) = s.f F.DE_SEM_COUNT (semIx (c / 64) (wb (waitWord
        c s) 13 8)) - wb (waitWord c s) 23 16 ∧
      chPc c t = chPc c s + 1) ∧
  (∀ (c ecc : Nat) (s : State),
    DmaAt c 5 s → (ecc = 0 ∨ ecc = 1) → waitIll (waitWord c s) = false → wb (waitWord c s) 59 58 = 2 →
    semOk c (semIx (c / 64) (wb (waitWord c s) 13 8)) s = false →
    Gives (.wait c ecc) s fun t => DmaFaults c 0xE t) ∧
  (∀ (c : Nat) (s : State),
    chState c s = 2 → wb (waitWord c s) 39 24 ≠ 0 →
    wb (waitWord c s) 39 24 * tbMicro ≤ (s.tb - (s.ch c).waitTb).toNat →
    Gives (.waitTimeout c) s fun t => DmaFaults c 0xD t) ∧
  (∀ (c : Nat) (s : State),
    (chState c s != 2 || wb (waitWord c s) 39 24 == 0 || decide ((s.tb - (s.ch c).waitTb).toNat < wb (waitWord c s) 39
      24 * tbMicro)) = true →
    Gives (.waitTimeout c) s fun t => t = s) ∧
  (∀ (c ecc : Nat) (s : State),
    DmaAt c 6 s → (ecc = 0 ∨ ecc = 1) → wb (waitWord c s) 59 57 = 0 → wb (waitWord c s) 23 16 ≠ 0 →
    zeroBits (waitWord c s) 53 48 = true → zeroBits (waitWord c s) 39 24 = true →
    zeroBits (waitWord c s) 15 14 = true → zeroBits (waitWord c s) 7 0 = true →
    semOk c (semIx (c / 64) (wb (waitWord c s) 13 8)) s = true →
    ((List.range 64).all fun k => chState (64 * (c / 64) + k) s != 2) = true →
    Gives (.signalSem c ecc) s fun t =>
      t.f F.DE_SEM_COUNT (semIx (c / 64) (wb (waitWord c s) 13 8)) = min (s.f F.DE_SEM_COUNT (semIx (c / 64) (wb
        (waitWord c s) 13 8)) + wb (waitWord c s) 23 16) 65535 ∧
      chPc c t = chPc c s + 1) ∧
  (∀ (c ecc : Nat) (s : State),
    DmaAt c 6 s → (ecc = 0 ∨ ecc = 1) → wb (waitWord c s) 59 57 = 1 → zeroBits (waitWord c s) 31 3 = true →
    zeroBits (waitWord c s) 53 48 = true → zeroBits (waitWord c s) 39 32 = true →
    chPart (wb (waitWord c s) 47 40) s = chPart c s → chWorld (wb (waitWord c s) 47 40) s = chWorld c s →
    chState (wb (waitWord c s) 47 40) s ≠ 2 →
    s.fbit F.DE_CH_EVT_PEND (wb (waitWord c s) 47 40) (wb (waitWord c s) 2 0) = false →
    Gives (.signalEvt c ecc) s fun t =>
      t.fbit F.DE_CH_EVT_PEND (wb (waitWord c s) 47 40) (wb (waitWord c s) 2 0) = true ∧ chPc c t = chPc c s + 1) ∧
  (∀ (c ecc : Nat) (s : State),
    DmaAt c 6 s → (ecc = 0 ∨ ecc = 1) → wb (waitWord c s) 59 57 = 1 → zeroBits (waitWord c s) 31 3 = true →
    zeroBits (waitWord c s) 53 48 = true → zeroBits (waitWord c s) 39 32 = true →
    chPart (wb (waitWord c s) 47 40) s ≠ chPart c s →
    Gives (.signalEvt c ecc) s fun t =>
      DmaFaults c 0xE t ∧
      t.f F.DE_CH_EVT_PEND (wb (waitWord c s) 47 40) = s.f F.DE_CH_EVT_PEND (wb (waitWord c s) 47 40)) ∧
  (∀ (c ecc : Nat) (s : State),
    DmaAt c 6 s → (ecc = 0 ∨ ecc = 1) → wb (waitWord c s) 59 57 = 2 → zeroBits (waitWord c s) 31 8 = true →
    zeroBits (waitWord c s) 53 48 = true → zeroBits (waitWord c s) 39 32 = true →
    Gives (.signalIrq c ecc) s fun t =>
      t.f F.DE_CH_EVT_CODE c = wb (waitWord c s) 7 0 ∧ t.pulses.contains (225 + c) = true ∧ chPc c t = chPc c s + 1) ∧
  (∀ (c ecc pa x : Nat) (y : List Nat) (s : State),
    DmaAt c 6 s → (ecc = 0 ∨ ecc = 1) → wb (waitWord c s) 59 57 = 3 → zeroBits (waitWord c s) 53 48 = true →
    zeroBits (waitWord c s) 39 32 = true → (chG c (wb (waitWord c s) 56 54) s).toNat % 8 = 0 → inDram pa s = true →
    Gives (.signalWrite c ecc (.ok pa x y)) s fun t =>
      sentSome (fun q => q.op == .wrNC && q.cls == .hp && q.src == 0x110 + c / 64 && q.dst == 0x100 + mcOf pa &&
        q.addr == lineOf pa && q.payload == linePut 0 (pa % 64) 8 (wb (waitWord c s) 31 0)) t = true ∧
      chPc c t = chPc c s + 1) ∧
  (∀ (c ecc : Nat) (xs : List Xlate) (s : State),
    DmaAt c 7 s → (ecc = 0 ∨ ecc = 1) → zeroBits (waitWord c s) 59 0 = true → chUnacked c s = false →
    (s.ch c).fence = false →
    Gives (.fenceAck c ecc xs) s fun t => chPc c t = chPc c s + 1 ∧ (t.ch c).fence = false ∧ (t.ch c).ports = []) ∧
  (∀ (c ecc : Nat) (xs : List Xlate) (s : State),
    DmaAt c 7 s → (ecc = 0 ∨ ecc = 1) → zeroBits (waitWord c s) 59 0 = true → chUnacked c s = true →
    Gives (.fenceAck c ecc xs) s fun t => chPc c t = chPc c s ∧ (t.ch c).fence = true) ∧
  (∀ (c ecc pa x d a v : Nat) (y : List Nat) (s : State),
    DmaAt c 7 s → (ecc = 0 ∨ ecc = 1) → zeroBits (waitWord c s) 58 0 = true → bit (waitWord c s) 59 = true →
    (s.ch c).ports = [(d, a, v)] →
    Gives (.fenceAck c ecc [.ok pa x y]) s fun t =>
      chPc c t = chPc c s ∧ (t.ch c).fence = true ∧
      (t.txs.any fun z => z.own == .dmaFlush c v && z.op == .rdIO && z.tgt == d && z.addr == lineOf a) = true ∧
      sentSome (fun q => q.op == .rdIO && q.cls == .hp && q.dst == d && q.addr == lineOf a && q.src == 0x110 + c / 64)
        t = true) ∧
  (∀ (c ecc k d a v : Nat) (tv : Word) (s : State),
    DmaAt c 7 s → (ecc = 0 ∨ ecc = 1) → zeroBits (waitWord c s) 58 0 = true → bit (waitWord c s) 59 = true →
    (s.ch c).ports = [(d, a, v)] →
    Gives (.fenceAck c ecc [.fault k tv]) s fun t => DmaFaults c 8 t ∧ t.r .DE_CH_FADDR c = BitVec.ofNat 64 v) ∧
  (∀ (c e : Nat) (w : Bool) (p : Nat) (s : State),
    s.out = [.dmaUnblock c e w p] → chState c s ≠ 2 → s.fbit F.DE_CH_EVT_PEND c (e % 8) = false →
    Gives (.dmaUnblock c e) s fun t => t.fbit F.DE_CH_EVT_PEND c (e % 8) = true ∧ t.out = []) ∧
  (∀ (c e : Nat) (w : Bool) (p : Nat) (s : State),
    s.out = [.dmaUnblock c e w p] → chState c s ≠ 2 → s.fbit F.DE_CH_EVT_PEND c (e % 8) = true →
    Gives (.dmaUnblock c e) s fun t => t.fbit F.DE_CH_EVT_OVR c (e % 8) = true ∧ t.out = []) ∧
  (∀ (c e : Nat) (w : Bool) (p : Nat) (s : State),
    s.out = [.dmaUnblock c e w p] → e < 8 → chState c s = 2 → chPc c s < 8191 → waitIll (waitWord c s) = false →
    wb (waitWord c s) 59 58 = 0 → (wb (waitWord c s) 7 0).testBit e = true → s.f F.DE_CH_EVT_PEND c = 0 →
    Gives (.dmaUnblock c e) s fun t => chState c t = 1 ∧ chPc c t = chPc c s + 1 ∧ t.f F.DE_CH_EVT_PEND c = 0) ∧
  (∀ (a : Access) (c : Nat) (v : Word) (s : State),
    Allowed a true .DE_CH_EVT c s → chState c s ≠ 2 →
    Gives (.pendWrite a c v) s fun t => t.r .DE_CH_EVT c = Reg.write .DE_CH_EVT false (s.r .DE_CH_EVT c) v) ∧
  (∀ (a : Access) (i : Nat) (v : Word) (s : State),
    Allowed a true .DE_SEM i s → a.part = 0 → a.world = true → assigns F.DE_SEM_PART i v s = false →
    ((List.range 64).all fun k => chState (64 * (i / 64) + k) s != 2) = true →
    Gives (.semCountWrite a i v) s fun t => t.r .DE_SEM i = Reg.write .DE_SEM false (s.r .DE_SEM i) v)

/-- A MOVE or MOVE2D that passes its checks begins at the byte where the channel stopped, and one of no bytes ends at
once; the access slot issues a read or a write of the granted channel; the last write ends the MOVE; a channel in MODE 1
reads its descriptor, and its end writes STATUS and ends the list; START, PAUSE, RESUME, ABORT and STOP change the state
as R355 to R360 say. (R325, R327, R330, R331, R332, R351, R352, R354, R355, R358, R359, R361.) -/
def Obligations.DmaTransfers : Prop :=
  (∀ (c ecc : Nat) (k : TClass) (s : State),
    DmaAt c 1 s → (ecc = 0 ∨ ecc = 1) → moveClass (wb (waitWord c s) 47 46) = some k →
    zeroBits (waitWord c s) 45 24 = true → zeroBits (waitWord c s) 50 48 = true → wb (waitWord c s) 23 0 ≠ 0 →
    (chG c (wb (waitWord c s) 59 57) s).toNat + wb (waitWord c s) 23 0 ≤ (chG c (wb (waitWord c s) 56 54) s).toNat →
    (chG c (wb (waitWord c s) 56 54) s).toNat + wb (waitWord c s) 23 0 ≤ 2 ^ 38 →
    Gives (.move c ecc) s fun t =>
      (t.ch c).move = some
        { src := (chG c (wb (waitWord c s) 59 57) s).toNat, dst := (chG c (wb (waitWord c s) 56 54) s).toNat, rowLen := wb (waitWord c s) 23 0, cls := k, next := (s.ch c).cont, done := (s.ch c).cont }
        ∧
      chPc c t = chPc c s) ∧
  (∀ (c ecc : Nat) (k : TClass) (s : State),
    DmaAt c 1 s → (ecc = 0 ∨ ecc = 1) → moveClass (wb (waitWord c s) 47 46) = some k →
    zeroBits (waitWord c s) 41 24 = true → bit (waitWord c s) 50 = false → wb (waitWord c s) 23 0 = 0 →
    Gives (.move c ecc) s fun t => t.f F.DE_CH_MOVED_VAL c = 0 ∧ chPc c t = chPc c s + 1) ∧
  (∀ (c ecc : Nat) (k : TClass) (s : State),
    DmaAt c 1 s → (ecc = 0 ∨ ecc = 1) → moveClass (wb (waitWord c s) 47 46) = some k →
    zeroBits (waitWord c s) 45 24 = true → bit (waitWord c s) 50 = false → wb (waitWord c s) 23 0 ≠ 0 →
    (chG c (wb (waitWord c s) 59 57) s).toNat = (chG c (wb (waitWord c s) 56 54) s).toNat →
    (chG c (wb (waitWord c s) 56 54) s).toNat < 2 ^ 38 →
    Gives (.move c ecc) s fun t => DmaFaults c 7 t) ∧
  (∀ (c ecc : Nat) (k : TClass) (m : DmaMove) (s : State),
    DmaAt c 2 s → (ecc = 0 ∨ ecc = 1) → moveClass (wb (waitWord c s) 47 46) = some k →
    zeroBits (waitWord c s) 50 48 = true → zeroBits (waitWord c s) 45 40 = true →
    m =
      { src := (chG c (wb (waitWord c s) 59 57) s).toNat, dst := (chG c (wb (waitWord c s) 56 54) s).toNat, ss := stride32 (chG c (wb (waitWord c s) 53 51) s).toNat, ds := stride32 ((chG c (wb (waitWord c s) 53 51) s).toNat / 2 ^ 32), rows := wb (waitWord c s) 39 24, rowLen := wb (waitWord c s) 23 0, cls := k }
      →
    moveTotal m ≠ 0 → moveFault m = none →
    Gives (.move2D c ecc) s fun t =>
      (t.ch c).move = some { m with next := (s.ch c).cont, done := (s.ch c).cont } ∧ chPc c t = chPc c s) ∧
  (∀ (c : Nat) (s : State),
    s.b F.DE_CH_CFG_MODE c = false → chState c s = 1 → moveEnded c s = true → chPc c s < 8191 →
    Gives (.moveComplete c) s fun t => (t.ch c).move = none ∧ chPc c t = chPc c s + 1) ∧
  (∀ (c : Nat) (s : State),
    moveEnded c s = false →
    Gives (.moveComplete c) s fun t => t = s) ∧
  (∀ (j c pa x : Nat) (y : List Nat) (w : Bool) (m : DmaMove) (s : State),
    chWinner j 1 chReadyA s = some c → (s.ch c).move = some m → writeReady c m s = false →
    accFault pa (readLen m m.next pa) m.sfix s = none → inDram pa s = true →
    Gives (.accessSlotGrant j w (.ok pa x y)) s fun t =>
      (t.ch c).move = some
        { m with next := m.next + readLen m m.next pa, rds := m.rds ++ [⟨m.next, readLen m m.next pa, none⟩] } ∧
      sentSome (fun q => q.op == .rdNC && q.cls == m.cls && q.src == 0x110 + c / 64 && q.dst == 0x100 + mcOf pa &&
        q.addr == lineOf pa) t = true) ∧
  (∀ (j c pa x : Nat) (y : List Nat) (m : DmaMove) (s : State),
    chWinner j 1 chReadyA s = some c → (s.ch c).move = some m → writeReady c m s = true → chState c s = 1 →
    accFault pa (min (writeLen m m.done pa) (rdAvail m.rds)) m.dfix s = none → inDram pa s = true →
    Gives (.accessSlotGrant j true (.ok pa x y)) s fun t =>
      (t.ch c).move = some
        { m with done := m.done + min (writeLen m m.done pa) (rdAvail m.rds), rds := rdSkip (min (writeLen m m.done pa) (rdAvail m.rds)) m.rds }
        ∧
      sentSome (fun q => q.op == .wrNC && q.src == 0x110 + c / 64 && q.dst == 0x100 + mcOf pa && q.addr == lineOf pa
        && q.payload == linePut 0 (pa % 64) (min (writeLen m m.done pa) (rdAvail m.rds)) (rdTake (min (writeLen m
        m.done pa) (rdAvail m.rds)) m.rds)) t = true) ∧
  (∀ (j : Nat) (w : Bool) (x : Xlate) (s : State),
    chWinner j 1 chReadyA s = none →
    Gives (.accessSlotGrant j w x) s fun t => t = s) ∧
  (∀ (c pa x : Nat) (y : List Nat) (s : State),
    s.b F.DE_CH_CFG_MODE c = true → chWinner (c / 64) 0 chReadyI s = some c → inDram pa s = true →
    Gives (.descriptorFetch c (.ok pa x y)) s fun t =>
      (t.ch c).desc = some { pa := pa } ∧
      sentSome (fun q => q.op == .rdNC && q.cls == .be && q.src == 0x110 + c / 64 && q.addr == lineOf pa) t = true) ∧
  (∀ (c : Nat) (d : DmaDesc) (s : State),
    s.b F.DE_CH_CFG_MODE c = true → moveEnded c s = true → chState c s = 1 → (s.ch c).desc = some d → d.next = 0 →
    inDram (d.pa + 23) s = true →
    Gives (.descriptorComplete c) s fun t =>
      chState c t = 0 ∧ t.b F.DE_CH_STATUS_DONE c = true ∧ (t.ch c).desc = none ∧
      sentSome (fun q => q.op == .wrNC && q.addr == lineOf (d.pa + 23) && q.payload == linePut 0 ((d.pa + 23) % 64) 1
        0x80) t = true) ∧
  (∀ (a : Access) (j w : Nat) (v : Word) (s : State),
    Allowed a true .DE_PROG (j * 8192 + w) s →
    Gives (.progWrite a j w v) s fun t => t.r .DE_PROG (j * 8192 + w) = v) ∧
  (∀ (c : Nat) (a : Access) (s : State),
    Allowed a true .DE_CH_CMD c s → chState c s = 0 → s.b F.DE_CH_CFG_EN c = true → s.b F.DE_CH_CFG_MODE c = false →
    chInWin c (s.f F.DE_CH_ENTRY_VAL c) s = true →
    Gives (.dmaStart c (some a)) s fun t =>
      chState c t = 1 ∧ chPc c t = s.f F.DE_CH_ENTRY_VAL c ∧ t.r .DE_CH_FAULT c = 0 ∧ chDepth c t = 0 ∧
      t.ch c = { ports := (s.ch c).ports }) ∧
  (∀ (c : Nat) (a : Access) (s : State),
    Allowed a true .DE_CH_CMD c s → chState c s = 0 → s.b F.DE_CH_CFG_EN c = true → s.b F.DE_CH_CFG_MODE c = false →
    chInWin c (s.f F.DE_CH_ENTRY_VAL c) s = false →
    Gives (.dmaStart c (some a)) s fun t =>
      DmaFaults c 2 t ∧ t.f F.DE_CH_FAULT_FPC c = s.f F.DE_CH_ENTRY_VAL c ∧ chPc c t = s.f F.DE_CH_ENTRY_VAL c) ∧
  (∀ (c : Nat) (a : Access) (s : State),
    Allowed a true .DE_CH_CMD c s → chState c s ≠ 0 →
    Gives (.dmaStart c (some a)) s fun t => t.b F.DE_CH_EVT_START_OVR c = true ∧ chState c t = chState c s) ∧
  (∀ (c : Nat) (a : Access) (s : State),
    Allowed a true .DE_CH_CMD c s → chState c s = 0 → s.b F.DE_CH_CFG_EN c = false →
    Gives (.dmaStart c (some a)) s fun t => t.b F.DE_CH_STATUS_CFGERR c = true ∧ chState c t = 0) ∧
  (∀ (c : Nat) (w : Bool) (p : Nat) (s : State),
    s.out = [.dmaStart c w p] → chState c s = 0 → s.b F.DE_CH_CFG_EN c = true → s.b F.DE_CH_CFG_MODE c = true →
    Gives (.dmaStart c none) s fun t => chState c t = 1 ∧ t.out = []) ∧
  (∀ (a : Access) (c : Nat) (s : State),
    Allowed a true .DE_CH_CMD c s → chState c s = 1 → chReads c s = 0 → (s.ch c).move = none →
    Gives (.pause a c) s fun t => chState c t = 4) ∧
  (∀ (a : Access) (c : Nat) (s : State),
    Allowed a true .DE_CH_CMD c s → chState c s = 2 →
    Gives (.pause a c) s fun t => chState c t = 4) ∧
  (∀ (a : Access) (c : Nat) (s : State),
    Allowed a true .DE_CH_CMD c s → chState c s = 1 → chReads c s ≠ 0 →
    Gives (.pause a c) s fun t => chState c t = 3) ∧
  (∀ (a : Access) (c : Nat) (s : State),
    Allowed a true .DE_CH_CMD c s → chState c s = 4 →
    Gives (.resume a c) s fun t => chState c t = 1 ∧ t.b F.DE_CH_STATUS_PARTIAL c = false) ∧
  (∀ (a : Access) (c : Nat) (s : State),
    Allowed a true .DE_CH_CMD c s → chState c s = 7 → s.b F.DE_CH_CFG_MODE c = false → chInWin c (chPc c s) s = true →
    Gives (.resume a c) s fun t => chState c t = 1 ∧ t.f F.DE_CH_FAULT_CODE c = 0) ∧
  (∀ (a : Access) (c : Nat) (s : State),
    Allowed a true .DE_CH_CMD c s → chState c s ≠ 0 → chState c s ≠ 6 → chReads c s = 0 →
    Gives (.abort a c) s fun t =>
      chState c t = 0 ∧ t.b F.DE_CH_STATUS_ABORTED c = true ∧ (t.ch c).move = none ∧ (t.ch c).desc = none) ∧
  (∀ (a : Access) (c : Nat) (s : State),
    Allowed a true .DE_CH_CMD c s → s.b F.DE_CH_CFG_MODE c = true → chState c s = 1 →
    Gives (.stop a c) s fun t => chState c t = 5)

/-- A hart that may trap, with no exception outstanding and a pending Secure interrupt, saves pc, status and mode and
enters the Secure world at SENTRY; the Open world can only set REQ of WC_CALL, and a write of the Secure world clears
it; the Secure world writes all four debug enables while WC_CTRL is unlocked and the Open world its own two when
OPEN_DBG is 1. (R379, R380, R382, R383, R390.) -/
def Obligations.WorldsAndCalls : Prop :=
  (∀ (h : Nat) (ff : Bool) (s : State),
    canTrap h s = true → (s.hart h).trap = none → secureIrq h s = true → s.b F.WC_SENTRY_VALID h = true →
    (s.hart h).haltReq = false → (s.hart h).step = none →
    ((List.range 8).all fun k => (s.hart h).c (0x1000 + k) == 0xF000000000000000) = true →
    Gives (.secureInterruptEntry h ff) s fun t =>
      t.r .WC_SAVE_PC h = (s.hart h).pc ∧ t.r .WC_SAVE_STATUS h = (s.hart h).mstatus ∧
      t.f F.WC_SAVE_MODE_PRIV h = (s.hart h).priv % 4 ∧ t.b F.WC_SAVE_MODE_V h = (s.hart h).virt ∧
      (t.hart h).w = true ∧ (t.hart h).virt = false ∧ (t.hart h).pc = s.r .WC_SENTRY h &&& ~~~ 3#64 ∧
      (t.hart h).st = (if ff then .stopped else .run) ∧
      t.b F.WC_SAVE_MODE_FAULT h = (ff || s.b F.WC_SAVE_MODE_FAULT h)) ∧
  (∀ (h : Nat) (ff : Bool) (s : State),
    secureIrq h s = false →
    Gives (.secureInterruptEntry h ff) s fun t => t = s) ∧
  (∀ (a : Access) (h : Nat) (v : Word) (s : State),
    Allowed a true .WC_CALL h s → hartExists h s = true → (a.world || bit v 0) = true →
    Gives (.secureCall a h v) s fun t => t.b F.WC_CALL_REQ h = !a.world) ∧
  (∀ (a : Access) (h : Nat) (v : Word) (s : State),
    Allowed a true .WC_CALL h s → a.world = false → bit v 0 = false →
    Gives (.secureCall a h v) s fun t => t.b F.WC_CALL_REQ h = s.b F.WC_CALL_REQ h) ∧
  (∀ (a : Access) (v : Word) (s : State),
    Allowed a true .WC_DBG 0 s → a.world = true → s.b F.WC_CTRL_LOCK 0 = false →
    Gives (.wcDbgWrite a v) s fun t =>
      ((t.b F.WC_DBG_ONI 0, t.b F.WC_DBG_OI 0), (t.b F.WC_DBG_SNI 0, t.b F.WC_DBG_SI 0)) = ((bit v 0, bit v 1), (bit v
        2, bit v 3))) ∧
  (∀ (a : Access) (v : Word) (s : State),
    Allowed a true .WC_DBG 0 s → a.world = false → s.b F.WC_CTRL_OPEN_DBG 0 = true →
    Gives (.wcDbgWrite a v) s fun t =>
      ((t.b F.WC_DBG_ONI 0, t.b F.WC_DBG_OI 0), (t.b F.WC_DBG_SNI 0, t.b F.WC_DBG_SI 0)) = ((bit v 0, bit v 1), (s.b
        F.WC_DBG_SNI 0, s.b F.WC_DBG_SI 0)))

/-- A doorbell makes the mailbox BUSY and waits its turn, or is served at once by an idle Helm; the status commands
answer the bytes of R409; PROVISION stores its keys; the self-tests end with SELFTEST or the error state; cells of a
forwarded command are gathered, and its response or timeout ends it. (R393, R397, R398, R400, R401, R407, R409, R412,
R414, R503, R567.) -/
def Obligations.HelmMailboxes : Prop :=
  (∀ (a : Access) (m : Nat) (v : Word) (s : State),
    m < 5 → Allowed a true .HELM_MB_CTRL m s → s.b F.HELM_MB_STATUS_BUSY m = false →
    s.b F.HELM_MB_STATUS_DONE m = false → s.helm.cur ≠ none →
    Gives (.helmDoorbell a m v) s fun t =>
      t.b F.HELM_MB_STATUS_BUSY m = true ∧ t.b F.HELM_MB_STATUS_PENDING m = true ∧
      smapGet (fun _ => 0) t.helm.lens m = fget F.HELM_MB_CTRL_LEN v ∧ t.helm.cur = s.helm.cur) ∧
  (∀ (a : Access) (m : Nat) (v : Word) (s : State),
    m < 5 → Allowed a true .HELM_MB_CTRL m s → s.b F.HELM_MB_STATUS_BUSY m = false →
    s.b F.HELM_MB_STATUS_DONE m = false → s.helm.cur = none → s.helm.holding = false → helmReady s = true →
    nextMb s = none → (helmCmd m s).isLocal s = true → opKnown (helmCmd m s).opcode = true →
    Gives (.helmDoorbell a m v) s fun t =>
      t.b F.HELM_MB_STATUS_BUSY m = true ∧ t.b F.HELM_MB_STATUS_PENDING m = false ∧ t.helm.cur = some m ∧
      t.f F.HELM_STATUS_LAST_MB 0 = m) ∧
  (∀ (a : Access) (m : Nat) (v : Word) (s : State),
    m < 5 → Allowed a true .HELM_MB_CTRL m s → (s.b F.HELM_MB_STATUS_BUSY m || s.b F.HELM_MB_STATUS_DONE m) = true →
    Gives (.helmDoorbell a m v) s fun t => t.helm = s.helm ∧ t.r .HELM_MB_STATUS m = s.r .HELM_MB_STATUS m) ∧
  (∀ (m : Nat) (s : State),
    HelmAt m 1 s →
    Gives (.helmGetStatus) s fun t =>
      Answers m 65 (catBytes [(8, (s.r .HELM_STATUS 0).toNat), (8, (s.r .HELM_COUNTER 0).toNat), (1,
        s.helm.startCfg.getD 0), (48, s.helm.image)]) t) ∧
  (∀ (m : Nat) (s : State),
    s.helm.cur = some m → (helmCmd m s).opcode = 1 → s.helm.holding = false → formatOk m (helmCmd m s) s = false →
    nextMb s = none → m < 3 →
    Gives (.helmGetStatus) s fun t => Answered m 1 16 t ∧ t.helm.cur = none) ∧
  (∀ (s : State),
    s.helm.cur = none →
    Gives (.helmGetStatus) s fun t => t = s) ∧
  (∀ (m : Nat) (s : State),
    HelmAt m 2 s →
    Gives (.helmGetDeviceId) s fun t =>
      Answers m 16 (catBytes [(8, (s.r .HELM_DEVICE_ID 0).toNat), (8, (s.r .FAB_PKG_ID 0).toNat)]) t) ∧
  (∀ (m : Nat) (s : State),
    HelmAt m 3 s →
    Gives (.helmGetAttest) s fun t =>
      Answered m 0 281 t ∧ t.helm.cur = none ∧ nslice (rspAll m t) 16 48 = (helmCmd m s).payN 0 48 ∧
      nslice (rspAll m t) 64 8 = Config.deviceId.toNat) ∧
  (∀ (m i : Nat) (s : State),
    HelmAt m 4 s →
    Gives (.helmGetRepairs i) s fun t =>
      Answers m (32 * ((s.repairs.drop i).take 32).length) (repairsBytes i ((s.repairs.drop i).take 32) % 256 ^ (32 *
        ((s.repairs.drop i).take 32).length)) t) ∧
  (∀ (m : Nat) (s : State),
    HelmAt m 0x301 s → s.b F.HELM_STATUS_PROV 0 = false → s.b F.HELM_STATUS_APPROVED 0 = false →
    Gives (.provision false) s fun t =>
      Answers m 0 0 t ∧ t.b F.HELM_STATUS_PROV 0 = true ∧ t.helm.cmdKey = (helmCmd m s).payN 0 48 ∧
      t.helm.image = (helmCmd m s).payN 48 48) ∧
  (∀ (m : Nat) (f : Bool) (s : State),
    HelmAt m 0x301 s → s.b F.HELM_STATUS_PROV 0 = true →
    Gives (.provision f) s fun t => Answered m 6 16 t ∧ t.helm.cmdKey = s.helm.cmdKey) ∧
  (∀ (s : State),
    s.helm.up = true → helmReady s = false → nextMb s = none →
    Gives (.helmSelfTest true) s fun t =>
      t.b F.HELM_STATUS_SELFTEST 0 = true ∧ t.b F.HELM_STATUS_APPROVED 0 = s.helm.mode) ∧
  (∀ (s : State),
    s.helm.up = true → helmReady s = false → nextMb s = none → starting s = false →
    Gives (.helmSelfTest false) s fun t =>
      t.b F.HELM_STATUS_ERRSTATE 0 = true ∧ t.b F.HELM_STATUS_APPROVED 0 = false ∧ t.helm.slots = []) ∧
  (∀ (s : State),
    helmReady s = true → s.b F.HELM_STATUS_ERRSTATE 0 = false → nextMb s = none →
    Gives (.helmTestFailure) s fun t =>
      t.b F.HELM_STATUS_ERRSTATE 0 = true ∧ t.b F.HELM_STATUS_APPROVED 0 = false ∧ t.helm.slots = [] ∧
      t.intake.length = s.intake.length + 1) ∧
  (∀ (n : Nat) (c : PlCell) (s : State),
    smapGet (fun _ => []) s.plIn n = [c] → c.ty = 5 → s.b F.HELM_MB_STATUS_BUSY 3 = false →
    s.b F.HELM_MB_STATUS_DONE 3 = false → c.addr % 256 = 0 → c.addr < 4096 → s.helm.rx = [] →
    cellsDone [(0, c.len, c.data)] false false = false →
    Gives (.hcmd n) s fun t =>
      t.helm.rx = [⟨c.src, c.addr / 256 % 16, n, [(0, c.len, c.data)]⟩] ∧ smapGet (fun _ => []) t.plIn n = []) ∧
  (∀ (n : Nat) (c : PlCell) (s : State),
    smapGet (fun _ => []) s.plIn n = [c] → c.ty = 5 → s.b F.HELM_MB_STATUS_BUSY 3 = false →
    s.b F.HELM_MB_STATUS_DONE 3 = false → c.addr % 256 = 0 → c.len = 64 → s.helm.rx = [] →
    cellsDone [(0, c.len, c.data)] false false = true → s.helm.cur ≠ none →
    Gives (.hcmd n) s fun t =>
      t.b F.HELM_MB_STATUS_BUSY 3 = true ∧ t.b F.HELM_MB_STATUS_PENDING 3 = true ∧
      reqAll 3 t % 256 ^ 64 = c.data.toNat ∧ t.helm.serving.map (fun r => (r.src, r.port)) = some (c.src, n)) ∧
  (∀ (n : Nat) (c : PlCell) (f : HelmFwd) (s : State),
    smapGet (fun _ => []) s.plIn n = [c] → c.ty = 6 → c.addr = f.mb * 256 → f.mb < 3 → c.len = 64 → s.helm.fwd = [f] →
    f.node = c.src → f.got = [] → (helmCmd f.mb s).keyslot = 0 → cellsDone [(0, c.len, c.data)] true false = true →
    Gives (.hrsp n) s fun t =>
      t.helm.fwd = [] ∧ t.b F.HELM_MB_STATUS_BUSY f.mb = false ∧ t.b F.HELM_MB_STATUS_DONE f.mb = true ∧
      t.f F.HELM_MB_STATUS_RSP_LEN f.mb = 64 ∧ rspAll f.mb t % 256 ^ 64 = c.data.toNat) ∧
  (∀ (m : Nat) (f : HelmFwd) (s : State),
    m < 3 → s.helm.fwd = [f] → f.mb = m → tbSecond ≤ (s.tb - f.t0).toNat →
    Gives (.forwardTimeout m) s fun t => Answered m 0x0B 16 t ∧ t.helm.fwd = []) ∧
  (∀ (m : Nat) (f : HelmFwd) (s : State),
    s.helm.fwd.find? (fun y => y.mb == m) = some f → (s.tb - f.t0).toNat < tbSecond →
    Gives (.forwardTimeout m) s fun t => t = s)

/-- RANDOM, SHA384, HMAC, AES_GCM, ECDSA_VERIFY and the key commands answer with the functions of R410 applied to what
DRAM holds and to the key of the slot; a slot without such a key answers KEY. (R395, R406, R410, R412.) -/
def Obligations.HelmServices : Prop :=
  (∀ (m n : Nat) (s : State),
    HelmAt m 0x101 s → 1 ≤ n → n ≤ 1024 →
    Gives (.helmRandom n) s fun t => Answers m n (Config.drbg s.fresh n % 256 ^ n) t) ∧
  (∀ (m n : Nat) (s : State),
    HelmAt m 0x101 s → 1024 < n →
    Gives (.helmRandom n) s fun t => Answered m 6 16 t) ∧
  (∀ (src len : Nat) (s : State),
    agentWaits src len s = true →
    Gives (.helmSha384 src len) s fun t => t = s) ∧
  (∀ (m src len v : Nat) (s : State),
    HelmAt m 0x102 s → agentWaits src len s = false → len ≤ 2 ^ 24 → (helmRead src len s).1 = some v →
    Gives (.helmSha384 src len) s fun t => Answers m 48 (Config.sha384 len v % 256 ^ 48) t) ∧
  (∀ (m k src len v key : Nat) (p : Bool) (s : State),
    HelmAt m 0x103 s → agentWaits src len s = false → workKey k s = some ⟨true, p, key⟩ →
    (helmRead src len s).1 = some v →
    Gives (.helmHmac k src len) s fun t => Answers m 48 (Config.hmac384 key len v % 256 ^ 48) t) ∧
  (∀ (m k src len : Nat) (s : State),
    HelmAt m 0x103 s → agentWaits src len s = false → workKey k s = none →
    Gives (.helmHmac k src len) s fun t => Answered m 7 16 t) ∧
  (∀ (m k src dst len iv v key : Nat) (p : Bool) (s : State),
    HelmAt m 0x104 s → agentWaits src len s = false → agentWaits dst (len + 16) s = false →
    workKey k s = some ⟨false, p, key⟩ → iv ≠ 0 → (helmRead src len s.bump).1 = some v →
    (agentWrite (agentFuel (len + 16)) dst (len + 16) (catBytes [(len, (Config.gcmEnc key iv 0 0 len v % 256 ^ len)),
      (16, Config.gcmTag key iv 0 0 len (Config.gcmEnc key iv 0 0 len v % 256 ^ len))]) (helmRead src len s.bump).2).1
      = true →
    dst % 64 + (len + 16) ≤ 64 → codeOf dst s = 0 →
    Gives (.helmGcmEnc k src dst len iv 0 0) s fun t =>
      Answers m 0 0 t ∧
      (wrFind dst t).map (fun e => lineBytes e.data (dst % 64) (len + 16)) = some (catBytes [(len, (Config.gcmEnc key
        iv 0 0 len v % 256 ^ len)), (16, Config.gcmTag key iv 0 0 len (Config.gcmEnc key iv 0 0 len v % 256 ^ len))])) ∧
  (∀ (m k src dst len iv v key : Nat) (p : Bool) (s : State),
    HelmAt m 0x105 s → agentWaits src (len + 16) s = false → agentWaits dst len s = false →
    workKey k s = some ⟨false, p, key⟩ → len < 2 ^ 24 → (helmRead src (len + 16) s).1 = some v → dst % 64 + len ≤ 64 →
    1 ≤ len → inDram dst s = true → isRetired dst (helmRead src (len + 16) s).2 = false → codeOf dst s = 0 →
    Gives (.helmGcmDec k src dst len iv 0 0) s fun t =>
      (Config.gcmTag key iv 0 0 len (v % 256 ^ len) % 256 ^ 16 = v / 256 ^ len → Answers m 0 0 t ∧ (wrFind dst t).map
        (fun e => lineBytes e.data (dst % 64) len) = some (Config.gcmDec key iv 0 0 len (v % 256 ^ len) % 256 ^ len))
        ∧
      (Config.gcmTag key iv 0 0 len (v % 256 ^ len) % 256 ^ 16 ≠ v / 256 ^ len → Answered m 0x0A 16 t)) ∧
  (∀ (m x y z : Nat) (s : State),
    HelmAt m 0x106 s →
    Gives (.helmEcdsaVerify x y z) s fun t => Answers m 1 (if Config.ecdsaVerify x y z then 1 else 0) t) ∧
  (∀ (m k : Nat) (h : Bool) (s : State),
    HelmAt m 0x107 s → 4 ≤ k → k < 32 →
    Gives (.helmKeyGen k h) s fun t =>
      Answers m 0 0 t ∧ workKey k t = some ⟨h, false, Config.drbg s.fresh (if h then 48 else 32)⟩) ∧
  (∀ (m k : Nat) (h : Bool) (s : State),
    HelmAt m 0x107 s → k < 4 →
    Gives (.helmKeyGen k h) s fun t => Answered m 7 16 t ∧ t.helm.slots = s.helm.slots) ∧
  (∀ (m k dst : Nat) (s : State),
    HelmAt m 0x108 s → agentWaits dst 76 s = false → workKey k s = none →
    Gives (.helmKeyWrap k dst) s fun t => Answered m 7 16 t ∧ t.wrq = s.wrq) ∧
  (∀ (m k dst : Nat) (x : HelmKey) (s : State),
    HelmAt m 0x108 s → agentWaits dst 76 s = false → workKey k s = some x → dst % 64 = 0 →
    inDram (dst + 76) s = true → codeOf dst s = 0 → codeOf (dst + 64) s = 0 → isRetired dst s = false →
    isRetired (dst + 64) s = false →
    Gives (.helmKeyWrap k dst) s fun t =>
      Answers m 0 0 t ∧
      (wrFind dst t).map (fun e => lineBytes e.data 0 64) = some ((catBytes [(12, Config.drbg s.fresh 12), (48,
        Config.gcmEnc (Config.kdf Config.rootKey 1) (Config.drbg s.fresh 12) 0 0 48 x.key), (16, Config.gcmTag
        (Config.kdf Config.rootKey 1) (Config.drbg s.fresh 12) 0 0 48 (Config.gcmEnc (Config.kdf Config.rootKey 1)
        (Config.drbg s.fresh 12) 0 0 48 x.key % 256 ^ 48))]) % 256 ^ 64) ∧
      (wrFind (dst + 64) t).map (fun e => lineBytes e.data 0 12) = some ((catBytes [(12, Config.drbg s.fresh 12), (48,
        Config.gcmEnc (Config.kdf Config.rootKey 1) (Config.drbg s.fresh 12) 0 0 48 x.key), (16, Config.gcmTag
        (Config.kdf Config.rootKey 1) (Config.drbg s.fresh 12) 0 0 48 (Config.gcmEnc (Config.kdf Config.rootKey 1)
        (Config.drbg s.fresh 12) 0 0 48 x.key % 256 ^ 48))]) / 256 ^ 64 % 256 ^ 12)) ∧
  (∀ (m k blob : Nat) (h : Bool) (s : State),
    HelmAt m 0x109 s → 4 ≤ k → k < 32 →
    Gives (.helmKeyLoad k blob h) s fun t =>
      (Config.gcmTag (Config.kdf Config.rootKey 1) (nslice blob 0 12) 0 0 48 (nslice blob 12 48) % 256 ^ 16 = nslice
        blob 60 16 → Answers m 0 0 t ∧ workKey k t = some
        ⟨h, false, Config.gcmDec (Config.kdf Config.rootKey 1) (nslice blob 0 12) 0 0 48 (nslice blob 12 48)⟩) ∧
      (Config.gcmTag (Config.kdf Config.rootKey 1) (nslice blob 0 12) 0 0 48 (nslice blob 12 48) % 256 ^ 16 ≠ nslice
        blob 60 16 → Answered m 0x0A 16 t ∧ t.helm.slots = s.helm.slots)) ∧
  (∀ (m k key : Nat) (h : Bool) (s : State),
    HelmAt m 0x10A s → 4 ≤ k → k < 32 →
    Gives (.helmKeyLoadPlain k key h) s fun t =>
      Answers m 0 0 t ∧ workKey k t = some ⟨h, true, key % 256 ^ (if h then 48 else 32)⟩ ∧
      t.b F.HELM_STATUS_APPROVED 0 = false ∧ t.helm.mode = false) ∧
  (∀ (m k : Nat) (x : HelmKey) (s : State),
    HelmAt m 0x10B s → workKey k s = some x →
    Gives (.helmKeyErase k) s fun t => Answers m 0 0 t ∧ workKey k t = none)

/-- A critical command whose tag verifies, with a new counter and its preconditions, stores the counter and has its
effect, answered with a TAG; one whose tag fails answers AUTH, counts it and changes nothing; the end of a lockout hold
lets the check proceed. Whether a tag verifies is open to the model, so each statement covers both cases. (R401, R403,
R404, R405, R408, R412, R563, R564.) -/
def Obligations.HelmCriticalCommands : Prop :=
  (∀ (m : Nat) (s : State),
    CritAt m 0x201 s → critOk (helmCmd m s) s = true → (helmCmd m s).pay 0 < 16 → (helmCmd m s).pay 1 < 16 →
    Gives (.helmDbgSet false) s fun t =>
      (tagGood m s = true → Answered m 0 40 t ∧ Committed m s t ∧ bits (t.r .WC_DBG 0) 3 0 = (bits (s.r .WC_DBG 0) 3 0
        ||| (helmCmd m s).pay 0) &&& (15 - (helmCmd m s).pay 1)) ∧
      BadTag m s t) ∧
  (∀ (m : Nat) (s : State),
    CritAt m 0x202 s → critOk (helmCmd m s) s = true →
    Gives (.coreRetire false) s fun t =>
      (tagGood m s = true → Answered m 0 40 t ∧ Committed m s t ∧ t.repairs = s.repairs ++
        [⟨1, (helmCmd m s).counter % 2 ^ 32, (helmCmd m s).pay 0 + (helmCmd m s).pay 1 * 2 ^ 8 + (helmCmd m s).pay 2 * 2 ^ 16⟩]
        ∧ t.fbit F.RAS_REPAIR_PENDING 0 ((helmCmd m s).pay 0) = true) ∧
      BadTag m s t) ∧
  (∀ (m : Nat) (s : State),
    CritAt m 0x203 s → critOk (helmCmd m s) s = true →
    Gives (.laneCommit false) s fun t =>
      (tagGood m s = true → Answered m 0 40 t ∧ Committed m s t ∧ t.repairs = s.repairs ++
        [⟨if (helmCmd m s).pay 2 % 2 = 1 then 3 else 2, (helmCmd m s).counter % 2 ^ 32, laneBody (helmCmd m s)⟩]) ∧
      BadTag m s t) ∧
  (∀ (m : Nat) (s : State),
    CritAt m 0x204 s →
    Gives (.rowCommit false) s fun t =>
      (tagGood m s = true → Committed m s t ∧ Answered m (if critOk (helmCmd m s) s then 0 else 6) 40 t ∧ t.repairs =
        if critOk (helmCmd m s) s then s.repairs ++ [⟨4, (helmCmd m s).counter % 2 ^ 32, (helmCmd m s).payN 0 8⟩] else
        s.repairs) ∧
      BadTag m s t) ∧
  (∀ (m : Nat) (s : State),
    CritAt m 0x205 s → critOk (helmCmd m s) s = true →
    Gives (.startCfg false) s fun t =>
      (tagGood m s = true → Answered m 0 40 t ∧ Committed m s t ∧ t.helm.startCfg = some ((helmCmd m s).pay 0)) ∧
      BadTag m s t) ∧
  (∀ (m : Nat) (s : State),
    CritAt m 0x206 s → critOk (helmCmd m s) s = true → starting s = false →
    Gives (.chimneyExit false) s fun t =>
      (tagGood m s = true → t.mem = [] ∧ t.harts = [] ∧ t.b F.ST_STATUS_CHIMNEY 0 = (decide (s.helm.startCfg.getD 3 %
        8 = 0) || !s.b F.HELM_STATUS_PROV 0) ∧ t.r .HELM_COUNTER 0 = BitVec.ofNat 64 (helmCmd m s).counter) ∧
      BadTag m s t) ∧
  (∀ (m : Nat) (s : State),
    CritAt m 0x207 s → starting s = false →
    Gives (.pkgResetCmd false) s fun t =>
      (tagGood m s = true → t.mem = [] ∧ t.harts = [] ∧ t.r .HELM_COUNTER 0 = BitVec.ofNat 64 (helmCmd m s).counter) ∧
      BadTag m s t) ∧
  (∀ (m : Nat) (s : State),
    CritAt m 0x208 s →
    Gives (.imageKeySet false) s fun t =>
      (tagGood m s = true → Answered m 0 40 t ∧ Committed m s t ∧ t.helm.image = (helmCmd m s).payN 0 48) ∧
      BadTag m s t) ∧
  (∀ (m : Nat) (s : State),
    CritAt m 0x209 s →
    Gives (.keyRotate false) s fun t =>
      (tagGood m s = true → Committed m s t ∧ Answered m (if critOk (helmCmd m s) s then 0 else 6) 40 t ∧
        t.helm.cmdKey = if critOk (helmCmd m s) s then Config.gcmDec (Config.kdf s.helm.cmdKey 0) ((helmCmd m s).payN
        0 12) 0 0 48 ((helmCmd m s).payN 12 48) else s.helm.cmdKey) ∧
      BadTag m s t) ∧
  (∀ (m : Nat) (s : State),
    CritAt m 0x20A s → critOk (helmCmd m s) s = true → (helmCmd m s).pay 0 = 1 →
    Gives (.modeSet false) s fun t =>
      (tagGood m s = true → Answered m 0 40 t ∧ Committed m s t ∧ t.b F.HELM_STATUS_APPROVED 0 = true ∧ t.helm.mode =
        true) ∧
      BadTag m s t) ∧
  (∀ (m : Nat) (s : State),
    CritAt m 0x20A s → (helmCmd m s).pay 0 = 0 →
    Gives (.modeSet false) s fun t =>
      (tagGood m s = true → Answered m 0 40 t ∧ Committed m s t ∧ t.b F.HELM_STATUS_APPROVED 0 = false ∧ t.helm.mode =
        false) ∧
      BadTag m s t) ∧
  (∀ (m : Nat) (s : State),
    CritAt m 0x20A s → critOk (helmCmd m s) s = false →
    Gives (.modeSet false) s fun t =>
      (tagGood m s = true → Answered m 6 40 t ∧ Committed m s t ∧ t.b F.HELM_STATUS_APPROVED 0 = s.b
        F.HELM_STATUS_APPROVED 0) ∧
      BadTag m s t) ∧
  (∀ (m : Nat) (s : State),
    CritAt m 0x20B s →
    Gives (.zeroize false) s fun t =>
      (tagGood m s = true → Answered m 0 40 t ∧ Committed m s t ∧ t.b F.HELM_STATUS_PROV 0 = false ∧ t.b
        F.HELM_STATUS_APPROVED 0 = false ∧ t.helm.cmdKey = 0 ∧ t.helm.image = 0 ∧ t.helm.slots = []) ∧
      BadTag m s t) ∧
  (∀ (m : Nat) (s : State),
    CritAt m 0x205 s →
    Gives (.startCfg true) s fun t =>
      (tagGood m s = true → Answered m 8 40 t ∧ t.helm.startCfg = s.helm.startCfg ∧ t.r .HELM_COUNTER 0 = s.r
        .HELM_COUNTER 0 ∧ t.intake.length = s.intake.length + 1) ∧
      BadTag m s t) ∧
  (∀ (m : Nat) (f : Bool) (s : State),
    HelmAt m 0x205 s → s.b F.HELM_STATUS_PROV 0 = true → s.helm.locked.contains m = false →
    s.f F.HELM_STATUS_AUTH_FAIL 0 < 16 → (helmCmd m s).counter ≤ (s.r .HELM_COUNTER 0).toNat →
    Gives (.startCfg f) s fun t =>
      (tagGood m s = true → Answered m 5 40 t ∧ t.helm.startCfg = s.helm.startCfg) ∧ BadTag m s t) ∧
  (∀ (m : Nat) (f : Bool) (s : State),
    s.helm.cur = some m → 100000 * tbMicro ≤ (s.tb - s.helm.holdAt).toNat → m < 3 → s.helm.holding = true →
    nextMb s = none → (helmCmd m s).counter ≤ (s.r .HELM_COUNTER 0).toNat →
    Gives (.lockoutHoldEnd f) s fun t =>
      t.helm.holding = false ∧ t.helm.cur = none ∧ (tagGood m s = true → Answered m 5 40 t) ∧ BadTag m s t) ∧
  (∀ (m : Nat) (f : Bool) (s : State),
    HelmAt m 0x205 s → s.b F.HELM_STATUS_PROV 0 = true → s.helm.locked.contains m = false →
    16 ≤ s.f F.HELM_STATUS_AUTH_FAIL 0 → s.helm.held = false →
    Gives (.startCfg f) s fun t =>
      t.helm.holding = true ∧ t.helm.holdAt = s.tb ∧ t.regs = s.regs ∧ t.repairs = s.repairs)

/-- A hart that has drained is reassigned at once, loses its state and timed stores and, unless its die is OFF or BIST
keeps its core, starts; any other one restarts when it has drained; a partition reset is refused with its reason, or
blocks the devices and ends the channels of the partition, and its end returns what R432 says; a legal binding is taken;
an IOMMU command moves the head of its queue; an interrupt message makes its identity pending, is refused, or is lost;
an APLIC source becomes pending or sends its message. (R420, R424, R432, R436, R437, R439, R441, R442, R447.) -/
def Obligations.PartitionsAndInterrupts : Prop :=
  (∀ (a : Access) (h : Nat) (v : Word) (s : State),
    h < 256 → Allowed a true .PQ_HART h s → a.part = 0 → a.world = true → hartExists h s = true →
    partBusy (fget F.PQ_HART_PART v) s = false → s.b F.PQ_HART_RESTARTING h = false → hartDrained h s = true →
    s.f F.PWR_DIE_STATE (hartDie h s) = 0 →
    Gives (.hartReassign a h v) s fun t =>
      t.b F.PQ_HART_RESTARTING h = false ∧ t.f F.PQ_HART_PART h = fget F.PQ_HART_PART v ∧
      ((t.tsQ h).all fun e => decide (2 ≤ e.stage)) = true ∧ (t.hart h).st = ({} : Hart).st ∧
      (t.hart h).imsic = (s.hart h).imsic.filter fun x => !(decide (1 ≤ x.1) && decide (x.1 ≤ 7))) ∧
  (∀ (a : Access) (h : Nat) (v : Word) (s : State),
    h < 256 → Allowed a true .PQ_HART h s → a.part = 0 → a.world = true → hartExists h s = true →
    partBusy (fget F.PQ_HART_PART v) s = false → s.b F.PQ_HART_RESTARTING h = false → hartDrained h s = false →
    Gives (.hartReassign a h v) s fun t =>
      t.b F.PQ_HART_RESTARTING h = true ∧ t.f F.PQ_HART_PART h = s.f F.PQ_HART_PART h ∧ t.harts = s.harts ∧
      smapGet (fun _ => none) t.hartNew h = some (fget F.PQ_HART_PART v)) ∧
  (∀ (a : Access) (h : Nat) (v : Word) (s : State),
    h < 256 → Allowed a true .PQ_HART h s → a.part = 0 → a.world = true → hartExists h s = true →
    partBusy (fget F.PQ_HART_PART v) s = false → s.b F.PQ_HART_RESTARTING h = false → hartDrained h s = true →
    s.f F.PWR_DIE_STATE (hartDie h s) ≠ 0 → s.boot.kept.contains (coreOf h s) = false → s.dbg.resetHalt = 0 →
    Gives (.hartReassign a h v) s fun t =>
      t.b F.PQ_HART_RESTARTING h = false ∧ t.f F.PQ_HART_PART h = fget F.PQ_HART_PART v ∧
      ((t.tsQ h).all fun e => decide (2 ≤ e.stage)) = true ∧ (t.hart h).st = .run ∧ (t.hart h).pc = s.r .ST_VECTOR 0 ∧
      (t.hart h).imsic = (s.hart h).imsic.filter fun x => !(decide (1 ≤ x.1) && decide (x.1 ≤ 7))) ∧
  (∀ (a : Access) (h : Nat) (v : Word) (s : State),
    h < 256 → Allowed a true .PQ_HART h s → hartExists h s = false →
    Gives (.hartReassign a h v) s fun t =>
      t.b F.PQ_STATUS_CFGERR 0 = true ∧ t.f F.PQ_HART_PART h = s.f F.PQ_HART_PART h) ∧
  (∀ (a : Access) (p : Nat) (s : State),
    p < 64 → Allowed a true .PQ_RESET p s → partRefusal a p s = 0 →
    Gives (.partitionReset a p) s fun t =>
      t.b F.PQ_RESET_STATUS_BUSY p = true ∧ t.b F.PQ_RESET_STATUS_DONE p = false ∧
      ((List.range 32).all fun e => s.f F.PQ_DEVPART_PART e != p || t.b F.PQ_DEVPART_BLOCKED e) = true ∧
      (smapGet (fun _ => none) t.partRun p).isSome = true) ∧
  (∀ (a : Access) (p : Nat) (s : State),
    p < 64 → Allowed a true .PQ_RESET p s → partRefusal a p s ≠ 0 →
    Gives (.partitionReset a p) s fun t =>
      t.f F.PQ_RESET_STATUS_REFUSED p = partRefusal a p s ∧
      t.b F.PQ_RESET_STATUS_BUSY p = s.b F.PQ_RESET_STATUS_BUSY p ∧ t.dma = s.dma) ∧
  (∀ (p : Nat) (x : PartRun) (s : State),
    smapGet (fun _ => none) s.partRun p = some x → partEnded p s = true →
    Gives (.partitionResetDone p) s fun t =>
      t.b F.PQ_RESET_STATUS_BUSY p = false ∧ t.b F.PQ_RESET_STATUS_DONE p = true ∧
      t.f F.PQ_RESET_STATUS_CH_ABORTED p = min 255 x.chans ∧ t.f F.PQ_RESET_STATUS_HARTS p = min 255 x.harts ∧
      smapGet (fun _ => none) t.partRun p = none ∧
      ((List.range 12).all fun d => t.f F.PQ_L3MASK_VAL (p * 12 + d) == 0) = true) ∧
  (∀ (p : Nat) (s : State),
    smapGet (fun _ => none) s.partRun p = none →
    Gives (.partitionResetDone p) s fun t => t = s) ∧
  (∀ (a : Access) (p : Nat) (v : Word) (s : State),
    p < 64 → Allowed a true .PQ_VF p s → a.world = true → vset F.PQ_VF_EN v = true →
    peMode (fget F.PQ_VF_PORT v) s = true → 1 ≤ fget F.PQ_VF_VF v → fget F.PQ_VF_VF v ≤ 32 →
    ((List.range 64).any fun q => s.b F.PQ_VF_EN q && s.f F.PQ_VF_PORT q == fget F.PQ_VF_PORT v && s.f F.PQ_VF_VF q ==
      fget F.PQ_VF_VF v) = false →
    s.b F.PQ_VF_EN p = false → (s.peC (fnIx (fget F.PQ_VF_PORT v) 0)).vfEn = false →
    peBme (fget F.PQ_VF_PORT v) (fget F.PQ_VF_VF v) s = false → partBusy p s = false →
    Gives (.vfBind a p v) s fun t => t.r .PQ_VF p = Reg.write .PQ_VF false (s.r .PQ_VF p) v) ∧
  (∀ (a : Access) (p : Nat) (v : Word) (s : State),
    p < 64 → Allowed a true .PQ_VF p s → vset F.PQ_VF_EN v = true → peMode (fget F.PQ_VF_PORT v) s = false →
    Gives (.vfBind a p v) s fun t => t.b F.PQ_STATUS_CFGERR 0 = true ∧ t.r .PQ_VF p = s.r .PQ_VF p) ∧
  (∀ (v : Nat) (s : State),
    s.iommuFlt = [] → agentWaits (queueBase 0x18 s + iommuGet 0x20 s * 16) 16 s = false →
    (iommuGet 0x48 s).testBit 16 = true → (iommuGet 0x48 s).testBit 8 = false → (iommuGet 0x48 s).testBit 9 = false →
    (iommuGet 0x48 s).testBit 10 = false → iommuGet 0x20 s ≠ iommuGet 0x24 s →
    (agentRead 3 (queueBase 0x18 s + iommuGet 0x20 s * 16) 16 s).1 = some v → v % 128 = 1 → v / 128 % 8 = 0 →
    Gives (.iommuCommand) s fun t =>
      iommuGet 0x20 t = (iommuGet 0x20 s + 1) % queueSize 0x18 s ∧ iommuGet 0x48 t = iommuGet 0x48 s) ∧
  (∀ (v : Nat) (s : State),
    s.iommuFlt = [] → agentWaits (queueBase 0x18 s + iommuGet 0x20 s * 16) 16 s = false →
    (iommuGet 0x48 s).testBit 16 = true → (iommuGet 0x48 s).testBit 8 = false → (iommuGet 0x48 s).testBit 9 = false →
    (iommuGet 0x48 s).testBit 10 = false → iommuGet 0x20 s ≠ iommuGet 0x24 s →
    (agentRead 3 (queueBase 0x18 s + iommuGet 0x20 s * 16) 16 s).1 = some v → 5 ≤ v % 128 →
    (iommuGet 0x48 s).testBit 1 = false → iommuGet 0x48 s < 2 ^ 32 →
    Gives (.iommuCommand) s fun t => iommuGet 0x20 t = iommuGet 0x20 s ∧ (iommuGet 0x48 t).testBit 10 = true) ∧
  (∀ (s : State),
    s.iommuFlt = [] → (iommuGet 0x48 s).testBit 16 = false →
    Gives (.iommuCommand) s fun t => t = s) ∧
  (∀ (h f e p a : Nat) (w : Bool) (s : State),
    s.out.contains (.imsic h f e w p a) = true → hartExists h s = true → dieOn (hartDie h s) s = true →
    fileDeny ⟨w, p, a⟩ h f s = none → 1 ≤ e → e ≤ 2047 →
    Gives (.imsicMessage h f e w p a) s fun t =>
      ((t.hart h).file f).eip.testBit e = true ∧ t.out = s.out.erase (.imsic h f e w p a)) ∧
  (∀ (h f e p a : Nat) (w : Bool) (s : State),
    s.out.contains (.imsic h f e w p a) = true → hartExists h s = true → dieOn (hartDie h s) s = true →
    fileDeny ⟨w, p, a⟩ h f s = some true →
    Gives (.imsicMessage h f e w p a) s fun t => t.b F.WC_STATUS_DENY 0 = true ∧ t.harts = s.harts) ∧
  (∀ (h f e p a : Nat) (w : Bool) (s : State),
    s.out.contains (.imsic h f e w p a) = true → hartExists h s = true → dieOn (hartDie h s) s = false → a < 1024 →
    h < 256 → f < 16 →
    Gives (.imsicMessage h f e w p a) s fun t =>
      t.b F.INT_STATUS_ERR 0 = true ∧ t.f F.INT_STATUS_LAST_HART 0 = h ∧ t.f F.INT_STATUS_LAST_FILE 0 = f ∧
      t.harts = s.harts) ∧
  (∀ (h f e p a : Nat) (w : Bool) (s : State),
    s.out.contains (.imsic h f e w p a) = true → hartExists h s = true → dieOn (hartDie h s) s = false → 1024 ≤ a →
    Gives (.imsicMessage h f e w p a) s fun t =>
      aplicBit (srcDomain (a - 1024) s) 0x1C00 (a - 1024) t = true ∧ t.regs = s.regs) ∧
  (∀ (h f e p a : Nat) (w : Bool) (s : State),
    s.out.contains (.imsic h f e w p a) = false →
    Gives (.imsicMessage h f e w p a) s fun t => t = s) ∧
  (∀ (n : Nat) (s : State),
    n ≠ 0 → srcUsed n = true → srcMode n s = 4 → s.pulses.contains n = true →
    (aplicGet (srcDomain n s) 0 s).testBit 8 = false →
    Gives (.wiredSourceChange n) s fun t => aplicBit (srcDomain n s) 0x1C00 n t = true ∧ t.out = s.out) ∧
  (∀ (n : Nat) (s : State),
    n ≠ 0 → srcUsed n = true → srcMode n s = 4 → s.pulses.contains n = true →
    (aplicGet (srcDomain n s) 0 s).testBit 8 = true → aplicBit (srcDomain n s) 0x1E00 n s = true →
    (srcDomain n s) ≤ 1 →
    Gives (.wiredSourceChange n) s fun t =>
      aplicBit (srcDomain n s) 0x1C00 n t = false ∧
      t.out = s.out ++ [(.imsic (aplicGet (srcDomain n s) (0x3000 + 4 * n) s / 2 ^ 18) (if (srcDomain n s) = 0 then 9
        else 8) (aplicGet (srcDomain n s) (0x3000 + 4 * n) s % 2048) (decide ((srcDomain n s) = 0)) 0 (aplicAgent
        n))]) ∧
  (∀ (n : Nat) (s : State),
    srcUsed n = false →
    Gives (.wiredSourceChange n) s fun t => t = s) ∧
  (∀ (d n : Nat) (s : State),
    dieOn d s = true → n < 993 → srcMode n s ≠ 0 → (aplicGet (srcDomain n s) 0 s).testBit 8 = true →
    aplicBit (srcDomain n s) 0x1C00 n s = true → aplicBit (srcDomain n s) 0x1E00 n s = true → (srcDomain n s) ≤ 1 →
    Gives (.aplicResend d) s fun t =>
      aplicBit (srcDomain n s) 0x1C00 n t = false ∧
      t.out.contains (.imsic (aplicGet (srcDomain n s) (0x3000 + 4 * n) s / 2 ^ 18) (if (srcDomain n s) = 0 then 9
        else 8) (aplicGet (srcDomain n s) (0x3000 + 4 * n) s % 2048) (decide ((srcDomain n s) = 0)) 0 (aplicAgent n))
        = true) ∧
  (∀ (d : Nat) (s : State),
    dieOn d s = false →
    Gives (.aplicResend d) s fun t => t = s)

/-- A write of 8 aligned bytes to a register that no other effect belongs to changes its fields by their access codes
and nothing else; one that the checks refuse is recorded and answered with RESP = 0b01; another size or alignment, and
an address that nothing answers, gives RESP = 0b10 and changes nothing; RdIO and WrIO perform the same access for their
sender and answer it; an APLIC register is written by 4 bytes. (R11, R15, R16, R33, R34, R35, R269, R270, R375, R377,
R421, R440.) -/
def Obligations.RegisterAccesses : Prop :=
  (∀ (a : Access) (addr i : Nat) (g : Reg) (v : Word) (s : State),
    g ∉ effectRegs → regFind addr = some (g, i) → PlainAddr addr → addr % 8 = 0 →
    (regDie addr).all (dieOn · s) = true → regStopped g i s = false → regVerdict a true g i s = .ok →
    Gives (.registerWrite a addr 8 v) s fun t =>
      t = (s.answer 0).setR g i (Reg.write g (lockedReg g i s) (s.r g i) v)) ∧
  (∀ (a : Access) (addr i : Nat) (g : Reg) (v : Word) (s : State),
    regFind addr = some (g, i) → PlainAddr addr → addr % 8 = 0 → (regDie addr).all (dieOn · s) = true →
    regStopped g i s = false → regVerdict a true g i s = .world →
    Gives (.registerWrite a addr 8 v) s fun t => t = (denyWorld .mmio .write a (g.addr i) s).answerErr 0b01#2) ∧
  (∀ (a : Access) (addr i : Nat) (g : Reg) (v : Word) (s : State),
    regFind addr = some (g, i) → PlainAddr addr → addr % 8 = 0 → (regDie addr).all (dieOn · s) = true →
    regStopped g i s = false → regVerdict a true g i s = .part →
    Gives (.registerWrite a addr 8 v) s fun t => t = (denyPart .mmio .write a (g.addr i) s).answerErr 0b01#2) ∧
  (∀ (a : Access) (addr n i : Nat) (g : Reg) (v : Word) (s : State),
    (n ≠ 8 ∨ addr % 8 ≠ 0) → PlainAddr addr → regFind (addr / 8 * 8) = some (g, i) →
    Gives (.registerWrite a addr n v) s fun t => t.resp = ⟨0b10#2, 0⟩ ∧ t.regs = s.regs ∧ t.out = s.out) ∧
  (∀ (a : Access) (addr n : Nat) (v : Word) (s : State),
    PlainAddr addr → regFind (addr / 8 * 8) = none → regDie addr = none → mmioBlock addr = none →
    Gives (.registerWrite a addr n v) s fun t => t.resp = ⟨0b10#2, 0⟩ ∧ t.regs = s.regs) ∧
  (∀ (a : Access) (n : Nat) (v : Word) (s : State),
    a.world = true → a.part = 0 → srcUsed n = true → bit v 10 = false → srcMode n s ≠ 0 → srcDomain n s = 0 →
    (v.toNat % 8 = 4 ∨ v.toNat % 8 = 6 ∨ v.toNat % 8 = 1) →
    Gives (.registerWrite a (0xFF000A000000 + 4 * n) 4 v) s fun t => srcMode n t = v.toNat % 8 ∧ t.resp = ⟨0, 0⟩) ∧
  (∀ (p : Packet) (lo b i : Nat) (g : Reg) (s : State),
    s.out = [] → ioSpan ({ p with op := .rdIO }) = (lo, 8) → ioTarget (p.addr + lo) s = .block b → g ∉ effectRegs →
    regFind (p.addr + lo) = some (g, i) → PlainAddr (p.addr + lo) → (p.addr + lo) % 8 = 0 →
    regDie (p.addr + lo) = none → Allowed ⟨p.w, p.part, p.src⟩ false g i s →
    Gives (.rdIO p) s fun t =>
      sentSome (fun q => q.op == .dataIO && q.dst == p.src && q.tag == p.tag && q.resp == 0 && q.payload ==
        BitVec.ofNat 512 (s.r g i).toNat <<< (8 * lo)) t = true ∧
      t.resp = s.resp) ∧
  (∀ (p : Packet) (lo b i : Nat) (g : Reg) (s : State),
    s.out = [] → ioSpan ({ p with op := .wrIO }) = (lo, 8) → ioTarget (p.addr + lo) s = .block b → g ∉ effectRegs →
    regFind (p.addr + lo) = some (g, i) → PlainAddr (p.addr + lo) → (p.addr + lo) % 8 = 0 →
    regDie (p.addr + lo) = none → Allowed ⟨p.w, p.part, p.src⟩ true g i s →
    Gives (.wrIO p) s fun t =>
      t.r g i = Reg.write g (lockedReg g i s) (s.r g i) (BitVec.ofNat 64 (p.payload >>> (8 * lo)).toNat) ∧
      sentSome (fun q => q.op == .cmpIO && q.dst == p.src && q.tag == p.tag && q.resp == 0) t = true) ∧
  (∀ (p : Packet) (lo b i : Nat) (g : Reg) (s : State),
    s.out = [] → ioSpan ({ p with op := .rdIO }) = (lo, 8) → ioTarget (p.addr + lo) s = .block b →
    regFind (p.addr + lo) = some (g, i) → PlainAddr (p.addr + lo) → (p.addr + lo) % 8 = 0 →
    regDie (p.addr + lo) = none → regStopped g i s = false →
    (regVerdict ⟨p.w, p.part, p.src⟩ false g i s = .world ∨ regVerdict ⟨p.w, p.part, p.src⟩ false g i s = .part) →
    Gives (.rdIO p) s fun t =>
      sentSome (fun q => q.op == .dataIO && q.dst == p.src && q.tag == p.tag && q.resp == 0b01#2 && q.payload == 0) t
        = true ∧
      (g ∉ denyRegs → g ≠ .FAB_EPOCH → t.r g i = s.r g i)) ∧
  (∀ (p : Packet) (s : State),
    ioTarget (p.addr + (ioSpan ({ p with op := .rdIO })).1) s = .none →
    Gives (.rdIO p) s fun t =>
      sentSome (fun q => q.op == .dataIO && q.dst == p.src && q.tag == p.tag && q.resp == 0b10#2) t = true ∧
      t.mem = s.mem ∧ t.resp = s.resp) ∧
  (∀ (p : Packet) (s : State),
    ioTarget (p.addr + (ioSpan ({ p with op := .wrIO })).1) s = .none →
    Gives (.wrIO p) s fun t =>
      sentSome (fun q => q.op == .cmpIO && q.dst == p.src && q.tag == p.tag && q.resp == 0b10#2) t = true ∧
      t.mem = s.mem ∧ t.resp = s.resp) ∧
  (∀ (p : Packet) (w lo n tg : Nat) (s : State),
    ioSpan ({ p with op := .rdIO }) = (lo, n) → s.out = [] → ioTarget (p.addr + lo) s = .pcie w → w < 128 →
    s.b F.PE_OWIN_CFG_WORLD w = false → p.part = 0 → unitOff (272 + w / 16) s = false →
    peUp (w / 16) (s.f F.PE_OWIN_CFG_LINK w) s = true → s.f F.PE_OWIN_CFG_TYPE w = 0 → s.peWait = [] →
    smapGet (fun _ => none) s.peComb (w / 16) = none → s.b F.PE_OWIN_CFG_PREFETCH w = false →
    peTag (w / 16) (s.f F.PE_OWIN_CFG_LINK w) s = some tg →
    Gives (.rdIO p) s fun t =>
      t.out = [.tlp (w / 16)
        { kind := .mrd, link := s.f F.PE_OWIN_CFG_LINK w, addr := owinBus w (p.addr + lo) s, len := n, tag := tg }] ∧
      t.peRd.length = s.peRd.length + 1) ∧
  (∀ (p : Packet) (w lo n : Nat) (s : State),
    ioSpan ({ p with op := .wrIO }) = (lo, n) → s.out = [] → ioTarget (p.addr + lo) s = .pcie w → w < 128 →
    s.b F.PE_OWIN_CFG_WORLD w = false → p.part = 0 → unitOff (272 + w / 16) s = false →
    peUp (w / 16) (s.f F.PE_OWIN_CFG_LINK w) s = true → s.f F.PE_OWIN_CFG_TYPE w = 0 → s.peWait = [] →
    smapGet (fun _ => none) s.peComb (w / 16) = none →
    Gives (.wrIO p) s fun t =>
      t.out = [.tlp (w / 16)
        { kind := .mwr, link := s.f F.PE_OWIN_CFG_LINK w, addr := owinBus w (p.addr + lo) s, len := n, data := (p.payload >>> (8 * lo)).toNat % 2 ^ (8 * n), be := (p.mask >>> lo).toNat }]
        ∧
      t.peWr.length = s.peWr.length + 1)

/-- A write to an outbound window that is disabled takes effect unless it enables an illegal window; a completion
answers its read and frees the tag, and one that no request awaits is counted; a timeout answers with an error and sets
CTO; an acknowledgement returns CmpIO; a combined read is sent; an inbound request on a root link issues its first line
request under its device entry; a device that is blocked is refused; a link event, a link reset, and the entries into
L0s and L1 do what R474 and R475 say. (R453, R454, R456, R457, R459, R460, R461, R474, R475.) -/
def Obligations.PcieMaster : Prop :=
  (∀ (a : Access) (i : Nat) (v : Word) (s : State),
    i < 128 → Allowed a true .PE_OWIN_BASE i s → s.b F.PE_OWIN_CFG_EN i = false →
    Gives (.outboundWindowWrite a i 1 v) s fun t =>
      t.r .PE_OWIN_BASE i = Reg.write .PE_OWIN_BASE false (s.r .PE_OWIN_BASE i) v ∧
      t.r .PE_OWIN_CFG i = s.r .PE_OWIN_CFG i) ∧
  (∀ (a : Access) (i : Nat) (v : Word) (s : State),
    i < 128 → Allowed a true .PE_OWIN_BUS i s → s.b F.PE_OWIN_CFG_EN i = false →
    Gives (.outboundWindowWrite a i 2 v) s fun t =>
      t.r .PE_OWIN_BUS i = Reg.write .PE_OWIN_BUS false (s.r .PE_OWIN_BUS i) v ∧
      t.r .PE_OWIN_CFG i = s.r .PE_OWIN_CFG i) ∧
  (∀ (a : Access) (i : Nat) (v : Word) (s : State),
    i < 128 → Allowed a true .PE_OWIN_CFG i s → s.b F.PE_OWIN_CFG_EN i = false → vset F.PE_OWIN_CFG_EN v = true →
    (s.f F.PE_OWIN_BASE_VAL i * 65536 < 0x8000000000 ∨ fget F.PE_OWIN_CFG_SIZE v < 16 ∨ 39 < fget F.PE_OWIN_CFG_SIZE
      v) →
    Gives (.outboundWindowWrite a i 0 v) s fun t =>
      t.b F.PE_PORT_STATUS_CFGERR (i / 16) = true ∧ t.r .PE_OWIN_CFG i = s.r .PE_OWIN_CFG i) ∧
  (∀ (a : Access) (i : Nat) (v : Word) (s : State),
    i < 128 → Allowed a true .PE_OWIN_CFG i s → s.b F.PE_OWIN_CFG_EN i = false → vset F.PE_OWIN_CFG_EN v = true →
    0x8000000000 ≤ s.f F.PE_OWIN_BASE_VAL i * 65536 → 16 ≤ fget F.PE_OWIN_CFG_SIZE v →
    fget F.PE_OWIN_CFG_SIZE v ≤ 39 → s.f F.PE_OWIN_BASE_VAL i * 65536 + 2 ^ fget F.PE_OWIN_CFG_SIZE v ≤ 0xF000000000 →
    ((List.range 128).any fun j => s.b F.PE_OWIN_CFG_EN j) = false → fget F.PE_OWIN_CFG_LINK v < peLinks (i / 16) s →
    (fget F.PE_OWIN_CFG_TYPE v = 2 ↔ peEndpoint (i / 16) (fget F.PE_OWIN_CFG_LINK v) s = true) →
    Gives (.outboundWindowWrite a i 0 v) s fun t =>
      t.r .PE_OWIN_CFG i = Reg.write .PE_OWIN_CFG false (s.r .PE_OWIN_CFG i) v ∧
      t.b F.PE_PORT_STATUS_CFGERR (i / 16) = s.b F.PE_PORT_STATUS_CFGERR (i / 16)) ∧
  (∀ (n tg : Nat) (x : PeComb) (s : State),
    smapGet (fun _ => none) s.peComb n = some x → peTag n (s.f F.PE_OWIN_CFG_LINK x.win) s = some tg → s.peWait = [] →
    Gives (.readCombineTimeout n) s fun t =>
      t.out = s.out ++ [.tlp n
        { kind := .mrd, link := s.f F.PE_OWIN_CFG_LINK x.win, fn := owinFn x.win s, addr := x.addr, len := x.len, tag := tg }]
        ∧
      smapGet (fun _ => none) t.peComb n = none ∧
      t.peRd = s.peRd ++
        [{ port := n, link := s.f F.PE_OWIN_CFG_LINK x.win, tag := tg, fn := owinFn x.win s, addr := x.addr, len := x.len, rds := x.rds }]) ∧
  (∀ (n : Nat) (s : State),
    smapGet (fun _ => none) s.peComb n = none →
    Gives (.readCombineTimeout n) s fun t => t = s) ∧
  (∀ (n lo : Nat) (x : Tlp) (r : PeRd) (p : Packet) (s : State),
    s.peRd.find? (fun r => r.port == n && r.link == x.link && r.tag == x.tag) = some r → r.rds = [(p, 0)] →
    p.op = .rdIO → r.dead = false → r.got = 0 → r.data = 0 → r.bad = [] → x.st = 0 → x.ep = false → x.len = r.len →
    ioSpan p = (lo, r.len) → s.peWait = [] → s.peRd = [r] →
    Gives (.pcieCompletion n x) s fun t =>
      sentSome (fun q => q.op == .dataIO && q.dst == p.src && q.tag == p.tag && q.resp == 0 && q.payload == linePut 0
        lo r.len (x.data % 256 ^ r.len)) t = true ∧
      t.peRd = []) ∧
  (∀ (n : Nat) (x : Tlp) (r : PeRd) (p : Packet) (s : State),
    s.peRd.find? (fun r => r.port == n && r.link == x.link && r.tag == x.tag) = some r → r.rds = [(p, 0)] →
    p.op = .rdIO → r.dead = false → x.st ≠ 0 → s.peWait = [] →
    Gives (.pcieCompletion n x) s fun t =>
      sentSome (fun q => q.op == .dataIO && q.dst == p.src && q.tag == p.tag && q.resp == 0b10#2) t = true ∧
      t.peRd = s.peRd.erase r) ∧
  (∀ (n : Nat) (x : Tlp) (s : State),
    (s.peRd.any fun r => r.port == n && r.link == x.link && r.tag == x.tag) = false →
    Gives (.pcieCompletion n x) s fun t => t = s.satInc F.PE_PORT_STATUS_LATE_CPL n) ∧
  (∀ (n l g : Nat) (r : PeRd) (p : Packet) (s : State),
    s.peRd.find? (fun r => r.port == n && r.link == l && r.tag == g) = some r → r.rds = [(p, 0)] → p.op = .rdIO →
    r.dead = false → s.peWait = [] →
    Gives (.completionTimeout n l g) s fun t =>
      t.b F.PE_PORT_STATUS_CTO n = true ∧
      sentSome (fun q => q.op == .dataIO && q.dst == p.src && q.tag == p.tag && q.resp == 0b10#2) t = true ∧
      t.peRd = s.peRd.erase r) ∧
  (∀ (n l g : Nat) (s : State),
    (s.peRd.any fun r => r.port == n && r.link == l && r.tag == g) = false →
    Gives (.completionTimeout n l g) s fun t => t = s) ∧
  (∀ (n l : Nat) (q : Tlp) (p : Packet) (s : State),
    s.peWr.find? (fun x => x.port == n && x.t.link == l) = some ⟨n, q, some p⟩ → p.op = .wrIO →
    Gives (.pcieAck n l) s fun t =>
      sentSome (fun q => q.op == .cmpIO && q.dst == p.src && q.tag == p.tag && q.resp == 0) t = true ∧
      t.peWr = s.peWr.erase ⟨n, q, some p⟩ ∧ t.peIdle = s.peIdle) ∧
  (∀ (n l : Nat) (s : State),
    (s.peWr.any fun x => x.port == n && x.t.link == l) = false →
    Gives (.pcieAck n l) s fun t => t = s) ∧
  (∀ (n pa r : Nat) (x : Tlp) (w : List Nat) (s : State),
    x.kind = .mrd → peUp n x.link s = true → unitOff (272 + n) s = false → peEndpoint n x.link s = false → n < 8 →
    devEntry (n * 65536 + x.req) s = none → inDram pa s = true → s.inQ n = [] → s.pkgEnd = none → 0 < x.len →
    x.len ≤ 64 - pa % 64 →
    Gives (.pcieInboundRequest n x (.ok pa r w)) s fun t =>
      sentSome (fun q => q.op == .rdNC && q.w == false && q.part == 0 && q.src == inAgent n && q.addr == lineOf pa &&
        q.dst == 0x100 + mcOf pa) t = true ∧
      (t.inQ n).length = 1) ∧
  (∀ (n e : Nat) (x : Tlp) (y : Xlate) (s : State),
    x.kind = .mrd → peUp n x.link s = true → unitOff (272 + n) s = false → peEndpoint n x.link s = false → n < 8 →
    devEntry (n * 65536 + x.req) s = some e → s.b F.PQ_DEVPART_BLOCKED e = true → s.inQ n = [] → s.pkgEnd = none →
    Gives (.pcieInboundRequest n x y) s fun t =>
      t.out = s.out ++ [.tlp n { kind := .cpl, link := x.link, req := x.req, tag := x.tag, addr := x.addr, st := 4 }]
        ∧
      t.inQ n = []) ∧
  (∀ (n f : Nat) (x : Tlp) (y : Xlate) (s : State),
    x.kind = .mrd → peUp n x.link s = true → unitOff (272 + n) s = false → peEndpoint n x.link s = true →
    x.fn = some f → f ≤ 32 → (fnHost n f s).isSome = true → s.b F.PE_FN_STATUS_BUSY_FLR (fnIx n f) = false →
    x.bar = 0 → x.addr < 0x4000 → x.len ≤ 64 → 0 < x.len → x.len ≤ 128 - x.addr % 64 → s.inQ n = [] →
    s.pkgEnd = none →
    Gives (.pcieInboundRequest n x y) s fun t =>
      t.out = s.out ++ [.tlp n
        { kind := .cpl, link := x.link, fn := some f, req := x.req, tag := x.tag, addr := x.addr, len := x.len, data := bar0Read n f x.addr x.len s % 256 ^ x.len }]) ∧
  (∀ (n : Nat) (x : Tlp) (y : Xlate) (s : State),
    (peUp n x.link s = false ∨ unitOff (272 + n) s = true) →
    Gives (.pcieInboundRequest n x y) s fun t => t = s) ∧
  (∀ (n : Nat) (s : State),
    peMode n s = false →
    Gives (.linkReset n 0) s fun t =>
      peUp n 0 t = false ∧ smapGet (fun _ => 0) t.peLive n = s.r .PE_PORT_CFG n ∧
      smapGet (fun _ => 0) t.peLive (8 + n) = s.r .PE_EP_CFG n) ∧
  (∀ (n : Nat) (s : State),
    peMode n s = true → n < 2 →
    Gives (.linkReset n 0) s fun t =>
      peUp n 0 t = false ∧ smapGet (fun _ => 0) t.peLive n = s.r .PE_PORT_CFG n ∧
      t.b F.PE_PORT_STATUS_FLR_EV n = true ∧
      ((List.range 33).all fun f => t.b F.PE_FN_STATUS_BUSY_FLR (fnIx n f)) = true) ∧
  (∀ (n l : Nat) (s : State),
    l ≠ 0 → l < 4 →
    Gives (.linkReset n l) s fun t => peUp n l t = false ∧ t.peLive = s.peLive) ∧
  (∀ (n l : Nat) (s : State),
    l < peLinks n s → peUp n l s = false → unitOff (272 + n) s = false →
    Gives (.pcieLinkEvent n l true) s fun t => peUp n l t = true ∧ t.b F.PE_PORT_STATUS_LINK_EV n = true) ∧
  (∀ (n l : Nat) (s : State),
    l < peLinks n s → peUp n l s = true →
    Gives (.pcieLinkEvent n l false) s fun t => peUp n l t = false ∧ t.b F.PE_PORT_STATUS_LINK_EV n = true) ∧
  (∀ (n l : Nat) (u : Bool) (s : State),
    peUp n l s = u →
    Gives (.pcieLinkEvent n l u) s fun t => t = s) ∧
  (∀ (n l : Nat) (s : State),
    peUp n l s = true → smapGet (fun _ => 0) s.aspm (4 * n + l) = 0 → aspmOn n l 0 s = true →
    peQuiet n l (32 * max 1 (s.f F.PE_LINK_CTRL_L0S_IDLE (4 * n + l))) s = true →
    Gives (.l0sEntry n l) s fun t => smapGet (fun _ => 0) t.aspm (4 * n + l) = 1 ∧ t.regs = s.regs ∧ t.out = s.out) ∧
  (∀ (n l : Nat) (s : State),
    peUp n l s = true → smapGet (fun _ => 0) s.aspm (4 * n + l) ≠ 2 → aspmOn n l 1 s = true →
    peQuiet n l (tbMicro * max 1 (s.f F.PE_LINK_CTRL_L1_IDLE (4 * n + l))) s = true →
    Gives (.l1Entry n l) s fun t => smapGet (fun _ => 0) t.aspm (4 * n + l) = 2 ∧ t.regs = s.regs ∧ t.out = s.out) ∧
  (∀ (n l : Nat) (s : State),
    peQuiet n l 32 s = false →
    Gives (.l0sEntry n l) s fun t => t = s) ∧
  (∀ (n l : Nat) (s : State),
    peQuiet n l tbMicro s = false →
    Gives (.l1Entry n l) s fun t => t = s) ∧
  (∀ (n l : Nat) (s : State),
    peUp n l s = false →
    Gives (.l0sEntry n l) s fun t => t = s) ∧
  (∀ (n l : Nat) (s : State),
    peUp n l s = false →
    Gives (.l1Entry n l) s fun t => t = s)

/-- A doorbell adds its bits and notifies when none was set; a vector is sent as a posted write or becomes pending; a
commit puts the shadow windows in force and marks the old mapping busy until it has drained; a publish fills an empty
mailbox and is refused on a full one; the acknowledgement of the result held empties it and any other is counted; Bus
Master Enable cleared and an FLR leave the function as R471 and R472 say; configuration reads and writes answer a
completion. (R463, R464, R466, R467, R468, R469, R470, R471, R472, R474.) -/
def Obligations.PcieFunctions : Prop :=
  (∀ (n f : Nat) (v : Word) (s : State),
    fnOpen n f s = true → n < 2 →
    Gives (.hostDoorbell n f v) s fun t =>
      t.r .PE_FN_DOORBELL (fnIx n f) = s.r .PE_FN_DOORBELL (fnIx n f) ||| v ∧
      (s.r .PE_FN_DOORBELL (fnIx n f) ≠ 0 → t.out = s.out)) ∧
  (∀ (n f p : Nat) (v : Word) (w : Bool) (s : State),
    fnOpen n f s = true → n < 2 → s.r .PE_FN_DOORBELL (fnIx n f) = 0 → v ≠ 0 → fnHost n f s = some (p, w) →
    s.f F.PE_FN_NOTIFY_FILE (fnIx n f) ≤ 7 →
    Gives (.hostDoorbell n f v) s fun t =>
      t.out = s.out ++ [.imsic (s.f F.PE_FN_NOTIFY_HART (fnIx n f)) (s.f F.PE_FN_NOTIFY_FILE (fnIx n f)) (s.f
        F.PE_FN_NOTIFY_EIID (fnIx n f)) w p (0x118 + n)]) ∧
  (∀ (n f : Nat) (v : Word) (s : State),
    fnOpen n f s = false →
    Gives (.hostDoorbell n f v) s fun t => t = s) ∧
  (∀ (a : Access) (n f : Nat) (v : Word) (s : State),
    n < 2 → f ≤ 32 → Allowed a true .PE_FN_MSIX (fnIx n f) s → peBme n f s = true →
    s.b F.PE_FN_STATUS_BUSY_FLR (fnIx n f) = false → s.peWait = [] → (s.peC (fnIx n f)).msix = true →
    (s.peC (fnIx n f)).fmask = false → (s.vec (fnIx n f * 16 + fget F.PE_FN_MSIX_VAL v)).mask = false →
    Gives (.msixRaise a n f v) s fun t =>
      t.out = s.out ++ [.tlp n
        { kind := .mwr, link := 0, fn := some f, addr := (s.vec (fnIx n f * 16 + fget F.PE_FN_MSIX_VAL v)).addr, len := 4, data := (s.vec (fnIx n f * 16 + fget F.PE_FN_MSIX_VAL v)).data, be := 0xF }]
        ∧
      t.peWr = s.peWr ++
        [⟨n, { kind := .mwr, link := 0, fn := some f, addr := (s.vec (fnIx n f * 16 + fget F.PE_FN_MSIX_VAL v)).addr, len := 4, data := (s.vec (fnIx n f * 16 + fget F.PE_FN_MSIX_VAL v)).data, be := 0xF }, none⟩]) ∧
  (∀ (a : Access) (n f : Nat) (v : Word) (s : State),
    n < 2 → f ≤ 32 → Allowed a true .PE_FN_MSIX (fnIx n f) s → peBme n f s = true →
    s.b F.PE_FN_STATUS_BUSY_FLR (fnIx n f) = false → s.peWait = [] → (s.peC (fnIx n f)).msix = true →
    ((s.peC (fnIx n f)).fmask = true ∨ (s.vec (fnIx n f * 16 + fget F.PE_FN_MSIX_VAL v)).mask = true) →
    Gives (.msixRaise a n f v) s fun t =>
      (t.vec (fnIx n f * 16 + fget F.PE_FN_MSIX_VAL v)).pend = true ∧ t.out = s.out) ∧
  (∀ (a : Access) (n f : Nat) (v : Word) (s : State),
    n < 2 → f ≤ 32 → Allowed a true .PE_FN_MSIX (fnIx n f) s → peBme n f s = false →
    Gives (.msixRaise a n f v) s fun t => t.resp.code = 0b10 ∧ t.out = s.out ∧ t.msix = s.msix) ∧
  (∀ (a : Access) (n f i : Nat) (v : Word) (s : State),
    n < 2 → f ≤ 32 → Allowed a true .PE_IWIN_COMMIT (fnIx n f) s → vset F.PE_IWIN_COMMIT_COMMIT_ERR v = false →
    vset F.PE_IWIN_COMMIT_GO v = true → s.b F.PE_IWIN_COMMIT_OLD_BUSY (fnIx n f) = false →
    peShadowOverlap n f s = false → i < 8 →
    Gives (.windowCommit a n f v) s fun t =>
      t.b F.PE_IWIN_COMMIT_OLD_BUSY (fnIx n f) = true ∧
      peIwin F.PE_IWIN_TARGET_VAL (iwinIx n f i) t = s.f F.PE_IWIN_TARGET_VAL (iwinIx n f i) ∧
      peIwin F.PE_IWIN_CTRL_EN (iwinIx n f i) t = s.f F.PE_IWIN_CTRL_EN (iwinIx n f i)) ∧
  (∀ (a : Access) (n f : Nat) (v : Word) (s : State),
    n < 2 → f ≤ 32 → Allowed a true .PE_IWIN_COMMIT (fnIx n f) s → vset F.PE_IWIN_COMMIT_COMMIT_ERR v = false →
    vset F.PE_IWIN_COMMIT_GO v = true →
    (s.b F.PE_IWIN_COMMIT_OLD_BUSY (fnIx n f) = true ∨ peShadowOverlap n f s = true) →
    Gives (.windowCommit a n f v) s fun t =>
      t.b F.PE_IWIN_COMMIT_COMMIT_ERR (fnIx n f) = true ∧ t.iwinCur = s.iwinCur) ∧
  (∀ (a : Access) (n f : Nat) (v : Word) (s : State),
    n < 2 → f ≤ 32 → Allowed a true .PE_IWIN_COMMIT (fnIx n f) s → vset F.PE_IWIN_COMMIT_COMMIT_ERR v = false →
    vset F.PE_IWIN_COMMIT_GO v = false →
    Gives (.windowCommit a n f v) s fun t => t.iwinCur = s.iwinCur ∧ t.regs = s.regs) ∧
  (∀ (n f : Nat) (s : State),
    s.b F.PE_IWIN_COMMIT_OLD_BUSY (fnIx n f) = true → ((s.inQ n).any fun j => jobOf f j && j.old) = false →
    Gives (.oldMappingDrained n f) s fun t =>
      t.b F.PE_IWIN_COMMIT_OLD_BUSY (fnIx n f) = false ∧ t.b F.PE_PORT_STATUS_WIN_DONE n = true) ∧
  (∀ (n f : Nat) (s : State),
    ((s.inQ n).any fun j => jobOf f j && j.old) = true →
    Gives (.oldMappingDrained n f) s fun t => t = s) ∧
  (∀ (a : Access) (n f m : Nat) (v : Word) (s : State),
    n < 2 → f ≤ 32 → m < 16 → Allowed a true .PE_MBX_CTRL (mbxIx n f m) s → vset F.PE_MBX_CTRL_PUBLISH v = true →
    s.b F.PE_MBX_CTRL_READY (mbxIx n f m) = false → s.b F.PE_FN_STATUS_BUSY_FLR (fnIx n f) = false →
    fget F.PE_MBX_CTRL_LEN v ≤ 56 →
    Gives (.publish a n f m v) s fun t =>
      t.b F.PE_MBX_CTRL_READY (mbxIx n f m) = true ∧
      t.f F.PE_MBX_CTRL_SEQ (mbxIx n f m) = (s.f F.PE_MBX_CTRL_SEQ (mbxIx n f m) + 1) % 65536 ∧
      t.f F.PE_MBX_CTRL_LEN (mbxIx n f m) = fget F.PE_MBX_CTRL_LEN v) ∧
  (∀ (a : Access) (n f m : Nat) (v : Word) (s : State),
    n < 2 → f ≤ 32 → m < 16 → Allowed a true .PE_MBX_CTRL (mbxIx n f m) s → vset F.PE_MBX_CTRL_PUBLISH v = true →
    (s.b F.PE_MBX_CTRL_READY (mbxIx n f m) = true ∨ s.b F.PE_FN_STATUS_BUSY_FLR (fnIx n f) = true) →
    Gives (.publish a n f m v) s fun t =>
      t.b F.PE_MBX_CTRL_FULL (mbxIx n f m) = true ∧
      t.f F.PE_MBX_CTRL_SEQ (mbxIx n f m) = s.f F.PE_MBX_CTRL_SEQ (mbxIx n f m) ∧
      t.b F.PE_MBX_CTRL_READY (mbxIx n f m) = s.b F.PE_MBX_CTRL_READY (mbxIx n f m)) ∧
  (∀ (a : Access) (n f m : Nat) (v : Word) (s : State),
    n < 2 → f ≤ 32 → m < 16 → Allowed a true .PE_MBX_CTRL (mbxIx n f m) s → vset F.PE_MBX_CTRL_PUBLISH v = true →
    s.b F.PE_MBX_CTRL_READY (mbxIx n f m) = false → s.b F.PE_FN_STATUS_BUSY_FLR (fnIx n f) = false →
    56 < fget F.PE_MBX_CTRL_LEN v →
    Gives (.publish a n f m v) s fun t =>
      t.b F.PE_MBX_CTRL_LENERR (mbxIx n f m) = true ∧ t.b F.PE_MBX_CTRL_READY (mbxIx n f m) = false ∧
      t.f F.PE_MBX_CTRL_SEQ (mbxIx n f m) = s.f F.PE_MBX_CTRL_SEQ (mbxIx n f m)) ∧
  (∀ (n f m : Nat) (v : Word) (s : State),
    fnOpen n f s = true → n < 2 → m < 16 → bit v 62 = true → s.b F.PE_MBX_CTRL_READY (mbxIx n f m) = true →
    bits v 47 32 = s.f F.PE_MBX_CTRL_SEQ (mbxIx n f m) →
    Gives (.mailboxAck n f m v) s fun t =>
      t.b F.PE_MBX_CTRL_READY (mbxIx n f m) = false ∧ t.b F.PE_MBX_CTRL_ACKED (mbxIx n f m) = true ∧
      t.f F.PE_MBX_CTRL_SEQ (mbxIx n f m) = s.f F.PE_MBX_CTRL_SEQ (mbxIx n f m) ∧
      (s.b F.PE_FN_NOTIFY_ACK_IRQ (fnIx n f) = false → t.out = s.out)) ∧
  (∀ (n f m : Nat) (v : Word) (s : State),
    fnOpen n f s = true → n < 2 → m < 16 →
    (bit v 62 = false ∨ s.b F.PE_MBX_CTRL_READY (mbxIx n f m) = false ∨ bits v 47 32 ≠ s.f F.PE_MBX_CTRL_SEQ (mbxIx n
      f m)) →
    Gives (.mailboxAck n f m v) s fun t => t = s.satInc F.PE_FN_STATUS_ACK_ERR (fnIx n f)) ∧
  (∀ (n f m : Nat) (v : Word) (s : State),
    fnOpen n f s = false →
    Gives (.mailboxAck n f m v) s fun t => t = s) ∧
  (∀ (n f : Nat) (s : State),
    n < 2 → f ≤ 32 → peBme n f s = true →
    Gives (.bmeClear n f) s fun t =>
      peBme n f t = false ∧ t.b F.PE_PORT_STATUS_BME_EV n = true ∧
      (t.peRd.all fun r => r.port != n || r.fn != some f || r.dead) = true ∧
      (t.peWait.any fun h => h.r.port == n && h.r.fn == some f) = false) ∧
  (∀ (n f : Nat) (s : State),
    peBme n f s = false →
    Gives (.bmeClear n f) s fun t => t = s) ∧
  (∀ (n f : Nat) (s : State),
    n < 2 → peMode n s = true → 1 ≤ f → f ≤ 32 →
    Gives (.flr n f) s fun t =>
      t.b F.PE_FN_STATUS_BUSY_FLR (fnIx n f) = true ∧ peBme n f t = false ∧ t.r .PE_FN_DOORBELL (fnIx n f) = 0 ∧
      t.b F.PE_PORT_STATUS_FLR_EV n = true ∧ t.peC (fnIx n f) = {} ∧
      ((List.range 16).all fun m => !t.b F.PE_MBX_CTRL_READY (mbxIx n f m) && t.f F.PE_MBX_CTRL_SEQ (mbxIx n f m) ==
        0) = true) ∧
  (∀ (n : Nat) (s : State),
    n < 2 → peMode n s = true →
    Gives (.flr n 0) s fun t =>
      ((List.range 33).all fun f => t.b F.PE_FN_STATUS_BUSY_FLR (fnIx n f) && decide (t.r .PE_FN_DOORBELL (fnIx n f) =
        0)) = true ∧
      t.b F.PE_PORT_STATUS_FLR_EV n = true) ∧
  (∀ (n f : Nat) (s : State),
    peMode n s = false →
    Gives (.flr n f) s fun t => t = s) ∧
  (∀ (n f : Nat) (s : State),
    s.b F.PE_FN_STATUS_BUSY_FLR (fnIx n f) = true →
    Gives (.flrDone n f) s fun t =>
      t.b F.PE_FN_STATUS_BUSY_FLR (fnIx n f) = false ∧
      t.b F.PE_FN_STATUS_FLR_DONE (fnIx n f) = !s.b F.PE_FN_STATUS_FLR_DONE (fnIx n f)) ∧
  (∀ (n f : Nat) (s : State),
    s.b F.PE_FN_STATUS_BUSY_FLR (fnIx n f) = false →
    Gives (.flrDone n f) s fun t => t = s) ∧
  (∀ (n f dw : Nat) (v : BitVec 32) (e : CfgEffect) (s : State),
    peMode n s = true → f ≤ 32 → peUp n 0 s = true →
    Gives (.configurationRequest n f false dw v e) s fun t =>
      t.out = s.out ++ [.tlp n
        { kind := .cpl, link := 0, fn := some f, len := 4, data := (smapGet (fun _ => 0) (s.peC (fnIx n f)).words dw).toNat }]
        ∧
      t.regs = s.regs ∧ t.peCfg = s.peCfg) ∧
  (∀ (n f dw : Nat) (v : BitVec 32) (s : State),
    peMode n s = true → f ≤ 32 → peUp n 0 s = true →
    Gives (.configurationRequest n f true dw v .plain) s fun t =>
      smapGet (fun _ => 0) (t.peC (fnIx n f)).words dw = v ∧
      t.out = s.out ++ [.tlp n { kind := .cpl, link := 0, fn := some f }]) ∧
  (∀ (n f dw : Nat) (v : BitVec 32) (s : State),
    peMode n s = true → f ≤ 32 → peUp n 0 s = true → n < 2 → peBme n f s = false →
    Gives (.configurationRequest n f true dw v (.bme true)) s fun t =>
      peBme n f t = true ∧ t.b F.PE_PORT_STATUS_BME_EV n = true) ∧
  (∀ (n f dw : Nat) (v : BitVec 32) (s : State),
    peMode n s = true → f ≤ 32 → peUp n 0 s = true → n < 2 → peBme n f s = true →
    Gives (.configurationRequest n f true dw v (.bme false)) s fun t =>
      peBme n f t = false ∧ t.b F.PE_PORT_STATUS_BME_EV n = true) ∧
  (∀ (n f dw m : Nat) (v : BitVec 32) (s : State),
    peMode n s = true → f ≤ 32 → peUp n 0 s = true →
    Gives (.configurationRequest n f true dw v (.mrrs m)) s fun t => (t.peC (fnIx n f)).mrrs = m) ∧
  (∀ (n dw : Nat) (v : BitVec 32) (x : Bool) (s : State),
    peMode n s = true → peUp n 0 s = true →
    Gives (.configurationRequest n 0 true dw v (.vfEnable x)) s fun t => (t.peC (fnIx n 0)).vfEn = x) ∧
  (∀ (n f dw : Nat) (v : BitVec 32) (x : Bool) (s : State),
    peMode n s = true → f ≤ 32 → peUp n 0 s = true →
    Gives (.configurationRequest n f true dw v (.msixEnable x)) s fun t => (t.peC (fnIx n f)).msix = x) ∧
  (∀ (n f dw : Nat) (v : BitVec 32) (x : Bool) (s : State),
    peMode n s = true → f ≤ 32 → peUp n 0 s = true →
    Gives (.configurationRequest n f true dw v (.msixMask x)) s fun t => (t.peC (fnIx n f)).fmask = x) ∧
  (∀ (n f dw : Nat) (v : BitVec 32) (x y : Bool) (s : State),
    peMode n s = true → f ≤ 32 → peUp n 0 s = true →
    Gives (.configurationRequest n f true dw v (.aspm x y)) s fun t => aspmOn n 0 0 t = x ∧ aspmOn n 0 1 t = y) ∧
  (∀ (n f dw : Nat) (v : BitVec 32) (s : State),
    peMode n s = true → f ≤ 32 → peUp n 0 s = true → n < 2 → 1 ≤ f →
    Gives (.configurationRequest n f true dw v .flr) s fun t =>
      t.b F.PE_FN_STATUS_BUSY_FLR (fnIx n f) = true ∧ t.b F.PE_PORT_STATUS_FLR_EV n = true) ∧
  (∀ (n f dw : Nat) (wr : Bool) (v : BitVec 32) (e : CfgEffect) (s : State),
    peUp n 0 s = false →
    Gives (.configurationRequest n f wr dw v e) s fun t => t = s)

/-- A good flit advances the expected SEQ, and a bad one is discarded, counted and awaited again; a NAK counts a replay,
and the eighth retrains; training ends in ACTIVE when roles and IDs fit and records an error otherwise; PL_PORT_CFG,
RETRAIN and REJOIN act on the port; a link down leaves DOWN; a phase frame is sent on every DOWN port, one received is
an edge of the ports that select it, and a missing acknowledgement takes an ACTIVE port to LOST. (R477, R481, R483,
R493, R494, R496, R497, R505.) -/
def Obligations.PalegLinks : Prop :=
  (∀ (n seq af turn : Nat) (ts : Word) (l : List PlCell) (s : State),
    2 ≤ plState n s → (s.pl n).skip = false → ((s.pl n).frames.any fun f => f.1 == af) = false →
    Gives (.palegFlitReceive n true 1 seq none af turn ts l) s fun t =>
      (t.pl n).exp = (s.pl n).exp ∧ t.out = s.out ∧ t.regs = s.regs) ∧
  (∀ (n seq af turn : Nat) (ts : Word) (c : PlCell) (s : State),
    2 ≤ plState n s → (s.pl n).skip = false → seq = (s.pl n).exp → ((s.pl n).frames.any fun f => f.1 == af) = false →
    1 ≤ c.ty → c.ty ≤ 4 → (c.ty = 4 → msgType c ≠ 15) → c.dest = plSelf s →
    Gives (.palegFlitReceive n true 0 seq none af turn ts [c]) s fun t =>
      (t.pl n).exp = (seq + 1) % 4096 ∧ smapGet (fun _ => []) t.plIn n = smapGet (fun _ => []) s.plIn n ++ [c]) ∧
  (∀ (n seq af turn : Nat) (ts : Word) (ok : Bool) (f : Nat) (k : Option Nat) (l : List PlCell) (s : State),
    2 ≤ plState n s → (ok = false ∨ 3 < f) → (s.pl n).naks < 7 →
    Gives (.palegFlitReceive n ok f seq k af turn ts l) s fun t =>
      t.f F.PL_PORT_ERRCNT_CRC_ERR n = min (s.f F.PL_PORT_ERRCNT_CRC_ERR n + 1) 65535 ∧ (t.pl n).skip = true ∧
      (t.pl n).exp = (s.pl n).exp ∧ t.plIn = s.plIn) ∧
  (∀ (n seq af turn : Nat) (ts : Word) (ok : Bool) (f : Nat) (k : Option Nat) (l : List PlCell) (s : State),
    plState n s < 2 →
    Gives (.palegFlitReceive n ok f seq k af turn ts l) s fun t => t = s) ∧
  (∀ (n k : Nat) (s : State),
    2 ≤ plState n s → k = (s.pl n).acked → (s.pl n).acked < 4096 → (s.pl n).naks < 7 →
    Gives (.palegNak n k) s fun t =>
      t.f F.PL_PORT_ERRCNT_REPLAY n = min (s.f F.PL_PORT_ERRCNT_REPLAY n + 1) 65535 ∧
      (t.pl n).naks = (s.pl n).naks + 1 ∧ plState n t = plState n s ∧ t.out = s.out) ∧
  (∀ (n k : Nat) (s : State),
    n < 8 → 2 ≤ plState n s → k = (s.pl n).acked → (s.pl n).acked < 4096 → 7 ≤ (s.pl n).naks →
    Gives (.palegNak n k) s fun t => plState n t = 1 ∧ t.b F.PL_PORT_DELAY_DVALID n = false ∧ (t.pl n).exp = 0) ∧
  (∀ (n k : Nat) (s : State),
    plState n s < 2 →
    Gives (.palegNak n k) s fun t => t = s) ∧
  (∀ (n d r : Nat) (s : State),
    n < 8 → s.b F.PL_PORT_CFG_EN n = true → plState n s < 2 → unitOff (280 + n) s = false → d < 4096 →
    ((plRole n s = 1 ∧ r = 2) ∨ (plRole n s = 2 ∧ r = 1) ∨ (plRole n s = 3 ∧ r = 3)) → d ≠ plSelf s →
    Gives (.palegTrainingDone n true d r) s fun t =>
      plState n t = 2 ∧ t.f F.PL_PORT_STATUS_NEIGH_ID n = d ∧ t.b F.PL_PORT_STATUS_LINK_EV n = true) ∧
  (∀ (n d r : Nat) (s : State),
    n < 8 → s.b F.PL_PORT_CFG_EN n = true → plState n s < 2 → unitOff (280 + n) s = false → d < 4096 → d = plSelf s →
    Gives (.palegTrainingDone n true d r) s fun t =>
      plState n t = 1 ∧ t.b F.PL_PORT_STATUS_DUPID n = true ∧ t.f F.PL_PORT_STATUS_NEIGH_ID n = d) ∧
  (∀ (n d r : Nat) (s : State),
    n < 8 → s.b F.PL_PORT_CFG_EN n = true → plState n s < 2 → unitOff (280 + n) s = false → d < 4096 →
    ¬((plRole n s = 1 ∧ r = 2) ∨ (plRole n s = 2 ∧ r = 1) ∨ (plRole n s = 3 ∧ r = 3)) →
    Gives (.palegTrainingDone n true d r) s fun t =>
      plState n t = 1 ∧ t.b F.PL_PORT_STATUS_ROLE_ERR n = true ∧ t.f F.PL_PORT_STATUS_NEIGH_ID n = d) ∧
  (∀ (n d r : Nat) (ok : Bool) (s : State),
    (ok = false ∨ s.b F.PL_PORT_CFG_EN n = false ∨ 2 ≤ plState n s) →
    Gives (.palegTrainingDone n ok d r) s fun t => t = s) ∧
  (∀ (a : Access) (n : Nat) (v : Word) (s : State),
    n < 8 → Allowed a true .PL_PORT_CFG n s → s.b F.PL_PORT_CFG_EN n = false → vset F.PL_PORT_CFG_EN v = true →
    fget F.PL_PORT_CFG_ROLE v ≠ 1 →
    Gives (.palegPortEnable a n v) s fun t =>
      plState n t = 1 ∧ t.b F.PL_PORT_CFG_EN n = true ∧ plRole n t = fget F.PL_PORT_CFG_ROLE v ∧
      t.b F.PL_PORT_DELAY_DVALID n = false) ∧
  (∀ (a : Access) (n : Nat) (v : Word) (s : State),
    n < 8 → Allowed a true .PL_PORT_CFG n s → s.b F.PL_PORT_CFG_EN n = true → vset F.PL_PORT_CFG_EN v = false →
    plRole n s ≠ 1 → plState n s ≠ 0 →
    Gives (.palegPortEnable a n v) s fun t =>
      plState n t = 0 ∧ t.b F.PL_PORT_CFG_EN n = false ∧ plRole n t = plRole n s ∧
      t.b F.PL_PORT_STATUS_LINK_EV n = true) ∧
  (∀ (a : Access) (n : Nat) (v : Word) (s : State),
    n < 8 → Allowed a true .PL_PORT_CFG n s → s.b F.PL_PORT_CFG_EN n = false → fget F.PL_PORT_CFG_ROLE v = 1 →
    ((List.range 8).any fun k => k != n && plRole k s == 1) = true →
    Gives (.palegPortEnable a n v) s fun t =>
      t.b F.PL_GSTATUS_CFGERR 0 = true ∧ t.r .PL_PORT_CFG n = s.r .PL_PORT_CFG n ∧ plState n t = plState n s) ∧
  (∀ (a : Access) (n : Nat) (v : Word) (s : State),
    n < 8 → Allowed a true .PL_PORT_CMD n s → vset F.PL_PORT_CMD_RETRAIN v = true → s.b F.PL_PORT_CFG_EN n = true →
    Gives (.retrain a n v) s fun t =>
      plState n t = 1 ∧ t.b F.PL_PORT_DELAY_DVALID n = false ∧ (t.pl n).frames = []) ∧
  (∀ (a : Access) (n : Nat) (v : Word) (s : State),
    n < 8 → Allowed a true .PL_PORT_CMD n s → vset F.PL_PORT_CMD_REJOIN v = true →
    vset F.PL_PORT_CMD_RETRAIN v = false → plState n s = 3 →
    Gives (.retrain a n v) s fun t => (t.pl n).rejoin = some 0 ∧ t.regs = s.regs) ∧
  (∀ (a : Access) (n : Nat) (v : Word) (s : State),
    n < 8 → Allowed a true .PL_PORT_CMD n s → vset F.PL_PORT_CMD_RETRAIN v = true → s.b F.PL_PORT_CFG_EN n = true →
    Gives (.rejoin a n v) s fun t => plState n t = 1 ∧ t.b F.PL_PORT_DELAY_DVALID n = false ∧ (t.pl n).frames = []) ∧
  (∀ (a : Access) (n : Nat) (v : Word) (s : State),
    n < 8 → Allowed a true .PL_PORT_CMD n s → vset F.PL_PORT_CMD_REJOIN v = true →
    vset F.PL_PORT_CMD_RETRAIN v = false → plState n s = 3 →
    Gives (.rejoin a n v) s fun t => (t.pl n).rejoin = some 0 ∧ t.regs = s.regs) ∧
  (∀ (n : Nat) (s : State),
    n < 8 → plState n s ≠ 0 →
    Gives (.palegLinkDown n) s fun t =>
      plState n t = 0 ∧ t.b F.PL_PORT_STATUS_LINK_EV n = true ∧ t.b F.PL_PORT_DELAY_DVALID n = false ∧
      plFlits n t = []) ∧
  (∀ (n : Nat) (s : State),
    plState n s = 0 →
    Gives (.palegLinkDown n) s fun t => t = s) ∧
  (∀ (n : Nat) (s : State),
    s.b F.PL_CTRL_PHASE_EN 0 = true → plRole n s = 2 → 2 ≤ plState n s →
    (s.frameAt.all fun u => decide (framePeriod s ≤ (s.tb - u).toNat)) = true → n < 8 →
    Gives (.phaseFrameSend) s fun t =>
      t.out.contains (.frame n (plFrame n s)) = true ∧ t.frameAt = some s.tb ∧
      (t.pl n).fseq = ((s.pl n).fseq + 1) % 65536 ∧ (t.pl n).frames.length = (s.pl n).frames.length + 1) ∧
  (∀ (u : Word) (s : State),
    s.frameAt = some u → (s.tb - u).toNat < framePeriod s →
    Gives (.phaseFrameSend) s fun t => t = s) ∧
  (∀ (s : State),
    s.b F.PL_CTRL_PHASE_EN 0 = false →
    Gives (.phaseFrameSend) s fun t => t = s) ∧
  (∀ (n : Nat) (t2 : Word) (first : Bool) (f : PhFrame) (s : State),
    (plRole n s ≠ 1 ∨ plState n s < 2 ∨ first = false ∨ f.dvalid = false) →
    Gives (.phaseFrame n t2 first f) s fun t => t = s) ∧
  (∀ (n : Nat) (t2 : Word) (f : PhFrame) (p : Nat) (s : State),
    plRole n s = 1 → 2 ≤ plState n s → f.dvalid = true → p < 8 → portKind p s = 4 → s.f F.PHE_PORT_AUX_PLPORT p = n →
    ((List.range 8).any fun q => q != p && portKind q s == 4) = false →
    f.locked.testBit (s.f F.PHE_PORT_AUX_REMOTE_PH p) = true →
    (f.todv[s.f F.PHE_PORT_AUX_REMOTE_PH p]?).getD false = false →
    Gives (.phaseFrame n t2 true f) s fun t =>
      t = portEdge p (t2 - BitVec.ofNat 64 (if plZd64 n s then s.f F.PL_PORT_CFG_DFIX n else f.d)) (some ((f.count[s.f
        F.PHE_PORT_AUX_REMOTE_PH p]?).getD 0)) s) ∧
  (∀ (n : Nat) (f : Nat × Word) (s : State),
    n < 8 → (s.pl n).frames.find? (fun f => decide (ackLimit < (s.tb - f.2).toNat)) = some f → plRole n s = 2 →
    plState n s = 2 →
    Gives (.branchLost n) s fun t =>
      plState n t = 3 ∧ t.b F.PL_PORT_STATUS_LOST_EV n = true ∧
      t.f F.PL_PORT_ERRCNT_ACK_MISS n = min (s.f F.PL_PORT_ERRCNT_ACK_MISS n + 1) 65535 ∧
      (t.pl n).frames = (s.pl n).frames.erase f) ∧
  (∀ (n : Nat) (s : State),
    (s.pl n).frames = [] →
    Gives (.branchLost n) s fun t => t = s)

/-- A WR or RD cell that no window holds is refused, and one that a window admits is issued in the window's world and
partition; an answer returns to its read, one that matches none is discarded, and a timeout answers with an error; a
message that is sent leaves an ACTIVE port or waits; one delivered goes to its FIFO, its interrupt or its channel, or is
counted lost; reading the FIFO removes its oldest record; a commit puts the shadow windows in force. (R484, R487, R488,
R489, R490, R491, R500, R501.) -/
def Obligations.PalegTraffic : Prop :=
  (∀ (n i pa x : Nat) (l : List Nat) (c : PlCell) (s : State),
    smapGet (fun _ => []) s.plIn n = [c] → s.inQ (8 + n) = [] → s.pkgEnd = none → c.ty = 1 →
    plIwinOf c.addr c.len s = some i → plIwin F.PL_IWIN_CTRL_WORLD i s = 0 → plIwin F.PL_IWIN_CTRL_RO i s = 0 →
    (c.src ^^^ plIwin F.PL_IWIN_SRC_SRC_ID i s) &&& plIwin F.PL_IWIN_SRC_SRC_MASK i s = 0 → inDram pa s = true →
    0 < c.len → c.len ≤ 64 - pa % 64 →
    Gives (.wr n (.ok pa x l)) s fun t =>
      sentSome (fun q => q.op == .wrNC && q.w == false && q.part == plIwin F.PL_IWIN_CTRL_PART i s && q.src == inAgent
        (8 + n) && q.addr == lineOf pa && q.dst == 0x100 + mcOf pa) t = true ∧
      (t.inQ (8 + n)).length = 1 ∧ smapGet (fun _ => []) t.plIn n = []) ∧
  (∀ (n : Nat) (x : Xlate) (c : PlCell) (s : State),
    smapGet (fun _ => []) s.plIn n = [c] → s.inQ (8 + n) = [] → s.pkgEnd = none → n < 8 → c.ty = 1 →
    plIwinOf c.addr (max 1 c.len) s = none →
    Gives (.wr n x) s fun t =>
      t.f F.PL_PORT_ERRCNT_DISCARD n = min (s.f F.PL_PORT_ERRCNT_DISCARD n + 1) 65535 ∧ t.inQ (8 + n) = [] ∧
      t.mem = s.mem ∧ t.out = s.out) ∧
  (∀ (n : Nat) (x : Xlate) (s : State),
    smapGet (fun _ => []) s.plIn n = [] →
    Gives (.wr n x) s fun t => t = s) ∧
  (∀ (n i pa x : Nat) (l : List Nat) (c : PlCell) (s : State),
    smapGet (fun _ => []) s.plIn n = [c] → s.inQ (8 + n) = [] → s.pkgEnd = none → c.ty = 2 →
    plIwinOf c.addr c.len s = some i → plIwin F.PL_IWIN_CTRL_WORLD i s = 0 → plIwin F.PL_IWIN_CTRL_RO i s = 0 →
    (c.src ^^^ plIwin F.PL_IWIN_SRC_SRC_ID i s) &&& plIwin F.PL_IWIN_SRC_SRC_MASK i s = 0 → inDram pa s = true →
    0 < c.len → c.len ≤ 64 - pa % 64 →
    Gives (.rd n (.ok pa x l)) s fun t =>
      sentSome (fun q => q.op == .rdNC && q.w == false && q.part == plIwin F.PL_IWIN_CTRL_PART i s && q.src == inAgent
        (8 + n) && q.addr == lineOf pa && q.dst == 0x100 + mcOf pa) t = true ∧
      (t.inQ (8 + n)).length = 1 ∧ smapGet (fun _ => []) t.plIn n = []) ∧
  (∀ (n : Nat) (x : Xlate) (c : PlCell) (s : State),
    smapGet (fun _ => []) s.plIn n = [c] → s.inQ (8 + n) = [] → s.pkgEnd = none → n < 8 → c.ty = 2 → 0 < c.len →
    plIwinOf c.addr c.len s = none → plRoute c.src s < 8 → c.src ≠ plSelf s →
    Gives (.rd n x) s fun t =>
      t.out = s.out ++ [.cell (plRoute c.src s) (rdRspCell c 2 0 0 s)] ∧ t.inQ (8 + n) = [] ∧ t.mem = s.mem) ∧
  (∀ (n : Nat) (x : Xlate) (s : State),
    smapGet (fun _ => []) s.plIn n = [] →
    Gives (.rd n x) s fun t => t = s) ∧
  (∀ (n : Nat) (c : PlCell) (x : PlTx) (s : State),
    smapGet (fun _ => []) s.plIn n = [c] → c.ty = 3 → s.plTx = [x] → x.rd = true → x.tag = c.tag → x.port = n →
    x.p.op = .rdIO → s.plWait = [] →
    Gives (.rdRsp n) s fun t =>
      sentSome (fun q => q.op == .dataIO && q.dst == x.p.src && q.tag == x.p.tag && q.resp == (if c.status = 0 then
        0b00#2 else if c.status = 1 then 0b01#2 else 0b10#2) && q.payload == c.data <<< (8 * (ioSpan x.p).1) &&
        q.poison == c.poison) t = true ∧
      t.plTx = []) ∧
  (∀ (n : Nat) (c : PlCell) (s : State),
    n < 8 → smapGet (fun _ => []) s.plIn n = [c] → c.ty = 3 → (s.plTx.any fun x => x.rd && x.tag == c.tag) = false →
    Gives (.rdRsp n) s fun t =>
      t.f F.PL_PORT_ERRCNT_DISCARD n = min (s.f F.PL_PORT_ERRCNT_DISCARD n + 1) 65535 ∧ t.out = s.out ∧
      smapGet (fun _ => []) t.plIn n = []) ∧
  (∀ (n g : Nat) (x : PlTx) (s : State),
    s.plTx = [x] → x.rd = true → x.tag = g → x.port = n → x.p.op = .rdIO → s.plWait = [] →
    tbMicro * max 1 (s.f F.PL_CTRL_CTO 0) ≤ (s.tb - x.t0).toNat →
    Gives (.palegReadTimeout n g) s fun t =>
      sentSome (fun q => q.op == .dataIO && q.dst == x.p.src && q.tag == x.p.tag && q.resp == 0b10#2) t = true ∧
      t.plTx = []) ∧
  (∀ (n g : Nat) (s : State),
    (s.plTx.all fun x => decide ((s.tb - x.t0).toNat < tbMicro)) = true →
    Gives (.palegReadTimeout n g) s fun t => t = s) ∧
  (∀ (n g : Nat) (s : State),
    (s.plTx.any fun x => x.rd && x.tag == g && x.port == n) = false →
    Gives (.palegReadTimeout n g) s fun t => t = s) ∧
  (∀ (a : Access) (v : Word) (s : State),
    Allowed a true .PL_MSG_TX 0 s → fget F.PL_MSG_TX_MSGTYPE v ≠ 15 →
    s.b F.PL_PORT_CFG_MODE (fget F.PL_MSG_TX_PLPORT v) = false → plState (fget F.PL_MSG_TX_PLPORT v) s = 2 →
    Gives (.msgTx a v) s fun t =>
      t.out = s.out ++ [.cell (fget F.PL_MSG_TX_PLPORT v)
        { ty := 4, w := a.world, src := plSelf s, dest := fget F.PL_MSG_TX_DEST v, addr := fget F.PL_MSG_TX_MSGTYPE v * 2 ^ 32 + fget F.PL_MSG_TX_PAYLOAD v }]) ∧
  (∀ (a : Access) (v : Word) (s : State),
    Allowed a true .PL_MSG_TX 0 s → fget F.PL_MSG_TX_MSGTYPE v ≠ 15 →
    s.b F.PL_PORT_CFG_MODE (fget F.PL_MSG_TX_PLPORT v) = false → plState (fget F.PL_MSG_TX_PLPORT v) s < 2 →
    (smapGet (fun _ => []) s.plQ (fget F.PL_MSG_TX_PLPORT v)).length < 64 →
    Gives (.msgTx a v) s fun t =>
      smapGet (fun _ => []) t.plQ (fget F.PL_MSG_TX_PLPORT v) = smapGet (fun _ => []) s.plQ (fget F.PL_MSG_TX_PLPORT
        v) ++
        [{ ty := 4, w := a.world, src := plSelf s, dest := fget F.PL_MSG_TX_DEST v, addr := fget F.PL_MSG_TX_MSGTYPE v * 2 ^ 32 + fget F.PL_MSG_TX_PAYLOAD v }]
        ∧
      t.out = s.out) ∧
  (∀ (a : Access) (v : Word) (s : State),
    Allowed a true .PL_MSG_TX 0 s → fget F.PL_MSG_TX_MSGTYPE v ≠ 15 →
    s.b F.PL_PORT_CFG_MODE (fget F.PL_MSG_TX_PLPORT v) = false → plState (fget F.PL_MSG_TX_PLPORT v) s = 3 →
    Gives (.msgTx a v) s fun t =>
      t.f F.PL_PORT_ERRCNT_DISCARD (fget F.PL_MSG_TX_PLPORT v) = min (s.f F.PL_PORT_ERRCNT_DISCARD (fget
        F.PL_MSG_TX_PLPORT v) + 1) 65535 ∧
      t.out = s.out) ∧
  (∀ (a : Access) (v : Word) (s : State),
    Allowed a true .PL_MSG_TX 0 s → fget F.PL_MSG_TX_MSGTYPE v = 15 →
    s.f F.PL_PORT_CFG_ROLE (fget F.PL_MSG_TX_PLPORT v) ≠ 2 →
    Gives (.msgTx a v) s fun t => t = { s.satInc F.PL_GSTATUS_MSG_LOST 0 with resp := t.resp }) ∧
  (∀ (n : Nat) (c : PlCell) (s : State),
    smapGet (fun _ => []) s.plIn n = [c] → c.ty = 4 → msgType c < 15 → s.f F.PL_MSG_MAP_ACTION (msgType c) = 0 →
    Gives (.msg n) s fun t =>
      t.f F.PL_GSTATUS_MSG_LOST 0 = min (s.f F.PL_GSTATUS_MSG_LOST 0 + 1) 65535 ∧ t.plRx = s.plRx ∧ t.out = s.out) ∧
  (∀ (n : Nat) (c : PlCell) (s : State),
    smapGet (fun _ => []) s.plIn n = [c] → c.ty = 4 → msgType c < 15 → s.f F.PL_MSG_MAP_ACTION (msgType c) = 1 →
    s.b F.PL_MSG_MAP_WORLD (msgType c) = false → (smapGet (fun _ => []) s.plRx 0).length < 32 →
    Gives (.msg n) s fun t =>
      smapGet (fun _ => []) t.plRx 0 = smapGet (fun _ => []) s.plRx 0 ++ [(BitVec.ofNat 64 (c.addr % 2 ^ 32 * 2 ^ 32 +
        c.src % 4096 * 2 ^ 16 + (if c.w then 256 else 0) + msgType c * 16), s.tb)] ∧
      t.out = s.out) ∧
  (∀ (n : Nat) (c : PlCell) (s : State),
    smapGet (fun _ => []) s.plIn n = [c] → c.ty = 4 → msgType c < 15 → s.f F.PL_MSG_MAP_ACTION (msgType c) = 1 →
    s.b F.PL_MSG_MAP_WORLD (msgType c) = false → 32 ≤ (smapGet (fun _ => []) s.plRx 0).length →
    Gives (.msg n) s fun t => t.b F.PL_GSTATUS_MSG_OVF 0 = true ∧ t.plRx = s.plRx) ∧
  (∀ (n : Nat) (c : PlCell) (s : State),
    smapGet (fun _ => []) s.plIn n = [c] → c.ty = 4 → msgType c < 15 → s.f F.PL_MSG_MAP_ACTION (msgType c) = 2 →
    s.b F.PL_MSG_MAP_WORLD (msgType c) = false → s.b F.PL_MSG_MAP_MACHINE (msgType c) = false →
    s.f F.PL_MSG_MAP_FILE (msgType c) = 0 →
    Gives (.msg n) s fun t =>
      t.out = s.out ++ [.imsic (s.f F.PL_MSG_MAP_HART (msgType c)) 0 (s.f F.PL_MSG_MAP_EIID (msgType c)) false 0
        (0x120 + n)]) ∧
  (∀ (n : Nat) (c : PlCell) (s : State),
    smapGet (fun _ => []) s.plIn n = [c] → c.ty = 4 → msgType c < 15 → s.f F.PL_MSG_MAP_ACTION (msgType c) = 3 →
    s.b F.PL_MSG_MAP_WORLD (msgType c) = false →
    Gives (.msg n) s fun t =>
      t.out = s.out ++ [.dmaUnblock (s.f F.PL_MSG_MAP_CHANNEL (msgType c)) (s.f F.PL_MSG_MAP_EVT (msgType c)) false 0]
        ∧
      t.plRx = s.plRx) ∧
  (∀ (n : Nat) (s : State),
    smapGet (fun _ => []) s.plIn n = [] →
    Gives (.msg n) s fun t => t = s) ∧
  (∀ (a : Access) (w : Bool) (r : Word × Word) (q : List (Word × Word)) (s : State),
    Allowed a false .PL_MSG_RX (if w then 1 else 0) s → smapGet (fun _ => []) s.plRx (if w then 1 else 0) = r :: q →
    Gives (.msgRxRead a w) s fun t =>
      t.resp = ⟨0, s.r .PL_MSG_RX (if w then 1 else 0)⟩ ∧ smapGet (fun _ => []) t.plRx (if w then 1 else 0) = q ∧
      t.r .PL_MSG_RX_TB (if w then 1 else 0) = r.2 ∧
      t.r .PL_MSG_RX (if w then 1 else 0) = (q.head?.map (·.1)).getD (~~~ 0)) ∧
  (∀ (a : Access) (w : Bool) (s : State),
    Allowed a false .PL_MSG_RX (if w then 1 else 0) s → smapGet (fun _ => []) s.plRx (if w then 1 else 0) = [] →
    Gives (.msgRxRead a w) s fun t => t.resp = ⟨0, ~~~ 0⟩ ∧ t.plRx = s.plRx) ∧
  (∀ (a : Access) (i : Nat) (v : Word) (s : State),
    Allowed a true .PL_IWIN_COMMIT 0 s → vset F.PL_IWIN_COMMIT_GO v = true → s.b F.PL_IWIN_COMMIT_OLD_BUSY 0 = false →
    plShadowOverlap s = false → i < 16 →
    Gives (.plWindowCommit a v) s fun t =>
      t.b F.PL_IWIN_COMMIT_OLD_BUSY 0 = true ∧ plIwin F.PL_IWIN_CTRL_PART i t = s.f F.PL_IWIN_CTRL_PART i ∧
      plIwin F.PL_IWIN_TARGET_VAL i t = s.f F.PL_IWIN_TARGET_VAL i ∧
      plIwin F.PL_IWIN_OFFSET_VAL i t = s.f F.PL_IWIN_OFFSET_VAL i) ∧
  (∀ (a : Access) (v : Word) (s : State),
    Allowed a true .PL_IWIN_COMMIT 0 s → vset F.PL_IWIN_COMMIT_GO v = true →
    (s.b F.PL_IWIN_COMMIT_OLD_BUSY 0 = true ∨ plShadowOverlap s = true) →
    Gives (.plWindowCommit a v) s fun t => t.b F.PL_GSTATUS_COMMIT_ERR 0 = true ∧ t.iwinCur = s.iwinCur) ∧
  (∀ (s : State),
    s.b F.PL_IWIN_COMMIT_OLD_BUSY 0 = true → ((List.range 8).any fun n => (s.inQ (8 + n)).any (·.old)) = false →
    Gives (.plOldMappingDrained) s fun t =>
      t.b F.PL_IWIN_COMMIT_OLD_BUSY 0 = false ∧ t.b F.PL_GSTATUS_WIN_DONE 0 = true) ∧
  (∀ (s : State),
    ((List.range 8).any fun n => (s.inQ (8 + n)).any (·.old)) = true →
    Gives (.plOldMappingDrained) s fun t => t = s)

/-- Test-Logic-Reset loads IDCODE; an instruction whose gate holds is loaded and does what its row says, one whose gate
does not hold loads BYPASS and sets REFUSED, and one that needs absent rails loads BYPASS alone; leaving EXTEST or CLAMP
floats the timed pins; CHAIN_SEL, IJTAG and HELM_MB act on the chain, the SIBs and the mailbox; an instruction of a die
TAP is taken only in the chain, and a test instruction only under DBG_TEST_HOLD; a change of DBG_TEST_HOLD begins an
orderly reset of a die that is ON. (R570, R571, R572, R573, R574, R575, R576, R577.) -/
def Obligations.JtagPort : Prop :=
  (∀ (s : State),
    s.aonOff = false →
    Gives (.tapReset) s fun t =>
      t.tap.ir = 0x01 ∧ t.tap.dmi = s.tap.dmi ∧ t.tap.sib = s.tap.sib ∧ t.tap.bound = s.tap.bound ∧ t.dbg = s.dbg ∧
      ((s.tap.ir ≠ 0 ∧ s.tap.ir ≠ 3) → t.pins = s.pins)) ∧
  (∀ (i : Nat) (s : State),
    s.aonOff = false → (s.tap.ir = 0x00 ∨ s.tap.ir = 0x03) → i < 64 →
    Gives (.bypass) s fun t => (t.pin i).hiz = true ∧ (t.pin i).driving = false ∧ t.tap.ir = 0xFF) ∧
  (∀ (s : State),
    s.aonOff = false →
    Gives (.bypass) s fun t => t.tap.ir = 0xFF ∧ t.tap.tdo = 0 ∧ t.b F.DBG_STATUS_TESTMODE 0 = false) ∧
  (∀ (s : State),
    s.aonOff = false →
    Gives (.idcode) s fun t => t.tap.ir = 0x01 ∧ t.tap.tdo = idWord Config.iodRev 0x0216) ∧
  (∀ (pins shift : BitVec 262) (s : State),
    s.aonOff = false → pkgRuns s = true → boundGate s = true →
    Gives (.extest pins shift) s fun t =>
      t.tap.ir = 0x00 ∧ t.tap.tdo = pins.toNat ∧ t.tap.bound = shift ∧ t.b F.DBG_STATUS_TESTMODE 0 = true) ∧
  (∀ (pins shift : BitVec 262) (s : State),
    s.aonOff = false → pkgRuns s = true → boundGate s = false →
    Gives (.extest pins shift) s fun t =>
      t.tap.ir = 0xFF ∧ t.tap.tdo = 0 ∧ t.b F.DBG_STATUS_REFUSED 0 = true ∧ t.tap.bound = s.tap.bound) ∧
  (∀ (pins shift : BitVec 262) (s : State),
    s.aonOff = false → pkgRuns s = false →
    Gives (.extest pins shift) s fun t =>
      t.tap.ir = 0xFF ∧ t.tap.bound = s.tap.bound ∧ t.b F.DBG_STATUS_REFUSED 0 = s.b F.DBG_STATUS_REFUSED 0) ∧
  (∀ (pins shift : BitVec 262) (s : State),
    s.aonOff = false → pkgRuns s = true → boundGate s = true →
    Gives (.samplePreload pins shift) s fun t =>
      t.tap.ir = 0x02 ∧ t.tap.tdo = pins.toNat ∧ t.tap.bound = shift ∧ t.b F.DBG_STATUS_TESTMODE 0 = false) ∧
  (∀ (pins shift : BitVec 262) (s : State),
    s.aonOff = false → pkgRuns s = true → boundGate s = false →
    Gives (.samplePreload pins shift) s fun t =>
      t.tap.ir = 0xFF ∧ t.tap.tdo = 0 ∧ t.b F.DBG_STATUS_REFUSED 0 = true ∧ t.tap.bound = s.tap.bound) ∧
  (∀ (pins shift : BitVec 262) (s : State),
    s.aonOff = false → pkgRuns s = false →
    Gives (.samplePreload pins shift) s fun t =>
      t.tap.ir = 0xFF ∧ t.tap.bound = s.tap.bound ∧ t.b F.DBG_STATUS_REFUSED 0 = s.b F.DBG_STATUS_REFUSED 0) ∧
  (∀ (s : State),
    s.aonOff = false → pkgRuns s = true → boundGate s = true →
    Gives (.clamp) s fun t => t.tap.ir = 0x03 ∧ t.tap.tdo = 0 ∧ t.b F.DBG_STATUS_TESTMODE 0 = true) ∧
  (∀ (s : State),
    s.aonOff = false → pkgRuns s = true → boundGate s = false →
    Gives (.clamp) s fun t =>
      t.tap.ir = 0xFF ∧ t.tap.tdo = 0 ∧ t.b F.DBG_STATUS_REFUSED 0 = true ∧ t.tap.bound = s.tap.bound) ∧
  (∀ (s : State),
    s.aonOff = false → pkgRuns s = true → boundGate s = true →
    Gives (.highz) s fun t => t.tap.ir = 0x04 ∧ t.tap.tdo = 0 ∧ t.b F.DBG_STATUS_TESTMODE 0 = true) ∧
  (∀ (s : State),
    s.aonOff = false → pkgRuns s = true → boundGate s = false →
    Gives (.highz) s fun t =>
      t.tap.ir = 0xFF ∧ t.tap.tdo = 0 ∧ t.b F.DBG_STATUS_REFUSED 0 = true ∧ t.tap.bound = s.tap.bound) ∧
  (∀ (s : State),
    s.aonOff = false → pkgRuns s = true →
    Gives (.dbgStatus) s fun t => t.tap.ir = 0x23 ∧ t.tap.tdo = (t.r .DBG_STATUS 0).toNat) ∧
  (∀ (v : Nat) (s : State),
    s.aonOff = false → pkgRuns s = true →
    Gives (.dtmcs v) s fun t =>
      t.tap.ir = 0x10 ∧ t.tap.tdo = 0x71 ∧ t.tap.dmi = (if v.testBit 16 || v.testBit 17 then 0 else s.tap.dmi)) ∧
  (∀ (d : Nat) (s : State),
    s.aonOff = false → pkgRuns s = true → (effNI false s || effNI true s) = true →
    Gives (.chainSel d) s fun t =>
      t.tap.ir = 0x20 ∧ t.tap.tdo = s.f F.DBG_STATUS_CHAIN 0 ∧
      ((List.range 12).all fun n => t.fbit F.DBG_STATUS_CHAIN 0 n == (d.testBit n && dieOn n s)) = true) ∧
  (∀ (d : Nat) (s : State),
    s.aonOff = false → pkgRuns s = true → (effNI false s || effNI true s) = false →
    Gives (.chainSel d) s fun t =>
      t.tap.ir = 0xFF ∧ t.tap.tdo = 0 ∧ t.b F.DBG_STATUS_REFUSED 0 = true ∧ t.tap.bound = s.tap.bound ∧
      t.f F.DBG_STATUS_CHAIN 0 = s.f F.DBG_STATUS_CHAIN 0) ∧
  (∀ (v : Nat) (s : State),
    s.aonOff = false → pkgRuns s = true → s.tap.sib = 0 →
    Gives (.ijtag v) s fun t =>
      t.tap.ir = 0x21 ∧ t.tap.tdo = 0 ∧ t.tap.sib = sibMask v s ∧
      (t.tap.sib).testBit 5 = (v.testBit 5 && s.b F.HELM_STATUS_HELM_DBG 0)) ∧
  (∀ (v : Word) (s : State),
    s.aonOff = false → s.b F.HELM_MB_STATUS_BUSY 4 = false → s.b F.HELM_MB_STATUS_DONE 4 = false → s.tap.hmWr < 134 →
    Gives (.helmMb false v) s fun t =>
      t.tap.ir = 0x22 ∧ t.tap.tdo = 0 ∧ t.r .HELM_MB_REQ (4 * 134 + s.tap.hmWr) = v ∧ t.tap.hmWr = s.tap.hmWr + 1) ∧
  (∀ (v : Word) (s : State),
    s.aonOff = false → s.b F.HELM_MB_STATUS_BUSY 4 = false → s.b F.HELM_MB_STATUS_DONE 4 = false →
    s.helm.holding = true → s.helm.cur = none →
    Gives (.helmMb true v) s fun t =>
      t.b F.HELM_MB_STATUS_BUSY 4 = true ∧ t.b F.HELM_MB_STATUS_PENDING 4 = true ∧
      smapGet (fun _ => 0) t.helm.lens 4 = 8 * s.tap.hmWr ∧ t.helm.locked.contains 4 = true ∧ t.tap.hmWr = 0) ∧
  (∀ (submit : Bool) (v : Word) (s : State),
    s.aonOff = false → s.b F.HELM_MB_STATUS_DONE 4 = true → s.b F.HELM_MB_STATUS_BUSY 4 = false → submit = false →
    s.f F.HELM_MB_STATUS_RSP_LEN 4 ≤ 8 * (s.tap.hmRd + 1) → s.tap.hmRd < 134 →
    Gives (.helmMb submit v) s fun t =>
      t.tap.tdo = (s.r .HELM_MB_RSP (4 * 134 + s.tap.hmRd)).toNat + 2 ^ 64 ∧ t.tap.hmRd = 0 ∧
      t.b F.HELM_MB_STATUS_DONE 4 = false) ∧
  (∀ (n : Nat) (s : State),
    s.aonOff = false → pkgRuns s = true → n < 12 → s.fbit F.DBG_STATUS_CHAIN 0 n = true → testGate n s = true →
    Gives (.wextest n) s fun t =>
      smapGet (fun _ => 0x01) t.tap.dieIr n = 0x00 ∧ t.fresh = s.fresh + 1 ∧ t.tap.ir = s.tap.ir) ∧
  (∀ (n : Nat) (s : State),
    s.aonOff = false → pkgRuns s = true → n < 12 → s.fbit F.DBG_STATUS_CHAIN 0 n = true → testGate n s = false →
    Gives (.wextest n) s fun t =>
      smapGet (fun _ => 0x01) t.tap.dieIr n = 0x3F ∧ t.tap.tdo = 0 ∧ t.b F.DBG_STATUS_REFUSED 0 = true) ∧
  (∀ (n : Nat) (s : State),
    s.aonOff = false → pkgRuns s = true → n < 12 → s.fbit F.DBG_STATUS_CHAIN 0 n = true → testGate n s = true →
    Gives (.wintest n) s fun t =>
      smapGet (fun _ => 0x01) t.tap.dieIr n = 0x02 ∧ t.fresh = s.fresh + 1 ∧ t.tap.ir = s.tap.ir) ∧
  (∀ (n : Nat) (s : State),
    s.aonOff = false → pkgRuns s = true → n < 12 → s.fbit F.DBG_STATUS_CHAIN 0 n = true → testGate n s = false →
    Gives (.wintest n) s fun t =>
      smapGet (fun _ => 0x01) t.tap.dieIr n = 0x3F ∧ t.tap.tdo = 0 ∧ t.b F.DBG_STATUS_REFUSED 0 = true) ∧
  (∀ (n : Nat) (s : State),
    s.aonOff = false → pkgRuns s = true → n < 12 → s.fbit F.DBG_STATUS_CHAIN 0 n = true → testGate n s = true →
    Gives (.scan n) s fun t =>
      smapGet (fun _ => 0x01) t.tap.dieIr n = 0x03 ∧ t.fresh = s.fresh + 1 ∧ t.tap.ir = s.tap.ir) ∧
  (∀ (n : Nat) (s : State),
    s.aonOff = false → pkgRuns s = true → n < 12 → s.fbit F.DBG_STATUS_CHAIN 0 n = true → testGate n s = false →
    Gives (.scan n) s fun t =>
      smapGet (fun _ => 0x01) t.tap.dieIr n = 0x3F ∧ t.tap.tdo = 0 ∧ t.b F.DBG_STATUS_REFUSED 0 = true) ∧
  (∀ (n : Nat) (s : State),
    s.aonOff = false → pkgRuns s = true → n < 12 → s.fbit F.DBG_STATUS_CHAIN 0 n = true → testGate n s = true →
    Gives (.mbist n) s fun t =>
      smapGet (fun _ => 0x01) t.tap.dieIr n = 0x04 ∧ t.fresh = s.fresh + 1 ∧ t.tap.ir = s.tap.ir) ∧
  (∀ (n : Nat) (s : State),
    s.aonOff = false → pkgRuns s = true → n < 12 → s.fbit F.DBG_STATUS_CHAIN 0 n = true → testGate n s = false →
    Gives (.mbist n) s fun t =>
      smapGet (fun _ => 0x01) t.tap.dieIr n = 0x3F ∧ t.tap.tdo = 0 ∧ t.b F.DBG_STATUS_REFUSED 0 = true) ∧
  (∀ (n : Nat) (s : State),
    s.aonOff = false → pkgRuns s = true → n < 12 → s.fbit F.DBG_STATUS_CHAIN 0 n = true →
    Gives (.dieIdcode n) s fun t =>
      smapGet (fun _ => 0x01) t.tap.dieIr n = 0x01 ∧ t.tap.tdo = idWord (Config.dieRev n) 0x0C16 ∧
      t.tap.ir = s.tap.ir) ∧
  (∀ (n : Nat) (s : State),
    s.aonOff = false → pkgRuns s = true → n < 12 → s.fbit F.DBG_STATUS_CHAIN 0 n = true →
    Gives (.dieBypass n) s fun t =>
      smapGet (fun _ => 0x01) t.tap.dieIr n = 0x3F ∧ t.tap.tdo = 0 ∧ t.tap.ir = s.tap.ir) ∧
  (∀ (n : Nat) (s : State),
    s.fbit F.DBG_STATUS_CHAIN 0 n = false →
    Gives (.wextest n) s fun t => t = s) ∧
  (∀ (n : Nat) (s : State),
    s.fbit F.DBG_STATUS_CHAIN 0 n = false →
    Gives (.dieIdcode n) s fun t => t = s) ∧
  (∀ (n : Nat) (s : State),
    s.fbit F.DBG_STATUS_CHAIN 0 n = false →
    Gives (.wintest n) s fun t => t = s) ∧
  (∀ (n : Nat) (s : State),
    s.fbit F.DBG_STATUS_CHAIN 0 n = false →
    Gives (.scan n) s fun t => t = s) ∧
  (∀ (n : Nat) (s : State),
    s.fbit F.DBG_STATUS_CHAIN 0 n = false →
    Gives (.mbist n) s fun t => t = s) ∧
  (∀ (n : Nat) (s : State),
    s.fbit F.DBG_STATUS_CHAIN 0 n = false →
    Gives (.dieBypass n) s fun t => t = s) ∧
  (∀ (a : Access) (v : Word) (n : Nat) (s : State),
    Allowed a true .DBG_TEST_HOLD 0 s → s.pkgEnd = none → n < 12 → smapGet (fun _ => none) s.dieTrans n = none →
    ((List.range 12).all fun m => m == n || v.getLsbD m == s.fbit F.DBG_TEST_HOLD_VAL 0 m) = true →
    v.getLsbD n ≠ s.fbit F.DBG_TEST_HOLD_VAL 0 n → s.f F.PWR_DIE_STATE n = 2 →
    Gives (.dbgTestHold a v) s fun t =>
      t.fbit F.DBG_TEST_HOLD_VAL 0 n = v.getLsbD n ∧ t.f F.PWR_DIE_STATE n = 3 ∧
      (smapGet (fun _ => none) t.dieTrans n).any (·.kind = 4) = true) ∧
  (∀ (a : Access) (v : Word) (n : Nat) (s : State),
    Allowed a true .DBG_TEST_HOLD 0 s → s.pkgEnd = none → n < 12 → smapGet (fun _ => none) s.dieTrans n = none →
    ((List.range 12).all fun m => m == n || v.getLsbD m == s.fbit F.DBG_TEST_HOLD_VAL 0 m) = true →
    v.getLsbD n ≠ s.fbit F.DBG_TEST_HOLD_VAL 0 n → s.f F.PWR_DIE_STATE n = 0 →
    Gives (.dbgTestHold a v) s fun t =>
      t.fbit F.DBG_TEST_HOLD_VAL 0 n = v.getLsbD n ∧ t.f F.PWR_DIE_STATE n = 0 ∧ t.dieTrans = s.dieTrans) ∧
  (∀ (a : Access) (v : Word) (n : Nat) (s : State),
    Allowed a true .DBG_TEST_HOLD 0 s → n < 12 → (smapGet (fun _ => none) s.dieTrans n).isSome = true →
    ((List.range 12).all fun m => m == n || v.getLsbD m == s.fbit F.DBG_TEST_HOLD_VAL 0 m) = true →
    v.getLsbD n = true →
    Gives (.dbgTestHold a v) s fun t =>
      t.fbit F.DBG_TEST_HOLD_VAL 0 n = s.fbit F.DBG_TEST_HOLD_VAL 0 n ∧ t.dieTrans = s.dieTrans)

/-- A halt request of a hart whose world the enable admits halts it between two instructions with its pc and mode saved,
and is held otherwise; a resume restores them; an abstract command answers its error, is held, or reads or writes a
general register; a DMI access shifts out the last result and reads or writes a register of the module; a bus access
opens one request and a second one is busy; four trace records are written to DRAM; a read of the trace buffer moves
RDPTR. (R391, R578, R579, R580.) -/
def Obligations.DebugModule : Prop :=
  (∀ (h : Nat) (s : State),
    hartExists h s = true → (s.hart h).halted = false →
    ((List.range 8).all fun k => (s.hart h).c (0x1000 + k) == 0xF000000000000000) = true → (s.hart h).st = .run →
    (s.hart h).stall = .none → (s.hart h).loads = [] → (s.hart h).trap = none → (s.hart h).start = none →
    dieOn (hartDie h s) s = true → effI (s.hart h).w s = true →
    Gives (.haltRequest h) s fun t =>
      (t.hart h).halted = true ∧ (t.hart h).haltReq = false ∧ (t.hart h).c 0x7B1 = (s.hart h).pc ∧
      bits ((t.hart h).c 0x7B0) 1 0 = (s.hart h).priv % 4 ∧ bits ((t.hart h).c 0x7B0) 8 6 = 3 ∧ t.regs = s.regs ∧
      t.mem = s.mem) ∧
  (∀ (h : Nat) (s : State),
    hartExists h s = true → (s.hart h).halted = false →
    ((List.range 8).all fun k => (s.hart h).c (0x1000 + k) == 0xF000000000000000) = true → (s.hart h).st = .run →
    (s.hart h).stall = .none → (s.hart h).loads = [] → (s.hart h).trap = none → (s.hart h).start = none →
    dieOn (hartDie h s) s = true → effI (s.hart h).w s = false →
    Gives (.haltRequest h) s fun t => t = s.onHart h fun t => { t with haltReq := true }) ∧
  (∀ (h : Nat) (s : State),
    (hartExists h s = false ∨ (s.hart h).halted = true) →
    Gives (.haltRequest h) s fun t => t = s) ∧
  (∀ (h : Nat) (s : State),
    hartExists h s = true → (s.hart h).halted = true →
    Gives (.resumeRequest h) s fun t =>
      (t.hart h).halted = false ∧ (t.hart h).pc = (s.hart h).c 0x7B1 ∧
      (t.hart h).priv = bits ((s.hart h).c 0x7B0) 1 0 ∧ t.dbg.resumeAck.testBit h = true) ∧
  (∀ (h : Nat) (s : State),
    (hartExists h s = false ∨ (s.hart h).halted = false) →
    Gives (.resumeRequest h) s fun t => t = s) ∧
  (∀ (c : Nat) (l : List (Nat × Word)) (fails : Bool) (s : State),
    s.dbg.held.isSome = true → s.dbg.cmderr = 0 →
    Gives (.abstractCommand c l fails) s fun t => t.dbg.cmderr = 1 ∧ t.dbg.held = s.dbg.held ∧ t.harts = s.harts) ∧
  (∀ (c : Nat) (l : List (Nat × Word)) (fails : Bool) (s : State),
    s.dbg.held = none → s.dbg.cmderr = 0 → c / 2 ^ 24 ≠ 0 →
    Gives (.abstractCommand c l fails) s fun t => t.dbg.cmderr = 2 ∧ t.harts = s.harts) ∧
  (∀ (c : Nat) (l : List (Nat × Word)) (fails : Bool) (s : State),
    s.dbg.held = none → s.dbg.cmderr = 0 → c / 2 ^ 24 = 0 → c.testBit 19 = false → c / 2 ^ 20 % 8 = 3 →
    (hartExists s.dbg.hartsel s = false ∨ (s.hart s.dbg.hartsel).halted = false) →
    Gives (.abstractCommand c l fails) s fun t => t.dbg.cmderr = 4 ∧ t.harts = s.harts) ∧
  (∀ (c : Nat) (l : List (Nat × Word)) (fails : Bool) (s : State),
    s.dbg.held = none → s.dbg.cmderr = 0 → c / 2 ^ 24 = 0 → c.testBit 19 = false → c / 2 ^ 20 % 8 = 3 →
    hartExists s.dbg.hartsel s = true → (s.hart s.dbg.hartsel).halted = true →
    effI (s.hart s.dbg.hartsel).w s = false →
    Gives (.abstractCommand c l fails) s fun t => t.dbg.held = some c ∧ t.harts = s.harts ∧ t.dbg.cmderr = 0) ∧
  (∀ (c : Nat) (l : List (Nat × Word)) (fails : Bool) (k : Nat) (s : State),
    s.dbg.held = none → s.dbg.cmderr = 0 → c / 2 ^ 24 = 0 → c.testBit 19 = false → c / 2 ^ 20 % 8 = 3 →
    c.testBit 17 = true → c.testBit 18 = false → c % 65536 = 0x1000 + k → 1 ≤ k → k < 32 →
    hartExists s.dbg.hartsel s = true → (s.hart s.dbg.hartsel).halted = true →
    effI (s.hart s.dbg.hartsel).w s = true →
    Gives (.abstractCommand c l fails) s fun t =>
      (c.testBit 16 = true → (t.hart s.dbg.hartsel).getX k = BitVec.ofNat 64 s.dbg.data ∧ t.dbg = s.dbg) ∧
      (c.testBit 16 = false → t.dbg.data = ((s.hart s.dbg.hartsel).getX k).toNat ∧ t.harts = s.harts) ∧
      t.dbg.cmderr = 0) ∧
  (∀ (v : Nat) (s : State),
    s.aonOff = false → pkgRuns s = true → dmAuth s = true → s.dbg.active = true →
    Gives (.dmi 4 v 1) s fun t =>
      t.tap.ir = 0x11 ∧ t.tap.tdo = s.tap.dmi ∧ t.tap.dmi = 4 * 2 ^ 34 + s.dbg.data % 2 ^ 32 * 4 ∧ t.dbg = s.dbg) ∧
  (∀ (v : Nat) (s : State),
    s.aonOff = false → pkgRuns s = true → dmAuth s = true → s.dbg.active = true →
    Gives (.dmi 4 v 2) s fun t =>
      t.tap.ir = 0x11 ∧ t.tap.tdo = s.tap.dmi ∧ t.dbg.data = s.dbg.data / 2 ^ 32 * 2 ^ 32 + v % 2 ^ 32 ∧
      t.tap.dmi = 4 * 2 ^ 34 + v % 2 ^ 32 * 4) ∧
  (∀ (x v : Nat) (s : State),
    s.aonOff = false → pkgRuns s = true →
    Gives (.dmi x v 0) s fun t =>
      t.tap.ir = 0x11 ∧ t.tap.tdo = s.tap.dmi ∧ t.tap.dmi = s.tap.dmi ∧ t.dbg = s.dbg ∧ t.harts = s.harts) ∧
  (∀ (x v o : Nat) (s : State),
    s.aonOff = false → pkgRuns s = true → dmAuth s = false → x % 128 ≠ 0x10 →
    Gives (.dmi x v o) s fun t =>
      t.dbg = s.dbg ∧ t.harts = s.harts ∧ t.out = s.out ∧ (x % 128 ≠ 0x11 ∧ o = 1 → t.tap.dmi = x % 128 * 2 ^ 34)) ∧
  (∀ (v : Nat) (s : State),
    s.aonOff = false → pkgRuns s = true → v % 2 = 0 → v < 2 ^ 32 →
    Gives (.dmi 0x10 v 2) s fun t => t.dbg = { haveReset := s.dbg.haveReset } ∧ t.harts = s.harts) ∧
  (∀ (wr : Bool) (x z : Nat) (v : Word) (s : State),
    s.dbg.sbBusy = false → s.dbg.sbErr = 0 → s.dbg.sbBusyErr = false → dmAuth s = true → z ≤ 3 → x < 2 ^ 48 →
    x % 2 ^ z = 0 → inDram x s = true →
    Gives (.systemBusAccess wr x z v) s fun t =>
      sentSome (fun q => q.op == (if wr then .wrNC else .rdNC) && q.src == 0x151 && q.dst == 0x100 + mcOf x && q.addr
        == lineOf x && q.w == effI true s && q.part == 0 && (!wr || q.mask == byteMask (x % 64) (2 ^ z))) t = true ∧
      t.dbg.sbBusy = true ∧ t.dbg.sbAddr = x ∧ t.mem = s.mem) ∧
  (∀ (wr : Bool) (x z : Nat) (v : Word) (s : State),
    s.dbg.sbBusy = true →
    Gives (.systemBusAccess wr x z v) s fun t => t = s.onDbg fun d => { d with sbBusyErr := true }) ∧
  (∀ (wr : Bool) (x z : Nat) (v : Word) (s : State),
    s.dbg.sbBusy = false → s.dbg.sbErr = 0 → s.dbg.sbBusyErr = false → dmAuth s = true → 3 < z →
    Gives (.systemBusAccess wr x z v) s fun t => t.dbg.sbErr = 4 ∧ t.out = s.out ∧ t.mem = s.mem) ∧
  (∀ (wr : Bool) (x z : Nat) (v : Word) (s : State),
    s.dbg.sbBusy = false → s.dbg.sbErr = 0 → s.dbg.sbBusyErr = false → dmAuth s = true → z ≤ 3 → x < 2 ^ 48 →
    x % 2 ^ z ≠ 0 →
    Gives (.systemBusAccess wr x z v) s fun t => t.dbg.sbErr = 3 ∧ t.out = s.out ∧ t.mem = s.mem) ∧
  (∀ (n : Nat) (s : State),
    n < 12 → 4 ≤ (smapGet (fun _ => []) s.ctrFifo n).length → s.b F.CTR_CTRL_DEST n = true →
    s.b F.CTR_CTRL_FULL n = false → s.b F.CTR_CTRL_ERR n = false →
    (s.coreTrace.any fun x => x.1 / 20 == n && !x.2.stage.isEmpty) = false →
    s.f F.CTR_BASE_VAL n + s.f F.CTR_PTR_WRPTR n < s.f F.CTR_LIMIT_VAL n →
    Gives (.coreTraceWrite n) s fun t =>
      sentSome (fun q => q.op == .wrNC && q.src == 0xF0 + n && q.dst == 0x100 + mcOf ((s.f F.CTR_BASE_VAL n + s.f
        F.CTR_PTR_WRPTR n) * 64) && q.addr == ((s.f F.CTR_BASE_VAL n + s.f F.CTR_PTR_WRPTR n) * 64) && q.payload ==
        ctrLine ((smapGet (fun _ => []) s.ctrFifo n).take 4)) t = true ∧
      smapGet (fun _ => []) t.ctrFifo n = (smapGet (fun _ => []) s.ctrFifo n).drop 4 ∧
      t.f F.CTR_PTR_WRPTR n = (s.f F.CTR_PTR_WRPTR n + 1) % 65536) ∧
  (∀ (n : Nat) (s : State),
    n < 12 → 4 ≤ (smapGet (fun _ => []) s.ctrFifo n).length → s.b F.CTR_CTRL_DEST n = true →
    s.b F.CTR_CTRL_FULL n = false → s.b F.CTR_CTRL_ERR n = false →
    (s.coreTrace.any fun x => x.1 / 20 == n && !x.2.stage.isEmpty) = false →
    s.f F.CTR_LIMIT_VAL n ≤ s.f F.CTR_BASE_VAL n + s.f F.CTR_PTR_WRPTR n →
    Gives (.coreTraceWrite n) s fun t =>
      sentSome (fun q => q.op == .wrNC && q.src == 0xF0 + n && q.dst == 0x100 + mcOf ((s.f F.CTR_BASE_VAL n + s.f
        F.CTR_PTR_WRPTR n) * 64) && q.addr == ((s.f F.CTR_BASE_VAL n + s.f F.CTR_PTR_WRPTR n) * 64) && q.payload ==
        ctrLine ((smapGet (fun _ => []) s.ctrFifo n).take 4)) t = true ∧
      smapGet (fun _ => []) t.ctrFifo n = (smapGet (fun _ => []) s.ctrFifo n).drop 4 ∧ t.f F.CTR_PTR_WRPTR n = 0 ∧
      t.b F.CTR_CTRL_FULL n = !s.b F.CTR_CTRL_WRAP n) ∧
  (∀ (n : Nat) (s : State),
    s.b F.CTR_CTRL_FULL n = true →
    Gives (.coreTraceWrite n) s fun t => t = s) ∧
  (∀ (a : Access) (n : Nat) (s : State),
    n < 12 → Allowed a false .CTR_BUF_DATA n s →
    Gives (.ctrBufRead a n) s fun t =>
      t.resp =
        ⟨0, if s.f F.CTR_PTR_RDPTR n / 8 % 2 = 0 then (smapGet (fun _ => (0, 0)) s.ctrBuf (n * 2048 + s.f F.CTR_PTR_RDPTR n / 16 % 2048)).1 else (smapGet (fun _ => (0, 0)) s.ctrBuf (n * 2048 + s.f F.CTR_PTR_RDPTR n / 16 % 2048)).2⟩
        ∧
      t.f F.CTR_PTR_RDPTR n = (s.f F.CTR_PTR_RDPTR n + 8) % 32768 ∧ t.ctrBuf = s.ctrBuf)

/-- A write of PHE_PORT_CMD(n) that sets more than one of RESTART, FORCE_HOLDOVER and RESYNC is the command of the
highest of these bits alone: RESTART before FORCE_HOLDOVER, FORCE_HOLDOVER before RESYNC. (R600.) -/
def Obligations.PortCommandPriority : Prop :=
  ∀ (a : Access) (n : Nat) (v : Word) (s : State), n < 8 →
    (bit v 2 = true → exec (.registerWrite a (Reg.addr .PHE_PORT_CMD n) 8 v) s = exec (.restart a n) s) ∧
    (bit v 2 = false → bit v 1 = true →
      exec (.registerWrite a (Reg.addr .PHE_PORT_CMD n) 8 v) s = exec (.forceHoldover a n) s) ∧
    (bit v 2 = false → bit v 1 = false → bit v 0 = true →
      exec (.registerWrite a (Reg.addr .PHE_PORT_CMD n) 8 v) s = exec (.resync a n) s)

/-- In M-mode mvendorid reads 0, marchid reads 0x8000000000000216, mimpid reads the compute die revision in bits 3:0 and
0 above, and mhartid reads the hart ID: rd takes the value and the pc moves past the instruction. (R97.) -/
def Obligations.MachineIdRegisters : Prop :=
  (∀ (i : Issue) (op : Nat) (v : Word) (rd : Nat) (s : State),
    canSettle i s = true → (s.hart i.hart).priv = 3 →
    Gives (.csrAccess i 0xF11 op v false rd) s fun t =>
      (rd ≠ 0 → rd < 32 → (t.hart i.hart).getX rd = 0) ∧ Moved i t) ∧
  (∀ (i : Issue) (op : Nat) (v : Word) (rd : Nat) (s : State),
    canSettle i s = true → (s.hart i.hart).priv = 3 →
    Gives (.csrAccess i 0xF12 op v false rd) s fun t =>
      (rd ≠ 0 → rd < 32 → (t.hart i.hart).getX rd = 0x8000000000000216#64) ∧ Moved i t) ∧
  (∀ (i : Issue) (op : Nat) (v : Word) (rd : Nat) (s : State),
    canSettle i s = true → (s.hart i.hart).priv = 3 →
    Gives (.csrAccess i 0xF13 op v false rd) s fun t =>
      (rd ≠ 0 → rd < 32 → (t.hart i.hart).getX rd = BitVec.ofNat 64 (Config.dieRev (hartDie i.hart s)).toNat) ∧
      Moved i t) ∧
  (∀ (i : Issue) (op : Nat) (v : Word) (rd : Nat) (s : State),
    canSettle i s = true → (s.hart i.hart).priv = 3 →
    Gives (.csrAccess i 0xF14 op v false rd) s fun t =>
      (rd ≠ 0 → rd < 32 → (t.hart i.hart).getX rd = BitVec.ofNat 64 i.hart) ∧ Moved i t)

/-- Every access to the CDn space of a die that is not ON, a write, an I/O request or a command of one of its registers,
is answered with RESP = 0b10 and changes nothing on the die. (R34.) -/
def Obligations.DieRegistersWhileDown : Prop :=
  (∀ (a : Access) (n o size : Nat) (v : Word) (s : State),
    n < 12 → dieOn n s = false → o < 0x100000000 →
    Gives (.registerWrite a (0xFF2000000000 + n * 0x100000000 + o) size v) s fun t => t = s.answerErr 0b10#2) ∧
  (∀ (p : Packet) (n : Nat) (s : State),
    n < 12 → dieOn n s = false → ioTarget (p.addr + (ioSpan { p with op := .rdIO }).1) s = .die n → s.out = [] →
    Gives (.rdIO p) s fun t =>
      sentSome (fun q => q.op == .dataIO && q.dst == p.src && q.tag == p.tag && q.resp == 0b10#2 && q.payload == 0) t
        = true ∧
      regsBut [.FAB_EPOCH] t = regsBut [.FAB_EPOCH] s ∧ t.harts = s.harts ∧ t.l2 = s.l2 ∧ t.l3 = s.l3 ∧
      t.ranges = s.ranges) ∧
  (∀ (p : Packet) (n : Nat) (s : State),
    n < 12 → dieOn n s = false → ioTarget (p.addr + (ioSpan { p with op := .wrIO }).1) s = .die n → s.out = [] →
    Gives (.wrIO p) s fun t =>
      sentSome (fun q => q.op == .cmpIO && q.dst == p.src && q.tag == p.tag && q.resp == 0b10#2 && q.payload == 0) t =
        true ∧
      regsBut [.FAB_EPOCH] t = regsBut [.FAB_EPOCH] s ∧ t.harts = s.harts ∧ t.l2 = s.l2 ∧ t.l3 = s.l3 ∧
      t.ranges = s.ranges) ∧
  (∀ (a : Access) (e : Nat) (s : State),
    e < 252 → dieOn (engDie e) s = false →
    Gives (.rangeClean a e) s fun t => t = s.answerErr 0b10#2) ∧
  (∀ (a : Access) (e : Nat) (s : State),
    e < 252 → dieOn (engDie e) s = false →
    Gives (.rangeInval a e) s fun t => t = s.answerErr 0b10#2) ∧
  (∀ (a : Access) (e : Nat) (s : State),
    e < 252 → dieOn (engDie e) s = false →
    Gives (.rangeCleanInval a e) s fun t => t = s.answerErr 0b10#2) ∧
  (∀ (a : Access) (e : Nat) (s : State),
    e < 252 → dieOn (engDie e) s = false →
    Gives (.rangePreload a e) s fun t => t = s.answerErr 0b10#2) ∧
  (∀ (a : Access) (np : Nat) (v : Word) (s : State),
    np < 240 → dieOn (np / 20) s = false →
    Gives (.cacheDisable a np v) s fun t => t = s.answerErr 0b10#2) ∧
  (∀ (a : Access) (np : Nat) (v : Word) (s : State),
    np < 240 → dieOn (np / 20) s = false →
    Gives (.cacheEnable a np v) s fun t => t = s.answerErr 0b10#2) ∧
  (∀ (a : Access) (l3 : Bool) (k : Nat) (v : Word) (s : State),
    dieOn (if l3 then k / 4 else k / 40) s = false →
    Gives (.lockRangeWrite a l3 k v) s fun t => t = s.answerErr 0b10#2)

/-- A read of BAT_BUF_DATA(d) that the checks admit returns the word at RDPTR and advances RDPTR by 8 bytes around the
buffer; an Open read of a record whose flit had W = 1 returns 0 while the Secure non-invasive debug enable is 0; the
record stays. (R300.) -/
def Obligations.TraceBufferReads : Prop :=
  (∀ (a : Access) (d : Nat) (s : State),
    d < 13 → Allowed a false .BAT_BUF_DATA d s →
    Gives (.batBufRead a d) s fun t =>
      t.resp.code = 0 ∧
      t.resp.data = (if a.world = false ∧ bit (batRecordAt d s).w2 61 = true ∧ effSNI s = false then 0 else batWordAt
        d s) ∧
      t.f F.BAT_TRACE_PTR_RDPTR d = (s.f F.BAT_TRACE_PTR_RDPTR d + 8) % (32 * batBufSize d) ∧ t.batBuf = s.batBuf)

/-- A read of TIO_CAP_TB(i) that the checks admit returns the timebase of the oldest record, loads its phase into
TIO_CAP_PHASE(i) and removes the record; of an empty FIFO it returns all ones and leaves TIO_CAP_PHASE(i). (R93.) -/
def Obligations.CaptureReads : Prop :=
  (∀ (a : Access) (k : Nat) (tb ph : Word) (rest : List (Word × Word)) (s : State),
    Allowed a false .TIO_CAP_TB k s → (s.pin k).fifo = (tb, ph) :: rest →
    Gives (.capTbRead a k) s fun t => t.resp = ⟨0, tb⟩ ∧ t.r .TIO_CAP_PHASE k = ph ∧ (t.pin k).fifo = rest) ∧
  (∀ (a : Access) (k : Nat) (s : State),
    Allowed a false .TIO_CAP_TB k s → (s.pin k).fifo = [] →
    Gives (.capTbRead a k) s fun t =>
      t.resp = ⟨0, 0xFFFFFFFFFFFFFFFF#64⟩ ∧ t.r .TIO_CAP_PHASE k = s.r .TIO_CAP_PHASE k)

/-- An instruction of one hart leaves the registers, pc, mode, world, CSRs and trap of every other hart, and of its own
hart every register that is not its destination, the mode, the world and the CSRs that its rule does not name; the
counters of R100 count as they may. (R97, R100, R105, R113, R133, R145, R202.) -/
def Obligations.InstructionFrames : Prop :=
  (∀ (i : Issue) (addr op : Nat) (v : Word) (wr : Bool) (rd : Nat) (s : State),
    Gives (.csrAccess i addr op v wr rd) s fun t =>
      OthersKept i.hart s t ∧ (∀ r, r ≠ rd → (t.hart i.hart).getX r = (s.hart i.hart).getX r) ∧
      (t.hart i.hart).priv = (s.hart i.hart).priv ∧ (t.hart i.hart).virt = (s.hart i.hart).virt ∧
      (t.hart i.hart).w = (s.hart i.hart).w ∧ VecKept (s.hart i.hart) (t.hart i.hart)) ∧
  (∀ (i : Issue) (v : Word) (rd : Nat) (s : State),
    Gives (.mzdcfgWrite i v rd) s fun t =>
      OthersKept i.hart s t ∧ (∀ r, r ≠ rd → (t.hart i.hart).getX r = (s.hart i.hart).getX r) ∧
      (t.hart i.hart).priv = (s.hart i.hart).priv ∧ (t.hart i.hart).virt = (s.hart i.hart).virt ∧
      (t.hart i.hart).w = (s.hart i.hart).w ∧ VecKept (s.hart i.hart) (t.hart i.hart)) ∧
  (∀ (i : Issue) (v : Word) (rd : Nat) (s : State),
    Gives (.szdtdbaseWrite i v rd) s fun t =>
      OthersKept i.hart s t ∧ (∀ r, r ≠ rd → (t.hart i.hart).getX r = (s.hart i.hart).getX r) ∧
      (t.hart i.hart).priv = (s.hart i.hart).priv ∧ (t.hart i.hart).virt = (s.hart i.hart).virt ∧
      (t.hart i.hart).w = (s.hart i.hart).w ∧ VecKept (s.hart i.hart) (t.hart i.hart)) ∧
  (∀ (i : Issue) (rd : Nat) (sg : Bool) (as : List MemAcc) (lmul : Nat) (ce : Option CacheErr) (s : State),
    (s.hart i.hart).loads = [] →
    Gives (.load i (.x rd sg) as lmul ce) s fun t =>
      OthersKept i.hart s t ∧ Kept [rd] [] (s.hart i.hart) (t.hart i.hart) ∧ VecKept (s.hart i.hart) (t.hart i.hart)) ∧
  (∀ (i : Issue) (rd : Nat) (as : List MemAcc) (lmul : Nat) (ce : Option CacheErr) (s : State),
    (s.hart i.hart).loads = [] →
    Gives (.load i (.f rd) as lmul ce) s fun t =>
      OthersKept i.hart s t ∧ Kept [] [] (s.hart i.hart) (t.hart i.hart) ∧ (t.hart i.hart).v = (s.hart i.hart).v) ∧
  (∀ (i : Issue) (rd : Nat) (as : List MemAcc) (lmul : Nat) (ce : Option CacheErr) (s : State),
    (s.hart i.hart).loads = [] →
    Gives (.load i (.pair rd) as lmul ce) s fun t =>
      OthersKept i.hart s t ∧ Kept [rd, rd + 1] [] (s.hart i.hart) (t.hart i.hart) ∧
      VecKept (s.hart i.hart) (t.hart i.hart)) ∧
  (∀ (i : Issue) (es : List (Nat × Nat)) (as : List MemAcc) (lmul : Nat) (ce : Option CacheErr) (s : State),
    (s.hart i.hart).loads = [] →
    Gives (.load i (.v es) as lmul ce) s fun t =>
      OthersKept i.hart s t ∧ Kept [] [8] (s.hart i.hart) (t.hart i.hart) ∧ (t.hart i.hart).f = (s.hart i.hart).f) ∧
  (∀ (i : Issue) (op rd : Nat) (a : MemAcc) (v : Word) (s : State),
    Gives (.amo i op rd a v) s fun t =>
      OthersKept i.hart s t ∧ Kept [rd] [] (s.hart i.hart) (t.hart i.hart) ∧ VecKept (s.hart i.hart) (t.hart i.hart)) ∧
  (∀ (i : Issue) (rd : Nat) (a : MemAcc) (s : State),
    Gives (.lr i rd a) s fun t =>
      OthersKept i.hart s t ∧ Kept [rd] [] (s.hart i.hart) (t.hart i.hart) ∧ VecKept (s.hart i.hart) (t.hart i.hart)) ∧
  (∀ (i : Issue) (rd : Nat) (a : MemAcc) (v : Word) (s : State),
    Gives (.sc i rd a v) s fun t =>
      OthersKept i.hart s t ∧ Kept [rd] [] (s.hart i.hart) (t.hart i.hart) ∧ VecKept (s.hart i.hart) (t.hart i.hart)) ∧
  (∀ (i : Issue) (base : Word) (x : Xlate) (lo hi : Word) (s : State),
    Gives (.sdPair i base x lo hi) s fun t =>
      OthersKept i.hart s t ∧ Kept [] [] (s.hart i.hart) (t.hart i.hart) ∧ VecKept (s.hart i.hart) (t.hart i.hart)) ∧
  (∀ (i : Issue) (a : MemAcc) (s : State),
    Gives (.cboClean i a) s fun t =>
      OthersKept i.hart s t ∧ Kept [] [] (s.hart i.hart) (t.hart i.hart) ∧ VecKept (s.hart i.hart) (t.hart i.hart)) ∧
  (∀ (i : Issue) (a : MemAcc) (s : State),
    Gives (.cboFlush i a) s fun t =>
      OthersKept i.hart s t ∧ Kept [] [] (s.hart i.hart) (t.hart i.hart) ∧ VecKept (s.hart i.hart) (t.hart i.hart)) ∧
  (∀ (i : Issue) (a : MemAcc) (s : State),
    Gives (.cboInval i a) s fun t =>
      OthersKept i.hart s t ∧ Kept [] [] (s.hart i.hart) (t.hart i.hart) ∧ VecKept (s.hart i.hart) (t.hart i.hart)) ∧
  (∀ (i : Issue) (a : MemAcc) (s : State),
    Gives (.cboZero i a) s fun t =>
      OthersKept i.hart s t ∧ Kept [] [] (s.hart i.hart) (t.hart i.hart) ∧ VecKept (s.hart i.hart) (t.hart i.hart)) ∧
  (∀ (i : Issue) (p q : Nat) (s : State),
    Gives (.fence i p q) s fun t =>
      OthersKept i.hart s t ∧ Kept [] [] (s.hart i.hart) (t.hart i.hart) ∧ VecKept (s.hart i.hart) (t.hart i.hart)) ∧
  (∀ (i : Issue) (s : State),
    Gives (.fenceI i) s fun t =>
      OthersKept i.hart s t ∧ Kept [] [] (s.hart i.hart) (t.hart i.hart) ∧ VecKept (s.hart i.hart) (t.hart i.hart)) ∧
  (∀ (i : Issue) (s : State),
    Gives (.sfenceVma i) s fun t =>
      OthersKept i.hart s t ∧ Kept [] [] (s.hart i.hart) (t.hart i.hart) ∧ VecKept (s.hart i.hart) (t.hart i.hart)) ∧
  (∀ (i : Issue) (s : State),
    Gives (.wfi i) s fun t =>
      OthersKept i.hart s t ∧ Kept [] [] (s.hart i.hart) (t.hart i.hart) ∧ VecKept (s.hart i.hart) (t.hart i.hart)) ∧
  (∀ (i : Issue) (s : State),
    Gives (.wrsNto i) s fun t =>
      OthersKept i.hart s t ∧ Kept [] [] (s.hart i.hart) (t.hart i.hart) ∧ VecKept (s.hart i.hart) (t.hart i.hart)) ∧
  (∀ (i : Issue) (s : State),
    Gives (.wrsSto i) s fun t =>
      OthersKept i.hart s t ∧ Kept [] [] (s.hart i.hart) (t.hart i.hart) ∧ VecKept (s.hart i.hart) (t.hart i.hart)) ∧
  (∀ (i : Issue) (s : State),
    Gives (.phRead i) s fun t =>
      OthersKept i.hart s t ∧ Kept [i.rd] [] (s.hart i.hart) (t.hart i.hart) ∧
      VecKept (s.hart i.hart) (t.hart i.hart)) ∧
  (∀ (i : Issue) (v : Word) (s : State),
    Gives (.phWait i v) s fun t =>
      OthersKept i.hart s t ∧ Kept [i.rd] [] (s.hart i.hart) (t.hart i.hart) ∧
      VecKept (s.hart i.hart) (t.hart i.hart)) ∧
  (∀ (i : Issue) (va : Word) (x : Xlate) (d : Nat) (ph : Word) (s : State),
    Gives (.tsStore i va x d ph) s fun t =>
      OthersKept i.hart s t ∧ Kept [] [] (s.hart i.hart) (t.hart i.hart) ∧ VecKept (s.hart i.hart) (t.hart i.hart)) ∧
  (∀ (i : Issue) (va : Word) (x : Xlate) (s : State),
    Gives (.tsCancelI i va x) s fun t =>
      OthersKept i.hart s t ∧ Kept [i.rd] [] (s.hart i.hart) (t.hart i.hart) ∧
      VecKept (s.hart i.hart) (t.hart i.hart)) ∧
  (∀ (i : Issue) (s : State),
    Gives (.tkArg i) s fun t =>
      OthersKept i.hart s t ∧ Kept [i.rd] [] (s.hart i.hart) (t.hart i.hart) ∧
      VecKept (s.hart i.hart) (t.hart i.hart)) ∧
  (∀ (i : Issue) (base : Word) (x : Xlate) (s : State),
    (s.hart i.hart).loads = [] →
    Gives (.ldPair i base x) s fun t =>
      OthersKept i.hart s t ∧ Kept [i.rd, i.rd + 1] [] (s.hart i.hart) (t.hart i.hart) ∧
      VecKept (s.hart i.hart) (t.hart i.hart)) ∧
  (∀ (i : Issue) (as : List MemAcc) (vs : List Nat) (vec : Bool) (s : State),
    Gives (.store i as vs vec) s fun t =>
      OthersKept i.hart s t ∧ Kept [] (if vec then [8] else []) (s.hart i.hart) (t.hart i.hart) ∧
      VecKept (s.hart i.hart) (t.hart i.hart)) ∧
  (∀ (i : Issue) (v : Word) (s : State),
    Gives (.dlSet i v) s fun t =>
      OthersKept i.hart s t ∧ (t.hart i.hart).x = (s.hart i.hart).x ∧ (t.hart i.hart).priv = (s.hart i.hart).priv ∧
      (t.hart i.hart).w = (s.hart i.hart).w ∧
      (∀ a, a < 4096 → a ∉ [0xB02, 0x5C0 + i.mon, CSR.szddlctl] → (t.hart i.hart).c a = (s.hart i.hart).c a) ∧
      VecKept (s.hart i.hart) (t.hart i.hart)) ∧
  (∀ (i : Issue) (s : State),
    Gives (.dlClr i) s fun t =>
      OthersKept i.hart s t ∧ (∀ r, r ≠ i.rd → (t.hart i.hart).getX r = (s.hart i.hart).getX r) ∧
      (t.hart i.hart).priv = (s.hart i.hart).priv ∧ (t.hart i.hart).w = (s.hart i.hart).w ∧
      (∀ a, a < 4096 → a ∉ [0xB02, CSR.szddlctl] → (t.hart i.hart).c a = (s.hart i.hart).c a) ∧
      VecKept (s.hart i.hart) (t.hart i.hart)) ∧
  (∀ (i : Issue) (s : State),
    Gives (.mret i) s fun t =>
      OthersKept i.hart s t ∧ (t.hart i.hart).x = (s.hart i.hart).x ∧
      (∀ a, a < 4096 → a ∉ [0xB02, CSR.mstatus, 0x7B0, 0x7B1] → (t.hart i.hart).c a = (s.hart i.hart).c a) ∧
      VecKept (s.hart i.hart) (t.hart i.hart)) ∧
  (∀ (i : Issue) (l : Nat) (s : State),
    Gives (.xret i l) s fun t =>
      OthersKept i.hart s t ∧ (t.hart i.hart).x = (s.hart i.hart).x ∧
      (∀ a, a < 4096 → a ∉ [0xB02, CSR.mstatus, CSR.hstatus, CSR.vsstatus] → (t.hart i.hart).c a = (s.hart i.hart).c
        a) ∧
      VecKept (s.hart i.hart) (t.hart i.hart)) ∧
  (∀ (i : Issue) (hint : Word) (x : Xlate) (s : State),
    Gives (.tkYield i hint x) s fun t =>
      OthersKept i.hart s t ∧ (∀ r, r ≠ 2 → r ≠ 4 → (t.hart i.hart).getX r = (s.hart i.hart).getX r) ∧
      (t.hart i.hart).priv = (s.hart i.hart).priv ∧ (t.hart i.hart).virt = (s.hart i.hart).virt ∧
      (t.hart i.hart).w = (s.hart i.hart).w ∧ VecKept (s.hart i.hart) (t.hart i.hart))

/-- Each command of the phase reference, the calendar, the pins and the harts changes no part of the state and no
register outside those listed for it; a list of the whole register file stands only for the resets and for the accesses
that reach every register. (R48, R67, R90, R97.) -/
def Obligations.ClockAndHartFrames : Prop :=
  (∀ i addr op v wr rd, Frame (.csrAccess i addr op v wr rd) [.free, .harts, .cores] []) ∧
  (∀ a n v, Frame (.portEnable a n v) [.regs, .msgs, .resp, .phase, .calendar, .pins, .timed] (portRegs ++ denyRegs ++
    [Reg.PHE_PORT_CFG, Reg.PHE_PORT_INC])) ∧
  (∀ a n v, Frame (.portDisable a n v) [.regs, .msgs, .resp, .phase, .calendar, .pins, .timed] (portRegs ++ denyRegs
    ++ [Reg.PHE_PORT_CFG, Reg.PHE_PORT_INC])) ∧
  (∀ a n, Frame (.restart a n) [.regs, .msgs, .resp, .phase, .calendar, .pins, .timed] (portRegs ++ denyRegs ++
    [Reg.PHE_PORT_INC])) ∧
  (∀ a n, Frame (.forceHoldover a n) [.regs, .resp, .phase] (denyRegs ++ [Reg.PHE_PORT_INC, Reg.PHE_PORT_STATUS])) ∧
  (∀ a n, Frame (.resync a n) [.regs, .msgs, .resp, .phase, .calendar, .pins, .timed] (portRegs ++ denyRegs ++
    [Reg.PHE_PORT_INC])) ∧
  (∀ n ts rising stable, Frame (.pulseEdge n ts rising stable) [.free, .regs, .msgs, .phase, .calendar, .pins, .timed]
    (portRegs ++ [Reg.PHE_PORT_INC, Reg.PHE_PORT_EDGE_TB, Reg.PHE_PORT_PERIOD, Reg.PHE_PORT_TOD,
    Reg.PHE_PORT_TOD_BASE])) ∧
  (∀ n, Frame (.stepHoldEnd n) [.regs, .phase] [Reg.PHE_PORT_INC]) ∧
  (∀ n, Frame (.lossWindowExpiry n) [.regs, .phase] [Reg.PHE_PORT_INC, Reg.PHE_PORT_STATUS]) ∧
  (∀ n, Frame (.holdoverToFree n) [.regs, .phase] [Reg.PHE_PORT_INC, Reg.PHE_PORT_STATUS]) ∧
  (∀ n, Frame (.holdoverCycleCrossing n) [.phase] []) ∧
  (∀ n ts onA rising other stable, Frame (.encoderCountEdge n ts onA rising other stable) [.free, .regs, .msgs,
    .phase, .calendar, .pins, .timed] (portRegs ++ [Reg.PHE_PORT_INC, Reg.PHE_PORT_EDGE_TB])) ∧
  (∀ n, Frame (.illegalTransition n) [.regs, .phase] [Reg.PHE_PORT_INC, Reg.PHE_PORT_STATUS]) ∧
  (∀ n, Frame (.lineFault n) [.regs, .phase] [Reg.PHE_PORT_INC, Reg.PHE_PORT_STATUS]) ∧
  (∀ n stable, Frame (.zEdge n stable) [.free, .regs, .msgs, .phase, .calendar, .pins, .timed] portRegs) ∧
  (∀ a n v, Frame (.todArm a n v) [.regs, .resp, .phase] (denyRegs ++ [Reg.PHE_PORT_TOD])) ∧
  (Frame .phaseBroadcast [.msgs, .phase] []) ∧
  (∀ d good, Frame (.phaseBroadcastReceive d good) [.regs, .msgs, .phase] [Reg.PHE_REPLICA_STATUS, Reg.FAB_EPOCH,
    Reg.BR_ERRCNT]) ∧
  (∀ d, Frame (.replicaValidLost d) [.regs, .harts] [Reg.PHE_REPLICA_STATUS]) ∧
  (∀ e, Frame (.calendarMatch e) [.regs, .msgs, .calendar, .pins] (calErrRegs ++ [Reg.TIO_PIN_STATUS])) ∧
  (∀ a v, Frame (.calendarEnable a v) [.regs, .msgs, .resp, .phase, .calendar, .pins, .timed] (denyRegs ++ calErrRegs
    ++ [Reg.PHE_CAL_CTRL, Reg.TIO_PIN_STATUS, Reg.PHE_TSQ_STATUS])) ∧
  (∀ a v, Frame (.calendarDisable a v) [.regs, .msgs, .resp, .phase, .calendar, .pins, .timed] (denyRegs ++ calErrRegs
    ++ [Reg.PHE_CAL_CTRL, Reg.TIO_PIN_STATUS, Reg.PHE_TSQ_STATUS])) ∧
  (Frame .dueQueueService [.regs, .msgs, .calendar, .fabric, .paleg] (calErrRegs ++ [Reg.PL_PORT_ERRCNT,
    Reg.PL_GSTATUS])) ∧
  (Frame .pendingFiringEnqueue [.regs, .calendar] [Reg.PHE_CAL_STATUS]) ∧
  (∀ a k, Frame (.calEditRead a k) [.regs, .resp] (denyRegs ++ [Reg.PHE_CAL_W0, Reg.PHE_CAL_W1, Reg.PHE_CAL_W2,
    Reg.PHE_CAL_W3, Reg.PHE_CAL_EDIT_STATUS])) ∧
  (∀ a k, Frame (.calEditWrite a k) [.regs, .resp, .calendar] (denyRegs ++ [Reg.PHE_CAL_EDIT_STATUS])) ∧
  (∀ a k, Frame (.calEditDisarm a k) [.regs, .resp, .calendar] (denyRegs ++ [Reg.PHE_CAL_EDIT_STATUS])) ∧
  (∀ a k, Frame (.calEditDisarmPurge a k) [.regs, .resp, .calendar] (denyRegs ++ [Reg.PHE_CAL_STATUS,
    Reg.PHE_CAL_EDIT_STATUS])) ∧
  (∀ a b v, Frame (.blockCancel a b v) [.regs, .resp, .calendar] (denyRegs ++ [Reg.PHE_CAL_STATUS,
    Reg.PHE_CAL_BLOCK])) ∧
  (Frame .cancellationStart [.regs, .calendar] [Reg.PHE_CAL_STATUS]) ∧
  (Frame .cancellationDone [.regs, .calendar, .pins] [Reg.PHE_CAL_STATUS, Reg.PHE_CAL_BLOCK]) ∧
  (∀ a b v, Frame (.blockEnable a b v) [.regs, .resp, .calendar] (denyRegs ++ [Reg.PHE_CAL_STATUS,
    Reg.PHE_CAL_BLOCK])) ∧
  (∀ i, Frame (.tioEdgePlace i) [.free, .regs, .pins] [Reg.TIO_PIN_STATUS]) ∧
  (∀ i, Frame (.pulseTrailingEdge i) [.free, .regs, .pins] [Reg.TIO_PIN_STATUS]) ∧
  (∀ a i, Frame (.forceLow a i) [.free, .regs, .resp, .pins] (denyRegs ++ [Reg.TIO_PIN_STATUS])) ∧
  (∀ a i, Frame (.forceHigh a i) [.free, .regs, .resp, .pins] (denyRegs ++ [Reg.TIO_PIN_STATUS])) ∧
  (∀ a i, Frame (.forceToggle a i) [.free, .regs, .resp, .pins] (denyRegs ++ [Reg.TIO_PIN_STATUS])) ∧
  (∀ a i v level, Frame (.pinModeOutput a i v level) [.free, .regs, .resp, .pins] (denyRegs ++ [Reg.TIO_PIN_CFG,
    Reg.TIO_PIN_STATUS])) ∧
  (∀ a i v, Frame (.pinModeOffCapture a i v) [.free, .regs, .resp, .pins] (denyRegs ++ [Reg.TIO_PIN_CFG,
    Reg.TIO_PIN_STATUS])) ∧
  (∀ i ts rising, Frame (.captureEdge i ts rising) [.free, .regs, .pins] [Reg.TIO_PIN_STATUS]) ∧
  (∀ a i, Frame (.capTbRead a i) [.regs, .resp, .pins] (denyRegs ++ [Reg.TIO_PIN_STATUS, Reg.TIO_CAP_PHASE])) ∧
  (∀ i dst accs lmul ce, Frame (.load i dst accs lmul ce) [.regs, .msgs, .harts, .coreTrace, .opens, .l3, .cores,
    .fabric, .ras] (denyRegs ++ sendRegs ++ [Reg.CD_L3_WAYDIS, Reg.CD_CACHE_ERRCNT])) ∧
  (∀ i accs vals vec, Frame (.store i accs vals vec) [.regs, .harts] (denyRegs ++ [Reg.CD_CORE_ORD_STATUS])) ∧
  (∀ i op rd acc v, Frame (.amo i op rd acc v) [.regs, .msgs, .harts, .coreTrace, .opens, .l3, .cores, .fabric, .ras]
    (denyRegs ++ sendRegs)) ∧
  (∀ i rd acc, Frame (.lr i rd acc) [.regs, .msgs, .harts, .coreTrace, .opens, .l3, .cores, .fabric, .ras] (denyRegs
    ++ sendRegs)) ∧
  (∀ i rd acc v, Frame (.sc i rd acc v) [.regs, .harts, .l3, .cores] denyRegs) ∧
  (∀ i acc, Frame (.cboClean i acc) [.regs, .harts] (denyRegs ++ [Reg.CD_CORE_ORD_STATUS])) ∧
  (∀ i acc, Frame (.cboFlush i acc) [.regs, .harts] (denyRegs ++ [Reg.CD_CORE_ORD_STATUS])) ∧
  (∀ i acc, Frame (.cboInval i acc) [.regs, .harts] (denyRegs ++ [Reg.CD_CORE_ORD_STATUS])) ∧
  (∀ i acc, Frame (.cboZero i acc) [.regs, .harts] (denyRegs ++ [Reg.CD_CORE_ORD_STATUS])) ∧
  (∀ i pred succ, Frame (.fence i pred succ) [.harts] []) ∧
  (∀ i, Frame (.fenceI i) [.harts] []) ∧
  (∀ i, Frame (.sfenceVma i) [.harts] []) ∧
  (∀ i, Frame (.wfi i) [.harts] []) ∧
  (∀ i, Frame (.wrsNto i) [.harts] []) ∧
  (∀ i, Frame (.wrsSto i) [.harts] []) ∧
  (∀ i, Frame (.mret i) [.regs, .harts, .coreTrace] calErrRegs) ∧
  (∀ i lvl, Frame (.xret i lvl) [.harts, .coreTrace] []) ∧
  (∀ hart, Frame (.trapEntry hart) [.harts, .coreTrace] []) ∧
  (∀ i v rd, Frame (.mzdcfgWrite i v rd) [.free, .harts, .cores] []) ∧
  (∀ i v rd, Frame (.szdtdbaseWrite i v rd) [.free, .harts, .cores] []) ∧
  (∀ i, Frame (.phRead i) [.harts] []) ∧
  (∀ i target, Frame (.phWait i target) [.harts] []) ∧
  (∀ hart, Frame (.phWaitComplete hart) [.harts] []) ∧
  (∀ i va x data phase, Frame (.tsStore i va x data phase) [.regs, .timed, .harts] (denyRegs ++ [Reg.PHE_TSQ_STATUS,
    Reg.CD_CORE_ORD_STATUS])) ∧
  (∀ hart, Frame (.tsStoreUnstall hart) [.regs, .timed, .harts] [Reg.PHE_TSQ_STATUS, Reg.CD_CORE_ORD_STATUS]) ∧
  (∀ i va x, Frame (.tsCancelI i va x) [.regs, .msgs, .harts] denyRegs) ∧
  (∀ i v, Frame (.dlSet i v) [.harts] []) ∧
  (∀ i, Frame (.dlClr i) [.harts] []) ∧
  (∀ i hint x, Frame (.tkYield i hint x) [.regs, .msgs, .harts, .coreTrace, .opens, .l3, .cores, .fabric, .ras]
    (denyRegs ++ sendRegs)) ∧
  (∀ i, Frame (.tkArg i) [.harts] []) ∧
  (∀ i base x, Frame (.ldPair i base x) [.regs, .msgs, .harts, .coreTrace, .opens, .l3, .cores, .fabric, .ras]
    (denyRegs ++ sendRegs)) ∧
  (∀ i base x lo hi, Frame (.sdPair i base x lo hi) [.regs, .harts] (denyRegs ++ [Reg.CD_CORE_ORD_STATUS])) ∧
  (∀ hart mon, Frame (.deadlineMiss hart mon) [.harts] []) ∧
  (∀ hart id, Frame (.timedStore hart id) [.regs, .msgs, .timed] [Reg.PHE_TSQ_STATUS, Reg.FAB_EPOCH]) ∧
  (∀ hart id, Frame (.timedStoreMatch hart id) [.regs, .timed] [Reg.PHE_TSQ_STATUS]) ∧
  (Frame .timedStoreCommitIssue [.regs, .msgs, .timed, .opens, .fabric] (sendRegs ++ [Reg.PHE_TSQ_STATUS])) ∧
  (∀ hart w addr, Frame (.timedStoreCancel hart w addr) [.regs, .msgs, .timed, .harts] [Reg.PHE_TSQ_STATUS,
    Reg.FAB_EPOCH]) ∧
  (∀ hart ce, Frame (.storeBufferEntryLeave hart ce) [.regs, .msgs, .harts, .coreTrace, .opens, .l3, .cores, .fabric,
    .ras] (denyRegs ++ sendRegs ++ [Reg.CD_CORE_ORD_STATUS, Reg.CD_CORE_ORD_ERRADDR, Reg.CD_L3_WAYDIS,
    Reg.CD_CACHE_ERRCNT])) ∧
  (∀ n, Frame (.slewEnd n) [.regs, .phase] [Reg.PHE_PORT_INC])

/-- Each command of the caches, the coherence of lines, the home agents and the memory controllers changes no part of
the state and no register outside those listed for it; a list of the whole register file stands only for the resets and
for the accesses that reach every register. (R141, R174, R221.) -/
def Obligations.MemoryCommandFrames : Prop :=
  (∀ a eng, Frame (.rangeClean a eng) [.regs, .msgs, .resp, .harts, .opens, .l3, .cores, .fabric] (denyRegs ++
    sendRegs ++ [Reg.CD_CORE_RANGE_STATUS, Reg.CD_L3_RANGE_STATUS, Reg.CD_COH_STATUS])) ∧
  (∀ a eng, Frame (.rangeInval a eng) [.regs, .msgs, .resp, .harts, .opens, .l3, .cores, .fabric] (denyRegs ++
    sendRegs ++ [Reg.CD_CORE_RANGE_STATUS, Reg.CD_L3_RANGE_STATUS, Reg.CD_COH_STATUS])) ∧
  (∀ a eng, Frame (.rangeCleanInval a eng) [.regs, .msgs, .resp, .harts, .opens, .l3, .cores, .fabric] (denyRegs ++
    sendRegs ++ [Reg.CD_CORE_RANGE_STATUS, Reg.CD_L3_RANGE_STATUS, Reg.CD_COH_STATUS])) ∧
  (∀ a eng, Frame (.rangePreload a eng) [.regs, .msgs, .resp, .harts, .opens, .l3, .cores, .fabric] (denyRegs ++
    sendRegs ++ [Reg.CD_CORE_RANGE_STATUS, Reg.CD_L3_RANGE_STATUS, Reg.CD_COH_STATUS])) ∧
  (∀ eng, Frame (.rangeCommandDone eng) [.regs, .msgs, .harts, .opens, .l3, .cores, .fabric] (sendRegs ++
    [Reg.CD_CORE_RANGE_STATUS, Reg.CD_L3_RANGE_STATUS, Reg.CD_COH_STATUS])) ∧
  (∀ a isL3 idx v, Frame (.lockRangeWrite a isL3 idx v) [.regs, .resp] (denyRegs ++ [Reg.CD_CORE_RANGE_STATUS,
    Reg.CD_CORE_L2_LOCK, Reg.CD_L3_LOCK, Reg.CD_L3_RANGE_STATUS])) ∧
  (∀ a np v, Frame (.cacheDisable a np v) [.regs, .msgs, .resp, .harts, .l3, .cores] (denyRegs ++
    [Reg.CD_CORE_CACHE_CTRL, Reg.FAB_EPOCH])) ∧
  (∀ np, Frame (.l2DrainComplete np) [.regs, .msgs, .harts, .coreTrace, .opens, .l3, .cores, .fabric, .ras] (replyRegs
    ++ denyRegs ++ [Reg.CD_CORE_CACHE_CTRL])) ∧
  (∀ a np v, Frame (.cacheEnable a np v) [.regs, .msgs, .resp, .harts, .l3, .cores] (denyRegs ++
    [Reg.CD_CORE_CACHE_CTRL, Reg.FAB_EPOCH])) ∧
  (∀ p, Frame (.rdS p) [.regs, .msgs, .harts, .coreTrace, .opens, .l3, .cores, .fabric, .ras] (replyRegs ++ denyRegs)) ∧
  (∀ p, Frame (.rdX p) [.regs, .msgs, .harts, .coreTrace, .opens, .l3, .cores, .fabric, .ras] (replyRegs ++ denyRegs)) ∧
  (∀ p, Frame (.upgL3 p) [.regs, .msgs, .harts, .coreTrace, .opens, .l3, .cores, .fabric, .ras] (replyRegs ++
    denyRegs)) ∧
  (∀ p, Frame (.rdOnce p) [.regs, .msgs, .harts, .coreTrace, .opens, .l3, .cores, .fabric, .ras] (replyRegs ++
    denyRegs)) ∧
  (∀ p, Frame (.wrPart p) [.regs, .msgs, .harts, .coreTrace, .opens, .l3, .cores, .fabric, .ras] (replyRegs ++
    denyRegs)) ∧
  (∀ p, Frame (.wbL p) [.regs, .msgs, .harts, .coreTrace, .opens, .l3, .cores, .fabric, .ras] (replyRegs ++ denyRegs)) ∧
  (∀ p, Frame (.evL p) [.regs, .msgs, .harts, .coreTrace, .opens, .l3, .cores, .fabric, .ras] (replyRegs ++ denyRegs)) ∧
  (∀ p, Frame (.snpL p) [.regs, .msgs, .harts, .coreTrace, .opens, .l3, .cores, .fabric, .ras] (replyRegs ++
    denyRegs)) ∧
  (∀ p, Frame (.snpLX p) [.regs, .msgs, .harts, .coreTrace, .opens, .l3, .cores, .fabric, .ras] (replyRegs ++
    denyRegs)) ∧
  (∀ p, Frame (.invL p) [.regs, .msgs, .harts, .coreTrace, .opens, .l3, .cores, .fabric, .ras] (replyRegs ++
    denyRegs)) ∧
  (∀ p more ue, Frame (.getS p more ue) [.free, .regs, .msgs, .mem, .mctl, .home, .fabric, .ras] (homeRegs ++ denyRegs
    ++ [Reg.HA_STATUS])) ∧
  (∀ p more ue, Frame (.getX p more ue) [.free, .regs, .msgs, .mem, .mctl, .home, .fabric, .ras] (homeRegs ++ denyRegs
    ++ [Reg.HA_STATUS])) ∧
  (∀ p more ue, Frame (.upgHA p more ue) [.free, .regs, .msgs, .mem, .mctl, .home, .fabric, .ras] (homeRegs ++
    denyRegs ++ [Reg.HA_STATUS])) ∧
  (∀ p more ue, Frame (.getXZ p more ue) [.free, .regs, .msgs, .mem, .mctl, .home, .fabric, .ras] (homeRegs ++
    denyRegs ++ [Reg.HA_STATUS])) ∧
  (∀ p more ue, Frame (.cboC p more ue) [.free, .regs, .msgs, .mem, .mctl, .home, .fabric, .ras] (homeRegs ++ denyRegs
    ++ [Reg.HA_STATUS])) ∧
  (∀ p more ue, Frame (.cboF p more ue) [.free, .regs, .msgs, .mem, .mctl, .home, .fabric, .ras] (homeRegs ++ denyRegs
    ++ [Reg.HA_STATUS])) ∧
  (∀ p more ue, Frame (.atmH p more ue) [.free, .regs, .msgs, .mem, .mctl, .home, .fabric, .ras] (homeRegs ++ denyRegs
    ++ [Reg.HA_STATUS])) ∧
  (∀ p more ue, Frame (.rdNC p more ue) [.free, .regs, .msgs, .mem, .mctl, .home, .fabric, .ras] (homeRegs ++ denyRegs
    ++ [Reg.HA_STATUS])) ∧
  (∀ p more ue, Frame (.wrNC p more ue) [.free, .regs, .msgs, .mem, .mctl, .home, .fabric, .ras] (homeRegs ++ denyRegs
    ++ [Reg.HA_STATUS])) ∧
  (∀ p, Frame (.wbM p) [.free, .regs, .msgs, .mem, .mctl, .home, .fabric, .ras] (homeRegs ++ [Reg.HA_STATUS])) ∧
  (∀ p, Frame (.wbC p) [.free, .regs, .msgs, .mem, .mctl, .home, .fabric, .ras] (homeRegs ++ [Reg.HA_STATUS])) ∧
  (∀ p, Frame (.evC p) [.free, .regs, .msgs, .mem, .mctl, .home, .fabric, .ras] (homeRegs ++ [Reg.HA_STATUS])) ∧
  (∀ p, Frame (.snpS p) [.regs, .msgs, .harts, .coreTrace, .opens, .l3, .cores, .fabric, .ras] (replyRegs ++
    denyRegs)) ∧
  (∀ p, Frame (.snpX p) [.regs, .msgs, .harts, .coreTrace, .opens, .l3, .cores, .fabric, .ras] (replyRegs ++
    denyRegs)) ∧
  (∀ p, Frame (.snpC p) [.regs, .msgs, .harts, .coreTrace, .opens, .l3, .cores, .fabric, .ras] (replyRegs ++
    denyRegs)) ∧
  (∀ p, Frame (.inv p) [.regs, .msgs, .harts, .coreTrace, .opens, .l3, .cores, .fabric, .ras] (replyRegs ++ denyRegs)) ∧
  (∀ p, Frame (.rcl p) [.regs, .msgs, .harts, .coreTrace, .opens, .l3, .cores, .fabric, .ras] (replyRegs ++ denyRegs)) ∧
  (∀ p, Frame (.rspI p) [.free, .regs, .msgs, .mem, .mctl, .home, .fabric, .ras] (homeRegs ++ [Reg.HA_STATUS])) ∧
  (∀ p, Frame (.rspS p) [.free, .regs, .msgs, .mem, .mctl, .home, .fabric, .ras] (homeRegs ++ [Reg.HA_STATUS])) ∧
  (∀ p, Frame (.rspFwdS p) [.free, .regs, .msgs, .mem, .mctl, .home, .fabric, .ras] (homeRegs ++ [Reg.HA_STATUS])) ∧
  (∀ p, Frame (.rspFwdI p) [.free, .regs, .msgs, .mem, .mctl, .home, .fabric, .ras] (homeRegs ++ [Reg.HA_STATUS])) ∧
  (∀ p, Frame (.rspRclD p) [.free, .regs, .msgs, .mem, .mctl, .home, .fabric, .ras] (homeRegs ++ [Reg.HA_STATUS])) ∧
  (∀ p, Frame (.rspWbP p) [.free, .regs, .msgs, .mem, .mctl, .home, .fabric, .ras] (homeRegs ++ [Reg.HA_STATUS])) ∧
  (∀ p, Frame (.fwdData p) [.regs, .msgs, .harts, .coreTrace, .opens, .l3, .cores, .fabric, .ras] (replyRegs ++
    denyRegs)) ∧
  (∀ p, Frame (.dataE p) [.regs, .msgs, .harts, .coreTrace, .opens, .l3, .cores, .fabric, .ras] (replyRegs ++
    denyRegs)) ∧
  (∀ p, Frame (.dataF p) [.regs, .msgs, .harts, .coreTrace, .opens, .l3, .cores, .fabric, .ras] (replyRegs ++
    denyRegs)) ∧
  (∀ p, Frame (.gntX p) [.regs, .msgs, .harts, .coreTrace, .opens, .l3, .cores, .fabric, .ras] (replyRegs ++
    denyRegs)) ∧
  (∀ p, Frame (.wbAck p) [.regs, .msgs, .harts, .coreTrace, .opens, .l3, .cores, .fabric, .ras] (replyRegs ++
    denyRegs)) ∧
  (∀ p, Frame (.evAck p) [.regs, .msgs, .harts, .coreTrace, .opens, .l3, .cores, .fabric, .ras] (replyRegs ++
    denyRegs)) ∧
  (∀ p, Frame (.cmpAck p) [.free, .regs, .msgs, .mem, .mctl, .home, .fabric, .ras] (homeRegs ++ [Reg.HA_STATUS])) ∧
  (∀ p, Frame (.packetUnknownOpcode p) [.regs, .msgs] [Reg.FAB_EPOCH, Reg.FAB_STATUS]) ∧
  (∀ np line, Frame (.tenureEnd np line) [.regs, .msgs, .harts, .coreTrace, .opens, .l3, .cores, .fabric, .ras]
    (replyRegs ++ denyRegs)) ∧
  (∀ n, Frame (.dieLost n) (partsBut [.queue, .resp, .calendar, .pins, .bridges, .dma, .irq, .helm, .partitions,
    .iommu, .pcie, .inbound, .paleg, .power, .start]) (homeRegs ++ [Reg.PHE_REPLICA_STATUS, Reg.PHE_TSQ_STATUS,
    Reg.CD_CORE_RANGE_STATUS, Reg.CD_CORE_ORD_STATUS, Reg.CD_L3_RANGE_STATUS, Reg.HA_STATUS, Reg.HA_DIE_STATE,
    Reg.BAT_STATUS, Reg.BAT_TRACE_PTR, Reg.CTR_PTR])) ∧
  (∀ k c w owed recentGt, Frame (.bankRefresh k c w owed recentGt) [.free, .regs, .msgs, .mem, .mctl, .home, .fabric,
    .ras] (homeRegs ++ [Reg.HA_STATUS])) ∧
  (∀ k c, Frame (.zqCalibration k c) [.mctl] []) ∧
  (∀ k c rate, Frame (.mr4Read k c rate) [.regs, .mctl] [Reg.MC_STATUS]) ∧
  (∀ k c drift, Frame (.dqsOscillatorRead k c drift) [.regs, .mctl] [Reg.MC_TRAIN]) ∧
  (∀ addr, Frame (.hpPromotion addr) [.mctl] []) ∧
  (∀ addr, Frame (.dramReadComplete addr) [.free, .regs, .msgs, .mem, .mctl, .home, .fabric, .ras] (homeRegs ++
    [Reg.HA_STATUS])) ∧
  (∀ a k p v, Frame (.creditWrite a k p v) [.regs, .resp, .mctl] (denyRegs ++ [Reg.MC_CTRL, Reg.MC_STATUS,
    Reg.MC_CREDIT])) ∧
  (∀ k c, Frame (.powerDownEntry k c) [.regs] [Reg.MC_STATUS]) ∧
  (∀ a i code v, Frame (.regionWrite a i code v) [.regs, .resp, .home] (denyRegs ++ [Reg.MC_REGION_BASE,
    Reg.MC_REGION_CODE, Reg.MC_ECC_STATUS])) ∧
  (Frame .worldWalkDone [.free, .regs, .msgs, .mem, .mctl, .home, .fabric, .ras] (homeRegs ++ [Reg.HA_STATUS,
    Reg.WC_STATUS])) ∧
  (∀ a v, Frame (.mcInit a v) [.regs, .mem, .resp, .mctl] (denyRegs ++ [Reg.MC_INIT])) ∧
  (Frame .mcInitDone [.free, .regs, .mem, .mctl] [Reg.MC_STATUS, Reg.MC_ECC_STATUS, Reg.MC_LOG_ADDR, Reg.MC_LOG_INFO,
    Reg.MC_INIT, Reg.RAS_STATUS, Reg.RAS_PROP, Reg.RAS_PROP_TARGET]) ∧
  (∀ k c, Frame (.scrubStep k c) [.free, .regs, .mem, .mctl, .ras] (eccRegs ++ [Reg.MC_STATUS, Reg.MC_SCRUB_STATUS])) ∧
  (Frame .leak [.regs] [Reg.MC_CE_CNT]) ∧
  (∀ a, Frame (.rawRead a) [.free, .regs, .msgs, .mem, .resp, .mctl, .home, .fabric, .ras] (homeRegs ++ denyRegs)) ∧
  (∀ a, Frame (.rawWrite a) [.free, .regs, .msgs, .mem, .resp, .mctl, .home, .fabric, .ras] (homeRegs ++ denyRegs)) ∧
  (∀ a, Frame (.encode a) [.free, .regs, .msgs, .mem, .resp, .mctl, .home, .fabric, .ras] (homeRegs ++ denyRegs)) ∧
  (∀ a, Frame (.encodePoison a) [.free, .regs, .msgs, .mem, .resp, .mctl, .home, .fabric, .ras] (homeRegs ++
    denyRegs)) ∧
  (∀ a i v, Frame (.pageRetire a i v) [.regs, .resp, .mctl] (denyRegs ++ [Reg.MC_RETIRE, Reg.RAS_STATUS,
    Reg.RAS_PAGE_HIST])) ∧
  (∀ addr, Frame (.writeDrain addr) [.free, .regs, .msgs, .mem, .mctl, .home, .fabric, .ras] (homeRegs ++
    [Reg.HA_STATUS]))

/-- Each command of the fabric, the probes, the bridges, the DMA engines, PCIe, Paleg, the IOMMU and the interrupts
changes no part of the state and no register outside those listed for it; a list of the whole register file stands only
for the resets and for the accesses that reach every register. (R274, R292, R306, R329.) -/
def Obligations.FabricCommandFrames : Prop :=
  (Frame .slotCycleBoundary [.free, .regs, .msgs, .mem, .mctl, .home, .fabric, .ras] (homeRegs ++ [Reg.HA_STATUS,
    Reg.FAB_SLOT, Reg.FAB_RSV_CFG])) ∧
  (∀ a v, Frame (.epochSwitch a v) [.regs, .resp, .fabric] (denyRegs ++ [Reg.FAB_EPOCH])) ∧
  (Frame .epochCheckDone [.regs, .fabric] [Reg.FAB_EPOCH, Reg.FAB_CHECK_INFO]) ∧
  (Frame .epochToggle [.regs, .fabric] [Reg.FAB_EPOCH, Reg.FAB_RSV_CFG, Reg.BR_STATUS]) ∧
  (∀ a v, Frame (.routeTableWrite a v) [.regs, .resp, .fabric] (denyRegs ++ [Reg.FAB_STATUS])) ∧
  (∀ a v, Frame (.copy a v) [.regs, .resp] (denyRegs ++ [Reg.FAB_RT_STATUS])) ∧
  (Frame .copyDone [.regs, .fabric] [Reg.FAB_RSV_CFG, Reg.FAB_RT_STATUS]) ∧
  (∀ a i v, Frame (.batArm a i v) [.regs, .resp, .bats] (denyRegs ++ [Reg.BAT_CTRL, Reg.BAT_STATUS])) ∧
  (∀ a i v, Frame (.batStop a i v) [.regs, .resp, .bats] (denyRegs ++ [Reg.BAT_CTRL, Reg.BAT_STATUS])) ∧
  (∀ i p enters waited xfers, Frame (.batMatch i p enters waited xfers) [.free, .regs, .bats] [Reg.BAT_CTRL,
    Reg.BAT_STATUS, Reg.BAT_CNT]) ∧
  (∀ i entry, Frame (.batTrigger i entry) [.regs, .msgs, .bats] [Reg.FAB_EPOCH, Reg.BAT_CTRL, Reg.BAT_STATUS]) ∧
  (Frame .batCounterCopy [.regs] [Reg.BAT_CNT]) ∧
  (∀ d, Frame (.batTraceWrite d) [.regs, .msgs, .opens, .fabric, .bats] (sendRegs ++ [Reg.BAT_TRACE_CTRL,
    Reg.BAT_TRACE_PTR, Reg.BAT_SECDROP])) ∧
  (∀ a d, Frame (.batBufRead a d) [.regs, .resp] (denyRegs ++ [Reg.BAT_TRACE_PTR])) ∧
  (∀ n up crcOk ftype seq ack, Frame (.bridgeFrameReceive n up crcOk ftype seq ack) (partsBut [.queue, .resp,
    .calendar, .pins, .dma, .irq, .helm, .partitions, .iommu, .pcie, .inbound, .paleg, .power, .start]) (homeRegs ++
    dieEventRegs ++ [Reg.CD_CORE_RANGE_STATUS, Reg.CD_CORE_ORD_STATUS, Reg.CD_L3_RANGE_STATUS, Reg.BR_ERRCNT])) ∧
  (∀ n up ackseq, Frame (.bridgeNak n up ackseq) [.regs, .bridges] [Reg.BR_ERRCNT]) ∧
  (∀ n crcOk ty, Frame (.sidebandMessage n crcOk ty) [.regs, .bridges, .ras] [Reg.BR_STATUS, Reg.BR_ERRCNT]) ∧
  (∀ n seq, Frame (.sidebandNak n seq) [] []) ∧
  (∀ n, Frame (.bridgeTrainStart n) [.regs, .bridges, .ras] [Reg.BR_STATUS, Reg.BR_ERRCNT]) ∧
  (∀ a n v, Frame (.retrainFull a n v) [.regs, .resp, .bridges, .ras] (denyRegs ++ [Reg.BR_CTRL, Reg.BR_STATUS,
    Reg.BR_ERRCNT])) ∧
  (∀ a n v, Frame (.retrainFast a n v) [.regs, .resp, .bridges, .ras] (denyRegs ++ [Reg.BR_CTRL, Reg.BR_STATUS,
    Reg.BR_ERRCNT])) ∧
  (∀ n down up sbDown sbUp, Frame (.clockLock n down up sbDown sbUp) (partsBut [.queue, .resp, .calendar, .pins, .dma,
    .irq, .helm, .partitions, .iommu, .pcie, .inbound, .paleg, .power, .start]) (homeRegs ++ dieEventRegs ++
    [Reg.CD_CORE_RANGE_STATUS, Reg.CD_CORE_ORD_STATUS, Reg.CD_L3_RANGE_STATUS])) ∧
  (∀ n bad, Frame (.laneTestDone n bad) (partsBut [.queue, .resp, .calendar, .pins, .dma, .irq, .helm, .partitions,
    .iommu, .pcie, .inbound, .paleg, .power, .start]) (homeRegs ++ dieEventRegs ++ [Reg.CD_CORE_RANGE_STATUS,
    Reg.CD_CORE_ORD_STATUS, Reg.CD_L3_RANGE_STATUS])) ∧
  (∀ n, Frame (.proposalExchange n) (partsBut [.queue, .resp, .calendar, .pins, .dma, .irq, .helm, .partitions,
    .iommu, .pcie, .inbound, .paleg, .power, .start]) (homeRegs ++ dieEventRegs ++ [Reg.CD_CORE_RANGE_STATUS,
    Reg.CD_CORE_ORD_STATUS, Reg.CD_L3_RANGE_STATUS, Reg.BR_LMAP])) ∧
  (∀ n lat skew weak, Frame (.alignDone n lat skew weak) (partsBut [.queue, .resp, .calendar, .pins, .dma, .irq,
    .helm, .partitions, .iommu, .pcie, .inbound, .paleg, .power, .start]) (homeRegs ++ dieEventRegs ++
    [Reg.CD_CORE_RANGE_STATUS, Reg.CD_CORE_ORD_STATUS, Reg.CD_L3_RANGE_STATUS, Reg.BR_LAT, Reg.BR_LMAP])) ∧
  (∀ n, Frame (.capabilityExchange n) [.free, .regs, .fabric, .bridges] [Reg.HA_DIE_STATE, Reg.BR_STATUS, Reg.BR_CAP]) ∧
  (∀ n bad, Frame (.fastRetrainDone n bad) (partsBut [.queue, .resp, .calendar, .pins, .dma, .irq, .helm, .partitions,
    .iommu, .pcie, .inbound, .paleg, .power, .start]) (homeRegs ++ dieEventRegs ++ [Reg.CD_CORE_RANGE_STATUS,
    Reg.CD_CORE_ORD_STATUS, Reg.CD_L3_RANGE_STATUS, Reg.BR_ERRCNT])) ∧
  (∀ a j w v, Frame (.progWrite a j w v) [.regs, .resp] (denyRegs ++ [Reg.DE_PROG])) ∧
  (∀ c a, Frame (.dmaStart c a) [.free, .regs, .msgs, .resp, .opens, .fabric, .dma, .irq] (dmaRegs ++ denyRegs ++
    [Reg.DE_CH_EVT, Reg.DE_CH_LOOP, Reg.DE_CH_G])) ∧
  (∀ c ecc, Frame (.halt c ecc) [.free, .regs, .msgs, .opens, .fabric, .dma, .irq, .ras] (sendRegs ++ [Reg.DE_CH_EVT,
    Reg.DE_CH_FAULT, Reg.DE_CH_FADDR, Reg.DE_CH_STATUS, Reg.DE_ENG_STATUS])) ∧
  (∀ c ecc, Frame (.move c ecc) [.free, .regs, .msgs, .opens, .fabric, .dma, .irq, .ras] (dmaRegs ++
    [Reg.DE_CH_MOVED])) ∧
  (∀ c ecc, Frame (.move2D c ecc) [.free, .regs, .msgs, .opens, .fabric, .dma, .irq, .ras] (dmaRegs ++
    [Reg.DE_CH_MOVED])) ∧
  (∀ c, Frame (.moveComplete c) [.regs, .dma] [Reg.DE_CH_PC, Reg.DE_CH_G]) ∧
  (∀ c ecc ecc2, Frame (.loop c ecc ecc2) [.free, .regs, .msgs, .opens, .fabric, .dma, .irq, .ras] (dmaRegs ++
    [Reg.DE_CH_LOOP])) ∧
  (∀ c ecc, Frame (.endLoop c ecc) [.free, .regs, .msgs, .opens, .fabric, .dma, .irq, .ras] (dmaRegs ++
    [Reg.DE_CH_LOOP])) ∧
  (∀ c ecc, Frame (.wait c ecc) [.free, .regs, .msgs, .opens, .fabric, .dma, .irq, .ras] (dmaRegs ++ [Reg.DE_CH_EVT,
    Reg.DE_SEM])) ∧
  (∀ c, Frame (.waitTimeout c) [.free, .regs, .msgs, .opens, .fabric, .dma, .irq] (sendRegs ++ [Reg.DE_CH_FAULT,
    Reg.DE_CH_FADDR, Reg.DE_CH_STATUS, Reg.DE_ENG_STATUS])) ∧
  (∀ c ecc, Frame (.signalSem c ecc) [.free, .regs, .msgs, .opens, .fabric, .dma, .irq, .ras] (dmaRegs ++
    [Reg.DE_CH_EVT, Reg.DE_SEM])) ∧
  (∀ c ecc, Frame (.signalEvt c ecc) [.free, .regs, .msgs, .opens, .fabric, .dma, .irq, .ras] (dmaRegs ++
    [Reg.DE_CH_EVT, Reg.DE_SEM])) ∧
  (∀ c ecc, Frame (.signalIrq c ecc) [.free, .regs, .msgs, .opens, .fabric, .dma, .irq, .ras] (dmaRegs ++
    [Reg.DE_CH_EVT])) ∧
  (∀ c ecc x, Frame (.signalWrite c ecc x) [.free, .regs, .msgs, .opens, .fabric, .dma, .irq, .iommu, .ras] dmaRegs) ∧
  (∀ c ecc xs, Frame (.fenceAck c ecc xs) [.free, .regs, .msgs, .opens, .fabric, .dma, .irq, .iommu, .ras] dmaRegs) ∧
  (∀ c ecc, Frame (.setr c ecc) [.free, .regs, .msgs, .opens, .fabric, .dma, .irq, .ras] (dmaRegs ++ [Reg.DE_CH_G])) ∧
  (∀ c ecc, Frame (.addr c ecc) [.free, .regs, .msgs, .opens, .fabric, .dma, .irq, .ras] (dmaRegs ++ [Reg.DE_CH_G])) ∧
  (∀ c ecc, Frame (.jump c ecc) [.free, .regs, .msgs, .opens, .fabric, .dma, .irq, .ras] (dmaRegs ++
    [Reg.DE_CH_LOOP])) ∧
  (∀ c ecc, Frame (.brz c ecc) [.free, .regs, .msgs, .opens, .fabric, .dma, .irq, .ras] (dmaRegs ++ [Reg.DE_CH_LOOP,
    Reg.DE_CH_G])) ∧
  (∀ c evt, Frame (.dmaUnblock c evt) [.regs, .msgs] [Reg.FAB_EPOCH, Reg.DE_CH_PC, Reg.DE_CH_EVT, Reg.DE_CH_STATUS,
    Reg.DE_SEM]) ∧
  (∀ a c, Frame (.pause a c) [.free, .regs, .msgs, .resp, .opens, .fabric, .dma, .irq] (dmaRegs ++ denyRegs ++
    [Reg.DE_CH_EVT, Reg.DE_CH_LOOP, Reg.DE_CH_G])) ∧
  (∀ a c, Frame (.resume a c) [.free, .regs, .msgs, .resp, .opens, .fabric, .dma, .irq] (dmaRegs ++ denyRegs ++
    [Reg.DE_CH_EVT, Reg.DE_CH_LOOP, Reg.DE_CH_G])) ∧
  (∀ a c, Frame (.abort a c) [.free, .regs, .msgs, .resp, .opens, .fabric, .dma, .irq] (dmaRegs ++ denyRegs ++
    [Reg.DE_CH_EVT, Reg.DE_CH_LOOP, Reg.DE_CH_G])) ∧
  (∀ a c, Frame (.stop a c) [.free, .regs, .msgs, .resp, .opens, .fabric, .dma, .irq] (dmaRegs ++ denyRegs ++
    [Reg.DE_CH_EVT, Reg.DE_CH_LOOP, Reg.DE_CH_G])) ∧
  (∀ c x, Frame (.descriptorFetch c x) [.free, .regs, .msgs, .opens, .fabric, .dma, .irq, .iommu] (sendRegs ++
    [Reg.DE_CH_FAULT, Reg.DE_CH_FADDR, Reg.DE_CH_STATUS, Reg.DE_ENG_STATUS])) ∧
  (∀ c, Frame (.descriptorComplete c) [.regs, .msgs, .opens, .fabric, .dma, .irq] (sendRegs ++ [Reg.DE_CH_EVT,
    Reg.DE_CH_STATUS, Reg.DE_CH_DESC, Reg.DE_ENG_STATUS])) ∧
  (Frame .iommuCommand [.free, .regs, .msgs, .mem, .harts, .mctl, .home, .l3, .cores, .iommu, .ras] (eccRegs ++
    [Reg.HA_DIR_OCC, Reg.MC_STATUS, Reg.FAB_EPOCH])) ∧
  (∀ hart file eiid w part src, Frame (.imsicMessage hart file eiid w part src) [.regs, .msgs, .resp, .harts, .irq]
    (denyRegs ++ [Reg.FAB_EPOCH, Reg.INT_STATUS])) ∧
  (∀ n, Frame (.wiredSourceChange n) [.msgs, .irq] []) ∧
  (∀ d, Frame (.aplicResend d) [.regs, .msgs, .irq] [Reg.INT_STATUS]) ∧
  (∀ a i word v, Frame (.outboundWindowWrite a i word v) [.regs, .resp] (denyRegs ++ [Reg.PE_PORT_STATUS,
    Reg.PE_OWIN_CFG, Reg.PE_OWIN_BASE, Reg.PE_OWIN_BUS])) ∧
  (∀ n, Frame (.readCombineTimeout n) [.msgs, .pcie] []) ∧
  (∀ n t, Frame (.pcieCompletion n t) [.regs, .msgs, .pcie] [Reg.FAB_EPOCH, Reg.PE_PORT_STATUS]) ∧
  (∀ n link tag, Frame (.completionTimeout n link tag) [.regs, .msgs, .pcie] [Reg.FAB_EPOCH, Reg.PE_PORT_STATUS]) ∧
  (∀ n link, Frame (.pcieAck n link) [.regs, .msgs, .pcie] [Reg.FAB_EPOCH]) ∧
  (∀ n t x, Frame (.pcieInboundRequest n t x) [.free, .regs, .msgs, .opens, .fabric, .iommu, .pcie, .inbound]
    (sendRegs ++ [Reg.PQ_STATUS, Reg.PQ_DENY_ADDR, Reg.PQ_DENY_INFO, Reg.PE_PORT_STATUS, Reg.PE_FN_STATUS,
    Reg.PE_FN_DOORBELL, Reg.PE_MBX_CTRL])) ∧
  (∀ n f v, Frame (.hostDoorbell n f v) [.regs, .msgs] [Reg.PE_FN_DOORBELL]) ∧
  (∀ a n f v, Frame (.msixRaise a n f v) [.regs, .msgs, .resp, .pcie] denyRegs) ∧
  (∀ a n f v, Frame (.windowCommit a n f v) [.regs, .resp, .inbound] (denyRegs ++ [Reg.PE_IWIN_COMMIT])) ∧
  (∀ n f, Frame (.oldMappingDrained n f) [.regs] [Reg.PE_PORT_STATUS, Reg.PE_IWIN_COMMIT]) ∧
  (∀ a n f m v, Frame (.publish a n f m v) [.regs, .resp] (denyRegs ++ [Reg.PE_MBX_CTRL])) ∧
  (∀ n f m v, Frame (.mailboxAck n f m v) [.regs, .msgs] [Reg.PE_FN_STATUS, Reg.PE_MBX_CTRL]) ∧
  (∀ n f, Frame (.bmeClear n f) [.regs, .msgs, .opens, .dma, .pcie] [Reg.FAB_EPOCH, Reg.DE_CH_PC, Reg.DE_CH_STATUS,
    Reg.DE_CH_G, Reg.DE_ENG_STATUS, Reg.PE_PORT_STATUS, Reg.PE_FN_STATUS]) ∧
  (∀ n f, Frame (.flr n f) [.regs, .msgs, .opens, .dma, .pcie] [Reg.FAB_EPOCH, Reg.DE_CH_PC, Reg.DE_CH_STATUS,
    Reg.DE_CH_G, Reg.DE_ENG_STATUS, Reg.PE_PORT_STATUS, Reg.PE_FN_STATUS, Reg.PE_FN_DOORBELL, Reg.PE_MBX_CTRL]) ∧
  (∀ n f, Frame (.flrDone n f) [.regs] [Reg.PE_FN_STATUS]) ∧
  (∀ n link, Frame (.linkReset n link) [.regs, .msgs, .opens, .dma, .pcie] [Reg.FAB_EPOCH, Reg.DE_CH_PC,
    Reg.DE_CH_STATUS, Reg.DE_CH_G, Reg.DE_ENG_STATUS, Reg.PE_PORT_STATUS, Reg.PE_FN_STATUS, Reg.PE_FN_DOORBELL,
    Reg.PE_MBX_CTRL]) ∧
  (∀ n link, Frame (.l0sEntry n link) [.pcie] []) ∧
  (∀ n link, Frame (.l1Entry n link) [.pcie] []) ∧
  (∀ n link up, Frame (.pcieLinkEvent n link up) [.regs, .msgs, .opens, .dma, .pcie] [Reg.FAB_EPOCH, Reg.DE_CH_PC,
    Reg.DE_CH_STATUS, Reg.DE_CH_G, Reg.DE_ENG_STATUS, Reg.PE_PORT_STATUS, Reg.PE_FN_STATUS, Reg.PE_FN_DOORBELL,
    Reg.PE_MBX_CTRL]) ∧
  (∀ n crcOk ftype seq ack ackFrame turn t cells, Frame (.palegFlitReceive n crcOk ftype seq ack ackFrame turn t
    cells) [.free, .regs, .msgs, .paleg] (denyRegs ++ [Reg.FAB_EPOCH, Reg.PL_PORT_STATUS, Reg.PL_PORT_DELAY,
    Reg.PL_PORT_ERRCNT, Reg.PL_GSTATUS])) ∧
  (∀ n ackseq, Frame (.palegNak n ackseq) [.regs, .msgs, .paleg] [Reg.FAB_EPOCH, Reg.PL_PORT_STATUS,
    Reg.PL_PORT_DELAY, Reg.PL_PORT_ERRCNT]) ∧
  (∀ n ok id role, Frame (.palegTrainingDone n ok id role) [.regs, .msgs, .paleg] [Reg.PL_PORT_STATUS,
    Reg.PL_PORT_DELAY, Reg.PL_PORT_ERRCNT, Reg.PL_GSTATUS]) ∧
  (∀ a n v, Frame (.retrain a n v) [.regs, .resp, .paleg] (denyRegs ++ [Reg.PL_PORT_STATUS, Reg.PL_PORT_DELAY])) ∧
  (∀ n x, Frame (.wr n x) [.free, .regs, .msgs, .opens, .fabric, .iommu, .inbound, .paleg] (denyRegs ++ sendRegs ++
    [Reg.PL_PORT_ERRCNT])) ∧
  (∀ n x, Frame (.rd n x) [.free, .regs, .msgs, .opens, .fabric, .iommu, .inbound, .paleg] (denyRegs ++ sendRegs ++
    [Reg.PL_PORT_ERRCNT])) ∧
  (∀ n, Frame (.rdRsp n) [.regs, .msgs, .paleg] (denyRegs ++ [Reg.FAB_EPOCH, Reg.PL_PORT_ERRCNT])) ∧
  (∀ n, Frame (.msg n) [.regs, .msgs, .paleg] [Reg.PL_GSTATUS, Reg.PL_MSG_RX]) ∧
  (∀ n tag, Frame (.palegReadTimeout n tag) [.regs, .msgs, .paleg] (denyRegs ++ [Reg.FAB_EPOCH, Reg.PL_PORT_ERRCNT])) ∧
  (∀ a v, Frame (.msgTx a v) [.regs, .msgs, .resp, .paleg] (denyRegs ++ [Reg.PL_PORT_ERRCNT, Reg.PL_GSTATUS])) ∧
  (∀ a w, Frame (.msgRxRead a w) [.regs, .resp, .paleg] (denyRegs ++ [Reg.PL_MSG_RX, Reg.PL_MSG_RX_TB])) ∧
  (Frame .phaseFrameSend [.msgs, .phase, .paleg] []) ∧
  (∀ n t2 first f, Frame (.phaseFrame n t2 first f) [.free, .regs, .msgs, .phase, .calendar, .pins, .timed] (portRegs
    ++ [Reg.PHE_PORT_INC, Reg.PHE_PORT_EDGE_TB, Reg.PHE_PORT_PERIOD, Reg.PHE_PORT_TOD, Reg.PHE_PORT_TOD_BASE])) ∧
  (∀ n, Frame (.branchLost n) [.regs, .paleg] [Reg.PL_PORT_STATUS, Reg.PL_PORT_ERRCNT]) ∧
  (∀ a n v, Frame (.rejoin a n v) [.regs, .resp, .paleg] (denyRegs ++ [Reg.PL_PORT_STATUS, Reg.PL_PORT_DELAY])) ∧
  (∀ a v, Frame (.plWindowCommit a v) [.regs, .resp, .inbound] (denyRegs ++ [Reg.PL_GSTATUS, Reg.PL_IWIN_COMMIT])) ∧
  (Frame .plOldMappingDrained [.regs] [Reg.PL_GSTATUS, Reg.PL_IWIN_COMMIT]) ∧
  (∀ j write x, Frame (.accessSlotGrant j write x) [.free, .regs, .msgs, .opens, .fabric, .dma, .irq, .iommu] (dmaRegs
    ++ [Reg.DE_CH_MOVED, Reg.DE_CH_G])) ∧
  (∀ a n v, Frame (.palegPortEnable a n v) [.regs, .msgs, .resp, .paleg] (denyRegs ++ [Reg.PL_PORT_CFG,
    Reg.PL_PORT_STATUS, Reg.PL_PORT_DELAY, Reg.PL_GSTATUS])) ∧
  (∀ n, Frame (.palegLinkDown n) [.regs, .msgs, .paleg] [Reg.PL_PORT_STATUS, Reg.PL_PORT_DELAY]) ∧
  (∀ n f wr dw v e, Frame (.configurationRequest n f wr dw v e) [.regs, .msgs, .opens, .dma, .pcie] [Reg.FAB_EPOCH,
    Reg.DE_CH_PC, Reg.DE_CH_STATUS, Reg.DE_CH_G, Reg.DE_ENG_STATUS, Reg.PE_PORT_STATUS, Reg.PE_FN_STATUS,
    Reg.PE_FN_DOORBELL, Reg.PE_MBX_CTRL]) ∧
  (∀ a c v, Frame (.pendWrite a c v) [.regs, .resp] (denyRegs ++ [Reg.DE_CH_PC, Reg.DE_CH_EVT, Reg.DE_CH_STATUS,
    Reg.DE_SEM])) ∧
  (∀ a i v, Frame (.semCountWrite a i v) [.regs, .resp] (denyRegs ++ [Reg.DE_CH_PC, Reg.DE_CH_EVT, Reg.DE_CH_STATUS,
    Reg.DE_SEM]))

/-- Each command of the worlds, Helm, the partitions, power, resets, start, errors, debug and register accesses changes
no part of the state and no register outside those listed for it; a list of the whole register file stands only for the
resets and for the accesses that reach every register. (R369, R393, R420, R508.) -/
def Obligations.ManagementCommandFrames : Prop :=
  (∀ a addr size v, Frame (.registerWrite a addr size v) (partsBut [.queue]) everyReg) ∧
  (∀ hart, Frame (.coreGate hart) [.regs, .msgs, .harts, .cores, .power] [Reg.FAB_EPOCH, Reg.WC_STATUS,
    Reg.WC_MITTEN_STATUS, Reg.PWR_REQ_STATUS]) ∧
  (∀ hart timeout, Frame (.coreWake hart timeout) [.free, .regs, .msgs, .harts, .cores, .power]
    [Reg.CD_CORE_RANGE_STATUS, Reg.CD_L3_RANGE_STATUS, Reg.FAB_EPOCH, Reg.PWR_REQ_STATUS]) ∧
  (∀ hart desc arg phase inst entry source late w part x, Frame (.dispatch hart desc arg phase inst entry source late
    w part x) [.free, .regs, .msgs, .harts, .coreTrace, .opens, .l3, .cores, .fabric, .power, .ras] (denyRegs ++
    sendRegs ++ calErrRegs ++ [Reg.CD_CORE_RANGE_STATUS, Reg.CD_L3_RANGE_STATUS, Reg.PWR_REQ_STATUS])) ∧
  (∀ p, Frame (.cmp p) (partsBut [.queue, .mem, .resp, .phase, .calendar, .pins, .mctl, .home, .bats, .bridges, .helm,
    .partitions, .iommu, .power, .start]) (dmaRegs ++ denyRegs ++ [Reg.PHE_TSQ_STATUS, Reg.PHE_TSQ_ERRADDR,
    Reg.CD_CORE_ORD_STATUS, Reg.CD_CORE_ORD_ERRADDR, Reg.CD_COH_STATUS, Reg.BAT_TRACE_CTRL, Reg.DE_CH_MOVED,
    Reg.DE_CH_G, Reg.PE_PORT_STATUS, Reg.PL_PORT_ERRCNT, Reg.CTR_CTRL])) ∧
  (∀ p, Frame (.rdIO p) (partsBut [.queue]) everyReg) ∧
  (∀ p, Frame (.wrIO p) (partsBut [.queue]) everyReg) ∧
  (∀ p, Frame (.cmpIO p) (partsBut [.queue, .mem, .resp, .phase, .calendar, .pins, .mctl, .home, .bats, .bridges,
    .helm, .partitions, .iommu, .power, .start]) (dmaRegs ++ denyRegs ++ [Reg.PHE_TSQ_STATUS, Reg.PHE_TSQ_ERRADDR,
    Reg.CD_CORE_ORD_STATUS, Reg.CD_CORE_ORD_ERRADDR, Reg.CD_COH_STATUS, Reg.BAT_TRACE_CTRL, Reg.DE_CH_MOVED,
    Reg.DE_CH_G, Reg.PE_PORT_STATUS, Reg.PL_PORT_ERRCNT, Reg.CTR_CTRL])) ∧
  (∀ p, Frame (.dataIO p) (partsBut [.queue, .mem, .resp, .phase, .calendar, .pins, .mctl, .home, .bats, .bridges,
    .helm, .partitions, .iommu, .power, .start]) (dmaRegs ++ denyRegs ++ [Reg.PHE_TSQ_STATUS, Reg.PHE_TSQ_ERRADDR,
    Reg.CD_CORE_ORD_STATUS, Reg.CD_CORE_ORD_ERRADDR, Reg.CD_COH_STATUS, Reg.BAT_TRACE_CTRL, Reg.DE_CH_MOVED,
    Reg.DE_CH_G, Reg.PE_PORT_STATUS, Reg.PL_PORT_ERRCNT, Reg.CTR_CTRL])) ∧
  (∀ k, Frame (.selfRefreshEntry k) [.free, .regs, .msgs, .mem, .harts, .mctl, .home, .l3, .cores, .fabric, .ras]
    (homeRegs ++ [Reg.CD_COH_STATUS, Reg.HA_STATUS])) ∧
  (∀ k, Frame (.selfRefreshExit k) [.regs] [Reg.MC_STATUS]) ∧
  (∀ k c fail wrEye rdEye, Frame (.dramTraining k c fail wrEye rdEye) [.regs, .start] (evlogRegs ++ [Reg.MC_STATUS,
    Reg.MC_TRAIN])) ∧
  (∀ src tag, Frame (.fabricTimeout src tag) (partsBut [.queue, .mem, .resp, .phase, .calendar, .pins, .mctl, .home,
    .bats, .bridges, .helm, .partitions, .iommu, .power, .start]) (dmaRegs ++ denyRegs ++ [Reg.PHE_TSQ_STATUS,
    Reg.PHE_TSQ_ERRADDR, Reg.CD_CORE_ORD_STATUS, Reg.CD_CORE_ORD_ERRADDR, Reg.CD_COH_STATUS, Reg.FAB_TO_ADDR,
    Reg.BAT_TRACE_CTRL, Reg.DE_CH_MOVED, Reg.DE_CH_G, Reg.PE_PORT_STATUS, Reg.PL_PORT_ERRCNT, Reg.CTR_CTRL])) ∧
  (∀ src tag, Frame (.tagWithdraw src tag) [.regs, .opens, .cores] [Reg.FAB_STATUS]) ∧
  (∀ n pos cmd, Frame (.powerCommand n pos cmd) [.free, .regs, .msgs, .harts, .cores, .power]
    [Reg.CD_CORE_RANGE_STATUS, Reg.CD_L3_RANGE_STATUS, Reg.FAB_EPOCH, Reg.PWR_REQ_STATUS]) ∧
  (∀ n pos req, Frame (.powerRequest n pos req) [.regs, .msgs, .harts, .cores, .power] [Reg.FAB_EPOCH, Reg.WC_STATUS,
    Reg.WC_MITTEN_STATUS, Reg.PWR_REQ_STATUS]) ∧
  (∀ hart fetchFault, Frame (.secureInterruptEntry hart fetchFault) [.regs, .harts, .coreTrace, .ras] (calErrRegs ++
    [Reg.WC_SAVE_PC, Reg.WC_SAVE_STATUS, Reg.WC_SAVE_MODE])) ∧
  (∀ a hart v, Frame (.secureCall a hart v) [.regs, .resp] (denyRegs ++ [Reg.WC_CALL])) ∧
  (∀ a m v, Frame (.helmDoorbell a m v) [.free, .regs, .msgs, .resp, .helm, .paleg, .start] (denyRegs ++ mailRegs ++
    [Reg.HELM_MB_CTRL])) ∧
  (∀ storeFails, Frame (.provision storeFails) [.free, .regs, .msgs, .helm, .paleg, .start, .ras] mailRegs) ∧
  (∀ storeFails, Frame (.helmDbgSet storeFails) [.free, .regs, .msgs, .harts, .coreTrace, .helm, .paleg, .start, .ras]
    (mailRegs ++ [Reg.WC_DBG, Reg.HELM_COUNTER])) ∧
  (∀ storeFails, Frame (.coreRetire storeFails) [.free, .regs, .msgs, .helm, .paleg, .start, .ras] (mailRegs ++
    [Reg.HELM_COUNTER, Reg.RAS_REPAIR])) ∧
  (∀ storeFails, Frame (.laneCommit storeFails) [.free, .regs, .msgs, .helm, .paleg, .start, .ras] (mailRegs ++
    [Reg.HELM_COUNTER, Reg.RAS_REPAIR])) ∧
  (∀ storeFails, Frame (.rowCommit storeFails) [.free, .regs, .msgs, .helm, .paleg, .start, .ras] (mailRegs ++
    [Reg.HELM_COUNTER, Reg.RAS_REPAIR])) ∧
  (∀ storeFails, Frame (.startCfg storeFails) [.free, .regs, .msgs, .helm, .paleg, .start, .ras] (mailRegs ++
    [Reg.HELM_COUNTER])) ∧
  (∀ storeFails, Frame (.chimneyExit storeFails) (partsBut [.queue]) everyReg) ∧
  (∀ storeFails, Frame (.pkgResetCmd storeFails) (partsBut [.queue]) everyReg) ∧
  (∀ storeFails, Frame (.imageKeySet storeFails) [.free, .regs, .msgs, .helm, .paleg, .start, .ras] (mailRegs ++
    [Reg.HELM_COUNTER])) ∧
  (∀ storeFails, Frame (.keyRotate storeFails) [.free, .regs, .msgs, .helm, .paleg, .start, .ras] (mailRegs ++
    [Reg.HELM_COUNTER])) ∧
  (∀ storeFails, Frame (.modeSet storeFails) [.free, .regs, .msgs, .helm, .paleg, .start, .ras] (mailRegs ++
    [Reg.HELM_COUNTER])) ∧
  (∀ storeFails, Frame (.zeroize storeFails) [.free, .regs, .msgs, .helm, .paleg, .start, .ras] (mailRegs ++
    [Reg.HELM_COUNTER])) ∧
  (Frame .helmGetStatus [.free, .regs, .msgs, .helm, .paleg, .start] mailRegs) ∧
  (Frame .helmGetDeviceId [.free, .regs, .msgs, .helm, .paleg, .start] mailRegs) ∧
  (Frame .helmGetAttest [.free, .regs, .msgs, .helm, .paleg, .start] mailRegs) ∧
  (∀ index, Frame (.helmGetRepairs index) [.free, .regs, .msgs, .helm, .paleg, .start] mailRegs) ∧
  (∀ count, Frame (.helmRandom count) [.free, .regs, .msgs, .helm, .paleg, .start] mailRegs) ∧
  (∀ src len, Frame (.helmSha384 src len) [.free, .regs, .msgs, .mem, .mctl, .helm, .paleg, .start, .ras] (eccRegs ++
    mailRegs ++ [Reg.MC_STATUS])) ∧
  (∀ slot src len, Frame (.helmHmac slot src len) [.free, .regs, .msgs, .mem, .mctl, .helm, .paleg, .start, .ras]
    (eccRegs ++ mailRegs ++ [Reg.MC_STATUS])) ∧
  (∀ slot src dst len iv aad aadLen, Frame (.helmGcmEnc slot src dst len iv aad aadLen) [.free, .regs, .msgs, .mem,
    .harts, .mctl, .home, .l3, .cores, .helm, .paleg, .start, .ras] (eccRegs ++ mailRegs ++ [Reg.HA_DIR_OCC,
    Reg.MC_STATUS, Reg.FAB_EPOCH])) ∧
  (∀ slot src dst len iv aad aadLen, Frame (.helmGcmDec slot src dst len iv aad aadLen) [.free, .regs, .msgs, .mem,
    .harts, .mctl, .home, .l3, .cores, .helm, .paleg, .start, .ras] (eccRegs ++ mailRegs ++ [Reg.HA_DIR_OCC,
    Reg.MC_STATUS, Reg.FAB_EPOCH])) ∧
  (∀ pub digest sig, Frame (.helmEcdsaVerify pub digest sig) [.free, .regs, .msgs, .helm, .paleg, .start] mailRegs) ∧
  (∀ slot hmac, Frame (.helmKeyGen slot hmac) [.free, .regs, .msgs, .helm, .paleg, .start] mailRegs) ∧
  (∀ slot dst, Frame (.helmKeyWrap slot dst) [.free, .regs, .msgs, .mem, .harts, .mctl, .home, .l3, .cores, .helm,
    .paleg, .start, .ras] (eccRegs ++ mailRegs ++ [Reg.HA_DIR_OCC, Reg.MC_STATUS, Reg.FAB_EPOCH])) ∧
  (∀ slot blob hmac, Frame (.helmKeyLoad slot blob hmac) [.free, .regs, .msgs, .helm, .paleg, .start] mailRegs) ∧
  (∀ slot key hmac, Frame (.helmKeyLoadPlain slot key hmac) [.free, .regs, .msgs, .helm, .paleg, .start] mailRegs) ∧
  (∀ slot, Frame (.helmKeyErase slot) [.free, .regs, .msgs, .helm, .paleg, .start] mailRegs) ∧
  (∀ storeFails, Frame (.lockoutHoldEnd storeFails) (partsBut [.queue]) everyReg) ∧
  (∀ pass, Frame (.helmSelfTest pass) [.free, .regs, .msgs, .helm, .paleg, .start, .ras] (mailRegs ++ evlogRegs)) ∧
  (Frame .helmTestFailure [.free, .regs, .msgs, .helm, .paleg, .start, .ras] mailRegs) ∧
  (∀ n, Frame (.hcmd n) [.free, .regs, .msgs, .helm, .paleg, .start] (mailRegs ++ [Reg.HELM_MB_REQ])) ∧
  (∀ n, Frame (.hrsp n) [.regs, .msgs, .helm, .paleg, .start] [Reg.HELM_MB_STATUS, Reg.HELM_MB_RSP]) ∧
  (∀ m, Frame (.forwardTimeout m) [.free, .regs, .msgs, .helm, .paleg, .start] [Reg.HELM_MB_STATUS, Reg.HELM_MB_RSP]) ∧
  (∀ a h v, Frame (.hartReassign a h v) [.regs, .msgs, .resp, .timed, .harts, .cores, .partitions, .power, .debug]
    (denyRegs ++ [Reg.PHE_TSQ_STATUS, Reg.FAB_EPOCH, Reg.PQ_HART, Reg.PWR_REQ_STATUS])) ∧
  (∀ a p, Frame (.partitionReset a p) [.free, .regs, .msgs, .resp, .calendar, .pins, .timed, .harts, .opens, .cores,
    .dma, .partitions, .pcie, .power, .debug] (denyRegs ++ [Reg.PHE_CAL_STATUS, Reg.PHE_CAL_BLOCK, Reg.TIO_PIN_STATUS,
    Reg.PHE_TSQ_STATUS, Reg.CD_CORE_RANGE_STATUS, Reg.CD_L3_RANGE_STATUS, Reg.FAB_EPOCH, Reg.DE_CH_PC,
    Reg.DE_CH_STATUS, Reg.DE_CH_G, Reg.DE_ENG_STATUS, Reg.PQ_RESET_STATUS, Reg.PQ_HART, Reg.PQ_DEVPART,
    Reg.PE_FN_DOORBELL, Reg.PE_MBX_CTRL, Reg.PWR_REQ_STATUS])) ∧
  (∀ p, Frame (.partitionResetDone p) [.regs, .msgs, .timed, .harts, .mctl, .cores, .fabric, .partitions, .power,
    .ras, .debug] [Reg.PHE_TSQ_STATUS, Reg.MC_CREDIT, Reg.FAB_EPOCH, Reg.PQ_RESET_STATUS, Reg.PQ_L3MASK, Reg.PQ_HART,
    Reg.PWR_REQ_STATUS]) ∧
  (∀ a p v, Frame (.vfBind a p v) [.regs, .resp] (denyRegs ++ [Reg.PQ_VF])) ∧
  (∀ volts current mittenW pick draw, Frame (.inputSample volts current mittenW pick draw) [.regs, .power]
    [Reg.PWR_STATUS, Reg.PWR_INPUT, Reg.PWR_MITTEN_W, Reg.PWR_DIE]) ∧
  (∀ volts, Frame (.powerFailWarning volts) [.regs, .power] [Reg.PWR_STATUS]) ∧
  (∀ volts, Frame (.warningWithdrawn volts) [.regs] [Reg.PWR_STATUS]) ∧
  (Frame .graceEnd [.regs, .bridges, .dma, .power] [Reg.DE_CH_PC, Reg.DE_CH_STATUS, Reg.DE_CH_G, Reg.PWR_STATUS,
    Reg.PWR_DIE]) ∧
  (Frame .powerFailComplete (partsBut [.queue]) everyReg) ∧
  (Frame .undervoltage (partsBut [.queue]) everyReg) ∧
  (Frame .overvoltage (partsBut [.queue]) everyReg) ∧
  (Frame .aonPowerLoss (partsBut [.queue]) everyReg) ∧
  (∀ volts, Frame (.retainExit volts) (partsBut [.queue]) everyReg) ∧
  (∀ i, Frame (.powerDieFault i) (partsBut [.queue]) everyReg) ∧
  (∀ a k unit irq, Frame (.reqOn a k unit irq) (partsBut [.queue, .calendar, .pins, .irq, .helm, .partitions, .iommu,
    .pcie, .inbound, .paleg]) (dieDownRegs ++ homeRegs ++ denyRegs ++ syncRegs)) ∧
  (∀ a k unit irq, Frame (.reqGated a k unit irq) (partsBut [.queue, .calendar, .pins, .irq, .helm, .partitions,
    .iommu, .pcie, .inbound, .paleg]) (dieDownRegs ++ homeRegs ++ denyRegs ++ syncRegs)) ∧
  (∀ a k unit irq, Frame (.reqOff a k unit irq) (partsBut [.queue, .calendar, .pins, .irq, .helm, .partitions, .iommu,
    .pcie, .inbound, .paleg]) (dieDownRegs ++ homeRegs ++ denyRegs ++ syncRegs)) ∧
  (∀ a k unit irq, Frame (.reqClockStop a k unit irq) (partsBut [.queue, .calendar, .pins, .irq, .helm, .partitions,
    .iommu, .pcie, .inbound, .paleg]) (dieDownRegs ++ homeRegs ++ denyRegs ++ syncRegs)) ∧
  (∀ a k unit irq, Frame (.reqReset a k unit irq) (partsBut [.queue, .calendar, .pins, .irq, .helm, .partitions,
    .iommu, .pcie, .inbound, .paleg]) (dieDownRegs ++ homeRegs ++ denyRegs ++ syncRegs)) ∧
  (∀ a k unit irq, Frame (.reqPackageRetain a k unit irq) (partsBut [.queue, .calendar, .pins, .irq, .helm,
    .partitions, .iommu, .pcie, .inbound, .paleg]) (dieDownRegs ++ homeRegs ++ denyRegs ++ syncRegs)) ∧
  (∀ a k unit irq, Frame (.reqPackageOff a k unit irq) (partsBut [.queue, .calendar, .pins, .irq, .helm, .partitions,
    .iommu, .pcie, .inbound, .paleg]) (dieDownRegs ++ homeRegs ++ denyRegs ++ syncRegs)) ∧
  (∀ a k unit irq, Frame (.reqClockStart a k unit irq) (partsBut [.queue, .calendar, .pins, .irq, .helm, .partitions,
    .iommu, .pcie, .inbound, .paleg]) (dieDownRegs ++ homeRegs ++ denyRegs ++ syncRegs)) ∧
  (∀ a k unit freq irq, Frame (.reqFrequency a k unit freq irq) (partsBut [.queue, .calendar, .pins, .irq, .helm,
    .partitions, .iommu, .pcie, .inbound, .paleg]) (dieDownRegs ++ homeRegs ++ denyRegs ++ syncRegs)) ∧
  (∀ n bist, Frame (.dieTransitionDone n bist) (partsBut [.queue, .resp, .calendar, .pins, .dma, .irq, .helm,
    .partitions, .iommu, .pcie, .inbound, .paleg]) (dieDownRegs ++ homeRegs ++ [Reg.FAB_POS_MAP, Reg.FAB_HART_POS,
    Reg.BAT_CTRL, Reg.BR_ERRCNT, Reg.RAS_REPAIR])) ∧
  (∀ n, Frame (.frequencyChangeDone n) [.regs, .power] [Reg.PWR_STATUS, Reg.PWR_DIE, Reg.PWR_REQ_STATUS]) ∧
  (∀ a v, Frame (.plockEnter a v) [.regs, .resp] (denyRegs ++ [Reg.PWR_CTRL, Reg.PWR_STATUS, Reg.PWR_DIE])) ∧
  (∀ a v, Frame (.plockLeave a v) [.regs, .resp] (denyRegs ++ [Reg.PWR_CTRL, Reg.PWR_STATUS, Reg.PWR_DIE])) ∧
  (Frame .plockOverTimeout [.regs] [Reg.PWR_STATUS, Reg.PWR_DIE]) ∧
  (Frame .plockReentry [.regs] [Reg.PWR_STATUS, Reg.PWR_DIE]) ∧
  (∀ n temp, Frame (.throttle n temp) [.regs, .power] [Reg.PWR_STATUS, Reg.PWR_DIE]) ∧
  (∀ n temp, Frame (.thermalTrip n temp) (partsBut [.queue]) everyReg) ∧
  (Frame .aonStart (partsBut [.queue]) everyReg) ∧
  (Frame .powerOnReset (partsBut [.queue]) everyReg) ∧
  (Frame .rstN (partsBut [.queue]) everyReg) ∧
  (∀ a v, Frame (.hardResetCmd a v) (partsBut [.queue]) everyReg) ∧
  (∀ a v, Frame (.warmResetCmd a v) (partsBut [.queue]) everyReg) ∧
  (∀ readError, Frame (.imageLoad readError) [.free, .regs, .msgs, .mem, .harts, .mctl, .home, .l3, .cores, .start,
    .ras] (eccRegs ++ evlogRegs ++ [Reg.HA_DIR_OCC, Reg.MC_STATUS, Reg.FAB_EPOCH, Reg.ST_STATUS])) ∧
  (Frame .imageCheck [.free, .regs, .mem, .mctl, .start, .ras] (eccRegs ++ evlogRegs ++ [Reg.MC_STATUS,
    Reg.ST_STATUS])) ∧
  (Frame .hartRelease (partsBut [.queue, .resp, .calendar, .pins, .dma, .irq, .helm, .partitions, .iommu, .pcie,
    .inbound, .paleg]) (dieDownRegs ++ homeRegs ++ evlogRegs ++ [Reg.FAB_POS_MAP, Reg.FAB_HART_POS, Reg.ST_STATUS,
    Reg.ST_VECTOR, Reg.ST_DIE, Reg.RAS_REPAIR])) ∧
  (∀ a v, Frame (.startOk a v) (partsBut [.queue]) everyReg) ∧
  (Frame .bootWatchdog [.regs, .start] evlogRegs) ∧
  (∀ fallback, Frame (.startRetry fallback) (partsBut [.queue]) everyReg) ∧
  (∀ b, Frame (.heartbeat b) [.regs, .start] [Reg.LAN_STATUS]) ∧
  (∀ b, Frame (.lanternFailed b) [.regs, .start] [Reg.ST_EVLOG_HEAD, Reg.ST_EVLOG, Reg.LAN_STATUS]) ∧
  (∀ b, Frame (.lanternRestart b) [.regs, .start] [Reg.ST_EVLOG_HEAD, Reg.ST_EVLOG, Reg.LAN_STATUS]) ∧
  (∀ pecOk, Frame (.getStart pecOk) [.regs, .start] [Reg.LAN_STATUS]) ∧
  (∀ pecOk index, Frame (.getEvlog pecOk index) [.regs, .start] [Reg.LAN_STATUS]) ∧
  (∀ pecOk, Frame (.getResult pecOk) [.regs, .start] [Reg.LAN_STATUS]) ∧
  (∀ pecOk off n data, Frame (.mbWrite pecOk off n data) [.regs, .start] [Reg.HELM_MB_REQ, Reg.LAN_STATUS]) ∧
  (∀ pecOk len, Frame (.mbRing pecOk len) [.free, .regs, .msgs, .helm, .paleg, .start] (mailRegs ++ [Reg.HELM_MB_CTRL,
    Reg.LAN_STATUS])) ∧
  (∀ pecOk, Frame (.mbStatus pecOk) [.regs, .start] [Reg.LAN_STATUS]) ∧
  (∀ pecOk off, Frame (.mbRead pecOk off) [.regs, .start] [Reg.HELM_MB_STATUS, Reg.LAN_STATUS]) ∧
  (∀ pecOk, Frame (.wake pecOk) (partsBut [.queue]) everyReg) ∧
  (∀ pecOk, Frame (.warm pecOk) (partsBut [.queue]) everyReg) ∧
  (∀ pecOk addr n, Frame (.flashRead pecOk addr n) [.regs, .start] [Reg.LAN_STATUS]) ∧
  (∀ pecOk addr, Frame (.flashErase pecOk addr) [.regs, .start] [Reg.LAN_STATUS]) ∧
  (∀ pecOk addr n data, Frame (.flashWrite pecOk addr n data) [.regs, .start] [Reg.LAN_STATUS]) ∧
  (∀ ok, Frame (.flashOpDone ok) [.free, .regs, .start] [Reg.LMB_STATUS, Reg.LMB_BUF]) ∧
  (∀ expired, Frame (.errorRecord expired) [.regs, .ras] [Reg.RAS_STATUS, Reg.RAS_LOG_PTR, Reg.RAS_LOG,
    Reg.RAS_AON_LOG, Reg.RAS_AON_HEAD, Reg.RAS_PROP, Reg.RAS_PROP_TARGET]) ∧
  (∀ a v, Frame (.tailWrite a v) [.regs, .resp, .ras] (denyRegs ++ [Reg.RAS_LOG_PTR])) ∧
  (Frame .tapReset [.regs, .pins, .debug] [Reg.DBG_STATUS]) ∧
  (∀ pins shift, Frame (.extest pins shift) [.regs, .pins, .debug] [Reg.DBG_STATUS]) ∧
  (Frame .idcode [.regs, .pins, .debug] [Reg.DBG_STATUS]) ∧
  (∀ pins shift, Frame (.samplePreload pins shift) [.regs, .pins, .debug] [Reg.DBG_STATUS]) ∧
  (Frame .clamp [.regs, .pins, .debug] [Reg.DBG_STATUS]) ∧
  (Frame .highz [.regs, .pins, .debug] [Reg.DBG_STATUS]) ∧
  (∀ shift, Frame (.dtmcs shift) [.regs, .pins, .debug] [Reg.DBG_STATUS]) ∧
  (∀ addr data op, Frame (.dmi addr data op) [.free, .regs, .msgs, .pins, .harts, .opens, .cores, .fabric, .debug]
    (sendRegs ++ [Reg.DBG_STATUS])) ∧
  (∀ dies, Frame (.chainSel dies) [.regs, .pins, .debug] [Reg.DBG_STATUS]) ∧
  (∀ sibs, Frame (.ijtag sibs) [.free, .regs, .pins, .debug] [Reg.DBG_STATUS]) ∧
  (∀ submit v, Frame (.helmMb submit v) [.free, .regs, .msgs, .pins, .helm, .paleg, .start, .debug] (mailRegs ++
    [Reg.HELM_MB_REQ, Reg.DBG_STATUS])) ∧
  (Frame .dbgStatus [.regs, .pins, .debug] [Reg.DBG_STATUS]) ∧
  (Frame .bypass [.regs, .pins, .debug] [Reg.DBG_STATUS]) ∧
  (∀ n, Frame (.wextest n) [.free, .regs, .debug] [Reg.DBG_STATUS]) ∧
  (∀ n, Frame (.dieIdcode n) [.regs, .debug] [Reg.DBG_STATUS]) ∧
  (∀ n, Frame (.wintest n) [.free, .regs, .debug] [Reg.DBG_STATUS]) ∧
  (∀ n, Frame (.scan n) [.free, .regs, .debug] [Reg.DBG_STATUS]) ∧
  (∀ n, Frame (.mbist n) [.free, .regs, .debug] [Reg.DBG_STATUS]) ∧
  (∀ n, Frame (.dieBypass n) [.regs, .debug] [Reg.DBG_STATUS]) ∧
  (∀ a v, Frame (.dbgTestHold a v) (partsBut [.queue, .calendar, .pins, .dma, .irq, .helm, .partitions, .iommu, .pcie,
    .inbound, .paleg]) (dieDownRegs ++ homeRegs ++ denyRegs ++ [Reg.BR_ERRCNT, Reg.DBG_TEST_HOLD])) ∧
  (∀ hart, Frame (.haltRequest hart) [.harts] []) ∧
  (∀ cmd writes fails, Frame (.abstractCommand cmd writes fails) [.free, .harts, .cores, .debug] []) ∧
  (∀ write addr size v, Frame (.systemBusAccess write addr size v) [.regs, .msgs, .opens, .fabric, .debug] sendRegs) ∧
  (∀ hart, Frame (.resumeRequest hart) [.harts, .debug] []) ∧
  (∀ hart, Frame (.gatedEntryDone hart) [.regs, .msgs, .harts, .cores, .power] [Reg.CD_CORE_RANGE_STATUS,
    Reg.CD_L3_RANGE_STATUS, Reg.FAB_EPOCH, Reg.PWR_REQ_STATUS]) ∧
  (Frame .railsUp [.regs, .bridges, .helm, .start] (evlogRegs ++ [Reg.MC_TRAIN, Reg.PWR_DIE, Reg.ST_STATUS])) ∧
  (∀ aPass bPass, Frame (.lanternSelfTest aPass bPass) [.regs] [Reg.ST_EVLOG_HEAD, Reg.ST_EVLOG, Reg.LAN_STATUS]) ∧
  (∀ addr, Frame (.dynamicAddressAssignment addr) [.start] []) ∧
  (∀ n, Frame (.coreTraceWrite n) [.regs, .msgs, .coreTrace, .opens, .fabric] (sendRegs ++ [Reg.CTR_CTRL,
    Reg.CTR_PTR])) ∧
  (∀ a n, Frame (.ctrBufRead a n) [.regs, .resp] (denyRegs ++ [Reg.CTR_PTR])) ∧
  (∀ a v, Frame (.wcDbgWrite a v) [.regs, .resp, .harts, .coreTrace] (denyRegs ++ [Reg.WC_DBG]))

/-- With no raw access waiting, the listed commands that leave room in every write queue change no byte of DRAM (a full
queue makes room by the burst of its oldest entry); a write drained from the queue, a raw access and MC_INIT change only
the bytes of the line, of its check fields, or of the region that they store. (R222, R243, R251, R260.) -/
def Obligations.MemoryFrames : Prop :=
  (∀ c s t, leavesDram c = true → s.testRun = none → exec c s = .next t → WriteRoom t → t.mem = s.mem) ∧
  (∀ addr s t b, s.testRun = none → exec (.writeDrain addr) s = .next t → WriteRoom t → lineStore addr b s = false → t.byte b = s.byte b) ∧
  (∀ a v s t b, exec (.mcInit a v) s = .next t → regionHas (fget F.MC_INIT_REGION v) b s = false → t.byte b = s.byte b) ∧
  (∀ c a s t b, c = .rawRead a ∨ c = .rawWrite a ∨ c = .encode a ∨ c = .encodePoison a → s.testRun = none → WriteRoom s →
    dirFind (testAddr s) s = none → exec c s = .next t → lineStore (testAddr s) b s = false → t.byte b = s.byte b)

/-- A command that is an access to a register is answered with RESP = 0b10 while its die is not ON, its clock is stopped
or its check answers so; one that the world check or the partition check refuses is recorded in the registers of that
check and answered with RESP = 0b01. Nothing else changes. (R34, R35, R369, R375, R377, R421, R524.) -/
def Obligations.RefusedAccesses : Prop :=
  ∀ (c : Instr) (a : Access) (w : Bool) (g : Reg) (i : Nat) (d : Option Nat) (s : State),
    accessOf c = some (a, w, g, i, d) →
    (d.any (!dieOn · s) = true → exec c s = .next (s.answerErr 0b10#2)) ∧
    (d.any (!dieOn · s) = false →
      (regStopped g i s = true → exec c s = .next (s.answerErr 0b10#2)) ∧
      (regStopped g i s = false →
        (regVerdict a w g i s = .err → exec c s = .next (s.answerErr 0b10#2)) ∧
        (regVerdict a w g i s = .world → exec c s =
          .next ((denyWorld .mmio (if w then .write else .read) a (g.addr i) s).answerErr 0b01#2)) ∧
        (regVerdict a w g i s = .part → exec c s =
          .next ((denyPart .mmio (if w then .write else .read) a (g.addr i) s).answerErr 0b01#2))))

/-- With command c at the front of the queue and any rest behind it, a step is the effect of c on the state whose queue
is that rest. (R11.) -/
def Obligations.StepTakesFront : Prop :=
  ∀ (c : Instr) (rest : List Instr) (s : State),
    step { s with pending := c :: rest } = exec c { s with pending := rest }

/-- With no command waiting a step answers the state after one PHS cycle. That the cycle passes in an idle step is the
model's choice, named in the assumption log. (R36.) -/
def Obligations.StepIdles : Prop :=
  ∀ s : State, s.pending = [] → step s = .next (blockTick s)

/-- After reset the memory and the register file are in canonical form, and the queue of commands is empty. (R528.) -/
def Obligations.ResetCanonical : Prop :=
  Canonical State.reset ∧ State.reset.pending = []

/-- For every state whose memory and register file are in canonical form, whatever command waits in front, a step that
answers a next state answers one in canonical form: equal contents stay equal data. (R11, R219.) -/
def Obligations.StepKeepsCanonical : Prop :=
  ∀ s t : State, Canonical s → step s = .next t → Canonical t

/-- Every command, in every state, answers a next state, neither a fault nor a refusal, and adds nothing to and takes
nothing from the queue of commands that wait. (R11, R33.) -/
def Obligations.CommandsComplete : Prop :=
  ∀ (c : Instr) (s : State), ∃ t, exec c s = .next t ∧ t.pending = s.pending
end

