-- ==== Sys2Proof/Laws/SMap.lean ====
section
/-! SUPPORT. The laws of sparse tables: a read after a write gives what was written, other keys keep their values, and a
write keeps the canonical form. -/
namespace Sys2Proof.Machine

variable {β : Type} {d : Nat → β}

theorem smapGet_erase (m : SMap β) (k j : Nat) :
    smapGet d (smapErase m k) j = if j = k then d j else smapGet d m j := by
  induction m with
  | nil => by_cases h : j = k <;> simp [smapErase, smapGet]
  | cons e r ih =>
    obtain ⟨a, v⟩ := e
    simp only [smapErase]
    by_cases ha : a = k
    · simp only [ha, if_true, ih, smapGet]
      by_cases hj : j = k
      · simp [hj]
      · simp [hj, Ne.symm hj]
    · simp only [ha, if_false, smapGet, ih]
      by_cases hj : a = j
      · subst hj; simp [ha]
      · simp [hj]

/-- Key k is not listed. -/
def smapFree (m : SMap β) (k : Nat) : Prop := ∀ v, (k, v) ∉ m

theorem smapFree_erase (m : SMap β) (k : Nat) : smapFree (smapErase m k) k := by
  intro v
  induction m with
  | nil => simp [smapErase]
  | cons e r ih =>
    obtain ⟨a, w⟩ := e
    simp only [smapErase]
    by_cases ha : a = k
    · simpa [ha] using ih
    · simp only [ha, if_false, List.mem_cons, Prod.mk.injEq, not_or]
      exact ⟨fun h => ha h.1.symm, ih⟩

theorem smapGet_insert (m : SMap β) (k j : Nat) (v : β) (hf : smapFree m k) :
    smapGet d (smapInsert m k v) j = if j = k then v else smapGet d m j := by
  induction m with
  | nil =>
    by_cases h : j = k
    · simp [smapInsert, smapGet, h]
    · simp [smapInsert, smapGet, h, Ne.symm h]
  | cons e r ih =>
    obtain ⟨a, w⟩ := e
    have hak : a ≠ k := fun h => hf w (by simp [h])
    have hr : smapFree r k := fun x hx => hf x (List.mem_cons_of_mem _ hx)
    simp only [smapInsert]
    by_cases hk : k < a
    · simp only [hk, if_true]
      by_cases hj : k = j
      · subst hj; simp [smapGet]
      · simp [smapGet, hj, Ne.symm hj]
    · simp only [hk, if_false, smapGet, ih hr]
      by_cases hj : a = j
      · subst hj; simp [hak]
      · simp [hj]

/-- A read after a write: the written key has the new value, and every other key its old one. -/
theorem smapGet_set [DecidableEq β] (m : SMap β) (k j : Nat) (v : β) :
    smapGet d (smapSet d m k v) j = if j = k then v else smapGet d m j := by
  unfold smapSet
  by_cases hv : v = d k
  · simp only [hv, if_true, smapGet_erase]
    by_cases hj : j = k <;> simp [hj]
  · simp only [hv, if_false, smapGet_insert _ _ _ _ (smapFree_erase m k), smapGet_erase]
    by_cases hj : j = k <;> simp [hj]

@[simp] theorem smapGet_set_self [DecidableEq β] (m : SMap β) (k : Nat) (v : β) : smapGet d (smapSet d m k v) k = v := by
  simp [smapGet_set]

theorem smapGet_set_ne [DecidableEq β] (m : SMap β) {k j : Nat} (v : β) (h : j ≠ k) :
    smapGet d (smapSet d m k v) j = smapGet d m j := by simp [smapGet_set, h]

@[simp] theorem smapGet_nil (j : Nat) : smapGet d ([] : SMap β) j = d j := rfl

theorem smapWf_mono [DecidableEq β] {lo lo' : Nat} (h : lo' ≤ lo) (m : SMap β) : smapWf d lo m = true → smapWf d lo' m = true := by
  cases m with
  | nil => exact fun _ => rfl
  | cons e r =>
    obtain ⟨a, v⟩ := e
    simp only [smapWf, Bool.and_eq_true, decide_eq_true_eq]
    rintro ⟨⟨h1, h2⟩, h3⟩
    exact ⟨⟨Nat.le_trans h h1, h2⟩, h3⟩

theorem smapWf_erase [DecidableEq β] (k : Nat) (m : SMap β) : ∀ lo, smapWf d lo m = true → smapWf d lo (smapErase m k) = true := by
  induction m with
  | nil => exact fun _ _ => rfl
  | cons e r ih =>
    obtain ⟨a, v⟩ := e
    intro lo h
    simp only [smapWf, Bool.and_eq_true, decide_eq_true_eq] at h
    simp only [smapErase]
    by_cases ha : a = k
    · simp only [ha, if_true]
      exact smapWf_mono (by omega) _ (ih _ (ha ▸ h.2))
    · simp only [ha, if_false, smapWf, Bool.and_eq_true, decide_eq_true_eq]
      exact ⟨h.1, ih _ h.2⟩

theorem smapWf_insert [DecidableEq β] {k : Nat} {v : β} (hv : v ≠ d k) (m : SMap β) :
    ∀ lo, lo ≤ k → smapFree m k → smapWf d lo m = true → smapWf d lo (smapInsert m k v) = true := by
  induction m with
  | nil =>
    intro lo hk _ _
    simp [smapInsert, smapWf, hk, hv]
  | cons e r ih =>
    obtain ⟨a, w⟩ := e
    intro lo hk hf h
    have hak : a ≠ k := fun h => hf w (by simp [h])
    have hr : smapFree r k := fun x hx => hf x (List.mem_cons_of_mem _ hx)
    simp only [smapWf, Bool.and_eq_true, decide_eq_true_eq] at h
    simp only [smapInsert]
    by_cases hlt : k < a
    · simp only [hlt, if_true, smapWf, Bool.and_eq_true, decide_eq_true_eq]
      exact ⟨⟨hk, hv⟩, ⟨by omega, h.1.2⟩, h.2⟩
    · simp only [hlt, if_false, smapWf, Bool.and_eq_true, decide_eq_true_eq]
      exact ⟨h.1, ih _ (by omega) hr h.2⟩

/-- A write keeps the canonical form. -/
theorem smapWf_set [DecidableEq β] (k : Nat) (v : β) (m : SMap β) (h : smapWf d 0 m = true) : smapWf d 0 (smapSet d m k v) = true := by
  unfold smapSet
  by_cases hv : v = d k
  · simp only [hv, if_true]
    exact smapWf_erase k m 0 h
  · simp only [hv, if_false]
    exact smapWf_insert hv _ 0 (Nat.zero_le k) (smapFree_erase m k) (smapWf_erase k m 0 h)

/-- Leaving out other keys changes nothing at a key. -/
theorem smapGet_filter {p : Nat × β → Bool} {k : Nat} (m : SMap β) (h : ∀ v, p (k, v) = true) :
    smapGet d (m.filter p) k = smapGet d m k := by
  induction m with
  | nil => rfl
  | cons e r ih =>
    obtain ⟨a, v⟩ := e
    by_cases hp : p (a, v) = true
    · rw [List.filter_cons_of_pos hp, smapGet, smapGet, ih]
    · rw [List.filter_cons_of_neg hp, ih, smapGet]
      split
      · next e => exact absurd (h v) (e ▸ hp)
      · rfl

/-- Leaving entries out keeps the canonical form. -/
theorem smapWf_filter [DecidableEq β] (p : Nat × β → Bool) (m : SMap β) : ∀ lo, smapWf d lo m = true → smapWf d lo (m.filter p) = true := by
  induction m with
  | nil => exact fun _ _ => rfl
  | cons e r ih =>
    obtain ⟨a, v⟩ := e
    intro lo h
    simp only [smapWf, Bool.and_eq_true, decide_eq_true_eq] at h
    by_cases hp : p (a, v) = true
    · rw [List.filter_cons_of_pos hp]
      simp only [smapWf, Bool.and_eq_true, decide_eq_true_eq]
      exact ⟨h.1, ih _ h.2⟩
    · rw [List.filter_cons_of_neg hp]
      exact smapWf_mono (by omega) _ (ih _ h.2)

end Sys2Proof.Machine
end

