-- ==== Sys2Proof/Laws/Regs.lean ====
section
/-! SUPPORT. The laws of the register file and of fields: registers are told apart by name and instance, a read after a
write gives what was written, and a write leaves every other register and field alone. -/
namespace Sys2Proof.Machine

theorem Reg.ctorIdx_lt (g : Reg) : g.ctorIdx < 246 := by cases g <;> decide

/-- Two registers of the file have one key only when name and instance agree. -/
theorem Reg.key_inj {g h : Reg} {i j : Nat} : g.key i = h.key j ↔ g = h ∧ i = j := by
  constructor
  · intro e
    have hg := g.ctorIdx_lt
    have hh := h.ctorIdx_lt
    simp only [Reg.key] at e
    have hc : g.ctorIdx = h.ctorIdx := by omega
    refine ⟨?_, by omega⟩
    rw [← Reg.ofNat_ctorIdx g, hc, Reg.ofNat_ctorIdx]
  · rintro ⟨rfl, rfl⟩
    rfl

/-- A register read after a register write. -/
theorem State.r_setR (s : State) (g h : Reg) (i j : Nat) (v : Word) :
    (s.setR g i v).r h j = if h = g ∧ j = i then v else s.r h j := by
  simp only [State.r, State.setR, smapGet_set, Reg.key_inj]

@[simp] theorem State.r_setR_self (s : State) (g : Reg) (i : Nat) (v : Word) : (s.setR g i v).r g i = v := by
  simp [State.r_setR]

theorem State.r_setR_reg (s : State) {g h : Reg} (hg : h ≠ g) (i j : Nat) (v : Word) :
    (s.setR g i v).r h j = s.r h j := by simp [State.r_setR, hg]

theorem State.r_setR_ix (s : State) (g h : Reg) {i j : Nat} (hj : j ≠ i) (v : Word) :
    (s.setR g i v).r h j = s.r h j := by simp [State.r_setR, hj]

/-! ## Fields -/

theorem fget_testBit (f : Fld) (v : Word) (i : Nat) :
    (fget f v).testBit i = (decide (i < f.hi + 1 - f.lo) && v.getLsbD (f.lo + i)) := by
  simp [fget, Nat.testBit_mod_two_pow, Nat.testBit_div_two_pow, BitVec.getLsbD, Nat.add_comm]

theorem fldMask_getLsbD (f : Fld) (j : Nat) :
    (fldMask f).getLsbD j = (decide (j < 64) && decide (f.lo ≤ j) && decide (j - f.lo < f.hi + 1 - f.lo)) := by
  simp only [fldMask, BitVec.getLsbD_ofNat, Nat.testBit_mul_two_pow, Nat.testBit_two_pow_sub_one]
  by_cases h1 : j < 64 <;> by_cases h2 : f.lo ≤ j <;> simp [h1, h2]

theorem fset_getLsbD (f : Fld) (v : Word) (x j : Nat) (hj : j < 64) :
    (fset f v x).getLsbD j =
      if f.lo ≤ j ∧ j - f.lo < f.hi + 1 - f.lo then x.testBit (j - f.lo) else v.getLsbD j := by
  simp only [fset, BitVec.getLsbD_or, BitVec.getLsbD_and, BitVec.getLsbD_not, fldMask_getLsbD, BitVec.getLsbD_ofNat,
    Nat.testBit_mul_two_pow, hj, decide_true, Bool.true_and]
  by_cases h1 : f.lo ≤ j <;> by_cases h2 : j - f.lo < f.hi + 1 - f.lo <;> simp [h1, h2]

/-- A field read after it was written: the value, reduced to the field's width. -/
theorem fget_fset (f : Fld) (v : Word) (x : Nat) (hf : f.hi < 64) :
    fget f (fset f v x) = x % 2 ^ (f.hi + 1 - f.lo) := by
  apply Nat.eq_of_testBit_eq
  intro i
  rw [fget_testBit, Nat.testBit_mod_two_pow]
  by_cases hi : i < f.hi + 1 - f.lo
  · have h64 : f.lo + i < 64 := by omega
    have hs : f.lo + i - f.lo = i := by omega
    simp [hi, fset_getLsbD f v x _ h64, hs]
  · simp [hi]

/-- A field apart from the one written keeps its value. -/
theorem fget_fset_ne (f g : Fld) (v : Word) (x : Nat) (hg : g.hi < 64) (h : g.hi < f.lo ∨ f.hi < g.lo) :
    fget g (fset f v x) = fget g v := by
  apply Nat.eq_of_testBit_eq
  intro i
  rw [fget_testBit, fget_testBit]
  by_cases hi : i < g.hi + 1 - g.lo
  · have h64 : g.lo + i < 64 := by omega
    have hn : ¬(f.lo ≤ g.lo + i ∧ g.lo + i - f.lo < f.hi + 1 - f.lo) := by omega
    simp [fset_getLsbD f v x _ h64, hn]
  · simp [hi]

/-- A field of a register after a field write to the same instance of the same field. -/
theorem State.f_setF_self (s : State) (f : Fld) (i x : Nat) (hf : f.hi < 64) :
    (s.setF f i x).f f i = x % 2 ^ (f.hi + 1 - f.lo) := by
  simp [State.f, State.setF, fget_fset f _ _ hf]

/-- A field of another register keeps its value. -/
theorem State.f_setF_reg (s : State) {f g : Fld} (h : g.reg ≠ f.reg) (i j x : Nat) : (s.setF f i x).f g j = s.f g j := by
  simp [State.f, State.setF, State.r_setR_reg _ h]

/-- A field of another instance keeps its value. -/
theorem State.f_setF_ix (s : State) (f g : Fld) {i j : Nat} (h : j ≠ i) (x : Nat) : (s.setF f i x).f g j = s.f g j := by
  simp [State.f, State.setF, State.r_setR_ix _ _ _ h]

/-- A field apart from the one written keeps its value. -/
theorem State.f_setF_ne (s : State) (f g : Fld) (i j x : Nat) (hg : g.hi < 64) (h : g.hi < f.lo ∨ f.hi < g.lo) :
    (s.setF f i x).f g j = s.f g j := by
  simp only [State.f, State.setF, State.r_setR]
  by_cases e : g.reg = f.reg ∧ j = i
  · obtain ⟨e1, rfl⟩ := e
    simp [e1, fget_fset_ne f g _ x hg h]
  · simp [e]

end Sys2Proof.Machine
end

