-- ==== Sys2Proof/Laws/State.lean ====
section
/-! SUPPORT. What the writes of Machine/Ops.lean leave in each field of the state: one lemma for each field and write. -/
namespace Sys2Proof.Machine

variable (s : State) (g : Reg) (f : Fld) (i x a n : Nat) (v : Word) (b : Bool) (y : Byte) (e : BitVec 2) (m : Msg)

@[simp] theorem State.setR_pending : (s.setR g i v).pending = s.pending := rfl
@[simp] theorem State.setR_fresh : (s.setR g i v).fresh = s.fresh := rfl
@[simp] theorem State.setR_out : (s.setR g i v).out = s.out := rfl
@[simp] theorem State.setR_mem : (s.setR g i v).mem = s.mem := rfl
@[simp] theorem State.setR_resp : (s.setR g i v).resp = s.resp := rfl
@[simp] theorem State.setR_ports : (s.setR g i v).ports = s.ports := rfl
@[simp] theorem State.setR_replicas : (s.setR g i v).replicas = s.replicas := rfl
@[simp] theorem State.setR_cal : (s.setR g i v).cal = s.cal := rfl
@[simp] theorem State.setR_due : (s.setR g i v).due = s.due := rfl
@[simp] theorem State.setR_calHeld : (s.setR g i v).calHeld = s.calHeld := rfl
@[simp] theorem State.setR_cancelQ : (s.setR g i v).cancelQ = s.cancelQ := rfl
@[simp] theorem State.setR_cancelRun : (s.setR g i v).cancelRun = s.cancelRun := rfl
@[simp] theorem State.setR_cancelReopen : (s.setR g i v).cancelReopen = s.cancelReopen := rfl
@[simp] theorem State.setR_pins : (s.setR g i v).pins = s.pins := rfl
@[simp] theorem State.setR_winPend : (s.setR g i v).winPend = s.winPend := rfl
@[simp] theorem State.setR_plQ : (s.setR g i v).plQ = s.plQ := rfl
@[simp] theorem State.setR_clkOff : (s.setR g i v).clkOff = s.clkOff := rfl
@[simp] theorem State.setR_harts : (s.setR g i v).harts = s.harts := rfl
@[simp] theorem State.setR_coreTrace : (s.setR g i v).coreTrace = s.coreTrace := rfl
@[simp] theorem State.setR_tsq : (s.setR g i v).tsq = s.tsq := rfl
@[simp] theorem State.setR_txs : (s.setR g i v).txs = s.txs := rfl
@[simp] theorem State.setR_wrq : (s.setR g i v).wrq = s.wrq := rfl
@[simp] theorem State.setR_mcq : (s.setR g i v).mcq = s.mcq := rfl
@[simp] theorem State.setR_mcGt : (s.setR g i v).mcGt = s.mcGt := rfl
@[simp] theorem State.setR_mcWin : (s.setR g i v).mcWin = s.mcWin := rfl
@[simp] theorem State.setR_mcBank : (s.setR g i v).mcBank = s.mcBank := rfl
@[simp] theorem State.setR_mcPend : (s.setR g i v).mcPend = s.mcPend := rfl
@[simp] theorem State.setR_scrubAt : (s.setR g i v).scrubAt = s.scrubAt := rfl
@[simp] theorem State.setR_initRun : (s.setR g i v).initRun = s.initRun := rfl
@[simp] theorem State.setR_dir : (s.setR g i v).dir = s.dir := rfl
@[simp] theorem State.setR_haQ : (s.setR g i v).haQ = s.haQ := rfl
@[simp] theorem State.setR_haTie : (s.setR g i v).haTie = s.haTie := rfl
@[simp] theorem State.setR_haTx : (s.setR g i v).haTx = s.haTx := rfl
@[simp] theorem State.setR_atomBuf : (s.setR g i v).atomBuf = s.atomBuf := rfl
@[simp] theorem State.setR_walks : (s.setR g i v).walks = s.walks := rfl
@[simp] theorem State.setR_l3 : (s.setR g i v).l3 = s.l3 := rfl
@[simp] theorem State.setR_vb : (s.setR g i v).vb = s.vb := rfl
@[simp] theorem State.setR_l3Pend : (s.setR g i v).l3Pend = s.l3Pend := rfl
@[simp] theorem State.setR_sliceQ : (s.setR g i v).sliceQ = s.sliceQ := rfl
@[simp] theorem State.setR_l2 : (s.setR g i v).l2 = s.l2 := rfl
@[simp] theorem State.setR_l1d : (s.setR g i v).l1d = s.l1d := rfl
@[simp] theorem State.setR_l1i : (s.setR g i v).l1i = s.l1i := rfl
@[simp] theorem State.setR_l2Pend : (s.setR g i v).l2Pend = s.l2Pend := rfl
@[simp] theorem State.setR_l2Held : (s.setR g i v).l2Held = s.l2Held := rfl
@[simp] theorem State.setR_ranges : (s.setR g i v).ranges = s.ranges := rfl
@[simp] theorem State.setR_l2BadWay : (s.setR g i v).l2BadWay = s.l2BadWay := rfl
@[simp] theorem State.setR_mcRate : (s.setR g i v).mcRate = s.mcRate := rfl
@[simp] theorem State.setR_initWb : (s.setR g i v).initWb = s.initWb := rfl
@[simp] theorem State.setR_testRun : (s.setR g i v).testRun = s.testRun := rfl
@[simp] theorem State.setR_testHeld : (s.setR g i v).testHeld = s.testHeld := rfl
@[simp] theorem State.setR_histNext : (s.setR g i v).histNext = s.histNext := rfl
@[simp] theorem State.setR_frameAt : (s.setR g i v).frameAt = s.frameAt := rfl
@[simp] theorem State.setR_peIdle : (s.setR g i v).peIdle = s.peIdle := rfl
@[simp] theorem State.setR_aonTb : (s.setR g i v).aonTb = s.aonTb := rfl
@[simp] theorem State.setR_pfAt : (s.setR g i v).pfAt = s.pfAt := rfl
@[simp] theorem State.setR_fine : (s.setR g i v).fine = s.fine := rfl
@[simp] theorem State.setR_excess : (s.setR g i v).excess = s.excess := rfl
@[simp] theorem State.setR_epochLag : (s.setR g i v).epochLag = s.epochLag := rfl
@[simp] theorem State.setR_winBusy : (s.setR g i v).winBusy = s.winBusy := rfl
@[simp] theorem State.setR_mcStart : (s.setR g i v).mcStart = s.mcStart := rfl
@[simp] theorem State.setR_mcOpen : (s.setR g i v).mcOpen = s.mcOpen := rfl
@[simp] theorem State.setR_sku : (s.setR g i v).sku = s.sku := rfl
@[simp] theorem State.setR_winCur : (s.setR g i v).winCur = s.winCur := rfl
@[simp] theorem State.setR_routes : (s.setR g i v).routes = s.routes := rfl
@[simp] theorem State.setR_epochCheck : (s.setR g i v).epochCheck = s.epochCheck := rfl
@[simp] theorem State.setR_batLive : (s.setR g i v).batLive = s.batLive := rfl
@[simp] theorem State.setR_batPost : (s.setR g i v).batPost = s.batPost := rfl
@[simp] theorem State.setR_batGap : (s.setR g i v).batGap = s.batGap := rfl
@[simp] theorem State.setR_batStage : (s.setR g i v).batStage = s.batStage := rfl
@[simp] theorem State.setR_batBuf : (s.setR g i v).batBuf = s.batBuf := rfl
@[simp] theorem State.setR_batFifo : (s.setR g i v).batFifo = s.batFifo := rfl
@[simp] theorem State.setR_bridges : (s.setR g i v).bridges = s.bridges := rfl
@[simp] theorem State.setR_dieTrans : (s.setR g i v).dieTrans = s.dieTrans := rfl
@[simp] theorem State.setR_dma : (s.setR g i v).dma = s.dma := rfl
@[simp] theorem State.setR_dmaTurn : (s.setR g i v).dmaTurn = s.dmaTurn := rfl
@[simp] theorem State.setR_dmaPtr : (s.setR g i v).dmaPtr = s.dmaPtr := rfl
@[simp] theorem State.setR_pulses : (s.setR g i v).pulses = s.pulses := rfl
@[simp] theorem State.setR_helm : (s.setR g i v).helm = s.helm := rfl
@[simp] theorem State.setR_partRun : (s.setR g i v).partRun = s.partRun := rfl
@[simp] theorem State.setR_hartNew : (s.setR g i v).hartNew = s.hartNew := rfl
@[simp] theorem State.setR_winOff : (s.setR g i v).winOff = s.winOff := rfl
@[simp] theorem State.setR_iommu : (s.setR g i v).iommu = s.iommu := rfl
@[simp] theorem State.setR_iommuFlt : (s.setR g i v).iommuFlt = s.iommuFlt := rfl
@[simp] theorem State.setR_aplic : (s.setR g i v).aplic = s.aplic := rfl
@[simp] theorem State.setR_wired : (s.setR g i v).wired = s.wired := rfl
@[simp] theorem State.setR_pwrIrq : (s.setR g i v).pwrIrq = s.pwrIrq := rfl
@[simp] theorem State.setR_peLive : (s.setR g i v).peLive = s.peLive := rfl
@[simp] theorem State.setR_peRd : (s.setR g i v).peRd = s.peRd := rfl
@[simp] theorem State.setR_peWait : (s.setR g i v).peWait = s.peWait := rfl
@[simp] theorem State.setR_peComb : (s.setR g i v).peComb = s.peComb := rfl
@[simp] theorem State.setR_peWr : (s.setR g i v).peWr = s.peWr := rfl
@[simp] theorem State.setR_peCfg : (s.setR g i v).peCfg = s.peCfg := rfl
@[simp] theorem State.setR_msix : (s.setR g i v).msix = s.msix := rfl
@[simp] theorem State.setR_aspm : (s.setR g i v).aspm = s.aspm := rfl
@[simp] theorem State.setR_inq : (s.setR g i v).inq = s.inq := rfl
@[simp] theorem State.setR_iwinCur : (s.setR g i v).iwinCur = s.iwinCur := rfl
@[simp] theorem State.setR_plLinks : (s.setR g i v).plLinks = s.plLinks := rfl
@[simp] theorem State.setR_plIn : (s.setR g i v).plIn = s.plIn := rfl
@[simp] theorem State.setR_plTx : (s.setR g i v).plTx = s.plTx := rfl
@[simp] theorem State.setR_plWait : (s.setR g i v).plWait = s.plWait := rfl
@[simp] theorem State.setR_plRx : (s.setR g i v).plRx = s.plRx := rfl
@[simp] theorem State.setR_pkgEnd : (s.setR g i v).pkgEnd = s.pkgEnd := rfl
@[simp] theorem State.setR_pkgOff : (s.setR g i v).pkgOff = s.pkgOff := rfl
@[simp] theorem State.setR_aonOff : (s.setR g i v).aonOff = s.aonOff := rfl
@[simp] theorem State.setR_freqGoal : (s.setR g i v).freqGoal = s.freqGoal := rfl
@[simp] theorem State.setR_samples : (s.setR g i v).samples = s.samples := rfl
@[simp] theorem State.setR_calm : (s.setR g i v).calm = s.calm := rfl
@[simp] theorem State.setR_mittenRef : (s.setR g i v).mittenRef = s.mittenRef := rfl
@[simp] theorem State.setR_gatePort : (s.setR g i v).gatePort = s.gatePort := rfl
@[simp] theorem State.setR_boot : (s.setR g i v).boot = s.boot := rfl
@[simp] theorem State.setR_flash : (s.setR g i v).flash = s.flash := rfl
@[simp] theorem State.setR_flashOp : (s.setR g i v).flashOp = s.flashOp := rfl
@[simp] theorem State.setR_rack : (s.setR g i v).rack = s.rack := rfl
@[simp] theorem State.setR_intake : (s.setR g i v).intake = s.intake := rfl
@[simp] theorem State.setR_rasUnread : (s.setR g i v).rasUnread = s.rasUnread := rfl
@[simp] theorem State.setR_rasAny : (s.setR g i v).rasAny = s.rasAny := rfl
@[simp] theorem State.setR_rasSeq : (s.setR g i v).rasSeq = s.rasSeq := rfl
@[simp] theorem State.setR_rasCoreUc : (s.setR g i v).rasCoreUc = s.rasCoreUc := rfl
@[simp] theorem State.setR_repairs : (s.setR g i v).repairs = s.repairs := rfl
@[simp] theorem State.setR_tap : (s.setR g i v).tap = s.tap := rfl
@[simp] theorem State.setR_dbg : (s.setR g i v).dbg = s.dbg := rfl
@[simp] theorem State.setR_ctrBuf : (s.setR g i v).ctrBuf = s.ctrBuf := rfl
@[simp] theorem State.setR_ctrFifo : (s.setR g i v).ctrFifo = s.ctrFifo := rfl

@[simp] theorem State.setF_pending : (s.setF f i x).pending = s.pending := rfl
@[simp] theorem State.setF_fresh : (s.setF f i x).fresh = s.fresh := rfl
@[simp] theorem State.setF_out : (s.setF f i x).out = s.out := rfl
@[simp] theorem State.setF_mem : (s.setF f i x).mem = s.mem := rfl
@[simp] theorem State.setF_resp : (s.setF f i x).resp = s.resp := rfl
@[simp] theorem State.setF_ports : (s.setF f i x).ports = s.ports := rfl
@[simp] theorem State.setF_replicas : (s.setF f i x).replicas = s.replicas := rfl
@[simp] theorem State.setF_cal : (s.setF f i x).cal = s.cal := rfl
@[simp] theorem State.setF_due : (s.setF f i x).due = s.due := rfl
@[simp] theorem State.setF_calHeld : (s.setF f i x).calHeld = s.calHeld := rfl
@[simp] theorem State.setF_cancelQ : (s.setF f i x).cancelQ = s.cancelQ := rfl
@[simp] theorem State.setF_cancelRun : (s.setF f i x).cancelRun = s.cancelRun := rfl
@[simp] theorem State.setF_cancelReopen : (s.setF f i x).cancelReopen = s.cancelReopen := rfl
@[simp] theorem State.setF_pins : (s.setF f i x).pins = s.pins := rfl
@[simp] theorem State.setF_winPend : (s.setF f i x).winPend = s.winPend := rfl
@[simp] theorem State.setF_plQ : (s.setF f i x).plQ = s.plQ := rfl
@[simp] theorem State.setF_clkOff : (s.setF f i x).clkOff = s.clkOff := rfl
@[simp] theorem State.setF_harts : (s.setF f i x).harts = s.harts := rfl
@[simp] theorem State.setF_coreTrace : (s.setF f i x).coreTrace = s.coreTrace := rfl
@[simp] theorem State.setF_tsq : (s.setF f i x).tsq = s.tsq := rfl
@[simp] theorem State.setF_txs : (s.setF f i x).txs = s.txs := rfl
@[simp] theorem State.setF_wrq : (s.setF f i x).wrq = s.wrq := rfl
@[simp] theorem State.setF_mcq : (s.setF f i x).mcq = s.mcq := rfl
@[simp] theorem State.setF_mcGt : (s.setF f i x).mcGt = s.mcGt := rfl
@[simp] theorem State.setF_mcWin : (s.setF f i x).mcWin = s.mcWin := rfl
@[simp] theorem State.setF_mcBank : (s.setF f i x).mcBank = s.mcBank := rfl
@[simp] theorem State.setF_mcPend : (s.setF f i x).mcPend = s.mcPend := rfl
@[simp] theorem State.setF_scrubAt : (s.setF f i x).scrubAt = s.scrubAt := rfl
@[simp] theorem State.setF_initRun : (s.setF f i x).initRun = s.initRun := rfl
@[simp] theorem State.setF_dir : (s.setF f i x).dir = s.dir := rfl
@[simp] theorem State.setF_haQ : (s.setF f i x).haQ = s.haQ := rfl
@[simp] theorem State.setF_haTie : (s.setF f i x).haTie = s.haTie := rfl
@[simp] theorem State.setF_haTx : (s.setF f i x).haTx = s.haTx := rfl
@[simp] theorem State.setF_atomBuf : (s.setF f i x).atomBuf = s.atomBuf := rfl
@[simp] theorem State.setF_walks : (s.setF f i x).walks = s.walks := rfl
@[simp] theorem State.setF_l3 : (s.setF f i x).l3 = s.l3 := rfl
@[simp] theorem State.setF_vb : (s.setF f i x).vb = s.vb := rfl
@[simp] theorem State.setF_l3Pend : (s.setF f i x).l3Pend = s.l3Pend := rfl
@[simp] theorem State.setF_sliceQ : (s.setF f i x).sliceQ = s.sliceQ := rfl
@[simp] theorem State.setF_l2 : (s.setF f i x).l2 = s.l2 := rfl
@[simp] theorem State.setF_l1d : (s.setF f i x).l1d = s.l1d := rfl
@[simp] theorem State.setF_l1i : (s.setF f i x).l1i = s.l1i := rfl
@[simp] theorem State.setF_l2Pend : (s.setF f i x).l2Pend = s.l2Pend := rfl
@[simp] theorem State.setF_l2Held : (s.setF f i x).l2Held = s.l2Held := rfl
@[simp] theorem State.setF_ranges : (s.setF f i x).ranges = s.ranges := rfl
@[simp] theorem State.setF_l2BadWay : (s.setF f i x).l2BadWay = s.l2BadWay := rfl
@[simp] theorem State.setF_mcRate : (s.setF f i x).mcRate = s.mcRate := rfl
@[simp] theorem State.setF_initWb : (s.setF f i x).initWb = s.initWb := rfl
@[simp] theorem State.setF_testRun : (s.setF f i x).testRun = s.testRun := rfl
@[simp] theorem State.setF_testHeld : (s.setF f i x).testHeld = s.testHeld := rfl
@[simp] theorem State.setF_histNext : (s.setF f i x).histNext = s.histNext := rfl
@[simp] theorem State.setF_frameAt : (s.setF f i x).frameAt = s.frameAt := rfl
@[simp] theorem State.setF_peIdle : (s.setF f i x).peIdle = s.peIdle := rfl
@[simp] theorem State.setF_aonTb : (s.setF f i x).aonTb = s.aonTb := rfl
@[simp] theorem State.setF_pfAt : (s.setF f i x).pfAt = s.pfAt := rfl
@[simp] theorem State.setF_fine : (s.setF f i x).fine = s.fine := rfl
@[simp] theorem State.setF_excess : (s.setF f i x).excess = s.excess := rfl
@[simp] theorem State.setF_epochLag : (s.setF f i x).epochLag = s.epochLag := rfl
@[simp] theorem State.setF_winBusy : (s.setF f i x).winBusy = s.winBusy := rfl
@[simp] theorem State.setF_mcStart : (s.setF f i x).mcStart = s.mcStart := rfl
@[simp] theorem State.setF_mcOpen : (s.setF f i x).mcOpen = s.mcOpen := rfl
@[simp] theorem State.setF_sku : (s.setF f i x).sku = s.sku := rfl
@[simp] theorem State.setF_winCur : (s.setF f i x).winCur = s.winCur := rfl
@[simp] theorem State.setF_routes : (s.setF f i x).routes = s.routes := rfl
@[simp] theorem State.setF_epochCheck : (s.setF f i x).epochCheck = s.epochCheck := rfl
@[simp] theorem State.setF_batLive : (s.setF f i x).batLive = s.batLive := rfl
@[simp] theorem State.setF_batPost : (s.setF f i x).batPost = s.batPost := rfl
@[simp] theorem State.setF_batGap : (s.setF f i x).batGap = s.batGap := rfl
@[simp] theorem State.setF_batStage : (s.setF f i x).batStage = s.batStage := rfl
@[simp] theorem State.setF_batBuf : (s.setF f i x).batBuf = s.batBuf := rfl
@[simp] theorem State.setF_batFifo : (s.setF f i x).batFifo = s.batFifo := rfl
@[simp] theorem State.setF_bridges : (s.setF f i x).bridges = s.bridges := rfl
@[simp] theorem State.setF_dieTrans : (s.setF f i x).dieTrans = s.dieTrans := rfl
@[simp] theorem State.setF_dma : (s.setF f i x).dma = s.dma := rfl
@[simp] theorem State.setF_dmaTurn : (s.setF f i x).dmaTurn = s.dmaTurn := rfl
@[simp] theorem State.setF_dmaPtr : (s.setF f i x).dmaPtr = s.dmaPtr := rfl
@[simp] theorem State.setF_pulses : (s.setF f i x).pulses = s.pulses := rfl
@[simp] theorem State.setF_helm : (s.setF f i x).helm = s.helm := rfl
@[simp] theorem State.setF_partRun : (s.setF f i x).partRun = s.partRun := rfl
@[simp] theorem State.setF_hartNew : (s.setF f i x).hartNew = s.hartNew := rfl
@[simp] theorem State.setF_winOff : (s.setF f i x).winOff = s.winOff := rfl
@[simp] theorem State.setF_iommu : (s.setF f i x).iommu = s.iommu := rfl
@[simp] theorem State.setF_iommuFlt : (s.setF f i x).iommuFlt = s.iommuFlt := rfl
@[simp] theorem State.setF_aplic : (s.setF f i x).aplic = s.aplic := rfl
@[simp] theorem State.setF_wired : (s.setF f i x).wired = s.wired := rfl
@[simp] theorem State.setF_pwrIrq : (s.setF f i x).pwrIrq = s.pwrIrq := rfl
@[simp] theorem State.setF_peLive : (s.setF f i x).peLive = s.peLive := rfl
@[simp] theorem State.setF_peRd : (s.setF f i x).peRd = s.peRd := rfl
@[simp] theorem State.setF_peWait : (s.setF f i x).peWait = s.peWait := rfl
@[simp] theorem State.setF_peComb : (s.setF f i x).peComb = s.peComb := rfl
@[simp] theorem State.setF_peWr : (s.setF f i x).peWr = s.peWr := rfl
@[simp] theorem State.setF_peCfg : (s.setF f i x).peCfg = s.peCfg := rfl
@[simp] theorem State.setF_msix : (s.setF f i x).msix = s.msix := rfl
@[simp] theorem State.setF_aspm : (s.setF f i x).aspm = s.aspm := rfl
@[simp] theorem State.setF_inq : (s.setF f i x).inq = s.inq := rfl
@[simp] theorem State.setF_iwinCur : (s.setF f i x).iwinCur = s.iwinCur := rfl
@[simp] theorem State.setF_plLinks : (s.setF f i x).plLinks = s.plLinks := rfl
@[simp] theorem State.setF_plIn : (s.setF f i x).plIn = s.plIn := rfl
@[simp] theorem State.setF_plTx : (s.setF f i x).plTx = s.plTx := rfl
@[simp] theorem State.setF_plWait : (s.setF f i x).plWait = s.plWait := rfl
@[simp] theorem State.setF_plRx : (s.setF f i x).plRx = s.plRx := rfl
@[simp] theorem State.setF_pkgEnd : (s.setF f i x).pkgEnd = s.pkgEnd := rfl
@[simp] theorem State.setF_pkgOff : (s.setF f i x).pkgOff = s.pkgOff := rfl
@[simp] theorem State.setF_aonOff : (s.setF f i x).aonOff = s.aonOff := rfl
@[simp] theorem State.setF_freqGoal : (s.setF f i x).freqGoal = s.freqGoal := rfl
@[simp] theorem State.setF_samples : (s.setF f i x).samples = s.samples := rfl
@[simp] theorem State.setF_calm : (s.setF f i x).calm = s.calm := rfl
@[simp] theorem State.setF_mittenRef : (s.setF f i x).mittenRef = s.mittenRef := rfl
@[simp] theorem State.setF_gatePort : (s.setF f i x).gatePort = s.gatePort := rfl
@[simp] theorem State.setF_boot : (s.setF f i x).boot = s.boot := rfl
@[simp] theorem State.setF_flash : (s.setF f i x).flash = s.flash := rfl
@[simp] theorem State.setF_flashOp : (s.setF f i x).flashOp = s.flashOp := rfl
@[simp] theorem State.setF_rack : (s.setF f i x).rack = s.rack := rfl
@[simp] theorem State.setF_intake : (s.setF f i x).intake = s.intake := rfl
@[simp] theorem State.setF_rasUnread : (s.setF f i x).rasUnread = s.rasUnread := rfl
@[simp] theorem State.setF_rasAny : (s.setF f i x).rasAny = s.rasAny := rfl
@[simp] theorem State.setF_rasSeq : (s.setF f i x).rasSeq = s.rasSeq := rfl
@[simp] theorem State.setF_rasCoreUc : (s.setF f i x).rasCoreUc = s.rasCoreUc := rfl
@[simp] theorem State.setF_repairs : (s.setF f i x).repairs = s.repairs := rfl
@[simp] theorem State.setF_tap : (s.setF f i x).tap = s.tap := rfl
@[simp] theorem State.setF_dbg : (s.setF f i x).dbg = s.dbg := rfl
@[simp] theorem State.setF_ctrBuf : (s.setF f i x).ctrBuf = s.ctrBuf := rfl
@[simp] theorem State.setF_ctrFifo : (s.setF f i x).ctrFifo = s.ctrFifo := rfl

@[simp] theorem State.setB_pending : (s.setB f i b).pending = s.pending := rfl
@[simp] theorem State.setB_fresh : (s.setB f i b).fresh = s.fresh := rfl
@[simp] theorem State.setB_out : (s.setB f i b).out = s.out := rfl
@[simp] theorem State.setB_mem : (s.setB f i b).mem = s.mem := rfl
@[simp] theorem State.setB_resp : (s.setB f i b).resp = s.resp := rfl
@[simp] theorem State.setB_ports : (s.setB f i b).ports = s.ports := rfl
@[simp] theorem State.setB_replicas : (s.setB f i b).replicas = s.replicas := rfl
@[simp] theorem State.setB_cal : (s.setB f i b).cal = s.cal := rfl
@[simp] theorem State.setB_due : (s.setB f i b).due = s.due := rfl
@[simp] theorem State.setB_calHeld : (s.setB f i b).calHeld = s.calHeld := rfl
@[simp] theorem State.setB_cancelQ : (s.setB f i b).cancelQ = s.cancelQ := rfl
@[simp] theorem State.setB_cancelRun : (s.setB f i b).cancelRun = s.cancelRun := rfl
@[simp] theorem State.setB_cancelReopen : (s.setB f i b).cancelReopen = s.cancelReopen := rfl
@[simp] theorem State.setB_pins : (s.setB f i b).pins = s.pins := rfl
@[simp] theorem State.setB_winPend : (s.setB f i b).winPend = s.winPend := rfl
@[simp] theorem State.setB_plQ : (s.setB f i b).plQ = s.plQ := rfl
@[simp] theorem State.setB_clkOff : (s.setB f i b).clkOff = s.clkOff := rfl
@[simp] theorem State.setB_harts : (s.setB f i b).harts = s.harts := rfl
@[simp] theorem State.setB_coreTrace : (s.setB f i b).coreTrace = s.coreTrace := rfl
@[simp] theorem State.setB_tsq : (s.setB f i b).tsq = s.tsq := rfl
@[simp] theorem State.setB_txs : (s.setB f i b).txs = s.txs := rfl
@[simp] theorem State.setB_wrq : (s.setB f i b).wrq = s.wrq := rfl
@[simp] theorem State.setB_mcq : (s.setB f i b).mcq = s.mcq := rfl
@[simp] theorem State.setB_mcGt : (s.setB f i b).mcGt = s.mcGt := rfl
@[simp] theorem State.setB_mcWin : (s.setB f i b).mcWin = s.mcWin := rfl
@[simp] theorem State.setB_mcBank : (s.setB f i b).mcBank = s.mcBank := rfl
@[simp] theorem State.setB_mcPend : (s.setB f i b).mcPend = s.mcPend := rfl
@[simp] theorem State.setB_scrubAt : (s.setB f i b).scrubAt = s.scrubAt := rfl
@[simp] theorem State.setB_initRun : (s.setB f i b).initRun = s.initRun := rfl
@[simp] theorem State.setB_dir : (s.setB f i b).dir = s.dir := rfl
@[simp] theorem State.setB_haQ : (s.setB f i b).haQ = s.haQ := rfl
@[simp] theorem State.setB_haTie : (s.setB f i b).haTie = s.haTie := rfl
@[simp] theorem State.setB_haTx : (s.setB f i b).haTx = s.haTx := rfl
@[simp] theorem State.setB_atomBuf : (s.setB f i b).atomBuf = s.atomBuf := rfl
@[simp] theorem State.setB_walks : (s.setB f i b).walks = s.walks := rfl
@[simp] theorem State.setB_l3 : (s.setB f i b).l3 = s.l3 := rfl
@[simp] theorem State.setB_vb : (s.setB f i b).vb = s.vb := rfl
@[simp] theorem State.setB_l3Pend : (s.setB f i b).l3Pend = s.l3Pend := rfl
@[simp] theorem State.setB_sliceQ : (s.setB f i b).sliceQ = s.sliceQ := rfl
@[simp] theorem State.setB_l2 : (s.setB f i b).l2 = s.l2 := rfl
@[simp] theorem State.setB_l1d : (s.setB f i b).l1d = s.l1d := rfl
@[simp] theorem State.setB_l1i : (s.setB f i b).l1i = s.l1i := rfl
@[simp] theorem State.setB_l2Pend : (s.setB f i b).l2Pend = s.l2Pend := rfl
@[simp] theorem State.setB_l2Held : (s.setB f i b).l2Held = s.l2Held := rfl
@[simp] theorem State.setB_ranges : (s.setB f i b).ranges = s.ranges := rfl
@[simp] theorem State.setB_l2BadWay : (s.setB f i b).l2BadWay = s.l2BadWay := rfl
@[simp] theorem State.setB_mcRate : (s.setB f i b).mcRate = s.mcRate := rfl
@[simp] theorem State.setB_initWb : (s.setB f i b).initWb = s.initWb := rfl
@[simp] theorem State.setB_testRun : (s.setB f i b).testRun = s.testRun := rfl
@[simp] theorem State.setB_testHeld : (s.setB f i b).testHeld = s.testHeld := rfl
@[simp] theorem State.setB_histNext : (s.setB f i b).histNext = s.histNext := rfl
@[simp] theorem State.setB_frameAt : (s.setB f i b).frameAt = s.frameAt := rfl
@[simp] theorem State.setB_peIdle : (s.setB f i b).peIdle = s.peIdle := rfl
@[simp] theorem State.setB_aonTb : (s.setB f i b).aonTb = s.aonTb := rfl
@[simp] theorem State.setB_pfAt : (s.setB f i b).pfAt = s.pfAt := rfl
@[simp] theorem State.setB_fine : (s.setB f i b).fine = s.fine := rfl
@[simp] theorem State.setB_excess : (s.setB f i b).excess = s.excess := rfl
@[simp] theorem State.setB_epochLag : (s.setB f i b).epochLag = s.epochLag := rfl
@[simp] theorem State.setB_winBusy : (s.setB f i b).winBusy = s.winBusy := rfl
@[simp] theorem State.setB_mcStart : (s.setB f i b).mcStart = s.mcStart := rfl
@[simp] theorem State.setB_mcOpen : (s.setB f i b).mcOpen = s.mcOpen := rfl
@[simp] theorem State.setB_sku : (s.setB f i b).sku = s.sku := rfl
@[simp] theorem State.setB_winCur : (s.setB f i b).winCur = s.winCur := rfl
@[simp] theorem State.setB_routes : (s.setB f i b).routes = s.routes := rfl
@[simp] theorem State.setB_epochCheck : (s.setB f i b).epochCheck = s.epochCheck := rfl
@[simp] theorem State.setB_batLive : (s.setB f i b).batLive = s.batLive := rfl
@[simp] theorem State.setB_batPost : (s.setB f i b).batPost = s.batPost := rfl
@[simp] theorem State.setB_batGap : (s.setB f i b).batGap = s.batGap := rfl
@[simp] theorem State.setB_batStage : (s.setB f i b).batStage = s.batStage := rfl
@[simp] theorem State.setB_batBuf : (s.setB f i b).batBuf = s.batBuf := rfl
@[simp] theorem State.setB_batFifo : (s.setB f i b).batFifo = s.batFifo := rfl
@[simp] theorem State.setB_bridges : (s.setB f i b).bridges = s.bridges := rfl
@[simp] theorem State.setB_dieTrans : (s.setB f i b).dieTrans = s.dieTrans := rfl
@[simp] theorem State.setB_dma : (s.setB f i b).dma = s.dma := rfl
@[simp] theorem State.setB_dmaTurn : (s.setB f i b).dmaTurn = s.dmaTurn := rfl
@[simp] theorem State.setB_dmaPtr : (s.setB f i b).dmaPtr = s.dmaPtr := rfl
@[simp] theorem State.setB_pulses : (s.setB f i b).pulses = s.pulses := rfl
@[simp] theorem State.setB_helm : (s.setB f i b).helm = s.helm := rfl
@[simp] theorem State.setB_partRun : (s.setB f i b).partRun = s.partRun := rfl
@[simp] theorem State.setB_hartNew : (s.setB f i b).hartNew = s.hartNew := rfl
@[simp] theorem State.setB_winOff : (s.setB f i b).winOff = s.winOff := rfl
@[simp] theorem State.setB_iommu : (s.setB f i b).iommu = s.iommu := rfl
@[simp] theorem State.setB_iommuFlt : (s.setB f i b).iommuFlt = s.iommuFlt := rfl
@[simp] theorem State.setB_aplic : (s.setB f i b).aplic = s.aplic := rfl
@[simp] theorem State.setB_wired : (s.setB f i b).wired = s.wired := rfl
@[simp] theorem State.setB_pwrIrq : (s.setB f i b).pwrIrq = s.pwrIrq := rfl
@[simp] theorem State.setB_peLive : (s.setB f i b).peLive = s.peLive := rfl
@[simp] theorem State.setB_peRd : (s.setB f i b).peRd = s.peRd := rfl
@[simp] theorem State.setB_peWait : (s.setB f i b).peWait = s.peWait := rfl
@[simp] theorem State.setB_peComb : (s.setB f i b).peComb = s.peComb := rfl
@[simp] theorem State.setB_peWr : (s.setB f i b).peWr = s.peWr := rfl
@[simp] theorem State.setB_peCfg : (s.setB f i b).peCfg = s.peCfg := rfl
@[simp] theorem State.setB_msix : (s.setB f i b).msix = s.msix := rfl
@[simp] theorem State.setB_aspm : (s.setB f i b).aspm = s.aspm := rfl
@[simp] theorem State.setB_inq : (s.setB f i b).inq = s.inq := rfl
@[simp] theorem State.setB_iwinCur : (s.setB f i b).iwinCur = s.iwinCur := rfl
@[simp] theorem State.setB_plLinks : (s.setB f i b).plLinks = s.plLinks := rfl
@[simp] theorem State.setB_plIn : (s.setB f i b).plIn = s.plIn := rfl
@[simp] theorem State.setB_plTx : (s.setB f i b).plTx = s.plTx := rfl
@[simp] theorem State.setB_plWait : (s.setB f i b).plWait = s.plWait := rfl
@[simp] theorem State.setB_plRx : (s.setB f i b).plRx = s.plRx := rfl
@[simp] theorem State.setB_pkgEnd : (s.setB f i b).pkgEnd = s.pkgEnd := rfl
@[simp] theorem State.setB_pkgOff : (s.setB f i b).pkgOff = s.pkgOff := rfl
@[simp] theorem State.setB_aonOff : (s.setB f i b).aonOff = s.aonOff := rfl
@[simp] theorem State.setB_freqGoal : (s.setB f i b).freqGoal = s.freqGoal := rfl
@[simp] theorem State.setB_samples : (s.setB f i b).samples = s.samples := rfl
@[simp] theorem State.setB_calm : (s.setB f i b).calm = s.calm := rfl
@[simp] theorem State.setB_mittenRef : (s.setB f i b).mittenRef = s.mittenRef := rfl
@[simp] theorem State.setB_gatePort : (s.setB f i b).gatePort = s.gatePort := rfl
@[simp] theorem State.setB_boot : (s.setB f i b).boot = s.boot := rfl
@[simp] theorem State.setB_flash : (s.setB f i b).flash = s.flash := rfl
@[simp] theorem State.setB_flashOp : (s.setB f i b).flashOp = s.flashOp := rfl
@[simp] theorem State.setB_rack : (s.setB f i b).rack = s.rack := rfl
@[simp] theorem State.setB_intake : (s.setB f i b).intake = s.intake := rfl
@[simp] theorem State.setB_rasUnread : (s.setB f i b).rasUnread = s.rasUnread := rfl
@[simp] theorem State.setB_rasAny : (s.setB f i b).rasAny = s.rasAny := rfl
@[simp] theorem State.setB_rasSeq : (s.setB f i b).rasSeq = s.rasSeq := rfl
@[simp] theorem State.setB_rasCoreUc : (s.setB f i b).rasCoreUc = s.rasCoreUc := rfl
@[simp] theorem State.setB_repairs : (s.setB f i b).repairs = s.repairs := rfl
@[simp] theorem State.setB_tap : (s.setB f i b).tap = s.tap := rfl
@[simp] theorem State.setB_dbg : (s.setB f i b).dbg = s.dbg := rfl
@[simp] theorem State.setB_ctrBuf : (s.setB f i b).ctrBuf = s.ctrBuf := rfl
@[simp] theorem State.setB_ctrFifo : (s.setB f i b).ctrFifo = s.ctrFifo := rfl

@[simp] theorem State.setByte_pending : (s.setByte a y).pending = s.pending := rfl
@[simp] theorem State.setByte_fresh : (s.setByte a y).fresh = s.fresh := rfl
@[simp] theorem State.setByte_regs : (s.setByte a y).regs = s.regs := rfl
@[simp] theorem State.setByte_out : (s.setByte a y).out = s.out := rfl
@[simp] theorem State.setByte_resp : (s.setByte a y).resp = s.resp := rfl
@[simp] theorem State.setByte_ports : (s.setByte a y).ports = s.ports := rfl
@[simp] theorem State.setByte_replicas : (s.setByte a y).replicas = s.replicas := rfl
@[simp] theorem State.setByte_cal : (s.setByte a y).cal = s.cal := rfl
@[simp] theorem State.setByte_due : (s.setByte a y).due = s.due := rfl
@[simp] theorem State.setByte_calHeld : (s.setByte a y).calHeld = s.calHeld := rfl
@[simp] theorem State.setByte_cancelQ : (s.setByte a y).cancelQ = s.cancelQ := rfl
@[simp] theorem State.setByte_cancelRun : (s.setByte a y).cancelRun = s.cancelRun := rfl
@[simp] theorem State.setByte_cancelReopen : (s.setByte a y).cancelReopen = s.cancelReopen := rfl
@[simp] theorem State.setByte_pins : (s.setByte a y).pins = s.pins := rfl
@[simp] theorem State.setByte_winPend : (s.setByte a y).winPend = s.winPend := rfl
@[simp] theorem State.setByte_plQ : (s.setByte a y).plQ = s.plQ := rfl
@[simp] theorem State.setByte_clkOff : (s.setByte a y).clkOff = s.clkOff := rfl
@[simp] theorem State.setByte_harts : (s.setByte a y).harts = s.harts := rfl
@[simp] theorem State.setByte_coreTrace : (s.setByte a y).coreTrace = s.coreTrace := rfl
@[simp] theorem State.setByte_tsq : (s.setByte a y).tsq = s.tsq := rfl
@[simp] theorem State.setByte_txs : (s.setByte a y).txs = s.txs := rfl
@[simp] theorem State.setByte_wrq : (s.setByte a y).wrq = s.wrq := rfl
@[simp] theorem State.setByte_mcq : (s.setByte a y).mcq = s.mcq := rfl
@[simp] theorem State.setByte_mcGt : (s.setByte a y).mcGt = s.mcGt := rfl
@[simp] theorem State.setByte_mcWin : (s.setByte a y).mcWin = s.mcWin := rfl
@[simp] theorem State.setByte_mcBank : (s.setByte a y).mcBank = s.mcBank := rfl
@[simp] theorem State.setByte_mcPend : (s.setByte a y).mcPend = s.mcPend := rfl
@[simp] theorem State.setByte_scrubAt : (s.setByte a y).scrubAt = s.scrubAt := rfl
@[simp] theorem State.setByte_initRun : (s.setByte a y).initRun = s.initRun := rfl
@[simp] theorem State.setByte_dir : (s.setByte a y).dir = s.dir := rfl
@[simp] theorem State.setByte_haQ : (s.setByte a y).haQ = s.haQ := rfl
@[simp] theorem State.setByte_haTie : (s.setByte a y).haTie = s.haTie := rfl
@[simp] theorem State.setByte_haTx : (s.setByte a y).haTx = s.haTx := rfl
@[simp] theorem State.setByte_atomBuf : (s.setByte a y).atomBuf = s.atomBuf := rfl
@[simp] theorem State.setByte_walks : (s.setByte a y).walks = s.walks := rfl
@[simp] theorem State.setByte_l3 : (s.setByte a y).l3 = s.l3 := rfl
@[simp] theorem State.setByte_vb : (s.setByte a y).vb = s.vb := rfl
@[simp] theorem State.setByte_l3Pend : (s.setByte a y).l3Pend = s.l3Pend := rfl
@[simp] theorem State.setByte_sliceQ : (s.setByte a y).sliceQ = s.sliceQ := rfl
@[simp] theorem State.setByte_l2 : (s.setByte a y).l2 = s.l2 := rfl
@[simp] theorem State.setByte_l1d : (s.setByte a y).l1d = s.l1d := rfl
@[simp] theorem State.setByte_l1i : (s.setByte a y).l1i = s.l1i := rfl
@[simp] theorem State.setByte_l2Pend : (s.setByte a y).l2Pend = s.l2Pend := rfl
@[simp] theorem State.setByte_l2Held : (s.setByte a y).l2Held = s.l2Held := rfl
@[simp] theorem State.setByte_ranges : (s.setByte a y).ranges = s.ranges := rfl
@[simp] theorem State.setByte_l2BadWay : (s.setByte a y).l2BadWay = s.l2BadWay := rfl
@[simp] theorem State.setByte_mcRate : (s.setByte a y).mcRate = s.mcRate := rfl
@[simp] theorem State.setByte_initWb : (s.setByte a y).initWb = s.initWb := rfl
@[simp] theorem State.setByte_testRun : (s.setByte a y).testRun = s.testRun := rfl
@[simp] theorem State.setByte_testHeld : (s.setByte a y).testHeld = s.testHeld := rfl
@[simp] theorem State.setByte_histNext : (s.setByte a y).histNext = s.histNext := rfl
@[simp] theorem State.setByte_frameAt : (s.setByte a y).frameAt = s.frameAt := rfl
@[simp] theorem State.setByte_peIdle : (s.setByte a y).peIdle = s.peIdle := rfl
@[simp] theorem State.setByte_aonTb : (s.setByte a y).aonTb = s.aonTb := rfl
@[simp] theorem State.setByte_pfAt : (s.setByte a y).pfAt = s.pfAt := rfl
@[simp] theorem State.setByte_fine : (s.setByte a y).fine = s.fine := rfl
@[simp] theorem State.setByte_excess : (s.setByte a y).excess = s.excess := rfl
@[simp] theorem State.setByte_epochLag : (s.setByte a y).epochLag = s.epochLag := rfl
@[simp] theorem State.setByte_winBusy : (s.setByte a y).winBusy = s.winBusy := rfl
@[simp] theorem State.setByte_mcStart : (s.setByte a y).mcStart = s.mcStart := rfl
@[simp] theorem State.setByte_mcOpen : (s.setByte a y).mcOpen = s.mcOpen := rfl
@[simp] theorem State.setByte_sku : (s.setByte a y).sku = s.sku := rfl
@[simp] theorem State.setByte_winCur : (s.setByte a y).winCur = s.winCur := rfl
@[simp] theorem State.setByte_routes : (s.setByte a y).routes = s.routes := rfl
@[simp] theorem State.setByte_epochCheck : (s.setByte a y).epochCheck = s.epochCheck := rfl
@[simp] theorem State.setByte_batLive : (s.setByte a y).batLive = s.batLive := rfl
@[simp] theorem State.setByte_batPost : (s.setByte a y).batPost = s.batPost := rfl
@[simp] theorem State.setByte_batGap : (s.setByte a y).batGap = s.batGap := rfl
@[simp] theorem State.setByte_batStage : (s.setByte a y).batStage = s.batStage := rfl
@[simp] theorem State.setByte_batBuf : (s.setByte a y).batBuf = s.batBuf := rfl
@[simp] theorem State.setByte_batFifo : (s.setByte a y).batFifo = s.batFifo := rfl
@[simp] theorem State.setByte_bridges : (s.setByte a y).bridges = s.bridges := rfl
@[simp] theorem State.setByte_dieTrans : (s.setByte a y).dieTrans = s.dieTrans := rfl
@[simp] theorem State.setByte_dma : (s.setByte a y).dma = s.dma := rfl
@[simp] theorem State.setByte_dmaTurn : (s.setByte a y).dmaTurn = s.dmaTurn := rfl
@[simp] theorem State.setByte_dmaPtr : (s.setByte a y).dmaPtr = s.dmaPtr := rfl
@[simp] theorem State.setByte_pulses : (s.setByte a y).pulses = s.pulses := rfl
@[simp] theorem State.setByte_helm : (s.setByte a y).helm = s.helm := rfl
@[simp] theorem State.setByte_partRun : (s.setByte a y).partRun = s.partRun := rfl
@[simp] theorem State.setByte_hartNew : (s.setByte a y).hartNew = s.hartNew := rfl
@[simp] theorem State.setByte_winOff : (s.setByte a y).winOff = s.winOff := rfl
@[simp] theorem State.setByte_iommu : (s.setByte a y).iommu = s.iommu := rfl
@[simp] theorem State.setByte_iommuFlt : (s.setByte a y).iommuFlt = s.iommuFlt := rfl
@[simp] theorem State.setByte_aplic : (s.setByte a y).aplic = s.aplic := rfl
@[simp] theorem State.setByte_wired : (s.setByte a y).wired = s.wired := rfl
@[simp] theorem State.setByte_pwrIrq : (s.setByte a y).pwrIrq = s.pwrIrq := rfl
@[simp] theorem State.setByte_peLive : (s.setByte a y).peLive = s.peLive := rfl
@[simp] theorem State.setByte_peRd : (s.setByte a y).peRd = s.peRd := rfl
@[simp] theorem State.setByte_peWait : (s.setByte a y).peWait = s.peWait := rfl
@[simp] theorem State.setByte_peComb : (s.setByte a y).peComb = s.peComb := rfl
@[simp] theorem State.setByte_peWr : (s.setByte a y).peWr = s.peWr := rfl
@[simp] theorem State.setByte_peCfg : (s.setByte a y).peCfg = s.peCfg := rfl
@[simp] theorem State.setByte_msix : (s.setByte a y).msix = s.msix := rfl
@[simp] theorem State.setByte_aspm : (s.setByte a y).aspm = s.aspm := rfl
@[simp] theorem State.setByte_inq : (s.setByte a y).inq = s.inq := rfl
@[simp] theorem State.setByte_iwinCur : (s.setByte a y).iwinCur = s.iwinCur := rfl
@[simp] theorem State.setByte_plLinks : (s.setByte a y).plLinks = s.plLinks := rfl
@[simp] theorem State.setByte_plIn : (s.setByte a y).plIn = s.plIn := rfl
@[simp] theorem State.setByte_plTx : (s.setByte a y).plTx = s.plTx := rfl
@[simp] theorem State.setByte_plWait : (s.setByte a y).plWait = s.plWait := rfl
@[simp] theorem State.setByte_plRx : (s.setByte a y).plRx = s.plRx := rfl
@[simp] theorem State.setByte_pkgEnd : (s.setByte a y).pkgEnd = s.pkgEnd := rfl
@[simp] theorem State.setByte_pkgOff : (s.setByte a y).pkgOff = s.pkgOff := rfl
@[simp] theorem State.setByte_aonOff : (s.setByte a y).aonOff = s.aonOff := rfl
@[simp] theorem State.setByte_freqGoal : (s.setByte a y).freqGoal = s.freqGoal := rfl
@[simp] theorem State.setByte_samples : (s.setByte a y).samples = s.samples := rfl
@[simp] theorem State.setByte_calm : (s.setByte a y).calm = s.calm := rfl
@[simp] theorem State.setByte_mittenRef : (s.setByte a y).mittenRef = s.mittenRef := rfl
@[simp] theorem State.setByte_gatePort : (s.setByte a y).gatePort = s.gatePort := rfl
@[simp] theorem State.setByte_boot : (s.setByte a y).boot = s.boot := rfl
@[simp] theorem State.setByte_flash : (s.setByte a y).flash = s.flash := rfl
@[simp] theorem State.setByte_flashOp : (s.setByte a y).flashOp = s.flashOp := rfl
@[simp] theorem State.setByte_rack : (s.setByte a y).rack = s.rack := rfl
@[simp] theorem State.setByte_intake : (s.setByte a y).intake = s.intake := rfl
@[simp] theorem State.setByte_rasUnread : (s.setByte a y).rasUnread = s.rasUnread := rfl
@[simp] theorem State.setByte_rasAny : (s.setByte a y).rasAny = s.rasAny := rfl
@[simp] theorem State.setByte_rasSeq : (s.setByte a y).rasSeq = s.rasSeq := rfl
@[simp] theorem State.setByte_rasCoreUc : (s.setByte a y).rasCoreUc = s.rasCoreUc := rfl
@[simp] theorem State.setByte_repairs : (s.setByte a y).repairs = s.repairs := rfl
@[simp] theorem State.setByte_tap : (s.setByte a y).tap = s.tap := rfl
@[simp] theorem State.setByte_dbg : (s.setByte a y).dbg = s.dbg := rfl
@[simp] theorem State.setByte_ctrBuf : (s.setByte a y).ctrBuf = s.ctrBuf := rfl
@[simp] theorem State.setByte_ctrFifo : (s.setByte a y).ctrFifo = s.ctrFifo := rfl

@[simp] theorem State.answer_pending : (s.answer v).pending = s.pending := rfl
@[simp] theorem State.answer_fresh : (s.answer v).fresh = s.fresh := rfl
@[simp] theorem State.answer_regs : (s.answer v).regs = s.regs := rfl
@[simp] theorem State.answer_out : (s.answer v).out = s.out := rfl
@[simp] theorem State.answer_mem : (s.answer v).mem = s.mem := rfl
@[simp] theorem State.answer_ports : (s.answer v).ports = s.ports := rfl
@[simp] theorem State.answer_replicas : (s.answer v).replicas = s.replicas := rfl
@[simp] theorem State.answer_cal : (s.answer v).cal = s.cal := rfl
@[simp] theorem State.answer_due : (s.answer v).due = s.due := rfl
@[simp] theorem State.answer_calHeld : (s.answer v).calHeld = s.calHeld := rfl
@[simp] theorem State.answer_cancelQ : (s.answer v).cancelQ = s.cancelQ := rfl
@[simp] theorem State.answer_cancelRun : (s.answer v).cancelRun = s.cancelRun := rfl
@[simp] theorem State.answer_cancelReopen : (s.answer v).cancelReopen = s.cancelReopen := rfl
@[simp] theorem State.answer_pins : (s.answer v).pins = s.pins := rfl
@[simp] theorem State.answer_winPend : (s.answer v).winPend = s.winPend := rfl
@[simp] theorem State.answer_plQ : (s.answer v).plQ = s.plQ := rfl
@[simp] theorem State.answer_clkOff : (s.answer v).clkOff = s.clkOff := rfl
@[simp] theorem State.answer_harts : (s.answer v).harts = s.harts := rfl
@[simp] theorem State.answer_coreTrace : (s.answer v).coreTrace = s.coreTrace := rfl
@[simp] theorem State.answer_tsq : (s.answer v).tsq = s.tsq := rfl
@[simp] theorem State.answer_txs : (s.answer v).txs = s.txs := rfl
@[simp] theorem State.answer_wrq : (s.answer v).wrq = s.wrq := rfl
@[simp] theorem State.answer_mcq : (s.answer v).mcq = s.mcq := rfl
@[simp] theorem State.answer_mcGt : (s.answer v).mcGt = s.mcGt := rfl
@[simp] theorem State.answer_mcWin : (s.answer v).mcWin = s.mcWin := rfl
@[simp] theorem State.answer_mcBank : (s.answer v).mcBank = s.mcBank := rfl
@[simp] theorem State.answer_mcPend : (s.answer v).mcPend = s.mcPend := rfl
@[simp] theorem State.answer_scrubAt : (s.answer v).scrubAt = s.scrubAt := rfl
@[simp] theorem State.answer_initRun : (s.answer v).initRun = s.initRun := rfl
@[simp] theorem State.answer_dir : (s.answer v).dir = s.dir := rfl
@[simp] theorem State.answer_haQ : (s.answer v).haQ = s.haQ := rfl
@[simp] theorem State.answer_haTie : (s.answer v).haTie = s.haTie := rfl
@[simp] theorem State.answer_haTx : (s.answer v).haTx = s.haTx := rfl
@[simp] theorem State.answer_atomBuf : (s.answer v).atomBuf = s.atomBuf := rfl
@[simp] theorem State.answer_walks : (s.answer v).walks = s.walks := rfl
@[simp] theorem State.answer_l3 : (s.answer v).l3 = s.l3 := rfl
@[simp] theorem State.answer_vb : (s.answer v).vb = s.vb := rfl
@[simp] theorem State.answer_l3Pend : (s.answer v).l3Pend = s.l3Pend := rfl
@[simp] theorem State.answer_sliceQ : (s.answer v).sliceQ = s.sliceQ := rfl
@[simp] theorem State.answer_l2 : (s.answer v).l2 = s.l2 := rfl
@[simp] theorem State.answer_l1d : (s.answer v).l1d = s.l1d := rfl
@[simp] theorem State.answer_l1i : (s.answer v).l1i = s.l1i := rfl
@[simp] theorem State.answer_l2Pend : (s.answer v).l2Pend = s.l2Pend := rfl
@[simp] theorem State.answer_l2Held : (s.answer v).l2Held = s.l2Held := rfl
@[simp] theorem State.answer_ranges : (s.answer v).ranges = s.ranges := rfl
@[simp] theorem State.answer_l2BadWay : (s.answer v).l2BadWay = s.l2BadWay := rfl
@[simp] theorem State.answer_mcRate : (s.answer v).mcRate = s.mcRate := rfl
@[simp] theorem State.answer_initWb : (s.answer v).initWb = s.initWb := rfl
@[simp] theorem State.answer_testRun : (s.answer v).testRun = s.testRun := rfl
@[simp] theorem State.answer_testHeld : (s.answer v).testHeld = s.testHeld := rfl
@[simp] theorem State.answer_histNext : (s.answer v).histNext = s.histNext := rfl
@[simp] theorem State.answer_frameAt : (s.answer v).frameAt = s.frameAt := rfl
@[simp] theorem State.answer_peIdle : (s.answer v).peIdle = s.peIdle := rfl
@[simp] theorem State.answer_aonTb : (s.answer v).aonTb = s.aonTb := rfl
@[simp] theorem State.answer_pfAt : (s.answer v).pfAt = s.pfAt := rfl
@[simp] theorem State.answer_fine : (s.answer v).fine = s.fine := rfl
@[simp] theorem State.answer_excess : (s.answer v).excess = s.excess := rfl
@[simp] theorem State.answer_epochLag : (s.answer v).epochLag = s.epochLag := rfl
@[simp] theorem State.answer_winBusy : (s.answer v).winBusy = s.winBusy := rfl
@[simp] theorem State.answer_mcStart : (s.answer v).mcStart = s.mcStart := rfl
@[simp] theorem State.answer_mcOpen : (s.answer v).mcOpen = s.mcOpen := rfl
@[simp] theorem State.answer_sku : (s.answer v).sku = s.sku := rfl
@[simp] theorem State.answer_winCur : (s.answer v).winCur = s.winCur := rfl
@[simp] theorem State.answer_routes : (s.answer v).routes = s.routes := rfl
@[simp] theorem State.answer_epochCheck : (s.answer v).epochCheck = s.epochCheck := rfl
@[simp] theorem State.answer_batLive : (s.answer v).batLive = s.batLive := rfl
@[simp] theorem State.answer_batPost : (s.answer v).batPost = s.batPost := rfl
@[simp] theorem State.answer_batGap : (s.answer v).batGap = s.batGap := rfl
@[simp] theorem State.answer_batStage : (s.answer v).batStage = s.batStage := rfl
@[simp] theorem State.answer_batBuf : (s.answer v).batBuf = s.batBuf := rfl
@[simp] theorem State.answer_batFifo : (s.answer v).batFifo = s.batFifo := rfl
@[simp] theorem State.answer_bridges : (s.answer v).bridges = s.bridges := rfl
@[simp] theorem State.answer_dieTrans : (s.answer v).dieTrans = s.dieTrans := rfl
@[simp] theorem State.answer_dma : (s.answer v).dma = s.dma := rfl
@[simp] theorem State.answer_dmaTurn : (s.answer v).dmaTurn = s.dmaTurn := rfl
@[simp] theorem State.answer_dmaPtr : (s.answer v).dmaPtr = s.dmaPtr := rfl
@[simp] theorem State.answer_pulses : (s.answer v).pulses = s.pulses := rfl
@[simp] theorem State.answer_helm : (s.answer v).helm = s.helm := rfl
@[simp] theorem State.answer_partRun : (s.answer v).partRun = s.partRun := rfl
@[simp] theorem State.answer_hartNew : (s.answer v).hartNew = s.hartNew := rfl
@[simp] theorem State.answer_winOff : (s.answer v).winOff = s.winOff := rfl
@[simp] theorem State.answer_iommu : (s.answer v).iommu = s.iommu := rfl
@[simp] theorem State.answer_iommuFlt : (s.answer v).iommuFlt = s.iommuFlt := rfl
@[simp] theorem State.answer_aplic : (s.answer v).aplic = s.aplic := rfl
@[simp] theorem State.answer_wired : (s.answer v).wired = s.wired := rfl
@[simp] theorem State.answer_pwrIrq : (s.answer v).pwrIrq = s.pwrIrq := rfl
@[simp] theorem State.answer_peLive : (s.answer v).peLive = s.peLive := rfl
@[simp] theorem State.answer_peRd : (s.answer v).peRd = s.peRd := rfl
@[simp] theorem State.answer_peWait : (s.answer v).peWait = s.peWait := rfl
@[simp] theorem State.answer_peComb : (s.answer v).peComb = s.peComb := rfl
@[simp] theorem State.answer_peWr : (s.answer v).peWr = s.peWr := rfl
@[simp] theorem State.answer_peCfg : (s.answer v).peCfg = s.peCfg := rfl
@[simp] theorem State.answer_msix : (s.answer v).msix = s.msix := rfl
@[simp] theorem State.answer_aspm : (s.answer v).aspm = s.aspm := rfl
@[simp] theorem State.answer_inq : (s.answer v).inq = s.inq := rfl
@[simp] theorem State.answer_iwinCur : (s.answer v).iwinCur = s.iwinCur := rfl
@[simp] theorem State.answer_plLinks : (s.answer v).plLinks = s.plLinks := rfl
@[simp] theorem State.answer_plIn : (s.answer v).plIn = s.plIn := rfl
@[simp] theorem State.answer_plTx : (s.answer v).plTx = s.plTx := rfl
@[simp] theorem State.answer_plWait : (s.answer v).plWait = s.plWait := rfl
@[simp] theorem State.answer_plRx : (s.answer v).plRx = s.plRx := rfl
@[simp] theorem State.answer_pkgEnd : (s.answer v).pkgEnd = s.pkgEnd := rfl
@[simp] theorem State.answer_pkgOff : (s.answer v).pkgOff = s.pkgOff := rfl
@[simp] theorem State.answer_aonOff : (s.answer v).aonOff = s.aonOff := rfl
@[simp] theorem State.answer_freqGoal : (s.answer v).freqGoal = s.freqGoal := rfl
@[simp] theorem State.answer_samples : (s.answer v).samples = s.samples := rfl
@[simp] theorem State.answer_calm : (s.answer v).calm = s.calm := rfl
@[simp] theorem State.answer_mittenRef : (s.answer v).mittenRef = s.mittenRef := rfl
@[simp] theorem State.answer_gatePort : (s.answer v).gatePort = s.gatePort := rfl
@[simp] theorem State.answer_boot : (s.answer v).boot = s.boot := rfl
@[simp] theorem State.answer_flash : (s.answer v).flash = s.flash := rfl
@[simp] theorem State.answer_flashOp : (s.answer v).flashOp = s.flashOp := rfl
@[simp] theorem State.answer_rack : (s.answer v).rack = s.rack := rfl
@[simp] theorem State.answer_intake : (s.answer v).intake = s.intake := rfl
@[simp] theorem State.answer_rasUnread : (s.answer v).rasUnread = s.rasUnread := rfl
@[simp] theorem State.answer_rasAny : (s.answer v).rasAny = s.rasAny := rfl
@[simp] theorem State.answer_rasSeq : (s.answer v).rasSeq = s.rasSeq := rfl
@[simp] theorem State.answer_rasCoreUc : (s.answer v).rasCoreUc = s.rasCoreUc := rfl
@[simp] theorem State.answer_repairs : (s.answer v).repairs = s.repairs := rfl
@[simp] theorem State.answer_tap : (s.answer v).tap = s.tap := rfl
@[simp] theorem State.answer_dbg : (s.answer v).dbg = s.dbg := rfl
@[simp] theorem State.answer_ctrBuf : (s.answer v).ctrBuf = s.ctrBuf := rfl
@[simp] theorem State.answer_ctrFifo : (s.answer v).ctrFifo = s.ctrFifo := rfl

@[simp] theorem State.answerErr_pending : (s.answerErr e).pending = s.pending := rfl
@[simp] theorem State.answerErr_fresh : (s.answerErr e).fresh = s.fresh := rfl
@[simp] theorem State.answerErr_regs : (s.answerErr e).regs = s.regs := rfl
@[simp] theorem State.answerErr_out : (s.answerErr e).out = s.out := rfl
@[simp] theorem State.answerErr_mem : (s.answerErr e).mem = s.mem := rfl
@[simp] theorem State.answerErr_ports : (s.answerErr e).ports = s.ports := rfl
@[simp] theorem State.answerErr_replicas : (s.answerErr e).replicas = s.replicas := rfl
@[simp] theorem State.answerErr_cal : (s.answerErr e).cal = s.cal := rfl
@[simp] theorem State.answerErr_due : (s.answerErr e).due = s.due := rfl
@[simp] theorem State.answerErr_calHeld : (s.answerErr e).calHeld = s.calHeld := rfl
@[simp] theorem State.answerErr_cancelQ : (s.answerErr e).cancelQ = s.cancelQ := rfl
@[simp] theorem State.answerErr_cancelRun : (s.answerErr e).cancelRun = s.cancelRun := rfl
@[simp] theorem State.answerErr_cancelReopen : (s.answerErr e).cancelReopen = s.cancelReopen := rfl
@[simp] theorem State.answerErr_pins : (s.answerErr e).pins = s.pins := rfl
@[simp] theorem State.answerErr_winPend : (s.answerErr e).winPend = s.winPend := rfl
@[simp] theorem State.answerErr_plQ : (s.answerErr e).plQ = s.plQ := rfl
@[simp] theorem State.answerErr_clkOff : (s.answerErr e).clkOff = s.clkOff := rfl
@[simp] theorem State.answerErr_harts : (s.answerErr e).harts = s.harts := rfl
@[simp] theorem State.answerErr_coreTrace : (s.answerErr e).coreTrace = s.coreTrace := rfl
@[simp] theorem State.answerErr_tsq : (s.answerErr e).tsq = s.tsq := rfl
@[simp] theorem State.answerErr_txs : (s.answerErr e).txs = s.txs := rfl
@[simp] theorem State.answerErr_wrq : (s.answerErr e).wrq = s.wrq := rfl
@[simp] theorem State.answerErr_mcq : (s.answerErr e).mcq = s.mcq := rfl
@[simp] theorem State.answerErr_mcGt : (s.answerErr e).mcGt = s.mcGt := rfl
@[simp] theorem State.answerErr_mcWin : (s.answerErr e).mcWin = s.mcWin := rfl
@[simp] theorem State.answerErr_mcBank : (s.answerErr e).mcBank = s.mcBank := rfl
@[simp] theorem State.answerErr_mcPend : (s.answerErr e).mcPend = s.mcPend := rfl
@[simp] theorem State.answerErr_scrubAt : (s.answerErr e).scrubAt = s.scrubAt := rfl
@[simp] theorem State.answerErr_initRun : (s.answerErr e).initRun = s.initRun := rfl
@[simp] theorem State.answerErr_dir : (s.answerErr e).dir = s.dir := rfl
@[simp] theorem State.answerErr_haQ : (s.answerErr e).haQ = s.haQ := rfl
@[simp] theorem State.answerErr_haTie : (s.answerErr e).haTie = s.haTie := rfl
@[simp] theorem State.answerErr_haTx : (s.answerErr e).haTx = s.haTx := rfl
@[simp] theorem State.answerErr_atomBuf : (s.answerErr e).atomBuf = s.atomBuf := rfl
@[simp] theorem State.answerErr_walks : (s.answerErr e).walks = s.walks := rfl
@[simp] theorem State.answerErr_l3 : (s.answerErr e).l3 = s.l3 := rfl
@[simp] theorem State.answerErr_vb : (s.answerErr e).vb = s.vb := rfl
@[simp] theorem State.answerErr_l3Pend : (s.answerErr e).l3Pend = s.l3Pend := rfl
@[simp] theorem State.answerErr_sliceQ : (s.answerErr e).sliceQ = s.sliceQ := rfl
@[simp] theorem State.answerErr_l2 : (s.answerErr e).l2 = s.l2 := rfl
@[simp] theorem State.answerErr_l1d : (s.answerErr e).l1d = s.l1d := rfl
@[simp] theorem State.answerErr_l1i : (s.answerErr e).l1i = s.l1i := rfl
@[simp] theorem State.answerErr_l2Pend : (s.answerErr e).l2Pend = s.l2Pend := rfl
@[simp] theorem State.answerErr_l2Held : (s.answerErr e).l2Held = s.l2Held := rfl
@[simp] theorem State.answerErr_ranges : (s.answerErr e).ranges = s.ranges := rfl
@[simp] theorem State.answerErr_l2BadWay : (s.answerErr e).l2BadWay = s.l2BadWay := rfl
@[simp] theorem State.answerErr_mcRate : (s.answerErr e).mcRate = s.mcRate := rfl
@[simp] theorem State.answerErr_initWb : (s.answerErr e).initWb = s.initWb := rfl
@[simp] theorem State.answerErr_testRun : (s.answerErr e).testRun = s.testRun := rfl
@[simp] theorem State.answerErr_testHeld : (s.answerErr e).testHeld = s.testHeld := rfl
@[simp] theorem State.answerErr_histNext : (s.answerErr e).histNext = s.histNext := rfl
@[simp] theorem State.answerErr_frameAt : (s.answerErr e).frameAt = s.frameAt := rfl
@[simp] theorem State.answerErr_peIdle : (s.answerErr e).peIdle = s.peIdle := rfl
@[simp] theorem State.answerErr_aonTb : (s.answerErr e).aonTb = s.aonTb := rfl
@[simp] theorem State.answerErr_pfAt : (s.answerErr e).pfAt = s.pfAt := rfl
@[simp] theorem State.answerErr_fine : (s.answerErr e).fine = s.fine := rfl
@[simp] theorem State.answerErr_excess : (s.answerErr e).excess = s.excess := rfl
@[simp] theorem State.answerErr_epochLag : (s.answerErr e).epochLag = s.epochLag := rfl
@[simp] theorem State.answerErr_winBusy : (s.answerErr e).winBusy = s.winBusy := rfl
@[simp] theorem State.answerErr_mcStart : (s.answerErr e).mcStart = s.mcStart := rfl
@[simp] theorem State.answerErr_mcOpen : (s.answerErr e).mcOpen = s.mcOpen := rfl
@[simp] theorem State.answerErr_sku : (s.answerErr e).sku = s.sku := rfl
@[simp] theorem State.answerErr_winCur : (s.answerErr e).winCur = s.winCur := rfl
@[simp] theorem State.answerErr_routes : (s.answerErr e).routes = s.routes := rfl
@[simp] theorem State.answerErr_epochCheck : (s.answerErr e).epochCheck = s.epochCheck := rfl
@[simp] theorem State.answerErr_batLive : (s.answerErr e).batLive = s.batLive := rfl
@[simp] theorem State.answerErr_batPost : (s.answerErr e).batPost = s.batPost := rfl
@[simp] theorem State.answerErr_batGap : (s.answerErr e).batGap = s.batGap := rfl
@[simp] theorem State.answerErr_batStage : (s.answerErr e).batStage = s.batStage := rfl
@[simp] theorem State.answerErr_batBuf : (s.answerErr e).batBuf = s.batBuf := rfl
@[simp] theorem State.answerErr_batFifo : (s.answerErr e).batFifo = s.batFifo := rfl
@[simp] theorem State.answerErr_bridges : (s.answerErr e).bridges = s.bridges := rfl
@[simp] theorem State.answerErr_dieTrans : (s.answerErr e).dieTrans = s.dieTrans := rfl
@[simp] theorem State.answerErr_dma : (s.answerErr e).dma = s.dma := rfl
@[simp] theorem State.answerErr_dmaTurn : (s.answerErr e).dmaTurn = s.dmaTurn := rfl
@[simp] theorem State.answerErr_dmaPtr : (s.answerErr e).dmaPtr = s.dmaPtr := rfl
@[simp] theorem State.answerErr_pulses : (s.answerErr e).pulses = s.pulses := rfl
@[simp] theorem State.answerErr_helm : (s.answerErr e).helm = s.helm := rfl
@[simp] theorem State.answerErr_partRun : (s.answerErr e).partRun = s.partRun := rfl
@[simp] theorem State.answerErr_hartNew : (s.answerErr e).hartNew = s.hartNew := rfl
@[simp] theorem State.answerErr_winOff : (s.answerErr e).winOff = s.winOff := rfl
@[simp] theorem State.answerErr_iommu : (s.answerErr e).iommu = s.iommu := rfl
@[simp] theorem State.answerErr_iommuFlt : (s.answerErr e).iommuFlt = s.iommuFlt := rfl
@[simp] theorem State.answerErr_aplic : (s.answerErr e).aplic = s.aplic := rfl
@[simp] theorem State.answerErr_wired : (s.answerErr e).wired = s.wired := rfl
@[simp] theorem State.answerErr_pwrIrq : (s.answerErr e).pwrIrq = s.pwrIrq := rfl
@[simp] theorem State.answerErr_peLive : (s.answerErr e).peLive = s.peLive := rfl
@[simp] theorem State.answerErr_peRd : (s.answerErr e).peRd = s.peRd := rfl
@[simp] theorem State.answerErr_peWait : (s.answerErr e).peWait = s.peWait := rfl
@[simp] theorem State.answerErr_peComb : (s.answerErr e).peComb = s.peComb := rfl
@[simp] theorem State.answerErr_peWr : (s.answerErr e).peWr = s.peWr := rfl
@[simp] theorem State.answerErr_peCfg : (s.answerErr e).peCfg = s.peCfg := rfl
@[simp] theorem State.answerErr_msix : (s.answerErr e).msix = s.msix := rfl
@[simp] theorem State.answerErr_aspm : (s.answerErr e).aspm = s.aspm := rfl
@[simp] theorem State.answerErr_inq : (s.answerErr e).inq = s.inq := rfl
@[simp] theorem State.answerErr_iwinCur : (s.answerErr e).iwinCur = s.iwinCur := rfl
@[simp] theorem State.answerErr_plLinks : (s.answerErr e).plLinks = s.plLinks := rfl
@[simp] theorem State.answerErr_plIn : (s.answerErr e).plIn = s.plIn := rfl
@[simp] theorem State.answerErr_plTx : (s.answerErr e).plTx = s.plTx := rfl
@[simp] theorem State.answerErr_plWait : (s.answerErr e).plWait = s.plWait := rfl
@[simp] theorem State.answerErr_plRx : (s.answerErr e).plRx = s.plRx := rfl
@[simp] theorem State.answerErr_pkgEnd : (s.answerErr e).pkgEnd = s.pkgEnd := rfl
@[simp] theorem State.answerErr_pkgOff : (s.answerErr e).pkgOff = s.pkgOff := rfl
@[simp] theorem State.answerErr_aonOff : (s.answerErr e).aonOff = s.aonOff := rfl
@[simp] theorem State.answerErr_freqGoal : (s.answerErr e).freqGoal = s.freqGoal := rfl
@[simp] theorem State.answerErr_samples : (s.answerErr e).samples = s.samples := rfl
@[simp] theorem State.answerErr_calm : (s.answerErr e).calm = s.calm := rfl
@[simp] theorem State.answerErr_mittenRef : (s.answerErr e).mittenRef = s.mittenRef := rfl
@[simp] theorem State.answerErr_gatePort : (s.answerErr e).gatePort = s.gatePort := rfl
@[simp] theorem State.answerErr_boot : (s.answerErr e).boot = s.boot := rfl
@[simp] theorem State.answerErr_flash : (s.answerErr e).flash = s.flash := rfl
@[simp] theorem State.answerErr_flashOp : (s.answerErr e).flashOp = s.flashOp := rfl
@[simp] theorem State.answerErr_rack : (s.answerErr e).rack = s.rack := rfl
@[simp] theorem State.answerErr_intake : (s.answerErr e).intake = s.intake := rfl
@[simp] theorem State.answerErr_rasUnread : (s.answerErr e).rasUnread = s.rasUnread := rfl
@[simp] theorem State.answerErr_rasAny : (s.answerErr e).rasAny = s.rasAny := rfl
@[simp] theorem State.answerErr_rasSeq : (s.answerErr e).rasSeq = s.rasSeq := rfl
@[simp] theorem State.answerErr_rasCoreUc : (s.answerErr e).rasCoreUc = s.rasCoreUc := rfl
@[simp] theorem State.answerErr_repairs : (s.answerErr e).repairs = s.repairs := rfl
@[simp] theorem State.answerErr_tap : (s.answerErr e).tap = s.tap := rfl
@[simp] theorem State.answerErr_dbg : (s.answerErr e).dbg = s.dbg := rfl
@[simp] theorem State.answerErr_ctrBuf : (s.answerErr e).ctrBuf = s.ctrBuf := rfl
@[simp] theorem State.answerErr_ctrFifo : (s.answerErr e).ctrFifo = s.ctrFifo := rfl

@[simp] theorem State.bump_pending : (s.bump).pending = s.pending := rfl
@[simp] theorem State.bump_regs : (s.bump).regs = s.regs := rfl
@[simp] theorem State.bump_out : (s.bump).out = s.out := rfl
@[simp] theorem State.bump_mem : (s.bump).mem = s.mem := rfl
@[simp] theorem State.bump_resp : (s.bump).resp = s.resp := rfl
@[simp] theorem State.bump_ports : (s.bump).ports = s.ports := rfl
@[simp] theorem State.bump_replicas : (s.bump).replicas = s.replicas := rfl
@[simp] theorem State.bump_cal : (s.bump).cal = s.cal := rfl
@[simp] theorem State.bump_due : (s.bump).due = s.due := rfl
@[simp] theorem State.bump_calHeld : (s.bump).calHeld = s.calHeld := rfl
@[simp] theorem State.bump_cancelQ : (s.bump).cancelQ = s.cancelQ := rfl
@[simp] theorem State.bump_cancelRun : (s.bump).cancelRun = s.cancelRun := rfl
@[simp] theorem State.bump_cancelReopen : (s.bump).cancelReopen = s.cancelReopen := rfl
@[simp] theorem State.bump_pins : (s.bump).pins = s.pins := rfl
@[simp] theorem State.bump_winPend : (s.bump).winPend = s.winPend := rfl
@[simp] theorem State.bump_plQ : (s.bump).plQ = s.plQ := rfl
@[simp] theorem State.bump_clkOff : (s.bump).clkOff = s.clkOff := rfl
@[simp] theorem State.bump_harts : (s.bump).harts = s.harts := rfl
@[simp] theorem State.bump_coreTrace : (s.bump).coreTrace = s.coreTrace := rfl
@[simp] theorem State.bump_tsq : (s.bump).tsq = s.tsq := rfl
@[simp] theorem State.bump_txs : (s.bump).txs = s.txs := rfl
@[simp] theorem State.bump_wrq : (s.bump).wrq = s.wrq := rfl
@[simp] theorem State.bump_mcq : (s.bump).mcq = s.mcq := rfl
@[simp] theorem State.bump_mcGt : (s.bump).mcGt = s.mcGt := rfl
@[simp] theorem State.bump_mcWin : (s.bump).mcWin = s.mcWin := rfl
@[simp] theorem State.bump_mcBank : (s.bump).mcBank = s.mcBank := rfl
@[simp] theorem State.bump_mcPend : (s.bump).mcPend = s.mcPend := rfl
@[simp] theorem State.bump_scrubAt : (s.bump).scrubAt = s.scrubAt := rfl
@[simp] theorem State.bump_initRun : (s.bump).initRun = s.initRun := rfl
@[simp] theorem State.bump_dir : (s.bump).dir = s.dir := rfl
@[simp] theorem State.bump_haQ : (s.bump).haQ = s.haQ := rfl
@[simp] theorem State.bump_haTie : (s.bump).haTie = s.haTie := rfl
@[simp] theorem State.bump_haTx : (s.bump).haTx = s.haTx := rfl
@[simp] theorem State.bump_atomBuf : (s.bump).atomBuf = s.atomBuf := rfl
@[simp] theorem State.bump_walks : (s.bump).walks = s.walks := rfl
@[simp] theorem State.bump_l3 : (s.bump).l3 = s.l3 := rfl
@[simp] theorem State.bump_vb : (s.bump).vb = s.vb := rfl
@[simp] theorem State.bump_l3Pend : (s.bump).l3Pend = s.l3Pend := rfl
@[simp] theorem State.bump_sliceQ : (s.bump).sliceQ = s.sliceQ := rfl
@[simp] theorem State.bump_l2 : (s.bump).l2 = s.l2 := rfl
@[simp] theorem State.bump_l1d : (s.bump).l1d = s.l1d := rfl
@[simp] theorem State.bump_l1i : (s.bump).l1i = s.l1i := rfl
@[simp] theorem State.bump_l2Pend : (s.bump).l2Pend = s.l2Pend := rfl
@[simp] theorem State.bump_l2Held : (s.bump).l2Held = s.l2Held := rfl
@[simp] theorem State.bump_ranges : (s.bump).ranges = s.ranges := rfl
@[simp] theorem State.bump_l2BadWay : (s.bump).l2BadWay = s.l2BadWay := rfl
@[simp] theorem State.bump_mcRate : (s.bump).mcRate = s.mcRate := rfl
@[simp] theorem State.bump_initWb : (s.bump).initWb = s.initWb := rfl
@[simp] theorem State.bump_testRun : (s.bump).testRun = s.testRun := rfl
@[simp] theorem State.bump_testHeld : (s.bump).testHeld = s.testHeld := rfl
@[simp] theorem State.bump_histNext : (s.bump).histNext = s.histNext := rfl
@[simp] theorem State.bump_frameAt : (s.bump).frameAt = s.frameAt := rfl
@[simp] theorem State.bump_peIdle : (s.bump).peIdle = s.peIdle := rfl
@[simp] theorem State.bump_aonTb : (s.bump).aonTb = s.aonTb := rfl
@[simp] theorem State.bump_pfAt : (s.bump).pfAt = s.pfAt := rfl
@[simp] theorem State.bump_fine : (s.bump).fine = s.fine := rfl
@[simp] theorem State.bump_excess : (s.bump).excess = s.excess := rfl
@[simp] theorem State.bump_epochLag : (s.bump).epochLag = s.epochLag := rfl
@[simp] theorem State.bump_winBusy : (s.bump).winBusy = s.winBusy := rfl
@[simp] theorem State.bump_mcStart : (s.bump).mcStart = s.mcStart := rfl
@[simp] theorem State.bump_mcOpen : (s.bump).mcOpen = s.mcOpen := rfl
@[simp] theorem State.bump_sku : (s.bump).sku = s.sku := rfl
@[simp] theorem State.bump_winCur : (s.bump).winCur = s.winCur := rfl
@[simp] theorem State.bump_routes : (s.bump).routes = s.routes := rfl
@[simp] theorem State.bump_epochCheck : (s.bump).epochCheck = s.epochCheck := rfl
@[simp] theorem State.bump_batLive : (s.bump).batLive = s.batLive := rfl
@[simp] theorem State.bump_batPost : (s.bump).batPost = s.batPost := rfl
@[simp] theorem State.bump_batGap : (s.bump).batGap = s.batGap := rfl
@[simp] theorem State.bump_batStage : (s.bump).batStage = s.batStage := rfl
@[simp] theorem State.bump_batBuf : (s.bump).batBuf = s.batBuf := rfl
@[simp] theorem State.bump_batFifo : (s.bump).batFifo = s.batFifo := rfl
@[simp] theorem State.bump_bridges : (s.bump).bridges = s.bridges := rfl
@[simp] theorem State.bump_dieTrans : (s.bump).dieTrans = s.dieTrans := rfl
@[simp] theorem State.bump_dma : (s.bump).dma = s.dma := rfl
@[simp] theorem State.bump_dmaTurn : (s.bump).dmaTurn = s.dmaTurn := rfl
@[simp] theorem State.bump_dmaPtr : (s.bump).dmaPtr = s.dmaPtr := rfl
@[simp] theorem State.bump_pulses : (s.bump).pulses = s.pulses := rfl
@[simp] theorem State.bump_helm : (s.bump).helm = s.helm := rfl
@[simp] theorem State.bump_partRun : (s.bump).partRun = s.partRun := rfl
@[simp] theorem State.bump_hartNew : (s.bump).hartNew = s.hartNew := rfl
@[simp] theorem State.bump_winOff : (s.bump).winOff = s.winOff := rfl
@[simp] theorem State.bump_iommu : (s.bump).iommu = s.iommu := rfl
@[simp] theorem State.bump_iommuFlt : (s.bump).iommuFlt = s.iommuFlt := rfl
@[simp] theorem State.bump_aplic : (s.bump).aplic = s.aplic := rfl
@[simp] theorem State.bump_wired : (s.bump).wired = s.wired := rfl
@[simp] theorem State.bump_pwrIrq : (s.bump).pwrIrq = s.pwrIrq := rfl
@[simp] theorem State.bump_peLive : (s.bump).peLive = s.peLive := rfl
@[simp] theorem State.bump_peRd : (s.bump).peRd = s.peRd := rfl
@[simp] theorem State.bump_peWait : (s.bump).peWait = s.peWait := rfl
@[simp] theorem State.bump_peComb : (s.bump).peComb = s.peComb := rfl
@[simp] theorem State.bump_peWr : (s.bump).peWr = s.peWr := rfl
@[simp] theorem State.bump_peCfg : (s.bump).peCfg = s.peCfg := rfl
@[simp] theorem State.bump_msix : (s.bump).msix = s.msix := rfl
@[simp] theorem State.bump_aspm : (s.bump).aspm = s.aspm := rfl
@[simp] theorem State.bump_inq : (s.bump).inq = s.inq := rfl
@[simp] theorem State.bump_iwinCur : (s.bump).iwinCur = s.iwinCur := rfl
@[simp] theorem State.bump_plLinks : (s.bump).plLinks = s.plLinks := rfl
@[simp] theorem State.bump_plIn : (s.bump).plIn = s.plIn := rfl
@[simp] theorem State.bump_plTx : (s.bump).plTx = s.plTx := rfl
@[simp] theorem State.bump_plWait : (s.bump).plWait = s.plWait := rfl
@[simp] theorem State.bump_plRx : (s.bump).plRx = s.plRx := rfl
@[simp] theorem State.bump_pkgEnd : (s.bump).pkgEnd = s.pkgEnd := rfl
@[simp] theorem State.bump_pkgOff : (s.bump).pkgOff = s.pkgOff := rfl
@[simp] theorem State.bump_aonOff : (s.bump).aonOff = s.aonOff := rfl
@[simp] theorem State.bump_freqGoal : (s.bump).freqGoal = s.freqGoal := rfl
@[simp] theorem State.bump_samples : (s.bump).samples = s.samples := rfl
@[simp] theorem State.bump_calm : (s.bump).calm = s.calm := rfl
@[simp] theorem State.bump_mittenRef : (s.bump).mittenRef = s.mittenRef := rfl
@[simp] theorem State.bump_gatePort : (s.bump).gatePort = s.gatePort := rfl
@[simp] theorem State.bump_boot : (s.bump).boot = s.boot := rfl
@[simp] theorem State.bump_flash : (s.bump).flash = s.flash := rfl
@[simp] theorem State.bump_flashOp : (s.bump).flashOp = s.flashOp := rfl
@[simp] theorem State.bump_rack : (s.bump).rack = s.rack := rfl
@[simp] theorem State.bump_intake : (s.bump).intake = s.intake := rfl
@[simp] theorem State.bump_rasUnread : (s.bump).rasUnread = s.rasUnread := rfl
@[simp] theorem State.bump_rasAny : (s.bump).rasAny = s.rasAny := rfl
@[simp] theorem State.bump_rasSeq : (s.bump).rasSeq = s.rasSeq := rfl
@[simp] theorem State.bump_rasCoreUc : (s.bump).rasCoreUc = s.rasCoreUc := rfl
@[simp] theorem State.bump_repairs : (s.bump).repairs = s.repairs := rfl
@[simp] theorem State.bump_tap : (s.bump).tap = s.tap := rfl
@[simp] theorem State.bump_dbg : (s.bump).dbg = s.dbg := rfl
@[simp] theorem State.bump_ctrBuf : (s.bump).ctrBuf = s.ctrBuf := rfl
@[simp] theorem State.bump_ctrFifo : (s.bump).ctrFifo = s.ctrFifo := rfl

@[simp] theorem State.send_pending : (s.send m).pending = s.pending := rfl
@[simp] theorem State.send_fresh : (s.send m).fresh = s.fresh := rfl
@[simp] theorem State.send_regs : (s.send m).regs = s.regs := rfl
@[simp] theorem State.send_mem : (s.send m).mem = s.mem := rfl
@[simp] theorem State.send_resp : (s.send m).resp = s.resp := rfl
@[simp] theorem State.send_ports : (s.send m).ports = s.ports := rfl
@[simp] theorem State.send_replicas : (s.send m).replicas = s.replicas := rfl
@[simp] theorem State.send_cal : (s.send m).cal = s.cal := rfl
@[simp] theorem State.send_due : (s.send m).due = s.due := rfl
@[simp] theorem State.send_calHeld : (s.send m).calHeld = s.calHeld := rfl
@[simp] theorem State.send_cancelQ : (s.send m).cancelQ = s.cancelQ := rfl
@[simp] theorem State.send_cancelRun : (s.send m).cancelRun = s.cancelRun := rfl
@[simp] theorem State.send_cancelReopen : (s.send m).cancelReopen = s.cancelReopen := rfl
@[simp] theorem State.send_pins : (s.send m).pins = s.pins := rfl
@[simp] theorem State.send_winPend : (s.send m).winPend = s.winPend := rfl
@[simp] theorem State.send_plQ : (s.send m).plQ = s.plQ := rfl
@[simp] theorem State.send_clkOff : (s.send m).clkOff = s.clkOff := rfl
@[simp] theorem State.send_harts : (s.send m).harts = s.harts := rfl
@[simp] theorem State.send_coreTrace : (s.send m).coreTrace = s.coreTrace := rfl
@[simp] theorem State.send_tsq : (s.send m).tsq = s.tsq := rfl
@[simp] theorem State.send_txs : (s.send m).txs = s.txs := rfl
@[simp] theorem State.send_wrq : (s.send m).wrq = s.wrq := rfl
@[simp] theorem State.send_mcq : (s.send m).mcq = s.mcq := rfl
@[simp] theorem State.send_mcGt : (s.send m).mcGt = s.mcGt := rfl
@[simp] theorem State.send_mcWin : (s.send m).mcWin = s.mcWin := rfl
@[simp] theorem State.send_mcBank : (s.send m).mcBank = s.mcBank := rfl
@[simp] theorem State.send_mcPend : (s.send m).mcPend = s.mcPend := rfl
@[simp] theorem State.send_scrubAt : (s.send m).scrubAt = s.scrubAt := rfl
@[simp] theorem State.send_initRun : (s.send m).initRun = s.initRun := rfl
@[simp] theorem State.send_dir : (s.send m).dir = s.dir := rfl
@[simp] theorem State.send_haQ : (s.send m).haQ = s.haQ := rfl
@[simp] theorem State.send_haTie : (s.send m).haTie = s.haTie := rfl
@[simp] theorem State.send_haTx : (s.send m).haTx = s.haTx := rfl
@[simp] theorem State.send_atomBuf : (s.send m).atomBuf = s.atomBuf := rfl
@[simp] theorem State.send_walks : (s.send m).walks = s.walks := rfl
@[simp] theorem State.send_l3 : (s.send m).l3 = s.l3 := rfl
@[simp] theorem State.send_vb : (s.send m).vb = s.vb := rfl
@[simp] theorem State.send_l3Pend : (s.send m).l3Pend = s.l3Pend := rfl
@[simp] theorem State.send_sliceQ : (s.send m).sliceQ = s.sliceQ := rfl
@[simp] theorem State.send_l2 : (s.send m).l2 = s.l2 := rfl
@[simp] theorem State.send_l1d : (s.send m).l1d = s.l1d := rfl
@[simp] theorem State.send_l1i : (s.send m).l1i = s.l1i := rfl
@[simp] theorem State.send_l2Pend : (s.send m).l2Pend = s.l2Pend := rfl
@[simp] theorem State.send_l2Held : (s.send m).l2Held = s.l2Held := rfl
@[simp] theorem State.send_ranges : (s.send m).ranges = s.ranges := rfl
@[simp] theorem State.send_l2BadWay : (s.send m).l2BadWay = s.l2BadWay := rfl
@[simp] theorem State.send_mcRate : (s.send m).mcRate = s.mcRate := rfl
@[simp] theorem State.send_initWb : (s.send m).initWb = s.initWb := rfl
@[simp] theorem State.send_testRun : (s.send m).testRun = s.testRun := rfl
@[simp] theorem State.send_testHeld : (s.send m).testHeld = s.testHeld := rfl
@[simp] theorem State.send_histNext : (s.send m).histNext = s.histNext := rfl
@[simp] theorem State.send_frameAt : (s.send m).frameAt = s.frameAt := rfl
@[simp] theorem State.send_peIdle : (s.send m).peIdle = s.peIdle := rfl
@[simp] theorem State.send_aonTb : (s.send m).aonTb = s.aonTb := rfl
@[simp] theorem State.send_pfAt : (s.send m).pfAt = s.pfAt := rfl
@[simp] theorem State.send_fine : (s.send m).fine = s.fine := rfl
@[simp] theorem State.send_excess : (s.send m).excess = s.excess := rfl
@[simp] theorem State.send_epochLag : (s.send m).epochLag = s.epochLag := rfl
@[simp] theorem State.send_winBusy : (s.send m).winBusy = s.winBusy := rfl
@[simp] theorem State.send_mcStart : (s.send m).mcStart = s.mcStart := rfl
@[simp] theorem State.send_mcOpen : (s.send m).mcOpen = s.mcOpen := rfl
@[simp] theorem State.send_sku : (s.send m).sku = s.sku := rfl
@[simp] theorem State.send_winCur : (s.send m).winCur = s.winCur := rfl
@[simp] theorem State.send_routes : (s.send m).routes = s.routes := rfl
@[simp] theorem State.send_epochCheck : (s.send m).epochCheck = s.epochCheck := rfl
@[simp] theorem State.send_batLive : (s.send m).batLive = s.batLive := rfl
@[simp] theorem State.send_batPost : (s.send m).batPost = s.batPost := rfl
@[simp] theorem State.send_batGap : (s.send m).batGap = s.batGap := rfl
@[simp] theorem State.send_batStage : (s.send m).batStage = s.batStage := rfl
@[simp] theorem State.send_batBuf : (s.send m).batBuf = s.batBuf := rfl
@[simp] theorem State.send_batFifo : (s.send m).batFifo = s.batFifo := rfl
@[simp] theorem State.send_bridges : (s.send m).bridges = s.bridges := rfl
@[simp] theorem State.send_dieTrans : (s.send m).dieTrans = s.dieTrans := rfl
@[simp] theorem State.send_dma : (s.send m).dma = s.dma := rfl
@[simp] theorem State.send_dmaTurn : (s.send m).dmaTurn = s.dmaTurn := rfl
@[simp] theorem State.send_dmaPtr : (s.send m).dmaPtr = s.dmaPtr := rfl
@[simp] theorem State.send_pulses : (s.send m).pulses = s.pulses := rfl
@[simp] theorem State.send_helm : (s.send m).helm = s.helm := rfl
@[simp] theorem State.send_partRun : (s.send m).partRun = s.partRun := rfl
@[simp] theorem State.send_hartNew : (s.send m).hartNew = s.hartNew := rfl
@[simp] theorem State.send_winOff : (s.send m).winOff = s.winOff := rfl
@[simp] theorem State.send_iommu : (s.send m).iommu = s.iommu := rfl
@[simp] theorem State.send_iommuFlt : (s.send m).iommuFlt = s.iommuFlt := rfl
@[simp] theorem State.send_aplic : (s.send m).aplic = s.aplic := rfl
@[simp] theorem State.send_wired : (s.send m).wired = s.wired := rfl
@[simp] theorem State.send_pwrIrq : (s.send m).pwrIrq = s.pwrIrq := rfl
@[simp] theorem State.send_peLive : (s.send m).peLive = s.peLive := rfl
@[simp] theorem State.send_peRd : (s.send m).peRd = s.peRd := rfl
@[simp] theorem State.send_peWait : (s.send m).peWait = s.peWait := rfl
@[simp] theorem State.send_peComb : (s.send m).peComb = s.peComb := rfl
@[simp] theorem State.send_peWr : (s.send m).peWr = s.peWr := rfl
@[simp] theorem State.send_peCfg : (s.send m).peCfg = s.peCfg := rfl
@[simp] theorem State.send_msix : (s.send m).msix = s.msix := rfl
@[simp] theorem State.send_aspm : (s.send m).aspm = s.aspm := rfl
@[simp] theorem State.send_inq : (s.send m).inq = s.inq := rfl
@[simp] theorem State.send_iwinCur : (s.send m).iwinCur = s.iwinCur := rfl
@[simp] theorem State.send_plLinks : (s.send m).plLinks = s.plLinks := rfl
@[simp] theorem State.send_plIn : (s.send m).plIn = s.plIn := rfl
@[simp] theorem State.send_plTx : (s.send m).plTx = s.plTx := rfl
@[simp] theorem State.send_plWait : (s.send m).plWait = s.plWait := rfl
@[simp] theorem State.send_plRx : (s.send m).plRx = s.plRx := rfl
@[simp] theorem State.send_pkgEnd : (s.send m).pkgEnd = s.pkgEnd := rfl
@[simp] theorem State.send_pkgOff : (s.send m).pkgOff = s.pkgOff := rfl
@[simp] theorem State.send_aonOff : (s.send m).aonOff = s.aonOff := rfl
@[simp] theorem State.send_freqGoal : (s.send m).freqGoal = s.freqGoal := rfl
@[simp] theorem State.send_samples : (s.send m).samples = s.samples := rfl
@[simp] theorem State.send_calm : (s.send m).calm = s.calm := rfl
@[simp] theorem State.send_mittenRef : (s.send m).mittenRef = s.mittenRef := rfl
@[simp] theorem State.send_gatePort : (s.send m).gatePort = s.gatePort := rfl
@[simp] theorem State.send_boot : (s.send m).boot = s.boot := rfl
@[simp] theorem State.send_flash : (s.send m).flash = s.flash := rfl
@[simp] theorem State.send_flashOp : (s.send m).flashOp = s.flashOp := rfl
@[simp] theorem State.send_rack : (s.send m).rack = s.rack := rfl
@[simp] theorem State.send_intake : (s.send m).intake = s.intake := rfl
@[simp] theorem State.send_rasUnread : (s.send m).rasUnread = s.rasUnread := rfl
@[simp] theorem State.send_rasAny : (s.send m).rasAny = s.rasAny := rfl
@[simp] theorem State.send_rasSeq : (s.send m).rasSeq = s.rasSeq := rfl
@[simp] theorem State.send_rasCoreUc : (s.send m).rasCoreUc = s.rasCoreUc := rfl
@[simp] theorem State.send_repairs : (s.send m).repairs = s.repairs := rfl
@[simp] theorem State.send_tap : (s.send m).tap = s.tap := rfl
@[simp] theorem State.send_dbg : (s.send m).dbg = s.dbg := rfl
@[simp] theorem State.send_ctrBuf : (s.send m).ctrBuf = s.ctrBuf := rfl
@[simp] theorem State.send_ctrFifo : (s.send m).ctrFifo = s.ctrFifo := rfl

@[simp] theorem State.answer_resp : (s.answer v).resp = ⟨0b00#2, v⟩ := rfl
@[simp] theorem State.answerErr_resp : (s.answerErr e).resp = ⟨e, 0⟩ := rfl
@[simp] theorem State.bump_fresh : s.bump.fresh = s.fresh + 1 := rfl
@[simp] theorem State.send_out : (s.send m).out = s.out ++ [m] := rfl

@[simp] theorem State.setByte_r : (s.setByte a y).r g i = s.r g i := rfl
@[simp] theorem State.setByte_f : (s.setByte a y).f f i = s.f f i := rfl
@[simp] theorem State.setByte_b : (s.setByte a y).b f i = s.b f i := rfl
@[simp] theorem State.answer_r : (s.answer v).r g i = s.r g i := rfl
@[simp] theorem State.answer_f : (s.answer v).f f i = s.f f i := rfl
@[simp] theorem State.answer_b : (s.answer v).b f i = s.b f i := rfl
@[simp] theorem State.answerErr_r : (s.answerErr e).r g i = s.r g i := rfl
@[simp] theorem State.answerErr_f : (s.answerErr e).f f i = s.f f i := rfl
@[simp] theorem State.answerErr_b : (s.answerErr e).b f i = s.b f i := rfl
@[simp] theorem State.bump_r : (s.bump).r g i = s.r g i := rfl
@[simp] theorem State.bump_f : (s.bump).f f i = s.f f i := rfl
@[simp] theorem State.bump_b : (s.bump).b f i = s.b f i := rfl
@[simp] theorem State.send_r : (s.send m).r g i = s.r g i := rfl
@[simp] theorem State.send_f : (s.send m).f f i = s.f f i := rfl
@[simp] theorem State.send_b : (s.send m).b f i = s.b f i := rfl
@[simp] theorem State.setR_byte : (s.setR g i v).byte n = s.byte n := rfl
@[simp] theorem State.setF_byte : (s.setF f i x).byte n = s.byte n := rfl
@[simp] theorem State.setB_byte : (s.setB f i b).byte n = s.byte n := rfl
@[simp] theorem State.answer_byte : (s.answer v).byte n = s.byte n := rfl
@[simp] theorem State.answerErr_byte : (s.answerErr e).byte n = s.byte n := rfl
@[simp] theorem State.bump_byte : (s.bump).byte n = s.byte n := rfl
@[simp] theorem State.send_byte : (s.send m).byte n = s.byte n := rfl

end Sys2Proof.Machine
end

