-- ==== Sys2Proof/Laws/Access.lean ====
section
/-! SUPPORT. What a checked access does: performed when it is allowed, and answered with a refusal or an error otherwise. -/
namespace Sys2Proof.Machine

/-- An allowed access is performed, with the answer RESP 0b00. -/
theorem guarded_ok {a : Access} {w : Bool} {g : Reg} {i : Nat} {s : State} (h : Allowed a w g i s) (act : State → State) :
    guarded a w g i act s = act (s.answer 0) := by
  simp [guarded, h.1, h.2]

/-- An access to a register whose clock is stopped is answered with an error (R524). -/
theorem guarded_stopped {a : Access} {w : Bool} {g : Reg} {i : Nat} {s : State} (h : regStopped g i s = true)
    (act : State → State) : guarded a w g i act s = s.answerErr 0b10#2 := by
  simp [guarded, h]

/-- An access that the world check refuses is recorded and answered with 0b01 (R377). -/
theorem guarded_world {a : Access} {w : Bool} {g : Reg} {i : Nat} {s : State} (h : regVerdict a w g i s = .world)
    (hs : regStopped g i s = false) (act : State → State) :
    guarded a w g i act s = (denyWorld .mmio (if w then .write else .read) a (g.addr i) s).answerErr 0b01#2 := by
  simp [guarded, h, hs]

/-- An access that the partition check refuses is recorded and answered with 0b01 (R421). -/
theorem guarded_part {a : Access} {w : Bool} {g : Reg} {i : Nat} {s : State} (h : regVerdict a w g i s = .part)
    (hs : regStopped g i s = false) (act : State → State) :
    guarded a w g i act s = (denyPart .mmio (if w then .write else .read) a (g.addr i) s).answerErr 0b01#2 := by
  simp [guarded, h, hs]

/-- An access that a check answers with an error changes nothing else. -/
theorem guarded_err {a : Access} {w : Bool} {g : Reg} {i : Nat} {s : State} (h : regVerdict a w g i s = .err)
    (act : State → State) : guarded a w g i act s = s.answerErr 0b10#2 := by
  simp [guarded, h]

end Sys2Proof.Machine
end

