-- ==== Sys2Proof/Laws/Frame.lean ====
section
/-! SUPPORT. What an operation leaves alone, said once for the parts of the state: Only W s t says that t keeps the
canonical form if s has it, every part of s whose bit in W is 0, and every register whose bit in W is 0. Each operation of the machine has one lemma of
this kind, in the files beside this one. -/
namespace Sys2Proof.Machine

/-- The bit of a register. -/
def Reg.mark (g : Reg) : Nat := 32 + g.ctorIdx

/-- The bit of W that lets a memory byte change, or a raw access begin to wait, although no raw access waited before. -/
def storeBit : Nat := 278

/-- From s to t nothing but the parts and registers in W changes, and the canonical form stays. Without storeBit, no raw
access begins to wait where none did, and memory stays as it is where no write queue is full afterwards. -/
def Only (W : Nat) (s t : State) : Prop :=
  ((Canonical s → Canonical t) ∧ (W.testBit storeBit = false → s.testRun = none → t.testRun = none ∧ (WriteRoom t → WriteRoom s ∧ t.mem = s.mem))) ∧
    (∀ p : Part, W.testBit p.ctorIdx = false → p.same s t) ∧
    ∀ g : Reg, W.testBit g.mark = false → ∀ i, t.r g i = s.r g i

theorem part_same_refl (p : Part) (s : State) : p.same s s := by cases p <;> simp [Part.same]

theorem part_same_trans (p : Part) {s t u : State} (h : p.same s t) (k : p.same t u) : p.same s u := by
  cases p <;> simp only [Part.same] at h k ⊢ <;> simp [h, k]

theorem Only.refl (W : Nat) (s : State) : Only W s s := 
  ⟨⟨id, fun _ e => ⟨e, fun r => ⟨r, rfl⟩⟩⟩, fun p _ => part_same_refl p s, fun _ _ _ => rfl⟩

theorem Only.trans {W : Nat} {s t u : State} (h : Only W s t) (k : Only W t u) : Only W s u :=
  ⟨⟨fun c => k.1.1 (h.1.1 c), fun hw e => ⟨(k.1.2 hw (h.1.2 hw e).1).1, fun r =>
      have q := (k.1.2 hw (h.1.2 hw e).1).2 r
      have q' := (h.1.2 hw e).2 q.1
      ⟨q'.1, q.2.trans q'.2⟩⟩⟩,
    fun p hp => part_same_trans p (h.2.1 p hp) (k.2.1 p hp),
    fun g hg i => (k.2.2 g hg i).trans (h.2.2 g hg i)⟩

/-- Every member of A is one of W. -/
def Sub (A W : Nat) : Prop := A &&& W = A

/-- A smaller set. -/
theorem sub_trans {A B W : Nat} (h : A &&& B = A) (k : Sub B W) : Sub A W := by
  rw [Sub] at k ⊢
  rw [← h, Nat.and_assoc, k]

theorem testBit_sub {A W : Nat} {i : Nat} (h : Sub A W) (k : A.testBit i = true) : W.testBit i = true := by
  have := Nat.testBit_and A W i
  rw [show A &&& W = A from h, k] at this
  simpa using this.symm

theorem testBit_not_sub {A W : Nat} {i : Nat} (h : Sub A W) (k : W.testBit i = false) : A.testBit i = false := by
  have := Nat.testBit_and A W i
  rw [show A &&& W = A from h, k] at this
  simpa using this

theorem Only.mono {A W : Nat} {s t : State} (h : Sub A W) (k : Only A s t) : Only W s t :=
  ⟨⟨k.1.1, fun hw => k.1.2 (testBit_not_sub h hw)⟩, fun p hp => k.2.1 p (testBit_not_sub h hp), fun g hg => k.2.2 g (testBit_not_sub h hg)⟩

/-- The registers as a part, and one register. -/
def regBit (g : Reg) : Nat := 4 + 1 <<< g.mark

theorem shift_testBit {i j : Nat} (h : i ≠ j) : (1 <<< i).testBit j = false := by
  rw [Nat.one_shiftLeft]
  exact Nat.testBit_two_pow_of_ne h

/-- A set of numbers as one number. -/
def bitsOf (l : List Nat) : Nat := l.foldl (fun m k => m ||| 1 <<< k) 0

theorem bitsOf_testBit {l : List Nat} {k : Nat} (h : k ∉ l) : (bitsOf l).testBit k = false := by
  have gen : ∀ (l : List Nat) (m : Nat), k ∉ l → (l.foldl (fun m q => m ||| 1 <<< q) m).testBit k = m.testBit k := by
    intro l
    induction l with
    | nil => exact fun _ _ => rfl
    | cons q l ih =>
      intro m hm
      simp only [List.mem_cons, not_or] at hm
      rw [List.foldl_cons, ih _ hm.2, Nat.testBit_or, shift_testBit (Ne.symm hm.1), Bool.or_false]
  rw [bitsOf, gen l 0 h, Nat.zero_testBit]

/-- Parts and registers as one number. -/
def maskOf (l : List Part) (r : List Reg) : Nat := bitsOf (l.map Part.ctorIdx ++ r.map Reg.mark) ||| 1 <<< storeBit

theorem part_ctorIdx_inj {p q : Part} (h : p.ctorIdx = q.ctorIdx) : p = q := by
  cases p <;> cases q <;> first | rfl | cases h

theorem part_ctorIdx_lt (p : Part) : p.ctorIdx < 32 := by cases p <;> decide

/-- The listed parts are the only ones that change, and of the registers the listed ones. -/
theorem Only.changesOnly {l : List Part} {r : List Reg} {s t : State} (h : Only (maskOf l r) s t) :
    ChangesOnly l s t ∧ RegsOnly r s t := by
  have out (k : Nat) (hk : k < 278) (hm : k ∉ l.map Part.ctorIdx ++ r.map Reg.mark) : (maskOf l r).testBit k = false := by
    rw [maskOf, Nat.testBit_or, bitsOf_testBit hm, shift_testBit (by simp only [storeBit]; omega), Bool.or_false]
  refine ⟨fun p hp => h.2.1 p (out _ (by have := part_ctorIdx_lt p; omega) ?_),
    fun g hg => h.2.2 g (out _ (by have := g.ctorIdx_lt; simp only [Reg.mark]; omega) ?_)⟩
  · simp only [List.mem_append, List.mem_map, not_or, not_exists, not_and]
    refine ⟨fun q hq e => hp (part_ctorIdx_inj e ▸ hq), fun g _ e => ?_⟩
    have := part_ctorIdx_lt p
    simp only [Reg.mark] at e
    omega
  · simp only [List.mem_append, List.mem_map, not_or, not_exists, not_and]
    refine ⟨fun q _ e => ?_, fun g' hq e => hg ?_⟩
    · have := part_ctorIdx_lt q
      simp only [Reg.mark] at e
      omega
    · have e' : g'.ctorIdx = g.ctorIdx := by simp only [Reg.mark] at e; omega
      rw [← Reg.ofNat_ctorIdx g, ← e', Reg.ofNat_ctorIdx]
      exact hq

/-- Memory stays as it is while no raw access waits and no write queue is full afterwards. -/
theorem Only.quiet {W : Nat} {s t : State} (h : Only W s t) (hw : W.testBit storeBit = false) (hs : s.testRun = none)
    (r : WriteRoom t) : t.testRun = none ∧ t.mem = s.mem := ⟨(h.1.2 hw hs).1, ((h.1.2 hw hs).2 r).2⟩

theorem only_ite {W : Nat} {s0 a b : State} {c : Prop} [Decidable c] (ha : Only W s0 a) (hb : Only W s0 b) :
    Only W s0 (if c then a else b) := by split <;> assumption

theorem only_foldl {W : Nat} {s0 : State} {β : Type} {f : State → β → State} {l : List β} {s : State}
    (hf : ∀ t x, Only W s0 t → Only W s0 (f t x)) (h : Only W s0 s) : Only W s0 (l.foldl f s) := by
  induction l generalizing s with
  | nil => exact h
  | cons x l ih => exact ih (hf s x h)

theorem only_foldr {W : Nat} {s0 : State} {β : Type} {f : β → State → State} {l : List β} {s : State}
    (hf : ∀ x t, Only W s0 t → Only W s0 (f x t)) (h : Only W s0 s) : Only W s0 (l.foldr f s) := by
  induction l with
  | nil => exact h
  | cons x l ih => exact hf x _ ih

theorem only_iter {W : Nat} {s0 : State} {n : Nat} {f : Nat → State → State} {s : State}
    (hf : ∀ i t, Only W s0 t → Only W s0 (f i t)) (h : Only W s0 s) : Only W s0 (iter n f s) :=
  only_foldl (fun t i ht => hf i t ht) h

/-- What an outcome answers changes only W. -/
def OnlyOut (W : Nat) (s0 : State) (o : Out) : Prop := ∀ t, o = .next t → Only W s0 t

theorem only_next {W : Nat} {s0 t : State} (h : Only W s0 t) : OnlyOut W s0 (.next t) := by
  intro u hu; cases hu; exact h

theorem onlyOut_ite {W : Nat} {s0 : State} {a b : Out} {c : Prop} [Decidable c] (ha : OnlyOut W s0 a)
    (hb : OnlyOut W s0 b) : OnlyOut W s0 (if c then a else b) := by split <;> assumption

/-! One lemma for each field of the state. -/

theorem only_pending {W : Nat} {s0 t : State} (hW : Sub 1 W) (h : Only W s0 t) (v) :
    Only W s0 { t with pending := v } := by
  refine ⟨h.1, fun p hp => ?_, h.2.2⟩
  cases p
  case queue => exact absurd (testBit_sub hW (i := 0) rfl) (by rw [show W.testBit 0 = false from hp]; decide)
  all_goals exact h.2.1 _ hp

theorem only_fresh {W : Nat} {s0 t : State} (hW : Sub 2 W) (h : Only W s0 t) (v) :
    Only W s0 { t with fresh := v } := by
  refine ⟨h.1, fun p hp => ?_, h.2.2⟩
  cases p
  case free => exact absurd (testBit_sub hW (i := 1) rfl) (by rw [show W.testBit 1 = false from hp]; decide)
  all_goals exact h.2.1 _ hp

theorem only_out {W : Nat} {s0 t : State} (hW : Sub 8 W) (h : Only W s0 t) (v) :
    Only W s0 { t with out := v } := by
  refine ⟨h.1, fun p hp => ?_, h.2.2⟩
  cases p
  case msgs => exact absurd (testBit_sub hW (i := 3) rfl) (by rw [show W.testBit 3 = false from hp]; decide)
  all_goals exact h.2.1 _ hp

theorem only_resp {W : Nat} {s0 t : State} (hW : Sub 32 W) (h : Only W s0 t) (v) :
    Only W s0 { t with resp := v } := by
  refine ⟨h.1, fun p hp => ?_, h.2.2⟩
  cases p
  case resp => exact absurd (testBit_sub hW (i := 5) rfl) (by rw [show W.testBit 5 = false from hp]; decide)
  all_goals exact h.2.1 _ hp

theorem only_ports {W : Nat} {s0 t : State} (hW : Sub 64 W) (h : Only W s0 t) (v) :
    Only W s0 { t with ports := v } := by
  refine ⟨h.1, fun p hp => ?_, h.2.2⟩
  cases p
  case phase => exact absurd (testBit_sub hW (i := 6) rfl) (by rw [show W.testBit 6 = false from hp]; decide)
  all_goals exact h.2.1 _ hp

theorem only_replicas {W : Nat} {s0 t : State} (hW : Sub 64 W) (h : Only W s0 t) (v) :
    Only W s0 { t with replicas := v } := by
  refine ⟨h.1, fun p hp => ?_, h.2.2⟩
  cases p
  case phase => exact absurd (testBit_sub hW (i := 6) rfl) (by rw [show W.testBit 6 = false from hp]; decide)
  all_goals exact h.2.1 _ hp

theorem only_cal {W : Nat} {s0 t : State} (hW : Sub 128 W) (h : Only W s0 t) (v) :
    Only W s0 { t with cal := v } := by
  refine ⟨h.1, fun p hp => ?_, h.2.2⟩
  cases p
  case calendar => exact absurd (testBit_sub hW (i := 7) rfl) (by rw [show W.testBit 7 = false from hp]; decide)
  all_goals exact h.2.1 _ hp

theorem only_due {W : Nat} {s0 t : State} (hW : Sub 128 W) (h : Only W s0 t) (v) :
    Only W s0 { t with due := v } := by
  refine ⟨h.1, fun p hp => ?_, h.2.2⟩
  cases p
  case calendar => exact absurd (testBit_sub hW (i := 7) rfl) (by rw [show W.testBit 7 = false from hp]; decide)
  all_goals exact h.2.1 _ hp

theorem only_calHeld {W : Nat} {s0 t : State} (hW : Sub 128 W) (h : Only W s0 t) (v) :
    Only W s0 { t with calHeld := v } := by
  refine ⟨h.1, fun p hp => ?_, h.2.2⟩
  cases p
  case calendar => exact absurd (testBit_sub hW (i := 7) rfl) (by rw [show W.testBit 7 = false from hp]; decide)
  all_goals exact h.2.1 _ hp

theorem only_cancelQ {W : Nat} {s0 t : State} (hW : Sub 128 W) (h : Only W s0 t) (v) :
    Only W s0 { t with cancelQ := v } := by
  refine ⟨h.1, fun p hp => ?_, h.2.2⟩
  cases p
  case calendar => exact absurd (testBit_sub hW (i := 7) rfl) (by rw [show W.testBit 7 = false from hp]; decide)
  all_goals exact h.2.1 _ hp

theorem only_cancelRun {W : Nat} {s0 t : State} (hW : Sub 128 W) (h : Only W s0 t) (v) :
    Only W s0 { t with cancelRun := v } := by
  refine ⟨h.1, fun p hp => ?_, h.2.2⟩
  cases p
  case calendar => exact absurd (testBit_sub hW (i := 7) rfl) (by rw [show W.testBit 7 = false from hp]; decide)
  all_goals exact h.2.1 _ hp

theorem only_cancelReopen {W : Nat} {s0 t : State} (hW : Sub 128 W) (h : Only W s0 t) (v) :
    Only W s0 { t with cancelReopen := v } := by
  refine ⟨h.1, fun p hp => ?_, h.2.2⟩
  cases p
  case calendar => exact absurd (testBit_sub hW (i := 7) rfl) (by rw [show W.testBit 7 = false from hp]; decide)
  all_goals exact h.2.1 _ hp

theorem only_pins {W : Nat} {s0 t : State} (hW : Sub 256 W) (h : Only W s0 t) (v) :
    Only W s0 { t with pins := v } := by
  refine ⟨h.1, fun p hp => ?_, h.2.2⟩
  cases p
  case pins => exact absurd (testBit_sub hW (i := 8) rfl) (by rw [show W.testBit 8 = false from hp]; decide)
  all_goals exact h.2.1 _ hp

theorem only_tsq {W : Nat} {s0 t : State} (hW : Sub 512 W) (h : Only W s0 t) (v) :
    Only W s0 { t with tsq := v } := by
  refine ⟨h.1, fun p hp => ?_, h.2.2⟩
  cases p
  case timed => exact absurd (testBit_sub hW (i := 9) rfl) (by rw [show W.testBit 9 = false from hp]; decide)
  all_goals exact h.2.1 _ hp

theorem only_harts {W : Nat} {s0 t : State} (hW : Sub 1024 W) (h : Only W s0 t) (v) :
    Only W s0 { t with harts := v } := by
  refine ⟨h.1, fun p hp => ?_, h.2.2⟩
  cases p
  case harts => exact absurd (testBit_sub hW (i := 10) rfl) (by rw [show W.testBit 10 = false from hp]; decide)
  all_goals exact h.2.1 _ hp

theorem only_coreTrace {W : Nat} {s0 t : State} (hW : Sub 2048 W) (h : Only W s0 t) (v) :
    Only W s0 { t with coreTrace := v } := by
  refine ⟨h.1, fun p hp => ?_, h.2.2⟩
  cases p
  case coreTrace => exact absurd (testBit_sub hW (i := 11) rfl) (by rw [show W.testBit 11 = false from hp]; decide)
  all_goals exact h.2.1 _ hp

theorem only_ctrBuf {W : Nat} {s0 t : State} (hW : Sub 2048 W) (h : Only W s0 t) (v) :
    Only W s0 { t with ctrBuf := v } := by
  refine ⟨h.1, fun p hp => ?_, h.2.2⟩
  cases p
  case coreTrace => exact absurd (testBit_sub hW (i := 11) rfl) (by rw [show W.testBit 11 = false from hp]; decide)
  all_goals exact h.2.1 _ hp

theorem only_ctrFifo {W : Nat} {s0 t : State} (hW : Sub 2048 W) (h : Only W s0 t) (v) :
    Only W s0 { t with ctrFifo := v } := by
  refine ⟨h.1, fun p hp => ?_, h.2.2⟩
  cases p
  case coreTrace => exact absurd (testBit_sub hW (i := 11) rfl) (by rw [show W.testBit 11 = false from hp]; decide)
  all_goals exact h.2.1 _ hp

theorem only_txs {W : Nat} {s0 t : State} (hW : Sub 4096 W) (h : Only W s0 t) (v) :
    Only W s0 { t with txs := v } := by
  refine ⟨h.1, fun p hp => ?_, h.2.2⟩
  cases p
  case opens => exact absurd (testBit_sub hW (i := 12) rfl) (by rw [show W.testBit 12 = false from hp]; decide)
  all_goals exact h.2.1 _ hp

theorem only_wrq {W : Nat} {s0 t : State} (hW : Sub 0x4000000000000000000000000000000000000000000000000000000000000000002000 W) (h : Only W s0 t) (v) :
    Only W s0 { t with wrq := v } := by
  refine ⟨⟨h.1.1, fun hw => absurd (testBit_sub hW (i := storeBit) rfl) (by rw [hw]; decide)⟩, fun p hp => ?_, h.2.2⟩
  cases p
  case mctl => exact absurd (testBit_sub hW (i := 13) rfl) (by rw [show W.testBit 13 = false from hp]; decide)
  all_goals exact h.2.1 _ hp

theorem only_mcq {W : Nat} {s0 t : State} (hW : Sub 8192 W) (h : Only W s0 t) (v) :
    Only W s0 { t with mcq := v } := by
  refine ⟨h.1, fun p hp => ?_, h.2.2⟩
  cases p
  case mctl => exact absurd (testBit_sub hW (i := 13) rfl) (by rw [show W.testBit 13 = false from hp]; decide)
  all_goals exact h.2.1 _ hp

theorem only_mcGt {W : Nat} {s0 t : State} (hW : Sub 8192 W) (h : Only W s0 t) (v) :
    Only W s0 { t with mcGt := v } := by
  refine ⟨h.1, fun p hp => ?_, h.2.2⟩
  cases p
  case mctl => exact absurd (testBit_sub hW (i := 13) rfl) (by rw [show W.testBit 13 = false from hp]; decide)
  all_goals exact h.2.1 _ hp

theorem only_mcWin {W : Nat} {s0 t : State} (hW : Sub 8192 W) (h : Only W s0 t) (v) :
    Only W s0 { t with mcWin := v } := by
  refine ⟨h.1, fun p hp => ?_, h.2.2⟩
  cases p
  case mctl => exact absurd (testBit_sub hW (i := 13) rfl) (by rw [show W.testBit 13 = false from hp]; decide)
  all_goals exact h.2.1 _ hp

theorem only_mcBank {W : Nat} {s0 t : State} (hW : Sub 8192 W) (h : Only W s0 t) (v) :
    Only W s0 { t with mcBank := v } := by
  refine ⟨h.1, fun p hp => ?_, h.2.2⟩
  cases p
  case mctl => exact absurd (testBit_sub hW (i := 13) rfl) (by rw [show W.testBit 13 = false from hp]; decide)
  all_goals exact h.2.1 _ hp

theorem only_mcPend {W : Nat} {s0 t : State} (hW : Sub 8192 W) (h : Only W s0 t) (v) :
    Only W s0 { t with mcPend := v } := by
  refine ⟨h.1, fun p hp => ?_, h.2.2⟩
  cases p
  case mctl => exact absurd (testBit_sub hW (i := 13) rfl) (by rw [show W.testBit 13 = false from hp]; decide)
  all_goals exact h.2.1 _ hp

theorem only_scrubAt {W : Nat} {s0 t : State} (hW : Sub 8192 W) (h : Only W s0 t) (v) :
    Only W s0 { t with scrubAt := v } := by
  refine ⟨h.1, fun p hp => ?_, h.2.2⟩
  cases p
  case mctl => exact absurd (testBit_sub hW (i := 13) rfl) (by rw [show W.testBit 13 = false from hp]; decide)
  all_goals exact h.2.1 _ hp

theorem only_initRun {W : Nat} {s0 t : State} (hW : Sub 8192 W) (h : Only W s0 t) (v) :
    Only W s0 { t with initRun := v } := by
  refine ⟨h.1, fun p hp => ?_, h.2.2⟩
  cases p
  case mctl => exact absurd (testBit_sub hW (i := 13) rfl) (by rw [show W.testBit 13 = false from hp]; decide)
  all_goals exact h.2.1 _ hp

theorem only_mcRate {W : Nat} {s0 t : State} (hW : Sub 8192 W) (h : Only W s0 t) (v) :
    Only W s0 { t with mcRate := v } := by
  refine ⟨h.1, fun p hp => ?_, h.2.2⟩
  cases p
  case mctl => exact absurd (testBit_sub hW (i := 13) rfl) (by rw [show W.testBit 13 = false from hp]; decide)
  all_goals exact h.2.1 _ hp

theorem only_initWb {W : Nat} {s0 t : State} (hW : Sub 8192 W) (h : Only W s0 t) (v) :
    Only W s0 { t with initWb := v } := by
  refine ⟨h.1, fun p hp => ?_, h.2.2⟩
  cases p
  case mctl => exact absurd (testBit_sub hW (i := 13) rfl) (by rw [show W.testBit 13 = false from hp]; decide)
  all_goals exact h.2.1 _ hp

theorem only_testRun {W : Nat} {s0 t : State} (hW : Sub 0x4000000000000000000000000000000000000000000000000000000000000000002000 W) (h : Only W s0 t) (v) :
    Only W s0 { t with testRun := v } := by
  refine ⟨⟨h.1.1, fun hw => absurd (testBit_sub hW (i := storeBit) rfl) (by rw [hw]; decide)⟩, fun p hp => ?_, h.2.2⟩
  cases p
  case mctl => exact absurd (testBit_sub hW (i := 13) rfl) (by rw [show W.testBit 13 = false from hp]; decide)
  all_goals exact h.2.1 _ hp

theorem only_testHeld {W : Nat} {s0 t : State} (hW : Sub 8192 W) (h : Only W s0 t) (v) :
    Only W s0 { t with testHeld := v } := by
  refine ⟨h.1, fun p hp => ?_, h.2.2⟩
  cases p
  case mctl => exact absurd (testBit_sub hW (i := 13) rfl) (by rw [show W.testBit 13 = false from hp]; decide)
  all_goals exact h.2.1 _ hp

theorem only_histNext {W : Nat} {s0 t : State} (hW : Sub 8192 W) (h : Only W s0 t) (v) :
    Only W s0 { t with histNext := v } := by
  refine ⟨h.1, fun p hp => ?_, h.2.2⟩
  cases p
  case mctl => exact absurd (testBit_sub hW (i := 13) rfl) (by rw [show W.testBit 13 = false from hp]; decide)
  all_goals exact h.2.1 _ hp

theorem only_dir {W : Nat} {s0 t : State} (hW : Sub 16384 W) (h : Only W s0 t) (v) :
    Only W s0 { t with dir := v } := by
  refine ⟨h.1, fun p hp => ?_, h.2.2⟩
  cases p
  case home => exact absurd (testBit_sub hW (i := 14) rfl) (by rw [show W.testBit 14 = false from hp]; decide)
  all_goals exact h.2.1 _ hp

theorem only_haQ {W : Nat} {s0 t : State} (hW : Sub 16384 W) (h : Only W s0 t) (v) :
    Only W s0 { t with haQ := v } := by
  refine ⟨h.1, fun p hp => ?_, h.2.2⟩
  cases p
  case home => exact absurd (testBit_sub hW (i := 14) rfl) (by rw [show W.testBit 14 = false from hp]; decide)
  all_goals exact h.2.1 _ hp

theorem only_haTie {W : Nat} {s0 t : State} (hW : Sub 16384 W) (h : Only W s0 t) (v) :
    Only W s0 { t with haTie := v } := by
  refine ⟨h.1, fun p hp => ?_, h.2.2⟩
  cases p
  case home => exact absurd (testBit_sub hW (i := 14) rfl) (by rw [show W.testBit 14 = false from hp]; decide)
  all_goals exact h.2.1 _ hp

theorem only_haTx {W : Nat} {s0 t : State} (hW : Sub 16384 W) (h : Only W s0 t) (v) :
    Only W s0 { t with haTx := v } := by
  refine ⟨h.1, fun p hp => ?_, h.2.2⟩
  cases p
  case home => exact absurd (testBit_sub hW (i := 14) rfl) (by rw [show W.testBit 14 = false from hp]; decide)
  all_goals exact h.2.1 _ hp

theorem only_atomBuf {W : Nat} {s0 t : State} (hW : Sub 16384 W) (h : Only W s0 t) (v) :
    Only W s0 { t with atomBuf := v } := by
  refine ⟨h.1, fun p hp => ?_, h.2.2⟩
  cases p
  case home => exact absurd (testBit_sub hW (i := 14) rfl) (by rw [show W.testBit 14 = false from hp]; decide)
  all_goals exact h.2.1 _ hp

theorem only_walks {W : Nat} {s0 t : State} (hW : Sub 16384 W) (h : Only W s0 t) (v) :
    Only W s0 { t with walks := v } := by
  refine ⟨h.1, fun p hp => ?_, h.2.2⟩
  cases p
  case home => exact absurd (testBit_sub hW (i := 14) rfl) (by rw [show W.testBit 14 = false from hp]; decide)
  all_goals exact h.2.1 _ hp

theorem only_l3 {W : Nat} {s0 t : State} (hW : Sub 32768 W) (h : Only W s0 t) (v) :
    Only W s0 { t with l3 := v } := by
  refine ⟨h.1, fun p hp => ?_, h.2.2⟩
  cases p
  case l3 => exact absurd (testBit_sub hW (i := 15) rfl) (by rw [show W.testBit 15 = false from hp]; decide)
  all_goals exact h.2.1 _ hp

theorem only_vb {W : Nat} {s0 t : State} (hW : Sub 32768 W) (h : Only W s0 t) (v) :
    Only W s0 { t with vb := v } := by
  refine ⟨h.1, fun p hp => ?_, h.2.2⟩
  cases p
  case l3 => exact absurd (testBit_sub hW (i := 15) rfl) (by rw [show W.testBit 15 = false from hp]; decide)
  all_goals exact h.2.1 _ hp

theorem only_l3Pend {W : Nat} {s0 t : State} (hW : Sub 32768 W) (h : Only W s0 t) (v) :
    Only W s0 { t with l3Pend := v } := by
  refine ⟨h.1, fun p hp => ?_, h.2.2⟩
  cases p
  case l3 => exact absurd (testBit_sub hW (i := 15) rfl) (by rw [show W.testBit 15 = false from hp]; decide)
  all_goals exact h.2.1 _ hp

theorem only_sliceQ {W : Nat} {s0 t : State} (hW : Sub 32768 W) (h : Only W s0 t) (v) :
    Only W s0 { t with sliceQ := v } := by
  refine ⟨h.1, fun p hp => ?_, h.2.2⟩
  cases p
  case l3 => exact absurd (testBit_sub hW (i := 15) rfl) (by rw [show W.testBit 15 = false from hp]; decide)
  all_goals exact h.2.1 _ hp

theorem only_l2 {W : Nat} {s0 t : State} (hW : Sub 65536 W) (h : Only W s0 t) (v) :
    Only W s0 { t with l2 := v } := by
  refine ⟨h.1, fun p hp => ?_, h.2.2⟩
  cases p
  case cores => exact absurd (testBit_sub hW (i := 16) rfl) (by rw [show W.testBit 16 = false from hp]; decide)
  all_goals exact h.2.1 _ hp

theorem only_l1d {W : Nat} {s0 t : State} (hW : Sub 65536 W) (h : Only W s0 t) (v) :
    Only W s0 { t with l1d := v } := by
  refine ⟨h.1, fun p hp => ?_, h.2.2⟩
  cases p
  case cores => exact absurd (testBit_sub hW (i := 16) rfl) (by rw [show W.testBit 16 = false from hp]; decide)
  all_goals exact h.2.1 _ hp

theorem only_l1i {W : Nat} {s0 t : State} (hW : Sub 65536 W) (h : Only W s0 t) (v) :
    Only W s0 { t with l1i := v } := by
  refine ⟨h.1, fun p hp => ?_, h.2.2⟩
  cases p
  case cores => exact absurd (testBit_sub hW (i := 16) rfl) (by rw [show W.testBit 16 = false from hp]; decide)
  all_goals exact h.2.1 _ hp

theorem only_l2Pend {W : Nat} {s0 t : State} (hW : Sub 65536 W) (h : Only W s0 t) (v) :
    Only W s0 { t with l2Pend := v } := by
  refine ⟨h.1, fun p hp => ?_, h.2.2⟩
  cases p
  case cores => exact absurd (testBit_sub hW (i := 16) rfl) (by rw [show W.testBit 16 = false from hp]; decide)
  all_goals exact h.2.1 _ hp

theorem only_l2Held {W : Nat} {s0 t : State} (hW : Sub 65536 W) (h : Only W s0 t) (v) :
    Only W s0 { t with l2Held := v } := by
  refine ⟨h.1, fun p hp => ?_, h.2.2⟩
  cases p
  case cores => exact absurd (testBit_sub hW (i := 16) rfl) (by rw [show W.testBit 16 = false from hp]; decide)
  all_goals exact h.2.1 _ hp

theorem only_ranges {W : Nat} {s0 t : State} (hW : Sub 65536 W) (h : Only W s0 t) (v) :
    Only W s0 { t with ranges := v } := by
  refine ⟨h.1, fun p hp => ?_, h.2.2⟩
  cases p
  case cores => exact absurd (testBit_sub hW (i := 16) rfl) (by rw [show W.testBit 16 = false from hp]; decide)
  all_goals exact h.2.1 _ hp

theorem only_l2BadWay {W : Nat} {s0 t : State} (hW : Sub 65536 W) (h : Only W s0 t) (v) :
    Only W s0 { t with l2BadWay := v } := by
  refine ⟨h.1, fun p hp => ?_, h.2.2⟩
  cases p
  case cores => exact absurd (testBit_sub hW (i := 16) rfl) (by rw [show W.testBit 16 = false from hp]; decide)
  all_goals exact h.2.1 _ hp

theorem only_winPend {W : Nat} {s0 t : State} (hW : Sub 131072 W) (h : Only W s0 t) (v) :
    Only W s0 { t with winPend := v } := by
  refine ⟨h.1, fun p hp => ?_, h.2.2⟩
  cases p
  case fabric => exact absurd (testBit_sub hW (i := 17) rfl) (by rw [show W.testBit 17 = false from hp]; decide)
  all_goals exact h.2.1 _ hp

theorem only_winCur {W : Nat} {s0 t : State} (hW : Sub 131072 W) (h : Only W s0 t) (v) :
    Only W s0 { t with winCur := v } := by
  refine ⟨h.1, fun p hp => ?_, h.2.2⟩
  cases p
  case fabric => exact absurd (testBit_sub hW (i := 17) rfl) (by rw [show W.testBit 17 = false from hp]; decide)
  all_goals exact h.2.1 _ hp

theorem only_routes {W : Nat} {s0 t : State} (hW : Sub 131072 W) (h : Only W s0 t) (v) :
    Only W s0 { t with routes := v } := by
  refine ⟨h.1, fun p hp => ?_, h.2.2⟩
  cases p
  case fabric => exact absurd (testBit_sub hW (i := 17) rfl) (by rw [show W.testBit 17 = false from hp]; decide)
  all_goals exact h.2.1 _ hp

theorem only_epochCheck {W : Nat} {s0 t : State} (hW : Sub 131072 W) (h : Only W s0 t) (v) :
    Only W s0 { t with epochCheck := v } := by
  refine ⟨h.1, fun p hp => ?_, h.2.2⟩
  cases p
  case fabric => exact absurd (testBit_sub hW (i := 17) rfl) (by rw [show W.testBit 17 = false from hp]; decide)
  all_goals exact h.2.1 _ hp

theorem only_winOff {W : Nat} {s0 t : State} (hW : Sub 131072 W) (h : Only W s0 t) (v) :
    Only W s0 { t with winOff := v } := by
  refine ⟨h.1, fun p hp => ?_, h.2.2⟩
  cases p
  case fabric => exact absurd (testBit_sub hW (i := 17) rfl) (by rw [show W.testBit 17 = false from hp]; decide)
  all_goals exact h.2.1 _ hp

theorem only_batLive {W : Nat} {s0 t : State} (hW : Sub 262144 W) (h : Only W s0 t) (v) :
    Only W s0 { t with batLive := v } := by
  refine ⟨h.1, fun p hp => ?_, h.2.2⟩
  cases p
  case bats => exact absurd (testBit_sub hW (i := 18) rfl) (by rw [show W.testBit 18 = false from hp]; decide)
  all_goals exact h.2.1 _ hp

theorem only_batPost {W : Nat} {s0 t : State} (hW : Sub 262144 W) (h : Only W s0 t) (v) :
    Only W s0 { t with batPost := v } := by
  refine ⟨h.1, fun p hp => ?_, h.2.2⟩
  cases p
  case bats => exact absurd (testBit_sub hW (i := 18) rfl) (by rw [show W.testBit 18 = false from hp]; decide)
  all_goals exact h.2.1 _ hp

theorem only_batGap {W : Nat} {s0 t : State} (hW : Sub 262144 W) (h : Only W s0 t) (v) :
    Only W s0 { t with batGap := v } := by
  refine ⟨h.1, fun p hp => ?_, h.2.2⟩
  cases p
  case bats => exact absurd (testBit_sub hW (i := 18) rfl) (by rw [show W.testBit 18 = false from hp]; decide)
  all_goals exact h.2.1 _ hp

theorem only_batStage {W : Nat} {s0 t : State} (hW : Sub 262144 W) (h : Only W s0 t) (v) :
    Only W s0 { t with batStage := v } := by
  refine ⟨h.1, fun p hp => ?_, h.2.2⟩
  cases p
  case bats => exact absurd (testBit_sub hW (i := 18) rfl) (by rw [show W.testBit 18 = false from hp]; decide)
  all_goals exact h.2.1 _ hp

theorem only_batBuf {W : Nat} {s0 t : State} (hW : Sub 262144 W) (h : Only W s0 t) (v) :
    Only W s0 { t with batBuf := v } := by
  refine ⟨h.1, fun p hp => ?_, h.2.2⟩
  cases p
  case bats => exact absurd (testBit_sub hW (i := 18) rfl) (by rw [show W.testBit 18 = false from hp]; decide)
  all_goals exact h.2.1 _ hp

theorem only_batFifo {W : Nat} {s0 t : State} (hW : Sub 262144 W) (h : Only W s0 t) (v) :
    Only W s0 { t with batFifo := v } := by
  refine ⟨h.1, fun p hp => ?_, h.2.2⟩
  cases p
  case bats => exact absurd (testBit_sub hW (i := 18) rfl) (by rw [show W.testBit 18 = false from hp]; decide)
  all_goals exact h.2.1 _ hp

theorem only_bridges {W : Nat} {s0 t : State} (hW : Sub 524288 W) (h : Only W s0 t) (v) :
    Only W s0 { t with bridges := v } := by
  refine ⟨h.1, fun p hp => ?_, h.2.2⟩
  cases p
  case bridges => exact absurd (testBit_sub hW (i := 19) rfl) (by rw [show W.testBit 19 = false from hp]; decide)
  all_goals exact h.2.1 _ hp

theorem only_dieTrans {W : Nat} {s0 t : State} (hW : Sub 524288 W) (h : Only W s0 t) (v) :
    Only W s0 { t with dieTrans := v } := by
  refine ⟨h.1, fun p hp => ?_, h.2.2⟩
  cases p
  case bridges => exact absurd (testBit_sub hW (i := 19) rfl) (by rw [show W.testBit 19 = false from hp]; decide)
  all_goals exact h.2.1 _ hp

theorem only_dma {W : Nat} {s0 t : State} (hW : Sub 1048576 W) (h : Only W s0 t) (v) :
    Only W s0 { t with dma := v } := by
  refine ⟨h.1, fun p hp => ?_, h.2.2⟩
  cases p
  case dma => exact absurd (testBit_sub hW (i := 20) rfl) (by rw [show W.testBit 20 = false from hp]; decide)
  all_goals exact h.2.1 _ hp

theorem only_dmaTurn {W : Nat} {s0 t : State} (hW : Sub 1048576 W) (h : Only W s0 t) (v) :
    Only W s0 { t with dmaTurn := v } := by
  refine ⟨h.1, fun p hp => ?_, h.2.2⟩
  cases p
  case dma => exact absurd (testBit_sub hW (i := 20) rfl) (by rw [show W.testBit 20 = false from hp]; decide)
  all_goals exact h.2.1 _ hp

theorem only_dmaPtr {W : Nat} {s0 t : State} (hW : Sub 1048576 W) (h : Only W s0 t) (v) :
    Only W s0 { t with dmaPtr := v } := by
  refine ⟨h.1, fun p hp => ?_, h.2.2⟩
  cases p
  case dma => exact absurd (testBit_sub hW (i := 20) rfl) (by rw [show W.testBit 20 = false from hp]; decide)
  all_goals exact h.2.1 _ hp

theorem only_pulses {W : Nat} {s0 t : State} (hW : Sub 2097152 W) (h : Only W s0 t) (v) :
    Only W s0 { t with pulses := v } := by
  refine ⟨h.1, fun p hp => ?_, h.2.2⟩
  cases p
  case irq => exact absurd (testBit_sub hW (i := 21) rfl) (by rw [show W.testBit 21 = false from hp]; decide)
  all_goals exact h.2.1 _ hp

theorem only_aplic {W : Nat} {s0 t : State} (hW : Sub 2097152 W) (h : Only W s0 t) (v) :
    Only W s0 { t with aplic := v } := by
  refine ⟨h.1, fun p hp => ?_, h.2.2⟩
  cases p
  case irq => exact absurd (testBit_sub hW (i := 21) rfl) (by rw [show W.testBit 21 = false from hp]; decide)
  all_goals exact h.2.1 _ hp

theorem only_wired {W : Nat} {s0 t : State} (hW : Sub 2097152 W) (h : Only W s0 t) (v) :
    Only W s0 { t with wired := v } := by
  refine ⟨h.1, fun p hp => ?_, h.2.2⟩
  cases p
  case irq => exact absurd (testBit_sub hW (i := 21) rfl) (by rw [show W.testBit 21 = false from hp]; decide)
  all_goals exact h.2.1 _ hp

theorem only_helm {W : Nat} {s0 t : State} (hW : Sub 4194304 W) (h : Only W s0 t) (v) :
    Only W s0 { t with helm := v } := by
  refine ⟨h.1, fun p hp => ?_, h.2.2⟩
  cases p
  case helm => exact absurd (testBit_sub hW (i := 22) rfl) (by rw [show W.testBit 22 = false from hp]; decide)
  all_goals exact h.2.1 _ hp

theorem only_partRun {W : Nat} {s0 t : State} (hW : Sub 8388608 W) (h : Only W s0 t) (v) :
    Only W s0 { t with partRun := v } := by
  refine ⟨h.1, fun p hp => ?_, h.2.2⟩
  cases p
  case partitions => exact absurd (testBit_sub hW (i := 23) rfl) (by rw [show W.testBit 23 = false from hp]; decide)
  all_goals exact h.2.1 _ hp

theorem only_hartNew {W : Nat} {s0 t : State} (hW : Sub 8388608 W) (h : Only W s0 t) (v) :
    Only W s0 { t with hartNew := v } := by
  refine ⟨h.1, fun p hp => ?_, h.2.2⟩
  cases p
  case partitions => exact absurd (testBit_sub hW (i := 23) rfl) (by rw [show W.testBit 23 = false from hp]; decide)
  all_goals exact h.2.1 _ hp

theorem only_iommu {W : Nat} {s0 t : State} (hW : Sub 16777216 W) (h : Only W s0 t) (v) :
    Only W s0 { t with iommu := v } := by
  refine ⟨h.1, fun p hp => ?_, h.2.2⟩
  cases p
  case iommu => exact absurd (testBit_sub hW (i := 24) rfl) (by rw [show W.testBit 24 = false from hp]; decide)
  all_goals exact h.2.1 _ hp

theorem only_iommuFlt {W : Nat} {s0 t : State} (hW : Sub 16777216 W) (h : Only W s0 t) (v) :
    Only W s0 { t with iommuFlt := v } := by
  refine ⟨h.1, fun p hp => ?_, h.2.2⟩
  cases p
  case iommu => exact absurd (testBit_sub hW (i := 24) rfl) (by rw [show W.testBit 24 = false from hp]; decide)
  all_goals exact h.2.1 _ hp

theorem only_peLive {W : Nat} {s0 t : State} (hW : Sub 33554432 W) (h : Only W s0 t) (v) :
    Only W s0 { t with peLive := v } := by
  refine ⟨h.1, fun p hp => ?_, h.2.2⟩
  cases p
  case pcie => exact absurd (testBit_sub hW (i := 25) rfl) (by rw [show W.testBit 25 = false from hp]; decide)
  all_goals exact h.2.1 _ hp

theorem only_peRd {W : Nat} {s0 t : State} (hW : Sub 33554432 W) (h : Only W s0 t) (v) :
    Only W s0 { t with peRd := v } := by
  refine ⟨h.1, fun p hp => ?_, h.2.2⟩
  cases p
  case pcie => exact absurd (testBit_sub hW (i := 25) rfl) (by rw [show W.testBit 25 = false from hp]; decide)
  all_goals exact h.2.1 _ hp

theorem only_peWait {W : Nat} {s0 t : State} (hW : Sub 33554432 W) (h : Only W s0 t) (v) :
    Only W s0 { t with peWait := v } := by
  refine ⟨h.1, fun p hp => ?_, h.2.2⟩
  cases p
  case pcie => exact absurd (testBit_sub hW (i := 25) rfl) (by rw [show W.testBit 25 = false from hp]; decide)
  all_goals exact h.2.1 _ hp

theorem only_peComb {W : Nat} {s0 t : State} (hW : Sub 33554432 W) (h : Only W s0 t) (v) :
    Only W s0 { t with peComb := v } := by
  refine ⟨h.1, fun p hp => ?_, h.2.2⟩
  cases p
  case pcie => exact absurd (testBit_sub hW (i := 25) rfl) (by rw [show W.testBit 25 = false from hp]; decide)
  all_goals exact h.2.1 _ hp

theorem only_peWr {W : Nat} {s0 t : State} (hW : Sub 33554432 W) (h : Only W s0 t) (v) :
    Only W s0 { t with peWr := v } := by
  refine ⟨h.1, fun p hp => ?_, h.2.2⟩
  cases p
  case pcie => exact absurd (testBit_sub hW (i := 25) rfl) (by rw [show W.testBit 25 = false from hp]; decide)
  all_goals exact h.2.1 _ hp

theorem only_peCfg {W : Nat} {s0 t : State} (hW : Sub 33554432 W) (h : Only W s0 t) (v) :
    Only W s0 { t with peCfg := v } := by
  refine ⟨h.1, fun p hp => ?_, h.2.2⟩
  cases p
  case pcie => exact absurd (testBit_sub hW (i := 25) rfl) (by rw [show W.testBit 25 = false from hp]; decide)
  all_goals exact h.2.1 _ hp

theorem only_msix {W : Nat} {s0 t : State} (hW : Sub 33554432 W) (h : Only W s0 t) (v) :
    Only W s0 { t with msix := v } := by
  refine ⟨h.1, fun p hp => ?_, h.2.2⟩
  cases p
  case pcie => exact absurd (testBit_sub hW (i := 25) rfl) (by rw [show W.testBit 25 = false from hp]; decide)
  all_goals exact h.2.1 _ hp

theorem only_aspm {W : Nat} {s0 t : State} (hW : Sub 33554432 W) (h : Only W s0 t) (v) :
    Only W s0 { t with aspm := v } := by
  refine ⟨h.1, fun p hp => ?_, h.2.2⟩
  cases p
  case pcie => exact absurd (testBit_sub hW (i := 25) rfl) (by rw [show W.testBit 25 = false from hp]; decide)
  all_goals exact h.2.1 _ hp

theorem only_inq {W : Nat} {s0 t : State} (hW : Sub 67108864 W) (h : Only W s0 t) (v) :
    Only W s0 { t with inq := v } := by
  refine ⟨h.1, fun p hp => ?_, h.2.2⟩
  cases p
  case inbound => exact absurd (testBit_sub hW (i := 26) rfl) (by rw [show W.testBit 26 = false from hp]; decide)
  all_goals exact h.2.1 _ hp

theorem only_iwinCur {W : Nat} {s0 t : State} (hW : Sub 67108864 W) (h : Only W s0 t) (v) :
    Only W s0 { t with iwinCur := v } := by
  refine ⟨h.1, fun p hp => ?_, h.2.2⟩
  cases p
  case inbound => exact absurd (testBit_sub hW (i := 26) rfl) (by rw [show W.testBit 26 = false from hp]; decide)
  all_goals exact h.2.1 _ hp

theorem only_plQ {W : Nat} {s0 t : State} (hW : Sub 134217728 W) (h : Only W s0 t) (v) :
    Only W s0 { t with plQ := v } := by
  refine ⟨h.1, fun p hp => ?_, h.2.2⟩
  cases p
  case paleg => exact absurd (testBit_sub hW (i := 27) rfl) (by rw [show W.testBit 27 = false from hp]; decide)
  all_goals exact h.2.1 _ hp

theorem only_plLinks {W : Nat} {s0 t : State} (hW : Sub 134217728 W) (h : Only W s0 t) (v) :
    Only W s0 { t with plLinks := v } := by
  refine ⟨h.1, fun p hp => ?_, h.2.2⟩
  cases p
  case paleg => exact absurd (testBit_sub hW (i := 27) rfl) (by rw [show W.testBit 27 = false from hp]; decide)
  all_goals exact h.2.1 _ hp

theorem only_plIn {W : Nat} {s0 t : State} (hW : Sub 134217728 W) (h : Only W s0 t) (v) :
    Only W s0 { t with plIn := v } := by
  refine ⟨h.1, fun p hp => ?_, h.2.2⟩
  cases p
  case paleg => exact absurd (testBit_sub hW (i := 27) rfl) (by rw [show W.testBit 27 = false from hp]; decide)
  all_goals exact h.2.1 _ hp

theorem only_plTx {W : Nat} {s0 t : State} (hW : Sub 134217728 W) (h : Only W s0 t) (v) :
    Only W s0 { t with plTx := v } := by
  refine ⟨h.1, fun p hp => ?_, h.2.2⟩
  cases p
  case paleg => exact absurd (testBit_sub hW (i := 27) rfl) (by rw [show W.testBit 27 = false from hp]; decide)
  all_goals exact h.2.1 _ hp

theorem only_plWait {W : Nat} {s0 t : State} (hW : Sub 134217728 W) (h : Only W s0 t) (v) :
    Only W s0 { t with plWait := v } := by
  refine ⟨h.1, fun p hp => ?_, h.2.2⟩
  cases p
  case paleg => exact absurd (testBit_sub hW (i := 27) rfl) (by rw [show W.testBit 27 = false from hp]; decide)
  all_goals exact h.2.1 _ hp

theorem only_plRx {W : Nat} {s0 t : State} (hW : Sub 134217728 W) (h : Only W s0 t) (v) :
    Only W s0 { t with plRx := v } := by
  refine ⟨h.1, fun p hp => ?_, h.2.2⟩
  cases p
  case paleg => exact absurd (testBit_sub hW (i := 27) rfl) (by rw [show W.testBit 27 = false from hp]; decide)
  all_goals exact h.2.1 _ hp

theorem only_clkOff {W : Nat} {s0 t : State} (hW : Sub 268435456 W) (h : Only W s0 t) (v) :
    Only W s0 { t with clkOff := v } := by
  refine ⟨h.1, fun p hp => ?_, h.2.2⟩
  cases p
  case power => exact absurd (testBit_sub hW (i := 28) rfl) (by rw [show W.testBit 28 = false from hp]; decide)
  all_goals exact h.2.1 _ hp

theorem only_pkgEnd {W : Nat} {s0 t : State} (hW : Sub 268435456 W) (h : Only W s0 t) (v) :
    Only W s0 { t with pkgEnd := v } := by
  refine ⟨h.1, fun p hp => ?_, h.2.2⟩
  cases p
  case power => exact absurd (testBit_sub hW (i := 28) rfl) (by rw [show W.testBit 28 = false from hp]; decide)
  all_goals exact h.2.1 _ hp

theorem only_pkgOff {W : Nat} {s0 t : State} (hW : Sub 268435456 W) (h : Only W s0 t) (v) :
    Only W s0 { t with pkgOff := v } := by
  refine ⟨h.1, fun p hp => ?_, h.2.2⟩
  cases p
  case power => exact absurd (testBit_sub hW (i := 28) rfl) (by rw [show W.testBit 28 = false from hp]; decide)
  all_goals exact h.2.1 _ hp

theorem only_aonOff {W : Nat} {s0 t : State} (hW : Sub 268435456 W) (h : Only W s0 t) (v) :
    Only W s0 { t with aonOff := v } := by
  refine ⟨h.1, fun p hp => ?_, h.2.2⟩
  cases p
  case power => exact absurd (testBit_sub hW (i := 28) rfl) (by rw [show W.testBit 28 = false from hp]; decide)
  all_goals exact h.2.1 _ hp

theorem only_freqGoal {W : Nat} {s0 t : State} (hW : Sub 268435456 W) (h : Only W s0 t) (v) :
    Only W s0 { t with freqGoal := v } := by
  refine ⟨h.1, fun p hp => ?_, h.2.2⟩
  cases p
  case power => exact absurd (testBit_sub hW (i := 28) rfl) (by rw [show W.testBit 28 = false from hp]; decide)
  all_goals exact h.2.1 _ hp

theorem only_samples {W : Nat} {s0 t : State} (hW : Sub 268435456 W) (h : Only W s0 t) (v) :
    Only W s0 { t with samples := v } := by
  refine ⟨h.1, fun p hp => ?_, h.2.2⟩
  cases p
  case power => exact absurd (testBit_sub hW (i := 28) rfl) (by rw [show W.testBit 28 = false from hp]; decide)
  all_goals exact h.2.1 _ hp

theorem only_calm {W : Nat} {s0 t : State} (hW : Sub 268435456 W) (h : Only W s0 t) (v) :
    Only W s0 { t with calm := v } := by
  refine ⟨h.1, fun p hp => ?_, h.2.2⟩
  cases p
  case power => exact absurd (testBit_sub hW (i := 28) rfl) (by rw [show W.testBit 28 = false from hp]; decide)
  all_goals exact h.2.1 _ hp

theorem only_sku {W : Nat} {s0 t : State} (hW : Sub 1 W) (h : Only W s0 t) (v) :
    Only W s0 { t with sku := v } := by
  refine ⟨h.1, fun p hp => ?_, h.2.2⟩
  cases p
  case queue => exact absurd (testBit_sub hW (i := 0) rfl) (by rw [show W.testBit 0 = false from hp]; decide)
  all_goals exact h.2.1 _ hp

theorem only_mcOpen {W : Nat} {s0 t : State} (hW : Sub 8192 W) (h : Only W s0 t) (v) :
    Only W s0 { t with mcOpen := v } := by
  refine ⟨h.1, fun p hp => ?_, h.2.2⟩
  cases p
  case mctl => exact absurd (testBit_sub hW (i := 13) rfl) (by rw [show W.testBit 13 = false from hp]; decide)
  all_goals exact h.2.1 _ hp

theorem only_mcStart {W : Nat} {s0 t : State} (hW : Sub 8192 W) (h : Only W s0 t) (v) :
    Only W s0 { t with mcStart := v } := by
  refine ⟨h.1, fun p hp => ?_, h.2.2⟩
  cases p
  case mctl => exact absurd (testBit_sub hW (i := 13) rfl) (by rw [show W.testBit 13 = false from hp]; decide)
  all_goals exact h.2.1 _ hp

theorem only_winBusy {W : Nat} {s0 t : State} (hW : Sub 131072 W) (h : Only W s0 t) (v) :
    Only W s0 { t with winBusy := v } := by
  refine ⟨h.1, fun p hp => ?_, h.2.2⟩
  cases p
  case fabric => exact absurd (testBit_sub hW (i := 17) rfl) (by rw [show W.testBit 17 = false from hp]; decide)
  all_goals exact h.2.1 _ hp

theorem only_epochLag {W : Nat} {s0 t : State} (hW : Sub 131072 W) (h : Only W s0 t) (v) :
    Only W s0 { t with epochLag := v } := by
  refine ⟨h.1, fun p hp => ?_, h.2.2⟩
  cases p
  case fabric => exact absurd (testBit_sub hW (i := 17) rfl) (by rw [show W.testBit 17 = false from hp]; decide)
  all_goals exact h.2.1 _ hp

theorem only_excess {W : Nat} {s0 t : State} (hW : Sub 268435456 W) (h : Only W s0 t) (v) :
    Only W s0 { t with excess := v } := by
  refine ⟨h.1, fun p hp => ?_, h.2.2⟩
  cases p
  case power => exact absurd (testBit_sub hW (i := 28) rfl) (by rw [show W.testBit 28 = false from hp]; decide)
  all_goals exact h.2.1 _ hp

theorem only_fine {W : Nat} {s0 t : State} (hW : Sub 268435456 W) (h : Only W s0 t) (v) :
    Only W s0 { t with fine := v } := by
  refine ⟨h.1, fun p hp => ?_, h.2.2⟩
  cases p
  case power => exact absurd (testBit_sub hW (i := 28) rfl) (by rw [show W.testBit 28 = false from hp]; decide)
  all_goals exact h.2.1 _ hp

theorem only_pfAt {W : Nat} {s0 t : State} (hW : Sub 268435456 W) (h : Only W s0 t) (v) :
    Only W s0 { t with pfAt := v } := by
  refine ⟨h.1, fun p hp => ?_, h.2.2⟩
  cases p
  case power => exact absurd (testBit_sub hW (i := 28) rfl) (by rw [show W.testBit 28 = false from hp]; decide)
  all_goals exact h.2.1 _ hp

theorem only_aonTb {W : Nat} {s0 t : State} (hW : Sub 268435456 W) (h : Only W s0 t) (v) :
    Only W s0 { t with aonTb := v } := by
  refine ⟨h.1, fun p hp => ?_, h.2.2⟩
  cases p
  case power => exact absurd (testBit_sub hW (i := 28) rfl) (by rw [show W.testBit 28 = false from hp]; decide)
  all_goals exact h.2.1 _ hp

theorem only_peIdle {W : Nat} {s0 t : State} (hW : Sub 33554432 W) (h : Only W s0 t) (v) :
    Only W s0 { t with peIdle := v } := by
  refine ⟨h.1, fun p hp => ?_, h.2.2⟩
  cases p
  case pcie => exact absurd (testBit_sub hW (i := 25) rfl) (by rw [show W.testBit 25 = false from hp]; decide)
  all_goals exact h.2.1 _ hp

theorem only_frameAt {W : Nat} {s0 t : State} (hW : Sub 64 W) (h : Only W s0 t) (v) :
    Only W s0 { t with frameAt := v } := by
  refine ⟨h.1, fun p hp => ?_, h.2.2⟩
  cases p
  case phase => exact absurd (testBit_sub hW (i := 6) rfl) (by rw [show W.testBit 6 = false from hp]; decide)
  all_goals exact h.2.1 _ hp

theorem only_mittenRef {W : Nat} {s0 t : State} (hW : Sub 268435456 W) (h : Only W s0 t) (v) :
    Only W s0 { t with mittenRef := v } := by
  refine ⟨h.1, fun p hp => ?_, h.2.2⟩
  cases p
  case power => exact absurd (testBit_sub hW (i := 28) rfl) (by rw [show W.testBit 28 = false from hp]; decide)
  all_goals exact h.2.1 _ hp

theorem only_gatePort {W : Nat} {s0 t : State} (hW : Sub 268435456 W) (h : Only W s0 t) (v) :
    Only W s0 { t with gatePort := v } := by
  refine ⟨h.1, fun p hp => ?_, h.2.2⟩
  cases p
  case power => exact absurd (testBit_sub hW (i := 28) rfl) (by rw [show W.testBit 28 = false from hp]; decide)
  all_goals exact h.2.1 _ hp

theorem only_pwrIrq {W : Nat} {s0 t : State} (hW : Sub 268435456 W) (h : Only W s0 t) (v) :
    Only W s0 { t with pwrIrq := v } := by
  refine ⟨h.1, fun p hp => ?_, h.2.2⟩
  cases p
  case power => exact absurd (testBit_sub hW (i := 28) rfl) (by rw [show W.testBit 28 = false from hp]; decide)
  all_goals exact h.2.1 _ hp

theorem only_boot {W : Nat} {s0 t : State} (hW : Sub 536870912 W) (h : Only W s0 t) (v) :
    Only W s0 { t with boot := v } := by
  refine ⟨h.1, fun p hp => ?_, h.2.2⟩
  cases p
  case start => exact absurd (testBit_sub hW (i := 29) rfl) (by rw [show W.testBit 29 = false from hp]; decide)
  all_goals exact h.2.1 _ hp

theorem only_flash {W : Nat} {s0 t : State} (hW : Sub 536870912 W) (h : Only W s0 t) (v) :
    Only W s0 { t with flash := v } := by
  refine ⟨h.1, fun p hp => ?_, h.2.2⟩
  cases p
  case start => exact absurd (testBit_sub hW (i := 29) rfl) (by rw [show W.testBit 29 = false from hp]; decide)
  all_goals exact h.2.1 _ hp

theorem only_flashOp {W : Nat} {s0 t : State} (hW : Sub 536870912 W) (h : Only W s0 t) (v) :
    Only W s0 { t with flashOp := v } := by
  refine ⟨h.1, fun p hp => ?_, h.2.2⟩
  cases p
  case start => exact absurd (testBit_sub hW (i := 29) rfl) (by rw [show W.testBit 29 = false from hp]; decide)
  all_goals exact h.2.1 _ hp

theorem only_rack {W : Nat} {s0 t : State} (hW : Sub 536870912 W) (h : Only W s0 t) (v) :
    Only W s0 { t with rack := v } := by
  refine ⟨h.1, fun p hp => ?_, h.2.2⟩
  cases p
  case start => exact absurd (testBit_sub hW (i := 29) rfl) (by rw [show W.testBit 29 = false from hp]; decide)
  all_goals exact h.2.1 _ hp

theorem only_intake {W : Nat} {s0 t : State} (hW : Sub 1073741824 W) (h : Only W s0 t) (v) :
    Only W s0 { t with intake := v } := by
  refine ⟨h.1, fun p hp => ?_, h.2.2⟩
  cases p
  case ras => exact absurd (testBit_sub hW (i := 30) rfl) (by rw [show W.testBit 30 = false from hp]; decide)
  all_goals exact h.2.1 _ hp

theorem only_rasUnread {W : Nat} {s0 t : State} (hW : Sub 1073741824 W) (h : Only W s0 t) (v) :
    Only W s0 { t with rasUnread := v } := by
  refine ⟨h.1, fun p hp => ?_, h.2.2⟩
  cases p
  case ras => exact absurd (testBit_sub hW (i := 30) rfl) (by rw [show W.testBit 30 = false from hp]; decide)
  all_goals exact h.2.1 _ hp

theorem only_rasAny {W : Nat} {s0 t : State} (hW : Sub 1073741824 W) (h : Only W s0 t) (v) :
    Only W s0 { t with rasAny := v } := by
  refine ⟨h.1, fun p hp => ?_, h.2.2⟩
  cases p
  case ras => exact absurd (testBit_sub hW (i := 30) rfl) (by rw [show W.testBit 30 = false from hp]; decide)
  all_goals exact h.2.1 _ hp

theorem only_rasSeq {W : Nat} {s0 t : State} (hW : Sub 1073741824 W) (h : Only W s0 t) (v) :
    Only W s0 { t with rasSeq := v } := by
  refine ⟨h.1, fun p hp => ?_, h.2.2⟩
  cases p
  case ras => exact absurd (testBit_sub hW (i := 30) rfl) (by rw [show W.testBit 30 = false from hp]; decide)
  all_goals exact h.2.1 _ hp

theorem only_rasCoreUc {W : Nat} {s0 t : State} (hW : Sub 1073741824 W) (h : Only W s0 t) (v) :
    Only W s0 { t with rasCoreUc := v } := by
  refine ⟨h.1, fun p hp => ?_, h.2.2⟩
  cases p
  case ras => exact absurd (testBit_sub hW (i := 30) rfl) (by rw [show W.testBit 30 = false from hp]; decide)
  all_goals exact h.2.1 _ hp

theorem only_repairs {W : Nat} {s0 t : State} (hW : Sub 1073741824 W) (h : Only W s0 t) (v) :
    Only W s0 { t with repairs := v } := by
  refine ⟨h.1, fun p hp => ?_, h.2.2⟩
  cases p
  case ras => exact absurd (testBit_sub hW (i := 30) rfl) (by rw [show W.testBit 30 = false from hp]; decide)
  all_goals exact h.2.1 _ hp

theorem only_tap {W : Nat} {s0 t : State} (hW : Sub 2147483648 W) (h : Only W s0 t) (v) :
    Only W s0 { t with tap := v } := by
  refine ⟨h.1, fun p hp => ?_, h.2.2⟩
  cases p
  case debug => exact absurd (testBit_sub hW (i := 31) rfl) (by rw [show W.testBit 31 = false from hp]; decide)
  all_goals exact h.2.1 _ hp

theorem only_dbg {W : Nat} {s0 t : State} (hW : Sub 2147483648 W) (h : Only W s0 t) (v) :
    Only W s0 { t with dbg := v } := by
  refine ⟨h.1, fun p hp => ?_, h.2.2⟩
  cases p
  case debug => exact absurd (testBit_sub hW (i := 31) rfl) (by rw [show W.testBit 31 = false from hp]; decide)
  all_goals exact h.2.1 _ hp

end Sys2Proof.Machine
end

