-- ==== Sys2Proof/Laws/KeepBase.lean ====
section
/-! SUPPORT. The start of the Keep files: writes to the register file and to memory, and updates of several fields. -/
namespace Sys2Proof.Machine

theorem regBit_part (g : Reg) : (regBit g).testBit 2 = true := by cases g <;> decide

theorem regBit_mark (g : Reg) : (regBit g).testBit g.mark = true := by cases g <;> decide

theorem sub_drain {A W : Nat} {e : Bool} (h : regBit .FAB_EPOCH &&& A = regBit .FAB_EPOCH) (hW : Sub A W) :
    Sub (regBit (drainFld e).reg) W := by cases e <;> exact sub_trans h hW

theorem sub_iteF {W : Nat} {a b : Fld} {c : Prop} [Decidable c] (ha : Sub (regBit a.reg) W) (hb : Sub (regBit b.reg) W) :
    Sub (regBit (if c then a else b).reg) W := by split <;> assumption

theorem sub_iteG {W : Nat} {a b : Reg} {c : Prop} [Decidable c] (ha : Sub (regBit a) W) (hb : Sub (regBit b) W) :
    Sub (regBit (if c then a else b)) W := by split <;> assumption

/-- All registers. -/
def allRegs : Nat := 1 <<< 278 - 1 <<< 32 + 4

theorem regBit_all (g : Reg) : regBit g &&& allRegs = regBit g := by cases g <;> rfl

theorem all_regs {A W : Nat} (h : allRegs &&& A = allRegs) (hW : Sub A W) {g : Reg} : Sub (regBit g) W :=
  sub_trans (regBit_all g) (sub_trans h hW)

theorem lanFld_reg (b : Bool) : (lanFld b).reg = .LAN_STATUS := by cases b <;> rfl

theorem lanRestarts_reg (b : Bool) : (lanRestarts b).reg = .LAN_STATUS := by cases b <;> rfl

theorem sub_lan {A W : Nat} {e : Fld} (h : regBit .LAN_STATUS &&& A = regBit .LAN_STATUS) (hW : Sub A W)
    (he : e.reg = .LAN_STATUS := by first | rfl | exact lanFld_reg _ | exact lanRestarts_reg _) : Sub (regBit e.reg) W := he ▸ sub_trans h hW

/-- Carries a fact along an equation. -/
theorem only_of_eq {W : Nat} {s0 a b : State} {G : Prop} (e : a = b) (h : Only W s0 a) (k : Only W s0 b → G) : G :=
  k (e ▸ h)

theorem only_foldl_snd {W : Nat} {s0 : State} {α β : Type} {f : α × State → β → α × State} {l : List β} {p : α × State}
    (hf : ∀ t x, Only W s0 t.2 → Only W s0 (f t x).2) (h : Only W s0 p.2) : Only W s0 (l.foldl f p).2 := by
  induction l generalizing p with
  | nil => exact h
  | cons x l ih => exact ih (hf p x h)

theorem only_foldl_fst {W : Nat} {s0 : State} {α β : Type} {f : State × α → β → State × α} {l : List β} {p : State × α}
    (hf : ∀ t x, Only W s0 t.1 → Only W s0 (f t x).1) (h : Only W s0 p.1) : Only W s0 (l.foldl f p).1 := by
  induction l generalizing p with
  | nil => exact h
  | cons x l ih => exact ih (hf p x h)

theorem only_foldl_mid {W : Nat} {s0 : State} {α β γ : Type} {f : α × State × γ → β → α × State × γ} {l : List β}
    {p : α × State × γ} (hf : ∀ t x, Only W s0 t.2.1 → Only W s0 (f t x).2.1) (h : Only W s0 p.2.1) :
    Only W s0 (l.foldl f p).2.1 := by
  induction l generalizing p with
  | nil => exact h
  | cons x l ih => exact ih (hf p x h)

/-- Registers left out read as at reset. -/
theorem only_regs_filter {W : Nat} {s0 : State} (hW : Sub allRegs W) {q : Nat × Word → Bool} {s : State}
    (h : Only W s0 s) : Only W s0 { s with regs := s.regs.filter q } := by
  refine ⟨⟨fun c => ⟨(h.1.1 c).1, smapWf_filter q _ _ (h.1.1 c).2⟩, h.1.2⟩, fun p hp => ?_, fun g hg j => ?_⟩
  · cases p
    case regs => exact absurd (testBit_sub hW (i := 2) rfl) (by rw [show W.testBit 2 = false from hp]; decide)
    all_goals exact h.2.1 _ hp
  · rw [testBit_sub (sub_trans (regBit_all g) hW) (regBit_mark _)] at hg
    cases hg

/-- Registers of some names left out read as at reset. -/
theorem only_regs_filter_of {W : Nat} {s0 : State} {q : Nat × Word → Bool} {s : State} (h2 : W.testBit 2 = true)
    (hq : ∀ g : Reg, W.testBit g.mark = false → ∀ i v, q (g.key i, v) = true)
    (h : Only W s0 s) : Only W s0 { s with regs := s.regs.filter q } := by
  refine ⟨⟨fun c => ⟨(h.1.1 c).1, smapWf_filter q _ _ (h.1.1 c).2⟩, h.1.2⟩, fun p hp => ?_, fun g hg j => ?_⟩
  · cases p
    case regs => rw [show W.testBit 2 = false from hp] at h2; cases h2
    all_goals exact h.2.1 _ hp
  · exact (smapGet_filter _ (hq g hg j)).trans (h.2.2 g hg j)

/-- Bytes left out read as memory that nothing has written. -/
theorem only_mem_filter {W : Nat} {s0 : State} (hW : Sub 0x4000000000000000000000000000000000000000000000000000000000000000000010 W) {q : Host.Cell → Bool} {s : State}
    (h : Only W s0 s) : Only W s0 { s with mem := s.mem.filter q } := by
  refine ⟨⟨fun c => ⟨smapWf_filter q _ _ (h.1.1 c).1, (h.1.1 c).2⟩,
    fun hw => absurd (testBit_sub hW (i := storeBit) rfl) (by rw [hw]; decide)⟩, fun p hp => ?_, h.2.2⟩
  cases p
  case mem => exact absurd (testBit_sub hW (i := 4) rfl) (by rw [show W.testBit 4 = false from hp]; decide)
  all_goals exact h.2.1 _ hp

/-- The state in an optional pair. -/
def OnlyOptSnd {α : Type} (W : Nat) (s0 : State) (o : Option (α × State)) : Prop := ∀ p, o = some p → Only W s0 p.2

/-- The state in an option. -/
def OnlyOpt (W : Nat) (s0 : State) (o : Option State) : Prop := ∀ p, o = some p → Only W s0 p

/-- The state beside an error. -/
def OnlyErr {α β : Type} (W : Nat) (s0 : State) (o : Except (α × State) β) : Prop := ∀ p, o = .error p → Only W s0 p.2

/-- The state in the result of an installation. -/
def OnlyInst (W : Nat) (s0 : State) : Install → Prop
  | .done s => Only W s0 s
  | .full => True
  | .noWay s => Only W s0 s

theorem inst_done {W : Nat} {s0 s : State} (h : Only W s0 s) : OnlyInst W s0 (.done s) := h

theorem inst_noWay {W : Nat} {s0 s : State} (h : Only W s0 s) : OnlyInst W s0 (.noWay s) := h

theorem optSnd_none {W : Nat} {s0 : State} {α : Type} : OnlyOptSnd W s0 (none : Option (α × State)) := by
  intro p hp; cases hp

theorem optSt_none {W : Nat} {s0 : State} : OnlyOpt W s0 none := by intro p hp; cases hp

theorem optSnd_some {W : Nat} {s0 : State} {α : Type} {q : α × State} (h : Only W s0 q.2) :
    OnlyOptSnd W s0 (some q) := by intro p hp; cases hp; exact h

theorem optSt_some {W : Nat} {s0 : State} {q : State} (h : Only W s0 q) : OnlyOpt W s0 (some q) := by
  intro p hp; cases hp; exact h

theorem exErr_ok {W : Nat} {s0 : State} {α β : Type} {b : β} : OnlyErr (α := α) W s0 (.ok b) := by intro p hp; cases hp

theorem exErr_error {W : Nat} {s0 : State} {α β : Type} {q : α × State} (h : Only W s0 q.2) :
    OnlyErr (β := β) W s0 (.error q) := by intro p hp; cases hp; exact h

theorem inst_of_eq {W : Nat} {s0 : State} {o i : Install} (e : o = i) (h : OnlyInst W s0 o) : OnlyInst W s0 i := e ▸ h

theorem only_ite_snd {W : Nat} {s0 : State} {α : Type} {a b : α × State} {c : Prop} [Decidable c]
    (ha : Only W s0 a.2) (hb : Only W s0 b.2) : Only W s0 (if c then a else b).2 := by
  split <;> assumption

theorem only_ite_fst {W : Nat} {s0 : State} {α : Type} {a b : State × α} {c : Prop} [Decidable c]
    (ha : Only W s0 a.1) (hb : Only W s0 b.1) : Only W s0 (if c then a else b).1 := by
  split <;> assumption

theorem only_ite_sndsnd {W : Nat} {s0 : State} {α : Type} {β : Type} {a b : α × β × State} {c : Prop} [Decidable c]
    (ha : Only W s0 a.2.2) (hb : Only W s0 b.2.2) : Only W s0 (if c then a else b).2.2 := by
  split <;> assumption

theorem only_ite_mid {W : Nat} {s0 : State} {α : Type} {β : Type} {a b : α × State × β} {c : Prop} [Decidable c]
    (ha : Only W s0 a.2.1) (hb : Only W s0 b.2.1) : Only W s0 (if c then a else b).2.1 := by
  split <;> assumption

theorem only_ite_optSnd {W : Nat} {s0 : State} {α : Type} {a b : Option (α × State)} {c : Prop} [Decidable c]
    (ha : OnlyOptSnd W s0 a) (hb : OnlyOptSnd W s0 b) : OnlyOptSnd W s0 (if c then a else b) := by
  split <;> assumption

theorem only_ite_optSt {W : Nat} {s0 : State}  {a b : Option State} {c : Prop} [Decidable c]
    (ha : OnlyOpt W s0 a) (hb : OnlyOpt W s0 b) : OnlyOpt W s0 (if c then a else b) := by
  split <;> assumption

theorem only_ite_exErr {W : Nat} {s0 : State} {α : Type} {β : Type} {a b : Except (α × State) β} {c : Prop} [Decidable c]
    (ha : OnlyErr W s0 a) (hb : OnlyErr W s0 b) : OnlyErr W s0 (if c then a else b) := by
  split <;> assumption

theorem only_fst_mk {W : Nat} {s0 a : State} {α : Type} {b : α} (h : Only W s0 a) : Only W s0 (a, b).1 := h

theorem only_snd_mk {W : Nat} {s0 b : State} {α : Type} {a : α} (h : Only W s0 b) : Only W s0 (a, b).2 := h

theorem only_mid_mk {W : Nat} {s0 : State} {α β : Type} {a : α} {p : State × β} (h : Only W s0 p.1) :
    Only W s0 (a, p).2.1 := h

theorem only_sndsnd_mk {W : Nat} {s0 : State} {α β : Type} {a : α} {p : β × State} (h : Only W s0 p.2) :
    Only W s0 (a, p).2.2 := h

theorem only_State_setR {W : Nat} {s0 : State} {g : Reg} {i : Nat} {v : Word} (qg : Sub (regBit g) W) {s : State}
    (h : Only W s0 s) : Only W s0 (State.setR s g i v) := by
  refine ⟨⟨fun c => ⟨(h.1.1 c).1, smapWf_set _ _ _ (h.1.1 c).2⟩, h.1.2⟩, fun p hp => ?_, fun g' hg j => ?_⟩
  · cases p
    case regs => exact absurd (testBit_sub qg (regBit_part g)) (by rw [show W.testBit 2 = false from hp]; decide)
    all_goals exact h.2.1 _ hp
  · rw [State.r_setR_reg _ _, h.2.2 g' hg]
    intro e
    subst e
    rw [testBit_sub qg (regBit_mark _)] at hg
    cases hg

theorem only_State_setByte {W : Nat} {s0 : State} (hW : Sub 0x4000000000000000000000000000000000000000000000000000000000000000000010 W) {a : Nat} {v : Byte} {s : State}
    (h : Only W s0 s) : Only W s0 (State.setByte s a v) := by
  refine ⟨⟨fun c => ⟨smapWf_set _ _ _ (h.1.1 c).1, (h.1.1 c).2⟩,
    fun hw => absurd (testBit_sub hW (i := storeBit) rfl) (by rw [hw]; decide)⟩, fun p hp => ?_, h.2.2⟩
  cases p
  case mem => exact absurd (testBit_sub hW (i := 4) rfl) (by rw [show W.testBit 4 = false from hp]; decide)
  all_goals exact h.2.1 _ hp

theorem only_State_setBytes {W : Nat} {s0 : State} (hW : Sub 0x4000000000000000000000000000000000000000000000000000000000000000000010 W) {a : Nat} {n v : Nat} {s : State}
    (h : Only W s0 s) : Only W s0 (State.setBytes s a n v) := by
  induction n generalizing a v s with
  | zero => exact h
  | succ n ih => exact ih (only_State_setByte hW h)

theorem only_atomBuf_l3 {W : Nat} {s0 t : State} (hW : Sub 49152 W) (h : Only W s0 t) (v_atomBuf) (v_l3) :
    Only W s0 { t with atomBuf := v_atomBuf, l3 := v_l3 } := by
  refine ⟨h.1, fun p hp => ?_, h.2.2⟩
  cases p
  case home => exact absurd (testBit_sub hW (i := 14) rfl) (by rw [show W.testBit 14 = false from hp]; decide)
  case l3 => exact absurd (testBit_sub hW (i := 15) rfl) (by rw [show W.testBit 15 = false from hp]; decide)
  all_goals exact h.2.1 _ hp

theorem only_pulses_wired {W : Nat} {s0 t : State} (hW : Sub 2097152 W) (h : Only W s0 t) (v_pulses) (v_wired) :
    Only W s0 { t with pulses := v_pulses, wired := v_wired } := by
  refine ⟨h.1, fun p hp => ?_, h.2.2⟩
  cases p
  case irq => exact absurd (testBit_sub hW (i := 21) rfl) (by rw [show W.testBit 21 = false from hp]; decide)
  all_goals exact h.2.1 _ hp

theorem only_out_peRd {W : Nat} {s0 t : State} (hW : Sub 33554440 W) (h : Only W s0 t) (v_out) (v_peRd) :
    Only W s0 { t with out := v_out, peRd := v_peRd } := by
  refine ⟨h.1, fun p hp => ?_, h.2.2⟩
  cases p
  case msgs => exact absurd (testBit_sub hW (i := 3) rfl) (by rw [show W.testBit 3 = false from hp]; decide)
  case pcie => exact absurd (testBit_sub hW (i := 25) rfl) (by rw [show W.testBit 25 = false from hp]; decide)
  all_goals exact h.2.1 _ hp

theorem only_l1d_l1i {W : Nat} {s0 t : State} (hW : Sub 65536 W) (h : Only W s0 t) (v_l1d) (v_l1i) :
    Only W s0 { t with l1d := v_l1d, l1i := v_l1i } := by
  refine ⟨h.1, fun p hp => ?_, h.2.2⟩
  cases p
  case cores => exact absurd (testBit_sub hW (i := 16) rfl) (by rw [show W.testBit 16 = false from hp]; decide)
  all_goals exact h.2.1 _ hp

theorem only_pkgOff_aonTb {W : Nat} {s0 t : State} (hW : Sub 268435456 W) (h : Only W s0 t) (v_pkgOff) (v_aonTb) :
    Only W s0 { t with pkgOff := v_pkgOff, aonTb := v_aonTb } := by
  refine ⟨h.1, fun p hp => ?_, h.2.2⟩
  cases p
  case power => exact absurd (testBit_sub hW (i := 28) rfl) (by rw [show W.testBit 28 = false from hp]; decide)
  all_goals exact h.2.1 _ hp

theorem only_mcq_mcOpen {W : Nat} {s0 t : State} (hW : Sub 8192 W) (h : Only W s0 t) (v_mcq) (v_mcOpen) :
    Only W s0 { t with mcq := v_mcq, mcOpen := v_mcOpen } := by
  refine ⟨h.1, fun p hp => ?_, h.2.2⟩
  cases p
  case mctl => exact absurd (testBit_sub hW (i := 13) rfl) (by rw [show W.testBit 13 = false from hp]; decide)
  all_goals exact h.2.1 _ hp

theorem only_batGap_batStage {W : Nat} {s0 t : State} (hW : Sub 262144 W) (h : Only W s0 t) (v_batGap) (v_batStage) :
    Only W s0 { t with batGap := v_batGap, batStage := v_batStage } := by
  refine ⟨h.1, fun p hp => ?_, h.2.2⟩
  cases p
  case bats => exact absurd (testBit_sub hW (i := 18) rfl) (by rw [show W.testBit 18 = false from hp]; decide)
  all_goals exact h.2.1 _ hp

theorem only_calm_excess_fine {W : Nat} {s0 t : State} (hW : Sub 268435456 W) (h : Only W s0 t) (v_calm) (v_excess) (v_fine) :
    Only W s0 { t with calm := v_calm, excess := v_excess, fine := v_fine } := by
  refine ⟨h.1, fun p hp => ?_, h.2.2⟩
  cases p
  case power => exact absurd (testBit_sub hW (i := 28) rfl) (by rw [show W.testBit 28 = false from hp]; decide)
  all_goals exact h.2.1 _ hp

theorem only_cancelQ_cancelRun {W : Nat} {s0 t : State} (hW : Sub 128 W) (h : Only W s0 t) (v_cancelQ) (v_cancelRun) :
    Only W s0 { t with cancelQ := v_cancelQ, cancelRun := v_cancelRun } := by
  refine ⟨h.1, fun p hp => ?_, h.2.2⟩
  cases p
  case calendar => exact absurd (testBit_sub hW (i := 7) rfl) (by rw [show W.testBit 7 = false from hp]; decide)
  all_goals exact h.2.1 _ hp

theorem only_winPend_winOff {W : Nat} {s0 t : State} (hW : Sub 131072 W) (h : Only W s0 t) (v_winPend) (v_winOff) :
    Only W s0 { t with winPend := v_winPend, winOff := v_winOff } := by
  refine ⟨h.1, fun p hp => ?_, h.2.2⟩
  cases p
  case fabric => exact absurd (testBit_sub hW (i := 17) rfl) (by rw [show W.testBit 17 = false from hp]; decide)
  all_goals exact h.2.1 _ hp

theorem only_out_tsq {W : Nat} {s0 t : State} (hW : Sub 520 W) (h : Only W s0 t) (v_out) (v_tsq) :
    Only W s0 { t with out := v_out, tsq := v_tsq } := by
  refine ⟨h.1, fun p hp => ?_, h.2.2⟩
  cases p
  case msgs => exact absurd (testBit_sub hW (i := 3) rfl) (by rw [show W.testBit 3 = false from hp]; decide)
  case timed => exact absurd (testBit_sub hW (i := 9) rfl) (by rw [show W.testBit 9 = false from hp]; decide)
  all_goals exact h.2.1 _ hp

theorem only_out_aspm_peIdle {W : Nat} {s0 t : State} (hW : Sub 33554440 W) (h : Only W s0 t) (v_out) (v_aspm) (v_peIdle) :
    Only W s0 { t with out := v_out, aspm := v_aspm, peIdle := v_peIdle } := by
  refine ⟨h.1, fun p hp => ?_, h.2.2⟩
  cases p
  case msgs => exact absurd (testBit_sub hW (i := 3) rfl) (by rw [show W.testBit 3 = false from hp]; decide)
  case pcie => exact absurd (testBit_sub hW (i := 25) rfl) (by rw [show W.testBit 25 = false from hp]; decide)
  all_goals exact h.2.1 _ hp

theorem only_haQ_haTie {W : Nat} {s0 t : State} (hW : Sub 16384 W) (h : Only W s0 t) (v_haQ) (v_haTie) :
    Only W s0 { t with haQ := v_haQ, haTie := v_haTie } := by
  refine ⟨h.1, fun p hp => ?_, h.2.2⟩
  cases p
  case home => exact absurd (testBit_sub hW (i := 14) rfl) (by rw [show W.testBit 14 = false from hp]; decide)
  all_goals exact h.2.1 _ hp

theorem only_mcq_mcWin {W : Nat} {s0 t : State} (hW : Sub 8192 W) (h : Only W s0 t) (v_mcq) (v_mcWin) :
    Only W s0 { t with mcq := v_mcq, mcWin := v_mcWin } := by
  refine ⟨h.1, fun p hp => ?_, h.2.2⟩
  cases p
  case mctl => exact absurd (testBit_sub hW (i := 13) rfl) (by rw [show W.testBit 13 = false from hp]; decide)
  all_goals exact h.2.1 _ hp

theorem only_rasAny_rasSeq {W : Nat} {s0 t : State} (hW : Sub 1073741824 W) (h : Only W s0 t) (v_rasAny) (v_rasSeq) :
    Only W s0 { t with rasAny := v_rasAny, rasSeq := v_rasSeq } := by
  refine ⟨h.1, fun p hp => ?_, h.2.2⟩
  cases p
  case ras => exact absurd (testBit_sub hW (i := 30) rfl) (by rw [show W.testBit 30 = false from hp]; decide)
  all_goals exact h.2.1 _ hp

theorem only_l2_l1d_l1i_dieTrans {W : Nat} {s0 t : State} (hW : Sub 589824 W) (h : Only W s0 t) (v_l2) (v_l1d) (v_l1i) (v_dieTrans) :
    Only W s0 { t with l2 := v_l2, l1d := v_l1d, l1i := v_l1i, dieTrans := v_dieTrans } := by
  refine ⟨h.1, fun p hp => ?_, h.2.2⟩
  cases p
  case cores => exact absurd (testBit_sub hW (i := 16) rfl) (by rw [show W.testBit 16 = false from hp]; decide)
  case bridges => exact absurd (testBit_sub hW (i := 19) rfl) (by rw [show W.testBit 19 = false from hp]; decide)
  all_goals exact h.2.1 _ hp

theorem only_coreTrace_tap_ctrBuf_ctrFifo {W : Nat} {s0 t : State} (hW : Sub 2147485696 W) (h : Only W s0 t) (v_coreTrace) (v_tap) (v_ctrBuf) (v_ctrFifo) :
    Only W s0 { t with coreTrace := v_coreTrace, tap := v_tap, ctrBuf := v_ctrBuf, ctrFifo := v_ctrFifo } := by
  refine ⟨h.1, fun p hp => ?_, h.2.2⟩
  cases p
  case coreTrace => exact absurd (testBit_sub hW (i := 11) rfl) (by rw [show W.testBit 11 = false from hp]; decide)
  case debug => exact absurd (testBit_sub hW (i := 31) rfl) (by rw [show W.testBit 31 = false from hp]; decide)
  all_goals exact h.2.1 _ hp

theorem only_l3Pend_sliceQ {W : Nat} {s0 t : State} (hW : Sub 32768 W) (h : Only W s0 t) (v_l3Pend) (v_sliceQ) :
    Only W s0 { t with l3Pend := v_l3Pend, sliceQ := v_sliceQ } := by
  refine ⟨h.1, fun p hp => ?_, h.2.2⟩
  cases p
  case l3 => exact absurd (testBit_sub hW (i := 15) rfl) (by rw [show W.testBit 15 = false from hp]; decide)
  all_goals exact h.2.1 _ hp

theorem only_mcBank_mcOpen {W : Nat} {s0 t : State} (hW : Sub 8192 W) (h : Only W s0 t) (v_mcBank) (v_mcOpen) :
    Only W s0 { t with mcBank := v_mcBank, mcOpen := v_mcOpen } := by
  refine ⟨h.1, fun p hp => ?_, h.2.2⟩
  cases p
  case mctl => exact absurd (testBit_sub hW (i := 13) rfl) (by rw [show W.testBit 13 = false from hp]; decide)
  all_goals exact h.2.1 _ hp

theorem only_out_peWr {W : Nat} {s0 t : State} (hW : Sub 33554440 W) (h : Only W s0 t) (v_out) (v_peWr) :
    Only W s0 { t with out := v_out, peWr := v_peWr } := by
  refine ⟨h.1, fun p hp => ?_, h.2.2⟩
  cases p
  case msgs => exact absurd (testBit_sub hW (i := 3) rfl) (by rw [show W.testBit 3 = false from hp]; decide)
  case pcie => exact absurd (testBit_sub hW (i := 25) rfl) (by rw [show W.testBit 25 = false from hp]; decide)
  all_goals exact h.2.1 _ hp

theorem only_replicas_txs_l3_vb_l3Pend_sliceQ_l2_l1d_l1i_l2Pend_l2Held_l2BadWay {W : Nat} {s0 t : State} (hW : Sub 102464 W) (h : Only W s0 t) (v_replicas) (v_txs) (v_l3) (v_vb) (v_l3Pend) (v_sliceQ) (v_l2) (v_l1d) (v_l1i) (v_l2Pend) (v_l2Held) (v_l2BadWay) :
    Only W s0 { t with replicas := v_replicas, txs := v_txs, l3 := v_l3, vb := v_vb, l3Pend := v_l3Pend, sliceQ := v_sliceQ, l2 := v_l2, l1d := v_l1d, l1i := v_l1i, l2Pend := v_l2Pend, l2Held := v_l2Held, l2BadWay := v_l2BadWay } := by
  refine ⟨h.1, fun p hp => ?_, h.2.2⟩
  cases p
  case phase => exact absurd (testBit_sub hW (i := 6) rfl) (by rw [show W.testBit 6 = false from hp]; decide)
  case opens => exact absurd (testBit_sub hW (i := 12) rfl) (by rw [show W.testBit 12 = false from hp]; decide)
  case l3 => exact absurd (testBit_sub hW (i := 15) rfl) (by rw [show W.testBit 15 = false from hp]; decide)
  case cores => exact absurd (testBit_sub hW (i := 16) rfl) (by rw [show W.testBit 16 = false from hp]; decide)
  all_goals exact h.2.1 _ hp

theorem only_cancelRun_cancelReopen {W : Nat} {s0 t : State} (hW : Sub 128 W) (h : Only W s0 t) (v_cancelRun) (v_cancelReopen) :
    Only W s0 { t with cancelRun := v_cancelRun, cancelReopen := v_cancelReopen } := by
  refine ⟨h.1, fun p hp => ?_, h.2.2⟩
  cases p
  case calendar => exact absurd (testBit_sub hW (i := 7) rfl) (by rw [show W.testBit 7 = false from hp]; decide)
  all_goals exact h.2.1 _ hp

theorem only_batLive_batPost_batGap_batStage_batBuf_batFifo {W : Nat} {s0 t : State} (hW : Sub 262144 W) (h : Only W s0 t) (v_batLive) (v_batPost) (v_batGap) (v_batStage) (v_batBuf) (v_batFifo) :
    Only W s0 { t with batLive := v_batLive, batPost := v_batPost, batGap := v_batGap, batStage := v_batStage, batBuf := v_batBuf, batFifo := v_batFifo } := by
  refine ⟨h.1, fun p hp => ?_, h.2.2⟩
  cases p
  case bats => exact absurd (testBit_sub hW (i := 18) rfl) (by rw [show W.testBit 18 = false from hp]; decide)
  all_goals exact h.2.1 _ hp

theorem only_boot_dieTrans {W : Nat} {s0 t : State} (hW : Sub 537395200 W) (h : Only W s0 t) (v_boot) (v_dieTrans) :
    Only W s0 { t with boot := v_boot, dieTrans := v_dieTrans } := by
  refine ⟨h.1, fun p hp => ?_, h.2.2⟩
  cases p
  case bridges => exact absurd (testBit_sub hW (i := 19) rfl) (by rw [show W.testBit 19 = false from hp]; decide)
  case start => exact absurd (testBit_sub hW (i := 29) rfl) (by rw [show W.testBit 29 = false from hp]; decide)
  all_goals exact h.2.1 _ hp

end Sys2Proof.Machine
end

