-- ==== Sys2Proof/Laws/KeepOps.lean ====
section
/-! SUPPORT. What the definitions of Machine/Ops.lean leave alone: one lemma for each that answers a state. -/
namespace Sys2Proof.Machine

theorem only_State_setF {W : Nat} {s0 : State} {f : Fld} {i : Nat} {x : Nat} (qf : Sub (regBit f.reg) W) {s : State} (hs : Only W s0 s) :
    Only W s0 (State.setF s f i x) := by
  unfold State.setF
  exact only_State_setR qf hs

theorem only_State_setB {W : Nat} {s0 : State} {f : Fld} {i : Nat} {x : Bool} (qf : Sub (regBit f.reg) W) {s : State} (hs : Only W s0 s) :
    Only W s0 (State.setB s f i x) := by
  unfold State.setB
  exact only_State_setF qf hs

theorem only_State_satAdd {W : Nat} {s0 : State} {f : Fld} {i : Nat} {n : Nat} (qf : Sub (regBit f.reg) W) {s : State} (hs : Only W s0 s) :
    Only W s0 (State.satAdd s f i n) := by
  unfold State.satAdd
  exact only_State_setF qf hs

theorem only_State_satInc {W : Nat} {s0 : State} {f : Fld} {i : Nat} (qf : Sub (regBit f.reg) W) {s : State} (hs : Only W s0 s) :
    Only W s0 (State.satInc s f i) := by
  unfold State.satInc
  exact only_State_satAdd qf hs

theorem only_State_wrapInc {W : Nat} {s0 : State} {f : Fld} {i : Nat} (qf : Sub (regBit f.reg) W) {s : State} (hs : Only W s0 s) :
    Only W s0 (State.wrapInc s f i) := by
  unfold State.wrapInc
  exact only_State_setF qf hs

theorem only_State_setFbit {W : Nat} {s0 : State} {f : Fld} {i : Nat} {n : Nat} {x : Bool} (qf : Sub (regBit f.reg) W) {s : State} (hs : Only W s0 s) :
    Only W s0 (State.setFbit s f i n x) := by
  unfold State.setFbit
  extract_lets +onlyGivenNames -merge -useContext -underBinder x1
  exact only_State_setF qf hs

theorem only_State_answer {W : Nat} {s0 : State} (hW : Sub 0x20 W)  {v : Word} {s : State} (hs : Only W s0 s) :
    Only W s0 (State.answer s v) := by
  unfold State.answer
  refine only_resp (sub_trans rfl hW) ?_ _
  exact hs

theorem only_State_answerErr {W : Nat} {s0 : State} (hW : Sub 0x20 W)  {c : BitVec 2} {s : State} (hs : Only W s0 s) :
    Only W s0 (State.answerErr s c) := by
  unfold State.answerErr
  refine only_resp (sub_trans rfl hW) ?_ _
  exact hs

theorem only_State_bump {W : Nat} {s0 : State} (hW : Sub 0x2 W)   {s : State} (hs : Only W s0 s) :
    Only W s0 (State.bump s) := by
  unfold State.bump
  refine only_fresh (sub_trans rfl hW) ?_ _
  exact hs

theorem only_State_send {W : Nat} {s0 : State} (hW : Sub 0x8 W)  {m : Msg} {s : State} (hs : Only W s0 s) :
    Only W s0 (State.send s m) := by
  unfold State.send
  refine only_out (sub_trans rfl hW) ?_ _
  exact hs

theorem only_State_take {W : Nat} {s0 : State} (hW : Sub 0x8000000000000000000000000000c W)  {m : Msg} {s : State} (hs : Only W s0 s) :
    Only W s0 (State.take s m) := by
  unfold State.take
  refine only_ite ?_ ?_
  · extract_lets +onlyGivenNames -merge -useContext -underBinder x1
    have hx1 : Only W s0 (x1) := by
      unfold x1
      refine only_out (sub_trans rfl hW) ?_ _
      exact hs
    try clear_value x1
    split
    · exact only_State_setF (sub_drain rfl hW) hx1
    · exact hx1
  · exact hs

theorem only_State_dropOut {W : Nat} {s0 : State} (hW : Sub 0x8000000000000000000000000000c W)  {gone : Msg → Bool} {s : State} (hs : Only W s0 s) :
    Only W s0 (State.dropOut s gone) := by
  unfold State.dropOut
  extract_lets +onlyGivenNames -merge -useContext -underBinder x1
  extract_lets +onlyGivenNames -merge -useContext -underBinder x2
  have hx2 : ∀ y0 y1, Only W s0 (y1) → Only W s0 (x2 y0 y1) := by
    unfold x2
    intro y3 y4 hy4
    exact only_State_setF (sub_drain rfl hW) hy4
  try clear_value x2
  refine hx2 _ _ ?_
  refine hx2 _ _ ?_
  refine only_out (sub_trans rfl hW) ?_ _
  exact hs

theorem only_State_sendP {W : Nat} {s0 : State} (hW : Sub 0x8000000000000000000000000000c W)  {p : Packet} {s : State} (hs : Only W s0 s) :
    Only W s0 (State.sendP s p) := by
  unfold State.sendP
  extract_lets +onlyGivenNames -merge -useContext -underBinder x1
  exact only_State_send (sub_trans rfl hW) (only_State_satAdd (sub_drain rfl hW) hs)

theorem only_denyWorld {W : Nat} {s0 : State} (hW : Sub 0x7000000000000000000000000000000000000000004 W)  {w : DenyWhere} {k : DenyKind} {a : Access} {addr : Nat} {s : State} (hs : Only W s0 s) :
    Only W s0 (denyWorld w k a addr s) := by
  unfold denyWorld
  extract_lets +onlyGivenNames -merge -useContext -underBinder x1
  have hx1 : Only W s0 (x1) := only_State_satInc (sub_trans rfl hW) hs
  try clear_value x1
  refine only_ite ?_ ?_
  · exact hx1
  · refine only_State_setB (sub_trans rfl hW) ?_
    exact only_State_setR (sub_trans rfl hW) (only_State_setF (sub_trans rfl hW) hx1)

theorem only_denyPart {W : Nat} {s0 : State} (hW : Sub 0xe0000000000000000000000000000000000000000000000004 W)  {w : DenyWhere} {k : DenyKind} {a : Access} {addr : Nat} {s : State} (hs : Only W s0 s) :
    Only W s0 (denyPart w k a addr s) := by
  unfold denyPart
  extract_lets +onlyGivenNames -merge -useContext -underBinder x1
  have hx1 : Only W s0 (x1) := only_State_satInc (sub_trans rfl hW) hs
  try clear_value x1
  refine only_ite ?_ ?_
  · exact hx1
  · refine only_State_setB (sub_trans rfl hW) ?_
    exact only_State_setR (sub_trans rfl hW) (only_State_setF (sub_trans rfl hW) hx1)

theorem only_halfConflict {W : Nat} {s0 : State} (hW : Sub 0x800000000000000000000000000000000004 W)  {n : Nat} {s : State} (hs : Only W s0 s) :
    Only W s0 (halfConflict n s) := by
  unfold halfConflict
  exact only_State_setB (sub_trans rfl hW) hs

end Sys2Proof.Machine
end

