-- ==== Sys2Proof/Laws/KeepAccess.lean ====
section
/-! SUPPORT. What the definitions of Machine/Access.lean leave alone: one lemma for each that answers a state. -/
namespace Sys2Proof.Machine

theorem only_pqErr {W : Nat} {s0 : State} (hW : Sub 0x20000000000000000000000000000000000000000000000004 W)   {s : State} (hs : Only W s0 s) :
    Only W s0 (pqErr s) := by
  unfold pqErr
  exact only_State_setB (sub_trans rfl hW) hs

theorem only_guarded {W : Nat} {s0 : State} (hW : Sub 0xe0000007000000000000000000000000000000000000000024 W)  {a : Access} {write : Bool} {g : Reg} {i : Nat} {act : State → State} (hact : ∀ y0, Only W s0 (y0) → Only W s0 (act y0)) {s : State} (hs : Only W s0 s) :
    Only W s0 (guarded a write g i act s) := by
  unfold guarded
  extract_lets +onlyGivenNames -merge -useContext -underBinder x1
  refine only_ite ?_ ?_
  · exact only_State_answerErr (sub_trans rfl hW) hs
  · split
    · refine hact _ ?_
      exact only_State_answer (sub_trans rfl hW) hs
    · exact only_State_answerErr (sub_trans rfl hW) (only_denyWorld (sub_trans rfl hW) hs)
    · exact only_State_answerErr (sub_trans rfl hW) (only_denyPart (sub_trans rfl hW) hs)
    · exact only_State_answerErr (sub_trans rfl hW) hs

end Sys2Proof.Machine
end

