-- ==== Sys2Proof/Laws/KeepCalendar.lean ====
section
/-! SUPPORT. What the definitions of Machine/Calendar.lean leave alone: one lemma for each that answers a state. -/
namespace Sys2Proof.Machine

theorem only_State_setPort {W : Nat} {s0 : State} (hW : Sub 0x40 W)  {n : Nat} {p : PortAux} {s : State} (hs : Only W s0 s) :
    Only W s0 (State.setPort s n p) := by
  unfold State.setPort
  refine only_ports (sub_trans rfl hW) ?_ _
  exact hs

theorem only_State_setCalE {W : Nat} {s0 : State} (hW : Sub 0x80 W)  {e : Nat} {c : CalEntry} {s : State} (hs : Only W s0 s) :
    Only W s0 (State.setCalE s e c) := by
  unfold State.setCalE
  refine only_cal (sub_trans rfl hW) ?_ _
  exact hs

theorem only_State_setPin {W : Nat} {s0 : State} (hW : Sub 0x100 W)  {i : Nat} {p : Pin} {s : State} (hs : Only W s0 s) :
    Only W s0 (State.setPin s i p) := by
  unfold State.setPin
  refine only_pins (sub_trans rfl hW) ?_ _
  exact hs

theorem only_calErr {W : Nat} {s0 : State} (hW : Sub 0x38000000000004 W)  {e : Nat} {code : Nat} {s : State} (hs : Only W s0 s) :
    Only W s0 (calErr e code s) := by
  unfold calErr
  extract_lets +onlyGivenNames -merge -useContext -underBinder x1
  have hx1 : Only W s0 (x1) := only_State_satInc (sub_trans rfl hW) hs
  try clear_value x1
  extract_lets +onlyGivenNames -merge -useContext -underBinder x2
  have hx2 : Only W s0 (x2) := only_State_setF (sub_trans rfl hW) hx1
  try clear_value x2
  extract_lets +onlyGivenNames -merge -useContext -underBinder x3
  have hx3 : Only W s0 (x3) := only_State_setF (sub_trans rfl hW) hx2
  try clear_value x3
  extract_lets +onlyGivenNames -merge -useContext -underBinder x4
  have hx4 : Only W s0 (x4) := only_State_setR (sub_trans rfl hW) hx3
  try clear_value x4
  exact only_State_setB (sub_trans rfl hW) hx4

theorem only_setDue {W : Nat} {s0 : State} (hW : Sub 0x8000000000084 W)  {q : List Firing} {s : State} (hs : Only W s0 s) :
    Only W s0 (setDue q s) := by
  unfold setDue
  extract_lets +onlyGivenNames -merge -useContext -underBinder x1
  have hx1 : Only W s0 (x1) := by
    unfold x1
    refine only_due (sub_trans rfl hW) ?_ _
    exact hs
  try clear_value x1
  extract_lets +onlyGivenNames -merge -useContext -underBinder x2
  have hx2 : Only W s0 (x2) := only_State_setF (sub_trans rfl hW) hx1
  try clear_value x2
  refine only_ite ?_ ?_
  · exact only_State_setF (sub_trans rfl hW) hx2
  · exact hx2

theorem only_discardLate {W : Nat} {s0 : State} (hW : Sub 0x38000000000084 W)  {e : Nat} {s : State} (hs : Only W s0 s) :
    Only W s0 (discardLate e s) := by
  unfold discardLate
  extract_lets +onlyGivenNames -merge -useContext -underBinder x1
  extract_lets +onlyGivenNames -merge -useContext -underBinder x2
  exact only_calErr (sub_trans rfl hW) (only_State_setCalE (sub_trans rfl hW) hs)

theorem only_markLate {W : Nat} {s0 : State} (hW : Sub 0x80 W)  {e : Nat} {s : State} (hs : Only W s0 s) :
    Only W s0 (markLate e s) := by
  unfold markLate
  extract_lets +onlyGivenNames -merge -useContext -underBinder x1
  exact only_State_setCalE (sub_trans rfl hW) hs

theorem only_heldMove {W : Nat} {s0 : State} (hW : Sub 0x8000000000084 W)  {n : Nat} {s : State} (hs : Only W s0 s) :
    Only W s0 (heldMove n s) := by
  unfold heldMove
  refine only_ite ?_ ?_
  · exact hs
  · refine only_setDue (sub_trans rfl hW) ?_
    refine only_calHeld (sub_trans rfl hW) ?_ _
    exact hs

theorem only_dueFill {W : Nat} {s0 : State} (hW : Sub 0x8000000000084 W)   {s : State} (hs : Only W s0 s) :
    Only W s0 (dueFill s) := by
  unfold dueFill
  exact only_heldMove (sub_trans rfl hW) hs

theorem only_dueEnqueue {W : Nat} {s0 : State} (hW : Sub 0x38000000000084 W)  {f : Firing} {s : State} (hs : Only W s0 s) :
    Only W s0 (dueEnqueue f s) := by
  unfold dueEnqueue
  extract_lets +onlyGivenNames -merge -useContext -underBinder x1
  have hx1 : Only W s0 (x1) := only_dueFill (sub_trans rfl hW) hs
  try clear_value x1
  refine only_ite ?_ ?_
  · exact only_setDue (sub_trans rfl hW) hx1
  · extract_lets +onlyGivenNames -merge -useContext -underBinder x2
    have hx2 : Only W s0 (x2) := by
      unfold x2
      exact only_markLate (sub_trans rfl hW) (only_calErr (sub_trans rfl hW) (only_State_setB (sub_trans rfl hW) hx1))
    try clear_value x2
    refine only_ite ?_ ?_
    · exact only_discardLate (sub_trans rfl hW) hx2
    · refine only_calHeld (sub_trans rfl hW) ?_ _
      exact hx2

theorem only_plSend {W : Nat} {s0 : State} (hW : Sub 0x44000000000000000000000000000000000000000000000000800000c W)  {n : Nat} {c : PlCell} {s : State} (hs : Only W s0 s) :
    Only W s0 (plSend n c s) := by
  unfold plSend
  extract_lets +onlyGivenNames -merge -useContext -underBinder x1
  extract_lets +onlyGivenNames -merge -useContext -underBinder x2
  refine only_ite ?_ ?_
  · exact only_State_satInc (sub_trans rfl hW) hs
  · refine only_ite ?_ ?_
    · exact only_State_satInc (sub_trans rfl hW) hs
    · refine only_ite ?_ ?_
      · exact only_State_send (sub_trans rfl hW) hs
      · extract_lets +onlyGivenNames -merge -useContext -underBinder x3
        refine only_ite ?_ ?_
        · refine only_plQ (sub_trans rfl hW) ?_ _
          exact hs
        · exact only_State_satInc (sub_trans rfl hW) hs

theorem only_calDeliver {W : Nat} {s0 : State} (hW : Sub 0x44000000000000000000000000000000000000000003800000802000c W)  {f : Firing} {s : State} (hs : Only W s0 s) :
    Only W s0 (calDeliver f s) := by
  unfold calDeliver
  extract_lets +onlyGivenNames -merge -useContext -underBinder x1
  extract_lets +onlyGivenNames -merge -useContext -underBinder x2
  extract_lets +onlyGivenNames -merge -useContext -underBinder x3
  split
  · extract_lets +onlyGivenNames -merge -useContext -underBinder x4
    extract_lets +onlyGivenNames -merge -useContext -underBinder x5
    refine only_ite ?_ ?_
    · exact only_State_send (sub_trans rfl hW) hs
    · exact only_calErr (sub_trans rfl hW) hs
  · refine only_ite ?_ ?_
    · exact only_calErr (sub_trans rfl hW) hs
    · refine only_ite ?_ ?_
      · exact only_State_send (sub_trans rfl hW) hs
      · exact only_State_send (sub_trans rfl hW) hs
  · refine only_winPend (sub_trans rfl hW) ?_ _
    exact hs
  · refine only_ite ?_ ?_
    · exact only_calErr (sub_trans rfl hW) hs
    · exact only_plSend (sub_trans rfl hW) hs
  · refine only_ite ?_ ?_
    · exact only_State_send (sub_trans rfl hW) hs
    · exact only_calErr (sub_trans rfl hW) hs
  · exact hs

theorem only_dueServiceWhere {W : Nat} {s0 : State} (hW : Sub 0x44000000000000000000000000000000000000000003800000802008c W)  {elig : Firing → Bool} {s : State} (hs : Only W s0 s) :
    Only W s0 (dueServiceWhere elig s) := by
  unfold dueServiceWhere
  split
  · exact hs
  · extract_lets +onlyGivenNames -merge -useContext -underBinder x1
    have hx1 : Only W s0 (x1) := only_setDue (sub_trans rfl hW) hs
    try clear_value x1
    extract_lets +onlyGivenNames -merge -useContext -underBinder x2
    extract_lets +onlyGivenNames -merge -useContext -underBinder x3
    refine only_ite ?_ ?_
    · exact hx1
    · extract_lets +onlyGivenNames -merge -useContext -underBinder x4
      have hx4 : Only W s0 (x4) := by
        unfold x4
        refine only_ite ?_ ?_
        · exact only_markLate (sub_trans rfl hW) hx1
        · exact hx1
      try clear_value x4
      refine only_ite ?_ ?_
      · exact only_discardLate (sub_trans rfl hW) hx4
      · refine only_ite ?_ ?_
        · exact only_calDeliver (sub_trans rfl hW) hx4
        · exact only_calErr (sub_trans rfl hW) hx4

theorem only_dueServiceOne {W : Nat} {s0 : State} (hW : Sub 0x44000000000000000000000000000000000000000003800000802008c W)   {s : State} (hs : Only W s0 s) :
    Only W s0 (dueServiceOne s) := by
  unfold dueServiceOne
  exact only_dueServiceWhere (sub_trans rfl hW) hs

theorem only_pinAccept {W : Nat} {s0 : State} (hW : Sub 0x8038000000000104 W)  {i : Nat} {ed : PinEdge} {s : State} (hs : Only W s0 s) :
    Only W s0 (pinAccept i ed s) := by
  unfold pinAccept
  extract_lets +onlyGivenNames -merge -useContext -underBinder x1
  extract_lets +onlyGivenNames -merge -useContext -underBinder x2
  refine only_ite ?_ ?_
  · exact only_calErr (sub_trans rfl hW) (only_State_setB (sub_trans rfl hW) hs)
  · extract_lets +onlyGivenNames -merge -useContext -underBinder x3
    exact only_State_setPin (sub_trans rfl hW) hs

theorem only_batTriggers {W : Nat} {s0 : State} (hW : Sub 0x8 W)  {e : Nat} {s : State} (hs : Only W s0 s) :
    Only W s0 (batTriggers e s) := by
  unfold batTriggers
  refine only_ite ?_ ?_
  · exact hs
  · refine only_iter (fun x t ht => ?_) ?_
    · refine only_ite ?_ ?_
      · refine only_State_send (sub_trans rfl hW) ?_
        assumption
      · assumption
    · exact hs

theorem only_calUpdate {W : Nat} {s0 : State} (hW : Sub 0x80 W)  {t0 : Word} {e : Nat} {late : Bool} {c1 : Word} {s : State} (hs : Only W s0 s) :
    Only W s0 (calUpdate t0 e late c1 s) := by
  unfold calUpdate
  extract_lets +onlyGivenNames -merge -useContext -underBinder x1
  extract_lets +onlyGivenNames -merge -useContext -underBinder x2
  extract_lets +onlyGivenNames -merge -useContext -underBinder x3
  extract_lets +onlyGivenNames -merge -useContext -underBinder x4
  extract_lets +onlyGivenNames -merge -useContext -underBinder x5
  extract_lets +onlyGivenNames -merge -useContext -underBinder x6
  extract_lets +onlyGivenNames -merge -useContext -underBinder x7
  extract_lets +onlyGivenNames -merge -useContext -underBinder x8
  extract_lets +onlyGivenNames -merge -useContext -underBinder x9
  extract_lets +onlyGivenNames -merge -useContext -underBinder x10
  exact only_State_setCalE (sub_trans rfl hW) hs

theorem only_calPerform {W : Nat} {s0 : State} (hW : Sub 0x8038000000000184 W)  {f : Firing} {s : State} (hs : Only W s0 s) :
    Only W s0 (calPerform f s) := by
  unfold calPerform
  refine only_ite ?_ ?_
  · exact hs
  · refine only_ite ?_ ?_
    · exact only_discardLate (sub_trans rfl hW) hs
    · split
      · exact hs
      · refine only_ite ?_ ?_
        · exact only_pinAccept (sub_trans rfl hW) hs
        · exact only_calErr (sub_trans rfl hW) hs
      · exact only_dueEnqueue (sub_trans rfl hW) hs

theorem only_calFire {W : Nat} {s0 : State} (hW : Sub 0x803800000000018c W)  {t0 : Word} {e : Nat} {late : Bool} {inst : Word} {c1 : Word} {s : State} (hs : Only W s0 s) :
    Only W s0 (calFire t0 e late inst c1 s) := by
  unfold calFire
  extract_lets +onlyGivenNames -merge -useContext -underBinder x1
  refine only_ite ?_ ?_
  · exact only_State_setCalE (sub_trans rfl hW) hs
  · extract_lets +onlyGivenNames -merge -useContext -underBinder x2
    refine only_calPerform (sub_trans rfl hW) ?_
    exact only_batTriggers (sub_trans rfl hW) (only_calUpdate (sub_trans rfl hW) hs)

theorem only_calMatchOne {W : Nat} {s0 : State} (hW : Sub 0x803800000000018c W)  {t0 : Word} {e : Nat} {s : State} (hs : Only W s0 s) :
    Only W s0 (calMatchOne t0 e s) := by
  unfold calMatchOne
  split
  · exact hs
  · exact only_calFire (sub_trans rfl hW) hs

theorem only_fireWhere {W : Nat} {s0 : State} (hW : Sub 0x803800000000018c W)  {t0 : Word} {src : Nat} {late : Bool} {inst : Word} {c1 : Word} {sel : CalEntry → Bool} {s : State} (hs : Only W s0 s) :
    Only W s0 (fireWhere t0 src late inst c1 sel s) := by
  unfold fireWhere
  refine only_foldl (fun t x ht => ?_) ?_
  · refine only_calFire (sub_trans rfl hW) ?_
    assumption
  · exact hs

theorem only_State_setTsQ {W : Nat} {s0 : State} (hW : Sub 0x80000000000000204 W)  {ha : Nat} {q : List TsEntry} {s : State} (hs : Only W s0 s) :
    Only W s0 (State.setTsQ s ha q) := by
  unfold State.setTsQ
  extract_lets +onlyGivenNames -merge -useContext -underBinder x1
  have hx1 : Only W s0 (x1) := by
    unfold x1
    refine only_tsq (sub_trans rfl hW) ?_ _
    exact hs
  try clear_value x1
  extract_lets +onlyGivenNames -merge -useContext -underBinder x2
  exact only_State_setF (sub_trans rfl hW) (only_State_setF (sub_trans rfl hW) hx1)

theorem only_tsMatch {W : Nat} {s0 : State} (hW : Sub 0x80000000000000204 W)  {ha : Nat} {e : TsEntry} {late : Bool} {inst : Word} {s : State} (hs : Only W s0 s) :
    Only W s0 (tsMatch ha e late inst s) := by
  unfold tsMatch
  extract_lets +onlyGivenNames -merge -useContext -underBinder x1
  extract_lets +onlyGivenNames -merge -useContext -underBinder x2
  have hx2 : Only W s0 (x2) := by
    unfold x2
    refine only_ite ?_ ?_
    · exact only_State_satInc (sub_trans rfl hW) (only_State_setB (sub_trans rfl hW) hs)
    · exact hs
  try clear_value x2
  refine only_ite ?_ ?_
  · exact only_State_setTsQ (sub_trans rfl hW) (only_State_satInc (sub_trans rfl hW) hx2)
  · exact only_State_setTsQ (sub_trans rfl hW) hx2

theorem only_tsSweep {W : Nat} {s0 : State} (hW : Sub 0x80000000000000204 W)  {n : Nat} {late : Bool} {inst : TsEntry → Word} {sel : TsEntry → Bool} {s : State} (hs : Only W s0 s) :
    Only W s0 (tsSweep n late inst sel s) := by
  unfold tsSweep
  refine only_foldl (fun t x ht => ?_) ?_
  · refine only_tsMatch (sub_trans rfl hW) ?_
    assumption
  · exact hs

theorem only_closeMove {W : Nat} {s0 : State} (hW : Sub 0x80000000000000244 W)  {t0 : Word} {src : Nat} {s : State} (hs : Only W s0 s) :
    Only W s0 (closeMove t0 src s) := by
  unfold closeMove
  extract_lets +onlyGivenNames -merge -useContext -underBinder x1
  extract_lets +onlyGivenNames -merge -useContext -underBinder x2
  extract_lets +onlyGivenNames -merge -useContext -underBinder x3
  have hx3 : Only W s0 (x3) := by
    unfold x3
    refine only_ite ?_ ?_
    · exact only_tsSweep (sub_trans rfl hW) hs
    · exact hs
  try clear_value x3
  exact only_State_setPort (sub_trans rfl hW) hx3

theorem only_settleAll {W : Nat} {s0 : State} (hW : Sub 0x880380000000003cc W)  {t0 : Word} {srcs : List Nat} {s : State} (hs : Only W s0 s) :
    Only W s0 (settleAll t0 srcs s) := by
  unfold settleAll
  refine only_foldl (fun t x ht => ?_) ?_
  · refine only_closeMove (sub_trans rfl hW) ?_
    assumption
  · refine only_foldl (fun t x ht => ?_) ?_
    · refine only_calMatchOne (sub_trans rfl hW) ?_
      assumption
    · exact hs

theorem only_settle {W : Nat} {s0 : State} (hW : Sub 0x880380000000003cc W)  {src : Nat} {s : State} (hs : Only W s0 s) :
    Only W s0 (settle src s) := by
  unfold settle
  exact only_settleAll (sub_trans rfl hW) hs

theorem only_moveCount {W : Nat} {s0 : State} (hW : Sub 0x20000000044 W)  {src : Nat} {c1 : Word} {s : State} (hs : Only W s0 s) :
    Only W s0 (moveCount src c1 s) := by
  unfold moveCount
  extract_lets +onlyGivenNames -merge -useContext -underBinder x1
  extract_lets +onlyGivenNames -merge -useContext -underBinder x2
  exact only_State_setPort (sub_trans rfl hW) (only_State_setR (sub_trans rfl hW) hs)

theorem only_jumpFire {W : Nat} {s0 : State} (hW : Sub 0x8803800000000038c W)  {src : Nat} {c0 : Word} {c1 : Word} {s : State} (hs : Only W s0 s) :
    Only W s0 (jumpFire src c0 c1 s) := by
  unfold jumpFire
  extract_lets +onlyGivenNames -merge -useContext -underBinder x1
  have hx1 : Only W s0 (x1) := by
    unfold x1
    refine only_ite ?_ ?_
    · exact only_tsSweep (sub_trans rfl hW) hs
    · exact hs
  try clear_value x1
  refine only_ite ?_ ?_
  · exact hx1
  · exact only_fireWhere (sub_trans rfl hW) hx1

theorem only_edgeFire {W : Nat} {s0 : State} (hW : Sub 0x8803800000000038c W)  {src : Nat} {c0 : Word} {c1 : Word} {ts : Word} {s : State} (hs : Only W s0 s) :
    Only W s0 (edgeFire src c0 c1 ts s) := by
  unfold edgeFire
  extract_lets +onlyGivenNames -merge -useContext -underBinder x1
  have hx1 : Only W s0 (x1) := by
    unfold x1
    refine only_ite ?_ ?_
    · exact only_tsSweep (sub_trans rfl hW) hs
    · exact hs
  try clear_value x1
  refine only_ite ?_ ?_
  · exact hx1
  · exact only_fireWhere (sub_trans rfl hW) hx1

theorem only_examine {W : Nat} {s0 : State} (hW : Sub 0x803800000000018c W)  {srcs : List Nat} {s : State} (hs : Only W s0 s) :
    Only W s0 (examine srcs s) := by
  unfold examine
  refine only_ite ?_ ?_
  · exact hs
  · extract_lets +onlyGivenNames -merge -useContext -underBinder x1
    refine only_foldl (fun t x ht => ?_) ?_
    · extract_lets +onlyGivenNames -merge -useContext -underBinder x2 x3
      try clear_value x2
      extract_lets +onlyGivenNames -merge -useContext -underBinder x4
      extract_lets +onlyGivenNames -merge -useContext -underBinder x5
      refine only_ite ?_ ?_
      · refine only_calFire (sub_trans rfl hW) ?_
        refine only_State_setCalE (sub_trans rfl hW) ?_
        assumption
      · refine only_State_setCalE (sub_trans rfl hW) ?_
        assumption
    · exact hs

theorem only_countLoad {W : Nat} {s0 : State} (hW : Sub 0x880380200000003cc W)  {n : Nat} {c : Word} {s : State} (hs : Only W s0 s) :
    Only W s0 (countLoad n c s) := by
  unfold countLoad
  extract_lets +onlyGivenNames -merge -useContext -underBinder x1
  have hx1 : Only W s0 (x1) := only_settle (sub_trans rfl hW) hs
  try clear_value x1
  extract_lets +onlyGivenNames -merge -useContext -underBinder x2
  have hx2 : Only W s0 (x2) := only_State_setR (sub_trans rfl hW) hx1
  try clear_value x2
  extract_lets +onlyGivenNames -merge -useContext -underBinder x3 x4
  try clear_value x3
  have hx4 : Only W s0 (x4) := only_State_setPort (sub_trans rfl hW) hx2
  try clear_value x4
  extract_lets +onlyGivenNames -merge -useContext -underBinder x5
  have hx5 : Only W s0 (x5) := only_tsSweep (sub_trans rfl hW) hx4
  try clear_value x5
  exact only_examine (sub_trans rfl hW) hx5

theorem only_calCtrlWrite {W : Nat} {s0 : State} (hW : Sub 0x8803c0000000003cc W)  {v : Word} {s : State} (hs : Only W s0 s) :
    Only W s0 (calCtrlWrite v s) := by
  unfold calCtrlWrite
  extract_lets +onlyGivenNames -merge -useContext -underBinder x1
  extract_lets +onlyGivenNames -merge -useContext -underBinder x2
  have hx2 : Only W s0 (x2) := only_State_setF (sub_trans rfl hW) (only_State_setF (sub_trans rfl hW) hs)
  try clear_value x2
  refine only_ite ?_ ?_
  · refine only_ite ?_ ?_
    · exact hx2
    · refine only_examine (sub_trans rfl hW) ?_
      exact only_State_setB (sub_trans rfl hW) (only_settleAll (sub_trans rfl hW) hx2)
  · extract_lets +onlyGivenNames -merge -useContext -underBinder x3
    have hx3 : Only W s0 (x3) := by
      unfold x3
      refine only_ite ?_ ?_
      · exact only_settleAll (sub_trans rfl hW) hx2
      · exact hx2
    try clear_value x3
    exact only_State_setB (sub_trans rfl hW) hx3

theorem only_setCancelBusy {W : Nat} {s0 : State} (hW : Sub 0x8000000000004 W)   {s : State} (hs : Only W s0 s) :
    Only W s0 (setCancelBusy s) := by
  unfold setCancelBusy
  exact only_State_setB (sub_trans rfl hW) hs

theorem only_requestCancel {W : Nat} {s0 : State} (hW : Sub 0x48000000000084 W)  {b : Nat} {s : State} (hs : Only W s0 s) :
    Only W s0 (requestCancel b s) := by
  unfold requestCancel
  refine only_ite ?_ ?_
  · refine only_setCancelBusy (sub_trans rfl hW) ?_
    refine only_State_setB (sub_trans rfl hW) ?_
    refine only_cancelQ (sub_trans rfl hW) ?_ _
    exact hs
  · exact hs

theorem only_calBlockWrite {W : Nat} {s0 : State} (hW : Sub 0x20000000000000000000000000000000000048000000000084 W)  {a : Access} {b : Nat} {v : Word} {s : State} (hs : Only W s0 s) :
    Only W s0 (calBlockWrite a b v s) := by
  unfold calBlockWrite
  extract_lets +onlyGivenNames -merge -useContext -underBinder x1
  extract_lets +onlyGivenNames -merge -useContext -underBinder x2
  extract_lets +onlyGivenNames -merge -useContext -underBinder x3
  extract_lets +onlyGivenNames -merge -useContext -underBinder x4
  extract_lets +onlyGivenNames -merge -useContext -underBinder x5
  extract_lets +onlyGivenNames -merge -useContext -underBinder x6
  refine only_ite ?_ ?_
  · exact only_pqErr (sub_trans rfl hW) hs
  · refine only_ite ?_ ?_
    · exact only_State_setB (sub_trans rfl hW) hs
    · refine only_ite ?_ ?_
      · exact only_State_setB (sub_trans rfl hW) hs
      · extract_lets +onlyGivenNames -merge -useContext -underBinder x7
        have hx7 : Only W s0 (x7) := only_State_setF (sub_trans rfl hW) (only_State_setB (sub_trans rfl hW) hs)
        try clear_value x7
        refine only_ite ?_ ?_
        · exact hx7
        · refine only_ite ?_ ?_
          · exact only_State_setB (sub_trans rfl hW) hx7
          · exact only_requestCancel (sub_trans rfl hW) hx7

theorem only_cancelStart {W : Nat} {s0 : State} (hW : Sub 0x8000000000084 W)   {s : State} (hs : Only W s0 s) :
    Only W s0 (cancelStart s) := by
  unfold cancelStart
  split
  · refine only_setCancelBusy (sub_trans rfl hW) ?_
    refine only_cancelQ_cancelRun (sub_trans rfl hW) ?_ _ _
    exact hs
  · exact hs

theorem only_cancelDone {W : Nat} {s0 : State} (hW : Sub 0x48000000000184 W)   {s : State} (hs : Only W s0 s) :
    Only W s0 (cancelDone s) := by
  unfold cancelDone
  split
  · exact hs
  · extract_lets +onlyGivenNames -merge -useContext -underBinder x1
    extract_lets +onlyGivenNames -merge -useContext -underBinder x2
    have hx2 : Only W s0 (x2) := by
      unfold x2
      refine only_foldl (fun t x ht => ?_) ?_
      · extract_lets +onlyGivenNames -merge -useContext -underBinder x3
        refine only_State_setCalE (sub_trans rfl hW) ?_
        assumption
      · exact hs
    try clear_value x2
    extract_lets +onlyGivenNames -merge -useContext -underBinder x4
    have hx4 : Only W s0 (x4) := only_setDue (sub_trans rfl hW) hx2
    try clear_value x4
    extract_lets +onlyGivenNames -merge -useContext -underBinder x5
    have hx5 : Only W s0 (x5) := by
      unfold x5
      refine only_calHeld (sub_trans rfl hW) ?_ _
      exact hx4
    try clear_value x5
    extract_lets +onlyGivenNames -merge -useContext -underBinder x6
    have hx6 : Only W s0 (x6) := by
      unfold x6
      refine only_iter (fun x t ht => ?_) ?_
      · extract_lets +onlyGivenNames -merge -useContext -underBinder x7
        refine only_State_setPin (sub_trans rfl hW) ?_
        assumption
      · exact hx5
    try clear_value x6
    extract_lets +onlyGivenNames -merge -useContext -underBinder x8
    have hx8 : Only W s0 (x8) := by
      unfold x8
      refine only_ite ?_ ?_
      · exact only_State_setB (sub_trans rfl hW) hx6
      · exact hx6
    try clear_value x8
    refine only_setCancelBusy (sub_trans rfl hW) ?_
    refine only_cancelRun_cancelReopen (sub_trans rfl hW) ?_ _ _
    exact hx8

theorem only_editStatus {W : Nat} {s0 : State} (hW : Sub 0x2000000000000004 W)  {k : Nat} {st : Nat} {s : State} (hs : Only W s0 s) :
    Only W s0 (editStatus k st s) := by
  unfold editStatus
  exact only_State_setF (sub_trans rfl hW) hs

theorem only_editGuard {W : Nat} {s0 : State} (hW : Sub 0x2000000000000004 W)  {k : Nat} {act : Nat → State → State} (hact : ∀ y0 y1, Only W s0 (y1) → Only W s0 (act y0 y1)) {s : State} (hs : Only W s0 s) :
    Only W s0 (editGuard k act s) := by
  unfold editGuard
  extract_lets +onlyGivenNames -merge -useContext -underBinder x1
  refine only_ite ?_ ?_
  · exact only_editStatus (sub_trans rfl hW) hs
  · refine only_ite ?_ ?_
    · exact only_editStatus (sub_trans rfl hW) hs
    · refine only_ite ?_ ?_
      · exact only_editStatus (sub_trans rfl hW) hs
      · refine hact _ _ ?_
        exact hs

theorem only_editRead {W : Nat} {s0 : State} (hW : Sub 0x2f00000000000004 W)  {k : Nat} {z1 : State} (hz1 : Only W s0 z1) :
    Only W s0 (editRead k z1) := by
  unfold editRead
  refine only_editGuard (sub_trans rfl hW) ?_ ?_
  · intro y1 y2 hy2
    extract_lets +onlyGivenNames -merge -useContext -underBinder x3
    extract_lets +onlyGivenNames -merge -useContext -underBinder x4
    extract_lets +onlyGivenNames -merge -useContext -underBinder x5
    have hx5 : Only W s0 (x5) := by
      unfold x5
      refine only_State_setR (sub_trans rfl hW) ?_
      exact only_State_setR (sub_trans rfl hW) (only_State_setR (sub_trans rfl hW) hy2)
    try clear_value x5
    exact only_editStatus (sub_trans rfl hW) (only_State_setR (sub_trans rfl hW) hx5)
  · exact hz1

theorem only_editWrite {W : Nat} {s0 : State} (hW : Sub 0x2000000000000084 W)  {k : Nat} {z1 : State} (hz1 : Only W s0 z1) :
    Only W s0 (editWrite k z1) := by
  unfold editWrite
  refine only_editGuard (sub_trans rfl hW) ?_ ?_
  · intro y1 y2 hy2
    extract_lets +onlyGivenNames -merge -useContext -underBinder x3
    extract_lets +onlyGivenNames -merge -useContext -underBinder x4
    extract_lets +onlyGivenNames -merge -useContext -underBinder x5
    extract_lets +onlyGivenNames -merge -useContext -underBinder x6
    extract_lets +onlyGivenNames -merge -useContext -underBinder x7
    refine only_ite ?_ ?_
    · exact only_editStatus (sub_trans rfl hW) hy2
    · refine only_ite ?_ ?_
      · exact only_editStatus (sub_trans rfl hW) hy2
      · extract_lets +onlyGivenNames -merge -useContext -underBinder x8
        exact only_editStatus (sub_trans rfl hW) (only_State_setCalE (sub_trans rfl hW) hy2)
  · exact hz1

theorem only_calDisarm {W : Nat} {s0 : State} (hW : Sub 0x80 W)  {e : Nat} {s : State} (hs : Only W s0 s) :
    Only W s0 (calDisarm e s) := by
  unfold calDisarm
  extract_lets +onlyGivenNames -merge -useContext -underBinder x1
  exact only_State_setCalE (sub_trans rfl hW) hs

theorem only_editDisarm {W : Nat} {s0 : State} (hW : Sub 0x2000000000000084 W)  {k : Nat} {z1 : State} (hz1 : Only W s0 z1) :
    Only W s0 (editDisarm k z1) := by
  unfold editDisarm
  refine only_editGuard (sub_trans rfl hW) ?_ ?_
  · intro y1 y2 hy2
    exact only_editStatus (sub_trans rfl hW) (only_calDisarm (sub_trans rfl hW) hy2)
  · exact hz1

theorem only_editPurge {W : Nat} {s0 : State} (hW : Sub 0x2008000000000084 W)  {k : Nat} {s : State} (hs : Only W s0 s) :
    Only W s0 (editPurge k s) := by
  unfold editPurge
  refine only_editGuard (sub_trans rfl hW) ?_ ?_
  · intro y1 y2 hy2
    extract_lets +onlyGivenNames -merge -useContext -underBinder x3
    extract_lets +onlyGivenNames -merge -useContext -underBinder x4
    have hx4 : Only W s0 (x4) := only_setDue (sub_trans rfl hW) hy2
    try clear_value x4
    extract_lets +onlyGivenNames -merge -useContext -underBinder x5
    have hx5 : Only W s0 (x5) := by
      unfold x5
      refine only_calHeld (sub_trans rfl hW) ?_ _
      exact hx4
    try clear_value x5
    refine only_editStatus (sub_trans rfl hW) ?_
    exact only_State_setB (sub_trans rfl hW) (only_calDisarm (sub_trans rfl hW) hx5)
  · exact only_State_setB (sub_trans rfl hW) hs

theorem only_heldEnqueue {W : Nat} {s0 : State} (hW : Sub 0x8000000000084 W)   {s : State} (hs : Only W s0 s) :
    Only W s0 (heldEnqueue s) := by
  unfold heldEnqueue
  refine only_ite ?_ ?_
  · exact only_heldMove (sub_trans rfl hW) hs
  · exact hs

theorem only_pinRecord {W : Nat} {s0 : State} (hW : Sub 0x8000000000000106 W)  {i : Nat} {ts : Word} {rising : Bool} {s : State} (hs : Only W s0 s) :
    Only W s0 (pinRecord i ts rising s) := by
  unfold pinRecord
  extract_lets +onlyGivenNames -merge -useContext -underBinder x1
  refine only_ite ?_ ?_
  · exact hs
  · extract_lets +onlyGivenNames -merge -useContext -underBinder x2
    refine only_ite ?_ ?_
    · exact only_State_satInc (sub_trans rfl hW) hs
    · refine only_ite ?_ ?_
      · exact only_State_setB (sub_trans rfl hW) (only_State_satInc (sub_trans rfl hW) hs)
      · extract_lets +onlyGivenNames -merge -useContext -underBinder x3
        extract_lets +onlyGivenNames -merge -useContext -underBinder x4
        have hx4 : Only W s0 (x4) := only_State_setPin (sub_trans rfl hW) hs
        try clear_value x4
        exact only_State_bump (sub_trans rfl hW) (only_State_setF (sub_trans rfl hW) hx4)

theorem only_pinDrive {W : Nat} {s0 : State} (hW : Sub 0x8000000000000106 W)  {i : Nat} {x : Bool} {ts : Word} {s : State} (hs : Only W s0 s) :
    Only W s0 (pinDrive i x ts s) := by
  unfold pinDrive
  extract_lets +onlyGivenNames -merge -useContext -underBinder x1
  refine only_ite ?_ ?_
  · exact only_State_setPin (sub_trans rfl hW) hs
  · extract_lets +onlyGivenNames -merge -useContext -underBinder x2
    extract_lets +onlyGivenNames -merge -useContext -underBinder x3
    have hx3 : Only W s0 (x3) := only_State_setB (sub_trans rfl hW) (only_State_setPin (sub_trans rfl hW) hs)
    try clear_value x3
    refine only_ite ?_ ?_
    · exact only_pinRecord (sub_trans rfl hW) hx3
    · exact hx3

theorem only_pinPlace {W : Nat} {s0 : State} (hW : Sub 0x8000000000000106 W)  {i : Nat} {s : State} (hs : Only W s0 s) :
    Only W s0 (pinPlace i s) := by
  unfold pinPlace
  extract_lets +onlyGivenNames -merge -useContext -underBinder x1
  split
  · exact hs
  · refine only_ite ?_ ?_
    · exact hs
    · extract_lets +onlyGivenNames -merge -useContext -underBinder x2
      extract_lets +onlyGivenNames -merge -useContext -underBinder x3
      exact only_pinDrive (sub_trans rfl hW) (only_State_setPin (sub_trans rfl hW) hs)

theorem only_pinTrail {W : Nat} {s0 : State} (hW : Sub 0x8000000000000106 W)  {i : Nat} {s : State} (hs : Only W s0 s) :
    Only W s0 (pinTrail i s) := by
  unfold pinTrail
  extract_lets +onlyGivenNames -merge -useContext -underBinder x1
  split
  · exact hs
  · refine only_ite ?_ ?_
    · exact only_pinDrive (sub_trans rfl hW) (only_State_setPin (sub_trans rfl hW) hs)
    · exact hs

theorem only_pinForce {W : Nat} {s0 : State} (hW : Sub 0x8000000000000106 W)  {i : Nat} {op : Nat} {s : State} (hs : Only W s0 s) :
    Only W s0 (pinForce i op s) := by
  unfold pinForce
  refine only_ite ?_ ?_
  · exact hs
  · refine only_ite ?_ ?_
    · exact only_pinDrive (sub_trans rfl hW) hs
    · refine only_ite ?_ ?_
      · exact only_pinDrive (sub_trans rfl hW) hs
      · refine only_ite ?_ ?_
        · exact only_pinDrive (sub_trans rfl hW) hs
        · exact hs

theorem only_pinDiscard {W : Nat} {s0 : State} (hW : Sub 0x100 W)  {i : Nat} {s : State} (hs : Only W s0 s) :
    Only W s0 (pinDiscard i s) := by
  unfold pinDiscard
  exact only_State_setPin (sub_trans rfl hW) hs

theorem only_pinCfgWrite {W : Nat} {s0 : State} (hW : Sub 0x2000000000000000000000000000000000c000000000000106 W)  {a : Access} {i : Nat} {v : Word} {level : Bool} {s : State} (hs : Only W s0 s) :
    Only W s0 (pinCfgWrite a i v level s) := by
  unfold pinCfgWrite
  extract_lets +onlyGivenNames -merge -useContext -underBinder x1
  extract_lets +onlyGivenNames -merge -useContext -underBinder x2 x3
  try clear_value x2
  have hx3 : Only W s0 (x3) := only_State_setPin (sub_trans rfl hW) hs
  try clear_value x3
  extract_lets +onlyGivenNames -merge -useContext -underBinder x4
  extract_lets +onlyGivenNames -merge -useContext -underBinder x5
  refine only_ite ?_ ?_
  · exact only_pqErr (sub_trans rfl hW) hx3
  · extract_lets +onlyGivenNames -merge -useContext -underBinder x6 x7 x8 x9
    try clear_value x6
    try clear_value x7
    try clear_value x8
    extract_lets +onlyGivenNames -merge -useContext -underBinder x10
    extract_lets +onlyGivenNames -merge -useContext -underBinder x11
    extract_lets +onlyGivenNames -merge -useContext -underBinder x12
    have hx12 : Only W s0 (x12) := only_State_setR (sub_trans rfl hW) hx3
    try clear_value x12
    extract_lets +onlyGivenNames -merge -useContext -underBinder x13
    extract_lets +onlyGivenNames -merge -useContext -underBinder x14
    have hx14 : Only W s0 (x14) := by
      unfold x14
      refine only_ite ?_ ?_
      · exact only_pinDiscard (sub_trans rfl hW) hx12
      · exact hx12
    try clear_value x14
    refine only_ite ?_ ?_
    · exact only_State_setPin (sub_trans rfl hW) hx14
    · refine only_ite ?_ ?_
      · exact only_pinDrive (sub_trans rfl hW) hx14
      · exact only_pinDrive (sub_trans rfl hW) hx14

theorem only_pinCapture {W : Nat} {s0 : State} (hW : Sub 0x8000000000000106 W)  {i : Nat} {ts : Word} {rising : Bool} {s : State} (hs : Only W s0 s) :
    Only W s0 (pinCapture i ts rising s) := by
  unfold pinCapture
  extract_lets +onlyGivenNames -merge -useContext -underBinder x1
  have hx1 : Only W s0 (x1) := only_State_setB (sub_trans rfl hW) hs
  try clear_value x1
  refine only_ite ?_ ?_
  · exact only_pinRecord (sub_trans rfl hW) hx1
  · exact hx1

theorem only_pinCapRead {W : Nat} {s0 : State} (hW : Sub 0x48000000000000124 W)  {i : Nat} {s : State} (hs : Only W s0 s) :
    Only W s0 (pinCapRead i s) := by
  unfold pinCapRead
  extract_lets +onlyGivenNames -merge -useContext -underBinder x1
  split
  · exact only_State_answer (sub_trans rfl hW) hs
  · extract_lets +onlyGivenNames -merge -useContext -underBinder x2
    have hx2 : Only W s0 (x2) := only_State_setR (sub_trans rfl hW) (only_State_setPin (sub_trans rfl hW) hs)
    try clear_value x2
    exact only_State_answer (sub_trans rfl hW) (only_State_setF (sub_trans rfl hW) hx2)

theorem only_pinSafe {W : Nat} {s0 : State} (hW : Sub 0x8000000000000106 W)  {i : Nat} {s : State} (hs : Only W s0 s) :
    Only W s0 (pinSafe i s) := by
  unfold pinSafe
  refine only_ite ?_ ?_
  · exact only_State_setPin (sub_trans rfl hW) hs
  · extract_lets +onlyGivenNames -merge -useContext -underBinder x1
    refine only_ite ?_ ?_
    · exact only_pinDrive (sub_trans rfl hW) hs
    · refine only_ite ?_ ?_
      · exact only_pinDrive (sub_trans rfl hW) hs
      · exact only_State_setPin (sub_trans rfl hW) hs

end Sys2Proof.Machine
end

