-- ==== Sys2Proof/Laws/KeepFlags.lean ====
section
/-! SUPPORT. What the definitions of Machine/Flags.lean leave alone: one lemma for each that answers a state. -/
namespace Sys2Proof.Machine

theorem only_State_wr {W : Nat} {s0 : State} {g : Reg} {i : Nat} {v : Word} (qg : Sub (regBit g) W) {s : State} (hs : Only W s0 s) :
    Only W s0 (State.wr s g i v) := by
  unfold State.wr
  exact only_State_setR qg hs

end Sys2Proof.Machine
end

