-- ==== Sys2Proof/Laws/KeepRas.lean ====
section
/-! SUPPORT. What the definitions of Machine/Ras.lean leave alone: one lemma for each that answers a state. -/
namespace Sys2Proof.Machine

theorem only_report {W : Nat} {s0 : State} (hW : Sub 0x40000000 W)  {ty : Nat} {sev : Nat} {w : Bool} {addr : Option Nat} {part : Nat} {src : Nat} {detail : Nat} {s : State} (hs : Only W s0 s) :
    Only W s0 (report ty sev w addr part src detail s) := by
  unfold report
  refine only_intake (sub_trans rfl hW) ?_ _
  exact hs

theorem only_iommuFault {W : Nat} {s0 : State} (hW : Sub 0x1000000 W)  {x : Xlate} {did : Nat} {iova : Nat} {write : Bool} {s : State} (hs : Only W s0 s) :
    Only W s0 (iommuFault x did iova write s) := by
  unfold iommuFault
  split
  · refine only_iommuFlt (sub_trans rfl hW) ?_ _
    exact hs
  · exact hs

theorem only_rasPut {W : Nat} {s0 : State} (hW : Sub 0x2000000000000000000000000000000000000000000000000000000000000000004 W)  {e : Nat} {r : ErrRec} {seq : Nat} {s : State} (hs : Only W s0 s) :
    Only W s0 (rasPut e r seq s) := by
  unfold rasPut
  refine only_State_setR (sub_trans rfl hW) ?_
  refine only_State_setR (sub_trans rfl hW) ?_
  exact only_State_setR (sub_trans rfl hW) (only_State_setR (sub_trans rfl hW) hs)

theorem only_rasAon {W : Nat} {s0 : State} (hW : Sub 0xc000000000000000000000000000000000000000000000000000000000000000004 W)  {r : ErrRec} {seq : Nat} {s : State} (hs : Only W s0 s) :
    Only W s0 (rasAon r seq s) := by
  unfold rasAon
  extract_lets +onlyGivenNames -merge -useContext -underBinder x1
  extract_lets +onlyGivenNames -merge -useContext -underBinder x2
  have hx2 : Only W s0 (x2) := only_State_setR (sub_trans rfl hW) (only_State_setR (sub_trans rfl hW) hs)
  try clear_value x2
  extract_lets +onlyGivenNames -merge -useContext -underBinder x3
  have hx3 : Only W s0 (x3) := only_State_setR (sub_trans rfl hW) (only_State_setR (sub_trans rfl hW) hx2)
  try clear_value x3
  exact only_State_setF (sub_trans rfl hW) hx3

theorem only_propose {W : Nat} {s0 : State} (hW : Sub 0x30200000000000000000000000000000000000000000000000000000000000000004 W)  {kind : Nat} {target : Nat} {seq : Nat} {nospare : Bool} {s : State} (hs : Only W s0 s) :
    Only W s0 (propose kind target seq nospare s) := by
  unfold propose
  extract_lets +onlyGivenNames -merge -useContext -underBinder x1
  try clear_value x1
  split
  · exact only_State_satInc (sub_trans rfl hW) hs
  · split
    · exact only_State_setB (sub_trans rfl hW) hs
    · extract_lets +onlyGivenNames -merge -useContext -underBinder x2
      have hx2 : Only W s0 (x2) := only_State_setR (sub_trans rfl hW) hs
      try clear_value x2
      extract_lets +onlyGivenNames -merge -useContext -underBinder x3
      have hx3 : Only W s0 (x3) := by
        unfold x3
        refine only_State_setF (sub_trans rfl hW) ?_
        exact only_State_setB (sub_trans rfl hW) (only_State_setB (sub_trans rfl hW) hx2)
      try clear_value x3
      exact only_State_setF (sub_trans rfl hW) (only_State_setF (sub_trans rfl hW) hx3)

theorem only_proposeCore {W : Nat} {s0 : State} (hW : Sub 0x30200000000000000000000000000000000000000000000000000000000000000004 W)  {n : Nat} {p : Nat} {seq : Nat} {s : State} (hs : Only W s0 s) :
    Only W s0 (proposeCore n p seq s) := by
  unfold proposeCore
  exact only_propose (sub_trans rfl hW) hs

theorem only_recordProposals {W : Nat} {s0 : State} (hW : Sub 0x30200000000000000000000000000000000000000000000000000000000040000004 W)  {r : ErrRec} {count : Nat} {seq : Nat} {s : State} (hs : Only W s0 s) :
    Only W s0 (recordProposals r count seq s) := by
  unfold recordProposals
  extract_lets +onlyGivenNames -merge -useContext -underBinder x1
  extract_lets +onlyGivenNames -merge -useContext -underBinder x2
  extract_lets +onlyGivenNames -merge -useContext -underBinder x3
  extract_lets +onlyGivenNames -merge -useContext -underBinder x4
  refine only_ite ?_ ?_
  · refine only_ite ?_ ?_
    · exact only_propose (sub_trans rfl hW) hs
    · exact hs
  · refine only_ite ?_ ?_
    · extract_lets +onlyGivenNames -merge -useContext -underBinder x5
      extract_lets +onlyGivenNames -merge -useContext -underBinder x6
      extract_lets +onlyGivenNames -merge -useContext -underBinder x7
      have hx7 : Only W s0 (x7) := by
        unfold x7
        refine only_rasCoreUc (sub_trans rfl hW) ?_ _
        exact hs
      try clear_value x7
      refine only_ite ?_ ?_
      · exact only_proposeCore (sub_trans rfl hW) hx7
      · exact hx7
    · refine only_ite ?_ ?_
      · refine only_ite ?_ ?_
        · exact only_proposeCore (sub_trans rfl hW) hs
        · refine only_ite ?_ ?_
          · exact hs
          · exact only_propose (sub_trans rfl hW) hs
      · refine only_ite ?_ ?_
        · extract_lets +onlyGivenNames -merge -useContext -underBinder x8
          extract_lets +onlyGivenNames -merge -useContext -underBinder x9
          extract_lets +onlyGivenNames -merge -useContext -underBinder x10
          refine only_ite ?_ ?_
          · exact hs
          · exact only_propose (sub_trans rfl hW) hs
        · exact hs

theorem only_rasAccept {W : Nat} {s0 : State} (hW : Sub 0x3e600000000000000000000000000000000000000000000000000000000040000004 W)  {r : ErrRec} {s : State} (hs : Only W s0 s) :
    Only W s0 (rasAccept r s) := by
  unfold rasAccept
  extract_lets +onlyGivenNames -merge -useContext -underBinder x1
  refine only_ite ?_ ?_
  · extract_lets +onlyGivenNames -merge -useContext -underBinder x2
    extract_lets +onlyGivenNames -merge -useContext -underBinder x3
    extract_lets +onlyGivenNames -merge -useContext -underBinder x4
    exact only_recordProposals (sub_trans rfl hW) (only_State_setR (sub_trans rfl hW) hs)
  · refine only_ite ?_ ?_
    · exact only_State_satInc (sub_trans rfl hW) hs
    · extract_lets +onlyGivenNames -merge -useContext -underBinder x5
      extract_lets +onlyGivenNames -merge -useContext -underBinder x6
      extract_lets +onlyGivenNames -merge -useContext -underBinder x7
      have hx7 : Only W s0 (x7) := only_rasPut (sub_trans rfl hW) hs
      try clear_value x7
      extract_lets +onlyGivenNames -merge -useContext -underBinder x8 x9
      have hx8 : Only W s0 (x8) := only_State_setF (sub_trans rfl hW) hx7
      try clear_value x8
      have hx9 : Only W s0 (x9) := by
        unfold x9
        refine only_rasAny_rasSeq (sub_trans rfl hW) ?_ _ _
        exact hx8
      try clear_value x9
      extract_lets +onlyGivenNames -merge -useContext -underBinder x10
      have hx10 : Only W s0 (x10) := by
        unfold x10
        refine only_ite ?_ ?_
        · exact only_State_satInc (sub_trans rfl hW) (only_State_setF (sub_trans rfl hW) hx9)
        · refine only_rasUnread (sub_trans rfl hW) ?_ _
          exact hx9
      try clear_value x10
      extract_lets +onlyGivenNames -merge -useContext -underBinder x11
      have hx11 : Only W s0 (x11) := by
        unfold x11
        refine only_ite ?_ ?_
        · exact only_rasAon (sub_trans rfl hW) hx10
        · exact hx10
      try clear_value x11
      exact only_recordProposals (sub_trans rfl hW) hx11

theorem only_execErrorRecord {W : Nat} {s0 : State} (hW : Sub 0x3e600000000000000000000000000000000000000000000000000000000040000004 W)  {expired : Bool} {s : State} (hs : Only W s0 s) :
    OnlyOut W s0 (execErrorRecord expired s) := by
  unfold execErrorRecord
  split
  · exact only_next hs
  · extract_lets +onlyGivenNames -merge -useContext -underBinder x1
    have hx1 : Only W s0 (x1) := by
      unfold x1
      refine only_intake (sub_trans rfl hW) ?_ _
      exact hs
    try clear_value x1
    refine onlyOut_ite ?_ ?_
    · exact only_next (only_State_satInc (sub_trans rfl hW) hx1)
    · exact only_next (only_rasAccept (sub_trans rfl hW) hx1)

theorem only_tailMove {W : Nat} {s0 : State} (hW : Sub 0x400000000000000000000000000000000000000000000000000000000040000004 W)  {v : Nat} {s : State} (hs : Only W s0 s) :
    Only W s0 (tailMove v s) := by
  unfold tailMove
  extract_lets +onlyGivenNames -merge -useContext -underBinder x1
  refine only_ite ?_ ?_
  · exact hs
  · extract_lets +onlyGivenNames -merge -useContext -underBinder x2
    have hx2 : Only W s0 (x2) := only_State_setF (sub_trans rfl hW) hs
    try clear_value x2
    refine only_rasUnread (sub_trans rfl hW) ?_ _
    exact hx2

theorem only_execTailWrite {W : Nat} {s0 : State} (hW : Sub 0x4000000000000000e0000007000000000000000000000000000000000040000024 W)  {a : Access} {v : Word} {s : State} (hs : Only W s0 s) :
    OnlyOut W s0 (execTailWrite a v s) := by
  unfold execTailWrite
  refine only_next ?_
  refine only_guarded (sub_trans rfl hW) ?_ ?_
  · intro y1 hy1
    exact only_tailMove (sub_trans rfl hW) hy1
  · exact hs

end Sys2Proof.Machine
end

