-- ==== Sys2Proof/Laws/KeepPhaseRef.lean ====
section
/-! SUPPORT. What the definitions of Machine/PhaseRef.lean leave alone: one lemma for each that answers a state. -/
namespace Sys2Proof.Machine

theorem only_latchLive {W : Nat} {s0 : State} (hW : Sub 0x40 W)  {n : Nat} {s : State} (hs : Only W s0 s) :
    Only W s0 (latchLive n s) := by
  unfold latchLive
  exact only_State_setPort (sub_trans rfl hW) hs

theorem only_setPortState {W : Nat} {s0 : State} (hW : Sub 0x400000000004 W)  {n : Nat} {st : Nat} {s : State} (hs : Only W s0 s) :
    Only W s0 (setPortState n st s) := by
  unfold setPortState
  exact only_State_setF (sub_trans rfl hW) hs

theorem only_enterLocked {W : Nat} {s0 : State} (hW : Sub 0x400000000004 W)  {n : Nat} {s : State} (hs : Only W s0 s) :
    Only W s0 (enterLocked n s) := by
  unfold enterLocked
  exact only_State_setB (sub_trans rfl hW) (only_setPortState (sub_trans rfl hW) hs)

theorem only_setRate {W : Nat} {s0 : State} (hW : Sub 0x40000000004 W)  {n : Nat} {v : Word} {s : State} (hs : Only W s0 s) :
    Only W s0 (setRate n v s) := by
  unfold setRate
  exact only_State_setR (sub_trans rfl hW) hs

theorem only_setLoop {W : Nat} {s0 : State} (hW : Sub 0x40000000044 W)  {n : Nat} {v : Word} {s : State} (hs : Only W s0 s) :
    Only W s0 (setLoop n v s) := by
  unfold setLoop
  exact only_setRate (sub_trans rfl hW) (only_State_setPort (sub_trans rfl hW) hs)

theorem only_enterHoldover {W : Nat} {s0 : State} (hW : Sub 0x440000000044 W)  {n : Nat} {s : State} (hs : Only W s0 s) :
    Only W s0 (enterHoldover n s) := by
  unfold enterHoldover
  extract_lets +onlyGivenNames -merge -useContext -underBinder x1
  extract_lets +onlyGivenNames -merge -useContext -underBinder x2
  have hx2 : Only W s0 (x2) := only_State_setPort (sub_trans rfl hW) hs
  try clear_value x2
  refine only_setRate (sub_trans rfl hW) ?_
  exact only_State_setB (sub_trans rfl hW) (only_setPortState (sub_trans rfl hW) hx2)

theorem only_portQerr {W : Nat} {s0 : State} (hW : Sub 0x400000000004 W)  {n : Nat} {s : State} (hs : Only W s0 s) :
    Only W s0 (portQerr n s) := by
  unfold portQerr
  exact only_State_setB (sub_trans rfl hW) (only_State_satInc (sub_trans rfl hW) hs)

theorem only_portStart {W : Nat} {s0 : State} (hW : Sub 0x880384600000003cc W)  {n : Nat} {s : State} (hs : Only W s0 s) :
    Only W s0 (portStart n s) := by
  unfold portStart
  extract_lets +onlyGivenNames -merge -useContext -underBinder x1
  have hx1 : Only W s0 (x1) := only_latchLive (sub_trans rfl hW) (only_settle (sub_trans rfl hW) hs)
  try clear_value x1
  extract_lets +onlyGivenNames -merge -useContext -underBinder x2 x3
  try clear_value x2
  have hx3 : Only W s0 (x3) := only_State_setPort (sub_trans rfl hW) hx1
  try clear_value x3
  extract_lets +onlyGivenNames -merge -useContext -underBinder x4
  have hx4 : Only W s0 (x4) := only_State_setB (sub_trans rfl hW) (only_State_setF (sub_trans rfl hW) hx3)
  try clear_value x4
  extract_lets +onlyGivenNames -merge -useContext -underBinder x5
  refine only_ite ?_ ?_
  · extract_lets +onlyGivenNames -merge -useContext -underBinder x6
    have hx6 : Only W s0 (x6) := only_enterLocked (sub_trans rfl hW) (only_setLoop (sub_trans rfl hW) hx4)
    try clear_value x6
    extract_lets +onlyGivenNames -merge -useContext -underBinder x7 x8
    try clear_value x7
    have hx8 : Only W s0 (x8) := only_State_setPort (sub_trans rfl hW) hx6
    try clear_value x8
    exact only_countLoad (sub_trans rfl hW) hx8
  · refine only_ite ?_ ?_
    · refine only_countLoad (sub_trans rfl hW) ?_
      exact only_enterLocked (sub_trans rfl hW) (only_setLoop (sub_trans rfl hW) hx4)
    · exact only_setPortState (sub_trans rfl hW) (only_setLoop (sub_trans rfl hW) hx4)

theorem only_portStop {W : Nat} {s0 : State} (hW : Sub 0x880384400000003cc W)  {n : Nat} {s : State} (hs : Only W s0 s) :
    Only W s0 (portStop n s) := by
  unfold portStop
  extract_lets +onlyGivenNames -merge -useContext -underBinder x1
  have hx1 : Only W s0 (x1) := only_settle (sub_trans rfl hW) hs
  try clear_value x1
  extract_lets +onlyGivenNames -merge -useContext -underBinder x2 x3
  try clear_value x2
  have hx3 : Only W s0 (x3) := only_State_setPort (sub_trans rfl hW) hx1
  try clear_value x3
  exact only_setPortState (sub_trans rfl hW) (only_setLoop (sub_trans rfl hW) hx3)

theorem only_portCfgWrite {W : Nat} {s0 : State} (hW : Sub 0x880384640000003cc W)  {a : Access} {n : Nat} {v : Word} {s : State} (hs : Only W s0 s) :
    Only W s0 (portCfgWrite a n v s) := by
  unfold portCfgWrite
  extract_lets +onlyGivenNames -merge -useContext -underBinder x1
  extract_lets +onlyGivenNames -merge -useContext -underBinder x2
  extract_lets +onlyGivenNames -merge -useContext -underBinder x3
  refine only_ite ?_ ?_
  · exact only_State_setR (sub_trans rfl hW) hs
  · extract_lets +onlyGivenNames -merge -useContext -underBinder x4
    refine only_ite ?_ ?_
    · refine only_ite ?_ ?_
      · extract_lets +onlyGivenNames -merge -useContext -underBinder x5
        extract_lets +onlyGivenNames -merge -useContext -underBinder x6
        have hx6 : Only W s0 (x6) := only_State_setR (sub_trans rfl hW) hs
        try clear_value x6
        refine only_ite ?_ ?_
        · exact hx6
        · exact only_State_setB (sub_trans rfl hW) hx6
      · exact only_State_setR (sub_trans rfl hW) (only_portStop (sub_trans rfl hW) hs)
    · refine only_ite ?_ ?_
      · refine only_ite ?_ ?_
        · exact only_State_setB (sub_trans rfl hW) (only_State_setR (sub_trans rfl hW) hs)
        · exact only_portStart (sub_trans rfl hW) (only_State_setR (sub_trans rfl hW) hs)
      · exact only_State_setR (sub_trans rfl hW) hs

theorem only_portAuxWrite {W : Nat} {s0 : State} (hW : Sub 0x408000000004 W)  {n : Nat} {v : Word} {s : State} (hs : Only W s0 s) :
    Only W s0 (portAuxWrite n v s) := by
  unfold portAuxWrite
  extract_lets +onlyGivenNames -merge -useContext -underBinder x1
  extract_lets +onlyGivenNames -merge -useContext -underBinder x2
  have hx2 : Only W s0 (x2) := only_State_setF (sub_trans rfl hW) hs
  try clear_value x2
  extract_lets +onlyGivenNames -merge -useContext -underBinder x3
  extract_lets +onlyGivenNames -merge -useContext -underBinder x4
  refine only_ite ?_ ?_
  · refine only_ite ?_ ?_
    · exact only_State_setB (sub_trans rfl hW) hx2
    · exact hx2
  · exact only_State_setF (sub_trans rfl hW) (only_State_setF (sub_trans rfl hW) hx2)

theorem only_portNominalWrite {W : Nat} {s0 : State} (hW : Sub 0xc0000000044 W)  {n : Nat} {v : Word} {s : State} (hs : Only W s0 s) :
    Only W s0 (portNominalWrite n v s) := by
  unfold portNominalWrite
  extract_lets +onlyGivenNames -merge -useContext -underBinder x1
  have hx1 : Only W s0 (x1) := only_State_setR (sub_trans rfl hW) hs
  try clear_value x1
  refine only_ite ?_ ?_
  · exact only_setLoop (sub_trans rfl hW) hx1
  · exact hx1

theorem only_portTodWrite {W : Nat} {s0 : State} (hW : Sub 0x800000000044 W)  {n : Nat} {v : Word} {s : State} (hs : Only W s0 s) :
    Only W s0 (portTodWrite n v s) := by
  unfold portTodWrite
  extract_lets +onlyGivenNames -merge -useContext -underBinder x1 x2
  try clear_value x1
  have hx2 : Only W s0 (x2) := only_State_setPort (sub_trans rfl hW) hs
  try clear_value x2
  exact only_State_setB (sub_trans rfl hW) (only_State_setF (sub_trans rfl hW) hx2)

theorem only_stepCorrect {W : Nat} {s0 : State} (hW : Sub 0x880384600000003cc W)  {n : Nat} {e : Int} {s : State} (hs : Only W s0 s) :
    Only W s0 (stepCorrect n e s) := by
  unfold stepCorrect
  extract_lets +onlyGivenNames -merge -useContext -underBinder x1
  have hx1 : Only W s0 (x1) := only_State_setB (sub_trans rfl hW) hs
  try clear_value x1
  extract_lets +onlyGivenNames -merge -useContext -underBinder x2 x3
  try clear_value x2
  have hx3 : Only W s0 (x3) := only_setRate (sub_trans rfl hW) (only_State_setPort (sub_trans rfl hW) hx1)
  try clear_value x3
  refine only_ite ?_ ?_
  · extract_lets +onlyGivenNames -merge -useContext -underBinder x4
    have hx4 : Only W s0 (x4) := only_settle (sub_trans rfl hW) hx3
    try clear_value x4
    extract_lets +onlyGivenNames -merge -useContext -underBinder x5
    extract_lets +onlyGivenNames -merge -useContext -underBinder x6
    exact only_jumpFire (sub_trans rfl hW) (only_moveCount (sub_trans rfl hW) hx4)
  · refine only_ite ?_ ?_
    · exact hx3
    · exact only_setRate (sub_trans rfl hW) (only_State_setPort (sub_trans rfl hW) hx3)

theorem only_slewCorrect {W : Nat} {s0 : State} (hW : Sub 0x40000000044 W)  {n : Nat} {e : Int} {s : State} (hs : Only W s0 s) :
    Only W s0 (slewCorrect n e s) := by
  unfold slewCorrect
  extract_lets +onlyGivenNames -merge -useContext -underBinder x1 x2
  try clear_value x1
  have hx2 : Only W s0 (x2) := only_State_setPort (sub_trans rfl hW) hs
  try clear_value x2
  refine only_ite ?_ ?_
  · exact only_setRate (sub_trans rfl hW) hx2
  · exact only_setRate (sub_trans rfl hW) hx2

theorem only_portRestart {W : Nat} {s0 : State} (hW : Sub 0x880384600000003cc W)  {n : Nat} {s : State} (hs : Only W s0 s) :
    Only W s0 (portRestart n s) := by
  unfold portRestart
  refine only_ite ?_ ?_
  · exact hs
  · exact only_portStart (sub_trans rfl hW) hs

theorem only_portForceHoldover {W : Nat} {s0 : State} (hW : Sub 0x440000000044 W)  {n : Nat} {s : State} (hs : Only W s0 s) :
    Only W s0 (portForceHoldover n s) := by
  unfold portForceHoldover
  refine only_ite ?_ ?_
  · exact hs
  · exact only_enterHoldover (sub_trans rfl hW) hs

theorem only_portResync {W : Nat} {s0 : State} (hW : Sub 0x880384600000003cc W)  {n : Nat} {s : State} (hs : Only W s0 s) :
    Only W s0 (portResync n s) := by
  unfold portResync
  refine only_ite ?_ ?_
  · exact only_stepCorrect (sub_trans rfl hW) (only_enterLocked (sub_trans rfl hW) hs)
  · exact hs

theorem only_portCmdWrite {W : Nat} {s0 : State} (hW : Sub 0x880384600000003cc W)  {n : Nat} {v : Word} {s : State} (hs : Only W s0 s) :
    Only W s0 (portCmdWrite n v s) := by
  unfold portCmdWrite
  refine only_ite ?_ ?_
  · exact only_portRestart (sub_trans rfl hW) hs
  · refine only_ite ?_ ?_
    · exact only_portForceHoldover (sub_trans rfl hW) hs
    · refine only_ite ?_ ?_
      · exact only_portResync (sub_trans rfl hW) hs
      · exact hs

theorem only_todApply {W : Nat} {s0 : State} (hW : Sub 0x1800000000004 W)  {n : Nat} {ts : Word} {bound : Word} {s : State} (hs : Only W s0 s) :
    Only W s0 (todApply n ts bound s) := by
  unfold todApply
  extract_lets +onlyGivenNames -merge -useContext -underBinder x1
  refine only_ite ?_ ?_
  · extract_lets +onlyGivenNames -merge -useContext -underBinder x2
    refine only_State_setB (sub_trans rfl hW) ?_
    exact only_State_setB (sub_trans rfl hW) (only_State_setF (sub_trans rfl hW) hs)
  · exact hs

theorem only_countEdge {W : Nat} {s0 : State} (hW : Sub 0x500000000004 W)  {n : Nat} {ts : Word} {s : State} (hs : Only W s0 s) :
    Only W s0 (countEdge n ts s) := by
  unfold countEdge
  exact only_State_setR (sub_trans rfl hW) (only_State_wrapInc (sub_trans rfl hW) hs)

theorem only_loopUpdate {W : Nat} {s0 : State} (hW : Sub 0x40 W)  {n : Nat} {rm : Int} {s : State} (hs : Only W s0 s) :
    Only W s0 (loopUpdate n rm s) := by
  unfold loopUpdate
  extract_lets +onlyGivenNames -merge -useContext -underBinder x1
  extract_lets +onlyGivenNames -merge -useContext -underBinder x2
  exact only_State_setPort (sub_trans rfl hW) hs

theorem only_edgeLocked {W : Nat} {s0 : State} (hW : Sub 0x1f40000000046 W)  {n : Nat} {ts : Word} {carried : Option Word} {s : State} (hs : Only W s0 s) :
    Only W s0 (edgeLocked n ts carried s) := by
  unfold edgeLocked
  extract_lets +onlyGivenNames -merge -useContext -underBinder x1
  extract_lets +onlyGivenNames -merge -useContext -underBinder x2
  refine only_ite ?_ ?_
  · exact only_portQerr (sub_trans rfl hW) hs
  · extract_lets +onlyGivenNames -merge -useContext -underBinder x3
    have hx3 : Only W s0 (x3) := only_latchLive (sub_trans rfl hW) hs
    try clear_value x3
    extract_lets +onlyGivenNames -merge -useContext -underBinder x4
    extract_lets +onlyGivenNames -merge -useContext -underBinder x5
    extract_lets +onlyGivenNames -merge -useContext -underBinder x6
    extract_lets +onlyGivenNames -merge -useContext -underBinder x7
    extract_lets +onlyGivenNames -merge -useContext -underBinder x8
    have hx8 : Only W s0 (x8) := only_loopUpdate (sub_trans rfl hW) hx3
    try clear_value x8
    extract_lets +onlyGivenNames -merge -useContext -underBinder x9 x10
    try clear_value x9
    have hx10 : Only W s0 (x10) := only_State_setPort (sub_trans rfl hW) hx8
    try clear_value x10
    extract_lets +onlyGivenNames -merge -useContext -underBinder x11
    have hx11 : Only W s0 (x11) := only_State_setF (sub_trans rfl hW) (only_countEdge (sub_trans rfl hW) hx10)
    try clear_value x11
    extract_lets +onlyGivenNames -merge -useContext -underBinder x12
    have hx12 : Only W s0 (x12) := by
      unfold x12
      refine only_ite ?_ ?_
      · exact only_slewCorrect (sub_trans rfl hW) hx11
      · exact only_setRate (sub_trans rfl hW) hx11
    try clear_value x12
    exact only_State_bump (sub_trans rfl hW) (only_todApply (sub_trans rfl hW) hx12)

theorem only_runComplete {W : Nat} {s0 : State} (hW : Sub 0x88039c600000003cc W)  {n : Nat} {ts : Word} {carried : Option Word} {s : State} (hs : Only W s0 s) :
    Only W s0 (runComplete n ts carried s) := by
  unfold runComplete
  extract_lets +onlyGivenNames -merge -useContext -underBinder x1
  extract_lets +onlyGivenNames -merge -useContext -underBinder x2
  extract_lets +onlyGivenNames -merge -useContext -underBinder x3
  extract_lets +onlyGivenNames -merge -useContext -underBinder x4
  refine only_ite ?_ ?_
  · extract_lets +onlyGivenNames -merge -useContext -underBinder x5
    extract_lets +onlyGivenNames -merge -useContext -underBinder x6
    extract_lets +onlyGivenNames -merge -useContext -underBinder x7
    have hx7 : Only W s0 (x7) := only_State_setPort (sub_trans rfl hW) hs
    try clear_value x7
    refine only_todApply (sub_trans rfl hW) ?_
    refine only_countLoad (sub_trans rfl hW) ?_
    exact only_enterLocked (sub_trans rfl hW) (only_setLoop (sub_trans rfl hW) hx7)
  · extract_lets +onlyGivenNames -merge -useContext -underBinder x8
    extract_lets +onlyGivenNames -merge -useContext -underBinder x9
    extract_lets +onlyGivenNames -merge -useContext -underBinder x10
    extract_lets +onlyGivenNames -merge -useContext -underBinder x11
    extract_lets +onlyGivenNames -merge -useContext -underBinder x12
    have hx12 : Only W s0 (x12) := only_State_setPort (sub_trans rfl hW) hs
    try clear_value x12
    extract_lets +onlyGivenNames -merge -useContext -underBinder x13
    have hx13 : Only W s0 (x13) := by
      unfold x13
      refine only_ite ?_ ?_
      · exact only_State_setB (sub_trans rfl hW) hx12
      · exact hx12
    try clear_value x13
    extract_lets +onlyGivenNames -merge -useContext -underBinder x14
    have hx14 : Only W s0 (x14) := only_setLoop (sub_trans rfl hW) hx13
    try clear_value x14
    extract_lets +onlyGivenNames -merge -useContext -underBinder x15
    refine only_todApply (sub_trans rfl hW) ?_
    refine only_ite ?_ ?_
    · exact only_stepCorrect (sub_trans rfl hW) (only_enterLocked (sub_trans rfl hW) hx14)
    · refine only_ite ?_ ?_
      · exact only_setPortState (sub_trans rfl hW) hx14
      · exact only_slewCorrect (sub_trans rfl hW) (only_enterLocked (sub_trans rfl hW) hx14)

theorem only_edgeRun {W : Nat} {s0 : State} (hW : Sub 0x88039f600000003ce W)  {n : Nat} {ts : Word} {carried : Option Word} {s : State} (hs : Only W s0 s) :
    Only W s0 (edgeRun n ts carried s) := by
  unfold edgeRun
  extract_lets +onlyGivenNames -merge -useContext -underBinder x1
  have hx1 : Only W s0 (x1) := only_countEdge (sub_trans rfl hW) (only_latchLive (sub_trans rfl hW) hs)
  try clear_value x1
  extract_lets +onlyGivenNames -merge -useContext -underBinder x2
  extract_lets +onlyGivenNames -merge -useContext -underBinder x3
  extract_lets +onlyGivenNames -merge -useContext -underBinder x4
  extract_lets +onlyGivenNames -merge -useContext -underBinder x5
  refine only_ite ?_ ?_
  · extract_lets +onlyGivenNames -merge -useContext -underBinder x6
    extract_lets +onlyGivenNames -merge -useContext -underBinder x7
    have hx7 : Only W s0 (x7) := only_State_setPort (sub_trans rfl hW) hx1
    try clear_value x7
    extract_lets +onlyGivenNames -merge -useContext -underBinder x8
    have hx8 : Only W s0 (x8) := only_State_setF (sub_trans rfl hW) hx7
    try clear_value x8
    extract_lets +onlyGivenNames -merge -useContext -underBinder x9
    have hx9 : Only W s0 (x9) := by
      unfold x9
      refine only_ite ?_ ?_
      · exact only_runComplete (sub_trans rfl hW) hx8
      · exact only_todApply (sub_trans rfl hW) hx8
    try clear_value x9
    exact only_State_bump (sub_trans rfl hW) hx9
  · refine only_State_bump (sub_trans rfl hW) ?_
    exact only_todApply (sub_trans rfl hW) (only_State_setPort (sub_trans rfl hW) hx1)

theorem only_portEdge {W : Nat} {s0 : State} (hW : Sub 0x88039f600000003ce W)  {n : Nat} {ts : Word} {carried : Option Word} {s : State} (hs : Only W s0 s) :
    Only W s0 (portEdge n ts carried s) := by
  unfold portEdge
  extract_lets +onlyGivenNames -merge -useContext -underBinder x1
  refine only_ite ?_ ?_
  · exact hs
  · refine only_ite ?_ ?_
    · exact only_edgeLocked (sub_trans rfl hW) hs
    · exact only_edgeRun (sub_trans rfl hW) hs

theorem only_encEdgeLocked {W : Nat} {s0 : State} (hW : Sub 0x880385600000003ce W)  {n : Nat} {ts : Word} {fwd : Bool} {s : State} (hs : Only W s0 s) :
    Only W s0 (encEdgeLocked n ts fwd s) := by
  unfold encEdgeLocked
  extract_lets +onlyGivenNames -merge -useContext -underBinder x1
  have hx1 : Only W s0 (x1) := only_latchLive (sub_trans rfl hW) (only_settle (sub_trans rfl hW) hs)
  try clear_value x1
  extract_lets +onlyGivenNames -merge -useContext -underBinder x2
  split
  · extract_lets +onlyGivenNames -merge -useContext -underBinder x3
    extract_lets +onlyGivenNames -merge -useContext -underBinder x4
    extract_lets +onlyGivenNames -merge -useContext -underBinder x5
    extract_lets +onlyGivenNames -merge -useContext -underBinder x6
    extract_lets +onlyGivenNames -merge -useContext -underBinder x7
    have hx7 : Only W s0 (x7) := only_moveCount (sub_trans rfl hW) (only_countEdge (sub_trans rfl hW) hx1)
    try clear_value x7
    extract_lets +onlyGivenNames -merge -useContext -underBinder x8 x9
    try clear_value x8
    have hx9 : Only W s0 (x9) := only_State_setPort (sub_trans rfl hW) hx7
    try clear_value x9
    extract_lets +onlyGivenNames -merge -useContext -underBinder x10 x11 x12 x13 x14 x15
    have hx10 : Only W s0 (x10) := only_State_setB (sub_trans rfl hW) (only_State_setB (sub_trans rfl hW) hx9)
    try clear_value x10
    try clear_value x11
    try clear_value x12
    try clear_value x13
    have hx14 : Only W s0 (x14) := only_loopUpdate (sub_trans rfl hW) (only_State_setPort (sub_trans rfl hW) hx9)
    try clear_value x14
    have hx15 : Only W s0 (x15) := by
      unfold x15
      refine only_ite ?_ ?_
      · exact only_setLoop (sub_trans rfl hW) (only_State_setPort (sub_trans rfl hW) hx10)
      · refine only_ite ?_ ?_
        · exact hx9
        · refine only_ite ?_ ?_
          · exact only_State_setPort (sub_trans rfl hW) hx9
          · exact only_setRate (sub_trans rfl hW) hx14
    try clear_value x15
    exact only_State_bump (sub_trans rfl hW) (only_edgeFire (sub_trans rfl hW) hx15)

theorem only_encEdgeRelock {W : Nat} {s0 : State} (hW : Sub 0x880385600000003ce W)  {n : Nat} {ts : Word} {fwd : Bool} {s : State} (hs : Only W s0 s) :
    Only W s0 (encEdgeRelock n ts fwd s) := by
  unfold encEdgeRelock
  extract_lets +onlyGivenNames -merge -useContext -underBinder x1
  have hx1 : Only W s0 (x1) := only_countEdge (sub_trans rfl hW) (only_latchLive (sub_trans rfl hW) hs)
  try clear_value x1
  extract_lets +onlyGivenNames -merge -useContext -underBinder x2
  extract_lets +onlyGivenNames -merge -useContext -underBinder x3
  extract_lets +onlyGivenNames -merge -useContext -underBinder x4
  extract_lets +onlyGivenNames -merge -useContext -underBinder x5
  have hx5 : Only W s0 (x5) := only_State_setPort (sub_trans rfl hW) hx1
  try clear_value x5
  refine only_ite ?_ ?_
  · exact hx5
  · extract_lets +onlyGivenNames -merge -useContext -underBinder x6
    have hx6 : Only W s0 (x6) := only_settle (sub_trans rfl hW) hx5
    try clear_value x6
    extract_lets +onlyGivenNames -merge -useContext -underBinder x7
    extract_lets +onlyGivenNames -merge -useContext -underBinder x8
    extract_lets +onlyGivenNames -merge -useContext -underBinder x9
    extract_lets +onlyGivenNames -merge -useContext -underBinder x10
    extract_lets +onlyGivenNames -merge -useContext -underBinder x11
    extract_lets +onlyGivenNames -merge -useContext -underBinder x12
    have hx12 : Only W s0 (x12) := only_moveCount (sub_trans rfl hW) hx6
    try clear_value x12
    extract_lets +onlyGivenNames -merge -useContext -underBinder x13
    extract_lets +onlyGivenNames -merge -useContext -underBinder x14 x15
    try clear_value x14
    have hx15 : Only W s0 (x15) := only_State_setPort (sub_trans rfl hW) hx12
    try clear_value x15
    extract_lets +onlyGivenNames -merge -useContext -underBinder x16
    have hx16 : Only W s0 (x16) := only_State_setB (sub_trans rfl hW) (only_State_setB (sub_trans rfl hW) hx15)
    try clear_value x16
    refine only_State_bump (sub_trans rfl hW) ?_
    refine only_edgeFire (sub_trans rfl hW) ?_
    exact only_enterLocked (sub_trans rfl hW) (only_setLoop (sub_trans rfl hW) hx16)

theorem only_encIllegal {W : Nat} {s0 : State} (hW : Sub 0x440000000044 W)  {n : Nat} {s : State} (hs : Only W s0 s) :
    Only W s0 (encIllegal n s) := by
  unfold encIllegal
  refine only_ite ?_ ?_
  · exact hs
  · extract_lets +onlyGivenNames -merge -useContext -underBinder x1
    have hx1 : Only W s0 (x1) := only_portQerr (sub_trans rfl hW) hs
    try clear_value x1
    extract_lets +onlyGivenNames -merge -useContext -underBinder x2 x3
    try clear_value x2
    have hx3 : Only W s0 (x3) := only_State_setPort (sub_trans rfl hW) hx1
    try clear_value x3
    refine only_ite ?_ ?_
    · exact hx3
    · exact only_enterHoldover (sub_trans rfl hW) hx3

theorem only_encZ {W : Nat} {s0 : State} (hW : Sub 0x880384200000003ce W)  {n : Nat} {s : State} (hs : Only W s0 s) :
    Only W s0 (encZ n s) := by
  unfold encZ
  refine only_ite ?_ ?_
  · exact hs
  · extract_lets +onlyGivenNames -merge -useContext -underBinder x1
    have hx1 : Only W s0 (x1) := only_State_setB (sub_trans rfl hW) hs
    try clear_value x1
    refine only_ite ?_ ?_
    · exact hx1
    · extract_lets +onlyGivenNames -merge -useContext -underBinder x2
      have hx2 : Only W s0 (x2) := only_settle (sub_trans rfl hW) hx1
      try clear_value x2
      extract_lets +onlyGivenNames -merge -useContext -underBinder x3
      extract_lets +onlyGivenNames -merge -useContext -underBinder x4
      extract_lets +onlyGivenNames -merge -useContext -underBinder x5
      extract_lets +onlyGivenNames -merge -useContext -underBinder x6
      extract_lets +onlyGivenNames -merge -useContext -underBinder x7
      have hx7 : Only W s0 (x7) := only_State_setB (sub_trans rfl hW) (only_moveCount (sub_trans rfl hW) hx2)
      try clear_value x7
      extract_lets +onlyGivenNames -merge -useContext -underBinder x8 x9
      try clear_value x8
      have hx9 : Only W s0 (x9) := only_State_setPort (sub_trans rfl hW) hx7
      try clear_value x9
      exact only_State_bump (sub_trans rfl hW) (only_jumpFire (sub_trans rfl hW) hx9)

theorem only_holdEnd {W : Nat} {s0 : State} (hW : Sub 0x40000000044 W)  {n : Nat} {s : State} (hs : Only W s0 s) :
    Only W s0 (holdEnd n s) := by
  unfold holdEnd
  extract_lets +onlyGivenNames -merge -useContext -underBinder x1
  refine only_ite ?_ ?_
  · exact only_setRate (sub_trans rfl hW) (only_State_setPort (sub_trans rfl hW) hs)
  · exact hs

theorem only_slewFinish {W : Nat} {s0 : State} (hW : Sub 0x40000000044 W)  {n : Nat} {s : State} (hs : Only W s0 s) :
    Only W s0 (slewFinish n s) := by
  unfold slewFinish
  extract_lets +onlyGivenNames -merge -useContext -underBinder x1
  refine only_ite ?_ ?_
  · exact only_setRate (sub_trans rfl hW) (only_State_setPort (sub_trans rfl hW) hs)
  · exact hs

theorem only_lossExpiry {W : Nat} {s0 : State} (hW : Sub 0x440000000044 W)  {n : Nat} {s : State} (hs : Only W s0 s) :
    Only W s0 (lossExpiry n s) := by
  unfold lossExpiry
  extract_lets +onlyGivenNames -merge -useContext -underBinder x1
  extract_lets +onlyGivenNames -merge -useContext -underBinder x2
  refine only_ite ?_ ?_
  · exact only_enterHoldover (sub_trans rfl hW) hs
  · exact hs

theorem only_holdoverFree {W : Nat} {s0 : State} (hW : Sub 0x440000000044 W)  {n : Nat} {s : State} (hs : Only W s0 s) :
    Only W s0 (holdoverFree n s) := by
  unfold holdoverFree
  extract_lets +onlyGivenNames -merge -useContext -underBinder x1
  refine only_ite ?_ ?_
  · exact only_setPortState (sub_trans rfl hW) (only_setLoop (sub_trans rfl hW) hs)
  · exact hs

theorem only_holdoverCount {W : Nat} {s0 : State} (hW : Sub 0x40 W)  {n : Nat} {s : State} (hs : Only W s0 s) :
    Only W s0 (holdoverCount n s) := by
  unfold holdoverCount
  extract_lets +onlyGivenNames -merge -useContext -underBinder x1
  refine only_ite ?_ ?_
  · exact only_State_setPort (sub_trans rfl hW) hs
  · exact hs

theorem only_correctAdvance {W : Nat} {s0 : State} (hW : Sub 0x40000000044 W)  {n : Nat} {s : State} (hs : Only W s0 s) :
    Only W s0 (correctAdvance n s) := by
  unfold correctAdvance
  extract_lets +onlyGivenNames -merge -useContext -underBinder x1
  extract_lets +onlyGivenNames -merge -useContext -underBinder x2
  extract_lets +onlyGivenNames -merge -useContext -underBinder x3
  extract_lets +onlyGivenNames -merge -useContext -underBinder x4
  extract_lets +onlyGivenNames -merge -useContext -underBinder x5
  have hx5 : Only W s0 (x5) := only_State_setPort (sub_trans rfl hW) hs
  try clear_value x5
  refine only_ite ?_ ?_
  · exact only_setRate (sub_trans rfl hW) hx5
  · refine only_ite ?_ ?_
    · exact only_setRate (sub_trans rfl hW) hx5
    · exact hx5

theorem only_portAdvance {W : Nat} {s0 : State} (hW : Sub 0x60000000044 W)  {n : Nat} {s : State} (hs : Only W s0 s) :
    Only W s0 (portAdvance n s) := by
  unfold portAdvance
  extract_lets +onlyGivenNames -merge -useContext -underBinder x1
  refine only_ite ?_ ?_
  · exact hs
  · extract_lets +onlyGivenNames -merge -useContext -underBinder x2
    extract_lets +onlyGivenNames -merge -useContext -underBinder x3
    extract_lets +onlyGivenNames -merge -useContext -underBinder x4
    extract_lets +onlyGivenNames -merge -useContext -underBinder x5
    extract_lets +onlyGivenNames -merge -useContext -underBinder x6
    extract_lets +onlyGivenNames -merge -useContext -underBinder x7
    extract_lets +onlyGivenNames -merge -useContext -underBinder x8
    extract_lets +onlyGivenNames -merge -useContext -underBinder x9
    extract_lets +onlyGivenNames -merge -useContext -underBinder x10
    extract_lets +onlyGivenNames -merge -useContext -underBinder x11
    have hx11 : Only W s0 (x11) := only_State_setR (sub_trans rfl hW) hs
    try clear_value x11
    extract_lets +onlyGivenNames -merge -useContext -underBinder x12
    have hx12 : Only W s0 (x12) := only_State_setPort (sub_trans rfl hW) hx11
    try clear_value x12
    exact only_correctAdvance (sub_trans rfl hW) hx12

theorem only_portEvents {W : Nat} {s0 : State} (hW : Sub 0x440000000044 W)  {n : Nat} {s : State} (hs : Only W s0 s) :
    Only W s0 (portEvents n s) := by
  unfold portEvents
  refine only_holdoverFree (sub_trans rfl hW) ?_
  refine only_holdoverCount (sub_trans rfl hW) ?_
  exact only_lossExpiry (sub_trans rfl hW) (only_slewFinish (sub_trans rfl hW) (only_holdEnd (sub_trans rfl hW) hs))

theorem only_phsCycle {W : Nat} {s0 : State} (hW : Sub 0x4400000000000000000000000000000000000000880384610080203cc W)   {s : State} (hs : Only W s0 s) :
    Only W s0 (phsCycle s) := by
  unfold phsCycle
  refine only_ite ?_ ?_
  · exact hs
  · refine only_ite ?_ ?_
    · exact only_State_setR (sub_trans rfl hW) hs
    · extract_lets +onlyGivenNames -merge -useContext -underBinder x1
      extract_lets +onlyGivenNames -merge -useContext -underBinder x2
      have hx2 : Only W s0 (x2) := by
        unfold x2
        refine only_iter (fun x t ht => ?_) ?_
        · refine only_portEvents (sub_trans rfl hW) ?_
          assumption
        · exact hs
      try clear_value x2
      extract_lets +onlyGivenNames -merge -useContext -underBinder x3
      have hx3 : Only W s0 (x3) := by
        unfold x3
        refine only_iter (fun x t ht => ?_) ?_
        · refine only_portAdvance (sub_trans rfl hW) ?_
          assumption
        · exact hx2
      try clear_value x3
      extract_lets +onlyGivenNames -merge -useContext -underBinder x4
      have hx4 : Only W s0 (x4) := only_State_setR (sub_trans rfl hW) hx3
      try clear_value x4
      extract_lets +onlyGivenNames -merge -useContext -underBinder x5
      have hx5 : Only W s0 (x5) := only_settleAll (sub_trans rfl hW) hx4
      try clear_value x5
      refine only_dueFill (sub_trans rfl hW) ?_
      refine only_iter (fun x t ht => ?_) ?_
      · refine only_dueServiceWhere (sub_trans rfl hW) ?_
        assumption
      · exact hx5

theorem only_State_setReplica {W : Nat} {s0 : State} (hW : Sub 0x40 W)  {n : Nat} {x : Replica} {s : State} (hs : Only W s0 s) :
    Only W s0 (State.setReplica s n x) := by
  unfold State.setReplica
  refine only_replicas (sub_trans rfl hW) ?_ _
  exact hs

theorem only_replicaBad {W : Nat} {s0 : State} (hW : Sub 0x40 W)  {n : Nat} {s : State} (hs : Only W s0 s) :
    Only W s0 (replicaBad n s) := by
  unfold replicaBad
  exact only_State_setReplica (sub_trans rfl hW) hs

theorem only_replicaGood {W : Nat} {s0 : State} (hW : Sub 0x2000000044 W)  {n : Nat} {s : State} (hs : Only W s0 s) :
    Only W s0 (replicaGood n s) := by
  unfold replicaGood
  extract_lets +onlyGivenNames -merge -useContext -underBinder x1
  extract_lets +onlyGivenNames -merge -useContext -underBinder x2
  have hx2 : Only W s0 (x2) := only_State_setReplica (sub_trans rfl hW) hs
  try clear_value x2
  exact only_State_setFbit (sub_trans rfl hW) hx2

theorem only_replicaLost {W : Nat} {s0 : State} (hW : Sub 0x2000000004 W)  {n : Nat} {s : State} (hs : Only W s0 s) :
    Only W s0 (replicaLost n s) := by
  unfold replicaLost
  refine only_ite ?_ ?_
  · exact only_State_setFbit (sub_trans rfl hW) (only_State_setFbit (sub_trans rfl hW) hs)
  · exact hs

theorem only_execPortEnable {W : Nat} {s0 : State} (hW : Sub 0xe00000070000000000000000000000000880384640000003ec W)  {a : Access} {n : Nat} {v : Word} {s : State} (hs : Only W s0 s) :
    OnlyOut W s0 (execPortEnable a n v s) := by
  unfold execPortEnable
  refine only_next ?_
  refine only_guarded (sub_trans rfl hW) ?_ ?_
  · intro y1 hy1
    exact only_portCfgWrite (sub_trans rfl hW) hy1
  · exact hs

theorem only_execPortDisable {W : Nat} {s0 : State} (hW : Sub 0xe00000070000000000000000000000000880384640000003ec W)  {a : Access} {n : Nat} {v : Word} {s : State} (hs : Only W s0 s) :
    OnlyOut W s0 (execPortDisable a n v s) := by
  unfold execPortDisable
  refine only_next ?_
  refine only_guarded (sub_trans rfl hW) ?_ ?_
  · intro y1 hy1
    exact only_portCfgWrite (sub_trans rfl hW) hy1
  · exact hs

theorem only_execRestart {W : Nat} {s0 : State} (hW : Sub 0xe00000070000000000000000000000000880384600000003ec W)  {a : Access} {n : Nat} {s : State} (hs : Only W s0 s) :
    OnlyOut W s0 (execRestart a n s) := by
  unfold execRestart
  refine only_next ?_
  refine only_guarded (sub_trans rfl hW) ?_ ?_
  · intro y1 hy1
    exact only_portRestart (sub_trans rfl hW) hy1
  · exact hs

theorem only_execForceHoldover {W : Nat} {s0 : State} (hW : Sub 0xe0000007000000000000000000000000000000440000000064 W)  {a : Access} {n : Nat} {s : State} (hs : Only W s0 s) :
    OnlyOut W s0 (execForceHoldover a n s) := by
  unfold execForceHoldover
  refine only_next ?_
  refine only_guarded (sub_trans rfl hW) ?_ ?_
  · intro y1 hy1
    exact only_portForceHoldover (sub_trans rfl hW) hy1
  · exact hs

theorem only_execResync {W : Nat} {s0 : State} (hW : Sub 0xe00000070000000000000000000000000880384600000003ec W)  {a : Access} {n : Nat} {s : State} (hs : Only W s0 s) :
    OnlyOut W s0 (execResync a n s) := by
  unfold execResync
  refine only_next ?_
  refine only_guarded (sub_trans rfl hW) ?_ ?_
  · intro y1 hy1
    exact only_portResync (sub_trans rfl hW) hy1
  · exact hs

theorem only_execPulseEdge {W : Nat} {s0 : State} (hW : Sub 0x88039f600000003ce W)  {n : Nat} {ts : Word} {rising : Bool} {stable : Nat} {s : State} (hs : Only W s0 s) :
    OnlyOut W s0 (execPulseEdge n ts rising stable s) := by
  unfold execPulseEdge
  refine only_next ?_
  refine only_ite ?_ ?_
  · exact only_portEdge (sub_trans rfl hW) hs
  · exact hs

theorem only_execStepHoldEnd {W : Nat} {s0 : State} (hW : Sub 0x40000000044 W)  {n : Nat} {s : State} (hs : Only W s0 s) :
    OnlyOut W s0 (execStepHoldEnd n s) := by
  unfold execStepHoldEnd
  exact only_next (only_holdEnd (sub_trans rfl hW) hs)

theorem only_execLossWindowExpiry {W : Nat} {s0 : State} (hW : Sub 0x440000000044 W)  {n : Nat} {s : State} (hs : Only W s0 s) :
    OnlyOut W s0 (execLossWindowExpiry n s) := by
  unfold execLossWindowExpiry
  exact only_next (only_lossExpiry (sub_trans rfl hW) hs)

theorem only_execHoldoverToFree {W : Nat} {s0 : State} (hW : Sub 0x440000000044 W)  {n : Nat} {s : State} (hs : Only W s0 s) :
    OnlyOut W s0 (execHoldoverToFree n s) := by
  unfold execHoldoverToFree
  exact only_next (only_holdoverFree (sub_trans rfl hW) hs)

theorem only_execHoldoverCycleCrossing {W : Nat} {s0 : State} (hW : Sub 0x40 W)  {n : Nat} {s : State} (hs : Only W s0 s) :
    OnlyOut W s0 (execHoldoverCycleCrossing n s) := by
  unfold execHoldoverCycleCrossing
  exact only_next (only_holdoverCount (sub_trans rfl hW) hs)

theorem only_execEncoderCountEdge {W : Nat} {s0 : State} (hW : Sub 0x880385600000003ce W)  {n : Nat} {ts : Word} {onA : Bool} {rising : Bool} {other : Bool} {stable : Nat} {s : State} (hs : Only W s0 s) :
    OnlyOut W s0 (execEncoderCountEdge n ts onA rising other stable s) := by
  unfold execEncoderCountEdge
  extract_lets +onlyGivenNames -merge -useContext -underBinder x1
  extract_lets +onlyGivenNames -merge -useContext -underBinder x2
  refine only_next ?_
  refine only_ite ?_ ?_
  · exact hs
  · refine only_ite ?_ ?_
    · exact only_encEdgeLocked (sub_trans rfl hW) hs
    · refine only_ite ?_ ?_
      · exact only_encEdgeRelock (sub_trans rfl hW) hs
      · exact hs

theorem only_execIllegalTransition {W : Nat} {s0 : State} (hW : Sub 0x440000000044 W)  {n : Nat} {s : State} (hs : Only W s0 s) :
    OnlyOut W s0 (execIllegalTransition n s) := by
  unfold execIllegalTransition
  exact only_next (only_encIllegal (sub_trans rfl hW) hs)

theorem only_execLineFault {W : Nat} {s0 : State} (hW : Sub 0x440000000044 W)  {n : Nat} {s : State} (hs : Only W s0 s) :
    OnlyOut W s0 (execLineFault n s) := by
  unfold execLineFault
  exact only_next (only_encIllegal (sub_trans rfl hW) hs)

theorem only_execZEdge {W : Nat} {s0 : State} (hW : Sub 0x880384200000003ce W)  {n : Nat} {stable : Nat} {s : State} (hs : Only W s0 s) :
    OnlyOut W s0 (execZEdge n stable s) := by
  unfold execZEdge
  refine only_next ?_
  refine only_ite ?_ ?_
  · exact only_encZ (sub_trans rfl hW) hs
  · exact hs

theorem only_execTodArm {W : Nat} {s0 : State} (hW : Sub 0xe0000007000000000000000000000000000000800000000064 W)  {a : Access} {n : Nat} {v : Word} {s : State} (hs : Only W s0 s) :
    OnlyOut W s0 (execTodArm a n v s) := by
  unfold execTodArm
  refine only_next ?_
  refine only_guarded (sub_trans rfl hW) ?_ ?_
  · intro y1 hy1
    exact only_portTodWrite (sub_trans rfl hW) hy1
  · exact hs

theorem only_execPhaseBroadcast {W : Nat} {s0 : State} (hW : Sub 0x48 W)   {s : State} (hs : Only W s0 s) :
    OnlyOut W s0 (execPhaseBroadcast s) := by
  unfold execPhaseBroadcast
  refine only_next ?_
  refine only_iter (fun x t ht => ?_) ?_
  · refine only_ite ?_ ?_
    · refine only_State_send (sub_trans rfl hW) ?_
      assumption
    · refine only_replicaBad (sub_trans rfl hW) ?_
      assumption
  · exact hs

theorem only_execPhaseBroadcastReceive {W : Nat} {s0 : State} (hW : Sub 0x400000008000000000000000000200000004c W)  {d : Nat} {good : Bool} {s : State} (hs : Only W s0 s) :
    OnlyOut W s0 (execPhaseBroadcastReceive d good s) := by
  unfold execPhaseBroadcastReceive
  refine only_next ?_
  refine only_ite ?_ ?_
  · extract_lets +onlyGivenNames -merge -useContext -underBinder x1
    have hx1 : Only W s0 (x1) := only_State_take (sub_trans rfl hW) hs
    try clear_value x1
    refine only_ite ?_ ?_
    · exact only_replicaGood (sub_trans rfl hW) hx1
    · exact only_State_satInc (sub_trans rfl hW) (only_replicaBad (sub_trans rfl hW) hx1)
  · exact hs

theorem only_execSlewEnd {W : Nat} {s0 : State} (hW : Sub 0x40000000044 W)  {n : Nat} {s : State} (hs : Only W s0 s) :
    OnlyOut W s0 (execSlewEnd n s) := by
  unfold execSlewEnd
  exact only_next (only_slewFinish (sub_trans rfl hW) hs)

theorem only_execCalendarMatch {W : Nat} {s0 : State} (hW : Sub 0x803800000000018c W)  {e : Nat} {s : State} (hs : Only W s0 s) :
    OnlyOut W s0 (execCalendarMatch e s) := by
  unfold execCalendarMatch
  exact only_next (only_calMatchOne (sub_trans rfl hW) hs)

theorem only_execCalendarEnable {W : Nat} {s0 : State} (hW : Sub 0xe000000700000000000000000000000008803c0000000003ec W)  {a : Access} {v : Word} {s : State} (hs : Only W s0 s) :
    OnlyOut W s0 (execCalendarEnable a v s) := by
  unfold execCalendarEnable
  refine only_next ?_
  refine only_guarded (sub_trans rfl hW) ?_ ?_
  · intro y1 hy1
    exact only_calCtrlWrite (sub_trans rfl hW) hy1
  · exact hs

theorem only_execCalendarDisable {W : Nat} {s0 : State} (hW : Sub 0xe000000700000000000000000000000008803c0000000003ec W)  {a : Access} {v : Word} {s : State} (hs : Only W s0 s) :
    OnlyOut W s0 (execCalendarDisable a v s) := by
  unfold execCalendarDisable
  refine only_next ?_
  refine only_guarded (sub_trans rfl hW) ?_ ?_
  · intro y1 hy1
    exact only_calCtrlWrite (sub_trans rfl hW) hy1
  · exact hs

theorem only_execDueQueueService {W : Nat} {s0 : State} (hW : Sub 0x44000000000000000000000000000000000000000003800000802008c W)   {s : State} (hs : Only W s0 s) :
    OnlyOut W s0 (execDueQueueService s) := by
  unfold execDueQueueService
  refine only_next ?_
  refine only_iter (fun x t ht => ?_) ?_
  · refine only_dueServiceOne (sub_trans rfl hW) ?_
    assumption
  · exact hs

theorem only_execPendingFiringEnqueue {W : Nat} {s0 : State} (hW : Sub 0x8000000000084 W)   {s : State} (hs : Only W s0 s) :
    OnlyOut W s0 (execPendingFiringEnqueue s) := by
  unfold execPendingFiringEnqueue
  exact only_next (only_heldEnqueue (sub_trans rfl hW) hs)

theorem only_execCalEditRead {W : Nat} {s0 : State} (hW : Sub 0xe0000007000000000000000000000000002f00000000000024 W)  {a : Access} {k : Nat} {s : State} (hs : Only W s0 s) :
    OnlyOut W s0 (execCalEditRead a k s) := by
  unfold execCalEditRead
  refine only_next ?_
  refine only_guarded (sub_trans rfl hW) ?_ ?_
  · intro y1 hy1
    exact only_editRead (sub_trans rfl hW) hy1
  · exact hs

theorem only_execCalEditWrite {W : Nat} {s0 : State} (hW : Sub 0xe00000070000000000000000000000000020000000000000a4 W)  {a : Access} {k : Nat} {s : State} (hs : Only W s0 s) :
    OnlyOut W s0 (execCalEditWrite a k s) := by
  unfold execCalEditWrite
  refine only_next ?_
  refine only_guarded (sub_trans rfl hW) ?_ ?_
  · intro y1 hy1
    exact only_editWrite (sub_trans rfl hW) hy1
  · exact hs

theorem only_execCalEditDisarm {W : Nat} {s0 : State} (hW : Sub 0xe00000070000000000000000000000000020000000000000a4 W)  {a : Access} {k : Nat} {s : State} (hs : Only W s0 s) :
    OnlyOut W s0 (execCalEditDisarm a k s) := by
  unfold execCalEditDisarm
  refine only_next ?_
  refine only_guarded (sub_trans rfl hW) ?_ ?_
  · intro y1 hy1
    exact only_editDisarm (sub_trans rfl hW) hy1
  · exact hs

theorem only_execCalEditDisarmPurge {W : Nat} {s0 : State} (hW : Sub 0xe00000070000000000000000000000000020080000000000a4 W)  {a : Access} {k : Nat} {s : State} (hs : Only W s0 s) :
    OnlyOut W s0 (execCalEditDisarmPurge a k s) := by
  unfold execCalEditDisarmPurge
  refine only_next ?_
  refine only_guarded (sub_trans rfl hW) ?_ ?_
  · intro y1 hy1
    exact only_editPurge (sub_trans rfl hW) hy1
  · exact hs

theorem only_execBlockCancel {W : Nat} {s0 : State} (hW : Sub 0xe00000070000000000000000000000000000480000000000a4 W)  {a : Access} {b : Nat} {v : Word} {s : State} (hs : Only W s0 s) :
    OnlyOut W s0 (execBlockCancel a b v s) := by
  unfold execBlockCancel
  refine only_next ?_
  refine only_guarded (sub_trans rfl hW) ?_ ?_
  · intro y1 hy1
    exact only_calBlockWrite (sub_trans rfl hW) hy1
  · exact hs

theorem only_execBlockEnable {W : Nat} {s0 : State} (hW : Sub 0xe00000070000000000000000000000000000480000000000a4 W)  {a : Access} {b : Nat} {v : Word} {s : State} (hs : Only W s0 s) :
    OnlyOut W s0 (execBlockEnable a b v s) := by
  unfold execBlockEnable
  refine only_next ?_
  refine only_guarded (sub_trans rfl hW) ?_ ?_
  · intro y1 hy1
    exact only_calBlockWrite (sub_trans rfl hW) hy1
  · exact hs

theorem only_execCancellationStart {W : Nat} {s0 : State} (hW : Sub 0x8000000000084 W)   {s : State} (hs : Only W s0 s) :
    OnlyOut W s0 (execCancellationStart s) := by
  unfold execCancellationStart
  exact only_next (only_cancelStart (sub_trans rfl hW) hs)

theorem only_execCancellationDone {W : Nat} {s0 : State} (hW : Sub 0x48000000000184 W)   {s : State} (hs : Only W s0 s) :
    OnlyOut W s0 (execCancellationDone s) := by
  unfold execCancellationDone
  exact only_next (only_cancelDone (sub_trans rfl hW) hs)

theorem only_execTioEdgePlace {W : Nat} {s0 : State} (hW : Sub 0x8000000000000106 W)  {i : Nat} {s : State} (hs : Only W s0 s) :
    OnlyOut W s0 (execTioEdgePlace i s) := by
  unfold execTioEdgePlace
  exact only_next (only_pinPlace (sub_trans rfl hW) hs)

theorem only_execPulseTrailingEdge {W : Nat} {s0 : State} (hW : Sub 0x8000000000000106 W)  {i : Nat} {s : State} (hs : Only W s0 s) :
    OnlyOut W s0 (execPulseTrailingEdge i s) := by
  unfold execPulseTrailingEdge
  exact only_next (only_pinTrail (sub_trans rfl hW) hs)

theorem only_execForceLow {W : Nat} {s0 : State} (hW : Sub 0xe0000007000000000000000000000000008000000000000126 W)  {a : Access} {i : Nat} {s : State} (hs : Only W s0 s) :
    OnlyOut W s0 (execForceLow a i s) := by
  unfold execForceLow
  refine only_next ?_
  refine only_guarded (sub_trans rfl hW) ?_ ?_
  · intro y1 hy1
    exact only_pinForce (sub_trans rfl hW) hy1
  · exact hs

theorem only_execForceHigh {W : Nat} {s0 : State} (hW : Sub 0xe0000007000000000000000000000000008000000000000126 W)  {a : Access} {i : Nat} {s : State} (hs : Only W s0 s) :
    OnlyOut W s0 (execForceHigh a i s) := by
  unfold execForceHigh
  refine only_next ?_
  refine only_guarded (sub_trans rfl hW) ?_ ?_
  · intro y1 hy1
    exact only_pinForce (sub_trans rfl hW) hy1
  · exact hs

theorem only_execForceToggle {W : Nat} {s0 : State} (hW : Sub 0xe0000007000000000000000000000000008000000000000126 W)  {a : Access} {i : Nat} {s : State} (hs : Only W s0 s) :
    OnlyOut W s0 (execForceToggle a i s) := by
  unfold execForceToggle
  refine only_next ?_
  refine only_guarded (sub_trans rfl hW) ?_ ?_
  · intro y1 hy1
    exact only_pinForce (sub_trans rfl hW) hy1
  · exact hs

theorem only_execPinModeOutput {W : Nat} {s0 : State} (hW : Sub 0xe000000700000000000000000000000000c000000000000126 W)  {a : Access} {i : Nat} {v : Word} {level : Bool} {s : State} (hs : Only W s0 s) :
    OnlyOut W s0 (execPinModeOutput a i v level s) := by
  unfold execPinModeOutput
  refine only_next ?_
  refine only_guarded (sub_trans rfl hW) ?_ ?_
  · intro y1 hy1
    exact only_pinCfgWrite (sub_trans rfl hW) hy1
  · exact hs

theorem only_execPinModeOffCapture {W : Nat} {s0 : State} (hW : Sub 0xe000000700000000000000000000000000c000000000000126 W)  {a : Access} {i : Nat} {v : Word} {s : State} (hs : Only W s0 s) :
    OnlyOut W s0 (execPinModeOffCapture a i v s) := by
  unfold execPinModeOffCapture
  refine only_next ?_
  refine only_guarded (sub_trans rfl hW) ?_ ?_
  · intro y1 hy1
    exact only_State_bump (sub_trans rfl hW) (only_pinCfgWrite (sub_trans rfl hW) hy1)
  · exact hs

theorem only_execCaptureEdge {W : Nat} {s0 : State} (hW : Sub 0x8000000000000106 W)  {i : Nat} {ts : Word} {rising : Bool} {s : State} (hs : Only W s0 s) :
    OnlyOut W s0 (execCaptureEdge i ts rising s) := by
  unfold execCaptureEdge
  exact only_next (only_pinCapture (sub_trans rfl hW) hs)

theorem only_execCapTbRead {W : Nat} {s0 : State} (hW : Sub 0xe0000007000000000000000000000000048000000000000124 W)  {a : Access} {i : Nat} {s : State} (hs : Only W s0 s) :
    OnlyOut W s0 (execCapTbRead a i s) := by
  unfold execCapTbRead
  refine only_next ?_
  refine only_guarded (sub_trans rfl hW) ?_ ?_
  · intro y1 hy1
    exact only_pinCapRead (sub_trans rfl hW) hy1
  · exact hs

end Sys2Proof.Machine
end

