-- ==== Sys2Proof/Laws/KeepMemory.lean ====
section
/-! SUPPORT. What the definitions of Machine/Memory.lean leave alone: one lemma for each that answers a state. -/
namespace Sys2Proof.Machine

theorem only_dramHalf {W : Nat} {s0 : State} (hW : Sub 0x4000000000000000000000000000000000000000000000000000000000000000000010 W)  {a : Nat} {ha : Nat} {d : Line} {p : BitVec 2} {s : State} (hs : Only W s0 s) :
    Only W s0 (dramHalf a ha d p s) := by
  unfold dramHalf
  extract_lets +onlyGivenNames -merge -useContext -underBinder x1
  extract_lets +onlyGivenNames -merge -useContext -underBinder x2
  have hx2 : Only W s0 (x2) := only_State_setBytes (sub_trans rfl hW) hs
  try clear_value x2
  refine only_ite ?_ ?_
  · exact hx2
  · exact only_State_setBytes (sub_trans rfl hW) hx2

theorem only_dramPut {W : Nat} {s0 : State} (hW : Sub 0x4000000000000000000000000000000000000000000000000000000000000000000010 W)  {e : WrEntry} {s : State} (hs : Only W s0 s) :
    Only W s0 (dramPut e s) := by
  unfold dramPut
  extract_lets +onlyGivenNames -merge -useContext -underBinder x1
  have hx1 : Only W s0 (x1) := by
    unfold x1
    refine only_ite ?_ ?_
    · exact only_dramHalf (sub_trans rfl hW) hs
    · exact hs
  try clear_value x1
  refine only_ite ?_ ?_
  · exact only_dramHalf (sub_trans rfl hW) hx1
  · exact hx1

theorem only_logCount {W : Nat} {s0 : State} (hW : Sub 0x10000000000000000000000004 W)   {s : State} (hs : Only W s0 s) :
    Only W s0 (logCount s) := by
  unfold logCount
  exact only_State_setF (sub_trans rfl hW) hs

theorem only_eccLog {W : Nat} {s0 : State} (hW : Sub 0x302000000000000000000000000000000000000000d0000000000000000000000006 W)  {a : Nat} {ty : Nat} {src : Nat} {test : Bool} {pos : Nat} {s : State} (hs : Only W s0 s) :
    Only W s0 (eccLog a ty src test pos s) := by
  unfold eccLog
  extract_lets +onlyGivenNames -merge -useContext -underBinder x1
  extract_lets +onlyGivenNames -merge -useContext -underBinder x2
  try clear_value x2
  split
  · extract_lets +onlyGivenNames -merge -useContext -underBinder x3
    have hx3 : Only W s0 (x3) := only_State_satInc (sub_trans rfl hW) hs
    try clear_value x3
    refine only_ite ?_ ?_
    · exact only_State_bump (sub_trans rfl hW) (only_propose (sub_trans rfl hW) hx3)
    · exact hx3
  · split
    · exact only_State_setB (sub_trans rfl hW) hs
    · extract_lets +onlyGivenNames -merge -useContext -underBinder x4
      have hx4 : Only W s0 (x4) := only_State_setR (sub_trans rfl hW) hs
      try clear_value x4
      extract_lets +onlyGivenNames -merge -useContext -underBinder x5
      have hx5 : Only W s0 (x5) := by
        unfold x5
        refine only_State_setF (sub_trans rfl hW) ?_
        exact only_State_setB (sub_trans rfl hW) (only_State_setB (sub_trans rfl hW) hx4)
      try clear_value x5
      exact only_logCount (sub_trans rfl hW) (only_State_setR (sub_trans rfl hW) hx5)

theorem only_ceCount {W : Nat} {s0 : State} (hW : Sub 0x30000000000000000000000004 W)  {k : Nat} {test : Bool} {s : State} (hs : Only W s0 s) :
    Only W s0 (ceCount k test s) := by
  unfold ceCount
  extract_lets +onlyGivenNames -merge -useContext -underBinder x1
  have hx1 : Only W s0 (x1) := only_State_satInc (sub_trans rfl hW) hs
  try clear_value x1
  refine only_ite ?_ ?_
  · exact hx1
  · extract_lets +onlyGivenNames -merge -useContext -underBinder x2
    extract_lets +onlyGivenNames -merge -useContext -underBinder x3
    have hx3 : Only W s0 (x3) := only_State_satInc (sub_trans rfl hW) hx1
    try clear_value x3
    extract_lets +onlyGivenNames -merge -useContext -underBinder x4
    extract_lets +onlyGivenNames -merge -useContext -underBinder x5
    refine only_ite ?_ ?_
    · exact only_State_setFbit (sub_trans rfl hW) hx3
    · exact hx3

theorem only_eccFound {W : Nat} {s0 : State} (hW : Sub 0x302000000000000000000000000000000000000000f0000000000000000040000006 W)  {a : Nat} {src : Nat} {f : Finding} {s : State} (hs : Only W s0 s) :
    Only W s0 (eccFound a src f s) := by
  unfold eccFound
  extract_lets +onlyGivenNames -merge -useContext -underBinder x1
  split
  · exact hs
  · exact hs
  · exact only_ceCount (sub_trans rfl hW) (only_eccLog (sub_trans rfl hW) hs)
  · extract_lets +onlyGivenNames -merge -useContext -underBinder x2
    have hx2 : Only W s0 (x2) := only_State_satInc (sub_trans rfl hW) (only_eccLog (sub_trans rfl hW) hs)
    try clear_value x2
    extract_lets +onlyGivenNames -merge -useContext -underBinder x3
    have hx3 : Only W s0 (x3) := only_State_setB (sub_trans rfl hW) hx2
    try clear_value x3
    exact only_report (sub_trans rfl hW) hx3

theorem only_mcBurst {W : Nat} {s0 : State} (hW : Sub 0x4000000000000000000000000000000000000000000000200000000000000000002014 W)  {e : WrEntry} {s : State} (hs : Only W s0 s) :
    Only W s0 (mcBurst e s) := by
  unfold mcBurst
  refine only_dramPut (sub_trans rfl hW) ?_
  refine only_State_setFbit (sub_trans rfl hW) ?_
  refine only_wrq (sub_trans rfl hW) ?_ _
  exact hs

theorem only_poisonLost {W : Nat} {s0 : State} (hW : Sub 0x302000000000000000000000000000000000000000d0000000000000000000000006 W)  {a : Nat} {ha : Nat} {p : BitVec 2} {s : State} (hs : Only W s0 s) :
    Only W s0 (poisonLost a ha p s) := by
  unfold poisonLost
  refine only_ite ?_ ?_
  · exact only_eccLog (sub_trans rfl hW) (only_State_setB (sub_trans rfl hW) hs)
  · exact hs

theorem only_mcPut_all {W : Nat} {s0 : State} (hW : Sub 0x40302000000000000000000000000000000000000000d0200000000000000000002016 W)  {a : Nat} {d : Line} {p : BitVec 2} {halves : BitVec 2} {s : State} (hs : Only W s0 s) :
    Only W s0 (mcPut a d p halves s) := by
  unfold mcPut
  extract_lets +onlyGivenNames -merge -useContext -underBinder x1
  extract_lets +onlyGivenNames -merge -useContext -underBinder x2
  extract_lets +onlyGivenNames -merge -useContext -underBinder x3
  have hx3 : Only W s0 (x3) := by
    unfold x3
    refine only_ite ?_ ?_
    · exact only_poisonLost (sub_trans rfl hW) (only_poisonLost (sub_trans rfl hW) hs)
    · exact hs
  try clear_value x3
  extract_lets +onlyGivenNames -merge -useContext -underBinder x4
  extract_lets +onlyGivenNames -merge -useContext -underBinder x5
  have hx5 : Only W s0 (x5) := by
    unfold x5
    refine only_ite ?_ ?_
    · refine only_initWb (sub_trans rfl hW) ?_ _
      exact hx3
    · exact hx3
  try clear_value x5
  extract_lets +onlyGivenNames -merge -useContext -underBinder x6
  have hx6 : Only W s0 (x6) := only_State_setFbit (sub_trans rfl hW) hx5
  try clear_value x6
  split
  · refine only_wrq (sub_trans rfl hW) ?_ _
    exact hx6
  · extract_lets +onlyGivenNames -merge -useContext -underBinder x7
    have hx7 : Only W s0 (x7) := by
      unfold x7
      split
      · exact only_mcBurst (sub_trans rfl hW) hx6
      · exact hx6
    try clear_value x7
    refine only_wrq (sub_trans rfl hW) ?_ _
    exact hx7

theorem lineOf_lineOf (a : Nat) : lineOf (lineOf a) = lineOf a := by unfold lineOf; omega

theorem writeRoom_append {s : State} {e : WrEntry} (r : WriteRoom { s with wrq := s.wrq ++ [e] }) : WriteRoom s := fun k u => by
  have := r k u
  simp only [List.countP_append] at this
  omega

/-- A full write queue stays full: the entry that bursts makes room for the new one alone. -/
theorem not_writeRoom_burst {s : State} {e x : WrEntry} {a : Nat} (ha : e.addr = a)
    (full : 64 ≤ s.wrq.countP fun y => mcOf y.addr == mcOf a && mcSub y.addr == mcSub a)
    {t : State} (ht : t.wrq = s.wrq.erase x ++ [e]) : ¬WriteRoom t := fun r => by
  have h := r (mcOf a) (mcSub a)
  rw [ht, List.countP_append] at h
  have h1 : ([e].countP fun y => mcOf y.addr == mcOf a && mcSub y.addr == mcSub a) = 1 := by simp [ha]
  have h2 : (s.wrq.countP fun y => mcOf y.addr == mcOf a && mcSub y.addr == mcSub a) - 1 ≤
      (s.wrq.erase x).countP fun y => mcOf y.addr == mcOf a && mcSub y.addr == mcSub a := by
    rw [List.countP_erase]
    split <;> omega
  omega

theorem mcBurst_wrq (x : WrEntry) (s : State) : (mcBurst x s).wrq = s.wrq.erase x := by
  have hb (t : State) (a n v : Nat) : (t.setBytes a n v).wrq = t.wrq := by
    induction n generalizing t a v with
    | zero => rfl
    | succ n ih => exact (ih ..)
  have hh (t : State) (a h : Nat) (d : Line) (p : BitVec 2) : (dramHalf a h d p t).wrq = t.wrq := by
    unfold dramHalf; dsimp only; split <;> simp only [hb]
  unfold mcBurst dramPut
  dsimp only
  split <;> split <;> first | rfl | (simp only [hh]; done) | (simp only [hh]; rfl)

theorem mcBurst_testRun (x : WrEntry) (s : State) : (mcBurst x s).testRun = s.testRun := by
  have hb (t : State) (a n v : Nat) : (t.setBytes a n v).testRun = t.testRun := by
    induction n generalizing t a v with
    | zero => rfl
    | succ n ih => exact (ih ..)
  have hh (t : State) (a h : Nat) (d : Line) (p : BitVec 2) : (dramHalf a h d p t).testRun = t.testRun := by
    unfold dramHalf; dsimp only; split <;> simp only [hb]
  unfold mcBurst dramPut
  dsimp only
  split <;> split <;> first | rfl | (simp only [hh]; done) | (simp only [hh]; rfl)

/-- A write into the queue lets a raw access be, and where it leaves room in every queue it has changed no byte. -/
theorem mcPut_room {a : Nat} {d : Line} {p halves : BitVec 2} {s : State} (e0 : s.testRun = none) :
    (mcPut a d p halves s).testRun = none ∧
      (WriteRoom (mcPut a d p halves s) → WriteRoom s ∧ (mcPut a d p halves s).mem = s.mem) := by
  let good (u : State) : Prop := u.testRun = none ∧ (WriteRoom u → WriteRoom s ∧ u.mem = s.mem)
  show good (mcPut a d p halves s)
  unfold mcPut
  extract_lets b x2 s1 e s2 s3 s4
  have h1 : Only 0x302000000000000000000000000000000000000000d0200000000000000000002006 s s1 :=
    only_ite (only_poisonLost (by unfold Sub; rfl) (only_poisonLost (by unfold Sub; rfl) (Only.refl _ _))) (Only.refl _ _)
  have h2 : Only 0x302000000000000000000000000000000000000000d0200000000000000000002006 s s2 :=
    only_ite (only_initWb (by unfold Sub; rfl) h1 _) h1
  have h3 : Only 0x302000000000000000000000000000000000000000d0200000000000000000002006 s s3 := only_State_setFbit (by unfold Sub; rfl) h2
  have hb : e.addr = b := rfl
  have hl : lineOf b = b := lineOf_lineOf a
  have key : s4 = s3 ∨ ∃ x, wrFull b s3 = true ∧ s4 = mcBurst x s3 := by
    unfold s4
    split
    · next x hf _ => exact .inr ⟨x, hf, rfl⟩
    · exact .inl rfl
  clear_value s4 s3 s2 e b
  obtain ⟨r3, k3⟩ := h3.1.2 rfl e0
  split
  · next old ho =>
    refine ⟨r3, fun r => k3 fun k u => ?_⟩
    have := r k u
    have hold : old.addr = b := by simpa [hl] using List.find?_some ho
    rw [List.countP_map] at this
    refine lt_of_eq_of_lt (congrArg (fun f => List.countP f s3.wrq) (funext fun y => ?_)) this
    by_cases hy : y = old
    · subst hy
      simp [wrMerged, hold, hb]
    · simp [hy]
  · rcases key with rfl | ⟨x, hf, rfl⟩
    · exact ⟨r3, fun r => k3 (writeRoom_append r)⟩
    · simp only [wrFull, Bool.and_eq_true, decide_eq_true_eq] at hf
      exact ⟨(mcBurst_testRun x s3).trans r3, fun r => absurd r
        (not_writeRoom_burst hb hf.2 (congrArg (· ++ [e]) (mcBurst_wrq x s3)))⟩

theorem only_mcPut {W : Nat} {s0 : State} (hW : Sub 0x302000000000000000000000000000000000000000d0200000000000000000002016 W) {a : Nat} {d : Line} {p halves : BitVec 2} {s : State}
    (hs : Only W s0 s) : Only W s0 (mcPut a d p halves s) := by
  have h := only_mcPut_all (W := W ||| 1 <<< storeBit) (a := a) (d := d) (p := p) (halves := halves) ?_ (hs.mono ?_)
  · refine ⟨⟨h.1.1, fun hw e0 => ?_⟩, fun p hp => h.2.1 p ?_, fun g hg => h.2.2 g ?_⟩
    · obtain ⟨e1, k1⟩ := hs.1.2 hw e0
      obtain ⟨e2, k2⟩ := mcPut_room (a := a) (d := d) (p := p) (halves := halves) e1
      exact ⟨e2, fun r => ⟨(k1 (k2 r).1).1, (k2 r).2.trans (k1 (k2 r).1).2⟩⟩
    · rw [Nat.testBit_or, hp, shift_testBit (by have := part_ctorIdx_lt p; simp only [storeBit]; omega), Bool.or_false]
    · rw [Nat.testBit_or, hg, shift_testBit (by have := g.ctorIdx_lt; simp only [storeBit, Reg.mark]; omega), Bool.or_false]
  · rw [show (0x40302000000000000000000000000000000000000000d0200000000000000000002016 : Nat) = 0x302000000000000000000000000000000000000000d0200000000000000000002016 ||| 1 <<< storeBit from rfl, Sub,
      ← Nat.or_and_distrib_right, show 0x302000000000000000000000000000000000000000d0200000000000000000002016 &&& W = 0x302000000000000000000000000000000000000000d0200000000000000000002016 from hW]
  · apply Nat.eq_of_testBit_eq
    intro i
    rw [Nat.testBit_and, Nat.testBit_or]
    cases W.testBit i <;> rfl

theorem only_mcWrite {W : Nat} {s0 : State} (hW : Sub 0x302000000000000000000000000000000000000000d0200000000000000000002016 W)  {a : Nat} {d : Line} {p : BitVec 2} {s : State} (hs : Only W s0 s) :
    Only W s0 (mcWrite a d p s) := by
  unfold mcWrite
  exact only_mcPut (sub_trans rfl hW) hs

theorem only_halfRead {W : Nat} {s0 : State} (hW : Sub 0x302000000000000000000000000000000000000000f0200000000000000040002016 W)  {a : Nat} {ha : Nat} {src : Nat} {s : State} (hs : Only W s0 s) :
    Only W s0 (halfRead a ha src s).2 := by
  unfold halfRead
  extract_lets +onlyGivenNames -merge -useContext -underBinder x1
  split
  · exact only_snd_mk hs
  · extract_lets +onlyGivenNames -merge -useContext -underBinder x2
    split
    · extract_lets +onlyGivenNames -merge -useContext -underBinder x3
      have hx3 : Only W s0 (x3) := only_eccFound (sub_trans rfl hW) hs
      try clear_value x3
      extract_lets +onlyGivenNames -merge -useContext -underBinder x4
      extract_lets +onlyGivenNames -merge -useContext -underBinder x5
      refine only_snd_mk ?_
      refine only_ite ?_ ?_
      · exact only_mcPut (sub_trans rfl hW) hx3
      · exact hx3

theorem only_mcRead {W : Nat} {s0 : State} (hW : Sub 0x302000000000000000000000000000000000000000f0200000000000000040002016 W)  {a : Nat} {src : Nat} {s : State} (hs : Only W s0 s) :
    Only W s0 (mcRead a src s).2 := by
  unfold mcRead
  split
  · rename_i e1
    replace e1 := congrArg Prod.snd e1
    dsimp only at e1
    refine only_of_eq (W := W) (s0 := s0) e1 ?_ (fun k2 => ?_)
    · exact only_halfRead (sub_trans rfl hW) hs
    split
    · rename_i e3
      replace e3 := congrArg Prod.snd e3
      dsimp only at e3
      refine only_of_eq (W := W) (s0 := s0) e3 ?_ (fun k4 => ?_)
      · refine only_halfRead (sub_trans rfl hW) ?_
        assumption
      refine only_snd_mk ?_
      assumption

theorem only_mcMerge {W : Nat} {s0 : State} (hW : Sub 0x302000000000000000000000000000000000000000f0200000000000000040002016 W)  {a : Nat} {d : Line} {m : BitVec 64} {p : BitVec 2} {s : State} (hs : Only W s0 s) :
    Only W s0 (mcMerge a d m p s) := by
  unfold mcMerge
  extract_lets +onlyGivenNames -merge -useContext -underBinder x1
  extract_lets +onlyGivenNames -merge -useContext -underBinder x2
  extract_lets +onlyGivenNames -merge -useContext -underBinder x3
  refine only_ite ?_ ?_
  · exact only_mcPut (sub_trans rfl hW) hs
  · refine only_ite ?_ ?_
    · refine only_ite ?_ ?_
      · exact hs
      · exact only_mcPut (sub_trans rfl hW) hs
    · split
      · rename_i e4
        replace e4 := congrArg Prod.snd e4
        dsimp only at e4
        refine only_of_eq (W := W) (s0 := s0) e4 ?_ (fun k5 => ?_)
        · exact only_mcRead (sub_trans rfl hW) hs
        refine only_mcPut (sub_trans rfl hW) ?_
        assumption

theorem only_mcDrain {W : Nat} {s0 : State} (hW : Sub 0x4000000000000000000000000000000000000000000000200000000000000000002014 W)  {a : Nat} {s : State} (hs : Only W s0 s) :
    Only W s0 (mcDrain a s) := by
  unfold mcDrain
  split
  · exact hs
  · refine only_ite ?_ ?_
    · exact hs
    · exact only_mcBurst (sub_trans rfl hW) hs

theorem only_mcDrainAll {W : Nat} {s0 : State} (hW : Sub 0x4000000000000000000000000000000000000000000000200000000000000000002014 W)  {p : Nat → Bool} {s : State} (hs : Only W s0 s) :
    Only W s0 (mcDrainAll p s) := by
  unfold mcDrainAll
  refine only_foldl (fun t x ht => ?_) ?_
  · refine only_mcBurst (sub_trans rfl hW) ?_
    assumption
  · exact hs

theorem only_creditPut {W : Nat} {s0 : State} (hW : Sub 0x800000000000000000002004 W)  {i : Nat} {v : Word} {s : State} (hs : Only W s0 s) :
    Only W s0 (creditPut i v s) := by
  unfold creditPut
  extract_lets +onlyGivenNames -merge -useContext -underBinder x1
  have hx1 : Only W s0 (x1) := only_State_setR (sub_trans rfl hW) hs
  try clear_value x1
  refine only_mcPend (sub_trans rfl hW) ?_ _
  exact hx1

theorem only_spendCredit {W : Nat} {s0 : State} (hW : Sub 0x1000000000000000000000004 W)  {k : Nat} {p : Nat} {cost : Nat} {s : State} (hs : Only W s0 s) :
    Only W s0 (spendCredit k p cost s).2 := by
  unfold spendCredit
  extract_lets +onlyGivenNames -merge -useContext -underBinder x1
  refine only_ite_snd ?_ ?_
  · exact only_snd_mk hs
  · refine only_ite_snd ?_ ?_
    · exact only_snd_mk (only_State_satInc (sub_trans rfl hW) hs)
    · exact only_snd_mk (only_State_setF (sub_trans rfl hW) hs)

theorem only_bankGo {W : Nat} {s0 : State} (hW : Sub 0x2000 W)  {b : Nat} {s : State} (hs : Only W s0 s) :
    Only W s0 (bankGo b s) := by
  unfold bankGo
  refine only_ite ?_ ?_
  · exact hs
  · split
    · exact hs
    · refine only_mcq_mcOpen (sub_trans rfl hW) ?_ _ _
      exact hs

theorem only_banksGo {W : Nat} {s0 : State} (hW : Sub 0x2000 W)   {s : State} (hs : Only W s0 s) :
    Only W s0 (banksGo s) := by
  unfold banksGo
  refine only_foldl (fun t x ht => ?_) ?_
  · refine only_bankGo (sub_trans rfl hW) ?_
    assumption
  · exact hs

theorem only_mcAdmit {W : Nat} {s0 : State} (hW : Sub 0x1200000000000000000002004 W)  {a : Nat} {kind : Nat} {cls : TClass} {p : Nat} {s : State} (hs : Only W s0 s) :
    Only W s0 (mcAdmit a kind cls p s) := by
  unfold mcAdmit
  extract_lets +onlyGivenNames -merge -useContext -underBinder x1
  extract_lets +onlyGivenNames -merge -useContext -underBinder x2
  have hx2 : Only W s0 (x2) := only_State_setFbit (sub_trans rfl hW) hs
  try clear_value x2
  extract_lets +onlyGivenNames -merge -useContext -underBinder x3
  extract_lets +onlyGivenNames -merge -useContext -underBinder x4
  have hx4 : ∀ y0 y1 y2 y3, Only W s0 (y3) → Only W s0 (x4 y0 y1 y2 y3) := by
    unfold x4
    intro y5 y6 y7 y8 hy8
    refine only_bankGo (sub_trans rfl hW) ?_
    refine only_mcq (sub_trans rfl hW) ?_ _
    exact hy8
  try clear_value x4
  split
  · exact hx4 _ _ _ _ hx2
  · split
    · rename_i e9
      replace e9 := congrArg Prod.snd e9
      dsimp only at e9
      refine only_of_eq (W := W) (s0 := s0) e9 ?_ (fun k10 => ?_)
      · exact only_spendCredit (sub_trans rfl hW) hx2
      refine hx4 _ _ _ _ ?_
      assumption
  · split
    · rename_i e11
      replace e11 := congrArg Prod.snd e11
      dsimp only at e11
      refine only_of_eq (W := W) (s0 := s0) e11 ?_ (fun k12 => ?_)
      · exact only_spendCredit (sub_trans rfl hW) hx2
      refine hx4 _ _ _ _ ?_
      assumption
  · refine only_ite ?_ ?_
    · extract_lets +onlyGivenNames -merge -useContext -underBinder x13
      have hx13 : Only W s0 (x13) := only_State_satInc (sub_trans rfl hW) hx2
      try clear_value x13
      split
      · rename_i e14
        replace e14 := congrArg Prod.snd e14
        dsimp only at e14
        refine only_of_eq (W := W) (s0 := s0) e14 ?_ (fun k15 => ?_)
        · exact only_spendCredit (sub_trans rfl hW) hx13
        refine hx4 _ _ _ _ ?_
        assumption
    · extract_lets +onlyGivenNames -merge -useContext -underBinder x16
      have hx16 : Only W s0 (x16) := by
        unfold x16
        refine only_mcGt (sub_trans rfl hW) ?_ _
        exact hx2
      try clear_value x16
      extract_lets +onlyGivenNames -merge -useContext -underBinder x17
      extract_lets +onlyGivenNames -merge -useContext -underBinder x18
      refine only_ite ?_ ?_
      · refine hx4 _ _ _ _ ?_
        refine only_mcWin (sub_trans rfl hW) ?_ _
        exact hx16
      · exact hx4 _ _ _ _ (only_State_satInc (sub_trans rfl hW) hx16)

theorem only_mcDone {W : Nat} {s0 : State} (hW : Sub 0x2000 W)  {r : McReq} {s : State} (hs : Only W s0 s) :
    Only W s0 (mcDone r s) := by
  unfold mcDone
  refine only_bankGo (sub_trans rfl hW) ?_
  refine only_mcq (sub_trans rfl hW) ?_ _
  exact hs

theorem only_mcRelease {W : Nat} {s0 : State} (hW : Sub 0x1000000000000000000002004 W)   {s : State} (hs : Only W s0 s) :
    Only W s0 (mcRelease s) := by
  unfold mcRelease
  refine only_banksGo (sub_trans rfl hW) ?_
  refine only_foldl (fun t x ht => ?_) ?_
  · refine only_ite ?_ ?_
    · assumption
    · extract_lets +onlyGivenNames -merge -useContext -underBinder x1
      extract_lets +onlyGivenNames -merge -useContext -underBinder x2
      extract_lets +onlyGivenNames -merge -useContext -underBinder x3
      refine only_ite ?_ ?_
      · extract_lets +onlyGivenNames -merge -useContext -underBinder x4
        have hx4 : Only W s0 (x4) := by
          unfold x4
          refine only_ite ?_ ?_
          · assumption
          · refine only_State_setF (sub_trans rfl hW) ?_
            assumption
        try clear_value x4
        refine only_mcq (sub_trans rfl hW) ?_ _
        exact hx4
      · assumption
  · exact hs

theorem only_creditBoundary {W : Nat} {s0 : State} (hW : Sub 0x1000000000000000000002004 W)  {i : Nat} {s : State} (hs : Only W s0 s) :
    Only W s0 (creditBoundary i s) := by
  unfold creditBoundary
  extract_lets +onlyGivenNames -merge -useContext -underBinder x1
  extract_lets +onlyGivenNames -merge -useContext -underBinder x2
  have hx2 : Only W s0 (x2) := by
    unfold x2
    refine only_mcPend (sub_trans rfl hW) ?_ _
    exact hs
  try clear_value x2
  extract_lets +onlyGivenNames -merge -useContext -underBinder x3
  extract_lets +onlyGivenNames -merge -useContext -underBinder x4
  have hx4 : Only W s0 (x4) := only_State_setF (sub_trans rfl hW) hx2
  try clear_value x4
  refine only_mcGt (sub_trans rfl hW) ?_ _
  exact hx4

theorem only_windowOpen {W : Nat} {s0 : State} (hW : Sub 0x2000 W)  {k : Nat} {c : Nat} {s : State} (hs : Only W s0 s) :
    Only W s0 (windowOpen k c s) := by
  unfold windowOpen
  extract_lets +onlyGivenNames -merge -useContext -underBinder x1
  extract_lets +onlyGivenNames -merge -useContext -underBinder x2
  have hx2 : Only W s0 (x2) := by
    unfold x2
    refine only_mcWin (sub_trans rfl hW) ?_ _
    exact hs
  try clear_value x2
  refine only_banksGo (sub_trans rfl hW) ?_
  refine only_foldl (fun t x ht => ?_) ?_
  · extract_lets +onlyGivenNames -merge -useContext -underBinder x3
    refine only_ite ?_ ?_
    · refine only_mcq_mcWin (sub_trans rfl hW) ?_ _ _
      assumption
    · assumption
  · exact hx2

end Sys2Proof.Machine
end

