-- ==== Sys2Proof/Laws/KeepHome.lean ====
section
/-! SUPPORT. What the definitions of Machine/Home.lean leave alone: one lemma for each that answers a state. -/
namespace Sys2Proof.Machine

theorem only_gtLaunch {W : Nat} {s0 : State} (hW : Sub 0x4200000000000000000000000020004 W)  {w : Option Nat} {down : Bool} {s : State} (hs : Only W s0 s) :
    Only W s0 (gtLaunch w down s) := by
  unfold gtLaunch
  split
  · extract_lets +onlyGivenNames -merge -useContext -underBinder x1
    extract_lets +onlyGivenNames -merge -useContext -underBinder x2
    have hx2 : Only W s0 (x2) := by
      unfold x2
      refine only_winBusy (sub_trans rfl hW) ?_ _
      exact hs
    try clear_value x2
    exact only_State_satInc (sub_trans rfl hW) (only_State_satAdd (sub_trans rfl hW) hx2)
  · exact only_State_satInc (sub_trans rfl hW) hs

theorem only_sendUp {W : Nat} {s0 : State} (hW : Sub 0x428000000000000000000000002000c W)  {n : Nat} {isReq : Bool} {p : Packet} {s : State} (hs : Only W s0 s) :
    Only W s0 (sendUp n isReq p s) := by
  unfold sendUp
  extract_lets +onlyGivenNames -merge -useContext -underBinder x1
  have hx1 : Only W s0 (x1) := by
    unfold x1
    refine only_ite ?_ ?_
    · exact only_gtLaunch (sub_trans rfl hW) hs
    · exact hs
  try clear_value x1
  exact only_State_sendP (sub_trans rfl hW) hx1

theorem only_sendDown {W : Nat} {s0 : State} (hW : Sub 0x428000000000000000000000002000c W)  {n : Nat} {p : Packet} {s : State} (hs : Only W s0 s) :
    Only W s0 (sendDown n p s) := by
  unfold sendDown
  extract_lets +onlyGivenNames -merge -useContext -underBinder x1 x2 x3
  have hx1 : Only W s0 (x1) := only_gtLaunch (sub_trans rfl hW) hs
  try clear_value x1
  try clear_value x2
  have hx3 : Only W s0 (x3) := by
    unfold x3
    refine only_ite ?_ ?_
    · refine only_iter (fun x t ht => ?_) ?_
      · refine only_ite ?_ ?_
        · refine only_State_setF (sub_trans rfl hW) ?_
          assumption
        · assumption
      · exact hx1
    · exact hs
  try clear_value x3
  exact only_State_sendP (sub_trans rfl hW) hx3

theorem only_sendTo {W : Nat} {s0 : State} (hW : Sub 0x428000000000000000000000002000c W)  {p : Packet} {s : State} (hs : Only W s0 s) :
    Only W s0 (sendTo p s) := by
  unfold sendTo
  refine only_ite ?_ ?_
  · exact only_sendDown (sub_trans rfl hW) hs
  · exact only_State_sendP (sub_trans rfl hW) hs

theorem only_State_setDir {W : Nat} {s0 : State} (hW : Sub 0x10000000000000000004004 W)  {k : Nat} {e : DirEntry} {s : State} (hs : Only W s0 s) :
    Only W s0 (State.setDir s k e) := by
  unfold State.setDir
  extract_lets +onlyGivenNames -merge -useContext -underBinder x1
  extract_lets +onlyGivenNames -merge -useContext -underBinder x2
  extract_lets +onlyGivenNames -merge -useContext -underBinder x3
  have hx3 : ∀ y0 y1, Sub (regBit y0.reg) W → Only W s0 (y1) → Only W s0 (x3 y0 y1) := by
    unfold x3
    intro y4 y5 qy4 hy5
    exact only_State_setF qy4 hy5
  try clear_value x3
  extract_lets +onlyGivenNames -merge -useContext -underBinder x6
  have hx6 : ∀ y0 y1, Sub (regBit y0.reg) W → Only W s0 (y1) → Only W s0 (x6 y0 y1) := by
    unfold x6
    intro y7 y8 qy7 hy8
    exact only_State_setF qy7 hy8
  try clear_value x6
  extract_lets +onlyGivenNames -merge -useContext -underBinder x9
  have hx9 : Only W s0 (x9) := by
    unfold x9
    refine only_ite ?_ ?_
    · refine only_ite ?_ ?_
      · exact hx3 _ _ (sub_trans rfl hW) hs
      · exact hx3 _ _ (sub_trans rfl hW) hs
    · exact hs
  try clear_value x9
  extract_lets +onlyGivenNames -merge -useContext -underBinder x10
  have hx10 : Only W s0 (x10) := by
    unfold x10
    refine only_ite ?_ ?_
    · refine only_ite ?_ ?_
      · exact hx6 _ _ (sub_trans rfl hW) hx9
      · exact hx6 _ _ (sub_trans rfl hW) hx9
    · exact hx9
  try clear_value x10
  refine only_dir (sub_trans rfl hW) ?_ _
  exact hx10

theorem only_haError {W : Nat} {s0 : State} (hW : Sub 0xc0000000000000040000004 W)  {k : Nat} {code : Nat} {a : Nat} {w : Bool} {part : Nat} {s : State} (hs : Only W s0 s) :
    Only W s0 (haError k code a w part s) := by
  unfold haError
  extract_lets +onlyGivenNames -merge -useContext -underBinder x1
  have hx1 : Only W s0 (x1) := by
    unfold x1
    refine only_State_setF (sub_trans rfl hW) ?_
    exact only_State_satInc (sub_trans rfl hW) (only_State_setB (sub_trans rfl hW) hs)
  try clear_value x1
  extract_lets +onlyGivenNames -merge -useContext -underBinder x2
  have hx2 : Only W s0 (x2) := only_State_setF (sub_trans rfl hW) hx1
  try clear_value x2
  extract_lets +onlyGivenNames -merge -useContext -underBinder x3
  exact only_report (sub_trans rfl hW) hx2

theorem only_haAnswer {W : Nat} {s0 : State} (hW : Sub 0x428000000000000000000000002000c W)  {p : Packet} {op : Op} {w : Bool} {st : Grant} {data : Option (Line × BitVec 2)} {resp : BitVec 2} {s : State} (hs : Only W s0 s) :
    Only W s0 (haAnswer p op w st data resp s) := by
  unfold haAnswer
  exact only_sendTo (sub_trans rfl hW) hs

theorem only_haRefuse {W : Nat} {s0 : State} (hW : Sub 0x428000000000000000000000002000c W)  {p : Packet} {resp : BitVec 2} {s : State} (hs : Only W s0 s) :
    Only W s0 (haRefuse p resp s) := by
  unfold haRefuse
  exact only_haAnswer (sub_trans rfl hW) hs

theorem only_setHaTx {W : Nat} {s0 : State} (hW : Sub 0x4000 W)  {t : HaTx} {s : State} (hs : Only W s0 s) :
    Only W s0 (setHaTx t s) := by
  unfold setHaTx
  refine only_haTx (sub_trans rfl hW) ?_ _
  exact hs

theorem only_haSnoop {W : Nat} {s0 : State} (hW : Sub 0x428000000000000000000000002000c W)  {op : Op} {d : Nat} {t : HaTx} {s : State} (hs : Only W s0 s) :
    Only W s0 (haSnoop op d t s).2 := by
  unfold haSnoop
  extract_lets +onlyGivenNames -merge -useContext -underBinder x1
  refine only_ite_snd ?_ ?_
  · exact only_snd_mk hs
  · split
    · extract_lets +onlyGivenNames -merge -useContext -underBinder x2
      have hx2 : Only W s0 (x2) := only_sendDown (sub_trans rfl hW) hs
      try clear_value x2
      exact only_snd_mk hx2

theorem only_haSnoops {W : Nat} {s0 : State} (hW : Sub 0x428000000000000000000000002000c W)  {op : Op} {ds : List Nat} {t : HaTx} {s : State} (hs : Only W s0 s) :
    Only W s0 (haSnoops op ds t s).2 := by
  unfold haSnoops
  refine only_foldl_snd (fun t x ht => ?_) ?_
  · refine only_haSnoop (sub_trans rfl hW) ?_
    assumption
  · exact only_snd_mk hs

theorem only_atomFlush {W : Nat} {s0 : State} (hW : Sub 0x302000000000000000000000000000000000000000d0200000000000000000006016 W)  {a : Nat} {s : State} (hs : Only W s0 s) :
    Only W s0 (atomFlush a s) := by
  unfold atomFlush
  split
  · exact hs
  · refine only_mcWrite (sub_trans rfl hW) ?_
    refine only_atomBuf (sub_trans rfl hW) ?_ _
    exact hs

theorem only_atomDone {W : Nat} {s0 : State} (hW : Sub 0x302000000000000000000000000000000000042800d02c000000000000004002601e W)  {p : Packet} {d : Line} {po : BitVec 2} {s : State} (hs : Only W s0 s) :
    Only W s0 (atomDone p d po s) := by
  unfold atomDone
  extract_lets +onlyGivenNames -merge -useContext -underBinder x1
  extract_lets +onlyGivenNames -merge -useContext -underBinder x2
  refine only_ite ?_ ?_
  · exact only_haRefuse (sub_trans rfl hW) (only_haError (sub_trans rfl hW) hs)
  · split
    · extract_lets +onlyGivenNames -merge -useContext -underBinder x3 x4 x5
      try clear_value x3
      have hx4 : Only W s0 (x4) := by
        unfold x4
        refine only_ite ?_ ?_
        · exact hs
        · split
          · refine only_mcWrite (sub_trans rfl hW) ?_
            refine only_atomBuf (sub_trans rfl hW) ?_ _
            exact hs
          · exact hs
      try clear_value x4
      have hx5 : Only W s0 (x5) := by
        unfold x5
        refine only_ite ?_ ?_
        · exact only_mcPut (sub_trans rfl hW) hs
        · refine only_ite ?_ ?_
          · exact only_mcWrite (sub_trans rfl hW) hs
          · refine only_atomBuf (sub_trans rfl hW) ?_ _
            exact hx4
      try clear_value x5
      exact only_haAnswer (sub_trans rfl hW) hx5

theorem only_haEnd {W : Nat} {s0 : State} (hW : Sub 0x10000000000000000004004 W)  {t : HaTx} {e : DirEntry} {s : State} (hs : Only W s0 s) :
    Only W s0 (haEnd t e s) := by
  unfold haEnd
  extract_lets +onlyGivenNames -merge -useContext -underBinder x1
  have hx1 : Only W s0 (x1) := by
    unfold x1
    refine only_haTx (sub_trans rfl hW) ?_ _
    exact hs
  try clear_value x1
  split
  · exact only_State_setDir (sub_trans rfl hW) hx1
  · exact hx1

theorem only_haAwaitAck {W : Nat} {s0 : State} (hW : Sub 0x10000000000000000004004 W)  {t : HaTx} {e : DirEntry} {s : State} (hs : Only W s0 s) :
    Only W s0 (haAwaitAck t e s) := by
  unfold haAwaitAck
  extract_lets +onlyGivenNames -merge -useContext -underBinder x1
  refine only_ite ?_ ?_
  · exact only_haEnd (sub_trans rfl hW) hs
  · extract_lets +onlyGivenNames -merge -useContext -underBinder x2
    have hx2 : Only W s0 (x2) := by
      unfold x2
      split
      · exact only_State_setDir (sub_trans rfl hW) hs
      · exact hs
    try clear_value x2
    exact only_setHaTx (sub_trans rfl hW) hx2

theorem only_ncAgain {W : Nat} {s0 : State} (hW : Sub 0x4000 W)  {p : Packet} {d : Line} {po : BitVec 2} {s : State} (hs : Only W s0 s) :
    Only W s0 (ncAgain p d po s) := by
  unfold ncAgain
  refine only_haQ (sub_trans rfl hW) ?_ _
  exact hs

theorem only_haFinish {W : Nat} {s0 : State} (hW : Sub 0x302000000000000000000000000000000000042800d02d000000000000004002601e W)  {t : HaTx} {s : State} (hs : Only W s0 s) :
    Only W s0 (haFinish t s) := by
  unfold haFinish
  extract_lets +onlyGivenNames -merge -useContext -underBinder x1
  extract_lets +onlyGivenNames -merge -useContext -underBinder x2
  split
  · extract_lets +onlyGivenNames -merge -useContext -underBinder x3
    have hx3 : Only W s0 (x3) := by
      unfold x3
      split
      · exact only_mcWrite (sub_trans rfl hW) hs
      · exact hs
    try clear_value x3
    exact only_haEnd (sub_trans rfl hW) hx3
  · extract_lets +onlyGivenNames -merge -useContext -underBinder x4
    split
    · refine only_ite ?_ ?_
      · exact only_haAwaitAck (sub_trans rfl hW) hs
      · extract_lets +onlyGivenNames -merge -useContext -underBinder x5
        extract_lets +onlyGivenNames -merge -useContext -underBinder x6
        refine only_ite ?_ ?_
        · exact only_haAwaitAck (sub_trans rfl hW) (only_haAnswer (sub_trans rfl hW) hs)
        · exact only_haAwaitAck (sub_trans rfl hW) (only_haAnswer (sub_trans rfl hW) hs)
    · refine only_ite ?_ ?_
      · exact only_haAwaitAck (sub_trans rfl hW) hs
      · refine only_ite ?_ ?_
        · exact only_haAwaitAck (sub_trans rfl hW) (only_haAnswer (sub_trans rfl hW) hs)
        · exact only_haAwaitAck (sub_trans rfl hW) (only_haAnswer (sub_trans rfl hW) hs)
    · refine only_ite ?_ ?_
      · exact only_haAwaitAck (sub_trans rfl hW) hs
      · refine only_ite ?_ ?_
        · exact only_haAwaitAck (sub_trans rfl hW) (only_haAnswer (sub_trans rfl hW) hs)
        · exact only_haAwaitAck (sub_trans rfl hW) (only_haAnswer (sub_trans rfl hW) hs)
    · refine only_ite ?_ ?_
      · exact only_haAwaitAck (sub_trans rfl hW) hs
      · refine only_ite ?_ ?_
        · exact only_haAwaitAck (sub_trans rfl hW) (only_haAnswer (sub_trans rfl hW) hs)
        · exact only_haAwaitAck (sub_trans rfl hW) (only_haAnswer (sub_trans rfl hW) hs)
    · split
      · extract_lets +onlyGivenNames -merge -useContext -underBinder x7
        have hx7 : Only W s0 (x7) := by
          unfold x7
          refine only_ite ?_ ?_
          · exact only_ncAgain (sub_trans rfl hW) hs
          · exact only_haAnswer (sub_trans rfl hW) hs
        try clear_value x7
        exact only_haEnd (sub_trans rfl hW) hx7
    · split
      · extract_lets +onlyGivenNames -merge -useContext -underBinder x8
        have hx8 : Only W s0 (x8) := by
          unfold x8
          refine only_ite ?_ ?_
          · exact only_ncAgain (sub_trans rfl hW) hs
          · exact only_haAnswer (sub_trans rfl hW) hs
        try clear_value x8
        exact only_haEnd (sub_trans rfl hW) hx8
    · extract_lets +onlyGivenNames -merge -useContext -underBinder x9
      have hx9 : Only W s0 (x9) := only_haAnswer (sub_trans rfl hW) hs
      try clear_value x9
      exact only_haEnd (sub_trans rfl hW) hx9
    · split
      · exact only_haEnd (sub_trans rfl hW) (only_atomDone (sub_trans rfl hW) hs)
    · refine only_haEnd (sub_trans rfl hW) ?_
      refine only_ite ?_ ?_
      · exact only_ncAgain (sub_trans rfl hW) hs
      · exact only_haAnswer (sub_trans rfl hW) hs

theorem only_haFlushData {W : Nat} {s0 : State} (hW : Sub 0x302000000000000000000000000000000000000000d0200000000000000000002016 W)  {t : HaTx} {s : State} (hs : Only W s0 s) :
    Only W s0 (haFlushData t s).2 := by
  unfold haFlushData
  split
  · split
    · exact only_snd_mk (only_mcWrite (sub_trans rfl hW) hs)
    · exact only_snd_mk (only_mcWrite (sub_trans rfl hW) hs)
    · exact only_snd_mk (only_mcWrite (sub_trans rfl hW) hs)
    · exact only_snd_mk (only_mcWrite (sub_trans rfl hW) hs)
    · exact only_snd_mk (only_mcWrite (sub_trans rfl hW) hs)
    · exact only_snd_mk (only_mcWrite (sub_trans rfl hW) hs)
    · exact only_snd_mk (only_mcWrite (sub_trans rfl hW) hs)
    · exact only_snd_mk hs
  · exact only_snd_mk hs

theorem only_haSelfRef {W : Nat} {s0 : State} (hW : Sub 0x428000001000000000000000002400c W)  {t : HaTx} {p : Packet} {s : State} (hs : Only W s0 s) :
    Only W s0 (haSelfRef t p s) := by
  unfold haSelfRef
  extract_lets +onlyGivenNames -merge -useContext -underBinder x1
  extract_lets +onlyGivenNames -merge -useContext -underBinder x2
  exact only_haEnd (sub_trans rfl hW) (only_haRefuse (sub_trans rfl hW) hs)

theorem only_haAdvance {W : Nat} {s0 : State} (hW : Sub 0x302000000000000000000000000000000000042800f12d000000000000004002601e W)  {a : Nat} {s : State} (hs : Only W s0 s) :
    Only W s0 (haAdvance a s) := by
  unfold haAdvance
  split
  · exact hs
  · refine only_ite ?_ ?_
    · exact hs
    · split
      · rename_i e1
        replace e1 := congrArg Prod.snd e1
        dsimp only at e1
        refine only_of_eq (W := W) (s0 := s0) e1 ?_ (fun k2 => ?_)
        · refine only_ite_snd ?_ ?_
          · exact only_haFlushData (sub_trans rfl hW) hs
          · exact only_snd_mk hs
        extract_lets +onlyGivenNames -merge -useContext -underBinder x3
        have hx3 : Only W s0 (x3) := by
          unfold x3
          refine only_setHaTx (sub_trans rfl hW) ?_
          assumption
        try clear_value x3
        split
        · extract_lets +onlyGivenNames -merge -useContext -underBinder x4
          refine only_ite ?_ ?_
          · exact only_haSelfRef (sub_trans rfl hW) hx3
          · refine only_ite ?_ ?_
            · exact hx3
            · extract_lets +onlyGivenNames -merge -useContext -underBinder x5
              try clear_value x5
              split
              · refine only_ite ?_ ?_
                · refine only_mcAdmit (sub_trans rfl hW) ?_
                  exact only_setHaTx (sub_trans rfl hW) (only_atomFlush (sub_trans rfl hW) hx3)
                · extract_lets +onlyGivenNames -merge -useContext -underBinder x6
                  have hx6 : Only W s0 (x6) := by
                    unfold x6
                    refine only_ite ?_ ?_
                    · exact hx3
                    · refine only_atomBuf (sub_trans rfl hW) ?_ _
                      exact hx3
                  try clear_value x6
                  exact only_haFinish (sub_trans rfl hW) hx6
              · extract_lets +onlyGivenNames -merge -useContext -underBinder x7
                have hx7 : Only W s0 (x7) := only_mcAdmit (sub_trans rfl hW) (only_setHaTx (sub_trans rfl hW) hx3)
                try clear_value x7
                split
                · extract_lets +onlyGivenNames -merge -useContext -underBinder x8
                  have hx8 : Only W s0 (x8) := only_mcMerge (sub_trans rfl hW) (only_mcDone (sub_trans rfl hW) hx7)
                  try clear_value x8
                  exact only_haFinish (sub_trans rfl hW) hx8
                · exact hx7
              · exact only_mcAdmit (sub_trans rfl hW) (only_setHaTx (sub_trans rfl hW) hx3)
        · exact only_haFinish (sub_trans rfl hW) hx3

theorem only_dirChoose {W : Nat} {s0 : State} (hW : Sub 0x10000000000000000004004 W)  {a : Nat} {s : State} (hs : Only W s0 s) :
    Only W s0 (dirChoose a s).2 := by
  unfold dirChoose
  extract_lets +onlyGivenNames -merge -useContext -underBinder x1
  split
  · exact only_snd_mk hs
  · extract_lets +onlyGivenNames -merge -useContext -underBinder x2
    extract_lets +onlyGivenNames -merge -useContext -underBinder x3
    try clear_value x3
    split
    · exact only_snd_mk hs
    · extract_lets +onlyGivenNames -merge -useContext -underBinder x4
      try clear_value x4
      split
      · exact only_snd_mk hs
      · extract_lets +onlyGivenNames -merge -useContext -underBinder x5
        have hx5 : Only W s0 (x5) := by
          unfold x5
          refine only_foldl (fun t x ht => ?_) ?_
          · refine only_State_setDir (sub_trans rfl hW) ?_
            assumption
          · exact hs
        try clear_value x5
        split
        · exact only_snd_mk hx5
        · exact only_snd_mk hx5

theorem only_haRecall {W : Nat} {s0 : State} (hW : Sub 0x302000000000000000000000000000000000042800f12d000000000000004002601e W)  {key : Nat} {all : Bool} {s : State} (hs : Only W s0 s) :
    Only W s0 (haRecall key all s) := by
  unfold haRecall
  extract_lets +onlyGivenNames -merge -useContext -underBinder x1
  extract_lets +onlyGivenNames -merge -useContext -underBinder x2
  extract_lets +onlyGivenNames -merge -useContext -underBinder x3
  have hx3 : Only W s0 (x3) := only_State_setDir (sub_trans rfl hW) hs
  try clear_value x3
  extract_lets +onlyGivenNames -merge -useContext -underBinder x4
  extract_lets +onlyGivenNames -merge -useContext -underBinder x5
  have hx5 : Only W s0 (x5) := by
    unfold x5
    refine only_haTx (sub_trans rfl hW) ?_ _
    exact hx3
  try clear_value x5
  split
  · rename_i e6
    replace e6 := congrArg Prod.snd e6
    dsimp only at e6
    refine only_of_eq (W := W) (s0 := s0) e6 ?_ (fun k7 => ?_)
    · refine only_ite_snd ?_ ?_
      · exact only_haSnoops (sub_trans rfl hW) hx5
      · refine only_ite_snd ?_ ?_
        · exact only_haSnoops (sub_trans rfl hW) hx5
        · exact only_haSnoops (sub_trans rfl hW) hx5
    refine only_haAdvance (sub_trans rfl hW) ?_
    refine only_setHaTx (sub_trans rfl hW) ?_
    assumption

theorem only_haBegin {W : Nat} {s0 : State} (hW : Sub 0x302000000000000000000000000000000000042800f12d000000000000004002601e W)  {q : HaReq} {s : State} (hs : Only W s0 s) :
    Only W s0 (haBegin q s).1 := by
  unfold haBegin
  extract_lets +onlyGivenNames -merge -useContext -underBinder x1
  extract_lets +onlyGivenNames -merge -useContext -underBinder x2
  extract_lets +onlyGivenNames -merge -useContext -underBinder x3
  extract_lets +onlyGivenNames -merge -useContext -underBinder x4
  extract_lets +onlyGivenNames -merge -useContext -underBinder x5
  extract_lets +onlyGivenNames -merge -useContext -underBinder x6
  refine only_ite_fst ?_ ?_
  · refine only_fst_mk ?_
    split
    · exact only_haRecall (sub_trans rfl hW) hs
    · exact hs
  · extract_lets +onlyGivenNames -merge -useContext -underBinder x7
    have hx7 : ∀ y0, Only W s0 (y0) → Only W s0 (x7 y0).2 := by
      unfold x7
      intro y8 hy8
      extract_lets +onlyGivenNames -merge -useContext -underBinder x9
      refine only_snd_mk ?_
      refine only_haTx (sub_trans rfl hW) ?_ _
      exact hy8
    try clear_value x7
    extract_lets +onlyGivenNames -merge -useContext -underBinder x10
    have hx10 : ∀ y0 y1, Only W s0 (y1) → Only W s0 (x10 y0 y1) := by
      unfold x10
      intro y11 y12 hy12
      exact only_haAdvance (sub_trans rfl hW) (only_setHaTx (sub_trans rfl hW) hy12)
    try clear_value x10
    extract_lets +onlyGivenNames -merge -useContext -underBinder x13
    have hx13 : ∀ y0 y1, Only W s0 (y1) → Only W s0 (x13 y0 y1) := by
      unfold x13
      intro y14 y15 hy15
      refine only_ite ?_ ?_
      · exact hx10 _ _ hy15
      · exact hx10 _ _ (only_mcAdmit (sub_trans rfl hW) hy15)
    try clear_value x13
    extract_lets +onlyGivenNames -merge -useContext -underBinder x16
    have hx16 : ∀ y0, Only W s0 (y0) → Only W s0 (x16 y0) := by
      unfold x16
      intro y17 hy17
      split
      · exact only_State_setDir (sub_trans rfl hW) hy17
      · exact hy17
    try clear_value x16
    refine only_ite_fst ?_ ?_
    · split
      · extract_lets +onlyGivenNames -merge -useContext -underBinder x18
        refine only_ite_fst ?_ ?_
        · exact only_fst_mk hs
        · split
          · rename_i e19
            replace e19 := congrArg Prod.snd e19
            dsimp only at e19
            refine only_of_eq (W := W) (s0 := s0) e19 ?_ (fun k20 => ?_)
            · exact only_dirChoose (sub_trans rfl hW) hs
            refine only_fst_mk ?_
            assumption
          · rename_i e21
            replace e21 := congrArg Prod.snd e21
            dsimp only at e21
            refine only_of_eq (W := W) (s0 := s0) e21 ?_ (fun k22 => ?_)
            · exact only_dirChoose (sub_trans rfl hW) hs
            refine only_fst_mk ?_
            refine only_haRecall (sub_trans rfl hW) ?_
            assumption
          · rename_i e23
            replace e23 := congrArg Prod.snd e23
            dsimp only at e23
            refine only_of_eq (W := W) (s0 := s0) e23 ?_ (fun k24 => ?_)
            · exact only_dirChoose (sub_trans rfl hW) hs
            extract_lets +onlyGivenNames -merge -useContext -underBinder x25
            have hx25 : Only W s0 (x25) := by
              unfold x25
              refine only_atomFlush (sub_trans rfl hW) ?_
              assumption
            try clear_value x25
            extract_lets +onlyGivenNames -merge -useContext -underBinder x26
            have hx26 : Only W s0 (x26) := only_State_setDir (sub_trans rfl hW) hx25
            try clear_value x26
            split
            · rename_i e27
              replace e27 := congrArg Prod.snd e27
              dsimp only at e27
              refine only_of_eq (W := W) (s0 := s0) e27 ?_ (fun k28 => ?_)
              · exact hx7 _ hx26
              refine only_fst_mk ?_
              refine hx10 _ _ ?_
              assumption
      · extract_lets +onlyGivenNames -merge -useContext -underBinder x29
        refine only_ite_fst ?_ ?_
        · exact only_fst_mk hs
        · split
          · rename_i e30
            replace e30 := congrArg Prod.snd e30
            dsimp only at e30
            refine only_of_eq (W := W) (s0 := s0) e30 ?_ (fun k31 => ?_)
            · exact only_dirChoose (sub_trans rfl hW) hs
            refine only_fst_mk ?_
            assumption
          · rename_i e32
            replace e32 := congrArg Prod.snd e32
            dsimp only at e32
            refine only_of_eq (W := W) (s0 := s0) e32 ?_ (fun k33 => ?_)
            · exact only_dirChoose (sub_trans rfl hW) hs
            refine only_fst_mk ?_
            refine only_haRecall (sub_trans rfl hW) ?_
            assumption
          · rename_i e34
            replace e34 := congrArg Prod.snd e34
            dsimp only at e34
            refine only_of_eq (W := W) (s0 := s0) e34 ?_ (fun k35 => ?_)
            · exact only_dirChoose (sub_trans rfl hW) hs
            extract_lets +onlyGivenNames -merge -useContext -underBinder x36
            have hx36 : Only W s0 (x36) := by
              unfold x36
              refine only_atomFlush (sub_trans rfl hW) ?_
              assumption
            try clear_value x36
            extract_lets +onlyGivenNames -merge -useContext -underBinder x37
            have hx37 : Only W s0 (x37) := only_State_setDir (sub_trans rfl hW) hx36
            try clear_value x37
            split
            · rename_i e38
              replace e38 := congrArg Prod.snd e38
              dsimp only at e38
              refine only_of_eq (W := W) (s0 := s0) e38 ?_ (fun k39 => ?_)
              · exact hx7 _ hx37
              refine only_fst_mk ?_
              refine hx10 _ _ ?_
              assumption
      · extract_lets +onlyGivenNames -merge -useContext -underBinder x40
        refine only_ite_fst ?_ ?_
        · exact only_fst_mk hs
        · split
          · rename_i e41
            replace e41 := congrArg Prod.snd e41
            dsimp only at e41
            refine only_of_eq (W := W) (s0 := s0) e41 ?_ (fun k42 => ?_)
            · exact only_dirChoose (sub_trans rfl hW) hs
            refine only_fst_mk ?_
            assumption
          · rename_i e43
            replace e43 := congrArg Prod.snd e43
            dsimp only at e43
            refine only_of_eq (W := W) (s0 := s0) e43 ?_ (fun k44 => ?_)
            · exact only_dirChoose (sub_trans rfl hW) hs
            refine only_fst_mk ?_
            refine only_haRecall (sub_trans rfl hW) ?_
            assumption
          · rename_i e45
            replace e45 := congrArg Prod.snd e45
            dsimp only at e45
            refine only_of_eq (W := W) (s0 := s0) e45 ?_ (fun k46 => ?_)
            · exact only_dirChoose (sub_trans rfl hW) hs
            extract_lets +onlyGivenNames -merge -useContext -underBinder x47
            have hx47 : Only W s0 (x47) := by
              unfold x47
              refine only_atomFlush (sub_trans rfl hW) ?_
              assumption
            try clear_value x47
            extract_lets +onlyGivenNames -merge -useContext -underBinder x48
            have hx48 : Only W s0 (x48) := only_State_setDir (sub_trans rfl hW) hx47
            try clear_value x48
            split
            · rename_i e49
              replace e49 := congrArg Prod.snd e49
              dsimp only at e49
              refine only_of_eq (W := W) (s0 := s0) e49 ?_ (fun k50 => ?_)
              · exact hx7 _ hx48
              refine only_fst_mk ?_
              refine hx10 _ _ ?_
              assumption
      · extract_lets +onlyGivenNames -merge -useContext -underBinder x51
        refine only_ite_fst ?_ ?_
        · exact only_fst_mk hs
        · split
          · rename_i e52
            replace e52 := congrArg Prod.snd e52
            dsimp only at e52
            refine only_of_eq (W := W) (s0 := s0) e52 ?_ (fun k53 => ?_)
            · exact only_dirChoose (sub_trans rfl hW) hs
            refine only_fst_mk ?_
            assumption
          · rename_i e54
            replace e54 := congrArg Prod.snd e54
            dsimp only at e54
            refine only_of_eq (W := W) (s0 := s0) e54 ?_ (fun k55 => ?_)
            · exact only_dirChoose (sub_trans rfl hW) hs
            refine only_fst_mk ?_
            refine only_haRecall (sub_trans rfl hW) ?_
            assumption
          · rename_i e56
            replace e56 := congrArg Prod.snd e56
            dsimp only at e56
            refine only_of_eq (W := W) (s0 := s0) e56 ?_ (fun k57 => ?_)
            · exact only_dirChoose (sub_trans rfl hW) hs
            extract_lets +onlyGivenNames -merge -useContext -underBinder x58
            have hx58 : Only W s0 (x58) := by
              unfold x58
              refine only_atomFlush (sub_trans rfl hW) ?_
              assumption
            try clear_value x58
            extract_lets +onlyGivenNames -merge -useContext -underBinder x59
            have hx59 : Only W s0 (x59) := only_State_setDir (sub_trans rfl hW) hx58
            try clear_value x59
            split
            · rename_i e60
              replace e60 := congrArg Prod.snd e60
              dsimp only at e60
              refine only_of_eq (W := W) (s0 := s0) e60 ?_ (fun k61 => ?_)
              · exact hx7 _ hx59
              refine only_fst_mk ?_
              refine hx10 _ _ ?_
              assumption
      · split
        · rename_i e62
          replace e62 := congrArg Prod.snd e62
          dsimp only at e62
          refine only_of_eq (W := W) (s0 := s0) e62 ?_ (fun k63 => ?_)
          · exact hx7 _ hs
          refine only_fst_mk ?_
          refine hx10 _ _ ?_
          assumption
      · split
        · rename_i e64
          replace e64 := congrArg Prod.snd e64
          dsimp only at e64
          refine only_of_eq (W := W) (s0 := s0) e64 ?_ (fun k65 => ?_)
          · exact hx7 _ (only_atomFlush (sub_trans rfl hW) hs)
          refine only_fst_mk ?_
          refine hx10 _ _ ?_
          assumption
    · split
      · rename_i e66
        replace e66 := congrArg Prod.snd e66
        dsimp only at e66
        refine only_of_eq (W := W) (s0 := s0) e66 ?_ (fun k67 => ?_)
        · exact hx7 _ (hx16 _ hs)
        extract_lets +onlyGivenNames -merge -useContext -underBinder x68
        refine only_ite_fst ?_ ?_
        · split
          · split
            · rename_i e69
              replace e69 := congrArg Prod.snd e69
              dsimp only at e69
              refine only_of_eq (W := W) (s0 := s0) e69 ?_ (fun k70 => ?_)
              · refine only_ite_snd ?_ ?_
                · refine only_haSnoop (sub_trans rfl hW) ?_
                  assumption
                · refine only_snd_mk ?_
                  assumption
              refine only_fst_mk ?_
              refine hx10 _ _ ?_
              assumption
          · split
            · rename_i e71
              replace e71 := congrArg Prod.snd e71
              dsimp only at e71
              refine only_of_eq (W := W) (s0 := s0) e71 ?_ (fun k72 => ?_)
              · refine only_haSnoops (sub_trans rfl hW) ?_
                assumption
              refine only_fst_mk ?_
              refine hx13 _ _ ?_
              assumption
          · refine only_ite_fst ?_ ?_
            · split
              · rename_i e73
                replace e73 := congrArg Prod.snd e73
                dsimp only at e73
                refine only_of_eq (W := W) (s0 := s0) e73 ?_ (fun k74 => ?_)
                · refine only_haSnoops (sub_trans rfl hW) ?_
                  assumption
                refine only_fst_mk ?_
                refine hx10 _ _ ?_
                assumption
            · split
              · rename_i e75
                replace e75 := congrArg Prod.snd e75
                dsimp only at e75
                refine only_of_eq (W := W) (s0 := s0) e75 ?_ (fun k76 => ?_)
                · refine only_haSnoops (sub_trans rfl hW) ?_
                  assumption
                refine only_fst_mk ?_
                refine hx13 _ _ ?_
                assumption
          · split
            · rename_i e77
              replace e77 := congrArg Prod.snd e77
              dsimp only at e77
              refine only_of_eq (W := W) (s0 := s0) e77 ?_ (fun k78 => ?_)
              · refine only_haSnoops (sub_trans rfl hW) ?_
                assumption
              refine only_fst_mk ?_
              refine hx10 _ _ ?_
              assumption
          · refine only_fst_mk ?_
            refine hx10 _ _ ?_
            assumption
          · refine only_fst_mk ?_
            refine hx10 _ _ ?_
            assumption
          · refine only_fst_mk ?_
            refine hx10 _ _ ?_
            assumption
          · split
            · rename_i e79
              replace e79 := congrArg Prod.snd e79
              dsimp only at e79
              refine only_of_eq (W := W) (s0 := s0) e79 ?_ (fun k80 => ?_)
              · refine only_haSnoops (sub_trans rfl hW) ?_
                assumption
              refine only_fst_mk ?_
              refine hx10 _ _ ?_
              assumption
        · split
          · split
            · rename_i e81
              replace e81 := congrArg Prod.snd e81
              dsimp only at e81
              refine only_of_eq (W := W) (s0 := s0) e81 ?_ (fun k82 => ?_)
              · refine only_haSnoops (sub_trans rfl hW) ?_
                assumption
              refine only_fst_mk ?_
              refine hx10 _ _ ?_
              assumption
          · split
            · rename_i e83
              replace e83 := congrArg Prod.snd e83
              dsimp only at e83
              refine only_of_eq (W := W) (s0 := s0) e83 ?_ (fun k84 => ?_)
              · refine only_haSnoops (sub_trans rfl hW) ?_
                assumption
              refine only_fst_mk ?_
              refine hx10 _ _ ?_
              assumption
          · split
            · rename_i e85
              replace e85 := congrArg Prod.snd e85
              dsimp only at e85
              refine only_of_eq (W := W) (s0 := s0) e85 ?_ (fun k86 => ?_)
              · refine only_haSnoops (sub_trans rfl hW) ?_
                assumption
              refine only_fst_mk ?_
              refine hx10 _ _ ?_
              assumption
          · split
            · rename_i e87
              replace e87 := congrArg Prod.snd e87
              dsimp only at e87
              refine only_of_eq (W := W) (s0 := s0) e87 ?_ (fun k88 => ?_)
              · refine only_haSnoops (sub_trans rfl hW) ?_
                assumption
              refine only_fst_mk ?_
              refine hx10 _ _ ?_
              assumption
          · split
            · rename_i e89
              replace e89 := congrArg Prod.snd e89
              dsimp only at e89
              refine only_of_eq (W := W) (s0 := s0) e89 ?_ (fun k90 => ?_)
              · refine only_haSnoops (sub_trans rfl hW) ?_
                assumption
              refine only_fst_mk ?_
              refine hx10 _ _ ?_
              assumption
          · split
            · rename_i e91
              replace e91 := congrArg Prod.snd e91
              dsimp only at e91
              refine only_of_eq (W := W) (s0 := s0) e91 ?_ (fun k92 => ?_)
              · refine only_haSnoops (sub_trans rfl hW) ?_
                assumption
              refine only_fst_mk ?_
              refine hx10 _ _ ?_
              assumption
          · split
            · rename_i e93
              replace e93 := congrArg Prod.snd e93
              dsimp only at e93
              refine only_of_eq (W := W) (s0 := s0) e93 ?_ (fun k94 => ?_)
              · refine only_haSnoops (sub_trans rfl hW) ?_
                assumption
              refine only_fst_mk ?_
              refine hx10 _ _ ?_
              assumption
          · split
            · rename_i e95
              replace e95 := congrArg Prod.snd e95
              dsimp only at e95
              refine only_of_eq (W := W) (s0 := s0) e95 ?_ (fun k96 => ?_)
              · refine only_haSnoops (sub_trans rfl hW) ?_
                assumption
              refine only_fst_mk ?_
              refine hx10 _ _ ?_
              assumption

theorem only_haCount {W : Nat} {s0 : State} (hW : Sub 0x8000000000000000000004 W)   {s : State} (hs : Only W s0 s) :
    Only W s0 (haCount s) := by
  unfold haCount
  refine only_iter (fun x t ht => ?_) ?_
  · refine only_State_setF (sub_trans rfl hW) ?_
    assumption
  · exact hs

theorem only_setHaReq {W : Nat} {s0 : State} (hW : Sub 0x4000 W)  {q : HaReq} {q' : HaReq} {s : State} (hs : Only W s0 s) :
    Only W s0 (setHaReq q q' s) := by
  unfold setHaReq
  refine only_haQ (sub_trans rfl hW) ?_ _
  exact hs

theorem only_haTry {W : Nat} {s0 : State} (hW : Sub 0x302000000000000000000000000000000000042800f12d800000000000004002601e W)  {q : HaReq} {s : State} (hs : Only W s0 s) :
    Only W s0 (haTry q s) := by
  unfold haTry
  extract_lets +onlyGivenNames -merge -useContext -underBinder x1
  refine only_ite ?_ ?_
  · exact hs
  · split
    · exact only_haRecall (sub_trans rfl hW) (only_haError (sub_trans rfl hW) (only_setHaReq (sub_trans rfl hW) hs))
    · split
      · rename_i e2
        replace e2 := congrArg Prod.fst e2
        dsimp only at e2
        refine only_of_eq (W := W) (s0 := s0) e2 ?_ (fun k3 => ?_)
        · exact only_haBegin (sub_trans rfl hW) hs
        refine only_haQ (sub_trans rfl hW) ?_ _
        assumption
      · rename_i e4
        replace e4 := congrArg Prod.fst e4
        dsimp only at e4
        refine only_of_eq (W := W) (s0 := s0) e4 ?_ (fun k5 => ?_)
        · exact only_haBegin (sub_trans rfl hW) hs
        extract_lets +onlyGivenNames -merge -useContext -underBinder x6
        extract_lets +onlyGivenNames -merge -useContext -underBinder x7
        have hx7 : Only W s0 (x7) := by
          unfold x7
          refine only_ite ?_ ?_
          · refine only_State_satInc (sub_trans rfl hW) ?_
            assumption
          · assumption
        try clear_value x7
        exact only_setHaReq (sub_trans rfl hW) hx7

theorem only_haPass {W : Nat} {s0 : State} (hW : Sub 0x302000000000000000000000000000000000042800f12d800000000000004002601e W)   {s : State} (hs : Only W s0 s) :
    Only W s0 (haPass s) := by
  unfold haPass
  refine only_foldl (fun t x ht => ?_) ?_
  · refine only_foldl (fun t x ht => ?_) ?_
    · refine only_haTry (sub_trans rfl hW) ?_
      assumption
    · assumption
  · exact hs

theorem only_rawAccess {W : Nat} {s0 : State} (hW : Sub 0x403020000000000000000000000000000000000000c0d0200000000000000000006016 W)  {cmd : Nat} {s : State} (hs : Only W s0 s) :
    Only W s0 (rawAccess cmd s) := by
  unfold rawAccess
  extract_lets +onlyGivenNames -merge -useContext -underBinder x1
  extract_lets +onlyGivenNames -merge -useContext -underBinder x2
  extract_lets +onlyGivenNames -merge -useContext -underBinder x3
  have hx3 : Only W s0 (x3) := only_mcDrainAll (sub_trans rfl hW) (only_atomFlush (sub_trans rfl hW) hs)
  try clear_value x3
  extract_lets +onlyGivenNames -merge -useContext -underBinder x4
  refine only_ite ?_ ?_
  · extract_lets +onlyGivenNames -merge -useContext -underBinder x5
    extract_lets +onlyGivenNames -merge -useContext -underBinder x6
    have hx6 : Only W s0 (x6) := by
      unfold x6
      refine only_iter (fun x t ht => ?_) ?_
      · refine only_State_setR (sub_trans rfl hW) ?_
        assumption
      · exact hx3
    try clear_value x6
    exact only_State_setR (sub_trans rfl hW) hx6
  · exact only_State_setBytes (sub_trans rfl hW) (only_State_setBytes (sub_trans rfl hW) hx3)

theorem only_testStep {W : Nat} {s0 : State} (hW : Sub 0x40302000000000000000000000000000000000042ac0f12d000000000000004002601e W)  {cmd : Nat} {s : State} (hs : Only W s0 s) :
    Only W s0 (testStep cmd s) := by
  unfold testStep
  extract_lets +onlyGivenNames -merge -useContext -underBinder x1
  extract_lets +onlyGivenNames -merge -useContext -underBinder x2
  have hx2 : ∀ y0, Only W s0 (y0) → Only W s0 (x2 y0) := by
    unfold x2
    intro y3 hy3
    refine only_State_setB (sub_trans rfl hW) ?_
    refine only_testRun (sub_trans rfl hW) ?_ _
    exact hy3
  try clear_value x2
  refine only_ite ?_ ?_
  · exact hx2 _ hs
  · split
    · exact hx2 _ (only_haRecall (sub_trans rfl hW) hs)
    · refine only_rawAccess (sub_trans rfl hW) ?_
      refine only_State_setB (sub_trans rfl hW) ?_
      refine only_testRun (sub_trans rfl hW) ?_ _
      exact hs

theorem only_testCmd {W : Nat} {s0 : State} (hW : Sub 0x40302000000000000000000000000000000000042ac0f12d000000000000004002601e W)  {cmd : Nat} {s : State} (hs : Only W s0 s) :
    Only W s0 (testCmd cmd s) := by
  unfold testCmd
  refine only_ite ?_ ?_
  · exact hs
  · extract_lets +onlyGivenNames -merge -useContext -underBinder x1
    extract_lets +onlyGivenNames -merge -useContext -underBinder x2
    have hx2 : ∀ y0 y1, Only W s0 (y1) → Only W s0 (x2 y0 y1) := by
      unfold x2
      intro y3 y4 hy4
      exact only_State_setF (sub_trans rfl hW) hy4
    try clear_value x2
    refine only_ite ?_ ?_
    · exact hx2 _ _ hs
    · refine only_ite ?_ ?_
      · exact hx2 _ _ hs
      · refine only_ite ?_ ?_
        · exact hx2 _ _ hs
        · extract_lets +onlyGivenNames -merge -useContext -underBinder x5
          have hx5 : Only W s0 (x5) := hx2 _ _ hs
          try clear_value x5
          refine only_ite ?_ ?_
          · exact only_testStep (sub_trans rfl hW) hx5
          · exact only_State_setR (sub_trans rfl hW) hx5

theorem only_testWrite {W : Nat} {s0 : State} (hW : Sub 0x40302000000000000000000000000000000000042af0f12d000000000000004002601e W)  {key : Nat} {v : Word} {s : State} (hs : Only W s0 s) :
    Only W s0 (testWrite key v s) := by
  unfold testWrite
  refine only_ite ?_ ?_
  · refine only_testHeld (sub_trans rfl hW) ?_ _
    exact hs
  · split
    · exact only_testCmd (sub_trans rfl hW) hs
    · exact only_State_wr (sub_trans rfl hW) hs
    · exact only_State_wr (sub_trans rfl hW) hs
    · exact only_State_wr (sub_trans rfl hW) hs
    · exact only_State_wr (sub_trans rfl hW) hs
    · exact hs

theorem only_testGo {W : Nat} {s0 : State} (hW : Sub 0x302000000000000000000000000000000000042af0f12d000000000000004002601e W) {s : State} (hs : Only W s0 s) : Only W s0 (testGo s) := by
  unfold testGo
  split
  · exact hs
  · next cmd e =>
    have wide {t : State} (h : Only (W ||| 1 <<< storeBit) s0 t) : Only W s0 t := by
      refine ⟨⟨h.1.1, fun hw e0 => ?_⟩, fun p hp => h.2.1 p ?_, fun g hg => h.2.2 g ?_⟩
      · rw [(hs.1.2 hw e0).1] at e
        cases e
      · rw [Nat.testBit_or, hp, shift_testBit (by have := part_ctorIdx_lt p; simp only [storeBit]; omega), Bool.or_false]
      · rw [Nat.testBit_or, hg, shift_testBit (by have := g.ctorIdx_lt; simp only [storeBit, Reg.mark]; omega), Bool.or_false]
    have hS : Sub (0x302000000000000000000000000000000000042af0f12d000000000000004002601e ||| 1 <<< storeBit) (W ||| 1 <<< storeBit) := by
      rw [Sub, ← Nat.or_and_distrib_right, show 0x302000000000000000000000000000000000042af0f12d000000000000004002601e &&& W = 0x302000000000000000000000000000000000042af0f12d000000000000004002601e from hW]
    have hw : Sub W (W ||| 1 <<< storeBit) := by
      apply Nat.eq_of_testBit_eq
      intro i
      rw [Nat.testBit_and, Nat.testBit_or]
      cases W.testBit i <;> rfl
    refine wide ?_
    have h1 := only_testStep (sub_trans rfl hS) (cmd := cmd) (hs.mono hw)
    generalize testStep cmd s = u at h1
    dsimp only
    refine only_ite h1 (only_foldl (fun t x ht => only_testWrite (sub_trans rfl hS) ht) ?_)
    exact only_testHeld (sub_trans rfl hS) h1 _

theorem only_haRetry {W : Nat} {s0 : State} (hW : Sub 0x302000000000000000000000000000000000042800f12d000000000000004002601e W)   {s : State} (hs : Only W s0 s) :
    Only W s0 (haRetry s) := by
  unfold haRetry
  refine only_foldl (fun t x ht => ?_) ?_
  · refine only_ite ?_ ?_
    · refine only_haAdvance (sub_trans rfl hW) ?_
      assumption
    · assumption
  · exact hs

theorem only_haPump {W : Nat} {s0 : State} (hW : Sub 0x302000000000000000000000000000000000042af0f12d800000000000004002601e W)   {s : State} (hs : Only W s0 s) :
    Only W s0 (haPump s) := by
  unfold haPump
  refine only_testGo (sub_trans rfl hW) ?_
  refine only_haCount (sub_trans rfl hW) ?_
  refine only_iter (fun x t ht => ?_) ?_
  · refine only_haPass (sub_trans rfl hW) ?_
    assumption
  · exact only_haRetry (sub_trans rfl hW) hs

theorem only_haTieClose {W : Nat} {s0 : State} (hW : Sub 0x8000000000000000004004 W)   {s : State} (hs : Only W s0 s) :
    Only W s0 (haTieClose s) := by
  unfold haTieClose
  split
  · exact hs
  · extract_lets +onlyGivenNames -merge -useContext -underBinder x1
    extract_lets +onlyGivenNames -merge -useContext -underBinder x2
    extract_lets +onlyGivenNames -merge -useContext -underBinder x3
    extract_lets +onlyGivenNames -merge -useContext -underBinder x4
    try clear_value x4
    extract_lets +onlyGivenNames -merge -useContext -underBinder x5
    have hx5 : Only W s0 (x5) := by
      unfold x5
      split
      · exact only_State_setF (sub_trans rfl hW) hs
      · exact hs
    try clear_value x5
    refine only_haQ_haTie (sub_trans rfl hW) ?_ _ _
    exact hx5

theorem only_haDenied {W : Nat} {s0 : State} (hW : Sub 0xe0000007000000000000000000000000000000000000000004 W)  {p : Packet} {s : State} (hs : Only W s0 s) :
    OnlyOptSnd W s0 (haDenied p s) := by
  unfold haDenied
  extract_lets +onlyGivenNames -merge -useContext -underBinder x1
  refine only_ite_optSnd ?_ ?_
  · refine optSnd_some ?_
    exact only_snd_mk hs
  · refine only_ite_optSnd ?_ ?_
    · refine optSnd_some ?_
      exact only_snd_mk (only_denyWorld (sub_trans rfl hW) hs)
    · refine only_ite_optSnd ?_ ?_
      · refine optSnd_some ?_
        exact only_snd_mk (only_denyPart (sub_trans rfl hW) hs)
      · refine only_ite_optSnd ?_ ?_
        · refine optSnd_some ?_
          exact only_snd_mk hs
        · exact optSnd_none

theorem only_haRequest {W : Nat} {s0 : State} (hW : Sub 0x302000000000000000e00000070000000000042af0f12d800000000000004002601e W)  {p : Packet} {more : Bool} {ue : Bool} {s : State} (hs : Only W s0 s) :
    Only W s0 (haRequest p more ue s) := by
  unfold haRequest
  extract_lets +onlyGivenNames -merge -useContext -underBinder x1
  refine only_ite ?_ ?_
  · exact hs
  · extract_lets +onlyGivenNames -merge -useContext -underBinder x2
    have hx2 : Only W s0 (x2) := only_State_take (sub_trans rfl hW) hs
    try clear_value x2
    extract_lets +onlyGivenNames -merge -useContext -underBinder x3
    have hx3 : Only W s0 (x3) := by
      unfold x3
      split
      · rename_i e4
        have k5 := only_haDenied (sub_trans rfl hW) (by assumption) _ e4
        refine only_haRefuse (sub_trans rfl hW) ?_
        assumption
      · extract_lets +onlyGivenNames -merge -useContext -underBinder x6
        have hx6 : Only W s0 (x6) := by
          unfold x6
          refine only_ite ?_ ?_
          · exact hx2
          · exact only_haTieClose (sub_trans rfl hW) hx2
        try clear_value x6
        refine only_haTie (sub_trans rfl hW) ?_ _
        exact hx6
    try clear_value x3
    refine only_ite ?_ ?_
    · exact hx3
    · exact only_haPump (sub_trans rfl hW) (only_haTieClose (sub_trans rfl hW) hx3)

theorem only_haResponse {W : Nat} {s0 : State} (hW : Sub 0x302000000000000000000000000000000000042af0f12d800000000000004002601e W)  {p : Packet} {act : HaTx → State → HaTx × State} (hact : ∀ y0 y1, Only W s0 (y1) → Only W s0 (act y0 y1).2) {s : State} (hs : Only W s0 s) :
    Only W s0 (haResponse p act s) := by
  unfold haResponse
  refine only_ite ?_ ?_
  · exact hs
  · extract_lets +onlyGivenNames -merge -useContext -underBinder x1
    have hx1 : Only W s0 (x1) := only_State_take (sub_trans rfl hW) hs
    try clear_value x1
    extract_lets +onlyGivenNames -merge -useContext -underBinder x2
    extract_lets +onlyGivenNames -merge -useContext -underBinder x3
    split
    · refine only_ite ?_ ?_
      · split
        · rename_i e4
          replace e4 := congrArg Prod.snd e4
          dsimp only at e4
          refine only_of_eq (W := W) (s0 := s0) e4 ?_ (fun k5 => ?_)
          · refine hact _ _ ?_
            exact hx1
          refine only_haPump (sub_trans rfl hW) ?_
          refine only_haAdvance (sub_trans rfl hW) ?_
          refine only_setHaTx (sub_trans rfl hW) ?_
          assumption
      · exact only_haError (sub_trans rfl hW) hx1
    · exact only_haError (sub_trans rfl hW) hx1

theorem only_dirDrop {W : Nat} {s0 : State} (hW : Sub 0x10000000000000000004004 W)  {a : Nat} {d : Nat} {s : State} (hs : Only W s0 s) :
    Only W s0 (dirDrop a d s) := by
  unfold dirDrop
  split
  · exact hs
  · extract_lets +onlyGivenNames -merge -useContext -underBinder x1
    exact only_State_setDir (sub_trans rfl hW) hs

theorem only_haWbM {W : Nat} {s0 : State} (hW : Sub 0x302000000000000000000000000000000000042af0f12d800000000000004002601e W)  {p : Packet} {s : State} (hs : Only W s0 s) :
    Only W s0 (haWbM p s) := by
  unfold haWbM
  refine only_ite ?_ ?_
  · exact hs
  · extract_lets +onlyGivenNames -merge -useContext -underBinder x1
    have hx1 : Only W s0 (x1) := only_State_take (sub_trans rfl hW) hs
    try clear_value x1
    extract_lets +onlyGivenNames -merge -useContext -underBinder x2
    extract_lets +onlyGivenNames -merge -useContext -underBinder x3
    extract_lets +onlyGivenNames -merge -useContext -underBinder x4
    extract_lets +onlyGivenNames -merge -useContext -underBinder x5
    have hx5 : ∀ y0, Only W s0 (y0) → Only W s0 (x5 y0) := by
      unfold x5
      intro y6 hy6
      exact only_sendTo (sub_trans rfl hW) hy6
    try clear_value x5
    refine only_ite ?_ ?_
    · exact hx5 _ (only_haError (sub_trans rfl hW) hx1)
    · extract_lets +onlyGivenNames -merge -useContext -underBinder x7
      have hx7 : Only W s0 (x7) := hx5 _ (only_mcWrite (sub_trans rfl hW) hx1)
      try clear_value x7
      split
      · refine only_ite ?_ ?_
        · exact only_dirDrop (sub_trans rfl hW) hx7
        · refine only_haPump (sub_trans rfl hW) ?_
          exact only_haAdvance (sub_trans rfl hW) (only_setHaTx (sub_trans rfl hW) hx7)
      · split
        · exact only_haPump (sub_trans rfl hW) (only_State_setDir (sub_trans rfl hW) hx7)
        · exact hx7

theorem only_haEvC {W : Nat} {s0 : State} (hW : Sub 0x302000000000000000000000000000000000042af0f12d800000000000004002601e W)  {p : Packet} {s : State} (hs : Only W s0 s) :
    Only W s0 (haEvC p s) := by
  unfold haEvC
  refine only_ite ?_ ?_
  · exact hs
  · extract_lets +onlyGivenNames -merge -useContext -underBinder x1
    have hx1 : Only W s0 (x1) := only_State_take (sub_trans rfl hW) hs
    try clear_value x1
    extract_lets +onlyGivenNames -merge -useContext -underBinder x2
    extract_lets +onlyGivenNames -merge -useContext -underBinder x3
    extract_lets +onlyGivenNames -merge -useContext -underBinder x4
    have hx4 : Only W s0 (x4) := only_sendTo (sub_trans rfl hW) hx1
    try clear_value x4
    split
    · exact hx4
    · extract_lets +onlyGivenNames -merge -useContext -underBinder x5
      refine only_ite ?_ ?_
      · exact hx4
      · split
        · extract_lets +onlyGivenNames -merge -useContext -underBinder x6
          have hx6 : Only W s0 (x6) := only_dirDrop (sub_trans rfl hW) hx4
          try clear_value x6
          refine only_haPump (sub_trans rfl hW) ?_
          exact only_haAdvance (sub_trans rfl hW) (only_setHaTx (sub_trans rfl hW) hx6)
        · extract_lets +onlyGivenNames -merge -useContext -underBinder x7
          have hx7 : Only W s0 (x7) := only_dirDrop (sub_trans rfl hW) hx4
          try clear_value x7
          refine only_ite ?_ ?_
          · exact only_haPump (sub_trans rfl hW) (only_State_setDir (sub_trans rfl hW) hx7)
          · exact hx7

theorem only_haWbP {W : Nat} {s0 : State} (hW : Sub 0x302000000000000000000000000000000000042af0f12d800000000000004002601e W)  {p : Packet} {s : State} (hs : Only W s0 s) :
    Only W s0 (haWbP p s) := by
  unfold haWbP
  refine only_haResponse (sub_trans rfl hW) ?_ ?_
  · intro y1 y2 hy2
    extract_lets +onlyGivenNames -merge -useContext -underBinder x3
    extract_lets +onlyGivenNames -merge -useContext -underBinder x4
    have hx4 : Only W s0 (x4) := only_State_satInc (sub_trans rfl hW) hy2
    try clear_value x4
    exact only_snd_mk hx4
  · exact hs

theorem only_haCmpAck {W : Nat} {s0 : State} (hW : Sub 0x302000000000000000000000000000000000042af0f12d800000000000004002601e W)  {p : Packet} {s : State} (hs : Only W s0 s) :
    Only W s0 (haCmpAck p s) := by
  unfold haCmpAck
  refine only_ite ?_ ?_
  · exact hs
  · extract_lets +onlyGivenNames -merge -useContext -underBinder x1
    have hx1 : Only W s0 (x1) := only_State_take (sub_trans rfl hW) hs
    try clear_value x1
    extract_lets +onlyGivenNames -merge -useContext -underBinder x2
    split
    · refine only_ite ?_ ?_
      · exact only_haPump (sub_trans rfl hW) (only_haEnd (sub_trans rfl hW) hx1)
      · exact only_haError (sub_trans rfl hW) hx1
    · exact only_haError (sub_trans rfl hW) hx1

theorem only_haDieLost {W : Nat} {s0 : State} (hW : Sub 0x302000000000000000000000000000000000042af0f12f800000000000004002601e W)  {n : Nat} {s : State} (hs : Only W s0 s) :
    Only W s0 (haDieLost n s) := by
  unfold haDieLost
  extract_lets +onlyGivenNames -merge -useContext -underBinder x1
  have hx1 : Only W s0 (x1) := by
    unfold x1
    refine only_iter (fun x t ht => ?_) ?_
    · refine only_State_setFbit (sub_trans rfl hW) ?_
      assumption
    · exact hs
  try clear_value x1
  extract_lets +onlyGivenNames -merge -useContext -underBinder x2
  have hx2 : Only W s0 (x2) := by
    unfold x2
    refine only_foldl (fun t x ht => ?_) ?_
    · split
      · refine only_ite ?_ ?_
        · assumption
        · extract_lets +onlyGivenNames -merge -useContext -underBinder x3
          refine only_ite ?_ ?_
          · split
            · rename_i e4
              replace e4 := congrArg Prod.snd e4
              dsimp only at e4
              refine only_of_eq (W := W) (s0 := s0) e4 ?_ (fun k5 => ?_)
              · refine only_mcRead (sub_trans rfl hW) ?_
                assumption
              extract_lets +onlyGivenNames -merge -useContext -underBinder x6
              have hx6 : Only W s0 (x6) := by
                unfold x6
                refine only_haError (sub_trans rfl hW) ?_
                refine only_mcWrite (sub_trans rfl hW) ?_
                assumption
              try clear_value x6
              refine only_ite ?_ ?_
              · exact only_State_setDir (sub_trans rfl hW) hx6
              · exact only_State_setDir (sub_trans rfl hW) hx6
          · extract_lets +onlyGivenNames -merge -useContext -underBinder x7
            refine only_ite ?_ ?_
            · refine only_State_setDir (sub_trans rfl hW) ?_
              assumption
            · refine only_State_setDir (sub_trans rfl hW) ?_
              assumption
    · exact hx1
  try clear_value x2
  extract_lets +onlyGivenNames -merge -useContext -underBinder x8
  have hx8 : Only W s0 (x8) := by
    unfold x8
    refine only_foldl (fun t x ht => ?_) ?_
    · split
      · refine only_haEnd (sub_trans rfl hW) ?_
        assumption
      · refine only_haAdvance (sub_trans rfl hW) ?_
        refine only_setHaTx (sub_trans rfl hW) ?_
        assumption
    · exact hx2
  try clear_value x8
  refine only_haPump (sub_trans rfl hW) ?_
  refine only_haQ (sub_trans rfl hW) ?_ _
  exact hx8

theorem only_worldWalk {W : Nat} {s0 : State} (hW : Sub 0x302000000000000000000000010000000000042af0f12d800000000000004002601e W)   {s : State} (hs : Only W s0 s) :
    Only W s0 (worldWalk s) := by
  unfold worldWalk
  extract_lets +onlyGivenNames -merge -useContext -underBinder x1
  extract_lets +onlyGivenNames -merge -useContext -underBinder x2
  have hx2 : Only W s0 (x2) := by
    unfold x2
    refine only_foldl (fun t x ht => ?_) ?_
    · split
      · refine only_ite ?_ ?_
        · assumption
        · refine only_haRecall (sub_trans rfl hW) ?_
          assumption
    · exact hs
  try clear_value x2
  extract_lets +onlyGivenNames -merge -useContext -underBinder x3
  have hx3 : Only W s0 (x3) := only_haPump (sub_trans rfl hW) hx2
  try clear_value x3
  refine only_ite ?_ ?_
  · extract_lets +onlyGivenNames -merge -useContext -underBinder x4
    have hx4 : Only W s0 (x4) := only_State_setB (sub_trans rfl hW) hx3
    try clear_value x4
    refine only_walks (sub_trans rfl hW) ?_ _
    exact hx4
  · exact hx3

theorem only_operandRead {W : Nat} {s0 : State} (hW : Sub 0x302000000000000000000000000000000000000000f0200000000000000040002016 W)  {q : McReq} {s : State} (hs : Only W s0 s) :
    Only W s0 (operandRead q s).2 := by
  unfold operandRead
  extract_lets +onlyGivenNames -merge -useContext -underBinder x1
  have hx1 : Only W s0 (x1) := only_mcDone (sub_trans rfl hW) hs
  try clear_value x1
  split
  · refine only_ite_snd ?_ ?_
    · extract_lets +onlyGivenNames -merge -useContext -underBinder x2
      split
      · rename_i e3
        replace e3 := congrArg Prod.snd e3
        dsimp only at e3
        refine only_of_eq (W := W) (s0 := s0) e3 ?_ (fun k4 => ?_)
        · exact only_halfRead (sub_trans rfl hW) hx1
        refine only_snd_mk ?_
        assumption
    · exact only_mcRead (sub_trans rfl hW) hx1
  · exact only_mcRead (sub_trans rfl hW) hx1

theorem only_mcReadDone {W : Nat} {s0 : State} (hW : Sub 0x302000000000000000000000000000000000042af0f12d800000000000004002601e W)  {a : Nat} {s : State} (hs : Only W s0 s) :
    Only W s0 (mcReadDone a s) := by
  unfold mcReadDone
  split
  · exact hs
  · refine only_ite ?_ ?_
    · exact hs
    · split
      · rename_i e1
        replace e1 := congrArg Prod.snd e1
        dsimp only at e1
        refine only_of_eq (W := W) (s0 := s0) e1 ?_ (fun k2 => ?_)
        · exact only_operandRead (sub_trans rfl hW) hs
        split
        · refine only_haPump (sub_trans rfl hW) ?_
          refine only_haAdvance (sub_trans rfl hW) ?_
          refine only_setHaTx (sub_trans rfl hW) ?_
          assumption
        · assumption

theorem only_mcWritesGo {W : Nat} {s0 : State} (hW : Sub 0x302000000000000000000000000000000000042af0f12d800000000000004002601e W)   {s : State} (hs : Only W s0 s) :
    Only W s0 (mcWritesGo s) := by
  unfold mcWritesGo
  refine only_haPump (sub_trans rfl hW) ?_
  refine only_foldl (fun t x ht => ?_) ?_
  · refine only_ite ?_ ?_
    · split
      · split
        · extract_lets +onlyGivenNames -merge -useContext -underBinder x1
          have hx1 : Only W s0 (x1) := by
            unfold x1
            refine only_mcMerge (sub_trans rfl hW) ?_
            refine only_mcDone (sub_trans rfl hW) ?_
            assumption
          try clear_value x1
          exact only_haFinish (sub_trans rfl hW) hx1
        · assumption
      · assumption
    · assumption
  · exact hs

end Sys2Proof.Machine
end

