-- ==== Sys2Proof/Laws/KeepControllers.lean ====
section
/-! SUPPORT. What the definitions of Machine/Controllers.lean leave alone: one lemma for each that answers a state. -/
namespace Sys2Proof.Machine

theorem only_execBankRefresh {W : Nat} {s0 : State} (hW : Sub 0x302000000000000000000000000000000000042af0f12d800000000000004002601e W)  {k : Nat} {c : Nat} {w : Nat} {owed : Bool} {recentGt : Bool} {s : State} (hs : Only W s0 s) :
    OnlyOut W s0 (execBankRefresh k c w owed recentGt s) := by
  unfold execBankRefresh
  extract_lets +onlyGivenNames -merge -useContext -underBinder x1
  extract_lets +onlyGivenNames -merge -useContext -underBinder x2
  extract_lets +onlyGivenNames -merge -useContext -underBinder x3
  extract_lets +onlyGivenNames -merge -useContext -underBinder x4 x5
  have hx4 : Only W s0 (x4) := by
    unfold x4
    refine only_ite ?_ ?_
    · exact only_State_satInc (sub_trans rfl hW) hs
    · exact hs
  try clear_value x4
  have hx5 : Only W s0 (x5) := by
    unfold x5
    refine only_ite ?_ ?_
    · exact hs
    · refine only_ite ?_ ?_
      · refine only_mcBank (sub_trans rfl hW) ?_ _
        exact hs
      · refine only_mcBank_mcOpen (sub_trans rfl hW) ?_ _ _
        exact hx4
  try clear_value x5
  extract_lets +onlyGivenNames -merge -useContext -underBinder x6
  have hx6 : Only W s0 (x6) := by
    unfold x6
    refine only_mcStart (sub_trans rfl hW) ?_ _
    exact hx5
  try clear_value x6
  exact only_next (only_mcWritesGo (sub_trans rfl hW) (only_windowOpen (sub_trans rfl hW) hx6))

theorem only_maintain {W : Nat} {s0 : State} (hW : Sub 0x2000 W)  {k : Nat} {c : Nat} {act : State → State} (hact : ∀ y0, Only W s0 (y0) → Only W s0 (act y0)) {s : State} (hs : Only W s0 s) :
    Only W s0 (maintain k c act s) := by
  unfold maintain
  refine only_ite ?_ ?_
  · exact hs
  · refine hact _ ?_
    refine only_mcStart (sub_trans rfl hW) ?_ _
    exact hs

theorem only_windowRuns {W : Nat} {s0 : State} (hW : Sub 0x2000 W)  {a : Nat} {s : State} (hs : Only W s0 s) :
    Only W s0 (windowRuns a s) := by
  unfold windowRuns
  refine only_mcStart (sub_trans rfl hW) ?_ _
  exact hs

theorem only_execZqCalibration {W : Nat} {s0 : State} (hW : Sub 0x2000 W)  {k : Nat} {c : Nat} {s : State} (hs : Only W s0 s) :
    OnlyOut W s0 (execZqCalibration k c s) := by
  unfold execZqCalibration
  refine only_next ?_
  refine only_maintain (sub_trans rfl hW) ?_ ?_
  · intro y1 hy1
    exact hy1
  · exact hs

theorem only_execMr4Read {W : Nat} {s0 : State} (hW : Sub 0x200000000000000000002004 W)  {k : Nat} {c : Nat} {rate : Nat} {s : State} (hs : Only W s0 s) :
    OnlyOut W s0 (execMr4Read k c rate s) := by
  unfold execMr4Read
  refine only_next ?_
  refine only_maintain (sub_trans rfl hW) ?_ ?_
  · intro y1 hy1
    extract_lets +onlyGivenNames -merge -useContext -underBinder x2
    have hx2 : Only W s0 (x2) := by
      unfold x2
      refine only_mcRate (sub_trans rfl hW) ?_ _
      exact hy1
    try clear_value x2
    exact only_State_setF (sub_trans rfl hW) hx2
  · exact hs

theorem only_execDqsOscillatorRead {W : Nat} {s0 : State} (hW : Sub 0x400000000000000000002004 W)  {k : Nat} {c : Nat} {drift : Bool} {s : State} (hs : Only W s0 s) :
    OnlyOut W s0 (execDqsOscillatorRead k c drift s) := by
  unfold execDqsOscillatorRead
  refine only_next ?_
  refine only_maintain (sub_trans rfl hW) ?_ ?_
  · intro y1 hy1
    refine only_ite ?_ ?_
    · exact only_State_satInc (sub_trans rfl hW) hy1
    · exact hy1
  · exact hs

theorem only_execHpPromotion {W : Nat} {s0 : State} (hW : Sub 0x2000 W)  {addr : Nat} {s : State} (hs : Only W s0 s) :
    OnlyOut W s0 (execHpPromotion addr s) := by
  unfold execHpPromotion
  split
  · exact only_next hs
  · refine only_next ?_
    refine only_mcq (sub_trans rfl hW) ?_ _
    exact hs

theorem only_execDramReadComplete {W : Nat} {s0 : State} (hW : Sub 0x302000000000000000000000000000000000042af0f12d800000000000004002601e W)  {addr : Nat} {s : State} (hs : Only W s0 s) :
    OnlyOut W s0 (execDramReadComplete addr s) := by
  unfold execDramReadComplete
  refine only_next ?_
  refine only_ite ?_ ?_
  · exact hs
  · exact only_mcReadDone (sub_trans rfl hW) (only_windowRuns (sub_trans rfl hW) hs)

theorem only_execWriteDrain {W : Nat} {s0 : State} (hW : Sub 0x40302000000000000000000000000000000000042af0f12d800000000000004002601e W)  {addr : Nat} {s : State} (hs : Only W s0 s) :
    OnlyOut W s0 (execWriteDrain addr s) := by
  unfold execWriteDrain
  refine only_next ?_
  exact only_mcWritesGo (sub_trans rfl hW) (only_mcDrain (sub_trans rfl hW) (only_windowRuns (sub_trans rfl hW) hs))

theorem only_creditSet {W : Nat} {s0 : State} (hW : Sub 0x20000000000000000000000000a00000000000000000002004 W)  {k : Nat} {p : Nat} {v : Word} {s : State} (hs : Only W s0 s) :
    Only W s0 (creditSet k p v s) := by
  unfold creditSet
  refine only_ite ?_ ?_
  · exact only_pqErr (sub_trans rfl hW) hs
  · refine only_ite ?_ ?_
    · exact only_State_setB (sub_trans rfl hW) hs
    · exact only_creditPut (sub_trans rfl hW) hs

theorem only_mcCtrlWrite {W : Nat} {s0 : State} (hW : Sub 0x300000000000000000000004 W)  {k : Nat} {v : Word} {s : State} (hs : Only W s0 s) :
    Only W s0 (mcCtrlWrite k v s) := by
  unfold mcCtrlWrite
  extract_lets +onlyGivenNames -merge -useContext -underBinder x1
  have hx1 : Only W s0 (x1) := only_State_wr (sub_trans rfl hW) hs
  try clear_value x1
  refine only_ite ?_ ?_
  · exact only_State_setB (sub_trans rfl hW) hs
  · exact hx1

theorem only_execCreditWrite {W : Nat} {s0 : State} (hW : Sub 0xe0000007000000000000000000b00000000000000000002024 W)  {a : Access} {k : Nat} {p : Option Nat} {v : Word} {s : State} (hs : Only W s0 s) :
    OnlyOut W s0 (execCreditWrite a k p v s) := by
  unfold execCreditWrite
  split
  · refine only_next ?_
    refine only_guarded (sub_trans rfl hW) ?_ ?_
    · intro y1 hy1
      exact only_creditSet (sub_trans rfl hW) hy1
    · exact hs
  · refine only_next ?_
    refine only_guarded (sub_trans rfl hW) ?_ ?_
    · intro y2 hy2
      exact only_mcCtrlWrite (sub_trans rfl hW) hy2
    · exact hs

theorem only_execPowerDownEntry {W : Nat} {s0 : State} (hW : Sub 0x200000000000000000000004 W)  {k : Nat} {c : Nat} {s : State} (hs : Only W s0 s) :
    OnlyOut W s0 (execPowerDownEntry k c s) := by
  unfold execPowerDownEntry
  extract_lets +onlyGivenNames -merge -useContext -underBinder x1
  extract_lets +onlyGivenNames -merge -useContext -underBinder x2
  extract_lets +onlyGivenNames -merge -useContext -underBinder x3
  refine only_next ?_
  refine only_ite ?_ ?_
  · exact only_State_setFbit (sub_trans rfl hW) hs
  · exact hs

theorem only_mcRefuse {W : Nat} {s0 : State} (hW : Sub 0x428000001000000000000000002600c W)  {r : McReq} {s : State} (hs : Only W s0 s) :
    Only W s0 (mcRefuse r s) := by
  unfold mcRefuse
  split
  · split
    · exact only_haSelfRef (sub_trans rfl hW) (only_mcDone (sub_trans rfl hW) hs)
    · exact only_mcDone (sub_trans rfl hW) hs
  · exact only_mcDone (sub_trans rfl hW) hs

theorem only_selfRefreshEnter {W : Nat} {s0 : State} (hW : Sub 0x40302000000000000000000000000000000000042af0f12d800000000000004002601e W)  {k : Nat} {s : State} (hs : Only W s0 s) :
    Only W s0 (selfRefreshEnter k s) := by
  unfold selfRefreshEnter
  extract_lets +onlyGivenNames -merge -useContext -underBinder x1
  extract_lets +onlyGivenNames -merge -useContext -underBinder x2
  have hx2 : Only W s0 (x2) := by
    unfold x2
    refine only_foldl (fun t x ht => ?_) ?_
    · refine only_mcReadDone (sub_trans rfl hW) ?_
      refine only_mcq (sub_trans rfl hW) ?_ _
      assumption
    · exact hs
  try clear_value x2
  extract_lets +onlyGivenNames -merge -useContext -underBinder x3
  have hx3 : Only W s0 (x3) := only_mcDrainAll (sub_trans rfl hW) hx2
  try clear_value x3
  extract_lets +onlyGivenNames -merge -useContext -underBinder x4
  have hx4 : Only W s0 (x4) := only_State_setF (sub_trans rfl hW) (only_State_setF (sub_trans rfl hW) hx3)
  try clear_value x4
  extract_lets +onlyGivenNames -merge -useContext -underBinder x5
  have hx5 : Only W s0 (x5) := by
    unfold x5
    refine only_mcOpen (sub_trans rfl hW) ?_ _
    exact hx4
  try clear_value x5
  refine only_foldl (fun t x ht => ?_) ?_
  · refine only_mcRefuse (sub_trans rfl hW) ?_
    assumption
  · exact hx5

theorem only_dramTrain {W : Nat} {s0 : State} (hW : Sub 0x600000000000000000000004 W)  {k : Nat} {c : Nat} {fail : Nat} {wrEye : Nat} {rdEye : Nat} {s : State} (hs : Only W s0 s) :
    Only W s0 (dramTrain k c fail wrEye rdEye s) := by
  unfold dramTrain
  extract_lets +onlyGivenNames -merge -useContext -underBinder x1
  refine only_ite ?_ ?_
  · exact hs
  · extract_lets +onlyGivenNames -merge -useContext -underBinder x2
    have hx2 : Only W s0 (x2) := only_State_setF (sub_trans rfl hW) hs
    try clear_value x2
    refine only_ite ?_ ?_
    · extract_lets +onlyGivenNames -merge -useContext -underBinder x3
      have hx3 : Only W s0 (x3) := by
        unfold x3
        refine only_State_setF (sub_trans rfl hW) ?_
        exact only_State_setF (sub_trans rfl hW) (only_State_setF (sub_trans rfl hW) hx2)
      try clear_value x3
      exact only_State_setFbit (sub_trans rfl hW) (only_State_setF (sub_trans rfl hW) hx3)
    · extract_lets +onlyGivenNames -merge -useContext -underBinder x4
      have hx4 : Only W s0 (x4) := only_State_setF (sub_trans rfl hW) hx2
      try clear_value x4
      refine only_ite ?_ ?_
      · exact only_State_setF (sub_trans rfl hW) hx4
      · exact only_State_setFbit (sub_trans rfl hW) (only_State_setF (sub_trans rfl hW) hx4)

theorem only_regionBaseWrite {W : Nat} {s0 : State} (hW : Sub 0x12000000000000000000000004 W)  {i : Nat} {v : Word} {s : State} (hs : Only W s0 s) :
    Only W s0 (regionBaseWrite i v s) := by
  unfold regionBaseWrite
  refine only_ite ?_ ?_
  · exact only_State_setB (sub_trans rfl hW) hs
  · exact only_State_wr (sub_trans rfl hW) hs

theorem only_regionCodeWrite {W : Nat} {s0 : State} (hW : Sub 0x20000001000000000000000014000000000000000000004004 W)  {i : Nat} {v : Word} {s : State} (hs : Only W s0 s) :
    Only W s0 (regionCodeWrite i v s) := by
  unfold regionCodeWrite
  extract_lets +onlyGivenNames -merge -useContext -underBinder x1
  refine only_ite ?_ ?_
  · exact only_pqErr (sub_trans rfl hW) hs
  · refine only_ite ?_ ?_
    · exact only_State_setB (sub_trans rfl hW) hs
    · extract_lets +onlyGivenNames -merge -useContext -underBinder x2
      extract_lets +onlyGivenNames -merge -useContext -underBinder x3
      have hx3 : Only W s0 (x3) := only_State_wr (sub_trans rfl hW) hs
      try clear_value x3
      refine only_ite ?_ ?_
      · extract_lets +onlyGivenNames -merge -useContext -underBinder x4
        have hx4 : Only W s0 (x4) := only_State_setB (sub_trans rfl hW) hx3
        try clear_value x4
        refine only_walks (sub_trans rfl hW) ?_ _
        exact hx4
      · exact hx3

theorem only_execRegionWrite {W : Nat} {s0 : State} (hW : Sub 0xe0000007000000000000000016000000000000000000004024 W)  {a : Access} {i : Nat} {code : Bool} {v : Word} {s : State} (hs : Only W s0 s) :
    OnlyOut W s0 (execRegionWrite a i code v s) := by
  unfold execRegionWrite
  refine onlyOut_ite ?_ ?_
  · refine only_next ?_
    refine only_guarded (sub_trans rfl hW) ?_ ?_
    · intro y1 hy1
      exact only_regionCodeWrite (sub_trans rfl hW) hy1
    · exact hs
  · refine only_next ?_
    refine only_guarded (sub_trans rfl hW) ?_ ?_
    · intro y2 hy2
      exact only_regionBaseWrite (sub_trans rfl hW) hy2
    · exact hs

theorem only_execWorldWalkDone {W : Nat} {s0 : State} (hW : Sub 0x302000000000000000000000010000000000042af0f12d800000000000004002601e W)   {s : State} (hs : Only W s0 s) :
    OnlyOut W s0 (execWorldWalkDone s) := by
  unfold execWorldWalkDone
  exact only_next (only_worldWalk (sub_trans rfl hW) hs)

theorem only_mcInitWrite {W : Nat} {s0 : State} (hW : Sub 0x4000000000000000000000000000000000000000000400000000000000000000002014 W) {v : Word} {s : State} (hs : Only W s0 s) :
    Only W s0 (mcInitWrite v s) := by
  unfold mcInitWrite
  extract_lets +onlyGivenNames -merge -useContext i
  refine only_ite (only_State_setB (sub_trans rfl hW) hs) (only_ite (only_State_wr (sub_trans rfl hW) hs)
    (only_ite (only_State_setB (sub_trans rfl hW) hs) ?_))
  extract_lets +onlyGivenNames -merge -useContext t
  have ht : Only W s0 t := only_State_setB (sub_trans rfl hW) (only_State_setB (sub_trans rfl hW)
    (only_State_wr (sub_trans rfl hW) hs))
  clear_value t
  exact only_initRun (sub_trans rfl hW) (only_initWb (sub_trans rfl hW) (only_wrq (sub_trans rfl hW)
    (only_mem_filter (sub_trans rfl hW) (q := fun e => !regionHas i e.1 t) ht) _) _) _

theorem only_execMcInit {W : Nat} {s0 : State} (hW : Sub 0x40000000000000000000e0000007000000000000000400000000000000000000002034 W)  {a : Access} {v : Word} {s : State} (hs : Only W s0 s) :
    OnlyOut W s0 (execMcInit a v s) := by
  unfold execMcInit
  refine only_next ?_
  refine only_guarded (sub_trans rfl hW) ?_ ?_
  · intro y1 hy1
    exact only_mcInitWrite (sub_trans rfl hW) hy1
  · exact hs

theorem only_execMcInitDone {W : Nat} {s0 : State} (hW : Sub 0x302000000000000000000000000000000000000004d0200000000000000000002016 W)   {s : State} (hs : Only W s0 s) :
    OnlyOut W s0 (execMcInitDone s) := by
  unfold execMcInitDone
  refine onlyOut_ite ?_ ?_
  · exact only_next hs
  · extract_lets +onlyGivenNames -merge -useContext -underBinder x1
    have hx1 : Only W s0 (x1) := by
      unfold x1
      refine only_foldl (fun t x ht => ?_) ?_
      · refine only_State_bump (sub_trans rfl hW) ?_
        refine only_ite ?_ ?_
        · refine only_mcWrite (sub_trans rfl hW) ?_
          assumption
        · assumption
      · refine only_initRun (sub_trans rfl hW) ?_ _
        exact hs
    try clear_value x1
    refine only_next ?_
    refine only_State_setB (sub_trans rfl hW) ?_
    refine only_State_setB (sub_trans rfl hW) ?_
    refine only_initWb (sub_trans rfl hW) ?_ _
    exact hx1

theorem only_scrubStatus {W : Nat} {s0 : State} (hW : Sub 0x200000000000000000000000004 W)  {k : Nat} {s : State} (hs : Only W s0 s) :
    Only W s0 (scrubStatus k s) := by
  unfold scrubStatus
  extract_lets +onlyGivenNames -merge -useContext -underBinder x1
  extract_lets +onlyGivenNames -merge -useContext -underBinder x2
  exact only_State_setF (sub_trans rfl hW) (only_State_setF (sub_trans rfl hW) hs)

theorem only_execScrubStep {W : Nat} {s0 : State} (hW : Sub 0x302000000000000000000000000000000000000002f0200000000000000040002016 W)  {k : Nat} {c : Nat} {s : State} (hs : Only W s0 s) :
    OnlyOut W s0 (execScrubStep k c s) := by
  unfold execScrubStep
  refine onlyOut_ite ?_ ?_
  · exact only_next hs
  · extract_lets +onlyGivenNames -merge -useContext -underBinder x1
    extract_lets +onlyGivenNames -merge -useContext -underBinder x2
    extract_lets +onlyGivenNames -merge -useContext -underBinder x3
    have hx3 : Only W s0 (x3) := by
      unfold x3
      refine only_ite ?_ ?_
      · exact only_mcRead (sub_trans rfl hW) (only_State_setFbit (sub_trans rfl hW) hs)
      · exact hs
    try clear_value x3
    refine only_next ?_
    refine only_scrubStatus (sub_trans rfl hW) ?_
    refine only_scrubAt (sub_trans rfl hW) ?_ _
    exact hx3

theorem only_execLeak {W : Nat} {s0 : State} (hW : Sub 0x20000000000000000000000004 W)   {s : State} (hs : Only W s0 s) :
    OnlyOut W s0 (execLeak s) := by
  unfold execLeak
  refine only_next ?_
  refine only_iter (fun x t ht => ?_) ?_
  · refine only_State_setF (sub_trans rfl hW) ?_
    assumption
  · exact hs

theorem only_testCmdWrite {W : Nat} {s0 : State} (hW : Sub 0x40302000000000000000e00000070000000000042af0f12d000000000000004002603e W)  {a : Access} {n : Nat} {s : State} (hs : Only W s0 s) :
    Only W s0 (testCmdWrite a n s) := by
  unfold testCmdWrite
  refine only_guarded (sub_trans rfl hW) ?_ ?_
  · intro y1 hy1
    exact only_testWrite (sub_trans rfl hW) hy1
  · exact hs

theorem only_execRawRead {W : Nat} {s0 : State} (hW : Sub 0x40302000000000000000e00000070000000000042af0f12d000000000000004002603e W)  {a : Access} {s : State} (hs : Only W s0 s) :
    OnlyOut W s0 (execRawRead a s) := by
  unfold execRawRead
  exact only_next (only_testCmdWrite (sub_trans rfl hW) hs)

theorem only_execRawWrite {W : Nat} {s0 : State} (hW : Sub 0x40302000000000000000e00000070000000000042af0f12d000000000000004002603e W)  {a : Access} {s : State} (hs : Only W s0 s) :
    OnlyOut W s0 (execRawWrite a s) := by
  unfold execRawWrite
  exact only_next (only_testCmdWrite (sub_trans rfl hW) hs)

theorem only_execEncode {W : Nat} {s0 : State} (hW : Sub 0x40302000000000000000e00000070000000000042af0f12d000000000000004002603e W)  {a : Access} {s : State} (hs : Only W s0 s) :
    OnlyOut W s0 (execEncode a s) := by
  unfold execEncode
  exact only_next (only_testCmdWrite (sub_trans rfl hW) hs)

theorem only_execEncodePoison {W : Nat} {s0 : State} (hW : Sub 0x40302000000000000000e00000070000000000042af0f12d000000000000004002603e W)  {a : Access} {s : State} (hs : Only W s0 s) :
    OnlyOut W s0 (execEncodePoison a s) := by
  unfold execEncodePoison
  exact only_next (only_testCmdWrite (sub_trans rfl hW) hs)

theorem only_pageHist {W : Nat} {s0 : State} (hW : Sub 0x40200000000000000000000000000000000000000000000000000000000000002004 W)  {page : Nat} {s : State} (hs : Only W s0 s) :
    Only W s0 (pageHist page s) := by
  unfold pageHist
  extract_lets +onlyGivenNames -merge -useContext -underBinder x1
  refine only_ite ?_ ?_
  · exact hs
  · extract_lets +onlyGivenNames -merge -useContext -underBinder x2
    have hx2 : ∀ y0 y1, Only W s0 (y1) → Only W s0 (x2 y0 y1) := by
      unfold x2
      intro y3 y4 hy4
      exact only_State_setF (sub_trans rfl hW) (only_State_setB (sub_trans rfl hW) hy4)
    try clear_value x2
    split
    · exact hx2 _ _ hs
    · extract_lets +onlyGivenNames -merge -useContext -underBinder x5
      refine hx2 _ _ ?_
      refine only_State_setB (sub_trans rfl hW) ?_
      refine only_histNext (sub_trans rfl hW) ?_ _
      exact hs

theorem only_retireWrite {W : Nat} {s0 : State} (hW : Sub 0x40200000000000000000000000000000000000000800000000000000000000002004 W)  {i : Nat} {v : Word} {s : State} (hs : Only W s0 s) :
    Only W s0 (retireWrite i v s) := by
  unfold retireWrite
  extract_lets +onlyGivenNames -merge -useContext -underBinder x1
  have hx1 : Only W s0 (x1) := only_State_wr (sub_trans rfl hW) hs
  try clear_value x1
  refine only_ite ?_ ?_
  · exact only_pageHist (sub_trans rfl hW) hx1
  · exact hx1

theorem only_execPageRetire {W : Nat} {s0 : State} (hW : Sub 0x402000000000000000e0000007000000000000000800000000000000000000002024 W)  {a : Access} {i : Nat} {v : Word} {s : State} (hs : Only W s0 s) :
    OnlyOut W s0 (execPageRetire a i v s) := by
  unfold execPageRetire
  refine only_next ?_
  refine only_guarded (sub_trans rfl hW) ?_ ?_
  · intro y1 hy1
    exact only_retireWrite (sub_trans rfl hW) hy1
  · exact hs

end Sys2Proof.Machine
end

