-- ==== Sys2Proof/Laws/KeepFabric.lean ====
section
/-! SUPPORT. What the definitions of Machine/Fabric.lean leave alone: one lemma for each that answers a state. -/
namespace Sys2Proof.Machine

theorem only_routeWrite {W : Nat} {s0 : State} (hW : Sub 0x200000000000000000000000020004 W)  {v : Word} {s : State} (hs : Only W s0 s) :
    Only W s0 (routeWrite v s) := by
  unfold routeWrite
  extract_lets +onlyGivenNames -merge -useContext -underBinder x1
  extract_lets +onlyGivenNames -merge -useContext -underBinder x2
  refine only_ite ?_ ?_
  · exact hs
  · refine only_ite ?_ ?_
    · exact only_State_setB (sub_trans rfl hW) hs
    · refine only_ite ?_ ?_
      · exact hs
      · refine only_routes (sub_trans rfl hW) ?_ _
        exact hs

theorem only_execRouteTableWrite {W : Nat} {s0 : State} (hW : Sub 0xe0000007000000000000200000000000000000000000020024 W)  {a : Access} {v : Word} {s : State} (hs : Only W s0 s) :
    OnlyOut W s0 (execRouteTableWrite a v s) := by
  unfold execRouteTableWrite
  refine only_next ?_
  refine only_guarded (sub_trans rfl hW) ?_ ?_
  · intro y1 hy1
    exact only_routeWrite (sub_trans rfl hW) hy1
  · exact hs

theorem only_rtCmdWrite {W : Nat} {s0 : State} (hW : Sub 0x40000000000000000000000000000004 W)  {v : Word} {s : State} (hs : Only W s0 s) :
    Only W s0 (rtCmdWrite v s) := by
  unfold rtCmdWrite
  refine only_ite ?_ ?_
  · exact only_State_setB (sub_trans rfl hW) hs
  · exact hs

theorem only_execCopy {W : Nat} {s0 : State} (hW : Sub 0xe0000007000000000040000000000000000000000000000024 W)  {a : Access} {v : Word} {s : State} (hs : Only W s0 s) :
    OnlyOut W s0 (execCopy a v s) := by
  unfold execCopy
  refine only_next ?_
  refine only_guarded (sub_trans rfl hW) ?_ ?_
  · intro y1 hy1
    exact only_rtCmdWrite (sub_trans rfl hW) hy1
  · exact hs

theorem only_stageWin {W : Nat} {s0 : State} (hW : Sub 0x2000000000000000000000000000004 W)  {w : Nat} {c : Word} {s : State} (hs : Only W s0 s) :
    Only W s0 (stageWin w c s) := by
  unfold stageWin
  extract_lets +onlyGivenNames -merge -useContext -underBinder x1
  exact only_State_setB (sub_trans rfl hW) (only_State_setR (sub_trans rfl hW) hs)

theorem only_execCopyDone {W : Nat} {s0 : State} (hW : Sub 0x42000000000000000000000000020004 W)   {s : State} (hs : Only W s0 s) :
    OnlyOut W s0 (execCopyDone s) := by
  unfold execCopyDone
  refine onlyOut_ite ?_ ?_
  · exact only_next hs
  · extract_lets +onlyGivenNames -merge -useContext -underBinder x1
    have hx1 : Only W s0 (x1) := by
      unfold x1
      refine only_ite ?_ ?_
      · refine only_iter (fun x t ht => ?_) ?_
        · refine only_stageWin (sub_trans rfl hW) ?_
          assumption
        · refine only_routes (sub_trans rfl hW) ?_ _
          exact hs
      · exact hs
    try clear_value x1
    exact only_next (only_State_setB (sub_trans rfl hW) hx1)

theorem only_rsvWrite {W : Nat} {s0 : State} (hW : Sub 0x20000000000000000002000000000000000000000000020004 W)  {w : Nat} {v : Word} {s : State} (hs : Only W s0 s) :
    Only W s0 (rsvWrite w v s) := by
  unfold rsvWrite
  refine only_ite ?_ ?_
  · exact only_pqErr (sub_trans rfl hW) hs
  · extract_lets +onlyGivenNames -merge -useContext -underBinder x1
    have hx1 : Only W s0 (x1) := by
      unfold x1
      refine only_ite ?_ ?_
      · exact only_stageWin (sub_trans rfl hW) hs
      · exact hs
    try clear_value x1
    refine only_winPend (sub_trans rfl hW) ?_ _
    exact hx1

theorem only_epochWrite {W : Nat} {s0 : State} (hW : Sub 0x80000000000000000000000020004 W)  {v : Word} {s : State} (hs : Only W s0 s) :
    Only W s0 (epochWrite v s) := by
  unfold epochWrite
  extract_lets +onlyGivenNames -merge -useContext -underBinder x1
  have hx1 : Only W s0 (x1) := only_State_wr (sub_trans rfl hW) hs
  try clear_value x1
  refine only_ite ?_ ?_
  · refine only_epochCheck (sub_trans rfl hW) ?_ _
    exact hx1
  · exact hx1

theorem only_execEpochSwitch {W : Nat} {s0 : State} (hW : Sub 0xe0000007000000000000080000000000000000000000020024 W)  {a : Access} {v : Word} {s : State} (hs : Only W s0 s) :
    OnlyOut W s0 (execEpochSwitch a v s) := by
  unfold execEpochSwitch
  refine only_next ?_
  refine only_guarded (sub_trans rfl hW) ?_ ?_
  · intro y1 hy1
    exact only_epochWrite (sub_trans rfl hW) hy1
  · exact hs

theorem only_failWins {W : Nat} {s0 : State} (hW : Sub 0x880000000000000000000000000004 W)  {err : Nat} {i : Nat} {j : Nat} {s : State} (hs : Only W s0 s) :
    Only W s0 (failWins err i j s) := by
  unfold failWins
  refine only_State_setF (sub_trans rfl hW) ?_
  exact only_State_setF (sub_trans rfl hW) (only_State_setF (sub_trans rfl hW) hs)

theorem only_execEpochCheckDone {W : Nat} {s0 : State} (hW : Sub 0x880000000000000000000000020004 W)   {s : State} (hs : Only W s0 s) :
    OnlyOut W s0 (execEpochCheckDone s) := by
  unfold execEpochCheckDone
  refine onlyOut_ite ?_ ?_
  · exact only_next hs
  · extract_lets +onlyGivenNames -merge -useContext -underBinder x1
    have hx1 : Only W s0 (x1) := by
      unfold x1
      refine only_epochCheck (sub_trans rfl hW) ?_ _
      exact hs
    try clear_value x1
    refine onlyOut_ite ?_ ?_
    · exact only_next (only_State_setF (sub_trans rfl hW) hx1)
    · split
      · exact only_next (only_failWins (sub_trans rfl hW) hx1)
      · split
        · exact only_next (only_failWins (sub_trans rfl hW) hx1)
        · split
          · refine only_next ?_
            refine only_State_setF (sub_trans rfl hW) ?_
            refine only_State_setF (sub_trans rfl hW) ?_
            exact only_State_setF (sub_trans rfl hW) (only_State_setF (sub_trans rfl hW) hx1)
          · split
            · exact only_next (only_failWins (sub_trans rfl hW) hx1)
            · exact only_next (only_State_setB (sub_trans rfl hW) hx1)

theorem only_execEpochToggle {W : Nat} {s0 : State} (hW : Sub 0x800002080000000000000000000000020004 W)   {s : State} (hs : Only W s0 s) :
    OnlyOut W s0 (execEpochToggle s) := by
  unfold execEpochToggle
  refine onlyOut_ite ?_ ?_
  · exact only_next hs
  · extract_lets +onlyGivenNames -merge -useContext -underBinder x1
    have hx1 : Only W s0 (x1) := only_State_setB (sub_trans rfl hW) (only_State_setB (sub_trans rfl hW) hs)
    try clear_value x1
    extract_lets +onlyGivenNames -merge -useContext -underBinder x2
    have hx2 : Only W s0 (x2) := by
      unfold x2
      refine only_epochLag (sub_trans rfl hW) ?_ _
      exact hx1
    try clear_value x2
    refine only_next ?_
    refine only_iter (fun x t ht => ?_) ?_
    · refine only_halfConflict (sub_trans rfl hW) ?_
      assumption
    · refine only_iter (fun x t ht => ?_) ?_
      · extract_lets +onlyGivenNames -merge -useContext -underBinder x3
        extract_lets +onlyGivenNames -merge -useContext -underBinder x4
        refine only_stageWin (sub_trans rfl hW) ?_
        refine only_winCur (sub_trans rfl hW) ?_ _
        assumption
      · exact hx2

theorem only_windowOff {W : Nat} {s0 : State} (hW : Sub 0x2000000000000000000000000020004 W)  {w : Nat} {s : State} (hs : Only W s0 s) :
    Only W s0 (windowOff w s) := by
  unfold windowOff
  extract_lets +onlyGivenNames -merge -useContext -underBinder x1
  have hx1 : Only W s0 (x1) := only_State_setB (sub_trans rfl hW) hs
  try clear_value x1
  refine only_winCur (sub_trans rfl hW) ?_ _
  exact hx1

theorem only_windowsChange {W : Nat} {s0 : State} (hW : Sub 0x2000000000000000000000000020004 W)   {s : State} (hs : Only W s0 s) :
    Only W s0 (windowsChange s) := by
  unfold windowsChange
  extract_lets +onlyGivenNames -merge -useContext -underBinder x1 x2
  have hx1 : Only W s0 (x1) := by
    unfold x1
    refine only_foldl (fun t x ht => ?_) ?_
    · refine only_windowOff (sub_trans rfl hW) ?_
      assumption
    · exact hs
  try clear_value x1
  have hx2 : Only W s0 (x2) := by
    unfold x2
    refine only_winOff (sub_trans rfl hW) ?_ _
    exact hx1
  try clear_value x2
  extract_lets +onlyGivenNames -merge -useContext -underBinder x3
  extract_lets +onlyGivenNames -merge -useContext -underBinder x4
  have hx4 : Only W s0 (x4) := by
    unfold x4
    refine only_foldl (fun t x ht => ?_) ?_
    · split
      · split
        · refine only_ite ?_ ?_
          · refine only_State_setB (sub_trans rfl hW) ?_
            assumption
          · assumption
        · assumption
    · exact hx2
  try clear_value x4
  refine only_winPend (sub_trans rfl hW) ?_ _
  exact hx4

theorem only_creditsRefill {W : Nat} {s0 : State} (hW : Sub 0x302000000000000000000000000000000000042af0f12d800000000000004002601e W)   {s : State} (hs : Only W s0 s) :
    Only W s0 (creditsRefill s) := by
  unfold creditsRefill
  refine only_haPump (sub_trans rfl hW) ?_
  refine only_mcWritesGo (sub_trans rfl hW) ?_
  refine only_mcRelease (sub_trans rfl hW) ?_
  refine only_iter (fun x t ht => ?_) ?_
  · refine only_creditBoundary (sub_trans rfl hW) ?_
    assumption
  · exact hs

theorem only_execSlotCycleBoundary {W : Nat} {s0 : State} (hW : Sub 0x302000000000000000000000000000000000072af0f12d800000000000004002601e W)   {s : State} (hs : Only W s0 s) :
    OnlyOut W s0 (execSlotCycleBoundary s) := by
  unfold execSlotCycleBoundary
  extract_lets +onlyGivenNames -merge -useContext -underBinder x1
  have hx1 : Only W s0 (x1) := only_State_wrapInc (sub_trans rfl hW) (only_State_setF (sub_trans rfl hW) hs)
  try clear_value x1
  exact only_next (only_creditsRefill (sub_trans rfl hW) (only_windowsChange (sub_trans rfl hW) hx1))

end Sys2Proof.Machine
end

