-- ==== Sys2Proof/Laws/KeepHart.lean ====
section
/-! SUPPORT. What the definitions of Machine/Hart.lean leave alone: one lemma for each that answers a state. -/
namespace Sys2Proof.Machine

theorem only_State_setHart {W : Nat} {s0 : State} (hW : Sub 0x400 W)  {ha : Nat} {t : Hart} {s : State} (hs : Only W s0 s) :
    Only W s0 (State.setHart s ha t) := by
  unfold State.setHart
  refine only_harts (sub_trans rfl hW) ?_ _
  exact hs

theorem only_State_onHart {W : Nat} {s0 : State} (hW : Sub 0x400 W)  {ha : Nat} {f : Hart → Hart} {s : State} (hs : Only W s0 s) :
    Only W s0 (State.onHart s ha f) := by
  unfold State.onHart
  exact only_State_setHart (sub_trans rfl hW) hs

theorem only_pass {W : Nat} {s0 : State} (hW : Sub 0x400 W)  {i : Issue} {s : State} (hs : Only W s0 s) :
    Only W s0 (pass i s) := by
  unfold pass
  exact only_State_onHart (sub_trans rfl hW) hs

theorem only_raise {W : Nat} {s0 : State} (hW : Sub 0x400 W)  {i : Issue} {cause : Nat} {tval : Word} {s : State} (hs : Only W s0 s) :
    Only W s0 (raise i cause tval s) := by
  unfold raise
  exact only_State_onHart (sub_trans rfl hW) hs

theorem only_worldSwitch {W : Nat} {s0 : State} (hW : Sub 0x38000000000404 W)  {ha : Nat} {s : State} (hs : Only W s0 s) :
    Only W s0 (worldSwitch ha s) := by
  unfold worldSwitch
  extract_lets +onlyGivenNames -merge -useContext -underBinder x1
  have hx1 : Only W s0 (x1) := by
    unfold x1
    split
    · exact only_calErr (sub_trans rfl hW) hs
    · exact hs
  try clear_value x1
  exact only_State_onHart (sub_trans rfl hW) hx1

theorem only_hartClear {W : Nat} {s0 : State} (hW : Sub 0x400 W)  {ha : Nat} {s : State} (hs : Only W s0 s) :
    Only W s0 (hartClear ha s) := by
  unfold hartClear
  exact only_State_setHart (sub_trans rfl hW) hs

theorem only_tsCancelAll {W : Nat} {s0 : State} (hW : Sub 0x8000000000000020c W)  {ha : Nat} {s : State} (hs : Only W s0 s) :
    Only W s0 (tsCancelAll ha s) := by
  unfold tsCancelAll
  extract_lets +onlyGivenNames -merge -useContext -underBinder x1
  extract_lets +onlyGivenNames -merge -useContext -underBinder x2
  have hx2 : ∀ y0 y1, Only W s0 (y1) → Only W s0 (x2 y0 y1) := by
    unfold x2
    intro y3 y4 hy4
    refine only_ite ?_ ?_
    · exact only_State_setB (sub_trans rfl hW) hy4
    · exact hy4
  try clear_value x2
  extract_lets +onlyGivenNames -merge -useContext -underBinder x5
  have hx5 : Only W s0 (x5) := by
    unfold x5
    refine only_out (sub_trans rfl hW) ?_ _
    exact hs
  try clear_value x5
  exact hx2 _ _ (hx2 _ _ (only_State_setTsQ (sub_trans rfl hW) hx5))

theorem only_State_setCoreTr {W : Nat} {s0 : State} (hW : Sub 0x800 W)  {np : Nat} {c : CoreTrace} {s : State} (hs : Only W s0 s) :
    Only W s0 (State.setCoreTr s np c) := by
  unfold State.setCoreTr
  refine only_coreTrace (sub_trans rfl hW) ?_ _
  exact hs

theorem only_tracePush {W : Nat} {s0 : State} (hW : Sub 0x800 W)  {np : Nat} {ha : Nat} {kind : Nat} {w1 : Word} {s : State} (hs : Only W s0 s) :
    Only W s0 (tracePush np ha kind w1 s) := by
  unfold tracePush
  extract_lets +onlyGivenNames -merge -useContext -underBinder x1
  refine only_ite ?_ ?_
  · exact only_State_setCoreTr (sub_trans rfl hW) hs
  · refine only_ite ?_ ?_
    · exact only_State_setCoreTr (sub_trans rfl hW) hs
    · extract_lets +onlyGivenNames -merge -useContext -underBinder x2
      refine only_ite ?_ ?_
      · exact only_State_setCoreTr (sub_trans rfl hW) hs
      · exact only_State_setCoreTr (sub_trans rfl hW) hs

theorem only_traceGap {W : Nat} {s0 : State} (hW : Sub 0x800 W)  {ha : Nat} {s : State} (hs : Only W s0 s) :
    Only W s0 (traceGap ha s) := by
  unfold traceGap
  refine only_ite ?_ ?_
  · exact hs
  · extract_lets +onlyGivenNames -merge -useContext -underBinder x1
    extract_lets +onlyGivenNames -merge -useContext -underBinder x2
    refine only_ite ?_ ?_
    · extract_lets +onlyGivenNames -merge -useContext -underBinder x3
      have hx3 : Only W s0 (x3) := only_tracePush (sub_trans rfl hW) hs
      try clear_value x3
      exact only_State_setCoreTr (sub_trans rfl hW) hx3
    · exact hs

theorem only_haltNow {W : Nat} {s0 : State} (hW : Sub 0x400 W)  {ha : Nat} {cause : Nat} {s : State} (hs : Only W s0 s) :
    Only W s0 (haltNow ha cause s) := by
  unfold haltNow
  exact only_State_onHart (sub_trans rfl hW) hs

theorem only_hartRestart {W : Nat} {s0 : State} (hW : Sub 0x80000400 W)  {ha : Nat} {pc : Word} {s : State} (hs : Only W s0 s) :
    Only W s0 (hartRestart ha pc s) := by
  unfold hartRestart
  extract_lets +onlyGivenNames -merge -useContext -underBinder x1 x2
  try clear_value x1
  have hx2 : Only W s0 (x2) := only_State_setHart (sub_trans rfl hW) hs
  try clear_value x2
  extract_lets +onlyGivenNames -merge -useContext -underBinder x3 x4
  try clear_value x3
  have hx4 : Only W s0 (x4) := by
    unfold x4
    refine only_dbg (sub_trans rfl hW) ?_ _
    exact hx2
  try clear_value x4
  refine only_ite ?_ ?_
  · exact only_haltNow (sub_trans rfl hW) hx4
  · exact hx4

theorem only_haltFire {W : Nat} {s0 : State} (hW : Sub 0x400 W)  {ha : Nat} {s : State} (hs : Only W s0 s) :
    Only W s0 (haltFire ha s) := by
  unfold haltFire
  extract_lets +onlyGivenNames -merge -useContext -underBinder x1
  split
  · exact only_State_onHart (sub_trans rfl hW) hs
  · exact only_haltNow (sub_trans rfl hW) (only_State_onHart (sub_trans rfl hW) hs)
  · exact only_haltNow (sub_trans rfl hW) hs

theorem only_haltTry {W : Nat} {s0 : State} (hW : Sub 0x400 W)  {ha : Nat} {s : State} (hs : Only W s0 s) :
    Only W s0 (haltTry ha s) := by
  unfold haltTry
  extract_lets +onlyGivenNames -merge -useContext -underBinder x1
  extract_lets +onlyGivenNames -merge -useContext -underBinder x2
  extract_lets +onlyGivenNames -merge -useContext -underBinder x3
  refine only_ite ?_ ?_
  · exact only_haltFire (sub_trans rfl hW) hs
  · exact hs

theorem only_haltLeave {W : Nat} {s0 : State} (hW : Sub 0x400 W)  {ha : Nat} {s : State} (hs : Only W s0 s) :
    Only W s0 (haltLeave ha s) := by
  unfold haltLeave
  exact only_State_onHart (sub_trans rfl hW) hs

theorem only_traceEmit {W : Nat} {s0 : State} (hW : Sub 0x800 W)  {ha : Nat} {kind : Nat} {w1 : Word} {s : State} (hs : Only W s0 s) :
    Only W s0 (traceEmit ha kind w1 s) := by
  unfold traceEmit
  extract_lets +onlyGivenNames -merge -useContext -underBinder x1
  have hx1 : Only W s0 (x1) := only_traceGap (sub_trans rfl hW) hs
  try clear_value x1
  refine only_ite ?_ ?_
  · exact only_tracePush (sub_trans rfl hW) hx1
  · exact hx1

theorem only_deadlineTest {W : Nat} {s0 : State} (hW : Sub 0x400 W)  {ha : Nat} {m : Nat} {s : State} (hs : Only W s0 s) :
    Only W s0 (deadlineTest ha m s) := by
  unfold deadlineTest
  extract_lets +onlyGivenNames -merge -useContext -underBinder x1
  extract_lets +onlyGivenNames -merge -useContext -underBinder x2
  refine only_ite ?_ ?_
  · exact only_State_onHart (sub_trans rfl hW) hs
  · exact hs

theorem only_taskStart {W : Nat} {s0 : State} (hW : Sub 0xc00 W)  {ha : Nat} {d : Disp} {l : Line} {s : State} (hs : Only W s0 s) :
    Only W s0 (taskStart ha d l s) := by
  unfold taskStart
  extract_lets +onlyGivenNames -merge -useContext -underBinder x1
  extract_lets +onlyGivenNames -merge -useContext -underBinder x2
  have hx2 : Only W s0 (x2) := only_State_onHart (sub_trans rfl hW) hs
  try clear_value x2
  exact only_traceEmit (sub_trans rfl hW) hx2

end Sys2Proof.Machine
end

