-- ==== Sys2Proof/Laws/KeepCoreCache.lean ====
section
/-! SUPPORT. What the definitions of Machine/CoreCache.lean leave alone: one lemma for each that answers a state. -/
namespace Sys2Proof.Machine

theorem only_State_setL2 {W : Nat} {s0 : State} (hW : Sub 0x10000 W)  {k : Nat} {l : L2Line} {s : State} (hs : Only W s0 s) :
    Only W s0 (State.setL2 s k l) := by
  unfold State.setL2
  refine only_l2 (sub_trans rfl hW) ?_ _
  exact hs

theorem only_State_setL1d {W : Nat} {s0 : State} (hW : Sub 0x10000 W)  {k : Nat} {l : L1Set} {s : State} (hs : Only W s0 s) :
    Only W s0 (State.setL1d s k l) := by
  unfold State.setL1d
  refine only_l1d (sub_trans rfl hW) ?_ _
  exact hs

theorem only_State_setL1i {W : Nat} {s0 : State} (hW : Sub 0x10000 W)  {k : Nat} {l : L1Set} {s : State} (hs : Only W s0 s) :
    Only W s0 (State.setL1i s k l) := by
  unfold State.setL1i
  refine only_l1i (sub_trans rfl hW) ?_ _
  exact hs

theorem only_replayLine {W : Nat} {s0 : State} (hW : Sub 0x400 W)  {np : Nat} {line : Nat} {s : State} (hs : Only W s0 s) :
    Only W s0 (replayLine np line s) := by
  unfold replayLine
  split
  · exact hs
  · exact only_State_onHart (sub_trans rfl hW) hs

theorem only_loseResv {W : Nat} {s0 : State} (hW : Sub 0x400 W)  {np : Nat} {line : Nat} {s : State} (hs : Only W s0 s) :
    Only W s0 (loseResv np line s) := by
  unfold loseResv
  split
  · exact hs
  · exact only_State_onHart (sub_trans rfl hW) hs

theorem only_l1Drop {W : Nat} {s0 : State} (hW : Sub 0x10000 W)  {np : Nat} {line : Nat} {s : State} (hs : Only W s0 s) :
    Only W s0 (l1Drop np line s) := by
  unfold l1Drop
  extract_lets +onlyGivenNames -merge -useContext -underBinder x1
  have hx1 : Only W s0 (x1) := by
    unfold x1
    split
    · exact hs
    · extract_lets +onlyGivenNames -merge -useContext -underBinder x2
      exact only_State_setL1d (sub_trans rfl hW) hs
  try clear_value x1
  split
  · exact hx1
  · exact only_State_setL1i (sub_trans rfl hW) hx1

theorem only_l1Parity {W : Nat} {s0 : State} (hW : Sub 0x10000 W)  {np : Nat} {line : Nat} {array : Nat} {s : State} (hs : Only W s0 s) :
    Only W s0 (l1Parity np line array s) := by
  unfold l1Parity
  refine only_ite ?_ ?_
  · split
    · exact hs
    · exact only_State_setL1i (sub_trans rfl hW) hs
  · split
    · exact hs
    · exact only_State_setL1d (sub_trans rfl hW) hs

theorem only_l1Inval {W : Nat} {s0 : State} (hW : Sub 0x10000 W)  {np : Nat} {line : Nat} {s : State} (hs : Only W s0 s) :
    Only W s0 (l1Inval np line s) := by
  unfold l1Inval
  extract_lets +onlyGivenNames -merge -useContext -underBinder x1
  have hx1 : Only W s0 (x1) := by
    unfold x1
    split
    · refine only_ite ?_ ?_
      · extract_lets +onlyGivenNames -merge -useContext -underBinder x2
        exact only_State_setL1d (sub_trans rfl hW) hs
      · exact hs
    · exact hs
  try clear_value x1
  split
  · refine only_ite ?_ ?_
    · exact only_State_setL1i (sub_trans rfl hW) hx1
    · exact hx1
  · exact hx1

theorem only_coreInval {W : Nat} {s0 : State} (hW : Sub 0x10400 W)  {np : Nat} {line : Nat} {s : State} (hs : Only W s0 s) :
    Only W s0 (coreInval np line s) := by
  unfold coreInval
  extract_lets +onlyGivenNames -merge -useContext -underBinder x1
  have hx1 : Only W s0 (x1) := by
    unfold x1
    refine only_ite ?_ ?_
    · split
      · exact only_State_setL2 (sub_trans rfl hW) hs
      · exact hs
    · exact hs
  try clear_value x1
  exact only_loseResv (sub_trans rfl hW) (only_replayLine (sub_trans rfl hW) (only_l1Inval (sub_trans rfl hW) hx1))

theorem only_toSlice {W : Nat} {s0 : State} (hW : Sub 0x8000000000000000000000000000c W)  {np : Nat} {line : Nat} {p : Packet} {s : State} (hs : Only W s0 s) :
    Only W s0 (toSlice np line p s) := by
  unfold toSlice
  exact only_State_sendP (sub_trans rfl hW) hs

theorem only_l2Evict {W : Nat} {s0 : State} (hW : Sub 0x8000000000000000000000001040c W)  {np : Nat} {k : Nat} {s : State} (hs : Only W s0 s) :
    Only W s0 (l2Evict np k s) := by
  unfold l2Evict
  extract_lets +onlyGivenNames -merge -useContext -underBinder x1
  refine only_ite ?_ ?_
  · exact hs
  · extract_lets +onlyGivenNames -merge -useContext -underBinder x2
    have hx2 : Only W s0 (x2) := by
      unfold x2
      refine only_ite ?_ ?_
      · exact only_toSlice (sub_trans rfl hW) hs
      · exact only_toSlice (sub_trans rfl hW) hs
    try clear_value x2
    refine only_loseResv (sub_trans rfl hW) ?_
    refine only_replayLine (sub_trans rfl hW) ?_
    exact only_l1Inval (sub_trans rfl hW) (only_State_setL2 (sub_trans rfl hW) hx2)

theorem only_l2Fill {W : Nat} {s0 : State} (hW : Sub 0x8000000000000000000000001040c W)  {np : Nat} {line : Nat} {st : Nat} {w : Bool} {px : Bool} {stream : Bool} {force : Bool} {d : Line} {po : BitVec 2} {s : State} (hs : Only W s0 s) :
    Only W s0 (l2Fill np line st w px stream force d po s) := by
  unfold l2Fill
  refine only_ite ?_ ?_
  · exact hs
  · extract_lets +onlyGivenNames -merge -useContext -underBinder x1
    extract_lets +onlyGivenNames -merge -useContext -underBinder x2
    have hx2 : ∀ y0 y1, Only W s0 (y1) → Only W s0 (x2 y0 y1) := by
      unfold x2
      intro y3 y4 hy4
      exact only_State_setL2 (sub_trans rfl hW) hy4
    try clear_value x2
    split
    · exact hx2 _ _ hs
    · extract_lets +onlyGivenNames -merge -useContext -underBinder x5
      split
      · exact hx2 _ _ hs
      · split
        · exact hs
        · extract_lets +onlyGivenNames -merge -useContext -underBinder x6
          have hx6 : Only W s0 (x6) := by
            unfold x6
            refine only_foldl (fun t x ht => ?_) ?_
            · extract_lets +onlyGivenNames -merge -useContext -underBinder x7
              refine only_ite ?_ ?_
              · assumption
              · refine only_State_setL2 (sub_trans rfl hW) ?_
                assumption
            · exact hs
          try clear_value x6
          exact hx2 _ _ (only_l2Evict (sub_trans rfl hW) hx6)

theorem only_l1dFill {W : Nat} {s0 : State} (hW : Sub 0x10000 W)  {np : Nat} {line : Nat} {w : Bool} {px : Bool} {stream : Bool} {d : Line} {po : BitVec 2} {s : State} (hs : Only W s0 s) :
    Only W s0 (l1dFill np line w px stream d po s) := by
  unfold l1dFill
  refine only_ite ?_ ?_
  · exact hs
  · extract_lets +onlyGivenNames -merge -useContext -underBinder x1
    split
    · exact only_State_setL1d (sub_trans rfl hW) hs
    · extract_lets +onlyGivenNames -merge -useContext -underBinder x2
      extract_lets +onlyGivenNames -merge -useContext -underBinder x3
      split
      · exact only_State_setL1d (sub_trans rfl hW) hs
      · split
        · exact hs
        · extract_lets +onlyGivenNames -merge -useContext -underBinder x4
          have hx4 : Only W s0 (x4) := by
            unfold x4
            refine only_foldl (fun t x ht => ?_) ?_
            · refine only_State_setL1d (sub_trans rfl hW) ?_
              assumption
            · exact hs
          try clear_value x4
          exact only_State_setL1d (sub_trans rfl hW) hx4

theorem only_l1iFill {W : Nat} {s0 : State} (hW : Sub 0x10000 W)  {np : Nat} {line : Nat} {w : Bool} {px : Bool} {d : Line} {po : BitVec 2} {s : State} (hs : Only W s0 s) :
    Only W s0 (l1iFill np line w px d po s) := by
  unfold l1iFill
  refine only_ite ?_ ?_
  · exact hs
  · extract_lets +onlyGivenNames -merge -useContext -underBinder x1
    extract_lets +onlyGivenNames -merge -useContext -underBinder x2
    split
    · exact only_State_setL1i (sub_trans rfl hW) hs
    · split
      · exact hs
      · extract_lets +onlyGivenNames -merge -useContext -underBinder x3
        have hx3 : Only W s0 (x3) := by
          unfold x3
          refine only_foldl (fun t x ht => ?_) ?_
          · refine only_State_setL1i (sub_trans rfl hW) ?_
            assumption
          · exact hs
        try clear_value x3
        exact only_State_setL1i (sub_trans rfl hW) hx3

theorem only_coreEvent {W : Nat} {s0 : State} (hW : Sub 0x400 W)  {np : Nat} {code : Nat} {s : State} (hs : Only W s0 s) :
    Only W s0 (coreEvent np code s) := by
  unfold coreEvent
  split
  · exact only_State_onHart (sub_trans rfl hW) hs
  · exact hs

theorem only_coreLookup {W : Nat} {s0 : State} (hW : Sub 0x10400 W)  {np : Nat} {line : Nat} {w : Bool} {v : Bool} {stream : Bool} {s : State} (hs : Only W s0 s) :
    Only W s0 (coreLookup np line w v stream s).2 := by
  unfold coreLookup
  extract_lets +onlyGivenNames -merge -useContext -underBinder x1
  try clear_value x1
  split
  · extract_lets +onlyGivenNames -merge -useContext -underBinder x2
    extract_lets +onlyGivenNames -merge -useContext -underBinder x3
    exact only_snd_mk (only_State_setL1d (sub_trans rfl hW) hs)
  · split
    · extract_lets +onlyGivenNames -merge -useContext -underBinder x4
      extract_lets +onlyGivenNames -merge -useContext -underBinder x5
      have hx5 : Only W s0 (x5) := only_State_setL2 (sub_trans rfl hW) hs
      try clear_value x5
      split
      · exact only_snd_mk (only_l1dFill (sub_trans rfl hW) (only_coreEvent (sub_trans rfl hW) hx5))
      · exact only_snd_mk hx5
    · exact only_snd_mk hs

theorem only_State_setL3 {W : Nat} {s0 : State} (hW : Sub 0x8000 W)  {k : Nat} {l : L3Line} {s : State} (hs : Only W s0 s) :
    Only W s0 (State.setL3 s k l) := by
  unfold State.setL3
  refine only_l3 (sub_trans rfl hW) ?_ _
  exact hs

theorem only_l2Write {W : Nat} {s0 : State} (hW : Sub 0x18000 W)  {np : Nat} {line : Nat} {k : Nat} {d : Line} {m : BitVec 64} {po : BitVec 2} {s : State} (hs : Only W s0 s) :
    Only W s0 (l2Write np line k d m po s) := by
  unfold l2Write
  extract_lets +onlyGivenNames -merge -useContext -underBinder x1
  extract_lets +onlyGivenNames -merge -useContext -underBinder x2
  extract_lets +onlyGivenNames -merge -useContext -underBinder x3
  extract_lets +onlyGivenNames -merge -useContext -underBinder x4
  have hx4 : Only W s0 (x4) := only_State_setL2 (sub_trans rfl hW) hs
  try clear_value x4
  extract_lets +onlyGivenNames -merge -useContext -underBinder x5
  have hx5 : Only W s0 (x5) := by
    unfold x5
    split
    · refine only_ite ?_ ?_
      · exact only_State_setL3 (sub_trans rfl hW) hx4
      · exact hx4
    · exact hx4
  try clear_value x5
  refine only_ite ?_ ?_
  · split
    · extract_lets +onlyGivenNames -merge -useContext -underBinder x6
      refine only_ite ?_ ?_
      · exact only_State_setL1d (sub_trans rfl hW) hx5
      · exact hx5
    · exact hx5
  · exact hx5

theorem only_coreStrip {W : Nat} {s0 : State} (hW : Sub 0x8000000000000000000000001040c W)  {np : Nat} {line : Nat} {s : State} (hs : Only W s0 s) :
    Only W s0 (coreStrip np line s) := by
  unfold coreStrip
  exact only_coreInval (sub_trans rfl hW) (only_State_dropOut (sub_trans rfl hW) hs)

theorem only_l2TagLost {W : Nat} {s0 : State} (hW : Sub 0x8000000000000000000000001040c W)  {np : Nat} {k : Nat} {s : State} (hs : Only W s0 s) :
    Only W s0 (l2TagLost np k s) := by
  unfold l2TagLost
  extract_lets +onlyGivenNames -merge -useContext -underBinder x1
  extract_lets +onlyGivenNames -merge -useContext -underBinder x2
  have hx2 : Only W s0 (x2) := by
    unfold x2
    refine only_l2BadWay (sub_trans rfl hW) ?_ _
    exact hs
  try clear_value x2
  refine only_toSlice (sub_trans rfl hW) ?_
  refine only_loseResv (sub_trans rfl hW) ?_
  exact only_replayLine (sub_trans rfl hW) (only_l1Drop (sub_trans rfl hW) (only_State_setL2 (sub_trans rfl hW) hx2))

theorem only_l3TagLost {W : Nat} {s0 : State} (hW : Sub 0x8000000040000000000000001840c W)  {die : Nat} {k : Nat} {s : State} (hs : Only W s0 s) :
    Only W s0 (l3TagLost die k s) := by
  unfold l3TagLost
  extract_lets +onlyGivenNames -merge -useContext -underBinder x1
  extract_lets +onlyGivenNames -merge -useContext -underBinder x2
  have hx2 : Only W s0 (x2) := by
    unfold x2
    refine only_iter (fun x t ht => ?_) ?_
    · refine only_coreStrip (sub_trans rfl hW) ?_
      assumption
    · exact hs
  try clear_value x2
  exact only_State_setFbit (sub_trans rfl hW) (only_State_setL3 (sub_trans rfl hW) hx2)

theorem only_cacheError {W : Nat} {s0 : State} (hW : Sub 0x80000000c0000000000004001840c W)  {np : Nat} {line : Nat} {e : CacheErr} {s : State} (hs : Only W s0 s) :
    Only W s0 (cacheError np line e s) := by
  unfold cacheError
  extract_lets +onlyGivenNames -merge -useContext -underBinder x1
  extract_lets +onlyGivenNames -merge -useContext -underBinder x2
  extract_lets +onlyGivenNames -merge -useContext -underBinder x3
  extract_lets +onlyGivenNames -merge -useContext -underBinder x4
  extract_lets +onlyGivenNames -merge -useContext -underBinder x5
  have hx5 : ∀ y0 y1 y2, Only W s0 (y2) → Only W s0 (x5 y0 y1 y2) := by
    unfold x5
    intro y6 y7 y8 hy8
    exact only_report (sub_trans rfl hW) hy8
  try clear_value x5
  refine only_ite ?_ ?_
  · exact only_State_satInc (sub_trans rfl hW) (only_l1Parity (sub_trans rfl hW) hs)
  · refine only_ite ?_ ?_
    · refine only_ite ?_ ?_
      · exact hx5 _ _ _ (only_State_satInc (sub_trans rfl hW) hs)
      · refine only_ite ?_ ?_
        · exact hx5 _ _ _ (only_State_satInc (sub_trans rfl hW) hs)
        · exact hx5 _ _ _ (only_State_satInc (sub_trans rfl hW) hs)
    · refine only_ite ?_ ?_
      · split
        · exact hs
        · extract_lets +onlyGivenNames -merge -useContext -underBinder x9
          refine only_ite ?_ ?_
          · exact hx5 _ _ _ (only_State_setL3 (sub_trans rfl hW) hs)
          · exact hx5 _ _ _ (only_l3TagLost (sub_trans rfl hW) hs)
      · split
        · exact hs
        · extract_lets +onlyGivenNames -merge -useContext -underBinder x10
          refine only_ite ?_ ?_
          · exact hx5 _ _ _ (only_l1Drop (sub_trans rfl hW) (only_State_setL2 (sub_trans rfl hW) hs))
          · exact hx5 _ _ _ (only_l2TagLost (sub_trans rfl hW) hs)

end Sys2Proof.Machine
end

