-- ==== Sys2Proof/Laws/KeepLoadStore.lean ====
section
/-! SUPPORT. What the definitions of Machine/LoadStore.lean leave alone: one lemma for each that answers a state. -/
namespace Sys2Proof.Machine

theorem only_openTx {W : Nat} {s0 : State} (hW : Sub 0x428000000000000000000000002100c W)  {own : TxOwner} {p : Packet} {s : State} (hs : Only W s0 s) :
    Only W s0 (openTx own p s) := by
  unfold openTx
  extract_lets +onlyGivenNames -merge -useContext -underBinder x1
  extract_lets +onlyGivenNames -merge -useContext -underBinder x2
  extract_lets +onlyGivenNames -merge -useContext -underBinder x3
  have hx3 : Only W s0 (x3) := by
    unfold x3
    refine only_txs (sub_trans rfl hW) ?_ _
    exact hs
  try clear_value x3
  refine only_ite ?_ ?_
  · exact only_sendUp (sub_trans rfl hW) hx3
  · exact only_State_sendP (sub_trans rfl hW) hx3

theorem only_closeTx {W : Nat} {s0 : State} (hW : Sub 0x200000000000000000000000001004 W)  {p : Packet} {s : State} (hs : Only W s0 s) :
    Only W s0 (closeTx p s).2 := by
  unfold closeTx
  split
  · refine only_ite_snd ?_ ?_
    · refine only_snd_mk ?_
      refine only_txs (sub_trans rfl hW) ?_ _
      exact hs
    · refine only_ite_snd ?_ ?_
      · refine only_snd_mk ?_
        refine only_State_satInc (sub_trans rfl hW) ?_
        refine only_txs (sub_trans rfl hW) ?_ _
        exact hs
      · exact only_snd_mk (only_State_satInc (sub_trans rfl hW) hs)
  · exact only_snd_mk (only_State_satInc (sub_trans rfl hW) hs)

theorem only_sbCount {W : Nat} {s0 : State} (hW : Sub 0x4000000000000000004 W)  {ha : Nat} {s : State} (hs : Only W s0 s) :
    Only W s0 (sbCount ha s) := by
  unfold sbCount
  extract_lets +onlyGivenNames -merge -useContext -underBinder x1
  extract_lets +onlyGivenNames -merge -useContext -underBinder x2
  extract_lets +onlyGivenNames -merge -useContext -underBinder x3
  have hx3 : Only W s0 (x3) := only_State_setF (sub_trans rfl hW) hs
  try clear_value x3
  refine only_ite ?_ ?_
  · exact only_State_setF (sub_trans rfl hW) hx3
  · exact hx3

theorem only_l2Send {W : Nat} {s0 : State} (hW : Sub 0x8000000000000000000000001000c W)  {np : Nat} {line : Nat} {p : Packet} {stream : Bool} {pf : Nat} {s : State} (hs : Only W s0 s) :
    Only W s0 (l2Send np line p stream pf s) := by
  unfold l2Send
  extract_lets +onlyGivenNames -merge -useContext -underBinder x1
  refine only_toSlice (sub_trans rfl hW) ?_
  refine only_l2Pend (sub_trans rfl hW) ?_ _
  exact hs

theorem only_l2Ask {W : Nat} {s0 : State} (hW : Sub 0x8000000000000000000000001000c W)  {np : Nat} {line : Nat} {op : Op} {cls : TClass} {w : Bool} {part : Nat} {stream : Bool} {pf : Nat} {s : State} (hs : Only W s0 s) :
    Only W s0 (l2Ask np line op cls w part stream pf s) := by
  unfold l2Ask
  exact only_l2Send (sub_trans rfl hW) hs

theorem only_prefetch {W : Nat} {s0 : State} (hW : Sub 0x8000000000000000000000001040c W)  {np : Nat} {line : Nat} {cls : TClass} {w : Bool} {part : Nat} {s : State} (hs : Only W s0 s) :
    Only W s0 (prefetch np line cls w part s) := by
  unfold prefetch
  split
  · exact hs
  · extract_lets +onlyGivenNames -merge -useContext -underBinder x1
    have hx1 : Only W s0 (x1) := only_State_onHart (sub_trans rfl hW) hs
    try clear_value x1
    split
    · exact hx1
    · refine only_ite ?_ ?_
      · exact hx1
      · exact only_l2Ask (sub_trans rfl hW) hx1

theorem only_l2Request {W : Nat} {s0 : State} (hW : Sub 0x8000000000000000000000001040c W)  {np : Nat} {line : Nat} {op : Op} {cls : TClass} {w : Bool} {part : Nat} {stream : Bool} {s : State} (hs : Only W s0 s) :
    Only W s0 (l2Request np line op cls w part stream s) := by
  unfold l2Request
  refine only_ite ?_ ?_
  · refine only_l2Pend (sub_trans rfl hW) ?_ _
    exact hs
  · refine only_ite ?_ ?_
    · exact hs
    · extract_lets +onlyGivenNames -merge -useContext -underBinder x1
      have hx1 : Only W s0 (x1) := by
        unfold x1
        refine only_ite ?_ ?_
        · exact only_coreEvent (sub_trans rfl hW) hs
        · exact hs
      try clear_value x1
      extract_lets +onlyGivenNames -merge -useContext -underBinder x2
      have hx2 : Only W s0 (x2) := by
        unfold x2
        refine only_ite ?_ ?_
        · exact only_coreEvent (sub_trans rfl hW) hx1
        · exact hx1
      try clear_value x2
      extract_lets +onlyGivenNames -merge -useContext -underBinder x3
      have hx3 : Only W s0 (x3) := by
        unfold x3
        refine only_ite ?_ ?_
        · exact only_coreEvent (sub_trans rfl hW) hx2
        · exact hx2
      try clear_value x3
      extract_lets +onlyGivenNames -merge -useContext -underBinder x4
      have hx4 : Only W s0 (x4) := only_l2Ask (sub_trans rfl hW) hx3
      try clear_value x4
      refine only_ite ?_ ?_
      · exact only_prefetch (sub_trans rfl hW) hx4
      · exact hx4

theorem only_askM {W : Nat} {s0 : State} (hW : Sub 0x8000000000000000000000001040c W)  {np : Nat} {line : Nat} {cls : TClass} {w : Bool} {part : Nat} {s : State} (hs : Only W s0 s) :
    Only W s0 (askM np line cls w part s) := by
  unfold askM
  split
  · refine only_ite ?_ ?_
    · exact only_l2Request (sub_trans rfl hW) hs
    · exact hs
  · exact only_l2Request (sub_trans rfl hW) hs

theorem only_setAcc {W : Nat} {s0 : State} (hW : Sub 0x400 W)  {ha : Nat} {id : Nat} {j : Nat} {f : LAcc → LAcc} {s : State} (hs : Only W s0 s) :
    Only W s0 (setAcc ha id j f s) := by
  unfold setAcc
  exact only_State_onHart (sub_trans rfl hW) hs

theorem only_cacheDeny {W : Nat} {s0 : State} (hW : Sub 0xe0000007000000000000000000000000000000000000000004 W)  {world : Bool} {k : DenyKind} {w : Bool} {part : Nat} {np : Nat} {a : Nat} {s : State} (hs : Only W s0 s) :
    Only W s0 (cacheDeny world k w part np a s) := by
  unfold cacheDeny
  extract_lets +onlyGivenNames -merge -useContext -underBinder x1
  refine only_ite ?_ ?_
  · exact only_denyWorld (sub_trans rfl hW) hs
  · exact only_denyPart (sub_trans rfl hW) hs

theorem only_accPart {W : Nat} {s0 : State} (hW : Sub 0xe000000700000000000008000000000000000000000001040c W)  {ha : Nat} {l : PLoad} {j : Nat} {k : Nat} {x : Nat × Nat} {oldest : Bool} {s : State} (hs : Only W s0 s) :
    Only W s0 (accPart ha l j k x oldest s) := by
  unfold accPart
  extract_lets +onlyGivenNames -merge -useContext -underBinder x1
  extract_lets +onlyGivenNames -merge -useContext -underBinder x2
  have hx2 : ∀ y0 y1, Only W s0 (y1) → Only W s0 (x2 y0 y1) := by
    unfold x2
    intro y3 y4 hy4
    exact only_setAcc (sub_trans rfl hW) (only_cacheDeny (sub_trans rfl hW) hy4)
  try clear_value x2
  split
  · rename_i e5
    replace e5 := congrArg Prod.snd e5
    dsimp only at e5
    refine only_of_eq (W := W) (s0 := s0) e5 ?_ (fun k6 => ?_)
    · exact only_coreLookup (sub_trans rfl hW) hs
    refine only_setAcc (sub_trans rfl hW) ?_
    assumption
  · rename_i e7
    replace e7 := congrArg Prod.snd e7
    dsimp only at e7
    refine only_of_eq (W := W) (s0 := s0) e7 ?_ (fun k8 => ?_)
    · exact only_coreLookup (sub_trans rfl hW) hs
    refine only_ite ?_ ?_
    · refine only_l2Request (sub_trans rfl hW) ?_
      assumption
    · refine only_ite ?_ ?_
      · refine only_l2Request (sub_trans rfl hW) ?_
        assumption
      · assumption
  · rename_i e9
    replace e9 := congrArg Prod.snd e9
    dsimp only at e9
    refine only_of_eq (W := W) (s0 := s0) e9 ?_ (fun k10 => ?_)
    · exact only_coreLookup (sub_trans rfl hW) hs
    refine hx2 _ _ ?_
    assumption
  · rename_i e11
    replace e11 := congrArg Prod.snd e11
    dsimp only at e11
    refine only_of_eq (W := W) (s0 := s0) e11 ?_ (fun k12 => ?_)
    · exact only_coreLookup (sub_trans rfl hW) hs
    refine hx2 _ _ ?_
    assumption

theorem only_accTry {W : Nat} {s0 : State} (hW : Sub 0xe000000700000000000428000000000000000000000003140c W)  {ha : Nat} {l : PLoad} {j : Nat} {acc : LAcc} {oldest : Bool} {olds : List Nat} {s : State} (hs : Only W s0 s) :
    Only W s0 (accTry ha l j acc oldest olds s) := by
  unfold accTry
  extract_lets +onlyGivenNames -merge -useContext -underBinder x1
  extract_lets +onlyGivenNames -merge -useContext -underBinder x2
  refine only_ite ?_ ?_
  · exact hs
  · refine only_ite ?_ ?_
    · extract_lets +onlyGivenNames -merge -useContext -underBinder x3
      extract_lets +onlyGivenNames -merge -useContext -underBinder x4
      refine only_ite ?_ ?_
      · exact hs
      · extract_lets +onlyGivenNames -merge -useContext -underBinder x5
        have hx5 : Only W s0 (x5) := only_setAcc (sub_trans rfl hW) hs
        try clear_value x5
        extract_lets +onlyGivenNames -merge -useContext -underBinder x6
        have hx6 : Only W s0 (x6) := only_State_onHart (sub_trans rfl hW) hx5
        try clear_value x6
        exact only_openTx (sub_trans rfl hW) hx6
    · refine only_ite ?_ ?_
      · exact hs
      · split
        · exact only_setAcc (sub_trans rfl hW) hs
        · exact hs
        · refine only_ite ?_ ?_
          · refine only_ite ?_ ?_
            · exact hs
            · extract_lets +onlyGivenNames -merge -useContext -underBinder x7
              have hx7 : Only W s0 (x7) := only_setAcc (sub_trans rfl hW) hs
              try clear_value x7
              refine only_openTx (sub_trans rfl hW) ?_
              refine only_ite ?_ ?_
              · exact only_coreEvent (sub_trans rfl hW) hx7
              · exact hx7
          · extract_lets +onlyGivenNames -merge -useContext -underBinder x8
            have hx8 : Only W s0 (x8) := by
              unfold x8
              split
              · exact only_accPart (sub_trans rfl hW) hs
              · exact hs
            try clear_value x8
            split
            · exact only_accPart (sub_trans rfl hW) hx8
            · exact hx8

theorem only_descDone {W : Nat} {s0 : State} (hW : Sub 0xc00 W)  {ha : Nat} {d : Nat} {r : Except (Nat × Word) Line} {s : State} (hs : Only W s0 s) :
    Only W s0 (descDone ha d r s) := by
  unfold descDone
  split
  · exact only_taskStart (sub_trans rfl hW) (only_State_onHart (sub_trans rfl hW) hs)
  · exact only_State_onHart (sub_trans rfl hW) hs
  · extract_lets +onlyGivenNames -merge -useContext -underBinder x1
    have hx1 : Only W s0 (x1) := by
      unfold x1
      split
      · exact only_State_onHart (sub_trans rfl hW) hs
      · exact only_State_onHart (sub_trans rfl hW) hs
    try clear_value x1
    split
    · exact only_State_onHart (sub_trans rfl hW) hx1
    · split
      · exact only_taskStart (sub_trans rfl hW) (only_State_onHart (sub_trans rfl hW) hx1)
      · exact hx1

theorem only_loadRetire {W : Nat} {s0 : State} (hW : Sub 0x40000c00 W)  {ha : Nat} {s : State} (hs : Only W s0 s) :
    Only W s0 (loadRetire ha s) := by
  unfold loadRetire
  extract_lets +onlyGivenNames -merge -useContext -underBinder x1
  split
  · exact hs
  · refine only_ite ?_ ?_
    · exact hs
    · extract_lets +onlyGivenNames -merge -useContext -underBinder x2
      extract_lets +onlyGivenNames -merge -useContext -underBinder x3
      have hx3 : ∀ y0 y1 y2 y3, Only W s0 (y3) → Only W s0 (x3 y0 y1 y2 y3) := by
        unfold x3
        intro y4 y5 y6 y7 hy7
        exact only_State_onHart (sub_trans rfl hW) hy7
      try clear_value x3
      split
      · extract_lets +onlyGivenNames -merge -useContext -underBinder x8
        have hx8 : Only W s0 (x8) := by
          unfold x8
          refine only_ite ?_ ?_
          · exact only_report (sub_trans rfl hW) hs
          · exact hs
        try clear_value x8
        split
        · exact only_descDone (sub_trans rfl hW) (only_State_onHart (sub_trans rfl hW) hx8)
        · extract_lets +onlyGivenNames -merge -useContext -underBinder x9
          exact hx3 _ _ _ _ (only_State_setHart (sub_trans rfl hW) hx8)
      · split
        · exact only_descDone (sub_trans rfl hW) (only_State_onHart (sub_trans rfl hW) hs)
        · exact only_descDone (sub_trans rfl hW) (only_State_onHart (sub_trans rfl hW) hs)
        · exact hx3 _ _ _ _ (only_State_setHart (sub_trans rfl hW) hs)
        · extract_lets +onlyGivenNames -merge -useContext -underBinder x10
          exact only_State_setHart (sub_trans rfl hW) hs

theorem only_amoTry {W : Nat} {s0 : State} (hW : Sub 0xe000000700000000000428000000000000000000000003940c W)  {ha : Nat} {l : PLoad} {s : State} (hs : Only W s0 s) :
    Only W s0 (amoTry ha l s) := by
  unfold amoTry
  split
  · extract_lets +onlyGivenNames -merge -useContext -underBinder x1
    extract_lets +onlyGivenNames -merge -useContext -underBinder x2
    refine only_ite ?_ ?_
    · exact hs
    · refine only_ite ?_ ?_
      · refine only_ite ?_ ?_
        · exact hs
        · exact only_openTx (sub_trans rfl hW) (only_setAcc (sub_trans rfl hW) hs)
      · split
        · extract_lets +onlyGivenNames -merge -useContext -underBinder x3
          try clear_value x3
          split
          · exact only_setAcc (sub_trans rfl hW) (only_cacheDeny (sub_trans rfl hW) hs)
          · exact only_askM (sub_trans rfl hW) hs
        · extract_lets +onlyGivenNames -merge -useContext -underBinder x4
          generalize hitRule l.w l.v x4.w x4.px x4.data x4.poison = q
          cases q
          case data =>
            dsimp -zeta only
            extract_lets +onlyGivenNames -merge -useContext -underBinder x5
            refine only_ite ?_ ?_
            · exact only_setAcc (sub_trans rfl hW) hs
            · refine only_ite ?_ ?_
              · extract_lets +onlyGivenNames -merge -useContext -underBinder x6
                have hx6 : Only W s0 (x6) := only_State_setL2 (sub_trans rfl hW) hs
                try clear_value x6
                extract_lets +onlyGivenNames -merge -useContext -underBinder x7
                have hx7 : Only W s0 (x7) := only_l2Write (sub_trans rfl hW) hx6
                try clear_value x7
                extract_lets +onlyGivenNames -merge -useContext -underBinder x8
                have hx8 : Only W s0 (x8) := only_State_onHart (sub_trans rfl hW) hx7
                try clear_value x8
                exact only_setAcc (sub_trans rfl hW) hx8
              · extract_lets +onlyGivenNames -merge -useContext -underBinder x9
                extract_lets +onlyGivenNames -merge -useContext -underBinder x10
                have hx10 : Only W s0 (x10) := only_l2Write (sub_trans rfl hW) hs
                try clear_value x10
                exact only_setAcc (sub_trans rfl hW) hx10
          all_goals exact only_setAcc (sub_trans rfl hW) (only_cacheDeny (sub_trans rfl hW) hs)
  · exact hs

theorem only_loadsTry {W : Nat} {s0 : State} (hW : Sub 0xe000000700000000000428000000000000000000000003940c W) {ha : Nat} {s : State} (hs : Only W s0 s) :
    Only W s0 (loadsTry ha s) := by
  unfold loadsTry
  refine only_foldl_fst (fun t l ht => ?_) hs
  dsimp only
  split
  · exact only_amoTry (sub_trans rfl hW) ht
  · exact only_foldl (fun u x hu => only_accTry (sub_trans rfl hW) hu) ht

theorem only_loadsPump {W : Nat} {s0 : State} (hW : Sub 0xe0000007000000000004280000000000000000000040039c0c W)  {ha : Nat} {s : State} (hs : Only W s0 s) :
    Only W s0 (loadsPump ha s) := by
  unfold loadsPump
  extract_lets +onlyGivenNames -merge -useContext -underBinder x1
  refine only_iter (fun x t ht => ?_) ?_
  · refine only_loadRetire (sub_trans rfl hW) ?_
    refine only_loadsTry (sub_trans rfl hW) ?_
    assumption
  · exact hs

theorem only_deliverLine {W : Nat} {s0 : State} (hW : Sub 0xe0000007000000000004280000000000000000000040039c0c W)  {np : Nat} {line : Nat} {d : Line} {po : BitVec 2} {s : State} (hs : Only W s0 s) :
    Only W s0 (deliverLine np line d po s) := by
  unfold deliverLine
  split
  · exact hs
  · extract_lets +onlyGivenNames -merge -useContext -underBinder x1
    have hx1 : Only W s0 (x1) := only_State_onHart (sub_trans rfl hW) hs
    try clear_value x1
    exact only_loadsPump (sub_trans rfl hW) hx1

theorem only_failLine {W : Nat} {s0 : State} (hW : Sub 0xe0000007000000000004280000000000000000000040039c0c W)  {np : Nat} {line : Nat} {s : State} (hs : Only W s0 s) :
    Only W s0 (failLine np line s) := by
  unfold failLine
  split
  · exact hs
  · extract_lets +onlyGivenNames -merge -useContext -underBinder x1
    have hx1 : Only W s0 (x1) := only_State_onHart (sub_trans rfl hW) hs
    try clear_value x1
    exact only_loadsPump (sub_trans rfl hW) hx1

theorem only_sbRefill {W : Nat} {s0 : State} (hW : Sub 0x400 W)  {ha : Nat} {s : State} (hs : Only W s0 s) :
    Only W s0 (sbRefill ha s) := by
  unfold sbRefill
  exact only_State_onHart (sub_trans rfl hW) hs

theorem only_sbDrop {W : Nat} {s0 : State} (hW : Sub 0xe0000007000000000004280000000004000000000040039c0c W)  {ha : Nat} {k : Nat} {s : State} (hs : Only W s0 s) :
    Only W s0 (sbDrop ha k s) := by
  unfold sbDrop
  refine only_loadsPump (sub_trans rfl hW) ?_
  exact only_sbCount (sub_trans rfl hW) (only_sbRefill (sub_trans rfl hW) (only_State_onHart (sub_trans rfl hW) hs))

theorem only_sbPop {W : Nat} {s0 : State} (hW : Sub 0xe0000007000000000004280000000004000000000040039c0c W)  {ha : Nat} {s : State} (hs : Only W s0 s) :
    Only W s0 (sbPop ha s) := by
  unfold sbPop
  exact only_sbDrop (sub_trans rfl hW) hs

theorem only_sbError {W : Nat} {s0 : State} (hW : Sub 0xe000000700000000000428000000000c000000000040039c0c W)  {ha : Nat} {k : Nat} {s : State} (hs : Only W s0 s) :
    Only W s0 (sbError ha k s) := by
  unfold sbError
  split
  · exact hs
  · extract_lets +onlyGivenNames -merge -useContext -underBinder x1
    extract_lets +onlyGivenNames -merge -useContext -underBinder x2
    have hx2 : Only W s0 (x2) := only_State_satInc (sub_trans rfl hW) (only_State_setB (sub_trans rfl hW) hs)
    try clear_value x2
    extract_lets +onlyGivenNames -merge -useContext -underBinder x3
    have hx3 : Only W s0 (x3) := only_State_setF (sub_trans rfl hW) (only_State_setB (sub_trans rfl hW) hx2)
    try clear_value x3
    exact only_sbDrop (sub_trans rfl hW) (only_report (sub_trans rfl hW) hx3)

theorem only_sbPrefetch {W : Nat} {s0 : State} (hW : Sub 0x8000000000000000000000001040c W)  {ha : Nat} {s : State} (hs : Only W s0 s) :
    Only W s0 (sbPrefetch ha s) := by
  unfold sbPrefetch
  extract_lets +onlyGivenNames -merge -useContext -underBinder x1
  refine only_ite ?_ ?_
  · exact hs
  · refine only_foldl (fun t x ht => ?_) ?_
    · refine only_askM (sub_trans rfl hW) ?_
      assumption
    · exact hs

theorem only_sbSent {W : Nat} {s0 : State} (hW : Sub 0x400 W)  {ha : Nat} {s : State} (hs : Only W s0 s) :
    Only W s0 (sbSent ha s) := by
  unfold sbSent
  exact only_State_onHart (sub_trans rfl hW) hs

theorem only_sbLeave {W : Nat} {s0 : State} (hW : Sub 0xe000000700000000000428000000000c000000000040039c0c W)  {ha : Nat} {s : State} (hs : Only W s0 s) :
    Only W s0 (sbLeave ha s) := by
  unfold sbLeave
  extract_lets +onlyGivenNames -merge -useContext -underBinder x1
  have hx1 : Only W s0 (x1) := only_sbPrefetch (sub_trans rfl hW) hs
  try clear_value x1
  extract_lets +onlyGivenNames -merge -useContext -underBinder x2
  extract_lets +onlyGivenNames -merge -useContext -underBinder x3
  split
  · exact hx1
  · extract_lets +onlyGivenNames -merge -useContext -underBinder x4
    extract_lets +onlyGivenNames -merge -useContext -underBinder x5
    split
    · extract_lets +onlyGivenNames -merge -useContext -underBinder x6
      extract_lets +onlyGivenNames -merge -useContext -underBinder x7
      refine only_ite ?_ ?_
      · exact hx1
      · refine only_ite ?_ ?_
        · exact only_sbError (sub_trans rfl hW) hx1
        · refine only_ite ?_ ?_
          · exact hx1
          · split
            · exact only_sbPop (sub_trans rfl hW) (only_State_send (sub_trans rfl hW) hx1)
            · exact only_sbSent (sub_trans rfl hW) (only_openTx (sub_trans rfl hW) hx1)
            · exact only_sbSent (sub_trans rfl hW) (only_openTx (sub_trans rfl hW) hx1)
            · exact only_sbSent (sub_trans rfl hW) (only_openTx (sub_trans rfl hW) hx1)
            · extract_lets +onlyGivenNames -merge -useContext -underBinder x8
              refine only_ite ?_ ?_
              · extract_lets +onlyGivenNames -merge -useContext -underBinder x9
                extract_lets +onlyGivenNames -merge -useContext -underBinder x10
                have hx10 : Only W s0 (x10) := only_State_onHart (sub_trans rfl hW) hx1
                try clear_value x10
                exact only_sbSent (sub_trans rfl hW) (only_openTx (sub_trans rfl hW) hx10)
              · refine only_ite ?_ ?_
                · exact only_sbSent (sub_trans rfl hW) (only_openTx (sub_trans rfl hW) hx1)
                · refine only_ite ?_ ?_
                  · exact only_sbSent (sub_trans rfl hW) (only_l2Send (sub_trans rfl hW) hx1)
                  · split
                    · exact hx1
                    · extract_lets +onlyGivenNames -merge -useContext -underBinder x11
                      refine only_ite ?_ ?_
                      · exact only_sbError (sub_trans rfl hW) (only_cacheDeny (sub_trans rfl hW) hx1)
                      · refine only_ite ?_ ?_
                        · exact only_sbError (sub_trans rfl hW) (only_cacheDeny (sub_trans rfl hW) hx1)
                        · exact only_sbPop (sub_trans rfl hW) (only_l2Write (sub_trans rfl hW) hx1)

end Sys2Proof.Machine
end

