-- ==== Sys2Proof/Laws/KeepDma.lean ====
section
/-! SUPPORT. What the definitions of Machine/Dma.lean leave alone: one lemma for each that answers a state. -/
namespace Sys2Proof.Machine

theorem only_State_onCh {W : Nat} {s0 : State} (hW : Sub 0x100000 W)  {c : Nat} {f : DmaCh → DmaCh} {s : State} (hs : Only W s0 s) :
    Only W s0 (State.onCh s c f) := by
  unfold State.onCh
  refine only_dma (sub_trans rfl hW) ?_ _
  exact hs

theorem only_setChState {W : Nat} {s0 : State} (hW : Sub 0x4000000000000000000000000000000000000004 W)  {c : Nat} {st : Nat} {s : State} (hs : Only W s0 s) :
    Only W s0 (setChState c st s) := by
  unfold setChState
  exact only_State_setF (sub_trans rfl hW) hs

theorem only_setChG {W : Nat} {s0 : State} (hW : Sub 0x20000000000000000000000000000000000000004 W)  {c : Nat} {i : Nat} {v : Word} {s : State} (hs : Only W s0 s) :
    Only W s0 (setChG c i v s) := by
  unfold setChG
  exact only_State_setR (sub_trans rfl hW) hs

theorem only_setChPc {W : Nat} {s0 : State} (hW : Sub 0x20000000000000000000000000000000000004 W)  {c : Nat} {pc : Nat} {s : State} (hs : Only W s0 s) :
    Only W s0 (setChPc c pc s) := by
  unfold setChPc
  exact only_State_setF (sub_trans rfl hW) hs

theorem only_chIrq {W : Nat} {s0 : State} (hW : Sub 0x200000 W)  {c : Nat} {s : State} (hs : Only W s0 s) :
    Only W s0 (chIrq c s) := by
  unfold chIrq
  refine only_ite ?_ ?_
  · exact hs
  · refine only_pulses (sub_trans rfl hW) ?_ _
    exact hs

theorem only_chCount {W : Nat} {s0 : State} (hW : Sub 0x204000000000000000000000000000000000000004 W)  {c : Nat} {s : State} (hs : Only W s0 s) :
    Only W s0 (chCount c s) := by
  unfold chCount
  extract_lets +onlyGivenNames -merge -useContext -underBinder x1
  have hx1 : Only W s0 (x1) := only_State_setF (sub_trans rfl hW) hs
  try clear_value x1
  extract_lets +onlyGivenNames -merge -useContext -underBinder x2
  exact only_State_setF (sub_trans rfl hW) hx1

theorem only_chDrop {W : Nat} {s0 : State} (hW : Sub 0x1000 W)  {c : Nat} {s : State} (hs : Only W s0 s) :
    Only W s0 (chDrop c s) := by
  unfold chDrop
  refine only_txs (sub_trans rfl hW) ?_ _
  exact hs

theorem only_chDone {W : Nat} {s0 : State} (hW : Sub 0x4000000000000000000000000000000000000004 W)  {c : Nat} {s : State} (hs : Only W s0 s) :
    Only W s0 (chDone c s) := by
  unfold chDone
  refine only_State_wrapInc (sub_trans rfl hW) ?_
  exact only_State_setB (sub_trans rfl hW) (only_setChState (sub_trans rfl hW) hs)

theorem only_sendEng {W : Nat} {s0 : State} (hW : Sub 0x428000000000000000000000002000c W)  {j : Nat} {p : Packet} {s : State} (hs : Only W s0 s) :
    Only W s0 (sendEng j p s) := by
  unfold sendEng
  extract_lets +onlyGivenNames -merge -useContext -underBinder x1
  have hx1 : Only W s0 (x1) := by
    unfold x1
    refine only_ite ?_ ?_
    · exact only_gtLaunch (sub_trans rfl hW) hs
    · exact hs
  try clear_value x1
  exact only_State_sendP (sub_trans rfl hW) hx1

theorem only_chOpen {W : Nat} {s0 : State} (hW : Sub 0x20400000000428000000000000000000000002100c W)  {c : Nat} {own : TxOwner} {p : Packet} {s : State} (hs : Only W s0 s) :
    Only W s0 (chOpen c own p s) := by
  unfold chOpen
  extract_lets +onlyGivenNames -merge -useContext -underBinder x1
  extract_lets +onlyGivenNames -merge -useContext -underBinder x2
  extract_lets +onlyGivenNames -merge -useContext -underBinder x3
  extract_lets +onlyGivenNames -merge -useContext -underBinder x4
  have hx4 : Only W s0 (x4) := by
    unfold x4
    refine only_txs (sub_trans rfl hW) ?_ _
    exact hs
  try clear_value x4
  exact only_chCount (sub_trans rfl hW) (only_sendEng (sub_trans rfl hW) hx4)

theorem only_chRead {W : Nat} {s0 : State} (hW : Sub 0x20400000000428000000000000000000000002100c W)  {c : Nat} {own : TxOwner} {cls : TClass} {a : Nat} {n : Nat} {s : State} (hs : Only W s0 s) :
    Only W s0 (chRead c own cls a n s) := by
  unfold chRead
  exact only_chOpen (sub_trans rfl hW) hs

theorem only_chWrite {W : Nat} {s0 : State} (hW : Sub 0x20400000000428000000000000000000000012100c W)  {c : Nat} {own : TxOwner} {cls : TClass} {a : Nat} {n : Nat} {v : Nat} {va : Nat} {s : State} (hs : Only W s0 s) :
    Only W s0 (chWrite c own cls a n v va s) := by
  unfold chWrite
  extract_lets +onlyGivenNames -merge -useContext -underBinder x1
  have hx1 : Only W s0 (x1) := only_chOpen (sub_trans rfl hW) hs
  try clear_value x1
  refine only_ite ?_ ?_
  · exact only_State_onCh (sub_trans rfl hW) hx1
  · exact hx1

theorem only_zdStatusWrite {W : Nat} {s0 : State} (hW : Sub 0x20400000000428000000000000000000000012100c W)  {c : Nat} {d : DmaDesc} {v : Nat} {s : State} (hs : Only W s0 s) :
    Only W s0 (zdStatusWrite c d v s) := by
  unfold zdStatusWrite
  extract_lets +onlyGivenNames -merge -useContext -underBinder x1
  exact only_chWrite (sub_trans rfl hW) hs

theorem only_chFault {W : Nat} {s0 : State} (hW : Sub 0x204c0000000428000000000000000000000032100e W)  {c : Nat} {code : Nat} {fpc : Nat} {faddr : Option Nat} {silent : optParam Bool Bool.false} {s : State} (hs : Only W s0 s) :
    Only W s0 (chFault c code fpc faddr s silent) := by
  unfold chFault
  extract_lets +onlyGivenNames -merge -useContext -underBinder x1
  extract_lets +onlyGivenNames -merge -useContext -underBinder x2
  extract_lets +onlyGivenNames -merge -useContext -underBinder x3
  have hx3 : Only W s0 (x3) := by
    unfold x3
    refine only_State_setR (sub_trans rfl hW) ?_
    refine only_State_setF (sub_trans rfl hW) ?_
    refine only_State_setF (sub_trans rfl hW) ?_
    exact only_State_setR (sub_trans rfl hW) (only_State_bump (sub_trans rfl hW) hs)
  try clear_value x3
  extract_lets +onlyGivenNames -merge -useContext -underBinder x4
  extract_lets +onlyGivenNames -merge -useContext -underBinder x5
  have hx5 : Only W s0 (x5) := by
    unfold x5
    split
    · refine only_ite ?_ ?_
      · exact only_zdStatusWrite (sub_trans rfl hW) hx3
      · exact hx3
    · exact hx3
  try clear_value x5
  extract_lets +onlyGivenNames -merge -useContext -underBinder x6
  have hx6 : Only W s0 (x6) := only_chDrop (sub_trans rfl hW) hx5
  try clear_value x6
  extract_lets +onlyGivenNames -merge -useContext -underBinder x7
  have hx7 : Only W s0 (x7) := only_State_onCh (sub_trans rfl hW) hx6
  try clear_value x7
  exact only_chIrq (sub_trans rfl hW) (only_setChState (sub_trans rfl hW) (only_chCount (sub_trans rfl hW) hx7))

theorem only_chIll {W : Nat} {s0 : State} (hW : Sub 0x204c0000000428000000000000000000000032100e W)  {c : Nat} {code : Nat} {s : State} (hs : Only W s0 s) :
    Only W s0 (chIll c code s) := by
  unfold chIll
  exact only_chFault (sub_trans rfl hW) hs

theorem only_chGrant {W : Nat} {s0 : State} (hW : Sub 0x100000 W)  {c : Nat} {slot : Nat} {ready : Nat → State → Bool} {s : State} (hs : Only W s0 s) :
    Only W s0 (chGrant c slot ready s) := by
  unfold chGrant
  extract_lets +onlyGivenNames -merge -useContext -underBinder x1
  extract_lets +onlyGivenNames -merge -useContext -underBinder x2
  extract_lets +onlyGivenNames -merge -useContext -underBinder x3
  have hx3 : ∀ y0 y1 y2, Only W s0 (y2) → Only W s0 (x3 y0 y1 y2) := by
    unfold x3
    intro y4 y5 y6 hy6
    exact only_State_onCh (sub_trans rfl hW) hy6
  try clear_value x3
  extract_lets +onlyGivenNames -merge -useContext -underBinder x7
  extract_lets +onlyGivenNames -merge -useContext -underBinder x8
  have hx8 : Only W s0 (x8) := by
    unfold x8
    refine only_dmaPtr (sub_trans rfl hW) ?_ _
    exact hs
  try clear_value x8
  refine only_foldl (fun t x ht => ?_) ?_
  · extract_lets +onlyGivenNames -merge -useContext -underBinder x9
    refine only_ite ?_ ?_
    · refine hx3 _ _ _ ?_
      assumption
    · refine hx3 _ _ _ ?_
      assumption
  · exact hx8

theorem only_progFetch {W : Nat} {s0 : State} (hW : Sub 0x200000000000000000000000000000000040000004 W)  {j : Nat} {w : Nat} {ecc : Nat} {s : State} (hs : Only W s0 s) :
    Only W s0 (progFetch j w ecc s).2 := by
  unfold progFetch
  refine only_ite_snd ?_ ?_
  · extract_lets +onlyGivenNames -merge -useContext -underBinder x1
    have hx1 : Only W s0 (x1) := only_State_setB (sub_trans rfl hW) hs
    try clear_value x1
    exact only_snd_mk (only_report (sub_trans rfl hW) hx1)
  · refine only_snd_mk ?_
    refine only_ite ?_ ?_
    · exact only_State_satInc (sub_trans rfl hW) hs
    · exact hs

theorem only_chInstr {W : Nat} {s0 : State} (hW : Sub 0x204c0000000428000000000000000000004032100e W)  {c : Nat} {ecc : Nat} {mine : Word → Bool} {run : Word → State → State} (hrun : ∀ y0 y1, Only W s0 (y1) → Only W s0 (run y0 y1)) {s : State} (hs : Only W s0 s) :
    OnlyOut W s0 (chInstr c ecc mine run s) := by
  unfold chInstr
  refine onlyOut_ite ?_ ?_
  · exact only_next hs
  · extract_lets +onlyGivenNames -merge -useContext -underBinder x1
    have hx1 : ∀ y0, Only W s0 (y0) → Only W s0 (x1 y0) := by
      unfold x1
      intro y2 hy2
      exact only_chGrant (sub_trans rfl hW) hy2
    try clear_value x1
    extract_lets +onlyGivenNames -merge -useContext -underBinder x3
    refine onlyOut_ite ?_ ?_
    · exact only_next (only_chFault (sub_trans rfl hW) (hx1 _ hs))
    · split
      · rename_i e4
        replace e4 := congrArg Prod.snd e4
        dsimp only at e4
        refine only_of_eq (W := W) (s0 := s0) e4 ?_ (fun k5 => ?_)
        · exact only_progFetch (sub_trans rfl hW) hs
        refine onlyOut_ite ?_ ?_
        · refine only_next ?_
          refine only_chIll (sub_trans rfl hW) ?_
          refine hx1 _ ?_
          assumption
        · refine onlyOut_ite ?_ ?_
          · refine only_next ?_
            refine hrun _ _ ?_
            refine hx1 _ ?_
            assumption
          · exact only_next hs

theorem only_chNext {W : Nat} {s0 : State} (hW : Sub 0x20000000000000000000000000000000000004 W)  {c : Nat} {s : State} (hs : Only W s0 s) :
    Only W s0 (chNext c s) := by
  unfold chNext
  exact only_setChPc (sub_trans rfl hW) hs

theorem only_moveStart {W : Nat} {s0 : State} (hW : Sub 0x204e0000000428000000000000000000000032100e W)  {c : Nat} {m : DmaMove} {ended : State → State} (hended : ∀ y0, Only W s0 (y0) → Only W s0 (ended y0)) {s : State} (hs : Only W s0 s) :
    Only W s0 (moveStart c m ended s) := by
  unfold moveStart
  refine only_ite ?_ ?_
  · refine hended _ ?_
    exact only_State_setF (sub_trans rfl hW) hs
  · split
    · exact only_chIll (sub_trans rfl hW) hs
    · extract_lets +onlyGivenNames -merge -useContext -underBinder x1
      exact only_State_setF (sub_trans rfl hW) (only_State_onCh (sub_trans rfl hW) hs)

theorem only_moveInc {W : Nat} {s0 : State} (hW : Sub 0x20000000000000000000000000000000000000004 W)  {c : Nat} {m : DmaMove} {s : State} (hs : Only W s0 s) :
    Only W s0 (moveInc c m s) := by
  unfold moveInc
  extract_lets +onlyGivenNames -merge -useContext -underBinder x1
  have hx1 : ∀ y0 y1, Only W s0 (y1) → Only W s0 (x1 y0 y1) := by
    unfold x1
    intro y2 y3 hy3
    split
    · exact only_setChG (sub_trans rfl hW) hy3
    · exact hy3
  try clear_value x1
  exact hx1 _ _ (hx1 _ _ hs)

theorem only_dmaMove {W : Nat} {s0 : State} (hW : Sub 0x204e2000000428000000000000000000000032100e W)  {c : Nat} {w : Word} {s : State} (hs : Only W s0 s) :
    Only W s0 (dmaMove c w s) := by
  unfold dmaMove
  split
  · extract_lets +onlyGivenNames -merge -useContext -underBinder x1
    extract_lets +onlyGivenNames -merge -useContext -underBinder x2
    extract_lets +onlyGivenNames -merge -useContext -underBinder x3
    extract_lets +onlyGivenNames -merge -useContext -underBinder x4
    refine only_moveStart (sub_trans rfl hW) ?_ ?_
    · intro y5 hy5
      exact only_chNext (sub_trans rfl hW) hy5
    · exact hs
  · exact only_chIll (sub_trans rfl hW) hs

theorem only_dmaMove2D {W : Nat} {s0 : State} (hW : Sub 0x204e2000000428000000000000000000000032100e W)  {c : Nat} {w : Word} {s : State} (hs : Only W s0 s) :
    Only W s0 (dmaMove2D c w s) := by
  unfold dmaMove2D
  split
  · extract_lets +onlyGivenNames -merge -useContext -underBinder x1
    extract_lets +onlyGivenNames -merge -useContext -underBinder x2
    extract_lets +onlyGivenNames -merge -useContext -underBinder x3
    extract_lets +onlyGivenNames -merge -useContext -underBinder x4
    extract_lets +onlyGivenNames -merge -useContext -underBinder x5
    extract_lets +onlyGivenNames -merge -useContext -underBinder x6
    extract_lets +onlyGivenNames -merge -useContext -underBinder x7
    extract_lets +onlyGivenNames -merge -useContext -underBinder x8
    refine only_moveStart (sub_trans rfl hW) ?_ ?_
    · intro y9 hy9
      exact only_chNext (sub_trans rfl hW) hy9
    · exact hs
  · exact only_chIll (sub_trans rfl hW) hs

theorem only_moveEnd {W : Nat} {s0 : State} (hW : Sub 0x20020000000000000000000000000000000100004 W)  {c : Nat} {s : State} (hs : Only W s0 s) :
    Only W s0 (moveEnd c s) := by
  unfold moveEnd
  split
  · exact only_chNext (sub_trans rfl hW) (only_moveInc (sub_trans rfl hW) (only_State_onCh (sub_trans rfl hW) hs))
  · exact hs

theorem only_chPaused {W : Nat} {s0 : State} (hW : Sub 0x24020000000000000000000000000000000100004 W)  {c : Nat} {s : State} (hs : Only W s0 s) :
    Only W s0 (chPaused c s) := by
  unfold chPaused
  refine only_ite ?_ ?_
  · exact hs
  · extract_lets +onlyGivenNames -merge -useContext -underBinder x1
    have hx1 : Only W s0 (x1) := by
      unfold x1
      refine only_ite ?_ ?_
      · exact only_moveEnd (sub_trans rfl hW) hs
      · exact hs
    try clear_value x1
    split
    · refine only_ite ?_ ?_
      · refine only_setChState (sub_trans rfl hW) ?_
        exact only_State_setB (sub_trans rfl hW) (only_State_onCh (sub_trans rfl hW) hx1)
      · exact hx1
    · exact only_setChState (sub_trans rfl hW) (only_State_onCh (sub_trans rfl hW) hx1)

theorem only_chAborted {W : Nat} {s0 : State} (hW : Sub 0x4000000000000000000000000000000000000004 W)  {c : Nat} {s : State} (hs : Only W s0 s) :
    Only W s0 (chAborted c s) := by
  unfold chAborted
  refine only_ite ?_ ?_
  · exact only_State_setB (sub_trans rfl hW) (only_setChState (sub_trans rfl hW) hs)
  · exact hs

theorem only_execMoveComplete {W : Nat} {s0 : State} (hW : Sub 0x20020000000000000000000000000000000100004 W)  {c : Nat} {s : State} (hs : Only W s0 s) :
    OnlyOut W s0 (execMoveComplete c s) := by
  unfold execMoveComplete
  refine only_next ?_
  refine only_ite ?_ ?_
  · exact only_moveEnd (sub_trans rfl hW) hs
  · exact hs

theorem only_execMove {W : Nat} {s0 : State} (hW : Sub 0x204e2000000428000000000000000000004032100e W)  {c : Nat} {ecc : Nat} {s : State} (hs : Only W s0 s) :
    OnlyOut W s0 (execMove c ecc s) := by
  unfold execMove
  refine only_chInstr (sub_trans rfl hW) ?_ ?_
  · intro y1 y2 hy2
    exact only_dmaMove (sub_trans rfl hW) hy2
  · exact hs

theorem only_execMove2D {W : Nat} {s0 : State} (hW : Sub 0x204e2000000428000000000000000000004032100e W)  {c : Nat} {ecc : Nat} {s : State} (hs : Only W s0 s) :
    OnlyOut W s0 (execMove2D c ecc s) := by
  unfold execMove2D
  refine only_chInstr (sub_trans rfl hW) ?_ ?_
  · intro y1 y2 hy2
    exact only_dmaMove2D (sub_trans rfl hW) hy2
  · exact hs

theorem only_issueRead {W : Nat} {s0 : State} (hW : Sub 0x204c0000000428000000000000000000000132100e W)  {c : Nat} {m : DmaMove} {x : Xlate} {s : State} (hs : Only W s0 s) :
    Only W s0 (issueRead c m x s) := by
  unfold issueRead
  extract_lets +onlyGivenNames -merge -useContext -underBinder x1
  split
  · exact only_chFault (sub_trans rfl hW) (only_iommuFault (sub_trans rfl hW) hs)
  · extract_lets +onlyGivenNames -merge -useContext -underBinder x2
    split
    · exact only_chFault (sub_trans rfl hW) hs
    · extract_lets +onlyGivenNames -merge -useContext -underBinder x3
      have hx3 : Only W s0 (x3) := only_State_onCh (sub_trans rfl hW) hs
      try clear_value x3
      exact only_chRead (sub_trans rfl hW) hx3

theorem only_issueWrite {W : Nat} {s0 : State} (hW : Sub 0x224e2000000428000000000000000000000132100e W)  {c : Nat} {m : DmaMove} {x : Xlate} {s : State} (hs : Only W s0 s) :
    Only W s0 (issueWrite c m x s) := by
  unfold issueWrite
  extract_lets +onlyGivenNames -merge -useContext -underBinder x1
  split
  · exact only_chFault (sub_trans rfl hW) (only_iommuFault (sub_trans rfl hW) hs)
  · extract_lets +onlyGivenNames -merge -useContext -underBinder x2
    split
    · exact only_chFault (sub_trans rfl hW) hs
    · extract_lets +onlyGivenNames -merge -useContext -underBinder x3
      extract_lets +onlyGivenNames -merge -useContext -underBinder x4
      extract_lets +onlyGivenNames -merge -useContext -underBinder x5
      have hx5 : Only W s0 (x5) := only_State_onCh (sub_trans rfl hW) hs
      try clear_value x5
      refine only_chPaused (sub_trans rfl hW) ?_
      exact only_chWrite (sub_trans rfl hW) (only_State_setF (sub_trans rfl hW) hx5)

theorem only_execAccessSlotGrant {W : Nat} {s0 : State} (hW : Sub 0x224e2000000428000000000000000000000132100e W)  {j : Nat} {write : Bool} {x : Xlate} {s : State} (hs : Only W s0 s) :
    OnlyOut W s0 (execAccessSlotGrant j write x s) := by
  unfold execAccessSlotGrant
  split
  · exact only_next hs
  · split
    · exact only_next hs
    · extract_lets +onlyGivenNames -merge -useContext -underBinder x1
      have hx1 : Only W s0 (x1) := only_chGrant (sub_trans rfl hW) hs
      try clear_value x1
      refine onlyOut_ite ?_ ?_
      · exact only_next (only_issueWrite (sub_trans rfl hW) hx1)
      · exact only_next (only_issueRead (sub_trans rfl hW) hx1)

theorem only_chDepthSync {W : Nat} {s0 : State} (hW : Sub 0x20000000000000000000000000000000000004 W)  {c : Nat} {s : State} (hs : Only W s0 s) :
    Only W s0 (chDepthSync c s) := by
  unfold chDepthSync
  exact only_State_setF (sub_trans rfl hW) hs

theorem only_loopPop {W : Nat} {s0 : State} (hW : Sub 0x10020000000000000000000000000000000000004 W)  {c : Nat} {n : Nat} {s : State} (hs : Only W s0 s) :
    Only W s0 (loopPop c n s) := by
  unfold loopPop
  extract_lets +onlyGivenNames -merge -useContext -underBinder x1
  refine only_chDepthSync (sub_trans rfl hW) ?_
  refine only_iter (fun x t ht => ?_) ?_
  · refine only_ite ?_ ?_
    · refine only_State_setR (sub_trans rfl hW) ?_
      assumption
    · assumption
  · exact hs

theorem only_dmaLoop {W : Nat} {s0 : State} (hW : Sub 0x214c2000000428000000000000000000004032100e W)  {c : Nat} {ecc2 : Nat} {w : Word} {s : State} (hs : Only W s0 s) :
    Only W s0 (dmaLoop c ecc2 w s) := by
  unfold dmaLoop
  extract_lets +onlyGivenNames -merge -useContext -underBinder x1
  extract_lets +onlyGivenNames -merge -useContext -underBinder x2
  extract_lets +onlyGivenNames -merge -useContext -underBinder x3
  extract_lets +onlyGivenNames -merge -useContext -underBinder x4
  refine only_ite ?_ ?_
  · exact only_chIll (sub_trans rfl hW) hs
  · refine only_ite ?_ ?_
    · exact only_chIll (sub_trans rfl hW) hs
    · split
      · rename_i e5
        replace e5 := congrArg Prod.snd e5
        dsimp only at e5
        refine only_of_eq (W := W) (s0 := s0) e5 ?_ (fun k6 => ?_)
        · exact only_progFetch (sub_trans rfl hW) hs
        refine only_ite ?_ ?_
        · refine only_chIll (sub_trans rfl hW) ?_
          assumption
        · refine only_ite ?_ ?_
          · refine only_setChPc (sub_trans rfl hW) ?_
            assumption
          · extract_lets +onlyGivenNames -merge -useContext -underBinder x7
            refine only_ite ?_ ?_
            · refine only_chIll (sub_trans rfl hW) ?_
              assumption
            · extract_lets +onlyGivenNames -merge -useContext -underBinder x8
              extract_lets +onlyGivenNames -merge -useContext -underBinder x9
              have hx9 : Only W s0 (x9) := by
                unfold x9
                refine only_State_setF (sub_trans rfl hW) ?_
                refine only_State_setF (sub_trans rfl hW) ?_
                refine only_State_setB (sub_trans rfl hW) ?_
                refine only_State_setB (sub_trans rfl hW) ?_
                assumption
              try clear_value x9
              exact only_chNext (sub_trans rfl hW) (only_chDepthSync (sub_trans rfl hW) hx9)

theorem only_dmaEndLoop {W : Nat} {s0 : State} (hW : Sub 0x214c2000000428000000000000000000000032100e W)  {c : Nat} {w : Word} {s : State} (hs : Only W s0 s) :
    Only W s0 (dmaEndLoop c w s) := by
  unfold dmaEndLoop
  extract_lets +onlyGivenNames -merge -useContext -underBinder x1
  refine only_ite ?_ ?_
  · exact only_chIll (sub_trans rfl hW) hs
  · refine only_ite ?_ ?_
    · exact only_chIll (sub_trans rfl hW) hs
    · extract_lets +onlyGivenNames -merge -useContext -underBinder x2
      extract_lets +onlyGivenNames -merge -useContext -underBinder x3
      refine only_ite ?_ ?_
      · exact only_setChPc (sub_trans rfl hW) hs
      · extract_lets +onlyGivenNames -merge -useContext -underBinder x4
        refine only_ite ?_ ?_
        · exact only_chNext (sub_trans rfl hW) (only_loopPop (sub_trans rfl hW) hs)
        · exact only_setChPc (sub_trans rfl hW) (only_State_setF (sub_trans rfl hW) hs)

theorem only_dmaBranch {W : Nat} {s0 : State} (hW : Sub 0x214c2000000428000000000000000000000032100e W)  {c : Nat} {pop : Nat} {off : Nat} {s : State} (hs : Only W s0 s) :
    Only W s0 (dmaBranch c pop off s) := by
  unfold dmaBranch
  extract_lets +onlyGivenNames -merge -useContext -underBinder x1
  refine only_ite ?_ ?_
  · exact only_chIll (sub_trans rfl hW) hs
  · refine only_ite ?_ ?_
    · exact only_chIll (sub_trans rfl hW) hs
    · exact only_setChPc (sub_trans rfl hW) (only_loopPop (sub_trans rfl hW) hs)

theorem only_dmaJump {W : Nat} {s0 : State} (hW : Sub 0x214c2000000428000000000000000000000032100e W)  {c : Nat} {w : Word} {s : State} (hs : Only W s0 s) :
    Only W s0 (dmaJump c w s) := by
  unfold dmaJump
  refine only_ite ?_ ?_
  · exact only_chIll (sub_trans rfl hW) hs
  · exact only_dmaBranch (sub_trans rfl hW) hs

theorem only_dmaBrz {W : Nat} {s0 : State} (hW : Sub 0x234c2000000428000000000000000000000032100e W)  {c : Nat} {w : Word} {s : State} (hs : Only W s0 s) :
    Only W s0 (dmaBrz c w s) := by
  unfold dmaBrz
  refine only_ite ?_ ?_
  · exact only_chIll (sub_trans rfl hW) hs
  · extract_lets +onlyGivenNames -merge -useContext -underBinder x1
    extract_lets +onlyGivenNames -merge -useContext -underBinder x2
    have hx2 : Only W s0 (x2) := by
      unfold x2
      refine only_ite ?_ ?_
      · exact only_setChG (sub_trans rfl hW) hs
      · exact hs
    try clear_value x2
    refine only_ite ?_ ?_
    · exact only_dmaBranch (sub_trans rfl hW) hx2
    · exact only_chNext (sub_trans rfl hW) hx2

theorem only_dmaSetr {W : Nat} {s0 : State} (hW : Sub 0x224c2000000428000000000000000000000032100e W)  {c : Nat} {w : Word} {s : State} (hs : Only W s0 s) :
    Only W s0 (dmaSetr c w s) := by
  unfold dmaSetr
  extract_lets +onlyGivenNames -merge -useContext -underBinder x1
  refine only_ite ?_ ?_
  · exact only_chIll (sub_trans rfl hW) hs
  · extract_lets +onlyGivenNames -merge -useContext -underBinder x2
    exact only_chNext (sub_trans rfl hW) (only_setChG (sub_trans rfl hW) hs)

theorem only_dmaAddr {W : Nat} {s0 : State} (hW : Sub 0x224c2000000428000000000000000000000032100e W)  {c : Nat} {w : Word} {s : State} (hs : Only W s0 s) :
    Only W s0 (dmaAddr c w s) := by
  unfold dmaAddr
  extract_lets +onlyGivenNames -merge -useContext -underBinder x1
  refine only_ite ?_ ?_
  · exact only_chIll (sub_trans rfl hW) hs
  · extract_lets +onlyGivenNames -merge -useContext -underBinder x2
    extract_lets +onlyGivenNames -merge -useContext -underBinder x3
    extract_lets +onlyGivenNames -merge -useContext -underBinder x4
    exact only_chNext (sub_trans rfl hW) (only_setChG (sub_trans rfl hW) hs)

theorem only_execLoop {W : Nat} {s0 : State} (hW : Sub 0x214c2000000428000000000000000000004032100e W)  {c : Nat} {ecc : Nat} {ecc2 : Nat} {s : State} (hs : Only W s0 s) :
    OnlyOut W s0 (execLoop c ecc ecc2 s) := by
  unfold execLoop
  refine only_chInstr (sub_trans rfl hW) ?_ ?_
  · intro y1 y2 hy2
    exact only_dmaLoop (sub_trans rfl hW) hy2
  · exact hs

theorem only_execEndLoop {W : Nat} {s0 : State} (hW : Sub 0x214c2000000428000000000000000000004032100e W)  {c : Nat} {ecc : Nat} {s : State} (hs : Only W s0 s) :
    OnlyOut W s0 (execEndLoop c ecc s) := by
  unfold execEndLoop
  refine only_chInstr (sub_trans rfl hW) ?_ ?_
  · intro y1 y2 hy2
    exact only_dmaEndLoop (sub_trans rfl hW) hy2
  · exact hs

theorem only_execJump {W : Nat} {s0 : State} (hW : Sub 0x214c2000000428000000000000000000004032100e W)  {c : Nat} {ecc : Nat} {s : State} (hs : Only W s0 s) :
    OnlyOut W s0 (execJump c ecc s) := by
  unfold execJump
  refine only_chInstr (sub_trans rfl hW) ?_ ?_
  · intro y1 y2 hy2
    exact only_dmaJump (sub_trans rfl hW) hy2
  · exact hs

theorem only_execBrz {W : Nat} {s0 : State} (hW : Sub 0x234c2000000428000000000000000000004032100e W)  {c : Nat} {ecc : Nat} {s : State} (hs : Only W s0 s) :
    OnlyOut W s0 (execBrz c ecc s) := by
  unfold execBrz
  refine only_chInstr (sub_trans rfl hW) ?_ ?_
  · intro y1 y2 hy2
    exact only_dmaBrz (sub_trans rfl hW) hy2
  · exact hs

theorem only_execSetr {W : Nat} {s0 : State} (hW : Sub 0x224c2000000428000000000000000000004032100e W)  {c : Nat} {ecc : Nat} {s : State} (hs : Only W s0 s) :
    OnlyOut W s0 (execSetr c ecc s) := by
  unfold execSetr
  refine only_chInstr (sub_trans rfl hW) ?_ ?_
  · intro y1 y2 hy2
    exact only_dmaSetr (sub_trans rfl hW) hy2
  · exact hs

theorem only_execAddr {W : Nat} {s0 : State} (hW : Sub 0x224c2000000428000000000000000000004032100e W)  {c : Nat} {ecc : Nat} {s : State} (hs : Only W s0 s) :
    OnlyOut W s0 (execAddr c ecc s) := by
  unfold execAddr
  refine only_chInstr (sub_trans rfl hW) ?_ ?_
  · intro y1 y2 hy2
    exact only_dmaAddr (sub_trans rfl hW) hy2
  · exact hs

theorem only_dmaHalt {W : Nat} {s0 : State} (hW : Sub 0x204d0000000428000000000000000000000032100e W)  {c : Nat} {w : Word} {s : State} (hs : Only W s0 s) :
    Only W s0 (dmaHalt c w s) := by
  unfold dmaHalt
  refine only_ite ?_ ?_
  · exact only_chIll (sub_trans rfl hW) hs
  · extract_lets +onlyGivenNames -merge -useContext -underBinder x1
    have hx1 : Only W s0 (x1) := by
      unfold x1
      refine only_ite ?_ ?_
      · exact only_chIrq (sub_trans rfl hW) (only_State_setF (sub_trans rfl hW) hs)
      · exact hs
    try clear_value x1
    exact only_chDone (sub_trans rfl hW) hx1

theorem only_execHalt {W : Nat} {s0 : State} (hW : Sub 0x204d0000000428000000000000000000004032100e W)  {c : Nat} {ecc : Nat} {s : State} (hs : Only W s0 s) :
    OnlyOut W s0 (execHalt c ecc s) := by
  unfold execHalt
  refine only_chInstr (sub_trans rfl hW) ?_ ?_
  · intro y1 y2 hy2
    exact only_dmaHalt (sub_trans rfl hW) hy2
  · exact hs

theorem only_waitTake {W : Nat} {s0 : State} (hW : Sub 0x40100000000000000000000000000000000000004 W)  {c : Nat} {w : Word} {s : State} (hs : Only W s0 s) :
    OnlyOpt W s0 (waitTake c w s) := by
  unfold waitTake
  extract_lets +onlyGivenNames -merge -useContext -underBinder x1
  extract_lets +onlyGivenNames -merge -useContext -underBinder x2
  extract_lets +onlyGivenNames -merge -useContext -underBinder x3
  split
  · refine only_ite_optSt ?_ ?_
    · refine optSt_some ?_
      exact only_State_setF (sub_trans rfl hW) hs
    · exact optSt_none
  · refine only_ite_optSt ?_ ?_
    · refine optSt_some ?_
      exact only_State_setF (sub_trans rfl hW) hs
    · exact optSt_none
  · extract_lets +onlyGivenNames -merge -useContext -underBinder x4
    extract_lets +onlyGivenNames -merge -useContext -underBinder x5
    refine only_ite_optSt ?_ ?_
    · refine optSt_some ?_
      exact only_State_setF (sub_trans rfl hW) hs
    · exact optSt_none

theorem only_dmaWait {W : Nat} {s0 : State} (hW : Sub 0x244d2000000428000000000000000000000032100e W)  {c : Nat} {w : Word} {s : State} (hs : Only W s0 s) :
    Only W s0 (dmaWait c w s) := by
  unfold dmaWait
  refine only_ite ?_ ?_
  · exact only_chIll (sub_trans rfl hW) hs
  · refine only_ite ?_ ?_
    · exact only_chIll (sub_trans rfl hW) hs
    · split
      · rename_i e1
        have k2 := only_waitTake (sub_trans rfl hW) (by assumption) _ e1
        refine only_chNext (sub_trans rfl hW) ?_
        assumption
      · extract_lets +onlyGivenNames -merge -useContext -underBinder x3
        refine only_setChState (sub_trans rfl hW) ?_
        refine only_State_onCh (sub_trans rfl hW) ?_
        refine only_dmaTurn (sub_trans rfl hW) ?_ _
        exact hs

theorem only_waitTry {W : Nat} {s0 : State} (hW : Sub 0x44120000000000000000000000000000000000004 W)  {c : Nat} {s : State} (hs : Only W s0 s) :
    Only W s0 (waitTry c s) := by
  unfold waitTry
  refine only_ite ?_ ?_
  · exact hs
  · split
    · rename_i e1
      have k2 := only_waitTake (sub_trans rfl hW) (by assumption) _ e1
      refine only_chNext (sub_trans rfl hW) ?_
      refine only_setChState (sub_trans rfl hW) ?_
      assumption
    · exact hs

theorem only_evtSet {W : Nat} {s0 : State} (hW : Sub 0x44120000000000000000000000000000000000004 W)  {c : Nat} {e : Nat} {s : State} (hs : Only W s0 s) :
    Only W s0 (evtSet c e s) := by
  unfold evtSet
  extract_lets +onlyGivenNames -merge -useContext -underBinder x1
  have hx1 : Only W s0 (x1) := by
    unfold x1
    refine only_ite ?_ ?_
    · exact only_State_setFbit (sub_trans rfl hW) hs
    · exact only_State_setFbit (sub_trans rfl hW) hs
  try clear_value x1
  exact only_waitTry (sub_trans rfl hW) hx1

theorem only_semWake {W : Nat} {s0 : State} (hW : Sub 0x44120000000000000000000000000000000000004 W)  {j : Nat} {s : State} (hs : Only W s0 s) :
    Only W s0 (semWake j s) := by
  unfold semWake
  extract_lets +onlyGivenNames -merge -useContext -underBinder x1
  refine only_foldl (fun t x ht => ?_) ?_
  · refine only_waitTry (sub_trans rfl hW) ?_
    assumption
  · exact hs

theorem only_semAdd {W : Nat} {s0 : State} (hW : Sub 0x44120000000000000000000000000000000000004 W)  {i : Nat} {n : Nat} {s : State} (hs : Only W s0 s) :
    Only W s0 (semAdd i n s) := by
  unfold semAdd
  extract_lets +onlyGivenNames -merge -useContext -underBinder x1
  extract_lets +onlyGivenNames -merge -useContext -underBinder x2
  have hx2 : Only W s0 (x2) := by
    unfold x2
    refine only_ite ?_ ?_
    · exact only_State_setB (sub_trans rfl hW) hs
    · exact hs
  try clear_value x2
  exact only_semWake (sub_trans rfl hW) (only_State_setF (sub_trans rfl hW) hx2)

theorem only_dmaSignalSem {W : Nat} {s0 : State} (hW : Sub 0x244d2000000428000000000000000000000032100e W)  {c : Nat} {w : Word} {s : State} (hs : Only W s0 s) :
    Only W s0 (dmaSignalSem c w s) := by
  unfold dmaSignalSem
  extract_lets +onlyGivenNames -merge -useContext -underBinder x1
  extract_lets +onlyGivenNames -merge -useContext -underBinder x2
  refine only_ite ?_ ?_
  · exact only_chIll (sub_trans rfl hW) hs
  · refine only_ite ?_ ?_
    · exact only_chIll (sub_trans rfl hW) hs
    · exact only_chNext (sub_trans rfl hW) (only_semAdd (sub_trans rfl hW) hs)

theorem only_dmaSignalEvt {W : Nat} {s0 : State} (hW : Sub 0x244d2000000428000000000000000000000032100e W)  {c : Nat} {w : Word} {s : State} (hs : Only W s0 s) :
    Only W s0 (dmaSignalEvt c w s) := by
  unfold dmaSignalEvt
  extract_lets +onlyGivenNames -merge -useContext -underBinder x1
  refine only_ite ?_ ?_
  · exact only_chIll (sub_trans rfl hW) hs
  · refine only_ite ?_ ?_
    · exact only_chIll (sub_trans rfl hW) hs
    · exact only_evtSet (sub_trans rfl hW) (only_chNext (sub_trans rfl hW) hs)

theorem only_dmaSignalIrq {W : Nat} {s0 : State} (hW : Sub 0x204d2000000428000000000000000000000032100e W)  {c : Nat} {w : Word} {s : State} (hs : Only W s0 s) :
    Only W s0 (dmaSignalIrq c w s) := by
  unfold dmaSignalIrq
  refine only_ite ?_ ?_
  · exact only_chIll (sub_trans rfl hW) hs
  · exact only_chNext (sub_trans rfl hW) (only_chIrq (sub_trans rfl hW) (only_State_setF (sub_trans rfl hW) hs))

theorem only_dmaSignalWrite {W : Nat} {s0 : State} (hW : Sub 0x204c2000000428000000000000000000000132100e W)  {c : Nat} {x : Xlate} {w : Word} {s : State} (hs : Only W s0 s) :
    Only W s0 (dmaSignalWrite c x w s) := by
  unfold dmaSignalWrite
  extract_lets +onlyGivenNames -merge -useContext -underBinder x1
  extract_lets +onlyGivenNames -merge -useContext -underBinder x2
  refine only_ite ?_ ?_
  · exact only_chIll (sub_trans rfl hW) hs
  · refine only_ite ?_ ?_
    · exact only_chIll (sub_trans rfl hW) hs
    · split
      · exact only_chFault (sub_trans rfl hW) (only_iommuFault (sub_trans rfl hW) hs)
      · refine only_ite ?_ ?_
        · exact only_chFault (sub_trans rfl hW) hs
        · exact only_chNext (sub_trans rfl hW) (only_chWrite (sub_trans rfl hW) hs)

theorem only_execWait {W : Nat} {s0 : State} (hW : Sub 0x244d2000000428000000000000000000004032100e W)  {c : Nat} {ecc : Nat} {s : State} (hs : Only W s0 s) :
    OnlyOut W s0 (execWait c ecc s) := by
  unfold execWait
  refine only_chInstr (sub_trans rfl hW) ?_ ?_
  · intro y1 y2 hy2
    exact only_dmaWait (sub_trans rfl hW) hy2
  · exact hs

theorem only_execSignalSem {W : Nat} {s0 : State} (hW : Sub 0x244d2000000428000000000000000000004032100e W)  {c : Nat} {ecc : Nat} {s : State} (hs : Only W s0 s) :
    OnlyOut W s0 (execSignalSem c ecc s) := by
  unfold execSignalSem
  refine only_chInstr (sub_trans rfl hW) ?_ ?_
  · intro y1 y2 hy2
    exact only_dmaSignalSem (sub_trans rfl hW) hy2
  · exact hs

theorem only_execSignalEvt {W : Nat} {s0 : State} (hW : Sub 0x244d2000000428000000000000000000004032100e W)  {c : Nat} {ecc : Nat} {s : State} (hs : Only W s0 s) :
    OnlyOut W s0 (execSignalEvt c ecc s) := by
  unfold execSignalEvt
  refine only_chInstr (sub_trans rfl hW) ?_ ?_
  · intro y1 y2 hy2
    exact only_dmaSignalEvt (sub_trans rfl hW) hy2
  · exact hs

theorem only_execSignalIrq {W : Nat} {s0 : State} (hW : Sub 0x204d2000000428000000000000000000004032100e W)  {c : Nat} {ecc : Nat} {s : State} (hs : Only W s0 s) :
    OnlyOut W s0 (execSignalIrq c ecc s) := by
  unfold execSignalIrq
  refine only_chInstr (sub_trans rfl hW) ?_ ?_
  · intro y1 y2 hy2
    exact only_dmaSignalIrq (sub_trans rfl hW) hy2
  · exact hs

theorem only_execSignalWrite {W : Nat} {s0 : State} (hW : Sub 0x204c2000000428000000000000000000004132100e W)  {c : Nat} {ecc : Nat} {x : Xlate} {s : State} (hs : Only W s0 s) :
    OnlyOut W s0 (execSignalWrite c ecc x s) := by
  unfold execSignalWrite
  refine only_chInstr (sub_trans rfl hW) ?_ ?_
  · intro y1 y2 hy2
    refine only_ite ?_ ?_
    · exact only_dmaSignalWrite (sub_trans rfl hW) hy2
    · exact only_chIll (sub_trans rfl hW) hy2
  · exact hs

theorem only_execWaitTimeout {W : Nat} {s0 : State} (hW : Sub 0x204c0000000428000000000000000000000032100e W)  {c : Nat} {s : State} (hs : Only W s0 s) :
    OnlyOut W s0 (execWaitTimeout c s) := by
  unfold execWaitTimeout
  extract_lets +onlyGivenNames -merge -useContext -underBinder x1
  refine only_next ?_
  refine only_ite ?_ ?_
  · exact only_chIll (sub_trans rfl hW) hs
  · exact hs

theorem only_execDmaUnblock {W : Nat} {s0 : State} (hW : Sub 0x4412000000008000000000000000000000000000c W)  {c : Nat} {evt : Nat} {s : State} (hs : Only W s0 s) :
    OnlyOut W s0 (execDmaUnblock c evt s) := by
  unfold execDmaUnblock
  split
  · exact only_next (only_evtSet (sub_trans rfl hW) (only_State_take (sub_trans rfl hW) hs))
  · exact only_next hs

theorem only_evtWrite {W : Nat} {s0 : State} (hW : Sub 0x44120000000000000000000000000000000000004 W)  {c : Nat} {v : Word} {s : State} (hs : Only W s0 s) :
    Only W s0 (evtWrite c v s) := by
  unfold evtWrite
  exact only_waitTry (sub_trans rfl hW) (only_State_wr (sub_trans rfl hW) hs)

theorem only_execPendWrite {W : Nat} {s0 : State} (hW : Sub 0xe0000007044120000000000000000000000000000000000024 W)  {a : Access} {c : Nat} {v : Word} {s : State} (hs : Only W s0 s) :
    OnlyOut W s0 (execPendWrite a c v s) := by
  unfold execPendWrite
  refine only_next ?_
  refine only_guarded (sub_trans rfl hW) ?_ ?_
  · intro y1 hy1
    exact only_evtWrite (sub_trans rfl hW) hy1
  · exact hs

theorem only_semWrite {W : Nat} {s0 : State} (hW : Sub 0x20000000044120000000000000000000000000000000000004 W)  {a : Access} {i : Nat} {v : Word} {s : State} (hs : Only W s0 s) :
    Only W s0 (semWrite a i v s) := by
  unfold semWrite
  refine only_ite ?_ ?_
  · exact only_pqErr (sub_trans rfl hW) hs
  · extract_lets +onlyGivenNames -merge -useContext -underBinder x1
    extract_lets +onlyGivenNames -merge -useContext -underBinder x2
    have hx2 : Only W s0 (x2) := only_State_wr (sub_trans rfl hW) hs
    try clear_value x2
    extract_lets +onlyGivenNames -merge -useContext -underBinder x3
    have hx3 : Only W s0 (x3) := by
      unfold x3
      refine only_ite ?_ ?_
      · exact hx2
      · exact only_State_setF (sub_trans rfl hW) hx2
    try clear_value x3
    extract_lets +onlyGivenNames -merge -useContext -underBinder x4
    have hx4 : Only W s0 (x4) := by
      unfold x4
      refine only_ite ?_ ?_
      · exact hx3
      · exact only_State_setF (sub_trans rfl hW) hx3
    try clear_value x4
    exact only_semWake (sub_trans rfl hW) hx4

theorem only_execSemCountWrite {W : Nat} {s0 : State} (hW : Sub 0xe0000007044120000000000000000000000000000000000024 W)  {a : Access} {i : Nat} {v : Word} {s : State} (hs : Only W s0 s) :
    OnlyOut W s0 (execSemCountWrite a i v s) := by
  unfold execSemCountWrite
  refine only_next ?_
  refine only_guarded (sub_trans rfl hW) ?_ ?_
  · intro y1 hy1
    exact only_semWrite (sub_trans rfl hW) hy1
  · exact hs

theorem only_fenceTry {W : Nat} {s0 : State} (hW : Sub 0x20000000000000000000000000000000100004 W)  {c : Nat} {s : State} (hs : Only W s0 s) :
    Only W s0 (fenceTry c s) := by
  unfold fenceTry
  refine only_ite ?_ ?_
  · exact only_chNext (sub_trans rfl hW) (only_State_onCh (sub_trans rfl hW) hs)
  · exact hs

theorem only_dmaFence {W : Nat} {s0 : State} (hW : Sub 0x204c2000000428000000000000000000000132100e W)  {c : Nat} {xs : List Xlate} {w : Word} {s : State} (hs : Only W s0 s) :
    Only W s0 (dmaFence c xs w s) := by
  unfold dmaFence
  refine only_ite ?_ ?_
  · exact only_chIll (sub_trans rfl hW) hs
  · refine only_ite ?_ ?_
    · exact only_fenceTry (sub_trans rfl hW) (only_State_onCh (sub_trans rfl hW) hs)
    · extract_lets +onlyGivenNames -merge -useContext -underBinder x1
      split
      · exact only_chFault (sub_trans rfl hW) (only_iommuFault (sub_trans rfl hW) hs)
      · extract_lets +onlyGivenNames -merge -useContext -underBinder x2
        have hx2 : Only W s0 (x2) := by
          unfold x2
          refine only_foldl (fun t x ht => ?_) ?_
          · split
            · refine only_chOpen (sub_trans rfl hW) ?_
              assumption
          · exact hs
        try clear_value x2
        exact only_fenceTry (sub_trans rfl hW) (only_State_onCh (sub_trans rfl hW) hx2)

theorem only_execFenceAck {W : Nat} {s0 : State} (hW : Sub 0x204c2000000428000000000000000000004132100e W)  {c : Nat} {ecc : Nat} {xs : List Xlate} {s : State} (hs : Only W s0 s) :
    OnlyOut W s0 (execFenceAck c ecc xs s) := by
  unfold execFenceAck
  refine only_chInstr (sub_trans rfl hW) ?_ ?_
  · intro y1 y2 hy2
    exact only_dmaFence (sub_trans rfl hW) hy2
  · exact hs

theorem only_execDescriptorFetch {W : Nat} {s0 : State} (hW : Sub 0x204c0000000428000000000000000000000132100e W)  {c : Nat} {x : Xlate} {s : State} (hs : Only W s0 s) :
    OnlyOut W s0 (execDescriptorFetch c x s) := by
  unfold execDescriptorFetch
  refine onlyOut_ite ?_ ?_
  · exact only_next hs
  · extract_lets +onlyGivenNames -merge -useContext -underBinder x1
    have hx1 : Only W s0 (x1) := only_chGrant (sub_trans rfl hW) hs
    try clear_value x1
    extract_lets +onlyGivenNames -merge -useContext -underBinder x2
    split
    · exact only_next (only_chFault (sub_trans rfl hW) (only_iommuFault (sub_trans rfl hW) hx1))
    · refine onlyOut_ite ?_ ?_
      · exact only_next (only_chFault (sub_trans rfl hW) hx1)
      · extract_lets +onlyGivenNames -merge -useContext -underBinder x3
        have hx3 : Only W s0 (x3) := only_State_onCh (sub_trans rfl hW) hx1
        try clear_value x3
        exact only_next (only_chRead (sub_trans rfl hW) hx3)

theorem only_descRead {W : Nat} {s0 : State} (hW : Sub 0x204e0000000428000000000000000000000032100e W)  {c : Nat} {d : DmaDesc} {n : Nat} {s : State} (hs : Only W s0 s) :
    Only W s0 (descRead c d n s) := by
  unfold descRead
  extract_lets +onlyGivenNames -merge -useContext -underBinder x1
  extract_lets +onlyGivenNames -merge -useContext -underBinder x2
  extract_lets +onlyGivenNames -merge -useContext -underBinder x3
  try clear_value x3
  extract_lets +onlyGivenNames -merge -useContext -underBinder x4
  have hx4 : Only W s0 (x4) := only_State_onCh (sub_trans rfl hW) hs
  try clear_value x4
  split
  · extract_lets +onlyGivenNames -merge -useContext -underBinder x5
    refine only_moveStart (sub_trans rfl hW) ?_ ?_
    · intro y6 hy6
      exact only_State_onCh (sub_trans rfl hW) hy6
    · exact hx4
  · exact only_chFault (sub_trans rfl hW) hx4

theorem only_descEnd {W : Nat} {s0 : State} (hW : Sub 0x20c10000000428000000000000000000000032100c W)  {c : Nat} {s : State} (hs : Only W s0 s) :
    Only W s0 (descEnd c s) := by
  unfold descEnd
  split
  · exact hs
  · extract_lets +onlyGivenNames -merge -useContext -underBinder x1
    have hx1 : Only W s0 (x1) := only_State_onCh (sub_trans rfl hW) hs
    try clear_value x1
    extract_lets +onlyGivenNames -merge -useContext -underBinder x2
    have hx2 : Only W s0 (x2) := only_zdStatusWrite (sub_trans rfl hW) hx1
    try clear_value x2
    extract_lets +onlyGivenNames -merge -useContext -underBinder x3
    have hx3 : Only W s0 (x3) := by
      unfold x3
      refine only_ite ?_ ?_
      · exact only_chIrq (sub_trans rfl hW) (only_State_setF (sub_trans rfl hW) hx2)
      · exact hx2
    try clear_value x3
    refine only_ite ?_ ?_
    · exact only_chDone (sub_trans rfl hW) hx3
    · extract_lets +onlyGivenNames -merge -useContext -underBinder x4
      have hx4 : Only W s0 (x4) := only_State_setB (sub_trans rfl hW) (only_State_setF (sub_trans rfl hW) hx3)
      try clear_value x4
      refine only_ite ?_ ?_
      · exact only_setChState (sub_trans rfl hW) hx4
      · exact hx4

theorem only_execDescriptorComplete {W : Nat} {s0 : State} (hW : Sub 0x20c10000000428000000000000000000000032100c W)  {c : Nat} {s : State} (hs : Only W s0 s) :
    OnlyOut W s0 (execDescriptorComplete c s) := by
  unfold execDescriptorComplete
  refine only_next ?_
  refine only_ite ?_ ?_
  · exact only_descEnd (sub_trans rfl hW) hs
  · exact hs

theorem only_respFaults {W : Nat} {s0 : State} (hW : Sub 0x204c0000000428000000000000000000000032100e W)  {c : Nat} {code : Nat} {fpc : Nat} {va : Nat} {silent : optParam Bool Bool.false} {s : State} (hs : Only W s0 s) :
    Only W s0 (respFaults c code fpc va s silent) := by
  unfold respFaults
  extract_lets +onlyGivenNames -merge -useContext -underBinder x1
  refine only_ite ?_ ?_
  · exact only_chFault (sub_trans rfl hW) hs
  · exact hs

theorem only_dmaRead {W : Nat} {s0 : State} (hW : Sub 0x224c2000000428000000000000000000000032100e W)  {c : Nat} {off : Nat} {len : Nat} {resp : BitVec 2} {d : Line} {po : BitVec 2} {s : State} (hs : Only W s0 s) :
    Only W s0 (dmaRead c off len resp d po s) := by
  unfold dmaRead
  extract_lets +onlyGivenNames -merge -useContext -underBinder x1
  have hx1 : Only W s0 (x1) := only_chCount (sub_trans rfl hW) hs
  try clear_value x1
  split
  · exact hx1
  · extract_lets +onlyGivenNames -merge -useContext -underBinder x2
    extract_lets +onlyGivenNames -merge -useContext -underBinder x3
    split
    · exact only_respFaults (sub_trans rfl hW) hx1
    · refine only_ite ?_ ?_
      · exact only_respFaults (sub_trans rfl hW) hx1
      · exact only_chPaused (sub_trans rfl hW) (only_State_onCh (sub_trans rfl hW) hx1)

theorem only_dmaDeadRead {W : Nat} {s0 : State} (hW : Sub 0x224020000000000000000000000000000000100004 W)  {c : Nat} {s : State} (hs : Only W s0 s) :
    Only W s0 (dmaDeadRead c s) := by
  unfold dmaDeadRead
  exact only_chAborted (sub_trans rfl hW) (only_chPaused (sub_trans rfl hW) (only_chCount (sub_trans rfl hW) hs))

theorem only_dmaWritten {W : Nat} {s0 : State} (hW : Sub 0x204c2000000428000000000000000000000032100e W)  {c : Nat} {fpc : Nat} {va : Nat} {resp : BitVec 2} {s : State} (hs : Only W s0 s) :
    Only W s0 (dmaWritten c fpc va resp s) := by
  unfold dmaWritten
  split
  · exact only_respFaults (sub_trans rfl hW) hs
  · exact only_fenceTry (sub_trans rfl hW) hs

theorem only_zdStatusDone {W : Nat} {s0 : State} (hW : Sub 0x204c0000000428000000000000000000000032100e W)  {c : Nat} {va : Nat} {resp : BitVec 2} {s : State} (hs : Only W s0 s) :
    Only W s0 (zdStatusDone c va resp s) := by
  unfold zdStatusDone
  split
  · exact only_respFaults (sub_trans rfl hW) hs
  · exact hs

theorem only_dmaFlushed {W : Nat} {s0 : State} (hW : Sub 0x224c2000000428000000000000000000000032100e W)  {c : Nat} {va : Nat} {resp : BitVec 2} {s : State} (hs : Only W s0 s) :
    Only W s0 (dmaFlushed c va resp s) := by
  unfold dmaFlushed
  extract_lets +onlyGivenNames -merge -useContext -underBinder x1
  have hx1 : Only W s0 (x1) := only_chCount (sub_trans rfl hW) hs
  try clear_value x1
  split
  · exact only_respFaults (sub_trans rfl hW) hx1
  · exact only_chPaused (sub_trans rfl hW) (only_fenceTry (sub_trans rfl hW) hx1)

theorem only_dmaDescRead {W : Nat} {s0 : State} (hW : Sub 0x224e2000000428000000000000000000000032100e W)  {c : Nat} {resp : BitVec 2} {d : Line} {po : BitVec 2} {s : State} (hs : Only W s0 s) :
    Only W s0 (dmaDescRead c resp d po s) := by
  unfold dmaDescRead
  extract_lets +onlyGivenNames -merge -useContext -underBinder x1
  have hx1 : Only W s0 (x1) := only_chCount (sub_trans rfl hW) hs
  try clear_value x1
  split
  · exact hx1
  · extract_lets +onlyGivenNames -merge -useContext -underBinder x2
    split
    · exact only_respFaults (sub_trans rfl hW) hx1
    · refine only_ite ?_ ?_
      · exact only_respFaults (sub_trans rfl hW) hx1
      · refine only_ite ?_ ?_
        · exact only_chPaused (sub_trans rfl hW) hx1
        · exact only_descRead (sub_trans rfl hW) hx1

theorem only_chEnter {W : Nat} {s0 : State} (hW : Sub 0x204c2000000428000000000000000000000032100e W)  {c : Nat} {s : State} (hs : Only W s0 s) :
    Only W s0 (chEnter c s) := by
  unfold chEnter
  extract_lets +onlyGivenNames -merge -useContext -underBinder x1
  extract_lets +onlyGivenNames -merge -useContext -underBinder x2
  have hx2 : Only W s0 (x2) := only_setChPc (sub_trans rfl hW) hs
  try clear_value x2
  refine only_ite ?_ ?_
  · exact only_setChState (sub_trans rfl hW) (only_State_onCh (sub_trans rfl hW) hx2)
  · exact only_State_onCh (sub_trans rfl hW) (only_chFault (sub_trans rfl hW) hx2)

theorem only_chStart {W : Nat} {s0 : State} (hW : Sub 0x214d2000000428000000000000000000000032100e W)  {c : Nat} {s : State} (hs : Only W s0 s) :
    Only W s0 (chStart c s) := by
  unfold chStart
  refine only_ite ?_ ?_
  · exact only_State_setB (sub_trans rfl hW) hs
  · refine only_ite ?_ ?_
    · exact only_State_setB (sub_trans rfl hW) hs
    · extract_lets +onlyGivenNames -merge -useContext -underBinder x1
      have hx1 : Only W s0 (x1) := only_State_setR (sub_trans rfl hW) (only_State_setR (sub_trans rfl hW) hs)
      try clear_value x1
      extract_lets +onlyGivenNames -merge -useContext -underBinder x2
      have hx2 : Only W s0 (x2) := only_State_onCh (sub_trans rfl hW) (only_State_setB (sub_trans rfl hW) hx1)
      try clear_value x2
      refine only_ite ?_ ?_
      · exact only_setChState (sub_trans rfl hW) hx2
      · exact only_chEnter (sub_trans rfl hW) (only_loopPop (sub_trans rfl hW) hx2)

theorem only_chPause {W : Nat} {s0 : State} (hW : Sub 0x24020000000000000000000000000000000100004 W)  {c : Nat} {s : State} (hs : Only W s0 s) :
    Only W s0 (chPause c s) := by
  unfold chPause
  split
  · exact only_chPaused (sub_trans rfl hW) (only_setChState (sub_trans rfl hW) hs)
  · exact only_setChState (sub_trans rfl hW) hs
  · exact hs

theorem only_chStop {W : Nat} {s0 : State} (hW : Sub 0x24020000000000000000000000000000000100004 W)  {c : Nat} {s : State} (hs : Only W s0 s) :
    Only W s0 (chStop c s) := by
  unfold chStop
  refine only_ite ?_ ?_
  · exact only_setChState (sub_trans rfl hW) hs
  · exact only_chPause (sub_trans rfl hW) hs

theorem only_chResume {W : Nat} {s0 : State} (hW : Sub 0x204c2000000428000000000000000000000032100e W)  {c : Nat} {s : State} (hs : Only W s0 s) :
    Only W s0 (chResume c s) := by
  unfold chResume
  extract_lets +onlyGivenNames -merge -useContext -underBinder x1
  have hx1 : ∀ y0, Only W s0 (y0) → Only W s0 (x1 y0) := by
    unfold x1
    intro y2 hy2
    exact only_setChState (sub_trans rfl hW) (only_State_setB (sub_trans rfl hW) hy2)
  try clear_value x1
  split
  · exact only_setChState (sub_trans rfl hW) hs
  · exact hx1 _ hs
  · extract_lets +onlyGivenNames -merge -useContext -underBinder x3
    have hx3 : Only W s0 (x3) := only_State_setF (sub_trans rfl hW) hs
    try clear_value x3
    refine only_ite ?_ ?_
    · exact only_chEnter (sub_trans rfl hW) hx3
    · exact hx1 _ hx3
  · exact hs

theorem only_chAbort {W : Nat} {s0 : State} (hW : Sub 0x204000000000000000000000000000000000101004 W)  {c : Nat} {s : State} (hs : Only W s0 s) :
    Only W s0 (chAbort c s) := by
  unfold chAbort
  refine only_ite ?_ ?_
  · exact hs
  · extract_lets +onlyGivenNames -merge -useContext -underBinder x1
    have hx1 : Only W s0 (x1) := only_chDrop (sub_trans rfl hW) hs
    try clear_value x1
    extract_lets +onlyGivenNames -merge -useContext -underBinder x2
    have hx2 : Only W s0 (x2) := only_State_onCh (sub_trans rfl hW) hx1
    try clear_value x2
    refine only_chAborted (sub_trans rfl hW) ?_
    refine only_setChState (sub_trans rfl hW) ?_
    exact only_State_setB (sub_trans rfl hW) (only_chCount (sub_trans rfl hW) hx2)

theorem only_chCmd {W : Nat} {s0 : State} (hW : Sub 0x234d2000000428000000000000000000000032100e W)  {c : Nat} {n : Nat} {s : State} (hs : Only W s0 s) :
    Only W s0 (chCmd c n s) := by
  unfold chCmd
  split
  · exact only_chStart (sub_trans rfl hW) hs
  · exact only_chPause (sub_trans rfl hW) hs
  · exact only_chResume (sub_trans rfl hW) hs
  · exact only_chAbort (sub_trans rfl hW) hs
  · exact only_chStop (sub_trans rfl hW) hs
  · exact hs

theorem only_execDmaStart {W : Nat} {s0 : State} (hW : Sub 0xe0000007234d2000000428000000000000000000000032102e W)  {c : Nat} {a : Option Access} {s : State} (hs : Only W s0 s) :
    OnlyOut W s0 (execDmaStart c a s) := by
  unfold execDmaStart
  split
  · refine only_next ?_
    refine only_guarded (sub_trans rfl hW) ?_ ?_
    · intro y1 hy1
      exact only_chCmd (sub_trans rfl hW) hy1
    · exact hs
  · split
    · exact only_next (only_chStart (sub_trans rfl hW) (only_State_take (sub_trans rfl hW) hs))
    · exact only_next hs

theorem only_execPause {W : Nat} {s0 : State} (hW : Sub 0xe0000007234d2000000428000000000000000000000032102e W)  {a : Access} {c : Nat} {s : State} (hs : Only W s0 s) :
    OnlyOut W s0 (execPause a c s) := by
  unfold execPause
  refine only_next ?_
  refine only_guarded (sub_trans rfl hW) ?_ ?_
  · intro y1 hy1
    exact only_chCmd (sub_trans rfl hW) hy1
  · exact hs

theorem only_execResume {W : Nat} {s0 : State} (hW : Sub 0xe0000007234d2000000428000000000000000000000032102e W)  {a : Access} {c : Nat} {s : State} (hs : Only W s0 s) :
    OnlyOut W s0 (execResume a c s) := by
  unfold execResume
  refine only_next ?_
  refine only_guarded (sub_trans rfl hW) ?_ ?_
  · intro y1 hy1
    exact only_chCmd (sub_trans rfl hW) hy1
  · exact hs

theorem only_execAbort {W : Nat} {s0 : State} (hW : Sub 0xe0000007234d2000000428000000000000000000000032102e W)  {a : Access} {c : Nat} {s : State} (hs : Only W s0 s) :
    OnlyOut W s0 (execAbort a c s) := by
  unfold execAbort
  refine only_next ?_
  refine only_guarded (sub_trans rfl hW) ?_ ?_
  · intro y1 hy1
    exact only_chCmd (sub_trans rfl hW) hy1
  · exact hs

theorem only_execStop {W : Nat} {s0 : State} (hW : Sub 0xe0000007234d2000000428000000000000000000000032102e W)  {a : Access} {c : Nat} {s : State} (hs : Only W s0 s) :
    OnlyOut W s0 (execStop a c s) := by
  unfold execStop
  refine only_next ?_
  refine only_guarded (sub_trans rfl hW) ?_ ?_
  · intro y1 hy1
    exact only_chCmd (sub_trans rfl hW) hy1
  · exact hs

theorem only_execProgWrite {W : Nat} {s0 : State} (hW : Sub 0xe0000007080000000000000000000000000000000000000024 W)  {a : Access} {j : Nat} {w : Nat} {v : Word} {s : State} (hs : Only W s0 s) :
    OnlyOut W s0 (execProgWrite a j w v s) := by
  unfold execProgWrite
  refine only_next ?_
  refine only_guarded (sub_trans rfl hW) ?_ ?_
  · intro y1 hy1
    exact only_State_setR (sub_trans rfl hW) hy1
  · exact hs

theorem only_chProgReg {W : Nat} {s0 : State} (hW : Sub 0x4020000000000000000000000000000000100024 W)  {c : Nat} {g : Reg} {i : Nat} {v : Word} (qg : Sub (regBit g) W) {s : State} (hs : Only W s0 s) :
    Only W s0 (chProgReg c g i v s) := by
  unfold chProgReg
  refine only_ite ?_ ?_
  · exact only_State_answerErr (sub_trans rfl hW) hs
  · extract_lets +onlyGivenNames -merge -useContext -underBinder x1
    have hx1 : Only W s0 (x1) := only_chDepthSync (sub_trans rfl hW) (only_State_wr qg hs)
    try clear_value x1
    refine only_ite ?_ ?_
    · exact only_State_onCh (sub_trans rfl hW) (only_State_setB (sub_trans rfl hW) hx1)
    · exact hx1

theorem only_chCfgWrite {W : Nat} {s0 : State} (hW : Sub 0x20000000005000000000000000000000000000000000000004 W)  {a : Access} {c : Nat} {v : Word} {s : State} (hs : Only W s0 s) :
    Only W s0 (chCfgWrite a c v s) := by
  unfold chCfgWrite
  refine only_ite ?_ ?_
  · exact only_pqErr (sub_trans rfl hW) hs
  · refine only_ite ?_ ?_
    · exact only_State_setB (sub_trans rfl hW) hs
    · extract_lets +onlyGivenNames -merge -useContext -underBinder x1
      extract_lets +onlyGivenNames -merge -useContext -underBinder x2
      refine only_ite ?_ ?_
      · exact only_State_setF (sub_trans rfl hW) hs
      · exact only_State_setF (sub_trans rfl hW) (only_State_wr (sub_trans rfl hW) hs)

theorem only_chDescWrite {W : Nat} {s0 : State} (hW : Sub 0x8000000000000000000000000000000000000004 W)  {c : Nat} {v : Word} {s : State} (hs : Only W s0 s) :
    Only W s0 (chDescWrite c v s) := by
  unfold chDescWrite
  refine only_ite ?_ ?_
  · exact only_State_wr (sub_trans rfl hW) hs
  · exact hs

end Sys2Proof.Machine
end

