-- ==== Sys2Proof/Laws/KeepBats.lean ====
section
/-! SUPPORT. What the definitions of Machine/Bats.lean leave alone: one lemma for each that answers a state. -/
namespace Sys2Proof.Machine

theorem only_setBatCnt {W : Nat} {s0 : State} (hW : Sub 0x8000000000000000000000000000040004 W)  {i : Nat} {c : Nat} {n : Nat} {s : State} (hs : Only W s0 s) :
    Only W s0 (setBatCnt i c n s) := by
  unfold setBatCnt
  extract_lets +onlyGivenNames -merge -useContext -underBinder x1
  refine only_ite ?_ ?_
  · refine only_batLive (sub_trans rfl hW) ?_ _
    exact hs
  · exact only_State_setF (sub_trans rfl hW) hs

theorem only_batStart {W : Nat} {s0 : State} (hW : Sub 0x4000000000000000000000000000000004 W)  {i : Nat} {s : State} (hs : Only W s0 s) :
    Only W s0 (batStart i s) := by
  unfold batStart
  exact only_State_setB (sub_trans rfl hW) (only_State_setB (sub_trans rfl hW) hs)

theorem only_batHalt {W : Nat} {s0 : State} (hW : Sub 0x4080000000000000000000000000040004 W)  {i : Nat} {s : State} (hs : Only W s0 s) :
    Only W s0 (batHalt i s) := by
  unfold batHalt
  extract_lets +onlyGivenNames -merge -useContext -underBinder x1
  have hx1 : Only W s0 (x1) := only_State_setB (sub_trans rfl hW) (only_State_setB (sub_trans rfl hW) hs)
  try clear_value x1
  refine only_batPost (sub_trans rfl hW) ?_ _
  exact hx1

theorem only_batStopTrig {W : Nat} {s0 : State} (hW : Sub 0x4080000000000000000000000000040004 W)  {i : Nat} {s : State} (hs : Only W s0 s) :
    Only W s0 (batStopTrig i s) := by
  unfold batStopTrig
  refine only_ite ?_ ?_
  · exact hs
  · refine only_ite ?_ ?_
    · exact only_batHalt (sub_trans rfl hW) hs
    · refine only_batPost (sub_trans rfl hW) ?_ _
      exact hs

theorem only_batTrig {W : Nat} {s0 : State} (hW : Sub 0x4080000000000000000000000000040004 W)  {i : Nat} {src : Nat} {startOk : Bool} {stopOk : Bool} {s : State} (hs : Only W s0 s) :
    Only W s0 (batTrig i src startOk stopOk s) := by
  unfold batTrig
  extract_lets +onlyGivenNames -merge -useContext -underBinder x1
  have hx1 : Only W s0 (x1) := by
    unfold x1
    refine only_ite ?_ ?_
    · exact only_batStart (sub_trans rfl hW) hs
    · exact hs
  try clear_value x1
  refine only_ite ?_ ?_
  · exact only_batStopTrig (sub_trans rfl hW) hx1
  · exact hx1

theorem only_batArms {W : Nat} {s0 : State} (hW : Sub 0x4080000000000000000000000000040004 W)  {i : Nat} {s : State} (hs : Only W s0 s) :
    Only W s0 (batArms i s) := by
  unfold batArms
  refine only_ite ?_ ?_
  · exact only_batTrig (sub_trans rfl hW) hs
  · exact hs

theorem only_batPointCheck {W : Nat} {s0 : State} (hW : Sub 0x4000000000000000000000000000000004 W)  {i : Nat} {s : State} (hs : Only W s0 s) :
    Only W s0 (batPointCheck i s) := by
  unfold batPointCheck
  refine only_ite ?_ ?_
  · exact hs
  · exact only_State_setB (sub_trans rfl hW) hs

theorem only_batCtrlWrite {W : Nat} {s0 : State} (hW : Sub 0x4080000000000000000000000000040004 W)  {i : Nat} {v : Word} {s : State} (hs : Only W s0 s) :
    Only W s0 (batCtrlWrite i v s) := by
  unfold batCtrlWrite
  extract_lets +onlyGivenNames -merge -useContext -underBinder x1
  have hx1 : Only W s0 (x1) := only_batPointCheck (sub_trans rfl hW) (only_State_wr (sub_trans rfl hW) hs)
  try clear_value x1
  refine only_ite ?_ ?_
  · exact only_batArms (sub_trans rfl hW) hx1
  · exact only_batHalt (sub_trans rfl hW) hx1

theorem only_execBatArm {W : Nat} {s0 : State} (hW : Sub 0xe0000007000000004080000000000000000000000000040024 W)  {a : Access} {i : Nat} {v : Word} {s : State} (hs : Only W s0 s) :
    OnlyOut W s0 (execBatArm a i v s) := by
  unfold execBatArm
  refine only_next ?_
  refine only_guarded (sub_trans rfl hW) ?_ ?_
  · intro y1 hy1
    exact only_batCtrlWrite (sub_trans rfl hW) hy1
  · exact hs

theorem only_execBatStop {W : Nat} {s0 : State} (hW : Sub 0xe0000007000000004080000000000000000000000000040024 W)  {a : Access} {i : Nat} {v : Word} {s : State} (hs : Only W s0 s) :
    OnlyOut W s0 (execBatStop a i v s) := by
  unfold execBatStop
  refine only_next ?_
  refine only_guarded (sub_trans rfl hW) ?_ ?_
  · intro y1 hy1
    exact only_batCtrlWrite (sub_trans rfl hW) hy1
  · exact hs

theorem only_batCount {W : Nat} {s0 : State} (hW : Sub 0xc080000000000000000000000000040004 W)  {i : Nat} {c : Nat} {n : Nat} {s : State} (hs : Only W s0 s) :
    Only W s0 (batCount i c n s) := by
  unfold batCount
  extract_lets +onlyGivenNames -merge -useContext -underBinder x1
  extract_lets +onlyGivenNames -merge -useContext -underBinder x2
  have hx2 : Only W s0 (x2) := only_setBatCnt (sub_trans rfl hW) hs
  try clear_value x2
  extract_lets +onlyGivenNames -merge -useContext -underBinder x3
  refine only_ite ?_ ?_
  · exact only_batTrig (sub_trans rfl hW) hx2
  · exact hx2

theorem only_batCntWrite {W : Nat} {s0 : State} (hW : Sub 0x8000000000000000000000000000040004 W)  {ix : Nat} {v : Word} {s : State} (hs : Only W s0 s) :
    Only W s0 (batCntWrite ix v s) := by
  unfold batCntWrite
  extract_lets +onlyGivenNames -merge -useContext -underBinder x1
  have hx1 : Only W s0 (x1) := only_State_wr (sub_trans rfl hW) hs
  try clear_value x1
  refine only_ite ?_ ?_
  · refine only_batLive (sub_trans rfl hW) ?_ _
    exact hx1
  · exact hx1

theorem only_execBatTrigger {W : Nat} {s0 : State} (hW : Sub 0x408008000000000000000000000004000c W)  {i : Nat} {entry : Nat} {s : State} (hs : Only W s0 s) :
    OnlyOut W s0 (execBatTrigger i entry s) := by
  unfold execBatTrigger
  refine onlyOut_ite ?_ ?_
  · extract_lets +onlyGivenNames -merge -useContext -underBinder x1
    have hx1 : Only W s0 (x1) := only_State_take (sub_trans rfl hW) hs
    try clear_value x1
    refine onlyOut_ite ?_ ?_
    · exact only_next hx1
    · exact only_next (only_batTrig (sub_trans rfl hW) hx1)
  · exact only_next hs

theorem only_batStageIt {W : Nat} {s0 : State} (hW : Sub 0x4080000000000000000000000000040004 W)  {i : Nat} {p : Packet} {enters : Bool} {s : State} (hs : Only W s0 s) :
    Only W s0 (batStageIt i p enters s) := by
  unfold batStageIt
  extract_lets +onlyGivenNames -merge -useContext -underBinder x1
  extract_lets +onlyGivenNames -merge -useContext -underBinder x2
  refine only_ite ?_ ?_
  · extract_lets +onlyGivenNames -merge -useContext -underBinder x3
    have hx3 : Only W s0 (x3) := only_State_satInc (sub_trans rfl hW) hs
    try clear_value x3
    refine only_batGap (sub_trans rfl hW) ?_ _
    exact hx3
  · extract_lets +onlyGivenNames -merge -useContext -underBinder x4
    have hx4 : Only W s0 (x4) := by
      unfold x4
      refine only_batGap_batStage (sub_trans rfl hW) ?_ _ _
      exact hs
    try clear_value x4
    split
    · exact hx4
    · exact only_batHalt (sub_trans rfl hW) hx4
    · refine only_batPost (sub_trans rfl hW) ?_ _
      exact hx4

theorem only_execBatMatch {W : Nat} {s0 : State} (hW : Sub 0xc080000000000000000000000000040006 W)  {i : Nat} {p : Packet} {enters : Bool} {waited : Nat} {xfers : Nat} {s : State} (hs : Only W s0 s) :
    OnlyOut W s0 (execBatMatch i p enters waited xfers s) := by
  unfold execBatMatch
  extract_lets +onlyGivenNames -merge -useContext -underBinder x1
  extract_lets +onlyGivenNames -merge -useContext -underBinder x2
  extract_lets +onlyGivenNames -merge -useContext -underBinder x3
  have hx3 : Only W s0 (x3) := by
    unfold x3
    refine only_ite ?_ ?_
    · exact only_batTrig (sub_trans rfl hW) hs
    · exact hs
  try clear_value x3
  split
  · rename_i e4
    replace e4 := congrArg Prod.snd e4
    dsimp only at e4
    refine only_of_eq (W := W) (s0 := s0) e4 ?_ (fun k5 => ?_)
    · refine only_ite_snd ?_ ?_
      · exact only_snd_mk hx3
      · refine only_ite_snd ?_ ?_
        · exact only_snd_mk (only_State_bump (sub_trans rfl hW) hx3)
        · exact only_snd_mk hx3
    refine onlyOut_ite ?_ ?_
    · refine only_next ?_
      assumption
    · extract_lets +onlyGivenNames -merge -useContext -underBinder x6
      extract_lets +onlyGivenNames -merge -useContext -underBinder x7
      have hx7 : Only W s0 (x7) := by
        unfold x7
        refine only_iter (fun x t ht => ?_) ?_
        · refine only_batCount (sub_trans rfl hW) ?_
          assumption
        · assumption
      try clear_value x7
      refine onlyOut_ite ?_ ?_
      · exact only_next hx7
      · exact only_next (only_batTrig (sub_trans rfl hW) (only_batStageIt (sub_trans rfl hW) hx7))

theorem only_batTake {W : Nat} {s0 : State} (hW : Sub 0x290000000000000000000000000000040004 W)  {d : Nat} {r : BatRec} {s : State} (hs : Only W s0 s) :
    Only W s0 (batTake d r s) := by
  unfold batTake
  refine only_ite ?_ ?_
  · refine only_ite ?_ ?_
    · exact only_State_satInc (sub_trans rfl hW) hs
    · refine only_batFifo (sub_trans rfl hW) ?_ _
      exact hs
  · extract_lets +onlyGivenNames -merge -useContext -underBinder x1
    extract_lets +onlyGivenNames -merge -useContext -underBinder x2
    have hx2 : Only W s0 (x2) := by
      unfold x2
      refine only_batBuf (sub_trans rfl hW) ?_ _
      exact hs
    try clear_value x2
    refine only_ite ?_ ?_
    · exact only_State_setF (sub_trans rfl hW) hx2
    · extract_lets +onlyGivenNames -merge -useContext -underBinder x3
      have hx3 : Only W s0 (x3) := only_State_setF (sub_trans rfl hW) hx2
      try clear_value x3
      refine only_ite ?_ ?_
      · exact hx3
      · exact only_State_setB (sub_trans rfl hW) hx3

theorem only_batDrain {W : Nat} {s0 : State} (hW : Sub 0x290000000000000000000000000000040004 W)  {d : Nat} {s : State} (hs : Only W s0 s) :
    Only W s0 (batDrain d s) := by
  unfold batDrain
  refine only_ite ?_ ?_
  · exact hs
  · split
    · refine only_batTake (sub_trans rfl hW) ?_
      refine only_batStage (sub_trans rfl hW) ?_ _
      exact hs
    · exact hs

theorem only_batCycle {W : Nat} {s0 : State} (hW : Sub 0x290000000000000000000000000000040004 W)   {s : State} (hs : Only W s0 s) :
    Only W s0 (batCycle s) := by
  unfold batCycle
  refine only_iter (fun x t ht => ?_) ?_
  · refine only_batDrain (sub_trans rfl hW) ?_
    assumption
  · exact hs

theorem only_execBatTraceWrite {W : Nat} {s0 : State} (hW : Sub 0x29000428000000000000000000000006100c W)  {d : Nat} {s : State} (hs : Only W s0 s) :
    OnlyOut W s0 (execBatTraceWrite d s) := by
  unfold execBatTraceWrite
  extract_lets +onlyGivenNames -merge -useContext -underBinder x1
  have hx1 : Only W s0 (x1) := only_batDrain (sub_trans rfl hW) hs
  try clear_value x1
  split
  · refine onlyOut_ite ?_ ?_
    · exact only_next hx1
    · extract_lets +onlyGivenNames -merge -useContext -underBinder x2
      extract_lets +onlyGivenNames -merge -useContext -underBinder x3
      extract_lets +onlyGivenNames -merge -useContext -underBinder x4
      extract_lets +onlyGivenNames -merge -useContext -underBinder x5
      have hx5 : Only W s0 (x5) := by
        unfold x5
        refine only_batFifo (sub_trans rfl hW) ?_ _
        exact hx1
      try clear_value x5
      extract_lets +onlyGivenNames -merge -useContext -underBinder x6
      have hx6 : Only W s0 (x6) := only_openTx (sub_trans rfl hW) hx5
      try clear_value x6
      refine onlyOut_ite ?_ ?_
      · exact only_next (only_State_setF (sub_trans rfl hW) hx6)
      · extract_lets +onlyGivenNames -merge -useContext -underBinder x7
        have hx7 : Only W s0 (x7) := only_State_setF (sub_trans rfl hW) hx6
        try clear_value x7
        refine only_next ?_
        refine only_ite ?_ ?_
        · exact hx7
        · exact only_State_setB (sub_trans rfl hW) hx7
  · exact only_next hx1

theorem only_batWritten {W : Nat} {s0 : State} (hW : Sub 0x10000000000000000000000000000000004 W)  {d : Nat} {err : Bool} {s : State} (hs : Only W s0 s) :
    Only W s0 (batWritten d err s) := by
  unfold batWritten
  refine only_ite ?_ ?_
  · exact only_State_setB (sub_trans rfl hW) hs
  · exact hs

theorem only_batBufPop {W : Nat} {s0 : State} (hW : Sub 0x80000000000000000000000000000000024 W)  {a : Access} {d : Nat} {s : State} (hs : Only W s0 s) :
    Only W s0 (batBufPop a d s) := by
  unfold batBufPop
  extract_lets +onlyGivenNames -merge -useContext -underBinder x1
  extract_lets +onlyGivenNames -merge -useContext -underBinder x2
  extract_lets +onlyGivenNames -merge -useContext -underBinder x3
  extract_lets +onlyGivenNames -merge -useContext -underBinder x4
  exact only_State_answer (sub_trans rfl hW) (only_State_setF (sub_trans rfl hW) hs)

theorem only_execBatBufRead {W : Nat} {s0 : State} (hW : Sub 0xe0000007000000080000000000000000000000000000000024 W)  {a : Access} {d : Nat} {s : State} (hs : Only W s0 s) :
    OnlyOut W s0 (execBatBufRead a d s) := by
  unfold execBatBufRead
  refine only_next ?_
  refine only_guarded (sub_trans rfl hW) ?_ ?_
  · intro y1 hy1
    exact only_batBufPop (sub_trans rfl hW) hy1
  · exact hs

theorem only_execBatCounterCopy {W : Nat} {s0 : State} (hW : Sub 0x8000000000000000000000000000000004 W)   {s : State} (hs : Only W s0 s) :
    OnlyOut W s0 (execBatCounterCopy s) := by
  unfold execBatCounterCopy
  refine only_next ?_
  refine only_iter (fun x t ht => ?_) ?_
  · refine only_ite ?_ ?_
    · refine only_State_setR (sub_trans rfl hW) ?_
      assumption
    · assumption
  · exact hs

theorem only_batDieReset {W : Nat} {s0 : State} (hW : Sub 0x84000000000000000000000000000040004 W)  {n : Nat} {s : State} (hs : Only W s0 s) :
    Only W s0 (batDieReset n s) := by
  unfold batDieReset
  extract_lets +onlyGivenNames -merge -useContext -underBinder x1
  have hx1 : Only W s0 (x1) := by
    unfold x1
    refine only_iter (fun x t ht => ?_) ?_
    · refine only_State_setB (sub_trans rfl hW) ?_
      refine only_State_setB (sub_trans rfl hW) ?_
      assumption
    · exact hs
  try clear_value x1
  extract_lets +onlyGivenNames -merge -useContext -underBinder x2
  have hx2 : Only W s0 (x2) := only_State_setF (sub_trans rfl hW) hx1
  try clear_value x2
  refine only_batLive_batPost_batGap_batStage_batBuf_batFifo (sub_trans rfl hW) ?_ _ _ _ _ _ _
  exact hx2

theorem only_batDieUp {W : Nat} {s0 : State} (hW : Sub 0x4080000000000000000000000000040004 W)  {n : Nat} {s : State} (hs : Only W s0 s) :
    Only W s0 (batDieUp n s) := by
  unfold batDieUp
  refine only_iter (fun x t ht => ?_) ?_
  · extract_lets +onlyGivenNames -merge -useContext -underBinder x1
    have hx1 : Only W s0 (x1) := by
      unfold x1
      refine only_batPointCheck (sub_trans rfl hW) ?_
      assumption
    try clear_value x1
    refine only_ite ?_ ?_
    · exact only_batArms (sub_trans rfl hW) hx1
    · exact hx1
  · exact hs

end Sys2Proof.Machine
end

