-- ==== Sys2Proof/Laws/KeepSlice.lean ====
section
/-! SUPPORT. What the definitions of Machine/Slice.lean leave alone: one lemma for each that answers a state. -/
namespace Sys2Proof.Machine

theorem only_l3Ways {W : Nat} {s0 : State} (hW : Sub 0x20000000000000000000000000000200000000000000000004 W)  {n : Nat} {line : Nat} {q : Nat} {s : State} (hs : Only W s0 s) :
    Only W s0 (l3Ways n line q s).2 := by
  unfold l3Ways
  extract_lets +onlyGivenNames -merge -useContext -underBinder x1
  extract_lets +onlyGivenNames -merge -useContext -underBinder x2
  extract_lets +onlyGivenNames -merge -useContext -underBinder x3
  split
  · exact only_snd_mk hs
  · extract_lets +onlyGivenNames -merge -useContext -underBinder x4
    extract_lets +onlyGivenNames -merge -useContext -underBinder x5
    extract_lets +onlyGivenNames -merge -useContext -underBinder x6
    refine only_ite_snd ?_ ?_
    · exact only_snd_mk hs
    · extract_lets +onlyGivenNames -merge -useContext -underBinder x7
      have hx7 : Only W s0 (x7) := only_State_satInc (sub_trans rfl hW) hs
      try clear_value x7
      refine only_ite_snd ?_ ?_
      · exact only_snd_mk hx7
      · refine only_ite_snd ?_ ?_
        · exact only_snd_mk hx7
        · exact only_snd_mk (only_State_setB (sub_trans rfl hW) hx7)

theorem only_vbPut {W : Nat} {s0 : State} (hW : Sub 0x2000000000000000008004 W)  {v : VbEntry} {s : State} (hs : Only W s0 s) :
    Only W s0 (vbPut v s) := by
  unfold vbPut
  extract_lets +onlyGivenNames -merge -useContext -underBinder x1
  have hx1 : Only W s0 (x1) := by
    unfold x1
    refine only_vb (sub_trans rfl hW) ?_ _
    exact hs
  try clear_value x1
  extract_lets +onlyGivenNames -merge -useContext -underBinder x2
  refine only_ite ?_ ?_
  · exact only_State_setF (sub_trans rfl hW) hx1
  · exact hx1

theorem only_toHome {W : Nat} {s0 : State} (hW : Sub 0x428000000000000000000000002000c W)  {n : Nat} {line : Nat} {isReq : Bool} {p : Packet} {s : State} (hs : Only W s0 s) :
    Only W s0 (toHome n line isReq p s) := by
  unfold toHome
  exact only_sendUp (sub_trans rfl hW) hs

theorem only_l3RemoveCores {W : Nat} {s0 : State} (hW : Sub 0x8000000000000000000000001840c W)  {k : Nat} {s : State} (hs : Only W s0 s) :
    Only W s0 (l3RemoveCores k s) := by
  unfold l3RemoveCores
  extract_lets +onlyGivenNames -merge -useContext -underBinder x1
  refine only_foldl (fun t x ht => ?_) ?_
  · extract_lets +onlyGivenNames -merge -useContext -underBinder x2
    refine only_ite ?_ ?_
    · assumption
    · extract_lets +onlyGivenNames -merge -useContext -underBinder x3
      extract_lets +onlyGivenNames -merge -useContext -underBinder x4
      try clear_value x4
      extract_lets +onlyGivenNames -merge -useContext -underBinder x5
      have hx5 : Only W s0 (x5) := by
        unfold x5
        refine only_coreStrip (sub_trans rfl hW) ?_
        assumption
      try clear_value x5
      extract_lets +onlyGivenNames -merge -useContext -underBinder x6
      exact only_State_setL3 (sub_trans rfl hW) hx5
  · exact hs

theorem only_l3Evict {W : Nat} {s0 : State} (hW : Sub 0x428000000200000000000000003840c W)  {k : Nat} {s : State} (hs : Only W s0 s) :
    Only W s0 (l3Evict k s) := by
  unfold l3Evict
  extract_lets +onlyGivenNames -merge -useContext -underBinder x1
  extract_lets +onlyGivenNames -merge -useContext -underBinder x2
  have hx2 : Only W s0 (x2) := only_l3RemoveCores (sub_trans rfl hW) hs
  try clear_value x2
  extract_lets +onlyGivenNames -merge -useContext -underBinder x3
  refine only_ite ?_ ?_
  · exact hx2
  · extract_lets +onlyGivenNames -merge -useContext -underBinder x4
    extract_lets +onlyGivenNames -merge -useContext -underBinder x5
    have hx5 : Only W s0 (x5) := only_vbPut (sub_trans rfl hW) (only_State_setL3 (sub_trans rfl hW) hx2)
    try clear_value x5
    refine only_ite ?_ ?_
    · exact only_toHome (sub_trans rfl hW) hx5
    · exact only_toHome (sub_trans rfl hW) hx5

theorem only_l3Install {W : Nat} {s0 : State} (hW : Sub 0x2000000000000000000428000000220000000000000003840c W)  {n : Nat} {line : Nat} {st : Nat} {w : Bool} {d : Line} {po : BitVec 2} {q : Nat} {stream : Bool} {s : State} (hs : Only W s0 s) :
    OnlyInst W s0 (l3Install n line st w d po q stream s) := by
  unfold l3Install
  extract_lets +onlyGivenNames -merge -useContext -underBinder x1
  split
  · refine inst_done ?_
    exact only_State_setL3 (sub_trans rfl hW) hs
  · split
    · rename_i e2
      replace e2 := congrArg Prod.snd e2
      dsimp only at e2
      refine only_of_eq (W := W) (s0 := s0) e2 ?_ (fun k3 => ?_)
      · exact only_l3Ways (sub_trans rfl hW) hs
      extract_lets +onlyGivenNames -merge -useContext -underBinder x4
      split
      · refine inst_noWay ?_
        assumption
      · split
        · refine inst_done ?_
          refine only_State_setL3 (sub_trans rfl hW) ?_
          assumption
        · split
          · exact trivial
          · split
            · exact trivial
            · extract_lets +onlyGivenNames -merge -useContext -underBinder x5
              have hx5 : Only W s0 (x5) := by
                unfold x5
                refine only_foldl (fun t x ht => ?_) ?_
                · extract_lets +onlyGivenNames -merge -useContext -underBinder x6
                  refine only_ite ?_ ?_
                  · assumption
                  · refine only_State_setL3 (sub_trans rfl hW) ?_
                    assumption
                · assumption
              try clear_value x5
              refine inst_done ?_
              exact only_State_setL3 (sub_trans rfl hW) (only_l3Evict (sub_trans rfl hW) hx5)

theorem only_l2PendDone {W : Nat} {s0 : State} (hW : Sub 0x10000 W)  {np : Nat} {line : Nat} {s : State} (hs : Only W s0 s) :
    Only W s0 (l2PendDone np line s) := by
  unfold l2PendDone
  refine only_l2Pend (sub_trans rfl hW) ?_ _
  exact hs

theorem only_lateAnswer {W : Nat} {s0 : State} (hW : Sub 0x200000000000000000000000010004 W)  {np : Nat} {p : Packet} {s : State} (hs : Only W s0 s) :
    OnlyOpt W s0 (lateAnswer np p s) := by
  unfold lateAnswer
  split
  · refine only_ite_optSt ?_ ?_
    · exact optSt_none
    · refine optSt_some ?_
      refine only_State_satInc (sub_trans rfl hW) ?_
      refine only_ite ?_ ?_
      · refine only_l2Pend (sub_trans rfl hW) ?_ _
        exact hs
      · exact hs
  · exact optSt_none

theorem only_grantCore {W : Nat} {s0 : State} (hW : Sub 0xe000000700000000000428000000000c000000000040039c0c W)  {np : Nat} {line : Nat} {st : Nat} {w : Bool} {d : Line} {po : BitVec 2} {p : Packet} {s : State} (hs : Only W s0 s) :
    Only W s0 (grantCore np line st w d po p s) := by
  unfold grantCore
  split
  · rename_i e1
    have k2 := only_lateAnswer (sub_trans rfl hW) (by assumption) _ e1
    refine only_toSlice (sub_trans rfl hW) ?_
    assumption
  · extract_lets +onlyGivenNames -merge -useContext -underBinder x3
    extract_lets +onlyGivenNames -merge -useContext -underBinder x4
    extract_lets +onlyGivenNames -merge -useContext -underBinder x5
    extract_lets +onlyGivenNames -merge -useContext -underBinder x6
    have hx6 : Only W s0 (x6) := only_l2PendDone (sub_trans rfl hW) hs
    try clear_value x6
    refine only_ite ?_ ?_
    · exact only_toSlice (sub_trans rfl hW) hx6
    · extract_lets +onlyGivenNames -merge -useContext -underBinder x7
      try clear_value x7
      extract_lets +onlyGivenNames -merge -useContext -underBinder x8
      extract_lets +onlyGivenNames -merge -useContext -underBinder x9
      have hx9 : Only W s0 (x9) := only_l2Fill (sub_trans rfl hW) hx6
      try clear_value x9
      extract_lets +onlyGivenNames -merge -useContext -underBinder x10
      have hx10 : Only W s0 (x10) := by
        unfold x10
        refine only_ite ?_ ?_
        · refine only_ite ?_ ?_
          · exact only_l1iFill (sub_trans rfl hW) hx9
          · exact only_l1dFill (sub_trans rfl hW) hx9
        · exact hx9
      try clear_value x10
      split
      · exact hx10
      · extract_lets +onlyGivenNames -merge -useContext -underBinder x11
        refine only_loadsPump (sub_trans rfl hW) ?_
        refine only_ite ?_ ?_
        · exact only_sbLeave (sub_trans rfl hW) hx10
        · exact hx10

theorem only_coreError {W : Nat} {s0 : State} (hW : Sub 0xe000000700000000000428000000000c000000000040039c0c W)  {np : Nat} {line : Nat} {op : Op} {s : State} (hs : Only W s0 s) :
    Only W s0 (coreError np line op s) := by
  unfold coreError
  split
  · exact hs
  · extract_lets +onlyGivenNames -merge -useContext -underBinder x1
    extract_lets +onlyGivenNames -merge -useContext -underBinder x2
    refine only_ite ?_ ?_
    · exact only_failLine (sub_trans rfl hW) hs
    · split
      · exact only_sbError (sub_trans rfl hW) hs
      · exact hs

theorem only_failCore {W : Nat} {s0 : State} (hW : Sub 0xe000000700000000000428000000000c000000000040039c0c W)  {np : Nat} {line : Nat} {p : Packet} {s : State} (hs : Only W s0 s) :
    Only W s0 (failCore np line p s) := by
  unfold failCore
  split
  · rename_i e1
    have k2 := only_lateAnswer (sub_trans rfl hW) (by assumption) _ e1
    assumption
  · exact only_coreError (sub_trans rfl hW) (only_l2PendDone (sub_trans rfl hW) hs)

theorem only_serveCore {W : Nat} {s0 : State} (hW : Sub 0xe0000007000000000004280000000000000000000040039c0c W)  {np : Nat} {line : Nat} {d : Line} {po : BitVec 2} {p : Packet} {s : State} (hs : Only W s0 s) :
    Only W s0 (serveCore np line d po p s) := by
  unfold serveCore
  split
  · rename_i e1
    have k2 := only_lateAnswer (sub_trans rfl hW) (by assumption) _ e1
    assumption
  · exact only_deliverLine (sub_trans rfl hW) (only_l2PendDone (sub_trans rfl hW) hs)

theorem only_snoopCores {W : Nat} {s0 : State} (hW : Sub 0x8000000000000000000000000000c W)  {op : Op} {n : Nat} {line : Nat} {cores : List Nat} {r : SliceReq} {s : State} (hs : Only W s0 s) :
    Only W s0 (snoopCores op n line cores r s).2 := by
  unfold snoopCores
  refine only_foldl_snd (fun t x ht => ?_) ?_
  · split
    · refine only_ite_snd ?_ ?_
      · refine only_snd_mk ?_
        assumption
      · refine only_snd_mk ?_
        refine only_State_sendP (sub_trans rfl hW) ?_
        assumption
  · exact only_snd_mk hs

theorem only_removeSnoops {W : Nat} {s0 : State} (hW : Sub 0x8000000000000000000000000000c W)  {n : Nat} {line : Nat} {own : Nat} {cores : List Nat} {r : SliceReq} {s : State} (hs : Only W s0 s) :
    Only W s0 (removeSnoops n line own cores r s).2 := by
  unfold removeSnoops
  split
  · rename_i e1
    replace e1 := congrArg Prod.snd e1
    dsimp only at e1
    refine only_of_eq (W := W) (s0 := s0) e1 ?_ (fun k2 => ?_)
    · exact only_snoopCores (sub_trans rfl hW) hs
    refine only_snoopCores (sub_trans rfl hW) ?_
    assumption

theorem only_setSliceReq {W : Nat} {s0 : State} (hW : Sub 0x8000 W)  {r : SliceReq} {r' : SliceReq} {s : State} (hs : Only W s0 s) :
    Only W s0 (setSliceReq r r' s) := by
  unfold setSliceReq
  refine only_sliceQ (sub_trans rfl hW) ?_ _
  exact hs

theorem only_askHome {W : Nat} {s0 : State} (hW : Sub 0x428000000000000000000000002800c W)  {n : Nat} {line : Nat} {op : Op} {p : Packet} {s : State} (hs : Only W s0 s) :
    Only W s0 (askHome n line op p s) := by
  unfold askHome
  extract_lets +onlyGivenNames -merge -useContext -underBinder x1
  extract_lets +onlyGivenNames -merge -useContext -underBinder x2
  extract_lets +onlyGivenNames -merge -useContext -underBinder x3
  have hx3 : Only W s0 (x3) := by
    unfold x3
    refine only_l3Pend (sub_trans rfl hW) ?_ _
    exact hs
  try clear_value x3
  exact only_toHome (sub_trans rfl hW) hx3

theorem only_sliceRefuse {W : Nat} {s0 : State} (hW : Sub 0xe000000700000000000428000000000c000000000040039c0c W)  {world : Bool} {p : Packet} {line : Nat} {s : State} (hs : Only W s0 s) :
    Only W s0 (sliceRefuse world p line s) := by
  unfold sliceRefuse
  extract_lets +onlyGivenNames -merge -useContext -underBinder x1
  have hx1 : Only W s0 (x1) := by
    unfold x1
    refine only_ite ?_ ?_
    · exact only_denyWorld (sub_trans rfl hW) hs
    · exact only_denyPart (sub_trans rfl hW) hs
  try clear_value x1
  exact only_failCore (sub_trans rfl hW) hx1

theorem only_coreReqTry {W : Nat} {s0 : State} (hW : Sub 0xe000000700000000000428000000200c000000000040039c0c W)  {r : SliceReq} {s : State} (hs : Only W s0 s) :
    Only W s0 (coreReqTry r s).1 := by
  unfold coreReqTry
  extract_lets +onlyGivenNames -merge -useContext -underBinder x1
  extract_lets +onlyGivenNames -merge -useContext -underBinder x2
  extract_lets +onlyGivenNames -merge -useContext -underBinder x3
  extract_lets +onlyGivenNames -merge -useContext -underBinder x4
  extract_lets +onlyGivenNames -merge -useContext -underBinder x5
  split
  · refine only_ite_fst ?_ ?_
    · split
      · exact only_fst_mk (only_sliceRefuse (sub_trans rfl hW) hs)
      · extract_lets +onlyGivenNames -merge -useContext -underBinder x6
        have hx6 : Only W s0 (x6) := only_State_satInc (sub_trans rfl hW) hs
        try clear_value x6
        exact only_fst_mk (only_serveCore (sub_trans rfl hW) hx6)
    · exact only_fst_mk hs
  · refine only_ite_fst ?_ ?_
    · exact only_fst_mk hs
    · split
      · extract_lets +onlyGivenNames -merge -useContext -underBinder x7
        exact only_fst_mk (only_askHome (sub_trans rfl hW) (only_coreEvent (sub_trans rfl hW) hs))
      · extract_lets +onlyGivenNames -merge -useContext -underBinder x8
        split
        · exact only_fst_mk (only_sliceRefuse (sub_trans rfl hW) hs)
        · extract_lets +onlyGivenNames -merge -useContext -underBinder x9
          refine only_ite_fst ?_ ?_
          · refine only_ite_fst ?_ ?_
            · exact only_fst_mk hs
            · refine only_ite_fst ?_ ?_
              · split
                · rename_i e10
                  replace e10 := congrArg Prod.snd e10
                  dsimp only at e10
                  refine only_of_eq (W := W) (s0 := s0) e10 ?_ (fun k11 => ?_)
                  · exact only_snoopCores (sub_trans rfl hW) hs
                  refine only_fst_mk ?_
                  refine only_setSliceReq (sub_trans rfl hW) ?_
                  assumption
              · extract_lets +onlyGivenNames -merge -useContext -underBinder x12
                have hx12 : Only W s0 (x12) := only_State_setL3 (sub_trans rfl hW) hs
                try clear_value x12
                refine only_ite_fst ?_ ?_
                · exact only_fst_mk (only_serveCore (sub_trans rfl hW) hx12)
                · extract_lets +onlyGivenNames -merge -useContext -underBinder x13
                  extract_lets +onlyGivenNames -merge -useContext -underBinder x14
                  have hx14 : Only W s0 (x14) := only_State_setL3 (sub_trans rfl hW) hx12
                  try clear_value x14
                  exact only_fst_mk (only_grantCore (sub_trans rfl hW) hx14)
          · refine only_ite_fst ?_ ?_
            · exact only_fst_mk hs
            · refine only_ite_fst ?_ ?_
              · exact only_fst_mk (only_askHome (sub_trans rfl hW) hs)
              · refine only_ite_fst ?_ ?_
                · split
                  · rename_i e15
                    replace e15 := congrArg Prod.snd e15
                    dsimp only at e15
                    refine only_of_eq (W := W) (s0 := s0) e15 ?_ (fun k16 => ?_)
                    · exact only_removeSnoops (sub_trans rfl hW) hs
                    refine only_fst_mk ?_
                    refine only_setSliceReq (sub_trans rfl hW) ?_
                    assumption
                · refine only_ite_fst ?_ ?_
                  · extract_lets +onlyGivenNames -merge -useContext -underBinder x17
                    extract_lets +onlyGivenNames -merge -useContext -underBinder x18
                    have hx18 : Only W s0 (x18) := only_State_setL3 (sub_trans rfl hW) hs
                    try clear_value x18
                    refine only_fst_mk ?_
                    split
                    · rename_i e19
                      have k20 := only_lateAnswer (sub_trans rfl hW) (by assumption) _ e19
                      assumption
                    · exact only_sbPop (sub_trans rfl hW) (only_l2PendDone (sub_trans rfl hW) hx18)
                    · exact only_l2PendDone (sub_trans rfl hW) hx18
                  · extract_lets +onlyGivenNames -merge -useContext -underBinder x21
                    have hx21 : Only W s0 (x21) := only_State_setL3 (sub_trans rfl hW) hs
                    try clear_value x21
                    exact only_fst_mk (only_grantCore (sub_trans rfl hW) hx21)

theorem only_snoopRsp {W : Nat} {s0 : State} (hW : Sub 0x428000000000000000000000002000c W)  {n : Nat} {line : Nat} {p : Packet} {op : Op} {d : Option (Line × BitVec 2)} {w : Bool} {s : State} (hs : Only W s0 s) :
    Only W s0 (snoopRsp n line p op d w s) := by
  unfold snoopRsp
  exact only_toHome (sub_trans rfl hW) hs

theorem only_forward {W : Nat} {s0 : State} (hW : Sub 0x428000000000000000000000002000c W)  {n : Nat} {line : Nat} {p : Packet} {g : Grant} {l : L3Line} {s : State} (hs : Only W s0 s) :
    Only W s0 (forward n line p g l s) := by
  unfold forward
  split
  · exact hs
  · exact only_sendUp (sub_trans rfl hW) hs

theorem only_snoopTry {W : Nat} {s0 : State} (hW : Sub 0x428000000000000000000000003800c W)  {r : SliceReq} {s : State} (hs : Only W s0 s) :
    Only W s0 (snoopTry r s).1 := by
  unfold snoopTry
  extract_lets +onlyGivenNames -merge -useContext -underBinder x1
  extract_lets +onlyGivenNames -merge -useContext -underBinder x2
  extract_lets +onlyGivenNames -merge -useContext -underBinder x3
  split
  · exact only_fst_mk (only_snoopRsp (sub_trans rfl hW) hs)
  · split
    · exact only_fst_mk (only_snoopRsp (sub_trans rfl hW) hs)
    · extract_lets +onlyGivenNames -merge -useContext -underBinder x4
      extract_lets +onlyGivenNames -merge -useContext -underBinder x5
      extract_lets +onlyGivenNames -merge -useContext -underBinder x6
      have hx6 : ∀ y0, Only W s0 (y0).2 → Only W s0 (x6 y0).1 := by
        unfold x6
        intro y7 hy7
        refine only_fst_mk ?_
        refine only_setSliceReq (sub_trans rfl hW) ?_
        assumption
      try clear_value x6
      split
      · refine only_ite_fst ?_ ?_
        · exact hx6 _ (only_snoopCores (sub_trans rfl hW) hs)
        · extract_lets +onlyGivenNames -merge -useContext -underBinder x8
          have hx8 : Only W s0 (x8) := only_forward (sub_trans rfl hW) (only_State_setL3 (sub_trans rfl hW) hs)
          try clear_value x8
          exact only_fst_mk (only_snoopRsp (sub_trans rfl hW) hx8)
      · refine only_ite_fst ?_ ?_
        · exact hx6 _ (only_removeSnoops (sub_trans rfl hW) hs)
        · extract_lets +onlyGivenNames -merge -useContext -underBinder x9
          have hx9 : Only W s0 (x9) := only_forward (sub_trans rfl hW) (only_State_setL3 (sub_trans rfl hW) hs)
          try clear_value x9
          exact only_fst_mk (only_snoopRsp (sub_trans rfl hW) hx9)
      · refine only_ite_fst ?_ ?_
        · extract_lets +onlyGivenNames -merge -useContext -underBinder x10
          split
          · extract_lets +onlyGivenNames -merge -useContext -underBinder x11
            have hx11 : Only W s0 (x11) := by
              unfold x11
              split
              · refine only_ite ?_ ?_
                · exact only_State_setL2 (sub_trans rfl hW) hs
                · exact hs
              · exact hs
            try clear_value x11
            extract_lets +onlyGivenNames -merge -useContext -underBinder x12
            have hx12 : Only W s0 (x12) := only_State_setL3 (sub_trans rfl hW) hx11
            try clear_value x12
            extract_lets +onlyGivenNames -merge -useContext -underBinder x13
            have hx13 : Only W s0 (x13) := by
              unfold x13
              refine only_out (sub_trans rfl hW) ?_ _
              exact hx12
            try clear_value x13
            exact only_fst_mk (only_snoopRsp (sub_trans rfl hW) hx13)
        · exact only_fst_mk (only_snoopRsp (sub_trans rfl hW) hs)
      · refine only_ite_fst ?_ ?_
        · exact hx6 _ (only_removeSnoops (sub_trans rfl hW) hs)
        · exact only_fst_mk (only_snoopRsp (sub_trans rfl hW) (only_State_setL3 (sub_trans rfl hW) hs))
      · refine only_ite_fst ?_ ?_
        · exact hx6 _ (only_removeSnoops (sub_trans rfl hW) hs)
        · refine only_ite_fst ?_ ?_
          · exact only_fst_mk (only_snoopRsp (sub_trans rfl hW) (only_State_setL3 (sub_trans rfl hW) hs))
          · exact only_fst_mk (only_snoopRsp (sub_trans rfl hW) (only_State_setL3 (sub_trans rfl hW) hs))

theorem only_grantLeave {W : Nat} {s0 : State} (hW : Sub 0x428000000200000000000000002800c W)  {n : Nat} {line : Nat} {g : Nat} {w : Bool} {d : Line} {po : BitVec 2} {s : State} (hs : Only W s0 s) :
    Only W s0 (grantLeave n line g w d po s) := by
  unfold grantLeave
  extract_lets +onlyGivenNames -merge -useContext -underBinder x1
  have hx1 : Only W s0 (x1) := only_vbPut (sub_trans rfl hW) hs
  try clear_value x1
  refine only_ite ?_ ?_
  · exact only_toHome (sub_trans rfl hW) hx1
  · exact only_toHome (sub_trans rfl hW) hx1

theorem only_grantTry {W : Nat} {s0 : State} (hW : Sub 0xe000000700000000000428000000220c000000000040039c0c W)  {r : SliceReq} {s : State} (hs : Only W s0 s) :
    Only W s0 (grantTry r s).1 := by
  unfold grantTry
  extract_lets +onlyGivenNames -merge -useContext -underBinder x1
  extract_lets +onlyGivenNames -merge -useContext -underBinder x2
  extract_lets +onlyGivenNames -merge -useContext -underBinder x3
  split
  · exact only_fst_mk (only_State_satInc (sub_trans rfl hW) hs)
  · extract_lets +onlyGivenNames -merge -useContext -underBinder x4
    have hx4 : ∀ y0, Only W s0 (y0) → Only W s0 (x4 y0) := by
      unfold x4
      intro y5 hy5
      refine only_l3Pend (sub_trans rfl hW) ?_ _
      exact hy5
    try clear_value x4
    extract_lets +onlyGivenNames -merge -useContext -underBinder x6
    have hx6 : ∀ y0, Only W s0 (y0) → Only W s0 (x6 y0) := by
      unfold x6
      intro y7 hy7
      refine only_sliceQ (sub_trans rfl hW) ?_ _
      exact hy7
    try clear_value x6
    refine only_ite_fst ?_ ?_
    · refine only_fst_mk ?_
      refine only_ite ?_ ?_
      · exact hx4 _ hs
      · exact only_failCore (sub_trans rfl hW) (hx6 _ (hx4 _ hs))
    · extract_lets +onlyGivenNames -merge -useContext -underBinder x8
      have hx8 : ∀ y0, Only W s0 (y0) → Only W s0 (x8 y0) := by
        unfold x8
        intro y9 hy9
        exact only_toHome (sub_trans rfl hW) hy9
      try clear_value x8
      extract_lets +onlyGivenNames -merge -useContext -underBinder x10
      try clear_value x10
      refine only_ite_fst ?_ ?_
      · refine only_ite_fst ?_ ?_
        · exact only_fst_mk hs
        · exact only_fst_mk (only_grantLeave (sub_trans rfl hW) (hx8 _ (hx4 _ hs)))
      · split
        · extract_lets +onlyGivenNames -merge -useContext -underBinder x11
          split
          · exact only_fst_mk hs
          · rename_i e12
            have k13 := inst_of_eq (W := W) (s0 := s0) e12 (only_l3Install (sub_trans rfl hW) (by assumption))
            replace k13 : Only W s0 _ := k13
            refine only_fst_mk ?_
            refine hx8 _ ?_
            refine hx4 _ ?_
            assumption
          · rename_i e14
            have k15 := inst_of_eq (W := W) (s0 := s0) e14 (only_l3Install (sub_trans rfl hW) (by assumption))
            replace k15 : Only W s0 _ := k15
            refine only_ite_fst ?_ ?_
            · exact only_fst_mk hs
            · extract_lets +onlyGivenNames -merge -useContext -underBinder x16
              have hx16 : Only W s0 (x16) := by
                unfold x16
                refine only_grantLeave (sub_trans rfl hW) ?_
                refine hx8 _ ?_
                refine hx4 _ ?_
                assumption
              try clear_value x16
              extract_lets +onlyGivenNames -merge -useContext -underBinder x17
              have hx17 : Only W s0 (x17) := only_report (sub_trans rfl hW) hx16
              try clear_value x17
              refine only_fst_mk ?_
              refine only_ite ?_ ?_
              · exact hx17
              · exact only_failCore (sub_trans rfl hW) (hx6 _ hx17)

theorem only_sliceTry {W : Nat} {s0 : State} (hW : Sub 0xe000000700000000000428000000220c000000000040039c0c W)  {r : SliceReq} {s : State} (hs : Only W s0 s) :
    Only W s0 (sliceTry r s) := by
  unfold sliceTry
  refine only_ite ?_ ?_
  · exact hs
  · split
    · rename_i e1
      replace e1 := congrArg Prod.fst e1
      dsimp only at e1
      refine only_of_eq (W := W) (s0 := s0) e1 ?_ (fun k2 => ?_)
      · split
        · exact only_snoopTry (sub_trans rfl hW) hs
        · exact only_grantTry (sub_trans rfl hW) hs
        · exact only_coreReqTry (sub_trans rfl hW) hs
      refine only_ite ?_ ?_
      · refine only_sliceQ (sub_trans rfl hW) ?_ _
        assumption
      · assumption

theorem only_slicePass {W : Nat} {s0 : State} (hW : Sub 0xe000000700000000000428000000220c000000000040039c0c W)  {n : Nat} {line : Nat} {s : State} (hs : Only W s0 s) :
    Only W s0 (slicePass n line s) := by
  unfold slicePass
  extract_lets +onlyGivenNames -merge -useContext -underBinder x1
  extract_lets +onlyGivenNames -merge -useContext -underBinder x2
  have hx2 : Only W s0 (x2) := by
    unfold x2
    refine only_foldl (fun t x ht => ?_) ?_
    · refine only_sliceTry (sub_trans rfl hW) ?_
      assumption
    · exact hs
  try clear_value x2
  extract_lets +onlyGivenNames -merge -useContext -underBinder x3
  refine only_ite ?_ ?_
  · exact hx2
  · refine only_ite ?_ ?_
    · refine only_foldl (fun t x ht => ?_) ?_
      · refine only_sliceTry (sub_trans rfl hW) ?_
        assumption
      · exact hx2
    · split
      · refine only_ite ?_ ?_
        · exact only_sliceTry (sub_trans rfl hW) hx2
        · exact hx2
      · exact hx2

theorem only_slicePump {W : Nat} {s0 : State} (hW : Sub 0xe000000700000000000428000000220c000000000040039c0c W)  {n : Nat} {line : Nat} {s : State} (hs : Only W s0 s) :
    Only W s0 (slicePump n line s) := by
  unfold slicePump
  refine only_iter (fun x t ht => ?_) ?_
  · refine only_slicePass (sub_trans rfl hW) ?_
    assumption
  · exact hs

theorem only_sliceArrive {W : Nat} {s0 : State} (hW : Sub 0xe000000700000000000428000000220c000000000040039c0c W)  {n : Nat} {p : Packet} {s : State} (hs : Only W s0 s) :
    Only W s0 (sliceArrive n p s) := by
  unfold sliceArrive
  refine only_ite ?_ ?_
  · exact hs
  · extract_lets +onlyGivenNames -merge -useContext -underBinder x1
    have hx1 : Only W s0 (x1) := only_State_take (sub_trans rfl hW) hs
    try clear_value x1
    extract_lets +onlyGivenNames -merge -useContext -underBinder x2
    refine only_slicePump (sub_trans rfl hW) ?_
    refine only_sliceQ (sub_trans rfl hW) ?_ _
    exact hx1

theorem only_corePump {W : Nat} {s0 : State} (hW : Sub 0xe0000007000000000004280000000000000000000040039c0c W)  {np : Nat} {s : State} (hs : Only W s0 s) :
    Only W s0 (corePump np s) := by
  unfold corePump
  split
  · exact only_loadsPump (sub_trans rfl hW) hs
  · exact hs

theorem only_vbRelease {W : Nat} {s0 : State} (hW : Sub 0xe000000700000000000428000000220c000000000040039c0c W)  {p : Packet} {s : State} (hs : Only W s0 s) :
    Only W s0 (vbRelease p s) := by
  unfold vbRelease
  refine only_ite ?_ ?_
  · exact hs
  · extract_lets +onlyGivenNames -merge -useContext -underBinder x1
    have hx1 : Only W s0 (x1) := only_State_take (sub_trans rfl hW) hs
    try clear_value x1
    extract_lets +onlyGivenNames -merge -useContext -underBinder x2
    extract_lets +onlyGivenNames -merge -useContext -underBinder x3
    extract_lets +onlyGivenNames -merge -useContext -underBinder x4
    extract_lets +onlyGivenNames -merge -useContext -underBinder x5
    have hx5 : Only W s0 (x5) := by
      unfold x5
      refine only_vb (sub_trans rfl hW) ?_ _
      exact hx1
    try clear_value x5
    extract_lets +onlyGivenNames -merge -useContext -underBinder x6
    extract_lets +onlyGivenNames -merge -useContext -underBinder x7
    have hx7 : Only W s0 (x7) := by
      unfold x7
      refine only_foldl (fun t x ht => ?_) ?_
      · refine only_slicePump (sub_trans rfl hW) ?_
        assumption
      · exact only_slicePump (sub_trans rfl hW) hx5
    try clear_value x7
    refine only_ite ?_ ?_
    · refine only_iter (fun x t ht => ?_) ?_
      · refine only_corePump (sub_trans rfl hW) ?_
        assumption
      · exact hx7
    · exact hx7

theorem only_coreLeaves {W : Nat} {s0 : State} (hW : Sub 0xe000000700000000000428000000220c000000000040039c0c W)  {np : Nat} {line : Nat} {d : Option (Line × BitVec 2)} {s : State} (hs : Only W s0 s) :
    Only W s0 (coreLeaves np line d s) := by
  unfold coreLeaves
  extract_lets +onlyGivenNames -merge -useContext -underBinder x1
  split
  · exact only_slicePump (sub_trans rfl hW) hs
  · extract_lets +onlyGivenNames -merge -useContext -underBinder x2
    extract_lets +onlyGivenNames -merge -useContext -underBinder x3
    exact only_slicePump (sub_trans rfl hW) (only_State_setL3 (sub_trans rfl hW) hs)

theorem only_answerSnoop {W : Nat} {s0 : State} (hW : Sub 0xe000000700000000000428000000220c000000000040039c0c W)  {np : Nat} {line : Nat} {excl : Bool} {s : State} (hs : Only W s0 s) :
    Only W s0 (answerSnoop np line excl s) := by
  unfold answerSnoop
  extract_lets +onlyGivenNames -merge -useContext -underBinder x1
  split
  · refine only_ite ?_ ?_
    · exact hs
    · exact only_coreLeaves (sub_trans rfl hW) hs
  · extract_lets +onlyGivenNames -merge -useContext -underBinder x2
    extract_lets +onlyGivenNames -merge -useContext -underBinder x3
    try clear_value x3
    refine only_ite ?_ ?_
    · refine only_corePump (sub_trans rfl hW) ?_
      exact only_coreLeaves (sub_trans rfl hW) (only_coreInval (sub_trans rfl hW) hs)
    · extract_lets +onlyGivenNames -merge -useContext -underBinder x4
      have hx4 : Only W s0 (x4) := only_loseResv (sub_trans rfl hW) (only_State_setL2 (sub_trans rfl hW) hs)
      try clear_value x4
      split
      · exact only_slicePump (sub_trans rfl hW) hx4
      · extract_lets +onlyGivenNames -merge -useContext -underBinder x5
        extract_lets +onlyGivenNames -merge -useContext -underBinder x6
        exact only_slicePump (sub_trans rfl hW) (only_State_setL3 (sub_trans rfl hW) hx4)

theorem only_coreSnoop {W : Nat} {s0 : State} (hW : Sub 0xe000000700000000000428000000220c000000000040039c0c W)  {p : Packet} {excl : Bool} {s : State} (hs : Only W s0 s) :
    Only W s0 (coreSnoop p excl s) := by
  unfold coreSnoop
  refine only_ite ?_ ?_
  · exact hs
  · extract_lets +onlyGivenNames -merge -useContext -underBinder x1
    have hx1 : Only W s0 (x1) := only_State_take (sub_trans rfl hW) hs
    try clear_value x1
    extract_lets +onlyGivenNames -merge -useContext -underBinder x2
    extract_lets +onlyGivenNames -merge -useContext -underBinder x3
    split
    · refine only_ite ?_ ?_
      · extract_lets +onlyGivenNames -merge -useContext -underBinder x4
        have hx4 : Only W s0 (x4) := only_State_satInc (sub_trans rfl hW) hx1
        try clear_value x4
        refine only_l2Held (sub_trans rfl hW) ?_ _
        exact hx4
      · exact only_answerSnoop (sub_trans rfl hW) hx1
    · exact only_answerSnoop (sub_trans rfl hW) hx1

theorem only_coreInvL {W : Nat} {s0 : State} (hW : Sub 0xe000000700000000000428000000220c000000000040039c0c W)  {p : Packet} {s : State} (hs : Only W s0 s) :
    Only W s0 (coreInvL p s) := by
  unfold coreInvL
  refine only_ite ?_ ?_
  · exact hs
  · extract_lets +onlyGivenNames -merge -useContext -underBinder x1
    have hx1 : Only W s0 (x1) := only_State_take (sub_trans rfl hW) hs
    try clear_value x1
    extract_lets +onlyGivenNames -merge -useContext -underBinder x2
    extract_lets +onlyGivenNames -merge -useContext -underBinder x3
    refine only_ite ?_ ?_
    · exact only_slicePump (sub_trans rfl hW) hx1
    · extract_lets +onlyGivenNames -merge -useContext -underBinder x4
      have hx4 : Only W s0 (x4) := only_coreInval (sub_trans rfl hW) hx1
      try clear_value x4
      refine only_corePump (sub_trans rfl hW) ?_
      refine only_ite ?_ ?_
      · exact hx4
      · exact only_coreLeaves (sub_trans rfl hW) hx4

theorem only_tenureEnds {W : Nat} {s0 : State} (hW : Sub 0xe000000700000000000428000000220c000000000040039c0c W)  {np : Nat} {line : Nat} {s : State} (hs : Only W s0 s) :
    Only W s0 (tenureEnds np line s) := by
  unfold tenureEnds
  split
  · exact hs
  · extract_lets +onlyGivenNames -merge -useContext -underBinder x1 x2
    try clear_value x1
    have hx2 : Only W s0 (x2) := only_State_setL2 (sub_trans rfl hW) hs
    try clear_value x2
    extract_lets +onlyGivenNames -merge -useContext -underBinder x3
    extract_lets +onlyGivenNames -merge -useContext -underBinder x4
    have hx4 : Only W s0 (x4) := by
      unfold x4
      refine only_l2Held (sub_trans rfl hW) ?_ _
      exact hx2
    try clear_value x4
    refine only_foldl (fun t x ht => ?_) ?_
    · refine only_answerSnoop (sub_trans rfl hW) ?_
      assumption
    · exact hx4

theorem only_rsSet {W : Nat} {s0 : State} {core : Fld} {die : Fld} {e : Nat} {v : Nat} (qcore : Sub (regBit core.reg) W) (qdie : Sub (regBit die.reg) W) {s : State} (hs : Only W s0 s) :
    Only W s0 (rsSet core die e v s) := by
  unfold rsSet
  refine only_ite ?_ ?_
  · exact only_State_setF qcore hs
  · exact only_State_setF qdie hs

theorem only_rsSetBusy {W : Nat} {s0 : State} (hW : Sub 0x202000000000000000004 W)  {z0 : Nat} {z1 : Nat} {z2 : State} (hz2 : Only W s0 z2) :
    Only W s0 (rsSetBusy z0 z1 z2) := by
  unfold rsSetBusy
  exact only_rsSet (sub_trans rfl hW) (sub_trans rfl hW) hz2

theorem only_rsSetDone {W : Nat} {s0 : State} (hW : Sub 0x202000000000000000004 W)  {z0 : Nat} {z1 : Nat} {z2 : State} (hz2 : Only W s0 z2) :
    Only W s0 (rsSetDone z0 z1 z2) := by
  unfold rsSetDone
  exact only_rsSet (sub_trans rfl hW) (sub_trans rfl hW) hz2

theorem only_rsSetErr {W : Nat} {s0 : State} (hW : Sub 0x202000000000000000004 W)  {z0 : Nat} {z1 : Nat} {z2 : State} (hz2 : Only W s0 z2) :
    Only W s0 (rsSetErr z0 z1 z2) := by
  unfold rsSetErr
  exact only_rsSet (sub_trans rfl hW) (sub_trans rfl hW) hz2

theorem only_rsSetLines {W : Nat} {s0 : State} (hW : Sub 0x202000000000000000004 W)  {z0 : Nat} {z1 : Nat} {z2 : State} (hz2 : Only W s0 z2) :
    Only W s0 (rsSetLines z0 z1 z2) := by
  unfold rsSetLines
  exact only_rsSet (sub_trans rfl hW) (sub_trans rfl hW) hz2

theorem only_rangeAbort {W : Nat} {s0 : State} (hW : Sub 0x202000000000000010004 W)  {e : Nat} {s : State} (hs : Only W s0 s) :
    Only W s0 (rangeAbort e s) := by
  unfold rangeAbort
  split
  · exact hs
  · extract_lets +onlyGivenNames -merge -useContext -underBinder x1
    have hx1 : Only W s0 (x1) := by
      unfold x1
      refine only_ranges (sub_trans rfl hW) ?_ _
      exact hs
    try clear_value x1
    refine only_rsSetLines (sub_trans rfl hW) ?_
    exact only_rsSetErr (sub_trans rfl hW) (only_rsSetDone (sub_trans rfl hW) (only_rsSetBusy (sub_trans rfl hW) hx1))

theorem only_dieWipe {W : Nat} {s0 : State} (hW : Sub 0x1000000000000000000000000000000000084000080000000206080000002080059e4c W)  {n : Nat} {s : State} (hs : Only W s0 s) :
    Only W s0 (dieWipe n s) := by
  unfold dieWipe
  extract_lets +onlyGivenNames -merge -useContext -underBinder x1
  have hx1 : Only W s0 (x1) := by
    unfold x1
    refine only_foldl (fun t x ht => ?_) ?_
    · refine only_rangeAbort (sub_trans rfl hW) ?_
      assumption
    · exact hs
  try clear_value x1
  extract_lets +onlyGivenNames -merge -useContext -underBinder x2
  extract_lets +onlyGivenNames -merge -useContext -underBinder x3
  have hx3 : Only W s0 (x3) := by
    unfold x3
    refine only_replicas_txs_l3_vb_l3Pend_sliceQ_l2_l1d_l1i_l2Pend_l2Held_l2BadWay (sub_trans rfl hW) ?_ _ _ _ _ _ _ _ _ _ _ _ _
    exact hx1
  try clear_value x3
  extract_lets +onlyGivenNames -merge -useContext -underBinder x4
  have hx4 : Only W s0 (x4) := only_State_dropOut (sub_trans rfl hW) hx3
  try clear_value x4
  extract_lets +onlyGivenNames -merge -useContext -underBinder x5
  have hx5 : Only W s0 (x5) := only_State_setFbit (sub_trans rfl hW) hx4
  try clear_value x5
  extract_lets +onlyGivenNames -merge -useContext -underBinder x6 x7
  try clear_value x6
  have hx7 : Only W s0 (x7) := by
    unfold x7
    refine only_coreTrace_tap_ctrBuf_ctrFifo (sub_trans rfl hW) ?_ _ _ _ _
    exact hx5
  try clear_value x7
  extract_lets +onlyGivenNames -merge -useContext -underBinder x8
  have hx8 : Only W s0 (x8) := only_State_setF (sub_trans rfl hW) hx7
  try clear_value x8
  extract_lets +onlyGivenNames -merge -useContext -underBinder x9
  have hx9 : Only W s0 (x9) := by
    unfold x9
    refine only_iter (fun x t ht => ?_) ?_
    · refine only_State_setF (sub_trans rfl hW) ?_
      assumption
    · exact hx8
  try clear_value x9
  extract_lets +onlyGivenNames -merge -useContext -underBinder x10
  have hx10 : Only W s0 (x10) := only_batDieReset (sub_trans rfl hW) hx9
  try clear_value x10
  refine only_foldl (fun t x ht => ?_) ?_
  · refine only_ite ?_ ?_
    · refine only_hartClear (sub_trans rfl hW) ?_
      refine only_tsCancelAll (sub_trans rfl hW) ?_
      assumption
    · assumption
  · exact hx10

theorem only_dieLoss {W : Nat} {s0 : State} (hW : Sub 0x10302000000000000000000000000000000840042af0f12f82060800000020c007fe5e W)  {n : Nat} {hot : Bool} {s : State} (hs : Only W s0 s) :
    Only W s0 (dieLoss n hot s) := by
  unfold dieLoss
  extract_lets +onlyGivenNames -merge -useContext -underBinder x1
  have hx1 : Only W s0 (x1) := only_haDieLost (sub_trans rfl hW) (only_dieWipe (sub_trans rfl hW) hs)
  try clear_value x1
  exact only_report (sub_trans rfl hW) hx1

end Sys2Proof.Machine
end

