-- ==== Sys2Proof/Laws/KeepBridges.lean ====
section
/-! SUPPORT. What the definitions of Machine/Bridges.lean leave alone: one lemma for each that answers a state. -/
namespace Sys2Proof.Machine

theorem only_State_setBr {W : Nat} {s0 : State} (hW : Sub 0x80000 W)  {n : Nat} {b : Bridge} {s : State} (hs : Only W s0 s) :
    Only W s0 (State.setBr s n b) := by
  unfold State.setBr
  refine only_bridges (sub_trans rfl hW) ?_ _
  exact hs

theorem only_setLmap {W : Nat} {s0 : State} (hW : Sub 0x8000000000000000000000000000000000004 W)  {n : Nat} {m : LaneMask} {s : State} (hs : Only W s0 s) :
    Only W s0 (setLmap n m s) := by
  unfold setLmap
  refine only_iter (fun x t ht => ?_) ?_
  · refine only_State_setR (sub_trans rfl hW) ?_
    assumption
  · exact hs

theorem only_lanesFound {W : Nat} {s0 : State} (hW : Sub 0x40080000 W)  {n : Nat} {m : LaneMask} {s : State} (hs : Only W s0 s) :
    Only W s0 (lanesFound n m s) := by
  unfold lanesFound
  extract_lets +onlyGivenNames -merge -useContext -underBinder x1
  extract_lets +onlyGivenNames -merge -useContext -underBinder x2
  extract_lets +onlyGivenNames -merge -useContext -underBinder x3
  extract_lets +onlyGivenNames -merge -useContext -underBinder x4
  have hx4 : Only W s0 (x4) := only_State_setBr (sub_trans rfl hW) hs
  try clear_value x4
  refine only_foldl (fun t x ht => ?_) ?_
  · refine only_foldl (fun t x ht => ?_) ?_
    · refine only_ite ?_ ?_
      · refine only_report (sub_trans rfl hW) ?_
        assumption
      · assumption
    · assumption
  · exact hx4

theorem only_bridgeDown {W : Nat} {s0 : State} (hW : Sub 0x800000000000000000000000000000080004 W)  {n : Nat} {reason : Nat} {s : State} (hs : Only W s0 s) :
    Only W s0 (bridgeDown n reason s) := by
  unfold bridgeDown
  extract_lets +onlyGivenNames -merge -useContext -underBinder x1
  have hx1 : Only W s0 (x1) := by
    unfold x1
    refine only_State_setF (sub_trans rfl hW) ?_
    exact only_State_setF (sub_trans rfl hW) (only_State_setF (sub_trans rfl hW) hs)
  try clear_value x1
  extract_lets +onlyGivenNames -merge -useContext -underBinder x2
  exact only_halfConflict (sub_trans rfl hW) (only_State_setBr (sub_trans rfl hW) hx1)

theorem only_reqDone {W : Nat} {s0 : State} (hW : Sub 0x80000000000000000000000000000000000000000000000000000000000004 W)  {k : Nat} {status : Nat} {s : State} (hs : Only W s0 s) :
    Only W s0 (reqDone k status s) := by
  unfold reqDone
  refine only_State_setB (sub_trans rfl hW) ?_
  exact only_State_setB (sub_trans rfl hW) (only_State_setF (sub_trans rfl hW) hs)

theorem only_transReq {W : Nat} {s0 : State} (hW : Sub 0x80000000000000000000000000000000000000000000000000000000000004 W)  {t : Option DieTrans} {status : Nat} {s : State} (hs : Only W s0 s) :
    Only W s0 (transReq t status s) := by
  unfold transReq
  split
  · split
    · exact only_reqDone (sub_trans rfl hW) hs
    · exact hs
  · exact hs

theorem only_transLost {W : Nat} {s0 : State} (hW : Sub 0x80000000000000000000000000000000000000000000000000000000000004 W)  {t : Option DieTrans} {s : State} (hs : Only W s0 s) :
    Only W s0 (transLost t s) := by
  unfold transLost
  extract_lets +onlyGivenNames -merge -useContext -underBinder x1
  have hx1 : Only W s0 (x1) := only_transReq (sub_trans rfl hW) hs
  try clear_value x1
  split
  · refine only_ite ?_ ?_
    · exact only_reqDone (sub_trans rfl hW) hx1
    · exact hx1
  · exact hx1

theorem only_bridgeLost {W : Nat} {s0 : State} (hW : Sub 0x10302000a00000000000000000000000008840042af0f12f82060800000020c00ffe5e W)  {n : Nat} {reason : Nat} {s : State} (hs : Only W s0 s) :
    Only W s0 (bridgeLost n reason s) := by
  unfold bridgeLost
  extract_lets +onlyGivenNames -merge -useContext -underBinder x1
  have hx1 : Only W s0 (x1) := only_bridgeDown (sub_trans rfl hW) hs
  try clear_value x1
  extract_lets +onlyGivenNames -merge -useContext -underBinder x2
  have hx2 : Only W s0 (x2) := only_transLost (sub_trans rfl hW) (only_dieLoss (sub_trans rfl hW) hx1)
  try clear_value x2
  extract_lets +onlyGivenNames -merge -useContext -underBinder x3
  have hx3 : Only W s0 (x3) := only_State_setF (sub_trans rfl hW) (only_State_setF (sub_trans rfl hW) hx2)
  try clear_value x3
  refine only_dieTrans (sub_trans rfl hW) ?_ _
  exact hx3

theorem only_bridgeGo {W : Nat} {s0 : State} (hW : Sub 0x10302000a00000000000000000000000008840042af0f12f82060800000020c00ffe5e W)  {n : Nat} {st : Nat} {s : State} (hs : Only W s0 s) :
    Only W s0 (bridgeGo n st s) := by
  unfold bridgeGo
  split
  · exact only_bridgeLost (sub_trans rfl hW) hs
  · exact only_State_setF (sub_trans rfl hW) hs

theorem only_repairApplied {W : Nat} {s0 : State} (hW : Sub 0x40000000 W)  {i : Nat} {s : State} (hs : Only W s0 s) :
    Only W s0 (repairApplied i s) := by
  unfold repairApplied
  exact only_report (sub_trans rfl hW) hs

theorem only_eachRepair {W : Nat} {s0 : State} (_hW : Sub 0x0 W)  {f : Nat → Repair → State → State} (hf : ∀ y0 y1 y2, Only W s0 (y2) → Only W s0 (f y0 y1 y2)) {s : State} (hs : Only W s0 s) :
    Only W s0 (eachRepair f s) := by
  unfold eachRepair
  refine only_foldl (fun t x ht => ?_) ?_
  · split
    · refine hf _ _ _ ?_
      assumption
  · exact hs

theorem only_trainFull {W : Nat} {s0 : State} (hW : Sub 0x4800000000000000000000000000040080004 W)  {n : Nat} {s : State} (hs : Only W s0 s) :
    Only W s0 (trainFull n s) := by
  unfold trainFull
  extract_lets +onlyGivenNames -merge -useContext -underBinder x1
  extract_lets +onlyGivenNames -merge -useContext -underBinder x2
  extract_lets +onlyGivenNames -merge -useContext -underBinder x3
  have hx3 : Only W s0 (x3) := by
    unfold x3
    refine only_ite ?_ ?_
    · exact only_State_satInc (sub_trans rfl hW) hs
    · exact hs
  try clear_value x3
  extract_lets +onlyGivenNames -merge -useContext -underBinder x4
  extract_lets +onlyGivenNames -merge -useContext -underBinder x5
  have hx5 : Only W s0 (x5) := by
    unfold x5
    refine only_eachRepair (sub_trans rfl hW) ?_ ?_
    · intro y6 y7 y8 hy8
      refine only_ite ?_ ?_
      · exact only_repairApplied (sub_trans rfl hW) hy8
      · exact hy8
    · exact hx3
  try clear_value x5
  extract_lets +onlyGivenNames -merge -useContext -underBinder x9
  have hx9 : Only W s0 (x9) := only_State_setBr (sub_trans rfl hW) hx5
  try clear_value x9
  refine only_State_setF (sub_trans rfl hW) ?_
  exact only_State_setF (sub_trans rfl hW) (only_State_setF (sub_trans rfl hW) hx9)

theorem only_trainFast {W : Nat} {s0 : State} (hW : Sub 0x4800000000000000000000000000040080004 W)  {n : Nat} {s : State} (hs : Only W s0 s) :
    Only W s0 (trainFast n s) := by
  unfold trainFast
  refine only_ite ?_ ?_
  · exact only_State_setF (sub_trans rfl hW) (only_State_satInc (sub_trans rfl hW) hs)
  · exact only_trainFull (sub_trans rfl hW) hs

theorem only_execBridgeTrainStart {W : Nat} {s0 : State} (hW : Sub 0x4800000000000000000000000000040080004 W)  {n : Nat} {s : State} (hs : Only W s0 s) :
    OnlyOut W s0 (execBridgeTrainStart n s) := by
  unfold execBridgeTrainStart
  extract_lets +onlyGivenNames -merge -useContext -underBinder x1
  refine only_next ?_
  refine only_ite ?_ ?_
  · exact only_trainFull (sub_trans rfl hW) hs
  · exact hs

theorem only_brCtrlWrite {W : Nat} {s0 : State} (hW : Sub 0x4c00000000000000000000000000040080004 W)  {n : Nat} {v : Word} {s : State} (hs : Only W s0 s) :
    Only W s0 (brCtrlWrite n v s) := by
  unfold brCtrlWrite
  extract_lets +onlyGivenNames -merge -useContext -underBinder x1
  have hx1 : Only W s0 (x1) := only_State_wr (sub_trans rfl hW) hs
  try clear_value x1
  extract_lets +onlyGivenNames -merge -useContext -underBinder x2
  refine only_ite ?_ ?_
  · exact hx1
  · refine only_ite ?_ ?_
    · exact only_trainFull (sub_trans rfl hW) hx1
    · refine only_ite ?_ ?_
      · refine only_ite ?_ ?_
        · exact only_trainFast (sub_trans rfl hW) hx1
        · exact only_trainFull (sub_trans rfl hW) hx1
      · exact hx1

theorem only_execRetrainFull {W : Nat} {s0 : State} (hW : Sub 0xe0000007000004c00000000000000000000000000040080024 W)  {a : Access} {n : Nat} {v : Word} {s : State} (hs : Only W s0 s) :
    OnlyOut W s0 (execRetrainFull a n v s) := by
  unfold execRetrainFull
  refine only_next ?_
  refine only_guarded (sub_trans rfl hW) ?_ ?_
  · intro y1 hy1
    exact only_brCtrlWrite (sub_trans rfl hW) hy1
  · exact hs

theorem only_execRetrainFast {W : Nat} {s0 : State} (hW : Sub 0xe0000007000004c00000000000000000000000000040080024 W)  {a : Access} {n : Nat} {v : Word} {s : State} (hs : Only W s0 s) :
    OnlyOut W s0 (execRetrainFast a n v s) := by
  unfold execRetrainFast
  refine only_next ?_
  refine only_guarded (sub_trans rfl hW) ?_ ?_
  · intro y1 hy1
    exact only_brCtrlWrite (sub_trans rfl hW) hy1
  · exact hs

theorem only_execClockLock {W : Nat} {s0 : State} (hW : Sub 0x10302000a00000000000000000000000008840042af0f12f82060800000020c00ffe5e W)  {n : Nat} {down : Nat} {up : Nat} {sbDown : Bool} {sbUp : Bool} {s : State} (hs : Only W s0 s) :
    OnlyOut W s0 (execClockLock n down up sbDown sbUp s) := by
  unfold execClockLock
  refine onlyOut_ite ?_ ?_
  · exact only_next hs
  · refine onlyOut_ite ?_ ?_
    · exact only_next (only_bridgeLost (sub_trans rfl hW) hs)
    · extract_lets +onlyGivenNames -merge -useContext -underBinder x1
      extract_lets +onlyGivenNames -merge -useContext -underBinder x2
      refine only_next ?_
      refine only_bridgeGo (sub_trans rfl hW) ?_
      exact only_lanesFound (sub_trans rfl hW) (only_State_setBr (sub_trans rfl hW) hs)

theorem only_execLaneTestDone {W : Nat} {s0 : State} (hW : Sub 0x10302000a00000000000000000000000008840042af0f12f82060800000020c00ffe5e W)  {n : Nat} {bad : LaneMask} {s : State} (hs : Only W s0 s) :
    OnlyOut W s0 (execLaneTestDone n bad s) := by
  unfold execLaneTestDone
  refine onlyOut_ite ?_ ?_
  · exact only_next hs
  · extract_lets +onlyGivenNames -merge -useContext -underBinder x1
    have hx1 : Only W s0 (x1) := only_lanesFound (sub_trans rfl hW) (only_State_setBr (sub_trans rfl hW) hs)
    try clear_value x1
    exact only_next (only_bridgeGo (sub_trans rfl hW) (only_State_setF (sub_trans rfl hW) hx1))

theorem only_agree {W : Nat} {s0 : State} (hW : Sub 0x8800000000000000000000000000000080004 W)  {n : Nat} {m : LaneMask} {half : Bool} {s : State} (hs : Only W s0 s) :
    Only W s0 (agree n m half s) := by
  unfold agree
  extract_lets +onlyGivenNames -merge -useContext -underBinder x1
  extract_lets +onlyGivenNames -merge -useContext -underBinder x2
  have hx2 : Only W s0 (x2) := only_setLmap (sub_trans rfl hW) (only_State_setBr (sub_trans rfl hW) hs)
  try clear_value x2
  refine only_halfConflict (sub_trans rfl hW) ?_
  exact only_State_setF (sub_trans rfl hW) (only_State_setF (sub_trans rfl hW) hx2)

theorem only_execProposalExchange {W : Nat} {s0 : State} (hW : Sub 0x10302000a00000000000000000000000088840042af0f12f82060800000020c00ffe5e W)  {n : Nat} {s : State} (hs : Only W s0 s) :
    OnlyOut W s0 (execProposalExchange n s) := by
  unfold execProposalExchange
  refine onlyOut_ite ?_ ?_
  · exact only_next hs
  · extract_lets +onlyGivenNames -merge -useContext -underBinder x1
    extract_lets +onlyGivenNames -merge -useContext -underBinder x2
    extract_lets +onlyGivenNames -merge -useContext -underBinder x3
    refine onlyOut_ite ?_ ?_
    · exact only_next (only_agree (sub_trans rfl hW) hs)
    · refine onlyOut_ite ?_ ?_
      · extract_lets +onlyGivenNames -merge -useContext -underBinder x4
        extract_lets +onlyGivenNames -merge -useContext -underBinder x5
        have hx5 : Only W s0 (x5) := only_State_setBr (sub_trans rfl hW) hs
        try clear_value x5
        exact only_next (only_bridgeGo (sub_trans rfl hW) hx5)
      · extract_lets +onlyGivenNames -merge -useContext -underBinder x6
        have hx6 : Only W s0 (x6) := only_State_setBr (sub_trans rfl hW) hs
        try clear_value x6
        exact only_next (only_agree (sub_trans rfl hW) (only_State_setB (sub_trans rfl hW) hx6))

theorem only_execAlignDone {W : Nat} {s0 : State} (hW : Sub 0x10302000a000000000000000000000000a8840042af0f12f82060800000020c00ffe5e W)  {n : Nat} {lat : Nat} {skew : Nat} {weak : LaneMask} {s : State} (hs : Only W s0 s) :
    OnlyOut W s0 (execAlignDone n lat skew weak s) := by
  unfold execAlignDone
  refine onlyOut_ite ?_ ?_
  · exact only_next hs
  · extract_lets +onlyGivenNames -merge -useContext -underBinder x1
    have hx1 : Only W s0 (x1) := only_State_setF (sub_trans rfl hW) (only_State_setF (sub_trans rfl hW) hs)
    try clear_value x1
    refine onlyOut_ite ?_ ?_
    · exact only_next (only_State_setF (sub_trans rfl hW) hx1)
    · extract_lets +onlyGivenNames -merge -useContext -underBinder x2
      extract_lets +onlyGivenNames -merge -useContext -underBinder x3
      refine only_next ?_
      exact only_bridgeGo (sub_trans rfl hW) (only_agree (sub_trans rfl hW) (only_lanesFound (sub_trans rfl hW) hx1))

theorem only_epochTaken {W : Nat} {s0 : State} (hW : Sub 0x20000 W)  {n : Nat} {s : State} (hs : Only W s0 s) :
    Only W s0 (epochTaken n s) := by
  unfold epochTaken
  refine only_epochLag (sub_trans rfl hW) ?_ _
  exact hs

theorem only_execCapabilityExchange {W : Nat} {s0 : State} (hW : Sub 0x18000000000000200000000000000000a0006 W)  {n : Nat} {s : State} (hs : Only W s0 s) :
    OnlyOut W s0 (execCapabilityExchange n s) := by
  unfold execCapabilityExchange
  refine onlyOut_ite ?_ ?_
  · exact only_next hs
  · extract_lets +onlyGivenNames -merge -useContext -underBinder x1
    extract_lets +onlyGivenNames -merge -useContext -underBinder x2
    extract_lets +onlyGivenNames -merge -useContext -underBinder x3
    have hx3 : Only W s0 (x3) := by
      unfold x3
      refine only_State_bump (sub_trans rfl hW) ?_
      exact only_State_setF (sub_trans rfl hW) (only_State_setF (sub_trans rfl hW) hs)
    try clear_value x3
    extract_lets +onlyGivenNames -merge -useContext -underBinder x4
    extract_lets +onlyGivenNames -merge -useContext -underBinder x5
    extract_lets +onlyGivenNames -merge -useContext -underBinder x6
    refine onlyOut_ite ?_ ?_
    · extract_lets +onlyGivenNames -merge -useContext -underBinder x7
      have hx7 : Only W s0 (x7) := by
        unfold x7
        refine only_epochTaken (sub_trans rfl hW) ?_
        exact only_State_setF (sub_trans rfl hW) (only_State_setF (sub_trans rfl hW) hx3)
      try clear_value x7
      refine only_next ?_
      refine only_iter (fun x t ht => ?_) ?_
      · refine only_State_setFbit (sub_trans rfl hW) ?_
        assumption
      · exact hx7
    · exact only_next (only_bridgeDown (sub_trans rfl hW) (only_State_setB (sub_trans rfl hW) hx3))

theorem only_execFastRetrainDone {W : Nat} {s0 : State} (hW : Sub 0x10302000a00000000000000000000000048840042af0f12f82060800000020c00ffe5e W)  {n : Nat} {bad : LaneMask} {s : State} (hs : Only W s0 s) :
    OnlyOut W s0 (execFastRetrainDone n bad s) := by
  unfold execFastRetrainDone
  refine onlyOut_ite ?_ ?_
  · exact only_next hs
  · extract_lets +onlyGivenNames -merge -useContext -underBinder x1
    extract_lets +onlyGivenNames -merge -useContext -underBinder x2
    refine onlyOut_ite ?_ ?_
    · extract_lets +onlyGivenNames -merge -useContext -underBinder x3
      extract_lets +onlyGivenNames -merge -useContext -underBinder x4 x5 x6
      try clear_value x4
      try clear_value x5
      have hx6 : Only W s0 (x6) := only_State_setBr (sub_trans rfl hW) hs
      try clear_value x6
      refine only_next ?_
      refine only_epochTaken (sub_trans rfl hW) ?_
      exact only_State_setF (sub_trans rfl hW) (only_State_satAdd (sub_trans rfl hW) hx6)
    · extract_lets +onlyGivenNames -merge -useContext -underBinder x7
      have hx7 : Only W s0 (x7) := only_lanesFound (sub_trans rfl hW) (only_State_setBr (sub_trans rfl hW) hs)
      try clear_value x7
      exact only_next (only_bridgeGo (sub_trans rfl hW) (only_State_setF (sub_trans rfl hW) hx7))

theorem only_linkGivesUp {W : Nat} {s0 : State} (hW : Sub 0x10302000a00000000000000000000000048840042af0f12f82060800000020c00ffe5e W)  {n : Nat} {s : State} (hs : Only W s0 s) :
    Only W s0 (linkGivesUp n s) := by
  unfold linkGivesUp
  split
  · refine only_ite ?_ ?_
    · exact only_bridgeLost (sub_trans rfl hW) (only_State_setB (sub_trans rfl hW) hs)
    · exact only_trainFast (sub_trans rfl hW) hs
  · exact only_trainFast (sub_trans rfl hW) hs

theorem only_frameDrop {W : Nat} {s0 : State} (hW : Sub 0x10302000a00000000000000000000000048840042af0f12f82060800000020c00ffe5e W)  {n : Nat} {up : Bool} {nak : Bool} {s : State} (hs : Only W s0 s) :
    Only W s0 (frameDrop n up nak s) := by
  unfold frameDrop
  extract_lets +onlyGivenNames -merge -useContext -underBinder x1
  extract_lets +onlyGivenNames -merge -useContext -underBinder x2
  extract_lets +onlyGivenNames -merge -useContext -underBinder x3
  extract_lets +onlyGivenNames -merge -useContext -underBinder x4
  have hx4 : Only W s0 (x4) := only_State_setBr (sub_trans rfl hW) (only_State_satInc (sub_trans rfl hW) hs)
  try clear_value x4
  refine only_ite ?_ ?_
  · exact only_linkGivesUp (sub_trans rfl hW) hx4
  · exact hx4

theorem only_execBridgeFrameReceive {W : Nat} {s0 : State} (hW : Sub 0x10302000a00000000000000000000000048840042af0f12f82060800000020c00ffe5e W)  {n : Nat} {up : Bool} {crcOk : Bool} {ftype : Nat} {seq : Nat} {ack : Option Nat} {s : State} (hs : Only W s0 s) :
    OnlyOut W s0 (execBridgeFrameReceive n up crcOk ftype seq ack s) := by
  unfold execBridgeFrameReceive
  refine onlyOut_ite ?_ ?_
  · exact only_next hs
  · extract_lets +onlyGivenNames -merge -useContext -underBinder x1
    extract_lets +onlyGivenNames -merge -useContext -underBinder x2
    extract_lets +onlyGivenNames -merge -useContext -underBinder x3
    extract_lets +onlyGivenNames -merge -useContext -underBinder x4
    have hx4 : Only W s0 (x4) := only_State_setBr (sub_trans rfl hW) hs
    try clear_value x4
    extract_lets +onlyGivenNames -merge -useContext -underBinder x5
    extract_lets +onlyGivenNames -merge -useContext -underBinder x6
    refine onlyOut_ite ?_ ?_
    · exact only_next (only_frameDrop (sub_trans rfl hW) hx4)
    · refine onlyOut_ite ?_ ?_
      · exact only_next (only_frameDrop (sub_trans rfl hW) hx4)
      · refine onlyOut_ite ?_ ?_
        · exact only_next (only_frameDrop (sub_trans rfl hW) hx4)
        · extract_lets +onlyGivenNames -merge -useContext -underBinder x7
          extract_lets +onlyGivenNames -merge -useContext -underBinder x8
          extract_lets +onlyGivenNames -merge -useContext -underBinder x9
          exact only_next (only_State_setBr (sub_trans rfl hW) hx4)

theorem only_execBridgeNak {W : Nat} {s0 : State} (hW : Sub 0x4000000000000000000000000000000080004 W)  {n : Nat} {up : Bool} {ackseq : Nat} {s : State} (hs : Only W s0 s) :
    OnlyOut W s0 (execBridgeNak n up ackseq s) := by
  unfold execBridgeNak
  refine onlyOut_ite ?_ ?_
  · exact only_next hs
  · extract_lets +onlyGivenNames -merge -useContext -underBinder x1
    extract_lets +onlyGivenNames -merge -useContext -underBinder x2 x3
    try clear_value x2
    have hx3 : Only W s0 (x3) := only_State_setBr (sub_trans rfl hW) hs
    try clear_value x3
    exact only_next (only_State_satInc (sub_trans rfl hW) hx3)

theorem only_execSidebandMessage {W : Nat} {s0 : State} (hW : Sub 0x4800000000000000000000000000040080004 W)  {n : Nat} {crcOk : Bool} {ty : Nat} {s : State} (hs : Only W s0 s) :
    OnlyOut W s0 (execSidebandMessage n crcOk ty s) := by
  unfold execSidebandMessage
  refine onlyOut_ite ?_ ?_
  · exact only_next hs
  · refine onlyOut_ite ?_ ?_
    · extract_lets +onlyGivenNames -merge -useContext -underBinder x1
      have hx1 : Only W s0 (x1) := only_State_satInc (sub_trans rfl hW) hs
      try clear_value x1
      extract_lets +onlyGivenNames -merge -useContext -underBinder x2
      extract_lets +onlyGivenNames -merge -useContext -underBinder x3
      refine onlyOut_ite ?_ ?_
      · exact only_next (only_trainFast (sub_trans rfl hW) (only_State_setBr (sub_trans rfl hW) hx1))
      · exact only_next (only_State_setBr (sub_trans rfl hW) hx1)
    · refine onlyOut_ite ?_ ?_
      · exact only_next (only_State_satInc (sub_trans rfl hW) hs)
      · exact only_next hs

theorem only_execSidebandNak {W : Nat} {s0 : State} (_hW : Sub 0x0 W)  {z0 : Nat} {z1 : Nat} {s : State} (hs : Only W s0 s) :
    OnlyOut W s0 (execSidebandNak z0 z1 s) := by
  unfold execSidebandNak
  exact only_next hs

end Sys2Proof.Machine
end

