-- ==== Sys2Proof/Laws/KeepInstructions.lean ====
section
/-! SUPPORT. What the definitions of Machine/Instructions.lean leave alone: one lemma for each that answers a state. -/
namespace Sys2Proof.Machine

theorem only_xlated {W : Nat} {s0 : State} (hW : Sub 0xe0000007000000000000000000000000000000000000000004 W)  {ha : Nat} {k : AccKind} {va : Word} {x : Xlate} {s : State} (hs : Only W s0 s) :
    OnlyErr W s0 (xlated ha k va x s) := by
  unfold xlated
  extract_lets +onlyGivenNames -merge -useContext -underBinder x1
  extract_lets +onlyGivenNames -merge -useContext -underBinder x2
  refine only_ite_exErr ?_ ?_
  · refine only_ite_exErr ?_ ?_
    · exact exErr_ok
    · refine exErr_error ?_
      exact only_snd_mk hs
  · split
    · refine exErr_error ?_
      exact only_snd_mk hs
    · split
      · refine exErr_error ?_
        exact only_snd_mk (only_cacheDeny (sub_trans rfl hW) hs)
      · refine only_ite_exErr ?_ ?_
        · exact exErr_ok
        · refine exErr_error ?_
          exact only_snd_mk hs

theorem only_accCheck {W : Nat} {s0 : State} (hW : Sub 0xe0000007000000000000000000000000000000000000000004 W)  {ha : Nat} {k : AccKind} {a : MemAcc} {s : State} (hs : Only W s0 s) :
    OnlyErr W s0 (accCheck ha k a s) := by
  unfold accCheck
  split
  · rename_i e1
    have k2 := only_xlated (sub_trans rfl hW) (by assumption) _ e1
    refine exErr_error ?_
    assumption
  · extract_lets +onlyGivenNames -merge -useContext -underBinder x3
    extract_lets +onlyGivenNames -merge -useContext -underBinder x4
    refine only_ite_exErr ?_ ?_
    · refine exErr_error ?_
      exact only_snd_mk hs
    · refine only_ite_exErr ?_ ?_
      · exact exErr_ok
      · extract_lets +onlyGivenNames -merge -useContext -underBinder x5
        split
        · rename_i e6
          have k7 := only_xlated (sub_trans rfl hW) (by assumption) _ e6
          refine exErr_error ?_
          assumption
        · refine only_ite_exErr ?_ ?_
          · refine exErr_error ?_
            exact only_snd_mk hs
          · exact exErr_ok

theorem only_accsCheck {W : Nat} {s0 : State} (hW : Sub 0xe0000007000000000000000000000000000000000000000004 W) {ha : Nat} {k : AccKind} {l : List MemAcc} {s : State}
    (hs : Only W s0 s) : Only W s0 (accsCheck ha k l s).2.2 := by
  induction l generalizing s with
  | nil => exact hs
  | cons a r ih =>
    simp only [accsCheck]
    split
    · next e => exact only_accCheck (sub_trans rfl hW) hs _ e
    · exact ih hs

theorem only_loadStart {W : Nat} {s0 : State} (hW : Sub 0xe0000007000000000004280000000000000000000040039c0c W)  {i : Issue} {dst : LoadDst} {accs : List LAcc} {after : Option (Nat × Word)} {stream : Bool} {s : State} (hs : Only W s0 s) :
    Only W s0 (loadStart i dst accs after stream s) := by
  unfold loadStart
  extract_lets +onlyGivenNames -merge -useContext -underBinder x1
  extract_lets +onlyGivenNames -merge -useContext -underBinder x2
  extract_lets +onlyGivenNames -merge -useContext -underBinder x3
  exact only_loadsPump (sub_trans rfl hW) (only_State_setHart (sub_trans rfl hW) hs)

theorem only_execLoad {W : Nat} {s0 : State} (hW : Sub 0xe0000007000000000004280000000c00000000000040039c0c W)  {i : Issue} {dst : LoadDst} {accs : List MemAcc} {lmul : Nat} {ce : Option CacheErr} {s : State} (hs : Only W s0 s) :
    OnlyOut W s0 (execLoad i dst accs lmul ce s) := by
  unfold execLoad
  refine onlyOut_ite ?_ ?_
  · exact only_next hs
  · split
    · rename_i e1
      replace e1 := congrArg (fun p => p.2.2) e1
      dsimp only at e1
      refine only_of_eq (W := W) (s0 := s0) e1 ?_ (fun k2 => ?_)
      · exact only_accsCheck (sub_trans rfl hW) hs
      extract_lets +onlyGivenNames -merge -useContext -underBinder x3
      have hx3 : Only W s0 (x3) := by
        unfold x3
        split
        · refine only_ite ?_ ?_
          · refine only_cacheError (sub_trans rfl hW) ?_
            assumption
          · assumption
        · assumption
      try clear_value x3
      split
      · exact only_next (only_loadStart (sub_trans rfl hW) hx3)

theorem only_raiseEnc {W : Nat} {s0 : State} (hW : Sub 0x400 W)  {i : Issue} {cause : Nat} {s : State} (hs : Only W s0 s) :
    Only W s0 (raiseEnc i cause s) := by
  unfold raiseEnc
  exact only_raise (sub_trans rfl hW) hs

theorem only_xtRun {W : Nat} {s0 : State} (hW : Sub 0x400 W)  {i : Issue} {ready : Bool} {zeros : BitVec 32} {bad : Bool} {replica : Bool} {act : State → State} (hact : ∀ y0, Only W s0 (y0) → Only W s0 (act y0)) {s : State} (hs : Only W s0 s) :
    Only W s0 (xtRun i ready zeros bad replica act s) := by
  unfold xtRun
  refine only_ite ?_ ?_
  · exact hs
  · split
    · exact only_raiseEnc (sub_trans rfl hW) hs
    · refine hact _ ?_
      exact hs

theorem only_ldPairDo {W : Nat} {s0 : State} (hW : Sub 0xe0000007000000000004280000000000000000000040039c0c W)  {i : Issue} {acc : MemAcc} {s : State} (hs : Only W s0 s) :
    Only W s0 (ldPairDo i acc s) := by
  unfold ldPairDo
  extract_lets +onlyGivenNames -merge -useContext -underBinder x1
  have hx1 : ∀ y0 y1, Only W s0 (y1) → Only W s0 (x1 y0 y1) := by
    unfold x1
    intro y2 y3 hy3
    exact only_loadStart (sub_trans rfl hW) hy3
  try clear_value x1
  refine only_ite ?_ ?_
  · exact hx1 _ _ hs
  · split
    · rename_i e4
      have k5 := only_accCheck (sub_trans rfl hW) (by assumption) _ e4
      refine hx1 _ _ ?_
      assumption
    · refine only_ite ?_ ?_
      · exact hx1 _ _ hs
      · exact only_loadStart (sub_trans rfl hW) hs

theorem only_execLdPair {W : Nat} {s0 : State} (hW : Sub 0xe0000007000000000004280000000000000000000040039c0c W)  {i : Issue} {base : Word} {x : Xlate} {s : State} (hs : Only W s0 s) :
    OnlyOut W s0 (execLdPair i base x s) := by
  unfold execLdPair
  refine only_next ?_
  refine only_xtRun (sub_trans rfl hW) ?_ ?_
  · intro y1 hy1
    exact only_ldPairDo (sub_trans rfl hW) hy1
  · exact hs

theorem only_storeRetire {W : Nat} {s0 : State} (hW : Sub 0x4000000000000000404 W)  {i : Issue} {es : List SbEntry} {vec : Bool} {trap : Option (Nat × Trap)} {s : State} (hs : Only W s0 s) :
    Only W s0 (storeRetire i es vec trap s) := by
  unfold storeRetire
  extract_lets +onlyGivenNames -merge -useContext -underBinder x1
  extract_lets +onlyGivenNames -merge -useContext -underBinder x2
  refine only_ite ?_ ?_
  · refine only_sbCount (sub_trans rfl hW) ?_
    exact only_sbRefill (sub_trans rfl hW) (only_State_setHart (sub_trans rfl hW) hs)
  · extract_lets +onlyGivenNames -merge -useContext -underBinder x3
    have hx3 : Only W s0 (x3) := only_State_setHart (sub_trans rfl hW) hs
    try clear_value x3
    exact only_sbCount (sub_trans rfl hW) (only_pass (sub_trans rfl hW) hx3)

theorem only_execStore {W : Nat} {s0 : State} (hW : Sub 0xe0000007000000000000000000000004000000000000000404 W)  {i : Issue} {accs : List MemAcc} {vals : List Nat} {vec : Bool} {s : State} (hs : Only W s0 s) :
    OnlyOut W s0 (execStore i accs vals vec s) := by
  unfold execStore
  refine onlyOut_ite ?_ ?_
  · exact only_next hs
  · split
    · rename_i e1
      replace e1 := congrArg (fun p => p.2.2) e1
      dsimp only at e1
      refine only_of_eq (W := W) (s0 := s0) e1 ?_ (fun k2 => ?_)
      · exact only_accsCheck (sub_trans rfl hW) hs
      extract_lets +onlyGivenNames -merge -useContext -underBinder x3
      refine onlyOut_ite ?_ ?_
      · refine only_next ?_
        refine only_storeRetire (sub_trans rfl hW) ?_
        assumption
      · split
        · refine only_next ?_
          refine only_raise (sub_trans rfl hW) ?_
          assumption
        · refine onlyOut_ite ?_ ?_
          · refine only_next ?_
            refine only_storeRetire (sub_trans rfl hW) ?_
            assumption
          · exact only_next hs

theorem only_sdPairDo {W : Nat} {s0 : State} (hW : Sub 0xe0000007000000000000000000000004000000000000000404 W)  {i : Issue} {acc : MemAcc} {lo : Word} {hi : Word} {s : State} (hs : Only W s0 s) :
    Only W s0 (sdPairDo i acc lo hi s) := by
  unfold sdPairDo
  refine only_ite ?_ ?_
  · exact only_raise (sub_trans rfl hW) hs
  · split
    · rename_i e1
      have k2 := only_accCheck (sub_trans rfl hW) (by assumption) _ e1
      refine only_raise (sub_trans rfl hW) ?_
      assumption
    · refine only_ite ?_ ?_
      · exact only_raise (sub_trans rfl hW) hs
      · extract_lets +onlyGivenNames -merge -useContext -underBinder x3
        extract_lets +onlyGivenNames -merge -useContext -underBinder x4
        exact only_sbCount (sub_trans rfl hW) (only_pass (sub_trans rfl hW) (only_State_onHart (sub_trans rfl hW) hs))

theorem only_execSdPair {W : Nat} {s0 : State} (hW : Sub 0xe0000007000000000000000000000004000000000000000404 W)  {i : Issue} {base : Word} {x : Xlate} {lo : Word} {hi : Word} {s : State} (hs : Only W s0 s) :
    OnlyOut W s0 (execSdPair i base x lo hi s) := by
  unfold execSdPair
  refine only_next ?_
  refine only_xtRun (sub_trans rfl hW) ?_ ?_
  · intro y1 hy1
    exact only_sdPairDo (sub_trans rfl hW) hy1
  · exact hs

theorem only_cboDo {W : Nat} {s0 : State} (hW : Sub 0xe0000007000000000000000000000004000000000000000404 W)  {i : Issue} {k : SbKind} {acc : MemAcc} {s : State} (hs : Only W s0 s) :
    Only W s0 (cboDo i k acc s) := by
  unfold cboDo
  refine only_ite ?_ ?_
  · exact hs
  · split
    · rename_i e1
      have k2 := only_accCheck (sub_trans rfl hW) (by assumption) _ e1
      refine only_raise (sub_trans rfl hW) ?_
      assumption
    · refine only_ite ?_ ?_
      · exact only_raise (sub_trans rfl hW) hs
      · extract_lets +onlyGivenNames -merge -useContext -underBinder x3
        exact only_sbCount (sub_trans rfl hW) (only_pass (sub_trans rfl hW) (only_State_onHart (sub_trans rfl hW) hs))

theorem only_execCboClean {W : Nat} {s0 : State} (hW : Sub 0xe0000007000000000000000000000004000000000000000404 W)  {i : Issue} {acc : MemAcc} {s : State} (hs : Only W s0 s) :
    OnlyOut W s0 (execCboClean i acc s) := by
  unfold execCboClean
  exact only_next (only_cboDo (sub_trans rfl hW) hs)

theorem only_execCboFlush {W : Nat} {s0 : State} (hW : Sub 0xe0000007000000000000000000000004000000000000000404 W)  {i : Issue} {acc : MemAcc} {s : State} (hs : Only W s0 s) :
    OnlyOut W s0 (execCboFlush i acc s) := by
  unfold execCboFlush
  exact only_next (only_cboDo (sub_trans rfl hW) hs)

theorem only_execCboInval {W : Nat} {s0 : State} (hW : Sub 0xe0000007000000000000000000000004000000000000000404 W)  {i : Issue} {acc : MemAcc} {s : State} (hs : Only W s0 s) :
    OnlyOut W s0 (execCboInval i acc s) := by
  unfold execCboInval
  exact only_next (only_cboDo (sub_trans rfl hW) hs)

theorem only_execCboZero {W : Nat} {s0 : State} (hW : Sub 0xe0000007000000000000000000000004000000000000000404 W)  {i : Issue} {acc : MemAcc} {s : State} (hs : Only W s0 s) :
    OnlyOut W s0 (execCboZero i acc s) := by
  unfold execCboZero
  exact only_next (only_cboDo (sub_trans rfl hW) hs)

theorem only_amoStart {W : Nat} {s0 : State} (hW : Sub 0x400 W)  {i : Issue} {dst : LoadDst} {x : LAcc} {op : Nat} {v : Nat} {kind : Nat} {s : State} (hs : Only W s0 s) :
    Only W s0 (amoStart i dst x op v kind s) := by
  unfold amoStart
  extract_lets +onlyGivenNames -merge -useContext -underBinder x1
  extract_lets +onlyGivenNames -merge -useContext -underBinder x2
  extract_lets +onlyGivenNames -merge -useContext -underBinder x3
  exact only_State_setHart (sub_trans rfl hW) hs

theorem only_execAmo {W : Nat} {s0 : State} (hW : Sub 0xe0000007000000000004280000000000000000000040039c0c W)  {i : Issue} {op : Nat} {rd : Nat} {acc : MemAcc} {v : Word} {s : State} (hs : Only W s0 s) :
    OnlyOut W s0 (execAmo i op rd acc v s) := by
  unfold execAmo
  refine onlyOut_ite ?_ ?_
  · exact only_next hs
  · refine onlyOut_ite ?_ ?_
    · exact only_next (only_raise (sub_trans rfl hW) hs)
    · split
      · rename_i e1
        have k2 := only_accCheck (sub_trans rfl hW) (by assumption) _ e1
        refine only_next ?_
        refine only_raise (sub_trans rfl hW) ?_
        assumption
      · refine onlyOut_ite ?_ ?_
        · exact only_next (only_raise (sub_trans rfl hW) hs)
        · extract_lets +onlyGivenNames -merge -useContext -underBinder x3
          exact only_next (only_loadsPump (sub_trans rfl hW) (only_amoStart (sub_trans rfl hW) hs))

theorem only_execLr {W : Nat} {s0 : State} (hW : Sub 0xe0000007000000000004280000000000000000000040039c0c W)  {i : Issue} {rd : Nat} {acc : MemAcc} {s : State} (hs : Only W s0 s) :
    OnlyOut W s0 (execLr i rd acc s) := by
  unfold execLr
  refine onlyOut_ite ?_ ?_
  · exact only_next hs
  · refine onlyOut_ite ?_ ?_
    · exact only_next (only_raise (sub_trans rfl hW) hs)
    · split
      · rename_i e1
        have k2 := only_accCheck (sub_trans rfl hW) (by assumption) _ e1
        refine only_next ?_
        refine only_raise (sub_trans rfl hW) ?_
        assumption
      · refine onlyOut_ite ?_ ?_
        · exact only_next (only_raise (sub_trans rfl hW) hs)
        · exact only_next (only_loadsPump (sub_trans rfl hW) (only_amoStart (sub_trans rfl hW) hs))

theorem only_scDo {W : Nat} {s0 : State} (hW : Sub 0xe0000007000000000000000000000000000000000000018404 W)  {i : Issue} {rd : Nat} {x : LAcc} {va : Word} {v : Word} {s : State} (hs : Only W s0 s) :
    Only W s0 (scDo i rd x va v s) := by
  unfold scDo
  extract_lets +onlyGivenNames -merge -useContext -underBinder x1
  extract_lets +onlyGivenNames -merge -useContext -underBinder x2
  extract_lets +onlyGivenNames -merge -useContext -underBinder x3
  extract_lets +onlyGivenNames -merge -useContext -underBinder x4
  extract_lets +onlyGivenNames -merge -useContext -underBinder x5
  have hx5 : ∀ y0, Only W s0 (y0) → Only W s0 (x5 y0) := by
    unfold x5
    intro y6 hy6
    exact only_State_onHart (sub_trans rfl hW) hy6
  try clear_value x5
  extract_lets +onlyGivenNames -merge -useContext -underBinder x7
  try clear_value x7
  split
  · exact only_pass (sub_trans rfl hW) (only_State_onHart (sub_trans rfl hW) (hx5 _ hs))
  · extract_lets +onlyGivenNames -merge -useContext -underBinder x8
    generalize hitRule x4.w x4.virt x8.w x8.px x8.data x8.poison = q
    cases q
    case data =>
      dsimp -zeta only
      extract_lets +onlyGivenNames -merge -useContext -underBinder x9
      have hx9 : Only W s0 (x9) := only_l2Write (sub_trans rfl hW) hs
      try clear_value x9
      exact only_pass (sub_trans rfl hW) (only_State_onHart (sub_trans rfl hW) (hx5 _ hx9))
    all_goals exact only_raise (sub_trans rfl hW) (hx5 _ (only_cacheDeny (sub_trans rfl hW) hs))

theorem only_execSc {W : Nat} {s0 : State} (hW : Sub 0xe0000007000000000000000000000000000000000000018404 W)  {i : Issue} {rd : Nat} {acc : MemAcc} {v : Word} {s : State} (hs : Only W s0 s) :
    OnlyOut W s0 (execSc i rd acc v s) := by
  unfold execSc
  refine onlyOut_ite ?_ ?_
  · exact only_next hs
  · refine onlyOut_ite ?_ ?_
    · exact only_next (only_raise (sub_trans rfl hW) hs)
    · split
      · rename_i e1
        have k2 := only_accCheck (sub_trans rfl hW) (by assumption) _ e1
        refine only_next ?_
        refine only_raise (sub_trans rfl hW) ?_
        assumption
      · refine onlyOut_ite ?_ ?_
        · exact only_next (only_raise (sub_trans rfl hW) hs)
        · exact only_next (only_scDo (sub_trans rfl hW) hs)

theorem only_execFence {W : Nat} {s0 : State} (hW : Sub 0x400 W)  {i : Issue} {pred : Nat} {z2 : Nat} {s : State} (hs : Only W s0 s) :
    OnlyOut W s0 (execFence i pred z2 s) := by
  unfold execFence
  extract_lets +onlyGivenNames -merge -useContext -underBinder x1
  refine only_next ?_
  refine only_ite ?_ ?_
  · exact only_pass (sub_trans rfl hW) hs
  · exact hs

theorem only_execFenceI {W : Nat} {s0 : State} (hW : Sub 0x400 W)  {i : Issue} {s : State} (hs : Only W s0 s) :
    OnlyOut W s0 (execFenceI i s) := by
  unfold execFenceI
  refine only_next ?_
  refine only_ite ?_ ?_
  · exact only_pass (sub_trans rfl hW) hs
  · exact hs

theorem only_execSfenceVma {W : Nat} {s0 : State} (hW : Sub 0x400 W)  {i : Issue} {s : State} (hs : Only W s0 s) :
    OnlyOut W s0 (execSfenceVma i s) := by
  unfold execSfenceVma
  refine onlyOut_ite ?_ ?_
  · exact only_next hs
  · split
    · exact only_next (only_raiseEnc (sub_trans rfl hW) hs)
    · exact only_next (only_pass (sub_trans rfl hW) hs)

theorem only_park {W : Nat} {s0 : State} (hW : Sub 0x400 W)  {ha : Nat} {k : WaitKind} {s : State} (hs : Only W s0 s) :
    Only W s0 (park ha k s) := by
  unfold park
  exact only_State_onHart (sub_trans rfl hW) hs

theorem only_execWfi {W : Nat} {s0 : State} (hW : Sub 0x400 W)  {i : Issue} {s : State} (hs : Only W s0 s) :
    OnlyOut W s0 (execWfi i s) := by
  unfold execWfi
  refine onlyOut_ite ?_ ?_
  · exact only_next hs
  · refine onlyOut_ite ?_ ?_
    · exact only_next (only_pass (sub_trans rfl hW) hs)
    · split
      · exact only_next (only_raiseEnc (sub_trans rfl hW) hs)
      · exact only_next (only_park (sub_trans rfl hW) (only_pass (sub_trans rfl hW) hs))

theorem only_wrsDo {W : Nat} {s0 : State} (hW : Sub 0x400 W)  {i : Issue} {sto : Bool} {s : State} (hs : Only W s0 s) :
    Only W s0 (wrsDo i sto s) := by
  unfold wrsDo
  refine only_ite ?_ ?_
  · exact hs
  · refine only_ite ?_ ?_
    · exact only_pass (sub_trans rfl hW) hs
    · exact only_park (sub_trans rfl hW) (only_pass (sub_trans rfl hW) hs)

theorem only_execWrsNto {W : Nat} {s0 : State} (hW : Sub 0x400 W)  {i : Issue} {s : State} (hs : Only W s0 s) :
    OnlyOut W s0 (execWrsNto i s) := by
  unfold execWrsNto
  exact only_next (only_wrsDo (sub_trans rfl hW) hs)

theorem only_execWrsSto {W : Nat} {s0 : State} (hW : Sub 0x400 W)  {i : Issue} {s : State} (hs : Only W s0 s) :
    OnlyOut W s0 (execWrsSto i s) := by
  unfold execWrsSto
  exact only_next (only_wrsDo (sub_trans rfl hW) hs)

theorem only_mretSwitch {W : Nat} {s0 : State} (hW : Sub 0x38000000000c04 W)  {ha : Nat} {s : State} (hs : Only W s0 s) :
    Only W s0 (mretSwitch ha s) := by
  unfold mretSwitch
  extract_lets +onlyGivenNames -merge -useContext -underBinder x1
  extract_lets +onlyGivenNames -merge -useContext -underBinder x2
  have hx2 : Only W s0 (x2) := only_State_onHart (sub_trans rfl hW) (only_worldSwitch (sub_trans rfl hW) hs)
  try clear_value x2
  exact only_haltTry (sub_trans rfl hW) (only_traceGap (sub_trans rfl hW) hx2)

theorem only_execMret {W : Nat} {s0 : State} (hW : Sub 0x38000000000c04 W)  {i : Issue} {s : State} (hs : Only W s0 s) :
    OnlyOut W s0 (execMret i s) := by
  unfold execMret
  extract_lets +onlyGivenNames -merge -useContext -underBinder x1
  refine onlyOut_ite ?_ ?_
  · exact only_next hs
  · refine onlyOut_ite ?_ ?_
    · exact only_next (only_raiseEnc (sub_trans rfl hW) hs)
    · refine onlyOut_ite ?_ ?_
      · refine onlyOut_ite ?_ ?_
        · exact only_next hs
        · extract_lets +onlyGivenNames -merge -useContext -underBinder x2
          have hx2 : Only W s0 (x2) := only_traceEmit (sub_trans rfl hW) hs
          try clear_value x2
          exact only_next (only_mretSwitch (sub_trans rfl hW) hx2)
      · extract_lets +onlyGivenNames -merge -useContext -underBinder x3
        have hx3 : Only W s0 (x3) := only_State_onHart (sub_trans rfl hW) hs
        try clear_value x3
        exact only_next (only_traceEmit (sub_trans rfl hW) hx3)

theorem only_execXret {W : Nat} {s0 : State} (hW : Sub 0xc00 W)  {i : Issue} {lvl : Nat} {s : State} (hs : Only W s0 s) :
    OnlyOut W s0 (execXret i lvl s) := by
  unfold execXret
  extract_lets +onlyGivenNames -merge -useContext -underBinder x1
  refine onlyOut_ite ?_ ?_
  · exact only_next hs
  · refine onlyOut_ite ?_ ?_
    · refine onlyOut_ite ?_ ?_
      · exact only_next hs
      · refine onlyOut_ite ?_ ?_
        · exact only_next (only_raiseEnc (sub_trans rfl hW) hs)
        · extract_lets +onlyGivenNames -merge -useContext -underBinder x2
          have hx2 : Only W s0 (x2) := only_State_onHart (sub_trans rfl hW) hs
          try clear_value x2
          exact only_next (only_traceEmit (sub_trans rfl hW) hx2)
    · split
      · exact only_next (only_raiseEnc (sub_trans rfl hW) hs)
      · extract_lets +onlyGivenNames -merge -useContext -underBinder x3
        have hx3 : Only W s0 (x3) := only_State_onHart (sub_trans rfl hW) hs
        try clear_value x3
        exact only_next (only_traceEmit (sub_trans rfl hW) hx3)

theorem only_trapTake {W : Nat} {s0 : State} (hW : Sub 0xc00 W)  {ha : Nat} {lvl : Nat} {isInt : Bool} {cause : Nat} {tval : Word} {epc : Word} {s : State} (hs : Only W s0 s) :
    Only W s0 (trapTake ha lvl isInt cause tval epc s) := by
  unfold trapTake
  extract_lets +onlyGivenNames -merge -useContext -underBinder x1
  have hx1 : Only W s0 (x1) := only_traceEmit (sub_trans rfl hW) hs
  try clear_value x1
  exact only_State_onHart (sub_trans rfl hW) hx1

theorem only_execTrapEntry {W : Nat} {s0 : State} (hW : Sub 0xc00 W)  {hart : Nat} {s : State} (hs : Only W s0 s) :
    OnlyOut W s0 (execTrapEntry hart s) := by
  unfold execTrapEntry
  extract_lets +onlyGivenNames -merge -useContext -underBinder x1
  refine onlyOut_ite ?_ ?_
  · exact only_next hs
  · split
    · exact only_next (only_trapTake (sub_trans rfl hW) hs)
    · refine onlyOut_ite ?_ ?_
      · exact only_next hs
      · split
        · exact only_next (only_trapTake (sub_trans rfl hW) hs)
        · exact only_next hs

theorem only_execStoreBufferEntryLeave {W : Nat} {s0 : State} (hW : Sub 0xe0000007000000000004280000000c0c000000000040039c0c W)  {hart : Nat} {ce : Option CacheErr} {s : State} (hs : Only W s0 s) :
    OnlyOut W s0 (execStoreBufferEntryLeave hart ce s) := by
  unfold execStoreBufferEntryLeave
  refine onlyOut_ite ?_ ?_
  · exact only_next hs
  · extract_lets +onlyGivenNames -merge -useContext -underBinder x1
    have hx1 : Only W s0 (x1) := by
      unfold x1
      split
      · refine only_ite ?_ ?_
        · exact only_cacheError (sub_trans rfl hW) hs
        · exact hs
      · exact hs
    try clear_value x1
    exact only_next (only_sbLeave (sub_trans rfl hW) hx1)

end Sys2Proof.Machine
end

