-- ==== Sys2Proof/Laws/KeepTimed.lean ====
section
/-! SUPPORT. What the definitions of Machine/Timed.lean leave alone: one lemma for each that answers a state. -/
namespace Sys2Proof.Machine

theorem only_putX {W : Nat} {s0 : State} (hW : Sub 0x400 W)  {ha : Nat} {rd : Nat} {v : Word} {s : State} (hs : Only W s0 s) :
    Only W s0 (putX ha rd v s) := by
  unfold putX
  exact only_State_onHart (sub_trans rfl hW) hs

theorem only_unstall {W : Nat} {s0 : State} (hW : Sub 0x400 W)  {ha : Nat} {len : Nat} {s : State} (hs : Only W s0 s) :
    Only W s0 (unstall ha len s) := by
  unfold unstall
  exact only_State_onHart (sub_trans rfl hW) hs

theorem only_execPhRead {W : Nat} {s0 : State} (hW : Sub 0x400 W)  {i : Issue} {s : State} (hs : Only W s0 s) :
    OnlyOut W s0 (execPhRead i s) := by
  unfold execPhRead
  refine only_next ?_
  refine only_xtRun (sub_trans rfl hW) ?_ ?_
  · intro y1 hy1
    exact only_pass (sub_trans rfl hW) (only_putX (sub_trans rfl hW) hy1)
  · exact hs

theorem only_execPhWait {W : Nat} {s0 : State} (hW : Sub 0x400 W)  {i : Issue} {target : Word} {s : State} (hs : Only W s0 s) :
    OnlyOut W s0 (execPhWait i target s) := by
  unfold execPhWait
  refine only_next ?_
  refine only_xtRun (sub_trans rfl hW) ?_ ?_
  · intro y1 hy1
    extract_lets +onlyGivenNames -merge -useContext -underBinder x2
    refine only_ite ?_ ?_
    · exact only_State_onHart (sub_trans rfl hW) hy1
    · exact only_pass (sub_trans rfl hW) (only_putX (sub_trans rfl hW) hy1)
  · exact hs

theorem only_phWaitLost {W : Nat} {s0 : State} (hW : Sub 0x400 W)  {ha : Nat} {s : State} (hs : Only W s0 s) :
    Only W s0 (phWaitLost ha s) := by
  unfold phWaitLost
  split
  · exact only_State_onHart (sub_trans rfl hW) hs
  · exact hs

theorem only_execPhWaitComplete {W : Nat} {s0 : State} (hW : Sub 0x400 W)  {hart : Nat} {s : State} (hs : Only W s0 s) :
    OnlyOut W s0 (execPhWaitComplete hart s) := by
  unfold execPhWaitComplete
  extract_lets +onlyGivenNames -merge -useContext -underBinder x1
  split
  · refine onlyOut_ite ?_ ?_
    · exact only_next hs
    · refine onlyOut_ite ?_ ?_
      · exact only_next (only_phWaitLost (sub_trans rfl hW) hs)
      · refine onlyOut_ite ?_ ?_
        · exact only_next hs
        · exact only_next (only_unstall (sub_trans rfl hW) (only_putX (sub_trans rfl hW) hs))
  · exact only_next hs

theorem only_execReplicaValidLost {W : Nat} {s0 : State} (hW : Sub 0x2000000404 W)  {d : Nat} {s : State} (hs : Only W s0 s) :
    OnlyOut W s0 (execReplicaValidLost d s) := by
  unfold execReplicaValidLost
  refine onlyOut_ite ?_ ?_
  · refine only_next ?_
    refine only_iter (fun x t ht => ?_) ?_
    · refine only_ite ?_ ?_
      · refine only_phWaitLost (sub_trans rfl hW) ?_
        refine only_iter (fun x t ht => ?_) ?_
        · refine only_deadlineTest (sub_trans rfl hW) ?_
          assumption
        · assumption
      · assumption
    · exact only_replicaLost (sub_trans rfl hW) hs
  · exact only_next hs

theorem only_tsAlloc {W : Nat} {s0 : State} (hW : Sub 0x4080000000000000604 W)  {ha : Nat} {x : TsInfo} {pbmt : Nat} {cls : TClass} {s : State} (hs : Only W s0 s) :
    Only W s0 (tsAlloc ha x pbmt cls s) := by
  unfold tsAlloc
  extract_lets +onlyGivenNames -merge -useContext -underBinder x1
  extract_lets +onlyGivenNames -merge -useContext -underBinder x2
  have hx2 : Only W s0 (x2) := only_State_setTsQ (sub_trans rfl hW) hs
  try clear_value x2
  exact only_sbCount (sub_trans rfl hW) (only_State_onHart (sub_trans rfl hW) hx2)

theorem only_tsStoreDo {W : Nat} {s0 : State} (hW : Sub 0xe0000007000000000000000000000004080000000000000604 W)  {i : Issue} {va : Word} {y : Xlate} {data : Nat} {phase : Word} {s : State} (hs : Only W s0 s) :
    Only W s0 (tsStoreDo i va y data phase s) := by
  unfold tsStoreDo
  extract_lets +onlyGivenNames -merge -useContext -underBinder x1
  split
  · rename_i e2
    have k3 := only_xlated (sub_trans rfl hW) (by assumption) _ e2
    refine only_raise (sub_trans rfl hW) ?_
    assumption
  · split
    · exact only_raise (sub_trans rfl hW) hs
    · extract_lets +onlyGivenNames -merge -useContext -underBinder x4
      extract_lets +onlyGivenNames -merge -useContext -underBinder x5
      refine only_ite ?_ ?_
      · exact only_pass (sub_trans rfl hW) (only_tsAlloc (sub_trans rfl hW) hs)
      · refine only_ite ?_ ?_
        · exact only_raiseEnc (sub_trans rfl hW) hs
        · exact only_State_onHart (sub_trans rfl hW) hs

theorem only_execTsStore {W : Nat} {s0 : State} (hW : Sub 0xe0000007000000000000000000000004080000000000000604 W)  {i : Issue} {va : Word} {x : Xlate} {data : Nat} {phase : Word} {s : State} (hs : Only W s0 s) :
    OnlyOut W s0 (execTsStore i va x data phase s) := by
  unfold execTsStore
  refine only_next ?_
  refine only_xtRun (sub_trans rfl hW) ?_ ?_
  · intro y1 hy1
    exact only_tsStoreDo (sub_trans rfl hW) hy1
  · exact hs

theorem only_execTsStoreUnstall {W : Nat} {s0 : State} (hW : Sub 0x4080000000000000604 W)  {hart : Nat} {s : State} (hs : Only W s0 s) :
    OnlyOut W s0 (execTsStoreUnstall hart s) := by
  unfold execTsStoreUnstall
  split
  · refine onlyOut_ite ?_ ?_
    · exact only_next (only_unstall (sub_trans rfl hW) (only_tsAlloc (sub_trans rfl hW) hs))
    · exact only_next hs
  · exact only_next hs

theorem only_execTimedStore {W : Nat} {s0 : State} (hW : Sub 0x8000000000008000000000000020c W)  {hart : Nat} {id : Nat} {s : State} (hs : Only W s0 s) :
    OnlyOut W s0 (execTimedStore hart id s) := by
  unfold execTimedStore
  refine onlyOut_ite ?_ ?_
  · exact only_next hs
  · extract_lets +onlyGivenNames -merge -useContext -underBinder x1
    have hx1 : Only W s0 (x1) := only_State_take (sub_trans rfl hW) hs
    try clear_value x1
    split
    · exact only_next hx1
    · extract_lets +onlyGivenNames -merge -useContext -underBinder x2
      have hx2 : Only W s0 (x2) := only_State_setTsQ (sub_trans rfl hW) hx1
      try clear_value x2
      refine onlyOut_ite ?_ ?_
      · exact only_next (only_tsMatch (sub_trans rfl hW) hx2)
      · exact only_next hx2

theorem only_execTimedStoreMatch {W : Nat} {s0 : State} (hW : Sub 0x80000000000000204 W)  {hart : Nat} {id : Nat} {s : State} (hs : Only W s0 s) :
    OnlyOut W s0 (execTimedStoreMatch hart id s) := by
  unfold execTimedStoreMatch
  split
  · exact only_next hs
  · extract_lets +onlyGivenNames -merge -useContext -underBinder x1
    extract_lets +onlyGivenNames -merge -useContext -underBinder x2
    refine onlyOut_ite ?_ ?_
    · exact only_next (only_tsMatch (sub_trans rfl hW) hs)
    · exact only_next hs

theorem only_execTimedStoreCommitIssue {W : Nat} {s0 : State} (hW : Sub 0x428000000000008000000000002120c W)   {s : State} (hs : Only W s0 s) :
    OnlyOut W s0 (execTimedStoreCommitIssue s) := by
  unfold execTimedStoreCommitIssue
  split
  · exact only_next hs
  · extract_lets +onlyGivenNames -merge -useContext -underBinder x1
    extract_lets +onlyGivenNames -merge -useContext -underBinder x2
    have hx2 : Only W s0 (x2) := only_State_setTsQ (sub_trans rfl hW) hs
    try clear_value x2
    exact only_next (only_openTx (sub_trans rfl hW) hx2)

theorem only_tsDone {W : Nat} {s0 : State} (hW : Sub 0x180000000000000204 W)  {ha : Nat} {id : Nat} {err : Bool} {s : State} (hs : Only W s0 s) :
    Only W s0 (tsDone ha id err s) := by
  unfold tsDone
  split
  · exact hs
  · extract_lets +onlyGivenNames -merge -useContext -underBinder x1
    extract_lets +onlyGivenNames -merge -useContext -underBinder x2
    have hx2 : Only W s0 (x2) := only_State_setTsQ (sub_trans rfl hW) hs
    try clear_value x2
    refine only_ite ?_ ?_
    · exact only_State_setF (sub_trans rfl hW) (only_State_setB (sub_trans rfl hW) hx2)
    · exact hx2

theorem only_execTsCancelI {W : Nat} {s0 : State} (hW : Sub 0xe000000700000000000000000000000000000000000000040c W)  {i : Issue} {va : Word} {x : Xlate} {s : State} (hs : Only W s0 s) :
    OnlyOut W s0 (execTsCancelI i va x s) := by
  unfold execTsCancelI
  extract_lets +onlyGivenNames -merge -useContext -underBinder x1
  extract_lets +onlyGivenNames -merge -useContext -underBinder x2
  have hx2 : ∀ y0 y1, Only W s0 (y1) → Only W s0 (x2 y0 y1) := by
    unfold x2
    intro y3 y4 hy4
    exact only_State_onHart (sub_trans rfl hW) (only_State_send (sub_trans rfl hW) hy4)
  try clear_value x2
  refine only_next ?_
  refine only_xtRun (sub_trans rfl hW) ?_ ?_
  · intro y5 hy5
    refine only_ite ?_ ?_
    · exact hx2 _ _ hy5
    · split
      · rename_i e6
        have k7 := only_xlated (sub_trans rfl hW) (by assumption) _ e6
        refine only_raise (sub_trans rfl hW) ?_
        assumption
      · exact hx2 _ _ hy5
  · exact hs

theorem only_execTimedStoreCancel {W : Nat} {s0 : State} (hW : Sub 0x8000000000008000000000000060c W)  {hart : Nat} {w : Bool} {addr : Option Nat} {s : State} (hs : Only W s0 s) :
    OnlyOut W s0 (execTimedStoreCancel hart w addr s) := by
  unfold execTimedStoreCancel
  refine onlyOut_ite ?_ ?_
  · exact only_next hs
  · extract_lets +onlyGivenNames -merge -useContext -underBinder x1
    have hx1 : Only W s0 (x1) := only_State_take (sub_trans rfl hW) hs
    try clear_value x1
    extract_lets +onlyGivenNames -merge -useContext -underBinder x2
    extract_lets +onlyGivenNames -merge -useContext -underBinder x3
    extract_lets +onlyGivenNames -merge -useContext -underBinder x4
    have hx4 : Only W s0 (x4) := only_State_setTsQ (sub_trans rfl hW) hx1
    try clear_value x4
    split
    · exact only_next (only_unstall (sub_trans rfl hW) (only_putX (sub_trans rfl hW) hx4))
    · exact only_next hx4

theorem only_execDlSet {W : Nat} {s0 : State} (hW : Sub 0x400 W)  {i : Issue} {v : Word} {s : State} (hs : Only W s0 s) :
    OnlyOut W s0 (execDlSet i v s) := by
  unfold execDlSet
  refine only_next ?_
  refine only_xtRun (sub_trans rfl hW) ?_ ?_
  · intro y1 hy1
    exact only_pass (sub_trans rfl hW) (only_State_onHart (sub_trans rfl hW) hy1)
  · exact hs

theorem only_execDlClr {W : Nat} {s0 : State} (hW : Sub 0x400 W)  {i : Issue} {s : State} (hs : Only W s0 s) :
    OnlyOut W s0 (execDlClr i s) := by
  unfold execDlClr
  refine only_next ?_
  refine only_xtRun (sub_trans rfl hW) ?_ ?_
  · intro y1 hy1
    extract_lets +onlyGivenNames -merge -useContext -underBinder x2
    extract_lets +onlyGivenNames -merge -useContext -underBinder x3
    have hx3 : Only W s0 (x3) := only_deadlineTest (sub_trans rfl hW) hy1
    try clear_value x3
    extract_lets +onlyGivenNames -merge -useContext -underBinder x4
    exact only_pass (sub_trans rfl hW) (only_State_onHart (sub_trans rfl hW) hx3)
  · exact hs

theorem only_execDeadlineMiss {W : Nat} {s0 : State} (hW : Sub 0x400 W)  {hart : Nat} {mon : Nat} {s : State} (hs : Only W s0 s) :
    OnlyOut W s0 (execDeadlineMiss hart mon s) := by
  unfold execDeadlineMiss
  exact only_next (only_deadlineTest (sub_trans rfl hW) hs)

theorem only_descLoad {W : Nat} {s0 : State} (hW : Sub 0xe0000007000000000004280000000000000000000040039c0c W)  {ha : Nat} {d : Nat} {x : Xlate} {s : State} (hs : Only W s0 s) :
    Only W s0 (descLoad ha d x s) := by
  unfold descLoad
  extract_lets +onlyGivenNames -merge -useContext -underBinder x1
  extract_lets +onlyGivenNames -merge -useContext -underBinder x2
  split
  · rename_i e3
    replace e3 := congrArg (fun p => p.2.2) e3
    dsimp only at e3
    refine only_of_eq (W := W) (s0 := s0) e3 ?_ (fun k4 => ?_)
    · split
      · rename_i e5
        have k6 := only_xlated (sub_trans rfl hW) (by assumption) _ e5
        refine only_sndsnd_mk ?_
        refine only_snd_mk ?_
        assumption
      · refine only_ite_sndsnd ?_ ?_
        · exact only_sndsnd_mk (only_snd_mk hs)
        · exact only_sndsnd_mk (only_snd_mk hs)
    extract_lets +onlyGivenNames -merge -useContext -underBinder x7
    refine only_loadsPump (sub_trans rfl hW) ?_
    refine only_State_onHart (sub_trans rfl hW) ?_
    assumption

theorem only_beginTask {W : Nat} {s0 : State} (hW : Sub 0xe0000007000000000004280000000000000000000040039c0c W)  {ha : Nat} {d : Disp} {x : Xlate} {s : State} (hs : Only W s0 s) :
    Only W s0 (beginTask ha d x s) := by
  unfold beginTask
  split
  · exact only_taskStart (sub_trans rfl hW) (only_State_onHart (sub_trans rfl hW) hs)
  · exact only_descLoad (sub_trans rfl hW) (only_State_onHart (sub_trans rfl hW) hs)

theorem only_execTkYield {W : Nat} {s0 : State} (hW : Sub 0xe0000007000000000004280000000000000000000040039c0c W)  {i : Issue} {hint : Word} {x : Xlate} {s : State} (hs : Only W s0 s) :
    OnlyOut W s0 (execTkYield i hint x s) := by
  unfold execTkYield
  refine only_next ?_
  refine only_xtRun (sub_trans rfl hW) ?_ ?_
  · intro y1 hy1
    extract_lets +onlyGivenNames -merge -useContext -underBinder x2
    split
    · exact only_beginTask (sub_trans rfl hW) (only_State_onHart (sub_trans rfl hW) hy1)
    · refine only_ite ?_ ?_
      · exact hy1
      · refine only_ite ?_ ?_
        · exact only_park (sub_trans rfl hW) hy1
        · extract_lets +onlyGivenNames -merge -useContext -underBinder x3
          split
          · exact only_park (sub_trans rfl hW) (only_State_onHart (sub_trans rfl hW) hy1)
          · exact only_descLoad (sub_trans rfl hW) hy1
  · exact hs

theorem only_execTkArg {W : Nat} {s0 : State} (hW : Sub 0x400 W)  {i : Issue} {s : State} (hs : Only W s0 s) :
    OnlyOut W s0 (execTkArg i s) := by
  unfold execTkArg
  refine only_next ?_
  refine only_xtRun (sub_trans rfl hW) ?_ ?_
  · intro y1 hy1
    extract_lets +onlyGivenNames -merge -useContext -underBinder x2
    extract_lets +onlyGivenNames -merge -useContext -underBinder x3
    exact only_pass (sub_trans rfl hW) (only_putX (sub_trans rfl hW) hy1)
  · exact hs

end Sys2Proof.Machine
end

