-- ==== Sys2Proof/Laws/KeepCsr.lean ====
section
/-! SUPPORT. What the definitions of Machine/Csr.lean leave alone: one lemma for each that answers a state. -/
namespace Sys2Proof.Machine

theorem only_prefetchDrop {W : Nat} {s0 : State} (hW : Sub 0x10000 W)  {ha : Nat} {s : State} (hs : Only W s0 s) :
    Only W s0 (prefetchDrop ha s) := by
  unfold prefetchDrop
  extract_lets +onlyGivenNames -merge -useContext -underBinder x1
  refine only_l2Pend (sub_trans rfl hW) ?_ _
  exact hs

theorem only_csrWrite {W : Nat} {s0 : State} (hW : Sub 0x10402 W)  {ha : Nat} {a : Nat} {v : Word} {s : State} (hs : Only W s0 s) :
    Only W s0 (csrWrite ha a v s) := by
  unfold csrWrite
  extract_lets +onlyGivenNames -merge -useContext -underBinder x1
  extract_lets +onlyGivenNames -merge -useContext -underBinder x2
  try clear_value x2
  extract_lets +onlyGivenNames -merge -useContext -underBinder x3
  have hx3 : ∀ y0, Only W s0 (x3 y0) := by
    unfold x3
    intro y4
    exact only_State_setHart (sub_trans rfl hW) hs
  try clear_value x3
  split
  · refine hx3 _
  · refine only_prefetchDrop (sub_trans rfl hW) ?_
    refine hx3 _
  · refine hx3 _
  · refine hx3 _
  · refine hx3 _
  · refine hx3 _
  · refine hx3 _
  · exact hs
  · refine hx3 _
  · refine hx3 _
  · refine hx3 _
  · refine hx3 _
  · refine hx3 _
  · refine hx3 _
  · refine hx3 _
  · refine hx3 _
  · refine hx3 _
  · refine hx3 _
  · split
    · extract_lets +onlyGivenNames -merge -useContext -underBinder x5
      refine hx3 _
    · exact hs
  · split
    · extract_lets +onlyGivenNames -merge -useContext -underBinder x6
      refine hx3 _
    · exact hs
  · split
    · extract_lets +onlyGivenNames -merge -useContext -underBinder x7
      refine hx3 _
    · exact hs
  · refine hx3 _
  · refine hx3 _
  · refine hx3 _
  · refine hx3 _
  · refine hx3 _
  · refine hx3 _
  · refine hx3 _
  · refine hx3 _
  · refine hx3 _
  · refine hx3 _
  · refine hx3 _
  · refine hx3 _
  · exact hs
  · refine hx3 _
  · extract_lets +onlyGivenNames -merge -useContext -underBinder x8
    refine only_ite ?_ ?_
    · refine hx3 _
    · exact hs
  · extract_lets +onlyGivenNames -merge -useContext -underBinder x9
    refine only_ite ?_ ?_
    · refine hx3 _
    · exact hs
  · extract_lets +onlyGivenNames -merge -useContext -underBinder x10
    refine only_ite ?_ ?_
    · refine hx3 _
    · exact hs
  · refine only_ite ?_ ?_
    · refine only_State_bump (sub_trans rfl hW) ?_
      refine hx3 _
    · refine only_ite ?_ ?_
      · exact hs
      · refine only_ite ?_ ?_
        · refine only_ite ?_ ?_
          · exact hs
          · refine hx3 _
        · refine hx3 _

theorem only_csrDo {W : Nat} {s0 : State} (hW : Sub 0x10402 W)  {i : Issue} {addr : Nat} {op : Nat} {v : Word} {wr : Bool} {rd : Nat} {s : State} (hs : Only W s0 s) :
    Only W s0 (csrDo i addr op v wr rd s) := by
  unfold csrDo
  extract_lets +onlyGivenNames -merge -useContext -underBinder x1
  extract_lets +onlyGivenNames -merge -useContext -underBinder x2
  split
  · exact only_raiseEnc (sub_trans rfl hW) hs
  · extract_lets +onlyGivenNames -merge -useContext -underBinder x3
    refine only_ite ?_ ?_
    · exact only_raiseEnc (sub_trans rfl hW) hs
    · extract_lets +onlyGivenNames -merge -useContext -underBinder x4
      extract_lets +onlyGivenNames -merge -useContext -underBinder x5
      extract_lets +onlyGivenNames -merge -useContext -underBinder x6
      have hx6 : Only W s0 (x6) := only_State_bump (sub_trans rfl hW) hs
      try clear_value x6
      extract_lets +onlyGivenNames -merge -useContext -underBinder x7
      have hx7 : Only W s0 (x7) := by
        unfold x7
        refine only_ite ?_ ?_
        · exact only_csrWrite (sub_trans rfl hW) hx6
        · exact hx6
      try clear_value x7
      exact only_pass (sub_trans rfl hW) (only_State_onHart (sub_trans rfl hW) hx7)

theorem only_execCsrAccess {W : Nat} {s0 : State} (hW : Sub 0x10402 W)  {i : Issue} {addr : Nat} {op : Nat} {v : Word} {wr : Bool} {rd : Nat} {s : State} (hs : Only W s0 s) :
    OnlyOut W s0 (execCsrAccess i addr op v wr rd s) := by
  unfold execCsrAccess
  extract_lets +onlyGivenNames -merge -useContext -underBinder x1
  refine only_next ?_
  refine only_ite ?_ ?_
  · exact only_csrDo (sub_trans rfl hW) hs
  · exact hs

theorem only_execMzdcfgWrite {W : Nat} {s0 : State} (hW : Sub 0x10402 W)  {i : Issue} {v : Word} {rd : Nat} {s : State} (hs : Only W s0 s) :
    OnlyOut W s0 (execMzdcfgWrite i v rd s) := by
  unfold execMzdcfgWrite
  refine only_next ?_
  refine only_ite ?_ ?_
  · exact only_csrDo (sub_trans rfl hW) hs
  · exact hs

theorem only_execSzdtdbaseWrite {W : Nat} {s0 : State} (hW : Sub 0x10402 W)  {i : Issue} {v : Word} {rd : Nat} {s : State} (hs : Only W s0 s) :
    OnlyOut W s0 (execSzdtdbaseWrite i v rd s) := by
  unfold execSzdtdbaseWrite
  refine only_next ?_
  refine only_ite ?_ ?_
  · exact only_csrDo (sub_trans rfl hW) hs
  · exact hs

end Sys2Proof.Machine
end

