-- ==== Sys2Proof/Laws/KeepCaches.lean ====
section
/-! SUPPORT. What the definitions of Machine/Caches.lean leave alone: one lemma for each that answers a state. -/
namespace Sys2Proof.Machine

theorem only_guardedCd {W : Nat} {s0 : State} (hW : Sub 0xe0000007000000000000000000000000000000000000000024 W)  {n : Nat} {a : Access} {write : Bool} {g : Reg} {i : Nat} {act : State → State} (hact : ∀ y0, Only W s0 (y0) → Only W s0 (act y0)) {s : State} (hs : Only W s0 s) :
    Only W s0 (guardedCd n a write g i act s) := by
  unfold guardedCd
  refine only_ite ?_ ?_
  · refine only_guarded (sub_trans rfl hW) ?_ ?_
    · intro y1 hy1
      refine hact _ ?_
      exact hy1
    · exact hs
  · exact only_State_answerErr (sub_trans rfl hW) hs

theorem only_l2Clean {W : Nat} {s0 : State} (hW : Sub 0x8000000000000000000000001800c W)  {np : Nat} {k : Nat} {s : State} (hs : Only W s0 s) :
    Only W s0 (l2Clean np k s) := by
  unfold l2Clean
  extract_lets +onlyGivenNames -merge -useContext -underBinder x1
  refine only_ite ?_ ?_
  · exact hs
  · extract_lets +onlyGivenNames -merge -useContext -underBinder x2
    have hx2 : Only W s0 (x2) := by
      unfold x2
      split
      · exact only_State_setL3 (sub_trans rfl hW) hs
      · exact only_toSlice (sub_trans rfl hW) hs
    try clear_value x2
    exact only_State_setL2 (sub_trans rfl hW) hx2

theorem only_l2Discard {W : Nat} {s0 : State} (hW : Sub 0x8000000000000000000000001040c W)  {np : Nat} {k : Nat} {s : State} (hs : Only W s0 s) :
    Only W s0 (l2Discard np k s) := by
  unfold l2Discard
  extract_lets +onlyGivenNames -merge -useContext -underBinder x1
  refine only_ite ?_ ?_
  · exact hs
  · extract_lets +onlyGivenNames -merge -useContext -underBinder x2
    have hx2 : Only W s0 (x2) := by
      unfold x2
      refine only_loseResv (sub_trans rfl hW) ?_
      refine only_replayLine (sub_trans rfl hW) ?_
      exact only_l1Drop (sub_trans rfl hW) (only_State_setL2 (sub_trans rfl hW) hs)
    try clear_value x2
    exact only_toSlice (sub_trans rfl hW) hx2

theorem only_l2EvictAll {W : Nat} {s0 : State} (hW : Sub 0x8000000000000000000000001040c W)  {np : Nat} {p : L2Line → Bool} {s : State} (hs : Only W s0 s) :
    Only W s0 (l2EvictAll np p s) := by
  unfold l2EvictAll
  refine only_foldl (fun t x ht => ?_) ?_
  · refine only_l2Evict (sub_trans rfl hW) ?_
    assumption
  · exact hs

theorem only_l1DropRange {W : Nat} {s0 : State} (hW : Sub 0x10000 W)  {np : Nat} {r : RangeRun} {s : State} (hs : Only W s0 s) :
    Only W s0 (l1DropRange np r s) := by
  unfold l1DropRange
  extract_lets +onlyGivenNames -merge -useContext -underBinder x1
  extract_lets +onlyGivenNames -merge -useContext -underBinder x2
  refine only_foldl (fun t x ht => ?_) ?_
  · refine only_l1Drop (sub_trans rfl hW) ?_
    assumption
  · exact hs

theorem only_coreRange {W : Nat} {s0 : State} (hW : Sub 0x8000000000000000000000001840c W)  {np : Nat} {r : RangeRun} {s : State} (hs : Only W s0 s) :
    Only W s0 (coreRange np r s).2 := by
  unfold coreRange
  extract_lets +onlyGivenNames -merge -useContext -underBinder x1
  extract_lets +onlyGivenNames -merge -useContext -underBinder x2
  have hx2 : Only W s0 (x2) := by
    unfold x2
    refine only_ite ?_ ?_
    · exact hs
    · refine only_foldl (fun t x ht => ?_) ?_
      · refine only_l2Clean (sub_trans rfl hW) ?_
        assumption
      · exact hs
  try clear_value x2
  refine only_ite_snd ?_ ?_
  · exact only_snd_mk hx2
  · extract_lets +onlyGivenNames -merge -useContext -underBinder x3
    refine only_snd_mk ?_
    refine only_l1DropRange (sub_trans rfl hW) ?_
    refine only_foldl (fun t x ht => ?_) ?_
    · refine only_l2Discard (sub_trans rfl hW) ?_
      assumption
    · exact hx2

theorem only_l3Discard {W : Nat} {s0 : State} (hW : Sub 0x428000000200000000000000003840c W)  {k : Nat} {s : State} (hs : Only W s0 s) :
    Only W s0 (l3Discard k s) := by
  unfold l3Discard
  extract_lets +onlyGivenNames -merge -useContext -underBinder x1
  extract_lets +onlyGivenNames -merge -useContext -underBinder x2
  extract_lets +onlyGivenNames -merge -useContext -underBinder x3
  have hx3 : Only W s0 (x3) := by
    unfold x3
    refine only_foldl (fun t x ht => ?_) ?_
    · refine only_coreStrip (sub_trans rfl hW) ?_
      assumption
    · exact hs
  try clear_value x3
  extract_lets +onlyGivenNames -merge -useContext -underBinder x4
  have hx4 : Only W s0 (x4) := only_vbPut (sub_trans rfl hW) (only_State_setL3 (sub_trans rfl hW) hx3)
  try clear_value x4
  exact only_toHome (sub_trans rfl hW) hx4

theorem only_dieNext {W : Nat} {s0 : State} (hW : Sub 0x428000000200000000000000003940c W)  {n : Nat} {r : RangeRun} {s : State} (hs : Only W s0 s) :
    Only W s0 (dieNext n r s).2 := by
  unfold dieNext
  split
  · exact only_snd_mk hs
  · extract_lets +onlyGivenNames -merge -useContext -underBinder x1
    refine only_ite_snd ?_ ?_
    · exact only_snd_mk (only_openTx (sub_trans rfl hW) hs)
    · split
      · refine only_ite_snd ?_ ?_
        · refine only_snd_mk ?_
          refine only_ite ?_ ?_
          · exact only_l3Evict (sub_trans rfl hW) hs
          · exact only_l3Discard (sub_trans rfl hW) hs
        · exact only_snd_mk hs
      · exact only_snd_mk hs

theorem only_preloadNext {W : Nat} {s0 : State} (hW : Sub 0x428000000000000000000000003800c W)  {r : RangeRun} {s : State} (hs : Only W s0 s) :
    Only W s0 (preloadNext r s).2 := by
  unfold preloadNext
  split
  · exact only_snd_mk hs
  · refine only_ite_snd ?_ ?_
    · refine only_ite_snd ?_ ?_
      · exact only_snd_mk hs
      · refine only_ite_snd ?_ ?_
        · exact only_snd_mk hs
        · exact only_snd_mk (only_l2Ask (sub_trans rfl hW) hs)
    · extract_lets +onlyGivenNames -merge -useContext -underBinder x1
      refine only_ite_snd ?_ ?_
      · exact only_snd_mk hs
      · refine only_ite_snd ?_ ?_
        · exact only_snd_mk hs
        · exact only_snd_mk (only_askHome (sub_trans rfl hW) hs)

theorem only_rangeGo {W : Nat} {s0 : State} (hW : Sub 0x428000000200000000000000003940c W)  {e : Nat} {s : State} (hs : Only W s0 s) :
    Only W s0 (rangeGo e s) := by
  unfold rangeGo
  extract_lets +onlyGivenNames -merge -useContext -underBinder x1
  refine only_iter (fun x t ht => ?_) ?_
  · split
    · assumption
    · refine only_ite ?_ ?_
      · assumption
      · split
        · rename_i e2
          replace e2 := congrArg Prod.snd e2
          dsimp only at e2
          refine only_of_eq (W := W) (s0 := s0) e2 ?_ (fun k3 => ?_)
          · refine only_ite_snd ?_ ?_
            · refine only_preloadNext (sub_trans rfl hW) ?_
              assumption
            · refine only_dieNext (sub_trans rfl hW) ?_
              assumption
          refine only_ranges (sub_trans rfl hW) ?_ _
          assumption
  · exact hs

theorem only_rangeStart {W : Nat} {s0 : State} (hW : Sub 0x428000000220200000000000003940c W)  {a : Access} {e : Nat} {cmd : Nat} {s : State} (hs : Only W s0 s) :
    Only W s0 (rangeStart a e cmd s) := by
  unfold rangeStart
  extract_lets +onlyGivenNames -merge -useContext -underBinder x1
  extract_lets +onlyGivenNames -merge -useContext -underBinder x2
  extract_lets +onlyGivenNames -merge -useContext -underBinder x3
  refine only_ite ?_ ?_
  · exact hs
  · refine only_ite ?_ ?_
    · exact only_rsSetErr (sub_trans rfl hW) hs
    · refine only_ite ?_ ?_
      · exact only_rsSetErr (sub_trans rfl hW) hs
      · extract_lets +onlyGivenNames -merge -useContext -underBinder x4
        have hx4 : Only W s0 (x4) := by
          unfold x4
          refine only_rsSetLines (sub_trans rfl hW) ?_
          refine only_rsSetErr (sub_trans rfl hW) ?_
          exact only_rsSetDone (sub_trans rfl hW) (only_rsSetBusy (sub_trans rfl hW) hs)
        try clear_value x4
        extract_lets +onlyGivenNames -merge -useContext -underBinder x5
        refine only_ite ?_ ?_
        · refine only_rangeGo (sub_trans rfl hW) ?_
          refine only_ranges (sub_trans rfl hW) ?_ _
          exact hx4
        · split
          · rename_i e6
            replace e6 := congrArg Prod.snd e6
            dsimp only at e6
            refine only_of_eq (W := W) (s0 := s0) e6 ?_ (fun k7 => ?_)
            · exact only_coreRange (sub_trans rfl hW) hx4
            refine only_ranges (sub_trans rfl hW) ?_ _
            assumption

theorem only_rangeFinish {W : Nat} {s0 : State} (hW : Sub 0x428000000220200000000000003940c W)  {e : Nat} {s : State} (hs : Only W s0 s) :
    Only W s0 (rangeFinish e s) := by
  unfold rangeFinish
  extract_lets +onlyGivenNames -merge -useContext -underBinder x1
  have hx1 : Only W s0 (x1) := only_rangeGo (sub_trans rfl hW) hs
  try clear_value x1
  split
  · exact hx1
  · refine only_ite ?_ ?_
    · exact hx1
    · extract_lets +onlyGivenNames -merge -useContext -underBinder x2
      have hx2 : Only W s0 (x2) := by
        unfold x2
        refine only_ranges (sub_trans rfl hW) ?_ _
        exact hx1
      try clear_value x2
      refine only_rsSetLines (sub_trans rfl hW) ?_
      exact only_rsSetDone (sub_trans rfl hW) (only_rsSetBusy (sub_trans rfl hW) hx2)

theorem only_rangeCmd {W : Nat} {s0 : State} (hW : Sub 0xe000000700000000000428000000220200000000000003942c W)  {a : Access} {e : Nat} {cmd : Nat} {s : State} (hs : Only W s0 s) :
    Only W s0 (rangeCmd a e cmd s) := by
  unfold rangeCmd
  refine only_ite ?_ ?_
  · refine only_guardedCd (sub_trans rfl hW) ?_ ?_
    · intro y1 hy1
      exact only_rangeStart (sub_trans rfl hW) hy1
    · exact hs
  · refine only_guardedCd (sub_trans rfl hW) ?_ ?_
    · intro y2 hy2
      exact only_rangeStart (sub_trans rfl hW) hy2
    · exact hs

theorem only_execRangeClean {W : Nat} {s0 : State} (hW : Sub 0xe000000700000000000428000000220200000000000003942c W)  {a : Access} {eng : Nat} {s : State} (hs : Only W s0 s) :
    OnlyOut W s0 (execRangeClean a eng s) := by
  unfold execRangeClean
  exact only_next (only_rangeCmd (sub_trans rfl hW) hs)

theorem only_execRangeInval {W : Nat} {s0 : State} (hW : Sub 0xe000000700000000000428000000220200000000000003942c W)  {a : Access} {eng : Nat} {s : State} (hs : Only W s0 s) :
    OnlyOut W s0 (execRangeInval a eng s) := by
  unfold execRangeInval
  exact only_next (only_rangeCmd (sub_trans rfl hW) hs)

theorem only_execRangeCleanInval {W : Nat} {s0 : State} (hW : Sub 0xe000000700000000000428000000220200000000000003942c W)  {a : Access} {eng : Nat} {s : State} (hs : Only W s0 s) :
    OnlyOut W s0 (execRangeCleanInval a eng s) := by
  unfold execRangeCleanInval
  exact only_next (only_rangeCmd (sub_trans rfl hW) hs)

theorem only_execRangePreload {W : Nat} {s0 : State} (hW : Sub 0xe000000700000000000428000000220200000000000003942c W)  {a : Access} {eng : Nat} {s : State} (hs : Only W s0 s) :
    OnlyOut W s0 (execRangePreload a eng s) := by
  unfold execRangePreload
  exact only_next (only_rangeCmd (sub_trans rfl hW) hs)

theorem only_execRangeCommandDone {W : Nat} {s0 : State} (hW : Sub 0x428000000220200000000000003940c W)  {eng : Nat} {s : State} (hs : Only W s0 s) :
    OnlyOut W s0 (execRangeCommandDone eng s) := by
  unfold execRangeCommandDone
  exact only_next (only_rangeFinish (sub_trans rfl hW) hs)

theorem only_lockWrite {W : Nat} {s0 : State} (hW : Sub 0x232000000000000000004 W)  {isL3 : Bool} {idx : Nat} {v : Word} {s : State} (hs : Only W s0 s) :
    Only W s0 (lockWrite isL3 idx v s) := by
  unfold lockWrite
  refine only_ite ?_ ?_
  · extract_lets +onlyGivenNames -merge -useContext -underBinder x1
    extract_lets +onlyGivenNames -merge -useContext -underBinder x2
    extract_lets +onlyGivenNames -merge -useContext -underBinder x3
    extract_lets +onlyGivenNames -merge -useContext -underBinder x4
    refine only_ite ?_ ?_
    · exact only_State_setB (sub_trans rfl hW) hs
    · exact only_State_setR (sub_trans rfl hW) hs
  · extract_lets +onlyGivenNames -merge -useContext -underBinder x5
    extract_lets +onlyGivenNames -merge -useContext -underBinder x6
    refine only_ite ?_ ?_
    · exact only_State_setB (sub_trans rfl hW) hs
    · exact only_State_setR (sub_trans rfl hW) hs

theorem only_execLockRangeWrite {W : Nat} {s0 : State} (hW : Sub 0xe0000007000000000000000000000232000000000000000024 W)  {a : Access} {isL3 : Bool} {idx : Nat} {v : Word} {s : State} (hs : Only W s0 s) :
    OnlyOut W s0 (execLockRangeWrite a isL3 idx v s) := by
  unfold execLockRangeWrite
  refine only_next ?_
  refine only_ite ?_ ?_
  · refine only_guardedCd (sub_trans rfl hW) ?_ ?_
    · intro y1 hy1
      exact only_lockWrite (sub_trans rfl hW) hy1
    · exact hs
  · refine only_guardedCd (sub_trans rfl hW) ?_ ?_
    · intro y2 hy2
      exact only_lockWrite (sub_trans rfl hW) hy2
    · exact hs

theorem only_cacheCtrlWrite {W : Nat} {s0 : State} (hW : Sub 0x8000000000020000000000001840c W)  {np : Nat} {v : Word} {s : State} (hs : Only W s0 s) :
    Only W s0 (cacheCtrlWrite np v s) := by
  unfold cacheCtrlWrite
  extract_lets +onlyGivenNames -merge -useContext -underBinder x1
  extract_lets +onlyGivenNames -merge -useContext -underBinder x2
  extract_lets +onlyGivenNames -merge -useContext -underBinder x3
  have hx3 : Only W s0 (x3) := only_State_setB (sub_trans rfl hW) hs
  try clear_value x3
  extract_lets +onlyGivenNames -merge -useContext -underBinder x4 x5 x6
  have hx4 : Only W s0 (x4) := by
    unfold x4
    refine only_foldl (fun t x ht => ?_) ?_
    · refine only_l2Clean (sub_trans rfl hW) ?_
      assumption
    · exact hx3
  try clear_value x4
  have hx5 : Only W s0 (x5) := by
    unfold x5
    split
    · exact only_State_onHart (sub_trans rfl hW) hx4
    · exact hx4
  try clear_value x5
  have hx6 : Only W s0 (x6) := by
    unfold x6
    refine only_ite ?_ ?_
    · exact only_State_setB (sub_trans rfl hW) hx5
    · exact hx3
  try clear_value x6
  refine only_State_setB (sub_trans rfl hW) ?_
  exact only_State_setB (sub_trans rfl hW) (only_State_setB (sub_trans rfl hW) hx6)

theorem only_l2Drained {W : Nat} {s0 : State} (hW : Sub 0xe000000700000000000428000000220c200000000040039c0c W)  {np : Nat} {s : State} (hs : Only W s0 s) :
    Only W s0 (l2Drained np s) := by
  unfold l2Drained
  refine only_ite ?_ ?_
  · exact hs
  · extract_lets +onlyGivenNames -merge -useContext -underBinder x1
    extract_lets +onlyGivenNames -merge -useContext -underBinder x2
    extract_lets +onlyGivenNames -merge -useContext -underBinder x3
    extract_lets +onlyGivenNames -merge -useContext -underBinder x4
    have hx4 : Only W s0 (x4) := by
      unfold x4
      refine only_foldl (fun t x ht => ?_) ?_
      · extract_lets +onlyGivenNames -merge -useContext -underBinder x5
        refine only_State_setL3 (sub_trans rfl hW) ?_
        assumption
      · exact hs
    try clear_value x4
    extract_lets +onlyGivenNames -merge -useContext -underBinder x6
    have hx6 : Only W s0 (x6) := only_State_setB (sub_trans rfl hW) hx4
    try clear_value x6
    refine only_foldl (fun t x ht => ?_) ?_
    · refine only_slicePump (sub_trans rfl hW) ?_
      assumption
    · exact hx6

theorem only_execCacheDisable {W : Nat} {s0 : State} (hW : Sub 0xe000000700000000000008000000000020000000000001842c W)  {a : Access} {np : Nat} {v : Word} {s : State} (hs : Only W s0 s) :
    OnlyOut W s0 (execCacheDisable a np v s) := by
  unfold execCacheDisable
  refine only_next ?_
  refine only_guardedCd (sub_trans rfl hW) ?_ ?_
  · intro y1 hy1
    exact only_cacheCtrlWrite (sub_trans rfl hW) hy1
  · exact hs

theorem only_execL2DrainComplete {W : Nat} {s0 : State} (hW : Sub 0xe000000700000000000428000000220c200000000040039c0c W)  {np : Nat} {s : State} (hs : Only W s0 s) :
    OnlyOut W s0 (execL2DrainComplete np s) := by
  unfold execL2DrainComplete
  exact only_next (only_l2Drained (sub_trans rfl hW) hs)

theorem only_execCacheEnable {W : Nat} {s0 : State} (hW : Sub 0xe000000700000000000008000000000020000000000001842c W)  {a : Access} {np : Nat} {v : Word} {s : State} (hs : Only W s0 s) :
    OnlyOut W s0 (execCacheEnable a np v s) := by
  unfold execCacheEnable
  refine only_next ?_
  refine only_guardedCd (sub_trans rfl hW) ?_ ?_
  · intro y1 hy1
    exact only_cacheCtrlWrite (sub_trans rfl hW) hy1
  · exact hs

end Sys2Proof.Machine
end

