-- ==== Sys2Proof/Laws/KeepCoherence.lean ====
section
/-! SUPPORT. What the definitions of Machine/Coherence.lean leave alone: one lemma for each that answers a state. -/
namespace Sys2Proof.Machine

theorem only_coreRequest {W : Nat} {s0 : State} (hW : Sub 0xe000000700000000000428000000220c000000000040039c0c W)  {p : Packet} {s : State} (hs : Only W s0 s) :
    Only W s0 (coreRequest p s) := by
  unfold coreRequest
  refine only_ite ?_ ?_
  · exact only_sliceArrive (sub_trans rfl hW) hs
  · exact hs

theorem only_execRdS {W : Nat} {s0 : State} (hW : Sub 0xe000000700000000000428000000220c000000000040039c0c W)  {p : Packet} {s : State} (hs : Only W s0 s) :
    OnlyOut W s0 (execRdS p s) := by
  unfold execRdS
  exact only_next (only_coreRequest (sub_trans rfl hW) hs)

theorem only_execRdX {W : Nat} {s0 : State} (hW : Sub 0xe000000700000000000428000000220c000000000040039c0c W)  {p : Packet} {s : State} (hs : Only W s0 s) :
    OnlyOut W s0 (execRdX p s) := by
  unfold execRdX
  exact only_next (only_coreRequest (sub_trans rfl hW) hs)

theorem only_execUpgL3 {W : Nat} {s0 : State} (hW : Sub 0xe000000700000000000428000000220c000000000040039c0c W)  {p : Packet} {s : State} (hs : Only W s0 s) :
    OnlyOut W s0 (execUpgL3 p s) := by
  unfold execUpgL3
  exact only_next (only_coreRequest (sub_trans rfl hW) hs)

theorem only_execRdOnce {W : Nat} {s0 : State} (hW : Sub 0xe000000700000000000428000000220c000000000040039c0c W)  {p : Packet} {s : State} (hs : Only W s0 s) :
    OnlyOut W s0 (execRdOnce p s) := by
  unfold execRdOnce
  exact only_next (only_coreRequest (sub_trans rfl hW) hs)

theorem only_execWrPart {W : Nat} {s0 : State} (hW : Sub 0xe000000700000000000428000000220c000000000040039c0c W)  {p : Packet} {s : State} (hs : Only W s0 s) :
    OnlyOut W s0 (execWrPart p s) := by
  unfold execWrPart
  exact only_next (only_coreRequest (sub_trans rfl hW) hs)

theorem only_coreGone {W : Nat} {s0 : State} (hW : Sub 0xe000000700000000000428000000220c000000000040039c0c W)  {p : Packet} {d : Option (Line × BitVec 2)} {s : State} (hs : Only W s0 s) :
    Only W s0 (coreGone p d s) := by
  unfold coreGone
  refine only_ite ?_ ?_
  · exact hs
  · exact only_coreLeaves (sub_trans rfl hW) (only_State_take (sub_trans rfl hW) hs)

theorem only_execWbL {W : Nat} {s0 : State} (hW : Sub 0xe000000700000000000428000000220c000000000040039c0c W)  {p : Packet} {s : State} (hs : Only W s0 s) :
    OnlyOut W s0 (execWbL p s) := by
  unfold execWbL
  exact only_next (only_coreGone (sub_trans rfl hW) hs)

theorem only_execEvL {W : Nat} {s0 : State} (hW : Sub 0xe000000700000000000428000000220c000000000040039c0c W)  {p : Packet} {s : State} (hs : Only W s0 s) :
    OnlyOut W s0 (execEvL p s) := by
  unfold execEvL
  exact only_next (only_coreGone (sub_trans rfl hW) hs)

theorem only_execSnpL {W : Nat} {s0 : State} (hW : Sub 0xe000000700000000000428000000220c000000000040039c0c W)  {p : Packet} {s : State} (hs : Only W s0 s) :
    OnlyOut W s0 (execSnpL p s) := by
  unfold execSnpL
  exact only_next (only_coreSnoop (sub_trans rfl hW) hs)

theorem only_execSnpLX {W : Nat} {s0 : State} (hW : Sub 0xe000000700000000000428000000220c000000000040039c0c W)  {p : Packet} {s : State} (hs : Only W s0 s) :
    OnlyOut W s0 (execSnpLX p s) := by
  unfold execSnpLX
  exact only_next (only_coreSnoop (sub_trans rfl hW) hs)

theorem only_execInvL {W : Nat} {s0 : State} (hW : Sub 0xe000000700000000000428000000220c000000000040039c0c W)  {p : Packet} {s : State} (hs : Only W s0 s) :
    OnlyOut W s0 (execInvL p s) := by
  unfold execInvL
  exact only_next (only_coreInvL (sub_trans rfl hW) hs)

theorem only_execTenureEnd {W : Nat} {s0 : State} (hW : Sub 0xe000000700000000000428000000220c000000000040039c0c W)  {np : Nat} {line : Nat} {s : State} (hs : Only W s0 s) :
    OnlyOut W s0 (execTenureEnd np line s) := by
  unfold execTenureEnd
  exact only_next (only_tenureEnds (sub_trans rfl hW) hs)

theorem only_execGetS {W : Nat} {s0 : State} (hW : Sub 0x302000000000000000e00000070000000000042af0f12d800000000000004002601e W)  {p : Packet} {more : Bool} {ue : Bool} {s : State} (hs : Only W s0 s) :
    OnlyOut W s0 (execGetS p more ue s) := by
  unfold execGetS
  exact only_next (only_haRequest (sub_trans rfl hW) hs)

theorem only_execGetX {W : Nat} {s0 : State} (hW : Sub 0x302000000000000000e00000070000000000042af0f12d800000000000004002601e W)  {p : Packet} {more : Bool} {ue : Bool} {s : State} (hs : Only W s0 s) :
    OnlyOut W s0 (execGetX p more ue s) := by
  unfold execGetX
  exact only_next (only_haRequest (sub_trans rfl hW) hs)

theorem only_execUpgHA {W : Nat} {s0 : State} (hW : Sub 0x302000000000000000e00000070000000000042af0f12d800000000000004002601e W)  {p : Packet} {more : Bool} {ue : Bool} {s : State} (hs : Only W s0 s) :
    OnlyOut W s0 (execUpgHA p more ue s) := by
  unfold execUpgHA
  exact only_next (only_haRequest (sub_trans rfl hW) hs)

theorem only_execGetXZ {W : Nat} {s0 : State} (hW : Sub 0x302000000000000000e00000070000000000042af0f12d800000000000004002601e W)  {p : Packet} {more : Bool} {ue : Bool} {s : State} (hs : Only W s0 s) :
    OnlyOut W s0 (execGetXZ p more ue s) := by
  unfold execGetXZ
  exact only_next (only_haRequest (sub_trans rfl hW) hs)

theorem only_execCboC {W : Nat} {s0 : State} (hW : Sub 0x302000000000000000e00000070000000000042af0f12d800000000000004002601e W)  {p : Packet} {more : Bool} {ue : Bool} {s : State} (hs : Only W s0 s) :
    OnlyOut W s0 (execCboC p more ue s) := by
  unfold execCboC
  exact only_next (only_haRequest (sub_trans rfl hW) hs)

theorem only_execCboF {W : Nat} {s0 : State} (hW : Sub 0x302000000000000000e00000070000000000042af0f12d800000000000004002601e W)  {p : Packet} {more : Bool} {ue : Bool} {s : State} (hs : Only W s0 s) :
    OnlyOut W s0 (execCboF p more ue s) := by
  unfold execCboF
  exact only_next (only_haRequest (sub_trans rfl hW) hs)

theorem only_execAtmH {W : Nat} {s0 : State} (hW : Sub 0x302000000000000000e00000070000000000042af0f12d800000000000004002601e W)  {p : Packet} {more : Bool} {ue : Bool} {s : State} (hs : Only W s0 s) :
    OnlyOut W s0 (execAtmH p more ue s) := by
  unfold execAtmH
  exact only_next (only_haRequest (sub_trans rfl hW) hs)

theorem only_execRdNC {W : Nat} {s0 : State} (hW : Sub 0x302000000000000000e00000070000000000042af0f12d800000000000004002601e W)  {p : Packet} {more : Bool} {ue : Bool} {s : State} (hs : Only W s0 s) :
    OnlyOut W s0 (execRdNC p more ue s) := by
  unfold execRdNC
  exact only_next (only_haRequest (sub_trans rfl hW) hs)

theorem only_execWrNC {W : Nat} {s0 : State} (hW : Sub 0x302000000000000000e00000070000000000042af0f12d800000000000004002601e W)  {p : Packet} {more : Bool} {ue : Bool} {s : State} (hs : Only W s0 s) :
    OnlyOut W s0 (execWrNC p more ue s) := by
  unfold execWrNC
  exact only_next (only_haRequest (sub_trans rfl hW) hs)

theorem only_execWbM {W : Nat} {s0 : State} (hW : Sub 0x302000000000000000000000000000000000042af0f12d800000000000004002601e W)  {p : Packet} {s : State} (hs : Only W s0 s) :
    OnlyOut W s0 (execWbM p s) := by
  unfold execWbM
  exact only_next (only_haWbM (sub_trans rfl hW) hs)

theorem only_execEvC {W : Nat} {s0 : State} (hW : Sub 0x302000000000000000000000000000000000042af0f12d800000000000004002601e W)  {p : Packet} {s : State} (hs : Only W s0 s) :
    OnlyOut W s0 (execEvC p s) := by
  unfold execEvC
  exact only_next (only_haEvC (sub_trans rfl hW) hs)

theorem only_dieSnoop {W : Nat} {s0 : State} (hW : Sub 0xe000000700000000000428000000220c000000000040039c0c W)  {p : Packet} {s : State} (hs : Only W s0 s) :
    Only W s0 (dieSnoop p s) := by
  unfold dieSnoop
  refine only_ite ?_ ?_
  · exact only_sliceArrive (sub_trans rfl hW) hs
  · exact hs

theorem only_execSnpS {W : Nat} {s0 : State} (hW : Sub 0xe000000700000000000428000000220c000000000040039c0c W)  {p : Packet} {s : State} (hs : Only W s0 s) :
    OnlyOut W s0 (execSnpS p s) := by
  unfold execSnpS
  exact only_next (only_dieSnoop (sub_trans rfl hW) hs)

theorem only_execSnpX {W : Nat} {s0 : State} (hW : Sub 0xe000000700000000000428000000220c000000000040039c0c W)  {p : Packet} {s : State} (hs : Only W s0 s) :
    OnlyOut W s0 (execSnpX p s) := by
  unfold execSnpX
  exact only_next (only_dieSnoop (sub_trans rfl hW) hs)

theorem only_execSnpC {W : Nat} {s0 : State} (hW : Sub 0xe000000700000000000428000000220c000000000040039c0c W)  {p : Packet} {s : State} (hs : Only W s0 s) :
    OnlyOut W s0 (execSnpC p s) := by
  unfold execSnpC
  exact only_next (only_dieSnoop (sub_trans rfl hW) hs)

theorem only_execInv {W : Nat} {s0 : State} (hW : Sub 0xe000000700000000000428000000220c000000000040039c0c W)  {p : Packet} {s : State} (hs : Only W s0 s) :
    OnlyOut W s0 (execInv p s) := by
  unfold execInv
  exact only_next (only_dieSnoop (sub_trans rfl hW) hs)

theorem only_execRcl {W : Nat} {s0 : State} (hW : Sub 0xe000000700000000000428000000220c000000000040039c0c W)  {p : Packet} {s : State} (hs : Only W s0 s) :
    OnlyOut W s0 (execRcl p s) := by
  unfold execRcl
  exact only_next (only_dieSnoop (sub_trans rfl hW) hs)

theorem only_execRspI {W : Nat} {s0 : State} (hW : Sub 0x302000000000000000000000000000000000042af0f12d800000000000004002601e W)  {p : Packet} {s : State} (hs : Only W s0 s) :
    OnlyOut W s0 (execRspI p s) := by
  unfold execRspI
  refine only_next ?_
  refine only_haResponse (sub_trans rfl hW) ?_ ?_
  · intro y1 y2 hy2
    exact only_snd_mk hy2
  · exact hs

theorem only_execRspS {W : Nat} {s0 : State} (hW : Sub 0x302000000000000000000000000000000000042af0f12d800000000000004002601e W)  {p : Packet} {s : State} (hs : Only W s0 s) :
    OnlyOut W s0 (execRspS p s) := by
  unfold execRspS
  refine only_next ?_
  refine only_haResponse (sub_trans rfl hW) ?_ ?_
  · intro y1 y2 hy2
    exact only_snd_mk hy2
  · exact hs

theorem only_execRspFwdS {W : Nat} {s0 : State} (hW : Sub 0x302000000000000000000000000000000000042af0f12d800000000000004002601e W)  {p : Packet} {s : State} (hs : Only W s0 s) :
    OnlyOut W s0 (execRspFwdS p s) := by
  unfold execRspFwdS
  refine only_next ?_
  refine only_haResponse (sub_trans rfl hW) ?_ ?_
  · intro y1 y2 hy2
    refine only_snd_mk ?_
    split
    · exact only_mcWrite (sub_trans rfl hW) hy2
    · exact hy2
  · exact hs

theorem only_execRspFwdI {W : Nat} {s0 : State} (hW : Sub 0x302000000000000000000000000000000000042af0f12d800000000000004002601e W)  {p : Packet} {s : State} (hs : Only W s0 s) :
    OnlyOut W s0 (execRspFwdI p s) := by
  unfold execRspFwdI
  refine only_next ?_
  refine only_haResponse (sub_trans rfl hW) ?_ ?_
  · intro y1 y2 hy2
    exact only_snd_mk hy2
  · exact hs

theorem only_execRspRclD {W : Nat} {s0 : State} (hW : Sub 0x302000000000000000000000000000000000042af0f12d800000000000004002601e W)  {p : Packet} {s : State} (hs : Only W s0 s) :
    OnlyOut W s0 (execRspRclD p s) := by
  unfold execRspRclD
  refine only_next ?_
  refine only_haResponse (sub_trans rfl hW) ?_ ?_
  · intro y1 y2 hy2
    exact only_snd_mk hy2
  · exact hs

theorem only_execWbC {W : Nat} {s0 : State} (hW : Sub 0x302000000000000000000000000000000000042af0f12d800000000000004002601e W)  {p : Packet} {s : State} (hs : Only W s0 s) :
    OnlyOut W s0 (execWbC p s) := by
  unfold execWbC
  refine only_next ?_
  refine only_haResponse (sub_trans rfl hW) ?_ ?_
  · intro y1 y2 hy2
    exact only_snd_mk hy2
  · exact hs

theorem only_execRspWbP {W : Nat} {s0 : State} (hW : Sub 0x302000000000000000000000000000000000042af0f12d800000000000004002601e W)  {p : Packet} {s : State} (hs : Only W s0 s) :
    OnlyOut W s0 (execRspWbP p s) := by
  unfold execRspWbP
  exact only_next (only_haWbP (sub_trans rfl hW) hs)

theorem only_execFwdData {W : Nat} {s0 : State} (hW : Sub 0xe000000700000000000428000000220c000000000040039c0c W)  {p : Packet} {s : State} (hs : Only W s0 s) :
    OnlyOut W s0 (execFwdData p s) := by
  unfold execFwdData
  exact only_next (only_dieSnoop (sub_trans rfl hW) hs)

theorem only_execDataE {W : Nat} {s0 : State} (hW : Sub 0xe000000700000000000428000000220c000000000040039c0c W)  {p : Packet} {s : State} (hs : Only W s0 s) :
    OnlyOut W s0 (execDataE p s) := by
  unfold execDataE
  exact only_next (only_dieSnoop (sub_trans rfl hW) hs)

theorem only_execDataF {W : Nat} {s0 : State} (hW : Sub 0xe000000700000000000428000000220c000000000040039c0c W)  {p : Packet} {s : State} (hs : Only W s0 s) :
    OnlyOut W s0 (execDataF p s) := by
  unfold execDataF
  exact only_next (only_dieSnoop (sub_trans rfl hW) hs)

theorem only_execGntX {W : Nat} {s0 : State} (hW : Sub 0xe000000700000000000428000000220c000000000040039c0c W)  {p : Packet} {s : State} (hs : Only W s0 s) :
    OnlyOut W s0 (execGntX p s) := by
  unfold execGntX
  exact only_next (only_dieSnoop (sub_trans rfl hW) hs)

theorem only_execWbAck {W : Nat} {s0 : State} (hW : Sub 0xe000000700000000000428000000220c000000000040039c0c W)  {p : Packet} {s : State} (hs : Only W s0 s) :
    OnlyOut W s0 (execWbAck p s) := by
  unfold execWbAck
  exact only_next (only_vbRelease (sub_trans rfl hW) hs)

theorem only_execEvAck {W : Nat} {s0 : State} (hW : Sub 0xe000000700000000000428000000220c000000000040039c0c W)  {p : Packet} {s : State} (hs : Only W s0 s) :
    OnlyOut W s0 (execEvAck p s) := by
  unfold execEvAck
  exact only_next (only_vbRelease (sub_trans rfl hW) hs)

theorem only_execCmpAck {W : Nat} {s0 : State} (hW : Sub 0x302000000000000000000000000000000000042af0f12d800000000000004002601e W)  {p : Packet} {s : State} (hs : Only W s0 s) :
    OnlyOut W s0 (execCmpAck p s) := by
  unfold execCmpAck
  exact only_next (only_haCmpAck (sub_trans rfl hW) hs)

theorem only_execPacketUnknownOpcode {W : Nat} {s0 : State} (hW : Sub 0x28000000000000000000000000000c W)  {p : Packet} {s : State} (hs : Only W s0 s) :
    OnlyOut W s0 (execPacketUnknownOpcode p s) := by
  unfold execPacketUnknownOpcode
  exact only_next (only_State_satInc (sub_trans rfl hW) (only_State_take (sub_trans rfl hW) hs))

theorem only_execDieLost {W : Nat} {s0 : State} (hW : Sub 0x10302000000000000000000000000000000840042af0f12f82060800000020c007fe5e W)  {n : Nat} {s : State} (hs : Only W s0 s) :
    OnlyOut W s0 (execDieLost n s) := by
  unfold execDieLost
  exact only_next (only_dieLoss (sub_trans rfl hW) hs)

end Sys2Proof.Machine
end

