-- ==== Sys2Proof/Laws/KeepWorlds.lean ====
section
/-! SUPPORT. What the definitions of Machine/Worlds.lean leave alone: one lemma for each that answers a state. -/
namespace Sys2Proof.Machine

theorem only_mittenWrite {W : Nat} {s0 : State} (hW : Sub 0x10000000000000000000000000000000000000000004 W)  {i : Nat} {v : Word} {s : State} (hs : Only W s0 s) :
    Only W s0 (mittenWrite i v s) := by
  unfold mittenWrite
  exact only_State_setR (sub_trans rfl hW) hs

theorem only_mittenRefuse {W : Nat} {s0 : State} (hW : Sub 0x9000000000000000000000000000000000000000004 W)  {u : Nat} {kind : Nat} {part : Nat} {s : State} (hs : Only W s0 s) :
    Only W s0 (mittenRefuse u kind part s) := by
  unfold mittenRefuse
  extract_lets +onlyGivenNames -merge -useContext -underBinder x1
  have hx1 : Only W s0 (x1) := only_State_satInc (sub_trans rfl hW) hs
  try clear_value x1
  exact only_State_setR (sub_trans rfl hW) hx1

theorem only_secureEnter {W : Nat} {s0 : State} (hW : Sub 0x700000000000000000000000000000038000040000c04 W)  {ha : Nat} {fetchFault : Bool} {s : State} (hs : Only W s0 s) :
    Only W s0 (secureEnter ha fetchFault s) := by
  unfold secureEnter
  extract_lets +onlyGivenNames -merge -useContext -underBinder x1
  extract_lets +onlyGivenNames -merge -useContext -underBinder x2
  have hx2 : Only W s0 (x2) := only_State_setR (sub_trans rfl hW) hs
  try clear_value x2
  extract_lets +onlyGivenNames -merge -useContext -underBinder x3
  have hx3 : Only W s0 (x3) := only_State_setR (sub_trans rfl hW) hx2
  try clear_value x3
  extract_lets +onlyGivenNames -merge -useContext -underBinder x4
  have hx4 : Only W s0 (x4) := only_State_setF (sub_trans rfl hW) (only_State_setB (sub_trans rfl hW) hx3)
  try clear_value x4
  extract_lets +onlyGivenNames -merge -useContext -underBinder x5
  have hx5 : Only W s0 (x5) := only_worldSwitch (sub_trans rfl hW) hx4
  try clear_value x5
  extract_lets +onlyGivenNames -merge -useContext -underBinder x6
  extract_lets +onlyGivenNames -merge -useContext -underBinder x7
  have hx7 : Only W s0 (x7) := only_State_onHart (sub_trans rfl hW) hx5
  try clear_value x7
  extract_lets +onlyGivenNames -merge -useContext -underBinder x8
  have hx8 : Only W s0 (x8) := only_traceGap (sub_trans rfl hW) hx7
  try clear_value x8
  refine only_ite ?_ ?_
  · refine only_report (sub_trans rfl hW) ?_
    exact only_State_onHart (sub_trans rfl hW) (only_State_setB (sub_trans rfl hW) hx8)
  · exact only_haltTry (sub_trans rfl hW) hx8

theorem only_execSecureInterruptEntry {W : Nat} {s0 : State} (hW : Sub 0x700000000000000000000000000000038000040000c04 W)  {hart : Nat} {fetchFault : Bool} {s : State} (hs : Only W s0 s) :
    OnlyOut W s0 (execSecureInterruptEntry hart fetchFault s) := by
  unfold execSecureInterruptEntry
  refine onlyOut_ite ?_ ?_
  · exact only_next (only_secureEnter (sub_trans rfl hW) hs)
  · exact only_next hs

theorem only_callWrite {W : Nat} {s0 : State} (hW : Sub 0x40000000000000000000000000000000000000000004 W)  {a : Access} {ha : Nat} {v : Word} {s : State} (hs : Only W s0 s) :
    Only W s0 (callWrite a ha v s) := by
  unfold callWrite
  refine only_ite ?_ ?_
  · exact only_State_setB (sub_trans rfl hW) hs
  · exact hs

theorem only_execSecureCall {W : Nat} {s0 : State} (hW : Sub 0xe0000047000000000000000000000000000000000000000024 W)  {a : Access} {hart : Nat} {v : Word} {s : State} (hs : Only W s0 s) :
    OnlyOut W s0 (execSecureCall a hart v s) := by
  unfold execSecureCall
  refine only_next ?_
  refine only_guarded (sub_trans rfl hW) ?_ ?_
  · intro y1 hy1
    exact only_callWrite (sub_trans rfl hW) hy1
  · exact hs

theorem only_dbgEff {W : Nat} {s0 : State} (hW : Sub 0x800000000000000000000000000000000000000004 W)   {s : State} (hs : Only W s0 s) :
    Only W s0 (dbgEff s) := by
  unfold dbgEff
  exact only_State_setF (sub_trans rfl hW) hs

theorem only_dbgSet {W : Nat} {s0 : State} (hW : Sub 0x800000000000000000000000000000000000000c04 W)  {x : Nat} {s : State} (hs : Only W s0 s) :
    Only W s0 (dbgSet x s) := by
  unfold dbgSet
  extract_lets +onlyGivenNames -merge -useContext -underBinder x1
  extract_lets +onlyGivenNames -merge -useContext -underBinder x2
  have hx2 : Only W s0 (x2) := only_State_setFbit (sub_trans rfl hW) (only_State_setFbit (sub_trans rfl hW) hs)
  try clear_value x2
  extract_lets +onlyGivenNames -merge -useContext -underBinder x3
  have hx3 : Only W s0 (x3) := only_State_setFbit (sub_trans rfl hW) (only_State_setFbit (sub_trans rfl hW) hx2)
  try clear_value x3
  extract_lets +onlyGivenNames -merge -useContext -underBinder x4
  have hx4 : Only W s0 (x4) := by
    unfold x4
    refine only_iter (fun x t ht => ?_) ?_
    · refine only_traceGap (sub_trans rfl hW) ?_
      assumption
    · exact only_dbgEff (sub_trans rfl hW) hx3
  try clear_value x4
  extract_lets +onlyGivenNames -merge -useContext -underBinder x5
  have hx5 : Only W s0 (x5) := by
    unfold x5
    refine only_ite ?_ ?_
    · refine only_iter (fun x t ht => ?_) ?_
      · refine only_ite ?_ ?_
        · refine only_haltLeave (sub_trans rfl hW) ?_
          assumption
        · assumption
      · exact hx4
    · exact hx4
  try clear_value x5
  refine only_iter (fun x t ht => ?_) ?_
  · refine only_haltTry (sub_trans rfl hW) ?_
    assumption
  · exact hx5

theorem only_dbgWrite {W : Nat} {s0 : State} (hW : Sub 0x800000000000000000000000000000000000000c04 W)  {a : Access} {v : Word} {s : State} (hs : Only W s0 s) :
    Only W s0 (dbgWrite a v s) := by
  unfold dbgWrite
  extract_lets +onlyGivenNames -merge -useContext -underBinder x1
  extract_lets +onlyGivenNames -merge -useContext -underBinder x2
  extract_lets +onlyGivenNames -merge -useContext -underBinder x3
  extract_lets +onlyGivenNames -merge -useContext -underBinder x4
  exact only_dbgSet (sub_trans rfl hW) hs

theorem only_execWcDbgWrite {W : Nat} {s0 : State} (hW : Sub 0xe0000007800000000000000000000000000000000000000c24 W)  {a : Access} {v : Word} {s : State} (hs : Only W s0 s) :
    OnlyOut W s0 (execWcDbgWrite a v s) := by
  unfold execWcDbgWrite
  refine only_next ?_
  refine only_guarded (sub_trans rfl hW) ?_ ?_
  · intro y1 hy1
    exact only_dbgWrite (sub_trans rfl hW) hy1
  · exact hs

end Sys2Proof.Machine
end

