-- ==== Sys2Proof/Laws/KeepIrq.lean ====
section
/-! SUPPORT. What the definitions of Machine/Irq.lean leave alone: one lemma for each that answers a state. -/
namespace Sys2Proof.Machine

theorem only_imsicSet {W : Nat} {s0 : State} (hW : Sub 0x400 W)  {ha : Nat} {file : Nat} {eiid : Nat} {s : State} (hs : Only W s0 s) :
    Only W s0 (imsicSet ha file eiid s) := by
  unfold imsicSet
  refine only_ite ?_ ?_
  · exact hs
  · exact only_State_onHart (sub_trans rfl hW) hs

theorem only_imsicWrite {W : Nat} {s0 : State} (hW : Sub 0xe0000007000000000000000000000000000000000000000424 W)  {a : Access} {ha : Nat} {file : Nat} {eiid : Nat} {s : State} (hs : Only W s0 s) :
    Only W s0 (imsicWrite a ha file eiid s) := by
  unfold imsicWrite
  split
  · exact only_State_answerErr (sub_trans rfl hW) (only_denyWorld (sub_trans rfl hW) hs)
  · exact only_State_answerErr (sub_trans rfl hW) (only_denyPart (sub_trans rfl hW) hs)
  · exact only_imsicSet (sub_trans rfl hW) (only_State_answer (sub_trans rfl hW) hs)

theorem only_imsicLost {W : Nat} {s0 : State} (hW : Sub 0x100000000000000000000000000000000000000000000000004 W)  {ha : Nat} {file : Nat} {s : State} (hs : Only W s0 s) :
    Only W s0 (imsicLost ha file s) := by
  unfold imsicLost
  extract_lets +onlyGivenNames -merge -useContext -underBinder x1
  have hx1 : Only W s0 (x1) := only_State_setB (sub_trans rfl hW) (only_State_satInc (sub_trans rfl hW) hs)
  try clear_value x1
  exact only_State_setF (sub_trans rfl hW) (only_State_setF (sub_trans rfl hW) hx1)

theorem only_aplicSet {W : Nat} {s0 : State} (hW : Sub 0x200000 W)  {dom : Nat} {off : Nat} {v : Nat} {s : State} (hs : Only W s0 s) :
    Only W s0 (aplicSet dom off v s) := by
  unfold aplicSet
  refine only_aplic (sub_trans rfl hW) ?_ _
  exact hs

theorem only_aplicPut {W : Nat} {s0 : State} (hW : Sub 0x200000 W)  {dom : Nat} {base : Nat} {n : Nat} {x : Bool} {s : State} (hs : Only W s0 s) :
    Only W s0 (aplicPut dom base n x s) := by
  unfold aplicPut
  exact only_aplicSet (sub_trans rfl hW) hs

theorem only_aplicForward {W : Nat} {s0 : State} (hW : Sub 0x200008 W)  {n : Nat} {s : State} (hs : Only W s0 s) :
    Only W s0 (aplicForward n s) := by
  unfold aplicForward
  extract_lets +onlyGivenNames -merge -useContext -underBinder x1
  refine only_ite ?_ ?_
  · extract_lets +onlyGivenNames -merge -useContext -underBinder x2
    extract_lets +onlyGivenNames -merge -useContext -underBinder x3
    extract_lets +onlyGivenNames -merge -useContext -underBinder x4
    exact only_State_send (sub_trans rfl hW) (only_aplicPut (sub_trans rfl hW) hs)
  · exact hs

theorem only_wiredChange {W : Nat} {s0 : State} (hW : Sub 0x200008 W)  {n : Nat} {s : State} (hs : Only W s0 s) :
    Only W s0 (wiredChange n s) := by
  unfold wiredChange
  extract_lets +onlyGivenNames -merge -useContext -underBinder x1
  extract_lets +onlyGivenNames -merge -useContext -underBinder x2
  extract_lets +onlyGivenNames -merge -useContext -underBinder x3
  extract_lets +onlyGivenNames -merge -useContext -underBinder x4
  have hx4 : Only W s0 (x4) := by
    unfold x4
    refine only_pulses_wired (sub_trans rfl hW) ?_ _ _
    exact hs
  try clear_value x4
  extract_lets +onlyGivenNames -merge -useContext -underBinder x5
  extract_lets +onlyGivenNames -merge -useContext -underBinder x6
  extract_lets +onlyGivenNames -merge -useContext -underBinder x7
  refine only_ite ?_ ?_
  · extract_lets +onlyGivenNames -merge -useContext -underBinder x8
    have hx8 : Only W s0 (x8) := only_aplicForward (sub_trans rfl hW) (only_aplicPut (sub_trans rfl hW) hx4)
    try clear_value x8
    refine only_ite ?_ ?_
    · exact only_aplicPut (sub_trans rfl hW) hx8
    · exact hx8
  · refine only_ite ?_ ?_
    · exact only_aplicPut (sub_trans rfl hW) hx4
    · exact hx4

theorem only_execWiredSourceChange {W : Nat} {s0 : State} (hW : Sub 0x200008 W)  {n : Nat} {s : State} (hs : Only W s0 s) :
    OnlyOut W s0 (execWiredSourceChange n s) := by
  unfold execWiredSourceChange
  refine only_next ?_
  refine only_ite ?_ ?_
  · exact only_wiredChange (sub_trans rfl hW) hs
  · exact hs

theorem only_execImsicMessage {W : Nat} {s0 : State} (hW : Sub 0x1e000000700000000000008000000000000000000000020042c W)  {hart : Nat} {file : Nat} {eiid : Nat} {w : Bool} {part : Nat} {src : Nat} {s : State} (hs : Only W s0 s) :
    OnlyOut W s0 (execImsicMessage hart file eiid w part src s) := by
  unfold execImsicMessage
  extract_lets +onlyGivenNames -merge -useContext -underBinder x1
  refine onlyOut_ite ?_ ?_
  · exact only_next hs
  · extract_lets +onlyGivenNames -merge -useContext -underBinder x2
    have hx2 : Only W s0 (x2) := only_State_take (sub_trans rfl hW) hs
    try clear_value x2
    refine onlyOut_ite ?_ ?_
    · exact only_next hx2
    · refine onlyOut_ite ?_ ?_
      · exact only_next (only_imsicWrite (sub_trans rfl hW) hx2)
      · refine onlyOut_ite ?_ ?_
        · exact only_next (only_aplicPut (sub_trans rfl hW) hx2)
        · exact only_next (only_imsicLost (sub_trans rfl hW) hx2)

theorem only_execAplicResend {W : Nat} {s0 : State} (hW : Sub 0x10000000000000000000000000000000000000000000020000c W)  {d : Nat} {s : State} (hs : Only W s0 s) :
    OnlyOut W s0 (execAplicResend d s) := by
  unfold execAplicResend
  refine onlyOut_ite ?_ ?_
  · exact only_next hs
  · refine only_next ?_
    refine only_iter (fun x t ht => ?_) ?_
    · extract_lets +onlyGivenNames -merge -useContext -underBinder x1
      extract_lets +onlyGivenNames -merge -useContext -underBinder x2
      extract_lets +onlyGivenNames -merge -useContext -underBinder x3
      have hx3 : Only W s0 (x3) := by
        unfold x3
        refine only_aplicForward (sub_trans rfl hW) ?_
        assumption
      try clear_value x3
      refine only_ite ?_ ?_
      · exact only_State_satInc (sub_trans rfl hW) hx3
      · assumption
    · exact hs

theorem only_aplicPend {W : Nat} {s0 : State} (hW : Sub 0x200008 W)  {d : Nat} {n : Nat} {s : State} (hs : Only W s0 s) :
    Only W s0 (aplicPend d n s) := by
  unfold aplicPend
  refine only_ite ?_ ?_
  · exact only_aplicForward (sub_trans rfl hW) (only_aplicPut (sub_trans rfl hW) hs)
  · exact hs

theorem only_aplicUnpend {W : Nat} {s0 : State} (hW : Sub 0x200000 W)  {d : Nat} {n : Nat} {s : State} (hs : Only W s0 s) :
    Only W s0 (aplicUnpend d n s) := by
  unfold aplicUnpend
  refine only_ite ?_ ?_
  · exact only_aplicPut (sub_trans rfl hW) hs
  · exact hs

theorem only_aplicEnable {W : Nat} {s0 : State} (hW : Sub 0x200008 W)  {d : Nat} {n : Nat} {x : Bool} {s : State} (hs : Only W s0 s) :
    Only W s0 (aplicEnable d n x s) := by
  unfold aplicEnable
  refine only_ite ?_ ?_
  · extract_lets +onlyGivenNames -merge -useContext -underBinder x1
    have hx1 : Only W s0 (x1) := only_aplicPut (sub_trans rfl hW) hs
    try clear_value x1
    refine only_ite ?_ ?_
    · exact only_aplicForward (sub_trans rfl hW) hx1
    · exact hx1
  · exact hs

theorem only_aplicEach {W : Nat} {s0 : State} (_hW : Sub 0x0 W)  {k : Nat} {v : Nat} {f : Nat → State → State} (hf : ∀ y0 y1, Only W s0 (y1) → Only W s0 (f y0 y1)) {s : State} (hs : Only W s0 s) :
    Only W s0 (aplicEach k v f s) := by
  unfold aplicEach
  refine only_iter (fun x t ht => ?_) ?_
  · refine only_ite ?_ ?_
    · refine hf _ _ ?_
      assumption
    · assumption
  · exact hs

theorem only_sourcecfgWrite {W : Nat} {s0 : State} (hW : Sub 0x200000 W)  {d : Nat} {n : Nat} {v : Nat} {s : State} (hs : Only W s0 s) :
    Only W s0 (sourcecfgWrite d n v s) := by
  unfold sourcecfgWrite
  refine only_ite ?_ ?_
  · exact hs
  · extract_lets +onlyGivenNames -merge -useContext -underBinder x1
    extract_lets +onlyGivenNames -merge -useContext -underBinder x2
    have hx2 : Only W s0 (x2) := only_aplicSet (sub_trans rfl hW) hs
    try clear_value x2
    refine only_ite ?_ ?_
    · exact hx2
    · exact only_aplicPut (sub_trans rfl hW) (only_aplicPut (sub_trans rfl hW) hx2)

theorem only_aplicWrite {W : Nat} {s0 : State} (hW : Sub 0x200008 W)  {d : Nat} {off : Nat} {v : Nat} {s : State} (hs : Only W s0 s) :
    Only W s0 (aplicWrite d off v s) := by
  unfold aplicWrite
  extract_lets +onlyGivenNames -merge -useContext -underBinder x1
  refine only_ite ?_ ?_
  · refine only_iter (fun x t ht => ?_) ?_
    · refine only_aplicForward (sub_trans rfl hW) ?_
      assumption
    · exact only_aplicSet (sub_trans rfl hW) hs
  · refine only_ite ?_ ?_
    · exact only_sourcecfgWrite (sub_trans rfl hW) hs
    · refine only_ite ?_ ?_
      · refine only_ite ?_ ?_
        · exact only_aplicSet (sub_trans rfl hW) hs
        · exact hs
      · refine only_ite ?_ ?_
        · refine only_aplicEach (sub_trans rfl hW) ?_ ?_
          · intro y2 y3 hy3
            exact only_aplicPend (sub_trans rfl hW) hy3
          · exact hs
        · refine only_ite ?_ ?_
          · exact only_aplicPend (sub_trans rfl hW) hs
          · refine only_ite ?_ ?_
            · exact only_aplicPend (sub_trans rfl hW) hs
            · refine only_ite ?_ ?_
              · refine only_aplicEach (sub_trans rfl hW) ?_ ?_
                · intro y4 y5 hy5
                  exact only_aplicUnpend (sub_trans rfl hW) hy5
                · exact hs
              · refine only_ite ?_ ?_
                · exact only_aplicUnpend (sub_trans rfl hW) hs
                · refine only_ite ?_ ?_
                  · refine only_aplicEach (sub_trans rfl hW) ?_ ?_
                    · intro y6 y7 hy7
                      exact only_aplicEnable (sub_trans rfl hW) hy7
                    · exact hs
                  · refine only_ite ?_ ?_
                    · exact only_aplicEnable (sub_trans rfl hW) hs
                    · refine only_ite ?_ ?_
                      · refine only_aplicEach (sub_trans rfl hW) ?_ ?_
                        · intro y8 y9 hy9
                          exact only_aplicEnable (sub_trans rfl hW) hy9
                        · exact hs
                      · refine only_ite ?_ ?_
                        · exact only_aplicEnable (sub_trans rfl hW) hs
                        · refine only_ite ?_ ?_
                          · exact only_State_send (sub_trans rfl hW) hs
                          · refine only_ite ?_ ?_
                            · refine only_ite ?_ ?_
                              · exact only_aplicSet (sub_trans rfl hW) hs
                              · exact hs
                            · exact hs

end Sys2Proof.Machine
end

