-- ==== Sys2Proof/Laws/KeepStreams.lean ====
section
/-! SUPPORT. What the definitions of Machine/Streams.lean leave alone: one lemma for each that answers a state. -/
namespace Sys2Proof.Machine

theorem only_ioReply {W : Nat} {s0 : State} (hW : Sub 0x8000000000000000000000000000c W)  {p : Packet} {resp : BitVec 2} {po : BitVec 2} {d : Line} {s : State} (hs : Only W s0 s) :
    Only W s0 (ioReply p resp po d s) := by
  unfold ioReply
  extract_lets +onlyGivenNames -merge -useContext -underBinder x1
  extract_lets +onlyGivenNames -merge -useContext -underBinder x2
  exact only_State_sendP (sub_trans rfl hW) hs

theorem only_owinHeld {W : Nat} {s0 : State} {g : Reg} {en : Fld} {i : Nat} {v : Word} {err : State → State} (qen : Sub (regBit en.reg) W) (herr : ∀ y0, Only W s0 (y0) → Only W s0 (err y0)) {s : State} (hs : Only W s0 s) :
    Only W s0 (owinHeld g en i v err s) := by
  unfold owinHeld
  extract_lets +onlyGivenNames -merge -useContext -underBinder x1
  extract_lets +onlyGivenNames -merge -useContext -underBinder x2
  refine only_ite ?_ ?_
  · extract_lets +onlyGivenNames -merge -useContext -underBinder x3
    have hx3 : Only W s0 (x3) := only_State_setB qen hs
    try clear_value x3
    refine only_ite ?_ ?_
    · exact hx3
    · refine herr _ ?_
      exact hx3
  · refine only_ite ?_ ?_
    · exact hs
    · refine herr _ ?_
      exact hs

theorem only_seeLine {W : Nat} {s0 : State} (hW : Sub 0x302000000000000000000000000000000000000000f0200000000000000040002016 W)  {line : Nat} {s : State} (hs : Only W s0 s) :
    Only W s0 (seeLine line s).2 := by
  unfold seeLine
  extract_lets +onlyGivenNames -merge -useContext -underBinder x1
  try clear_value x1
  extract_lets +onlyGivenNames -merge -useContext -underBinder x2
  try clear_value x2
  extract_lets +onlyGivenNames -merge -useContext -underBinder x3
  try clear_value x3
  split
  · exact only_snd_mk hs
  · exact only_snd_mk hs
  · exact only_snd_mk hs
  · split
    · exact only_snd_mk hs
    · exact only_mcRead (sub_trans rfl hW) hs

theorem only_dropLine {W : Nat} {s0 : State} (hW : Sub 0x8000001000000000000000001c40c W)  {line : Nat} {s : State} (hs : Only W s0 s) :
    Only W s0 (dropLine line s) := by
  unfold dropLine
  extract_lets +onlyGivenNames -merge -useContext -underBinder x1
  extract_lets +onlyGivenNames -merge -useContext -underBinder x2
  extract_lets +onlyGivenNames -merge -useContext -underBinder x3
  have hx3 : Only W s0 (x3) := by
    unfold x3
    refine only_foldl (fun t x ht => ?_) ?_
    · refine only_coreInval (sub_trans rfl hW) ?_
      assumption
    · exact hs
  try clear_value x3
  extract_lets +onlyGivenNames -merge -useContext -underBinder x4
  have hx4 : Only W s0 (x4) := by
    unfold x4
    refine only_atomBuf_l3 (sub_trans rfl hW) ?_ _ _
    exact hx3
  try clear_value x4
  extract_lets +onlyGivenNames -merge -useContext -underBinder x5
  have hx5 : Only W s0 (x5) := only_State_dropOut (sub_trans rfl hW) hx4
  try clear_value x5
  split
  · exact only_State_setDir (sub_trans rfl hW) hx5
  · exact hx5

theorem only_agentRead {W : Nat} {s0 : State} (hW : Sub 0x302000000000000000000000000000000000000000f0200000000000000040002016 W) {fuel a n : Nat} {s : State}
    (hs : Only W s0 s) : Only W s0 (agentRead fuel a n s).2 := by
  induction fuel generalizing a n s with
  | zero => exact hs
  | succ fuel ih =>
    simp only [agentRead]
    split
    · exact hs
    split
    · exact hs
    have hl : Only W s0 (seeLine (a / 64) s).2 := only_seeLine (sub_trans rfl hW) hs
    split
    · exact hl
    have hr := ih (a := a + min n (64 - a % 64)) (n := n - min n (64 - a % 64)) hl
    split
    all_goals next e => rw [e] at hr; exact hr

theorem only_agentWrite {W : Nat} {s0 : State} (hW : Sub 0x302000000000000000000000000000000000000800f021000000000000004001e41e W) {fuel a n v : Nat} {s : State}
    (hs : Only W s0 s) : Only W s0 (agentWrite fuel a n v s).2 := by
  induction fuel generalizing a n v s with
  | zero => exact hs
  | succ fuel ih =>
    simp only [agentWrite]
    split
    · exact hs
    split
    · exact hs
    exact ih (only_mcWrite (sub_trans rfl hW) (only_dropLine (sub_trans rfl hW) (only_seeLine (sub_trans rfl hW) hs)))

theorem only_State_setInQ {W : Nat} {s0 : State} (hW : Sub 0x4000000 W)  {k : Nat} {q : List InJob} {s : State} (hs : Only W s0 s) :
    Only W s0 (State.setInQ s k q) := by
  unfold State.setInQ
  refine only_inq (sub_trans rfl hW) ?_ _
  exact hs

theorem only_inIssue {W : Nat} {s0 : State} (hW : Sub 0x428000000000000000000000402100c W)  {k : Nat} {s : State} (hs : Only W s0 s) :
    Only W s0 (inIssue k s) := by
  unfold inIssue
  split
  · exact hs
  · split
    · exact hs
    · refine only_ite ?_ ?_
      · exact hs
      · extract_lets +onlyGivenNames -merge -useContext -underBinder x1
        extract_lets +onlyGivenNames -merge -useContext -underBinder x2
        extract_lets +onlyGivenNames -merge -useContext -underBinder x3
        extract_lets +onlyGivenNames -merge -useContext -underBinder x4
        extract_lets +onlyGivenNames -merge -useContext -underBinder x5
        exact only_openTx (sub_trans rfl hW) (only_State_setInQ (sub_trans rfl hW) hs)

theorem only_inJoin {W : Nat} {s0 : State} (hW : Sub 0x4000000 W)  {k : Nat} {j : InJob} {s : State} (hs : Only W s0 s) :
    Only W s0 (inJoin k j s) := by
  unfold inJoin
  extract_lets +onlyGivenNames -merge -useContext -underBinder x1
  exact only_State_setInQ (sub_trans rfl hW) hs

end Sys2Proof.Machine
end

