-- ==== Sys2Proof/Laws/KeepPaleg.lean ====
section
/-! SUPPORT. What the definitions of Machine/Paleg.lean leave alone: one lemma for each that answers a state. -/
namespace Sys2Proof.Machine

theorem only_State_setPl {W : Nat} {s0 : State} (hW : Sub 0x8000000 W)  {n : Nat} {l : PlLink} {s : State} (hs : Only W s0 s) :
    Only W s0 (State.setPl s n l) := by
  unfold State.setPl
  refine only_plLinks (sub_trans rfl hW) ?_ _
  exact hs

theorem only_plDiscard {W : Nat} {s0 : State} (hW : Sub 0x40000000000000000000000000000000000000000000000000000004 W)  {n : Nat} {s : State} (hs : Only W s0 s) :
    Only W s0 (plDiscard n s) := by
  unfold plDiscard
  exact only_State_satInc (sub_trans rfl hW) hs

theorem only_plLocal {W : Nat} {s0 : State} (hW : Sub 0x8000000 W)  {n : Nat} {c : PlCell} {s : State} (hs : Only W s0 s) :
    Only W s0 (plLocal n c s) := by
  unfold plLocal
  refine only_plIn (sub_trans rfl hW) ?_ _
  exact hs

theorem only_plPop {W : Nat} {s0 : State} (hW : Sub 0x8000000 W)  {n : Nat} {ty : Nat} {s : State} (hs : Only W s0 s) :
    OnlyOptSnd W s0 (plPop n ty s) := by
  unfold plPop
  extract_lets +onlyGivenNames -merge -useContext -underBinder x1
  split
  · refine optSnd_some ?_
    refine only_snd_mk ?_
    refine only_plIn (sub_trans rfl hW) ?_ _
    exact hs
  · exact optSnd_none

theorem only_plReturn {W : Nat} {s0 : State} (hW : Sub 0x8000008 W)  {n : Nat} {c : PlCell} {s : State} (hs : Only W s0 s) :
    Only W s0 (plReturn n c s) := by
  unfold plReturn
  extract_lets +onlyGivenNames -merge -useContext -underBinder x1
  refine only_ite ?_ ?_
  · exact only_plLocal (sub_trans rfl hW) hs
  · refine only_ite ?_ ?_
    · exact only_State_send (sub_trans rfl hW) hs
    · exact hs

theorem only_plEmit {W : Nat} {s0 : State} (hW : Sub 0x4000000000000000000000000000000000000000000000000800000c W)  {n : Nat} {port : Nat} {c : PlCell} {s : State} (hs : Only W s0 s) :
    Only W s0 (plEmit n port c s) := by
  unfold plEmit
  extract_lets +onlyGivenNames -merge -useContext -underBinder x1
  extract_lets +onlyGivenNames -merge -useContext -underBinder x2
  refine only_ite ?_ ?_
  · refine only_ite ?_ ?_
    · exact only_plReturn (sub_trans rfl hW) hs
    · exact hs
  · refine only_ite ?_ ?_
    · exact hs
    · refine only_ite ?_ ?_
      · exact only_plReturn (sub_trans rfl hW) hs
      · refine only_ite ?_ ?_
        · exact only_plDiscard (sub_trans rfl hW) hs
        · refine only_ite ?_ ?_
          · extract_lets +onlyGivenNames -merge -useContext -underBinder x3
            have hx3 : Only W s0 (x3) := only_plDiscard (sub_trans rfl hW) hs
            try clear_value x3
            refine only_ite ?_ ?_
            · exact only_plReturn (sub_trans rfl hW) hx3
            · exact hx3
          · exact only_State_send (sub_trans rfl hW) hs

theorem only_plForward {W : Nat} {s0 : State} (hW : Sub 0x44000000000000000000000000000000000000000000000000800000c W)  {n : Nat} {c : PlCell} {s : State} (hs : Only W s0 s) :
    Only W s0 (plForward n c s) := by
  unfold plForward
  extract_lets +onlyGivenNames -merge -useContext -underBinder x1
  refine only_ite ?_ ?_
  · exact only_plLocal (sub_trans rfl hW) hs
  · refine only_ite ?_ ?_
    · exact hs
    · extract_lets +onlyGivenNames -merge -useContext -underBinder x2
      refine only_ite ?_ ?_
      · exact only_State_satInc (sub_trans rfl hW) hs
      · exact only_plEmit (sub_trans rfl hW) hs

theorem only_plBroadcast {W : Nat} {s0 : State} (hW : Sub 0x44000000000000000000000000000000000000000000000000800000c W)  {n : Nat} {c : PlCell} {s : State} (hs : Only W s0 s) :
    Only W s0 (plBroadcast n c s) := by
  unfold plBroadcast
  refine only_ite ?_ ?_
  · exact only_State_satInc (sub_trans rfl hW) hs
  · extract_lets +onlyGivenNames -merge -useContext -underBinder x1
    refine only_iter (fun x t ht => ?_) ?_
    · refine only_ite ?_ ?_
      · refine only_ite ?_ ?_
        · refine only_State_satInc (sub_trans rfl hW) ?_
          assumption
        · refine only_ite ?_ ?_
          · refine only_State_satInc (sub_trans rfl hW) ?_
            assumption
          · refine only_plSend (sub_trans rfl hW) ?_
            assumption
      · assumption
    · exact only_plLocal (sub_trans rfl hW) hs

theorem only_plArrive {W : Nat} {s0 : State} (hW : Sub 0x44000000000000000000000000000000000000000000000000800000c W)  {n : Nat} {c : PlCell} {s : State} (hs : Only W s0 s) :
    Only W s0 (plArrive n c s) := by
  unfold plArrive
  refine only_ite ?_ ?_
  · exact hs
  · refine only_ite ?_ ?_
    · exact only_plDiscard (sub_trans rfl hW) hs
    · refine only_ite ?_ ?_
      · exact only_plDiscard (sub_trans rfl hW) hs
      · refine only_ite ?_ ?_
        · exact only_plBroadcast (sub_trans rfl hW) hs
        · refine only_ite ?_ ?_
          · exact only_plLocal (sub_trans rfl hW) hs
          · exact only_plForward (sub_trans rfl hW) hs

theorem only_plQueueOut {W : Nat} {s0 : State} (hW : Sub 0x44000000000000000000000000000000000000000000000000800000c W)  {n : Nat} {s : State} (hs : Only W s0 s) :
    Only W s0 (plQueueOut n s) := by
  unfold plQueueOut
  extract_lets +onlyGivenNames -merge -useContext -underBinder x1
  refine only_foldl (fun t x ht => ?_) ?_
  · refine only_plSend (sub_trans rfl hW) ?_
    assumption
  · refine only_plQ (sub_trans rfl hW) ?_ _
    exact hs

theorem only_plTrain {W : Nat} {s0 : State} (hW : Sub 0x30000000000000000000000000000000000000000000000008000004 W)  {n : Nat} {s : State} (hs : Only W s0 s) :
    Only W s0 (plTrain n s) := by
  unfold plTrain
  extract_lets +onlyGivenNames -merge -useContext -underBinder x1
  have hx1 : Only W s0 (x1) := only_State_setB (sub_trans rfl hW) (only_State_setF (sub_trans rfl hW) hs)
  try clear_value x1
  exact only_State_setPl (sub_trans rfl hW) hx1

theorem only_plDown {W : Nat} {s0 : State} (hW : Sub 0x3000000000000000000000000000000000000000000000000800000c W)  {n : Nat} {s : State} (hs : Only W s0 s) :
    Only W s0 (plDown n s) := by
  unfold plDown
  refine only_ite ?_ ?_
  · exact hs
  · extract_lets +onlyGivenNames -merge -useContext -underBinder x1
    have hx1 : Only W s0 (x1) := only_State_setB (sub_trans rfl hW) (only_State_setF (sub_trans rfl hW) hs)
    try clear_value x1
    extract_lets +onlyGivenNames -merge -useContext -underBinder x2 x3
    have hx2 : Only W s0 (x2) := only_State_setB (sub_trans rfl hW) hx1
    try clear_value x2
    have hx3 : Only W s0 (x3) := by
      unfold x3
      refine only_out (sub_trans rfl hW) ?_ _
      exact hx2
    try clear_value x3
    exact only_State_setPl (sub_trans rfl hW) hx3

theorem only_plWrDone {W : Nat} {s0 : State} (hW : Sub 0x8000000000000000000000800000c W)  {n : Nat} {tag : Nat} {s : State} (hs : Only W s0 s) :
    Only W s0 (plWrDone n tag s) := by
  unfold plWrDone
  split
  · refine only_ioReply (sub_trans rfl hW) ?_
    refine only_plTx (sub_trans rfl hW) ?_ _
    exact hs
  · exact hs

theorem only_plAcked {W : Nat} {s0 : State} (hW : Sub 0x8000000000000000000000800000c W)  {n : Nat} {k : Nat} {s : State} (hs : Only W s0 s) :
    Only W s0 (plAcked n k s) := by
  unfold plAcked
  extract_lets +onlyGivenNames -merge -useContext -underBinder x1
  extract_lets +onlyGivenNames -merge -useContext -underBinder x2
  extract_lets +onlyGivenNames -merge -useContext -underBinder x3
  refine only_ite ?_ ?_
  · exact hs
  · extract_lets +onlyGivenNames -merge -useContext -underBinder x4
    extract_lets +onlyGivenNames -merge -useContext -underBinder x5 x6
    have hx5 : Only W s0 (x5) := only_State_setPl (sub_trans rfl hW) hs
    try clear_value x5
    have hx6 : Only W s0 (x6) := by
      unfold x6
      refine only_out (sub_trans rfl hW) ?_ _
      exact hx5
    try clear_value x6
    refine only_foldl (fun t x ht => ?_) ?_
    · split
      · refine only_ite ?_ ?_
        · refine only_plWrDone (sub_trans rfl hW) ?_
          assumption
        · assumption
      · assumption
    · exact hx6

theorem only_plDelay {W : Nat} {s0 : State} (hW : Sub 0x20000000000000000000000000000000000000000000000008000006 W)  {n : Nat} {turn : Nat} {t1 : Word} {t4 : Word} {s : State} (hs : Only W s0 s) :
    Only W s0 (plDelay n turn t1 t4 s) := by
  unfold plDelay
  refine only_ite ?_ ?_
  · exact hs
  · extract_lets +onlyGivenNames -merge -useContext -underBinder x1
    extract_lets +onlyGivenNames -merge -useContext -underBinder x2
    extract_lets +onlyGivenNames -merge -useContext -underBinder x3
    extract_lets +onlyGivenNames -merge -useContext -underBinder x4
    extract_lets +onlyGivenNames -merge -useContext -underBinder x5
    extract_lets +onlyGivenNames -merge -useContext -underBinder x6
    have hx6 : Only W s0 (x6) := only_State_bump (sub_trans rfl hW) (only_State_setPl (sub_trans rfl hW) hs)
    try clear_value x6
    refine only_ite ?_ ?_
    · exact hx6
    · extract_lets +onlyGivenNames -merge -useContext -underBinder x7
      refine only_State_bump (sub_trans rfl hW) ?_
      exact only_State_setB (sub_trans rfl hW) (only_State_setR (sub_trans rfl hW) hx6)

theorem only_plAckFrame {W : Nat} {s0 : State} (hW : Sub 0x47000000000000000000000000000000000000000000000000800000e W)  {n : Nat} {ackFrame : Nat} {turn : Nat} {t : Word} {s : State} (hs : Only W s0 s) :
    Only W s0 (plAckFrame n ackFrame turn t s) := by
  unfold plAckFrame
  extract_lets +onlyGivenNames -merge -useContext -underBinder x1
  split
  · exact hs
  · refine only_ite ?_ ?_
    · exact hs
    · extract_lets +onlyGivenNames -merge -useContext -underBinder x2
      have hx2 : Only W s0 (x2) := only_State_setPl (sub_trans rfl hW) hs
      try clear_value x2
      extract_lets +onlyGivenNames -merge -useContext -underBinder x3
      have hx3 : Only W s0 (x3) := only_plDelay (sub_trans rfl hW) hx2
      try clear_value x3
      split
      · exact hx3
      · refine only_ite ?_ ?_
        · refine only_plQueueOut (sub_trans rfl hW) ?_
          exact only_State_setF (sub_trans rfl hW) (only_State_setPl (sub_trans rfl hW) hx3)
        · exact only_State_setPl (sub_trans rfl hW) hx3

theorem only_plDrop {W : Nat} {s0 : State} (hW : Sub 0x70000000000000000000000000000000000000000000000008000004 W)  {n : Nat} {nak : Bool} {s : State} (hs : Only W s0 s) :
    Only W s0 (plDrop n nak s) := by
  unfold plDrop
  extract_lets +onlyGivenNames -merge -useContext -underBinder x1
  extract_lets +onlyGivenNames -merge -useContext -underBinder x2
  extract_lets +onlyGivenNames -merge -useContext -underBinder x3
  have hx3 : Only W s0 (x3) := only_State_setPl (sub_trans rfl hW) (only_State_satInc (sub_trans rfl hW) hs)
  try clear_value x3
  refine only_ite ?_ ?_
  · exact only_plTrain (sub_trans rfl hW) hx3
  · exact hx3

theorem only_execPalegNak {W : Nat} {s0 : State} (hW : Sub 0x7000000000000000000000000008000000000000000000000800000c W)  {n : Nat} {ackseq : Nat} {s : State} (hs : Only W s0 s) :
    OnlyOut W s0 (execPalegNak n ackseq s) := by
  unfold execPalegNak
  refine onlyOut_ite ?_ ?_
  · exact only_next hs
  · extract_lets +onlyGivenNames -merge -useContext -underBinder x1
    have hx1 : Only W s0 (x1) := only_State_satInc (sub_trans rfl hW) (only_plAcked (sub_trans rfl hW) hs)
    try clear_value x1
    extract_lets +onlyGivenNames -merge -useContext -underBinder x2
    refine onlyOut_ite ?_ ?_
    · exact only_next (only_plTrain (sub_trans rfl hW) hx1)
    · exact only_next (only_State_setPl (sub_trans rfl hW) hx1)

theorem only_execPalegTrainingDone {W : Nat} {s0 : State} (hW : Sub 0x47000000000000000000000000000000000000000000000000800000c W)  {n : Nat} {ok : Bool} {id : Nat} {role : Nat} {s : State} (hs : Only W s0 s) :
    OnlyOut W s0 (execPalegTrainingDone n ok id role s) := by
  unfold execPalegTrainingDone
  refine onlyOut_ite ?_ ?_
  · exact only_next hs
  · extract_lets +onlyGivenNames -merge -useContext -underBinder x1
    have hx1 : Only W s0 (x1) := only_plTrain (sub_trans rfl hW) (only_State_setF (sub_trans rfl hW) hs)
    try clear_value x1
    extract_lets +onlyGivenNames -merge -useContext -underBinder x2
    extract_lets +onlyGivenNames -merge -useContext -underBinder x3
    extract_lets +onlyGivenNames -merge -useContext -underBinder x4
    have hx4 : Only W s0 (x4) := by
      unfold x4
      refine only_ite ?_ ?_
      · exact hx1
      · exact only_State_setB (sub_trans rfl hW) hx1
    try clear_value x4
    extract_lets +onlyGivenNames -merge -useContext -underBinder x5
    have hx5 : Only W s0 (x5) := by
      unfold x5
      refine only_ite ?_ ?_
      · exact only_State_setB (sub_trans rfl hW) hx4
      · exact hx4
    try clear_value x5
    refine onlyOut_ite ?_ ?_
    · refine only_next ?_
      refine only_plQueueOut (sub_trans rfl hW) ?_
      exact only_State_setB (sub_trans rfl hW) (only_State_setF (sub_trans rfl hW) hx5)
    · exact only_next hx5

theorem only_execPalegLinkDown {W : Nat} {s0 : State} (hW : Sub 0x3000000000000000000000000000000000000000000000000800000c W)  {n : Nat} {s : State} (hs : Only W s0 s) :
    OnlyOut W s0 (execPalegLinkDown n s) := by
  unfold execPalegLinkDown
  exact only_next (only_plDown (sub_trans rfl hW) hs)

theorem only_plPortCfgWrite {W : Nat} {s0 : State} (hW : Sub 0x43800000000000000000000000000000000000000000000000800000c W)  {n : Nat} {v : Word} {s : State} (hs : Only W s0 s) :
    Only W s0 (plPortCfgWrite n v s) := by
  unfold plPortCfgWrite
  extract_lets +onlyGivenNames -merge -useContext -underBinder x1
  extract_lets +onlyGivenNames -merge -useContext -underBinder x2
  extract_lets +onlyGivenNames -merge -useContext -underBinder x3
  extract_lets +onlyGivenNames -merge -useContext -underBinder x4
  refine only_ite ?_ ?_
  · exact only_State_setB (sub_trans rfl hW) hs
  · extract_lets +onlyGivenNames -merge -useContext -underBinder x5
    have hx5 : Only W s0 (x5) := only_State_wr (sub_trans rfl hW) hs
    try clear_value x5
    extract_lets +onlyGivenNames -merge -useContext -underBinder x6
    have hx6 : Only W s0 (x6) := by
      unfold x6
      refine only_ite ?_ ?_
      · exact only_State_setB (sub_trans rfl hW) hx5
      · exact hx5
    try clear_value x6
    refine only_ite ?_ ?_
    · exact only_plTrain (sub_trans rfl hW) hx6
    · refine only_ite ?_ ?_
      · exact only_plDown (sub_trans rfl hW) hx6
      · exact hx6

theorem only_execPalegPortEnable {W : Nat} {s0 : State} (hW : Sub 0x4380000e000000700000000000000000000000000000000000800002c W)  {a : Access} {n : Nat} {v : Word} {s : State} (hs : Only W s0 s) :
    OnlyOut W s0 (execPalegPortEnable a n v s) := by
  unfold execPalegPortEnable
  refine only_next ?_
  refine only_guarded (sub_trans rfl hW) ?_ ?_
  · intro y1 hy1
    exact only_plPortCfgWrite (sub_trans rfl hW) hy1
  · exact hs

theorem only_plCmdWrite {W : Nat} {s0 : State} (hW : Sub 0x30000000000000000000000000000000000000000000000008000004 W)  {n : Nat} {v : Word} {s : State} (hs : Only W s0 s) :
    Only W s0 (plCmdWrite n v s) := by
  unfold plCmdWrite
  extract_lets +onlyGivenNames -merge -useContext -underBinder x1 x2
  try clear_value x1
  have hx2 : Only W s0 (x2) := by
    unfold x2
    refine only_ite ?_ ?_
    · exact only_State_setPl (sub_trans rfl hW) hs
    · exact hs
  try clear_value x2
  refine only_ite ?_ ?_
  · exact only_plTrain (sub_trans rfl hW) hx2
  · exact hx2

theorem only_execRetrain {W : Nat} {s0 : State} (hW : Sub 0x300000e0000007000000000000000000000000000000000008000024 W)  {a : Access} {n : Nat} {v : Word} {s : State} (hs : Only W s0 s) :
    OnlyOut W s0 (execRetrain a n v s) := by
  unfold execRetrain
  refine only_next ?_
  refine only_guarded (sub_trans rfl hW) ?_ ?_
  · intro y1 hy1
    exact only_plCmdWrite (sub_trans rfl hW) hy1
  · exact hs

theorem only_execRejoin {W : Nat} {s0 : State} (hW : Sub 0x300000e0000007000000000000000000000000000000000008000024 W)  {a : Access} {n : Nat} {v : Word} {s : State} (hs : Only W s0 s) :
    OnlyOut W s0 (execRejoin a n v s) := by
  unfold execRejoin
  refine only_next ?_
  refine only_guarded (sub_trans rfl hW) ?_ ?_
  · intro y1 hy1
    exact only_plCmdWrite (sub_trans rfl hW) hy1
  · exact hs

theorem only_plOut {W : Nat} {s0 : State} (hW : Sub 0x400000e000000700000000000008000000000000000000000800000c W)  {win : Nat} {p : Packet} {s : State} (hs : Only W s0 s) :
    Only W s0 (plOut win p s) := by
  unfold plOut
  extract_lets +onlyGivenNames -merge -useContext -underBinder x1
  split
  · extract_lets +onlyGivenNames -merge -useContext -underBinder x2
    extract_lets +onlyGivenNames -merge -useContext -underBinder x3
    extract_lets +onlyGivenNames -merge -useContext -underBinder x4
    refine only_ite ?_ ?_
    · exact only_ioReply (sub_trans rfl hW) (only_denyWorld (sub_trans rfl hW) hs)
    · refine only_ite ?_ ?_
      · exact only_ioReply (sub_trans rfl hW) (only_denyPart (sub_trans rfl hW) hs)
      · extract_lets +onlyGivenNames -merge -useContext -underBinder x5
        extract_lets +onlyGivenNames -merge -useContext -underBinder x6
        extract_lets +onlyGivenNames -merge -useContext -underBinder x7
        extract_lets +onlyGivenNames -merge -useContext -underBinder x8
        extract_lets +onlyGivenNames -merge -useContext -underBinder x9
        extract_lets +onlyGivenNames -merge -useContext -underBinder x10
        refine only_ite ?_ ?_
        · exact only_ioReply (sub_trans rfl hW) hs
        · refine only_ite ?_ ?_
          · refine only_ioReply (sub_trans rfl hW) ?_
            refine only_ite ?_ ?_
            · exact hs
            · exact only_plDiscard (sub_trans rfl hW) hs
          · refine only_ite ?_ ?_
            · refine only_plWait (sub_trans rfl hW) ?_ _
              exact hs
            · extract_lets +onlyGivenNames -merge -useContext -underBinder x11
              extract_lets +onlyGivenNames -merge -useContext -underBinder x12
              refine only_ite ?_ ?_
              · extract_lets +onlyGivenNames -merge -useContext -underBinder x13
                have hx13 : Only W s0 (x13) := only_plLocal (sub_trans rfl hW) hs
                try clear_value x13
                refine only_ite ?_ ?_
                · refine only_plTx (sub_trans rfl hW) ?_ _
                  exact hx13
                · exact only_ioReply (sub_trans rfl hW) hx13
              · extract_lets +onlyGivenNames -merge -useContext -underBinder x14
                have hx14 : Only W s0 (x14) := by
                  unfold x14
                  refine only_plTx (sub_trans rfl hW) ?_ _
                  exact hs
                try clear_value x14
                refine only_ite ?_ ?_
                · exact only_State_send (sub_trans rfl hW) hx14
                · exact hx14

theorem only_plWaitGo {W : Nat} {s0 : State} (hW : Sub 0x400000e000000700000000000008000000000000000000000800000c W)   {s : State} (hs : Only W s0 s) :
    Only W s0 (plWaitGo s) := by
  unfold plWaitGo
  split
  · exact hs
  · extract_lets +onlyGivenNames -merge -useContext -underBinder x1
    have hx1 : Only W s0 (x1) := by
      unfold x1
      refine only_plWait (sub_trans rfl hW) ?_ _
      exact hs
    try clear_value x1
    split
    · exact only_plOut (sub_trans rfl hW) hx1
    · exact only_ioReply (sub_trans rfl hW) hx1

theorem only_plWaitAll {W : Nat} {s0 : State} (hW : Sub 0x400000e000000700000000000008000000000000000000000800000c W)   {s : State} (hs : Only W s0 s) :
    Only W s0 (plWaitAll s) := by
  unfold plWaitAll
  refine only_iter (fun x t ht => ?_) ?_
  · refine only_plWaitGo (sub_trans rfl hW) ?_
    assumption
  · exact hs

theorem only_execPalegFlitReceive {W : Nat} {s0 : State} (hW : Sub 0x4700000e000000700000000000008000000000000000000000800000e W)  {n : Nat} {crcOk : Bool} {ftype : Nat} {seq : Nat} {ack : Option Nat} {ackFrame : Nat} {turn : Nat} {t : Word} {cells : List PlCell} {s : State} (hs : Only W s0 s) :
    OnlyOut W s0 (execPalegFlitReceive n crcOk ftype seq ack ackFrame turn t cells s) := by
  unfold execPalegFlitReceive
  refine onlyOut_ite ?_ ?_
  · exact only_next hs
  · extract_lets +onlyGivenNames -merge -useContext -underBinder x1
    extract_lets +onlyGivenNames -merge -useContext -underBinder x2
    refine onlyOut_ite ?_ ?_
    · exact only_next (only_plDrop (sub_trans rfl hW) hs)
    · refine onlyOut_ite ?_ ?_
      · exact only_next (only_plDrop (sub_trans rfl hW) hs)
      · refine onlyOut_ite ?_ ?_
        · exact only_next (only_plDrop (sub_trans rfl hW) hs)
        · extract_lets +onlyGivenNames -merge -useContext -underBinder x3
          extract_lets +onlyGivenNames -merge -useContext -underBinder x4
          have hx4 : Only W s0 (x4) := only_State_setPl (sub_trans rfl hW) hs
          try clear_value x4
          extract_lets +onlyGivenNames -merge -useContext -underBinder x5
          have hx5 : Only W s0 (x5) := by
            unfold x5
            split
            · exact only_plAcked (sub_trans rfl hW) hx4
            · exact hx4
          try clear_value x5
          extract_lets +onlyGivenNames -merge -useContext -underBinder x6
          have hx6 : Only W s0 (x6) := only_plWaitAll (sub_trans rfl hW) (only_plAckFrame (sub_trans rfl hW) hx5)
          try clear_value x6
          refine only_next ?_
          refine only_ite ?_ ?_
          · refine only_foldl (fun t x ht => ?_) ?_
            · refine only_plArrive (sub_trans rfl hW) ?_
              assumption
            · exact hx6
          · exact hx6

theorem only_execRdRsp {W : Nat} {s0 : State} (hW : Sub 0x400000e000000700000000000008000000000000000000000800000c W)  {n : Nat} {s : State} (hs : Only W s0 s) :
    OnlyOut W s0 (execRdRsp n s) := by
  unfold execRdRsp
  split
  · exact only_next hs
  · rename_i e1
    have k2 := only_plPop (sub_trans rfl hW) (by assumption) _ e1
    split
    · refine only_next ?_
      refine only_plDiscard (sub_trans rfl hW) ?_
      assumption
    · extract_lets +onlyGivenNames -merge -useContext -underBinder x3
      have hx3 : Only W s0 (x3) := by
        unfold x3
        refine only_plTx (sub_trans rfl hW) ?_ _
        assumption
      try clear_value x3
      extract_lets +onlyGivenNames -merge -useContext -underBinder x4
      exact only_next (only_plWaitGo (sub_trans rfl hW) (only_ioReply (sub_trans rfl hW) hx3))

theorem only_execPalegReadTimeout {W : Nat} {s0 : State} (hW : Sub 0x400000e000000700000000000008000000000000000000000800000c W)  {n : Nat} {tag : Nat} {s : State} (hs : Only W s0 s) :
    OnlyOut W s0 (execPalegReadTimeout n tag s) := by
  unfold execPalegReadTimeout
  split
  · exact only_next hs
  · refine onlyOut_ite ?_ ?_
    · exact only_next hs
    · refine only_next ?_
      refine only_plWaitGo (sub_trans rfl hW) ?_
      refine only_ioReply (sub_trans rfl hW) ?_
      refine only_plTx (sub_trans rfl hW) ?_ _
      exact hs

theorem only_plOwinWrite {W : Nat} {s0 : State} (hW : Sub 0x8400000000000000000000000000000000000000000000000000000004 W)  {g : Reg} {i : Nat} {v : Word} (qg : Sub (regBit g) W) {s : State} (hs : Only W s0 s) :
    Only W s0 (plOwinWrite g i v s) := by
  unfold plOwinWrite
  extract_lets +onlyGivenNames -merge -useContext -underBinder x1
  have hx1 : ∀ y0, Only W s0 (y0) → Only W s0 (x1 y0) := by
    unfold x1
    intro y2 hy2
    exact only_State_setB (sub_trans rfl hW) hy2
  try clear_value x1
  refine only_ite ?_ ?_
  · refine only_owinHeld (sub_trans rfl hW) ?_ ?_
    · intro y3 hy3
      exact hx1 _ hy3
    · exact hs
  · refine only_ite ?_ ?_
    · extract_lets +onlyGivenNames -merge -useContext -underBinder x4
      extract_lets +onlyGivenNames -merge -useContext -underBinder x5
      extract_lets +onlyGivenNames -merge -useContext -underBinder x6
      extract_lets +onlyGivenNames -merge -useContext -underBinder x7
      refine only_ite ?_ ?_
      · exact hx1 _ hs
      · exact only_State_wr qg hs
    · exact only_State_wr qg hs

theorem only_plJobEnd {W : Nat} {s0 : State} (hW : Sub 0x4000000000000000000000000000000000000000000000000800000c W)  {n : Nat} {j : InJob} {s : State} (hs : Only W s0 s) :
    Only W s0 (plJobEnd n j s) := by
  unfold plJobEnd
  split
  · exact hs
  · refine only_ite ?_ ?_
    · exact only_plReturn (sub_trans rfl hW) hs
    · refine only_ite ?_ ?_
      · exact only_plDiscard (sub_trans rfl hW) hs
      · exact hs

theorem only_plPump {W : Nat} {s0 : State} (hW : Sub 0x4000000000000000000000000428000000000000000000000c02100c W) {fuel n : Nat} {s : State}
    (hs : Only W s0 s) : Only W s0 (plPump fuel n s) := by
  induction fuel generalizing s with
  | zero => exact hs
  | succ fuel ih =>
    simp only [plPump]
    split
    · exact hs
    · exact only_ite (ih (only_plJobEnd (sub_trans rfl hW) (only_State_setInQ (sub_trans rfl hW) hs)))
        (only_inIssue (sub_trans rfl hW) hs)

theorem only_plDeny {W : Nat} {s0 : State} (hW : Sub 0xe0000007000000000000000000000000000000000000000004 W)  {n : Nat} {world : Bool} {c : PlCell} {s : State} (hs : Only W s0 s) :
    Only W s0 (plDeny n world c s) := by
  unfold plDeny
  extract_lets +onlyGivenNames -merge -useContext -underBinder x1
  extract_lets +onlyGivenNames -merge -useContext -underBinder x2
  refine only_ite ?_ ?_
  · exact only_denyWorld (sub_trans rfl hW) hs
  · refine only_ite ?_ ?_
    · exact only_denyPart (sub_trans rfl hW) hs
    · exact hs

theorem only_plAccept {W : Nat} {s0 : State} (hW : Sub 0x400000e000000700000000000428000000000000000000000d02100e W)  {n : Nat} {c : PlCell} {x : Xlate} {s : State} (hs : Only W s0 s) :
    Only W s0 (plAccept n c x s) := by
  unfold plAccept
  extract_lets +onlyGivenNames -merge -useContext -underBinder x1
  extract_lets +onlyGivenNames -merge -useContext -underBinder x2
  extract_lets +onlyGivenNames -merge -useContext -underBinder x3
  extract_lets +onlyGivenNames -merge -useContext -underBinder x4
  have hx4 : ∀ y0 y1, Only W s0 (y1) → Only W s0 (x4 y0 y1) := by
    unfold x4
    intro y5 y6 hy6
    exact only_plPump (sub_trans rfl hW) (only_inJoin (sub_trans rfl hW) hy6)
  try clear_value x4
  refine only_ite ?_ ?_
  · exact hx4 _ _ hs
  · split
    · exact hx4 _ _ hs
    · extract_lets +onlyGivenNames -merge -useContext -underBinder x7
      extract_lets +onlyGivenNames -merge -useContext -underBinder x8
      extract_lets +onlyGivenNames -merge -useContext -underBinder x9
      refine only_ite ?_ ?_
      · exact hx4 _ _ (only_plDeny (sub_trans rfl hW) hs)
      · refine only_ite ?_ ?_
        · exact hx4 _ _ (only_plDeny (sub_trans rfl hW) hs)
        · split
          · exact hx4 _ _ (only_iommuFault (sub_trans rfl hW) (only_State_bump (sub_trans rfl hW) hs))
          · refine only_ite ?_ ?_
            · exact hx4 _ _ hs
            · exact only_plPump (sub_trans rfl hW) (only_inJoin (sub_trans rfl hW) hs)

theorem only_execWr {W : Nat} {s0 : State} (hW : Sub 0x400000e000000700000000000428000000000000000000000d02100e W)  {n : Nat} {x : Xlate} {s : State} (hs : Only W s0 s) :
    OnlyOut W s0 (execWr n x s) := by
  unfold execWr
  split
  · exact only_next hs
  · rename_i e1
    have k2 := only_plPop (sub_trans rfl hW) (by assumption) _ e1
    refine only_next ?_
    refine only_plAccept (sub_trans rfl hW) ?_
    assumption

theorem only_execRd {W : Nat} {s0 : State} (hW : Sub 0x400000e000000700000000000428000000000000000000000d02100e W)  {n : Nat} {x : Xlate} {s : State} (hs : Only W s0 s) :
    OnlyOut W s0 (execRd n x s) := by
  unfold execRd
  split
  · exact only_next hs
  · rename_i e1
    have k2 := only_plPop (sub_trans rfl hW) (by assumption) _ e1
    refine only_next ?_
    refine only_plAccept (sub_trans rfl hW) ?_
    assumption

theorem only_iwinTake {W : Nat} {s0 : State} (hW : Sub 0x4000000 W)  {g : Reg} {i : Nat} {s : State} (hs : Only W s0 s) :
    Only W s0 (iwinTake g i s) := by
  unfold iwinTake
  refine only_iwinCur (sub_trans rfl hW) ?_ _
  exact hs

theorem only_jobsOld {W : Nat} {s0 : State} (hW : Sub 0x4000000 W)  {p : Nat → InJob → Bool} {s : State} (hs : Only W s0 s) :
    Only W s0 (jobsOld p s) := by
  unfold jobsOld
  refine only_iter (fun x t ht => ?_) ?_
  · refine only_State_setInQ (sub_trans rfl hW) ?_
    assumption
  · exact hs

theorem only_plCommitWrite {W : Nat} {s0 : State} (hW : Sub 0x400400000000000000000000000000000000000000000000000004000004 W)  {v : Word} {s : State} (hs : Only W s0 s) :
    Only W s0 (plCommitWrite v s) := by
  unfold plCommitWrite
  refine only_ite ?_ ?_
  · exact hs
  · refine only_ite ?_ ?_
    · exact only_State_setB (sub_trans rfl hW) hs
    · extract_lets +onlyGivenNames -merge -useContext -underBinder x1
      have hx1 : Only W s0 (x1) := by
        unfold x1
        refine only_iter (fun x t ht => ?_) ?_
        · refine only_iwinTake (sub_trans rfl hW) ?_
          refine only_iwinTake (sub_trans rfl hW) ?_
          refine only_iwinTake (sub_trans rfl hW) ?_
          refine only_iwinTake (sub_trans rfl hW) ?_
          assumption
        · exact hs
      try clear_value x1
      exact only_State_setB (sub_trans rfl hW) (only_jobsOld (sub_trans rfl hW) hx1)

theorem only_execPlWindowCommit {W : Nat} {s0 : State} (hW : Sub 0x4004000000e0000007000000000000000000000000000000000004000024 W)  {a : Access} {v : Word} {s : State} (hs : Only W s0 s) :
    OnlyOut W s0 (execPlWindowCommit a v s) := by
  unfold execPlWindowCommit
  refine only_next ?_
  refine only_guarded (sub_trans rfl hW) ?_ ?_
  · intro y1 hy1
    exact only_plCommitWrite (sub_trans rfl hW) hy1
  · exact hs

theorem only_execPlOldMappingDrained {W : Nat} {s0 : State} (hW : Sub 0x400400000000000000000000000000000000000000000000000000000004 W)   {s : State} (hs : Only W s0 s) :
    OnlyOut W s0 (execPlOldMappingDrained s) := by
  unfold execPlOldMappingDrained
  refine onlyOut_ite ?_ ?_
  · exact only_next (only_State_setB (sub_trans rfl hW) (only_State_setB (sub_trans rfl hW) hs))
  · exact only_next hs

theorem only_msgTxWrite {W : Nat} {s0 : State} (hW : Sub 0x44000000000000000000000000000000000000000000000000800000c W)  {a : Access} {v : Word} {s : State} (hs : Only W s0 s) :
    Only W s0 (msgTxWrite a v s) := by
  unfold msgTxWrite
  exact only_plSend (sub_trans rfl hW) hs

theorem only_execMsgTx {W : Nat} {s0 : State} (hW : Sub 0x4400000e000000700000000000000000000000000000000000800002c W)  {a : Access} {v : Word} {s : State} (hs : Only W s0 s) :
    OnlyOut W s0 (execMsgTx a v s) := by
  unfold execMsgTx
  refine only_next ?_
  refine only_guarded (sub_trans rfl hW) ?_ ?_
  · intro y1 hy1
    exact only_msgTxWrite (sub_trans rfl hW) hy1
  · exact hs

theorem only_setPlRx {W : Nat} {s0 : State} (hW : Sub 0x1000000000000000000000000000000000000000000000000008000004 W)  {w : Nat} {q : List (Word × Word)} {s : State} (hs : Only W s0 s) :
    Only W s0 (setPlRx w q s) := by
  unfold setPlRx
  extract_lets +onlyGivenNames -merge -useContext -underBinder x1
  have hx1 : Only W s0 (x1) := by
    unfold x1
    refine only_plRx (sub_trans rfl hW) ?_ _
    exact hs
  try clear_value x1
  exact only_State_setR (sub_trans rfl hW) hx1

theorem only_plRxPush {W : Nat} {s0 : State} (hW : Sub 0x1400000000000000000000000000000000000000000000000008000004 W)  {w : Nat} {c : PlCell} {s : State} (hs : Only W s0 s) :
    Only W s0 (plRxPush w c s) := by
  unfold plRxPush
  extract_lets +onlyGivenNames -merge -useContext -underBinder x1
  refine only_ite ?_ ?_
  · exact only_State_setB (sub_trans rfl hW) hs
  · exact only_setPlRx (sub_trans rfl hW) hs

theorem only_plMsgIrq {W : Nat} {s0 : State} (hW : Sub 0x8 W)  {n : Nat} {t : Nat} {s : State} (hs : Only W s0 s) :
    Only W s0 (plMsgIrq n t s) := by
  unfold plMsgIrq
  extract_lets +onlyGivenNames -merge -useContext -underBinder x1
  extract_lets +onlyGivenNames -merge -useContext -underBinder x2
  extract_lets +onlyGivenNames -merge -useContext -underBinder x3
  extract_lets +onlyGivenNames -merge -useContext -underBinder x4
  extract_lets +onlyGivenNames -merge -useContext -underBinder x5
  refine only_ite ?_ ?_
  · exact hs
  · exact only_State_send (sub_trans rfl hW) hs

theorem only_execMsg {W : Nat} {s0 : State} (hW : Sub 0x140000000000000000000000000000000000000000000000000800000c W)  {n : Nat} {s : State} (hs : Only W s0 s) :
    OnlyOut W s0 (execMsg n s) := by
  unfold execMsg
  split
  · exact only_next hs
  · rename_i e1
    have k2 := only_plPop (sub_trans rfl hW) (by assumption) _ e1
    extract_lets +onlyGivenNames -merge -useContext -underBinder x3
    extract_lets +onlyGivenNames -merge -useContext -underBinder x4
    extract_lets +onlyGivenNames -merge -useContext -underBinder x5
    have hx5 : Only W s0 (x5) := by
      unfold x5
      refine only_State_satInc (sub_trans rfl hW) ?_
      assumption
    try clear_value x5
    extract_lets +onlyGivenNames -merge -useContext -underBinder x6
    refine onlyOut_ite ?_ ?_
    · exact only_next hx5
    · split
      · exact only_next hx5
      · refine only_next ?_
        refine only_plRxPush (sub_trans rfl hW) ?_
        assumption
      · refine only_next ?_
        refine only_plMsgIrq (sub_trans rfl hW) ?_
        refine only_plRxPush (sub_trans rfl hW) ?_
        assumption
      · refine only_next ?_
        refine only_State_send (sub_trans rfl hW) ?_
        assumption

theorem only_msgRxPop {W : Nat} {s0 : State} (hW : Sub 0x3000000000000000000000000000000000000000000000000008000024 W)  {w : Nat} {s : State} (hs : Only W s0 s) :
    Only W s0 (msgRxPop w s) := by
  unfold msgRxPop
  extract_lets +onlyGivenNames -merge -useContext -underBinder x1
  split
  · exact only_State_answer (sub_trans rfl hW) hs
  · refine only_State_answer (sub_trans rfl hW) ?_
    exact only_State_setR (sub_trans rfl hW) (only_setPlRx (sub_trans rfl hW) hs)

theorem only_execMsgRxRead {W : Nat} {s0 : State} (hW : Sub 0x30000000e0000007000000000000000000000000000000000008000024 W)  {a : Access} {w : Bool} {s : State} (hs : Only W s0 s) :
    OnlyOut W s0 (execMsgRxRead a w s) := by
  unfold execMsgRxRead
  extract_lets +onlyGivenNames -merge -useContext -underBinder x1
  refine only_next ?_
  refine only_guarded (sub_trans rfl hW) ?_ ?_
  · intro y2 hy2
    exact only_msgRxPop (sub_trans rfl hW) hy2
  · exact hs

theorem only_plFrameOut {W : Nat} {s0 : State} (hW : Sub 0x8000008 W)  {n : Nat} {s : State} (hs : Only W s0 s) :
    Only W s0 (plFrameOut n s) := by
  unfold plFrameOut
  extract_lets +onlyGivenNames -merge -useContext -underBinder x1
  extract_lets +onlyGivenNames -merge -useContext -underBinder x2
  extract_lets +onlyGivenNames -merge -useContext -underBinder x3
  exact only_State_send (sub_trans rfl hW) (only_State_setPl (sub_trans rfl hW) hs)

theorem only_execPhaseFrameSend {W : Nat} {s0 : State} (hW : Sub 0x8000048 W)   {s : State} (hs : Only W s0 s) :
    OnlyOut W s0 (execPhaseFrameSend s) := by
  unfold execPhaseFrameSend
  refine onlyOut_ite ?_ ?_
  · exact only_next hs
  · refine only_next ?_
    refine only_iter (fun x t ht => ?_) ?_
    · refine only_ite ?_ ?_
      · refine only_plFrameOut (sub_trans rfl hW) ?_
        assumption
      · assumption
    · refine only_frameAt (sub_trans rfl hW) ?_ _
      exact hs

theorem only_execPhaseFrame {W : Nat} {s0 : State} (hW : Sub 0x88039f600000003ce W)  {n : Nat} {t2 : Word} {first : Bool} {f : PhFrame} {s : State} (hs : Only W s0 s) :
    OnlyOut W s0 (execPhaseFrame n t2 first f s) := by
  unfold execPhaseFrame
  refine onlyOut_ite ?_ ?_
  · exact only_next hs
  · extract_lets +onlyGivenNames -merge -useContext -underBinder x1
    refine only_next ?_
    refine only_iter (fun x t ht => ?_) ?_
    · extract_lets +onlyGivenNames -merge -useContext -underBinder x2
      refine only_ite ?_ ?_
      · extract_lets +onlyGivenNames -merge -useContext -underBinder x3
        have hx3 : Only W s0 (x3) := by
          unfold x3
          refine only_portEdge (sub_trans rfl hW) ?_
          assumption
        try clear_value x3
        refine only_ite ?_ ?_
        · exact only_State_setB (sub_trans rfl hW) (only_State_setF (sub_trans rfl hW) hx3)
        · exact hx3
      · assumption
    · exact hs

theorem only_execBranchLost {W : Nat} {s0 : State} (hW : Sub 0x50000000000000000000000000000000000000000000000008000004 W)  {n : Nat} {s : State} (hs : Only W s0 s) :
    OnlyOut W s0 (execBranchLost n s) := by
  unfold execBranchLost
  extract_lets +onlyGivenNames -merge -useContext -underBinder x1
  split
  · exact only_next hs
  · refine onlyOut_ite ?_ ?_
    · exact only_next hs
    · extract_lets +onlyGivenNames -merge -useContext -underBinder x2
      have hx2 : Only W s0 (x2) := only_State_satInc (sub_trans rfl hW) (only_State_setPl (sub_trans rfl hW) hs)
      try clear_value x2
      refine only_next ?_
      refine only_ite ?_ ?_
      · exact only_State_setB (sub_trans rfl hW) (only_State_setF (sub_trans rfl hW) hx2)
      · exact hx2

end Sys2Proof.Machine
end

