-- ==== Sys2Proof/Laws/KeepPcie.lean ====
section
/-! SUPPORT. What the definitions of Machine/Pcie.lean leave alone: one lemma for each that answers a state. -/
namespace Sys2Proof.Machine

theorem only_State_setPeC {W : Nat} {s0 : State} (hW : Sub 0x2000000 W)  {k : Nat} {c : PeCfg} {s : State} (hs : Only W s0 s) :
    Only W s0 (State.setPeC s k c) := by
  unfold State.setPeC
  refine only_peCfg (sub_trans rfl hW) ?_ _
  exact hs

theorem only_peSend {W : Nat} {s0 : State} (hW : Sub 0x2000008 W)  {n : Nat} {t : Tlp} {s : State} (hs : Only W s0 s) :
    Only W s0 (peSend n t s) := by
  unfold peSend
  refine only_out_aspm_peIdle (sub_trans rfl hW) ?_ _ _ _
  exact hs

theorem only_pePortCfgWrite {W : Nat} {s0 : State} (hW : Sub 0x600000000000000000000000000000000000000000000000004 W)  {n : Nat} {v : Word} {s : State} (hs : Only W s0 s) :
    Only W s0 (pePortCfgWrite n v s) := by
  unfold pePortCfgWrite
  refine only_ite ?_ ?_
  · exact only_State_setB (sub_trans rfl hW) hs
  · exact only_State_wr (sub_trans rfl hW) hs

theorem only_peOwinWrite {W : Nat} {s0 : State} (hW : Sub 0x1c400000000000000000000000000000000000000000000000004 W)  {i : Nat} {word : Nat} {v : Word} {s : State} (hs : Only W s0 s) :
    Only W s0 (peOwinWrite i word v s) := by
  unfold peOwinWrite
  extract_lets +onlyGivenNames -merge -useContext -underBinder x1
  extract_lets +onlyGivenNames -merge -useContext -underBinder x2
  have hx2 : ∀ y0, Only W s0 (y0) → Only W s0 (x2 y0) := by
    unfold x2
    intro y3 hy3
    exact only_State_setB (sub_trans rfl hW) hy3
  try clear_value x2
  extract_lets +onlyGivenNames -merge -useContext -underBinder x4
  have qx4 : Sub (regBit x4) W := (sub_iteG (sub_trans rfl hW) (sub_iteG (sub_trans rfl hW) (sub_trans rfl hW)))
  refine only_ite ?_ ?_
  · refine only_owinHeld (sub_trans rfl hW) ?_ ?_
    · intro y5 hy5
      exact hx2 _ hy5
    · exact hs
  · refine only_ite ?_ ?_
    · extract_lets +onlyGivenNames -merge -useContext -underBinder x6
      extract_lets +onlyGivenNames -merge -useContext -underBinder x7
      extract_lets +onlyGivenNames -merge -useContext -underBinder x8
      extract_lets +onlyGivenNames -merge -useContext -underBinder x9
      extract_lets +onlyGivenNames -merge -useContext -underBinder x10
      extract_lets +onlyGivenNames -merge -useContext -underBinder x11
      refine only_ite ?_ ?_
      · exact hx2 _ hs
      · exact only_State_wr qx4 hs
    · exact only_State_wr qx4 hs

theorem only_worldKept {W : Nat} {s0 : State} {a : Access} {f : Fld} {i : Nat} {act : State → State} (qf : Sub (regBit f.reg) W) (hact : ∀ y0, Only W s0 (y0) → Only W s0 (act y0)) {s : State} (hs : Only W s0 s) :
    Only W s0 (worldKept a f i act s) := by
  unfold worldKept
  extract_lets +onlyGivenNames -merge -useContext -underBinder x1
  extract_lets +onlyGivenNames -merge -useContext -underBinder x2
  have hx2 : Only W s0 (x2) := by
    unfold x2
    refine hact _ ?_
    exact hs
  try clear_value x2
  refine only_ite ?_ ?_
  · exact hx2
  · exact only_State_setB qf hx2

theorem only_execOutboundWindowWrite {W : Nat} {s0 : State} (hW : Sub 0x1c4e0000007000000000000000000000000000000000000000024 W)  {a : Access} {i : Nat} {word : Nat} {v : Word} {s : State} (hs : Only W s0 s) :
    OnlyOut W s0 (execOutboundWindowWrite a i word v s) := by
  unfold execOutboundWindowWrite
  extract_lets +onlyGivenNames -merge -useContext -underBinder x1
  have qx1 : Sub (regBit x1) W := (sub_iteG (sub_trans rfl hW) (sub_iteG (sub_trans rfl hW) (sub_trans rfl hW)))
  refine only_next ?_
  refine only_guarded (sub_trans rfl hW) ?_ ?_
  · intro y2 hy2
    refine only_ite ?_ ?_
    · refine only_worldKept (sub_trans rfl hW) ?_ ?_
      · intro y3 hy3
        exact only_peOwinWrite (sub_trans rfl hW) hy3
      · exact hy2
    · exact only_peOwinWrite (sub_trans rfl hW) hy2
  · exact hs

theorem only_peGo {W : Nat} {s0 : State} (hW : Sub 0x2000008 W) {e : PeHeld} {s : State} (hs : Only W s0 s) :
    OnlyOpt W s0 (peGo e s) := by
  unfold peGo
  extract_lets +onlyGivenNames -merge -useContext n sent
  have hsent (tag : Nat) {t : State} (ht : Only W s0 t) : Only W s0 (sent tag t) := by
    have hp := only_peSend (sub_trans rfl hW) (n := n) (t := e.tlp tag) ht
    exact only_ite (only_peWr (sub_trans rfl hW) hp _) hp
  refine only_ite_optSt (optSt_some (hsent 0 hs)) fun p hp => ?_
  obtain ⟨tag, -, rfl⟩ := Option.map_eq_some_iff.1 hp
  exact hsent tag (only_peRd (sub_trans rfl hW) hs _)

theorem only_peAsk {W : Nat} {s0 : State} (hW : Sub 0x2000008 W) {e : PeHeld} {s : State} (hs : Only W s0 s) :
    Only W s0 (peAsk e s) := by
  have hh := only_peWait (sub_trans rfl hW) hs (s.peWait ++ [e])
  have hg := only_peGo (sub_trans rfl hW) (e := e) hs
  refine only_ite hh ?_
  cases h : peGo e s with
  | none => exact hh
  | some t => exact hg t h

theorem only_peWaitGo {W : Nat} {s0 : State} (hW : Sub 0x2000008 W)  {n : Nat} {l : Nat} {s : State} (hs : Only W s0 s) :
    Only W s0 (peWaitGo n l s) := by
  unfold peWaitGo
  refine only_foldl (fun t x ht => ?_) ?_
  · refine only_ite ?_ ?_
    · refine only_peAsk (sub_trans rfl hW) ?_
      assumption
    · refine only_peWait (sub_trans rfl hW) ?_ _
      assumption
  · refine only_peWait (sub_trans rfl hW) ?_ _
    exact hs

theorem only_peCombSend {W : Nat} {s0 : State} (hW : Sub 0x2000008 W)  {n : Nat} {s : State} (hs : Only W s0 s) :
    Only W s0 (peCombSend n s) := by
  unfold peCombSend
  split
  · exact hs
  · extract_lets +onlyGivenNames -merge -useContext -underBinder x1
    have hx1 : Only W s0 (x1) := by
      unfold x1
      refine only_peComb (sub_trans rfl hW) ?_ _
      exact hs
    try clear_value x1
    extract_lets +onlyGivenNames -merge -useContext -underBinder x2
    exact only_peAsk (sub_trans rfl hW) hx1

theorem only_peCombEnd {W : Nat} {s0 : State} (hW : Sub 0x2000008 W)  {n : Nat} {src : Nat} {s : State} (hs : Only W s0 s) :
    Only W s0 (peCombEnd n src s) := by
  unfold peCombEnd
  split
  · refine only_ite ?_ ?_
    · exact only_peCombSend (sub_trans rfl hW) hs
    · exact hs
  · exact hs

theorem only_peCombine {W : Nat} {s0 : State} (hW : Sub 0x2000008 W)  {n : Nat} {win : Nat} {ch : Nat} {addr : Nat} {len : Nat} {p : Packet} {s : State} (hs : Only W s0 s) :
    Only W s0 (peCombine n win ch addr len p s) := by
  unfold peCombine
  extract_lets +onlyGivenNames -merge -useContext -underBinder x1
  extract_lets +onlyGivenNames -merge -useContext -underBinder x2
  have hx2 : Only W s0 (x2) := by
    unfold x2
    refine only_ite ?_ ?_
    · exact hs
    · exact only_peCombSend (sub_trans rfl hW) hs
  try clear_value x2
  extract_lets +onlyGivenNames -merge -useContext -underBinder x3
  extract_lets +onlyGivenNames -merge -useContext -underBinder x4
  extract_lets +onlyGivenNames -merge -useContext -underBinder x5
  have hx5 : Only W s0 (x5) := by
    unfold x5
    refine only_peComb (sub_trans rfl hW) ?_ _
    exact hx2
  try clear_value x5
  refine only_ite ?_ ?_
  · exact only_peCombSend (sub_trans rfl hW) hx5
  · exact hx5

theorem only_peOut {W : Nat} {s0 : State} (hW : Sub 0xe000000700000000000008000000000000000000000200000c W)  {win : Nat} {p : Packet} {s : State} (hs : Only W s0 s) :
    Only W s0 (peOut win p s) := by
  unfold peOut
  extract_lets +onlyGivenNames -merge -useContext -underBinder x1
  extract_lets +onlyGivenNames -merge -useContext -underBinder x2
  split
  · extract_lets +onlyGivenNames -merge -useContext -underBinder x3
    extract_lets +onlyGivenNames -merge -useContext -underBinder x4
    extract_lets +onlyGivenNames -merge -useContext -underBinder x5
    extract_lets +onlyGivenNames -merge -useContext -underBinder x6
    extract_lets +onlyGivenNames -merge -useContext -underBinder x7
    try clear_value x7
    refine only_ite ?_ ?_
    · exact only_ioReply (sub_trans rfl hW) (only_denyWorld (sub_trans rfl hW) hs)
    · refine only_ite ?_ ?_
      · exact only_ioReply (sub_trans rfl hW) (only_denyPart (sub_trans rfl hW) hs)
      · refine only_ite ?_ ?_
        · exact only_ioReply (sub_trans rfl hW) hs
        · extract_lets +onlyGivenNames -merge -useContext -underBinder x8
          refine only_ite ?_ ?_
          · exact only_ioReply (sub_trans rfl hW) hs
          · extract_lets +onlyGivenNames -merge -useContext -underBinder x9
            extract_lets +onlyGivenNames -merge -useContext -underBinder x10
            extract_lets +onlyGivenNames -merge -useContext -underBinder x11
            refine only_ite ?_ ?_
            · split
              · exact only_peCombine (sub_trans rfl hW) hs
              · exact only_peAsk (sub_trans rfl hW) (only_peCombEnd (sub_trans rfl hW) hs)
            · exact only_peAsk (sub_trans rfl hW) (only_peCombEnd (sub_trans rfl hW) hs)

theorem only_execReadCombineTimeout {W : Nat} {s0 : State} (hW : Sub 0x2000008 W)  {n : Nat} {s : State} (hs : Only W s0 s) :
    OnlyOut W s0 (execReadCombineTimeout n s) := by
  unfold execReadCombineTimeout
  exact only_next (only_peCombSend (sub_trans rfl hW) hs)

theorem only_peDeliver {W : Nat} {s0 : State} (hW : Sub 0x8000000000000000000000000000c W)  {r : PeRd} {s : State} (hs : Only W s0 s) :
    Only W s0 (peDeliver r s) := by
  unfold peDeliver
  extract_lets +onlyGivenNames -merge -useContext -underBinder x1
  refine only_foldl (fun t x ht => ?_) ?_
  · refine only_ite ?_ ?_
    · split
      · refine only_ioReply (sub_trans rfl hW) ?_
        assumption
    · assumption
  · exact hs

theorem only_peFailAll {W : Nat} {s0 : State} (hW : Sub 0x8000000000000000000000000000c W)  {r : PeRd} {s : State} (hs : Only W s0 s) :
    Only W s0 (peFailAll r s) := by
  unfold peFailAll
  refine only_foldl (fun t x ht => ?_) ?_
  · refine only_ioReply (sub_trans rfl hW) ?_
    assumption
  · exact hs

theorem only_peRelease {W : Nat} {s0 : State} (hW : Sub 0x2000008 W)  {r : PeRd} {s : State} (hs : Only W s0 s) :
    Only W s0 (peRelease r s) := by
  unfold peRelease
  extract_lets +onlyGivenNames -merge -useContext -underBinder x1
  extract_lets +onlyGivenNames -merge -useContext -underBinder x2
  have hx2 : Only W s0 (x2) := by
    unfold x2
    refine only_out_peRd (sub_trans rfl hW) ?_ _ _
    exact hs
  try clear_value x2
  exact only_peWaitGo (sub_trans rfl hW) hx2

theorem only_execPcieCompletion {W : Nat} {s0 : State} (hW : Sub 0x40000000000000000000008000000000000000000000200000c W)  {n : Nat} {t : Tlp} {s : State} (hs : Only W s0 s) :
    OnlyOut W s0 (execPcieCompletion n t s) := by
  unfold execPcieCompletion
  split
  · exact only_next (only_State_satInc (sub_trans rfl hW) hs)
  · extract_lets +onlyGivenNames -merge -useContext -underBinder x1
    refine onlyOut_ite ?_ ?_
    · extract_lets +onlyGivenNames -merge -useContext -underBinder x2
      have hx2 : Only W s0 (x2) := only_State_satInc (sub_trans rfl hW) hs
      try clear_value x2
      refine only_next ?_
      refine only_ite ?_ ?_
      · exact only_peRelease (sub_trans rfl hW) hx2
      · refine only_peRd (sub_trans rfl hW) ?_ _
        exact hx2
    · refine onlyOut_ite ?_ ?_
      · exact only_next (only_peRelease (sub_trans rfl hW) (only_peFailAll (sub_trans rfl hW) hs))
      · extract_lets +onlyGivenNames -merge -useContext -underBinder x3
        extract_lets +onlyGivenNames -merge -useContext -underBinder x4
        have hx4 : Only W s0 (x4) := only_peDeliver (sub_trans rfl hW) hs
        try clear_value x4
        extract_lets +onlyGivenNames -merge -useContext -underBinder x5
        extract_lets +onlyGivenNames -merge -useContext -underBinder x6
        have hx6 : Only W s0 (x6) := by
          unfold x6
          refine only_peRd (sub_trans rfl hW) ?_ _
          exact hx4
        try clear_value x6
        refine only_next ?_
        refine only_ite ?_ ?_
        · exact only_peRelease (sub_trans rfl hW) hx6
        · exact hx6

theorem only_execCompletionTimeout {W : Nat} {s0 : State} (hW : Sub 0x40000000000000000000008000000000000000000000200000c W)  {n : Nat} {link : Nat} {tag : Nat} {s : State} (hs : Only W s0 s) :
    OnlyOut W s0 (execCompletionTimeout n link tag s) := by
  unfold execCompletionTimeout
  split
  · exact only_next hs
  · refine onlyOut_ite ?_ ?_
    · exact only_next (only_peRelease (sub_trans rfl hW) hs)
    · refine only_next ?_
      refine only_State_setB (sub_trans rfl hW) ?_
      exact only_peRelease (sub_trans rfl hW) (only_peFailAll (sub_trans rfl hW) hs)

theorem only_execPcieAck {W : Nat} {s0 : State} (hW : Sub 0x8000000000000000000000200000c W)  {n : Nat} {link : Nat} {s : State} (hs : Only W s0 s) :
    OnlyOut W s0 (execPcieAck n link s) := by
  unfold execPcieAck
  split
  · exact only_next hs
  · extract_lets +onlyGivenNames -merge -useContext -underBinder x1
    have hx1 : Only W s0 (x1) := by
      unfold x1
      refine only_out_peWr (sub_trans rfl hW) ?_ _ _
      exact hs
    try clear_value x1
    split
    · exact only_next (only_ioReply (sub_trans rfl hW) hx1)
    · exact only_next hx1

theorem only_fnNotify {W : Nat} {s0 : State} (hW : Sub 0x8 W)  {n : Nat} {f : Nat} {s : State} (hs : Only W s0 s) :
    Only W s0 (fnNotify n f s) := by
  unfold fnNotify
  split
  · exact hs
  · extract_lets +onlyGivenNames -merge -useContext -underBinder x1
    refine only_ite ?_ ?_
    · exact hs
    · exact only_State_send (sub_trans rfl hW) hs

theorem only_doorbell {W : Nat} {s0 : State} (hW : Sub 0x8000000000000000000000000000000000000000000000000000c W)  {n : Nat} {f : Nat} {v : Word} {s : State} (hs : Only W s0 s) :
    Only W s0 (doorbell n f v s) := by
  unfold doorbell
  extract_lets +onlyGivenNames -merge -useContext -underBinder x1
  extract_lets +onlyGivenNames -merge -useContext -underBinder x2
  extract_lets +onlyGivenNames -merge -useContext -underBinder x3
  have hx3 : Only W s0 (x3) := only_State_setR (sub_trans rfl hW) hs
  try clear_value x3
  refine only_ite ?_ ?_
  · exact only_fnNotify (sub_trans rfl hW) hx3
  · exact hx3

theorem only_execHostDoorbell {W : Nat} {s0 : State} (hW : Sub 0x8000000000000000000000000000000000000000000000000000c W)  {n : Nat} {f : Nat} {v : Word} {s : State} (hs : Only W s0 s) :
    OnlyOut W s0 (execHostDoorbell n f v s) := by
  unfold execHostDoorbell
  refine only_next ?_
  refine only_ite ?_ ?_
  · exact only_doorbell (sub_trans rfl hW) hs
  · exact hs

theorem only_State_setVec {W : Nat} {s0 : State} (hW : Sub 0x2000000 W)  {k : Nat} {v : MsixVec} {s : State} (hs : Only W s0 s) :
    Only W s0 (State.setVec s k v) := by
  unfold State.setVec
  refine only_msix (sub_trans rfl hW) ?_ _
  exact hs

theorem only_msixSend {W : Nat} {s0 : State} (hW : Sub 0x2000008 W)  {n : Nat} {f : Nat} {k : Nat} {s : State} (hs : Only W s0 s) :
    Only W s0 (msixSend n f k s) := by
  unfold msixSend
  extract_lets +onlyGivenNames -merge -useContext -underBinder x1
  extract_lets +onlyGivenNames -merge -useContext -underBinder x2
  extract_lets +onlyGivenNames -merge -useContext -underBinder x3
  refine only_ite ?_ ?_
  · exact hs
  · refine only_ite ?_ ?_
    · exact only_State_setVec (sub_trans rfl hW) hs
    · extract_lets +onlyGivenNames -merge -useContext -underBinder x4
      have hx4 : Only W s0 (x4) := only_State_setVec (sub_trans rfl hW) hs
      try clear_value x4
      exact only_peAsk (sub_trans rfl hW) hx4

theorem only_msixUnmask {W : Nat} {s0 : State} (hW : Sub 0x2000008 W)  {n : Nat} {f : Nat} {s : State} (hs : Only W s0 s) :
    Only W s0 (msixUnmask n f s) := by
  unfold msixUnmask
  refine only_iter (fun x t ht => ?_) ?_
  · refine only_ite ?_ ?_
    · refine only_msixSend (sub_trans rfl hW) ?_
      assumption
    · assumption
  · exact hs

theorem only_msixWrite {W : Nat} {s0 : State} (hW : Sub 0x2000028 W)  {n : Nat} {f : Nat} {v : Word} {s : State} (hs : Only W s0 s) :
    Only W s0 (msixWrite n f v s) := by
  unfold msixWrite
  refine only_ite ?_ ?_
  · exact only_State_answerErr (sub_trans rfl hW) hs
  · exact only_msixSend (sub_trans rfl hW) hs

theorem only_execMsixRaise {W : Nat} {s0 : State} (hW : Sub 0xe000000700000000000000000000000000000000000200002c W)  {a : Access} {n : Nat} {f : Nat} {v : Word} {s : State} (hs : Only W s0 s) :
    OnlyOut W s0 (execMsixRaise a n f v s) := by
  unfold execMsixRaise
  refine only_next ?_
  refine only_guarded (sub_trans rfl hW) ?_ ?_
  · intro y1 hy1
    exact only_msixWrite (sub_trans rfl hW) hy1
  · exact hs

theorem only_mbxCtrlWrite {W : Nat} {s0 : State} (hW : Sub 0x2000000000000000000000000000000000000000000000000000004 W)  {n : Nat} {f : Nat} {m : Nat} {v : Word} {s : State} (hs : Only W s0 s) :
    Only W s0 (mbxCtrlWrite n f m v s) := by
  unfold mbxCtrlWrite
  extract_lets +onlyGivenNames -merge -useContext -underBinder x1
  extract_lets +onlyGivenNames -merge -useContext -underBinder x2
  have hx2 : ∀ y0 y1, Sub (regBit y0.reg) W → Only W s0 (y1) → Only W s0 (x2 y0 y1) := by
    unfold x2
    intro y3 y4 qy3 hy4
    refine only_ite ?_ ?_
    · exact only_State_setB qy3 hy4
    · exact hy4
  try clear_value x2
  extract_lets +onlyGivenNames -merge -useContext -underBinder x5
  have hx5 : Only W s0 (x5) := hx2 _ _ (sub_trans rfl hW) (hx2 _ _ (sub_trans rfl hW) (hx2 _ _ (sub_trans rfl hW) hs))
  try clear_value x5
  extract_lets +onlyGivenNames -merge -useContext -underBinder x6
  extract_lets +onlyGivenNames -merge -useContext -underBinder x7
  refine only_ite ?_ ?_
  · refine only_ite ?_ ?_
    · exact hx5
    · exact only_State_setF (sub_trans rfl hW) hx5
  · refine only_ite ?_ ?_
    · extract_lets +onlyGivenNames -merge -useContext -underBinder x8
      have hx8 : Only W s0 (x8) := by
        unfold x8
        refine only_ite ?_ ?_
        · exact only_State_setB (sub_trans rfl hW) hx5
        · exact hx5
      try clear_value x8
      refine only_ite ?_ ?_
      · exact only_State_setB (sub_trans rfl hW) hx8
      · exact hx8
    · refine only_State_setB (sub_trans rfl hW) ?_
      exact only_State_setF (sub_trans rfl hW) (only_State_wrapInc (sub_trans rfl hW) hx5)

theorem only_execPublish {W : Nat} {s0 : State} (hW : Sub 0x20000e0000007000000000000000000000000000000000000000024 W)  {a : Access} {n : Nat} {f : Nat} {m : Nat} {v : Word} {s : State} (hs : Only W s0 s) :
    OnlyOut W s0 (execPublish a n f m v s) := by
  unfold execPublish
  refine only_next ?_
  refine only_guarded (sub_trans rfl hW) ?_ ?_
  · intro y1 hy1
    exact only_mbxCtrlWrite (sub_trans rfl hW) hy1
  · exact hs

theorem only_mbxDataWrite {W : Nat} {s0 : State} (hW : Sub 0x4000000000000000000000000000000000000000000000000000004 W)  {ix : Nat} {v : Word} {s : State} (hs : Only W s0 s) :
    Only W s0 (mbxDataWrite ix v s) := by
  unfold mbxDataWrite
  refine only_ite ?_ ?_
  · exact hs
  · exact only_State_setR (sub_trans rfl hW) hs

theorem only_mbxAck {W : Nat} {s0 : State} (hW : Sub 0x202000000000000000000000000000000000000000000000000000c W)  {n : Nat} {f : Nat} {m : Nat} {v : Word} {s : State} (hs : Only W s0 s) :
    Only W s0 (mbxAck n f m v s) := by
  unfold mbxAck
  extract_lets +onlyGivenNames -merge -useContext -underBinder x1
  refine only_ite ?_ ?_
  · extract_lets +onlyGivenNames -merge -useContext -underBinder x2
    have hx2 : Only W s0 (x2) := only_State_setB (sub_trans rfl hW) (only_State_setB (sub_trans rfl hW) hs)
    try clear_value x2
    refine only_ite ?_ ?_
    · exact only_fnNotify (sub_trans rfl hW) hx2
    · exact hx2
  · exact only_State_satInc (sub_trans rfl hW) hs

theorem only_execMailboxAck {W : Nat} {s0 : State} (hW : Sub 0x202000000000000000000000000000000000000000000000000000c W)  {n : Nat} {f : Nat} {m : Nat} {v : Word} {s : State} (hs : Only W s0 s) :
    OnlyOut W s0 (execMailboxAck n f m v s) := by
  unfold execMailboxAck
  refine only_next ?_
  refine only_ite ?_ ?_
  · exact only_mbxAck (sub_trans rfl hW) hs
  · exact hs

theorem only_peIwinTake {W : Nat} {s0 : State} (hW : Sub 0x4000000 W)  {g : Reg} {ix : Nat} {s : State} (hs : Only W s0 s) :
    Only W s0 (peIwinTake g ix s) := by
  unfold peIwinTake
  refine only_iwinCur (sub_trans rfl hW) ?_ _
  exact hs

theorem only_peCommitWrite {W : Nat} {s0 : State} (hW : Sub 0x1000000000000000000000000000000000000000000000004000004 W)  {n : Nat} {f : Nat} {v : Word} {s : State} (hs : Only W s0 s) :
    Only W s0 (peCommitWrite n f v s) := by
  unfold peCommitWrite
  extract_lets +onlyGivenNames -merge -useContext -underBinder x1
  extract_lets +onlyGivenNames -merge -useContext -underBinder x2
  have hx2 : Only W s0 (x2) := by
    unfold x2
    refine only_ite ?_ ?_
    · exact only_State_setB (sub_trans rfl hW) hs
    · exact hs
  try clear_value x2
  refine only_ite ?_ ?_
  · exact hx2
  · refine only_ite ?_ ?_
    · exact only_State_setB (sub_trans rfl hW) hx2
    · extract_lets +onlyGivenNames -merge -useContext -underBinder x3
      have hx3 : Only W s0 (x3) := by
        unfold x3
        refine only_iter (fun x t ht => ?_) ?_
        · refine only_peIwinTake (sub_trans rfl hW) ?_
          refine only_peIwinTake (sub_trans rfl hW) ?_
          refine only_peIwinTake (sub_trans rfl hW) ?_
          assumption
        · exact hx2
      try clear_value x3
      extract_lets +onlyGivenNames -merge -useContext -underBinder x4
      have hx4 : Only W s0 (x4) := only_State_setInQ (sub_trans rfl hW) hx3
      try clear_value x4
      exact only_State_setB (sub_trans rfl hW) hx4

theorem only_execWindowCommit {W : Nat} {s0 : State} (hW : Sub 0x10000e0000007000000000000000000000000000000000004000024 W)  {a : Access} {n : Nat} {f : Nat} {v : Word} {s : State} (hs : Only W s0 s) :
    OnlyOut W s0 (execWindowCommit a n f v s) := by
  unfold execWindowCommit
  refine only_next ?_
  refine only_guarded (sub_trans rfl hW) ?_ ?_
  · intro y1 hy1
    exact only_peCommitWrite (sub_trans rfl hW) hy1
  · exact hs

theorem only_execOldMappingDrained {W : Nat} {s0 : State} (hW : Sub 0x1000400000000000000000000000000000000000000000000000004 W)  {n : Nat} {f : Nat} {s : State} (hs : Only W s0 s) :
    OnlyOut W s0 (execOldMappingDrained n f s) := by
  unfold execOldMappingDrained
  refine onlyOut_ite ?_ ?_
  · exact only_next (only_State_setB (sub_trans rfl hW) (only_State_setB (sub_trans rfl hW) hs))
  · exact only_next hs

theorem only_peJobEnd {W : Nat} {s0 : State} (hW : Sub 0x40000000000000000000000000000000000000000000200000c W)  {n : Nat} {j : InJob} {s : State} (hs : Only W s0 s) :
    Only W s0 (peJobEnd n j s) := by
  unfold peJobEnd
  refine only_ite ?_ ?_
  · refine only_ite ?_ ?_
    · refine only_foldl (fun t x ht => ?_) ?_
      · refine only_peSend (sub_trans rfl hW) ?_
        assumption
      · exact hs
    · exact only_peSend (sub_trans rfl hW) hs
  · refine only_ite ?_ ?_
    · exact only_State_setB (sub_trans rfl hW) hs
    · exact hs

theorem only_pePump {W : Nat} {s0 : State} (hW : Sub 0x40000000000000000000428000000000000000000000602100c W) {fuel n : Nat} {s : State}
    (hs : Only W s0 s) : Only W s0 (pePump fuel n s) := by
  induction fuel generalizing s with
  | zero => exact hs
  | succ fuel ih =>
    simp only [pePump]
    split
    · exact hs
    · exact only_ite (ih (only_peJobEnd (sub_trans rfl hW) (only_State_setInQ (sub_trans rfl hW) hs)))
        (only_inIssue (sub_trans rfl hW) hs)

theorem only_peAccept {W : Nat} {s0 : State} (hW : Sub 0x40000000000000000000428000000000000000000000602100c W)  {n : Nat} {j : InJob} {s : State} (hs : Only W s0 s) :
    Only W s0 (peAccept n j s) := by
  unfold peAccept
  exact only_pePump (sub_trans rfl hW) (only_inJoin (sub_trans rfl hW) hs)

theorem only_peRootReq {W : Nat} {s0 : State} (hW : Sub 0x4e000000000000000000428000000000000000000000702100e W)  {n : Nat} {t : Tlp} {x : Xlate} {s : State} (hs : Only W s0 s) :
    Only W s0 (peRootReq n t x s) := by
  unfold peRootReq
  extract_lets +onlyGivenNames -merge -useContext -underBinder x1
  try clear_value x1
  extract_lets +onlyGivenNames -merge -useContext -underBinder x2
  extract_lets +onlyGivenNames -merge -useContext -underBinder x3
  extract_lets +onlyGivenNames -merge -useContext -underBinder x4
  extract_lets +onlyGivenNames -merge -useContext -underBinder x5
  extract_lets +onlyGivenNames -merge -useContext -underBinder x6
  refine only_ite ?_ ?_
  · exact only_peAccept (sub_trans rfl hW) (only_denyPart (sub_trans rfl hW) hs)
  · split
    · refine only_peAccept (sub_trans rfl hW) ?_
      exact only_iommuFault (sub_trans rfl hW) (only_State_bump (sub_trans rfl hW) hs)
    · refine only_ite ?_ ?_
      · exact only_peAccept (sub_trans rfl hW) hs
      · exact only_peAccept (sub_trans rfl hW) hs

theorem only_msixTableWrite {W : Nat} {s0 : State} (hW : Sub 0x2000008 W)  {n : Nat} {f : Nat} {o : Nat} {v : Nat} {s : State} (hs : Only W s0 s) :
    Only W s0 (msixTableWrite n f o v s) := by
  unfold msixTableWrite
  extract_lets +onlyGivenNames -merge -useContext -underBinder x1
  extract_lets +onlyGivenNames -merge -useContext -underBinder x2
  extract_lets +onlyGivenNames -merge -useContext -underBinder x3
  exact only_msixUnmask (sub_trans rfl hW) (only_State_setVec (sub_trans rfl hW) hs)

theorem only_bar0Write {W : Nat} {s0 : State} (hW : Sub 0x20a000000000000000000000000000000000000000000000200000c W)  {n : Nat} {f : Nat} {o : Nat} {len : Nat} {v : Nat} {s : State} (hs : Only W s0 s) :
    Only W s0 (bar0Write n f o len v s) := by
  unfold bar0Write
  refine only_ite ?_ ?_
  · refine only_ite ?_ ?_
    · exact only_mbxAck (sub_trans rfl hW) hs
    · refine only_ite ?_ ?_
      · exact only_State_satInc (sub_trans rfl hW) hs
      · exact hs
  · refine only_ite ?_ ?_
    · refine only_ite ?_ ?_
      · exact only_msixTableWrite (sub_trans rfl hW) hs
      · refine only_ite ?_ ?_
        · exact only_msixTableWrite (sub_trans rfl hW) (only_msixTableWrite (sub_trans rfl hW) hs)
        · exact hs
    · refine only_ite ?_ ?_
      · exact only_doorbell (sub_trans rfl hW) hs
      · exact hs

theorem only_peFnReq {W : Nat} {s0 : State} (hW : Sub 0x20a040000000000000000000428000000000000000000000602100c W)  {n : Nat} {f : Nat} {t : Tlp} {s : State} (hs : Only W s0 s) :
    Only W s0 (peFnReq n f t s) := by
  unfold peFnReq
  extract_lets +onlyGivenNames -merge -useContext -underBinder x1
  extract_lets +onlyGivenNames -merge -useContext -underBinder x2
  split
  · exact only_peAccept (sub_trans rfl hW) hs
  · refine only_ite ?_ ?_
    · refine only_ite ?_ ?_
      · exact only_peAccept (sub_trans rfl hW) hs
      · exact hs
    · refine only_ite ?_ ?_
      · extract_lets +onlyGivenNames -merge -useContext -underBinder x3
        refine only_ite ?_ ?_
        · exact only_peAccept (sub_trans rfl hW) hs
        · refine only_ite ?_ ?_
          · exact only_peAccept (sub_trans rfl hW) hs
          · exact only_bar0Write (sub_trans rfl hW) hs
      · refine only_ite ?_ ?_
        · exact only_peAccept (sub_trans rfl hW) hs
        · split
          · exact only_peAccept (sub_trans rfl hW) hs
          · extract_lets +onlyGivenNames -merge -useContext -underBinder x4
            refine only_ite ?_ ?_
            · exact only_peAccept (sub_trans rfl hW) hs
            · extract_lets +onlyGivenNames -merge -useContext -underBinder x5
              refine only_ite ?_ ?_
              · exact only_peAccept (sub_trans rfl hW) hs
              · exact only_peAccept (sub_trans rfl hW) hs

theorem only_execPcieInboundRequest {W : Nat} {s0 : State} (hW : Sub 0x20a04e000000000000000000428000000000000000000000702100e W)  {n : Nat} {t : Tlp} {x : Xlate} {s : State} (hs : Only W s0 s) :
    OnlyOut W s0 (execPcieInboundRequest n t x s) := by
  unfold execPcieInboundRequest
  refine onlyOut_ite ?_ ?_
  · exact only_next hs
  · refine onlyOut_ite ?_ ?_
    · extract_lets +onlyGivenNames -merge -useContext -underBinder x1
      refine onlyOut_ite ?_ ?_
      · exact only_next hs
      · exact only_next (only_peFnReq (sub_trans rfl hW) hs)
    · exact only_next (only_peRootReq (sub_trans rfl hW) hs)

theorem only_peFailHeld {W : Nat} {s0 : State} (hW : Sub 0x8000000000000000000000000000c W)  {e : PeHeld} {s : State} (hs : Only W s0 s) :
    Only W s0 (peFailHeld e s) := by
  unfold peFailHeld
  split
  · exact only_ioReply (sub_trans rfl hW) hs
  · exact only_peFailAll (sub_trans rfl hW) hs

theorem only_fnQuiesce {W : Nat} {s0 : State} (hW : Sub 0x22402000000008000000000000000000000210100c W)  {n : Nat} {f : Nat} {s : State} (hs : Only W s0 s) :
    Only W s0 (fnQuiesce n f s) := by
  unfold fnQuiesce
  extract_lets +onlyGivenNames -merge -useContext -underBinder x1
  have hx1 : Only W s0 (x1) := by
    unfold x1
    refine only_foldl (fun t x ht => ?_) ?_
    · refine only_chAbort (sub_trans rfl hW) ?_
      refine only_chPause (sub_trans rfl hW) ?_
      assumption
    · exact hs
  try clear_value x1
  extract_lets +onlyGivenNames -merge -useContext -underBinder x2
  extract_lets +onlyGivenNames -merge -useContext -underBinder x3
  extract_lets +onlyGivenNames -merge -useContext -underBinder x4
  have hx4 : Only W s0 (x4) := by
    unfold x4
    refine only_foldl (fun t x ht => ?_) ?_
    · refine only_peFailAll (sub_trans rfl hW) ?_
      assumption
    · exact hx1
  try clear_value x4
  extract_lets +onlyGivenNames -merge -useContext -underBinder x5
  have hx5 : Only W s0 (x5) := by
    unfold x5
    refine only_peRd (sub_trans rfl hW) ?_ _
    exact hx4
  try clear_value x5
  extract_lets +onlyGivenNames -merge -useContext -underBinder x6
  extract_lets +onlyGivenNames -merge -useContext -underBinder x7
  have hx7 : Only W s0 (x7) := by
    unfold x7
    refine only_foldl (fun t x ht => ?_) ?_
    · refine only_peFailHeld (sub_trans rfl hW) ?_
      assumption
    · refine only_peWait (sub_trans rfl hW) ?_ _
      exact hx5
  try clear_value x7
  extract_lets +onlyGivenNames -merge -useContext -underBinder x8
  have hx8 : Only W s0 (x8) := only_peWaitGo (sub_trans rfl hW) hx7
  try clear_value x8
  split
  · refine only_ite ?_ ?_
    · refine only_foldl (fun t x ht => ?_) ?_
      · refine only_ioReply (sub_trans rfl hW) ?_
        assumption
      · refine only_peComb (sub_trans rfl hW) ?_ _
        exact hx8
    · exact hx8
  · exact hx8

theorem only_bmeOff {W : Nat} {s0 : State} (hW : Sub 0x2040000000022402000000008000000000000000000000210100c W)  {n : Nat} {f : Nat} {s : State} (hs : Only W s0 s) :
    Only W s0 (bmeOff n f s) := by
  unfold bmeOff
  refine only_ite ?_ ?_
  · refine only_fnQuiesce (sub_trans rfl hW) ?_
    exact only_State_setB (sub_trans rfl hW) (only_State_setB (sub_trans rfl hW) hs)
  · exact hs

theorem only_execBmeClear {W : Nat} {s0 : State} (hW : Sub 0x2040000000022402000000008000000000000000000000210100c W)  {n : Nat} {f : Nat} {s : State} (hs : Only W s0 s) :
    OnlyOut W s0 (execBmeClear n f s) := by
  unfold execBmeClear
  exact only_next (only_bmeOff (sub_trans rfl hW) hs)

theorem only_fnClear {W : Nat} {s0 : State} (hW : Sub 0x2080000000000000000000000000000000000000000000000000004 W)  {n : Nat} {f : Nat} {s : State} (hs : Only W s0 s) :
    Only W s0 (fnClear n f s) := by
  unfold fnClear
  extract_lets +onlyGivenNames -merge -useContext -underBinder x1
  have hx1 : Only W s0 (x1) := by
    unfold x1
    refine only_iter (fun x t ht => ?_) ?_
    · extract_lets +onlyGivenNames -merge -useContext -underBinder x2
      refine only_State_setF (sub_trans rfl hW) ?_
      refine only_State_setF (sub_trans rfl hW) ?_
      refine only_State_setB (sub_trans rfl hW) ?_
      assumption
    · exact hs
  try clear_value x1
  exact only_State_setR (sub_trans rfl hW) hx1

theorem only_fnReset {W : Nat} {s0 : State} (hW : Sub 0x20a000000000022402000000008000000000000000000000210100c W)  {n : Nat} {f : Nat} {s : State} (hs : Only W s0 s) :
    Only W s0 (fnReset n f s) := by
  unfold fnReset
  extract_lets +onlyGivenNames -merge -useContext -underBinder x1
  have hx1 : Only W s0 (x1) := only_fnQuiesce (sub_trans rfl hW) (only_State_setB (sub_trans rfl hW) hs)
  try clear_value x1
  extract_lets +onlyGivenNames -merge -useContext -underBinder x2
  have hx2 : Only W s0 (x2) := by
    unfold x2
    refine only_iter (fun x t ht => ?_) ?_
    · refine only_State_setVec (sub_trans rfl hW) ?_
      assumption
    · exact only_fnClear (sub_trans rfl hW) hx1
  try clear_value x2
  exact only_State_setB (sub_trans rfl hW) (only_State_setPeC (sub_trans rfl hW) hx2)

theorem only_fnFlr {W : Nat} {s0 : State} (hW : Sub 0x20a040000000022402000000008000000000000000000000210100c W)  {n : Nat} {f : Nat} {s : State} (hs : Only W s0 s) :
    Only W s0 (fnFlr n f s) := by
  unfold fnFlr
  extract_lets +onlyGivenNames -merge -useContext -underBinder x1
  have hx1 : Only W s0 (x1) := by
    unfold x1
    refine only_ite ?_ ?_
    · refine only_iter (fun x t ht => ?_) ?_
      · refine only_fnReset (sub_trans rfl hW) ?_
        assumption
      · exact hs
    · exact only_fnReset (sub_trans rfl hW) hs
  try clear_value x1
  exact only_State_setB (sub_trans rfl hW) hx1

theorem only_execFlr {W : Nat} {s0 : State} (hW : Sub 0x20a040000000022402000000008000000000000000000000210100c W)  {n : Nat} {f : Nat} {s : State} (hs : Only W s0 s) :
    OnlyOut W s0 (execFlr n f s) := by
  unfold execFlr
  refine only_next ?_
  refine only_ite ?_ ?_
  · exact only_fnFlr (sub_trans rfl hW) hs
  · exact hs

theorem only_execFlrDone {W : Nat} {s0 : State} (hW : Sub 0x20000000000000000000000000000000000000000000000000004 W)  {n : Nat} {f : Nat} {s : State} (hs : Only W s0 s) :
    OnlyOut W s0 (execFlrDone n f s) := by
  unfold execFlrDone
  refine onlyOut_ite ?_ ?_
  · exact only_next (only_State_setB (sub_trans rfl hW) (only_State_setB (sub_trans rfl hW) hs))
  · exact only_next hs

theorem only_peReset {W : Nat} {s0 : State} (hW : Sub 0x20a040000000022402000000008000000000000000000000210100c W)  {n : Nat} {s : State} (hs : Only W s0 s) :
    Only W s0 (peReset n s) := by
  unfold peReset
  extract_lets +onlyGivenNames -merge -useContext -underBinder x1
  have hx1 : Only W s0 (x1) := by
    unfold x1
    refine only_ite ?_ ?_
    · exact only_fnFlr (sub_trans rfl hW) hs
    · exact hs
  try clear_value x1
  extract_lets +onlyGivenNames -merge -useContext -underBinder x2
  have hx2 : Only W s0 (x2) := only_State_setFbit (sub_trans rfl hW) hx1
  try clear_value x2
  refine only_peLive (sub_trans rfl hW) ?_ _
  exact hx2

theorem only_execLinkReset {W : Nat} {s0 : State} (hW : Sub 0x20a040000000022402000000008000000000000000000000210100c W)  {n : Nat} {link : Nat} {s : State} (hs : Only W s0 s) :
    OnlyOut W s0 (execLinkReset n link s) := by
  unfold execLinkReset
  refine only_next ?_
  refine only_ite ?_ ?_
  · exact only_peReset (sub_trans rfl hW) hs
  · exact only_State_setFbit (sub_trans rfl hW) hs

theorem only_execPcieLinkEvent {W : Nat} {s0 : State} (hW : Sub 0x20a040000000022402000000008000000000000000000000210100c W)  {n : Nat} {link : Nat} {up : Bool} {s : State} (hs : Only W s0 s) :
    OnlyOut W s0 (execPcieLinkEvent n link up s) := by
  unfold execPcieLinkEvent
  refine onlyOut_ite ?_ ?_
  · exact only_next hs
  · extract_lets +onlyGivenNames -merge -useContext -underBinder x1
    have hx1 : Only W s0 (x1) := by
      unfold x1
      refine only_ite ?_ ?_
      · exact only_peReset (sub_trans rfl hW) hs
      · exact hs
    try clear_value x1
    extract_lets +onlyGivenNames -merge -useContext -underBinder x2
    have hx2 : Only W s0 (x2) := by
      unfold x2
      refine only_peIdle (sub_trans rfl hW) ?_ _
      exact hx1
    try clear_value x2
    exact only_next (only_State_setB (sub_trans rfl hW) (only_State_setFbit (sub_trans rfl hW) hx2))

theorem only_execConfigurationRequest {W : Nat} {s0 : State} (hW : Sub 0x20a040000000022402000000008000000000000000000000210100c W)  {n : Nat} {f : Nat} {wr : Bool} {dw : Nat} {v : BitVec 32} {e : CfgEffect} {s : State} (hs : Only W s0 s) :
    OnlyOut W s0 (execConfigurationRequest n f wr dw v e s) := by
  unfold execConfigurationRequest
  extract_lets +onlyGivenNames -merge -useContext -underBinder x1
  extract_lets +onlyGivenNames -merge -useContext -underBinder x2
  refine onlyOut_ite ?_ ?_
  · exact only_next hs
  · refine onlyOut_ite ?_ ?_
    · exact only_next (only_peSend (sub_trans rfl hW) hs)
    · extract_lets +onlyGivenNames -merge -useContext -underBinder x3
      have hx3 : Only W s0 (x3) := only_State_setPeC (sub_trans rfl hW) hs
      try clear_value x3
      extract_lets +onlyGivenNames -merge -useContext -underBinder x4
      extract_lets +onlyGivenNames -merge -useContext -underBinder x5
      have hx5 : Only W s0 (x5) := by
        unfold x5
        split
        · exact hx3
        · refine only_ite ?_ ?_
          · exact hx3
          · exact only_State_setB (sub_trans rfl hW) (only_State_setB (sub_trans rfl hW) hx3)
        · exact only_bmeOff (sub_trans rfl hW) hx3
        · refine only_ite ?_ ?_
          · exact only_State_setPeC (sub_trans rfl hW) hx3
          · exact hx3
        · exact only_msixUnmask (sub_trans rfl hW) (only_State_setPeC (sub_trans rfl hW) hx3)
        · exact only_msixUnmask (sub_trans rfl hW) (only_State_setPeC (sub_trans rfl hW) hx3)
        · exact only_State_setPeC (sub_trans rfl hW) hx3
        · refine only_aspm (sub_trans rfl hW) ?_ _
          exact hx3
        · exact only_fnFlr (sub_trans rfl hW) hx3
      try clear_value x5
      exact only_next (only_peSend (sub_trans rfl hW) hx5)

theorem only_execL0sEntry {W : Nat} {s0 : State} (hW : Sub 0x2000000 W)  {n : Nat} {link : Nat} {s : State} (hs : Only W s0 s) :
    OnlyOut W s0 (execL0sEntry n link s) := by
  unfold execL0sEntry
  refine onlyOut_ite ?_ ?_
  · refine only_next ?_
    refine only_aspm (sub_trans rfl hW) ?_ _
    exact hs
  · exact only_next hs

theorem only_execL1Entry {W : Nat} {s0 : State} (hW : Sub 0x2000000 W)  {n : Nat} {link : Nat} {s : State} (hs : Only W s0 s) :
    OnlyOut W s0 (execL1Entry n link s) := by
  unfold execL1Entry
  refine onlyOut_ite ?_ ?_
  · refine only_next ?_
    refine only_aspm (sub_trans rfl hW) ?_ _
    exact hs
  · exact only_next hs

end Sys2Proof.Machine
end

