-- ==== Sys2Proof/Laws/KeepResets.lean ====
section
/-! SUPPORT. What the definitions of Machine/Resets.lean leave alone: one lemma for each that answers a state. -/
namespace Sys2Proof.Machine

theorem only_evlog {W : Nat} {s0 : State} (hW : Sub 0x6000000000000000000000000000000000000000000000000000000000000004 W)  {code : Nat} {detail : Word} {s : State} (hs : Only W s0 s) :
    Only W s0 (evlog code detail s) := by
  unfold evlog
  extract_lets +onlyGivenNames -merge -useContext -underBinder x1
  extract_lets +onlyGivenNames -merge -useContext -underBinder x2
  have hx2 : Only W s0 (x2) := only_State_setR (sub_trans rfl hW) (only_State_setR (sub_trans rfl hW) hs)
  try clear_value x2
  exact only_State_setF (sub_trans rfl hW) hx2

theorem only_inBand {W : Nat} {s0 : State} (hW : Sub 0x20000000 W)  {code : Nat} {s : State} (hs : Only W s0 s) :
    Only W s0 (inBand code s) := by
  unfold inBand
  refine only_rack (sub_trans rfl hW) ?_ _
  exact hs

theorem only_startRecord {W : Nat} {s0 : State} (hW : Sub 0x6400000000000000000000000000000000000000000000000000000020000004 W)  {code : Nat} {s : State} (hs : Only W s0 s) :
    Only W s0 (startRecord code s) := by
  unfold startRecord
  extract_lets +onlyGivenNames -merge -useContext -underBinder x1
  have hx1 : Only W s0 (x1) := only_State_satInc (sub_trans rfl hW) hs
  try clear_value x1
  extract_lets +onlyGivenNames -merge -useContext -underBinder x2
  have hx2 : Only W s0 (x2) := by
    unfold x2
    refine only_State_setF (sub_trans rfl hW) ?_
    exact only_State_setF (sub_trans rfl hW) (only_State_setF (sub_trans rfl hW) hx1)
  try clear_value x2
  extract_lets +onlyGivenNames -merge -useContext -underBinder x3
  have hx3 : Only W s0 (x3) := only_State_setF (sub_trans rfl hW) (only_State_setB (sub_trans rfl hW) hx2)
  try clear_value x3
  exact only_inBand (sub_trans rfl hW) (only_evlog (sub_trans rfl hW) hx3)

theorem only_startFail {W : Nat} {s0 : State} (hW : Sub 0x6400000000000000000000000000000000000000000000000000000020000004 W)  {code : Nat} {s : State} (hs : Only W s0 s) :
    Only W s0 (startFail code s) := by
  unfold startFail
  extract_lets +onlyGivenNames -merge -useContext -underBinder x1
  have hx1 : Only W s0 (x1) := only_startRecord (sub_trans rfl hW) hs
  try clear_value x1
  refine only_boot (sub_trans rfl hW) ?_ _
  exact hx1

theorem only_startEnds {W : Nat} {s0 : State} (hW : Sub 0x6400000000000000000000000000000000000000000000000000000020000004 W)   {s : State} (hs : Only W s0 s) :
    Only W s0 (startEnds s) := by
  unfold startEnds
  refine only_ite ?_ ?_
  · exact only_startRecord (sub_trans rfl hW) hs
  · exact hs

theorem only_regPart {W : Nat} {s0 : State} (hW : Sub 0x80008100000000000000000800000000000000000000000000000000000000000004 W)  {k : PkgReset} {s : State} (hs : Only W s0 s) :
    Only W s0 (regPart k s) := by
  unfold regPart
  extract_lets +onlyGivenNames -merge -useContext -underBinder x1
  have hx1 : Only W s0 (x1) := by
    unfold x1
    refine only_State_setF (sub_trans rfl hW) ?_
    refine only_State_setF (sub_trans rfl hW) ?_
    exact only_State_setF (sub_trans rfl hW) (only_State_setF (sub_trans rfl hW) hs)
  try clear_value x1
  extract_lets +onlyGivenNames -merge -useContext -underBinder x2
  have hx2 : Only W s0 (x2) := by
    unfold x2
    refine only_ite ?_ ?_
    · exact hx1
    · exact only_State_setR (sub_trans rfl hW) hx1
  try clear_value x2
  extract_lets +onlyGivenNames -merge -useContext -underBinder x3
  have hx3 : Only W s0 (x3) := only_State_setB (sub_trans rfl hW) hx2
  try clear_value x3
  refine only_ite ?_ ?_
  · exact only_State_setR (sub_trans rfl hW) hx3
  · exact hx3

theorem only_skuFuses {W : Nat} {s0 : State} (hW : Sub allRegs W) {k : Sku} {s : State}
    (hs : Only W s0 { s with sku := k }) : Only W s0 (skuFuses k s) := by
  unfold skuFuses
  have hr {g : Reg} {i : Nat} {v : Word} {t : State} (ht : Only W s0 t) : Only W s0 (t.setR g i v) :=
    only_State_setR (all_regs rfl hW) ht
  exact only_ite hs (only_ite (hr hs) (only_iter (fun _ _ => hr) (only_iter (fun _ _ => hr) (only_iter (fun _ _ => hr) (hr hs)))))

theorem only_pkgReset {W : Nat} {s0 : State} (hW : Sub 0x7ffffffffffffffffffffffffffffffffffffffffffffffffffffffffffffffffffffe W) {k : PkgReset} {s : State}
    (hs : Only W s0 s) : Only W s0 (pkgReset k s) := by
  unfold pkgReset
  refine only_regPart (sub_trans rfl hW) (only_skuFuses (sub_trans rfl hW) ⟨⟨fun c => ⟨?_, smapWf_filter _ _ _ (hs.1.1 c).2⟩,
    fun hw => absurd (testBit_sub hW (i := storeBit) rfl) (by rw [hw]; decide)⟩, fun p hp => ?_, fun g hg _ => ?_⟩)
  · dsimp only
    split
    · exact (hs.1.1 c).1
    · rfl
  · cases p
    case queue => exact hs.2.1 .queue hp
    all_goals exact absurd (testBit_sub hW rfl) (by rw [hp]; decide)
  · rw [testBit_sub (all_regs rfl hW) (regBit_mark g)] at hg
    cases hg

theorem only_chimneyEnter {W : Nat} {s0 : State} (hW : Sub 0x6100000000000000000000000000000000000000000000000000000020000004 W)   {s : State} (hs : Only W s0 s) :
    Only W s0 (chimneyEnter s) := by
  unfold chimneyEnter
  extract_lets +onlyGivenNames -merge -useContext -underBinder x1
  have hx1 : Only W s0 (x1) := only_State_setF (sub_trans rfl hW) (only_State_setB (sub_trans rfl hW) hs)
  try clear_value x1
  exact only_inBand (sub_trans rfl hW) (only_evlog (sub_trans rfl hW) hx1)

theorem only_dieStart {W : Nat} {s0 : State} (hW : Sub 0x20000000000000000000000000000000000000000000000000000000080004 W)  {n : Nat} {port : Option Nat} {s : State} (hs : Only W s0 s) :
    Only W s0 (dieStart n port s) := by
  unfold dieStart
  extract_lets +onlyGivenNames -merge -useContext -underBinder x1
  have hx1 : Only W s0 (x1) := only_State_setF (sub_trans rfl hW) hs
  try clear_value x1
  refine only_dieTrans (sub_trans rfl hW) ?_ _
  exact hx1

theorem only_startStep2 {W : Nat} {s0 : State} (hW : Sub 0x6520000000000000000000000000000000000000400000000000000020480004 W)   {s : State} (hs : Only W s0 s) :
    Only W s0 (startStep2 s) := by
  unfold startStep2
  extract_lets +onlyGivenNames -merge -useContext -underBinder x1
  have hx1 : Only W s0 (x1) := only_State_setF (sub_trans rfl hW) hs
  try clear_value x1
  extract_lets +onlyGivenNames -merge -useContext -underBinder x2 x3
  try clear_value x2
  have hx3 : Only W s0 (x3) := by
    unfold x3
    refine only_helm (sub_trans rfl hW) ?_ _
    exact hx1
  try clear_value x3
  refine only_ite ?_ ?_
  · exact only_chimneyEnter (sub_trans rfl hW) hx3
  · refine only_ite ?_ ?_
    · exact only_chimneyEnter (sub_trans rfl hW) (only_startRecord (sub_trans rfl hW) hx3)
    · extract_lets +onlyGivenNames -merge -useContext -underBinder x4
      extract_lets +onlyGivenNames -merge -useContext -underBinder x5
      have hx5 : Only W s0 (x5) := by
        unfold x5
        refine only_State_wrapInc (sub_trans rfl hW) ?_
        exact only_State_setF (sub_trans rfl hW) (only_State_setF (sub_trans rfl hW) hx3)
      try clear_value x5
      extract_lets +onlyGivenNames -merge -useContext -underBinder x6
      have hx6 : Only W s0 (x6) := by
        unfold x6
        refine only_iter (fun x t ht => ?_) ?_
        · refine only_ite ?_ ?_
          · refine only_State_setF (sub_trans rfl hW) ?_
            assumption
          · assumption
        · exact hx5
      try clear_value x6
      refine only_iter (fun x t ht => ?_) ?_
      · refine only_dieStart (sub_trans rfl hW) ?_
        assumption
      · exact only_State_setF (sub_trans rfl hW) hx6

theorem only_hardReset {W : Nat} {s0 : State} (hW : Sub 0x7ffffffffffffffffffffffffffffffffffffffffffffffffffffffffffffffffffffe W)   {s : State} (hs : Only W s0 s) :
    Only W s0 (hardReset s) := by
  unfold hardReset
  refine only_startStep2 (sub_trans rfl hW) ?_
  exact only_pkgReset (sub_trans rfl hW) (only_evlog (sub_trans rfl hW) (only_startEnds (sub_trans rfl hW) hs))

theorem only_powerOnReset {W : Nat} {s0 : State} (hW : Sub 0x7ffffffffffffffffffffffffffffffffffffffffffffffffffffffffffffffffffffe W)   {s : State} (hs : Only W s0 s) :
    Only W s0 (powerOnReset s) := by
  unfold powerOnReset
  exact only_pkgReset (sub_trans rfl hW) (only_evlog (sub_trans rfl hW) (only_startEnds (sub_trans rfl hW) hs))

theorem only_goOff {W : Nat} {s0 : State} (hW : Sub 0x7ffffffffffffffffffffffffffffffffffffffffffffffffffffffffffffffffffffe W)   {s : State} (hs : Only W s0 s) :
    Only W s0 (goOff s) := by
  unfold goOff
  extract_lets +onlyGivenNames -merge -useContext -underBinder x1
  have hx1 : Only W s0 (x1) := only_State_setR (sub_trans rfl hW) (only_pkgReset (sub_trans rfl hW) hs)
  try clear_value x1
  refine only_pkgOff_aonTb (sub_trans rfl hW) ?_ _ _
  exact hx1

end Sys2Proof.Machine
end

