-- ==== Sys2Proof/Laws/KeepHelm.lean ====
section
/-! SUPPORT. What the definitions of Machine/Helm.lean leave alone: one lemma for each that answers a state. -/
namespace Sys2Proof.Machine

theorem only_bufWrite {W : Nat} {s0 : State} {g : Reg} {m : Nat} {off : Nat} {n : Nat} {v : Nat} (qg : Sub (regBit g) W) {s : State} (hs : Only W s0 s) :
    Only W s0 (bufWrite g m off n v s) := by
  unfold bufWrite
  refine only_iter (fun x t ht => ?_) ?_
  · refine only_ite ?_ ?_
    · assumption
    · extract_lets +onlyGivenNames -merge -useContext -underBinder x1
      refine only_State_setR qg ?_
      assumption
  · exact hs

theorem only_mbDone {W : Nat} {s0 : State} (hW : Sub 0x2800000000000000000000000000000000000002840000c W)  {m : Nat} {n : Nat} {v : Nat} {s : State} (hs : Only W s0 s) :
    Only W s0 (mbDone m n v s) := by
  unfold mbDone
  extract_lets +onlyGivenNames -merge -useContext -underBinder x1
  have hx1 : Only W s0 (x1) := only_bufWrite (sub_trans rfl hW) hs
  try clear_value x1
  extract_lets +onlyGivenNames -merge -useContext -underBinder x2
  have hx2 : Only W s0 (x2) := by
    unfold x2
    refine only_State_setB (sub_trans rfl hW) ?_
    exact only_State_setF (sub_trans rfl hW) (only_State_setF (sub_trans rfl hW) hx1)
  try clear_value x2
  extract_lets +onlyGivenNames -merge -useContext -underBinder x3
  have hx3 : Only W s0 (x3) := only_State_setB (sub_trans rfl hW) (only_State_setB (sub_trans rfl hW) hx2)
  try clear_value x3
  refine only_ite ?_ ?_
  · exact only_inBand (sub_trans rfl hW) hx3
  · refine only_ite ?_ ?_
    · split
      · extract_lets +onlyGivenNames -merge -useContext -underBinder x4
        have hx4 : Only W s0 (x4) := by
          unfold x4
          refine only_foldl (fun t x ht => ?_) ?_
          · refine only_plReturn (sub_trans rfl hW) ?_
            assumption
          · exact hx3
        try clear_value x4
        extract_lets +onlyGivenNames -merge -useContext -underBinder x5
        have hx5 : Only W s0 (x5) := only_State_setB (sub_trans rfl hW) hx4
        try clear_value x5
        refine only_helm (sub_trans rfl hW) ?_ _
        exact hx5
      · exact hx3
    · exact hx3

theorem only_respond {W : Nat} {s0 : State} (hW : Sub 0x2800000000000000000000000000000000000002840000e W)  {m : Nat} {status : Nat} {n : Nat} {p : Nat} {key : Option Nat} {s : State} (hs : Only W s0 s) :
    Only W s0 (respond m status n p key s) := by
  unfold respond
  extract_lets +onlyGivenNames -merge -useContext -underBinder x1
  extract_lets +onlyGivenNames -merge -useContext -underBinder x2
  extract_lets +onlyGivenNames -merge -useContext -underBinder x3
  split
  · exact only_mbDone (sub_trans rfl hW) (only_State_bump (sub_trans rfl hW) hs)
  · exact only_mbDone (sub_trans rfl hW) (only_State_bump (sub_trans rfl hW) hs)

theorem only_helmForward {W : Nat} {s0 : State} (hW : Sub 0x4000000002800000000000000000000000000000000000002840000e W)  {m : Nat} {c : HelmCmd} {s : State} (hs : Only W s0 s) :
    Only W s0 (helmForward m c s) := by
  unfold helmForward
  extract_lets +onlyGivenNames -merge -useContext -underBinder x1
  extract_lets +onlyGivenNames -merge -useContext -underBinder x2
  refine only_ite ?_ ?_
  · extract_lets +onlyGivenNames -merge -useContext -underBinder x3 x4
    try clear_value x3
    have hx4 : Only W s0 (x4) := by
      unfold x4
      refine only_helm (sub_trans rfl hW) ?_ _
      exact hs
    try clear_value x4
    refine only_foldl (fun t x ht => ?_) ?_
    · refine only_plEmit (sub_trans rfl hW) ?_
      assumption
    · exact hx4
  · exact only_respond (sub_trans rfl hW) hs

theorem only_helmPump {W : Nat} {s0 : State} (hW : Sub 0x4000000002880000000000000000000000000000000000002840000e W) {fuel : Nat} {s : State}
    (hs : Only W s0 s) : Only W s0 (helmPump fuel s) := by
  induction fuel generalizing s with
  | zero => exact hs
  | succ fuel ih =>
    simp only [helmPump]
    refine only_ite hs ?_
    split
    · exact hs
    · next m _ =>
      have ht : Only W s0 ((s.setB F.HELM_MB_STATUS_PENDING m false).setF F.HELM_STATUS_LAST_MB 0 m) :=
        only_State_setF (sub_trans rfl hW) (only_State_setB (sub_trans rfl hW) hs)
      exact only_ite (ih (only_helmForward (sub_trans rfl hW) ht)) (only_ite (ih (only_respond (sub_trans rfl hW) ht))
        (only_helm (sub_trans rfl hW) ht _))

theorem only_helmServe {W : Nat} {s0 : State} (hW : Sub 0x4000000002880000000000000000000000000000000000002840000e W)   {s : State} (hs : Only W s0 s) :
    Only W s0 (helmServe s) := by
  unfold helmServe
  exact only_helmPump (sub_trans rfl hW) hs

theorem only_finish {W : Nat} {s0 : State} (hW : Sub 0x4000000002880000000000000000000000000000000000002840000e W)  {m : Nat} {status : Nat} {n : Nat} {p : Nat} {key : Option Nat} {s : State} (hs : Only W s0 s) :
    Only W s0 (finish m status n p key s) := by
  unfold finish
  extract_lets +onlyGivenNames -merge -useContext -underBinder x1
  have hx1 : Only W s0 (x1) := only_respond (sub_trans rfl hW) hs
  try clear_value x1
  refine only_helmServe (sub_trans rfl hW) ?_
  refine only_helm (sub_trans rfl hW) ?_ _
  exact hx1

theorem only_mbDoorbell {W : Nat} {s0 : State} (hW : Sub 0x4000000002880000000000000000000000000000000000002840000e W)  {m : Nat} {len : Nat} {s : State} (hs : Only W s0 s) :
    Only W s0 (mbDoorbell m len s) := by
  unfold mbDoorbell
  refine only_ite ?_ ?_
  · exact hs
  · extract_lets +onlyGivenNames -merge -useContext -underBinder x1
    have hx1 : Only W s0 (x1) := only_State_setB (sub_trans rfl hW) (only_State_setB (sub_trans rfl hW) hs)
    try clear_value x1
    extract_lets +onlyGivenNames -merge -useContext -underBinder x2
    refine only_helmServe (sub_trans rfl hW) ?_
    refine only_helm (sub_trans rfl hW) ?_ _
    exact hx1

theorem only_mbCtrlWrite {W : Nat} {s0 : State} (hW : Sub 0x4000000002c80000000000000000000000000000000000002840000e W)  {m : Nat} {v : Word} {s : State} (hs : Only W s0 s) :
    Only W s0 (mbCtrlWrite m v s) := by
  unfold mbCtrlWrite
  extract_lets +onlyGivenNames -merge -useContext -underBinder x1
  have hx1 : Only W s0 (x1) := only_State_wr (sub_trans rfl hW) hs
  try clear_value x1
  refine only_ite ?_ ?_
  · exact only_mbDoorbell (sub_trans rfl hW) hx1
  · exact hx1

theorem only_execHelmDoorbell {W : Nat} {s0 : State} (hW : Sub 0x400000e002c80700000000000000000000000000000000002840002e W)  {a : Access} {m : Nat} {v : Word} {s : State} (hs : Only W s0 s) :
    OnlyOut W s0 (execHelmDoorbell a m v s) := by
  unfold execHelmDoorbell
  refine only_next ?_
  refine only_ite ?_ ?_
  · refine only_guarded (sub_trans rfl hW) ?_ ?_
    · intro y1 hy1
      exact only_mbCtrlWrite (sub_trans rfl hW) hy1
    · exact hs
  · exact hs

theorem only_helmRun {W : Nat} {s0 : State} (hW : Sub 0x4000000002880000000000000000000000000000000000002840000e W)  {o : Nat} {body : Nat → HelmCmd → State → State} (hbody : ∀ y0 y1 y2, Only W s0 (y2) → Only W s0 (body y0 y1 y2)) {s : State} (hs : Only W s0 s) :
    Only W s0 (helmRun o body s) := by
  unfold helmRun
  split
  · exact hs
  · extract_lets +onlyGivenNames -merge -useContext -underBinder x1
    refine only_ite ?_ ?_
    · exact hs
    · refine only_ite ?_ ?_
      · exact only_finish (sub_trans rfl hW) hs
      · refine only_ite ?_ ?_
        · exact only_finish (sub_trans rfl hW) hs
        · refine only_ite ?_ ?_
          · exact only_finish (sub_trans rfl hW) hs
          · refine hbody _ _ _ ?_
            exact hs

theorem only_storeFailure {W : Nat} {s0 : State} (hW : Sub 0x40000000 W)  {o : Nat} {s : State} (hs : Only W s0 s) :
    Only W s0 (storeFailure o s) := by
  unfold storeFailure
  exact only_report (sub_trans rfl hW) hs

theorem only_repairAdd {W : Nat} {s0 : State} (hW : Sub 0x1000000000000000000000000000000000000000000000000000000000040000004 W)  {kind : Nat} {counter : Nat} {body : Nat} {s : State} (hs : Only W s0 s) :
    Only W s0 (repairAdd kind counter body s) := by
  unfold repairAdd
  extract_lets +onlyGivenNames -merge -useContext -underBinder x1
  have hx1 : Only W s0 (x1) := by
    unfold x1
    refine only_repairs (sub_trans rfl hW) ?_ _
    exact hs
  try clear_value x1
  exact only_State_setF (sub_trans rfl hW) hx1

theorem only_leaveApproved {W : Nat} {s0 : State} (hW : Sub 0x800000000000000000000000000000000000000400004 W)   {s : State} (hs : Only W s0 s) :
    Only W s0 (leaveApproved s) := by
  unfold leaveApproved
  extract_lets +onlyGivenNames -merge -useContext -underBinder x1
  have hx1 : Only W s0 (x1) := only_State_setB (sub_trans rfl hW) hs
  try clear_value x1
  refine only_helm (sub_trans rfl hW) ?_ _
  exact hx1

theorem only_critDo {W : Nat} {s0 : State} (hW : Sub 0x1006100000000000000000800800000000000000000000000000000000040400c04 W)  {c : HelmCmd} {s : State} (hs : Only W s0 s) :
    Only W s0 (critDo c s) := by
  unfold critDo
  split
  · extract_lets +onlyGivenNames -merge -useContext -underBinder x1
    have hx1 : Only W s0 (x1) := only_dbgSet (sub_trans rfl hW) hs
    try clear_value x1
    refine only_ite ?_ ?_
    · exact only_leaveApproved (sub_trans rfl hW) (only_State_setB (sub_trans rfl hW) hx1)
    · refine only_ite ?_ ?_
      · exact only_State_setB (sub_trans rfl hW) hx1
      · exact hx1
  · exact only_State_setFbit (sub_trans rfl hW) (only_repairAdd (sub_trans rfl hW) hs)
  · exact only_repairAdd (sub_trans rfl hW) hs
  · exact only_repairAdd (sub_trans rfl hW) hs
  · refine only_helm (sub_trans rfl hW) ?_ _
    exact hs
  · exact only_evlog (sub_trans rfl hW) (only_State_setB (sub_trans rfl hW) (only_State_setF (sub_trans rfl hW) hs))
  · refine only_helm (sub_trans rfl hW) ?_ _
    exact hs
  · refine only_helm (sub_trans rfl hW) ?_ _
    exact hs
  · refine only_ite ?_ ?_
    · extract_lets +onlyGivenNames -merge -useContext -underBinder x2
      have hx2 : Only W s0 (x2) := only_State_setB (sub_trans rfl hW) hs
      try clear_value x2
      refine only_helm (sub_trans rfl hW) ?_ _
      exact hx2
    · exact only_leaveApproved (sub_trans rfl hW) hs
  · extract_lets +onlyGivenNames -merge -useContext -underBinder x3
    have hx3 : Only W s0 (x3) := only_leaveApproved (sub_trans rfl hW) (only_State_setB (sub_trans rfl hW) hs)
    try clear_value x3
    refine only_helm (sub_trans rfl hW) ?_ _
    exact hx3
  · exact hs

theorem only_critReset {W : Nat} {s0 : State} (hW : Sub 0x7ffffffffffffffffffffffffffffffffffffffffffffffffffffffffffffffffffffe W)  {o : Nat} {s : State} (hs : Only W s0 s) :
    Only W s0 (critReset o s) := by
  unfold critReset
  refine only_ite ?_ ?_
  · extract_lets +onlyGivenNames -merge -useContext -underBinder x1
    extract_lets +onlyGivenNames -merge -useContext -underBinder x2
    have hx2 : Only W s0 (x2) := only_hardReset (sub_trans rfl hW) hs
    try clear_value x2
    refine only_out (sub_trans rfl hW) ?_ _
    exact hx2
  · exact hs

theorem only_critCheck {W : Nat} {s0 : State} (hW : Sub 0x7ffffffffffffffffffffffffffffffffffffffffffffffffffffffffffffffffffffe W)  {m : Nat} {c : HelmCmd} {fails : Bool} {s : State} (hs : Only W s0 s) :
    Only W s0 (critCheck m c fails s) := by
  unfold critCheck
  extract_lets +onlyGivenNames -merge -useContext -underBinder x1
  refine only_ite ?_ ?_
  · exact only_finish (sub_trans rfl hW) (only_State_satInc (sub_trans rfl hW) hs)
  · extract_lets +onlyGivenNames -merge -useContext -underBinder x2
    have hx2 : Only W s0 (x2) := only_State_setF (sub_trans rfl hW) hs
    try clear_value x2
    refine only_ite ?_ ?_
    · exact only_finish (sub_trans rfl hW) hx2
    · refine only_ite ?_ ?_
      · exact only_finish (sub_trans rfl hW) (only_storeFailure (sub_trans rfl hW) hx2)
      · extract_lets +onlyGivenNames -merge -useContext -underBinder x3
        extract_lets +onlyGivenNames -merge -useContext -underBinder x4
        have hx4 : Only W s0 (x4) := only_State_setR (sub_trans rfl hW) hx2
        try clear_value x4
        refine only_ite ?_ ?_
        · refine only_critReset (sub_trans rfl hW) ?_
          exact only_finish (sub_trans rfl hW) (only_critDo (sub_trans rfl hW) hx4)
        · exact only_finish (sub_trans rfl hW) hx4

theorem only_critRun {W : Nat} {s0 : State} (hW : Sub 0x7ffffffffffffffffffffffffffffffffffffffffffffffffffffffffffffffffffffe W)  {o : Nat} {fails : Bool} {s : State} (hs : Only W s0 s) :
    Only W s0 (critRun o fails s) := by
  unfold critRun
  refine only_helmRun (sub_trans rfl hW) ?_ ?_
  · intro y1 y2 y3 hy3
    refine only_ite ?_ ?_
    · exact only_finish (sub_trans rfl hW) hy3
    · refine only_ite ?_ ?_
      · exact only_finish (sub_trans rfl hW) hy3
      · refine only_ite ?_ ?_
        · refine only_helm (sub_trans rfl hW) ?_ _
          exact hy3
        · exact only_critCheck (sub_trans rfl hW) hy3
  · exact hs

theorem only_execHelmDbgSet {W : Nat} {s0 : State} (hW : Sub 0x7ffffffffffffffffffffffffffffffffffffffffffffffffffffffffffffffffffffe W)  {storeFails : Bool} {s : State} (hs : Only W s0 s) :
    OnlyOut W s0 (execHelmDbgSet storeFails s) := by
  unfold execHelmDbgSet
  exact only_next (only_critRun (sub_trans rfl hW) hs)

theorem only_execCoreRetire {W : Nat} {s0 : State} (hW : Sub 0x7ffffffffffffffffffffffffffffffffffffffffffffffffffffffffffffffffffffe W)  {storeFails : Bool} {s : State} (hs : Only W s0 s) :
    OnlyOut W s0 (execCoreRetire storeFails s) := by
  unfold execCoreRetire
  exact only_next (only_critRun (sub_trans rfl hW) hs)

theorem only_execLaneCommit {W : Nat} {s0 : State} (hW : Sub 0x7ffffffffffffffffffffffffffffffffffffffffffffffffffffffffffffffffffffe W)  {storeFails : Bool} {s : State} (hs : Only W s0 s) :
    OnlyOut W s0 (execLaneCommit storeFails s) := by
  unfold execLaneCommit
  exact only_next (only_critRun (sub_trans rfl hW) hs)

theorem only_execRowCommit {W : Nat} {s0 : State} (hW : Sub 0x7ffffffffffffffffffffffffffffffffffffffffffffffffffffffffffffffffffffe W)  {storeFails : Bool} {s : State} (hs : Only W s0 s) :
    OnlyOut W s0 (execRowCommit storeFails s) := by
  unfold execRowCommit
  exact only_next (only_critRun (sub_trans rfl hW) hs)

theorem only_execStartCfg {W : Nat} {s0 : State} (hW : Sub 0x7ffffffffffffffffffffffffffffffffffffffffffffffffffffffffffffffffffffe W)  {storeFails : Bool} {s : State} (hs : Only W s0 s) :
    OnlyOut W s0 (execStartCfg storeFails s) := by
  unfold execStartCfg
  exact only_next (only_critRun (sub_trans rfl hW) hs)

theorem only_execChimneyExit {W : Nat} {s0 : State} (hW : Sub 0x7ffffffffffffffffffffffffffffffffffffffffffffffffffffffffffffffffffffe W)  {storeFails : Bool} {s : State} (hs : Only W s0 s) :
    OnlyOut W s0 (execChimneyExit storeFails s) := by
  unfold execChimneyExit
  exact only_next (only_critRun (sub_trans rfl hW) hs)

theorem only_execPkgResetCmd {W : Nat} {s0 : State} (hW : Sub 0x7ffffffffffffffffffffffffffffffffffffffffffffffffffffffffffffffffffffe W)  {storeFails : Bool} {s : State} (hs : Only W s0 s) :
    OnlyOut W s0 (execPkgResetCmd storeFails s) := by
  unfold execPkgResetCmd
  exact only_next (only_critRun (sub_trans rfl hW) hs)

theorem only_execImageKeySet {W : Nat} {s0 : State} (hW : Sub 0x7ffffffffffffffffffffffffffffffffffffffffffffffffffffffffffffffffffffe W)  {storeFails : Bool} {s : State} (hs : Only W s0 s) :
    OnlyOut W s0 (execImageKeySet storeFails s) := by
  unfold execImageKeySet
  exact only_next (only_critRun (sub_trans rfl hW) hs)

theorem only_execKeyRotate {W : Nat} {s0 : State} (hW : Sub 0x7ffffffffffffffffffffffffffffffffffffffffffffffffffffffffffffffffffffe W)  {storeFails : Bool} {s : State} (hs : Only W s0 s) :
    OnlyOut W s0 (execKeyRotate storeFails s) := by
  unfold execKeyRotate
  exact only_next (only_critRun (sub_trans rfl hW) hs)

theorem only_execModeSet {W : Nat} {s0 : State} (hW : Sub 0x7ffffffffffffffffffffffffffffffffffffffffffffffffffffffffffffffffffffe W)  {storeFails : Bool} {s : State} (hs : Only W s0 s) :
    OnlyOut W s0 (execModeSet storeFails s) := by
  unfold execModeSet
  exact only_next (only_critRun (sub_trans rfl hW) hs)

theorem only_execZeroize {W : Nat} {s0 : State} (hW : Sub 0x7ffffffffffffffffffffffffffffffffffffffffffffffffffffffffffffffffffffe W)  {storeFails : Bool} {s : State} (hs : Only W s0 s) :
    OnlyOut W s0 (execZeroize storeFails s) := by
  unfold execZeroize
  exact only_next (only_critRun (sub_trans rfl hW) hs)

theorem only_execLockoutHoldEnd {W : Nat} {s0 : State} (hW : Sub 0x7ffffffffffffffffffffffffffffffffffffffffffffffffffffffffffffffffffffe W)  {storeFails : Bool} {s : State} (hs : Only W s0 s) :
    OnlyOut W s0 (execLockoutHoldEnd storeFails s) := by
  unfold execLockoutHoldEnd
  split
  · refine onlyOut_ite ?_ ?_
    · extract_lets +onlyGivenNames -merge -useContext -underBinder x1 x2
      try clear_value x1
      have hx2 : Only W s0 (x2) := by
        unfold x2
        refine only_helm (sub_trans rfl hW) ?_ _
        exact hs
      try clear_value x2
      exact only_next (only_critCheck (sub_trans rfl hW) hx2)
    · exact only_next hs
  · exact only_next hs

theorem only_execProvision {W : Nat} {s0 : State} (hW : Sub 0x4000000002880000000000000000000000000000000000006840000e W)  {storeFails : Bool} {s : State} (hs : Only W s0 s) :
    OnlyOut W s0 (execProvision storeFails s) := by
  unfold execProvision
  refine only_next ?_
  refine only_helmRun (sub_trans rfl hW) ?_ ?_
  · intro y1 y2 y3 hy3
    refine only_ite ?_ ?_
    · exact only_finish (sub_trans rfl hW) hy3
    · refine only_ite ?_ ?_
      · exact only_finish (sub_trans rfl hW) (only_storeFailure (sub_trans rfl hW) hy3)
      · extract_lets +onlyGivenNames -merge -useContext -underBinder x4 x5
        try clear_value x4
        have hx5 : Only W s0 (x5) := by
          unfold x5
          refine only_helm (sub_trans rfl hW) ?_ _
          exact hy3
        try clear_value x5
        exact only_finish (sub_trans rfl hW) (only_State_setB (sub_trans rfl hW) hx5)
  · exact hs

theorem only_execHelmGetStatus {W : Nat} {s0 : State} (hW : Sub 0x4000000002880000000000000000000000000000000000002840000e W)   {s : State} (hs : Only W s0 s) :
    OnlyOut W s0 (execHelmGetStatus s) := by
  unfold execHelmGetStatus
  refine only_next ?_
  refine only_helmRun (sub_trans rfl hW) ?_ ?_
  · intro y1 y2 y3 hy3
    exact only_finish (sub_trans rfl hW) hy3
  · exact hs

theorem only_execHelmGetDeviceId {W : Nat} {s0 : State} (hW : Sub 0x4000000002880000000000000000000000000000000000002840000e W)   {s : State} (hs : Only W s0 s) :
    OnlyOut W s0 (execHelmGetDeviceId s) := by
  unfold execHelmGetDeviceId
  refine only_next ?_
  refine only_helmRun (sub_trans rfl hW) ?_ ?_
  · intro y1 y2 y3 hy3
    exact only_finish (sub_trans rfl hW) hy3
  · exact hs

theorem only_execHelmGetAttest {W : Nat} {s0 : State} (hW : Sub 0x4000000002880000000000000000000000000000000000002840000e W)   {s : State} (hs : Only W s0 s) :
    OnlyOut W s0 (execHelmGetAttest s) := by
  unfold execHelmGetAttest
  refine only_next ?_
  refine only_helmRun (sub_trans rfl hW) ?_ ?_
  · intro y1 y2 y3 hy3
    extract_lets +onlyGivenNames -merge -useContext -underBinder x4
    extract_lets +onlyGivenNames -merge -useContext -underBinder x5
    exact only_finish (sub_trans rfl hW) (only_State_bump (sub_trans rfl hW) hy3)
  · exact hs

theorem only_execHelmGetRepairs {W : Nat} {s0 : State} (hW : Sub 0x4000000002880000000000000000000000000000000000002840000e W)  {index : Nat} {s : State} (hs : Only W s0 s) :
    OnlyOut W s0 (execHelmGetRepairs index s) := by
  unfold execHelmGetRepairs
  refine only_next ?_
  refine only_helmRun (sub_trans rfl hW) ?_ ?_
  · intro y1 y2 y3 hy3
    extract_lets +onlyGivenNames -merge -useContext -underBinder x4
    exact only_finish (sub_trans rfl hW) hy3
  · exact hs

theorem only_setSlot {W : Nat} {s0 : State} (hW : Sub 0x400000 W)  {slot : Nat} {k : Option HelmKey} {s : State} (hs : Only W s0 s) :
    Only W s0 (setSlot slot k s) := by
  unfold setSlot
  refine only_helm (sub_trans rfl hW) ?_ _
  exact hs

theorem only_helmRunMem {W : Nat} {s0 : State} (hW : Sub 0x4000000002880000000000000000000000000000000000002840000e W)  {ranges : List (Nat × Nat)} {op : Nat} {act : Nat → HelmCmd → State → State} (hact : ∀ y0 y1 y2, Only W s0 (y2) → Only W s0 (act y0 y1 y2)) {s : State} (hs : Only W s0 s) :
    Only W s0 (helmRunMem ranges op act s) := by
  unfold helmRunMem
  refine only_ite ?_ ?_
  · exact hs
  · refine only_helmRun (sub_trans rfl hW) ?_ ?_
    · intro y1 y2 y3 hy3
      refine hact _ _ _ ?_
      exact hy3
    · exact hs

theorem only_helmRead {W : Nat} {s0 : State} (hW : Sub 0x302000000000000000000000000000000000000000f0200000000000000040002016 W)  {a : Nat} {n : Nat} {s : State} (hs : Only W s0 s) :
    Only W s0 (helmRead a n s).2 := by
  unfold helmRead
  exact only_agentRead (sub_trans rfl hW) hs

theorem only_helmPut {W : Nat} {s0 : State} (hW : Sub 0x302000000000400000000288000000000000000800f021000000000000006841e41e W)  {m : Nat} {a : Nat} {n : Nat} {v : Nat} {rsp : Nat × Nat} {s : State} (hs : Only W s0 s) :
    Only W s0 (helmPut m a n v rsp s) := by
  unfold helmPut
  split
  · rename_i e1
    replace e1 := congrArg Prod.snd e1
    dsimp only at e1
    refine only_of_eq (W := W) (s0 := s0) e1 ?_ (fun k2 => ?_)
    · exact only_agentWrite (sub_trans rfl hW) hs
    refine only_finish (sub_trans rfl hW) ?_
    assumption
  · rename_i e3
    replace e3 := congrArg Prod.snd e3
    dsimp only at e3
    refine only_of_eq (W := W) (s0 := s0) e3 ?_ (fun k4 => ?_)
    · exact only_agentWrite (sub_trans rfl hW) hs
    refine only_finish (sub_trans rfl hW) ?_
    assumption

theorem only_execHelmRandom {W : Nat} {s0 : State} (hW : Sub 0x4000000002880000000000000000000000000000000000002840000e W)  {count : Nat} {s : State} (hs : Only W s0 s) :
    OnlyOut W s0 (execHelmRandom count s) := by
  unfold execHelmRandom
  refine only_next ?_
  refine only_helmRun (sub_trans rfl hW) ?_ ?_
  · intro y1 y2 y3 hy3
    refine only_ite ?_ ?_
    · exact only_finish (sub_trans rfl hW) hy3
    · exact only_finish (sub_trans rfl hW) (only_State_bump (sub_trans rfl hW) hy3)
  · exact hs

theorem only_execHelmSha384 {W : Nat} {s0 : State} (hW : Sub 0x302000000000400000000288000000000000000000f020000000000000006840201e W)  {src : Nat} {len : Nat} {s : State} (hs : Only W s0 s) :
    OnlyOut W s0 (execHelmSha384 src len s) := by
  unfold execHelmSha384
  refine only_next ?_
  refine only_helmRunMem (sub_trans rfl hW) ?_ ?_
  · intro y1 y2 y3 hy3
    refine only_ite ?_ ?_
    · exact only_finish (sub_trans rfl hW) hy3
    · split
      · rename_i e4
        replace e4 := congrArg Prod.snd e4
        dsimp only at e4
        refine only_of_eq (W := W) (s0 := s0) e4 ?_ (fun k5 => ?_)
        · exact only_helmRead (sub_trans rfl hW) hy3
        refine only_finish (sub_trans rfl hW) ?_
        assumption
      · rename_i e6
        replace e6 := congrArg Prod.snd e6
        dsimp only at e6
        refine only_of_eq (W := W) (s0 := s0) e6 ?_ (fun k7 => ?_)
        · exact only_helmRead (sub_trans rfl hW) hy3
        refine only_finish (sub_trans rfl hW) ?_
        assumption
  · exact hs

theorem only_execHelmHmac {W : Nat} {s0 : State} (hW : Sub 0x302000000000400000000288000000000000000000f020000000000000006840201e W)  {slot : Nat} {src : Nat} {len : Nat} {s : State} (hs : Only W s0 s) :
    OnlyOut W s0 (execHelmHmac slot src len s) := by
  unfold execHelmHmac
  refine only_next ?_
  refine only_helmRunMem (sub_trans rfl hW) ?_ ?_
  · intro y1 y2 y3 hy3
    split
    · split
      · rename_i e4
        replace e4 := congrArg Prod.snd e4
        dsimp only at e4
        refine only_of_eq (W := W) (s0 := s0) e4 ?_ (fun k5 => ?_)
        · exact only_helmRead (sub_trans rfl hW) hy3
        refine only_finish (sub_trans rfl hW) ?_
        assumption
      · rename_i e6
        replace e6 := congrArg Prod.snd e6
        dsimp only at e6
        refine only_of_eq (W := W) (s0 := s0) e6 ?_ (fun k7 => ?_)
        · exact only_helmRead (sub_trans rfl hW) hy3
        refine only_finish (sub_trans rfl hW) ?_
        assumption
    · exact only_finish (sub_trans rfl hW) hy3
  · exact hs

theorem only_execHelmGcmEnc {W : Nat} {s0 : State} (hW : Sub 0x302000000000400000000288000000000000000800f021000000000000006841e41e W)  {slot : Nat} {src : Nat} {dst : Nat} {len : Nat} {iv : Nat} {aad : Nat} {aadLen : Nat} {s : State} (hs : Only W s0 s) :
    OnlyOut W s0 (execHelmGcmEnc slot src dst len iv aad aadLen s) := by
  unfold execHelmGcmEnc
  refine only_next ?_
  refine only_helmRunMem (sub_trans rfl hW) ?_ ?_
  · intro y1 y2 y3 hy3
    split
    · extract_lets +onlyGivenNames -merge -useContext -underBinder x4
      split
      · rename_i e5
        replace e5 := congrArg Prod.snd e5
        dsimp only at e5
        refine only_of_eq (W := W) (s0 := s0) e5 ?_ (fun k6 => ?_)
        · exact only_helmRead (sub_trans rfl hW) (only_State_bump (sub_trans rfl hW) hy3)
        split
        · rename_i e7
          replace e7 := congrArg Prod.snd e7
          dsimp only at e7
          refine only_of_eq (W := W) (s0 := s0) e7 ?_ (fun k8 => ?_)
          · refine only_helmRead (sub_trans rfl hW) ?_
            assumption
          extract_lets +onlyGivenNames -merge -useContext -underBinder x9
          refine only_helmPut (sub_trans rfl hW) ?_
          assumption
        · rename_i e10
          replace e10 := congrArg Prod.snd e10
          dsimp only at e10
          refine only_of_eq (W := W) (s0 := s0) e10 ?_ (fun k11 => ?_)
          · refine only_helmRead (sub_trans rfl hW) ?_
            assumption
          refine only_finish (sub_trans rfl hW) ?_
          assumption
      · rename_i e12
        replace e12 := congrArg Prod.snd e12
        dsimp only at e12
        refine only_of_eq (W := W) (s0 := s0) e12 ?_ (fun k13 => ?_)
        · exact only_helmRead (sub_trans rfl hW) (only_State_bump (sub_trans rfl hW) hy3)
        refine only_finish (sub_trans rfl hW) ?_
        assumption
    · exact only_finish (sub_trans rfl hW) hy3
  · exact hs

theorem only_execHelmGcmDec {W : Nat} {s0 : State} (hW : Sub 0x302000000000400000000288000000000000000800f021000000000000006841e41e W)  {slot : Nat} {src : Nat} {dst : Nat} {len : Nat} {iv : Nat} {aad : Nat} {aadLen : Nat} {s : State} (hs : Only W s0 s) :
    OnlyOut W s0 (execHelmGcmDec slot src dst len iv aad aadLen s) := by
  unfold execHelmGcmDec
  refine only_next ?_
  refine only_helmRunMem (sub_trans rfl hW) ?_ ?_
  · intro y1 y2 y3 hy3
    split
    · split
      · rename_i e4
        replace e4 := congrArg Prod.snd e4
        dsimp only at e4
        refine only_of_eq (W := W) (s0 := s0) e4 ?_ (fun k5 => ?_)
        · exact only_helmRead (sub_trans rfl hW) hy3
        split
        · rename_i e6
          replace e6 := congrArg Prod.snd e6
          dsimp only at e6
          refine only_of_eq (W := W) (s0 := s0) e6 ?_ (fun k7 => ?_)
          · refine only_helmRead (sub_trans rfl hW) ?_
            assumption
          extract_lets +onlyGivenNames -merge -useContext -underBinder x8
          refine only_ite ?_ ?_
          · refine only_helmPut (sub_trans rfl hW) ?_
            assumption
          · refine only_finish (sub_trans rfl hW) ?_
            assumption
        · rename_i e9
          replace e9 := congrArg Prod.snd e9
          dsimp only at e9
          refine only_of_eq (W := W) (s0 := s0) e9 ?_ (fun k10 => ?_)
          · refine only_helmRead (sub_trans rfl hW) ?_
            assumption
          refine only_finish (sub_trans rfl hW) ?_
          assumption
      · rename_i e11
        replace e11 := congrArg Prod.snd e11
        dsimp only at e11
        refine only_of_eq (W := W) (s0 := s0) e11 ?_ (fun k12 => ?_)
        · exact only_helmRead (sub_trans rfl hW) hy3
        refine only_finish (sub_trans rfl hW) ?_
        assumption
    · exact only_finish (sub_trans rfl hW) hy3
  · exact hs

theorem only_execHelmEcdsaVerify {W : Nat} {s0 : State} (hW : Sub 0x4000000002880000000000000000000000000000000000002840000e W)  {pub : Nat} {digest : Nat} {sig : Nat} {s : State} (hs : Only W s0 s) :
    OnlyOut W s0 (execHelmEcdsaVerify pub digest sig s) := by
  unfold execHelmEcdsaVerify
  refine only_next ?_
  refine only_helmRun (sub_trans rfl hW) ?_ ?_
  · intro y1 y2 y3 hy3
    exact only_finish (sub_trans rfl hW) hy3
  · exact hs

theorem only_placeKey {W : Nat} {s0 : State} (hW : Sub 0x4000000002880000000000000000000000000000000000002840000e W)  {m : Nat} {slot : Nat} {k : HelmKey} {s : State} (hs : Only W s0 s) :
    Only W s0 (placeKey m slot k s) := by
  unfold placeKey
  refine only_ite ?_ ?_
  · exact only_finish (sub_trans rfl hW) (only_setSlot (sub_trans rfl hW) hs)
  · exact only_finish (sub_trans rfl hW) hs

theorem only_execHelmKeyGen {W : Nat} {s0 : State} (hW : Sub 0x4000000002880000000000000000000000000000000000002840000e W)  {slot : Nat} {hmac : Bool} {s : State} (hs : Only W s0 s) :
    OnlyOut W s0 (execHelmKeyGen slot hmac s) := by
  unfold execHelmKeyGen
  refine only_next ?_
  refine only_helmRun (sub_trans rfl hW) ?_ ?_
  · intro y1 y2 y3 hy3
    exact only_placeKey (sub_trans rfl hW) (only_State_bump (sub_trans rfl hW) hy3)
  · exact hs

theorem only_execHelmKeyWrap {W : Nat} {s0 : State} (hW : Sub 0x302000000000400000000288000000000000000800f021000000000000006841e41e W)  {slot : Nat} {dst : Nat} {s : State} (hs : Only W s0 s) :
    OnlyOut W s0 (execHelmKeyWrap slot dst s) := by
  unfold execHelmKeyWrap
  refine only_next ?_
  refine only_helmRunMem (sub_trans rfl hW) ?_ ?_
  · intro y1 y2 y3 hy3
    split
    · extract_lets +onlyGivenNames -merge -useContext -underBinder x4
      extract_lets +onlyGivenNames -merge -useContext -underBinder x5
      extract_lets +onlyGivenNames -merge -useContext -underBinder x6
      exact only_helmPut (sub_trans rfl hW) (only_State_bump (sub_trans rfl hW) hy3)
    · exact only_finish (sub_trans rfl hW) hy3
  · exact hs

theorem only_execHelmKeyLoad {W : Nat} {s0 : State} (hW : Sub 0x4000000002880000000000000000000000000000000000002840000e W)  {slot : Nat} {blob : Nat} {hmac : Bool} {s : State} (hs : Only W s0 s) :
    OnlyOut W s0 (execHelmKeyLoad slot blob hmac s) := by
  unfold execHelmKeyLoad
  refine only_next ?_
  refine only_helmRun (sub_trans rfl hW) ?_ ?_
  · intro y1 y2 y3 hy3
    extract_lets +onlyGivenNames -merge -useContext -underBinder x4
    extract_lets +onlyGivenNames -merge -useContext -underBinder x5
    extract_lets +onlyGivenNames -merge -useContext -underBinder x6
    refine only_ite ?_ ?_
    · exact only_finish (sub_trans rfl hW) hy3
    · refine only_ite ?_ ?_
      · exact only_finish (sub_trans rfl hW) hy3
      · exact only_placeKey (sub_trans rfl hW) hy3
  · exact hs

theorem only_execHelmKeyLoadPlain {W : Nat} {s0 : State} (hW : Sub 0x4000000002880000000000000000000000000000000000002840000e W)  {slot : Nat} {key : Nat} {hmac : Bool} {s : State} (hs : Only W s0 s) :
    OnlyOut W s0 (execHelmKeyLoadPlain slot key hmac s) := by
  unfold execHelmKeyLoadPlain
  refine only_next ?_
  refine only_helmRun (sub_trans rfl hW) ?_ ?_
  · intro y1 y2 y3 hy3
    refine only_ite ?_ ?_
    · exact only_placeKey (sub_trans rfl hW) (only_leaveApproved (sub_trans rfl hW) hy3)
    · exact only_finish (sub_trans rfl hW) hy3
  · exact hs

theorem only_execHelmKeyErase {W : Nat} {s0 : State} (hW : Sub 0x4000000002880000000000000000000000000000000000002840000e W)  {slot : Nat} {s : State} (hs : Only W s0 s) :
    OnlyOut W s0 (execHelmKeyErase slot s) := by
  unfold execHelmKeyErase
  refine only_next ?_
  refine only_helmRun (sub_trans rfl hW) ?_ ?_
  · intro y1 y2 y3 hy3
    refine only_ite ?_ ?_
    · exact only_finish (sub_trans rfl hW) (only_setSlot (sub_trans rfl hW) hy3)
    · exact only_finish (sub_trans rfl hW) hy3
  · exact hs

theorem only_helmError {W : Nat} {s0 : State} (hW : Sub 0x4000000002880000000000000000000000000000000000006840000e W)   {s : State} (hs : Only W s0 s) :
    Only W s0 (helmError s) := by
  unfold helmError
  extract_lets +onlyGivenNames -merge -useContext -underBinder x1
  have hx1 : Only W s0 (x1) := by
    unfold x1
    refine only_State_setB (sub_trans rfl hW) ?_
    exact only_State_setB (sub_trans rfl hW) (only_State_setB (sub_trans rfl hW) hs)
  try clear_value x1
  refine only_helmServe (sub_trans rfl hW) ?_
  refine only_report (sub_trans rfl hW) ?_
  refine only_helm (sub_trans rfl hW) ?_ _
  exact hx1

theorem only_execHelmSelfTest {W : Nat} {s0 : State} (hW : Sub 0x640000004000000002880000000000000000000000000000000000006840000e W)  {pass : Bool} {s : State} (hs : Only W s0 s) :
    OnlyOut W s0 (execHelmSelfTest pass s) := by
  unfold execHelmSelfTest
  refine onlyOut_ite ?_ ?_
  · exact only_next hs
  · refine onlyOut_ite ?_ ?_
    · refine only_next ?_
      refine only_helmServe (sub_trans rfl hW) ?_
      exact only_State_setB (sub_trans rfl hW) (only_State_setB (sub_trans rfl hW) hs)
    · refine only_next ?_
      extract_lets +onlyGivenNames -merge -useContext -underBinder x1
      have hx1 : Only W s0 (x1) := only_helmError (sub_trans rfl hW) hs
      try clear_value x1
      refine only_ite ?_ ?_
      · exact only_startFail (sub_trans rfl hW) hx1
      · exact hx1

theorem only_execHelmTestFailure {W : Nat} {s0 : State} (hW : Sub 0x4000000002880000000000000000000000000000000000006840000e W)   {s : State} (hs : Only W s0 s) :
    OnlyOut W s0 (execHelmTestFailure s) := by
  unfold execHelmTestFailure
  refine onlyOut_ite ?_ ?_
  · exact only_next hs
  · exact only_next (only_helmError (sub_trans rfl hW) hs)

theorem only_execHcmd {W : Nat} {s0 : State} (hW : Sub 0x4000000003880000000000000000000000000000000000002840000e W)  {n : Nat} {s : State} (hs : Only W s0 s) :
    OnlyOut W s0 (execHcmd n s) := by
  unfold execHcmd
  split
  · exact only_next hs
  · rename_i e1
    have k2 := only_plPop (sub_trans rfl hW) (by assumption) _ e1
    extract_lets +onlyGivenNames -merge -useContext -underBinder x3
    refine onlyOut_ite ?_ ?_
    · refine only_next ?_
      refine only_plReturn (sub_trans rfl hW) ?_
      assumption
    · extract_lets +onlyGivenNames -merge -useContext -underBinder x4
      extract_lets +onlyGivenNames -merge -useContext -underBinder x5
      extract_lets +onlyGivenNames -merge -useContext -underBinder x6
      extract_lets +onlyGivenNames -merge -useContext -underBinder x7
      refine onlyOut_ite ?_ ?_
      · refine only_next ?_
        refine only_helm (sub_trans rfl hW) ?_ _
        assumption
      · extract_lets +onlyGivenNames -merge -useContext -underBinder x8 x9
        try clear_value x8
        have hx9 : Only W s0 (x9) := by
          unfold x9
          refine only_helm (sub_trans rfl hW) ?_ _
          assumption
        try clear_value x9
        split
        · refine onlyOut_ite ?_ ?_
          · exact only_next (only_plReturn (sub_trans rfl hW) hx9)
          · extract_lets +onlyGivenNames -merge -useContext -underBinder x10 x11
            try clear_value x10
            have hx11 : Only W s0 (x11) := by
              unfold x11
              refine only_bufWrite (sub_trans rfl hW) ?_
              refine only_helm (sub_trans rfl hW) ?_ _
              exact hx9
            try clear_value x11
            exact only_next (only_mbDoorbell (sub_trans rfl hW) hx11)

theorem only_execHrsp {W : Nat} {s0 : State} (hW : Sub 0x2800000000000000000000000000000000000002840000c W)  {n : Nat} {s : State} (hs : Only W s0 s) :
    OnlyOut W s0 (execHrsp n s) := by
  unfold execHrsp
  split
  · exact only_next hs
  · rename_i e1
    have k2 := only_plPop (sub_trans rfl hW) (by assumption) _ e1
    extract_lets +onlyGivenNames -merge -useContext -underBinder x3
    split
    · refine only_next ?_
      assumption
    · extract_lets +onlyGivenNames -merge -useContext -underBinder x4
      extract_lets +onlyGivenNames -merge -useContext -underBinder x5
      refine onlyOut_ite ?_ ?_
      · split
        · refine only_next ?_
          refine only_mbDone (sub_trans rfl hW) ?_
          refine only_helm (sub_trans rfl hW) ?_ _
          assumption
      · refine only_next ?_
        refine only_helm (sub_trans rfl hW) ?_ _
        assumption

theorem only_execForwardTimeout {W : Nat} {s0 : State} (hW : Sub 0x2800000000000000000000000000000000000002840000e W)  {m : Nat} {s : State} (hs : Only W s0 s) :
    OnlyOut W s0 (execForwardTimeout m s) := by
  unfold execForwardTimeout
  split
  · exact only_next hs
  · refine onlyOut_ite ?_ ?_
    · exact only_next hs
    · refine only_next ?_
      refine only_respond (sub_trans rfl hW) ?_
      refine only_helm (sub_trans rfl hW) ?_ _
      exact hs

end Sys2Proof.Machine
end

