-- ==== Sys2Proof/Laws/KeepPower.lean ====
section
/-! SUPPORT. What the definitions of Machine/Power.lean leave alone: one lemma for each that answers a state. -/
namespace Sys2Proof.Machine

theorem only_dieFlush {W : Nat} {s0 : State} (hW : Sub 0x428000000200000000000000003840c W)  {n : Nat} {s : State} (hs : Only W s0 s) :
    Only W s0 (dieFlush n s).2 := by
  unfold dieFlush
  refine only_ite_snd ?_ ?_
  · exact only_snd_mk hs
  · extract_lets +onlyGivenNames -merge -useContext -underBinder x1
    have hx1 : Only W s0 (x1) := by
      unfold x1
      refine only_foldl (fun t x ht => ?_) ?_
      · refine only_ite ?_ ?_
        · refine only_l3Evict (sub_trans rfl hW) ?_
          assumption
        · assumption
      · exact hs
    try clear_value x1
    exact only_snd_mk hx1

theorem only_pkgStateSet {W : Nat} {s0 : State} (hW : Sub 0x4000000000000000000000000000000000000000000000000000000000004 W)   {s : State} (hs : Only W s0 s) :
    Only W s0 (pkgStateSet s) := by
  unfold pkgStateSet
  exact only_State_setF (sub_trans rfl hW) hs

theorem only_limitSet {W : Nat} {s0 : State} (hW : Sub 0x24000000000000000000000000000000000000000000000000000000000004 W)   {s : State} (hs : Only W s0 s) :
    Only W s0 (limitSet s) := by
  unfold limitSet
  extract_lets +onlyGivenNames -merge -useContext -underBinder x1
  have hx1 : Only W s0 (x1) := by
    unfold x1
    refine only_iter (fun x t ht => ?_) ?_
    · refine only_State_setB (sub_trans rfl hW) ?_
      assumption
    · exact hs
  try clear_value x1
  exact only_State_setB (sub_trans rfl hW) hx1

theorem only_chainLeave {W : Nat} {s0 : State} (hW : Sub 0x80000000000000000000000000000000000000000000000000000000000000000004 W)  {n : Nat} {s : State} (hs : Only W s0 s) :
    Only W s0 (chainLeave n s) := by
  unfold chainLeave
  refine only_ite ?_ ?_
  · exact only_State_setB (sub_trans rfl hW) (only_State_setFbit (sub_trans rfl hW) hs)
  · exact hs

theorem only_freqDrop {W : Nat} {s0 : State} (hW : Sub 0x80000000000000000000000000000000000000000000000000000010000004 W)  {n : Nat} {status : Nat} {s : State} (hs : Only W s0 s) :
    Only W s0 (freqDrop n status s) := by
  unfold freqDrop
  split
  · refine only_reqDone (sub_trans rfl hW) ?_
    refine only_freqGoal (sub_trans rfl hW) ?_ _
    exact hs
  · refine only_freqGoal (sub_trans rfl hW) ?_ _
    exact hs

theorem only_dieState {W : Nat} {s0 : State} (hW : Sub 0x800000a4000000000000000000000000000000000000000000000000000010000004 W)  {n : Nat} {st : Nat} {s : State} (hs : Only W s0 s) :
    Only W s0 (dieState n st s) := by
  unfold dieState
  refine only_limitSet (sub_trans rfl hW) ?_
  refine only_pkgStateSet (sub_trans rfl hW) ?_
  refine only_chainLeave (sub_trans rfl hW) ?_
  exact only_freqDrop (sub_trans rfl hW) (only_State_setF (sub_trans rfl hW) (only_State_setF (sub_trans rfl hW) hs))

theorem only_dieGone {W : Nat} {s0 : State} (hW : Sub 0x10b02000a40000000000000000000000008840042af0f12fbfffe800000020f00ffe5e W) {n : Nat} {s : State}
    (hs : Only W s0 s) : Only W s0 (dieGone n s) := by
  unfold dieGone
  extract_lets +onlyGivenNames -merge -useContext busy a
  have ha : Only W s0 a := only_haDieLost (sub_trans rfl hW) (only_dieWipe (sub_trans rfl hW) hs)
  clear_value a
  extract_lets +onlyGivenNames -merge -useContext b
  have hb : Only W s0 b := by
    refine only_regs_filter_of (testBit_sub hW rfl) (fun g hg i _ => ?_) ha
    have key : Reg.ofNat (g.key i % 1024) = g ∧ g.key i / 1024 = i := by
      have := g.ctorIdx_lt
      constructor
      · rw [show g.key i % 1024 = g.ctorIdx by simp only [Reg.key]; omega, Reg.ofNat_ctorIdx]
      · simp only [Reg.key]; omega
    have free : cdDie g i = none := by
      cases g <;> first | rfl | exact absurd (testBit_sub hW rfl) (by rw [hg]; decide)
    simp [key.1, key.2, free]
  clear_value b
  extract_lets +onlyGivenNames -merge -useContext d
  have hd : Only W s0 d := only_foldl (fun t e ht => only_rsSetErr (sub_trans rfl hW) ht) hb
  clear_value d
  extract_lets +onlyGivenNames -merge -useContext x c
  have hc : Only W s0 c := only_boot_dieTrans (sub_trans rfl hW) hd _ _
  clear_value c
  exact only_dieState (sub_trans rfl hW) (only_bridgeDown (sub_trans rfl hW) hc)

theorem only_dieGate {W : Nat} {s0 : State} (hW : Sub 0x800000a4000000000000000000000000000000000000000202000000000010090404 W)  {n : Nat} {s : State} (hs : Only W s0 s) :
    Only W s0 (dieGate n s) := by
  unfold dieGate
  extract_lets +onlyGivenNames -merge -useContext -underBinder x1
  have hx1 : Only W s0 (x1) := by
    unfold x1
    refine only_foldl (fun t x ht => ?_) ?_
    · refine only_rangeAbort (sub_trans rfl hW) ?_
      assumption
    · exact only_rangeAbort (sub_trans rfl hW) hs
  try clear_value x1
  extract_lets +onlyGivenNames -merge -useContext -underBinder x2
  have hx2 : Only W s0 (x2) := by
    unfold x2
    refine only_l2_l1d_l1i_dieTrans (sub_trans rfl hW) ?_ _ _ _ _
    exact hx1
  try clear_value x2
  extract_lets +onlyGivenNames -merge -useContext -underBinder x3
  have hx3 : Only W s0 (x3) := by
    unfold x3
    refine only_foldl (fun t x ht => ?_) ?_
    · refine only_State_onHart (sub_trans rfl hW) ?_
      assumption
    · exact hx2
  try clear_value x3
  exact only_dieState (sub_trans rfl hW) hx3

theorem only_applyRetire {W : Nat} {s0 : State} (hW : Sub 0x1000000000000000000000000000000000000000000000000000000000640000004 W)  {n : Nat} {s : State} (hs : Only W s0 s) :
    Only W s0 (applyRetire n s) := by
  unfold applyRetire
  extract_lets +onlyGivenNames -merge -useContext -underBinder x1
  have hx1 : Only W s0 (x1) := by
    unfold x1
    refine only_eachRepair (sub_trans rfl hW) ?_ ?_
    · intro y2 y3 y4 hy4
      extract_lets +onlyGivenNames -merge -useContext -underBinder x5
      extract_lets +onlyGivenNames -merge -useContext -underBinder x6
      refine only_ite ?_ ?_
      · extract_lets +onlyGivenNames -merge -useContext -underBinder x7
        extract_lets +onlyGivenNames -merge -useContext -underBinder x8
        have hx8 : Only W s0 (x8) := only_State_setF (sub_trans rfl hW) (only_State_setF (sub_trans rfl hW) hy4)
        try clear_value x8
        extract_lets +onlyGivenNames -merge -useContext -underBinder x9
        have hx9 : Only W s0 (x9) := only_State_setF (sub_trans rfl hW) (only_State_setF (sub_trans rfl hW) hx8)
        try clear_value x9
        exact only_repairApplied (sub_trans rfl hW) (only_State_setF (sub_trans rfl hW) hx9)
      · exact hy4
    · exact hs
  try clear_value x1
  exact only_State_setFbit (sub_trans rfl hW) hx1

theorem only_spareTaken {W : Nat} {s0 : State} (hW : Sub 0x400000000000000000004 W)  {n : Nat} {x : Nat} {s : State} (hs : Only W s0 s) :
    Only W s0 (spareTaken n x s) := by
  unfold spareTaken
  extract_lets +onlyGivenNames -merge -useContext -underBinder x1
  exact only_State_setF (sub_trans rfl hW) hs

theorem only_bistRow {W : Nat} {s0 : State} (hW : Sub 0x400000000000060000004 W)  {n : Nat} {bist : List BistRow} {i : Nat} {r : BistRow} {s : State} (hs : Only W s0 s) :
    Only W s0 (bistRow n bist i r s) := by
  unfold bistRow
  extract_lets +onlyGivenNames -merge -useContext -underBinder x1
  extract_lets +onlyGivenNames -merge -useContext -underBinder x2
  refine only_ite ?_ ?_
  · refine only_report (sub_trans rfl hW) ?_
    refine only_ite ?_ ?_
    · exact only_spareTaken (sub_trans rfl hW) hs
    · exact hs
  · extract_lets +onlyGivenNames -merge -useContext -underBinder x3
    have hx3 : Only W s0 (x3) := only_report (sub_trans rfl hW) hs
    try clear_value x3
    refine only_ite ?_ ?_
    · refine only_boot (sub_trans rfl hW) ?_ _
      exact hx3
    · exact only_State_setFbit (sub_trans rfl hW) hx3

theorem only_dieRepairs {W : Nat} {s0 : State} (hW : Sub 0x400000000000060000004 W)  {n : Nat} {bist : List BistRow} {s : State} (hs : Only W s0 s) :
    Only W s0 (dieRepairs n bist s) := by
  unfold dieRepairs
  extract_lets +onlyGivenNames -merge -useContext -underBinder x1 x2
  try clear_value x1
  have hx2 : Only W s0 (x2) := by
    unfold x2
    refine only_boot (sub_trans rfl hW) ?_ _
    exact hs
  try clear_value x2
  extract_lets +onlyGivenNames -merge -useContext -underBinder x3
  have hx3 : Only W s0 (x3) := by
    unfold x3
    refine only_iter (fun x t ht => ?_) ?_
    · refine only_State_setR (sub_trans rfl hW) ?_
      assumption
    · exact hx2
  try clear_value x3
  extract_lets +onlyGivenNames -merge -useContext -underBinder x4
  have hx4 : Only W s0 (x4) := by
    unfold x4
    refine only_eachRepair (sub_trans rfl hW) ?_ ?_
    · intro y5 y6 y7 hy7
      refine only_ite ?_ ?_
      · extract_lets +onlyGivenNames -merge -useContext -underBinder x8
        have hx8 : Only W s0 (x8) := only_repairApplied (sub_trans rfl hW) hy7
        try clear_value x8
        refine only_ite ?_ ?_
        · exact only_spareTaken (sub_trans rfl hW) hx8
        · exact hx8
      · exact hy7
    · exact hx3
  try clear_value x4
  refine only_foldl (fun t x ht => ?_) ?_
  · split
    · refine only_bistRow (sub_trans rfl hW) ?_
      assumption
  · exact hx4

theorem only_dieRelease {W : Nat} {s0 : State} (hW : Sub 0x80000400 W)  {n : Nat} {s : State} (hs : Only W s0 s) :
    Only W s0 (dieRelease n s) := by
  unfold dieRelease
  refine only_foldl (fun t x ht => ?_) ?_
  · refine only_ite ?_ ?_
    · assumption
    · refine only_hartRestart (sub_trans rfl hW) ?_
      assumption
  · exact hs

theorem only_dieUp {W : Nat} {s0 : State} (hW : Sub 0x240000000000000000000000000040800000000000000000000000000c0004 W)  {n : Nat} {s : State} (hs : Only W s0 s) :
    Only W s0 (dieUp n s) := by
  unfold dieUp
  extract_lets +onlyGivenNames -merge -useContext -underBinder x1
  have hx1 : Only W s0 (x1) := only_State_setF (sub_trans rfl hW) (only_State_setF (sub_trans rfl hW) hs)
  try clear_value x1
  refine only_batDieUp (sub_trans rfl hW) ?_
  refine only_limitSet (sub_trans rfl hW) ?_
  refine only_pkgStateSet (sub_trans rfl hW) ?_
  refine only_dieTrans (sub_trans rfl hW) ?_ _
  exact hx1

theorem only_dieHeldUp {W : Nat} {s0 : State} (hW : Sub 0x240000000000000000000000008040800000000200000000000000000c0004 W)  {n : Nat} {s : State} (hs : Only W s0 s) :
    Only W s0 (dieHeldUp n s) := by
  unfold dieHeldUp
  refine only_dieUp (sub_trans rfl hW) ?_
  refine only_iter (fun x t ht => ?_) ?_
  · refine only_State_setFbit (sub_trans rfl hW) ?_
    assumption
  · exact only_bridgeDown (sub_trans rfl hW) hs

theorem only_wakeLower {W : Nat} {s0 : State} (hW : Sub 0x24000000000000000000000000000000000000000000000000000000000004 W)  {n : Nat} {s : State} (hs : Only W s0 s) :
    Only W s0 (wakeLower n s) := by
  unfold wakeLower
  refine only_limitSet (sub_trans rfl hW) ?_
  refine only_iter (fun x t ht => ?_) ?_
  · refine only_ite ?_ ?_
    · refine only_State_setF (sub_trans rfl hW) ?_
      assumption
    · assumption
  · exact hs

theorem only_dieWake {W : Nat} {s0 : State} (hW : Sub 0x24000000000000000000000004800000000000000000000000000040080004 W)  {n : Nat} {port : Option Nat} {s : State} (hs : Only W s0 s) :
    Only W s0 (dieWake n port s) := by
  unfold dieWake
  extract_lets +onlyGivenNames -merge -useContext -underBinder x1
  have hx1 : Only W s0 (x1) := only_wakeLower (sub_trans rfl hW) hs
  try clear_value x1
  refine only_ite ?_ ?_
  · extract_lets +onlyGivenNames -merge -useContext -underBinder x2
    have hx2 : Only W s0 (x2) := only_trainFast (sub_trans rfl hW) (only_State_setF (sub_trans rfl hW) hx1)
    try clear_value x2
    refine only_dieTrans (sub_trans rfl hW) ?_ _
    exact hx2
  · exact only_dieStart (sub_trans rfl hW) hx1

theorem only_dieLeave {W : Nat} {s0 : State} (hW : Sub 0x24000000000000000000000000000000000000000000000000000000080004 W)  {n : Nat} {kind : Nat} {port : Option Nat} {s : State} (hs : Only W s0 s) :
    Only W s0 (dieLeave n kind port s) := by
  unfold dieLeave
  extract_lets +onlyGivenNames -merge -useContext -underBinder x1
  have hx1 : Only W s0 (x1) := by
    unfold x1
    refine only_limitSet (sub_trans rfl hW) ?_
    refine only_pkgStateSet (sub_trans rfl hW) ?_
    exact only_State_setF (sub_trans rfl hW) (only_State_setF (sub_trans rfl hW) hs)
  try clear_value x1
  refine only_dieTrans (sub_trans rfl hW) ?_ _
  exact hx1

theorem only_dieAfter {W : Nat} {s0 : State} (hW : Sub 0x24000000000000000000000004800000000000000000000000000040080004 W)  {n : Nat} {t : DieTrans} {s : State} (hs : Only W s0 s) :
    Only W s0 (dieAfter n t s) := by
  unfold dieAfter
  split
  · exact only_dieWake (sub_trans rfl hW) hs
  · exact hs

theorem only_execDieTransitionDone {W : Nat} {s0 : State} (hW : Sub 0x10b12000a40000000000000000000000048840842af0f12fbfffe800000026f00ffe5e W)  {n : Nat} {bist : List BistRow} {s : State} (hs : Only W s0 s) :
    OnlyOut W s0 (execDieTransitionDone n bist s) := by
  unfold execDieTransitionDone
  split
  · exact only_next hs
  · refine onlyOut_ite ?_ ?_
    · exact only_next hs
    · refine onlyOut_ite ?_ ?_
      · split
        · rename_i e1
          replace e1 := congrArg Prod.snd e1
          dsimp only at e1
          refine only_of_eq (W := W) (s0 := s0) e1 ?_ (fun k2 => ?_)
          · exact only_dieFlush (sub_trans rfl hW) hs
          refine only_next ?_
          assumption
        · rename_i e3
          replace e3 := congrArg Prod.snd e3
          dsimp only at e3
          refine only_of_eq (W := W) (s0 := s0) e3 ?_ (fun k4 => ?_)
          · exact only_dieFlush (sub_trans rfl hW) hs
          refine onlyOut_ite ?_ ?_
          · refine only_next ?_
            refine only_dieAfter (sub_trans rfl hW) ?_
            refine only_transReq (sub_trans rfl hW) ?_
            refine only_dieGate (sub_trans rfl hW) ?_
            assumption
          · refine onlyOut_ite ?_ ?_
            · refine only_next ?_
              refine only_dieAfter (sub_trans rfl hW) ?_
              refine only_transReq (sub_trans rfl hW) ?_
              refine only_dieGone (sub_trans rfl hW) ?_
              assumption
            · refine only_next ?_
              refine only_dieWake (sub_trans rfl hW) ?_
              refine only_dieGone (sub_trans rfl hW) ?_
              assumption
      · refine onlyOut_ite ?_ ?_
        · exact only_next (only_transReq (sub_trans rfl hW) (only_dieGone (sub_trans rfl hW) hs))
        · refine onlyOut_ite ?_ ?_
          · extract_lets +onlyGivenNames -merge -useContext -underBinder x5
            have hx5 : Only W s0 (x5) := only_dieRepairs (sub_trans rfl hW) hs
            try clear_value x5
            refine only_next ?_
            refine only_transReq (sub_trans rfl hW) ?_
            refine only_dieHeldUp (sub_trans rfl hW) ?_
            refine only_ite ?_ ?_
            · exact only_applyRetire (sub_trans rfl hW) hx5
            · exact hx5
          · refine onlyOut_ite ?_ ?_
            · exact only_next hs
            · refine onlyOut_ite ?_ ?_
              · exact only_next (only_transReq (sub_trans rfl hW) (only_dieUp (sub_trans rfl hW) hs))
              · extract_lets +onlyGivenNames -merge -useContext -underBinder x6
                have hx6 : Only W s0 (x6) := only_dieRepairs (sub_trans rfl hW) hs
                try clear_value x6
                extract_lets +onlyGivenNames -merge -useContext -underBinder x7
                have hx7 : Only W s0 (x7) := by
                  unfold x7
                  refine only_ite ?_ ?_
                  · exact only_dieRelease (sub_trans rfl hW) (only_applyRetire (sub_trans rfl hW) hx6)
                  · exact hx6
                try clear_value x7
                exact only_next (only_transReq (sub_trans rfl hW) (only_dieUp (sub_trans rfl hW) hx7))

theorem only_mittenNote {W : Nat} {s0 : State} (hW : Sub 0x10000000 W)  {u : Nat} {refused : Bool} {s : State} (hs : Only W s0 s) :
    Only W s0 (mittenNote u refused s) := by
  unfold mittenNote
  refine only_mittenRef (sub_trans rfl hW) ?_ _
  exact hs

theorem only_coreGating {W : Nat} {s0 : State} (hW : Sub 0x8000000000000000000000001040c W)  {ha : Nat} {k : WaitKind} {s : State} (hs : Only W s0 s) :
    Only W s0 (coreGating ha k s) := by
  unfold coreGating
  extract_lets +onlyGivenNames -merge -useContext -underBinder x1
  extract_lets +onlyGivenNames -merge -useContext -underBinder x2
  have hx2 : Only W s0 (x2) := only_State_onHart (sub_trans rfl hW) hs
  try clear_value x2
  extract_lets +onlyGivenNames -merge -useContext -underBinder x3
  have hx3 : Only W s0 (x3) := by
    unfold x3
    refine only_l1d (sub_trans rfl hW) ?_ _
    exact hx2
  try clear_value x3
  exact only_l2EvictAll (sub_trans rfl hW) hx3

theorem only_gateEnd {W : Nat} {s0 : State} (hW : Sub 0x80000000000000000000000000000000000000000000000000000010000004 W)  {ha : Nat} {status : Nat} {s : State} (hs : Only W s0 s) :
    Only W s0 (gateEnd ha status s) := by
  unfold gateEnd
  split
  · refine only_reqDone (sub_trans rfl hW) ?_
    refine only_gatePort (sub_trans rfl hW) ?_ _
    exact hs
  · exact hs

theorem only_coreOn {W : Nat} {s0 : State} (hW : Sub 0x80000000000000000000000000000000000000000000000000000010000404 W)  {ha : Nat} {s : State} (hs : Only W s0 s) :
    Only W s0 (coreOn ha s) := by
  unfold coreOn
  split
  · exact only_gateEnd (sub_trans rfl hW) (only_State_onHart (sub_trans rfl hW) hs)
  · exact only_gateEnd (sub_trans rfl hW) (only_State_onHart (sub_trans rfl hW) hs)
  · exact hs

theorem only_coreAsks {W : Nat} {s0 : State} (hW : Sub 0x8000000000000000000900000000000008000000000000000000001001040c W)  {ha : Nat} {s : State} (hs : Only W s0 s) :
    Only W s0 (coreAsks ha s) := by
  unfold coreAsks
  extract_lets +onlyGivenNames -merge -useContext -underBinder x1
  extract_lets +onlyGivenNames -merge -useContext -underBinder x2
  split
  · exact hs
  · refine only_ite ?_ ?_
    · exact hs
    · extract_lets +onlyGivenNames -merge -useContext -underBinder x3
      have hx3 : Only W s0 (x3) := only_State_setF (sub_trans rfl hW) hs
      try clear_value x3
      refine only_ite ?_ ?_
      · refine only_mittenNote (sub_trans rfl hW) ?_
        exact only_reqDone (sub_trans rfl hW) (only_mittenRefuse (sub_trans rfl hW) hx3)
      · extract_lets +onlyGivenNames -merge -useContext -underBinder x4
        have hx4 : Only W s0 (x4) := only_mittenNote (sub_trans rfl hW) (only_State_setB (sub_trans rfl hW) hx3)
        try clear_value x4
        refine only_coreGating (sub_trans rfl hW) ?_
        refine only_gatePort (sub_trans rfl hW) ?_ _
        exact hx4

theorem only_execCoreGate {W : Nat} {s0 : State} (hW : Sub 0x8000000000000000000900000000000008000000000000000000001001040c W)  {hart : Nat} {s : State} (hs : Only W s0 s) :
    OnlyOut W s0 (execCoreGate hart s) := by
  unfold execCoreGate
  exact only_next (only_coreAsks (sub_trans rfl hW) hs)

theorem only_gatedIn {W : Nat} {s0 : State} (hW : Sub 0x8000000000000000000000000000000008000000020200000000001001040c W)  {ha : Nat} {k : WaitKind} {s : State} (hs : Only W s0 s) :
    Only W s0 (gatedIn ha k s) := by
  unfold gatedIn
  extract_lets +onlyGivenNames -merge -useContext -underBinder x1
  extract_lets +onlyGivenNames -merge -useContext -underBinder x2
  have hx2 : Only W s0 (x2) := only_rangeAbort (sub_trans rfl hW) (only_l2EvictAll (sub_trans rfl hW) hs)
  try clear_value x2
  extract_lets +onlyGivenNames -merge -useContext -underBinder x3
  have hx3 : Only W s0 (x3) := by
    unfold x3
    refine only_l1d_l1i (sub_trans rfl hW) ?_ _ _
    exact hx2
  try clear_value x3
  exact only_gateEnd (sub_trans rfl hW) (only_State_onHart (sub_trans rfl hW) hx3)

theorem only_execGatedEntryDone {W : Nat} {s0 : State} (hW : Sub 0x8000000000000000000000000000000008000000020200000000001001040c W)  {hart : Nat} {s : State} (hs : Only W s0 s) :
    OnlyOut W s0 (execGatedEntryDone hart s) := by
  unfold execGatedEntryDone
  split
  · refine onlyOut_ite ?_ ?_
    · exact only_next hs
    · exact only_next (only_gatedIn (sub_trans rfl hW) hs)
  · exact only_next hs

theorem only_gateLeave {W : Nat} {s0 : State} (hW : Sub 0x8000000000000000000000000000000008000000020200000000001001040e W)  {ha : Nat} {s : State} (hs : Only W s0 s) :
    Only W s0 (gateLeave ha s) := by
  unfold gateLeave
  split
  · refine only_State_bump (sub_trans rfl hW) ?_
    refine only_coreOn (sub_trans rfl hW) ?_
    refine only_ite ?_ ?_
    · exact only_gatedIn (sub_trans rfl hW) hs
    · exact hs
  · exact only_coreOn (sub_trans rfl hW) hs
  · exact hs

theorem only_mittenSet {W : Nat} {s0 : State} (hW : Sub 0x8000000000000000001000000000000008000000020200000000001009040e W)  {i : Nat} {v : Word} {s0a : State} (hs0a : Only W s0 s0a) :
    Only W s0 (mittenSet i v s0a) := by
  unfold mittenSet
  extract_lets +onlyGivenNames -merge -useContext -underBinder x1
  have hx1 : Only W s0 (x1) := only_mittenWrite (sub_trans rfl hW) hs0a
  try clear_value x1
  extract_lets +onlyGivenNames -merge -useContext -underBinder x2
  have hx2 : Only W s0 (x2) := by
    unfold x2
    refine only_iter (fun x t ht => ?_) ?_
    · refine only_ite ?_ ?_
      · refine only_gateLeave (sub_trans rfl hW) ?_
        assumption
      · assumption
    · exact hx1
  try clear_value x2
  refine only_iter (fun x t ht => ?_) ?_
  · split
    · refine only_ite ?_ ?_
      · refine only_dieTrans (sub_trans rfl hW) ?_ _
        assumption
      · assumption
    · assumption
  · exact hx2

theorem only_execCoreWake {W : Nat} {s0 : State} (hW : Sub 0x8000000000000000000000000000000008000000020200000000001001040e W)  {hart : Nat} {timeout : Bool} {s : State} (hs : Only W s0 s) :
    OnlyOut W s0 (execCoreWake hart timeout s) := by
  unfold execCoreWake
  extract_lets +onlyGivenNames -merge -useContext -underBinder x1
  refine onlyOut_ite ?_ ?_
  · exact only_next hs
  · extract_lets +onlyGivenNames -merge -useContext -underBinder x2
    extract_lets +onlyGivenNames -merge -useContext -underBinder x3
    extract_lets +onlyGivenNames -merge -useContext -underBinder x4
    have hx4 : ∀ y0 y1, Only W s0 (y1) → Only W s0 (x4 y0 y1) := by
      unfold x4
      intro y5 y6 hy6
      refine only_ite ?_ ?_
      · exact hy6
      · exact only_State_onHart (sub_trans rfl hW) hy6
    try clear_value x4
    split
    · refine only_next ?_
      refine only_ite ?_ ?_
      · exact hx4 _ _ hs
      · exact hs
    · refine only_next ?_
      refine only_ite ?_ ?_
      · exact hx4 _ _ (only_gateLeave (sub_trans rfl hW) hs)
      · exact hs
    · refine only_next ?_
      refine only_ite ?_ ?_
      · exact hx4 _ _ (only_gateLeave (sub_trans rfl hW) hs)
      · exact hs
    · exact only_next hs

theorem only_execDispatch {W : Nat} {s0 : State} (hW : Sub 0x800000000000e0000007000000000004280000000202000038000050039c0e W)  {hart : Nat} {desc : Nat} {arg : BitVec 32} {phase : Word} {inst : Word} {entry : Nat} {source : Nat} {late : Bool} {w : Bool} {part : Nat} {x : Xlate} {s : State} (hs : Only W s0 s) :
    OnlyOut W s0 (execDispatch hart desc arg phase inst entry source late w part x s) := by
  unfold execDispatch
  extract_lets +onlyGivenNames -merge -useContext -underBinder x1
  refine onlyOut_ite ?_ ?_
  · exact only_next hs
  · extract_lets +onlyGivenNames -merge -useContext -underBinder x2
    have hx2 : Only W s0 (x2) := only_State_take (sub_trans rfl hW) hs
    try clear_value x2
    extract_lets +onlyGivenNames -merge -useContext -underBinder x3
    refine onlyOut_ite ?_ ?_
    · exact only_next (only_calErr (sub_trans rfl hW) hx2)
    · refine onlyOut_ite ?_ ?_
      · exact only_next (only_beginTask (sub_trans rfl hW) (only_gateLeave (sub_trans rfl hW) hx2))
      · refine onlyOut_ite ?_ ?_
        · exact only_next (only_calErr (sub_trans rfl hW) hx2)
        · exact only_next (only_State_onHart (sub_trans rfl hW) hx2)

theorem only_plockOff {W : Nat} {s0 : State} (hW : Sub 0x24000000000000000000000000000000000000000000000000000000000004 W)   {s : State} (hs : Only W s0 s) :
    Only W s0 (plockOff s) := by
  unfold plockOff
  refine only_ite ?_ ?_
  · exact hs
  · extract_lets +onlyGivenNames -merge -useContext -underBinder x1
    have hx1 : Only W s0 (x1) := only_State_setB (sub_trans rfl hW) hs
    try clear_value x1
    refine only_limitSet (sub_trans rfl hW) ?_
    refine only_iter (fun x t ht => ?_) ?_
    · refine only_ite ?_ ?_
      · refine only_State_setF (sub_trans rfl hW) ?_
        assumption
      · assumption
    · exact hx1

theorem only_endBegin {W : Nat} {s0 : State} (hW : Sub 0x24000000000000000000024020000000000000000000000000000010180004 W)  {e : PkgEnd} {s : State} (hs : Only W s0 s) :
    Only W s0 (endBegin e s) := by
  unfold endBegin
  extract_lets +onlyGivenNames -merge -useContext -underBinder x1
  have hx1 : Only W s0 (x1) := by
    unfold x1
    refine only_plockOff (sub_trans rfl hW) ?_
    refine only_fine (sub_trans rfl hW) ?_ _
    exact hs
  try clear_value x1
  extract_lets +onlyGivenNames -merge -useContext -underBinder x2
  have hx2 : Only W s0 (x2) := by
    unfold x2
    refine only_iter (fun x t ht => ?_) ?_
    · refine only_chPause (sub_trans rfl hW) ?_
      assumption
    · exact hx1
  try clear_value x2
  extract_lets +onlyGivenNames -merge -useContext -underBinder x3
  have hx3 : Only W s0 (x3) := by
    unfold x3
    refine only_iter (fun x t ht => ?_) ?_
    · refine only_ite ?_ ?_
      · refine only_dieLeave (sub_trans rfl hW) ?_
        assumption
      · assumption
    · exact hx2
  try clear_value x3
  refine only_pkgEnd (sub_trans rfl hW) ?_ _
  exact hx3

theorem only_clockStop {W : Nat} {s0 : State} (hW : Sub 0x40302000000000000000000000000000000000042af0f12d800000000000005002601e W)  {u : Nat} {s : State} (hs : Only W s0 s) :
    Only W s0 (clockStop u s) := by
  unfold clockStop
  extract_lets +onlyGivenNames -merge -useContext -underBinder x1
  have hx1 : Only W s0 (x1) := by
    unfold x1
    refine only_ite ?_ ?_
    · exact only_selfRefreshEnter (sub_trans rfl hW) hs
    · exact hs
  try clear_value x1
  refine only_clkOff (sub_trans rfl hW) ?_ _
  exact hx1

theorem only_dieAccept {W : Nat} {s0 : State} (hW : Sub 0x10b02000a40000000000000000000000048840042af0f12fbfffe800000020f00ffe5e W)  {kind : Nat} {n : Nat} {freq : Nat} {k : Nat} {s : State} (hs : Only W s0 s) :
    Only W s0 (dieAccept kind n freq k s) := by
  unfold dieAccept
  extract_lets +onlyGivenNames -merge -useContext -underBinder x1
  split
  · refine only_ite ?_ ?_
    · exact only_reqDone (sub_trans rfl hW) hs
    · exact only_dieWake (sub_trans rfl hW) hs
  · refine only_ite ?_ ?_
    · exact only_dieLeave (sub_trans rfl hW) hs
    · exact only_reqDone (sub_trans rfl hW) hs
  · refine only_ite ?_ ?_
    · exact only_dieLeave (sub_trans rfl hW) hs
    · refine only_ite ?_ ?_
      · exact only_reqDone (sub_trans rfl hW) (only_dieGone (sub_trans rfl hW) hs)
      · exact only_reqDone (sub_trans rfl hW) hs
  · refine only_ite ?_ ?_
    · exact only_dieLeave (sub_trans rfl hW) hs
    · refine only_ite ?_ ?_
      · exact only_dieWake (sub_trans rfl hW) (only_dieGone (sub_trans rfl hW) hs)
      · exact only_dieWake (sub_trans rfl hW) hs
  · extract_lets +onlyGivenNames -merge -useContext -underBinder x2
    have hx2 : Only W s0 (x2) := only_limitSet (sub_trans rfl hW) (only_State_setF (sub_trans rfl hW) hs)
    try clear_value x2
    refine only_ite ?_ ?_
    · refine only_freqGoal (sub_trans rfl hW) ?_ _
      exact hx2
    · exact only_reqDone (sub_trans rfl hW) hx2

theorem only_coreAccept {W : Nat} {s0 : State} (hW : Sub 0x8000000000000000000000000000000008000000000000000000001001040c W)  {kind : Nat} {ha : Nat} {k : Nat} {s : State} (hs : Only W s0 s) :
    Only W s0 (coreAccept kind ha k s) := by
  unfold coreAccept
  extract_lets +onlyGivenNames -merge -useContext -underBinder x1
  have hx1 : ∀ y0, Only W s0 (x1 y0) := by
    unfold x1
    intro y2
    refine only_coreGating (sub_trans rfl hW) ?_
    refine only_gatePort (sub_trans rfl hW) ?_ _
    exact hs
  try clear_value x1
  split
  · refine hx1 _
  · refine only_ite ?_ ?_
    · exact only_reqDone (sub_trans rfl hW) hs
    · refine hx1 _
  · exact only_reqDone (sub_trans rfl hW) (only_coreOn (sub_trans rfl hW) hs)
  · exact only_reqDone (sub_trans rfl hW) hs

theorem only_pwcTake {W : Nat} {s0 : State} (hW : Sub 0x50b02000a40000000000000000090240248840042af0f12fbfffe800000020f01ffe5e W)  {k : Nat} {kind : Nat} {u : Nat} {freq : Nat} {s : State} (hs : Only W s0 s) :
    Only W s0 (pwcTake k kind u freq s) := by
  unfold pwcTake
  extract_lets +onlyGivenNames -merge -useContext -underBinder x1
  extract_lets +onlyGivenNames -merge -useContext -underBinder x2
  try clear_value x2
  extract_lets +onlyGivenNames -merge -useContext -underBinder x3
  extract_lets +onlyGivenNames -merge -useContext -underBinder x4
  try clear_value x4
  extract_lets +onlyGivenNames -merge -useContext -underBinder x5
  refine only_ite ?_ ?_
  · exact only_reqDone (sub_trans rfl hW) hs
  · refine only_ite ?_ ?_
    · exact only_reqDone (sub_trans rfl hW) hs
    · refine only_ite ?_ ?_
      · exact only_reqDone (sub_trans rfl hW) hs
      · refine only_ite ?_ ?_
        · split
          · refine only_dieTrans (sub_trans rfl hW) ?_ _
            exact hs
          · exact hs
        · refine only_ite ?_ ?_
          · exact only_reqDone (sub_trans rfl hW) (only_gateLeave (sub_trans rfl hW) hs)
          · refine only_ite ?_ ?_
            · exact only_reqDone (sub_trans rfl hW) hs
            · refine only_ite ?_ ?_
              · exact only_reqDone (sub_trans rfl hW) hs
              · split
                · refine only_mittenNote (sub_trans rfl hW) ?_
                  exact only_reqDone (sub_trans rfl hW) (only_mittenRefuse (sub_trans rfl hW) hs)
                · extract_lets +onlyGivenNames -merge -useContext -underBinder x6
                  have hx6 : Only W s0 (x6) := by
                    unfold x6
                    refine only_ite ?_ ?_
                    · exact hs
                    · exact only_mittenNote (sub_trans rfl hW) hs
                  try clear_value x6
                  split
                  · exact only_reqDone (sub_trans rfl hW) (only_clockStop (sub_trans rfl hW) hx6)
                  · refine only_reqDone (sub_trans rfl hW) ?_
                    refine only_clkOff (sub_trans rfl hW) ?_ _
                    exact hx6
                  · exact only_endBegin (sub_trans rfl hW) hx6
                  · exact only_endBegin (sub_trans rfl hW) hx6
                  · refine only_ite ?_ ?_
                    · exact only_coreAccept (sub_trans rfl hW) hx6
                    · exact only_dieAccept (sub_trans rfl hW) hx6

theorem only_pwrReqWrite {W : Nat} {s0 : State} (hW : Sub 0x50b02000a40000000000000000090240248840042af0f12fbfffe800000020f01ffe5e W)  {k : Nat} {v : Word} {s : State} (hs : Only W s0 s) :
    Only W s0 (pwrReqWrite k v s) := by
  unfold pwrReqWrite
  refine only_ite ?_ ?_
  · exact hs
  · extract_lets +onlyGivenNames -merge -useContext -underBinder x1
    extract_lets +onlyGivenNames -merge -useContext -underBinder x2
    have hx2 : Only W s0 (x2) := by
      unfold x2
      refine only_State_setB (sub_trans rfl hW) ?_
      exact only_State_setB (sub_trans rfl hW) (only_State_setF (sub_trans rfl hW) hs)
    try clear_value x2
    extract_lets +onlyGivenNames -merge -useContext -underBinder x3
    have hx3 : Only W s0 (x3) := by
      unfold x3
      refine only_pwrIrq (sub_trans rfl hW) ?_ _
      exact hx2
    try clear_value x3
    exact only_pwcTake (sub_trans rfl hW) hx3

theorem only_pwrReq {W : Nat} {s0 : State} (hW : Sub 0x50b02000a40000000000e000000f0240248840042af0f12fbfffe800000020f01ffe7e W)  {a : Access} {k : Nat} {kind : Nat} {unit : Nat} {freq : Nat} {irq : Bool} {s : State} (hs : Only W s0 s) :
    Only W s0 (pwrReq a k kind unit freq irq s) := by
  unfold pwrReq
  refine only_ite ?_ ?_
  · refine only_guarded (sub_trans rfl hW) ?_ ?_
    · intro y1 hy1
      exact only_pwrReqWrite (sub_trans rfl hW) hy1
    · exact hs
  · exact hs

theorem only_execReqOn {W : Nat} {s0 : State} (hW : Sub 0x50b02000a40000000000e000000f0240248840042af0f12fbfffe800000020f01ffe7e W)  {a : Access} {k : Nat} {unit : Nat} {irq : Bool} {s : State} (hs : Only W s0 s) :
    OnlyOut W s0 (execReqOn a k unit irq s) := by
  unfold execReqOn
  exact only_next (only_pwrReq (sub_trans rfl hW) hs)

theorem only_execReqGated {W : Nat} {s0 : State} (hW : Sub 0x50b02000a40000000000e000000f0240248840042af0f12fbfffe800000020f01ffe7e W)  {a : Access} {k : Nat} {unit : Nat} {irq : Bool} {s : State} (hs : Only W s0 s) :
    OnlyOut W s0 (execReqGated a k unit irq s) := by
  unfold execReqGated
  exact only_next (only_pwrReq (sub_trans rfl hW) hs)

theorem only_execReqOff {W : Nat} {s0 : State} (hW : Sub 0x50b02000a40000000000e000000f0240248840042af0f12fbfffe800000020f01ffe7e W)  {a : Access} {k : Nat} {unit : Nat} {irq : Bool} {s : State} (hs : Only W s0 s) :
    OnlyOut W s0 (execReqOff a k unit irq s) := by
  unfold execReqOff
  exact only_next (only_pwrReq (sub_trans rfl hW) hs)

theorem only_execReqClockStop {W : Nat} {s0 : State} (hW : Sub 0x50b02000a40000000000e000000f0240248840042af0f12fbfffe800000020f01ffe7e W)  {a : Access} {k : Nat} {unit : Nat} {irq : Bool} {s : State} (hs : Only W s0 s) :
    OnlyOut W s0 (execReqClockStop a k unit irq s) := by
  unfold execReqClockStop
  exact only_next (only_pwrReq (sub_trans rfl hW) hs)

theorem only_execReqReset {W : Nat} {s0 : State} (hW : Sub 0x50b02000a40000000000e000000f0240248840042af0f12fbfffe800000020f01ffe7e W)  {a : Access} {k : Nat} {unit : Nat} {irq : Bool} {s : State} (hs : Only W s0 s) :
    OnlyOut W s0 (execReqReset a k unit irq s) := by
  unfold execReqReset
  exact only_next (only_pwrReq (sub_trans rfl hW) hs)

theorem only_execReqPackageRetain {W : Nat} {s0 : State} (hW : Sub 0x50b02000a40000000000e000000f0240248840042af0f12fbfffe800000020f01ffe7e W)  {a : Access} {k : Nat} {unit : Nat} {irq : Bool} {s : State} (hs : Only W s0 s) :
    OnlyOut W s0 (execReqPackageRetain a k unit irq s) := by
  unfold execReqPackageRetain
  exact only_next (only_pwrReq (sub_trans rfl hW) hs)

theorem only_execReqPackageOff {W : Nat} {s0 : State} (hW : Sub 0x50b02000a40000000000e000000f0240248840042af0f12fbfffe800000020f01ffe7e W)  {a : Access} {k : Nat} {unit : Nat} {irq : Bool} {s : State} (hs : Only W s0 s) :
    OnlyOut W s0 (execReqPackageOff a k unit irq s) := by
  unfold execReqPackageOff
  exact only_next (only_pwrReq (sub_trans rfl hW) hs)

theorem only_execReqClockStart {W : Nat} {s0 : State} (hW : Sub 0x50b02000a40000000000e000000f0240248840042af0f12fbfffe800000020f01ffe7e W)  {a : Access} {k : Nat} {unit : Nat} {irq : Bool} {s : State} (hs : Only W s0 s) :
    OnlyOut W s0 (execReqClockStart a k unit irq s) := by
  unfold execReqClockStart
  exact only_next (only_pwrReq (sub_trans rfl hW) hs)

theorem only_execReqFrequency {W : Nat} {s0 : State} (hW : Sub 0x50b02000a40000000000e000000f0240248840042af0f12fbfffe800000020f01ffe7e W)  {a : Access} {k : Nat} {unit : Nat} {freq : Nat} {irq : Bool} {s : State} (hs : Only W s0 s) :
    OnlyOut W s0 (execReqFrequency a k unit freq irq s) := by
  unfold execReqFrequency
  exact only_next (only_pwrReq (sub_trans rfl hW) hs)

theorem only_execPowerCommand {W : Nat} {s0 : State} (hW : Sub 0x8000000000000000000000000000000008000000020200000000001001040e W)  {n : Nat} {pos : Nat} {cmd : Nat} {s : State} (hs : Only W s0 s) :
    OnlyOut W s0 (execPowerCommand n pos cmd s) := by
  unfold execPowerCommand
  split
  · exact only_next hs
  · refine onlyOut_ite ?_ ?_
    · exact only_next hs
    · refine onlyOut_ite ?_ ?_
      · exact only_next (only_gateLeave (sub_trans rfl hW) hs)
      · refine onlyOut_ite ?_ ?_
        · split
          · exact only_next (only_coreGating (sub_trans rfl hW) hs)
          · exact only_next hs
        · exact only_next hs

theorem only_execPowerRequest {W : Nat} {s0 : State} (hW : Sub 0x8000000000000000000900000000000008000000000000000000001001040c W)  {n : Nat} {pos : Nat} {req : Nat} {s : State} (hs : Only W s0 s) :
    OnlyOut W s0 (execPowerRequest n pos req s) := by
  unfold execPowerRequest
  split
  · exact only_next hs
  · refine only_next ?_
    refine only_ite ?_ ?_
    · exact only_coreAsks (sub_trans rfl hW) hs
    · exact hs

theorem only_execFrequencyChangeDone {W : Nat} {s0 : State} (hW : Sub 0xa4000000000000000000000000000000000000000000000000000010000004 W)  {n : Nat} {s : State} (hs : Only W s0 s) :
    OnlyOut W s0 (execFrequencyChangeDone n s) := by
  unfold execFrequencyChangeDone
  split
  · exact only_next hs
  · extract_lets +onlyGivenNames -merge -useContext -underBinder x1
    have hx1 : Only W s0 (x1) := by
      unfold x1
      refine only_freqGoal (sub_trans rfl hW) ?_ _
      exact hs
    try clear_value x1
    extract_lets +onlyGivenNames -merge -useContext -underBinder x2
    extract_lets +onlyGivenNames -merge -useContext -underBinder x3
    extract_lets +onlyGivenNames -merge -useContext -underBinder x4
    have hx4 : Only W s0 (x4) := by
      unfold x4
      refine only_ite ?_ ?_
      · exact hx1
      · exact only_State_setF (sub_trans rfl hW) hx1
    try clear_value x4
    extract_lets +onlyGivenNames -merge -useContext -underBinder x5
    have hx5 : Only W s0 (x5) := only_limitSet (sub_trans rfl hW) hx4
    try clear_value x5
    split
    · exact only_next (only_reqDone (sub_trans rfl hW) hx5)
    · exact only_next hx5

theorem only_plockOn {W : Nat} {s0 : State} (hW : Sub 0x24000000000000000000000000000000000000000000000000000000000004 W)   {s : State} (hs : Only W s0 s) :
    Only W s0 (plockOn s) := by
  unfold plockOn
  extract_lets +onlyGivenNames -merge -useContext -underBinder x1
  have hx1 : Only W s0 (x1) := by
    unfold x1
    refine only_iter (fun x t ht => ?_) ?_
    · refine only_ite ?_ ?_
      · refine only_State_setF (sub_trans rfl hW) ?_
        assumption
      · assumption
    · exact hs
  try clear_value x1
  exact only_limitSet (sub_trans rfl hW) (only_State_setB (sub_trans rfl hW) hx1)

theorem only_pwrCtrlWrite {W : Nat} {s0 : State} (hW : Sub 0x25000000000000000000000000000000000000000000000000000000000004 W)  {v : Word} {s : State} (hs : Only W s0 s) :
    Only W s0 (pwrCtrlWrite v s) := by
  unfold pwrCtrlWrite
  extract_lets +onlyGivenNames -merge -useContext -underBinder x1
  extract_lets +onlyGivenNames -merge -useContext -underBinder x2
  have hx2 : Only W s0 (x2) := only_State_wr (sub_trans rfl hW) hs
  try clear_value x2
  extract_lets +onlyGivenNames -merge -useContext -underBinder x3
  refine only_ite ?_ ?_
  · refine only_ite ?_ ?_
    · exact hx2
    · exact only_plockOn (sub_trans rfl hW) hx2
  · refine only_ite ?_ ?_
    · exact only_plockOff (sub_trans rfl hW) hx2
    · exact hx2

theorem only_execPlockEnter {W : Nat} {s0 : State} (hW : Sub 0x250000000000e0000007000000000000000000000000000000000000000024 W)  {a : Access} {v : Word} {s : State} (hs : Only W s0 s) :
    OnlyOut W s0 (execPlockEnter a v s) := by
  unfold execPlockEnter
  refine only_next ?_
  refine only_guarded (sub_trans rfl hW) ?_ ?_
  · intro y1 hy1
    exact only_pwrCtrlWrite (sub_trans rfl hW) hy1
  · exact hs

theorem only_execPlockLeave {W : Nat} {s0 : State} (hW : Sub 0x250000000000e0000007000000000000000000000000000000000000000024 W)  {a : Access} {v : Word} {s : State} (hs : Only W s0 s) :
    OnlyOut W s0 (execPlockLeave a v s) := by
  unfold execPlockLeave
  refine only_next ?_
  refine only_guarded (sub_trans rfl hW) ?_ ?_
  · intro y1 hy1
    exact only_pwrCtrlWrite (sub_trans rfl hW) hy1
  · exact hs

theorem only_execPlockOverTimeout {W : Nat} {s0 : State} (hW : Sub 0x24000000000000000000000000000000000000000000000000000000000004 W)   {s : State} (hs : Only W s0 s) :
    OnlyOut W s0 (execPlockOverTimeout s) := by
  unfold execPlockOverTimeout
  refine only_next ?_
  refine only_ite ?_ ?_
  · exact only_plockOff (sub_trans rfl hW) hs
  · exact hs

theorem only_execPlockReentry {W : Nat} {s0 : State} (hW : Sub 0x24000000000000000000000000000000000000000000000000000000000004 W)   {s : State} (hs : Only W s0 s) :
    OnlyOut W s0 (execPlockReentry s) := by
  unfold execPlockReentry
  refine only_next ?_
  refine only_ite ?_ ?_
  · exact only_plockOn (sub_trans rfl hW) hs
  · exact hs

theorem only_limitDown {W : Nat} {s0 : State} (hW : Sub 0x20000000000000000000000000000000000000000000000000000000000004 W)  {draw : List Nat} {s : State} (hs : Only W s0 s) :
    Only W s0 (limitDown draw s) := by
  unfold limitDown
  extract_lets +onlyGivenNames -merge -useContext -underBinder x1
  extract_lets +onlyGivenNames -merge -useContext -underBinder x2
  split
  · exact only_State_setF (sub_trans rfl hW) hs
  · exact hs

theorem only_limitUp {W : Nat} {s0 : State} (hW : Sub 0x20000000000000000000000000000000000000000000000000000000000004 W)  {pick : Nat} {s : State} (hs : Only W s0 s) :
    Only W s0 (limitUp pick s) := by
  unfold limitUp
  extract_lets +onlyGivenNames -merge -useContext -underBinder x1
  extract_lets +onlyGivenNames -merge -useContext -underBinder x2
  extract_lets +onlyGivenNames -merge -useContext -underBinder x3
  split
  · exact only_State_setF (sub_trans rfl hW) hs
  · exact hs

theorem only_execInputSample {W : Nat} {s0 : State} (hW : Sub 0x3c000000000000000000000000000000000000000000000000000010000004 W)  {volts : Nat} {current : Nat} {mittenW : Nat} {pick : Nat} {draw : List Nat} {s : State} (hs : Only W s0 s) :
    OnlyOut W s0 (execInputSample volts current mittenW pick draw s) := by
  unfold execInputSample
  extract_lets +onlyGivenNames -merge -useContext -underBinder x1
  extract_lets +onlyGivenNames -merge -useContext -underBinder x2
  have hx2 : Only W s0 (x2) := by
    unfold x2
    refine only_samples (sub_trans rfl hW) ?_ _
    exact hs
  extract_lets +onlyGivenNames -merge -useContext -underBinder x3
  extract_lets +onlyGivenNames -merge -useContext -underBinder x4
  have hx4 : Only W s0 (x4) := by
    unfold x4
    refine only_State_setF (sub_trans rfl hW) ?_
    exact only_State_setF (sub_trans rfl hW) (only_State_setF (sub_trans rfl hW) hx2)
  extract_lets +onlyGivenNames -merge -useContext -underBinder x5
  have hx5 : Only W s0 (x5) := only_State_setF (sub_trans rfl hW) hx4
  extract_lets +onlyGivenNames -merge -useContext -underBinder x6
  extract_lets +onlyGivenNames -merge -useContext -underBinder x7
  have hx7 : Only W s0 (x7) := by
    unfold x7
    refine only_calm_excess_fine (sub_trans rfl hW) ?_ _ _ _
    exact hx5
  refine onlyOut_ite ?_ ?_
  · refine onlyOut_ite ?_ ?_
    · exact only_next (only_State_setB (sub_trans rfl hW) hx7)
    · exact only_next (only_limitSet (sub_trans rfl hW) (only_limitDown (sub_trans rfl hW) hx7))
  · refine onlyOut_ite ?_ ?_
    · exact only_next (only_limitSet (sub_trans rfl hW) (only_limitUp (sub_trans rfl hW) hx7))
    · exact only_next hx7

theorem only_execThrottle {W : Nat} {s0 : State} (hW : Sub 0x24000000000000000000000000000000000000000000000000000010000004 W)  {n : Nat} {temp : Nat} {s : State} (hs : Only W s0 s) :
    OnlyOut W s0 (execThrottle n temp s) := by
  unfold execThrottle
  extract_lets +onlyGivenNames -merge -useContext -underBinder x1
  have hx1 : Only W s0 (x1) := only_State_setF (sub_trans rfl hW) hs
  try clear_value x1
  refine onlyOut_ite ?_ ?_
  · exact only_next hx1
  · extract_lets +onlyGivenNames -merge -useContext -underBinder x2
    have hx2 : Only W s0 (x2) := by
      unfold x2
      refine only_plockOff (sub_trans rfl hW) ?_
      refine only_fine (sub_trans rfl hW) ?_ _
      exact hx1
    try clear_value x2
    exact only_next (only_limitSet (sub_trans rfl hW) (only_State_setF (sub_trans rfl hW) hx2))

theorem only_execThermalTrip {W : Nat} {s0 : State} (hW : Sub 0x7ffffffffffffffffffffffffffffffffffffffffffffffffffffffffffffffffffffe W)  {n : Nat} {temp : Nat} {s : State} (hs : Only W s0 s) :
    OnlyOut W s0 (execThermalTrip n temp s) := by
  unfold execThermalTrip
  refine onlyOut_ite ?_ ?_
  · exact only_next hs
  · refine onlyOut_ite ?_ ?_
    · refine only_next ?_
      refine only_ite ?_ ?_
      · exact hs
      · exact only_goOff (sub_trans rfl hW) hs
    · refine onlyOut_ite ?_ ?_
      · exact only_next hs
      · extract_lets +onlyGivenNames -merge -useContext -underBinder x1
        extract_lets +onlyGivenNames -merge -useContext -underBinder x2 x3
        have hx2 : Only W s0 (x2) := only_freqDrop (sub_trans rfl hW) (only_State_setF (sub_trans rfl hW) hs)
        try clear_value x2
        have hx3 : Only W s0 (x3) := by
          unfold x3
          refine only_plockOff (sub_trans rfl hW) ?_
          refine only_fine (sub_trans rfl hW) ?_ _
          exact hx2
        try clear_value x3
        extract_lets +onlyGivenNames -merge -useContext -underBinder x4
        have hx4 : Only W s0 (x4) := only_transLost (sub_trans rfl hW) (only_report (sub_trans rfl hW) hx3)
        try clear_value x4
        exact only_next (only_State_setB (sub_trans rfl hW) (only_dieGone (sub_trans rfl hW) hx4))

theorem only_execPowerDieFault {W : Nat} {s0 : State} (hW : Sub 0x7ffffffffffffffffffffffffffffffffffffffffffffffffffffffffffffffffffffe W)  {i : Nat} {s : State} (hs : Only W s0 s) :
    OnlyOut W s0 (execPowerDieFault i s) := by
  unfold execPowerDieFault
  refine onlyOut_ite ?_ ?_
  · exact only_next hs
  · extract_lets +onlyGivenNames -merge -useContext -underBinder x1
    have hx1 : Only W s0 (x1) := only_State_setB (sub_trans rfl hW) (only_State_setFbit (sub_trans rfl hW) hs)
    try clear_value x1
    extract_lets +onlyGivenNames -merge -useContext -underBinder x2
    have hx2 : Only W s0 (x2) := only_report (sub_trans rfl hW) hx1
    try clear_value x2
    extract_lets +onlyGivenNames -merge -useContext -underBinder x3
    extract_lets +onlyGivenNames -merge -useContext -underBinder x4
    have hx4 : Only W s0 (x4) := by
      unfold x4
      refine only_ite ?_ ?_
      · exact only_startFail (sub_trans rfl hW) hx2
      · exact hx2
    try clear_value x4
    refine only_next ?_
    refine only_ite ?_ ?_
    · exact only_goOff (sub_trans rfl hW) hx4
    · exact hx4

theorem only_endFlush {W : Nat} {s0 : State} (hW : Sub 0x428000000200000000000000003840c W)   {s : State} (hs : Only W s0 s) :
    Only W s0 (endFlush s).2 := by
  unfold endFlush
  refine only_foldl_snd (fun t x ht => ?_) ?_
  · split
    · split
      · refine only_ite_snd ?_ ?_
        · refine only_snd_mk ?_
          assumption
        · split
          · rename_i e1
            replace e1 := congrArg Prod.snd e1
            dsimp only at e1
            refine only_of_eq (W := W) (s0 := s0) e1 ?_ (fun k2 => ?_)
            · refine only_dieFlush (sub_trans rfl hW) ?_
              assumption
            refine only_snd_mk ?_
            assumption
      · refine only_snd_mk ?_
        assumption
  · exact only_snd_mk hs

theorem only_execPowerFailWarning {W : Nat} {s0 : State} (hW : Sub 0x4000000000000000000000000000000000000000000000000000010000004 W)  {volts : Nat} {s : State} (hs : Only W s0 s) :
    OnlyOut W s0 (execPowerFailWarning volts s) := by
  unfold execPowerFailWarning
  refine onlyOut_ite ?_ ?_
  · exact only_next hs
  · extract_lets +onlyGivenNames -merge -useContext -underBinder x1
    have hx1 : Only W s0 (x1) := only_State_setB (sub_trans rfl hW) hs
    try clear_value x1
    refine only_next ?_
    refine only_ite ?_ ?_
    · exact hx1
    · extract_lets +onlyGivenNames -merge -useContext -underBinder x2
      have hx2 : Only W s0 (x2) := only_State_setB (sub_trans rfl hW) hx1
      try clear_value x2
      refine only_pfAt (sub_trans rfl hW) ?_ _
      exact hx2

theorem only_execWarningWithdrawn {W : Nat} {s0 : State} (hW : Sub 0x4000000000000000000000000000000000000000000000000000000000004 W)  {volts : Nat} {s : State} (hs : Only W s0 s) :
    OnlyOut W s0 (execWarningWithdrawn volts s) := by
  unfold execWarningWithdrawn
  refine only_next ?_
  refine only_ite ?_ ?_
  · exact only_State_setB (sub_trans rfl hW) hs
  · exact hs

theorem only_execGraceEnd {W : Nat} {s0 : State} (hW : Sub 0x24000000000000000000024020000000000000000000000000000010180004 W)   {s : State} (hs : Only W s0 s) :
    OnlyOut W s0 (execGraceEnd s) := by
  unfold execGraceEnd
  refine onlyOut_ite ?_ ?_
  · exact only_next hs
  · extract_lets +onlyGivenNames -merge -useContext -underBinder x1
    refine onlyOut_ite ?_ ?_
    · exact only_next (only_State_setB (sub_trans rfl hW) hs)
    · exact only_next (only_endBegin (sub_trans rfl hW) hs)

theorem only_warmReset {W : Nat} {s0 : State} (hW : Sub 0x7ffffffffffffffffffffffffffffffffffffffffffffffffffffffffffffffffffffe W)   {s : State} (hs : Only W s0 s) :
    Only W s0 (warmReset s) := by
  unfold warmReset
  exact only_startStep2 (sub_trans rfl hW) (only_pkgReset (sub_trans rfl hW) (only_evlog (sub_trans rfl hW) hs))

theorem only_pinFloat {W : Nat} {s0 : State} (hW : Sub 0x100 W)  {i : Nat} {s : State} (hs : Only W s0 s) :
    Only W s0 (pinFloat i s) := by
  unfold pinFloat
  exact only_State_setPin (sub_trans rfl hW) hs

theorem only_tsDiscard {W : Nat} {s0 : State} (hW : Sub 0x208 W)   {s : State} (hs : Only W s0 s) :
    Only W s0 (tsDiscard s) := by
  unfold tsDiscard
  refine only_out_tsq (sub_trans rfl hW) ?_ _ _
  exact hs

theorem only_execPowerFailComplete {W : Nat} {s0 : State} (hW : Sub 0x7ffffffffffffffffffffffffffffffffffffffffffffffffffffffffffffffffffffe W)   {s : State} (hs : Only W s0 s) :
    OnlyOut W s0 (execPowerFailComplete s) := by
  unfold execPowerFailComplete
  split
  · exact only_next hs
  · split
    · rename_i e1
      replace e1 := congrArg Prod.snd e1
      dsimp only at e1
      refine only_of_eq (W := W) (s0 := s0) e1 ?_ (fun k2 => ?_)
      · exact only_endFlush (sub_trans rfl hW) hs
      refine only_next ?_
      assumption
    · rename_i e3
      replace e3 := congrArg Prod.snd e3
      dsimp only at e3
      refine only_of_eq (W := W) (s0 := s0) e3 ?_ (fun k4 => ?_)
      · exact only_endFlush (sub_trans rfl hW) hs
      extract_lets +onlyGivenNames -merge -useContext -underBinder x5
      have hx5 : Only W s0 (x5) := by
        unfold x5
        refine only_iter (fun x t ht => ?_) ?_
        · refine only_selfRefreshEnter (sub_trans rfl hW) ?_
          assumption
        · assumption
      try clear_value x5
      extract_lets +onlyGivenNames -merge -useContext -underBinder x6
      have hx6 : Only W s0 (x6) := by
        unfold x6
        refine only_iter (fun x t ht => ?_) ?_
        · refine only_ite ?_ ?_
          · assumption
          · refine only_transLost (sub_trans rfl hW) ?_
            refine only_dieGone (sub_trans rfl hW) ?_
            assumption
        · exact hx5
      try clear_value x6
      extract_lets +onlyGivenNames -merge -useContext -underBinder x7 x8
      have hx7 : Only W s0 (x7) := only_State_setB (sub_trans rfl hW) hx6
      try clear_value x7
      have hx8 : Only W s0 (x8) := by
        unfold x8
        refine only_pkgEnd (sub_trans rfl hW) ?_ _
        exact hx7
      try clear_value x8
      extract_lets +onlyGivenNames -merge -useContext -underBinder x9
      have hx9 : Only W s0 (x9) := by
        unfold x9
        refine only_ite ?_ ?_
        · exact only_evlog (sub_trans rfl hW) hx8
        · exact hx8
      try clear_value x9
      extract_lets +onlyGivenNames -merge -useContext -underBinder x10
      have hx10 : Only W s0 (x10) := by
        unfold x10
        split
        · exact only_reqDone (sub_trans rfl hW) hx9
        · exact hx9
      try clear_value x10
      refine only_next ?_
      refine only_ite ?_ ?_
      · exact only_warmReset (sub_trans rfl hW) hx10
      · refine only_ite ?_ ?_
        · exact only_goOff (sub_trans rfl hW) hx10
        · refine only_iter (fun x t ht => ?_) ?_
          · refine only_pinFloat (sub_trans rfl hW) ?_
            assumption
          · exact only_tsDiscard (sub_trans rfl hW) (only_State_setF (sub_trans rfl hW) hx10)

theorem only_execUndervoltage {W : Nat} {s0 : State} (hW : Sub 0x7ffffffffffffffffffffffffffffffffffffffffffffffffffffffffffffffffffffe W)   {s : State} (hs : Only W s0 s) :
    OnlyOut W s0 (execUndervoltage s) := by
  unfold execUndervoltage
  refine only_next ?_
  refine only_ite ?_ ?_
  · exact hs
  · exact only_goOff (sub_trans rfl hW) (only_evlog (sub_trans rfl hW) hs)

theorem only_execOvervoltage {W : Nat} {s0 : State} (hW : Sub 0x7ffffffffffffffffffffffffffffffffffffffffffffffffffffffffffffffffffffe W)   {s : State} (hs : Only W s0 s) :
    OnlyOut W s0 (execOvervoltage s) := by
  unfold execOvervoltage
  refine only_next ?_
  refine only_ite ?_ ?_
  · exact hs
  · exact only_goOff (sub_trans rfl hW) (only_evlog (sub_trans rfl hW) hs)

theorem only_execAonPowerLoss {W : Nat} {s0 : State} (hW : Sub 0x7ffffffffffffffffffffffffffffffffffffffffffffffffffffffffffffffffffffe W)   {s : State} (hs : Only W s0 s) :
    OnlyOut W s0 (execAonPowerLoss s) := by
  unfold execAonPowerLoss
  refine only_next ?_
  extract_lets +onlyGivenNames -merge -useContext -underBinder x1
  have hx1 : Only W s0 (x1) := only_goOff (sub_trans rfl hW) hs
  try clear_value x1
  refine only_aonOff (sub_trans rfl hW) ?_ _
  exact hx1

theorem only_execRetainExit {W : Nat} {s0 : State} (hW : Sub 0x7ffffffffffffffffffffffffffffffffffffffffffffffffffffffffffffffffffffe W)  {volts : Nat} {s : State} (hs : Only W s0 s) :
    OnlyOut W s0 (execRetainExit volts s) := by
  unfold execRetainExit
  refine only_next ?_
  refine only_ite ?_ ?_
  · exact only_warmReset (sub_trans rfl hW) (only_startEnds (sub_trans rfl hW) hs)
  · exact hs

theorem only_execSelfRefreshEntry {W : Nat} {s0 : State} (hW : Sub 0x40302000000000000000000000000000000000042af0f12da00000000000004003e41e W)  {k : Nat} {s : State} (hs : Only W s0 s) :
    OnlyOut W s0 (execSelfRefreshEntry k s) := by
  unfold execSelfRefreshEntry
  refine onlyOut_ite ?_ ?_
  · exact only_next hs
  · split
    · rename_i e1
      replace e1 := congrArg Prod.snd e1
      dsimp only at e1
      refine only_of_eq (W := W) (s0 := s0) e1 ?_ (fun k2 => ?_)
      · exact only_endFlush (sub_trans rfl hW) hs
      refine only_next ?_
      assumption
    · rename_i e3
      replace e3 := congrArg Prod.snd e3
      dsimp only at e3
      refine only_of_eq (W := W) (s0 := s0) e3 ?_ (fun k4 => ?_)
      · exact only_endFlush (sub_trans rfl hW) hs
      refine only_next ?_
      refine only_selfRefreshEnter (sub_trans rfl hW) ?_
      assumption

theorem only_execSelfRefreshExit {W : Nat} {s0 : State} (hW : Sub 0x200000000000000000000004 W)  {k : Nat} {s : State} (hs : Only W s0 s) :
    OnlyOut W s0 (execSelfRefreshExit k s) := by
  unfold execSelfRefreshExit
  refine only_next ?_
  refine only_ite ?_ ?_
  · exact hs
  · exact only_State_setF (sub_trans rfl hW) hs

end Sys2Proof.Machine
end

