-- ==== Sys2Proof/Laws/KeepStart.lean ====
section
/-! SUPPORT. What the definitions of Machine/Start.lean leave alone: one lemma for each that answers a state. -/
namespace Sys2Proof.Machine

theorem only_execAonStart {W : Nat} {s0 : State} (hW : Sub 0x7ffffffffffffffffffffffffffffffffffffffffffffffffffffffffffffffffffffe W) {s : State} (hs : Only W s0 s) :
    OnlyOut W s0 (execAonStart s) := by
  unfold execAonStart
  refine onlyOut_ite (only_next hs) ?_
  extract_lets +onlyGivenNames -merge -useContext a
  have ha : Only W s0 a := only_aonTb (sub_trans rfl hW) (only_histNext (sub_trans rfl hW) (only_aonOff (sub_trans rfl hW)
    (only_rack (sub_trans rfl hW) (only_regs_filter (sub_trans rfl hW) hs) {}) false) 0) 0
  clear_value a
  exact only_next (only_powerOnReset (sub_trans rfl hW) (only_evlog (sub_trans rfl hW)
    (only_State_setR (sub_trans rfl hW) ha)))

theorem only_warmStart {W : Nat} {s0 : State} (hW : Sub 0x6524000000000000000000024020000000000000000000000000000030180004 W)   {s : State} (hs : Only W s0 s) :
    Only W s0 (warmStart s) := by
  unfold warmStart
  refine only_ite ?_ ?_
  · exact hs
  · exact only_endBegin (sub_trans rfl hW) (only_State_setF (sub_trans rfl hW) (only_startEnds (sub_trans rfl hW) hs))

theorem only_stCtrlWrite {W : Nat} {s0 : State} (hW : Sub 0x7ffffffffffffffffffffffffffffffffffffffffffffffffffffffffffffffffffffe W)  {v : Word} {s : State} (hs : Only W s0 s) :
    Only W s0 (stCtrlWrite v s) := by
  unfold stCtrlWrite
  extract_lets +onlyGivenNames -merge -useContext -underBinder x1
  have hx1 : Only W s0 (x1) := only_State_wr (sub_trans rfl hW) hs
  try clear_value x1
  extract_lets +onlyGivenNames -merge -useContext -underBinder x2
  have hx2 : Only W s0 (x2) := by
    unfold x2
    refine only_ite ?_ ?_
    · exact only_State_setF (sub_trans rfl hW) (only_State_setF (sub_trans rfl hW) hx1)
    · exact hx1
  try clear_value x2
  refine only_ite ?_ ?_
  · exact only_hardReset (sub_trans rfl hW) hx2
  · refine only_ite ?_ ?_
    · exact only_warmStart (sub_trans rfl hW) hx2
    · exact hx2

theorem only_execStartOk {W : Nat} {s0 : State} (hW : Sub 0x7ffffffffffffffffffffffffffffffffffffffffffffffffffffffffffffffffffffe W)  {a : Access} {v : Word} {s : State} (hs : Only W s0 s) :
    OnlyOut W s0 (execStartOk a v s) := by
  unfold execStartOk
  refine only_next ?_
  refine only_guarded (sub_trans rfl hW) ?_ ?_
  · intro y1 hy1
    exact only_stCtrlWrite (sub_trans rfl hW) hy1
  · exact hs

theorem only_execHardResetCmd {W : Nat} {s0 : State} (hW : Sub 0x7ffffffffffffffffffffffffffffffffffffffffffffffffffffffffffffffffffffe W)  {a : Access} {v : Word} {s : State} (hs : Only W s0 s) :
    OnlyOut W s0 (execHardResetCmd a v s) := by
  unfold execHardResetCmd
  refine only_next ?_
  refine only_guarded (sub_trans rfl hW) ?_ ?_
  · intro y1 hy1
    exact only_stCtrlWrite (sub_trans rfl hW) hy1
  · exact hs

theorem only_execWarmResetCmd {W : Nat} {s0 : State} (hW : Sub 0x7ffffffffffffffffffffffffffffffffffffffffffffffffffffffffffffffffffffe W)  {a : Access} {v : Word} {s : State} (hs : Only W s0 s) :
    OnlyOut W s0 (execWarmResetCmd a v s) := by
  unfold execWarmResetCmd
  refine only_next ?_
  refine only_guarded (sub_trans rfl hW) ?_ ?_
  · intro y1 hy1
    exact only_stCtrlWrite (sub_trans rfl hW) hy1
  · exact hs

theorem only_execRstN {W : Nat} {s0 : State} (hW : Sub 0x7ffffffffffffffffffffffffffffffffffffffffffffffffffffffffffffffffffffe W)   {s : State} (hs : Only W s0 s) :
    OnlyOut W s0 (execRstN s) := by
  unfold execRstN
  refine only_next ?_
  refine only_ite ?_ ?_
  · exact hs
  · exact only_hardReset (sub_trans rfl hW) hs

theorem only_execPowerOnReset {W : Nat} {s0 : State} (hW : Sub 0x7ffffffffffffffffffffffffffffffffffffffffffffffffffffffffffffffffffffe W)   {s : State} (hs : Only W s0 s) :
    OnlyOut W s0 (execPowerOnReset s) := by
  unfold execPowerOnReset
  refine only_next ?_
  refine only_ite ?_ ?_
  · exact hs
  · exact only_powerOnReset (sub_trans rfl hW) hs

theorem only_execRailsUp {W : Nat} {s0 : State} (hW : Sub 0x6520000000000000000000000000000000000000400000000000000020480004 W)   {s : State} (hs : Only W s0 s) :
    OnlyOut W s0 (execRailsUp s) := by
  unfold execRailsUp
  refine only_next ?_
  refine only_ite ?_ ?_
  · exact hs
  · exact only_startStep2 (sub_trans rfl hW) hs

theorem only_execDramTraining {W : Nat} {s0 : State} (hW : Sub 0x6400000000000000000000000000000000000000600000000000000020000004 W)  {k : Nat} {c : Nat} {fail : Nat} {wrEye : Nat} {rdEye : Nat} {s : State} (hs : Only W s0 s) :
    OnlyOut W s0 (execDramTraining k c fail wrEye rdEye s) := by
  unfold execDramTraining
  refine onlyOut_ite ?_ ?_
  · exact only_next hs
  · extract_lets +onlyGivenNames -merge -useContext -underBinder x1
    have hx1 : Only W s0 (x1) := only_dramTrain (sub_trans rfl hW) hs
    try clear_value x1
    refine only_next ?_
    refine only_ite ?_ ?_
    · exact only_startFail (sub_trans rfl hW) hx1
    · exact hx1

theorem only_execImageLoad {W : Nat} {s0 : State} (hW : Sub 0x302065000000000000000000000000000000000800f021000000000000006001e41e W)  {readError : Bool} {s : State} (hs : Only W s0 s) :
    OnlyOut W s0 (execImageLoad readError s) := by
  unfold execImageLoad
  refine onlyOut_ite ?_ ?_
  · exact only_next hs
  · extract_lets +onlyGivenNames -merge -useContext -underBinder x1
    extract_lets +onlyGivenNames -merge -useContext -underBinder x2
    refine onlyOut_ite ?_ ?_
    · exact only_next (only_startFail (sub_trans rfl hW) hs)
    · extract_lets +onlyGivenNames -merge -useContext -underBinder x3
      refine onlyOut_ite ?_ ?_
      · exact only_next hs
      · split
        · rename_i e4
          replace e4 := congrArg Prod.snd e4
          dsimp only at e4
          refine only_of_eq (W := W) (s0 := s0) e4 ?_ (fun k5 => ?_)
          · exact only_agentWrite (sub_trans rfl hW) hs
          refine only_next ?_
          extract_lets +onlyGivenNames -merge -useContext -underBinder x6
          have hx6 : Only W s0 (x6) := by
            unfold x6
            refine only_State_setF (sub_trans rfl hW) ?_
            assumption
          try clear_value x6
          refine only_boot (sub_trans rfl hW) ?_ _
          exact hx6

theorem only_imageValid {W : Nat} {s0 : State} (hW : Sub 0x302000000000000000000000000000000000000000f0200000000000000040002016 W)  {ha : Nat} {s : State} (hs : Only W s0 s) :
    Only W s0 (imageValid ha s).2 := by
  unfold imageValid
  extract_lets +onlyGivenNames -merge -useContext -underBinder x1
  split
  · rename_i e2
    replace e2 := congrArg Prod.snd e2
    dsimp only at e2
    refine only_of_eq (W := W) (s0 := s0) e2 ?_ (fun k3 => ?_)
    · exact only_agentRead (sub_trans rfl hW) hs
    refine only_snd_mk ?_
    assumption
  · rename_i e4
    replace e4 := congrArg Prod.snd e4
    dsimp only at e4
    refine only_of_eq (W := W) (s0 := s0) e4 ?_ (fun k5 => ?_)
    · exact only_agentRead (sub_trans rfl hW) hs
    refine only_snd_mk ?_
    assumption

theorem only_execImageCheck {W : Nat} {s0 : State} (hW : Sub 0x302065000000000000000000000000000000000000f0200000000000000060002016 W)   {s : State} (hs : Only W s0 s) :
    OnlyOut W s0 (execImageCheck s) := by
  unfold execImageCheck
  split
  · exact only_next hs
  · refine onlyOut_ite ?_ ?_
    · exact only_next hs
    · refine onlyOut_ite ?_ ?_
      · exact only_next (only_startFail (sub_trans rfl hW) hs)
      · refine onlyOut_ite ?_ ?_
        · exact only_next hs
        · split
          · rename_i e1
            replace e1 := congrArg Prod.snd e1
            dsimp only at e1
            refine only_of_eq (W := W) (s0 := s0) e1 ?_ (fun k2 => ?_)
            · exact only_imageValid (sub_trans rfl hW) hs
            refine only_next ?_
            refine only_startFail (sub_trans rfl hW) ?_
            assumption
          · rename_i e3
            replace e3 := congrArg Prod.snd e3
            dsimp only at e3
            refine only_of_eq (W := W) (s0 := s0) e3 ?_ (fun k4 => ?_)
            · exact only_imageValid (sub_trans rfl hW) hs
            refine only_next ?_
            extract_lets +onlyGivenNames -merge -useContext -underBinder x5
            have hx5 : Only W s0 (x5) := by
              unfold x5
              refine only_State_setF (sub_trans rfl hW) ?_
              assumption
            try clear_value x5
            refine only_boot (sub_trans rfl hW) ?_ _
            exact hx5

theorem only_dieFails {W : Nat} {s0 : State} (hW : Sub 0x10b02010a40000000000000000000000008840042af0f12fbfffe800000020f00ffe5e W)  {n : Nat} {s : State} (hs : Only W s0 s) :
    Only W s0 (dieFails n s) := by
  unfold dieFails
  extract_lets +onlyGivenNames -merge -useContext -underBinder x1
  have hx1 : Only W s0 (x1) := by
    unfold x1
    refine only_ite ?_ ?_
    · exact only_State_setFbit (sub_trans rfl hW) hs
    · exact only_State_setFbit (sub_trans rfl hW) hs
  try clear_value x1
  refine only_ite ?_ ?_
  · exact hx1
  · exact only_dieGone (sub_trans rfl hW) hx1

theorem only_execHartRelease {W : Nat} {s0 : State} (hW : Sub 0x10b1207da40000000000000000000000008840042af0f12fbfffe800000026f00ffe5e W)   {s : State} (hs : Only W s0 s) :
    OnlyOut W s0 (execHartRelease s) := by
  unfold execHartRelease
  refine onlyOut_ite ?_ ?_
  · exact only_next hs
  · extract_lets +onlyGivenNames -merge -useContext -underBinder x1
    extract_lets +onlyGivenNames -merge -useContext -underBinder x2
    refine onlyOut_ite ?_ ?_
    · exact only_next hs
    · extract_lets +onlyGivenNames -merge -useContext -underBinder x3
      have hx3 : Only W s0 (x3) := by
        unfold x3
        refine only_foldl (fun t x ht => ?_) ?_
        · refine only_dieFails (sub_trans rfl hW) ?_
          assumption
        · exact hs
      try clear_value x3
      extract_lets +onlyGivenNames -merge -useContext -underBinder x4
      have hx4 : Only W s0 (x4) := by
        unfold x4
        refine only_ite ?_ ?_
        · exact hx3
        · exact only_evlog (sub_trans rfl hW) hx3
      try clear_value x4
      refine onlyOut_ite ?_ ?_
      · exact only_next (only_startFail (sub_trans rfl hW) hx4)
      · extract_lets +onlyGivenNames -merge -useContext -underBinder x5
        have hx5 : Only W s0 (x5) := only_State_setR (sub_trans rfl hW) hx4
        try clear_value x5
        extract_lets +onlyGivenNames -merge -useContext -underBinder x6
        have hx6 : Only W s0 (x6) := by
          unfold x6
          refine only_foldl (fun t x ht => ?_) ?_
          · extract_lets +onlyGivenNames -merge -useContext -underBinder x7
            have hx7 : Only W s0 (x7) := by
              unfold x7
              refine only_applyRetire (sub_trans rfl hW) ?_
              assumption
            try clear_value x7
            refine only_ite ?_ ?_
            · exact hx7
            · exact only_dieRelease (sub_trans rfl hW) hx7
          · exact hx5
        try clear_value x6
        extract_lets +onlyGivenNames -merge -useContext -underBinder x8
        refine only_next ?_
        extract_lets +onlyGivenNames -merge -useContext -underBinder x9
        have hx9 : Only W s0 (x9) := only_State_setF (sub_trans rfl hW) (only_State_setF (sub_trans rfl hW) hx6)
        try clear_value x9
        refine only_boot (sub_trans rfl hW) ?_ _
        exact hx9

theorem only_execBootWatchdog {W : Nat} {s0 : State} (hW : Sub 0x6400000000000000000000000000000000000000000000000000000020000004 W)   {s : State} (hs : Only W s0 s) :
    OnlyOut W s0 (execBootWatchdog s) := by
  unfold execBootWatchdog
  extract_lets +onlyGivenNames -merge -useContext -underBinder x1
  refine only_next ?_
  refine only_ite ?_ ?_
  · exact only_startFail (sub_trans rfl hW) hs
  · exact hs

theorem only_execStartRetry {W : Nat} {s0 : State} (hW : Sub 0x7ffffffffffffffffffffffffffffffffffffffffffffffffffffffffffffffffffffe W)  {fallback : Bool} {s : State} (hs : Only W s0 s) :
    OnlyOut W s0 (execStartRetry fallback s) := by
  unfold execStartRetry
  refine onlyOut_ite ?_ ?_
  · exact only_next hs
  · refine only_next ?_
    refine only_hardReset (sub_trans rfl hW) ?_
    refine only_ite ?_ ?_
    · exact only_State_setB (sub_trans rfl hW) hs
    · exact hs

theorem only_lanActive {W : Nat} {s0 : State} (hW : Sub 0x8000000000000000000000000000000000000000000000000000000000000004 W)  {b : Bool} {s : State} (hs : Only W s0 s) :
    Only W s0 (lanActive b s) := by
  unfold lanActive
  exact only_State_setF (sub_trans rfl hW) (only_State_setF (sub_lan rfl hW) hs)

theorem only_lanFail {W : Nat} {s0 : State} (hW : Sub 0xe000000000000000000000000000000000000000000000000000000000000004 W)  {b : Bool} {s : State} (hs : Only W s0 s) :
    Only W s0 (lanFail b s) := by
  unfold lanFail
  exact only_evlog (sub_trans rfl hW) (only_State_setF (sub_lan rfl hW) hs)

theorem only_execLanternSelfTest {W : Nat} {s0 : State} (hW : Sub 0xe000000000000000000000000000000000000000000000000000000000000004 W)  {aPass : Bool} {bPass : Bool} {s : State} (hs : Only W s0 s) :
    OnlyOut W s0 (execLanternSelfTest aPass bPass s) := by
  unfold execLanternSelfTest
  refine onlyOut_ite ?_ ?_
  · exact only_next hs
  · extract_lets +onlyGivenNames -merge -useContext -underBinder x1
    have hx1 : Only W s0 (x1) := by
      unfold x1
      refine only_ite ?_ ?_
      · exact only_lanActive (sub_trans rfl hW) hs
      · exact only_lanFail (sub_trans rfl hW) hs
    try clear_value x1
    refine only_next ?_
    refine only_ite ?_ ?_
    · exact only_lanFail (sub_trans rfl hW) hx1
    · refine only_ite ?_ ?_
      · exact only_State_setF (sub_lan rfl hW) hx1
      · exact only_lanActive (sub_trans rfl hW) hx1

theorem only_execHeartbeat {W : Nat} {s0 : State} (hW : Sub 0x8000000000000000000000000000000000000000000000000000000020000004 W)  {b : Bool} {s : State} (hs : Only W s0 s) :
    OnlyOut W s0 (execHeartbeat b s) := by
  unfold execHeartbeat
  extract_lets +onlyGivenNames -merge -useContext -underBinder x1
  refine onlyOut_ite ?_ ?_
  · exact only_next hs
  · extract_lets +onlyGivenNames -merge -useContext -underBinder x2
    extract_lets +onlyGivenNames -merge -useContext -underBinder x3 x4 x5
    try clear_value x3
    try clear_value x4
    have hx5 : Only W s0 (x5) := by
      unfold x5
      refine only_rack (sub_trans rfl hW) ?_ _
      exact hs
    try clear_value x5
    extract_lets +onlyGivenNames -merge -useContext -underBinder x6
    refine onlyOut_ite ?_ ?_
    · refine only_next ?_
      refine only_ite ?_ ?_
      · exact only_lanActive (sub_trans rfl hW) hx5
      · exact only_State_setF (sub_lan rfl hW) hx5
    · exact only_next hx5

theorem only_execLanternFailed {W : Nat} {s0 : State} (hW : Sub 0xe000000000000000000000000000000000000000000000000000000020000004 W)  {b : Bool} {s : State} (hs : Only W s0 s) :
    OnlyOut W s0 (execLanternFailed b s) := by
  unfold execLanternFailed
  extract_lets +onlyGivenNames -merge -useContext -underBinder x1
  refine onlyOut_ite ?_ ?_
  · exact only_next hs
  · extract_lets +onlyGivenNames -merge -useContext -underBinder x2
    have hx2 : Only W s0 (x2) := only_lanFail (sub_trans rfl hW) hs
    try clear_value x2
    refine onlyOut_ite ?_ ?_
    · exact only_next hx2
    · refine onlyOut_ite ?_ ?_
      · extract_lets +onlyGivenNames -merge -useContext -underBinder x3
        have hx3 : Only W s0 (x3) := only_State_satInc (sub_trans rfl hW) (only_lanActive (sub_trans rfl hW) hx2)
        try clear_value x3
        extract_lets +onlyGivenNames -merge -useContext -underBinder x4 x5
        try clear_value x4
        have hx5 : Only W s0 (x5) := by
          unfold x5
          refine only_boot (sub_trans rfl hW) ?_ _
          exact hx3
        try clear_value x5
        exact only_next (only_inBand (sub_trans rfl hW) (only_evlog (sub_trans rfl hW) hx5))
      · exact only_next (only_State_setF (sub_trans rfl hW) hx2)

theorem only_execLanternRestart {W : Nat} {s0 : State} (hW : Sub 0xe000000000000000000000000000000000000000000000000000000020000004 W)  {b : Bool} {s : State} (hs : Only W s0 s) :
    OnlyOut W s0 (execLanternRestart b s) := by
  unfold execLanternRestart
  refine onlyOut_ite ?_ ?_
  · exact only_next hs
  · extract_lets +onlyGivenNames -merge -useContext -underBinder x1
    have hx1 : Only W s0 (x1) := only_State_setF (sub_lan rfl hW) (only_State_setF (sub_lan rfl hW) hs)
    try clear_value x1
    extract_lets +onlyGivenNames -merge -useContext -underBinder x2 x3 x4
    try clear_value x2
    try clear_value x3
    have hx4 : Only W s0 (x4) := by
      unfold x4
      refine only_rack (sub_trans rfl hW) ?_ _
      exact hx1
    try clear_value x4
    exact only_next (only_evlog (sub_trans rfl hW) hx4)

theorem only_lanExec {W : Nat} {s0 : State} (hW : Sub 0x7ffffffffffffffffffffffffffffffffffffffffffffffffffffffffffffffffffffe W)  {code : Nat} {lmb : Bool} {n : Nat} {d : Nat} {s : State} (hs : Only W s0 s) :
    Only W s0 (lanExec code lmb n d s).2 := by
  unfold lanExec
  extract_lets +onlyGivenNames -merge -useContext -underBinder x1
  refine only_ite_snd ?_ ?_
  · exact only_snd_mk hs
  · split
    · exact only_snd_mk hs
    · extract_lets +onlyGivenNames -merge -useContext -underBinder x2
      refine only_ite_snd ?_ ?_
      · exact only_snd_mk hs
      · exact only_snd_mk hs
    · exact only_snd_mk hs
    · extract_lets +onlyGivenNames -merge -useContext -underBinder x3
      refine only_ite_snd ?_ ?_
      · exact only_snd_mk hs
      · refine only_ite_snd ?_ ?_
        · exact only_snd_mk hs
        · exact only_snd_mk (only_bufWrite (sub_trans rfl hW) hs)
    · refine only_ite_snd ?_ ?_
      · exact only_snd_mk hs
      · exact only_snd_mk (only_mbDoorbell (sub_trans rfl hW) (only_State_setF (sub_trans rfl hW) hs))
    · exact only_snd_mk hs
    · extract_lets +onlyGivenNames -merge -useContext -underBinder x4
      extract_lets +onlyGivenNames -merge -useContext -underBinder x5
      extract_lets +onlyGivenNames -merge -useContext -underBinder x6
      refine only_snd_mk ?_
      refine only_ite ?_ ?_
      · exact only_State_setB (sub_trans rfl hW) hs
      · exact hs
    · refine only_ite_snd ?_ ?_
      · exact only_snd_mk (only_powerOnReset (sub_trans rfl hW) hs)
      · exact only_snd_mk hs
    · refine only_ite_snd ?_ ?_
      · exact only_snd_mk hs
      · exact only_snd_mk (only_warmStart (sub_trans rfl hW) hs)
    · extract_lets +onlyGivenNames -merge -useContext -underBinder x7
      extract_lets +onlyGivenNames -merge -useContext -underBinder x8
      refine only_ite_snd ?_ ?_
      · exact only_snd_mk hs
      · exact only_snd_mk hs
    · extract_lets +onlyGivenNames -merge -useContext -underBinder x9
      refine only_ite_snd ?_ ?_
      · exact only_snd_mk hs
      · refine only_ite_snd ?_ ?_
        · exact only_snd_mk hs
        · refine only_snd_mk ?_
          refine only_flashOp (sub_trans rfl hW) ?_ _
          exact hs
    · extract_lets +onlyGivenNames -merge -useContext -underBinder x10
      extract_lets +onlyGivenNames -merge -useContext -underBinder x11
      refine only_ite_snd ?_ ?_
      · exact only_snd_mk hs
      · refine only_ite_snd ?_ ?_
        · exact only_snd_mk hs
        · refine only_snd_mk ?_
          refine only_flashOp (sub_trans rfl hW) ?_ _
          exact hs
    · exact only_snd_mk hs

theorem only_rackRun {W : Nat} {s0 : State} (hW : Sub 0x7ffffffffffffffffffffffffffffffffffffffffffffffffffffffffffffffffffffe W)  {pecOk : Bool} {code : Nat} {n : Nat} {d : Nat} {s : State} (hs : Only W s0 s) :
    Only W s0 (rackRun pecOk code n d s) := by
  unfold rackRun
  refine only_ite ?_ ?_
  · exact hs
  · refine only_ite ?_ ?_
    · exact only_State_satInc (sub_trans rfl hW) hs
    · split
      · rename_i e1
        replace e1 := congrArg Prod.snd e1
        dsimp only at e1
        refine only_of_eq (W := W) (s0 := s0) e1 ?_ (fun k2 => ?_)
        · exact only_lanExec (sub_trans rfl hW) hs
        refine only_rack (sub_trans rfl hW) ?_ _
        assumption

theorem only_execGetStart {W : Nat} {s0 : State} (hW : Sub 0x7ffffffffffffffffffffffffffffffffffffffffffffffffffffffffffffffffffffe W)  {pecOk : Bool} {s : State} (hs : Only W s0 s) :
    OnlyOut W s0 (execGetStart pecOk s) := by
  unfold execGetStart
  exact only_next (only_rackRun (sub_trans rfl hW) hs)

theorem only_execGetEvlog {W : Nat} {s0 : State} (hW : Sub 0x7ffffffffffffffffffffffffffffffffffffffffffffffffffffffffffffffffffffe W)  {pecOk : Bool} {index : Nat} {s : State} (hs : Only W s0 s) :
    OnlyOut W s0 (execGetEvlog pecOk index s) := by
  unfold execGetEvlog
  exact only_next (only_rackRun (sub_trans rfl hW) hs)

theorem only_execGetResult {W : Nat} {s0 : State} (hW : Sub 0x7ffffffffffffffffffffffffffffffffffffffffffffffffffffffffffffffffffffe W)  {pecOk : Bool} {s : State} (hs : Only W s0 s) :
    OnlyOut W s0 (execGetResult pecOk s) := by
  unfold execGetResult
  exact only_next (only_rackRun (sub_trans rfl hW) hs)

theorem only_execMbWrite {W : Nat} {s0 : State} (hW : Sub 0x7ffffffffffffffffffffffffffffffffffffffffffffffffffffffffffffffffffffe W)  {pecOk : Bool} {off : Nat} {n : Nat} {data : Nat} {s : State} (hs : Only W s0 s) :
    OnlyOut W s0 (execMbWrite pecOk off n data s) := by
  unfold execMbWrite
  exact only_next (only_rackRun (sub_trans rfl hW) hs)

theorem only_execMbRing {W : Nat} {s0 : State} (hW : Sub 0x7ffffffffffffffffffffffffffffffffffffffffffffffffffffffffffffffffffffe W)  {pecOk : Bool} {len : Nat} {s : State} (hs : Only W s0 s) :
    OnlyOut W s0 (execMbRing pecOk len s) := by
  unfold execMbRing
  exact only_next (only_rackRun (sub_trans rfl hW) hs)

theorem only_execMbStatus {W : Nat} {s0 : State} (hW : Sub 0x7ffffffffffffffffffffffffffffffffffffffffffffffffffffffffffffffffffffe W)  {pecOk : Bool} {s : State} (hs : Only W s0 s) :
    OnlyOut W s0 (execMbStatus pecOk s) := by
  unfold execMbStatus
  exact only_next (only_rackRun (sub_trans rfl hW) hs)

theorem only_execMbRead {W : Nat} {s0 : State} (hW : Sub 0x7ffffffffffffffffffffffffffffffffffffffffffffffffffffffffffffffffffffe W)  {pecOk : Bool} {off : Nat} {s : State} (hs : Only W s0 s) :
    OnlyOut W s0 (execMbRead pecOk off s) := by
  unfold execMbRead
  exact only_next (only_rackRun (sub_trans rfl hW) hs)

theorem only_execWake {W : Nat} {s0 : State} (hW : Sub 0x7ffffffffffffffffffffffffffffffffffffffffffffffffffffffffffffffffffffe W)  {pecOk : Bool} {s : State} (hs : Only W s0 s) :
    OnlyOut W s0 (execWake pecOk s) := by
  unfold execWake
  exact only_next (only_rackRun (sub_trans rfl hW) hs)

theorem only_execWarm {W : Nat} {s0 : State} (hW : Sub 0x7ffffffffffffffffffffffffffffffffffffffffffffffffffffffffffffffffffffe W)  {pecOk : Bool} {s : State} (hs : Only W s0 s) :
    OnlyOut W s0 (execWarm pecOk s) := by
  unfold execWarm
  exact only_next (only_rackRun (sub_trans rfl hW) hs)

theorem only_execFlashRead {W : Nat} {s0 : State} (hW : Sub 0x7ffffffffffffffffffffffffffffffffffffffffffffffffffffffffffffffffffffe W)  {pecOk : Bool} {addr : Nat} {n : Nat} {s : State} (hs : Only W s0 s) :
    OnlyOut W s0 (execFlashRead pecOk addr n s) := by
  unfold execFlashRead
  exact only_next (only_rackRun (sub_trans rfl hW) hs)

theorem only_execFlashErase {W : Nat} {s0 : State} (hW : Sub 0x7ffffffffffffffffffffffffffffffffffffffffffffffffffffffffffffffffffffe W)  {pecOk : Bool} {addr : Nat} {s : State} (hs : Only W s0 s) :
    OnlyOut W s0 (execFlashErase pecOk addr s) := by
  unfold execFlashErase
  exact only_next (only_rackRun (sub_trans rfl hW) hs)

theorem only_execFlashWrite {W : Nat} {s0 : State} (hW : Sub 0x7ffffffffffffffffffffffffffffffffffffffffffffffffffffffffffffffffffffe W)  {pecOk : Bool} {addr : Nat} {n : Nat} {data : Nat} {s : State} (hs : Only W s0 s) :
    OnlyOut W s0 (execFlashWrite pecOk addr n data s) := by
  unfold execFlashWrite
  exact only_next (only_rackRun (sub_trans rfl hW) hs)

theorem only_flashPut {W : Nat} {s0 : State} (hW : Sub 0x20000000 W) {n a v : Nat} {s : State}
    (hs : Only W s0 s) : Only W s0 (flashPut n a v s) := by
  induction n generalizing a v s with
  | zero => exact hs
  | succ n ih => exact ih (only_flash hW hs _)

theorem only_lmbEnd {W : Nat} {s0 : State} (hW : Sub 0xc0000000000000000000000000000000000000000000000000000000000000004 W)  {x : LanAns} {s : State} (hs : Only W s0 s) :
    Only W s0 (lmbEnd x s) := by
  unfold lmbEnd
  extract_lets +onlyGivenNames -merge -useContext -underBinder x1
  have hx1 : Only W s0 (x1) := by
    unfold x1
    refine only_iter (fun x t ht => ?_) ?_
    · refine only_ite ?_ ?_
      · assumption
      · extract_lets +onlyGivenNames -merge -useContext -underBinder x2
        extract_lets +onlyGivenNames -merge -useContext -underBinder x3
        refine only_State_setR (sub_trans rfl hW) ?_
        assumption
    · exact hs
  try clear_value x1
  refine only_State_setB (sub_trans rfl hW) ?_
  refine only_State_setB (sub_trans rfl hW) ?_
  exact only_State_setF (sub_trans rfl hW) (only_State_setF (sub_trans rfl hW) hx1)

theorem only_lmbCtrlWrite {W : Nat} {s0 : State} (hW : Sub 0x7ffffffffffffffffffffffffffffffffffffffffffffffffffffffffffffffffffffe W)  {v : Word} {s : State} (hs : Only W s0 s) :
    Only W s0 (lmbCtrlWrite v s) := by
  unfold lmbCtrlWrite
  extract_lets +onlyGivenNames -merge -useContext -underBinder x1
  have hx1 : Only W s0 (x1) := only_State_wr (sub_trans rfl hW) hs
  try clear_value x1
  refine only_ite ?_ ?_
  · extract_lets +onlyGivenNames -merge -useContext -underBinder x2
    extract_lets +onlyGivenNames -merge -useContext -underBinder x3
    split
    · rename_i e4
      replace e4 := congrArg Prod.snd e4
      dsimp only at e4
      refine only_of_eq (W := W) (s0 := s0) e4 ?_ (fun k5 => ?_)
      · exact only_lanExec (sub_trans rfl hW) hx1
      refine only_ite ?_ ?_
      · refine only_State_setB (sub_trans rfl hW) ?_
        refine only_State_setB (sub_trans rfl hW) ?_
        assumption
      · refine only_lmbEnd (sub_trans rfl hW) ?_
        assumption
  · exact hx1

theorem only_execFlashOpDone {W : Nat} {s0 : State} (hW : Sub 0xc0000000000000000000000000000000000000000000000000000000020000006 W)  {ok : Bool} {s : State} (hs : Only W s0 s) :
    OnlyOut W s0 (execFlashOpDone ok s) := by
  unfold execFlashOpDone
  split
  · exact only_next hs
  · extract_lets +onlyGivenNames -merge -useContext -underBinder x1
    have hx1 : Only W s0 (x1) := by
      unfold x1
      refine only_flashOp (sub_trans rfl hW) ?_ _
      exact hs
    try clear_value x1
    extract_lets +onlyGivenNames -merge -useContext -underBinder x2
    extract_lets +onlyGivenNames -merge -useContext -underBinder x3
    have hx3 : Only W s0 (x3) := only_State_bump (sub_trans rfl hW) hx1
    try clear_value x3
    extract_lets +onlyGivenNames -merge -useContext -underBinder x4
    have hx4 : Only W s0 (x4) := by
      unfold x4
      refine only_ite ?_ ?_
      · exact hx3
      · refine only_ite ?_ ?_
        · refine only_flash (sub_trans rfl hW) ?_ _
          exact hx3
        · exact only_flashPut (sub_trans rfl hW) hx3
    try clear_value x4
    extract_lets +onlyGivenNames -merge -useContext -underBinder x5
    refine only_next ?_
    refine only_ite ?_ ?_
    · exact only_lmbEnd (sub_trans rfl hW) hx4
    · refine only_rack (sub_trans rfl hW) ?_ _
      exact hx4

theorem only_execDynamicAddressAssignment {W : Nat} {s0 : State} (hW : Sub 0x20000000 W)  {addr : Nat} {s : State} (hs : Only W s0 s) :
    OnlyOut W s0 (execDynamicAddressAssignment addr s) := by
  unfold execDynamicAddressAssignment
  refine only_next ?_
  refine only_ite ?_ ?_
  · exact hs
  · refine only_rack (sub_trans rfl hW) ?_ _
    exact hs

end Sys2Proof.Machine
end

