-- ==== Sys2Proof/Laws/KeepIommu.lean ====
section
/-! SUPPORT. What the definitions of Machine/Iommu.lean leave alone: one lemma for each that answers a state. -/
namespace Sys2Proof.Machine

theorem only_iommuSet {W : Nat} {s0 : State} (hW : Sub 0x1000000 W)  {off : Nat} {v : Nat} {s : State} (hs : Only W s0 s) :
    Only W s0 (iommuSet off v s) := by
  unfold iommuSet
  refine only_iommu (sub_trans rfl hW) ?_ _
  exact hs

theorem only_iommuIrq {W : Nat} {s0 : State} (hW : Sub 0x1000008 W)  {i : Nat} {s : State} (hs : Only W s0 s) :
    Only W s0 (iommuIrq i s) := by
  unfold iommuIrq
  refine only_ite ?_ ?_
  · exact hs
  · extract_lets +onlyGivenNames -merge -useContext -underBinder x1
    have hx1 : Only W s0 (x1) := only_iommuSet (sub_trans rfl hW) hs
    try clear_value x1
    extract_lets +onlyGivenNames -merge -useContext -underBinder x2
    extract_lets +onlyGivenNames -merge -useContext -underBinder x3
    refine only_ite ?_ ?_
    · exact hx1
    · split
      · exact only_State_send (sub_trans rfl hW) hx1
      · exact hx1

theorem only_csrBits {W : Nat} {s0 : State} (hW : Sub 0x1000000 W)  {off : Nat} {x : Nat} {s : State} (hs : Only W s0 s) :
    Only W s0 (csrBits off x s) := by
  unfold csrBits
  exact only_iommuSet (sub_trans rfl hW) hs

theorem only_iommuLogOne {W : Nat} {s0 : State} (hW : Sub 0x302000000000000000000000000000000000000800f021000000000000004101e41e W)  {f : IommuFault} {s : State} (hs : Only W s0 s) :
    Only W s0 (iommuLogOne f s) := by
  unfold iommuLogOne
  extract_lets +onlyGivenNames -merge -useContext -underBinder x1
  refine only_ite ?_ ?_
  · exact hs
  · extract_lets +onlyGivenNames -merge -useContext -underBinder x2
    extract_lets +onlyGivenNames -merge -useContext -underBinder x3
    extract_lets +onlyGivenNames -merge -useContext -underBinder x4
    have hx4 : ∀ y0, Only W s0 (y0) → Only W s0 (x4 y0) := by
      unfold x4
      intro y5 hy5
      refine only_ite ?_ ?_
      · exact only_iommuIrq (sub_trans rfl hW) hy5
      · exact hy5
    try clear_value x4
    refine only_ite ?_ ?_
    · exact hx4 _ (only_csrBits (sub_trans rfl hW) hs)
    · extract_lets +onlyGivenNames -merge -useContext -underBinder x6
      split
      · rename_i e7
        replace e7 := congrArg Prod.snd e7
        dsimp only at e7
        refine only_of_eq (W := W) (s0 := s0) e7 ?_ (fun k8 => ?_)
        · exact only_agentWrite (sub_trans rfl hW) hs
        refine only_ite ?_ ?_
        · refine hx4 _ ?_
          refine only_iommuSet (sub_trans rfl hW) ?_
          assumption
        · refine hx4 _ ?_
          refine only_csrBits (sub_trans rfl hW) ?_
          assumption

theorem only_iommuLog {W : Nat} {s0 : State} (hW : Sub 0x302000000000000000000000000000000000000800f021000000000000004101e41e W)   {s : State} (hs : Only W s0 s) :
    Only W s0 (iommuLog s) := by
  unfold iommuLog
  refine only_foldl (fun t x ht => ?_) ?_
  · refine only_ite ?_ ?_
    · assumption
    · refine only_iommuLogOne (sub_trans rfl hW) ?_
      refine only_iommuFlt (sub_trans rfl hW) ?_ _
      assumption
  · exact hs

theorem only_cmdStop {W : Nat} {s0 : State} (hW : Sub 0x1000008 W)  {x : Nat} {s : State} (hs : Only W s0 s) :
    Only W s0 (cmdStop x s) := by
  unfold cmdStop
  extract_lets +onlyGivenNames -merge -useContext -underBinder x1
  have hx1 : Only W s0 (x1) := only_csrBits (sub_trans rfl hW) hs
  try clear_value x1
  refine only_ite ?_ ?_
  · exact only_iommuIrq (sub_trans rfl hW) hx1
  · exact hx1

theorem only_iommuStep {W : Nat} {s0 : State} (hW : Sub 0x302000000000000000000000000000000000000800f021000000000000004101e41e W)   {s : State} (hs : Only W s0 s) :
    Only W s0 (iommuStep s) := by
  unfold iommuStep
  extract_lets +onlyGivenNames -merge -useContext -underBinder x1
  extract_lets +onlyGivenNames -merge -useContext -underBinder x2
  refine only_ite ?_ ?_
  · exact hs
  · extract_lets +onlyGivenNames -merge -useContext -underBinder x3
    have hx3 : ∀ y0, Only W s0 (y0) → Only W s0 (x3 y0) := by
      unfold x3
      intro y4 hy4
      exact only_iommuSet (sub_trans rfl hW) hy4
    try clear_value x3
    split
    · rename_i e5
      replace e5 := congrArg Prod.snd e5
      dsimp only at e5
      refine only_of_eq (W := W) (s0 := s0) e5 ?_ (fun k6 => ?_)
      · exact only_agentRead (sub_trans rfl hW) hs
      refine only_cmdStop (sub_trans rfl hW) ?_
      assumption
    · rename_i e7
      replace e7 := congrArg Prod.snd e7
      dsimp only at e7
      refine only_of_eq (W := W) (s0 := s0) e7 ?_ (fun k8 => ?_)
      · exact only_agentRead (sub_trans rfl hW) hs
      extract_lets +onlyGivenNames -merge -useContext -underBinder x9
      extract_lets +onlyGivenNames -merge -useContext -underBinder x10
      refine only_ite ?_ ?_
      · refine hx3 _ ?_
        assumption
      · refine only_ite ?_ ?_
        · refine only_ite ?_ ?_
          · refine only_ite ?_ ?_
            · assumption
            · split
              · rename_i e11
                replace e11 := congrArg Prod.snd e11
                dsimp only at e11
                refine only_of_eq (W := W) (s0 := s0) e11 ?_ (fun k12 => ?_)
                · refine only_agentWrite (sub_trans rfl hW) ?_
                  assumption
                refine hx3 _ ?_
                assumption
              · rename_i e13
                replace e13 := congrArg Prod.snd e13
                dsimp only at e13
                refine only_of_eq (W := W) (s0 := s0) e13 ?_ (fun k14 => ?_)
                · refine only_agentWrite (sub_trans rfl hW) ?_
                  assumption
                refine only_cmdStop (sub_trans rfl hW) ?_
                assumption
          · refine hx3 _ ?_
            assumption
        · refine only_cmdStop (sub_trans rfl hW) ?_
          assumption

theorem only_execIommuCommand {W : Nat} {s0 : State} (hW : Sub 0x302000000000000000000000000000000000000800f021000000000000004101e41e W)   {s : State} (hs : Only W s0 s) :
    OnlyOut W s0 (execIommuCommand s) := by
  unfold execIommuCommand
  exact only_next (only_iommuStep (sub_trans rfl hW) (only_iommuLog (sub_trans rfl hW) hs))

theorem only_queueCsr {W : Nat} {s0 : State} (hW : Sub 0x1000000 W)  {off : Nat} {idx : Nat} {errs : Nat} {v : Nat} {s : State} (hs : Only W s0 s) :
    Only W s0 (queueCsr off idx errs v s) := by
  unfold queueCsr
  extract_lets +onlyGivenNames -merge -useContext -underBinder x1
  extract_lets +onlyGivenNames -merge -useContext -underBinder x2
  extract_lets +onlyGivenNames -merge -useContext -underBinder x3
  have hx3 : Only W s0 (x3) := by
    unfold x3
    refine only_ite ?_ ?_
    · exact only_iommuSet (sub_trans rfl hW) hs
    · exact hs
  try clear_value x3
  exact only_iommuSet (sub_trans rfl hW) hx3

theorem only_iommuWrite {W : Nat} {s0 : State} (hW : Sub 0x1000000 W)  {off : Nat} {v : Nat} {s : State} (hs : Only W s0 s) :
    Only W s0 (iommuWrite off v s) := by
  unfold iommuWrite
  refine only_ite ?_ ?_
  · exact only_iommuSet (sub_trans rfl hW) hs
  · refine only_ite ?_ ?_
    · exact only_iommuSet (sub_trans rfl hW) hs
    · refine only_ite ?_ ?_
      · exact only_iommuSet (sub_trans rfl hW) hs
      · refine only_ite ?_ ?_
        · exact only_iommuSet (sub_trans rfl hW) hs
        · refine only_ite ?_ ?_
          · exact only_iommuSet (sub_trans rfl hW) hs
          · refine only_ite ?_ ?_
            · exact only_queueCsr (sub_trans rfl hW) hs
            · refine only_ite ?_ ?_
              · exact only_queueCsr (sub_trans rfl hW) hs
              · refine only_ite ?_ ?_
                · exact only_iommuSet (sub_trans rfl hW) hs
                · refine only_ite ?_ ?_
                  · exact only_iommuSet (sub_trans rfl hW) hs
                  · refine only_ite ?_ ?_
                    · exact only_iommuSet (sub_trans rfl hW) hs
                    · exact hs

end Sys2Proof.Machine
end

