-- ==== Sys2Proof/Laws/KeepPartitions.lean ====
section
/-! SUPPORT. What the definitions of Machine/Partitions.lean leave alone: one lemma for each that answers a state. -/
namespace Sys2Proof.Machine

theorem only_guestClear {W : Nat} {s0 : State} (hW : Sub 0x400 W)  {ha : Nat} {s : State} (hs : Only W s0 s) :
    Only W s0 (guestClear ha s) := by
  unfold guestClear
  exact only_State_onHart (sub_trans rfl hW) hs

theorem only_hartRenew {W : Nat} {s0 : State} (hW : Sub 0x8000000000000100000000000000000008000000000008000000009081060c W)  {ha : Nat} {s : State} (hs : Only W s0 s) :
    Only W s0 (hartRenew ha s) := by
  unfold hartRenew
  refine only_ite ?_ ?_
  · exact hs
  · extract_lets +onlyGivenNames -merge -useContext -underBinder x1
    extract_lets +onlyGivenNames -merge -useContext -underBinder x2
    have hx2 : Only W s0 (x2) := only_gateEnd (sub_trans rfl hW) hs
    try clear_value x2
    extract_lets +onlyGivenNames -merge -useContext -underBinder x3
    have hx3 : Only W s0 (x3) := only_l2EvictAll (sub_trans rfl hW) hx2
    try clear_value x3
    extract_lets +onlyGivenNames -merge -useContext -underBinder x4
    have hx4 : Only W s0 (x4) := by
      unfold x4
      refine only_l1d_l1i (sub_trans rfl hW) ?_ _ _
      exact hx3
    try clear_value x4
    extract_lets +onlyGivenNames -merge -useContext -underBinder x5
    extract_lets +onlyGivenNames -merge -useContext -underBinder x6
    have hx6 : Only W s0 (x6) := only_tsCancelAll (sub_trans rfl hW) hx4
    try clear_value x6
    extract_lets +onlyGivenNames -merge -useContext -underBinder x7
    have hx7 : Only W s0 (x7) := by
      unfold x7
      refine only_ite ?_ ?_
      · exact only_hartClear (sub_trans rfl hW) hx6
      · exact only_hartRestart (sub_trans rfl hW) hx6
    try clear_value x7
    extract_lets +onlyGivenNames -merge -useContext -underBinder x8
    have hx8 : Only W s0 (x8) := only_State_onHart (sub_trans rfl hW) hx7
    try clear_value x8
    extract_lets +onlyGivenNames -merge -useContext -underBinder x9
    have hx9 : Only W s0 (x9) := only_State_setB (sub_trans rfl hW) hx8
    try clear_value x9
    split
    · refine only_guestClear (sub_trans rfl hW) ?_
      refine only_hartNew (sub_trans rfl hW) ?_ _
      exact only_State_setF (sub_trans rfl hW) hx9
    · exact hx9

theorem only_pqHartWrite {W : Nat} {s0 : State} (hW : Sub 0x8000000000002100000000000000000008000000000008000000009081060c W)  {a : Access} {ha : Nat} {v : Word} {s : State} (hs : Only W s0 s) :
    Only W s0 (pqHartWrite a ha v s) := by
  unfold pqHartWrite
  extract_lets +onlyGivenNames -merge -useContext -underBinder x1
  refine only_ite ?_ ?_
  · exact only_pqErr (sub_trans rfl hW) hs
  · extract_lets +onlyGivenNames -merge -useContext -underBinder x2
    have hx2 : Only W s0 (x2) := only_State_setB (sub_trans rfl hW) hs
    try clear_value x2
    refine only_hartRenew (sub_trans rfl hW) ?_
    refine only_hartNew (sub_trans rfl hW) ?_ _
    exact hx2

theorem only_execHartReassign {W : Nat} {s0 : State} (hW : Sub 0x800000000000e100000700000000000008000000000008000000009081062c W)  {a : Access} {ha : Nat} {v : Word} {s : State} (hs : Only W s0 s) :
    OnlyOut W s0 (execHartReassign a ha v s) := by
  unfold execHartReassign
  refine only_next ?_
  refine only_ite ?_ ?_
  · refine only_guarded (sub_trans rfl hW) ?_ ?_
    · intro y1 hy1
      exact only_pqHartWrite (sub_trans rfl hW) hy1
    · exact hs
  · exact hs

theorem only_blockReset {W : Nat} {s0 : State} (hW : Sub 0x48000000000084 W)  {b : Nat} {s : State} (hs : Only W s0 s) :
    Only W s0 (blockReset b s) := by
  unfold blockReset
  extract_lets +onlyGivenNames -merge -useContext -underBinder x1
  have hx1 : Only W s0 (x1) := by
    unfold x1
    refine only_ite ?_ ?_
    · exact hs
    · refine only_setCancelBusy (sub_trans rfl hW) ?_
      refine only_State_setB (sub_trans rfl hW) ?_
      refine only_cancelQ (sub_trans rfl hW) ?_ _
      exact hs
  try clear_value x1
  refine only_cancelReopen (sub_trans rfl hW) ?_ _
  exact hx1

theorem only_vfQuiet {W : Nat} {s0 : State} (hW : Sub 0x208000000000022402000000008000000000000000000000210100c W)  {p : Nat} {s : State} (hs : Only W s0 s) :
    Only W s0 (vfQuiet p s) := by
  unfold vfQuiet
  refine only_ite ?_ ?_
  · extract_lets +onlyGivenNames -merge -useContext -underBinder x1
    extract_lets +onlyGivenNames -merge -useContext -underBinder x2
    exact only_fnClear (sub_trans rfl hW) (only_fnQuiesce (sub_trans rfl hW) hs)
  · exact hs

theorem only_partBegin {W : Nat} {s0 : State} (hW : Sub 0x8000000208000910000022402000000008000000020208804800009291178e W)  {p : Nat} {s : State} (hs : Only W s0 s) :
    Only W s0 (partBegin p s) := by
  unfold partBegin
  extract_lets +onlyGivenNames -merge -useContext -underBinder x1
  have hx1 : Only W s0 (x1) := only_State_setB (sub_trans rfl hW) (only_State_setB (sub_trans rfl hW) hs)
  try clear_value x1
  extract_lets +onlyGivenNames -merge -useContext -underBinder x2
  have hx2 : Only W s0 (x2) := by
    unfold x2
    refine only_iter (fun x t ht => ?_) ?_
    · refine only_ite ?_ ?_
      · refine only_State_setB (sub_trans rfl hW) ?_
        assumption
      · assumption
    · exact hx1
  try clear_value x2
  extract_lets +onlyGivenNames -merge -useContext -underBinder x3
  have hx3 : Only W s0 (x3) := only_vfQuiet (sub_trans rfl hW) hx2
  try clear_value x3
  extract_lets +onlyGivenNames -merge -useContext -underBinder x4
  extract_lets +onlyGivenNames -merge -useContext -underBinder x5
  have hx5 : Only W s0 (x5) := by
    unfold x5
    refine only_foldl (fun t x ht => ?_) ?_
    · refine only_chAbort (sub_trans rfl hW) ?_
      assumption
    · exact hx3
  try clear_value x5
  extract_lets +onlyGivenNames -merge -useContext -underBinder x6
  extract_lets +onlyGivenNames -merge -useContext -underBinder x7
  have hx7 : Only W s0 (x7) := by
    unfold x7
    refine only_foldl (fun t x ht => ?_) ?_
    · refine only_blockReset (sub_trans rfl hW) ?_
      assumption
    · exact hx5
  try clear_value x7
  extract_lets +onlyGivenNames -merge -useContext -underBinder x8
  have hx8 : Only W s0 (x8) := by
    unfold x8
    refine only_iter (fun x t ht => ?_) ?_
    · refine only_ite ?_ ?_
      · refine only_pinSafe (sub_trans rfl hW) ?_
        assumption
      · assumption
    · exact hx7
  try clear_value x8
  extract_lets +onlyGivenNames -merge -useContext -underBinder x9
  have hx9 : Only W s0 (x9) := by
    unfold x9
    refine only_foldl (fun t x ht => ?_) ?_
    · refine only_rangeAbort (sub_trans rfl hW) ?_
      assumption
    · exact hx8
  try clear_value x9
  extract_lets +onlyGivenNames -merge -useContext -underBinder x10
  have hx10 : Only W s0 (x10) := by
    unfold x10
    refine only_foldl (fun t x ht => ?_) ?_
    · refine only_rangeAbort (sub_trans rfl hW) ?_
      assumption
    · exact hx9
  try clear_value x10
  extract_lets +onlyGivenNames -merge -useContext -underBinder x11
  extract_lets +onlyGivenNames -merge -useContext -underBinder x12
  have hx12 : Only W s0 (x12) := by
    unfold x12
    refine only_foldl (fun t x ht => ?_) ?_
    · refine only_hartRenew (sub_trans rfl hW) ?_
      refine only_State_setB (sub_trans rfl hW) ?_
      assumption
    · exact hx10
  try clear_value x12
  extract_lets +onlyGivenNames -merge -useContext -underBinder x13
  refine only_partRun (sub_trans rfl hW) ?_ _
  exact hx12

theorem only_partReset {W : Nat} {s0 : State} (hW : Sub 0x8000000208000910000022402000000008000000020208804800009291178e W)  {a : Access} {p : Nat} {s : State} (hs : Only W s0 s) :
    Only W s0 (partReset a p s) := by
  unfold partReset
  split
  · exact only_partBegin (sub_trans rfl hW) hs
  · exact only_State_setF (sub_trans rfl hW) hs

theorem only_execPartitionReset {W : Nat} {s0 : State} (hW : Sub 0x800000020800e91000072240200000000800000002020880480000929117ae W)  {a : Access} {p : Nat} {s : State} (hs : Only W s0 s) :
    OnlyOut W s0 (execPartitionReset a p s) := by
  unfold execPartitionReset
  refine only_next ?_
  refine only_ite ?_ ?_
  · refine only_guarded (sub_trans rfl hW) ?_ ?_
    · intro y1 hy1
      exact only_partReset (sub_trans rfl hW) hy1
    · exact hs
  · exact hs

theorem only_partReturn {W : Nat} {s0 : State} (hW : Sub 0x200000000000000000000000800000000000000000022404 W)  {p : Nat} {s : State} (hs : Only W s0 s) :
    Only W s0 (partReturn p s) := by
  unfold partReturn
  extract_lets +onlyGivenNames -merge -useContext -underBinder x1
  extract_lets +onlyGivenNames -merge -useContext -underBinder x2
  have hx2 : Only W s0 (x2) := by
    unfold x2
    refine only_foldl (fun t x ht => ?_) ?_
    · refine only_winPend_winOff (sub_trans rfl hW) ?_ _ _
      assumption
    · exact hs
  try clear_value x2
  extract_lets +onlyGivenNames -merge -useContext -underBinder x3
  have hx3 : Only W s0 (x3) := by
    unfold x3
    refine only_iter (fun x t ht => ?_) ?_
    · refine only_creditPut (sub_trans rfl hW) ?_
      assumption
    · exact hx2
  try clear_value x3
  extract_lets +onlyGivenNames -merge -useContext -underBinder x4
  have hx4 : Only W s0 (x4) := by
    unfold x4
    refine only_iter (fun x t ht => ?_) ?_
    · refine only_State_setF (sub_trans rfl hW) ?_
      assumption
    · exact hx3
  try clear_value x4
  refine only_foldl (fun t x ht => ?_) ?_
  · refine only_guestClear (sub_trans rfl hW) ?_
    assumption
  · exact hx4

theorem only_execPartitionResetDone {W : Nat} {s0 : State} (hW : Sub 0x800000000000013000000000000000000800008000000800000000d083260c W)  {p : Nat} {s : State} (hs : Only W s0 s) :
    OnlyOut W s0 (execPartitionResetDone p s) := by
  unfold execPartitionResetDone
  split
  · exact only_next hs
  · extract_lets +onlyGivenNames -merge -useContext -underBinder x1
    have hx1 : Only W s0 (x1) := by
      unfold x1
      refine only_foldl (fun t x ht => ?_) ?_
      · refine only_ite ?_ ?_
        · refine only_hartRenew (sub_trans rfl hW) ?_
          assumption
        · refine only_State_setB (sub_trans rfl hW) ?_
          assumption
      · exact hs
    try clear_value x1
    refine onlyOut_ite ?_ ?_
    · exact only_next hx1
    · extract_lets +onlyGivenNames -merge -useContext -underBinder x2
      have hx2 : Only W s0 (x2) := by
        unfold x2
        refine only_partReturn (sub_trans rfl hW) ?_
        refine only_partRun (sub_trans rfl hW) ?_ _
        exact hx1
      try clear_value x2
      extract_lets +onlyGivenNames -merge -useContext -underBinder x3
      have hx3 : Only W s0 (x3) := only_State_setB (sub_trans rfl hW) (only_State_setB (sub_trans rfl hW) hx2)
      try clear_value x3
      extract_lets +onlyGivenNames -merge -useContext -underBinder x4
      have hx4 : Only W s0 (x4) := only_State_setF (sub_trans rfl hW) hx3
      try clear_value x4
      extract_lets +onlyGivenNames -merge -useContext -underBinder x5
      have hx5 : Only W s0 (x5) := only_State_setF (sub_trans rfl hW) (only_State_setF (sub_trans rfl hW) hx4)
      try clear_value x5
      exact only_next (only_report (sub_trans rfl hW) (only_State_setF (sub_trans rfl hW) hx5))

theorem only_pqVfWrite {W : Nat} {s0 : State} (hW : Sub 0x20400000000000000000000000000000000000000000000004 W)  {a : Access} {p : Nat} {v : Word} {s : State} (hs : Only W s0 s) :
    Only W s0 (pqVfWrite a p v s) := by
  unfold pqVfWrite
  extract_lets +onlyGivenNames -merge -useContext -underBinder x1
  extract_lets +onlyGivenNames -merge -useContext -underBinder x2
  extract_lets +onlyGivenNames -merge -useContext -underBinder x3
  extract_lets +onlyGivenNames -merge -useContext -underBinder x4
  refine only_ite ?_ ?_
  · exact only_pqErr (sub_trans rfl hW) hs
  · extract_lets +onlyGivenNames -merge -useContext -underBinder x5
    extract_lets +onlyGivenNames -merge -useContext -underBinder x6
    have hx6 : Only W s0 (x6) := only_State_wr (sub_trans rfl hW) hs
    try clear_value x6
    refine only_ite ?_ ?_
    · exact hx6
    · exact only_State_setB (sub_trans rfl hW) hx6

theorem only_execVfBind {W : Nat} {s0 : State} (hW : Sub 0xe0400007000000000000000000000000000000000000000024 W)  {a : Access} {p : Nat} {v : Word} {s : State} (hs : Only W s0 s) :
    OnlyOut W s0 (execVfBind a p v s) := by
  unfold execVfBind
  refine only_next ?_
  refine only_ite ?_ ?_
  · refine only_guarded (sub_trans rfl hW) ?_ ?_
    · intro y1 hy1
      exact only_pqVfWrite (sub_trans rfl hW) hy1
    · exact hs
  · exact hs

end Sys2Proof.Machine
end

