-- ==== Sys2Proof/Laws/KeepDebug.lean ====
section
/-! SUPPORT. What the definitions of Machine/Debug.lean leave alone: one lemma for each that answers a state. -/
namespace Sys2Proof.Machine

theorem only_tdoSet {W : Nat} {s0 : State} (hW : Sub 0x80000000 W)  {v : Nat} {s : State} (hs : Only W s0 s) :
    Only W s0 (tdoSet v s) := by
  unfold tdoSet
  refine only_tap (sub_trans rfl hW) ?_ _
  exact hs

theorem only_irSet {W : Nat} {s0 : State} (hW : Sub 0x80000000000000000000000000000000000000000000000000000000000080000104 W)  {code : Nat} {s : State} (hs : Only W s0 s) :
    Only W s0 (irSet code s) := by
  unfold irSet
  extract_lets +onlyGivenNames -merge -useContext -underBinder x1
  extract_lets +onlyGivenNames -merge -useContext -underBinder x2
  have hx2 : Only W s0 (x2) := by
    unfold x2
    refine only_ite ?_ ?_
    · refine only_iter (fun x t ht => ?_) ?_
      · refine only_pinFloat (sub_trans rfl hW) ?_
        assumption
      · exact hs
    · exact hs
  try clear_value x2
  extract_lets +onlyGivenNames -merge -useContext -underBinder x3 x4
  try clear_value x3
  have hx4 : Only W s0 (x4) := by
    unfold x4
    refine only_tap (sub_trans rfl hW) ?_ _
    exact hx2
  try clear_value x4
  exact only_State_setB (sub_trans rfl hW) hx4

theorem only_irLoad {W : Nat} {s0 : State} (hW : Sub 0x80000000000000000000000000000000000000000000000000000000000080000104 W)  {code : Nat} {rails : Bool} {gate : Bool} {k : State → State} (hk : ∀ y0, Only W s0 (y0) → Only W s0 (k y0)) {s : State} (hs : Only W s0 s) :
    Only W s0 (irLoad code rails gate k s) := by
  unfold irLoad
  refine only_ite ?_ ?_
  · exact hs
  · refine only_ite ?_ ?_
    · exact only_tdoSet (sub_trans rfl hW) (only_irSet (sub_trans rfl hW) hs)
    · refine only_ite ?_ ?_
      · refine hk _ ?_
        exact only_irSet (sub_trans rfl hW) hs
      · exact only_tdoSet (sub_trans rfl hW) (only_State_setB (sub_trans rfl hW) (only_irSet (sub_trans rfl hW) hs))

theorem only_execTapReset {W : Nat} {s0 : State} (hW : Sub 0x80000000000000000000000000000000000000000000000000000000000080000104 W)   {s : State} (hs : Only W s0 s) :
    OnlyOut W s0 (execTapReset s) := by
  unfold execTapReset
  refine only_next ?_
  refine only_ite ?_ ?_
  · exact hs
  · exact only_irSet (sub_trans rfl hW) hs

theorem only_execExtest {W : Nat} {s0 : State} (hW : Sub 0x80000000000000000000000000000000000000000000000000000000000080000104 W)  {pins : BitVec 262} {shift : BitVec 262} {s : State} (hs : Only W s0 s) :
    OnlyOut W s0 (execExtest pins shift s) := by
  unfold execExtest
  refine only_next ?_
  refine only_irLoad (sub_trans rfl hW) ?_ ?_
  · intro y1 hy1
    refine only_tap (sub_trans rfl hW) ?_ _
    exact hy1
  · exact hs

theorem only_execSamplePreload {W : Nat} {s0 : State} (hW : Sub 0x80000000000000000000000000000000000000000000000000000000000080000104 W)  {pins : BitVec 262} {shift : BitVec 262} {s : State} (hs : Only W s0 s) :
    OnlyOut W s0 (execSamplePreload pins shift s) := by
  unfold execSamplePreload
  refine only_next ?_
  refine only_irLoad (sub_trans rfl hW) ?_ ?_
  · intro y1 hy1
    refine only_tap (sub_trans rfl hW) ?_ _
    exact hy1
  · exact hs

theorem only_execClamp {W : Nat} {s0 : State} (hW : Sub 0x80000000000000000000000000000000000000000000000000000000000080000104 W)   {s : State} (hs : Only W s0 s) :
    OnlyOut W s0 (execClamp s) := by
  unfold execClamp
  refine only_next ?_
  refine only_irLoad (sub_trans rfl hW) ?_ ?_
  · intro y1 hy1
    exact only_tdoSet (sub_trans rfl hW) hy1
  · exact hs

theorem only_execHighz {W : Nat} {s0 : State} (hW : Sub 0x80000000000000000000000000000000000000000000000000000000000080000104 W)   {s : State} (hs : Only W s0 s) :
    OnlyOut W s0 (execHighz s) := by
  unfold execHighz
  refine only_next ?_
  refine only_irLoad (sub_trans rfl hW) ?_ ?_
  · intro y1 hy1
    exact only_tdoSet (sub_trans rfl hW) hy1
  · exact hs

theorem only_execIdcode {W : Nat} {s0 : State} (hW : Sub 0x80000000000000000000000000000000000000000000000000000000000080000104 W)   {s : State} (hs : Only W s0 s) :
    OnlyOut W s0 (execIdcode s) := by
  unfold execIdcode
  refine only_next ?_
  refine only_irLoad (sub_trans rfl hW) ?_ ?_
  · intro y1 hy1
    exact only_tdoSet (sub_trans rfl hW) hy1
  · exact hs

theorem only_execBypass {W : Nat} {s0 : State} (hW : Sub 0x80000000000000000000000000000000000000000000000000000000000080000104 W)   {s : State} (hs : Only W s0 s) :
    OnlyOut W s0 (execBypass s) := by
  unfold execBypass
  refine only_next ?_
  refine only_irLoad (sub_trans rfl hW) ?_ ?_
  · intro y1 hy1
    exact only_tdoSet (sub_trans rfl hW) hy1
  · exact hs

theorem only_execDbgStatus {W : Nat} {s0 : State} (hW : Sub 0x80000000000000000000000000000000000000000000000000000000000080000104 W)   {s : State} (hs : Only W s0 s) :
    OnlyOut W s0 (execDbgStatus s) := by
  unfold execDbgStatus
  refine only_next ?_
  refine only_irLoad (sub_trans rfl hW) ?_ ?_
  · intro y1 hy1
    exact only_tdoSet (sub_trans rfl hW) hy1
  · exact hs

theorem only_execDtmcs {W : Nat} {s0 : State} (hW : Sub 0x80000000000000000000000000000000000000000000000000000000000080000104 W)  {shift : Nat} {s : State} (hs : Only W s0 s) :
    OnlyOut W s0 (execDtmcs shift s) := by
  unfold execDtmcs
  refine only_next ?_
  refine only_irLoad (sub_trans rfl hW) ?_ ?_
  · intro y1 hy1
    extract_lets +onlyGivenNames -merge -useContext -underBinder x2
    have hx2 : Only W s0 (x2) := only_tdoSet (sub_trans rfl hW) hy1
    try clear_value x2
    refine only_ite ?_ ?_
    · refine only_tap (sub_trans rfl hW) ?_ _
      exact hx2
    · exact hx2
  · exact hs

theorem only_helmScan {W : Nat} {s0 : State} (hW : Sub 0x400000000388000000000000000000000000000000000000a840000e W)  {submit : Bool} {v : Word} {s : State} (hs : Only W s0 s) :
    Only W s0 (helmScan submit v s) := by
  unfold helmScan
  extract_lets +onlyGivenNames -merge -useContext -underBinder x1
  extract_lets +onlyGivenNames -merge -useContext -underBinder x2
  extract_lets +onlyGivenNames -merge -useContext -underBinder x3
  have hx3 : Only W s0 (x3) := only_tdoSet (sub_trans rfl hW) hs
  try clear_value x3
  extract_lets +onlyGivenNames -merge -useContext -underBinder x4
  extract_lets +onlyGivenNames -merge -useContext -underBinder x5 x6
  try clear_value x5
  have hx6 : Only W s0 (x6) := by
    unfold x6
    refine only_tap (sub_trans rfl hW) ?_ _
    exact hx3
  try clear_value x6
  extract_lets +onlyGivenNames -merge -useContext -underBinder x7
  have hx7 : Only W s0 (x7) := by
    unfold x7
    refine only_ite ?_ ?_
    · exact only_State_setB (sub_trans rfl hW) hx6
    · exact hx6
  try clear_value x7
  extract_lets +onlyGivenNames -merge -useContext -underBinder x8
  refine only_ite ?_ ?_
  · refine only_mbDoorbell (sub_trans rfl hW) ?_
    refine only_tap (sub_trans rfl hW) ?_ _
    exact hx7
  · extract_lets +onlyGivenNames -merge -useContext -underBinder x9
    have hx9 : Only W s0 (x9) := by
      unfold x9
      refine only_ite ?_ ?_
      · exact only_State_setR (sub_trans rfl hW) hx7
      · exact hx7
    try clear_value x9
    refine only_tap (sub_trans rfl hW) ?_ _
    exact hx9

theorem only_execHelmMb {W : Nat} {s0 : State} (hW : Sub 0x800000000000400000000388000000000000000000000000000000000000a840010e W)  {submit : Bool} {v : Word} {s : State} (hs : Only W s0 s) :
    OnlyOut W s0 (execHelmMb submit v s) := by
  unfold execHelmMb
  refine only_next ?_
  refine only_irLoad (sub_trans rfl hW) ?_ ?_
  · intro y1 hy1
    exact only_helmScan (sub_trans rfl hW) hy1
  · exact hs

theorem only_execChainSel {W : Nat} {s0 : State} (hW : Sub 0x80000000000000000000000000000000000000000000000000000000000080000104 W)  {dies : Nat} {s : State} (hs : Only W s0 s) :
    OnlyOut W s0 (execChainSel dies s) := by
  unfold execChainSel
  refine only_next ?_
  refine only_irLoad (sub_trans rfl hW) ?_ ?_
  · intro y1 hy1
    extract_lets +onlyGivenNames -merge -useContext -underBinder x2
    have hx2 : Only W s0 (x2) := only_tdoSet (sub_trans rfl hW) hy1
    try clear_value x2
    refine only_iter (fun x t ht => ?_) ?_
    · refine only_State_setFbit (sub_trans rfl hW) ?_
      assumption
    · exact hx2
  · exact hs

theorem only_dieIrLoad {W : Nat} {s0 : State} (hW : Sub 0x80000000000000000000000000000000000000000000000000000000000080000004 W)  {n : Nat} {code : Nat} {gate : Bool} {k : State → State} (hk : ∀ y0, Only W s0 (y0) → Only W s0 (k y0)) {s : State} (hs : Only W s0 s) :
    Only W s0 (dieIrLoad n code gate k s) := by
  unfold dieIrLoad
  refine only_ite ?_ ?_
  · exact hs
  · extract_lets +onlyGivenNames -merge -useContext -underBinder x1
    have hx1 : ∀ y0 y1, Only W s0 (y1) → Only W s0 (x1 y0 y1) := by
      unfold x1
      intro y2 y3 hy3
      refine only_tap (sub_trans rfl hW) ?_ _
      exact hy3
    try clear_value x1
    refine only_ite ?_ ?_
    · refine hk _ ?_
      exact hx1 _ _ hs
    · exact only_tdoSet (sub_trans rfl hW) (only_State_setB (sub_trans rfl hW) (hx1 _ _ hs))

theorem only_tdoFree {W : Nat} {s0 : State} (hW : Sub 0x80000002 W)   {s : State} (hs : Only W s0 s) :
    Only W s0 (tdoFree s) := by
  unfold tdoFree
  exact only_State_bump (sub_trans rfl hW) (only_tdoSet (sub_trans rfl hW) hs)

theorem only_execWextest {W : Nat} {s0 : State} (hW : Sub 0x80000000000000000000000000000000000000000000000000000000000080000006 W)  {n : Nat} {s : State} (hs : Only W s0 s) :
    OnlyOut W s0 (execWextest n s) := by
  unfold execWextest
  refine only_next ?_
  refine only_dieIrLoad (sub_trans rfl hW) ?_ ?_
  · intro y1 hy1
    exact only_tdoFree (sub_trans rfl hW) hy1
  · exact hs

theorem only_execDieIdcode {W : Nat} {s0 : State} (hW : Sub 0x80000000000000000000000000000000000000000000000000000000000080000004 W)  {n : Nat} {s : State} (hs : Only W s0 s) :
    OnlyOut W s0 (execDieIdcode n s) := by
  unfold execDieIdcode
  refine only_next ?_
  refine only_dieIrLoad (sub_trans rfl hW) ?_ ?_
  · intro y1 hy1
    exact only_tdoSet (sub_trans rfl hW) hy1
  · exact hs

theorem only_execWintest {W : Nat} {s0 : State} (hW : Sub 0x80000000000000000000000000000000000000000000000000000000000080000006 W)  {n : Nat} {s : State} (hs : Only W s0 s) :
    OnlyOut W s0 (execWintest n s) := by
  unfold execWintest
  refine only_next ?_
  refine only_dieIrLoad (sub_trans rfl hW) ?_ ?_
  · intro y1 hy1
    exact only_tdoFree (sub_trans rfl hW) hy1
  · exact hs

theorem only_execScan {W : Nat} {s0 : State} (hW : Sub 0x80000000000000000000000000000000000000000000000000000000000080000006 W)  {n : Nat} {s : State} (hs : Only W s0 s) :
    OnlyOut W s0 (execScan n s) := by
  unfold execScan
  refine only_next ?_
  refine only_dieIrLoad (sub_trans rfl hW) ?_ ?_
  · intro y1 hy1
    exact only_tdoFree (sub_trans rfl hW) hy1
  · exact hs

theorem only_execMbist {W : Nat} {s0 : State} (hW : Sub 0x80000000000000000000000000000000000000000000000000000000000080000006 W)  {n : Nat} {s : State} (hs : Only W s0 s) :
    OnlyOut W s0 (execMbist n s) := by
  unfold execMbist
  refine only_next ?_
  refine only_dieIrLoad (sub_trans rfl hW) ?_ ?_
  · intro y1 hy1
    exact only_tdoFree (sub_trans rfl hW) hy1
  · exact hs

theorem only_execDieBypass {W : Nat} {s0 : State} (hW : Sub 0x80000000000000000000000000000000000000000000000000000000000080000004 W)  {n : Nat} {s : State} (hs : Only W s0 s) :
    OnlyOut W s0 (execDieBypass n s) := by
  unfold execDieBypass
  refine only_next ?_
  refine only_dieIrLoad (sub_trans rfl hW) ?_ ?_
  · intro y1 hy1
    exact only_tdoSet (sub_trans rfl hW) hy1
  · exact hs

theorem only_testHold {W : Nat} {s0 : State} (hW : Sub 0x11b02000a40000000000000000000000048840042af0f12fbfffe800000020f00ffe5e W)  {v : Word} {n : Nat} {s : State} (hs : Only W s0 s) :
    Only W s0 (testHold v n s) := by
  unfold testHold
  extract_lets +onlyGivenNames -merge -useContext -underBinder x1
  extract_lets +onlyGivenNames -merge -useContext -underBinder x2
  refine only_ite ?_ ?_
  · exact hs
  · extract_lets +onlyGivenNames -merge -useContext -underBinder x3
    have hx3 : Only W s0 (x3) := only_State_setFbit (sub_trans rfl hW) hs
    try clear_value x3
    extract_lets +onlyGivenNames -merge -useContext -underBinder x4
    refine only_ite ?_ ?_
    · exact hx3
    · refine only_ite ?_ ?_
      · exact only_dieLeave (sub_trans rfl hW) hx3
      · refine only_ite ?_ ?_
        · refine only_dieWake (sub_trans rfl hW) ?_
          refine only_ite ?_ ?_
          · exact only_dieGone (sub_trans rfl hW) hx3
          · exact hx3
        · exact hx3

theorem only_testHoldWrite {W : Nat} {s0 : State} (hW : Sub 0x11b02000a40000000000000000000000048840042af0f12fbfffe800000020f00ffe5e W)  {v : Word} {s : State} (hs : Only W s0 s) :
    Only W s0 (testHoldWrite v s) := by
  unfold testHoldWrite
  refine only_iter (fun x t ht => ?_) ?_
  · refine only_testHold (sub_trans rfl hW) ?_
    assumption
  · exact hs

theorem only_execDbgTestHold {W : Nat} {s0 : State} (hW : Sub 0x11b02000a40000000000e00000070000048840042af0f12fbfffe800000020f00ffe7e W)  {a : Access} {v : Word} {s : State} (hs : Only W s0 s) :
    OnlyOut W s0 (execDbgTestHold a v s) := by
  unfold execDbgTestHold
  refine only_next ?_
  refine only_guarded (sub_trans rfl hW) ?_ ?_
  · intro y1 hy1
    exact only_testHoldWrite (sub_trans rfl hW) hy1
  · exact hs

theorem only_execIjtag {W : Nat} {s0 : State} (hW : Sub 0x80000000000000000000000000000000000000000000000000000000000080000106 W)  {sibs : Nat} {s : State} (hs : Only W s0 s) :
    OnlyOut W s0 (execIjtag sibs s) := by
  unfold execIjtag
  refine only_next ?_
  refine only_irLoad (sub_trans rfl hW) ?_ ?_
  · intro y1 hy1
    extract_lets +onlyGivenNames -merge -useContext -underBinder x2
    extract_lets +onlyGivenNames -merge -useContext -underBinder x3
    have hx3 : Only W s0 (x3) := by
      unfold x3
      refine only_ite ?_ ?_
      · exact only_tdoSet (sub_trans rfl hW) hy1
      · exact only_State_bump (sub_trans rfl hW) (only_tdoSet (sub_trans rfl hW) hy1)
    try clear_value x3
    refine only_tap (sub_trans rfl hW) ?_ _
    exact hx3
  · exact hs

theorem only_State_onDbg {W : Nat} {s0 : State} (hW : Sub 0x80000000 W)  {f : DbgMod → DbgMod} {s : State} (hs : Only W s0 s) :
    Only W s0 (State.onDbg s f) := by
  unfold State.onDbg
  refine only_dbg (sub_trans rfl hW) ?_ _
  exact hs

theorem only_haltAsk {W : Nat} {s0 : State} (hW : Sub 0x400 W)  {ha : Nat} {s : State} (hs : Only W s0 s) :
    Only W s0 (haltAsk ha s) := by
  unfold haltAsk
  refine only_ite ?_ ?_
  · exact only_haltTry (sub_trans rfl hW) (only_State_onHart (sub_trans rfl hW) hs)
  · exact hs

theorem only_resumeAsk {W : Nat} {s0 : State} (hW : Sub 0x80000400 W)  {ha : Nat} {s : State} (hs : Only W s0 s) :
    Only W s0 (resumeAsk ha s) := by
  unfold resumeAsk
  refine only_ite ?_ ?_
  · exact only_State_onDbg (sub_trans rfl hW) (only_haltLeave (sub_trans rfl hW) hs)
  · exact hs

theorem only_execHaltRequest {W : Nat} {s0 : State} (hW : Sub 0x400 W)  {hart : Nat} {s : State} (hs : Only W s0 s) :
    OnlyOut W s0 (execHaltRequest hart s) := by
  unfold execHaltRequest
  exact only_next (only_haltAsk (sub_trans rfl hW) hs)

theorem only_execResumeRequest {W : Nat} {s0 : State} (hW : Sub 0x80000400 W)  {hart : Nat} {s : State} (hs : Only W s0 s) :
    OnlyOut W s0 (execResumeRequest hart s) := by
  unfold execResumeRequest
  exact only_next (only_resumeAsk (sub_trans rfl hW) hs)

theorem only_absPut {W : Nat} {s0 : State} (hW : Sub 0x10402 W)  {ha : Nat} {r : Nat} {v : Word} {s : State} (hs : Only W s0 s) :
    Only W s0 (absPut ha r v s) := by
  unfold absPut
  refine only_ite ?_ ?_
  · exact only_csrWrite (sub_trans rfl hW) hs
  · refine only_ite ?_ ?_
    · exact only_State_onHart (sub_trans rfl hW) hs
    · exact only_State_onHart (sub_trans rfl hW) hs

theorem only_absErr {W : Nat} {s0 : State} (hW : Sub 0x80000000 W)  {e : Nat} {s : State} (hs : Only W s0 s) :
    Only W s0 (absErr e s) := by
  unfold absErr
  exact only_State_onDbg (sub_trans rfl hW) hs

theorem only_absAccess {W : Nat} {s0 : State} (hW : Sub 0x80010402 W)  {ha : Nat} {cmd : Nat} {writes : List (Nat × Word)} {fails : Bool} {s : State} (hs : Only W s0 s) :
    Only W s0 (absAccess ha cmd writes fails s) := by
  unfold absAccess
  extract_lets +onlyGivenNames -merge -useContext -underBinder x1
  extract_lets +onlyGivenNames -merge -useContext -underBinder x2
  extract_lets +onlyGivenNames -merge -useContext -underBinder x3
  extract_lets +onlyGivenNames -merge -useContext -underBinder x4
  refine only_ite ?_ ?_
  · exact only_absErr (sub_trans rfl hW) hs
  · extract_lets +onlyGivenNames -merge -useContext -underBinder x5
    have hx5 : Only W s0 (x5) := only_State_onDbg (sub_trans rfl hW) hs
    try clear_value x5
    extract_lets +onlyGivenNames -merge -useContext -underBinder x6 x7
    try clear_value x6
    have hx7 : Only W s0 (x7) := by
      unfold x7
      refine only_ite ?_ ?_
      · exact hx5
      · refine only_ite ?_ ?_
        · exact only_absPut (sub_trans rfl hW) hx5
        · exact only_State_bump (sub_trans rfl hW) (only_State_onDbg (sub_trans rfl hW) hx5)
    try clear_value x7
    refine only_ite ?_ ?_
    · extract_lets +onlyGivenNames -merge -useContext -underBinder x8
      have hx8 : Only W s0 (x8) := only_State_onHart (sub_trans rfl hW) hx7
      try clear_value x8
      refine only_ite ?_ ?_
      · exact only_absErr (sub_trans rfl hW) hx8
      · exact hx8
    · exact hx7

theorem only_absCommand {W : Nat} {s0 : State} (hW : Sub 0x80010402 W)  {cmd : Nat} {writes : List (Nat × Word)} {fails : Bool} {s : State} (hs : Only W s0 s) :
    Only W s0 (absCommand cmd writes fails s) := by
  unfold absCommand
  extract_lets +onlyGivenNames -merge -useContext -underBinder x1
  refine only_ite ?_ ?_
  · refine only_ite ?_ ?_
    · exact only_State_onDbg (sub_trans rfl hW) hs
    · exact hs
  · refine only_ite ?_ ?_
    · exact hs
    · refine only_ite ?_ ?_
      · exact only_absErr (sub_trans rfl hW) hs
      · refine only_ite ?_ ?_
        · exact only_absErr (sub_trans rfl hW) hs
        · refine only_ite ?_ ?_
          · exact only_State_onDbg (sub_trans rfl hW) hs
          · exact only_absAccess (sub_trans rfl hW) hs

theorem only_absRetry {W : Nat} {s0 : State} (hW : Sub 0x80010402 W)   {s : State} (hs : Only W s0 s) :
    Only W s0 (absRetry s) := by
  unfold absRetry
  split
  · exact hs
  · extract_lets +onlyGivenNames -merge -useContext -underBinder x1
    refine only_ite ?_ ?_
    · exact only_absErr (sub_trans rfl hW) hs
    · refine only_ite ?_ ?_
      · exact only_absAccess (sub_trans rfl hW) hs
      · exact hs

theorem only_execAbstractCommand {W : Nat} {s0 : State} (hW : Sub 0x80010402 W)  {cmd : Nat} {writes : List (Nat × Word)} {fails : Bool} {s : State} (hs : Only W s0 s) :
    OnlyOut W s0 (execAbstractCommand cmd writes fails s) := by
  unfold execAbstractCommand
  exact only_next (only_absCommand (sub_trans rfl hW) hs)

theorem only_sbaStart {W : Nat} {s0 : State} (hW : Sub 0x428000000000000000000008002100c W)  {wr : Bool} {s : State} (hs : Only W s0 s) :
    Only W s0 (sbaStart wr s) := by
  unfold sbaStart
  extract_lets +onlyGivenNames -merge -useContext -underBinder x1
  extract_lets +onlyGivenNames -merge -useContext -underBinder x2
  extract_lets +onlyGivenNames -merge -useContext -underBinder x3
  refine only_ite ?_ ?_
  · exact only_State_onDbg (sub_trans rfl hW) hs
  · refine only_ite ?_ ?_
    · exact hs
    · refine only_ite ?_ ?_
      · exact only_State_onDbg (sub_trans rfl hW) hs
      · refine only_ite ?_ ?_
        · exact only_State_onDbg (sub_trans rfl hW) hs
        · extract_lets +onlyGivenNames -merge -useContext -underBinder x4
          extract_lets +onlyGivenNames -merge -useContext -underBinder x5
          exact only_openTx (sub_trans rfl hW) (only_State_onDbg (sub_trans rfl hW) hs)

theorem only_sbaDone {W : Nat} {s0 : State} (hW : Sub 0x80000000 W)  {resp : BitVec 2} {po : BitVec 2} {line : Option Line} {s : State} (hs : Only W s0 s) :
    Only W s0 (sbaDone resp po line s) := by
  unfold sbaDone
  extract_lets +onlyGivenNames -merge -useContext -underBinder x1
  extract_lets +onlyGivenNames -merge -useContext -underBinder x2
  extract_lets +onlyGivenNames -merge -useContext -underBinder x3
  have hx3 : Only W s0 (x3) := only_State_onDbg (sub_trans rfl hW) hs
  try clear_value x3
  refine only_ite ?_ ?_
  · exact only_State_onDbg (sub_trans rfl hW) hx3
  · split
    · refine only_ite ?_ ?_
      · exact only_State_onDbg (sub_trans rfl hW) hx3
      · exact only_State_onDbg (sub_trans rfl hW) hx3
    · exact only_State_onDbg (sub_trans rfl hW) hx3

theorem only_execSystemBusAccess {W : Nat} {s0 : State} (hW : Sub 0x428000000000000000000008002100c W)  {write : Bool} {addr : Nat} {size : Nat} {v : Word} {s : State} (hs : Only W s0 s) :
    OnlyOut W s0 (execSystemBusAccess write addr size v s) := by
  unfold execSystemBusAccess
  refine only_next ?_
  refine only_ite ?_ ?_
  · exact only_State_onDbg (sub_trans rfl hW) hs
  · exact only_sbaStart (sub_trans rfl hW) (only_State_onDbg (sub_trans rfl hW) hs)

theorem only_dmRead {W : Nat} {s0 : State} (hW : Sub 0x428000000000000000000008002100c W)  {a : Nat} {s : State} (hs : Only W s0 s) :
    Only W s0 (dmRead a s).2 := by
  unfold dmRead
  extract_lets +onlyGivenNames -merge -useContext -underBinder x1
  extract_lets +onlyGivenNames -merge -useContext -underBinder x2
  refine only_ite_snd ?_ ?_
  · exact only_snd_mk hs
  · refine only_ite_snd ?_ ?_
    · exact only_snd_mk hs
    · refine only_ite_snd ?_ ?_
      · exact only_snd_mk hs
      · split
        · exact only_snd_mk hs
        · exact only_snd_mk hs
        · exact only_snd_mk hs
        · exact only_snd_mk hs
        · exact only_snd_mk hs
        · exact only_snd_mk hs
        · exact only_snd_mk hs
        · refine only_snd_mk ?_
          refine only_ite ?_ ?_
          · exact only_State_onDbg (sub_trans rfl hW) hs
          · refine only_ite ?_ ?_
            · exact only_sbaStart (sub_trans rfl hW) hs
            · exact hs
        · exact only_snd_mk hs
        · exact only_snd_mk hs
        · refine only_ite_snd ?_ ?_
          · exact only_snd_mk hs
          · exact only_snd_mk hs

theorem only_dmControl {W : Nat} {s0 : State} (hW : Sub 0x80000400 W)  {v : Nat} {s : State} (hs : Only W s0 s) :
    Only W s0 (dmControl v s) := by
  unfold dmControl
  refine only_ite ?_ ?_
  · refine only_dbg (sub_trans rfl hW) ?_ _
    exact hs
  · refine only_ite ?_ ?_
    · exact only_State_onDbg (sub_trans rfl hW) hs
    · extract_lets +onlyGivenNames -merge -useContext -underBinder x1
      extract_lets +onlyGivenNames -merge -useContext -underBinder x2
      have hx2 : Only W s0 (x2) := only_State_onDbg (sub_trans rfl hW) hs
      try clear_value x2
      refine only_ite ?_ ?_
      · exact only_haltAsk (sub_trans rfl hW) hx2
      · extract_lets +onlyGivenNames -merge -useContext -underBinder x3
        have hx3 : Only W s0 (x3) := by
          unfold x3
          refine only_ite ?_ ?_
          · exact only_State_onHart (sub_trans rfl hW) hx2
          · exact hx2
        try clear_value x3
        refine only_ite ?_ ?_
        · exact only_resumeAsk (sub_trans rfl hW) hx3
        · exact hx3

theorem only_dmWrite {W : Nat} {s0 : State} (hW : Sub 0x428000000000000000000008003140e W)  {a : Nat} {v : Nat} {s : State} (hs : Only W s0 s) :
    Only W s0 (dmWrite a v s) := by
  unfold dmWrite
  extract_lets +onlyGivenNames -merge -useContext -underBinder x1
  refine only_ite ?_ ?_
  · exact only_dmControl (sub_trans rfl hW) hs
  · refine only_ite ?_ ?_
    · exact hs
    · split
      · exact only_State_onDbg (sub_trans rfl hW) hs
      · exact only_State_onDbg (sub_trans rfl hW) hs
      · exact only_State_onDbg (sub_trans rfl hW) hs
      · exact only_absCommand (sub_trans rfl hW) hs
      · exact only_State_onDbg (sub_trans rfl hW) hs
      · refine only_ite ?_ ?_
        · exact only_State_onDbg (sub_trans rfl hW) hs
        · extract_lets +onlyGivenNames -merge -useContext -underBinder x2
          have hx2 : Only W s0 (x2) := only_State_onDbg (sub_trans rfl hW) hs
          try clear_value x2
          refine only_ite ?_ ?_
          · exact only_sbaStart (sub_trans rfl hW) hx2
          · exact hx2
      · refine only_ite ?_ ?_
        · exact only_State_onDbg (sub_trans rfl hW) hs
        · exact only_State_onDbg (sub_trans rfl hW) hs
      · refine only_ite ?_ ?_
        · exact only_State_onDbg (sub_trans rfl hW) hs
        · exact only_sbaStart (sub_trans rfl hW) (only_State_onDbg (sub_trans rfl hW) hs)
      · refine only_ite ?_ ?_
        · exact only_State_onDbg (sub_trans rfl hW) hs
        · exact only_State_onDbg (sub_trans rfl hW) hs
      · refine only_ite ?_ ?_
        · exact only_State_onDbg (sub_trans rfl hW) hs
        · exact hs

theorem only_execDmi {W : Nat} {s0 : State} (hW : Sub 0x8000000000000000000000000000000000000428000000000000000000008003150e W)  {addr : Nat} {data : Nat} {op : Nat} {s : State} (hs : Only W s0 s) :
    OnlyOut W s0 (execDmi addr data op s) := by
  unfold execDmi
  refine only_next ?_
  refine only_irLoad (sub_trans rfl hW) ?_ ?_
  · intro y1 hy1
    extract_lets +onlyGivenNames -merge -useContext -underBinder x2
    have hx2 : Only W s0 (x2) := only_tdoSet (sub_trans rfl hW) hy1
    try clear_value x2
    extract_lets +onlyGivenNames -merge -useContext -underBinder x3
    refine only_ite ?_ ?_
    · split
      · rename_i e4
        replace e4 := congrArg Prod.snd e4
        dsimp only at e4
        refine only_of_eq (W := W) (s0 := s0) e4 ?_ (fun k5 => ?_)
        · exact only_dmRead (sub_trans rfl hW) hx2
        refine only_tap (sub_trans rfl hW) ?_ _
        assumption
    · refine only_ite ?_ ?_
      · extract_lets +onlyGivenNames -merge -useContext -underBinder x6
        have hx6 : Only W s0 (x6) := only_dmWrite (sub_trans rfl hW) hx2
        try clear_value x6
        refine only_tap (sub_trans rfl hW) ?_ _
        exact hx6
      · exact hx2
  · exact hs

theorem only_ctrTake {W : Nat} {s0 : State} (hW : Sub 0x1200000000000000000000000000000000000000000000000000000000000000000804 W)  {n : Nat} {r : Word × Word} {s : State} (hs : Only W s0 s) :
    Only W s0 (ctrTake n r s) := by
  unfold ctrTake
  refine only_ite ?_ ?_
  · refine only_ctrFifo (sub_trans rfl hW) ?_ _
    exact hs
  · extract_lets +onlyGivenNames -merge -useContext -underBinder x1
    extract_lets +onlyGivenNames -merge -useContext -underBinder x2
    have hx2 : Only W s0 (x2) := by
      unfold x2
      refine only_ctrBuf (sub_trans rfl hW) ?_ _
      exact hs
    try clear_value x2
    refine only_ite ?_ ?_
    · exact only_State_setF (sub_trans rfl hW) hx2
    · extract_lets +onlyGivenNames -merge -useContext -underBinder x3
      have hx3 : Only W s0 (x3) := only_State_setF (sub_trans rfl hW) hx2
      try clear_value x3
      refine only_ite ?_ ?_
      · exact hx3
      · exact only_State_setB (sub_trans rfl hW) hx3

theorem only_ctrDrain {W : Nat} {s0 : State} (hW : Sub 0x1200000000000000000000000000000000000000000000000000000000000000000804 W)  {n : Nat} {s : State} (hs : Only W s0 s) :
    Only W s0 (ctrDrain n s) := by
  unfold ctrDrain
  refine only_ite ?_ ?_
  · exact hs
  · split
    · split
      · exact only_ctrTake (sub_trans rfl hW) (only_State_setCoreTr (sub_trans rfl hW) hs)
      · exact hs
    · exact hs

theorem only_ctrCycle {W : Nat} {s0 : State} (hW : Sub 0x1200000000000000000000000000000000000000000000000000000000000000000804 W)   {s : State} (hs : Only W s0 s) :
    Only W s0 (ctrCycle s) := by
  unfold ctrCycle
  refine only_iter (fun x t ht => ?_) ?_
  · refine only_ctrDrain (sub_trans rfl hW) ?_
    assumption
  · exact hs

theorem only_execCoreTraceWrite {W : Nat} {s0 : State} (hW : Sub 0x120000000000000000000000000000000000000428000000000000000000000002180c W)  {n : Nat} {s : State} (hs : Only W s0 s) :
    OnlyOut W s0 (execCoreTraceWrite n s) := by
  unfold execCoreTraceWrite
  extract_lets +onlyGivenNames -merge -useContext -underBinder x1
  have hx1 : Only W s0 (x1) := only_ctrDrain (sub_trans rfl hW) hs
  try clear_value x1
  extract_lets +onlyGivenNames -merge -useContext -underBinder x2
  refine onlyOut_ite ?_ ?_
  · exact only_next hx1
  · extract_lets +onlyGivenNames -merge -useContext -underBinder x3
    extract_lets +onlyGivenNames -merge -useContext -underBinder x4
    extract_lets +onlyGivenNames -merge -useContext -underBinder x5
    extract_lets +onlyGivenNames -merge -useContext -underBinder x6
    have hx6 : Only W s0 (x6) := by
      unfold x6
      refine only_ctrFifo (sub_trans rfl hW) ?_ _
      exact hx1
    try clear_value x6
    extract_lets +onlyGivenNames -merge -useContext -underBinder x7
    have hx7 : Only W s0 (x7) := only_openTx (sub_trans rfl hW) hx6
    try clear_value x7
    refine onlyOut_ite ?_ ?_
    · exact only_next (only_State_setF (sub_trans rfl hW) hx7)
    · extract_lets +onlyGivenNames -merge -useContext -underBinder x8
      have hx8 : Only W s0 (x8) := only_State_setF (sub_trans rfl hW) hx7
      try clear_value x8
      refine only_next ?_
      refine only_ite ?_ ?_
      · exact hx8
      · exact only_State_setB (sub_trans rfl hW) hx8

theorem only_ctrWritten {W : Nat} {s0 : State} (hW : Sub 0x200000000000000000000000000000000000000000000000000000000000000000004 W)  {n : Nat} {err : Bool} {s : State} (hs : Only W s0 s) :
    Only W s0 (ctrWritten n err s) := by
  unfold ctrWritten
  refine only_ite ?_ ?_
  · exact only_State_setB (sub_trans rfl hW) hs
  · exact hs

theorem only_ctrBufPop {W : Nat} {s0 : State} (hW : Sub 0x1000000000000000000000000000000000000000000000000000000000000000000024 W)  {n : Nat} {s : State} (hs : Only W s0 s) :
    Only W s0 (ctrBufPop n s) := by
  unfold ctrBufPop
  extract_lets +onlyGivenNames -merge -useContext -underBinder x1
  extract_lets +onlyGivenNames -merge -useContext -underBinder x2
  exact only_State_answer (sub_trans rfl hW) (only_State_setF (sub_trans rfl hW) hs)

theorem only_execCtrBufRead {W : Nat} {s0 : State} (hW : Sub 0x10000000000000000000e0000007000000000000000000000000000000000000000024 W)  {a : Access} {n : Nat} {s : State} (hs : Only W s0 s) :
    OnlyOut W s0 (execCtrBufRead a n s) := by
  unfold execCtrBufRead
  refine only_next ?_
  refine only_guarded (sub_trans rfl hW) ?_ ?_
  · intro y1 hy1
    exact only_ctrBufPop (sub_trans rfl hW) hy1
  · exact hs

end Sys2Proof.Machine
end

