-- ==== Sys2Proof/Laws/KeepComplete.lean ====
section
/-! SUPPORT. What the definitions of Machine/Complete.lean leave alone: one lemma for each that answers a state. -/
namespace Sys2Proof.Machine

theorem only_loadAnswered {W : Nat} {s0 : State} (hW : Sub 0xe0000007000000000004280000000000000000000040039c0c W)  {ha : Nat} {id : Nat} {j : Nat} {o : Nat} {resp : BitVec 2} {po : BitVec 2} {d : Line} {s : State} (hs : Only W s0 s) :
    Only W s0 (loadAnswered ha id j o resp po d s) := by
  unfold loadAnswered
  exact only_loadsPump (sub_trans rfl hW) (only_setAcc (sub_trans rfl hW) hs)

theorem only_inAnswered {W : Nat} {s0 : State} (hW : Sub 0x4000040000000000000000000428000000000000000000000e02100c W)  {k : Nat} {resp : BitVec 2} {po : BitVec 2} {d : Line} {s : State} (hs : Only W s0 s) :
    Only W s0 (inAnswered k resp po d s) := by
  unfold inAnswered
  split
  · exact hs
  · extract_lets +onlyGivenNames -merge -useContext -underBinder x1
    have hx1 : Only W s0 (x1) := only_State_setInQ (sub_trans rfl hW) hs
    try clear_value x1
    extract_lets +onlyGivenNames -merge -useContext -underBinder x2
    refine only_ite ?_ ?_
    · exact only_pePump (sub_trans rfl hW) hx1
    · exact only_plPump (sub_trans rfl hW) hx1

theorem only_completed {W : Nat} {s0 : State} (hW : Sub 0x2000000000000400004e0000007224e2001000428000000200c1800000000ce339e0e W)  {t : Tx} {resp : BitVec 2} {po : BitVec 2} {d : Line} {s : State} (hs : Only W s0 s) :
    Only W s0 (completed t resp po d s) := by
  unfold completed
  extract_lets +onlyGivenNames -merge -useContext -underBinder x1
  split
  · exact only_loadAnswered (sub_trans rfl hW) hs
  · exact only_loadAnswered (sub_trans rfl hW) hs
  · refine only_ite ?_ ?_
    · exact only_sbError (sub_trans rfl hW) hs
    · exact only_sbPop (sub_trans rfl hW) hs
  · exact only_tsDone (sub_trans rfl hW) hs
  · exact only_dmaRead (sub_trans rfl hW) hs
  · exact only_dmaDeadRead (sub_trans rfl hW) hs
  · exact only_dmaWritten (sub_trans rfl hW) hs
  · exact only_dmaFlushed (sub_trans rfl hW) hs
  · exact only_zdStatusDone (sub_trans rfl hW) hs
  · exact only_dmaDescRead (sub_trans rfl hW) hs
  · exact only_batWritten (sub_trans rfl hW) hs
  · exact only_ctrWritten (sub_trans rfl hW) hs
  · exact only_inAnswered (sub_trans rfl hW) hs
  · exact only_inAnswered (sub_trans rfl hW) hs
  · exact only_sbaDone (sub_trans rfl hW) hs
  · exact only_rangeGo (sub_trans rfl hW) hs

theorem only_completion {W : Nat} {s0 : State} (hW : Sub 0x2000000000000400004e0000007224e2001000428000000200c1800000000ce339e0e W)  {p : Packet} {s : State} (hs : Only W s0 s) :
    Only W s0 (completion p s) := by
  unfold completion
  refine only_ite ?_ ?_
  · exact hs
  · split
    · rename_i e1
      replace e1 := congrArg Prod.snd e1
      dsimp only at e1
      refine only_of_eq (W := W) (s0 := s0) e1 ?_ (fun k2 => ?_)
      · exact only_closeTx (sub_trans rfl hW) (only_State_take (sub_trans rfl hW) hs)
      refine only_completed (sub_trans rfl hW) ?_
      assumption
    · rename_i e3
      replace e3 := congrArg Prod.snd e3
      dsimp only at e3
      refine only_of_eq (W := W) (s0 := s0) e3 ?_ (fun k4 => ?_)
      · exact only_closeTx (sub_trans rfl hW) (only_State_take (sub_trans rfl hW) hs)
      assumption

theorem only_execCmp {W : Nat} {s0 : State} (hW : Sub 0x2000000000000400004e0000007224e2001000428000000200c1800000000ce339e0e W)  {p : Packet} {s : State} (hs : Only W s0 s) :
    OnlyOut W s0 (execCmp p s) := by
  unfold execCmp
  exact only_next (only_completion (sub_trans rfl hW) hs)

theorem only_execCmpIO {W : Nat} {s0 : State} (hW : Sub 0x2000000000000400004e0000007224e2001000428000000200c1800000000ce339e0e W)  {p : Packet} {s : State} (hs : Only W s0 s) :
    OnlyOut W s0 (execCmpIO p s) := by
  unfold execCmpIO
  exact only_next (only_completion (sub_trans rfl hW) hs)

theorem only_execDataIO {W : Nat} {s0 : State} (hW : Sub 0x2000000000000400004e0000007224e2001000428000000200c1800000000ce339e0e W)  {p : Packet} {s : State} (hs : Only W s0 s) :
    OnlyOut W s0 (execDataIO p s) := by
  unfold execDataIO
  exact only_next (only_completion (sub_trans rfl hW) hs)

theorem only_timeoutNote {W : Nat} {s0 : State} (hW : Sub 0x600000000000000000000040200004 W)  {w : Bool} {addr : Nat} {part : Nat} {src : Nat} {tag : Nat} {s : State} (hs : Only W s0 s) :
    Only W s0 (timeoutNote w addr part src tag s) := by
  unfold timeoutNote
  extract_lets +onlyGivenNames -merge -useContext -underBinder x1
  have hx1 : Only W s0 (x1) := only_State_satInc (sub_trans rfl hW) hs
  try clear_value x1
  extract_lets +onlyGivenNames -merge -useContext -underBinder x2
  have hx2 : Only W s0 (x2) := only_State_setF (sub_trans rfl hW) (only_State_setB (sub_trans rfl hW) hx1)
  try clear_value x2
  extract_lets +onlyGivenNames -merge -useContext -underBinder x3
  have hx3 : Only W s0 (x3) := by
    unfold x3
    refine only_pulses (sub_trans rfl hW) ?_ _
    exact hx2
  try clear_value x3
  exact only_report (sub_trans rfl hW) hx3

theorem only_sliceTimeout {W : Nat} {s0 : State} (hW : Sub 0xe000000700000000000468000000000c000000000040239c0c W)  {q : L3Pend} {s : State} (hs : Only W s0 s) :
    Only W s0 (sliceTimeout q s) := by
  unfold sliceTimeout
  extract_lets +onlyGivenNames -merge -useContext -underBinder x1
  have hx1 : Only W s0 (x1) := by
    unfold x1
    refine only_l3Pend_sliceQ (sub_trans rfl hW) ?_ _ _
    exact hs
  try clear_value x1
  exact only_failCore (sub_trans rfl hW) (only_timeoutNote (sub_trans rfl hW) hx1)

theorem only_l2Timeout {W : Nat} {s0 : State} (hW : Sub 0xe000000700000000000468000000000c000000000040239c0c W)  {q : L2Pend} {s : State} (hs : Only W s0 s) :
    Only W s0 (l2Timeout q s) := by
  unfold l2Timeout
  extract_lets +onlyGivenNames -merge -useContext -underBinder x1
  have hx1 : Only W s0 (x1) := by
    unfold x1
    refine only_l2Pend (sub_trans rfl hW) ?_ _
    exact hs
  try clear_value x1
  exact only_coreError (sub_trans rfl hW) (only_timeoutNote (sub_trans rfl hW) hx1)

theorem only_execFabricTimeout {W : Nat} {s0 : State} (hW : Sub 0x2000000000000400004e0000007224e2001000468000000200c1800000000ce339e0e W)  {src : Nat} {tag : Nat} {s : State} (hs : Only W s0 s) :
    OnlyOut W s0 (execFabricTimeout src tag s) := by
  unfold execFabricTimeout
  split
  · extract_lets +onlyGivenNames -merge -useContext -underBinder x1
    have hx1 : Only W s0 (x1) := by
      unfold x1
      refine only_txs (sub_trans rfl hW) ?_ _
      exact hs
    try clear_value x1
    exact only_next (only_completed (sub_trans rfl hW) (only_timeoutNote (sub_trans rfl hW) hx1))
  · split
    · exact only_next (only_sliceTimeout (sub_trans rfl hW) hs)
    · split
      · exact only_next (only_l2Timeout (sub_trans rfl hW) hs)
      · exact only_next hs

theorem only_execTagWithdraw {W : Nat} {s0 : State} (hW : Sub 0x200000000000000000000000011004 W)  {src : Nat} {tag : Nat} {s : State} (hs : Only W s0 s) :
    OnlyOut W s0 (execTagWithdraw src tag s) := by
  unfold execTagWithdraw
  extract_lets +onlyGivenNames -merge -useContext -underBinder x1
  have hx1 : ∀ y0, Only W s0 (y0) → Only W s0 (x1 y0) := by
    unfold x1
    intro y2 hy2
    exact only_State_satInc (sub_trans rfl hW) hy2
  try clear_value x1
  split
  · refine only_next ?_
    refine hx1 _ ?_
    refine only_txs (sub_trans rfl hW) ?_ _
    exact hs
  · split
    · refine only_next ?_
      refine hx1 _ ?_
      refine only_l2Pend (sub_trans rfl hW) ?_ _
      exact hs
    · exact only_next hs

end Sys2Proof.Machine
end

