-- ==== Sys2Proof/Laws/KeepMmio.lean ====
section
/-! SUPPORT. What the definitions of Machine/Mmio.lean leave alone: one lemma for each that answers a state. -/
namespace Sys2Proof.Machine

theorem only_regRead {W : Nat} {s0 : State} (hW : Sub 0x1000000000003000000000000000000000080000000000000000048000000008000126 W)  {a : Access} {g : Reg} {i : Nat} {s : State} (hs : Only W s0 s) :
    Only W s0 (regRead a g i s) := by
  unfold regRead
  split
  · exact only_State_answer (sub_trans rfl hW) hs
  · exact only_pinCapRead (sub_trans rfl hW) hs
  · exact only_batBufPop (sub_trans rfl hW) hs
  · exact only_ctrBufPop (sub_trans rfl hW) hs
  · exact only_msgRxPop (sub_trans rfl hW) hs
  · exact only_State_answer (sub_trans rfl hW) hs
  · exact only_State_bump (sub_trans rfl hW) (only_State_answer (sub_trans rfl hW) hs)
  · exact only_State_answer (sub_trans rfl hW) hs
  · exact only_State_answer (sub_trans rfl hW) hs
  · exact only_State_answer (sub_trans rfl hW) hs
  · exact only_State_answer (sub_trans rfl hW) hs
  · exact only_State_answer (sub_trans rfl hW) hs
  · exact only_State_answer (sub_trans rfl hW) hs
  · exact only_State_answer (sub_trans rfl hW) hs
  · exact only_State_answer (sub_trans rfl hW) hs

theorem only_wrClears {W : Nat} {s0 : State} {g : Reg} {i : Nat} {v : Word} {f : Fld} {also : State → State} (qg : Sub (regBit g) W) (halso : ∀ y0, Only W s0 (y0) → Only W s0 (also y0)) {s : State} (hs : Only W s0 s) :
    Only W s0 (wrClears g i v f also s) := by
  unfold wrClears
  extract_lets +onlyGivenNames -merge -useContext -underBinder x1
  have hx1 : Only W s0 (x1) := only_State_wr qg hs
  try clear_value x1
  refine only_ite ?_ ?_
  · refine halso _ ?_
    exact hx1
  · exact hx1

theorem only_rasPropWrite {W : Nat} {s0 : State} (hW : Sub 0x10000000000000000000000000000000000000000000000000000000000040000004 W)  {i : Nat} {v : Word} {s : State} (hs : Only W s0 s) :
    Only W s0 (rasPropWrite i v s) := by
  unfold rasPropWrite
  extract_lets +onlyGivenNames -merge -useContext -underBinder x1
  extract_lets +onlyGivenNames -merge -useContext -underBinder x2
  extract_lets +onlyGivenNames -merge -useContext -underBinder x3
  have hx3 : Only W s0 (x3) := only_State_wr (sub_trans rfl hW) hs
  try clear_value x3
  refine only_ite ?_ ?_
  · refine only_rasCoreUc (sub_trans rfl hW) ?_ _
    exact hx3
  · exact hx3

theorem only_devPartWrite {W : Nat} {s0 : State} (hW : Sub 0x28000000000000000000000000000000000000000000000004 W)  {a : Access} {e : Nat} {v : Word} {s : State} (hs : Only W s0 s) :
    Only W s0 (devPartWrite a e v s) := by
  unfold devPartWrite
  refine only_ite ?_ ?_
  · exact only_pqErr (sub_trans rfl hW) hs
  · extract_lets +onlyGivenNames -merge -useContext -underBinder x1
    extract_lets +onlyGivenNames -merge -useContext -underBinder x2
    extract_lets +onlyGivenNames -merge -useContext -underBinder x3
    have hx3 : Only W s0 (x3) := only_State_setB (sub_trans rfl hW) (only_State_wr (sub_trans rfl hW) hs)
    try clear_value x3
    refine only_ite ?_ ?_
    · exact hx3
    · exact only_State_setB (sub_trans rfl hW) hx3

theorem only_rasCtrlWrite {W : Nat} {s0 : State} (hW : Sub 0x100000000000000000000000000000000000000000000000000000000000000004 W)  {a : Access} {v : Word} {s : State} (hs : Only W s0 s) :
    Only W s0 (rasCtrlWrite a v s) := by
  unfold rasCtrlWrite
  extract_lets +onlyGivenNames -merge -useContext -underBinder x1
  extract_lets +onlyGivenNames -merge -useContext -underBinder x2
  have hx2 : Only W s0 (x2) := only_State_wr (sub_trans rfl hW) hs
  try clear_value x2
  refine only_ite ?_ ?_
  · exact hx2
  · exact only_State_setF (sub_trans rfl hW) hx2

theorem only_regWrite {W : Nat} {s0 : State} (hW : Sub 0x7ffffffffffffffffffffffffffffffffffffffffffffffffffffffffffffffffffffe W)  {a : Access} {g : Reg} {i : Nat} {v : Word} (qg : Sub (regBit g) W) {s : State} (hs : Only W s0 s) :
    Only W s0 (regWrite a g i v s) := by
  unfold regWrite
  split
  · exact only_portCfgWrite (sub_trans rfl hW) hs
  · exact only_portAuxWrite (sub_trans rfl hW) hs
  · exact only_portNominalWrite (sub_trans rfl hW) hs
  · exact only_portTodWrite (sub_trans rfl hW) hs
  · exact only_portCmdWrite (sub_trans rfl hW) hs
  · refine only_wrClears qg ?_ ?_
    · intro y1 hy1
      exact only_State_setF (sub_trans rfl hW) hy1
    · exact hs
  · exact only_calCtrlWrite (sub_trans rfl hW) hs
  · refine only_wrClears qg ?_ ?_
    · intro y2 hy2
      exact only_State_setF (sub_trans rfl hW) hy2
    · exact hs
  · exact only_calBlockWrite (sub_trans rfl hW) hs
  · split
    · exact only_editRead (sub_trans rfl hW) hs
    · exact only_editWrite (sub_trans rfl hW) hs
    · exact only_editDisarm (sub_trans rfl hW) hs
    · exact only_editPurge (sub_trans rfl hW) hs
    · exact hs
  · exact only_State_bump (sub_trans rfl hW) (only_pinCfgWrite (sub_trans rfl hW) hs)
  · refine only_wrClears qg ?_ ?_
    · intro y3 hy3
      exact only_State_setF (sub_trans rfl hW) hy3
    · exact hs
  · exact only_pinForce (sub_trans rfl hW) hs
  · refine only_wrClears qg ?_ ?_
    · intro y4 hy4
      exact only_State_setF (sub_trans rfl hW) (only_State_setF (sub_trans rfl hW) hy4)
    · exact hs
  · exact only_cacheCtrlWrite (sub_trans rfl hW) hs
  · exact only_rangeStart (sub_trans rfl hW) hs
  · exact only_rangeStart (sub_trans rfl hW) hs
  · refine only_wrClears qg ?_ ?_
    · intro y5 hy5
      exact only_State_setF (sub_trans rfl hW) hy5
    · exact hs
  · exact only_lockWrite (sub_trans rfl hW) hs
  · exact only_lockWrite (sub_trans rfl hW) hs
  · refine only_wrClears qg ?_ ?_
    · intro y6 hy6
      exact only_State_setF (sub_trans rfl hW) hy6
    · exact hs
  · exact only_mcCtrlWrite (sub_trans rfl hW) hs
  · exact only_creditSet (sub_trans rfl hW) hs
  · exact only_regionBaseWrite (sub_trans rfl hW) hs
  · exact only_regionCodeWrite (sub_trans rfl hW) hs
  · exact only_logCount (sub_trans rfl hW) (only_State_wr qg hs)
  · exact only_mcInitWrite (sub_trans rfl hW) hs
  · exact only_retireWrite (sub_trans rfl hW) hs
  · exact only_testWrite (sub_trans rfl hW) hs
  · exact only_testWrite (sub_trans rfl hW) hs
  · exact only_testWrite (sub_trans rfl hW) hs
  · exact only_testWrite (sub_trans rfl hW) hs
  · exact only_testWrite (sub_trans rfl hW) hs
  · exact only_epochWrite (sub_trans rfl hW) hs
  · exact only_rsvWrite (sub_trans rfl hW) hs
  · exact only_routeWrite (sub_trans rfl hW) hs
  · exact only_rtCmdWrite (sub_trans rfl hW) hs
  · exact only_batCtrlWrite (sub_trans rfl hW) hs
  · exact only_batCntWrite (sub_trans rfl hW) hs
  · exact only_brCtrlWrite (sub_trans rfl hW) hs
  · exact only_chCfgWrite (sub_trans rfl hW) hs
  · exact only_chCmd (sub_trans rfl hW) hs
  · exact only_evtWrite (sub_trans rfl hW) hs
  · exact only_chDescWrite (sub_trans rfl hW) hs
  · exact only_chProgReg (sub_trans rfl hW) qg hs
  · exact only_chProgReg (sub_trans rfl hW) qg hs
  · exact only_chProgReg (sub_trans rfl hW) qg hs
  · exact only_chProgReg (sub_trans rfl hW) qg hs
  · exact only_chProgReg (sub_trans rfl hW) qg hs
  · exact only_semWrite (sub_trans rfl hW) hs
  · exact only_dbgWrite (sub_trans rfl hW) hs
  · exact only_mittenSet (sub_trans rfl hW) hs
  · exact only_callWrite (sub_trans rfl hW) hs
  · exact only_mbCtrlWrite (sub_trans rfl hW) hs
  · refine only_ite ?_ ?_
    · exact hs
    · exact only_State_wr qg hs
  · refine only_ite ?_ ?_
    · exact only_partReset (sub_trans rfl hW) hs
    · exact hs
  · refine only_ite ?_ ?_
    · exact only_pqErr (sub_trans rfl hW) hs
    · exact only_State_wr qg hs
  · exact only_pqVfWrite (sub_trans rfl hW) hs
  · exact only_pqHartWrite (sub_trans rfl hW) hs
  · exact only_devPartWrite (sub_trans rfl hW) hs
  · exact only_pePortCfgWrite (sub_trans rfl hW) hs
  · refine only_worldKept (sub_trans rfl hW) ?_ ?_
    · intro y7 hy7
      exact only_peOwinWrite (sub_trans rfl hW) hy7
    · exact hs
  · exact only_peOwinWrite (sub_trans rfl hW) hs
  · exact only_peOwinWrite (sub_trans rfl hW) hs
  · refine only_worldKept (sub_trans rfl hW) ?_ ?_
    · intro y8 hy8
      exact only_State_wr qg hy8
    · exact hs
  · exact only_msixWrite (sub_trans rfl hW) hs
  · exact only_peCommitWrite (sub_trans rfl hW) hs
  · exact only_mbxCtrlWrite (sub_trans rfl hW) hs
  · exact only_mbxDataWrite (sub_trans rfl hW) hs
  · exact only_plPortCfgWrite (sub_trans rfl hW) hs
  · exact only_plCmdWrite (sub_trans rfl hW) hs
  · exact only_msgTxWrite (sub_trans rfl hW) hs
  · refine only_worldKept (sub_trans rfl hW) ?_ ?_
    · intro y9 hy9
      exact only_State_wr qg hy9
    · exact hs
  · refine only_worldKept (sub_trans rfl hW) ?_ ?_
    · intro y10 hy10
      exact only_plOwinWrite (sub_trans rfl hW) qg hy10
    · exact hs
  · exact only_plOwinWrite (sub_trans rfl hW) qg hs
  · exact only_plOwinWrite (sub_trans rfl hW) qg hs
  · refine only_worldKept (sub_trans rfl hW) ?_ ?_
    · intro y11 hy11
      exact only_State_wr qg hy11
    · exact hs
  · exact only_plCommitWrite (sub_trans rfl hW) hs
  · exact only_pwrCtrlWrite (sub_trans rfl hW) hs
  · exact only_pwrReqWrite (sub_trans rfl hW) hs
  · exact only_stCtrlWrite (sub_trans rfl hW) hs
  · exact only_lmbCtrlWrite (sub_trans rfl hW) hs
  · refine only_ite ?_ ?_
    · exact hs
    · exact only_State_wr qg hs
  · exact only_rasCtrlWrite (sub_trans rfl hW) hs
  · exact only_tailMove (sub_trans rfl hW) hs
  · exact only_rasPropWrite (sub_trans rfl hW) hs
  · exact only_testHoldWrite (sub_trans rfl hW) hs
  · exact only_State_wr qg hs

theorem only_regAccess {W : Nat} {s0 : State} (hW : Sub 0x7ffffffffffffffffffffffffffffffffffffffffffffffffffffffffffffffffffffe W)  {a : Access} {write : Bool} {g : Reg} {i : Nat} {addr : Nat} {size : Nat} {v : Word} (qg : Sub (regBit g) W) {s : State} (hs : Only W s0 s) :
    Only W s0 (regAccess a write g i addr size v s) := by
  unfold regAccess
  refine only_ite ?_ ?_
  · exact only_State_answerErr (sub_trans rfl hW) hs
  · extract_lets +onlyGivenNames -merge -useContext -underBinder x1
    have hx1 : ∀ y0, Only W s0 (y0) → Only W s0 (x1 y0) := by
      unfold x1
      intro y2 hy2
      split
      · exact only_regWrite (sub_trans rfl hW) qg hy2
      · exact only_regRead (sub_trans rfl hW) hy2
    try clear_value x1
    split
    · refine only_guardedCd (sub_trans rfl hW) ?_ ?_
      · intro y3 hy3
        exact hx1 _ hy3
      · exact hs
    · refine only_guarded (sub_trans rfl hW) ?_ ?_
      · intro y4 hy4
        exact hx1 _ hy4
      · exact hs

theorem only_aplicAccess {W : Nat} {s0 : State} (hW : Sub 0xe000000700000000000000000000000000000000000020002c W)  {a : Access} {write : Bool} {addr : Nat} {size : Nat} {v : Word} {s : State} (hs : Only W s0 s) :
    Only W s0 (aplicAccess a write addr size v s) := by
  unfold aplicAccess
  extract_lets +onlyGivenNames -merge -useContext -underBinder x1
  extract_lets +onlyGivenNames -merge -useContext -underBinder x2
  refine only_ite ?_ ?_
  · exact only_State_answerErr (sub_trans rfl hW) hs
  · refine only_ite ?_ ?_
    · exact only_State_answerErr (sub_trans rfl hW) (only_denyWorld (sub_trans rfl hW) hs)
    · refine only_ite ?_ ?_
      · exact only_State_answerErr (sub_trans rfl hW) (only_denyPart (sub_trans rfl hW) hs)
      · refine only_ite ?_ ?_
        · exact only_aplicWrite (sub_trans rfl hW) (only_State_answer (sub_trans rfl hW) hs)
        · exact only_State_answer (sub_trans rfl hW) hs

theorem only_iommuAccess {W : Nat} {s0 : State} (hW : Sub 0xe0000000000000000000000000000000000000000001000024 W)  {a : Access} {write : Bool} {addr : Nat} {size : Nat} {v : Word} {s : State} (hs : Only W s0 s) :
    Only W s0 (iommuAccess a write addr size v s) := by
  unfold iommuAccess
  extract_lets +onlyGivenNames -merge -useContext -underBinder x1
  refine only_ite ?_ ?_
  · exact only_State_answerErr (sub_trans rfl hW) hs
  · refine only_ite ?_ ?_
    · exact only_State_answerErr (sub_trans rfl hW) (only_denyPart (sub_trans rfl hW) hs)
    · refine only_ite ?_ ?_
      · extract_lets +onlyGivenNames -merge -useContext -underBinder x2
        have hx2 : Only W s0 (x2) := only_iommuWrite (sub_trans rfl hW) (only_State_answer (sub_trans rfl hW) hs)
        try clear_value x2
        refine only_ite ?_ ?_
        · exact only_iommuWrite (sub_trans rfl hW) hx2
        · exact hx2
      · exact only_State_answer (sub_trans rfl hW) hs

theorem only_dmAccess {W : Nat} {s0 : State} (hW : Sub 0xe000000700000000000428000000000000000000008003142e W)  {a : Access} {write : Bool} {addr : Nat} {size : Nat} {v : Word} {s : State} (hs : Only W s0 s) :
    Only W s0 (dmAccess a write addr size v s) := by
  unfold dmAccess
  extract_lets +onlyGivenNames -merge -useContext -underBinder x1
  refine only_ite ?_ ?_
  · exact only_State_answerErr (sub_trans rfl hW) hs
  · refine only_ite ?_ ?_
    · exact only_State_answerErr (sub_trans rfl hW) (only_denyWorld (sub_trans rfl hW) hs)
    · refine only_ite ?_ ?_
      · exact only_State_answerErr (sub_trans rfl hW) (only_denyPart (sub_trans rfl hW) hs)
      · extract_lets +onlyGivenNames -merge -useContext -underBinder x2
        refine only_ite ?_ ?_
        · exact only_dmWrite (sub_trans rfl hW) (only_State_answer (sub_trans rfl hW) hs)
        · split
          · rename_i e3
            replace e3 := congrArg Prod.snd e3
            dsimp only at e3
            refine only_of_eq (W := W) (s0 := s0) e3 ?_ (fun k4 => ?_)
            · exact only_dmRead (sub_trans rfl hW) hs
            refine only_State_answer (sub_trans rfl hW) ?_
            assumption

theorem only_imsicAccess {W : Nat} {s0 : State} (hW : Sub 0x1e0000007000000000000000000000000000000000000000424 W)  {a : Access} {write : Bool} {addr : Nat} {size : Nat} {v : Word} {s : State} (hs : Only W s0 s) :
    Only W s0 (imsicAccess a write addr size v s) := by
  unfold imsicAccess
  split
  · exact only_State_answer (sub_trans rfl hW) hs
  · refine only_ite ?_ ?_
    · exact only_State_answer (sub_trans rfl hW) hs
    · refine only_ite ?_ ?_
      · refine only_State_answerErr (sub_trans rfl hW) ?_
        refine only_ite ?_ ?_
        · exact only_imsicLost (sub_trans rfl hW) hs
        · exact hs
      · refine only_ite ?_ ?_
        · exact only_State_answerErr (sub_trans rfl hW) hs
        · extract_lets +onlyGivenNames -merge -useContext -underBinder x1
          extract_lets +onlyGivenNames -merge -useContext -underBinder x2
          refine only_ite ?_ ?_
          · exact only_imsicWrite (sub_trans rfl hW) hs
          · refine only_ite ?_ ?_
            · exact only_imsicWrite (sub_trans rfl hW) hs
            · exact only_State_answer (sub_trans rfl hW) hs

theorem only_mmio {W : Nat} {s0 : State} (hW : Sub 0x7ffffffffffffffffffffffffffffffffffffffffffffffffffffffffffffffffffffe W)  {a : Access} {write : Bool} {addr : Nat} {size : Nat} {v : Word} {s : State} (hs : Only W s0 s) :
    Only W s0 (mmio a write addr size v s) := by
  unfold mmio
  refine only_ite ?_ ?_
  · exact only_aplicAccess (sub_trans rfl hW) hs
  · refine only_ite ?_ ?_
    · exact only_iommuAccess (sub_trans rfl hW) hs
    · refine only_ite ?_ ?_
      · exact only_dmAccess (sub_trans rfl hW) hs
      · refine only_ite ?_ ?_
        · exact only_imsicAccess (sub_trans rfl hW) hs
        · split
          · exact only_regAccess (sub_trans rfl hW) (all_regs rfl hW) hs
          · split
            · refine only_ite ?_ ?_
              · exact only_State_answer (sub_trans rfl hW) hs
              · exact only_State_answerErr (sub_trans rfl hW) hs
            · exact only_State_answer (sub_trans rfl hW) hs
            · exact only_State_answerErr (sub_trans rfl hW) hs

theorem only_execRegisterWrite {W : Nat} {s0 : State} (hW : Sub 0x7ffffffffffffffffffffffffffffffffffffffffffffffffffffffffffffffffffffe W)  {a : Access} {addr : Nat} {size : Nat} {v : Word} {s : State} (hs : Only W s0 s) :
    OnlyOut W s0 (execRegisterWrite a addr size v s) := by
  unfold execRegisterWrite
  exact only_next (only_mmio (sub_trans rfl hW) hs)

theorem only_ioMmio {W : Nat} {s0 : State} (hW : Sub 0x7ffffffffffffffffffffffffffffffffffffffffffffffffffffffffffffffffffffe W)  {p : Packet} {s : State} (hs : Only W s0 s) :
    Only W s0 (ioMmio p s) := by
  unfold ioMmio
  split
  · extract_lets +onlyGivenNames -merge -useContext -underBinder x1
    extract_lets +onlyGivenNames -merge -useContext -underBinder x2
    extract_lets +onlyGivenNames -merge -useContext -underBinder x3
    extract_lets +onlyGivenNames -merge -useContext -underBinder x4
    refine only_ite ?_ ?_
    · exact only_ioReply (sub_trans rfl hW) hs
    · extract_lets +onlyGivenNames -merge -useContext -underBinder x5
      extract_lets +onlyGivenNames -merge -useContext -underBinder x6
      have hx6 : Only W s0 (x6) := only_mmio (sub_trans rfl hW) hs
      try clear_value x6
      refine only_ioReply (sub_trans rfl hW) ?_
      refine only_resp (sub_trans rfl hW) ?_ _
      exact hx6

theorem only_ioArrive {W : Nat} {s0 : State} (hW : Sub 0x7ffffffffffffffffffffffffffffffffffffffffffffffffffffffffffffffffffffe W)  {p : Packet} {s : State} (hs : Only W s0 s) :
    Only W s0 (ioArrive p s) := by
  unfold ioArrive
  extract_lets +onlyGivenNames -merge -useContext -underBinder x1
  have hx1 : Only W s0 (x1) := only_State_take (sub_trans rfl hW) hs
  try clear_value x1
  refine only_ite ?_ ?_
  · exact hs
  · split
    · exact only_haRequest (sub_trans rfl hW) hs
    · exact only_peOut (sub_trans rfl hW) hx1
    · exact only_plOut (sub_trans rfl hW) hx1
    · exact only_ioReply (sub_trans rfl hW) hx1
    · exact only_ioMmio (sub_trans rfl hW) hx1
    · exact only_ioMmio (sub_trans rfl hW) hx1

theorem only_execRdIO {W : Nat} {s0 : State} (hW : Sub 0x7ffffffffffffffffffffffffffffffffffffffffffffffffffffffffffffffffffffe W)  {p : Packet} {s : State} (hs : Only W s0 s) :
    OnlyOut W s0 (execRdIO p s) := by
  unfold execRdIO
  exact only_next (only_ioArrive (sub_trans rfl hW) hs)

theorem only_execWrIO {W : Nat} {s0 : State} (hW : Sub 0x7ffffffffffffffffffffffffffffffffffffffffffffffffffffffffffffffffffffe W)  {p : Packet} {s : State} (hs : Only W s0 s) :
    OnlyOut W s0 (execWrIO p s) := by
  unfold execWrIO
  exact only_next (only_ioArrive (sub_trans rfl hW) hs)

end Sys2Proof.Machine
end

