-- ==== Sys2Proof/Laws/KeepTick.lean ====
section
/-! SUPPORT. What the definitions of Machine/Tick.lean leave alone: one lemma for each that answers a state. -/
namespace Sys2Proof.Machine

theorem only_blockTick {W : Nat} {s0 : State} (hW : Sub 0x12302000800004400000010000000000002900000800f02100000880384610d987efde W)   {s : State} (hs : Only W s0 s) :
    Only W s0 (blockTick s) := by
  unfold blockTick
  refine only_batCycle (sub_trans rfl hW) ?_
  refine only_ctrCycle (sub_trans rfl hW) ?_
  refine only_phsCycle (sub_trans rfl hW) ?_
  refine only_iter (fun x t ht => ?_) ?_
  · refine only_haltTry (sub_trans rfl hW) ?_
    assumption
  · refine only_iter (fun x t ht => ?_) ?_
    · refine only_hartRenew (sub_trans rfl hW) ?_
      assumption
    · exact only_absRetry (sub_trans rfl hW) (only_iommuLog (sub_trans rfl hW) hs)

end Sys2Proof.Machine
end

