-- ==== Sys2Proof/Laws/KeepTight.lean ====
section
/-! SUPPORT. Commands that share an operation whose other commands reset the package: what each of them leaves alone. -/
namespace Sys2Proof.Machine

theorem only_critRun_of {W : Nat} {s0 : State} {o : Nat} (hW : Sub 0x4000000002980000000000000000000000000000000000006840000e W) (ho : ¬(o = 0x206 ∨ o = 0x207))
    (hdo : ∀ c t, c.opcode = o → Only W s0 t → Only W s0 (critDo c t)) {fails : Bool} {s : State} (hs : Only W s0 s) :
    Only W s0 (critRun o fails s) := by
  unfold critRun helmRun
  split
  · exact hs
  · next m _ =>
    extract_lets +onlyGivenNames -merge -useContext c
    by_cases hc : c.opcode = o
    · refine only_ite hs (only_ite (only_finish (sub_trans rfl hW) hs) (only_ite (only_finish (sub_trans rfl hW) hs)
        (only_ite (only_finish (sub_trans rfl hW) hs) ?_)))
      dsimp only
      refine only_ite (only_finish (sub_trans rfl hW) hs) (only_ite (only_finish (sub_trans rfl hW) hs)
        (only_ite (only_helm (sub_trans rfl hW) hs _) ?_))
      unfold critCheck
      extract_lets +onlyGivenNames -merge -useContext key x
      have hx : Only W s0 x := only_State_setF (sub_trans rfl hW) hs
      clear_value x
      refine only_ite (only_finish (sub_trans rfl hW) (only_State_satInc (sub_trans rfl hW) hs))
        (only_ite (only_finish (sub_trans rfl hW) hx) (only_ite (only_finish (sub_trans rfl hW) (only_storeFailure (sub_trans rfl hW) hx)) ?_))
      extract_lets +onlyGivenNames -merge -useContext ok y
      have hy : Only W s0 y := only_State_setR (sub_trans rfl hW) hx
      clear_value y
      refine only_ite ?_ (only_finish (sub_trans rfl hW) hy)
      rw [critReset, if_neg (hc ▸ ho)]
      exact only_finish (sub_trans rfl hW) (hdo _ _ hc hy)
    · rw [if_pos (Or.inl hc)]
      exact hs

theorem only_rackRun_of {W : Nat} {s0 : State} {pecOk : Bool} {code n d : Nat} (hW : Sub 0x8000000000000000000000000000000000000000000000000000000020000004 W) {s : State} (hs : Only W s0 s)
    (hx : Only W s0 (lanExec code false n d s).2) : Only W s0 (rackRun pecOk code n d s) := by
  unfold rackRun
  refine only_ite hs (only_ite (only_State_satInc (sub_trans rfl hW) hs) ?_)
  exact only_rack (sub_trans rfl hW) hx _

theorem tight_execHelmDbgSet {W : Nat} {s0 : State} (hW : Sub 0x40000000029800800000000000000000000000000000000068400c0e W) {fails : Bool} {s : State} (hs : Only W s0 s) :
    OnlyOut W s0 (execHelmDbgSet fails s) := by
  refine only_next (only_critRun_of (sub_trans rfl hW) (by decide) (fun c t hc ht => ?_) hs)
  unfold critDo
  rw [hc]
  dsimp only
  exact only_ite (only_leaveApproved (sub_trans rfl hW) (only_State_setB (sub_trans rfl hW) (only_dbgSet (sub_trans rfl hW) ht))) (only_ite (only_State_setB (sub_trans rfl hW) (only_dbgSet (sub_trans rfl hW) ht)) (only_dbgSet (sub_trans rfl hW) ht))

theorem tight_execCoreRetire {W : Nat} {s0 : State} (hW : Sub 0x100000000004000000002980000000000000000000000000000000000006840000e W) {fails : Bool} {s : State} (hs : Only W s0 s) :
    OnlyOut W s0 (execCoreRetire fails s) := by
  refine only_next (only_critRun_of (sub_trans rfl hW) (by decide) (fun c t hc ht => ?_) hs)
  unfold critDo
  rw [hc]
  dsimp only
  exact only_State_setFbit (sub_trans rfl hW) (only_repairAdd (sub_trans rfl hW) ht)

theorem tight_execLaneCommit {W : Nat} {s0 : State} (hW : Sub 0x100000000004000000002980000000000000000000000000000000000006840000e W) {fails : Bool} {s : State} (hs : Only W s0 s) :
    OnlyOut W s0 (execLaneCommit fails s) := by
  refine only_next (only_critRun_of (sub_trans rfl hW) (by decide) (fun c t hc ht => ?_) hs)
  unfold critDo
  rw [hc]
  dsimp only
  exact only_repairAdd (sub_trans rfl hW) ht

theorem tight_execRowCommit {W : Nat} {s0 : State} (hW : Sub 0x100000000004000000002980000000000000000000000000000000000006840000e W) {fails : Bool} {s : State} (hs : Only W s0 s) :
    OnlyOut W s0 (execRowCommit fails s) := by
  refine only_next (only_critRun_of (sub_trans rfl hW) (by decide) (fun c t hc ht => ?_) hs)
  unfold critDo
  rw [hc]
  dsimp only
  exact only_repairAdd (sub_trans rfl hW) ht

theorem tight_execStartCfg {W : Nat} {s0 : State} (hW : Sub 0x4000000002980000000000000000000000000000000000006840000e W) {fails : Bool} {s : State} (hs : Only W s0 s) :
    OnlyOut W s0 (execStartCfg fails s) := by
  refine only_next (only_critRun_of (sub_trans rfl hW) (by decide) (fun c t hc ht => ?_) hs)
  unfold critDo
  rw [hc]
  dsimp only
  exact only_helm (sub_trans rfl hW) ht _

theorem tight_execImageKeySet {W : Nat} {s0 : State} (hW : Sub 0x4000000002980000000000000000000000000000000000006840000e W) {fails : Bool} {s : State} (hs : Only W s0 s) :
    OnlyOut W s0 (execImageKeySet fails s) := by
  refine only_next (only_critRun_of (sub_trans rfl hW) (by decide) (fun c t hc ht => ?_) hs)
  unfold critDo
  rw [hc]
  dsimp only
  exact only_helm (sub_trans rfl hW) ht _

theorem tight_execKeyRotate {W : Nat} {s0 : State} (hW : Sub 0x4000000002980000000000000000000000000000000000006840000e W) {fails : Bool} {s : State} (hs : Only W s0 s) :
    OnlyOut W s0 (execKeyRotate fails s) := by
  refine only_next (only_critRun_of (sub_trans rfl hW) (by decide) (fun c t hc ht => ?_) hs)
  unfold critDo
  rw [hc]
  dsimp only
  exact only_helm (sub_trans rfl hW) ht _

theorem tight_execModeSet {W : Nat} {s0 : State} (hW : Sub 0x4000000002980000000000000000000000000000000000006840000e W) {fails : Bool} {s : State} (hs : Only W s0 s) :
    OnlyOut W s0 (execModeSet fails s) := by
  refine only_next (only_critRun_of (sub_trans rfl hW) (by decide) (fun c t hc ht => ?_) hs)
  unfold critDo
  rw [hc]
  dsimp only
  exact only_ite (only_helm (sub_trans rfl hW) (only_State_setB (sub_trans rfl hW) ht) _) (only_leaveApproved (sub_trans rfl hW) ht)

theorem tight_execZeroize {W : Nat} {s0 : State} (hW : Sub 0x4000000002980000000000000000000000000000000000006840000e W) {fails : Bool} {s : State} (hs : Only W s0 s) :
    OnlyOut W s0 (execZeroize fails s) := by
  refine only_next (only_critRun_of (sub_trans rfl hW) (by decide) (fun c t hc ht => ?_) hs)
  unfold critDo
  rw [hc]
  dsimp only
  exact only_helm (sub_trans rfl hW) (only_leaveApproved (sub_trans rfl hW) (only_State_setB (sub_trans rfl hW) ht)) _

theorem lanExec_flashRead (lmb : Bool) (n d : Nat) (s : State) : (lanExec 0x30 lmb n d s).2 = s := by
  unfold lanExec
  by_cases h : s.flashOp.isSome = true
  · rw [if_pos h]
  · rw [if_neg h]
    simp only
    split <;> rfl

theorem lanExec_mbWrite (lmb : Bool) (n d : Nat) (s : State) : (lanExec 0x10 lmb n d s).2 = s ∨
    (lanExec 0x10 lmb n d s).2 = bufWrite .HELM_MB_REQ 2 (d % 65536) (n - 2) (d / 65536) s := by
  unfold lanExec
  by_cases h : s.flashOp.isSome = true
  · rw [if_pos h]
    exact .inl rfl
  · rw [if_neg h]
    simp only
    split
    · exact .inl rfl
    · split
      · exact .inl rfl
      · exact .inr rfl

theorem tight_execGetStart {W : Nat} {s0 : State} (hW : Sub 0x8000000000000000000000000000000000000000000000000000000020000004 W) {pecOk : Bool} {s : State} (hs : Only W s0 s) :
    OnlyOut W s0 (execGetStart pecOk s) := by
  refine only_next (only_rackRun_of (sub_trans rfl hW) hs ?_)
  unfold lanExec
  exact only_ite_snd hs hs

theorem tight_execGetEvlog {W : Nat} {s0 : State} (hW : Sub 0x8000000000000000000000000000000000000000000000000000000020000004 W) {pecOk : Bool} {index : Nat} {s : State} (hs : Only W s0 s) :
    OnlyOut W s0 (execGetEvlog pecOk index s) := by
  refine only_next (only_rackRun_of (sub_trans rfl hW) hs ?_)
  unfold lanExec
  exact only_ite_snd hs (only_ite_snd hs hs)

theorem tight_execGetResult {W : Nat} {s0 : State} (hW : Sub 0x8000000000000000000000000000000000000000000000000000000020000004 W) {pecOk : Bool} {s : State} (hs : Only W s0 s) :
    OnlyOut W s0 (execGetResult pecOk s) := by
  refine only_next (only_rackRun_of (sub_trans rfl hW) hs ?_)
  unfold lanExec
  exact only_ite_snd hs hs

theorem tight_execMbStatus {W : Nat} {s0 : State} (hW : Sub 0x8000000000000000000000000000000000000000000000000000000020000004 W) {pecOk : Bool} {s : State} (hs : Only W s0 s) :
    OnlyOut W s0 (execMbStatus pecOk s) := by
  refine only_next (only_rackRun_of (sub_trans rfl hW) hs ?_)
  unfold lanExec
  exact only_ite_snd hs hs

theorem tight_execFlashRead {W : Nat} {s0 : State} (hW : Sub 0x8000000000000000000000000000000000000000000000000000000020000004 W) {pecOk : Bool} {addr : Nat} {n : Nat} {s : State} (hs : Only W s0 s) :
    OnlyOut W s0 (execFlashRead pecOk addr n s) := by
  refine only_next (only_rackRun_of (sub_trans rfl hW) hs ?_)
  rw [lanExec_flashRead]
  exact hs

theorem tight_execFlashErase {W : Nat} {s0 : State} (hW : Sub 0x8000000000000000000000000000000000000000000000000000000020000004 W) {pecOk : Bool} {addr : Nat} {s : State} (hs : Only W s0 s) :
    OnlyOut W s0 (execFlashErase pecOk addr s) := by
  refine only_next (only_rackRun_of (sub_trans rfl hW) hs ?_)
  unfold lanExec
  exact only_ite_snd hs (only_ite_snd hs (only_ite_snd hs (only_flashOp (sub_trans rfl hW) hs _)))

theorem tight_execFlashWrite {W : Nat} {s0 : State} (hW : Sub 0x8000000000000000000000000000000000000000000000000000000020000004 W) {pecOk : Bool} {addr : Nat} {n : Nat} {data : Nat} {s : State} (hs : Only W s0 s) :
    OnlyOut W s0 (execFlashWrite pecOk addr n data s) := by
  refine only_next (only_rackRun_of (sub_trans rfl hW) hs ?_)
  unfold lanExec
  exact only_ite_snd hs (only_ite_snd hs (only_ite_snd hs (only_flashOp (sub_trans rfl hW) hs _)))

theorem tight_execMbWrite {W : Nat} {s0 : State} (hW : Sub 0x8000000000000000010000000000000000000000000000000000000020000004 W) {pecOk : Bool} {off : Nat} {n : Nat} {data : Nat} {s : State} (hs : Only W s0 s) :
    OnlyOut W s0 (execMbWrite pecOk off n data s) := by
  refine only_next (only_rackRun_of (sub_trans rfl hW) hs ?_)
  rcases lanExec_mbWrite false (n + 2) (off % 65536 + data % 256 ^ n * 65536) s with e | e <;> rw [e]
  · exact hs
  · exact only_bufWrite (sub_trans rfl hW) hs

theorem tight_execMbRead {W : Nat} {s0 : State} (hW : Sub 0x8000000000000000008000000000000000000000000000000000000020000004 W) {pecOk : Bool} {off : Nat} {s : State} (hs : Only W s0 s) :
    OnlyOut W s0 (execMbRead pecOk off s) := by
  refine only_next (only_rackRun_of (sub_trans rfl hW) hs ?_)
  unfold lanExec
  exact only_ite_snd hs (only_ite (only_State_setB (sub_trans rfl hW) hs) hs)

theorem tight_execMbRing {W : Nat} {s0 : State} (hW : Sub 0x800000004000000002c80000000000000000000000000000000000002840000e W) {pecOk : Bool} {len : Nat} {s : State} (hs : Only W s0 s) :
    OnlyOut W s0 (execMbRing pecOk len s) := by
  refine only_next (only_rackRun_of (sub_trans rfl hW) hs ?_)
  unfold lanExec
  exact only_ite_snd hs (only_ite_snd hs (only_mbDoorbell (sub_trans rfl hW) (only_State_setF (sub_trans rfl hW) hs)))

end Sys2Proof.Machine
end

