-- ==== Sys2Proof/Laws/Memory.lean ====
section
/-! SUPPORT. The laws of memory: a read after a write, other bytes, and the canonical form. -/
namespace Sys2Proof.Machine

/-- A byte read after a byte write. -/
theorem State.byte_setByte (s : State) (a b : Nat) (v : Byte) :
    (s.setByte a v).byte b = if b = a then v else s.byte b := by
  simp only [State.byte, State.setByte, smapGet_set]

/-- A byte outside the bytes written keeps its value. -/
theorem State.byte_setBytes_ne (n : Nat) : ∀ (s : State) (a v b : Nat), b < a ∨ a + n ≤ b →
    (s.setBytes a n v).byte b = s.byte b := by
  induction n with
  | zero => exact fun _ _ _ _ _ => rfl
  | succ n ih =>
    intro s a v b h
    rw [State.setBytes, ih _ _ _ _ (by omega), State.byte_setByte, if_neg (by omega)]

/-- The bytes written, low byte first. -/
theorem State.byte_setBytes (n : Nat) : ∀ (s : State) (a v k : Nat), k < n →
    (s.setBytes a n v).byte (a + k) = BitVec.ofNat 8 (v / 256 ^ k) := by
  induction n with
  | zero => intro _ _ _ _ h; omega
  | succ n ih =>
    intro s a v k h
    rw [State.setBytes]
    cases k with
    | zero =>
      rw [State.byte_setBytes_ne _ _ _ _ _ (by omega), State.byte_setByte]
      simp
    | succ k =>
      rw [show a + (k + 1) = a + 1 + k by omega, ih _ _ _ _ (by omega), Nat.div_div_eq_div_mul, Nat.pow_succ, Nat.mul_comm]

/-- A byte write keeps the canonical form. -/
theorem memWf_setByte (s : State) (a : Nat) (v : Byte) (h : memWf s.mem = true) : memWf (s.setByte a v).mem = true :=
  smapWf_set _ _ _ h

/-- Every write of bytes keeps the canonical form. -/
theorem memWf_setBytes (n : Nat) : ∀ (s : State) (a v : Nat), memWf s.mem = true → memWf (s.setBytes a n v).mem = true := by
  induction n with
  | zero => exact fun _ _ _ h => h
  | succ n ih => exact fun s a v h => ih _ _ _ (memWf_setByte s a _ h)

end Sys2Proof.Machine
end

