-- ==== Sys2Proof/WellFormed.lean ====
section
/-! DEFINITION. Which terms of the syntax are commands: each operand within the range that the spec gives it. A packet
command carries the opcode of its row. -/
namespace Sys2Proof

/-- A partition number (R267 to R268: a 6-bit PART). -/
def partOk (n : Nat) : Bool := decide (n < 64)

/-- An agent ID (R266). -/
def agentOk (n : Nat) : Bool := decide (n < 512)

/-- A hart ID (R30). -/
def hartOk (n : Nat) : Bool := decide (n < 256)

/-- A core position, 20 to a compute die (R30). -/
def coreOk (n : Nat) : Bool := decide (n < 240)

/-- A compute die: CD0 to CD11. -/
def dieOk (n : Nat) : Bool := decide (n < 12)

/-- A compute die, or 12 for the IOD. -/
def anyDieOk (n : Nat) : Bool := decide (n < 13)

/-- A phase port, PCIe port or Paleg port. -/
def portOk (n : Nat) : Bool := decide (n < 8)

/-- A timed pin: TIO0 to TIO63. -/
def pinOk (n : Nat) : Bool := decide (n < 64)

/-- A calendar block (R66) or a page-retirement register (R262). -/
def blockOk (n : Nat) : Bool := decide (n < 256)

/-- A calendar entry (R66). -/
def entryOk (n : Nat) : Bool := decide (n < 65536)

/-- An edit or request port: 2p + w (R68). -/
def editOk (n : Nat) : Bool := decide (n < 128)

/-- A DMA channel, 64 to an engine (R324). -/
def chanOk (n : Nat) : Bool := decide (n < 256)

/-- A DMA engine. -/
def engineOk (n : Nat) : Bool := decide (n < 4)

/-- A word of a program store (R325). -/
def progOk (n : Nat) : Bool := decide (n < 8192)

/-- A semaphore, 64 to an engine (R340). -/
def semOk (n : Nat) : Bool := decide (n < 256)

/-- An event bit of a channel (DE_CH_EVT.PEND has 8). -/
def evtOk (n : Nat) : Bool := decide (n < 8)

/-- A range engine: that of a core position, or 240 + n of the L3 of CDn (R158). -/
def rangeOk (n : Nat) : Bool := decide (n < 252)

/-- A memory controller (R218): MC0 to MC15. -/
def mcOk (n : Nat) : Bool := decide (n < 16)

/-- A sub-channel (R218). -/
def subOk (n : Nat) : Bool := decide (n < 4)

/-- A bank window (R226). -/
def bankWinOk (n : Nat) : Bool := decide (n < 16)

/-- A region (R239). -/
def sixty4 (n : Nat) : Bool := decide (n < 64)

/-- A trace domain of the bats: the IOD or a die. -/
def domainOk (n : Nat) : Bool := decide (n < 13)

/-- A bat (R290). -/
def batOk (n : Nat) : Bool := decide (n < 112)

/-- An outbound window, 16 to a PCIe port (R453). -/
def owinOk (n : Nat) : Bool := decide (n < 128)

/-- A word of an outbound window (R476). -/
def owinWordOk (n : Nat) : Bool := decide (n < 3)

/-- A link of a PCIe port. -/
def linkOk (n : Nat) : Bool := decide (n < 4)

/-- A PCIe function: the physical one or one of 32 virtual ones. -/
def fnOk (n : Nat) : Bool := decide (n < 33)

/-- A result mailbox of a function (R467). -/
def resultOk (n : Nat) : Bool := decide (n < 16)

/-- A Helm mailbox (R406). -/
def mailboxOk (n : Nat) : Bool := decide (n < 5)

/-- A key slot as a request names it (R395). -/
def slotOk (n : Nat) : Bool := decide (n < 256)

/-- A power die (R513). -/
def powerDieOk (n : Nat) : Bool := decide (n < 2)

/-- A unit number as PWR_REQ.UNIT holds it. -/
def unitOk (n : Nat) : Bool := decide (n < 512)

/-- A register number of an instruction. -/
def regOk (n : Nat) : Bool := decide (n < 32)

/-- A CSR number. -/
def csrOk (n : Nat) : Bool := decide (n < 4096)

/-- Write, set or clear of a CSR instruction. -/
def csrOpOk (n : Nat) : Bool := decide (n < 3)

/-- An atomic operation in the order of R232. -/
def amoOk (n : Nat) : Bool := decide (n < 9)

/-- A deadline monitor (R132) or a selector of TK.ARG (R138). -/
def monOk (n : Nat) : Bool := decide (n < 4)

/-- A predecessor or successor set of FENCE. -/
def fenceOk (n : Nat) : Bool := decide (n < 16)

/-- The level of an xRET: S or M. -/
def lvlOk (n : Nat) : Bool := decide (n = 1 ∨ n = 3)

/-- A task descriptor index (R135). -/
def descOk (n : Nat) : Bool := decide (n < 65536)

/-- A line address (R219). -/
def lineOk (n : Nat) : Bool := decide (n < 2 ^ 48 ∧ n % 64 = 0)

/-- A physical address of 48 bits. -/
def addrOk (n : Nat) : Bool := decide (n < 2 ^ 48)

/-- The size of a register access or system bus access in bytes. -/
def sizeOk (n : Nat) : Bool := decide (n = 1 ∨ n = 2 ∨ n = 4 ∨ n = 8)

/-- A transaction tag (R268). -/
def tagOk (n : Nat) : Bool := decide (n < 1024)

/-- A position on a die (R26). -/
def posOk (n : Nat) : Bool := decide (n < 20)

/-- An IMSIC interrupt file (R438). -/
def fileOk (n : Nat) : Bool := decide (n < 10)

/-- An interrupt identity (R438). -/
def eiidOk (n : Nat) : Bool := decide (n < 2048)

/-- A wired interrupt source (R442). -/
def sourceOk (n : Nat) : Bool := decide (n < 1024)

/-- A sequence number of a link. -/
def seqOk (n : Nat) : Bool := decide (n < 4096)

/-- A dword of configuration space. -/
def dwordOk (n : Nat) : Bool := decide (n < 1024)

/-- A set of compute dies. -/
def diesOk (n : Nat) : Bool := decide (n < 4096)

/-- A set of SIBs (R577). -/
def sibsOk (n : Nat) : Bool := decide (n < 64)

/-- What the ECC of a program word finds: 0 nothing, 1 a corrected error, 2 an uncorrectable one (R325). -/
def eccOk (n : Nat) : Bool := decide (n < 3)

/-- The op field of DMI. -/
def dmiOpOk (n : Nat) : Bool := decide (n < 4)

/-- The address field of DMI. -/
def dmiAddrOk (n : Nat) : Bool := decide (n < 128)

/-- A flash address as a request carries it (R548). -/
def flashOk (n : Nat) : Bool := decide (n < 2 ^ 32)

/-- An I3C address. -/
def i3cOk (n : Nat) : Bool := decide (n < 128)

/-- A byte of a rack request. -/
def byteOk (n : Nat) : Bool := decide (n < 256)

/-- The data bytes of MB_WRITE. -/
def rackBytesOk (n : Nat) : Bool := decide (n ≤ 256)

/-- The data bytes of FLASH_WRITE. -/
def flashBytesOk (n : Nat) : Bool := decide (n ≤ 256)

/-- The size of a memory access of an instruction. -/
def memSizeOk (n : Nat) : Bool := decide (n = 1 ∨ n = 2 ∨ n = 4 ∨ n = 8 ∨ n = 16 ∨ n = 32 ∨ n = 64)

/-- The size of an atomic. -/
def amoSize (n : Nat) : Bool := decide (n = 4 ∨ n = 8)

/-- A lock register: 4 to the L3 of a die, 2 to a core (R155). -/
def lockOk (isL3 : Bool) (n : Nat) : Bool := if isL3 then decide (n < 48) else decide (n < 480)

/-- The initiator of an access. -/
def Access.wf (a : Access) : Bool := partOk a.part && agentOk a.src

/-- An issued instruction: two or four bytes long. -/
def Issue.wf (i : Issue) : Bool := hartOk i.hart && decide (i.len = 2 ∨ i.len = 4)

/-- A packet opcode outside the table of R269. -/
def Op.isUnknown : Op → Bool
  | .unknown _ => true
  | _ => false

/-- The header fields of R268. -/
def Packet.wf (p : Packet) : Bool := partOk p.part && agentOk p.src && agentOk p.dst && tagOk p.tag && lineOk p.addr

/-- A translation: a physical address of 48 bits and a PBMT. -/
def Xlate.wf : Xlate → Bool
  | .ok pa pbmt _ => decide (pa < 2 ^ 48) && decide (pbmt < 3)
  | .fault cause _ => decide (cause < 64)

/-- A memory access of an instruction. -/
def MemAcc.wf (m : MemAcc) : Bool :=
  memSizeOk m.size && m.x.wf && m.x2.all (·.wf) && m.x2.isSome == decide (4096 < m.va.toNat % 4096 + m.size)

/-- The destination of a load. -/
def LoadDst.wf : LoadDst → Bool
  | .x rd _ => regOk rd
  | .f rd => regOk rd
  | .pair rd => regOk rd
  | .v elems => elems.all fun e => regOk e.1

/-- The LMUL of a vector unit-stride load, and 0 for any other load (R152). -/
def lmulOk (dst : LoadDst) (n : Nat) : Bool :=
  n == 0 || ((n == 1 || n == 2 || n == 4 || n == 8) && match dst with
    | .v _ => true
    | _ => false)

/-- The word is one of an Xzdtime major opcode with its row's funct3 (R116, R117). -/
def xtWord (i : Issue) (op f3 : Nat) : Bool :=
  decide (i.len = 4 ∧ i.enc.toNat % 128 = op ∧ i.enc.toNat / 4096 % 8 = f3)

/-- A custom-1 word that is no TS.STORE: SD.PAIR, or a funct3 that R117 does not list (R114). -/
def xtOther (i : Issue) : Bool := decide (i.len = 4 ∧ i.enc.toNat % 128 = 0x2B ∧ i.enc.toNat / 4096 % 8 ≠ 1)

/-- A cache error: an array code of R564 and a half of a line. -/
def CacheErr.wf (e : CacheErr) : Bool := decide (e.array < 256) && decide (e.half < 2)

/-- Fail masks of the physical lanes (R313). -/
def LaneMask.wf (m : LaneMask) : Bool := decide (m.md < 2 ^ 136 ∧ m.mu < 2 ^ 136 ∧ m.sd < 2 ^ 46 ∧ m.su < 2 ^ 22)

/-- A faulty row. -/
def BistRow.wf (b : BistRow) : Bool := decide (b.array < 256)

/-- The header of a Paleg cell (R480). -/
def PlCell.wf (c : PlCell) : Bool := decide (c.ty < 16 ∧ c.src < 4096 ∧ c.dest < 4096 ∧ c.len ≤ 64)

/-- A TLP of a port. -/
def Tlp.wf (t : Tlp) : Bool := linkOk t.link && t.fn.all fnOk && decide (t.len ≤ 4096)

/-- A phase frame: a count, a rate, a time of day and its validity for each of 8 ports, or of 4. -/
def PhFrame.wf (f : PhFrame) : Bool :=
  decide (f.count.length ≤ 8 ∧ f.rate.length = f.count.length ∧ f.tod.length = f.count.length ∧ f.todv.length = f.count.length)

/-- The checks of each command. -/
def wellFormed : Instr → Bool
  | .registerWrite a addr size _ => a.wf && addrOk addr && sizeOk size
  | .csrAccess i addr op _ _ rd => i.wf && csrOk addr && csrOpOk op && regOk rd
  | .portEnable a n _ => a.wf && portOk n
  | .portDisable a n _ => a.wf && portOk n
  | .restart a n => a.wf && portOk n
  | .forceHoldover a n => a.wf && portOk n
  | .resync a n => a.wf && portOk n
  | .pulseEdge n _ _ _ => portOk n
  | .stepHoldEnd n => portOk n
  | .lossWindowExpiry n => portOk n
  | .holdoverToFree n => portOk n
  | .holdoverCycleCrossing n => portOk n
  | .encoderCountEdge n _ _ _ _ _ => portOk n
  | .illegalTransition n => portOk n
  | .lineFault n => portOk n
  | .zEdge n _ => portOk n
  | .todArm a n _ => a.wf && portOk n
  | .phaseBroadcast => true
  | .phaseBroadcastReceive d _ => dieOk d
  | .replicaValidLost d => dieOk d
  | .calendarMatch e => entryOk e
  | .calendarEnable a _ => a.wf
  | .calendarDisable a _ => a.wf
  | .dueQueueService => true
  | .pendingFiringEnqueue => true
  | .calEditRead a k => a.wf && editOk k
  | .calEditWrite a k => a.wf && editOk k
  | .calEditDisarm a k => a.wf && editOk k
  | .calEditDisarmPurge a k => a.wf && editOk k
  | .blockCancel a b _ => a.wf && blockOk b
  | .cancellationStart => true
  | .cancellationDone => true
  | .blockEnable a b _ => a.wf && blockOk b
  | .tioEdgePlace i => pinOk i
  | .pulseTrailingEdge i => pinOk i
  | .forceLow a i => a.wf && pinOk i
  | .forceHigh a i => a.wf && pinOk i
  | .forceToggle a i => a.wf && pinOk i
  | .pinModeOutput a i _ _ => a.wf && pinOk i
  | .pinModeOffCapture a i _ => a.wf && pinOk i
  | .captureEdge i _ _ => pinOk i
  | .capTbRead a i => a.wf && pinOk i
  | .load i dst accs lmul ce => i.wf && dst.wf && accs.all (·.wf) && lmulOk dst lmul && ce.all (·.wf)
  | .store i accs _ _ => i.wf && accs.all (·.wf)
  | .amo i op rd acc _ => i.wf && amoOk op && regOk rd && acc.wf && amoSize acc.size
  | .lr i rd acc => i.wf && regOk rd && acc.wf
  | .sc i rd acc _ => i.wf && regOk rd && acc.wf
  | .cboClean i acc => i.wf && acc.wf
  | .cboFlush i acc => i.wf && acc.wf
  | .cboInval i acc => i.wf && acc.wf
  | .cboZero i acc => i.wf && acc.wf
  | .fence i pred succ => i.wf && fenceOk pred && fenceOk succ
  | .fenceI i => i.wf
  | .sfenceVma i => i.wf
  | .wfi i => i.wf
  | .wrsNto i => i.wf
  | .wrsSto i => i.wf
  | .coreGate hart => hartOk hart
  | .coreWake hart _ => hartOk hart
  | .mret i => i.wf
  | .xret i lvl => i.wf && lvlOk lvl
  | .trapEntry hart => hartOk hart
  | .mzdcfgWrite i _ rd => i.wf && regOk rd
  | .szdtdbaseWrite i _ rd => i.wf && regOk rd
  | .phRead i => i.wf && xtWord i 0x0B 0
  | .phWait i _ => i.wf && xtWord i 0x0B 1
  | .phWaitComplete hart => hartOk hart
  | .tsStore i _ x _ _ => i.wf && xtWord i 0x2B 1 && x.wf
  | .tsStoreUnstall hart => hartOk hart
  | .tsCancelI i _ x => i.wf && xtWord i 0x0B 6 && x.wf
  | .dlSet i _ => i.wf && xtWord i 0x0B 2
  | .dlClr i => i.wf && xtWord i 0x0B 3
  | .tkYield i _ x => i.wf && xtWord i 0x0B 4 && x.wf
  | .tkArg i => i.wf && xtWord i 0x0B 5
  | .ldPair i _ x => i.wf && xtWord i 0x0B 7 && x.wf
  | .sdPair i _ x _ _ => i.wf && xtOther i && x.wf
  | .deadlineMiss hart mon => hartOk hart && monOk mon
  | .dispatch hart desc _ _ _ entry _ _ _ part x => hartOk hart && descOk desc && entryOk entry && partOk part && x.wf
  | .timedStore hart _ => hartOk hart
  | .timedStoreMatch hart _ => hartOk hart
  | .timedStoreCommitIssue => true
  | .timedStoreCancel hart _ _ => hartOk hart
  | .rangeClean a eng => a.wf && rangeOk eng
  | .rangeInval a eng => a.wf && rangeOk eng
  | .rangeCleanInval a eng => a.wf && rangeOk eng
  | .rangePreload a eng => a.wf && rangeOk eng
  | .rangeCommandDone eng => rangeOk eng
  | .lockRangeWrite a isL3 idx _ => a.wf && lockOk isL3 idx
  | .cacheDisable a np _ => a.wf && coreOk np
  | .l2DrainComplete np => coreOk np
  | .cacheEnable a np _ => a.wf && coreOk np
  | .rdS p => p.wf && p.op == .rdS
  | .rdX p => p.wf && p.op == .rdX
  | .upgL3 p => p.wf && p.op == .upgL3
  | .rdOnce p => p.wf && p.op == .rdOnce
  | .wrPart p => p.wf && p.op == .wrPart
  | .wbL p => p.wf && p.op == .wbL
  | .evL p => p.wf && p.op == .evL
  | .snpL p => p.wf && p.op == .snpL
  | .snpLX p => p.wf && p.op == .snpLX
  | .invL p => p.wf && p.op == .invL
  | .getS p _ _ => p.wf && p.op == .getS
  | .getX p _ _ => p.wf && p.op == .getX
  | .upgHA p _ _ => p.wf && p.op == .upgHA
  | .getXZ p _ _ => p.wf && p.op == .getXZ
  | .cboC p _ _ => p.wf && p.op == .cboC
  | .cboF p _ _ => p.wf && p.op == .cboF
  | .atmH p _ _ => p.wf && p.op == .atmH
  | .rdNC p _ _ => p.wf && p.op == .rdNC
  | .wrNC p _ _ => p.wf && p.op == .wrNC
  | .wbM p => p.wf && p.op == .wbM
  | .wbC p => p.wf && p.op == .wbC
  | .evC p => p.wf && p.op == .evC
  | .snpS p => p.wf && p.op == .snpS
  | .snpX p => p.wf && p.op == .snpX
  | .snpC p => p.wf && p.op == .snpC
  | .inv p => p.wf && p.op == .inv
  | .rcl p => p.wf && p.op == .rcl
  | .rspI p => p.wf && p.op == .rspI
  | .rspS p => p.wf && p.op == .rspS
  | .rspFwdS p => p.wf && p.op == .rspFwdS
  | .rspFwdI p => p.wf && p.op == .rspFwdI
  | .rspRclD p => p.wf && p.op == .rspRclD
  | .rspWbP p => p.wf && p.op == .rspWbP
  | .fwdData p => p.wf && p.op == .fwdData
  | .dataE p => p.wf && p.op == .dataE
  | .dataF p => p.wf && p.op == .dataF
  | .gntX p => p.wf && p.op == .gntX
  | .cmp p => p.wf && p.op == .cmp
  | .wbAck p => p.wf && p.op == .wbAck
  | .evAck p => p.wf && p.op == .evAck
  | .cmpAck p => p.wf && p.op == .cmpAck
  | .rdIO p => p.wf && p.op == .rdIO
  | .wrIO p => p.wf && p.op == .wrIO
  | .cmpIO p => p.wf && p.op == .cmpIO
  | .dataIO p => p.wf && p.op == .dataIO
  | .packetUnknownOpcode p => p.wf && p.op.isUnknown
  | .tenureEnd np line => coreOk np && lineOk line
  | .dieLost n => dieOk n
  | .storeBufferEntryLeave hart ce => hartOk hart && ce.all (·.wf)
  | .bankRefresh k c w _ _ => mcOk k && subOk c && bankWinOk w
  | .zqCalibration k c => mcOk k && subOk c
  | .mr4Read k c _ => mcOk k && subOk c
  | .dqsOscillatorRead k c _ => mcOk k && subOk c
  | .hpPromotion addr => lineOk addr
  | .dramReadComplete addr => lineOk addr
  | .creditWrite a k p _ => a.wf && mcOk k && p.all partOk
  | .powerDownEntry k c => mcOk k && subOk c
  | .selfRefreshEntry k => mcOk k
  | .selfRefreshExit k => mcOk k
  | .dramTraining k c _ _ _ => mcOk k && subOk c
  | .regionWrite a i _ _ => a.wf && sixty4 i
  | .worldWalkDone => true
  | .mcInit a _ => a.wf
  | .mcInitDone => true
  | .scrubStep k c => mcOk k && subOk c
  | .leak => true
  | .rawRead a => a.wf
  | .rawWrite a => a.wf
  | .encode a => a.wf
  | .encodePoison a => a.wf
  | .pageRetire a i _ => a.wf && blockOk i
  | .slotCycleBoundary => true
  | .epochSwitch a _ => a.wf
  | .epochCheckDone => true
  | .epochToggle => true
  | .routeTableWrite a _ => a.wf
  | .copy a _ => a.wf
  | .copyDone => true
  | .fabricTimeout src tag => agentOk src && tagOk tag
  | .tagWithdraw src tag => agentOk src && tagOk tag
  | .batArm a i _ => a.wf && batOk i
  | .batStop a i _ => a.wf && batOk i
  | .batMatch i p _ _ _ => batOk i && p.wf
  | .batTrigger i entry => batOk i && entryOk entry
  | .batCounterCopy => true
  | .batTraceWrite d => domainOk d
  | .batBufRead a d => a.wf && domainOk d
  | .bridgeFrameReceive n _ _ _ seq _ => dieOk n && seqOk seq
  | .bridgeNak n _ _ => dieOk n
  | .sidebandMessage n _ _ => dieOk n
  | .sidebandNak n _ => dieOk n
  | .powerCommand n pos _ => dieOk n && posOk pos
  | .powerRequest n pos _ => dieOk n && posOk pos
  | .bridgeTrainStart n => dieOk n
  | .retrainFull a n _ => a.wf && dieOk n
  | .retrainFast a n _ => a.wf && dieOk n
  | .clockLock n _ _ _ _ => dieOk n
  | .laneTestDone n bad => dieOk n && bad.wf
  | .proposalExchange n => dieOk n
  | .alignDone n _ _ weak => dieOk n && weak.wf
  | .capabilityExchange n => dieOk n
  | .fastRetrainDone n bad => dieOk n && bad.wf
  | .progWrite a j w _ => a.wf && engineOk j && progOk w
  | .dmaStart c a => chanOk c && a.all (·.wf)
  | .halt c ecc => chanOk c && eccOk ecc
  | .move c ecc => chanOk c && eccOk ecc
  | .move2D c ecc => chanOk c && eccOk ecc
  | .moveComplete c => chanOk c
  | .loop c ecc ecc2 => chanOk c && eccOk ecc && eccOk ecc2
  | .endLoop c ecc => chanOk c && eccOk ecc
  | .wait c ecc => chanOk c && eccOk ecc
  | .waitTimeout c => chanOk c
  | .signalSem c ecc => chanOk c && eccOk ecc
  | .signalEvt c ecc => chanOk c && eccOk ecc
  | .signalIrq c ecc => chanOk c && eccOk ecc
  | .signalWrite c ecc x => chanOk c && eccOk ecc && x.wf
  | .fenceAck c ecc _ => chanOk c && eccOk ecc
  | .setr c ecc => chanOk c && eccOk ecc
  | .addr c ecc => chanOk c && eccOk ecc
  | .jump c ecc => chanOk c && eccOk ecc
  | .brz c ecc => chanOk c && eccOk ecc
  | .dmaUnblock c evt => chanOk c && evtOk evt
  | .pause a c => a.wf && chanOk c
  | .resume a c => a.wf && chanOk c
  | .abort a c => a.wf && chanOk c
  | .stop a c => a.wf && chanOk c
  | .descriptorFetch c x => chanOk c && x.wf
  | .descriptorComplete c => chanOk c
  | .secureInterruptEntry hart _ => hartOk hart
  | .secureCall a hart _ => a.wf && hartOk hart
  | .helmDoorbell a m _ => a.wf && mailboxOk m
  | .provision _ => true
  | .helmDbgSet _ => true
  | .coreRetire _ => true
  | .laneCommit _ => true
  | .rowCommit _ => true
  | .startCfg _ => true
  | .chimneyExit _ => true
  | .pkgResetCmd _ => true
  | .imageKeySet _ => true
  | .keyRotate _ => true
  | .modeSet _ => true
  | .zeroize _ => true
  | .helmGetStatus => true
  | .helmGetDeviceId => true
  | .helmGetAttest => true
  | .helmGetRepairs _ => true
  | .helmRandom _ => true
  | .helmSha384 _ _ => true
  | .helmHmac slot _ _ => slotOk slot
  | .helmGcmEnc slot _ _ _ _ _ _ => slotOk slot
  | .helmGcmDec slot _ _ _ _ _ _ => slotOk slot
  | .helmEcdsaVerify _ _ _ => true
  | .helmKeyGen slot _ => slotOk slot
  | .helmKeyWrap slot _ => slotOk slot
  | .helmKeyLoad slot _ _ => slotOk slot
  | .helmKeyLoadPlain slot _ _ => slotOk slot
  | .helmKeyErase slot => slotOk slot
  | .lockoutHoldEnd _ => true
  | .helmSelfTest _ => true
  | .helmTestFailure => true
  | .hcmd n => portOk n
  | .hrsp n => portOk n
  | .forwardTimeout m => mailboxOk m
  | .hartReassign a h _ => a.wf && hartOk h
  | .partitionReset a p => a.wf && partOk p
  | .partitionResetDone p => partOk p
  | .vfBind a p _ => a.wf && partOk p
  | .iommuCommand => true
  | .imsicMessage hart file eiid _ part _ => hartOk hart && fileOk file && eiidOk eiid && partOk part
  | .wiredSourceChange n => sourceOk n
  | .aplicResend d => dieOk d
  | .outboundWindowWrite a i word _ => a.wf && owinOk i && owinWordOk word
  | .readCombineTimeout n => portOk n
  | .pcieCompletion n t => portOk n && t.wf
  | .completionTimeout n link tag => portOk n && linkOk link && tagOk tag
  | .pcieAck n link => portOk n && linkOk link
  | .pcieInboundRequest n t x => portOk n && t.wf && x.wf
  | .hostDoorbell n f _ => portOk n && fnOk f
  | .msixRaise a n f _ => a.wf && portOk n && fnOk f
  | .windowCommit a n f _ => a.wf && portOk n && fnOk f
  | .oldMappingDrained n f => portOk n && fnOk f
  | .publish a n f m _ => a.wf && portOk n && fnOk f && resultOk m
  | .mailboxAck n f m _ => portOk n && fnOk f && resultOk m
  | .bmeClear n f => portOk n && fnOk f
  | .flr n f => portOk n && fnOk f
  | .flrDone n f => portOk n && fnOk f
  | .linkReset n link => portOk n && linkOk link
  | .l0sEntry n link => portOk n && linkOk link
  | .l1Entry n link => portOk n && linkOk link
  | .pcieLinkEvent n link _ => portOk n && linkOk link
  | .palegFlitReceive n _ _ seq _ _ _ _ cells => portOk n && seqOk seq && cells.all (·.wf)
  | .palegNak n _ => portOk n
  | .palegTrainingDone n _ _ _ => portOk n
  | .retrain a n _ => a.wf && portOk n
  | .wr n x => portOk n && x.wf
  | .rd n x => portOk n && x.wf
  | .rdRsp n => portOk n
  | .msg n => portOk n
  | .palegReadTimeout n tag => portOk n && tagOk tag
  | .msgTx a _ => a.wf
  | .msgRxRead a _ => a.wf
  | .phaseFrameSend => true
  | .phaseFrame n _ _ f => portOk n && f.wf
  | .branchLost n => portOk n
  | .rejoin a n _ => a.wf && portOk n
  | .plWindowCommit a _ => a.wf
  | .plOldMappingDrained => true
  | .inputSample _ _ _ _ _ => true
  | .powerFailWarning _ => true
  | .warningWithdrawn _ => true
  | .graceEnd => true
  | .powerFailComplete => true
  | .undervoltage => true
  | .overvoltage => true
  | .aonPowerLoss => true
  | .retainExit _ => true
  | .powerDieFault i => powerDieOk i
  | .reqOn a k unit _ => a.wf && editOk k && unitOk unit
  | .reqGated a k unit _ => a.wf && editOk k && unitOk unit
  | .reqOff a k unit _ => a.wf && editOk k && unitOk unit
  | .reqClockStop a k unit _ => a.wf && editOk k && unitOk unit
  | .reqReset a k unit _ => a.wf && editOk k && unitOk unit
  | .reqPackageRetain a k unit _ => a.wf && editOk k && unitOk unit
  | .reqPackageOff a k unit _ => a.wf && editOk k && unitOk unit
  | .reqClockStart a k unit _ => a.wf && editOk k && unitOk unit
  | .reqFrequency a k unit _ _ => a.wf && editOk k && unitOk unit
  | .dieTransitionDone n bist => dieOk n && bist.all (·.wf)
  | .frequencyChangeDone n => dieOk n
  | .plockEnter a _ => a.wf
  | .plockLeave a _ => a.wf
  | .plockOverTimeout => true
  | .plockReentry => true
  | .throttle n _ => anyDieOk n
  | .thermalTrip n _ => anyDieOk n
  | .aonStart => true
  | .powerOnReset => true
  | .rstN => true
  | .hardResetCmd a _ => a.wf
  | .warmResetCmd a _ => a.wf
  | .imageLoad _ => true
  | .imageCheck => true
  | .hartRelease => true
  | .startOk a _ => a.wf
  | .bootWatchdog => true
  | .startRetry _ => true
  | .heartbeat _ => true
  | .lanternFailed _ => true
  | .lanternRestart _ => true
  | .getStart _ => true
  | .getEvlog _ index => byteOk index
  | .getResult _ => true
  | .mbWrite _ _ n _ => rackBytesOk n
  | .mbRing _ _ => true
  | .mbStatus _ => true
  | .mbRead _ _ => true
  | .wake _ => true
  | .warm _ => true
  | .flashRead _ addr n => flashOk addr && byteOk n
  | .flashErase _ addr => flashOk addr
  | .flashWrite _ addr n _ => flashOk addr && flashBytesOk n
  | .flashOpDone _ => true
  | .errorRecord _ => true
  | .tailWrite a _ => a.wf
  | .tapReset => true
  | .extest _ _ => true
  | .idcode => true
  | .samplePreload _ _ => true
  | .clamp => true
  | .highz => true
  | .dtmcs _ => true
  | .dmi addr _ op => dmiAddrOk addr && dmiOpOk op
  | .chainSel dies => diesOk dies
  | .ijtag sibs => sibsOk sibs
  | .helmMb _ _ => true
  | .dbgStatus => true
  | .bypass => true
  | .wextest n => dieOk n
  | .dieIdcode n => dieOk n
  | .wintest n => dieOk n
  | .scan n => dieOk n
  | .mbist n => dieOk n
  | .dieBypass n => dieOk n
  | .dbgTestHold a _ => a.wf
  | .haltRequest hart => hartOk hart
  | .abstractCommand _ _ _ => true
  | .systemBusAccess _ addr size _ => addrOk addr && sizeOk size
  | .resumeRequest hart => hartOk hart
  | .slewEnd n => portOk n
  | .writeDrain addr => lineOk addr
  | .accessSlotGrant j _ x => engineOk j && x.wf
  | .gatedEntryDone hart => hartOk hart
  | .palegPortEnable a n _ => a.wf && portOk n
  | .palegLinkDown n => portOk n
  | .configurationRequest n f _ dw _ _ => portOk n && fnOk f && dwordOk dw
  | .railsUp => true
  | .lanternSelfTest _ _ => true
  | .dynamicAddressAssignment addr => i3cOk addr
  | .coreTraceWrite n => dieOk n
  | .ctrBufRead a n => a.wf && dieOk n
  | .wcDbgWrite a _ => a.wf
  | .pendWrite a c _ => a.wf && chanOk c
  | .semCountWrite a i _ => a.wf && semOk i

end Sys2Proof
end

