-- ==== Sys2Proof/Tests/Slice0.lean ====
section
/-! SUPPORT. Small tests: a term that each check of WellFormed refuses, what a few commands do on values taken from the spec,
and for each statement with hypotheses operands and a state that meet them. -/
open Sys2Proof Sys2Proof.Machine

namespace Tests

/-- A well-formed access. -/
def okA : Access := { world := true, part := 0, src := 0 }

/-- A well-formed memory access. -/
def acc8 : MemAcc := { va := 0, size := 8, x := .ok 0 0 [] }

/-- A register holds v, whatever an unlisted one reads as. -/
def putR (g : Reg) (i : Nat) (v : Word) (s : State) : State :=
  { s with regs := smapInsert (smapErase s.regs (g.key i)) (g.key i) v }

/-- A Secure access of P0. -/
def accS : Access := { world := true, part := 0, src := 0 }

/-- An Open access of P0. -/
def accO : Access := { world := false, part := 0, src := 0 }

/-- CD0 is ON and hart 0 runs. -/
def runS : State := (State.reset.setF F.PWR_DIE_STATE 0 2).onHart 0 fun t => { t with st := .run }

/-- An instruction of hart 0 at address 0. -/
def i0 : Issue := { hart := 0, pc := 0 }

/-- DMA channel c in state st, with the program word w at its pc. -/
def dmaWith (c : Nat) (st : Nat) (w : Word) (s : State) : State :=
  (((s.setF F.DE_CH_STATUS_STATE c st).setR .DE_CH_WIN c (fset F.DE_CH_WIN_LIMIT 0 8191)).setF F.DE_CH_PC_PC c 16).setR .DE_PROG (c / 64 * 8192 + 16) w

/-- Mailbox m holds a request, which Helm serves. -/
def helmReq (m o len key cnt pay : Nat) : State :=
  let t : State := (State.reset.setR .HELM_STATUS 0 (if o = 0x301 then 2#64 else 10#64)).setR .HELM_COUNTER 0 5
  let t := bufWrite .HELM_MB_REQ m 0 (16 + len) (o + len * 2 ^ 16 + key * 2 ^ 32 + 0x8000 * 2 ^ 48 + cnt * 2 ^ 64 + pay * 2 ^ 128) t
  { t with helm := { up := true, cur := some m, lens := [(m, 16 + len + (if key = 1 then 24 else 0))] } }

/-- PCIe port 0 is an endpoint with its link up. -/
def epS : State := { (State.reset.setFbit F.PE_PORT_STATUS_LINK_UP 0 0 true) with peLive := [(0, fset F.PE_PORT_CFG_MODE 0 1)] }

/-- The first bytes of a flash image: magic, format version 1 and a length of 8 bytes, and zeros up to byte 511 (R545). -/
def imgByte (i : Nat) : Byte :=
  if i = 0 then 0x5A else if i = 1 then 0x44 else if i = 2 then 0x42 else if i = 3 then 0x49 else if i = 4 then 1
  else if i = 8 then 8 else 0

/-- DRAM is trained, the start stands at its image load, and the flash holds that image. -/
def imgS : State :=
  { (iter 16 (fun k t => t.setF F.MC_STATUS_TRAINED k 15) (State.reset.setF F.ST_STATUS_PHASE 0 2)) with
    flash := (List.range' 0 520).map fun i => (i, imgByte i) }

theorem smapGet_range (f : Nat → Byte) (d : Nat → Byte) (a n k : Nat) (h : a ≤ k ∧ k < a + n) :
    smapGet d ((List.range' a n).map fun i => (i, f i)) k = f k := by
  induction n generalizing a with
  | zero => omega
  | succ n ih =>
    rw [List.range'_succ, List.map_cons, smapGet]
    by_cases e : a = k
    · simp [e]
    · rw [if_neg (by omega)]
      exact ih _ (by omega)

theorem flashBytes_zero (s : State) (a n : Nat) (h : ∀ i, a ≤ i → i < a + n → flashByte s i = 0) : flashBytes s a n = 0 := by
  induction n generalizing a with
  | zero => rfl
  | succ n ih =>
    rw [flashBytes, ih (a + 1) (fun i h1 h2 => h i (by omega) (by omega)), h a (by omega) (by omega)]
    rfl

theorem flashBytes_nine (s : State) (a n : Nat) : flashBytes s a (n + 9) =
    (flashByte s a).toNat + 256 * ((flashByte s (a + 1)).toNat + 256 * ((flashByte s (a + 2)).toNat +
    256 * ((flashByte s (a + 3)).toNat + 256 * ((flashByte s (a + 4)).toNat + 256 * ((flashByte s (a + 5)).toNat +
    256 * ((flashByte s (a + 6)).toNat + 256 * ((flashByte s (a + 7)).toNat + 256 * ((flashByte s (a + 8)).toNat +
    256 * flashBytes s (a + 9) n)))))))) := rfl

theorem img_header : flashBytes imgS 0 512 = 147573952595200459866 := by
  have hb : ∀ i, i < 520 → flashByte imgS i = imgByte i := fun i hi =>
    smapGet_range imgByte _ 0 520 i ⟨by omega, by omega⟩
  have hz : flashBytes imgS (0 + 9) 503 = 0 := flashBytes_zero _ _ _ fun i h1 h2 => by
    rw [hb i (by omega)]
    unfold imgByte
    repeat rw [if_neg (by omega)]
  refine (flashBytes_nine imgS 0 503).trans ?_
  rw [hb 0 (by omega), hb (0 + 1) (by omega), hb (0 + 2) (by omega), hb (0 + 3) (by omega), hb (0 + 4) (by omega),
    hb (0 + 5) (by omega), hb (0 + 6) (by omega), hb (0 + 7) (by omega), hb (0 + 8) (by omega), hz]
  decide +kernel

theorem img_slot : imgS.f F.ST_STATUS_SLOT 0 = 0 := by decide +kernel

theorem img_ok : headerOk imgS.sku.dramBytes (flashBytes imgS (imgS.f F.ST_STATUS_SLOT 0 * 0x2000000) 512) = true := by
  rw [img_slot, Nat.zero_mul, img_header]
  decide +kernel

theorem img_waits : agentWaits (imgLoad (flashBytes imgS (imgS.f F.ST_STATUS_SLOT 0 * 0x2000000) 512))
    (imgLength (flashBytes imgS (imgS.f F.ST_STATUS_SLOT 0 * 0x2000000) 512)) imgS = false := by
  rw [img_slot, Nat.zero_mul, img_header]
  decide +kernel

/-! ## Ill-formed terms -/

theorem test_refused_access_part : wellFormed (.restart ⟨true, 64, 0⟩ 0) = false := by decide
theorem test_refused_access_src : wellFormed (.restart ⟨true, 0, 512⟩ 0) = false := by decide
theorem test_refused_register_size : wellFormed (.registerWrite okA 0 3 0) = false := by decide
theorem test_refused_register_address : wellFormed (.registerWrite okA (2 ^ 48) 8 0) = false := by decide
theorem test_refused_port : wellFormed (.restart okA 8) = false := by decide
theorem test_refused_die : wellFormed (.replicaValidLost 12) = false := by decide
theorem test_refused_any_die : wellFormed (.thermalTrip 13 0) = false := by decide
theorem test_refused_pin : wellFormed (.forceLow okA 64) = false := by decide
theorem test_refused_block : wellFormed (.blockCancel okA 256 0) = false := by decide
theorem test_refused_entry : wellFormed (.calendarMatch 65536) = false := by decide
theorem test_refused_edit : wellFormed (.calEditRead okA 128) = false := by decide
theorem test_refused_channel : wellFormed (.pause okA 256) = false := by decide
theorem test_refused_engine : wellFormed (.progWrite okA 4 0 0) = false := by decide
theorem test_refused_program_word : wellFormed (.progWrite okA 0 8192 0) = false := by decide
theorem test_refused_event : wellFormed (.dmaUnblock 0 8) = false := by decide
theorem test_refused_range : wellFormed (.rangeClean okA 252) = false := by decide
theorem test_refused_controller : wellFormed (.zqCalibration 16 0) = false := by decide
theorem test_refused_sub_channel : wellFormed (.zqCalibration 0 4) = false := by decide
theorem test_refused_region : wellFormed (.regionWrite okA 64 false 0) = false := by decide
theorem test_refused_domain : wellFormed (.batBufRead okA 13) = false := by decide
theorem test_refused_bat : wellFormed (.batArm okA 112 0) = false := by decide
theorem test_refused_outbound_window : wellFormed (.outboundWindowWrite okA 128 0 0) = false := by decide
theorem test_refused_outbound_word : wellFormed (.outboundWindowWrite okA 0 3 0) = false := by decide
theorem test_refused_link : wellFormed (.linkReset 0 4) = false := by decide
theorem test_refused_function : wellFormed (.flr 0 33) = false := by decide
theorem test_refused_mailbox_of_function : wellFormed (.mailboxAck 0 0 16 0) = false := by decide
theorem test_refused_helm_mailbox : wellFormed (.helmDoorbell okA 5 0) = false := by decide
theorem test_refused_key_slot : wellFormed (.helmKeyErase 256) = false := by decide
theorem test_refused_power_die : wellFormed (.powerDieFault 2) = false := by decide
theorem test_refused_unit : wellFormed (.reqOn okA 0 512 false) = false := by decide
theorem test_refused_hart : wellFormed (.trapEntry 256) = false := by decide
theorem test_refused_core : wellFormed (.l2DrainComplete 240) = false := by decide
theorem test_refused_issue_hart : wellFormed (.fenceI { hart := 256, pc := 0 }) = false := by decide
theorem test_refused_issue_length : wellFormed (.fenceI { hart := 0, pc := 0, len := 3 }) = false := by decide
theorem test_refused_register_number : wellFormed (.csrAccess i0 0 0 0 false 32) = false := by decide
theorem test_refused_csr : wellFormed (.csrAccess i0 4096 0 0 false 0) = false := by decide
theorem test_refused_csr_operation : wellFormed (.csrAccess i0 0 3 0 false 0) = false := by decide
theorem test_refused_amo_operation : wellFormed (.amo i0 9 0 acc8 0) = false := by decide
theorem test_refused_amo_size : wellFormed (.amo i0 0 0 { acc8 with size := 2 } 0) = false := by decide
theorem test_refused_memory_size : wellFormed (.cboZero i0 { acc8 with size := 3 }) = false := by decide
theorem test_refused_translation : wellFormed (.cboZero i0 { acc8 with x := .ok (2 ^ 48) 0 [] }) = false := by decide
theorem test_refused_pbmt : wellFormed (.cboZero i0 { acc8 with x := .ok 0 3 [] }) = false := by decide
theorem test_refused_second_translation : wellFormed (.cboZero i0 { acc8 with x2 := some (.ok 0 3 []) }) = false := by decide
theorem test_refused_trap_cause : wellFormed (.cboZero i0 { acc8 with x := .fault 64 0 }) = false := by decide
theorem test_refused_monitor : wellFormed (.deadlineMiss 0 4) = false := by decide
theorem test_refused_custom0_word : wellFormed (.phRead i0) = false := by decide
theorem test_refused_custom1_word : wellFormed (.sdPair { i0 with enc := 0x102B } 0 (.ok 0 0 []) 0 0) = false := by decide
theorem test_refused_lmul : wellFormed (.load i0 (.v []) [] 3 none) = false := by decide
theorem test_refused_fence_set : wellFormed (.fence i0 16 0) = false := by decide
theorem test_refused_return_level : wellFormed (.xret i0 2) = false := by decide
theorem test_refused_descriptor : wellFormed (.dispatch 0 65536 0 0 0 0 0 false false 0 (.ok 0 0 [])) = false := by decide
theorem test_refused_line : wellFormed (.writeDrain 1) = false := by decide
theorem test_refused_line_range : wellFormed (.writeDrain (2 ^ 48)) = false := by decide
theorem test_refused_position : wellFormed (.powerCommand 0 20 0) = false := by decide
theorem test_refused_interrupt_file : wellFormed (.imsicMessage 0 10 0 false 0 0) = false := by decide
theorem test_refused_interrupt_source : wellFormed (.wiredSourceChange 1024) = false := by decide
theorem test_refused_tag : wellFormed (.fabricTimeout 0 1024) = false := by decide
theorem test_refused_agent : wellFormed (.fabricTimeout 512 0) = false := by decide
theorem test_refused_configuration_dword : wellFormed (.configurationRequest 0 0 false 1024 0 .plain) = false := by decide
theorem test_refused_die_set : wellFormed (.chainSel 4096) = false := by decide
theorem test_refused_sibs : wellFormed (.ijtag 64) = false := by decide
theorem test_refused_program_ecc : wellFormed (.halt 0 3) = false := by decide
theorem test_refused_dmi_operation : wellFormed (.dmi 0 0 4) = false := by decide
theorem test_refused_dmi_address : wellFormed (.dmi 128 0 0) = false := by decide
theorem test_refused_flash_address : wellFormed (.flashErase true (2 ^ 32)) = false := by decide
theorem test_refused_i3c_address : wellFormed (.dynamicAddressAssignment 128) = false := by decide
theorem test_refused_event_log_index : wellFormed (.getEvlog true 256) = false := by decide
theorem test_refused_rack_bytes : wellFormed (.mbWrite true 0 257 0) = false := by decide
theorem test_refused_flash_bytes : wellFormed (.flashWrite true 0 257 0) = false := by decide
theorem test_refused_lock_l3 : wellFormed (.lockRangeWrite okA true 48 0) = false := by decide
theorem test_refused_lock_core : wellFormed (.lockRangeWrite okA false 480 0) = false := by decide
theorem test_refused_packet_opcode : wellFormed (.getS { op := .getX } false false) = false := by decide
theorem test_refused_packet_unknown : wellFormed (.packetUnknownOpcode { op := .getX }) = false := by decide
theorem test_refused_packet_tag : wellFormed (.rdS { op := .rdS, tag := 1024 }) = false := by decide
theorem test_refused_packet_destination : wellFormed (.rdS { op := .rdS, dst := 512 }) = false := by decide
theorem test_refused_lane_mask : wellFormed (.fastRetrainDone 0 { md := 2 ^ 136 }) = false := by decide
theorem test_refused_bist_row : wellFormed (.dieTransitionDone 0 [⟨256, 0, 0, 0⟩]) = false := by decide
theorem test_refused_tlp_length : wellFormed (.pcieCompletion 0 { kind := .cpl, len := 4097 }) = false := by decide
theorem test_refused_cell_type : wellFormed (.palegFlitReceive 0 true 0 0 none 0 0 0 [{ ty := 16 }]) = false := by decide
theorem test_refused_load_register : wellFormed (.load i0 (.x 32 false) [] 0 none) = false := by decide
theorem test_refused_cache_error : wellFormed (.load i0 (.x 1 false) [] 0 (some { array := 256 })) = false := by decide
theorem test_refused_semaphore : wellFormed (.semCountWrite okA 256 0) = false := by decide
theorem test_refused_sequence : wellFormed (.bridgeFrameReceive 0 true true 0 4096 none) = false := by decide
theorem test_refused_phase_frame : wellFormed (.phaseFrame 0 0 true ⟨0, 0, 0, 0, 0, false, [0], [], [0], [false]⟩) = false := by decide
theorem test_refused_eiid : wellFormed (.imsicMessage 0 0 2048 false 0 0) = false := by decide

/-! ## Commands -/

/-- A port is in OFF after reset (R48). -/
theorem test_reset_port_off : State.reset.f F.PHE_PORT_STATUS_STATE 7 = 0 := by decide

/-! ## The hypotheses of the statements are met -/

section
set_option Elab.async false

theorem test_met_PhasePortControl :
    (∃ (a : Access) (n : Nat) (v : Word) (s : State), Allowed a true .PHE_PORT_CFG n s ∧
    a.world = s.b F.PHE_PORT_CFG_WORLD n ∧ s.b F.PHE_PORT_CFG_ENABLE n = false ∧
    (fget F.PHE_PORT_CFG_KIND v = 1 ∨ fget F.PHE_PORT_CFG_KIND v = 2 → fget F.PHE_PORT_CFG_CPC v ≠ 0) ∧
    (fget F.PHE_PORT_CFG_KIND v = 2 → fget F.PHE_PORT_CFG_CPC v < 65536)) ∧
    (∃ (a : Access) (n : Nat) (v : Word) (s : State), Allowed a true .PHE_PORT_CFG n s ∧
    a.world = s.b F.PHE_PORT_CFG_WORLD n ∧ s.b F.PHE_PORT_CFG_ENABLE n = false ∧
    (fget F.PHE_PORT_CFG_KIND v = 1 ∨ fget F.PHE_PORT_CFG_KIND v = 2) ∧ fget F.PHE_PORT_CFG_CPC v = 0) ∧
    (∃ (a : Access) (n : Nat) (s : State), Allowed a true .PHE_PORT_CFG n s ∧ a.world = s.b F.PHE_PORT_CFG_WORLD n ∧
    s.b F.PHE_PORT_CFG_ENABLE n = true) ∧
    (∃ (a : Access) (n : Nat) (s : State), Allowed a true .PHE_PORT_CFG n s ∧ a.world = true ∧
    s.b F.PHE_PORT_CFG_WORLD n = false) ∧
    (∃ (a : Access) (n : Nat) (s : State), Allowed a true .PHE_PORT_CFG n s ∧ a.world = s.b F.PHE_PORT_CFG_WORLD n ∧
    s.b F.PHE_PORT_CFG_ENABLE n = true) ∧
    (∃ (a : Access) (n : Nat) (s : State), Allowed a true .PHE_PORT_CMD n s ∧ s.f F.PHE_PORT_STATUS_STATE n ≠ 0) ∧
    (∃ (a : Access) (n : Nat) (s : State), Allowed a true .PHE_PORT_CMD n s ∧ s.f F.PHE_PORT_STATUS_STATE n = 0) ∧
    (∃ (a : Access) (n : Nat) (s : State), Allowed a true .PHE_PORT_CMD n s ∧ s.f F.PHE_PORT_STATUS_STATE n ≠ 0) ∧
    (∃ (a : Access) (n : Nat) (s : State), Allowed a true .PHE_PORT_CMD n s ∧ s.f F.PHE_PORT_STATUS_STATE n = 5) ∧
    (∃ (a : Access) (n : Nat) (s : State), Allowed a true .PHE_PORT_CMD n s ∧ s.f F.PHE_PORT_STATUS_STATE n ≠ 5) :=
  ⟨⟨accO, 7, 0x0000000500000003#64, State.reset, by decide +kernel⟩,
    ⟨accO, 0, 4#64, State.reset, by decide +kernel⟩,
    ⟨accO, 0, (State.reset.setB F.PHE_PORT_CFG_ENABLE 0 true), by decide +kernel⟩,
    ⟨accS, 0, State.reset, by decide +kernel⟩,
    ⟨accO, 3, ((State.reset.setB F.PHE_PORT_CFG_ENABLE 3 true).setF F.PHE_PORT_STATUS_STATE 3 2), by decide +kernel⟩,
    ⟨accO, 3, ((State.reset.setF F.PHE_PORT_CFG_KIND 3 2).setF F.PHE_PORT_STATUS_STATE 3 4), by decide +kernel⟩,
    ⟨accO, 3, State.reset, by decide +kernel⟩,
    ⟨accO, 3, ((State.reset.setF F.PHE_PORT_CFG_KIND 3 2).setF F.PHE_PORT_STATUS_STATE 3 2), by decide +kernel⟩,
    ⟨accO, 3, ((State.reset.setF F.PHE_PORT_CFG_KIND 3 2).setF F.PHE_PORT_STATUS_STATE 3 5), by decide +kernel⟩,
    ⟨accO, 3, State.reset, by decide +kernel⟩⟩

theorem test_met_PhaseTracking :
    (∃ (n : Nat) (rising : Bool) (stable : Nat) (s : State),
    (s.f F.PHE_PORT_CFG_KIND n = 2 ∨ s.f F.PHE_PORT_CFG_KIND n = 3) ∧ edgeSelected n rising s = true ∧
    filterPassed n stable s = true ∧
    (s.f F.PHE_PORT_STATUS_STATE n = 1 ∨ s.f F.PHE_PORT_STATUS_STATE n = 3 ∨ s.f F.PHE_PORT_STATUS_STATE n = 4) ∧
    (s.port n).runEdges = 0) ∧
    (∃ (n : Nat) (ts : Word) (rising : Bool) (stable : Nat) (s : State),
    (s.f F.PHE_PORT_CFG_KIND n = 2 ∨ s.f F.PHE_PORT_CFG_KIND n = 3) ∧ edgeSelected n rising s = true ∧
    filterPassed n stable s = true ∧ (s.f F.PHE_PORT_STATUS_STATE n = 2 ∨ s.f F.PHE_PORT_STATUS_STATE n = 5) ∧
    withinTol (fget F.PHE_PORT_CFG_TOL (s.port n).live) (ts - s.r .PHE_PORT_EDGE_TB n).toNat (s.f
      F.PHE_PORT_PERIOD_VAL n) = false) ∧
    (∃ (n : Nat) (ts : Word) (rising : Bool) (stable : Nat) (s : State),
    (s.f F.PHE_PORT_CFG_KIND n = 2 ∨ s.f F.PHE_PORT_CFG_KIND n = 3) ∧ edgeSelected n rising s = true ∧
    filterPassed n stable s = true ∧ (s.f F.PHE_PORT_STATUS_STATE n = 2 ∨ s.f F.PHE_PORT_STATUS_STATE n = 5) ∧
    withinTol (fget F.PHE_PORT_CFG_TOL (s.port n).live) (ts - s.r .PHE_PORT_EDGE_TB n).toNat (s.f
      F.PHE_PORT_PERIOD_VAL n) = true) ∧
    (∃ (n : Nat) (rising : Bool) (stable : Nat) (s : State),
    (edgeSelected n rising s = false ∨ filterPassed n stable s = false)) ∧
    (∃ (n : Nat) (s : State), (s.port n).holding = true ∧ (s.port n).holdRem = 0) ∧
    (∃ (n : Nat) (s : State), portPulseKind n s = true ∧
    (s.f F.PHE_PORT_STATUS_STATE n = 2 ∨ s.f F.PHE_PORT_STATUS_STATE n = 5) ∧
    liveLossK (s.port n) * s.f F.PHE_PORT_PERIOD_VAL n ≤ (s.tb - s.r .PHE_PORT_EDGE_TB n).toNat) ∧
    (∃ (n : Nat) (s : State), s.f F.PHE_PORT_STATUS_STATE n = 3 ∧ (s.port n).holdMax ≠ 0 ∧
    (s.port n).holdMax ≤ (s.port n).holdover.toNat) ∧
    (∃ (n : Nat) (s : State), s.f F.PHE_PORT_STATUS_STATE n = 3 ∧ 0 < (s.port n).crossings) ∧
    (∃ (n : Nat) (s : State), s.f F.PHE_PORT_STATUS_STATE n = 2 ∧ (s.port n).slewing = true ∧ (s.port n).slew = 0) ∧
    (∃ (n : Nat) (onA : Bool) (other : Bool) (stable : Nat) (s : State), s.f F.PHE_PORT_CFG_KIND n = 1 ∧
    s.f F.PHE_PORT_STATUS_STATE n = 2 ∧ filterPassed n stable s = true ∧ encCounted n onA other s = true) ∧
    (∃ (n : Nat) (s : State), s.f F.PHE_PORT_CFG_KIND n = 1 ∧ s.f F.PHE_PORT_STATUS_STATE n ≠ 0) ∧
    (∃ (n : Nat) (s : State), s.f F.PHE_PORT_CFG_KIND n = 1 ∧ s.f F.PHE_PORT_STATUS_STATE n ≠ 0) ∧
    (∃ (n : Nat) (stable : Nat) (s : State), filterPassed n stable s = true ∧ s.f F.PHE_PORT_CFG_KIND n = 1 ∧
    s.f F.PHE_PORT_STATUS_STATE n = 2 ∧ s.b F.PHE_PORT_CFG_Z_EN n = true ∧ (s.port n).encPos ≠ 0) ∧
    (∃ (a : Access) (n : Nat) (s : State), Allowed a true .PHE_PORT_TOD n s) ∧
    (∃ (d : Nat) (s : State), d < 12 ∧ s.out.contains (.bcast d) = true) ∧
    (∃ (d : Nat) (s : State), d < 12 ∧ 4 ≤ (s.replica d).bad ∧ s.fbit F.PHE_REPLICA_STATUS_VALID 0 d = true) :=
  ⟨⟨2, true, 0, ((State.reset.setF F.PHE_PORT_CFG_KIND 2 2).setF F.PHE_PORT_STATUS_STATE 2 1), by decide +kernel⟩,
    ⟨2, 77#64, true, 0, ((State.reset.setF F.PHE_PORT_CFG_KIND 2 2).setF F.PHE_PORT_STATUS_STATE 2 2),
    by decide +kernel⟩,
    ⟨2, 77#64, true, 0,
    (((State.reset.setF F.PHE_PORT_CFG_KIND 2 2).setF F.PHE_PORT_STATUS_STATE 2 2).setF F.PHE_PORT_PERIOD_VAL 2 77),
    by decide +kernel⟩,
    ⟨2, false, 0, State.reset, by decide +kernel⟩,
    ⟨0, (State.reset.setPort 0 { holding := true, loopRate := 9 }), by decide +kernel⟩,
    ⟨2, ((State.reset.setF F.PHE_PORT_CFG_KIND 2 2).setF F.PHE_PORT_STATUS_STATE 2 2), by decide +kernel⟩,
    ⟨1, ((State.reset.setF F.PHE_PORT_STATUS_STATE 1 3).setPort 1 { holdMax := 3, holdover := 3 }), by decide +kernel⟩,
    ⟨1, ((State.reset.setF F.PHE_PORT_STATUS_STATE 1 3).setPort 1 { crossings := 1 }), by decide +kernel⟩,
    ⟨1, ((State.reset.setF F.PHE_PORT_STATUS_STATE 1 2).setPort 1 { slewing := true, loopRate := 9 }),
    by decide +kernel⟩,
    ⟨1, true, false, 0,
    (((State.reset.setF F.PHE_PORT_CFG_KIND 1 1).setF F.PHE_PORT_CFG_CPC 1 4).setF F.PHE_PORT_STATUS_STATE 1 2),
    by decide +kernel⟩,
    ⟨1, ((State.reset.setF F.PHE_PORT_CFG_KIND 1 1).setF F.PHE_PORT_STATUS_STATE 1 2), by decide +kernel⟩,
    ⟨1, ((State.reset.setF F.PHE_PORT_CFG_KIND 1 1).setF F.PHE_PORT_STATUS_STATE 1 2), by decide +kernel⟩,
    ⟨1, 0,
    (((((State.reset.setF F.PHE_PORT_CFG_KIND 1 1).setF F.PHE_PORT_STATUS_STATE 1 2).setB F.PHE_PORT_CFG_Z_EN 1
      true).setB F.PHE_PORT_CFG_Z_SNAP 1 true).setPort 1 { encPos := 3 }),
    by decide +kernel⟩,
    ⟨accO, 4, State.reset, by decide +kernel⟩,
    ⟨11, { State.reset with out := [.bcast 11] }, by decide +kernel⟩,
    ⟨2, ((State.reset.setFbit F.PHE_REPLICA_STATUS_VALID 0 2 true).setReplica 2 { bad := 4 }), by decide +kernel⟩⟩

theorem test_met_CalendarWork :
    (∃ (e : Nat) (late : Bool) (inst : Word) (s : State), calDueMatch s.tb e s = some (late, inst) ∧
    (s.calE e).fired ≠ some s.tb) ∧
    (∃ (a : Access) (s : State), Allowed a true .PHE_CAL_CTRL 0 s) ∧
    (∃ (a : Access) (s : State), Allowed a true .PHE_CAL_CTRL 0 s) ∧
    (∃ (f : Firing) (r : List Firing) (s : State), s.calHeld = f :: r ∧ s.due.length < 4096) ∧
    (∃ (a : Access) (b : Nat) (v : Word) (s : State), Allowed a true .PHE_CAL_BLOCK b s ∧
    a.world = s.b F.PHE_CAL_BLOCK_WORLD b ∧ bit v 63 = s.b F.PHE_CAL_BLOCK_WORLD b ∧
    fget F.PHE_CAL_BLOCK_PART v = s.f F.PHE_CAL_BLOCK_PART b ∧ s.b F.PHE_CAL_BLOCK_ENABLE b = true) ∧
    (∃ (a : Access) (b : Nat) (v : Word) (s : State), Allowed a true .PHE_CAL_BLOCK b s ∧
    a.world = s.b F.PHE_CAL_BLOCK_WORLD b ∧ bit v 63 = s.b F.PHE_CAL_BLOCK_WORLD b ∧
    fget F.PHE_CAL_BLOCK_PART v = s.f F.PHE_CAL_BLOCK_PART b ∧ cancelling b s = false) ∧
    (∃ (a : Access) (b : Nat) (v : Word) (s : State), Allowed a true .PHE_CAL_BLOCK b s ∧
    a.world = s.b F.PHE_CAL_BLOCK_WORLD b ∧ bit v 63 = s.b F.PHE_CAL_BLOCK_WORLD b ∧
    fget F.PHE_CAL_BLOCK_PART v = s.f F.PHE_CAL_BLOCK_PART b ∧ cancelling b s = true) ∧
    (∃ (b : Nat) (r : List Nat) (s : State), s.cancelRun = none ∧ s.cancelQ = b :: r) ∧
    (∃ (b : Nat) (s : State), s.cancelRun = some b) ∧
    (∃ (a : Access) (k : Nat) (e : Nat) (s : State), Allowed a true .PHE_CAL_CMD k s ∧ s.f F.PHE_CAL_IDX_VAL k = e ∧
    blkPart e s = k / 2 ∧ blkWorld e s = (k % 2 == 1) ∧ cancelling (e / 256) s = false ∧ blkOpen e s = true) ∧
    (∃ (a : Access) (k : Nat) (e : Nat) (s : State), Allowed a true .PHE_CAL_CMD k s ∧ s.f F.PHE_CAL_IDX_VAL k = e ∧
    blkPart e s = k / 2 ∧ blkWorld e s = (k % 2 == 1) ∧ cancelling (e / 256) s = false ∧ blkOpen e s = true ∧
    calInvalid (s.r .PHE_CAL_W1 k) (editW2 (s.r .PHE_CAL_W2 k)) (s.r .PHE_CAL_W3 k) = false ∧
    calTargetOk (editW2 (s.r .PHE_CAL_W2 k)) (s.r .PHE_CAL_W3 k) (k % 2 == 1) (k / 2) s = true ∧
    dispatchWorldOk (editW2 (s.r .PHE_CAL_W2 k)) (s.r .PHE_CAL_W3 k) (k % 2 == 1) s = true) ∧
    (∃ (a : Access) (k : Nat) (e : Nat) (s : State), Allowed a true .PHE_CAL_CMD k s ∧ s.f F.PHE_CAL_IDX_VAL k = e ∧
    blkPart e s = k / 2 ∧ blkWorld e s = (k % 2 == 1) ∧ cancelling (e / 256) s = false ∧ blkOpen e s = true ∧
    calInvalid (s.r .PHE_CAL_W1 k) (editW2 (s.r .PHE_CAL_W2 k)) (s.r .PHE_CAL_W3 k) = true) ∧
    (∃ (a : Access) (k : Nat) (e : Nat) (s : State), Allowed a true .PHE_CAL_CMD k s ∧ s.f F.PHE_CAL_IDX_VAL k = e ∧
    blkPart e s = k / 2 ∧ blkWorld e s = (k % 2 == 1) ∧ cancelling (e / 256) s = false ∧ blkOpen e s = true ∧
    calInvalid (s.r .PHE_CAL_W1 k) (editW2 (s.r .PHE_CAL_W2 k)) (s.r .PHE_CAL_W3 k) = false ∧
    (calTargetOk (editW2 (s.r .PHE_CAL_W2 k)) (s.r .PHE_CAL_W3 k) (k % 2 == 1) (k / 2) s = false ∨ dispatchWorldOk
      (editW2 (s.r .PHE_CAL_W2 k)) (s.r .PHE_CAL_W3 k) (k % 2 == 1) s = false)) ∧
    (∃ (a : Access) (k : Nat) (e : Nat) (s : State), Allowed a true .PHE_CAL_CMD k s ∧ s.f F.PHE_CAL_IDX_VAL k = e ∧
    (blkPart e s ≠ k / 2 ∨ blkWorld e s ≠ (k % 2 == 1))) ∧
    (∃ (a : Access) (k : Nat) (e : Nat) (s : State), Allowed a true .PHE_CAL_CMD k s ∧ s.f F.PHE_CAL_IDX_VAL k = e ∧
    blkPart e s = k / 2 ∧ blkWorld e s = (k % 2 == 1) ∧ cancelling (e / 256) s = false ∧ blkOpen e s = true) ∧
    (∃ (a : Access) (k : Nat) (e : Nat) (s : State), Allowed a true .PHE_CAL_CMD k s ∧ s.f F.PHE_CAL_IDX_VAL k = e ∧
    blkPart e s = k / 2 ∧ blkWorld e s = (k % 2 == 1) ∧ cancelling (e / 256) s = true) ∧
    (∃ (a : Access) (k : Nat) (e : Nat) (s : State), Allowed a true .PHE_CAL_CMD k s ∧ s.f F.PHE_CAL_IDX_VAL k = e ∧
    blkPart e s = k / 2 ∧ blkWorld e s = (k % 2 == 1) ∧ cancelling (e / 256) s = false ∧ blkOpen e s = true) :=
  ⟨⟨5, true, 0#64,
    ((State.reset.setB F.PHE_CAL_CTRL_ENABLE 0 true).setCalE 5 { w2 := 0x8010000000000000#64, owed := true }),
    by decide +kernel⟩,
    ⟨accS, State.reset, by decide +kernel⟩,
    ⟨accS, (State.reset.setB F.PHE_CAL_CTRL_ENABLE 0 true), by decide +kernel⟩,
    ⟨⟨1, 0, 0, 0, 0, false, 0⟩, [], { State.reset with calHeld := [⟨1, 0, 0, 0, 0, false, 0⟩] }, by decide +kernel⟩,
    ⟨accO, 3, 0#64, (State.reset.setB F.PHE_CAL_BLOCK_ENABLE 3 true), by decide +kernel⟩,
    ⟨accO, 3, 0#64, State.reset, by decide +kernel⟩,
    ⟨accO, 3, 0#64, { State.reset with cancelRun := some 3 }, by decide +kernel⟩,
    ⟨3, [], { State.reset with cancelQ := [3] }, by decide +kernel⟩,
    ⟨0, { State.reset with cancelRun := some 0, due := [⟨1, 0, 0, 0, 0, false, 0⟩] }, by decide +kernel⟩,
    ⟨accO, 0, 7, ((State.reset.setF F.PHE_CAL_IDX_VAL 0 7).setB F.PHE_CAL_BLOCK_ENABLE 0 true), by decide +kernel⟩,
    ⟨accO, 0, 7, ((State.reset.setF F.PHE_CAL_IDX_VAL 0 7).setB F.PHE_CAL_BLOCK_ENABLE 0 true), by decide +kernel⟩,
    ⟨accO, 0, 7,
    (((State.reset.setF F.PHE_CAL_IDX_VAL 0 7).setB F.PHE_CAL_BLOCK_ENABLE 0 true).setR .PHE_CAL_W2 0
      0x001E000000000000#64),
    by decide +kernel⟩,
    ⟨accO, 0, 7,
    (((State.reset.setF F.PHE_CAL_IDX_VAL 0 7).setB F.PHE_CAL_BLOCK_ENABLE 0 true).setR .PHE_CAL_W2 0
      0x0000010000000000#64),
    by decide +kernel⟩,
    ⟨accO, 0, 7, ((State.reset.setF F.PHE_CAL_IDX_VAL 0 7).setB F.PHE_CAL_BLOCK_WORLD 0 true), by decide +kernel⟩,
    ⟨accO, 0, 7, ((State.reset.setF F.PHE_CAL_IDX_VAL 0 7).setB F.PHE_CAL_BLOCK_ENABLE 0 true), by decide +kernel⟩,
    ⟨accO, 0, 7, { State.reset.setF F.PHE_CAL_IDX_VAL 0 7 with cancelRun := some 0 }, by decide +kernel⟩,
    ⟨accO, 0, 7, ((State.reset.setF F.PHE_CAL_IDX_VAL 0 7).setB F.PHE_CAL_BLOCK_ENABLE 0 true), by decide +kernel⟩⟩

theorem test_met_TimedPins :
    (∃ (i : Nat) (ed : PinEdge) (r : List PinEdge) (s : State), (s.pin i).edges = ed :: r ∧ ed.op ≠ 4 ∧
    pinOutput i s = true) ∧
    (∃ (i : Nat) (ed : PinEdge) (r : List PinEdge) (s : State), (s.pin i).edges = ed :: r ∧ ed.op = 4 ∧
    pinOutput i s = true) ∧
    (∃ (a : Access) (i : Nat) (s : State), Allowed a true .TIO_PIN_FORCE i s ∧ pinOutput i s = true) ∧
    (∃ (a : Access) (i : Nat) (s : State), Allowed a true .TIO_PIN_FORCE i s ∧ pinOutput i s = true) ∧
    (∃ (a : Access) (i : Nat) (s : State), Allowed a true .TIO_PIN_FORCE i s ∧ pinOutput i s = true) ∧
    (∃ (a : Access) (i : Nat) (s : State), Allowed a true .TIO_PIN_FORCE i s ∧ pinOutput i s = false) ∧
    (∃ (a : Access) (i : Nat) (v : Word) (s : State), Allowed a true .TIO_PIN_CFG i s ∧
    a.world = s.b F.TIO_PIN_CFG_WORLD i ∧ fget F.TIO_PIN_CFG_PART v = s.f F.TIO_PIN_CFG_PART i ∧
    pinOutput i s = false) ∧
    (∃ (a : Access) (i : Nat) (v : Word) (s : State), Allowed a true .TIO_PIN_CFG i s ∧
    a.world = s.b F.TIO_PIN_CFG_WORLD i ∧ fget F.TIO_PIN_CFG_PART v = s.f F.TIO_PIN_CFG_PART i ∧
    (bits v 1 0 = 0 ∨ bits v 1 0 = 2)) ∧
    (∃ (i : Nat) (ts : Word) (rising : Bool) (s : State), s.f F.TIO_PIN_CFG_MODE i = 2 ∧
    (s.f F.TIO_PIN_CFG_CAP_EDGE i = 0 ∧ rising = true ∨ s.f F.TIO_PIN_CFG_CAP_EDGE i = 1 ∧ rising = false ∨ s.f
      F.TIO_PIN_CFG_CAP_EDGE i = 2) ∧
    ((s.pin i).lastCap.elim true fun u => decide (64 ≤ (ts - u).toInt)) = true ∧ (s.pin i).fifo.length < 16) ∧
    (∃ (i : Nat) (ts : Word) (rising : Bool) (s : State), s.f F.TIO_PIN_CFG_MODE i = 2 ∧
    (s.f F.TIO_PIN_CFG_CAP_EDGE i = 0 ∧ rising = true ∨ s.f F.TIO_PIN_CFG_CAP_EDGE i = 1 ∧ rising = false ∨ s.f
      F.TIO_PIN_CFG_CAP_EDGE i = 2) ∧
    ((s.pin i).lastCap.elim true fun u => decide (64 ≤ (ts - u).toInt)) = true ∧ 16 ≤ (s.pin i).fifo.length) ∧
    (∃ (a : Access) (i : Nat) (u : Word) (ph : Word) (r : List (Word × Word)) (s : State),
    Allowed a false .TIO_CAP_TB i s ∧ (s.pin i).fifo = (u, ph) :: r) ∧
    (∃ (a : Access) (i : Nat) (s : State), Allowed a false .TIO_CAP_TB i s ∧ (s.pin i).fifo = []) :=
  ⟨⟨6, ⟨9, 1, 64, false, 0⟩, [],
    ((State.reset.setF F.TIO_PIN_CFG_MODE 6 1).setPin 6 { edges := [⟨9, 1, 64, false, 0⟩] }), by decide +kernel⟩,
    ⟨6, ⟨9, 4, 0, true, 0⟩, [],
    ((State.reset.setF F.TIO_PIN_CFG_MODE 6 3).setPin 6 { edges := [⟨9, 4, 0, true, 0⟩] }), by decide +kernel⟩,
    ⟨accO, 6, (State.reset.setF F.TIO_PIN_CFG_MODE 6 1), by decide +kernel⟩,
    ⟨accO, 6, (State.reset.setF F.TIO_PIN_CFG_MODE 6 1), by decide +kernel⟩,
    ⟨accO, 6, (State.reset.setF F.TIO_PIN_CFG_MODE 6 1), by decide +kernel⟩,
    ⟨accO, 6, State.reset, by decide +kernel⟩,
    ⟨accO, 6, 0#64, State.reset, by decide +kernel⟩,
    ⟨accO, 6, 2#64, ((State.reset.setF F.TIO_PIN_CFG_MODE 6 1).setPin 6 { edges := [⟨9, 1, 64, false, 0⟩] }),
    by decide +kernel⟩,
    ⟨6, 100#64, true, (State.reset.setF F.TIO_PIN_CFG_MODE 6 2), by decide +kernel⟩,
    ⟨6, 100#64, true, ((State.reset.setF F.TIO_PIN_CFG_MODE 6 2).setPin 6 { fifo := List.replicate 16 (1, 1) }),
    by decide +kernel⟩,
    ⟨accO, 6, 5#64, 6#64, [(7#64, 8#64)], (State.reset.setPin 6 { fifo := [(5, 6), (7, 8)] }), by decide +kernel⟩,
    ⟨accO, 6, State.reset, by decide +kernel⟩⟩

theorem test_met_LoadsAndStores :
    (∃ (i : Issue) (rd : Nat) (a : MemAcc) (x : LAcc) (v : Nat) (s : State), canIssue i s = true ∧
    (s.hart i.hart).loads = [] ∧ accCheck i.hart .load a s = .ok x ∧ x.pa2 = none ∧ x.pbmt = 0 ∧
    inDram x.pa s = true ∧ sbForward x.pa x.size (s.hart i.hart).sb = .data v ∧ rd < 32) ∧
    (∃ (i : Issue) (a : MemAcc) (x : LAcc) (s : State), canIssue i s = true ∧ (s.hart i.hart).loads = [] ∧
    accCheck i.hart .load a s = .ok x ∧ x.pa2 = none ∧ x.pbmt = 1 ∧ inDram x.pa s = true ∧
    sbForward x.pa x.size (s.hart i.hart).sb = .no ∧ readsOpen (coreOf i.hart s) s < 32) ∧
    (∃ (i : Issue) (c : Nat) (tv : Word) (a : MemAcc) (s : State), canIssue i s = true ∧ (s.hart i.hart).loads = [] ∧
    (s.hart i.hart).bare = false ∧ a.x = .fault c tv) ∧
    (∃ (i : Issue) (a : MemAcc) (x : LAcc) (s : State), canSettle i s = true ∧ accCheck i.hart .store a s = .ok x ∧
    x.parts = [(x.pa, x.size)] ∧ (s.hart i.hart).sb.length < 48) ∧
    (∃ (i : Issue) (c : Nat) (tv : Word) (a : MemAcc) (s : State), canSettle i s = true ∧
    (s.hart i.hart).bare = false ∧ a.x = .fault c tv) ∧
    (∃ (i : Issue) (a : MemAcc) (x : LAcc) (s : State), canSettle i s = true ∧ (s.hart i.hart).sb.length < 48 ∧
    accCheck i.hart .block { a with size := 1 } s = .ok x ∧ x.pbmt ≠ 2 ∧ inDram x.pa s = true) ∧
    (∃ (i : Issue) (a : MemAcc) (x : LAcc) (s : State), canSettle i s = true ∧ (s.hart i.hart).sb.length < 48 ∧
    accCheck i.hart .block { a with size := 1 } s = .ok x ∧ x.pbmt ≠ 2 ∧ inDram x.pa s = true) ∧
    (∃ (i : Issue) (a : MemAcc) (x : LAcc) (s : State), canSettle i s = true ∧ (s.hart i.hart).sb.length < 48 ∧
    accCheck i.hart .block { a with size := 1 } s = .ok x ∧ x.pbmt ≠ 2 ∧ inDram x.pa s = true) ∧
    (∃ (i : Issue) (a : MemAcc) (x : LAcc) (s : State), canSettle i s = true ∧ (s.hart i.hart).sb.length < 48 ∧
    accCheck i.hart .store { a with size := 1 } s = .ok x ∧ x.pbmt ≠ 2 ∧ inDram x.pa s = true) ∧
    (∃ (i : Issue) (v : Nat) (base : Word) (y : Xlate) (x : LAcc) (s : State), canIssue i s = true ∧
    (s.hart i.hart).loads = [] ∧ XtOk i s ∧ i.rd % 2 = 0 ∧
    accCheck i.hart .load { va := base + i.immI, size := 16, x := y } s = .ok x ∧ x.va.toNat % 16 = 0 ∧ x.pa2 = none ∧
    x.pbmt = 0 ∧ inDram x.pa s = true ∧ sbForward x.pa x.size (s.hart i.hart).sb = .data v) ∧
    (∃ (i : Issue) (s : State), canIssue i s = true ∧ XtOk i s ∧ i.rd % 2 = 1) ∧
    (∃ (i : Issue) (base : Word) (y : Xlate) (x : LAcc) (s : State), canSettle i s = true ∧
    (s.hart i.hart).sb.length < 48 ∧ XtOk i s ∧ i.funct3 = 0 ∧ i.rs2 % 2 = 0 ∧
    accCheck i.hart .store { va := base + i.immS, size := 16, x := y } s = .ok x ∧ x.va.toNat % 16 = 0 ∧ x.pbmt ≠ 2 ∧
    inIo x.pa = false) ∧
    (∃ (i : Issue) (s : State), canSettle i s = true ∧ (s.hart i.hart).sb.length < 48 ∧ XtOk i s ∧
    (i.funct3 ≠ 0 ∨ i.rs2 % 2 = 1)) ∧
    (∃ (h : Nat) (k : Nat) (e : SbEntry) (r : List SbEntry) (s : State), 2 ≤ s.f F.PWR_DIE_STATE (hartDie h s) ∧
    (s.hart h).sb = e :: r ∧ (s.hart h).loads = [] ∧ (s.hart h).stall = .none ∧ e.kind = .store ∧ e.sent = false ∧
    inDram e.pa s = true ∧ e.pbmt = 0 ∧ l2On (coreOf h s) s = true ∧ l2Owned (coreOf h s) (e.pa / 64) s = some k ∧
    (e.w = true ∨ (s.l2L k).w = false) ∧ (e.part = 0 ∨ (s.l2L k).px = true)) ∧
    (∃ (h : Nat) (e : SbEntry) (r : List SbEntry) (s : State), 2 ≤ s.f F.PWR_DIE_STATE (hartDie h s) ∧
    (s.hart h).sb = e :: r ∧ e.kind = .store ∧ e.sent = false ∧ inDram e.pa s = true ∧ e.pbmt = 1) :=
  ⟨⟨i0, 5, { va := 0x1000, size := 8, x := .ok 0x1000 0 [] }, { va := 0x1000, pa := 0x1000, size := 8, pbmt := 0 },
    0x1122334455667788,
    (runS.onHart 0 fun t =>
      { t with sb := [{ kind := .store, pa := 0x1000, data := 0x1122334455667788, mask := 0xFF, w := true, pbmt := 0, part := 0, cls := .be }] }),
    by decide +kernel⟩,
    ⟨i0, { va := 0x1000, size := 8, x := .ok 0x1000 1 [] }, { va := 0x1000, pa := 0x1000, size := 8, pbmt := 1 },
    (runS.onHart 0 fun t =>
      { (((t.setC 0x180 0x8000000000000000#64).setC 0x3A0 0x1F).setC 0x3B0 0xFFFFFFFFFFFFFFFF#64) with priv := 1 }),
    by decide +kernel⟩,
    ⟨i0, 13, 0, { va := 0x1000, size := 8, x := .fault 13 0 },
    (runS.onHart 0 fun t =>
      { (((t.setC 0x180 0x8000000000000000#64).setC 0x3A0 0x1F).setC 0x3B0 0xFFFFFFFFFFFFFFFF#64) with priv := 1 }),
    by decide +kernel⟩,
    ⟨i0, { va := 0x1000, size := 8, x := .ok 0x1000 0 [] }, { va := 0x1000, pa := 0x1000, size := 8, pbmt := 0 },
    runS, by decide +kernel⟩,
    ⟨i0, 15, 0, { va := 0x1000, size := 8, x := .fault 15 0 },
    (runS.onHart 0 fun t =>
      { (((t.setC 0x180 0x8000000000000000#64).setC 0x3A0 0x1F).setC 0x3B0 0xFFFFFFFFFFFFFFFF#64) with priv := 1 }),
    by decide +kernel⟩,
    ⟨i0, { va := 0x1000, size := 8, x := .ok 0x1000 0 [] }, { va := 0x1000, pa := 0x1000, size := 1, pbmt := 0 },
    runS, by decide +kernel⟩,
    ⟨i0, { va := 0x1000, size := 8, x := .ok 0x1000 0 [] }, { va := 0x1000, pa := 0x1000, size := 1, pbmt := 0 },
    runS, by decide +kernel⟩,
    ⟨i0, { va := 0x1000, size := 8, x := .ok 0x1000 0 [] }, { va := 0x1000, pa := 0x1000, size := 1, pbmt := 0 },
    runS, by decide +kernel⟩,
    ⟨i0, { va := 0x1000, size := 8, x := .ok 0x1000 0 [] }, { va := 0x1000, pa := 0x1000, size := 1, pbmt := 0 },
    runS, by decide +kernel⟩,
    ⟨{ hart := 0, pc := 0, enc := 0x300 }, 0x99990000000000000077, 0x1000, .ok 0x1000 0 [],
    { va := 0x1000, pa := 0x1000, size := 16, pbmt := 0 },
    (runS.onHart 0 fun t =>
      { t with sb := [{ kind := .store, pa := 0x1000, data := 0x99990000000000000077, mask := 0xFFFF, w := true, pbmt := 0, part := 0, cls := .be }] }),
    by decide +kernel⟩,
    ⟨{ hart := 0, pc := 0, enc := 0x380 }, runS, by decide +kernel⟩,
    ⟨{ hart := 0, pc := 0, enc := 0x400000 }, 0x1000, .ok 0x1000 0 [],
    { va := 0x1000, pa := 0x1000, size := 16, pbmt := 0 }, runS, by decide +kernel⟩,
    ⟨{ hart := 0, pc := 0, enc := 0x500000 }, runS, by decide +kernel⟩,
    ⟨0, ((l2Keys 0 64).headD 0),
    { kind := .store, pa := 0x1000, data := 0x55, mask := 0xFF, w := true, pbmt := 0, part := 0, cls := .be }, [],
    (((runS.setB F.CD_CORE_CACHE_CTRL_L2_EN 0 true).setL2 ((l2Keys 0 64).headD 0) { line := 64, st := 3 }).onHart 0
      fun t =>
      { t with sb := [{ kind := .store, pa := 0x1000, data := 0x55, mask := 0xFF, w := true, pbmt := 0, part := 0, cls := .be }] }),
    by decide +kernel⟩,
    ⟨0, { kind := .store, pa := 0x1000, data := 0x55, mask := 0xFF, w := true, pbmt := 1, part := 0, cls := .be }, [],
    (runS.onHart 0 fun t =>
      { t with sb := [{ kind := .store, pa := 0x1000, data := 0x55, mask := 0xFF, w := true, pbmt := 1, part := 0, cls := .be }] }),
    by decide +kernel⟩⟩

theorem test_met_AtomicsFencesAndWaits :
    (∃ (i : Issue) (rd : Nat) (k : Nat) (a : MemAcc) (x : LAcc) (d : Line) (po : BitVec 2) (s : State),
    canDrained i s = true ∧ a.va.toNat % a.size = 0 ∧ accCheck i.hart .store a s = .ok x ∧ rd < 32 ∧
    atomicPlace x.pa s = 0 ∧ x.pbmt = 0 ∧ inDram x.pa s = true ∧ l2Owned (coreOf i.hart s) (x.pa / 64) s = some k ∧
    hitRule (s.hart i.hart).w (s.hart i.hart).virt (s.l2L k).w (s.l2L k).px (s.l2L k).data (s.l2L k).poison = .data d
      po ∧
    poisonIn po (x.pa % 64) x.size = false) ∧
    (∃ (i : Issue) (a : MemAcc) (x : LAcc) (s : State), canDrained i s = true ∧ a.va.toNat % a.size = 0 ∧
    accCheck i.hart .store a s = .ok x ∧ x.pbmt ≠ 2 ∧ inDram x.pa s = true ∧ (x.pbmt ≠ 0 ∨ atomicPlace x.pa s ≠ 0) ∧
    vbFind (coreOf i.hart s / 20) (x.pa / 64) s = none) ∧
    (∃ (i : Issue) (rd : Nat) (k : Nat) (a : MemAcc) (x : LAcc) (d : Line) (po : BitVec 2) (s : State),
    canDrained i s = true ∧ a.va.toNat % a.size = 0 ∧ accCheck i.hart .load a s = .ok x ∧ rd < 32 ∧ x.pbmt = 0 ∧
    inDram x.pa s = true ∧ l2Owned (coreOf i.hart s) (x.pa / 64) s = some k ∧
    hitRule (s.hart i.hart).w (s.hart i.hart).virt (s.l2L k).w (s.l2L k).px (s.l2L k).data (s.l2L k).poison = .data d
      po ∧
    poisonIn po (x.pa % 64) x.size = false) ∧
    (∃ (i : Issue) (rd : Nat) (k : Nat) (a : MemAcc) (x : LAcc) (d : Line) (po : BitVec 2) (s : State),
    canDrained i s = true ∧ a.va.toNat % a.size = 0 ∧ accCheck i.hart .store a s = .ok x ∧ rd < 32 ∧
    (s.hart i.hart).resv = some (x.pa / 64) ∧ x.pbmt = 0 ∧ inDram x.pa s = true ∧
    l2Owned (coreOf i.hart s) (x.pa / 64) s = some k ∧
    hitRule (s.hart i.hart).w (s.hart i.hart).virt (s.l2L k).w (s.l2L k).px (s.l2L k).data (s.l2L k).poison = .data d
      po) ∧
    (∃ (i : Issue) (rd : Nat) (a : MemAcc) (x : LAcc) (s : State), canDrained i s = true ∧ a.va.toNat % a.size = 0 ∧
    accCheck i.hart .store a s = .ok x ∧ rd < 32 ∧ x.pbmt ≠ 2 ∧ inDram x.pa s = true ∧
    (s.hart i.hart).resv ≠ some (x.pa / 64)) ∧
    (∃ (i : Issue) (a : MemAcc) (s : State), canDrained i s = true ∧ a.va.toNat % a.size ≠ 0) ∧
    (∃ (i : Issue) (a : MemAcc) (s : State), canDrained i s = true ∧ a.va.toNat % a.size ≠ 0) ∧
    (∃ (i : Issue) (a : MemAcc) (s : State), canDrained i s = true ∧ a.va.toNat % a.size ≠ 0) ∧
    (∃ (i : Issue) (s : State), canDrained i s = true) ∧
    (∃ (i : Issue) (p : Nat) (s : State), canSettle i s = true ∧ p.testBit 0 = false ∧ p.testBit 2 = false) ∧
    (∃ (i : Issue) (p : Nat) (s : State), (p.testBit 0 = true ∨ p.testBit 2 = true) ∧ (s.hart i.hart).sb ≠ []) ∧
    (∃ (i : Issue) (s : State), canDrained i s = true) ∧
    (∃ (i : Issue) (s : State), canDrained i s = true ∧ sfenceFault i s = none) ∧
    (∃ (i : Issue) (s : State), canDrained i s = true ∧ (s.hart i.hart).priv = 0 ∧ (s.hart i.hart).virt = false) ∧
    (∃ (i : Issue) (s : State), canDrained i s = true ∧ irqWakes i.hart s = false ∧ wfiFault i.hart s = none) ∧
    (∃ (i : Issue) (s : State), canDrained i s = true ∧ irqWakes i.hart s = true) ∧
    (∃ (i : Issue) (s : State), canDrained i s = true ∧ (s.hart i.hart).resv ≠ none ∧ irqWakes i.hart s = false) ∧
    (∃ (i : Issue) (s : State), canDrained i s = true ∧ (s.hart i.hart).resv = none) ∧
    (∃ (i : Issue) (s : State), canDrained i s = true ∧ (s.hart i.hart).resv ≠ none ∧ irqWakes i.hart s = false) ∧
    (∃ (i : Issue) (s : State), canDrained i s = true ∧ (s.hart i.hart).resv = none) :=
  ⟨⟨i0, 5, ((l2Keys 0 64).headD 0), { va := 0x1000, size := 8, x := .ok 0x1000 0 [] },
    { va := 0x1000, pa := 0x1000, size := 8, pbmt := 0 }, 5, 0,
    ((runS.setB F.CD_CORE_CACHE_CTRL_L2_EN 0 true).setL2 ((l2Keys 0 64).headD 0) { line := 64, st := 3, data := 5 }),
    by decide +kernel⟩,
    ⟨i0, { va := 0x1000, size := 8, x := .ok 0x1000 1 [] }, { va := 0x1000, pa := 0x1000, size := 8, pbmt := 1 },
    (runS.onHart 0 fun t =>
      { (((t.setC 0x180 0x8000000000000000#64).setC 0x3A0 0x1F).setC 0x3B0 0xFFFFFFFFFFFFFFFF#64) with priv := 1 }),
    by decide +kernel⟩,
    ⟨i0, 5, ((l2Keys 0 64).headD 0), { va := 0x1000, size := 8, x := .ok 0x1000 0 [] },
    { va := 0x1000, pa := 0x1000, size := 8, pbmt := 0 }, 5, 0,
    ((runS.setB F.CD_CORE_CACHE_CTRL_L2_EN 0 true).setL2 ((l2Keys 0 64).headD 0) { line := 64, st := 3, data := 5 }),
    by decide +kernel⟩,
    ⟨i0, 5, ((l2Keys 0 64).headD 0), { va := 0x1000, size := 8, x := .ok 0x1000 0 [] },
    { va := 0x1000, pa := 0x1000, size := 8, pbmt := 0 }, 5, 0,
    (((runS.setB F.CD_CORE_CACHE_CTRL_L2_EN 0 true).setL2 ((l2Keys 0 64).headD 0)
      { line := 64, st := 3, data := 5 }).onHart 0 fun t => { t with resv := some 64 }),
    by decide +kernel⟩,
    ⟨i0, 5, { va := 0x1000, size := 8, x := .ok 0x1000 0 [] }, { va := 0x1000, pa := 0x1000, size := 8, pbmt := 0 },
    runS, by decide +kernel⟩,
    ⟨i0, { va := 0x1002, size := 4, x := .ok 0x1002 0 [] }, runS, by decide +kernel⟩,
    ⟨i0, { va := 0x1002, size := 4, x := .ok 0x1002 0 [] }, runS, by decide +kernel⟩,
    ⟨i0, { va := 0x1002, size := 4, x := .ok 0x1002 0 [] }, runS, by decide +kernel⟩,
    ⟨i0, runS, by decide +kernel⟩,
    ⟨i0, 2,
    (runS.onHart 0 fun t =>
      { t with sb := [{ kind := .store, pa := 0x1000, data := 0x1122334455667788, mask := 0xFF, w := true, pbmt := 0, part := 0, cls := .be }] }),
    by decide +kernel⟩,
    ⟨i0, 1,
    (runS.onHart 0 fun t =>
      { t with sb := [{ kind := .store, pa := 0x1000, data := 0x1122334455667788, mask := 0xFF, w := true, pbmt := 0, part := 0, cls := .be }] }),
    by decide +kernel⟩,
    ⟨i0, runS, by decide +kernel⟩,
    ⟨i0, runS, by decide +kernel⟩,
    ⟨i0, (runS.onHart 0 fun t => { t with priv := 0 }), by decide +kernel⟩,
    ⟨i0, runS, by decide +kernel⟩,
    ⟨i0, (runS.onHart 0 fun t => ((t.setC CSR.mie 8).setC CSR.mip 8)), by decide +kernel⟩,
    ⟨i0, (runS.onHart 0 fun t => { t with resv := some 3 }), by decide +kernel⟩,
    ⟨i0, runS, by decide +kernel⟩,
    ⟨i0, (runS.onHart 0 fun t => { t with resv := some 3 }), by decide +kernel⟩,
    ⟨i0, runS, by decide +kernel⟩⟩

theorem test_met_TrapsReturnsAndCsrs :
    (∃ (h : Nat) (x : Trap) (s : State), canTrap h s = true ∧ (s.hart h).trap = some x ∧
    excTarget (s.hart h) x.cause = 3) ∧
    (∃ (h : Nat) (c : Nat) (s : State), canTrap h s = true ∧ (s.hart h).trap = none ∧ secureIrq h s = false ∧
    irqTaken h s = some (c, 3)) ∧
    (∃ (i : Issue) (s : State), canSettle i s = true ∧ (s.hart i.hart).priv = 3 ∧
    ((s.hart i.hart).w = false ∨ (s.hart i.hart).nextW = true)) ∧
    (∃ (i : Issue) (s : State), canSettle i s = true ∧ (s.hart i.hart).priv = 3 ∧ (s.hart i.hart).w = true ∧
    (s.hart i.hart).nextW = false ∧ (s.hart i.hart).sb = [] ∧ effI false s = false ∧
    ((List.range 8).all fun k => bits ((s.hart i.hart).c (0x1000 + k)) 63 60 == 15) = true) ∧
    (∃ (i : Issue) (s : State), canSettle i s = true ∧ (s.hart i.hart).priv ≠ 3) ∧
    (∃ (i : Issue) (s : State), canSettle i s = true ∧ (s.hart i.hart).priv = 3 ∧
    ((s.hart i.hart).w = false ∨ (s.hart i.hart).nextW = true)) ∧
    (∃ (i : Issue) (s : State), canSettle i s = true ∧ (s.hart i.hart).virt = false ∧ sretFault i.hart s = none) ∧
    (∃ (i : Issue) (addr : Nat) (wr : Bool) (rd : Nat) (s : State), canSettle i s = true ∧ rd < 32 ∧
    addr ≠ CSR.mzdcfg ∧ csrFault (s.hart i.hart) addr wr = none ∧
    (csrAlias (s.hart i.hart) addr ≠ 0x351 ∧ csrAlias (s.hart i.hart) addr ≠ 0x151 ∧ csrAlias (s.hart i.hart) addr ≠
      0x251)) ∧
    (∃ (i : Issue) (s : State), canSettle i s = true ∧ (s.hart i.hart).priv = 3) ∧
    (∃ (i : Issue) (addr : Nat) (c : Nat) (wr : Bool) (s : State), canSettle i s = true ∧ addr ≠ CSR.mzdcfg ∧
    csrFault (s.hart i.hart) addr wr = some c) ∧
    (∃ (i : Issue) (s : State), canDrained i s = true ∧ (s.hart i.hart).priv = 3) ∧
    (∃ (i : Issue) (s : State), canDrained i s = true ∧ (s.hart i.hart).priv < 3) ∧
    (∃ (i : Issue) (s : State), canSettle i s = true ∧ (s.hart i.hart).priv ≠ 0 ∧ (s.hart i.hart).virt = false) :=
  ⟨⟨0, { cause := 2, tval := 5, epc := 0x80 },
    (runS.onHart 0 fun t => { (t.setC 0x305 0x4001#64) with trap := some { cause := 2, tval := 5, epc := 0x80 } }),
    by decide +kernel⟩,
    ⟨0, 3, (runS.onHart 0 fun t => (((t.setC CSR.mie 8).setC CSR.mip 8).setC CSR.mstatus 8).setC 0x305 0x4001),
    by decide +kernel⟩,
    ⟨i0, (runS.onHart 0 fun t => (t.setC 0x341 0x900).setC CSR.mstatus 0x880), by decide +kernel⟩,
    ⟨i0, ((runS.onHart 0 fun t => { t with nextW := false }).setR .WC_SAVE_PC 0 0x777), by decide +kernel⟩,
    ⟨i0, (runS.onHart 0 fun t => { t with priv := 1 }), by decide +kernel⟩,
    ⟨i0, (runS.onHart 0 fun t => (t.setC 0x341 0x900).setC CSR.mstatus 0x880), by decide +kernel⟩,
    ⟨i0, (runS.onHart 0 fun t => (t.setC 0x141 0x900).setC CSR.mstatus 0x100), by decide +kernel⟩,
    ⟨i0, 0xF14, false, 3, runS, by decide +kernel⟩,
    ⟨i0, runS, by decide +kernel⟩,
    ⟨i0, 0xF14, 2, true, runS, by decide +kernel⟩,
    ⟨i0, runS, by decide +kernel⟩,
    ⟨i0, (runS.onHart 0 fun t => { t with priv := 1 }), by decide +kernel⟩,
    ⟨i0, runS, by decide +kernel⟩⟩

theorem test_met_PhaseInstructions :
    (∃ (i : Issue) (s : State), canSettle i s = true ∧ XtOk i s ∧ i.enc &&& 0xFF0F8000#32 = 0 ∧ i.src ≤ 8 ∧
    replicaValid (hartDie i.hart s) s = true) ∧
    (∃ (i : Issue) (v : Word) (s : State), canSettle i s = true ∧ XtOk i s ∧ i.enc &&& 0xFF000000#32 = 0 ∧ i.src ≤ 8 ∧
    replicaValid (hartDie i.hart s) s = true ∧ phAfter v (replicaValue (hartDie i.hart s) i.src s) = false) ∧
    (∃ (i : Issue) (v : Word) (s : State), canSettle i s = true ∧ XtOk i s ∧ i.enc &&& 0xFF000000#32 = 0 ∧ i.src ≤ 8 ∧
    replicaValid (hartDie i.hart s) s = true ∧ phAfter v (replicaValue (hartDie i.hart s) i.src s) = true) ∧
    (∃ (h : Nat) (rd : Nat) (src : Nat) (len : Nat) (v : Word) (enc : BitVec 32) (s : State),
    (s.hart h).stall = .phWait rd src v len enc ∧ stallRuns h s = true ∧ replicaValid (hartDie h s) s = true ∧
    phAfter v (replicaValue (hartDie h s) src s) = false ∧ rd < 32) ∧
    (∃ (h : Nat) (rd : Nat) (src : Nat) (len : Nat) (v : Word) (enc : BitVec 32) (s : State),
    (s.hart h).stall = .phWait rd src v len enc ∧ stallRuns h s = true ∧ replicaValid (hartDie h s) s = false) ∧
    (∃ (i : Issue) (s : State), canSettle i s = true ∧ XtOk i s ∧ i.enc &&& 0xFC000F80#32 = 0 ∧ i.src ≤ 8 ∧
    replicaValid (hartDie i.hart s) s = true) ∧
    (∃ (i : Issue) (s : State), canSettle i s = true ∧ XtOk i s ∧ i.enc &&& 0xFCFF8000#32 = 0 ∧
    (s.hart i.hart).monEn i.mon = false) ∧
    (∃ (i : Issue) (s : State), canSettle i s = true ∧ XtOk i s ∧ i.enc &&& 0xFCFF8000#32 = 0 ∧
    (s.hart i.hart).monEn i.mon = true ∧
    (replicaValid (hartDie i.hart s) s = false ∨ phBefore ((s.hart i.hart).c (0x5C0 + i.mon)) (replicaValue (hartDie
      i.hart s) ((s.hart i.hart).monSrc i.mon) s) = true)) ∧
    (∃ (h : Nat) (m : Nat) (s : State), m < 4 ∧ (s.hart h).monEn m = true ∧
    (replicaValid (hartDie h s) s = false ∨ phBefore ((s.hart h).c (0x5C0 + m)) (replicaValue (hartDie h s) ((s.hart
      h).monSrc m) s) = true)) ∧
    (∃ (h : Nat) (m : Nat) (s : State), (s.hart h).monEn m = false) ∧
    (∃ (i : Issue) (pa : Nat) (pbmt : Nat) (va : Word) (y : Xlate) (s : State), canSettle i s = true ∧
    (s.hart i.hart).sb.length < 48 ∧ XtOk i s ∧ i.enc &&& 0x00000800#32 = 0 ∧
    xlated i.hart .store va y s = .ok (pa, pbmt) ∧ tsTarget pa i.tsSize va = none ∧ (s.tsQ i.hart).length < 16) ∧
    (∃ (i : Issue) (pa : Nat) (pbmt : Nat) (va : Word) (y : Xlate) (s : State), canSettle i s = true ∧
    (s.hart i.hart).sb.length < 48 ∧ XtOk i s ∧ i.enc &&& 0x00000800#32 = 0 ∧
    xlated i.hart .store va y s = .ok (pa, pbmt) ∧ tsTarget pa i.tsSize va = none ∧ 16 ≤ (s.tsQ i.hart).length ∧
    bit ((s.hart i.hart).c CSR.mzdtsq) 8 = true) ∧
    (∃ (i : Issue) (pa : Nat) (pbmt : Nat) (va : Word) (y : Xlate) (s : State), canSettle i s = true ∧
    (s.hart i.hart).sb.length < 48 ∧ XtOk i s ∧ i.enc &&& 0x00000800#32 = 0 ∧
    xlated i.hart .store va y s = .ok (pa, pbmt) ∧ tsTarget pa i.tsSize va = none ∧ 16 ≤ (s.tsQ i.hart).length ∧
    bit ((s.hart i.hart).c CSR.mzdtsq) 8 = false) ∧
    (∃ (i : Issue) (pa : Nat) (pbmt : Nat) (va : Word) (y : Xlate) (s : State), canSettle i s = true ∧
    (s.hart i.hart).sb.length < 48 ∧ XtOk i s ∧ i.enc &&& 0x00000800#32 = 0 ∧
    xlated i.hart .store va y s = .ok (pa, pbmt) ∧ va.toNat % i.tsSize ≠ 0) ∧
    (∃ (h : Nat) (len : Nat) (pbmt : Nat) (x : TsInfo) (cls : TClass) (s : State),
    (s.hart h).stall = .tsFull x len pbmt cls ∧ stallRuns h s = true ∧ (s.tsQ h).length < 16 ∧
    (s.hart h).sb.length < 48) ∧
    (∃ (h : Nat) (k : Nat) (e : TsEntry) (s : State), s.out.contains (.timed h k) = true ∧
    bridgeActive (hartDie h s) s = true ∧ tsBehind h (.timed h k) s = false ∧
    (s.tsQ h).find? (fun x => x.id == k && x.stage == 0) = some e ∧
    (sourceLive e.info.src s = true → phAfter e.info.phase (sourceCount e.info.src s) = true)) ∧
    (∃ (h : Nat) (k : Nat) (e : TsEntry) (s : State), s.out.contains (.timed h k) = true ∧
    bridgeActive (hartDie h s) s = true ∧ tsBehind h (.timed h k) s = false ∧
    (s.tsQ h).find? (fun x => x.id == k && x.stage == 0) = some e ∧ sourceLive e.info.src s = true ∧
    phAfter e.info.phase (sourceCount e.info.src s) = false ∧ e.info.ld = true) ∧
    (∃ (h : Nat) (k : Nat) (e : TsEntry) (s : State), (s.tsQ h).find? (fun x => x.id == k && x.stage == 1) = some e ∧
    sourceLive e.info.src s = true ∧
    crosses 0 (sourcePrev e.info.src s) (sourceCount e.info.src s) e.info.phase = true) ∧
    (∃ (h : Nat) (e : TsEntry) (s : State), tsNext s = some (h, e)) ∧
    (∃ (i : Issue) (s : State), canSettle i s = true ∧ XtOk i s ∧ (∀ e ∈ s.tsQ i.hart, e.stage ≠ 0) ∧
    i.enc &&& 0xFFF00000#32 = 0 ∧ i.rs1 = 0) ∧
    (∃ (i : Issue) (pa : Nat) (pbmt : Nat) (va : Word) (y : Xlate) (s : State), canSettle i s = true ∧ XtOk i s ∧
    (∀ e ∈ s.tsQ i.hart, e.stage ≠ 0) ∧ i.enc &&& 0xFFF00000#32 = 0 ∧ i.rs1 ≠ 0 ∧
    xlated i.hart .store va y s = .ok (pa, pbmt)) ∧
    (∃ (h : Nat) (rd : Nat) (len : Nat) (w : Bool) (ad : Option Nat) (s : State),
    s.out.contains (.tsCancel h w ad) = true ∧ bridgeActive (hartDie h s) s = true ∧
    tsBehind h (.tsCancel h w ad) s = false ∧ (s.hart h).stall = .tsCancel rd len ∧ rd < 32) :=
  ⟨⟨{ hart := 0, pc := 0, enc := 0x800200 }, (runS.setFbit F.PHE_REPLICA_STATUS_VALID 0 0 true), by decide +kernel⟩,
    ⟨{ hart := 0, pc := 0, enc := 0x800200 }, 0, (runS.setFbit F.PHE_REPLICA_STATUS_VALID 0 0 true),
    by decide +kernel⟩,
    ⟨{ hart := 0, pc := 0, enc := 0x800200 }, 5, (runS.setFbit F.PHE_REPLICA_STATUS_VALID 0 0 true),
    by decide +kernel⟩,
    ⟨0, 4, 8, 4, 0, 9,
    ((runS.onHart 0 fun t => { t with stall := .phWait 4 8 0 4 9 }).setFbit F.PHE_REPLICA_STATUS_VALID 0 0 true),
    by decide +kernel⟩,
    ⟨0, 4, 8, 4, 0, 9, (runS.onHart 0 fun t => { t with stall := .phWait 4 8 0 4 9 }), by decide +kernel⟩,
    ⟨{ hart := 0, pc := 0, enc := 0x2800000 }, (runS.setFbit F.PHE_REPLICA_STATUS_VALID 0 0 true), by decide +kernel⟩,
    ⟨{ hart := 0, pc := 0, enc := 0x3000200 }, (runS.onHart 0 fun t => t.setC CSR.szddlctl 0x20000000),
    by decide +kernel⟩,
    ⟨{ hart := 0, pc := 0, enc := 0x1000200 },
    (((runS.setFbit F.PHE_REPLICA_STATUS_VALID 0 0 true)).onHart 0 fun t => t.arm 1 8 (0 - 5)), by decide +kernel⟩,
    ⟨0, 1, (((runS.setFbit F.PHE_REPLICA_STATUS_VALID 0 0 true)).onHart 0 fun t => t.arm 1 8 (0 - 5)),
    by decide +kernel⟩,
    ⟨0, 1, runS, by decide +kernel⟩,
    ⟨{ hart := 0, pc := 0, enc := 0x6000480 }, 0xFF1000000000, 0, 0xFF1000000000#64, .ok 0xFF1000000000 2 [], runS,
    by decide +kernel⟩,
    ⟨{ hart := 0, pc := 0, enc := 0x6000480 }, 0xFF1000000000, 0, 0xFF1000000000#64, .ok 0xFF1000000000 2 [],
    ((runS.setTsQ 0 (List.replicate 16 ⟨0, ⟨0, 4, 0, 0, 1, true, true, 0⟩, 1, 0⟩)).onHart 0 fun t => t.setC CSR.mzdtsq
      0x100),
    by decide +kernel⟩,
    ⟨{ hart := 0, pc := 0, enc := 0x6000480 }, 0xFF1000000000, 0, 0xFF1000000000#64, .ok 0xFF1000000000 2 [],
    (runS.setTsQ 0 (List.replicate 16 ⟨0, ⟨0, 4, 0, 0, 1, true, true, 0⟩, 1, 0⟩)), by decide +kernel⟩,
    ⟨{ hart := 0, pc := 0, enc := 0x6000480 }, 0xFF1000000001, 0, 0xFF1000000001#64, .ok 0xFF1000000000 2 [], runS,
    by decide +kernel⟩,
    ⟨0, 4, 2, ⟨0xFF1000000000, 4, 5, 9, 1, true, true, 0⟩, .be,
    (runS.onHart 0 fun t => { t with stall := .tsFull ⟨0xFF1000000000, 4, 5, 9, 1, true, true, 0⟩ 4 2 .be }),
    by decide +kernel⟩,
    ⟨0, 3, ⟨3, ⟨0xFF1000000000, 4, 5, 9, 1, true, true, 0⟩, 0, 0⟩,
    { (runS.setF F.BR_STATUS_STATE 0 6).setTsQ 0 [⟨3, ⟨0xFF1000000000, 4, 5, 9, 1, true, true, 0⟩, 0, 0⟩] with out := [.timed 0 3] },
    by decide +kernel⟩,
    ⟨0, 3, ⟨3, ⟨0xFF1000000000, 4, 5, 9, 1, true, true, 0⟩, 0, 0⟩,
    { (((runS.setF F.BR_STATUS_STATE 0 6).setF F.PHE_PORT_STATUS_STATE 1 2).setR .PHE_PORT_PHASE 1 20).setTsQ 0 [⟨3, ⟨0xFF1000000000, 4, 5, 9, 1, true, true, 0⟩, 0, 0⟩] with out := [.timed 0 3] },
    by decide +kernel⟩,
    ⟨0, 3, ⟨3, ⟨0xFF1000000000, 4, 5, 9, 1, true, true, 0⟩, 1, 0⟩,
    (((runS.setF F.PHE_PORT_STATUS_STATE 1 2).setR .PHE_PORT_PHASE 1 20).setTsQ 0
      [⟨3, ⟨0xFF1000000000, 4, 5, 9, 1, true, true, 0⟩, 1, 0⟩]),
    by decide +kernel⟩,
    ⟨0, ⟨3, ⟨0xFF1000000000, 4, 5, 9, 1, true, true, 0⟩, 2, 7⟩,
    (runS.setTsQ 0 [⟨3, ⟨0xFF1000000000, 4, 5, 9, 1, true, true, 0⟩, 2, 7⟩]), by decide +kernel⟩,
    ⟨{ hart := 0, pc := 0, enc := 0x200 }, runS, by decide +kernel⟩,
    ⟨{ hart := 0, pc := 0, enc := 0x8200 }, 0x1000, 0, 0x1000, .ok 0 0 [], runS, by decide +kernel⟩,
    ⟨0, 4, 4, true, none,
    { ((runS.setF F.BR_STATUS_STATE 0 6).setTsQ 0 [⟨3, ⟨0xFF1000000000, 4, 5, 9, 1, true, true, 0⟩, 1, 0⟩]).onHart 0 (fun t => { t with stall := .tsCancel 4 4 }) with out := [.tsCancel 0 true none] },
    by decide +kernel⟩⟩

theorem test_met_TasksAndDispatch :
    (∃ (i : Issue) (d : Disp) (l : Line) (s : State), canDrained i s = true ∧ XtOk i s ∧ i.enc &&& 0xFFF00F80#32 = 0 ∧
    (s.hart i.hart).pend = some d ∧ tdcFind d.desc (s.hart i.hart).tdc = some l) ∧
    (∃ (i : Issue) (s : State), canDrained i s = true ∧ XtOk i s ∧ i.enc &&& 0xFFF00F80#32 = 0 ∧
    (s.hart i.hart).pend = none ∧ irqTaken i.hart s = none ∧ secureIrq i.hart s = false ∧ i.rs1 = 0) ∧
    (∃ (i : Issue) (s : State), canSettle i s = true ∧ XtOk i s ∧ i.enc &&& 0xFFCF8000#32 = 0) ∧
    (∃ (h : Nat) (desc : Nat) (arg : BitVec 32) (ph : Word) (inst : Word) (e : Nat) (src : Nat) (late : Bool) (w :
      Bool) (part : Nat) (s : State),
    s.out.contains (Msg.dispatch h desc arg ph inst e src late w part) = true ∧ dieOn (hartDie h s) s = true ∧
    bridgeActive (hartDie h s) s = true ∧ parkedDisp h s = false ∧ (s.hart h).pend = none) ∧
    (∃ (h : Nat) (desc : Nat) (arg : BitVec 32) (ph : Word) (inst : Word) (e : Nat) (src : Nat) (late : Bool) (w :
      Bool) (part : Nat) (s : State),
    s.out.contains (Msg.dispatch h desc arg ph inst e src late w part) = true ∧ dieOn (hartDie h s) s = true ∧
    bridgeActive (hartDie h s) s = true ∧ parkedDisp h s = false ∧ (s.hart h).pend ≠ none) ∧
    (∃ (h : Nat) (desc : Nat) (arg : BitVec 32) (ph : Word) (inst : Word) (e : Nat) (src : Nat) (late : Bool) (w :
      Bool) (part : Nat) (l : Line) (s : State),
    s.out.contains (Msg.dispatch h desc arg ph inst e src late w part) = true ∧ dieOn (hartDie h s) s = true ∧
    bridgeActive (hartDie h s) s = true ∧ parkedDisp h s = true ∧ tdcFind desc (s.hart h).tdc = some l) ∧
    (∃ (i : Issue) (s : State), canDrained i s = true ∧ s.tsQ i.hart = [] ∧ (s.hart i.hart).priv < 3 ∧
    bit ((s.hart i.hart).c CSR.mzdcfg) 2 = false) ∧
    (∃ (i : Issue) (s : State), canDrained i s = true ∧ s.tsQ i.hart = [] ∧ (s.hart i.hart).priv < 3 ∧
    bit ((s.hart i.hart).c CSR.mzdcfg) 2 = false) ∧
    (∃ (i : Issue) (s : State), canDrained i s = true ∧ s.tsQ i.hart = [] ∧ (s.hart i.hart).priv < 3 ∧
    bit ((s.hart i.hart).c CSR.mzdcfg) 2 = false) ∧
    (∃ (i : Issue) (s : State), canDrained i s = true ∧ s.tsQ i.hart = [] ∧ (s.hart i.hart).priv < 3 ∧
    bit ((s.hart i.hart).c CSR.mzdcfg) 2 = false) ∧
    (∃ (i : Issue) (s : State), canDrained i s = true ∧ s.tsQ i.hart = [] ∧ (s.hart i.hart).priv < 3 ∧
    bit ((s.hart i.hart).c CSR.mzdcfg) 2 = false) ∧
    (∃ (i : Issue) (s : State), canDrained i s = true ∧ s.tsQ i.hart = [] ∧ (s.hart i.hart).priv < 3 ∧
    bit ((s.hart i.hart).c CSR.mzdcfg) 2 = false) ∧
    (∃ (i : Issue) (s : State), canDrained i s = true ∧ s.tsQ i.hart = [] ∧ (s.hart i.hart).priv < 3 ∧
    bit ((s.hart i.hart).c CSR.mzdcfg) 2 = false) ∧
    (∃ (i : Issue) (s : State), canDrained i s = true ∧ s.tsQ i.hart = [] ∧ (s.hart i.hart).priv < 3 ∧
    bit ((s.hart i.hart).c CSR.mzdcfg) 2 = false) ∧
    (∃ (i : Issue) (s : State), canDrained i s = true ∧ s.tsQ i.hart = [] ∧ (s.hart i.hart).priv < 3 ∧
    bit ((s.hart i.hart).c CSR.mzdcfg) 2 = false) ∧
    (∃ (i : Issue) (s : State), canDrained i s = true ∧ s.tsQ i.hart = [] ∧ (s.hart i.hart).priv < 3 ∧
    bit ((s.hart i.hart).c CSR.mzdcfg) 2 = false) ∧
    (∃ (i : Issue) (s : State), canSettle i s = true ∧ (s.hart i.hart).priv < 3 ∧ (s.hart i.hart).virt = true ∧
    bit ((s.hart i.hart).c CSR.mzdcfg) 2 = true ∧ bit ((s.hart i.hart).c CSR.mzdcfg) 3 = false) ∧
    (∃ (i : Issue) (s : State), canSettle i s = true ∧ XtOk i s ∧ i.enc &&& 0xFF0F8000#32 = 0 ∧ i.src ≤ 8 ∧
    replicaValid (hartDie i.hart s) s = false) ∧
    (∃ (i : Issue) (s : State), canSettle i s = true ∧ XtOk i s ∧ i.enc &&& 0xFF000000#32 = 0 ∧ i.src ≤ 8 ∧
    replicaValid (hartDie i.hart s) s = false) ∧
    (∃ (i : Issue) (s : State), canSettle i s = true ∧ XtOk i s ∧ i.enc &&& 0xFC000F80#32 = 0 ∧ i.src ≤ 8 ∧
    replicaValid (hartDie i.hart s) s = false) :=
  ⟨⟨i0, ⟨3, 7, 9, 1, 2, 1, false⟩, 0x1001,
    (runS.onHart 0 fun t => { t with pend := some ⟨3, 7, 9, 1, 2, 1, false⟩, tdc := [(3, 0x1001)] }),
    by decide +kernel⟩,
    ⟨i0, runS, by decide +kernel⟩,
    ⟨{ hart := 0, pc := 0, enc := 0x300200 }, (runS.onHart 0 fun t => { t with task3 := 8 }), by decide +kernel⟩,
    ⟨0, 3, 7, 9, 1, 2, 1, false, true, 0,
    { (runS.setF F.BR_STATUS_STATE 0 6) with out := [(Msg.dispatch 0 3 7 9 1 2 1 false true 0)] }, by decide +kernel⟩,
    ⟨0, 3, 7, 9, 1, 2, 1, false, true, 0,
    { (runS.setF F.BR_STATUS_STATE 0 6).onHart 0 (fun t => { t with pend := some ⟨3, 7, 9, 1, 2, 1, false⟩ }) with out := [(Msg.dispatch 0 3 7 9 1 2 1 false true 0)] },
    by decide +kernel⟩,
    ⟨0, 3, 7, 9, 1, 2, 1, false, true, 0, 0x1001,
    { (runS.setF F.BR_STATUS_STATE 0 6).onHart 0 (fun t => { t with st := .wait .disp, tdc := [(3, 0x1001)] }) with out := [(Msg.dispatch 0 3 7 9 1 2 1 false true 0)] },
    by decide +kernel⟩,
    ⟨i0, (runS.onHart 0 fun t => { t with priv := 1 }), by decide +kernel⟩,
    ⟨i0, (runS.onHart 0 fun t => { t with priv := 1 }), by decide +kernel⟩,
    ⟨i0, (runS.onHart 0 fun t => { t with priv := 1 }), by decide +kernel⟩,
    ⟨i0, (runS.onHart 0 fun t => { t with priv := 1 }), by decide +kernel⟩,
    ⟨i0, (runS.onHart 0 fun t => { t with priv := 1 }), by decide +kernel⟩,
    ⟨i0, (runS.onHart 0 fun t => { t with priv := 1 }), by decide +kernel⟩,
    ⟨i0, (runS.onHart 0 fun t => { t with priv := 1 }), by decide +kernel⟩,
    ⟨i0, (runS.onHart 0 fun t => { t with priv := 1 }), by decide +kernel⟩,
    ⟨i0, (runS.onHart 0 fun t => { t with priv := 1 }), by decide +kernel⟩,
    ⟨i0, (runS.onHart 0 fun t => { t with priv := 1 }), by decide +kernel⟩,
    ⟨i0, (runS.onHart 0 fun t => { (t.setC CSR.mzdcfg 4) with priv := 1, virt := true }), by decide +kernel⟩,
    ⟨i0, runS, by decide +kernel⟩,
    ⟨i0, runS, by decide +kernel⟩,
    ⟨i0, runS, by decide +kernel⟩⟩

theorem test_met_PowerInput :
    (∃ (volts : Nat) (s : State), volts < pfWarn s ∧ s.pkgOff = false ∧ s.f F.PWR_STATUS_PKG_STATE 0 ≠ 2 ∧
    s.pkgEnd = none) ∧
    (∃ (volts : Nat) (s : State), pfWarn s + 100 < volts ∧ s.b F.PWR_STATUS_PF_ACTIVE 0 = true ∧ s.pkgEnd = none) ∧
    (∃ (s : State), min 10000 (s.f F.PWR_PF_CFG_GRACE 0) * tbMicro ≤ (s.tb - s.pfAt).toNat ∧
    s.b F.PWR_STATUS_PF_ACTIVE 0 = true ∧ s.pkgEnd = none ∧ s.f F.PWR_CTRL_PF_ACTION 0 = 2) ∧
    (∃ (s : State), min 10000 (s.f F.PWR_PF_CFG_GRACE 0) * tbMicro ≤ (s.tb - s.pfAt).toNat ∧
    s.b F.PWR_STATUS_PF_ACTIVE 0 = true ∧ s.pkgEnd = none ∧ s.f F.PWR_CTRL_PF_ACTION 0 ≠ 2) ∧
    (∃ (e : PkgEnd) (s : State), s.pkgEnd = some e ∧ (endFlush s).1 = true ∧ e.goal = 0) ∧
    (∃ (e : PkgEnd) (s : State), s.pkgEnd = some e ∧ (endFlush s).1 = true ∧ e.goal = 1) ∧
    (∃ (s : State), s.pkgOff = false) ∧
    (∃ (s : State), s.pkgOff = false) ∧
    (∃ (volts : Nat) (s : State), pfWarn s + 100 < volts ∧ s.f F.PWR_STATUS_PKG_STATE 0 = 2) ∧
    (∃ (i : Nat) (s : State), i < 2 ∧ s.pkgOff = false ∧ s.f F.PWR_STATUS_PW_OK 0 = 3) ∧
    (∃ (i : Nat) (s : State), i < 2 ∧ s.pkgOff = false ∧ s.f F.PWR_STATUS_PW_OK 0 = 2 ^ i) ∧
    (∃ (s : State), s.pkgEnd ≠ none ∧ (endFlush s).1 = true) ∧
    (∃ (k : Nat) (s : State), s.pkgEnd = none ∧ s.f F.PWR_STATUS_PKG_STATE 0 ≠ 2 ∧ unitOff (289 + k) s = false) :=
  ⟨⟨3000, State.reset, by decide +kernel⟩,
    ⟨5000, (State.reset.setB F.PWR_STATUS_PF_ACTIVE 0 true), by decide +kernel⟩,
    ⟨(((State.reset.setB F.PWR_STATUS_PF_ACTIVE 0 true).setF F.PWR_CTRL_PF_ACTION 0 2).setF F.PWR_PF_CFG_GRACE 0 0),
    by decide +kernel⟩,
    ⟨((State.reset.setB F.PWR_STATUS_PF_ACTIVE 0 true).setF F.PWR_PF_CFG_GRACE 0 0), by decide +kernel⟩,
    ⟨{ goal := 0, pf := true }, { State.reset with pkgEnd := some { goal := 0, pf := true } }, by decide +kernel⟩,
    ⟨{ goal := 1 }, { State.reset with pkgEnd := some { goal := 1 } }, by decide +kernel⟩,
    ⟨State.reset, by decide +kernel⟩,
    ⟨State.reset, by decide +kernel⟩,
    ⟨5000, (State.reset.setF F.PWR_STATUS_PKG_STATE 0 2), by decide +kernel⟩,
    ⟨1, (State.reset.setF F.PWR_STATUS_PW_OK 0 3), by decide +kernel⟩,
    ⟨1, (State.reset.setF F.PWR_STATUS_PW_OK 0 2), by decide +kernel⟩,
    ⟨{ State.reset with pkgEnd := some { goal := 0, pf := true } }, by decide +kernel⟩,
    ⟨3, (State.reset.setF F.MC_STATUS_SELFREF 3 15), by decide +kernel⟩⟩

theorem test_met_PowerRequests :
    (∃ (a : Access) (k : Nat) (u : Nat) (s : State), Allowed a true .PWR_REQ k s ∧ k < 2 ∧
    s.b F.PWR_REQ_STATUS_BUSY k = false ∧ s.pkgEnd = none ∧ 256 ≤ u ∧ u < 268 ∧
    smapGet (fun _ => none) s.dieTrans (u - 256) = none ∧ smapGet (fun _ => none) s.freqGoal (u - 256) = none ∧
    inChimney s = false ∧ s.f F.PWR_DIE_STATE (u - 256) = 0) ∧
    (∃ (a : Access) (k : Nat) (u : Nat) (s : State), Allowed a true .PWR_REQ k s ∧ k < 2 ∧
    s.b F.PWR_REQ_STATUS_BUSY k = false ∧ s.pkgEnd = none ∧ 256 ≤ u ∧ u < 268 ∧
    smapGet (fun _ => none) s.dieTrans (u - 256) = none ∧ smapGet (fun _ => none) s.freqGoal (u - 256) = none ∧
    inChimney s = false ∧ s.f F.PWR_DIE_STATE (u - 256) = 1) ∧
    (∃ (a : Access) (k : Nat) (u : Nat) (w : WaitKind) (s : State), Allowed a true .PWR_REQ k s ∧ k < 2 ∧
    s.b F.PWR_REQ_STATUS_BUSY k = false ∧ s.pkgEnd = none ∧ u < 256 ∧ hartExists u s = true ∧
    s.f F.PWR_DIE_STATE (hartDie u s) ≠ 3 ∧ (s.hart u).st = .gated w ∧ w ≠ .req) ∧
    (∃ (a : Access) (k : Nat) (u : Nat) (s : State), Allowed a true .PWR_REQ k s ∧ k < 2 ∧
    s.b F.PWR_REQ_STATUS_BUSY k = false ∧ s.pkgEnd = none ∧ u < 256 ∧ (k = 1 ∨ mittenEff u s = false) ∧
    hartExists u s = true ∧ s.f F.PWR_DIE_STATE (hartDie u s) ≠ 3 ∧ (s.hart u).st = .run ∧ inPhWait u s = false) ∧
    (∃ (a : Access) (k : Nat) (u : Nat) (s : State), Allowed a true .PWR_REQ k s ∧ k < 2 ∧
    s.b F.PWR_REQ_STATUS_BUSY k = false ∧ s.pkgEnd = none ∧ 256 ≤ u ∧ u < 268 ∧ (k = 1 ∨ mittenEff u s = false) ∧
    smapGet (fun _ => none) s.dieTrans (u - 256) = none ∧ smapGet (fun _ => none) s.freqGoal (u - 256) = none ∧
    s.f F.PWR_DIE_STATE (u - 256) = 2) ∧
    (∃ (a : Access) (k : Nat) (u : Nat) (s : State), Allowed a true .PWR_REQ k s ∧ k < 2 ∧
    s.b F.PWR_REQ_STATUS_BUSY k = false ∧ s.pkgEnd = none ∧ 256 ≤ u ∧ u < 268 ∧ (k = 1 ∨ mittenEff u s = false) ∧
    smapGet (fun _ => none) s.dieTrans (u - 256) = none ∧ smapGet (fun _ => none) s.freqGoal (u - 256) = none ∧
    s.f F.PWR_DIE_STATE (u - 256) = 2) ∧
    (∃ (a : Access) (k : Nat) (u : Nat) (s : State), Allowed a true .PWR_REQ k s ∧ k < 2 ∧
    s.b F.PWR_REQ_STATUS_BUSY k = false ∧ s.pkgEnd = none ∧ 256 ≤ u ∧ u < 268 ∧ (k = 1 ∨ mittenEff u s = false) ∧
    smapGet (fun _ => none) s.dieTrans (u - 256) = none ∧ smapGet (fun _ => none) s.freqGoal (u - 256) = none ∧
    s.f F.PWR_DIE_STATE (u - 256) = 2 ∧ released s = true ∧ s.b F.PWR_STATUS_PF_ACTIVE 0 = false) ∧
    (∃ (a : Access) (k : Nat) (u : Nat) (s : State), Allowed a true .PWR_REQ k s ∧ k < 2 ∧
    s.b F.PWR_REQ_STATUS_BUSY k = false ∧ s.pkgEnd = none ∧ 268 ≤ u ∧ u ≤ 304 ∧ (k = 1 ∨ mittenEff u s = false)) ∧
    (∃ (a : Access) (k : Nat) (u : Nat) (s : State), Allowed a true .PWR_REQ k s ∧ k < 2 ∧
    s.b F.PWR_REQ_STATUS_BUSY k = false ∧ s.pkgEnd = none ∧ 268 ≤ u ∧ u ≤ 304 ∧ inChimney s = false) ∧
    (∃ (a : Access) (k : Nat) (s : State), Allowed a true .PWR_REQ k s ∧ k < 2 ∧ s.b F.PWR_REQ_STATUS_BUSY k = false ∧
    s.pkgEnd = none ∧ (k = 1 ∨ heldUnit s = none)) ∧
    (∃ (a : Access) (k : Nat) (s : State), Allowed a true .PWR_REQ k s ∧ k < 2 ∧ s.b F.PWR_REQ_STATUS_BUSY k = false ∧
    s.pkgEnd = none ∧ (k = 1 ∨ heldUnit s = none)) ∧
    (∃ (a : Access) (k : Nat) (u : Nat) (f : Nat) (s : State), Allowed a true .PWR_REQ k s ∧ k < 2 ∧
    s.b F.PWR_REQ_STATUS_BUSY k = false ∧ s.pkgEnd = none ∧ 256 ≤ u ∧ u < 268 ∧
    smapGet (fun _ => none) s.dieTrans (u - 256) = none ∧ smapGet (fun _ => none) s.freqGoal (u - 256) = none ∧
    8 ≤ f ∧ f ≤ 22 ∧ s.b F.PWR_CTRL_PLOCK_REQ 0 = false ∧ s.f F.PWR_DIE_STATE (u - 256) = 2) ∧
    (∃ (a : Access) (k : Nat) (u : Nat) (f : Nat) (s : State), Allowed a true .PWR_REQ k s ∧ k < 2 ∧
    s.b F.PWR_REQ_STATUS_BUSY k = false ∧ s.pkgEnd = none ∧ 256 ≤ u ∧ u < 268 ∧ f < 8) ∧
    (∃ (a : Access) (k : Nat) (u : Nat) (s : State), Allowed a true .PWR_REQ k s ∧ k = 0 ∧
    s.b F.PWR_REQ_STATUS_BUSY k = false ∧ s.pkgEnd = none ∧ 256 ≤ u ∧ u < 268 ∧
    smapGet (fun _ => none) s.dieTrans (u - 256) = none ∧ smapGet (fun _ => none) s.freqGoal (u - 256) = none ∧
    mittenEff u s = true) ∧
    (∃ (a : Access) (k : Nat) (u : Nat) (s : State), Allowed a true .PWR_REQ k s ∧ 2 ≤ k ∧ k < 128 ∧
    s.b F.PWR_REQ_STATUS_BUSY k = false ∧ s.pkgEnd = none ∧ 256 ≤ u ∧ u < 268) ∧
    (∃ (a : Access) (k : Nat) (s : State), Allowed a true .PWR_REQ k s ∧ k < 128 ∧ s.b F.PWR_REQ_STATUS_BUSY k = true) :=
  ⟨⟨accS, 1, 258, State.reset, by decide +kernel⟩,
    ⟨accS, 1, 258, (State.reset.setF F.PWR_DIE_STATE 2 1), by decide +kernel⟩,
    ⟨accS, 1, 0, .wfi, (runS.onHart 0 fun t => { t with st := .gated .wfi }), by decide +kernel⟩,
    ⟨accS, 1, 0, runS, by decide +kernel⟩,
    ⟨accS, 1, 258, ((State.reset.setF F.PWR_DIE_STATE 2 2).setF F.ST_STATUS_PHASE 0 7), by decide +kernel⟩,
    ⟨accS, 1, 258, ((State.reset.setF F.PWR_DIE_STATE 2 2).setF F.ST_STATUS_PHASE 0 7), by decide +kernel⟩,
    ⟨accS, 1, 258, ((State.reset.setF F.PWR_DIE_STATE 2 2).setF F.ST_STATUS_PHASE 0 7), by decide +kernel⟩,
    ⟨accS, 1, 290, State.reset, by decide +kernel⟩,
    ⟨accS, 1, 290, { State.reset with clkOff := [290] }, by decide +kernel⟩,
    ⟨accS, 1, State.reset, by decide +kernel⟩,
    ⟨accS, 1, State.reset, by decide +kernel⟩,
    ⟨accS, 1, 258, 12, (State.reset.setF F.PWR_DIE_STATE 2 2), by decide +kernel⟩,
    ⟨accS, 1, 258, 2, State.reset, by decide +kernel⟩,
    ⟨accO, 0, 258, ((State.reset.setF F.PWR_DIE_STATE 2 2).setF F.WC_MITTEN_VAL 4 4), by decide +kernel⟩,
    ⟨⟨true, 3, 0⟩, 7, 258, State.reset, by decide +kernel⟩,
    ⟨accS, 1, (State.reset.setB F.PWR_REQ_STATUS_BUSY 1 true), by decide +kernel⟩⟩

theorem test_met_DiesCoresAndClocks :
    (∃ (h : Nat) (w : WaitKind) (s : State), coreMayGate h s = some w ∧ hartExists h s = true ∧
    dieOn (hartDie h s) s = true ∧ hartDrained h s = true ∧
    s.b F.PWR_REQ_STATUS_BUSY (2 * hartPart h s + (if (s.hart h).w then 1 else 0)) = false ∧ s.pkgEnd = none ∧
    ((s.hart h).w = true ∨ mittenEff h s = false)) ∧
    (∃ (n : Nat) (pos : Nat) (h : Nat) (w : WaitKind) (s : State), hartAt n pos s = some h ∧
    coreMayGate h s = some w ∧ hartExists h s = true ∧ dieOn (hartDie h s) s = true ∧ hartDrained h s = true ∧
    s.b F.PWR_REQ_STATUS_BUSY (2 * hartPart h s + (if (s.hart h).w then 1 else 0)) = false ∧ s.pkgEnd = none ∧
    ((s.hart h).w = true ∨ mittenEff h s = false)) ∧
    (∃ (n : Nat) (pos : Nat) (h : Nat) (w : WaitKind) (s : State), hartAt n pos s = some h ∧ dieOn n s = true ∧
    (s.hart h).st = .gated w ∧ w ≠ .req) ∧
    (∃ (n : Nat) (pos : Nat) (h : Nat) (w : WaitKind) (s : State), hartAt n pos s = some h ∧ dieOn n s = true ∧
    (s.hart h).st = .wait w ∧ hartDrained h s = true ∧ ((s.hart h).w = true ∨ mittenEff h s = false)) ∧
    (∃ (h : Nat) (w : WaitKind) (s : State), (s.hart h).st = .gating w ∧ hartDrained h s = true ∧
    (s.out.any fun m => match m with | .pkt q => q.op == .wbL && q.src == coreAgent (coreOf h s) | _ => false) =
      false) ∧
    (∃ (h : Nat) (s : State), hartExists h s = true ∧ dieOn (hartDie h s) s = true ∧ (s.hart h).halted = false ∧
    (s.hart h).st = .wait .wfi ∧ irqWakes h s = true) ∧
    (∃ (h : Nat) (b : Bool) (sto : Bool) (s : State), hartExists h s = true ∧ dieOn (hartDie h s) s = true ∧
    (s.hart h).halted = false ∧ (s.hart h).st = .wait (.wrs sto) ∧ ((s.hart h).resv = none ∨ (sto = true ∧ b = true))) ∧
    (∃ (h : Nat) (s : State), hartExists h s = true ∧ dieOn (hartDie h s) s = true ∧ (s.hart h).halted = false ∧
    (s.hart h).st = .gated .wfi ∧ irqWakes h s = true) ∧
    (∃ (n : Nat) (d : DieTrans) (s : State), smapGet (fun _ => none) s.dieTrans n = some d ∧ d.kind = 3 ∧
    s.pkgEnd = none ∧ bridgeActive n s = true ∧ (released s = true → replicaReady n s = true)) ∧
    (∃ (n : Nat) (d : DieTrans) (s : State), smapGet (fun _ => none) s.dieTrans n = some d ∧ d.kind = 0 ∧
    d.onPort = none ∧ s.pkgEnd = none ∧ (dieFlush n s).1 = true ∧ s.fbit F.WC_MITTEN_VAL 4 n = false) ∧
    (∃ (n : Nat) (f : Nat) (port : Option Nat) (s : State), smapGet (fun _ => none) s.freqGoal n = some (f, port) ∧
    dieOn n s = true ∧ s.b F.PWR_STATUS_PLOCK 0 = false ∧ s.b F.PWR_STATUS_LIMITING 0 = false ∧ f < 256) ∧
    (∃ (a : Access) (s : State), Allowed a true .PWR_CTRL 0 s ∧ s.b F.PWR_CTRL_LOCK 0 = false ∧
    s.b F.PWR_CTRL_PLOCK_REQ 0 = false ∧ s.pkgEnd = none) ∧
    (∃ (a : Access) (s : State), Allowed a true .PWR_CTRL 0 s ∧ s.b F.PWR_CTRL_LOCK 0 = false ∧
    s.b F.PWR_CTRL_PLOCK_REQ 0 = true) ∧
    (∃ (s : State), s.b F.PWR_STATUS_PLOCK 0 = true ∧ 1000 ≤ s.excess) ∧
    (∃ (s : State), s.b F.PWR_STATUS_PLOCK 0 = false ∧ s.b F.PWR_CTRL_PLOCK_REQ 0 = true ∧ s.pkgEnd = none ∧
    10000 ≤ s.fine) ∧
    (∃ (n : Nat) (temp : Nat) (s : State), 100 ≤ temp ∧ dieOn n s = true ∧ s.b F.PWR_STATUS_PLOCK 0 = false) ∧
    (∃ (n : Nat) (temp : Nat) (s : State), 100 ≤ temp ∧ dieOn n s = true ∧ s.b F.PWR_STATUS_PLOCK 0 = true) ∧
    (∃ (temp : Nat) (s : State), temp < 100) ∧
    (∃ (n : Nat) (temp : Nat) (s : State), n ≠ 12 ∧ 115 ≤ temp ∧ s.f F.PWR_DIE_STATE n ≠ 0) ∧
    (∃ (temp : Nat) (s : State), 115 ≤ temp) ∧
    (∃ (temp : Nat) (s : State), temp < 115) :=
  ⟨⟨0, .wfi, (runS.onHart 0 fun t => { (t.setC CSR.mzdwait 1) with st := .wait .wfi }), by decide +kernel⟩,
    ⟨0, 0, 0, .wfi, (runS.onHart 0 fun t => { (t.setC CSR.mzdwait 1) with st := .wait .wfi }), by decide +kernel⟩,
    ⟨0, 0, 0, .wfi, (runS.onHart 0 fun t => { t with st := .gated .wfi }), by decide +kernel⟩,
    ⟨0, 0, 0, .wfi, (runS.onHart 0 fun t => { (t.setC CSR.mzdwait 1) with st := .wait .wfi }), by decide +kernel⟩,
    ⟨0, .wfi, (runS.onHart 0 fun t => { t with st := .gating .wfi }), by decide +kernel⟩,
    ⟨0, (runS.onHart 0 fun t => { ((t.setC CSR.mie 8).setC CSR.mip 8) with st := .wait .wfi }), by decide +kernel⟩,
    ⟨0, true, true, (runS.onHart 0 fun t => { t with st := .wait (.wrs true), resv := some 4 }), by decide +kernel⟩,
    ⟨0, (runS.onHart 0 fun t => { ((t.setC CSR.mie 8).setC CSR.mip 8) with st := .gated .wfi }), by decide +kernel⟩,
    ⟨2, ⟨3, none, none⟩,
    { ((State.reset.setF F.BR_STATUS_STATE 2 6).setF F.PWR_DIE_STATE 2 3) with dieTrans := [(2, some ⟨3, none, none⟩)] },
    by decide +kernel⟩,
    ⟨2, ⟨0, none, none⟩, { (State.reset.setF F.PWR_DIE_STATE 2 3) with dieTrans := [(2, some ⟨0, none, none⟩)] },
    by decide +kernel⟩,
    ⟨2, 12, some 1, { (State.reset.setF F.PWR_DIE_STATE 2 2) with freqGoal := [(2, some (12, some 1))] },
    by decide +kernel⟩,
    ⟨accS, (State.reset.setF F.PWR_DIE_STATE 2 2), by decide +kernel⟩,
    ⟨accS, ((State.reset.setB F.PWR_CTRL_PLOCK_REQ 0 true).setB F.PWR_STATUS_PLOCK 0 true), by decide +kernel⟩,
    ⟨{ State.reset.setB F.PWR_STATUS_PLOCK 0 true with excess := 1000 }, by decide +kernel⟩,
    ⟨{ (State.reset.setB F.PWR_CTRL_PLOCK_REQ 0 true).setF F.PWR_DIE_STATE 2 2 with fine := 10000 },
    by decide +kernel⟩,
    ⟨2, 105, ((State.reset.setF F.PWR_DIE_STATE 2 2).setF F.PWR_DIE_FREQ_EFF 2 20), by decide +kernel⟩,
    ⟨2, 105, ((State.reset.setF F.PWR_DIE_STATE 2 2).setB F.PWR_STATUS_PLOCK 0 true), by decide +kernel⟩,
    ⟨95, State.reset, by decide +kernel⟩,
    ⟨2, 120, (State.reset.setF F.PWR_DIE_STATE 2 2), by decide +kernel⟩,
    ⟨120, State.reset, by decide +kernel⟩,
    ⟨110, State.reset, by decide +kernel⟩⟩

theorem test_met_CacheOperations :
    (∃ (a : Access) (e : Nat) (s : State), e < 240 ∧ dieOn (e / 20) s = true ∧ Allowed a true .CD_CORE_RANGE_CMD e s ∧
    s.f F.CD_CORE_RANGE_BASE_VAL e ≤ s.f F.CD_CORE_RANGE_LIMIT_VAL e ∧ rsBusy e s = 0) ∧
    (∃ (a : Access) (e : Nat) (s : State), e < 240 ∧ dieOn (e / 20) s = true ∧ Allowed a true .CD_CORE_RANGE_CMD e s ∧
    rsBusy e s = 1) ∧
    (∃ (a : Access) (e : Nat) (s : State), 240 ≤ e ∧ dieOn (e - 240) s = true ∧
    Allowed a true .CD_L3_RANGE_CMD (e - 240) s ∧
    s.f F.CD_L3_RANGE_BASE_VAL (e - 240) ≤ s.f F.CD_L3_RANGE_LIMIT_VAL (e - 240) ∧ rsBusy e s = 0) ∧
    (∃ (a : Access) (e : Nat) (s : State), 240 ≤ e ∧ dieOn (e - 240) s = true ∧
    Allowed a true .CD_L3_RANGE_CMD (e - 240) s ∧ rsBusy e s = 1) ∧
    (∃ (a : Access) (e : Nat) (s : State), e < 240 ∧ dieOn (e / 20) s = true ∧ Allowed a true .CD_CORE_RANGE_CMD e s ∧
    s.f F.CD_CORE_RANGE_BASE_VAL e ≤ s.f F.CD_CORE_RANGE_LIMIT_VAL e ∧ rsBusy e s = 0) ∧
    (∃ (a : Access) (e : Nat) (s : State), e < 240 ∧ dieOn (e / 20) s = true ∧ Allowed a true .CD_CORE_RANGE_CMD e s ∧
    rsBusy e s = 1) ∧
    (∃ (a : Access) (e : Nat) (s : State), 240 ≤ e ∧ dieOn (e - 240) s = true ∧
    Allowed a true .CD_L3_RANGE_CMD (e - 240) s ∧
    s.f F.CD_L3_RANGE_BASE_VAL (e - 240) ≤ s.f F.CD_L3_RANGE_LIMIT_VAL (e - 240) ∧ rsBusy e s = 0) ∧
    (∃ (a : Access) (e : Nat) (s : State), 240 ≤ e ∧ dieOn (e - 240) s = true ∧
    Allowed a true .CD_L3_RANGE_CMD (e - 240) s ∧ rsBusy e s = 1) ∧
    (∃ (a : Access) (e : Nat) (s : State), e < 240 ∧ dieOn (e / 20) s = true ∧ Allowed a true .CD_CORE_RANGE_CMD e s ∧
    s.f F.CD_CORE_RANGE_BASE_VAL e ≤ s.f F.CD_CORE_RANGE_LIMIT_VAL e ∧ rsBusy e s = 0) ∧
    (∃ (a : Access) (e : Nat) (s : State), e < 240 ∧ dieOn (e / 20) s = true ∧ Allowed a true .CD_CORE_RANGE_CMD e s ∧
    rsBusy e s = 1) ∧
    (∃ (a : Access) (e : Nat) (s : State), 240 ≤ e ∧ dieOn (e - 240) s = true ∧
    Allowed a true .CD_L3_RANGE_CMD (e - 240) s ∧
    s.f F.CD_L3_RANGE_BASE_VAL (e - 240) ≤ s.f F.CD_L3_RANGE_LIMIT_VAL (e - 240) ∧ rsBusy e s = 0) ∧
    (∃ (a : Access) (e : Nat) (s : State), 240 ≤ e ∧ dieOn (e - 240) s = true ∧
    Allowed a true .CD_L3_RANGE_CMD (e - 240) s ∧ rsBusy e s = 1) ∧
    (∃ (a : Access) (e : Nat) (s : State), e < 240 ∧ dieOn (e / 20) s = true ∧ Allowed a true .CD_CORE_RANGE_CMD e s ∧
    s.f F.CD_CORE_RANGE_BASE_VAL e ≤ s.f F.CD_CORE_RANGE_LIMIT_VAL e ∧ rsBusy e s = 0) ∧
    (∃ (a : Access) (e : Nat) (s : State), e < 240 ∧ dieOn (e / 20) s = true ∧ Allowed a true .CD_CORE_RANGE_CMD e s ∧
    rsBusy e s = 1) ∧
    (∃ (a : Access) (e : Nat) (s : State), 240 ≤ e ∧ dieOn (e - 240) s = true ∧
    Allowed a true .CD_L3_RANGE_CMD (e - 240) s ∧
    s.f F.CD_L3_RANGE_BASE_VAL (e - 240) ≤ s.f F.CD_L3_RANGE_LIMIT_VAL (e - 240) ∧ rsBusy e s = 0) ∧
    (∃ (a : Access) (e : Nat) (s : State), 240 ≤ e ∧ dieOn (e - 240) s = true ∧
    Allowed a true .CD_L3_RANGE_CMD (e - 240) s ∧ rsBusy e s = 1) ∧
    (∃ (a : Access) (e : Nat) (s : State), e < 240 ∧ dieOn (e / 20) s = true ∧ Allowed a true .CD_CORE_RANGE_CMD e s ∧
    rsBusy e s = 0 ∧ s.f F.CD_CORE_RANGE_LIMIT_VAL e < s.f F.CD_CORE_RANGE_BASE_VAL e) ∧
    (∃ (e : Nat) (r : RangeRun) (s : State), s.ranges.find? (fun r => r.eng == e) = some r ∧ r.last < r.next ∧
    engOpen e r s = 0 ∧ r.count < 2 ^ 32) ∧
    (∃ (a : Access) (i : Nat) (v : Word) (s : State), dieOn (i / 40) s = true ∧ Allowed a true .CD_CORE_L2_LOCK i s ∧
    lockBad (v &&& 0x83F0FFFFFFFFFFFF#64) [s.r .CD_CORE_L2_LOCK (i / 2 * 2 + (1 - i % 2))] 12 0 = false) ∧
    (∃ (a : Access) (i : Nat) (v : Word) (s : State), dieOn (i / 40) s = true ∧ Allowed a true .CD_CORE_L2_LOCK i s ∧
    lockBad (v &&& 0x83F0FFFFFFFFFFFF#64) [s.r .CD_CORE_L2_LOCK (i / 2 * 2 + (1 - i % 2))] 12 0 = true) ∧
    (∃ (a : Access) (i : Nat) (v : Word) (s : State), dieOn (i / 4) s = true ∧ Allowed a true .CD_L3_LOCK i s ∧
    lockBad (v &&& 0x83F0FFFFFFFF0FFF#64) (((List.range 4).filter (· != i % 4)).map fun k => s.r .CD_L3_LOCK (i / 4 *
      4 + k)) 10 ((List.range 20).foldl (fun m x => m ||| s.f F.CD_L3_WAYDIS_WAYDIS (i / 4 * 20 + x)) 0) = false) ∧
    (∃ (a : Access) (i : Nat) (v : Word) (s : State), dieOn (i / 4) s = true ∧ Allowed a true .CD_L3_LOCK i s ∧
    lockBad (v &&& 0x83F0FFFFFFFF0FFF#64) (((List.range 4).filter (· != i % 4)).map fun k => s.r .CD_L3_LOCK (i / 4 *
      4 + k)) 10 ((List.range 20).foldl (fun m x => m ||| s.f F.CD_L3_WAYDIS_WAYDIS (i / 4 * 20 + x)) 0) = true) ∧
    (∃ (a : Access) (np : Nat) (v : Word) (s : State), dieOn (np / 20) s = true ∧
    Allowed a true .CD_CORE_CACHE_CTRL np s ∧ l2On np s = true ∧ bit v 2 = false) ∧
    (∃ (a : Access) (np : Nat) (v : Word) (s : State), dieOn (np / 20) s = true ∧
    Allowed a true .CD_CORE_CACHE_CTRL np s ∧ bit v 2 = true) ∧
    (∃ (np : Nat) (s : State), s.b F.CD_CORE_CACHE_CTRL_L2_DRAINING np = true) :=
  ⟨⟨accS, 23, (State.reset.setF F.PWR_DIE_STATE 1 2), by decide +kernel⟩,
    ⟨accS, 23, ((State.reset.setF F.PWR_DIE_STATE 1 2).setB F.CD_CORE_RANGE_STATUS_BUSY 23 true), by decide +kernel⟩,
    ⟨accS, 241, (State.reset.setF F.PWR_DIE_STATE 1 2), by decide +kernel⟩,
    ⟨accS, 241, ((State.reset.setF F.PWR_DIE_STATE 1 2).setB F.CD_L3_RANGE_STATUS_BUSY 1 true), by decide +kernel⟩,
    ⟨accS, 23, (State.reset.setF F.PWR_DIE_STATE 1 2), by decide +kernel⟩,
    ⟨accS, 23, ((State.reset.setF F.PWR_DIE_STATE 1 2).setB F.CD_CORE_RANGE_STATUS_BUSY 23 true), by decide +kernel⟩,
    ⟨accS, 241, (State.reset.setF F.PWR_DIE_STATE 1 2), by decide +kernel⟩,
    ⟨accS, 241, ((State.reset.setF F.PWR_DIE_STATE 1 2).setB F.CD_L3_RANGE_STATUS_BUSY 1 true), by decide +kernel⟩,
    ⟨accS, 23, (State.reset.setF F.PWR_DIE_STATE 1 2), by decide +kernel⟩,
    ⟨accS, 23, ((State.reset.setF F.PWR_DIE_STATE 1 2).setB F.CD_CORE_RANGE_STATUS_BUSY 23 true), by decide +kernel⟩,
    ⟨accS, 241, (State.reset.setF F.PWR_DIE_STATE 1 2), by decide +kernel⟩,
    ⟨accS, 241, ((State.reset.setF F.PWR_DIE_STATE 1 2).setB F.CD_L3_RANGE_STATUS_BUSY 1 true), by decide +kernel⟩,
    ⟨accS, 23, (State.reset.setF F.PWR_DIE_STATE 1 2), by decide +kernel⟩,
    ⟨accS, 23, ((State.reset.setF F.PWR_DIE_STATE 1 2).setB F.CD_CORE_RANGE_STATUS_BUSY 23 true), by decide +kernel⟩,
    ⟨accS, 241, (State.reset.setF F.PWR_DIE_STATE 1 2), by decide +kernel⟩,
    ⟨accS, 241, ((State.reset.setF F.PWR_DIE_STATE 1 2).setB F.CD_L3_RANGE_STATUS_BUSY 1 true), by decide +kernel⟩,
    ⟨accS, 23, ((State.reset.setF F.PWR_DIE_STATE 1 2).setF F.CD_CORE_RANGE_BASE_VAL 23 5), by decide +kernel⟩,
    ⟨23, { eng := 23, cmd := 2, w := true, part := 0, first := 0, last := 3, next := 4, count := 2 },
    { (State.reset.setB F.CD_CORE_RANGE_STATUS_BUSY 23 true) with ranges := [{ eng := 23, cmd := 2, w := true, part := 0, first := 0, last := 3, next := 4, count := 2 }] },
    by decide +kernel⟩,
    ⟨accS, 41, 0x8120000000100003#64, (State.reset.setF F.PWR_DIE_STATE 1 2), by decide +kernel⟩,
    ⟨accS, 41, 0x8120000000110003#64, (State.reset.setF F.PWR_DIE_STATE 1 2), by decide +kernel⟩,
    ⟨accS, 5, 0x8120000000100003#64,
    (iter 20 (fun x t => putR .CD_L3_WAYDIS (20 + x) 0 t) (State.reset.setF F.PWR_DIE_STATE 1 2)), by decide +kernel⟩,
    ⟨accS, 5, 0#64, (State.reset.setF F.PWR_DIE_STATE 1 2), by decide +kernel⟩,
    ⟨accS, 22, 3#64, ((State.reset.setF F.PWR_DIE_STATE 1 2).setB F.CD_CORE_CACHE_CTRL_L2_EN 22 true),
    by decide +kernel⟩,
    ⟨accS, 22, 5#64, (State.reset.setF F.PWR_DIE_STATE 1 2), by decide +kernel⟩,
    ⟨22, (State.reset.setB F.CD_CORE_CACHE_CTRL_L2_DRAINING 22 true), by decide +kernel⟩⟩

theorem test_met_CoreRequests :
    (∃ (p : Packet) (s : State), s.behind { p with op := .rdS } = false ∧ p.src < 240 ∧
    LineQuiet (p.src / 20) (p.addr / 64) s ∧ vbFind (p.src / 20) (p.addr / 64) s = none ∧
    l3Find (p.src / 20) (p.addr / 64) s = none ∧
    (s.l3Pend.any fun q => q.die == p.src / 20 && q.line == (p.addr / 64) && !q.dead) = false) ∧
    (∃ (p : Packet) (s : State), s.behind { p with op := .rdOnce } = false ∧ p.src < 240 ∧
    LineQuiet (p.src / 20) (p.addr / 64) s ∧ vbFind (p.src / 20) (p.addr / 64) s = none ∧
    l3Find (p.src / 20) (p.addr / 64) s = none ∧
    (s.l3Pend.any fun q => q.die == p.src / 20 && q.line == (p.addr / 64) && !q.dead) = false) ∧
    (∃ (p : Packet) (s : State), s.behind { p with op := .rdX } = false ∧ p.src < 240 ∧
    LineQuiet (p.src / 20) (p.addr / 64) s ∧ vbFind (p.src / 20) (p.addr / 64) s = none ∧
    l3Find (p.src / 20) (p.addr / 64) s = none ∧
    (s.l3Pend.any fun q => q.die == p.src / 20 && q.line == (p.addr / 64) && !q.dead) = false) ∧
    (∃ (p : Packet) (s : State), s.behind { p with op := .upgL3 } = false ∧ p.src < 240 ∧
    LineQuiet (p.src / 20) (p.addr / 64) s ∧ vbFind (p.src / 20) (p.addr / 64) s = none ∧
    l3Find (p.src / 20) (p.addr / 64) s = none ∧
    (s.l3Pend.any fun q => q.die == p.src / 20 && q.line == (p.addr / 64) && !q.dead) = false) ∧
    (∃ (p : Packet) (s : State), s.behind { p with op := .wrPart } = false ∧ p.src < 240 ∧
    LineQuiet (p.src / 20) (p.addr / 64) s ∧ vbFind (p.src / 20) (p.addr / 64) s = none ∧
    l3Find (p.src / 20) (p.addr / 64) s = none ∧
    (s.l3Pend.any fun q => q.die == p.src / 20 && q.line == (p.addr / 64) && !q.dead) = false) ∧
    (∃ (p : Packet) (k : Nat) (s : State), s.behind { p with op := .wrPart } = false ∧ p.src < 240 ∧
    LineQuiet (p.src / 20) (p.addr / 64) s ∧ vbFind (p.src / 20) (p.addr / 64) s = none ∧
    l3Find (p.src / 20) (p.addr / 64) s = some k ∧
    (s.l3Pend.any fun q => q.die == p.src / 20 && q.line == (p.addr / 64) && !q.dead) = false ∧
    sliceDeny p.w (s.l3L k).w p.part (p.addr / 64) s = none ∧ 3 ≤ (s.l3L k).st ∧
    presCores (clrBit (s.l3L k).pres (p.src % 20)) = [] ∧ CoreQuiet p.src s) ∧
    (∃ (p : Packet) (k : Nat) (s : State), s.behind { p with op := .wbL } = false ∧
    l3Find (p.src / 20) (p.addr / 64) s = some k ∧ LineQuiet (p.src / 20) (p.addr / 64) s) ∧
    (∃ (p : Packet) (k : Nat) (s : State), s.behind { p with op := .evL } = false ∧
    l3Find (p.src / 20) (p.addr / 64) s = some k ∧ LineQuiet (p.src / 20) (p.addr / 64) s) ∧
    (∃ (p : Packet) (k : Nat) (j : Nat) (s : State), s.behind { p with op := .snpL } = false ∧ l2On p.dst s = true ∧
    l2Has p.dst (p.addr / 64) s = some k ∧ (s.l2L k).ten = false ∧ (s.l2L k).st = 3 ∧
    l3Find (p.dst / 20) (p.addr / 64) s = some j ∧ LineQuiet (p.dst / 20) (p.addr / 64) s) ∧
    (∃ (p : Packet) (k : Nat) (j : Nat) (s : State), s.behind { p with op := .snpLX } = false ∧ l2On p.dst s = true ∧
    l2Has p.dst (p.addr / 64) s = some k ∧ (s.l2L k).ten = false ∧ (s.l2L k).st = 3 ∧
    l3Find (p.dst / 20) (p.addr / 64) s = some j ∧ LineQuiet (p.dst / 20) (p.addr / 64) s ∧ CoreQuiet p.dst s) ∧
    (∃ (p : Packet) (k : Nat) (s : State), s.behind { p with op := .snpL } = false ∧ l2On p.dst s = true ∧
    l2Has p.dst (p.addr / 64) s = some k ∧ (s.l2L k).ten = true) ∧
    (∃ (p : Packet) (k : Nat) (j : Nat) (s : State), s.behind { p with op := .invL } = false ∧ l2On p.dst s = true ∧
    l2Has p.dst (p.addr / 64) s = some k ∧ (s.l2L k).st = 1 ∧ leaving p.dst (p.addr / 64) s = false ∧
    l3Find (p.dst / 20) (p.addr / 64) s = some j ∧ LineQuiet (p.dst / 20) (p.addr / 64) s ∧ CoreQuiet p.dst s) ∧
    (∃ (np : Nat) (line : Nat) (k : Nat) (s : State), l2Has np line s = some k ∧
    (s.l2Held.any fun r => r.die == np && r.line == line) = false) :=
  ⟨⟨{ op := .rdS, src := 22, dst := 20, addr := 0x1000, w := true }, State.reset, by decide +kernel⟩,
    ⟨{ op := .rdOnce, src := 22, dst := 20, addr := 0x1000, w := true }, State.reset, by decide +kernel⟩,
    ⟨{ op := .rdX, src := 22, dst := 20, addr := 0x1000, w := true }, State.reset, by decide +kernel⟩,
    ⟨{ op := .upgL3, src := 22, dst := 20, addr := 0x1000, w := true }, State.reset, by decide +kernel⟩,
    ⟨{ op := .wrPart, src := 22, dst := 20, addr := 0x1000, w := true }, State.reset, by decide +kernel⟩,
    ⟨{ op := .wrPart, src := 22, dst := 20, addr := 0x1000, w := true, mask := 0xFF, payload := 0x77 },
    (l3Key 1 64 0), (State.reset.setL3 (l3Key 1 64 0) { line := 64, st := 3, data := 5 }), by decide +kernel⟩,
    ⟨{ op := .wbL, src := 22, dst := 20, addr := 0x1000, w := true, data := true, payload := 0x77 }, (l3Key 1 64 0),
    (State.reset.setL3 (l3Key 1 64 0) { line := 64, st := 4, data := 5, pres := 4, own := 2 }), by decide +kernel⟩,
    ⟨{ op := .evL, src := 22, dst := 20, addr := 0x1000, w := true }, (l3Key 1 64 0),
    (State.reset.setL3 (l3Key 1 64 0) { line := 64, st := 4, data := 5, pres := 4, own := 2 }), by decide +kernel⟩,
    ⟨{ op := .snpL, src := 20, dst := 22, addr := 0x1000, w := true }, ((l2Keys 22 64).headD 0), (l3Key 1 64 0),
    ((((State.reset.setL3 (l3Key 1 64 0) { line := 64, st := 4, data := 5, pres := 4, own := 2 }).setB
      F.CD_CORE_CACHE_CTRL_L2_EN 22 true).setL2 ((l2Keys 22 64).headD 0) { line := 64, st := 3, data := 9 })),
    by decide +kernel⟩,
    ⟨{ op := .snpLX, src := 20, dst := 22, addr := 0x1000, w := true }, ((l2Keys 22 64).headD 0), (l3Key 1 64 0),
    ((((State.reset.setL3 (l3Key 1 64 0) { line := 64, st := 4, data := 5, pres := 4, own := 2 }).setB
      F.CD_CORE_CACHE_CTRL_L2_EN 22 true).setL2 ((l2Keys 22 64).headD 0) { line := 64, st := 3, data := 9 })),
    by decide +kernel⟩,
    ⟨{ op := .snpL, src := 20, dst := 22, addr := 0x1000, w := true }, ((l2Keys 22 64).headD 0),
    (((((State.reset.setL3 (l3Key 1 64 0) { line := 64, st := 4, data := 5, pres := 4, own := 2 }).setB
      F.CD_CORE_CACHE_CTRL_L2_EN 22 true).setL2 ((l2Keys 22 64).headD 0) { line := 64, st := 3, data := 9 })).setL2
      ((l2Keys 22 64).headD 0) { line := 64, st := 3, data := 9, ten := true }),
    by decide +kernel⟩,
    ⟨{ op := .invL, src := 20, dst := 22, addr := 0x1000, w := true }, ((l2Keys 22 64).headD 0), (l3Key 1 64 0),
    ((((State.reset.setL3 (l3Key 1 64 0) { line := 64, st := 4, data := 5, pres := 4, own := 2 }).setB
      F.CD_CORE_CACHE_CTRL_L2_EN 22 true).setL2 ((l2Keys 22 64).headD 0) { line := 64, st := 1, data := 9 })),
    by decide +kernel⟩,
    ⟨22, 64, ((l2Keys 22 64).headD 0),
    ((((State.reset.setL3 (l3Key 1 64 0) { line := 64, st := 4, data := 5, pres := 4, own := 2 }).setB
      F.CD_CORE_CACHE_CTRL_L2_EN 22 true).setL2 ((l2Keys 22 64).headD 0) { line := 64, st := 3, data := 9 })),
    by decide +kernel⟩⟩

theorem test_met_HomeRequests :
    (∃ (p : Packet) (s : State), s.behind { p with op := .getS } = false ∧ HaQuiet s ∧ s.haTx = [] ∧ s.walks = [] ∧
    HaTakes p s ∧ dirFind (lineOf p.addr) s = none ∧
    ((List.range 16).any fun w => !(s.dirE (dirKey (lineOf p.addr) w)).valid) = true ∧
    mcRoom (lineOf p.addr) 0 s = true) ∧
    (∃ (p : Packet) (s : State), s.behind { p with op := .getX } = false ∧ HaQuiet s ∧ s.haTx = [] ∧ s.walks = [] ∧
    HaTakes p s ∧ dirFind (lineOf p.addr) s = none ∧
    ((List.range 16).any fun w => !(s.dirE (dirKey (lineOf p.addr) w)).valid) = true ∧
    mcRoom (lineOf p.addr) 0 s = true) ∧
    (∃ (p : Packet) (s : State), s.behind { p with op := .upgHA } = false ∧ HaQuiet s ∧ s.haTx = [] ∧ s.walks = [] ∧
    HaTakes p s ∧ dirFind (lineOf p.addr) s = none ∧
    ((List.range 16).any fun w => !(s.dirE (dirKey (lineOf p.addr) w)).valid) = true ∧
    mcRoom (lineOf p.addr) 0 s = true) ∧
    (∃ (p : Packet) (s : State), s.behind { p with op := .getXZ } = false ∧ HaQuiet s ∧ s.haTx = [] ∧ s.walks = [] ∧
    HaTakes p s ∧ dirFind (lineOf p.addr) s = none ∧
    ((List.range 16).any fun w => !(s.dirE (dirKey (lineOf p.addr) w)).valid) = true ∧ p.src < 240 ∧
    dieAbsent (mcOf (lineOf p.addr)) (p.src / 20) s = false) ∧
    (∃ (p : Packet) (s : State), s.behind { p with op := .rdNC } = false ∧ HaQuiet s ∧ s.haTx = [] ∧ s.walks = [] ∧
    HaTakes p s ∧ dirFind (lineOf p.addr) s = none ∧ mcRoom (lineOf p.addr) 0 s = true) ∧
    (∃ (p : Packet) (s : State), s.behind { p with op := .atmH } = false ∧ HaQuiet s ∧ s.haTx = [] ∧ s.walks = [] ∧
    HaTakes p s ∧ dirFind (lineOf p.addr) s = none ∧ (s.atomBuf.find? fun e => e.addr == (lineOf p.addr)) = none ∧
    mcRoom (lineOf p.addr) (if atomMemory (lineOf p.addr) s then 2 else 0) s = true) ∧
    (∃ (p : Packet) (s : State), s.behind { p with op := .cboC } = false ∧ HaQuiet s ∧ s.haTx = [] ∧ s.walks = [] ∧
    HaChecks p s ∧ dirFind (lineOf p.addr) s = none) ∧
    (∃ (p : Packet) (s : State), s.behind { p with op := .cboF } = false ∧ HaQuiet s ∧ s.haTx = [] ∧ s.walks = [] ∧
    HaChecks p s ∧ dirFind (lineOf p.addr) s = none) ∧
    (∃ (p : Packet) (s : State), s.behind { p with op := .wrNC } = false ∧ HaQuiet s ∧ s.haTx = [] ∧ s.walks = [] ∧
    HaTakes p s ∧ dirFind (lineOf p.addr) s = none ∧ (s.atomBuf.find? fun e => e.addr == (lineOf p.addr)) = none ∧
    s.mcq = [] ∧ p.cls = .mg ∧ wrFull (lineOf p.addr) s = false ∧ ncPair { p with op := .wrNC } = false ∧
    maskCovers p.mask 0 = true ∧ maskCovers p.mask 1 = true ∧ codeOf (lineOf p.addr) s ≠ 0) ∧
    (∃ (p : Packet) (k : Nat) (s : State), s.behind { p with op := .wbM } = false ∧ HaQuiet s ∧
    haTxOf (lineOf p.addr) s = none ∧ dirFind (lineOf p.addr) s = some k ∧ (s.dirE k).ex = true ∧
    (s.dirE k).pv.testBit (dieOfAgent p.src) = true) ∧
    (∃ (p : Packet) (s : State), s.behind { p with op := .wbM } = false ∧ dirFind (lineOf p.addr) s = none) ∧
    (∃ (p : Packet) (k : Nat) (s : State), s.behind { p with op := .evC } = false ∧ HaQuiet s ∧
    haTxOf (lineOf p.addr) s = none ∧ dirFind (lineOf p.addr) s = some k ∧
    (s.dirE k).pv.testBit (dieOfAgent p.src) = true ∧ clrBit (s.dirE k).pv (dieOfAgent p.src) = 0) ∧
    (∃ (p : Packet) (s : State), s.behind { p with op := .getS } = false ∧ HaQuiet s ∧
    haCredit (mcOf p.addr) p.cls s = true ∧ p.w = false ∧ inDram (lineOf p.addr) s = true ∧
    dramWorld (lineOf p.addr) s = true) :=
  ⟨⟨{ op := .getS, src := 20, dst := 256, addr := 0x1000, w := true }, State.reset, by decide +kernel⟩,
    ⟨{ op := .getX, src := 20, dst := 256, addr := 0x1000, w := true }, State.reset, by decide +kernel⟩,
    ⟨{ op := .upgHA, src := 20, dst := 256, addr := 0x1000, w := true }, State.reset, by decide +kernel⟩,
    ⟨{ op := .getXZ, src := 20, dst := 256, addr := 0x1000, w := true }, State.reset, by decide +kernel⟩,
    ⟨{ op := .rdNC, src := 20, dst := 256, addr := 0x1000, w := true }, State.reset, by decide +kernel⟩,
    ⟨{ op := .atmH, src := 20, dst := 256, addr := 0x1000, w := true }, State.reset, by decide +kernel⟩,
    ⟨{ op := .cboC, src := 20, dst := 256, addr := 0x1000, w := true }, State.reset, by decide +kernel⟩,
    ⟨{ op := .cboF, src := 20, dst := 256, addr := 0x1000, w := true }, State.reset, by decide +kernel⟩,
    ⟨{ op := .wrNC, src := 20, dst := 256, addr := 0x1000, w := true, cls := .mg, mask := 0xFFFFFFFFFFFFFFFF, payload := 0x77 },
    (((State.reset.setF F.MC_REGION_BASE_VALID 0 1).setF F.MC_REGION_BASE_SIZE 0 1).setF F.MC_REGION_CODE_CODE 0 1),
    by decide +kernel⟩,
    ⟨{ op := .wbM, src := 20, dst := 256, addr := 0x1000, w := true, payload := 0x77, data := true },
    (dirKey 0x1000 0),
    (State.reset.setDir (dirKey 0x1000 0) { valid := true, ex := true, pv := 2, fdie := 1, tag := dirTag 0x1000 }),
    by decide +kernel⟩,
    ⟨{ op := .wbM, src := 20, dst := 256, addr := 0x1000, w := true }, State.reset, by decide +kernel⟩,
    ⟨{ op := .evC, src := 20, dst := 256, addr := 0x1000, w := true }, (dirKey 0x1000 0),
    (State.reset.setDir (dirKey 0x1000 0) { valid := true, ex := true, pv := 2, fdie := 1, tag := dirTag 0x1000 }),
    by decide +kernel⟩,
    ⟨{ op := .getS, src := 20, dst := 256, addr := 0x1000, w := false }, State.reset, by decide +kernel⟩⟩

theorem test_met_SnoopResponses :
    (∃ (p : Packet) (x : HaTx) (s : State), s.behind { p with op := .rspI } = false ∧ HaQuiet s ∧
    haTxOf (lineOf p.addr) s = some x ∧ x.snoops.contains (dieOfAgent p.src) = true ∧
    x.snoops.erase (dieOfAgent p.src) ≠ []) ∧
    (∃ (p : Packet) (s : State), s.behind { p with op := .rspI } = false ∧ haTxOf (lineOf p.addr) s = none) ∧
    (∃ (p : Packet) (x : HaTx) (s : State), s.behind { p with op := .rspS } = false ∧ HaQuiet s ∧
    haTxOf (lineOf p.addr) s = some x ∧ x.snoops.contains (dieOfAgent p.src) = true ∧
    x.snoops.erase (dieOfAgent p.src) ≠ []) ∧
    (∃ (p : Packet) (s : State), s.behind { p with op := .rspS } = false ∧ haTxOf (lineOf p.addr) s = none) ∧
    (∃ (p : Packet) (x : HaTx) (s : State), s.behind { p with op := .rspFwdS } = false ∧ HaQuiet s ∧
    haTxOf (lineOf p.addr) s = some x ∧ x.snoops.contains (dieOfAgent p.src) = true ∧
    x.snoops.erase (dieOfAgent p.src) ≠ []) ∧
    (∃ (p : Packet) (s : State), s.behind { p with op := .rspFwdS } = false ∧ haTxOf (lineOf p.addr) s = none) ∧
    (∃ (p : Packet) (x : HaTx) (s : State), s.behind { p with op := .rspFwdI } = false ∧ HaQuiet s ∧
    haTxOf (lineOf p.addr) s = some x ∧ x.snoops.contains (dieOfAgent p.src) = true ∧
    x.snoops.erase (dieOfAgent p.src) ≠ []) ∧
    (∃ (p : Packet) (s : State), s.behind { p with op := .rspFwdI } = false ∧ haTxOf (lineOf p.addr) s = none) ∧
    (∃ (p : Packet) (x : HaTx) (s : State), s.behind { p with op := .rspRclD } = false ∧ HaQuiet s ∧
    haTxOf (lineOf p.addr) s = some x ∧ x.snoops.contains (dieOfAgent p.src) = true ∧
    x.snoops.erase (dieOfAgent p.src) ≠ []) ∧
    (∃ (p : Packet) (s : State), s.behind { p with op := .rspRclD } = false ∧ haTxOf (lineOf p.addr) s = none) ∧
    (∃ (p : Packet) (x : HaTx) (s : State), s.behind { p with op := .wbC } = false ∧ HaQuiet s ∧
    haTxOf (lineOf p.addr) s = some x ∧ x.snoops.contains (dieOfAgent p.src) = true ∧
    x.snoops.erase (dieOfAgent p.src) ≠ []) ∧
    (∃ (p : Packet) (s : State), s.behind { p with op := .wbC } = false ∧ haTxOf (lineOf p.addr) s = none) ∧
    (∃ (p : Packet) (x : HaTx) (s : State), s.behind { p with op := .rspWbP } = false ∧ HaQuiet s ∧
    haTxOf (lineOf p.addr) s = some x ∧ x.snoops.contains (dieOfAgent p.src) = true ∧
    x.snoops.erase (dieOfAgent p.src) ≠ []) ∧
    (∃ (p : Packet) (s : State), s.behind { p with op := .rspWbP } = false ∧ haTxOf (lineOf p.addr) s = none) ∧
    (∃ (p : Packet) (x : HaTx) (k : Nat) (s : State), s.behind { p with op := .cmpAck } = false ∧ HaQuiet s ∧
    haTxOf (lineOf p.addr) s = some x ∧ x.ack = true ∧ dirFind (lineOf p.addr) s = some k ∧ (s.dirE k).pv ≠ 0) ∧
    (∃ (p : Packet) (s : State), s.behind { p with op := .wbAck } = false ∧
    (s.sliceQ.any fun r => r.die == dieOfAgent p.dst && r.line % 20 == (p.addr / 64) % 20) = false) ∧
    (∃ (p : Packet) (s : State), s.behind { p with op := .evAck } = false ∧
    (s.sliceQ.any fun r => r.die == dieOfAgent p.dst && r.line % 20 == (p.addr / 64) % 20) = false) :=
  ⟨⟨{ op := .rspI, src := 20, dst := 256, addr := 0x1000, w := true, data := true, payload := 0x77 },
    { line := 0x1000, req := none, st := 1, w := true, snoops := [1, 2] },
    { State.reset with haTx := [{ line := 0x1000, req := none, st := 1, w := true, snoops := [1, 2] }] },
    by decide +kernel⟩,
    ⟨{ op := .rspI, src := 20, dst := 256, addr := 0x1000, w := true }, State.reset, by decide +kernel⟩,
    ⟨{ op := .rspS, src := 20, dst := 256, addr := 0x1000, w := true, data := true, payload := 0x77 },
    { line := 0x1000, req := none, st := 1, w := true, snoops := [1, 2] },
    { State.reset with haTx := [{ line := 0x1000, req := none, st := 1, w := true, snoops := [1, 2] }] },
    by decide +kernel⟩,
    ⟨{ op := .rspS, src := 20, dst := 256, addr := 0x1000, w := true }, State.reset, by decide +kernel⟩,
    ⟨{ op := .rspFwdS, src := 20, dst := 256, addr := 0x1000, w := true, data := true, payload := 0x77 },
    { line := 0x1000, req := none, st := 1, w := true, snoops := [1, 2] },
    { State.reset with haTx := [{ line := 0x1000, req := none, st := 1, w := true, snoops := [1, 2] }] },
    by decide +kernel⟩,
    ⟨{ op := .rspFwdS, src := 20, dst := 256, addr := 0x1000, w := true }, State.reset, by decide +kernel⟩,
    ⟨{ op := .rspFwdI, src := 20, dst := 256, addr := 0x1000, w := true, data := true, payload := 0x77 },
    { line := 0x1000, req := none, st := 1, w := true, snoops := [1, 2] },
    { State.reset with haTx := [{ line := 0x1000, req := none, st := 1, w := true, snoops := [1, 2] }] },
    by decide +kernel⟩,
    ⟨{ op := .rspFwdI, src := 20, dst := 256, addr := 0x1000, w := true }, State.reset, by decide +kernel⟩,
    ⟨{ op := .rspRclD, src := 20, dst := 256, addr := 0x1000, w := true, data := true, payload := 0x77 },
    { line := 0x1000, req := none, st := 1, w := true, snoops := [1, 2] },
    { State.reset with haTx := [{ line := 0x1000, req := none, st := 1, w := true, snoops := [1, 2] }] },
    by decide +kernel⟩,
    ⟨{ op := .rspRclD, src := 20, dst := 256, addr := 0x1000, w := true }, State.reset, by decide +kernel⟩,
    ⟨{ op := .wbC, src := 20, dst := 256, addr := 0x1000, w := true, data := true, payload := 0x77 },
    { line := 0x1000, req := none, st := 1, w := true, snoops := [1, 2] },
    { State.reset with haTx := [{ line := 0x1000, req := none, st := 1, w := true, snoops := [1, 2] }] },
    by decide +kernel⟩,
    ⟨{ op := .wbC, src := 20, dst := 256, addr := 0x1000, w := true }, State.reset, by decide +kernel⟩,
    ⟨{ op := .rspWbP, src := 20, dst := 256, addr := 0x1000, w := true, data := true, payload := 0x77 },
    { line := 0x1000, req := none, st := 1, w := true, snoops := [1, 2] },
    { State.reset with haTx := [{ line := 0x1000, req := none, st := 1, w := true, snoops := [1, 2] }] },
    by decide +kernel⟩,
    ⟨{ op := .rspWbP, src := 20, dst := 256, addr := 0x1000, w := true }, State.reset, by decide +kernel⟩,
    ⟨{ op := .cmpAck, src := 20, dst := 256, addr := 0x1000, w := true },
    { line := 0x1000, req := none, st := 1, w := true, ack := true }, (dirKey 0x1000 0),
    { (State.reset.setDir (dirKey 0x1000 0) { valid := true, ex := true, busy := true, pv := 2, fdie := 1, tag := dirTag 0x1000 }) with haTx := [{ line := 0x1000, req := none, st := 1, w := true, ack := true }] },
    by decide +kernel⟩,
    ⟨{ op := .wbAck, src := 256, dst := 24, addr := 0x1000, w := true },
    { State.reset with vb := [⟨1, 64, true, true, 0, 5⟩] }, by decide +kernel⟩,
    ⟨{ op := .evAck, src := 256, dst := 24, addr := 0x1000, w := true },
    { State.reset with vb := [⟨1, 64, false, true, 0, 5⟩] }, by decide +kernel⟩⟩

theorem test_met_DieSnoopsAndGrants :
    (∃ (p : Packet) (s : State), s.behind { p with op := .snpS } = false ∧ p.dst < 240 ∧
    LineQuiet (p.dst / 20) (p.addr / 64) s ∧ vbFind (p.dst / 20) (p.addr / 64) s = none ∧
    l3Find (p.dst / 20) (p.addr / 64) s = none) ∧
    (∃ (p : Packet) (s : State), s.behind { p with op := .snpX } = false ∧ p.dst < 240 ∧
    LineQuiet (p.dst / 20) (p.addr / 64) s ∧ vbFind (p.dst / 20) (p.addr / 64) s = none ∧
    l3Find (p.dst / 20) (p.addr / 64) s = none) ∧
    (∃ (p : Packet) (s : State), s.behind { p with op := .snpC } = false ∧ p.dst < 240 ∧
    LineQuiet (p.dst / 20) (p.addr / 64) s ∧ vbFind (p.dst / 20) (p.addr / 64) s = none ∧
    l3Find (p.dst / 20) (p.addr / 64) s = none) ∧
    (∃ (p : Packet) (s : State), s.behind { p with op := .inv } = false ∧ p.dst < 240 ∧
    LineQuiet (p.dst / 20) (p.addr / 64) s ∧ vbFind (p.dst / 20) (p.addr / 64) s = none ∧
    l3Find (p.dst / 20) (p.addr / 64) s = none) ∧
    (∃ (p : Packet) (s : State), s.behind { p with op := .rcl } = false ∧ p.dst < 240 ∧
    LineQuiet (p.dst / 20) (p.addr / 64) s ∧ vbFind (p.dst / 20) (p.addr / 64) s = none ∧
    l3Find (p.dst / 20) (p.addr / 64) s = none) ∧
    (∃ (p : Packet) (k : Nat) (s : State), s.behind { p with op := .snpS } = false ∧ p.dst < 240 ∧
    LineQuiet (p.dst / 20) (p.addr / 64) s ∧ vbFind (p.dst / 20) (p.addr / 64) s = none ∧
    l3Find (p.dst / 20) (p.addr / 64) s = some k ∧ (s.l3L k).own = 20) ∧
    (∃ (p : Packet) (k : Nat) (s : State), s.behind { p with op := .snpX } = false ∧ p.dst < 240 ∧
    LineQuiet (p.dst / 20) (p.addr / 64) s ∧ vbFind (p.dst / 20) (p.addr / 64) s = none ∧
    l3Find (p.dst / 20) (p.addr / 64) s = some k ∧ presCores (s.l3L k).pres = []) ∧
    (∃ (p : Packet) (k : Nat) (s : State), s.behind { p with op := .snpC } = false ∧ p.dst < 240 ∧
    LineQuiet (p.dst / 20) (p.addr / 64) s ∧ vbFind (p.dst / 20) (p.addr / 64) s = none ∧
    l3Find (p.dst / 20) (p.addr / 64) s = some k ∧ (s.l3L k).st = 4 ∧ (s.l3L k).own = 20) ∧
    (∃ (p : Packet) (k : Nat) (s : State), s.behind { p with op := .inv } = false ∧ p.dst < 240 ∧
    LineQuiet (p.dst / 20) (p.addr / 64) s ∧ vbFind (p.dst / 20) (p.addr / 64) s = none ∧
    l3Find (p.dst / 20) (p.addr / 64) s = some k ∧ presCores (s.l3L k).pres = []) ∧
    (∃ (p : Packet) (k : Nat) (s : State), s.behind { p with op := .rcl } = false ∧ p.dst < 240 ∧
    LineQuiet (p.dst / 20) (p.addr / 64) s ∧ vbFind (p.dst / 20) (p.addr / 64) s = none ∧
    l3Find (p.dst / 20) (p.addr / 64) s = some k ∧ presCores (s.l3L k).pres = [] ∧ (s.l3L k).st = 4) ∧
    (∃ (p : Packet) (q : L3Pend) (x : Nat) (s : State), s.behind { p with op := .dataE } = false ∧ p.dst < 240 ∧
    LineQuiet (p.dst / 20) (p.addr / 64) s ∧
    s.l3Pend.find? (fun q => q.die == (p.dst / 20) && q.line == (p.addr / 64) && q.tag == p.tag) = some q ∧
    p.resp = 0 ∧ l3Find (p.dst / 20) (p.addr / 64) s = none ∧
    (l3Ways (p.dst / 20) (p.addr / 64) q.req.part s).1.find? (fun x => (s.l3L (l3Key (p.dst / 20) (p.addr / 64) x)).st
      == 0) = some x) ∧
    (∃ (p : Packet) (q : L3Pend) (x : Nat) (s : State), s.behind { p with op := .dataF } = false ∧ p.dst < 240 ∧
    LineQuiet (p.dst / 20) (p.addr / 64) s ∧
    s.l3Pend.find? (fun q => q.die == (p.dst / 20) && q.line == (p.addr / 64) && q.tag == p.tag) = some q ∧
    p.resp = 0 ∧ l3Find (p.dst / 20) (p.addr / 64) s = none ∧
    (l3Ways (p.dst / 20) (p.addr / 64) q.req.part s).1.find? (fun x => (s.l3L (l3Key (p.dst / 20) (p.addr / 64) x)).st
      == 0) = some x) ∧
    (∃ (p : Packet) (q : L3Pend) (x : Nat) (s : State), s.behind { p with op := .fwdData } = false ∧ p.dst < 240 ∧
    LineQuiet (p.dst / 20) (p.addr / 64) s ∧
    s.l3Pend.find? (fun q => q.die == (p.dst / 20) && q.line == (p.addr / 64) && q.tag == p.tag) = some q ∧
    p.resp = 0 ∧ l3Find (p.dst / 20) (p.addr / 64) s = none ∧
    (l3Ways (p.dst / 20) (p.addr / 64) q.req.part s).1.find? (fun x => (s.l3L (l3Key (p.dst / 20) (p.addr / 64) x)).st
      == 0) = some x) ∧
    (∃ (p : Packet) (q : L3Pend) (x : Nat) (s : State), s.behind { p with op := .dataE } = false ∧ p.dst < 240 ∧
    (s.sliceQ.filter fun r => r.die == (p.dst / 20) && r.line == (p.addr / 64)) =
      [{ die := (p.dst / 20), line := (p.addr / 64), p := q.req, sent := 0 }] ∧
    q.req.op = .rdS ∧ q.req.src / 20 = (p.dst / 20) ∧ vbFind (p.dst / 20) (p.addr / 64) s = none ∧
    s.l3Pend.find? (fun q => q.die == (p.dst / 20) && q.line == (p.addr / 64) && q.tag == p.tag) = some q ∧
    (s.l3Pend.all fun y => y == q || !(y.die == (p.dst / 20) && y.line == (p.addr / 64))) = true ∧ s.l3Pend.Nodup ∧
    p.resp = 0 ∧ l3Find (p.dst / 20) (p.addr / 64) s = none ∧
    (l3Ways (p.dst / 20) (p.addr / 64) q.req.part s).1.find? (fun x => (s.l3L (l3Key (p.dst / 20) (p.addr / 64) x)).st
      == 0) = some x ∧
    sliceDeny q.req.w p.w q.req.part (p.addr / 64) s = none) ∧
    (∃ (p : Packet) (q : L3Pend) (x : Nat) (s : State), s.behind { p with op := .dataF } = false ∧ p.dst < 240 ∧
    (s.sliceQ.filter fun r => r.die == (p.dst / 20) && r.line == (p.addr / 64)) =
      [{ die := (p.dst / 20), line := (p.addr / 64), p := q.req, sent := 0 }] ∧
    q.req.op = .rdS ∧ q.req.src / 20 = (p.dst / 20) ∧ vbFind (p.dst / 20) (p.addr / 64) s = none ∧
    s.l3Pend.find? (fun q => q.die == (p.dst / 20) && q.line == (p.addr / 64) && q.tag == p.tag) = some q ∧
    (s.l3Pend.all fun y => y == q || !(y.die == (p.dst / 20) && y.line == (p.addr / 64))) = true ∧ s.l3Pend.Nodup ∧
    p.resp = 0 ∧ l3Find (p.dst / 20) (p.addr / 64) s = none ∧
    (l3Ways (p.dst / 20) (p.addr / 64) q.req.part s).1.find? (fun x => (s.l3L (l3Key (p.dst / 20) (p.addr / 64) x)).st
      == 0) = some x ∧
    sliceDeny q.req.w p.w q.req.part (p.addr / 64) s = none) ∧
    (∃ (p : Packet) (q : L3Pend) (x : Nat) (s : State), s.behind { p with op := .fwdData } = false ∧ p.dst < 240 ∧
    (s.sliceQ.filter fun r => r.die == (p.dst / 20) && r.line == (p.addr / 64)) =
      [{ die := (p.dst / 20), line := (p.addr / 64), p := q.req, sent := 0 }] ∧
    q.req.op = .rdS ∧ q.req.src / 20 = (p.dst / 20) ∧ vbFind (p.dst / 20) (p.addr / 64) s = none ∧
    s.l3Pend.find? (fun q => q.die == (p.dst / 20) && q.line == (p.addr / 64) && q.tag == p.tag) = some q ∧
    (s.l3Pend.all fun y => y == q || !(y.die == (p.dst / 20) && y.line == (p.addr / 64))) = true ∧ s.l3Pend.Nodup ∧
    p.resp = 0 ∧ l3Find (p.dst / 20) (p.addr / 64) s = none ∧
    (l3Ways (p.dst / 20) (p.addr / 64) q.req.part s).1.find? (fun x => (s.l3L (l3Key (p.dst / 20) (p.addr / 64) x)).st
      == 0) = some x ∧
    sliceDeny q.req.w p.w q.req.part (p.addr / 64) s = none) ∧
    (∃ (p : Packet) (q : L3Pend) (k : Nat) (s : State), s.behind { p with op := .gntX } = false ∧ p.dst < 240 ∧
    LineQuiet (p.dst / 20) (p.addr / 64) s ∧
    s.l3Pend.find? (fun q => q.die == (p.dst / 20) && q.line == (p.addr / 64) && q.tag == p.tag) = some q ∧
    p.resp = 0 ∧ l3Find (p.dst / 20) (p.addr / 64) s = some k) ∧
    (∃ (n : Nat) (s : State), n < 12) :=
  ⟨⟨{ op := .snpS, src := 256, dst := 24, addr := 0x1000, w := true }, State.reset, by decide +kernel⟩,
    ⟨{ op := .snpX, src := 256, dst := 24, addr := 0x1000, w := true }, State.reset, by decide +kernel⟩,
    ⟨{ op := .snpC, src := 256, dst := 24, addr := 0x1000, w := true }, State.reset, by decide +kernel⟩,
    ⟨{ op := .inv, src := 256, dst := 24, addr := 0x1000, w := true }, State.reset, by decide +kernel⟩,
    ⟨{ op := .rcl, src := 256, dst := 24, addr := 0x1000, w := true }, State.reset, by decide +kernel⟩,
    ⟨{ op := .snpS, src := 256, dst := 24, addr := 0x1000, w := true }, (l3Key 1 64 0),
    (State.reset.setL3 (l3Key 1 64 0) { line := 64, st := 2, data := 5, pres := 0, own := 20 }), by decide +kernel⟩,
    ⟨{ op := .snpX, src := 256, dst := 24, addr := 0x1000, w := true }, (l3Key 1 64 0),
    (State.reset.setL3 (l3Key 1 64 0) { line := 64, st := 3, data := 5, pres := 0, own := 20 }), by decide +kernel⟩,
    ⟨{ op := .snpC, src := 256, dst := 24, addr := 0x1000, w := true }, (l3Key 1 64 0),
    (State.reset.setL3 (l3Key 1 64 0) { line := 64, st := 4, data := 5, pres := 0, own := 20 }), by decide +kernel⟩,
    ⟨{ op := .inv, src := 256, dst := 24, addr := 0x1000, w := true }, (l3Key 1 64 0),
    (State.reset.setL3 (l3Key 1 64 0) { line := 64, st := 1, data := 5, pres := 0, own := 20 }), by decide +kernel⟩,
    ⟨{ op := .rcl, src := 256, dst := 24, addr := 0x1000, w := true }, (l3Key 1 64 0),
    (State.reset.setL3 (l3Key 1 64 0) { line := 64, st := 4, data := 5, pres := 0, own := 20 }), by decide +kernel⟩,
    ⟨{ op := .dataE, src := 256, dst := 24, addr := 0x1000, w := true, data := true, payload := 0x77 },
    { die := 1, line := 64, tag := 0, op := .getS, req := { op := .rdS, src := 22, addr := 0x1000, w := true }, dead := false },
    0,
    { (iter 20 (fun x t => putR .CD_L3_WAYDIS (20 + x) 0 t) State.reset) with l3Pend := [{ die := 1, line := 64, tag := 0, op := .getS, req := { op := .rdS, src := 22, addr := 0x1000, w := true }, dead := false }] },
    by decide +kernel⟩,
    ⟨{ op := .dataF, src := 256, dst := 24, addr := 0x1000, w := true, data := true, payload := 0x77 },
    { die := 1, line := 64, tag := 0, op := .getS, req := { op := .rdS, src := 22, addr := 0x1000, w := true }, dead := false },
    0,
    { (iter 20 (fun x t => putR .CD_L3_WAYDIS (20 + x) 0 t) State.reset) with l3Pend := [{ die := 1, line := 64, tag := 0, op := .getS, req := { op := .rdS, src := 22, addr := 0x1000, w := true }, dead := false }] },
    by decide +kernel⟩,
    ⟨{ op := .fwdData, src := 256, dst := 24, addr := 0x1000, w := true, data := true, payload := 0x77 },
    { die := 1, line := 64, tag := 0, op := .getS, req := { op := .rdS, src := 22, addr := 0x1000, w := true }, dead := false },
    0,
    { (iter 20 (fun x t => putR .CD_L3_WAYDIS (20 + x) 0 t) State.reset) with l3Pend := [{ die := 1, line := 64, tag := 0, op := .getS, req := { op := .rdS, src := 22, addr := 0x1000, w := true }, dead := false }] },
    by decide +kernel⟩,
    ⟨{ op := .dataE, src := 256, dst := 24, addr := 0x1000, w := true, data := true, payload := 0x77 },
    { die := 1, line := 64, tag := 0, op := .getS, req := { op := .rdS, src := 22, addr := 0x1000, w := true }, dead := false },
    0,
    { (iter 20 (fun x t => putR .CD_L3_WAYDIS (20 + x) 0 t) State.reset) with l3Pend := [{ die := 1, line := 64, tag := 0, op := .getS, req := { op := .rdS, src := 22, addr := 0x1000, w := true }, dead := false }], sliceQ := [{ die := 1, line := 64, p := { op := .rdS, src := 22, addr := 0x1000, w := true }, sent := 0 }] },
    by decide +kernel⟩,
    ⟨{ op := .dataF, src := 256, dst := 24, addr := 0x1000, w := true, data := true, payload := 0x77 },
    { die := 1, line := 64, tag := 0, op := .getS, req := { op := .rdS, src := 22, addr := 0x1000, w := true }, dead := false },
    0,
    { (iter 20 (fun x t => putR .CD_L3_WAYDIS (20 + x) 0 t) State.reset) with l3Pend := [{ die := 1, line := 64, tag := 0, op := .getS, req := { op := .rdS, src := 22, addr := 0x1000, w := true }, dead := false }], sliceQ := [{ die := 1, line := 64, p := { op := .rdS, src := 22, addr := 0x1000, w := true }, sent := 0 }] },
    by decide +kernel⟩,
    ⟨{ op := .fwdData, src := 256, dst := 24, addr := 0x1000, w := true, data := true, payload := 0x77 },
    { die := 1, line := 64, tag := 0, op := .getS, req := { op := .rdS, src := 22, addr := 0x1000, w := true }, dead := false },
    0,
    { (iter 20 (fun x t => putR .CD_L3_WAYDIS (20 + x) 0 t) State.reset) with l3Pend := [{ die := 1, line := 64, tag := 0, op := .getS, req := { op := .rdS, src := 22, addr := 0x1000, w := true }, dead := false }], sliceQ := [{ die := 1, line := 64, p := { op := .rdS, src := 22, addr := 0x1000, w := true }, sent := 0 }] },
    by decide +kernel⟩,
    ⟨{ op := .gntX, src := 256, dst := 24, addr := 0x1000, w := true },
    { die := 1, line := 64, tag := 0, op := .getS, req := { op := .rdS, src := 22, addr := 0x1000, w := true }, dead := false },
    (l3Key 1 64 0),
    { (State.reset.setL3 (l3Key 1 64 0) { line := 64, st := 1, data := 5, pres := 0, own := 20 }) with l3Pend := [{ die := 1, line := 64, tag := 0, op := .getS, req := { op := .rdS, src := 22, addr := 0x1000, w := true }, dead := false }] },
    by decide +kernel⟩,
    ⟨1, (State.reset.setL3 (l3Key 1 64 0) { line := 64, st := 4, data := 5, pres := 4, own := 2 }), by decide +kernel⟩⟩

theorem test_met_Completions :
    (∃ (p : Packet) (x : Tx) (h : Nat) (e : SbEntry) (r : List SbEntry) (s : State),
    s.behind { p with op := .cmp } = false ∧ txMatch { p with op := .cmp } s = some x ∧ x.phase = 0 ∧
    x.own = .store h ∧ p.resp = 0 ∧ (s.hart h).sb = e :: r ∧ (s.hart h).loads = [] ∧ (s.hart h).stall = .none) ∧
    (∃ (p : Packet) (x : Tx) (h : Nat) (rd : Nat) (sg : Bool) (l : PLoad) (a : LAcc) (s : State),
    s.behind { p with op := .dataIO } = false ∧ txMatch { p with op := .dataIO } s = some x ∧ x.phase = 0 ∧
    x.own = .load h l.id 0 ∧ p.resp = 0 ∧ (s.hart h).loads = [l] ∧ l.accs = [a] ∧ l.dst = .x rd sg ∧ rd < 32 ∧
    l.amo = none ∧ l.after = none ∧ l.desc = none ∧ poisonIn p.poison (a.pa % 64) a.size = false) ∧
    (∃ (p : Packet) (x : Tx) (h : Nat) (k : Nat) (e : TsEntry) (s : State), s.behind { p with op := .cmpIO } = false ∧
    txMatch { p with op := .cmpIO } s = some x ∧ x.phase = 0 ∧ x.own = .timed h k ∧ p.resp = 0 ∧
    (s.tsQ h).find? (fun y => y.id == k) = some e) ∧
    (∃ (p : Packet) (s : State), s.behind { p with op := .cmp } = false ∧ txMatch { p with op := .cmp } s = none) ∧
    (∃ (p : Packet) (s : State), s.behind { p with op := .cmpIO } = false ∧ txMatch { p with op := .cmpIO } s = none) ∧
    (∃ (p : Packet) (s : State), s.behind { p with op := .dataIO } = false ∧
    txMatch { p with op := .dataIO } s = none) ∧
    (∃ (src : Nat) (tag : Nat) (h : Nat) (k : Nat) (x : Tx) (e : TsEntry) (s : State),
    s.txs.find? (fun y => y.src == src && y.tag == tag && y.phase == 0 && timedOut 1 y.addr y.t0 s) = some x ∧
    x.own = .timed h k ∧ (s.tsQ h).find? (fun y => y.id == k) = some e) ∧
    (∃ (src : Nat) (tag : Nat) (x : Tx) (s : State),
    s.txs.find? (fun y => y.src == src && y.tag == tag && y.phase == 1 && timedOut 4 y.addr y.t0 s) = some x) :=
  ⟨⟨{ op := .cmp, src := 256, dst := 0, addr := 0x1000, w := true },
    { src := 0, tag := 0, tgt := 0x100, addr := 0x1000, op := .wrNC, own := .store 0, w := true, part := 0, phase := 0, t0 := 1 },
    0, { kind := .store, pa := 0x1000, w := true, pbmt := 1, part := 0, cls := .be }, [],
    { (runS.onHart 0 fun t => { t with sb := [{ kind := .store, pa := 0x1000, w := true, pbmt := 1, part := 0, cls := .be }] }) with txs := [{ src := 0, tag := 0, tgt := 0x100, addr := 0x1000, op := .wrNC, own := .store 0, w := true, part := 0, phase := 0, t0 := 1 }] },
    by decide +kernel⟩,
    ⟨{ op := .dataIO, src := 256, dst := 0, addr := 0x1000, w := true, data := true, payload := 0xFF80 },
    { src := 0, tag := 0, tgt := 0x100, addr := 0x1000, op := .wrNC, own := .load 0 0 0, w := true, part := 0, phase := 0, t0 := 1 },
    0, 5, true,
    { id := 0, pc := 0, dst := .x 5 true, accs := [{ va := 0x1000, pa := 0x1000, size := 1, pbmt := 2, sent := true }], part := 0, v := false, w := true, cls := .be, stream := false },
    { va := 0x1000, pa := 0x1000, size := 1, pbmt := 2, sent := true },
    { (runS.onHart 0 fun t => { t with loads := [{ id := 0, pc := 0, dst := .x 5 true, accs := [{ va := 0x1000, pa := 0x1000, size := 1, pbmt := 2, sent := true }], part := 0, v := false, w := true, cls := .be, stream := false }] }) with txs := [{ src := 0, tag := 0, tgt := 0x100, addr := 0x1000, op := .wrNC, own := .load 0 0 0, w := true, part := 0, phase := 0, t0 := 1 }] },
    by decide +kernel⟩,
    ⟨{ op := .cmpIO, src := 256, dst := 0, addr := 0x1000, w := true },
    { src := 0, tag := 0, tgt := 0x100, addr := 0x1000, op := .wrNC, own := .timed 0 3, w := true, part := 0, phase := 0, t0 := 1 },
    0, 3, ⟨3, ⟨0xFF1000000000, 4, 5, 9, 1, true, true, 0⟩, 3, 0⟩,
    { (runS.setTsQ 0 [⟨3, ⟨0xFF1000000000, 4, 5, 9, 1, true, true, 0⟩, 3, 0⟩]) with txs := [{ src := 0, tag := 0, tgt := 0x100, addr := 0x1000, op := .wrNC, own := .timed 0 3, w := true, part := 0, phase := 0, t0 := 1 }] },
    by decide +kernel⟩,
    ⟨{ op := .cmp, src := 256, dst := 0, addr := 0x1000, w := true }, State.reset, by decide +kernel⟩,
    ⟨{ op := .cmpIO, src := 256, dst := 0, addr := 0x1000, w := true }, State.reset, by decide +kernel⟩,
    ⟨{ op := .dataIO, src := 256, dst := 0, addr := 0x1000, w := true }, State.reset, by decide +kernel⟩,
    ⟨0, 0, 0, 3,
    { src := 0, tag := 0, tgt := 0x100, addr := 0x1000, op := .wrNC, own := .timed 0 3, w := true, part := 0, phase := 0, t0 := 1 },
    ⟨3, ⟨0xFF1000000000, 4, 5, 9, 1, true, true, 0⟩, 3, 0⟩,
    { (runS.setTsQ 0 [⟨3, ⟨0xFF1000000000, 4, 5, 9, 1, true, true, 0⟩, 3, 0⟩]) with txs := [{ src := 0, tag := 0, tgt := 0x100, addr := 0x1000, op := .wrNC, own := .timed 0 3, w := true, part := 0, phase := 0, t0 := 1 }] },
    by decide +kernel⟩,
    ⟨0, 0,
    { src := 0, tag := 0, tgt := 0x100, addr := 0x1000, op := .wrNC, own := .store 0, w := true, part := 0, phase := 1, t0 := 1 },
    { State.reset with txs := [{ src := 0, tag := 0, tgt := 0x100, addr := 0x1000, op := .wrNC, own := .store 0, w := true, part := 0, phase := 1, t0 := 1 }] },
    by decide +kernel⟩⟩

theorem test_met_MemoryControllers :
    (∃ (k : Nat) (c : Nat) (w : Nat) (r : Bool) (s : State), s.fbit F.MC_STATUS_SELFREF k c = false ∧
    (gtForBank k c w s || r) = false) ∧
    (∃ (k : Nat) (c : Nat) (w : Nat) (r : Bool) (s : State), s.fbit F.MC_STATUS_SELFREF k c = false ∧
    (gtForBank k c w s || r) = true ∧ smapGet (fun _ => 0) s.mcBank ((k * 4 + c) * 16 + w) < 8) ∧
    (∃ (k : Nat) (c : Nat) (w : Nat) (s : State), s.fbit F.MC_STATUS_SELFREF k c = false ∧
    smapGet (fun _ => 0) s.mcBank ((k * 4 + c) * 16 + w) = 8) ∧
    (∃ (k : Nat) (c : Nat) (s : State), s.mcStart.contains (k * 4 + c) = true ∧ gtQueued k c s = false) ∧
    (∃ (k : Nat) (c : Nat) (s : State), (gtQueued k c s || !s.mcStart.contains (k * 4 + c)) = true) ∧
    (∃ (k : Nat) (c : Nat) (rate : Nat) (s : State), rate < 4 ∧ s.mcStart.contains (k * 4 + c) = true ∧
    gtQueued k c s = false) ∧
    (∃ (k : Nat) (c : Nat) (s : State), (gtQueued k c s || !s.mcStart.contains (k * 4 + c)) = true) ∧
    (∃ (addr : Nat) (r : McReq) (s : State),
    s.mcq.find? (fun x => x.addr == lineOf addr && (x.cls == .be || x.cls == .mg)) = some r) ∧
    (∃ (addr : Nat) (r : McReq) (s : State), inSelfRefresh addr s = false ∧ mcReady addr s = some r ∧ r.kind = 1) ∧
    (∃ (k : Nat) (c : Nat) (s : State), c < 4 ∧ s.b F.MC_CTRL_PD_EN k = true ∧
    (s.mcq.any fun r => mcOf r.addr == k && mcSub r.addr == c) = false ∧
    (s.wrq.any fun e => mcOf e.addr == k && mcSub e.addr == c) = false ∧
    ((List.range 64).any fun p => fget F.MC_CREDIT_GT_RATE (creditNow (creditIx k p) s) != 0) = false ∧
    s.fbit F.MC_STATUS_SELFREF k c = false) ∧
    (∃ (k : Nat) (c : Nat) (s : State),
    ((s.mcq.any fun r => mcOf r.addr == k && mcSub r.addr == c) || s.wrq.any fun e => mcOf e.addr == k && mcSub e.addr
      == c) = true) ∧
    (∃ (addr : Nat) (e : WrEntry) (s : State), HaQuiet s ∧ (s.mcq.all fun r => r.kind != 1) = true ∧
    wrFind addr s = some e ∧ e.halves = 3 ∧ gtReading addr s = false ∧
    s.fbit F.MC_STATUS_SELFREF (mcOf addr) (mcSub addr) = false ∧ codeOf addr s = 0) ∧
    (∃ (addr : Nat) (s : State), HaQuiet s ∧ (s.mcq.all fun r => r.kind != 1) = true ∧
    ((wrFind addr s).isNone || gtReading addr s) = true) ∧
    (∃ (k : Nat) (c : Nat) (s : State), s.b F.MC_SCRUB_CTRL_EN 0 = true ∧ s.fbit F.MC_STATUS_SELFREF k c = false ∧
    scrubbed (lineOfL k (scrubLine c (scrubSteps k c s % scrubLines s))) s = false) ∧
    (∃ (s : State), s.b F.MC_SCRUB_CTRL_EN 0 = false) :=
  ⟨⟨2, 1, 3, false, { State.reset with mcBank := [(147, 4)] }, by decide +kernel⟩,
    ⟨2, 1, 3, true, { State.reset with mcBank := [(147, 4)] }, by decide +kernel⟩,
    ⟨2, 1, 3, { State.reset with mcBank := [(147, 8)] }, by decide +kernel⟩,
    ⟨1, 2, { State.reset with mcStart := [6, 0] }, by decide +kernel⟩,
    ⟨1, 2, State.reset, by decide +kernel⟩,
    ⟨1, 2, 3, { State.reset with mcStart := [6, 0] }, by decide +kernel⟩,
    ⟨0, 0,
    { State.reset with mcq := [{ addr := 0, kind := 0, cls := .gt, part := 0, deferred := false, late := false, issued := true }] },
    by decide +kernel⟩,
    ⟨0x1000, { addr := 0x1000, kind := 0, cls := .be, part := 0, deferred := false, late := false, issued := true },
    { State.reset with mcq := [{ addr := 0x2000, kind := 0, cls := .be, part := 0, deferred := false, late := false, issued := true }, { addr := 0x1000, kind := 0, cls := .be, part := 0, deferred := false, late := false, issued := true }] },
    by decide +kernel⟩,
    ⟨0x1000, { addr := 0x1000, kind := 1, cls := .be, part := 0, deferred := false, late := false, issued := false },
    { State.reset with mcq := [{ addr := 0x1000, kind := 1, cls := .be, part := 0, deferred := false, late := false, issued := false }] },
    by decide +kernel⟩,
    ⟨1, 2, (State.reset.setB F.MC_CTRL_PD_EN 1 true), by decide +kernel⟩,
    ⟨0, 0,
    { State.reset with mcq := [{ addr := 0, kind := 0, cls := .gt, part := 0, deferred := false, late := false, issued := true }] },
    by decide +kernel⟩,
    ⟨0x1008, ⟨0x1000, 0x1234, 0, 3⟩, { State.reset with wrq := [⟨0x1000, 0x1234, 0, 3⟩] }, by decide +kernel⟩,
    ⟨0x1008, State.reset, by decide +kernel⟩,
    ⟨1, 2, (State.reset.setB F.MC_SCRUB_CTRL_EN 0 true), by decide +kernel⟩,
    ⟨(State.reset.setB F.MC_SCRUB_CTRL_EN 0 false), by decide +kernel⟩⟩

theorem test_met_ControllerRegisters :
    (∃ (a : Access) (k : Nat) (p : Nat) (v : Word) (s : State), Allowed a true .MC_CREDIT (creditIx k p) s ∧
    partBusy p s = false ∧ gtSum k (some (p, fget F.MC_CREDIT_GT_RATE v)) s ≤ 64 * gtLines k s) ∧
    (∃ (a : Access) (k : Nat) (p : Nat) (v : Word) (s : State), Allowed a true .MC_CREDIT (creditIx k p) s ∧
    partBusy p s = false ∧ 64 * gtLines k s < gtSum k (some (p, fget F.MC_CREDIT_GT_RATE v)) s) ∧
    (∃ (a : Access) (k : Nat) (s : State), Allowed a true .MC_CTRL k s ∧ gtSum k none s = 0) ∧
    (∃ (a : Access) (i : Nat) (v : Word) (s : State), Allowed a true .MC_REGION_BASE i s ∧
    regionBaseBad i v s = false) ∧
    (∃ (a : Access) (i : Nat) (v : Word) (s : State), Allowed a true .MC_REGION_BASE i s ∧ regionBaseBad i v s = true) ∧
    (∃ (a : Access) (i : Nat) (v : Word) (s : State), Allowed a true .MC_REGION_CODE i s ∧
    assigns F.MC_REGION_CODE_PART i v s = false ∧ s.b F.MC_REGION_BASE_VALID i = false) ∧
    (∃ (s : State), s.walks = [] ∧ s.haTx = []) ∧
    (∃ (a : Access) (v : Word) (s : State), Allowed a true .MC_INIT 0 s ∧ s.b F.MC_INIT_BUSY 0 = false ∧
    vset F.MC_INIT_GO v = true ∧ s.b F.MC_REGION_BASE_VALID (fget F.MC_INIT_REGION v) = true) ∧
    (∃ (a : Access) (v : Word) (s : State), Allowed a true .MC_INIT 0 s ∧ s.b F.MC_INIT_BUSY 0 = false ∧
    vset F.MC_INIT_GO v = true ∧ s.b F.MC_REGION_BASE_VALID (fget F.MC_INIT_REGION v) = false) ∧
    (∃ (i : Nat) (s : State), s.initRun = some i ∧ s.initWb = []) ∧
    (∃ (addr : Nat) (r : McReq) (x : HaTx) (p : Packet) (s : State), HaQuiet s ∧ inSelfRefresh addr s = false ∧
    mcReady addr s = some r ∧ r.kind = 0 ∧ codeOf (lineOf addr) s = 0 ∧ wrFind (lineOf addr) s = none ∧
    haTxOf addr s = some x ∧ x.line = lineOf addr ∧ x.mem = 1 ∧ x.snoops = [] ∧ x.wbp = [] ∧ x.ack = false ∧
    x.fwd = false ∧ x.st = 0 ∧ x.req = some p ∧ p.src < 240 ∧
    dieAbsent (mcOf (lineOf addr)) (dieOfAgent p.src) s = false ∧ p.op = .getS ∧ p.fetch = false) ∧
    (∃ (addr : Nat) (r : McReq) (x : HaTx) (p : Packet) (s : State), HaQuiet s ∧ inSelfRefresh addr s = false ∧
    mcReady addr s = some r ∧ r.kind = 0 ∧ codeOf (lineOf addr) s = 0 ∧ wrFind (lineOf addr) s = none ∧
    haTxOf addr s = some x ∧ x.line = lineOf addr ∧ x.mem = 1 ∧ x.snoops = [] ∧ x.wbp = [] ∧ x.ack = false ∧
    x.fwd = false ∧ x.st = 0 ∧ x.req = some p ∧ p.src < 240 ∧
    dieAbsent (mcOf (lineOf addr)) (dieOfAgent p.src) s = false ∧ p.op = .rdNC) ∧
    (∃ (a : Access) (s : State), Allowed a true .MC_ECC_TEST_CMD 0 s ∧ s.testRun = none ∧
    s.b F.MC_ECC_TEST_CTRL_EN 0 = true ∧ codeOf (testAddr s) s ≠ 0 ∧ isCheckAddr (testAddr s) s = false ∧
    haTxOf (testAddr s) s = none ∧ dirFind (testAddr s) s = none ∧ wrFind (testAddr s) s = none ∧ s.atomBuf = []) ∧
    (∃ (a : Access) (s : State), Allowed a true .MC_ECC_TEST_CMD 0 s ∧ s.testRun = none ∧
    s.b F.MC_ECC_TEST_CTRL_EN 0 = true ∧ codeOf (testAddr s) s ≠ 0 ∧ isCheckAddr (testAddr s) s = false ∧
    haTxOf (testAddr s) s = none ∧ dirFind (testAddr s) s = none ∧ wrFind (testAddr s) s = none ∧ s.atomBuf = []) ∧
    (∃ (a : Access) (s : State), Allowed a true .MC_ECC_TEST_CMD 0 s ∧ s.testRun = none ∧
    s.b F.MC_ECC_TEST_CTRL_EN 0 = true ∧ codeOf (testAddr s) s ≠ 0 ∧ isCheckAddr (testAddr s) s = false) ∧
    (∃ (a : Access) (s : State), Allowed a true .MC_ECC_TEST_CMD 0 s ∧ s.testRun = none ∧
    s.b F.MC_ECC_TEST_CTRL_EN 0 = true ∧ codeOf (testAddr s) s ≠ 0 ∧ isCheckAddr (testAddr s) s = false) ∧
    (∃ (a : Access) (s : State), Allowed a true .MC_ECC_TEST_CMD 0 s ∧ s.testRun = none ∧
    s.b F.MC_ECC_TEST_CTRL_EN 0 = false) ∧
    (∃ (a : Access) (i : Nat) (v : Word) (s : State), Allowed a true .MC_RETIRE i s ∧
    vset F.MC_RETIRE_VALID v = true ∧ (s.b F.RAS_PAGE_HIST_VALID 0) = false ∧
    ((List.range 256).any fun j => s.b F.RAS_PAGE_HIST_VALID j) = false) :=
  ⟨⟨accS, 2, 3, 0x1#64, State.reset, by decide +kernel⟩,
    ⟨accS, 2, 3, 0xFFFFFFFFFFFFFFFF#64, State.reset, by decide +kernel⟩,
    ⟨accS, 2, State.reset, by decide +kernel⟩,
    ⟨accS, 2, 0x0#64, State.reset, by decide +kernel⟩,
    ⟨accS, 2, (fset F.MC_REGION_BASE_VALID 0 1), State.reset, by decide +kernel⟩,
    ⟨accS, 2, 0x7#64, State.reset, by decide +kernel⟩,
    ⟨(State.reset.setB F.WC_STATUS_WALK_BUSY 0 true), by decide +kernel⟩,
    ⟨accS, (fset F.MC_INIT_GO (fset F.MC_INIT_REGION 0 2) 1),
    ((State.reset.setB F.MC_REGION_BASE_VALID 2 true).setF F.MC_REGION_BASE_SIZE 2 1), by decide +kernel⟩,
    ⟨accS, (fset F.MC_INIT_GO (fset F.MC_INIT_REGION 0 2) 1), State.reset, by decide +kernel⟩,
    ⟨2, { State.reset with initRun := some 2 }, by decide +kernel⟩,
    ⟨0x1000, { addr := 0x1000, kind := 0, cls := .be, part := 0, deferred := false, late := false, issued := true },
    { line := 0x1000, req := some { op := .getS, src := 20, dst := 0x100, addr := 0x1000, w := true }, st := 0, w := true, mem := 1 },
    { op := .getS, src := 20, dst := 256, addr := 0x1000, w := true },
    { State.reset with mcq := [{ addr := 0x1000, kind := 0, cls := .be, part := 0, deferred := false, late := false, issued := true }], haTx := [{ line := 0x1000, req := some { op := .getS, src := 20, dst := 0x100, addr := 0x1000, w := true }, st := 0, w := true, mem := 1 }] },
    by decide +kernel⟩,
    ⟨0x1000, { addr := 0x1000, kind := 0, cls := .be, part := 0, deferred := false, late := false, issued := true },
    { line := 0x1000, req := some { op := .rdNC, src := 20, dst := 0x100, addr := 0x1000, w := true }, st := 0, w := true, mem := 1 },
    { op := .rdNC, src := 20, dst := 256, addr := 0x1000, w := true },
    { State.reset with mcq := [{ addr := 0x1000, kind := 0, cls := .be, part := 0, deferred := false, late := false, issued := true }], haTx := [{ line := 0x1000, req := some { op := .rdNC, src := 20, dst := 0x100, addr := 0x1000, w := true }, st := 0, w := true, mem := 1 }] },
    by decide +kernel⟩,
    ⟨accS,
    (((((State.reset.setF F.MC_REGION_BASE_VALID 0 1).setF F.MC_REGION_BASE_SIZE 0 1).setF F.MC_REGION_CODE_CODE 0
      1).setB F.MC_ECC_TEST_CTRL_EN 0 true).setF F.MC_ECC_TEST_ADDR_VAL 0 129).setBytes 0x1020 32
      0x1234567890ABCDEF11223344,
    by decide +kernel⟩,
    ⟨accS,
    (((((State.reset.setF F.MC_REGION_BASE_VALID 0 1).setF F.MC_REGION_BASE_SIZE 0 1).setF F.MC_REGION_CODE_CODE 0
      1).setB F.MC_ECC_TEST_CTRL_EN 0 true).setF F.MC_ECC_TEST_ADDR_VAL 0 129).setR .MC_ECC_TEST_DATA 1 0x77 |>.setR
      .MC_ECC_TEST_CHECK 0 0x345,
    by decide +kernel⟩,
    ⟨accS,
    (((((State.reset.setF F.MC_REGION_BASE_VALID 0 1).setF F.MC_REGION_BASE_SIZE 0 1).setF F.MC_REGION_CODE_CODE 0
      1).setB F.MC_ECC_TEST_CTRL_EN 0 true).setF F.MC_ECC_TEST_ADDR_VAL 0 129).setR .MC_ECC_TEST_DATA 1 0x77,
    by decide +kernel⟩,
    ⟨accS,
    (((((State.reset.setF F.MC_REGION_BASE_VALID 0 1).setF F.MC_REGION_BASE_SIZE 0 1).setF F.MC_REGION_CODE_CODE 0
      1).setB F.MC_ECC_TEST_CTRL_EN 0 true).setF F.MC_ECC_TEST_ADDR_VAL 0 129).setR .MC_ECC_TEST_DATA 1 0x77,
    by decide +kernel⟩,
    ⟨accS, State.reset, by decide +kernel⟩,
    ⟨accS, 5, (fset F.MC_RETIRE_VALID (fset F.MC_RETIRE_PAGE 0 77) 1), State.reset, by decide +kernel⟩⟩

theorem test_met_ErrorRecordsAndLog :
    (∃ (e : Bool) (r : ErrRec) (s : State), intakeNext s.intake = some r ∧ rasMerges r s = false ∧
    (e && decide (r.sev ≤ 1)) = false ∧ s.rasUnread < 1024) ∧
    (∃ (e : Bool) (r : ErrRec) (s : State), intakeNext s.intake = some r ∧ rasMerges r s = false ∧
    (e && decide (r.sev ≤ 1)) = false ∧ s.rasUnread = 1024 ∧ 2 ≤ r.sev) ∧
    (∃ (r : ErrRec) (s : State), intakeNext s.intake = some r ∧ rasMerges r s = false ∧ s.rasUnread = 1024 ∧
    r.sev ≤ 1) ∧
    (∃ (r : ErrRec) (s : State), intakeNext s.intake = some r ∧ r.sev ≤ 1) ∧
    (∃ (a : Access) (v : Word) (s : State), Allowed a true .RAS_LOG_PTR 0 s ∧
    (bits v 9 0 + 1024 - s.f F.RAS_LOG_PTR_TAIL 0) % 1024 ≤ s.rasUnread) ∧
    (∃ (a : Access) (v : Word) (s : State), Allowed a true .RAS_LOG_PTR 0 s ∧
    s.rasUnread < (bits v 9 0 + 1024 - s.f F.RAS_LOG_PTR_TAIL 0) % 1024) :=
  ⟨⟨false, { tb := 5, ty := 9, sev := 1, src := 3, detail := 77 },
    { State.reset with intake := [{ tb := 5, ty := 9, sev := 1, src := 3, detail := 77 }] }, by decide +kernel⟩,
    ⟨false, { tb := 5, ty := 9, sev := 2, src := 3, detail := 77 },
    { State.reset with rasUnread := 1024, intake := [{ tb := 5, ty := 9, sev := 2, src := 3, detail := 77 }] },
    by decide +kernel⟩,
    ⟨{ tb := 5, ty := 9, sev := 1, src := 3, detail := 77 },
    { State.reset with rasUnread := 1024, intake := [{ tb := 5, ty := 9, sev := 1, src := 3, detail := 77 }] },
    by decide +kernel⟩,
    ⟨{ tb := 5, ty := 9, sev := 1, src := 3, detail := 77 },
    { State.reset with intake := [{ tb := 5, ty := 9, sev := 1, src := 3, detail := 77 }] }, by decide +kernel⟩,
    ⟨accS, 3#64, { State.reset with rasUnread := 5 }, by decide +kernel⟩,
    ⟨accS, 7#64, { State.reset with rasUnread := 5 }, by decide +kernel⟩⟩

theorem test_met_FabricTables :
    (∃ (a : Access) (s : State), Allowed a true .FAB_RT_DATA 0 s ∧ s.b F.FAB_RT_STATUS_BUSY 0 = false ∧
    s.f F.FAB_RT_SEL_EPOCH 0 = otherEpoch s ∧ s.f F.FAB_RT_SEL_DOMAIN 0 ≤ 12 ∧
    s.f F.FAB_RT_SEL_ROUTER 0 < meshRouters (s.f F.FAB_RT_SEL_DOMAIN 0) ∧ stagedWritable s = true) ∧
    (∃ (a : Access) (s : State), Allowed a true .FAB_RT_DATA 0 s ∧ s.b F.FAB_RT_STATUS_BUSY 0 = false ∧
    s.f F.FAB_RT_SEL_EPOCH 0 ≠ otherEpoch s) ∧
    (∃ (a : Access) (v : Word) (s : State), Allowed a true .FAB_RT_CMD 0 s ∧ vset F.FAB_RT_CMD_COPY v = true) ∧
    (∃ (s : State), s.b F.FAB_RT_STATUS_BUSY 0 = true ∧ stagedWritable s = true) ∧
    (∃ (a : Access) (v : Word) (s : State), Allowed a true .FAB_EPOCH 0 s ∧ vset F.FAB_EPOCH_SWITCH v = true ∧
    s.b F.FAB_RT_STATUS_BUSY 0 = false) ∧
    (∃ (s : State), s.epochCheck = true ∧ (!stagedWritable s || s.b F.FAB_EPOCH_PENDING 0) = true) ∧
    (∃ (w : Nat) (s : State), s.epochCheck = true ∧ stagedWritable s = true ∧ s.b F.FAB_EPOCH_PENDING 0 = false ∧
    (List.range 64).find? (fun w => winBad w s) = some w) ∧
    (∃ (s : State), s.epochCheck = true ∧ stagedWritable s = true ∧ s.b F.FAB_EPOCH_PENDING 0 = false ∧
    (List.range 64).find? (fun w => winBad w s) = none ∧
    winPairs.any (fun (i, j) => (decide (i < j) && winMeet i j 0 s) || winMeet i j 1 s) = false) ∧
    (∃ (s : State), s.b F.FAB_EPOCH_PENDING 0 = true) ∧
    (∃ (w : Nat) (o : Bool) (i : Option Word) (s : State), HaQuiet s ∧ s.mcq = [] ∧ s.winOff = [] ∧
    smapGet (fun _ => none) s.winPend w = some (o, i) ∧
    (s.winPend.all fun x => x.1 != w || x.2 == some (o, i)) = true ∧ winReady (some (o, i)) s = true) ∧
    (∃ (w : Nat) (o : Bool) (i : Word) (s : State), HaQuiet s ∧ s.mcq = [] ∧ s.winOff = [] ∧
    smapGet (fun _ => none) s.winPend w = some (o, some i) ∧
    (s.winPend.all fun x => x.1 != w || x.2 == some (o, some i)) = true ∧ (s.tb - i).toInt < 72) :=
  ⟨⟨accS, (State.reset.setF F.FAB_RT_SEL_EPOCH 0 1), by decide +kernel⟩,
    ⟨accS, State.reset, by decide +kernel⟩,
    ⟨accS, (fset F.FAB_RT_CMD_COPY 0 1), State.reset, by decide +kernel⟩,
    ⟨(State.reset.setB F.FAB_RT_STATUS_BUSY 0 true), by decide +kernel⟩,
    ⟨accS, (fset F.FAB_EPOCH_SWITCH 0 1), State.reset, by decide +kernel⟩,
    ⟨{ (State.reset.setB F.FAB_EPOCH_PENDING 0 true) with epochCheck := true }, by decide +kernel⟩,
    ⟨7, { ((State.reset.setF F.FAB_RSV_CFG_EN 7 1).setF F.FAB_RSV_CFG_STRIDE 7 3) with epochCheck := true },
    by decide +kernel⟩,
    ⟨{ State.reset with epochCheck := true }, by decide +kernel⟩,
    ⟨(State.reset.setB F.FAB_EPOCH_PENDING 0 true), by decide +kernel⟩,
    ⟨3, true, none, { State.reset with winPend := [(3, some (true, none))] }, by decide +kernel⟩,
    ⟨3, true, (-71), { State.reset with winPend := [(3, some (true, some (-71)))] }, by decide +kernel⟩⟩

theorem test_met_Probes :
    (∃ (a : Access) (i : Nat) (s : State), Allowed a true .BAT_CTRL i s ∧ s.b F.BAT_CTRL_RUN i = false ∧
    s.b F.BAT_STATUS_RUNNING i = false ∧ batDieOn i s = true ∧ batSrc (s.f F.BAT_TRIG_START_SRC i) = 0) ∧
    (∃ (a : Access) (i : Nat) (s : State), Allowed a true .BAT_CTRL i s ∧ s.b F.BAT_STATUS_RUNNING i = false ∧
    batSrc (s.f F.BAT_TRIG_START_SRC i) ≠ 0) ∧
    (∃ (a : Access) (i : Nat) (s : State), Allowed a true .BAT_CTRL i s) ∧
    (∃ (i : Nat) (p : Packet) (e : Bool) (s : State), i < 96 ∧ batFilter i p e s = true ∧ batDieOn i s = true ∧
    s.b F.BAT_STATUS_RUNNING i = true ∧ batEv i 0 s = 1 ∧ batSrc (s.f F.BAT_TRIG_STOP_SRC i) = 0 ∧
    batCnt i 0 s < 1000 ∧ (smapGet (fun _ => []) s.batStage i) = [] ∧ smapGet (fun _ => 0) s.batPost i = 0) ∧
    (∃ (i : Nat) (p : Packet) (e : Bool) (s : State), s.b F.BAT_STATUS_RUNNING i = false ∧ batFilter i p e s = false) ∧
    (∃ (i : Nat) (n : Nat) (s : State), s.out.contains (.batTrig i n) = true ∧ batDieOn i s = true ∧
    batArmed i s = true ∧ batSrc (s.f F.BAT_TRIG_START_SRC i) = 1 ∧ s.f F.BAT_TRIG_START_ENTRY i = n ∧
    batSrc (s.f F.BAT_TRIG_STOP_SRC i) ≠ 1) ∧
    (∃ (c : Nat) (s : State), c < 384 ∧ dieOn (c / 32) s = true) ∧
    (∃ (d : Nat) (x : BatRec) (y : BatRec) (s : State), batRoom d s = true ∧ s.b F.BAT_TRACE_CTRL_DEST d = true ∧
    (s.batStage.find? fun z => batDomain z.1 == d && !z.2.isEmpty) = none ∧
    smapGet (fun _ => []) s.batFifo d = [x, y] ∧
    s.f F.BAT_TRACE_BASE_VAL d + s.f F.BAT_TRACE_PTR_WRPTR d < s.f F.BAT_TRACE_LIMIT_VAL d ∧
    s.f F.BAT_TRACE_PTR_WRPTR d < 100) ∧
    (∃ (a : Access) (d : Nat) (s : State), Allowed a false .BAT_BUF_DATA d s ∧ a.world = true ∧ d ≤ 12 ∧
    s.f F.BAT_TRACE_PTR_RDPTR d / 8 % 4 = 1) :=
  ⟨⟨accS, 96, State.reset, by decide +kernel⟩,
    ⟨accS, 96, (State.reset.setF F.BAT_TRIG_START_SRC 96 1), by decide +kernel⟩,
    ⟨accS, 96, ((State.reset.setF F.BAT_CTRL_RUN 96 1).setF F.BAT_STATUS_RUNNING 96 1), by decide +kernel⟩,
    ⟨8, { op := .getS, src := 20, dst := 256, addr := 0x1000, w := true }, true,
    (((((((State.reset.setF F.BAT_CTRL_RUN 8 1).setF F.BAT_STATUS_RUNNING 8 1).setF F.BAT_CTRL_CLASS_MASK 8 15).setF
      F.BAT_CTRL_WORLDS 8 3).setR .BAT_OPC_MASK 8 0xFFFFFFFFFFFFFFFF).setF F.BAT_CNT_SEL_EV 8 1).setF F.WC_DBG_SNI 0
      1).setF F.PWR_DIE_STATE 1 2,
    by decide +kernel⟩,
    ⟨8, { op := .getS, src := 20, dst := 256, addr := 0x1000, w := true }, true, State.reset, by decide +kernel⟩,
    ⟨96, 5,
    { (((State.reset.setF F.BAT_CTRL_RUN 96 1).setF F.BAT_TRIG_START_SRC 96 1).setF F.BAT_TRIG_START_ENTRY 96 5) with out := [.batTrig 96 5] },
    by decide +kernel⟩,
    ⟨40, { (State.reset.setF F.PWR_DIE_STATE 1 2) with batLive := [(40, 9)] }, by decide +kernel⟩,
    ⟨12, { w0 := 5 }, { w1 := 6 },
    { ((State.reset.setF F.BAT_TRACE_CTRL_DEST 12 1).setF F.BAT_TRACE_LIMIT_VAL 12 50) with batFifo := [(12, [{ w0 := 5 }, { w1 := 6 }])] },
    by decide +kernel⟩,
    ⟨accS, 12, { (State.reset.setF F.BAT_TRACE_PTR_RDPTR 12 40) with batBuf := [(12*2048+1, { w1 := 6 })] },
    by decide +kernel⟩⟩

theorem test_met_BridgeLinks :
    (∃ (n : Nat) (ty : Nat) (q : Nat) (up : Bool) (s : State), s.f F.BR_STATUS_STATE n = 6 ∧ (ty = 0 ∨ ty = 2) ∧
    q = ((s.br n).link up).exp ∧ (((s.br n).link up).skip = false ∨ ty = 2)) ∧
    (∃ (n : Nat) (up : Bool) (s : State), s.f F.BR_STATUS_STATE n = 6 ∧
    ((s.br n).link up).naks + 1 < orOne (s.f F.BR_CTRL_REPLAY_MAX n)) ∧
    (∃ (n : Nat) (up : Bool) (s : State), s.f F.BR_STATUS_STATE n = 6 ∧
    ((s.br n).link up).naks + 1 = orOne (s.f F.BR_CTRL_REPLAY_MAX n) ∧ (s.br n).fallTb = none ∧ brCap n 2 s = true) ∧
    (∃ (n : Nat) (s : State), s.f F.BR_STATUS_STATE n ≠ 6) ∧
    (∃ (n : Nat) (s : State), s.f F.BR_STATUS_STATE n = 6) ∧
    (∃ (n : Nat) (s : State), s.f F.BR_STATUS_STATE n = 6 ∧ (s.br n).sbFails = []) ∧
    (∃ (n : Nat) (ty : Nat) (s : State), s.f F.BR_STATUS_STATE n = 6 ∧ sidebandType ty = true) ∧
    (∃ (n : Nat) (ty : Nat) (s : State), s.f F.BR_STATUS_STATE n = 6 ∧ sidebandType ty = false) :=
  ⟨⟨3, 0, 0, true, (State.reset.setF F.BR_STATUS_STATE 3 6), by decide +kernel⟩,
    ⟨3, true, ((State.reset.setF F.BR_STATUS_STATE 3 6).setF F.BR_CTRL_REPLAY_MAX 3 4), by decide +kernel⟩,
    ⟨3, true,
    (putR .BR_CAP 3 (fset F.BR_CAP_ENABLED 0 4) ((State.reset.setF F.BR_STATUS_STATE 3 6).setF F.BR_CTRL_REPLAY_MAX 3
      1)),
    by decide +kernel⟩,
    ⟨3, State.reset, by decide +kernel⟩,
    ⟨3, (State.reset.setF F.BR_STATUS_STATE 3 6), by decide +kernel⟩,
    ⟨3, (State.reset.setF F.BR_STATUS_STATE 3 6), by decide +kernel⟩,
    ⟨3, 1, (State.reset.setF F.BR_STATUS_STATE 3 6), by decide +kernel⟩,
    ⟨3, 4, (State.reset.setF F.BR_STATUS_STATE 3 6), by decide +kernel⟩⟩

theorem test_met_BridgeTraining :
    (∃ (n : Nat) (d : DieTrans) (s : State), s.f F.BR_STATUS_STATE n = 0 ∧
    smapGet (fun _ => none) s.dieTrans n = some d ∧ d.kind = 2) ∧
    (∃ (n : Nat) (s : State), smapGet (fun _ => none) s.dieTrans n = none) ∧
    (∃ (a : Access) (n : Nat) (s : State), Allowed a true .BR_CTRL n s ∧
    (s.f F.BR_STATUS_STATE n = 0 ∨ s.f F.BR_STATUS_STATE n = 6)) ∧
    (∃ (a : Access) (n : Nat) (s : State), Allowed a true .BR_CTRL n s ∧ s.f F.BR_STATUS_STATE n ≠ 0 ∧
    s.f F.BR_STATUS_STATE n ≠ 6) ∧
    (∃ (a : Access) (n : Nat) (s : State), Allowed a true .BR_CTRL n s ∧ s.f F.BR_STATUS_STATE n = 6 ∧
    brCap n 2 s = true) ∧
    (∃ (a : Access) (n : Nat) (s : State), Allowed a true .BR_CTRL n s ∧
    (s.f F.BR_STATUS_STATE n = 0 ∨ (s.f F.BR_STATUS_STATE n = 6 ∧ brCap n 2 s = false))) ∧
    (∃ (n : Nat) (s : State), s.f F.BR_STATUS_STATE n = 1 ∧ lanesShort (laneOr (s.br n).iod (s.br n).die) = none) ∧
    (∃ (n : Nat) (x : Bool) (y : Bool) (s : State), n < 12 ∧ s.f F.BR_STATUS_STATE n = 1 ∧ (x || y) = true ∧
    smapGet (fun _ => none) s.dieTrans n = none) ∧
    (∃ (n : Nat) (m : LaneMask) (s : State), s.f F.BR_STATUS_STATE n = 2 ∧ s.f F.BR_STATUS_ROUNDS n < 3 ∧
    lanesShort (laneOr (addErrors m (s.br n)).iod (addErrors m (s.br n)).die) = none) ∧
    (∃ (n : Nat) (s : State), s.f F.BR_STATUS_STATE n = 3 ∧ (s.br n).iod = (s.br n).die ∧
    ((s.br n).iodHalf || needsHalf (s.br n).iod || s.b F.BR_CTRL_FORCE_HALF n) = ((s.br n).dieHalf || needsHalf (s.br
      n).die)) ∧
    (∃ (n : Nat) (s : State), s.f F.BR_STATUS_STATE n = 3 ∧ ((s.br n).iod ≠ (s.br n).die) ∧
    s.f F.BR_STATUS_ROUNDS n = 3) ∧
    (∃ (n : Nat) (l : Nat) (k : Nat) (s : State), s.f F.BR_STATUS_STATE n = 4 ∧ brCap n 4 s = false ∧ l < 256 ∧
    k < 16) ∧
    (∃ (n : Nat) (s : State), s.f F.BR_STATUS_STATE n = 5) ∧
    (∃ (n : Nat) (m : LaneMask) (s : State), s.f F.BR_STATUS_STATE n = 7 ∧
    laneMinus m (laneOr (s.br n).iod (s.br n).die) = {}) ∧
    (∃ (n : Nat) (m : LaneMask) (s : State), s.f F.BR_STATUS_STATE n = 7 ∧
    laneMinus m (laneOr (s.br n).iod (s.br n).die) ≠ {} ∧
    lanesShort (laneOr (addErrors (laneMinus m (laneOr (s.br n).iod (s.br n).die)) (s.br n)).iod (addErrors (laneMinus
      m (laneOr (s.br n).iod (s.br n).die)) (s.br n)).die) = none) :=
  ⟨⟨3, { kind := 2 }, { State.reset with dieTrans := [(3, some { kind := 2 })] }, by decide +kernel⟩,
    ⟨3, State.reset, by decide +kernel⟩,
    ⟨accS, 3, State.reset, by decide +kernel⟩,
    ⟨accS, 3, (State.reset.setF F.BR_STATUS_STATE 3 2), by decide +kernel⟩,
    ⟨accS, 3, (putR .BR_CAP 3 (fset F.BR_CAP_ENABLED 0 4) (State.reset.setF F.BR_STATUS_STATE 3 6)),
    by decide +kernel⟩,
    ⟨accS, 3, State.reset, by decide +kernel⟩,
    ⟨3, (State.reset.setF F.BR_STATUS_STATE 3 1), by decide +kernel⟩,
    ⟨3, true, false, (State.reset.setF F.BR_STATUS_STATE 3 1), by decide +kernel⟩,
    ⟨3, { md := 5 }, (State.reset.setF F.BR_STATUS_STATE 3 2), by decide +kernel⟩,
    ⟨3, (State.reset.setF F.BR_STATUS_STATE 3 3), by decide +kernel⟩,
    ⟨3, ((State.reset.setF F.BR_STATUS_STATE 3 3).setF F.BR_STATUS_ROUNDS 3 3).setBr 3 { iod := { md := 1 } },
    by decide +kernel⟩,
    ⟨3, 9, 7, (putR .BR_CAP 3 0 (State.reset.setF F.BR_STATUS_STATE 3 4)), by decide +kernel⟩,
    ⟨3, (putR .BR_CAP 3 (fset F.BR_CAP_IOD_REV 0 1) (State.reset.setF F.BR_STATUS_STATE 3 5)), by decide +kernel⟩,
    ⟨3, {}, (State.reset.setF F.BR_STATUS_STATE 3 7), by decide +kernel⟩,
    ⟨3, { md := 1 }, (State.reset.setF F.BR_STATUS_STATE 3 7), by decide +kernel⟩⟩

theorem test_met_PackageResets :
    (∃ (s : State), s.aonOff = false ∧ starting s = false) ∧
    (∃ (s : State), s.pkgOff = false ∧ starting s = false ∧ s.b F.ST_STATUS_CHIMNEY 0 = false ∧
    s.f F.ST_STATUS_COUNT 0 < s.helm.startCfg.getD 3 % 8 ∧ s.b F.HELM_STATUS_PROV 0 = true) ∧
    (∃ (s : State), s.pkgOff = true) ∧
    (∃ (a : Access) (s : State), Allowed a true .ST_CTRL 0 s ∧ starting s = false ∧
    s.b F.ST_STATUS_CHIMNEY 0 = false ∧ s.f F.ST_STATUS_COUNT 0 < s.helm.startCfg.getD 3 % 8 ∧
    s.b F.HELM_STATUS_PROV 0 = true) ∧
    (∃ (fb : Bool) (s : State), s.boot.failed = true ∧ s.pkgOff = false ∧ retryDue fb s = true ∧
    s.b F.ST_STATUS_CHIMNEY 0 = false ∧ s.f F.ST_STATUS_COUNT 0 < s.helm.startCfg.getD 3 % 8 ∧
    s.b F.HELM_STATUS_PROV 0 = true) ∧
    (∃ (fb : Bool) (s : State), (!s.boot.failed || !retryDue fb s) = true) ∧
    (∃ (a : Access) (v : Word) (s : State), Allowed a true .ST_CTRL 0 s ∧ bit v 2 = false ∧ s.pkgEnd = none ∧
    s.b F.PWR_STATUS_PF_ACTIVE 0 = false ∧ pkgRuns s = true ∧ starting s = false) ∧
    (∃ (s : State), s.aonOff = false ∧ s.pkgOff = false ∧ s.flashOp = none ∧ s.pkgEnd = none ∧
    s.b F.PWR_STATUS_PF_ACTIVE 0 = false ∧ pkgRuns s = true ∧ starting s = false ∧ startPhase s ≠ 8) ∧
    (∃ (s : State), s.aonOff = false ∧ s.pkgOff = true ∧ s.flashOp = none) ∧
    (∃ (s : State), s.aonOff = false ∧ s.pkgOff = false ∧ s.flashOp = none) ∧
    (∃ (s : State), s.aonOff = true) ∧
    (∃ (s : State), s.pkgOff = false ∧ s.aonOff = false ∧ startPhase s = 0 ∧ s.boot.failed = false ∧
    s.b F.ST_STATUS_CHIMNEY 0 = false ∧ s.f F.ST_STATUS_COUNT 0 < s.helm.startCfg.getD 3 % 8 ∧
    s.b F.HELM_STATUS_PROV 0 = true) ∧
    (∃ (s : State), s.pkgOff = false ∧ s.aonOff = false ∧ startPhase s = 0 ∧ s.boot.failed = false ∧
    s.b F.ST_STATUS_CHIMNEY 0 = true) :=
  ⟨⟨State.reset, by decide +kernel⟩,
    ⟨(State.reset.setR .HELM_STATUS 0 8), by decide +kernel⟩,
    ⟨{ State.reset with pkgOff := true }, by decide +kernel⟩,
    ⟨accS, (State.reset.setR .HELM_STATUS 0 8), by decide +kernel⟩,
    ⟨true, { (State.reset.setR .HELM_STATUS 0 8) with boot := { failed := true, failAt := 1 } }, by decide +kernel⟩,
    ⟨true, State.reset, by decide +kernel⟩,
    ⟨accS, 0#64, State.reset, by decide +kernel⟩,
    ⟨State.reset, by decide +kernel⟩,
    ⟨{ State.reset with pkgOff := true }, by decide +kernel⟩,
    ⟨State.reset, by decide +kernel⟩,
    ⟨{ State.reset with aonOff := true, pkgOff := true }, by decide +kernel⟩,
    ⟨(State.reset.setR .HELM_STATUS 0 8), by decide +kernel⟩,
    ⟨(State.reset.setB F.ST_STATUS_CHIMNEY 0 true), by decide +kernel⟩⟩

theorem test_met_StartSequence :
    (∃ (k : Nat) (c : Nat) (we : Nat) (re : Nat) (s : State), startPhase s = 2 ∧
    s.f F.MC_TRAIN_STATE (4 * k + c) < 2 ∧ s.f F.MC_TRAIN_ATTEMPTS (4 * k + c) < 3 ∧ c < 4 ∧ we < 64 ∧ re < 64) ∧
    (∃ (k : Nat) (c : Nat) (e : Nat) (s : State), startPhase s = 2 ∧ s.f F.MC_TRAIN_STATE (4 * k + c) < 2 ∧
    s.f F.MC_TRAIN_ATTEMPTS (4 * k + c) < 2 ∧ 1 ≤ e ∧ e ≤ 6) ∧
    (∃ (k : Nat) (c : Nat) (e : Nat) (s : State), startPhase s = 2 ∧ s.f F.MC_TRAIN_STATE (4 * k + c) < 2 ∧
    s.f F.MC_TRAIN_ATTEMPTS (4 * k + c) = 2 ∧ 1 ≤ e ∧ c < 4 ∧ s.boot.failed = false) ∧
    (∃ (s : State), startPhase s = 2 ∧ s.boot.failed = false ∧ dramReady s = true ∧
    headerOk s.sku.dramBytes (flashBytes s (s.f F.ST_STATUS_SLOT 0 * 0x2000000) 512) = true ∧
    agentWaits (imgLoad (flashBytes s (s.f F.ST_STATUS_SLOT 0 * 0x2000000) 512)) (imgLength (flashBytes s (s.f
      F.ST_STATUS_SLOT 0 * 0x2000000) 512)) s = false) ∧
    (∃ (re : Bool) (s : State), startPhase s = 2 ∧ s.boot.failed = false ∧ dramReady s = true ∧
    (re || !headerOk s.sku.dramBytes (flashBytes s (s.f F.ST_STATUS_SLOT 0 * 0x2000000) 512)) = true) ∧
    (∃ (h : Nat) (s : State), s.boot.header = some h ∧ startPhase s = 4 ∧ s.boot.failed = false ∧
    s.b F.HELM_STATUS_ERRSTATE 0 = false ∧ s.b F.HELM_STATUS_SELFTEST 0 = true ∧
    agentWaits (imgLoad h) (imgLength h) s = false) ∧
    (∃ (h : Nat) (s : State), s.boot.header = some h ∧ startPhase s = 4 ∧ s.boot.failed = false ∧
    s.b F.HELM_STATUS_ERRSTATE 0 = true) ∧
    (∃ (h : Nat) (s : State), startPhase s = 5 ∧ s.boot.failed = false ∧ s.boot.valid = true ∧
    ((List.range 12).all fun n => !dieOn n s || replicaReady n s) = true ∧ h < 256 ∧ hartExists h s = true ∧
    hartDie h s < 12 ∧ dieOn (hartDie h s) s = true ∧ s.repairs = [] ∧ s.boot.kept = [] ∧ s.dbg.resetHalt = 0 ∧
    s.fbit F.DBG_TEST_HOLD_VAL 0 (hartDie h s) = false ∧
    ((List.range 12).all fun n => dieOn n s || s.f F.PWR_DIE_STATE n == 0) = true) ∧
    (∃ (a : Access) (v : Word) (s : State), Allowed a true .ST_CTRL 0 s ∧ startPhase s = 6 ∧ s.boot.failed = false ∧
    bit v 1 = false ∧ bit v 2 = false) ∧
    (∃ (s : State), startPhase s = 6 ∧ s.boot.failed = false ∧ s.f F.ST_CTRL_BOOT_WDT 0 ≠ 0 ∧
    msPassed (s.f F.ST_CTRL_BOOT_WDT 0) s.boot.relAt s = true) ∧
    (∃ (s : State),
    (startPhase s != 6 || s.boot.failed || s.f F.ST_CTRL_BOOT_WDT 0 == 0 || !msPassed (s.f F.ST_CTRL_BOOT_WDT 0)
      s.boot.relAt s) = true) :=
  ⟨⟨2, 1, 20, 30, (State.reset.setF F.ST_STATUS_PHASE 0 2), by decide +kernel⟩,
    ⟨2, 1, 3, (State.reset.setF F.ST_STATUS_PHASE 0 2), by decide +kernel⟩,
    ⟨2, 1, 3, ((State.reset.setF F.ST_STATUS_PHASE 0 2).setF F.MC_TRAIN_ATTEMPTS 9 2), by decide +kernel⟩,
    ⟨imgS, by decide +kernel, by decide +kernel, by decide +kernel, img_ok, img_waits⟩,
    ⟨true, (iter 16 (fun k t => t.setF F.MC_STATUS_TRAINED k 15) (State.reset.setF F.ST_STATUS_PHASE 0 2)),
    by decide +kernel⟩,
    ⟨0,
    { ((State.reset.setF F.ST_STATUS_PHASE 0 4).setR .HELM_STATUS 0 (fset F.HELM_STATUS_SELFTEST 8 1)) with boot := { header := some 0 } },
    by decide +kernel⟩,
    ⟨0,
    { ((State.reset.setF F.ST_STATUS_PHASE 0 4).setR .HELM_STATUS 0 (fset F.HELM_STATUS_ERRSTATE 8 1)) with boot := { header := some 0 } },
    by decide +kernel⟩,
    ⟨9,
    { ((((((State.reset.setF F.ST_STATUS_PHASE 0 5).setF F.PWR_DIE_STATE 2 2).setR .PHE_REF_CTRL 0 0).setR .FAB_HART_POS 9 (fset F.FAB_HART_POS_VALID (fset F.FAB_HART_POS_DIE (fset F.FAB_HART_POS_POS 0 5) 2) 1)).setR .FAB_POS_MAP 45 (fset F.FAB_POS_MAP_STATE (fset F.FAB_POS_MAP_HART_ID 0 9) 0)).setR .DBG_TEST_HOLD 0 0) with boot := { valid := true, header := some (0x8000 * 256 ^ 24) } },
    by decide +kernel⟩,
    ⟨accS, 0#64, ((State.reset.setF F.ST_STATUS_PHASE 0 6).setF F.ST_STATUS_COUNT 0 2), by decide +kernel⟩,
    ⟨{ ((State.reset.setF F.ST_STATUS_PHASE 0 6).setF F.ST_CTRL_BOOT_WDT 0 2) with boot := { relAt := 1 } },
    by decide +kernel⟩,
    ⟨State.reset, by decide +kernel⟩⟩

theorem test_met_LanternsAndRack :
    (∃ (s : State), s.pkgOff = false ∧ s.f F.LAN_STATUS_A_STATE 0 = 0 ∧ s.f F.LAN_STATUS_B_STATE 0 = 0 ∧
    s.f F.LAN_STATUS_A_RESTARTS 0 = 0 ∧ s.f F.LAN_STATUS_B_RESTARTS 0 = 0 ∧ s.f F.LAN_STATUS_ACTIVE 0 = 0) ∧
    (∃ (s : State), s.pkgOff = false ∧ (s.f F.LAN_STATUS_B_STATE 0 = 1 ∨ s.f F.LAN_STATUS_B_STATE 0 = 2)) ∧
    (∃ (s : State), s.pkgOff = false ∧ s.f F.LAN_STATUS_A_STATE 0 = 0 ∧ s.f F.LAN_STATUS_A_RESTARTS 0 ≠ 0 ∧
    10000 ≤ (s.rack.beatsA + 1) * max 1 (s.f F.LAN_CFG_HB_PERIOD 0)) ∧
    (∃ (s : State), s.pkgOff = false ∧ s.f F.LAN_STATUS_A_STATE 0 = 2 ∧ s.f F.LAN_STATUS_B_STATE 0 = 1) ∧
    (∃ (s : State), s.pkgOff = false ∧ s.f F.LAN_STATUS_B_STATE 0 = 2 ∧ s.f F.LAN_STATUS_A_STATE 0 ≠ 1) ∧
    (∃ (s : State), s.pkgOff = false ∧ s.f F.LAN_STATUS_B_STATE 0 = 3 ∧ s.f F.LAN_STATUS_B_RESTARTS 0 < 3) ∧
    (∃ (s : State), s.f F.LAN_STATUS_A_RESTARTS 0 = 3) ∧
    (∃ (s : State), s.aonOff = false ∧ s.pkgOff = false ∧ s.flashOp = none) ∧
    (∃ (s : State), s.aonOff = false ∧ s.pkgOff = false ∧ s.flashOp = none) ∧
    (∃ (i : Nat) (s : State), s.aonOff = false ∧ s.pkgOff = false ∧ s.flashOp = none ∧ i < 64) ∧
    (∃ (i : Nat) (s : State), s.aonOff = false ∧ s.pkgOff = false ∧ s.flashOp = none ∧ 64 ≤ i ∧ i < 256) ∧
    (∃ (s : State), s.aonOff = false ∧ s.pkgOff = false ∧ s.flashOp = none) ∧
    (∃ (off : Nat) (s : State), s.aonOff = false ∧ s.pkgOff = false ∧ s.flashOp = none ∧ off % 8 = 0 ∧
    off + 8 ≤ 1072 ∧ s.b F.HELM_MB_STATUS_BUSY 2 = false) ∧
    (∃ (off : Nat) (n : Nat) (s : State), s.aonOff = false ∧ s.pkgOff = false ∧ s.flashOp = none ∧
    s.b F.HELM_MB_STATUS_BUSY 2 = true ∧ n ≤ 253 ∧ off + n ≤ 1072) ∧
    (∃ (l : Nat) (s : State), s.aonOff = false ∧ s.pkgOff = false ∧ s.flashOp = none ∧
    s.b F.HELM_MB_STATUS_BUSY 2 = false ∧ s.b F.HELM_MB_STATUS_DONE 2 = false ∧ s.helm.cur ≠ none ∧ l < 65536) ∧
    (∃ (s : State), s.aonOff = false ∧ s.pkgOff = false ∧ s.flashOp = none ∧
    (s.b F.HELM_MB_STATUS_BUSY 2 || s.b F.HELM_MB_STATUS_DONE 2) = true) ∧
    (∃ (s : State), s.aonOff = false ∧ s.pkgOff = false ∧ s.flashOp = none) ∧
    (∃ (off : Nat) (s : State), s.aonOff = false ∧ s.pkgOff = false ∧ s.flashOp = none ∧ off < 65536 ∧
    off ≤ (s.f F.HELM_MB_STATUS_RSP_LEN 2) ∧ (s.f F.HELM_MB_STATUS_RSP_LEN 2) ≤ off + 253) ∧
    (∃ (x : Nat) (n : Nat) (s : State), s.aonOff = false ∧ s.pkgOff = false ∧ s.flashOp = none ∧ n ≤ 253 ∧
    x + n ≤ flashSize) ∧
    (∃ (x : Nat) (s : State), s.aonOff = false ∧ s.pkgOff = false ∧ s.flashOp = none ∧ inChimney s = true ∧
    x % 65536 = 0 ∧ x < flashSize) ∧
    (∃ (s : State), s.aonOff = false ∧ s.pkgOff = false ∧ s.flashOp = none ∧ inChimney s = false) ∧
    (∃ (x : Nat) (n : Nat) (d : Nat) (s : State), s.aonOff = false ∧ s.pkgOff = false ∧ s.flashOp = none ∧
    inChimney s = true ∧ n ≤ 249 ∧ x % 256 + n ≤ 256 ∧ x + n ≤ flashSize ∧ d < 256 ^ n) ∧
    (∃ (o : FlashOp) (s : State), s.flashOp = some o ∧ o.lmb = false ∧ o.erase = true) ∧
    (∃ (o : FlashOp) (s : State), s.flashOp = some o ∧ o.lmb = false ∧ o.erase = false ∧ o.data < 256 ^ o.n) ∧
    (∃ (s : State), s.pkgOff = false) :=
  ⟨⟨State.reset, by decide +kernel⟩,
    ⟨(State.reset.setF F.LAN_STATUS_B_STATE 0 1), by decide +kernel⟩,
    ⟨{ (State.reset.setF F.LAN_STATUS_A_RESTARTS 0 1) with rack := { beatsA := 20000 } }, by decide +kernel⟩,
    ⟨((State.reset.setF F.LAN_STATUS_A_STATE 0 2).setF F.LAN_STATUS_B_STATE 0 1), by decide +kernel⟩,
    ⟨(State.reset.setF F.LAN_STATUS_B_STATE 0 2), by decide +kernel⟩,
    ⟨(State.reset.setF F.LAN_STATUS_B_STATE 0 3), by decide +kernel⟩,
    ⟨((State.reset.setF F.LAN_STATUS_A_STATE 0 3).setF F.LAN_STATUS_A_RESTARTS 0 3), by decide +kernel⟩,
    ⟨State.reset, by decide +kernel⟩,
    ⟨State.reset, by decide +kernel⟩,
    ⟨3, State.reset, by decide +kernel⟩,
    ⟨64, State.reset, by decide +kernel⟩,
    ⟨{ State.reset with rack := { result := 4 } }, by decide +kernel⟩,
    ⟨16, State.reset, by decide +kernel⟩,
    ⟨16, 8, (State.reset.setB F.HELM_MB_STATUS_BUSY 2 true), by decide +kernel⟩,
    ⟨40, { State.reset with helm := { cur := some 0 } }, by decide +kernel⟩,
    ⟨(State.reset.setB F.HELM_MB_STATUS_DONE 2 true), by decide +kernel⟩,
    ⟨State.reset, by decide +kernel⟩,
    ⟨8, ((State.reset.setF F.HELM_MB_STATUS_RSP_LEN 2 20).setR .HELM_MB_RSP 270 0x77), by decide +kernel⟩,
    ⟨5, 3, { State.reset with flash := [(6, 0x12)] }, by decide +kernel⟩,
    ⟨0x10000, (State.reset.setF F.ST_STATUS_PHASE 0 8), by decide +kernel⟩,
    ⟨State.reset, by decide +kernel⟩,
    ⟨0x10005, 3, 0x123456, (State.reset.setF F.ST_STATUS_PHASE 0 8), by decide +kernel⟩,
    ⟨⟨true, 0x10000, 65536, 0, false⟩,
    { State.reset with flash := [(5, 1), (0x10000, 0x12)], flashOp := some ⟨true, 0x10000, 65536, 0, false⟩ },
    by decide +kernel⟩,
    ⟨⟨false, 0x10003, 3, 0x123456, false⟩,
    { State.reset with flash := [(5, 1), (0x10000, 0x12)], flashOp := some ⟨false, 0x10003, 3, 0x123456, false⟩ },
    by decide +kernel⟩,
    ⟨State.reset, by decide +kernel⟩⟩

theorem test_met_DmaControl :
    (∃ (c : Nat) (ecc : Nat) (s : State), DmaAt c 0 s ∧ (ecc = 0 ∨ ecc = 1) ∧ zeroBits (waitWord c s) 59 16 = true ∧
    zeroBits (waitWord c s) 14 8 = true ∧ bit (waitWord c s) 15 = true) ∧
    (∃ (c : Nat) (ecc : Nat) (s : State), DmaAt c 0 s ∧ (ecc = 0 ∨ ecc = 1) ∧ zeroBits (waitWord c s) 59 16 = true ∧
    zeroBits (waitWord c s) 15 8 = true) ∧
    (∃ (c : Nat) (ecc : Nat) (s : State), DmaAt c 0 s ∧ (ecc = 0 ∨ ecc = 1) ∧ zeroBits (waitWord c s) 59 16 = false) ∧
    (∃ (c : Nat) (s : State), s.b F.DE_CH_CFG_MODE c = false ∧ chWinner (c / 64) 0 chReadyI s = some c ∧
    chInWin c (chPc c s) s = false) ∧
    (∃ (c : Nat) (s : State), chWinner (c / 64) 0 chReadyI s ≠ some c) ∧
    (∃ (c : Nat) (ecc : Nat) (ecc2 : Nat) (s : State), DmaAt c 3 s ∧ (ecc = 0 ∨ ecc = 1) ∧
    zeroBits (waitWord c s) 54 48 = true ∧ 1 ≤ wb (waitWord c s) 47 32 ∧
    chInWin c (chPc c s + wb (waitWord c s) 47 32) s = true ∧ ecc2 = 0 ∧
    opOf (s.r .DE_PROG (c / 64 * 8192 + (chPc c s + wb (waitWord c s) 47 32))) = 4 ∧ bit (waitWord c s) 59 = false ∧
    bit (waitWord c s) 58 = false ∧ chPc c s + wb (waitWord c s) 47 32 < 8191 ∧ wb (waitWord c s) 31 0 ≠ 0 ∧
    chDepth c s < 4) ∧
    (∃ (c : Nat) (ecc : Nat) (ecc2 : Nat) (s : State), DmaAt c 3 s ∧ (ecc = 0 ∨ ecc = 1) ∧
    zeroBits (waitWord c s) 54 48 = true ∧ 1 ≤ wb (waitWord c s) 47 32 ∧
    chInWin c (chPc c s + wb (waitWord c s) 47 32) s = true ∧ ecc2 = 0 ∧
    opOf (s.r .DE_PROG (c / 64 * 8192 + (chPc c s + wb (waitWord c s) 47 32))) = 4 ∧ bit (waitWord c s) 59 = false ∧
    bit (waitWord c s) 58 = false ∧ chPc c s + wb (waitWord c s) 47 32 < 8191 ∧ wb (waitWord c s) 31 0 = 0) ∧
    (∃ (c : Nat) (ecc : Nat) (s : State), DmaAt c 4 s ∧ (ecc = 0 ∨ ecc = 1) ∧ zeroBits (waitWord c s) 59 0 = true ∧
    1 ≤ chDepth c s ∧ s.b F.DE_CH_LOOP_INF (4 * c + (chDepth c s - 1)) = false ∧
    2 ≤ s.f F.DE_CH_LOOP_COUNT (4 * c + (chDepth c s - 1))) ∧
    (∃ (c : Nat) (ecc : Nat) (s : State), DmaAt c 4 s ∧ (ecc = 0 ∨ ecc = 1) ∧ zeroBits (waitWord c s) 59 0 = true ∧
    1 ≤ chDepth c s ∧ s.b F.DE_CH_LOOP_INF (4 * c + (chDepth c s - 1)) = false ∧
    s.f F.DE_CH_LOOP_COUNT (4 * c + (chDepth c s - 1)) = 1) ∧
    (∃ (c : Nat) (ecc : Nat) (s : State), DmaAt c 4 s ∧ (ecc = 0 ∨ ecc = 1) ∧ zeroBits (waitWord c s) 59 0 = true ∧
    chDepth c s = 0) ∧
    (∃ (c : Nat) (ecc : Nat) (s : State), DmaAt c 10 s ∧ (ecc = 0 ∨ ecc = 1) ∧ zeroBits (waitWord c s) 56 16 = true ∧
    wb (waitWord c s) 59 57 ≤ 4 ∧ wb (waitWord c s) 59 57 ≤ chDepth c s ∧
    0 ≤ ((chPc c s : Int) + signedOf 2 (wb (waitWord c s) 15 0)) ∧
    chInWin c ((chPc c s : Int) + signedOf 2 (wb (waitWord c s) 15 0)).toNat s = true) ∧
    (∃ (c : Nat) (ecc : Nat) (s : State), DmaAt c 11 s ∧ (ecc = 0 ∨ ecc = 1) ∧ zeroBits (waitWord c s) 53 16 = true ∧
    wb (waitWord c s) 59 57 ≤ 4 ∧ chG c (wb (waitWord c s) 56 54) s = 0 ∧ wb (waitWord c s) 59 57 ≤ chDepth c s ∧
    0 ≤ ((chPc c s : Int) + signedOf 2 (wb (waitWord c s) 15 0)) ∧
    chInWin c ((chPc c s : Int) + signedOf 2 (wb (waitWord c s) 15 0)).toNat s = true) ∧
    (∃ (c : Nat) (ecc : Nat) (s : State), DmaAt c 11 s ∧ (ecc = 0 ∨ ecc = 1) ∧ zeroBits (waitWord c s) 53 16 = true ∧
    wb (waitWord c s) 59 57 ≤ 4 ∧ chG c (wb (waitWord c s) 56 54) s ≠ 0) ∧
    (∃ (c : Nat) (ecc : Nat) (s : State), DmaAt c 8 s ∧ (ecc = 0 ∨ ecc = 1) ∧ zeroBits (waitWord c s) 56 48 = true) ∧
    (∃ (c : Nat) (ecc : Nat) (s : State), DmaAt c 8 s ∧ (ecc = 0 ∨ ecc = 1) ∧ zeroBits (waitWord c s) 55 48 = true ∧
    bit (waitWord c s) 56 = true) ∧
    (∃ (c : Nat) (ecc : Nat) (s : State), DmaAt c 9 s ∧ (ecc = 0 ∨ ecc = 1) ∧ zeroBits (waitWord c s) 50 32 = true) :=
  ⟨⟨70, 0, (dmaWith 70 1 0x8042#64 State.reset), by decide +kernel⟩,
    ⟨70, 0, (dmaWith 70 1 0x0#64 State.reset), by decide +kernel⟩,
    ⟨70, 0, (dmaWith 70 1 0x100000#64 State.reset), by decide +kernel⟩,
    ⟨70, ((dmaWith 70 1 0 State.reset).setR .DE_CH_WIN 70 0), by decide +kernel⟩,
    ⟨70, State.reset, by decide +kernel⟩,
    ⟨70, 0, 0, (dmaWith 70 1 0x3000000300000009#64 (State.reset.setR .DE_PROG (8192 + 19) 0x4000000000000000#64)),
    by decide +kernel⟩,
    ⟨70, 0, 0, (dmaWith 70 1 0x3000000300000000#64 (State.reset.setR .DE_PROG (8192 + 19) 0x4000000000000000#64)),
    by decide +kernel⟩,
    ⟨70, 0,
    (dmaWith 70 1 0x4000000000000000#64 (((State.reset.setF F.DE_CH_LOOP_VALID 280 1).setF F.DE_CH_LOOP_START 280
      9).setF F.DE_CH_LOOP_COUNT 280 5)),
    by decide +kernel⟩,
    ⟨70, 0,
    (dmaWith 70 1 0x4000000000000000#64 (((State.reset.setF F.DE_CH_LOOP_VALID 280 1).setF F.DE_CH_LOOP_START 280
      9).setF F.DE_CH_LOOP_COUNT 280 1)),
    by decide +kernel⟩,
    ⟨70, 0, (dmaWith 70 1 0x4000000000000000#64 State.reset), by decide +kernel⟩,
    ⟨70, 0,
    (dmaWith 70 1 0xa20000000000fffc#64 ((State.reset.setF F.DE_CH_LOOP_VALID 280 1).setF F.DE_CH_LOOP_START 280 9)),
    by decide +kernel⟩,
    ⟨70, 0, (dmaWith 70 1 0xb08000000000fffc#64 State.reset), by decide +kernel⟩,
    ⟨70, 0, (dmaWith 70 1 0xb08000000000fffc#64 (State.reset.setR .DE_CH_G 562 5)), by decide +kernel⟩,
    ⟨70, 0, (dmaWith 70 1 0x8600fffffffffff0#64 State.reset), by decide +kernel⟩,
    ⟨70, 0, (dmaWith 70 1 0x870000000000fff0#64 (State.reset.setR .DE_CH_G 563 0x1234567812345678)),
    by decide +kernel⟩,
    ⟨70, 0, (dmaWith 70 1 0x96800000fffffff0#64 (State.reset.setR .DE_CH_G 562 0x1234567812345678)),
    by decide +kernel⟩⟩

theorem test_met_DmaSync :
    (∃ (c : Nat) (ecc : Nat) (s : State), DmaAt c 5 s ∧ (ecc = 0 ∨ ecc = 1) ∧ waitIll (waitWord c s) = false ∧
    wb (waitWord c s) 59 58 = 0 ∧ (s.f F.DE_CH_EVT_PEND c &&& wb (waitWord c s) 7 0) ≠ 0) ∧
    (∃ (c : Nat) (ecc : Nat) (s : State), DmaAt c 5 s ∧ (ecc = 0 ∨ ecc = 1) ∧ waitIll (waitWord c s) = false ∧
    wb (waitWord c s) 59 58 = 0 ∧ (s.f F.DE_CH_EVT_PEND c &&& wb (waitWord c s) 7 0) = 0) ∧
    (∃ (c : Nat) (ecc : Nat) (s : State), DmaAt c 5 s ∧ (ecc = 0 ∨ ecc = 1) ∧ waitIll (waitWord c s) = false ∧
    wb (waitWord c s) 59 58 = 2 ∧ semOk c (semIx (c / 64) (wb (waitWord c s) 13 8)) s = true ∧
    wb (waitWord c s) 23 16 ≤ s.f F.DE_SEM_COUNT (semIx (c / 64) (wb (waitWord c s) 13 8))) ∧
    (∃ (c : Nat) (ecc : Nat) (s : State), DmaAt c 5 s ∧ (ecc = 0 ∨ ecc = 1) ∧ waitIll (waitWord c s) = false ∧
    wb (waitWord c s) 59 58 = 2 ∧ semOk c (semIx (c / 64) (wb (waitWord c s) 13 8)) s = false) ∧
    (∃ (c : Nat) (s : State), chState c s = 2 ∧ wb (waitWord c s) 39 24 ≠ 0 ∧
    wb (waitWord c s) 39 24 * tbMicro ≤ (s.tb - (s.ch c).waitTb).toNat) ∧
    (∃ (c : Nat) (s : State),
    (chState c s != 2 || wb (waitWord c s) 39 24 == 0 || decide ((s.tb - (s.ch c).waitTb).toNat < wb (waitWord c s) 39
      24 * tbMicro)) = true) ∧
    (∃ (c : Nat) (ecc : Nat) (s : State), DmaAt c 6 s ∧ (ecc = 0 ∨ ecc = 1) ∧ wb (waitWord c s) 59 57 = 0 ∧
    wb (waitWord c s) 23 16 ≠ 0 ∧ zeroBits (waitWord c s) 53 48 = true ∧ zeroBits (waitWord c s) 39 24 = true ∧
    zeroBits (waitWord c s) 15 14 = true ∧ zeroBits (waitWord c s) 7 0 = true ∧
    semOk c (semIx (c / 64) (wb (waitWord c s) 13 8)) s = true ∧
    ((List.range 64).all fun k => chState (64 * (c / 64) + k) s != 2) = true) ∧
    (∃ (c : Nat) (ecc : Nat) (s : State), DmaAt c 6 s ∧ (ecc = 0 ∨ ecc = 1) ∧ wb (waitWord c s) 59 57 = 1 ∧
    zeroBits (waitWord c s) 31 3 = true ∧ zeroBits (waitWord c s) 53 48 = true ∧
    zeroBits (waitWord c s) 39 32 = true ∧ chPart (wb (waitWord c s) 47 40) s = chPart c s ∧
    chWorld (wb (waitWord c s) 47 40) s = chWorld c s ∧ chState (wb (waitWord c s) 47 40) s ≠ 2 ∧
    s.fbit F.DE_CH_EVT_PEND (wb (waitWord c s) 47 40) (wb (waitWord c s) 2 0) = false) ∧
    (∃ (c : Nat) (ecc : Nat) (s : State), DmaAt c 6 s ∧ (ecc = 0 ∨ ecc = 1) ∧ wb (waitWord c s) 59 57 = 1 ∧
    zeroBits (waitWord c s) 31 3 = true ∧ zeroBits (waitWord c s) 53 48 = true ∧
    zeroBits (waitWord c s) 39 32 = true ∧ chPart (wb (waitWord c s) 47 40) s ≠ chPart c s) ∧
    (∃ (c : Nat) (ecc : Nat) (s : State), DmaAt c 6 s ∧ (ecc = 0 ∨ ecc = 1) ∧ wb (waitWord c s) 59 57 = 2 ∧
    zeroBits (waitWord c s) 31 8 = true ∧ zeroBits (waitWord c s) 53 48 = true ∧ zeroBits (waitWord c s) 39 32 = true) ∧
    (∃ (c : Nat) (ecc : Nat) (pa : Nat) (s : State), DmaAt c 6 s ∧ (ecc = 0 ∨ ecc = 1) ∧ wb (waitWord c s) 59 57 = 3 ∧
    zeroBits (waitWord c s) 53 48 = true ∧ zeroBits (waitWord c s) 39 32 = true ∧
    (chG c (wb (waitWord c s) 56 54) s).toNat % 8 = 0 ∧ inDram pa s = true) ∧
    (∃ (c : Nat) (ecc : Nat) (s : State), DmaAt c 7 s ∧ (ecc = 0 ∨ ecc = 1) ∧ zeroBits (waitWord c s) 59 0 = true ∧
    chUnacked c s = false ∧ (s.ch c).fence = false) ∧
    (∃ (c : Nat) (ecc : Nat) (s : State), DmaAt c 7 s ∧ (ecc = 0 ∨ ecc = 1) ∧ zeroBits (waitWord c s) 59 0 = true ∧
    chUnacked c s = true) ∧
    (∃ (c : Nat) (ecc : Nat) (d : Nat) (a : Nat) (v : Nat) (s : State), DmaAt c 7 s ∧ (ecc = 0 ∨ ecc = 1) ∧
    zeroBits (waitWord c s) 58 0 = true ∧ bit (waitWord c s) 59 = true ∧ (s.ch c).ports = [(d, a, v)]) ∧
    (∃ (c : Nat) (ecc : Nat) (d : Nat) (a : Nat) (v : Nat) (s : State), DmaAt c 7 s ∧ (ecc = 0 ∨ ecc = 1) ∧
    zeroBits (waitWord c s) 58 0 = true ∧ bit (waitWord c s) 59 = true ∧ (s.ch c).ports = [(d, a, v)]) ∧
    (∃ (c : Nat) (e : Nat) (w : Bool) (p : Nat) (s : State), s.out = [.dmaUnblock c e w p] ∧ chState c s ≠ 2 ∧
    s.fbit F.DE_CH_EVT_PEND c (e % 8) = false) ∧
    (∃ (c : Nat) (e : Nat) (w : Bool) (p : Nat) (s : State), s.out = [.dmaUnblock c e w p] ∧ chState c s ≠ 2 ∧
    s.fbit F.DE_CH_EVT_PEND c (e % 8) = true) ∧
    (∃ (c : Nat) (e : Nat) (w : Bool) (p : Nat) (s : State), s.out = [.dmaUnblock c e w p] ∧ e < 8 ∧ chState c s = 2 ∧
    chPc c s < 8191 ∧ waitIll (waitWord c s) = false ∧ wb (waitWord c s) 59 58 = 0 ∧
    (wb (waitWord c s) 7 0).testBit e = true ∧ s.f F.DE_CH_EVT_PEND c = 0) ∧
    (∃ (a : Access) (c : Nat) (s : State), Allowed a true .DE_CH_EVT c s ∧ chState c s ≠ 2) ∧
    (∃ (a : Access) (i : Nat) (v : Word) (s : State), Allowed a true .DE_SEM i s ∧ a.part = 0 ∧ a.world = true ∧
    assigns F.DE_SEM_PART i v s = false ∧ ((List.range 64).all fun k => chState (64 * (i / 64) + k) s != 2) = true) :=
  ⟨⟨70, 0, (dmaWith 70 1 0x5000000000000006#64 (State.reset.setF F.DE_CH_EVT_PEND 70 5)), by decide +kernel⟩,
    ⟨70, 0, (dmaWith 70 1 0x5000000000000006#64 (State.reset.setF F.DE_CH_EVT_PEND 70 1)), by decide +kernel⟩,
    ⟨70, 0, (dmaWith 70 1 0x5800000000020300#64 (State.reset.setF F.DE_SEM_COUNT 67 7)), by decide +kernel⟩,
    ⟨70, 0, (dmaWith 70 1 0x5800000000020300#64 (State.reset.setF F.DE_SEM_PART 67 7)), by decide +kernel⟩,
    ⟨70, ((dmaWith 70 2 0x5000000009000006#64 State.reset).onCh 70 fun h => { h with waitTb := 1 }),
    by decide +kernel⟩,
    ⟨70, State.reset, by decide +kernel⟩,
    ⟨70, 0, (dmaWith 70 1 0x6000000000020300#64 (State.reset.setF F.DE_SEM_COUNT 67 7)), by decide +kernel⟩,
    ⟨70, 0, (dmaWith 70 1 0x6200210000000005#64 State.reset), by decide +kernel⟩,
    ⟨70, 0, (dmaWith 70 1 0x6200210000000005#64 (State.reset.setF F.DE_CH_CFG_PART 33 5)), by decide +kernel⟩,
    ⟨70, 0, (dmaWith 70 1 0x6400000000000042#64 State.reset), by decide +kernel⟩,
    ⟨70, 0, 0x2008, (dmaWith 70 1 0x6640000000004242#64 (State.reset.setR .DE_CH_G 561 0x2008)), by decide +kernel⟩,
    ⟨70, 0, (dmaWith 70 1 0x7000000000000000#64 State.reset), by decide +kernel⟩,
    ⟨70, 0,
    (dmaWith 70 1 0x7000000000000000#64
      { State.reset with txs := [{ src := 0x111, tag := 1, tgt := 0x100, addr := 0x1000, op := .wrNC, own := .dmaWrite 70 0 0, w := true, part := 0 }] }),
    by decide +kernel⟩,
    ⟨70, 0, 0x120, 0x8000001000, 0x8000001000,
    (dmaWith 70 1 0x7800000000000000#64 (State.reset.onCh 70 fun h =>
      { h with ports := [(0x120, 0x8000001000, 0x8000001000)] })),
    by decide +kernel⟩,
    ⟨70, 0, 0x120, 0x8000001000, 0x8000001000,
    (dmaWith 70 1 0x7800000000000000#64 (State.reset.onCh 70 fun h =>
      { h with ports := [(0x120, 0x8000001000, 0x8000001000)] })),
    by decide +kernel⟩,
    ⟨70, 5, true, 0, { State.reset with out := [.dmaUnblock 70 5 true 0] }, by decide +kernel⟩,
    ⟨70, 5, true, 0, { (State.reset.setF F.DE_CH_EVT_PEND 70 32) with out := [.dmaUnblock 70 5 true 0] },
    by decide +kernel⟩,
    ⟨70, 1, true, 0, { (dmaWith 70 2 0x5000000000000006#64 State.reset) with out := [.dmaUnblock 70 1 true 0] },
    by decide +kernel⟩,
    ⟨accO, 70, State.reset, by decide +kernel⟩,
    ⟨accS, 70, 0x5#64, State.reset, by decide +kernel⟩⟩

theorem test_met_DmaTransfers :
    (∃ (c : Nat) (ecc : Nat) (k : TClass) (s : State), DmaAt c 1 s ∧ (ecc = 0 ∨ ecc = 1) ∧
    moveClass (wb (waitWord c s) 47 46) = some k ∧ zeroBits (waitWord c s) 45 24 = true ∧
    zeroBits (waitWord c s) 50 48 = true ∧ wb (waitWord c s) 23 0 ≠ 0 ∧
    (chG c (wb (waitWord c s) 59 57) s).toNat + wb (waitWord c s) 23 0 ≤ (chG c (wb (waitWord c s) 56 54) s).toNat ∧
    (chG c (wb (waitWord c s) 56 54) s).toNat + wb (waitWord c s) 23 0 ≤ 2 ^ 38) ∧
    (∃ (c : Nat) (ecc : Nat) (k : TClass) (s : State), DmaAt c 1 s ∧ (ecc = 0 ∨ ecc = 1) ∧
    moveClass (wb (waitWord c s) 47 46) = some k ∧ zeroBits (waitWord c s) 41 24 = true ∧
    bit (waitWord c s) 50 = false ∧ wb (waitWord c s) 23 0 = 0) ∧
    (∃ (c : Nat) (ecc : Nat) (k : TClass) (s : State), DmaAt c 1 s ∧ (ecc = 0 ∨ ecc = 1) ∧
    moveClass (wb (waitWord c s) 47 46) = some k ∧ zeroBits (waitWord c s) 45 24 = true ∧
    bit (waitWord c s) 50 = false ∧ wb (waitWord c s) 23 0 ≠ 0 ∧
    (chG c (wb (waitWord c s) 59 57) s).toNat = (chG c (wb (waitWord c s) 56 54) s).toNat ∧
    (chG c (wb (waitWord c s) 56 54) s).toNat < 2 ^ 38) ∧
    (∃ (c : Nat) (ecc : Nat) (k : TClass) (m : DmaMove) (s : State), DmaAt c 2 s ∧ (ecc = 0 ∨ ecc = 1) ∧
    moveClass (wb (waitWord c s) 47 46) = some k ∧ zeroBits (waitWord c s) 50 48 = true ∧
    zeroBits (waitWord c s) 45 40 = true ∧
    m =
      { src := (chG c (wb (waitWord c s) 59 57) s).toNat, dst := (chG c (wb (waitWord c s) 56 54) s).toNat, ss := stride32 (chG c (wb (waitWord c s) 53 51) s).toNat, ds := stride32 ((chG c (wb (waitWord c s) 53 51) s).toNat / 2 ^ 32), rows := wb (waitWord c s) 39 24, rowLen := wb (waitWord c s) 23 0, cls := k }
      ∧
    moveTotal m ≠ 0 ∧ moveFault m = none) ∧
    (∃ (c : Nat) (s : State), s.b F.DE_CH_CFG_MODE c = false ∧ chState c s = 1 ∧ moveEnded c s = true ∧
    chPc c s < 8191) ∧
    (∃ (c : Nat) (s : State), moveEnded c s = false) ∧
    (∃ (j : Nat) (c : Nat) (pa : Nat) (m : DmaMove) (s : State), chWinner j 1 chReadyA s = some c ∧
    (s.ch c).move = some m ∧ writeReady c m s = false ∧ accFault pa (readLen m m.next pa) m.sfix s = none ∧
    inDram pa s = true) ∧
    (∃ (j : Nat) (c : Nat) (pa : Nat) (m : DmaMove) (s : State), chWinner j 1 chReadyA s = some c ∧
    (s.ch c).move = some m ∧ writeReady c m s = true ∧ chState c s = 1 ∧
    accFault pa (min (writeLen m m.done pa) (rdAvail m.rds)) m.dfix s = none ∧ inDram pa s = true) ∧
    (∃ (j : Nat) (s : State), chWinner j 1 chReadyA s = none) ∧
    (∃ (c : Nat) (pa : Nat) (s : State), s.b F.DE_CH_CFG_MODE c = true ∧ chWinner (c / 64) 0 chReadyI s = some c ∧
    inDram pa s = true) ∧
    (∃ (c : Nat) (d : DmaDesc) (s : State), s.b F.DE_CH_CFG_MODE c = true ∧ moveEnded c s = true ∧ chState c s = 1 ∧
    (s.ch c).desc = some d ∧ d.next = 0 ∧ inDram (d.pa + 23) s = true) ∧
    (∃ (a : Access) (j : Nat) (w : Nat) (s : State), Allowed a true .DE_PROG (j * 8192 + w) s) ∧
    (∃ (c : Nat) (a : Access) (s : State), Allowed a true .DE_CH_CMD c s ∧ chState c s = 0 ∧
    s.b F.DE_CH_CFG_EN c = true ∧ s.b F.DE_CH_CFG_MODE c = false ∧ chInWin c (s.f F.DE_CH_ENTRY_VAL c) s = true) ∧
    (∃ (c : Nat) (a : Access) (s : State), Allowed a true .DE_CH_CMD c s ∧ chState c s = 0 ∧
    s.b F.DE_CH_CFG_EN c = true ∧ s.b F.DE_CH_CFG_MODE c = false ∧ chInWin c (s.f F.DE_CH_ENTRY_VAL c) s = false) ∧
    (∃ (c : Nat) (a : Access) (s : State), Allowed a true .DE_CH_CMD c s ∧ chState c s ≠ 0) ∧
    (∃ (c : Nat) (a : Access) (s : State), Allowed a true .DE_CH_CMD c s ∧ chState c s = 0 ∧
    s.b F.DE_CH_CFG_EN c = false) ∧
    (∃ (c : Nat) (w : Bool) (p : Nat) (s : State), s.out = [.dmaStart c w p] ∧ chState c s = 0 ∧
    s.b F.DE_CH_CFG_EN c = true ∧ s.b F.DE_CH_CFG_MODE c = true) ∧
    (∃ (a : Access) (c : Nat) (s : State), Allowed a true .DE_CH_CMD c s ∧ chState c s = 1 ∧ chReads c s = 0 ∧
    (s.ch c).move = none) ∧
    (∃ (a : Access) (c : Nat) (s : State), Allowed a true .DE_CH_CMD c s ∧ chState c s = 2) ∧
    (∃ (a : Access) (c : Nat) (s : State), Allowed a true .DE_CH_CMD c s ∧ chState c s = 1 ∧ chReads c s ≠ 0) ∧
    (∃ (a : Access) (c : Nat) (s : State), Allowed a true .DE_CH_CMD c s ∧ chState c s = 4) ∧
    (∃ (a : Access) (c : Nat) (s : State), Allowed a true .DE_CH_CMD c s ∧ chState c s = 7 ∧
    s.b F.DE_CH_CFG_MODE c = false ∧ chInWin c (chPc c s) s = true) ∧
    (∃ (a : Access) (c : Nat) (s : State), Allowed a true .DE_CH_CMD c s ∧ chState c s ≠ 0 ∧ chState c s ≠ 6 ∧
    chReads c s = 0) ∧
    (∃ (a : Access) (c : Nat) (s : State), Allowed a true .DE_CH_CMD c s ∧ s.b F.DE_CH_CFG_MODE c = true ∧
    chState c s = 1) :=
  ⟨⟨70, 0, .be,
    (dmaWith 70 1 0x1280800000000200#64 ((State.reset.setR .DE_CH_G 561 0x2008).setR .DE_CH_G 562 0x8000)),
    by decide +kernel⟩,
    ⟨70, 0, .be, (dmaWith 70 1 0x1280800000000000#64 State.reset), by decide +kernel⟩,
    ⟨70, 0, .be, (dmaWith 70 1 0x1240800000000200#64 State.reset), by decide +kernel⟩,
    ⟨70, 0, .be, { src := 0x2000, dst := 0x8000, ss := 0x80, ds := 0x100, rows := 4, rowLen := 0x40, cls := .be },
    (dmaWith 70 1 0x2298800004000040#64 (((State.reset.setR .DE_CH_G 561 0x2000).setR .DE_CH_G 562 0x8000).setR
      .DE_CH_G 563 0x0000010000000080)),
    by decide +kernel⟩,
    ⟨70,
    ((dmaWith 70 1 0 State.reset).onCh 70 fun h =>
      { h with move := some { src := 0x2000, dst := 0x8000, rowLen := 64, cls := .be, next := 64, done := 64 } }),
    by decide +kernel⟩,
    ⟨70, State.reset, by decide +kernel⟩,
    ⟨1, 70, 0x2000, { src := 0x2000, dst := 0x8000, rowLen := 64, cls := .be },
    ((dmaWith 70 1 0 State.reset).onCh 70 fun h =>
      { h with move := some { src := 0x2000, dst := 0x8000, rowLen := 64, cls := .be } }),
    by decide +kernel⟩,
    ⟨1, 70, 0x8000,
    { src := 0x2000, dst := 0x8000, rowLen := 64, cls := .be, next := 64, rds := [⟨0, 64, some 0x1234⟩] },
    ((dmaWith 70 1 0 State.reset).onCh 70 fun h =>
      { h with move := some { src := 0x2000, dst := 0x8000, rowLen := 64, cls := .be, next := 64, rds := [⟨0, 64, some 0x1234⟩] } }),
    by decide +kernel⟩,
    ⟨1, State.reset, by decide +kernel⟩,
    ⟨70, 0x2000, ((dmaWith 70 1 0 State.reset).setF F.DE_CH_CFG_MODE 70 1), by decide +kernel⟩,
    ⟨70, { pa := 0x4000, fetched := true },
    (((dmaWith 70 1 0 State.reset).setF F.DE_CH_CFG_MODE 70 1).onCh 70 fun h =>
      { h with desc := some { pa := 0x4000, fetched := true }, move := some { src := 0x2000, dst := 0x8000, rowLen := 64, cls := .be, next := 64, done := 64 } }),
    by decide +kernel⟩,
    ⟨accS, 1, 16, State.reset, by decide +kernel⟩,
    ⟨70, accO, (((dmaWith 70 0 0 State.reset).setF F.DE_CH_CFG_EN 70 1).setF F.DE_CH_ENTRY_VAL 70 33),
    by decide +kernel⟩,
    ⟨70, accO,
    ((((dmaWith 70 0 0 State.reset).setF F.DE_CH_CFG_EN 70 1).setF F.DE_CH_ENTRY_VAL 70 33).setF F.DE_CH_WIN_LIMIT 70
      20),
    by decide +kernel⟩,
    ⟨70, accO, (dmaWith 70 1 0 State.reset), by decide +kernel⟩,
    ⟨70, accO, State.reset, by decide +kernel⟩,
    ⟨70, true, 0,
    { (((dmaWith 70 0 0 State.reset).setF F.DE_CH_CFG_EN 70 1).setF F.DE_CH_CFG_MODE 70 1) with out := [.dmaStart 70 true 0] },
    by decide +kernel⟩,
    ⟨accO, 70, (dmaWith 70 1 0 State.reset), by decide +kernel⟩,
    ⟨accO, 70, (dmaWith 70 2 0 State.reset), by decide +kernel⟩,
    ⟨accO, 70,
    { (dmaWith 70 1 0 State.reset) with txs := [{ src := 0x111, tag := 1, tgt := 0x100, addr := 0x1000, op := .rdNC, own := .dma 70 0 0, w := true, part := 0 }] },
    by decide +kernel⟩,
    ⟨accO, 70, (dmaWith 70 4 0 State.reset), by decide +kernel⟩,
    ⟨accO, 70, (dmaWith 70 7 0 State.reset), by decide +kernel⟩,
    ⟨accO, 70, (dmaWith 70 1 0 State.reset), by decide +kernel⟩,
    ⟨accO, 70, ((dmaWith 70 1 0 State.reset).setF F.DE_CH_CFG_MODE 70 1), by decide +kernel⟩⟩

theorem test_met_WorldsAndCalls :
    (∃ (h : Nat) (s : State), canTrap h s = true ∧ (s.hart h).trap = none ∧ secureIrq h s = true ∧
    s.b F.WC_SENTRY_VALID h = true ∧ (s.hart h).haltReq = false ∧ (s.hart h).step = none ∧
    ((List.range 8).all fun k => (s.hart h).c (0x1000 + k) == 0xF000000000000000) = true) ∧
    (∃ (h : Nat) (s : State), secureIrq h s = false) ∧
    (∃ (a : Access) (h : Nat) (v : Word) (s : State), Allowed a true .WC_CALL h s ∧ hartExists h s = true ∧
    (a.world || bit v 0) = true) ∧
    (∃ (a : Access) (h : Nat) (v : Word) (s : State), Allowed a true .WC_CALL h s ∧ a.world = false ∧ bit v 0 = false) ∧
    (∃ (a : Access) (s : State), Allowed a true .WC_DBG 0 s ∧ a.world = true ∧ s.b F.WC_CTRL_LOCK 0 = false) ∧
    (∃ (a : Access) (s : State), Allowed a true .WC_DBG 0 s ∧ a.world = false ∧ s.b F.WC_CTRL_OPEN_DBG 0 = true) :=
  ⟨⟨0,
    (((runS.setR .WC_SENTRY 0 (fset F.WC_SENTRY_VALID 0x4001 1)).setB F.WC_CALL_REQ 0 true).onHart 0 fun t =>
      { t with w := false, nextW := false, pc := 0x1234, imsic := [(9, { deliv := 1, eip := 4, eie := 4 })] }),
    by decide +kernel⟩,
    ⟨0, State.reset, by decide +kernel⟩,
    ⟨accS, 0, 1#64, (State.reset.setR .FAB_HART_POS 0 (fset F.FAB_HART_POS_VALID 0 1)), by decide +kernel⟩,
    ⟨accO, 0, 0#64, State.reset, by decide +kernel⟩,
    ⟨accS, State.reset, by decide +kernel⟩,
    ⟨accO, (State.reset.setB F.WC_CTRL_OPEN_DBG 0 true), by decide +kernel⟩⟩

theorem test_met_HelmMailboxes :
    (∃ (a : Access) (m : Nat) (s : State), m < 5 ∧ Allowed a true .HELM_MB_CTRL m s ∧
    s.b F.HELM_MB_STATUS_BUSY m = false ∧ s.b F.HELM_MB_STATUS_DONE m = false ∧ s.helm.cur ≠ none) ∧
    (∃ (a : Access) (m : Nat) (s : State), m < 5 ∧ Allowed a true .HELM_MB_CTRL m s ∧
    s.b F.HELM_MB_STATUS_BUSY m = false ∧ s.b F.HELM_MB_STATUS_DONE m = false ∧ s.helm.cur = none ∧
    s.helm.holding = false ∧ helmReady s = true ∧ nextMb s = none ∧ (helmCmd m s).isLocal s = true ∧
    opKnown (helmCmd m s).opcode = true) ∧
    (∃ (a : Access) (m : Nat) (s : State), m < 5 ∧ Allowed a true .HELM_MB_CTRL m s ∧
    (s.b F.HELM_MB_STATUS_BUSY m || s.b F.HELM_MB_STATUS_DONE m) = true) ∧
    (∃ (m : Nat) (s : State), HelmAt m 1 s) ∧
    (∃ (m : Nat) (s : State), s.helm.cur = some m ∧ (helmCmd m s).opcode = 1 ∧ s.helm.holding = false ∧
    formatOk m (helmCmd m s) s = false ∧ nextMb s = none ∧ m < 3) ∧
    (∃ (s : State), s.helm.cur = none) ∧
    (∃ (m : Nat) (s : State), HelmAt m 2 s) ∧
    (∃ (m : Nat) (s : State), HelmAt m 3 s) ∧
    (∃ (m : Nat) (s : State), HelmAt m 4 s) ∧
    (∃ (m : Nat) (s : State), HelmAt m 0x301 s ∧ s.b F.HELM_STATUS_PROV 0 = false ∧
    s.b F.HELM_STATUS_APPROVED 0 = false) ∧
    (∃ (m : Nat) (s : State), HelmAt m 0x301 s ∧ s.b F.HELM_STATUS_PROV 0 = true) ∧
    (∃ (s : State), s.helm.up = true ∧ helmReady s = false ∧ nextMb s = none) ∧
    (∃ (s : State), s.helm.up = true ∧ helmReady s = false ∧ nextMb s = none ∧ starting s = false) ∧
    (∃ (s : State), helmReady s = true ∧ s.b F.HELM_STATUS_ERRSTATE 0 = false ∧ nextMb s = none) ∧
    (∃ (n : Nat) (c : PlCell) (s : State), smapGet (fun _ => []) s.plIn n = [c] ∧ c.ty = 5 ∧
    s.b F.HELM_MB_STATUS_BUSY 3 = false ∧ s.b F.HELM_MB_STATUS_DONE 3 = false ∧ c.addr % 256 = 0 ∧ c.addr < 4096 ∧
    s.helm.rx = [] ∧ cellsDone [(0, c.len, c.data)] false false = false) ∧
    (∃ (n : Nat) (c : PlCell) (s : State), smapGet (fun _ => []) s.plIn n = [c] ∧ c.ty = 5 ∧
    s.b F.HELM_MB_STATUS_BUSY 3 = false ∧ s.b F.HELM_MB_STATUS_DONE 3 = false ∧ c.addr % 256 = 0 ∧ c.len = 64 ∧
    s.helm.rx = [] ∧ cellsDone [(0, c.len, c.data)] false false = true ∧ s.helm.cur ≠ none) ∧
    (∃ (n : Nat) (c : PlCell) (f : HelmFwd) (s : State), smapGet (fun _ => []) s.plIn n = [c] ∧ c.ty = 6 ∧
    c.addr = f.mb * 256 ∧ f.mb < 3 ∧ c.len = 64 ∧ s.helm.fwd = [f] ∧ f.node = c.src ∧ f.got = [] ∧
    (helmCmd f.mb s).keyslot = 0 ∧ cellsDone [(0, c.len, c.data)] true false = true) ∧
    (∃ (m : Nat) (f : HelmFwd) (s : State), m < 3 ∧ s.helm.fwd = [f] ∧ f.mb = m ∧ tbSecond ≤ (s.tb - f.t0).toNat) ∧
    (∃ (m : Nat) (f : HelmFwd) (s : State), s.helm.fwd.find? (fun y => y.mb == m) = some f ∧
    (s.tb - f.t0).toNat < tbSecond) :=
  ⟨⟨accS, 1, { State.reset with helm := { cur := some 0 } }, by decide +kernel⟩,
    ⟨accS, 1, (let t := (helmReq 1 1 0 0 0 0); { t with helm := { t.helm with cur := none } }), by decide +kernel⟩,
    ⟨accS, 1, (State.reset.setB F.HELM_MB_STATUS_DONE 1 true), by decide +kernel⟩,
    ⟨1, (helmReq 1 1 0 0 0 0), by decide +kernel⟩,
    ⟨1, (let t := (helmReq 1 1 0 0 0 0); { t with helm := { t.helm with lens := [] } }), by decide +kernel⟩,
    ⟨State.reset, by decide +kernel⟩,
    ⟨1, (helmReq 1 2 0 0 0 0), by decide +kernel⟩,
    ⟨1, (helmReq 1 3 48 0 0 0x1234), by decide +kernel⟩,
    ⟨1, { (helmReq 1 4 0 0 0 0) with repairs := [⟨1, 2, 3⟩, ⟨4, 5, 6⟩] }, by decide +kernel⟩,
    ⟨2, (helmReq 2 0x301 96 0 0 0x1234), by decide +kernel⟩,
    ⟨2, ((helmReq 2 0x301 96 0 0 0x1234).setR .HELM_STATUS 0 10), by decide +kernel⟩,
    ⟨{ (State.reset.setR .HELM_STATUS 0 8) with helm := { up := true } }, by decide +kernel⟩,
    ⟨{ (State.reset.setR .HELM_STATUS 0 8) with helm := { up := true } }, by decide +kernel⟩,
    ⟨(helmReq 1 1 0 0 0 0), by decide +kernel⟩,
    ⟨2,
    { ty := 5, w := true, src := 9, dest := 0, tag := 1, addr := 0x100, len := 64, data := 0x0000000000800001#512 },
    { State.reset with plIn := [(2, [{ ty := 5, w := true, src := 9, dest := 0, tag := 1, addr := 0x100, len := 64, data := 0x0000000000800001#512 }])] },
    by decide +kernel⟩,
    ⟨2,
    { ty := 5, w := true, src := 9, dest := 0, tag := 1, addr := 0x100, len := 64, data := 0x0000000000100001#512 },
    { State.reset with plIn := [(2, [{ ty := 5, w := true, src := 9, dest := 0, tag := 1, addr := 0x100, len := 64, data := 0x0000000000100001#512 }])], helm := { cur := some 0 } },
    by decide +kernel⟩,
    ⟨2,
    { ty := 6, w := true, src := 9, dest := 0, tag := 1, addr := 0x100, len := 64, data := 0x0000000000100001#512 },
    { mb := 1, node := 9, got := [], t0 := 1 },
    { State.reset with plIn := [(2, [{ ty := 6, w := true, src := 9, dest := 0, tag := 1, addr := 0x100, len := 64, data := 0x0000000000100001#512 }])], helm := { fwd := [{ mb := 1, node := 9, got := [], t0 := 1 }] } },
    by decide +kernel⟩,
    ⟨1, { mb := 1, node := 9, got := [], t0 := 1 },
    { State.reset with helm := { fwd := [{ mb := 1, node := 9, got := [], t0 := 1 }] } }, by decide +kernel⟩,
    ⟨1, { mb := 1, node := 9, got := [] },
    { State.reset with helm := { fwd := [{ mb := 1, node := 9, got := [] }] } }, by decide +kernel⟩⟩

theorem test_met_HelmServices :
    (∃ (m : Nat) (n : Nat) (s : State), HelmAt m 0x101 s ∧ 1 ≤ n ∧ n ≤ 1024) ∧
    (∃ (m : Nat) (n : Nat) (s : State), HelmAt m 0x101 s ∧ 1024 < n) ∧
    (∃ (src : Nat) (len : Nat) (s : State), agentWaits src len s = true) ∧
    (∃ (m : Nat) (src : Nat) (len : Nat) (v : Nat) (s : State), HelmAt m 0x102 s ∧ agentWaits src len s = false ∧
    len ≤ 2 ^ 24 ∧ (helmRead src len s).1 = some v) ∧
    (∃ (m : Nat) (k : Nat) (src : Nat) (len : Nat) (v : Nat) (key : Nat) (p : Bool) (s : State), HelmAt m 0x103 s ∧
    agentWaits src len s = false ∧ workKey k s = some ⟨true, p, key⟩ ∧ (helmRead src len s).1 = some v) ∧
    (∃ (m : Nat) (k : Nat) (src : Nat) (len : Nat) (s : State), HelmAt m 0x103 s ∧ agentWaits src len s = false ∧
    workKey k s = none) ∧
    (∃ (m : Nat) (k : Nat) (src : Nat) (dst : Nat) (len : Nat) (iv : Nat) (v : Nat) (key : Nat) (p : Bool) (s :
      State),
    HelmAt m 0x104 s ∧ agentWaits src len s = false ∧ agentWaits dst (len + 16) s = false ∧
    workKey k s = some ⟨false, p, key⟩ ∧ iv ≠ 0 ∧ (helmRead src len s.bump).1 = some v ∧
    (agentWrite (agentFuel (len + 16)) dst (len + 16) (catBytes [(len, (Config.gcmEnc key iv 0 0 len v % 256 ^ len)),
      (16, Config.gcmTag key iv 0 0 len (Config.gcmEnc key iv 0 0 len v % 256 ^ len))]) (helmRead src len s.bump).2).1
      = true ∧
    dst % 64 + (len + 16) ≤ 64 ∧ codeOf dst s = 0) ∧
    (∃ (m : Nat) (k : Nat) (src : Nat) (dst : Nat) (len : Nat) (v : Nat) (key : Nat) (p : Bool) (s : State),
    HelmAt m 0x105 s ∧ agentWaits src (len + 16) s = false ∧ agentWaits dst len s = false ∧
    workKey k s = some ⟨false, p, key⟩ ∧ len < 2 ^ 24 ∧ (helmRead src (len + 16) s).1 = some v ∧ dst % 64 + len ≤ 64 ∧
    1 ≤ len ∧ inDram dst s = true ∧ isRetired dst (helmRead src (len + 16) s).2 = false ∧ codeOf dst s = 0) ∧
    (∃ (m : Nat) (s : State), HelmAt m 0x106 s) ∧
    (∃ (m : Nat) (k : Nat) (s : State), HelmAt m 0x107 s ∧ 4 ≤ k ∧ k < 32) ∧
    (∃ (m : Nat) (k : Nat) (s : State), HelmAt m 0x107 s ∧ k < 4) ∧
    (∃ (m : Nat) (k : Nat) (dst : Nat) (s : State), HelmAt m 0x108 s ∧ agentWaits dst 76 s = false ∧
    workKey k s = none) ∧
    (∃ (m : Nat) (k : Nat) (dst : Nat) (x : HelmKey) (s : State), HelmAt m 0x108 s ∧ agentWaits dst 76 s = false ∧
    workKey k s = some x ∧ dst % 64 = 0 ∧ inDram (dst + 76) s = true ∧ codeOf dst s = 0 ∧ codeOf (dst + 64) s = 0 ∧
    isRetired dst s = false ∧ isRetired (dst + 64) s = false) ∧
    (∃ (m : Nat) (k : Nat) (s : State), HelmAt m 0x109 s ∧ 4 ≤ k ∧ k < 32) ∧
    (∃ (m : Nat) (k : Nat) (s : State), HelmAt m 0x10A s ∧ 4 ≤ k ∧ k < 32) ∧
    (∃ (m : Nat) (k : Nat) (x : HelmKey) (s : State), HelmAt m 0x10B s ∧ workKey k s = some x) :=
  ⟨⟨0, 12, (let t := (helmReq 0 0x101 0 0 0 0); { t with pending := [] }), by decide +kernel⟩,
    ⟨0, 2000, (let t := (helmReq 0 0x101 0 0 0 0); { t with pending := [] }), by decide +kernel⟩,
    ⟨0x1000, 5, { State.reset with vb := [⟨1, 64, true, true, 0, 5⟩] }, by decide +kernel⟩,
    ⟨0, 0x1000, 5, 0x123456789,
    (let t := (helmReq 0 0x102 0 0 0 0); { t with pending := [], wrq := [⟨0x1000, 0x123456789, 0, 3⟩] }),
    by decide +kernel⟩,
    ⟨0, 5, 0x1000, 5, 0x123456789, 77, false,
    (let t := (helmReq 0 0x103 0 0 0 0);
      { t with helm := { t.helm with slots := [(5, some { hmac := true, plain := false, key := 77 })] }, wrq := [⟨0x1000, 0x123456789, 0, 3⟩] }),
    by decide +kernel⟩,
    ⟨0, 3, 0x1000, 5, (let t := (helmReq 0 0x103 0 0 0 0); { t with pending := [] }), by decide +kernel⟩,
    ⟨0, 5, 0x1000, 0x2000, 5, 9, 0x123456789, 77, false,
    (let t := (helmReq 0 0x104 0 0 0 0);
      { t with helm := { t.helm with slots := [(5, some { hmac := false, plain := false, key := 77 })] }, wrq := [⟨0x1000, 0x123456789, 0, 3⟩] }),
    by decide +kernel⟩,
    ⟨0, 5, 0x1000, 0x2000, 5, 0x123456789, 77, false,
    (let t := (helmReq 0 0x105 0 0 0 0);
      { t with helm := { t.helm with slots := [(5, some { hmac := false, plain := false, key := 77 })] }, wrq := [⟨0x1000, 0x123456789, 0, 3⟩] }),
    by decide +kernel⟩,
    ⟨0, (let t := (helmReq 0 0x106 0 0 0 0); { t with pending := [] }), by decide +kernel⟩,
    ⟨0, 5, (let t := (helmReq 0 0x107 0 0 0 0); { t with pending := [] }), by decide +kernel⟩,
    ⟨0, 3, (let t := (helmReq 0 0x107 0 0 0 0); { t with pending := [] }), by decide +kernel⟩,
    ⟨0, 5, 0x2000, (let t := (helmReq 0 0x108 0 0 0 0); { t with pending := [] }), by decide +kernel⟩,
    ⟨0, 5, 0x2000, { hmac := false, plain := false, key := 77 },
    (let t := (helmReq 0 0x108 0 0 0 0);
      { t with helm := { t.helm with slots := [(5, some { hmac := false, plain := false, key := 77 })] } }),
    by decide +kernel⟩,
    ⟨0, 5, (let t := (helmReq 0 0x109 0 0 0 0); { t with pending := [] }), by decide +kernel⟩,
    ⟨0, 5, (let t := (helmReq 0 0x10A 0 0 0 0); { t with pending := [] }), by decide +kernel⟩,
    ⟨0, 5, { hmac := false, plain := false, key := 77 },
    (let t := (helmReq 0 0x10B 0 0 0 0);
      { t with helm := { t.helm with slots := [(5, some { hmac := false, plain := false, key := 77 })] } }),
    by decide +kernel⟩⟩

theorem test_met_HelmCriticalCommands :
    (∃ (m : Nat) (s : State), CritAt m 0x201 s ∧ critOk (helmCmd m s) s = true ∧ (helmCmd m s).pay 0 < 16 ∧
    (helmCmd m s).pay 1 < 16) ∧
    (∃ (m : Nat) (s : State), CritAt m 0x202 s ∧ critOk (helmCmd m s) s = true) ∧
    (∃ (m : Nat) (s : State), CritAt m 0x203 s ∧ critOk (helmCmd m s) s = true) ∧
    (∃ (m : Nat) (s : State), CritAt m 0x204 s) ∧
    (∃ (m : Nat) (s : State), CritAt m 0x205 s ∧ critOk (helmCmd m s) s = true) ∧
    (∃ (m : Nat) (s : State), CritAt m 0x206 s ∧ critOk (helmCmd m s) s = true ∧ starting s = false) ∧
    (∃ (m : Nat) (s : State), CritAt m 0x207 s ∧ starting s = false) ∧
    (∃ (m : Nat) (s : State), CritAt m 0x208 s) ∧
    (∃ (m : Nat) (s : State), CritAt m 0x209 s) ∧
    (∃ (m : Nat) (s : State), CritAt m 0x20A s ∧ critOk (helmCmd m s) s = true ∧ (helmCmd m s).pay 0 = 1) ∧
    (∃ (m : Nat) (s : State), CritAt m 0x20A s ∧ (helmCmd m s).pay 0 = 0) ∧
    (∃ (m : Nat) (s : State), CritAt m 0x20A s ∧ critOk (helmCmd m s) s = false) ∧
    (∃ (m : Nat) (s : State), CritAt m 0x20B s) ∧
    (∃ (m : Nat) (s : State), CritAt m 0x205 s) ∧
    (∃ (m : Nat) (s : State), HelmAt m 0x205 s ∧ s.b F.HELM_STATUS_PROV 0 = true ∧ s.helm.locked.contains m = false ∧
    s.f F.HELM_STATUS_AUTH_FAIL 0 < 16 ∧ (helmCmd m s).counter ≤ (s.r .HELM_COUNTER 0).toNat) ∧
    (∃ (m : Nat) (s : State), s.helm.cur = some m ∧ 100000 * tbMicro ≤ (s.tb - s.helm.holdAt).toNat ∧ m < 3 ∧
    s.helm.holding = true ∧ nextMb s = none ∧ (helmCmd m s).counter ≤ (s.r .HELM_COUNTER 0).toNat) ∧
    (∃ (m : Nat) (s : State), HelmAt m 0x205 s ∧ s.b F.HELM_STATUS_PROV 0 = true ∧ s.helm.locked.contains m = false ∧
    16 ≤ s.f F.HELM_STATUS_AUTH_FAIL 0 ∧ s.helm.held = false) :=
  ⟨⟨1, ((helmReq 1 0x201 2 1 9 0x0402)), by decide +kernel⟩,
    ⟨1,
    (((helmReq 1 0x202 3 1 9 0x050403).setR .FAB_POS_MAP 64 0).setR .FAB_POS_MAP 65 (fset F.FAB_POS_MAP_STATE 0 1)),
    by decide +kernel⟩,
    ⟨1, ((((helmReq 1 0x203 32 1 9 0x010203).setR .BR_LFUSE 42 0).setR .BR_LFUSE 43 0).setR .BR_LFUSE 44 0),
    by decide +kernel⟩,
    ⟨1, (helmReq 1 0x204 8 1 9 0x0203), by decide +kernel⟩,
    ⟨1, (helmReq 1 0x205 1 1 9 5), by decide +kernel⟩,
    ⟨1, ((helmReq 1 0x206 0 1 9 0).setF F.ST_STATUS_PHASE 0 8), by decide +kernel⟩,
    ⟨1, (helmReq 1 0x207 0 1 9 0), by decide +kernel⟩,
    ⟨1, (helmReq 1 0x208 48 1 9 0x1234), by decide +kernel⟩,
    ⟨1, (helmReq 1 0x209 76 1 9 0x0203), by decide +kernel⟩,
    ⟨1, (helmReq 1 0x20A 1 1 9 1), by decide +kernel⟩,
    ⟨1, (helmReq 1 0x20A 1 1 9 0), by decide +kernel⟩,
    ⟨1, (helmReq 1 0x20A 1 1 9 2), by decide +kernel⟩,
    ⟨1, (helmReq 1 0x20B 0 1 9 0), by decide +kernel⟩,
    ⟨1, (helmReq 1 0x205 1 1 9 5), by decide +kernel⟩,
    ⟨1, (helmReq 1 0x205 1 1 5 5), by decide +kernel⟩,
    ⟨1, (let t := (helmReq 1 0x205 1 1 5 5); { t with helm := { t.helm with holding := true, holdAt := 1 } }),
    by decide +kernel⟩,
    ⟨1, ((helmReq 1 0x205 1 1 9 5).setF F.HELM_STATUS_AUTH_FAIL 0 20), by decide +kernel⟩⟩

theorem test_met_PartitionsAndInterrupts :
    (∃ (a : Access) (h : Nat) (v : Word) (s : State), h < 256 ∧ Allowed a true .PQ_HART h s ∧ a.part = 0 ∧
    a.world = true ∧ hartExists h s = true ∧ partBusy (fget F.PQ_HART_PART v) s = false ∧
    s.b F.PQ_HART_RESTARTING h = false ∧ hartDrained h s = true ∧ s.f F.PWR_DIE_STATE (hartDie h s) = 0) ∧
    (∃ (a : Access) (h : Nat) (v : Word) (s : State), h < 256 ∧ Allowed a true .PQ_HART h s ∧ a.part = 0 ∧
    a.world = true ∧ hartExists h s = true ∧ partBusy (fget F.PQ_HART_PART v) s = false ∧
    s.b F.PQ_HART_RESTARTING h = false ∧ hartDrained h s = false) ∧
    (∃ (a : Access) (h : Nat) (v : Word) (s : State), h < 256 ∧ Allowed a true .PQ_HART h s ∧ a.part = 0 ∧
    a.world = true ∧ hartExists h s = true ∧ partBusy (fget F.PQ_HART_PART v) s = false ∧
    s.b F.PQ_HART_RESTARTING h = false ∧ hartDrained h s = true ∧ s.f F.PWR_DIE_STATE (hartDie h s) ≠ 0 ∧
    s.boot.kept.contains (coreOf h s) = false ∧ s.dbg.resetHalt = 0) ∧
    (∃ (a : Access) (h : Nat) (s : State), h < 256 ∧ Allowed a true .PQ_HART h s ∧ hartExists h s = false) ∧
    (∃ (a : Access) (p : Nat) (s : State), p < 64 ∧ Allowed a true .PQ_RESET p s ∧ partRefusal a p s = 0) ∧
    (∃ (a : Access) (p : Nat) (s : State), p < 64 ∧ Allowed a true .PQ_RESET p s ∧ partRefusal a p s ≠ 0) ∧
    (∃ (p : Nat) (x : PartRun) (s : State), smapGet (fun _ => none) s.partRun p = some x ∧ partEnded p s = true) ∧
    (∃ (p : Nat) (s : State), smapGet (fun _ => none) s.partRun p = none) ∧
    (∃ (a : Access) (p : Nat) (v : Word) (s : State), p < 64 ∧ Allowed a true .PQ_VF p s ∧ a.world = true ∧
    vset F.PQ_VF_EN v = true ∧ peMode (fget F.PQ_VF_PORT v) s = true ∧ 1 ≤ fget F.PQ_VF_VF v ∧
    fget F.PQ_VF_VF v ≤ 32 ∧
    ((List.range 64).any fun q => s.b F.PQ_VF_EN q && s.f F.PQ_VF_PORT q == fget F.PQ_VF_PORT v && s.f F.PQ_VF_VF q ==
      fget F.PQ_VF_VF v) = false ∧
    s.b F.PQ_VF_EN p = false ∧ (s.peC (fnIx (fget F.PQ_VF_PORT v) 0)).vfEn = false ∧
    peBme (fget F.PQ_VF_PORT v) (fget F.PQ_VF_VF v) s = false ∧ partBusy p s = false) ∧
    (∃ (a : Access) (p : Nat) (v : Word) (s : State), p < 64 ∧ Allowed a true .PQ_VF p s ∧ vset F.PQ_VF_EN v = true ∧
    peMode (fget F.PQ_VF_PORT v) s = false) ∧
    (∃ (v : Nat) (s : State), s.iommuFlt = [] ∧ agentWaits (queueBase 0x18 s + iommuGet 0x20 s * 16) 16 s = false ∧
    (iommuGet 0x48 s).testBit 16 = true ∧ (iommuGet 0x48 s).testBit 8 = false ∧ (iommuGet 0x48 s).testBit 9 = false ∧
    (iommuGet 0x48 s).testBit 10 = false ∧ iommuGet 0x20 s ≠ iommuGet 0x24 s ∧
    (agentRead 3 (queueBase 0x18 s + iommuGet 0x20 s * 16) 16 s).1 = some v ∧ v % 128 = 1 ∧ v / 128 % 8 = 0) ∧
    (∃ (v : Nat) (s : State), s.iommuFlt = [] ∧ agentWaits (queueBase 0x18 s + iommuGet 0x20 s * 16) 16 s = false ∧
    (iommuGet 0x48 s).testBit 16 = true ∧ (iommuGet 0x48 s).testBit 8 = false ∧ (iommuGet 0x48 s).testBit 9 = false ∧
    (iommuGet 0x48 s).testBit 10 = false ∧ iommuGet 0x20 s ≠ iommuGet 0x24 s ∧
    (agentRead 3 (queueBase 0x18 s + iommuGet 0x20 s * 16) 16 s).1 = some v ∧ 5 ≤ v % 128 ∧
    (iommuGet 0x48 s).testBit 1 = false ∧ iommuGet 0x48 s < 2 ^ 32) ∧
    (∃ (s : State), s.iommuFlt = [] ∧ (iommuGet 0x48 s).testBit 16 = false) ∧
    (∃ (h : Nat) (f : Nat) (e : Nat) (p : Nat) (a : Nat) (w : Bool) (s : State),
    s.out.contains (.imsic h f e w p a) = true ∧ hartExists h s = true ∧ dieOn (hartDie h s) s = true ∧
    fileDeny ⟨w, p, a⟩ h f s = none ∧ 1 ≤ e ∧ e ≤ 2047) ∧
    (∃ (h : Nat) (f : Nat) (e : Nat) (p : Nat) (a : Nat) (w : Bool) (s : State),
    s.out.contains (.imsic h f e w p a) = true ∧ hartExists h s = true ∧ dieOn (hartDie h s) s = true ∧
    fileDeny ⟨w, p, a⟩ h f s = some true) ∧
    (∃ (h : Nat) (f : Nat) (e : Nat) (p : Nat) (a : Nat) (w : Bool) (s : State),
    s.out.contains (.imsic h f e w p a) = true ∧ hartExists h s = true ∧ dieOn (hartDie h s) s = false ∧ a < 1024 ∧
    h < 256 ∧ f < 16) ∧
    (∃ (h : Nat) (f : Nat) (e : Nat) (p : Nat) (a : Nat) (w : Bool) (s : State),
    s.out.contains (.imsic h f e w p a) = true ∧ hartExists h s = true ∧ dieOn (hartDie h s) s = false ∧ 1024 ≤ a) ∧
    (∃ (h : Nat) (f : Nat) (e : Nat) (p : Nat) (a : Nat) (w : Bool) (s : State),
    s.out.contains (.imsic h f e w p a) = false) ∧
    (∃ (n : Nat) (s : State), n ≠ 0 ∧ srcUsed n = true ∧ srcMode n s = 4 ∧ s.pulses.contains n = true ∧
    (aplicGet (srcDomain n s) 0 s).testBit 8 = false) ∧
    (∃ (n : Nat) (s : State), n ≠ 0 ∧ srcUsed n = true ∧ srcMode n s = 4 ∧ s.pulses.contains n = true ∧
    (aplicGet (srcDomain n s) 0 s).testBit 8 = true ∧ aplicBit (srcDomain n s) 0x1E00 n s = true ∧
    (srcDomain n s) ≤ 1) ∧
    (∃ (n : Nat) (s : State), srcUsed n = false) ∧
    (∃ (d : Nat) (n : Nat) (s : State), dieOn d s = true ∧ n < 993 ∧ srcMode n s ≠ 0 ∧
    (aplicGet (srcDomain n s) 0 s).testBit 8 = true ∧ aplicBit (srcDomain n s) 0x1C00 n s = true ∧
    aplicBit (srcDomain n s) 0x1E00 n s = true ∧ (srcDomain n s) ≤ 1) ∧
    (∃ (d : Nat) (s : State), dieOn d s = false) :=
  ⟨⟨accS, 9, (fset F.PQ_HART_PART 0 5),
    ((State.reset.setR .FAB_HART_POS 9 (fset F.FAB_HART_POS_VALID (fset F.FAB_HART_POS_DIE (fset F.FAB_HART_POS_POS 0
      5) 2) 1)).onHart 9 fun t => { t with imsic := [(8, { }), (3, { })] }),
    by decide +kernel⟩,
    ⟨accS, 9, (fset F.PQ_HART_PART 0 5),
    (((State.reset.setR .FAB_HART_POS 9 (fset F.FAB_HART_POS_VALID (fset F.FAB_HART_POS_DIE (fset F.FAB_HART_POS_POS 0
      5) 2) 1)).setF F.PWR_DIE_STATE 2 2).onHart 9 fun t =>
      { t with sb := [{ kind := .store, pa := 64, w := true, pbmt := 0, part := 0, cls := .be }] }),
    by decide +kernel⟩,
    ⟨accS, 9, (fset F.PQ_HART_PART 0 5),
    ((State.reset.setR .FAB_HART_POS 9 (fset F.FAB_HART_POS_VALID (fset F.FAB_HART_POS_DIE (fset F.FAB_HART_POS_POS 0
      5) 2) 1)).setF F.PWR_DIE_STATE 2 2),
    by decide +kernel⟩,
    ⟨accS, 9, (State.reset.setR .FAB_HART_POS 9 0), by decide +kernel⟩,
    ⟨accS, 5, (State.reset.setF F.PQ_DEVPART_PART 7 5), by decide +kernel⟩,
    ⟨accS, 0, State.reset, by decide +kernel⟩,
    ⟨5, ⟨0, 3, 2, 1⟩,
    (State.reset.setR .PQ_L3MASK 60 7 |> fun t => { t with partRun := [(5, some ⟨0, 3, 2, 1⟩)], harts := [] }),
    by decide +kernel⟩,
    ⟨5, State.reset, by decide +kernel⟩,
    ⟨accS, 5, (fset F.PQ_VF_EN (fset F.PQ_VF_VF 0 3) 1), epS, by decide +kernel⟩,
    ⟨accS, 5, (fset F.PQ_VF_EN (fset F.PQ_VF_VF 0 3) 1), State.reset, by decide +kernel⟩,
    ⟨1,
    { State.reset with iommu := [(0x18, 0x404), (0x20, 1), (0x24, 3), (0x48, 0x10001)], wrq := [⟨0x1000, 0x1 <<< 128, 0, 3⟩] },
    by decide +kernel⟩,
    ⟨7,
    { State.reset with iommu := [(0x18, 0x404), (0x20, 1), (0x24, 3), (0x48, 0x10001)], wrq := [⟨0x1000, 0x7 <<< 128, 0, 3⟩] },
    by decide +kernel⟩,
    ⟨State.reset, by decide +kernel⟩,
    ⟨9, 8, 33, 0, 5, true,
    { ((State.reset.setR .FAB_HART_POS 9 (fset F.FAB_HART_POS_VALID (fset F.FAB_HART_POS_DIE (fset F.FAB_HART_POS_POS 0 5) 2) 1)).setF F.PWR_DIE_STATE 2 2) with out := [.imsic 9 8 33 true 0 5] },
    by decide +kernel⟩,
    ⟨9, 9, 33, 0, 5, false,
    { ((State.reset.setR .FAB_HART_POS 9 (fset F.FAB_HART_POS_VALID (fset F.FAB_HART_POS_DIE (fset F.FAB_HART_POS_POS 0 5) 2) 1)).setF F.PWR_DIE_STATE 2 2) with out := [.imsic 9 9 33 false 0 5] },
    by decide +kernel⟩,
    ⟨9, 8, 33, 0, 5, true,
    { (State.reset.setR .FAB_HART_POS 9 (fset F.FAB_HART_POS_VALID (fset F.FAB_HART_POS_DIE (fset F.FAB_HART_POS_POS 0 5) 2) 1)) with out := [.imsic 9 8 33 true 0 5] },
    by decide +kernel⟩,
    ⟨9, 8, 33, 0, 1030, true,
    { (State.reset.setR .FAB_HART_POS 9 (fset F.FAB_HART_POS_VALID (fset F.FAB_HART_POS_DIE (fset F.FAB_HART_POS_POS 0 5) 2) 1)) with out := [.imsic 9 8 33 true 0 1030] },
    by decide +kernel⟩,
    ⟨9, 8, 33, 0, 5, true, State.reset, by decide +kernel⟩,
    ⟨230, { State.reset with pulses := [230], aplic := [(920, 4)] }, by decide +kernel⟩,
    ⟨230,
    { State.reset with pulses := [230], aplic := [(0, 256), (920, 4), (0x1E00 + 28, 64), (0x3000 + 920, 0x240005)] },
    by decide +kernel⟩,
    ⟨40, State.reset, by decide +kernel⟩,
    ⟨2, 230,
    { ((State.reset.setR .FAB_HART_POS 9 (fset F.FAB_HART_POS_VALID (fset F.FAB_HART_POS_DIE (fset F.FAB_HART_POS_POS 0 5) 2) 1)).setF F.PWR_DIE_STATE 2 2) with aplic := [(0, 256), (920, 4), (0x1C00 + 28, 64), (0x1E00 + 28, 64), (0x3000 + 920, 0x240005)] },
    by decide +kernel⟩,
    ⟨2, State.reset, by decide +kernel⟩⟩

theorem test_met_RegisterAccesses :
    (∃ (a : Access) (addr : Nat) (i : Nat) (g : Reg) (s : State), g ∉ effectRegs ∧ regFind addr = some (g, i) ∧
    PlainAddr addr ∧ addr % 8 = 0 ∧ (regDie addr).all (dieOn · s) = true ∧ regStopped g i s = false ∧
    regVerdict a true g i s = .ok) ∧
    (∃ (a : Access) (addr : Nat) (i : Nat) (g : Reg) (s : State), regFind addr = some (g, i) ∧ PlainAddr addr ∧
    addr % 8 = 0 ∧ (regDie addr).all (dieOn · s) = true ∧ regStopped g i s = false ∧ regVerdict a true g i s = .world) ∧
    (∃ (a : Access) (addr : Nat) (i : Nat) (g : Reg) (s : State), regFind addr = some (g, i) ∧ PlainAddr addr ∧
    addr % 8 = 0 ∧ (regDie addr).all (dieOn · s) = true ∧ regStopped g i s = false ∧ regVerdict a true g i s = .part) ∧
    (∃ (addr : Nat) (n : Nat) (i : Nat) (g : Reg) (s : State), (n ≠ 8 ∨ addr % 8 ≠ 0) ∧ PlainAddr addr ∧
    regFind (addr / 8 * 8) = some (g, i)) ∧
    (∃ (addr : Nat) (s : State), PlainAddr addr ∧ regFind (addr / 8 * 8) = none ∧ regDie addr = none ∧
    mmioBlock addr = none) ∧
    (∃ (a : Access) (n : Nat) (v : Word) (s : State), a.world = true ∧ a.part = 0 ∧ srcUsed n = true ∧
    bit v 10 = false ∧ srcMode n s ≠ 0 ∧ srcDomain n s = 0 ∧ (v.toNat % 8 = 4 ∨ v.toNat % 8 = 6 ∨ v.toNat % 8 = 1)) ∧
    (∃ (p : Packet) (lo : Nat) (b : Nat) (i : Nat) (g : Reg) (s : State), s.out = [] ∧
    ioSpan ({ p with op := .rdIO }) = (lo, 8) ∧ ioTarget (p.addr + lo) s = .block b ∧ g ∉ effectRegs ∧
    regFind (p.addr + lo) = some (g, i) ∧ PlainAddr (p.addr + lo) ∧ (p.addr + lo) % 8 = 0 ∧
    regDie (p.addr + lo) = none ∧ Allowed ⟨p.w, p.part, p.src⟩ false g i s) ∧
    (∃ (p : Packet) (lo : Nat) (b : Nat) (i : Nat) (g : Reg) (s : State), s.out = [] ∧
    ioSpan ({ p with op := .wrIO }) = (lo, 8) ∧ ioTarget (p.addr + lo) s = .block b ∧ g ∉ effectRegs ∧
    regFind (p.addr + lo) = some (g, i) ∧ PlainAddr (p.addr + lo) ∧ (p.addr + lo) % 8 = 0 ∧
    regDie (p.addr + lo) = none ∧ Allowed ⟨p.w, p.part, p.src⟩ true g i s) ∧
    (∃ (p : Packet) (lo : Nat) (b : Nat) (i : Nat) (g : Reg) (s : State), s.out = [] ∧
    ioSpan ({ p with op := .rdIO }) = (lo, 8) ∧ ioTarget (p.addr + lo) s = .block b ∧
    regFind (p.addr + lo) = some (g, i) ∧ PlainAddr (p.addr + lo) ∧ (p.addr + lo) % 8 = 0 ∧
    regDie (p.addr + lo) = none ∧ regStopped g i s = false ∧
    (regVerdict ⟨p.w, p.part, p.src⟩ false g i s = .world ∨ regVerdict ⟨p.w, p.part, p.src⟩ false g i s = .part)) ∧
    (∃ (p : Packet) (s : State), ioTarget (p.addr + (ioSpan ({ p with op := .rdIO })).1) s = .none) ∧
    (∃ (p : Packet) (s : State), ioTarget (p.addr + (ioSpan ({ p with op := .wrIO })).1) s = .none) ∧
    (∃ (p : Packet) (w : Nat) (lo : Nat) (n : Nat) (tg : Nat) (s : State), ioSpan ({ p with op := .rdIO }) = (lo, n) ∧
    s.out = [] ∧ ioTarget (p.addr + lo) s = .pcie w ∧ w < 128 ∧ s.b F.PE_OWIN_CFG_WORLD w = false ∧ p.part = 0 ∧
    unitOff (272 + w / 16) s = false ∧ peUp (w / 16) (s.f F.PE_OWIN_CFG_LINK w) s = true ∧
    s.f F.PE_OWIN_CFG_TYPE w = 0 ∧ s.peWait = [] ∧ smapGet (fun _ => none) s.peComb (w / 16) = none ∧
    s.b F.PE_OWIN_CFG_PREFETCH w = false ∧ peTag (w / 16) (s.f F.PE_OWIN_CFG_LINK w) s = some tg) ∧
    (∃ (p : Packet) (w : Nat) (lo : Nat) (n : Nat) (s : State), ioSpan ({ p with op := .wrIO }) = (lo, n) ∧
    s.out = [] ∧ ioTarget (p.addr + lo) s = .pcie w ∧ w < 128 ∧ s.b F.PE_OWIN_CFG_WORLD w = false ∧ p.part = 0 ∧
    unitOff (272 + w / 16) s = false ∧ peUp (w / 16) (s.f F.PE_OWIN_CFG_LINK w) s = true ∧
    s.f F.PE_OWIN_CFG_TYPE w = 0 ∧ s.peWait = [] ∧ smapGet (fun _ => none) s.peComb (w / 16) = none) :=
  ⟨⟨accS, (Reg.addr .WC_SENTRY 5), 5, .WC_SENTRY, State.reset, by decide +kernel⟩,
    ⟨accO, (Reg.addr .WC_SENTRY 5), 5, .WC_SENTRY, State.reset, by decide +kernel⟩,
    ⟨⟨true, 7, 3⟩, (Reg.addr .HA_CTRL 5), 5, .HA_CTRL, State.reset, by decide +kernel⟩,
    ⟨(Reg.addr .WC_SENTRY 5), 4, 5, .WC_SENTRY, State.reset, by decide +kernel⟩,
    ⟨0x1000, State.reset, by decide +kernel⟩,
    ⟨accS, 230, 4#64, { State.reset with aplic := [(920, 6)] }, by decide +kernel⟩,
    ⟨{ op := .rdIO, src := 20, dst := 0x149, w := true, tag := 3, addr := Reg.addr .WC_SENTRY 5 / 64 * 64, aux := BitVec.ofNat 32 (Reg.addr .WC_SENTRY 5 % 64 + 7 * 64) },
    (Reg.addr .WC_SENTRY 5 % 64), ((mmioBlock (Reg.addr .WC_SENTRY 5)).getD 0), 5, .WC_SENTRY,
    (State.reset.setR .WC_SENTRY 5 77), by decide +kernel⟩,
    ⟨{ op := .wrIO, src := 20, dst := 0x149, w := true, tag := 3, addr := Reg.addr .WC_SENTRY 5 / 64 * 64, data := true, mask := byteMask (Reg.addr .WC_SENTRY 5 % 64) 8, payload := linePut 0 (Reg.addr .WC_SENTRY 5 % 64) 8 0x777 },
    (Reg.addr .WC_SENTRY 5 % 64), ((mmioBlock (Reg.addr .WC_SENTRY 5)).getD 0), 5, .WC_SENTRY, State.reset,
    by decide +kernel⟩,
    ⟨{ op := .rdIO, src := 20, dst := 0x149, w := false, tag := 3, addr := Reg.addr .WC_SENTRY 0 / 64 * 64, aux := BitVec.ofNat 32 (Reg.addr .WC_SENTRY 0 % 64 + 7 * 64) },
    (Reg.addr .WC_SENTRY 0 % 64), ((mmioBlock (Reg.addr .WC_SENTRY 0)).getD 0), 0, .WC_SENTRY, State.reset,
    by decide +kernel⟩,
    ⟨{ op := .rdIO, src := 20, dst := 0x149, w := true, tag := 3, addr := 0x8000000000 }, State.reset,
    by decide +kernel⟩,
    ⟨{ op := .rdIO, src := 20, dst := 0x149, w := true, tag := 3, addr := 0x8000000000 }, State.reset,
    by decide +kernel⟩,
    ⟨{ op := .rdIO, src := 20, dst := 0x118, w := true, tag := 3, addr := 0x8000000040, aux := BitVec.ofNat 32 (8 + 7 * 64) },
    0, 8, 8, 0,
    (((((State.reset.setF F.PE_OWIN_CFG_EN 0 1).setF F.PE_OWIN_CFG_SIZE 0 20).setF F.PE_OWIN_BASE_VAL 0 0x800000).setR
      .PE_OWIN_BUS 0 0x40000000).setFbit F.PE_PORT_STATUS_LINK_UP 0 0 true),
    by decide +kernel⟩,
    ⟨{ op := .wrIO, src := 20, dst := 0x118, w := true, tag := 3, addr := 0x8000000040, data := true, mask := byteMask 8 8, payload := 0x7777 <<< 64 },
    0, 8, 8,
    (((((State.reset.setF F.PE_OWIN_CFG_EN 0 1).setF F.PE_OWIN_CFG_SIZE 0 20).setF F.PE_OWIN_BASE_VAL 0 0x800000).setR
      .PE_OWIN_BUS 0 0x40000000).setFbit F.PE_PORT_STATUS_LINK_UP 0 0 true),
    by decide +kernel⟩⟩

theorem test_met_PcieMaster :
    (∃ (a : Access) (i : Nat) (s : State), i < 128 ∧ Allowed a true .PE_OWIN_BASE i s ∧
    s.b F.PE_OWIN_CFG_EN i = false) ∧
    (∃ (a : Access) (i : Nat) (s : State), i < 128 ∧ Allowed a true .PE_OWIN_BUS i s ∧ s.b F.PE_OWIN_CFG_EN i = false) ∧
    (∃ (a : Access) (i : Nat) (v : Word) (s : State), i < 128 ∧ Allowed a true .PE_OWIN_CFG i s ∧
    s.b F.PE_OWIN_CFG_EN i = false ∧ vset F.PE_OWIN_CFG_EN v = true ∧
    (s.f F.PE_OWIN_BASE_VAL i * 65536 < 0x8000000000 ∨ fget F.PE_OWIN_CFG_SIZE v < 16 ∨ 39 < fget F.PE_OWIN_CFG_SIZE
      v)) ∧
    (∃ (a : Access) (i : Nat) (v : Word) (s : State), i < 128 ∧ Allowed a true .PE_OWIN_CFG i s ∧
    s.b F.PE_OWIN_CFG_EN i = false ∧ vset F.PE_OWIN_CFG_EN v = true ∧
    0x8000000000 ≤ s.f F.PE_OWIN_BASE_VAL i * 65536 ∧ 16 ≤ fget F.PE_OWIN_CFG_SIZE v ∧
    fget F.PE_OWIN_CFG_SIZE v ≤ 39 ∧ s.f F.PE_OWIN_BASE_VAL i * 65536 + 2 ^ fget F.PE_OWIN_CFG_SIZE v ≤ 0xF000000000 ∧
    ((List.range 128).any fun j => s.b F.PE_OWIN_CFG_EN j) = false ∧ fget F.PE_OWIN_CFG_LINK v < peLinks (i / 16) s ∧
    (fget F.PE_OWIN_CFG_TYPE v = 2 ↔ peEndpoint (i / 16) (fget F.PE_OWIN_CFG_LINK v) s = true)) ∧
    (∃ (n : Nat) (tg : Nat) (x : PeComb) (s : State), smapGet (fun _ => none) s.peComb n = some x ∧
    peTag n (s.f F.PE_OWIN_CFG_LINK x.win) s = some tg ∧ s.peWait = []) ∧
    (∃ (n : Nat) (s : State), smapGet (fun _ => none) s.peComb n = none) ∧
    (∃ (n : Nat) (lo : Nat) (x : Tlp) (r : PeRd) (p : Packet) (s : State),
    s.peRd.find? (fun r => r.port == n && r.link == x.link && r.tag == x.tag) = some r ∧ r.rds = [(p, 0)] ∧
    p.op = .rdIO ∧ r.dead = false ∧ r.got = 0 ∧ r.data = 0 ∧ r.bad = [] ∧ x.st = 0 ∧ x.ep = false ∧ x.len = r.len ∧
    ioSpan p = (lo, r.len) ∧ s.peWait = [] ∧ s.peRd = [r]) ∧
    (∃ (n : Nat) (x : Tlp) (r : PeRd) (p : Packet) (s : State),
    s.peRd.find? (fun r => r.port == n && r.link == x.link && r.tag == x.tag) = some r ∧ r.rds = [(p, 0)] ∧
    p.op = .rdIO ∧ r.dead = false ∧ x.st ≠ 0 ∧ s.peWait = []) ∧
    (∃ (n : Nat) (x : Tlp) (s : State),
    (s.peRd.any fun r => r.port == n && r.link == x.link && r.tag == x.tag) = false) ∧
    (∃ (n : Nat) (l : Nat) (g : Nat) (r : PeRd) (p : Packet) (s : State),
    s.peRd.find? (fun r => r.port == n && r.link == l && r.tag == g) = some r ∧ r.rds = [(p, 0)] ∧ p.op = .rdIO ∧
    r.dead = false ∧ s.peWait = []) ∧
    (∃ (n : Nat) (l : Nat) (g : Nat) (s : State),
    (s.peRd.any fun r => r.port == n && r.link == l && r.tag == g) = false) ∧
    (∃ (n : Nat) (l : Nat) (q : Tlp) (p : Packet) (s : State),
    s.peWr.find? (fun x => x.port == n && x.t.link == l) = some ⟨n, q, some p⟩ ∧ p.op = .wrIO) ∧
    (∃ (n : Nat) (l : Nat) (s : State), (s.peWr.any fun x => x.port == n && x.t.link == l) = false) ∧
    (∃ (n : Nat) (pa : Nat) (x : Tlp) (s : State), x.kind = .mrd ∧ peUp n x.link s = true ∧
    unitOff (272 + n) s = false ∧ peEndpoint n x.link s = false ∧ n < 8 ∧ devEntry (n * 65536 + x.req) s = none ∧
    inDram pa s = true ∧ s.inQ n = [] ∧ s.pkgEnd = none ∧ 0 < x.len ∧ x.len ≤ 64 - pa % 64) ∧
    (∃ (n : Nat) (e : Nat) (x : Tlp) (s : State), x.kind = .mrd ∧ peUp n x.link s = true ∧
    unitOff (272 + n) s = false ∧ peEndpoint n x.link s = false ∧ n < 8 ∧ devEntry (n * 65536 + x.req) s = some e ∧
    s.b F.PQ_DEVPART_BLOCKED e = true ∧ s.inQ n = [] ∧ s.pkgEnd = none) ∧
    (∃ (n : Nat) (f : Nat) (x : Tlp) (s : State), x.kind = .mrd ∧ peUp n x.link s = true ∧
    unitOff (272 + n) s = false ∧ peEndpoint n x.link s = true ∧ x.fn = some f ∧ f ≤ 32 ∧
    (fnHost n f s).isSome = true ∧ s.b F.PE_FN_STATUS_BUSY_FLR (fnIx n f) = false ∧ x.bar = 0 ∧ x.addr < 0x4000 ∧
    x.len ≤ 64 ∧ 0 < x.len ∧ x.len ≤ 128 - x.addr % 64 ∧ s.inQ n = [] ∧ s.pkgEnd = none) ∧
    (∃ (n : Nat) (x : Tlp) (s : State), (peUp n x.link s = false ∨ unitOff (272 + n) s = true)) ∧
    (∃ (n : Nat) (s : State), peMode n s = false) ∧
    (∃ (n : Nat) (s : State), peMode n s = true ∧ n < 2) ∧
    (∃ (l : Nat) (s : State), l ≠ 0 ∧ l < 4) ∧
    (∃ (n : Nat) (l : Nat) (s : State), l < peLinks n s ∧ peUp n l s = false ∧ unitOff (272 + n) s = false) ∧
    (∃ (n : Nat) (l : Nat) (s : State), l < peLinks n s ∧ peUp n l s = true) ∧
    (∃ (n : Nat) (l : Nat) (u : Bool) (s : State), peUp n l s = u) ∧
    (∃ (n : Nat) (l : Nat) (s : State), peUp n l s = true ∧ smapGet (fun _ => 0) s.aspm (4 * n + l) = 0 ∧
    aspmOn n l 0 s = true ∧ peQuiet n l (32 * max 1 (s.f F.PE_LINK_CTRL_L0S_IDLE (4 * n + l))) s = true) ∧
    (∃ (n : Nat) (l : Nat) (s : State), peUp n l s = true ∧ smapGet (fun _ => 0) s.aspm (4 * n + l) ≠ 2 ∧
    aspmOn n l 1 s = true ∧ peQuiet n l (tbMicro * max 1 (s.f F.PE_LINK_CTRL_L1_IDLE (4 * n + l))) s = true) ∧
    (∃ (n : Nat) (l : Nat) (s : State), peQuiet n l 32 s = false) ∧
    (∃ (n : Nat) (l : Nat) (s : State), peQuiet n l tbMicro s = false) ∧
    (∃ (n : Nat) (l : Nat) (s : State), peUp n l s = false) ∧
    (∃ (n : Nat) (l : Nat) (s : State), peUp n l s = false) :=
  ⟨⟨accS, 5, State.reset, by decide +kernel⟩,
    ⟨accS, 5, State.reset, by decide +kernel⟩,
    ⟨accS, 5, (fset F.PE_OWIN_CFG_EN 0 1), State.reset, by decide +kernel⟩,
    ⟨accS, 5, (fset F.PE_OWIN_CFG_SIZE (fset F.PE_OWIN_CFG_EN 0 1) 20),
    (State.reset.setF F.PE_OWIN_BASE_VAL 5 0x900000), by decide +kernel⟩,
    ⟨0, 0, ⟨3, 0, 0x1000, 64, []⟩, { epS with peComb := [(0, some ⟨3, 0, 0x1000, 64, []⟩)] }, by decide +kernel⟩,
    ⟨0, State.reset, by decide +kernel⟩,
    ⟨0, 8, { kind := .cpl, tag := 7, len := 8, data := 0x1234567890 },
    { port := 0, link := 0, tag := 7, fn := none, addr := 64, len := 8, rds := [({ op := .rdIO, src := 20, dst := 0x118, w := true, tag := 3, addr := 0x8000000040, aux := BitVec.ofNat 32 (8 + 7 * 64) }, 0)] },
    { op := .rdIO, src := 20, dst := 0x118, w := true, tag := 3, addr := 0x8000000040, aux := BitVec.ofNat 32 (8 + 7 * 64) },
    { epS with peRd := [{ port := 0, link := 0, tag := 7, fn := none, addr := 64, len := 8, rds := [({ op := .rdIO, src := 20, dst := 0x118, w := true, tag := 3, addr := 0x8000000040, aux := BitVec.ofNat 32 (8 + 7 * 64) }, 0)] }] },
    by decide +kernel⟩,
    ⟨0, { kind := .cpl, tag := 7, len := 8, st := 1 },
    { port := 0, link := 0, tag := 7, fn := none, addr := 64, len := 8, rds := [({ op := .rdIO, src := 20, dst := 0x118, w := true, tag := 3, addr := 0x8000000040, aux := BitVec.ofNat 32 (8 + 7 * 64) }, 0)] },
    { op := .rdIO, src := 20, dst := 0x118, w := true, tag := 3, addr := 0x8000000040, aux := BitVec.ofNat 32 (8 + 7 * 64) },
    { epS with peRd := [{ port := 0, link := 0, tag := 7, fn := none, addr := 64, len := 8, rds := [({ op := .rdIO, src := 20, dst := 0x118, w := true, tag := 3, addr := 0x8000000040, aux := BitVec.ofNat 32 (8 + 7 * 64) }, 0)] }] },
    by decide +kernel⟩,
    ⟨0, { kind := .cpl, tag := 7, len := 8, st := 1 }, State.reset, by decide +kernel⟩,
    ⟨0, 0, 7,
    { port := 0, link := 0, tag := 7, fn := none, addr := 64, len := 8, rds := [({ op := .rdIO, src := 20, dst := 0x118, w := true, tag := 3, addr := 0x8000000040, aux := BitVec.ofNat 32 (8 + 7 * 64) }, 0)] },
    { op := .rdIO, src := 20, dst := 0x118, w := true, tag := 3, addr := 0x8000000040, aux := BitVec.ofNat 32 (8 + 7 * 64) },
    { epS with peRd := [{ port := 0, link := 0, tag := 7, fn := none, addr := 64, len := 8, rds := [({ op := .rdIO, src := 20, dst := 0x118, w := true, tag := 3, addr := 0x8000000040, aux := BitVec.ofNat 32 (8 + 7 * 64) }, 0)] }] },
    by decide +kernel⟩,
    ⟨0, 0, 7, State.reset, by decide +kernel⟩,
    ⟨0, 0, { kind := .mwr, addr := 64, len := 8 },
    { op := .wrIO, src := 20, dst := 0x118, w := true, tag := 3, addr := 0x8000000040, aux := BitVec.ofNat 32 (8 + 7 * 64) },
    { epS with peWr := [⟨0, { kind := .mwr, addr := 64, len := 8 }, some { op := .wrIO, src := 20, dst := 0x118, w := true, tag := 3, addr := 0x8000000040, aux := BitVec.ofNat 32 (8 + 7 * 64) }⟩] },
    by decide +kernel⟩,
    ⟨0, 0, State.reset, by decide +kernel⟩,
    ⟨0, 0x1008, { kind := .mrd, req := 9, addr := 0x1008, len := 8 },
    { (State.reset.setFbit F.PE_PORT_STATUS_LINK_UP 0 0 true) with out := [] }, by decide +kernel⟩,
    ⟨0, 4, { kind := .mrd, req := 9, addr := 0x1008, len := 8 },
    ((State.reset.setFbit F.PE_PORT_STATUS_LINK_UP 0 0 true).setR .PQ_DEVPART 4 (fset F.PQ_DEVPART_EN (fset
      F.PQ_DEVPART_DEVID (fset F.PQ_DEVPART_BLOCKED 0 1) 9) 1)).setF F.PQ_DEVPART_MASK_MASK 4 0xFFFFFF,
    by decide +kernel⟩,
    ⟨0, 0, { kind := .mrd, bar := 0, fn := some 0, req := 9, addr := 0x40, len := 8 }, epS, by decide +kernel⟩,
    ⟨0, { kind := .mrd, req := 9, addr := 0x1008, len := 8 }, State.reset, by decide +kernel⟩,
    ⟨0, (State.reset.setR .PE_PORT_CFG 0 (fset F.PE_PORT_CFG_BIF 0 2)), by decide +kernel⟩,
    ⟨0, epS, by decide +kernel⟩,
    ⟨1, State.reset, by decide +kernel⟩,
    ⟨3, 0, State.reset, by decide +kernel⟩,
    ⟨0, 0, epS, by decide +kernel⟩,
    ⟨3, 0, false, State.reset, by decide +kernel⟩,
    ⟨0, 0, { (State.reset.setFbit F.PE_PORT_STATUS_LINK_UP 0 0 true) with peIdle := [(0, 1)] }, by decide +kernel⟩,
    ⟨0, 0, { (State.reset.setFbit F.PE_PORT_STATUS_LINK_UP 0 0 true) with peIdle := [(0, 1)] }, by decide +kernel⟩,
    ⟨0, 0, (State.reset.setFbit F.PE_PORT_STATUS_LINK_UP 0 0 true), by decide +kernel⟩,
    ⟨0, 0, (State.reset.setFbit F.PE_PORT_STATUS_LINK_UP 0 0 true), by decide +kernel⟩,
    ⟨0, 0, State.reset, by decide +kernel⟩,
    ⟨0, 0, State.reset, by decide +kernel⟩⟩

theorem test_met_PcieFunctions :
    (∃ (n : Nat) (f : Nat) (s : State), fnOpen n f s = true ∧ n < 2) ∧
    (∃ (n : Nat) (f : Nat) (p : Nat) (v : Word) (w : Bool) (s : State), fnOpen n f s = true ∧ n < 2 ∧
    s.r .PE_FN_DOORBELL (fnIx n f) = 0 ∧ v ≠ 0 ∧ fnHost n f s = some (p, w) ∧ s.f F.PE_FN_NOTIFY_FILE (fnIx n f) ≤ 7) ∧
    (∃ (n : Nat) (f : Nat) (s : State), fnOpen n f s = false) ∧
    (∃ (a : Access) (n : Nat) (f : Nat) (v : Word) (s : State), n < 2 ∧ f ≤ 32 ∧
    Allowed a true .PE_FN_MSIX (fnIx n f) s ∧ peBme n f s = true ∧ s.b F.PE_FN_STATUS_BUSY_FLR (fnIx n f) = false ∧
    s.peWait = [] ∧ (s.peC (fnIx n f)).msix = true ∧ (s.peC (fnIx n f)).fmask = false ∧
    (s.vec (fnIx n f * 16 + fget F.PE_FN_MSIX_VAL v)).mask = false) ∧
    (∃ (a : Access) (n : Nat) (f : Nat) (v : Word) (s : State), n < 2 ∧ f ≤ 32 ∧
    Allowed a true .PE_FN_MSIX (fnIx n f) s ∧ peBme n f s = true ∧ s.b F.PE_FN_STATUS_BUSY_FLR (fnIx n f) = false ∧
    s.peWait = [] ∧ (s.peC (fnIx n f)).msix = true ∧
    ((s.peC (fnIx n f)).fmask = true ∨ (s.vec (fnIx n f * 16 + fget F.PE_FN_MSIX_VAL v)).mask = true)) ∧
    (∃ (a : Access) (n : Nat) (f : Nat) (s : State), n < 2 ∧ f ≤ 32 ∧ Allowed a true .PE_FN_MSIX (fnIx n f) s ∧
    peBme n f s = false) ∧
    (∃ (a : Access) (n : Nat) (f : Nat) (i : Nat) (v : Word) (s : State), n < 2 ∧ f ≤ 32 ∧
    Allowed a true .PE_IWIN_COMMIT (fnIx n f) s ∧ vset F.PE_IWIN_COMMIT_COMMIT_ERR v = false ∧
    vset F.PE_IWIN_COMMIT_GO v = true ∧ s.b F.PE_IWIN_COMMIT_OLD_BUSY (fnIx n f) = false ∧
    peShadowOverlap n f s = false ∧ i < 8) ∧
    (∃ (a : Access) (n : Nat) (f : Nat) (v : Word) (s : State), n < 2 ∧ f ≤ 32 ∧
    Allowed a true .PE_IWIN_COMMIT (fnIx n f) s ∧ vset F.PE_IWIN_COMMIT_COMMIT_ERR v = false ∧
    vset F.PE_IWIN_COMMIT_GO v = true ∧
    (s.b F.PE_IWIN_COMMIT_OLD_BUSY (fnIx n f) = true ∨ peShadowOverlap n f s = true)) ∧
    (∃ (a : Access) (n : Nat) (f : Nat) (v : Word) (s : State), n < 2 ∧ f ≤ 32 ∧
    Allowed a true .PE_IWIN_COMMIT (fnIx n f) s ∧ vset F.PE_IWIN_COMMIT_COMMIT_ERR v = false ∧
    vset F.PE_IWIN_COMMIT_GO v = false) ∧
    (∃ (n : Nat) (f : Nat) (s : State), s.b F.PE_IWIN_COMMIT_OLD_BUSY (fnIx n f) = true ∧
    ((s.inQ n).any fun j => jobOf f j && j.old) = false) ∧
    (∃ (n : Nat) (f : Nat) (s : State), ((s.inQ n).any fun j => jobOf f j && j.old) = true) ∧
    (∃ (a : Access) (n : Nat) (f : Nat) (m : Nat) (v : Word) (s : State), n < 2 ∧ f ≤ 32 ∧ m < 16 ∧
    Allowed a true .PE_MBX_CTRL (mbxIx n f m) s ∧ vset F.PE_MBX_CTRL_PUBLISH v = true ∧
    s.b F.PE_MBX_CTRL_READY (mbxIx n f m) = false ∧ s.b F.PE_FN_STATUS_BUSY_FLR (fnIx n f) = false ∧
    fget F.PE_MBX_CTRL_LEN v ≤ 56) ∧
    (∃ (a : Access) (n : Nat) (f : Nat) (m : Nat) (v : Word) (s : State), n < 2 ∧ f ≤ 32 ∧ m < 16 ∧
    Allowed a true .PE_MBX_CTRL (mbxIx n f m) s ∧ vset F.PE_MBX_CTRL_PUBLISH v = true ∧
    (s.b F.PE_MBX_CTRL_READY (mbxIx n f m) = true ∨ s.b F.PE_FN_STATUS_BUSY_FLR (fnIx n f) = true)) ∧
    (∃ (a : Access) (n : Nat) (f : Nat) (m : Nat) (v : Word) (s : State), n < 2 ∧ f ≤ 32 ∧ m < 16 ∧
    Allowed a true .PE_MBX_CTRL (mbxIx n f m) s ∧ vset F.PE_MBX_CTRL_PUBLISH v = true ∧
    s.b F.PE_MBX_CTRL_READY (mbxIx n f m) = false ∧ s.b F.PE_FN_STATUS_BUSY_FLR (fnIx n f) = false ∧
    56 < fget F.PE_MBX_CTRL_LEN v) ∧
    (∃ (n : Nat) (f : Nat) (m : Nat) (v : Word) (s : State), fnOpen n f s = true ∧ n < 2 ∧ m < 16 ∧ bit v 62 = true ∧
    s.b F.PE_MBX_CTRL_READY (mbxIx n f m) = true ∧ bits v 47 32 = s.f F.PE_MBX_CTRL_SEQ (mbxIx n f m)) ∧
    (∃ (n : Nat) (f : Nat) (m : Nat) (v : Word) (s : State), fnOpen n f s = true ∧ n < 2 ∧ m < 16 ∧
    (bit v 62 = false ∨ s.b F.PE_MBX_CTRL_READY (mbxIx n f m) = false ∨ bits v 47 32 ≠ s.f F.PE_MBX_CTRL_SEQ (mbxIx n
      f m))) ∧
    (∃ (n : Nat) (f : Nat) (s : State), fnOpen n f s = false) ∧
    (∃ (n : Nat) (f : Nat) (s : State), n < 2 ∧ f ≤ 32 ∧ peBme n f s = true) ∧
    (∃ (n : Nat) (f : Nat) (s : State), peBme n f s = false) ∧
    (∃ (n : Nat) (f : Nat) (s : State), n < 2 ∧ peMode n s = true ∧ 1 ≤ f ∧ f ≤ 32) ∧
    (∃ (n : Nat) (s : State), n < 2 ∧ peMode n s = true) ∧
    (∃ (n : Nat) (s : State), peMode n s = false) ∧
    (∃ (n : Nat) (f : Nat) (s : State), s.b F.PE_FN_STATUS_BUSY_FLR (fnIx n f) = true) ∧
    (∃ (n : Nat) (f : Nat) (s : State), s.b F.PE_FN_STATUS_BUSY_FLR (fnIx n f) = false) ∧
    (∃ (n : Nat) (f : Nat) (s : State), peMode n s = true ∧ f ≤ 32 ∧ peUp n 0 s = true) ∧
    (∃ (n : Nat) (f : Nat) (s : State), peMode n s = true ∧ f ≤ 32 ∧ peUp n 0 s = true) ∧
    (∃ (n : Nat) (f : Nat) (s : State), peMode n s = true ∧ f ≤ 32 ∧ peUp n 0 s = true ∧ n < 2 ∧ peBme n f s = false) ∧
    (∃ (n : Nat) (f : Nat) (s : State), peMode n s = true ∧ f ≤ 32 ∧ peUp n 0 s = true ∧ n < 2 ∧ peBme n f s = true) ∧
    (∃ (n : Nat) (f : Nat) (s : State), peMode n s = true ∧ f ≤ 32 ∧ peUp n 0 s = true) ∧
    (∃ (n : Nat) (s : State), peMode n s = true ∧ peUp n 0 s = true) ∧
    (∃ (n : Nat) (f : Nat) (s : State), peMode n s = true ∧ f ≤ 32 ∧ peUp n 0 s = true) ∧
    (∃ (n : Nat) (f : Nat) (s : State), peMode n s = true ∧ f ≤ 32 ∧ peUp n 0 s = true) ∧
    (∃ (n : Nat) (f : Nat) (s : State), peMode n s = true ∧ f ≤ 32 ∧ peUp n 0 s = true) ∧
    (∃ (n : Nat) (f : Nat) (s : State), peMode n s = true ∧ f ≤ 32 ∧ peUp n 0 s = true ∧ n < 2 ∧ 1 ≤ f) ∧
    (∃ (n : Nat) (s : State), peUp n 0 s = false) :=
  ⟨⟨0, 0, epS, by decide +kernel⟩,
    ⟨0, 0, 0, 5#64, (epS.b F.PE_EP_CFG_PF_WORLD 0), epS, by decide +kernel⟩,
    ⟨0, 0, State.reset, by decide +kernel⟩,
    ⟨accO, 0, 0, 3#64,
    (((epS.setB F.PE_FN_STATUS_BME 0 true).setPeC 0 { msix := true }).setVec 3
      { addr := 0x1000, data := 77, mask := false }),
    by decide +kernel⟩,
    ⟨accO, 0, 0, 4#64,
    (((epS.setB F.PE_FN_STATUS_BME 0 true).setPeC 0 { msix := true }).setVec 3
      { addr := 0x1000, data := 77, mask := false }),
    by decide +kernel⟩,
    ⟨accO, 0, 0, epS, by decide +kernel⟩,
    ⟨accO, 0, 0, 2, (fset F.PE_IWIN_COMMIT_GO 0 1), (epS.setF F.PE_IWIN_TARGET_VAL 2 99), by decide +kernel⟩,
    ⟨accO, 0, 0, (fset F.PE_IWIN_COMMIT_GO 0 1), (epS.setB F.PE_IWIN_COMMIT_OLD_BUSY 0 true), by decide +kernel⟩,
    ⟨accO, 0, 0, 0#64, epS, by decide +kernel⟩,
    ⟨0, 0, (epS.setB F.PE_IWIN_COMMIT_OLD_BUSY 0 true), by decide +kernel⟩,
    ⟨0, 0, { epS with inq := [(0, [{ t := { kind := .mrd, fn := some 0 }, old := true }])] }, by decide +kernel⟩,
    ⟨accO, 0, 0, 3, (fset F.PE_MBX_CTRL_LEN (fset F.PE_MBX_CTRL_PUBLISH 0 1) 16), epS, by decide +kernel⟩,
    ⟨accO, 0, 0, 3, (fset F.PE_MBX_CTRL_LEN (fset F.PE_MBX_CTRL_PUBLISH 0 1) 16),
    (epS.setB F.PE_MBX_CTRL_READY 3 true), by decide +kernel⟩,
    ⟨accO, 0, 0, 3, (fset F.PE_MBX_CTRL_LEN (fset F.PE_MBX_CTRL_PUBLISH 0 1) 60), epS, by decide +kernel⟩,
    ⟨0, 0, 3, 0x4000000500000000#64, ((epS.setB F.PE_MBX_CTRL_READY 3 true).setF F.PE_MBX_CTRL_SEQ 3 5),
    by decide +kernel⟩,
    ⟨0, 0, 3, 0x4000000500000000#64, epS, by decide +kernel⟩,
    ⟨0, 0, State.reset, by decide +kernel⟩,
    ⟨0, 0,
    { (epS.setB F.PE_FN_STATUS_BME 0 true) with peRd := [{ port := 0, link := 0, tag := 7, fn := some 0, addr := 64, len := 8 }] },
    by decide +kernel⟩,
    ⟨0, 0, epS, by decide +kernel⟩,
    ⟨0, 3, ((epS.setF F.PE_MBX_CTRL_SEQ 50 9).setR .PE_FN_DOORBELL 3 6), by decide +kernel⟩,
    ⟨0, ((epS.setF F.PE_MBX_CTRL_SEQ 50 9).setR .PE_FN_DOORBELL 3 6), by decide +kernel⟩,
    ⟨0, State.reset, by decide +kernel⟩,
    ⟨0, 0, (epS.setB F.PE_FN_STATUS_BUSY_FLR 0 true), by decide +kernel⟩,
    ⟨0, 0, State.reset, by decide +kernel⟩,
    ⟨0, 0, epS, by decide +kernel⟩,
    ⟨0, 0, epS, by decide +kernel⟩,
    ⟨0, 0, epS, by decide +kernel⟩,
    ⟨0, 0, (epS.setB F.PE_FN_STATUS_BME 0 true), by decide +kernel⟩,
    ⟨0, 0, epS, by decide +kernel⟩,
    ⟨0, epS, by decide +kernel⟩,
    ⟨0, 0, epS, by decide +kernel⟩,
    ⟨0, 0, epS, by decide +kernel⟩,
    ⟨0, 0, epS, by decide +kernel⟩,
    ⟨0, 3, epS, by decide +kernel⟩,
    ⟨0, State.reset, by decide +kernel⟩⟩

theorem test_met_PalegLinks :
    (∃ (n : Nat) (af : Nat) (s : State), 2 ≤ plState n s ∧ (s.pl n).skip = false ∧
    ((s.pl n).frames.any fun f => f.1 == af) = false) ∧
    (∃ (n : Nat) (seq : Nat) (af : Nat) (c : PlCell) (s : State), 2 ≤ plState n s ∧ (s.pl n).skip = false ∧
    seq = (s.pl n).exp ∧ ((s.pl n).frames.any fun f => f.1 == af) = false ∧ 1 ≤ c.ty ∧ c.ty ≤ 4 ∧
    (c.ty = 4 → msgType c ≠ 15) ∧ c.dest = plSelf s) ∧
    (∃ (n : Nat) (ok : Bool) (f : Nat) (s : State), 2 ≤ plState n s ∧ (ok = false ∨ 3 < f) ∧ (s.pl n).naks < 7) ∧
    (∃ (n : Nat) (s : State), plState n s < 2) ∧
    (∃ (n : Nat) (k : Nat) (s : State), 2 ≤ plState n s ∧ k = (s.pl n).acked ∧ (s.pl n).acked < 4096 ∧
    (s.pl n).naks < 7) ∧
    (∃ (n : Nat) (k : Nat) (s : State), n < 8 ∧ 2 ≤ plState n s ∧ k = (s.pl n).acked ∧ (s.pl n).acked < 4096 ∧
    7 ≤ (s.pl n).naks) ∧
    (∃ (n : Nat) (s : State), plState n s < 2) ∧
    (∃ (n : Nat) (d : Nat) (r : Nat) (s : State), n < 8 ∧ s.b F.PL_PORT_CFG_EN n = true ∧ plState n s < 2 ∧
    unitOff (280 + n) s = false ∧ d < 4096 ∧
    ((plRole n s = 1 ∧ r = 2) ∨ (plRole n s = 2 ∧ r = 1) ∨ (plRole n s = 3 ∧ r = 3)) ∧ d ≠ plSelf s) ∧
    (∃ (n : Nat) (d : Nat) (s : State), n < 8 ∧ s.b F.PL_PORT_CFG_EN n = true ∧ plState n s < 2 ∧
    unitOff (280 + n) s = false ∧ d < 4096 ∧ d = plSelf s) ∧
    (∃ (n : Nat) (d : Nat) (r : Nat) (s : State), n < 8 ∧ s.b F.PL_PORT_CFG_EN n = true ∧ plState n s < 2 ∧
    unitOff (280 + n) s = false ∧ d < 4096 ∧
    ¬((plRole n s = 1 ∧ r = 2) ∨ (plRole n s = 2 ∧ r = 1) ∨ (plRole n s = 3 ∧ r = 3))) ∧
    (∃ (n : Nat) (ok : Bool) (s : State), (ok = false ∨ s.b F.PL_PORT_CFG_EN n = false ∨ 2 ≤ plState n s)) ∧
    (∃ (a : Access) (n : Nat) (v : Word) (s : State), n < 8 ∧ Allowed a true .PL_PORT_CFG n s ∧
    s.b F.PL_PORT_CFG_EN n = false ∧ vset F.PL_PORT_CFG_EN v = true ∧ fget F.PL_PORT_CFG_ROLE v ≠ 1) ∧
    (∃ (a : Access) (n : Nat) (v : Word) (s : State), n < 8 ∧ Allowed a true .PL_PORT_CFG n s ∧
    s.b F.PL_PORT_CFG_EN n = true ∧ vset F.PL_PORT_CFG_EN v = false ∧ plRole n s ≠ 1 ∧ plState n s ≠ 0) ∧
    (∃ (a : Access) (n : Nat) (v : Word) (s : State), n < 8 ∧ Allowed a true .PL_PORT_CFG n s ∧
    s.b F.PL_PORT_CFG_EN n = false ∧ fget F.PL_PORT_CFG_ROLE v = 1 ∧
    ((List.range 8).any fun k => k != n && plRole k s == 1) = true) ∧
    (∃ (a : Access) (n : Nat) (v : Word) (s : State), n < 8 ∧ Allowed a true .PL_PORT_CMD n s ∧
    vset F.PL_PORT_CMD_RETRAIN v = true ∧ s.b F.PL_PORT_CFG_EN n = true) ∧
    (∃ (a : Access) (n : Nat) (v : Word) (s : State), n < 8 ∧ Allowed a true .PL_PORT_CMD n s ∧
    vset F.PL_PORT_CMD_REJOIN v = true ∧ vset F.PL_PORT_CMD_RETRAIN v = false ∧ plState n s = 3) ∧
    (∃ (a : Access) (n : Nat) (v : Word) (s : State), n < 8 ∧ Allowed a true .PL_PORT_CMD n s ∧
    vset F.PL_PORT_CMD_RETRAIN v = true ∧ s.b F.PL_PORT_CFG_EN n = true) ∧
    (∃ (a : Access) (n : Nat) (v : Word) (s : State), n < 8 ∧ Allowed a true .PL_PORT_CMD n s ∧
    vset F.PL_PORT_CMD_REJOIN v = true ∧ vset F.PL_PORT_CMD_RETRAIN v = false ∧ plState n s = 3) ∧
    (∃ (n : Nat) (s : State), n < 8 ∧ plState n s ≠ 0) ∧
    (∃ (n : Nat) (s : State), plState n s = 0) ∧
    (∃ (n : Nat) (s : State), s.b F.PL_CTRL_PHASE_EN 0 = true ∧ plRole n s = 2 ∧ 2 ≤ plState n s ∧
    (s.frameAt.all fun u => decide (framePeriod s ≤ (s.tb - u).toNat)) = true ∧ n < 8) ∧
    (∃ (u : Word) (s : State), s.frameAt = some u ∧ (s.tb - u).toNat < framePeriod s) ∧
    (∃ (s : State), s.b F.PL_CTRL_PHASE_EN 0 = false) ∧
    (∃ (n : Nat) (first : Bool) (f : PhFrame) (s : State),
    (plRole n s ≠ 1 ∨ plState n s < 2 ∨ first = false ∨ f.dvalid = false)) ∧
    (∃ (n : Nat) (f : PhFrame) (p : Nat) (s : State), plRole n s = 1 ∧ 2 ≤ plState n s ∧ f.dvalid = true ∧ p < 8 ∧
    portKind p s = 4 ∧ s.f F.PHE_PORT_AUX_PLPORT p = n ∧
    ((List.range 8).any fun q => q != p && portKind q s == 4) = false ∧
    f.locked.testBit (s.f F.PHE_PORT_AUX_REMOTE_PH p) = true ∧
    (f.todv[s.f F.PHE_PORT_AUX_REMOTE_PH p]?).getD false = false) ∧
    (∃ (n : Nat) (f : Nat × Word) (s : State), n < 8 ∧
    (s.pl n).frames.find? (fun f => decide (ackLimit < (s.tb - f.2).toNat)) = some f ∧ plRole n s = 2 ∧
    plState n s = 2) ∧
    (∃ (n : Nat) (s : State), (s.pl n).frames = []) :=
  ⟨⟨3, 9, ((State.reset.setF F.PL_PORT_STATUS_STATE 3 2).setPl 3 { exp := 5 }), by decide +kernel⟩,
    ⟨3, 5, 9, { ty := 1, dest := 0, data := 5 }, ((State.reset.setF F.PL_PORT_STATUS_STATE 3 2).setPl 3 { exp := 5 }),
    by decide +kernel⟩,
    ⟨3, false, 0, ((State.reset.setF F.PL_PORT_STATUS_STATE 3 2).setPl 3 { exp := 5 }), by decide +kernel⟩,
    ⟨3, State.reset, by decide +kernel⟩,
    ⟨3, 4095, ((State.reset.setF F.PL_PORT_STATUS_STATE 3 2).setPl 3 { exp := 5 }), by decide +kernel⟩,
    ⟨3, 4095, ((State.reset.setF F.PL_PORT_STATUS_STATE 3 2).setPl 3 { exp := 5, naks := 7 }), by decide +kernel⟩,
    ⟨3, State.reset, by decide +kernel⟩,
    ⟨3, 7, 1, ((State.reset.setB F.PL_PORT_CFG_EN 3 true).setF F.PL_PORT_CFG_ROLE 3 2), by decide +kernel⟩,
    ⟨3, 0, ((State.reset.setB F.PL_PORT_CFG_EN 3 true).setF F.PL_PORT_CFG_ROLE 3 2), by decide +kernel⟩,
    ⟨3, 7, 2, ((State.reset.setB F.PL_PORT_CFG_EN 3 true).setF F.PL_PORT_CFG_ROLE 3 2), by decide +kernel⟩,
    ⟨3, false, ((State.reset.setB F.PL_PORT_CFG_EN 3 true).setF F.PL_PORT_CFG_ROLE 3 2), by decide +kernel⟩,
    ⟨accS, 3, (fset F.PL_PORT_CFG_ROLE (fset F.PL_PORT_CFG_EN 0 1) 2), State.reset, by decide +kernel⟩,
    ⟨accS, 3, 0#64,
    ((State.reset.setB F.PL_PORT_CFG_EN 3 true).setF F.PL_PORT_CFG_ROLE 3 2).setF F.PL_PORT_STATUS_STATE 3 2,
    by decide +kernel⟩,
    ⟨accS, 3, (fset F.PL_PORT_CFG_ROLE 0 1), (State.reset.setF F.PL_PORT_CFG_ROLE 5 1), by decide +kernel⟩,
    ⟨accS, 3, (fset F.PL_PORT_CMD_RETRAIN 0 1),
    ((State.reset.setB F.PL_PORT_CFG_EN 3 true).setF F.PL_PORT_CFG_ROLE 3 2), by decide +kernel⟩,
    ⟨accS, 3, (fset F.PL_PORT_CMD_REJOIN 0 1),
    ((State.reset.setB F.PL_PORT_CFG_EN 3 true).setF F.PL_PORT_CFG_ROLE 3 2).setF F.PL_PORT_STATUS_STATE 3 3,
    by decide +kernel⟩,
    ⟨accS, 3, (fset F.PL_PORT_CMD_RETRAIN 0 1),
    ((State.reset.setB F.PL_PORT_CFG_EN 3 true).setF F.PL_PORT_CFG_ROLE 3 2), by decide +kernel⟩,
    ⟨accS, 3, (fset F.PL_PORT_CMD_REJOIN 0 1),
    ((State.reset.setB F.PL_PORT_CFG_EN 3 true).setF F.PL_PORT_CFG_ROLE 3 2).setF F.PL_PORT_STATUS_STATE 3 3,
    by decide +kernel⟩,
    ⟨3, (State.reset.setF F.PL_PORT_STATUS_STATE 3 2), by decide +kernel⟩,
    ⟨3, State.reset, by decide +kernel⟩,
    ⟨3,
    ((((State.reset.setB F.PL_PORT_CFG_EN 3 true).setF F.PL_PORT_CFG_ROLE 3 2).setF F.PL_PORT_STATUS_STATE 3 2).setB
      F.PL_CTRL_PHASE_EN 0 true),
    by decide +kernel⟩,
    ⟨0, { State.reset with frameAt := some 0 }, by decide +kernel⟩,
    ⟨State.reset, by decide +kernel⟩,
    ⟨3, false,
    { fseq := 1, node := 2, locked := 0, t1 := 5, d := 3, dvalid := true, count := [7], rate := [1], tod := [9], todv := [true] },
    State.reset, by decide +kernel⟩,
    ⟨3,
    { fseq := 1, node := 2, locked := 1, t1 := 5, d := 3, dvalid := true, count := [7], rate := [1], tod := [9], todv := [false] },
    6,
    (((((State.reset.setB F.PL_PORT_CFG_EN 3 true).setF F.PL_PORT_CFG_ROLE 3 2).setF F.PL_PORT_CFG_ROLE 3 1).setF
      F.PL_PORT_STATUS_STATE 3 2).setF F.PHE_PORT_CFG_KIND 6 4).setF F.PHE_PORT_AUX_PLPORT 6 3,
    by decide +kernel⟩,
    ⟨3, (4, State.reset.tb - 50000),
    (((State.reset.setB F.PL_PORT_CFG_EN 3 true).setF F.PL_PORT_CFG_ROLE 3 2).setF F.PL_PORT_STATUS_STATE 3 2).setPl 3
      { frames := [(4, State.reset.tb - 50000)] },
    by decide +kernel⟩,
    ⟨3, State.reset, by decide +kernel⟩⟩

theorem test_met_PalegTraffic :
    (∃ (n : Nat) (i : Nat) (pa : Nat) (c : PlCell) (s : State), smapGet (fun _ => []) s.plIn n = [c] ∧
    s.inQ (8 + n) = [] ∧ s.pkgEnd = none ∧ c.ty = 1 ∧ plIwinOf c.addr c.len s = some i ∧
    plIwin F.PL_IWIN_CTRL_WORLD i s = 0 ∧ plIwin F.PL_IWIN_CTRL_RO i s = 0 ∧
    (c.src ^^^ plIwin F.PL_IWIN_SRC_SRC_ID i s) &&& plIwin F.PL_IWIN_SRC_SRC_MASK i s = 0 ∧ inDram pa s = true ∧
    0 < c.len ∧ c.len ≤ 64 - pa % 64) ∧
    (∃ (n : Nat) (c : PlCell) (s : State), smapGet (fun _ => []) s.plIn n = [c] ∧ s.inQ (8 + n) = [] ∧
    s.pkgEnd = none ∧ n < 8 ∧ c.ty = 1 ∧ plIwinOf c.addr (max 1 c.len) s = none) ∧
    (∃ (n : Nat) (s : State), smapGet (fun _ => []) s.plIn n = []) ∧
    (∃ (n : Nat) (i : Nat) (pa : Nat) (c : PlCell) (s : State), smapGet (fun _ => []) s.plIn n = [c] ∧
    s.inQ (8 + n) = [] ∧ s.pkgEnd = none ∧ c.ty = 2 ∧ plIwinOf c.addr c.len s = some i ∧
    plIwin F.PL_IWIN_CTRL_WORLD i s = 0 ∧ plIwin F.PL_IWIN_CTRL_RO i s = 0 ∧
    (c.src ^^^ plIwin F.PL_IWIN_SRC_SRC_ID i s) &&& plIwin F.PL_IWIN_SRC_SRC_MASK i s = 0 ∧ inDram pa s = true ∧
    0 < c.len ∧ c.len ≤ 64 - pa % 64) ∧
    (∃ (n : Nat) (c : PlCell) (s : State), smapGet (fun _ => []) s.plIn n = [c] ∧ s.inQ (8 + n) = [] ∧
    s.pkgEnd = none ∧ n < 8 ∧ c.ty = 2 ∧ 0 < c.len ∧ plIwinOf c.addr c.len s = none ∧ plRoute c.src s < 8 ∧
    c.src ≠ plSelf s) ∧
    (∃ (n : Nat) (s : State), smapGet (fun _ => []) s.plIn n = []) ∧
    (∃ (n : Nat) (c : PlCell) (x : PlTx) (s : State), smapGet (fun _ => []) s.plIn n = [c] ∧ c.ty = 3 ∧ s.plTx = [x] ∧
    x.rd = true ∧ x.tag = c.tag ∧ x.port = n ∧ x.p.op = .rdIO ∧ s.plWait = []) ∧
    (∃ (n : Nat) (c : PlCell) (s : State), n < 8 ∧ smapGet (fun _ => []) s.plIn n = [c] ∧ c.ty = 3 ∧
    (s.plTx.any fun x => x.rd && x.tag == c.tag) = false) ∧
    (∃ (n : Nat) (g : Nat) (x : PlTx) (s : State), s.plTx = [x] ∧ x.rd = true ∧ x.tag = g ∧ x.port = n ∧
    x.p.op = .rdIO ∧ s.plWait = [] ∧ tbMicro * max 1 (s.f F.PL_CTRL_CTO 0) ≤ (s.tb - x.t0).toNat) ∧
    (∃ (s : State), (s.plTx.all fun x => decide ((s.tb - x.t0).toNat < tbMicro)) = true) ∧
    (∃ (n : Nat) (g : Nat) (s : State), (s.plTx.any fun x => x.rd && x.tag == g && x.port == n) = false) ∧
    (∃ (a : Access) (v : Word) (s : State), Allowed a true .PL_MSG_TX 0 s ∧ fget F.PL_MSG_TX_MSGTYPE v ≠ 15 ∧
    s.b F.PL_PORT_CFG_MODE (fget F.PL_MSG_TX_PLPORT v) = false ∧ plState (fget F.PL_MSG_TX_PLPORT v) s = 2) ∧
    (∃ (a : Access) (v : Word) (s : State), Allowed a true .PL_MSG_TX 0 s ∧ fget F.PL_MSG_TX_MSGTYPE v ≠ 15 ∧
    s.b F.PL_PORT_CFG_MODE (fget F.PL_MSG_TX_PLPORT v) = false ∧ plState (fget F.PL_MSG_TX_PLPORT v) s < 2 ∧
    (smapGet (fun _ => []) s.plQ (fget F.PL_MSG_TX_PLPORT v)).length < 64) ∧
    (∃ (a : Access) (v : Word) (s : State), Allowed a true .PL_MSG_TX 0 s ∧ fget F.PL_MSG_TX_MSGTYPE v ≠ 15 ∧
    s.b F.PL_PORT_CFG_MODE (fget F.PL_MSG_TX_PLPORT v) = false ∧ plState (fget F.PL_MSG_TX_PLPORT v) s = 3) ∧
    (∃ (a : Access) (v : Word) (s : State), Allowed a true .PL_MSG_TX 0 s ∧ fget F.PL_MSG_TX_MSGTYPE v = 15 ∧
    s.f F.PL_PORT_CFG_ROLE (fget F.PL_MSG_TX_PLPORT v) ≠ 2) ∧
    (∃ (n : Nat) (c : PlCell) (s : State), smapGet (fun _ => []) s.plIn n = [c] ∧ c.ty = 4 ∧ msgType c < 15 ∧
    s.f F.PL_MSG_MAP_ACTION (msgType c) = 0) ∧
    (∃ (n : Nat) (c : PlCell) (s : State), smapGet (fun _ => []) s.plIn n = [c] ∧ c.ty = 4 ∧ msgType c < 15 ∧
    s.f F.PL_MSG_MAP_ACTION (msgType c) = 1 ∧ s.b F.PL_MSG_MAP_WORLD (msgType c) = false ∧
    (smapGet (fun _ => []) s.plRx 0).length < 32) ∧
    (∃ (n : Nat) (c : PlCell) (s : State), smapGet (fun _ => []) s.plIn n = [c] ∧ c.ty = 4 ∧ msgType c < 15 ∧
    s.f F.PL_MSG_MAP_ACTION (msgType c) = 1 ∧ s.b F.PL_MSG_MAP_WORLD (msgType c) = false ∧
    32 ≤ (smapGet (fun _ => []) s.plRx 0).length) ∧
    (∃ (n : Nat) (c : PlCell) (s : State), smapGet (fun _ => []) s.plIn n = [c] ∧ c.ty = 4 ∧ msgType c < 15 ∧
    s.f F.PL_MSG_MAP_ACTION (msgType c) = 2 ∧ s.b F.PL_MSG_MAP_WORLD (msgType c) = false ∧
    s.b F.PL_MSG_MAP_MACHINE (msgType c) = false ∧ s.f F.PL_MSG_MAP_FILE (msgType c) = 0) ∧
    (∃ (n : Nat) (c : PlCell) (s : State), smapGet (fun _ => []) s.plIn n = [c] ∧ c.ty = 4 ∧ msgType c < 15 ∧
    s.f F.PL_MSG_MAP_ACTION (msgType c) = 3 ∧ s.b F.PL_MSG_MAP_WORLD (msgType c) = false) ∧
    (∃ (n : Nat) (s : State), smapGet (fun _ => []) s.plIn n = []) ∧
    (∃ (a : Access) (w : Bool) (r : Word × Word) (q : List (Word × Word)) (s : State),
    Allowed a false .PL_MSG_RX (if w then 1 else 0) s ∧ smapGet (fun _ => []) s.plRx (if w then 1 else 0) = r :: q) ∧
    (∃ (a : Access) (w : Bool) (s : State), Allowed a false .PL_MSG_RX (if w then 1 else 0) s ∧
    smapGet (fun _ => []) s.plRx (if w then 1 else 0) = []) ∧
    (∃ (a : Access) (i : Nat) (v : Word) (s : State), Allowed a true .PL_IWIN_COMMIT 0 s ∧
    vset F.PL_IWIN_COMMIT_GO v = true ∧ s.b F.PL_IWIN_COMMIT_OLD_BUSY 0 = false ∧ plShadowOverlap s = false ∧ i < 16) ∧
    (∃ (a : Access) (v : Word) (s : State), Allowed a true .PL_IWIN_COMMIT 0 s ∧ vset F.PL_IWIN_COMMIT_GO v = true ∧
    (s.b F.PL_IWIN_COMMIT_OLD_BUSY 0 = true ∨ plShadowOverlap s = true)) ∧
    (∃ (s : State), s.b F.PL_IWIN_COMMIT_OLD_BUSY 0 = true ∧
    ((List.range 8).any fun n => (s.inQ (8 + n)).any (·.old)) = false) ∧
    (∃ (s : State), ((List.range 8).any fun n => (s.inQ (8 + n)).any (·.old)) = true) :=
  ⟨⟨3, 0, 0x1000, { ty := 1, src := 9, dest := 0, tag := 4, addr := 0x40, len := 8, mask := 255, data := 0x1234 },
    { ((State.reset.setPl 3 {})) with plIn := [(3, [{ ty := 1, src := 9, dest := 0, tag := 4, addr := 0x40, len := 8, mask := 255, data := 0x1234 }])], iwinCur := [((Reg.PL_IWIN_CTRL).key 0, fset F.PL_IWIN_CTRL_PART (fset F.PL_IWIN_CTRL_SIZE (fset F.PL_IWIN_CTRL_EN 0 1) 16) 5)] },
    by decide +kernel⟩,
    ⟨3, { ty := 1, src := 9, dest := 0, tag := 4, addr := 0x40, len := 8, mask := 255, data := 0x1234 },
    { State.reset with plIn := [(3, [{ ty := 1, src := 9, dest := 0, tag := 4, addr := 0x40, len := 8, mask := 255, data := 0x1234 }])] },
    by decide +kernel⟩,
    ⟨3, State.reset, by decide +kernel⟩,
    ⟨3, 0, 0x1000, { ty := 2, src := 9, dest := 0, tag := 4, addr := 0x40, len := 8, mask := 255, data := 0x1234 },
    { ((State.reset.setPl 3 {})) with plIn := [(3, [{ ty := 2, src := 9, dest := 0, tag := 4, addr := 0x40, len := 8, mask := 255, data := 0x1234 }])], iwinCur := [((Reg.PL_IWIN_CTRL).key 0, fset F.PL_IWIN_CTRL_PART (fset F.PL_IWIN_CTRL_SIZE (fset F.PL_IWIN_CTRL_EN 0 1) 16) 5)] },
    by decide +kernel⟩,
    ⟨3, { ty := 2, src := 9, dest := 0, tag := 4, addr := 0x40, len := 8, mask := 255, data := 0x1234 },
    { (State.reset.setF F.PL_RT_VAL 9 3) with plIn := [(3, [{ ty := 2, src := 9, dest := 0, tag := 4, addr := 0x40, len := 8, mask := 255, data := 0x1234 }])] },
    by decide +kernel⟩,
    ⟨3, State.reset, by decide +kernel⟩,
    ⟨3, { ty := 3, src := 9, dest := 0, tag := 4, len := 8, data := 0x1234 },
    { port := 3, tag := 4, rd := true, p := { op := .rdIO, src := 20, dst := 0x120, w := true, tag := 6, addr := 0xF000000040, aux := BitVec.ofNat 32 (8 + 7 * 64) } },
    { State.reset with plIn := [(3, [{ ty := 3, src := 9, dest := 0, tag := 4, len := 8, data := 0x1234 }])], plTx := [{ port := 3, tag := 4, rd := true, p := { op := .rdIO, src := 20, dst := 0x120, w := true, tag := 6, addr := 0xF000000040, aux := BitVec.ofNat 32 (8 + 7 * 64) } }] },
    by decide +kernel⟩,
    ⟨3, { ty := 3, src := 9, dest := 0, tag := 4, len := 8, data := 0x1234 },
    { State.reset with plIn := [(3, [{ ty := 3, src := 9, dest := 0, tag := 4, len := 8, data := 0x1234 }])] },
    by decide +kernel⟩,
    ⟨3, 4,
    { port := 3, tag := 4, rd := true, p := { op := .rdIO, src := 20, dst := 0x120, w := true, tag := 6, addr := 0xF000000040, aux := BitVec.ofNat 32 (8 + 7 * 64) } , t0 := 1 },
    { State.reset with plTx := [{ port := 3, tag := 4, rd := true, p := { op := .rdIO, src := 20, dst := 0x120, w := true, tag := 6, addr := 0xF000000040, aux := BitVec.ofNat 32 (8 + 7 * 64) } , t0 := 1 }] },
    by decide +kernel⟩,
    ⟨{ State.reset with plTx := [{ port := 3, tag := 4, rd := true, p := { op := .rdIO, src := 20, dst := 0x120, w := true, tag := 6, addr := 0xF000000040, aux := BitVec.ofNat 32 (8 + 7 * 64) } }] },
    by decide +kernel⟩,
    ⟨3, 4, State.reset, by decide +kernel⟩,
    ⟨accS,
    (fset F.PL_MSG_TX_PAYLOAD (fset F.PL_MSG_TX_DEST (fset F.PL_MSG_TX_PLPORT (fset F.PL_MSG_TX_MSGTYPE 0 2) 3) 9)
      77),
    (State.reset.setF F.PL_PORT_STATUS_STATE 3 2), by decide +kernel⟩,
    ⟨accS,
    (fset F.PL_MSG_TX_PAYLOAD (fset F.PL_MSG_TX_DEST (fset F.PL_MSG_TX_PLPORT (fset F.PL_MSG_TX_MSGTYPE 0 2) 3) 9)
      77),
    (State.reset.setF F.PL_PORT_STATUS_STATE 3 1), by decide +kernel⟩,
    ⟨accS,
    (fset F.PL_MSG_TX_PAYLOAD (fset F.PL_MSG_TX_DEST (fset F.PL_MSG_TX_PLPORT (fset F.PL_MSG_TX_MSGTYPE 0 2) 3) 9)
      77),
    (State.reset.setF F.PL_PORT_STATUS_STATE 3 3), by decide +kernel⟩,
    ⟨accS, (fset F.PL_MSG_TX_MSGTYPE 0 15), State.reset, by decide +kernel⟩,
    ⟨3, { ty := 4, w := true, src := 9, dest := 0, addr := 0x200001234 },
    { (State.reset.setF F.PL_MSG_MAP_ACTION 2 0) with plIn := [(3, [{ ty := 4, w := true, src := 9, dest := 0, addr := 0x200001234 }])] },
    by decide +kernel⟩,
    ⟨3, { ty := 4, w := true, src := 9, dest := 0, addr := 0x200001234 },
    { (State.reset.setF F.PL_MSG_MAP_ACTION 2 1) with plIn := [(3, [{ ty := 4, w := true, src := 9, dest := 0, addr := 0x200001234 }])] },
    by decide +kernel⟩,
    ⟨3, { ty := 4, w := true, src := 9, dest := 0, addr := 0x200001234 },
    { (State.reset.setF F.PL_MSG_MAP_ACTION 2 1) with plIn := [(3, [{ ty := 4, w := true, src := 9, dest := 0, addr := 0x200001234 }])], plRx := [(0, List.replicate 32 (5, 6))] },
    by decide +kernel⟩,
    ⟨3, { ty := 4, w := true, src := 9, dest := 0, addr := 0x200001234 },
    { (State.reset.setF F.PL_MSG_MAP_ACTION 2 2) with plIn := [(3, [{ ty := 4, w := true, src := 9, dest := 0, addr := 0x200001234 }])] },
    by decide +kernel⟩,
    ⟨3, { ty := 4, w := true, src := 9, dest := 0, addr := 0x200001234 },
    { (State.reset.setF F.PL_MSG_MAP_ACTION 2 3) with plIn := [(3, [{ ty := 4, w := true, src := 9, dest := 0, addr := 0x200001234 }])] },
    by decide +kernel⟩,
    ⟨3, State.reset, by decide +kernel⟩,
    ⟨accS, true, (5, 6), [(7, 8)], { State.reset with plRx := [(1, [(5, 6), (7, 8)])] }, by decide +kernel⟩,
    ⟨accS, true, State.reset, by decide +kernel⟩,
    ⟨accS, 5, (fset F.PL_IWIN_COMMIT_GO 0 1), (State.reset.setF F.PL_IWIN_TARGET_VAL 5 99), by decide +kernel⟩,
    ⟨accS, (fset F.PL_IWIN_COMMIT_GO 0 1), (State.reset.setB F.PL_IWIN_COMMIT_OLD_BUSY 0 true), by decide +kernel⟩,
    ⟨(State.reset.setB F.PL_IWIN_COMMIT_OLD_BUSY 0 true), by decide +kernel⟩,
    ⟨{ (State.reset.setB F.PL_IWIN_COMMIT_OLD_BUSY 0 true) with inq := [(11, [{ t := { kind := .mrd }, old := true }])] },
    by decide +kernel⟩⟩

theorem test_met_JtagPort :
    (∃ (s : State), s.aonOff = false) ∧
    (∃ (i : Nat) (s : State), s.aonOff = false ∧ (s.tap.ir = 0x00 ∨ s.tap.ir = 0x03) ∧ i < 64) ∧
    (∃ (s : State), s.aonOff = false) ∧
    (∃ (s : State), s.aonOff = false) ∧
    (∃ (s : State), s.aonOff = false ∧ pkgRuns s = true ∧ boundGate s = true) ∧
    (∃ (s : State), s.aonOff = false ∧ pkgRuns s = true ∧ boundGate s = false) ∧
    (∃ (s : State), s.aonOff = false ∧ pkgRuns s = false) ∧
    (∃ (s : State), s.aonOff = false ∧ pkgRuns s = true ∧ boundGate s = true) ∧
    (∃ (s : State), s.aonOff = false ∧ pkgRuns s = true ∧ boundGate s = false) ∧
    (∃ (s : State), s.aonOff = false ∧ pkgRuns s = false) ∧
    (∃ (s : State), s.aonOff = false ∧ pkgRuns s = true ∧ boundGate s = true) ∧
    (∃ (s : State), s.aonOff = false ∧ pkgRuns s = true ∧ boundGate s = false) ∧
    (∃ (s : State), s.aonOff = false ∧ pkgRuns s = true ∧ boundGate s = true) ∧
    (∃ (s : State), s.aonOff = false ∧ pkgRuns s = true ∧ boundGate s = false) ∧
    (∃ (s : State), s.aonOff = false ∧ pkgRuns s = true) ∧
    (∃ (s : State), s.aonOff = false ∧ pkgRuns s = true) ∧
    (∃ (s : State), s.aonOff = false ∧ pkgRuns s = true ∧ (effNI false s || effNI true s) = true) ∧
    (∃ (s : State), s.aonOff = false ∧ pkgRuns s = true ∧ (effNI false s || effNI true s) = false) ∧
    (∃ (s : State), s.aonOff = false ∧ pkgRuns s = true ∧ s.tap.sib = 0) ∧
    (∃ (s : State), s.aonOff = false ∧ s.b F.HELM_MB_STATUS_BUSY 4 = false ∧ s.b F.HELM_MB_STATUS_DONE 4 = false ∧
    s.tap.hmWr < 134) ∧
    (∃ (s : State), s.aonOff = false ∧ s.b F.HELM_MB_STATUS_BUSY 4 = false ∧ s.b F.HELM_MB_STATUS_DONE 4 = false ∧
    s.helm.holding = true ∧ s.helm.cur = none) ∧
    (∃ (submit : Bool) (s : State), s.aonOff = false ∧ s.b F.HELM_MB_STATUS_DONE 4 = true ∧
    s.b F.HELM_MB_STATUS_BUSY 4 = false ∧ submit = false ∧ s.f F.HELM_MB_STATUS_RSP_LEN 4 ≤ 8 * (s.tap.hmRd + 1) ∧
    s.tap.hmRd < 134) ∧
    (∃ (n : Nat) (s : State), s.aonOff = false ∧ pkgRuns s = true ∧ n < 12 ∧ s.fbit F.DBG_STATUS_CHAIN 0 n = true ∧
    testGate n s = true) ∧
    (∃ (n : Nat) (s : State), s.aonOff = false ∧ pkgRuns s = true ∧ n < 12 ∧ s.fbit F.DBG_STATUS_CHAIN 0 n = true ∧
    testGate n s = false) ∧
    (∃ (n : Nat) (s : State), s.aonOff = false ∧ pkgRuns s = true ∧ n < 12 ∧ s.fbit F.DBG_STATUS_CHAIN 0 n = true ∧
    testGate n s = true) ∧
    (∃ (n : Nat) (s : State), s.aonOff = false ∧ pkgRuns s = true ∧ n < 12 ∧ s.fbit F.DBG_STATUS_CHAIN 0 n = true ∧
    testGate n s = false) ∧
    (∃ (n : Nat) (s : State), s.aonOff = false ∧ pkgRuns s = true ∧ n < 12 ∧ s.fbit F.DBG_STATUS_CHAIN 0 n = true ∧
    testGate n s = true) ∧
    (∃ (n : Nat) (s : State), s.aonOff = false ∧ pkgRuns s = true ∧ n < 12 ∧ s.fbit F.DBG_STATUS_CHAIN 0 n = true ∧
    testGate n s = false) ∧
    (∃ (n : Nat) (s : State), s.aonOff = false ∧ pkgRuns s = true ∧ n < 12 ∧ s.fbit F.DBG_STATUS_CHAIN 0 n = true ∧
    testGate n s = true) ∧
    (∃ (n : Nat) (s : State), s.aonOff = false ∧ pkgRuns s = true ∧ n < 12 ∧ s.fbit F.DBG_STATUS_CHAIN 0 n = true ∧
    testGate n s = false) ∧
    (∃ (n : Nat) (s : State), s.aonOff = false ∧ pkgRuns s = true ∧ n < 12 ∧ s.fbit F.DBG_STATUS_CHAIN 0 n = true) ∧
    (∃ (n : Nat) (s : State), s.aonOff = false ∧ pkgRuns s = true ∧ n < 12 ∧ s.fbit F.DBG_STATUS_CHAIN 0 n = true) ∧
    (∃ (n : Nat) (s : State), s.fbit F.DBG_STATUS_CHAIN 0 n = false) ∧
    (∃ (n : Nat) (s : State), s.fbit F.DBG_STATUS_CHAIN 0 n = false) ∧
    (∃ (n : Nat) (s : State), s.fbit F.DBG_STATUS_CHAIN 0 n = false) ∧
    (∃ (n : Nat) (s : State), s.fbit F.DBG_STATUS_CHAIN 0 n = false) ∧
    (∃ (n : Nat) (s : State), s.fbit F.DBG_STATUS_CHAIN 0 n = false) ∧
    (∃ (n : Nat) (s : State), s.fbit F.DBG_STATUS_CHAIN 0 n = false) ∧
    (∃ (a : Access) (v : Word) (n : Nat) (s : State), Allowed a true .DBG_TEST_HOLD 0 s ∧ s.pkgEnd = none ∧ n < 12 ∧
    smapGet (fun _ => none) s.dieTrans n = none ∧
    ((List.range 12).all fun m => m == n || v.getLsbD m == s.fbit F.DBG_TEST_HOLD_VAL 0 m) = true ∧
    v.getLsbD n ≠ s.fbit F.DBG_TEST_HOLD_VAL 0 n ∧ s.f F.PWR_DIE_STATE n = 2) ∧
    (∃ (a : Access) (v : Word) (n : Nat) (s : State), Allowed a true .DBG_TEST_HOLD 0 s ∧ s.pkgEnd = none ∧ n < 12 ∧
    smapGet (fun _ => none) s.dieTrans n = none ∧
    ((List.range 12).all fun m => m == n || v.getLsbD m == s.fbit F.DBG_TEST_HOLD_VAL 0 m) = true ∧
    v.getLsbD n ≠ s.fbit F.DBG_TEST_HOLD_VAL 0 n ∧ s.f F.PWR_DIE_STATE n = 0) ∧
    (∃ (a : Access) (v : Word) (n : Nat) (s : State), Allowed a true .DBG_TEST_HOLD 0 s ∧ n < 12 ∧
    (smapGet (fun _ => none) s.dieTrans n).isSome = true ∧
    ((List.range 12).all fun m => m == n || v.getLsbD m == s.fbit F.DBG_TEST_HOLD_VAL 0 m) = true ∧
    v.getLsbD n = true) :=
  ⟨⟨State.reset, by decide +kernel⟩,
    ⟨5, { State.reset with tap := { ir := 0 } }, by decide +kernel⟩,
    ⟨State.reset, by decide +kernel⟩,
    ⟨State.reset, by decide +kernel⟩,
    ⟨(((State.reset.setF F.PWR_STATUS_PKG_STATE 0 0).setF F.ST_STATUS_PHASE 0 8).setB F.WC_DBG_SI 0 true),
    by decide +kernel⟩,
    ⟨(State.reset.setF F.PWR_STATUS_PKG_STATE 0 0), by decide +kernel⟩,
    ⟨(State.reset.setF F.PWR_STATUS_PKG_STATE 0 2), by decide +kernel⟩,
    ⟨(((State.reset.setF F.PWR_STATUS_PKG_STATE 0 0).setF F.ST_STATUS_PHASE 0 8).setB F.WC_DBG_SI 0 true),
    by decide +kernel⟩,
    ⟨(State.reset.setF F.PWR_STATUS_PKG_STATE 0 0), by decide +kernel⟩,
    ⟨(State.reset.setF F.PWR_STATUS_PKG_STATE 0 2), by decide +kernel⟩,
    ⟨(((State.reset.setF F.PWR_STATUS_PKG_STATE 0 0).setF F.ST_STATUS_PHASE 0 8).setB F.WC_DBG_SI 0 true),
    by decide +kernel⟩,
    ⟨(State.reset.setF F.PWR_STATUS_PKG_STATE 0 0), by decide +kernel⟩,
    ⟨(((State.reset.setF F.PWR_STATUS_PKG_STATE 0 0).setF F.ST_STATUS_PHASE 0 8).setB F.WC_DBG_SI 0 true),
    by decide +kernel⟩,
    ⟨(State.reset.setF F.PWR_STATUS_PKG_STATE 0 0), by decide +kernel⟩,
    ⟨(State.reset.setF F.PWR_STATUS_PKG_STATE 0 0), by decide +kernel⟩,
    ⟨(State.reset.setF F.PWR_STATUS_PKG_STATE 0 0), by decide +kernel⟩,
    ⟨(((State.reset.setF F.PWR_STATUS_PKG_STATE 0 0).setF F.ST_STATUS_PHASE 0 8).setB F.WC_DBG_SI 0 true).setF F.PWR_DIE_STATE 2 2,
    by decide +kernel⟩,
    ⟨(((State.reset.setF F.PWR_STATUS_PKG_STATE 0 0).setF F.WC_DBG_SI 0 0).setF F.WC_DBG_OI 0 0), by decide +kernel⟩,
    ⟨(State.reset.setF F.PWR_STATUS_PKG_STATE 0 0).setR .HELM_STATUS 0 0, by decide +kernel⟩,
    ⟨State.reset, by decide +kernel⟩,
    ⟨{ State.reset with helm := { holding := true }, tap := { hmWr := 3 } }, by decide +kernel⟩,
    ⟨false, ((State.reset.setB F.HELM_MB_STATUS_DONE 4 true).setF F.HELM_MB_STATUS_RSP_LEN 4 8), by decide +kernel⟩,
    ⟨2,
    ((((State.reset.setF F.PWR_STATUS_PKG_STATE 0 0).setFbit F.DBG_STATUS_CHAIN 0 2 true).setFbit F.DBG_TEST_HOLD_VAL
      0 2 true).setF F.PWR_DIE_STATE 2 2).setB F.WC_DBG_SI 0 true,
    by decide +kernel⟩,
    ⟨2, (State.reset.setF F.PWR_STATUS_PKG_STATE 0 0).setFbit F.DBG_STATUS_CHAIN 0 2 true, by decide +kernel⟩,
    ⟨2,
    ((((State.reset.setF F.PWR_STATUS_PKG_STATE 0 0).setFbit F.DBG_STATUS_CHAIN 0 2 true).setFbit F.DBG_TEST_HOLD_VAL
      0 2 true).setF F.PWR_DIE_STATE 2 2).setB F.WC_DBG_SI 0 true,
    by decide +kernel⟩,
    ⟨2, (State.reset.setF F.PWR_STATUS_PKG_STATE 0 0).setFbit F.DBG_STATUS_CHAIN 0 2 true, by decide +kernel⟩,
    ⟨2,
    ((((State.reset.setF F.PWR_STATUS_PKG_STATE 0 0).setFbit F.DBG_STATUS_CHAIN 0 2 true).setFbit F.DBG_TEST_HOLD_VAL
      0 2 true).setF F.PWR_DIE_STATE 2 2).setB F.WC_DBG_SI 0 true,
    by decide +kernel⟩,
    ⟨2, (State.reset.setF F.PWR_STATUS_PKG_STATE 0 0).setFbit F.DBG_STATUS_CHAIN 0 2 true, by decide +kernel⟩,
    ⟨2,
    ((((State.reset.setF F.PWR_STATUS_PKG_STATE 0 0).setFbit F.DBG_STATUS_CHAIN 0 2 true).setFbit F.DBG_TEST_HOLD_VAL
      0 2 true).setF F.PWR_DIE_STATE 2 2).setB F.WC_DBG_SI 0 true,
    by decide +kernel⟩,
    ⟨2, (State.reset.setF F.PWR_STATUS_PKG_STATE 0 0).setFbit F.DBG_STATUS_CHAIN 0 2 true, by decide +kernel⟩,
    ⟨2, (State.reset.setF F.PWR_STATUS_PKG_STATE 0 0).setFbit F.DBG_STATUS_CHAIN 0 2 true, by decide +kernel⟩,
    ⟨2, (State.reset.setF F.PWR_STATUS_PKG_STATE 0 0).setFbit F.DBG_STATUS_CHAIN 0 2 true, by decide +kernel⟩,
    ⟨2, State.reset, by decide +kernel⟩,
    ⟨2, State.reset, by decide +kernel⟩,
    ⟨2, State.reset, by decide +kernel⟩,
    ⟨2, State.reset, by decide +kernel⟩,
    ⟨2, State.reset, by decide +kernel⟩,
    ⟨2, State.reset, by decide +kernel⟩,
    ⟨accS, 4#64, 2, (State.reset.setF F.PWR_DIE_STATE 2 2), by decide +kernel⟩,
    ⟨accS, 4#64, 2, State.reset, by decide +kernel⟩,
    ⟨accS, 4#64, 2, { (State.reset.setF F.PWR_DIE_STATE 2 3) with dieTrans := [(2, some { kind := 3 })] },
    by decide +kernel⟩⟩

theorem test_met_DebugModule :
    (∃ (h : Nat) (s : State), hartExists h s = true ∧ (s.hart h).halted = false ∧
    ((List.range 8).all fun k => (s.hart h).c (0x1000 + k) == 0xF000000000000000) = true ∧ (s.hart h).st = .run ∧
    (s.hart h).stall = .none ∧ (s.hart h).loads = [] ∧ (s.hart h).trap = none ∧ (s.hart h).start = none ∧
    dieOn (hartDie h s) s = true ∧ effI (s.hart h).w s = true) ∧
    (∃ (h : Nat) (s : State), hartExists h s = true ∧ (s.hart h).halted = false ∧
    ((List.range 8).all fun k => (s.hart h).c (0x1000 + k) == 0xF000000000000000) = true ∧ (s.hart h).st = .run ∧
    (s.hart h).stall = .none ∧ (s.hart h).loads = [] ∧ (s.hart h).trap = none ∧ (s.hart h).start = none ∧
    dieOn (hartDie h s) s = true ∧ effI (s.hart h).w s = false) ∧
    (∃ (h : Nat) (s : State), (hartExists h s = false ∨ (s.hart h).halted = true)) ∧
    (∃ (h : Nat) (s : State), hartExists h s = true ∧ (s.hart h).halted = true) ∧
    (∃ (h : Nat) (s : State), (hartExists h s = false ∨ (s.hart h).halted = false)) ∧
    (∃ (s : State), s.dbg.held.isSome = true ∧ s.dbg.cmderr = 0) ∧
    (∃ (c : Nat) (s : State), s.dbg.held = none ∧ s.dbg.cmderr = 0 ∧ c / 2 ^ 24 ≠ 0) ∧
    (∃ (c : Nat) (s : State), s.dbg.held = none ∧ s.dbg.cmderr = 0 ∧ c / 2 ^ 24 = 0 ∧ c.testBit 19 = false ∧
    c / 2 ^ 20 % 8 = 3 ∧ (hartExists s.dbg.hartsel s = false ∨ (s.hart s.dbg.hartsel).halted = false)) ∧
    (∃ (c : Nat) (s : State), s.dbg.held = none ∧ s.dbg.cmderr = 0 ∧ c / 2 ^ 24 = 0 ∧ c.testBit 19 = false ∧
    c / 2 ^ 20 % 8 = 3 ∧ hartExists s.dbg.hartsel s = true ∧ (s.hart s.dbg.hartsel).halted = true ∧
    effI (s.hart s.dbg.hartsel).w s = false) ∧
    (∃ (c : Nat) (k : Nat) (s : State), s.dbg.held = none ∧ s.dbg.cmderr = 0 ∧ c / 2 ^ 24 = 0 ∧ c.testBit 19 = false ∧
    c / 2 ^ 20 % 8 = 3 ∧ c.testBit 17 = true ∧ c.testBit 18 = false ∧ c % 65536 = 0x1000 + k ∧ 1 ≤ k ∧ k < 32 ∧
    hartExists s.dbg.hartsel s = true ∧ (s.hart s.dbg.hartsel).halted = true ∧ effI (s.hart s.dbg.hartsel).w s = true) ∧
    (∃ (s : State), s.aonOff = false ∧ pkgRuns s = true ∧ dmAuth s = true ∧ s.dbg.active = true) ∧
    (∃ (s : State), s.aonOff = false ∧ pkgRuns s = true ∧ dmAuth s = true ∧ s.dbg.active = true) ∧
    (∃ (s : State), s.aonOff = false ∧ pkgRuns s = true) ∧
    (∃ (x : Nat) (s : State), s.aonOff = false ∧ pkgRuns s = true ∧ dmAuth s = false ∧ x % 128 ≠ 0x10) ∧
    (∃ (v : Nat) (s : State), s.aonOff = false ∧ pkgRuns s = true ∧ v % 2 = 0 ∧ v < 2 ^ 32) ∧
    (∃ (x : Nat) (z : Nat) (s : State), s.dbg.sbBusy = false ∧ s.dbg.sbErr = 0 ∧ s.dbg.sbBusyErr = false ∧
    dmAuth s = true ∧ z ≤ 3 ∧ x < 2 ^ 48 ∧ x % 2 ^ z = 0 ∧ inDram x s = true) ∧
    (∃ (s : State), s.dbg.sbBusy = true) ∧
    (∃ (z : Nat) (s : State), s.dbg.sbBusy = false ∧ s.dbg.sbErr = 0 ∧ s.dbg.sbBusyErr = false ∧ dmAuth s = true ∧
    3 < z) ∧
    (∃ (x : Nat) (z : Nat) (s : State), s.dbg.sbBusy = false ∧ s.dbg.sbErr = 0 ∧ s.dbg.sbBusyErr = false ∧
    dmAuth s = true ∧ z ≤ 3 ∧ x < 2 ^ 48 ∧ x % 2 ^ z ≠ 0) ∧
    (∃ (n : Nat) (s : State), n < 12 ∧ 4 ≤ (smapGet (fun _ => []) s.ctrFifo n).length ∧ s.b F.CTR_CTRL_DEST n = true ∧
    s.b F.CTR_CTRL_FULL n = false ∧ s.b F.CTR_CTRL_ERR n = false ∧
    (s.coreTrace.any fun x => x.1 / 20 == n && !x.2.stage.isEmpty) = false ∧
    s.f F.CTR_BASE_VAL n + s.f F.CTR_PTR_WRPTR n < s.f F.CTR_LIMIT_VAL n) ∧
    (∃ (n : Nat) (s : State), n < 12 ∧ 4 ≤ (smapGet (fun _ => []) s.ctrFifo n).length ∧ s.b F.CTR_CTRL_DEST n = true ∧
    s.b F.CTR_CTRL_FULL n = false ∧ s.b F.CTR_CTRL_ERR n = false ∧
    (s.coreTrace.any fun x => x.1 / 20 == n && !x.2.stage.isEmpty) = false ∧
    s.f F.CTR_LIMIT_VAL n ≤ s.f F.CTR_BASE_VAL n + s.f F.CTR_PTR_WRPTR n) ∧
    (∃ (n : Nat) (s : State), s.b F.CTR_CTRL_FULL n = true) ∧
    (∃ (a : Access) (n : Nat) (s : State), n < 12 ∧ Allowed a false .CTR_BUF_DATA n s) :=
  ⟨⟨0,
    (((runS.setR .FAB_HART_POS 0 (fset F.FAB_HART_POS_VALID 0 1)).setB F.WC_DBG_SI 0 true).onHart 0 fun t =>
      { t with pc := 0x1234 }),
    by decide +kernel⟩,
    ⟨0,
    (((runS.setR .FAB_HART_POS 0 (fset F.FAB_HART_POS_VALID 0 1)).setB F.WC_DBG_SI 0 true).onHart 0 fun t =>
      { t with pc := 0x1234 }).setB F.WC_DBG_SI 0 false,
    by decide +kernel⟩,
    ⟨0, (State.reset.setR .FAB_HART_POS 0 0), by decide +kernel⟩,
    ⟨0,
    ((((runS.setR .FAB_HART_POS 0 (fset F.FAB_HART_POS_VALID 0 1)).setB F.WC_DBG_SI 0 true).onHart 0 fun t =>
      { t with pc := 0x1234 }).onHart 0 fun t => { t with halted := true }),
    by decide +kernel⟩,
    ⟨0, State.reset, by decide +kernel⟩,
    ⟨{ State.reset with dbg := { held := some 3 } }, by decide +kernel⟩,
    ⟨0x01000000, State.reset, by decide +kernel⟩,
    ⟨0x00331005, State.reset, by decide +kernel⟩,
    ⟨0x00331005,
    { { ((((runS.setR .FAB_HART_POS 0 (fset F.FAB_HART_POS_VALID 0 1)).setB F.WC_DBG_SI 0 true).onHart 0 fun t => { t with pc := 0x1234 }).onHart 0 fun t => { (t.setX 5 77) with halted := true }) with dbg := { active := true, data := 99 } } with regs := [] }.setR
      .FAB_HART_POS 0 (fset F.FAB_HART_POS_VALID 0 1),
    by decide +kernel⟩,
    ⟨0x00331005, 5,
    { ((((runS.setR .FAB_HART_POS 0 (fset F.FAB_HART_POS_VALID 0 1)).setB F.WC_DBG_SI 0 true).onHart 0 fun t => { t with pc := 0x1234 }).onHart 0 fun t => { (t.setX 5 77) with halted := true }) with dbg := { active := true, data := 99 } },
    by decide +kernel⟩,
    ⟨{ (((State.reset.setF F.PWR_STATUS_PKG_STATE 0 0).setF F.ST_STATUS_PHASE 0 8).setB F.WC_DBG_SI 0 true) with dbg := { active := true, data := 0x0000000700000005 }, tap := { dmi := 123 } },
    by decide +kernel⟩,
    ⟨{ (((State.reset.setF F.PWR_STATUS_PKG_STATE 0 0).setF F.ST_STATUS_PHASE 0 8).setB F.WC_DBG_SI 0 true) with dbg := { active := true, data := 0x0000000700000005 }, tap := { dmi := 123 } },
    by decide +kernel⟩,
    ⟨{ (((State.reset.setF F.PWR_STATUS_PKG_STATE 0 0).setF F.ST_STATUS_PHASE 0 8).setB F.WC_DBG_SI 0 true) with dbg := { active := true, data := 0x0000000700000005 }, tap := { dmi := 123 } },
    by decide +kernel⟩,
    ⟨4, (State.reset.setF F.PWR_STATUS_PKG_STATE 0 0).setR .WC_DBG 0 0, by decide +kernel⟩,
    ⟨8,
    { (((State.reset.setF F.PWR_STATUS_PKG_STATE 0 0).setF F.ST_STATUS_PHASE 0 8).setB F.WC_DBG_SI 0 true) with dbg := { active := true, data := 0x0000000700000005 }, tap := { dmi := 123 } },
    by decide +kernel⟩,
    ⟨0x1008, 3, (State.reset.setB F.WC_DBG_SI 0 true), by decide +kernel⟩,
    ⟨{ State.reset with dbg := { sbBusy := true } }, by decide +kernel⟩,
    ⟨4, (State.reset.setB F.WC_DBG_SI 0 true), by decide +kernel⟩,
    ⟨0x1004, 3, (State.reset.setB F.WC_DBG_SI 0 true), by decide +kernel⟩,
    ⟨2,
    { ((State.reset.setB F.CTR_CTRL_DEST 2 true).setF F.CTR_LIMIT_VAL 2 10) with ctrFifo := [(2, [(1,2),(3,4),(5,6),(7,8),(9,10)])] },
    by decide +kernel⟩,
    ⟨2,
    { ((State.reset.setB F.CTR_CTRL_DEST 2 true).setF F.CTR_LIMIT_VAL 2 0) with ctrFifo := [(2, [(1,2),(3,4),(5,6),(7,8),(9,10)])] },
    by decide +kernel⟩,
    ⟨2, (State.reset.setB F.CTR_CTRL_FULL 2 true), by decide +kernel⟩,
    ⟨accS, 2, { State.reset with ctrBuf := [(4096, (5, 6))] }, by decide +kernel⟩⟩

theorem test_met_MachineIdRegisters :
    (∃ (i : Issue) (s : State), canSettle i s = true ∧ (s.hart i.hart).priv = 3) ∧
    (∃ (i : Issue) (s : State), canSettle i s = true ∧ (s.hart i.hart).priv = 3) ∧
    (∃ (i : Issue) (s : State), canSettle i s = true ∧ (s.hart i.hart).priv = 3) ∧
    (∃ (i : Issue) (s : State), canSettle i s = true ∧ (s.hart i.hart).priv = 3) :=
  ⟨⟨i0, runS, by decide +kernel⟩,
    ⟨i0, runS, by decide +kernel⟩,
    ⟨i0, runS, by decide +kernel⟩,
    ⟨i0, runS, by decide +kernel⟩⟩

theorem test_met_DieRegistersWhileDown :
    (∃ (n : Nat) (o : Nat) (s : State), n < 12 ∧ dieOn n s = false ∧ o < 0x100000000) ∧
    (∃ (p : Packet) (n : Nat) (s : State), n < 12 ∧ dieOn n s = false ∧
    ioTarget (p.addr + (ioSpan { p with op := .rdIO }).1) s = .die n ∧ s.out = []) ∧
    (∃ (p : Packet) (n : Nat) (s : State), n < 12 ∧ dieOn n s = false ∧
    ioTarget (p.addr + (ioSpan { p with op := .wrIO }).1) s = .die n ∧ s.out = []) ∧
    (∃ (e : Nat) (s : State), e < 252 ∧ dieOn (engDie e) s = false) ∧
    (∃ (e : Nat) (s : State), e < 252 ∧ dieOn (engDie e) s = false) ∧
    (∃ (e : Nat) (s : State), e < 252 ∧ dieOn (engDie e) s = false) ∧
    (∃ (e : Nat) (s : State), e < 252 ∧ dieOn (engDie e) s = false) ∧
    (∃ (np : Nat) (s : State), np < 240 ∧ dieOn (np / 20) s = false) ∧
    (∃ (np : Nat) (s : State), np < 240 ∧ dieOn (np / 20) s = false) ∧
    (∃ (l3 : Bool) (k : Nat) (s : State), dieOn (if l3 then k / 4 else k / 40) s = false) :=
  ⟨⟨11, 0x1000000, State.reset, by decide +kernel⟩,
    ⟨{ op := .rdIO, src := 20, dst := 0x149, w := true, tag := 3, addr := 0xFF2B01000000 }, 11, State.reset,
    by decide +kernel⟩,
    ⟨{ op := .rdIO, src := 20, dst := 0x149, w := true, tag := 3, addr := 0xFF2B01000000 }, 11, State.reset,
    by decide +kernel⟩,
    ⟨239, State.reset, by decide +kernel⟩,
    ⟨239, State.reset, by decide +kernel⟩,
    ⟨239, State.reset, by decide +kernel⟩,
    ⟨239, State.reset, by decide +kernel⟩,
    ⟨239, State.reset, by decide +kernel⟩,
    ⟨239, State.reset, by decide +kernel⟩,
    ⟨true, 47, State.reset, by decide +kernel⟩⟩

theorem test_met_TraceBufferReads :
    (∃ (a : Access) (d : Nat) (s : State), d < 13 ∧ Allowed a false .BAT_BUF_DATA d s) :=
    ⟨accO, 2,
    { (State.reset.setF F.BAT_TRACE_PTR_RDPTR 2 (32 * batBufSize 2 - 8)) with batBuf := [(2 * 2048 + batBufSize 2 - 1, { w0 := 1, w1 := 2, w2 := 3, w3 := 4 })] },
    by decide +kernel⟩

theorem test_met_CaptureReads :
    (∃ (a : Access) (k : Nat) (tb : Word) (ph : Word) (rest : List (Word × Word)) (s : State),
    Allowed a false .TIO_CAP_TB k s ∧ (s.pin k).fifo = (tb, ph) :: rest) ∧
    (∃ (a : Access) (k : Nat) (s : State), Allowed a false .TIO_CAP_TB k s ∧ (s.pin k).fifo = []) :=
  ⟨⟨accO, 3, 5, 6, [(7#64, 8#64)], (State.reset.setPin 3 { fifo := [(5#64, 6#64), (7#64, 8#64)] }),
    by decide +kernel⟩,
    ⟨accO, 3, State.reset, by decide +kernel⟩⟩

theorem test_met_InstructionFrames :
    (∃ (i : Issue) (s : State), (s.hart i.hart).loads = []) ∧
    (∃ (i : Issue) (s : State), (s.hart i.hart).loads = []) ∧
    (∃ (i : Issue) (s : State), (s.hart i.hart).loads = []) ∧
    (∃ (i : Issue) (s : State), (s.hart i.hart).loads = []) ∧
    (∃ (i : Issue) (s : State), (s.hart i.hart).loads = []) :=
  ⟨⟨i0, runS, by decide +kernel⟩,
    ⟨i0, runS, by decide +kernel⟩,
    ⟨i0, runS, by decide +kernel⟩,
    ⟨i0, runS, by decide +kernel⟩,
    ⟨i0, runS, by decide +kernel⟩⟩

theorem test_met_frames : ∃ s t, exec (.zqCalibration 0 0) s = .next t := ⟨State.reset, State.reset, rfl⟩

theorem reset_room : WriteRoom State.reset := fun _ _ => (by decide : 0 < 64)

theorem drain_room : WriteRoom (mcWritesGo (mcDrain 0 (windowRuns 0 State.reset))) := fun k u => by
  rw [show (mcWritesGo (mcDrain 0 (windowRuns 0 State.reset))).wrq = [] by decide +kernel]
  exact (by decide : 0 < 64)

theorem test_met_MemoryFrames :
    (∃ c s t, leavesDram c = true ∧ s.testRun = none ∧ exec c s = .next t ∧ WriteRoom t) ∧
    (∃ addr s t b, s.testRun = none ∧ exec (.writeDrain addr) s = .next t ∧ WriteRoom t ∧ lineStore addr b s = false) ∧
    (∃ a v s t b, exec (.mcInit a v) s = .next t ∧ regionHas (fget F.MC_INIT_REGION v) b s = false) ∧
    (∃ c a s t b, (c = .rawRead a ∨ c = .rawWrite a ∨ c = .encode a ∨ c = .encodePoison a) ∧ s.testRun = none ∧ WriteRoom s ∧
      dirFind (testAddr s) s = none ∧ exec c s = .next t ∧ lineStore (testAddr s) b s = false) :=
  ⟨⟨.mcInitDone, State.reset, State.reset, by decide +kernel, by decide +kernel, rfl, reset_room⟩,
    ⟨0, State.reset, mcWritesGo (mcDrain 0 (windowRuns 0 State.reset)), 64, by decide +kernel, rfl, drain_room, by decide +kernel⟩,
    ⟨accS, 0, State.reset, _, 0, rfl, by decide +kernel⟩,
    ⟨.rawRead accS, accS, State.reset, _, 64, .inl rfl, by decide +kernel, reset_room, by decide +kernel, rfl, by decide +kernel⟩⟩

theorem test_met_RefusedAccesses :
    (∃ c a w g i n s, accessOf c = some (a, w, g, i, some n) ∧ dieOn n s = false) ∧
    (∃ c a w g i s, accessOf c = some (a, w, g, i, none) ∧ regStopped g i s = true) ∧
    (∃ c a w g i s, accessOf c = some (a, w, g, i, none) ∧ regStopped g i s = false ∧ regVerdict a w g i s = .err) ∧
    (∃ c a w g i s, accessOf c = some (a, w, g, i, none) ∧ regStopped g i s = false ∧ regVerdict a w g i s = .world) ∧
    (∃ c a w g i s, accessOf c = some (a, w, g, i, none) ∧ regStopped g i s = false ∧ regVerdict a w g i s = .part) :=
  ⟨⟨.rangeClean accS 251, accS, true, .CD_L3_RANGE_CMD, 11, 11, State.reset, by decide +kernel, by decide +kernel⟩,
    ⟨.pause accS 255, accS, true, .DE_CH_CMD, 255, { State.reset with clkOff := [271] }, by decide +kernel, by decide +kernel⟩,
    ⟨.progWrite accS 0 0 1, accS, true, .DE_PROG, 0, State.reset.setF F.DE_CH_STATUS_STATE 0 1, by decide +kernel, by decide +kernel, by decide +kernel⟩,
    ⟨.mcInit accO 0, accO, true, .MC_INIT, 0, State.reset, by decide +kernel, by decide +kernel, by decide +kernel⟩,
    ⟨.calendarEnable ⟨true, 63, 0⟩ 0, ⟨true, 63, 0⟩, true, .PHE_CAL_CTRL, 0, State.reset, by decide +kernel, by decide +kernel, by decide +kernel⟩⟩

theorem test_met_StepIdles : State.reset.pending = [] := by decide +kernel

set_option maxRecDepth 4000 in
theorem front_performed (c : Instr) (s : State) : step { s with pending := [c] } = exec c { s with pending := [] } := rfl

theorem init_not_running (s : State) (h : s.initRun = none) : exec .mcInitDone s = .next s := by
  show execMcInitDone s = _
  simp [execMcInitDone, h]

theorem test_met_StepKeepsCanonical : ∃ s t, Canonical s ∧ step s = .next t :=
  ⟨{ State.reset with pending := [.mcInitDone] }, _, ⟨by decide +kernel, by decide +kernel⟩,
    (front_performed .mcInitDone State.reset).trans (init_not_running _ (by decide +kernel))⟩

theorem test_met_PortCommandPriority : (7 : Nat) < 8 ∧ bit 7#64 2 = true ∧ (bit 3#64 2 = false ∧ bit 3#64 1 = true) ∧
    (bit 1#64 2 = false ∧ bit 1#64 1 = false ∧ bit 1#64 0 = true) := by decide +kernel

end

end Tests
end

/-! # Every command answers a state, and keeps its queue and the canonical form

Each meaning has a lemma only_exec… under Laws/ that says what it leaves alone. Their sets together leave out the queue, so
one mask serves for all commands, and for a cycle in which none waits. -/

namespace Sys2Proof.Machine

/-- Every part of the state and every register, but the queue of waiting commands. -/
def butQueue : Nat := 0x7ffffffffffffffffffffffffffffffffffffffffffffffffffffffffffffffffffffe

theorem sub_butQueue {A : Nat}
    (h : A &&& 0x7ffffffffffffffffffffffffffffffffffffffffffffffffffffffffffffffffffffe = A) : Sub A butQueue := h

/-- What changes nothing but parts outside the queue keeps the commands that wait. -/
theorem Only.pending_eq {s t : State} (h : Only butQueue s t) : t.pending = s.pending := by
  obtain ⟨-, parts, -⟩ := h
  exact (parts .queue rfl).1

theorem Only.keepsCanonical {W : Nat} {s t : State} (h : Only W s t) : Canonical s → Canonical t := by
  obtain ⟨⟨canonical, -⟩, -⟩ := h
  exact canonical

/-- No command touches the queue, and each keeps the canonical form. -/
theorem exec_only (c : Instr) (s : State) : OnlyOut butQueue s (exec c s) := by
  have hs := Only.refl butQueue s
  unfold exec
  cases c with
  | registerWrite => exact only_execRegisterWrite (sub_butQueue rfl) hs
  | csrAccess => exact only_execCsrAccess (sub_butQueue rfl) hs
  | portEnable => exact only_execPortEnable (sub_butQueue rfl) hs
  | portDisable => exact only_execPortDisable (sub_butQueue rfl) hs
  | restart => exact only_execRestart (sub_butQueue rfl) hs
  | forceHoldover => exact only_execForceHoldover (sub_butQueue rfl) hs
  | resync => exact only_execResync (sub_butQueue rfl) hs
  | pulseEdge => exact only_execPulseEdge (sub_butQueue rfl) hs
  | stepHoldEnd => exact only_execStepHoldEnd (sub_butQueue rfl) hs
  | lossWindowExpiry => exact only_execLossWindowExpiry (sub_butQueue rfl) hs
  | holdoverToFree => exact only_execHoldoverToFree (sub_butQueue rfl) hs
  | holdoverCycleCrossing => exact only_execHoldoverCycleCrossing (sub_butQueue rfl) hs
  | encoderCountEdge => exact only_execEncoderCountEdge (sub_butQueue rfl) hs
  | illegalTransition => exact only_execIllegalTransition (sub_butQueue rfl) hs
  | lineFault => exact only_execLineFault (sub_butQueue rfl) hs
  | zEdge => exact only_execZEdge (sub_butQueue rfl) hs
  | todArm => exact only_execTodArm (sub_butQueue rfl) hs
  | phaseBroadcast => exact only_execPhaseBroadcast (sub_butQueue rfl) hs
  | phaseBroadcastReceive => exact only_execPhaseBroadcastReceive (sub_butQueue rfl) hs
  | replicaValidLost => exact only_execReplicaValidLost (sub_butQueue rfl) hs
  | calendarMatch => exact only_execCalendarMatch (sub_butQueue rfl) hs
  | calendarEnable => exact only_execCalendarEnable (sub_butQueue rfl) hs
  | calendarDisable => exact only_execCalendarDisable (sub_butQueue rfl) hs
  | dueQueueService => exact only_execDueQueueService (sub_butQueue rfl) hs
  | pendingFiringEnqueue => exact only_execPendingFiringEnqueue (sub_butQueue rfl) hs
  | calEditRead => exact only_execCalEditRead (sub_butQueue rfl) hs
  | calEditWrite => exact only_execCalEditWrite (sub_butQueue rfl) hs
  | calEditDisarm => exact only_execCalEditDisarm (sub_butQueue rfl) hs
  | calEditDisarmPurge => exact only_execCalEditDisarmPurge (sub_butQueue rfl) hs
  | blockCancel => exact only_execBlockCancel (sub_butQueue rfl) hs
  | cancellationStart => exact only_execCancellationStart (sub_butQueue rfl) hs
  | cancellationDone => exact only_execCancellationDone (sub_butQueue rfl) hs
  | blockEnable => exact only_execBlockEnable (sub_butQueue rfl) hs
  | tioEdgePlace => exact only_execTioEdgePlace (sub_butQueue rfl) hs
  | pulseTrailingEdge => exact only_execPulseTrailingEdge (sub_butQueue rfl) hs
  | forceLow => exact only_execForceLow (sub_butQueue rfl) hs
  | forceHigh => exact only_execForceHigh (sub_butQueue rfl) hs
  | forceToggle => exact only_execForceToggle (sub_butQueue rfl) hs
  | pinModeOutput => exact only_execPinModeOutput (sub_butQueue rfl) hs
  | pinModeOffCapture => exact only_execPinModeOffCapture (sub_butQueue rfl) hs
  | captureEdge => exact only_execCaptureEdge (sub_butQueue rfl) hs
  | capTbRead => exact only_execCapTbRead (sub_butQueue rfl) hs
  | load => exact only_execLoad (sub_butQueue rfl) hs
  | store => exact only_execStore (sub_butQueue rfl) hs
  | amo => exact only_execAmo (sub_butQueue rfl) hs
  | lr => exact only_execLr (sub_butQueue rfl) hs
  | sc => exact only_execSc (sub_butQueue rfl) hs
  | cboClean => exact only_execCboClean (sub_butQueue rfl) hs
  | cboFlush => exact only_execCboFlush (sub_butQueue rfl) hs
  | cboInval => exact only_execCboInval (sub_butQueue rfl) hs
  | cboZero => exact only_execCboZero (sub_butQueue rfl) hs
  | fence _ succ => exact only_execFence (z2 := succ) (sub_butQueue rfl) hs
  | fenceI => exact only_execFenceI (sub_butQueue rfl) hs
  | sfenceVma => exact only_execSfenceVma (sub_butQueue rfl) hs
  | wfi => exact only_execWfi (sub_butQueue rfl) hs
  | wrsNto => exact only_execWrsNto (sub_butQueue rfl) hs
  | wrsSto => exact only_execWrsSto (sub_butQueue rfl) hs
  | coreGate => exact only_execCoreGate (sub_butQueue rfl) hs
  | coreWake => exact only_execCoreWake (sub_butQueue rfl) hs
  | mret => exact only_execMret (sub_butQueue rfl) hs
  | xret => exact only_execXret (sub_butQueue rfl) hs
  | trapEntry => exact only_execTrapEntry (sub_butQueue rfl) hs
  | mzdcfgWrite => exact only_execMzdcfgWrite (sub_butQueue rfl) hs
  | szdtdbaseWrite => exact only_execSzdtdbaseWrite (sub_butQueue rfl) hs
  | phRead => exact only_execPhRead (sub_butQueue rfl) hs
  | phWait => exact only_execPhWait (sub_butQueue rfl) hs
  | phWaitComplete => exact only_execPhWaitComplete (sub_butQueue rfl) hs
  | tsStore => exact only_execTsStore (sub_butQueue rfl) hs
  | tsStoreUnstall => exact only_execTsStoreUnstall (sub_butQueue rfl) hs
  | tsCancelI => exact only_execTsCancelI (sub_butQueue rfl) hs
  | dlSet => exact only_execDlSet (sub_butQueue rfl) hs
  | dlClr => exact only_execDlClr (sub_butQueue rfl) hs
  | tkYield => exact only_execTkYield (sub_butQueue rfl) hs
  | tkArg => exact only_execTkArg (sub_butQueue rfl) hs
  | ldPair => exact only_execLdPair (sub_butQueue rfl) hs
  | sdPair => exact only_execSdPair (sub_butQueue rfl) hs
  | deadlineMiss => exact only_execDeadlineMiss (sub_butQueue rfl) hs
  | dispatch => exact only_execDispatch (sub_butQueue rfl) hs
  | timedStore => exact only_execTimedStore (sub_butQueue rfl) hs
  | timedStoreMatch => exact only_execTimedStoreMatch (sub_butQueue rfl) hs
  | timedStoreCommitIssue => exact only_execTimedStoreCommitIssue (sub_butQueue rfl) hs
  | timedStoreCancel => exact only_execTimedStoreCancel (sub_butQueue rfl) hs
  | rangeClean => exact only_execRangeClean (sub_butQueue rfl) hs
  | rangeInval => exact only_execRangeInval (sub_butQueue rfl) hs
  | rangeCleanInval => exact only_execRangeCleanInval (sub_butQueue rfl) hs
  | rangePreload => exact only_execRangePreload (sub_butQueue rfl) hs
  | rangeCommandDone => exact only_execRangeCommandDone (sub_butQueue rfl) hs
  | lockRangeWrite => exact only_execLockRangeWrite (sub_butQueue rfl) hs
  | cacheDisable => exact only_execCacheDisable (sub_butQueue rfl) hs
  | l2DrainComplete => exact only_execL2DrainComplete (sub_butQueue rfl) hs
  | cacheEnable => exact only_execCacheEnable (sub_butQueue rfl) hs
  | rdS => exact only_execRdS (sub_butQueue rfl) hs
  | rdX => exact only_execRdX (sub_butQueue rfl) hs
  | upgL3 => exact only_execUpgL3 (sub_butQueue rfl) hs
  | rdOnce => exact only_execRdOnce (sub_butQueue rfl) hs
  | wrPart => exact only_execWrPart (sub_butQueue rfl) hs
  | wbL => exact only_execWbL (sub_butQueue rfl) hs
  | evL => exact only_execEvL (sub_butQueue rfl) hs
  | snpL => exact only_execSnpL (sub_butQueue rfl) hs
  | snpLX => exact only_execSnpLX (sub_butQueue rfl) hs
  | invL => exact only_execInvL (sub_butQueue rfl) hs
  | getS => exact only_execGetS (sub_butQueue rfl) hs
  | getX => exact only_execGetX (sub_butQueue rfl) hs
  | upgHA => exact only_execUpgHA (sub_butQueue rfl) hs
  | getXZ => exact only_execGetXZ (sub_butQueue rfl) hs
  | cboC => exact only_execCboC (sub_butQueue rfl) hs
  | cboF => exact only_execCboF (sub_butQueue rfl) hs
  | atmH => exact only_execAtmH (sub_butQueue rfl) hs
  | rdNC => exact only_execRdNC (sub_butQueue rfl) hs
  | wrNC => exact only_execWrNC (sub_butQueue rfl) hs
  | wbM => exact only_execWbM (sub_butQueue rfl) hs
  | wbC => exact only_execWbC (sub_butQueue rfl) hs
  | evC => exact only_execEvC (sub_butQueue rfl) hs
  | snpS => exact only_execSnpS (sub_butQueue rfl) hs
  | snpX => exact only_execSnpX (sub_butQueue rfl) hs
  | snpC => exact only_execSnpC (sub_butQueue rfl) hs
  | inv => exact only_execInv (sub_butQueue rfl) hs
  | rcl => exact only_execRcl (sub_butQueue rfl) hs
  | rspI => exact only_execRspI (sub_butQueue rfl) hs
  | rspS => exact only_execRspS (sub_butQueue rfl) hs
  | rspFwdS => exact only_execRspFwdS (sub_butQueue rfl) hs
  | rspFwdI => exact only_execRspFwdI (sub_butQueue rfl) hs
  | rspRclD => exact only_execRspRclD (sub_butQueue rfl) hs
  | rspWbP => exact only_execRspWbP (sub_butQueue rfl) hs
  | fwdData => exact only_execFwdData (sub_butQueue rfl) hs
  | dataE => exact only_execDataE (sub_butQueue rfl) hs
  | dataF => exact only_execDataF (sub_butQueue rfl) hs
  | gntX => exact only_execGntX (sub_butQueue rfl) hs
  | cmp => exact only_execCmp (sub_butQueue rfl) hs
  | wbAck => exact only_execWbAck (sub_butQueue rfl) hs
  | evAck => exact only_execEvAck (sub_butQueue rfl) hs
  | cmpAck => exact only_execCmpAck (sub_butQueue rfl) hs
  | rdIO => exact only_execRdIO (sub_butQueue rfl) hs
  | wrIO => exact only_execWrIO (sub_butQueue rfl) hs
  | cmpIO => exact only_execCmpIO (sub_butQueue rfl) hs
  | dataIO => exact only_execDataIO (sub_butQueue rfl) hs
  | packetUnknownOpcode => exact only_execPacketUnknownOpcode (sub_butQueue rfl) hs
  | tenureEnd => exact only_execTenureEnd (sub_butQueue rfl) hs
  | dieLost => exact only_execDieLost (sub_butQueue rfl) hs
  | storeBufferEntryLeave => exact only_execStoreBufferEntryLeave (sub_butQueue rfl) hs
  | bankRefresh => exact only_execBankRefresh (sub_butQueue rfl) hs
  | zqCalibration => exact only_execZqCalibration (sub_butQueue rfl) hs
  | mr4Read => exact only_execMr4Read (sub_butQueue rfl) hs
  | dqsOscillatorRead => exact only_execDqsOscillatorRead (sub_butQueue rfl) hs
  | hpPromotion => exact only_execHpPromotion (sub_butQueue rfl) hs
  | dramReadComplete => exact only_execDramReadComplete (sub_butQueue rfl) hs
  | creditWrite => exact only_execCreditWrite (sub_butQueue rfl) hs
  | powerDownEntry => exact only_execPowerDownEntry (sub_butQueue rfl) hs
  | selfRefreshEntry => exact only_execSelfRefreshEntry (sub_butQueue rfl) hs
  | selfRefreshExit => exact only_execSelfRefreshExit (sub_butQueue rfl) hs
  | dramTraining => exact only_execDramTraining (sub_butQueue rfl) hs
  | regionWrite => exact only_execRegionWrite (sub_butQueue rfl) hs
  | worldWalkDone => exact only_execWorldWalkDone (sub_butQueue rfl) hs
  | mcInit => exact only_execMcInit (sub_butQueue rfl) hs
  | mcInitDone => exact only_execMcInitDone (sub_butQueue rfl) hs
  | scrubStep => exact only_execScrubStep (sub_butQueue rfl) hs
  | leak => exact only_execLeak (sub_butQueue rfl) hs
  | rawRead => exact only_execRawRead (sub_butQueue rfl) hs
  | rawWrite => exact only_execRawWrite (sub_butQueue rfl) hs
  | encode => exact only_execEncode (sub_butQueue rfl) hs
  | encodePoison => exact only_execEncodePoison (sub_butQueue rfl) hs
  | pageRetire => exact only_execPageRetire (sub_butQueue rfl) hs
  | slotCycleBoundary => exact only_execSlotCycleBoundary (sub_butQueue rfl) hs
  | epochSwitch => exact only_execEpochSwitch (sub_butQueue rfl) hs
  | epochCheckDone => exact only_execEpochCheckDone (sub_butQueue rfl) hs
  | epochToggle => exact only_execEpochToggle (sub_butQueue rfl) hs
  | routeTableWrite => exact only_execRouteTableWrite (sub_butQueue rfl) hs
  | copy => exact only_execCopy (sub_butQueue rfl) hs
  | copyDone => exact only_execCopyDone (sub_butQueue rfl) hs
  | fabricTimeout => exact only_execFabricTimeout (sub_butQueue rfl) hs
  | tagWithdraw => exact only_execTagWithdraw (sub_butQueue rfl) hs
  | batArm => exact only_execBatArm (sub_butQueue rfl) hs
  | batStop => exact only_execBatStop (sub_butQueue rfl) hs
  | batMatch => exact only_execBatMatch (sub_butQueue rfl) hs
  | batTrigger => exact only_execBatTrigger (sub_butQueue rfl) hs
  | batCounterCopy => exact only_execBatCounterCopy (sub_butQueue rfl) hs
  | batTraceWrite => exact only_execBatTraceWrite (sub_butQueue rfl) hs
  | batBufRead => exact only_execBatBufRead (sub_butQueue rfl) hs
  | bridgeFrameReceive => exact only_execBridgeFrameReceive (sub_butQueue rfl) hs
  | bridgeNak => exact only_execBridgeNak (sub_butQueue rfl) hs
  | sidebandMessage => exact only_execSidebandMessage (sub_butQueue rfl) hs
  | sidebandNak => exact only_execSidebandNak (sub_butQueue rfl) hs
  | powerCommand => exact only_execPowerCommand (sub_butQueue rfl) hs
  | powerRequest => exact only_execPowerRequest (sub_butQueue rfl) hs
  | bridgeTrainStart => exact only_execBridgeTrainStart (sub_butQueue rfl) hs
  | retrainFull => exact only_execRetrainFull (sub_butQueue rfl) hs
  | retrainFast => exact only_execRetrainFast (sub_butQueue rfl) hs
  | clockLock => exact only_execClockLock (sub_butQueue rfl) hs
  | laneTestDone => exact only_execLaneTestDone (sub_butQueue rfl) hs
  | proposalExchange => exact only_execProposalExchange (sub_butQueue rfl) hs
  | alignDone => exact only_execAlignDone (sub_butQueue rfl) hs
  | capabilityExchange => exact only_execCapabilityExchange (sub_butQueue rfl) hs
  | fastRetrainDone => exact only_execFastRetrainDone (sub_butQueue rfl) hs
  | progWrite => exact only_execProgWrite (sub_butQueue rfl) hs
  | dmaStart => exact only_execDmaStart (sub_butQueue rfl) hs
  | halt => exact only_execHalt (sub_butQueue rfl) hs
  | move => exact only_execMove (sub_butQueue rfl) hs
  | move2D => exact only_execMove2D (sub_butQueue rfl) hs
  | moveComplete => exact only_execMoveComplete (sub_butQueue rfl) hs
  | loop => exact only_execLoop (sub_butQueue rfl) hs
  | endLoop => exact only_execEndLoop (sub_butQueue rfl) hs
  | wait => exact only_execWait (sub_butQueue rfl) hs
  | waitTimeout => exact only_execWaitTimeout (sub_butQueue rfl) hs
  | signalSem => exact only_execSignalSem (sub_butQueue rfl) hs
  | signalEvt => exact only_execSignalEvt (sub_butQueue rfl) hs
  | signalIrq => exact only_execSignalIrq (sub_butQueue rfl) hs
  | signalWrite => exact only_execSignalWrite (sub_butQueue rfl) hs
  | fenceAck => exact only_execFenceAck (sub_butQueue rfl) hs
  | setr => exact only_execSetr (sub_butQueue rfl) hs
  | addr => exact only_execAddr (sub_butQueue rfl) hs
  | jump => exact only_execJump (sub_butQueue rfl) hs
  | brz => exact only_execBrz (sub_butQueue rfl) hs
  | dmaUnblock => exact only_execDmaUnblock (sub_butQueue rfl) hs
  | pause => exact only_execPause (sub_butQueue rfl) hs
  | resume => exact only_execResume (sub_butQueue rfl) hs
  | abort => exact only_execAbort (sub_butQueue rfl) hs
  | stop => exact only_execStop (sub_butQueue rfl) hs
  | descriptorFetch => exact only_execDescriptorFetch (sub_butQueue rfl) hs
  | descriptorComplete => exact only_execDescriptorComplete (sub_butQueue rfl) hs
  | secureInterruptEntry => exact only_execSecureInterruptEntry (sub_butQueue rfl) hs
  | secureCall => exact only_execSecureCall (sub_butQueue rfl) hs
  | helmDoorbell => exact only_execHelmDoorbell (sub_butQueue rfl) hs
  | provision => exact only_execProvision (sub_butQueue rfl) hs
  | helmDbgSet => exact only_execHelmDbgSet (sub_butQueue rfl) hs
  | coreRetire => exact only_execCoreRetire (sub_butQueue rfl) hs
  | laneCommit => exact only_execLaneCommit (sub_butQueue rfl) hs
  | rowCommit => exact only_execRowCommit (sub_butQueue rfl) hs
  | startCfg => exact only_execStartCfg (sub_butQueue rfl) hs
  | chimneyExit => exact only_execChimneyExit (sub_butQueue rfl) hs
  | pkgResetCmd => exact only_execPkgResetCmd (sub_butQueue rfl) hs
  | imageKeySet => exact only_execImageKeySet (sub_butQueue rfl) hs
  | keyRotate => exact only_execKeyRotate (sub_butQueue rfl) hs
  | modeSet => exact only_execModeSet (sub_butQueue rfl) hs
  | zeroize => exact only_execZeroize (sub_butQueue rfl) hs
  | helmGetStatus => exact only_execHelmGetStatus (sub_butQueue rfl) hs
  | helmGetDeviceId => exact only_execHelmGetDeviceId (sub_butQueue rfl) hs
  | helmGetAttest => exact only_execHelmGetAttest (sub_butQueue rfl) hs
  | helmGetRepairs => exact only_execHelmGetRepairs (sub_butQueue rfl) hs
  | helmRandom => exact only_execHelmRandom (sub_butQueue rfl) hs
  | helmSha384 => exact only_execHelmSha384 (sub_butQueue rfl) hs
  | helmHmac => exact only_execHelmHmac (sub_butQueue rfl) hs
  | helmGcmEnc => exact only_execHelmGcmEnc (sub_butQueue rfl) hs
  | helmGcmDec => exact only_execHelmGcmDec (sub_butQueue rfl) hs
  | helmEcdsaVerify => exact only_execHelmEcdsaVerify (sub_butQueue rfl) hs
  | helmKeyGen => exact only_execHelmKeyGen (sub_butQueue rfl) hs
  | helmKeyWrap => exact only_execHelmKeyWrap (sub_butQueue rfl) hs
  | helmKeyLoad => exact only_execHelmKeyLoad (sub_butQueue rfl) hs
  | helmKeyLoadPlain => exact only_execHelmKeyLoadPlain (sub_butQueue rfl) hs
  | helmKeyErase => exact only_execHelmKeyErase (sub_butQueue rfl) hs
  | lockoutHoldEnd => exact only_execLockoutHoldEnd (sub_butQueue rfl) hs
  | helmSelfTest => exact only_execHelmSelfTest (sub_butQueue rfl) hs
  | helmTestFailure => exact only_execHelmTestFailure (sub_butQueue rfl) hs
  | hcmd => exact only_execHcmd (sub_butQueue rfl) hs
  | hrsp => exact only_execHrsp (sub_butQueue rfl) hs
  | forwardTimeout => exact only_execForwardTimeout (sub_butQueue rfl) hs
  | hartReassign => exact only_execHartReassign (sub_butQueue rfl) hs
  | partitionReset => exact only_execPartitionReset (sub_butQueue rfl) hs
  | partitionResetDone => exact only_execPartitionResetDone (sub_butQueue rfl) hs
  | vfBind => exact only_execVfBind (sub_butQueue rfl) hs
  | iommuCommand => exact only_execIommuCommand (sub_butQueue rfl) hs
  | imsicMessage => exact only_execImsicMessage (sub_butQueue rfl) hs
  | wiredSourceChange => exact only_execWiredSourceChange (sub_butQueue rfl) hs
  | aplicResend => exact only_execAplicResend (sub_butQueue rfl) hs
  | outboundWindowWrite => exact only_execOutboundWindowWrite (sub_butQueue rfl) hs
  | readCombineTimeout => exact only_execReadCombineTimeout (sub_butQueue rfl) hs
  | pcieCompletion => exact only_execPcieCompletion (sub_butQueue rfl) hs
  | completionTimeout => exact only_execCompletionTimeout (sub_butQueue rfl) hs
  | pcieAck => exact only_execPcieAck (sub_butQueue rfl) hs
  | pcieInboundRequest => exact only_execPcieInboundRequest (sub_butQueue rfl) hs
  | hostDoorbell => exact only_execHostDoorbell (sub_butQueue rfl) hs
  | msixRaise => exact only_execMsixRaise (sub_butQueue rfl) hs
  | windowCommit => exact only_execWindowCommit (sub_butQueue rfl) hs
  | oldMappingDrained => exact only_execOldMappingDrained (sub_butQueue rfl) hs
  | publish => exact only_execPublish (sub_butQueue rfl) hs
  | mailboxAck => exact only_execMailboxAck (sub_butQueue rfl) hs
  | bmeClear => exact only_execBmeClear (sub_butQueue rfl) hs
  | flr => exact only_execFlr (sub_butQueue rfl) hs
  | flrDone => exact only_execFlrDone (sub_butQueue rfl) hs
  | linkReset => exact only_execLinkReset (sub_butQueue rfl) hs
  | l0sEntry => exact only_execL0sEntry (sub_butQueue rfl) hs
  | l1Entry => exact only_execL1Entry (sub_butQueue rfl) hs
  | pcieLinkEvent => exact only_execPcieLinkEvent (sub_butQueue rfl) hs
  | palegFlitReceive => exact only_execPalegFlitReceive (sub_butQueue rfl) hs
  | palegNak => exact only_execPalegNak (sub_butQueue rfl) hs
  | palegTrainingDone => exact only_execPalegTrainingDone (sub_butQueue rfl) hs
  | retrain => exact only_execRetrain (sub_butQueue rfl) hs
  | wr => exact only_execWr (sub_butQueue rfl) hs
  | rd => exact only_execRd (sub_butQueue rfl) hs
  | rdRsp => exact only_execRdRsp (sub_butQueue rfl) hs
  | msg => exact only_execMsg (sub_butQueue rfl) hs
  | palegReadTimeout => exact only_execPalegReadTimeout (sub_butQueue rfl) hs
  | msgTx => exact only_execMsgTx (sub_butQueue rfl) hs
  | msgRxRead => exact only_execMsgRxRead (sub_butQueue rfl) hs
  | phaseFrameSend => exact only_execPhaseFrameSend (sub_butQueue rfl) hs
  | phaseFrame => exact only_execPhaseFrame (sub_butQueue rfl) hs
  | branchLost => exact only_execBranchLost (sub_butQueue rfl) hs
  | rejoin => exact only_execRejoin (sub_butQueue rfl) hs
  | plWindowCommit => exact only_execPlWindowCommit (sub_butQueue rfl) hs
  | plOldMappingDrained => exact only_execPlOldMappingDrained (sub_butQueue rfl) hs
  | inputSample => exact only_execInputSample (sub_butQueue rfl) hs
  | powerFailWarning => exact only_execPowerFailWarning (sub_butQueue rfl) hs
  | warningWithdrawn => exact only_execWarningWithdrawn (sub_butQueue rfl) hs
  | graceEnd => exact only_execGraceEnd (sub_butQueue rfl) hs
  | powerFailComplete => exact only_execPowerFailComplete (sub_butQueue rfl) hs
  | undervoltage => exact only_execUndervoltage (sub_butQueue rfl) hs
  | overvoltage => exact only_execOvervoltage (sub_butQueue rfl) hs
  | aonPowerLoss => exact only_execAonPowerLoss (sub_butQueue rfl) hs
  | retainExit => exact only_execRetainExit (sub_butQueue rfl) hs
  | powerDieFault => exact only_execPowerDieFault (sub_butQueue rfl) hs
  | reqOn => exact only_execReqOn (sub_butQueue rfl) hs
  | reqGated => exact only_execReqGated (sub_butQueue rfl) hs
  | reqOff => exact only_execReqOff (sub_butQueue rfl) hs
  | reqClockStop => exact only_execReqClockStop (sub_butQueue rfl) hs
  | reqReset => exact only_execReqReset (sub_butQueue rfl) hs
  | reqPackageRetain => exact only_execReqPackageRetain (sub_butQueue rfl) hs
  | reqPackageOff => exact only_execReqPackageOff (sub_butQueue rfl) hs
  | reqClockStart => exact only_execReqClockStart (sub_butQueue rfl) hs
  | reqFrequency => exact only_execReqFrequency (sub_butQueue rfl) hs
  | dieTransitionDone => exact only_execDieTransitionDone (sub_butQueue rfl) hs
  | frequencyChangeDone => exact only_execFrequencyChangeDone (sub_butQueue rfl) hs
  | plockEnter => exact only_execPlockEnter (sub_butQueue rfl) hs
  | plockLeave => exact only_execPlockLeave (sub_butQueue rfl) hs
  | plockOverTimeout => exact only_execPlockOverTimeout (sub_butQueue rfl) hs
  | plockReentry => exact only_execPlockReentry (sub_butQueue rfl) hs
  | throttle => exact only_execThrottle (sub_butQueue rfl) hs
  | thermalTrip => exact only_execThermalTrip (sub_butQueue rfl) hs
  | aonStart => exact only_execAonStart (sub_butQueue rfl) hs
  | powerOnReset => exact only_execPowerOnReset (sub_butQueue rfl) hs
  | rstN => exact only_execRstN (sub_butQueue rfl) hs
  | hardResetCmd => exact only_execHardResetCmd (sub_butQueue rfl) hs
  | warmResetCmd => exact only_execWarmResetCmd (sub_butQueue rfl) hs
  | imageLoad => exact only_execImageLoad (sub_butQueue rfl) hs
  | imageCheck => exact only_execImageCheck (sub_butQueue rfl) hs
  | hartRelease => exact only_execHartRelease (sub_butQueue rfl) hs
  | startOk => exact only_execStartOk (sub_butQueue rfl) hs
  | bootWatchdog => exact only_execBootWatchdog (sub_butQueue rfl) hs
  | startRetry => exact only_execStartRetry (sub_butQueue rfl) hs
  | heartbeat => exact only_execHeartbeat (sub_butQueue rfl) hs
  | lanternFailed => exact only_execLanternFailed (sub_butQueue rfl) hs
  | lanternRestart => exact only_execLanternRestart (sub_butQueue rfl) hs
  | getStart => exact only_execGetStart (sub_butQueue rfl) hs
  | getEvlog => exact only_execGetEvlog (sub_butQueue rfl) hs
  | getResult => exact only_execGetResult (sub_butQueue rfl) hs
  | mbWrite => exact only_execMbWrite (sub_butQueue rfl) hs
  | mbRing => exact only_execMbRing (sub_butQueue rfl) hs
  | mbStatus => exact only_execMbStatus (sub_butQueue rfl) hs
  | mbRead => exact only_execMbRead (sub_butQueue rfl) hs
  | wake => exact only_execWake (sub_butQueue rfl) hs
  | warm => exact only_execWarm (sub_butQueue rfl) hs
  | flashRead => exact only_execFlashRead (sub_butQueue rfl) hs
  | flashErase => exact only_execFlashErase (sub_butQueue rfl) hs
  | flashWrite => exact only_execFlashWrite (sub_butQueue rfl) hs
  | flashOpDone => exact only_execFlashOpDone (sub_butQueue rfl) hs
  | errorRecord => exact only_execErrorRecord (sub_butQueue rfl) hs
  | tailWrite => exact only_execTailWrite (sub_butQueue rfl) hs
  | tapReset => exact only_execTapReset (sub_butQueue rfl) hs
  | extest => exact only_execExtest (sub_butQueue rfl) hs
  | idcode => exact only_execIdcode (sub_butQueue rfl) hs
  | samplePreload => exact only_execSamplePreload (sub_butQueue rfl) hs
  | clamp => exact only_execClamp (sub_butQueue rfl) hs
  | highz => exact only_execHighz (sub_butQueue rfl) hs
  | dtmcs => exact only_execDtmcs (sub_butQueue rfl) hs
  | dmi => exact only_execDmi (sub_butQueue rfl) hs
  | chainSel => exact only_execChainSel (sub_butQueue rfl) hs
  | ijtag => exact only_execIjtag (sub_butQueue rfl) hs
  | helmMb => exact only_execHelmMb (sub_butQueue rfl) hs
  | dbgStatus => exact only_execDbgStatus (sub_butQueue rfl) hs
  | bypass => exact only_execBypass (sub_butQueue rfl) hs
  | wextest => exact only_execWextest (sub_butQueue rfl) hs
  | dieIdcode => exact only_execDieIdcode (sub_butQueue rfl) hs
  | wintest => exact only_execWintest (sub_butQueue rfl) hs
  | scan => exact only_execScan (sub_butQueue rfl) hs
  | mbist => exact only_execMbist (sub_butQueue rfl) hs
  | dieBypass => exact only_execDieBypass (sub_butQueue rfl) hs
  | dbgTestHold => exact only_execDbgTestHold (sub_butQueue rfl) hs
  | haltRequest => exact only_execHaltRequest (sub_butQueue rfl) hs
  | abstractCommand => exact only_execAbstractCommand (sub_butQueue rfl) hs
  | systemBusAccess => exact only_execSystemBusAccess (sub_butQueue rfl) hs
  | resumeRequest => exact only_execResumeRequest (sub_butQueue rfl) hs
  | slewEnd => exact only_execSlewEnd (sub_butQueue rfl) hs
  | writeDrain => exact only_execWriteDrain (sub_butQueue rfl) hs
  | accessSlotGrant => exact only_execAccessSlotGrant (sub_butQueue rfl) hs
  | gatedEntryDone => exact only_execGatedEntryDone (sub_butQueue rfl) hs
  | palegPortEnable => exact only_execPalegPortEnable (sub_butQueue rfl) hs
  | palegLinkDown => exact only_execPalegLinkDown (sub_butQueue rfl) hs
  | configurationRequest => exact only_execConfigurationRequest (sub_butQueue rfl) hs
  | railsUp => exact only_execRailsUp (sub_butQueue rfl) hs
  | lanternSelfTest => exact only_execLanternSelfTest (sub_butQueue rfl) hs
  | dynamicAddressAssignment => exact only_execDynamicAddressAssignment (sub_butQueue rfl) hs
  | coreTraceWrite => exact only_execCoreTraceWrite (sub_butQueue rfl) hs
  | ctrBufRead => exact only_execCtrBufRead (sub_butQueue rfl) hs
  | wcDbgWrite => exact only_execWcDbgWrite (sub_butQueue rfl) hs
  | pendWrite => exact only_execPendWrite (sub_butQueue rfl) hs
  | semCountWrite => exact only_execSemCountWrite (sub_butQueue rfl) hs

/-- An outcome is a next state, neither a fault nor a refusal. -/
def Completes (o : Out) : Prop := ∃ t, o = .next t

theorem completes_next (t : State) : Completes (.next t) := ⟨t, rfl⟩

theorem completes_ite {c : Prop} {_ : Decidable c} {a b : Out} (ha : Completes a) (hb : Completes b) :
    Completes (if c then a else b) := by split <;> assumption

theorem completes_guard {c : Prop} {_ : Decidable c} {t : State} {b : Out} (hb : Completes b) :
    Completes (if c then .next t else b) := completes_ite (completes_next t) hb

/-- A DMA instruction: not granted, a fetch outside the window, an undefined opcode, or one that another command runs. -/
theorem completes_chInstr (c ecc : Nat) (mine : Word → Bool) (run : Word → State → State) (s : State) :
    Completes (chInstr c ecc mine run s) :=
  completes_guard (completes_guard (completes_guard (completes_guard (completes_next _))))

/-- Every branch of every meaning ends in a state. The commands are grouped by the shape of their meaning; the last group
is those whose branches all lie inside the state that they answer. -/
theorem exec_completes (c : Instr) (s : State) : Completes (exec c s) := by
  unfold exec
  cases c with
  | replicaValidLost | load | storeBufferEntryLeave | dramTraining | regionWrite | mcInitDone | scrubStep |
    epochToggle | copyDone | bridgeNak | laneTestDone | secureInterruptEntry | helmTestFailure | aplicResend |
    oldMappingDrained | flrDone | l0sEntry | l1Entry | pcieLinkEvent | phaseFrameSend | phaseFrame |
    plOldMappingDrained | powerFailWarning | powerDieFault | throttle | aonStart | startRetry | lanternRestart |
    lanternSelfTest =>
    exact completes_guard (completes_next _)
  | halt | move | move2D | loop | endLoop | wait | signalSem | signalEvt | signalIrq | signalWrite | fenceAck |
    setr | addr | jump | brz =>
    exact completes_chInstr ..
  | batMatch | clockLock | alignDone | capabilityExchange | fastRetrainDone | helmSelfTest | palegNak |
    palegTrainingDone | graceEnd | heartbeat | configurationRequest | coreTraceWrite =>
    exact completes_guard (completes_guard (completes_next _))
  | timedStoreCommitIssue | hpPromotion | creditWrite | powerRequest | dmaUnblock | wr | rd | flashOpDone =>
    dsimp only [execTimedStoreCommitIssue, execHpPromotion, execCreditWrite, execPowerRequest, execDmaUnblock,
      execWr, execRd, execFlashOpDone]
    split <;> exact completes_next _
  | proposalExchange | thermalTrip | imageLoad | hartRelease | lanternFailed =>
    exact completes_guard (completes_guard (completes_guard (completes_next _)))
  | dispatch | bridgeFrameReceive | imsicMessage | palegFlitReceive =>
    exact completes_guard (completes_guard (completes_guard (completes_guard (completes_next _))))
  | mret =>
    exact completes_guard (completes_guard (completes_ite (completes_guard (completes_next _)) (completes_next _)))
  | batTrigger => exact completes_ite (completes_guard (completes_next _)) (completes_next _)
  | sidebandMessage =>
    exact completes_guard (completes_ite (completes_guard (completes_next _)) (completes_guard (completes_next _)))
  | pcieInboundRequest =>
    exact completes_guard (completes_ite (completes_guard (completes_next _)) (completes_next _))
  | inputSample => exact completes_ite (completes_guard (completes_next _)) (completes_guard (completes_next _))
  | sfenceVma | coreWake | timedStoreCancel | selfRefreshEntry =>
    dsimp only [execSfenceVma, execCoreWake, execTimedStoreCancel, execSelfRefreshEntry]
    refine completes_guard ?_
    split <;> exact completes_next _
  | wfi =>
    dsimp only [execWfi]
    refine completes_guard (completes_guard ?_)
    split <;> exact completes_next _
  | timedStoreMatch | forwardTimeout | partitionResetDone | completionTimeout | palegReadTimeout | branchLost |
    errorRecord =>
    dsimp only [execTimedStoreMatch, execForwardTimeout, execPartitionResetDone, execCompletionTimeout,
      execPalegReadTimeout, execBranchLost, execErrorRecord]
    split
    · exact completes_next _
    · exact completes_guard (completes_next _)
  | tagWithdraw | dmaStart | pcieAck | rdRsp | powerFailComplete | frequencyChangeDone =>
    dsimp only [execTagWithdraw, execDmaStart, execPcieAck, execRdRsp, execPowerFailComplete,
      execFrequencyChangeDone]
    split
    · exact completes_next _
    · split <;> exact completes_next _
  | tsStoreUnstall | lockoutHoldEnd | gatedEntryDone =>
    dsimp only [execTsStoreUnstall, execLockoutHoldEnd, execGatedEntryDone]
    split
    · exact completes_guard (completes_next _)
    · exact completes_next _
  | phWaitComplete =>
    dsimp only [execPhWaitComplete]
    split
    · exact completes_guard (completes_guard (completes_guard (completes_next _)))
    · exact completes_next _
  | batTraceWrite =>
    dsimp only [execBatTraceWrite]
    split
    · exact completes_guard (completes_guard (completes_next _))
    · exact completes_next _
  | hcmd =>
    dsimp only [execHcmd]
    split
    · exact completes_next _
    · exact completes_guard (completes_guard (completes_guard (completes_next _)))
  | pcieCompletion =>
    dsimp only [execPcieCompletion]
    split
    · exact completes_next _
    · exact completes_guard (completes_guard (completes_next _))
  | store | amo | lr | sc =>
    dsimp only [execStore, execAmo, execLr, execSc]
    refine completes_guard (completes_guard ?_)
    split
    · exact completes_next _
    · exact completes_guard (completes_next _)
  | timedStore | descriptorFetch =>
    dsimp only [execTimedStore, execDescriptorFetch]
    refine completes_guard ?_
    split
    · exact completes_next _
    · exact completes_guard (completes_next _)
  | xret =>
    dsimp only [execXret]
    refine completes_guard ?_
    refine completes_ite ?_ ?_
    · exact completes_guard (completes_guard (completes_next _))
    · split <;> exact completes_next _
  | msg =>
    dsimp only [execMsg]
    split
    · exact completes_next _
    · refine completes_guard ?_
      split <;> exact completes_next _
  | imageCheck =>
    dsimp only [execImageCheck]
    split
    · exact completes_next _
    · refine completes_guard (completes_guard (completes_guard ?_))
      split <;> exact completes_next _
  | hrsp | accessSlotGrant =>
    dsimp only [execHrsp, execAccessSlotGrant]
    split
    · exact completes_next _
    · split
      · exact completes_next _
      · exact completes_guard (completes_next _)
  | trapEntry =>
    dsimp only [execTrapEntry]
    refine completes_guard ?_
    split
    · exact completes_next _
    · refine completes_guard ?_
      split <;> exact completes_next _
  | fabricTimeout =>
    dsimp only [execFabricTimeout]
    split
    · exact completes_next _
    · split
      · exact completes_next _
      · split <;> exact completes_next _
  | powerCommand =>
    dsimp only [execPowerCommand]
    split
    · exact completes_next _
    · refine completes_guard (completes_guard ?_)
      refine completes_ite ?_ ?_
      · split <;> exact completes_next _
      · exact completes_next _
  | epochCheckDone =>
    dsimp only [execEpochCheckDone]
    refine completes_guard (completes_guard ?_)
    split
    · exact completes_next _
    · split
      · exact completes_next _
      · split
        · exact completes_next _
        · split <;> exact completes_next _
  | dieTransitionDone =>
    dsimp only [execDieTransitionDone]
    split
    · exact completes_next _
    · refine completes_guard ?_
      refine completes_ite ?_ ?_
      · split
        · exact completes_next _
        · exact completes_guard (completes_guard (completes_next _))
      · exact completes_guard (completes_guard (completes_guard (completes_guard (completes_next _))))
  | _ => exact completes_next _

/-- Settles O60: the outcome exists by exec_completes, and its queue is the old one by exec_only. -/
theorem commandsComplete : Obligations.CommandsComplete := by
  intro c s
  obtain ⟨t, ht⟩ := exec_completes c s
  exact ⟨t, ht, (exec_only c s t ht).pending_eq⟩

/-- Settles O59: the queue is no part of the canonical form, a command keeps it by exec_only, and an idle cycle by
only_blockTick. -/
theorem stepKeepsCanonical : Obligations.StepKeepsCanonical := by
  intro s t hs ht
  unfold step at ht
  split at ht
  · cases ht
    exact (only_blockTick (sub_butQueue rfl) (Only.refl _ s)).keepsCanonical hs
  · exact (exec_only _ _ t ht).keepsCanonical hs

/-- Settles O56: the front of the queue is what step takes. -/
theorem stepTakesFront : Obligations.StepTakesFront := by
  intro c rest s
  rfl

end Sys2Proof.Machine

/-! # A request that waits for an earlier one

Of two packets on one path the later is not delivered before the earlier (R273): its command leaves the state as it is. -/

namespace Sys2Proof.Machine

theorem ioArrive_of_behind {p : Packet} {s : State} (h : s.behind p = true) : ioArrive p s = s := by
  simp [ioArrive, h]

theorem exec_rdIO_of_behind {p : Packet} {s : State} (h : s.behind { p with op := .rdIO } = true) :
    exec (.rdIO p) s = .next s :=
  congrArg Host.Outcome.next (ioArrive_of_behind h)

/-- A message that sentSome finds is a packet with the property. -/
theorem sentSome_packet {f : Packet → Bool} {t : State} (h : sentSome f t = true) : ∃ q, .pkt q ∈ t.out ∧ f q = true := by
  simp only [sentSome, List.any_eq_true] at h
  obtain ⟨m, hm, hf⟩ := h
  split at hf
  · exact ⟨_, hm, hf⟩
  · cases hf

/-- A read of core 20 at an address that nothing maps. -/
def unmappedRead : Packet := { op := .rdIO, src := 20, dst := 0x1FF, tag := 1, addr := 0xFFF000000000 }

/-- The read is in flight behind an earlier one of the same core to the same sink, and neither is answered. -/
def readInFlight : State :=
  { State.reset with out := [.pkt { unmappedRead with tag := 0 }, .pkt unmappedRead] }

theorem unmappedRead_target :
    ioTarget (unmappedRead.addr + (ioSpan { unmappedRead with op := .rdIO }).1) readInFlight = .none := by decide +kernel

theorem unmappedRead_behind : readInFlight.behind { unmappedRead with op := .rdIO } = true := by decide +kernel

theorem readInFlight_unanswered : ¬ ∃ q, .pkt q ∈ readInFlight.out ∧ q.op = .dataIO := by
  simp [readInFlight, unmappedRead]

/-- Refutes O37: the clauses for an address that nothing maps hold for every state, and a read that is in flight behind an
earlier one of its path is not delivered yet (R273), so that RdIO sends no answer. -/
theorem not_registerAccesses : ¬ Obligations.RegisterAccesses := by
  rintro ⟨-, -, -, -, -, -, -, -, -, hread, -⟩
  obtain ⟨t, ht, hsent, -⟩ := hread unmappedRead readInFlight unmappedRead_target
  rw [exec_rdIO_of_behind unmappedRead_behind] at ht
  cases ht
  obtain ⟨q, hq, ha⟩ := sentSome_packet hsent
  simp only [Bool.and_eq_true, beq_iff_eq] at ha
  obtain ⟨⟨⟨hop, -⟩, -⟩, -⟩ := ha
  exact readInFlight_unanswered ⟨q, hq, hop⟩

end Sys2Proof.Machine

/-! # Commands that are accesses to a register

Each is a guarded access of the register that accessOf names, in the CDn space of a die or of no die. -/

namespace Sys2Proof.Machine

/-- The access of a register in the power domain of die d, or in that of no compute die. -/
def guardedIn (d : Option Nat) (a : Access) (w : Bool) (g : Reg) (i : Nat) (act : State → State) (s : State) : State :=
  match d with
  | some n => guardedCd n a w g i act s
  | none => guarded a w g i act s

/-- Outside the CDn space of a die that is not ON, the access is the guarded one. -/
theorem guardedIn_on {d : Option Nat} {s : State} (hd : d.any (!dieOn · s) = false) (a : Access) (w : Bool) (g : Reg)
    (i : Nat) (act : State → State) : guardedIn d a w g i act s = guarded a w g i act s := by
  cases d with
  | none => rfl
  | some n =>
    have hon : dieOn n s = true := by simpa using hd
    exact if_pos hon

/-- A register of a die that is not ON answers with an error and performs nothing (R34). -/
theorem guardedIn_down {d : Option Nat} {s : State} (hd : d.any (!dieOn · s) = true) (a : Access) (w : Bool) (g : Reg)
    (i : Nat) (act : State → State) : guardedIn d a w g i act s = s.answerErr 0b10#2 := by
  cases d with
  | none => cases hd
  | some n =>
    have hoff : dieOn n s = false := by simpa using hd
    simp [guardedIn, guardedCd, hoff]

/-- The command register of a range engine lies in the CDn space of the engine's die. -/
theorem rangeCmd_guardedIn {a a' : Access} {e cmd i : Nat} {w : Bool} {g : Reg} {d : Option Nat}
    (h : (if e < 240 then some (a, true, Reg.CD_CORE_RANGE_CMD, e, some (e / 20))
      else some (a, true, Reg.CD_L3_RANGE_CMD, e - 240, some (e - 240))) = some (a', w, g, i, d)) (s : State) :
    rangeCmd a e cmd s = guardedIn d a' w g i (rangeStart a e cmd) s := by
  unfold rangeCmd
  split at h <;> obtain ⟨rfl, rfl, rfl, rfl, rfl⟩ := by simpa only [Option.some.injEq, Prod.mk.injEq] using h
  · exact if_pos ‹_›
  · exact if_neg ‹_›

/-- A guarded access of a register in the power domain of no compute die. -/
theorem next_guarded (a : Access) (w : Bool) (g : Reg) (i : Nat) (act : State → State) (s : State) :
    ∃ act' : State → State, (.next (guarded a w g i act s) : Out) = .next (guardedIn none a w g i act' s) :=
  ⟨act, rfl⟩

/-- A guarded access of an instance that exists. -/
theorem next_guarded_of_lt {k n : Nat} (hk : k < n) (a : Access) (w : Bool) (g : Reg) (i : Nat) (act : State → State)
    (s : State) :
    ∃ act' : State → State,
      (.next (if k < n then guarded a w g i act s else s) : Out) = .next (guardedIn none a w g i act' s) :=
  ⟨act, congrArg Host.Outcome.next (if_pos hk)⟩

/-- A guarded access of a register in the CDn space of die n. -/
theorem next_guardedCd (n : Nat) (a : Access) (w : Bool) (g : Reg) (i : Nat) (act : State → State) (s : State) :
    ∃ act' : State → State, (.next (guardedCd n a w g i act s) : Out) = .next (guardedIn (some n) a w g i act' s) :=
  ⟨act, rfl⟩

/-- What a command that accessOf names does is its guarded access. -/
theorem exec_accessOf {c : Instr} {a : Access} {w : Bool} {g : Reg} {i : Nat} {d : Option Nat}
    (h : accessOf c = some (a, w, g, i, d)) (s : State) :
    ∃ act : State → State, exec c s = .next (guardedIn d a w g i act s) := by
  unfold exec
  cases c with
  | portEnable | portDisable | restart | forceHoldover | resync | todArm | calendarEnable | calendarDisable |
    calEditRead | calEditWrite | calEditDisarm | calEditDisarmPurge | blockCancel | blockEnable | forceLow |
    forceHigh | forceToggle | pinModeOutput | pinModeOffCapture | capTbRead | mcInit |
    pageRetire | rawRead | rawWrite | encode | encodePoison | epochSwitch | routeTableWrite | copy | batArm | batStop |
    batBufRead | retrainFull | retrainFast | progWrite | pause | resume | abort | stop | secureCall | publish |
    msixRaise | windowCommit | retrain | rejoin | palegPortEnable | msgTx | msgRxRead | plWindowCommit | plockEnter |
    plockLeave | hardResetCmd | warmResetCmd | startOk | tailWrite | dbgTestHold | ctrBufRead | wcDbgWrite |
    pendWrite | semCountWrite | outboundWindowWrite =>
    cases h
    exact next_guarded ..
  | cacheDisable | cacheEnable =>
    cases h
    exact next_guardedCd ..
  | rangeClean | rangeInval | rangeCleanInval | rangePreload =>
    exact ⟨_, congrArg Host.Outcome.next (rangeCmd_guardedIn h s)⟩
  | lockRangeWrite _ l3 =>
    cases l3 <;> cases h <;> exact next_guardedCd ..
  | regionWrite _ _ code =>
    cases code <;> cases h <;> exact next_guarded ..
  | creditWrite _ _ p =>
    cases p <;> cases h <;> exact next_guarded ..
  | dmaStart _ ao =>
    cases ao <;> cases h
    exact next_guarded ..
  | helmDoorbell _ k | hartReassign _ k | vfBind _ k | partitionReset _ k =>
    simp only [accessOf] at h
    split at h <;> cases h
    exact next_guarded_of_lt ‹_› ..
  | _ => cases h

/-- Settles O55: a command that accessOf names is a guarded access, and the laws of guarded say what each refusal does. -/
theorem refusedAccesses : Obligations.RefusedAccesses := by
  intro c a w g i d s hc
  obtain ⟨act, hexec⟩ := exec_accessOf hc s
  rw [hexec]
  refine ⟨fun hdown => by rw [guardedIn_down hdown], fun hon => ?_⟩
  rw [guardedIn_on hon]
  refine ⟨fun hclk => by rw [guarded_stopped hclk], fun hclk => ⟨fun herr => ?_, fun hworld => ?_, fun hpart => ?_⟩⟩
  · rw [guarded_err herr]
  · rw [guarded_world hworld hclk]
  · rw [guarded_part hpart hclk]

end Sys2Proof.Machine

/-! # A message to a die that is not ON

The pages of the IMSIC files are served by the dies, but a message that a die's state loses is counted in INT_STATUS, outside
the die (R447). -/

namespace Sys2Proof.Machine

/-- A message of identity 1, sent by PCIe port 0 to the Open machine file of hart 0. -/
def msiToHart0 : Packet :=
  { op := .wrIO, src := 0x118, dst := 0xF0, addr := 0xFF1000000000, mask := 0xF, payload := 1 }

/-- CD0, where hart 0 stands, is not ON at reset. -/
theorem reset_die0_down : dieOn 0 State.reset = false := by decide +kernel

theorem msiToHart0_target :
    ioTarget (msiToHart0.addr + (ioSpan { msiToHart0 with op := .wrIO }).1) State.reset = .die 0 := by decide +kernel

/-- The lost message changes INT_STATUS. -/
theorem msiToHart0_counted :
    regsBut [.FAB_EPOCH] (ioArrive msiToHart0 State.reset) ≠ regsBut [.FAB_EPOCH] State.reset := by decide +kernel

/-- Refutes O46: its clause for WrIO takes in every address that a die serves, the IMSIC pages too, and a message to a hart of
a die that is not ON is answered with the error but counted in INT_STATUS.LOST with ERR set (R447). -/
theorem not_dieRegistersWhileDown : ¬ Obligations.DieRegistersWhileDown := by
  rintro ⟨-, -, hwrite, -⟩
  obtain ⟨t, ht, -, hregs, -⟩ := hwrite msiToHart0 0 State.reset (by decide) reset_die0_down msiToHart0_target rfl
  cases ht
  exact msiToHart0_counted hregs

end Sys2Proof.Machine

/-! # What the commands of the phase reference and the harts leave alone

The lemma only_exec… of each command names in one number what it may change; the frame of a command holds when its lists take
that number in. -/

namespace Sys2Proof.Machine

/-- A command has a frame that takes in all that it may change. -/
theorem frame_of_sub {A : Nat} {c : Instr} {l : List Part} {r : List Reg} (hA : A &&& maskOf l r = A)
    (h : ∀ {W : Nat} {s : State}, Sub A W → Only W s s → OnlyOut W s (exec c s)) : Frame c l r :=
  fun s t ht => (h hA (Only.refl _ s) t ht).changesOnly

/-- Settles O50: the lists of each frame take in what the lemma of its command names. -/
theorem clockAndHartFrames : Obligations.ClockAndHartFrames :=
  ⟨fun _ _ _ _ _ _ => frame_of_sub rfl fun hW => only_execCsrAccess hW,
  -- The phase ports.
  fun _ _ _ => frame_of_sub rfl fun hW => only_execPortEnable hW,
  fun _ _ _ => frame_of_sub rfl fun hW => only_execPortDisable hW,
  fun _ _ => frame_of_sub rfl fun hW => only_execRestart hW,
  fun _ _ => frame_of_sub rfl fun hW => only_execForceHoldover hW,
  fun _ _ => frame_of_sub rfl fun hW => only_execResync hW,
  fun _ _ _ _ => frame_of_sub rfl fun hW => only_execPulseEdge hW,
  fun _ => frame_of_sub rfl fun hW => only_execStepHoldEnd hW,
  fun _ => frame_of_sub rfl fun hW => only_execLossWindowExpiry hW,
  fun _ => frame_of_sub rfl fun hW => only_execHoldoverToFree hW,
  fun _ => frame_of_sub rfl fun hW => only_execHoldoverCycleCrossing hW,
  fun _ _ _ _ _ _ => frame_of_sub rfl fun hW => only_execEncoderCountEdge hW,
  fun _ => frame_of_sub rfl fun hW => only_execIllegalTransition hW,
  fun _ => frame_of_sub rfl fun hW => only_execLineFault hW,
  fun _ _ => frame_of_sub rfl fun hW => only_execZEdge hW,
  fun _ _ _ => frame_of_sub rfl fun hW => only_execTodArm hW,
  -- The replicas.
  frame_of_sub rfl fun hW => only_execPhaseBroadcast hW,
  fun _ _ => frame_of_sub rfl fun hW => only_execPhaseBroadcastReceive hW,
  fun _ => frame_of_sub rfl fun hW => only_execReplicaValidLost hW,
  -- The calendar.
  fun _ => frame_of_sub rfl fun hW => only_execCalendarMatch hW,
  fun _ _ => frame_of_sub rfl fun hW => only_execCalendarEnable hW,
  fun _ _ => frame_of_sub rfl fun hW => only_execCalendarDisable hW,
  frame_of_sub rfl fun hW => only_execDueQueueService hW,
  frame_of_sub rfl fun hW => only_execPendingFiringEnqueue hW,
  fun _ _ => frame_of_sub rfl fun hW => only_execCalEditRead hW,
  fun _ _ => frame_of_sub rfl fun hW => only_execCalEditWrite hW,
  fun _ _ => frame_of_sub rfl fun hW => only_execCalEditDisarm hW,
  fun _ _ => frame_of_sub rfl fun hW => only_execCalEditDisarmPurge hW,
  fun _ _ _ => frame_of_sub rfl fun hW => only_execBlockCancel hW,
  frame_of_sub rfl fun hW => only_execCancellationStart hW,
  frame_of_sub rfl fun hW => only_execCancellationDone hW,
  fun _ _ _ => frame_of_sub rfl fun hW => only_execBlockEnable hW,
  -- The timed pins.
  fun _ => frame_of_sub rfl fun hW => only_execTioEdgePlace hW,
  fun _ => frame_of_sub rfl fun hW => only_execPulseTrailingEdge hW,
  fun _ _ => frame_of_sub rfl fun hW => only_execForceLow hW,
  fun _ _ => frame_of_sub rfl fun hW => only_execForceHigh hW,
  fun _ _ => frame_of_sub rfl fun hW => only_execForceToggle hW,
  fun _ _ _ _ => frame_of_sub rfl fun hW => only_execPinModeOutput hW,
  fun _ _ _ => frame_of_sub rfl fun hW => only_execPinModeOffCapture hW,
  fun _ _ _ => frame_of_sub rfl fun hW => only_execCaptureEdge hW,
  fun _ _ => frame_of_sub rfl fun hW => only_execCapTbRead hW,
  -- Loads, stores and fences.
  fun _ _ _ _ _ => frame_of_sub rfl fun hW => only_execLoad hW,
  fun _ _ _ _ => frame_of_sub rfl fun hW => only_execStore hW,
  fun _ _ _ _ _ => frame_of_sub rfl fun hW => only_execAmo hW,
  fun _ _ _ => frame_of_sub rfl fun hW => only_execLr hW,
  fun _ _ _ _ => frame_of_sub rfl fun hW => only_execSc hW,
  fun _ _ => frame_of_sub rfl fun hW => only_execCboClean hW,
  fun _ _ => frame_of_sub rfl fun hW => only_execCboFlush hW,
  fun _ _ => frame_of_sub rfl fun hW => only_execCboInval hW,
  fun _ _ => frame_of_sub rfl fun hW => only_execCboZero hW,
  fun _ _ succ => frame_of_sub rfl fun hW => only_execFence (z2 := succ) hW,
  fun _ => frame_of_sub rfl fun hW => only_execFenceI hW,
  fun _ => frame_of_sub rfl fun hW => only_execSfenceVma hW,
  fun _ => frame_of_sub rfl fun hW => only_execWfi hW,
  fun _ => frame_of_sub rfl fun hW => only_execWrsNto hW,
  fun _ => frame_of_sub rfl fun hW => only_execWrsSto hW,
  -- Traps and CSRs.
  fun _ => frame_of_sub rfl fun hW => only_execMret hW,
  fun _ _ => frame_of_sub rfl fun hW => only_execXret hW,
  fun _ => frame_of_sub rfl fun hW => only_execTrapEntry hW,
  fun _ _ _ => frame_of_sub rfl fun hW => only_execMzdcfgWrite hW,
  fun _ _ _ => frame_of_sub rfl fun hW => only_execSzdtdbaseWrite hW,
  -- Phase instructions and tasks.
  fun _ => frame_of_sub rfl fun hW => only_execPhRead hW,
  fun _ _ => frame_of_sub rfl fun hW => only_execPhWait hW,
  fun _ => frame_of_sub rfl fun hW => only_execPhWaitComplete hW,
  fun _ _ _ _ _ => frame_of_sub rfl fun hW => only_execTsStore hW,
  fun _ => frame_of_sub rfl fun hW => only_execTsStoreUnstall hW,
  fun _ _ _ => frame_of_sub rfl fun hW => only_execTsCancelI hW,
  fun _ _ => frame_of_sub rfl fun hW => only_execDlSet hW,
  fun _ => frame_of_sub rfl fun hW => only_execDlClr hW,
  fun _ _ _ => frame_of_sub rfl fun hW => only_execTkYield hW,
  fun _ => frame_of_sub rfl fun hW => only_execTkArg hW,
  fun _ _ _ => frame_of_sub rfl fun hW => only_execLdPair hW,
  fun _ _ _ _ _ => frame_of_sub rfl fun hW => only_execSdPair hW,
  fun _ _ => frame_of_sub rfl fun hW => only_execDeadlineMiss hW,
  -- Timed stores, the store buffer and the end of a slew.
  fun _ _ => frame_of_sub rfl fun hW => only_execTimedStore hW,
  fun _ _ => frame_of_sub rfl fun hW => only_execTimedStoreMatch hW,
  frame_of_sub rfl fun hW => only_execTimedStoreCommitIssue hW,
  fun _ _ _ => frame_of_sub rfl fun hW => only_execTimedStoreCancel hW,
  fun _ _ => frame_of_sub rfl fun hW => only_execStoreBufferEntryLeave hW,
  fun _ => frame_of_sub rfl fun hW => only_execSlewEnd hW⟩

end Sys2Proof.Machine

/-! # The registers of a phase port

The status, the rate and the configuration of a port are read back after each operation that the commands of the port share.
A firing entry or a timed store that a move of the count causes touches none of them. -/

namespace Sys2Proof.Machine

section
variable {s t : State} {g : Reg} {f : Fld} {i n : Nat} {v : Word}

@[simp] theorem State.setPort_r (p : PortAux) : (s.setPort n p).r g i = s.r g i := rfl
@[simp] theorem State.setPort_f (p : PortAux) : (s.setPort n p).f f i = s.f f i := rfl
@[simp] theorem State.setPort_b (p : PortAux) : (s.setPort n p).b f i = s.b f i := rfl
@[simp] theorem State.setR_port : (s.setR g i v).port n = s.port n := rfl
@[simp] theorem State.setF_port {x : Nat} : (s.setF f i x).port n = s.port n := rfl
@[simp] theorem State.setB_port {x : Bool} : (s.setB f i x).port n = s.port n := rfl
@[simp] theorem State.answer_port : (s.answer v).port n = s.port n := rfl
@[simp] theorem State.bump_port : s.bump.port n = s.port n := rfl
@[simp] theorem State.setPort_port (p : PortAux) : (s.setPort n p).port n = p := smapGet_set_self ..

/-- A field of a register after another register was written. -/
theorem State.setR_f_reg (h : f.reg ≠ g) : (s.setR g i v).f f n = s.f f n := by
  rw [State.f, State.r_setR_reg _ h, State.f]

/-- The registers that firing entries and matching timed stores change, and the count that a jump or an edge moves. -/
def eventRegs : List Reg :=
  [.PHE_PORT_PHASE, .PHE_CAL_STATUS, .PHE_CAL_ERR, .PHE_CAL_ERR_TB, .TIO_PIN_STATUS, .PHE_TSQ_STATUS]

/-- The parts of the state that a move of a count and the events it causes change. -/
def eventParts : List Part := [.regs, .msgs, .phase, .calendar, .pins, .timed]

/-- What changes no register outside r keeps the others. -/
theorem Only.r_eq {A : Nat} {l : List Part} {r : List Reg} (h : Only A s t) (hA : A &&& maskOf l r = A) (hg : g ∉ r)
    (i : Nat) : t.r g i = s.r g i := by
  obtain ⟨-, regs⟩ := (h.mono hA).changesOnly
  exact regs g hg i

/-- What changes no part of the phase ports keeps their hidden state. -/
theorem Only.port_eq {A : Nat} (h : Only A s t) (hA : A.testBit (Part.phase).ctorIdx = false) (n : Nat) :
    t.port n = s.port n := by
  obtain ⟨-, parts, -⟩ := h
  obtain ⟨hports, -⟩ := parts .phase hA
  rw [State.port, State.port, hports]

/-- A move of a count and its events leave the registers outside eventRegs. -/
theorem event_r {A : Nat} (hA : A &&& maskOf eventParts eventRegs = A) (h : Only A s t) (hg : g ∉ eventRegs) :
    t.r g i = s.r g i := h.r_eq hA hg i

@[simp] theorem settle_r (hg : g ∉ eventRegs) : (settle n s).r g i = s.r g i :=
  event_r rfl (only_settle (Nat.and_self _) (.refl _ s)) hg

@[simp] theorem countLoad_r (hg : g ∉ eventRegs) : (countLoad n v s).r g i = s.r g i :=
  event_r rfl (only_countLoad (Nat.and_self _) (.refl _ s)) hg

@[simp] theorem moveCount_r (hg : g ∉ eventRegs) : (moveCount n v s).r g i = s.r g i :=
  event_r rfl (only_moveCount (Nat.and_self _) (.refl _ s)) hg

@[simp] theorem jumpFire_r (hg : g ∉ eventRegs) {c0 c1 : Word} : (jumpFire n c0 c1 s).r g i = s.r g i :=
  event_r rfl (only_jumpFire (Nat.and_self _) (.refl _ s)) hg

@[simp] theorem edgeFire_r (hg : g ∉ eventRegs) {c0 c1 ts : Word} : (edgeFire n c0 c1 ts s).r g i = s.r g i :=
  event_r rfl (only_edgeFire (Nat.and_self _) (.refl _ s)) hg

@[simp] theorem latchLive_r : (latchLive n s).r g i = s.r g i := rfl

@[simp] theorem setRate_inc : (setRate n v s).r .PHE_PORT_INC n = v := State.r_setR_self ..
@[simp] theorem setRate_r (hg : g ≠ .PHE_PORT_INC) : (setRate n v s).r g i = s.r g i := State.r_setR_reg _ hg ..
@[simp] theorem setLoop_inc : (setLoop n v s).r .PHE_PORT_INC n = v := setRate_inc
@[simp] theorem setLoop_r (hg : g ≠ .PHE_PORT_INC) : (setLoop n v s).r g i = s.r g i := setRate_r hg

@[simp] theorem setPortState_status {x : Nat} :
    (setPortState n x s).r .PHE_PORT_STATUS n = fset F.PHE_PORT_STATUS_STATE (s.r .PHE_PORT_STATUS n) x :=
  State.r_setR_self ..
@[simp] theorem setPortState_r {x : Nat} (hg : g ≠ .PHE_PORT_STATUS) : (setPortState n x s).r g i = s.r g i :=
  State.r_setR_reg _ hg ..
@[simp] theorem enterLocked_status :
    (enterLocked n s).r .PHE_PORT_STATUS n =
      fset F.PHE_PORT_STATUS_LOCKED_EV (fset F.PHE_PORT_STATUS_STATE (s.r .PHE_PORT_STATUS n) 2) 1 := by
  simp [enterLocked, State.setB, State.setF]
@[simp] theorem enterLocked_r (hg : g ≠ .PHE_PORT_STATUS) : (enterLocked n s).r g i = s.r g i := by
  simp (disch := assumption) only [enterLocked, State.setB, State.setF, State.r_setR_reg, setPortState_r]

@[simp] theorem setRate_port : (setRate n v s).port i = s.port i := rfl
@[simp] theorem setPortState_port {x : Nat} : (setPortState n x s).port i = s.port i := rfl

/-- The word of the port's status after a start from the word w (R48): EDGES and DIR cleared, and LOCKED entered at once by a
port whose KIND needs no edges. -/
def startStatus (kind : Nat) (w : Word) : Word :=
  let w := fset F.PHE_PORT_STATUS_DIR (fset F.PHE_PORT_STATUS_EDGES w 0) 0
  if kind = 1 ∨ kind = 5 then fset F.PHE_PORT_STATUS_LOCKED_EV (fset F.PHE_PORT_STATUS_STATE w 2) 1
  else fset F.PHE_PORT_STATUS_STATE w 1

/-- What a start leaves in the status and the rate of the port, by KIND. -/
theorem portStart_regs :
    (portStart n s).r .PHE_PORT_STATUS n = startStatus (portKind n s) (s.r .PHE_PORT_STATUS n) ∧
      (portStart n s).r .PHE_PORT_INC n = if portKind n s = 5 then s.r .PHE_PORT_NOMINAL n else 0 := by
  unfold portStart
  simp only [startStatus, portKind, State.f, State.setB, State.setF]
  by_cases h1 : fget F.PHE_PORT_CFG_KIND (s.r .PHE_PORT_CFG n) = 1
  · simp (disch := decide) [h1, State.r_setR_reg]
  · by_cases h5 : fget F.PHE_PORT_CFG_KIND (s.r .PHE_PORT_CFG n) = 5
    · simp (disch := decide) [h5, State.r_setR_reg]
    · simp (disch := decide) [h1, h5, State.r_setR_reg]

theorem portStart_cfg : (portStart n s).r .PHE_PORT_CFG n = s.r .PHE_PORT_CFG n :=
  Only.r_eq (l := eventParts) (r := portRegs ++ [.PHE_PORT_INC]) (only_portStart (Nat.and_self _) (.refl _ s)) rfl
    (by decide) n

theorem portStart_state :
    (portStart n s).f F.PHE_PORT_STATUS_STATE n = if portKind n s = 1 ∨ portKind n s = 5 then 2 else 1 := by
  obtain ⟨hstatus, -⟩ := portStart_regs (n := n) (s := s)
  rw [State.f, hstatus, startStatus]
  split <;> simp (disch := decide) [fget_fset, fget_fset_ne]

theorem portStart_edges : (portStart n s).f F.PHE_PORT_STATUS_EDGES n = 0 := by
  obtain ⟨hstatus, -⟩ := portStart_regs (n := n) (s := s)
  rw [State.f, hstatus, startStatus]
  split <;> simp (disch := decide) [fget_fset, fget_fset_ne]

theorem portStop_inc : (portStop n s).r .PHE_PORT_INC n = 0 := by
  simp (disch := decide) [portStop]

theorem portStop_state : (portStop n s).f F.PHE_PORT_STATUS_STATE n = 0 := by
  simp (disch := decide) [portStop, State.f, fget_fset]

@[simp] theorem enterHoldover_inc : (enterHoldover n s).r .PHE_PORT_INC n = (s.port n).loopRate := by
  simp [enterHoldover]

@[simp] theorem enterHoldover_status :
    (enterHoldover n s).r .PHE_PORT_STATUS n =
      fset F.PHE_PORT_STATUS_LOSS (fset F.PHE_PORT_STATUS_STATE (s.r .PHE_PORT_STATUS n) 3) 1 := by
  simp [enterHoldover, State.setB, State.setF]

theorem enterHoldover_state : (enterHoldover n s).f F.PHE_PORT_STATUS_STATE n = 3 := by
  simp (disch := decide) [State.f, fget_fset, fget_fset_ne]

theorem enterHoldover_loss : (enterHoldover n s).b F.PHE_PORT_STATUS_LOSS n = true := by
  simp (disch := decide) [State.f, State.b, fget_fset]

@[simp] theorem stepCorrect_status {e : Int} :
    (stepCorrect n e s).r .PHE_PORT_STATUS n = fset F.PHE_PORT_STATUS_STEPPED (s.r .PHE_PORT_STATUS n) 1 := by
  unfold stepCorrect
  simp only [State.setB, State.setF]
  by_cases hneg : e < 0
  · simp (disch := decide) [hneg]
  · by_cases h0 : e = 0
    · simp (disch := decide) [h0]
    · simp (disch := decide) [hneg, h0]

/-- The command is a guarded access of a register, and what the access performs has the property. -/
theorem gives_of_allowed {c : Instr} {a : Access} {w : Bool} {act : State → State} {P : State → Prop}
    (hc : exec c s = .next (guarded a w g i act s)) (ha : Allowed a w g i s) (hP : P (act (s.answer 0))) : Gives c s P :=
  ⟨_, hc, by rwa [guarded_ok ha]⟩

/-- A one-bit field is the bit. -/
theorem fget_flag (h : f.hi = f.lo) (v : Word) : (fget f v != 0) = bit v f.lo := by
  rw [fget, bit, BitVec.getLsbD, Nat.testBit_eq_decide_div_mod_eq, h, Nat.add_sub_cancel_left, pow_one]
  rcases Nat.mod_two_eq_zero_or_one (v.toNat / 2 ^ f.lo) with e | e <;> simp [e]

theorem State.b_eq_bit (h : f.hi = f.lo) (i : Nat) : s.b f i = bit (s.r f.reg i) f.lo := fget_flag h _

/-- The word that a write of PHE_PORT_CFG(n) by the world that owns the port sets: WORLD follows a Secure write while LOCK
is 0 (R369), and the bits without a field read 0 (R62). -/
def portCfgWord (a : Access) (n : Nat) (v : Word) (s : State) : Word :=
  fset ⟨.PHE_PORT_CFG, 4, 4⟩ (fset ⟨.PHE_PORT_CFG, 62, 56⟩
    (copyF (if a.world && !s.b F.PHE_REF_CTRL_LOCK 0 then v else s.r .PHE_PORT_CFG n) v F.PHE_PORT_CFG_WORLD) 0) 0

theorem fget_portCfgWord {a : Access} (hf : f.hi < 56) (h4 : 4 < f.lo ∨ f.hi < 4) :
    fget f (portCfgWord a n v s) = fget f v := by
  rw [portCfgWord, copyF, fget_fset_ne _ _ _ _ (by omega) h4.symm, fget_fset_ne _ _ _ _ (by omega) (by simp; omega),
    fget_fset_ne _ _ _ _ (by omega) (by simp; omega)]

theorem bit_portCfgWord {a : Access} : bit (portCfgWord a n v s) 0 = bit v 0 := by
  rw [← fget_flag (f := F.PHE_PORT_CFG_ENABLE) rfl, ← fget_flag (f := F.PHE_PORT_CFG_ENABLE) rfl,
    fget_portCfgWord (by decide) (by decide)]

theorem enableInvalid_portCfgWord {a : Access} : enableInvalid (portCfgWord a n v s) = enableInvalid v := by
  simp (disch := decide) only [enableInvalid, fget_portCfgWord]

/-- A write by the world that owns the port. -/
theorem portCfgWrite_own {a : Access} (hw : a.world = s.b F.PHE_PORT_CFG_WORLD n) (v : Word) :
    portCfgWrite a n v s =
      let w := portCfgWord a n v s
      if s.b F.PHE_PORT_CFG_ENABLE n then
        if bit v 0 then
          let kept := offFields.foldl (fun x f => copyF (s.r .PHE_PORT_CFG n) x f) w
          if kept = w then s.setR .PHE_PORT_CFG n kept
          else (s.setR .PHE_PORT_CFG n kept).setB F.PHE_PORT_STATUS_CFGERR n true
        else (portStop n s).setR .PHE_PORT_CFG n w
      else if bit v 0 then
        if enableInvalid v then
          (s.setR .PHE_PORT_CFG n (setBits w 0 0 0)).setB F.PHE_PORT_STATUS_CFGERR n true
        else portStart n (s.setR .PHE_PORT_CFG n w)
      else s.setR .PHE_PORT_CFG n w := by
  have hworld : (a.world && !bit (s.r .PHE_PORT_CFG n) 63) = false := by
    rw [hw, State.b_eq_bit rfl]
    simp
  have hword : fset ⟨.PHE_PORT_CFG, 4, 4⟩ (fset ⟨.PHE_PORT_CFG, 62, 56⟩ (copyF
      (if (a.world && !s.b F.PHE_REF_CTRL_LOCK 0) = true then v else s.r .PHE_PORT_CFG n) v F.PHE_PORT_CFG_WORLD) 0) 0 =
      portCfgWord a n v s := rfl
  simp only [portCfgWrite, hworld, Bool.false_eq_true, if_false, hword, bit_portCfgWord, enableInvalid_portCfgWord]
  rw [State.b_eq_bit (f := F.PHE_PORT_CFG_ENABLE) rfl]

/-- A Secure write to a port of the Open world changes WORLD alone (R369). -/
theorem portCfgWrite_foreign {a : Access} (ha : a.world = true) (hw : s.b F.PHE_PORT_CFG_WORLD n = false) (v : Word) :
    portCfgWrite a n v s = s.setR .PHE_PORT_CFG n
      (copyF (if s.b F.PHE_REF_CTRL_LOCK 0 then s.r .PHE_PORT_CFG n else v) (s.r .PHE_PORT_CFG n) F.PHE_PORT_CFG_WORLD) := by
  rw [State.b_eq_bit rfl] at hw
  simp only [portCfgWrite, ha, hw]
  cases s.b F.PHE_REF_CTRL_LOCK 0 <;> rfl

theorem fget_setBits0 {x : Nat} (hf : f.hi < 64) (h0 : 0 < f.lo) : fget f (setBits v 0 0 x) = fget f v :=
  fget_fset_ne _ _ _ _ hf (.inr h0)

theorem bit_setBits_self {x k : Nat} (hk : k < 64) : bit (setBits v k k x) k = x.testBit 0 := by
  rw [bit, setBits, fset_getLsbD _ _ _ _ hk, if_pos (by simp), Nat.sub_self]

/-! KIND and CPC decide whether an enable is valid (R63). -/

theorem enableInvalid_setBits0 {x : Nat} : enableInvalid (setBits v 0 0 x) = enableInvalid v := by
  simp (disch := decide) only [enableInvalid, fget_setBits0]

theorem enableInvalid_eq_false (h : fget F.PHE_PORT_CFG_KIND v = 1 ∨ fget F.PHE_PORT_CFG_KIND v = 2 →
    fget F.PHE_PORT_CFG_CPC v ≠ 0) (h2 : fget F.PHE_PORT_CFG_KIND v = 2 → fget F.PHE_PORT_CFG_CPC v < 65536) :
    enableInvalid v = false := by
  simp only [enableInvalid, Bool.or_eq_false_iff, Bool.and_eq_false_imp, Bool.or_eq_true, beq_iff_eq, beq_eq_false_iff_ne,
    decide_eq_false_iff_not, Nat.not_le]
  exact ⟨h, h2⟩

theorem enableInvalid_of_cpc (hk : fget F.PHE_PORT_CFG_KIND v = 1 ∨ fget F.PHE_PORT_CFG_KIND v = 2)
    (h : fget F.PHE_PORT_CFG_CPC v = 0) : enableInvalid v = true := by
  rcases hk with hk | hk <;> simp [enableInvalid, h, hk]

/-- The fields that require OFF keep their values under a write to an enabled port, and BW is taken. -/
theorem fget_offFields (old w : Word) :
    let k := offFields.foldl (fun x f => copyF old x f) w
    fget F.PHE_PORT_CFG_KIND k = fget F.PHE_PORT_CFG_KIND old ∧ fget F.PHE_PORT_CFG_CPC k = fget F.PHE_PORT_CFG_CPC old ∧
    fget F.PHE_PORT_CFG_DECODE k = fget F.PHE_PORT_CFG_DECODE old ∧
    fget F.PHE_PORT_CFG_EDGE k = fget F.PHE_PORT_CFG_EDGE old ∧ fget F.PHE_PORT_CFG_BW k = fget F.PHE_PORT_CFG_BW w := by
  have hlt (f : Fld) : fget f old % 2 ^ (f.hi + 1 - f.lo) = fget f old := by rw [fget, Nat.mod_mod]
  simp (disch := decide) only [offFields, List.foldl, copyF, fget_fset, fget_fset_ne, hlt, and_self]

section
variable {a : Access} (hw : a.world = s.b F.PHE_PORT_CFG_WORLD n)
include hw

/-- A valid write of ENABLE 1 to a port that is off starts it. -/
theorem portCfgWrite_start (he : s.b F.PHE_PORT_CFG_ENABLE n = false) (hv : bit v 0 = true) (hi : enableInvalid v = false) :
    portCfgWrite a n v s = portStart n (s.setR .PHE_PORT_CFG n (portCfgWord a n v s)) := by
  simp [portCfgWrite_own hw, he, hv, hi]

/-- An invalid one sets CFGERR and leaves the port off. -/
theorem portCfgWrite_invalid (he : s.b F.PHE_PORT_CFG_ENABLE n = false) (hv : bit v 0 = true) (hi : enableInvalid v = true) :
    portCfgWrite a n v s =
      (s.setR .PHE_PORT_CFG n (setBits (portCfgWord a n v s) 0 0 0)).setB F.PHE_PORT_STATUS_CFGERR n true := by
  simp [portCfgWrite_own hw, he, hv, hi]

/-- A write of ENABLE 0 to an enabled port stops it. -/
theorem portCfgWrite_stop (he : s.b F.PHE_PORT_CFG_ENABLE n = true) (hv : bit v 0 = false) :
    portCfgWrite a n v s = (portStop n s).setR .PHE_PORT_CFG n (portCfgWord a n v s) := by
  simp [portCfgWrite_own hw, he, hv]

theorem portCfgWrite_enabled (he : s.b F.PHE_PORT_CFG_ENABLE n = true) (hv : bit v 0 = true) :
    (portCfgWrite a n v s).r .PHE_PORT_CFG n =
        offFields.foldl (fun x f => copyF (s.r .PHE_PORT_CFG n) x f) (portCfgWord a n v s) ∧
      (portCfgWrite a n v s).f F.PHE_PORT_STATUS_STATE n = s.f F.PHE_PORT_STATUS_STATE n := by
  simp only [portCfgWrite_own hw, he, hv, if_true]
  split <;> simp (disch := decide) [State.f, State.setB, State.setF, State.r_setR_reg, fget_fset_ne]

end

theorem portResync_holdWait (h : portState n s = 5) :
    (portResync n s).f F.PHE_PORT_STATUS_STATE n = 2 ∧ (portResync n s).b F.PHE_PORT_STATUS_LOCKED_EV n = true ∧
      (portResync n s).b F.PHE_PORT_STATUS_STEPPED n = true := by
  simp (disch := decide) [portResync, h, State.f, State.b, fget_fset, fget_fset_ne]

/-- RESTART of a port that is on starts it again (R48). -/
theorem portRestart_on (h : portState n s ≠ 0) :
    (portRestart n s).f F.PHE_PORT_STATUS_STATE n = (if portKind n s = 1 ∨ portKind n s = 5 then 2 else 1) ∧
      (portRestart n s).f F.PHE_PORT_STATUS_EDGES n = 0 := by
  rw [portRestart, if_neg h]
  exact ⟨portStart_state, portStart_edges⟩

/-- FORCE_HOLDOVER counts as a loss of the reference (R48). -/
theorem portForceHoldover_on (h : portState n s ≠ 0) :
    (portForceHoldover n s).f F.PHE_PORT_STATUS_STATE n = 3 ∧ (portForceHoldover n s).b F.PHE_PORT_STATUS_LOSS n = true ∧
      (portForceHoldover n s).r .PHE_PORT_INC n = (s.port n).loopRate := by
  rw [portForceHoldover, if_neg h]
  exact ⟨enterHoldover_state, enterHoldover_loss, enterHoldover_inc⟩

section
variable {a : Access} (hw : a.world = s.b F.PHE_PORT_CFG_WORLD n)
include hw

/-- What an enable by the port's own world starts (R48). -/
theorem portCfgWrite_start_effect (he : s.b F.PHE_PORT_CFG_ENABLE n = false) (hi : enableInvalid v = false) :
    let t := portCfgWrite a n (setBits v 0 0 1) s
    t.b F.PHE_PORT_CFG_ENABLE n = true ∧
      t.f F.PHE_PORT_STATUS_STATE n =
        (if fget F.PHE_PORT_CFG_KIND v = 1 ∨ fget F.PHE_PORT_CFG_KIND v = 5 then 2 else 1) ∧
      t.r .PHE_PORT_INC n = (if fget F.PHE_PORT_CFG_KIND v = 5 then s.r .PHE_PORT_NOMINAL n else 0) := by
  have hon : bit (setBits v 0 0 1) 0 = true := bit_setBits_self (by decide)
  have hkind : portKind n (s.setR .PHE_PORT_CFG n (portCfgWord a n (setBits v 0 0 1) s)) = fget F.PHE_PORT_CFG_KIND v := by
    simp (disch := decide) [portKind, State.f, fget_portCfgWord, fget_setBits0]
  simp only [portCfgWrite_start hw he hon (enableInvalid_setBits0.trans hi)]
  refine ⟨?_, ?_, ?_⟩
  · rw [State.b_eq_bit rfl, portStart_cfg, State.r_setR_self, bit_portCfgWord, hon]
  · rw [portStart_state, hkind]
  · obtain ⟨-, hinc⟩ := portStart_regs (n := n) (s := s.setR .PHE_PORT_CFG n (portCfgWord a n (setBits v 0 0 1) s))
    rw [hinc, hkind, State.r_setR_reg _ (by decide)]

/-- An invalid enable leaves the port off and sets CFGERR (R63). -/
theorem portCfgWrite_invalid_effect (he : s.b F.PHE_PORT_CFG_ENABLE n = false) (hi : enableInvalid v = true) :
    let t := portCfgWrite a n (setBits v 0 0 1) s
    t.b F.PHE_PORT_CFG_ENABLE n = false ∧ t.b F.PHE_PORT_STATUS_CFGERR n = true ∧
      t.f F.PHE_PORT_STATUS_STATE n = s.f F.PHE_PORT_STATUS_STATE n := by
  have hon : bit (setBits v 0 0 1) 0 = true := bit_setBits_self (by decide)
  simp only [portCfgWrite_invalid hw he hon (enableInvalid_setBits0.trans hi), State.setB, State.setF]
  refine ⟨?_, ?_, ?_⟩
  · rw [State.b_eq_bit rfl, State.r_setR_reg _ (by decide), State.r_setR_self]
    exact bit_setBits_self (by decide)
  · simp (disch := decide) [State.b, State.f, fget_fset]
  · simp (disch := decide) [State.f, State.r_setR_reg, fget_fset_ne]

/-- An enabled port takes BW and keeps the fields that require OFF (R63). -/
theorem portCfgWrite_enabled_effect (he : s.b F.PHE_PORT_CFG_ENABLE n = true) :
    let t := portCfgWrite a n (setBits v 0 0 1) s
    t.f F.PHE_PORT_CFG_KIND n = s.f F.PHE_PORT_CFG_KIND n ∧ t.f F.PHE_PORT_CFG_CPC n = s.f F.PHE_PORT_CFG_CPC n ∧
      t.f F.PHE_PORT_CFG_DECODE n = s.f F.PHE_PORT_CFG_DECODE n ∧
      t.f F.PHE_PORT_CFG_EDGE n = s.f F.PHE_PORT_CFG_EDGE n ∧ t.f F.PHE_PORT_CFG_BW n = fget F.PHE_PORT_CFG_BW v ∧
      t.f F.PHE_PORT_STATUS_STATE n = s.f F.PHE_PORT_STATUS_STATE n := by
  obtain ⟨hcfg, hstate⟩ := portCfgWrite_enabled hw he (v := setBits v 0 0 1) (bit_setBits_self (by decide))
  obtain ⟨hkind, hcpc, hdecode, hedge, hbw⟩ := fget_offFields (s.r .PHE_PORT_CFG n) (portCfgWord a n (setBits v 0 0 1) s)
  rw [fget_portCfgWord (by decide) (by decide), fget_setBits0 (by decide) (by decide)] at hbw
  refine ⟨?_, ?_, ?_, ?_, ?_, hstate⟩ <;> simp only [State.f, hcfg] <;> assumption

/-- Disabling ends in OFF at rate 0 (R48). -/
theorem portCfgWrite_stop_effect (he : s.b F.PHE_PORT_CFG_ENABLE n = true) :
    let t := portCfgWrite a n (setBits v 0 0 0) s
    t.b F.PHE_PORT_CFG_ENABLE n = false ∧ t.f F.PHE_PORT_STATUS_STATE n = 0 ∧ t.r .PHE_PORT_INC n = 0 := by
  have hoff : bit (setBits v 0 0 0) 0 = false := bit_setBits_self (by decide)
  simp only [portCfgWrite_stop hw he hoff]
  refine ⟨?_, ?_, ?_⟩
  · rw [State.b_eq_bit rfl, State.r_setR_self, bit_portCfgWord, hoff]
  · rw [State.setR_f_reg (by decide), portStop_state]
  · rw [State.r_setR_reg _ (by decide), portStop_inc]

end

/-- A Secure write of an Open port takes WORLD, while LOCK is 0 (R369). -/
theorem portCfgWrite_foreign_effect {a : Access} (ha : a.world = true) (hw : s.b F.PHE_PORT_CFG_WORLD n = false) :
    let t := portCfgWrite a n (setBits v 0 0 1) s
    t.b F.PHE_PORT_CFG_WORLD n = (bit v 63 && !s.b F.PHE_REF_CTRL_LOCK 0) ∧
      t.b F.PHE_PORT_CFG_ENABLE n = s.b F.PHE_PORT_CFG_ENABLE n ∧
      t.f F.PHE_PORT_STATUS_STATE n = s.f F.PHE_PORT_STATUS_STATE n := by
  have hworld (x : Word) : fget F.PHE_PORT_CFG_WORLD x % 2 ^ (63 + 1 - 63) = fget F.PHE_PORT_CFG_WORLD x := Nat.mod_mod ..
  simp only [portCfgWrite_foreign ha hw]
  refine ⟨?_, ?_, State.setR_f_reg (by decide)⟩
  · rw [State.b, State.f, State.r_setR_self, copyF, fget_fset _ _ _ (by decide), hworld]
    cases hl : s.b F.PHE_REF_CTRL_LOCK 0
    · simp only [Bool.false_eq_true, if_false, Bool.not_false, Bool.and_true]
      rw [fget_setBits0 (by decide) (by decide), fget_flag rfl]
    · simp only [if_true, Bool.not_true, Bool.and_false]
      exact hw
  · simp (disch := decide) [State.b, State.f, copyF, fget_fset_ne]

end

/-- Settles O1: each clause is an allowed access, and what it performs has its own lemma above. -/
theorem phasePortControl : Obligations.PhasePortControl := by
  refine ⟨fun a n v s ha hw he hcpc hcpc2 => ?_, fun a n v s ha hw he hkind hcpc => ?_, fun a n v s ha hw he => ?_,
    fun a n v s ha haw hw => ?_, fun a n v s ha hw he => ?_, fun a n s ha hst => ?_, fun a n s ha hst => ?_,
    fun a n s ha hst => ?_, fun a n s ha hst => ?_, fun a n s ha hst => ?_⟩ <;> refine gives_of_allowed rfl ha ?_
  · exact portCfgWrite_start_effect hw he (enableInvalid_eq_false hcpc hcpc2)
  · exact portCfgWrite_invalid_effect hw he (enableInvalid_of_cpc hkind hcpc)
  · exact portCfgWrite_enabled_effect hw he
  · exact portCfgWrite_foreign_effect haw hw
  · exact portCfgWrite_stop_effect hw he
  · exact portRestart_on hst
  · exact if_pos hst
  · exact portForceHoldover_on hst
  · exact portResync_holdWait hst
  · exact if_neg hst

end Sys2Proof.Machine

/-! # The command register of a port -/

namespace Sys2Proof.Machine

/-- The addresses of the port commands (R18). -/
theorem addr_portCmd (n : Nat) : Reg.addr .PHE_PORT_CMD n = 0xFF0000001058 + n * 0x100 := by
  simp [Reg.addr, Reg.loc, locAddr]

theorem regFind_portCmd {n : Nat} (hn : n < 8) : regFind (Reg.addr .PHE_PORT_CMD n / 8 * 8) = some (.PHE_PORT_CMD, n) := by
  interval_cases n <;> decide +kernel

/-- A write of PHE_PORT_CMD by its address is a guarded access of the register. -/
theorem exec_registerWrite_portCmd {n : Nat} (hn : n < 8) (a : Access) (v : Word) (s : State) :
    exec (.registerWrite a (Reg.addr .PHE_PORT_CMD n) 8 v) s =
      .next (guarded a true .PHE_PORT_CMD n (portCmdWrite n v) s) := by
  have hfind := regFind_portCmd hn
  rw [addr_portCmd] at hfind
  simp only [exec, execRegisterWrite, mmio, addr_portCmd, hfind, regAccess, regDie]
  rw [if_neg (by omega), if_neg (by omega), if_neg (by omega), if_neg (by omega), if_neg (by omega), if_neg (by omega)]
  rfl

/-! RESTART is bit 2 of the command, FORCE_HOLDOVER bit 1 and RESYNC bit 0. -/

theorem portCmdWrite_restart (n : Nat) {v : Word} (h2 : bit v 2 = true) : portCmdWrite n v = portRestart n :=
  funext fun _ => if_pos h2

theorem portCmdWrite_forceHoldover (n : Nat) {v : Word} (h2 : bit v 2 = false) (h1 : bit v 1 = true) :
    portCmdWrite n v = portForceHoldover n :=
  funext fun _ => by simp [portCmdWrite, h2, h1]

theorem portCmdWrite_resync (n : Nat) {v : Word} (h2 : bit v 2 = false) (h1 : bit v 1 = false) (h0 : bit v 0 = true) :
    portCmdWrite n v = portResync n :=
  funext fun _ => by simp [portCmdWrite, h2, h1, h0]

/-- Settles O44: a write of the command register is a guarded access that performs the command of the highest bit, and so is
that command on its own. -/
theorem portCommandPriority : Obligations.PortCommandPriority := by
  intro a n v s hn
  rw [exec_registerWrite_portCmd hn]
  refine ⟨fun h2 => ?_, fun h2 h1 => ?_, fun h2 h1 h0 => ?_⟩
  · rw [portCmdWrite_restart n h2]
    rfl
  · rw [portCmdWrite_forceHoldover n h2 h1]
    rfl
  · rw [portCmdWrite_resync n h2 h1 h0]
    rfl

end Sys2Proof.Machine

/-! # Edges, the events of a port, and the replicas -/

namespace Sys2Proof.Machine

section
variable {s t : State} {g : Reg} {f : Fld} {i n : Nat} {v : Word}

@[simp] theorem slewCorrect_r {e : Int} (hg : g ≠ .PHE_PORT_INC) : (slewCorrect n e s).r g i = s.r g i := by
  unfold slewCorrect
  split <;> simp [hg]

@[simp] theorem todApply_r {ts b : Word} (hg : g ∉ [Reg.PHE_PORT_TOD, .PHE_PORT_TOD_BASE]) :
    (todApply n ts b s).r g i = s.r g i := by
  have h : Only _ s (todApply n ts b s) := only_todApply (Nat.and_self _) (.refl _ s)
  exact h.r_eq (l := [.regs]) rfl hg i

@[simp] theorem todApply_port {ts b : Word} : (todApply n ts b s).port i = s.port i :=
  Only.port_eq (only_todApply (Nat.and_self _) (.refl _ s)) rfl i

@[simp] theorem countEdge_edge {ts : Word} : (countEdge n ts s).r .PHE_PORT_EDGE_TB n = ts := State.r_setR_self ..
@[simp] theorem countEdge_r {ts : Word} (hg : g ∉ [Reg.PHE_PORT_STATUS, .PHE_PORT_EDGE_TB]) :
    (countEdge n ts s).r g i = s.r g i := by
  simp only [List.mem_cons, List.not_mem_nil, or_false, not_or] at hg
  obtain ⟨hs, he⟩ := hg
  rw [countEdge, State.r_setR_reg _ he, State.wrapInc, State.setF, State.r_setR_reg _ hs]
@[simp] theorem countEdge_port {ts : Word} : (countEdge n ts s).port i = s.port i := rfl
@[simp] theorem countEdge_status {ts : Word} : (countEdge n ts s).r .PHE_PORT_STATUS n =
    fset F.PHE_PORT_STATUS_EDGES (s.r .PHE_PORT_STATUS n) (s.f F.PHE_PORT_STATUS_EDGES n + 1) := by
  simp (disch := decide) [countEdge, State.wrapInc, State.setF, State.r_setR_reg]

@[simp] theorem loopUpdate_r {rm : Int} : (loopUpdate n rm s).r g i = s.r g i := rfl

/-! ## the edges of a pulse port -/

@[simp] theorem latchLive_port : (latchLive n s).port n =
    { s.port n with live := s.r .PHE_PORT_CFG n, holdMax := s.f F.PHE_PORT_AUX_HOLD_MAX n } := State.setPort_port _

/-- The first edge of a run. -/
theorem edgeRun_first {ts : Word} {c : Option Word} (h : (s.port n).runEdges = 0) :
    let t := edgeRun n ts c s
    t.r .PHE_PORT_EDGE_TB n = ts ∧ (t.port n).runEdges = 1 ∧ (t.port n).runFirst = ts ∧
      t.f F.PHE_PORT_STATUS_STATE n = s.f F.PHE_PORT_STATUS_STATE n := by
  unfold edgeRun
  simp (disch := decide) [h, State.f, fget_fset_ne]

@[simp] theorem portQerr_r (hg : g ≠ .PHE_PORT_STATUS) : (portQerr n s).r g i = s.r g i := by
  rw [portQerr, State.setB, State.setF, State.r_setR_reg _ hg, State.satInc, State.satAdd, State.setF, State.r_setR_reg _ hg]

@[simp] theorem portQerr_port : (portQerr n s).port i = s.port i := rfl

theorem portQerr_qerr : (portQerr n s).b F.PHE_PORT_STATUS_QERR n = true := by
  simp (disch := decide) [portQerr, State.b, State.f, State.setB, State.setF, fget_fset]

@[simp] theorem portQerr_state : (portQerr n s).f F.PHE_PORT_STATUS_STATE n = s.f F.PHE_PORT_STATUS_STATE n := by
  simp (disch := decide) [portQerr, State.f, State.setB, State.setF, State.satInc, State.satAdd, fget_fset_ne]

/-- An edge outside the tolerance is a quality error and not the last edge (R45). -/
theorem edgeLocked_out {ts : Word} {c : Option Word}
    (h : withinTol (liveF F.PHE_PORT_CFG_TOL (s.port n)) (ts - s.r .PHE_PORT_EDGE_TB n).toNat
      (s.f F.PHE_PORT_PERIOD_VAL n) = false) :
    let t := edgeLocked n ts c s
    t.b F.PHE_PORT_STATUS_QERR n = true ∧ t.r .PHE_PORT_EDGE_TB n = s.r .PHE_PORT_EDGE_TB n ∧
      t.f F.PHE_PORT_STATUS_STATE n = s.f F.PHE_PORT_STATUS_STATE n := by
  simp only [edgeLocked, h, Bool.not_false, if_true]
  exact ⟨portQerr_qerr, portQerr_r (by decide), portQerr_state⟩

/-- One within the tolerance is the last edge. -/
theorem edgeLocked_within {ts : Word} {c : Option Word}
    (h : withinTol (liveF F.PHE_PORT_CFG_TOL (s.port n)) (ts - s.r .PHE_PORT_EDGE_TB n).toNat
      (s.f F.PHE_PORT_PERIOD_VAL n) = true) :
    let t := edgeLocked n ts c s
    t.r .PHE_PORT_EDGE_TB n = ts ∧ t.f F.PHE_PORT_STATUS_STATE n = s.f F.PHE_PORT_STATUS_STATE n ∧
      t.b F.PHE_PORT_STATUS_QERR n = s.b F.PHE_PORT_STATUS_QERR n := by
  simp only [edgeLocked, h, Bool.not_true, Bool.false_eq_true, if_false]
  split <;> simp (disch := decide) [State.f, State.b, State.setF, State.r_setR_reg, fget_fset_ne]

theorem portEdge_run {ts : Word} {c : Option Word} (hk : portKind n s = 2 ∨ portKind n s = 3)
    (hst : portState n s = 1 ∨ portState n s = 3 ∨ portState n s = 4) : portEdge n ts c s = edgeRun n ts c s := by
  have hkind : portPulseKind n s = true := by rcases hk with h | h <;> simp [portPulseKind, h]
  rcases hst with h | h | h <;> simp [portEdge, hkind, h]

theorem portEdge_locked {ts : Word} {c : Option Word} (hk : portKind n s = 2 ∨ portKind n s = 3)
    (hst : portState n s = 2 ∨ portState n s = 5) : portEdge n ts c s = edgeLocked n ts c s := by
  have hkind : portPulseKind n s = true := by rcases hk with h | h <;> simp [portPulseKind, h]
  rcases hst with h | h <;> simp [portEdge, hkind, h]

/-- An edge of a pulse or 1PPS port that passes the filter and that EDGE selects. -/
theorem exec_pulseEdge {ts : Word} {rising : Bool} {stable : Nat} (hk : portKind n s = 2 ∨ portKind n s = 3)
    (he : edgeSelected n rising s = true) (hf : filterPassed n stable s = true) :
    exec (.pulseEdge n ts rising stable) s = .next (portEdge n ts none s) :=
  congrArg Host.Outcome.next (if_pos ⟨hk, he, hf⟩)

/-! ## The events that time brings to a port -/

theorem holdEnd_ends (h : (s.port n).holding = true) (h0 : (s.port n).holdRem = 0) :
    (holdEnd n s).r .PHE_PORT_INC n = (s.port n).loopRate ∧ ((holdEnd n s).port n).holding = false := by
  simp [holdEnd, h, h0]

theorem enterHoldover_holdover : ((enterHoldover n s).port n).holdover = 0 := by
  simp [enterHoldover]

theorem lossExpiry_expired (hk : portPulseKind n s = true) (hst : portState n s = 2 ∨ portState n s = 5)
    (hi : liveLossK (s.port n) * s.f F.PHE_PORT_PERIOD_VAL n ≤ (s.tb - s.r .PHE_PORT_EDGE_TB n).toNat) :
    lossExpiry n s = enterHoldover n s := if_pos ⟨hk, hst, hi⟩

theorem holdoverFree_at_max (hst : portState n s = 3) (h0 : (s.port n).holdMax ≠ 0)
    (hm : (s.port n).holdMax ≤ (s.port n).holdover.toNat) :
    (holdoverFree n s).f F.PHE_PORT_STATUS_STATE n = 4 ∧ (holdoverFree n s).r .PHE_PORT_INC n = s.r .PHE_PORT_NOMINAL n := by
  simp (disch := decide) [holdoverFree, hst, h0, hm, State.f, fget_fset]

theorem holdoverCount_crossed (hst : portState n s = 3) (hc : 0 < (s.port n).crossings) :
    ((holdoverCount n s).port n).holdover = (s.port n).holdover + 1 := by
  simp [holdoverCount, hst, hc]

theorem slewFinish_ends (hst : portState n s = 2) (hs : (s.port n).slewing = true) (h0 : (s.port n).slew = 0) :
    (slewFinish n s).r .PHE_PORT_INC n = (s.port n).loopRate ∧ ((slewFinish n s).port n).slewing = false := by
  simp [slewFinish, hst, hs, h0]

/-! ## The count edges of an encoder -/

/-- The port has taken a count edge at ts, and travels in its direction. -/
def EdgeTaken (n : Nat) (ts : Word) (fwd : Bool) (s t : State) : Prop :=
  t.r .PHE_PORT_EDGE_TB n = ts ∧ t.b F.PHE_PORT_STATUS_DIR n = !fwd ∧
    t.f F.PHE_PORT_STATUS_STATE n = s.f F.PHE_PORT_STATUS_STATE n

/-- The direction of travel, and the rate, after a count edge do not touch what the edge has recorded. -/
theorem EdgeTaken.of_regs {ts : Word} {fwd : Bool} {u : State} (h : EdgeTaken n ts fwd s t)
    (he : u.r .PHE_PORT_EDGE_TB n = t.r .PHE_PORT_EDGE_TB n) (hs : u.r .PHE_PORT_STATUS n = t.r .PHE_PORT_STATUS n) :
    EdgeTaken n ts fwd s u := by
  simp only [EdgeTaken, State.b, State.f, he, hs] at h ⊢
  exact h

theorem encEdgeLocked_taken {ts : Word} {fwd : Bool} : EdgeTaken n ts fwd s (encEdgeLocked n ts fwd s) := by
  unfold encEdgeLocked
  extract_lets s1 p c0 reversed ival
  have hs1 : s1.r .PHE_PORT_STATUS n = s.r .PHE_PORT_STATUS n := by simp (disch := decide) [s1]
  clear_value s1 p ival c0
  obtain ⟨bound, pos, cyc⟩ := encMove (portCPC n s1) p.encPos p.encCyc fwd
  dsimp -zeta only
  extract_lets +onlyGivenNames rm s2 q s3
  have hedge : s3.r .PHE_PORT_EDGE_TB n = ts := by simp (disch := decide) [s3, s2]
  have hstate : s3.f F.PHE_PORT_STATUS_STATE n = s.f F.PHE_PORT_STATUS_STATE n := by
    simp (disch := decide) [s3, s2, State.f, hs1, fget_fset_ne]
  have hdir : s3.b F.PHE_PORT_STATUS_DIR n = s1.b F.PHE_PORT_STATUS_DIR n := by
    simp (disch := decide) [s3, s2, State.b, State.f, fget_fset_ne]
  clear_value s3
  refine EdgeTaken.of_regs ?_ (edgeFire_r (by decide)) (edgeFire_r (by decide))
  split
  · simp only [State.f] at hstate
    refine EdgeTaken.of_regs (t := (s3.setB F.PHE_PORT_STATUS_DIR n !fwd).setB F.PHE_PORT_STATUS_REV n true)
      ⟨?_, ?_, ?_⟩ (setLoop_r (by decide)) (setLoop_r (by decide))
    · simp (disch := decide) [State.setB, State.setF, State.r_setR_reg, hedge]
    · cases fwd <;> simp (disch := decide) [State.b, State.f, State.setB, State.setF, fget_fset, fget_fset_ne]
    · simp (disch := decide) [State.f, State.setB, State.setF, fget_fset_ne, hstate]
  · next hr =>
    have h3 : EdgeTaken n ts fwd s s3 := ⟨hedge, hdir.trans (Bool.eq_not.mpr (by simpa [reversed] using hr)), hstate⟩
    split
    · exact h3
    · split
      · exact h3
      · exact h3.of_regs (setRate_r (by decide)) (setRate_r (by decide))

/-! ## Illegal transitions, Z edges and the time of day -/

@[simp] theorem portState_setPort (p : PortAux) : portState n (s.setPort i p) = portState n s := rfl

theorem portQerr_portState : portState n (portQerr n s) = portState n s := portQerr_state

theorem enterHoldover_qerr : (enterHoldover n s).b F.PHE_PORT_STATUS_QERR n = s.b F.PHE_PORT_STATUS_QERR n := by
  simp (disch := decide) [State.b, State.f, fget_fset_ne]

/-- A quality error sends the port to HOLDOVER, with a loss if it was not there. -/
theorem holdover_of_qerr (hq : s.b F.PHE_PORT_STATUS_QERR n = true) :
    let t := if portState n s = 3 then s else enterHoldover n s
    t.b F.PHE_PORT_STATUS_QERR n = true ∧ t.f F.PHE_PORT_STATUS_STATE n = 3 ∧
      (portState n s = 2 → t.b F.PHE_PORT_STATUS_LOSS n = true) := by
  dsimp only
  split
  · next h3 => exact ⟨hq, h3, fun h2 => absurd (h3.symm.trans h2) (by decide)⟩
  · exact ⟨enterHoldover_qerr.trans hq, enterHoldover_state, fun _ => enterHoldover_loss⟩

/-- An illegal transition or line fault of an encoder (R55). -/
theorem encIllegal_effect (hk : portKind n s = 1) (hst : portState n s ≠ 0) :
    (encIllegal n s).b F.PHE_PORT_STATUS_QERR n = true ∧ (encIllegal n s).f F.PHE_PORT_STATUS_STATE n = 3 ∧
      (portState n s = 2 → (encIllegal n s).b F.PHE_PORT_STATUS_LOSS n = true) := by
  obtain ⟨hq, h3, hloss⟩ := holdover_of_qerr (s := (portQerr n s).setPort n { (portQerr n s).port n with encRun := 0 })
    (n := n) (by rw [State.setPort_b, portQerr_qerr])
  rw [encIllegal, if_neg (by simp [hk, hst])]
  exact ⟨hq, h3, fun h2 => hloss ((portState_setPort _).trans (portQerr_portState.trans h2))⟩

/-- The jump of a count that Z_SNAP corrects sets STEPPED. -/
theorem snap_status {c0 c1 : Word} {p : PortAux} :
    (jumpFire n c0 c1 (((moveCount n c1 s).setB F.PHE_PORT_STATUS_STEPPED n true).setPort n p)).bump.r .PHE_PORT_STATUS n =
      fset F.PHE_PORT_STATUS_STEPPED (s.r .PHE_PORT_STATUS n) 1 := by
  simp (disch := decide) [State.setB, State.setF]

theorem encZ_effect (hk : portKind n s = 1) (hst : portState n s = 2) (hz : s.b F.PHE_PORT_CFG_Z_EN n = true)
    (hp : (s.port n).encPos ≠ 0) :
    (encZ n s).b F.PHE_PORT_STATUS_ZERR n = true ∧
      (s.b F.PHE_PORT_CFG_Z_SNAP n = true → (encZ n s).b F.PHE_PORT_STATUS_STEPPED n = true) := by
  have hsnap : (s.setB F.PHE_PORT_STATUS_ZERR n true).b F.PHE_PORT_CFG_Z_SNAP n = s.b F.PHE_PORT_CFG_Z_SNAP n := by
    simp (disch := decide) [State.b, State.f, State.setB, State.setF, State.r_setR_reg]
  simp only [encZ, hk, hst, hz, hp, ne_eq, not_true_eq_false, or_self, if_false, Bool.not_true, Bool.false_eq_true, hsnap]
  cases hs : s.b F.PHE_PORT_CFG_Z_SNAP n
  · simp (disch := decide) [State.b, State.f, State.setB, State.setF, fget_fset]
  · simp only [Bool.not_true, Bool.false_eq_true, if_false, State.b, State.f, snap_status]
    simp (disch := decide) [State.setB, State.setF, fget_fset, fget_fset_ne]

theorem portTodWrite_arm :
    (portTodWrite n (setBits v 63 63 1) s).b F.PHE_PORT_TOD_ARM n = true ∧
      (portTodWrite n (setBits v 63 63 1) s).f F.PHE_PORT_TOD_TOD_NEXT n = bits v 47 0 := by
  have hnext : bits (setBits v 63 63 1) 47 0 = bits v 47 0 :=
    fget_fset_ne ⟨.PHE_TB, 63, 63⟩ F.PHE_PORT_TOD_TOD_NEXT v 1 (by decide) (by decide)
  have hlt : bits v 47 0 % 2 ^ 48 = bits v 47 0 := Nat.mod_mod ..
  have harm : bit (setBits v 63 63 1) 63 = true := bit_setBits_self (by decide)
  simp only [portTodWrite, harm, hnext]
  constructor
  · simp (disch := decide) [State.b, State.f, State.setB, State.setF, fget_fset]
  · simp (disch := decide) only [State.f, State.setB, State.setF, State.r_setR_self, fget_fset, fget_fset_ne]
    exact hlt

/-! ## Replicas -/

@[simp] theorem State.setReplica_replica (x : Replica) : (s.setReplica n x).replica i = if i = n then x else s.replica i :=
  smapGet_set ..

@[simp] theorem State.setReplica_r (x : Replica) : (s.setReplica n x).r g i = s.r g i := rfl
@[simp] theorem State.setFbit_replica {k : Nat} {x : Bool} : (s.setFbit f i k x).replica n = s.replica n := rfl
@[simp] theorem State.send_replica (m : Msg) : (s.send m).replica i = s.replica i := rfl

/-- A bit of a field read after it was written. -/
theorem State.fbit_setFbit_self {k : Nat} {x : Bool} (hf : f.hi < 64) (hk : k < f.hi + 1 - f.lo) :
    (s.setFbit f i k x).fbit f i k = x := by
  rw [State.fbit, State.setFbit, State.f_setF_self _ _ _ _ hf, Nat.testBit_mod_two_pow, decide_eq_true hk, Bool.true_and]
  generalize s.f f i = w
  cases x <;> cases hb : w.testBit k
  · simp [hb]
  · have hge := Nat.ge_two_pow_of_testBit hb
    have hsplit := Nat.testBit_two_pow_add_eq (w - 2 ^ k) k
    rw [Nat.add_sub_cancel' hge, hb] at hsplit
    simpa using hsplit
  · simp [Nat.add_comm w, Nat.testBit_two_pow_add_eq, hb]
  · simp [hb]

/-- A field apart from the one in which a bit was written keeps its bits. -/
theorem State.fbit_setFbit_ne {h : Fld} {j k b : Nat} {x : Bool} (hg : h.hi < 64) (hs : h.hi < f.lo ∨ f.hi < h.lo) :
    (s.setFbit f i k x).fbit h j b = s.fbit h j b := by
  rw [State.fbit, State.setFbit, State.f_setF_ne _ _ _ _ _ _ hg hs, State.fbit]

/-- Die n gets the broadcast. -/
def bcastSent (n : Nat) (s : State) : Bool := s.fbit F.PHE_REF_CTRL_DIE_BCAST 0 n && bridgeActive n s

/-- The broadcast to one die: sent, or counted as discarded (R59, R61). -/
def bcastOne (n : Nat) (s : State) : State := if bcastSent n s then s.send (.bcast n) else replicaBad n s

theorem exec_phaseBroadcast : exec .phaseBroadcast s = .next (iter 12 bcastOne s) := rfl

theorem iter_succ (k : Nat) (F : Nat → State → State) : iter (k + 1) F s = F k (iter k F s) := by
  simp [iter, List.range_succ]

/-- The broadcasts to the dies below k have been made. -/
structure BcastDone (k : Nat) (s t : State) : Prop where
  regs : t.regs = s.regs
  sent : ∀ n, n < k → bcastSent n s = true → .bcast n ∈ t.out
  bad : ∀ n, n < k → bcastSent n s = false → (t.replica n).bad = (s.replica n).bad + 1
  rest : ∀ n, k ≤ n → t.replica n = s.replica n

theorem bcastSent_of_regs (h : t.regs = s.regs) : bcastSent n t = bcastSent n s := by
  simp only [bcastSent, bridgeActive, State.fbit, State.f, State.r, h]

theorem BcastDone.step {k : Nat} (h : BcastDone k s t) : BcastDone (k + 1) s (bcastOne k t) := by
  obtain ⟨regs, sent, bad, rest⟩ := h
  unfold bcastOne
  rw [bcastSent_of_regs regs]
  cases hk : bcastSent k s with
  | true =>
    refine ⟨regs, Nat.forall_lt_succ_right.mpr ⟨fun n hn hs => List.mem_append_left _ (sent n hn hs), fun _ => by simp⟩,
      Nat.forall_lt_succ_right.mpr ⟨bad, fun hs => ?_⟩, fun n hn => rest n (by omega)⟩
    cases hk.symm.trans hs
  | false =>
    refine ⟨regs, Nat.forall_lt_succ_right.mpr ⟨sent, fun hs => ?_⟩,
      Nat.forall_lt_succ_right.mpr ⟨fun n hn hs => ?_, fun _ => ?_⟩, fun n hn => ?_⟩
    · cases hk.symm.trans hs
    · simpa [replicaBad, Nat.ne_of_lt hn] using bad n hn hs
    · simp [replicaBad, rest k (Nat.le_refl k)]
    · simpa [replicaBad, show n ≠ k by omega] using rest n (by omega)

theorem bcastDone_iter (k : Nat) (s : State) : BcastDone k s (iter k bcastOne s) := by
  induction k with
  | zero => exact ⟨rfl, fun _ h => absurd h (Nat.not_lt_zero _), fun _ h => absurd h (Nat.not_lt_zero _), fun _ _ => rfl⟩
  | succ k ih => rw [iter_succ]; exact ih.step

theorem take_bcast {d : Nat} (h : s.out.contains (.bcast d) = true) :
    s.take (.bcast d) = { s with out := s.out.erase (.bcast d) } := if_pos h

theorem replicaGood_effect (hn : n < 12) :
    (replicaGood n s).fbit F.PHE_REPLICA_STATUS_VALID 0 n = true ∧ ((replicaGood n s).replica n).tb = s.tb ∧
      ((replicaGood n s).replica n).bad = 0 := by
  refine ⟨State.fbit_setFbit_self (by decide) (by simpa using hn), ?_, ?_⟩ <;> simp [replicaGood]

theorem replicaBad_bad : ((replicaBad n s).replica n).bad = (s.replica n).bad + 1 := by simp [replicaBad]

theorem replicaLost_effect (hn : n < 12) (hb : 4 ≤ (s.replica n).bad) (hv : replicaValid n s = true) :
    (replicaLost n s).fbit F.PHE_REPLICA_STATUS_VALID 0 n = false ∧
      (replicaLost n s).fbit F.PHE_REPLICA_STATUS_MISS 0 n = true := by
  rw [replicaLost, if_pos ⟨hb, hv⟩]
  exact ⟨by rw [State.fbit_setFbit_ne (by decide) (by decide), State.fbit_setFbit_self (by decide) (by simpa using hn)],
    State.fbit_setFbit_self (by decide) (by simpa using hn)⟩

/-- The harts of a die that lost its replica end their waits, which writes no register. -/
theorem exec_replicaValidLost (hb : 4 ≤ (s.replica n).bad) (hv : replicaValid n s = true) :
    ∃ t, exec (.replicaValidLost n) s = .next t ∧ ∀ g i, t.r g i = (replicaLost n s).r g i := by
  refine ⟨_, if_pos ⟨hb, hv⟩, fun g i => Only.r_eq (A := 0x400) (l := [.harts]) (r := []) ?_ rfl (by simp) i⟩
  refine only_iter (fun h t ht => only_ite ?_ ht) (.refl _ _)
  exact only_phWaitLost (Nat.and_self _) (only_iter (fun m u hu => only_deadlineTest (Nat.and_self _) hu) ht)

theorem exec_encoderCountEdge {ts : Word} {onA rising other : Bool} {stable : Nat} (hk : portKind n s = 1)
    (hst : portState n s = 2) (hf : filterPassed n stable s = true) (hc : encCounted n onA other s = true) :
    exec (.encoderCountEdge n ts onA rising other stable) s =
      .next (encEdgeLocked n ts (encForward n onA rising other s) s) := by
  have hpass : ¬(portKind n s ≠ 1 ∨ (!encCounted n onA other s) = true ∨ (!filterPassed n stable s) = true) := by
    simp [hk, hf, hc]
  exact congrArg Host.Outcome.next ((if_neg hpass).trans (if_pos hst))

end

/-- Settles O2: each clause is one command, and what it does to the port or the replica has its own lemma above. -/
theorem phaseTracking : Obligations.PhaseTracking := by
  refine ⟨fun n ts rising stable s hk he hf hst hrun => ?_, fun n ts rising stable s hk he hf hst htol => ?_,
    fun n ts rising stable s hk he hf hst htol => ?_, fun n ts rising stable s h => ?_, fun n s hh h0 => ?_,
    fun n s hk hst hi => ?_, fun n s hst h0 hm => ?_, fun n s hst hc => ?_, fun n s hst hs h0 => ?_,
    fun n ts onA rising other stable s hk hst hf hc => ?_, fun n s hk hst => ?_, fun n s hk hst => ?_,
    fun n stable s hf hk hst hz hp => ?_, fun a n v s ha => ?_, fun s => ?_, fun d good s hd hout => ?_,
    fun d s hd hb hv => ?_⟩
  · exact ⟨_, exec_pulseEdge hk he hf, by rw [portEdge_run hk hst]; exact edgeRun_first hrun⟩
  · exact ⟨_, exec_pulseEdge hk he hf, by rw [portEdge_locked hk hst]; exact edgeLocked_out htol⟩
  · exact ⟨_, exec_pulseEdge hk he hf, by rw [portEdge_locked hk hst]; exact edgeLocked_within htol⟩
  · refine ⟨s, congrArg Host.Outcome.next (if_neg ?_), rfl⟩
    rintro ⟨-, he, hf⟩
    rcases h with h | h
    · cases h.symm.trans he
    · cases h.symm.trans hf
  · exact ⟨_, rfl, holdEnd_ends hh h0⟩
  · refine ⟨_, congrArg Host.Outcome.next (lossExpiry_expired hk hst hi), ?_⟩
    exact ⟨enterHoldover_state, enterHoldover_loss, enterHoldover_inc, enterHoldover_holdover⟩
  · exact ⟨_, rfl, holdoverFree_at_max hst h0 hm⟩
  · exact ⟨_, rfl, holdoverCount_crossed hst hc⟩
  · exact ⟨_, rfl, slewFinish_ends hst hs h0⟩
  · obtain ⟨hedge, hdir, hstate⟩ := encEdgeLocked_taken (n := n) (s := s) (ts := ts) (fwd := encForward n onA rising other s)
    exact ⟨_, exec_encoderCountEdge hk hst hf hc, hedge, hdir, hstate.trans hst⟩
  · exact ⟨_, rfl, encIllegal_effect hk hst⟩
  · exact ⟨_, rfl, encIllegal_effect hk hst⟩
  · exact ⟨_, congrArg Host.Outcome.next (if_pos hf), encZ_effect hk hst hz hp⟩
  · exact gives_of_allowed rfl ha portTodWrite_arm
  · obtain ⟨-, hsent, hbad, -⟩ := bcastDone_iter 12 s
    refine ⟨_, exec_phaseBroadcast, List.all_eq_true.mpr fun n hn => ?_⟩
    have hlt : n < 12 := List.mem_range.mp hn
    change (if bcastSent n s then _ else _) = true
    cases hs : bcastSent n s
    · simpa using hbad n hlt hs
    · simpa using hsent n hlt hs
  · refine ⟨_, congrArg Host.Outcome.next (if_pos hout), ?_⟩
    rw [take_bcast hout]
    cases good
    · exact replicaBad_bad
    · exact replicaGood_effect hd
  · obtain ⟨t, ht, hregs⟩ := exec_replicaValidLost hb hv
    have hlost := replicaLost_effect hd hb hv
    simp only [State.fbit, State.f, ← hregs] at hlost
    exact ⟨t, ht, hlost⟩

end Sys2Proof.Machine

/-! # An idle step -/

namespace Sys2Proof.Machine

/-- Settles O57: with nothing in front of the queue, step is the cycle. -/
theorem stepIdles : Obligations.StepIdles := by
  intro s hs
  simp only [step, hs]

end Sys2Proof.Machine

/-! # The timed pins

A record of the capture FIFO, an edge at the contact and a write of the configuration each change the pin and its status
register; what they leave is read back here once. -/

namespace Sys2Proof.Machine

section
variable {s : State} {g : Reg} {f h : Fld} {i j : Nat} {v ts : Word} {x : Bool}

/-! ## Flags -/

@[simp] theorem State.answer_tb : (s.answer v).tb = s.tb := rfl

/-- A flag read after it was written. -/
theorem State.b_setB_self (hf : f.hi < 64) (hlo : f.lo ≤ f.hi) : (s.setB f i x).b f i = x := by
  have hw : 1 < 2 ^ (f.hi + 1 - f.lo) := Nat.one_lt_two_pow (by omega)
  rw [State.b, State.setB, State.f_setF_self _ _ _ _ hf]
  cases x <;> simp [Nat.mod_eq_of_lt hw]

/-- A flag apart from the field that was written. -/
theorem State.b_setF_ne {n : Nat} (hh : h.hi < 64) (hs : h.hi < f.lo ∨ f.hi < h.lo) : (s.setF f i n).b h j = s.b h j := by
  rw [State.b, State.f_setF_ne _ _ _ _ _ _ hh hs, State.b]

/-- A flag of a register other than that of the field that was written. -/
theorem State.b_setF_reg {n : Nat} (hg : h.reg ≠ f.reg) : (s.setF f i n).b h j = s.b h j := by
  rw [State.b, State.f_setF_reg _ hg, State.b]

/-- A register other than that of the field that was written. -/
theorem State.r_setF_reg {n : Nat} (hg : g ≠ f.reg) : (s.setF f i n).r g j = s.r g j := State.r_setR_reg _ hg ..

/-! ## A pin -/

variable {p : Pin}

@[simp] theorem State.setPin_pin : (s.setPin i p).pin i = p := smapGet_set_self ..
@[simp] theorem State.setPin_r : (s.setPin i p).r g j = s.r g j := rfl
@[simp] theorem State.setPin_f : (s.setPin i p).f f j = s.f f j := rfl
@[simp] theorem State.setPin_b : (s.setPin i p).b f j = s.b f j := rfl
@[simp] theorem State.setPin_tb : (s.setPin i p).tb = s.tb := rfl
@[simp] theorem State.setR_pin : (s.setR g j v).pin i = s.pin i := rfl
@[simp] theorem State.setF_pin {n : Nat} : (s.setF f j n).pin i = s.pin i := rfl
@[simp] theorem State.setB_pin : (s.setB f j x).pin i = s.pin i := rfl
@[simp] theorem State.satInc_pin : (s.satInc f j).pin i = s.pin i := rfl
@[simp] theorem State.answer_pin : (s.answer v).pin i = s.pin i := rfl
@[simp] theorem State.bump_pin : s.bump.pin i = s.pin i := rfl
@[simp] theorem pinOutput_answer : pinOutput i (s.answer v) = pinOutput i s := rfl
@[simp] theorem pinOutput_setPin : pinOutput i (s.setPin j p) = pinOutput i s := rfl

/-! ## Captures -/

/-- The pin with one more record in its FIFO. -/
def capPut (i : Nat) (ts : Word) (s : State) : State :=
  ((s.setPin i { s.pin i with
    fifo := (s.pin i).fifo ++ [(ts, portInterp (s.f F.TIO_PIN_CFG_CAP_PORT i) ts s)], lastCap := some ts }).setF
      F.TIO_PIN_STATUS_CAP_COUNT i ((s.pin i).fifo.length + 1)).bump

theorem capPut_fifo : ((capPut i ts s).pin i).fifo.map Prod.fst = (s.pin i).fifo.map Prod.fst ++ [ts] := by
  simp [capPut]

theorem capPut_count (hlen : (s.pin i).fifo.length < 16) :
    (capPut i ts s).f F.TIO_PIN_STATUS_CAP_COUNT i = (s.pin i).fifo.length + 1 := by
  rw [capPut, State.bump_f, State.f_setF_self _ _ _ _ (by decide)]
  exact Nat.mod_eq_of_lt (show _ < 32 by omega)

theorem capPut_level : (capPut i ts s).b F.TIO_PIN_STATUS_LEVEL i = s.b F.TIO_PIN_STATUS_LEVEL i := by
  rw [capPut, State.bump_b, State.b_setF_ne (by decide) (by decide), State.setPin_b]

/-- An edge is passed over, lost beside the one before it, lost in a full FIFO, or recorded (R92). -/
theorem pinRecord_cases : pinRecord i ts x s = s ∨ pinRecord i ts x s = s.satInc F.TIO_PIN_STATUS_CAP_LOST i ∨
    pinRecord i ts x s = (s.satInc F.TIO_PIN_STATUS_CAP_LOST i).setB F.TIO_PIN_STATUS_OVF i true ∨
    pinRecord i ts x s = capPut i ts s := by
  unfold pinRecord
  extract_lets p near
  split
  · exact .inl rfl
  · split
    · exact .inr (.inl rfl)
    · split
      · exact .inr (.inr (.inl rfl))
      · exact .inr (.inr (.inr rfl))

/-- A record touches the FIFO of the pin alone. -/
theorem pinRecord_pin : ∃ fifo last, (pinRecord i ts x s).pin i = { s.pin i with fifo := fifo, lastCap := last } := by
  rcases pinRecord_cases (i := i) (ts := ts) (x := x) (s := s) with h | h | h | h <;> rw [h]
  · exact ⟨_, _, rfl⟩
  · exact ⟨_, _, rfl⟩
  · exact ⟨_, _, rfl⟩
  · exact ⟨_, _, State.setPin_pin⟩

@[simp] theorem pinRecord_r (hg : g ≠ .TIO_PIN_STATUS) : (pinRecord i ts x s).r g j = s.r g j :=
  Only.r_eq (l := [.free, .regs, .pins]) (r := [.TIO_PIN_STATUS]) (only_pinRecord (Nat.and_self _) (.refl _ s)) rfl
    (by simpa using hg) j

@[simp] theorem pinRecord_level : (pinRecord i ts x s).b F.TIO_PIN_STATUS_LEVEL i = s.b F.TIO_PIN_STATUS_LEVEL i := by
  rcases pinRecord_cases (i := i) (ts := ts) (x := x) (s := s) with h | h | h | h <;> rw [h]
  · simp (disch := decide) only [State.satInc, State.satAdd, State.b_setF_ne]
  · simp (disch := decide) only [State.satInc, State.satAdd, State.setB, State.b_setF_ne]
  · exact capPut_level

/-- CAP_EDGE selects the edges of one direction, or of both. -/
theorem capSelects_of (hsel : s.f F.TIO_PIN_CFG_CAP_EDGE i = 0 ∧ x = true ∨ s.f F.TIO_PIN_CFG_CAP_EDGE i = 1 ∧ x = false ∨
    s.f F.TIO_PIN_CFG_CAP_EDGE i = 2) : capSelects i x s = true := by
  rcases hsel with ⟨h, rfl⟩ | ⟨h, rfl⟩ | h <;> simp [capSelects, h]

/-- No edge was captured within 2 ns before ts (R92). -/
def capApart (i : Nat) (ts : Word) (s : State) : Prop :=
  ((s.pin i).lastCap.elim true fun u => decide (64 ≤ (ts - u).toInt)) = true

/-- A selected edge apart from the one before it is recorded, or lost in a full FIFO. -/
theorem pinRecord_selected (hsel : capSelects i x s = true) (hts : capApart i ts s) :
    pinRecord i ts x s = if 16 ≤ (s.pin i).fifo.length then
      (s.satInc F.TIO_PIN_STATUS_CAP_LOST i).setB F.TIO_PIN_STATUS_OVF i true else capPut i ts s := by
  unfold pinRecord
  simp only [hsel, Bool.not_true, Bool.false_eq_true, if_false]
  refine if_neg ?_
  unfold capApart at hts
  cases hu : (s.pin i).lastCap with
  | none => simp
  | some u => simpa [hu] using hts

section
variable (hmode : s.f F.TIO_PIN_CFG_MODE i = 2)
  (hsel : s.f F.TIO_PIN_CFG_CAP_EDGE i = 0 ∧ x = true ∨ s.f F.TIO_PIN_CFG_CAP_EDGE i = 1 ∧ x = false ∨
    s.f F.TIO_PIN_CFG_CAP_EDGE i = 2) (hts : capApart i ts s)
include hmode hsel hts

/-- A capture pin samples the level, and its FIFO takes the edge while it has room. -/
theorem pinCapture_eq : pinCapture i ts x s =
    let u := s.setB F.TIO_PIN_STATUS_LEVEL i x
    if 16 ≤ (s.pin i).fifo.length then (u.satInc F.TIO_PIN_STATUS_CAP_LOST i).setB F.TIO_PIN_STATUS_OVF i true
    else capPut i ts u := by
  have hcfg (f : Fld) (hf : f.reg = .TIO_PIN_CFG) : (s.setB F.TIO_PIN_STATUS_LEVEL i x).f f i = s.f f i :=
    State.f_setF_reg _ (by rw [hf]; decide) ..
  have hcap : capSelects i x (s.setB F.TIO_PIN_STATUS_LEVEL i x) = true := capSelects_of (by rwa [hcfg _ rfl])
  exact (if_pos ((hcfg _ rfl).trans hmode)).trans (pinRecord_selected hcap hts)

theorem pinCapture_room (hlen : (s.pin i).fifo.length < 16) :
    ((pinCapture i ts x s).pin i).fifo.map Prod.fst = (s.pin i).fifo.map Prod.fst ++ [ts] ∧
      (pinCapture i ts x s).f F.TIO_PIN_STATUS_CAP_COUNT i = (s.pin i).fifo.length + 1 ∧
      (pinCapture i ts x s).b F.TIO_PIN_STATUS_LEVEL i = x := by
  rw [pinCapture_eq hmode hsel hts]
  dsimp only
  rw [if_neg (by omega)]
  exact ⟨capPut_fifo, capPut_count hlen, capPut_level.trans (State.b_setB_self (by decide) (by decide))⟩

theorem pinCapture_full (hlen : 16 ≤ (s.pin i).fifo.length) :
    ((pinCapture i ts x s).pin i).fifo = (s.pin i).fifo ∧ (pinCapture i ts x s).b F.TIO_PIN_STATUS_OVF i = true := by
  rw [pinCapture_eq hmode hsel hts]
  dsimp only
  rw [if_pos hlen]
  exact ⟨rfl, State.b_setB_self (by decide) (by decide)⟩

end

theorem pinCapRead_cons {u ph : Word} {r : List (Word × Word)} (h : (s.pin i).fifo = (u, ph) :: r) :
    let t := pinCapRead i s
    t.resp = ⟨0, u⟩ ∧ t.r .TIO_CAP_PHASE i = ph ∧ (t.pin i).fifo = r ∧
      t.f F.TIO_PIN_STATUS_CAP_COUNT i = r.length % 32 := by
  simp only [pinCapRead, h]
  refine ⟨rfl, ?_, ?_, ?_⟩
  · rw [State.answer_r, State.r_setF_reg (by decide), State.r_setR_self]
  · simp
  · rw [State.answer_f, State.f_setF_self _ _ _ _ (by decide)]
    rfl

theorem pinCapRead_nil (h : (s.pin i).fifo = []) : pinCapRead i s = s.answer 0xFFFFFFFFFFFFFFFF#64 := by
  simp only [pinCapRead, h]

/-! ## Edges at the contact -/

/-- The pin whose latch drives the contact, which shows the level. -/
def pinDriven (i : Nat) (x : Bool) (s : State) : State :=
  (s.setPin i { s.pin i with latch := x, driving := true }).setB F.TIO_PIN_STATUS_LEVEL i x

/-- At high impedance only the latch changes; otherwise the pin drives the contact, and may capture its own edge (R92). -/
theorem pinDrive_cases :
    (s.pin i).hiz = true ∧ pinDrive i x ts s = s.setPin i { s.pin i with latch := x, driving := false } ∨
    (s.pin i).hiz = false ∧
      (pinDrive i x ts s = pinDriven i x s ∨ pinDrive i x ts s = pinRecord i ts x (pinDriven i x s)) := by
  unfold pinDrive
  extract_lets p was u
  split
  · next hz => exact .inl ⟨hz, rfl⟩
  · next hz =>
    refine .inr ⟨by simpa using hz, ?_⟩
    split
    · exact .inr rfl
    · exact .inl rfl

/-- The latch takes the level, and drives the contact but at high impedance. -/
theorem pinDrive_pin : ∃ fifo last, (pinDrive i x ts s).pin i =
    { s.pin i with latch := x, driving := !(s.pin i).hiz, fifo := fifo, lastCap := last } := by
  have hdriven : (pinDriven i x s).pin i = { s.pin i with latch := x, driving := true } := State.setPin_pin
  rcases pinDrive_cases (i := i) (x := x) (ts := ts) (s := s) with ⟨hz, h⟩ | ⟨hz, h | h⟩ <;> rw [h, hz]
  · exact ⟨_, _, State.setPin_pin⟩
  · exact ⟨_, _, hdriven⟩
  · obtain ⟨fifo, last, hp⟩ := pinRecord_pin (i := i) (ts := ts) (x := x) (s := pinDriven i x s)
    exact ⟨fifo, last, by rw [hp, hdriven]; rfl⟩

theorem pinDrive_latch : ((pinDrive i x ts s).pin i).latch = x := by
  obtain ⟨_, _, hp⟩ := pinDrive_pin (i := i) (ts := ts) (x := x) (s := s)
  rw [hp]

theorem pinDrive_edges : ((pinDrive i x ts s).pin i).edges = (s.pin i).edges := by
  obtain ⟨_, _, hp⟩ := pinDrive_pin (i := i) (ts := ts) (x := x) (s := s)
  rw [hp]

theorem pinDrive_driving : ((pinDrive i x ts s).pin i).driving = !(s.pin i).hiz := by
  obtain ⟨_, _, hp⟩ := pinDrive_pin (i := i) (ts := ts) (x := x) (s := s)
  rw [hp]

theorem pinDrive_level (hz : (s.pin i).hiz = false) : (pinDrive i x ts s).b F.TIO_PIN_STATUS_LEVEL i = x := by
  have hlevel : (pinDriven i x s).b F.TIO_PIN_STATUS_LEVEL i = x := State.b_setB_self (by decide) (by decide)
  rcases pinDrive_cases (i := i) (x := x) (ts := ts) (s := s) with ⟨hz', -⟩ | ⟨-, h | h⟩
  · cases hz.symm.trans hz'
  · rw [h, hlevel]
  · rw [h, pinRecord_level, hlevel]

theorem pinDrive_r (hg : g ≠ .TIO_PIN_STATUS) : (pinDrive i x ts s).r g j = s.r g j :=
  Only.r_eq (l := [.free, .regs, .pins]) (r := [.TIO_PIN_STATUS]) (only_pinDrive (Nat.and_self _) (.refl _ s)) rfl
    (by simpa using hg) j

/-- The level at which an edge places the latch (R90). -/
def edgeLevel (ed : PinEdge) (latch : Bool) : Bool := if ed.op = 0 then false else if ed.op = 1 then true else !latch

theorem pinPlace_edge {ed : PinEdge} {r : List PinEdge} (he : (s.pin i).edges = ed :: r) (hop : ed.op ≠ 4)
    (hout : pinOutput i s = true) :
    ((pinPlace i s).pin i).latch = edgeLevel ed (s.pin i).latch ∧ (ed.op ≠ 3 → ((pinPlace i s).pin i).edges = r) := by
  simp only [pinPlace, he, hop, hout, decide_false, Bool.not_true, Bool.or_self, Bool.false_eq_true, if_false]
  refine ⟨pinDrive_latch, fun h3 => pinDrive_edges.trans ?_⟩
  rw [State.setPin_pin, if_neg h3, List.nil_append]

theorem pinTrail_edge {ed : PinEdge} {r : List PinEdge} (he : (s.pin i).edges = ed :: r) (hop : ed.op = 4)
    (hout : pinOutput i s = true) :
    ((pinTrail i s).pin i).latch = ed.level ∧ ((pinTrail i s).pin i).edges = r := by
  simp only [pinTrail, he, hop, hout, and_self, if_true]
  exact ⟨pinDrive_latch, pinDrive_edges.trans (by rw [State.setPin_pin])⟩

/-! ## Forced writes -/

/-- The latch is forced to a level, which the contact shows but at high impedance. -/
def PinForced (i : Nat) (x : Bool) (s t : State) : Prop :=
  (t.pin i).latch = x ∧
    ((s.pin i).hiz = false → (t.pin i).driving = true ∧ t.b F.TIO_PIN_STATUS_LEVEL i = x)

theorem pinDrive_forced : PinForced i x s (pinDrive i x ts s) :=
  ⟨pinDrive_latch, fun hz => ⟨by rw [pinDrive_driving, hz, Bool.not_false], pinDrive_level hz⟩⟩

theorem pinForce_low (hout : pinOutput i s = true) : PinForced i false s (pinForce i 1 s) := by
  simpa [pinForce, hout] using pinDrive_forced

theorem pinForce_high (hout : pinOutput i s = true) : PinForced i true s (pinForce i 2 s) := by
  simpa [pinForce, hout] using pinDrive_forced

theorem pinForce_toggle (hout : pinOutput i s = true) : PinForced i (!(s.pin i).latch) s (pinForce i 3 s) := by
  simpa [pinForce, hout] using pinDrive_forced

theorem pinForce_input (hout : pinOutput i s = false) (op : Nat) : pinForce i op s = s := by simp [pinForce, hout]

/-! ## The configuration of a pin -/

/-- The word that a write of TIO_PIN_CFG(i) by the world that owns the pin sets (R91, R369). -/
def pinCfgWord (a : Access) (i : Nat) (v : Word) (s : State) : Word :=
  let old := s.r .TIO_PIN_CFG i
  let w := setBits old 63 63 (if a.world then bits v 63 63 else bits old 63 63)
  let w := setBits w 61 56 (if a.part = 0 then bits v 61 56 else bits old 61 56)
  let w := setBits (setBits w 18 16 (bits v 18 16)) 13 12 (bits v 13 12)
  setBits (setBits (setBits w 9 8 (bits v 9 8)) 4 4 (bits v 4 4)) 1 0 (bits v 1 0)

/-- The edges not yet placed go when the pin changes hands or leaves the output modes. -/
def pinMoved (i : Nat) (old w : Word) (s : State) : State :=
  if (bits w 63 63 ≠ bits old 63 63 ∨ bits w 61 56 ≠ bits old 61 56) ∨ !pinOutput i s then pinDiscard i s else s

/-- What follows once the word w stands in the configuration: a pin that leaves the output modes is released, and one that
enters them drives the level. -/
def pinCfgSettle (i : Nat) (old w : Word) (wasOut level : Bool) (s : State) : State :=
  let u := pinMoved i old w s
  if !pinOutput i s then u.setPin i { u.pin i with driving := false }
  else if !wasOut then pinDrive i level u.tb u
  else pinDrive i (u.pin i).latch u.tb u

/-- The word w stands in the configuration, and the pin is no longer at high impedance. -/
def pinConfigured (i : Nat) (w : Word) (s : State) : State :=
  (s.setPin i { s.pin i with hiz := false }).setR .TIO_PIN_CFG i w

@[simp] theorem pinConfigured_cfg {w : Word} : (pinConfigured i w s).r .TIO_PIN_CFG i = w := State.r_setR_self ..
@[simp] theorem pinConfigured_hiz {w : Word} : ((pinConfigured i w s).pin i).hiz = false := by simp [pinConfigured]

/-- A write by the world that owns the pin, which keeps its partition. -/
theorem pinCfgWrite_own {a : Access} (hw : a.world = s.b F.TIO_PIN_CFG_WORLD i)
    (hp : fget F.TIO_PIN_CFG_PART v = s.f F.TIO_PIN_CFG_PART i) (level : Bool) :
    pinCfgWrite a i v level s = pinCfgSettle i (s.r .TIO_PIN_CFG i) (pinCfgWord a i v s) (pinOutput i s) level
      (pinConfigured i (pinCfgWord a i v s) s) := by
  have hown : (a.world && !s.b F.TIO_PIN_CFG_WORLD i) = false := by rw [hw]; simp
  have hpart : assigns F.TIO_PIN_CFG_PART i v (s.setPin i { s.pin i with hiz := false }) = false := by
    simp [assigns, hp]
  simp only [pinCfgWrite, hown, hpart, Bool.and_false, Bool.false_eq_true, if_false]
  rfl

theorem pinCfgWord_mode {a : Access} : bits (pinCfgWord a i v s) 1 0 = bits v 1 0 :=
  (fget_fset F.TIO_PIN_CFG_MODE _ _ (by decide)).trans (Nat.mod_mod ..)

theorem pinMoved_hiz {old w : Word} : ((pinMoved i old w s).pin i).hiz = (s.pin i).hiz := by
  unfold pinMoved
  split <;> simp [pinDiscard]

theorem pinMoved_r {old w : Word} : (pinMoved i old w s).r g j = s.r g j := by
  unfold pinMoved
  split <;> rfl

/-- The pin is released: nothing drives it, and no edge waits. -/
theorem pinCfgSettle_input {old w : Word} {wasOut level : Bool} (hout : pinOutput i s = false) :
    let t := pinCfgSettle i old w wasOut level s
    t.r .TIO_PIN_CFG i = s.r .TIO_PIN_CFG i ∧ (t.pin i).driving = false ∧ (t.pin i).edges = [] := by
  simp [pinCfgSettle, pinMoved, hout, pinDiscard]

/-- The pin drives the level that was sampled at the contact. -/
theorem pinCfgSettle_output {old w : Word} {level : Bool} (hout : pinOutput i s = true) (hz : (s.pin i).hiz = false) :
    let t := pinCfgSettle i old w false level s
    t.r .TIO_PIN_CFG i = s.r .TIO_PIN_CFG i ∧ (t.pin i).latch = level ∧ (t.pin i).driving = true ∧
      t.b F.TIO_PIN_STATUS_LEVEL i = level := by
  have hz' : ((pinMoved i old w s).pin i).hiz = false := pinMoved_hiz.trans hz
  simp only [pinCfgSettle, hout, Bool.not_true, Bool.false_eq_true, if_false, Bool.not_false, if_true]
  exact ⟨(pinDrive_r (by decide)).trans pinMoved_r, pinDrive_latch, by rw [pinDrive_driving, hz', Bool.not_false],
    pinDrive_level hz'⟩

theorem bit_zero_of_mode : bit v 0 = (bits v 1 0).testBit 0 := (fget_testBit F.TIO_PIN_CFG_MODE v 0).symm

/-- A pin is in an output mode when bit 0 of MODE is set. -/
theorem pinOutput_eq_bit (hr : bits (s.r .TIO_PIN_CFG i) 1 0 = bits v 1 0) : pinOutput i s = bit v 0 := by
  have hmode : s.f F.TIO_PIN_CFG_MODE i = bits v 1 0 := hr
  have hlt : bits v 1 0 < 4 := Nat.mod_lt _ (by decide)
  rw [pinOutput, hmode, bit_zero_of_mode]
  interval_cases bits v 1 0 <;> rfl

section
variable {a : Access} {level : Bool} (hw : a.world = s.b F.TIO_PIN_CFG_WORLD i)
  (hp : fget F.TIO_PIN_CFG_PART v = s.f F.TIO_PIN_CFG_PART i)
include hw hp

theorem pinCfgWrite_output (hout : pinOutput i s = false) :
    let t := pinCfgWrite a i (setBits v 0 0 1) level s
    pinOutput i t = true ∧ (t.pin i).latch = level ∧ (t.pin i).driving = true ∧ t.b F.TIO_PIN_STATUS_LEVEL i = level := by
  have hp' : fget F.TIO_PIN_CFG_PART (setBits v 0 0 1) = s.f F.TIO_PIN_CFG_PART i :=
    (fget_setBits0 (by decide) (by decide)).trans hp
  have hon : bit (setBits v 0 0 1) 0 = true := bit_setBits_self (by decide)
  have hmode {t : State} (hr : t.r .TIO_PIN_CFG i = pinCfgWord a i (setBits v 0 0 1) s) : pinOutput i t = true :=
    (pinOutput_eq_bit (by rw [hr, pinCfgWord_mode])).trans hon
  dsimp only
  rw [pinCfgWrite_own hw hp', hout]
  obtain ⟨hcfg, hpin⟩ := pinCfgSettle_output (level := level) (old := s.r .TIO_PIN_CFG i)
    (w := pinCfgWord a i (setBits v 0 0 1) s) (hmode pinConfigured_cfg) pinConfigured_hiz
  exact ⟨hmode (hcfg.trans pinConfigured_cfg), hpin⟩

theorem pinCfgWrite_input (hv : bits v 1 0 = 0 ∨ bits v 1 0 = 2) :
    let t := pinCfgWrite a i v level s
    t.f F.TIO_PIN_CFG_MODE i = bits v 1 0 ∧ (t.pin i).driving = false ∧ (t.pin i).edges = [] := by
  have hmode : bits ((pinConfigured i (pinCfgWord a i v s) s).r .TIO_PIN_CFG i) 1 0 = bits v 1 0 := by
    rw [pinConfigured_cfg, pinCfgWord_mode]
  have hoff : bit v 0 = false := by
    rw [bit_zero_of_mode]
    rcases hv with h | h <;> rw [h] <;> rfl
  dsimp only
  rw [pinCfgWrite_own hw hp]
  obtain ⟨hcfg, hpin⟩ := pinCfgSettle_input (old := s.r .TIO_PIN_CFG i) (w := pinCfgWord a i v s) (wasOut := pinOutput i s)
    (level := level) ((pinOutput_eq_bit hmode).trans hoff)
  exact ⟨(congrArg (bits · 1 0) hcfg).trans hmode, hpin⟩

end

end

/-- Settles O4: each clause is one operation on the pin, and what it leaves has its own lemma above. The model's choices
behind the words: the level of a change of mode is an operand (log 31, 152), a forced write moves the latch of a pin at high
impedance (log 145), and a discard takes a trailing edge with it (log 30). -/
theorem timedPins : Obligations.TimedPins := by
  refine ⟨fun i ed r s he hop hout => ?_, fun i ed r s he hop hout => ?_, fun a i s ha hout => ?_, fun a i s ha hout => ?_,
    fun a i s ha hout => ?_, fun a i s ha hout => ?_, fun a i v level s ha hw hp hout => ?_, fun a i v s ha hw hp hv => ?_,
    fun i ts x s hm hsel hts hlen => ?_, fun i ts x s hm hsel hts hlen => ?_, fun a i u ph r s ha h => ?_,
    fun a i s ha h => ?_⟩
  · exact ⟨_, rfl, pinPlace_edge he hop hout⟩
  · exact ⟨_, rfl, pinTrail_edge he hop hout⟩
  · exact gives_of_allowed rfl ha (pinForce_low hout)
  · exact gives_of_allowed rfl ha (pinForce_high hout)
  · exact gives_of_allowed rfl ha (pinForce_toggle hout)
  · exact gives_of_allowed rfl ha (pinForce_input (s := s.answer 0) hout 2)
  · exact gives_of_allowed rfl ha (pinCfgWrite_output hw hp hout)
  · exact gives_of_allowed rfl ha (pinCfgWrite_input hw hp hv)
  · exact ⟨_, rfl, pinCapture_room hm hsel hts hlen⟩
  · exact ⟨_, rfl, pinCapture_full hm hsel hts hlen⟩
  · exact gives_of_allowed rfl ha (pinCapRead_cons h)
  · exact gives_of_allowed rfl ha (congrArg State.resp (pinCapRead_nil h))

/-- Settles O48: the two cases of the FIFO. -/
theorem captureReads : Obligations.CaptureReads := by
  refine ⟨fun a k u ph r s ha h => gives_of_allowed rfl ha ?_, fun a k s ha h => gives_of_allowed rfl ha ?_⟩
  · obtain ⟨hresp, hphase, hfifo, -⟩ := pinCapRead_cons (i := k) (s := s.answer 0) h
    exact ⟨hresp, hphase, hfifo⟩
  · have heq := pinCapRead_nil (i := k) (s := s.answer 0) h
    exact ⟨congrArg State.resp heq, by rw [heq]; rfl⟩

end Sys2Proof.Machine

/-! # The calendar

A firing, its way through the due queue, the cancellation of a block and the commands of the edit ports each have a lemma for
what they leave of the entries, the queues and the registers. -/

namespace Sys2Proof.Machine

section
variable {s t : State} {g : Reg} {f : Fld} {b e i k n : Nat} {v w : Word} {x late : Bool}

/-! ## Entries and queues -/

@[simp] theorem State.setCalE_calE (c : CalEntry) : (s.setCalE e c).calE i = if i = e then c else s.calE i := smapGet_set ..

theorem State.calE_of_cal (h : t.cal = s.cal) : t.calE e = s.calE e := by rw [State.calE, h, State.calE]

@[simp] theorem setDue_due (q : List Firing) : (setDue q s).due = q := by
  unfold setDue
  extract_lets u w
  split <;> rfl

@[simp] theorem setDue_calHeld (q : List Firing) : (setDue q s).calHeld = s.calHeld := by
  unfold setDue
  extract_lets u w
  split <;> rfl

@[simp] theorem setDue_cancelQ (q : List Firing) : (setDue q s).cancelQ = s.cancelQ := by
  unfold setDue
  extract_lets u w
  split <;> rfl

@[simp] theorem setDue_cal (q : List Firing) : (setDue q s).cal = s.cal := by
  unfold setDue
  extract_lets u w
  split <;> rfl

@[simp] theorem calErr_cal {code : Nat} : (calErr e code s).cal = s.cal := rfl
@[simp] theorem calErr_due {code : Nat} : (calErr e code s).due = s.due := rfl
@[simp] theorem markLate_due : (markLate e s).due = s.due := rfl
@[simp] theorem discardLate_due : (discardLate e s).due = s.due := rfl

/-- What changes no part of the calendar keeps its entries and its queues. -/
theorem Only.calendar_same {A : Nat} (h : Only A s t) (hA : A.testBit (Part.calendar).ctorIdx = false) :
    (Part.calendar).same s t := by
  obtain ⟨-, parts, -⟩ := h
  exact parts .calendar hA

theorem calDeliver_due {q : Firing} : (calDeliver q s).due = s.due := by
  obtain ⟨-, hdue, -⟩ := Only.calendar_same (only_calDeliver (f := q) (Nat.and_self _) (.refl _ s)) rfl
  exact hdue

theorem pinAccept_cal {ed : PinEdge} : (pinAccept i ed s).cal = s.cal := by
  obtain ⟨hcal, -⟩ := Only.calendar_same (only_pinAccept (i := i) (ed := ed) (Nat.and_self _) (.refl _ s)) rfl
  exact hcal

theorem batTriggers_cal : (batTriggers e s).cal = s.cal := by
  obtain ⟨hcal, -⟩ := Only.calendar_same (only_batTriggers (e := e) (Nat.and_self _) (.refl _ s)) rfl
  exact hcal

theorem dueFill_cal : (dueFill s).cal = s.cal := by
  unfold dueFill heldMove
  split
  · rfl
  · exact setDue_cal _

/-! ## The flags of an entry at a match -/

theorem bit_setBits_ne {hi lo y : Nat} (hk : k < 64) (h : k < lo ∨ hi < k) : bit (setBits v hi lo y) k = bit v k := by
  rw [bit, setBits, fset_getLsbD _ _ _ _ hk, if_neg (by dsimp only; omega), bit]

/-- Bit k of W2 is the same in every entry. -/
def FlagKept (k : Nat) (s t : State) : Prop := ∀ e, bit (t.calE e).w2 k = bit (s.calE e).w2 k

theorem FlagKept.of_cal (h : t.cal = s.cal) : FlagKept k s t := fun e => by rw [State.calE_of_cal h]

theorem FlagKept.trans {u : State} (h : FlagKept k s t) (h' : FlagKept k t u) : FlagKept k s u :=
  fun e => (h' e).trans (h e)

theorem flagKept_setCalE {c : CalEntry} (h : bit c.w2 k = bit (s.calE e).w2 k) : FlagKept k s (s.setCalE e c) := by
  intro i
  rw [State.setCalE_calE]
  split
  · next hi => rw [h, hi]
  · rfl

/-- LATE is bit 44 of W2, and MISSED its bits 39 to 32; no other bit follows the fate of a firing (R77). -/
def fateless (k : Nat) : Prop := 44 < k ∧ k < 64

section
variable (hk : fateless k)
include hk

theorem markLate_flag : FlagKept k s (markLate e s) :=
  flagKept_setCalE (bit_setBits_ne hk.2 (.inr hk.1))

theorem discardLate_flag : FlagKept k s (discardLate e s) :=
  (flagKept_setCalE (bit_setBits_ne hk.2 (.inr (by have := hk.1; omega)))).trans (.of_cal calErr_cal)

theorem dueEnqueue_flag {q : Firing} : FlagKept k s (dueEnqueue q s) := by
  unfold dueEnqueue
  extract_lets u y
  have hu : FlagKept k s u := .of_cal dueFill_cal
  have hlate : FlagKept k u (calErr q.entry 6 (u.setB F.PHE_CAL_STATUS_OVERFLOW 0 true)) := .of_cal rfl
  have hy : FlagKept k s y := (hu.trans hlate).trans (markLate_flag hk)
  clear_value u y
  split
  · exact hu.trans (.of_cal (setDue_cal _))
  · split
    · exact hy.trans (discardLate_flag hk)
    · exact hy.trans (.of_cal rfl)

/-- A firing that is discarded, suppressed, handed to a pin or queued leaves FIRED and VALID. -/
theorem calPerform_flag {q : Firing} : FlagKept k s (calPerform q s) := by
  unfold calPerform
  split
  · exact .of_cal rfl
  · split
    · exact discardLate_flag hk
    · split
      · exact .of_cal rfl
      · split
        · exact .of_cal pinAccept_cal
        · exact .of_cal calErr_cal
      · exact dueEnqueue_flag hk

end

theorem calUpdate_fired {t0 c1 : Word} : bit ((calUpdate t0 e late c1 s).calE e).w2 45 = true := by
  simp only [calUpdate, State.setCalE_calE, if_true]
  split_ifs <;> simp (disch := decide) [bit_setBits_ne, bit_setBits_self]

theorem calUpdate_disarms {t0 c1 : Word} (h : (s.calE e).w1 = 0) :
    bit ((calUpdate t0 e late c1 s).calE e).w2 63 = false := by
  simp only [calUpdate, State.setCalE_calE, if_true, h]
  simp (disch := decide) [bit_setBits_self]

/-- A match sets FIRED, and clears VALID of an entry that fires once (R69, R76). -/
theorem calMatchOne_match {t0 inst : Word} (hm : calDueMatch t0 e s = some (late, inst))
    (hf : (s.calE e).fired ≠ some t0) :
    bit ((calMatchOne t0 e s).calE e).w2 45 = true ∧
      ((s.calE e).w1 = 0 → bit ((calMatchOne t0 e s).calE e).w2 63 = false) := by
  simp only [calMatchOne, hm, calFire, if_neg hf]
  have hkept (k : Nat) (hk : fateless k) (q : Firing) (u : State) :
      bit ((calPerform q (batTriggers e u)).calE e).w2 k = bit (u.calE e).w2 k :=
    ((FlagKept.of_cal batTriggers_cal).trans (calPerform_flag hk)) e
  rw [hkept 45 ⟨by decide, by decide⟩, hkept 63 ⟨by decide, by decide⟩]
  exact ⟨calUpdate_fired, calUpdate_disarms⟩

/-! ## The control register -/

/-- The calendar's work changes no field of PHE_CAL_CTRL. -/
theorem settleAll_ctrl {t0 : Word} {l : List Nat} : (settleAll t0 l s).r .PHE_CAL_CTRL i = s.r .PHE_CAL_CTRL i :=
  event_r rfl (only_settleAll (Nat.and_self _) (.refl _ s)) (by decide)

theorem examine_ctrl {l : List Nat} : (examine l s).r .PHE_CAL_CTRL i = s.r .PHE_CAL_CTRL i :=
  event_r rfl (only_examine (Nat.and_self _) (.refl _ s)) (by decide)

/-- The word of PHE_CAL_CTRL after a write of v over w, but for ENABLE. -/
def calCtrlWord (v w : Word) : Word :=
  fset F.PHE_CAL_CTRL_EDGE_COMP (fset F.PHE_CAL_CTRL_LATE_LIMIT w (bits v 15 8)) (bits v 1 1)

theorem calCtrlWrite_ctrl : (calCtrlWrite v s).r .PHE_CAL_CTRL 0 =
    if bit v 0 && s.b F.PHE_CAL_CTRL_ENABLE 0 then calCtrlWord v (s.r .PHE_CAL_CTRL 0)
    else fset F.PHE_CAL_CTRL_ENABLE (calCtrlWord v (s.r .PHE_CAL_CTRL 0)) (if bit v 0 then 1 else 0) := by
  cases hv : bit v 0 <;> cases hw : s.b F.PHE_CAL_CTRL_ENABLE 0 <;>
    simp [calCtrlWrite, calCtrlWord, hv, hw, settleAll_ctrl, examine_ctrl, State.setB, State.setF]

theorem fget_calCtrlWord :
    fget F.PHE_CAL_CTRL_ENABLE (calCtrlWord v w) = fget F.PHE_CAL_CTRL_ENABLE w ∧
      fget F.PHE_CAL_CTRL_LATE_LIMIT (calCtrlWord v w) = bits v 15 8 ∧
      fget F.PHE_CAL_CTRL_EDGE_COMP (calCtrlWord v w) = bits v 1 1 := by
  have hlim : bits v 15 8 % 2 ^ (15 + 1 - 8) = bits v 15 8 := Nat.mod_mod ..
  have hcomp : bits v 1 1 % 2 ^ (1 + 1 - 1) = bits v 1 1 := Nat.mod_mod ..
  simp (disch := decide) only [calCtrlWord, fget_fset, fget_fset_ne, hlim, hcomp, and_self]

/-- A write of PHE_CAL_CTRL sets its three fields (R74, R94). -/
theorem calCtrlWrite_fields :
    (calCtrlWrite v s).b F.PHE_CAL_CTRL_ENABLE 0 = bit v 0 ∧
      (calCtrlWrite v s).f F.PHE_CAL_CTRL_LATE_LIMIT 0 = bits v 15 8 ∧
      (calCtrlWrite v s).b F.PHE_CAL_CTRL_EDGE_COMP 0 = bit v 1 := by
  obtain ⟨hen, hlim, hcomp⟩ := fget_calCtrlWord (v := v) (w := s.r .PHE_CAL_CTRL 0)
  have hbit : (bits v 1 1 != 0) = bit v 1 := fget_flag (f := F.PHE_CAL_CTRL_EDGE_COMP) rfl v
  have hr := calCtrlWrite_ctrl (v := v) (s := s)
  split at hr
  · next h =>
    obtain ⟨hv, hw⟩ := Bool.and_eq_true_iff.mp h
    simp only [State.b, State.f, hr, hen, hlim, hcomp, hv, true_and]
    exact ⟨hw, hbit⟩
  · simp (disch := decide) only [State.b, State.f, hr, fget_fset_ne, hlim, hcomp, fget_fset, true_and]
    refine ⟨?_, hbit⟩
    cases bit v 0 <;> rfl

/-- Bit 0 of the written value is ENABLE. -/
theorem calCtrlWrite_bit (y : Nat) :
    let t := calCtrlWrite (setBits v 0 0 y) s
    t.b F.PHE_CAL_CTRL_ENABLE 0 = y.testBit 0 ∧ t.f F.PHE_CAL_CTRL_LATE_LIMIT 0 = bits v 15 8 ∧
      t.b F.PHE_CAL_CTRL_EDGE_COMP 0 = bit v 1 := by
  obtain ⟨hen, hlim, hcomp⟩ := calCtrlWrite_fields (v := setBits v 0 0 y) (s := s)
  exact ⟨hen.trans (bit_setBits_self (by decide)),
    hlim.trans (fget_setBits0 (f := F.PHE_CAL_CTRL_LATE_LIMIT) (by decide) (by decide)),
    hcomp.trans (bit_setBits_ne (by decide) (by decide))⟩

/-! ## The due queue -/

theorem mem_firingInsert {q r : Firing} {l : List Firing} : r ∈ firingInsert q l ↔ r = q ∨ r ∈ l := by
  induction l with
  | nil => simp [firingInsert]
  | cons y l ih =>
    rw [firingInsert]
    split
    · exact List.mem_cons
    · rw [List.mem_cons, ih, List.mem_cons]
      tauto

/-- The order of R78 lists the firings that it is given. -/
theorem mem_firingSort {r : Firing} {l : List Firing} : r ∈ l.foldr firingInsert [] ↔ r ∈ l := by
  induction l with
  | nil => rfl
  | cons y l ih => rw [List.foldr_cons, mem_firingInsert, ih, List.mem_cons]

/-- A service takes one firing from the queue, and what becomes of it leaves the others (R78). -/
theorem dueServiceOne_length : (dueServiceOne s).due.length = s.due.length - 1 := by
  unfold dueServiceOne dueServiceWhere
  have hmem (r : Firing) : r ∈ (s.due.filter fun _ => true).foldr firingInsert [] ↔ r ∈ s.due := by
    rw [mem_firingSort]
    simp
  split
  · next hnil =>
    have hdue : s.due = [] := List.eq_nil_iff_forall_not_mem.mpr fun r hr => by
      have hr' := (hmem r).mpr hr
      rw [hnil] at hr'
      cases hr'
    simp [hdue]
  · next q l hcons =>
    have hq : q ∈ s.due := (hmem q).mp (hcons ▸ List.mem_cons_self)
    extract_lets u lim late5 y
    have hu : u.due.length = s.due.length - 1 := by rw [setDue_due, List.length_erase_of_mem hq]
    have hy : y.due = u.due := by
      unfold y
      split
      · exact markLate_due
      · rfl
    clear_value u y
    split
    · exact hu
    · split
      · rw [discardLate_due, hy, hu]
      · split
        · rw [calDeliver_due, hy, hu]
        · rw [calErr_due, hy, hu]

theorem iter_dueService (n : Nat) : (iter n (fun _ t => dueServiceOne t) s).due.length = s.due.length - n := by
  induction n with
  | zero => rfl
  | succ n ih => rw [iter_succ, dueServiceOne_length, ih, Nat.sub_sub]

/-- The oldest held firing enters a queue with room (R79). -/
theorem heldEnqueue_room {q : Firing} {l : List Firing} (hheld : s.calHeld = q :: l) (hroom : s.due.length < 4096) :
    (heldEnqueue s).calHeld = l ∧ (heldEnqueue s).due = s.due ++ [q] := by
  simp [heldEnqueue, heldMove, hroom, hheld]

/-! ## Blocks -/

theorem setCancelBusy_busy :
    (setCancelBusy s).b F.PHE_CAL_STATUS_CANCEL_BUSY 0 = (!s.cancelQ.isEmpty || s.cancelRun.isSome) :=
  State.b_setB_self (by decide) (by decide)

/-- WORLD and PART of a block written with their own values. -/
def blockKept (b : Nat) (s : State) : State :=
  (s.setB F.PHE_CAL_BLOCK_WORLD b (s.b F.PHE_CAL_BLOCK_WORLD b)).setF F.PHE_CAL_BLOCK_PART b (s.f F.PHE_CAL_BLOCK_PART b)

theorem blockKept_enable : (blockKept b s).b F.PHE_CAL_BLOCK_ENABLE b = s.b F.PHE_CAL_BLOCK_ENABLE b :=
  (State.b_setF_ne (by decide) (by decide)).trans (State.b_setF_ne (by decide) (by decide))

section
variable {a : Access} (hw : a.world = s.b F.PHE_CAL_BLOCK_WORLD b) (hv : bit v 63 = s.b F.PHE_CAL_BLOCK_WORLD b)
  (hp : fget F.PHE_CAL_BLOCK_PART v = s.f F.PHE_CAL_BLOCK_PART b)
include hw hv hp

/-- A write that leaves WORLD and PART sets ENABLE, or asks for a cancellation (R67, R86). -/
theorem calBlockWrite_own : calBlockWrite a b v s =
    if bit v 0 then
      if cancelling b s then s.setB F.PHE_CAL_STATUS_CFGERR 0 true
      else (blockKept b s).setB F.PHE_CAL_BLOCK_ENABLE b true
    else requestCancel b (blockKept b s) := by
  have hown : (a.world && a.part == 0 && !s.b F.PHE_CAL_BLOCK_WORLD b) = false := by
    rw [hw]
    cases s.b F.PHE_CAL_BLOCK_WORLD b <;> simp
  have hpart : assigns F.PHE_CAL_BLOCK_PART b v s = false := by simp [assigns, hp]
  have hbits : bits v 13 8 = s.f F.PHE_CAL_BLOCK_PART b := hp
  have hworld : (if a.world && a.part == 0 then bit v 63 else s.b F.PHE_CAL_BLOCK_WORLD b) =
      s.b F.PHE_CAL_BLOCK_WORLD b := by
    rw [hv, ite_self]
  simp only [calBlockWrite, hown, hpart, hbits, hworld, ite_self]
  cases bit v 0 <;> cases cancelling b s <;> simp [blockKept]

/-- Only bit 0 of the written value says whether the block opens. -/
theorem calBlockWrite_bit (y : Nat) : calBlockWrite a b (setBits v 0 0 y) s =
    if y.testBit 0 then
      if cancelling b s then s.setB F.PHE_CAL_STATUS_CFGERR 0 true
      else (blockKept b s).setB F.PHE_CAL_BLOCK_ENABLE b true
    else requestCancel b (blockKept b s) := by
  rw [calBlockWrite_own hw ((bit_setBits_ne (by decide) (by decide)).trans hv)
    ((fget_setBits0 (by decide) (by decide)).trans hp), bit_setBits_self (by decide)]

theorem calBlockWrite_close (he : s.b F.PHE_CAL_BLOCK_ENABLE b = true) :
    let t := calBlockWrite a b (setBits v 0 0 0) s
    t.b F.PHE_CAL_BLOCK_ENABLE b = false ∧ t.cancelQ = s.cancelQ ++ [b] ∧ t.b F.PHE_CAL_STATUS_CANCEL_BUSY 0 = true := by
  dsimp only
  rw [calBlockWrite_bit hw hv hp, if_neg (by decide), requestCancel, if_pos (blockKept_enable.trans he)]
  refine ⟨?_, rfl, ?_⟩
  · exact (State.b_setF_reg (by decide)).trans (State.b_setB_self (by decide) (by decide))
  · rw [setCancelBusy_busy]
    simp [blockKept]

theorem calBlockWrite_open (hc : cancelling b s = false) :
    (calBlockWrite a b (setBits v 0 0 1) s).b F.PHE_CAL_BLOCK_ENABLE b = true := by
  rw [calBlockWrite_bit hw hv hp, if_pos (by decide), hc]
  exact State.b_setB_self (by decide) (by decide)

theorem calBlockWrite_refused (hc : cancelling b s = true) :
    let t := calBlockWrite a b (setBits v 0 0 1) s
    t.b F.PHE_CAL_BLOCK_ENABLE b = s.b F.PHE_CAL_BLOCK_ENABLE b ∧ t.b F.PHE_CAL_STATUS_CFGERR 0 = true := by
  dsimp only
  rw [calBlockWrite_bit hw hv hp, if_pos (by decide), hc]
  exact ⟨State.b_setF_reg (by decide), State.b_setB_self (by decide) (by decide)⟩

end

/-- The next cancellation takes its turn (R86). -/
theorem cancelStart_next {l : List Nat} (hrun : s.cancelRun = none) (hq : s.cancelQ = b :: l) :
    (cancelStart s).cancelRun = some b ∧ (cancelStart s).cancelQ = l ∧
      (cancelStart s).b F.PHE_CAL_STATUS_CANCEL_BUSY 0 = true := by
  simp only [cancelStart, hrun, hq]
  exact ⟨rfl, rfl, by rw [setCancelBusy_busy]; simp⟩

/-- What each application of a function leaves, folding it over a list leaves. -/
theorem foldl_keeps {α β γ : Type} {F : α → β → α} (p : α → γ) (h : ∀ y z, p (F y z) = p y) (l : List β) (y : α) :
    p (l.foldl F y) = p y := by
  induction l generalizing y with
  | nil => rfl
  | cons z l ih => rw [List.foldl_cons, ih, h]

theorem iter_keeps {γ : Type} {F : Nat → State → State} (p : State → γ) (h : ∀ i y, p (F i y) = p y) (n : Nat) (y : State) :
    p (iter n F y) = p y := foldl_keeps p (fun y i => h i y) _ y

/-- VALID cleared in every entry of block b. -/
def blockDisarm (b : Nat) (s : State) : State :=
  (s.cal.filterMap fun (e, c) => if e / 256 = b ∧ calValid c.w2 then some e else none).foldl (fun t e =>
    let c := t.calE e
    t.setCalE e { c with w2 := setBits c.w2 63 63 0, owed := false }) s

/-- The firings of block b taken from the queues. -/
def blockPurge (b : Nat) (s : State) : State :=
  let s := setDue (s.due.filter fun q => q.entry / 256 != b) s
  { s with calHeld := s.calHeld.filter fun q => q.entry / 256 != b }

/-- The edges of block b taken from the pins. -/
def blockUnplace (b : Nat) (s : State) : State :=
  iter 64 (fun i t =>
    let p := t.pin i
    t.setPin i { p with edges := p.edges.filter fun ed => ed.entry / 256 != b }) s

/-- A block that a partition reset cancelled opens again (R88). -/
def blockReopen (b : Nat) (s : State) : State :=
  if s.cancelReopen.contains b then s.setB F.PHE_CAL_BLOCK_ENABLE b true else s

/-- What the end of a cancellation does to block b (R86, R88). -/
def blockSweep (b : Nat) (s : State) : State := blockReopen b (blockUnplace b (blockPurge b (blockDisarm b s)))

theorem blockReopen_queues : (blockReopen b s).due = s.due ∧ (blockReopen b s).calHeld = s.calHeld ∧
    (blockReopen b s).cancelQ = s.cancelQ := by
  unfold blockReopen
  split <;> exact ⟨rfl, rfl, rfl⟩

theorem blockDisarm_keeps {γ : Type} (p : State → γ) (hp : ∀ y e c, p (State.setCalE y e c) = p y) :
    p (blockDisarm b s) = p s := foldl_keeps p (fun _ _ => hp ..) _ _

theorem blockUnplace_keeps {γ : Type} (p : State → γ) (hp : ∀ y i c, p (State.setPin y i c) = p y) :
    p (blockUnplace b s) = p s := iter_keeps p (fun _ _ => hp ..) _ _

theorem blockPurge_due : (blockPurge b s).due = s.due.filter fun q => q.entry / 256 != b := setDue_due _
theorem blockPurge_held : (blockPurge b s).calHeld = s.calHeld.filter fun q => q.entry / 256 != b :=
  congrArg (List.filter _) (setDue_calHeld _)
theorem blockPurge_waiting : (blockPurge b s).cancelQ = s.cancelQ := setDue_cancelQ _

/-- The running cancellation sweeps its block, and no cancellation runs then. -/
theorem cancelDone_running (hrun : s.cancelRun = some b) : cancelDone s =
    setCancelBusy { blockSweep b s with cancelRun := none, cancelReopen := (blockSweep b s).cancelReopen.erase b } := by
  unfold cancelDone
  split
  · next hnone => cases hrun.symm.trans hnone
  · next hsome =>
    cases hrun.symm.trans hsome
    rfl

/-- The queues lose the firings of the block, and the cancellations that wait stay. -/
theorem blockSweep_queues :
    (blockSweep b s).due = s.due.filter (fun q => q.entry / 256 != b) ∧
      (blockSweep b s).calHeld = s.calHeld.filter (fun q => q.entry / 256 != b) ∧
      (blockSweep b s).cancelQ = s.cancelQ := by
  obtain ⟨hdue, hheld, hq⟩ := blockReopen_queues (b := b) (s := blockUnplace b (blockPurge b (blockDisarm b s)))
  refine ⟨hdue.trans ?_, hheld.trans ?_, hq.trans ?_⟩
  · rw [blockUnplace_keeps State.due fun _ _ _ => rfl, blockPurge_due, blockDisarm_keeps State.due fun _ _ _ => rfl]
  · rw [blockUnplace_keeps State.calHeld fun _ _ _ => rfl, blockPurge_held, blockDisarm_keeps State.calHeld fun _ _ _ => rfl]
  · rw [blockUnplace_keeps State.cancelQ fun _ _ _ => rfl, blockPurge_waiting,
      blockDisarm_keeps State.cancelQ fun _ _ _ => rfl]

/-- The end of a cancellation leaves no firing of its block (R86). -/
theorem cancelDone_effect (hrun : s.cancelRun = some b) :
    (cancelDone s).cancelRun = none ∧ (∀ q ∈ (cancelDone s).due ++ (cancelDone s).calHeld, q.entry / 256 ≠ b) ∧
      (cancelDone s).b F.PHE_CAL_STATUS_CANCEL_BUSY 0 = !s.cancelQ.isEmpty := by
  obtain ⟨hdue, hheld, hq⟩ := blockSweep_queues (b := b) (s := s)
  rw [cancelDone_running hrun]
  refine ⟨rfl, fun q hmem => ?_, ?_⟩
  · have hmem' : q ∈ (blockSweep b s).due ++ (blockSweep b s).calHeld := hmem
    rw [hdue, hheld, ← List.filter_append] at hmem'
    simpa using (List.mem_filter.mp hmem').2
  · rw [setCancelBusy_busy]
    simp [hq]

/-! ## The edit ports -/

/-- PHE_CAL_IDX(k) names entry e, of a block that belongs to port k. -/
structure EditOwn (k e : Nat) (s : State) : Prop where
  idx : s.f F.PHE_CAL_IDX_VAL k = e
  part : blkPart e s = k / 2
  world : blkWorld e s = (k % 2 == 1)

/-- The block is open, and no cancellation covers it. -/
structure EditOpen (k e : Nat) (s : State) : Prop extends EditOwn k e s where
  quiet : cancelling (e / 256) s = false
  isOpen : blkOpen e s = true

@[simp] theorem editStatus_status (hn : n < 16) : (editStatus k n s).f F.PHE_CAL_EDIT_STATUS_STATUS k = n :=
  (State.f_setF_self _ _ _ _ (by decide)).trans (Nat.mod_eq_of_lt hn)

@[simp] theorem editStatus_calE : (editStatus k n s).calE e = s.calE e := rfl
@[simp] theorem editStatus_r (hg : g ≠ .PHE_CAL_EDIT_STATUS) : (editStatus k n s).r g i = s.r g i := State.r_setF_reg hg

section
variable {act : Nat → State → State}

theorem editGuard_open (h : EditOpen k e s) : editGuard k act s = act e s := by
  obtain ⟨⟨hidx, hpart, hworld⟩, hquiet, hopen⟩ := h
  simp [editGuard, hidx, hpart, hworld, hquiet, hopen]

theorem editGuard_busy (h : EditOwn k e s) (hc : cancelling (e / 256) s = true) :
    editGuard k act s = editStatus k 1 s := by
  obtain ⟨hidx, hpart, hworld⟩ := h
  simp [editGuard, hidx, hpart, hworld, hc]

theorem editGuard_foreign (hidx : s.f F.PHE_CAL_IDX_VAL k = e) (h : blkPart e s ≠ k / 2 ∨ blkWorld e s ≠ (k % 2 == 1)) :
    editGuard k act s = editStatus k 2 s := by
  rw [editGuard, hidx]
  exact if_pos h

end

theorem editRead_open (h : EditOpen k e s) :
    (editRead k s).r .PHE_CAL_W0 k = (s.calE e).w0 ∧ (editRead k s).r .PHE_CAL_W1 k = (s.calE e).w1 ∧
      (editRead k s).r .PHE_CAL_W3 k = (s.calE e).w3 ∧ (editRead k s).f F.PHE_CAL_EDIT_STATUS_STATUS k = 0 := by
  rw [editRead, editGuard_open h]
  refine ⟨?_, ?_, ?_, editStatus_status (by decide)⟩ <;> simp [State.r_setR_reg]

/-- A refused command changes no entry. -/
theorem editStatus_refused (hn : n < 16) :
    (editStatus k n s).cal = s.cal ∧ (editStatus k n s).f F.PHE_CAL_EDIT_STATUS_STATUS k = n :=
  ⟨rfl, editStatus_status hn⟩

section
variable (h : EditOpen k e s)
include h

theorem editWrite_invalid
    (hval : calInvalid (s.r .PHE_CAL_W1 k) (editW2 (s.r .PHE_CAL_W2 k)) (s.r .PHE_CAL_W3 k) = true) :
    editWrite k s = editStatus k 3 s := by
  rw [editWrite, editGuard_open h]
  exact if_pos hval

variable (hval : calInvalid (s.r .PHE_CAL_W1 k) (editW2 (s.r .PHE_CAL_W2 k)) (s.r .PHE_CAL_W3 k) = false)
include hval

theorem editWrite_target
    (ht : calTargetOk (editW2 (s.r .PHE_CAL_W2 k)) (s.r .PHE_CAL_W3 k) (k % 2 == 1) (k / 2) s = false ∨
      dispatchWorldOk (editW2 (s.r .PHE_CAL_W2 k)) (s.r .PHE_CAL_W3 k) (k % 2 == 1) s = false) :
    editWrite k s = editStatus k 4 s := by
  rw [editWrite, editGuard_open h]
  refine (if_neg (by rw [hval]; decide)).trans (if_pos ?_)
  rcases ht with ht | ht <;> simp [ht]

/-- A WRITE that passes commits the staged words (R84). -/
theorem editWrite_commit
    (ht : calTargetOk (editW2 (s.r .PHE_CAL_W2 k)) (s.r .PHE_CAL_W3 k) (k % 2 == 1) (k / 2) s = true)
    (hd : dispatchWorldOk (editW2 (s.r .PHE_CAL_W2 k)) (s.r .PHE_CAL_W3 k) (k % 2 == 1) s = true) :
    let t := editWrite k s
    (t.calE e).w0 = s.r .PHE_CAL_W0 k ∧ (t.calE e).w1 = s.r .PHE_CAL_W1 k ∧
      (t.calE e).w2 = editW2 (s.r .PHE_CAL_W2 k) ∧ (t.calE e).w3 = s.r .PHE_CAL_W3 k ∧
      t.f F.PHE_CAL_EDIT_STATUS_STATUS k = 0 := by
  have heq : ∃ o u, editWrite k s = editStatus k 0 (s.setCalE e
      { w0 := s.r .PHE_CAL_W0 k, w1 := s.r .PHE_CAL_W1 k, w2 := editW2 (s.r .PHE_CAL_W2 k), w3 := s.r .PHE_CAL_W3 k,
        owed := o, fired := u }) := by
    rw [editWrite, editGuard_open h]
    exact ⟨_, _, (if_neg (by rw [hval]; decide)).trans (if_neg (by rw [ht, hd]; decide))⟩
  obtain ⟨o, u, heq⟩ := heq
  rw [heq]
  simp

end

theorem calDisarm_valid : bit ((calDisarm e s).calE e).w2 63 = false := by
  simp (disch := decide) [calDisarm, bit_setBits_self]

theorem editDisarm_open (h : EditOpen k e s) :
    bit ((editDisarm k s).calE e).w2 63 = false ∧ (editDisarm k s).f F.PHE_CAL_EDIT_STATUS_STATUS k = 0 := by
  rw [editDisarm, editGuard_open h]
  exact ⟨calDisarm_valid, editStatus_status (by decide)⟩

/-- The status of the port says nothing of its entry. -/
theorem EditOpen.setB_purged (h : EditOpen k e s) : EditOpen k e (s.setB F.PHE_CAL_EDIT_STATUS_PURGED k x) := by
  obtain ⟨⟨hidx, hpart, hworld⟩, hquiet, hopen⟩ := h
  exact ⟨⟨(State.f_setF_reg _ (by decide) ..).trans hidx, (State.f_setF_reg _ (by decide) ..).trans hpart,
    (State.b_setF_reg (by decide)).trans hworld⟩, hquiet, (State.b_setF_reg (by decide)).trans hopen⟩

/-- A DISARM with PURGE takes the firings of the entry from the queues and says whether there were any (R84). -/
theorem editPurge_open (h : EditOpen k e s) :
    bit ((editPurge k s).calE e).w2 63 = false ∧
      (∀ q ∈ (editPurge k s).due ++ (editPurge k s).calHeld, q.entry ≠ e) ∧
      (editPurge k s).b F.PHE_CAL_EDIT_STATUS_PURGED k = (s.due ++ s.calHeld).any (fun q => q.entry == e) ∧
      (editPurge k s).f F.PHE_CAL_EDIT_STATUS_STATUS k = 0 := by
  rw [editPurge, editGuard_open h.setB_purged]
  extract_lets had s1 s2
  have hdue : s2.due = s.due.filter fun q => q.entry != e := setDue_due _
  have hheld : s2.calHeld = s.calHeld.filter fun q => q.entry != e := congrArg (List.filter _) (setDue_calHeld _)
  have hhad : had = (s.due ++ s.calHeld).any fun q => q.entry == e := rfl
  clear_value s2
  refine ⟨calDisarm_valid, fun q hq => ?_, ?_, editStatus_status (by decide)⟩
  · have hq' : q ∈ s2.due ++ s2.calHeld := hq
    rw [hdue, hheld, ← List.filter_append] at hq'
    simpa using (List.mem_filter.mp hq').2
  · rw [← hhad]
    exact (State.b_setF_ne (by decide) (by decide)).trans (State.b_setB_self (by decide) (by decide))

end

/-- Settles O3: each clause is one command, and what it does to the entries, the queues and the registers has its own lemma
above. The model's choices behind the words: FIRED is set at every match, that of a suppressed firing too (log 26), a WRITE
that earns both answers gets INVALID (log 169), and a foreign block answers DENIED under a cancellation too (log 170). -/
theorem calendarWork : Obligations.CalendarWork := by
  refine ⟨fun e late inst s hm hf => ⟨_, rfl, calMatchOne_match hm hf⟩, fun a v s ha => gives_of_allowed rfl ha ?_,
    fun a v s ha => gives_of_allowed rfl ha ?_, fun s => ⟨_, rfl, iter_dueService 8⟩,
    fun q l s hheld hroom => ⟨_, rfl, heldEnqueue_room hheld hroom⟩,
    fun a b v s ha hw hv hp he => gives_of_allowed rfl ha (calBlockWrite_close hw hv hp he),
    fun a b v s ha hw hv hp hc => gives_of_allowed rfl ha (calBlockWrite_open hw hv hp hc),
    fun a b v s ha hw hv hp hc => gives_of_allowed rfl ha (calBlockWrite_refused hw hv hp hc),
    fun b l s hrun hq => ⟨_, rfl, cancelStart_next hrun hq⟩, fun b s hrun => ⟨_, rfl, cancelDone_effect hrun⟩,
    fun a k e s ha hi hp hw hc ho => gives_of_allowed rfl ha (editRead_open ⟨⟨hi, hp, hw⟩, hc, ho⟩),
    fun a k e s ha hi hp hw hc ho hval ht hd => gives_of_allowed rfl ha ?_,
    fun a k e s ha hi hp hw hc ho hval => gives_of_allowed rfl ha ?_,
    fun a k e s ha hi hp hw hc ho hval ht => gives_of_allowed rfl ha ?_,
    fun a k e s ha hi hown => gives_of_allowed rfl ha ?_,
    fun a k e s ha hi hp hw hc ho => gives_of_allowed rfl ha (editDisarm_open ⟨⟨hi, hp, hw⟩, hc, ho⟩),
    fun a k e s ha hi hp hw hc => gives_of_allowed rfl ha ?_,
    fun a k e s ha hi hp hw hc ho => gives_of_allowed rfl ha (editPurge_open ⟨⟨hi, hp, hw⟩, hc, ho⟩)⟩
  · exact calCtrlWrite_bit 1
  · exact calCtrlWrite_bit 0
  · exact editWrite_commit ⟨⟨hi, hp, hw⟩, hc, ho⟩ hval ht hd
  · rw [editWrite_invalid (s := s.answer 0) ⟨⟨hi, hp, hw⟩, hc, ho⟩ hval]
    exact editStatus_refused (by decide)
  · rw [editWrite_target (s := s.answer 0) ⟨⟨hi, hp, hw⟩, hc, ho⟩ hval ht]
    exact editStatus_refused (by decide)
  · rw [editWrite, editGuard_foreign (s := s.answer 0) hi hown]
    exact editStatus_refused (by decide)
  · rw [editDisarm, editGuard_busy (s := s.answer 0) ⟨hi, hp, hw⟩ hc]
    exact editStatus_refused (by decide)

end Sys2Proof.Machine

/-! # Tasks and dispatches

Every clause of `Obligations.TasksAndDispatch` is proved but that of a dispatch to a parked core. A core on its way to GATED may
finish its entry first, which empties its descriptor cache, and the model leaves that to `Config.freeBit`, an opaque constant of
which nothing can be proved: the obligation says as much as that no free bit is 1. -/

namespace Sys2Proof.Machine

section
variable {s : State} {h k n : Nat} {i : Issue} {t : Hart} {d : Disp} {l : Line} {x : Xlate}

/-! ## Harts -/

@[simp] theorem State.onHart_hart {f : Hart → Hart} : (s.onHart h f).hart h = f (s.hart h) := smapGet_set_self ..

theorem State.hart_of_harts {u : State} (hs : u.harts = s.harts) : u.hart h = s.hart h := by rw [State.hart, hs, State.hart]

@[simp] theorem traceEmit_hart {w : Word} : (traceEmit n k w s).hart h = s.hart h := by
  obtain ⟨-, parts, -⟩ := only_traceEmit (ha := n) (kind := k) (w1 := w) (Nat.and_self _) (.refl _ s)
  exact State.hart_of_harts (parts .harts rfl)

@[simp] theorem gateEnd_hart : (gateEnd n k s).hart h = s.hart h := by
  unfold gateEnd
  split <;> rfl

/-- The fields that an instruction's end may change: of a hart u that is t but for its CSRs, with pc p. -/
structure CountedTo (p : Word) (t u : Hart) : Prop where
  x : u.x = t.x
  pc : u.pc = p
  pend : u.pend = t.pend
  task0 : u.task0 = t.task0
  task1 : u.task1 = t.task1
  task3 : u.task3 = t.task3

theorem Hart.tick_counted : CountedTo t.pc t (t.tick n) := by
  unfold Hart.tick
  dsimp only
  split <;> exact ⟨rfl, rfl, rfl, rfl, rfl, rfl⟩

theorem Hart.retired_counted : CountedTo t.pc t t.retired := by
  unfold Hart.retired
  split
  · exact Hart.tick_counted
  · exact ⟨rfl, rfl, rfl, rfl, rfl, rfl⟩

theorem Hart.icount_counted : (t.icount n).x = t.x ∧ (t.icount n).pc = t.pc := by
  unfold Hart.icount
  dsimp only
  split <;> exact ⟨rfl, rfl⟩

theorem Hart.foldl_icount_counted (ks : List Nat) :
    (ks.foldl Hart.icount t).x = t.x ∧ (ks.foldl Hart.icount t).pc = t.pc := by
  induction ks generalizing t with
  | nil => exact ⟨rfl, rfl⟩
  | cons k ks ih =>
    obtain ⟨hx, hpc⟩ := ih (t := t.icount k)
    obtain ⟨hx', hpc'⟩ := Hart.icount_counted (t := t) (n := k)
    exact ⟨hx.trans hx', hpc.trans hpc'⟩

/-- The end of an instruction moves the pc and leaves the x registers. -/
theorem Hart.past_moves : (t.past n).x = t.x ∧ (t.past n).pc = t.pc + BitVec.ofNat 64 n := by
  have hr := Hart.retired_counted (t := t)
  obtain ⟨hx, hpc⟩ := Hart.foldl_icount_counted (t := t.retired) (List.range 8)
  exact ⟨hx.trans hr.x, congrArg (· + BitVec.ofNat 64 n) (hpc.trans hr.pc)⟩

theorem Hart.setX_pc {v : Word} : (t.setX n v).pc = t.pc := by
  unfold Hart.setX
  split <;> rfl

theorem Hart.setX_pend {v : Word} : (t.setX n v).pend = t.pend := by
  unfold Hart.setX
  split <;> rfl

theorem Hart.getX_setX {v : Word} (hn : n < 32) : (t.setX n v).getX n = if n = 0 then 0 else v := by
  rw [Hart.setX, Nat.mod_eq_of_lt hn, Hart.getX]
  split
  · rfl
  · exact smapGet_set_self ..

theorem Hart.getX_of_x {u : Hart} (hx : u.x = t.x) : u.getX n = t.getX n := by rw [Hart.getX, hx, Hart.getX]

/-! ## The exceptions of Xzdtime (R113 to R115) -/

theorem raiseEnc_raised : Raised i k (BitVec.ofNat 64 i.enc.toNat) (raiseEnc i k s) := by
  simp only [Raised, raiseEnc, raise, State.onHart_hart]

section
variable {ready bad replica : Bool} {zeros : BitVec 32} {act : State → State}

theorem xtRun_fault {c : Nat} (hr : ready = true) (hc : xtFault i zeros bad replica s = some c) :
    Raised i c (BitVec.ofNat 64 i.enc.toNat) (xtRun i ready zeros bad replica act s) := by
  simp only [xtRun, hr, hc]
  exact raiseEnc_raised

theorem xtRun_disabled (hr : ready = true) (hp : (s.hart i.hart).priv < 3)
    (hb : bit ((s.hart i.hart).c CSR.mzdcfg) 2 = false) :
    Raised i 2 (BitVec.ofNat 64 i.enc.toNat) (xtRun i ready zeros bad replica act s) :=
  xtRun_fault hr (if_pos ⟨hp, by rw [hb]; rfl⟩)

/-- Where mzdcfg lets the hart run it and its encoding is good, only the replica can refuse the instruction. -/
theorem xtFault_ok (hx : XtOk i s) (hz : i.enc &&& zeros = 0) (hb : bad = false) :
    xtFault i zeros bad replica s = if replica ∧ !replicaValid (hartDie i.hart s) s then some 25 else none := by
  have hoff : ¬((s.hart i.hart).priv < 3 ∧ (!bit ((s.hart i.hart).c CSR.mzdcfg) 2) = true) := by
    rintro ⟨hp, h⟩
    simp [(hx hp).1] at h
  have hvirt : ¬((s.hart i.hart).priv < 3 ∧ (s.hart i.hart).virt = true ∧
      (!bit ((s.hart i.hart).c CSR.mzdcfg) 3) = true) := by
    rintro ⟨hp, hv, h⟩
    simp [(hx hp).2 hv] at h
  simp only [xtFault, hoff, hvirt, hz, hb, if_false, ne_eq, not_true_eq_false, Bool.false_eq_true, or_self]

theorem xtRun_act (hr : ready = true) (hx : XtOk i s) (hz : i.enc &&& zeros = 0) :
    xtRun i ready zeros false false act s = act s := by
  have hn : xtFault i zeros false false s = none := (xtFault_ok hx hz rfl).trans (if_neg (by simp))
  simp [xtRun, hr, hn]

theorem xtRun_invalid (hr : ready = true) (hx : XtOk i s) (hz : i.enc &&& zeros = 0) (hb : bad = false)
    (hv : replicaValid (hartDie i.hart s) s = false) :
    Raised i 25 (BitVec.ofNat 64 i.enc.toNat) (xtRun i ready zeros bad true act s) :=
  xtRun_fault hr ((xtFault_ok hx hz hb).trans (if_pos ⟨rfl, by rw [hv]; rfl⟩))

end

theorem canDrained_iff : canDrained i s = true ↔ canSettle i s = true ∧ (s.hart i.hart).sb = [] := by
  simp [canDrained, List.isEmpty_iff]

theorem canSettle_issue (hs : canSettle i s = true) : canIssue i s = true := (Bool.and_eq_true_iff.mp hs).1

theorem canIssue_pc (hs : canIssue i s = true) : (s.hart i.hart).pc = i.pc := by
  simpa using (Bool.and_eq_true_iff.mp hs).2

theorem canDrained_room (hd : canDrained i s = true) : (canSettle i s && sbRoom i.hart s) = true := by
  obtain ⟨hs, hsb⟩ := canDrained_iff.mp hd
  simp [hs, sbRoom, hsb]

/-! ## Tasks -/

/-- The task of dispatch d runs on hart h, from the descriptor l (R137). -/
structure TaskOf (d : Disp) (l : Line) (t : Hart) : Prop where
  pc : t.pc = descWord l 0 &&& ~~~ 1#64
  st : t.st = .run
  task0 : t.task0 = BitVec.ofNat 64 d.arg.toNat
  task1 : t.task1 = d.phase
  task3 : t.task3 = d.inst

theorem Hart.arm_tasks {m src : Nat} {v : Word} : (t.arm m src v).pend = t.pend ∧ (t.arm m src v).task0 = t.task0 ∧
    (t.arm m src v).task1 = t.task1 ∧ (t.arm m src v).task3 = t.task3 := ⟨rfl, rfl, rfl, rfl⟩

theorem taskStart_task : TaskOf d l ((taskStart h d l s).hart h) ∧ ((taskStart h d l s).hart h).pend = (s.hart h).pend := by
  unfold taskStart
  extract_lets flags m u
  have hu : ∃ t : Hart, u.hart h =
      { t.retired with pc := descWord l 0 &&& ~~~ 1#64, start := none, stall := .none, st := .run } ∧
      t.pend = (s.hart h).pend ∧ t.task0 = BitVec.ofNat 64 d.arg.toNat ∧ t.task1 = d.phase ∧ t.task3 = d.inst := by
    refine ⟨_, State.onHart_hart, ?_⟩
    split_ifs <;> simp [Hart.arm_tasks, Hart.setX_pend]
  obtain ⟨t, hu, hpend, h0, h1, h3⟩ := hu
  have hr := Hart.retired_counted (t := t)
  rw [traceEmit_hart, hu]
  exact ⟨⟨rfl, rfl, hr.task0.trans h0, hr.task1.trans h1, hr.task3.trans h3⟩, hr.pend.trans hpend⟩

/-- A dispatch whose descriptor is cached starts at once. -/
theorem beginTask_cached (hl : tdcFind d.desc (s.hart h).tdc = some l) :
    TaskOf d l ((beginTask h d x s).hart h) ∧ ((beginTask h d x s).hart h).pend = (s.hart h).pend := by
  simp only [beginTask, hl]
  obtain ⟨htask, hpend⟩ :=
    taskStart_task (h := h) (d := d) (l := l) (s := s.onHart h fun t => { t with tdc := tdcPut d.desc l t.tdc })
  exact ⟨htask, hpend.trans (by rw [State.onHart_hart])⟩

section
variable {hint : Word} (hx : XtOk i s)
include hx

theorem tkYield_held (hd : canDrained i s = true) (hz : i.enc &&& 0xFFF00F80#32 = 0) (hp : (s.hart i.hart).pend = some d)
    (hl : tdcFind d.desc (s.hart i.hart).tdc = some l) :
    Gives (.tkYield i hint x) s fun t => TaskOf d l (t.hart i.hart) ∧ (t.hart i.hart).pend = none := by
  refine ⟨_, rfl, ?_⟩
  rw [xtRun_act hd hx hz]
  simp only [hp]
  obtain ⟨htask, hpend⟩ := beginTask_cached (h := i.hart) (d := d) (l := l) (x := x)
    (s := s.onHart i.hart fun t => { t with pend := none }) (by rw [State.onHart_hart]; exact hl)
  exact ⟨htask, hpend.trans (by rw [State.onHart_hart])⟩

theorem tkYield_parks (hd : canDrained i s = true) (hz : i.enc &&& 0xFFF00F80#32 = 0) (hp : (s.hart i.hart).pend = none)
    (hirq : irqTaken i.hart s = none) (hsec : secureIrq i.hart s = false) (hr : i.rs1 = 0) :
    Gives (.tkYield i hint x) s fun t =>
      (t.hart i.hart).st = .wait .disp ∧ (t.hart i.hart).pc = (s.hart i.hart).pc := by
  refine ⟨_, rfl, ?_⟩
  rw [xtRun_act hd hx hz]
  simp [hp, hirq, hsec, hr, park]

theorem tkArg_reads (hs : canSettle i s = true) (hz : i.enc &&& 0xFFCF8000#32 = 0) :
    Gives (.tkArg i) s fun t =>
      (t.hart i.hart).getX i.rd = (if i.rd = 0 then 0 else if i.sel = 0 then (s.hart i.hart).task0 else if i.sel = 1
        then (s.hart i.hart).task1 else if i.sel = 2 then (s.hart i.hart).task2 else (s.hart i.hart).task3) ∧
      Moved i t := by
  refine ⟨_, rfl, ?_⟩
  rw [xtRun_act hs hx hz]
  have hrd : i.rd < 32 := Nat.mod_lt _ (by decide)
  simp only [Moved, pass, putX, State.onHart_hart]
  rw [Hart.getX_of_x Hart.past_moves.1, Hart.getX_setX hrd, Hart.past_moves.2, Hart.setX_pc,
    canIssue_pc (canSettle_issue hs)]
  exact ⟨rfl, rfl⟩

end

/-! ## Dispatches (R83) -/

/-- The state without message m. -/
def unsent (m : Msg) (s : State) : State := { s with out := s.out.erase m }

theorem calErr_code (hk : k < 16) : (calErr n k s).f F.PHE_CAL_ERR_CODE 0 = k := by
  simp only [calErr, State.setB]
  rw [State.f_setF_reg _ (by decide), State.f, State.r_setR_reg _ (by decide), ← State.f,
    State.f_setF_ne _ _ _ _ _ _ (by decide) (by decide), State.f_setF_self _ _ _ _ (by decide)]
  exact Nat.mod_eq_of_lt (Nat.lt_of_lt_of_le hk (by decide))

section
variable {desc e src part : Nat} {arg : BitVec 32} {ph inst : Word} {late w : Bool}
  (hm : s.out.contains (.dispatch h desc arg ph inst e src late w part) = true) (hon : dieOn (hartDie h s) s = true)
  (hact : bridgeActive (hartDie h s) s = true)
include hm

theorem take_dispatch : s.take (.dispatch h desc arg ph inst e src late w part) =
    unsent (.dispatch h desc arg ph inst e src late w part) s := if_pos hm

include hon hact

/-- A dispatch that reaches a die that is ON goes to the task, the held slot or the error log. -/
theorem dispatch_arrives : exec (.dispatch h desc arg ph inst e src late w part x) s = .next (
    let u := unsent (.dispatch h desc arg ph inst e src late w part) s
    let d : Disp := ⟨desc, arg, ph, inst, e, src, late⟩
    if parkedDisp h s then beginTask h d x (gateLeave h u)
    else if (s.hart h).pend.isSome then calErr e 3 u
    else u.onHart h fun t => { t with pend := some d }) := by
  show execDispatch .. = _
  have hon' (m : Msg) : dieOn (hartDie h (unsent m s)) (unsent m s) = true := hon
  have hparked (m : Msg) : parkedDisp h (unsent m s) = parkedDisp h s := rfl
  have hhart (m : Msg) : (unsent m s).hart h = s.hart h := rfl
  unfold execDispatch
  dsimp only
  rw [take_dispatch hm, hm, hon, hact]
  simp only [hon', hparked, hhart, Bool.not_true, Bool.false_or, Bool.and_false, Bool.false_eq_true, if_false]
  split_ifs <;> rfl

theorem dispatch_held (hp : parkedDisp h s = false) (hn : (s.hart h).pend = none) :
    Gives (.dispatch h desc arg ph inst e src late w part x) s fun t =>
      (t.hart h).pend = some ⟨desc, arg, ph, inst, e, src, late⟩ ∧
      t.out = s.out.erase (.dispatch h desc arg ph inst e src late w part) := by
  refine ⟨_, dispatch_arrives hm hon hact, ?_⟩
  simp only [hp, hn, Option.isSome_none, Bool.false_eq_true, if_false, State.onHart_hart, true_and]
  rfl

theorem dispatch_dropped (hp : parkedDisp h s = false) (hn : (s.hart h).pend ≠ none) :
    Gives (.dispatch h desc arg ph inst e src late w part x) s fun t =>
      t.b F.PHE_CAL_STATUS_ERR 0 = true ∧ t.f F.PHE_CAL_ERR_CODE 0 = 3 ∧ (t.hart h).pend = (s.hart h).pend := by
  refine ⟨_, dispatch_arrives hm hon hact, ?_⟩
  simp only [hp, Option.isSome_iff_ne_none.mpr hn, Bool.false_eq_true, if_false, if_true]
  exact ⟨State.b_setB_self (by decide) (by decide), calErr_code (by decide), rfl⟩

/-- A core that keeps its descriptor cache as it leaves GATED starts the task. -/
theorem dispatch_starts (hp : parkedDisp h s = true) (hl : tdcFind desc (s.hart h).tdc = some l)
    (hkeeps : ∀ u : State, ((gateLeave h u).hart h).tdc = (u.hart h).tdc) :
    Gives (.dispatch h desc arg ph inst e src late w part x) s fun t =>
      (t.hart h).pc = descWord l 0 &&& ~~~ 1#64 ∧ (t.hart h).st = .run ∧ (t.hart h).task1 = ph ∧
      (t.hart h).task3 = inst := by
  refine ⟨_, dispatch_arrives hm hon hact, ?_⟩
  simp only [hp, if_true]
  obtain ⟨⟨hpc, hst, -, h1, h3⟩, -⟩ := beginTask_cached (h := h) (d := ⟨desc, arg, ph, inst, e, src, late⟩) (l := l)
    (x := x) (s := gateLeave h (unsent (.dispatch h desc arg ph inst e src late w part) s)) ((congrArg _ (hkeeps _)).trans hl)
  exact ⟨hpc, hst, h1, h3⟩

end

/-! ## The free bit -/

theorem coreOn_tdc : ((coreOn h s).hart h).tdc = (s.hart h).tdc := by
  unfold coreOn
  split
  · rw [gateEnd_hart, State.onHart_hart]
  · rw [gateEnd_hart, State.onHart_hart]
  · rfl

/-- An entry that never finishes at a wake event leaves the descriptor cache. -/
theorem gateLeave_tdc (hfree : ∀ n, Config.freeBit n = false) : ((gateLeave h s).hart h).tdc = (s.hart h).tdc := by
  unfold gateLeave
  split
  · rw [State.freeBit, hfree, Bool.and_false]
    exact coreOn_tdc
  · exact coreOn_tdc
  · rfl

theorem tasksAndDispatch_of_freeBit (hfree : ∀ n, Config.freeBit n = false) : Obligations.TasksAndDispatch := by
  refine ⟨fun i hint x d l s hd hx hz hp hl => ?_,
    fun i hint x s hd hx hz hp hirq hsec hr => tkYield_parks hx hd hz hp hirq hsec hr,
    fun i s hs hx hz => tkArg_reads hx hs hz,
    fun h desc arg ph inst e src late w part x s hm hon hact hp hn => dispatch_held hm hon hact hp hn,
    fun h desc arg ph inst e src late w part x s hm hon hact hp hn => dispatch_dropped hm hon hact hp hn,
    fun h desc arg ph inst e src late w part x l s hm hon hact hp hl =>
      dispatch_starts hm hon hact hp hl fun u => gateLeave_tdc hfree,
    fun i s hd _ hp hb => ⟨_, rfl, xtRun_disabled (canDrained_iff.mp hd).1 hp hb⟩,
    fun i v s hd _ hp hb => ⟨_, rfl, xtRun_disabled (canDrained_iff.mp hd).1 hp hb⟩,
    fun i data v u y s hd _ hp hb => ⟨_, rfl, xtRun_disabled (canDrained_room hd) hp hb⟩,
    fun i v y s hd hq hp hb => ⟨_, rfl, xtRun_disabled (by simp [(canDrained_iff.mp hd).1, hq]) hp hb⟩,
    fun i v s hd _ hp hb => ⟨_, rfl, xtRun_disabled (canDrained_iff.mp hd).1 hp hb⟩,
    fun i s hd _ hp hb => ⟨_, rfl, xtRun_disabled (canDrained_iff.mp hd).1 hp hb⟩,
    fun i v y s hd _ hp hb => ⟨_, rfl, xtRun_disabled hd hp hb⟩,
    fun i s hd _ hp hb => ⟨_, rfl, xtRun_disabled (canDrained_iff.mp hd).1 hp hb⟩,
    fun i v y s hd _ hp hb => ⟨_, rfl, xtRun_disabled (canSettle_issue (canDrained_iff.mp hd).1) hp hb⟩,
    fun i z v u y s hd _ hp hb => ⟨_, rfl, xtRun_disabled (canDrained_room hd) hp hb⟩,
    fun i s hs hp hv h2 h3 => ⟨_, rfl, xtRun_fault hs ?_⟩,
    fun i s hs hx hz hsrc hv => ⟨_, rfl, xtRun_invalid hs hx hz (by simpa using hsrc) hv⟩,
    fun i v s hs hx hz hsrc hv => ⟨_, rfl, xtRun_invalid hs hx hz (by simpa using hsrc) hv⟩,
    fun i v s hs hx hz hsrc hv => ⟨_, rfl, xtRun_invalid hs hx hz (by simpa using hsrc) hv⟩⟩
  · obtain ⟨t, ht, ⟨hpc, hst, h0, h1, h3⟩, hpend⟩ := tkYield_held (hint := hint) (x := x) hx hd hz hp hl
    exact ⟨t, ht, hpc, hst, hpend, h0, h1, h3⟩
  · exact (if_neg (by simp [h2])).trans (if_pos ⟨hp, hv, by rw [h3]; rfl⟩)


/-! ## A core that finishes its entry first -/

/-- The state of a core in GATED, its L2 empty before. -/
theorem gatedIn_hart {y : WaitKind} (hl2 : s.l2 = []) :
    (gatedIn h y s).hart h = { s.hart h with st := .gated y, tdc := [] } := by
  unfold gatedIn
  extract_lets np u w
  have hu : u.harts = s.harts := by
    obtain ⟨-, parts, -⟩ := only_rangeAbort (e := np) (Nat.and_self _) (.refl _ s)
    have hevict : l2EvictAll np (fun _ => true) s = s := by rw [l2EvictAll, hl2]; rfl
    exact (congrArg (fun t => (rangeAbort np t).harts) hevict).trans (parts .harts rfl)
  have hw : w.hart h = s.hart h := State.hart_of_harts hu
  rw [gateEnd_hart, State.onHart_hart, hw]

theorem gateLeave_finishes (hst : (s.hart h).st = .gating .disp) (hd : hartDrained h s = true) (hfree : s.freeBit = true)
    (hl2 : s.l2 = []) :
    ∃ w, (gateLeave h s).hart h = { s.hart h with st := .wait .disp, waitAt := w, tdc := [] } := by
  have hg := gatedIn_hart (h := h) (y := .disp) hl2
  have hleave : gateLeave h s = (coreOn h (gatedIn h .disp s)).bump := by
    simp only [gateLeave, hst, hd, hfree, Bool.and_self, if_true]
  rw [hleave]
  refine ⟨(gatedIn h .disp s).tb, ?_⟩
  show (coreOn h (gatedIn h .disp s)).hart h = _
  simp only [coreOn, hg, gateEnd_hart, State.onHart_hart]

/-- The load of a descriptor that its translation refuses raises the exception: no task begins. -/
theorem descLoad_fault {c j : Nat} (hb : (s.hart h).bare = false) (hl : (s.hart h).loads = [])
    (hd : (s.hart h).start = some d) :
    ((descLoad h n (.fault c j) s).hart h).task1 = (s.hart h).task1 := by
  simp [descLoad, xlated, hb, loadsPump, iter, hl, loadsTry, loadRetire, loadBad, descDone, hd, List.range_succ]

theorem beginTask_fault {c j : Nat} (ht : (s.hart h).tdc = []) (hb : (s.hart h).bare = false) (hl : (s.hart h).loads = []) :
    ((beginTask h d (.fault c j) s).hart h).task1 = (s.hart h).task1 := by
  have hnone : tdcFind d.desc (s.hart h).tdc = none := by rw [ht]; rfl
  simp only [beginTask, hnone]
  rw [descLoad_fault (d := d)] <;> rw [State.onHart_hart]
  · exact hb
  · exact hl

end

/-- Core 0 on its way to GATED, in the dispatch wait, with descriptor 3 cached. -/
def gatingHart : Hart := { ({} : Hart).setC 0x180 (1#64 <<< 63) with priv := 1, st := .gating .disp, tdc := [(3, 0x1001)] }

theorem gatingHart_bare : gatingHart.bare = false := by decide +kernel

/-- A dispatch of descriptor 3 on its way to `gatingHart`, the next free bit being that of index n. -/
def gatingState (n : Nat) : State :=
  { (State.reset.setF F.PWR_DIE_STATE 0 2).setF F.BR_STATUS_STATE 0 6 with
    harts := [(0, gatingHart)], out := [.dispatch 0 3 7 9 1 2 1 false true 0], fresh := n }

theorem gatingState_ready (n : Nat) : dieOn (hartDie 0 (gatingState n)) (gatingState n) = true ∧
    bridgeActive (hartDie 0 (gatingState n)) (gatingState n) = true := by
  have h0 : dieOn (hartDie 0 (gatingState 0)) (gatingState 0) = true ∧
    bridgeActive (hartDie 0 (gatingState 0)) (gatingState 0) = true := by decide +kernel
  exact h0

/-- A free bit of 1 lets the entry finish, and the descriptor is no longer cached. -/
theorem not_tasksAndDispatch_of_freeBit {n : Nat} (hfree : Config.freeBit n = true) : ¬ Obligations.TasksAndDispatch := by
  rintro ⟨-, -, -, -, -, hstart, -⟩
  obtain ⟨hon, hact⟩ := gatingState_ready n
  obtain ⟨t, ht, -, -, h1, -⟩ := hstart 0 3 7 9 1 2 1 false true 0 (.fault 5 0) 0x1001 (gatingState n) rfl hon hact rfl rfl
  rw [dispatch_arrives rfl hon hact] at ht
  cases ht
  obtain ⟨w, hw⟩ := gateLeave_finishes (h := 0) (s := unsent (.dispatch 0 3 7 9 1 2 1 false true 0) (gatingState n)) rfl rfl
    hfree rfl
  have htask := beginTask_fault (d := ⟨3, 7, 9, 1, 2, 1, false⟩) (c := 5) (j := 0) (congrArg Hart.tdc hw)
    ((congrArg Hart.bare hw).trans gatingHart_bare) ((congrArg Hart.loads hw).trans rfl)
  have hkept := h1.symm.trans (htask.trans (congrArg Hart.task1 hw))
  change 9#64 = gatingHart.task1 at hkept
  exact absurd hkept (by decide +kernel)

/-- The value of the free bits is all that O9 leaves undecided. -/
theorem tasksAndDispatch_iff_freeBit : Obligations.TasksAndDispatch ↔ ∀ n, Config.freeBit n = false :=
  ⟨fun h _ => Bool.eq_false_iff.mpr fun hn => not_tasksAndDispatch_of_freeBit hn h, tasksAndDispatch_of_freeBit⟩

end Sys2Proof.Machine

/-! # Harts and their CSRs -/

namespace Sys2Proof.Machine

section
variable {s : State} {h a b n k : Nat} {i : Issue} {t u : Hart} {v : Word} {p q : Nat → Prop}

/-! ## Stored CSRs -/

theorem Hart.c_setC : (t.setC a v).c b = if b = a then v else t.c b := smapGet_set ..

/-- Hart u is t but for the CSRs of p. -/
def CsrsOnly (p : Nat → Prop) (t u : Hart) : Prop := (∃ m, u = { t with csr := m }) ∧ ∀ a, ¬ p a → u.c a = t.c a

theorem CsrsOnly.refl (p : Nat → Prop) (t : Hart) : CsrsOnly p t t := ⟨⟨t.csr, rfl⟩, fun _ _ => rfl⟩

theorem CsrsOnly.trans {w : Hart} (h1 : CsrsOnly p t u) (h2 : CsrsOnly p u w) : CsrsOnly p t w := by
  obtain ⟨⟨m, rfl⟩, hu⟩ := h1
  obtain ⟨⟨m', rfl⟩, hw⟩ := h2
  exact ⟨⟨m', rfl⟩, fun a ha => (hw a ha).trans (hu a ha)⟩

theorem CsrsOnly.mono (h1 : CsrsOnly p t u) (hpq : ∀ a, p a → q a) : CsrsOnly q t u :=
  ⟨h1.1, fun a ha => h1.2 a fun hp => ha (hpq a hp)⟩

theorem CsrsOnly.setC (h1 : CsrsOnly p t u) (ha : p a) : CsrsOnly p t (u.setC a v) := by
  refine h1.trans ⟨⟨_, rfl⟩, fun b hb => ?_⟩
  rw [Hart.c_setC, if_neg]
  rintro rfl
  exact hb ha

theorem CsrsOnly.foldl {f : Hart → Nat → Hart} {l : List Nat} (hf : ∀ t, ∀ k ∈ l, CsrsOnly p t (f t k)) :
    CsrsOnly p t (l.foldl f t) := by
  induction l generalizing t with
  | nil => exact .refl p t
  | cons k l ih =>
    exact (hf t k (List.mem_cons_self ..)).trans (ih fun t j hj => hf t j (List.mem_cons_of_mem _ hj))

/-! ## The counters (R100) and the end of an instruction -/

/-- The CSRs that counter k changes. -/
def tickCsr (k a : Nat) : Prop := a = 0xB00 + k ∨ 3 ≤ k ∧ (a = 0x320 + k ∨ a = CSR.mip)

theorem Hart.tick_csrs : CsrsOnly (tickCsr k) t (t.tick k) := by
  have hcount : CsrsOnly (tickCsr k) t (t.setC (0xB00 + k) (t.c (0xB00 + k) + 1)) := (CsrsOnly.refl _ t).setC (.inl rfl)
  unfold Hart.tick
  dsimp only
  split
  · rename_i hw
    exact (hcount.setC (.inr ⟨hw.2.1, .inl rfl⟩)).setC (.inr ⟨hw.2.1, .inr rfl⟩)
  · exact hcount

theorem Hart.event_csrs : CsrsOnly (· ∈ countCsrs) t (t.event n) := by
  refine CsrsOnly.foldl fun t k hk => ?_
  have hsub : ∀ k ∈ [3, 4, 5, 6, 7, 8, 9, 10], 0xB00 + k ∈ countCsrs ∧ 0x320 + k ∈ countCsrs := by decide
  split
  · refine Hart.tick_csrs.mono fun a ha => ?_
    rcases ha with rfl | ⟨-, rfl | rfl⟩
    · exact (hsub k hk).1
    · exact (hsub k hk).2
    · decide
  · exact .refl _ t

theorem Hart.retired_csrs : CsrsOnly (· = 0xB02) t t.retired := by
  unfold Hart.retired
  split
  · exact Hart.tick_csrs.mono fun a ha => ha.resolve_right fun h3 => absurd h3.1 (by decide)
  · exact .refl _ t

theorem Hart.icount_csrs : CsrsOnly (0x1000 ≤ ·) t (t.icount k) := by
  unfold Hart.icount
  dsimp only
  split
  · exact (CsrsOnly.refl _ t).setC (Nat.le_add_right ..)
  · exact .refl _ t

/-- Going past an instruction moves the pc; beside it only the words of the debug triggers and a held halt change. -/
theorem Hart.moved_eq : ∃ u held, CsrsOnly (0x1000 ≤ ·) t u ∧
    t.moved n = { u with pc := t.pc + BitVec.ofNat 64 n, haltReq := held } := by
  have hu : CsrsOnly (0x1000 ≤ ·) t ((List.range 8).foldl Hart.icount t) := CsrsOnly.foldl fun t k _ => Hart.icount_csrs
  refine ⟨_, t.haltReq || t.trigHit.isSome, hu, ?_⟩
  obtain ⟨⟨m, hm⟩, -⟩ := hu
  unfold Hart.moved
  dsimp only
  rw [hm]

/-- The CSRs that the end of an instruction changes: minstret, and the words of the debug triggers above the CSRs. -/
def pastCsr (a : Nat) : Prop := a = 0xB02 ∨ 0x1000 ≤ a

theorem Hart.past_eq : ∃ u held, CsrsOnly pastCsr t u ∧
    t.past n = { u with pc := t.pc + BitVec.ofNat 64 n, haltReq := held } := by
  obtain ⟨u, held, hu, hp⟩ := Hart.moved_eq (t := t.retired) (n := n)
  obtain ⟨⟨m, hm⟩, -⟩ := Hart.retired_csrs (t := t)
  refine ⟨u, held, (Hart.retired_csrs.mono fun _ => .inl).trans (hu.mono fun _ => .inr), ?_⟩
  rw [Hart.past, hp, hm]

theorem Hart.past_c (ha : ¬ pastCsr a) : (t.past n).c a = t.c a := by
  obtain ⟨u, held, ⟨-, hu⟩, hp⟩ := Hart.past_eq (t := t) (n := n)
  rw [hp]
  exact hu a ha

@[simp] theorem Hart.past_pc : (t.past n).pc = t.pc + BitVec.ofNat 64 n := Hart.past_moves.2
@[simp] theorem Hart.past_x : (t.past n).x = t.x := Hart.past_moves.1
@[simp] theorem Hart.past_getX : (t.past n).getX k = t.getX k := Hart.getX_of_x Hart.past_x

@[simp] theorem Hart.past_st : (t.past n).st = t.st := by
  obtain ⟨u, held, ⟨⟨m, rfl⟩, -⟩, hp⟩ := Hart.past_eq (t := t) (n := n)
  rw [hp]

@[simp] theorem Hart.past_sb : (t.past n).sb = t.sb := by
  obtain ⟨u, held, ⟨⟨m, rfl⟩, -⟩, hp⟩ := Hart.past_eq (t := t) (n := n)
  rw [hp]

@[simp] theorem Hart.past_resv : (t.past n).resv = t.resv := by
  obtain ⟨u, held, ⟨⟨m, rfl⟩, -⟩, hp⟩ := Hart.past_eq (t := t) (n := n)
  rw [hp]

@[simp] theorem Hart.past_tdc : (t.past n).tdc = t.tdc := by
  obtain ⟨u, held, ⟨⟨m, rfl⟩, -⟩, hp⟩ := Hart.past_eq (t := t) (n := n)
  rw [hp]

@[simp] theorem Hart.setX_csr : (t.setX n v).csr = t.csr := by
  unfold Hart.setX
  split <;> rfl

@[simp] theorem Hart.setX_c : (t.setX n v).c a = t.c a := by rw [Hart.c, Hart.setX_csr, Hart.c]

@[simp] theorem Hart.setX_tdc : (t.setX n v).tdc = t.tdc := by
  unfold Hart.setX
  split <;> rfl

@[simp] theorem Hart.setX_resv : (t.setX n v).resv = t.resv := by
  unfold Hart.setX
  split <;> rfl

/-! ## Passing and raising -/

@[simp] theorem pass_hart : (pass i s).hart i.hart = (s.hart i.hart).past i.len := State.onHart_hart

@[simp] theorem raise_hart : (raise i n v s).hart i.hart =
    { s.hart i.hart with trap := some { cause := n, tval := v, epc := i.pc } } := State.onHart_hart

@[simp] theorem raiseEnc_hart : (raiseEnc i n s).hart i.hart =
    { s.hart i.hart with trap := some { cause := n, tval := BitVec.ofNat 64 i.enc.toNat, epc := i.pc } } := raise_hart

/-- A hart whose pc is that of the instruction has moved past it. -/
theorem moved_of_pass (hpc : (s.hart i.hart).pc = i.pc) : Moved i (pass i s) := by
  rw [Moved, pass_hart, Hart.past_pc, hpc]

end

/-! # CSR accesses -/

section
variable {s : State} {h a k n : Nat} {t u : Hart} {v : Word}

/-! ## Writes -/

theorem counterHold_pc : (counterHold t u s).pc = u.pc := by
  refine foldl_keeps Hart.pc (fun t k => ?_) _ _
  split <;> rfl

theorem indirectWrite_pc : (indirectWrite t k n v).pc = t.pc := by
  unfold indirectWrite
  split
  · split <;> rfl
  · split <;> rfl

theorem trigWrite_pc : (trigWrite t k v).pc = t.pc := by
  unfold trigWrite
  dsimp only
  split_ifs <;> rfl

/-- The pc of hart h is p. -/
def PcAt (h : Nat) (p : Word) (u : State) : Prop := (u.hart h).pc = p

theorem PcAt.ite {c : Prop} [Decidable c] {p : Word} {u w : State} (hu : PcAt h p u) (hw : PcAt h p w) :
    PcAt h p (if c then u else w) := by split <;> assumption

/-- The write of a CSR leaves the pc. -/
theorem csrWrite_pc : PcAt h (s.hart h).pc (csrWrite h a v s) := by
  unfold csrWrite
  extract_lets +onlyGivenNames -merge -useContext -underBinder t
  extract_lets +onlyGivenNames -merge -useContext -underBinder c
  extract_lets +onlyGivenNames -merge -useContext -underBinder put
  have hput : ∀ u : Hart, u.pc = t.pc → PcAt h t.pc (put u) := fun u hu =>
    (congrArg Hart.pc (smapGet_set_self ..)).trans hu
  have hs : PcAt h t.pc s := rfl
  clear_value put c
  split
  case h_8 | h_34 => exact hs
  case h_19 | h_20 | h_21 =>
    split
    · exact hput _ rfl
    · exact hs
  case h_22 | h_23 | h_24 => exact hput _ indirectWrite_pc
  case h_32 => exact hput _ trigWrite_pc
  case h_33 => exact hput _ (by split <;> rfl)
  case h_36 | h_37 | h_38 => exact .ite (hput _ rfl) hs
  case h_39 => exact .ite (hput _ counterHold_pc) (.ite hs (.ite (.ite hs (hput _ rfl)) (hput _ rfl)))
  all_goals exact hput _ rfl

/-! ## The instruction -/

theorem csrAlias_eq_self (ha : 0x200 ≤ a) : csrAlias t a = a := by
  have hsup : ∀ b ∈ [0x100, 0x104, 0x105, 0x140, 0x141, 0x142, 0x143, 0x144, 0x14D, 0x150, 0x151, 0x15C, 0x180], b < 0x200 := by
    decide
  refine if_neg fun h => absurd (hsup a (List.contains_iff_mem.mp h.2)) (Nat.not_lt.mpr ha)

section
variable {i : Issue} {op rd : Nat} {wr : Bool}

/-- The state in which a CSR instruction has written its CSR, or read it alone, and not yet rd. -/
def csrWritten (i : Issue) (a op : Nat) (v : Word) (wr : Bool) (s : State) : State :=
  if wr then csrWrite i.hart a (csrCombine op (csrBase i.hart a s) v) s.bump else s.bump

theorem csrWritten_pc : PcAt i.hart (s.hart i.hart).pc (csrWritten i a op v wr s) := .ite csrWrite_pc rfl

/-- The address is none of the indirect registers, which exist only as their select register says. -/
def Direct (t : Hart) (a : Nat) : Prop := csrAlias t a ≠ 0x351 ∧ csrAlias t a ≠ 0x151 ∧ csrAlias t a ≠ 0x251

theorem csrDo_performs (hf : csrFault (s.hart i.hart) a wr = none) (hd : Direct (s.hart i.hart) a) :
    csrDo i a op v wr rd s =
      pass i ((csrWritten i a op v wr s).onHart i.hart fun t => t.setX rd (csrRead i.hart a s)) := by
  obtain ⟨h3, h1, h2⟩ := hd
  simp only [csrDo, hf, h3, h1, h2, or_self, false_and, if_false]
  rfl

theorem csrDo_effect (hs : canSettle i s = true) (hf : csrFault (s.hart i.hart) a wr = none)
    (hd : Direct (s.hart i.hart) a) :
    (rd < 32 → ((csrDo i a op v wr rd s).hart i.hart).getX rd = if rd = 0 then 0 else csrRead i.hart a s) ∧
    Moved i (csrDo i a op v wr rd s) ∧
    (∀ b, ¬ pastCsr b →
      ((csrDo i a op v wr rd s).hart i.hart).c b = ((csrWritten i a op v wr s).hart i.hart).c b) ∧
    ((csrDo i a op v wr rd s).hart i.hart).tdc = ((csrWritten i a op v wr s).hart i.hart).tdc := by
  rw [csrDo_performs hf hd]
  refine ⟨fun hrd => ?_, moved_of_pass ?_, fun b hb => ?_, ?_⟩
  · rw [pass_hart, Hart.past_getX, State.onHart_hart, Hart.getX_setX hrd]
  · rw [State.onHart_hart, Hart.setX_pc]
    exact csrWritten_pc.trans (canIssue_pc (canSettle_issue hs))
  · rw [pass_hart, Hart.past_c hb, State.onHart_hart, Hart.setX_c]
  · rw [pass_hart, Hart.past_tdc, State.onHart_hart, Hart.setX_tdc]

theorem csrDo_fault {c : Nat} (hf : csrFault (s.hart i.hart) a wr = some c) :
    csrDo i a op v wr rd s = raiseEnc i c s := by simp only [csrDo, hf]

theorem csrDo_raises {c : Nat} (hf : csrFault (s.hart i.hart) a wr = some c) :
    Raised i c (BitVec.ofNat 64 i.enc.toNat) (csrDo i a op v wr rd s) ∧
      ((csrDo i a op v wr rd s).hart i.hart).csr = (s.hart i.hart).csr := by
  rw [csrDo_fault hf, Raised, raiseEnc_hart]
  exact ⟨rfl, rfl⟩

theorem exec_csrAccess (hs : canSettle i s = true) (ha : a ≠ CSR.mzdcfg) :
    exec (.csrAccess i a op v wr rd) s = .next (csrDo i a op v wr rd s) := by
  show execCsrAccess .. = _
  simp only [execCsrAccess, ha, hs, false_and, if_false, if_true]

end

end

/-! # The machine identification registers (R97) -/

section
variable {s : State} {i : Issue} {a h op rd : Nat} {v : Word}

/-- A read of a CSR of M-mode that no other mode and no state enable governs. -/
theorem csrRead_machine (hs : canSettle i s = true) (hp : (s.hart i.hart).priv = 3) (ha : a ∈ [0xF11, 0xF12, 0xF13, 0xF14])
    {x : Word} (hx : csrRead i.hart a s = x) :
    Gives (.csrAccess i a op v false rd) s fun t => (rd ≠ 0 → rd < 32 → (t.hart i.hart).getX rd = x) ∧ Moved i t := by
  have hfix : ∀ a ∈ [0xF11, 0xF12, 0xF13, 0xF14], (a ≠ CSR.mzdcfg ∧ 0x200 ≤ a) ∧
      csrExists a = true ∧ vendorCsr a = false ∧ csrMode a = 3 ∧ a ≠ 0x351 ∧ a ≠ 0x151 ∧ a ≠ 0x251 := by
    decide
  obtain ⟨⟨hne, hhigh⟩, hex, hven, hmode, hdirect⟩ := hfix a ha
  have hf : csrFault (s.hart i.hart) a false = none := by
    simp [csrFault, hex, hven, hmode, hp]
  have hd : Direct (s.hart i.hart) a := by
    rw [Direct, csrAlias_eq_self hhigh]
    exact hdirect
  obtain ⟨hrd, hmoved, -, -⟩ := csrDo_effect (op := op) (v := v) (rd := rd) hs hf hd
  exact ⟨_, exec_csrAccess hs hne, fun h0 hlt => (hrd hlt).trans ((if_neg h0).trans hx), hmoved⟩

theorem csrRead_mvendorid : csrRead h 0xF11 s = 0 := by
  simp only [csrRead, csrAlias_eq_self (a := 0xF11) (by decide)]

theorem csrRead_marchid : csrRead h 0xF12 s = 0x8000000000000216#64 := by
  simp only [csrRead, csrAlias_eq_self (a := 0xF12) (by decide)]

theorem csrRead_mimpid : csrRead h 0xF13 s = BitVec.ofNat 64 (Config.dieRev (hartDie h s)).toNat := by
  simp only [csrRead, csrAlias_eq_self (a := 0xF13) (by decide)]

theorem csrRead_mhartid : csrRead h 0xF14 s = BitVec.ofNat 64 h := by
  simp only [csrRead, csrAlias_eq_self (a := 0xF14) (by decide)]

end

/-- Settles O45: each of the four is a read that M-mode may make, and csrRead gives its value. -/
theorem machineIdRegisters : Obligations.MachineIdRegisters :=
  ⟨fun _ _ _ _ _ hs hp => csrRead_machine hs hp (by decide) csrRead_mvendorid,
    fun _ _ _ _ _ hs hp => csrRead_machine hs hp (by decide) csrRead_marchid,
    fun _ _ _ _ _ hs hp => csrRead_machine hs hp (by decide) csrRead_mimpid,
    fun _ _ _ _ _ hs hp => csrRead_machine hs hp (by decide) csrRead_mhartid⟩

end Sys2Proof.Machine

/-! # Loads of a hart -/

namespace Sys2Proof.Machine

section
variable {s : State} {i : Issue} {rd c lm h n : Nat} {tv v : Word} {sg st : Bool} {a : MemAcc} {l : PLoad} {t : Hart}

@[simp] theorem State.setHart_hart : (s.setHart h t).hart h = t := smapGet_set_self ..

theorem Hart.setX_x : (t.setX n v).x = if n % 32 = 0 then t.x else smapSet (fun _ => 0) t.x (n % 32) v := by
  unfold Hart.setX
  split <;> rfl

theorem extend_zero : extend sg n 0 = 0 := by simp [extend]

/-- The hart whose only pending load l goes on while the pc moves past its instruction. -/
def Hart.joined (t : Hart) (len : Nat) (l : PLoad) : Hart := { t.moved len with loads := [l], nextId := t.nextId + 1 }

@[simp] theorem Hart.joined_loads : (t.joined n l).loads = [l] := rfl

@[simp] theorem Hart.joined_pc : (t.joined n l).pc = t.pc + BitVec.ofNat 64 n := by
  obtain ⟨u, held, -, hp⟩ := Hart.moved_eq (t := t) (n := n)
  rw [Hart.joined, hp]

@[simp] theorem Hart.joined_x : (t.joined n l).x = t.x := by
  obtain ⟨u, held, ⟨⟨m, rfl⟩, -⟩, hp⟩ := Hart.moved_eq (t := t) (n := n)
  rw [Hart.joined, hp]

theorem loadStart_joins {dst : LoadDst} {accs : List LAcc} {after : Option (Nat × Word)} (hl : (s.hart i.hart).loads = []) :
    ∃ l : PLoad, l.accs = accs ∧ l.after = after ∧ l.dst = dst ∧ l.desc = none ∧ l.amo = none ∧
      loadStart i dst accs after st s = loadsPump i.hart (s.setHart i.hart ((s.hart i.hart).joined i.len l)) := by
  refine ⟨{ id := (s.hart i.hart).nextId, pc := i.pc, dst := dst, accs := accs, part := txPart i.hart s,
             v := (s.hart i.hart).virt, w := (s.hart i.hart).w, cls := i.cls, stream := st, after := after },
    rfl, rfl, rfl, rfl, rfl, ?_⟩
  rw [loadStart, hl]
  rfl

theorem loadsTry_none (hl : (s.hart h).loads = []) : loadsTry h s = s := by simp [loadsTry, hl]

theorem loadRetire_none (hl : (s.hart h).loads = []) : loadRetire h s = s := by simp [loadRetire, hl]

/-- A load pending alone has two attempts to perform. -/
theorem loadsPump_two (hl : (s.hart h).loads = [l]) :
    loadsPump h s = loadRetire h (loadsTry h (loadRetire h (loadsTry h s))) := by
  rw [loadsPump, hl]
  rfl

/-- A load that its first attempt retires needs no second one. -/
theorem loadsPump_once (hl : (s.hart h).loads = [l]) (hr : ((loadRetire h (loadsTry h s)).hart h).loads = []) :
    loadsPump h s = loadRetire h (loadsTry h s) := by
  rw [loadsPump_two hl, loadsTry_none hr, loadRetire_none hr]

/-- A load whose check fails at once has no access that could give its destination a value, and writes 0 to it. -/
theorem loadRetire_fault (hl : (s.hart h).loads = [l]) (hacc : l.accs = []) (hafter : l.after = some (c, tv))
    (hdesc : l.desc = none) (hdst : l.dst = .x rd sg) :
    (loadRetire h s).hart h = { (s.hart h).setX rd 0 with loads := [], trap := some ⟨c, tv, l.pc⟩ } := by
  simp [loadRetire, hl, hacc, hafter, hdesc, hdst, loadBad, loadWrite, extend_zero]

theorem loadStart_fault_x (hl : (s.hart i.hart).loads = []) :
    ((loadStart i (.x rd sg) [] (some (c, tv)) st s).hart i.hart).x = ((s.hart i.hart).setX rd 0).x := by
  obtain ⟨l, hacc, hafter, hdst, hdesc, hamo, hstart⟩ := loadStart_joins (i := i) (st := st) (dst := .x rd sg) (accs := [])
    (after := some (c, tv)) hl
  set u := s.setHart i.hart ((s.hart i.hart).joined i.len l) with hu
  have hload : (u.hart i.hart).loads = [l] := by rw [hu, State.setHart_hart, Hart.joined_loads]
  have htry : loadsTry i.hart u = u := by simp [loadsTry, hload, hamo, hacc]
  have hret := loadRetire_fault hload hacc hafter hdesc hdst
  rw [hstart, loadsPump_once hload (by rw [htry, hret]), htry, hret]
  show ((u.hart i.hart).setX rd 0).x = _
  rw [Hart.setX_x, Hart.setX_x, hu, State.setHart_hart, Hart.joined_x]

theorem exec_load {dst : LoadDst} {as : List MemAcc} {ce : Option CacheErr} :
    exec (.load i dst as lm ce) s = execLoad i dst as lm ce s := rfl

theorem load_fault_x (hi : canIssue i s = true) (hl : (s.hart i.hart).loads = []) (hb : (s.hart i.hart).bare = false)
    (hx : a.x = .fault c tv) :
    ∃ t, exec (.load i (.x rd sg) [a] lm none) s = .next t ∧ (t.hart i.hart).x = ((s.hart i.hart).setX rd 0).x := by
  have hcheck : accsCheck i.hart .load [a] s = ([], some (c, faultAt i.hart .load a c s), s) := by
    simp [accsCheck, accCheck, xlated, hb, hx]
  refine ⟨_, ?_, loadStart_fault_x (sg := sg) (c := c) (tv := faultAt i.hart .load a c s) (st := decide (4 ≤ lm)) hl⟩
  rw [exec_load]
  simp only [execLoad, hi, hcheck, Bool.not_true, Bool.false_eq_true, if_false]

end

/-! # A counterexample to O5 -/

/-- Hart 0 in RUN with translation on and 1 in x5. -/
def faultHart : Hart := { (({} : Hart).setC 0x180 (1#64 <<< 63)).setX 5 1 with priv := 1, st := .run }

/-- `faultHart` on a die that is ON. -/
def faultState : State := { State.reset.setF F.PWR_DIE_STATE 0 2 with harts := [(0, faultHart)] }

theorem faultState_canIssue : canIssue { hart := 0, pc := 0 } faultState = true := by decide +kernel

theorem faultHart_bare : faultHart.bare = false := by decide +kernel

/-- Refutes O5 by its third clause: a load whose translation faults retires with no access, and writes 0, the value of no
access, to its destination before it raises the exception. Hart 0 with 1 in x5 loads x5 from an address whose translation
faults, and x5 becomes 0. -/
theorem not_loadsAndStores : ¬ Obligations.LoadsAndStores := by
  rintro ⟨-, -, hfault, -⟩
  obtain ⟨t, ht, -, hkept⟩ := hfault { hart := 0, pc := 0 } 5 13 1 0 false { va := 0, size := 8, x := .fault 13 0 } faultState
    faultState_canIssue rfl faultHart_bare rfl
  obtain ⟨u, hu, hx⟩ := load_fault_x (a := { va := 0, size := 8, x := .fault 13 0 }) (rd := 5) (sg := false) (lm := 1)
    faultState_canIssue rfl faultHart_bare rfl
  cases hu.symm.trans ht
  have hzero : faultHart.x = (faultHart.setX 5 0).x := hkept.symm.trans hx
  exact absurd (congrArg (smapGet (fun _ => (0 : Word)) · 5) hzero) (by decide +kernel)

/-! # A counterexample to O49 -/

/-- Hart 0 in RUN in M-mode on a die that is ON. -/
def readerState : State := { State.reset.setF F.PWR_DIE_STATE 0 2 with harts := [(0, { ({} : Hart) with st := .run })] }

theorem readerState_canSettle : canSettle { hart := 0, pc := 0 } readerState = true := by decide +kernel

/-- Refutes O49 by its first clause, which holds for a register number of the encoding and is stated for every number: the
model takes the number of a register modulo 32, so the read of marchid into register 33, which no encoding names, writes x1,
and 1 is not 33. -/
theorem not_instructionFrames : ¬ Obligations.InstructionFrames := by
  rintro ⟨hcsr, -⟩
  obtain ⟨t, ht, -, hkept, -⟩ := hcsr { hart := 0, pc := 0 } 0xF12 1 0 false 33 readerState
  have hf : csrFault (readerState.hart 0) 0xF12 false = none := by decide +kernel
  have hd : Direct (readerState.hart 0) 0xF12 := by
    rw [Direct, csrAlias_eq_self (by decide)]
    decide
  rw [exec_csrAccess readerState_canSettle (by decide), csrDo_performs hf hd] at ht
  cases ht
  have hx := hkept 1 (by decide)
  rw [pass_hart, Hart.past_getX, State.onHart_hart, csrRead_marchid] at hx
  change ((readerState.hart 0).setX 33 0x8000000000000216#64).getX 1 = _ at hx
  exact absurd hx (by decide +kernel)

end Sys2Proof.Machine

/-! # Traps and returns -/

namespace Sys2Proof.Machine

section
variable {s : State} {h k a c n lvl cause : Nat} {i : Issue} {t u : Hart} {v tval epc : Word} {isInt : Bool}

/-! ## Entering M-mode -/

theorem bits_fset_self {f : Fld} {x : Nat} (hf : f.hi < 64) : bits (fset f v x) f.hi f.lo = x % 2 ^ (f.hi + 1 - f.lo) :=
  fget_fset f v x hf

theorem bits_fset_ne {f : Fld} {x hi lo : Nat} (hhi : hi < 64) (hne : hi < f.lo ∨ f.hi < lo) :
    bits (fset f v x) hi lo = bits v hi lo := fget_fset_ne f ⟨.PHE_TB, hi, lo⟩ v x hhi hne

theorem bits_mod : bits v a k % 2 ^ (a + 1 - k) = bits v a k := Nat.mod_mod ..

/-- What a trap into M-mode saves, and where it goes. -/
theorem enterM_saves : (enterM t isInt cause tval epc).c 0x341 = epc ∧
    (enterM t isInt cause tval epc).c 0x342 = BitVec.ofNat 64 (cause + if isInt then 2 ^ 63 else 0) ∧
    (enterM t isInt cause tval epc).c 0x343 = tval ∧
    (enterM t isInt cause tval epc).pc =
      (t.c 0x305 &&& ~~~ 3#64) + (if isInt = true ∧ (t.c 0x305).getLsbD 0 then BitVec.ofNat 64 (4 * cause) else 0) := by
  refine ⟨?_, ?_, ?_, ?_⟩
  · show Hart.c (Hart.setC _ _ _) _ = _
    simp [Hart.c_setC]
  · show Hart.c (Hart.setC _ _ _) _ = _
    simp [Hart.c_setC]
  · show Hart.c (Hart.setC _ _ _) _ = _
    simp [Hart.c_setC]
  · simp only [enterM, Hart.c_setC, CSR.mstatus, reduceIte, Nat.reduceEqDiff]
    split
    · rfl
    · exact (BitVec.add_zero _).symm

/-- The interrupt enable and the privilege move down the stack of mstatus. -/
theorem enterM_mstatus : bits ((enterM t isInt cause tval epc).c CSR.mstatus) 3 3 = 0 ∧
    bits ((enterM t isInt cause tval epc).c CSR.mstatus) 7 7 = bits (t.c CSR.mstatus) 3 3 ∧
    bits ((enterM t isInt cause tval epc).c CSR.mstatus) 12 11 = t.priv % 4 := by
  have hms : (enterM t isInt cause tval epc).c CSR.mstatus = fset ⟨.PHE_TB, 39, 39⟩ (fset ⟨.PHE_TB, 12, 11⟩
      (fset ⟨.PHE_TB, 3, 3⟩ (fset ⟨.PHE_TB, 7, 7⟩ (t.c CSR.mstatus) (bits (t.c CSR.mstatus) 3 3)) 0) t.priv)
      (if t.virt then 1 else 0) := by
    show Hart.c (Hart.setC _ _ _) _ = _
    simp [Hart.c_setC, CSR.mstatus]
  rw [hms]
  refine ⟨?_, ?_, ?_⟩
  · rw [bits_fset_ne (by decide) (by decide), bits_fset_ne (by decide) (by decide)]
    exact bits_fset_self (f := ⟨.PHE_TB, 3, 3⟩) (by decide)
  · rw [bits_fset_ne (by decide) (by decide), bits_fset_ne (by decide) (by decide), bits_fset_ne (by decide) (by decide)]
    exact (bits_fset_self (f := ⟨.PHE_TB, 7, 7⟩) (by decide)).trans bits_mod
  · rw [bits_fset_ne (by decide) (by decide)]
    exact bits_fset_self (f := ⟨.PHE_TB, 12, 11⟩) (by decide)

/-- The hart that a trap enters with: an interrupt of cause 16 may have been counted. -/
theorem trapTake_hart : ∃ u, CsrsOnly (· ∈ countCsrs) (s.hart h) u ∧ (trapTake h lvl isInt cause tval epc s).hart h =
    { enterAt lvl isInt cause tval epc u with trap := none, stall := .none, st := .run, resv := u.resv } := by
  unfold trapTake
  refine ⟨if isInt ∧ cause = 16 then (s.hart h).event 0x0A else s.hart h, ?_, ?_⟩
  · split
    · exact Hart.event_csrs
    · exact .refl _ _
  · rw [State.onHart_hart, traceEmit_hart]

/-- A trap into M-mode. -/
theorem trapTake_machine {w : Hart} (hw : (trapTake h 3 isInt cause tval epc s).hart h = w) :
    (w.priv = 3 ∧ w.virt = false ∧ w.trap = none ∧ w.st = .run) ∧
    (w.c 0x341 = epc ∧ w.c 0x342 = BitVec.ofNat 64 (cause + if isInt then 2 ^ 63 else 0) ∧ w.c 0x343 = tval ∧
      w.pc = ((s.hart h).c 0x305 &&& ~~~ 3#64) +
        (if isInt = true ∧ ((s.hart h).c 0x305).getLsbD 0 then BitVec.ofNat 64 (4 * cause) else 0)) ∧
    bits (w.c CSR.mstatus) 3 3 = 0 ∧ bits (w.c CSR.mstatus) 7 7 = bits ((s.hart h).c CSR.mstatus) 3 3 ∧
    bits (w.c CSR.mstatus) 12 11 = (s.hart h).priv % 4 := by
  obtain ⟨u, ⟨⟨m, hu⟩, hc⟩, ht⟩ := trapTake_hart (h := h) (lvl := 3) (isInt := isInt) (cause := cause) (tval := tval)
    (epc := epc) (s := s)
  have hpriv : u.priv = (s.hart h).priv := by rw [hu]
  have hat : enterAt 3 isInt cause tval epc u = enterM u isInt cause tval epc := if_pos rfl
  have hkept : ∀ a ∈ [0x300, 0x305], a ∉ countCsrs := by decide
  have h305 := hc 0x305 (hkept _ (by decide))
  have h300 := hc CSR.mstatus (hkept _ (by decide))
  rw [hw, hat] at ht
  have hfields : w.priv = 3 ∧ w.virt = false ∧ w.trap = none ∧ w.st = .run := by
    rw [ht]
    exact ⟨rfl, rfl, rfl, rfl⟩
  have hcsr (a : Nat) : w.c a = (enterM u isInt cause tval epc).c a := (congrArg (Hart.c · a) ht).trans rfl
  have hpc : w.pc = (enterM u isInt cause tval epc).pc := (congrArg Hart.pc ht).trans rfl
  rw [hcsr, hcsr, hcsr, hcsr, hpc, ← h305, ← h300, ← hpriv]
  exact ⟨hfields, enterM_saves, enterM_mstatus⟩

/-- An exception that M-mode takes. -/
theorem trapEntry_exception {x : Trap} (hs : canTrap h s = true) (hx : (s.hart h).trap = some x)
    (hm : excTarget (s.hart h) x.cause = 3) :
    exec (.trapEntry h) s = .next (trapTake h 3 false x.cause x.tval x.epc s) := by
  show execTrapEntry h s = _
  simp only [execTrapEntry, hs, hx, hm, Bool.not_true, Bool.false_eq_true, if_false]

/-- An interrupt that M-mode takes. -/
theorem trapEntry_interrupt (hs : canTrap h s = true) (hx : (s.hart h).trap = none) (hsec : secureIrq h s = false)
    (hirq : irqTaken h s = some (c, 3)) : exec (.trapEntry h) s = .next (trapTake h 3 true c 0 (s.hart h).pc s) := by
  show execTrapEntry h s = _
  simp only [execTrapEntry, hs, hx, hsec, hirq, Bool.not_true, Bool.false_and, Bool.false_eq_true, if_false]

/-! ## Returning -/

theorem returnM_state (hu : CsrsOnly (· = 0xB02) t u) :
    ((returnM u).pc = t.c 0x341 ∧ (returnM u).priv = bits (t.c CSR.mstatus) 12 11 ∧ (returnM u).w = t.w) ∧
    (bits ((returnM u).c CSR.mstatus) 3 3 = bits (t.c CSR.mstatus) 7 7 ∧ bits ((returnM u).c CSR.mstatus) 12 11 = 0) ∧
    (returnM u).tdc = t.tdc ∧ (returnM u).pend = t.pend := by
  obtain ⟨⟨m, hm⟩, hc⟩ := hu
  have hms : (returnM u).c CSR.mstatus = _ := smapGet_set_self ..
  refine ⟨⟨hc 0x341 (by decide), congrArg (bits · 12 11) (hc CSR.mstatus (by decide)), (congrArg Hart.w hm).trans rfl⟩, ?_,
    (congrArg Hart.tdc hm).trans rfl, (congrArg Hart.pend hm).trans rfl⟩
  rw [hms, ← hc CSR.mstatus (by decide)]
  have hlow (w : Word) : bits (fset ⟨.PHE_TB, 39, 39⟩ (fset ⟨.PHE_TB, 12, 11⟩ (fset ⟨.PHE_TB, 7, 7⟩
      (fset ⟨.PHE_TB, 3, 3⟩ w (bits w 7 7)) 1) 0) 0) 3 3 = bits w 7 7 := by
    rw [bits_fset_ne (by decide) (by decide), bits_fset_ne (by decide) (by decide), bits_fset_ne (by decide) (by decide)]
    exact (bits_fset_self (f := ⟨.PHE_TB, 3, 3⟩) (by decide)).trans bits_mod
  have hmpp (w : Word) : bits (fset ⟨.PHE_TB, 39, 39⟩ (fset ⟨.PHE_TB, 12, 11⟩ w 0) 0) 12 11 = 0 := by
    rw [bits_fset_ne (by decide) (by decide)]
    exact bits_fset_self (f := ⟨.PHE_TB, 12, 11⟩) (by decide)
  split
  · exact ⟨hlow _, hmpp _⟩
  · exact ⟨(bits_fset_ne (by decide) (by decide)).trans (hlow _), (bits_fset_ne (by decide) (by decide)).trans (hmpp _)⟩

theorem returnHS_state (hu : CsrsOnly (· = 0xB02) t u) : (returnHS u).pc = t.c 0x141 ∧
    (returnHS u).priv = bits (t.c CSR.mstatus) 8 8 ∧ (returnHS u).virt = t.cb CSR.hstatus 7 := by
  obtain ⟨-, hc⟩ := hu
  refine ⟨?_, ?_, ?_⟩
  · rw [← hc 0x141 (by decide)]
    simp only [returnHS, Hart.setCBits, Hart.c_setC, CSR.hstatus, CSR.mstatus, Nat.reduceEqDiff, if_false]
  · show bits (u.c CSR.mstatus) 8 8 = _
    rw [hc CSR.mstatus (by decide)]
  · show (u.c CSR.hstatus).getLsbD 7 = _
    rw [hc CSR.hstatus (by decide), Hart.cb]

/-! ## The instructions -/

theorem exec_mret : exec (.mret i) s = execMret i s := rfl
theorem exec_xret : exec (.xret i n) s = execXret i n s := rfl

/-- The hart returned, and the trace told. -/
def returned (h : Nat) (f : Hart → Hart) (s : State) : State :=
  traceEmit h 3 ((s.onHart h f).hart h).pc (s.onHart h f)

theorem returned_hart {f : Hart → Hart} : (returned h f s).hart h = f (s.hart h) := by
  rw [returned, traceEmit_hart, State.onHart_hart]

/-- MRET inside a world. -/
theorem mret_returns (hs : canSettle i s = true) (hp : (s.hart i.hart).priv = 3)
    (hw : (s.hart i.hart).w = false ∨ (s.hart i.hart).nextW = true) :
    exec (.mret i) s = .next (returned i.hart (returnM ·.retired) s) ∧
      exec (.xret i 3) s = .next (returned i.hart (returnM ·.retired) s) := by
  have hstay : ((s.hart i.hart).w && !(s.hart i.hart).nextW) = false := by rcases hw with e | e <;> simp [e]
  rw [exec_mret, exec_xret]
  constructor
  · simp only [execMret, hs, hp, hstay, Bool.not_true, Bool.false_eq_true, if_false, ne_eq, not_true_eq_false, returned]
  · simp only [execXret, hs, hp, hstay, Bool.not_true, Bool.false_eq_true, if_false, if_true, ne_eq, not_true_eq_false,
      returned]

theorem mret_below (hs : canSettle i s = true) (hp : (s.hart i.hart).priv ≠ 3) :
    exec (.mret i) s = .next (raiseEnc i 2 s) := by
  rw [exec_mret]
  simp only [execMret, hs, hp, Bool.not_true, Bool.false_eq_true, if_false, ne_eq, not_false_eq_true, if_true]

theorem sret_returns (hs : canSettle i s = true) (hf : sretFault i.hart s = none) :
    exec (.xret i 1) s = .next (returned i.hart (fun t => (if t.virt then returnVS else returnHS) t.retired) s) := by
  rw [exec_xret]
  simp only [execXret, hs, hf, Bool.not_true, Bool.false_eq_true, if_false, Nat.reduceEqDiff, returned]

/-! ## The switch to the Open world (R381) -/

@[simp] theorem traceGap_hart : (traceGap n s).hart h = s.hart h := by
  obtain ⟨-, parts, -⟩ := only_traceGap (ha := n) (Nat.and_self _) (.refl _ s)
  exact State.hart_of_harts (parts .harts rfl)

theorem calErr_hart : (calErr n k s).hart h = s.hart h := by
  obtain ⟨-, parts, -⟩ := only_calErr (e := n) (code := k) (Nat.and_self _) (.refl _ s)
  exact State.hart_of_harts (parts .harts rfl)

theorem worldSwitch_hart : (worldSwitch h s).hart h = { s.hart h with pend := none, tdc := [] } := by
  unfold worldSwitch
  split
  · rw [State.onHart_hart, calErr_hart]
  · rw [State.onHart_hart]

/-- Without a trigger nothing stops a hart whose world may not halt. -/
theorem haltTry_of_shut (ht : (s.hart h).trigHit = none) (he : effI (s.hart h).w s = false) : haltTry h s = s := by
  simp [haltTry, Hart.dbgStop, ht, he]

/-- A hart whose triggers are all disabled (type 15). -/
theorem trigHit_of_disabled (ht : ((List.range 8).all fun k => bits (t.c (0x1000 + k)) 63 60 == 15) = true) :
    t.trigHit = none := by
  simp only [List.all_eq_true, beq_iff_eq] at ht
  simp only [Hart.trigHit, List.findSome?_eq_none_iff, Option.map_eq_none_iff]
  intro k hk
  simp only [Hart.trig, ht k hk]

/-- The hart that the Open world goes on with. -/
def opened (s : State) (h : Nat) (t : Hart) : Hart :=
  { (({ t with pend := none, tdc := [] } : Hart).retired.setC CSR.mstatus (mstatusPut 0 (s.r .WC_SAVE_STATUS h))) with
    w := false, priv := if bits (s.r .WC_SAVE_MODE h) 1 0 = 2 then 3 else bits (s.r .WC_SAVE_MODE h) 1 0,
    virt := bit (s.r .WC_SAVE_MODE h) 2 && decide (bits (s.r .WC_SAVE_MODE h) 1 0 < 2), pc := s.r .WC_SAVE_PC h }

theorem opened_state : (opened s h t).w = false ∧ (opened s h t).pc = s.r .WC_SAVE_PC h ∧
    (opened s h t).c CSR.mstatus = mstatusPut 0 (s.r .WC_SAVE_STATUS h) ∧ (opened s h t).tdc = [] ∧
    (opened s h t).pend = none ∧
    (bits (s.r .WC_SAVE_MODE h) 1 0 ≠ 2 → (opened s h t).priv = bits (s.r .WC_SAVE_MODE h) 1 0) := by
  obtain ⟨⟨m, hm⟩, -⟩ := Hart.retired_csrs (t := { t with pend := none, tdc := [] })
  exact ⟨rfl, rfl, smapGet_set_self .., (congrArg Hart.tdc hm).trans rfl, (congrArg Hart.pend hm).trans rfl,
    fun h2 => if_neg h2⟩

theorem opened_trigHit (ht : ((List.range 8).all fun k => bits (t.c (0x1000 + k)) 63 60 == 15) = true) :
    (opened s h t).trigHit = none := by
  refine trigHit_of_disabled ((List.all_eq_true.mpr fun k hk => ?_))
  have hc : (opened s h t).c (0x1000 + k) = t.c (0x1000 + k) := by
    refine Hart.c_setC.trans ((if_neg (by simp only [CSR.mstatus]; omega)).trans ?_)
    exact Hart.retired_csrs.2 _ (by omega)
  rw [hc]
  exact List.all_eq_true.mp ht k hk

theorem mretSwitch_hart (ht : ((List.range 8).all fun k => bits ((s.hart h).c (0x1000 + k)) 63 60 == 15) = true)
    (he : effI false s = false) : (mretSwitch h s).hart h = opened s h (s.hart h) := by
  unfold mretSwitch
  extract_lets m u
  have hu : (traceGap h u).hart h = opened s h (s.hart h) := by
    rw [traceGap_hart, State.onHart_hart, worldSwitch_hart]
    rfl
  have honly : Only 0x38000000000C04 s (traceGap h u) := by
    refine only_traceGap ?_ (only_State_onHart ?_ (only_worldSwitch ?_ (.refl _ s))) <;> rfl
  have hshut : effI ((traceGap h u).hart h).w (traceGap h u) = false := by
    rw [hu]
    exact (congrArg (fun w => fget F.WC_DBG_OI w != 0) (honly.2.2 _ (by decide) 0)).trans he
  rw [haltTry_of_shut (by rw [hu]; exact opened_trigHit ht) hshut, hu]

theorem mret_opens (hs : canSettle i s = true) (hp : (s.hart i.hart).priv = 3) (hw : (s.hart i.hart).w = true)
    (hn : (s.hart i.hart).nextW = false) (hsb : (s.hart i.hart).sb = []) (he : effI false s = false)
    (ht : ((List.range 8).all fun k => bits ((s.hart i.hart).c (0x1000 + k)) 63 60 == 15) = true) :
    ∃ t, exec (.mret i) s = .next t ∧ t.hart i.hart = opened s i.hart (s.hart i.hart) := by
  have honly : Only 0x800 s (traceEmit i.hart 3 (s.r .WC_SAVE_PC i.hart) s) :=
    only_traceEmit (Nat.and_self _) (.refl _ s)
  have hr (g : Reg) (hg : (0x800).testBit g.mark = false) := honly.2.2 g hg
  refine ⟨mretSwitch i.hart (traceEmit i.hart 3 (s.r .WC_SAVE_PC i.hart) s), ?_, ?_⟩
  · rw [exec_mret]
    simp [execMret, hs, hp, hw, hn, hsb]
  · rw [mretSwitch_hart (by rwa [traceEmit_hart]) ?_, traceEmit_hart]
    · rw [opened, opened, hr _ (by decide), hr _ (by decide), hr _ (by decide)]
    · exact (congrArg (fun w => fget F.WC_DBG_OI w != 0) (hr _ (by decide) 0)).trans he

/-! ## CSRs with a rule of their own -/

theorem exec_mzdcfgWrite (hd : canDrained i s = true) :
    exec (.mzdcfgWrite i v n) s = .next (csrDo i CSR.mzdcfg 0 v true n s) := by
  show execMzdcfgWrite i v n s = _
  simp only [execMzdcfgWrite, hd, if_true]

theorem exec_szdtdbaseWrite (hs : canSettle i s = true) :
    exec (.szdtdbaseWrite i v n) s = .next (csrDo i CSR.szdtdbase 0 v true n s) := by
  show execSzdtdbaseWrite i v n s = _
  simp only [execSzdtdbaseWrite, hs, if_true]

/-- The CSRs written here lie above those that a virtual mode replaces, and are not indirect. -/
theorem direct_written (ha : a ∈ [0x340, CSR.mzdcfg, CSR.szdtdbase]) : Direct t a := by
  have hfix : ∀ a ∈ [0x340, CSR.mzdcfg, CSR.szdtdbase], 0x200 ≤ a ∧ a ≠ 0x351 ∧ a ≠ 0x151 ∧ a ≠ 0x251 := by decide
  rw [Direct, csrAlias_eq_self (hfix a ha).1]
  exact (hfix a ha).2

theorem notPast_written (ha : a ∈ [0x340, CSR.mzdcfg, CSR.szdtdbase]) : ¬ pastCsr a := by
  have hfix : ∀ a ∈ [0x340, CSR.mzdcfg, CSR.szdtdbase], ¬ (a = 0xB02 ∨ 0x1000 ≤ a) := by decide
  exact hfix a ha

/-- M-mode may write mscratch and mzdcfg. -/
theorem csrFault_machine (hp : t.priv = 3) (ha : a ∈ [0x340, CSR.mzdcfg]) : csrFault t a true = none := by
  have hfix : ∀ a ∈ [0x340, CSR.mzdcfg], csrExists a = true ∧ csrReadOnly a = false ∧ csrMode a = 3 ∧ a ≠ 0x7C0 := by decide
  obtain ⟨hex, hro, hmode, hne⟩ := hfix a ha
  simp [csrFault, hex, hro, hmode, hne, hp]

theorem csrFault_mzdcfg (hp : t.priv < 3) : csrFault t CSR.mzdcfg true = some 2 := by
  have hfix : csrExists CSR.mzdcfg = true ∧ csrReadOnly CSR.mzdcfg = false ∧ vendorCsr CSR.mzdcfg = true ∧
      csrMode CSR.mzdcfg = 3 := by decide
  simp [csrFault, hfix, hp]

theorem csrFault_szdtdbase (hp : t.priv ≠ 0) (hv : t.virt = false) : csrFault t CSR.szdtdbase true = none := by
  have hfix : csrExists CSR.szdtdbase = true ∧ csrReadOnly CSR.szdtdbase = false ∧ vendorCsr CSR.szdtdbase = true ∧
      csrMode CSR.szdtdbase = 1 := by decide
  simp [csrFault, hfix, hp, hv]

/-- mscratch holds what is written. -/
theorem csrWrite_mscratch : ((csrWrite h 0x340 v s).hart h).c 0x340 = v := by
  simp only [csrWrite, csrAlias_eq_self (a := 0x340) (by decide)]
  have hmask : csrMask 0x340 = BitVec.allOnes 64 := by decide
  rw [if_neg (by decide), if_neg (by decide), if_neg (by decide), State.setHart_hart, Hart.setCMask, Hart.c_setC, if_pos rfl,
    hmask, BitVec.not_allOnes, BitVec.and_zero, BitVec.zero_or, BitVec.and_allOnes, csrLegal, if_neg (by decide)]

theorem csrRead_mscratch : csrRead h 0x340 s = (s.hart h).c 0x340 := by
  simp [csrRead, csrAlias_eq_self (a := 0x340)]

theorem prefetchDrop_hart : (prefetchDrop n s).hart h = s.hart h := rfl

theorem csrWrite_mzdcfg : ((csrWrite h CSR.mzdcfg v s).hart h).c CSR.mzdcfg = v &&& 0xF#64 := by
  simp only [csrWrite, CSR.mzdcfg, csrAlias_eq_self (a := 0x7C1) (by decide)]
  rw [prefetchDrop_hart, State.setHart_hart]
  exact smapGet_set_self ..

theorem csrWrite_szdtdbase : ((csrWrite h CSR.szdtdbase v s).hart h).c CSR.szdtdbase = v &&& ~~~ 0x3FFF#64 ∧
    ((csrWrite h CSR.szdtdbase v s).hart h).tdc = [] := by
  simp only [csrWrite, CSR.szdtdbase, csrAlias_eq_self (a := 0x5C5) (by decide)]
  rw [State.setHart_hart]
  exact ⟨smapGet_set_self .., rfl⟩

end

/-- Settles O7: the traps go through trapTake, the returns through returnM and returnHS, MRET to the Open world through
mretSwitch, and the CSR instructions through csrDo. -/
theorem trapsReturnsAndCsrs : Obligations.TrapsReturnsAndCsrs := by
  refine ⟨fun h x s hs hx hm => ?_, fun h c s hs hx hsec hirq => ?_, fun i s hs hp hw => ?_,
    fun i s hs hp hw hn hsb he ht => ?_, fun i s hs hp => ?_, fun i s hs hp hw => ?_, fun i s hs hv hf => ?_,
    fun i a op v wr rd s hs hrd ha hf hd => ?_, fun i op v rd s hs hp => ?_, fun i a op c v wr rd s hs ha hf => ?_,
    fun i v rd s hd hp => ?_, fun i v rd s hd hp => ?_, fun i v rd s hs hp hv => ?_⟩
  · obtain ⟨⟨hp, hv, ht, -⟩, ⟨hepc, hcause, htval, hpc⟩, h3, h7, h12⟩ := trapTake_machine (s := s) (h := h) (isInt := false)
      (cause := x.cause) (tval := x.tval) (epc := x.epc) rfl
    refine ⟨_, trapEntry_exception hs hx hm, hp, hv, hpc.trans ?_, hepc, hcause, htval, h3, h7, h12, ht⟩
    exact (congrArg _ (if_neg fun e => Bool.false_ne_true e.1)).trans (BitVec.add_zero _)
  · obtain ⟨⟨hp, -, -, hst⟩, ⟨hepc, hcause, -, hpc⟩, -⟩ := trapTake_machine (s := s) (h := h) (isInt := true)
      (cause := c) (tval := 0) (epc := (s.hart h).pc) rfl
    refine ⟨_, trapEntry_interrupt hs hx hsec hirq, hp, hepc, hcause, hst, hpc.trans ?_⟩
    simp only [true_and]
  · obtain ⟨⟨hpc, hpriv, hworld⟩, ⟨h3, h12⟩, -⟩ := returnM_state (Hart.retired_csrs (t := s.hart i.hart))
    refine ⟨_, (mret_returns hs hp hw).1, ?_⟩
    dsimp only
    rw [returned_hart]
    exact ⟨hpc, hpriv, hworld, h3, h12⟩
  · obtain ⟨t, ht, hopen⟩ := mret_opens hs hp hw hn hsb he ht
    refine ⟨t, ht, ?_⟩
    dsimp only
    rw [hopen]
    exact opened_state
  · exact ⟨_, mret_below hs hp, congrArg Hart.trap raiseEnc_hart⟩
  · obtain ⟨⟨hpc, hpriv, -⟩, -, htdc, hpend⟩ := returnM_state (Hart.retired_csrs (t := s.hart i.hart))
    refine ⟨_, (mret_returns hs hp hw).2, ?_⟩
    dsimp only
    rw [returned_hart]
    exact ⟨hpc, hpriv, htdc, hpend⟩
  · refine ⟨_, sret_returns hs hf, ?_⟩
    dsimp only
    rw [returned_hart, hv]
    exact returnHS_state Hart.retired_csrs
  · obtain ⟨hx, hmoved, -, -⟩ := csrDo_effect (op := op) (v := v) (rd := rd) hs hf hd
    exact ⟨_, exec_csrAccess hs ha, hx hrd, hmoved⟩
  · have hf : csrFault (s.hart i.hart) 0x340 true = none := csrFault_machine hp (by decide)
    obtain ⟨-, hmoved, hc, -⟩ := csrDo_effect (op := op) (v := v) (rd := rd) hs hf (direct_written (by decide))
    refine ⟨_, exec_csrAccess hs (by decide), (hc 0x340 (notPast_written (by decide))).trans (csrWrite_mscratch.trans ?_),
      hmoved⟩
    rw [csrBase, csrRead_mscratch, if_neg (by decide)]
  · exact ⟨_, exec_csrAccess hs ha, csrDo_raises hf⟩
  · have hs : canSettle i s = true := (canDrained_iff.mp hd).1
    have hf : csrFault (s.hart i.hart) CSR.mzdcfg true = none := csrFault_machine hp (by decide)
    obtain ⟨-, hmoved, hc, -⟩ := csrDo_effect (op := 0) (v := v) (rd := rd) hs hf (direct_written (by decide))
    exact ⟨_, exec_mzdcfgWrite hd, (hc CSR.mzdcfg (notPast_written (by decide))).trans csrWrite_mzdcfg, hmoved⟩
  · exact ⟨_, exec_mzdcfgWrite hd, csrDo_raises (csrFault_mzdcfg hp)⟩
  · obtain ⟨-, hmoved, hc, htdc⟩ := csrDo_effect (op := 0) (v := v) (rd := rd) hs (csrFault_szdtdbase hp hv)
      (direct_written (by decide))
    exact ⟨_, exec_szdtdbaseWrite hs, (hc CSR.szdtdbase (notPast_written (by decide))).trans csrWrite_szdtdbase.1,
      htdc.trans csrWrite_szdtdbase.2, hmoved⟩

end Sys2Proof.Machine

/-! # Atomics, fences and waits -/

namespace Sys2Proof.Machine

section
variable {s u : State} {h k n np line rd op kind id w lm : Nat} {i : Issue} {t : Hart} {v : Word} {a : MemAcc} {l : PLoad}
  {x y : LAcc} {d : Line} {m : BitVec 64} {po : BitVec 2} {f : LAcc → LAcc}

/-! ## State operations -/

@[simp] theorem Hart.retired_getX : t.retired.getX k = t.getX k := by
  obtain ⟨⟨m, hm⟩, -⟩ := Hart.retired_csrs (t := t)
  rw [hm]
  rfl

@[simp] theorem Hart.retired_pc : t.retired.pc = t.pc := by
  obtain ⟨⟨m, hm⟩, -⟩ := Hart.retired_csrs (t := t)
  rw [hm]

@[simp] theorem Hart.retired_resv : t.retired.resv = t.resv := by
  obtain ⟨⟨m, hm⟩, -⟩ := Hart.retired_csrs (t := t)
  rw [hm]

theorem State.setL2_l2L {z : L2Line} : (s.setL2 k z).l2L k = z := smapGet_set_self ..
theorem State.setL3_l2L {z : L3Line} : (s.setL3 n z).l2L k = s.l2L k := rfl
theorem State.setL1d_l2L {z : L1Set} : (s.setL1d n z).l2L k = s.l2L k := rfl

@[simp] theorem Hart.retired_loads : t.retired.loads = t.loads := by
  obtain ⟨⟨m, hm⟩, -⟩ := Hart.retired_csrs (t := t)
  rw [hm]

@[simp] theorem Hart.setX_loads : (t.setX n v).loads = t.loads := by
  unfold Hart.setX
  split <;> rfl

/-- What a write of a line's bytes leaves in the L2; the copies in the L3 and in the L1D are others. -/
theorem l2Write_l2L : ((l2Write np line k d m po s).l2L k).st = 3 ∧
    ((l2Write np line k d m po s).l2L k).data = mergeLine (s.l2L k).data d m := by
  unfold l2Write
  extract_lets l data p v1 v2
  have hv1 : (v1.l2L k).st = 3 ∧ (v1.l2L k).data = mergeLine (s.l2L k).data d m := by
    have hnew : v1.l2L k = { l with st := 3, data := data, poison := p, age := 0 } := State.setL2_l2L
    constructor
    · rw [hnew]
    · rw [hnew]
  have hv2 : (v2.l2L k).st = 3 ∧ (v2.l2L k).data = mergeLine (s.l2L k).data d m := by
    unfold v2
    split
    · split
      · rwa [State.setL3_l2L]
      · exact hv1
    · exact hv1
  clear_value v2
  split
  · split
    · dsimp only
      split
      · rwa [State.setL1d_l2L]
      · exact hv2
    · exact hv2
  · exact hv2

@[simp] theorem l2Write_hart : (l2Write np line k d m po s).hart h = s.hart h := by
  obtain ⟨-, parts, -⟩ := only_l2Write (np := np) (line := line) (k := k) (d := d) (m := m) (po := po) (Nat.and_self _)
    (.refl _ s)
  exact State.hart_of_harts (parts .harts rfl)

/-- An opened request is the newest one. -/
theorem openTx_txs {own : TxOwner} {p : Packet} :
    (openTx own p s).txs.getLast?.map (fun q => (q.op, q.addr, q.tgt, q.own)) = some (p.op, p.addr, p.dst, own) := by
  unfold openTx
  extract_lets tag q z
  have hz : z.txs.getLast?.map (fun q => (q.op, q.addr, q.tgt, q.own)) = some (p.op, p.addr, p.dst, own) := by
    simp [z, q]
  split
  · obtain ⟨-, parts, -⟩ := only_sendUp (n := q.src / 20) (isReq := true) (p := q) (Nat.and_self _) (.refl _ z)
    exact hz ▸ congrArg (fun l => l.getLast?.map fun q => (q.op, q.addr, q.tgt, q.own)) (parts .opens rfl)
  · obtain ⟨-, parts, -⟩ := only_State_sendP (p := q) (Nat.and_self _) (.refl _ z)
    exact hz ▸ congrArg (fun l => l.getLast?.map fun q => (q.op, q.addr, q.tgt, q.own)) (parts .opens rfl)

@[simp] theorem openTx_hart {own : TxOwner} {p : Packet} : (openTx own p s).hart h = s.hart h := by
  obtain ⟨-, parts, -⟩ := only_openTx (own := own) (p := p) (Nat.and_self _) (.refl _ s)
  exact State.hart_of_harts (parts .harts rfl)

/-! ## A pending load of one access -/

/-- The only pending load of hart h is l, which has the one access x. -/
def Single (s : State) (h : Nat) (l : PLoad) (x : LAcc) : Prop := (s.hart h).loads = [l] ∧ l.accs = [x]

theorem setAcc_hart (hl : Single s h l x) : (setAcc h l.id 0 f s).hart h =
    { s.hart h with loads := [{ l with accs := [f x] }] } := by
  obtain ⟨hload, hacc⟩ := hl
  rw [setAcc, State.onHart_hart, hload]
  simp [hacc]

theorem Single.setAcc (hl : Single s h l x) : Single (setAcc h l.id 0 f s) h { l with accs := [f x] } (f x) :=
  ⟨congrArg Hart.loads (setAcc_hart hl), rfl⟩

theorem loadRetire_waits (hl : Single s h l x) (hv : x.val = none) : loadRetire h s = s := by
  obtain ⟨hload, hacc⟩ := hl
  simp [loadRetire, hload, hacc, hv]

/-- A load whose access has performed writes its destination and retires. -/
theorem loadRetire_performed (hl : Single s h l x) (hv : x.val = some w) (he : x.err = false) (hd : l.dst = .x rd true)
    (hdesc : l.desc = none) (ha : l.after = none) :
    loadRetire h s = s.setHart h ((({ s.hart h with loads := [] } : Hart).setX rd (extend true x.size w)).retired) := by
  obtain ⟨hload, hacc⟩ := hl
  simp [loadRetire, hload, hacc, hv, he, hd, hdesc, ha, loadBad, loadWrite]

/-- An atomic is tried through `amoTry`. -/
theorem loadsTry_atomic (hl : Single s h l x) (ha : l.amo = some (op, n, kind)) : loadsTry h s = amoTry h l s := by
  simp [loadsTry, hl.1, ha]

theorem amoTry_sent (hl : Single s h l x) (ha : l.amo = some (op, n, kind)) (hx : x.sent = true) : amoTry h l s = s := by
  rw [amoTry, ha, hl.2]
  exact if_pos (by simp [hx])

/-- An atomic whose attempt gives its access a value writes its destination and retires. -/
theorem loadsPump_performs (hl : Single s h l x) (ha : l.amo = some (op, n, kind)) (hz : Single u h l x) (he : x.err = false)
    (hd : l.dst = .x rd true) (hdesc : l.desc = none) (hafter : l.after = none)
    (htry : amoTry h l s = setAcc h l.id 0 (fun a => { a with val := some w }) u) :
    loadsPump h s = (amoTry h l s).setHart h
      ((({ u.hart h with loads := [] } : Hart).setX rd (extend true x.size w)).retired) := by
  have hret : loadRetire h (loadsTry h s) = (amoTry h l s).setHart h
      ((({ u.hart h with loads := [] } : Hart).setX rd (extend true x.size w)).retired) := by
    rw [loadsTry_atomic hl ha, htry, loadRetire_performed hz.setAcc rfl he hd hdesc hafter, setAcc_hart hz]
  rw [loadsPump_once hl.1 ?_, hret]
  rw [hret, State.setHart_hart, Hart.retired_loads, Hart.setX_loads]

/-! ## The attempts of an atomic on a line in M or E -/

section
variable (hl : Single s h l x) (ha : l.amo = some (op, n, kind)) (hval : x.val = none) (hsent : x.sent = false)
  (hown : l2Owned (coreOf h s) (x.pa / 64) s = some k)
  (hhit : hitRule l.w l.v (s.l2L k).w (s.l2L k).px (s.l2L k).data (s.l2L k).poison = .data d po)
  (hpois : poisonIn po (x.pa % 64) x.size = false)
include hl ha hval hsent hown hhit hpois

/-- A NEAR AMO writes its result into the line (R186). -/
theorem amoTry_near (hk : kind = 0) :
    amoTry h l s = setAcc h l.id 0 (fun a => { a with val := some (lineBytes d (x.pa % 64) x.size) })
      (l2Write (coreOf h s) (x.pa / 64) k
        (linePut 0 (x.pa % 64) x.size (amoResult op x.size (lineBytes d (x.pa % 64) x.size) n))
        (byteMask (x.pa % 64) x.size) 0 s) := by
  subst hk
  rw [amoTry, ha, hl.2]
  simp [hval, hsent, hown, hhit, hpois]

/-- LR takes the line in M and the reservation (R189). -/
theorem amoTry_lr (hk : kind = 1) :
    amoTry h l s = setAcc h l.id 0 (fun a => { a with val := some (lineBytes d (x.pa % 64) x.size) })
      ((l2Write (coreOf h s) (x.pa / 64) k 0 0 0 (s.setL2 k { s.l2L k with st := 3, ten := true, age := 0 })).onHart h
        fun t => { t with resv := some (x.pa / 64) }) := by
  subst hk
  rw [amoTry, ha, hl.2]
  simp [hval, hsent, hown, hhit, hpois]

end

/-- An AMO that runs elsewhere leaves once its line is not in the victim buffer (R188). -/
theorem amoTry_away (hl : Single s h l x) (ha : l.amo = some (op, n, 2)) (hval : x.val = none) (hsent : x.sent = false)
    (hvb : vbFind (coreOf h s / 20) (x.pa / 64) s = none) :
    amoTry h l s = openTx (.amo h l.id) (amoPacket (coreOf h s) l x op n)
      (setAcc h l.id 0 (fun a => { a with sent := true }) s) := by
  rw [amoTry, ha, hl.2]
  simp [hval, hsent, hvb]

/-- A sent AMO waits for its answer. -/
theorem loadsPump_away (hl : Single s h l x) (ha : l.amo = some (op, n, 2)) (hval : x.val = none) (hsent : x.sent = false)
    (hvb : vbFind (coreOf h s / 20) (x.pa / 64) s = none) : loadsPump h s = amoTry h l s := by
  set z := amoTry h l s with hz
  have hsingle : Single z h { l with accs := [{ x with sent := true }] } { x with sent := true } := by
    rw [hz, amoTry_away hl ha hval hsent hvb, Single, openTx_hart]
    exact hl.setAcc
  rw [loadsPump_two hl.1, loadsTry_atomic hl ha, ← hz, loadRetire_waits hsingle hval, loadsTry_atomic hsingle ha,
    amoTry_sent hsingle ha rfl, loadRetire_waits hsingle hval]

/-! ## The instructions -/

/-- An access that its check passes has not begun. -/
theorem accCheck_fresh {c : AccKind} (hx : accCheck h c a s = .ok x) :
    x.val = none ∧ x.sent = false ∧ x.err = false := by
  unfold accCheck at hx
  dsimp only at hx
  split at hx
  · cases hx
  · split at hx
    · cases hx
    · split at hx
      · cases hx
        exact ⟨rfl, rfl, rfl⟩
      · split at hx
        · cases hx
        · split at hx
          · cases hx
          · cases hx
            exact ⟨rfl, rfl, rfl⟩

/-- The load of an atomic, as it joins its hart. -/
theorem amoStart_joins : ∃ l, l.amo = some (op, n, kind) ∧ (l.dst = .x rd true ∧ l.desc = none ∧ l.after = none) ∧
    (l.w = (s.hart i.hart).w ∧ l.v = (s.hart i.hart).virt ∧ l.id = (s.hart i.hart).nextId) ∧ l.accs = [x] ∧
    amoStart i (.x rd true) x op n kind s = s.setHart i.hart ((s.hart i.hart).joined i.len l) :=
  ⟨_, rfl, ⟨rfl, rfl, rfl⟩, ⟨rfl, rfl, rfl⟩, rfl, rfl⟩

/-- The state in which the load l has joined its hart. -/
def withLoad (i : Issue) (l : PLoad) (s : State) : State := s.setHart i.hart ((s.hart i.hart).joined i.len l)

theorem withLoad_single (hacc : l.accs = [x]) : Single (withLoad i l s) i.hart l x := by
  refine ⟨?_, hacc⟩
  rw [withLoad, State.setHart_hart, Hart.joined_loads]

/-- An atomic that performs at once with the value w, in a state z that differs from its own outside the hart and in the
reservation r. -/
theorem atomic_performs {z : State} {r : Option Nat} (hs : canDrained i s = true) (hrd : rd < 32) (he : x.err = false)
    (hacc : l.accs = [x]) (ha : l.amo = some (op, n, kind)) (hl : l.dst = .x rd true ∧ l.desc = none ∧ l.after = none)
    (hz : z.hart i.hart = { (s.hart i.hart).joined i.len l with resv := r })
    (htry : amoTry i.hart l (withLoad i l s) = setAcc i.hart l.id 0 (fun a => { a with val := some w }) z) :
    ∃ t, loadsPump i.hart (withLoad i l s) = t ∧ t.l2 = z.l2 ∧ (t.hart i.hart).resv = r ∧
      (t.hart i.hart).getX rd = (if rd = 0 then 0 else extend true x.size w) ∧ Moved i t := by
  obtain ⟨hdst, hdesc, hafter⟩ := hl
  have hsingle : Single z i.hart l x := ⟨congrArg Hart.loads hz, hacc⟩
  have hpc : (s.hart i.hart).pc = i.pc := canIssue_pc (canSettle_issue (canDrained_iff.mp hs).1)
  refine ⟨_, loadsPump_performs (withLoad_single hacc) ha hsingle he hdst hdesc hafter htry, ?_, ?_⟩
  · rw [htry]
    rfl
  rw [Moved, State.setHart_hart, hz]
  refine ⟨?_, ?_, ?_⟩
  · rw [Hart.retired_resv, Hart.setX_resv]
  · rw [Hart.retired_getX, Hart.getX_setX hrd]
  · rw [Hart.retired_pc, Hart.setX_pc, ← hpc]
    exact Hart.joined_pc (l := l)

theorem exec_amo : exec (.amo i op rd a v) s = execAmo i op rd a v s := rfl
theorem exec_lr : exec (.lr i rd a) s = execLr i rd a s := rfl
theorem exec_sc : exec (.sc i rd a v) s = execSc i rd a v s := rfl

/-- Memory in which atomics may run. -/
theorem amo_runs (hs : canDrained i s = true) (hal : a.va.toNat % a.size = 0) (hx : accCheck i.hart .store a s = .ok x)
    (hp : x.pbmt ≠ 2) (hram : inDram x.pa s = true) :
    exec (.amo i op rd a v) s = .next (loadsPump i.hart (amoStart i (.x rd true) x op v.toNat
      (if x.pbmt = 0 ∧ atomicPlace x.pa s = 0 then 0 else 2) s)) := by
  rw [exec_amo]
  simp [execAmo, hs, hal, hx, hp, hram]

theorem lr_runs (hs : canDrained i s = true) (hal : a.va.toNat % a.size = 0) (hx : accCheck i.hart .load a s = .ok x)
    (hp : x.pbmt ≠ 2) (hram : inDram x.pa s = true) :
    exec (.lr i rd a) s = .next (loadsPump i.hart (amoStart i (.x rd true) x 0 0 1 s)) := by
  rw [exec_lr]
  simp [execLr, hs, hal, hx, hp, hram]

theorem sc_runs (hs : canDrained i s = true) (hal : a.va.toNat % a.size = 0) (hx : accCheck i.hart .store a s = .ok x)
    (hp : x.pbmt ≠ 2) (hram : inDram x.pa s = true) : exec (.sc i rd a v) s = .next (scDo i rd x a.va v s) := by
  rw [exec_sc]
  simp [execSc, hs, hal, hx, hp, hram]

section
variable (hs : canDrained i s = true) (hal : a.va.toNat % a.size = 0) (hrd : rd < 32) (hp : x.pbmt = 0)
  (hram : inDram x.pa s = true) (hown : l2Owned (coreOf i.hart s) (x.pa / 64) s = some k)
  (hhit : hitRule (s.hart i.hart).w (s.hart i.hart).virt (s.l2L k).w (s.l2L k).px (s.l2L k).data (s.l2L k).poison =
    .data d po)
  (hpois : poisonIn po (x.pa % 64) x.size = false)
include hs hal hrd hp hram hown hhit hpois

theorem amo_near (hx : accCheck i.hart .store a s = .ok x) (hplace : atomicPlace x.pa s = 0) :
    ∃ t, exec (.amo i op rd a v) s = .next t ∧
      (t.l2L k).data = mergeLine (s.l2L k).data (linePut 0 (x.pa % 64) x.size (amoResult op x.size (lineBytes d (x.pa
        % 64) x.size) v.toNat)) (byteMask (x.pa % 64) x.size) ∧
      (t.l2L k).st = 3 ∧
      (t.hart i.hart).getX rd = (if rd = 0 then 0 else extend true x.size (lineBytes d (x.pa % 64) x.size)) ∧
      Moved i t := by
  obtain ⟨hval, hsent, he⟩ := accCheck_fresh hx
  obtain ⟨l, ha, hl, ⟨hw, hv, -⟩, hacc, hstart⟩ := amoStart_joins (i := i) (s := s) (rd := rd) (x := x) (op := op)
    (n := v.toNat) (kind := 0)
  have htry := amoTry_near (s := withLoad i l s) (k := k) (d := d) (po := po) (withLoad_single hacc) ha hval hsent hown
    (by rw [hw, hv]; exact hhit) hpois rfl
  have hz : (l2Write (coreOf i.hart s) (x.pa / 64) k
      (linePut 0 (x.pa % 64) x.size (amoResult op x.size (lineBytes d (x.pa % 64) x.size) v.toNat))
      (byteMask (x.pa % 64) x.size) 0 (withLoad i l s)).hart i.hart = (s.hart i.hart).joined i.len l := by
    rw [l2Write_hart, withLoad, State.setHart_hart]
  obtain ⟨t, ht, hl2, -, hget, hmoved⟩ := atomic_performs hs hrd he hacc ha hl hz htry
  obtain ⟨hst, hdata⟩ := l2Write_l2L (np := coreOf i.hart s) (line := x.pa / 64) (k := k) (po := 0) (s := withLoad i l s)
    (d := linePut 0 (x.pa % 64) x.size (amoResult op x.size (lineBytes d (x.pa % 64) x.size) v.toNat))
    (m := byteMask (x.pa % 64) x.size)
  refine ⟨t, ?_, ?_, ?_, hget, hmoved⟩
  · rw [amo_runs hs hal hx (by rw [hp]; decide) hram, if_pos ⟨hp, hplace⟩, hstart]
    exact congrArg _ ht
  · rw [State.l2L, hl2]
    exact hdata
  · rw [State.l2L, hl2]
    exact hst

theorem lr_takes (hx : accCheck i.hart .load a s = .ok x) : ∃ t, exec (.lr i rd a) s = .next t ∧
    (t.hart i.hart).resv = some (x.pa / 64) ∧ (t.l2L k).st = 3 ∧
    (t.hart i.hart).getX rd = (if rd = 0 then 0 else extend true x.size (lineBytes d (x.pa % 64) x.size)) ∧
    Moved i t := by
  obtain ⟨hval, hsent, he⟩ := accCheck_fresh hx
  obtain ⟨l, ha, hl, ⟨hw, hv, -⟩, hacc, hstart⟩ := amoStart_joins (i := i) (s := s) (rd := rd) (x := x) (op := 0)
    (n := 0) (kind := 1)
  have htry := amoTry_lr (s := withLoad i l s) (k := k) (d := d) (po := po) (withLoad_single hacc) ha hval hsent hown
    (by rw [hw, hv]; exact hhit) hpois rfl
  set y := l2Write (coreOf i.hart s) (x.pa / 64) k 0 0 0
    ((withLoad i l s).setL2 k { (withLoad i l s).l2L k with st := 3, ten := true, age := 0 }) with hy
  have hz : (y.onHart i.hart fun t => { t with resv := some (x.pa / 64) }).hart i.hart =
      { (s.hart i.hart).joined i.len l with resv := some (x.pa / 64) } := by
    have hh : y.hart i.hart = (s.hart i.hart).joined i.len l := l2Write_hart.trans State.setHart_hart
    rw [State.onHart_hart, hh]
  obtain ⟨t, ht, hl2, hresv, hget, hmoved⟩ := atomic_performs hs hrd he hacc ha hl hz htry
  refine ⟨t, ?_, hresv, ?_, hget, hmoved⟩
  · rw [lr_runs hs hal hx (by rw [hp]; decide) hram, hstart]
    exact congrArg _ ht
  · rw [State.l2L, hl2]
    exact l2Write_l2L.1

end

theorem amo_leaves (hs : canDrained i s = true) (hal : a.va.toNat % a.size = 0) (hx : accCheck i.hart .store a s = .ok x)
    (hp : x.pbmt ≠ 2) (hram : inDram x.pa s = true) (hfar : x.pbmt ≠ 0 ∨ atomicPlace x.pa s ≠ 0)
    (hvb : vbFind (coreOf i.hart s / 20) (x.pa / 64) s = none) :
    ∃ t, exec (.amo i op rd a v) s = .next t ∧
      t.txs.getLast?.map (fun q => (q.op, q.addr, q.tgt, q.own)) = some (Op.atmH, lineOf x.pa, 0x100 + mcOf x.pa,
        TxOwner.amo i.hart (s.hart i.hart).nextId) ∧
      Moved i t := by
  obtain ⟨hval, hsent, -⟩ := accCheck_fresh hx
  obtain ⟨l, ha, -, ⟨-, -, hid⟩, hacc, hstart⟩ := amoStart_joins (i := i) (s := s) (rd := rd) (x := x) (op := op)
    (n := v.toNat) (kind := 2)
  have hl : Single (withLoad i l s) i.hart l x := withLoad_single hacc
  have hpc : (s.hart i.hart).pc = i.pc := canIssue_pc (canSettle_issue (canDrained_iff.mp hs).1)
  refine ⟨amoTry i.hart l (withLoad i l s), ?_, ?_, ?_⟩
  · rw [amo_runs hs hal hx hp hram, if_neg (by tauto), hstart]
    exact congrArg _ (loadsPump_away hl ha hval hsent hvb)
  · rw [amoTry_away hl ha hval hsent hvb, openTx_txs, hid]
    rfl
  · rw [Moved, amoTry_away hl ha hval hsent hvb, openTx_hart, setAcc_hart hl, ← hpc]
    show ((withLoad i l s).hart i.hart).pc = _
    rw [withLoad, State.setHart_hart, Hart.joined_pc]

/-! ## SC (R189) -/

theorem State.onHart_l2 {g : Hart → Hart} : (s.onHart h g).l2 = s.l2 := rfl

theorem pass_l2 : (pass i s).l2 = s.l2 := State.onHart_l2

/-- An SC that is decided: the reservation ends, and rd reads e. -/
theorem scEnds_hart {e : Word} (hrd : rd < 32) (hpc : (u.hart i.hart).pc = i.pc) {t : State}
    (ht : pass i ((u.onHart i.hart fun t => { t with resv := none }).onHart i.hart fun t => t.setX rd e) = t) :
    t.l2 = u.l2 ∧ (t.hart i.hart).resv = none ∧ (t.hart i.hart).getX rd = (if rd = 0 then 0 else e) ∧ Moved i t := by
  subst ht
  refine ⟨?_, ?_, ?_, ?_⟩
  · rw [pass_l2, State.onHart_l2, State.onHart_l2]
  · rw [pass_hart, Hart.past_resv, State.onHart_hart, Hart.setX_resv, State.onHart_hart]
  · rw [pass_hart, Hart.past_getX, State.onHart_hart, Hart.getX_setX hrd]
  · refine moved_of_pass ?_
    rw [State.onHart_hart, Hart.setX_pc, State.onHart_hart]
    exact hpc

theorem scDo_stores (hrd : rd < 32) (hpc : (s.hart i.hart).pc = i.pc) (hr : (s.hart i.hart).resv = some (x.pa / 64))
    (hown : l2Owned (coreOf i.hart s) (x.pa / 64) s = some k)
    (hhit : hitRule (s.hart i.hart).w (s.hart i.hart).virt (s.l2L k).w (s.l2L k).px (s.l2L k).data (s.l2L k).poison =
      .data d po) {t : State} (ht : scDo i rd x a.va v s = t) :
    (t.l2L k).data = mergeLine (s.l2L k).data (linePut 0 (x.pa % 64) x.size v.toNat) (byteMask (x.pa % 64) x.size) ∧
      (t.hart i.hart).resv = none ∧ (t.hart i.hart).getX rd = 0 ∧ Moved i t := by
  set y := l2Write (coreOf i.hart s) (x.pa / 64) k (linePut 0 (x.pa % 64) x.size v.toNat) (byteMask (x.pa % 64) x.size) 0 s
    with hy
  have hdo : scDo i rd x a.va v s = pass i ((y.onHart i.hart fun t => { t with resv := none }).onHart i.hart fun t =>
      t.setX rd 0) := by
    simp only [scDo, hr, hown, hhit, if_true]
    rfl
  obtain ⟨hl2, hresv, hget, hmoved⟩ := scEnds_hart (u := y) hrd (by rw [hy, l2Write_hart]; exact hpc) (hdo.symm.trans ht)
  refine ⟨?_, hresv, hget.trans (ite_self _), hmoved⟩
  rw [State.l2L, hl2]
  exact l2Write_l2L.2

theorem scDo_fails (hrd : rd < 32) (hpc : (s.hart i.hart).pc = i.pc) (hr : (s.hart i.hart).resv ≠ some (x.pa / 64))
    {t : State} (ht : scDo i rd x a.va v s = t) :
    t.l2 = s.l2 ∧ (t.hart i.hart).resv = none ∧ (t.hart i.hart).getX rd = (if rd = 0 then 0 else 1) ∧ Moved i t := by
  have hdo : scDo i rd x a.va v s = pass i ((s.onHart i.hart fun t => { t with resv := none }).onHart i.hart fun t =>
      t.setX rd 1) := by
    simp only [scDo, hr, if_false]
  exact scEnds_hart hrd hpc (hdo.symm.trans ht)

/-! ## Misaligned atomics -/

theorem raise_raised {c : Nat} {j : Word} : Raised i c j (raise i c j s) := congrArg Hart.trap raise_hart

theorem amo_misaligned (hs : canDrained i s = true) (hal : a.va.toNat % a.size ≠ 0) :
    exec (.amo i op rd a v) s = .next (raise i 6 a.va s) := by
  rw [exec_amo]
  simp [execAmo, hs, hal]

theorem sc_misaligned (hs : canDrained i s = true) (hal : a.va.toNat % a.size ≠ 0) :
    exec (.sc i rd a v) s = .next (raise i 6 a.va s) := by
  rw [exec_sc]
  simp [execSc, hs, hal]

theorem lr_misaligned (hs : canDrained i s = true) (hal : a.va.toNat % a.size ≠ 0) :
    exec (.lr i rd a) s = .next (raise i 4 a.va s) := by
  rw [exec_lr]
  simp [execLr, hs, hal]

/-! ## Fences and waits -/

/-- What a passing instruction leaves. -/
theorem pass_passes (hs : canSettle i s = true) : Moved i (pass i s) ∧ ((pass i s).hart i.hart).x = (s.hart i.hart).x ∧
    ((pass i s).hart i.hart).sb = (s.hart i.hart).sb := by
  refine ⟨moved_of_pass (canIssue_pc (canSettle_issue hs)), ?_, ?_⟩
  · rw [pass_hart, Hart.past_x]
  · rw [pass_hart, Hart.past_sb]

theorem exec_fence : exec (.fence i n k) s = .next (if (if n.testBit 0 || n.testBit 2 then canDrained i s else canSettle i s)
    then pass i s else s) := rfl

theorem fence_passes (hs : canSettle i s = true) (hd : (n.testBit 0 || n.testBit 2) = true → canDrained i s = true) :
    exec (.fence i n k) s = .next (pass i s) := by
  rw [exec_fence]
  by_cases h : (n.testBit 0 || n.testBit 2) = true
  · rw [if_pos h, if_pos (hd h)]
  · rw [if_neg h, if_pos hs]

theorem fence_waits (hp : n.testBit 0 = true ∨ n.testBit 2 = true) (hsb : (s.hart i.hart).sb ≠ []) :
    exec (.fence i n k) s = .next s := by
  have hd : canDrained i s = false := by simp [canDrained, hsb]
  rw [exec_fence, if_pos (Bool.or_eq_true_iff.mpr hp), if_neg (by simp [hd])]

theorem fenceI_passes (hd : canDrained i s = true) : exec (.fenceI i) s = .next (pass i s) := by
  show execFenceI i s = _
  rw [execFenceI, if_pos hd]

theorem exec_sfenceVma : exec (.sfenceVma i) s = execSfenceVma i s := rfl

theorem sfenceFault_user (hp : (s.hart i.hart).priv = 0) (hv : (s.hart i.hart).virt = false) : sfenceFault i s = some 2 := by
  simp [sfenceFault, hp, hv]

theorem sfenceVma_passes (hd : canDrained i s = true) (hf : sfenceFault i s = none) :
    exec (.sfenceVma i) s = .next (pass i s) := by
  rw [exec_sfenceVma]
  simp [execSfenceVma, hd, hf]

theorem sfenceVma_raises {c : Nat} (hd : canDrained i s = true) (hf : sfenceFault i s = some c) :
    exec (.sfenceVma i) s = .next (raiseEnc i c s) := by
  rw [exec_sfenceVma]
  simp [execSfenceVma, hd, hf]

theorem drained_issue (hd : canDrained i s = true) : canIssue i s = true := canSettle_issue (canDrained_iff.mp hd).1

theorem drained_pc (hd : canDrained i s = true) : (s.hart i.hart).pc = i.pc := canIssue_pc (drained_issue hd)

/-- A hart that can issue is in RUN. -/
theorem canIssue_run (hs : canIssue i s = true) : (s.hart i.hart).st = .run := by
  have hruns : hartRuns i.hart s = true := (Bool.and_eq_true_iff.mp hs).1
  simp only [hartRuns, Bool.and_eq_true, beq_iff_eq] at hruns
  obtain ⟨⟨⟨⟨⟨⟨⟨-, hst⟩, -⟩, -⟩, -⟩, -⟩, -⟩, -⟩ := hruns
  exact hst

theorem pass_run (hs : canIssue i s = true) : ((pass i s).hart i.hart).st = .run := by
  rw [pass_hart, Hart.past_st, canIssue_run hs]

theorem park_parks {y : WaitKind} (hs : canIssue i s = true) :
    ((park i.hart y (pass i s)).hart i.hart).st = .wait y ∧ Moved i (park i.hart y (pass i s)) := by
  rw [Moved, park, State.onHart_hart]
  exact ⟨rfl, moved_of_pass (canIssue_pc hs)⟩

theorem exec_wfi : exec (.wfi i) s = execWfi i s := rfl
theorem exec_wrsNto : exec (.wrsNto i) s = .next (wrsDo i false s) := rfl
theorem exec_wrsSto : exec (.wrsSto i) s = .next (wrsDo i true s) := rfl

theorem wfi_parks (hd : canDrained i s = true) (hirq : irqWakes i.hart s = false) (hf : wfiFault i.hart s = none) :
    exec (.wfi i) s = .next (park i.hart .wfi (pass i s)) := by
  rw [exec_wfi]
  simp [execWfi, hd, hirq, hf]

theorem wfi_passes (hd : canDrained i s = true) (hirq : irqWakes i.hart s = true) : exec (.wfi i) s = .next (pass i s) := by
  rw [exec_wfi]
  simp [execWfi, hd, hirq]

theorem wrsDo_parks {b : Bool} (hd : canDrained i s = true) (hr : (s.hart i.hart).resv ≠ none)
    (hirq : irqWakes i.hart s = false) : wrsDo i b s = park i.hart (.wrs b) (pass i s) := by
  simp [wrsDo, hd, hr, hirq]

theorem wrsDo_passes {b : Bool} (hd : canDrained i s = true) (hr : (s.hart i.hart).resv = none) : wrsDo i b s = pass i s := by
  simp [wrsDo, hd, hr]

end

/-- Settles O6: an atomic is one pending load, which `amoTry` performs or sends; SC is decided by the reservation, and the
fences and waits by what they wait for. -/
theorem atomicsFencesAndWaits : Obligations.AtomicsFencesAndWaits := by
  refine ⟨fun i rd k a x d po op v s hs hal hx hrd hplace hp hram hown hhit hpois =>
      amo_near hs hal hrd hp hram hown hhit hpois hx hplace,
    fun i op rd v a x s hs hal hx hp hram hfar hvb => amo_leaves hs hal hx hp hram hfar hvb,
    fun i rd k a x d po s hs hal hx hrd hp hram hown hhit hpois => lr_takes hs hal hrd hp hram hown hhit hpois hx,
    fun i rd k a x d po v s hs hal hx hrd hr hp hram hown hhit =>
      ⟨_, sc_runs hs hal hx (by rw [hp]; decide) hram, scDo_stores hrd (drained_pc hs) hr hown hhit rfl⟩,
    fun i rd a x v s hs hal hx hrd hp hram hr => ⟨_, sc_runs hs hal hx hp hram, scDo_fails hrd (drained_pc hs) hr rfl⟩,
    fun i op rd a v s hs hal => ⟨_, amo_misaligned hs hal, raise_raised⟩,
    fun i rd a s hs hal => ⟨_, lr_misaligned hs hal, raise_raised⟩,
    fun i rd a v s hs hal => ⟨_, sc_misaligned hs hal, raise_raised⟩,
    fun i p q s hd => ?_, fun i p q s hs h0 h2 => ?_, fun i p q s hp hsb => ⟨_, fence_waits hp hsb, rfl⟩,
    fun i s hd => ?_, fun i s hd hf => ?_, fun i s hd hp hv => ?_, fun i s hd hirq hf => ?_, fun i s hd hirq => ?_,
    fun i s hd hr hirq => ?_, fun i s hd hr => ?_, fun i s hd hr hirq => ?_, fun i s hd hr => ?_⟩
  · have hs := (canDrained_iff.mp hd).1
    obtain ⟨hmoved, hx, -⟩ := pass_passes hs
    exact ⟨_, fence_passes hs fun _ => hd, hmoved, hx⟩
  · obtain ⟨hmoved, -, hsb⟩ := pass_passes hs
    exact ⟨_, fence_passes hs (by simp [h0, h2]), hmoved, hsb⟩
  · obtain ⟨hmoved, hx, -⟩ := pass_passes (canDrained_iff.mp hd).1
    exact ⟨_, fenceI_passes hd, hmoved, hx⟩
  · obtain ⟨hmoved, hx, -⟩ := pass_passes (canDrained_iff.mp hd).1
    exact ⟨_, sfenceVma_passes hd hf, hmoved, hx⟩
  · exact ⟨_, sfenceVma_raises hd (sfenceFault_user hp hv), raiseEnc_raised⟩
  · exact ⟨_, wfi_parks hd hirq hf, park_parks (drained_issue hd)⟩
  · exact ⟨_, wfi_passes hd hirq, pass_run (drained_issue hd), moved_of_pass (drained_pc hd)⟩
  · exact ⟨_, exec_wrsNto, by rw [wrsDo_parks hd hr hirq]; exact park_parks (drained_issue hd)⟩
  · exact ⟨_, exec_wrsNto, by rw [wrsDo_passes hd hr]; exact ⟨pass_run (drained_issue hd), moved_of_pass (drained_pc hd)⟩⟩
  · exact ⟨_, exec_wrsSto, by rw [wrsDo_parks hd hr hirq]; exact park_parks (drained_issue hd)⟩
  · exact ⟨_, exec_wrsSto, by rw [wrsDo_passes hd hr]; exact ⟨pass_run (drained_issue hd), moved_of_pass (drained_pc hd)⟩⟩

end Sys2Proof.Machine

/-! # Cores, dies and clocks -/

namespace Sys2Proof.Machine

section
variable {s t : State} {W n k h x st port pos : Nat} {g : Reg} {f : Fld} {w : WaitKind} {d : DieTrans} {a : Access} {v : Word}

/-! ## What an operation leaves -/

theorem Only.f_eq (ho : Only W s t) (hg : W.testBit f.reg.mark = false) (k : Nat) : t.f f k = s.f f k :=
  congrArg (fget f) (ho.2.2 f.reg hg k)

theorem Only.b_eq (ho : Only W s t) (hg : W.testBit f.reg.mark = false) (k : Nat) : t.b f k = s.b f k :=
  congrArg (· != 0) (ho.f_eq hg k)

theorem State.f_of_regs (hr : t.regs = s.regs) : t.f f k = s.f f k := by rw [State.f, State.r, hr, State.f, State.r]

theorem State.b_of_regs (hr : t.regs = s.regs) : t.b f k = s.b f k := by rw [State.b, State.f_of_regs hr, State.b]

theorem Only.dieTrans_eq (ho : Only W s t) (hW : W.testBit Part.bridges.ctorIdx = false) : t.dieTrans = s.dieTrans :=
  (ho.2.1 .bridges hW).2

theorem Only.freqGoal_eq (ho : Only W s t) (hW : W.testBit Part.power.ctorIdx = false) : t.freqGoal = s.freqGoal := by
  obtain ⟨-, -, -, -, hgoal, -⟩ := ho.2.1 .power hW
  exact hgoal

/-! ## Entering and leaving GATED -/

theorem State.onHart_st {g : Hart → Hart} (hg : ∀ t, (g t).st = t.st) :
    ((s.onHart k g).hart h).st = (s.hart h).st := by
  by_cases hk : h = k
  · rw [hk, State.onHart_hart, hg]
  · rw [State.onHart, State.setHart, State.hart, smapGet_set_ne _ _ hk, State.hart]

theorem l1Inval_hart : (l1Inval n k s).hart h = s.hart h := by
  obtain ⟨-, parts, -⟩ := only_l1Inval (np := n) (line := k) (Nat.and_self _) (.refl _ s)
  exact State.hart_of_harts (parts .harts rfl)

theorem toSlice_hart {p : Packet} : (toSlice n k p s).hart h = s.hart h := by
  obtain ⟨-, parts, -⟩ := only_toSlice (np := n) (line := k) (p := p) (Nat.and_self _) (.refl _ s)
  exact State.hart_of_harts (parts .harts rfl)

theorem replayLine_st : ((replayLine n k s).hart h).st = (s.hart h).st := by
  unfold replayLine
  split
  · rfl
  · exact State.onHart_st fun _ => rfl

theorem loseResv_st : ((loseResv n k s).hart h).st = (s.hart h).st := by
  unfold loseResv
  split
  · rfl
  · exact State.onHart_st fun t => by split <;> rfl

theorem State.setL2_hart {l : L2Line} : (s.setL2 k l).hart h = s.hart h := rfl

/-- A line that leaves the L2 takes the loads and the reservation of its hart with it, and no more of it. -/
theorem l2Evict_st : ((l2Evict n k s).hart h).st = (s.hart h).st := by
  unfold l2Evict
  extract_lets l u
  have hu : u.hart h = s.hart h := by
    unfold u
    split
    · exact toSlice_hart
    · exact toSlice_hart
  split
  · rfl
  · rw [loseResv_st, replayLine_st, l1Inval_hart, State.setL2_hart, hu]

theorem l2EvictAll_st {p : L2Line → Bool} : ((l2EvictAll n p s).hart h).st = (s.hart h).st :=
  foldl_keeps (fun t => (t.hart h).st) (fun _ _ => l2Evict_st) _ s

theorem coreGating_st : ((coreGating h w s).hart h).st = .gating w := by
  unfold coreGating
  extract_lets np u v
  have hv : v.hart h = u.hart h := rfl
  rw [l2EvictAll_st, hv, State.onHart_hart]

theorem gatedIn_st : ((gatedIn h w s).hart h).st = .gated w ∧ ((gatedIn h w s).hart h).tdc = [] := by
  unfold gatedIn
  rw [gateEnd_hart, State.onHart_hart]
  exact ⟨rfl, rfl⟩

theorem State.setF_hart : (s.setF f k x).hart h = s.hart h := rfl

/-- The entries of the mitten are judged on other registers than those of the power requests. -/
theorem mittenEff_setF : mittenEff k (s.setF F.PWR_REQ_STATUS_UNIT n x) = mittenEff k s := by
  simp (disch := decide) only [mittenEff, coreHeld, unitExists, mittenBit, phaseSecure, hartExists, hartDie, State.b,
    State.fbit, State.f_setF_reg, blockArmed, State.setF_cal, State.setF_hart]

/-! ## The requests of a core -/

theorem coreGating_busy : (coreGating h w s).b F.PWR_REQ_STATUS_BUSY port = s.b F.PWR_REQ_STATUS_BUSY port :=
  (only_coreGating (Nat.and_self _) (.refl _ s)).b_eq rfl port

/-- The state in which hart h has asked at its port. -/
def gateAsked (h port : Nat) (s : State) : State :=
  { mittenNote h false ((s.setF F.PWR_REQ_STATUS_UNIT port h).setB F.PWR_REQ_STATUS_BUSY port true) with
    gatePort := smapSet (fun _ => none) s.gatePort h (some port) }

theorem gateAsked_regs :
    (gateAsked h port s).regs = ((s.setF F.PWR_REQ_STATUS_UNIT port h).setB F.PWR_REQ_STATUS_BUSY port true).regs := rfl

theorem gateAsked_busy : (gateAsked h port s).b F.PWR_REQ_STATUS_BUSY port = true := by
  rw [State.b_of_regs gateAsked_regs]
  exact State.b_setB_self (by decide) (by decide)

/-- A core that may gate and is not held against the Open world asks at its port and begins its entry. -/
theorem coreAsks_gates (hmay : coreMayGate h s = some w) (hex : hartExists h s = true) (hon : dieOn (hartDie h s) s = true)
    (hdr : hartDrained h s = true)
    (hport : s.b F.PWR_REQ_STATUS_BUSY (2 * hartPart h s + (if (s.hart h).w then 1 else 0)) = false)
    (hpkg : s.pkgEnd = none) (hheld : (s.hart h).w = true ∨ mittenEff h s = false) :
    coreAsks h s = coreGating h w (gateAsked h (2 * hartPart h s + (if (s.hart h).w then 1 else 0)) s) := by
  have hfree : (!(s.hart h).w && mittenEff h s) = false := by rcases hheld with e | e <;> simp [e]
  simp only [coreAsks, hmay, hex, hon, hdr, hport, hpkg, mittenEff_setF, hfree, Bool.not_true, Bool.or_self,
    Option.isSome_none, Bool.false_eq_true, if_false]
  rfl

theorem coreOn_gated (hst : (s.hart h).st = .gated w) (hw : w ≠ .req) : ((coreOn h s).hart h).st = .wait w := by
  unfold coreOn
  rw [hst]
  dsimp only
  rw [gateEnd_hart, State.onHart_hart]
  cases w with
  | req => exact absurd rfl hw
  | _ => rfl

theorem gateLeave_gated (hst : (s.hart h).st = .gated w) : gateLeave h s = coreOn h s := by simp only [gateLeave, hst]

/-! ## Commands -/

theorem powerRequest_asks (hat : hartAt n pos s = some h) : exec (.powerRequest n pos 1) s = .next (coreAsks h s) := by
  show execPowerRequest n pos 1 s = _
  simp [execPowerRequest, hat]

theorem powerCommand_on (hat : hartAt n pos s = some h) (hon : dieOn n s = true) :
    exec (.powerCommand n pos 0) s = .next (gateLeave h s) := by
  show execPowerCommand n pos 0 s = _
  simp [execPowerCommand, hat, hon]

theorem powerCommand_gate (hat : hartAt n pos s = some h) (hon : dieOn n s = true) (hst : (s.hart h).st = .wait w)
    (hdr : hartDrained h s = true) (hheld : (s.hart h).w = true ∨ mittenEff h s = false) :
    exec (.powerCommand n pos 1) s = .next (coreGating h w s) := by
  have hfree : ((s.hart h).w || !mittenEff h s) = true := by rcases hheld with e | e <;> simp [e]
  show execPowerCommand n pos 1 s = _
  simp [execPowerCommand, hat, hon, hst, hdr, hfree]

theorem gatedEntryDone_ends (hst : (s.hart h).st = .gating w) (hdr : hartDrained h s = true)
    (hout : (s.out.any fun m => match m with
      | .pkt q => q.op == .wbL && q.src == coreAgent (coreOf h s)
      | _ => false) = false) :
    exec (.gatedEntryDone h) s = .next (gatedIn h w s) := by
  show execGatedEntryDone h s = _
  simp only [execGatedEntryDone, hst, hdr]
  rw [if_neg]
  rw [Bool.not_true, Bool.false_or]
  exact ne_of_eq_of_ne hout Bool.false_ne_true

theorem exec_coreWake {b : Bool} : exec (.coreWake h b) s = execCoreWake h b s := rfl

/-- A waiting core whose wait has ended runs. -/
theorem coreWake_runs {b : Bool} (hex : hartExists h s = true) (hon : dieOn (hartDie h s) s = true)
    (hh : (s.hart h).halted = false) (hst : (s.hart h).st = .wait .wfi) (hirq : irqWakes h s = true) :
    exec (.coreWake h b) s = .next (s.onHart h fun t => { t with st := .run }) := by
  rw [exec_coreWake]
  simp [execCoreWake, hex, hon, hh, hst, hirq]

theorem coreWake_wrs {b sto : Bool} (hex : hartExists h s = true) (hon : dieOn (hartDie h s) s = true)
    (hh : (s.hart h).halted = false) (hst : (s.hart h).st = .wait (.wrs sto))
    (hend : (s.hart h).resv = none ∨ (sto = true ∧ b = true)) :
    exec (.coreWake h b) s = .next (s.onHart h fun t => { t with st := .run }) := by
  have hends : ((s.hart h).resv.isNone || (sto && b)) = true := by rcases hend with e | ⟨rfl, rfl⟩ <;> simp [*]
  rw [exec_coreWake]
  simp [execCoreWake, hex, hon, hh, hst, Bool.or_assoc, hends]

theorem coreWake_gated {b : Bool} (hex : hartExists h s = true) (hon : dieOn (hartDie h s) s = true)
    (hh : (s.hart h).halted = false) (hst : (s.hart h).st = .gated .wfi) (hirq : irqWakes h s = true) :
    exec (.coreWake h b) s = .next ((gateLeave h s).onHart h fun t => { t with st := .run }) := by
  rw [exec_coreWake]
  simp [execCoreWake, hex, hon, hh, hst, hirq]

/-! ## The limits and the clocks of the dies -/

/-- LIMITED is all of PWR_DIE that the limits change. -/
theorem limitSet_die (hr : f.reg = .PWR_DIE) (hf : f.hi < 64) (hne : f.hi < 2 ∨ 2 < f.lo) :
    (limitSet s).f f n = s.f f n := by
  unfold limitSet
  dsimp only
  rw [State.setB, State.f_setF_reg _ (by rw [hr]; decide)]
  exact iter_keeps (fun t => t.f f n) (fun _ _ => State.f_setF_ne _ _ _ _ _ _ hf hne) 12 s

/-- LIMITING is all of PWR_STATUS that the limits change. -/
theorem limitSet_plock : (limitSet s).b F.PWR_STATUS_PLOCK 0 = s.b F.PWR_STATUS_PLOCK 0 := by
  unfold limitSet
  dsimp only
  rw [State.setB, State.b_setF_ne (by decide) (by decide)]
  exact iter_keeps (fun t => t.b F.PWR_STATUS_PLOCK 0) (fun _ _ => State.b_setF_reg (by decide)) 12 s

/-- Every ON die set to the frequency that r gives it. -/
def clocksSet (r : Nat → State → Nat) (s : State) : State :=
  iter 12 (fun n t => if dieOn n t then t.setF F.PWR_DIE_FREQ_EFF n (r n t) else t) s

theorem clocksSet_step {r : Nat → State → Nat} (hf : f.hi < 64) (hne : f.hi < 32 ∨ 39 < f.lo) (k : Nat)
    (t : State) : (if dieOn k t then t.setF F.PWR_DIE_FREQ_EFF k (r k t) else t).f f n = t.f f n := by
  split
  · exact State.f_setF_ne _ _ _ _ _ _ hf hne
  · rfl

/-- FREQ_EFF is all of PWR_DIE that the clocks change. -/
theorem clocksSet_die {r : Nat → State → Nat} (hf : f.hi < 64) (hne : f.hi < 32 ∨ 39 < f.lo) :
    (clocksSet r s).f f n = s.f f n :=
  iter_keeps (fun t => t.f f n) (clocksSet_step hf hne) 12 s

theorem clocksSet_plock {r : Nat → State → Nat} : (clocksSet r s).b F.PWR_STATUS_PLOCK 0 = s.b F.PWR_STATUS_PLOCK 0 := by
  refine iter_keeps (fun t => t.b F.PWR_STATUS_PLOCK 0) (fun k t => ?_) 12 s
  split
  · exact State.b_setF_reg (by decide)
  · rfl

/-- One frequency for every ON die. -/
theorem clocksSet_on (hx : x < 256) (hn : n < 12) (hon : dieOn n s = true) :
    (clocksSet (fun _ _ => x) s).f F.PWR_DIE_FREQ_EFF n = x := by
  have hall (k : Nat) : ∀ m < k, dieOn m s = true →
      (iter k (fun n t => if dieOn n t then t.setF F.PWR_DIE_FREQ_EFF n x else t) s).f F.PWR_DIE_FREQ_EFF m = x := by
    induction k with
    | zero => exact fun m hm => absurd hm (Nat.not_lt_zero m)
    | succ k ih =>
      intro m hm hmon
      have hst : dieOn m (iter k (fun n t => if dieOn n t then t.setF F.PWR_DIE_FREQ_EFF n x else t) s) = true :=
        (congrArg (· == 2) (iter_keeps (fun t => t.f F.PWR_DIE_STATE m)
          (clocksSet_step (r := fun _ _ => x) (by decide) (by decide)) k s)).trans hmon
      rw [iter_succ]
      by_cases hmk : m = k
      · subst hmk
        rw [if_pos hst, State.f_setF_self _ _ _ _ (by decide)]
        exact Nat.mod_eq_of_lt hx
      · split
        · rw [State.f_setF_ix _ _ _ hmk]
          exact ih m (by omega) hmon
        · exact ih m (by omega) hmon
  exact hall 12 n hn hon

theorem plockOn_eq : plockOn s = limitSet ((clocksSet (fun _ _ => 20) s).setB F.PWR_STATUS_PLOCK 0 true) := rfl

/-- Phase lock runs every ON die at 2.0 GHz (R519). -/
theorem plockOn_locks : (plockOn s).b F.PWR_STATUS_PLOCK 0 = true ∧
    ((List.range 12).all fun n => !dieOn n s || (plockOn s).f F.PWR_DIE_FREQ_EFF n == 20) = true := by
  rw [plockOn_eq]
  constructor
  · rw [limitSet_plock]
    exact State.b_setB_self (by decide) (by decide)
  · rw [List.all_eq_true]
    intro n hn
    rw [limitSet_die rfl (by decide) (by decide), State.setB, State.f_setF_reg _ (by decide)]
    by_cases hon : dieOn n s = true
    · rw [clocksSet_on (by decide) (List.mem_range.mp hn) hon]
      simp
    · simp [hon]

theorem plockOff_eq (hp : s.b F.PWR_STATUS_PLOCK 0 = true) :
    plockOff s = limitSet (clocksSet upFreq (s.setB F.PWR_STATUS_PLOCK 0 false)) := by
  rw [plockOff, hp]
  rfl

theorem plockOff_off (hp : s.b F.PWR_STATUS_PLOCK 0 = false) : plockOff s = s := by
  rw [plockOff, hp]
  rfl

theorem plockOff_unlocks : (plockOff s).b F.PWR_STATUS_PLOCK 0 = false := by
  cases hp : s.b F.PWR_STATUS_PLOCK 0 with
  | false => rw [plockOff_off hp, hp]
  | true =>
    rw [plockOff_eq hp, limitSet_plock, clocksSet_plock]
    exact State.b_setB_self (by decide) (by decide)

/-- Phase lock left changes the effective frequencies alone of what PWR_DIE shows beside LIMITED. -/
theorem plockOff_die (hr : f.reg = .PWR_DIE) (hf : f.hi < 64) (hl : f.hi < 2 ∨ 2 < f.lo) (he : f.hi < 32 ∨ 39 < f.lo) :
    (plockOff s).f f n = s.f f n := by
  cases hp : s.b F.PWR_STATUS_PLOCK 0 with
  | false => rw [plockOff_off hp]
  | true =>
    rw [plockOff_eq hp, limitSet_die hr hf hl, clocksSet_die hf he, State.setB, State.f_setF_reg _ (by rw [hr]; decide)]

/-! ## Dies -/

theorem reqDone_die {status : Nat} (hr : f.reg = .PWR_DIE) : (reqDone k status s).f f n = s.f f n :=
  (only_reqDone (Nat.and_self _) (.refl _ s)).f_eq (by rw [hr]; rfl) n

theorem State.f_setF_lt {y : Nat} (hf : f.hi < 64) (hy : y < 2 ^ (f.hi + 1 - f.lo)) : (s.setF f n y).f f n = y :=
  (State.f_setF_self s f n y hf).trans (Nat.mod_eq_of_lt hy)

theorem smapErase_none {β : Type} {m : SMap (Option β)} : smapGet (fun _ => none) (smapErase m n) n = none :=
  (smapGet_erase ..).trans (if_pos rfl)

theorem dieUp_on : (dieUp n s).f F.PWR_DIE_STATE n = 2 ∧ smapGet (fun _ => none) (dieUp n s).dieTrans n = none := by
  unfold dieUp
  extract_lets u
  generalize hz : ({ u with dieTrans := smapErase u.dieTrans n } : State) = z
  have hregs : z.regs = u.regs := by rw [← hz]
  have hst : z.f F.PWR_DIE_STATE n = 2 := by
    rw [State.f_of_regs hregs, State.f_setF_ne _ _ _ _ _ _ (by decide) (by decide)]
    exact State.f_setF_lt (by decide) (by decide)
  have htr : smapGet (fun _ => none) z.dieTrans n = none := by rw [← hz, smapErase_none]
  rw [(only_batDieUp (Nat.and_self _) (.refl _ _)).f_eq rfl, limitSet_die rfl (by decide) (by decide),
    (only_pkgStateSet (Nat.and_self _) (.refl _ _)).f_eq rfl, (only_batDieUp (Nat.and_self _) (.refl _ _)).dieTrans_eq rfl,
    (only_limitSet (Nat.and_self _) (.refl _ _)).dieTrans_eq rfl,
    (only_pkgStateSet (Nat.and_self _) (.refl _ _)).dieTrans_eq rfl]
  exact ⟨hst, htr⟩

/-- What PWR_DIE shows of a die that is not ON. -/
theorem dieState_die (hx : x < 4) : (dieState n x s).f F.PWR_DIE_STATE n = x ∧ (dieState n x s).f F.PWR_DIE_FREQ_EFF n = 0 := by
  unfold dieState
  generalize hz : (s.setF F.PWR_DIE_STATE n x).setF F.PWR_DIE_FREQ_EFF n 0 = z
  have hkept (f : Fld) (hr : f.reg = .PWR_DIE) (hf : f.hi < 64) (hl : f.hi < 2 ∨ 2 < f.lo) :
      (limitSet (pkgStateSet (chainLeave n (freqDrop n 0 z)))).f f n = z.f f n := by
    rw [limitSet_die hr hf hl, (only_pkgStateSet (Nat.and_self _) (.refl _ _)).f_eq (by rw [hr]; rfl),
      (only_chainLeave (Nat.and_self _) (.refl _ _)).f_eq (by rw [hr]; rfl),
      (only_freqDrop (Nat.and_self _) (.refl _ _)).f_eq (by rw [hr]; rfl)]
  rw [hkept _ rfl (by decide) (by decide), hkept _ rfl (by decide) (by decide), ← hz]
  constructor
  · rw [State.f_setF_ne _ _ _ _ _ _ (by decide) (by decide)]
    exact State.f_setF_lt (by decide) hx
  · exact State.f_setF_lt (by decide) (by decide)

theorem State.setBr_f {b : Bridge} : (s.setBr k b).f f n = s.f f n := rfl

theorem bridgeDown_state : (bridgeDown n k s).f F.BR_STATUS_STATE n = 0 := by
  unfold bridgeDown
  dsimp only
  rw [halfConflict, State.setB, State.f_setF_ne _ _ _ _ _ _ (by decide) (by decide), State.setBr_f,
    State.f_setF_ne _ _ _ _ _ _ (by decide) (by decide), State.f_setF_ne _ _ _ _ _ _ (by decide) (by decide)]
  exact State.f_setF_lt (by decide) (by decide)

theorem bridgeDown_dieTrans : (bridgeDown n k s).dieTrans = s.dieTrans := by simp [bridgeDown, halfConflict, State.setBr]

/-- A die that is gone is OFF, without a clock or a transition, and its bridge is DOWN. -/
theorem dieGone_off : ((dieGone n s).f F.PWR_DIE_STATE n = 0 ∧ (dieGone n s).f F.PWR_DIE_FREQ_EFF n = 0) ∧
    smapGet (fun _ => none) (dieGone n s).dieTrans n = none ∧ (dieGone n s).f F.BR_STATUS_STATE n = 0 := by
  unfold dieGone
  extract_lets busy u1 u2 u3 b z
  have htr : smapGet (fun _ => none) z.dieTrans n = none := smapErase_none
  clear_value z
  refine ⟨dieState_die (by decide), ?_, ?_⟩
  · rw [(only_dieState (Nat.and_self _) (.refl _ _)).dieTrans_eq rfl, bridgeDown_dieTrans, htr]
  · rw [(only_dieState (Nat.and_self _) (.refl _ _)).f_eq rfl, bridgeDown_state]

theorem transReq_die {status : Nat} {o : Option DieTrans} (hr : f.reg ≠ .PWR_REQ_STATUS) :
    (transReq o status s).f f n = s.f f n := by
  unfold transReq
  split
  · split
    · rw [reqDone, State.setB, State.f_setF_reg _ hr, State.setB, State.f_setF_reg _ hr, State.f_setF_reg _ hr]
    · rfl
  · rfl

theorem transReq_dieTrans {status : Nat} {o : Option DieTrans} : (transReq o status s).dieTrans = s.dieTrans :=
  (only_transReq (Nat.and_self _) (.refl _ s)).dieTrans_eq rfl

theorem exec_dieTransitionDone {l : List BistRow} : exec (.dieTransitionDone n l) s = execDieTransitionDone n l s := rfl

/-- The end of a return from GATED. -/
theorem dieTransitionDone_up {l : List BistRow} (hd : smapGet (fun _ => none) s.dieTrans n = some d) (hk : d.kind = 3)
    (hpkg : s.pkgEnd = none) (hbr : bridgeActive n s = true) (hrep : released s = true → replicaReady n s = true) :
    exec (.dieTransitionDone n l) s = .next (transReq (some d) 0 (dieUp n s)) := by
  have hready : (released s && !replicaReady n s) = false := by
    cases e : released s with
    | false => rfl
    | true => rw [hrep e]; rfl
  rw [exec_dieTransitionDone]
  simp [execDieTransitionDone, hd, hk, hpkg, hbr, hready]

/-- The end of a die that goes OFF, its caches flushed. -/
theorem dieTransitionDone_off {l : List BistRow} (hd : smapGet (fun _ => none) s.dieTrans n = some d) (hk : d.kind = 0)
    (hport : d.onPort = none) (hpkg : s.pkgEnd = none) (hfl : (dieFlush n s).1 = true) :
    exec (.dieTransitionDone n l) s = .next (transReq (some d) 0 (dieGone n (dieFlush n s).2)) := by
  have hpair : dieFlush n s = (true, (dieFlush n s).2) := by rw [← hfl]
  rw [exec_dieTransitionDone, execDieTransitionDone, hd]
  dsimp only
  rw [if_neg (by simp [hpkg]), if_pos (.inl hk), hpair]
  dsimp only
  rw [if_neg (by omega), if_pos hk, dieAfter, hport]

/-! ## Frequencies -/

theorem exec_frequencyChangeDone : exec (.frequencyChangeDone n) s = execFrequencyChangeDone n s := rfl

theorem freqCap_lt (hx : x < 256) : freqCap n s x < 256 := by
  unfold freqCap
  split
  · exact lt_of_le_of_lt (Nat.min_le_right ..) hx
  · exact hx

/-- The frequency x of die n in effect, its change no longer under way. -/
def freqTaken (n x : Nat) (s : State) : State :=
  limitSet (({ s with freqGoal := smapErase s.freqGoal n } : State).setF F.PWR_DIE_FREQ_EFF n x)

theorem freqTaken_eff (hx : x < 256) : (freqTaken n x s).f F.PWR_DIE_FREQ_EFF n = x := by
  rw [freqTaken, limitSet_die rfl (by decide) (by decide)]
  exact State.f_setF_lt (by decide) hx

theorem freqTaken_goal : smapGet (fun _ => none) (freqTaken n x s).freqGoal n = none := by
  rw [freqTaken, (only_limitSet (Nat.and_self _) (.refl _ _)).freqGoal_eq rfl, State.setF_freqGoal, smapErase_none]

theorem frequencyChangeDone_takes {p : Option Nat} (hg : smapGet (fun _ => none) s.freqGoal n = some (x, p))
    (hon : dieOn n s = true) (hpl : s.b F.PWR_STATUS_PLOCK 0 = false) (hlim : s.b F.PWR_STATUS_LIMITING 0 = false) :
    exec (.frequencyChangeDone n) s =
      .next (p.elim (freqTaken n (freqCap n s x) s) fun k => reqDone k 0 (freqTaken n (freqCap n s x) s)) := by
  set z : State := { s with freqGoal := smapErase s.freqGoal n } with hz
  have hregs : z.regs = s.regs := by rw [hz]
  have hcap : freqCap n z x = freqCap n s x := by rw [hz]; rfl
  have hon : dieOn n z = true := by rw [dieOn, State.f_of_regs hregs]; exact hon
  have hpl : z.b F.PWR_STATUS_PLOCK 0 = false := (State.b_of_regs hregs).trans hpl
  have hlim : z.b F.PWR_STATUS_LIMITING 0 = false := (State.b_of_regs hregs).trans hlim
  rw [exec_frequencyChangeDone]
  simp only [execFrequencyChangeDone, hg, ← hz, hcap, hon, hpl, hlim, freqTaken]
  cases p <;> rfl

/-! ## Phase lock -/

/-- A write of PWR_CTRL sets PLOCK_REQ (bit 8). -/
theorem write_plockReq {old : Word} : bit (Reg.write .PWR_CTRL false old v) 8 = bit v 8 := by
  have hmask : (Row.mask ⟨24, 16, .rwl, 0x190⟩).getLsbD 8 = false ∧ (Row.mask ⟨8, 8, .rw, 0⟩).getLsbD 8 = true ∧
      (Row.mask ⟨5, 4, .rwl, 0⟩).getLsbD 8 = false ∧ (Row.mask ⟨0, 0, .w1s, 0⟩).getLsbD 8 = false := by decide
  obtain ⟨h24, h8, h5, h0⟩ := hmask
  have hrows : Reg.rows .PWR_CTRL = [⟨24, 16, .rwl, 0x190⟩, ⟨8, 8, .rw, 0⟩, ⟨5, 4, .rwl, 0⟩, ⟨0, 0, .w1s, 0⟩] := rfl
  simp only [Reg.write, hrows, List.foldl_cons, List.foldl_nil, Row.write, Bool.false_eq_true, if_false, bit, BitVec.getLsbD_or,
    BitVec.getLsbD_and, BitVec.getLsbD_not, h24, h8, h5, h0]
  simp

/-- PWR_CTRL as it reads after a write of v while LOCK is 0. -/
theorem wr_plockReq (hl : s.b F.PWR_CTRL_LOCK 0 = false) : (s.wr .PWR_CTRL 0 v).b F.PWR_CTRL_PLOCK_REQ 0 = bit v 8 := by
  rw [State.b_eq_bit rfl, State.wr, lockedReg, hl, State.r_setR_self, write_plockReq]

/-- A write that sets PLOCK_REQ enters phase lock. -/
theorem pwrCtrlWrite_enters (hl : s.b F.PWR_CTRL_LOCK 0 = false) (hreq : s.b F.PWR_CTRL_PLOCK_REQ 0 = false)
    (hpkg : s.pkgEnd = none) (hv : bit v 8 = true) : pwrCtrlWrite v s = plockOn (s.wr .PWR_CTRL 0 v) := by
  have hend : (s.wr .PWR_CTRL 0 v).pkgEnd = none := hpkg
  simp only [pwrCtrlWrite, wr_plockReq hl, hv, hreq, hend, Bool.not_false, Bool.and_self, if_true, Option.isSome_none,
    Bool.false_eq_true, if_false]

/-- A write that clears PLOCK_REQ leaves phase lock. -/
theorem pwrCtrlWrite_leaves (hl : s.b F.PWR_CTRL_LOCK 0 = false) (hreq : s.b F.PWR_CTRL_PLOCK_REQ 0 = true)
    (hv : bit v 8 = false) : pwrCtrlWrite v s = plockOff (s.wr .PWR_CTRL 0 v) := by
  simp only [pwrCtrlWrite, wr_plockReq hl, hv, hreq, Bool.not_true, Bool.not_false, Bool.and_self, Bool.false_eq_true,
    if_false, if_true]

theorem plockOn_req : (plockOn s).b F.PWR_CTRL_PLOCK_REQ 0 = s.b F.PWR_CTRL_PLOCK_REQ 0 :=
  (only_plockOn (Nat.and_self _) (.refl _ s)).b_eq rfl 0

theorem plockOff_req : (plockOff s).b F.PWR_CTRL_PLOCK_REQ 0 = s.b F.PWR_CTRL_PLOCK_REQ 0 :=
  (only_plockOff (Nat.and_self _) (.refl _ s)).b_eq rfl 0

theorem wr_dieOn : dieOn n (s.wr .PWR_CTRL 0 v) = dieOn n s := by
  rw [dieOn, State.wr, State.setR_f_reg (by decide), dieOn]

theorem exec_plockEnter : exec (.plockEnter a v) s = .next (guarded a true .PWR_CTRL 0 (pwrCtrlWrite (v ||| 0x100#64)) s) :=
  rfl

theorem exec_plockLeave : exec (.plockLeave a v) s = .next (guarded a true .PWR_CTRL 0 (pwrCtrlWrite (v &&& ~~~ 0x100#64)) s) :=
  rfl

theorem plockOverTimeout_leaves (hp : s.b F.PWR_STATUS_PLOCK 0 = true) (hx : 1000 ≤ s.excess) :
    exec .plockOverTimeout s = .next (plockOff s) := by
  show execPlockOverTimeout s = _
  simp [execPlockOverTimeout, hp, hx]

theorem plockReentry_enters (hp : s.b F.PWR_STATUS_PLOCK 0 = false) (hreq : s.b F.PWR_CTRL_PLOCK_REQ 0 = true)
    (hpkg : s.pkgEnd = none) (hx : 10000 ≤ s.fine) : exec .plockReentry s = .next (plockOn s) := by
  show execPlockReentry s = _
  simp [execPlockReentry, hp, hreq, hpkg, hx]

/-! ## Temperature -/

/-- A die throttled one step, phase lock left. -/
def throttled (n temp : Nat) (s : State) : State :=
  let u := plockOff { s.setF F.PWR_DIE_TEMP n temp with fine := 0 }
  limitSet (u.setF F.PWR_DIE_FREQ_EFF n (max 8 (u.f F.PWR_DIE_FREQ_EFF n - 1)))

theorem exec_throttle : exec (.throttle n x) s = execThrottle n x s := rfl

theorem throttle_hot (hx : 100 ≤ x) (hon : dieOn n s = true) : exec (.throttle n x) s = .next (throttled n x s) := by
  have hon : dieOn n (s.setF F.PWR_DIE_TEMP n x) = true := by
    rw [dieOn, State.f_setF_ne _ _ _ _ _ _ (by decide) (by decide)]
    exact hon
  rw [exec_throttle, execThrottle]
  simp only [hon, Bool.not_true, Bool.false_or, decide_eq_true_eq, if_neg (Nat.not_lt.mpr hx)]
  rfl

theorem throttle_cool (hx : x < 100) : exec (.throttle n x) s = .next (s.setF F.PWR_DIE_TEMP n x) := by
  rw [exec_throttle, execThrottle]
  simp [hx]

theorem throttled_state : (throttled n x s).b F.PWR_STATUS_PLOCK 0 = false ∧ (throttled n x s).f F.PWR_DIE_TEMP n = x % 256 ∧
    (s.b F.PWR_STATUS_PLOCK 0 = false →
      (throttled n x s).f F.PWR_DIE_FREQ_EFF n = max 8 (s.f F.PWR_DIE_FREQ_EFF n - 1)) := by
  unfold throttled
  generalize hz : ({ s.setF F.PWR_DIE_TEMP n x with fine := 0 } : State) = z
  have hregs : z.regs = (s.setF F.PWR_DIE_TEMP n x).regs := by rw [← hz]
  dsimp only
  refine ⟨?_, ?_, fun hp => ?_⟩
  · rw [limitSet_plock, State.b_setF_reg (by decide)]
    exact plockOff_unlocks
  · rw [limitSet_die rfl (by decide) (by decide), State.f_setF_ne _ _ _ _ _ _ (by decide) (by decide),
      plockOff_die rfl (by decide) (by decide) (by decide), State.f_of_regs hregs]
    exact State.f_setF_self _ _ _ _ (by decide)
  · have hoff : plockOff z = z := plockOff_off (by rw [State.b_of_regs hregs, State.b_setF_reg (by decide)]; exact hp)
    have heff : z.f F.PWR_DIE_FREQ_EFF n = s.f F.PWR_DIE_FREQ_EFF n := by
      rw [State.f_of_regs hregs, State.f_setF_ne _ _ _ _ _ _ (by decide) (by decide)]
    have hlt : s.f F.PWR_DIE_FREQ_EFF n < 256 := Nat.mod_lt _ (by decide)
    rw [limitSet_die rfl (by decide) (by decide), hoff, heff]
    refine State.f_setF_lt (by decide) ?_
    show _ < 256
    omega

theorem exec_thermalTrip : exec (.thermalTrip n x) s = execThermalTrip n x s := rfl

/-- A die that trips is gone (R522). -/
theorem thermalTrip_die (hn : n ≠ 12) (hx : 115 ≤ x) (hst : s.f F.PWR_DIE_STATE n ≠ 0) :
    ∃ u, exec (.thermalTrip n x) s = .next ((dieGone n u).setB F.PWR_STATUS_OVERTEMP 0 true) := by
  rw [exec_thermalTrip, execThermalTrip, if_neg (Nat.not_lt.mpr hx), if_neg hn, if_neg hst]
  exact ⟨_, rfl⟩

/-- The IOD that trips takes the package with it. -/
theorem thermalTrip_package (hx : 115 ≤ x) : ∃ t, exec (.thermalTrip 12 x) s = .next t ∧ t.pkgOff = true := by
  rw [exec_thermalTrip, execThermalTrip, if_neg (Nat.not_lt.mpr hx), if_pos rfl]
  cases hoff : s.pkgOff with
  | true => exact ⟨s, rfl, hoff⟩
  | false => exact ⟨goOff s, rfl, rfl⟩

theorem thermalTrip_cool (hx : x < 115) : exec (.thermalTrip n x) s = .next s := by
  rw [exec_thermalTrip, execThermalTrip, if_pos hx]

end

/-- Settles O12: a core enters GATED through coreGating and leaves it through gateLeave, a die ends its transition in dieUp
or dieGone, and of the registers that the power controller shows the limits and the clocks change their own fields alone. -/
theorem diesCoresAndClocks : Obligations.DiesCoresAndClocks := by
  refine ⟨fun h w s hmay hex hon hdr hport hpkg hheld => ?_,
    fun n pos h w s hat hmay hex hon hdr hport hpkg hheld => ?_, fun n pos h w s hat hon hst hw => ?_,
    fun n pos h w s hat hon hst hdr hheld => ⟨_, powerCommand_gate hat hon hst hdr hheld, coreGating_st⟩,
    fun h w s hst hdr hout => ⟨_, gatedEntryDone_ends hst hdr hout, gatedIn_st⟩,
    fun h b s hex hon hh hst hirq => ⟨_, coreWake_runs hex hon hh hst hirq, congrArg Hart.st State.onHart_hart⟩,
    fun h b sto s hex hon hh hst hend => ⟨_, coreWake_wrs hex hon hh hst hend, congrArg Hart.st State.onHart_hart⟩,
    fun h b s hex hon hh hst hirq => ⟨_, coreWake_gated hex hon hh hst hirq, congrArg Hart.st State.onHart_hart⟩,
    fun n l d s hd hk hpkg hbr hrep => ?_, fun n l d s hd hk hport hpkg hfl _ => ?_,
    fun n x p s hg hon hpl hlim hx => ?_, fun a v s ha hl hreq hpkg => ?_, fun a v s ha hl hreq => ?_,
    fun s hp hx => ⟨_, plockOverTimeout_leaves hp hx, plockOff_unlocks⟩,
    fun s hp hreq hpkg hx => ⟨_, plockReentry_enters hp hreq hpkg hx, plockOn_locks⟩,
    fun n x s hx hon hp => ?_, fun n x s hx hon hp => ?_, fun n x s hx => ⟨_, throttle_cool hx, rfl⟩,
    fun n x s hn hx hst => ?_, fun x s hx => thermalTrip_package hx, fun n x s hx => ⟨_, thermalTrip_cool hx, rfl⟩⟩
  · refine ⟨coreAsks h s, rfl, ?_⟩
    dsimp only
    rw [coreAsks_gates hmay hex hon hdr hport hpkg hheld, coreGating_busy, gateAsked_busy]
    exact ⟨coreGating_st, rfl⟩
  · refine ⟨_, powerRequest_asks hat, ?_⟩
    dsimp only
    rw [coreAsks_gates hmay hex hon hdr hport hpkg hheld, coreGating_busy, gateAsked_busy]
    exact ⟨coreGating_st, rfl⟩
  · refine ⟨_, powerCommand_on hat hon, ?_⟩
    dsimp only
    rw [gateLeave_gated hst]
    exact coreOn_gated hst hw
  · refine ⟨_, dieTransitionDone_up hd hk hpkg hbr hrep, ?_⟩
    dsimp only
    rw [transReq_die (by decide), transReq_dieTrans]
    exact dieUp_on
  · refine ⟨_, dieTransitionDone_off hd hk hport hpkg hfl, ?_⟩
    dsimp only
    rw [transReq_die (by decide), transReq_die (by decide), transReq_die (by decide), transReq_dieTrans]
    obtain ⟨⟨hst, heff⟩, htr, hbr⟩ := dieGone_off (n := n) (s := (dieFlush n s).2)
    exact ⟨hst, heff, htr, hbr⟩
  · refine ⟨_, frequencyChangeDone_takes hg hon hpl hlim, ?_⟩
    cases p with
    | none => exact ⟨freqTaken_eff (freqCap_lt hx), freqTaken_goal⟩
    | some k =>
      dsimp only [Option.elim]
      rw [reqDone_die rfl, (only_reqDone (Nat.and_self _) (.refl _ _)).freqGoal_eq rfl]
      exact ⟨freqTaken_eff (freqCap_lt hx), freqTaken_goal⟩
  · refine gives_of_allowed exec_plockEnter ha ?_
    have hv : bit (v ||| 0x100#64) 8 = true := by simp [bit]
    rw [pwrCtrlWrite_enters (s := s.answer 0) hl hreq hpkg hv, plockOn_req]
    obtain ⟨hlock, hall⟩ := plockOn_locks (s := (s.answer 0).wr .PWR_CTRL 0 (v ||| 0x100#64))
    simp only [wr_dieOn] at hall
    exact ⟨(wr_plockReq (s := s.answer 0) hl).trans hv, hlock, hall⟩
  · refine gives_of_allowed exec_plockLeave ha ?_
    have hv : bit (v &&& ~~~ 0x100#64) 8 = false := by simp [bit]
    rw [pwrCtrlWrite_leaves (s := s.answer 0) hl hreq hv, plockOff_req]
    exact ⟨(wr_plockReq (s := s.answer 0) hl).trans hv, plockOff_unlocks⟩
  · obtain ⟨-, htemp, heff⟩ := throttled_state (n := n) (x := x) (s := s)
    exact ⟨_, throttle_hot hx hon, heff hp, htemp⟩
  · obtain ⟨hlock, htemp, -⟩ := throttled_state (n := n) (x := x) (s := s)
    exact ⟨_, throttle_hot hx hon, hlock, htemp⟩
  · obtain ⟨u, hu⟩ := thermalTrip_die hn hx hst
    obtain ⟨⟨hoff, -⟩, -, hbr⟩ := dieGone_off (n := n) (s := u)
    refine ⟨_, hu, ?_, State.b_setB_self (by decide) (by decide), ?_⟩
    · rw [State.setB, State.f_setF_reg _ (by decide)]
      exact hoff
    · rw [State.setB, State.f_setF_reg _ (by decide)]
      exact hbr

end Sys2Proof.Machine

/-! # What the commands of the caches, the home agents and the memory controllers leave alone

As for the commands of the phase reference and the harts, the lists of each frame take in what the lemma of its command
names. -/

namespace Sys2Proof.Machine

/-- Settles O51: the lists of each frame take in what the lemma of its command names. -/
theorem memoryCommandFrames : Obligations.MemoryCommandFrames :=
  ⟨fun _ _ => frame_of_sub rfl fun hW => only_execRangeClean hW,
  fun _ _ => frame_of_sub rfl fun hW => only_execRangeInval hW,
  fun _ _ => frame_of_sub rfl fun hW => only_execRangeCleanInval hW,
  fun _ _ => frame_of_sub rfl fun hW => only_execRangePreload hW,
  fun _ => frame_of_sub rfl fun hW => only_execRangeCommandDone hW,
  fun _ _ _ _ => frame_of_sub rfl fun hW => only_execLockRangeWrite hW,
  fun _ _ _ => frame_of_sub rfl fun hW => only_execCacheDisable hW,
  fun _ => frame_of_sub rfl fun hW => only_execL2DrainComplete hW,
  fun _ _ _ => frame_of_sub rfl fun hW => only_execCacheEnable hW,
  -- The slice of the L3, asked by a core.
  fun _ => frame_of_sub rfl fun hW => only_execRdS hW,
  fun _ => frame_of_sub rfl fun hW => only_execRdX hW,
  fun _ => frame_of_sub rfl fun hW => only_execUpgL3 hW,
  fun _ => frame_of_sub rfl fun hW => only_execRdOnce hW,
  fun _ => frame_of_sub rfl fun hW => only_execWrPart hW,
  fun _ => frame_of_sub rfl fun hW => only_execWbL hW,
  fun _ => frame_of_sub rfl fun hW => only_execEvL hW,
  fun _ => frame_of_sub rfl fun hW => only_execSnpL hW,
  fun _ => frame_of_sub rfl fun hW => only_execSnpLX hW,
  fun _ => frame_of_sub rfl fun hW => only_execInvL hW,
  -- The home agent, asked by a slice.
  fun _ _ _ => frame_of_sub rfl fun hW => only_execGetS hW,
  fun _ _ _ => frame_of_sub rfl fun hW => only_execGetX hW,
  fun _ _ _ => frame_of_sub rfl fun hW => only_execUpgHA hW,
  fun _ _ _ => frame_of_sub rfl fun hW => only_execGetXZ hW,
  fun _ _ _ => frame_of_sub rfl fun hW => only_execCboC hW,
  fun _ _ _ => frame_of_sub rfl fun hW => only_execCboF hW,
  fun _ _ _ => frame_of_sub rfl fun hW => only_execAtmH hW,
  fun _ _ _ => frame_of_sub rfl fun hW => only_execRdNC hW,
  fun _ _ _ => frame_of_sub rfl fun hW => only_execWrNC hW,
  fun _ => frame_of_sub rfl fun hW => only_execWbM hW,
  fun _ => frame_of_sub rfl fun hW => only_execWbC hW,
  fun _ => frame_of_sub rfl fun hW => only_execEvC hW,
  -- Snoops of a slice, and the answers to them.
  fun _ => frame_of_sub rfl fun hW => only_execSnpS hW,
  fun _ => frame_of_sub rfl fun hW => only_execSnpX hW,
  fun _ => frame_of_sub rfl fun hW => only_execSnpC hW,
  fun _ => frame_of_sub rfl fun hW => only_execInv hW,
  fun _ => frame_of_sub rfl fun hW => only_execRcl hW,
  fun _ => frame_of_sub rfl fun hW => only_execRspI hW,
  fun _ => frame_of_sub rfl fun hW => only_execRspS hW,
  fun _ => frame_of_sub rfl fun hW => only_execRspFwdS hW,
  fun _ => frame_of_sub rfl fun hW => only_execRspFwdI hW,
  fun _ => frame_of_sub rfl fun hW => only_execRspRclD hW,
  fun _ => frame_of_sub rfl fun hW => only_execRspWbP hW,
  -- Data and acknowledgements, and the losses of a packet or a die.
  fun _ => frame_of_sub rfl fun hW => only_execFwdData hW,
  fun _ => frame_of_sub rfl fun hW => only_execDataE hW,
  fun _ => frame_of_sub rfl fun hW => only_execDataF hW,
  fun _ => frame_of_sub rfl fun hW => only_execGntX hW,
  fun _ => frame_of_sub rfl fun hW => only_execWbAck hW,
  fun _ => frame_of_sub rfl fun hW => only_execEvAck hW,
  fun _ => frame_of_sub rfl fun hW => only_execCmpAck hW,
  fun _ => frame_of_sub rfl fun hW => only_execPacketUnknownOpcode hW,
  fun _ _ => frame_of_sub rfl fun hW => only_execTenureEnd hW,
  fun _ => frame_of_sub rfl fun hW => only_execDieLost hW,
  -- The memory controllers.
  fun _ _ _ _ _ => frame_of_sub rfl fun hW => only_execBankRefresh hW,
  fun _ _ => frame_of_sub rfl fun hW => only_execZqCalibration hW,
  fun _ _ _ => frame_of_sub rfl fun hW => only_execMr4Read hW,
  fun _ _ _ => frame_of_sub rfl fun hW => only_execDqsOscillatorRead hW,
  fun _ => frame_of_sub rfl fun hW => only_execHpPromotion hW,
  fun _ => frame_of_sub rfl fun hW => only_execDramReadComplete hW,
  fun _ _ _ _ => frame_of_sub rfl fun hW => only_execCreditWrite hW,
  fun _ _ => frame_of_sub rfl fun hW => only_execPowerDownEntry hW,
  fun _ _ _ _ => frame_of_sub rfl fun hW => only_execRegionWrite hW,
  frame_of_sub rfl fun hW => only_execWorldWalkDone hW,
  fun _ _ => frame_of_sub rfl fun hW => only_execMcInit hW,
  frame_of_sub rfl fun hW => only_execMcInitDone hW,
  fun _ _ => frame_of_sub rfl fun hW => only_execScrubStep hW,
  frame_of_sub rfl fun hW => only_execLeak hW,
  fun _ => frame_of_sub rfl fun hW => only_execRawRead hW,
  fun _ => frame_of_sub rfl fun hW => only_execRawWrite hW,
  fun _ => frame_of_sub rfl fun hW => only_execEncode hW,
  fun _ => frame_of_sub rfl fun hW => only_execEncodePoison hW,
  fun _ _ _ => frame_of_sub rfl fun hW => only_execPageRetire hW,
  fun _ => frame_of_sub rfl fun hW => only_execWriteDrain hW⟩

end Sys2Proof.Machine

/-! # Phase instructions, deadline monitors and timed stores

What each instruction and event does is a lemma about the hart's registers, its monitors or its queue of timed stores. -/

namespace Sys2Proof.Machine

section
variable {s : State} {h k m n rd len src : Nat} {i : Issue} {t : Hart} {v w : Word}

/-! ## Results of an instruction -/

/-- An Xzdtime instruction that reads a replica runs while the replica is valid (R115). -/
theorem xtRun_valid {bad : Bool} {zeros : BitVec 32} {act : State → State} (hr : canSettle i s = true) (hx : XtOk i s)
    (hz : i.enc &&& zeros = 0) (hb : bad = false) (hv : replicaValid (hartDie i.hart s) s = true) :
    xtRun i (canSettle i s) zeros bad true act s = act s := by
  have hn : xtFault i zeros bad true s = none := (xtFault_ok hx hz hb).trans (if_neg (by simp [hv]))
  simp [xtRun, hr, hn]

theorem Issue.rd_lt : i.rd < 32 := Nat.mod_lt _ (by decide)

theorem Issue.mon_lt : i.mon < 4 := Nat.mod_lt _ (by decide)

theorem putX_hart : (putX h rd v s).hart h = (s.hart h).setX rd v := State.onHart_hart

theorem unstall_hart : (unstall h len s).hart h = { (s.hart h).past len with stall := .none } := State.onHart_hart

/-- An instruction that has written rd passes. -/
theorem pass_writes (hu : s.hart i.hart = t.setX i.rd v) (hpc : t.pc = i.pc) :
    ((pass i s).hart i.hart).getX i.rd = (if i.rd = 0 then 0 else v) ∧ Moved i (pass i s) := by
  refine ⟨?_, moved_of_pass (by rw [hu, Hart.setX_pc, hpc])⟩
  rw [pass_hart, Hart.past_getX, hu, Hart.getX_setX Issue.rd_lt]

/-- A stalled instruction that has written rd completes. -/
theorem unstall_writes (hrd : rd < 32) (hu : s.hart h = t.setX rd v) :
    ((unstall h len s).hart h).stall = .none ∧ ((unstall h len s).hart h).getX rd = (if rd = 0 then 0 else v) ∧
    ((unstall h len s).hart h).pc = t.pc + BitVec.ofNat 64 len := by
  rw [unstall_hart]
  refine ⟨rfl, ?_, ?_⟩
  · show ((s.hart h).past len).getX rd = _
    rw [Hart.past_getX, hu, Hart.getX_setX hrd]
  · show ((s.hart h).past len).pc = _
    rw [Hart.past_pc, hu, Hart.setX_pc]

/-! ## PH.READ and PH.WAIT (R119 to R122) -/

section
variable (hs : canSettle i s = true) (hx : XtOk i s) (hsrc : i.src ≤ 8) (hv : replicaValid (hartDie i.hart s) s = true)
include hs hx hsrc hv

theorem phRead_reads (hz : i.enc &&& 0xFF0F8000#32 = 0) :
    Gives (.phRead i) s fun t =>
      (t.hart i.hart).getX i.rd = (if i.rd = 0 then 0 else replicaValue (hartDie i.hart s) i.src s) ∧ Moved i t := by
  refine ⟨_, rfl, ?_⟩
  rw [xtRun_valid hs hx hz (by simpa using hsrc) hv]
  exact pass_writes putX_hart (canIssue_pc (canSettle_issue hs))

theorem phWait_reached (hz : i.enc &&& 0xFF000000#32 = 0) (hw : phAfter w (replicaValue (hartDie i.hart s) i.src s) = false) :
    Gives (.phWait i w) s fun t =>
      (t.hart i.hart).getX i.rd = (if i.rd = 0 then 0 else replicaValue (hartDie i.hart s) i.src s) ∧ Moved i t := by
  refine ⟨_, rfl, ?_⟩
  rw [xtRun_valid hs hx hz (by simpa using hsrc) hv]
  simp only [hw, Bool.false_eq_true, if_false]
  exact pass_writes putX_hart (canIssue_pc (canSettle_issue hs))

theorem phWait_stalls (hz : i.enc &&& 0xFF000000#32 = 0) (hw : phAfter w (replicaValue (hartDie i.hart s) i.src s) = true) :
    Gives (.phWait i w) s fun t =>
      (t.hart i.hart).stall = .phWait i.rd i.src w i.len i.enc ∧ (t.hart i.hart).pc = (s.hart i.hart).pc ∧
      (t.hart i.hart).x = (s.hart i.hart).x := by
  refine ⟨_, rfl, ?_⟩
  rw [xtRun_valid hs hx hz (by simpa using hsrc) hv]
  simp only [hw, if_true, State.onHart_hart, and_self]

end

section
variable {enc : BitVec 32} (hst : (s.hart h).stall = .phWait rd src v len enc) (hrun : stallRuns h s = true)
include hst hrun

theorem phWaitComplete_reached (hv : replicaValid (hartDie h s) s = true)
    (hw : phAfter v (replicaValue (hartDie h s) src s) = false) (hrd : rd < 32) :
    Gives (.phWaitComplete h) s fun t =>
      (t.hart h).stall = .none ∧ (t.hart h).getX rd = (if rd = 0 then 0 else replicaValue (hartDie h s) src s) ∧
      (t.hart h).pc = (s.hart h).pc + BitVec.ofNat 64 len := by
  refine ⟨unstall h len (putX h rd (replicaValue (hartDie h s) src s) s), ?_, unstall_writes hrd putX_hart⟩
  show execPhWaitComplete h s = _
  simp [execPhWaitComplete, hst, hrun, hv, hw]

theorem phWaitComplete_lost (hv : replicaValid (hartDie h s) s = false) :
    Gives (.phWaitComplete h) s fun t =>
      (t.hart h).stall = .none ∧
      (t.hart h).trap = some { cause := 25, tval := BitVec.ofNat 64 enc.toNat, epc := (s.hart h).pc } := by
  refine ⟨phWaitLost h s, ?_, ?_⟩
  · show execPhWaitComplete h s = _
    simp [execPhWaitComplete, hst, hrun, hv]
  · simp only [phWaitLost, hst, State.onHart_hart, and_self]

end

/-! ## Deadline monitors (R132, R133) -/

/-- A bit of a field read after the field was written. -/
theorem bit_setBits {hi lo x : Nat} (hk : k < 64) (hin : lo ≤ k ∧ k ≤ hi) : bit (setBits v hi lo x) k = x.testBit (k - lo) := by
  rw [bit, setBits, fset_getLsbD _ _ _ _ hk, if_pos (by dsimp only; omega)]

/-- A part of a field read after the field was written. -/
theorem bits_setBits {hi lo x a b : Nat} (ha : a < 64) (hin : lo ≤ b ∧ a ≤ hi) :
    bits (setBits v hi lo x) a b = x / 2 ^ (b - lo) % 2 ^ (a + 1 - b) := by
  refine Nat.eq_of_testBit_eq fun j => ?_
  rw [show bits (setBits v hi lo x) a b = fget ⟨.PHE_TB, a, b⟩ (setBits v hi lo x) from rfl, fget_testBit,
    Nat.testBit_mod_two_pow, Nat.testBit_div_two_pow]
  by_cases hj : j < a + 1 - b
  · have hb := bit_setBits (v := v) (x := x) (lo := lo) (hi := hi) (k := b + j) (by omega) (by omega)
    rw [bit] at hb
    rw [hb, show b + j - lo = j + (b - lo) by omega]
  · simp [hj]

/-! A monitor is read in szddlctl, which the end of an instruction and a write of an integer register leave alone. -/

theorem Hart.monEn_eq : t.monEn m = bit (t.c CSR.szddlctl) (8 * m) := rfl
theorem Hart.miss_eq : t.miss m = bit (t.c CSR.szddlctl) (8 * m + 5) := rfl

theorem notPast_szddlctl : ¬ pastCsr CSR.szddlctl := by
  unfold pastCsr CSR.szddlctl
  omega

theorem Hart.past_monEn : (t.past n).monEn m = t.monEn m := by
  rw [Hart.monEn_eq, Hart.past_c notPast_szddlctl, Hart.monEn_eq]
theorem Hart.past_miss : (t.past n).miss m = t.miss m := by
  rw [Hart.miss_eq, Hart.past_c notPast_szddlctl, Hart.miss_eq]
theorem Hart.past_monSrc : (t.past n).monSrc m = t.monSrc m := by
  rw [Hart.monSrc, Hart.past_c notPast_szddlctl, Hart.monSrc]
theorem Hart.setX_monEn : (t.setX n v).monEn m = t.monEn m := by rw [Hart.monEn_eq, Hart.setX_c, Hart.monEn_eq]
theorem Hart.setX_miss : (t.setX n v).miss m = t.miss m := by rw [Hart.miss_eq, Hart.setX_c, Hart.miss_eq]

theorem Hart.arm_szddlctl : ∃ w, (t.arm m src v).c CSR.szddlctl = setBits w (8 * m + 5) (8 * m) (src * 2 + 1) :=
  ⟨_, Hart.c_setC.trans (if_pos rfl)⟩

theorem Hart.arm_monitor (hm : m < 4) (hsrc : src ≤ 8) : (t.arm m src v).monEn m = true ∧ (t.arm m src v).miss m = false ∧
    (t.arm m src v).monSrc m = src ∧ (t.arm m src v).c (0x5C0 + m) = v := by
  obtain ⟨w, hw⟩ := Hart.arm_szddlctl (t := t) (src := src) (v := v) (m := m)
  refine ⟨?_, ?_, ?_, ?_⟩
  · rw [Hart.monEn_eq, hw, bit_setBits (by omega) (by omega), Nat.sub_self, Nat.testBit_zero]
    simp
  · rw [Hart.miss_eq, hw, bit_setBits (by omega) (by omega), Nat.add_sub_cancel_left]
    exact Nat.testBit_lt_two_pow (by omega)
  · have hbits : 8 * m + 1 - 8 * m = 1 ∧ 8 * m + 4 + 1 - (8 * m + 1) = 4 := by omega
    rw [Hart.monSrc, hw, bits_setBits (by omega) (by omega), hbits.1, hbits.2]
    omega
  · have hne : 0x5C0 + m ≠ CSR.szddlctl := by
      unfold CSR.szddlctl
      omega
    show ((t.setC (0x5C0 + m) v).setC CSR.szddlctl _).c (0x5C0 + m) = v
    rw [Hart.c_setC, if_neg hne, Hart.c_setC, if_pos rfl]

theorem Hart.arm_pc : (t.arm m src v).pc = t.pc := rfl

theorem dlSet_arms (hs : canSettle i s = true) (hx : XtOk i s) (hz : i.enc &&& 0xFC000F80#32 = 0) (hsrc : i.src ≤ 8)
    (hv : replicaValid (hartDie i.hart s) s = true) :
    Gives (.dlSet i v) s fun t =>
      (t.hart i.hart).monEn i.mon = true ∧ (t.hart i.hart).miss i.mon = false ∧ (t.hart i.hart).monSrc i.mon = i.src ∧
      (t.hart i.hart).c (0x5C0 + i.mon) = v ∧ Moved i t := by
  refine ⟨_, rfl, ?_⟩
  rw [xtRun_valid hs hx hz (by simpa using hsrc) hv]
  have hval : ¬ pastCsr (0x5C0 + i.mon) := by
    have := Issue.mon_lt (i := i)
    unfold pastCsr
    omega
  obtain ⟨hen, hmiss, hsource, hvalue⟩ := Hart.arm_monitor (t := s.hart i.hart) (v := v) Issue.mon_lt hsrc
  refine ⟨?_, ?_, ?_, ?_, moved_of_pass ?_⟩
  · rw [pass_hart, Hart.past_monEn, State.onHart_hart, hen]
  · rw [pass_hart, Hart.past_miss, State.onHart_hart, hmiss]
  · rw [pass_hart, Hart.past_monSrc, State.onHart_hart, hsource]
  · rw [pass_hart, Hart.past_c hval, State.onHart_hart, hvalue]
  · rw [State.onHart_hart, Hart.arm_pc, canIssue_pc (canSettle_issue hs)]

/-- A monitor whose deadline has been missed. -/
def Hart.missed (t : Hart) (m : Nat) : Hart :=
  t.setC CSR.szddlctl (setBits (setBits (t.c CSR.szddlctl) (8 * m) (8 * m) 0) (8 * m + 5) (8 * m + 5) 1)

/-- A monitor without EN. -/
def Hart.disarmed (t : Hart) (m : Nat) : Hart := t.setC CSR.szddlctl (setBits (t.c CSR.szddlctl) (8 * m) (8 * m) 0)

theorem Hart.missed_monitor (hm : m < 4) : (t.missed m).miss m = true ∧ (t.missed m).monEn m = false := by
  rw [Hart.miss_eq, Hart.monEn_eq, Hart.missed, Hart.c_setC, if_pos rfl]
  refine ⟨bit_setBits_self (by omega), ?_⟩
  rw [bit_setBits_ne (by omega) (by omega)]
  exact bit_setBits_self (by omega)

theorem Hart.disarmed_monitor (hm : m < 4) : (t.disarmed m).monEn m = false ∧ (t.disarmed m).miss m = t.miss m := by
  rw [Hart.miss_eq, Hart.monEn_eq, Hart.disarmed, Hart.c_setC, if_pos rfl]
  exact ⟨bit_setBits_self (by omega), bit_setBits_ne (by omega) (by omega)⟩

theorem deadlineTest_disarmed (he : (s.hart h).monEn m = false) : deadlineTest h m s = s := by simp [deadlineTest, he]

theorem deadlineTest_missed (hm : m < 4) (he : (s.hart h).monEn m = true)
    (hp : replicaValid (hartDie h s) s = false ∨
      phBefore ((s.hart h).c (0x5C0 + m)) (replicaValue (hartDie h s) ((s.hart h).monSrc m) s) = true) :
    deadlineTest h m s = s.onHart h fun t => t.missed m := by
  have hc : (!replicaValid (hartDie h s) s ||
      phBefore ((s.hart h).c (0x5C0 + m)) (replicaValue (hartDie h s) ((s.hart h).monSrc m) s)) = true := by
    rcases hp with hp | hp <;> simp [hp]
  simp only [deadlineTest, hm, he, hc, decide_true, Bool.and_self, if_true]
  rfl

theorem deadlineTest_pc : ((deadlineTest h m s).hart h).pc = (s.hart h).pc := by
  unfold deadlineTest
  dsimp only
  split
  · rw [State.onHart_hart]
    rfl
  · rfl

/-- DL.CLR reads MISS and clears EN as the test of the same cycle leaves them. -/
theorem dlClr_reads (hs : canSettle i s = true) (hx : XtOk i s) (hz : i.enc &&& 0xFCFF8000#32 = 0) :
    Gives (.dlClr i) s fun t =>
      (t.hart i.hart).monEn i.mon = false ∧
      (t.hart i.hart).miss i.mon = ((deadlineTest i.hart i.mon s).hart i.hart).miss i.mon ∧
      (t.hart i.hart).getX i.rd =
        (if i.rd = 0 then 0 else if ((deadlineTest i.hart i.mon s).hart i.hart).miss i.mon then 1 else 0) ∧ Moved i t := by
  refine ⟨_, rfl, ?_⟩
  rw [xtRun_act hs hx hz]
  dsimp only
  generalize hu : deadlineTest i.hart i.mon s = u
  have hpc : (u.hart i.hart).pc = i.pc := by rw [← hu, deadlineTest_pc, canIssue_pc (canSettle_issue hs)]
  obtain ⟨hen, hmiss⟩ := Hart.disarmed_monitor (t := u.hart i.hart) Issue.mon_lt
  refine ⟨?_, ?_, pass_writes State.onHart_hart hpc⟩
  · rw [pass_hart, Hart.past_monEn, State.onHart_hart, Hart.setX_monEn]
    exact hen
  · rw [pass_hart, Hart.past_miss, State.onHart_hart, Hart.setX_miss]
    exact hmiss

theorem dlClr_unarmed (hs : canSettle i s = true) (hx : XtOk i s) (hz : i.enc &&& 0xFCFF8000#32 = 0)
    (he : (s.hart i.hart).monEn i.mon = false) :
    Gives (.dlClr i) s fun t =>
      (t.hart i.hart).monEn i.mon = false ∧
      (t.hart i.hart).getX i.rd = (if i.rd = 0 then 0 else if (s.hart i.hart).miss i.mon then 1 else 0) ∧ Moved i t := by
  obtain ⟨t, ht, hen, -, hrd, hmoved⟩ := dlClr_reads hs hx hz
  rw [deadlineTest_disarmed he] at hrd
  exact ⟨t, ht, hen, hrd, hmoved⟩

theorem dlClr_missed (hs : canSettle i s = true) (hx : XtOk i s) (hz : i.enc &&& 0xFCFF8000#32 = 0)
    (he : (s.hart i.hart).monEn i.mon = true)
    (hp : replicaValid (hartDie i.hart s) s = false ∨ phBefore ((s.hart i.hart).c (0x5C0 + i.mon))
      (replicaValue (hartDie i.hart s) ((s.hart i.hart).monSrc i.mon) s) = true) :
    Gives (.dlClr i) s fun t =>
      (t.hart i.hart).monEn i.mon = false ∧ (t.hart i.hart).miss i.mon = true ∧
      (t.hart i.hart).getX i.rd = (if i.rd = 0 then 0 else 1) := by
  obtain ⟨t, ht, hen, hmiss, hrd, -⟩ := dlClr_reads hs hx hz
  have hm : ((deadlineTest i.hart i.mon s).hart i.hart).miss i.mon = true := by
    rw [deadlineTest_missed Issue.mon_lt he hp, State.onHart_hart]
    exact (Hart.missed_monitor Issue.mon_lt).1
  rw [hm] at hmiss hrd
  exact ⟨t, ht, hen, hmiss, hrd⟩

theorem deadlineMiss_misses (hm : m < 4) (he : (s.hart h).monEn m = true)
    (hp : replicaValid (hartDie h s) s = false ∨
      phBefore ((s.hart h).c (0x5C0 + m)) (replicaValue (hartDie h s) ((s.hart h).monSrc m) s) = true) :
    Gives (.deadlineMiss h m) s fun t => (t.hart h).miss m = true ∧ (t.hart h).monEn m = false := by
  refine ⟨_, rfl, ?_⟩
  rw [deadlineTest_missed hm he hp]
  dsimp only
  rw [State.onHart_hart]
  exact Hart.missed_monitor hm

/-! ## The timed store queues (R123, R145) -/

section
variable {q : List TsEntry} {e : TsEntry} {f : Fld} {g : Reg} {j : Nat}

@[simp] theorem State.setTsQ_tsQ : (s.setTsQ h q).tsQ h = q := smapGet_set_self ..

theorem State.setTsQ_hart : (s.setTsQ h q).hart n = s.hart n := by
  obtain ⟨-, parts, -⟩ := only_State_setTsQ (ha := h) (q := q) (Nat.and_self _) (.refl _ s)
  exact State.hart_of_harts (parts .harts rfl)

theorem State.setTsQ_out : (s.setTsQ h q).out = s.out := by
  obtain ⟨-, parts, -⟩ := only_State_setTsQ (ha := h) (q := q) (Nat.and_self _) (.refl _ s)
  exact parts .msgs rfl

theorem State.onHart_tsQ {a : Hart → Hart} : (s.onHart n a).tsQ h = s.tsQ h := rfl

/-- Of the registers a change of a queue changes only the counts of PENDING. -/
theorem State.setTsQ_f (hf : f.hi < 64) (h4 : 4 < f.lo) : (s.setTsQ h q).f f j = s.f f j := by
  unfold State.setTsQ
  extract_lets
  rw [State.f_setF_ne _ _ _ _ _ _ hf (.inr h4), State.f_setF_ne _ _ _ _ _ _ hf (.inr h4)]
  rfl

theorem State.setTsQ_b (hf : f.hi < 64) (h4 : 4 < f.lo) : (s.setTsQ h q).b f j = s.b f j :=
  congrArg (· != 0) (State.setTsQ_f hf h4)

theorem State.setTsQ_r (hg : g ≠ .PHE_TSQ_STATUS) : (s.setTsQ h q).r g j = s.r g j :=
  (State.r_setF_reg hg).trans (State.r_setF_reg hg)

/-- An entry that is found has the number that was asked for. -/
theorem tsFind_id {p : TsEntry → Bool} (he : q.find? (fun x => x.id == k && p x) = some e) : e.id = k := by
  have hp := List.find?_some he
  simp only [Bool.and_eq_true, beq_iff_eq] at hp
  exact hp.1

/-- An entry that matches in time waits for its commit slot. -/
theorem tsMatch_inTime {inst : Word} : (tsMatch h e false inst s).tsQ h =
    (s.tsQ h).map fun x => if x.id = e.id then { x with stage := 2, inst := inst } else x := by
  simp only [tsMatch, Bool.false_and, Bool.false_eq_true, if_false, State.setTsQ_tsQ]

/-- A late entry with LD is discarded (R127). -/
theorem tsMatch_discards {inst : Word} (hld : e.info.ld = true) :
    (tsMatch h e true inst s).b F.PHE_TSQ_STATUS_LATE (tsIx h e.info.w) = true ∧
    (tsMatch h e true inst s).tsQ h = (s.tsQ h).filter fun x => x.id != e.id := by
  simp only [tsMatch, hld, Bool.and_self, if_true]
  refine ⟨?_, State.setTsQ_tsQ⟩
  rw [State.setTsQ_b (by decide) (by decide), State.satInc, State.satAdd, State.b_setF_ne (by decide) (by decide),
    State.satInc, State.satAdd, State.b_setF_ne (by decide) (by decide)]
  exact State.b_setB_self (by decide) (by decide)

/-! ## TS.STORE (R123 to R125) -/

@[simp] theorem sbCount_hart : (sbCount n s).hart h = s.hart h := by
  obtain ⟨-, parts, -⟩ := only_sbCount (ha := n) (Nat.and_self _) (.refl _ s)
  exact State.hart_of_harts (parts .harts rfl)

@[simp] theorem sbCount_tsQ : (sbCount n s).tsQ h = s.tsQ h := by
  obtain ⟨-, parts, -⟩ := only_sbCount (ha := n) (Nat.and_self _) (.refl _ s)
  rw [State.tsQ, parts .timed rfl, State.tsQ]

section
variable {x : TsInfo} {pbmt : Nat} {cls : TClass}

/-- The entry of a timed store in the store buffer. -/
def tsSbEntry (id : Nat) (x : TsInfo) (pbmt : Nat) (cls : TClass) : SbEntry :=
  { kind := .ts id, pa := x.pa, w := x.w, pbmt := pbmt, part := x.part, cls := cls, ea := x.pa }

theorem tsAlloc_eq : tsAlloc h x pbmt cls s =
    sbCount h ((s.setTsQ h (s.tsQ h ++ [⟨tsNewId h s, x, 0, 0⟩])).onHart h fun t =>
      { t with sb := t.sb ++ [tsSbEntry (tsNewId h s) x pbmt cls] }) := rfl

theorem tsAlloc_hart : (tsAlloc h x pbmt cls s).hart h =
    { s.hart h with sb := (s.hart h).sb ++ [tsSbEntry (tsNewId h s) x pbmt cls] } := by
  rw [tsAlloc_eq, sbCount_hart, State.onHart_hart, State.setTsQ_hart]

theorem tsAlloc_tsQ : (tsAlloc h x pbmt cls s).tsQ h = s.tsQ h ++ [⟨tsNewId h s, x, 0, 0⟩] := by
  rw [tsAlloc_eq, sbCount_tsQ, State.onHart_tsQ, State.setTsQ_tsQ]

end

section
variable {pa pbmt data : Nat} {va ph : Word} {y : Xlate}

theorem tsStore_runs (hs : canSettle i s = true) (hq : (s.hart i.hart).sb.length < 48) (hx : XtOk i s)
    (hz : i.enc &&& 0x00000800#32 = 0) : exec (.tsStore i va y data ph) s = .next (tsStoreDo i va y data ph s) :=
  congrArg Host.Outcome.next (xtRun_act (by simp [hs, sbRoom, hq]) hx hz)

section
variable (hxl : xlated i.hart .store va y s = .ok (pa, pbmt))
include hxl

theorem tsStoreDo_misaligned (hal : va.toNat % i.tsSize ≠ 0) : tsStoreDo i va y data ph s = raise i 6 va s := by
  have htgt : tsTarget pa i.tsSize va = some 6 := if_pos hal
  simp only [tsStoreDo, hxl, htgt]

variable (htgt : tsTarget pa i.tsSize va = none)
include htgt

theorem tsStoreDo_room (hlen : (s.tsQ i.hart).length < 16) : tsStoreDo i va y data ph s =
    pass i (tsAlloc i.hart ⟨pa, i.tsSize, data % 2 ^ (8 * i.tsSize), ph, i.tsSrc, i.tsLd, (s.hart i.hart).w,
      hartPart i.hart s⟩ pbmt i.cls s) := by
  simp only [tsStoreDo, hxl, htgt, hlen, if_true]

theorem tsStoreDo_full (hlen : 16 ≤ (s.tsQ i.hart).length) (hb : bit ((s.hart i.hart).c CSR.mzdtsq) 8 = true) :
    tsStoreDo i va y data ph s = raiseEnc i 24 s := by
  simp only [tsStoreDo, hxl, htgt, Nat.not_lt.mpr hlen, hb, if_true, if_false]

theorem tsStoreDo_stalls (hlen : 16 ≤ (s.tsQ i.hart).length) (hb : bit ((s.hart i.hart).c CSR.mzdtsq) 8 = false) :
    ∃ x, tsStoreDo i va y data ph s = s.onHart i.hart fun t => { t with stall := .tsFull x i.len pbmt i.cls } := by
  simp only [tsStoreDo, hxl, htgt, Nat.not_lt.mpr hlen, hb, Bool.false_eq_true, if_false]
  exact ⟨_, rfl⟩

end

theorem tsStore_allocates (hs : canSettle i s = true) (hxl : xlated i.hart .store va y s = .ok (pa, pbmt))
    (htgt : tsTarget pa i.tsSize va = none) (hlen : (s.tsQ i.hart).length < 16) :
    let t := tsStoreDo i va y data ph s
    t.tsQ i.hart = s.tsQ i.hart ++
      [⟨tsNewId i.hart s, ⟨pa, i.tsSize, data % 2 ^ (8 * i.tsSize), ph, i.tsSrc, i.tsLd, (s.hart i.hart).w,
        hartPart i.hart s⟩, 0, 0⟩] ∧
    (t.hart i.hart).sb.length = (s.hart i.hart).sb.length + 1 ∧ Moved i t := by
  intro t
  have ht : t = _ := tsStoreDo_room hxl htgt hlen
  rw [ht]
  refine ⟨?_, ?_, moved_of_pass ?_⟩
  · rw [pass, State.onHart_tsQ, tsAlloc_tsQ]
  · rw [pass_hart, Hart.past_sb, tsAlloc_hart, List.length_append, List.length_singleton]
  · rw [tsAlloc_hart]
    exact canIssue_pc (canSettle_issue hs)

/-- A timed store that waited for room enters the queue. -/
theorem tsStoreUnstall_allocates {x : TsInfo} {cls : TClass} (hst : (s.hart h).stall = .tsFull x len pbmt cls)
    (hrun : stallRuns h s = true) (hlen : (s.tsQ h).length < 16) (hq : (s.hart h).sb.length < 48) :
    Gives (.tsStoreUnstall h) s fun t =>
      (t.hart h).stall = .none ∧ (t.tsQ h).map (·.info) = (s.tsQ h).map (·.info) ++ [x] ∧
      (t.hart h).pc = (s.hart h).pc + BitVec.ofNat 64 len := by
  refine ⟨unstall h len (tsAlloc h x pbmt cls s), ?_, ?_⟩
  · show execTsStoreUnstall h s = _
    simp [execTsStoreUnstall, hst, hrun, hlen, sbRoom, hq]
  · dsimp only
    rw [unstall_hart]
    refine ⟨rfl, ?_, ?_⟩
    · rw [unstall, State.onHart_tsQ, tsAlloc_tsQ, List.map_append, List.map_singleton]
    · show (Hart.past _ len).pc = _
      rw [Hart.past_pc, tsAlloc_hart]

end

/-! ## Timed stores at the PHE (R126 to R128) -/

theorem take_timed (hm : s.out.contains (.timed h k) = true) : s.take (.timed h k) = unsent (.timed h k) s := if_pos hm

/-- The entry of number k in stage n. -/
def staged (k n : Nat) (q : List TsEntry) : List TsEntry := q.map fun x => if x.id = k then { x with stage := n } else x

/-- The state in which timed store k of hart h has reached the PHE. -/
def tsPending (h k : Nat) (s : State) : State := (unsent (.timed h k) s).setTsQ h (staged k 1 (s.tsQ h))

section
variable (hm : s.out.contains (.timed h k) = true) (hact : bridgeActive (hartDie h s) s = true)
  (hb : tsBehind h (.timed h k) s = false) (he : (s.tsQ h).find? (fun x => x.id == k && x.stage == 0) = some e)
include hm hact hb he

theorem timedStore_arrives : exec (.timedStore h k) s = .next
    (if sourceLive e.info.src s && !phAfter e.info.phase (sourceCount e.info.src s) then
      tsMatch h { e with stage := 1 } true s.tb (tsPending h k s)
    else tsPending h k s) := by
  have hlive : sourceLive e.info.src (tsPending h k s) = sourceLive e.info.src s := by
    unfold sourceLive
    rw [State.f, tsPending, State.setTsQ_r (by decide)]
    rfl
  have hcount : sourceCount e.info.src (tsPending h k s) = sourceCount e.info.src s := by
    unfold sourceCount
    rw [State.tb, tsPending, State.setTsQ_r (by decide), State.setTsQ_r (by decide)]
    rfl
  have htb : (tsPending h k s).tb = s.tb := by
    rw [State.tb, tsPending, State.setTsQ_r (by decide)]
    rfl
  have hq : (unsent (.timed h k) s).tsQ h = s.tsQ h := rfl
  have hpend : (unsent (.timed h k) s).setTsQ h ((s.tsQ h).map fun x => if x.id = k then { x with stage := 1 } else x) =
      tsPending h k s := rfl
  show execTimedStore h k s = _
  simp only [execTimedStore, take_timed hm, hm, hact, hb, hq, he, hpend, hlive, hcount, htb, Bool.not_true, Bool.or_self,
    Bool.false_eq_true, if_false]
  exact (apply_ite Host.Outcome.next _ _ _).symm

/-- While its port is not live or has not passed its phase, the timed store is pending. -/
theorem timedStore_pends (hlive : sourceLive e.info.src s = true → phAfter e.info.phase (sourceCount e.info.src s) = true) :
    Gives (.timedStore h k) s fun t => t.tsQ h = staged k 1 (s.tsQ h) ∧ t.out = s.out.erase (.timed h k) := by
  have hc : (sourceLive e.info.src s && !phAfter e.info.phase (sourceCount e.info.src s)) = false := by
    rw [Bool.and_eq_false_imp]
    exact fun hl => by rw [hlive hl]; rfl
  exact ⟨tsPending h k s, (timedStore_arrives hm hact hb he).trans (by rw [hc, if_neg Bool.false_ne_true]),
    State.setTsQ_tsQ, State.setTsQ_out⟩

theorem timedStore_late (hlive : sourceLive e.info.src s = true)
    (hph : phAfter e.info.phase (sourceCount e.info.src s) = false) (hld : e.info.ld = true) :
    Gives (.timedStore h k) s fun t =>
      t.b F.PHE_TSQ_STATUS_LATE (tsIx h e.info.w) = true ∧ (∀ x ∈ t.tsQ h, x.id ≠ k) := by
  have hid : e.id = k := tsFind_id he
  obtain ⟨hlate, hq⟩ := tsMatch_discards (e := { e with stage := 1 }) (h := h) (inst := s.tb) (s := tsPending h k s) hld
  have hc : (sourceLive e.info.src s && !phAfter e.info.phase (sourceCount e.info.src s)) = true := by rw [hlive, hph]; rfl
  refine ⟨tsMatch h { e with stage := 1 } true s.tb (tsPending h k s),
    (timedStore_arrives hm hact hb he).trans (by rw [if_pos hc]), hlate, fun x hx => ?_⟩
  have hne := (List.mem_filter.mp (hq ▸ hx)).2
  rw [hid] at hne
  simpa using hne

end

theorem timedStoreMatch_matches (he : (s.tsQ h).find? (fun x => x.id == k && x.stage == 1) = some e)
    (hlive : sourceLive e.info.src s = true)
    (hc : crosses 0 (sourcePrev e.info.src s) (sourceCount e.info.src s) e.info.phase = true) :
    Gives (.timedStoreMatch h k) s fun t =>
      t.tsQ h = (s.tsQ h).map (fun x => if x.id = k then
        { x with stage := 2, inst := matchInstant s.tb (sourcePrev e.info.src s) (sourceCount e.info.src s) e.info.phase }
        else x) := by
  refine ⟨tsMatch h e false (matchInstant s.tb (sourcePrev e.info.src s) (sourceCount e.info.src s) e.info.phase) s, ?_, ?_⟩
  · show execTimedStoreMatch h k s = _
    simp only [execTimedStoreMatch, he, hlive, hc, Bool.and_self, if_true]
  · dsimp only
    rw [tsMatch_inTime, tsFind_id he]

/-- The commit of a matched entry (R128). -/
def tsCommit (e : TsEntry) (s : State) : Packet :=
  { op := .wrIO, cls := .hp, w := e.info.w, part := e.info.part, src := pheAgent, dst := ioAgent (ioTarget e.info.pa s),
    addr := lineOf e.info.pa, data := true, mask := byteMask (e.info.pa % 64) e.info.size,
    payload := linePut 0 (e.info.pa % 64) e.info.size e.info.data }

theorem openTx_tsQ {own : TxOwner} {p : Packet} : (openTx own p s).tsQ h = s.tsQ h := by
  obtain ⟨-, parts, -⟩ := only_openTx (own := own) (p := p) (Nat.and_self _) (.refl _ s)
  rw [State.tsQ, parts .timed rfl, State.tsQ]

theorem timedStoreCommitIssue_issues (hn : tsNext s = some (h, e)) :
    Gives .timedStoreCommitIssue s fun t =>
      t.txs.getLast?.map (fun q => (q.own, q.op, q.addr)) = some (TxOwner.timed h e.id, Op.wrIO, lineOf e.info.pa) ∧
      t.tsQ h = staged e.id 3 (s.tsQ h) := by
  refine ⟨openTx (.timed h e.id) (tsCommit e (s.setTsQ h (staged e.id 3 (s.tsQ h)))) (s.setTsQ h (staged e.id 3 (s.tsQ h))),
    ?_, ?_, ?_⟩
  · show execTimedStoreCommitIssue s = _
    simp only [execTimedStoreCommitIssue, hn]
    rfl
  · have ht := openTx_txs (own := .timed h e.id) (p := tsCommit e (s.setTsQ h (staged e.id 3 (s.tsQ h))))
      (s := s.setTsQ h (staged e.id 3 (s.tsQ h)))
    have hm := congrArg (Option.map fun q : Op × Nat × Nat × TxOwner => (q.2.2.2, q.1, q.2.1)) ht
    rw [Option.map_map] at hm
    exact hm
  · rw [openTx_tsQ, State.setTsQ_tsQ]

end

/-! ## Cancels (R131) -/

/-- The message of a TS.CANCEL is sent, and the hart waits for its answer. -/
def tsCancelSent (i : Issue) (a : Option Nat) (s : State) : State :=
  (s.send (.tsCancel i.hart (s.hart i.hart).w a)).onHart i.hart fun t => { t with stall := .tsCancel i.rd i.len }

theorem tsCancelSent_waits {a : Option Nat} : (tsCancelSent i a s).out = s.out ++ [.tsCancel i.hart (s.hart i.hart).w a] ∧
    ((tsCancelSent i a s).hart i.hart).stall = .tsCancel i.rd i.len :=
  ⟨rfl, congrArg Hart.stall State.onHart_hart⟩

section
variable {va : Word} {y : Xlate} (hs : canSettle i s = true) (hx : XtOk i s) (hq : ∀ e ∈ s.tsQ i.hart, e.stage ≠ 0)
  (hz : i.enc &&& 0xFFF00000#32 = 0)
include hs hx hq hz

theorem tsCancelI_all (hr : i.rs1 = 0) : exec (.tsCancelI i va y) s = .next (tsCancelSent i none s) := by
  refine congrArg Host.Outcome.next ((xtRun_act ?_ hx hz).trans (if_pos hr))
  simpa [hs] using hq

theorem tsCancelI_one {pa pbmt : Nat} (hr : i.rs1 ≠ 0) (hxl : xlated i.hart .store va y s = .ok (pa, pbmt)) :
    exec (.tsCancelI i va y) s = .next (tsCancelSent i (some pa) s) := by
  refine congrArg Host.Outcome.next ((xtRun_act ?_ hx hz).trans ((if_neg hr).trans ?_))
  · simpa [hs] using hq
  · simp only [hxl]
    rfl

end

section
variable {b : Bool} {a : Option Nat}

theorem take_tsCancel (hm : s.out.contains (.tsCancel h b a) = true) : s.take (.tsCancel h b a) = unsent (.tsCancel h b a) s :=
  if_pos hm

/-- A cancel hits a pending entry of its world, at its address if it has one. -/
def tsCancelHits (b : Bool) (a : Option Nat) (e : TsEntry) : Bool :=
  e.stage == 1 && e.info.w == b && (a.isNone || a == some e.info.pa)

theorem timedStoreCancel_cancels (hm : s.out.contains (.tsCancel h b a) = true) (hact : bridgeActive (hartDie h s) s = true)
    (hb : tsBehind h (.tsCancel h b a) s = false) (hst : (s.hart h).stall = .tsCancel rd len) (hrd : rd < 32) :
    Gives (.timedStoreCancel h b a) s fun t =>
      t.tsQ h = (s.tsQ h).filter (fun e => !tsCancelHits b a e) ∧
      (t.hart h).getX rd = (if rd = 0 then 0 else BitVec.ofNat 64 ((s.tsQ h).length - (t.tsQ h).length)) ∧
      (t.hart h).stall = .none := by
  set u := (unsent (.tsCancel h b a) s).setTsQ h ((s.tsQ h).filter fun e => !tsCancelHits b a e) with hu
  set n := BitVec.ofNat 64 ((s.tsQ h).countP (tsCancelHits b a)) with hn
  have hhart : u.hart h = s.hart h := State.setTsQ_hart
  have hq : (unstall h len (putX h rd n u)).tsQ h = (s.tsQ h).filter fun e => !tsCancelHits b a e := by
    rw [unstall, State.onHart_tsQ, putX, State.onHart_tsQ, hu, State.setTsQ_tsQ]
  have hcount : (s.tsQ h).countP (tsCancelHits b a) =
      (s.tsQ h).length - ((s.tsQ h).filter fun e => !tsCancelHits b a e).length := by
    have hsum := List.length_eq_countP_add_countP (tsCancelHits b a) (l := s.tsQ h)
    rw [← List.countP_eq_length_filter]
    simp only [Bool.not_eq_true, Bool.decide_eq_false] at hsum
    omega
  obtain ⟨hstall, hx, -⟩ := unstall_writes (len := len) hrd (putX_hart (h := h) (rd := rd) (v := n) (s := u))
  refine ⟨unstall h len (putX h rd n u), ?_, hq, ?_, hstall⟩
  · show execTimedStoreCancel h b a s = _
    have hwaits : (u.hart h).stall = .tsCancel rd len := (congrArg Hart.stall hhart).trans hst
    have hfold : (unsent (.tsCancel h b a) s).setTsQ h (((unsent (.tsCancel h b a) s).tsQ h).filter fun e =>
        !(e.stage == 1 && e.info.w == b && (a.isNone || a == some e.info.pa))) = u := rfl
    simp only [execTimedStoreCancel, take_tsCancel hm, hm, hact, hb, Bool.not_true, Bool.or_self, Bool.false_eq_true,
      if_false, hfold, hwaits]
    rfl
  · rw [hx, hq, hn, hcount]

end

end

/-- Settles O8: each clause is the effect of its instruction or event on the hart, its monitors or its queue of timed stores. -/
theorem phaseInstructions : Obligations.PhaseInstructions := by
  refine ⟨fun i s hs hx hz hsrc hv => phRead_reads hs hx hsrc hv hz,
    fun i v s hs hx hz hsrc hv hw => phWait_reached hs hx hsrc hv hz hw,
    fun i v s hs hx hz hsrc hv hw => phWait_stalls hs hx hsrc hv hz hw,
    fun h rd src len v enc s hst hrun hv hw hrd => phWaitComplete_reached hst hrun hv hw hrd,
    fun h rd src len v enc s hst hrun hv => phWaitComplete_lost hst hrun hv,
    fun i v s hs hx hz hsrc hv => dlSet_arms hs hx hz hsrc hv,
    fun i s hs hx hz he => dlClr_unarmed hs hx hz he,
    fun i s hs hx hz he hp => dlClr_missed hs hx hz he hp,
    fun h m s hm he hp => deadlineMiss_misses hm he hp,
    fun h m s he => ⟨_, rfl, deadlineTest_disarmed he⟩,
    fun i pa pbmt va y data ph s hs hq hx hz hxl htgt hlen =>
      ⟨_, tsStore_runs hs hq hx hz, tsStore_allocates hs hxl htgt hlen⟩,
    fun i pa pbmt va y data ph s hs hq hx hz hxl htgt hlen hb => ⟨_, tsStore_runs hs hq hx hz, ?_⟩,
    fun i pa pbmt va y data ph s hs hq hx hz hxl htgt hlen hb => ⟨_, tsStore_runs hs hq hx hz, ?_⟩,
    fun i pa pbmt va y data ph s hs hq hx hz hxl hal => ⟨_, tsStore_runs hs hq hx hz, ?_⟩,
    fun h len pbmt x cls s hst hrun hlen hq => tsStoreUnstall_allocates hst hrun hlen hq,
    fun h k e s hm hact hb he hlive => timedStore_pends hm hact hb he hlive,
    fun h k e s hm hact hb he hlive hph hld => timedStore_late hm hact hb he hlive hph hld,
    fun h k e s he hlive hc => timedStoreMatch_matches he hlive hc,
    fun h e s hn => timedStoreCommitIssue_issues hn,
    fun i va y s hs hx hq hz hr => ⟨_, tsCancelI_all hs hx hq hz hr, tsCancelSent_waits⟩,
    fun i pa pbmt va y s hs hx hq hz hr hxl => ⟨_, tsCancelI_one hs hx hq hz hr hxl, tsCancelSent_waits⟩,
    fun h rd len w a s hm hact hb hst hrd => timedStoreCancel_cancels hm hact hb hst hrd⟩
  · rw [tsStoreDo_full hxl htgt hlen hb]
    exact ⟨raiseEnc_raised, State.onHart_tsQ⟩
  · obtain ⟨x, hx⟩ := tsStoreDo_stalls (data := data) (ph := ph) hxl htgt hlen hb
    rw [hx]
    simp only [State.onHart_hart, State.onHart_tsQ, ne_eq, reduceCtorEq, not_false_eq_true, and_self]
  · rw [tsStoreDo_misaligned hxl hal]
    exact raise_raised

end Sys2Proof.Machine

/-! # Completions, timeouts and withdrawn tags

A response that matches an open request ends it, and what its initiator does with it is a lemma of that initiator. -/

namespace Sys2Proof.Machine

section
variable {s : State} {h k n rd : Nat} {p : Packet} {x : Tx} {l : PLoad} {a : LAcc} {e : TsEntry}

/-! ## The delivery of a packet -/

theorem take_pkt_only : Only 0x8000000000000000000000000000c s (s.take (.pkt p)) := only_State_take (Nat.and_self _) (.refl _ s)

theorem take_pkt_harts : (s.take (.pkt p)).harts = s.harts := by
  obtain ⟨-, parts, -⟩ := take_pkt_only (s := s) (p := p)
  exact parts .harts rfl

theorem take_pkt_hart : (s.take (.pkt p)).hart h = s.hart h := State.hart_of_harts take_pkt_harts

theorem take_pkt_tsQ : (s.take (.pkt p)).tsQ h = s.tsQ h := by
  obtain ⟨-, parts, -⟩ := take_pkt_only (s := s) (p := p)
  rw [State.tsQ, parts .timed rfl, State.tsQ]

theorem take_pkt_txs : (s.take (.pkt p)).txs = s.txs := by
  obtain ⟨-, parts, -⟩ := take_pkt_only (s := s) (p := p)
  exact parts .opens rfl

theorem take_pkt_lateCnt : (s.take (.pkt p)).f F.FAB_STATUS_LATE_CNT k = s.f F.FAB_STATUS_LATE_CNT k :=
  take_pkt_only.f_eq rfl k

/-- The state in which response p has been delivered and has ended request x. -/
def txClosed (p : Packet) (x : Tx) (s : State) : State := { s.take (.pkt p) with txs := s.txs.erase x }

theorem txClosed_hart : (txClosed p x s).hart h = s.hart h := take_pkt_hart
theorem txClosed_txs : (txClosed p x s).txs = s.txs.erase x := rfl
theorem txClosed_tsQ : (txClosed p x s).tsQ h = s.tsQ h := take_pkt_tsQ

theorem txMatch_take : txMatch p (s.take (.pkt p)) = txMatch p s := by rw [txMatch, take_pkt_txs, txMatch]

section
variable (hb : s.behind p = false)
include hb

/-- A response that matches an open request ends it at its initiator. -/
theorem completion_matched (hx : txMatch p s = some x) (h0 : x.phase = 0) :
    completion p s = completed x p.resp p.poison p.payload (txClosed p x s) := by
  have hclose : closeTx p (s.take (.pkt p)) = (some x, txClosed p x s) := by
    simp only [closeTx, txMatch_take, hx, h0, if_true, take_pkt_txs]
    rfl
  simp only [completion, hb, hclose, Bool.false_eq_true, if_false]

/-- A response that matches nothing is counted (R288). -/
theorem completion_unmatched (hx : txMatch p s = none) :
    completion p s = (s.take (.pkt p)).satInc F.FAB_STATUS_LATE_CNT 0 := by
  have hclose : closeTx p (s.take (.pkt p)) = (none, (s.take (.pkt p)).satInc F.FAB_STATUS_LATE_CNT 0) := by
    simp only [closeTx, txMatch_take, hx]
  simp only [completion, hb, hclose, Bool.false_eq_true, if_false]

end

/-- A saturating counter after one more event. -/
theorem State.f_satInc_self {f : Fld} (hf : f.hi < 64) : (s.satInc f k).f f k = min (s.f f k + 1) (fldMax f) := by
  rw [State.satInc, State.satAdd, State.f_setF_self _ _ _ _ hf]
  refine Nat.mod_eq_of_lt (Nat.lt_of_le_of_lt (Nat.min_le_right ..) ?_)
  exact Nat.sub_lt (Nat.two_pow_pos _) Nat.one_pos

theorem completion_late (hb : s.behind p = false) (hx : txMatch p s = none) :
    (completion p s).txs = s.txs ∧ (completion p s).harts = s.harts ∧
    (completion p s).f F.FAB_STATUS_LATE_CNT 0 = min (s.f F.FAB_STATUS_LATE_CNT 0 + 1) (fldMax F.FAB_STATUS_LATE_CNT) := by
  rw [completion_unmatched hb hx]
  refine ⟨take_pkt_txs, take_pkt_harts, ?_⟩
  rw [State.f_satInc_self (by decide), take_pkt_lateCnt]

/-! ## Stores (R204) -/

theorem loadsPump_none (hl : (s.hart h).loads = []) : loadsPump h s = s := by
  rw [loadsPump, hl, List.length_nil, iter_succ]
  show loadRetire h (loadsTry h s) = s
  rw [loadsTry_none hl, loadRetire_none hl]

theorem sbRefill_hart (hst : (s.hart h).stall = .none) : (sbRefill h s).hart h = s.hart h := by
  rw [sbRefill, State.onHart_hart, hst]

theorem sbCount_txs : (sbCount n s).txs = s.txs := by
  obtain ⟨-, parts, -⟩ := only_sbCount (ha := n) (Nat.and_self _) (.refl _ s)
  exact parts .opens rfl

/-- While no load is pending and the hart does not stall, only the buffer of the hart changes as its oldest entry leaves. -/
theorem sbPop_leaves {b : SbEntry} {r : List SbEntry} (hsb : (s.hart h).sb = b :: r) (hl : (s.hart h).loads = [])
    (hst : (s.hart h).stall = .none) : ((sbPop h s).hart h).sb = r ∧ (sbPop h s).txs = s.txs := by
  set z := s.onHart h fun t => { t with sb := t.sb.eraseIdx 0 } with hz
  have hzh : z.hart h = { s.hart h with sb := r } := by rw [hz, State.onHart_hart, hsb, List.eraseIdx_cons_zero]
  have hrh : (sbCount h (sbRefill h z)).hart h = { s.hart h with sb := r } := by
    rw [sbCount_hart, sbRefill_hart (by rw [hzh]; exact hst), hzh]
  have hpop : sbPop h s = sbCount h (sbRefill h z) := loadsPump_none (by rw [hrh]; exact hl)
  rw [hpop, hrh, sbCount_txs]
  exact ⟨rfl, rfl⟩

/-! ## Loads (R207) -/

/-- The access after the answer to it, whose bytes begin at byte o of the payload. -/
def LAcc.answered (a : LAcc) (o : Nat) (resp po : BitVec 2) (d : Line) : LAcc :=
  { a with val := some (if resp = 0b00#2 then lineBytes d o a.size else 0)
           err := resp != 0b00#2 || (resp == 0b00#2 && poisonIn po o a.size)
           pois := resp == 0b00#2 && poisonIn po o a.size }

theorem loadAnswered_eq {id j o : Nat} {resp po : BitVec 2} {d : Line} : loadAnswered h id j o resp po d s =
    loadsPump h (setAcc h id j (fun a => a.answered o resp po d) s) := rfl

/-- An access that has performed is not tried again. -/
theorem accTry_performed {w j : Nat} {oldest : Bool} {olds : List Nat} (hv : a.val = some w) :
    accTry h l j a oldest olds s = s := if_pos (by rw [hv]; rfl)

section
variable {d : Line} {po : BitVec 2} {sg : Bool} {w : Nat} (hl : Single s h l a) (hamo : l.amo = none)
include hl

theorem accOffset_single : accOffset h l.id 0 s = a.pa % 64 := by
  obtain ⟨hload, hacc⟩ := hl
  simp [accOffset, hload, hacc]

/-- A load whose access has performed writes its integer register and retires. -/
theorem loadRetire_writes (hv : a.val = some w) (he : a.err = false) (hd : l.dst = .x rd sg) (hdesc : l.desc = none)
    (hafter : l.after = none) :
    loadRetire h s = s.setHart h ((({ s.hart h with loads := [] } : Hart).setX rd (extend sg a.size w)).retired) := by
  obtain ⟨hload, hacc⟩ := hl
  simp [loadRetire, hload, hacc, hv, he, hd, hdesc, hafter, loadBad, loadWrite]

include hamo

theorem loadsTry_performed (hv : a.val = some w) : loadsTry h s = s := by
  obtain ⟨hload, hacc⟩ := hl
  simp [loadsTry, hload, hacc, hamo, accTry_performed hv]

theorem loadsPump_writes (hv : a.val = some w) (he : a.err = false) (hd : l.dst = .x rd sg) (hdesc : l.desc = none)
    (hafter : l.after = none) (hrd : rd < 32) :
    ((loadsPump h s).hart h).getX rd = (if rd = 0 then 0 else extend sg a.size w) ∧ ((loadsPump h s).hart h).loads = [] := by
  have hret : loadRetire h (loadsTry h s) =
      s.setHart h ((({ s.hart h with loads := [] } : Hart).setX rd (extend sg a.size w)).retired) := by
    rw [loadsTry_performed hl hamo hv, loadRetire_writes hl hv he hd hdesc hafter]
  have hloads : ((loadRetire h (loadsTry h s)).hart h).loads = [] := by
    rw [hret, State.setHart_hart, Hart.retired_loads, Hart.setX_loads]
  rw [loadsPump_once hl.1 hloads]
  refine ⟨?_, hloads⟩
  rw [hret, State.setHart_hart, Hart.retired_getX, Hart.getX_setX hrd]

/-- The answer without an error gives the load its bytes. -/
theorem loadAnswered_writes (hpo : poisonIn po (a.pa % 64) a.size = false) (hd : l.dst = .x rd sg) (hdesc : l.desc = none)
    (hafter : l.after = none) (hrd : rd < 32) :
    ((loadAnswered h l.id 0 (accOffset h l.id 0 s) 0 po d s).hart h).getX rd =
      (if rd = 0 then 0 else extend sg a.size (lineBytes d (a.pa % 64) a.size)) ∧
    ((loadAnswered h l.id 0 (accOffset h l.id 0 s) 0 po d s).hart h).loads = [] := by
  rw [accOffset_single hl, loadAnswered_eq]
  have hok : (a.answered (a.pa % 64) 0 po d).err = false := by rw [LAcc.answered, hpo]; rfl
  exact loadsPump_writes (a := a.answered (a.pa % 64) 0 po d) hl.setAcc hamo rfl hok hd hdesc hafter hrd

end

/-! ## Timed stores (R130) -/

theorem State.setF_tsQ {f : Fld} {j y : Nat} : (s.setF f j y).tsQ h = s.tsQ h := rfl

section
variable (he : (s.tsQ h).find? (fun y => y.id == k) = some e)
include he

theorem tsDone_ok : tsDone h k false s = s.setTsQ h ((s.tsQ h).filter fun y => y.id != k) := by
  simp only [tsDone, he, Bool.false_eq_true, if_false]

theorem tsDone_failed : tsDone h k true s = ((s.setTsQ h ((s.tsQ h).filter fun y => y.id != k)).setB F.PHE_TSQ_STATUS_ERR
    (tsIx h e.info.w) true).setF F.PHE_TSQ_ERRADDR_ADDR (tsIx h e.info.w) e.info.pa := by
  simp only [tsDone, he, if_true]

theorem tsDone_frees {err : Bool} : (tsDone h k err s).tsQ h = (s.tsQ h).filter fun y => y.id != k := by
  cases err with
  | false => rw [tsDone_ok he, State.setTsQ_tsQ]
  | true => rw [tsDone_failed he, State.setF_tsQ, State.setB, State.setF_tsQ, State.setTsQ_tsQ]

theorem tsDone_err : (tsDone h k true s).b F.PHE_TSQ_STATUS_ERR (tsIx h e.info.w) = true := by
  rw [tsDone_failed he, State.b_setF_reg (by decide)]
  exact State.b_setB_self (by decide) (by decide)

end

theorem tsDone_only {err : Bool} : Only 0x180000000000000204 s (tsDone h k err s) := only_tsDone (Nat.and_self _) (.refl _ s)

theorem tsDone_txs {err : Bool} : (tsDone h k err s).txs = s.txs := by
  obtain ⟨-, parts, -⟩ := tsDone_only (s := s) (h := h) (k := k) (err := err)
  exact parts .opens rfl

theorem tsDone_pulses {err : Bool} : (tsDone h k err s).pulses = s.pulses := by
  obtain ⟨-, parts, -⟩ := tsDone_only (s := s) (h := h) (k := k) (err := err)
  obtain ⟨hpulses, -⟩ := parts .irq rfl
  exact hpulses

/-! ## The initiators -/

section
variable {po : BitVec 2} {d : Line}

theorem completed_store (ho : x.own = .store h) : completed x 0 po d s = sbPop h s := by
  simp only [completed, ho]
  rfl

theorem completed_load {id j : Nat} (ho : x.own = .load h id j) (resp : BitVec 2) :
    completed x resp po d s = loadAnswered h id j (accOffset h id j s) resp po d s := by
  simp only [completed, ho]

theorem completed_timed (ho : x.own = .timed h k) (resp : BitVec 2) :
    completed x resp po d s = tsDone h k (resp != 0) s := by
  simp only [completed, ho]
  rfl

end

/-! ## Timeouts (R287, R288) -/

section
variable {src tag : Nat}

/-- The requests with x in its phase n. -/
def phased (x : Tx) (n : Nat) (l : List Tx) : List Tx := l.map fun y => if y = x then { x with phase := n } else y

/-- The state in which the timeout of request x is recorded, its tag in quarantine. -/
def timeoutTaken (src tag : Nat) (x : Tx) (s : State) : State :=
  timeoutNote x.w x.addr x.part src tag { s with txs := phased x 1 s.txs }

theorem timeoutTaken_only : Only 0x600000000000000000000040200004 { s with txs := phased x 1 s.txs }
    (timeoutTaken src tag x s) := only_timeoutNote (Nat.and_self _) (.refl _ _)

theorem timeoutTaken_txs : (timeoutTaken src tag x s).txs = phased x 1 s.txs := by
  obtain ⟨-, parts, -⟩ := timeoutTaken_only (s := s) (x := x) (src := src) (tag := tag)
  exact parts .opens rfl

theorem timeoutTaken_tsQ : (timeoutTaken src tag x s).tsQ h = s.tsQ h := by
  obtain ⟨-, parts, -⟩ := timeoutTaken_only (s := s) (x := x) (src := src) (tag := tag)
  rw [State.tsQ, parts .timed rfl]
  rfl

theorem timeoutNote_world {w : Bool} {addr part : Nat} : (timeoutNote w addr part src tag s).b F.FAB_TO_ADDR_W 0 = w := by
  unfold timeoutNote
  extract_lets u v z
  have hz : z.b F.FAB_TO_ADDR_W 0 = v.b F.FAB_TO_ADDR_W 0 := State.b_of_regs rfl
  have hr : (report 7 3 w (some addr) part src tag z).b F.FAB_TO_ADDR_W 0 = z.b F.FAB_TO_ADDR_W 0 := State.b_of_regs rfl
  rw [hr, hz]
  exact (State.b_setF_ne (by decide) (by decide)).trans (State.b_setB_self (by decide) (by decide))

theorem timeoutTaken_pulse : (timeoutTaken src tag x s).pulses.contains 34 = true := by
  show (if s.pulses.contains 34 then s.pulses else s.pulses ++ [34]).contains 34 = true
  split
  · assumption
  · simp

theorem fabricTimeout_ends
    (hx : s.txs.find? (fun y => y.src == src && y.tag == tag && y.phase == 0 && timedOut 1 y.addr y.t0 s) = some x) :
    exec (.fabricTimeout src tag) s = .next (completed x 3 0 0 (timeoutTaken src tag x s)) := by
  show execFabricTimeout src tag s = _
  simp only [execFabricTimeout, hx]
  rfl

theorem tagWithdraw_withdraws
    (hx : s.txs.find? (fun y => y.src == src && y.tag == tag && y.phase == 1 && timedOut 4 y.addr y.t0 s) = some x) :
    exec (.tagWithdraw src tag) s = .next (({ s with txs := phased x 2 s.txs } : State).satInc F.FAB_STATUS_TAG_LOST 0) := by
  show execTagWithdraw src tag s = _
  simp only [execTagWithdraw, hx]
  rfl

end

/-! ## Commands -/

theorem cmp_store {b : SbEntry} {r : List SbEntry} (hb : s.behind p = false) (hx : txMatch p s = some x) (h0 : x.phase = 0)
    (ho : x.own = .store h) (hresp : p.resp = 0) (hsb : (s.hart h).sb = b :: r) (hl : (s.hart h).loads = [])
    (hst : (s.hart h).stall = .none) :
    ((completion p s).hart h).sb = r ∧ (completion p s).txs = s.txs.erase x := by
  rw [completion_matched hb hx h0, hresp, completed_store ho]
  exact sbPop_leaves (by rw [txClosed_hart, hsb]) (by rw [txClosed_hart, hl]) (by rw [txClosed_hart, hst])

theorem dataIO_load {sg : Bool} (hb : s.behind p = false) (hx : txMatch p s = some x) (h0 : x.phase = 0)
    (ho : x.own = .load h l.id 0) (hresp : p.resp = 0) (hl : Single s h l a) (hd : l.dst = .x rd sg) (hrd : rd < 32)
    (hamo : l.amo = none) (hafter : l.after = none) (hdesc : l.desc = none)
    (hpo : poisonIn p.poison (a.pa % 64) a.size = false) :
    ((completion p s).hart h).getX rd =
      (if rd = 0 then 0 else extend sg a.size (lineBytes p.payload (a.pa % 64) a.size)) ∧
    ((completion p s).hart h).loads = [] := by
  obtain ⟨hload, hacc⟩ := hl
  have hsingle : Single (txClosed p x s) h l a := ⟨by rw [txClosed_hart, hload], hacc⟩
  rw [completion_matched hb hx h0, hresp, completed_load ho]
  exact loadAnswered_writes hsingle hamo hpo hd hdesc hafter hrd

theorem cmpIO_timed (hb : s.behind p = false) (hx : txMatch p s = some x) (h0 : x.phase = 0) (ho : x.own = .timed h k)
    (he : (s.tsQ h).find? (fun y => y.id == k) = some e) :
    (completion p s).tsQ h = (s.tsQ h).filter (fun y => y.id != k) ∧ (completion p s).txs = s.txs.erase x := by
  rw [completion_matched hb hx h0, completed_timed ho, tsDone_txs]
  exact ⟨by rw [tsDone_frees (by rw [txClosed_tsQ, he]), txClosed_tsQ], txClosed_txs⟩

theorem fabricTimeout_timed {src tag : Nat} (ho : x.own = .timed h k) (he : (s.tsQ h).find? (fun y => y.id == k) = some e) :
    let t := completed x 3 0 0 (timeoutTaken src tag x s)
    t.b F.PHE_TSQ_STATUS_ERR (tsIx h e.info.w) = true ∧ t.tsQ h = (s.tsQ h).filter (fun y => y.id != k) ∧
      t.txs = phased x 1 s.txs ∧ t.b F.FAB_TO_ADDR_W 0 = x.w ∧ t.pulses.contains 34 = true := by
  have hq : (timeoutTaken src tag x s).tsQ h = s.tsQ h := timeoutTaken_tsQ
  have hfind : ((timeoutTaken src tag x s).tsQ h).find? (fun y => y.id == k) = some e := by rw [hq, he]
  have hdone : completed x 3 0 0 (timeoutTaken src tag x s) = tsDone h k true (timeoutTaken src tag x s) :=
    completed_timed ho 3
  rw [hdone]
  refine ⟨tsDone_err hfind, by rw [tsDone_frees hfind, hq], by rw [tsDone_txs, timeoutTaken_txs], ?_, ?_⟩
  · rw [tsDone_only.b_eq rfl, timeoutTaken, timeoutNote_world]
  · rw [tsDone_pulses]
    exact timeoutTaken_pulse

end

/-- Settles O18: a response that matches ends its request at the initiator, one that matches nothing is counted, and a timeout
ends its request with an error. -/
theorem completions : Obligations.Completions :=
  ⟨fun p x h e r s hb hx h0 ho hresp hsb hl hst => ⟨_, rfl, cmp_store hb hx h0 ho hresp hsb hl hst⟩,
    fun p x h rd sg l a s hb hx h0 ho hresp hl hacc hd hrd hamo hafter hdesc hpo =>
      ⟨_, rfl, dataIO_load hb hx h0 ho hresp ⟨hl, hacc⟩ hd hrd hamo hafter hdesc hpo⟩,
    fun p x h k e s hb hx h0 ho _ he => ⟨_, rfl, cmpIO_timed hb hx h0 ho he⟩,
    fun p s hb hx => ⟨_, rfl, completion_late hb hx⟩,
    fun p s hb hx => ⟨_, rfl, completion_late hb hx⟩,
    fun p s hb hx => ⟨_, rfl, completion_late hb hx⟩,
    fun src tag h k x e s hx ho he => ⟨_, fabricTimeout_ends hx, fabricTimeout_timed ho he⟩,
    fun src tag x s hx => ⟨_, tagWithdraw_withdraws hx, rfl, State.f_satInc_self (by decide)⟩⟩

end Sys2Proof.Machine

/-! # Range commands that walk the sets

A range of more lines than the array has tags is visited set by set (R159), and the place of its engine is then a set and a
line, not a line. -/

namespace Sys2Proof.Machine

/-- A PRELOAD of 16,385 lines into the L2 of core 23: the 17 lines of set 0 are done, and set 1 is next. -/
def preloadAtSet1 : RangeRun :=
  { eng := 23, cmd := 4, w := true, part := 0, first := 0, last := 16384, next := 2 ^ 48, count := 17 }

/-- The first line of set 1, line 1, waits for a request of the core's own. -/
def preloadWaiting : State :=
  { State.reset.setB F.CD_CORE_RANGE_STATUS_BUSY 23 true with
    ranges := [preloadAtSet1]
    l2Pend := [{ np := 23, line := 1, op := .rdX, stream := false }] }

theorem preloadWaiting_open : engOpen 23 preloadAtSet1 preloadWaiting = 0 := by decide +kernel

/-- The command is not over: 1,023 sets are still to be visited. -/
theorem preloadWaiting_goes_on : (rangeFinish 23 preloadWaiting).ranges = [preloadAtSet1] := by decide +kernel

/-- Refutes O13: the clause of the completed command takes a place past the number of the last line for the end of the range.
Where the engine walks the sets, the place of set 1 is 2^48, past the last line 16,384 of preloadAtSet1 of which only set 0 has
been visited, and the command goes on. -/
theorem not_cacheOperations : ¬ Obligations.CacheOperations := by
  unfold Obligations.CacheOperations
  rintro ⟨-, -, -, -, -, -, -, -, -, -, -, -, -, -, -, -, -, hdone, -⟩
  obtain ⟨t, ht, -, -, -, hnone⟩ := hdone 23 preloadAtSet1 preloadWaiting rfl (by decide) preloadWaiting_open (by decide)
  have hranges : t.ranges = [preloadAtSet1] := Host.Outcome.next.inj ht ▸ preloadWaiting_goes_on
  exact hnone preloadAtSet1 (hranges ▸ List.mem_singleton_self _) rfl

end Sys2Proof.Machine

/-! # Requests, write-backs and snoops between cores and slices

A packet that reaches a slice joins the queue of its line; where nothing else waits for the line, it is the one packet to try.
What the caches hold afterwards follows from the few steps that touch them. -/

namespace Sys2Proof.Machine

section
variable {s t : State} {W n np line k j h q : Nat} {p : Packet} {r : SliceReq} {op : Op} {d : Option (Line × BitVec 2)}

/-! ## What an operation leaves of the caches -/

section
variable (ho : Only W s t) (hW : W.testBit Part.l3.ctorIdx = false)
include ho hW

theorem Only.l3_eq : t.l3 = s.l3 := by
  obtain ⟨hl3, -⟩ := ho.2.1 .l3 hW
  exact hl3

theorem Only.vb_eq : t.vb = s.vb := by
  obtain ⟨-, hvb, -⟩ := ho.2.1 .l3 hW
  exact hvb

theorem Only.l3Pend_eq : t.l3Pend = s.l3Pend := by
  obtain ⟨-, -, hpend, -⟩ := ho.2.1 .l3 hW
  exact hpend

theorem Only.sliceQ_eq : t.sliceQ = s.sliceQ := by
  obtain ⟨-, -, -, hqueue⟩ := ho.2.1 .l3 hW
  exact hqueue

end

theorem Only.l2_eq (ho : Only W s t) (hW : W.testBit Part.cores.ctorIdx = false) : t.l2 = s.l2 := by
  obtain ⟨hl2, -⟩ := ho.2.1 .cores hW
  exact hl2

theorem Only.l2Held_eq (ho : Only W s t) (hW : W.testBit Part.cores.ctorIdx = false) : t.l2Held = s.l2Held := by
  obtain ⟨-, -, -, -, hheld, -⟩ := ho.2.1 .cores hW
  exact hheld

theorem Only.harts_eq (ho : Only W s t) (hW : W.testBit Part.harts.ctorIdx = false) : t.harts = s.harts := ho.2.1 .harts hW

theorem Only.out_eq (ho : Only W s t) (hW : W.testBit Part.msgs.ctorIdx = false) : t.out = s.out := ho.2.1 .msgs hW

theorem Only.hartOn_eq (ho : Only W s t) (hW : W.testBit Reg.FAB_POS_MAP.mark = false) (np : Nat) :
    hartOn np t = hartOn np s := by
  simp only [hartOn, hartAt, ho.f_eq (f := F.FAB_POS_MAP_STATE) hW, ho.f_eq (f := F.FAB_POS_MAP_HART_ID) hW]

theorem Only.l2On_eq (ho : Only W s t) (hW : W.testBit Reg.CD_CORE_CACHE_CTRL.mark = false) (np : Nat) :
    l2On np t = l2On np s := ho.b_eq (f := F.CD_CORE_CACHE_CTRL_L2_EN) hW np

theorem l3Find_of_l3 (e : t.l3 = s.l3) : l3Find n line t = l3Find n line s := by rw [l3Find, e, l3Find]
theorem l3L_of_l3 (e : t.l3 = s.l3) : t.l3L k = s.l3L k := by rw [State.l3L, e, State.l3L]
theorem l2L_of_l2 (e : t.l2 = s.l2) : t.l2L k = s.l2L k := by rw [State.l2L, e, State.l2L]
theorem l2Has_of_l2 (e : t.l2 = s.l2) : l2Has np line t = l2Has np line s := by simp only [l2Has, State.l2L, e]
theorem vbFind_of_vb (e : t.vb = s.vb) : vbFind n line t = vbFind n line s := by rw [vbFind, e, vbFind]

theorem lineQuiet_of_sliceQ (e : t.sliceQ = s.sliceQ) (hq : LineQuiet n line s) : LineQuiet n line t := by rwa [LineQuiet, e]

theorem State.setL3_l3L {z : L3Line} : (s.setL3 k z).l3L k = z := smapGet_set_self ..

theorem zeroes_of (hon : hartOn np t = hartOn np s) (hh : t.harts = s.harts) : zeroes np line t = zeroes np line s := by
  simp only [zeroes, hon, State.hart_of_harts hh]

/-- The partition check depends on the region table and the shares. -/
theorem Only.dramPartOk_eq (ho : Only W s t) (hbase : W.testBit Reg.MC_REGION_BASE.mark = false)
    (hcode : W.testBit Reg.MC_REGION_CODE.mark = false) (hshare : W.testBit Reg.PQ_REGION_SHARE.mark = false) (q a : Nat) :
    dramPartOk q a t = dramPartOk q a s := by
  have hregion : regionOf a t = regionOf a s := by
    simp only [regionOf, regionHas, ho.b_eq (f := F.MC_REGION_BASE_VALID) hbase, ho.f_eq (f := F.MC_REGION_BASE_BASE) hbase,
      ho.f_eq (f := F.MC_REGION_BASE_SIZE) hbase]
  simp only [dramPartOk, dramPart, hregion, ho.f_eq (f := F.MC_REGION_CODE_PART) hcode,
    fun i => ho.2.2 .PQ_REGION_SHARE hshare i]

/-! ## The delivery of a packet -/

theorem take_pkt_l3 : (s.take (.pkt p)).l3 = s.l3 := take_pkt_only.l3_eq rfl
theorem take_pkt_sliceQ : (s.take (.pkt p)).sliceQ = s.sliceQ := take_pkt_only.sliceQ_eq rfl
theorem take_pkt_l3Find : l3Find n line (s.take (.pkt p)) = l3Find n line s := l3Find_of_l3 take_pkt_l3
theorem take_pkt_l3L : (s.take (.pkt p)).l3L k = s.l3L k := l3L_of_l3 take_pkt_l3
theorem take_pkt_l2 : (s.take (.pkt p)).l2 = s.l2 := take_pkt_only.l2_eq rfl
theorem take_pkt_l2L : (s.take (.pkt p)).l2L k = s.l2L k := l2L_of_l2 take_pkt_l2
theorem take_pkt_l2Has : l2Has np line (s.take (.pkt p)) = l2Has np line s := l2Has_of_l2 take_pkt_l2
theorem take_pkt_l2On : l2On np (s.take (.pkt p)) = l2On np s := take_pkt_only.l2On_eq rfl np
theorem take_pkt_hartOn : hartOn np (s.take (.pkt p)) = hartOn np s := take_pkt_only.hartOn_eq rfl np

theorem take_pkt_lineQuiet (hq : LineQuiet n line s) : LineQuiet n line (s.take (.pkt p)) :=
  lineQuiet_of_sliceQ take_pkt_sliceQ hq

/-- A delivery sends nothing. -/
theorem take_pkt_out_subset : (s.take (.pkt p)).out ⊆ s.out := by
  unfold State.take
  split
  · exact List.erase_subset
  · exact List.Subset.refl _

theorem take_pkt_leaving (hl : leaving np line s = false) : leaving np line (s.take (.pkt p)) = false := by
  rw [leaving, List.any_eq_false] at hl ⊢
  exact fun m hm => hl m (take_pkt_out_subset hm)

/-! ## Harts without open loads -/

theorem coreQuiet_iff : CoreQuiet np s ↔ ∀ h, hartOn np s = some h → (s.hart h).loads = [] := by
  simp [CoreQuiet, Option.all_eq_true, List.isEmpty_iff]

theorem coreQuiet_of_same (hc : CoreQuiet np s) (hon : hartOn np t = hartOn np s) (hh : t.harts = s.harts) : CoreQuiet np t := by
  rw [coreQuiet_iff] at hc ⊢
  intro h hh'
  rw [State.hart_of_harts hh]
  exact hc h (hon ▸ hh')

theorem take_pkt_coreQuiet (hc : CoreQuiet np s) : CoreQuiet np (s.take (.pkt p)) :=
  coreQuiet_of_same hc take_pkt_hartOn take_pkt_harts

/-- A change of the core's own hart that opens no load. -/
theorem coreQuiet_onHart {f : Hart → Hart} (hc : CoreQuiet np s) (hon : hartOn np s = some h)
    (hf : ∀ t : Hart, t.loads = [] → (f t).loads = []) : CoreQuiet np (s.onHart h f) := by
  have hsame : hartOn np (s.onHart h f) = hartOn np s := rfl
  rw [coreQuiet_iff] at hc ⊢
  intro h' hh'
  obtain rfl : h = h' := Option.some.inj (hon.symm.trans (hsame ▸ hh'))
  rw [State.onHart_hart]
  exact hf _ (hc h hon)

theorem corePump_idle (hc : CoreQuiet np s) : corePump np s = s := by
  unfold corePump
  split
  · next h hon => exact loadsPump_none (coreQuiet_iff.mp hc h hon)
  · rfl

theorem setL2_coreQuiet {z : L2Line} (hc : CoreQuiet np s) : CoreQuiet np (s.setL2 k z) := hc

theorem setL3_coreQuiet {z : L3Line} (hc : CoreQuiet np s) : CoreQuiet np (s.setL3 k z) := hc

theorem replayLine_coreQuiet (hc : CoreQuiet np s) : CoreQuiet np (replayLine np line s) := by
  unfold replayLine
  split
  · exact hc
  · next h hon => exact coreQuiet_onHart hc hon fun t ht => by rw [ht, List.map_nil]

theorem loseResv_coreQuiet (hc : CoreQuiet np s) : CoreQuiet np (loseResv np line s) := by
  unfold loseResv
  split
  · exact hc
  · next h hon =>
    refine coreQuiet_onHart hc hon fun t ht => ?_
    split
    · exact ht
    · exact ht

/-! ## Invalidation in a core -/

theorem l1Inval_only : Only 0x10000 s (l1Inval np line s) := only_l1Inval (Nat.and_self _) (.refl _ s)
theorem replayLine_only : Only 0x400 s (replayLine np line s) := only_replayLine (Nat.and_self _) (.refl _ s)
theorem loseResv_only : Only 0x400 s (loseResv np line s) := only_loseResv (Nat.and_self _) (.refl _ s)
theorem coreInval_only : Only 0x10400 s (coreInval np line s) := only_coreInval (Nat.and_self _) (.refl _ s)

theorem State.setL1d_l2 {z : L1Set} : (s.setL1d k z).l2 = s.l2 := rfl
theorem State.setL1i_l2 {z : L1Set} : (s.setL1i k z).l2 = s.l2 := rfl

theorem l1Inval_l2 : (l1Inval np line s).l2 = s.l2 := by
  unfold l1Inval
  extract_lets u
  have hu : u.l2 = s.l2 := by
    unfold u
    split
    · split
      · exact State.setL1d_l2
      · rfl
    · rfl
  clear_value u
  split
  · split
    · exact State.setL1i_l2.trans hu
    · exact hu
  · exact hu

theorem coreInval_held (hon : l2On np s = true) (hk : l2Has np line s = some k) :
    coreInval np line s = loseResv np line (replayLine np line (l1Inval np line (s.setL2 k {}))) := by
  simp only [coreInval, hon, hk, if_true]

/-- The line that an invalidation meets in the L2 is left in I. -/
theorem coreInval_l2L (hon : l2On np s = true) (hk : l2Has np line s = some k) : ((coreInval np line s).l2L k).st = 0 := by
  have hl2 : (coreInval np line s).l2 = (s.setL2 k {}).l2 := by
    rw [coreInval_held hon hk, loseResv_only.l2_eq rfl, replayLine_only.l2_eq rfl, l1Inval_l2]
  rw [l2L_of_l2 hl2, State.setL2_l2L]

theorem coreInval_coreQuiet (hon : l2On np s = true) (hk : l2Has np line s = some k) (hc : CoreQuiet np s) :
    CoreQuiet np (coreInval np line s) := by
  have hl1 : CoreQuiet np (l1Inval np line (s.setL2 k {})) :=
    coreQuiet_of_same (setL2_coreQuiet hc) (l1Inval_only.hartOn_eq rfl np) (l1Inval_only.harts_eq rfl)
  rw [coreInval_held hon hk]
  exact loseResv_coreQuiet (replayLine_coreQuiet hl1)

/-! ## The queue of a line (R179) -/

/-- The packets that wait at the slice for a line. -/
def lineReqs (n line : Nat) (s : State) : List SliceReq := s.sliceQ.filter fun r => r.die == n && r.line == line

theorem lineReqs_of_sliceQ (e : t.sliceQ = s.sliceQ) : lineReqs n line t = lineReqs n line s := by rw [lineReqs, e, lineReqs]

theorem lineQuiet_iff : LineQuiet n line s ↔ lineReqs n line s = [] := by
  rw [LineQuiet, List.any_eq_false, lineReqs, List.filter_eq_nil_iff]

theorem sliceFirst_eq : sliceFirst n line s =
    (List.range 3).flatMap fun c => (lineReqs n line s).filter fun r => sliceRank r.p == c := rfl

theorem sliceFirst_nil (hm : lineReqs n line s = []) : sliceFirst n line s = [] := by simp [sliceFirst_eq, hm]

theorem sliceFirst_one (hm : lineReqs n line s = [r]) (hr : sliceRank r.p = 2) : sliceFirst n line s = [r] := by
  simp [sliceFirst_eq, hm, hr, List.range_succ]

theorem snooping_eq : (s.sliceQ.any fun r => r.die == n && r.line == line && sliceRank r.p == 0) =
    (lineReqs n line s).any fun r => sliceRank r.p == 0 := by rw [lineReqs, List.any_filter]

theorem slicePass_nil (hm : lineReqs n line s = []) : slicePass n line s = s := by
  simp [slicePass, sliceFirst_nil hm]

/-- A core request that alone waits for its line is tried. -/
theorem slicePass_one (hm : lineReqs n line s = [r]) (hr : sliceRank r.p = 2) : slicePass n line s = sliceTry r s := by
  simp [slicePass, sliceFirst_one hm hr, hr, snooping_eq, hm]

theorem slicePump_eq : slicePump n line s = iter ((lineReqs n line s).length + 1) (fun _ t => slicePass n line t) s := by
  rw [slicePump, List.countP_eq_length_filter, lineReqs]

/-- Nothing happens at a slice where nothing waits for the line. -/
theorem slicePump_idle (hq : LineQuiet n line s) : slicePump n line s = s := by
  have hm := lineQuiet_iff.mp hq
  rw [slicePump_eq, hm, List.length_nil, iter_succ]
  exact slicePass_nil hm

theorem slicePump_one (hm : lineReqs n line s = [r]) (hr : sliceRank r.p = 2) :
    slicePump n line s = slicePass n line (sliceTry r s) := by
  rw [slicePump_eq, hm, List.length_singleton, iter_succ, ← slicePass_one hm hr]
  rfl

theorem sliceTry_waits (hr : sliceRank r.p = 2) (hm : r ∈ s.sliceQ) (ht : coreReqTry r s = (t, false)) : sliceTry r s = t := by
  simp [sliceTry, hm, hr, ht]

theorem sliceTry_ends (hr : sliceRank r.p = 2) (hm : r ∈ s.sliceQ) (ht : coreReqTry r s = (t, true)) :
    sliceTry r s = { t with sliceQ := t.sliceQ.filter fun x => !(x.die == r.die && x.line == r.line && x.p == r.p) } := by
  simp [sliceTry, hm, hr, ht]

/-- The one packet that waited for a line ends. -/
theorem lineReqs_ended (hm : lineReqs r.die r.line s = [r]) : lineReqs r.die r.line
    { s with sliceQ := s.sliceQ.filter fun x => !(x.die == r.die && x.line == r.line && x.p == r.p) } = [] := by
  rw [lineReqs, List.filter_eq_nil_iff]
  intro x hx hline
  obtain ⟨hmem, hother⟩ := List.mem_filter.mp hx
  obtain rfl : x = r := List.mem_singleton.mp (hm ▸ List.mem_filter.mpr ⟨hmem, hline⟩)
  simp at hother

/-! ## A packet reaches its slice -/

/-- The packet as it waits at its slice. -/
def arrival (n : Nat) (p : Packet) : SliceReq := { die := n, line := p.addr / 64, p := p, sent := 0 }

/-- The state in which the packet has joined the queue of its slice. -/
def arrived (n : Nat) (p : Packet) (s : State) : State := { s.take (.pkt p) with sliceQ := s.sliceQ ++ [arrival n p] }

theorem sliceArrive_arrived (hb : s.behind p = false) : sliceArrive n p s = slicePump n (p.addr / 64) (arrived n p s) := by
  simp only [sliceArrive, hb, Bool.false_eq_true, if_false, take_pkt_sliceQ, arrived, arrival]

theorem arrived_only : Only 0x8000000000000000000000000800c s (arrived n p s) := by
  refine only_sliceQ ?_ (only_State_take ?_ (.refl _ s)) _ <;> rfl

theorem arrived_l3 : (arrived n p s).l3 = s.l3 := take_pkt_l3
theorem arrived_l3Pend : (arrived n p s).l3Pend = s.l3Pend := take_pkt_only.l3Pend_eq rfl
theorem arrived_vbFind : vbFind n line (arrived q p s) = vbFind n line s := vbFind_of_vb (take_pkt_only.vb_eq rfl)
theorem arrived_l3Find : l3Find n line (arrived q p s) = l3Find n line s := l3Find_of_l3 arrived_l3
theorem arrived_l3L : (arrived n p s).l3L k = s.l3L k := l3L_of_l3 arrived_l3

theorem arrived_mem : arrival n p ∈ (arrived n p s).sliceQ := List.mem_append_right _ (List.mem_singleton_self _)

theorem arrived_lineReqs (hq : LineQuiet n (p.addr / 64) s) : lineReqs n (p.addr / 64) (arrived n p s) = [arrival n p] := by
  have hm := lineQuiet_iff.mp hq
  rw [lineReqs] at hm
  simp [lineReqs, arrived, arrival, hm]

/-! ## A request that misses (R180, R181) -/

/-- What the slice asks the home agent for. -/
def missOp (p : Packet) (line : Nat) (s : State) : Op :=
  if p.op = .rdS ∨ p.op = .rdOnce then .getS else if zeroes p.src line s then .getXZ else .getX

theorem missOp_arrived {p' : Packet} : missOp p' line (arrived n p s) = missOp p' line s := by
  rw [missOp, zeroes_of (arrived_only.hartOn_eq rfl _) (arrived_only.harts_eq rfl), missOp]

theorem coreReqTry_miss (hvb : vbFind r.die r.line s = none)
    (hp : (s.l3Pend.any fun q => q.die == r.die && q.line == r.line && !q.dead) = false) (hl : l3Find r.die r.line s = none) :
    coreReqTry r s = (askHome r.die r.line (missOp r.p r.line s) r.p (coreEvent r.p.src 4 s), false) := by
  simp only [coreReqTry, hvb, hp, hl, Bool.false_eq_true, if_false, missOp]

theorem coreReqTry_asked (hvb : vbFind r.die r.line s = none)
    (hp : (s.l3Pend.any fun q => q.die == r.die && q.line == r.line && !q.dead) = true) : coreReqTry r s = (s, false) := by
  simp only [coreReqTry, hvb, hp, if_true]

theorem sent_sendP : sent p.op p.dst p.addr (s.sendP p) = true := by
  simp [sent, sentSome, State.sendP, State.send]

theorem askHome_sent : sent op (0x100 + mcOf (line * 64)) (line * 64) (askHome n line op p s) = true := by
  unfold askHome toHome sendUp
  exact sent_sendP

/-- A slice that asks its home agent has one more request open; the packets that wait and the victim buffer are the same. -/
theorem askHome_slice : (askHome n line op p s).vb = s.vb ∧ (askHome n line op p s).sliceQ = s.sliceQ ∧
    (askHome n line op p s).l3Pend = s.l3Pend ++
      [{ die := n, line := line, tag := newTag (sliceAgent n line) s, op := op, req := p, dead := false, t0 := s.tb }] := by
  unfold askHome
  extract_lets src tag u
  have honly := only_toHome (n := n) (line := line) (isReq := true)
    (p := { op := op, cls := p.cls, w := p.w, part := p.part, tag := tag, fetch := p.fetch }) (Nat.and_self _) (.refl _ u)
  exact ⟨honly.vb_eq rfl, honly.sliceQ_eq rfl, honly.l3Pend_eq rfl⟩

/-- A request of a core that misses in its idle slice makes the slice ask the home agent. -/
theorem coreRequest_asks (hr : sliceRank p = 2) (hb : s.behind p = false) (hsrc : p.src < 240)
    (hq : LineQuiet (p.src / 20) (p.addr / 64) s) (hvb : vbFind (p.src / 20) (p.addr / 64) s = none)
    (hl : l3Find (p.src / 20) (p.addr / 64) s = none)
    (hp : (s.l3Pend.any fun q => q.die == p.src / 20 && q.line == p.addr / 64 && !q.dead) = false) :
    ((coreRequest p s).l3Pend.any fun q => q.die == p.src / 20 && q.line == p.addr / 64 &&
      q.op == missOp p (p.addr / 64) s && q.req == p) = true ∧
    sent (missOp p (p.addr / 64) s) (0x100 + mcOf (p.addr / 64 * 64)) (p.addr / 64 * 64) (coreRequest p s) = true := by
  set n := p.src / 20
  set line := p.addr / 64 with hline
  set r := arrival n p with hrdef
  set u := coreEvent p.src 4 (arrived n p s) with hu
  set a := askHome n line (missOp p line s) p u with ha
  have huonly := only_coreEvent (np := p.src) (code := 4) (Nat.and_self _) (.refl _ (arrived n p s))
  obtain ⟨havb, haqueue, hapend⟩ := askHome_slice (n := n) (line := line) (op := missOp p line s) (p := p) (s := u)
  -- The first attempt asks the home agent, and the second finds the request open.
  have hfirst : sliceTry r (arrived n p s) = a := by
    refine sliceTry_waits hr arrived_mem ?_
    rw [ha, ← missOp_arrived (n := n) (p := p)]
    exact coreReqTry_miss (r := r) (arrived_vbFind.trans hvb) (by rw [arrived_l3Pend]; exact hp) (arrived_l3Find.trans hl)
  have hreqs : lineReqs n line a = [r] := (lineReqs_of_sliceQ (haqueue.trans (huonly.sliceQ_eq rfl))).trans (arrived_lineReqs hq)
  have hsecond : sliceTry r a = a := by
    refine sliceTry_waits hr (List.mem_of_mem_filter (hreqs ▸ List.mem_singleton_self r : r ∈ lineReqs n line a)) ?_
    refine coreReqTry_asked ?_ ?_
    · exact (vbFind_of_vb (havb.trans (huonly.vb_eq rfl))).trans (arrived_vbFind.trans hvb)
    · rw [hapend, List.any_append]
      simp [hrdef, arrival, hline]
  have hall : coreRequest p s = a := by
    rw [coreRequest, if_pos hsrc, sliceArrive_arrived hb, slicePump_one (arrived_lineReqs hq) hr, hfirst,
      slicePass_one hreqs hr, hsecond]
  rw [hall]
  refine ⟨?_, askHome_sent⟩
  rw [hapend, List.any_append]
  simp

/-! ## WrPart on a line that the die may write (R180) -/

/-- The L3 line after a WrPart. -/
def L3Line.written (l : L3Line) (p : Packet) : L3Line :=
  { l with data := mergeLine l.data p.payload p.mask, poison := poisonMerge l.poison p.poison p.mask, st := 4, age := 0 }

/-- The end of a WrPart at its core: the store leaves the buffer, unless the core has given the request up. -/
def wrPartEnd (np line : Nat) (p : Packet) (s : State) : State :=
  match lateAnswer np p s, hartOn np s with
  | some s, _ => s
  | none, some h => sbPop h (l2PendDone np line s)
  | none, none => l2PendDone np line s

theorem coreReqTry_wrPart (hop : r.p.op = .wrPart) (hvb : vbFind r.die r.line s = none)
    (hp : (s.l3Pend.any fun q => q.die == r.die && q.line == r.line && !q.dead) = false) (hl : l3Find r.die r.line s = some k)
    (hdeny : sliceDeny r.p.w (s.l3L k).w r.p.part r.line s = none) (hst : 3 ≤ (s.l3L k).st)
    (hothers : presCores (clrBit (s.l3L k).pres (r.p.src % 20)) = []) :
    coreReqTry r s = (wrPartEnd r.p.src r.line r.p (s.setL3 k ((s.l3L k).written r.p)), true) := by
  have hst' : ¬ (s.l3L k).st < 3 := Nat.not_lt.mpr hst
  simp only [coreReqTry, hvb, hp, hl, hdeny, hop, hst', hothers, Bool.false_eq_true, if_false, if_true, reduceCtorEq, or_self,
    false_and, List.isEmpty_nil, Bool.not_true]
  rfl

theorem Hart.event_loads {x : Hart} : (x.event n).loads = x.loads := by
  obtain ⟨⟨m, hm⟩, -⟩ := Hart.event_csrs (t := x) (n := n)
  rw [hm]

theorem Hart.past_loads {x : Hart} : (x.past n).loads = x.loads := by
  obtain ⟨u, held, ⟨⟨m, rfl⟩, -⟩, hp⟩ := Hart.past_eq (t := x) (n := n)
  rw [hp]

/-- The rest of a vector store opens no load. -/
theorem sbRefill_loads : ((sbRefill h s).hart h).loads = (s.hart h).loads := by
  rw [sbRefill, State.onHart_hart]
  split
  · dsimp only
    split
    · split
      · rfl
      · exact Hart.event_loads.trans Hart.past_loads
    · rfl
  · rfl

/-- While no load is pending, a store that leaves the buffer makes no request. -/
theorem sbPop_idle (hl : (s.hart h).loads = []) :
    sbPop h s = sbCount h (sbRefill h (s.onHart h fun t => { t with sb := t.sb.eraseIdx 0 })) := by
  refine loadsPump_none ?_
  rw [sbCount_hart, sbRefill_loads, State.onHart_hart]
  exact hl

theorem sbPop_l3_same (hl : (s.hart h).loads = []) : (sbPop h s).l3 = s.l3 ∧ (sbPop h s).sliceQ = s.sliceQ := by
  have honly : Only 0x4000000000000000404 s (sbPop h s) := by
    rw [sbPop_idle hl]
    refine only_sbCount ?_ (only_sbRefill ?_ (only_State_onHart ?_ (.refl _ s))) <;> rfl
  exact ⟨honly.l3_eq rfl, honly.sliceQ_eq rfl⟩

theorem wrPartEnd_l3_same (hc : CoreQuiet np s) :
    (wrPartEnd np line p s).l3 = s.l3 ∧ (wrPartEnd np line p s).sliceQ = s.sliceQ := by
  unfold wrPartEnd
  split
  · next hu =>
    have honly := only_lateAnswer (Nat.and_self _) (.refl _ s) _ hu
    exact ⟨honly.l3_eq rfl, honly.sliceQ_eq rfl⟩
  · next h _ hon => exact sbPop_l3_same (s := l2PendDone np line s) (coreQuiet_iff.mp hc h hon)
  · exact ⟨rfl, rfl⟩

theorem arrived_coreQuiet (hc : CoreQuiet np s) : CoreQuiet np (arrived n p s) :=
  coreQuiet_of_same hc (arrived_only.hartOn_eq rfl np) (arrived_only.harts_eq rfl)

theorem sliceDeny_arrived {w lw : Bool} {part : Nat} :
    sliceDeny w lw part line (arrived n p s) = sliceDeny w lw part line s := by
  rw [sliceDeny, arrived_only.dramPartOk_eq rfl rfl rfl, sliceDeny]

/-- The bytes of a WrPart are merged into a line that the die may write and that no other core holds. -/
theorem coreRequest_writes (hop : p.op = .wrPart) (hb : s.behind p = false) (hsrc : p.src < 240)
    (hq : LineQuiet (p.src / 20) (p.addr / 64) s) (hvb : vbFind (p.src / 20) (p.addr / 64) s = none)
    (hl : l3Find (p.src / 20) (p.addr / 64) s = some k)
    (hp : (s.l3Pend.any fun q => q.die == p.src / 20 && q.line == p.addr / 64 && !q.dead) = false)
    (hdeny : sliceDeny p.w (s.l3L k).w p.part (p.addr / 64) s = none) (hst : 3 ≤ (s.l3L k).st)
    (hothers : presCores (clrBit (s.l3L k).pres (p.src % 20)) = []) (hc : CoreQuiet p.src s) :
    ((coreRequest p s).l3L k).data = mergeLine (s.l3L k).data p.payload p.mask ∧ ((coreRequest p s).l3L k).st = 4 := by
  set n := p.src / 20
  set line := p.addr / 64 with hline
  set r := arrival n p with hrdef
  set u := (arrived n p s).setL3 k ((s.l3L k).written p) with hu
  have hr : sliceRank r.p = 2 := by simp [hrdef, arrival, hop, sliceRank]
  have hc' : CoreQuiet p.src u := setL3_coreQuiet (arrived_coreQuiet hc)
  obtain ⟨hel3, hequeue⟩ := wrPartEnd_l3_same (line := line) (p := p) hc'
  have htry : coreReqTry r (arrived n p s) = (wrPartEnd p.src line p u, true) := by
    have h := coreReqTry_wrPart (r := r) (s := arrived n p s) (k := k) hop (arrived_vbFind.trans hvb)
      (by rw [arrived_l3Pend]; exact hp) (arrived_l3Find.trans hl)
      (by rw [arrived_l3L, sliceDeny_arrived]; exact hdeny) (by rw [arrived_l3L]; exact hst)
      (by rw [arrived_l3L]; exact hothers)
    rwa [arrived_l3L] at h
  have hreqs : lineReqs n line (sliceTry r (arrived n p s)) = [] := by
    rw [sliceTry_ends hr arrived_mem htry]
    exact lineReqs_ended (r := r) ((lineReqs_of_sliceQ hequeue).trans (arrived_lineReqs hq))
  have hline : (coreRequest p s).l3L k = (s.l3L k).written p := by
    rw [coreRequest, if_pos hsrc, sliceArrive_arrived hb, slicePump_one (arrived_lineReqs hq) hr, slicePass_nil hreqs,
      sliceTry_ends hr arrived_mem htry]
    exact (l3L_of_l3 hel3).trans State.setL3_l3L
  rw [hline]
  exact ⟨rfl, rfl⟩

/-! ## A core leaves a line (R180) -/

/-- The L3 line without core c, with the data that the core had dirty. -/
def L3Line.left (l : L3Line) (c : Nat) (d : Option (Line × BitVec 2)) : L3Line :=
  { l with pres := clrBit l.pres c
           own := if l.own = c then 20 else l.own
           data := d.elim l.data (·.1)
           poison := d.elim l.poison (·.2)
           st := d.elim l.st fun _ => 4 }

theorem coreLeaves_found (hl : l3Find (np / 20) line s = some k) (hq : LineQuiet (np / 20) line s) :
    coreLeaves np line d s = s.setL3 k ((s.l3L k).left (np % 20) d) := by
  have hset : ∀ z, LineQuiet (np / 20) line (s.setL3 k z) := fun _ => hq
  simp only [coreLeaves, hl]
  cases d with
  | none => exact slicePump_idle (hset _)
  | some x => exact slicePump_idle (hset _)

theorem coreGone_leaves (hb : s.behind p = false) (hl : l3Find (p.src / 20) (p.addr / 64) s = some k)
    (hq : LineQuiet (p.src / 20) (p.addr / 64) s) : (coreGone p d s).l3L k = (s.l3L k).left (p.src % 20) d := by
  rw [coreGone, hb, if_neg Bool.false_ne_true, coreLeaves_found (take_pkt_l3Find.trans hl) (take_pkt_lineQuiet hq),
    State.setL3_l3L, take_pkt_l3L]

/-- The data of a WbL is dirty in the L3, and the core is off the line. -/
theorem coreGone_dirty {x : Line} {po : BitVec 2} (hb : s.behind p = false)
    (hl : l3Find (p.src / 20) (p.addr / 64) s = some k) (hq : LineQuiet (p.src / 20) (p.addr / 64) s) :
    ((coreGone p (some (x, po)) s).l3L k).data = x ∧ ((coreGone p (some (x, po)) s).l3L k).st = 4 ∧
    ((coreGone p (some (x, po)) s).l3L k).pres = clrBit (s.l3L k).pres (p.src % 20) ∧
    ((coreGone p (some (x, po)) s).l3L k).poison = po := by
  rw [coreGone_leaves hb hl hq]
  exact ⟨rfl, rfl, rfl, rfl⟩

/-- An EvL takes the core off the line and leaves its data. -/
theorem coreGone_clean (hb : s.behind p = false) (hl : l3Find (p.src / 20) (p.addr / 64) s = some k)
    (hq : LineQuiet (p.src / 20) (p.addr / 64) s) :
    ((coreGone p none s).l3L k).data = (s.l3L k).data ∧ ((coreGone p none s).l3L k).st = (s.l3L k).st ∧
    ((coreGone p none s).l3L k).pres = clrBit (s.l3L k).pres (p.src % 20) := by
  rw [coreGone_leaves hb hl hq]
  exact ⟨rfl, rfl, rfl⟩

/-! ## Snoops of a slice to a core (R180, R186) -/

section
variable (hon : l2On np s = true) (hk : l2Has np line s = some k)
include hon hk

/-- A snoop for sharing leaves S in the L2, and the die has the dirty data. -/
theorem answerSnoop_shared (hst : (s.l2L k).st = 3) (hl : l3Find (np / 20) line s = some j)
    (hq : LineQuiet (np / 20) line s) :
    ((answerSnoop np line false s).l2L k).st = 1 ∧ ((answerSnoop np line false s).l2L k).data = (s.l2L k).data ∧
    ((answerSnoop np line false s).l3L j).data = (s.l2L k).data ∧ ((answerSnoop np line false s).l3L j).st = 4 := by
  set u := loseResv np line (s.setL2 k { s.l2L k with st := 1, ten := false }) with hu
  have hul : l3Find (np / 20) line u = some j := (l3Find_of_l3 (loseResv_only.l3_eq rfl)).trans hl
  have huq : ∀ z, LineQuiet (np / 20) line (u.setL3 j z) := fun _ =>
    lineQuiet_of_sliceQ (s := s) (loseResv_only.sliceQ_eq rfl) hq
  have hu2 : u.l2L k = { s.l2L k with st := 1, ten := false } := (l2L_of_l2 (loseResv_only.l2_eq rfl)).trans State.setL2_l2L
  simp only [answerSnoop, hon, hk, hst, if_true, Bool.false_eq_true, if_false, ← hu, hul, slicePump_idle (huq _),
    State.setL3_l2L, State.setL3_l3L, hu2, and_self]

/-- A snoop for ownership leaves I in the L2, and the die has the dirty data. -/
theorem answerSnoop_exclusive (hst : (s.l2L k).st = 3) (hl : l3Find (np / 20) line s = some j)
    (hq : LineQuiet (np / 20) line s) (hc : CoreQuiet np s) :
    ((answerSnoop np line true s).l2L k).st = 0 ∧
    (answerSnoop np line true s).l3L j = (s.l3L j).left (np % 20) (some ((s.l2L k).data, (s.l2L k).poison)) := by
  have hl3 : (coreInval np line s).l3 = s.l3 := coreInval_only.l3_eq rfl
  have hleaves := coreLeaves_found (d := some ((s.l2L k).data, (s.l2L k).poison)) ((l3Find_of_l3 hl3).trans hl)
    (lineQuiet_of_sliceQ (coreInval_only.sliceQ_eq rfl) hq)
  have hanswer : answerSnoop np line true s = (coreInval np line s).setL3 j
      ((s.l3L j).left (np % 20) (some ((s.l2L k).data, (s.l2L k).poison))) := by
    simp only [answerSnoop, hon, hk, hst, if_true, hleaves, l3L_of_l3 hl3]
    exact corePump_idle (setL3_coreQuiet (coreInval_coreQuiet hon hk hc))
  rw [hanswer, State.setL3_l2L, State.setL3_l3L]
  exact ⟨coreInval_l2L hon hk, rfl⟩

end

section
variable (hb : s.behind p = false) (hon : l2On p.dst s = true) (hk : l2Has p.dst (p.addr / 64) s = some k)
include hb hon hk

/-- A snoop that meets a line outside its tenure is answered. -/
theorem coreSnoop_answers {excl : Bool} (hten : (s.l2L k).ten = false) :
    coreSnoop p excl s = answerSnoop p.dst (p.addr / 64) excl (s.take (.pkt p)) := by
  simp [coreSnoop, hb, take_pkt_l2On, hon, take_pkt_l2Has, hk, take_pkt_l2L, hten]

theorem coreSnoop_shared (hten : (s.l2L k).ten = false) (hst : (s.l2L k).st = 3)
    (hl : l3Find (p.dst / 20) (p.addr / 64) s = some j) (hq : LineQuiet (p.dst / 20) (p.addr / 64) s) :
    ((coreSnoop p false s).l2L k).st = 1 ∧ ((coreSnoop p false s).l2L k).data = (s.l2L k).data ∧
    ((coreSnoop p false s).l3L j).data = (s.l2L k).data ∧ ((coreSnoop p false s).l3L j).st = 4 := by
  have hanswer := answerSnoop_shared (take_pkt_l2On.trans hon) (take_pkt_l2Has.trans hk)
    ((congrArg L2Line.st take_pkt_l2L).trans hst) (take_pkt_l3Find.trans hl) (take_pkt_lineQuiet (p := p) hq)
  rwa [take_pkt_l2L, ← coreSnoop_answers hb hon hk hten] at hanswer

theorem coreSnoop_exclusive (hten : (s.l2L k).ten = false) (hst : (s.l2L k).st = 3)
    (hl : l3Find (p.dst / 20) (p.addr / 64) s = some j) (hq : LineQuiet (p.dst / 20) (p.addr / 64) s)
    (hc : CoreQuiet p.dst s) :
    ((coreSnoop p true s).l2L k).st = 0 ∧ ((coreSnoop p true s).l3L j).data = (s.l2L k).data ∧
    ((coreSnoop p true s).l3L j).st = 4 ∧ ((coreSnoop p true s).l3L j).pres = clrBit (s.l3L j).pres (p.dst % 20) := by
  obtain ⟨hinvalid, hline⟩ := answerSnoop_exclusive (take_pkt_l2On.trans hon) (take_pkt_l2Has.trans hk)
    ((congrArg L2Line.st take_pkt_l2L).trans hst) (take_pkt_l3Find.trans hl) (take_pkt_lineQuiet hq) (take_pkt_coreQuiet hc)
  rw [coreSnoop_answers hb hon hk hten, hline, take_pkt_l2L, take_pkt_l3L]
  exact ⟨hinvalid, rfl, rfl, rfl⟩

/-- A snoop that meets the tenure of the line waits for its end. -/
theorem coreSnoop_waits {excl : Bool} (hten : (s.l2L k).ten = true) :
    (coreSnoop p excl s).l2Held = s.l2Held ++ [⟨p.dst, p.addr / 64, p, 0⟩] ∧ (coreSnoop p excl s).l2 = s.l2 := by
  have hheld : (s.take (.pkt p)).l2Held = s.l2Held := take_pkt_only.l2Held_eq rfl
  have hwait : coreSnoop p excl s = { (s.take (.pkt p)).satInc F.CD_COH_STATUS_TENURE_DLY (p.dst / 20) with
      l2Held := s.l2Held ++ [⟨p.dst, p.addr / 64, p, 0⟩] } := by
    simp [coreSnoop, hb, take_pkt_l2On, hon, take_pkt_l2Has, hk, take_pkt_l2L, hten, hheld]
  rw [hwait]
  exact ⟨rfl, take_pkt_l2⟩

/-- An InvL that meets the line in S leaves I, and the slice counts the core out. -/
theorem coreInvL_leaves (hst : (s.l2L k).st = 1) (hlv : leaving p.dst (p.addr / 64) s = false)
    (hl : l3Find (p.dst / 20) (p.addr / 64) s = some j) (hq : LineQuiet (p.dst / 20) (p.addr / 64) s)
    (hc : CoreQuiet p.dst s) :
    ((coreInvL p s).l2L k).st = 0 ∧ ((coreInvL p s).l3L j).pres = clrBit (s.l3L j).pres (p.dst % 20) := by
  set u := s.take (.pkt p) with hu
  have huon : l2On p.dst u = true := take_pkt_l2On.trans hon
  have huk : l2Has p.dst (p.addr / 64) u = some k := take_pkt_l2Has.trans hk
  have hust : (u.l2L k).st = 1 := (congrArg L2Line.st take_pkt_l2L).trans hst
  have howned : l2Owned p.dst (p.addr / 64) u = none := by simp [l2Owned, huon, huk, hust]
  have hl3 : (coreInval p.dst (p.addr / 64) u).l3 = u.l3 := coreInval_only.l3_eq rfl
  have hleaves := coreLeaves_found (d := none) ((l3Find_of_l3 hl3).trans (take_pkt_l3Find.trans hl))
    (lineQuiet_of_sliceQ (coreInval_only.sliceQ_eq rfl) (take_pkt_lineQuiet hq))
  have hstays : leaving p.dst (p.addr / 64) (coreInval p.dst (p.addr / 64) u) = false := by
    rw [leaving, coreInval_only.out_eq rfl]
    exact take_pkt_leaving hlv
  have hinv : coreInvL p s = (coreInval p.dst (p.addr / 64) u).setL3 j ((u.l3L j).left (p.dst % 20) none) := by
    simp only [coreInvL, hb, Bool.false_eq_true, if_false, ← hu, howned, Option.isSome_none, hstays, hleaves, l3L_of_l3 hl3]
    exact corePump_idle (setL3_coreQuiet (coreInval_coreQuiet huon huk (take_pkt_coreQuiet hc)))
  rw [hinv, State.setL3_l2L, State.setL3_l3L, hu, take_pkt_l3L]
  exact ⟨coreInval_l2L huon huk, rfl⟩

end

/-- The end of a tenure for which no snoop waits changes the mark of the tenure alone. -/
theorem tenureEnds_line (hk : l2Has np line s = some k) (hh : (s.l2Held.any fun r => r.die == np && r.line == line) = false) :
    ((tenureEnds np line s).l2L k).ten = false ∧ ((tenureEnds np line s).l2L k).data = (s.l2L k).data ∧
    ((tenureEnds np line s).l2L k).st = (s.l2L k).st := by
  have hheld : (s.l2Held.filter fun r => r.die == np && r.line == line) = [] :=
    List.filter_eq_nil_iff.mpr (List.any_eq_false.mp hh)
  have hl2 : (tenureEnds np line s).l2 = (s.setL2 k { s.l2L k with ten := false }).l2 := by
    have hset : (s.setL2 k { s.l2L k with ten := false }).l2Held = s.l2Held := rfl
    simp only [tenureEnds, hk, hset, hheld, List.foldl_nil]
  rw [l2L_of_l2 hl2, State.setL2_l2L]
  exact ⟨rfl, rfl, rfl⟩

end

/-- Settles O14: a request that misses becomes a request of its slice, the other packets change one line of the L2 and the L3,
and at a quiet slice and a quiet core nothing else goes on. -/
theorem coreRequests : Obligations.CoreRequests :=
  ⟨fun _ _ hb hsrc hq hvb hl hp => ⟨_, rfl, coreRequest_asks rfl hb hsrc hq hvb hl hp⟩,
    fun _ _ hb hsrc hq hvb hl hp => ⟨_, rfl, coreRequest_asks rfl hb hsrc hq hvb hl hp⟩,
    fun _ _ hb hsrc hq hvb hl hp => ⟨_, rfl, coreRequest_asks rfl hb hsrc hq hvb hl hp⟩,
    fun _ _ hb hsrc hq hvb hl hp => ⟨_, rfl, coreRequest_asks rfl hb hsrc hq hvb hl hp⟩,
    fun _ _ hb hsrc hq hvb hl hp => ⟨_, rfl, coreRequest_asks rfl hb hsrc hq hvb hl hp⟩,
    fun _ _ _ hb hsrc hq hvb hl hp hdeny hst hothers hc =>
      ⟨_, rfl, coreRequest_writes rfl hb hsrc hq hvb hl hp hdeny hst hothers hc⟩,
    fun _ _ _ hb hl hq => ⟨_, rfl, coreGone_dirty hb hl hq⟩,
    fun _ _ _ hb hl hq => ⟨_, rfl, coreGone_clean hb hl hq⟩,
    fun _ _ _ _ hb hon hk hten hst hl hq => ⟨_, rfl, coreSnoop_shared hb hon hk hten hst hl hq⟩,
    fun _ _ _ _ hb hon hk hten hst hl hq hc => ⟨_, rfl, coreSnoop_exclusive hb hon hk hten hst hl hq hc⟩,
    fun _ _ _ hb hon hk hten => ⟨_, rfl, coreSnoop_waits hb hon hk hten⟩,
    fun _ _ _ _ hb hon hk hst hlv hl hq hc => ⟨_, rfl, coreInvL_leaves hb hon hk hst hlv hl hq hc⟩,
    fun _ _ _ _ hk hh => ⟨_, rfl, tenureEnds_line hk hh⟩⟩

end Sys2Proof.Machine

/-! # Counterexamples to O15 and O16: two transactions on one line

`HaQuiet` looks at each transaction by itself, and the home agent goes on with the first transaction of a line whenever any
transaction of that line is without a memory access. A transaction that waits for its CmpAck and has no memory access is
quiet by itself; behind another one of its line that is ready to end, it makes `haRetry` end both. A home agent is meant to
serve one transaction of a line at a time (R185), but the statements are about every state. -/

namespace Sys2Proof.Machine

/-- A recall whose answers are all in: it ends as soon as the home agent goes on with its line. -/
def readyRecall (line : Nat) : HaTx := { line := line, req := none, st := 1, w := true, mem := 2 }

/-- A transaction that is open for a CmpAck alone. -/
def ackOpen (line : Nat) : HaTx := { line := line, req := none, st := 1, w := true, ack := true }

/-- A ready recall, and behind it a transaction of the same line that is without a memory access. -/
def pairOn (line : Nat) : List HaTx := [readyRecall line, ackOpen line]

/-- Line 0x2000 has two transactions. -/
def doubledLine : State := { State.reset with haTx := pairOn 0x2000 }

/-- An Open read of line 0x1000, which is Secure. -/
def openRead : Packet := { op := .getS, src := 20, dst := 0x100, addr := 0x1000 }

theorem doubledLine_haQuiet : HaQuiet doubledLine := by decide +kernel

theorem openRead_refused : doubledLine.behind openRead = false ∧ haCredit (mcOf openRead.addr) openRead.cls doubledLine = true ∧
    inDram (lineOf openRead.addr) doubledLine = true ∧ dramWorld (lineOf openRead.addr) doubledLine = true := by decide +kernel

/-- What the home agent retries after the refusal ends both transactions of line 0x2000. -/
theorem openRead_ends_pair : (haRequest openRead false false doubledLine).haTx = [] := by decide +kernel

/-- Refutes O15 by its last clause, which holds the transactions to be the same after a refused GetS. Here the refusal at
0x1000 makes the home agent retry, and the two transactions of line 0x2000, which HaQuiet admits, end. -/
theorem not_homeRequests : ¬ Obligations.HomeRequests := by
  unfold Obligations.HomeRequests
  rintro ⟨-, -, -, -, -, -, -, -, -, -, -, -, -, hrefused⟩
  obtain ⟨hbehind, hcredit, hdram, hworld⟩ := openRead_refused
  obtain ⟨t, ht, -, -, hkept, -⟩ := hrefused openRead doubledLine hbehind doubledLine_haQuiet hcredit rfl hdram hworld
  have hnone : t.haTx = [] := Host.Outcome.next.inj ht ▸ openRead_ends_pair
  exact List.cons_ne_nil _ _ (hkept.symm.trans hnone)

/-- CD1 owns line 0x1000, whose transaction waits for its CmpAck. Two transactions are on the line 2^38 bytes above, beyond the
end of DRAM, where the address map has the same directory entry for it. -/
def doubledAlias : State :=
  { State.reset.setDir (dirKey 0x1000 0) { valid := true, ex := true, busy := true, pv := 2, fdie := 1, tag := dirTag 0x1000 } with
    haTx := ackOpen 0x1000 :: pairOn (2 ^ 38 + 0x1000) }

/-- The CmpAck of CD1 for line 0x1000. -/
def installed : Packet := { op := .cmpAck, src := 24, dst := 0x100, addr := 0x1000 }

theorem doubledAlias_haQuiet : HaQuiet doubledAlias := by decide +kernel

theorem installed_expected : doubledAlias.behind installed = false ∧
    haTxOf (lineOf installed.addr) doubledAlias = some (ackOpen 0x1000) ∧
    dirFind (lineOf installed.addr) doubledAlias = some (dirKey 0x1000 0) ∧
    (doubledAlias.dirE (dirKey 0x1000 0)).pv = 2 := by decide +kernel

/-- The recall that ends with the retry frees the entry of the line. -/
theorem installed_frees_entry : ((haCmpAck installed doubledAlias).dirE (dirKey 0x1000 0)).pv = 0 := by decide +kernel

/-- Refutes O16 by its clause of CmpAck, which holds the dies of the entry to be the same. Here CmpAck closes the transaction
of line 0x1000 and makes the home agent retry, and the recall on the line 2^38 bytes above, which HaQuiet admits behind no
snoop, ends and frees the entry that the two lines share. -/
theorem not_snoopResponses : ¬ Obligations.SnoopResponses := by
  unfold Obligations.SnoopResponses
  rintro ⟨-, -, -, -, -, -, -, -, -, -, -, -, -, -, hack, -⟩
  obtain ⟨hbehind, htx, hentry, hpv⟩ := installed_expected
  obtain ⟨t, ht, -, -, hkept⟩ := hack installed (ackOpen 0x1000) (dirKey 0x1000 0) doubledAlias hbehind doubledAlias_haQuiet htx
    rfl hentry (by rw [hpv]; decide)
  have hfreed : (t.dirE (dirKey 0x1000 0)).pv = 0 := Host.Outcome.next.inj ht ▸ installed_frees_entry
  exact absurd (hpv.symm.trans (hkept.symm.trans hfreed)) (by decide)

end Sys2Proof.Machine

/-! # A counterexample to O17: an atomic performs with the fill

The grant that O17 speaks of gives the core the line in E, and what the core has pending goes on with the fill. Where that is
a NEAR AMO on the line, the L2 goes from E to M, and the die with it (R180). -/

namespace Sys2Proof.Machine

/-- The read of line 64 that the prefetcher of core 22 has asked for. -/
def prefetchRead : Packet := { op := .rdS, src := 22, addr := 0x1000, w := true }

/-- The request of the slice for that read. -/
def prefetchPend : L3Pend := { die := 1, line := 64, tag := 0, op := .getS, req := prefetchRead, dead := false }

/-- An AMO of 8 bytes on line 64 is the pending load of the hart. -/
def amoHart : Hart :=
  { loads := [{ id := 0, pc := 0, dst := .x 5 true, accs := [{ va := 0x1000, pa := 0x1000, size := 8, pbmt := 0 }], part := 0,
                v := false, w := true, cls := .be, stream := false, amo := some (0, 1, 0) }] }

/-- Hart 20 on core 22 waits with its AMO for the line that the prefetcher has asked for. Every way of its L3 slice works. -/
def amoBehindPrefetch : State :=
  { State.reset.setB F.CD_CORE_CACHE_CTRL_L2_EN 22 true with
    regs := smapInsert (State.reset.setB F.CD_CORE_CACHE_CTRL_L2_EN 22 true).regs (Reg.key .CD_L3_WAYDIS 24) 0
    harts := [(20, amoHart)]
    l2Pend := [{ np := 22, line := 64, op := .rdS, stream := true }]
    l3Pend := [prefetchPend]
    sliceQ := [⟨1, 64, prefetchRead, 0⟩] }

/-- The home agent grants the line in E. -/
def prefetchGrant : Packet := { op := .dataE, src := 0x100, dst := 24, addr := 0x1000, w := true, data := true, payload := 0x77 }

theorem prefetchRead_waits : amoBehindPrefetch.behind prefetchGrant = false ∧
    (amoBehindPrefetch.sliceQ.filter fun r => r.die == prefetchGrant.dst / 20 && r.line == prefetchGrant.addr / 64) =
      [{ die := prefetchGrant.dst / 20, line := prefetchGrant.addr / 64, p := prefetchPend.req, sent := 0 }] ∧
    vbFind (prefetchGrant.dst / 20) (prefetchGrant.addr / 64) amoBehindPrefetch = none := by decide +kernel

theorem prefetchPend_granted :
    (amoBehindPrefetch.l3Pend.find? fun q =>
      q.die == prefetchGrant.dst / 20 && q.line == prefetchGrant.addr / 64 && q.tag == prefetchGrant.tag) = some prefetchPend ∧
    (amoBehindPrefetch.l3Pend.all fun y =>
      y == prefetchPend || !(y.die == prefetchGrant.dst / 20 && y.line == prefetchGrant.addr / 64)) = true ∧
    amoBehindPrefetch.l3Pend.Nodup := by decide +kernel

theorem prefetchGrant_way : l3Find (prefetchGrant.dst / 20) (prefetchGrant.addr / 64) amoBehindPrefetch = none ∧
    ((l3Ways (prefetchGrant.dst / 20) (prefetchGrant.addr / 64) prefetchPend.req.part amoBehindPrefetch).1.find? fun x =>
      (amoBehindPrefetch.l3L (l3Key (prefetchGrant.dst / 20) (prefetchGrant.addr / 64) x)).st == 0) = some 0 ∧
    sliceDeny prefetchPend.req.w prefetchGrant.w prefetchPend.req.part (prefetchGrant.addr / 64) amoBehindPrefetch = none := by
  decide +kernel

/-- The AMO has performed with the fill, and the line of the die is in M. -/
theorem prefetchGrant_modified :
    ((dieSnoop prefetchGrant amoBehindPrefetch).l3L (l3Key (prefetchGrant.dst / 20) (prefetchGrant.addr / 64) 0)).st = 4 := by
  decide +kernel

/-- Refutes O17 by its clause of a DataE for which the read of a core waits: it holds the line to be in E afterwards, and says
nothing of the core. A hart whose AMO waits for a line that its prefetcher has asked for performs the AMO with the fill, and
the line of the die goes from E to M at the same time (R180). -/
theorem not_dieSnoopsAndGrants : ¬ Obligations.DieSnoopsAndGrants := by
  unfold Obligations.DieSnoopsAndGrants
  rintro ⟨-, -, -, -, -, -, -, -, -, -, -, -, -, hread, -⟩
  obtain ⟨hbehind, hqueue, hvictim⟩ := prefetchRead_waits
  obtain ⟨hpend, hothers, hnodup⟩ := prefetchPend_granted
  obtain ⟨hmiss, hway, hallowed⟩ := prefetchGrant_way
  obtain ⟨t, ht, hst, -⟩ := hread prefetchGrant prefetchPend 0 amoBehindPrefetch hbehind (by decide) hqueue rfl (by decide) hvictim
    hpend hothers hnodup rfl hmiss hway hallowed
  have hmodified : (t.l3L (l3Key (prefetchGrant.dst / 20) (prefetchGrant.addr / 64) 0)).st = 4 :=
    Host.Outcome.next.inj ht ▸ prefetchGrant_modified
  exact absurd (hst.symm.trans hmodified) (by decide)

end Sys2Proof.Machine

/-! # A counterexample to O19: two transactions on one line

A write drain lets the home agents go on, as a refused request does, and with two transactions on one line `HaQuiet` does not
say that they have nothing to do. -/

namespace Sys2Proof.Machine

/-- What the home agents retry after a drain of the empty write queue ends both transactions of line 0x2000. -/
theorem emptyDrain_ends_pair : (mcWritesGo (mcDrain 0x1000 (windowRuns 0x1000 doubledLine))).haTx = [] := by decide +kernel

/-- Refutes O19 by its clause of a drain that finds no queued write of its line, which holds the transactions to be the same.
The drain makes the home agents retry, and the two transactions of line 0x2000, which HaQuiet admits, end. -/
theorem not_memoryControllers : ¬ Obligations.MemoryControllers := by
  unfold Obligations.MemoryControllers
  rintro ⟨-, -, -, -, -, -, -, -, -, -, -, -, -, hempty, -⟩
  obtain ⟨t, ht, -, -, -, hkept⟩ := hempty 0x1000 doubledLine doubledLine_haQuiet (by decide +kernel) (by decide +kernel)
  have hnone : t.haTx = [] := Host.Outcome.next.inj ht ▸ emptyDrain_ends_pair
  exact List.cons_ne_nil _ _ (hkept.symm.trans hnone)

end Sys2Proof.Machine

/-! # A counterexample to O20: a pair of NC memory

A load of 16 bytes of NC memory is two accesses of 8 bytes, lower word first (R141, R214): the first read answers nothing, and
the request queues again for its upper word. -/

namespace Sys2Proof.Machine

/-- A core of CD1 reads the 16 bytes at the start of line 0x1000, which is NC: AUX gives the size less 1. -/
def pairRead : Packet := { op := .rdNC, src := 20, dst := 0x100, addr := 0x1000, w := true, aux := BitVec.ofNat 32 (15 * 64) }

/-- The transaction of the pair waits for its read of memory. -/
def pairTx : HaTx := { line := 0x1000, req := some pairRead, st := 0, w := true, mem := 1 }

/-- The bank of the line works on that read. -/
def pairAsked : McReq := { addr := 0x1000, kind := 0, cls := .be, part := 0, deferred := false, late := false, issued := true }

/-- The controller is about to complete the read of the lower word. -/
def pairUnderWay : State := { State.reset with mcq := [pairAsked], haTx := [pairTx] }

theorem pairUnderWay_haQuiet : HaQuiet pairUnderWay := by decide +kernel

theorem pairUnderWay_ready : inSelfRefresh 0x1000 pairUnderWay = false ∧ mcReady 0x1000 pairUnderWay = some pairAsked ∧
    codeOf (lineOf 0x1000) pairUnderWay = 0 ∧ wrFind (lineOf 0x1000) pairUnderWay = none ∧
    haTxOf 0x1000 pairUnderWay = some pairTx ∧
    dieAbsent (mcOf (lineOf 0x1000)) (dieOfAgent pairRead.src) pairUnderWay = false := by decide +kernel

/-- The read of the lower word sends nothing to the core. -/
theorem pairRead_unanswered :
    sent (answerOp .rdNC) pairRead.src pairRead.addr (mcReadDone 0x1000 (windowRuns 0x1000 pairUnderWay)) = false := by
  decide +kernel

theorem exec_pairRead : exec (.dramReadComplete 0x1000) pairUnderWay =
    .next (mcReadDone 0x1000 (windowRuns 0x1000 pairUnderWay)) := by
  obtain ⟨hawake, hready, -⟩ := pairUnderWay_ready
  show execDramReadComplete 0x1000 pairUnderWay = _
  simp [execDramReadComplete, hawake, hready]

/-- Refutes O20 by its clause of a completed RdNC, which holds the answer to be sent. The read of the lower word of a pair
answers nothing. -/
theorem not_controllerRegisters : ¬ Obligations.ControllerRegisters := by
  unfold Obligations.ControllerRegisters
  rintro ⟨-, -, -, -, -, -, -, -, -, -, -, hrdNC, -⟩
  obtain ⟨hawake, hready, hplain, hfree, htx, hhere⟩ := pairUnderWay_ready
  obtain ⟨t, ht, hsent, -⟩ := hrdNC 0x1000 pairAsked pairTx pairRead pairUnderWay pairUnderWay_haQuiet hawake hready rfl hplain
    hfree htx rfl rfl rfl rfl rfl rfl rfl rfl (by decide) hhere rfl
  have hnone : sent (answerOp .rdNC) pairRead.src pairRead.addr t = false :=
    Host.Outcome.next.inj (exec_pairRead.symm.trans ht) ▸ pairRead_unanswered
  exact Bool.noConfusion (hnone.symm.trans hsent)

end Sys2Proof.Machine

/-! # Which bytes of DRAM a command changes

Bytes reach DRAM by the burst of a queued write and by a raw access; both store a line and its check fields, whose places the
region table fixes. -/

namespace Sys2Proof.Machine

section
variable {s t : State} {W a b h i cmd : Nat} {e : WrEntry} {d : Line} {p halves : BitVec 2}

/-! ## The region table -/

/-- The region table is the same in two states. -/
def RegionsKept (s t : State) : Prop :=
  (∀ i, t.r .MC_REGION_BASE i = s.r .MC_REGION_BASE i) ∧ ∀ i, t.r .MC_REGION_CODE i = s.r .MC_REGION_CODE i

theorem Only.regionsKept (ho : Only W s t) (hbase : W.testBit Reg.MC_REGION_BASE.mark = false)
    (hcode : W.testBit Reg.MC_REGION_CODE.mark = false) : RegionsKept s t :=
  ⟨ho.2.2 _ hbase, ho.2.2 _ hcode⟩

theorem RegionsKept.trans {u : State} (hst : RegionsKept s t) (htu : RegionsKept t u) : RegionsKept s u :=
  ⟨fun i => (htu.1 i).trans (hst.1 i), fun i => (htu.2 i).trans (hst.2 i)⟩

theorem setR_regionsKept {g : Reg} {v : Word} (hbase : Reg.MC_REGION_BASE ≠ g) (hcode : Reg.MC_REGION_CODE ≠ g) :
    RegionsKept s (s.setR g i v) :=
  ⟨fun _ => State.r_setR_reg _ hbase .., fun _ => State.r_setR_reg _ hcode ..⟩

theorem regionHas_of_base (hk : ∀ i, t.r .MC_REGION_BASE i = s.r .MC_REGION_BASE i) : regionHas i b t = regionHas i b s := by
  have hf {f : Fld} (hr : f.reg = .MC_REGION_BASE) : t.f f i = s.f f i := by rw [State.f, hr, hk i, State.f, hr]
  simp only [regionHas, State.b, hf (f := F.MC_REGION_BASE_VALID) rfl, hf (f := F.MC_REGION_BASE_BASE) rfl,
    hf (f := F.MC_REGION_BASE_SIZE) rfl]

theorem RegionsKept.codeOf_eq (hk : RegionsKept s t) : codeOf a t = codeOf a s := by
  obtain ⟨hbase, hcode⟩ := hk
  simp only [codeOf, regionOf, regionHas_of_base hbase, State.f, hcode]

theorem RegionsKept.lineStore_eq (hk : RegionsKept s t) : lineStore a b t = lineStore a b s := by
  simp only [lineStore, hk.codeOf_eq]

/-- Regions are made of whole lines. -/
theorem codeOf_lineOf : codeOf (lineOf a) s = codeOf a s := by
  have hunit : a / 64 * 64 / 2 ^ 21 = a / 2 ^ 21 := by omega
  simp only [codeOf, regionOf, regionHas, lineOf, hunit]

theorem lineStore_lineOf : lineStore (lineOf a) b s = lineStore a b s := by simp only [lineStore, lineOf_lineOf]

/-! ## The bytes that a store leaves alone -/

/-- A byte that the store of a line does not write lies outside the line, and in a coded region outside its check fields. -/
theorem outside_of_lineStore (hout : lineStore a b s = false) : (b < lineOf a ∨ lineOf a + 64 ≤ b) ∧
    (codeOf a s ≠ 0 → ∀ h, h < 2 → b < checkAt (codeOf a s) (lineOf a) h ∨
      checkAt (codeOf a s) (lineOf a) h + checkLen (codeOf a s) ≤ b) := by
  simp only [lineStore, codeOf_lineOf, Bool.or_eq_false_iff, Bool.and_eq_false_iff, decide_eq_false_iff_not, not_le, not_lt,
    bne_eq_false_iff_eq] at hout
  obtain ⟨hline, hcheck⟩ := hout
  refine ⟨hline, fun hcode h hh => ?_⟩
  obtain ⟨hlower, hupper⟩ := hcheck.resolve_left hcode
  obtain rfl | rfl : h = 0 ∨ h = 1 := by omega
  · exact hlower
  · exact hupper

theorem dramHalf_byte (hh : h < 2) (hout : lineStore a b s = false) : (dramHalf a h d p s).byte b = s.byte b := by
  obtain ⟨hline, hcheck⟩ := outside_of_lineStore hout
  have hhalf (v : Nat) : (s.setBytes (lineOf a + 32 * h) 32 v).byte b = s.byte b :=
    State.byte_setBytes_ne _ _ _ _ _ (by omega)
  unfold dramHalf
  dsimp only
  split
  · exact hhalf _
  · next hcode => rw [codeOf_lineOf.symm.trans codeOf_lineOf, State.byte_setBytes_ne _ _ _ _ _ (hcheck hcode h hh), hhalf]

theorem dramHalf_regionsKept : RegionsKept s (dramHalf a h d p s) :=
  (only_dramHalf (Nat.and_self _) (.refl _ s)).regionsKept rfl rfl

theorem dramPut_byte (hout : lineStore e.addr b s = false) : (dramPut e s).byte b = s.byte b := by
  have hlower : (dramHalf e.addr 0 e.data e.poison s).byte b = s.byte b := dramHalf_byte (by decide) hout
  have hout' : lineStore e.addr b (dramHalf e.addr 0 e.data e.poison s) = false :=
    dramHalf_regionsKept.lineStore_eq.trans hout
  unfold dramPut
  dsimp only
  split <;> split
  · rw [dramHalf_byte (by decide) hout', hlower]
  · exact dramHalf_byte (by decide) hout
  · exact hlower
  · rfl

/-- The burst of a queued write stores its line alone. -/
theorem mcBurst_byte (hout : lineStore e.addr b s = false) : (mcBurst e s).byte b = s.byte b := by
  have hk : RegionsKept s ({ s with wrq := s.wrq.erase e }.setFbit F.MC_STATUS_PWRDN (mcOf e.addr) (mcSub e.addr) false) :=
    setR_regionsKept (s := { s with wrq := s.wrq.erase e }) (by decide) (by decide)
  exact dramPut_byte (hk.lineStore_eq.trans hout)

theorem mcBurst_regionsKept : RegionsKept s (mcBurst e s) := (only_mcBurst (Nat.and_self _) (.refl _ s)).regionsKept rfl rfl

theorem wrFind_addr (hf : wrFind a s = some e) : e.addr = lineOf a := by
  have := List.find?_some hf
  simpa using this

theorem mcDrain_byte (hout : lineStore a b s = false) : (mcDrain a s).byte b = s.byte b := by
  unfold mcDrain
  split
  · rfl
  · next hf =>
    split
    · rfl
    · exact mcBurst_byte (by rw [wrFind_addr hf, lineStore_lineOf, hout])

theorem mcDrain_testRun : (mcDrain a s).testRun = s.testRun := by
  unfold mcDrain
  split
  · rfl
  · split
    · rfl
    · exact mcBurst_testRun ..

/-- Bursts of queued writes of one line, one after another. -/
theorem foldl_mcBurst_byte {l : List WrEntry} (hl : ∀ e ∈ l, e.addr = lineOf a) (hout : lineStore a b s = false) :
    (l.foldl (fun t e => mcBurst e t) s).byte b = s.byte b := by
  induction l generalizing s with
  | nil => rfl
  | cons e l ih =>
    have he : e.addr = lineOf a := hl e List.mem_cons_self
    rw [List.foldl_cons, ih (fun x hx => hl x (List.mem_cons_of_mem _ hx)) (mcBurst_regionsKept.lineStore_eq.trans hout),
      mcBurst_byte (by rw [he, lineStore_lineOf, hout])]

theorem mcDrainAll_byte (hout : lineStore a b s = false) : (mcDrainAll (· == lineOf a) s).byte b = s.byte b :=
  foldl_mcBurst_byte (fun e he => by simpa using (List.mem_filter.mp he).2) hout

/-! ## A write into a queue with room -/

theorem wrFull_of_room (hroom : WriteRoom s) : wrFull a s = false := by
  rw [wrFull, decide_eq_false (Nat.not_le.mpr (hroom _ _)), Bool.and_false]

theorem wrFull_of_wrq (hq : t.wrq = s.wrq) : wrFull a t = wrFull a s := by simp only [wrFull, wrFind, hq]

/-- A write into the queue of a sub-channel that has room stores nothing. -/
theorem mcPut_mem (hroom : WriteRoom s) : (mcPut a d p halves s).mem = s.mem := by
  unfold mcPut
  extract_lets l x2 s1 e s2 s3 s4
  have h1 : Only 0x302000000000000000000000000000000000000000d0000000000000000000000006 s s1 :=
    only_ite (only_poisonLost (Nat.and_self _) (only_poisonLost (Nat.and_self _) (.refl _ _))) (.refl _ _)
  have hq : s3.wrq = s.wrq := by
    have hq2 : s2.wrq = s1.wrq := by unfold s2; split <;> rfl
    exact hq2.trans (h1.2.1 .mctl rfl).1
  have hm : s3.mem = s.mem := by
    have hm2 : s2.mem = s1.mem := by unfold s2; split <;> rfl
    exact hm2.trans (h1.2.1 .mem rfl)
  have h4 : s4 = s3 := by
    unfold s4
    rw [wrFull_of_wrq hq, wrFull_of_room hroom]
  split
  · exact hm
  · exact (congrArg State.mem h4).trans hm

theorem atomFlush_mem (hroom : WriteRoom s) : (atomFlush a s).mem = s.mem := by
  unfold atomFlush
  split
  · rfl
  · exact mcPut_mem hroom

/-! ## Raw accesses -/

theorem testAddr_in_line : lineOf (testAddr s) ≤ testAddr s ∧ testAddr s + 32 ≤ lineOf (testAddr s) + 64 := by
  simp only [lineOf, testAddr]
  omega

theorem abits5_lt : abits a 5 5 < 2 := Nat.mod_lt _ (by decide)

theorem byte_of_mem (hm : t.mem = s.mem) : t.byte b = s.byte b := by rw [State.byte, hm, State.byte]

/-- A raw access stores the line under test alone: its queued writes, then the codeword and its check field. -/
theorem rawAccess_byte (hroom : WriteRoom s) (hcode : codeOf (testAddr s) s ≠ 0) (hout : lineStore (testAddr s) b s = false) :
    (rawAccess cmd s).byte b = s.byte b := by
  have hflush : RegionsKept s (atomFlush (testAddr s) s) :=
    (only_atomFlush (Nat.and_self _) (.refl _ s)).regionsKept rfl rfl
  have hdrained : (mcDrainAll (· == lineOf (testAddr s)) (atomFlush (testAddr s) s)).byte b = s.byte b :=
    (mcDrainAll_byte (hflush.lineStore_eq.trans hout)).trans (byte_of_mem (atomFlush_mem hroom))
  obtain ⟨hline, hcheck⟩ := outside_of_lineStore hout
  obtain ⟨hlo, hhi⟩ := testAddr_in_line (s := s)
  unfold rawAccess
  extract_lets x code u c
  split
  · exact hdrained
  · rw [State.byte_setBytes_ne _ _ _ _ _ (hcheck hcode _ abits5_lt), State.byte_setBytes_ne _ _ _ _ _ (by omega)]
    exact hdrained

/-- A register of the test mode other than its address leaves the line under test and its directory entry. -/
theorem testAddr_setR {g : Reg} {v : Word} (hg : Reg.MC_ECC_TEST_ADDR ≠ g) : testAddr (s.setR g i v) = testAddr s := by
  rw [testAddr, State.f, State.r_setR_reg _ hg, testAddr, State.f]

theorem testStep_byte (hroom : WriteRoom s) (hdir : dirFind (testAddr s) s = none) (hcode : codeOf (testAddr s) s ≠ 0)
    (hout : lineStore (testAddr s) b s = false) : (testStep cmd s).byte b = s.byte b := by
  unfold testStep
  extract_lets x wait
  split
  · rfl
  · rw [hdir]
    generalize hu : ({ s with testRun := none } : State).setB F.MC_ECC_TEST_STATUS_BUSY 0 false = u
    have hk : RegionsKept s u := hu ▸ setR_regionsKept (s := { s with testRun := none }) (by decide) (by decide)
    have haddr : testAddr u = testAddr s := hu ▸ testAddr_setR (s := { s with testRun := none }) (by decide)
    have hraw : (rawAccess cmd u).byte b = u.byte b :=
      rawAccess_byte (hu ▸ hroom) (by rwa [haddr, hk.codeOf_eq]) (by rwa [haddr, hk.lineStore_eq])
    exact hraw.trans (hu ▸ rfl)

theorem testCmd_byte (hroom : WriteRoom s) (hdir : dirFind (testAddr s) s = none) (hout : lineStore (testAddr s) b s = false) :
    (testCmd cmd s).byte b = s.byte b := by
  unfold testCmd
  extract_lets x res u
  have hk : RegionsKept s u := setR_regionsKept (by decide) (by decide)
  have haddr : testAddr u = testAddr s := testAddr_setR (by decide)
  split
  · rfl
  split
  · rfl
  split
  · rfl
  · next hcode =>
    split
    · rfl
    split
    · have hdir' : dirFind (testAddr u) u = none := by rw [haddr]; exact hdir
      have hstep : (testStep cmd u).byte b = u.byte b :=
        testStep_byte hroom hdir' (by rwa [haddr, hk.codeOf_eq]) (by rwa [haddr, hk.lineStore_eq])
      exact hstep
    · rfl

/-! ## Guarded accesses -/

/-- A refused access stores nothing. -/
theorem guarded_cases (a : Access) (w : Bool) (g : Reg) (i : Nat) (act : State → State) (s : State) :
    guarded a w g i act s = act (s.answer 0) ∨ (guarded a w g i act s).mem = s.mem := by
  unfold guarded
  extract_lets k
  split
  · exact .inr rfl
  · split
    · exact .inl rfl
    · exact .inr ((only_denyWorld (Nat.and_self _) (.refl _ s)).2.1 .mem rfl)
    · exact .inr ((only_denyPart (Nat.and_self _) (.refl _ s)).2.1 .mem rfl)
    · exact .inr rfl

theorem guarded_byte {a : Access} {w : Bool} {g : Reg} {act : State → State}
    (hact : (act (s.answer 0)).byte b = s.byte b) : (guarded a w g i act s).byte b = s.byte b := by
  obtain he | hm := guarded_cases a w g i act s
  · rw [he, hact]
  · exact byte_of_mem hm

theorem testCmdWrite_byte {a : Access} {n : Nat} (hidle : s.testRun = none) (hroom : WriteRoom s)
    (hdir : dirFind (testAddr s) s = none) (hout : lineStore (testAddr s) b s = false) :
    (testCmdWrite a n s).byte b = s.byte b := by
  have hwrite : testWrite (Reg.key .MC_ECC_TEST_CMD 0) (BitVec.ofNat 64 n) (s.answer 0) =
      testCmd ((BitVec.ofNat 64 n).toNat % 8) (s.answer 0) := by
    have hcmd : Reg.ofNat (Reg.key .MC_ECC_TEST_CMD 0 % 1024) = .MC_ECC_TEST_CMD := by decide
    rw [testWrite, State.answer_testRun, hidle, hcmd]
    rfl
  exact guarded_byte (hwrite ▸ testCmd_byte (s := s.answer 0) hroom hdir hout)

/-- GO of MC_INIT stores the bytes of its region alone (R251). -/
theorem mcInitWrite_byte {v : Word} (hout : regionHas (fget F.MC_INIT_REGION v) b s = false) :
    (mcInitWrite v s).byte b = s.byte b := by
  unfold mcInitWrite
  extract_lets n u
  split
  · rfl
  split
  · rfl
  split
  · rfl
  · have hbase (i : Nat) : u.r .MC_REGION_BASE i = s.r .MC_REGION_BASE i := by
      simp only [u, State.setB, State.setF, State.wr]
      rw [State.r_setR_reg _ (by decide), State.r_setR_reg _ (by decide), State.r_setR_reg _ (by decide)]
    have hkept : regionHas n b u = false := (regionHas_of_base hbase).trans hout
    exact smapGet_filter _ fun _ => congrArg Bool.not hkept

/-! ## The commands -/

/-- Every part of the state and every register but the queue of waiting commands, and no store into DRAM. -/
def butStore : Nat := 0x3ffffffffffffffffffffffffffffffffffffffffffffffffffffffffffffffffffffe

theorem sub_butStore {A : Nat}
    (hA : A &&& 0x3ffffffffffffffffffffffffffffffffffffffffffffffffffffffffffffffffffffe = A) : Sub A butStore := hA

/-- The trip of a die, unlike that of the package, keeps DRAM. -/
theorem execThermalTrip_die {n temp : Nat} (hn : n ≠ 12) (hs : Only butStore s t) :
    OnlyOut butStore s (execThermalTrip n temp t) := by
  unfold execThermalTrip
  rw [if_neg hn]
  refine onlyOut_ite (only_next hs) (onlyOut_ite (only_next hs) ?_)
  extract_lets trans hot cool lost
  have hhot : Only butStore s hot := only_freqDrop (sub_butStore rfl) (only_State_setF (sub_butStore rfl) hs)
  have hcool : Only butStore s cool := only_plockOff (sub_butStore rfl) (only_fine (sub_butStore rfl) hhot _)
  have hlost : Only butStore s lost := only_transLost (sub_butStore rfl) (only_report (sub_butStore rfl) hcool)
  exact only_next (only_State_setB (sub_butStore rfl) (only_dieGone (sub_butStore rfl) hlost))

/-- The listed commands store nothing while no raw access waits and the write queues have room. -/
theorem exec_leavesDram (c : Instr) (hc : leavesDram c = true) (s : State) : OnlyOut butStore s (exec c s) := by
  have hs := Only.refl butStore s
  unfold exec
  cases c with
  | getS => exact only_execGetS (sub_butStore rfl) hs
  | getX => exact only_execGetX (sub_butStore rfl) hs
  | upgHA => exact only_execUpgHA (sub_butStore rfl) hs
  | getXZ => exact only_execGetXZ (sub_butStore rfl) hs
  | cboC => exact only_execCboC (sub_butStore rfl) hs
  | cboF => exact only_execCboF (sub_butStore rfl) hs
  | atmH => exact only_execAtmH (sub_butStore rfl) hs
  | rdNC => exact only_execRdNC (sub_butStore rfl) hs
  | wrNC => exact only_execWrNC (sub_butStore rfl) hs
  | wbM => exact only_execWbM (sub_butStore rfl) hs
  | wbC => exact only_execWbC (sub_butStore rfl) hs
  | evC => exact only_execEvC (sub_butStore rfl) hs
  | rspI => exact only_execRspI (sub_butStore rfl) hs
  | rspS => exact only_execRspS (sub_butStore rfl) hs
  | rspFwdS => exact only_execRspFwdS (sub_butStore rfl) hs
  | rspFwdI => exact only_execRspFwdI (sub_butStore rfl) hs
  | rspRclD => exact only_execRspRclD (sub_butStore rfl) hs
  | rspWbP => exact only_execRspWbP (sub_butStore rfl) hs
  | cmpAck => exact only_execCmpAck (sub_butStore rfl) hs
  | dieLost => exact only_execDieLost (sub_butStore rfl) hs
  | bankRefresh => exact only_execBankRefresh (sub_butStore rfl) hs
  | mcInitDone => exact only_execMcInitDone (sub_butStore rfl) hs
  | scrubStep => exact only_execScrubStep (sub_butStore rfl) hs
  | helmSha384 => exact only_execHelmSha384 (sub_butStore rfl) hs
  | helmHmac => exact only_execHelmHmac (sub_butStore rfl) hs
  | helmGcmEnc => exact only_execHelmGcmEnc (sub_butStore rfl) hs
  | helmGcmDec => exact only_execHelmGcmDec (sub_butStore rfl) hs
  | helmKeyWrap => exact only_execHelmKeyWrap (sub_butStore rfl) hs
  | iommuCommand => exact only_execIommuCommand (sub_butStore rfl) hs
  | imageLoad => exact only_execImageLoad (sub_butStore rfl) hs
  | imageCheck => exact only_execImageCheck (sub_butStore rfl) hs
  | dramReadComplete => exact only_execDramReadComplete (sub_butStore rfl) hs
  | worldWalkDone => exact only_execWorldWalkDone (sub_butStore rfl) hs
  | slotCycleBoundary => exact only_execSlotCycleBoundary (sub_butStore rfl) hs
  | bridgeFrameReceive => exact only_execBridgeFrameReceive (sub_butStore rfl) hs
  | clockLock => exact only_execClockLock (sub_butStore rfl) hs
  | laneTestDone => exact only_execLaneTestDone (sub_butStore rfl) hs
  | proposalExchange => exact only_execProposalExchange (sub_butStore rfl) hs
  | alignDone => exact only_execAlignDone (sub_butStore rfl) hs
  | fastRetrainDone => exact only_execFastRetrainDone (sub_butStore rfl) hs
  | dieTransitionDone => exact only_execDieTransitionDone (sub_butStore rfl) hs
  | hartRelease => exact only_execHartRelease (sub_butStore rfl) hs
  | dbgTestHold => exact only_execDbgTestHold (sub_butStore rfl) hs
  | thermalTrip => exact execThermalTrip_die (by simpa [leavesDram] using hc) hs
  | _ => exact Bool.noConfusion hc

theorem exec_writeDrain {addr : Nat} : exec (.writeDrain addr) s = .next (mcWritesGo (mcDrain addr (windowRuns addr s))) := rfl

/-- What the home agents do after a drain stores nothing, so a drain stores the line it drains alone. -/
theorem writeDrain_byte {addr : Nat} (hidle : s.testRun = none)
    (hroom : WriteRoom (mcWritesGo (mcDrain addr (windowRuns addr s)))) (hout : lineStore addr b s = false) :
    (mcWritesGo (mcDrain addr (windowRuns addr s))).byte b = s.byte b := by
  have hgo := only_mcWritesGo (Nat.and_self _) (.refl _ (mcDrain addr (windowRuns addr s)))
  obtain ⟨-, hmem⟩ := hgo.quiet rfl (mcDrain_testRun.trans hidle) hroom
  exact (byte_of_mem hmem).trans (mcDrain_byte (s := windowRuns addr s) hout)

theorem exec_mcInit {a : Access} {v : Word} : exec (.mcInit a v) s = .next (guarded a true .MC_INIT 0 (mcInitWrite v) s) := rfl

theorem exec_testCmd {c : Instr} {a : Access} (hc : c = .rawRead a ∨ c = .rawWrite a ∨ c = .encode a ∨ c = .encodePoison a) :
    ∃ n, exec c s = .next (testCmdWrite a n s) := by
  rcases hc with rfl | rfl | rfl | rfl <;> exact ⟨_, rfl⟩

end

/-- Settles O54: the mask of each listed command leaves out stores into DRAM; a drain stores the line of the entry that bursts;
a raw access stores the line under test, after the writes queued for it; and MC_INIT drops the bytes of its region. -/
theorem memoryFrames : Obligations.MemoryFrames := by
  unfold Obligations.MemoryFrames
  refine ⟨fun c s t hc hidle ht hroom => ?_, fun addr s t b hidle ht hroom hout => ?_, fun a v s t b ht hout => ?_,
    fun c a s t b hc hidle hroom hdir ht hout => ?_⟩
  · exact ((exec_leavesDram c hc s t ht).quiet rfl hidle hroom).2
  · obtain rfl := Host.Outcome.next.inj (exec_writeDrain.symm.trans ht)
    exact writeDrain_byte hidle hroom hout
  · obtain rfl := Host.Outcome.next.inj (exec_mcInit.symm.trans ht)
    have hkept : regionHas (fget F.MC_INIT_REGION v) b (s.answer 0) = false := hout
    exact guarded_byte (mcInitWrite_byte hkept)
  · obtain ⟨n, hn⟩ := exec_testCmd hc
    obtain rfl := Host.Outcome.next.inj (hn.symm.trans ht)
    exact testCmdWrite_byte hidle hroom hdir hout

end Sys2Proof.Machine

/-! # The start: training, the image, the release and the watchdog -/

namespace Sys2Proof.Machine

section
variable {s t : State} {k c e we re code h n : Nat} {v : Word} {g : Reg} {f : Fld}

/-! ## Failures of the start (R541) -/

/-- ST_REASON as a failure leaves it. -/
def reasonSet (code : Nat) (s : State) : State :=
  (((((s.satInc F.ST_REASON_FAILS 0).setF F.ST_REASON_ATTEMPT 0 (s.f F.ST_STATUS_COUNT 0)).setF F.ST_REASON_SLOT 0
    (s.f F.ST_STATUS_SLOT 0)).setF F.ST_REASON_PHASE 0 (startPhase s)).setB F.ST_REASON_NO_LANTERN 0 false).setF
    F.ST_REASON_CODE 0 code

theorem startFail_reasonSet (hr : f.reg = .ST_REASON) : (startFail code s).f f 0 = (reasonSet code s).f f 0 := by
  have hrecord : (startFail code s).f f 0 = (startRecord code s).f f 0 := State.f_of_regs rfl
  have hlog (x : State) (d : Word) : (inBand 4 (evlog 5 d x)).f f 0 = x.f f 0 :=
    (State.f_of_regs (t := inBand 4 (evlog 5 d x)) (s := evlog 5 d x) rfl).trans ((only_evlog (Nat.and_self _) (.refl _ x)).f_eq (by rw [hr]; rfl) 0)
  rw [hrecord, startRecord, hlog]
  simp (disch := decide) only [reasonSet, startPhase, State.satInc, State.satAdd, State.f_setF_reg]

/-- A failure is recorded with its code, the phase and the attempt. -/
theorem startFail_reason (hcode : code < 16) : (startFail code s).f F.ST_REASON_CODE 0 = code ∧
    (startFail code s).f F.ST_REASON_PHASE 0 = startPhase s ∧
    (startFail code s).f F.ST_REASON_ATTEMPT 0 = s.f F.ST_STATUS_COUNT 0 := by
  have hphase : startPhase s < 16 := Nat.mod_lt _ (by decide)
  have hcount : s.f F.ST_STATUS_COUNT 0 < 8 := Nat.mod_lt _ (by decide)
  rw [startFail_reasonSet rfl, startFail_reasonSet rfl, startFail_reasonSet rfl]
  simp (disch := decide) only [reasonSet, State.setB, State.f_setF_ne, State.f_setF_self]
  exact ⟨Nat.mod_eq_of_lt hcode, Nat.mod_eq_of_lt hphase, Nat.mod_eq_of_lt hcount⟩

/-- A failure leaves PHASE and the other fields of ST_STATUS. -/
theorem startFail_status (hr : f.reg = .ST_STATUS) : (startFail code s).f f 0 = s.f f 0 :=
  (only_startFail (Nat.and_self _) (.refl _ s)).f_eq (by rw [hr]; rfl) 0

/-! ## Training (R236, R237) -/

theorem exec_dramTraining (hp : startPhase s = 2) (ht : dramTrain k c e we re s = t) : exec (.dramTraining k c e we re) s =
    .next (if t.f F.MC_TRAIN_STATE (4 * k + c) = 3 ∧ !t.boot.failed then startFail 4 t else t) := by
  show execDramTraining k c e we re s = _
  rw [execDramTraining, if_neg (not_not.mpr hp), ht]

/-- An attempt counted in MC_TRAIN. -/
def attempted (i : Nat) (s : State) : State := s.setF F.MC_TRAIN_ATTEMPTS i (s.f F.MC_TRAIN_ATTEMPTS i + 1)

/-- A sub-channel that passes, with its eyes. -/
def trainPassed (k c we re : Nat) (s : State) : State :=
  (((((attempted (4 * k + c) s).setF F.MC_TRAIN_FAIL_STEP (4 * k + c) 0).setF F.MC_TRAIN_WR_EYE (4 * k + c) we).setF
    F.MC_TRAIN_RD_EYE (4 * k + c) re).setF F.MC_TRAIN_STATE (4 * k + c) 2).setFbit F.MC_STATUS_TRAINED k c true

/-- A sub-channel that fails at step e and may try again. -/
def trainRetried (k c e : Nat) (s : State) : State :=
  ((attempted (4 * k + c) s).setF F.MC_TRAIN_FAIL_STEP (4 * k + c) (min e 6)).setF F.MC_TRAIN_STATE (4 * k + c) 1

/-- A sub-channel that has failed for the last time. -/
def trainFailed (k c e : Nat) (s : State) : State :=
  (((attempted (4 * k + c) s).setF F.MC_TRAIN_FAIL_STEP (4 * k + c) (min e 6)).setF F.MC_TRAIN_STATE (4 * k + c) 3).setFbit
    F.MC_STATUS_FAILED k c true

theorem dramTrain_pass (hst : s.f F.MC_TRAIN_STATE (4 * k + c) < 2) : dramTrain k c 0 we re s = trainPassed k c we re s := by
  rw [dramTrain, if_neg (Nat.not_le.mpr hst)]
  rfl

theorem attempted_attempts {i : Nat} (ha : s.f F.MC_TRAIN_ATTEMPTS i < 3) :
    (attempted i s).f F.MC_TRAIN_ATTEMPTS i = s.f F.MC_TRAIN_ATTEMPTS i + 1 :=
  State.f_setF_lt (by decide) (show s.f F.MC_TRAIN_ATTEMPTS i + 1 < 16 by omega)

theorem failStep_attempts {i x : Nat} (ha : s.f F.MC_TRAIN_ATTEMPTS i < 3) :
    ((attempted i s).setF F.MC_TRAIN_FAIL_STEP i x).f F.MC_TRAIN_ATTEMPTS i = s.f F.MC_TRAIN_ATTEMPTS i + 1 :=
  (State.f_setF_ne _ _ _ _ _ _ (by decide) (by decide)).trans (attempted_attempts ha)

theorem dramTrain_retry (hst : s.f F.MC_TRAIN_STATE (4 * k + c) < 2) (he : e ≠ 0)
    (ha : s.f F.MC_TRAIN_ATTEMPTS (4 * k + c) < 2) : dramTrain k c e we re s = trainRetried k c e s := by
  rw [dramTrain, if_neg (Nat.not_le.mpr hst)]
  dsimp only
  rw [if_neg he]
  exact if_pos ((failStep_attempts (by omega)).trans_lt (by omega))

theorem dramTrain_third (hst : s.f F.MC_TRAIN_STATE (4 * k + c) < 2) (he : e ≠ 0)
    (ha : s.f F.MC_TRAIN_ATTEMPTS (4 * k + c) = 2) : dramTrain k c e we re s = trainFailed k c e s := by
  rw [dramTrain, if_neg (Nat.not_le.mpr hst)]
  dsimp only
  rw [if_neg he]
  exact if_neg fun hlt => absurd ((failStep_attempts (by omega)).symm.trans_lt hlt) (by omega)

theorem trainPassed_train (ha : s.f F.MC_TRAIN_ATTEMPTS (4 * k + c) < 3) (hwe : we < 256) (hre : re < 256) :
    (trainPassed k c we re s).f F.MC_TRAIN_STATE (4 * k + c) = 2 ∧
      (trainPassed k c we re s).f F.MC_TRAIN_ATTEMPTS (4 * k + c) = s.f F.MC_TRAIN_ATTEMPTS (4 * k + c) + 1 ∧
      (trainPassed k c we re s).f F.MC_TRAIN_WR_EYE (4 * k + c) = we ∧
      (trainPassed k c we re s).f F.MC_TRAIN_RD_EYE (4 * k + c) = re := by
  simp (disch := decide) only [trainPassed, State.setFbit, State.f_setF_reg, State.f_setF_ne, State.f_setF_self,
    attempted_attempts ha]
  exact ⟨rfl, trivial, Nat.mod_eq_of_lt hwe, Nat.mod_eq_of_lt hre⟩

theorem trainRetried_train (he : e ≤ 6) : (trainRetried k c e s).f F.MC_TRAIN_STATE (4 * k + c) = 1 ∧
    (trainRetried k c e s).f F.MC_TRAIN_FAIL_STEP (4 * k + c) = e := by
  simp (disch := decide) only [trainRetried, State.f_setF_ne, State.f_setF_self, Nat.min_eq_left he]
  exact ⟨rfl, Nat.mod_eq_of_lt (show e < 16 by omega)⟩

theorem trainFailed_state : (trainFailed k c e s).f F.MC_TRAIN_STATE (4 * k + c) = 3 := by
  simp (disch := decide) only [trainFailed, State.setFbit, State.f_setF_reg, State.f_setF_self]
  rfl

/-- The third failed attempt fails the start. -/
theorem dramTraining_fails (hp : startPhase s = 2) (hst : s.f F.MC_TRAIN_STATE (4 * k + c) < 2) (he : e ≠ 0)
    (ha : s.f F.MC_TRAIN_ATTEMPTS (4 * k + c) = 2) (hb : s.boot.failed = false) :
    exec (.dramTraining k c e we re) s = .next (startFail 4 (trainFailed k c e s)) := by
  have hrunning : (trainFailed k c e s).boot.failed = false := hb
  rw [exec_dramTraining hp (dramTrain_third hst he ha), if_pos ⟨trainFailed_state, by rw [hrunning]; rfl⟩]

/-! ## The image (R535, R536) -/

theorem exec_imageLoad {b : Bool} : exec (.imageLoad b) s = execImageLoad b s := rfl

/-- The header that IMAGE_LOAD reads from the flash. -/
abbrev flashHeader (s : State) : Nat := flashBytes s (s.f F.ST_STATUS_SLOT 0 * 0x2000000) 512

/-- The image written into DRAM where its header says. -/
def imageWritten (s : State) : State :=
  (agentWrite (agentFuel (imgLength (flashHeader s))) (imgLoad (flashHeader s)) (imgLength (flashHeader s))
    (flashBytes s (s.f F.ST_STATUS_SLOT 0 * 0x2000000 + 512) (imgLength (flashHeader s))) s).2

theorem imageLoad_loads (hp : startPhase s = 2) (hb : s.boot.failed = false) (hd : dramReady s = true)
    (hh : headerOk s.sku.dramBytes (flashHeader s) = true)
    (hw : agentWaits (imgLoad (flashHeader s)) (imgLength (flashHeader s)) s = false) :
    exec (.imageLoad false) s = .next { (imageWritten s).setF F.ST_STATUS_PHASE 0 4 with
      boot := { (imageWritten s).boot with header := some (flashHeader s) } } := by
  rw [exec_imageLoad, execImageLoad, if_neg (by simp [hp, hb, hd])]
  dsimp only
  rw [hh, if_neg (by decide), hw, if_neg (by decide)]
  rfl

theorem imageLoad_fails {b : Bool} (hp : startPhase s = 2) (hb : s.boot.failed = false) (hd : dramReady s = true)
    (hbad : (b || !headerOk s.sku.dramBytes (flashHeader s)) = true) : exec (.imageLoad b) s = .next (startFail 1 s) := by
  rw [exec_imageLoad, execImageLoad, if_neg (by simp [hp, hb, hd])]
  dsimp only
  rw [if_pos hbad]

theorem exec_imageCheck : exec .imageCheck s = execImageCheck s := rfl

theorem imageValid_boot : (imageValid h s).2.boot = s.boot := by
  obtain ⟨hboot, -⟩ := (only_imageValid (ha := h) (Nat.and_self _) (.refl _ s)).2.1 .start rfl
  exact hboot

theorem imageValid_phase : (imageValid h s).2.f F.ST_STATUS_PHASE 0 = s.f F.ST_STATUS_PHASE 0 :=
  (only_imageValid (Nat.and_self _) (.refl _ s)).f_eq rfl 0

/-- The check of the image ends with the release to come, or with a failure. -/
theorem imageCheck_decides (hh : s.boot.header = some h) (hp : startPhase s = 4) (hb : s.boot.failed = false)
    (he : s.b F.HELM_STATUS_ERRSTATE 0 = false) (hs : s.b F.HELM_STATUS_SELFTEST 0 = true)
    (hw : agentWaits (imgLoad h) (imgLength h) s = false) :
    exec .imageCheck s = .next (if (imageValid h s).1 then
      { (imageValid h s).2.setF F.ST_STATUS_PHASE 0 5 with boot := { (imageValid h s).2.boot with valid := true } }
      else startFail 2 (imageValid h s).2) := by
  rw [exec_imageCheck, execImageCheck, hh]
  dsimp only
  rw [if_neg (by simp [hp, hb]), he, if_neg (by decide), hs, hw, if_neg (by decide)]
  obtain ⟨valid, u⟩ := imageValid h s
  cases valid <;> rfl

theorem imageCheck_helmError (hh : s.boot.header = some h) (hp : startPhase s = 4) (hb : s.boot.failed = false)
    (he : s.b F.HELM_STATUS_ERRSTATE 0 = true) : exec .imageCheck s = .next (startFail 3 s) := by
  rw [exec_imageCheck, execImageCheck, hh]
  dsimp only
  rw [if_neg (by simp [hp, hb]), if_pos he]

/-! ## The release (R538, R539) -/

/-- A fold whose steps keep P, and Q under P, reaches Q when the step at one of its elements does. -/
theorem foldl_reaches {α β : Type} {step : β → α → β} {P Q : β → Prop} {x : α} (hP : ∀ u, P u → ∀ y, P (step u y))
    (hreach : ∀ u, P u → Q (step u x)) (hkeep : ∀ u, P u → Q u → ∀ y, Q (step u y)) {l : List α} (hx : x ∈ l) {u : β} (hu : P u) :
    Q (l.foldl step u) := by
  induction l generalizing u with
  | nil => cases hx
  | cons y l ih =>
    rcases List.mem_cons.mp hx with rfl | hmem
    · have hboth : P (l.foldl step (step u x)) ∧ Q (l.foldl step (step u x)) :=
        List.foldlRecOn (motive := fun z => P z ∧ Q z) l step ⟨hP u hu x, hreach u hu⟩
          fun z hz y _ => ⟨hP z hz.1 y, hkeep z hz.1 hz.2 y⟩
      exact hboth.2
    · exact ih hmem (hP u hu y)

/-- Hart h runs at v in M-mode and the Secure world. -/
def RunsAt (h : Nat) (v : Word) (t : State) : Prop :=
  (t.hart h).st = .run ∧ (t.hart h).pc = v ∧ (t.hart h).priv = 3 ∧ (t.hart h).w = true

/-- Nothing keeps the harts of t from their release: no repair is committed, no core is kept and no hart halts at its reset;
and its registers are those of s but for RAS_REPAIR. -/
structure Releasing (s t : State) : Prop where
  repairs : t.repairs = []
  kept : t.boot.kept = []
  resetHalt : t.dbg.resetHalt = 0
  regs : ∀ g, g ≠ .RAS_REPAIR → ∀ i, t.r g i = s.r g i

theorem hartRestart_eq (hd : s.dbg.resetHalt = 0) : hartRestart h v s =
    { s.setHart h { ({} : Hart) with pc := v, st := .run, nextId := (s.hart h).nextId } with
      dbg := { s.dbg with haveReset := natSetBit s.dbg.haveReset h true } } := by
  rw [hartRestart]
  exact if_neg (by simp [State.setHart, hd])

theorem hartRestart_releasing {u : State} (hu : Releasing s u) : Releasing s (hartRestart h v u) := by
  obtain ⟨hrep, hkept, hdbg, hregs⟩ := hu
  rw [hartRestart_eq hdbg]
  exact ⟨hrep, hkept, hdbg, hregs⟩

theorem hartRestart_runsAt (hd : s.dbg.resetHalt = 0) : RunsAt h v (hartRestart h v s) := by
  have hh : (hartRestart h v s).hart h = { ({} : Hart) with pc := v, st := .run, nextId := (s.hart h).nextId } := by
    rw [hartRestart_eq hd]
    exact State.setHart_hart
  rw [RunsAt, hh]
  exact ⟨rfl, rfl, rfl, rfl⟩

theorem hartRestart_keepsRun (hd : s.dbg.resetHalt = 0) (hr : RunsAt h v s) : RunsAt h v (hartRestart n v s) := by
  by_cases hn : h = n
  · exact hn ▸ hartRestart_runsAt hd
  · have hh : (hartRestart n v s).hart h = s.hart h := by
      rw [hartRestart_eq hd]
      exact smapGet_set_ne _ _ hn
    rwa [RunsAt, hh]

/-- The step of dieRelease at a hart: a core that BIST kept stays in reset. -/
theorem dieRelease_step {u : State} (hu : Releasing s u) : (if u.boot.kept.contains (coreOf h u) then u
    else hartRestart h (u.r .ST_VECTOR 0) u) = hartRestart h (s.r .ST_VECTOR 0) u := by
  obtain ⟨-, hkept, -, hregs⟩ := hu
  rw [hkept, hregs _ (by decide)]
  rfl

theorem dieRelease_step_releasing {u : State} (hu : Releasing s u) : Releasing s (if u.boot.kept.contains (coreOf h u) then u
    else hartRestart h (u.r .ST_VECTOR 0) u) := by
  rw [dieRelease_step hu]
  exact hartRestart_releasing hu

theorem dieRelease_step_keepsRun {u : State} (hu : Releasing s u) (hr : RunsAt h (s.r .ST_VECTOR 0) u) :
    RunsAt h (s.r .ST_VECTOR 0) (if u.boot.kept.contains (coreOf n u) then u
      else hartRestart n (u.r .ST_VECTOR 0) u) := by
  rw [dieRelease_step hu]
  exact hartRestart_keepsRun hu.resetHalt hr

theorem dieRelease_releasing {u : State} (hu : Releasing s u) : Releasing s (dieRelease n u) :=
  List.foldlRecOn _ _ hu fun _ hx _ _ => dieRelease_step_releasing hx

theorem dieRelease_keepsRun {u : State} (hu : Releasing s u) (hr : RunsAt h (s.r .ST_VECTOR 0) u) :
    RunsAt h (s.r .ST_VECTOR 0) (dieRelease n u) := by
  have hboth : Releasing s (dieRelease n u) ∧ RunsAt h (s.r .ST_VECTOR 0) (dieRelease n u) :=
    List.foldlRecOn (motive := fun x => Releasing s x ∧ RunsAt h (s.r .ST_VECTOR 0) x) _ _ ⟨hu, hr⟩
      fun _ hx _ _ => ⟨dieRelease_step_releasing hx.1, dieRelease_step_keepsRun hx.1 hx.2⟩
  exact hboth.2

theorem dieRelease_runsAt {u : State} (hu : Releasing s u) (hh : h ∈ dieHarts n u) :
    RunsAt h (s.r .ST_VECTOR 0) (dieRelease n u) :=
  foldl_reaches (P := Releasing s) (Q := RunsAt h (s.r .ST_VECTOR 0)) (fun _ hx _ => dieRelease_step_releasing hx)
    (fun x hx => by rw [dieRelease_step hx]; exact hartRestart_runsAt hx.resetHalt)
    (fun _ hx hr _ => dieRelease_step_keepsRun hx hr) hh hu

/-- With no repair committed only the pending bit of the die changes. -/
theorem applyRetire_none (hr : s.repairs = []) : applyRetire n s = s.setFbit F.RAS_REPAIR_PENDING 0 n false := by
  rw [applyRetire, eachRepair, hr]
  rfl

/-- The release of the harts of die n. -/
def releaseDie (s : State) (n : Nat) : State :=
  if (applyRetire n s).fbit F.DBG_TEST_HOLD_VAL 0 n then applyRetire n s else dieRelease n (applyRetire n s)

theorem applyRetire_releasing {u : State} (hu : Releasing s u) : Releasing s (applyRetire n u) := by
  obtain ⟨hrep, hkept, hdbg, hregs⟩ := hu
  rw [applyRetire_none hrep]
  exact ⟨hrep, hkept, hdbg, fun g hg i => (State.r_setR_reg _ hg ..).trans (hregs g hg i)⟩

theorem applyRetire_runsAt (hrep : s.repairs = []) : RunsAt h v (applyRetire n s) ↔ RunsAt h v s := by
  rw [applyRetire_none hrep]
  exact Iff.rfl

theorem releaseDie_releasing {u : State} (hu : Releasing s u) : Releasing s (releaseDie u n) := by
  have ha : Releasing s (applyRetire n u) := applyRetire_releasing hu
  rw [releaseDie]
  split
  · exact ha
  · exact dieRelease_releasing ha

theorem releaseDie_keepsRun {u : State} (hu : Releasing s u) (hr : RunsAt h (s.r .ST_VECTOR 0) u) :
    RunsAt h (s.r .ST_VECTOR 0) (releaseDie u n) := by
  have ha : RunsAt h (s.r .ST_VECTOR 0) (applyRetire n u) := (applyRetire_runsAt hu.repairs).mpr hr
  rw [releaseDie]
  split
  · exact ha
  · exact dieRelease_keepsRun (applyRetire_releasing hu) ha

theorem f_of_releasing {u : State} (hu : Releasing s u) (hr : f.reg ≠ .RAS_REPAIR) (i : Nat) : u.f f i = s.f f i :=
  congrArg (fget f) (hu.regs _ hr i)

theorem releaseDie_runsAt {u : State} (hu : Releasing s u) (hlt : h < 256) (hex : hartExists h s = true)
    (hhold : s.fbit F.DBG_TEST_HOLD_VAL 0 (hartDie h s) = false) : RunsAt h (s.r .ST_VECTOR 0) (releaseDie u (hartDie h s)) := by
  have ha : Releasing s (applyRetire (hartDie h s) u) := applyRetire_releasing hu
  have hfree : (applyRetire (hartDie h s) u).fbit F.DBG_TEST_HOLD_VAL 0 (hartDie h s) = false := by
    rw [State.fbit, f_of_releasing ha (by decide)]
    exact hhold
  have hmem : h ∈ dieHarts (hartDie h s) (applyRetire (hartDie h s) u) := by
    have hdie : hartDie h (applyRetire (hartDie h s) u) = hartDie h s := f_of_releasing ha (by decide) h
    have hthere : hartExists h (applyRetire (hartDie h s) u) = true := by
      rw [hartExists, State.b, f_of_releasing ha (by decide)]
      exact hex
    simp [dieHarts, hlt, hthere, hdie]
  rw [releaseDie, hfree, if_neg (by decide)]
  exact dieRelease_runsAt ha hmem

/-- A die that is OFF at the release is named in ST_DIE, and nothing else happens to it. -/
theorem dieFails_off (hoff : s.f F.PWR_DIE_STATE n = 0) : Only (regBit .ST_DIE) s (dieFails n s) := by
  unfold dieFails
  extract_lets u
  have hu : Only (regBit .ST_DIE) s u :=
    only_ite (only_State_setFbit (by exact Nat.and_self _) (.refl _ s)) (only_State_setFbit (by exact Nat.and_self _) (.refl _ s))
  rw [if_pos ((hu.f_eq (by decide) n).trans hoff)]
  exact hu

theorem foldl_dieFails_off {l : List Nat} (hl : ∀ n ∈ l, s.f F.PWR_DIE_STATE n = 0) :
    Only (regBit .ST_DIE) s (l.foldl (fun t n => dieFails n t) s) := by
  induction l generalizing s with
  | nil => exact .refl _ s
  | cons n l ih =>
    have hn := dieFails_off (hl n List.mem_cons_self)
    exact hn.trans (ih fun m hm => (hn.f_eq (by decide) m).trans (hl m (List.mem_cons_of_mem _ hm)))

/-- The dies that are ON at the release. -/
def diesOn (s : State) : List Nat := (List.range 12).filter fun n => dieOn n s

/-- The dies that are not ON at the release. -/
def diesDown (s : State) : List Nat := (List.range 12).filter fun n => !dieOn n s

/-- The dies that are not ON have failed their start, and the event log has them. -/
def downNoted (s : State) : State :=
  let u := (diesDown s).foldl (fun t n => dieFails n t) s
  if (diesDown s).isEmpty then u
  else evlog 0xE (BitVec.ofNat 64 ((diesDown s).foldl (fun m n => m + 2 ^ n) 0)) u

/-- The state in which the harts are released: the reset vector is that of the image. -/
def vectorSet (s : State) : State :=
  (downNoted s).setR .ST_VECTOR 0 (BitVec.ofNat 64 (imgEntry ((downNoted s).boot.header.getD 0)))

/-- The first hart that runs. -/
def bootHart (s : State) : Nat := ((List.range 256).find? fun h => (s.hart h).st == .run).getD 0

/-- The end of HART_RELEASE. -/
def releaseEnd (s : State) : State :=
  { (s.setF F.ST_STATUS_BOOT_HART 0 (bootHart s)).setF F.ST_STATUS_PHASE 0 6 with boot := { s.boot with relAt := s.tb } }

theorem hartRelease_releases (hp : startPhase s = 5) (hb : s.boot.failed = false) (hv : s.boot.valid = true)
    (hready : (diesOn s).all (fun n => replicaReady n s) = true) (hon : n ∈ diesOn s) :
    exec .hartRelease s = .next (releaseEnd ((diesOn s).foldl releaseDie (vectorSet s))) := by
  have hsome : (diesOn s).isEmpty = false := by
    rw [List.isEmpty_eq_false_iff]
    exact List.ne_nil_of_mem hon
  show execHartRelease s = _
  rw [execHartRelease, if_neg (by simp [hp, hb, hv])]
  unfold diesOn at hready hsome
  dsimp only
  rw [hready, if_neg (by decide), hsome, if_neg (by decide)]
  rfl

/-- The registers in which the dies that are OFF are noted. -/
def noteRegs : Nat := regBit .ST_DIE ||| regBit .ST_EVLOG ||| regBit .ST_EVLOG_HEAD

theorem downNoted_only (hdown : ∀ n ∈ diesDown s, s.f F.PWR_DIE_STATE n = 0) : Only noteRegs s (downNoted s) := by
  have hfold : Only noteRegs s ((diesDown s).foldl (fun t n => dieFails n t) s) :=
    Only.mono (A := regBit .ST_DIE) (by unfold Sub; rfl) (foldl_dieFails_off hdown)
  exact only_ite hfold (only_evlog (by unfold Sub; rfl) hfold)

/-- What the notes leave holds no hart back. -/
theorem vectorSet_releasing (ho : Only noteRegs s (downNoted s)) (hrep : s.repairs = []) (hkept : s.boot.kept = [])
    (hdbg : s.dbg.resetHalt = 0) : Releasing (vectorSet s) (vectorSet s) := by
  obtain ⟨hboot, -⟩ := ho.2.1 .start rfl
  obtain ⟨-, -, -, -, -, hrepairs⟩ := ho.2.1 .ras rfl
  obtain ⟨-, hdebug⟩ := ho.2.1 .debug rfl
  exact ⟨hrepairs.trans hrep, (congrArg Boot.kept hboot).trans hkept, by rw [vectorSet, State.setR_dbg, hdebug, hdbg],
    fun _ _ _ => rfl⟩

theorem vectorSet_f (ho : Only noteRegs s (downNoted s)) (hf : f.reg ≠ .ST_VECTOR) (hm : noteRegs.testBit f.reg.mark = false)
    (i : Nat) : (vectorSet s).f f i = s.f f i := by
  rw [State.f, vectorSet, State.r_setR_reg _ hf]
  exact ho.f_eq hm i

theorem vectorSet_vector (ho : Only noteRegs s (downNoted s)) :
    (vectorSet s).r .ST_VECTOR 0 = BitVec.ofNat 64 (imgEntry (s.boot.header.getD 0)) := by
  obtain ⟨hboot, -⟩ := ho.2.1 .start rfl
  rw [vectorSet, State.r_setR_self, hboot]

/-- Once the dies are done, the harts of those that are ON run at the image's entry. -/
theorem released_runsAt {u : State} (hu : u = (diesOn s).foldl releaseDie (vectorSet s))
    (ho : Only noteRegs s (downNoted s)) (hrel : Releasing (vectorSet s) (vectorSet s)) (hlt : h < 256)
    (hex : hartExists h s = true) (hon : hartDie h s ∈ diesOn s) (hhold : s.fbit F.DBG_TEST_HOLD_VAL 0 (hartDie h s) = false) :
    u.r .ST_VECTOR 0 = (vectorSet s).r .ST_VECTOR 0 ∧ RunsAt h ((vectorSet s).r .ST_VECTOR 0) u := by
  have hdie : hartDie h (vectorSet s) = hartDie h s := vectorSet_f ho (by decide) rfl h
  have hex' : hartExists h (vectorSet s) = true := by
    rw [hartExists, State.b, vectorSet_f ho (by decide) rfl]
    exact hex
  have hhold' : (vectorSet s).fbit F.DBG_TEST_HOLD_VAL 0 (hartDie h (vectorSet s)) = false := by
    rw [State.fbit, vectorSet_f ho (by decide) rfl, hdie]
    exact hhold
  subst hu
  have hkept : Releasing (vectorSet s) ((diesOn s).foldl releaseDie (vectorSet s)) :=
    List.foldlRecOn _ _ hrel fun _ hx _ _ => releaseDie_releasing hx
  have hmem : hartDie h (vectorSet s) ∈ diesOn s := by rwa [hdie]
  refine ⟨hkept.regs _ (by decide) 0, ?_⟩
  exact foldl_reaches (step := releaseDie) (P := Releasing (vectorSet s)) (Q := RunsAt h ((vectorSet s).r .ST_VECTOR 0))
    (fun _ hx _ => releaseDie_releasing hx) (fun _ hx => releaseDie_runsAt hx hlt hex' hhold')
    (fun _ hx hr _ => releaseDie_keepsRun hx hr) hmem hrel

theorem State.r_of_regs (hr : t.regs = s.regs) : t.r g n = s.r g n := by rw [State.r, hr, State.r]

/-- The end leaves the harts and the vector, and sets PHASE. -/
theorem releaseEnd_effect : (releaseEnd s).f F.ST_STATUS_PHASE 0 = 6 ∧
    (releaseEnd s).r .ST_VECTOR 0 = s.r .ST_VECTOR 0 ∧ (releaseEnd s).hart h = s.hart h := by
  have hregs : (releaseEnd s).regs = ((s.setF F.ST_STATUS_BOOT_HART 0 (bootHart s)).setF F.ST_STATUS_PHASE 0 6).regs := rfl
  have hharts : (releaseEnd s).harts = s.harts := rfl
  refine ⟨?_, ?_, State.hart_of_harts hharts⟩
  · rw [State.f_of_regs hregs, State.f_setF_lt (by decide) (by decide)]
  · rw [State.r_of_regs hregs, State.setF, State.r_setR_reg _ (by decide), State.setF, State.r_setR_reg _ (by decide)]

/-! ## START_OK and the watchdog (R540, R541) -/

theorem exec_startOk {a : Access} :
    exec (.startOk a v) s = .next (guarded a true .ST_CTRL 0 (stCtrlWrite (v ||| 1#64)) s) := rfl

theorem bit_or_one {i : Nat} : bit (v ||| 1#64) i = (bit v i || decide (i = 0)) := by
  simp [bit]

/-- START_OK without a reset bit ends the start. -/
theorem stCtrlWrite_ok (hp : startPhase s = 6) (hb : s.boot.failed = false) (hwarm : bit v 1 = false) (hhard : bit v 2 = false) :
    stCtrlWrite (v ||| 1#64) s =
      ((s.wr .ST_CTRL 0 (v ||| 1#64)).setF F.ST_STATUS_COUNT 0 0).setF F.ST_STATUS_PHASE 0 7 := by
  have hok : vset F.ST_CTRL_START_OK (v ||| 1#64) = true := by rw [vset, fget_flag rfl, bit_or_one]; simp
  have hwarm' : vset F.ST_CTRL_WARM_RESET (v ||| 1#64) = false := by rw [vset, fget_flag rfl, bit_or_one, hwarm]; rfl
  have hhard' : vset F.ST_CTRL_HARD_RESET (v ||| 1#64) = false := by rw [vset, fget_flag rfl, bit_or_one, hhard]; rfl
  have hphase : startPhase (s.wr .ST_CTRL 0 (v ||| 1#64)) = 6 := (State.setR_f_reg (by decide)).trans hp
  have hfailed : (s.wr .ST_CTRL 0 (v ||| 1#64)).boot.failed = false := hb
  rw [stCtrlWrite, hok, hwarm', hhard', hphase, hfailed]
  rfl

theorem exec_bootWatchdog : exec .bootWatchdog s = execBootWatchdog s := rfl

theorem bootWatchdog_fails (hp : startPhase s = 6) (hb : s.boot.failed = false) (hn : s.f F.ST_CTRL_BOOT_WDT 0 ≠ 0)
    (hm : msPassed (s.f F.ST_CTRL_BOOT_WDT 0) s.boot.relAt s = true) : exec .bootWatchdog s = .next (startFail 6 s) := by
  rw [exec_bootWatchdog, execBootWatchdog]
  exact congrArg _ (if_pos ⟨hp, by rw [hb]; rfl, hn, hm⟩)

theorem bootWatchdog_waits (hw : (startPhase s != 6 || s.boot.failed || s.f F.ST_CTRL_BOOT_WDT 0 == 0 ||
    !msPassed (s.f F.ST_CTRL_BOOT_WDT 0) s.boot.relAt s) = true) : exec .bootWatchdog s = .next s := by
  rw [exec_bootWatchdog, execBootWatchdog]
  refine congrArg _ (if_neg ?_)
  rintro ⟨hp, hb, hn, hm⟩
  have hb' : s.boot.failed = false := by simpa using hb
  simp [hp, hb', hn, hm] at hw

end

/-- Settles O27: an attempt of training ends in one of three ways, the image loads or fails the start, its check decides between
the release and a failure, the release starts the harts of each die that is ON, START_OK ends the start, and the watchdog
fails it. -/
theorem startSequence : Obligations.StartSequence := by
  unfold Obligations.StartSequence
  refine ⟨fun k c we re s hp hst ha hc hwe hre => ?_, fun k c e we re s hp hst ha he he6 => ?_,
    fun k c e we re s hp hst ha he hc hb => ?_, fun s hp hb hd hh hw => ?_, fun re s hp hb hd hbad => ?_,
    fun h s hh hp hb he hs hw => ?_, fun h s hh hp hb he => ?_,
    fun h s hp hb hv hready hlt hex hdie hon hrep hkept hdbg hhold hdown => ?_, fun a v s ha hp hb hwarm hhard => ?_,
    fun s hp hb hn hm => ?_, fun s hw => ⟨_, bootWatchdog_waits hw, rfl⟩⟩
  · obtain ⟨hstate, hrest⟩ := trainPassed_train (k := k) (c := c) ha (show we < 256 by omega) (show re < 256 by omega)
    refine ⟨_, exec_dramTraining hp (dramTrain_pass hst), ?_⟩
    rw [if_neg fun hx => absurd (hstate.symm.trans hx.1) (by decide)]
    obtain ⟨hattempts, hwr, hrd⟩ := hrest
    exact ⟨hstate, hattempts, hwr, hrd, State.fbit_setFbit_self (by decide) hc⟩
  · obtain ⟨hstate, hstep⟩ := trainRetried_train (k := k) (c := c) (s := s) he6
    refine ⟨_, exec_dramTraining hp (dramTrain_retry hst (by omega) ha), ?_⟩
    rw [if_neg fun hx => absurd (hstate.symm.trans hx.1) (by decide)]
    exact ⟨hstate, hstep, rfl⟩
  · have hkept {f : Fld} (hf : f.reg = .MC_TRAIN ∨ f.reg = .MC_STATUS) (i : Nat) :
        (startFail 4 (trainFailed k c e s)).f f i = (trainFailed k c e s).f f i :=
      (only_startFail (Nat.and_self _) (.refl _ _)).f_eq (by rcases hf with hf | hf <;> rw [hf] <;> rfl) i
    obtain ⟨hcode, -⟩ := startFail_reason (s := trainFailed k c e s) (show 4 < 16 by decide)
    refine ⟨_, dramTraining_fails hp hst (by omega) ha hb, (hkept (.inl rfl) _).trans trainFailed_state, ?_, rfl, hcode⟩
    rw [State.fbit, hkept (.inr rfl)]
    exact State.fbit_setFbit_self (by decide) hc
  · refine ⟨_, imageLoad_loads hp hb hd hh hw, ?_, rfl⟩
    have hphase : ((imageWritten s).setF F.ST_STATUS_PHASE 0 4).f F.ST_STATUS_PHASE 0 = 4 :=
      State.f_setF_lt (by decide) (by decide)
    exact hphase
  · have ho := only_startFail (code := 1) (Nat.and_self _) (.refl _ s)
    obtain ⟨hcode, -⟩ := startFail_reason (s := s) (show 1 < 16 by decide)
    obtain ⟨hwrq, -⟩ := ho.2.1 .mctl rfl
    exact ⟨_, imageLoad_fails hp hb hd hbad, rfl, hcode, ho.2.1 .mem rfl, hwrq⟩
  · refine ⟨_, imageCheck_decides hh hp hb he hs hw, ?_⟩
    cases (imageValid h s).1
    · obtain ⟨hcode, -⟩ := startFail_reason (s := (imageValid h s).2) (show 2 < 16 by decide)
      exact ⟨(startFail_status rfl).trans (imageValid_phase.trans hp), rfl, nofun, fun _ => hcode⟩
    · have hphase : ((imageValid h s).2.setF F.ST_STATUS_PHASE 0 5).f F.ST_STATUS_PHASE 0 = 5 :=
        State.f_setF_lt (by decide) (by decide)
      exact ⟨hphase, (congrArg Boot.failed imageValid_boot).trans hb, fun _ => rfl, nofun⟩
  · obtain ⟨hcode, -⟩ := startFail_reason (s := s) (show 3 < 16 by decide)
    exact ⟨_, imageCheck_helmError hh hp hb he, rfl, hcode⟩
  · have hready' : (diesOn s).all (fun n => replicaReady n s) = true := by
      simpa [diesOn, List.all_filter] using hready
    have hmem : hartDie h s ∈ diesOn s := List.mem_filter.mpr ⟨List.mem_range.mpr hdie, hon⟩
    have ho : Only noteRegs s (downNoted s) := downNoted_only fun n hn => by
      obtain ⟨hlt12, hoff⟩ := List.mem_filter.mp hn
      have hoff' : dieOn n s = false := by simpa using hoff
      simpa [hoff'] using List.all_eq_true.mp hdown n hlt12
    obtain ⟨hvector, hrun⟩ := released_runsAt rfl ho (vectorSet_releasing ho hrep hkept hdbg) hlt hex hmem hhold
    obtain ⟨hphase, hvector', hhart⟩ := releaseEnd_effect (h := h) (s := (diesOn s).foldl releaseDie (vectorSet s))
    obtain ⟨hst, hpc, hpriv, hw⟩ := hrun
    refine ⟨_, hartRelease_releases hp hb hv hready' hmem, hphase, ?_, ?_⟩
    · rw [hvector', hvector, vectorSet_vector ho]
    · rw [hhart, hvector', hvector]
      exact ⟨hst, hpc, hpriv, hw⟩
  · refine gives_of_allowed exec_startOk ha ?_
    rw [stCtrlWrite_ok (s := s.answer 0) hp hb hwarm hhard]
    exact ⟨State.f_setF_lt (by decide) (by decide),
      (State.f_setF_ne _ _ _ _ _ _ (by decide) (by decide)).trans (State.f_setF_lt (by decide) (by decide))⟩
  · obtain ⟨hcode, hphase, hattempt⟩ := startFail_reason (s := s) (show 6 < 16 by decide)
    exact ⟨_, bootWatchdog_fails hp hb hn hm, rfl, hcode, hphase.trans hp, hattempt⟩

end Sys2Proof.Machine


/-! # What the commands of the fabric and its kin leave alone

As for the commands of the phase reference and the harts, the lists of each frame take in what the lemma of its command
names. -/

namespace Sys2Proof.Machine

/-- Settles O52: the lists of each frame take in what the lemma of its command names. -/
theorem fabricCommandFrames : Obligations.FabricCommandFrames :=
  ⟨frame_of_sub rfl fun hW => only_execSlotCycleBoundary hW,
  fun _ _ => frame_of_sub rfl fun hW => only_execEpochSwitch hW,
  frame_of_sub rfl fun hW => only_execEpochCheckDone hW,
  frame_of_sub rfl fun hW => only_execEpochToggle hW,
  fun _ _ => frame_of_sub rfl fun hW => only_execRouteTableWrite hW,
  fun _ _ => frame_of_sub rfl fun hW => only_execCopy hW,
  frame_of_sub rfl fun hW => only_execCopyDone hW,
  -- The probes.
  fun _ _ _ => frame_of_sub rfl fun hW => only_execBatArm hW,
  fun _ _ _ => frame_of_sub rfl fun hW => only_execBatStop hW,
  fun _ _ _ _ _ => frame_of_sub rfl fun hW => only_execBatMatch hW,
  fun _ _ => frame_of_sub rfl fun hW => only_execBatTrigger hW,
  frame_of_sub rfl fun hW => only_execBatCounterCopy hW,
  fun _ => frame_of_sub rfl fun hW => only_execBatTraceWrite hW,
  fun _ _ => frame_of_sub rfl fun hW => only_execBatBufRead hW,
  -- The bridges.
  fun _ _ _ _ _ _ => frame_of_sub rfl fun hW => only_execBridgeFrameReceive hW,
  fun _ _ _ => frame_of_sub rfl fun hW => only_execBridgeNak hW,
  fun _ _ _ => frame_of_sub rfl fun hW => only_execSidebandMessage hW,
  fun n seq => frame_of_sub rfl fun hW => only_execSidebandNak (z0 := n) (z1 := seq) hW,
  fun _ => frame_of_sub rfl fun hW => only_execBridgeTrainStart hW,
  fun _ _ _ => frame_of_sub rfl fun hW => only_execRetrainFull hW,
  fun _ _ _ => frame_of_sub rfl fun hW => only_execRetrainFast hW,
  fun _ _ _ _ _ => frame_of_sub rfl fun hW => only_execClockLock hW,
  fun _ _ => frame_of_sub rfl fun hW => only_execLaneTestDone hW,
  fun _ => frame_of_sub rfl fun hW => only_execProposalExchange hW,
  fun _ _ _ _ => frame_of_sub rfl fun hW => only_execAlignDone hW,
  fun _ => frame_of_sub rfl fun hW => only_execCapabilityExchange hW,
  fun _ _ => frame_of_sub rfl fun hW => only_execFastRetrainDone hW,
  -- The DMA engines.
  fun _ _ _ _ => frame_of_sub rfl fun hW => only_execProgWrite hW,
  fun _ _ => frame_of_sub rfl fun hW => only_execDmaStart hW,
  fun _ _ => frame_of_sub rfl fun hW => only_execHalt hW,
  fun _ _ => frame_of_sub rfl fun hW => only_execMove hW,
  fun _ _ => frame_of_sub rfl fun hW => only_execMove2D hW,
  fun _ => frame_of_sub rfl fun hW => only_execMoveComplete hW,
  fun _ _ _ => frame_of_sub rfl fun hW => only_execLoop hW,
  fun _ _ => frame_of_sub rfl fun hW => only_execEndLoop hW,
  fun _ _ => frame_of_sub rfl fun hW => only_execWait hW,
  fun _ => frame_of_sub rfl fun hW => only_execWaitTimeout hW,
  fun _ _ => frame_of_sub rfl fun hW => only_execSignalSem hW,
  fun _ _ => frame_of_sub rfl fun hW => only_execSignalEvt hW,
  fun _ _ => frame_of_sub rfl fun hW => only_execSignalIrq hW,
  fun _ _ _ => frame_of_sub rfl fun hW => only_execSignalWrite hW,
  fun _ _ _ => frame_of_sub rfl fun hW => only_execFenceAck hW,
  fun _ _ => frame_of_sub rfl fun hW => only_execSetr hW,
  fun _ _ => frame_of_sub rfl fun hW => only_execAddr hW,
  fun _ _ => frame_of_sub rfl fun hW => only_execJump hW,
  fun _ _ => frame_of_sub rfl fun hW => only_execBrz hW,
  fun _ _ => frame_of_sub rfl fun hW => only_execDmaUnblock hW,
  fun _ _ => frame_of_sub rfl fun hW => only_execPause hW,
  fun _ _ => frame_of_sub rfl fun hW => only_execResume hW,
  fun _ _ => frame_of_sub rfl fun hW => only_execAbort hW,
  fun _ _ => frame_of_sub rfl fun hW => only_execStop hW,
  fun _ _ => frame_of_sub rfl fun hW => only_execDescriptorFetch hW,
  fun _ => frame_of_sub rfl fun hW => only_execDescriptorComplete hW,
  -- The IOMMU and the interrupts.
  frame_of_sub rfl fun hW => only_execIommuCommand hW,
  fun _ _ _ _ _ _ => frame_of_sub rfl fun hW => only_execImsicMessage hW,
  fun _ => frame_of_sub rfl fun hW => only_execWiredSourceChange hW,
  fun _ => frame_of_sub rfl fun hW => only_execAplicResend hW,
  -- PCIe.
  fun _ _ _ _ => frame_of_sub rfl fun hW => only_execOutboundWindowWrite hW,
  fun _ => frame_of_sub rfl fun hW => only_execReadCombineTimeout hW,
  fun _ _ => frame_of_sub rfl fun hW => only_execPcieCompletion hW,
  fun _ _ _ => frame_of_sub rfl fun hW => only_execCompletionTimeout hW,
  fun _ _ => frame_of_sub rfl fun hW => only_execPcieAck hW,
  fun _ _ _ => frame_of_sub rfl fun hW => only_execPcieInboundRequest hW,
  fun _ _ _ => frame_of_sub rfl fun hW => only_execHostDoorbell hW,
  fun _ _ _ _ => frame_of_sub rfl fun hW => only_execMsixRaise hW,
  fun _ _ _ _ => frame_of_sub rfl fun hW => only_execWindowCommit hW,
  fun _ _ => frame_of_sub rfl fun hW => only_execOldMappingDrained hW,
  fun _ _ _ _ _ => frame_of_sub rfl fun hW => only_execPublish hW,
  fun _ _ _ _ => frame_of_sub rfl fun hW => only_execMailboxAck hW,
  fun _ _ => frame_of_sub rfl fun hW => only_execBmeClear hW,
  fun _ _ => frame_of_sub rfl fun hW => only_execFlr hW,
  fun _ _ => frame_of_sub rfl fun hW => only_execFlrDone hW,
  fun _ _ => frame_of_sub rfl fun hW => only_execLinkReset hW,
  fun _ _ => frame_of_sub rfl fun hW => only_execL0sEntry hW,
  fun _ _ => frame_of_sub rfl fun hW => only_execL1Entry hW,
  fun _ _ _ => frame_of_sub rfl fun hW => only_execPcieLinkEvent hW,
  -- Paleg.
  fun _ _ _ _ _ _ _ _ _ => frame_of_sub rfl fun hW => only_execPalegFlitReceive hW,
  fun _ _ => frame_of_sub rfl fun hW => only_execPalegNak hW,
  fun _ _ _ _ => frame_of_sub rfl fun hW => only_execPalegTrainingDone hW,
  fun _ _ _ => frame_of_sub rfl fun hW => only_execRetrain hW,
  fun _ _ => frame_of_sub rfl fun hW => only_execWr hW,
  fun _ _ => frame_of_sub rfl fun hW => only_execRd hW,
  fun _ => frame_of_sub rfl fun hW => only_execRdRsp hW,
  fun _ => frame_of_sub rfl fun hW => only_execMsg hW,
  fun _ _ => frame_of_sub rfl fun hW => only_execPalegReadTimeout hW,
  fun _ _ => frame_of_sub rfl fun hW => only_execMsgTx hW,
  fun _ _ => frame_of_sub rfl fun hW => only_execMsgRxRead hW,
  frame_of_sub rfl fun hW => only_execPhaseFrameSend hW,
  fun _ _ _ _ => frame_of_sub rfl fun hW => only_execPhaseFrame hW,
  fun _ => frame_of_sub rfl fun hW => only_execBranchLost hW,
  fun _ _ _ => frame_of_sub rfl fun hW => only_execRejoin hW,
  fun _ _ => frame_of_sub rfl fun hW => only_execPlWindowCommit hW,
  frame_of_sub rfl fun hW => only_execPlOldMappingDrained hW,
  -- The access slot of a DMA engine, the ports of Paleg, a configuration request, events and semaphores.
  fun _ _ _ => frame_of_sub rfl fun hW => only_execAccessSlotGrant hW,
  fun _ _ _ => frame_of_sub rfl fun hW => only_execPalegPortEnable hW,
  fun _ => frame_of_sub rfl fun hW => only_execPalegLinkDown hW,
  fun _ _ _ _ _ _ => frame_of_sub rfl fun hW => only_execConfigurationRequest hW,
  fun _ _ _ => frame_of_sub rfl fun hW => only_execPendWrite hW,
  fun _ _ _ => frame_of_sub rfl fun hW => only_execSemCountWrite hW⟩

end Sys2Proof.Machine

/-! # What waits for a slot-cycle boundary is left alone by the home agents

A packet of class GT toward a die takes a slot of a window, so that the home agents do change the fabric's part of the state
(R278). The waiting changes of OPEN are no part of what they change. -/

namespace Sys2Proof.Machine

section
variable {s t : State} {W a c d n k : Nat} {p : Packet} {x : HaTx} {q : HaReq}

theorem Only.winPend_eq (ho : Only W s t) (hW : W.testBit Part.fabric.ctorIdx = false) : t.winPend = s.winPend := by
  obtain ⟨hpend, -⟩ := ho.2.1 .fabric hW
  exact hpend

@[simp] theorem State.satAdd_winPend {f : Fld} : (s.satAdd f a c).winPend = s.winPend := rfl
@[simp] theorem State.satInc_winPend {f : Fld} : (s.satInc f a).winPend = s.winPend := rfl
@[simp] theorem State.sendP_winPend : (s.sendP p).winPend = s.winPend := rfl

theorem gtLaunch_winPend {w : Option Nat} {down : Bool} : (gtLaunch w down s).winPend = s.winPend := by
  cases w <;> rfl

/-- Of two states, the waiting changes of the one that is chosen. -/
@[simp] theorem ite_winPend {b : Prop} [Decidable b] :
    (if b then s else t).winPend = if b then s.winPend else t.winPend := apply_ite State.winPend b s t

theorem sendDown_winPend : (sendDown d p s).winPend = s.winPend := by
  unfold sendDown
  dsimp only
  rw [State.sendP_winPend]
  split
  · rw [iter_keeps State.winPend fun w t => ?_, gtLaunch_winPend]
    split
    · rfl
    · rfl
  · rfl

theorem sendTo_winPend : (sendTo p s).winPend = s.winPend := by
  unfold sendTo
  split
  · exact sendDown_winPend
  · rfl

@[simp] theorem haAnswer_winPend {op : Op} {w : Bool} {g : Grant} {z : Option (Line × BitVec 2)} {r : BitVec 2} :
    (haAnswer p op w g z r s).winPend = s.winPend := sendTo_winPend

@[simp] theorem haRefuse_winPend {r : BitVec 2} : (haRefuse p r s).winPend = s.winPend := haAnswer_winPend

@[simp] theorem mcWrite_winPend {z : Line} {po : BitVec 2} : (mcWrite a z po s).winPend = s.winPend :=
  (only_mcWrite (Nat.and_self _) (.refl _ s)).winPend_eq rfl
@[simp] theorem mcPut_winPend {z : Line} {po hv : BitVec 2} : (mcPut a z po hv s).winPend = s.winPend :=
  (only_mcPut (Nat.and_self _) (.refl _ s)).winPend_eq rfl
@[simp] theorem mcMerge_winPend {z : Line} {m : BitVec 64} {po : BitVec 2} : (mcMerge a z m po s).winPend = s.winPend :=
  (only_mcMerge (Nat.and_self _) (.refl _ s)).winPend_eq rfl
@[simp] theorem mcDone_winPend {r : McReq} : (mcDone r s).winPend = s.winPend :=
  (only_mcDone (Nat.and_self _) (.refl _ s)).winPend_eq rfl
@[simp] theorem mcAdmit_winPend {cls : TClass} : (mcAdmit a k cls n s).winPend = s.winPend :=
  (only_mcAdmit (Nat.and_self _) (.refl _ s)).winPend_eq rfl
@[simp] theorem haError_winPend {w : Bool} : (haError k c a w n s).winPend = s.winPend :=
  (only_haError (Nat.and_self _) (.refl _ s)).winPend_eq rfl
@[simp] theorem atomFlush_winPend : (atomFlush a s).winPend = s.winPend :=
  (only_atomFlush (Nat.and_self _) (.refl _ s)).winPend_eq rfl
@[simp] theorem setDir_winPend {e : DirEntry} : (s.setDir k e).winPend = s.winPend :=
  (only_State_setDir (Nat.and_self _) (.refl _ s)).winPend_eq rfl
@[simp] theorem haEnd_winPend {e : DirEntry} : (haEnd x e s).winPend = s.winPend :=
  (only_haEnd (Nat.and_self _) (.refl _ s)).winPend_eq rfl
@[simp] theorem haAwaitAck_winPend {e : DirEntry} : (haAwaitAck x e s).winPend = s.winPend :=
  (only_haAwaitAck (Nat.and_self _) (.refl _ s)).winPend_eq rfl
@[simp] theorem haFlushData_winPend : (haFlushData x s).2.winPend = s.winPend :=
  (only_haFlushData (Nat.and_self _) (.refl _ s)).winPend_eq rfl
@[simp] theorem dirChoose_winPend : (dirChoose a s).2.winPend = s.winPend :=
  (only_dirChoose (Nat.and_self _) (.refl _ s)).winPend_eq rfl
@[simp] theorem rawAccess_winPend : (rawAccess c s).winPend = s.winPend :=
  (only_rawAccess (Nat.and_self _) (.refl _ s)).winPend_eq rfl
@[simp] theorem setHaTx_winPend : (setHaTx x s).winPend = s.winPend := rfl
@[simp] theorem setHaReq_winPend {q' : HaReq} : (setHaReq q q' s).winPend = s.winPend := rfl
@[simp] theorem ncAgain_winPend {z : Line} {po : BitVec 2} : (ncAgain p z po s).winPend = s.winPend := rfl

@[simp] theorem atomDone_winPend {z : Line} {po : BitVec 2} : (atomDone p z po s).winPend = s.winPend := by
  unfold atomDone
  dsimp only
  split
  · simp
  · rw [haAnswer_winPend]
    split
    · exact mcPut_winPend
    · split
      · exact mcWrite_winPend
      · -- The oldest line of the buffer makes room.
        dsimp only
        split
        · rfl
        · split
          · exact mcWrite_winPend
          · rfl

@[simp] theorem haFinish_winPend : (haFinish x s).winPend = s.winPend := by
  unfold haFinish
  dsimp only
  split
  · rw [haEnd_winPend]
    split
    · exact mcWrite_winPend
    · rfl
  · split
    all_goals simp only [ite_winPend, haAwaitAck_winPend, haEnd_winPend, haAnswer_winPend, atomDone_winPend, ncAgain_winPend,
      ite_self]

theorem haSelfRef_winPend : (haSelfRef x p s).winPend = s.winPend := by
  rw [haSelfRef, haEnd_winPend, haRefuse_winPend]

@[simp] theorem haAdvance_winPend : (haAdvance a s).winPend = s.winPend := by
  unfold haAdvance
  split
  · rfl
  · next x0 _ =>
    split
    · rfl
    · have hflush : (if x0.mem = 0 then haFlushData x0 s else (x0, s)).2.winPend = s.winPend := by
        split
        · exact haFlushData_winPend
        · rfl
      generalize (if x0.mem = 0 then haFlushData x0 s else (x0, s)) = y at hflush
      obtain ⟨x, u⟩ := y
      rw [← hflush]
      dsimp only
      split
      · next kind p _ _ =>
        generalize (if (decide (kind = 2) && !atomMemory x.line (setHaTx x u)) = true then 0 else kind) = ask
        split
        · exact haSelfRef_winPend
        · split
          · rfl
          · split
            · -- An atomic on a line in the atomic buffer.
              split
              · simp
              · simp
            · -- A write, which the controller may take at once.
              split
              · simp
              · simp
            · simp
      · exact haFinish_winPend

theorem haSnoop_winPend {op : Op} : (haSnoop op d x s).2.winPend = s.winPend := by
  unfold haSnoop
  dsimp only
  split
  · rfl
  · exact sendDown_winPend

@[simp] theorem haSnoops_winPend {op : Op} {ds : List Nat} : (haSnoops op ds x s).2.winPend = s.winPend := by
  unfold haSnoops
  exact List.foldlRecOn ds _ (motive := fun y : HaTx × State => y.2.winPend = s.winPend) rfl
    fun y hy d _ => haSnoop_winPend.trans hy

@[simp] theorem haRecall_winPend {all : Bool} : (haRecall k all s).winPend = s.winPend := by
  unfold haRecall
  extract_lets e a u x v
  have hv : v.winPend = s.winPend := setDir_winPend
  clear_value v
  have hsnoops : ∀ y, y = (if all = true then haSnoops .rcl (List.range 12) x v
      else if e.ex = true then haSnoops .rcl (pvDies e.pv) x v
      else haSnoops .inv (pvDies e.pv) x v) → y.2.winPend = s.winPend := by
    rintro _ rfl
    split
    · exact haSnoops_winPend.trans hv
    · split
      · exact haSnoops_winPend.trans hv
      · exact haSnoops_winPend.trans hv
  exact haAdvance_winPend.trans (hsnoops _ rfl)

theorem haBegin_winPend : (haBegin q s).1.winPend = s.winPend := by
  unfold haBegin
  extract_lets p a r st e stale openTx go read busy
  have hopen : ∀ u, (openTx u).2.winPend = u.winPend := fun _ => rfl
  have hgo : ∀ x u, (go x u).winPend = u.winPend := fun _ _ => haAdvance_winPend
  have hread : ∀ x u, (read x u).winPend = u.winPend := fun x u => by simp [read, hgo]
  have hbusy : ∀ u, (busy u).winPend = u.winPend := fun u => by
    unfold busy
    split
    · exact setDir_winPend
    · rfl
  have hbegin : (openTx (busy s)).2.winPend = s.winPend := (hopen _).trans (hbusy s)
  clear_value openTx go read busy
  split
  · dsimp only
    split
    · exact haRecall_winPend
    · rfl
  · split
    · split
      case h_5 => exact (hgo _ _).trans (hopen _)
      case h_6 => exact (hgo _ _).trans ((hopen _).trans atomFlush_winPend)
      all_goals
        dsimp only
        have hchoose := dirChoose_winPend (a := a) (s := s)
        split
        · rfl
        · split
          · next hc => rw [hc] at hchoose; exact hchoose
          · next hc => rw [hc] at hchoose; exact haRecall_winPend.trans hchoose
          · next hc =>
            rw [hc] at hchoose
            exact (hgo _ _).trans ((hopen _).trans (setDir_winPend.trans (atomFlush_winPend.trans hchoose)))
    · generalize openTx (busy s) = y at hbegin
      obtain ⟨x, u⟩ := y
      rw [← hbegin]
      dsimp only
      split
      · split
        · refine (hgo _ _).trans ?_
          split
          · exact haSnoop_winPend
          · rfl
        · exact (hread _ _).trans haSnoops_winPend
        · split
          · exact (hgo _ _).trans haSnoops_winPend
          · exact (hread _ _).trans haSnoops_winPend
        · exact (hgo _ _).trans haSnoops_winPend
        · exact hgo _ _
        · exact hgo _ _
        · exact hgo _ _
        · exact (hgo _ _).trans haSnoops_winPend
      · split
        all_goals exact (hgo _ _).trans haSnoops_winPend

theorem haTry_winPend : (haTry q s).winPend = s.winPend := by
  unfold haTry
  dsimp only
  split
  · rfl
  · split
    · simp
    · have hbegin := haBegin_winPend (q := q) (s := s)
      split
      · next hb => rw [hb] at hbegin; exact hbegin
      · next hb =>
        rw [hb] at hbegin
        simpa using hbegin

theorem haPass_winPend : (haPass s).winPend = s.winPend :=
  foldl_keeps State.winPend (fun _ _ => foldl_keeps State.winPend (fun _ _ => haTry_winPend) _ _) _ _

theorem haRetry_winPend : (haRetry s).winPend = s.winPend :=
  foldl_keeps State.winPend (fun _ _ => by simp) _ _

@[simp] theorem testStep_winPend : (testStep c s).winPend = s.winPend := by
  unfold testStep
  dsimp only
  split
  · rfl
  · split
    · exact haRecall_winPend
    · exact rawAccess_winPend

theorem testCmd_winPend : (testCmd c s).winPend = s.winPend := by
  simp [testCmd]

theorem testWrite_winPend {v : Word} : (testWrite k v s).winPend = s.winPend := by
  unfold testWrite
  split
  · rfl
  · split
    · exact testCmd_winPend
    all_goals rfl

theorem testGo_winPend : (testGo s).winPend = s.winPend := by
  unfold testGo
  split
  · rfl
  · dsimp only
    split
    · exact testStep_winPend
    · exact (foldl_keeps State.winPend (fun _ _ => testWrite_winPend) _ _).trans testStep_winPend

theorem haPump_winPend : (haPump s).winPend = s.winPend := by
  rw [haPump, testGo_winPend, (only_haCount (Nat.and_self _) (.refl _ _)).winPend_eq rfl,
    iter_keeps State.winPend fun _ _ => haPass_winPend, haRetry_winPend]

theorem mcWritesGo_winPend : (mcWritesGo s).winPend = s.winPend := by
  rw [mcWritesGo, haPump_winPend]
  refine foldl_keeps State.winPend (fun t r => ?_) _ _
  split
  · split
    · split
      · simp
      · rfl
    · rfl
  · rfl

theorem creditsRefill_winPend : (creditsRefill s).winPend = s.winPend := by
  rw [creditsRefill, haPump_winPend, mcWritesGo_winPend, (only_mcRelease (Nat.and_self _) (.refl _ _)).winPend_eq rfl]
  exact iter_keeps State.winPend (fun _ _ => (only_creditBoundary (Nat.and_self _) (.refl _ _)).winPend_eq rfl) _ _

end

end Sys2Proof.Machine

/-! # Route tables, epochs and the slot cycle

COPY and the toggle run through the windows one by one, a check judges the staged tables, and a boundary takes the changes of
OPEN that wait for it. -/

namespace Sys2Proof.Machine

section
variable {s t : State} {n w : Nat} {v : Word}

/-! ## The tables of the windows (R283, R284) -/

theorem stageWin_f_self {c : Word} : (stageWin w c s).f F.FAB_RSV_CFG_BASE w = fget F.FAB_RSV_CFG_BASE c := by
  rw [stageWin, State.setB, State.f_setF_ne _ _ _ _ _ _ (by decide) (by decide), State.f, State.r_setR_self]

theorem stageWin_f_ne {c : Word} (h : n ≠ w) : (stageWin w c s).f F.FAB_RSV_CFG_BASE n = s.f F.FAB_RSV_CFG_BASE n := by
  rw [stageWin, State.setB, State.f_setF_ix _ _ _ h, State.f, State.r_setR_ix _ _ _ h, State.f]

/-- The current fields of window w copied to its staged ones. -/
def copyWin (w : Nat) (t : State) : State := stageWin w (smapGet (fun _ => 0) t.winCur w) t

theorem iter_copyWin_winCur : (iter n copyWin s).winCur = s.winCur :=
  iter_keeps (F := copyWin) State.winCur (fun _ _ => rfl) n s

theorem iter_copyWin_routes : (iter n copyWin s).routes = s.routes :=
  iter_keeps (F := copyWin) State.routes (fun _ _ => rfl) n s

theorem iter_copyWin_base (h : w < n) : (iter n copyWin s).f F.FAB_RSV_CFG_BASE w = winF F.FAB_RSV_CFG_BASE w s := by
  induction n with
  | zero => exact absurd h (Nat.not_lt_zero w)
  | succ n ih =>
    rw [iter_succ]
    rcases eq_or_ne w n with rfl | hne
    · rw [copyWin, stageWin_f_self, iter_copyWin_winCur, winF]
    · exact (stageWin_f_ne hne).trans (ih (by omega))

/-- The current and the staged fields of window w exchanged. -/
def swapWin (w : Nat) (t : State) : State :=
  stageWin w (smapGet (fun _ => 0) t.winCur w)
    { t with winCur := smapSet (fun _ => 0) t.winCur w (fset F.FAB_RSV_CFG_OPEN (t.r .FAB_RSV_CFG w) 0) }

theorem swapWin_winF {f : Fld} : winF f n (swapWin w s) = fget f (smapGet (fun _ => 0)
    (smapSet (fun _ => 0) s.winCur w (fset F.FAB_RSV_CFG_OPEN (s.r .FAB_RSV_CFG w) 0)) n) := rfl

theorem swapWin_self : (swapWin w s).f F.FAB_RSV_CFG_BASE w = winF F.FAB_RSV_CFG_BASE w s ∧
    winF F.FAB_RSV_CFG_BASE w (swapWin w s) = s.f F.FAB_RSV_CFG_BASE w := by
  refine ⟨stageWin_f_self, ?_⟩
  rw [swapWin_winF, smapGet_set_self, fget_fset_ne _ _ _ _ (by decide) (by decide), State.f]

theorem swapWin_ne (h : n ≠ w) : (swapWin w s).f F.FAB_RSV_CFG_BASE n = s.f F.FAB_RSV_CFG_BASE n ∧
    winF F.FAB_RSV_CFG_BASE n (swapWin w s) = winF F.FAB_RSV_CFG_BASE n s := by
  refine ⟨stageWin_f_ne h, ?_⟩
  rw [swapWin_winF, smapGet_set_ne _ _ h, winF]

/-- The windows from n on are as they were. -/
theorem iter_swapWin_rest (h : n ≤ w) : (iter n swapWin s).f F.FAB_RSV_CFG_BASE w = s.f F.FAB_RSV_CFG_BASE w ∧
    winF F.FAB_RSV_CFG_BASE w (iter n swapWin s) = winF F.FAB_RSV_CFG_BASE w s := by
  induction n with
  | zero => exact ⟨rfl, rfl⟩
  | succ n ih =>
    obtain ⟨hstaged, hcur⟩ := ih (by omega)
    obtain ⟨hstaged', hcur'⟩ := swapWin_ne (s := iter n swapWin s) (show w ≠ n by omega)
    rw [iter_succ]
    exact ⟨hstaged'.trans hstaged, hcur'.trans hcur⟩

/-- The windows below n are exchanged. -/
theorem iter_swapWin_base (h : w < n) : (iter n swapWin s).f F.FAB_RSV_CFG_BASE w = winF F.FAB_RSV_CFG_BASE w s ∧
    winF F.FAB_RSV_CFG_BASE w (iter n swapWin s) = s.f F.FAB_RSV_CFG_BASE w := by
  induction n with
  | zero => exact absurd h (Nat.not_lt_zero w)
  | succ n ih =>
    rw [iter_succ]
    rcases eq_or_ne w n with rfl | hne
    · obtain ⟨hstaged, hcur⟩ := iter_swapWin_rest (s := s) (Nat.le_refl w)
      obtain ⟨hstaged', hcur'⟩ := swapWin_self (w := w) (s := iter w swapWin s)
      exact ⟨hstaged'.trans hcur, hcur'.trans hstaged⟩
    · obtain ⟨hstaged, hcur⟩ := ih (by omega)
      obtain ⟨hstaged', hcur'⟩ := swapWin_ne (s := iter n swapWin s) hne
      exact ⟨hstaged'.trans hstaged, hcur'.trans hcur⟩

/-- The check of all windows for two equal values, from their equality. -/
theorem windows_all {f g : Nat → Nat} (h : ∀ w, w < 64 → f w = g w) :
    ((List.range 64).all fun w => f w == g w) = true :=
  List.all_eq_true.mpr fun w hw => beq_iff_eq.mpr (h w (List.mem_range.mp hw))

/-! ## Route tables (R283, R289) -/

theorem routeWrite_stages (hb : s.b F.FAB_RT_STATUS_BUSY 0 = false) (he : s.f F.FAB_RT_SEL_EPOCH 0 = otherEpoch s)
    (hd : s.f F.FAB_RT_SEL_DOMAIN 0 ≤ 12) (hr : s.f F.FAB_RT_SEL_ROUTER 0 < meshRouters (s.f F.FAB_RT_SEL_DOMAIN 0))
    (hw : stagedWritable s = true) :
    routeOf (otherEpoch s) (s.f F.FAB_RT_SEL_DOMAIN 0) (s.f F.FAB_RT_SEL_ROUTER 0) (s.f F.FAB_RT_SEL_DEST 0)
      (routeWrite v s) = v.toNat % 8 := by
  have hlegal : ¬(12 < s.f F.FAB_RT_SEL_DOMAIN 0 ∨
      meshRouters (s.f F.FAB_RT_SEL_DOMAIN 0) ≤ s.f F.FAB_RT_SEL_ROUTER 0 ∨ (!stagedWritable s) = true) := by
    simp only [hw, Bool.not_true, Bool.false_eq_true, or_false]
    omega
  simp only [routeWrite, hb, he, hlegal, Bool.false_eq_true, ne_eq, not_true_eq_false, if_false, routeOf,
    smapGet_set_self]

theorem routeWrite_refused (hb : s.b F.FAB_RT_STATUS_BUSY 0 = false) (he : s.f F.FAB_RT_SEL_EPOCH 0 ≠ otherEpoch s) :
    routeWrite v s = s.setB F.FAB_STATUS_CFGERR 0 true := by
  simp only [routeWrite, hb, he, Bool.false_eq_true, ne_eq, not_false_eq_true, if_true, if_false]

theorem exec_copyDone (hb : s.b F.FAB_RT_STATUS_BUSY 0 = true) (hw : stagedWritable s = true) :
    exec .copyDone s = .next
      ((iter 64 copyWin { s with routes := copyRoutes (1 - otherEpoch s) s.routes }).setB F.FAB_RT_STATUS_BUSY 0 false) := by
  show execCopyDone s = _
  simp only [execCopyDone, hb, hw, Bool.not_true, Bool.false_eq_true, if_false, if_true]
  rfl

theorem epochWrite_checks (hv : vset F.FAB_EPOCH_SWITCH v = true) (hb : s.b F.FAB_RT_STATUS_BUSY 0 = false) :
    (epochWrite v s).epochCheck = true := by
  have hb' : (s.wr .FAB_EPOCH 0 v).b F.FAB_RT_STATUS_BUSY 0 = false := by
    rwa [State.b, State.wr, State.setR_f_reg (by decide), ← State.b]
  simp only [epochWrite, hv, hb', Bool.not_false, Bool.and_self, if_true]

/-! ## The check of the staged tables (R284) -/

theorem routeBad_of_routes (h : t.routes = s.routes) (e d x fuel r prev : Nat) :
    routeBad e d x t fuel r prev = routeBad e d x s fuel r prev := by
  have hroute : ∀ r, routeOf e d r x t = routeOf e d r x s := fun r => by rw [routeOf, h, routeOf]
  induction fuel generalizing r prev with
  | zero => rfl
  | succ fuel ih => simp only [routeBad, hroute, ih]

/-- The state in which a check has been taken up. -/
def checkTaken (s : State) : State := { s with epochCheck := false }

theorem badRoute_checkTaken : badRoute (checkTaken s) = badRoute s := by
  have hepoch : otherEpoch (checkTaken s) = otherEpoch s := rfl
  simp only [badRoute, hepoch, routeBad_of_routes (s := s) (t := checkTaken s) rfl]

/-- What a check that has found no fault of a window makes of the routes: error 3, with the first that fails, or PENDING. -/
def routesChecked : Option (Nat × Nat × Nat) → State → State
  | some (d, r, x), s =>
    (((s.setF F.FAB_EPOCH_ERR 0 3).setF F.FAB_CHECK_INFO_DOMAIN 0 d).setF F.FAB_CHECK_INFO_ROUTER 0 r).setF
      F.FAB_CHECK_INFO_AGENT 0 x
  | none, s => s.setB F.FAB_EPOCH_PENDING 0 true

theorem routesChecked_pending {o : Option (Nat × Nat × Nat)} (hp : s.b F.FAB_EPOCH_PENDING 0 = false) :
    (routesChecked o s).b F.FAB_EPOCH_PENDING 0 = o.isNone := by
  cases o with
  | some x =>
    simp (disch := decide) only [routesChecked, State.b_setF_reg, State.b_setF_ne]
    exact hp
  | none => exact State.b_setB_self (by decide) (by decide)

theorem routesChecked_err {o : Option (Nat × Nat × Nat)} :
    (routesChecked o s).f F.FAB_EPOCH_ERR 0 = if o.isNone then s.f F.FAB_EPOCH_ERR 0 else 3 := by
  cases o with
  | some x =>
    simp (disch := decide) only [routesChecked, State.f_setF_reg, State.f_setF_lt]
    rfl
  | none => exact State.f_setF_ne _ _ _ _ _ _ (by decide) (by decide)

theorem failWins_effect {e : Nat} (he : e < 8) (hw : w < 64) : (failWins e w w s).f F.FAB_EPOCH_ERR 0 = e ∧
    (failWins e w w s).f F.FAB_CHECK_INFO_WIN_A 0 = w ∧ (failWins e w w s).f F.FAB_CHECK_INFO_WIN_B 0 = w ∧
    (failWins e w w s).b F.FAB_EPOCH_PENDING 0 = s.b F.FAB_EPOCH_PENDING 0 := by
  unfold failWins
  refine ⟨?_, ?_, State.f_setF_lt (by decide) hw, ?_⟩
  · rw [State.f_setF_reg _ (by decide), State.f_setF_reg _ (by decide), State.f_setF_lt (by decide) he]
  · rw [State.f_setF_ne _ _ _ _ _ _ (by decide) (by decide), State.f_setF_lt (by decide) hw]
  · rw [State.b_setF_reg (by decide), State.b_setF_reg (by decide), State.b_setF_ne (by decide) (by decide)]

section
variable (hc : s.epochCheck = true)
include hc

theorem epochCheck_inFlight (hf : (!stagedWritable s || s.b F.FAB_EPOCH_PENDING 0) = true) :
    exec .epochCheckDone s = .next ((checkTaken s).setF F.FAB_EPOCH_ERR 0 1) := by
  show execEpochCheckDone s = _
  unfold execEpochCheckDone
  rw [if_neg (by simp [hc])]
  exact if_pos hf

variable (hw : stagedWritable s = true) (hp : s.b F.FAB_EPOCH_PENDING 0 = false)
include hw hp

theorem epochCheck_badWindow (hb : (List.range 64).find? (fun w => winBad w s) = some w) :
    exec .epochCheckDone s = .next (failWins 2 w w (checkTaken s)) := by
  show execEpochCheckDone s = _
  unfold execEpochCheckDone
  rw [if_neg (by simp [hc])]
  extract_lets u
  have hw' : stagedWritable u = true := hw
  have hp' : u.b F.FAB_EPOCH_PENDING 0 = false := hp
  have hb' : (List.range 64).find? (fun w => winBad w u) = some w := hb
  have hu : checkTaken s = u := rfl
  rw [hu]
  clear_value u
  simp only [hw', hp', hb', Bool.not_true, Bool.or_self, Bool.false_eq_true, if_false]

variable (hb : (List.range 64).find? (fun w => winBad w s) = none)
  (hoverlap : ∀ i j, (i, j) ∈ winPairs → i < j → winMeet i j 0 s = false)
include hb hoverlap

/-- With no fault of a window, the check goes on to the routes, and then to the half-width bridges. -/
theorem epochCheck_routes (hadjoin : ∀ i j, (i, j) ∈ winPairs → winMeet i j 1 s = false) :
    exec .epochCheckDone s = .next (routesChecked (badRoute s) (checkTaken s)) := by
  show execEpochCheckDone s = _
  unfold execEpochCheckDone
  rw [if_neg (by simp [hc]), ← badRoute_checkTaken]
  extract_lets u
  have hw' : stagedWritable u = true := hw
  have hp' : u.b F.FAB_EPOCH_PENDING 0 = false := hp
  have hb' : (List.range 64).find? (fun w => winBad w u) = none := hb
  have hoverlap' : ∀ i j, (i, j) ∈ winPairs → i < j → winMeet i j 0 u = false := hoverlap
  have hadjoin' : ∀ i j, (i, j) ∈ winPairs → winMeet i j 1 u = false := hadjoin
  have hu : checkTaken s = u := rfl
  rw [hu]
  clear_value u
  simp only [hw', hp', hb', Bool.not_true, Bool.or_self, Bool.false_eq_true, if_false]
  split
  · next i j hfind =>
    have hmeet := List.find?_some hfind
    simp only [Bool.and_eq_true, decide_eq_true_eq] at hmeet
    obtain ⟨hlt, hmeet⟩ := hmeet
    rw [hoverlap' i j (List.mem_of_find?_eq_some hfind) hlt] at hmeet
    cases hmeet
  · cases badRoute u with
    | some x => rfl
    | none =>
      dsimp only
      split
      · next i j hfind =>
        have hmeet := List.find?_some hfind
        simp only [hadjoin' i j (List.mem_of_find?_eq_some hfind), Bool.and_false, Bool.false_eq_true] at hmeet
      · rfl

end

/-! ## The toggle (R284) -/

/-- CUR toggled, with the dies that keep their epoch. -/
def curToggled (s : State) : State :=
  let t := (s.setB F.FAB_EPOCH_CUR 0 (!s.b F.FAB_EPOCH_CUR 0)).setB F.FAB_EPOCH_PENDING 0 false
  { t with epochLag := (List.range 12).filter fun n => !bridgeActive n t && !t.epochLag.contains n }

theorem curToggled_regs : (curToggled s).regs =
    ((s.setB F.FAB_EPOCH_CUR 0 (!s.b F.FAB_EPOCH_CUR 0)).setB F.FAB_EPOCH_PENDING 0 false).regs := rfl

theorem curToggled_pending : (curToggled s).b F.FAB_EPOCH_PENDING 0 = false := by
  rw [State.b_of_regs curToggled_regs]
  exact State.b_setB_self (by decide) (by decide)

theorem curToggled_cur : (curToggled s).b F.FAB_EPOCH_CUR 0 = !s.b F.FAB_EPOCH_CUR 0 := by
  rw [State.b_of_regs curToggled_regs, State.setB, State.b_setF_ne (by decide) (by decide)]
  exact State.b_setB_self (by decide) (by decide)

theorem curToggled_base : (curToggled s).f F.FAB_RSV_CFG_BASE w = s.f F.FAB_RSV_CFG_BASE w ∧
    winF F.FAB_RSV_CFG_BASE w (curToggled s) = winF F.FAB_RSV_CFG_BASE w s := by
  refine ⟨?_, rfl⟩
  rw [State.f_of_regs curToggled_regs, State.setB, State.f_setF_reg _ (by decide), State.setB,
    State.f_setF_reg _ (by decide)]

theorem exec_epochToggle (hp : s.b F.FAB_EPOCH_PENDING 0 = true) :
    exec .epochToggle s = .next (iter 12 halfConflict (iter 64 swapWin (curToggled s))) := by
  show execEpochToggle s = _
  unfold execEpochToggle
  rw [if_neg (by simp [hp])]
  rfl

theorem iter_halfConflict_only : Only 0x800000000000000000000000000000000004 s (iter n halfConflict s) :=
  only_iter (fun _ _ ht => only_halfConflict (Nat.and_self _) ht) (.refl _ s)

theorem iter_halfConflict_winF {f : Fld} : winF f w (iter n halfConflict s) = winF f w s := by
  rw [winF, iter_keeps (F := halfConflict) State.winCur (fun _ _ => rfl), winF]

theorem iter_halfConflict_base : (iter n halfConflict s).f F.FAB_RSV_CFG_BASE w = s.f F.FAB_RSV_CFG_BASE w :=
  iter_halfConflict_only.f_eq rfl w

theorem iter_swapWin_only : Only 0x2000000000000000000000000020004 s (iter n swapWin s) :=
  only_iter (fun _ _ ht => only_stageWin (by rfl) (only_winCur (by rfl) ht _)) (.refl _ s)

/-- An exchange of the tables touches only the windows and the bridges' status. -/
theorem toggle_epoch {f : Fld} (hf : f.reg = .FAB_EPOCH) :
    (iter 12 halfConflict (iter 64 swapWin s)).b f 0 = s.b f 0 := by
  rw [iter_halfConflict_only.b_eq (by rw [hf]; rfl), iter_swapWin_only.b_eq (by rw [hf]; rfl)]

/-! ## The boundary of a slot cycle (R274, R282) -/

section
variable {o : Bool} {inst : Option Word} {l : SMap (Option (Bool × Option Word))}

theorem smapGet_filter_all {β : Type} {d : Nat → β} {p : Nat × β → Bool} {m : SMap β}
    (h : ∀ x ∈ m, x.1 = w → p x = true) :
    smapGet d (m.filter p) w = smapGet d m w := by
  induction m with
  | nil => rfl
  | cons x m ih =>
    obtain ⟨k, y⟩ := x
    have ih := ih fun x hx => h x (List.mem_cons_of_mem _ hx)
    rcases hp : p (k, y) with _ | _
    · have hk : k ≠ w := fun e => by simp [h (k, y) List.mem_cons_self e] at hp
      rw [List.filter_cons_of_neg (by simp [hp]), ih, smapGet, if_neg hk]
    · rw [List.filter_cons_of_pos hp, smapGet, smapGet, ih]

theorem smapGet_filter_none {β : Type} {d : Nat → β} {p : Nat × β → Bool} {m : SMap β}
    (h : ∀ x ∈ m, x.1 = w → p x = false) :
    smapGet d (m.filter p) w = d w := by
  induction m with
  | nil => rfl
  | cons x m ih =>
    obtain ⟨k, y⟩ := x
    have ih := ih fun x hx => h x (List.mem_cons_of_mem _ hx)
    rcases hp : p (k, y) with _ | _
    · rw [List.filter_cons_of_neg (by simp [hp]), ih]
    · have hk : k ≠ w := fun e => by simp [h (k, y) List.mem_cons_self e] at hp
      rw [List.filter_cons_of_pos hp, smapGet, if_neg hk, ih]

/-- One waiting change of OPEN, taken when it is ready. -/
def takeOpen (t : State) (x : Nat × Option (Bool × Option Word)) : State :=
  match x.2 with
  | some (b, _) => if winReady x.2 t then t.setB F.FAB_RSV_CFG_OPEN x.1 b else t
  | none => t

theorem windowsChange_eq (h : s.winOff = []) : windowsChange s =
    { s.winPend.foldl takeOpen s with winPend := s.winPend.filter fun x => !winReady x.2 s } := by
  have hoff : { s with winOff := [] } = s := by rw [← h]
  simp only [windowsChange, h, List.foldl_nil, hoff]
  rfl

theorem setB_tb {b : Bool} : (s.setB F.FAB_RSV_CFG_OPEN w b).tb = s.tb := State.r_setF_reg (by decide)

theorem takeOpen_tb {x : Nat × Option (Bool × Option Word)} : (takeOpen t x).tb = t.tb := by
  unfold takeOpen
  split
  · split
    · exact setB_tb
    · rfl
  · rfl

theorem winReady_of_tb {x : Option (Bool × Option Word)} (h : t.tb = s.tb) : winReady x t = winReady x s := by
  unfold winReady
  rw [h]

theorem takeOpen_ne {x : Nat × Option (Bool × Option Word)} (h : w ≠ x.1) :
    (takeOpen t x).b F.FAB_RSV_CFG_OPEN w = t.b F.FAB_RSV_CFG_OPEN w := by
  unfold takeOpen
  split
  · split
    · rw [State.b, State.setB, State.f_setF_ix _ _ _ h, State.b]
    · rfl
  · rfl

theorem takeOpen_self : (takeOpen t (w, some (o, inst))).b F.FAB_RSV_CFG_OPEN w =
    if winReady (some (o, inst)) t then o else t.b F.FAB_RSV_CFG_OPEN w := by
  simp only [takeOpen]
  split
  · exact State.b_setB_self (by decide) (by decide)
  · rfl

/-- When one change waits for a window, however often it is listed, its OPEN is what the boundary leaves. -/
theorem foldl_takeOpen {v : Bool} (hall : ∀ x ∈ l, x.1 = w → x.2 = some (o, inst)) (hv : t.b F.FAB_RSV_CFG_OPEN w = v)
    (ho : winReady (some (o, inst)) t = true → o = v) : (l.foldl takeOpen t).b F.FAB_RSV_CFG_OPEN w = v := by
  induction l generalizing t with
  | nil => exact hv
  | cons x l ih =>
    refine ih (fun y hy => hall y (List.mem_cons_of_mem _ hy)) ?_ (by rwa [winReady_of_tb takeOpen_tb])
    obtain ⟨n, y⟩ := x
    rcases eq_or_ne w n with rfl | hne
    · obtain rfl : y = _ := hall (w, y) List.mem_cons_self rfl
      rw [takeOpen_self]
      split
      · next hr => exact ho hr
      · exact hv
    · exact (takeOpen_ne hne).trans hv

/-- A change that waits and is ready is taken. -/
theorem foldl_takeOpen_ready (hall : ∀ x ∈ l, x.1 = w → x.2 = some (o, inst))
    (hget : smapGet (fun _ => none) l w = some (o, inst)) (hr : winReady (some (o, inst)) t = true) :
    (l.foldl takeOpen t).b F.FAB_RSV_CFG_OPEN w = o := by
  induction l generalizing t with
  | nil => cases hget
  | cons x l ih =>
    have hrest : ∀ y ∈ l, y.1 = w → y.2 = some (o, inst) := fun y hy => hall y (List.mem_cons_of_mem _ hy)
    obtain ⟨n, y⟩ := x
    rw [List.foldl_cons]
    rcases eq_or_ne n w with rfl | hne
    · obtain rfl : y = _ := hall (n, y) List.mem_cons_self rfl
      refine foldl_takeOpen hrest ?_ fun _ => rfl
      rw [takeOpen_self, if_pos hr]
    · rw [smapGet, if_neg hne] at hget
      exact ih hrest hget (by rwa [winReady_of_tb takeOpen_tb])

/-- The state in which SLOT and CYCLES have moved on. -/
def slotTaken (s : State) : State := (s.setF F.FAB_SLOT_SLOT 0 0).wrapInc F.FAB_SLOT_CYCLES 0

theorem exec_slotCycleBoundary : exec .slotCycleBoundary s = .next (creditsRefill (windowsChange (slotTaken s))) := rfl

theorem slotTaken_only : Only (regBit .FAB_SLOT) s (slotTaken s) :=
  only_State_wrapInc (Nat.and_self _) (only_State_setF (Nat.and_self _) (.refl _ s))

theorem slotTaken_slot : (slotTaken s).f F.FAB_SLOT_SLOT 0 = 0 := by
  rw [slotTaken, State.wrapInc, State.f_setF_ne _ _ _ _ _ _ (by decide) (by decide), State.f_setF_lt (by decide) (by decide)]

theorem slotTaken_cycles :
    (slotTaken s).f F.FAB_SLOT_CYCLES 0 = (s.f F.FAB_SLOT_CYCLES 0 + 1) % (fldMax F.FAB_SLOT_CYCLES + 1) := by
  rw [slotTaken, State.wrapInc, State.f_setF_self _ _ _ _ (by decide), State.f_setF_ne _ _ _ _ _ _ (by decide) (by decide)]
  rfl

theorem slotTaken_tb : (slotTaken s).tb = s.tb := slotTaken_only.2.2 _ rfl 0

theorem windowsChange_only : Only 0x2000000000000000000000000020004 s (windowsChange s) :=
  only_windowsChange (Nat.and_self _) (.refl _ s)

theorem creditsRefill_only :
    Only 0x302000000000000000000000000000000000042af0f12d800000000000004002601e s (creditsRefill s) :=
  only_creditsRefill (Nat.and_self _) (.refl _ s)

/-- What the boundary does after SLOT and CYCLES have moved on leaves FAB_SLOT alone. -/
theorem boundary_slot {f : Fld} (hf : f.reg = .FAB_SLOT) :
    (creditsRefill (windowsChange (slotTaken s))).f f 0 = (slotTaken s).f f 0 := by
  rw [creditsRefill_only.f_eq (by rw [hf]; rfl), windowsChange_only.f_eq (by rw [hf]; rfl)]

/-- The changes that wait stay, but those that the boundary takes. -/
theorem boundary_winPend (h : s.winOff = []) : (creditsRefill (windowsChange (slotTaken s))).winPend =
    s.winPend.filter fun x => !winReady x.2 s := by
  rw [creditsRefill_winPend, windowsChange_eq (s := slotTaken s) h]
  simp only [winReady_of_tb slotTaken_tb]
  rfl

theorem boundary_open (h : s.winOff = []) : (creditsRefill (windowsChange (slotTaken s))).b F.FAB_RSV_CFG_OPEN w =
    (s.winPend.foldl takeOpen (slotTaken s)).b F.FAB_RSV_CFG_OPEN w := by
  rw [creditsRefill_only.b_eq rfl, windowsChange_eq (s := slotTaken s) h]
  rfl

/-- All changes that wait for window w are one, however often it is listed. -/
theorem waiting_iff : (l.all fun x => x.1 != w || x.2 == some (o, inst)) = true ↔
    ∀ x ∈ l, x.1 = w → x.2 = some (o, inst) := by
  simp only [List.all_eq_true, Bool.or_eq_true, bne_iff_ne, beq_iff_eq, ne_eq, Decidable.imp_iff_not_or]

end

end

/-- Settles O22: each clause is one command, and what it leaves in the tables, FAB_EPOCH and the windows has its own lemma
above. The model's choices behind it: COPY of the windows and the writes for the current epoch (log 73), the check of the
staged set (log 75), and the toggle of all dies at one instant (log 77). -/
theorem fabricTables : Obligations.FabricTables := by
  refine ⟨fun a v s ha hb he hd hr hw => gives_of_allowed rfl ha (routeWrite_stages (s := s.answer 0) hb he hd hr hw),
    fun a v s ha hb he => gives_of_allowed rfl ha ?_, fun a v s ha hv => gives_of_allowed rfl ha ?_, fun s hb hw => ?_,
    fun a v s ha hv hb => gives_of_allowed rfl ha (epochWrite_checks (s := s.answer 0) hv hb), fun s hc hf => ?_,
    fun w s hc hw hp hb => ?_, fun s hc hw hp hb hmeet => ?_, fun s hp => ?_, fun w o i s _ _ hoff hget hall hr => ?_,
    fun w o i s _ _ hoff hget hall hr => ?_⟩
  · rw [routeWrite_refused (s := s.answer 0) hb he]
    exact ⟨State.b_setB_self (by decide) (by decide), rfl⟩
  · rw [rtCmdWrite, if_pos hv]
    exact State.b_setB_self (by decide) (by decide)
  · refine ⟨_, exec_copyDone hb hw, State.b_setB_self (by decide) (by decide), windows_all fun w hlt => ?_, ?_⟩
    · rw [State.setB, State.f_setF_reg _ (by decide), iter_copyWin_base hlt]
      rfl
    · exact (State.setB_routes ..).trans iter_copyWin_routes
  · refine ⟨_, epochCheck_inFlight hc hf, rfl, State.f_setF_lt (by decide) (by decide), ?_⟩
    exact State.b_setF_ne (by decide) (by decide)
  · have hlt : w < 64 := List.mem_range.mp (List.mem_of_find?_eq_some hb)
    obtain ⟨herr, ha, hb', hpend⟩ := failWins_effect (s := checkTaken s) (show 2 < 8 by decide) hlt
    exact ⟨_, epochCheck_badWindow hc hw hp hb, herr, ha, hb', hpend.trans hp⟩
  · have hmeet' : ∀ i j, (i, j) ∈ winPairs → (i < j → winMeet i j 0 s = false) ∧ winMeet i j 1 s = false :=
      fun i j hm => by simpa using List.any_eq_false.mp hmeet (i, j) hm
    exact ⟨_, epochCheck_routes hc hw hp hb (fun i j hm => (hmeet' i j hm).1) fun i j hm => (hmeet' i j hm).2,
      routesChecked_pending hp, routesChecked_err⟩
  · refine ⟨_, exec_epochToggle hp, ?_, ?_, List.all_eq_true.mpr fun w hw => ?_⟩
    · exact (toggle_epoch rfl).trans curToggled_pending
    · exact (toggle_epoch rfl).trans curToggled_cur
    · obtain ⟨hstaged, hcur⟩ := iter_swapWin_base (s := curToggled s) (List.mem_range.mp hw)
      obtain ⟨hbase, hwin⟩ := curToggled_base (w := w) (s := s)
      simp only [iter_halfConflict_winF, iter_halfConflict_base, hstaged, hcur, hbase, hwin, BEq.rfl, Bool.and_self]
  · rw [waiting_iff] at hall
    refine ⟨_, exec_slotCycleBoundary, (boundary_slot rfl).trans slotTaken_slot,
      (boundary_slot rfl).trans slotTaken_cycles, ?_, ?_⟩
    · rw [boundary_open hoff]
      exact foldl_takeOpen_ready hall hget ((winReady_of_tb slotTaken_tb).trans hr)
    · rw [boundary_winPend hoff]
      exact smapGet_filter_none fun x hx hw => by rw [hall x hx hw, hr, Bool.not_true]
  · rw [waiting_iff] at hall
    have hwait : winReady (some (o, some i)) s = false := decide_eq_false (by omega)
    refine ⟨_, exec_slotCycleBoundary, ?_, ?_⟩
    · rw [boundary_open hoff]
      refine foldl_takeOpen hall (slotTaken_only.b_eq rfl w) fun h => ?_
      rw [winReady_of_tb (s := s) slotTaken_tb, hwait] at h
      cases h
    · rw [boundary_winPend hoff]
      exact (smapGet_filter_all fun x hx hw => by rw [hall x hx hw, hwait, Bool.not_false]).trans hget

end Sys2Proof.Machine


/-! # The fabric probes

A bat starts and stops by its triggers, and while it runs its counters and its stage take in what it matches. The records
leave a domain's FIFO in pairs for DRAM, and software reads the buffer word by word. -/

namespace Sys2Proof.Machine

section
variable {s t : State} {f : Fld} {a : Access} {p : Packet} {v : Word} {i j n d c m src : Nat}
  {startOk stopOk enters : Bool} {x y : BatRec}

/-! ## Writes of BAT_CTRL (R291, R295) -/

/-- A write of BAT_CTRL sets RUN (bit 63). -/
theorem write_run {locked : Bool} {old : Word} : bit (Reg.write .BAT_CTRL locked old v) 63 = bit v 63 := by
  have hmask : (Row.mask ⟨63, 63, .rwh, 0⟩).getLsbD 63 = true ∧ (Row.mask ⟨57, 56, .rw, 1⟩).getLsbD 63 = false ∧
      (Row.mask ⟨55, 52, .rw, 0xf⟩).getLsbD 63 = false ∧ (Row.mask ⟨49, 48, .rw, 3⟩).getLsbD 63 = false ∧
      (Row.mask ⟨8, 0, .rw, 0⟩).getLsbD 63 = false := by decide
  obtain ⟨hrun, hworlds, hclass, hdir, hpoint⟩ := hmask
  have hrows : Reg.rows .BAT_CTRL = [⟨63, 63, .rwh, 0⟩, ⟨57, 56, .rw, 1⟩, ⟨55, 52, .rw, 0xf⟩, ⟨49, 48, .rw, 3⟩,
    ⟨8, 0, .rw, 0⟩] := rfl
  simp only [Reg.write, hrows, List.foldl_cons, List.foldl_nil, Row.write, bit, BitVec.getLsbD_or, BitVec.getLsbD_and,
    BitVec.getLsbD_not, hrun, hworlds, hclass, hdir, hpoint]
  simp

/-- A check of POINT leaves every field but BADPOINT and LOST. -/
theorem batPointCheck_f (hf : f.reg = .BAT_STATUS → f.hi < 3) : (batPointCheck i s).f f j = s.f f j := by
  unfold batPointCheck
  split
  · rfl
  · by_cases hreg : f.reg = .BAT_STATUS
    · have hlow := hf hreg
      exact State.f_setF_ne _ _ _ _ _ _ (by omega) (Or.inl hlow)
    · exact State.f_setF_reg _ hreg _ _ _

/-- The state in which BAT_CTRL(i) has been written and its POINT checked. -/
def ctrlWritten (i : Nat) (v : Word) (s : State) : State := batPointCheck i (s.wr .BAT_CTRL i v)

theorem ctrlWritten_f (hctrl : f.reg ≠ .BAT_CTRL) (hf : f.reg = .BAT_STATUS → f.hi < 3) :
    (ctrlWritten i v s).f f j = s.f f j :=
  (batPointCheck_f hf).trans (State.setR_f_reg hctrl)

theorem ctrlWritten_running : (ctrlWritten i v s).b F.BAT_STATUS_RUNNING j = s.b F.BAT_STATUS_RUNNING j :=
  congrArg (· != 0) (ctrlWritten_f (by decide) (by decide))

theorem ctrlWritten_run : (ctrlWritten i v s).b F.BAT_CTRL_RUN i = vset F.BAT_CTRL_RUN v := by
  have hcheck : (ctrlWritten i v s).b F.BAT_CTRL_RUN i = (s.wr .BAT_CTRL i v).b F.BAT_CTRL_RUN i :=
    congrArg (· != 0) (batPointCheck_f (by decide))
  rw [hcheck, State.b_eq_bit rfl, State.wr, State.r_setR_self, write_run, vset, fget_flag rfl]

theorem vset_fset {b : Bool} (hf : f.hi < 64) (hlo : f.lo ≤ f.hi) : vset f (fset f v (if b then 1 else 0)) = b := by
  have hw : 1 < 2 ^ (f.hi + 1 - f.lo) := Nat.one_lt_two_pow (by omega)
  rw [vset, fget_fset _ _ _ hf]
  cases b <;> simp [Nat.mod_eq_of_lt hw]

theorem vset_run_one : vset F.BAT_CTRL_RUN (fset F.BAT_CTRL_RUN v 1) = true :=
  vset_fset (b := true) (by decide) (by decide)

theorem vset_run_zero : vset F.BAT_CTRL_RUN (fset F.BAT_CTRL_RUN v 0) = false :=
  vset_fset (b := false) (by decide) (by decide)

theorem batCtrlWrite_arms (hv : vset F.BAT_CTRL_RUN v = true) : batCtrlWrite i v s = batArms i (ctrlWritten i v s) :=
  if_pos hv

theorem batCtrlWrite_halts (hv : vset F.BAT_CTRL_RUN v = false) : batCtrlWrite i v s = batHalt i (ctrlWritten i v s) :=
  if_neg (by simp [hv])

/-! ## Triggers (R295, R296) -/

theorem batStart_f (hf : f.reg ≠ .BAT_STATUS) : (batStart i s).f f j = s.f f j :=
  (State.f_setF_reg _ hf _ _ _).trans (State.f_setF_reg _ hf _ _ _)

theorem batStart_b (hf : f.reg ≠ .BAT_STATUS) : (batStart i s).b f j = s.b f j := congrArg (· != 0) (batStart_f hf)

theorem batStart_status :
    (batStart i s).b F.BAT_STATUS_RUNNING i = true ∧ (batStart i s).b F.BAT_STATUS_TRIGGERED i = true :=
  ⟨(State.b_setF_ne (by decide) (by decide)).trans (State.b_setB_self (by decide) (by decide)),
    State.b_setB_self (by decide) (by decide)⟩

theorem batHalt_status : (batHalt i s).b F.BAT_CTRL_RUN i = false ∧ (batHalt i s).b F.BAT_STATUS_RUNNING i = false := by
  have hregs : (batHalt i s).regs = ((s.setB F.BAT_STATUS_RUNNING i false).setB F.BAT_CTRL_RUN i false).regs := rfl
  simp only [State.b_of_regs hregs]
  exact ⟨State.b_setB_self (by decide) (by decide),
    (State.b_setF_reg (by decide)).trans (State.b_setB_self (by decide) (by decide))⟩

/-- A trigger that is not the bat's stop trigger starts the bat that waits for it, and does nothing else. -/
theorem batTrig_noStop (hstop : (stopOk && batSrc (s.f F.BAT_TRIG_STOP_SRC i) == src) = false) :
    batTrig i src startOk stopOk s =
      if startOk && batArmed i s && batSrc (s.f F.BAT_TRIG_START_SRC i) == src then batStart i s else s := by
  unfold batTrig
  extract_lets u
  have hu : u.f F.BAT_TRIG_STOP_SRC i = s.f F.BAT_TRIG_STOP_SRC i := by
    unfold u
    split
    · exact batStart_f (by decide)
    · rfl
  rw [hu, hstop]
  rfl

/-- A bat whose stop source is software is stopped by no trigger of another source. -/
theorem noStop_of_software (hstop : batSrc (s.f F.BAT_TRIG_STOP_SRC i) = 0) (hsrc : 0 ≠ src) :
    (stopOk && batSrc (s.f F.BAT_TRIG_STOP_SRC i) == src) = false := by
  simp [hstop, hsrc]

/-- A bat that runs takes no start trigger. -/
theorem batTrig_running (hrun : s.b F.BAT_STATUS_RUNNING i = true)
    (hstop : (stopOk && batSrc (s.f F.BAT_TRIG_STOP_SRC i) == src) = false) : batTrig i src startOk stopOk s = s := by
  simp [batTrig_noStop hstop, batArmed, hrun]

theorem batArms_starts (hon : batDieOn i s = true) (harm : batArmed i s = true)
    (hsrc : batSrc (s.f F.BAT_TRIG_START_SRC i) = 0) : batArms i s = batStart i s := by
  simp [batArms, hon, batTrig_noStop, harm, hsrc]

theorem batArms_waits (hsrc : batSrc (s.f F.BAT_TRIG_START_SRC i) ≠ 0) : batArms i s = s := by
  simp [batArms, batTrig_noStop, hsrc]

/-- A bat that is armed with a software source starts at once. -/
theorem batArm_starts (hrunning : s.b F.BAT_STATUS_RUNNING i = false) (hon : batDieOn i s = true)
    (hsrc : batSrc (s.f F.BAT_TRIG_START_SRC i) = 0) :
    batCtrlWrite i (fset F.BAT_CTRL_RUN v 1) s = batStart i (ctrlWritten i (fset F.BAT_CTRL_RUN v 1) s) := by
  rw [batCtrlWrite_arms vset_run_one, batArms_starts]
  · rwa [batDieOn, dieOn, ctrlWritten_f (by decide) (by decide), ← dieOn, ← batDieOn]
  · rw [batArmed, ctrlWritten_run, ctrlWritten_running, vset_run_one, hrunning]
    rfl
  · rwa [ctrlWritten_f (by decide) (by decide)]

/-- A bat that is armed with another source waits for its start trigger. -/
theorem batArm_waits (hsrc : batSrc (s.f F.BAT_TRIG_START_SRC i) ≠ 0) :
    batCtrlWrite i (fset F.BAT_CTRL_RUN v 1) s = ctrlWritten i (fset F.BAT_CTRL_RUN v 1) s := by
  rw [batCtrlWrite_arms vset_run_one, batArms_waits]
  rwa [ctrlWritten_f (by decide) (by decide)]

/-- A calendar trigger of the bat's start entry starts it. -/
theorem batTrigger_starts (hout : s.out.contains (.batTrig i n) = true) (hon : batDieOn i s = true)
    (harm : batArmed i s = true) (hsrc : batSrc (s.f F.BAT_TRIG_START_SRC i) = 1) (hn : s.f F.BAT_TRIG_START_ENTRY i = n)
    (hstop : batSrc (s.f F.BAT_TRIG_STOP_SRC i) ≠ 1) :
    exec (.batTrigger i n) s = .next (batStart i (unsent (.batTrig i n) s)) := by
  have htake : s.take (.batTrig i n) = unsent (.batTrig i n) s := if_pos hout
  have hon' : batDieOn i (unsent (.batTrig i n) s) = true := hon
  have harm' : batArmed i (unsent (.batTrig i n) s) = true := harm
  have hf (f : Fld) : (unsent (.batTrig i n) s).f f i = s.f f i := rfl
  show execBatTrigger i n s = _
  rw [execBatTrigger, if_pos hout, htake]
  dsimp only
  rw [hon', batTrig_noStop (by simp [hf, hstop])]
  simp [harm', hf, hsrc, hn]

/-! ## Matched flits (R292 to R294, R297) -/

/-- What a counter of event ev adds for a flit that the bat's filter passes. -/
def evCount (p : Packet) (waited xfers ev : Nat) : Nat :=
  if ev = 5 then xfers
  else if ev = 1 then 1 else if ev = 2 then (if p.data then 1 else 0)
  else if ev = 3 then (if p.resp = 0 then 0 else 1) else if ev = 4 then waited else 0

/-- Only the live counters differ from those of s, and counter 0 of bat i is at m. -/
structure Counted (i m : Nat) (s t : State) : Prop where
  live : t = { s with batLive := t.batLive }
  count : batCnt i 0 t = m

section
variable (hi : i < 96) (hrun : s.b F.BAT_STATUS_RUNNING i = true) (hstop : batSrc (s.f F.BAT_TRIG_STOP_SRC i) = 0)
include hi hrun hstop

/-- Without a counter for its stop trigger, a bat that runs only counts. -/
theorem batCount_running : batCount i c n s = setBatCnt i c (batCnt i c s + n) s := by
  have hset : setBatCnt i c (batCnt i c s + n) s =
    { s with batLive := (setBatCnt i c (batCnt i c s + n) s).batLive } := by rw [setBatCnt, if_pos hi]
  have htrig : batTrig i 2 true true (setBatCnt i c (batCnt i c s + n) s) = setBatCnt i c (batCnt i c s + n) s := by
    rw [hset]
    exact batTrig_running hrun (noStop_of_software hstop (by decide))
  rw [batCount, htrig, ite_self]

theorem Counted.first (hm : m < 2 ^ 48 - 1) (hc : batCnt i 0 s = m) : Counted i (m + 1) s (batCount i 0 1 s) := by
  rw [batCount_running hi hrun hstop, setBatCnt, if_pos hi]
  refine ⟨rfl, ?_⟩
  rw [batCnt, if_pos hi, smapGet_set_self, hc, BitVec.toNat_ofNat]
  omega

theorem Counted.next (h : Counted i m s t) (hc : c ≠ 0) : Counted i m s (batCount i c n t) := by
  obtain ⟨hlive, hcount⟩ := h
  have hrun' : t.b F.BAT_STATUS_RUNNING i = true := by rw [hlive]; exact hrun
  have hstop' : batSrc (t.f F.BAT_TRIG_STOP_SRC i) = 0 := by rw [hlive]; exact hstop
  rw [batCount_running hi hrun' hstop', setBatCnt, if_pos hi]
  refine ⟨by rw [hlive], ?_⟩
  rw [batCnt, if_pos hi, smapGet_set_ne _ _ (by omega), ← hcount, batCnt, if_pos hi]

/-- The counters of a bat whose counter 0 counts matches, after a match. -/
theorem counted_iter {w xf : Nat} (hev : batEv i 0 s = 1) (hm : batCnt i 0 s < 2 ^ 48 - 1) (k : Nat) :
    Counted i (batCnt i 0 s + 1) s (iter (k + 1) (fun c t => batCount i c (evCount p w xf (batEv i c t)) t) s) := by
  induction k with
  | zero =>
    show Counted _ _ _ (batCount i 0 (evCount p w xf (batEv i 0 s)) s)
    rw [hev]
    exact Counted.first hi hrun hstop hm rfl
  | succ k ih =>
    rw [iter_succ]
    exact ih.next hi hrun hstop (Nat.succ_ne_zero k)

end

/-- A matched flit reaches a bat that runs. -/
theorem exec_batMatch_running {w xf : Nat} (hf : batFilter i p enters s = true) (hon : batDieOn i s = true)
    (hrun : s.b F.BAT_STATUS_RUNNING i = true) :
    exec (.batMatch i p enters w xf) s = .next (batTrig i 3 false true (batStageIt i p enters
      (iter 4 (fun c t => batCount i c (evCount p w xf (batEv i c t)) t) s))) := by
  show execBatMatch i p enters w xf s = _
  simp only [execBatMatch, hf, hon, hrun, Bool.and_self, if_true, batTrig_running (stopOk := false) hrun rfl, Bool.not_true,
    Bool.false_eq_true, if_false]
  rfl

/-- A flit that the filter rejects leaves a bat that does not run as it is. -/
theorem exec_batMatch_idle {w xf : Nat} (hf : batFilter i p enters s = false) (hrun : s.b F.BAT_STATUS_RUNNING i = false) :
    exec (.batMatch i p enters w xf) s = .next s := by
  show execBatMatch i p enters w xf s = _
  simp [execBatMatch, hf, hrun]

/-- A record joins a stage that is empty, while no stop trigger counts the records. -/
theorem batStageIt_first (hstage : smapGet (fun _ => []) s.batStage i = []) (hpost : smapGet (fun _ => 0) s.batPost i = 0) :
    batStageIt i p enters s = { s with
      batStage := smapSet (fun _ => []) s.batStage i [batRecord i (smapGet (fun _ => 0) s.batGap i) p enters s]
      batGap := smapSet (fun _ => 0) s.batGap i 0 } := by
  simp [batStageIt, hstage, hpost]

theorem batMatch_counts {w xf : Nat} (hi : i < 96) (hf : batFilter i p enters s = true) (hon : batDieOn i s = true)
    (hrun : s.b F.BAT_STATUS_RUNNING i = true) (hev : batEv i 0 s = 1) (hstop : batSrc (s.f F.BAT_TRIG_STOP_SRC i) = 0)
    (hm : batCnt i 0 s < 2 ^ 48 - 1) (hstage : smapGet (fun _ => []) s.batStage i = [])
    (hpost : smapGet (fun _ => 0) s.batPost i = 0) :
    Gives (.batMatch i p enters w xf) s fun t => batCnt i 0 t = batCnt i 0 s + 1 ∧
      smapGet (fun _ => []) t.batStage i = [batRecord i (smapGet (fun _ => 0) s.batGap i) p enters s] := by
  obtain ⟨hlive, hcount⟩ := counted_iter (p := p) (w := w) (xf := xf) hi hrun hstop hev hm 3
  refine ⟨_, exec_batMatch_running hf hon hrun, ?_⟩
  generalize iter (3 + 1) (fun c t => batCount i c (evCount p w xf (batEv i c t)) t) s = u at hlive hcount
  have hrecord : batRecord i (smapGet (fun _ => 0) u.batGap i) p enters u =
    batRecord i (smapGet (fun _ => 0) s.batGap i) p enters s := by rw [hlive]; rfl
  rw [batStageIt_first (by rw [hlive]; exact hstage) (by rw [hlive]; exact hpost), hrecord, batTrig_running]
  · exact ⟨hcount, by simp only [smapGet_set_self]⟩
  · rw [hlive]
    exact hrun
  · rw [hlive]
    exact noStop_of_software hstop (by decide)

/-! ## The copy of the counters (R294) -/

/-- Counter c copied, while its die is ON. -/
def copyCnt (c : Nat) (t : State) : State :=
  if dieOn (c / 32) t then t.setR .BAT_CNT c (smapGet (fun _ => 0) t.batLive c) else t

theorem exec_batCounterCopy : exec .batCounterCopy s = .next (iter 384 copyCnt s) := rfl

theorem copyCnt_batLive : (copyCnt c s).batLive = s.batLive := by
  unfold copyCnt
  split <;> rfl

theorem copyCnt_dieOn : dieOn n (copyCnt c s) = dieOn n s := by
  unfold copyCnt
  split
  · rw [dieOn, State.setR_f_reg (by decide), dieOn]
  · rfl

theorem copyCnt_self (hon : dieOn (c / 32) s = true) : (copyCnt c s).r .BAT_CNT c = smapGet (fun _ => 0) s.batLive c := by
  rw [copyCnt, if_pos hon, State.r_setR_self]

theorem copyCnt_ne (h : j ≠ c) : (copyCnt c s).r .BAT_CNT j = s.r .BAT_CNT j := by
  unfold copyCnt
  split
  · exact State.r_setR_ix _ _ _ h _
  · rfl

theorem iter_copyCnt (h : c < n) (hon : dieOn (c / 32) s = true) :
    (iter n copyCnt s).r .BAT_CNT c = smapGet (fun _ => 0) s.batLive c := by
  induction n with
  | zero => exact absurd h (Nat.not_lt_zero c)
  | succ n ih =>
    rw [iter_succ]
    rcases eq_or_ne c n with rfl | hne
    · rw [copyCnt_self ((iter_keeps (dieOn (c / 32)) (fun _ _ => copyCnt_dieOn) c s).trans hon),
        iter_keeps State.batLive (fun _ _ => copyCnt_batLive)]
    · rw [copyCnt_ne hne]
      exact ih (by omega)

/-! ## Trace writes (R299) -/

/-- With nothing in the stages of its bats, a domain's buffer takes nothing. -/
theorem batDrain_none (h : (s.batStage.find? fun z => batDomain z.1 == d && !z.2.isEmpty) = none) : batDrain d s = s := by
  unfold batDrain
  split
  · rfl
  · rw [h]

theorem sentSome_of_out {g : Packet → Bool} (h : t.out = s.out) : sentSome g t = sentSome g s := by
  rw [sentSome, h, sentSome]

/-- A request of an initiator of the IOD is sent as it was opened, but for its tag and its epoch. -/
theorem openTx_sends {own : TxOwner} {g : Packet → Bool} (hsrc : 240 ≤ p.src)
    (hg : ∀ k e, g { p with tag := k, epoch := e } = true) : sentSome g (openTx own p s) = true := by
  have hup : ¬p.src < 240 := by omega
  simp [openTx, hup, State.sendP, State.send, sentSome, hg]

theorem openTx_batFifo {own : TxOwner} : (openTx own p s).batFifo = s.batFifo := by
  obtain ⟨-, parts, -⟩ := only_openTx (own := own) (p := p) (Nat.and_self _) (.refl _ s)
  obtain ⟨-, -, -, -, -, hfifo⟩ := parts .bats rfl
  exact hfifo

theorem openTx_f {own : TxOwner} (hf : (0x428000000000000000000000002100c : Nat).testBit f.reg.mark = false) :
    (openTx own p s).f f j = s.f f j := (only_openTx (Nat.and_self _) (.refl _ s)).f_eq hf j

/-- The WrNC of 64 bytes that takes records x and y of domain d to DRAM. -/
def traceWrNC (d : Nat) (x y : BatRec) (s : State) : Packet :=
  let addr := (s.f F.BAT_TRACE_BASE_VAL d + s.f F.BAT_TRACE_PTR_WRPTR d) * 64
  { op := .wrNC, cls := .mg, w := true, src := 0x143, dst := 0x100 + mcOf addr, addr := addr, data := true,
    mask := BitVec.ofNat 64 (2 ^ 64 - 1), payload := BitVec.ofNat 512 (batBytes x + batBytes y * 2 ^ 256) }

/-- The state in which a pair of records has left the FIFO of domain d. -/
def pairSent (d : Nat) (x y : BatRec) (l : List BatRec) (s : State) : State :=
  openTx (.bat d) (traceWrNC d x y s) { s with batFifo := smapSet (fun _ => []) s.batFifo d l }

theorem pairSent_f {l : List BatRec} (hf : (0x428000000000000000000000002100c : Nat).testBit f.reg.mark = false) :
    (pairSent d x y l s).f f j = s.f f j := openTx_f hf

theorem exec_batTraceWrite_pair {l : List BatRec} (hroom : batRoom d s = true) (hdest : s.b F.BAT_TRACE_CTRL_DEST d = true)
    (hstage : (s.batStage.find? fun z => batDomain z.1 == d && !z.2.isEmpty) = none)
    (hfifo : smapGet (fun _ => []) s.batFifo d = x :: y :: l)
    (hlimit : s.f F.BAT_TRACE_BASE_VAL d + s.f F.BAT_TRACE_PTR_WRPTR d < s.f F.BAT_TRACE_LIMIT_VAL d) :
    exec (.batTraceWrite d) s =
      .next ((pairSent d x y l s).setF F.BAT_TRACE_PTR_WRPTR d (s.f F.BAT_TRACE_PTR_WRPTR d + 1)) := by
  simp only [batRoom, Bool.and_eq_true, Bool.not_eq_true'] at hroom
  obtain ⟨⟨hfull, herr⟩, -⟩ := hroom
  show execBatTraceWrite d s = _
  rw [execBatTraceWrite, batDrain_none hstage]
  dsimp only
  rw [hfifo]
  dsimp only
  rw [if_neg (by simp [hdest, hfull, herr]), if_pos]
  · rfl
  · exact hlimit.trans_eq (pairSent_f (f := F.BAT_TRACE_LIMIT_VAL) rfl).symm

/-! ## Reads of the buffer (R300) -/

theorem batWordAt_cases : batWordAt d s = match s.f F.BAT_TRACE_PTR_RDPTR d / 8 % 4 with
    | 0 => (batRecordAt d s).w0
    | 1 => (batRecordAt d s).w1
    | 2 => (batRecordAt d s).w2
    | _ => (batRecordAt d s).w3 := by
  have hlt : s.f F.BAT_TRACE_PTR_RDPTR d / 8 % 4 < 4 := Nat.mod_lt _ (by decide)
  unfold batWordAt
  generalize s.f F.BAT_TRACE_PTR_RDPTR d / 8 % 4 = k at hlt ⊢
  interval_cases k <;> rfl

theorem batBufPop_resp : (batBufPop a d s).resp =
    ⟨0, if a.world = false ∧ bit (batRecordAt d s).w2 61 = true ∧ effSNI s = false then 0 else batWordAt d s⟩ := by
  have hresp : (batBufPop a d s).resp =
      ⟨0, if !a.world && bit (batRecordAt d s).w2 61 && !effSNI s then 0 else batWordAt d s⟩ := by
    rw [batWordAt_cases]
    rfl
  simp only [hresp, Bool.and_eq_true, Bool.not_eq_true', and_assoc]

theorem batBufSize_bounds : 0 < 32 * batBufSize d ∧ 32 * batBufSize d ≤ 2 ^ 16 := by
  unfold batBufSize
  split <;> decide

theorem batBufPop_rdptr : (batBufPop a d s).f F.BAT_TRACE_PTR_RDPTR d =
    (s.f F.BAT_TRACE_PTR_RDPTR d + 8) % (32 * batBufSize d) := by
  obtain ⟨hpos, hle⟩ := batBufSize_bounds (d := d)
  have hregs : (batBufPop a d s).regs =
    (s.setF F.BAT_TRACE_PTR_RDPTR d ((s.f F.BAT_TRACE_PTR_RDPTR d + 8) % (32 * batBufSize d))).regs := rfl
  rw [State.f_of_regs hregs]
  exact State.f_setF_lt (f := F.BAT_TRACE_PTR_RDPTR) (by decide) (Nat.lt_of_lt_of_le (Nat.mod_lt _ hpos) hle)

theorem batBufPop_batBuf : (batBufPop a d s).batBuf = s.batBuf := rfl

end

/-- Settles O47: the read answers the word at RDPTR or, where the record is hidden, 0. -/
theorem traceBufferReads : Obligations.TraceBufferReads := by
  intro a d s _ ha
  have hresp := batBufPop_resp (a := a) (d := d) (s := s.answer 0)
  exact gives_of_allowed rfl ha ⟨congrArg Resp.code hresp, congrArg Resp.data hresp, batBufPop_rdptr, batBufPop_batBuf⟩

/-- Settles O23: each clause is one command, and what it leaves in the bat's status, its counters and stage, the FIFO and the
buffer has its own lemma above. The way of the records through stage, buffer and pointers is the model's choice (log 83). -/
theorem probes : Obligations.Probes := by
  refine ⟨fun a i v s ha hrun hrunning hon hsrc => gives_of_allowed rfl ha ?_,
    fun a i v s ha hrunning hsrc => gives_of_allowed rfl ha ?_, fun a i v s ha => gives_of_allowed rfl ha ?_,
    fun i p e w xf s hi hf hon hrun hev hstop hm hstage hpost =>
      batMatch_counts hi hf hon hrun hev hstop (by omega) hstage hpost,
    fun i p e w xf s hrun hf => ⟨s, exec_batMatch_idle hf hrun, rfl⟩,
    fun i n s hout hon harm hsrc hn hstop => ⟨_, batTrigger_starts hout hon harm hsrc hn hstop, ?_⟩,
    fun c s hc hon => ⟨_, exec_batCounterCopy, iter_copyCnt hc hon⟩,
    fun d x y s hroom hdest hstage hfifo hlimit hn =>
      ⟨_, exec_batTraceWrite_pair hroom hdest hstage hfifo hlimit, ?_, ?_, ?_⟩,
    fun a d s ha hw _ hword => gives_of_allowed rfl ha ⟨?_, batBufPop_rdptr⟩⟩
  · obtain ⟨hstart, htrig⟩ := batStart_status (i := i) (s := ctrlWritten i (fset F.BAT_CTRL_RUN v 1) (s.answer 0))
    rw [batArm_starts (s := s.answer 0) hrunning hon hsrc]
    exact ⟨(batStart_b (by decide)).trans (ctrlWritten_run.trans vset_run_one), hstart, htrig⟩
  · rw [batArm_waits (s := s.answer 0) hsrc]
    exact ⟨ctrlWritten_run.trans vset_run_one, ctrlWritten_running.trans hrunning⟩
  · rw [batCtrlWrite_halts vset_run_zero]
    exact batHalt_status
  · obtain ⟨hstart, htrig⟩ := batStart_status (i := i) (s := unsent (.batTrig i n) s)
    exact ⟨hstart, htrig, rfl⟩
  · exact State.f_setF_lt (by decide) (Nat.lt_trans (Nat.succ_lt_succ hn) (by decide))
  · rw [State.setF_batFifo, pairSent, openTx_batFifo, smapGet_set_self]
  · rw [sentSome_of_out (State.setF_out ..)]
    refine openTx_sends (p := traceWrNC d x y s) (show 240 ≤ 0x143 by decide) fun k e => ?_
    simp only [traceWrNC, BEq.rfl, Bool.and_self]
  · have hword' : batWordAt d s = (batRecordAt d s).w1 := by simp only [batWordAt_cases, hword]
    rw [batBufPop_resp, if_neg (by simp [hw])]
    exact congrArg (Resp.mk 0) hword'

end Sys2Proof.Machine
